-- ==== Sys2Proof/Word.lean ====
section
/-!
DEFINITION. The word types of the model and their plainest arithmetic: bytes, 32-bit register words,
64-bit record words, and little-endian assembly of bytes (R4, R37, R76).
-/
namespace Sys2Proof

/-- A byte of memory. -/
abbrev Byte := BitVec 8
/-- A control-register word: every control register is 32 bits wide (R37). -/
abbrev W32 := BitVec 32
/-- A word of a command record (R76). -/
abbrev W64 := BitVec 64

/-- The unsigned number that a list of bytes spells, least significant byte first (R37, R76, R94). -/
def leNat : List Byte → Nat
  | [] => 0
  | b :: bs => b.toNat + 256 * leNat bs

/-- The `n` little-endian bytes of a number. -/
def leBytes : Nat → Nat → List Byte
  | 0, _ => []
  | n + 1, v => BitVec.ofNat 8 v :: leBytes n (v / 256)

/-- Bits [hi:lo] of a number (R4's bit-range notation). -/
def bitsOf (v hi lo : Nat) : Nat := (v / 2 ^ lo) % 2 ^ (hi + 1 - lo)

/-- The signed value of the low `w` bits of `v`, in two's complement. -/
def signedOf (w v : Nat) : Int :=
  if v % 2 ^ w < 2 ^ (w - 1) then (v % 2 ^ w : Nat) else (v % 2 ^ w : Nat) - (2 ^ w : Nat)

end Sys2Proof
end

