-- ==== Sys2Proof/Syntax.lean ====
section
/-!
DEFINITION. The commands the block takes: `Instr`, one constructor per row of spec/opcode_table.json, with the
row's operands, and the small enumerations those operands are drawn from. What the outside world answers (data a
host read returns, what an ECC check finds, a draw of the entropy source) is an operand of the row it arrives with.
-/
namespace Sys2Proof

/-- Who writes a register or orders an operation: the physical function, a virtual function 1–8, a keeper pair,
or the management port (R55, R149, R268, R315, R421, R447, R472). -/
inductive Master where
  | pf
  | vf (k : Fin 8)
  | kp (p : Fin 8)
  | mgmt
  deriving DecidableEq, Repr

/-- The register block kinds of R37; `talIo` is the I/O die's TAL_ block inside MGT_ (R391). -/
inductive BlkKind where
  | tile | mxe | vxe | ste | talTile | ldgTile | wch
  | nme | kvf | talStack | ldgStack
  | lnk | cle | talLg
  | kpr | talKp
  | ctx | que | rng | ses | pfx | flt | talPart
  | pcx | mgt | sec | otp | pwr | img | talIo
  deriving DecidableEq, Repr

/-- One instance of a register block: its kind and the number of its unit or partition (R37). -/
structure BlkId where
  kind : BlkKind
  unit : Nat
  deriving DecidableEq, Repr

/-- The units whose clocks scale (R30). -/
inductive FreqUnit where
  | tile (t : Fin 48)
  | pair (p : Fin 8)
  deriving DecidableEq, Repr

/-- An end of a handshake channel (R17–R20, R31): a router's port as R399 numbers it, a tile's own end of its local
port, an edge port of a base die, and the units on a half's edge trunk. -/
inductive ChanEnd where
  | router (t : Fin 48) (port : Fin 7)
  | tile (t : Fin 48)
  | edge (s : Fin 12) (port : Fin 2)
  | lg (g : Fin 6)
  | kp (p : Fin 8)
  | io (h : Fin 2)
  | l3 (h : Fin 2)
  deriving DecidableEq, Repr

/-- A channel, from its sending to its receiving end: one hop of a path. -/
abbrev Hop := ChanEnd × ChanEnd

/-- A unit that sends and receives transfers on the mesh spine (R21): a tile, a stack interface, a link group, a keeper pair,
a half's L3, and the I/O die by its bridge to a half. -/
inductive Port where
  | tile (t : Fin 48)
  | stack (k : Fin 12)
  | lg (g : Fin 6)
  | kp (p : Fin 8)
  | l3 (h : Fin 2)
  | io (h : Fin 2)
  deriving DecidableEq, Repr

/-- A transfer on the mesh spine, from one unit to another (R21); `resp` marks a router's unit-off response (R24). -/
structure Xfer where
  src  : Port
  dst  : Port
  resp : Bool
  deriving DecidableEq, Repr

/-- Where a doorbell came from (R73, R444): a write of QUE_DB, or an access to BAR4 by a function: a write of a slot's
first word, of another word of its stride, or a read of a word. -/
inductive DbPath where
  | queDb (m : Master) (p : Fin 8) (q : Nat)
  | bar4 (fn : Fin 9) (slot : Nat)
  | bar4Other (fn : Fin 9) (off : Nat)
  | bar4Read (fn : Fin 9) (off : Nat)
  deriving DecidableEq, Repr

/-- What a check of the error-correcting code finds in a line (R258). -/
inductive EccFind where
  | clean
  | corrected
  | uncorrectable
  deriving DecidableEq, Repr

/-- The outcome the far side gives a request of a stream (R231). -/
inductive FarReply where
  | ok (data : List Byte)
  | memError
  | unitOff
  | addressDecode
  | protection
  deriving DecidableEq, Repr

/-- A request that is no stream's: the other sources that R227 calls best-effort. -/
inductive ArbSource where
  | stream (t : Fin 48) (sid : Fin 16) (seq : Nat)
  | host
  | keeper (p : Fin 8)
  | queueFetch (p : Fin 8)
  | mark (p : Fin 8)
  | mover
  | ledger
  deriving DecidableEq, Repr

/-- The atomic operations of R339. -/
inductive AtomOp where
  | add | maxU | minU | and | or | xor | swap
  | cas (expect : Nat)
  deriving DecidableEq, Repr

/-- A keeper core's access after its own translation (R374, R337). -/
inductive KeeperOp where
  | load (addr : Nat) (bytes : Nat)
  | store (addr : Nat) (data : List Byte)
  | fence
  | amo (op : AtomOp) (addr : Nat) (bytes : Nat) (v : Nat)
  deriving DecidableEq, Repr

/-- The engines of R78 that have watchdogs and engine resets, and the keeper pair (R421, R423). -/
inductive Eng where
  | mxe | vxe | ste | nme | cle | kpr
  deriving DecidableEq, Repr

/-- The rungs of the ladder (R425). -/
inductive Rung where
  | context (c : Nat)
  | engine (e : Eng) (unit : Nat)
  | partition
  | chip
  deriving DecidableEq, Repr

/-- What orders a fog that is not a pin edge (R397). -/
inductive FogOrder where
  | fire
  | thaw
  deriving DecidableEq, Repr

/-- The level of an Auteha RESET (R450). -/
inductive ResetLevel where
  | engine (part : Fin 8) (engine : Nat) (unit : Nat)
  | partition (part : Fin 8)
  | chip
  | powerCycle
  deriving DecidableEq, Repr

/-- Which stage a link frame is at when it is received: what FEC and CRC make of it (R356). -/
inductive FrameCheck where
  | good (fecSymbols : Nat)
  | fecFailed
  | crcFailed (fecSymbols : Nat)
  deriving DecidableEq, Repr

/-- The header and payload of a link frame (R354, R355). `half` is the half of the group that `sgrp` numbers and
`spray` tells a spray write from an ordered one: the header's table names no bit for either (log entry 41). A reply
names the group it is for in `half` and `sgrp`. -/
structure Frame where
  typ   : BitVec 4
  src   : BitVec 4
  half  : Bool
  sgrp  : BitVec 3
  spray : Bool
  lamp  : Bool
  epoch : BitVec 8
  ngM1  : BitVec 3
  dpart : BitVec 3
  seq   : W32
  lseq  : BitVec 9
  addr  : BitVec 48
  data  : List Byte
  deriving DecidableEq, Repr

/-- What a training attempt finds at the far end of a link (R350, R353, R433). -/
inductive FarEnd where
  | none
  | device (pos : Fin 8) (link : Fin 24) (inc : BitVec 16) (reversed : Bool) (polInv : BitVec 4)
  deriving DecidableEq, Repr

/-- One candidate list that a board member sends in the sampling gather (R384): FAIL_LAYER, DRAW and the
candidates as (token identifier, FP32 value). -/
structure CandRec where
  member    : Fin 8
  session   : W32
  failLayer : BitVec 12
  draw      : W32
  cands     : List (W32 × W32)
  deriving DecidableEq, Repr

/-- The work of one session in a decode step, as its engines report it back to the lead pair (R380, R384, R386):
the candidate records of every member. -/
structure StepResult where
  session : W32
  recs    : List CandRec
  deriving DecidableEq, Repr

/-- A drained scale record's roll, named by the tile-local copies of one tensor's record (R159, R383). -/
structure RollItem where
  addrs  : List Nat
  fmt    : BitVec 5
  deriving DecidableEq, Repr

/-- The commands of the block: one constructor per row of spec/opcode_table.json, in the table's order. -/
inductive Instr where
  -- registers, commits, clocks, channels
  | registerWrite (m : Master) (addr : Nat) (v : W32)
  | go (m : Master) (b : BlkId)
  | discard (m : Master) (b : BlkId)
  | snapshotApply (b : BlkId) (part : Nat)
  | freqSwitchDone (u : FreqUnit)
  | flitTransfer (x : Xfer) (c : Hop) (accept : Bool)
  -- structure image
  | imgClaimWrite (m : Master) (owner : BitVec 2)
  | imgClaimForce (m : Master)
  | imgBufWrite (m : Master) (off : Nat) (v : W32)
  | imgFetch (m : Master)
  | imgFetchDone (data : Option (List Byte))
  | imgVerify (m : Master)
  | imgVerifyDone
  | imgApply (m : Master)
  | imgApplyDone
  | imgClear (m : Master)
  -- contexts, queues, marks
  | ctxCreate (m : Master) (p : Fin 8) (c : BitVec 8)
  | ctxDestroy (m : Master) (p : Fin 8) (c : BitVec 8)
  | destroyFinish (p : Fin 8) (c : BitVec 8)
  | destroyTimeout (p : Fin 8) (c : BitVec 8)
  | ctxReset (m : Master) (p : Fin 8) (c : BitVec 8)
  | doorbell (path : DbPath) (v : W32)
  | queueFetch (p : Fin 8) (q : Fin 2048) (n : Fin 9)
  | commandBegin (p : Fin 8) (q : Fin 2048) (i : Fin 32)
  | commandRetire (p : Fin 8) (q : Fin 2048)
  | markReleaseAtHome (k : Nat)
  | markNotify (p : Fin 8) (q : Fin 2048) (w : Fin 4)
  | markPoll (p : Fin 8) (q : Fin 2048) (w : Fin 4) (v : Option W64)
  | nop (p : Fin 8) (q : Fin 2048)
  | writeImm (p : Fin 8) (q : Fin 2048)
  | markAdd (p : Fin 8) (q : Fin 2048)
  | queueDrainEnd (p : Fin 8) (q : Fin 2048)
  -- random generator and matrix array
  | reseed (m : Master) (t : Fin 48)
  | reseedDone (t : Fin 48)
  | mxeLoadw (t : Fin 48)
  | loadwComplete (t : Fin 48)
  | mxePass (t : Fin 48)
  | passSwap (t : Fin 48)
  | mxeIssue (t : Fin 48)
  | slotRowAdd (t : Fin 48)
  | passComplete (t : Fin 48)
  | arrayIdleGate (t : Fin 48)
  | mxeDrain (t : Fin 48)
  | drainRowRead (t : Fin 48)
  | drainRetry (t : Fin 48)
  | drainComplete (t : Fin 48)
  | mxeChain (t : Fin 48)
  | chainStageBegin (t : Fin 48) (q : Fin 2048) (stage : Fin 121)
  | mxeSave (m : Master) (t : Fin 48) (slots : BitVec 2)
  | mxeRestore (m : Master) (t : Fin 48) (slots : BitVec 2) (q : BitVec 11)
  | saveRestoreDone (t : Fin 48) (ok : Bool)
  -- pattern books
  | vxeBookload (t : Fin 48)
  | bookInstall (t : Fin 48) (slot : Fin 8)
  | vxeSurveySample (t : Fin 48)
  | vxeSurveyBuild (t : Fin 48)
  | vxeEncode (t : Fin 48)
  -- vector engine
  | vxeRun (t : Fin 48)
  | engineFillResume (t : Fin 48) (e : Eng)
  | add (t : Fin 48)
  | sub (t : Fin 48)
  | mul (t : Fin 48)
  | fma (t : Fin 48)
  | div (t : Fin 48)
  | sqrt (t : Fin 48)
  | min (t : Fin 48)
  | max (t : Fin 48)
  | abs (t : Fin 48)
  | neg (t : Fin 48)
  | copy (t : Fin 48)
  | fill (t : Fin 48)
  | sel (t : Fin 48)
  | rcp (t : Fin 48)
  | rsqrt (t : Fin 48)
  | exp2 (t : Fin 48)
  | exp (t : Fin 48)
  | log2 (t : Fin 48)
  | ln (t : Fin 48)
  | tanh (t : Fin 48)
  | sigmoid (t : Fin 48)
  | silu (t : Fin 48)
  | sin (t : Fin 48)
  | cos (t : Fin 48)
  | cmplt (t : Fin 48)
  | cmple (t : Fin 48)
  | cmpeq (t : Fin 48)
  | cmpne (t : Fin 48)
  | rsum (t : Fin 48)
  | rmax (t : Fin 48)
  | ramax (t : Fin 48)
  -- streams and arbiters
  | steOpen (t : Fin 48) (sid : Fin 16)
  | steRelease (t : Fin 48) (sid : Fin 16)
  | stePush (t : Fin 48) (sid : Fin 16)
  | steClose (t : Fin 48) (sid : Fin 16)
  | streamIssue (t : Fin 48) (sid : Fin 16)
  | streamDeliver (t : Fin 48) (sid : Fin 16) (seq : Nat) (reply : FarReply)
  | streamRetry (t : Fin 48) (sid : Fin 16)
  | steResume (m : Master) (t : Fin 48) (sid : Fin 16)
  | streamStallTimeout (t : Fin 48) (sid : Fin 16)
  | arbiterAccept (s : Fin 12) (src : ArbSource) (addr : Nat) (len : Nat) (write : Bool) (data : List Byte)
  | arbiterAgeing (s : Fin 12) (k : Nat)
  | arbiterGrant (s : Fin 12)
  | stackAccess (s : Fin 12) (ecc : List EccFind) (ns : Nat)
  -- stacks and translation
  | scrub (s : Fin 12) (line : Nat) (ecc : EccFind)
  | refresh (s : Fin 12) (bank : Fin 2048)
  | stackRecal (s : Fin 12) (temp : BitVec 8)
  | stackTrainingDone (s : Fin 12) (ok : Bool)
  | invalidateRange (m : Master) (p : Fin 8) (c : BitVec 8)
  | invalidateContext (m : Master) (p : Fin 8) (c : BitVec 8)
  | invalidateDone (p : Fin 8)
  | pagedIn (m : Master) (p : Fin 8) (c : BitVec 8)
  | toHost (m : Master) (s : Fin 12)
  | fromHost (m : Master) (s : Fin 12)
  | moveUnit (s : Fin 12) (data : Option (List Byte)) (ecc : List EccFind)
  -- attention
  | nmeAttend (s : Fin 12)
  | nmeAttendBwd (s : Fin 12)
  | nmeEntryTakeUp (s : Fin 12)
  | spillCopyDone (s : Fin 12) (ok : Bool)
  | nmeFrameWalk (s : Fin 12) (ecc : List EccFind)
  | nmeHandlePush (s : Fin 12)
  -- sessions and prefixes
  | sesCmdOpen (m : Master) (p : Fin 8)
  | sesCmdClose (m : Master) (p : Fin 8)
  | closeHoldsEnd (p : Fin 8)
  | sesCmdSet (m : Master) (p : Fin 8)
  | fork (m : Master) (p : Fin 8)
  | attach (m : Master) (p : Fin 8)
  | publish (m : Master) (p : Fin 8)
  | sesCmdSpill (m : Master) (p : Fin 8)
  | sesCmdFetch (m : Master) (p : Fin 8)
  | fetchCopyDone (s : Fin 12) (data : Option (List Byte))
  | unpark (m : Master) (p : Fin 8)
  | tick (m : Master) (p : Fin 8)
  | pin (m : Master) (p : Fin 8)
  | pfxFlush (m : Master) (p : Fin 8)
  | kvfEntrySelWrite (m : Master) (s : Fin 12) (v : W32)
  | sesSelWrite (m : Master) (p : Fin 8) (v : W32)
  -- rings and barriers
  | ringPush (p : Fin 8) (ring : Fin 64)
  | ringPop (p : Fin 8) (ring : Fin 64)
  | barrierArrival (p : Fin 8) (b : Fin 16)
  | barrierNotice (p : Fin 8) (b : Fin 16) (t : Fin 48)
  | barrierWithdraw (p : Fin 8) (b : Fin 16) (t : Fin 48)
  -- host, keepers, atomics
  | hostPostedWrite (fn : Fin 9) (k : Nat)
  | hostAtomic (fn : Fin 9) (off : Nat) (op : AtomOp) (bytes : Nat) (v : Nat)
  | atomicAtHome (m : Master) (addr : Nat) (op : AtomOp) (bytes : Nat) (v : Nat)
  | hostAtomicEmulate (k : Nat) (readBack : Option Nat) (casOk : Bool)
  | keeperAccess (core : Fin 16) (op : KeeperOp)
  | bar0Access (fn : Fin 9) (off : Nat) (w : Option W32)
  | bar2Access (fn : Fin 9) (off : Nat) (len : Nat) (w : Option (List Byte)) (relaxed : Bool)
  -- links and collectives
  | linkWriteArrive (l : Fin 24) (f : Frame)
  | sprayWriteArrive (l : Fin 24) (f : Frame)
  | lampArrive (l : Fin 24) (f : Frame)
  | lampPerform (g : Fin 6) (k : Nat)
  | lampExpire (g : Fin 6) (k : Nat)
  | lampExpiryReceive (l : Fin 24) (f : Frame)
  | lnkModeChange (g : Fin 6)
  | linkTraining (l : Fin 24) (far : FarEnd)
  | linkFrameReceive (l : Fin 24) (f : Frame) (chk : FrameCheck)
  | linkAck (l : Fin 24) (lseq : BitVec 9)
  | linkNak (l : Fin 24) (lseq : BitVec 9)
  | lnkRetrain (m : Master) (g : Fin 6) (link : BitVec 2)
  | lnkClear (m : Master) (g : Fin 6) (link : BitVec 2)
  | cleSend (g : Fin 6)
  | cleAllreduce (g : Fin 6)
  | cleReducescatter (g : Fin 6)
  | cleAllgather (g : Fin 6)
  | readyReceive (l : Fin 24) (f : Frame)
  | readyResend (g : Fin 6) (peer : Fin 8)
  | collReduce (g : Fin 6)
  | performedAck (l : Fin 24) (f : Frame)
  | abortReceive (l : Fin 24) (f : Frame)
  | inboundRejectReceive (l : Fin 24) (f : Frame)
  | collTimeout (g : Fin 6) (q : Fin 2048) (head : W32)
  -- keeper runtime
  | openSession (p : Fin 8) (q : Fin 2048)
  | prefill (p : Fin 8) (q : Fin 2048)
  | decode (p : Fin 8) (q : Fin 2048)
  | hold (p : Fin 8) (q : Fin 2048)
  | resume (p : Fin 8) (q : Fin 2048)
  | close (p : Fin 8) (q : Fin 2048)
  | runtimeStart (p : Fin 8)
  | runtimeStep (p : Fin 8) (durationNs : Nat) (rolls : List RollItem) (results : List StepResult)
  | powerCapPeriod (p : Fin 8)
  | kprHbWrite (m : Master) (p : Fin 8) (v : W32)
  | heartbeatMiss (p : Fin 8)
  -- tallies, fog, ledger, watch
  | talClear (m : Master) (b : BlkId) (first : BitVec 8) (countM1 : BitVec 8)
  | fogInEdge (lowNs : Nat)
  | fire (m : Master)
  | thaw (m : Master)
  | fogFreeze (b : BlkId)
  | fogOutEnd
  | ldgArm (m : Master) (b : BlkId)
  | ldgStop (m : Master) (b : BlkId)
  | ldgTrigger (m : Master) (b : BlkId)
  | ldgBurstAck (b : BlkId) (ok : Bool)
  | ldgRdSelWrite (m : Master) (b : BlkId) (v : W32)
  | wchSnap (m : Master) (t : Fin 48) (slots : BitVec 4)
  | wchClear (m : Master) (t : Fin 48) (slots : BitVec 4)
  -- watchdogs and the ladder
  | progressTimeout (p : Fin 8) (q : Fin 2048)
  | engineHang (e : Eng) (unit : Nat)
  | engineReset (m : Master) (p : Fin 8) (engine : BitVec 4) (unit : BitVec 8)
  | partitionReset (m : Master) (p : Fin 8)
  | chipReset (m : Master) (p : Fin 8)
  | rungTimeout (p : Fin 8) (r : Rung)
  | powerCycle
  | perstAssert
  | perstRelease
  -- PCI Express
  | functionLevelReset (fn : Fin 9)
  | hotReset
  | pcieLinkDown
  | hostRequestTimeout (k : Nat)
  | atsInvalidation (fn : Fin 9) (addr : W64) (pages : Nat)
  -- management port
  | setdasa (addr : BitVec 7)
  | entdaa (addr : BitVec 7)
  | setEndpointId (eid : Byte)
  | getEndpointId
  | getMctpVersionSupport (typ : Byte)
  | getMessageTypeSupport
  | getVendorDefinedMessageSupport (sel : Byte)
  | getInfo (doe : Option (Fin 9)) (tag : BitVec 16)
  | getHealth (doe : Option (Fin 9)) (tag : BitVec 16)
  | regRead (doe : Option (Fin 9)) (tag : BitVec 16) (addr : W64) (count : Nat)
  | regWrite (doe : Option (Fin 9)) (tag : BitVec 16) (addr : W64) (words : List W32)
  | fog (doe : Option (Fin 9)) (tag : BitVec 16) (order : FogOrder)
  | imgChunk (doe : Option (Fin 9)) (tag : BitVec 16) (off : W32) (data : List Byte)
  | reset (doe : Option (Fin 9)) (tag : BitVec 16) (level : ResetLevel)
  | attest (doe : Option (Fin 9)) (tag : BitVec 16) (nonce : List Byte)
  | getIdentity (doe : Option (Fin 9)) (tag : BitVec 16)
  | otpWriteGen (doe : Option (Fin 9)) (tag : BitVec 16) (block : List Byte) (keySlot : Byte)
      (pubKey : List Byte) (sig : List Byte) (readsBack : Bool)
  | ideKeySet (doe : Option (Fin 9)) (tag : BitVec 16) (stream : Byte) (dir : Byte) (sub : Byte) (keySet : Byte)
      (ct : List Byte) (sealed : List Byte)
  -- PLDM
  | getTid
  | getPldmVersion (typ : Byte)
  | getPldmTypes
  | getPldmCommands (typ : Byte)
  | getSensorReading (sensor : BitVec 16)
  | getStateSensorReadings (sensor : BitVec 16)
  | getPdrRepositoryInfo
  | getPdr (handle : W32)
  | setNumericEffecterValue (effecter : BitVec 16) (v : W32)
  | getNumericEffecterValue (effecter : BitVec 16)
  | queryDeviceIdentifiers
  | getFirmwareParameters
  | requestUpdate
  | passComponentTable (comps : List (BitVec 16))
  | updateComponent (comp : BitVec 16) (size : Nat)
  | firmwareData (off : Nat) (data : List Byte) (last : Bool)
  | activateFirmware (selfContained : Bool)
  | getStatus
  | cancelUpdateComponent
  | cancelUpdate
  -- supplies, power, temperature
  | auxPowerUp
  | input48vGood
  | auxPowerLoss
  | inputLockout (past : Bool)
  | powerSample (vinMv : BitVec 16) (iin : BitVec 16) (powerQ : BitVec 16)
  | currentClamp (iin : BitVec 16)
  | currentClampRelease (iin : BitVec 16)
  | thermalSample (half0 : Byte) (half1 : Byte) (ioDie : Byte) (stks : List Byte)
  | domainOn (m : Master) (d : BitVec 7)
  | domainOff (m : Master) (d : BitVec 7)
  | domainSwitchDone
  -- boundary scan
  | extest
  | samplePreload
  | highz
  | clamp
  | bypass (code : BitVec 4)
  | testLogicReset
  -- further rows
  | receiverLosesLock (l : Fin 24)
  | pcieLinkUp (gen : BitVec 4) (width : BitVec 5) (flit : Bool)
  | configurationWrite (fn : Fin 9) (numVfs : Option Nat) (bme : Option Bool) (ats : Option Bool) (atomicEn : Option Bool)
      (msix : Option (Bool × Bool))
  | ideIntegrityFailure
  | mgmtFirmwareVerified
  | keeperFirmwareVerified
  deriving DecidableEq, Repr

end Sys2Proof
end

