-- ==== Sys2Proof/Decode.lean ====
section
/-!
DEFINITION. The command that a word spells. The block has no instruction decoder: no row of spec/opcode_table.json
gives bits, so no word spells a command.
-/
namespace Sys2Proof

/-- The command that the first `nbits` bits of `w` spell by the table's bits: none, because no row gives bits. -/
def decodeTableWord (_nbits _w : Nat) : Option Instr := none

end Sys2Proof
end

