-- ==== Sys2Proof/Config.lean ====
section
/-!
DEFINITION. What an implementation fixes and what the spec leaves open: constants without a body, so that no proof
can see a value of them. A free value is one of these applied to the counter `State.free`, which every use advances
(notes/assumptions/2.md); the cryptographic primitives that the spec names without defining are functions here
(notes/assumptions/9.md).
-/
namespace Sys2Proof.Config

/-- A value the spec leaves open: a draw of a random generator (R108), a byte the host answers, a vector result
within a bound (R205), a reading of a sensor. -/
opaque freeBits : Nat → BitVec 64

/-- A value of any size that the spec leaves open. -/
opaque freeNat : Nat → Nat

/-- A byte that a read of host memory inside a step returns (R437): by counter and host bus address. -/
opaque hostByte : Nat → Nat → Byte

/-- Whether tininess is detected after rounding: IEEE 754-2019 leaves it to the implementation (R209). -/
opaque tinyAfter : Bool

/-- Whether a strict FMA of zero and infinity with a quiet NaN addend raises INVALID, which IEEE 754-2019 leaves to the
implementation (R209). -/
opaque fmaInvalid : Bool

/-- TPF_CODE of a frame of 128 positions, which R301's list of codes leaves out. -/
opaque tpf128 : BitVec 3

/-- The CRC-32C digest of a READY over the fields R366 lists: opcode, MEMBERS, OP, FMT, N, DPART, DST_ADDR and
STAGE_ADDR. Their layout as bytes is not given. -/
opaque readyDigest : List Nat → BitVec 32

/-- The runtime's exponential 2^x on FP32 words, the same on every device of a stepping (R384). -/
opaque rtExp2 : BitVec 32 → BitVec 32

/-- The layers and groups of the model that the keeper runtime serves, laid out as SES_ARG5 (R315): the spec names no
register that holds them. -/
opaque modelChains : BitVec 32

/-- The MCTP and PLDM versions that the version queries answer, by message type; the vendor-defined version; the terminus
identifier; and the platform descriptor records, by handle: R448 and R453 name the messages and give none of these. -/
opaque mctpVersion : Nat → BitVec 32

opaque pldmVersion : Nat → BitVec 32

opaque vendorVersion : BitVec 16

opaque pldmTid : BitVec 8

opaque pldmRecord : Nat → List Byte

/-- SHA3-256 (R54, R457): a digest of 32 bytes. -/
opaque sha3 : List Byte → List Byte

/-- ML-DSA-44 verification with an empty context string (R54, R458): public key, message, signature. -/
opaque mldsaVerify : List Byte → List Byte → List Byte → Bool

/-- The identity key's ML-DSA-44 signature over a message (R461). -/
opaque identitySign : List Byte → List Byte

/-- The identity public key that the security block regenerates from its fused seed (R460). -/
opaque identityPub : List Byte

/-- The endorsement slot and Celkifel's signature over ID_DIGEST (R450, R461). -/
opaque endorsement : List Byte

/-- The ML-KEM-768 public key KX of the n-th chip start (R446, R450). -/
opaque kxPub : Nat → List Byte

/-- What a sealed IDE key opens to under KX of the n-th chip start: the key, or nothing (R446). -/
opaque kxOpen : Nat → List Byte → List Byte → Option (List Byte)

/-- The stepping of this device, coded as MIN_STEP (R46). -/
opaque stepping : Byte

/-- The fused OTP area contents of the device as it leaves the factory: four areas, empty where unused (R457). -/
opaque factoryOtp : Nat → Option (List Byte)

/-- The frequency in MHz of the PCI Express controller's island by the link's generation and width: R26 gives none. -/
opaque pcieMhz : Nat → Nat → Nat

end Sys2Proof.Config
end

