-- ==== Sys2Proof/Machine/SMap.lean ====
section
/-!
DEFINITION. Sparse tables as plain data: a list of (key, value) pairs with strictly rising keys in which no entry
equals the default, so that equal tables are equal lists. Memories, register files and the per-unit states of the
block are such tables; what an unlisted key reads as is the default the reader names.
-/
namespace Sys2Proof.Machine

/-- A sparse table from Nat keys, in canonical form (`SMap.wf`). -/
abbrev SMap (α : Type) := List (Nat × α)

/-- What the table holds at key `k`, or `d` where it lists nothing. -/
def SMap.get {α : Type} (d : α) : List (Nat × α) → Nat → α
  | [], _ => d
  | (k', v) :: m, k => if k = k' then v else SMap.get d m k

/-- The table without an entry at `k`. -/
def SMap.erase {α : Type} : List (Nat × α) → Nat → List (Nat × α)
  | [], _ => []
  | (k', v) :: m, k => if k = k' then SMap.erase m k else (k', v) :: SMap.erase m k

/-- The table with (`k`, `v`) put at its place among rising keys. -/
def SMap.insert {α : Type} : List (Nat × α) → Nat → α → List (Nat × α)
  | [], k, v => [(k, v)]
  | (k', v') :: m, k, v =>
    if k < k' then (k, v) :: (k', v') :: m
    else if k = k' then (k, v) :: m
    else (k', v') :: SMap.insert m k v

/-- Write `v` at `k`: writing the default removes the entry, so the canonical form is kept. -/
def SMap.set {α : Type} [DecidableEq α] (d : α) (m : List (Nat × α)) (k : Nat) (v : α) : List (Nat × α) :=
  if v = d then SMap.erase m k else SMap.insert m k v

/-- Every key of the table is above `b`, keys rise strictly, and no entry is the default. -/
def SMap.wfAbove {α : Type} [DecidableEq α] (d : α) : Option Nat → List (Nat × α) → Bool
  | _, [] => true
  | none, (k, v) :: m => decide (v ≠ d) && SMap.wfAbove d (some k) m
  | some b, (k, v) :: m => decide (b < k) && decide (v ≠ d) && SMap.wfAbove d (some k) m

/-- The canonical form: strictly rising keys, no entry equal to the default. -/
def SMap.wf {α : Type} [DecidableEq α] (d : α) (m : List (Nat × α)) : Bool := SMap.wfAbove d none m

/-- Keep the entries whose key and value satisfy `f`. -/
def SMap.keep {α : Type} (m : List (Nat × α)) (f : Nat → α → Bool) : List (Nat × α) :=
  m.filter (fun e => f e.1 e.2)

end Sys2Proof.Machine
end

