-- ==== Sys2Proof/Machine/State.lean ====
section
/-!
DEFINITION. The state of the block as plain data: every register, buffer, table, counter, mode and pin the spec
gives it, each engine's work in progress, and the queue of commands that wait. INVENTORY.md, heading State, names
the rule behind every field and its reset value.
-/
namespace Sys2Proof.Machine

/-! ## Register blocks (R37–R44) -/

/-- The values a register block holds. A register that a table does not list holds its reset word. `pend` lists
the parts of the snapshot that have not been applied: PENDING reads 1 while it is not empty (R488). `missed`, of the PCX_
block only, lists the functions whose BAR2 window has lost its stack and misses until it is committed anew (R443). -/
structure BlockRegs where
  staged  : List (Nat × W32)
  snap    : List (Nat × W32)
  comm    : List (Nat × W32)
  plain   : List (Nat × W32)
  w1c     : List (Nat × W32)
  pend    : List Nat
  serial  : BitVec 16
  refused : Bool
  missed  : List Nat
  deriving DecidableEq, Repr

def BlockRegs.reset : BlockRegs := ⟨[], [], [], [], [], [], 0, false, []⟩

/-! ## The applied structure image (R48–R53) -/

/-- A partition as its sections give it (R48, R50, R52). -/
structure PartCfg where
  num       : Nat
  function  : Nat
  quadMask  : Nat
  keepMask  : Nat
  lgMask    : Nat
  ctxQuota  : Nat
  queQuota  : Nat
  sesQuota  : Nat
  intlQ     : Nat
  frameQ    : List Nat
  modeEn    : Nat
  formatEn  : Nat
  deriving DecidableEq, Repr

/-- The unit mask (R49). -/
structure UnitMask where
  tile   : Nat
  stack  : Nat
  nme    : Nat
  keeper : Nat
  lgroup : Nat
  link   : Nat
  deriving DecidableEq, Repr

/-- One entry of the tally allocation section (R53). -/
structure TallyAlloc where
  cls   : Nat
  unit  : Nat
  first : Nat
  count : Nat
  event : Nat
  owner : Nat
  deriving DecidableEq, Repr

/-- A structure image: what VERIFY reads out of the buffer and APPLY makes current. `sections` keeps the bytes of
the partition, region and format sections by (type, partition), for R59's byte comparison. -/
structure ImageCfg where
  parts    : List PartCfg
  mask     : UnitMask
  tallies  : List TallyAlloc
  serial   : W32
  digest   : List Byte
  sections : List ((Nat × Nat) × List Byte)
  deriving DecidableEq, Repr

/-- The operation the IMG_ block runs (R56). -/
inductive ImgOp where
  | fetch | verify | apply
  deriving DecidableEq, Repr

/-- The IMG_ block's functional state (R55–R59); `mask` is the IMG_APPLY_MASK of the APPLY that runs. -/
structure Img where
  owner    : BitVec 2
  buf      : List (Nat × Byte)
  busy     : Option ImgOp
  verified : Bool
  detail   : Byte
  result   : Byte
  applied  : Option ImageCfg
  pendingImage : Option ImageCfg
  defaultFailed : Bool
  applies  : W32
  mask     : BitVec 8
  deriving DecidableEq, Repr

def Img.reset : Img := ⟨0, [], none, false, 0xFF, 0, none, none, false, 0, 0⟩

/-! ## Contexts and queues (R63–R91) -/

/-- Context states of R64. -/
inductive CtxState where
  | free | active | faulted | resetting | destroying
  deriving DecidableEq, Repr

structure Ctx where
  st  : CtxState
  gen : BitVec 16
  deriving DecidableEq, Repr

def Ctx.reset : Ctx := ⟨.free, 0⟩

/-- How a coded LOADW was matched to a book generation at its fetch (R179). -/
inductive BookMatch where
  | none | live | pending | stale
  deriving DecidableEq, Repr

/-- Where a fetched command stands: unbegun, begun, complete but not retired, releasing (its release is on its
way to the mark's home), stuck (its release faulted, so it stays completed and unretired) or lost (it will never
complete). -/
inductive CmdPhase where
  | fetched | begun | complete | releasing | stuck | lost
  deriving DecidableEq, Repr

/-- One translated 64 KiB page that a command holds from its check to its completion (R266): translated page
number, and its place: a device physical address, or 2^48 plus an offset into the interleaved region, whose bytes
R51 spreads over the stacks. -/
structure PageMap where
  page : Nat
  pa   : Nat
  deriving DecidableEq, Repr

/-- A command of a queue between fetch and retirement. `waits` holds, per wait word, whether it is satisfied;
`regd` whether its waits are registered at their homes (R86); `rd` and `wr` are its read and write sets once it has
begun (R82); `noRel` says that an earlier command of its queue never completes (R83); `began` is the cycle count of
its island when it began. -/
structure Cmd where
  head  : W32
  words : List W64
  phase : CmdPhase
  waits : List Bool
  regd  : Bool
  book  : BookMatch
  held  : List PageMap
  rd    : List (Nat × Nat)
  wr    : List (Nat × Nat)
  noRel : Bool
  began : W64
  deriving DecidableEq, Repr

/-- A write to host memory that a release may cover (R336): the function whose requester ID it carries, its address in the
host aperture, and the translated address. -/
structure HostWr where
  fn : Nat
  pa : Nat
  va : Nat
  deriving DecidableEq, Repr

/-- A hardware queue slot (R70–R75): the accepted TAIL, HEAD, the fetched records not yet a whole command, and
the commands in flight; `hostWr` is the last write to host memory of its completed commands under each function (R336). -/
structure Que where
  tail     : W32
  head     : W32
  halted   : Bool
  draining : Bool
  hostWr   : List HostWr
  recs     : List (List W64)
  cmds     : List Cmd
  deriving DecidableEq, Repr

def Que.reset : Que := ⟨0, 0, false, false, [], [], []⟩

/-- A release on its way to the mark's home (R85, R330): physical address of the mark, value, the command's queue
and head (none for a release that arrives over a link), its scope and the releasing party's unit. -/
structure Release where
  addr  : Nat
  value : Nat
  scope : Nat
  party : BlkId
  cmd   : Option (Nat × W32)
  deriving DecidableEq, Repr

/-! ## The tile (R16, R27–R30, R109–R110) -/

/-- The frequency state of a tile or keeper pair (R28–R30): step in use, the target it goes to, and whether a
change is in progress. -/
structure Freq where
  cur       : Nat
  target    : Nat
  switching : Bool
  deriving DecidableEq, Repr

/-- A tile's own state apart from its engines: clock, generator and the store of aborted granules (R232): the
physical granule number and the aborted stream's context of each. -/
structure TileSt where
  freq      : Freq
  reseeding : Bool
  reseeds   : BitVec 16
  aborted   : List (Nat × Nat)
  deriving DecidableEq, Repr

def TileSt.reset : TileSt := ⟨⟨16, 16, false⟩, false, 0, []⟩

/-- A reference to a command in flight: the device queue number and the record count of its first record; for a
chain stage, the stage index as well. -/
structure CmdRef where
  q     : Nat
  head  : W32
  stage : Option Nat
  deriving DecidableEq, Repr

/-- The states of R113; the active buffer is never `loading`. -/
inductive BufSt where
  | empty | loading | ready
  deriving DecidableEq, Repr

/-- A weight buffer (R113, R129): its block, decoded to L20, row-major by k × 256 + n; its shape, lane class and
claim. -/
structure WBuf where
  st     : BufSt
  kValid : Nat
  nValid : Nat
  narrow : Bool
  words  : List (Nat × BitVec 20)
  claim  : Option Nat
  deriving DecidableEq, Repr

def WBuf.reset : WBuf := ⟨.empty, 0, 0, false, [], none⟩

/-- A slot row (R137). -/
structure SlotRow where
  count  : W32
  seg    : BitVec 21
  off64  : Bool
  folded : Bool
  comp   : Bool
  elems  : List (Nat × BitVec 36)
  deriving DecidableEq, Repr

def SlotRow.reset : SlotRow := ⟨0, 0, false, false, false, []⟩

structure Slot where
  rows  : List (Nat × SlotRow)
  claim : Option Nat
  deriving DecidableEq, Repr

def Slot.reset : Slot := ⟨[], none⟩

/-- An exact number as the arithmetic sees it: a finite value (−1)^neg × m × 2^e, zeros keeping their sign; an
infinity; or a NaN with its sign and a fraction of `w` bits, whose highest is the quiet bit (R92, R95, R104). Column
words (R138) are such numbers. -/
inductive Num where
  | fin (neg : Bool) (m : Nat) (e : Int)
  | inf (neg : Bool)
  | nan (neg : Bool) (frac : Nat) (w : Nat)
  deriving DecidableEq, Repr

/-- One issue in the array (R118, R138): its products per element, the slot rows it goes to and each row's column
words. -/
structure Issue where
  ref  : CmdRef
  k    : Nat
  rows : List (Nat × List Num)
  deriving DecidableEq, Repr

/-- A LOADW that has begun. -/
structure LoadOp where
  ref     : CmdRef
  started : Bool
  deriving DecidableEq, Repr

/-- A PASS that has begun (R117, R125). `swapped` is false while a pass with SWAP waits for READY; `next` is the
next activation row to issue; `landed` counts the rows that reached the slot. -/
structure PassOp where
  ref     : CmdRef
  order   : Nat
  started : Bool
  swapped : Bool
  next    : Nat
  landed  : Nat
  deriving DecidableEq, Repr

/-- The statistics a drain gathers as it reads (R156, R160, R168, R413). -/
structure DrainStat where
  amax     : W32
  flags    : BitVec 6
  clamps   : Nat
  nonfin   : Nat
  constCh  : Nat
  zeros    : Nat
  nans     : Nat
  infs     : Nat
  amin     : W32
  hist     : List (Int × Nat)
  digestIn : List (Nat × Nat)
  deriving DecidableEq, Repr

def DrainStat.reset : DrainStat := ⟨0, 0, 0, 0, 0, 0, 0, 0, 0x7F800000, [], []⟩

/-- A channel of SMODE 1 (R164): constant with its sign, all zero, or scaled by a reciprocal. -/
inductive Chan where
  | const (neg : Bool) (scale : W32)
  | zero
  | recip (r scale : W32) (skip : Bool)
  deriving DecidableEq, Repr

/-- A DRAIN that has begun (R126, R135, R161): the next row of the reading, whether this is the second reading,
the reciprocal in use, the scale record's words as read before it began, the statistics, the
channels of SMODE 1 as found before the first row, and whether no later reading or retry rewrites a row (R244). -/
structure DrainOp where
  ref     : CmdRef
  order   : Nat
  started : Bool
  next    : Nat
  second  : Bool
  recip   : W32
  scaleUsed : W32
  inScale : W32
  comp    : Bool
  free0   : Nat
  stat    : DrainStat
  chans   : List Chan
  final   : Bool
  deriving DecidableEq, Repr

/-- The activity ramp of R122. -/
structure Ramp where
  on     : Bool
  cycle  : Nat
  credit : Nat
  deriving DecidableEq, Repr

/-- A book slot (R178): its live and pending generations, shape and escape format. -/
structure BookSlot where
  live     : Option Byte
  pend     : Option Byte
  retiring : Bool
  paired   : Bool
  shape    : BitVec 2
  escFmt   : BitVec 2
  words    : List (Nat × BitVec 20)
  deriving DecidableEq, Repr

def BookSlot.reset : BookSlot := ⟨none, none, false, false, 0, 0, []⟩

/-- A VXE_BOOKLOAD that has begun and not installed its book (R181). -/
structure BookOp where
  ref  : CmdRef
  slot : Nat
  gen  : Byte
  shape : BitVec 2
  escFmt : BitVec 2
  addr : Nat
  started : Bool
  deriving DecidableEq, Repr

/-- A SAVE or RESTORE that runs (R149, R150). -/
structure SaveOp where
  restore : Bool
  slots   : BitVec 2
  queue   : BitVec 11
  addr    : Nat
  deriving DecidableEq, Repr

/-- The matrix engine of a tile with its accumulators, quantiser and expander. -/
structure Mxe where
  act      : WBuf
  shd      : WBuf
  slot0    : Slot
  slot1    : Slot
  loads    : List LoadOp
  passes   : List PassOp
  drains   : List DrainOp
  inArray  : List Issue
  ramp     : Ramp
  ramped   : Bool
  gated    : Bool
  idleFor  : Nat
  orderNo  : Nat
  swapIssued : Bool
  replays  : BitVec 16
  save     : Option SaveOp
  saveRes  : Byte
  books    : List (Nat × BookSlot)
  bookOps  : List BookOp
  bubbles  : BitVec 16
  deriving DecidableEq, Repr

def Mxe.reset : Mxe :=
  ⟨.reset, .reset, .reset, .reset, [], [], [], [], ⟨false, 0, 0⟩, false, true, 0, 0, true, 0, none, 0, [], [], 0⟩

/-! ## The vector engine (R192–R214) -/

/-- What the vector engine runs: a VXE_RUN (with its program block as read, the index of the instruction, the next
chunk, the flags and clamps so far), a survey or an encode. -/
inductive VxeWork where
  | run | sample | build | encode
  deriving DecidableEq, Repr

/-- What stops a command before or while it runs: class, cause, DETAIL, ASPACE and address of the fault, and the
chain stage (0x7F where no stage applies). -/
structure Bad where
  cls    : Nat
  cause  : Nat
  detail : Nat
  aspace : Nat
  addr   : Nat
  stage  : Nat
  deriving DecidableEq, Repr

/-- The vector command that has the engine. `failed`: the fault that stopped it while the write of its status word waits
on a fill bit (R210, R221). -/
structure VxeOp where
  ref     : CmdRef
  work    : VxeWork
  started : Bool
  prog    : List W64
  pc      : Nat
  chunk   : Nat
  flags   : BitVec 5
  clamps  : Nat
  failed  : Option Bad
  deriving DecidableEq, Repr

structure Vxe where
  op : Option VxeOp
  lastOp : Byte
  lastPc : Byte
  deriving DecidableEq, Repr

def Vxe.reset : Vxe := ⟨none, 0, 0⟩

/-! ## Streams (R215–R236) -/

inductive StreamSt where
  | idle | running | halted | faulted | done
  deriving DecidableEq, Repr

/-- A request of a stream (R225): sequence number in issue order, its place among the requests that its tile has sent (R22),
stream offset, length, far physical address, the time-to-need it carries (R226), whether it has completed, and the stack's
answer once its access is performed, with its place among the answers to the tile. -/
structure StreamReq where
  seq  : Nat
  sent : Nat
  off  : Nat
  len  : Nat
  pa   : Nat
  ttn  : Option Nat
  done : Bool
  reply : Option FarReply
  answ : Nat
  deriving DecidableEq, Repr

/-- A stream context (R215, R216, R220, R236). `fA` is the frontier D or W, `fB` the frontier C or P; `issued` the
offset of the next element to issue; `pendB` the frontier the earlier accepted releases or pushes leave (R222);
`failAt` the offset of the first failed request, which the frontier never passes (R231); `hostAt` the last write of a store
to host memory (R336); `faultB` the frontier C or P when it faulted (R221, R232). -/
structure Stream where
  st      : StreamSt
  store   : Bool
  ctx     : Nat
  queue   : Nat
  head    : W32
  words   : List W64
  held    : List PageMap
  layerId : BitVec 16
  opId    : BitVec 16
  fA      : Nat
  fB      : Nat
  pendB   : Nat
  issued  : Nat
  nextSeq : Nat
  reqs    : List StreamReq
  fill    : List (Nat × Bool)
  failAt  : Option Nat
  noticed : Bool
  hostAt  : Option HostWr
  faultB  : Nat
  deriving DecidableEq, Repr

def Stream.reset : Stream :=
  ⟨.idle, false, 0, 0, 0, [], [], 0, 0, 0, 0, 0, 0, 0, [], [], none, false, none, 0⟩

/-- The stream unit of a tile: its 16 stream contexts, the begun commands not yet performed, by stream context in
acceptance order (R215), and how many requests it has sent and how many answers of stacks are on their way to it or in. -/
structure Ste where
  streams : List (Nat × Stream)
  cmds    : List (Nat × CmdRef)
  sent    : Nat
  answers : Nat
  deriving DecidableEq, Repr

def Ste.reset : Ste := ⟨[], [], 0, 0⟩

/-! ## Stacks and arbiters (R227–R228, R255–R275) -/

/-- A request pending at an arbiter (R227): whether it carries T, its slack counter in units of 2^-16 ns, how long
it has waited, and whether ageing made it a deadline request. -/
structure ArbReq where
  src    : ArbSource
  addr   : Nat
  len    : Nat
  write  : Bool
  data   : List Byte
  slack  : Option Int
  aged   : Bool
  waited : Nat
  order  : Nat
  deriving DecidableEq, Repr

structure Arb where
  pending : List ArbReq
  granted : List ArbReq
  latEst  : BitVec 16
  arrivals : Nat
  deriving DecidableEq, Repr

inductive StackSt where
  | off | training | ready | recal | failed
  deriving DecidableEq, Repr

/-- A move of a stack's page mover (R271, R272); `forCtx` is the device context that it was ordered for (R427). -/
structure MoveOp where
  toHost : Bool
  dev    : Nat
  host   : Nat
  units  : Nat
  forCtx : Option Nat
  deriving DecidableEq, Repr

structure Stack where
  st      : StackSt
  hot     : Bool
  temp    : Byte
  calTemp : Byte
  recals  : BitVec 16
  eccAddr : Nat
  arb     : Arb
  move    : Option MoveOp
  moved   : BitVec 19
  moveRes : Byte
  scrubAt : Nat
  refreshAt : Nat
  throttled : Bool
  deriving DecidableEq, Repr

def Stack.reset : Stack :=
  ⟨.off, false, 0, 0, 0, 0, ⟨[], [], 0x64, 0⟩, none, 0, 0, 0, 0, false⟩

/-- A cached translation (R267): one page, tagged with the device context; `pa` is a place as in `PageMap`. -/
structure TlbEnt where
  ctx   : Nat
  va    : Nat
  pa    : Nat
  bytes : Nat
  write : Bool
  deriving DecidableEq, Repr

/-- The invalidation engine of a partition (R268, R269). -/
structure InvOp where
  ctx  : Nat
  all  : Bool
  lo   : Nat
  hi   : Nat
  pagedIn : Bool
  deriving DecidableEq, Repr

/-! ## Attention, frames, sessions (R276–R325) -/

/-- Entry statuses of R285. -/
inductive EntStat where
  | ok | empty | kvExhausted | notResident | memError | staleSession
  deriving DecidableEq, Repr

/-- A frame of a snapshot (R284): its number, first position and valid slots. -/
structure FrameRef where
  frame : Nat
  pos0  : Nat
  valid : Nat
  deriving DecidableEq, Repr

/-- The running statistics of one query row (R290) with the per-frame weight sums that R307 needs. -/
structure AttRow where
  m     : W32
  l     : W32
  o     : List W32
  count : Nat
  nan   : Bool
  masses : List (Num × W32)
  deriving DecidableEq, Repr

/-- An entry that the engine has taken up (R284): its words, the pages its addresses lie in, its snapshot and the
frames it holds, and the query rows that step 4 read, backward with the rows of DO_ADDR and STATS_ADDR; `waiting` while
its append waits for a spilled victim's frame (R306). -/
structure AttEntry where
  idx    : Nat
  words  : List W64
  pages  : List PageMap
  frames : List FrameRef
  walked : Nat
  rows   : List AttRow
  status : EntStat
  held   : List Nat
  waiting : Bool
  written : Bool
  qRows  : List Byte
  doRows : List Byte
  stats  : List Byte
  deriving DecidableEq, Repr

/-- A running command of the near-memory engine: the table index of the next entry to take up and the entries in
progress, in table order. -/
structure AttOp where
  ref     : CmdRef
  bwd     : Bool
  started : Bool
  next    : Nat
  entries : List AttEntry
  deriving DecidableEq, Repr

structure Nme where
  ops       : List AttOp
  lastStat  : BitVec 4
  entryIdx  : BitVec 12
  frames    : W32
  deriving DecidableEq, Repr

def Nme.reset : Nme := ⟨[], 0, 0, 0⟩

inductive FrameSt where
  | free | live | outbound | inbound
  deriving DecidableEq, Repr

/-- A link to a chain member: a frame or a spill record of the same stack (R301, R302). -/
inductive MemberRef where
  | frame (n : Nat)
  | spilled (n : Nat)
  deriving DecidableEq, Repr

/-- A frame-table entry (R301); `tpf` is the number of positions that TPF_CODE codes. -/
structure FrameEnt where
  st      : FrameSt
  pin     : Bool
  pub     : Bool
  holds   : Nat
  refs    : Nat
  pool    : Nat
  tpf     : Nat
  pos0    : Nat
  valid   : Nat
  score   : BitVec 16
  epoch   : BitVec 16
  layer   : Nat
  group   : Nat
  owner   : W32
  pred    : Option MemberRef
  hash    : W64
  deriving DecidableEq, Repr

def FrameEnt.reset : FrameEnt :=
  ⟨.free, false, false, 0, 0, 0, 0, 0, 0, 0, 0, 0, 0, 0, none, 0⟩

inductive RecSt where
  | free | spilling | spilled | fetching
  deriving DecidableEq, Repr

/-- A spill record (R310): its state and the frame entry it holds. -/
structure SpillRec where
  st  : RecSt
  ent : FrameEnt
  deriving DecidableEq, Repr

def SpillRec.reset : SpillRec := ⟨.free, .reset⟩

/-- A chain directory entry (R302, R303), keyed by session slot, layer and group: LAST, and NEXT_POS where the
stack is the chain's tail stack. -/
structure DirEnt where
  slot    : Nat
  layer   : Nat
  group   : Nat
  last    : Option MemberRef
  nextPos : Nat
  deriving DecidableEq, Repr

/-- Who asked for an allocation that waits for a spill copy (R305, R310). -/
inductive AllocFor where
  | append (entry : Nat)
  | fetch
  | command
  deriving DecidableEq, Repr

/-- A spill copy in progress: victim frame, record, and who takes the frame (R310). -/
structure SpillOp where
  frame : Nat
  recNo : Nat
  owner : W32
  forW  : AllocFor
  deriving DecidableEq, Repr

/-- The frame table, spill records and chain directory of a stack (R300–R312). -/
structure Kvf where
  frames  : List (Nat × FrameEnt)
  recs    : List (Nat × SpillRec)
  dir     : List DirEnt
  epoch   : BitVec 16
  spill   : List SpillOp
  fetchOp : Option (Nat × Nat)
  latch   : List W32
  deriving DecidableEq, Repr

def Kvf.reset : Kvf := ⟨[], [], [], 0, [], none, [0, 0, 0, 0, 0, 0, 0, 0]⟩

inductive SesSt where
  | free | opened | closing
  deriving DecidableEq, Repr

/-- A session entry (R314); FRAMES and SPILLED are counted from the chains when the entry is read. -/
structure SesEnt where
  st      : SesSt
  policy  : Bool
  pool    : Nat
  protWin : Nat
  protHead : Nat
  place   : Nat
  gen     : BitVec 16
  dropped : W32
  parked  : Bool
  parkLayer : Nat
  parkGroup : Nat
  parkStack : Nat
  parkPool  : Nat
  parkPos   : W32
  deriving DecidableEq, Repr

def SesEnt.reset : SesEnt := ⟨.free, false, 0, 0, 0, 0, 0, 0, false, 0, 0, 0, 0, 0⟩

/-- A session operation that runs on until its holds end or its copies complete; `next` is the stack and the frame or
record that SPILL or FETCH looks at next. -/
inductive SesOp where
  | close (slot : Nat)
  | spill (slot : Nat) (frames : Nat) (next : Nat × Nat)
  | fetch (slot : Nat) (frames : Nat) (next : Nat × Nat)
  deriving DecidableEq, Repr

/-- The session table of a partition (R313–R316, R324). -/
structure Ses where
  slots   : List (Nat × SesEnt)
  op      : Option SesOp
  result  : Byte
  latch   : List W32
  deriving DecidableEq, Repr

def Ses.reset : Ses := ⟨[], none, 0, [0, 0, 0, 0, 0, 0, 0, 0]⟩

/-- A prefix-table entry (R318). -/
structure PfxEnt where
  hash  : W64
  layer : Nat
  group : Nat
  stack : Nat
  frame : Nat
  deriving DecidableEq, Repr

/-! ## Rings and barriers (R238–R254) -/

/-- Who pushes or pops: a chain's stage on a tile, or an entry of the near-memory engine. -/
inductive RingParty where
  | chain (t : Nat) (ref : CmdRef)
  | nme (s : Nat) (ref : CmdRef)
  deriving DecidableEq, Repr

structure Ring where
  entries : List (W64 × W64)
  head    : BitVec 16
  tail    : BitVec 16
  pushes  : List (RingParty × (W64 × W64) × Bool)
  pops    : List (RingParty × Bool)
  deriving DecidableEq, Repr

def Ring.reset : Ring := ⟨[], 0, 0, [], []⟩

/-- A partition barrier (R251, R252): arrivals on their way, the open generation, the notices still to deliver and
the withdrawals awaited. -/
structure Bar where
  isOpen    : Bool
  owner     : Nat
  expect    : Nat
  opened    : List Nat
  arrived   : List (Nat × CmdRef)
  epoch     : Byte
  inbound   : List (Nat × CmdRef)
  notices   : List (Nat × CmdRef)
  cancelling : List (Nat × Nat)
  deriving DecidableEq, Repr

def Bar.reset : Bar := ⟨false, 0, 0, [], [], 0, [], [], []⟩

/-- A stage of a running chain (R243). -/
inductive StageSt where
  | waiting | begun | complete | skipped | faulted
  deriving DecidableEq, Repr

/-- A chain that has begun on a tile (R239–R245): its stage words, its own copy of the parameter blocks, and the
state of each stage; `books` says how each coded LOADW stage was matched (R179), `sets` holds each stage's read and write
sets (R243), `held` the pages of stages whose address a POP delivered, `progs` the program blocks of VRUN stages as read
before the chain began (R196); `stop` says that no further stage begins (R245). -/
structure Chain where
  ref    : CmdRef
  serial : Bool
  started : Bool
  stages : List W64
  params : List (List W64)
  st     : List StageSt
  books  : List BookMatch
  sets   : List (List (Nat × Nat) × List (Nat × Nat))
  held   : List PageMap
  progs  : List (List W64)
  stop   : Bool
  deriving DecidableEq, Repr

/-! ## Partition-level units (R66, R268, R324, R325, R420–R425) -/

/-- What binds a partition's frame, session and prefix tables (R322): its stacks with frames, every FRAME_Q, its home
and SESSION_QUOTA. -/
structure Binding where
  stks : List Nat
  frameQ : List Nat
  home   : Option Nat
  sesQuota : Nat
  deriving DecidableEq, Repr

/-- A partition: its home stack, reports, command statuses and the resets that run in it. `cmdFor` is the context whose
CTX_CMD runs on; `resetting` and `destroyed` list contexts whose reset waits for an engine, and those that end FREE;
`rstBusy` is the reset that FLT_RST_CMD ordered and `rstRuns` those that run; `binds` is what bound the tables when a
reset of the partition began. -/
structure Part where
  ready    : Bool
  home     : Option Nat
  cmdFor   : Option Nat
  cmdRes   : Byte
  resetting : List Nat
  destroyed : List Nat
  inv      : Option InvOp
  invRes   : Byte
  prod     : W32
  lost     : BitVec 16
  seq      : W32
  rstBusy  : Option Rung
  rstRes   : Byte
  rstRuns  : List Rung
  binds    : Option Binding
  pfx      : List PfxEnt
  deriving DecidableEq, Repr

def Part.reset : Part := ⟨false, none, none, 0, [], [], none, 0, 0, 0, 0, none, 0, [], none, []⟩

/-! ## Links and collectives (R343–R372, R433) -/

inductive LinkSt where
  | down | training | up | retrain | failed
  deriving DecidableEq, Repr

structure Link where
  st       : LinkSt
  reversed : Bool
  polInv   : BitVec 4
  peerPos  : BitVec 4
  peerLink : BitVec 5
  retrains : Byte
  ce       : W32
  ue       : W32
  crc      : W32
  replay   : W32
  txLseq   : BitVec 9
  rxLseq   : BitVec 9
  naked    : Bool
  replays  : Nat
  fails    : Nat
  unacked  : List (Frame × Option CmdRef)
  rxq      : List Frame
  deriving DecidableEq, Repr

def Link.reset : Link :=
  ⟨.down, false, 0, 0xF, 0, 0, 0, 0, 0, 0, 0, 0, false, 0, 0, [], []⟩

/-- A write, release or lamp on its way to be acknowledged as performed (R343–R345), and its command; `bare` for a lamp
that the group sent of its own. -/
structure Sent where
  spray : Bool
  epoch : Byte
  seq   : W32
  lamp  : Bool
  bare  : Bool
  ref   : Option CmdRef
  deriving DecidableEq, Repr

/-- Sending state of a group toward one destination (R343, R344, R358): the next ordered sequence number, the current
epoch and its count, the epochs whose lamp is not acknowledged with the command each lamp is charged to, the writes
not yet acknowledged, the frames that already have a number or need none, those that wait for one, and the device queues
whose writes the current epoch holds (R427). -/
structure TxDest where
  seq     : W32
  epoch   : Byte
  count   : Nat
  openE   : List (Byte × Option CmdRef)
  unperf  : List Sent
  again   : List (Frame × Option CmdRef)
  waiting : List (Frame × Option CmdRef)
  queues  : List Nat
  deriving DecidableEq, Repr

def TxDest.reset : TxDest := ⟨0, 0, 0, [], [], [], [], []⟩

/-- Receiving state of one source (R343–R345): next ordered sequence number, early arrivals with the link of each,
the writes performed in each open epoch, and the epochs that closed last, latest first. A source's first epoch is 0 (DESIGN
CHOICE, log 96), so the one before it counts as closed. -/
structure RxSrc where
  seq    : W32
  early  : List (Nat × Frame)
  counts : List (Byte × Nat)
  closed : List Byte
  deriving DecidableEq, Repr

def RxSrc.reset : RxSrc := ⟨0, [], [], [0xFF]⟩

/-- A lamp held at the destination (R345), with the link it came over. -/
structure HeldLamp where
  src   : Nat
  frame : Frame
  link  : Nat
  deriving DecidableEq, Repr

structure LinkGroup where
  tx       : List (Nat × TxDest)
  lamps    : List HeldLamp
  lampsDone : BitVec 16
  rr       : Nat
  deriving DecidableEq, Repr

def LinkGroup.reset : LinkGroup := ⟨[], [], 0, 0⟩

/-- What the device holds of its board (R343–R345, R351, R433): its sampled position, its incarnation, the incarnation
last seen of each peer and last told to it, and the receiving state of every source. -/
structure Board where
  pos     : Option (BitVec 3)
  inc     : BitVec 16
  peerInc : List (Nat × BitVec 16)
  told    : List (Nat × BitVec 16)
  rx      : List (Nat × RxSrc)
  deriving DecidableEq, Repr

def Board.reset : Board := ⟨none, 0, [], [], []⟩

/-- A send in flight (R363): its peer, and its frames sent and acknowledged. -/
structure SendOp where
  ref     : CmdRef
  started : Bool
  peer    : Nat
  total   : Nat
  acked   : Nat
  deriving DecidableEq, Repr

/-- A collective that runs (R366): READYs sent and got, the members it has sent its contribution and its result to,
those whose contribution and result have arrived, whether the slice is reduced, and frames sent and acknowledged. -/
structure CollOp where
  ref      : CmdRef
  started  : Bool
  readySent : List Nat
  readyGot : List Nat
  contribTo : List Nat
  contribOf : List Nat
  reduced  : Bool
  resultOf : List Nat
  total    : Nat
  acked    : Nat
  resultTo : List Nat
  deriving DecidableEq, Repr

/-- An early READY (R366): the peer, its COLL_ID and its digest. -/
structure Cle where
  sends   : List SendOp
  coll    : Option CollOp
  early   : List (Nat × BitVec 16 × W32)
  deriving DecidableEq, Repr

def Cle.reset : Cle := ⟨[], none, []⟩

/-! ## Keeper pairs and the runtime (R373–R390, R424) -/

inductive RtSt where
  | off | starting | running | blocked | idle
  deriving DecidableEq, Repr

/-- A DECODE that runs (R378, R379): its record and local context, its parameters, the tokens delivered, the next
token's position, the time left to its deadline in ns, the steps in a row that left it out, whether the next token is
a re-run, and the position at which it failed last. -/
structure DecodeReq where
  ref      : CmdRef
  lc       : Nat
  session  : W32
  resAddr  : Nat
  maxTok   : Nat
  outAddr  : Nat
  deadline : Nat
  prog     : W64
  stop0    : W32
  stop1    : W32
  temp     : W32
  topK     : Nat
  k        : Nat
  pos      : Nat
  left     : Int
  missed   : Nat
  redo     : Bool
  failedAt : Option Nat
  deriving DecidableEq, Repr

/-- A PREFILL that runs (R378): its tokens, how many are in the cache, and what is left to do at its end. -/
structure PrefillReq where
  lc       : Nat
  session  : W32
  tokens   : Nat
  done     : Nat
  hashAddr : Nat
  publish  : Bool
  doneMark : W64
  deriving DecidableEq, Repr

/-- The recovery of a session whose entry failed (R386): the held sessions tried so far, and whether the parked stack
has shown that it has no free spill record. -/
structure Recovery where
  session : W32
  tried   : List W32
  full    : Bool
  deriving DecidableEq, Repr

/-- A keeper pair with its share of the runtime; the lead pair's copy is used (R375). `taken` lists the session records
handed to the runtime and not accepted, in the order it fetched them; `working` is the one whose session operation
runs; `held` lists the held sessions, longest-held first; `lens` the positions in each session's cache; `opens` counts
OPENs; `durations` holds the last 8 steps' in ns; `sampled`
holds RT_EN and RT_CTX as the start after the last partition reset found them, `owns` that it created the context;
`fenced` lists the cores that have executed a fence (R337), and `hostWr` holds each core's last write to host memory under
each function (R336); the runtime's writes are those of the pair's first core. -/
structure Pair where
  freq      : Freq
  inReset   : Bool
  st        : RtSt
  batch     : Nat
  late      : W32
  steps     : W32
  taken     : List CmdRef
  working   : Option CmdRef
  decodes   : List DecodeReq
  prefills  : List PrefillReq
  held      : List W32
  lens      : List (W32 × Nat)
  opens     : Nat
  durations : List Nat
  recover   : Option Recovery
  sampled   : Option (Bool × Nat)
  owns      : Bool
  fenced    : List Nat
  hostWr    : List (Nat × HostWr)
  deriving DecidableEq, Repr

def Pair.reset : Pair :=
  ⟨⟨11, 11, false⟩, true, .off, 0, 0, 0, [], none, [], [], [], [], 0, [], none, none, false, [], []⟩

/-! ## Tallies, ledger, watch, fog (R391–R416) -/

structure TalUnit where
  counts  : List (Nat × BitVec 48)
  ovf     : List (Nat × Bool)
  frozen  : Bool
  stampV  : Bool
  fogId   : Byte
  stamp   : W64
  chan    : List (Nat × (BitVec 16 × BitVec 16))
  deriving DecidableEq, Repr

def TalUnit.reset : TalUnit := ⟨[], [], false, false, 0, 0, []⟩

inductive LdgSt where
  | off | recording | triggered | stoppedFull | stoppedTrig | frozen | stopped
  deriving DecidableEq, Repr

/-- A ledger (R403–R411); `lastAt` is the cycle in which it last accepted a record, `lastN` how many it accepted then. -/
structure Ledger where
  st      : LdgSt
  before  : LdgSt
  slots   : List (Nat × List W64)
  wcount  : W32
  trigAt  : W32
  trigged : Bool
  lost    : W32
  lostNow : Nat
  staged  : Nat
  held    : List (List W64)
  latch   : List W32
  lastAt  : W64
  lastN   : Nat
  deriving DecidableEq, Repr

def Ledger.reset : Ledger := ⟨.off, .off, [], 0, 0, false, 0, 0, 0, [], [0, 0, 0, 0, 0, 0, 0, 0], 0, 0⟩

/-- The statistics of a watch slot (R413, R414). -/
structure WatchAcc where
  drains  : W32
  skipped : W32
  elems   : BitVec 48
  zeros   : W32
  nans    : W32
  infs    : W32
  clamps  : W32
  consts  : W32
  retries : W32
  amax    : W32
  amin    : W32
  digest  : W64
  hist    : List (Nat × W32)
  deriving DecidableEq, Repr

def WatchAcc.reset : WatchAcc := ⟨0, 0, 0, 0, 0, 0, 0, 0, 0, 0, 0x7F800000, 0, []⟩

/-- A watch slot: the running accumulators and the snapshot its registers show (R415). -/
structure WatchSlot where
  acc  : WatchAcc
  snap : WatchAcc
  deriving DecidableEq, Repr

def WatchSlot.reset : WatchSlot := ⟨.reset, .reset⟩

/-- Fog state (R397–R401): `reach` lists the units that the current fog has not reached yet. -/
structure Fog where
  fogged  : Bool
  source  : BitVec 3
  ignored : BitVec 12
  id      : Byte
  outLow  : Bool
  reach   : List BlkId
  deriving DecidableEq, Repr

def Fog.reset : Fog := ⟨false, 0, 0, 0, false, []⟩

/-- One handshake channel (R31, R32): the counts of the flits the sender sent and the receiver accepted, and the transfers
whose flits are in flight, oldest first. -/
structure ChanSt where
  sent   : BitVec 16
  rcvd   : BitVec 16
  flight : List Xfer
  deriving DecidableEq, Repr

def ChanSt.reset : ChanSt := ⟨0, 0, []⟩

/-! ## PCI Express, management port, security, power (R435–R483) -/

structure Func where
  present  : Bool
  bme      : Bool
  atsEn    : Bool
  atomicEn : Bool
  atc      : List (Nat × Nat)
  msixEn   : Bool
  msixMask : Bool
  table    : List (Nat × W32)
  pba      : List (Nat × Bool)
  posted   : List (Nat × List Byte × Bool)
  deriving DecidableEq, Repr

def Func.reset : Func := ⟨false, false, false, false, [], false, false, [], [], []⟩

/-- A device request that waits for the host's completion (R340, R437, R438): the reader and, for an emulated
atomic, its operation. -/
inductive HostReader where
  | mark (p : Nat) (q : Nat) (w : Nat)
  | stream (t : Nat) (sid : Nat) (seq : Nat)
  | mover (s : Nat)
  | image
  | atomic (core : Fin 16) (addr : Nat) (op : AtomOp) (bytes : Nat) (v : Nat)
  | release (r : Release)
  deriving DecidableEq, Repr

structure Pcx where
  gen   : BitVec 4
  width : BitVec 5
  flit  : Bool
  up    : Bool
  pm    : BitVec 3
  perst : Bool
  ideSecure : Bool
  ideKeys : List ((Byte × Byte × Byte × Byte) × List Byte)
  ideSets : List (Byte × Byte)
  numVfs : Nat
  reqs  : List HostReader
  deriving DecidableEq, Repr

def Pcx.reset : Pcx := ⟨0, 0, false, false, 0, true, false, [], [], 0, []⟩

/-- PLDM firmware update states between two messages (R454). -/
inductive FwSt where
  | idle | learn | ready | download
  deriving DecidableEq, Repr

structure Mgt where
  daValid : Bool
  dynAddr : BitVec 7
  eid     : Byte
  fwSt    : FwSt
  fwComps : List (BitVec 16)
  fwComp  : BitVec 16
  fwSize  : Nat
  fwGot   : Nat
  deriving DecidableEq, Repr

def Mgt.reset : Mgt := ⟨false, 0, 0, .idle, [], 0, 0, 0⟩

/-- An OTP area (R457): unused, or programmed with 2,048 bytes. -/
structure OtpArea where
  used : Bool
  bad  : Bool
  data : List Byte
  deriving DecidableEq, Repr

/-- The OTP store; `writing` is the area being programmed, until the management island's next cycle (R458). -/
structure Otp where
  areas : List OtpArea
  inUse : Option Nat
  writing : Option Nat
  deriving DecidableEq, Repr

def Otp.reset : Otp := ⟨List.replicate 4 ⟨false, false, []⟩, none, none⟩

/-- The security block (R446, R460, R461): measurements, the boot outcomes and the key-exchange key's count. -/
structure Sec where
  idOk     : Bool
  slots    : List (List Byte)
  mgmtFw   : Option Bool
  keeperFw : Option Bool
  keeperCopyB : Bool
  kxGen    : Nat
  deriving DecidableEq, Repr

def Sec.reset : Sec := ⟨false, [], none, none, false, 0⟩

/-- A domain switch that runs (R473). -/
structure DomSwitch where
  dom : Nat
  on  : Bool
  deriving DecidableEq, Repr

structure Pwr where
  aux     : Bool
  v48     : Bool
  spine   : Bool
  conv    : Bool
  lockout : Bool
  tripped : Bool
  thermTrip : Bool
  cycleReq : Bool
  on      : BitVec 88
  switch  : Option DomSwitch
  domRes  : Byte
  latched : Bool
  powerQ  : BitVec 16
  vinMv   : BitVec 16
  iin     : BitVec 16
  half0   : Byte
  half1   : Byte
  ioDie   : Byte
  stackMax : Byte
  clampOn : Bool
  throttleHalf : List Nat
  sampled : Bool
  deriving DecidableEq, Repr

def Pwr.reset : Pwr :=
  ⟨false, false, false, false, false, false, false, false, 0, none, 0, false, 0, 0, 0, 0, 0, 0, 0, false, [], false⟩

/-- Chip start (R475, R476): the steps that have been done since the last start; `runtimes` lists the partitions whose
runtime has started since (step 12). -/
structure Boot where
  otpRead   : Bool
  mgmtUp    : Bool
  imgRead   : Bool
  imgOk     : Bool
  domsOn    : Bool
  applied   : Bool
  chipReset : Bool
  fromMgmt  : Bool
  runtimes  : List Nat
  deriving DecidableEq, Repr

def Boot.reset : Boot := ⟨false, false, false, false, false, false, false, false, []⟩

/-- The boundary-scan instruction in use (R482). -/
inductive Jtag where
  | extest | sample | highz | clamp | bypass
  deriving DecidableEq, Repr

/-! ## Timers (R33) -/

/-- What a running duration belongs to. -/
inductive TimerId where
  | progress (q : Nat)
  | stall (t : Nat) (sid : Nat)
  | lamp (g : Nat) (peer : Nat) (epoch : Nat)
  | coll (g : Nat) (q : Nat) (head : Nat)
  | trainWindow (l slot : Nat)
  | engine (e : Eng) (unit : Nat)
  | heartbeat (p : Nat)
  | rung (p : Nat) (r : Rung)
  | destroy (c : Nat)
  | readyAgain (g : Nat) (peer : Nat)
  | clamp
  | fogOut
  | capPeriod (p : Nat)
  | recal (k : Nat)
  deriving DecidableEq, Repr

/-- A clock island (R26). -/
inductive Island where
  | tile (t : Nat)
  | base (s : Nat)
  | keeper (p : Nat)
  | link (g : Nat)
  | mgmt
  | pcie
  deriving DecidableEq, Repr

/-- A running down-counter, in units of 2^-16 ns (R33). -/
structure Timer where
  id     : TimerId
  island : Island
  left   : Int
  deriving DecidableEq, Repr

/-! ## What leaves the block -/

/-- What an outside observer sees: messages, host writes, pins and link frames. -/
inductive Out where
  | msix (fn : Nat) (vec : Nat)
  | hostWrite (fn : Nat) (bus : Nat) (data : List Byte) (relaxed : Bool)
  | notice (p : Nat) (kind : Nat) (words : List Nat)
  | frame (link : Nat) (f : Frame)
  | linkCtl (link : Nat) (nak : Bool) (lseq : BitVec 9)
  | response (doe : Option Nat) (message : List Byte)
  | pldm (typ : Nat) (cmd : Nat) (payload : List Byte)
  | mctp (cmd : Nat) (payload : List Byte)
  | alertNotice (bits : W32) (fogId : Byte) (flt : List W32)
  | inBand
  | i3cId (id : Nat)
  | completion (fn : Nat) (ok : Bool) (data : List Byte)
  | keeperData (core : Nat) (data : List Byte)
  | keeperFault (core : Nat) (addr : Nat)
  | atsReply (fn : Nat)
  | fogOut (low : Bool)
  | thermTrip
  | powerCycleReq
  | hostRead (fn : Nat) (bus : Nat) (len : Nat)
  | hostAtomic (fn : Nat) (bus : Nat) (op : AtomOp) (bytes : Nat) (v : Nat)
  deriving DecidableEq, Repr

/-! ## The whole state -/

structure State where
  mem     : List Host.Cell
  poison  : List (Nat × Bool)
  flash   : List Host.Cell
  blocks  : List (Nat × BlockRegs)
  img     : Img
  ctxs    : List (Nat × Ctx)
  ques    : List (Nat × Que)
  rels    : List Release
  tiles   : List (Nat × TileSt)
  mxes    : List (Nat × Mxe)
  vxes    : List (Nat × Vxe)
  stes    : List (Nat × Ste)
  chains  : List (Nat × List Chain)
  stks  : List (Nat × Stack)
  tlbs    : List (Nat × List TlbEnt)
  nmes    : List (Nat × Nme)
  kvfs    : List (Nat × Kvf)
  parts   : List (Nat × Part)
  sess    : List (Nat × Ses)
  rings   : List (Nat × Ring)
  bars    : List (Nat × Bar)
  links   : List (Nat × Link)
  lgs     : List (Nat × LinkGroup)
  board   : Board
  cles    : List (Nat × Cle)
  pairs   : List (Nat × Pair)
  tals    : List (Nat × TalUnit)
  ldgs    : List (Nat × Ledger)
  wchs    : List (Nat × WatchSlot)
  chans   : List (Nat × ChanSt)
  cycles  : List (Nat × W64)
  fog     : Fog
  pcx     : Pcx
  funcs   : List (Nat × Func)
  mgt     : Mgt
  otp     : Otp
  sec     : Sec
  pwr     : Pwr
  boot    : Boot
  jtag    : Jtag
  straps  : BitVec 3
  timers  : List Timer
  rr      : List (Nat × Nat)
  out     : List Out
  free    : Nat
  pending : List Instr
  deriving DecidableEq, Repr

/-- The machine before its supplies reach specification: every register at the value its table gives for reset,
nothing listed in memory, every domain off, no command waiting. -/
def State.reset : State where
  mem := []
  poison := []
  flash := []
  blocks := []
  img := .reset
  ctxs := []
  ques := []
  rels := []
  tiles := []
  mxes := []
  vxes := []
  stes := []
  chains := []
  stks := []
  tlbs := []
  nmes := []
  kvfs := []
  parts := []
  sess := []
  rings := []
  bars := []
  links := []
  lgs := []
  board := .reset
  cles := []
  pairs := []
  tals := []
  ldgs := []
  wchs := []
  chans := []
  cycles := []
  fog := .reset
  pcx := .reset
  funcs := []
  mgt := .reset
  otp := .reset
  sec := .reset
  pwr := .reset
  boot := .reset
  jtag := .bypass
  straps := 7
  timers := []
  rr := []
  out := []
  free := 0
  pending := []

/-- Why the machine stops. -/
inductive Fault where
  /-- Raised by a meaning whose operands are no command of the table: a register access that is not an aligned
  word, a unit number the block does not have, a message of a length the spec does not give (WellFormed refuses
  each). Safe: the spec gives such a command no effect. -/
  | illFormed
  deriving DecidableEq, Repr

/-- Why a command has no meaning here. -/
inductive Refusal where
  /-- Raised by an arm of `exec` for a row whose meaning is not written. Safe. -/
  | notModelled (mnemonic : String)
  deriving DecidableEq, Repr

end Sys2Proof.Machine
end

