-- ==== Sys2Proof/Machine/RegMap.lean ====
section
/-!
DEFINITION. The control-register map: every register of every block with its offset, its fields, their access codes
and reset values (R5, R37, R41), the addresses of the blocks (R37), and what a register reads as from the three sets
of values of R39. Register layouts come from the tables of the chapters; a row's name is the register's.
-/
namespace Sys2Proof.Machine

/-- The access codes of R5. -/
inductive Acc where
  | ro | rw | w1c | wo | stg
  deriving DecidableEq, Repr

/-- A field of a register: bits [hi:lo], access and reset value. -/
structure Field where
  hi : Nat
  lo : Nat
  acc : Acc
  reset : Nat
  deriving DecidableEq, Repr

/-- A register, or an array of `count` registers `stride` bytes apart. -/
structure RegRow where
  name : String
  base : Nat
  stride : Nat
  count : Nat
  fields : List Field
  deriving DecidableEq, Repr

/-- Registers of the TILE_ blocks. -/
def regsTile : List RegRow := [
    ⟨"TILE_CLK_TARGET", 0x40, 0x0, 1, [⟨4, 0, .stg, 0x10⟩]⟩,
    ⟨"TILE_CLK_STATUS", 0x44, 0x0, 1, [⟨31, 31, .ro, 0x0⟩, ⟨30, 30, .w1c, 0x0⟩, ⟨29, 25, .ro, 0x10⟩, ⟨19, 0, .ro, 0xa000⟩]⟩,
    ⟨"TILE_RNG_CTL", 0x50, 0x0, 1, [⟨31, 31, .wo, 0x0⟩, ⟨16, 16, .stg, 0x0⟩, ⟨15, 0, .stg, 0x8000⟩]⟩,
    ⟨"TILE_RNG_STATUS", 0x54, 0x0, 1, [⟨31, 31, .ro, 0x0⟩, ⟨16, 16, .ro, 0x0⟩, ⟨15, 0, .ro, 0x0⟩]⟩]

/-- Registers of the MXE_ blocks. -/
def regsMxe : List RegRow := [
    ⟨"MXE_CTL", 0x10, 0x0, 1, [⟨1, 0, .stg, 0x0⟩]⟩,
    ⟨"MXE_STATUS", 0x14, 0x0, 1, [⟨31, 31, .ro, 0x0⟩, ⟨30, 30, .ro, 0x0⟩, ⟨29, 29, .ro, 0x0⟩, ⟨28, 27, .ro, 0x0⟩, ⟨26, 26, .ro, 0x0⟩, ⟨25, 25, .ro, 0x0⟩, ⟨24, 24, .ro, 0x0⟩]⟩,
    ⟨"MXE_CLAIM", 0x18, 0x0, 1, [⟨31, 31, .ro, 0x0⟩, ⟨26, 16, .ro, 0x0⟩, ⟨15, 15, .ro, 0x0⟩, ⟨10, 0, .ro, 0x0⟩]⟩,
    ⟨"MXE_SLOT_CLAIM", 0x1C, 0x0, 1, [⟨31, 31, .ro, 0x0⟩, ⟨26, 16, .ro, 0x0⟩, ⟨15, 15, .ro, 0x0⟩, ⟨10, 0, .ro, 0x0⟩]⟩,
    ⟨"MXE_FOLD", 0x20, 0x0, 1, [⟨31, 31, .stg, 0x0⟩, ⟨21, 12, .stg, 0x3c0⟩]⟩,
    ⟨"MXE_ACC_STATUS", 0x24, 0x0, 1, [⟨31, 31, .w1c, 0x0⟩, ⟨30, 30, .w1c, 0x0⟩, ⟨29, 29, .w1c, 0x0⟩, ⟨28, 28, .w1c, 0x0⟩, ⟨15, 0, .ro, 0x0⟩]⟩,
    ⟨"MXE_SAVE_LO", 0x30, 0x0, 1, [⟨31, 6, .stg, 0x0⟩]⟩,
    ⟨"MXE_SAVE_HI", 0x34, 0x0, 1, [⟨15, 0, .stg, 0x0⟩]⟩,
    ⟨"MXE_SAVE_CMD", 0x38, 0x0, 1, [⟨31, 28, .wo, 0x0⟩, ⟨27, 26, .wo, 0x0⟩, ⟨10, 0, .wo, 0x0⟩]⟩,
    ⟨"MXE_SAVE_STATUS", 0x3C, 0x0, 1, [⟨31, 31, .ro, 0x0⟩, ⟨7, 0, .ro, 0x0⟩]⟩,
    ⟨"MXE_BOOK_STAT", 0x80, 0x4, 8, [⟨31, 31, .ro, 0x0⟩, ⟨30, 30, .ro, 0x0⟩, ⟨29, 29, .ro, 0x0⟩, ⟨28, 28, .ro, 0x0⟩, ⟨27, 26, .ro, 0x0⟩, ⟨25, 24, .ro, 0x0⟩, ⟨23, 16, .ro, 0x0⟩, ⟨15, 8, .ro, 0x0⟩, ⟨7, 0, .ro, 0x0⟩]⟩,
    ⟨"MXE_EXP_STATUS", 0xA0, 0x0, 1, [⟨31, 31, .w1c, 0x0⟩, ⟨30, 30, .w1c, 0x0⟩, ⟨15, 0, .ro, 0x0⟩]⟩]

/-- Registers of the VXE_ blocks. -/
def regsVxe : List RegRow := [
    ⟨"VXE_CTL", 0x10, 0x0, 1, [⟨0, 0, .stg, 0x0⟩]⟩,
    ⟨"VXE_STATUS", 0x14, 0x0, 1, [⟨31, 31, .ro, 0x0⟩, ⟨15, 8, .ro, 0x0⟩, ⟨7, 0, .ro, 0x0⟩]⟩,
    ⟨"VXE_FLAGS", 0x18, 0x0, 1, [⟨4, 0, .w1c, 0x0⟩]⟩]

/-- Registers of the STE_ blocks. -/
def regsSte : List RegRow := [
    ⟨"STE_CTL", 0x10, 0x0, 1, [⟨4, 0, .stg, 0x0⟩]⟩,
    ⟨"STE_CMD", 0x14, 0x0, 1, [⟨31, 28, .wo, 0x0⟩, ⟨3, 0, .wo, 0x0⟩]⟩,
    ⟨"STE_STAT", 0x100, 0x20, 16, [⟨31, 29, .ro, 0x0⟩, ⟨28, 28, .ro, 0x0⟩, ⟨23, 16, .ro, 0x0⟩, ⟨10, 0, .ro, 0x0⟩]⟩,
    ⟨"STE_CUR0", 0x104, 0x20, 16, [⟨31, 16, .ro, 0x0⟩, ⟨15, 0, .ro, 0x0⟩]⟩,
    ⟨"STE_CUR1", 0x108, 0x20, 16, [⟨31, 16, .ro, 0x0⟩, ⟨15, 0, .ro, 0x0⟩]⟩,
    ⟨"STE_CUR2", 0x10C, 0x20, 16, [⟨15, 0, .ro, 0x0⟩]⟩,
    ⟨"STE_FR_A_LO", 0x110, 0x20, 16, [⟨31, 0, .ro, 0x0⟩]⟩,
    ⟨"STE_FR_A_HI", 0x114, 0x20, 16, [⟨15, 0, .ro, 0x0⟩]⟩,
    ⟨"STE_FR_B_LO", 0x118, 0x20, 16, [⟨31, 0, .ro, 0x0⟩]⟩,
    ⟨"STE_FR_B_HI", 0x11C, 0x20, 16, [⟨15, 0, .ro, 0x0⟩]⟩]

/-- Registers of the TAL_ blocks. -/
def regsTal (n : Nat) : List RegRow := [
    ⟨"TAL_CMD", 0x10, 0x0, 1, [⟨31, 28, .wo, 0x0⟩, ⟨15, 8, .wo, 0x0⟩, ⟨7, 0, .wo, 0x0⟩]⟩,
    ⟨"TAL_STAT", 0x14, 0x0, 1, [⟨31, 31, .ro, 0x0⟩, ⟨30, 30, .ro, 0x0⟩, ⟨29, 29, .w1c, 0x0⟩, ⟨15, 8, .ro, 0x0⟩, ⟨7, 0, .ro, 0x0⟩]⟩,
    ⟨"TAL_FRZ_LO", 0x20, 0x0, 1, [⟨31, 0, .ro, 0x0⟩]⟩,
    ⟨"TAL_FRZ_HI", 0x24, 0x0, 1, [⟨31, 0, .ro, 0x0⟩]⟩,
    ⟨"TAL_CHAN", 0x40, 0x4, 8, [⟨31, 16, .ro, 0x0⟩, ⟨15, 0, .ro, 0x0⟩]⟩,
    ⟨"TAL_SEL", 0x100, 0x8, n, [⟨31, 30, .stg, 0x0⟩, ⟨15, 0, .stg, 0x0⟩]⟩,
    ⟨"TAL_FVAL", 0x104, 0x8, n, [⟨15, 0, .stg, 0x0⟩]⟩,
    ⟨"TAL_VAL_LO", 0x800, 0x8, n, [⟨31, 0, .ro, 0x0⟩]⟩,
    ⟨"TAL_VAL_HI", 0x804, 0x8, n, [⟨31, 31, .w1c, 0x0⟩, ⟨15, 0, .ro, 0x0⟩]⟩]

/-- Registers of the LDG_ blocks. -/
def regsLdg : List RegRow := [
    ⟨"LDG_CTL", 0x10, 0x0, 1, [⟨31, 31, .stg, 0x0⟩, ⟨30, 30, .stg, 0x0⟩, ⟨29, 29, .stg, 0x0⟩, ⟨28, 28, .stg, 0x0⟩, ⟨27, 27, .stg, 0x0⟩, ⟨26, 25, .stg, 0x0⟩, ⟨24, 24, .stg, 0x0⟩, ⟨11, 0, .stg, 0x40⟩]⟩,
    ⟨"LDG_TRIG", 0x14, 0x0, 1, [⟨31, 24, .stg, 0x0⟩, ⟨23, 23, .stg, 0x0⟩, ⟨22, 22, .stg, 0x0⟩, ⟨15, 0, .stg, 0x0⟩]⟩,
    ⟨"LDG_TRIG_OP", 0x18, 0x0, 1, [⟨15, 0, .stg, 0x0⟩]⟩,
    ⟨"LDG_SPILL_LO", 0x20, 0x0, 1, [⟨31, 16, .stg, 0x0⟩]⟩,
    ⟨"LDG_SPILL_HI", 0x24, 0x0, 1, [⟨15, 0, .stg, 0x0⟩]⟩,
    ⟨"LDG_SPILL_LEN", 0x28, 0x0, 1, [⟨19, 0, .stg, 0x0⟩]⟩,
    ⟨"LDG_CMD", 0x2C, 0x0, 1, [⟨31, 28, .wo, 0x0⟩]⟩,
    ⟨"LDG_STAT", 0x30, 0x0, 1, [⟨31, 29, .ro, 0x0⟩, ⟨28, 28, .w1c, 0x0⟩, ⟨27, 27, .w1c, 0x0⟩, ⟨26, 26, .w1c, 0x0⟩]⟩,
    ⟨"LDG_WCOUNT", 0x34, 0x0, 1, [⟨31, 0, .ro, 0x0⟩]⟩,
    ⟨"LDG_TRIG_AT", 0x38, 0x0, 1, [⟨31, 0, .ro, 0x0⟩]⟩,
    ⟨"LDG_LOST", 0x3C, 0x0, 1, [⟨31, 0, .ro, 0x0⟩]⟩,
    ⟨"LDG_RD_SEL", 0x40, 0x0, 1, [⟨10, 0, .rw, 0x0⟩]⟩,
    ⟨"LDG_RD_DATA", 0x50, 0x4, 8, [⟨31, 0, .ro, 0x0⟩]⟩]

/-- Registers of the WCH_ blocks. -/
def regsWch : List RegRow := [
    ⟨"WCH_CMD", 0x10, 0x0, 1, [⟨31, 28, .wo, 0x0⟩, ⟨3, 0, .wo, 0x0⟩]⟩,
    ⟨"WCH_CFG", 0x100, 0x100, 4, [⟨31, 31, .stg, 0x0⟩, ⟨30, 30, .stg, 0x0⟩, ⟨29, 29, .stg, 0x0⟩, ⟨28, 28, .stg, 0x0⟩, ⟨27, 27, .stg, 0x0⟩, ⟨26, 26, .stg, 0x0⟩, ⟨23, 16, .stg, 0xf8⟩, ⟨15, 0, .stg, 0x0⟩]⟩,
    ⟨"WCH_CFG_OP", 0x104, 0x100, 4, [⟨15, 0, .stg, 0x0⟩]⟩,
    ⟨"WCH_DRAINS", 0x110, 0x100, 4, [⟨31, 0, .ro, 0x0⟩]⟩,
    ⟨"WCH_SKIPPED", 0x114, 0x100, 4, [⟨31, 0, .ro, 0x0⟩]⟩,
    ⟨"WCH_ELEMS_LO", 0x118, 0x100, 4, [⟨31, 0, .ro, 0x0⟩]⟩,
    ⟨"WCH_ELEMS_HI", 0x11C, 0x100, 4, [⟨15, 0, .ro, 0x0⟩]⟩,
    ⟨"WCH_ZEROS", 0x120, 0x100, 4, [⟨31, 0, .ro, 0x0⟩]⟩,
    ⟨"WCH_NANS", 0x124, 0x100, 4, [⟨31, 0, .ro, 0x0⟩]⟩,
    ⟨"WCH_INFS", 0x128, 0x100, 4, [⟨31, 0, .ro, 0x0⟩]⟩,
    ⟨"WCH_CLAMPS", 0x12C, 0x100, 4, [⟨31, 0, .ro, 0x0⟩]⟩,
    ⟨"WCH_CONST", 0x130, 0x100, 4, [⟨31, 0, .ro, 0x0⟩]⟩,
    ⟨"WCH_RETRIES", 0x134, 0x100, 4, [⟨31, 0, .ro, 0x0⟩]⟩,
    ⟨"WCH_AMAX", 0x138, 0x100, 4, [⟨31, 0, .ro, 0x0⟩]⟩,
    ⟨"WCH_AMIN", 0x13C, 0x100, 4, [⟨31, 0, .ro, 0x7f800000⟩]⟩,
    ⟨"WCH_DIGEST_LO", 0x140, 0x100, 4, [⟨31, 0, .ro, 0x0⟩]⟩,
    ⟨"WCH_DIGEST_HI", 0x144, 0x100, 4, [⟨31, 0, .ro, 0x0⟩]⟩,
    ⟨"WCH_HIST0", 0x180, 0x4, 16, [⟨31, 0, .ro, 0x0⟩]⟩,
    ⟨"WCH_HIST1", 0x280, 0x4, 16, [⟨31, 0, .ro, 0x0⟩]⟩,
    ⟨"WCH_HIST2", 0x380, 0x4, 16, [⟨31, 0, .ro, 0x0⟩]⟩,
    ⟨"WCH_HIST3", 0x480, 0x4, 16, [⟨31, 0, .ro, 0x0⟩]⟩]

/-- Registers of the NME_ blocks, with those of the stack's arbiter (R237). -/
def regsNme : List RegRow := [
    ⟨"NME_ATT_STATUS", 0x20, 0x0, 1, [⟨31, 31, .ro, 0x0⟩, ⟨30, 30, .ro, 0x0⟩, ⟨15, 12, .ro, 0x0⟩, ⟨11, 0, .ro, 0x0⟩]⟩,
    ⟨"NME_ATT_FLAGS", 0x24, 0x0, 1, [⟨31, 31, .w1c, 0x0⟩, ⟨30, 30, .w1c, 0x0⟩, ⟨29, 29, .w1c, 0x0⟩, ⟨28, 28, .w1c, 0x0⟩, ⟨27, 27, .w1c, 0x0⟩]⟩,
    ⟨"NME_ATT_FRAMES", 0x28, 0x0, 1, [⟨31, 0, .ro, 0x0⟩]⟩,
    ⟨"NME_STACK_STATUS", 0xC00, 0x0, 1, [⟨31, 29, .ro, 0x0⟩, ⟨28, 28, .ro, 0x0⟩, ⟨23, 16, .ro, 0x0⟩, ⟨15, 0, .ro, 0x0⟩]⟩,
    ⟨"NME_ECC_STATUS", 0xD00, 0x0, 1, [⟨31, 31, .w1c, 0x0⟩, ⟨30, 30, .w1c, 0x0⟩, ⟨29, 29, .w1c, 0x0⟩]⟩,
    ⟨"NME_ECC_ADDR_LO", 0xD04, 0x0, 1, [⟨31, 6, .ro, 0x0⟩]⟩,
    ⟨"NME_ECC_ADDR_HI", 0xD08, 0x0, 1, [⟨15, 0, .ro, 0x0⟩]⟩,
    ⟨"NME_MOVE_DEV_LO", 0xE00, 0x0, 1, [⟨31, 12, .rw, 0x0⟩]⟩,
    ⟨"NME_MOVE_DEV_HI", 0xE04, 0x0, 1, [⟨15, 0, .rw, 0x0⟩]⟩,
    ⟨"NME_MOVE_HOST_LO", 0xE08, 0x0, 1, [⟨31, 12, .rw, 0x0⟩]⟩,
    ⟨"NME_MOVE_HOST_HI", 0xE0C, 0x0, 1, [⟨15, 0, .rw, 0x0⟩]⟩,
    ⟨"NME_MOVE_LEN", 0xE10, 0x0, 1, [⟨17, 0, .rw, 0x0⟩]⟩,
    ⟨"NME_MOVE_CMD", 0xE14, 0x0, 1, [⟨31, 28, .wo, 0x0⟩]⟩,
    ⟨"NME_MOVE_STATUS", 0xE18, 0x0, 1, [⟨31, 31, .ro, 0x0⟩, ⟨30, 12, .ro, 0x0⟩, ⟨7, 0, .ro, 0x0⟩]⟩,
    ⟨"NME_ARB_CTL", 0xF00, 0x0, 1, [⟨31, 16, .stg, 0x7d0⟩, ⟨15, 0, .stg, 0x28⟩]⟩,
    ⟨"NME_ARB_STATUS", 0xF04, 0x0, 1, [⟨31, 16, .ro, 0x64⟩, ⟨9, 0, .ro, 0x0⟩]⟩]

/-- Registers of the KVF_ blocks. -/
def regsKvf : List RegRow := [
    ⟨"KVF_CTL", 0x10, 0x0, 1, [⟨3, 0, .stg, 0x5⟩]⟩,
    ⟨"KVF_STAT", 0x14, 0x0, 1, [⟨31, 31, .w1c, 0x0⟩, ⟨30, 30, .w1c, 0x0⟩, ⟨19, 0, .ro, 0x0⟩]⟩,
    ⟨"KVF_EPOCH", 0x18, 0x0, 1, [⟨15, 0, .ro, 0x0⟩]⟩,
    ⟨"KVF_SPILL_LO", 0x20, 0x0, 1, [⟨31, 17, .stg, 0x0⟩]⟩,
    ⟨"KVF_SPILL_HI", 0x24, 0x0, 1, [⟨15, 0, .stg, 0x0⟩]⟩,
    ⟨"KVF_SPILL_CNT", 0x28, 0x0, 1, [⟨16, 0, .stg, 0x0⟩]⟩,
    ⟨"KVF_SPILL_STAT", 0x2C, 0x0, 1, [⟨16, 0, .ro, 0x0⟩]⟩,
    ⟨"KVF_POOL_LIMIT", 0x100, 0x4, 16, [⟨19, 0, .stg, 0x0⟩]⟩,
    ⟨"KVF_POOL_USED", 0x140, 0x4, 16, [⟨19, 0, .ro, 0x0⟩]⟩,
    ⟨"KVF_ENTRY_SEL", 0x200, 0x0, 1, [⟨31, 31, .rw, 0x0⟩, ⟨18, 0, .rw, 0x0⟩]⟩,
    ⟨"KVF_ENTRY", 0x210, 0x4, 8, [⟨31, 0, .ro, 0x0⟩]⟩]

/-- Registers of the LNK_ blocks. -/
def regsLnk : List RegRow := [
    ⟨"LNK_CTL", 0x10, 0x0, 1, [⟨31, 31, .stg, 0x1⟩, ⟨3, 0, .stg, 0xf⟩]⟩,
    ⟨"LNK_POS", 0x14, 0x0, 1, [⟨3, 3, .w1c, 0x0⟩, ⟨2, 0, .ro, 0x0⟩]⟩,
    ⟨"LNK_CMD", 0x20, 0x0, 1, [⟨31, 28, .wo, 0x0⟩, ⟨1, 0, .wo, 0x0⟩]⟩,
    ⟨"LNK_INC", 0x30, 0x0, 1, [⟨15, 0, .ro, 0x0⟩]⟩,
    ⟨"LNK_L_STATE", 0x100, 0x20, 4, [⟨31, 29, .ro, 0x0⟩, ⟨28, 28, .ro, 0x0⟩, ⟨27, 24, .ro, 0x0⟩, ⟨23, 20, .ro, 0xf⟩, ⟨19, 15, .ro, 0x0⟩, ⟨7, 0, .ro, 0x0⟩]⟩,
    ⟨"LNK_L_CE", 0x104, 0x20, 4, [⟨31, 0, .ro, 0x0⟩]⟩,
    ⟨"LNK_L_UE", 0x108, 0x20, 4, [⟨31, 0, .ro, 0x0⟩]⟩,
    ⟨"LNK_L_CRC", 0x10C, 0x20, 4, [⟨31, 0, .ro, 0x0⟩]⟩,
    ⟨"LNK_L_REPLAY", 0x110, 0x20, 4, [⟨31, 0, .ro, 0x0⟩]⟩,
    ⟨"LNK_SPRAY_STAT", 0x400, 0x0, 1, [⟨31, 31, .w1c, 0x0⟩, ⟨30, 30, .w1c, 0x0⟩, ⟨29, 29, .w1c, 0x0⟩, ⟨23, 16, .ro, 0x0⟩, ⟨15, 0, .ro, 0x0⟩]⟩,
    ⟨"LNK_LAMP_TMO", 0x404, 0x0, 1, [⟨23, 0, .stg, 0x3e8⟩]⟩]

/-- Registers of the CLE_ blocks. -/
def regsCle : List RegRow := [
    ⟨"CLE_IN_CTX", 0x10, 0x0, 1, [⟨31, 31, .stg, 0x0⟩, ⟨7, 0, .stg, 0x0⟩]⟩,
    ⟨"CLE_STATUS", 0x14, 0x0, 1, [⟨31, 31, .ro, 0x0⟩, ⟨21, 16, .ro, 0x0⟩, ⟨15, 0, .ro, 0x0⟩]⟩,
    ⟨"CLE_FLAGS", 0x18, 0x0, 1, [⟨31, 31, .w1c, 0x0⟩, ⟨30, 30, .w1c, 0x0⟩, ⟨29, 29, .w1c, 0x0⟩, ⟨28, 28, .w1c, 0x0⟩]⟩]

/-- Registers of the KPR_ blocks. -/
def regsKpr : List RegRow := [
    ⟨"KPR_RT_CTL", 0x10, 0x0, 1, [⟨31, 31, .stg, 0x1⟩, ⟨30, 30, .stg, 0x1⟩, ⟨29, 29, .stg, 0x1⟩, ⟨27, 24, .stg, 0xc⟩, ⟨23, 16, .stg, 0x0⟩, ⟨12, 0, .stg, 0x100⟩]⟩,
    ⟨"KPR_RT_POLICY", 0x14, 0x0, 1, [⟨31, 28, .stg, 0x2⟩, ⟨27, 26, .stg, 0x1⟩, ⟨25, 22, .stg, 0x0⟩, ⟨21, 18, .stg, 0x0⟩, ⟨17, 14, .stg, 0x4⟩, ⟨13, 9, .stg, 0x0⟩, ⟨8, 5, .stg, 0x4⟩]⟩,
    ⟨"KPR_RT_POWER", 0x18, 0x0, 1, [⟨31, 20, .stg, 0x0⟩, ⟨19, 15, .stg, 0x10⟩, ⟨14, 11, .stg, 0x1⟩]⟩,
    ⟨"KPR_RT_STATUS", 0x20, 0x0, 1, [⟨31, 29, .ro, 0x0⟩, ⟨28, 28, .ro, 0x0⟩, ⟨12, 0, .ro, 0x0⟩]⟩,
    ⟨"KPR_RT_LATE", 0x24, 0x0, 1, [⟨31, 0, .ro, 0x0⟩]⟩,
    ⟨"KPR_RT_STEPS", 0x28, 0x0, 1, [⟨31, 0, .ro, 0x0⟩]⟩,
    ⟨"KPR_HB", 0x30, 0x0, 1, [⟨31, 0, .rw, 0x0⟩]⟩,
    ⟨"KPR_HB_CTL", 0x34, 0x0, 1, [⟨11, 0, .stg, 0x64⟩]⟩,
    ⟨"KPR_CLK_TARGET", 0x40, 0x0, 1, [⟨4, 0, .stg, 0xb⟩]⟩,
    ⟨"KPR_CLK_STATUS", 0x44, 0x0, 1, [⟨31, 31, .ro, 0x0⟩, ⟨30, 30, .w1c, 0x0⟩, ⟨29, 25, .ro, 0xb⟩, ⟨19, 0, .ro, 0x745d⟩]⟩]

/-- Registers of the CTX_ blocks. -/
def regsCtx : List RegRow := [
    ⟨"CTX_CMD", 0x4, 0x0, 1, [⟨31, 28, .wo, 0x0⟩, ⟨7, 0, .wo, 0x0⟩]⟩,
    ⟨"CTX_CMD_STATUS", 0x8, 0x0, 1, [⟨31, 31, .ro, 0x0⟩, ⟨7, 0, .ro, 0x0⟩]⟩,
    ⟨"CTX_INV_ADDR_LO", 0x10, 0x0, 1, [⟨31, 16, .rw, 0x0⟩]⟩,
    ⟨"CTX_INV_ADDR_HI", 0x14, 0x0, 1, [⟨31, 16, .rw, 0x0⟩, ⟨15, 0, .rw, 0x0⟩]⟩,
    ⟨"CTX_INV_CMD", 0x18, 0x0, 1, [⟨31, 28, .wo, 0x0⟩, ⟨7, 0, .wo, 0x0⟩]⟩,
    ⟨"CTX_INV_STATUS", 0x1C, 0x0, 1, [⟨31, 31, .ro, 0x0⟩, ⟨7, 0, .ro, 0x0⟩]⟩,
    ⟨"CTX_XLAT_LO", 0x2000, 0x20, 256, [⟨31, 12, .stg, 0x0⟩, ⟨0, 0, .stg, 0x0⟩]⟩,
    ⟨"CTX_XLAT_HI", 0x2004, 0x20, 256, [⟨15, 0, .stg, 0x0⟩]⟩,
    ⟨"CTX_MARK_LO", 0x2008, 0x20, 256, [⟨31, 12, .stg, 0x0⟩]⟩,
    ⟨"CTX_MARK_HI", 0x200C, 0x20, 256, [⟨31, 16, .stg, 0x0⟩, ⟨15, 0, .stg, 0x0⟩]⟩,
    ⟨"CTX_STATE", 0x2010, 0x20, 256, [⟨31, 29, .ro, 0x0⟩, ⟨20, 16, .ro, 0x0⟩, ⟨15, 0, .ro, 0x0⟩]⟩]

/-- Registers of the QUE_ blocks. -/
def regsQue : List RegRow := [
    ⟨"QUE_STAT", 0x4000, 0x4, 2048, [⟨31, 29, .ro, 0x0⟩, ⟨28, 28, .w1c, 0x0⟩, ⟨27, 27, .w1c, 0x0⟩, ⟨26, 26, .w1c, 0x0⟩, ⟨21, 16, .ro, 0x0⟩]⟩,
    ⟨"QUE_DB", 0x6000, 0x4, 2048, [⟨31, 0, .wo, 0x0⟩]⟩,
    ⟨"QUE_RING_LO", 0x8000, 0x10, 2048, [⟨31, 12, .stg, 0x0⟩, ⟨7, 0, .stg, 0x0⟩]⟩,
    ⟨"QUE_RING_HI", 0x8004, 0x10, 2048, [⟨31, 31, .stg, 0x0⟩, ⟨29, 28, .stg, 0x0⟩, ⟨27, 24, .stg, 0x0⟩, ⟨23, 20, .stg, 0x0⟩, ⟨15, 0, .stg, 0x0⟩]⟩,
    ⟨"QUE_TMO", 0x8008, 0x10, 2048, [⟨26, 16, .stg, 0x0⟩, ⟨13, 0, .stg, 0x0⟩]⟩,
    ⟨"QUE_HEAD", 0x800C, 0x10, 2048, [⟨31, 0, .ro, 0x0⟩]⟩]

/-- Registers of the RNG_ blocks. -/
def regsRng : List RegRow := [
    ⟨"RNG_HOME", 0x4, 0x0, 1, [⟨3, 0, .ro, 0xf⟩]⟩,
    ⟨"RNG_CFG", 0x100, 0x4, 64, [⟨31, 31, .stg, 0x0⟩, ⟨30, 30, .stg, 0x0⟩, ⟨7, 0, .stg, 0x0⟩]⟩,
    ⟨"RNG_STAT", 0x200, 0x4, 64, [⟨31, 31, .w1c, 0x0⟩, ⟨30, 30, .w1c, 0x0⟩, ⟨29, 29, .w1c, 0x0⟩, ⟨8, 0, .ro, 0x0⟩]⟩,
    ⟨"RNG_PTR", 0x300, 0x4, 64, [⟨31, 16, .ro, 0x0⟩, ⟨15, 0, .ro, 0x0⟩]⟩,
    ⟨"RNG_BAR_CFG", 0x400, 0x8, 16, [⟨5, 0, .stg, 0x0⟩]⟩,
    ⟨"RNG_BAR_STAT", 0x404, 0x8, 16, [⟨31, 31, .ro, 0x0⟩, ⟨23, 16, .ro, 0x0⟩, ⟨13, 8, .ro, 0x0⟩, ⟨7, 0, .ro, 0x0⟩]⟩]

/-- Registers of the SES_ blocks. -/
def regsSes : List RegRow := [
    ⟨"SES_CMD", 0x4, 0x0, 1, [⟨31, 28, .wo, 0x0⟩]⟩,
    ⟨"SES_STATUS", 0x8, 0x0, 1, [⟨31, 31, .ro, 0x0⟩, ⟨7, 0, .ro, 0x0⟩]⟩,
    ⟨"SES_ARG", 0x10, 0x4, 6, [⟨31, 0, .rw, 0x0⟩]⟩,
    ⟨"SES_SEL", 0x30, 0x0, 1, [⟨15, 0, .rw, 0x0⟩]⟩,
    ⟨"SES_OPEN", 0x38, 0x0, 1, [⟨16, 0, .ro, 0x0⟩]⟩,
    ⟨"SES_ENTRY", 0x40, 0x4, 8, [⟨31, 0, .ro, 0x0⟩]⟩]

/-- Registers of the PFX_ blocks. -/
def regsPfx : List RegRow := [
    ⟨"PFX_SEED_LO", 0x10, 0x0, 1, [⟨31, 0, .stg, 0x0⟩]⟩,
    ⟨"PFX_SEED_HI", 0x14, 0x0, 1, [⟨31, 0, .stg, 0x0⟩]⟩,
    ⟨"PFX_CAP", 0x18, 0x0, 1, [⟨22, 0, .ro, 0x0⟩]⟩,
    ⟨"PFX_USED", 0x1C, 0x0, 1, [⟨22, 0, .ro, 0x0⟩]⟩]

/-- Registers of the FLT_ blocks. -/
def regsFlt : List RegRow := [
    ⟨"FLT_CTL", 0x10, 0x0, 1, [⟨31, 31, .stg, 0x0⟩, ⟨30, 30, .stg, 0x0⟩, ⟨26, 16, .stg, 0x0⟩, ⟨3, 0, .stg, 0x0⟩]⟩,
    ⟨"FLT_LOG_LO", 0x14, 0x0, 1, [⟨31, 6, .stg, 0x0⟩]⟩,
    ⟨"FLT_LOG_HI", 0x18, 0x0, 1, [⟨15, 0, .stg, 0x0⟩]⟩,
    ⟨"FLT_LOG_PROD", 0x1C, 0x0, 1, [⟨31, 0, .ro, 0x0⟩]⟩,
    ⟨"FLT_LOG_CONS", 0x20, 0x0, 1, [⟨31, 0, .rw, 0x0⟩]⟩,
    ⟨"FLT_STAT", 0x24, 0x0, 1, [⟨31, 31, .w1c, 0x0⟩, ⟨30, 30, .w1c, 0x0⟩, ⟨29, 29, .w1c, 0x0⟩, ⟨15, 0, .ro, 0x0⟩]⟩,
    ⟨"FLT_ENG_TMO", 0x28, 0x0, 1, [⟨15, 0, .stg, 0x2710⟩]⟩,
    ⟨"FLT_RST_CMD", 0x30, 0x0, 1, [⟨31, 28, .wo, 0x0⟩, ⟨27, 24, .wo, 0x0⟩, ⟨7, 0, .wo, 0x0⟩]⟩,
    ⟨"FLT_RST_STATUS", 0x34, 0x0, 1, [⟨31, 31, .ro, 0x0⟩, ⟨7, 0, .ro, 0x0⟩]⟩]

/-- Registers of the PCX_ blocks. -/
def regsPcx : List RegRow := [
    ⟨"PCX_LINK", 0x10, 0x0, 1, [⟨31, 28, .ro, 0x0⟩, ⟨27, 23, .ro, 0x0⟩, ⟨22, 22, .ro, 0x0⟩, ⟨21, 21, .ro, 0x0⟩, ⟨20, 18, .ro, 0x0⟩]⟩,
    ⟨"PCX_ERR", 0x14, 0x0, 1, [⟨31, 31, .w1c, 0x0⟩, ⟨30, 30, .w1c, 0x0⟩, ⟨29, 29, .w1c, 0x0⟩, ⟨28, 28, .w1c, 0x0⟩, ⟨27, 27, .w1c, 0x0⟩]⟩,
    ⟨"PCX_FN_B2_PF", 0x100, 0x0, 1, [⟨31, 30, .stg, 0x1⟩, ⟨27, 24, .stg, 0x0⟩, ⟨9, 0, .stg, 0x0⟩]⟩,
    ⟨"PCX_FN_B2_VF", 0x110, 0x10, 8, [⟨31, 30, .stg, 0x0⟩, ⟨27, 24, .stg, 0x0⟩, ⟨9, 0, .stg, 0x0⟩]⟩,
    ⟨"PCX_FN_HA_LO", 0x104, 0x10, 9, [⟨31, 12, .stg, 0x0⟩]⟩,
    ⟨"PCX_FN_HA_HI", 0x108, 0x10, 9, [⟨31, 0, .stg, 0x0⟩]⟩,
    ⟨"PCX_FN_STAT", 0x10C, 0x10, 9, [⟨31, 31, .ro, 0x0⟩, ⟨30, 30, .ro, 0x0⟩, ⟨29, 29, .ro, 0x0⟩, ⟨28, 28, .ro, 0x0⟩, ⟨7, 0, .ro, 0xff⟩]⟩]

/-- Registers of the MGT_ blocks. -/
def regsMgt : List RegRow := [
    ⟨"MGT_PORT", 0x10, 0x0, 1, [⟨31, 31, .ro, 0x0⟩, ⟨30, 24, .ro, 0x0⟩, ⟨23, 16, .ro, 0x0⟩, ⟨15, 15, .ro, 0x0⟩]⟩,
    ⟨"MGT_ALERT", 0x14, 0x0, 1, [⟨31, 31, .w1c, 0x0⟩, ⟨30, 30, .w1c, 0x0⟩, ⟨29, 29, .w1c, 0x0⟩, ⟨28, 28, .w1c, 0x0⟩, ⟨27, 27, .w1c, 0x0⟩, ⟨26, 26, .w1c, 0x0⟩]⟩,
    ⟨"MGT_ALERT_EN", 0x18, 0x0, 1, [⟨31, 26, .stg, 0x3f⟩]⟩]

/-- Registers of the TAL_ blocks. -/
def regsTalio : List RegRow := [
    ⟨"TAL_FOG_CTL", 0x30, 0x0, 1, [⟨31, 31, .stg, 0x1⟩, ⟨30, 30, .stg, 0x1⟩, ⟨29, 29, .stg, 0x0⟩, ⟨28, 28, .stg, 0x0⟩, ⟨13, 0, .stg, 0xc8⟩]⟩,
    ⟨"TAL_FOG_CMD", 0x34, 0x0, 1, [⟨31, 28, .wo, 0x0⟩]⟩,
    ⟨"TAL_FOG_STAT", 0x38, 0x0, 1, [⟨31, 31, .ro, 0x0⟩, ⟨30, 28, .ro, 0x0⟩, ⟨27, 16, .ro, 0x0⟩, ⟨7, 0, .ro, 0x0⟩]⟩]

/-- Registers of the OTP_ blocks. -/
def regsOtp : List RegRow := [
    ⟨"OTP_STAT", 0x10, 0x0, 1, [⟨31, 30, .ro, 0x0⟩, ⟨27, 24, .ro, 0x0⟩, ⟨23, 20, .ro, 0x0⟩, ⟨19, 19, .ro, 0x0⟩]⟩,
    ⟨"OTP_DATA", 0x800, 0x4, 512, [⟨31, 0, .ro, 0x0⟩]⟩]

/-- Registers of the PWR_ blocks. -/
def regsPwr : List RegRow := [
    ⟨"PWR_DOM_CMD", 0x10, 0x0, 1, [⟨31, 28, .wo, 0x0⟩, ⟨6, 0, .wo, 0x0⟩]⟩,
    ⟨"PWR_DOM_STATUS", 0x14, 0x0, 1, [⟨31, 31, .ro, 0x0⟩, ⟨7, 0, .ro, 0x0⟩]⟩,
    ⟨"PWR_DOM_ON0", 0x20, 0x0, 1, [⟨31, 0, .ro, 0x0⟩]⟩,
    ⟨"PWR_DOM_ON1", 0x24, 0x0, 1, [⟨31, 0, .ro, 0x0⟩]⟩,
    ⟨"PWR_DOM_ON2", 0x28, 0x0, 1, [⟨23, 0, .ro, 0x0⟩]⟩,
    ⟨"PWR_PKG", 0x40, 0x0, 1, [⟨31, 31, .ro, 0x0⟩, ⟨15, 0, .ro, 0x0⟩]⟩,
    ⟨"PWR_VIN", 0x44, 0x0, 1, [⟨31, 16, .ro, 0x0⟩, ⟨15, 0, .ro, 0x0⟩]⟩,
    ⟨"PWR_LIMIT", 0x48, 0x0, 1, [⟨11, 0, .stg, 0x960⟩]⟩,
    ⟨"PWR_EFF", 0x4C, 0x0, 1, [⟨11, 0, .ro, 0x960⟩]⟩,
    ⟨"PWR_TEMP", 0x50, 0x0, 1, [⟨31, 24, .ro, 0x0⟩, ⟨23, 16, .ro, 0x0⟩, ⟨15, 8, .ro, 0x0⟩, ⟨7, 0, .ro, 0x0⟩]⟩,
    ⟨"PWR_THERM_CTL", 0x54, 0x0, 1, [⟨15, 8, .stg, 0x5a⟩, ⟨7, 0, .stg, 0x5f⟩]⟩,
    ⟨"PWR_STAT", 0x58, 0x0, 1, [⟨31, 31, .ro, 0x0⟩, ⟨30, 30, .ro, 0x0⟩, ⟨29, 29, .w1c, 0x0⟩, ⟨28, 28, .w1c, 0x0⟩, ⟨27, 27, .w1c, 0x0⟩]⟩]

/-- Registers of the IMG_ blocks. -/
def regsImg : List RegRow := [
    ⟨"IMG_CLAIM", 0x10, 0x0, 1, [⟨31, 31, .wo, 0x0⟩, ⟨1, 0, .rw, 0x0⟩]⟩,
    ⟨"IMG_CMD", 0x14, 0x0, 1, [⟨3, 0, .wo, 0x0⟩]⟩,
    ⟨"IMG_STATUS", 0x18, 0x0, 1, [⟨31, 31, .ro, 0x0⟩, ⟨30, 30, .ro, 0x0⟩, ⟨23, 16, .ro, 0xff⟩, ⟨7, 0, .ro, 0x0⟩]⟩,
    ⟨"IMG_SRC_LO", 0x20, 0x0, 1, [⟨31, 0, .stg, 0x0⟩]⟩,
    ⟨"IMG_SRC_HI", 0x24, 0x0, 1, [⟨31, 0, .stg, 0x0⟩]⟩,
    ⟨"IMG_SRC_LEN", 0x28, 0x0, 1, [⟨31, 0, .stg, 0x0⟩]⟩,
    ⟨"IMG_APPLY_MASK", 0x2C, 0x0, 1, [⟨7, 0, .stg, 0x0⟩]⟩,
    ⟨"IMG_ACTIVE_DIGEST", 0x40, 0x4, 8, [⟨31, 0, .ro, 0x0⟩]⟩]

/-- The commit register of R41, at offset 0 of every block. -/
def commitRow : RegRow :=
  ⟨"COMMIT", 0, 0, 1, [⟨31, 16, .ro, 0⟩, ⟨4, 4, .w1c, 0⟩, ⟨3, 3, .ro, 0⟩, ⟨2, 2, .wo, 0⟩, ⟨1, 1, .ro, 0⟩, ⟨0, 0, .wo, 0⟩]⟩

/-- The tallies of a unit of each kind (R391). -/
def tallyCount : BlkKind → Nat
  | .talTile => 64 | .talStack => 64 | .talLg => 32 | .talKp => 16 | .talPart => 128 | .talIo => 64
  | _ => 0

/-- The registers of a block. -/
def regRows : BlkKind → List RegRow
  | .tile => regsTile | .mxe => regsMxe | .vxe => regsVxe | .ste => regsSte
  | .talTile => regsTal 64 | .ldgTile => regsLdg | .wch => regsWch
  | .nme => regsNme | .kvf => regsKvf | .talStack => regsTal 64 | .ldgStack => regsLdg
  | .lnk => regsLnk | .cle => regsCle | .talLg => regsTal 32
  | .kpr => regsKpr | .talKp => regsTal 16
  | .ctx => regsCtx | .que => regsQue | .rng => regsRng | .ses => regsSes | .pfx => regsPfx | .flt => regsFlt
  | .talPart => regsTal 128
  | .pcx => regsPcx | .mgt => regsMgt | .sec => [] | .otp => regsOtp | .pwr => regsPwr | .img => regsImg
  | .talIo => regsTalio ++ regsTal 64

/-- The units a block kind has (R7, R37). -/
def unitCount : BlkKind → Nat
  | .tile => 48 | .mxe => 48 | .vxe => 48 | .ste => 48 | .talTile => 48 | .ldgTile => 48 | .wch => 48
  | .nme => 12 | .kvf => 12 | .talStack => 12 | .ldgStack => 12
  | .lnk => 6 | .cle => 6 | .talLg => 6
  | .kpr => 8 | .talKp => 8
  | .ctx => 8 | .que => 8 | .rng => 8 | .ses => 8 | .pfx => 8 | .flt => 8 | .talPart => 8
  | .pcx => 1 | .mgt => 1 | .sec => 1 | .otp => 1 | .pwr => 1 | .img => 1 | .talIo => 1

/-- A number for each block kind. -/
def kindCode : BlkKind → Nat
  | .tile => 0 | .mxe => 1 | .vxe => 2 | .ste => 3 | .talTile => 4 | .ldgTile => 5 | .wch => 6
  | .nme => 7 | .kvf => 8 | .talStack => 9 | .ldgStack => 10
  | .lnk => 11 | .cle => 12 | .talLg => 13
  | .kpr => 14 | .talKp => 15
  | .ctx => 16 | .que => 17 | .rng => 18 | .ses => 19 | .pfx => 20 | .flt => 21 | .talPart => 22
  | .pcx => 23 | .mgt => 24 | .sec => 25 | .otp => 26 | .pwr => 27 | .img => 28 | .talIo => 29

/-- The key of a block in the tables of State. -/
def blkKey (b : BlkId) : Nat := kindCode b.kind * 64 + b.unit

/-- The row of the table that holds a register at offset `off`. -/
def findRow (off : Nat) : List RegRow → Option RegRow
  | [] => none
  | r :: rs =>
    if r.stride = 0 then (if off = r.base then some r else findRow off rs)
    else if r.base ≤ off ∧ (off - r.base) % r.stride = 0 ∧ (off - r.base) / r.stride < r.count then some r
    else findRow off rs

/-- The fields of the register at offset `off` of a block; none where R38 says no register is defined. -/
def regFields (k : BlkKind) (off : Nat) : Option (List Field) :=
  if off = 0 then some commitRow.fields else (findRow off (regRows k)).map (·.fields)

/-- A number placed in bits [hi:lo]. -/
def putBits (f : Field) (v : Nat) : Nat := (v % 2 ^ (f.hi + 1 - f.lo)) * 2 ^ f.lo

/-- The word of a register at reset. -/
def resetWordOf (fs : List Field) : Nat := fs.foldl (fun a f => a + putBits f f.reset) 0

def resetWord (k : BlkKind) (off : Nat) : W32 :=
  match regFields k off with
  | some fs => BitVec.ofNat 32 (resetWordOf fs)
  | none => 0

/-- The bits of a register that one access code holds. -/
def accMask (fs : List Field) (a : Acc) : W32 :=
  BitVec.ofNat 32 (fs.foldl (fun m f => if f.acc = a then m + putBits f (2 ^ 32 - 1) else m) 0)

def regMask (k : BlkKind) (off : Nat) (a : Acc) : W32 :=
  match regFields k off with
  | some fs => accMask fs a
  | none => 0

/-! ## The three sets of values (R39) -/

def State.blk (s : State) (b : BlkId) : BlockRegs := SMap.get .reset s.blocks (blkKey b)

def State.setBlk (s : State) (b : BlkId) (r : BlockRegs) : State :=
  { s with blocks := SMap.set .reset s.blocks (blkKey b) r }

/-- The staged, committed and plain words of a register; where none is listed, its reset word. -/
def stagedWord (k : BlkKind) (r : BlockRegs) (off : Nat) : W32 := SMap.get (resetWord k off) r.staged off
def snapWord (k : BlkKind) (r : BlockRegs) (off : Nat) : W32 := SMap.get (resetWord k off) r.snap off
def commWord (k : BlkKind) (r : BlockRegs) (off : Nat) : W32 := SMap.get (resetWord k off) r.comm off
def plainWord (k : BlkKind) (r : BlockRegs) (off : Nat) : W32 := SMap.get (resetWord k off) r.plain off
def w1cWord (r : BlockRegs) (off : Nat) : W32 := SMap.get 0 r.w1c off

/-- Bits [hi:lo] of the committed value of a register of a block. -/
def State.cfg (s : State) (k : BlkKind) (u off hi lo : Nat) : Nat :=
  bitsOf (commWord k (s.blk ⟨k, u⟩) off).toNat hi lo

/-- Bits [hi:lo] of the staged value. -/
def State.stg (s : State) (k : BlkKind) (u off hi lo : Nat) : Nat :=
  bitsOf (stagedWord k (s.blk ⟨k, u⟩) off).toNat hi lo

/-- Bits [hi:lo] of an RW register. -/
def State.rw (s : State) (k : BlkKind) (u off hi lo : Nat) : Nat :=
  bitsOf (plainWord k (s.blk ⟨k, u⟩) off).toNat hi lo

/-- Store a committed word. -/
def State.setComm (s : State) (k : BlkKind) (u off : Nat) (v : W32) : State :=
  let r := s.blk ⟨k, u⟩
  s.setBlk ⟨k, u⟩ { r with comm := SMap.set (resetWord k off) r.comm off v }

/-- Store a staged word. -/
def State.setStaged (s : State) (k : BlkKind) (u off : Nat) (v : W32) : State :=
  let r := s.blk ⟨k, u⟩
  s.setBlk ⟨k, u⟩ { r with staged := SMap.set (resetWord k off) r.staged off v }

/-- Store an RW word. -/
def State.setPlain (s : State) (k : BlkKind) (u off : Nat) (v : W32) : State :=
  let r := s.blk ⟨k, u⟩
  s.setBlk ⟨k, u⟩ { r with plain := SMap.set (resetWord k off) r.plain off v }

/-- Set bits of a W1C register, as the hardware does when the event the field names happens. -/
def State.flag (s : State) (k : BlkKind) (u off : Nat) (bits : W32) : State :=
  let r := s.blk ⟨k, u⟩
  s.setBlk ⟨k, u⟩ { r with w1c := SMap.set 0 r.w1c off (w1cWord r off ||| bits) }

/-- Clear the bits of a W1C register that are written 1 (R5). -/
def State.unflag (s : State) (k : BlkKind) (u off : Nat) (bits : W32) : State :=
  let r := s.blk ⟨k, u⟩
  s.setBlk ⟨k, u⟩ { r with w1c := SMap.set 0 r.w1c off (w1cWord r off &&& ~~~bits) }

/-- The W1C bits of a register. -/
def State.flags (s : State) (k : BlkKind) (u off : Nat) : W32 := w1cWord (s.blk ⟨k, u⟩) off

/-- The one-bit word with bit `i` set. -/
def bit (i : Nat) : W32 := BitVec.ofNat 32 (2 ^ i)

/-- Write `v` into bits [hi:lo] of `w`. -/
def setField (w : W32) (hi lo v : Nat) : W32 :=
  let m := BitVec.ofNat 32 ((2 ^ (hi + 1 - lo) - 1) * 2 ^ lo)
  (w &&& ~~~m) ||| (BitVec.ofNat 32 (v * 2 ^ lo) &&& m)

/-- A field takes a value in a register's staged, snapshot and committed words at once. -/
def State.setFieldAll (s : State) (k : BlkKind) (u off hi lo v : Nat) : State :=
  let r := s.blk ⟨k, u⟩
  let put := fun (m : SMap W32) => SMap.set (resetWord k off) m off (setField (SMap.get (resetWord k off) m off) hi lo v)
  s.setBlk ⟨k, u⟩ { r with staged := put r.staged, snap := put r.snap, comm := put r.comm }

/-! ## Addresses of the blocks (R37) -/

/-- The control-register range of R13 and the base address of each group of instances. -/
def ctlBase : Nat := 0x2000_0000_0000

/-- What lies at an address of the control-register range. -/
inductive CtlPlace where
  | reg (b : BlkId) (off : Nat)
  | imgBuf (off : Nat)
  | none
  deriving DecidableEq, Repr

/-- The block and offset within a tile's instance. -/
def tilePlace (t x : Nat) : CtlPlace :=
  match x / 0x1000 with
  | 0 => .reg ⟨.tile, t⟩ x
  | 1 => .reg ⟨.mxe, t⟩ (x - 0x1000)
  | 2 => .reg ⟨.vxe, t⟩ (x - 0x2000)
  | 3 => .reg ⟨.ste, t⟩ (x - 0x3000)
  | 4 => .reg ⟨.talTile, t⟩ (x - 0x4000)
  | 5 => .reg ⟨.ldgTile, t⟩ (x - 0x5000)
  | _ => .reg ⟨.wch, t⟩ (x - 0x6000)

def stackPlace (k x : Nat) : CtlPlace :=
  if x < 0x1000 then .reg ⟨.nme, k⟩ x
  else if x < 0x4000 then .reg ⟨.kvf, k⟩ (x - 0x1000)
  else if x < 0x5000 then .reg ⟨.talStack, k⟩ (x - 0x4000)
  else .reg ⟨.ldgStack, k⟩ (x - 0x5000)

def lgPlace (g x : Nat) : CtlPlace :=
  if x < 0x1000 then .reg ⟨.lnk, g⟩ x
  else if x < 0x4000 then .reg ⟨.cle, g⟩ (x - 0x1000)
  else .reg ⟨.talLg, g⟩ (x - 0x4000)

def kpPlace (p x : Nat) : CtlPlace :=
  if x < 0x4000 then .reg ⟨.kpr, p⟩ x else .reg ⟨.talKp, p⟩ (x - 0x4000)

def partPlace (p x : Nat) : CtlPlace :=
  match x / 0x1_0000 with
  | 0 => .reg ⟨.ctx, p⟩ x
  | 1 => .reg ⟨.que, p⟩ (x - 0x1_0000)
  | 2 => .reg ⟨.rng, p⟩ (x - 0x2_0000)
  | 3 => .reg ⟨.ses, p⟩ (x - 0x3_0000)
  | 4 => .reg ⟨.pfx, p⟩ (x - 0x4_0000)
  | 5 => .reg ⟨.flt, p⟩ (x - 0x5_0000)
  | _ => .reg ⟨.talPart, p⟩ (x - 0x6_0000)

/-- The I/O die's blocks; the TAL_ block of the I/O die lies at 0x8000 of the MGT_ block (R391). DESIGN CHOICE: their
instance has no stride, so IMG_, its last block, spans up to the next base that R37 names, 0x2000_0810_0000. -/
def ioPlace (x : Nat) : CtlPlace :=
  match x / 0x1_0000 with
  | 0 => .reg ⟨.pcx, 0⟩ x
  | 1 => if x < 0x1_8000 then .reg ⟨.mgt, 0⟩ (x - 0x1_0000) else .reg ⟨.talIo, 0⟩ (x - 0x1_8000)
  | 2 => .reg ⟨.sec, 0⟩ (x - 0x2_0000)
  | 3 => .reg ⟨.otp, 0⟩ (x - 0x3_0000)
  | 4 => .reg ⟨.pwr, 0⟩ (x - 0x4_0000)
  | _ => .reg ⟨.img, 0⟩ (x - 0x5_0000)

/-- The register block and offset at a device physical address of the control-register range (R37). -/
def ctlPlace (addr : Nat) : CtlPlace :=
  if addr < ctlBase then .none
  else
    let x := addr - ctlBase
    if x < 0x0100_0000 then
      (if x / 0x1_0000 < 48 then tilePlace (x / 0x1_0000) (x % 0x1_0000) else .none)
    else if x < 0x0200_0000 then
      let y := x - 0x0100_0000
      (if y / 0x1_0000 < 12 then stackPlace (y / 0x1_0000) (y % 0x1_0000) else .none)
    else if x < 0x0300_0000 then
      let y := x - 0x0200_0000
      (if y / 0x1_0000 < 6 then lgPlace (y / 0x1_0000) (y % 0x1_0000) else .none)
    else if x < 0x0400_0000 then
      let y := x - 0x0300_0000
      (if y / 0x1_0000 < 8 then kpPlace (y / 0x1_0000) (y % 0x1_0000) else .none)
    else if x < 0x0800_0000 then
      let y := x - 0x0400_0000
      (if y / 0x10_0000 < 8 then partPlace (y / 0x10_0000) (y % 0x10_0000) else .none)
    else if x < 0x0810_0000 then ioPlace (x - 0x0800_0000)
    else if x < 0x0820_0000 then .imgBuf (x - 0x0810_0000)
    else .none

end Sys2Proof.Machine
end

