-- ==== Sys2Proof/Machine/Ops.lean ====
section
/-!
DEFINITION. The named operations that every family shares: reading and writing memory, the units and partitions of
the applied image, power, clocks and durations, free values, tallies and ledger records, messages to the host, and
RAISING A FAULT (R417), which is the block's one way to report an error.
-/
namespace Sys2Proof.Machine

/-! ## Tables of units -/

def State.ctx (s : State) (k : Nat) : Ctx := SMap.get .reset s.ctxs k
def State.setCtx (s : State) (k : Nat) (v : Ctx) : State := { s with ctxs := SMap.set .reset s.ctxs k v }
def State.que (s : State) (k : Nat) : Que := SMap.get .reset s.ques k
def State.setQue (s : State) (k : Nat) (v : Que) : State := { s with ques := SMap.set .reset s.ques k v }
def State.tile (s : State) (k : Nat) : TileSt := SMap.get .reset s.tiles k
def State.setTile (s : State) (k : Nat) (v : TileSt) : State := { s with tiles := SMap.set .reset s.tiles k v }
def State.mxe (s : State) (k : Nat) : Mxe := SMap.get .reset s.mxes k
def State.setMxe (s : State) (k : Nat) (v : Mxe) : State := { s with mxes := SMap.set .reset s.mxes k v }
def State.vxe (s : State) (k : Nat) : Vxe := SMap.get .reset s.vxes k
def State.setVxe (s : State) (k : Nat) (v : Vxe) : State := { s with vxes := SMap.set .reset s.vxes k v }
def State.ste (s : State) (k : Nat) : Ste := SMap.get .reset s.stes k
def State.setSte (s : State) (k : Nat) (v : Ste) : State := { s with stes := SMap.set .reset s.stes k v }
def State.stack (s : State) (k : Nat) : Stack := SMap.get .reset s.stks k
def State.setStack (s : State) (k : Nat) (v : Stack) : State := { s with stks := SMap.set .reset s.stks k v }
def State.nme (s : State) (k : Nat) : Nme := SMap.get .reset s.nmes k
def State.setNme (s : State) (k : Nat) (v : Nme) : State := { s with nmes := SMap.set .reset s.nmes k v }
def State.kvf (s : State) (k : Nat) : Kvf := SMap.get .reset s.kvfs k
def State.setKvf (s : State) (k : Nat) (v : Kvf) : State := { s with kvfs := SMap.set .reset s.kvfs k v }
def State.part (s : State) (k : Nat) : Part := SMap.get .reset s.parts k
def State.setPart (s : State) (k : Nat) (v : Part) : State := { s with parts := SMap.set .reset s.parts k v }
def State.ses (s : State) (k : Nat) : Ses := SMap.get .reset s.sess k
def State.setSes (s : State) (k : Nat) (v : Ses) : State := { s with sess := SMap.set .reset s.sess k v }
def State.ring (s : State) (k : Nat) : Ring := SMap.get .reset s.rings k
def State.setRing (s : State) (k : Nat) (v : Ring) : State := { s with rings := SMap.set .reset s.rings k v }
def State.bar (s : State) (k : Nat) : Bar := SMap.get .reset s.bars k
def State.setBar (s : State) (k : Nat) (v : Bar) : State := { s with bars := SMap.set .reset s.bars k v }
def State.link (s : State) (k : Nat) : Link := SMap.get .reset s.links k
def State.setLink (s : State) (k : Nat) (v : Link) : State := { s with links := SMap.set .reset s.links k v }
def State.lg (s : State) (k : Nat) : LinkGroup := SMap.get .reset s.lgs k
def State.setLg (s : State) (k : Nat) (v : LinkGroup) : State := { s with lgs := SMap.set .reset s.lgs k v }
def State.cle (s : State) (k : Nat) : Cle := SMap.get .reset s.cles k
def State.setCle (s : State) (k : Nat) (v : Cle) : State := { s with cles := SMap.set .reset s.cles k v }
def State.pair (s : State) (k : Nat) : Pair := SMap.get .reset s.pairs k
def State.setPair (s : State) (k : Nat) (v : Pair) : State := { s with pairs := SMap.set .reset s.pairs k v }
def State.tal (s : State) (k : Nat) : TalUnit := SMap.get .reset s.tals k
def State.setTal (s : State) (k : Nat) (v : TalUnit) : State := { s with tals := SMap.set .reset s.tals k v }
def State.ldg (s : State) (k : Nat) : Ledger := SMap.get .reset s.ldgs k
def State.setLdg (s : State) (k : Nat) (v : Ledger) : State := { s with ldgs := SMap.set .reset s.ldgs k v }
def State.wch (s : State) (k : Nat) : WatchSlot := SMap.get .reset s.wchs k
def State.setWch (s : State) (k : Nat) (v : WatchSlot) : State := { s with wchs := SMap.set .reset s.wchs k v }
def State.chan (s : State) (k : Nat) : ChanSt := SMap.get .reset s.chans k
def State.setChan (s : State) (k : Nat) (v : ChanSt) : State := { s with chans := SMap.set .reset s.chans k v }
def State.func (s : State) (k : Nat) : Func := SMap.get .reset s.funcs k
def State.setFunc (s : State) (k : Nat) (v : Func) : State := { s with funcs := SMap.set .reset s.funcs k v }
def State.chain (s : State) (k : Nat) : List Chain := SMap.get [] s.chains k
def State.setChain (s : State) (k : Nat) (v : List Chain) : State := { s with chains := SMap.set [] s.chains k v }
def State.tlb (s : State) (k : Nat) : List TlbEnt := SMap.get [] s.tlbs k
def State.setTlb (s : State) (k : Nat) (v : List TlbEnt) : State := { s with tlbs := SMap.set [] s.tlbs k v }
def State.cycle (s : State) (k : Nat) : W64 := SMap.get 0 s.cycles k
def State.setCycle (s : State) (k : Nat) (v : W64) : State := { s with cycles := SMap.set 0 s.cycles k v }
def State.turn (s : State) (k : Nat) : Nat := SMap.get 0 s.rr k
def State.setTurn (s : State) (k : Nat) (v : Nat) : State := { s with rr := SMap.set 0 s.rr k v }

/-- Add to a saturating counter (R371, R416). -/
def satAdd32 (a : W32) (n : Nat) : W32 := BitVec.ofNat 32 (min (a.toNat + n) 0xFFFFFFFF)

/-! ## Free values -/

/-- A fresh free value (notes/assumptions/2.md): the counter advances, nothing constrains the value. -/
def State.draw (s : State) (w : Nat) : BitVec w × State :=
  (BitVec.ofNat w (Config.freeBits s.free).toNat, { s with free := s.free + 1 })

def State.drawNat (s : State) : Nat × State := (Config.freeNat s.free, { s with free := s.free + 1 })

/-- `n` bytes that a read of host memory returns. -/
def State.hostBytes (s : State) (bus n : Nat) : List Byte × State :=
  ((List.range n).map (fun i => Config.hostByte s.free (bus + i)), { s with free := s.free + 1 })

/-- Append to what an outside observer sees. -/
def State.emit (s : State) (o : Out) : State := { s with out := s.out ++ [o] }

/-! ## Memory (R13, R326) -/

/-- What lies at a device physical address (R13). -/
inductive PhysAt where
  | stack (k : Nat)
  | scratch (t : Nat)
  | ctl
  | host
  | none
  deriving DecidableEq, Repr

/-- What the physical map places at an address; nothing outside its ranges (R13, R14). -/
def physAt (a : Nat) : PhysAt :=
  if a < 0x00C0_0000_0000 then .stack (a / 0x0010_0000_0000)
  else if 0x1000_0000_0000 ≤ a ∧ a < 0x1000_1800_0000 then
    (if (a - 0x1000_0000_0000) % 0x80_0000 < 0x60_0000 then .scratch ((a - 0x1000_0000_0000) / 0x80_0000) else .none)
  else if 0x2000_0000_0000 ≤ a ∧ a < 0x2001_0000_0000 then .ctl
  else if 0x8000_0000_0000 ≤ a ∧ a < 0x1_0000_0000_0000 then .host
  else .none

def scratchBase (t : Nat) : Nat := 0x1000_0000_0000 + t * 0x80_0000
def stackBase (k : Nat) : Nat := k * 0x0010_0000_0000

/-- The DRAM channel of the 256-byte unit that holds a device physical address of a stack (R255). -/
def stackChannel (a : Nat) : Nat := Nat.xor (a % 0x0010_0000_0000 / 256 % 64) (a % 0x0010_0000_0000 / 16384 % 64)
def scratchSize : Nat := 0x60_0000
def hostBase : Nat := 0x8000_0000_0000

def State.readByte (s : State) (a : Nat) : Byte := SMap.get 0 s.mem a

def State.readBytes (s : State) (a n : Nat) : List Byte := (List.range n).map (fun i => s.readByte (a + i))

/-- The little-endian number of `n` bytes at `a`. -/
def State.readLe (s : State) (a n : Nat) : Nat := leNat (s.readBytes a n)

/-- Bytes stored one after the other into a sparse memory. -/
def memPut (m : List Host.Cell) (a : Nat) : List Byte → List Host.Cell
  | [] => m
  | b :: bs => memPut (SMap.set 0 m a b) (a + 1) bs

/-- The lines a write of `n` bytes at `a` covers whole, whose poison it clears (R259). -/
def wholeLines (a n : Nat) : List Nat := (List.range ((a + n) / 64 - (a + 63) / 64)).map (fun i => (a + 63) / 64 + i)

/-- The first write to an aborted granule, by any party, clears its abort (R232). -/
def State.unabort (s : State) (a n : Nat) : State :=
  match physAt a with
  | .scratch t =>
    let x := s.tile t
    if x.aborted = [] then s
    else s.setTile t { x with aborted := x.aborted.filter (fun g => !(decide (a / 64 ≤ g.1) && decide (g.1 * 64 < a + n))) }
  | _ => s

def State.writeBytes (s : State) (a : Nat) (bs : List Byte) : State :=
  { s.unabort a bs.length with
    mem := memPut s.mem a bs
    poison := if s.poison = [] then [] else (wholeLines a bs.length).foldl (fun p l => SMap.erase p l) s.poison }

def State.writeLe (s : State) (a n v : Nat) : State := s.writeBytes a (leBytes n v)

/-- Whether one of the lines that `n` bytes at `a` touch is poisoned (R258). -/
def State.poisoned (s : State) (a n : Nat) : Bool :=
  s.poison.any (fun e => e.2 && decide (a / 64 ≤ e.1) && decide (e.1 * 64 < a + n))

/-- Every listed byte in [lo, lo + n) reads zero from now on, poison included. -/
def State.zeroRange (s : State) (lo n : Nat) : State :=
  { s with
    mem := s.mem.filter (fun c => ¬ (lo ≤ c.1 ∧ c.1 < lo + n))
    poison := s.poison.filter (fun c => ¬ (lo ≤ c.1 * 64 ∧ c.1 * 64 < lo + n)) }

/-! ## Domains (R470) -/

def domTile (t : Nat) : Nat := t
def domStack (k : Nat) : Nat := 48 + k
def domLg (g : Nat) : Nat := 60 + g
def domKp (p : Nat) : Nat := 66 + p
def domNme (k : Nat) : Nat := 74 + k
def domPcie : Nat := 86
def domHub : Nat := 87

def State.domOn (s : State) (d : Nat) : Bool := s.pwr.on.getLsbD d
def State.tileOn (s : State) (t : Nat) : Bool := s.domOn (domTile t)

/-- A stack serves only once it has trained (R274). -/
def State.stackUp (s : State) (k : Nat) : Bool :=
  s.domOn (domStack k) && (decide ((s.stack k).st = .ready) || decide ((s.stack k).st = .recal))

/-! ## Partitions of the applied image (R35, R48–R51, R63) -/

/-- The quad of a tile (R8). -/
def quadOfTile (t : Nat) : Nat := t / 24 * 6 + t % 24 / 6 / 2 * 3 + t % 6 / 2

def State.cfgOf (s : State) (p : Nat) : Option PartCfg :=
  s.img.applied.bind (fun i => i.parts.find? (fun c => c.num = p))

def noMask : UnitMask := ⟨0, 0, 0, 0, 0, 0⟩

def State.mask (s : State) : UnitMask := (s.img.applied.map (·.mask)).getD noMask

def tileIn (m : UnitMask) (c : PartCfg) (t : Nat) : Bool := c.quadMask.testBit (quadOfTile t) && !m.tile.testBit t
def stackIn (m : UnitMask) (c : PartCfg) (k : Nat) : Bool := c.quadMask.testBit k && !m.stack.testBit k
def lgIn (m : UnitMask) (c : PartCfg) (g : Nat) : Bool := c.lgMask.testBit g && !m.lgroup.testBit g
def kpIn (m : UnitMask) (c : PartCfg) (p : Nat) : Bool := c.keepMask.testBit p && !m.keeper.testBit p

/-- The partition's stacks, in ascending order (R50). -/
def partStacks (m : UnitMask) (c : PartCfg) : List Nat := (List.range 12).filter (stackIn m c)

def State.partsOf (s : State) : List PartCfg := ((s.img.applied).map (·.parts)).getD []

def State.partOfTile (s : State) (t : Nat) : Option Nat := ((s.partsOf).find? (fun c => tileIn s.mask c t)).map (·.num)
def State.partOfStack (s : State) (k : Nat) : Option Nat := ((s.partsOf).find? (fun c => stackIn s.mask c k)).map (·.num)
def State.partOfLg (s : State) (g : Nat) : Option Nat := ((s.partsOf).find? (fun c => lgIn s.mask c g)).map (·.num)
def State.partOfKp (s : State) (p : Nat) : Option Nat := ((s.partsOf).find? (fun c => kpIn s.mask c p)).map (·.num)
def State.partOfFn (s : State) (f : Nat) : Option Nat := ((s.partsOf).find? (fun c => c.function = f)).map (·.num)

def State.fnOf (s : State) (p : Nat) : Nat := ((s.cfgOf p).map (·.function)).getD 0

/-- The lowest device context and queue number of a partition (R63). -/
def State.ctxBase (s : State) (p : Nat) : Nat :=
  (s.partsOf).foldl (fun a c => if c.num < p then a + c.ctxQuota else a) 0
def State.queBase (s : State) (p : Nat) : Nat :=
  (s.partsOf).foldl (fun a c => if c.num < p then a + c.queQuota else a) 0

def State.ctxQuota (s : State) (p : Nat) : Nat := ((s.cfgOf p).map (·.ctxQuota)).getD 0
def State.queQuota (s : State) (p : Nat) : Nat := ((s.cfgOf p).map (·.queQuota)).getD 0

/-- Inside the model a context and a queue go by keys that no applied image changes, their partition and local number;
device numbers (R63) are made from keys where the spec shows them. -/
def ctxKey (p c : Nat) : Nat := p * 256 + c
def queKey (p q : Nat) : Nat := p * 2048 + q

/-- The partition and local number of a context, and of a queue, by key. -/
def State.ctxOwner (s : State) (k : Nat) : Option (Nat × Nat) :=
  if k % 256 < s.ctxQuota (k / 256) then some (k / 256, k % 256) else none
def State.queOwner (s : State) (k : Nat) : Option (Nat × Nat) :=
  if k % 2048 < s.queQuota (k / 2048) then some (k / 2048, k % 2048) else none

/-- Keys for no context and no queue. -/
def noCtx : Nat := 0xFFFF
def noQue : Nat := 0xFFFF

/-- The device number of a context, or 0x100 for none; of a queue, or 0x7FF for none (R63, R418). -/
def State.ctxNum (s : State) (k : Nat) : Nat := if k = noCtx then 0x100 else s.ctxBase (k / 256) + k % 256
def State.queNum (s : State) (k : Nat) : Nat := if k = noQue then 0x7FF else s.queBase (k / 2048) + k % 2048

/-- The partition and local number of a device queue number. -/
def State.queByNum (s : State) (n : Nat) : Option (Nat × Nat) :=
  ((s.partsOf).find? (fun g => s.queBase g.num ≤ n ∧ n < s.queBase g.num + g.queQuota)).map
    (fun g => (g.num, n - s.queBase g.num))

def State.homeOf (s : State) (p : Nat) : Option Nat := (s.part p).home

/-- The lead keeper pair of a partition: its lowest-numbered non-excluded pair (R375). -/
def State.leadOf (s : State) (p : Nat) : Option Nat :=
  (s.cfgOf p).bind (fun c => (List.range 8).find? (kpIn s.mask c))

/-- The interleaved region's physical address for offset `x` (R51). -/
def intlAddr (stks : List Nat) (x : Nat) : Nat :=
  let n := stks.length
  let piece := x / 4096
  stackBase (stks.getD (piece % n) 0) + piece / n * 4096 + x % 4096

def intlSize (stks : List Nat) (c : PartCfg) : Nat := stks.length * c.intlQ * 0x1000_0000

/-- Where frame `f` of stack `k` starts (R51). -/
def frameAddr (c : PartCfg) (k f : Nat) : Nat := stackBase k + c.intlQ * 0x1000_0000 + f * 0x2_0000
def frameCount (c : PartCfg) (k : Nat) : Nat := c.frameQ.getD k 0 * 2048

/-- Whether [a, a+n) lies in memory of the partition's stacks. -/
def inStacks (m : UnitMask) (c : PartCfg) (a n : Nat) : Bool :=
  decide (0 < n) && decide (a + n ≤ 0x00C0_0000_0000)
    && (List.range ((a + n - 1) / 0x10_0000_0000 + 1 - a / 0x10_0000_0000)).all
        (fun i => stackIn m c (a / 0x10_0000_0000 + i))

def State.inPartStacks (s : State) (p a n : Nat) : Bool :=
  match s.cfgOf p with
  | some c => inStacks s.mask c a n
  | none => false

/-! ## Islands and durations (R26–R34) -/

def islandCode : Island → Nat
  | .tile t => t
  | .base k => 64 + k
  | .keeper p => 96 + p
  | .link g => 112 + g
  | .mgmt => 127
  | .pcie => 126

/-- The period in units of 2^-16 ns: floor(65,536,000 / f) with f in MHz (R29, R33). -/
def periodOf (mhz : Nat) : Nat := 65536000 / mhz

/-- A link cycle at 1,562.5 MHz. -/
def linkPeriod : Nat := 655360000 / 15625

def State.period (s : State) : Island → Nat
  | .tile t => periodOf (800 + 50 * (s.tile t).freq.cur)
  | .base _ => periodOf 1500
  | .keeper p => periodOf (1100 + 100 * (s.pair p).freq.cur)
  | .link _ => linkPeriod
  | .mgmt => periodOf 200
  | .pcie => periodOf (Config.pcieMhz s.pcx.gen.toNat s.pcx.width.toNat)

/-- A running duration is a down-counter in units of 2^-16 ns (R33). Starting one anew replaces it. -/
def State.stopTimer (s : State) (i : TimerId) : State :=
  { s with timers := s.timers.filter (fun t => decide (t.id ≠ i)) }

def State.startTimer (s : State) (i : TimerId) (isl : Island) (ns : Nat) : State :=
  { s with timers := (s.timers.filter (fun t => decide (t.id ≠ i))) ++ [⟨i, isl, (ns * 65536 : Nat)⟩] }

def State.timerRuns (s : State) (i : TimerId) : Bool := s.timers.any (fun t => decide (t.id = i))

/-- A duration has expired once its counter is zero or below (R33). -/
def State.expired (s : State) (i : TimerId) : Bool := s.timers.any (fun t => decide (t.id = i) && decide (t.left ≤ 0))

/-! ## Tallies (R391–R393) -/

/-- What a tally, a ledger record or a fault says of the command that caused an event. -/
structure Who where
  layer : Nat
  op    : Nat
  ctx   : Nat
  trace : Bool
  deriving DecidableEq, Repr

/-- No command: layer and operator 0xFFFF, context 0xFF (R404). -/
def nobody : Who := ⟨0xFFFF, 0xFFFF, noCtx, false⟩

/-- The context of an event by its device number, as tallies and records show it. -/
def State.shown (s : State) (w : Who) : Who := { w with ctx := s.ctxNum w.ctx }

/-- Whether the tally with selection `sel` and value `fv` counts an event (R393). -/
def tallyTakes (sel fv : W32) (ev : Nat) (w : Who) : Bool :=
  decide (bitsOf sel.toNat 15 0 = ev) &&
    match bitsOf sel.toNat 31 30 with
    | 0 => true
    | 1 => decide (bitsOf fv.toNat 15 0 = w.layer)
    | 2 => decide (bitsOf fv.toNat 15 0 = w.op)
    | _ => decide (bitsOf fv.toNat 7 0 = w.ctx)

/-- One tally takes `q` events: the count wraps modulo 2^48 and sets OVF (R392). -/
def tallyAdd (u : TalUnit) (i q : Nat) : TalUnit :=
  let n := (SMap.get 0 u.counts i).toNat + q
  { u with
    counts := SMap.set 0 u.counts i (BitVec.ofNat 48 n)
    ovf := if n ≥ 2 ^ 48 then SMap.set false u.ovf i true else u.ovf }

/-- The tallies of a block that select an event, each with its index. -/
def tallyHits (k : BlkKind) (r : BlockRegs) (ev : Nat) (w : Who) : List Nat :=
  (List.range (tallyCount k)).filter
    (fun i => tallyTakes (commWord k r (0x100 + 8 * i)) (commWord k r (0x104 + 8 * i)) ev w)

/-- Count `q` events `ev` in a unit (R392). -/
def State.count (s : State) (b : BlkId) (ev q : Nat) (w : Who) : State :=
  let u := s.tal (blkKey b)
  if u.frozen ∨ q = 0 ∨ (s.blk b).comm = [] then s
  else
    let hits := tallyHits b.kind (s.blk b) ev (s.shown w)
    let wrap := hits.any (fun i => decide ((SMap.get 0 u.counts i).toNat + q ≥ 2 ^ 48))
    let s := s.setTal (blkKey b) (hits.foldl (fun u i => tallyAdd u i q) u)
    if wrap then s.flag b.kind b.unit 0x14 (bit 29) else s

def State.countTile (s : State) (t ev q : Nat) (w : Who) : State := s.count ⟨.talTile, t⟩ ev q w
def State.countStack (s : State) (k ev q : Nat) (w : Who) : State := s.count ⟨.talStack, k⟩ ev q w
def State.countLg (s : State) (g ev q : Nat) (w : Who) : State := s.count ⟨.talLg, g⟩ ev q w
def State.countPart (s : State) (p ev q : Nat) (w : Who) : State := s.count ⟨.talPart, p⟩ ev q w
def State.countIo (s : State) (ev q : Nat) : State := s.count ⟨.talIo, 0⟩ ev q nobody

/-! ## The fog signal (R397) -/

/-- The units that a fog reaches: every powered unit with tallies, and every tile for its router's sake (R398, R399). -/
def State.fogUnits (s : State) : List BlkId :=
  (List.range 48).map (fun t => ⟨.talTile, t⟩)
  ++ ((List.range 12).filter (fun k => s.domOn (domStack k))).map (fun k => ⟨.talStack, k⟩)
  ++ ((List.range 6).filter (fun g => s.domOn (domLg g))).map (fun g => ⟨.talLg, g⟩)
  ++ ((List.range 8).filter (fun p => s.domOn (domKp p))).map (fun p => ⟨.talKp, p⟩)
  ++ ((s.partsOf).filter (fun c => (s.homeOf c.num).isSome)).map (fun c => ⟨.talPart, c.num⟩)
  ++ [⟨.talIo, 0⟩]

/-- Raise a fog (R397): FOG_ID counts on modulo 256, skipping 0; a fog while FOGGED reads 1 only counts in IGNORED.
FOG_OUT is driven low for OUT_NS where OUT_EN is 1 (R398). -/
def State.raiseFog (s : State) (source : BitVec 3) : State :=
  if s.fog.fogged then
    { s with fog := { s.fog with ignored := if s.fog.ignored = 0xFFF then 0xFFF else s.fog.ignored + 1 } }
  else
    let out := decide (s.cfg .talIo 0 0x30 30 30 = 1)
    let s := { s with fog :=
      { s.fog with
        fogged := true
        source := source
        id := if s.fog.id = 0xFF then 1 else s.fog.id + 1
        outLow := out || s.fog.outLow
        reach := s.fogUnits } }
    if out then (s.startTimer .fogOut .mgmt (s.cfg .talIo 0 0x30 13 0)).emit (.fogOut true) else s

/-! ## The ledger (R403–R410) -/

/-- The committed configuration of a ledger. -/
structure LdgCfg where
  en : Bool
  all : Bool
  lossless : Bool
  fogAct : Bool
  trigFog : Bool
  mode : Nat
  spill : Bool
  post : Nat
  cap : Nat
  trigType : Nat
  layerEn : Bool
  opEn : Bool
  layer : Nat
  op : Nat
  area : Nat
  deriving DecidableEq, Repr

def State.ldgCfg (s : State) (b : BlkId) : LdgCfg :=
  let c := fun off hi lo => s.cfg b.kind b.unit off hi lo
  { en := decide (c 0x10 31 31 = 1), all := decide (c 0x10 30 30 = 1), lossless := decide (c 0x10 29 29 = 1)
    fogAct := decide (c 0x10 28 28 = 1), trigFog := decide (c 0x10 27 27 = 1), mode := c 0x10 26 25
    spill := decide (c 0x10 24 24 = 1), post := 16 * c 0x10 11 0
    cap := if c 0x10 24 24 = 1 then (c 0x28 19 0 + 1) * 2048 else 2048
    trigType := c 0x14 31 24, layerEn := decide (c 0x14 23 23 = 1), opEn := decide (c 0x14 22 22 = 1)
    layer := c 0x14 15 0, op := c 0x18 15 0, area := c 0x20 31 16 * 65536 + c 0x24 15 0 * 2 ^ 32 }

/-- Word R1 of a record (R405). -/
def ldgR1 (w : Who) (typ src : Nat) : Nat :=
  w.layer * 2 ^ 48 + w.op * 2 ^ 32 + typ * 2 ^ 24 + (if w.ctx < 256 then w.ctx else 0xFF) * 2 ^ 16 + src * 2 ^ 8

/-- Ledger states in which records are accepted; the spill area and SPILL_EN may not change then (R411). -/
def ldgBusy (x : LdgSt) : Bool := decide (x = .recording) || decide (x = .triggered)

/-- The records that a ledger has accepted in the cycle `stamp` of its island. -/
def Ledger.inCycle (l : Ledger) (stamp : W64) : Nat := if l.lastAt = stamp then l.lastN else 0

/-- A shortage for `n` records in the cycle `stamp` (R408): one would be the third of the cycle, or the staging slots do not
hold them. -/
def Ledger.short (l : Ledger) (c : LdgCfg) (stamp : W64) (n : Nat) : Bool :=
  decide (2 < l.inCycle stamp + n) || (c.spill && decide (2048 < l.staged + n))

/-- `n` more records lost (R408). -/
def Ledger.lose (l : Ledger) (n : Nat) : Ledger := { l with lost := satAdd32 l.lost n }

/-- Put a record at slot WCOUNT mod C and act by MODE (R407). -/
def ldgPut (c : LdgCfg) (stamp : W64) (l : Ledger) (r : List W64) : Ledger :=
  let n := l.wcount.toNat
  let l := { l with
    slots := SMap.set [] l.slots (n % (if c.spill then 2048 else c.cap)) r
    wcount := l.wcount + 1
    staged := if c.spill then l.staged + 1 else 0
    lastAt := stamp
    lastN := l.inCycle stamp + 1 }
  if c.mode = 0 ∧ n + 1 = c.cap then { l with st := .stoppedFull }
  else if c.mode = 2 ∧ l.st = .triggered ∧ n + 1 = l.trigAt.toNat + c.post then { l with st := .stoppedTrig }
  else l

/-- Whether a record matches LDG_TRIG. -/
def ldgMatches (c : LdgCfg) (w : Who) (typ : Nat) : Bool :=
  decide (c.trigType ≠ 0) && (decide (c.trigType = 0xFF) || decide (c.trigType = typ))
    && (!c.layerEn || decide (c.layer = w.layer)) && (!c.opEn || decide (c.op = w.op))

/-- What comes of records offered to a ledger: the ledger, how many records a shortage dropped, whether a lossless ledger
holds one in its source, and whether the ledger was triggered. -/
structure LdgOut where
  l    : Ledger
  lost : Nat
  held : Bool
  trig : Bool
  deriving DecidableEq, Repr

/-- Two offers one after the other. -/
def LdgOut.andThen (o : LdgOut) (f : Ledger → LdgOut) : LdgOut :=
  let x := f o.l
  ⟨x.l, o.lost + x.lost, o.held || x.held, o.trig || x.trig⟩

/-- Offer one record, its match with LDG_TRIG aside (R407–R410): written, held by a lossless ledger or dropped in a shortage,
or discarded where the ledger has stopped or is frozen. -/
def ldgOne (c : LdgCfg) (stamp : W64) (l : Ledger) (r : List W64) : LdgOut :=
  match l.st with
  | .off => ⟨l, 0, false, false⟩
  | .stoppedTrig => ⟨l, 0, false, false⟩
  | .stopped => ⟨l, 0, false, false⟩
  | .stoppedFull => ⟨l.lose 1, 0, false, false⟩
  | .frozen => ⟨{ l.lose 1 with lostNow := l.lostNow + 1 }, 0, false, false⟩
  | _ =>
    if l.short c stamp 1 then
      (if c.lossless then ⟨{ l with held := l.held ++ [r] }, 0, true, false⟩
       else ⟨{ l.lose 1 with lostNow := l.lostNow + 1 }, 1, false, false⟩)
    else ⟨ldgPut c stamp l r, 0, false, false⟩

/-- A trigger (R407): TRIG_AT takes WCOUNT, in centred mode the ledger goes on to POST more records, and a TRIGGER record is
offered. Once per ARM. -/
def ldgTrig (c : LdgCfg) (stamp : W64) (l : Ledger) (why : Nat) : LdgOut :=
  if l.trigged then ⟨l, 0, false, false⟩
  else
    let l := { l with
      trigged := true, trigAt := l.wcount, st := if c.mode = 2 ∧ l.st = .recording then .triggered else l.st }
    { ldgOne c stamp l [stamp, BitVec.ofNat 64 (ldgR1 nobody 0x0E 0x80), BitVec.ofNat 64 l.trigAt.toNat, BitVec.ofNat 64 why]
      with trig := true }

/-- Offer one record of a type (R407): one that is written and matches LDG_TRIG triggers the ledger. -/
def ldgOffer1 (c : LdgCfg) (stamp : W64) (l : Ledger) (w : Who) (typ : Nat) (r : List W64) : LdgOut :=
  let o := ldgOne c stamp l r
  if o.l.wcount ≠ l.wcount ∧ ldgMatches c w typ then o.andThen (fun l => ldgTrig c stamp l 0) else o

/-- The GAP record of a number of lost records (R408, R410). -/
def gapRecord (stamp : W64) (n : Nat) : List W64 :=
  [stamp, BitVec.ofNat 64 (ldgR1 nobody 0x10 0x80), BitVec.ofNat 64 (min n 0xFFFFFFFF), 0]

/-- Offer a record to a ledger (R407–R410). After a drop it is accepted only where it and the GAP record before it find no
shortage (R408). -/
def ldgOffer (c : LdgCfg) (stamp : W64) (l : Ledger) (w : Who) (typ : Nat) (r : List W64) : LdgOut :=
  if ldgBusy l.st ∧ 0 < l.lostNow then
    (if l.short c stamp 2 then
      (if c.lossless then ⟨{ l with held := l.held ++ [r] }, 0, true, false⟩
       else ⟨{ l.lose 1 with lostNow := l.lostNow + 1 }, 1, false, false⟩)
     else
      (ldgOffer1 c stamp { l with lostNow := 0 } nobody 0x10 (gapRecord stamp l.lostNow)).andThen
        (fun l => ldgOffer1 c stamp l w typ r))
  else ldgOffer1 c stamp l w typ r

/-- The island of a ledger, and its LDG_LOST event code. -/
def ldgIsland (b : BlkId) : Island := if b.kind = .ldgTile then .tile b.unit else .base b.unit

/-- The local cycle count that a ledger stamps with. -/
def State.ldgStamp (s : State) (b : BlkId) : W64 := s.cycle (islandCode (ldgIsland b))

/-- Types that are written whatever TRACE and ALL say (R404). -/
def ldgAlways (typ : Nat) : Bool := typ = 0x05 || typ = 0x0E || typ = 0x0F || typ = 0x10 || typ = 0x11

/-- Records dropped: DROPPED, and the unit's LDG_LOST tally (R408). -/
def State.ldgDropped (s : State) (b : BlkId) (n : Nat) : State :=
  if n = 0 then s
  else
    let s := s.flag b.kind b.unit 0x30 (bit 28)
    if b.kind = .ldgTile then s.countTile b.unit 0x0115 n nobody else s.countStack b.unit 0x0212 n nobody

/-- A ledger takes what came of an offer: STALLED for a held record, and the fog that a trigger raises where TRIG_FOG and
LDG_EN are 1 (R397, R408, R409). -/
def State.ldgTake (s : State) (b : BlkId) (o : LdgOut) : State :=
  let s := (s.setLdg (blkKey b) o.l).ldgDropped b o.lost
  let s := if o.held then s.flag b.kind b.unit 0x30 (bit 27) else s
  if o.trig ∧ (s.ldgCfg b).trigFog ∧ s.cfg .talIo 0 0x30 29 29 = 1 then s.raiseFog 3 else s

/-- Write a ledger record in a unit (R404, R405). `src` is SRC. -/
def State.ledger (s : State) (b : BlkId) (w : Who) (typ src a pb : Nat) : State :=
  let c := s.ldgCfg b
  if ¬ c.en ∨ ¬ (w.trace ∨ c.all ∨ ldgAlways typ) then s
  else
    let stamp := s.ldgStamp b
    let r := [stamp, BitVec.ofNat 64 (ldgR1 (s.shown w) typ src), BitVec.ofNat 64 a, BitVec.ofNat 64 pb]
    s.ldgTake b (ldgOffer c stamp (s.ldg (blkKey b)) w typ r)

def State.ledgerTile (s : State) (t : Nat) (w : Who) (typ src a b : Nat) : State := s.ledger ⟨.ldgTile, t⟩ w typ src a b
def State.ledgerStack (s : State) (k : Nat) (w : Who) (typ src a b : Nat) : State := s.ledger ⟨.ldgStack, k⟩ w typ src a b

/-- Records of the partition front end, keeper pairs and link groups go to the home base die's ledger (R403). -/
def State.ledgerPart (s : State) (p : Nat) (w : Who) (typ src a b : Nat) : State :=
  match s.homeOf p with
  | some k => s.ledgerStack k w typ src a b
  | none => s

/-- A lossless ledger holds records of this engine: the engine waits (R409). -/
def State.ldgHolds (s : State) (b : BlkId) (eng : Nat) : Bool :=
  (s.ldg (blkKey b)).held.any (fun r => decide (bitsOf (r.getD 1 0).toNat 15 12 = eng))

/-- The ledger of a partition's home base die holds a record of this engine: the engine waits (R403, R409). -/
def State.partHolds (s : State) (p eng : Nat) : Bool :=
  match s.homeOf p with
  | some k => s.ldgHolds ⟨.ldgStack, k⟩ eng
  | none => false

/-- The collective engine of a link group waits for its held record (R409). -/
def State.cleHeld (s : State) (g : Nat) : Bool :=
  match s.partOfLg g with
  | some p => s.partHolds p 5
  | none => false

/-! ## Messages to the host (R336, R437, R438, R445) -/

/-- A device request to the host can be made: the hub is on (R23), the link is up, the function is present and its Bus Master
Enable is set (R438). -/
def State.hostOk (s : State) (fn : Nat) : Bool := s.domOn domHub && s.pcx.up && (s.func fn).present && (s.func fn).bme

/-- The host bus address of an aperture address for a function (R437). -/
def State.busAddr (s : State) (fn a : Nat) : Nat :=
  (a - hostBase + s.cfg .pcx 0 (0x104 + 16 * fn) 31 12 * 4096 + s.cfg .pcx 0 (0x108 + 16 * fn) 31 0 * 2 ^ 32) % 2 ^ 64

/-- The address that a device request for bus address `bus` carries (R437): with ATS_EN set, a translation that the function's
ATC of 64 entries holds is used; whether the ATC obtains one is up to it and the host (notes/assumptions/62.md). -/
def State.carryBus (s : State) (fn bus : Nat) : Nat × State :=
  let f := s.func fn
  if ¬ f.atsEn then (bus, s)
  else match f.atc.find? (fun e => decide (e.1 = bus / 4096)) with
    | some e => (e.2 * 4096 + bus % 4096, s)
    | none =>
      let d := s.drawNat
      if d.1 % 2 = 0 then (bus, d.2)
      else
        let page := d.1 / 2 % 2 ^ 52
        (page * 4096 + bus % 4096, d.2.setFunc fn { f with atc := ((bus / 4096, page) :: f.atc).take 64 })

/-- The same for a device address in the host aperture. -/
def State.carry (s : State) (fn a : Nat) : Nat × State := s.carryBus fn (s.busAddr fn a)

/-- A read request of a function for a bus address leaves for the host, whose answer is a row of its own (R437, R438). -/
def State.askBus (s : State) (fn bus n : Nat) : State :=
  if s.hostOk fn then let c := s.carryBus fn bus; c.2.emit (.hostRead fn c.1 n) else s

/-- The same for a device address in the host aperture. -/
def State.hostAsk (s : State) (fn a n : Nat) : State := s.askBus fn (s.busAddr fn a) n

/-- A posted write to the host: discarded with HOST_ERR set where it fails (R438). -/
def State.hostWrite (s : State) (fn a : Nat) (bs : List Byte) (relaxed : Bool) : State :=
  if s.hostOk fn then
    let c := s.carry fn a
    ((c.2.emit (.hostWrite fn c.1 bs relaxed)).countIo 0x0603 bs.length)
  else s.flag .pcx 0 0x14 (bit 30)

/-- A read of the host: its bytes, or nothing with HOST_ERR set (R438). -/
def State.hostRead (s : State) (fn a n : Nat) : Option (List Byte) × State :=
  if s.hostOk fn then
    let r := s.hostBytes (s.busAddr fn a) n
    let c := r.2.carry fn a
    (some r.1, c.2.emit (.hostRead fn c.1 n))
  else (none, s.flag .pcx 0 0x14 (bit 30))

/-- The zero-length reads that flush covered writes to the host, one under each function (R336): the write whose read failed,
where one did. -/
def State.flushReads (s : State) : List HostWr → Option HostWr × State
  | [] => (none, s)
  | w :: ws =>
    match s.hostRead w.fn w.pa 0 with
    | (some _, s) => s.flushReads ws
    | (none, s) => (some w, s)

/-- The last write under each function, with `w` the newest. -/
def noteWr (ws : List HostWr) (w : HostWr) : List HostWr := ws.filter (fun x => decide (x.fn ≠ w.fn)) ++ [w]

/-- A completed command of a device queue wrote host memory (R336). -/
def State.noteHost (s : State) (dq : Nat) : Option HostWr → State
  | none => s
  | some w => s.setQue dq { s.que dq with hostWr := noteWr (s.que dq).hostWr w }

/-- The bytes at a physical address on the device, or what the host answers, which is free. -/
def State.readAny (s : State) (a n : Nat) : List Byte :=
  (List.range n).map (fun i => if hostBase ≤ a then Config.hostByte s.free (a + i) else s.readByte (a + i))

/-- Use up the free values that a step has read. -/
def State.bump (s : State) : State := { s with free := s.free + 1 }

/-- A write to a device physical address: memory, or the host under the function of partition `p`. -/
def State.putBytes (s : State) (p a : Nat) (bs : List Byte) : State :=
  if hostBase ≤ a then s.hostWrite (s.fnOf p) a bs true else s.writeBytes a bs

/-- The vectors of a function's MSI-X table (R445). -/
def State.vectors (s : State) (fn : Nat) : Nat :=
  if (s.partsOf).length = 1 then (if fn = 0 then 2048 else 0)
  else if fn = 0 then 256 else 224

/-- Word `i` of vector `v` in the MSI-X table; the mask bit of the control word is 1 after reset. -/
def msixWord (f : Func) (v i : Nat) : W32 := SMap.get (if i = 3 then 1 else 0) f.table (4 * v + i)

/-- Send an MSI-X message (R445): out of range sets VEC_RANGE; a masked vector sets its pending bit. -/
def State.msix (s : State) (fn v : Nat) : State :=
  if s.vectors fn ≤ v then s.flag .pcx 0 0x14 (bit 29)
  else
    let f := s.func fn
    if ¬ (f.present ∧ f.msixEn) then s
    else if f.msixMask ∨ (msixWord f v 3).getLsbD 0 then s.setFunc fn { f with pba := SMap.set false f.pba v true }
    else if s.hostOk fn then (s.emit (.msix fn v)).countIo 0x0604 1
    else s.flag .pcx 0 0x14 (bit 30)

/-! ## Alerts of the management port (R451, R452) -/

/-- ALERT# is driven low while MGT_ALERT AND MGT_ALERT_EN is non-zero (R452). -/
def State.alertLow (s : State) : Bool :=
  decide (s.flags .mgt 0 0x14 &&& commWord .mgt (s.blk ⟨.mgt, 0⟩) 0x18 ≠ 0)

/-- One NOTICE while an EID is assigned, on I3C with an in-band interrupt first (R450, R452). -/
def State.sendNotice (s : State) : State :=
  if s.mgt.eid = 0 then s
  else
    let s := if s.mgt.daValid then s.emit .inBand else s
    s.emit (.alertNotice (s.flags .mgt 0 0x14) s.fog.id
      ((List.range 8).map (fun p => s.flags .flt p 0x24 ||| BitVec.ofNat 32 (s.part p).lost.toNat)))

/-- Each bit that becomes set in MGT_ALERT AND MGT_ALERT_EN sends one NOTICE. -/
def State.sendNotices (s : State) (fresh : W32) : State :=
  ((List.range 32).filter (fun i => fresh.getLsbD i)).foldl (fun s _ => s.sendNotice) s

/-- Bits of MGT_ALERT become set (R451, R452). -/
def State.alert (s : State) (bits : W32) : State :=
  let old := s.flags .mgt 0 0x14
  let fresh := bits &&& ~~~old &&& (commWord .mgt (s.blk ⟨.mgt, 0⟩) 0x18)
  (s.flag .mgt 0 0x14 bits).sendNotices fresh

/-! ## Raising a fault (R417–R420) -/

/-- What a fault says of itself (R418). -/
structure FaultRec where
  cls    : Nat
  cause  : Nat
  eng    : Nat
  ctx    : Nat
  queue  : Nat
  stage  : Nat
  layer  : Nat
  op     : Nat
  head   : W32
  aspace : Nat
  addr   : Nat
  detail : Nat
  sub    : Nat
  uclass : Nat
  unit   : Nat
  deriving DecidableEq, Repr

/-- The island that stamps a record, by the charging unit (R418). -/
def State.stampOf (s : State) (p uclass unit : Nat) : W64 :=
  match uclass with
  | 0 => s.cycle (islandCode (.tile unit))
  | 1 => s.cycle (islandCode (.base unit))
  | 2 => s.cycle (islandCode (.link unit))
  | 3 => s.cycle (islandCode (.keeper unit))
  | 4 => (match s.homeOf p with | some k => s.cycle (islandCode (.base k)) | none => 0)
  | _ => s.cycle (islandCode .mgmt)

/-- The eight words of a fault record (R418). -/
def faultWords (f : FaultRec) (stamp : W64) (seq : W32) : List Nat :=
  [ f.cls + f.cause * 2 ^ 8 + f.eng * 2 ^ 16 + f.ctx % 256 * 2 ^ 24 + f.queue * 2 ^ 32 + f.stage * 2 ^ 48,
    f.head.toNat + f.op * 2 ^ 32 + f.layer * 2 ^ 48,
    f.addr % 2 ^ 48 + f.aspace * 2 ^ 48,
    f.uclass + f.unit * 2 ^ 8 + f.sub * 2 ^ 20 + f.detail % 2 ^ 32 * 2 ^ 32,
    stamp.toNat,
    seq.toNat * 2 ^ 32,
    0, 0 ]

def fltLog (s : State) (p : Nat) : Nat := s.cfg .flt p 0x14 31 6 * 64 + s.cfg .flt p 0x18 15 0 * 2 ^ 32
def fltSize (s : State) (p : Nat) : Nat := 2 ^ (s.cfg .flt p 0x10 3 0 + 6)

/-- Write the record to the partition's fault log, or count it lost (R420). -/
def State.logFault (s : State) (p : Nat) (ws : List Nat) : State :=
  let pt := s.part p
  let used := (pt.prod - plainWord .flt (s.blk ⟨.flt, p⟩) 0x20).toNat
  if s.cfg .flt p 0x10 31 31 = 1 ∧ used < fltSize s p then
    let at_ := fltLog s p + 64 * (pt.prod.toNat % fltSize s p)
    (s.writeBytes at_ (ws.flatMap (leBytes 8))).setPart p { pt with prod := pt.prod + 1 }
  else
    (s.setPart p { pt with lost := if pt.lost = 0xFFFF then pt.lost else pt.lost + 1 }).flag .flt p 0x24 (bit 31)

/-- The ledger of the unit that charges a fault (R403). -/
def State.ledgerUnit (s : State) (p uclass unit : Nat) (w : Who) (typ src a b : Nat) : State :=
  match uclass with
  | 0 => s.ledgerTile unit w typ src a b
  | 1 => s.ledgerStack unit w typ src a b
  | _ => s.ledgerPart p w typ src a b

/-- Record a fault of partition `p` whose record gives device numbers (R417 but for the context's state): the record, the
notice to the keeper pairs, MSI-X, the FAULT ledger record and the FAULTS tally. -/
def State.recordFault (s : State) (p : Nat) (f : FaultRec) (w : Who) : State :=
  let pt := s.part p
  let ws := faultWords f (s.stampOf p f.uclass f.unit) pt.seq
  let s := s.setPart p { pt with seq := pt.seq + 1 }
  let s := s.logFault p ws
  let s := s.emit (.notice p 3 ws)
  let s := s.msix (s.fnOf p) (s.cfg .flt p 0x10 26 16)
  let s := s.ledgerUnit p f.uclass f.unit w 0x05 (if f.eng = 0xF then 0 else f.eng * 16 + f.sub % 16) f.cls
    (if f.aspace = 2 then 0 else f.addr)
  s.countPart p 0x050A 1 w

/-- Charge a fault to a context of partition `p`, whatever its state (R417, R70): an ACTIVE one becomes FAULTED. -/
def State.raiseAny (s : State) (p : Nat) (f : FaultRec) : State :=
  let c := s.ctx f.ctx
  let s := s.recordFault p { f with ctx := s.ctxNum f.ctx, queue := s.queNum f.queue } ⟨f.layer, f.op, f.ctx, false⟩
  if c.st = .active then s.setCtx f.ctx { c with st := .faulted } else s

/-- The engine that raised a fault: by its code of R78, where its own unit charges it. -/
def FaultRec.engine (f : FaultRec) : Option Eng :=
  match f.eng, f.uclass with
  | 1, 0 => some .mxe
  | 2, 0 => some .vxe
  | 3, 0 => some .ste
  | 4, 1 => some .nme
  | 5, 2 => some .cle
  | 6, 3 => some .kpr
  | _, _ => none

/-- Charge a fault of a context's work to it (R417). Work of a context whose removal runs raises nothing, but for the
runtime's requests that were accepted, which no reset removes (R427); nor does an engine raise one while its own engine reset
runs (R432). Stopping the queue, command or stream is the raiser's (step 3). -/
def State.raise (s : State) (p : Nat) (f : FaultRec) : State :=
  let c := s.ctx f.ctx
  if c.st = .resetting ∧ f.eng ≠ 6 ∨ f.engine.any (fun e => (s.part p).rstRuns.contains (.engine e f.unit)) then s
  else s.raiseAny p f

/-- The device climbed a rung by itself (R423, R425): ESCALATED in FLT_STAT and MGT_ALERT. -/
def State.escalated (s : State) (p : Nat) : State := (s.flag .flt p 0x24 (bit 30)).alert (bit 29)

/-! ## Outcomes -/

/-- A meaning's answer: its effect where the operands are a command of the table, the fault illFormed otherwise. -/
abbrev Result := Host.Outcome State Fault Refusal

/-- `s'` where the operands are well formed. -/
def okIf (wf : Bool) (s' : State) : Result := if wf then .next s' else .fault .illFormed

/-! ## BAR2 windows onto frames (R443) -/

/-- A stack that B2_KIND 2 may name for a function (R443). -/
def State.b2Stack (s : State) (f k : Nat) : Bool :=
  match (s.partOfFn f).bind s.cfgOf with
  | some c => stackIn s.mask c k && decide (c.frameQ.getD k 0 ≠ 0)
  | none => false

/-- BAR2 windows of B2_KIND 2 whose stack, by an APPLY or a training failure, no longer qualifies are misses from now on
(R443). -/
def State.loseWindows (s : State) : State :=
  let r := s.blk ⟨.pcx, 0⟩
  let gone := (List.range 9).filter (fun f =>
    let k := s.cfg .pcx 0 (0x100 + 16 * f) 27 24
    decide (s.cfg .pcx 0 (0x100 + 16 * f) 31 30 = 2) && !(s.b2Stack f k && decide ((s.stack k).st ≠ .failed)))
  s.setBlk ⟨.pcx, 0⟩ { r with missed := (r.missed ++ gone).eraseDups }

end Sys2Proof.Machine
end

