-- ==== Sys2Proof/Machine/Translate.lean ====
section
/-!
DEFINITION. Translated space (R262–R267): the radix walk, the place a page may have, the TLBs, and the translation of
every page of a range that a command names (R266). A place is a device physical address, or 2^48 plus an offset into
the partition's interleaved region, whose bytes R51 spreads over the stacks.
-/
namespace Sys2Proof.Machine

/-- The causes of R265. -/
inductive XCause where
  | invalid | malformed | walk | notPresent | target | write
  deriving DecidableEq, Repr

/-- What a walk answers: the page's place and size with its write permission, or a cause and the level. -/
inductive Xlat where
  | ok (place size : Nat) (w : Bool)
  | bad (c : XCause) (level : Nat)
  deriving DecidableEq, Repr

/-- The interleaved region's places start here. -/
def intlPlace : Nat := 2 ^ 48

/-- The physical address of a place plus `x` (R51). -/
def State.placeAddr (s : State) (p place x : Nat) : Nat :=
  if place < intlPlace then place + x
  else match s.cfgOf p with
    | some c => intlAddr (partStacks s.mask c) (place - intlPlace + x)
    | none => 0

/-- The index of a translated address in the table of a level (R263). -/
def xlatIndex (level va : Nat) : Nat :=
  match level with
  | 0 => bitsOf va 47 39
  | 1 => bitsOf va 38 30
  | 2 => bitsOf va 29 21
  | _ => bitsOf va 20 16

/-- The size of a leaf page at a level (R263). -/
def leafSize (level : Nat) : Nat :=
  match level with
  | 1 => 2 ^ 30
  | 2 => 2 ^ 21
  | _ => 2 ^ 16

/-- Read an entry of a table: device memory of the partition's stacks, or the host aperture (R263, R265). -/
def State.readEntry (s : State) (p a : Nat) : Option Nat × State :=
  if hostBase ≤ a ∧ a + 8 ≤ 2 ^ 48 then
    match s.hostRead (s.fnOf p) a 8 with
    | (some bs, s) => (some (leNat bs), s)
    | (none, s) => (none, s)
  else if s.inPartStacks p a 8 ∧ s.stackUp (a / 0x10_0000_0000) ∧ ¬ s.poisoned a 8 then (some (s.readLe a 8), s)
  else (none, s)

/-- Where the whole of a present page may lie (R265). -/
def State.pageFits (s : State) (p kind base size : Nat) : Bool :=
  match s.cfgOf p with
  | none => false
  | some c =>
    let m := s.mask
    if kind = 1 then decide (base + size ≤ intlSize (partStacks m c) c)
    else
      (decide (hostBase ≤ base) && decide (base + size ≤ 2 ^ 48))
      || (List.range 48).any (fun t => tileIn m c t && decide (scratchBase t ≤ base)
            && decide (base + size ≤ scratchBase t + scratchSize))
      || (partStacks m c).any (fun k => decide (frameAddr c k 0 ≤ base)
            && decide (base + size ≤ frameAddr c k (frameCount c k)))

/-- What an entry of a table says (R265): the next level's table, a page, or a cause. -/
inductive Entry where
  | next (table : Nat)
  | leaf (place size : Nat) (w : Bool)
  | bad (c : XCause)
  deriving DecidableEq, Repr

/-- Read and check the entry for `va` of the table `t` at a level. -/
def State.entryAt (s : State) (p va level t : Nat) : Entry × State :=
  match s.readEntry p (t + 8 * xlatIndex level va) with
  | (none, s) => (.bad .walk, s)
  | (some e, s) =>
    if bitsOf e 0 0 = 0 then (.bad (if bitsOf e 3 3 = 1 then .notPresent else .invalid), s)
    else if bitsOf e 7 6 ≠ 0 ∨ bitsOf e 3 3 = 1 ∨ bitsOf e 5 4 > 1 then (.bad .malformed, s)
    else
      let addr := bitsOf e 47 8 * 256
      if bitsOf e 1 1 = 1 then
        if level = 0 ∨ addr % leafSize level ≠ 0 then (.bad .malformed, s)
        else if s.pageFits p (bitsOf e 5 4) addr (leafSize level) then
          (.leaf (if bitsOf e 5 4 = 1 then intlPlace + addr else addr) (leafSize level) (decide (bitsOf e 2 2 = 1)), s)
        else (.bad .target, s)
      else if level = 3 then (.bad .malformed, s)
      else (.next addr, s)

/-! ### Walk caches (R267): the walk cache of the unit whose TLB has key `k` is held beside the TLBs, under `walkKey k`. An
entry of it is an upper-level entry: the addresses it covers, and in `pa` the next level's table. The spec gives no number of
entries, and any may be dropped at any moment: whether one that the tables no longer back is still used is a free value. -/

def walkKey (key : Nat) : Nat := 2 ^ 20 + key

/-- Bytes that an upper-level entry covers. -/
def walkCover (level : Nat) : Nat := 2 ^ (39 - 9 * level)

def walkEnt (dc level va t : Nat) : TlbEnt := ⟨dc, va / walkCover level * walkCover level, t, walkCover level, false⟩

def State.walkFind (s : State) (key dc level va : Nat) : Option TlbEnt :=
  (s.tlb (walkKey key)).find? (fun e => decide (e.ctx = dc) && decide (e.bytes = walkCover level) &&
    decide (e.va = va / walkCover level * walkCover level))

def State.walkDrop (s : State) (key : Nat) (e : TlbEnt) : State :=
  s.setTlb (walkKey key) ((s.tlb (walkKey key)).filter (fun x => decide (x ≠ e)))

/-- Keep what an entry said, where it is an upper-level one. -/
def State.walkKeep (s : State) (key dc level va : Nat) (r : Entry) : State :=
  match r with
  | .next t => s.setTlb (walkKey key) (walkEnt dc level va t :: s.tlb (walkKey key))
  | _ => s

/-- One level of a walk through the walk cache. -/
def State.walkLevel (s : State) (key dc p va level t : Nat) : Entry × State :=
  match s.walkFind key dc level va with
  | none => ((s.entryAt p va level t).1, (s.entryAt p va level t).2.walkKeep key dc level va (s.entryAt p va level t).1)
  | some e =>
    let r := s.entryAt p va level t
    if r.1 = .next e.pa then r
    else if (r.2.draw 1).1 = 1 then (.next e.pa, (r.2.draw 1).2)
    else (r.1, (((r.2.draw 1).2).walkDrop key e).walkKeep key dc level va r.1)

/-- The walk of R265, from table `t` at a level; `fuel` counts the levels that remain. -/
def State.walkFrom (s : State) (key dc p va : Nat) : Nat → Nat → Nat → Xlat × State
  | 0, level, _ => (.bad .malformed level, s)
  | fuel + 1, level, t =>
    match s.walkLevel key dc p va level t with
    | (.bad c, s) => (.bad c level, s)
    | (.leaf place size w, s) => (.ok place size w, s)
    | (.next t, s) => s.walkFrom key dc p va fuel (level + 1) t

/-- The walk of a context's root (R262, R265) by the unit with this TLB. `lc` is the local context. -/
def State.walk (s : State) (key p lc va : Nat) : Xlat × State :=
  let lo := 0x2000 + 32 * lc
  if s.cfg .ctx p lo 0 0 = 0 then (.bad .invalid 0, s)
  else s.walkFrom key (ctxKey p lc) p va 4 0 (s.cfg .ctx p lo 31 12 * 4096 + s.cfg .ctx p (lo + 4) 15 0 * 2 ^ 32)

/-- The TLBs of R267: each serves one unit; the keys are those of the unit's blocks. -/
def tlbTile (t : Nat) : Nat := blkKey ⟨.tile, t⟩
def tlbBase (k : Nat) : Nat := blkKey ⟨.nme, k⟩
def tlbLg (g : Nat) : Nat := blkKey ⟨.lnk, g⟩
def tlbPart (p : Nat) : Nat := blkKey ⟨.ctx, p⟩

/-- Entries of the TLB with this key (R267). -/
def tlbCap (key : Nat) : Nat :=
  if key / 64 = kindCode .tile then 512 else if key / 64 = kindCode .ctx then 128 else 256

/-- The cached page that covers `va`, if any. -/
def tlbFind (es : List TlbEnt) (ctx va : Nat) : Option TlbEnt :=
  es.find? (fun e => decide (e.ctx = ctx) && decide (e.va ≤ va) && decide (va < e.va + e.bytes))

/-- Keep a present leaf; a full TLB replaces an entry that the spec does not name (R267): a free value picks it. -/
def State.tlbAdd (s : State) (key : Nat) (e : TlbEnt) : State :=
  let es := s.tlb key
  if es.length < tlbCap key then s.setTlb key (e :: es)
  else
    let d := s.drawNat
    d.2.setTlb key (e :: es.eraseIdx (d.1 % tlbCap key))

/-- Translate one address through the TLB `key`. Where a cached page differs from what the tables now say, either may
be used (R267): a free value decides. Cached translations carry the context's key. -/
def State.xlate (s : State) (key p lc va : Nat) : Xlat × State :=
  let dc := ctxKey p lc
  match s.walk key p lc va, tlbFind (s.tlb key) dc va with
  | (.ok pl sz w, s'), none => (.ok pl sz w, s'.tlbAdd key ⟨dc, va / sz * sz, pl, sz, w⟩)
  | (r, s'), none => (r, s')
  | (r, s'), some e =>
    if r = .ok e.pa e.bytes e.write then (r, s')
    else
      let d := s'.draw 1
      if d.1 = 1 then (.ok e.pa e.bytes e.write, d.2)
      else
        let s'' := d.2.setTlb key ((d.2.tlb key).filter (fun x => decide (x ≠ e)))
        match r with
        | .ok pl sz w => (r, s''.tlbAdd key ⟨dc, va / sz * sz, pl, sz, w⟩)
        | .bad _ _ => (r, s'')

/-- Drop every TLB and walk-cache entry of a device context (R267, R426). -/
def State.dropCtx (s : State) (dc : Nat) : State :=
  { s with tlbs := (s.tlbs.map (fun e => (e.1, e.2.filter (fun x => decide (x.ctx ≠ dc))))).filter
                      (fun e => decide (e.2 ≠ [])) }

/-! ## Ranges of a command (R266) -/

/-- An invalid field of the command word `w` (R490). -/
def badWord (w : Nat) : Bad := ⟨0x01, 0, 0xFFFF0000 + w, 2, 0, 0x7F⟩

/-- An invalid field in word `i` of a structure in memory that command word `w` locates (R490). -/
def badIn (w i : Nat) : Bad := ⟨0x01, 0, i * 65536 + w, 2, 0, 0x7F⟩

/-- The fault of a failed translation (R265, R419). -/
def badXlat (c : XCause) (level va : Nat) : Bad :=
  match c with
  | .invalid => ⟨0x06, 1, level, 0, va, 0x7F⟩
  | .malformed => ⟨0x06, 2, level, 0, va, 0x7F⟩
  | .walk => ⟨0x06, 3, level, 0, va, 0x7F⟩
  | .notPresent => ⟨0x06, 4, level, 0, va, 0x7F⟩
  | .target => ⟨0x03, 1, 0, 0, va, 0x7F⟩
  | .write => ⟨0x03, 2, 0, 0, va, 0x7F⟩

/-- Translate one 64 KiB page for reading or writing: the page's place. -/
def State.xlatePage (s : State) (key p lc va : Nat) (wr : Bool) : Except Bad PageMap × State :=
  match s.xlate key p lc va with
  | (.bad c l, s) => (.error (badXlat c l va), s)
  | (.ok pl sz w, s) =>
    if wr ∧ ¬ w then (.error (badXlat .write 0 va), s)
    else (.ok ⟨va / 65536, pl + va % sz / 65536 * 65536⟩, s)

/-- Translate the pages of [va, va + n) one after the other; `k` pages remain. -/
def State.xlatePages (s : State) (key p lc va hi : Nat) (wr : Bool) :
    Nat → List PageMap → Except Bad (List PageMap) × State
  | 0, acc => (.ok acc, s)
  | k + 1, acc =>
    if hi ≤ va then (.ok acc, s)
    else if acc.any (fun m => decide (m.page = va / 65536)) ∧ ¬ wr then
      s.xlatePages key p lc ((va / 65536 + 1) * 65536) hi wr k acc
    else
      match s.xlatePage key p lc va wr with
      | (.error b, s) => (.error b, s)
      | (.ok m, s) =>
        s.xlatePages key p lc ((va / 65536 + 1) * 65536) hi wr k
          (if acc.any (fun x => decide (x.page = m.page)) then acc else acc ++ [m])

/-- A range of translated addresses that a command names: first address, length, and whether it is written. -/
structure VRange where
  va : Nat
  n  : Nat
  wr : Bool
  deriving DecidableEq, Repr

/-- Translate every page of every range (R266). -/
def State.xlateRanges (s : State) (key p lc : Nat) : List VRange → List PageMap → Except Bad (List PageMap) × State
  | [], acc => (.ok acc, s)
  | r :: rs, acc =>
    match s.xlatePages key p lc r.va (r.va + r.n) r.wr ((r.va + r.n) / 65536 + 1 - r.va / 65536) acc with
    | (.error b, s) => (.error b, s)
    | (.ok acc, s) => s.xlateRanges key p lc rs acc

/-- The physical address of a translated address through held pages. -/
def State.heldAddr (s : State) (p : Nat) (held : List PageMap) (va : Nat) : Option Nat :=
  (held.find? (fun m => decide (m.page = va / 65536))).map (fun m => s.placeAddr p m.pa (va % 65536))

/-- The byte at a translated address through held pages. -/
def State.heldByte (s : State) (p : Nat) (held : List PageMap) (va : Nat) : Byte :=
  match s.heldAddr p held va with
  | some a => if hostBase ≤ a then Config.hostByte s.free a else s.readByte a
  | none => 0

/-- Bytes read through held pages. Bytes of the host aperture are what the host answers: free. -/
def State.heldRead (s : State) (p : Nat) (held : List PageMap) (va n : Nat) : List Byte :=
  (List.range n).map (fun i => s.heldByte p held (va + i))

def State.heldLe (s : State) (p : Nat) (held : List PageMap) (va n : Nat) : Nat := leNat (s.heldRead p held va n)

/-- Store one byte at a translated address through held pages. -/
def State.heldPut (s : State) (p : Nat) (held : List PageMap) (va : Nat) (b : Byte) : State :=
  match s.heldAddr p held va with
  | some a => s.putBytes p a [b]
  | none => s

/-- Store bytes through held pages: device bytes one by one, and a run into the host aperture as one posted write. -/
def State.heldWrite (s : State) (p : Nat) (held : List PageMap) (va : Nat) (bs : List Byte) : State :=
  match s.heldAddr p held va, s.heldAddr p held (va + bs.length - 1) with
  | some a, some z =>
    if z = a + bs.length - 1 then s.putBytes p a bs
    else (List.range bs.length).foldl (fun s i => s.heldPut p held (va + i) (bs.getD i 0)) s
  | _, _ => s

/-- Whether a poisoned line lies under a range read through held pages (R259). -/
def State.heldPoison (s : State) (p : Nat) (held : List PageMap) (va n : Nat) : Bool :=
  s.poison ≠ [] &&
    (List.range ((va + n + 63) / 64 - va / 64)).any (fun i =>
      match s.heldAddr p held (max va ((va / 64 + i) * 64)) with
      | some a => s.poisoned (a / 64 * 64) 1
      | none => false)

end Sys2Proof.Machine
end

