-- ==== Sys2Proof/Machine/Contexts.lean ====
section
/-!
DEFINITION. Contexts, queues and command records (R63–R79, R82–R84): the header and wait words, the registers of a
queue, doorbells, fetching, halting a queue at a faulted command, who may reach a block, and CREATE.
-/
namespace Sys2Proof.Machine

/-! ## The command record (R76–R79) -/

def Cmd.word (c : Cmd) (i : Nat) : Nat := (c.words.getD i 0).toNat
def Cmd.ext (c : Cmd) : Nat := bitsOf (c.word 0) 63 60
def Cmd.target (c : Cmd) : Nat := bitsOf (c.word 0) 55 48
def Cmd.opId (c : Cmd) : Nat := bitsOf (c.word 0) 47 32
def Cmd.layerId (c : Cmd) : Nat := bitsOf (c.word 0) 31 16
def Cmd.irq (c : Cmd) : Bool := decide (bitsOf (c.word 0) 15 15 = 1)
def Cmd.fence (c : Cmd) : Bool := decide (bitsOf (c.word 0) 14 14 = 1)
def Cmd.trace (c : Cmd) : Bool := decide (bitsOf (c.word 0) 13 13 = 1)
def Cmd.engine (c : Cmd) : Nat := bitsOf (c.word 0) 11 8
def Cmd.opcode (c : Cmd) : Nat := bitsOf (c.word 0) 7 0
/-- Word Ej of extension record `k`. -/
def Cmd.extWord (c : Cmd) (k j : Nat) : Nat := c.word (8 + 8 * k + j)

/-- The fields of a wait or release word (R79). -/
def waitMark (w : Nat) : Nat := bitsOf w 63 48
def waitScope (w : Nat) : Nat := bitsOf w 47 45
def waitValue (w : Nat) : Nat := bitsOf w 44 0

/-! ## A queue's committed registers (R70); `q` is the local number -/

def State.qCtx (s : State) (p q : Nat) : Nat := s.cfg .que p (0x8000 + 16 * q) 7 0
def State.qBase (s : State) (p q : Nat) : Nat :=
  s.cfg .que p (0x8000 + 16 * q) 31 12 * 4096 + s.cfg .que p (0x8004 + 16 * q) 15 0 * 2 ^ 32
def State.qEnable (s : State) (p q : Nat) : Bool := decide (s.cfg .que p (0x8004 + 16 * q) 31 31 = 1)
def State.qKind (s : State) (p q : Nat) : Nat := s.cfg .que p (0x8004 + 16 * q) 29 28
def State.qSize (s : State) (p q : Nat) : Nat := 2 ^ (s.cfg .que p (0x8004 + 16 * q) 27 24 + 6)
def State.qPrio (s : State) (p q : Nat) : Nat := s.cfg .que p (0x8004 + 16 * q) 23 20
def State.qVec (s : State) (p q : Nat) : Nat := s.cfg .que p (0x8008 + 16 * q) 26 16
/-- The progress timeout in ms: 0 means 10,000. -/
def State.qTmo (s : State) (p q : Nat) : Nat :=
  let v := s.cfg .que p (0x8008 + 16 * q) 13 0
  if v = 0 then 10000 else v

/-- The keys of a partition's queue and context. -/
def State.devQue (_ : State) (p q : Nat) : Nat := queKey p q
def State.devCtx (_ : State) (p c : Nat) : Nat := ctxKey p c

/-- The device context that owns a queue. -/
def State.qDevCtx (s : State) (p q : Nat) : Nat := s.devCtx p (s.qCtx p q)

def State.q (s : State) (p q : Nat) : Que := s.que (s.devQue p q)
def State.setQ (s : State) (p q : Nat) (x : Que) : State := s.setQue (s.devQue p q) x

/-- A queue is enabled while its ENABLE is 1 and its context is ACTIVE or FAULTED (R69). -/
def State.qEnabled (s : State) (p q : Nat) : Bool :=
  s.qEnable p q && (decide ((s.ctx (s.qDevCtx p q)).st = .active) || decide ((s.ctx (s.qDevCtx p q)).st = .faulted))

/-- Commands fetched and not yet retired, a command fetched in part included (R71). -/
def Que.inflight (x : Que) : Nat := x.cmds.length + (if x.recs = [] then 0 else 1)

/-- What tallies, ledger records and faults say of a command (R77). -/
def State.whoOf (s : State) (p q : Nat) (c : Cmd) : Who := ⟨c.layerId, c.opId, s.qDevCtx p q, c.trace⟩

/-- Who the events of a command known by its reference count for: the queue's context and the command's own fields. -/
def State.whoRef (s : State) (r : CmdRef) (c : Cmd) : Who :=
  match s.queOwner r.q with
  | some (p, q) => s.whoOf p q c
  | none => nobody

/-- The queue's front end lies at its partition's home base die (R238). -/
def State.frontIsland (s : State) (p : Nat) : Island := .base ((s.homeOf p).getD 0)

/-- The progress clock of an enabled queue runs while work is left and the queue is not halted (R422). -/
def State.progressRestart (s : State) (p q : Nat) : State :=
  let x := s.q p q
  if (x.inflight ≠ 0 ∨ x.head ≠ x.tail) ∧ ¬ x.halted ∧ s.qEnabled p q then
    s.startTimer (.progress (s.devQue p q)) (s.frontIsland p) (s.qTmo p q * 1000000)
  else s.stopTimer (.progress (s.devQue p q))

/-! ## Halting (R80, R83, R422) -/

/-- The commands of a queue when the one at `i` will never complete: it is lost, every later unbegun command never
begins, and every later begun command retires without its release. -/
def loseFrom : Nat → List Cmd → List Cmd
  | _, [] => []
  | 0, c :: cs =>
    { c with phase := .lost } ::
      cs.map (fun d => if d.phase = .fetched then { d with phase := .lost } else { d with noRel := true })
  | i + 1, c :: cs => c :: loseFrom i cs

/-- The commands of a queue that halts at `i` with no command of its own to lose: from there on no command begins,
and begun ones retire without their releases. -/
def haltTail (i : Nat) (cs : List Cmd) : List Cmd :=
  cs.take i ++ (cs.drop i).map (fun d => if d.phase = .fetched then { d with phase := .lost } else { d with noRel := true })

/-- Stop a queue in STATE HALTED; its commands from `i` on do not begin. -/
def State.haltFrom (s : State) (p q i : Nat) : State :=
  let x := s.q p q
  (s.setQ p q { x with halted := true, recs := [], cmds := haltTail i x.cmds }).stopTimer
    (.progress (s.devQue p q))

/-- Stop a queue in STATE HALTED at its command `i` (R80); an index past the end stops fetching only. -/
def State.haltAt (s : State) (p q i : Nat) : State :=
  let x := s.q p q
  (s.setQ p q { x with halted := true, recs := [], cmds := loseFrom i x.cmds }).stopTimer
    (.progress (s.devQue p q))

/-- The fault record of a command's fault found by the partition front end or by a unit (R418). -/
def State.cmdFault (s : State) (p q : Nat) (c : Cmd) (b : Bad) (uclass unit sub : Nat) : FaultRec :=
  { cls := b.cls, cause := b.cause, eng := if c.engine ≤ 6 then c.engine else 0xF, ctx := s.qDevCtx p q
    queue := s.devQue p q, stage := b.stage, layer := c.layerId, op := c.opId, head := c.head, aspace := b.aspace
    addr := b.addr, detail := b.detail, sub := sub, uclass := uclass, unit := unit }

/-- The fault record of a queue's own fault, raised without a command (R418). -/
def State.queFault (s : State) (p q : Nat) (b : Bad) : FaultRec :=
  { cls := b.cls, cause := b.cause, eng := 0xF, ctx := s.qDevCtx p q, queue := s.devQue p q, stage := 0x7F
    layer := 0xFFFF, op := 0xFFFF, head := (s.q p q).head, aspace := b.aspace, addr := b.addr, detail := b.detail
    sub := 0, uclass := 4, unit := p }

/-- Index of the command with this HEAD in a queue. -/
def cmdIdx (cs : List Cmd) (h : W32) : Nat := cs.findIdx (fun c => decide (c.head = h))

/-! ## Chain stages as commands (R239–R241) -/

/-- The fields of a stage word (R240). -/
def stKind (w : Nat) : Nat := bitsOf w 63 60
def stAux (w : Nat) : Nat := bitsOf w 59 54
def stDelta (w : Nat) : Nat := bitsOf w 53 48
def stArg (w : Nat) : Nat := bitsOf w 47 0

/-- ENGINE and OPCODE of the command a stage acts as; BARRIER, POP and PUSH are the chain's own. -/
def stageOp (kind : Nat) : Nat × Nat :=
  match kind with
  | 1 => (1, 0x01) | 2 => (1, 0x02) | 3 => (1, 0x03) | 4 => (2, 0x01) | 5 => (3, 0x02) | 6 => (3, 0x03)
  | _ => (1, 0x10)

/-- The command that stage `i` of a chain acts as: the chain's TARGET, layer and TRACE, the operator OP_ID + OP_DELTA,
and the words of its parameter block, or SID and BYTES (R240, R241). -/
def stageCmd (c : Cmd) (ch : Chain) (i : Nat) : Cmd :=
  let w := (ch.stages.getD i 0).toNat
  let k := stKind w
  let par := if k = 5 ∨ k = 6 then [BitVec.ofNat 64 (stAux w * 2 ^ 60 + stArg w), 0] else ch.params.getD i []
  let ext := if (par.drop 2).any (fun x => decide (x ≠ 0)) then 1 else 0
  let head := ext * 2 ^ 60 + c.target * 2 ^ 48 + (c.opId + stDelta w) % 65536 * 2 ^ 32 + c.layerId * 2 ^ 16
    + (if c.trace then 2 ^ 13 else 0) + (stageOp k).1 * 256 + (stageOp k).2
  { c with
    words := [BitVec.ofNat 64 head, 0, 0, 0, 0, 0] ++ par
    held := c.held ++ ch.held
    book := ch.books.getD i .none }

/-- The chain that a reference's command runs, with its tile. -/
def State.chainOf (s : State) (r : CmdRef) : Option (Nat × Chain) :=
  s.chains.findSome? (fun e => (e.2.find? (fun ch => decide (ch.ref.q = r.q) && decide (ch.ref.head = r.head))).map
    (fun ch => (e.1, ch)))

/-- Replace a chain of a tile. -/
def State.putChain (s : State) (t : Nat) (ch : Chain) : State :=
  s.setChain t ((s.chain t).map (fun x => if x.ref = ch.ref then ch else x))

/-- A command by its reference; a reference to a stage gives the command the stage acts as. -/
def State.cmdAt (s : State) (r : CmdRef) : Option Cmd :=
  match (s.que r.q).cmds.find? (fun c => decide (c.head = r.head)), r.stage with
  | some c, some i => (s.chainOf r).map (fun x => stageCmd c x.2 i)
  | o, _ => o

/-- Change the command that a reference names. -/
def State.updCmd (s : State) (r : CmdRef) (f : Cmd → Cmd) : State :=
  let x := s.que r.q
  s.setQue r.q { x with cmds := x.cmds.map (fun c => if c.head = r.head then f c else c) }

/-- The word that holds stage `i` of a chain (R239). -/
def stageWord (i : Nat) : Nat := 7 + i

/-- An invalid-field fault of a chain stage points at the stage's word, and at the word of its parameter block where
the field lies there (R490). -/
def stageBad (b : Bad) (w i : Nat) : Bad :=
  let lo := b.detail % 256
  let hi := b.detail / 65536
  let hi := if hi = 0xFFFF ∧ 6 ≤ lo ∧ stKind w ≤ 4 then lo - 6 else hi
  { b with detail := if b.cls = 1 then hi * 65536 + stageWord i else b.detail, stage := i }

/-- A chain leaves its tile once no stage of it runs and a stage has faulted or the chain was stopped (R245). -/
def Chain.dead (ch : Chain) : Bool :=
  (ch.stop || ch.st.any (fun x => decide (x = .faulted))) && !(ch.st.any (fun x => decide (x = .begun)))

/-- A stage's state changes; a chain that has stopped and finished its begun stages leaves the tile. -/
def State.setStage (s : State) (r : CmdRef) (x : StageSt) : State :=
  match r.stage, s.chainOf r with
  | some i, some (t, ch) =>
    let ch := { ch with st := ch.st.set i x }
    if ch.dead then s.setChain t ((s.chain t).filter (fun y => decide (y.ref ≠ ch.ref))) else s.putChain t ch
  | _, _ => s

/-- Raise a fault of a running command by its reference and halt its queue (R80, R245). `uclass`, `unit` and `sub`
name the unit that found it. -/
def State.failRef (s : State) (r : CmdRef) (b : Bad) (uclass unit sub : Nat) : State :=
  match s.queOwner r.q, s.cmdAt r with
  | some (p, q), some c =>
    let b := match r.stage, s.chainOf r with
      | some i, some (_, ch) => stageBad b (ch.stages.getD i 0).toNat i
      | _, _ => b
    ((s.raise p (s.cmdFault p q c b uclass unit sub)).setStage r .faulted).haltAt p q (cmdIdx (s.que r.q).cmds r.head)
  | _, _ => s

/-- The island whose cycles a command's COMPLETE record counts (R406). -/
def State.cmdIsland (s : State) (p : Nat) (c : Cmd) : Island :=
  match c.engine with
  | 1 => .tile c.target
  | 2 => .tile c.target
  | 3 => .tile c.target
  | 4 => .base c.target
  | 5 => .link c.target
  | _ => s.frontIsland p

/-- Payload A of the BEGIN and COMPLETE records (R406). -/
def beginPayload (dq : Nat) (c : Cmd) : Nat := dq + c.opcode * 2 ^ 12 + c.engine * 2 ^ 20 + c.head.toNat * 2 ^ 32

/-- A ledger record of a command, in the ledger of the unit that runs it (R403). -/
def State.ledgerCmd (s : State) (p q : Nat) (c : Cmd) (typ a b : Nat) : State :=
  let w := s.whoOf p q c
  match c.engine with
  | 1 => s.ledgerTile c.target w typ 0x10 a b
  | 2 => s.ledgerTile c.target w typ 0x20 a b
  | 3 => s.ledgerTile c.target w typ 0x30 a b
  | 4 => s.ledgerStack c.target w typ 0x40 a b
  | e => s.ledgerPart p w typ (e * 16) a b

/-- A write at a translated address, where it lies in host memory (R336). -/
def State.hostWrAt (s : State) (p : Nat) (held : List PageMap) (va : Nat) : Option HostWr :=
  (s.heldAddr p held va).bind (fun a => if hostBase ≤ a then some ⟨s.fnOf p, a, va⟩ else none)

/-- A command completes (R83): COMPLETE record and CMD_DONE tally; it still awaits retirement. -/
def State.completeCmd (s : State) (r : CmdRef) : State :=
  match s.queOwner r.q, s.cmdAt r with
  | some (p, q), some c =>
    let now := s.cycle (islandCode (s.cmdIsland p c))
    let took := min (now - c.began).toNat 0xFFFFFFFF
    let host := c.wr.reverse.findSome? (fun x => s.hostWrAt p c.held (x.1 + x.2 - 1))
    let s := (s.updCmd r (fun c => { c with phase := .complete, held := [] })).noteHost r.q host
    let s := s.ledgerCmd p q c 0x02 (beginPayload (s.queNum r.q) c) took
    if 1 ≤ c.engine ∧ c.engine ≤ 3 then s.countTile c.target 0x0117 1 (s.whoOf p q c) else s
  | _, _ => s

/-- What a reference names completes: a command, or a stage of a chain, whose last stage completes the chain (R243). -/
def State.completeRef (s : State) (r : CmdRef) : State :=
  match r.stage with
  | none => s.completeCmd r
  | some _ =>
    let s := s.setStage r .complete
    match s.chainOf r with
    | some (t, ch) =>
      if ch.st.all (fun x => decide (x = .complete) || decide (x = .skipped)) then
        (s.setChain t ((s.chain t).filter (fun y => decide (y.ref ≠ ch.ref)))).completeCmd ch.ref
      else s
    | none => s

/-! ## Who may reach a block (R38, R442, R447) -/

/-- The partition whose unit a block belongs to, where it belongs to one (R35). -/
def State.blkPart (s : State) (b : BlkId) : Option Nat :=
  match b.kind with
  | .tile | .mxe | .vxe | .ste | .talTile | .ldgTile | .wch => s.partOfTile b.unit
  | .nme | .kvf | .talStack | .ldgStack => s.partOfStack b.unit
  | .lnk | .cle | .talLg => s.partOfLg b.unit
  | .kpr | .talKp => s.partOfKp b.unit
  | .ctx | .que | .rng | .ses | .pfx | .flt | .talPart => (s.cfgOf b.unit).map (·.num)
  | .pcx | .mgt | .sec | .otp | .pwr | .img | .talIo => none

def ioKind : BlkKind → Bool
  | .pcx | .mgt | .sec | .otp | .pwr | .img | .talIo => true
  | _ => false

/-- The partition a master belongs to: that of its function or keeper pair (R48). -/
def State.masterPart (s : State) (m : Master) : Option Nat :=
  match m with
  | .pf => s.partOfFn 0
  | .vf k => s.partOfFn (k.val + 1)
  | .kp p => s.partOfKp p.val
  | .mgmt => none

/-- Whether the unit behind a block is powered, so that the block answers (R24). -/
def State.blkOn (s : State) (b : BlkId) : Bool :=
  match b.kind with
  | .tile | .mxe | .vxe | .ste | .talTile | .ldgTile | .wch => s.domOn (domTile b.unit)
  | .nme | .kvf | .talStack | .ldgStack => s.domOn (domStack b.unit)
  | .lnk | .cle | .talLg => s.domOn (domLg b.unit)
  | .kpr | .talKp => s.domOn (domKp b.unit)
  | .ctx | .que | .rng | .ses | .pfx | .flt | .talPart => (s.cfgOf b.unit).isSome
  | .pcx => s.domOn domPcie
  | .mgt | .sec | .otp | .pwr | .img | .talIo => s.pwr.aux

/-- The blocks that the management port reaches while the main side is down (R450). -/
def portKind : BlkKind → Bool
  | .sec | .otp | .pwr | .img | .talIo => true
  | _ => false

/-- The boundary-scan instructions that hold chip start at step 4 and put the management port out of service (R482). -/
def State.startHeld (s : State) : Bool := decide (s.jtag = .extest) || decide (s.jtag = .highz) || decide (s.jtag = .clamp)

/-- Whether a master's access reaches a block: the physical function and the management port reach every block, a
virtual function and a keeper pair those of their own partition and its units (R38, R374, R441). The host and the management
port cross the hub (R23, R450); the port is out of service while boundary scan holds it (R482). -/
def State.reaches (s : State) (m : Master) (b : BlkId) : Bool :=
  s.blkOn b &&
  match m with
  | .pf => s.pcx.up && (ioKind b.kind || s.domOn domHub)
  | .mgmt => !s.startHeld && (portKind b.kind || s.domOn domHub)
  | .vf _ => s.domOn domHub && (s.masterPart m).isSome && decide (s.blkPart b = s.masterPart m)
  | .kp _ => (s.masterPart m).isSome && decide (s.blkPart b = s.masterPart m)

/-- Whether a master's PWR_DOM_CMD reaches the power controller: beside those that reach its block, a partition's function and
its keeper pairs (R472). -/
def State.domReach (s : State) (m : Master) : Bool :=
  s.reaches m ⟨.pwr, 0⟩ || s.pwr.aux && s.domOn domHub && (s.masterPart m).isSome && (match m with
    | .vf _ => s.pcx.up
    | .kp p => s.domOn (domKp p.val)
    | _ => false)

/-- The partition's function, its keeper pairs and the management port (R421). -/
def State.ownFnKpMgmt (s : State) (m : Master) (p : Nat) : Bool :=
  decide (m = .mgmt) || decide (s.masterPart m = some p)

/-- The physical function and the keeper pairs of partition `p` (R272, R323). -/
def State.pfOrKp (s : State) (m : Master) (p : Nat) : Bool :=
  match m with
  | .pf => true
  | .kp _ => decide (s.masterPart m = some p)
  | _ => false

/-- The partition's function and its keeper pairs (R268). -/
def State.fnOrKp (s : State) (m : Master) (p : Nat) : Bool := decide (m ≠ .mgmt) && decide (s.masterPart m = some p)

/-- The physical function and the management port (R401, R447). -/
def pfOrMgmt (m : Master) : Bool := decide (m = .pf) || decide (m = .mgmt)

/-! ## Reading memory in a context's space, outside a command's ranges -/

/-- The fold area of a tile, as scratchpad offsets, while FOLD_EN is 1 (R142). -/
def State.foldArea (s : State) (t : Nat) : Option (Nat × Nat) :=
  if s.cfg .mxe t 0x20 31 31 = 1 then some (s.cfg .mxe t 0x20 21 12 * 4096, 2359296) else none

/-- Whether [a, a+n) touches a fold area that belongs to a matrix engine (R142). -/
def State.inFold (s : State) (a n : Nat) : Bool :=
  match physAt a with
  | .scratch t =>
    (match s.foldArea t with
     | some (o, len) => decide (a < scratchBase t + o + len) && decide (scratchBase t + o < a + n)
     | none => false)
  | _ => false

/-- What stops an access to `n` bytes at a device physical address as it is performed: a stack or tile that is off (R24), or a
matrix engine's fold area (R142). -/
def State.accessBad (s : State) (a n : Nat) : Option Bad :=
  match physAt a with
  | .stack k => if s.domOn (domStack k) then none else some ⟨0x04, 0, 0, 1, a, 0x7F⟩
  | .scratch t =>
    if ¬ s.tileOn t then some ⟨0x04, 0, 0, 1, a, 0x7F⟩
    else if s.inFold a n then some ⟨0x03, 0, 0, 1, a, 0x7F⟩ else none
  | _ => none

/-- What stops an access of a begun command to [va, va + n), page by page, by the places it holds (R24, R142). -/
def State.heldBad (s : State) (p : Nat) (held : List PageMap) (va n : Nat) : Option Bad :=
  (List.range ((va % 65536 + n + 65535) / 65536)).findSome? (fun i =>
    let lo := if i = 0 then va else (va / 65536 + i) * 65536
    let hi := min (va + n) ((va / 65536 + i + 1) * 65536)
    (s.heldAddr p held lo).bind (fun a => s.accessBad a (hi - lo)))

/-- What stops a begun command's read of [va, va + n): its place, or a poisoned line (R24, R142, R259). -/
def State.heldStops (s : State) (p : Nat) (held : List PageMap) (va n : Nat) : Option Bad :=
  match s.heldBad p held va n with
  | some b => some b
  | none => if s.heldPoison p held va n then some ⟨0x07, 0, 0, 0, va, 0x7F⟩ else none

/-- Read `n` bytes within one page of a context's translated space at their point of coherence: translation, a unit
that is off, a poisoned line and a failed host read give their faults (R24, R88, R259, R265, R438). -/
def State.loadVa (s : State) (key p lc va n : Nat) : Except Bad (List Byte) × State :=
  match s.xlatePage key p lc va false with
  | (.error b, s) => (.error b, s)
  | (.ok m, s) =>
    let a := s.placeAddr p m.pa (va % 65536)
    match physAt a with
    | .host =>
      match s.hostRead (s.fnOf p) a n with
      | (some bs, s) => (.ok bs, s)
      | (none, s) => (.error ⟨0x07, 0, 0, 0, va, 0x7F⟩, s)
    | .stack k =>
      if ¬ s.stackUp k then (.error ⟨0x04, 0, 0, 1, a, 0x7F⟩, s)
      else if s.poisoned a n then (.error ⟨0x07, 0, 0, 1, a, 0x7F⟩, s)
      else (.ok (s.readBytes a n), s)
    | .scratch t =>
      if ¬ s.tileOn t then (.error ⟨0x04, 0, 0, 1, a, 0x7F⟩, s)
      else if s.inFold a n then (.error ⟨0x03, 0, 0, 1, a, 0x7F⟩, s)
      else (.ok (s.readBytes a n), s)
    | _ => (.error ⟨0x02, 0, 0, 1, a, 0x7F⟩, s)

/-- Store bytes that lie in one page of a context's translated space at their point of coherence: the write to host memory
that it was, if any, which carries Relaxed Ordering set (R336). -/
def State.storeVa (s : State) (key p lc va : Nat) (bs : List Byte) : Except Bad (Option HostWr) × State :=
  match s.xlatePage key p lc va true with
  | (.error b, s) => (.error b, s)
  | (.ok m, s) =>
    let a := s.placeAddr p m.pa (va % 65536)
    match physAt a with
    | .host =>
      if s.hostOk (s.fnOf p) then (.ok (some ⟨s.fnOf p, a, va⟩), s.hostWrite (s.fnOf p) a bs true)
      else (.error ⟨0x07, 0, 0, 0, va, 0x7F⟩, s.flag .pcx 0 0x14 (bit 30))
    | .stack k =>
      if s.stackUp k then (.ok none, s.writeBytes a bs) else (.error ⟨0x04, 0, 0, 1, a, 0x7F⟩, s)
    | .scratch t =>
      if ¬ s.tileOn t then (.error ⟨0x04, 0, 0, 1, a, 0x7F⟩, s)
      else if s.inFold a bs.length then (.error ⟨0x03, 0, 0, 1, a, 0x7F⟩, s)
      else (.ok none, s.writeBytes a bs)
    | _ => (.error ⟨0x02, 0, 0, 1, a, 0x7F⟩, s)

/-! ## Doorbells (R73) -/

/-- The queue a doorbell names (R73, R444): QUE_DB of a partition, the local queue of a virtual function's slot, the
device queue of the physical function's slot. -/
def State.dbQueue (s : State) : DbPath → Option (Nat × Nat)
  | .queDb m p q => if s.reaches m ⟨.que, p.val⟩ ∧ q < s.queQuota p.val then some (p.val, q) else none
  | .bar4 fn slot =>
    if ¬ (s.pcx.up ∧ (s.func fn.val).present ∧ s.domOn domHub) then none
    else if fn.val = 0 then s.queByNum slot
    else
      match s.partOfFn fn.val with
      | some p => if slot < s.queQuota p then some (p, slot) else none
      | none => none
  | .bar4Other _ _ | .bar4Read _ _ => none

/-! ## Fetching (R74, R75, R179) -/

/-- How a coded LOADW is matched to a generation at its fetch (R179). -/
def State.bookMatch (s : State) (c : Cmd) : BookMatch :=
  if c.engine = 1 ∧ c.opcode = 0x01 ∧ bitsOf (c.word 6) 52 48 = 0x0C then
    let b := SMap.get .reset (s.mxe c.target).books (bitsOf (c.word 6) 55 53)
    let gen := BitVec.ofNat 8 (bitsOf (c.word 6) 63 56)
    if b.pend = some gen then .pending
    else if b.live = some gen ∧ ¬ b.retiring then .live
    else .stale
  else .none

/-- A command as it is fetched. -/
def mkCmd (head : W32) (words : List W64) : Cmd :=
  { head := head, words := words, phase := .fetched, waits := [false, false, false, false], regd := false
    book := .none, held := [], rd := [], wr := [], noRel := false, began := 0 }

/-- Take one fetched record into the queue: a command is whole once it has 1 + EXT records (R75). -/
def State.takeRecord (s : State) (p q : Nat) (bs : List Byte) : State :=
  let x := s.q p q
  let ws := (List.range 8).map (fun i => BitVec.ofNat 64 (leNat ((bs.drop (8 * i)).take 8)))
  let recs := x.recs ++ [ws]
  let ext := bitsOf (((recs.getD 0 []).getD 0 0).toNat) 63 60
  let head := x.head + 1
  let w : Who := ⟨bitsOf ((recs.getD 0 []).getD 0 0).toNat 31 16, bitsOf ((recs.getD 0 []).getD 0 0).toNat 47 32,
    s.qDevCtx p q, false⟩
  let s :=
    if recs.length = 1 + ext then
      let c := mkCmd (head - BitVec.ofNat 32 recs.length) recs.flatten
      let c := { c with book := s.bookMatch c }
      s.setQ p q { x with head := head, recs := [], cmds := x.cmds ++ [c] }
    else s.setQ p q { x with head := head, recs := recs }
  s.countPart p 0x0500 1 w

/-- Fetch up to `n` records; a failed fetch raises its fault on the owning context and halts the queue (R259). -/
def State.fetchRecs (s : State) (p q : Nat) : Nat → State
  | 0 => s
  | n + 1 =>
    let x := s.q p q
    if x.head = x.tail ∨ (x.recs = [] ∧ 32 ≤ x.cmds.length) then s
    else
      let va := s.qBase p q + 64 * (x.head.toNat % s.qSize p q)
      match s.loadVa (tlbPart p) p (s.qCtx p q) va 64 with
      | (.ok bs, s) => (s.takeRecord p q bs).fetchRecs p q n
      | (.error b, s) => (s.raise p (s.queFault p q b)).haltAt p q x.cmds.length

/-- A pending snapshot clears the queue's ENABLE: fetching stops at once (R72). -/
def State.clearing (s : State) (p q : Nat) : Bool :=
  let r := s.blk ⟨.que, p⟩
  decide (1 + q ∈ r.pend) && !(snapWord .que r (0x8004 + 16 * q)).getLsbD 31

/-- Whether a queue may fetch: enabled, not halted or draining, and its partition has a home (R69, R72, R238). -/
def State.mayFetch (s : State) (p q : Nat) : Bool :=
  !s.clearing p q &&
  decide (q < s.queQuota p) && s.qEnabled p q && !(s.q p q).halted && !(s.q p q).draining && (s.homeOf p).isSome

/-- QUEUE_FETCH (R74): up to 8 records below TAIL, in one read. Not due while the queue may not fetch. -/
def execQueueFetch (p : Fin 8) (q : Fin 2048) (n : Fin 9) (s : State) : Result :=
  .next (if s.mayFetch p.val q.val then s.fetchRecs p.val q.val n.val else s)

/-! ## CREATE (R64, R66, R67) -/

/-- RESULT of CTX_CMD. -/
def State.ctxResult (s : State) (p : Nat) (r : Byte) : State := s.setPart p { s.part p with cmdRes := r }

/-- The part of CTX_CMD that its three operations share: who reaches it, STATE for a context that reads RESETTING (R432), BUSY
and RANGE (R66). `f` runs on the context's device number. -/
def State.ctxCmd (s : State) (m : Master) (p c : Nat) (f : Nat → State) : State :=
  if ¬ (s.reaches m ⟨.ctx, p⟩ ∧ (s.cfgOf p).isSome) then s
  else if c < s.ctxQuota p ∧ (s.ctx (s.devCtx p c)).st = .resetting then s.ctxResult p 0x01
  else if (s.part p).cmdFor.isSome then s.ctxResult p 0x03
  else if s.ctxQuota p ≤ c then s.ctxResult p 0x02
  else f (s.devCtx p c)

/-- Copy the staged words of a context's group into its committed words, as a commit would (R67). -/
def State.applyCtxStaged (s : State) (p c : Nat) : State :=
  [0, 4, 8, 12].foldl (fun s i =>
    let off := 0x2000 + 32 * c + i
    s.setComm .ctx p off (stagedWord .ctx (s.blk ⟨.ctx, p⟩) off)) s

/-- CTX_CREATE (R67): requires FREE; staged set applied, GEN counts on, cached translations dropped, STATE ACTIVE. -/
def execCtxCreate (m : Master) (p : Fin 8) (c : BitVec 8) (s : State) : Result :=
  .next (s.ctxCmd m p.val c.toNat (fun dc =>
    if (s.ctx dc).st = .free then
      let s := s.applyCtxStaged p.val c.toNat
      let s := s.dropCtx dc
      let s := s.setCtx dc ⟨.active, (s.ctx dc).gen + 1⟩
      s.ctxResult p.val 0x00
    else s.ctxResult p.val 0x01))

end Sys2Proof.Machine
end

