-- ==== Sys2Proof/Machine/Marks.lean ====
section
/-!
DEFINITION. Marks (R85–R88), scopes and parties (R328–R333), atomics (R339, R340), the queue-local commands (R81),
retirement (R83) and the end of draining (R72, R129).
-/
namespace Sys2Proof.Machine

/-! ## Parties and instances (R328, R329). A party is named by a block of its unit; `pcx` stands for the host and for
link peers. -/

/-- The party of a command (R328); of a session record, the keeper pair that consumes it. -/
def State.cmdParty (s : State) (p : Nat) (c : Cmd) : BlkId :=
  match c.engine with
  | 1 => ⟨.tile, c.target⟩
  | 2 => ⟨.tile, c.target⟩
  | 3 => ⟨.tile, c.target⟩
  | 4 => ⟨.nme, c.target⟩
  | 5 => ⟨.lnk, c.target⟩
  | 6 => ((s.leadOf p).map (fun k => (⟨.kpr, k⟩ : BlkId))).getD ⟨.ctx, p⟩
  | _ => ⟨.ctx, p⟩

/-- The home base die's number for a front end, the stack for a base die. -/
def State.partyStack (s : State) (a : BlkId) : Option Nat :=
  match a.kind with
  | .nme => some a.unit
  | .ctx => s.homeOf a.unit
  | _ => none

def State.partyQuad (s : State) (a : BlkId) : Option Nat :=
  match a.kind with
  | .tile => some (quadOfTile a.unit)
  | _ => s.partyStack a

def State.partyHalf (s : State) (a : BlkId) : Option Nat :=
  match a.kind with
  | .tile => some (a.unit / 24)
  | .kpr => some (a.unit / 4)
  | .lnk => some (a.unit / 3)
  | _ => (s.partyStack a).map (· / 6)

def State.partyPart (s : State) (a : BlkId) : Option Nat :=
  match a.kind with
  | .ctx => some a.unit
  | _ => s.blkPart a

/-- Whether two parties lie in one instance of a level (R329). -/
def State.oneInstance (s : State) (level : Nat) (a b : BlkId) : Bool :=
  if a = b then true
  else if a.kind = .pcx ∨ b.kind = .pcx then decide (5 ≤ level)
  else match level with
    | 0 => (s.partyStack a).isSome && decide (s.partyStack a = s.partyStack b)
    | 1 => (s.partyQuad a).isSome && decide (s.partyQuad a = s.partyQuad b)
    | 2 => (s.partyHalf a).isSome && decide (s.partyHalf a = s.partyHalf b)
    | 3 => (s.partyPart a).isSome && decide (s.partyPart a = s.partyPart b)
    | _ => true

/-! ## Where a mark lies (R65, R88) -/

/-- The translated address of mark `i` of a local context. -/
def State.markVa (s : State) (p lc i : Nat) : Nat :=
  s.cfg .ctx p (0x2008 + 32 * lc) 31 12 * 4096 + s.cfg .ctx p (0x200C + 32 * lc) 15 0 * 2 ^ 32 + 8 * i

def State.markLast (s : State) (p lc : Nat) : Nat := s.cfg .ctx p (0x200C + 32 * lc) 31 16

/-- The physical address of a mark, translated through the partition front end's TLB; `wr` for a release. -/
def State.markPhys (s : State) (p lc i : Nat) (wr : Bool) : Except Bad Nat × State :=
  let va := s.markVa p lc i
  match s.xlatePage (tlbPart p) p lc va wr with
  | (.error b, s) => (.error b, s)
  | (.ok m, s) => (.ok (s.placeAddr p m.pa (va % 65536)), s)

/-- The value of a mark on the device: memory error for a poisoned line, unit-off for a unit that is off, protection for
the matrix engine's fold area (R142). -/
def State.markValue (s : State) (a : Nat) : Except Bad Nat :=
  match physAt a with
  | .stack k =>
    if ¬ s.stackUp k then .error ⟨0x04, 0, 0, 1, a, 0x7F⟩
    else if s.poisoned a 8 then .error ⟨0x07, 0, 0, 1, a, 0x7F⟩
    else .ok (s.readLe a 8)
  | .scratch t =>
    if ¬ s.tileOn t then .error ⟨0x04, 0, 0, 1, a, 0x7F⟩
    else if s.inFold a 8 then .error ⟨0x03, 0, 0, 1, a, 0x7F⟩
    else .ok (s.readLe a 8)
  | _ => .error ⟨0x02, 0, 0, 1, a, 0x7F⟩

/-! ## Waits (R79, R86) -/

/-- The oldest command of a queue that has not begun. -/
def oldestUnbegun (x : Que) : Option Nat :=
  let i := x.cmds.findIdx (fun c => decide (c.phase = .fetched))
  if i < x.cmds.length then some i else none

/-- Whether wait `w` of a command is satisfied or not performed. -/
def Cmd.waitMet (c : Cmd) (w : Nat) : Bool := decide (waitValue (c.word (1 + w)) = 0) || c.waits.getD w false
def Cmd.allMet (c : Cmd) : Bool := c.waitMet 0 && c.waitMet 1 && c.waitMet 2 && c.waitMet 3

/-- The command of a queue whose waits may be outstanding: the first that has not begun with a wait that is not satisfied
(R82). -/
def waitingIdx (x : Que) : Option Nat :=
  let i := x.cmds.findIdx (fun c => decide (c.phase = .fetched) && !c.allMet)
  if i < x.cmds.length then some i else none

/-- Replace command `i` of a queue. -/
def State.setCmd (s : State) (p q i : Nat) (c : Cmd) : State :=
  let x := s.q p q
  s.setQ p q { x with cmds := x.cmds.set i c }

/-- A wait is satisfied (R86): it stays satisfied; WAIT_MET is recorded and counted. -/
def State.meetWait (s : State) (p q i w : Nat) : State :=
  match (s.q p q).cmds[i]? with
  | none => s
  | some c =>
    let s := s.setCmd p q i { c with waits := c.waits.set w true }
    let s := s.ledgerCmd p q c 0x03 (c.word (1 + w)) (s.queNum (s.devQue p q))
    s.countPart p 0x0502 1 (s.whoOf p q c)

/-- A wait or release of a command fails: its fault, and the queue halts at the command (R88). -/
def State.failWait (s : State) (p q i : Nat) (b : Bad) : State :=
  match (s.q p q).cmds[i]? with
  | none => s
  | some c => (s.raise p (s.cmdFault p q c b 4 p 0)).haltAt p q i

/-- Compare wait `w` of command `i` with the mark at its home: satisfied when the mark is at least VALUE. A mark in
host memory has no notifying home: it is polled. -/
def State.tryWait (s : State) (p q i w : Nat) : State :=
  match (s.q p q).cmds[i]? with
  | none => s
  | some c =>
    if c.phase ≠ .fetched ∨ c.waitMet w then s
    else
      let wd := c.word (1 + w)
      match s.markPhys p (s.qCtx p q) (waitMark wd) false with
      | (.error b, s) => s.failWait p q i b
      | (.ok a, s) =>
        if hostBase ≤ a then s
        else match s.markValue a with
          | .error b => s.failWait p q i b
          | .ok v => if waitValue wd ≤ v then s.meetWait p q i w else s

/-- Register the waits of command `i` at their homes (R86): each is compared at once. -/
def State.registerWaits (s : State) (p q i : Nat) : State :=
  match (s.q p q).cmds[i]? with
  | none => s
  | some c =>
    if c.regd then s
    else [0, 1, 2, 3].foldl (fun s w => s.tryWait p q i w) (s.setCmd p q i { c with regd := true })

/-- MARK_NOTIFY (R86): the home notifies the waiting queue of an update; wait `w` is compared again. -/
def execMarkNotify (p : Fin 8) (q : Fin 2048) (w : Fin 4) (s : State) : Result :=
  .next (match waitingIdx (s.q p.val q.val) with
    | some i =>
      match (s.q p.val q.val).cmds[i]? with
      | some c => if c.regd then s.tryWait p.val q.val i w.val else s
      | none => s
    | none => s)

/-- A volatile read of a host-memory mark that wait `w` polls returned `v`, or failed (R86, R438). -/
def State.pollMark (s : State) (p q w : Nat) (v : Option W64) : State :=
  match waitingIdx (s.q p q) with
  | none => s
  | some i =>
    match (s.q p q).cmds[i]? with
    | none => s
    | some c =>
      if ¬ c.regd ∨ c.waitMet w then s
      else
        let wd := c.word (1 + w)
        match s.markPhys p (s.qCtx p q) (waitMark wd) false with
        | (.error b, s) => s.failWait p q i b
        | (.ok a, s) =>
          if a < hostBase then s
          else match (if s.hostOk (s.fnOf p) then v else none) with
            | some v =>
              let s := s.hostAsk (s.fnOf p) a 8
              if waitValue wd ≤ v.toNat then s.meetWait p q i w else s
            | none =>
              (s.flag .pcx 0 0x14 (bit 30)).failWait p q i ⟨0x07, 0, 0, 0, s.markVa p (s.qCtx p q) (waitMark wd), 0x7F⟩

/-- MARK_POLL (R86). -/
def execMarkPoll (p : Fin 8) (q : Fin 2048) (w : Fin 4) (v : Option W64) (s : State) : Result :=
  .next (s.pollMark p.val q.val w.val v)

/-! ## Releases at their homes (R85, R330, R332) -/

/-- Waits that are registered and outstanding on a mark: partition, queue, party and wait word of each. -/
def State.outstanding (s : State) (a : Nat) : List (Nat × Nat × BlkId × Nat) :=
  (s.partsOf).flatMap (fun g =>
    (s.ques.filter (fun e => decide (e.1 / 2048 = g.num ∧ e.1 % 2048 < g.queQuota))).flatMap (fun e =>
      let q := e.1 % 2048
      match waitingIdx e.2 with
      | none => []
      | some i =>
        match e.2.cmds[i]? with
        | none => []
        | some c =>
          if ¬ c.regd then []
          else ([0, 1, 2, 3].filter (fun w => !c.waitMet w)).filterMap (fun w =>
            let wd := c.word (1 + w)
            match (s.markPhys g.num (s.qCtx g.num q) (waitMark wd) false).1 with
            | .ok x => if x = a then some (g.num, q, s.cmdParty g.num c, wd) else none
            | .error _ => none)))

/-- Pairs of an update of a mark from `old` to `new`, a release of this party and scope, and an outstanding wait that it
satisfies without an ordering between them (R332). -/
def State.mismatches (s : State) (a scope : Nat) (party : BlkId) (old new : Nat) : Nat :=
  ((s.outstanding a).filter (fun o =>
    decide (old < waitValue o.2.2.2) && decide (waitValue o.2.2.2 ≤ new)
      && !(s.oneInstance (min scope (waitScope o.2.2.2)) party o.2.2.1))).length

/-- Count the mismatches in the tally of the mark's home (R332). -/
def State.countMismatch (s : State) (a n : Nat) : State :=
  match physAt a with
  | .scratch t => s.countTile t 0x0113 n nobody
  | .stack k => s.countStack k 0x020F n nobody
  | _ => s

/-- The marks that bytes [a, a + n) touch. -/
def marksIn (a n : Nat) : List Nat := (List.range ((a + n + 7) / 8 - a / 8)).map (fun i => (a / 8 + i) * 8)

/-- An update of device bytes by a party that acts as a release at SC_SYS (R335, R337): `s'` is the state after the
update, in which the mismatches of the marks it touches are counted. -/
def State.markUpdate (s : State) (a n : Nat) (party : BlkId) (s' : State) : State :=
  (marksIn a n).foldl (fun t x => t.countMismatch x (s.mismatches x 5 party (s.readLe x 8) (s'.readLe x 8))) s'

/-- The host as a party (R328). -/
def hostParty : BlkId := ⟨.pcx, 0⟩

/-! ## Posted writes and doorbells of the host (R73, R335) -/

/-- A posted write of the host is performed at its point of coherence (R326); a unit that is off performs nothing (R24),
nor does the matrix engine's fold area (R142), and over the hub only (R23). With Relaxed Ordering clear it is a release of the
marks it updates (R335). -/
def State.performPosted (s : State) (a : Nat) (bs : List Byte) (relaxed : Bool) : State :=
  let s := s.countIo 0x0602 bs.length
  if ¬ s.domOn domHub then s
  else
  let u := match physAt a with
    | .stack k => if s.stackUp k then s.writeBytes a bs else s
    | .scratch t => if s.tileOn t ∧ ¬ s.inFold a bs.length then s.writeBytes a bs else s
    | _ => s
  if relaxed then u else s.markUpdate a bs.length hostParty u

/-- Every posted write of a function is performed, in order (R335). -/
def State.flushPosted (s : State) (fn : Nat) : State :=
  let f := s.func fn
  if f.posted = [] then s
  else (f.posted.foldl (fun s w => s.performPosted w.1 w.2.1 w.2.2) s).setFunc fn { f with posted := [] }

/-- The function that rings a doorbell, where one does. -/
def dbFn : DbPath → Option Nat
  | .queDb .pf _ _ => some 0
  | .queDb (.vf k) _ _ => some (k.val + 1)
  | .queDb _ _ _ => none
  | .bar4 fn _ | .bar4Other fn _ | .bar4Read fn _ => some fn.val

/-- A read of BAR4 answers zero (R73); over the hub like every access to a half (R23). -/
def State.dbRead (s : State) : DbPath → State
  | .bar4Read fn _ =>
    if s.pcx.up ∧ (s.func fn.val).present then s.emit (.completion fn.val true [0, 0, 0, 0]) else s
  | _ => s

/-- A doorbell value at a queue of partition `p`. -/
def State.ring_ (s : State) (p q : Nat) (v : W32) : State :=
  let x := s.q p q
  if ¬ s.qEnabled p q ∨ x.draining then s.flag .que p (0x4000 + 4 * q) (bit 27)
  else if 2 ^ 31 ≤ (v - x.tail).toNat then
    (s.flag .que p (0x4000 + 4 * q) (bit 28)).countPart p 0x0503 1 nobody
  else if s.qSize p q < (v - x.head).toNat then
    s.raise p (s.queFault p q ⟨0x05, 0, v.toNat, 2, 0, 0x7F⟩)
  else
    let wasIdle := decide (x.head = x.tail) && !(((oldestUnbegun x).bind (fun i => x.cmds[i]?)).any (fun c => !c.allMet))
    let s := s.setQ p q { x with tail := v }
    if wasIdle ∧ v ≠ x.head then s.progressRestart p q else s

/-- What an access to a doorbell does (R73). A slot or register with no queue behind it, and a word of a slot's stride beside
the doorbell, ignore the write and read zero. -/
def State.doorbell (s : State) (path : DbPath) (v : W32) : State :=
  match s.dbQueue path with
  | some (p, q) => s.ring_ p q v
  | none => s.dbRead path

/-- Bytes that the host writes with an access to a doorbell (R395). -/
def dbBytes : DbPath → Nat
  | .bar4Read _ _ => 0
  | p => if (dbFn p).isSome then 4 else 0

/-- DOORBELL (R73). Earlier posted writes of the function are performed first (R335). -/
def execDoorbell (path : DbPath) (v : W32) (s : State) : Result :=
  .next (
    let s : State := match dbFn path with
      | some fn => (s.countIo 0x0602 (dbBytes path)).flushPosted fn
      | none => s
    s.doorbell path v)

/-! ## Retirement (R83) -/

/-- The command that may retire or start its release next: the oldest whose release is neither on its way nor faulted (R83,
R88). Every command before it has completed. -/
def retireIdx (cs : List Cmd) : Nat :=
  cs.findIdx (fun c => decide (c.phase ≠ .stuck) && decide (c.phase ≠ .releasing))

/-- Retire command `i` of a queue: RETIRED tally, progress clock, and the vector of IRQ unless its release was
withheld (R83, R336, R422). -/
def State.retireAt (s : State) (p q i : Nat) (irq : Bool) : State :=
  let x := s.q p q
  match x.cmds[i]? with
  | none => s
  | some c =>
    let s := (s.setQ p q { x with cmds := x.cmds.eraseIdx i }).countPart p 0x0501 1 (s.whoOf p q c)
    let s := s.progressRestart p q
    if irq ∧ c.irq then s.msix (s.fnOf p) (s.qVec p q) else s

/-- A release was performed: RELEASE record, and its command retires with its IRQ (R83). -/
def State.releaseDone (s : State) (r : Release) : State :=
  match r.cmd with
  | none => s
  | some (dq, h) =>
    match s.queOwner dq, s.cmdAt ⟨dq, h, none⟩ with
    | some (p, q), some c =>
      if c.phase = .releasing then
        (s.ledgerCmd p q c 0x04 (c.word 5) (s.queNum dq)).retireAt p q (cmdIdx (s.que dq).cmds h) true
      else s
    | _, _ => s

/-- A queue that a faulted release halts: no further command begins; begun ones go on and perform their releases, as no command
of the queue fails to complete (R83, R88). -/
def State.haltQuiet (s : State) (p q : Nat) : State :=
  let x := s.q p q
  (s.setQ p q { x with
    halted := true, recs := [], cmds := x.cmds.map (fun d => if d.phase = .fetched then { d with phase := .lost } else d) }).stopTimer
      (.progress (s.devQue p q))

/-- A faulted release leaves its command completed but not retired, and its queue HALTED (R88). -/
def State.releaseFails (s : State) (r : Release) (b : Bad) : State :=
  match r.cmd with
  | none => s
  | some (dq, h) =>
    match s.queOwner dq, s.cmdAt ⟨dq, h, none⟩ with
    | some (p, q), some c =>
      let s := s.raise p (s.cmdFault p q c b 4 p 0)
      (s.haltQuiet p q).updCmd ⟨dq, h, none⟩ (fun c => { c with phase := .stuck })
    | _, _ => s

/-- The memory-error fault of a release whose mark in host memory cannot be reached: it names the mark's translated address
(R438). -/
def State.relHostBad (s : State) (r : Release) : Bad :=
  ⟨0x07, 0, 0, 0,
    match r.cmd with
    | some (dq, h) =>
      (match s.queOwner dq, s.cmdAt ⟨dq, h, none⟩ with
       | some (p, q), some c => s.markVa p (s.qCtx p q) (waitMark (c.word 5))
       | _, _ => r.addr)
    | none => r.addr, 0x7F⟩

/-- Perform mark := max(mark, VALUE) at a home on the device (R85). -/
def State.markMax (s : State) (r : Release) : State :=
  match s.markValue r.addr with
  | .error b => s.releaseFails r b
  | .ok old =>
    let new := max old r.value
    let n := s.mismatches r.addr r.scope r.party old new
    let s := s.writeLe r.addr 8 new
    (s.countMismatch r.addr n).releaseDone r

/-- MARK_RELEASE_AT_HOME (R85): release `k` of those on their way arrives. A mark in host memory is reached through
PCI Express, by the compare-and-swap loop of R340; with AtomicOps not enabled it raises a protection fault. -/
def execMarkReleaseAtHome (k : Nat) (s : State) : Result :=
  .next (match s.rels[k]? with
    | none => s
    | some r =>
      let s := { s with rels := s.rels.eraseIdx k }
      if hostBase ≤ r.addr then
        let fn := match r.cmd with
          | some (dq, _) => (s.queOwner dq).elim 0 (fun x => s.fnOf x.1)
          | none => (s.blkPart r.party).elim 0 s.fnOf
        if ¬ (s.func fn).atomicEn then s.releaseFails r ⟨0x03, 0, 0, 1, r.addr, 0x7F⟩
        else if ¬ s.hostOk fn then (s.flag .pcx 0 0x14 (bit 30)).releaseFails r (s.relHostBad r)
        else { s with pcx := { s.pcx with reqs := s.pcx.reqs ++ [.release r] } }
      else s.markMax r)

/-! ## Retirement (R83) -/

/-- The flush of R336 before a release at SC_SYS on a device mark that covers host writes: one zero-length read under each
function. A failed one is answered with its write. -/
def State.relFlush (s : State) (p q scope a : Nat) : Option HostWr × State :=
  if scope = 5 ∧ a < hostBase then s.flushReads (s.q p q).hostWr else (none, s)

/-- Start the release of a completed command, or retire it where it has none to perform (R83). It is not performed where a
read that flushes covered host writes fails (R438). -/
def State.retireComplete (s : State) (p q i : Nat) (c : Cmd) : State :=
  if waitValue (c.word 5) = 0 ∨ c.noRel then s.retireAt p q i (!c.noRel)
  else
    let wd := c.word 5
    let ref := some (s.devQue p q, c.head)
    match s.markPhys p (s.qCtx p q) (waitMark wd) true with
    | (.error b, s) => s.releaseFails ⟨0, 0, 0, s.cmdParty p c, ref⟩ b
    | (.ok a, s) =>
      let r : Release := ⟨a, waitValue wd, waitScope wd, s.cmdParty p c, ref⟩
      match s.relFlush p q (waitScope wd) a with
      | (some w, s) => s.releaseFails r ⟨0x07, 0, 0, 0, w.va, 0x7F⟩
      | (none, s) =>
        let s := s.setCmd p q i { c with phase := .releasing }
        { s with rels := s.rels ++ [r] }

/-- COMMAND_RETIRE (R83): the oldest command, complete with every earlier one, performs its release or retires. A lost
command leaves the queue silently, once no stage of it runs, and the commands behind it retire without their releases. DESIGN
CHOICE (notes/assumptions/26.md): INFLIGHT counts it until it leaves so. -/
def execCommandRetire (p : Fin 8) (q : Fin 2048) (s : State) : Result :=
  .next (
    let x := s.q p.val q.val
    let i := retireIdx x.cmds
    match x.cmds[i]? with
    | none => s
    | some c =>
      match c.phase with
      | .lost =>
        if (s.chainOf ⟨s.devQue p.val q.val, c.head, none⟩).isSome then s
        else s.setQ p.val q.val { x with cmds := x.cmds.take i ++ (x.cmds.drop (i + 1)).map (fun d => { d with noRel := true }) }
      | .complete => s.retireComplete p.val q.val i c
      | _ => s)

/-! ## The queue-local commands (R81) -/

/-- The oldest begun queue-local command with an opcode. -/
def localCmd (x : Que) (op : Nat) : Option Cmd :=
  x.cmds.find? (fun c => decide (c.phase = .begun) && decide (c.engine = 0) && decide (c.opcode = op))

/-- Run `f` on the begun queue-local command with this opcode. -/
def State.withLocal (s : State) (p q op : Nat) (f : Cmd → CmdRef → State) : State :=
  match localCmd (s.q p q) op with
  | none => s
  | some c => f c ⟨s.devQue p q, c.head, none⟩

/-- NOP (R81): no action; it completes. -/
def execNop (p : Fin 8) (q : Fin 2048) (s : State) : Result :=
  .next (s.withLocal p.val q.val 0x00 (fun _ r => s.completeRef r))

/-- WRITE_IMM (R81): W7 is written to the address in W6; a unit that has gone off since, or a fold area, stops it (R24, R142). -/
def execWriteImm (p : Fin 8) (q : Fin 2048) (s : State) : Result :=
  .next (s.withLocal p.val q.val 0x01 (fun c r =>
    match s.heldBad p.val c.held (bitsOf (c.word 6) 47 0) 8 with
    | some b => s.failRef r b 4 p.val 0
    | none => (s.heldWrite p.val c.held (bitsOf (c.word 6) 47 0) (leBytes 8 (c.word 7))).completeRef r))

/-! ## Atomics (R339, R340) -/

/-- The value an operation leaves, from the old value, modulo 2^(8 × bytes). -/
def atomNew (op : AtomOp) (bytes old v : Nat) : Nat :=
  let m := 2 ^ (8 * bytes)
  match op with
  | .add => (old + v) % m
  | .maxU => max old (v % m)
  | .minU => min old (v % m)
  | .and => old &&& (v % m)
  | .or => old ||| (v % m)
  | .xor => old ^^^ (v % m)
  | .swap => v % m
  | .cas e => if old = e % m then v % m else old

/-- The widths and operations of R339: 128 bits only for CAS; natural alignment. -/
def atomOk (op : AtomOp) (bytes addr : Nat) : Bool :=
  (decide (bytes = 4) || decide (bytes = 8) || (decide (bytes = 16) && (match op with | .cas _ => true | _ => false)))
    && decide (addr % bytes = 0)

/-- Operations that PCI Express provides at the host: FetchAdd and Swap at 32 and 64 bits, CAS (R339). -/
def hostHas (op : AtomOp) : Bool :=
  match op with
  | .add => true
  | .swap => true
  | .cas _ => true
  | _ => false

/-- An atomic at a home on the device: the value fetched, and the state after it. -/
def State.atomicDev (s : State) (addr : Nat) (op : AtomOp) (bytes v : Nat) : Nat × State :=
  let old := s.readLe addr bytes
  (old, s.writeLe addr bytes (atomNew op bytes old v))

/-- MARK_ADD (R81, R87): W7 is added to the mark atomically at its home, modulo 2^64; at the host by FetchAdd. -/
def execMarkAdd (p : Fin 8) (q : Fin 2048) (s : State) : Result :=
  .next (s.withLocal p.val q.val 0x02 (fun c r =>
    match s.markPhys p.val (s.qCtx p.val q.val) (bitsOf (c.word 6) 15 0) true with
    | (.error b, s) => s.failRef r b 4 p.val 0
    | (.ok a, s) =>
      if hostBase ≤ a then
        let fn := s.fnOf p.val
        if ¬ (s.func fn).atomicEn then s.failRef r ⟨0x03, 0, 0, 1, a, 0x7F⟩ 4 p.val 0
        else if ¬ s.hostOk fn then
          (s.flag .pcx 0 0x14 (bit 30)).failRef r
            ⟨0x07, 0, 0, 0, s.markVa p.val (s.qCtx p.val q.val) (bitsOf (c.word 6) 15 0), 0x7F⟩ 4 p.val 0
        else
          let at_ := s.carry fn a
          (at_.2.emit (.hostAtomic fn at_.1 .add 8 (c.word 7))).completeRef r
      else match s.markValue a with
        | .error b => s.failRef r b 4 p.val 0
        | .ok _ => ((s.atomicDev a .add 8 (c.word 7)).2).completeRef r))

/-! ## The end of draining (R72, R129) -/

/-- A weight buffer or slot that queue `dq` claims is cleared (R129). -/
def WBuf.release (b : WBuf) (dq : Nat) : WBuf := if b.claim = some dq then .reset else b
def Slot.release (b : Slot) (dq : Nat) : Slot := if b.claim = some dq then .reset else b

/-- What queue `dq` claims is cleared. DESIGN CHOICE (notes/assumptions/107.md): of a claim taken under COMP, only the slots that
the queue still claims. -/
def Mxe.release (m : Mxe) (dq : Nat) : Mxe :=
  { m with act := m.act.release dq, shd := m.shd.release dq, slot0 := m.slot0.release dq, slot1 := m.slot1.release dq }

/-- In every tile, the buffers the queue claims become EMPTY and the slots it claims zero (R129). -/
def State.releaseClaims (s : State) (dq : Nat) : State :=
  s.mxes.foldl (fun s e => s.setMxe e.1 (e.2.release dq)) s

/-- QUEUE_DRAIN_END (R72): once the last command of a DRAINING queue has retired, its claims are released and the
queue reads DISABLED. -/
def execQueueDrainEnd (p : Fin 8) (q : Fin 2048) (s : State) : Result :=
  .next (
    let x := s.q p.val q.val
    if x.draining ∧ x.cmds.all (fun c => decide (c.phase = .stuck)) then
      let s := s.releaseClaims (s.devQue p.val q.val)
      (s.setQ p.val q.val { x with draining := false, halted := false, recs := [], cmds := [] }).stopTimer
        (.progress (s.devQue p.val q.val))
    else s)

end Sys2Proof.Machine
end

