-- ==== Sys2Proof/Machine/Checks.lean ====
section
/-!
DEFINITION. What the check of a command answers (R80, R82, R127, R266): the ranges it names, its read and write sets,
or the fault that stops it; and the checks that every tile command shares.
-/
namespace Sys2Proof.Machine

/-- A range that a command names: its addresses, whether it is written, where a fault of its placement points (R490:
the command word, with the index in a structure in memory or 0xFFFF above it), and the tile whose scratchpad it must
lie in, if the engine's chapter requires one. -/
structure PRange where
  va   : Nat
  n    : Nat
  wr   : Bool
  at_  : Nat
  tile : Option Nat
  deriving DecidableEq, Repr

/-- A checked command: the ranges to translate and its read and write sets (R82). -/
structure Plan where
  ranges : List PRange
  rd     : List (Nat × Nat)
  wr     : List (Nat × Nat)
  deriving DecidableEq, Repr

def Plan.none : Plan := ⟨[], [], []⟩

/-- The plan of a list of ranges: read ranges make the read set, written ones the write set. -/
def planOf (rs : List PRange) : Plan :=
  ⟨rs, (rs.filter (fun r => !r.wr)).map (fun r => (r.va, r.n)), (rs.filter (·.wr)).map (fun r => (r.va, r.n))⟩

/-- Two intervals meet at 64-byte granularity (R82). -/
def meets (a b : Nat × Nat) : Bool :=
  decide (0 < a.2) && decide (0 < b.2) && decide (a.1 / 64 ≤ (b.1 + b.2 - 1) / 64)
    && decide (b.1 / 64 ≤ (a.1 + a.2 - 1) / 64)

/-- Two commands conflict when the write set of either meets the read or write set of the other (R82). -/
def conflicts (rd wr rd' wr' : List (Nat × Nat)) : Bool :=
  wr.any (fun a => (rd' ++ wr').any (meets a)) || wr'.any (fun a => (rd ++ wr).any (meets a))

/-- The first failing condition of a list of (fails, fault). -/
def firstBad : List (Bool × Bad) → Option Bad
  | [] => none
  | (true, b) :: _ => some b
  | (false, _) :: cs => firstBad cs

/-- Check conditions in order, then answer the plan. -/
def checked (cs : List (Bool × Bad)) (pl : Plan) : Except Bad Plan :=
  match firstBad cs with
  | some b => .error b
  | none => .ok pl

/-- Translate and place the pages of one range (R127, R142, R266). -/
def State.placeRange (s : State) (key p lc : Nat) (r : PRange) (held : List PageMap) :
    Except Bad (List PageMap) × State :=
  if r.n = 0 then (.ok held, s)
  else
    match s.xlateRanges key p lc [⟨r.va, r.n, r.wr⟩] held with
    | (.error b, s) => (.error b, s)
    | (.ok held, s) =>
      let pages := (List.range ((r.va + r.n - 1) / 65536 + 1 - r.va / 65536)).map (fun i => r.va / 65536 + i)
      let places := pages.filterMap (fun g => held.find? (fun m => decide (m.page = g)))
      let outside : Bool := match r.tile with
        | some t => places.any (fun m => decide (physAt m.pa ≠ .scratch t) || decide (intlPlace ≤ m.pa))
        | none => false
      let off := places.find? (fun m =>
        match physAt m.pa with
        | .scratch t => !s.tileOn t
        | .stack k => !s.stackUp k
        | _ => false)
      let fold := pages.find? (fun g =>
        match s.heldAddr p held (max r.va (g * 65536)) with
        | some a => s.inFold a (min (r.va + r.n) ((g + 1) * 65536) - max r.va (g * 65536))
        | none => false)
      let poison : Bool := s.heldPoison p held r.va r.n
      if outside then (.error ⟨0x01, 0, r.at_, 2, 0, 0x7F⟩, s)
      else match off, fold with
        | some m, _ => (.error ⟨0x04, 0, 0, 1, m.pa, 0x7F⟩, s)
        | none, some g => (.error ⟨0x03, 0, 0, 0, max r.va (g * 65536), 0x7F⟩, s)
        | none, none =>
          if poison ∧ ¬ r.wr then (.error ⟨0x07, 0, 0, 0, r.va, 0x7F⟩, s) else (.ok held, s)

def State.placeRanges (s : State) (key p lc : Nat) : List PRange → List PageMap → Except Bad (List PageMap) × State
  | [], held => (.ok held, s)
  | r :: rs, held =>
    match s.placeRange key p lc r held with
    | (.error b, s) => (.error b, s)
    | (.ok held, s) => s.placeRanges key p lc rs held

/-- DETAIL of a field of command word `w` (R490). -/
def inWord (w : Nat) : Nat := 0xFFFF0000 + w

/-- DETAIL of word `i` of a structure that command word `w` locates (R490). -/
def inStruct (w i : Nat) : Nat := i * 65536 + w

/-- Whether a format code is enabled for a partition (R10, R52). -/
def State.fmtOn (s : State) (p c : Nat) : Bool :=
  decide (c ≤ 0x0C) && ((s.cfgOf p).map (fun g => g.formatEn.testBit c)).getD false

/-- Whether a mode bit of MODE_EN is 1 for a partition (R52). -/
def State.modeOn (s : State) (p b : Nat) : Bool := ((s.cfgOf p).map (fun g => g.modeEn.testBit b)).getD false

/-- TARGET is a tile of the partition by its quads, excluded or not (R127). -/
def State.targetTile (s : State) (p t : Nat) : Bool :=
  decide (t < 48) && ((s.cfgOf p).map (fun g => g.quadMask.testBit (quadOfTile t))).getD false

/-- An excluded or switched-off TARGET tile answers unit-off (R24, R25, R127). -/
def State.tileGone (s : State) (p t : Nat) : Bool :=
  !(s.tileOn t) || ((s.cfgOf p).map (fun g => !(tileIn s.mask g t))).getD true

/-- A tile's unit-off answer. -/
def badTileOff (t : Nat) : Bad := ⟨0x04, 0, 0, 1, scratchBase t, 0x7F⟩

/-- The checks every command of MXE, VXE and STE begins with: TARGET in the partition and powered. -/
def State.tileChecks (s : State) (p : Nat) (c : Cmd) : List (Bool × Bad) :=
  [(!(s.targetTile p c.target), badWord 0), (s.targetTile p c.target && s.tileGone p c.target, badTileOff c.target)]

/-- Reserved extension words from `lo` to `hi` are zero (R80). -/
def extZero (c : Cmd) (lo hi : Nat) : List (Bool × Bad) :=
  (List.range (hi + 1 - lo)).map (fun i => (decide (c.word (8 + lo + i) ≠ 0), badWord (8 + lo + i)))

end Sys2Proof.Machine
end

