-- ==== Sys2Proof/Machine/Operands.lean ====
section
/-!
DEFINITION. Operand forms: the number forms L20, A36 and FP32 and the element formats (R92–R98), their decoding with
zero points and block scales (R97–R101), packed elements in memory (R94), exact arithmetic on the values (R102), and
rounding into a form (R103, R106, R107).
-/
namespace Sys2Proof.Machine

/-! ## Forms (R92, R95, R96) -/

/-- A floating-point layout: exponent and fraction widths and bias; `ieee` forms hold infinities and NaNs at the
highest exponent. -/
structure FForm where
  eb   : Nat
  fb   : Nat
  bias : Nat
  ieee : Bool
  deriving DecidableEq, Repr

def fL20 : FForm := ⟨9, 10, 255, true⟩
def fA36 : FForm := ⟨8, 27, 127, true⟩
def fFP32 : FForm := ⟨8, 23, 127, true⟩
def fBF16 : FForm := ⟨8, 7, 127, true⟩
def fFP16 : FForm := ⟨5, 10, 15, true⟩
def fE4M3 : FForm := ⟨4, 3, 7, false⟩
def fE5M2 : FForm := ⟨5, 2, 15, true⟩
def fE3M2 : FForm := ⟨3, 2, 3, false⟩
def fE2M3 : FForm := ⟨2, 3, 1, false⟩
def fE2M1 : FForm := ⟨2, 1, 1, false⟩

def FForm.width (f : FForm) : Nat := 1 + f.eb + f.fb

/-- What a code of a form is: sign, exponent and fraction fields taken apart (R92, R95, R96, R98). E4M3 has NaNs at
0x7F and 0xFF and no infinity. -/
def FForm.decode (f : FForm) (code : Nat) : Num :=
  let neg := code.testBit (f.eb + f.fb)
  let e := code / 2 ^ f.fb % 2 ^ f.eb
  let m := code % 2 ^ f.fb
  if f.ieee ∧ e = 2 ^ f.eb - 1 then (if m = 0 then .inf neg else .nan neg m f.fb)
  else if f = fE4M3 ∧ code % 128 = 0x7F then .nan neg 7 3
  else if e = 0 then .fin neg m (1 - (f.bias : Int) - f.fb)
  else .fin neg (2 ^ f.fb + m) ((e : Int) - f.bias - f.fb)

/-- The code of the canonical NaN (R104). -/
def FForm.canonNaN (f : FForm) : Nat :=
  if f = fE4M3 then 0x7F else (2 ^ f.eb - 1) * 2 ^ f.fb + 2 ^ (f.fb - 1)

/-- A NaN in a form: its payload left-aligned and the quiet bit set (R104). -/
def FForm.nanCode (f : FForm) (neg : Bool) (frac w : Nat) : Nat :=
  let p := if w ≤ f.fb then frac * 2 ^ (f.fb - w) else frac / 2 ^ (w - f.fb)
  (if neg then 2 ^ (f.eb + f.fb) else 0) + (2 ^ f.eb - 1) * 2 ^ f.fb + (p ||| 2 ^ (f.fb - 1)) % 2 ^ f.fb

/-- The greatest finite magnitude's code. -/
def FForm.maxCode (f : FForm) : Nat :=
  if f.ieee then (2 ^ f.eb - 1) * 2 ^ f.fb - 1
  else if f = fE4M3 then 0x7E
  else 2 ^ (f.eb + f.fb) - 1

/-! ## Rounding (R103, R106, R107) -/

/-- The rounding codes of R106; stochastic rounding carries its 16-bit draw. -/
inductive Rnd where
  | near | nearAway | zero | up | down
  | stoch (d : Nat)
  deriving DecidableEq, Repr

/-- The exponent of the leading bit of m × 2^e, for m ≠ 0. -/
def leadExp (m : Nat) (e : Int) : Int := (Nat.log2 m : Int) + e

/-- The exponent of a form's spacing at a magnitude: the ulp of its binade, or of the subnormal grid. -/
def FForm.quantum (f : FForm) (m : Nat) (e : Int) : Int :=
  max (leadExp m e) (1 - (f.bias : Int)) - f.fb

/-- Whether a magnitude with truncated part `t`, remainder `r` of `d` (r < d) rounds away from zero. -/
def roundsUp (md : Rnd) (neg : Bool) (t r d : Nat) : Bool :=
  match md with
  | .near => decide (d < 2 * r) || (decide (2 * r = d) && t % 2 == 1)
  | .nearAway => decide (d ≤ 2 * r) && decide (r ≠ 0)
  | .zero => false
  | .up => !neg && decide (r ≠ 0)
  | .down => neg && decide (r ≠ 0)
  | .stoch x => decide (65536 ≤ r * 65536 / d + x)

/-- The magnitude m × 2^e in units of 2^q, rounded. -/
def roundUnits (md : Rnd) (neg : Bool) (m : Nat) (e q : Int) : Nat :=
  if q ≤ e then m * 2 ^ (e - q).toNat
  else
    let d := 2 ^ (q - e).toNat
    let t := m / d
    if roundsUp md neg t (m % d) d then t + 1 else t

/-- What a finite magnitude rounds to in a form, as a magnitude code that may exceed the form's greatest. -/
def FForm.roundMag (f : FForm) (md : Rnd) (neg : Bool) (m : Nat) (e : Int) : Nat :=
  if m = 0 then 0
  else
    let q := f.quantum m e
    (q - (1 - (f.bias : Int) - f.fb)).toNat * 2 ^ f.fb + roundUnits md neg m e q

/-- Whether an overflow gives infinity under a rounding, or the greatest finite magnitude (R103). -/
def overflowsToInf (md : Rnd) (neg : Bool) : Bool :=
  match md with
  | .zero => false
  | .up => !neg
  | .down => neg
  | _ => true

def signBit (f : FForm) (neg : Bool) : Nat := if neg then 2 ^ (f.eb + f.fb) else 0

/-- Round a number into an IEEE form: the code. A NaN keeps its sign and payload; `fast` gives the canonical NaN. -/
def FForm.encode (f : FForm) (md : Rnd) (fast : Bool) (x : Num) : Nat :=
  match x with
  | .nan neg p w => if fast then f.canonNaN else f.nanCode neg p w
  | .inf neg => signBit f neg + (2 ^ f.eb - 1) * 2 ^ f.fb
  | .fin neg m e =>
    let c := f.roundMag md neg m e
    if f.maxCode < c then
      signBit f neg + (if overflowsToInf md neg then (2 ^ f.eb - 1) * 2 ^ f.fb else f.maxCode)
    else signBit f neg + c

/-- The L20 word of a number that L20 holds exactly (R97). -/
def l20Of (strict : Bool) (x : Num) : BitVec 20 := BitVec.ofNat 20 (fL20.encode .zero (!strict) x)

def l20Num (w : BitVec 20) : Num := fL20.decode w.toNat
def a36Num (w : BitVec 36) : Num := fA36.decode w.toNat
def fp32Num (w : W32) : Num := fFP32.decode w.toNat

/-! ## Element formats (R10, R96) -/

/-- Bits per element of a format code; pattern codes are sized by their book. -/
def fmtBits : Nat → Nat
  | 0x00 => 32 | 0x01 => 16 | 0x02 => 16 | 0x03 => 8 | 0x04 => 8 | 0x05 => 6 | 0x06 => 6 | 0x07 => 4
  | 0x08 => 8 | 0x09 => 8 | 0x0A => 4 | 0x0B => 4
  | _ => 8

/-- The floating-point layout of a format code, where it has one. -/
def fmtForm : Nat → Option FForm
  | 0x00 => some fFP32 | 0x01 => some fBF16 | 0x02 => some fFP16 | 0x03 => some fE4M3 | 0x04 => some fE5M2
  | 0x05 => some fE3M2 | 0x06 => some fE2M3 | 0x07 => some fE2M1
  | _ => none

/-- Whether a format's entry of R10's table reads "narrow" (R12). -/
def fmtNarrow (c : Nat) : Bool := (3 ≤ c && c ≤ 7) || c = 0x0A || c = 0x0B

/-- An integer as a number: zero is positive. -/
def numOfInt (z : Int) : Num := .fin (decide (z < 0)) z.natAbs 0

/-- The value of an element code, with the zero point of R99 for the unsigned formats. -/
def elemNum (fmt zp code : Nat) : Num :=
  match fmtForm fmt with
  | some f => f.decode code
  | none =>
    if fmt = 0x08 then numOfInt (signedOf 8 code)
    else if fmt = 0x0A then numOfInt (signedOf 4 code)
    else if fmt = 0x09 then numOfInt ((code : Int) - zp)
    else numOfInt ((code % 16 : Nat) - (zp % 16 : Nat))

/-- The canonical L20 NaN as a number. -/
def nanCanon : Num := .nan false 0x200 10

/-- A NaN as a result of mode `strict`: its own payload with the quiet bit set, or the canonical NaN (R104). -/
def quietNaN (strict : Bool) (neg : Bool) (frac w : Nat) : Num :=
  if strict then .nan neg (frac ||| 2 ^ (w - 1)) w else nanCanon

/-- Scale a number by 2^k exactly. -/
def Num.scale (x : Num) (k : Int) : Num :=
  match x with
  | .fin n m e => .fin n m (e + k)
  | y => y

/-- Decode an element to L20 (R97, R98, R101): the zero point, and the E8M0 block scale where there is one; 0xFF marks
the whole block as NaN. -/
def decodeElem (strict : Bool) (fmt zp : Nat) (scale : Option Nat) (code : Nat) : BitVec 20 :=
  match scale with
  | some 0xFF => l20Of false nanCanon
  | some e =>
    (match elemNum fmt zp code with
     | .nan n p w => l20Of strict (quietNaN strict n p w)
     | x => l20Of strict (x.scale ((e : Int) - 127)))
  | none =>
    (match elemNum fmt zp code with
     | .nan n p w => l20Of strict (quietNaN strict n p w)
     | x => l20Of strict x)

/-! ## Packed elements (R94) -/

/-- Bits [b·i + b − 1 : b·i] of the bytes at `a`: element `i` of an array of elements `b` bits wide. -/
def State.elemAt (s : State) (a b i : Nat) : Nat := s.readLe (a + b * i / 8) 6 / 2 ^ (b * i % 8) % 2 ^ b

/-- Store element `i` of such an array, leaving the bits of its neighbours. -/
def State.putElem (s : State) (a b i v : Nat) : State :=
  let at_ := a + b * i / 8
  let sh := b * i % 8
  let n := (sh + b + 7) / 8
  let old := s.readLe at_ n
  let kept := old - (old / 2 ^ sh % 2 ^ b) * 2 ^ sh
  s.writeLe at_ n (kept + v % 2 ^ b * 2 ^ sh)

/-- The bytes of an array of `n` elements `b` bits wide. -/
def packedBytes (b n : Nat) : Nat := (b * n + 7) / 8

/-! ## Exact arithmetic (R102–R104). A result that is no number is the NaN of R104: `strict` keeps the payload of the
first NaN operand. -/

def Num.isNaN : Num → Bool
  | .nan _ _ _ => true
  | _ => false
def Num.isInf : Num → Bool
  | .inf _ => true
  | _ => false
def Num.isZero : Num → Bool
  | .fin _ 0 _ => true
  | _ => false
def Num.neg : Num → Bool
  | .fin n _ _ => n
  | .inf n => n
  | .nan n _ _ => n

/-- The NaN result of two operands of which one is NaN. -/
def nanOf2 (strict : Bool) (a b : Num) : Num :=
  match a, b with
  | .nan n p w, _ => quietNaN strict n p w
  | _, .nan n p w => quietNaN strict n p w
  | _, _ => nanCanon

/-- The exact product (R102): zero times infinity is invalid. -/
def Num.mul (strict : Bool) (a b : Num) : Num :=
  match a, b with
  | .fin n m e, .fin n' m' e' => .fin (n != n') (m * m') (e + e')
  | .inf n, .inf n' => .inf (n != n')
  | .inf n, .fin n' m' _ => if m' = 0 then nanCanon else .inf (n != n')
  | .fin n m _, .inf n' => if m = 0 then nanCanon else .inf (n != n')
  | a, b => nanOf2 strict a b

/-- A signed mantissa at exponent `q ≤ e`. -/
def sMant (neg : Bool) (m : Nat) (e q : Int) : Int :=
  let v : Int := (m * 2 ^ (e - q).toNat : Nat)
  if neg then -v else v

/-- The exact sum: zeros of opposite sign give positive zero, except toward −∞ (`down`) (R103). -/
def Num.add (strict down : Bool) (a b : Num) : Num :=
  match a, b with
  | .fin n m e, .fin n' m' e' =>
    if m = 0 ∧ m' = 0 then .fin (if n = n' then n else down) 0 0
    else
      let q := min e e'
      let z := sMant n m e q + sMant n' m' e' q
      if z = 0 then .fin down 0 0 else .fin (decide (z < 0)) z.natAbs q
  | .inf n, .inf n' => if n = n' then .inf n else nanCanon
  | .inf n, .fin _ _ _ => .inf n
  | .fin _ _ _, .inf n' => .inf n'
  | a, b => nanOf2 strict a b

/-- The sign reversed. -/
def Num.negate : Num → Num
  | .fin n m e => .fin (!n) m e
  | .inf n => .inf (!n)
  | .nan n p w => .nan (!n) p w

/-- Compare the finite or infinite values of two numbers: negative, zero or positive as a < b, a = b, a > b. -/
def Num.cmp (a b : Num) : Int :=
  match a, b with
  | .fin n m e, .fin n' m' e' =>
    let q := min e e'
    sMant n m e q - sMant n' m' e' q
  | .inf n, .inf n' => (if n then -1 else 1) - (if n' then -1 else 1)
  | .inf n, _ => if n then -1 else 1
  | _, .inf n' => if n' then 1 else -1
  | _, _ => 0

/-- The absolute value. -/
def Num.mag : Num → Num
  | .fin _ m e => .fin false m e
  | .inf _ => .inf false
  | x => x

/-- Integer square root of `n`, by bits; `k` bits remain. -/
def isqrtBits (n : Nat) : Nat → Nat → Nat
  | 0, r => r
  | k + 1, r => if (r + 2 ^ k) * (r + 2 ^ k) ≤ n then isqrtBits n k (r + 2 ^ k) else isqrtBits n k r

/-- The greatest r with r² ≤ n, for n below 2^256. -/
def isqrt (n : Nat) : Nat := isqrtBits n (Nat.log2 n / 2 + 1) 0

/-- a / b for finite numbers with b ≠ 0, as a number with 80 quotient bits and a sticky bit: rounding it into any form
here rounds the exact quotient. -/
def quotNum (n : Bool) (m : Nat) (e : Int) (m' : Nat) (e' : Int) : Num :=
  if m = 0 then .fin n 0 0
  else
    let k := 80 + Nat.log2 m'
    let x := m * 2 ^ k
    .fin n (2 * (x / m') + (if x % m' = 0 then 0 else 1)) (e - e' - k - 1)

/-- The square root of m × 2^e with a sticky bit. -/
def sqrtNum (m : Nat) (e : Int) : Num :=
  if m = 0 then .fin false 0 0
  else
    let k : Nat := if (e % 2) = 0 then 160 else 161
    let x := m * 2 ^ k
    let r := isqrt x
    .fin false (2 * r + (if r * r = x then 0 else 1)) ((e - k) / 2 - 1)

end Sys2Proof.Machine
end

