-- ==== Sys2Proof/Machine/Frames.lean ====
section
/-!
DEFINITION. Frames (R276, R300–R312): frame entries and their chains, allocation and victims, dropping and spilling,
appending, snapshots with their holds, scores, and the park of a session.
-/
namespace Sys2Proof.Machine

/-! ## Frames of a stack (R51, R276, R277) -/

/-- The partition of a stack; 8 where it has none. -/
def State.stackPart (s : State) (k : Nat) : Nat := (s.partOfStack k).getD 8

/-- The frames of stack `k` (R51, R300). -/
def State.frameN (s : State) (k : Nat) : Nat := ((s.cfgOf (s.stackPart k)).map (fun c => frameCount c k)).getD 0

/-- Where frame `f` of stack `k` starts (R51). -/
def State.frameBase (s : State) (k f : Nat) : Nat := ((s.cfgOf (s.stackPart k)).map (fun c => frameAddr c k f)).getD 0

/-- Positions per frame (R276): quarter bits count the E8M0 scale. -/
def tpfOf (dim kbits : Nat) (kmx : Bool) (vbits : Nat) (vmx : Bool) : Nat :=
  let q := max (4 * kbits + (if kmx then 1 else 0)) (4 * vbits + (if vmx then 1 else 0))
  2 ^ Nat.log2 (min 1024 (524288 * 4 / (dim * q)))

/-- The layout of a frame's two halves as a command gives it (R277). -/
structure KvForm where
  dim  : Nat
  kfmt : Nat
  vfmt : Nat
  kmx  : Bool
  vmx  : Bool
  deriving DecidableEq, Repr

def KvForm.tpf (x : KvForm) : Nat := tpfOf x.dim (fmtBits x.kfmt) x.kmx (fmtBits x.vfmt) x.vmx

/-- The bytes of token slots [j, j + n) in one half: elements, then scales where there are any (R277). -/
def halfParts (tpf dim b : Nat) (mx : Bool) (j n : Nat) : List (Nat × Nat) :=
  (j * (dim * b / 8), n * (dim * b / 8)) ::
    (if mx then [(tpf * dim * b / 8 + j * (dim / 32), n * (dim / 32))] else [])

/-- Offsets and lengths in a frame of token slots [j, j + n): keys, then values. -/
def KvForm.parts (x : KvForm) (j n : Nat) : List (Nat × Nat) :=
  halfParts x.tpf x.dim (fmtBits x.kfmt) x.kmx j n
  ++ (halfParts x.tpf x.dim (fmtBits x.vfmt) x.vmx j n).map (fun e => (65536 + e.1, e.2))

/-- The bytes of one token slot, keys then values (R280). -/
def KvForm.slotBytes (x : KvForm) : Nat := (x.parts 0 1).foldl (fun a e => a + e.2) 0

/-! ## Entries and chains (R301–R303, R316) -/

def Kvf.frame (v : Kvf) (f : Nat) : FrameEnt := SMap.get .reset v.frames f
def Kvf.setFrame (v : Kvf) (f : Nat) (e : FrameEnt) : Kvf := { v with frames := SMap.set .reset v.frames f e }
def Kvf.rcd (v : Kvf) (i : Nat) : SpillRec := SMap.get .reset v.recs i
def Kvf.setRcd (v : Kvf) (i : Nat) (r : SpillRec) : Kvf := { v with recs := SMap.set .reset v.recs i r }

/-- The entry of a chain member. -/
def Kvf.ent (v : Kvf) : MemberRef → FrameEnt
  | .frame n => v.frame n
  | .spilled n => (v.rcd n).ent

/-- The directory entry of a chain (R302). -/
def Kvf.dirOf (v : Kvf) (slot layer group : Nat) : Option DirEnt :=
  v.dir.find? (fun d => decide (d.slot = slot) && decide (d.layer = layer) && decide (d.group = group))

/-- Change a directory entry, made new where there is none. -/
def Kvf.updDir (v : Kvf) (slot layer group : Nat) (f : DirEnt → DirEnt) : Kvf :=
  match v.dirOf slot layer group with
  | some _ => { v with dir := v.dir.map (fun d =>
      if d.slot = slot ∧ d.layer = layer ∧ d.group = group then f d else d) }
  | none => { v with dir := v.dir ++ [f ⟨slot, layer, group, none, 0⟩] }

/-- The members from a link on, in descending POS0; `fuel` bounds the walk. -/
def Kvf.listFrom (v : Kvf) : Nat → Option MemberRef → List MemberRef
  | 0, _ => []
  | _, none => []
  | n + 1, some m => m :: v.listFrom n (v.ent m).pred

/-- The members of a chain in this stack, in descending POS0 (R302). -/
def Kvf.members (v : Kvf) (slot layer group : Nat) : List MemberRef :=
  v.listFrom (v.frames.length + v.recs.length + 1) ((v.dirOf slot layer group).bind (·.last))

/-- The members of every chain of a session in this stack. -/
def Kvf.sesMembers (v : Kvf) (slot : Nat) : List MemberRef :=
  ((v.dir.filter (fun d => decide (d.slot = slot))).flatMap (fun d => v.members d.slot d.layer d.group))

def MemberRef.frame? : MemberRef → Option Nat
  | .frame n => some n
  | .spilled _ => none

def MemberRef.rec? : MemberRef → Option Nat
  | .frame _ => none
  | .spilled n => some n

/-- Move every link that names a member. -/
def Kvf.relink (v : Kvf) (m : MemberRef) (dst : Option MemberRef) : Kvf :=
  let mv := fun (e : FrameEnt) => if e.pred = some m then { e with pred := dst } else e
  { v with
    frames := (v.frames.map (fun e => (e.1, mv e.2))).filter (fun e => decide (e.2 ≠ .reset))
    recs := (v.recs.map (fun e => (e.1, { e.2 with ent := mv e.2.ent }))).filter (fun e => decide (e.2 ≠ .reset))
    dir := v.dir.map (fun d => if d.last = some m then { d with last := dst } else d) }

/-- One reference fewer (R316): at 0 the frame is FREE and in no chain, at 1 it loses its owner. -/
def Kvf.decRef (v : Kvf) (f : Nat) : Kvf :=
  let e := v.frame f
  if e.refs ≤ 1 then (v.relink (.frame f) e.pred).setFrame f .reset
  else v.setFrame f (if e.refs = 2 then { e with refs := 1, owner := 0 } else { e with refs := e.refs - 1 })

/-- A frame joins a further chain by FORK or ATTACH (R316). OWNER names the only session reference (R301): with a second
one it is 0. -/
def Kvf.incRef (v : Kvf) (f : Nat) : Kvf := let e := v.frame f; v.setFrame f { e with refs := e.refs + 1, owner := 0 }

/-- The lowest FREE entry of a table whose listed keys start at `i`. -/
def firstGap (i : Nat) : List Nat → Nat
  | [] => i
  | k :: ks => if i < k then i else firstGap (k + 1) ks

def Kvf.usedFrames (v : Kvf) : List Nat := (v.frames.filter (fun e => decide (e.2.st ≠ .free))).map (·.1)
def Kvf.usedRecs (v : Kvf) : List Nat := (v.recs.filter (fun e => decide (e.2.st ≠ .free))).map (·.1)

/-- Frames of a pool that are not FREE (R323). -/
def Kvf.poolUsed (v : Kvf) (pool : Nat) : Nat :=
  (v.frames.filter (fun e => decide (e.2.st ≠ .free) && decide (e.2.pool = pool))).length

/-- The spill records of a stack, and where record `i` lies at the host (R310). -/
def State.spillCnt (s : State) (k : Nat) : Nat := s.cfg .kvf k 0x28 16 0
def State.spillAddr (s : State) (k i : Nat) : Nat :=
  s.cfg .kvf k 0x20 31 17 * 0x2_0000 + s.cfg .kvf k 0x24 15 0 * 2 ^ 32 + i * 0x2_0000

def State.freeRec (s : State) (k : Nat) : Option Nat :=
  let i := firstGap 0 (s.kvf k).usedRecs
  if i < s.spillCnt k then some i else none

/-! ## Sessions as frames see them (R313, R314) -/

def State.sesEnt (s : State) (p slot : Nat) : SesEnt := SMap.get .reset (s.ses p).slots slot
def State.setSesEnt (s : State) (p slot : Nat) (e : SesEnt) : State :=
  let x := s.ses p
  s.setSes p { x with slots := SMap.set .reset x.slots slot e }

def State.sesQuota (s : State) (p : Nat) : Nat := ((s.cfgOf p).map (·.sesQuota)).getD 0

/-- SLOT of a handle (R313). -/
def handleSlot (h : W32) : Nat := bitsOf h.toNat 15 0
def handleOf (slot : Nat) (gen : BitVec 16) : W32 := BitVec.ofNat 32 (gen.toNat * 65536 + slot)

/-- A handle is live while its slot is OPEN and its GEN matches (R313). -/
def State.liveSes (s : State) (p : Nat) (h : W32) : Bool :=
  decide (handleSlot h < s.sesQuota p) && decide ((s.sesEnt p (handleSlot h)).st = .opened)
    && decide ((s.sesEnt p (handleSlot h)).gen.toNat = bitsOf h.toNat 31 16)

/-- The partition's stacks with frames, ascending (R303). -/
def State.frameStacks (s : State) (p : Nat) : List Nat :=
  match s.cfgOf p with
  | some c => (partStacks s.mask c).filter (fun k => decide (c.frameQ.getD k 0 ≠ 0))
  | none => []

/-- The stacks of a partition, with frames or without. -/
def State.stacksOf (s : State) (p : Nat) : List Nat := ((s.cfgOf p).map (partStacks s.mask)).getD []

/-- The tail stack of a chain (R303). -/
def State.tailStack (s : State) (p slot layer group : Nat) : Nat :=
  let l := s.frameStacks p
  l.getD (((s.sesEnt p slot).place + layer + group) % l.length) 12

/-! ## Scores (R307) -/

/-- d^k with relative error at most 2^-8: a free value picks it within the bound (R307). -/
def decayNum (shift k free : Nat) : Num :=
  .fin false ((2 ^ shift - 1) ^ k * (2 ^ 32 - 2 ^ 24 + free % (2 ^ 25 + 1))) (-(shift * k : Nat) - 32)

/-- The effective score of an entry at the stack's epoch. -/
def State.effScore (s : State) (k : Nat) (e : FrameEnt) (free : Nat) : Num :=
  (fBF16.decode e.score.toNat).mul false
    (decayNum (s.cfg .kvf k 0x10 3 0) ((s.kvf k).epoch - e.epoch).toNat free)

/-- Bring an entry's score up to date, adding an attention mass (R307). -/
def State.rescore (s : State) (k : Nat) (e : FrameEnt) (mass : Num) (free : Nat) : FrameEnt :=
  { e with
    score := BitVec.ofNat 16 (fBF16.encode .near true ((s.effScore k e free).add false false mass))
    epoch := (s.kvf k).epoch }

/-- An attention mass reaches the score of frame `f`. -/
def State.scoreFrame (s : State) (k f : Nat) (mass : Num) : State :=
  let d := s.drawNat
  let v := d.2.kvf k
  d.2.setKvf k (v.setFrame f (d.2.rescore k (v.frame f) mass d.1))

/-! ## Eviction (R305, R308–R310) -/

/-- A victim would be spilled: not published, and the POLICY of its owner is SPILL (R305). -/
def State.wouldSpill (s : State) (p : Nat) (e : FrameEnt) : Bool :=
  !e.pub && (s.sesEnt p (handleSlot e.owner)).policy

/-- The frame lies in its owner's protected window (R308). -/
def State.protected_ (s : State) (k p f : Nat) (e : FrameEnt) : Bool :=
  let o := s.sesEnt p (handleSlot e.owner)
  let ms := (s.kvf k).members (handleSlot e.owner) e.layer e.group
  (ms.take o.protWin).contains (.frame f) || (ms.drop (ms.length - o.protHead)).contains (.frame f)

/-- Whether a frame may be evicted (R308). -/
def State.evictable (s : State) (k p f : Nat) (e : FrameEnt) : Bool :=
  decide (e.st = .live) && !e.pin && decide (e.holds = 0) && decide (e.refs = 1)
    && (e.pub || (decide (e.owner ≠ 0) && !(s.protected_ k p f e)))
    && (!(s.wouldSpill p e) || (s.freeRec k).isSome)

/-- The evictable frame of a pool with the least effective score, ties to the lowest number (R305). -/
def State.victim (s : State) (k p pool : Nat) : Option Nat × State :=
  let cands := (s.kvf k).frames.filter (fun x => decide (x.2.pool = pool) && s.evictable k p x.1 x.2)
  let scored := cands.map (fun x => (x.1, s.effScore k x.2 (Config.freeNat (s.free + x.1))))
  let best := scored.foldl (fun (b : Option (Nat × Num)) x =>
    match b with
    | none => some x
    | some y => if x.2.cmp y.2 < 0 then some x else some y) none
  (best.map (·.1), { s with free := s.free + s.frameN k })

/-- EVICT record of the frame table (R406). -/
def State.ledgerEvict (s : State) (k f what : Nat) (e : FrameEnt) (w : Who) : State :=
  s.ledgerStack k w 0x0A 0x70 (f + e.pool * 2 ^ 20 + what * 2 ^ 24) e.owner.toNat

/-- OWNER's DROPPED grows (R309). -/
def State.addDropped (s : State) (p : Nat) (e : FrameEnt) : State :=
  if e.owner = 0 then s
  else
    let o := s.sesEnt p (handleSlot e.owner)
    s.setSesEnt p (handleSlot e.owner) { o with dropped := o.dropped + BitVec.ofNat 32 e.valid }

/-- The prefix entry of a frame is removed (R309). -/
def State.unpublish (s : State) (p k f : Nat) : State :=
  let x := s.part p
  s.setPart p { x with pfx := x.pfx.filter (fun e => !(decide (e.stack = k) && decide (e.frame = f))) }

/-- Drop a victim (R309). -/
def State.dropFrame (s : State) (k p f : Nat) (w : Who) : State :=
  let e := (s.kvf k).frame f
  let s := if e.pub then s.unpublish p k f else s
  let v := ((s.kvf k).relink (.frame f) e.pred).setFrame f .reset
  (((s.setKvf k v).addDropped p e).countStack k 0x020B 1 nobody).ledgerEvict k f 0 e w

/-- Begin to spill a victim into record `i` (R310): the chain is relinked, the frame becomes OUTBOUND. -/
def State.spillStart (s : State) (k f i : Nat) (forW : AllocFor) : State :=
  let v := s.kvf k
  let e := v.frame f
  let v := v.setRcd i ⟨.spilling, e⟩
  let v := v.relink (.frame f) (some (.spilled i))
  let v := v.setFrame f { v.frame f with st := .outbound, pred := none }
  s.setKvf k { v with spill := v.spill ++ [⟨f, i, e.owner, forW⟩] }

/-- What an allocation answers (R305): a frame, a spill copy to wait for, or exhaustion. -/
inductive Alloc where
  | got (f : Nat)
  | wait
  | exhausted
  deriving DecidableEq, Repr

/-- Allocation for a pool (R305). -/
def State.alloc (s : State) (k p pool : Nat) (forW : AllocFor) (w : Who) : Alloc × State :=
  let v := s.kvf k
  let lim := s.cfg .kvf k (0x100 + 4 * pool) 19 0
  let f := firstGap 0 v.usedFrames
  if f < s.frameN k ∧ (lim = 0 ∨ v.poolUsed pool < lim) then (.got f, s.countStack k 0x020A 1 nobody)
  else match s.victim k p pool with
    | (none, s) => (.exhausted, s)
    | (some f, s) =>
      let e := (s.kvf k).frame f
      if s.wouldSpill p e then
        match s.freeRec k with
        | some i => (.wait, s.spillStart k f i forW)
        | none => (.exhausted, s)
      else (.got f, (s.dropFrame k p f w).countStack k 0x020A 1 nobody)

/-! ## Appending (R304, R312) -/

/-- Who appends what: session handle, cache layer and group, the frame layout, and the new token's slot bytes. -/
structure AppArg where
  handle : W32
  layer  : Nat
  group  : Nat
  form   : KvForm
  data   : List Byte
  deriving DecidableEq, Repr

/-- What an append needs (R304). -/
inductive AppPlan where
  | refused
  | into (f : Nat)
  | copy (f : Nat)
  | fresh
  deriving DecidableEq, Repr

/-- NEXT_POS of a chain (R303). -/
def Kvf.nextPos (v : Kvf) (a : AppArg) : Nat := ((v.dirOf (handleSlot a.handle) a.layer a.group).map (·.nextPos)).getD 0

/-- Steps 1 to 5 of R304 up to the allocation. -/
def appPlan (v : Kvf) (a : AppArg) : AppPlan :=
  let p := v.nextPos a
  let t := (((v.dirOf (handleSlot a.handle) a.layer a.group).bind (·.last)).bind (·.frame?)).filter (fun f =>
    decide ((v.frame f).pos0 < p) && decide (p ≤ (v.frame f).pos0 + (v.frame f).valid))
  if p = 2 ^ 24 then .refused
  else match t with
    | none => .fresh
    | some f =>
      let e := v.frame f
      if e.tpf ≠ a.form.tpf then .refused
      else if e.st = .live ∧ e.valid < e.tpf ∧ e.refs = 1 ∧ ¬ e.pub then .into f
      else if e.valid < e.tpf ∧ 1 < e.refs then .copy f
      else .fresh

/-- Write a token slot of a frame: key elements, key scales, value elements, value scales (R277, R280). -/
def State.writeSlot (s : State) (k f : Nat) (a : AppArg) (j : Nat) : State :=
  ((a.form.parts j 1).foldl (fun x e => ((x.1.writeBytes (s.frameBase k f + e.1) (x.2.take e.2)), x.2.drop e.2)) (s, a.data)).1

/-- Write the new token in frame `f`, which becomes the chain's LAST; VALID and NEXT_POS count on (R304). -/
def State.appendInto (s : State) (k f : Nat) (a : AppArg) : State :=
  let e := (s.kvf k).frame f
  let s := s.writeSlot k f a e.valid
  let v := (s.kvf k).setFrame f { e with valid := e.valid + 1 }
  s.setKvf k (v.updDir (handleSlot a.handle) a.layer a.group (fun d => { d with last := some (.frame f), nextPos := d.nextPos + 1 }))

/-- The entry of a frame that an append of session `a.handle` takes (R304). -/
def State.newEntry (s : State) (k p : Nat) (a : AppArg) (pos0 valid : Nat) (pred : Option MemberRef) : FrameEnt :=
  { FrameEnt.reset with
    st := .live, refs := 1, pool := (s.sesEnt p (handleSlot a.handle)).pool, tpf := a.form.tpf, pos0 := pos0
    valid := valid, epoch := (s.kvf k).epoch, layer := a.layer, group := a.group, owner := a.handle, pred := pred }

/-- Append with an allocated frame `n` (R304, steps 4 to 6). -/
def State.appendWith (s : State) (k p n : Nat) (a : AppArg) (w : Who) : State :=
  let v := s.kvf k
  match appPlan v a with
  | .copy f =>
    let t := v.frame f
    let s := (a.form.parts 0 t.valid).foldl (fun s e =>
      s.writeBytes (s.frameBase k n + e.1) (s.readBytes (s.frameBase k f + e.1) e.2)) s
    let v := (v.setFrame n (s.newEntry k p a t.pos0 t.valid t.pred)).decRef f
    ((s.setKvf k v).countStack k 0x020E 1 w).appendInto k n a
  | .fresh =>
    let last := (v.dirOf (handleSlot a.handle) a.layer a.group).bind (·.last)
    (s.setKvf k (v.setFrame n (s.newEntry k p a (v.nextPos a) 0 last))).appendInto k n a
  | .into f => s.appendInto k f a
  | .refused => s

/-- How an append ends or waits. -/
inductive AppEnd where
  | done | wait | exhausted | refused
  deriving DecidableEq, Repr

/-- The append of entry `idx` (R304). -/
def State.append (s : State) (k p idx : Nat) (a : AppArg) (w : Who) : AppEnd × State :=
  match appPlan (s.kvf k) a with
  | .refused => (.refused, s)
  | .into f => (.done, s.appendInto k f a)
  | _ =>
    match s.alloc k p (s.sesEnt p (handleSlot a.handle)).pool (.append idx) w with
    | (.got n, s) => (.done, s.appendWith k p n a w)
    | (.wait, s) => (.wait, s)
    | (.exhausted, s) => (.exhausted, s)

/-- A session is PARKED and the keeper pairs are told (R312). -/
def State.park (s : State) (k p : Nat) (a : AppArg) (w : Who) : State :=
  let slot := handleSlot a.handle
  let e := s.sesEnt p slot
  let pos := (s.kvf k).nextPos a
  let s := s.setSesEnt p slot { e with
    parked := true, parkLayer := a.layer, parkGroup := a.group, parkStack := k, parkPool := e.pool
    parkPos := BitVec.ofNat 32 pos }
  let s := (s.flag .kvf k 0x14 (bit 30)).countStack k 0x020D 1 w
  let s := ((List.range 8).filter (fun j => decide (s.partOfKp j = some p))).foldl
    (fun s j => s.count ⟨.talKp, j⟩ 0x0404 1 nobody) s
  s.emit (.notice p 2 [a.handle.toNat, k, a.layer, a.group, e.pool, pos, w.layer, w.op])

/-! ## Snapshots (R284, R286, R316) -/

/-- The members a session-mode snapshot lists, in ascending POS0, below POS_LIMIT. -/
def Kvf.snapshot (v : Kvf) (slot layer group limit : Nat) : List MemberRef :=
  ((v.members slot layer group).reverse).filter (fun m => decide ((v.ent m).pos0 < limit))

/-- Frames that a snapshot of session `h` reaches without an owner get it (R316). -/
def Kvf.adopt (v : Kvf) (h : W32) (layer group : Nat) : Kvf :=
  ((v.members (handleSlot h) layer group).filterMap (·.frame?)).foldl (fun v f =>
    let e := v.frame f
    if e.refs = 1 ∧ ¬ e.pub ∧ e.owner = 0 then v.setFrame f { e with owner := h } else v) v

def Kvf.hold (v : Kvf) (fs : List Nat) : Kvf :=
  fs.foldl (fun v f => let e := v.frame f; v.setFrame f { e with holds := e.holds + 1 }) v

/-- Holds end (R286). -/
def Kvf.unhold (v : Kvf) (fs : List Nat) : Kvf :=
  fs.foldl (fun v f => let e := v.frame f; v.setFrame f { e with holds := e.holds - 1 }) v

/-! ## The end of a spill copy (R310) -/

/-- The copy of the oldest spill ends: the record becomes SPILLED, or on a failed host write its positions are dropped.
Either way the frame is free for its allocation. -/
def State.spillEnd (s : State) (k p : Nat) (o : SpillOp) (ok : Bool) (w : Who) : State :=
  let v := s.kvf k
  let r := v.rcd o.recNo
  let v := { v with spill := v.spill.filter (fun x => decide (x ≠ o)) }
  let v := v.setFrame o.frame .reset
  if ok then
    ((s.setKvf k (v.setRcd o.recNo { r with st := .spilled })).countStack k 0x020C 1 nobody).ledgerEvict k o.frame 1 r.ent w
  else
    let v := (v.relink (.spilled o.recNo) r.ent.pred).setRcd o.recNo .reset
    ((((s.setKvf k v).addDropped p r.ent).flag .kvf k 0x14 (bit 31)).countStack k 0x020B 1 nobody).ledgerEvict k o.frame 0
      r.ent w

end Sys2Proof.Machine
end

