-- ==== Sys2Proof/Machine/Flags.lean ====
section
/-!
DEFINITION. Conversions into element formats with their clamps and NaN rules (R103, R163), the rounding codes (R106),
and the status flags that vector operations raise (R209).
-/
namespace Sys2Proof.Machine

/-- The rounding that a code of R106 names; a stochastic one takes draw `d`. -/
def rndOf (code d : Nat) : Rnd :=
  match code with
  | 0 => .near
  | 1 => .nearAway
  | 2 => .zero
  | 3 => .up
  | 4 => .down
  | _ => .stoch d

/-- Whether a rounding code is accepted in a mode (R106). -/
def rndOk (strict : Bool) (code : Nat) : Bool := if strict then decide (code ≤ 4) else decide (code = 0) || decide (code = 5)

/-- What a conversion gives: a code, or no code for a NaN the format cannot hold (R163); whether it clamped, and
whether it overflowed, lost bits or became subnormal on the way (the flags of formats that clamp nothing). -/
structure Conv where
  code     : Nat
  clamp    : Bool
  nanFault : Bool
  overflow : Bool
  inexact  : Bool
  tiny     : Bool
  deriving DecidableEq, Repr

def convCode (c : Nat) : Conv := ⟨c, false, false, false, false, false⟩

/-- Whether rounding a finite magnitude into a form loses bits, and whether the magnitude is tiny: below the form's
smallest normal, before or after rounding to the form's precision as the implementation chose. -/
def FForm.inexact (f : FForm) (m : Nat) (e : Int) : Bool :=
  decide (m ≠ 0) && (let q := f.quantum m e; decide (e < q) && decide (m % 2 ^ (q - e).toNat ≠ 0))
def FForm.tiny (f : FForm) (md : Rnd) (neg : Bool) (m : Nat) (e : Int) : Bool :=
  decide (m ≠ 0) &&
    (let q := leadExp m e - f.fb
     let u := roundUnits md neg m e q
     decide ((if Config.tinyAfter then leadExp u q else leadExp m e) < 1 - (f.bias : Int)))

/-- Convert into a format without infinities: rounded, then clamped as R163 states. -/
def convClamp (f : FForm) (md : Rnd) (fast : Bool) (x : Num) : Conv :=
  match x with
  | .nan neg _ _ =>
    if f = fE4M3 then convCode (if fast then 0x7F else 0x7F + (if neg then 0x80 else 0))
    else { convCode 0 with nanFault := true }
  | .inf neg =>
    { convCode (if f = fE4M3 then 0x7F else signBit f neg + f.maxCode) with clamp := true }
  | .fin neg m e =>
    let c := f.roundMag md neg m e
    if f.maxCode < c then { convCode (if f = fE4M3 then 0x7F else signBit f neg + f.maxCode) with clamp := true }
    else { convCode (signBit f neg + c) with inexact := f.inexact m e, tiny := f.tiny md neg m e }

/-- Convert into an IEEE format. -/
def convIeee (f : FForm) (md : Rnd) (fast : Bool) (x : Num) : Conv :=
  match x with
  | .fin neg m e =>
    { convCode (f.encode md fast x) with
      overflow := decide (f.maxCode < f.roundMag md neg m e)
      inexact := f.inexact m e || decide (f.maxCode < f.roundMag md neg m e), tiny := f.tiny md neg m e }
  | _ => convCode (f.encode md fast x)

/-- The integer a finite number rounds to. -/
def roundInt (md : Rnd) (neg : Bool) (m : Nat) (e : Int) : Int :=
  let k := roundUnits md neg m e 0
  if neg then -(k : Int) else k

/-- Convert into an integer format of `b` bits with limits [lo, hi], offset by zero point `zp` (R163, R167). -/
def convInt (b : Nat) (lo hi : Int) (zp : Nat) (md : Rnd) (x : Num) : Conv :=
  let enc := fun (z : Int) => (z % (2 ^ b : Nat)).toNat
  match x with
  | .nan _ _ _ => { convCode 0 with nanFault := true }
  | .inf neg => { convCode (enc (if neg then lo else hi)) with clamp := true }
  | .fin neg m e =>
    let z := roundInt md neg m e + zp
    if z < lo then { convCode (enc lo) with clamp := true }
    else if hi < z then { convCode (enc hi) with clamp := true }
    else { convCode (enc z) with inexact := decide (e < 0) && decide (m % 2 ^ (-e).toNat ≠ 0) }

/-- Convert a number into format `fmt` under a rounding (R163, R167). -/
def convert (fmt zp : Nat) (md : Rnd) (fast : Bool) (x : Num) : Conv :=
  match fmt with
  | 0x00 => convIeee fFP32 md fast x
  | 0x01 => convIeee fBF16 md fast x
  | 0x02 => convIeee fFP16 md fast x
  | 0x03 => convClamp fE4M3 md fast x
  | 0x04 => convIeee fE5M2 md fast x
  | 0x05 => convClamp fE3M2 md fast x
  | 0x06 => convClamp fE2M3 md fast x
  | 0x07 => convClamp fE2M1 md fast x
  | 0x08 => convInt 8 (-127) 127 0 md x
  | 0x09 => convInt 8 0 255 zp md x
  | 0x0A => convInt 4 (-7) 7 0 md x
  | _ => convInt 4 0 15 zp md x

/-- FMT_MAX of an output format (R153). -/
def fmtMax (fmt : Nat) : Num :=
  match fmt with
  | 0x08 => .fin false 127 0
  | 0x0A => .fin false 7 0
  | 0x09 => .fin false 255 0
  | 0x0B => .fin false 15 0
  | f => (match fmtForm f with
    | some g => g.decode g.maxCode
    | none => .fin false 0 0)

/-- An FP32 word is positive and normal. -/
def posNormal (w : Nat) : Bool := decide (0x0080_0000 ≤ w) && decide (w < 0x7F80_0000)

/-- The bits of VXE_FLAGS (R209, R214). -/
inductive VFlag where
  | invalid | divZero | overflow | underflow | inexact
  deriving DecidableEq, Repr

def VFlag.bit : VFlag → Nat
  | .invalid => 4 | .divZero => 3 | .overflow => 2 | .underflow => 1 | .inexact => 0

end Sys2Proof.Machine
end

