-- ==== Sys2Proof/Machine/Lanes.lean ====
section
/-!
DEFINITION. The FP32 arithmetic of a vector lane (R194, R203–R209): operands, the basic operations with their flags, the
operations that meet a bound, comparisons, and values of the transcendental functions to far more bits than the bounds
need, against which a free result is held.
-/
namespace Sys2Proof.Machine

/-! ## Flags -/

def flagOf (f : VFlag) : BitVec 5 := BitVec.ofNat 5 (2 ^ f.bit)
def noFlags : BitVec 5 := 0
def fInvalid : BitVec 5 := flagOf .invalid
def fDivZero : BitVec 5 := flagOf .divZero
def flagIf (b : Bool) (f : VFlag) : BitVec 5 := if b then flagOf f else 0

/-- The flags a mode raises: fast mode only INVALID, DIVZERO and OVERFLOW (R209). -/
def modeFlags (strict : Bool) (f : BitVec 5) : BitVec 5 := if strict then f else f &&& 0b11100

/-! ## Operands -/

/-- A value below the FP32 normal range reads as zero of its sign in fast mode (R105, R194). -/
def laneIn (strict : Bool) (x : Num) : Num :=
  match x with
  | .fin n m e => if ¬ strict ∧ m ≠ 0 ∧ leadExp m e < -126 then .fin n 0 0 else x
  | y => y

/-- A signalling NaN: its quiet bit is 0. -/
def Num.sNaN : Num → Bool
  | .nan _ f w => !(f.testBit (w - 1))
  | _ => false

/-- INVALID of signalling operands, which both modes raise (R104, R209). -/
def sigFlags (xs : List Num) : BitVec 5 := flagIf (xs.any Num.sNaN) .invalid

/-- The NaN of the first NaN operand, canonical in fast mode or where there is none (R104). -/
def firstNaN (strict : Bool) (xs : List Num) : Num :=
  match xs.find? Num.isNaN with
  | some (.nan n f w) => quietNaN strict n f w
  | _ => nanCanon

/-! ## Results -/

/-- A lane's result: the FP32 word and its flags. -/
structure Lane where
  word  : W32
  flags : BitVec 5
  deriving DecidableEq, Repr

/-- Round an exact result to FP32 (R103, R105, R209): fast mode writes a subnormal result as zero of its sign. -/
def laneRound (strict : Bool) (md : Rnd) (x : Num) (fl : BitVec 5) : Lane :=
  let w := fFP32.encode md (!strict) x
  match x with
  | .fin n m e =>
    let past := decide (fFP32.maxCode < fFP32.roundMag md n m e)
    let inex := fFP32.inexact m e || past
    let w := if ¬ strict ∧ w % 2 ^ 31 < 0x0080_0000 then w / 2 ^ 31 * 2 ^ 31 else w
    ⟨BitVec.ofNat 32 w, modeFlags strict (fl ||| flagIf past .overflow ||| flagIf inex .inexact
      ||| flagIf (inex && fFP32.tiny md n m e) .underflow)⟩
  | _ => ⟨BitVec.ofNat 32 w, modeFlags strict fl⟩

/-- Toward −∞, an exact zero sum is negative (R103). -/
def isDown (md : Rnd) : Bool := decide (md = .down)

/-- The basic operations (R203). -/
inductive Basic where
  | add | sub | mul | fma | div | sqrt | min | max | abs | neg | copy
  deriving DecidableEq, Repr

/-- a − b, a × b and the like as exact numbers, with INVALID where the result is no number. -/
def exactAdd (strict : Bool) (md : Rnd) (a b : Num) : Num × BitVec 5 :=
  (Num.add strict (isDown md) a b, flagIf (a.isInf && b.isInf && a.neg != b.neg) .invalid)

def exactMul (strict : Bool) (a b : Num) : Num × BitVec 5 :=
  (Num.mul strict a b, flagIf ((a.isInf && b.isZero) || (a.isZero && b.isInf)) .invalid)

def exactDiv (a b : Num) : Num × BitVec 5 :=
  match a, b with
  | .fin n m e, .fin n' m' e' =>
    if m' = 0 then (if m = 0 then (nanCanon, fInvalid) else (.inf (n != n'), fDivZero))
    else (quotNum (n != n') m e m' e', noFlags)
  | .inf n, .fin n' _ _ => (.inf (n != n'), noFlags)
  | .fin n _ _, .inf n' => (.fin (n != n') 0 0, noFlags)
  | _, _ => (nanCanon, fInvalid)

def exactSqrt (a : Num) : Num × BitVec 5 :=
  match a with
  | .fin n m e => if m = 0 then (.fin n 0 0, noFlags) else if n then (nanCanon, fInvalid) else (sqrtNum m e, noFlags)
  | .inf n => if n then (nanCanon, fInvalid) else (.inf false, noFlags)
  | x => (x, noFlags)

/-- MIN and MAX of two numbers that are not NaN: of two zeros of opposite sign −0 and +0 (R203). -/
def minNum (a b : Num) : Num := if a.cmp b < 0 then a else if 0 < a.cmp b then b else if a.neg then a else b
def maxNum (a b : Num) : Num := if 0 < a.cmp b then a else if a.cmp b < 0 then b else if a.neg then b else a

/-- The product and sum of FMA (R203): one rounding, NaN operands in the order A, B, C. -/
def exactFma (strict : Bool) (md : Rnd) (a b c : Num) : Num × BitVec 5 :=
  let bad := (a.isInf && b.isZero) || (a.isZero && b.isInf)
  if a.isNaN ∨ b.isNaN ∨ c.isNaN then
    (firstNaN strict [a, b, c], flagIf (bad && c.isNaN && Config.fmaInvalid) .invalid)
  else if bad then (nanCanon, fInvalid)
  else exactAdd strict md (Num.mul strict a b) c

/-- The exact result of a basic operation (R203, R206) and the flags that do not come from rounding. -/
def basicExact (op : Basic) (strict : Bool) (md : Rnd) (a b c : Num) : Num × BitVec 5 :=
  match op with
  | .fma => exactFma strict md a b c
  | .add => if a.isNaN ∨ b.isNaN then (firstNaN strict [a, b], noFlags) else exactAdd strict md a b
  | .sub => if a.isNaN ∨ b.isNaN then (firstNaN strict [a, b], noFlags) else exactAdd strict md a b.negate
  | .mul => if a.isNaN ∨ b.isNaN then (firstNaN strict [a, b], noFlags) else exactMul strict a b
  | .div => if a.isNaN ∨ b.isNaN then (firstNaN strict [a, b], noFlags) else exactDiv a b
  | .min => if a.isNaN ∨ b.isNaN then (firstNaN strict [a, b], noFlags) else (minNum a b, noFlags)
  | .max => if a.isNaN ∨ b.isNaN then (firstNaN strict [a, b], noFlags) else (maxNum a b, noFlags)
  | .sqrt => if a.isNaN then (firstNaN strict [a], noFlags) else exactSqrt a
  | .abs => if a.isNaN then (firstNaN strict [a], noFlags) else (a.mag, noFlags)
  | .neg => if a.isNaN then (firstNaN strict [a], noFlags) else (a.negate, noFlags)
  | .copy => if a.isNaN then (firstNaN strict [a], noFlags) else (a, noFlags)

/-- A lane of a basic operation; the operands it does not use are zeros. -/
def laneBasic (op : Basic) (strict : Bool) (md : Rnd) (a b c : Num) : Lane :=
  let r := basicExact op strict md a b c
  laneRound strict md r.1 (r.2 ||| sigFlags [a, b, c])

/-- The comparisons (R203, R209). -/
inductive Cmp where
  | lt | le | eq | ne
  deriving DecidableEq, Repr

def laneCmp (op : Cmp) (strict : Bool) (a b : Num) : Bool × BitVec 5 :=
  if a.isNaN ∨ b.isNaN then
    (decide (op = .ne), flagIf (decide (op = .lt) || decide (op = .le)) .invalid ||| sigFlags [a, b])
  else
    (match op with
     | .lt => decide (a.cmp b < 0)
     | .le => decide (a.cmp b ≤ 0)
     | .eq => decide (a.cmp b = 0)
     | .ne => decide (a.cmp b ≠ 0), noFlags)

/-! ## Values of the functions, in fixed point with 200 fraction bits -/

def fxOne : Int := (2 ^ 200 : Nat)
def fxLn2 : Int := 1113844574712631719546256151097547306333272293549090750737802
def fxLog2e : Int := 2318321547468254865173387471183990171487108758923299108729110
def fxPi : Int := 5048344754617993871973410141242436836214643421488662971535368

/-- A finite number in fixed point, rounded down. -/
def fxOf (x : Num) : Int :=
  match x with
  | .fin n m e =>
    let v : Int := if -200 ≤ e then (m * 2 ^ (e + 200).toNat : Nat) else (m / 2 ^ (-(e + 200)).toNat : Nat)
    if n then -v else v
  | _ => 0

def fxNum (x : Int) : Num := .fin (decide (x < 0)) x.natAbs (-200)
def fxMul (a b : Int) : Int := a * b / fxOne

/-- The sum of the Taylor series of e^x, from term `k`; `fuel` terms remain. -/
def fxExpSum (x : Int) : Nat → Nat → Int → Int
  | 0, _, _ => 0
  | fuel + 1, k, t => t + fxExpSum x fuel (k + 1) (fxMul t x / (k + 1 : Nat))

/-- 2^x for fixed-point x, |x| held below 400. -/
def exp2Fx (x : Int) : Num :=
  let x := max (-400 * fxOne) (min (400 * fxOne) x)
  let n := x / fxOne
  .fin false (fxExpSum (fxMul (x - n * fxOne) fxLn2) 50 0 fxOne).toNat (n - 200)

def expFx (x : Int) : Num := exp2Fx (fxMul (max (-500 * fxOne) (min (500 * fxOne) x)) fxLog2e)

/-- Fraction bits of log2 of x in [1, 2), by repeated squaring. -/
def log2Bits : Nat → Nat → Nat → Nat
  | 0, _, acc => acc
  | k + 1, x, acc =>
    let y := x * x / 2 ^ 200
    if 2 ^ 201 ≤ y then log2Bits k (y / 2) (2 * acc + 1) else log2Bits k y (2 * acc)

/-- log2 of m × 2^e for m ≠ 0, with 100 fraction bits. -/
def log2Num (m : Nat) (e : Int) : Num :=
  let x := m * 2 ^ 200 / 2 ^ Nat.log2 m
  let v : Int := leadExp m e * (2 ^ 100 : Nat) + (log2Bits 100 x 0 : Nat)
  .fin (decide (v < 0)) v.natAbs (-100)

/-- The alternating series of sine (start 1) and cosine (start 0) in x². -/
def fxTrig (x2 : Int) : Nat → Nat → Int → Int
  | 0, _, _ => 0
  | fuel + 1, k, t => t + fxTrig x2 fuel (k + 2) (-(fxMul t x2) / ((k + 1) * (k + 2) : Nat))

/-- x reduced to [−π, π). -/
def fxReduce (x : Int) : Int := (x + fxPi) % (2 * fxPi) - fxPi

def sinFx (x : Int) : Num := let r := fxReduce x; fxNum (fxTrig (fxMul r r) 40 1 r)
def cosFx (x : Int) : Num := let r := fxReduce x; fxNum (fxTrig (fxMul r r) 40 0 fxOne)

/-- e^-|x| in fixed point. -/
def fxExpNeg (x : Int) : Int := fxOf (expFx (-(x.natAbs : Int)))

def tanhFx (x : Int) : Num :=
  let t := fxExpNeg (2 * x)
  let v := (fxOne - t) * fxOne / (fxOne + t)
  fxNum (if x < 0 then -v else v)

def sigmoidFx (x : Int) : Num :=
  let t := fxExpNeg x
  fxNum ((if x < 0 then t else fxOne) * fxOne / (fxOne + t))

/-! ## The operations that meet a bound (R205, R206) -/

inductive Func1 where
  | rcp | rsqrt | exp2 | exp | log2 | ln | tanh | sigmoid | silu | sin | cos
  deriving DecidableEq, Repr

/-- What a bounded operation may give: a stated special result; a value with an absolute bound, and whether `y` is the exact
result and not only as many bits of it; or any value of [−1, 1]. -/
inductive Allow where
  | special (x : Num) (fl : BitVec 5)
  | near (y err : Num) (exact : Bool)
  | unit
  deriving DecidableEq, Repr

/-- `n` ulps of FP32 at the magnitude of y. -/
def ulps (n : Nat) (y : Num) : Num :=
  match y with
  | .fin _ m e => .fin false n ((if m = 0 then -126 else max (leadExp m e) (-126)) - 23)
  | _ => .fin false 0 0

def maxNumB (a b : Num) : Num := if a.cmp b < 0 then b else a

/-- LOG2 and LN with their absolute bound near 1. -/
def nearLog (a y : Num) (n : Nat) (exact : Bool) : Allow :=
  let near1 := decide (0 ≤ a.cmp (.fin false 1 (-1))) && decide (a.cmp (.fin false 1 1) ≤ 0)
  .near y (if near1 then maxNumB (ulps n y) (.fin false 1 (-22)) else ulps n y) exact

/-- m is a power of two. -/
def isPow2 (m : Nat) : Bool := decide (m = 2 ^ Nat.log2 m)

/-- What an operation may give for an operand that is not NaN. -/
def allow1 (op : Func1) (a : Num) : Allow :=
  match op, a with
  | .exp2, .inf n => .special (if n then .fin false 0 0 else .inf false) noFlags
  | .exp, .inf n => .special (if n then .fin false 0 0 else .inf false) noFlags
  | .exp2, x => .near (exp2Fx (fxOf x)) (ulps 2 (exp2Fx (fxOf x))) (decide (fxOf x % fxOne = 0))
  | .exp, x => .near (expFx (fxOf x)) (ulps 3 (expFx (fxOf x))) x.isZero
  | .log2, .inf n => if n then .special nanCanon fInvalid else .special (.inf false) noFlags
  | .ln, .inf n => if n then .special nanCanon fInvalid else .special (.inf false) noFlags
  | .log2, .fin n m e =>
    if m = 0 then .special (.inf true) fDivZero else if n then .special nanCanon fInvalid
    else nearLog a (log2Num m e) 2 (isPow2 m)
  | .ln, .fin n m e =>
    if m = 0 then .special (.inf true) fDivZero else if n then .special nanCanon fInvalid
    else
      let y := Num.mul true (log2Num m e) (fxNum fxLn2)
      nearLog a y 3 y.isZero
  | .rcp, .inf n => .special (.fin n 0 0) noFlags
  | .rcp, .fin n m e =>
    if m = 0 then .special (.inf n) fDivZero
    else let y := quotNum n 1 0 m e; .near y (ulps 1 y) (isPow2 m)
  | .rsqrt, .inf n => if n then .special nanCanon fInvalid else .special (.fin false 0 0) noFlags
  | .rsqrt, .fin n m e =>
    if m = 0 then .special (.inf n) fDivZero else if n then .special nanCanon fInvalid
    else
      match quotNum false 1 0 m e with
      | .fin _ m' e' => let y := sqrtNum m' e'; .near y (ulps 2 y) (isPow2 m && decide (leadExp m e % 2 = 0))
      | y => .near y y true
  | .tanh, .inf n => .special (.fin n 1 0) noFlags
  | .tanh, x => let y := tanhFx (fxOf x); .near y (maxNumB (ulps 3 y) (.fin false 1 (-23))) x.isZero
  | .sigmoid, .inf n => .special (if n then .fin false 0 0 else .fin false 1 0) noFlags
  | .sigmoid, x => let y := sigmoidFx (fxOf x); .near y (maxNumB (ulps 3 y) (.fin false 1 (-23))) x.isZero
  | .silu, .inf n => .special (if n then .fin true 0 0 else .inf false) noFlags
  | .silu, x =>
    let y := Num.mul true x (sigmoidFx (fxOf x))
    .near y (maxNumB (ulps 4 y) (x.mag.scale (-23))) x.isZero
  | .sin, .inf _ => .special nanCanon fInvalid
  | .cos, .inf _ => .special nanCanon fInvalid
  | .sin, x => if x.mag.cmp (.fin false 1 16) ≤ 0 then .near (sinFx (fxOf x)) (.fin false 1 (-21)) x.isZero else .unit
  | .cos, x => if x.mag.cmp (.fin false 1 16) ≤ 0 then .near (cosFx (fxOf x)) (.fin false 1 (-21)) x.isZero else .unit
  | _, x => .special x noFlags

/-- Whether a magnitude overflows to infinity under a rounding (R103): a directed one gives infinity away from zero only. -/
def infReach (md : Rnd) (neg : Bool) (top : Num) : Bool :=
  let past := decide (0 < top.cmp (.fin false (2 ^ 24 - 1) 104))
  match md with
  | .zero => false
  | .up => !neg && past
  | .down => neg && past
  | _ => decide (0 ≤ top.cmp (.fin false (2 ^ 25 - 1) 103))

/-- Whether FP32 value `v` lies within `err` of `y`; the value of `y` held here is good to far under 2^-60 of any bound. An
infinity is within reach where a value within `err` of `y` overflows (R103). -/
def within (md : Rnd) (y err v : Num) : Bool :=
  match v with
  | .nan _ _ _ => false
  | .inf n => decide (n = y.neg) && infReach md n (Num.add true false y.mag err)
  | _ => decide ((Num.add true false v y.negate).mag.cmp err ≤ 0)

/-- A result that the spec bounds: the free word where the bound admits it, else `y` rounded by `md`, which lies within the
bound in both modes and under every rounding code (R205): no flush of a subnormal. It is inexact unless it is the exact result
(R209). -/
def laneFree (strict : Bool) (md : Rnd) (y err : Num) (exact : Bool) (free : W32) (fl : BitVec 5) : Lane :=
  let v := fp32Num free
  let near := laneRound true md y 0
  let w := if within md y err v then free else near.word
  let x := fp32Num w
  let inex := !exact || decide (x.cmp y ≠ 0) || x.isInf
  let past := x.isInf || (match y with
    | .fin n m e => decide (fFP32.maxCode < fFP32.roundMag md n m e) && decide (w = near.word)
    | _ => false)
  ⟨w, modeFlags strict (fl ||| flagIf past .overflow ||| flagIf (inex || past) .inexact
    ||| flagIf (inex && (match y with
        | .fin n m e => fFP32.tiny md n m e
        | _ => false)) .underflow)⟩

/-- A lane of a bounded operation (R205, R206). -/
def laneFunc (op : Func1) (strict : Bool) (md : Rnd) (free : W32) (a : Num) : Lane :=
  if a.isNaN then laneRound strict .near (firstNaN strict [a]) (sigFlags [a])
  else match allow1 op a with
    | .special x fl => laneRound strict .near x fl
    | .near y err exact => laneFree strict md y err exact free noFlags
    | .unit =>
      if (fp32Num free).isNaN ∨ 0 < (fp32Num free).mag.cmp (.fin false 1 0) then ⟨0, modeFlags strict (flagIf true .inexact)⟩
      else ⟨free, modeFlags strict (flagIf true .inexact)⟩

/-! ## Reductions (R203, R207) -/

/-- ceil(log2 n). -/
def clog2 (n : Nat) : Nat := if n ≤ 1 then 0 else Nat.log2 (n - 1) + 1

/-- RSUM of the selected elements: any FP32 value within the bound of R207. DESIGN CHOICE (notes/assumptions/108.md): of several
NaN elements, the one of the lowest column is the first operand in strict mode; so in RMAX and RAMAX. -/
def laneSum (strict : Bool) (rndNear : Bool) (md : Rnd) (free : W32) (xs : List Num) : Lane :=
  if xs = [] then ⟨0, 0⟩
  else if xs.any Num.isNaN then laneRound strict .near (firstNaN strict xs) (sigFlags xs)
  else
    let sum := xs.foldl (fun a x => Num.add true false a x) (.fin false 0 0)
    let bad := xs.any (fun x => decide (x = .inf true)) && xs.any (fun x => decide (x = .inf false))
    if bad then laneRound strict .near nanCanon fInvalid
    else match sum with
      | .inf n => laneRound strict .near (.inf n) 0
      | y =>
        let n := xs.length
        let k := clog2 (min n 512) + (n + 511) / 512
        let mags := xs.foldl (fun a x => Num.add true false a x.mag) (.fin false 0 0)
        let err := Num.mul true (.fin false k (if rndNear then -24 else -23)) mags
        let err := if strict then err else Num.add true false err (.fin false n (-126))
        laneFree strict md y err true free noFlags

/-- RMAX and RAMAX (R207): exact before conversion; the NaN as in `laneSum`. -/
def laneMaxOf (strict : Bool) (mag : Bool) (xs : List Num) : Lane :=
  if xs.any Num.isNaN then laneRound strict .near (firstNaN strict xs) (sigFlags xs)
  else if mag then laneRound strict .near (xs.foldl (fun a x => maxNum a x.mag) (.fin false 0 0)) 0
  else laneRound strict .near (xs.foldl maxNum (.inf true)) 0

end Sys2Proof.Machine
end

