-- ==== Sys2Proof/Machine/Fill.lean ====
section
/-!
DEFINITION. The fields of a stream descriptor (R216, R217), the rings of a tile's bound streams and the interlock of
their fill bits with the tile's own engines (R220, R221, R232); the fields of a DRAIN (R126) and the hand-over of its rows to a
later stage of its chain (R244).
-/
namespace Sys2Proof.Machine

/-! ## The descriptor of a stream: the words of its STE_OPEN -/

def Stream.w (x : Stream) (i : Nat) : Nat := (x.words.getD i 0).toNat

/-- DIR of R216: 1 for a store. -/
def opStore (w6 : Nat) : Bool := decide (bitsOf w6 59 59 = 1)
def opElem (w6 : Nat) : Nat := 2 ^ bitsOf w6 58 56
def opFar (w6 : Nat) : Nat := bitsOf w6 47 0
def opBuf (w7 : Nat) : Nat := (bitsOf w7 63 52 + 1) * 4096
def opBufAddr (w7 : Nat) : Nat := bitsOf w7 47 0

/-- CNTd of a descriptor's words. -/
def opCnt (w : Nat → Nat) (d : Nat) : Nat := (if d < 4 then bitsOf (w 8) (16 * d + 15) (16 * d) else bitsOf (w 9) 63 48) + 1

/-- STRIDEd, signed. -/
def opStride (w : Nat → Nat) (d : Nat) : Int := signedOf 48 (w (9 + d))

/-- LEN of a descriptor (R217). -/
def opLen (w : Nat → Nat) : Nat := opElem (w 6) * (opCnt w 0 * opCnt w 1 * opCnt w 2 * opCnt w 3 * opCnt w 4)

/-- Index `d` of the cursor of element `k` (R217). -/
def opIdx (w : Nat → Nat) (k d : Nat) : Nat :=
  k / ((List.range d).foldl (fun a i => a * opCnt w i) 1) % opCnt w d

/-- The far address of element `k` (R217), an address modulo 2^48. -/
def opFarOf (w : Nat → Nat) (k : Nat) : Nat :=
  (((List.range 5).foldl (fun (a : Int) d => a + (opIdx w k d : Int) * opStride w d) (opFar (w 6) : Int)) % (2 ^ 48 : Nat)).toNat

def opRate (w : Nat → Nat) : Nat := bitsOf (w 14) 63 44
/-- TMO_US: zero means 10 s. -/
def opTmo (w : Nat → Nat) : Nat := if bitsOf (w 14) 23 0 = 0 then 10000000 else bitsOf (w 14) 23 0
/-- The bytes a load fetches ahead at most: min(BUF, AHEAD_4K × 4 KiB), where 0 means BUF. -/
def opAhead (w : Nat → Nat) : Nat :=
  if bitsOf (w 15) 31 20 = 0 then opBuf (w 7) else min (opBuf (w 7)) (bitsOf (w 15) 31 20 * 4096)

def Stream.len (x : Stream) : Nat := opLen x.w
def Stream.buf (x : Stream) : Nat := opBuf (x.w 7)
def Stream.bufAddr (x : Stream) : Nat := opBufAddr (x.w 7)
def Stream.elem (x : Stream) : Nat := opElem (x.w 6)

/-- A stream is bound from its STE_OPEN to its STE_CLOSE. -/
def Stream.bound (x : Stream) : Bool := decide (x.st ≠ .idle)

def Ste.stream (e : Ste) (sid : Nat) : Stream := SMap.get .reset e.streams sid
def Ste.setStream (e : Ste) (sid : Nat) (x : Stream) : Ste := { e with streams := SMap.set .reset e.streams sid x }

/-- The partition that a tile's stream works for. -/
def State.steOwner (s : State) (t : Nat) : Nat := (s.partOfTile t).getD 0

/-- The physical address of a ring byte. -/
def State.ringAddr (s : State) (t : Nat) (x : Stream) (off : Nat) : Nat :=
  (s.heldAddr (s.steOwner t) x.held (x.bufAddr + off % x.buf)).getD 0

/-- The ring granules that lie at physical granule `g`. -/
def State.ringGranules (s : State) (t : Nat) (x : Stream) (g : Nat) : List Nat :=
  x.held.filterMap (fun m =>
    let base := s.placeAddr (s.steOwner t) m.pa 0
    let va := m.page * 65536 + (g * 64 - base)
    if base ≤ g * 64 ∧ g * 64 < base + 65536 ∧ x.bufAddr ≤ va ∧ va < x.bufAddr + x.buf then some ((va - x.bufAddr) / 64)
    else none)

/-- What the fill bits say of an engine's access: it goes on, it waits, or it faults. -/
inductive Gate where
  | go | wait
  | bad (b : Bad)
  deriving DecidableEq, Repr

def Gate.join : Gate → Gate → Gate
  | .bad b, _ => .bad b
  | _, .bad b => .bad b
  | .wait, _ => .wait
  | .go, g => g

/-- One access and then the next: what the first meets comes first. -/
def Gate.andThen : Gate → Gate → Gate
  | .go, g => g
  | g, _ => g

/-- A granule of a FAULTED load's ring was returned after the fault: its bit is 0 and it was never aborted (R221, R222). -/
def Stream.returned (x : Stream) (i : Nat) : Bool :=
  decide ((64 * i + x.buf - x.faultB % x.buf) % x.buf < x.fB - x.faultB)

/-- A read by an engine of tile `t` of physical granule `g` (R221, R232). Of a FAULTED stream's ring, a granule that is
no longer aborted reads as its bytes stand; one that was returned waits as on any ring. -/
def State.gateReadG (s : State) (t g : Nat) : Gate :=
  match (s.tile t).aborted.find? (fun e => decide (e.1 = g)) with
  | some e => .bad ⟨0x0E, 0, e.2, 1, g * 64, 0x7F⟩
  | none =>
    if (s.ste t).streams.any (fun e => e.2.bound && !e.2.store &&
        (s.ringGranules t e.2 g).any (fun i => !(SMap.get false e.2.fill i) && (decide (e.2.st ≠ .faulted) || e.2.returned i)))
      then .wait else .go

/-- A write by an engine of tile `t` of physical granule `g`. -/
def State.gateWriteG (s : State) (t g : Nat) : Gate :=
  if (s.ste t).streams.any (fun e => e.2.bound && !e.2.store && (s.ringGranules t e.2 g) ≠ []) then
    .bad ⟨0x03, 0, 0, 1, g * 64, 0x7F⟩
  else if (s.ste t).streams.any (fun e => e.2.bound && e.2.store &&
        (s.ringGranules t e.2 g).any (fun i => SMap.get false e.2.fill i)) then .wait else .go

/-- The gate of granule `g` of tile `t`: the matrix engine's fold area is out of bounds (R142), the rings are interlocked. -/
def State.gateG (s : State) (t : Nat) (wr : Bool) (g : Nat) : Gate :=
  if s.inFold (g * 64) 64 then .bad ⟨0x03, 0, 0, 1, g * 64, 0x7F⟩
  else if wr then s.gateWriteG t g else s.gateReadG t g

/-- Nothing on the tile holds an access back. -/
def State.gateIdle (s : State) (t : Nat) : Bool :=
  decide ((s.tile t).aborted = []) && decide ((s.ste t).streams = []) && decide (s.foldArea t = none)

/-- The gate of [va, va + n) of tile `t`'s scratchpad for one of its engines, through held pages. Other memory is not
interlocked. -/
def State.gate (s : State) (t p : Nat) (held : List PageMap) (wr : Bool) (va n : Nat) : Gate :=
  if n = 0 ∨ s.gateIdle t then .go
  else
    (List.range ((va + n - 1) / 64 + 1 - va / 64)).foldl (fun g i =>
      match s.heldAddr p held ((va / 64 + i) * 64) with
      | some a => g.join (if physAt a = .scratch t then s.gateG t wr (a / 64) else .go)
      | none => g) .go

/-- The gates of several ranges (write?, address, length). -/
def State.gates (s : State) (t p : Nat) (held : List PageMap) (rs : List (Bool × Nat × Nat)) : Gate :=
  rs.foldl (fun g r => g.join (s.gate t p held r.1 r.2.1 r.2.2)) .go

/-- The same for a physical range. -/
def State.gatePhys (s : State) (t : Nat) (wr : Bool) (a n : Nat) : Gate :=
  if n = 0 ∨ s.gateIdle t then .go
  else (List.range ((a + n - 1) / 64 + 1 - a / 64)).foldl (fun g i => g.join (s.gateG t wr (a / 64 + i))) .go

/-- A fault of a running command at tile `t` (R418). -/
def State.failTile (s : State) (r : CmdRef) (b : Bad) (t : Nat) : State := s.failRef r b 0 t 0

/-! ## The fields of a DRAIN (R126, R154), and hand-over (R243, R244) -/

def drDaddr (c : Cmd) : Nat := bitsOf (c.word 6) 47 0
def drPitch (c : Cmd) : Nat := bitsOf (c.word 7) 63 40
def drOfmt (c : Cmd) : Nat := bitsOf (c.word 6) 52 48
def drSlot (c : Cmd) : Nat := bitsOf (c.word 6) 62 62
def drStrict (c : Cmd) : Bool := decide (bitsOf (c.word 6) 63 63 = 1)
def drM (c : Cmd) : Nat := bitsOf (c.word 7) 8 0 + 1
def drRow0 (c : Cmd) : Nat := bitsOf (c.word 7) 31 23
def drN (c : Cmd) : Nat := bitsOf (c.word 7) 39 32 + 1
def drSmode (c : Cmd) : Nat := bitsOf (c.word 8) 60 59
def drSrec (c : Cmd) : Nat := bitsOf (c.word 8) 47 0
def drRptEn (c : Cmd) : Bool := decide (bitsOf (c.word 9) 63 63 = 1)
def drRpt (c : Cmd) : Nat := bitsOf (c.word 9) 47 0
def drAux (c : Cmd) : Nat := bitsOf (c.word 10) 47 0
def drAuxPitch (c : Cmd) : Nat := bitsOf (c.word 11) 23 0

/-- A drain that can make a rescale retry: fast, SMODE 0, OFMT other than 0x09 and 0x0B (R121). -/
def drainMayRetry (smode ofmt : Nat) (strict : Bool) : Bool :=
  !strict && decide (smode = 0) && decide (ofmt ≠ 0x09) && decide (ofmt ≠ 0x0B)

/-- The byte lies in output row `k` of a drain. -/
def inRow (c : Cmd) (a k : Nat) : Bool :=
  decide (drDaddr c + k * drPitch c ≤ a) && decide (a < drDaddr c + k * drPitch c + packedBytes (fmtBits (drOfmt c)) (drN c))

/-- The byte lies in one of the first `n` output rows. -/
def inRows (c : Cmd) (n a : Nat) : Bool := (List.range n).any (inRow c a)

/-- The byte lies in the scales at AUX_ADDR that a drain has written with its first `n` rows: the channel scales, written
before the first row, or one scale per 32 columns of each row (R164, R165). -/
def inAux (c : Cmd) (n a : Nat) : Bool :=
  if drSmode c = 1 then decide (0 < n) && decide (drAux c ≤ a) && decide (a < drAux c + 4 * drN c)
  else if drSmode c = 2 then
    (List.range n).any (fun k => decide (drAux c + k * drAuxPitch c ≤ a)
      && decide (a < drAux c + k * drAuxPitch c + (drN c + 31) / 32))
  else false

/-- The byte lies in the scale record or the drain report, which a drain writes as it completes (R158). -/
def inRecords (c : Cmd) (a : Nat) : Bool :=
  (decide (drSrec c ≤ a) && decide (a < drSrec c + 64))
    || (drRptEn c && decide (drRpt c ≤ a) && decide (a < drRpt c + 64))

/-- A granule that the drain writes is final once every byte of it has been written with the rows so far and no row to come
writes there; where the drain may make a retry, once its reading that stands has ended; where it writes the granule only in part
or writes a record there, once it completes (R244). A granule it does not write is not waited on. -/
def granuleFinal (d : DrainOp) (c : Cmd) (g : Nat) : Bool :=
  let bytes := (List.range 64).map (fun i => g * 64 + i)
  let by_ := fun n a => inRows c n a || inAux c n a
  let later := bytes.any (fun a => ((List.range (drM c)).drop d.next).any (fun k => inRow c a k))
  !(bytes.any (fun a => by_ (drM c) a || inRecords c a))
    || ((!(drainMayRetry (drSmode c) (drOfmt c) (drStrict c)) || d.final) && !later && !(bytes.any (inRecords c))
        && bytes.all (by_ d.next))

/-- A chain stage that reads what an earlier DRAIN of its chain still writes waits for the granules that are not final. -/
def State.handOver (s : State) (t : Nat) (r : CmdRef) (rd : List (Nat × Nat)) : Gate :=
  match r.stage with
  | none => .go
  | some i =>
    if (s.mxe t).drains.any (fun d =>
        decide (d.ref.q = r.q) && decide (d.ref.head = r.head) && decide (d.ref.stage.getD i < i) &&
        (match s.cmdAt d.ref with
         | some c => rd.any (fun x => (List.range ((x.1 + x.2 + 63) / 64 - x.1 / 64)).any (fun g =>
             !(granuleFinal d c (x.1 / 64 + g))))
         | none => false)) then .wait else .go

end Sys2Proof.Machine
end

