-- ==== Sys2Proof/Machine/Matrix.lean ====
section
/-!
DEFINITION. The matrix arrays and accumulator slots (R112–R152): the bodies and checks of LOADW, PASS and DRAIN, passes
and their issues, the addition of column words to slot rows with folds and overflow replays, and SAVE and RESTORE.
LOADW itself stands with the operand expander in Books.lean, the drain in Quantiser.lean.
-/
namespace Sys2Proof.Machine

/-! ## Watchdogs (R423) and the generator (R107–R110) -/

/-- The island an engine's unit lies in. -/
def engIsland (e : Eng) (u : Nat) : Island :=
  match e with
  | .mxe => .tile u
  | .vxe => .tile u
  | .ste => .tile u
  | .nme => .base u
  | .cle => .link u
  | .kpr => .keeper u

/-- The partition whose FLT_ENG_TMO watches an engine. -/
def State.engPart (s : State) (e : Eng) (u : Nat) : Option Nat :=
  match e with
  | .mxe => s.partOfTile u
  | .vxe => s.partOfTile u
  | .ste => s.partOfTile u
  | .nme => s.partOfStack u
  | .cle => s.partOfLg u
  | .kpr => s.partOfKp u

/-- A step of progress restarts an engine's watchdog; an engine with no begun command has none (R423). -/
def State.progress (s : State) (e : Eng) (u : Nat) (busy : Bool) : State :=
  if busy then
    match s.engPart e u with
    | some p => s.startTimer (.engine e u) (engIsland e u) (s.cfg .flt p 0x28 15 0 * 1000)
    | none => s
  else s.stopTimer (.engine e u)

/-- One 16-bit draw of a tile's generator (R107, R108); FIXED replaces it with FIXED_DRAW (R109). -/
def State.draw16 (s : State) (t : Nat) : Nat × State :=
  if s.cfg .tile t 0x50 16 16 = 1 then (s.cfg .tile t 0x50 15 0, s)
  else
    let d := s.draw 16
    (d.1.toNat, d.2)

/-- RESEED (R109): writing 1 to TILE_RNG_CTL.RESEED starts a seeding from the security block. -/
def execReseed (m : Master) (t : Fin 48) (s : State) : Result :=
  .next (if s.reaches m ⟨.tile, t.val⟩ then s.setTile t.val { s.tile t.val with reseeding := true } else s)

/-- RESEED_DONE (R110): the new seed is in use and the seeding is counted. -/
def execReseedDone (t : Fin 48) (s : State) : Result :=
  .next (
    let x := s.tile t.val
    if x.reseeding then s.setTile t.val { x with reseeding := false, reseeds := x.reseeds + 1 } else s)

/-! ## Command bodies (R124–R126) -/

def ldWaddr (c : Cmd) : Nat := bitsOf (c.word 6) 47 0
def ldFmt (c : Cmd) : Nat := bitsOf (c.word 6) 52 48
def ldBook (c : Cmd) : Nat := bitsOf (c.word 6) 55 53
def ldGen (c : Cmd) : Nat := bitsOf (c.word 6) 63 56
def ldK (c : Cmd) : Nat := bitsOf (c.word 7) 7 0 + 1
def ldN (c : Cmd) : Nat := bitsOf (c.word 7) 15 8 + 1
def ldPitch (c : Cmd) : Nat := bitsOf (c.word 7) 63 40
def ldMxs (c : Cmd) : Bool := decide (c.ext = 1) && decide (bitsOf (c.word 8) 48 48 = 1)
def ldSaddr (c : Cmd) : Nat := bitsOf (c.word 8) 47 0
def ldSpitch (c : Cmd) : Nat := bitsOf (c.word 9) 23 0

def psAaddr (c : Cmd) : Nat := bitsOf (c.word 6) 47 0
def psFmt (c : Cmd) : Nat := bitsOf (c.word 6) 52 48
def psSlot (c : Cmd) : Nat := bitsOf (c.word 6) 58 58
def psAcc (c : Cmd) : Bool := decide (bitsOf (c.word 6) 59 59 = 1)
def psComp (c : Cmd) : Bool := decide (bitsOf (c.word 6) 60 60 = 1)
def psStrict (c : Cmd) : Bool := decide (bitsOf (c.word 6) 61 61 = 1)
def psTrans (c : Cmd) : Bool := decide (bitsOf (c.word 6) 62 62 = 1)
def psSwap (c : Cmd) : Bool := decide (bitsOf (c.word 6) 63 63 = 1)
def psM (c : Cmd) : Nat := bitsOf (c.word 7) 8 0 + 1
def psRow0 (c : Cmd) : Nat := bitsOf (c.word 7) 31 23
def psPitch (c : Cmd) : Nat := bitsOf (c.word 7) 63 40
def psAux (c : Cmd) : Nat := bitsOf (c.word 8) 47 0
def psMxs (c : Cmd) : Bool := decide (c.ext = 1) && decide (bitsOf (c.word 8) 53 53 = 1)
def psZpMode (c : Cmd) : Nat := if c.ext = 1 then bitsOf (c.word 8) 55 54 else 0
def psZp (c : Cmd) : Nat := bitsOf (c.word 8) 63 56
def psAuxPitch (c : Cmd) : Nat := bitsOf (c.word 9) 23 0

/-- Bytes of `m` rows `pitch` apart, the last `len` long. -/
def rowsSpan (m pitch len : Nat) : Nat := (m - 1) * pitch + len

/-! ## Checks (R80, R127–R129) -/

/-- A range in the TARGET tile's scratchpad, located by word `w`. -/
def inTile (c : Cmd) (va n w : Nat) (wr : Bool) : PRange := ⟨va, n, wr, inWord w, some c.target⟩

/-- The check of a LOADW (R80, R100, R127). A pattern code's rows are `codeRow` bytes long (R173). -/
def chkLoadw (s : State) (p : Nat) (c : Cmd) (codeRow : Nat) (book : List (Bool × Bad)) : Except Bad Plan :=
  let f := ldFmt c
  let row := if f = 0x0C then codeRow else packedBytes (fmtBits f) (ldN c)
  checked
    ([(decide (1 < c.ext), badWord 0)] ++ s.tileChecks p c ++
     [(decide (f = 0x00) || decide (f = 0x09) || decide (f = 0x0B) || !(s.fmtOn p f), badWord 6),
      (decide (f ≠ 0x0C) && (decide (ldBook c ≠ 0) || decide (ldGen c ≠ 0)), badWord 6),
      (decide (bitsOf (c.word 7) 39 16 ≠ 0), badWord 7)] ++
     (if c.ext = 1 then
       [(decide (bitsOf (c.word 8) 63 49 ≠ 0), badWord 8), (decide (bitsOf (c.word 9) 63 24 ≠ 0), badWord 9),
        (ldMxs c && (!(s.modeOn p 3) || !(decide (5 ≤ f) && decide (f ≤ 7))), badWord 8)] ++ extZero c 2 7
      else []) ++ book)
    (planOf ([inTile c (ldWaddr c) (rowsSpan (ldK c) (ldPitch c) row) 6 false] ++
      (if ldMxs c then [inTile c (ldSaddr c) (rowsSpan ((ldK c + 31) / 32) (ldSpitch c) (ldN c)) 8 false] else [])))

/-- The block a pass will use (R128): K_VALID and N_VALID of the shadow buffer where it swaps, or where an earlier pass
of its queue still waits to; of the active buffer otherwise. The array-state fault is R129's. -/
def passBlock (m : Mxe) (dq : Nat) (swap : Bool) : Option WBuf :=
  let pendingSwap := m.passes.any (fun x => decide (x.ref.q = dq) && x.started && !x.swapped)
  if swap then
    (if pendingSwap ∨ m.shd.st = .empty ∨ m.shd.claim ≠ some dq then none else some m.shd)
  else if pendingSwap then
    (if m.shd.st = .empty ∨ m.shd.claim ≠ some dq then none else some m.shd)
  else if m.act.st = .empty ∨ m.act.claim ≠ some dq then none
  else some m.act

/-- The array-state fault (R129). -/
def badArray : Bad := ⟨0x08, 0, 0, 2, 0, 0x7F⟩

/-- Claims that refuse a PASS with ACC = 1 or a DRAIN: the slot is another queue's. -/
def slotTaken (sl : Slot) (dq : Nat) : Bool := sl.claim.isSome && decide (sl.claim ≠ some dq)

def Mxe.slot (m : Mxe) (i : Nat) : Slot := if i = 0 then m.slot0 else m.slot1
def Mxe.setSlot (m : Mxe) (i : Nat) (x : Slot) : Mxe := if i = 0 then { m with slot0 := x } else { m with slot1 := x }

/-- The activation row's element count for a block (R128). -/
def passElems (trans : Bool) (b : WBuf) : Nat := if trans then b.nValid else b.kValid

/-- The check of a PASS (R80, R127–R129); `dq` is the device queue. -/
def chkPass (s : State) (p dq : Nat) (c : Cmd) : Except Bad Plan :=
  let f := psFmt c
  let m := s.mxe c.target
  let blk := passBlock m dq (psSwap c)
  let n := (blk.map (passElems (psTrans c))).getD 0
  let aux := if psZpMode c = 2 then psM c
    else if psMxs c then rowsSpan (psM c) (psAuxPitch c) ((n + 31) / 32) else 0
  checked
    ([(decide (1 < c.ext), badWord 0)] ++ s.tileChecks p c ++
     [(decide (bitsOf (c.word 6) 57 53 ≠ 0), badWord 6),
      (decide (f = 0x00) || decide (f = 0x0C) || !(s.fmtOn p f), badWord 6),
      (psStrict c && !(s.modeOn p 0), badWord 6), (psComp c && !(s.modeOn p 1), badWord 6),
      (psComp c && psStrict c, badWord 6),
      (decide (bitsOf (c.word 7) 39 32 ≠ 0) || decide (bitsOf (c.word 7) 22 9 ≠ 0), badWord 7),
      (decide (512 < psRow0 c + psM c), badWord 7)] ++
     (if c.ext = 1 then
       [(decide (bitsOf (c.word 8) 52 48 ≠ 0), badWord 8), (decide (bitsOf (c.word 9) 63 24 ≠ 0), badWord 9),
        (psMxs c && (!(s.modeOn p 3) || !(decide (5 ≤ f) && decide (f ≤ 7))), badWord 8)] ++ extZero c 2 7
      else []) ++
     [(decide (psZpMode c = 3) ||
        (decide (psZpMode c = 0) && (decide (f = 0x09) || decide (f = 0x0B))) ||
        (decide (psZpMode c ≠ 0) && !(decide (f = 0x09) || decide (f = 0x0B))), badWord 8),
      (blk.isNone, badArray),
      (psAcc c && (slotTaken (m.slot (psSlot c)) dq || (psComp c && slotTaken (m.slot (1 - psSlot c)) dq)), badArray)])
    (planOf ([inTile c (psAaddr c) (rowsSpan (psM c) (psPitch c) (packedBytes (fmtBits f) n)) 6 false] ++
      (if aux = 0 then [] else [inTile c (psAux c) aux 8 false])))

/-! ## Passes (R117–R121) -/

/-- A running SAVE or RESTORE has a slot that a PASS addresses, or both slots under COMP: the PASS waits at its boundary
(R150). -/
def Mxe.saveTakes (m : Mxe) (slot : Nat) (both : Bool) : Bool :=
  match m.save with
  | none => false
  | some o => o.slots.getLsbD slot || (both && o.slots.getLsbD (1 - slot))

/-- Replace the operation that a reference names in a list of passes. -/
def updPass (ps : List PassOp) (r : CmdRef) (f : PassOp → PassOp) : List PassOp :=
  ps.map (fun x => if x.ref = r then f x else x)

/-- MXE_PASS (R117, R129): the oldest begun pass starts; with ACC = 0 it takes its slot, or both under COMP; with
SWAP = 0 it uses the active buffer as it stands. -/
def execMxePass (t : Fin 48) (s : State) : Result :=
  .next (
    let m := s.mxe t.val
    match m.passes.find? (fun x => !x.started) with
    | none => s
    | some x =>
      match s.cmdAt x.ref with
      | none => s
      | some c =>
        if m.saveTakes (psSlot c) (psComp c) then s else
        let take := fun (sl : Slot) => { sl with claim := some x.ref.q }
        let m := if psAcc c then m
          else if psComp c then { m with slot0 := take m.slot0, slot1 := take m.slot1 }
          else m.setSlot (psSlot c) (take (m.slot (psSlot c)))
        let m := { m with passes := updPass m.passes x.ref (fun y => { y with started := true, swapped := !(psSwap c) }) }
        (s.setMxe t.val m).progress .mxe t.val true)

/-- Every pass before `r` in the list has issued its last row. -/
def passesBefore (s : State) (ps : List PassOp) (r : CmdRef) : Bool :=
  (ps.takeWhile (fun x => decide (x.ref ≠ r))).all (fun x =>
    match s.cmdAt x.ref with
    | some c => decide (psM c ≤ x.next)
    | none => true)

/-- PASS_SWAP (R117, R129): the READY shadow becomes the VALID active buffer and the shadow becomes EMPTY. A pass whose
block was lost takes the array-state fault without issuing. -/
def execPassSwap (t : Fin 48) (s : State) : Result :=
  .next (
    let m := s.mxe t.val
    match m.passes.find? (fun x => x.started && !x.swapped) with
    | none => s
    | some x =>
      if m.shd.st = .empty ∨ m.shd.claim ≠ some x.ref.q then
        let s := s.setMxe t.val { m with passes := m.passes.filter (fun y => decide (y.ref ≠ x.ref)) }
        s.failRef x.ref badArray 0 t.val 0
      else if m.shd.st = .ready ∧ passesBefore s m.passes x.ref then
        s.setMxe t.val { m with
          act := m.shd, shd := .reset, swapIssued := false
          passes := updPass m.passes x.ref (fun y => { y with swapped := true }) }
      else s)

/-- Round a finite magnitude to 49 bits, to nearest even, with no limit on the exponent (R138). -/
def round49 : Num → Num
  | .fin n m e =>
    let k := Nat.log2 m
    if m = 0 ∨ k < 49 then .fin n m e else .fin n (roundUnits .near n m e (e + (k - 48 : Nat))) (e + (k - 48 : Nat))
  | x => x

/-- The column word of a list of operand pairs (activation, weight), in array order (R138). -/
def columnWord (strict : Bool) : List (Num × Num) → Num
  | [] => .fin false 0 0
  | (x, w) :: ps =>
    ps.foldl (fun a p => round49 (Num.add strict false a (Num.mul strict p.1 p.2))) (Num.mul strict x w)

/-- The weight at (k, n) of a block. -/
def WBuf.at (b : WBuf) (k n : Nat) : Num := l20Num (SMap.get 0 b.words (k * 256 + n))

/-- Element `i` of an array `b` bits wide at a translated address, through held pages (R94). -/
def State.heldElem (s : State) (p : Nat) (held : List PageMap) (va b i : Nat) : Nat :=
  s.heldLe p held (va + b * i / 8) ((b * i % 8 + b + 7) / 8) / 2 ^ (b * i % 8) % 2 ^ b

/-- The activation operands of row `i`: decoded with its zero point and block scales (R97–R101, R125). -/
def passRow (s : State) (p : Nat) (c : Cmd) (n i : Nat) : List Num :=
  let f := psFmt c
  let zp := match psZpMode c with
    | 1 => psZp c
    | 2 => s.heldLe p c.held (psAux c + i) 1
    | _ => 0
  (List.range n).map (fun k =>
    let scale := if psMxs c then some (s.heldLe p c.held (psAux c + i * psAuxPitch c + k / 32) 1) else none
    l20Num (decodeElem (psStrict c) f zp scale (s.heldElem p c.held (psAaddr c + i * psPitch c) (fmtBits f) k)))

/-- The column words of row `i` of a pass (R112). -/
def passWords (s : State) (p : Nat) (c : Cmd) (b : WBuf) (i : Nat) : List Num :=
  let xs := passRow s p c (passElems (psTrans c) b) i
  if psTrans c then
    (List.range b.kValid).map (fun k => columnWord (psStrict c) (xs.zipIdx.map (fun x => (x.1, b.at k x.2))))
  else
    (List.range b.nValid).map (fun n => columnWord (psStrict c) (xs.zipIdx.map (fun x => (x.1, b.at x.2 n))))

/-- Whether a pass uses the narrow lane (R12, R118). -/
def State.passNarrow (s : State) (p : Nat) (c : Cmd) (b : WBuf) : Bool :=
  fmtNarrow (psFmt c) && b.narrow && !(psStrict c) && s.modeOn p 2

/-- Whether a drain that began before order `o` still needs slot row `r` (R121). -/
def drainHolds (s : State) (smode : Cmd → Nat) (d : DrainOp) (o slot r : Nat) : Bool :=
  decide (d.order < o) &&
    match s.cmdAt d.ref with
    | none => false
    | some c =>
      (decide (drSlot c = slot) || d.comp) && decide (drRow0 c ≤ r) && decide (r < drRow0 c + drM c) &&
        (drainMayRetry (smode c) (drOfmt c) (drStrict c) || decide (drRow0 c + d.next ≤ r))

/-- One step of the ramp (R122): whether this ready cycle issues. -/
def rampStep (r : Ramp) : Bool × Ramp :=
  let credit := r.credit + r.cycle + 1
  let go := decide (48 ≤ credit)
  let credit := if go then credit - 48 else credit
  (go, ⟨decide (r.cycle + 1 < 48), r.cycle + 1, credit⟩)

/-- A ramp that has issued nothing yet. -/
def Ramp.unissued (r : Ramp) : Bool := r.on && decide (r.credit = r.cycle * (r.cycle + 1) / 2)

/-- The ramp for the next ready cycle: it starts anew after power-on, a reset, or 256 cycles without an issue, where the
ramp that those cycles call for has not started already. -/
def Mxe.rampNow (m : Mxe) : Ramp :=
  if m.ramped ∧ (m.idleFor < 256 ∨ m.ramp.unissued) then m.ramp else ⟨true, 0, 0⟩

/-- The pass whose row issues next: swapped, and behind passes that have issued all their rows. -/
def State.issuing (s : State) (t : Nat) : Option (PassOp × Cmd) :=
  let m := s.mxe t
  match m.passes.find? (fun x =>
      match s.cmdAt x.ref with
      | some c => decide (x.next < psM c)
      | none => false) with
  | none => none
  | some x => if x.started ∧ x.swapped then (s.cmdAt x.ref).map (fun c => (x, c)) else none

/-- The issue of the next row or row pair of pass `x` (R118, R138): its column words enter the array. DESIGN CHOICE
(notes/assumptions/106.md): a pass with SWAP = 0 issues with the active buffer as it then stands, also where another queue's pass
has swapped since its check. -/
def State.issueRows (s : State) (t p : Nat) (x : PassOp) (c : Cmd) : State :=
  let m := s.mxe t
  let b := m.act
  let narrow := s.passNarrow p c b
  let n := min (if narrow then 2 else 1) (psM c - x.next)
  let rows := (List.range n).map (fun j => (psRow0 c + x.next + j, passWords s p c b (x.next + j)))
  let m := { m with
    inArray := m.inArray ++ [⟨x.ref, passElems (psTrans c) b, rows⟩]
    passes := updPass m.passes x.ref (fun y => { y with next := y.next + n })
    swapIssued := true, gated := false, idleFor := 0 }
  let w := match s.queOwner x.ref.q with
    | some (p, q) => s.whoOf p q c
    | none => nobody
  let s := s.setMxe t m
  let s := s.countTile t 0x0101 1 w
  let s := if narrow then s.countTile t 0x0102 1 w else s
  s.progress .mxe t true

/-- What row `i` of a pass reads: its activations and its zero point or scales. -/
def passReads (c : Cmd) (n i : Nat) : List (Nat × Nat) :=
  [(psAaddr c + i * psPitch c, packedBytes (fmtBits (psFmt c)) n)] ++
    (if psZpMode c = 2 then [(psAux c + i, 1)]
     else if psMxs c then [(psAux c + i * psAuxPitch c, (n + 31) / 32)] else [])

/-- What row `i` waits for: fill bits (R221), and rows that an earlier DRAIN of its chain hands over (R244). -/
def State.passGate (s : State) (t p : Nat) (r : CmdRef) (c : Cmd) (n i : Nat) : Gate :=
  (s.gates t p c.held ((passReads c n i).map (fun x => (false, x.1, x.2)))).join (s.handOver t r (passReads c n i))

/-- MXE_ISSUE (R118, R121, R122): a ready cycle. A row stalls behind an earlier drain that still needs it; during the
ramp the credit decides whether the cycle issues. -/
def execMxeIssue (t : Fin 48) (s : State) : Result :=
  .next (
    let m := s.mxe t.val
    match s.issuing t.val with
    | none => s
    | some (x, c) =>
      let p := ((s.queOwner x.ref.q).map (·.1)).getD 0
      let two := s.passNarrow p c m.act && decide (x.next + 1 < psM c)
      let stalled := m.drains.any (fun d =>
        drainHolds s drSmode d x.order (psSlot c) (psRow0 c + x.next)
        || (two && drainHolds s drSmode d x.order (psSlot c) (psRow0 c + x.next + 1))
        || (psComp c && (drainHolds s drSmode d x.order (1 - psSlot c) (psRow0 c + x.next)
            || (two && drainHolds s drSmode d x.order (1 - psSlot c) (psRow0 c + x.next + 1)))))
      let n := if two then 2 else 1
      let rowsG : Gate := (List.range n).foldl (fun (g : Gate) j => g.join (s.passGate t.val p x.ref c (passElems (psTrans c) m.act) (x.next + j))) Gate.go
      if stalled ∨ rowsG = .wait ∨ s.ldgHolds ⟨.ldgTile, t.val⟩ 1 then s
      else match rowsG with
      | .bad b =>
        (s.setMxe t.val { m with swapIssued := true, passes := m.passes.filter (fun y => decide (y.ref ≠ x.ref)) }).failTile
          x.ref b t.val
      | _ =>
        let r := m.rampNow
        if r.on then
          let st := rampStep r
          let s := s.setMxe t.val { m with ramp := st.2, ramped := true }
          if st.1 then s.issueRows t.val p x c else s.countTile t.val 0x0103 1 nobody
        else s.issueRows t.val p x c)

/-! ## Row additions (R137–R147) -/

def SlotRow.elem (r : SlotRow) (n : Nat) : BitVec 36 := SMap.get 0 r.elems n
def SlotRow.setElem (r : SlotRow) (n : Nat) (v : BitVec 36) : SlotRow := { r with elems := SMap.set 0 r.elems n v }
def Slot.row (sl : Slot) (r : Nat) : SlotRow := SMap.get .reset sl.rows r
def Slot.setRow (sl : Slot) (r : Nat) (x : SlotRow) : Slot := { sl with rows := SMap.set .reset sl.rows r x }

/-- Round to A36, to nearest even; a NaN as the mode forms it (R104). -/
def a36Round (strict : Bool) (x : Num) : BitVec 36 := BitVec.ofNat 36 (fA36.encode .near (!strict) x)

/-- Round to A36: to nearest even, fast NaNs. -/
def a36Near (x : Num) : BitVec 36 := a36Round false x

/-- The exact sum of several numbers, in operand order (R104): a NaN operand decides it, the first in strict mode. -/
def sumNums (strict : Bool) (xs : List Num) : Num :=
  match xs.find? Num.isNaN with
  | some (.nan n f w) => quietNaN strict n f w
  | _ => xs.tail.foldl (Num.add strict false) (xs.headD (.fin false 0 0))

def a36Finite (a : BitVec 36) : Bool := !((a36Num a).isNaN || (a36Num a).isInf)

/-- The compensated step of R140: from the pair (s, e) and x, the new pair. A strict pass that folds keeps the NaN of
R104. -/
def compStep (strict : Bool) (sv ev : BitVec 36) (x : Num) : BitVec 36 × BitVec 36 :=
  let sum := Num.add strict false (a36Num sv) x
  let t := a36Round strict sum
  let fin := a36Finite sv && !(x.isNaN || x.isInf) && a36Finite t
  let d := if fin then Num.add strict false sum (a36Num t).negate else .fin false 0 0
  (t, a36Round strict (Num.add strict false (a36Num ev) d))

/-- The first addition of a compensated run: s := round(x), e := x − s (R140). -/
def compFirst (x : Num) : BitVec 36 × BitVec 36 :=
  let sv := a36Near x
  if a36Finite sv then (sv, a36Near (Num.add false false x (a36Num sv).negate)) else (sv, 0)

/-- An addition into a row whose COMP reads 1 with COMP = 0 first collapses the pair in every column, in the mode of its
pass (R104, R140). -/
def collapseRow (strict : Bool) (row err : SlotRow) : SlotRow × SlotRow :=
  ({ (List.range 256).foldl (fun r n =>
      r.setElem n (a36Round strict (Num.add strict false (a36Num (r.elem n)) (a36Num (err.elem n))))) row with comp := false },
   { err with elems := [] })

/-- Where the fold record of slot `sl`, row `r` lies (R142). -/
def State.foldRec (s : State) (t sl r : Nat) : Nat :=
  scratchBase t + s.cfg .mxe t 0x20 21 12 * 4096 + (sl * 512 + r) * 2304

/-- Word `i` of a fold record. -/
def State.foldWord (s : State) (a i : Nat) : BitVec 36 := BitVec.ofNat 36 (s.elemAt a 36 i)

/-- Fold a row (R143): each element goes into its pair of the fold record, and the row restarts from zero. -/
def State.foldRow (s : State) (t sl r : Nat) (strict : Bool) (row : SlotRow) : State × SlotRow :=
  let a := s.foldRec t sl r
  let s := if row.folded then s else s.writeBytes a (List.replicate 2304 0)
  let s := (List.range 256).foldl (fun s n =>
    let v := compStep strict (s.foldWord a (2 * n)) (s.foldWord a (2 * n + 1)) (a36Num (row.elem n))
    (s.putElem a 36 (2 * n) v.1.toNat).putElem a 36 (2 * n + 1) v.2.toNat) s
  (s, { row with elems := [], seg := 0, folded := true })

/-- Scale a compensated or strict A36 word by 2^-64, to nearest even (R146). -/
def a36Down (strict : Bool) (v : BitVec 36) : BitVec 36 :=
  BitVec.ofNat 36 (fA36.encode .near (!strict) ((a36Num v).scale (-64)))

/-- Scale one element by 2^-64, rounded as the row's mode rounds (R146). -/
def State.down64 (s : State) (t : Nat) (near strict : Bool) (v : BitVec 36) : BitVec 36 × State :=
  if near ∨ v = 0 then (a36Down strict v, s)
  else
    let d := s.draw16 t
    (BitVec.ofNat 36 (fA36.encode (.stoch d.1) true ((a36Num v).scale (-64))), d.2)

/-- Scale every element of a row. -/
def State.downRow (s : State) (t : Nat) (near strict : Bool) (row : SlotRow) : SlotRow × State :=
  row.elems.foldl (fun a e =>
    let d := a.2.down64 t near strict e.2
    (a.1.setElem e.1 d.1, d.2)) (row, s)

/-- Scale a fold record by 2^-64 (R146). -/
def State.downFold (s : State) (t a : Nat) (near strict : Bool) : State :=
  (List.range 512).foldl (fun s i =>
    let d := s.down64 t near strict (s.foldWord a i)
    d.2.putElem a 36 i d.1.toNat) s

/-- One element's addition (R139, R140): the new element and error word, and whether it overflowed (R146). `a` and `e`
are the present words, `x` the column word scaled by h. -/
def State.addElem (s : State) (t : Nat) (acc strict comp : Bool) (a e : BitVec 36) (x : Num) :
    (BitVec 36 × BitVec 36 × Bool) × State :=
  let special := x.isNaN || x.isInf || (acc && !(a36Finite a)) || (acc && comp && !(a36Finite e))
  if comp then
    let v := if acc then compStep false a e x else compFirst x
    ((v.1, v.2, (a36Num v.1).isInf && !special), s)
  else
    let sum := if acc then Num.add strict false (a36Num a) x else x
    if strict then
      let v := BitVec.ofNat 36 (fA36.encode .near false sum)
      ((v, e, (a36Num v).isInf && !special), s)
    else
      let d := s.draw16 t
      let v := BitVec.ofNat 36 (fA36.encode (.stoch d.1) true sum)
      ((v, e, (a36Num v).isInf && !special), d.2)

/-- The additions of one row, column by column: the row, its error row, whether any overflowed, and the state with its
draws consumed. -/
def State.addCols (s : State) (t : Nat) (acc strict comp : Bool) (h : Int) (xs : List Num) (row err : SlotRow) :
    (SlotRow × SlotRow × Bool) × State :=
  xs.zipIdx.foldl (fun st x =>
    let r := st.2.addElem t acc strict comp (st.1.1.elem x.2) (st.1.2.1.elem x.2) (x.1.scale h)
    ((st.1.1.setElem x.2 r.1.1, if comp then st.1.2.1.setElem x.2 r.1.2.1 else st.1.2.1, st.1.2.2 || r.1.2.2), r.2))
    ((row, err, false), s)

/-- COUNT and SEG after an addition of K products (R137, R139). -/
def bumpCount (c : W32) (k : Nat) : W32 := BitVec.ofNat 32 (min (c.toNat + k) 0xFFFFFFFF)
def bumpSeg (c : BitVec 21) (k : Nat) : BitVec 21 := BitVec.ofNat 21 (min (c.toNat + k) (2 ^ 21 - 1))

/-- Add the column words `xs` of an issue of K products to slot row `r` (R139–R147). -/
def State.rowAdd (s : State) (t sl r k : Nat) (acc strict comp : Bool) (xs : List Num) (w : Who) : State :=
  let m := s.mxe t
  let row := (m.slot sl).row r
  let err := (m.slot (1 - sl)).row r
  let (row, err) := if row.comp ∧ ¬ comp then collapseRow strict row err else (row, err)
  let foldEn := decide (s.cfg .mxe t 0x20 31 31 = 1)
  let past := acc && !comp && decide (2 ^ 20 < row.seg.toNat + k)
  let long := acc && decide (2 ^ 28 < row.count.toNat + k)
  let unfolded := past && !foldEn
  let (s, row) := if past ∧ foldEn then
      let f := s.foldRow t sl r strict row
      (f.1.countTile t 0x010C 1 w, f.2)
    else (s, row)
  let s := if long then s.flag .mxe t 0x24 (bit 31) else s
  let s := if unfolded then s.flag .mxe t 0x24 (bit 30) else s
  let s := if long ∨ unfolded then s.countTile t 0x010B 1 w else s
  let err := if comp ∧ ¬ row.comp then { err with elems := [] } else err
  let off := acc && row.off64
  let first := s.addCols t acc strict comp (if off then -64 else 0) xs row err
  let replay := first.1.2.2 && !off
  let (row', err', s) :=
    if replay then
      let d := first.2.downRow t (strict || comp) strict row
      let e := if comp then d.2.downRow t true false err else (err, d.2)
      let s := if acc ∧ row.folded then e.2.downFold t (s.foldRec t sl r) (strict || comp) strict else e.2
      let again := s.addCols t acc strict comp (-64) xs d.1 e.1
      let m' := again.2.mxe t
      let s := again.2.setMxe t { m' with replays := m'.replays + 1 }
      let s := (s.flag .mxe t 0x24 (bit 28)).countTile t 0x010A 1 w
      let s := if again.1.2.2 then s.flag .mxe t 0x24 (bit 29) else s
      (again.1.1, again.1.2.1, s)
    else
      let s := if first.1.2.2 then first.2.flag .mxe t 0x24 (bit 29) else first.2
      (first.1.1, first.1.2.1, s)
  let row' :=
    if acc then { row' with count := bumpCount row'.count k, seg := bumpSeg row'.seg k, comp := comp
                            off64 := row'.off64 || replay }
    else { row' with count := BitVec.ofNat 32 k, seg := BitVec.ofNat 21 k, off64 := replay, folded := false, comp := comp }
  let m := s.mxe t
  let m := m.setSlot sl ((m.slot sl).setRow r row')
  s.setMxe t (m.setSlot (1 - sl) ((m.slot (1 - sl)).setRow r { err' with
    count := ((m.slot (1 - sl)).row r).count, seg := ((m.slot (1 - sl)).row r).seg
    off64 := ((m.slot (1 - sl)).row r).off64, folded := ((m.slot (1 - sl)).row r).folded
    comp := ((m.slot (1 - sl)).row r).comp }))

/-- SLOT_ROW_ADD (R139): the oldest issue in the array reaches its slot rows. -/
def execSlotRowAdd (t : Fin 48) (s : State) : Result :=
  .next (
    let m := s.mxe t.val
    match m.inArray with
    | [] => s
    | i :: rest =>
      let s := s.setMxe t.val { m with inArray := rest }
      match s.cmdAt i.ref, s.queOwner i.ref.q with
      | some c, some (p, q) =>
        let s := i.rows.foldl (fun s r =>
          s.rowAdd t.val (psSlot c) r.1 i.k (psAcc c) (psStrict c) (psComp c) r.2 (s.whoOf p q c)) s
        let m := s.mxe t.val
        s.setMxe t.val { m with passes := updPass m.passes i.ref (fun y => { y with landed := y.landed + i.rows.length }) }
      | _, _ => s)

/-- PASS_COMPLETE (R119): a pass completes when its last issue has reached the slot. -/
def execPassComplete (t : Fin 48) (s : State) : Result :=
  .next (
    let m := s.mxe t.val
    match m.passes.find? (fun x =>
        match s.cmdAt x.ref with
        | some c => decide (psM c ≤ x.landed)
        | none => true) with
    | none => s
    | some x =>
      let s := s.setMxe t.val { m with passes := m.passes.filter (fun y => decide (y.ref ≠ x.ref)) }
      let m := s.mxe t.val
      (s.completeRef x.ref).progress .mxe t.val (m.passes ≠ [] || m.loads ≠ [] || m.drains ≠ []))

/-- ARRAY_IDLE_GATE (R120): an array that has issued nothing for 256 tile cycles gates every cell. -/
def execArrayIdleGate (t : Fin 48) (s : State) : Result :=
  .next (
    let m := s.mxe t.val
    if 256 ≤ m.idleFor then s.setMxe t.val { m with gated := true } else s)

/-! ## Saving and restoring slots (R149–R152) -/

/-- The selected slot has a pass or drain begun and not completed (R131). -/
def State.slotBusy (s : State) (t i : Nat) : Bool :=
  (s.mxe t).passes.any (fun x =>
    match s.cmdAt x.ref with
    | some c => decide (psSlot c = i) || psComp c
    | none => false)
  || (s.mxe t).drains.any (fun x =>
    match s.cmdAt x.ref with
    | some c => decide (drSlot c = i) || x.comp
    | none => false)

def State.saveResult (s : State) (t : Nat) (r : Byte) : State := s.setMxe t { s.mxe t with saveRes := r }

/-- The committed address of the save record (R149). -/
def State.saveAddr (s : State) (t : Nat) : Nat := s.cfg .mxe t 0x30 31 6 * 64 + s.cfg .mxe t 0x34 15 0 * 2 ^ 32

/-- Begin a SAVE or RESTORE (R149): DENIED, BUSY, or the operation runs. -/
def State.saveCmd (s : State) (m : Master) (t : Nat) (restore : Bool) (slots : BitVec 2) (q : BitVec 11) : State :=
  if ¬ s.reaches m ⟨.mxe, t⟩ then s
  else if ¬ s.pfOrKp m ((s.partOfTile t).getD 8) then s.saveResult t 0x04
  else if slots = 0 then s
  else if (s.mxe t).save.isSome ∨ (slots.getLsbD 0 ∧ s.slotBusy t 0) ∨ (slots.getLsbD 1 ∧ s.slotBusy t 1) then
    s.saveResult t 0x01
  else s.setMxe t { s.mxe t with save := some ⟨restore, slots, q, s.saveAddr t⟩ }

/-- MXE_SAVE (R149, R150). -/
def execMxeSave (m : Master) (t : Fin 48) (slots : BitVec 2) (s : State) : Result :=
  .next (s.saveCmd m t.val false slots 0)

/-- MXE_RESTORE (R149, R150). -/
def execMxeRestore (m : Master) (t : Fin 48) (slots : BitVec 2) (q : BitVec 11) (s : State) : Result :=
  .next (s.saveCmd m t.val true slots q)

/-- The row word of R151. -/
def rowWord (r : SlotRow) : Nat :=
  r.count.toNat + r.seg.toNat * 2 ^ 32 + (if r.off64 then 2 ^ 55 else 0) + (if r.folded then 2 ^ 56 else 0)
    + (if r.comp then 2 ^ 57 else 0)

/-- The 1,152 bytes of a data row (R151). -/
def rowBytes (r : SlotRow) : List Byte :=
  leBytes 1152 ((List.range 256).foldl (fun a n => a + (r.elem n).toNat * 2 ^ (36 * n)) 0)

def slotFolded (sl : Slot) : Bool := sl.rows.any (fun e => e.2.folded)

/-- The section of slot `i` in a save record (R151). -/
def State.slotSection (s : State) (t i : Nat) : List Byte :=
  let sl := (s.mxe t).slot i
  (List.range 512).flatMap (fun r => leBytes 8 (rowWord (sl.row r)))
    ++ (List.range 512).flatMap (fun r => rowBytes (sl.row r))
    ++ (if slotFolded sl then (List.range 512).flatMap (fun r => s.readBytes (s.foldRec t i r) 2304) else [])

def selSlots (b : BitVec 2) : List Nat := (if b.getLsbD 0 then [0] else []) ++ (if b.getLsbD 1 then [1] else [])

/-- The save record (R151). -/
def State.saveRecord (s : State) (t : Nat) (slots : BitVec 2) : List Byte :=
  let incl := (selSlots slots).foldl (fun a i => if slotFolded ((s.mxe t).slot i) then a + 2 ^ i else a) 0
  let body := (selSlots slots).flatMap (fun i => s.slotSection t i)
  [0x57, 0x4A, 0x41, 0x43, 1, BitVec.ofNat 8 slots.toNat, BitVec.ofNat 8 incl, BitVec.ofNat 8 t]
    ++ leBytes 4 (64 + body.length) ++ List.replicate 52 0 ++ body

/-- Bytes of a slot section with or without fold records (R151). -/
def sectionLen (fold : Bool) : Nat := if fold then 1773568 else 593920

/-- The header of a record is valid for a command's SLOTS (R151); `rd` reads bytes of the record. DESIGN CHOICE (log 87): a
FOLD_INCL bit of no slot, or of a slot that is not selected, makes it invalid. -/
def saveHeaderOk (rd : Nat → Nat → Nat) (slots : BitVec 2) : Bool :=
  let incl := rd 6 1
  let len := 64 + (selSlots slots).foldl (fun a i => a + sectionLen (incl.testBit i)) 0
  decide (rd 0 4 = 0x43414A57) && decide (rd 4 1 = 1) && decide (rd 5 1 = slots.toNat) && decide (rd 8 4 = len)
    && decide (incl < 4) && (List.range 2).all (fun i => !(incl.testBit i) || slots.getLsbD i)
    && (List.range 13).all (fun i => decide (rd (12 + 4 * i) 4 = 0))

/-- Where slot `i`'s section starts in a record. -/
def sectionAt (slots : BitVec 2) (incl i : Nat) : Nat :=
  if i = 1 ∧ slots.getLsbD 0 then 64 + sectionLen (incl.testBit 0) else 64

def rowWordOk (w : Nat) (fold : Bool) : Bool :=
  decide (bitsOf w 63 58 = 0) && decide (bitsOf w 54 53 = 0) && (fold || decide (bitsOf w 56 56 = 0))

/-- A slot row read from a record. -/
def readRow (w data : Nat) : SlotRow :=
  { count := BitVec.ofNat 32 w, seg := BitVec.ofNat 21 (bitsOf w 52 32), off64 := w.testBit 55, folded := w.testBit 56
    comp := w.testBit 57
    elems := ((List.range 256).map (fun n => (n, BitVec.ofNat 36 (data / 2 ^ (36 * n))))).filter (fun e => decide (e.2 ≠ 0)) }

/-- Restore one slot from a record at physical address `a` (R150). -/
def State.restoreSlot (s : State) (t a : Nat) (slots : BitVec 2) (incl q : Nat) (i : Nat) : State :=
  let o := a + sectionAt slots incl i
  let rows := ((List.range 512).map (fun r => (r, readRow (leNat (s.readAny (o + 8 * r) 8)) (leNat (s.readAny (o + 4096 + 1152 * r) 1152))))).filter
    (fun e => decide (e.2 ≠ SlotRow.reset))
  let s := s.setMxe t ((s.mxe t).setSlot i ⟨rows, some q⟩)
  if incl.testBit i then
    (List.range 512).foldl (fun s r => s.writeBytes (s.foldRec t i r) (s.readAny (o + 593920 + 2304 * r) 2304)) s
  else s

/-- The memory that a record of `n` bytes at `a` lies in answers: units that are on, and no hole of the map. -/
def State.recordReach (s : State) (a n : Nat) : Bool :=
  match physAt a, physAt (a + n - 1) with
  | .stack j, .stack k => s.stackUp j && s.stackUp k
  | .scratch t, .scratch u => decide (t = u) && s.tileOn t
  | .host, .host => true
  | _, _ => false

/-- The same for a read, which a poisoned line fails (R259). -/
def State.recordReads (s : State) (a n : Nat) : Bool := s.recordReach a n && !(s.poisoned a n)

/-- A RESTORE ends with ADDRESS: the selected slots read zero. DESIGN CHOICE (log 87): their claims are cleared too. -/
def State.restoreFails (s : State) (t : Nat) (slots : BitVec 2) : State :=
  ((selSlots slots).foldl (fun s i => s.setMxe t ((s.mxe t).setSlot i .reset)) s).saveResult t 0x02

/-- A RESTORE whose record can be read: FORMAT, FOLD, or every selected slot is replaced and claimed by QUEUE. DESIGN CHOICE
(log 87): FORMAT goes before FOLD, and a QUEUE that is the number of no queue claims the slots for a key that no queue has. -/
def State.restoreFrom (s : State) (t : Nat) (o : SaveOp) : State :=
  let rd := fun off n => leNat (s.readAny (o.addr + off) n)
  let incl := rd 6 1
  let q := ((s.queByNum o.queue.toNat).map (fun x => queKey x.1 x.2)).getD noQue
  if ¬ (selSlots o.slots).all (fun i =>
      (List.range 512).all (fun r => rowWordOk (rd (sectionAt o.slots incl i + 8 * r) 8) (incl.testBit i))) then
    s.saveResult t 0x03
  else if incl ≠ 0 ∧ s.cfg .mxe t 0x20 31 31 = 0 then s.saveResult t 0x05
  else ((selSlots o.slots).foldl (fun s i => s.restoreSlot t o.addr o.slots incl q i) s).bump.saveResult t 0x00

/-- A SAVE or RESTORE ends (R149–R152): the record is written or read, the header of a RESTORE first. `ok` is false
where an access faults by what it finds, as a line that proves uncorrectable or a host that does not answer; what a record
in host memory spells is the host's answer: free. -/
def State.saveRestoreDone (s : State) (t : Nat) (ok : Bool) : State :=
    match (s.mxe t).save with
    | none => s
    | some o =>
      let s := s.setMxe t { s.mxe t with save := none }
      let p := (s.partOfTile t).getD 0
      let answers : Bool := ok && (decide (physAt o.addr ≠ .host) || s.hostOk (s.fnOf p))
      if ¬ o.restore then
        let bs := s.saveRecord t o.slots
        if answers ∧ s.recordReach o.addr bs.length then (s.putBytes p o.addr bs).saveResult t 0x00
        else s.saveResult t 0x02
      else if ¬ (answers ∧ s.recordReads o.addr 64) then s.restoreFails t o.slots
      else
        let rd := fun off n => leNat (s.readAny (o.addr + off) n)
        if ¬ saveHeaderOk rd o.slots then s.saveResult t 0x03
        else if ¬ s.recordReads o.addr (rd 8 4) then s.restoreFails t o.slots
        else s.restoreFrom t o

end Sys2Proof.Machine
end

