-- ==== Sys2Proof/Machine/Quantiser.lean ====
section
/-!
DEFINITION. The output quantiser (R126, R153–R169): the drain's check, the values of a slot row with input scale and
rotation, the three scale modes, retries, the record's atomics and report, and the watch (R412–R415).
-/
namespace Sys2Proof.Machine

/-! ## The drain's fields (R126, R154) -/

def drRetryLarge (c : Cmd) : Bool := decide (bitsOf (c.word 8) 63 63 = 1)
def drRot (c : Cmd) : Nat := bitsOf (c.word 8) 62 61
def drOrnd (c : Cmd) : Nat := bitsOf (c.word 8) 58 56
def drZp (c : Cmd) : Nat := bitsOf (c.word 8) 55 48

/-- B of ROT: 32, 64 or 128. -/
def rotBlock (rot : Nat) : Nat := 16 * 2 ^ rot

/-- Whether a scale mode is listed for an output format (R153). -/
def smodeListed (ofmt smode : Nat) : Bool :=
  decide (smode = 0) || (decide (smode = 1) && !(decide (ofmt = 0x09) || decide (ofmt = 0x0B)))
    || (decide (smode = 2) && decide (5 ≤ ofmt) && decide (ofmt ≤ 7))

/-- The check of a DRAIN (R80, R127, R129, R155); `dq` is the device queue. The scale record's own check is
`chkDrainRecord`. -/
def chkDrain (s : State) (p dq : Nat) (c : Cmd) : Except Bad Plan :=
  let f := drOfmt c
  let sm := drSmode c
  let st := drStrict c
  let out := inTile c (drDaddr c) (rowsSpan (drM c) (drPitch c) (packedBytes (fmtBits f) (drN c))) 6 true
  let srec := inTile c (drSrec c) 64 8
  let rpt := if drRptEn c then [inTile c (drRpt c) 64 9 true] else []
  let aux :=
    if sm = 1 then [inTile c (drAux c) (4 * drN c) 10 true]
    else if sm = 2 then [inTile c (drAux c) (rowsSpan (drM c) (drAuxPitch c) ((drN c + 31) / 32)) 10 true]
    else []
  checked
    ([(decide (c.ext ≠ 1), badWord 0)] ++ s.tileChecks p c ++
     [(decide (bitsOf (c.word 6) 61 53 ≠ 0), badWord 6), (decide (f = 0x0C) || !(s.fmtOn p f), badWord 6),
      (st && (!(s.modeOn p 0) || decide (2 < f)), badWord 6),
      (decide (bitsOf (c.word 7) 22 9 ≠ 0), badWord 7), (decide (512 < drRow0 c + drM c), badWord 7),
      (decide (drSrec c % 64 ≠ 0), badWord 8), (!(smodeListed f sm), badWord 8),
      (decide (sm = 2) && !(s.modeOn p 3), badWord 8),
      (decide (drRot c ≠ 0) && (!(s.modeOn p 4) || decide (drN c % rotBlock (drRot c) ≠ 0)), badWord 8),
      (!(rndOk st (drOrnd c)), badWord 8),
      (decide (drZp c ≠ 0) && !(decide (f = 0x09) || decide (f = 0x0B)), badWord 8),
      (decide (f = 0x0B) && decide (15 < drZp c), badWord 8),
      (st && (decide (sm ≠ 0) || decide (drRot c ≠ 0) || decide (drOrnd c ≠ 0) || drRetryLarge c), badWord 8),
      (decide (bitsOf (c.word 9) 62 48 ≠ 0) || decide (drRpt c % 64 ≠ 0), badWord 9),
      (decide (bitsOf (c.word 10) 63 48 ≠ 0), badWord 10), (decide (bitsOf (c.word 11) 63 24 ≠ 0), badWord 11)] ++
     extZero c 4 7 ++
     [(slotTaken ((s.mxe c.target).slot (drSlot c)) dq, badArray)])
    ⟨[out, srec false, srec true] ++ rpt ++ aux, [(drSrec c, 64)],
      [(out.va, out.n), (drSrec c, 64)] ++ rpt.map (fun r => (r.va, r.n)) ++ aux.map (fun r => (r.va, r.n))⟩

/-- The check of the scale record as read before the drain begins (R155, R158): SCALE and RECIP lie in its first
64-bit word, IN_SCALE in its second. -/
def chkDrainRecord (s : State) (p : Nat) (held : List PageMap) (c : Cmd) : Option Bad :=
  let rd := fun o => s.heldLe p held (drSrec c + o) 4
  firstBad
    [(decide (drSmode c = 0) && !(posNormal (rd 0) && posNormal (rd 4)), badIn 8 0),
     (!(posNormal (rd 8)), badIn 8 1)]

/-- A row of the drain's range reads COMP = 1: the drain takes both slots (R121). -/
def drainComp (m : Mxe) (c : Cmd) : Bool :=
  (List.range (drM c)).any (fun i => ((m.slot (drSlot c)).row (drRow0 c + i)).comp)

/-- What a drain holds once it has begun: the record's words, whether it counts as a drain of both slots, and its
share of free values, one per element for the rotation (R121, R158, R166). -/
def drainStart (s : State) (p : Nat) (held : List PageMap) (c : Cmd) (r : CmdRef) (order : Nat) : DrainOp :=
  let rd := fun o => BitVec.ofNat 32 (s.heldLe p held (drSrec c + o) 4)
  { ref := r, order := order, started := false, next := 0, second := false, recip := rd 4, scaleUsed := rd 0
    inScale := rd 8
    comp := drainComp (s.mxe c.target) c
    free0 := s.free, stat := .reset, chans := [], final := false }

/-! ## The values a drain reads (R137, R140, R143, R147, R156) -/

/-- The value that element `n` of a slot row stands for: round(fs + fe + s + e) of the terms that the row has, in the mode of
the drain (R104, R140, R143). -/
def State.slotValue (s : State) (t : Nat) (strict : Bool) (sl r n : Nat) : Num :=
  let m := s.mxe t
  let row := (m.slot sl).row r
  let rec_ := s.foldRec t sl r
  let v :=
    if row.comp ∨ row.folded then
      a36Num (a36Round strict (sumNums strict
        ((if row.folded then [a36Num (s.foldWord rec_ (2 * n)), a36Num (s.foldWord rec_ (2 * n + 1))] else [])
          ++ [a36Num (row.elem n)] ++ (if row.comp then [a36Num (((m.slot (1 - sl)).row r).elem n)] else []))))
    else a36Num (row.elem n)
  if row.off64 then v.scale 64 else v

/-- A number that a natural number codes: sign, exponent from −2048 to 2047, magnitude. -/
def numOfNat (k : Nat) : Num := .fin (decide (k % 2 = 1)) (k / 8192) ((k / 2 % 4096 : Nat) - 2048)

/-- c_B of R166. -/
def rotScale (b : Nat) : Num :=
  if b = 64 then .fin false 1 (-3)
  else fp32Num (BitVec.ofNat 32 (fFP32.encode .near true (sqrtNum 1 (if b = 32 then -5 else -7))))

/-- The set bits of a number below 2^8. -/
def popcount8 (n : Nat) : Nat := (List.range 8).foldl (fun a i => a + (if n.testBit i then 1 else 0)) 0

/-- The exact transform's value j of a block (R166). -/
def rotExact (b : Nat) (xs : List Num) (j : Nat) : Num :=
  Num.mul false (rotScale b) (xs.zipIdx.foldl (fun a x =>
    Num.add false false a (if popcount8 (x.2 &&& j) % 2 = 1 then x.1.negate else x.1)) (.fin false 0 0))

/-- A rotated value: any number within 2^-24 × √(Σ x²) of the exact transform, which a free value gives; the exact
transform where the free value lies outside. -/
def rotValue (b : Nat) (xs : List Num) (k j : Nat) : Num :=
  let y := rotExact b xs j
  let z := numOfNat (Config.freeNat k)
  match y with
  | .fin _ _ _ =>
    let d := Num.add false false z y.negate
    let sq := xs.foldl (fun a x => Num.add false false a (Num.mul false x x)) (.fin false 0 0)
    if (Num.mul false d d).cmp (sq.scale (-48)) ≤ 0 then z else y
  | y => y

/-- Row `i` of a drain at step 3 of R156: the values r, after rotation where ROT is set. -/
def State.drainRow (s : State) (t : Nat) (d : DrainOp) (c : Cmd) (i : Nat) : List Num :=
  let v := (List.range (drN c)).map (fun n =>
    Num.mul (drStrict c) (s.slotValue t (drStrict c) (drSlot c) (drRow0 c + i) n) (fp32Num d.inScale))
  if drRot c = 0 then v
  else
    let b := rotBlock (drRot c)
    (List.range (drN c)).map (fun n => rotValue b ((v.drop (n / b * b)).take b) (d.free0 + i * 256 + n) (n % b))

/-- A finite magnitude rounded up to FP32, at most the largest finite value (R160). -/
def fp32Up (x : Num) : W32 :=
  match x with
  | .fin _ m e => BitVec.ofNat 32 (min (fFP32.roundMag .up false m e) 0x7F7FFFFF)
  | _ => 0

/-- A finite non-zero magnitude rounded down to FP32, at least the smallest positive value (R413). -/
def fp32Down (x : Num) : W32 :=
  match x with
  | .fin _ m e => BitVec.ofNat 32 (max (min (fFP32.roundMag .zero false m e) 0x7F7FFFFF) 1)
  | _ => 0

/-- The statistics with one more value r of step 3 (R160, R413). -/
def DrainStat.add (st : DrainStat) (x : Num) : DrainStat :=
  match x with
  | .fin _ 0 _ => { st with zeros := st.zeros + 1 }
  | .fin _ m e =>
    let b := leadExp m e
    let h := (st.hist.find? (fun x => decide (x.1 = b))).map (·.2)
    { st with
      amax := if st.amax.toNat < (fp32Up x).toNat then fp32Up x else st.amax
      amin := if (fp32Down x).toNat < st.amin.toNat then fp32Down x else st.amin
      hist := match h with
        | some k => st.hist.map (fun y => if y.1 = b then (b, k + 1) else y)
        | none => st.hist ++ [(b, 1)] }
  | .inf _ => { st with nonfin := st.nonfin + 1, infs := st.infs + 1 }
  | .nan _ _ _ => { st with nonfin := st.nonfin + 1, nans := st.nans + 1 }

/-! ## Scales -/

/-- FMT_MAX / t rounded toward zero to FP32, where it lies in the normal FP32 range. -/
def fmtOver (ofmt : Nat) (t : Num) : Option W32 :=
  match fmtMax ofmt, t with
  | .fin _ m e, .fin _ m' e' =>
    if m' = 0 then none
    else
      let q := fFP32.encode .zero true (quotNum false m e m' e')
      let past : Bool := match quotNum false m e m' e' with
        | .fin _ k x => decide (fFP32.maxCode < fFP32.roundMag .near false k x)
            && decide (0 < (Num.fin false k x).cmp (fp32Num (BitVec.ofNat 32 fFP32.maxCode)))
        | _ => false
      if past ∨ q < 0x0080_0000 ∨ fFP32.maxCode < q then none else some (BitVec.ofNat 32 q)
  | _, _ => none

/-- 1 / x rounded up to FP32. -/
def recipUp (x : W32) : W32 :=
  match fp32Num x with
  | .fin _ m e => if m = 0 then 0 else BitVec.ofNat 32 (fFP32.encode .up true (quotNum false 1 0 m e))
  | _ => 0

/-- The retry that a first reading with amax `t` calls for (R161, R162): R' and whether it is the too-large retry; `skip`
when FMT_MAX / t lies outside the normal range. -/
inductive Retry where
  | no | skip
  | make (r : W32) (small : Bool)
  deriving DecidableEq, Repr

def retryOf (c : Cmd) (recip t : W32) : Retry :=
  if ¬ drainMayRetry (drSmode c) (drOfmt c) (drStrict c) then .no
  else
    let x := Num.mul false (fp32Num t) (fp32Num recip)
    let small := decide (0 < x.cmp (fmtMax (drOfmt c)))
    let large := drRetryLarge c && decide (t ≠ 0) && decide (x.cmp ((fmtMax (drOfmt c)).scale (-8)) < 0)
    if small ∨ large then
      match fmtOver (drOfmt c) (fp32Num t) with
      | some r => .make r small
      | none => .skip
    else .no

def one32 : W32 := 0x3F800000

/-- Every value of a list is finite and equal to the first. -/
def allEqual (xs : List Num) : Bool :=
  match xs with
  | [] => true
  | x :: _ => xs.all (fun y => !(y.isNaN || y.isInf) && decide (y.cmp x = 0)) && !(x.isNaN || x.isInf)

def chanOf (ofmt : Nat) (xs : List Num) : Chan :=
  let amax := (xs.foldl DrainStat.add .reset).amax
  if allEqual xs then
    match xs.head? with
    | some (.fin n m e) =>
      if m = 0 then .zero
      else match fmtMax ofmt with
        | .fin _ m' e' => .const n (BitVec.ofNat 32 (fFP32.encode .near true (quotNum false m e m' e')))
        | _ => .zero
    | _ => .zero
  else if amax = 0 then .recip one32 one32 false
  else
    match fmtOver ofmt (fp32Num amax) with
    | some r => .recip r (recipUp r) false
    | none =>
      let r : W32 := if (fp32Num amax).cmp (Num.fin false 1 0) ≤ 0 then BitVec.ofNat 32 fFP32.maxCode else 0x0080_0000
      .recip r (recipUp r) true

/-- Column `n` of a drain over all its rows. -/
def State.drainCol (s : State) (t : Nat) (d : DrainOp) (c : Cmd) (n : Nat) : List Num :=
  (List.range (drM c)).map (fun i => (s.drainRow t d c i).getD n (.fin false 0 0))

/-- EMAX of a block-scaled format (R165). -/
def blockEmax (ofmt : Nat) : Int := if ofmt = 0x05 then 4 else 2

/-- The E8M0 scale of a block (R165). DESIGN CHOICE (log 84): a_blk is the exact amax of the block, not rounded up to FP32 as
R160 rounds a drain's t; the spec does not define it. -/
def blockScale (ofmt : Nat) (xs : List Num) : Nat :=
  if xs.any (fun x => x.isNaN || x.isInf) then 0xFF
  else
    let top := xs.foldl (fun (a : Option Int) x =>
      match x with
      | .fin _ m e => if m = 0 then a else some (match a with
          | some b => max b (leadExp m e)
          | none => leadExp m e)
      | _ => a) none
    match top with
    | none => 0
    | some b => (max 0 (min 254 (b - blockEmax ofmt + 127))).toNat

/-! ## Writing a row -/

/-- Store an array of codes `b` bits wide at a translated address, leaving the bits above its end (R94). -/
def State.heldCodes (s : State) (p : Nat) (held : List PageMap) (va b : Nat) (codes : List Nat) : State :=
  let bits := b * codes.length
  let v := codes.reverse.foldl (fun a x => a * 2 ^ b + x % 2 ^ b) 0
  let n := (bits + 7) / 8
  let top := if bits % 8 = 0 then 0 else s.heldLe p held (va + n - 1) 1 / 2 ^ (bits % 8) * 2 ^ bits
  s.heldWrite p held va (leBytes n (v + top))

/-- The rounding of one element: a stochastic one takes a fresh draw (R107). -/
def State.rndFor (s : State) (t code : Nat) : Rnd × State :=
  if code = 5 then
    let d := s.draw16 t
    (rndOf 5 d.1, d.2)
  else (rndOf code 0, s)

/-- Convert a list of numbers in order, each with its own rounding. -/
def State.convRow (s : State) (t fmt zp code : Nat) (fast : Bool) : List Num → List Conv × State
  | [] => ([], s)
  | x :: xs =>
    let r := s.rndFor t code
    let rest := r.2.convRow t fmt zp code fast xs
    (convert fmt zp r.1 fast x :: rest.1, rest.2)

/-- Whether a watch slot takes a drain's contribution (R412). -/
def watchMatches (s : State) (t w : Nat) (c : Cmd) : Bool :=
  let b := 0x100 + 0x100 * w
  decide (s.cfg .wch t b 31 31 = 1) && (decide (s.cfg .wch t b 30 30 = 0) || decide (s.cfg .wch t b 15 0 = c.layerId))
    && (decide (s.cfg .wch t b 29 29 = 0) || decide (s.cfg .wch t (b + 4) 15 0 = c.opId))

def wchKey (t w : Nat) : Nat := t * 4 + w

/-- A drain that adds nothing counts in SKIPPED of each slot it matches (R415). -/
def State.watchSkip (s : State) (t : Nat) (c : Cmd) : State :=
  [0, 1, 2, 3].foldl (fun s w =>
    if watchMatches s t w c then
      let x := s.wch (wchKey t w)
      s.setWch (wchKey t w) { x with acc := { x.acc with skipped := satAdd32 x.acc.skipped 1 } }
    else s) s

/-- The digest's mixing function (R414). -/
def digestMix (x : Nat) : Nat :=
  let y := (x ^^^ (x / 2 ^ 31)) * 0xD6E8FEB86659FD93 % 2 ^ 64
  y ^^^ (y / 2 ^ 29)

/-- A slot's accumulators with a drain's contribution (R412–R414). -/
def watchAdd (a : WatchAcc) (st : DrainStat) (digest keyless : Bool) (bin0 : Int) (elems : Nat) : WatchAcc :=
  let clampBin := fun (e : Int) => (max 0 (min 15 (e - bin0))).toNat
  { a with
    drains := satAdd32 a.drains 1
    elems := a.elems + BitVec.ofNat 48 elems
    zeros := satAdd32 a.zeros st.zeros, nans := satAdd32 a.nans st.nans, infs := satAdd32 a.infs st.infs
    clamps := satAdd32 a.clamps st.clamps, consts := satAdd32 a.consts st.constCh
    retries := satAdd32 a.retries (if st.flags.getLsbD 0 || st.flags.getLsbD 1 then 1 else 0)
    amax := if a.amax.toNat < st.amax.toNat then st.amax else a.amax
    amin := if st.amin.toNat < a.amin.toNat then st.amin else a.amin
    digest := if digest then
        st.digestIn.foldl (fun (d : W64) k =>
          d + BitVec.ofNat 64 (digestMix (digestMix (if keyless then 0 else k.1 % 2 ^ 64) ^^^ k.2))) a.digest
      else a.digest
    hist := st.hist.foldl (fun h e =>
      SMap.set 0 h (clampBin e.1) (satAdd32 (SMap.get 0 h (clampBin e.1)) e.2)) a.hist }

/-- A matching slot with FOG_NONFIN raises a fog where the drain has read a NaN or an infinity, while WCH_EN is 1 (R397). -/
def State.nonfinFog (s : State) (t : Nat) (c : Cmd) (nonfin : Nat) : State :=
  let fog := [0, 1, 2, 3].any (fun w => watchMatches s t w c && decide (s.cfg .wch t (0x100 + 0x100 * w) 26 26 = 1))
  if fog ∧ nonfin ≠ 0 ∧ s.cfg .talIo 0 0x30 28 28 = 1 then s.raiseFog 4 else s

/-- WATCH_CONTRIBUTION (R412, R415): to each matching slot, in one step; skipped while the tile is frozen. -/
def State.watchDrain (s : State) (t : Nat) (c : Cmd) (st : DrainStat) : State :=
  if (s.tal (blkKey ⟨.talTile, t⟩)).frozen then (s.watchSkip t c).nonfinFog t c st.nonfin
  else
    let s' := [0, 1, 2, 3].foldl (fun s w =>
      if watchMatches s t w c then
        let b := 0x100 + 0x100 * w
        let x := s.wch (wchKey t w)
        let digest := decide (s.cfg .wch t b 28 28 = 1)
        let keyless := decide (s.cfg .wch t b 27 27 = 1)
        let acc := watchAdd x.acc st digest keyless (signedOf 8 (s.cfg .wch t b 23 16)) (drM c * drN c)
        s.setWch (wchKey t w) { x with acc := acc }
      else s) s
    s'.nonfinFog t c st.nonfin

/-- A drain that has started leaves without completing: it counts as skipped, and the elements that it clamped in rows already
written count in CLAMP (R163, R415); what it read may raise a fog (R397). -/
def State.loseDrain (s : State) (t : Nat) (d : DrainOp) (c : Cmd) : State :=
  ((s.countTile t 0x0109 d.stat.clamps (s.whoRef d.ref c)).watchSkip t c).nonfinFog t c d.stat.nonfin

/-- Raise a fault of the drain that runs. -/
def State.failDrain (s : State) (t : Nat) (d : DrainOp) (c : Cmd) (b : Bad) : State :=
  let m := s.mxe t
  ((s.setMxe t { m with drains := m.drains.filter (fun x => decide (x.ref ≠ d.ref)) }).loseDrain t d c).failTile d.ref b t

def State.setDrain (s : State) (t : Nat) (d : DrainOp) : State :=
  let m := s.mxe t
  s.setMxe t { m with drains := m.drains.map (fun x => if x.ref = d.ref then d else x) }

/-- Every earlier-begun pass has written row `r` of the slots this drain reads (R121). -/
def State.rowLanded (s : State) (t : Nat) (d : DrainOp) (c : Cmd) (r : Nat) : Bool :=
  (s.mxe t).passes.all (fun x =>
    match s.cmdAt x.ref with
    | some y =>
      !(decide (x.order < d.order) && (decide (psSlot y = drSlot c) || psComp y || d.comp)
        && decide (psRow0 y ≤ r) && decide (r < psRow0 y + psM y) && decide (psRow0 y + x.landed ≤ r))
    | none => true)

/-- The numbers of row `i` as converted, before rounding: scaled by the mode's reciprocal (R156 step 4), with the block
scales of SMODE 2. -/
def State.drainScaled (s : State) (t : Nat) (d : DrainOp) (c : Cmd) (i : Nat) : List Num × List Nat :=
  let xs := s.drainRow t d c i
  match drSmode c with
  | 0 => (xs.map (fun x => Num.mul (drStrict c) x (fp32Num d.recip)), [])
  | 1 =>
    ((xs.zipIdx).map (fun x =>
      match d.chans.getD x.2 .zero with
      | .const neg _ => (match fmtMax (drOfmt c) with
          | .fin _ m e => .fin neg m e
          | y => y)
      | .zero => .fin false 0 0
      | .recip r _ _ => Num.mul false x.1 (fp32Num r)), [])
  | _ =>
    let es := (List.range ((drN c + 31) / 32)).map (fun j => blockScale (drOfmt c) ((xs.drop (32 * j)).take 32))
    ((xs.zipIdx).map (fun x =>
      let e := es.getD (x.2 / 32) 0
      if e = 0xFF then .fin false 0 0 else x.1.scale (127 - (e : Int))), es)

/-- The channel scales and constant-channel count of SMODE 1, written before the first row; every row is converted by the
channels as found here (R164, R169). -/
def State.writeChannels (s : State) (t p : Nat) (d : DrainOp) (c : Cmd) : State × DrainOp :=
  let chans := (List.range (drN c)).map (fun n => chanOf (drOfmt c) (s.drainCol t d c n))
  let words := chans.flatMap (fun ch =>
    leBytes 4 (match ch with
      | .const _ w => w.toNat
      | .zero => one32.toNat
      | .recip _ w _ => w.toNat))
  let consts := (chans.filter (fun ch => match ch with
    | .recip _ _ _ => false
    | _ => true)).length
  let skip := chans.any (fun ch => match ch with
    | .recip _ _ k => k
    | _ => false)
  let st := { d.stat with
    constCh := consts
    flags := d.stat.flags ||| (if consts ≠ 0 then 16 else 0) ||| (if skip then 4 else 0) }
  (s.heldWrite p c.held (drAux c) words, { d with stat := st, chans := chans })

/-- Read slot row `i`, convert it and write its codes (R156). -/
def State.drainReadRow (s : State) (t p : Nat) (d : DrainOp) (c : Cmd) (i : Nat) : State :=
  let (s, d) := if drSmode c = 1 ∧ i = 0 then s.writeChannels t p d c else (s, d)
  let sc := s.drainScaled t d c i
  let b := fmtBits (drOfmt c)
  let cv := s.convRow t (drOfmt c) (drZp c) (drOrnd c) (!(drStrict c)) sc.1
  let seen := (s.drainRow t d c i).foldl DrainStat.add d.stat
  if cv.1.any (·.nanFault) then cv.2.failDrain t { d with stat := seen } c ⟨0x0B, 0, drOfmt c, 2, 0, 0x7F⟩
  else
    let va := drDaddr c + i * drPitch c
    let s := cv.2.heldCodes p c.held va b (cv.1.map (·.code))
    let s := if drSmode c = 2 then s.heldWrite p c.held (drAux c + i * drAuxPitch c) (sc.2.map (BitVec.ofNat 8)) else s
    let st := { seen with
      clamps := seen.clamps + (cv.1.filter (·.clamp)).length
      digestIn := seen.digestIn ++ (cv.1.zipIdx).map (fun x => (8 * va + b * x.2, x.1.code)) }
    let final := decide (i + 1 = drM c) && (d.second || (match retryOf c d.recip st.amax with
      | .make _ _ => false
      | _ => true))
    (s.setDrain t { d with next := i + 1, stat := st, final := final }).progress .mxe t true

/-- What row `i` of a drain waits for: the fill bits of its output, and of the channel scales at the first row. -/
def State.drainGate (s : State) (t p : Nat) (c : Cmd) (i : Nat) : Gate :=
  s.gates t p c.held
    ([(true, drDaddr c + i * drPitch c, packedBytes (fmtBits (drOfmt c)) (drN c))] ++
     (if drSmode c = 1 ∧ i = 0 then [(true, drAux c, 4 * drN c)]
      else if drSmode c = 2 then [(true, drAux c + i * drAuxPitch c, (drN c + 31) / 32)] else []))

/-- The drain that runs on a tile, with its command and partition. -/
def State.drainOf (s : State) (t : Nat) : Option (DrainOp × Cmd × Nat) :=
  match (s.mxe t).drains.find? (·.started) with
  | none => none
  | some d => (s.cmdAt d.ref).bind (fun c => (s.queOwner d.ref.q).map (fun o => (d, c, o.1)))

/-- MXE_DRAIN (R126): the oldest begun drain starts, once no SAVE or RESTORE has its slot (R150). -/
def execMxeDrain (t : Fin 48) (s : State) : Result :=
  .next (
    let m := s.mxe t.val
    match m.drains with
    | [] => s
    | d :: _ =>
      let waits : Bool := match s.cmdAt d.ref with
        | some c => m.saveTakes (drSlot c) d.comp
        | none => false
      if waits then s else (s.setDrain t.val { d with started := true }).progress .mxe t.val true)

/-- DRAIN_ROW_READ (R121, R135, R156): the next slot row, once every earlier-begun pass has written it; in SMODE 1 the
first row waits for all rows. A store-ring granule that is full makes the quantiser wait (R221). -/
def execDrainRowRead (t : Fin 48) (s : State) : Result :=
  .next (
    match s.drainOf t.val with
    | none => s
    | some (d, c, p) =>
      let settled := if drSmode c = 1 ∧ d.next = 0 then
          (List.range (drM c)).all (fun i => s.rowLanded t.val d c (drRow0 c + i))
        else s.rowLanded t.val d c (drRow0 c + d.next)
      if drM c ≤ d.next ∨ ¬ settled ∨ s.ldgHolds ⟨.ldgTile, t.val⟩ 1 then s
      else match s.drainGate t.val p c d.next with
        | .wait => s
        | .bad b => s.failDrain t.val d c b
        | .go => s.drainReadRow t.val p d c d.next)

/-- DRAIN_RETRY (R161, R162): every row has been read and the amax calls for a retry: the rows are read again with R'
in place of RECIP, and only the codes of the second reading count. -/
def execDrainRetry (t : Fin 48) (s : State) : Result :=
  .next (
    match s.drainOf t.val with
    | none => s
    | some (d, c, p) =>
      if d.next < drM c ∨ d.second then s
      else match retryOf c d.recip d.stat.amax with
        | .make r small =>
          let s := s.setDrain t.val { d with
            next := 0, second := true, recip := r, scaleUsed := recipUp r
            stat := { DrainStat.reset with flags := if small then 1 else 2 } }
          let w := match s.queOwner d.ref.q with
            | some (_, q) => s.whoOf p q c
            | none => nobody
          (s.countTile t.val 0x0108 1 w).progress .mxe t.val true
        | _ => s)

/-- The 64 bytes of the drain report (R168). -/
def drainReport (c : Cmd) (d : DrainOp) (st : DrainStat) : List Byte :=
  leBytes 4 (if drSmode c = 0 then d.scaleUsed.toNat else 0) ++ leBytes 4 st.amax.toNat ++ leBytes 4 st.flags.toNat
    ++ leBytes 4 st.clamps ++ leBytes 4 st.nonfin ++ leBytes 2 st.constCh ++ leBytes 2 0 ++ leBytes 2 c.layerId
    ++ leBytes 2 c.opId ++ leBytes 2 (drM c) ++ leBytes 2 (drN c) ++ leBytes 32 0

/-- DRAIN_COMPLETE (R158, R168, R412): the record's two atomics, the report, the watch, the tallies and the DRAIN ledger
record. -/
def execDrainComplete (t : Fin 48) (s : State) : Result :=
  .next (
    match s.drainOf t.val with
    | none => s
    | some (d, c, p) =>
      let again := retryOf c d.recip d.stat.amax
      let due := d.second || (match again with
        | .make _ _ => false
        | _ => true)
      if d.next < drM c ∨ ¬ due ∨ s.ldgHolds ⟨.ldgTile, t.val⟩ 1 then s
      else
        match s.gates t.val p c.held ([(true, drSrec c, 64)] ++ (if drRptEn c then [(true, drRpt c, 64)] else [])) with
        | .wait => s
        | .bad b => s.failDrain t.val d c b
        | .go =>
          let st := d.stat
          let st := { st with flags := st.flags
            ||| (if ¬ d.second ∧ again = .skip then 4 else 0) ||| (if st.clamps ≠ 0 then 8 else 0)
            ||| (if st.nonfin ≠ 0 then 32 else 0) }
          let w := match s.queOwner d.ref.q with
            | some (_, q) => s.whoOf p q c
            | none => nobody
          let old := s.heldLe p c.held (drSrec c + 12) 4
          let ev := s.heldLe p c.held (drSrec c + 16) 4
          let s := s.heldWrite p c.held (drSrec c + 12) (leBytes 4 (max old st.amax.toNat))
          let s := s.heldWrite p c.held (drSrec c + 16) (leBytes 4 (ev ||| st.flags.toNat))
          let s := if drRptEn c then s.heldWrite p c.held (drRpt c) (drainReport c d st) else s
          let s := s.watchDrain t.val c st
          let s := (s.countTile t.val 0x0107 1 w).countTile t.val 0x0109 st.clamps w
          let s := s.ledgerTile t.val w 0x08 0x10 (st.amax.toNat + st.flags.toNat * 2 ^ 32)
            (if drSmode c = 0 then d.scaleUsed.toNat else 0)
          let m := s.mxe t.val
          let s := s.setMxe t.val { m with drains := m.drains.filter (fun x => decide (x.ref ≠ d.ref)) }
          let m := s.mxe t.val
          (s.completeRef d.ref).progress .mxe t.val (m.passes ≠ [] || m.loads ≠ [] || m.drains ≠ []))

end Sys2Proof.Machine
end

