-- ==== Sys2Proof/Machine/Streams.lean ====
section
/-!
DEFINITION. Streams (R215–R236): the checks of the stream commands, issue in cursor order, delivery and frontiers, halts,
faults with aborted granules, and stalls.
-/
namespace Sys2Proof.Machine

/-! ## The commands (R215, R216, R222) -/

def stSid (c : Cmd) : Nat := bitsOf (c.word 6) 63 60
def stBytes (c : Cmd) : Nat := bitsOf (c.word 6) 47 0

/-- The check of STE_OPEN (R80, R218) but for the stream-state fault, which `chkOpenState` finds after translation. -/
def chkSteOpen (s : State) (p : Nat) (c : Cmd) : Except Bad Plan :=
  let w := c.word
  let e := opElem (w 6)
  checked
    ([(decide (c.ext ≠ 1), badWord 0)] ++ s.tileChecks p c ++
     [(decide (bitsOf (w 6) 55 48 ≠ 0) || decide (6 < bitsOf (w 6) 58 56) || decide (opFar (w 6) % e ≠ 0), badWord 6),
      (decide (bitsOf (w 7) 51 48 ≠ 0) || decide (opBufAddr (w 7) % 4096 ≠ 0) || decide (0x60_0000 < opBuf (w 7)), badWord 7),
      (decide (2 ^ 47 < opLen w), badWord 8)] ++
     (List.range 5).map (fun d =>
       (decide (opStride w d % (e : Int) ≠ 0) || (decide (d ≠ 0) && decide (bitsOf (w (9 + d)) 63 48 ≠ 0)), badWord (9 + d))) ++
     [(decide (bitsOf (w 14) 43 24 ≠ 0) || decide (10000000 < bitsOf (w 14) 23 0), badWord 14),
      (decide (bitsOf (w 15) 63 32 ≠ 0) || decide (bitsOf (w 15) 19 0 ≠ 0)
        || decide (opBuf (w 7) < bitsOf (w 15) 31 20 * 4096), badWord 15)])
    ⟨[inTile c (opBufAddr (w 7)) (opBuf (w 7)) 7 (!(opStore (w 6)))], [], []⟩

/-- The stream-state fault. -/
def badStream : Bad := ⟨0x0C, 0, 0, 2, 0, 0x7F⟩

/-- The granules of a ring, as physical granule numbers, through held pages. -/
def State.ringPhys (s : State) (p : Nat) (held : List PageMap) (va n : Nat) : List Nat :=
  (List.range (n / 64)).filterMap (fun i => (s.heldAddr p held (va + 64 * i)).map (· / 64))

/-- STE_OPEN finds its stream context in use, or its ring shares a location with another bound ring, or with the ring of a
begun STE_OPEN that is still to bind it (R218). -/
def chkOpenState (s : State) (p : Nat) (held : List PageMap) (c : Cmd) : Option Bad :=
  let e := s.ste c.target
  let own := s.ringPhys p held (opBufAddr (c.word 7)) (opBuf (c.word 7))
  let opening := e.cmds.flatMap (fun x => match s.cmdAt x.2, s.queOwner x.2.q with
    | some d, some o => if d.opcode = 0x01 then s.ringPhys o.1 d.held (opBufAddr (d.word 7)) (opBuf (d.word 7)) else []
    | _, _ => [])
  if (e.stream (stSid c)).bound then some badStream
  else if own.any opening.contains then some badStream
  else if e.streams.any (fun x => x.2.bound && own.any (fun g => (s.ringGranules c.target x.2 g) ≠ [])) then some badStream
  else none

/-- The ring interval of `n` bytes from stream offset `o`: one interval, or two where it wraps (R222). -/
def Stream.interval (x : Stream) (o n : Nat) : List (Nat × Nat) :=
  let a := o % x.buf
  if n = 0 then []
  else if a + n ≤ x.buf then [(x.bufAddr + a, n)]
  else [(x.bufAddr + a, x.buf - a), (x.bufAddr, a + n - x.buf)]

/-- The check of STE_RELEASE and STE_PUSH (R80, R222): against the frontier that earlier accepted ones leave. -/
def chkFrontier (s : State) (p : Nat) (c : Cmd) (push : Bool) : Except Bad Plan :=
  let x := (s.ste c.target).stream (stSid c)
  let dst := x.pendB + stBytes c
  checked
    ([(decide (c.ext ≠ 0), badWord 0)] ++ s.tileChecks p c ++
     [(decide (bitsOf (c.word 6) 59 48 ≠ 0), badWord 6), (decide (c.word 7 ≠ 0), badWord 7),
      (!x.bound || decide (x.store ≠ push), badStream),
      ((decide (stBytes c % 64 ≠ 0) && decide (dst ≠ x.len)) || decide (x.len < dst) || decide (x.fA + x.buf < dst), badWord 6)])
    (if push then ⟨[], x.interval x.pendB (stBytes c), []⟩ else ⟨[], [], x.interval x.pendB (stBytes c)⟩)

/-- The check of STE_CLOSE (R80, R224): its write set is the whole ring. -/
def chkSteClose (s : State) (p : Nat) (c : Cmd) : Except Bad Plan :=
  let x := (s.ste c.target).stream (stSid c)
  checked
    ([(decide (c.ext ≠ 0), badWord 0)] ++ s.tileChecks p c ++
     [(decide (bitsOf (c.word 6) 59 0 ≠ 0), badWord 6), (decide (c.word 7 ≠ 0), badWord 7), (!x.bound, badStream)])
    ⟨[], [], [(x.bufAddr, x.buf)]⟩

/-- Whether the stream unit may accept a command of a stream context now (R215, R224): RELEASE and PUSH beside earlier
ones of their kind; OPEN and CLOSE, and whatever follows them, one at a time. A HALTED or FAULTED stream holds its
CLOSE. -/
def State.steMay (s : State) (c : Cmd) : Bool :=
  let e := s.ste c.target
  let mine := e.cmds.filter (fun x => decide (x.1 = stSid c))
  let ops := mine.filterMap (fun x => (s.cmdAt x.2).map (·.opcode))
  let st := (e.stream (stSid c)).st
  match c.opcode with
  | 0x02 => ops.all (fun o => decide (o = 0x02) || decide (o = 0x03))
  | 0x03 => ops.all (fun o => decide (o = 0x02) || decide (o = 0x03))
  | 0x04 => mine = [] && decide (st ≠ .halted) && decide (st ≠ .faulted)
  | _ => mine = []

/-! ## The stall clock (R233) -/

/-- Bytes left to move and room to move them. -/
def Stream.mayMove (x : Stream) : Bool :=
  x.bound && decide (x.st ≠ .faulted) && decide (x.fA < x.len) &&
    (if x.store then decide (x.fA < x.fB) else decide (x.fA < x.fB + x.buf))

/-- Keep the stall clock: it runs while the stream could move, from the last frontier advance (`fresh`). -/
def State.stallClock (s : State) (t sid : Nat) (fresh : Bool) : State :=
  let x := (s.ste t).stream sid
  if x.mayMove then
    (if fresh ∨ ¬ s.timerRuns (.stall t sid) then s.startTimer (.stall t sid) (.tile t) (opTmo x.w * 1000) else s)
  else s.stopTimer (.stall t sid)

def State.setStream (s : State) (t sid : Nat) (x : Stream) : State := s.setSte t ((s.ste t).setStream sid x)

/-- A stream unit with a begun command or a stream that moves is watched (R423). -/
def State.steBusy (s : State) (t : Nat) : Bool := (s.ste t).cmds ≠ []

/-! ## Faults of a stream (R231, R232) -/

/-- The undelivered granules of a load's ring abort: those whose fill bit is 0 (R232). -/
def State.abortRing (s : State) (t sid : Nat) : State :=
  let x := (s.ste t).stream sid
  if x.store ∨ x.len ≤ x.fA then s
  else
    let gs := (List.range (x.buf / 64)).filter (fun i => !(SMap.get false x.fill i))
    let new := gs.map (fun i => (s.ringAddr t x (64 * i) / 64, sid))
    let ti := s.tile t
    s.setTile t { ti with aborted := (ti.aborted.filter (fun g => !(new.any (fun n => decide (n.1 = g.1))))) ++ new }

/-- The fault record of a stream (R418): its owner, its STE_OPEN and its SID. -/
def streamFault (t sid : Nat) (x : Stream) (b : Bad) : FaultRec :=
  { cls := b.cls, cause := b.cause, eng := 3, ctx := x.ctx, queue := x.queue, stage := 0x7F
    layer := x.layerId.toNat, op := x.opId.toNat, head := x.head, aspace := b.aspace, addr := b.addr, detail := b.detail
    sub := sid, uclass := 0, unit := t }

/-- The stream becomes FAULTED with a fault of its owner; a load's undelivered granules abort. -/
def State.faultStream (s : State) (t sid : Nat) (off : Nat) (b : Bad) : State :=
  let x := (s.ste t).stream sid
  let f := match x.failAt with
    | some o => min o off
    | none => off
  let s := s.setStream t sid { x with
    st := .faulted, failAt := some f, faultB := if x.st = .faulted then x.faultB else x.fB }
  let s := (s.stopTimer (.stall t sid)).abortRing t sid
  match s.ctxOwner x.ctx with
  | some (p, _) => s.raise p (streamFault t sid x b)
  | none => s

/-- What a stream's events count for: its STE_OPEN, with that command's TRACE (R404). -/
def Stream.who (x : Stream) : Who := ⟨x.layerId.toNat, x.opId.toNat, x.ctx, decide (bitsOf (x.w 0) 13 13 = 1)⟩

/-! ## Issue (R225, R226, R229) -/

/-- The requests of a stream, and of a tile, that are outstanding. -/
def Stream.outstanding (x : Stream) : Nat := (x.reqs.filter (fun r => !r.done)).length
def State.tileOutstanding (s : State) (t : Nat) : Nat := (s.ste t).streams.foldl (fun a e => a + e.2.outstanding) 0

/-- REQ_LIMIT of a tile: 0 means 32. -/
def State.reqLimit (s : State) (t : Nat) : Nat :=
  let v := s.cfg .ste t 0x10 4 0
  if v = 0 then 32 else v

/-- The offset up to which a stream may issue now: what is pushed, or the room of R225. -/
def Stream.issueLimit (x : Stream) : Nat :=
  min x.len (if x.store then x.fB else x.fB + opAhead x.w)

/-- How many consecutive elements from `k` one request covers: contiguous far addresses within one aligned 4 KiB piece,
up to 2 KiB, and within what may be issued now; `fuel` elements at most. -/
def runLen (w : Nat → Nat) (k far lim : Nat) : Nat → Nat → Nat
  | 0, n => n
  | fuel + 1, n =>
    let e := opElem (w 6)
    if (k + n + 1) * e ≤ lim ∧ opFarOf w (k + n) = far + n * e ∧ (far + n * e) / 4096 = far / 4096 ∧ (n + 1) * e ≤ 2048 then
      runLen w k far lim fuel (n + 1)
    else n

/-- T of R226 for a request at stream offset `o`. -/
def Stream.timeToNeed (x : Stream) (o : Nat) : Option Nat :=
  let r := opRate x.w
  if r = 0 then none
  else some (min ((if x.store then o + x.buf - x.fB else o - x.fB) * 2 ^ 24 / r) (2 ^ 52 - 1))

/-- A not-present notice to the keeper pairs of a partition (R229). -/
def State.notPresentNotice (s : State) (p t sid : Nat) (x : Stream) (va : Nat) : State :=
  let s := s.emit (.notice p 1 [t, sid, s.ctxNum x.ctx, va, x.layerId.toNat, x.opId.toNat])
  ((List.range 8).filter (fun k => decide (s.partOfKp k = some p))).foldl
    (fun s k => s.count ⟨.talKp, k⟩ 0x0403 1 nobody) s

/-- STREAM_HALT (R229): STATE HALTED, one notice per halt, the tally and the HALT record. -/
def State.haltStream (s : State) (t sid p va : Nat) : State :=
  let x := (s.ste t).stream sid
  if x.noticed then s.setStream t sid { x with st := .halted }
  else
    let s := (s.setStream t sid { x with st := .halted, noticed := true }).notPresentNotice p t sid x va
    (s.countTile t 0x0111 1 x.who).ledgerTile t x.who 0x06 (0x30 + sid) va sid

/-- Issue the next request of a running stream, if it has room; a load's request to the host leaves at once (R437). -/
def State.issueNext (s : State) (t sid : Nat) : State :=
  let x := (s.ste t).stream sid
  let e := x.elem
  let k := x.issued / e
  let far := opFarOf x.w k
  if x.st ≠ .running ∨ x.issueLimit < x.issued + e ∨ s.reqLimit t ≤ x.outstanding ∨ 128 ≤ s.tileOutstanding t
    ∨ s.ldgHolds ⟨.ldgTile, t⟩ 3 then s
  else
    match s.ctxOwner x.ctx with
    | none => s
    | some (p, lc) =>
      match s.xlatePage (tlbTile t) p lc far x.store with
      | (.error b, s) =>
        if b.cls = 0x06 ∧ b.cause = 4 then s.haltStream t sid p far else s.faultStream t sid x.issued b
      | (.ok m, s) =>
        let n := max 1 (runLen x.w k far x.issueLimit 2048 0)
        let pa := s.placeAddr p m.pa (far % 65536)
        let r : StreamReq := ⟨x.nextSeq, (s.ste t).sent, x.issued, n * e, pa, x.timeToNeed x.issued, false, none, 0⟩
        let x := { x with issued := x.issued + n * e, nextSeq := x.nextSeq + 1, reqs := x.reqs ++ [r], noticed := false }
        let s := s.setSte t { s.ste t with sent := (s.ste t).sent + 1 }
        let s := ((s.setStream t sid x).stallClock t sid false).progress .ste t true
        if physAt pa = .host ∧ ¬ x.store then s.hostAsk (s.fnOf p) pa (n * e) else s

/-- STREAM_ISSUE (R225). -/
def execStreamIssue (t : Fin 48) (sid : Fin 16) (s : State) : Result := .next (s.issueNext t.val sid.val)

/-! ## Performing the commands (R219, R222, R224) -/

/-- The first outstanding command of a stream context, with this opcode. -/
def State.steHead (s : State) (t sid op : Nat) : Option (CmdRef × Cmd) :=
  match (s.ste t).cmds.find? (fun x => decide (x.1 = sid)) with
  | none => none
  | some x => (s.cmdAt x.2).bind (fun c => if c.opcode = op ∧ c.engine = 3 then some (x.2, c) else none)

/-- A stream command has been performed. -/
def State.steDone (s : State) (t : Nat) (r : CmdRef) : State :=
  let e := s.ste t
  let s := s.setSte t { e with cmds := e.cmds.filter (fun x => decide (x.2 ≠ r)) }
  (s.completeRef r).progress .ste t (s.steBusy t)

/-- Bind a stream context by an STE_OPEN (R216, R220, R232): every fill bit is 0, and aborted granules of its ring are
clear. -/
def State.bindStream (s : State) (t sid : Nat) (r : CmdRef) (c : Cmd) : State :=
  let p := ((s.queOwner r.q).map (·.1)).getD 0
  let x : Stream := { Stream.reset with
    st := .running, store := opStore (c.word 6), ctx := ((s.queOwner r.q).map (fun o => s.qDevCtx o.1 o.2)).getD 0
    queue := r.q, head := c.head, words := c.words, held := c.held
    layerId := BitVec.ofNat 16 c.layerId, opId := BitVec.ofNat 16 c.opId }
  let own := s.ringPhys p c.held (opBufAddr (c.word 7)) (opBuf (c.word 7))
  let ti := s.tile t
  let s := s.setTile t { ti with aborted := ti.aborted.filter (fun g => !(own.any (fun o => decide (o = g.1)))) }
  (s.setStream t sid x).stallClock t sid true

/-- A bound stream has its first request still to issue and the room for it, or its state is not RUNNING (R219): one that halts
or faults at its first element does not complete its STE_OPEN meanwhile. -/
def Stream.firstWaits (x : Stream) : Bool :=
  decide (x.nextSeq = 0) && (decide (x.st ≠ .running) || decide (x.elem ≤ x.issueLimit))

/-- STE_OPEN (R219): the stream context is bound and its first request issued; the command completes once that is done, or
where there is nothing to issue. While the tile's limits hold the first request back, the command waits. -/
def execSteOpen (t : Fin 48) (sid : Fin 16) (s : State) : Result :=
  .next (
    match s.steHead t.val sid.val 0x01 with
    | none => s
    | some (r, c) =>
      let s := if ((s.ste t.val).stream sid.val).bound then s else s.bindStream t.val sid.val r c
      let s := if ((s.ste t.val).stream sid.val).nextSeq = 0 then s.issueNext t.val sid.val else s
      if ((s.ste t.val).stream sid.val).firstWaits then s else s.steDone t.val r)

/-- Set or clear the fill bits of the granules of [o, o + n). -/
def Stream.setFill (x : Stream) (o n : Nat) (v : Bool) : Stream :=
  let gs := List.range ((o + n + 63) / 64 - o / 64)
  { x with fill := gs.foldl (fun f i => SMap.set false f ((o / 64 + i) * 64 % x.buf / 64) v) x.fill }

/-- STE_RELEASE (R222): waits for D, then advances C and clears the fill bits passed. -/
def execSteRelease (t : Fin 48) (sid : Fin 16) (s : State) : Result :=
  .next (
    match s.steHead t.val sid.val 0x02 with
    | none => s
    | some (r, c) =>
      let x := (s.ste t.val).stream sid.val
      let dst := x.fB + stBytes c
      if x.fA < dst then s
      else
        let x := { x.setFill x.fB (stBytes c) false with fB := dst }
        ((s.setStream t.val sid.val x).stallClock t.val sid.val false).steDone t.val r)

/-- STE_PUSH (R222): advances P and sets the fill bits passed. -/
def execStePush (t : Fin 48) (sid : Fin 16) (s : State) : Result :=
  .next (
    match s.steHead t.val sid.val 0x03 with
    | none => s
    | some (r, c) =>
      let x := (s.ste t.val).stream sid.val
      if s.handOver t.val r (x.interval x.fB (stBytes c)) = .wait then s
      else
      let x := { x.setFill x.fB (stBytes c) true with fB := x.fB + stBytes c }
      ((s.setStream t.val sid.val x).stallClock t.val sid.val false).steDone t.val r)

/-- STE_CLOSE (R224): at LEN the ring is unbound and the stream context returns to IDLE. -/
def execSteClose (t : Fin 48) (sid : Fin 16) (s : State) : Result :=
  .next (
    match s.steHead t.val sid.val 0x04 with
    | none => s
    | some (r, _) =>
      let x := (s.ste t.val).stream sid.val
      if x.st = .halted ∨ x.st = .faulted ∨ x.fA < x.len then s
      else
        let s := s.noteHost r.q (if x.store then x.hostAt else none)
        ((s.setStream t.val sid.val .reset).stopTimer (.stall t.val sid.val)).steDone t.val r)

/-! ## Delivery (R220, R223, R231) -/

/-- The frontier after the contiguous completed requests, never past a failed one. -/
def frontier (x : Stream) : Nat → Nat → Nat
  | 0, f => f
  | fuel + 1, f =>
    match x.reqs.find? (fun r => decide (r.off = f) && r.done) with
    | some r => (match x.failAt with
        | some o => if o < f + r.len then f else frontier x fuel (f + r.len)
        | none => frontier x fuel (f + r.len))
    | none => f

/-- Advance the frontier over completed requests: fill bits, the zeros after LEN in a load's last granule, DONE at LEN. -/
def State.advance (s : State) (t sid : Nat) : State :=
  let x := (s.ste t).stream sid
  let f := frontier x (x.reqs.length + 1) x.fA
  if f = x.fA then s
  else
    let full := if f = x.len then (f + 63) / 64 * 64 else f / 64 * 64
    let from_ := x.fA / 64 * 64
    let x' := { (x.setFill from_ (full - from_) (!x.store)) with
      fA := f, reqs := x.reqs.filter (fun r => decide (f < r.off + r.len))
      st := if f = x.len ∧ x.st = .running then .done else x.st }
    let x' := if full = from_ then { x' with fill := x.fill } else x'
    let s := if ¬ x.store ∧ f = x.len ∧ f % 64 ≠ 0 then
        s.writeBytes (s.ringAddr t x f) (List.replicate (64 - f % 64) 0) else s
    ((s.setStream t sid x').stallClock t sid true).progress .ste t (s.steBusy t)

/-- A store's granules of which every byte below LEN has been written to far memory lose their fill bits, whatever the
order in which its requests complete (R220). -/
def Stream.clearWritten (x : Stream) (r : StreamReq) : Stream :=
  let written := fun o => decide (o < x.fA) || x.reqs.any (fun q => q.done && decide (q.off ≤ o) && decide (o < q.off + q.len))
  let gs := (List.range ((r.off + r.len + 63) / 64 - r.off / 64)).map (fun i => r.off / 64 + i)
  (gs.filter (fun g => (List.range 64).all (fun i => decide (x.len ≤ 64 * g + i) || written (64 * g + i)))).foldl
    (fun x g => x.setFill (64 * g) 64 false) x

/-- The ring's bytes of a request. -/
def State.ringBytes (s : State) (t : Nat) (x : Stream) (r : StreamReq) : List Byte :=
  (List.range r.len).map (fun i => s.readByte (s.ringAddr t x (r.off + i)))

/-- Store delivered bytes into the ring, in pieces that do not wrap. -/
def State.ringPut (s : State) (t : Nat) (x : Stream) (off : Nat) (bs : List Byte) : State :=
  (x.interval off bs.length).foldl (fun (a : State × List Byte) iv =>
    ((List.range iv.2).foldl (fun s i =>
      match s.heldAddr (s.steOwner t) x.held (iv.1 + i) with
      | some pa => s.writeBytes pa [a.2.getD i 0]
      | none => s) a.1, a.2.drop iv.2)) (s, bs) |>.1

/-- Two requests go to one destination port of the mesh. -/
def samePort (a b : Nat) : Bool :=
  match physAt a, physAt b with
  | .stack k, .stack j => decide (k = j)
  | .scratch t, .scratch u => decide (t = u)
  | .host, .host => true
  | _, _ => false

/-- An earlier request of the tile to the same port is still on its way (R22): requests arrive there in the order sent. At
the host only stores hold back what follows, as reads may be answered in any order (R225). -/
def State.sentBefore (s : State) (t : Nat) (r : StreamReq) : Bool :=
  (s.ste t).streams.any (fun e => e.2.reqs.any (fun q =>
    !q.done && decide (q.sent < r.sent) && samePort q.pa r.pa && (decide (physAt r.pa ≠ .host) || e.2.store)))

/-- An answer of the same stack to the tile, given before, is still on its way (R22): answers arrive in the order sent. -/
def State.answeredBefore (s : State) (t k : Nat) (r : StreamReq) : Bool :=
  (s.ste t).streams.any (fun e => e.2.reqs.any (fun q =>
    !q.done && q.reply.isSome && decide (q.answ < r.answ) && decide (physAt q.pa = .stack k)))

/-- A request to a scratchpad or to the host waits for those sent before it; a stack's arbiter accepts them in order, and its
answers come back in the order given. -/
def State.farWaits (s : State) (t : Nat) (r : StreamReq) : Bool :=
  match physAt r.pa with
  | .stack k => s.stackUp k && s.answeredBefore t k r
  | _ => s.sentBefore t r

/-- What the tile's own scratchpad says of a request: a ring that a fold area has taken (R142), and the interlock of a far side
that lies there too (R221). -/
def State.ownGate (s : State) (t : Nat) (x : Stream) (r : StreamReq) : Gate :=
  let ring : Gate := match (x.interval r.off r.len).findSome? (fun iv => s.heldBad (s.steOwner t) x.held iv.1 iv.2) with
    | some b => .bad b
    | none => .go
  ring.join (if physAt r.pa = .scratch t then s.gatePhys t x.store r.pa r.len else .go)

/-- What the far side says of a request: a stack's answer once performed; a scratchpad's or a missing unit's as it
stands; the host's as it arrives (`ext`), or a failure where the host cannot be asked (R438). None: no answer yet. -/
def State.farReply (s : State) (t : Nat) (x : Stream) (r : StreamReq) (ext : FarReply) : Option FarReply :=
  match physAt r.pa with
  | .stack k => if ¬ s.stackUp k then some .unitOff else r.reply
  | .scratch u =>
    if ¬ s.tileOn u then some .unitOff
    else if s.inFold r.pa r.len then some .protection
    else some (.ok (if x.store then [] else s.readBytes r.pa r.len))
  | .host => some (if s.hostOk (s.fnOf (s.steOwner t)) then ext else .memError)
  | _ => some .addressDecode

/-- The fault of a failed request (R231). -/
def badFar (r : StreamReq) : FarReply → Bad
  | .memError => ⟨0x07, 0, 0, 1, r.pa, 0x7F⟩
  | .unitOff => ⟨0x04, 0, 0, 1, r.pa, 0x7F⟩
  | .addressDecode => ⟨0x02, 0, 0, 1, r.pa, 0x7F⟩
  | _ => ⟨0x03, 0, 0, 1, r.pa, 0x7F⟩

/-- Request `seq` of a stream completes (R220, R231). -/
def State.streamReply (s : State) (t sid seq : Nat) (reply : FarReply) : State :=
    let x := (s.ste t).stream sid
    match x.reqs.find? (fun r => decide (r.seq = seq) && !r.done) with
    | none => s
    | some r =>
      if s.farWaits t r then s
      else match s.ownGate t x r with
      | .wait => s
      | .bad b =>
        (s.setStream t sid { x with reqs := x.reqs.filter (fun q => decide (q.seq ≠ seq)) }).faultStream t sid r.off b
      | .go =>
      match s.farReply t x r reply with
      | none => s
      | some (.ok data) =>
        let mark := fun (s : State) =>
          let x := (s.ste t).stream sid
          let x := { x with reqs := x.reqs.map (fun (q : StreamReq) => if q.seq = seq then { q with done := true } else q) }
          let x := if hostBase ≤ r.pa then
              { x with hostAt := some ⟨s.fnOf (s.steOwner t), r.pa, opFarOf x.w (r.off / x.elem)⟩ } else x
          (s.setStream t sid (if x.store then x.clearWritten r else x)).advance t sid
        if x.store then
          let bs := s.ringBytes t x r
          let s := match physAt r.pa with
            | .stack _ => s
            | _ => s.putBytes (s.steOwner t) r.pa bs
          mark (s.countTile t 0x0110 r.len x.who)
        else
          let bs := (data ++ List.replicate r.len 0).take r.len
          mark ((s.ringPut t x r.off bs).countTile t 0x010F r.len x.who)
      | some e =>
        let s := s.setStream t sid { x with reqs := x.reqs.filter (fun q => decide (q.seq ≠ seq)) }
        let s := if physAt r.pa = .host ∧ e = .memError then s.flag .pcx 0 0x14 (bit 30) else s
        s.faultStream t sid r.off (badFar r e)

/-- STREAM_DELIVER (R220, R231). -/
def execStreamDeliver (t : Fin 48) (sid : Fin 16) (seq : Nat) (reply : FarReply) (s : State) : Result :=
  .next (s.streamReply t.val sid.val seq reply)

/-! ## Retries and stalls (R230, R233, R235) -/

/-- A halted stream retries translation of its faulting element: it resumes if the page is present. -/
def State.retryStream (s : State) (t sid : Nat) : State :=
  let x := (s.ste t).stream sid
  if x.st ≠ .halted then s
  else
    match s.ctxOwner x.ctx with
    | none => s
    | some (p, lc) =>
      match s.xlatePage (tlbTile t) p lc (opFarOf x.w (x.issued / x.elem)) x.store with
      | (.error b, s) => if b.cls = 0x06 ∧ b.cause = 4 then s else s.faultStream t sid x.issued b
      | (.ok _, s) =>
        let s := s.setStream t sid { x with st := if x.fA = x.len then .done else .running, noticed := false }
        s.ledgerTile t x.who 0x07 (0x30 + sid) x.fA sid

/-- STREAM_RETRY (R230). -/
def execStreamRetry (t : Fin 48) (sid : Fin 16) (s : State) : Result := .next (s.retryStream t.val sid.val)

/-- STE_RESUME (R230, R235): a write of STE_CMD. -/
def execSteResume (m : Master) (t : Fin 48) (sid : Fin 16) (s : State) : Result :=
  .next (if s.reaches m ⟨.ste, t.val⟩ then s.retryStream t.val sid.val else s)

/-- STREAM_STALL_TIMEOUT (R233): a stall of TMO_US. -/
def execStreamStallTimeout (t : Fin 48) (sid : Fin 16) (s : State) : Result :=
  .next (
    let x := (s.ste t.val).stream sid.val
    if s.expired (.stall t.val sid.val) ∧ x.mayMove then
      s.faultStream t.val sid.val x.fA ⟨0x0D, 0, x.fA % 2 ^ 32, 2, 0, 0x7F⟩
    else s)

/-- A request of stream `sid` of tile `t`. -/
def ofStream (t sid : Nat) (q : ArbReq) : Bool :=
  match q.src with
  | .stream u i _ => decide (u.val = t) && decide (i.val = sid)
  | _ => false

/-- Unbind a stream before its end, as a reset does (R232): its requests are dropped and undelivered granules abort. -/
def State.unbindStream (s : State) (t sid : Nat) : State :=
  let s := s.stks.foldl (fun s e => s.setStack e.1 { e.2 with arb := { e.2.arb with
    pending := e.2.arb.pending.filter (fun q => !(ofStream t sid q))
    granted := e.2.arb.granted.filter (fun q => !(ofStream t sid q)) } }) s
  ((s.abortRing t sid).setStream t sid .reset).stopTimer (.stall t sid)

end Sys2Proof.Machine
end

