-- ==== Sys2Proof/Machine/Stacks.lean ====
section
/-!
DEFINITION. The arbiter of a stack interface (R227, R228), accesses and the error-correcting code (R257–R261), refresh,
training and recalibration (R273, R274), invalidation (R268, R269) and the page mover (R271, R272).
-/
namespace Sys2Proof.Machine

/-! ## The arbiter (R227, R228) -/

/-- The stream request that an arbiter request stands for. -/
def State.arbStream (s : State) (src : ArbSource) : Option StreamReq :=
  match src with
  | .stream t sid seq =>
    (((s.ste t.val).stream sid.val).reqs.find? (fun r => decide (r.seq = seq) && !r.done && decide (r.reply = none)))
  | _ => none

def State.setArb (s : State) (k : Nat) (a : Arb) : State := s.setStack k { s.stack k with arb := a }

/-- A stream context's number as the source of a request. -/
def sidOf (n : Nat) : Fin 16 := Fin.ofNat 16 n

/-- A request of a tile that the arbiter has: pending, granted or answered. -/
def Arb.has (a : Arb) (src : ArbSource) : Bool :=
  a.pending.any (fun q => decide (q.src = src)) || a.granted.any (fun q => decide (q.src = src))

/-- An earlier request of the tile to stack `k` has not reached its arbiter (R22). -/
def State.arbSentBefore (s : State) (k : Nat) (t : Fin 48) (r : StreamReq) : Bool :=
  (s.ste t.val).streams.any (fun e => e.2.reqs.any (fun q =>
    !q.done && decide (q.reply = none) && decide (q.sent < r.sent) && decide (physAt q.pa = .stack k)
      && !((s.stack k).arb.has (.stream t (sidOf e.1) q.seq))))

/-- ARBITER_ACCEPT (R227): a request enters the pending requests; one with T loads its slack counter. A full arbiter
accepts none, and requests of one tile arrive in the order sent (R22). A stream's request comes with its own address,
length and data; a non-stream request carries those of the row. -/
def execArbiterAccept (k : Fin 12) (src : ArbSource) (addr len : Nat) (write : Bool) (data : List Byte) (s : State) :
    Result :=
  .next (
    let a := (s.stack k.val).arb
    if ¬ s.stackUp k.val ∨ 512 ≤ a.pending.length then s
    else
      match src with
      | .stream t sid _ =>
        match s.arbStream src with
        | none => s
        | some r =>
          if physAt r.pa ≠ .stack k.val ∨ a.has src ∨ s.arbSentBefore k.val t r then s
          else
            let x := (s.ste t.val).stream sid.val
            let q : ArbReq :=
              { src := src, addr := r.pa, len := r.len, write := x.store
                data := if x.store then s.ringBytes t.val x r else []
                slack := r.ttn.map (fun n => (n : Int) - (a.latEst.toNat * 65536 : Nat)), aged := false, waited := 0
                order := a.arrivals }
            s.setArb k.val { a with pending := a.pending ++ [q], arrivals := a.arrivals + 1 }
      | _ =>
        if physAt addr ≠ .stack k.val then s
        else s.setArb k.val { a with
          pending := a.pending ++ [⟨src, addr, len, write, data, none, false, 0, a.arrivals⟩], arrivals := a.arrivals + 1 })

/-- BE_WAIT in units of 2^-16 ns. -/
def State.beWait (s : State) (k : Nat) : Nat := s.cfg .nme k 0xF00 31 16 * 65536

/-- A request without slack that has waited longer than `wait` becomes a deadline request with slack 0 (R227). -/
def ArbReq.aging (wait : Nat) (q : ArbReq) : ArbReq :=
  if q.slack.isNone ∧ wait < q.waited then { q with slack := some 0, aged := true } else q

/-- ARBITER_AGEING (R227): a request without slack that has waited longer than BE_WAIT is treated as a deadline request
with slack 0 from this moment. -/
def execArbiterAgeing (k : Fin 12) (i : Nat) (s : State) : Result :=
  .next (
    let a := (s.stack k.val).arb
    match a.pending[i]? with
    | none => s
    | some q => s.setArb k.val { a with pending := a.pending.set i (q.aging (s.beWait k.val)) })

/-- Whether two requests are of one stream. -/
def sameStream (a b : ArbSource) : Bool :=
  match a, b with
  | .stream t i _, .stream t' i' _ => decide (t = t') && decide (i = i')
  | _, _ => false

/-- The slack a request is ranked with: the least of its own and of later requests of its stream. -/
def rankSlack (ps : List ArbReq) (q : ArbReq) : Option Int :=
  (ps.filter (fun x => decide (x = q) || (sameStream x.src q.src && decide (q.order < x.order)))).foldl
    (fun m x => match m, x.slack with
      | none, v => v
      | some a, some b => some (min a b)
      | some a, none => some a) none

/-- Requests no earlier request of whose stream is pending. -/
def eligible (ps : List ArbReq) : List ArbReq :=
  ps.filter (fun q => !(ps.any (fun x => sameStream x.src q.src && decide (x.order < q.order))))

/-- The request granted next: the least ranked slack among deadline requests, ties to the earliest arrival; else the
earliest best-effort request. -/
def pickGrant (ps : List ArbReq) : Option ArbReq :=
  let es := eligible ps
  let dl := es.filter (fun q => (rankSlack ps q).isSome)
  let better := fun (a b : ArbReq) =>
    let ra := (rankSlack ps a).getD 0
    let rb := (rankSlack ps b).getD 0
    decide (ra < rb) || (decide (ra = rb) && decide (a.order < b.order))
  match dl with
  | q :: qs => some (qs.foldl (fun m x => if better x m then x else m) q)
  | [] => match es with
    | q :: qs => some (qs.foldl (fun m x => if x.order < m.order then x else m) q)
    | [] => none

/-- ARBITER_GRANT (R227, R228, R274): requests that have waited too long age first; requests wait while the interface
recalibrates. -/
def execArbiterGrant (k : Fin 12) (s : State) : Result :=
  .next (
    let st := s.stack k.val
    if ¬ s.domOn (domStack k.val) ∨ st.st ≠ .ready then s
    else
      let ps := st.arb.pending.map (ArbReq.aging (s.beWait k.val))
      match pickGrant ps with
      | none => s
      | some q =>
        let s := s.setArb k.val { st.arb with
          pending := ps.filter (fun x => decide (x.order ≠ q.order)), granted := st.arb.granted ++ [q] }
        if q.aged then s.countStack k.val 0x0204 1 nobody
        else match q.slack with
          | some v => if v < 0 then s.countStack k.val 0x0203 1 nobody else s
          | none => s)

/-! ## The error-correcting code (R258, R259, R261) -/

/-- ECC_CHECK (R258): what a check of a line finds. A line already poisoned counts nothing further. -/
def State.eccCheck (s : State) (k line : Nat) (find : EccFind) : State :=
  if SMap.get false s.poison line then s
  else match find with
    | .clean => s
    | .corrected => (s.flag .nme k 0xD00 (bit 30)).countStack k 0x0201 1 nobody
    | .uncorrectable =>
      let s := { s with poison := SMap.set false s.poison line true }
      let s := s.countStack k 0x0202 1 nobody
      if (s.flags .nme k 0xD00).getLsbD 31 then s.flag .nme k 0xD00 (bit 29)
      else (s.setStack k { s.stack k with eccAddr := line * 64 }).flag .nme k 0xD00 (bit 31)

/-- The lines that [a, a+n) touches. -/
def linesOf (a n : Nat) : List Nat :=
  if n = 0 then [] else (List.range ((a + n - 1) / 64 + 1 - a / 64)).map (fun i => a / 64 + i)

/-- The lines that a write of [a, a+n) covers in part: only those are read and checked (R259). -/
def partLines (a n : Nat) : List Nat :=
  (linesOf a n).filter (fun l => decide (l * 64 < a) || decide (a + n < l * 64 + 64))

/-- The checks of several lines, in order; `ecc` is what each finds, clean past its end. -/
def State.eccChecks (s : State) (k : Nat) (lines : List Nat) (ecc : List EccFind) : State :=
  ecc.zipIdx.foldl (fun s e =>
    match lines[e.2]? with
    | some l => s.eccCheck k l e.1
    | none => s) s

/-- LAT_EST after a completed read (R228): rounded to nearest, a tie upward. -/
def latNext (est sample : Nat) : BitVec 16 :=
  BitVec.ofNat 16 (min 65535 ((est : Int) + ((sample : Int) - est + 8) / 16).toNat)

/-- Record a stack's answer to a stream's request; the tile's answers are numbered as they are given (R22). -/
def State.answerStream (s : State) (src : ArbSource) (r : FarReply) : State :=
  match src with
  | .stream t sid seq =>
    let e := s.ste t.val
    let x := e.stream sid.val
    s.setSte t.val { e.setStream sid.val { x with
      reqs := x.reqs.map (fun q => if q.seq = seq then { q with reply := some r, answ := e.answers } else q) } with
        answers := e.answers + 1 }
  | _ => s

/-- STACK_ACCESS (R255–R259): the oldest granted request is performed; `ecc` is what the checks find, of every line of a
read and of the lines that a write covers in part, `ns` the time from grant to the last flit. A line that a write covers
whole is not checked and loses its poison. -/
def execStackAccess (k : Fin 12) (ecc : List EccFind) (ns : Nat) (s : State) : Result :=
  .next (
    let a := (s.stack k.val).arb
    match a.granted with
    | [] => s
    | q :: rest =>
      let s := s.setArb k.val { a with granted := rest }
      let s := s.eccChecks k.val (if q.write then partLines q.addr q.len else linesOf q.addr q.len) ecc
      let live : Bool := match q.src with
        | .stream _ _ _ => (s.arbStream q.src).isSome
        | _ => true
      if q.write then
        let s := if live then s.writeBytes q.addr (q.data.take q.len) else s
        (s.countStack k.val 0x0206 q.len nobody).answerStream q.src (.ok [])
      else
        let est := latNext a.latEst.toNat (ns + s.cfg .nme k.val 0xF00 15 0)
        let s := s.setArb k.val { (s.stack k.val).arb with latEst := est }
        let s := s.countStack k.val 0x0205 q.len nobody
        s.answerStream q.src (if s.poisoned q.addr q.len then .memError else .ok (s.readBytes q.addr q.len)))

/-- SCRUB (R260): the base die checks a line of its stack; an uncorrectable one is charged to no context. -/
def execScrub (k : Fin 12) (line : Nat) (ecc : EccFind) (s : State) : Result :=
  .next (
    if ¬ s.stackUp k.val ∨ 2 ^ 30 ≤ line then s
    else
      let s := s.eccCheck k.val (stackBase k.val / 64 + line) ecc
      s.setStack k.val { s.stack k.val with scrubAt := (line + 1) % 2 ^ 30 })

/-- REFRESH (R273): the base die refreshes a bank. -/
def execRefresh (k : Fin 12) (bank : Fin 2048) (s : State) : Result :=
  .next (
    if s.domOn (domStack k.val) then s.setStack k.val { s.stack k.val with refreshAt := (bank.val + 1) % 2048 } else s)

/-! ## Training and recalibration (R274) -/

/-- STACK_RECAL (R273, R274): a move of 5 °C since the last calibration pauses the interface, at most once every 32 ms; HOT
follows the temperature; the row ends a pause that runs. -/
def execStackRecal (k : Fin 12) (temp : BitVec 8) (s : State) : Result :=
  .next (
    let st := s.stack k.val
    if ¬ s.domOn (domStack k.val) then s
    else match st.st with
      | .recal => s.setStack k.val { st with st := .ready }
      | .ready =>
        let d := max temp.toNat st.calTemp.toNat - min temp.toNat st.calTemp.toNat
        if 5 ≤ d ∧ (¬ s.timerRuns (.recal k.val) ∨ s.expired (.recal k.val)) then
          ((s.setStack k.val { st with
            st := .recal, temp := temp, hot := decide (85 < temp.toNat), calTemp := temp, recals := st.recals + 1 }).startTimer
              (.recal k.val) (.base k.val) 32000000).countStack k.val 0x0210 1 nobody
        else s
      | _ => s)

/-- A stack interface ends training (R274, R228): READY with LAT_EST at MESH_NS + 60 and no recalibrations, or FAILED. -/
def State.stackTrained (s : State) (k : Nat) (ok : Bool) : State :=
    let st := s.stack k
    if st.st ≠ .training then s
    else if ok then
      s.setStack k { st with
        st := .ready, recals := 0, calTemp := st.temp
        arb := { st.arb with latEst := BitVec.ofNat 16 (s.cfg .nme k 0xF00 15 0 + 60) } }
    else (s.setStack k { st with st := .failed }).loseWindows

/-! ## Invalidation (R268, R269) -/

def State.invResult (s : State) (p : Nat) (r : Byte) : State := s.setPart p { s.part p with invRes := r }

/-- What the three operations of CTX_INV_CMD share: DENIED, BUSY and RANGE. -/
def State.invCmd (s : State) (m : Master) (p c : Nat) (f : State) : State :=
  if ¬ s.reaches m ⟨.ctx, p⟩ ∨ (s.cfgOf p).isNone then s
  else if ¬ s.fnOrKp m p then s.invResult p 0x03
  else if (s.part p).inv.isSome then s.invResult p 0x01
  else if s.ctxQuota p ≤ c then s.invResult p 0x02
  else f

/-- The range of the invalidation registers (R268). -/
def State.invRange (s : State) (p : Nat) : Nat × Nat :=
  let lo := s.rw .ctx p 0x10 31 16 * 65536 + s.rw .ctx p 0x14 15 0 * 2 ^ 32
  (lo, lo + (s.rw .ctx p 0x14 31 16 + 1) * 65536)

/-- Drop the cached pages of a device context that cover any part of [lo, hi). -/
def State.dropRange (s : State) (dc lo hi : Nat) : State :=
  { s with tlbs := (s.tlbs.map (fun e => (e.1, e.2.filter (fun x =>
      !(decide (x.ctx = dc) && decide (x.va < hi) && decide (lo < x.va + x.bytes)))))).filter (fun e => decide (e.2 ≠ [])) }

/-- INVALIDATE of a range (R269). -/
def execInvalidateRange (m : Master) (p : Fin 8) (c : BitVec 8) (s : State) : Result :=
  .next (s.invCmd m p.val c.toNat (
    let r := s.invRange p.val
    let dc := s.devCtx p.val c.toNat
    let s := s.dropRange dc r.1 r.2
    s.setPart p.val { s.part p.val with inv := some ⟨dc, false, r.1, r.2, false⟩ }))

/-- INVALIDATE of every entry of a context (R269). -/
def execInvalidateContext (m : Master) (p : Fin 8) (c : BitVec 8) (s : State) : Result :=
  .next (s.invCmd m p.val c.toNat (
    let dc := s.devCtx p.val c.toNat
    let s := s.dropCtx dc
    s.setPart p.val { s.part p.val with inv := some ⟨dc, true, 0, 2 ^ 48, false⟩ }))

def PageMap.inRange (h : PageMap) (lo hi : Nat) : Bool :=
  decide (h.page * 65536 < hi) && decide (lo < (h.page + 1) * 65536)

/-- A queue of partition `p` that device context `dc` owns. -/
def State.queIn (s : State) (p dc dq : Nat) : Bool :=
  match s.queOwner dq with
  | some (p', q) => decide (p' = p) && decide (s.qDevCtx p q = dc)
  | none => false

/-- A mark of local context `lc` lies in [lo, hi). -/
def State.markIn (s : State) (p lc i lo hi : Nat) : Bool :=
  decide (s.markVa p lc i < hi) && decide (lo < s.markVa p lc i + 8)

/-- A wait of the queue is registered, outstanding, and on a mark in [lo, hi) (R86, R269). -/
def State.waitIn (s : State) (p q lo hi : Nat) : Bool :=
  match waitingIdx (s.q p q) with
  | none => false
  | some i =>
    match (s.q p q).cmds[i]? with
    | none => false
    | some c => c.regd && [0, 1, 2, 3].any (fun w => !c.waitMet w && s.markIn p (s.qCtx p q) (waitMark (c.word (1 + w))) lo hi)

/-- What still uses a translation of [lo, hi) of device context `dc` (R269): a command or chain that holds a page, a
registered mark wait, a release on its way or at the host, a request of a stream (of its far side or its ring), an entry of the
near-memory engine. -/
def State.holdsIn (s : State) (p dc lo hi : Nat) : Bool :=
  s.ques.any (fun e => s.queIn p dc e.1 &&
    (s.waitIn p (e.1 % 2048) lo hi ||
      e.2.cmds.any (fun c =>
        (decide (c.phase = .releasing) && s.markIn p (s.qCtx p (e.1 % 2048)) (waitMark (c.word 5)) lo hi)
          || c.held.any (·.inRange lo hi))))
  || s.chains.any (fun e => e.2.any (fun ch => s.queIn p dc ch.ref.q && ch.held.any (·.inRange lo hi)))
  || (s.rels ++ s.pcx.reqs.filterMap (fun r => match r with
      | .release x => some x
      | _ => none)).any (fun r => decide (r.cmd = none) && decide (s.blkPart r.party = some p))
  || s.stes.any (fun e => e.2.streams.any (fun x => decide (x.2.ctx = dc) && x.2.reqs.any (fun r =>
      !r.done && (x.2.held.any (·.inRange lo hi) || decide (opFarOf x.2.w (r.off / x.2.elem) < hi) && decide (lo < opFarOf x.2.w (r.off / x.2.elem) + r.len)))))
  || s.nmes.any (fun n => n.2.ops.any (fun o => s.queIn p dc o.ref.q &&
      o.entries.any (fun e => !e.written && e.pages.any (·.inRange lo hi))))

/-- INVALIDATE_DONE (R269): once nothing holds a dropped translation. -/
def execInvalidateDone (p : Fin 8) (s : State) : Result :=
  .next (
    match (s.part p.val).inv with
    | none => s
    | some o =>
      if s.holdsIn p.val o.ctx o.lo o.hi then s
      else s.setPart p.val { s.part p.val with inv := none, invRes := 0x00 })

/-- The bound streams of a tile by number. -/
def State.allStreams (s : State) : List (Nat × Nat × Stream) :=
  s.stes.flatMap (fun e => e.2.streams.map (fun x => (e.1, x.1, x.2)))

/-- PAGED_IN (R269, R230): the halted streams of the context whose faulting element lies in the range retry. -/
def execPagedIn (m : Master) (p : Fin 8) (c : BitVec 8) (s : State) : Result :=
  .next (s.invCmd m p.val c.toNat (
    let r := s.invRange p.val
    let dc := s.devCtx p.val c.toNat
    let s := s.invResult p.val 0x00
    (s.allStreams.filter (fun x =>
      let va := opFarOf x.2.2.w (x.2.2.issued / x.2.2.elem)
      decide (x.2.2.ctx = dc) && decide (x.2.2.st = .halted) && decide (r.1 ≤ va) && decide (va < r.2))).foldl
        (fun s x => s.retryStream x.1 x.2.1) s))

/-! ## The page mover (R271, R272) -/

def State.moveResult (s : State) (k : Nat) (r : Byte) : State := s.setStack k { s.stack k with moveRes := r }

/-- The context that a move is ordered for (R427): DESIGN CHOICE (log 26) the runtime's own context, where a keeper pair orders
it while the runtime of its partition owns one. A function orders a move for no context. -/
def State.moveCtx (s : State) (m : Master) : Option Nat :=
  match m with
  | .kp k =>
    (match s.partOfKp k.val with
     | some p => (s.leadOf p).bind (fun l =>
         let x := s.pair l
         if x.owns then x.sampled.map (fun y => s.devCtx p y.2) else none)
     | none => none)
  | _ => none

/-- Start a move: DENIED, BUSY, RANGE, or it runs. -/
def State.moveCmd (s : State) (m : Master) (k : Nat) (toHost : Bool) : State :=
  if ¬ s.reaches m ⟨.nme, k⟩ then s
  else if ¬ s.pfOrKp m ((s.partOfStack k).getD 8) then s.moveResult k 0x05
  else if (s.stack k).move.isSome then s.moveResult k 0x01
  else
    let dev := s.rw .nme k 0xE00 31 12 * 4096 + s.rw .nme k 0xE04 15 0 * 2 ^ 32
    let host := s.rw .nme k 0xE08 31 12 * 4096 + s.rw .nme k 0xE0C 15 0 * 2 ^ 32
    let units := s.rw .nme k 0xE10 17 0 + 1
    if dev < stackBase k ∨ stackBase (k + 1) < dev + units * 4096 ∨ host < hostBase ∨ 2 ^ 48 < host + units * 4096 then
      (s.setStack k { s.stack k with moved := 0 }).moveResult k 0x02
    else s.setStack k { s.stack k with move := some ⟨toHost, dev, host, units, s.moveCtx m⟩, moved := 0, moveRes := 0 }

/-- TO_HOST (R271). -/
def execToHost (m : Master) (k : Fin 12) (s : State) : Result := .next (s.moveCmd m k.val true)

/-- FROM_HOST (R271). -/
def execFromHost (m : Master) (k : Fin 12) (s : State) : Result := .next (s.moveCmd m k.val false)

/-- A move stops with a result. -/
def State.moveStop (s : State) (k : Nat) (r : Byte) : State := s.setStack k { s.stack k with move := none, moveRes := r }

/-- One more unit is complete at its destination. -/
def State.moveStep (s : State) (k : Nat) (o : MoveOp) : State :=
  let st := s.stack k
  let s := s.setStack k { st with moved := st.moved + 1, move := if st.moved.toNat + 1 < o.units then some o else none }
  s.countStack k 0x0211 1 nobody

/-- The page mover moves its next 4 KiB unit (R271); `ecc` is what the checks of its lines find on the way out, `data` what
the host answers on the way in. A copy of the evictor goes first (R310). -/
def State.moveOne (s : State) (k : Nat) (data : Option (List Byte)) (ecc : List EccFind) : State :=
    match (s.stack k).move with
    | none => s
    | some o =>
      let fn := s.fnOf ((s.partOfStack k).getD 8)
      let i := (s.stack k).moved.toNat
      let dev := o.dev + i * 4096
      let host := o.host + i * 4096
      if ¬ s.stackUp k ∨ (s.kvf k).spill ≠ [] then s
      else if o.toHost then
        let s := s.eccChecks k (linesOf dev 4096) ecc
        if s.poisoned dev 4096 then s.moveStop k 0x04
        else if ¬ s.hostOk fn then (s.flag .pcx 0 0x14 (bit 30)).moveStop k 0x03
        else (s.hostWrite fn host (s.readBytes dev 4096) true).moveStep k o
      else match data with
        | some bs =>
          if s.hostOk fn then ((s.hostAsk fn host 4096).writeBytes dev ((bs ++ List.replicate 4096 0).take 4096)).moveStep k o
          else (s.flag .pcx 0 0x14 (bit 30)).moveStop k 0x03
        | none => (s.flag .pcx 0 0x14 (bit 30)).moveStop k 0x03

/-- MOVE_UNIT (R271). -/
def execMoveUnit (k : Fin 12) (data : Option (List Byte)) (ecc : List EccFind) (s : State) : Result :=
  .next (s.moveOne k.val data ecc)

end Sys2Proof.Machine
end

