-- ==== Sys2Proof/Machine/Attention.lean ====
section
/-!
DEFINITION. Attention in the stacks (R276–R299): the commands' fields and checks, taking up an entry (session, append,
snapshot, queries), the walk of a frame, forward and backward, the partial, and the handle.
-/
namespace Sys2Proof.Machine

/-! ## Fields (R279, R280) -/

def atRingEn (c : Cmd) : Bool := decide (bitsOf (c.word 6) 63 63 = 1)
def atRing (c : Cmd) : Nat := bitsOf (c.word 6) 62 57
def atMatchQ (c : Cmd) : Bool := decide (bitsOf (c.word 6) 56 56 = 1)
def atExplicit (c : Cmd) : Bool := decide (bitsOf (c.word 6) 55 55 = 1)
def atBatch (c : Cmd) : Nat := bitsOf (c.word 6) 47 0
def atLayer (c : Cmd) : Nat := bitsOf (c.word 7) 63 52
def atGroup (c : Cmd) : Nat := bitsOf (c.word 7) 51 44
def atRows (c : Cmd) : Nat := bitsOf (c.word 7) 43 40 + 1
def atN (c : Cmd) : Nat := bitsOf (c.word 7) 11 0 + 1
def atQfmt (c : Cmd) : Nat := bitsOf (c.word 8) 63 59
def atDim (c : Cmd) : Nat := 64 * 2 ^ bitsOf (c.word 8) 46 45
def atForm (c : Cmd) : KvForm :=
  ⟨atDim c, bitsOf (c.word 8) 58 54, bitsOf (c.word 8) 53 49, decide (bitsOf (c.word 8) 48 48 = 1),
    decide (bitsOf (c.word 8) 47 47 = 1)⟩
def atSm (c : Cmd) : Nat := bitsOf (c.word 9) 63 32
def atKs (c : Cmd) : Nat := bitsOf (c.word 9) 31 0
def atVs (c : Cmd) : Nat := bitsOf (c.word 10) 63 32
def atBwd (c : Cmd) : Bool := decide (c.opcode = 0x02)

/-- Word `i` of a batch entry. -/
def entWord (ws : List W64) (i : Nat) : Nat := (ws.getD i 0).toNat
def enQ (ws : List W64) : Nat := bitsOf (entWord ws 0) 47 0
def enCount (ws : List W64) : Nat := bitsOf (entWord ws 0) 63 48 + 1
def enOut (ws : List W64) : Nat := bitsOf (entWord ws 1) 47 0
/-- POS_LIMIT; 0xFFFF_FFFF places no limit, so it lies above every position of a frame (R280). -/
def enLimit (ws : List W64) : Nat :=
  if bitsOf (entWord ws 2) 63 32 = 0xFFFFFFFF then 2 ^ 33 else bitsOf (entWord ws 2) 63 32
def enSession (ws : List W64) : W32 := BitVec.ofNat 32 (entWord ws 2)
def enTag (ws : List W64) : Nat := bitsOf (entWord ws 3) 63 52
def enAppend (ws : List W64) : Bool := decide (bitsOf (entWord ws 3) 48 48 = 1)
def enList (ws : List W64) : Nat := bitsOf (entWord ws 3) 47 0
def enNew (ws : List W64) : Nat := bitsOf (entWord ws 4) 47 0
def enDo (ws : List W64) : Nat := bitsOf (entWord ws 5) 47 0
def enStats (ws : List W64) : Nat := bitsOf (entWord ws 6) 47 0
def enDkv (ws : List W64) : Nat := bitsOf (entWord ws 7) 47 0

/-! ## The check of the command (R80, R282) -/

/-- The unit-off answer of a stack's engine (R24, R25). -/
def badStackOff (k : Nat) : Bad := ⟨0x04, 0, 0, 1, stackBase k, 0x7F⟩

/-- An excluded, switched-off or untrained stack or engine answers unit-off. -/
def State.nmeGone (s : State) (p k : Nat) : Bool :=
  !((s.cfgOf p).map (fun g => stackIn s.mask g k)).getD false || s.mask.nme.testBit k
    || !(s.domOn (domNme k)) || !(s.stackUp k)

def State.targetStack (s : State) (p k : Nat) : Bool :=
  decide (k < 12) && ((s.cfgOf p).map (fun g => g.quadMask.testBit k && decide (g.frameQ.getD k 0 ≠ 0))).getD false

/-- The check of NME_ATTEND and NME_ATTEND_BWD. -/
def chkAttend (s : State) (p : Nat) (c : Cmd) : Except Bad Plan :=
  let f := atForm c
  let kv := fun x => (decide (1 ≤ x) && decide (x ≤ 8)) || decide (x = 0x0A)
  let mx := fun x => decide (5 ≤ x) && decide (x ≤ 7)
  checked
    ([(decide (c.ext ≠ 1), badWord 0), (!(s.targetStack p c.target), badWord 0),
      (s.targetStack p c.target && s.nmeGone p c.target, badStackOff c.target),
      (decide (bitsOf (c.word 6) 54 48 ≠ 0) || decide (atBatch c % 64 ≠ 0)
        || (atMatchQ c && (decide (f.kfmt = 8) || decide (f.kfmt = 0x0A))), badWord 6),
      (decide (bitsOf (c.word 7) 39 12 ≠ 0), badWord 7),
      (decide (atQfmt c = 0) || decide (4 < atQfmt c) || !(kv f.kfmt) || !(kv f.vfmt)
        || !(s.fmtOn p (atQfmt c)) || !(s.fmtOn p f.kfmt) || !(s.fmtOn p f.vfmt)
        || (f.kmx && (!(mx f.kfmt) || !(s.modeOn p 3))) || (f.vmx && (!(mx f.vfmt) || !(s.modeOn p 3)))
        || decide (bitsOf (c.word 8) 46 45 = 3) || decide (bitsOf (c.word 8) 44 0 ≠ 0), badWord 8),
      (!(posNormal (atSm c)) || !(posNormal (atKs c)), badWord 9),
      (!(posNormal (atVs c)) || decide (bitsOf (c.word 10) 31 0 ≠ 0), badWord 10)] ++ extZero c 3 7)
    ⟨[⟨atBatch c, 64 * atN c, false, inWord 6, none⟩], [(atBatch c, 64 * atN c)], []⟩

/-! ## Running commands -/

/-- The engine's command: its operation, the command, partition and queue. -/
def State.nmeOp (s : State) (k : Nat) : Option (AttOp × Cmd × Nat × Nat) :=
  match (s.nme k).ops.find? (·.started) with
  | none => none
  | some o =>
    match s.cmdAt o.ref, s.queOwner o.ref.q with
    | some c, some (p, q) => some (o, c, p, q)
    | _, _ => none

def State.setOp (s : State) (k : Nat) (o : AttOp) : State :=
  let n := s.nme k
  s.setNme k { n with ops := n.ops.map (fun x => if x.ref = o.ref then o else x) }

/-- The frames that a command's entries still hold: those of entries whose partial is not written (R286). -/
def AttOp.holds (o : AttOp) : List Nat := o.entries.flatMap (fun e => if e.written then [] else e.held)

/-- A command leaves the engine: its entries hold their frames no longer (R286). -/
def State.endOp (s : State) (k : Nat) (o : AttOp) : State :=
  let n := s.nme k
  ((s.setNme k { n with ops := n.ops.filter (fun x => decide (x.ref ≠ o.ref)) }).setKvf k ((s.kvf k).unhold o.holds)).stopTimer
    (.engine .nme k)

/-- A command's fault is raised once the entries before the failing one are complete with their handles pushed (R282); `s0`
is the state that waits for them. -/
def State.failEntry (s s0 : State) (k p : Nat) (o : AttOp) (c : Cmd) (before : List AttEntry) (b : Bad) : State :=
  if before ≠ [] ∨ ((s.ring (p * 64 + atRing c)).pushes).any (fun x => decide (x.1 = .nme k o.ref)) then s0
  else (s.endOp k o).failRef o.ref b 1 k 0

/-- The device key of ring `r` of partition `p`, and the pushes of an engine's command that wait in it. -/
def ringKey (p r : Nat) : Nat := p * 64 + r
def nmePushes (s : State) (p k : Nat) (c : Cmd) (ref : CmdRef) : List (RingParty × (W64 × W64) × Bool) :=
  ((s.ring (ringKey p (atRing c))).pushes).filter (fun x => decide (x.1 = .nme k ref))

/-- Start the oldest command that is begun and of this kind. -/
def State.startOp (s : State) (k : Nat) (bwd : Bool) : State :=
  let n := s.nme k
  if n.ops.any (·.started) then s
  else match n.ops with
    | [] => s
    | o :: os =>
      if o.bwd = bwd then (s.setNme k { n with ops := { o with started := true } :: os, entryIdx := 0 }).progress .nme k true
      else s

/-- NME_ATTEND (R284): the begun command starts on its batch. -/
def execNmeAttend (k : Fin 12) (s : State) : Result := .next (s.startOp k.val false)

/-- NME_ATTEND_BWD (R297): as NME_ATTEND, for gradients. -/
def execNmeAttendBwd (k : Fin 12) (s : State) : Result := .next (s.startOp k.val true)

/-! ## Taking up an entry (R282, R284) -/

/-- The field checks of an entry (R280, R282); the fault points into the batch table (R490). -/
def entryBad (c : Cmd) (e : Nat) (ws : List W64) : Option Bad :=
  let b := fun i => badIn 6 (8 * e + i)
  let hi := fun i => decide (bitsOf (entWord ws i) 63 48 ≠ 0)
  firstBad [
    (!(atExplicit c) && decide (bitsOf (entWord ws 0) 63 48 ≠ 0), b 0),
    (hi 1 || decide (enOut ws % 64 ≠ 0), b 1),
    (decide (bitsOf (entWord ws 3) 51 49 ≠ 0) || (enAppend ws && (atExplicit c || atBwd c))
      || (if atExplicit c then decide (enList ws % 8 ≠ 0) else decide (enList ws ≠ 0)), b 3),
    (hi 4, b 4),
    (if atBwd c then hi 5 else decide (entWord ws 5 ≠ 0), b 5),
    (if atBwd c then hi 6 else decide (entWord ws 6 ≠ 0), b 6),
    (if atBwd c then hi 7 else decide (entWord ws 7 ≠ 0), b 7)]

/-- The bytes of an entry's result: R rows of a partial (R291), or of dQ (R297). -/
def resultLen (c : Cmd) : Nat := if atBwd c then atRows c * 4 * atDim c else atRows c * (16 + 4 * atDim c)

/-- Bytes of the R rows of DIM elements in QFMT. -/
def atQBytes (c : Cmd) : Nat := packedBytes (fmtBits (atQfmt c)) (atRows c * atDim c)

/-- The ranges that an entry's addresses name; `app` where this stack appends. -/
def entryRanges (c : Cmd) (ws : List W64) (app : Bool) : List PRange :=
  let q := atQBytes c
  [⟨enQ ws, q, false, 0, none⟩, ⟨enOut ws, resultLen c, true, 0, none⟩]
  ++ (if atExplicit c then [⟨enList ws, 8 * enCount ws, false, 0, none⟩] else [])
  ++ (if app then [⟨enNew ws, (atForm c).slotBytes, false, 0, none⟩] else [])
  ++ (if atBwd c then [⟨enDo ws, q, false, 0, none⟩, ⟨enStats ws, 16 * atRows c, false, 0, none⟩] else [])

/-- The explicit frame list (R281), or its first bad word. -/
def explicitList (s : State) (k p : Nat) (pages : List PageMap) (c : Cmd) (ws : List W64) : Except Bad (List FrameRef) :=
  let xs := (List.range (enCount ws)).map (fun i => s.heldLe p pages (enList ws + 8 * i) 8)
  let bad := xs.findIdx (fun x => decide (bitsOf x 21 19 ≠ 0) || decide (s.frameN k ≤ bitsOf x 18 0)
    || decide ((atForm c).tpf < bitsOf x 31 22 + 1))
  if bad < xs.length then .error (badIn 6 bad)
  else .ok (xs.map (fun x => ⟨bitsOf x 18 0, bitsOf x 63 32, bitsOf x 31 22 + 1⟩))

/-- Frames in ascending POS0, those at or above POS_LIMIT left out (R284). -/
def ascending (fs : List FrameRef) (limit : Nat) : List FrameRef :=
  (fs.filter (fun f => decide (f.pos0 < limit))).mergeSort (fun a b => decide (a.pos0 ≤ b.pos0))

/-- The slots of a frame that a walk attends: those below POS_LIMIT (R284). -/
def slotsOf (f : FrameRef) (limit : Nat) : Nat := min f.valid (limit - f.pos0)

/-- A query row before its first frame (R290). -/
def freshRow : AttRow := ⟨0xFF800000, 0, [], 0, false, []⟩

/-- What an append carries. -/
def State.appArg (s : State) (p : Nat) (pages : List PageMap) (c : Cmd) (ws : List W64) : AppArg :=
  ⟨enSession ws, atLayer c, atGroup c, atForm c, s.heldRead p pages (enNew ws) (atForm c).slotBytes⟩

/-- Step 4 of R284: the query rows are read over the mesh, once. DEDUCED (log 92): the rows of DO_ADDR and STATS_ADDR are
read with them. Bytes of the host aperture are free values, fresh for each entry. -/
def State.readRows (s : State) (p : Nat) (c : Cmd) (e : AttEntry) : AttEntry × State :=
  ({ e with qRows := s.heldRead p e.pages (enQ e.words) (atQBytes c)
            doRows := if atBwd c then s.heldRead p e.pages (enDo e.words) (atQBytes c) else []
            stats := if atBwd c then s.heldRead p e.pages (enStats e.words) (16 * atRows c) else [] }, s.bump)

/-- Steps 3 and 4 of R284 for an entry whose append is done: the snapshot and its holds; NOT_RESIDENT, EMPTY or the
frames to walk; then the query rows. The backward pass translates the gradient's pages now that their number is known. -/
def State.takeSnapshot (s : State) (k p q : Nat) (c : Cmd) (e : AttEntry) : Except Bad AttEntry × State :=
  let limit := enLimit e.words
  let slot := handleSlot (enSession e.words)
  let fin := fun (fs : List FrameRef) (held : List Nat) (st : EntStat) (s : State) =>
    let n := fs.foldl (fun a f => a + slotsOf f limit) 0
    let dkv : PRange := ⟨enDkv e.words, if atBwd c then n * 8 * atDim c else 0, true, 0, none⟩
    match s.placeRange (tlbBase k) p (s.qCtx p q) dkv e.pages with
    | (.error b, s) => (Except.error b, s)
    | (.ok pages, s) =>
      let r := (s.setKvf k ((s.kvf k).hold held)).readRows p c { e with
        pages := pages, frames := fs, held := held, status := st, waiting := false
        rows := List.replicate (atRows c) freshRow }
      (Except.ok r.1, r.2)
  if atExplicit c then
    match explicitList s k p e.pages c e.words with
    | .error b => (.error b, s)
    | .ok xs => let fs := ascending xs limit; fin fs [] (if fs = [] then .empty else .ok) s
  else
    let s := s.setKvf k ((s.kvf k).adopt (enSession e.words) (atLayer c) (atGroup c))
    let v := s.kvf k
    let ms := v.snapshot slot (atLayer c) (atGroup c) limit
    let held := ms.filterMap (·.frame?)
    if ms.any (fun m => decide (m.frame? = none)) then fin [] held .notResident s
    else
      let fs := held.map (fun f => (⟨f, (v.frame f).pos0, (v.frame f).valid⟩ : FrameRef))
      fin fs held (if fs = [] then .empty else .ok) s

/-- An entry with a status that ends it before any snapshot. -/
def endedEntry (c : Cmd) (e : AttEntry) (st : EntStat) : AttEntry :=
  { e with frames := [], held := [], rows := List.replicate (atRows c) freshRow, status := st, waiting := false }

/-- Steps 1 to 4 of R284 for entry `i`: what the engine holds of it, or the fault that refuses it. -/
def State.takeEntry (s : State) (k p q i : Nat) (c : Cmd) : Except Bad AttEntry × State :=
  let ws := (List.range 8).map (fun j => BitVec.ofNat 64 (s.heldLe p c.held (atBatch c + 64 * i + 8 * j) 8))
  let slot := handleSlot (enSession ws)
  let live := s.liveSes p (enSession ws)
  let app := enAppend ws && live && decide (s.tailStack p slot (atLayer c) (atGroup c) = k)
  match entryBad c i ws with
  | some b => (.error b, s)
  | none =>
    match s.placeRanges (tlbBase k) p (s.qCtx p q) (entryRanges c ws app) [] with
    | (.error b, s) => (.error b, s)
    | (.ok pages, s) =>
      let e : AttEntry := ⟨i, ws, pages, [], 0, [], .ok, [], false, false, [], [], []⟩
      if ¬ atExplicit c ∧ ¬ live then (.ok (endedEntry c e .staleSession), s)
      else if app then
        let a := s.appArg p pages c ws
        let w := s.whoOf p q c
        if (s.sesEnt p slot).parked then (.ok (endedEntry c e .kvExhausted), s)
        else match s.append k p i a w with
          | (.refused, s) => (.error (badIn 6 (8 * i + 3)), s)
          | (.exhausted, s) => (.ok (endedEntry c e .kvExhausted), s.park k p a w)
          | (.wait, s) => (.ok { e with waiting := true }, s)
          | (.done, s) => s.takeSnapshot k p q c e
      else s.takeSnapshot k p q c e

/-- NME_ENTRY_TAKE_UP (R284): the next entry is taken up beside at most one other. The fault of an entry is raised once
the entries before it are complete with their handles pushed (R282). -/
def execNmeEntryTakeUp (k : Fin 12) (s : State) : Result :=
  .next (
    match s.nmeOp k.val with
    | none => s
    | some (o, c, p, q) =>
      let open_ := o.entries.filter (fun e => !e.written)
      if atN c ≤ o.next ∨ 2 ≤ open_.length ∨ o.entries.any (·.waiting) then s
      else
        let h := enSession ((List.range 8).map (fun j => BitVec.ofNat 64 (s.heldLe p c.held (atBatch c + 64 * o.next + 8 * j) 8)))
        if ¬ atExplicit c ∧ open_.any (fun e => decide (enSession e.words = h)) then s
        else match s.heldStops p c.held (atBatch c + 64 * o.next) 64 with
        | some b => s.failEntry s k.val p o c o.entries b
        | none =>
          match s.takeEntry k.val p q o.next c with
          | (.error b, s') => s'.failEntry s k.val p o c o.entries b
          | (.ok e, s) =>
            ((s.setOp k.val { o with next := o.next + 1, entries := o.entries ++ [e] }).progress .nme k.val true).bump)

/-! ## Operands of the walk (R277, R287) -/

/-- Token slot `t` of one half of a frame, decoded to L20 (R277, R287). -/
def State.slotVec (s : State) (base tpf dim fmt : Nat) (mx : Bool) (t : Nat) : List Num :=
  let b := fmtBits fmt
  (List.range dim).map (fun j =>
    let sc := if mx then some (s.readLe (base + tpf * dim * b / 8 + t * dim / 32 + j / 32) 1) else none
    l20Num (decodeElem false fmt 0 sc (s.elemAt base b (t * dim + j))))

/-- Element `i` of a packed array of `b`-bit elements. -/
def packedElem (bs : List Byte) (b i : Nat) : Nat :=
  leNat ((bs.drop (b * i / 8)).take ((b * i % 8 + b + 7) / 8)) / 2 ^ (b * i % 8) % 2 ^ b

/-- Row `r` of rows of DIM elements in QFMT that step 4 read, decoded to L20. -/
def qRow (c : Cmd) (bs : List Byte) (r : Nat) : List Num :=
  (List.range (atDim c)).map (fun j =>
    l20Num (decodeElem false (atQfmt c) 0 none (packedElem bs (fmtBits (atQfmt c)) (r * atDim c + j))))

/-- MATCH_Q: the query rounded to KFMT, with E8M0 scales for 0x05 to 0x07 (R287). -/
def matchQ (kfmt : Nat) (q : List Num) : List Num :=
  let rnd := fun (x : Num) => (convert kfmt 0 .near true x).code
  if 5 ≤ kfmt ∧ kfmt ≤ 7 then
    (List.range (q.length / 32)).flatMap (fun i =>
      let xs := (q.drop (32 * i)).take 32
      let e := blockScale kfmt xs
      xs.map (fun x => l20Num (decodeElem false kfmt 0 (some e) (rnd (x.scale (127 - (e : Int)))))))
  else q.map (fun x => l20Num (decodeElem false kfmt 0 none (rnd x)))

def fp32Near (x : Num) : W32 := BitVec.ofNat 32 (fFP32.encode .near true x)
def l20Near (x : Num) : Num := fL20.decode (fL20.encode .near true x)
def oneNum : Num := .fin false 1 0

/-- σ of R289. -/
def atSigma (c : Cmd) : Num := (fp32Num (BitVec.ofNat 32 (atSm c))).mul false (fp32Num (BitVec.ofNat 32 (atKs c)))

/-- The score of a query row against a key (R289). -/
def scoreOf (c : Cmd) (q k : List Num) : W32 := fp32Near ((columnWord false (q.zip k)).mul false (atSigma c))

/-- 2^(a − b) with relative error at most 2^-22, which a free value picks within the bound (R290). -/
def pow2Free (a b : W32) (free : Nat) : Num :=
  match exp2Fx (fxOf ((fp32Num a).add false false (fp32Num b).negate)) with
  | .fin _ m e => .fin false (m * (2 ^ 40 - 2 ^ 18 + 1 + free % (2 ^ 19 - 1))) (e - 40)
  | z => z

/-- A weight p: as `pow2Free`, and 0 below 2^-126 (R290). -/
def pow2Near (a b : W32) (free : Nat) : Num :=
  let y := pow2Free a b free
  if y.cmp (.fin false 1 (-126)) < 0 then .fin false 0 0 else y

def nan32 : W32 := 0x7FC00000

/-- One query row processes a frame: scores, new maximum, weights and sums (R290). `ks` and `vs` are the attended
slots' keys and values. -/
def rowFrame (c : Cmd) (q : List Num) (ks vs : List (List Num)) (free : Nat) (r : AttRow) : AttRow :=
  let ss := ks.map (scoreOf c q)
  let bad := ss.any (fun x => (fp32Num x).isNaN || (fp32Num x).isInf) || vs.any (fun v => v.any Num.isNaN)
  let r := { r with count := r.count + ss.length }
  if r.nan ∨ bad then { r with m := nan32, l := nan32, o := List.replicate (atDim c) nan32, nan := true }
  else if ss = [] then r
  else
    let old := if r.o = [] then List.replicate (atDim c) (0 : W32) else r.o
    let mn := ss.foldl (fun m x => if (fp32Num m).cmp (fp32Num x) < 0 then x else m) r.m
    let alpha := pow2Free r.m mn (Config.freeNat free)
    let grow := decide (mn ≠ r.m) && decide (r.m ≠ 0xFF800000)
    let sc := fun (x : W32) => if grow then fp32Near ((fp32Num x).mul false alpha) else x
    let ps := ss.zipIdx.map (fun x => l20Near (pow2Near x.1 mn (Config.freeNat (free + 1 + x.2))))
    let w := columnWord false (ps.map (fun p => (p, oneNum)))
    let o := (old.map sc).zipIdx.map (fun x =>
      fp32Near ((fp32Num x.1).add false false (columnWord false ((ps.zip vs).map (fun pv => (pv.1, pv.2.getD x.2 (.fin false 0 0)))))))
    { r with m := mn, l := fp32Near ((fp32Num (sc r.l)).add false false w), o := o, masses := r.masses ++ [(w, mn)] }

/-! ## The backward pass (R298) -/

/-- κ of R298: SM_SCALE × ln 2, from the FP32 value of ln 2. -/
def atKappa (c : Cmd) : Num := (fp32Num (BitVec.ofNat 32 (atSm c))).mul false (fp32Num 0x3F317218)

/-- A row's weight P and score gradient dS for one token (R298). -/
structure BwdTok where
  p  : Num
  ds : Num
  deriving DecidableEq, Repr

/-- P and dS of a row against one token: statistics m*, l*, Δ_r of the row. -/
def bwdTok (c : Cmd) (q dO : List Num) (stat : W32 × W32 × W32) (k v : List Num) (free : Nat) : BwdTok :=
  let sc := scoreOf c q k
  let e := if (fp32Num sc).isNaN ∨ (fp32Num sc).isInf ∨ (fp32Num stat.1).isNaN ∨ (fp32Num stat.1).isInf then nanCanon
    else pow2Near sc stat.1 (Config.freeNat free)
  let p := match e, fp32Num stat.2.1 with
    | .fin n m x, .fin n' m' x' => if m' = 0 then (if m = 0 then nanCanon else .inf (n != n')) else quotNum (n != n') m x m' x'
    | .fin n _ _, .inf n' => .fin (n != n') 0 0
    | _, _ => nanCanon
  let p := l20Near p
  let dP := (columnWord false (dO.zip v)).mul false (fp32Num (BitVec.ofNat 32 (atVs c)))
  ⟨p, l20Near (p.mul false (dP.add false false (fp32Num stat.2.2).negate))⟩

/-- The rows' statistics (R297). -/
def bwdStat (e : AttEntry) (r : Nat) : W32 × W32 × W32 :=
  let w := fun i => BitVec.ofNat 32 (leNat ((e.stats.drop (16 * r + i)).take 4))
  (w 0, w 4, w 8)

/-! ## One frame (R290, R298) -/

/-- The walk of one frame of an entry, forward: the rows after it. -/
def State.walkFwd (s : State) (k : Nat) (c : Cmd) (e : AttEntry) (f : FrameRef) : List AttRow :=
  let x := atForm c
  let n := slotsOf f (enLimit e.words)
  let b := s.frameBase k f.frame
  let ks := (List.range n).map (s.slotVec b x.tpf x.dim x.kfmt x.kmx)
  let vs := (List.range n).map (s.slotVec (b + 65536) x.tpf x.dim x.vfmt x.vmx)
  e.rows.zipIdx.map (fun r =>
    let q := qRow c e.qRows r.2
    rowFrame c (if atMatchQ c then matchQ x.kfmt q else q) ks vs (s.free + r.2 * (n + 1)) r.1)

/-- The walk of one frame backward: the rows' dQ after it, and the gradients of keys and values written. MATCH_Q rounds the
query for the scores only (R287). -/
def State.walkBwd (s : State) (k p : Nat) (c : Cmd) (e : AttEntry) (f : FrameRef) : List AttRow × State :=
  let x := atForm c
  let n := slotsOf f (enLimit e.words)
  let b := s.frameBase k f.frame
  let ks := (List.range n).map (s.slotVec b x.tpf x.dim x.kfmt x.kmx)
  let vs := (List.range n).map (s.slotVec (b + 65536) x.tpf x.dim x.vfmt x.vmx)
  let rs := List.range (atRows c)
  let raw := rs.map (qRow c e.qRows)
  let qs := raw.map (fun q => if atMatchQ c then matchQ x.kfmt q else q)
  let dOs := rs.map (qRow c e.doRows)
  let toks := rs.map (fun r => (ks.zip vs).zipIdx.map (fun kv =>
    bwdTok c (qs.getD r []) (dOs.getD r []) (bwdStat e r) kv.1.1 kv.1.2 (s.free + r * (n + 1) + kv.2)))
  let kap := atKappa c
  let ksc := fp32Num (BitVec.ofNat 32 (atKs c))
  let z : Num := .fin false 0 0
  let rows := e.rows.zipIdx.map (fun r =>
    let old := if r.1.o = [] then List.replicate (atDim c) (0 : W32) else r.1.o
    let tk := toks.getD r.2 []
    let o := old.zipIdx.map (fun y =>
      let sum := columnWord false ((tk.zip ks).map (fun tv => (tv.1.ds, tv.2.getD y.2 z)))
      fp32Near ((fp32Num y.1).add false false ((sum.mul false kap).mul false ksc)))
    { r.1 with o := o, count := r.1.count + n, nan := r.1.nan || o.any (fun w => (fp32Num w).isNaN) })
  let base := enDkv e.words + ((e.rows.head?.map (·.count)).getD 0) * 8 * atDim c
  let out := (List.range n).flatMap (fun t =>
    let dk := (List.range (atDim c)).map (fun j =>
      fp32Near ((columnWord false (rs.map (fun r => (((toks.getD r []).getD t ⟨z, z⟩).ds, (raw.getD r []).getD j z)))).mul false kap))
    let dv := (List.range (atDim c)).map (fun j =>
      fp32Near (columnWord false (rs.map (fun r => (((toks.getD r []).getD t ⟨z, z⟩).p, (dOs.getD r []).getD j z)))))
    dk ++ dv)
  (rows, s.heldWrite p e.pages base (out.flatMap (fun w => leBytes 4 w.toNat)))

/-! ## The partial (R285, R291) -/

def statCode : EntStat → Nat
  | .ok => 0 | .empty => 1 | .kvExhausted => 2 | .notResident => 3 | .memError => 4 | .staleSession => 5

/-- A row's O times V_SCALE (R290). -/
def rowOut (c : Cmd) (r : AttRow) : List W32 :=
  if r.nan then List.replicate (atDim c) nan32
  else (if r.o = [] then List.replicate (atDim c) (0 : W32) else r.o).map
    (fun x => fp32Near ((fp32Num x).mul false (fp32Num (BitVec.ofNat 32 (atVs c)))))

/-- The bytes of an entry's partial (R291), or of its dQ rows (R297). -/
def partialBytes (c : Cmd) (e : AttEntry) : List Byte :=
  (List.range (atRows c)).flatMap (fun i =>
    let r := if e.status = .ok then e.rows.getD i freshRow else freshRow
    if atBwd c then
      (if r.o = [] then List.replicate (atDim c) (0 : W32) else r.o).flatMap (fun w => leBytes 4 w.toNat)
    else
      leBytes 4 r.m.toNat ++ leBytes 4 r.l.toNat ++ leBytes 4 r.count ++ leBytes 4 (statCode e.status)
      ++ (rowOut c r).flatMap (fun w => leBytes 4 w.toNat))

/-- The attention mass of frame `i` of the walk (R307). -/
def massOf (rows : List AttRow) (i : Nat) : Num :=
  let z : Num := .fin false 0 0
  let sum := rows.foldl (fun a r =>
    match r.masses[i]?, fp32Num r.l with
    | some (.fin n m e, mx), .fin _ lm le =>
      if r.nan ∨ lm = 0 then a
      else
        match (Num.fin n m e).mul false (exp2Fx (fxOf ((fp32Num mx).add false false (fp32Num r.m).negate))) with
        | .fin n' m' e' => a.add false false (quotNum n' m' e' lm le)
        | _ => a
    | _, _ => a) z
  match sum with
  | .fin n m e => quotNum n m e rows.length 0
  | x => x

/-- The flag of NME_ATT_FLAGS that records a status (R285, R299). -/
def statFlag : EntStat → W32
  | .memError => bit 31 | .notResident => bit 30 | .kvExhausted => bit 29 | .staleSession => bit 28
  | _ => 0

/-- The last write of an entry to host memory (R336): its partial, or gradients of keys and values before it. -/
def entryHost (s : State) (p : Nat) (c : Cmd) (e : AttEntry) : Option HostWr :=
  match s.hostWrAt p e.pages (enOut e.words) with
  | some w => some w
  | none => if atBwd c then s.hostWrAt p e.pages (enDkv e.words) else none

/-- The entry ends: scores, holds, partial, status, flags, tallies and its NME_ENTRY record (R285, R286, R307). -/
def State.finishEntry (s : State) (k p q : Nat) (c : Cmd) (e : AttEntry) : State :=
  let w := s.whoOf p q c
  let s := if e.status = .ok ∧ ¬ atExplicit c ∧ ¬ atBwd c then
      e.frames.zipIdx.foldl (fun s f => s.scoreFrame k f.1.frame (massOf e.rows f.2)) s
    else s
  let s := s.setKvf k ((s.kvf k).unhold e.held)
  let s := s.heldWrite p e.pages (enOut e.words) (partialBytes c e)
  let s := s.noteHost (s.devQue p q) (entryHost s p c e)
  let n := s.nme k
  let s := s.setNme k { n with lastStat := BitVec.ofNat 4 (statCode e.status) }
  let nan := e.status = .ok ∧ e.rows.any (·.nan)
  let s := s.flag .nme k 0x24 (statFlag e.status ||| (if nan then bit 27 else 0))
  let s := if e.status = .ok then s else s.countStack k 0x0209 1 w
  let cnt := if e.status = .ok then ((e.rows.head?.map (·.count)).getD 0) else 0
  s.ledgerStack k w 0x09 0x40 ((enSession e.words).toNat + statCode e.status * 2 ^ 32) (e.walked + cnt * 2 ^ 32)

/-- Replace an entry of an operation. -/
def AttOp.put (o : AttOp) (e : AttEntry) : AttOp :=
  { o with entries := o.entries.map (fun x => if x.idx = e.idx then e else x) }

/-- The entry that walks: the oldest whose partial is not written, unless a push waits on a full ring (R294). -/
def State.walking (s : State) (k p : Nat) (o : AttOp) (c : Cmd) : Option AttEntry :=
  match o.entries.find? (fun e => !e.written) with
  | none => none
  | some e => if e.waiting ∨ (nmePushes s p k c o.ref).any (fun x => x.2.2) then none else some e

/-- Write an entry's partial once its walk is over. -/
def State.closeEntry (s : State) (k p q : Nat) (o : AttOp) (c : Cmd) (e : AttEntry) : State :=
  (s.finishEntry k p q c e).setOp k (o.put { e with written := true })

/-- The entry ends, its result written, unless the place of its result is no longer there (R24, R142). -/
def State.endEntry (s s0 : State) (k p q : Nat) (o : AttOp) (c : Cmd) (e : AttEntry) : State :=
  match s.heldBad p e.pages (enOut e.words) (resultLen c) with
  | some b => s.failEntry s0 k p o c (o.entries.filter (·.written)) b
  | none => s.closeEntry k p q o c e

/-- What stops the writing of a frame's gradients (R24, R142, R297). -/
def State.dkvBad (s : State) (p : Nat) (c : Cmd) (e : AttEntry) (n : Nat) : Option Bad :=
  if atBwd c then
    s.heldBad p e.pages (enDkv e.words + ((e.rows.head?.map (·.count)).getD 0) * 8 * atDim c) (n * 8 * atDim c)
  else none

/-- NME_FRAME_WALK (R290, R298): the next frame of the walking entry; the last one, or an entry with no frame to walk,
ends it. `ecc` is what the checks of the lines it reads find. -/
def execNmeFrameWalk (k : Fin 12) (ecc : List EccFind) (s : State) : Result :=
  .next (
    match s.nmeOp k.val with
    | none => s
    | some (o, c, p, q) =>
      match s.walking k.val p o c with
      | none => s
      | some e =>
        if s.ldgHolds ⟨.ldgStack, k.val⟩ 4 then s
        else match (if e.status = .ok then e.frames[e.walked]? else none) with
          | none => s.endEntry s k.val p q o c e
          | some f =>
            let s0 := s
            let base := s.frameBase k.val f.frame
            let n := slotsOf f (enLimit e.words)
            let lines := (List.range 2048).filter (fun l => ((atForm c).parts 0 n).any (fun x => (linesOf x.1 x.2).contains l))
            let s := (s.eccChecks k.val (lines.map (fun l => base / 64 + l)) ecc).progress .nme k.val true
            if ((atForm c).parts 0 n).any (fun x => s.poisoned (base + x.1) x.2) then
              s.endEntry s0 k.val p q o c { e with status := .memError }
            else match s.dkvBad p c e n with
            | some b => s.failEntry s0 k.val p o c (o.entries.filter (·.written)) b
            | none =>
              let rs := if atBwd c then s.walkBwd k.val p c e f else (s.walkFwd k.val c e f, s)
              let s := { rs.2 with free := rs.2.free + atRows c * (n + 1) }
              let x := s.nme k.val
              let s := s.setNme k.val { x with frames := x.frames + 1, entryIdx := BitVec.ofNat 12 e.idx }
              let s := s.countStack k.val 0x0208 1 (s.whoOf p q c)
              let e := { e with rows := rs.1, walked := e.walked + 1 }
              if e.walked = e.frames.length then s.endEntry s0 k.val p q o c e else s.setOp k.val (o.put e))

/-! ## Handles and completion (R285, R294) -/

/-- The handle of an entry (R246, R285). -/
def handleWords (c : Cmd) (e : AttEntry) : W64 × W64 :=
  (BitVec.ofNat 64 ((statCode e.status * 2 ^ 12 + enTag e.words) * 2 ^ 48 + enOut e.words),
   BitVec.ofNat 64 ((enSession e.words).toNat * 2 ^ 32 + (if e.status = .ok then resultLen c else 0)))

/-- The command completes once every entry is done and no push of it waits. -/
def State.nmeMaybeDone (s : State) (k : Nat) : State :=
  match s.nmeOp k with
  | none => s
  | some (o, c, p, _) =>
    if atN c ≤ o.next ∧ o.entries = [] ∧ nmePushes s p k c o.ref = [] then (s.endOp k o).completeRef o.ref else s

/-- NME_HANDLE_PUSH (R284, R294): the oldest written entry's handle leaves for its ring; without RING_EN the entry is
simply done. A push follows the reads that flush the command's writes to host memory; where one fails it is not performed
(R336, R338, R438). -/
def execNmeHandlePush (k : Fin 12) (s : State) : Result :=
  .next (
    match s.nmeOp k.val with
    | none => s
    | some (o, c, p, _) =>
      match o.entries with
      | [] => s
      | e :: es =>
        if ¬ e.written then s
        else
          match (if atRingEn c then s.flushReads ((entryHost s p c e).toList) else (none, s)) with
          | (some w, s) => (s.endOp k.val o).failRef o.ref ⟨0x07, 0, 0, 0, w.va, 0x7F⟩ 1 k.val 0
          | (none, s) =>
            let s := s.setOp k.val { o with entries := es }
            let s := if atRingEn c then
                let r := s.ring (ringKey p (atRing c))
                s.setRing (ringKey p (atRing c)) { r with pushes := r.pushes ++ [(.nme k.val o.ref, handleWords c e, false)] }
              else s
            (s.progress .nme k.val true).nmeMaybeDone k.val)

/-! ## A spill copy ends (R306, R310) -/

/-- The append that waited for a frame goes on: with frame `f`, then the snapshot, unless something it reads is no longer
there (R24, R142, R259). -/
def State.resumeAppend (s : State) (k f : Nat) : State :=
  match s.nmeOp k with
  | none => s
  | some (o, c, p, q) =>
    match o.entries.find? (·.waiting) with
    | none => s
    | some e =>
      let w := s.whoOf p q c
      match (entryRanges c e.words true).findSome? (fun r => if r.wr then none else s.heldStops p e.pages r.va r.n) with
      | some b => (s.endOp k o).failRef o.ref b 1 k 0
      | none =>
        let s := (s.appendWith k p f (s.appArg p e.pages c e.words) w).countStack k 0x020A 1 nobody
        match s.takeSnapshot k p q c e with
        | (.ok e, s) => (s.setOp k (o.put e)).bump
        | (.error b, s) => (s.endOp k o).failRef o.ref b 1 k 0

/-- The command whose append waits, for the EVICT record. -/
def State.whoNme (s : State) (k : Nat) : Who :=
  match s.nmeOp k with
  | some (_, c, p, q) => s.whoOf p q c
  | none => nobody

end Sys2Proof.Machine
end

