-- ==== Sys2Proof/Machine/Vector.lean ====
section
/-!
DEFINITION. The vector engine (R192–R214): windows, masks and instructions of a program block, the checks of VXE_RUN,
and the operations, each row of the table running ONE chunk of 512 elements of the instruction that runs.
-/
namespace Sys2Proof.Machine

/-! ## The command and its program block (R192, R193, R195, R196, R199) -/

def vxStrict (c : Cmd) : Bool := decide (bitsOf (c.word 6) 63 63 = 1)
def vxRnd (c : Cmd) : Nat := bitsOf (c.word 6) 62 60
def vxN (c : Cmd) : Nat := bitsOf (c.word 6) 59 52 + 1
def vxProg (c : Cmd) : Nat := bitsOf (c.word 6) 47 0
def vxStatEn (c : Cmd) : Bool := decide (bitsOf (c.word 7) 63 63 = 1)
def vxStat (c : Cmd) : Nat := bitsOf (c.word 7) 47 0

/-- A window as its descriptor gives it. -/
structure Win where
  base  : Nat
  rows  : Nat
  cols  : Nat
  pitch : Nat
  fmt   : Nat
  zp    : Nat
  deriving DecidableEq, Repr

def progWord (pr : List W64) (i : Nat) : Nat := (pr.getD i 0).toNat

def winOf (pr : List W64) (w : Nat) : Win :=
  let q0 := progWord pr (2 * w)
  let q1 := progWord pr (2 * w + 1)
  ⟨bitsOf q0 47 0, bitsOf q0 63 48 + 1, bitsOf q1 11 0 + 1, bitsOf q1 63 40, bitsOf q1 38 34, bitsOf q1 33 26⟩

def winValid (pr : List W64) (w : Nat) : Bool := decide (bitsOf (progWord pr (2 * w + 1)) 39 39 = 1)

/-- Base and pitch of mask M1 to M7. -/
def maskBase (pr : List W64) (m : Nat) : Nat := bitsOf (progWord pr (32 + 2 * m)) 47 0
def maskPitch (pr : List W64) (m : Nat) : Nat := bitsOf (progWord pr (33 + 2 * m)) 63 40
def maskValid (pr : List W64) (m : Nat) : Bool := decide (bitsOf (progWord pr (32 + 2 * m)) 48 48 = 1)

/-- Instruction `i` of the program. -/
def progInst (pr : List W64) (i : Nat) : Nat := progWord pr (48 + i)

def inOp (w : Nat) : Nat := bitsOf w 63 56
def inD (w : Nat) : Nat := bitsOf w 55 52
def inA (w : Nat) : Nat := bitsOf w 51 48
def inB (w : Nat) : Nat := bitsOf w 47 44
def inC (w : Nat) : Nat := bitsOf w 43 40
def inMask (w : Nat) : Nat := bitsOf w 39 37
def inMz (w : Nat) : Bool := decide (bitsOf w 36 36 = 1)
def inImmUse (w : Nat) : Nat := bitsOf w 35 34
def inBc (w : Nat) : Nat := bitsOf w 33 32
def inImm (w : Nat) : Nat := bitsOf w 31 0

/-- The operand forms of R203. -/
inductive OpForm where
  | unary | binary | ternary | fill | cmp | reduce
  deriving DecidableEq, Repr

def opForm (op : Nat) : Option OpForm :=
  if op = 0x04 then some .ternary
  else if op = 0x0C then some .fill
  else if op = 0x01 ∨ op = 0x02 ∨ op = 0x03 ∨ op = 0x05 ∨ op = 0x07 ∨ op = 0x08 ∨ op = 0x0D then some .binary
  else if op = 0x06 ∨ (0x09 ≤ op ∧ op ≤ 0x0B) ∨ (0x10 ≤ op ∧ op ≤ 0x1A) then some .unary
  else if 0x20 ≤ op ∧ op ≤ 0x23 then some .cmp
  else if 0x30 ≤ op ∧ op ≤ 0x32 then some .reduce
  else none

/-- Whether an instruction reads window A, B and C. -/
def usesA (f : OpForm) : Bool := decide (f ≠ .fill)
def usesB (f : OpForm) (w : Nat) : Bool := (decide (f = .binary) || decide (f = .ternary) || decide (f = .cmp)) && decide (inImmUse w ≠ 1)
def usesC (f : OpForm) (w : Nat) : Bool := decide (f = .ternary) && decide (inImmUse w ≠ 2)

/-! ## Checks (R197) -/

/-- The check of VXE_RUN before its program block is read (R80, R197). -/
def chkVxeRun (s : State) (p : Nat) (c : Cmd) : Except Bad Plan :=
  checked
    ([(decide (c.ext ≠ 0), badWord 0)] ++ s.tileChecks p c ++
     [(vxStrict c && !(s.modeOn p 0), badWord 6), (!(rndOk (vxStrict c) (vxRnd c)), badWord 6),
      (decide (bitsOf (c.word 6) 51 48 ≠ 0), badWord 6), (decide (vxProg c % 64 ≠ 0), badWord 6),
      (decide (bitsOf (c.word 7) 62 48 ≠ 0), badWord 7), (decide (vxStat c % 8 ≠ 0), badWord 7)])
    (planOf ([inTile c (vxProg c) (384 + 8 * vxN c) 6 false] ++
      (if vxStatEn c then [inTile c (vxStat c) 8 7 true] else [])))

/-- The instruction's own fields (R197, R199, R200). -/
def instFieldsBad (w : Nat) : Bool :=
  match opForm (inOp w) with
  | none => true
  | some f =>
    let immOk := match f with
      | .ternary => decide (inImmUse w ≤ 2)
      | .binary => decide (inImmUse w ≤ 1)
      | .cmp => decide (inImmUse w ≤ 1)
      | .fill => decide (inImmUse w = 1)
      | _ => decide (inImmUse w = 0)
    !immOk || (decide (inImmUse w = 0) && decide (inImm w ≠ 0)) || decide (inBc w = 3)
      || (!(usesA f) && decide (inA w ≠ 0)) || (!(usesB f w) && (decide (inB w ≠ 0) || decide (inBc w ≠ 0)))
      || (!(usesC f w) && decide (inC w ≠ 0)) || (decide (f = .cmp) && (decide (inD w = 0) || decide (7 < inD w)))

/-- A named window's own fields (R197): DETAIL's word index where one fails. -/
def winBad (s : State) (p : Nat) (pr : List W64) (w : Nat) : Option Nat :=
  let x := winOf pr w
  if x.base % 4 ≠ 0 then some (2 * w)
  else if ¬ winValid pr w ∨ bitsOf (progWord pr (2 * w + 1)) 25 12 ≠ 0 ∨ x.fmt = 0x0C ∨ ¬ s.fmtOn p x.fmt
      ∨ (x.zp ≠ 0 ∧ x.fmt ≠ 0x09 ∧ x.fmt ≠ 0x0B) ∨ (x.fmt = 0x0B ∧ 15 < x.zp) ∨ x.pitch % 4 ≠ 0
      ∨ x.pitch < packedBytes (fmtBits x.fmt) x.cols then some (2 * w + 1)
  else none

/-- A named mask's own fields, for a governed window of `cols` columns. -/
def maskBad (pr : List W64) (m cols : Nat) : Option Nat :=
  if m = 0 then none
  else if ¬ maskValid pr m ∨ bitsOf (progWord pr (32 + 2 * m)) 63 49 ≠ 0 ∨ maskBase pr m % 4 ≠ 0 then some (32 + 2 * m)
  else if bitsOf (progWord pr (33 + 2 * m)) 39 0 ≠ 0 ∨ maskPitch pr m % 4 ≠ 0 ∨ maskPitch pr m < (cols + 7) / 8 then
    some (33 + 2 * m)
  else none

/-- The window whose shape an instruction's elements have: the destination, or A of a comparison or reduction. -/
def shapeWin (pr : List W64) (w : Nat) : Win :=
  match opForm (inOp w) with
  | some .cmp => winOf pr (inA w)
  | some .reduce => winOf pr (inA w)
  | _ => winOf pr (inD w)

/-- The shapes of R200. -/
def shapesBad (pr : List W64) (w : Nat) : Bool :=
  match opForm (inOp w) with
  | none => true
  | some f =>
    let d := shapeWin pr w
    let same := fun (x : Win) => decide (x.rows = d.rows) && decide (x.cols = d.cols)
    let b := winOf pr (inB w)
    let bOk := match inBc w with
      | 0 => same b
      | 1 => decide (b.rows = 1) && decide (b.cols = d.cols)
      | _ => decide (b.cols = 1) && decide (b.rows = d.rows)
    (usesA f && !(same (winOf pr (inA w)))) || (usesB f w && !bOk) || (usesC f w && !(same (winOf pr (inC w))))
      || (decide (f = .reduce) && !(decide ((winOf pr (inD w)).rows = d.rows) && decide ((winOf pr (inD w)).cols = 1)))

/-- The windows an instruction reads and, unless it writes a mask, writes. -/
def instReads (w : Nat) : List Nat :=
  match opForm (inOp w) with
  | none => []
  | some f => (if usesA f then [inA w] else []) ++ (if usesB f w then [inB w] else []) ++ (if usesC f w then [inC w] else [])

def instWrites (w : Nat) : List Nat := if opForm (inOp w) = some .cmp then [] else [inD w]

/-- The first failing word of an instruction, its windows and its masks. -/
def instBad (s : State) (p : Nat) (pr : List W64) (i : Nat) : Option Nat :=
  let w := progInst pr i
  let cols := (shapeWin pr w).cols
  if instFieldsBad w then some (48 + i)
  else
    match (instReads w ++ instWrites w).findSome? (winBad s p pr) with
    | some k => some k
    | none =>
      match maskBad pr (inMask w) cols with
      | some k => some k
      | none =>
        match (if opForm (inOp w) = some .cmp then maskBad pr (inD w) cols else none) with
        | some k => some k
        | none => if shapesBad pr w then some (48 + i) else none

/-- Bytes of a window and of a mask (R198). -/
def winSpan (x : Win) : Nat := rowsSpan x.rows x.pitch (packedBytes (fmtBits x.fmt) x.cols)
def maskSpan (pr : List W64) (m : Nat) (x : Win) : Nat := rowsSpan x.rows (maskPitch pr m) ((x.cols + 7) / 8)

/-- More than 8 intervals are covered by one (R198). -/
def cover8 (l : List (Nat × Nat)) : List (Nat × Nat) :=
  let l := l.eraseDups
  if l.length ≤ 8 then l
  else
    let lo := l.foldl (fun a x => min a x.1) (2 ^ 48)
    let hi := l.foldl (fun a x => max a (x.1 + x.2)) 0
    [(lo, hi - lo)]

/-- The check of the program block and the ranges it names (R197, R198). -/
def chkVxeProg (s : State) (_p : Nat) (c : Cmd) (pr : List W64) : Except Bad Plan :=
  let idx := List.range (vxN c)
  let reserved := if progWord pr 32 ≠ 0 then some 32 else if progWord pr 33 ≠ 0 then some 33 else none
  match reserved, idx.findSome? (instBad s _p pr) with
  | some k, _ => .error (badIn 6 k)
  | none, some k => .error (badIn 6 k)
  | none, none =>
    let win := fun (wr : Bool) (k : Nat) =>
      (⟨(winOf pr k).base, winSpan (winOf pr k), wr, inStruct 6 (2 * k), some c.target⟩ : PRange)
    let msk := fun (wr : Bool) (m : Nat) (x : Win) =>
      (⟨maskBase pr m, maskSpan pr m x, wr, inStruct 6 (32 + 2 * m), some c.target⟩ : PRange)
    let rs := idx.flatMap (fun i =>
      let w := progInst pr i
      let x := shapeWin pr w
      (instReads w).map (win false) ++ (if inMask w = 0 then [] else [msk false (inMask w) x])
        ++ (instWrites w).map (win true) ++ (if opForm (inOp w) = some .cmp then [msk true (inD w) x] else []))
    let rs := rs.eraseDups
    let pl := planOf rs
    let stat := if vxStatEn c then [(vxStat c, 8)] else []
    .ok ⟨rs, cover8 ([(vxProg c, 384 + 8 * vxN c)] ++ pl.rd), cover8 (pl.wr ++ stat)⟩

/-! ## Elements -/

/-- Bit address of element (r, c) of a window: byte address and the element's index in its row's packed array. -/
def Win.row (x : Win) (r : Nat) : Nat := x.base + r * x.pitch

/-- A lane's operand from a window (R194). -/
def State.winRead (s : State) (p : Nat) (held : List PageMap) (strict : Bool) (x : Win) (r k : Nat) : Num :=
  laneIn strict (elemNum x.fmt x.zp (s.heldElem p held (x.row r) (fmtBits x.fmt) k))

/-- A mask bit (R193). -/
def State.maskBit (s : State) (p : Nat) (held : List PageMap) (pr : List W64) (m r k : Nat) : Bool :=
  m = 0 || (s.heldLe p held (maskBase pr m + r * maskPitch pr m + k / 8) 1).testBit (k % 8)

/-- Store one element of an array `b` bits wide, leaving its neighbours' bits (R94, R202). -/
def State.heldPutElem (s : State) (p : Nat) (held : List PageMap) (va b i v : Nat) : State :=
  let sh := b * i % 8
  let n := (sh + b + 7) / 8
  let at_ := va + b * i / 8
  let old := s.heldLe p held at_ n
  s.heldWrite p held at_ (leBytes n (old - old / 2 ^ sh % 2 ^ b * 2 ^ sh + v % 2 ^ b * 2 ^ sh))

/-- What a chunk writes: an element of a window or a bit of a mask, at its row and column. -/
structure Cell where
  r    : Nat
  k    : Nat
  code : Nat
  deriving DecidableEq, Repr

/-- A chunk's outcome before anything is written: its cells, flags and clamps, or a NaN that a format cannot hold. -/
structure ChunkOut where
  cells  : List Cell
  flags  : BitVec 5
  clamps : Nat
  nan    : Bool
  deriving DecidableEq, Repr

/-- The rows and columns of chunk `n` of an array of R × C elements (R201). -/
def chunkCells (rows cols n : Nat) : List (Nat × Nat) :=
  (List.range (min 512 (rows * cols - 512 * n))).map (fun i => ((512 * n + i) / cols, (512 * n + i) % cols))

def chunkCount (rows cols : Nat) : Nat := (rows * cols + 511) / 512

/-- The code that MZ writes for an excluded element (R202). -/
def zeroCode (x : Win) : Nat := if x.fmt = 0x09 ∨ x.fmt = 0x0B then x.zp else 0

/-- Conversion flags of a write (R209). -/
def convFlags (strict : Bool) (c : Conv) : BitVec 5 :=
  if c.clamp then 0
  else modeFlags strict (flagIf c.overflow .overflow ||| flagIf c.inexact .inexact ||| flagIf (c.tiny && c.inexact) .underflow)

/-- The rounding of the command for one lane; a stochastic one takes a fresh draw (R107, R208). -/
def State.laneRnd (s : State) (t code : Nat) : Rnd × State :=
  if code = 5 then
    let d := s.draw16 t
    (rndOf 5 d.1, d.2)
  else (rndOf code 0, s)

/-- Operand B of an element: the immediate, a broadcast or a window element (R199, R200). -/
def State.opB (s : State) (p : Nat) (held : List PageMap) (strict : Bool) (pr : List W64) (w r k : Nat) : Num :=
  if inImmUse w = 1 then laneIn strict (fp32Num (BitVec.ofNat 32 (inImm w)))
  else
    let x := winOf pr (inB w)
    s.winRead p held strict x (if inBc w = 1 then 0 else r) (if inBc w = 2 then 0 else k)

def State.opC (s : State) (p : Nat) (held : List PageMap) (strict : Bool) (pr : List W64) (w r k : Nat) : Num :=
  if inImmUse w = 2 then laneIn strict (fp32Num (BitVec.ofNat 32 (inImm w)))
  else s.winRead p held strict (winOf pr (inC w)) r k

/-- How a lane's result comes from its operands: `f` answers the lane from the state (for draws and free values), the
cell and the mask bit. -/
abbrev LaneFn := State → Nat → Nat → Lane × State

/-- One element of an elementwise chunk: excluded, or computed and converted (R202). -/
def elemStep (t p : Nat) (c : Cmd) (pr : List W64) (w : Nat) (sel : Bool) (f : LaneFn)
    (acc : ChunkOut × State) (rk : Nat × Nat) : ChunkOut × State :=
  let s := acc.2
  let x := winOf pr (inD w)
  let on := sel || s.maskBit p c.held pr (inMask w) rk.1 rk.2
  if ¬ on then
    (if inMz w then ({ acc.1 with cells := acc.1.cells ++ [⟨rk.1, rk.2, zeroCode x⟩] }, s) else acc)
  else
    let l := f s rk.1 rk.2
    let rd := l.2.laneRnd t (vxRnd c)
    let cv := convert x.fmt x.zp rd.1 (!(vxStrict c)) (fp32Num l.1.word)
    ({ cells := acc.1.cells ++ [⟨rk.1, rk.2, cv.code⟩]
       flags := acc.1.flags ||| l.1.flags ||| convFlags (vxStrict c) cv
       clamps := acc.1.clamps + (if cv.clamp then 1 else 0), nan := acc.1.nan || cv.nanFault }, rd.2)

def ChunkOut.none : ChunkOut := ⟨[], 0, 0, false⟩

/-- A chunk of an elementwise instruction. `sel` marks SEL, whose mask chooses a source instead of excluding. -/
def elemChunk (t p : Nat) (c : Cmd) (pr : List W64) (w n : Nat) (sel : Bool) (f : LaneFn) (s : State) : ChunkOut × State :=
  let x := winOf pr (inD w)
  (chunkCells x.rows x.cols n).foldl (elemStep t p c pr w sel f) (ChunkOut.none, s)

/-- A chunk of a comparison: mask bits under the governing mask. -/
def cmpChunk (p : Nat) (c : Cmd) (pr : List W64) (w n : Nat) (op : Cmp) (s : State) : ChunkOut × State :=
  let x := winOf pr (inA w)
  ((chunkCells x.rows x.cols n).foldl (fun o rk =>
    if s.maskBit p c.held pr (inMask w) rk.1 rk.2 then
      let r := laneCmp op (vxStrict c) (s.winRead p c.held (vxStrict c) x rk.1 rk.2) (s.opB p c.held (vxStrict c) pr w rk.1 rk.2)
      { o with cells := o.cells ++ [⟨rk.1, rk.2, if r.1 then 1 else 0⟩], flags := o.flags ||| modeFlags (vxStrict c) r.2 }
    else if inMz w then { o with cells := o.cells ++ [⟨rk.1, rk.2, 0⟩] } else o) ChunkOut.none, s)

/-- The selected elements of row `r` of a reduction's source. -/
def State.redRow (s : State) (p : Nat) (c : Cmd) (pr : List W64) (w r : Nat) : List Num :=
  let x := winOf pr (inA w)
  ((List.range x.cols).filter (fun k => s.maskBit p c.held pr (inMask w) r k)).map
    (fun k => s.winRead p c.held (vxStrict c) x r k)

/-- A chunk of a reduction: up to 512 destination rows. -/
def redChunk (t p : Nat) (c : Cmd) (pr : List W64) (w n : Nat) (f : State → List Num → Lane × State) (s : State) :
    ChunkOut × State :=
  let x := winOf pr (inD w)
  (chunkCells x.rows 1 n).foldl (fun acc rk =>
    let l := f acc.2 (acc.2.redRow p c pr w rk.1)
    let rd := l.2.laneRnd t (vxRnd c)
    let cv := convert x.fmt x.zp rd.1 (!(vxStrict c)) (fp32Num l.1.word)
    ({ cells := acc.1.cells ++ [⟨rk.1, 0, cv.code⟩]
       flags := acc.1.flags ||| l.1.flags ||| convFlags (vxStrict c) cv
       clamps := acc.1.clamps + (if cv.clamp then 1 else 0), nan := acc.1.nan || cv.nanFault }, rd.2)) (ChunkOut.none, s)

/-! ## The lanes of each operation -/

/-- A basic operation of A, B and C; operands an instruction does not have are zeros. -/
def fnBasic (op : Basic) (t p : Nat) (c : Cmd) (pr : List W64) (w : Nat) : LaneFn := fun s r k =>
  let st := vxStrict c
  let z : Num := .fin false 0 0
  let f := opForm (inOp w)
  let a := s.winRead p c.held st (winOf pr (inA w)) r k
  let b := if f = some .unary then z else s.opB p c.held st pr w r k
  let cc := if f = some .ternary then s.opC p c.held st pr w r k else z
  let rd := s.laneRnd t (vxRnd c)
  (laneBasic op st rd.1 a b cc, rd.2)

/-- FILL: the immediate. -/
def fnFill (t : Nat) (c : Cmd) (w : Nat) : LaneFn := fun s _ _ =>
  let rd := s.laneRnd t (vxRnd c)
  (laneBasic .copy (vxStrict c) rd.1 (laneIn (vxStrict c) (fp32Num (BitVec.ofNat 32 (inImm w)))) (.fin false 0 0) (.fin false 0 0), rd.2)

/-- SEL: A where the mask bit is 1, else B. -/
def fnSel (t p : Nat) (c : Cmd) (pr : List W64) (w : Nat) : LaneFn := fun s r k =>
  let st := vxStrict c
  let rd := s.laneRnd t (vxRnd c)
  let a := if s.maskBit p c.held pr (inMask w) r k then s.winRead p c.held st (winOf pr (inA w)) r k
    else s.opB p c.held st pr w r k
  (laneBasic .copy st rd.1 a (.fin false 0 0) (.fin false 0 0), rd.2)

/-- The rounding of a result that the spec bounds only: what RND says of overflow (R103); stochastic rounding overflows as to
nearest. -/
def freeRnd (c : Cmd) : Rnd :=
  match rndOf (vxRnd c) 0 with
  | .stoch _ => .near
  | md => md

/-- A bounded operation: its result is a free word that the bound admits (R205). -/
def fnFunc (op : Func1) (p : Nat) (c : Cmd) (pr : List W64) (w : Nat) : LaneFn := fun s r k =>
  let d := s.draw 32
  (laneFunc op (vxStrict c) (freeRnd c) d.1 (s.winRead p c.held (vxStrict c) (winOf pr (inA w)) r k), d.2)

def redSum (c : Cmd) : State → List Num → Lane × State := fun s xs =>
  let d := s.draw 32
  (laneSum (vxStrict c) (decide (vxRnd c = 0)) (freeRnd c) d.1 xs, d.2)

def redMax (c : Cmd) (mag : Bool) : State → List Num → Lane × State := fun s xs => (laneMaxOf (vxStrict c) mag xs, s)

/-- What chunk `n` of instruction word `w` computes. -/
def chunkOf (t p : Nat) (c : Cmd) (pr : List W64) (w n : Nat) (s : State) : ChunkOut × State :=
  let bas := fun (op : Basic) => elemChunk t p c pr w n false (fnBasic op t p c pr w) s
  let fun1 := fun (op : Func1) => elemChunk t p c pr w n false (fnFunc op p c pr w) s
  match inOp w with
  | 0x01 => bas .add | 0x02 => bas .sub | 0x03 => bas .mul | 0x04 => bas .fma | 0x05 => bas .div | 0x06 => bas .sqrt
  | 0x07 => bas .min | 0x08 => bas .max | 0x09 => bas .abs | 0x0A => bas .neg | 0x0B => bas .copy
  | 0x0C => elemChunk t p c pr w n false (fnFill t c w) s
  | 0x0D => elemChunk t p c pr w n true (fnSel t p c pr w) s
  | 0x10 => fun1 .rcp | 0x11 => fun1 .rsqrt | 0x12 => fun1 .exp2 | 0x13 => fun1 .exp | 0x14 => fun1 .log2
  | 0x15 => fun1 .ln | 0x16 => fun1 .tanh | 0x17 => fun1 .sigmoid | 0x18 => fun1 .silu | 0x19 => fun1 .sin
  | 0x1A => fun1 .cos
  | 0x20 => cmpChunk p c pr w n .lt s | 0x21 => cmpChunk p c pr w n .le s
  | 0x22 => cmpChunk p c pr w n .eq s | 0x23 => cmpChunk p c pr w n .ne s
  | 0x30 => redChunk t p c pr w n (redSum c) s
  | 0x31 => redChunk t p c pr w n (redMax c false) s
  | _ => redChunk t p c pr w n (redMax c true) s

/-- Write a chunk's cells. -/
def State.writeCells (s : State) (p : Nat) (c : Cmd) (pr : List W64) (w : Nat) (cells : List Cell) : State :=
  if opForm (inOp w) = some .cmp then
    cells.foldl (fun s x => s.heldPutElem p c.held (maskBase pr (inD w) + x.r * maskPitch pr (inD w)) 1 x.k x.code) s
  else
    let d := winOf pr (inD w)
    cells.foldl (fun s x => s.heldPutElem p c.held (d.row x.r) (fmtBits d.fmt) x.k x.code) s

/-- The bytes that hold element `k` of a packed row. -/
def cellOf (base b k : Nat) : Nat × Nat := (base + b * k / 8, (b * k % 8 + b + 7) / 8)

/-- What a chunk reads: elements of its sources and bits of its mask, or whole rows for a reduction. -/
def chunkReads (pr : List W64) (w n : Nat) : List (Nat × Nat) :=
  let sh := shapeWin pr w
  let red := decide (opForm (inOp w) = some .reduce)
  let rk := if red then chunkCells sh.rows 1 n else chunkCells sh.rows sh.cols n
  let rows := (rk.map (·.1)).eraseDups
  let src := (instReads w).flatMap (fun k =>
    let x := winOf pr k
    if red then rows.map (fun r => (x.row r, packedBytes (fmtBits x.fmt) x.cols))
    else rk.map (fun e =>
      let r := if k = inB w ∧ inBc w = 1 then 0 else e.1
      let q := if k = inB w ∧ inBc w = 2 then 0 else e.2
      cellOf (x.row r) (fmtBits x.fmt) q))
  let msk := if inMask w = 0 then []
    else if red then rows.map (fun r => (maskBase pr (inMask w) + r * maskPitch pr (inMask w), (sh.cols + 7) / 8))
    else rk.map (fun e => cellOf (maskBase pr (inMask w) + e.1 * maskPitch pr (inMask w)) 1 e.2)
  (src ++ msk).eraseDups

/-- The gate of a chunk: its reads of sources and masks, then its writes (R221), and rows that an earlier DRAIN of its
chain hands over (R244). -/
def State.chunkGate (s : State) (t p : Nat) (ref : CmdRef) (c : Cmd) (pr : List W64) (w n : Nat) (cells : List Cell) : Gate :=
  let dst := cells.map (fun x =>
    if opForm (inOp w) = some .cmp then cellOf (maskBase pr (inD w) + x.r * maskPitch pr (inD w)) 1 x.k
    else cellOf ((winOf pr (inD w)).row x.r) (fmtBits (winOf pr (inD w)).fmt) x.k)
  let rd := chunkReads pr w n
  (s.gates t p c.held (rd.map (fun x => (false, x.1, x.2)) ++ dst.map (fun x => (true, x.1, x.2)))).join
    (s.handOver t ref rd)

/-! ## Running a program -/

/-- The status word (R209). -/
def statusWord (flags : BitVec 5) (clamps done : Nat) : Nat := flags.toNat + done * 2 ^ 16 + min clamps 0xFFFFFFFF * 2 ^ 32

/-- The gate of the status word's write: open where STAT_EN is 0 (R209, R221). -/
def State.statGate (s : State) (t p : Nat) (c : Cmd) : Gate :=
  if vxStatEn c then s.gate t p c.held true (vxStat c) 8 else .go

/-- Write the status word where STAT_EN is 1; a fault of this write is not charged (R210). -/
def State.writeStat (s : State) (t p : Nat) (c : Cmd) (o : VxeOp) : State :=
  if vxStatEn c ∧ s.statGate t p c = .go then
    s.heldWrite p c.held (vxStat c) (leBytes 8 (statusWord o.flags o.clamps o.pc))
  else s

/-- The chunk's fault stops the command (R210): the status word, then the fault. While the word's write waits on a fill bit
(R221), the command keeps the engine with its fault. -/
def State.failRun (s : State) (t p : Nat) (c : Cmd) (o : VxeOp) (b : Bad) : State :=
  if s.statGate t p c = .wait then s.setVxe t { s.vxe t with op := some { o with failed := some b } }
  else
    let s := s.writeStat t p c o
    (s.setVxe t { s.vxe t with op := none }).failTile o.ref b t

/-- Chunks of an instruction (R201); a reduction's elements are its destination's. -/
def instChunks (pr : List W64) (w : Nat) : Nat :=
  match opForm (inOp w) with
  | some .reduce => chunkCount (winOf pr (inA w)).rows 1
  | _ => chunkCount (shapeWin pr w).rows (shapeWin pr w).cols

/-- Advance past a chunk. -/
def VxeOp.advance (o : VxeOp) (w : Nat) : VxeOp :=
  if o.chunk + 1 < instChunks o.prog w then { o with chunk := o.chunk + 1 } else { o with pc := o.pc + 1, chunk := 0 }

/-- The VXE_RUN that runs on a tile, where the instruction it has reached has this OP. -/
def State.runOf (s : State) (t op : Nat) : Option (VxeOp × Cmd × Nat) :=
  match (s.vxe t).op with
  | none => none
  | some o =>
    if o.work = .run ∧ o.started ∧ o.failed = none ∧ inOp (progInst o.prog o.pc) = op then
      (s.cmdAt o.ref).bind (fun c =>
        if o.pc < vxN c then (s.queOwner o.ref.q).map (fun x => (o, c, x.1)) else none)
    else none

/-- Run one chunk of the instruction with this OP: gated by the fill bits, computed, and written (R201, R210, R221). -/
def State.runChunk (s : State) (t op : Nat) : State :=
  match s.runOf t op with
  | none => s
  | some (o, c, p) =>
    let w := progInst o.prog o.pc
    let r := chunkOf t p c o.prog w o.chunk s
    match s.chunkGate t p o.ref c o.prog w o.chunk r.1.cells with
    | .wait => s
    | .bad b => s.failRun t p c o b
    | .go =>
      if s.ldgHolds ⟨.ldgTile, t⟩ 2 then s
      else if r.1.nan then r.2.failRun t p c o ⟨0x0B, 0, (winOf o.prog (inD w)).fmt, 2, 0, 0x7F⟩
      else
        let s := r.2.writeCells p c o.prog w r.1.cells
        let o' := { o with flags := o.flags ||| r.1.flags, clamps := o.clamps + r.1.clamps }
        let s := s.setVxe t ⟨some (o'.advance w), BitVec.ofNat 8 op, BitVec.ofNat 8 o.pc⟩
        let s := s.flag .vxe t 0x18 (r.1.flags.setWidth 32)
        let who := s.whoRef o.ref c
        let s := (s.countTile t 0x010D 1 who).countTile t 0x0109 r.1.clamps who
        s.progress .vxe t true

/-- VXE_RUN (R195, R210, R211): the begun command takes the engine, or, after its last instruction, writes its status
word and completes; a faulted one whose status word waited writes it and reports its fault. -/
def execVxeRun (t : Fin 48) (s : State) : Result :=
  .next (
    match (s.vxe t.val).op with
    | none => s
    | some o =>
      if o.work ≠ .run then s
      else match s.cmdAt o.ref, s.queOwner o.ref.q with
        | some c, some (p, _) =>
          if ¬ o.started then
            (s.setVxe t.val { s.vxe t.val with op := some { o with started := true } }).progress .vxe t.val true
          else match o.failed with
          | some b => s.failRun t.val p c o b
          | none =>
          if o.pc < vxN c then s
          else
            match s.statGate t.val p c with
            | .wait => s
            | .bad b => (s.setVxe t.val { s.vxe t.val with op := none }).failTile o.ref b t.val
            | .go =>
              let s := s.writeStat t.val p c o
              ((s.setVxe t.val { s.vxe t.val with op := none }).completeRef o.ref).progress .vxe t.val false
        | _, _ => s)

/-- ENGINE_FILL_RESUME (R221): an engine that waited on a fill bit finds it right and makes progress. -/
def execEngineFillResume (t : Fin 48) (e : Eng) (s : State) : Result :=
  .next (
    match e with
    | .vxe =>
      match (s.vxe t.val).op with
      | none => s
      | some o =>
        match s.runOf t.val (inOp (progInst o.prog o.pc)) with
        | none => s
        | some (o, c, p) =>
          let w := progInst o.prog o.pc
          if s.chunkGate t.val p o.ref c o.prog w o.chunk (chunkOf t.val p c o.prog w o.chunk s).1.cells = .go then
            s.progress .vxe t.val true
          else s
    | .mxe =>
      match s.issuing t.val with
      | none => s
      | some (x, c) =>
        let p := ((s.queOwner x.ref.q).map (·.1)).getD 0
        if s.passGate t.val p x.ref c (passElems (psTrans c) (s.mxe t.val).act) x.next = .go then s.progress .mxe t.val true
        else s
    | _ => s)

/-! ## One row per operation (R203) -/

/-- ADD: A + B. -/
def execAdd (t : Fin 48) (s : State) : Result := .next (s.runChunk t.val 0x01)
/-- SUB: A − B. -/
def execSub (t : Fin 48) (s : State) : Result := .next (s.runChunk t.val 0x02)
/-- MUL: A × B. -/
def execMul (t : Fin 48) (s : State) : Result := .next (s.runChunk t.val 0x03)
/-- FMA: A × B + C with one rounding. -/
def execFma (t : Fin 48) (s : State) : Result := .next (s.runChunk t.val 0x04)
/-- DIV: A / B. -/
def execDiv (t : Fin 48) (s : State) : Result := .next (s.runChunk t.val 0x05)
/-- SQRT: √A. -/
def execSqrt (t : Fin 48) (s : State) : Result := .next (s.runChunk t.val 0x06)
/-- MIN: the lesser of A and B. -/
def execMin (t : Fin 48) (s : State) : Result := .next (s.runChunk t.val 0x07)
/-- MAX: the greater of A and B. -/
def execMax (t : Fin 48) (s : State) : Result := .next (s.runChunk t.val 0x08)
/-- ABS: |A|. -/
def execAbs (t : Fin 48) (s : State) : Result := .next (s.runChunk t.val 0x09)
/-- NEG: −A. -/
def execNeg (t : Fin 48) (s : State) : Result := .next (s.runChunk t.val 0x0A)
/-- COPY: A, converted to D's format. -/
def execCopy (t : Fin 48) (s : State) : Result := .next (s.runChunk t.val 0x0B)
/-- FILL: the immediate. -/
def execFill (t : Fin 48) (s : State) : Result := .next (s.runChunk t.val 0x0C)
/-- SEL: A where the mask bit is 1, else B. -/
def execSel (t : Fin 48) (s : State) : Result := .next (s.runChunk t.val 0x0D)
/-- RCP: 1 / A. -/
def execRcp (t : Fin 48) (s : State) : Result := .next (s.runChunk t.val 0x10)
/-- RSQRT: 1 / √A. -/
def execRsqrt (t : Fin 48) (s : State) : Result := .next (s.runChunk t.val 0x11)
/-- EXP2: 2^A. -/
def execExp2 (t : Fin 48) (s : State) : Result := .next (s.runChunk t.val 0x12)
/-- EXP: e^A. -/
def execExp (t : Fin 48) (s : State) : Result := .next (s.runChunk t.val 0x13)
/-- LOG2: log2 A. -/
def execLog2 (t : Fin 48) (s : State) : Result := .next (s.runChunk t.val 0x14)
/-- LN: ln A. -/
def execLn (t : Fin 48) (s : State) : Result := .next (s.runChunk t.val 0x15)
/-- TANH: tanh A. -/
def execTanh (t : Fin 48) (s : State) : Result := .next (s.runChunk t.val 0x16)
/-- SIGMOID: 1 / (1 + e^-A). -/
def execSigmoid (t : Fin 48) (s : State) : Result := .next (s.runChunk t.val 0x17)
/-- SILU: A × SIGMOID(A). -/
def execSilu (t : Fin 48) (s : State) : Result := .next (s.runChunk t.val 0x18)
/-- SIN: sin A. -/
def execSin (t : Fin 48) (s : State) : Result := .next (s.runChunk t.val 0x19)
/-- COS: cos A. -/
def execCos (t : Fin 48) (s : State) : Result := .next (s.runChunk t.val 0x1A)
/-- CMPLT: mask bit := A < B. -/
def execCmplt (t : Fin 48) (s : State) : Result := .next (s.runChunk t.val 0x20)
/-- CMPLE: mask bit := A ≤ B. -/
def execCmple (t : Fin 48) (s : State) : Result := .next (s.runChunk t.val 0x21)
/-- CMPEQ: mask bit := A = B. -/
def execCmpeq (t : Fin 48) (s : State) : Result := .next (s.runChunk t.val 0x22)
/-- CMPNE: mask bit := A ≠ B. -/
def execCmpne (t : Fin 48) (s : State) : Result := .next (s.runChunk t.val 0x23)
/-- RSUM: the sum of the row's selected elements. -/
def execRsum (t : Fin 48) (s : State) : Result := .next (s.runChunk t.val 0x30)
/-- RMAX: the greatest of the row's selected elements. -/
def execRmax (t : Fin 48) (s : State) : Result := .next (s.runChunk t.val 0x31)
/-- RAMAX: the greatest magnitude of the row's selected elements. -/
def execRamax (t : Fin 48) (s : State) : Result := .next (s.runChunk t.val 0x32)

end Sys2Proof.Machine
end

