-- ==== Sys2Proof/Machine/Books.lean ====
section
/-!
DEFINITION. The operand expander and LOADW (R114–R116, R170–R177), book slots and their generations (R178–R183), and the
survey and encode passes (R184–R188).
-/
namespace Sys2Proof.Machine

/-! ## Shapes (R170, R171) -/

/-- G: the elements one code stands for. -/
def shapeG (shape : Nat) : Nat := if shape < 2 then 8 else 4
/-- The width of a code. -/
def shapeBits (shape : Nat) : Nat := if shape % 2 = 0 then 8 else 12
def shapeEntries (shape : Nat) : Nat := 2 ^ shapeBits shape
/-- The L20 words and the bytes of a book. -/
def shapeWords (shape : Nat) : Nat := shapeEntries shape * shapeG shape
def bookBytes (shape : Nat) : Nat := packedBytes 20 (shapeWords shape)

/-- Bytes of a row record (R173). -/
def rowRecBytes (shape n : Nat) : Nat := 4 + packedBytes (shapeBits shape) (n / shapeG shape)

/-- ESC_BYTES of an escape format (R174) and the format code it stands for (R180). -/
def escBytes (f : Nat) : Nat := if f = 2 then 64 else 128
def escCode (f : Nat) : Nat := if f = 0 then 0x01 else if f = 1 then 0x02 else 0x03

def Mxe.book (m : Mxe) (k : Nat) : BookSlot := SMap.get .reset m.books k
def Mxe.setBook (m : Mxe) (k : Nat) (b : BookSlot) : Mxe := { m with books := SMap.set .reset m.books k b }

/-- Word `j` of entry `e` of a live book. -/
def BookSlot.entry (b : BookSlot) (e j : Nat) : BitVec 20 := SMap.get 0 b.words (e * shapeG b.shape.toNat + j)

/-! ## LOADW (R114–R116, R173–R176) -/

/-- Whether a LOADW is pattern-coded. -/
def ldCoded (c : Cmd) : Bool := decide (ldFmt c = 0x0C)
/-- ESC_GROUPS (R174). -/
def ldEscGroups (c : Cmd) : Nat := if c.ext = 0 then 0 else ldSpitch c

/-- The shape and escape format of the generation that a coded LOADW is queued on: the live book's, or those of the
VXE_BOOKLOAD that brings the pending one (R178, R179). A stale LOADW has none. -/
def Mxe.bookOf (m : Mxe) (c : Cmd) : Option (Nat × Nat) :=
  match c.book with
  | .live => some ((m.book (ldBook c)).shape.toNat, (m.book (ldBook c)).escFmt.toNat)
  | .pending =>
    (m.bookOps.find? (fun o => decide (o.slot = ldBook c) && decide (o.gen.toNat = ldGen c))).map (fun o =>
      (o.shape.toNat, o.escFmt.toNat))
  | _ => none

/-- The check of a LOADW with what its book adds (R173, R174): N_VALID a multiple of G, MXS 0, and the escape area. A
stale LOADW has no shape; its rows are taken as their headers. -/
def chkLoadwFull (s : State) (p : Nat) (c : Cmd) : Except Bad Plan :=
  if ldCoded c then
    let b := (s.mxe c.target).bookOf c
    let row := match b with
      | some x => rowRecBytes x.1 (ldN c)
      | none => 4
    let g := match b with
      | some x => shapeG x.1
      | none => 1
    match chkLoadw s p c row [(ldMxs c, badWord 8), (decide (ldN c % g ≠ 0), badWord 7)] with
    | .error e => .error e
    | .ok pl =>
      let esc := inTile c (ldSaddr c)
        (match b with
         | some x => ldEscGroups c * escBytes x.2
         | none => 0) 8 false
      .ok ⟨pl.ranges ++ [esc], pl.rd ++ (if esc.n = 0 then [] else [(esc.va, esc.n)]), pl.wr⟩
  else chkLoadw s p c 0 []

/-- The escape groups of a row, in ascending order, from its header. -/
def escGroups (mask : Nat) : List Nat := (List.range 4).filter (fun j => mask.testBit j)

/-- Row `k` of a coded block: its words, or the escape fault (R174, R175); and its bubbles (R176). DESIGN CHOICE (log 85): an
escape group narrower than 64 columns takes its whole ESC_BYTES through the output stage. -/
def State.codedRow (s : State) (p : Nat) (c : Cmd) (b : BookSlot) (k : Nat) : Option (List (BitVec 20)) × Nat :=
  let va := ldWaddr c + k * ldPitch c
  let head := s.heldLe p c.held va 4
  let mask := bitsOf head 3 0
  let first := bitsOf head 31 8
  let es := escGroups mask
  let eb := escBytes b.escFmt.toNat
  let bad := es.any (fun j => decide (ldN c ≤ 64 * j)) || (es ≠ [] && decide (ldEscGroups c < first + es.length))
  let g := shapeG b.shape.toNat
  let coded := ((List.range (ldN c)).filter (fun n => !(mask.testBit (n / 64)))).length
  let units := coded + es.length * eb
  let words := (List.range (ldN c)).map (fun n =>
    let j := n / 64
    if mask.testBit j then
      let i := first + es.findIdx (fun x => decide (x = j))
      let code := s.heldElem p c.held (ldSaddr c + i * eb) (fmtBits (escCode b.escFmt.toNat)) (n % 64)
      decodeElem false (escCode b.escFmt.toNat) 0 none code
    else
      b.entry (s.heldElem p c.held (va + 4) (shapeBits b.shape.toNat) (n / g)) (n % g))
  (if bad then none else some words, (units + 255) / 256 - 1)

/-- Row `k` of a plain block, with its block scales (R97, R101, R124). -/
def State.plainRow (s : State) (p : Nat) (c : Cmd) (k : Nat) : List (BitVec 20) :=
  (List.range (ldN c)).map (fun n =>
    let scale := if ldMxs c then some (s.heldLe p c.held (ldSaddr c + k / 32 * ldSpitch c + n) 1) else none
    decodeElem false (ldFmt c) 0 scale (s.heldElem p c.held (ldWaddr c + k * ldPitch c) (fmtBits (ldFmt c)) n))

/-- Words at their places k × 256 + n, zeros left out. -/
def blockWords (rows : List (List (BitVec 20))) : List (Nat × BitVec 20) :=
  (rows.zipIdx.flatMap (fun r => r.1.zipIdx.map (fun x => (r.2 * 256 + x.2, x.1)))).filter (fun e => decide (e.2 ≠ 0))

/-- A LOADW that faults leaves the shadow buffer EMPTY and unclaimed (R116). -/
def State.failLoad (s : State) (t : Nat) (r : CmdRef) (b : Bad) : State :=
  let m := s.mxe t
  (s.setMxe t { m with shd := .reset, loads := m.loads.filter (fun x => decide (x.ref ≠ r)) }).failTile r b t

/-- MXE_LOADW (R114, R128, R129, R179): the begun LOADW takes the shadow buffer, which enters LOADING with the block's
K_VALID and N_VALID. A stale one faults with nothing expanded. -/
def execMxeLoadw (t : Fin 48) (s : State) : Result :=
  .next (
    let m := s.mxe t.val
    match m.loads.find? (fun x => !x.started) with
    | none => s
    | some x =>
      match s.cmdAt x.ref with
      | none => s
      | some c =>
        if c.book = .stale then
          let s := (s.flag .mxe t.val 0xA0 (bit 31)).countTile t.val 0x0106 1 (s.whoRef x.ref c)
          (s.setMxe t.val { s.mxe t.val with bubbles := 0 }).failLoad t.val x.ref ⟨0x09, 0, ldBook c * 256 + ldGen c, 2, 0, 0x7F⟩
        else
          (s.setMxe t.val { m with
            shd := { WBuf.reset with st := .loading, kValid := ldK c, nValid := ldN c, claim := some x.ref.q }
            loads := m.loads.map (fun y => if y.ref = x.ref then { y with started := true } else y) }).progress
              .mxe t.val true)

/-- The bytes that row `k` of a coded block takes from the escape area: those of the groups its header names, none where the
header raises the escape fault (R174). -/
def State.escReads (s : State) (p : Nat) (c : Cmd) (b : BookSlot) (k : Nat) : List (Nat × Nat) :=
  let head := s.heldLe p c.held (ldWaddr c + k * ldPitch c) 4
  let eb := escBytes b.escFmt.toNat
  if (s.codedRow p c b k).1.isNone then []
  else (List.range (escGroups (bitsOf head 3 0)).length).map (fun i => (ldSaddr c + (bitsOf head 31 8 + i) * eb, eb))

/-- The gate of some reads of an engine's command: the fill bits, and the hand-over from earlier stages (R221, R244). -/
def State.readGate (s : State) (t p : Nat) (r : CmdRef) (c : Cmd) (rd : List (Nat × Nat)) : Gate :=
  (s.gates t p c.held (rd.map (fun x => (false, x.1, x.2)))).join (s.handOver t r rd)

/-- The gate of row `k` of a LOADW: its row and block scales, and then the escape groups that a coded row names. -/
def State.loadRowGate (s : State) (t p : Nat) (r : CmdRef) (c : Cmd) (b : BookSlot) (k : Nat) : Gate :=
  let rowLen := if ldCoded c then rowRecBytes b.shape.toNat (ldN c) else packedBytes (fmtBits (ldFmt c)) (ldN c)
  match s.readGate t p r c ((ldWaddr c + k * ldPitch c, rowLen)
      :: (if ldMxs c then [(ldSaddr c + k / 32 * ldSpitch c, ldN c)] else [])) with
  | .go => if ldCoded c then s.readGate t p r c (s.escReads p c b k) else .go
  | g => g

/-- Every row of a coded block, as the expander gives it. -/
def State.codedRows (s : State) (p : Nat) (c : Cmd) (b : BookSlot) : List (Option (List (BitVec 20)) × Nat) :=
  (List.range (ldK c)).map (fun k => s.codedRow p c b k)

/-- The first row of a LOADW with an escape fault, and the first whose reads its gates stop; K_VALID where there is none. -/
def State.loadRowsMeet (s : State) (t p : Nat) (r : CmdRef) (c : Cmd) : Nat × Nat :=
  let b := (s.mxe t).book (ldBook c)
  (if ldCoded c then (s.codedRows p c b).findIdx (fun x => x.1.isNone) else ldK c,
   ((List.range (ldK c)).map (s.loadRowGate t p r c b)).findIdx (fun g => decide (g ≠ .go)))

/-- What a LOADW meets as its rows are written in order. -/
def State.loadMeets (s : State) (t p : Nat) (r : CmdRef) (c : Cmd) : Gate :=
  let n := s.loadRowsMeet t p r c
  if n.1 < n.2 ∨ ldK c ≤ n.2 then .go else s.loadRowGate t p r c ((s.mxe t).book (ldBook c)) n.2

/-- The expander has expanded rows of a coded LOADW: each bubble counts, and LAST_BUBBLES shows those of this LOADW, however
it ends (R176, R191). -/
def State.expanded (s : State) (t : Nat) (r : CmdRef) (c : Cmd) (rows : List (Option (List (BitVec 20)) × Nat)) : State :=
  if ldCoded c then
    let n := rows.foldl (fun a x => a + x.2) 0
    (s.setMxe t { s.mxe t with bubbles := BitVec.ofNat 16 (min n 0xFFFF) }).countTile t 0x0105 n (s.whoRef r c)
  else s

/-- LOADW_COMPLETE (R114, R133, R174–R176): the rows are written in order, each once its gate is open; the first row that meets
an aborted granule or an escape fault ends the LOADW (R116, R232). After the last the shadow buffer reads READY and the command
completes. -/
def execLoadwComplete (t : Fin 48) (s : State) : Result :=
  .next (
    let m := s.mxe t.val
    match m.loads.find? (·.started) with
    | none => s
    | some x =>
      match s.cmdAt x.ref, s.queOwner x.ref.q with
      | some c, some (p, _) =>
        let b := m.book (ldBook c)
        let coded := s.codedRows p c b
        let bad := (s.loadRowsMeet t.val p x.ref c).1
        if s.ldgHolds ⟨.ldgTile, t.val⟩ 1 then s
        else match s.loadMeets t.val p x.ref c with
        | .wait => s
        | .bad e =>
          (s.expanded t.val x.ref c (coded.take (s.loadRowsMeet t.val p x.ref c).2)).failLoad t.val x.ref e
        | .go =>
          if bad < ldK c then
            ((s.expanded t.val x.ref c (coded.take bad)).flag .mxe t.val 0xA0 (bit 30)).failLoad t.val x.ref
              ⟨0x0A, 0, bad, 2, 0, 0x7F⟩
          else
            let s := s.expanded t.val x.ref c coded
            let m := s.mxe t.val
            let rows := if ldCoded c then coded.map (fun r => r.1.getD []) else (List.range (ldK c)).map (s.plainRow p c)
            let shd : WBuf := { st := .ready, kValid := ldK c, nValid := ldN c, narrow := fmtNarrow (ldFmt c)
                                words := blockWords rows, claim := some x.ref.q }
            let m := { m with
              shd := shd, loads := m.loads.filter (fun y => decide (y.ref ≠ x.ref)) }
            ((s.setMxe t.val m).completeRef x.ref).progress .mxe t.val (m.passes ≠ [] || m.loads ≠ [] || m.drains ≠ [])
      | _, _ => s)

/-! ## Book slots (R178–R183) -/

def blSlot (c : Cmd) : Nat := bitsOf (c.word 6) 55 53
def blGen (c : Cmd) : Nat := bitsOf (c.word 6) 63 56
def blShape (c : Cmd) : Nat := bitsOf (c.word 6) 49 48
def blEsc (c : Cmd) : Nat := bitsOf (c.word 6) 51 50
def blAddr (c : Cmd) : Nat := bitsOf (c.word 6) 47 0

/-- The check of a VXE_BOOKLOAD (R10, R80, R180): the escape format that it names is enabled too. -/
def chkBookload (s : State) (p : Nat) (c : Cmd) : Except Bad Plan :=
  checked
    ([(decide (c.ext ≠ 0), badWord 0)] ++ s.tileChecks p c ++
     [(!(s.fmtOn p 0x0C) || decide (blEsc c = 3) || !(s.fmtOn p (escCode (blEsc c)))
        || decide (bitsOf (c.word 6) 52 52 ≠ 0)
        || (decide (blShape c = 1) && decide (blSlot c % 2 = 1))
        || decide (((s.mxe c.target).book (blSlot c)).live = some (BitVec.ofNat 8 (blGen c)))
        || decide (blAddr c % 64 ≠ 0), badWord 6),
      (decide (c.word 7 ≠ 0), badWord 7)])
    (planOf [inTile c (blAddr c) (bookBytes (blShape c)) 6 false])

/-- A slot belongs to a live pair: the slots of that pair. -/
def livePair (m : Mxe) (k : Nat) : List Nat :=
  if (m.book k).live.isSome ∧ (m.book k).shape = 1 then [k, k + 1]
  else if (m.book k).paired then [k - 1, k]
  else []

/-- The slots a VXE_BOOKLOAD covers (R181). -/
def coveredSlots (m : Mxe) (slot shape : Nat) : List Nat :=
  let own := if shape = 1 then [slot, slot + 1] else [slot]
  (own ++ own.flatMap (livePair m)).eraseDups

/-- A slot reads RETIRING while it is live and a begun VXE_BOOKLOAD that has not installed its book covers it (R178, R181). -/
def Mxe.retire (m : Mxe) (k : Nat) : Mxe :=
  m.setBook k { m.book k with
    retiring := (m.book k).live.isSome && m.bookOps.any (fun o => o.started && (coveredSlots m o.slot o.shape.toNat).contains k) }

/-- LOADWs queued on the live generation of a slot (R179): fetched, matched to it, and not retired. DESIGN CHOICE (log 86): a
stage of a chain, which has no retirement of its own, counts until it completes. -/
def State.bookRefs (s : State) (t slot : Nat) : Nat :=
  (s.chain t).foldl (fun a ch => a + (ch.books.zipIdx.filter (fun x =>
    decide (x.1 = .live) && decide (ch.st.getD x.2 .complete = .waiting ∨ ch.st.getD x.2 .complete = .begun)
      && decide (bitsOf ((ch.params.getD x.2 []).getD 0 0).toNat 55 53 = slot))).length) 0
  + s.ques.foldl (fun a e => a + (e.2.cmds.filter (fun c =>
    decide (c.engine = 1) && decide (c.opcode = 1) && decide (c.target = t) && ldCoded c && decide (ldBook c = slot)
      && decide (c.book = .live))).length) 0

/-- Re-match the LOADWs queued on a slot's pending generation, stages of running chains among them. -/
def State.rematch (s : State) (t slot : Nat) (now : BookMatch) : State :=
  let s := s.setChain t ((s.chain t).map (fun ch => { ch with books := ch.books.zipIdx.map (fun x =>
    if x.1 = .pending ∧ bitsOf ((ch.params.getD x.2 []).getD 0 0).toNat 55 53 = slot then now else x.1) }))
  { s with ques := s.ques.map (fun e => (e.1, { e.2 with cmds := e.2.cmds.map (fun c =>
      if c.engine = 1 ∧ c.opcode = 1 ∧ c.target = t ∧ ldCoded c ∧ ldBook c = slot ∧ c.book = .pending then
        { c with book := now } else c) })) }

/-- VXE_BOOKLOAD (R181): the begun command makes its GEN the slot's pending generation, and every covered live slot
becomes RETIRING. -/
def execVxeBookload (t : Fin 48) (s : State) : Result :=
  .next (
    let m := s.mxe t.val
    match m.bookOps.find? (fun o => !o.started) with
    | none => s
    | some o =>
      let m := m.setBook o.slot { m.book o.slot with pend := some o.gen }
      let m := { m with bookOps := m.bookOps.map (fun x => if x.ref = o.ref then { x with started := true } else x) }
      s.setMxe t.val ((coveredSlots m o.slot o.shape.toNat).foldl Mxe.retire m))

/-- The words of a book read from its scratchpad copy. -/
def State.bookWords (s : State) (p : Nat) (c : Cmd) (addr shape : Nat) : List (Nat × BitVec 20) :=
  ((List.range (shapeWords shape)).map (fun i => (i, BitVec.ofNat 20 (s.heldElem p c.held addr 20 i)))).filter
    (fun e => decide (e.2 ≠ 0))

/-- A begun VXE_BOOKLOAD leaves without installing its book: its pending generation is gone, and the slots it covers are no
longer RETIRING for it (R183). -/
def Mxe.dropBook (m : Mxe) (o : BookOp) : Mxe :=
  let m := { m with bookOps := m.bookOps.filter (fun x => decide (x.ref ≠ o.ref)) }
  (coveredSlots m o.slot o.shape.toNat).foldl Mxe.retire (m.setBook o.slot { m.book o.slot with pend := none })

/-- BOOK_INSTALL (R181, R182): once no LOADW is queued on a covered live generation, the book is read into the store and
becomes live. -/
def execBookInstall (t : Fin 48) (slot : Fin 8) (s : State) : Result :=
  .next (
    let m := s.mxe t.val
    match m.bookOps.find? (fun o => o.started && decide (o.slot = slot.val)) with
    | none => s
    | some o =>
      let cov := coveredSlots m o.slot o.shape.toNat
      match s.cmdAt o.ref, s.queOwner o.ref.q with
      | some c, some (p, _) =>
        if cov.any (fun k => (m.book k).live.isSome && decide (s.bookRefs t.val k ≠ 0)) then s
        else match s.gate t.val p c.held false o.addr (bookBytes o.shape.toNat) with
          | .wait => s
          | .bad b =>
            ((s.setMxe t.val (m.dropBook o)).rematch t.val o.slot .stale).failTile o.ref b t.val
          | .go =>
            let m := { m with bookOps := m.bookOps.filter (fun x => decide (x.ref ≠ o.ref)) }
            let m := cov.foldl (fun m k => m.setBook k { BookSlot.reset with pend := (m.book k).pend }) m
            let m := m.setBook o.slot
              { live := some o.gen, pend := none, retiring := false, paired := false, shape := o.shape
                escFmt := o.escFmt, words := s.bookWords p c o.addr o.shape.toNat }
            let m := if o.shape = 1 then m.setBook (o.slot + 1) { m.book (o.slot + 1) with paired := true } else m
            let m := m.retire o.slot
            ((s.setMxe t.val m).rematch t.val o.slot .live).completeRef o.ref
      | _, _ => s)

/-- Cancel a VXE_BOOKLOAD that a reset or DESTROY discards (R183). -/
def State.cancelBook (s : State) (t : Nat) (o : BookOp) : State :=
  let m := s.mxe t
  if o.started then (s.setMxe t (m.dropBook o)).rematch t o.slot .stale
  else s.setMxe t { m with bookOps := m.bookOps.filter (fun x => decide (x.ref ≠ o.ref)) }

/-! ## FP32 in fast mode, to nearest (R105) -/

def f32op (op : Basic) (a b : Num) : Num :=
  fp32Num (laneBasic op false .near (laneIn false a) (laneIn false b) (.fin false 0 0)).word

/-- The sum of a list in an order that free values choose, each addition rounded (R111: the order is not specified). -/
def State.sumFree (s : State) : Nat → List Num → Num × State
  | 0, xs => (xs.headD (.fin false 0 0), s)
  | _, [] => (.fin false 0 0, s)
  | _, [x] => (x, s)
  | k + 1, xs =>
    let d := s.drawNat
    let i := d.1 % xs.length
    let a := xs.getD i (.fin false 0 0)
    let ys := xs.eraseIdx i
    let e := d.2.drawNat
    let j := e.1 % ys.length
    let b := ys.getD j (.fin false 0 0)
    e.2.sumFree k (f32op .add a b :: ys.eraseIdx j)

/-- The squared distance of two vectors. -/
def State.dist2 (s : State) (v w : List Num) : Num × State :=
  s.sumFree v.length ((v.zip w).map (fun x => let d := f32op .sub x.1 x.2; f32op .mul d d))

/-- The nearest of the entries: its index and squared distance; ties to the lowest index (R187). -/
def State.nearest (s : State) (v : List Num) (entries : List (List Num)) : (Nat × Num) × State :=
  let r := entries.zipIdx.foldl (fun (acc : Option (Nat × Num) × State) e =>
    let d := acc.2.dist2 v e.1
    match acc.1 with
    | none => (some (e.2, d.1), d.2)
    | some b => (if !d.1.isNaN && (b.2.isNaN || decide (d.1.cmp b.2 < 0)) then some (e.2, d.1) else some b, d.2)) (none, s)
  (r.1.getD (0, .fin false 0 0), r.2)

/-! ## The survey record (R184–R186) -/

/-- A number of a record in memory. -/
def State.svy (s : State) (p : Nat) (held : List PageMap) (rec_ o n : Nat) : Nat := s.heldLe p held (rec_ + o) n

/-- A number of `n` bytes at offset `o` of a record as it was read when its command began (R185). -/
def recNum (rec_ : List W64) (o n : Nat) : Nat := (rec_.getD (o / 8) 0).toNat / 2 ^ (8 * (o % 8)) % 2 ^ (8 * n)

def svRec (c : Cmd) : Nat := bitsOf (c.word 6) 47 0
def svBuild (c : Cmd) : Bool := decide (bitsOf (c.word 6) 63 63 = 1)
def svSrc (c : Cmd) : Nat := bitsOf (c.word 7) 47 0
def svPitch (c : Cmd) : Nat := bitsOf (c.word 8) 63 40
def svRows (c : Cmd) : Nat := bitsOf (c.word 8) 15 0 + 1
def svCols (c : Cmd) : Nat := bitsOf (c.word 8) 27 16 + 1
def enDst (c : Cmd) : Nat := bitsOf (c.word 8) 47 0
def enSpitch (c : Cmd) : Nat := bitsOf (c.word 9) 63 40
def enDpitch (c : Cmd) : Nat := bitsOf (c.word 9) 39 16
def enRows (c : Cmd) : Nat := bitsOf (c.word 9) 15 0 + 1
def enCols (c : Cmd) : Nat := bitsOf (c.word 10) 7 0 + 1

/-- The record's range, read and written. -/
def svRecRanges (c : Cmd) : List PRange := [inTile c (svRec c) 128 6 false, inTile c (svRec c) 128 6 true]

/-- The check of VXE_SURVEY (R80, R185, R186) before its record is read. -/
def chkSurvey (s : State) (p : Nat) (c : Cmd) : Except Bad Plan :=
  checked
    ([(decide (c.ext ≠ if svBuild c then 0 else 1), badWord 0)] ++ s.tileChecks p c ++
     [(!(s.modeOn p 5) || decide (bitsOf (c.word 6) 62 48 ≠ 0) || decide (svRec c % 64 ≠ 0), badWord 6),
      (if svBuild c then decide (c.word 7 ≠ 0) else decide (bitsOf (c.word 7) 63 48 ≠ 0), badWord 7)] ++
     (if svBuild c then [] else [(decide (bitsOf (c.word 8) 39 28 ≠ 0), badWord 8)] ++ extZero c 1 7))
    ⟨svRecRanges c, [(svRec c, 128)], [(svRec c, 128)]⟩

/-- The check of VXE_ENCODE (R80, R185, R188) before its record is read. -/
def chkEncode (s : State) (p : Nat) (c : Cmd) : Except Bad Plan :=
  checked
    ([(decide (c.ext ≠ 1), badWord 0)] ++ s.tileChecks p c ++
     [(!(s.modeOn p 5) || decide (bitsOf (c.word 6) 63 48 ≠ 0) || decide (svRec c % 64 ≠ 0), badWord 6),
      (decide (bitsOf (c.word 7) 63 48 ≠ 0), badWord 7), (decide (bitsOf (c.word 8) 63 48 ≠ 0), badWord 8),
      (decide (bitsOf (c.word 10) 63 8 ≠ 0), badWord 10)] ++ extZero c 3 7)
    ⟨svRecRanges c, [(svRec c, 128)], [(svRec c, 128)]⟩

/-- The record's own check (R184, R185): the 64-bit word of the first failing field. -/
def svRecordBad (s : State) (p : Nat) (held : List PageMap) (c : Cmd) : Option Bad :=
  let r := fun o n => s.svy p held (svRec c) o n
  let addrBad := fun o => decide (r o 8 % 64 ≠ 0) || decide (2 ^ 48 ≤ r o 8)
  firstBad
    [(decide (3 < r 0 1) || decide (2 < r 1 1) || !(s.fmtOn p (r 1 1)) || decide (r 2 1 = 0) || decide (64 < r 2 1)
        || decide (30 < r 3 1) || decide (1 < r 4 1) || decide (2 < r 5 1) || !(s.fmtOn p (escCode (r 5 1)))
        || decide (40 < r 6 1) || decide (r 7 1 ≠ 0), badIn 6 0),
     (decide (r 8 4 = 0) || decide (2 ^ 24 < r 8 4) || decide (r 12 4 = 0) || decide (65536 < r 12 4), badIn 6 1),
     (addrBad 16, badIn 6 2), (addrBad 24, badIn 6 3), (addrBad 32, badIn 6 4),
     (decide (2 ^ 24 < r 40 4), badIn 6 5),
     (decide (r 61 1 / 32 ≠ 0), badIn 6 7)] |>.orElse (fun _ =>
    firstBad ((List.range 6).map (fun i => (decide (r (80 + 8 * i) 8 ≠ 0), badIn 6 (10 + i)))))

/-- The ranges that a survey's record adds (R186, R187). -/
def chkSurveyRec (s : State) (p : Nat) (held : List PageMap) (c : Cmd) : Except Bad Plan :=
  match svRecordBad s p held c with
  | some b => .error b
  | none =>
    let r := fun o n => s.svy p held (svRec c) o n
    let g := shapeG (r 0 1)
    let samp : PRange := ⟨r 16 8, r 12 4 * g * 4, !(svBuild c), inStruct 6 2, some c.target⟩
    if svBuild c then
      let book := fun wr => (⟨r 24 8, bookBytes (r 0 1), wr, inStruct 6 3, some c.target⟩ : PRange)
      .ok (planOf ([samp, book true] ++ (if r 4 1 = 1 then [book false] else [])))
    else if svCols c % g ≠ 0 then .error (badWord 8)
    else
      let b := fmtBits (r 1 1)
      .ok (planOf [inTile c (svSrc c) (rowsSpan (svRows c) (svPitch c) (packedBytes b (svCols c))) 7 false, samp])

/-- The ranges that an encode's record adds (R188). -/
def chkEncodeRec (s : State) (p : Nat) (held : List PageMap) (c : Cmd) : Except Bad Plan :=
  match svRecordBad s p held c with
  | some b => .error b
  | none =>
    let r := fun o n => s.svy p held (svRec c) o n
    let g := shapeG (r 0 1)
    let rowLen := rowRecBytes (r 0 1) (enCols c)
    if enCols c % g ≠ 0 then .error (badWord 10)
    else if enDpitch c < rowLen then .error (badWord 9)
    else
      .ok (planOf
        [inTile c (svSrc c) (rowsSpan (enRows c) (enSpitch c) (packedBytes (fmtBits (r 1 1)) (enCols c))) 7 false,
         ⟨r 24 8, bookBytes (r 0 1), false, inStruct 6 3, some c.target⟩,
         inTile c (enDst c) (rowsSpan (enRows c) (enDpitch c) rowLen) 8 true,
         ⟨r 32 8, r 40 4 * escBytes (r 5 1), true, inStruct 6 4, some c.target⟩])

/-- The survey or encode that has the vector engine, with its command and partition. -/
def State.vxeWork (s : State) (t : Nat) (k : VxeWork) : Option (VxeOp × Cmd × Nat) :=
  match (s.vxe t).op with
  | none => none
  | some o =>
    if o.work = k then (s.cmdAt o.ref).bind (fun c => (s.queOwner o.ref.q).map (fun x => (o, c, x.1))) else none

/-- The command with the engine completes, or faults. -/
def State.vxeDone (s : State) (t : Nat) (o : VxeOp) : State :=
  ((s.setVxe t { s.vxe t with op := none }).completeRef o.ref).progress .vxe t false
def State.vxeFail (s : State) (t : Nat) (o : VxeOp) (b : Bad) : State :=
  ((s.setVxe t { s.vxe t with op := none }).failTile o.ref b t).progress .vxe t false

/-- Write at each address its bytes. -/
def State.heldWrites (s : State) (p : Nat) (c : Cmd) (ws : List (Nat × List Byte)) : State :=
  ws.foldl (fun s w => s.heldWrite p c.held w.1 w.2) s

/-- The gate of writes that a command makes (R221). -/
def State.writeGate (s : State) (t p : Nat) (c : Cmd) (ws : List (Nat × List Byte)) : Gate :=
  s.gates t p c.held (ws.map (fun w => (true, w.1, w.2.length)))

/-- A pass over rows or vectors that met the gate `g` on its way: it waits as `s0`, or faults with what it had written, or
writes its record's result fields back and completes (R185, R221, R232). -/
def State.vxeEnd (s s0 : State) (t p : Nat) (o : VxeOp) (c : Cmd) (g : Gate) (ws : List (Nat × List Byte)) : State :=
  match g.andThen (s.writeGate t p c ws) with
  | .wait => s0
  | .bad b => s.vxeFail t o b
  | .go => (s.heldWrites p c ws).vxeDone t o

/-- An element of the source as an FP32 number (R186). -/
def State.srcElem (s : State) (p : Nat) (c : Cmd) (fmt va k : Nat) : Num :=
  elemNum fmt 0 (s.heldElem p c.held va (fmtBits fmt) k)

/-- The FP32 word of a source element. -/
def srcWord (x : Num) : Nat := fFP32.encode .near false x

/-- The progress of a sample phase: SEEN, SAMPLED, STATUS, and the gate that the vectors so far met. -/
structure Smp where
  seen    : Nat
  sampled : Nat
  status  : Nat
  stop    : Gate
  deriving DecidableEq, Repr

/-- Vector `j` of row `i` of the piece (R186): read, counted, and stored as a sample where it is due. -/
def sampleVec (t p : Nat) (c : Cmd) (rec_ : List W64) (a : Smp × State) (ij : Nat × Nat) : Smp × State :=
  let e := a.1
  let s := a.2
  let r := recNum rec_
  let g := shapeG (r 0 1)
  let b := fmtBits (r 1 1)
  let va := svSrc c + ij.1 * svPitch c
  let first := ij.2 * g * b / 8
  match e.stop.andThen (s.gate t p c.held false (va + first) (packedBytes b ((ij.2 + 1) * g) - first)) with
  | .go =>
    let v := (List.range g).map (fun x => s.srcElem p c (r 1 1) va (ij.2 * g + x))
    if v.any (fun x => x.isNaN || x.isInf) then ({ e with seen := e.seen + 1, status := e.status ||| 16 }, s)
    else if e.seen % r 8 4 ≠ 0 then ({ e with seen := e.seen + 1 }, s)
    else if r 12 4 ≤ e.sampled then ({ e with seen := e.seen + 1, status := e.status ||| 1 }, s)
    else
      let ws := [(r 16 8 + e.sampled * g * 4, (v.map srcWord).flatMap (leBytes 4))]
      match s.writeGate t p c ws with
      | .go => ({ e with seen := e.seen + 1, sampled := e.sampled + 1 }, s.heldWrites p c ws)
      | st => ({ e with stop := st }, s)
  | st => ({ e with stop := st }, s)

/-- The sample phase's loop over the vectors of its piece, row by row. -/
def sampleVecs (t p : Nat) (c : Cmd) (rec_ : List W64) (s : State) : Smp × State :=
  ((List.range (svRows c)).flatMap (fun i => (List.range (svCols c / shapeG (recNum rec_ 0 1))).map (fun j => (i, j)))).foldl
    (sampleVec t p c rec_) (⟨recNum rec_ 48 8, recNum rec_ 56 4, recNum rec_ 61 1, .go⟩, s)

/-- The result fields that a sample phase writes back. -/
def Smp.record (e : Smp) (c : Cmd) : List (Nat × List Byte) :=
  [(svRec c + 48, leBytes 8 e.seen ++ leBytes 4 e.sampled), (svRec c + 61, leBytes 1 e.status)]

/-- VXE_SURVEY_SAMPLE (R186): the sample phase over its piece; the result fields are written back and it completes. -/
def execVxeSurveySample (t : Fin 48) (s : State) : Result :=
  .next (
    match s.vxeWork t.val .sample with
    | none => s
    | some (o, c, p) =>
      if s.ldgHolds ⟨.ldgTile, t.val⟩ 2 then s
      else
        let e := sampleVecs t.val p c o.prog s
        e.2.vxeEnd s t.val p o c e.1.stop (e.1.record c))

/-- The state of a build (R187): entries as L20 words, DIST_FIRST, DIST_LAST, ITER_DONE, EMPTY_ENT, STATUS bits and whether it
stopped. -/
structure Build where
  entries : List (List Nat)
  first   : Num
  last    : Num
  prev    : Num
  iters   : Nat
  empty   : Nat
  conv    : Bool
  deriving DecidableEq, Repr

/-- An FP32 number rounded to L20 as an entry holds it. -/
def toL20 (x : Num) : Nat := fL20.encode .near true x

/-- One Lloyd iteration over the samples (R187). -/
def buildStep (g tol it : Nat) (samples : List (List Num)) (b : Build) (s : State) : Build × State :=
  let asg := samples.foldl (fun (a : List (Nat × Num) × State) v =>
    let r := a.2.nearest v (b.entries.map (fun e => e.map fL20.decode))
    (a.1 ++ [r.1], r.2)) ([], s)
  let tot := asg.2.sumFree asg.1.length (asg.1.map (·.2))
  let d := f32op .div tot.1 (.fin false (samples.length * g) 0)
  let upd := b.entries.zipIdx.foldl (fun (a : List (List Nat) × Nat × State) e =>
    let mine := ((samples.zip asg.1).filter (fun x => decide (x.2.1 = e.2))).map (·.1)
    if mine = [] then (a.1 ++ [e.1], a.2.1 + 1, a.2.2)
    else
      let m := (List.range g).foldl (fun (q : List Nat × State) j =>
        let r := q.2.sumFree mine.length (mine.map (fun v => v.getD j (.fin false 0 0)))
        (q.1 ++ [toL20 (f32op .div r.1 (.fin false mine.length 0))], r.2)) ([], a.2.2)
      (a.1 ++ [m.1], a.2.1, m.2)) ([], 0, tot.2)
  let gain := f32op .sub b.prev d
  let conv := decide (0 < tol) && !gain.isNaN && decide (gain.cmp (f32op .mul (.fin false 1 (-(tol : Int))) b.prev) < 0)
  ({ entries := upd.1, first := if it = 1 then d else b.first, last := d, prev := d, iters := it, empty := upd.2.1
     conv := conv }, upd.2.2)

/-- ITER_MAX iterations at most; `k` remain. -/
def buildLoop (g tol : Nat) (samples : List (List Num)) : Nat → Nat → Build → State → Build × State
  | 0, _, b, s => (b, s)
  | k + 1, it, b, s =>
    let r := buildStep g tol it samples b s
    if r.1.conv then r else buildLoop g tol samples k (it + 1) r.1 r.2

/-- The L20 words of entries, packed. -/
def entryBytes (es : List (List Nat)) (words : Nat) : List Byte :=
  leBytes (packedBytes 20 words) (es.flatten.reverse.foldl (fun a x => a * 2 ^ 20 + x) 0)

/-- What a build phase reads: the samples that were taken and, for INIT 1, the book. -/
def buildReads (rec_ : List W64) : List (Bool × Nat × Nat) :=
  let r := recNum rec_
  (false, r 16 8, r 56 4 * shapeG (r 0 1) * 4) :: (if r 4 1 = 1 then [(false, r 24 8, bookBytes (r 0 1))] else [])

/-- VXE_SURVEY_BUILD (R187): the build phase. -/
def execVxeSurveyBuild (t : Fin 48) (s : State) : Result :=
  .next (
    match s.vxeWork t.val .build with
    | none => s
    | some (o, c, p) =>
      let r := recNum o.prog
      let g := shapeG (r 0 1)
      let e := shapeEntries (r 0 1)
      let n := r 56 4
      let stat := r 61 1
      let buf := r 16 8
      if s.ldgHolds ⟨.ldgTile, t.val⟩ 2 then s
      else if n = 0 then s.vxeEnd s t.val p o c .go [(svRec c + 61, leBytes 1 (stat ||| 2))]
      else
        match s.gates t.val p c.held (buildReads o.prog) with
        | .wait => s
        | .bad b => s.vxeFail t.val o b
        | .go =>
          let samples := (List.range n).map (fun i => (List.range g).map (fun j =>
            laneIn false (fp32Num (BitVec.ofNat 32 (s.heldLe p c.held (buf + (i * g + j) * 4) 4)))))
          let seed := if r 4 1 = 0 then (List.range e).map (fun i => (samples.getD (i * n / e) []).map toL20)
            else (List.range e).map (fun i => (List.range g).map (fun j =>
              s.heldElem p c.held (r 24 8) 20 (i * g + j)))
          let b := buildLoop g (r 3 1) samples (r 2 1) 1
            ⟨seed, .fin false 0 0, .fin false 0 0, .inf false, 0, 0, false⟩ s
          let book := [(r 24 8, entryBytes b.1.entries (shapeWords (r 0 1)))]
          match b.2.writeGate t.val p c book with
          | .wait => s
          | .bad e => b.2.vxeFail t.val o e
          | .go =>
            (b.2.heldWrites p c book).vxeEnd s t.val p o c .go
              [(svRec c + 60, leBytes 1 b.1.iters ++ leBytes 1 (stat ||| (if b.1.conv then 4 else 0)) ++ leBytes 2 b.1.empty
                ++ leBytes 4 (fFP32.encode .near true b.1.first) ++ leBytes 4 (fFP32.encode .near true b.1.last))])

/-- The progress of an encode: ESC_NEXT, ENC_VEC, ENC_ESC, STATUS, and the gate that the rows so far met: a wait, or the fault
that stopped it. -/
structure Enc where
  next : Nat
  vec  : Nat
  esc  : Nat
  stat : Nat
  stop : Gate
  deriving DecidableEq, Repr

/-- Encode column group `j` of a row (R188): its codes, or the group converted into the escape area, whose clamped elements
count (R163); its elements are read in fast mode (R105). `a` holds the mask and codes so far. -/
def encodeGroup (p : Nat) (c : Cmd) (ref_ : CmdRef) (rec_ : List W64) (entries : List (List Num)) (row : List Num)
    (a : (Nat × List Nat) × Enc × State) (j : Nat) : (Nat × List Nat) × Enc × State :=
  let e := a.2.1
  let s := a.2.2
  if e.stop ≠ .go then a
  else
    let r := recNum rec_
    let g := shapeG (r 0 1)
    let xs := (row.drop (64 * j)).take 64
    let vs := (List.range (xs.length / g)).map (fun i => (xs.drop (i * g)).take g)
    let cod := vs.foldl (fun (q : List Nat × State) v =>
      let m := q.2.nearest v entries
      (q.1 ++ [m.1.1], m.2)) ([], s)
    let diffs := (vs.zip cod.1).flatMap (fun x => (x.1.zip (entries.getD x.2 [])).map (fun y =>
      let d := f32op .sub y.1 y.2
      f32op .mul d d))
    let err := cod.2.sumFree diffs.length diffs
    let sq := xs.map (fun x => f32op .mul x x)
    let ref := err.2.sumFree sq.length sq
    let odd := xs.any (fun x => x.isNaN || x.isInf)
    let t := r 6 1
    let esc := odd || (decide (0 < t) && decide (0 < err.1.cmp (f32op .mul (.fin false 1 (-(t : Int))) ref.1)))
    let s := ref.2
    if esc ∧ e.next < r 40 4 then
      let f := escCode (r 5 1)
      let cv := xs.map (fun x => convert f 0 .near true (laneIn false x))
      let codes := cv.map (·.code)
      let ws := [(r 32 8 + e.next * escBytes (r 5 1),
        leBytes (packedBytes (fmtBits f) codes.length) (codes.reverse.foldl (fun v x => v * 2 ^ fmtBits f + x) 0))]
      match s.writeGate c.target p c ws with
      | .go =>
        let s := s.countTile c.target 0x0109 (cv.filter (·.clamp)).length (s.whoRef ref_ c)
        ((a.1.1 + 2 ^ j, a.1.2 ++ vs.map (fun _ => 0)), { e with next := e.next + 1, esc := e.esc + 1 }, s.heldWrites p c ws)
      | st => (a.1, { e with stop := st }, s)
    else if esc ∧ odd then (a.1, { e with stop := .bad ⟨0x0B, 0, escCode (r 5 1), 2, 0, 0x7F⟩ }, s)
    else
      ((a.1.1, a.1.2 ++ cod.1),
       { e with vec := e.vec + vs.length, stat := if esc then e.stat ||| 8 else e.stat }, s)

/-- Encode source row `i` into its row record. -/
def encodeRow (p : Nat) (c : Cmd) (ref_ : CmdRef) (rec_ : List W64) (entries : List (List Num)) (a : Enc × State)
    (i : Nat) : Enc × State :=
  let s := a.2
  let r := recNum rec_
  let shape := r 0 1
  match a.1.stop.andThen (s.gate c.target p c.held false (svSrc c + i * enSpitch c)
      (packedBytes (fmtBits (r 1 1)) (enCols c))) with
  | .go =>
    let row := (List.range (enCols c)).map (fun k => s.srcElem p c (r 1 1) (svSrc c + i * enSpitch c) k)
    let g := (List.range ((enCols c + 63) / 64)).foldl (encodeGroup p c ref_ rec_ entries row) ((0, []), a.1, s)
    let bytes := leBytes 4 (g.1.1 + a.1.next % 2 ^ 24 * 2 ^ 8)
      ++ leBytes (packedBytes (shapeBits shape) g.1.2.length)
          (g.1.2.reverse.foldl (fun v x => v * 2 ^ shapeBits shape + x) 0)
    let ws := [(enDst c + i * enDpitch c, bytes)]
    match g.2.1.stop.andThen (g.2.2.writeGate c.target p c ws) with
    | .go => (g.2.1, g.2.2.heldWrites p c ws)
    | st => ({ g.2.1 with stop := st }, g.2.2)
  | st => ({ a.1 with stop := st }, s)

/-- The result fields that an encode writes back. -/
def Enc.record (e : Enc) (c : Cmd) : List (Nat × List Byte) :=
  [(svRec c + 44, leBytes 4 e.next), (svRec c + 61, leBytes 1 e.stat), (svRec c + 72, leBytes 4 e.vec ++ leBytes 4 e.esc)]

/-- The encode pass over the source rows. -/
def encodeRows (p : Nat) (c : Cmd) (o : VxeOp) (s : State) : Enc × State :=
  let r := recNum o.prog
  let g := shapeG (r 0 1)
  let entries := (List.range (shapeEntries (r 0 1))).map (fun i => (List.range g).map (fun j =>
    fL20.decode (s.heldElem p c.held (r 24 8) 20 (i * g + j))))
  (List.range (enRows c)).foldl (encodeRow p c o.ref o.prog entries) (⟨r 44 4, r 72 4, r 76 4, r 61 1, .go⟩, s)

/-- What a survey or encode that runs meets next at the fill bits of its tile (R221). -/
def State.vxeStop (s : State) (t p : Nat) (c : Cmd) (o : VxeOp) : Gate :=
  let r := recNum o.prog
  match o.work with
  | .run => .go
  | .sample => let e := sampleVecs t p c o.prog s; e.1.stop.andThen (e.2.writeGate t p c (e.1.record c))
  | .build =>
    if r 56 4 = 0 then s.gate t p c.held true (svRec c + 61) 1
    else (s.gates t p c.held (buildReads o.prog)).andThen
      ((s.gate t p c.held true (r 24 8) (bookBytes (r 0 1))).andThen (s.gate t p c.held true (svRec c + 60) 12))
  | .encode =>
    (s.gate t p c.held false (r 24 8) (bookBytes (r 0 1))).andThen
      (let e := encodeRows p c o s; e.1.stop.andThen (e.2.writeGate t p c (e.1.record c)))

/-- VXE_ENCODE (R188): the encode pass; a NaN that no escape takes raises the NaN-conversion fault. -/
def execVxeEncode (t : Fin 48) (s : State) : Result :=
  .next (
    match s.vxeWork t.val .encode with
    | none => s
    | some (o, c, p) =>
      let r := recNum o.prog
      if s.ldgHolds ⟨.ldgTile, t.val⟩ 2 then s
      else match s.gate t.val p c.held false (r 24 8) (bookBytes (r 0 1)) with
      | .wait => s
      | .bad b => s.vxeFail t.val o b
      | .go =>
        let e := encodeRows p c o s
        e.2.vxeEnd s t.val p o c e.1.stop (e.1.record c))

end Sys2Proof.Machine
end

