-- ==== Sys2Proof/Machine/Engines.lean ====
section
/-!
DEFINITION. What a command of a tile or stack engine meets when it begins (R80, R84, R127–R129): the check of its engine's
chapter, whether the engine may take it now, the check of the structure it names in scratchpad, and its place among the
engine's begun commands. Commands of queues and stages of chains go through the same definitions.
-/
namespace Sys2Proof.Machine

/-! ## The first check: fields, claims and ranges -/

/-- The check of a command of the matrix, vector, stream or near-memory engine (R80). -/
def chkEngine (s : State) (p dq : Nat) (c : Cmd) : Except Bad Plan :=
  match c.engine, c.opcode with
  | 1, 0x01 => chkLoadwFull s p c
  | 1, 0x02 => chkPass s p dq c
  | 1, 0x03 => chkDrain s p dq c
  | 2, 0x01 => chkVxeRun s p c
  | 2, 0x20 => chkSurvey s p c
  | 2, 0x21 => chkEncode s p c
  | 2, 0x22 => chkBookload s p c
  | 3, 0x01 => chkSteOpen s p c
  | 3, 0x02 => chkFrontier s p c false
  | 3, 0x03 => chkFrontier s p c true
  | 3, 0x04 => chkSteClose s p c
  | 4, 0x01 => chkAttend s p c
  | 4, 0x02 => chkAttend s p c
  | _, _ => .error (badWord 0)

/-- The key of the TLB that serves a command (R267). -/
def cmdTlb (p : Nat) (c : Cmd) : Nat :=
  match c.engine with
  | 1 => tlbTile c.target
  | 2 => tlbTile c.target
  | 3 => tlbTile c.target
  | 4 => tlbBase c.target
  | 5 => tlbLg c.target
  | _ => tlbPart p

/-! ## Whether the engine may take it now -/

/-- The matrix engine takes a command once every begun one has started (R128); one LOADW and one DRAIN at a time
(R489); a LOADW no earlier than the first issue of the latest swap (R115), and on a pending book generation only once
that is installed (R179). A PASS or DRAIN of a slot that a running SAVE or RESTORE selects waits (R150). -/
def State.mxeMay (s : State) (dq : Nat) (c : Cmd) : Bool :=
  let m := s.mxe c.target
  m.loads.all (·.started) && m.passes.all (·.started) && m.drains.all (·.started) &&
  match c.opcode with
  | 0x01 => decide (m.loads = []) && m.swapIssued && decide (c.book ≠ .pending)
      && m.passes.all (fun x => x.swapped || decide (x.ref.q ≠ dq))
  | 0x02 => !(m.saveTakes (psSlot c) (psComp c))
  | 0x03 => decide (m.drains = []) && !(m.saveTakes (drSlot c) (drainComp m c))
  | _ => true

/-- The engine may take the command now (R84, R181, R210, R215, R284). -/
def State.engineMay (s : State) (dq : Nat) (c : Cmd) : Bool :=
  match c.engine with
  | 1 => s.mxeMay dq c
  | 2 =>
    if c.opcode = 0x22 then
      (coveredSlots (s.mxe c.target) (blSlot c) (blShape c)).all (fun k => decide (((s.mxe c.target).book k).pend = none))
        && (s.mxe c.target).bookOps.all (·.started)
    else decide ((s.vxe c.target).op = none)
  | 3 => s.steMay c
  | 4 => decide ((s.nme c.target).ops = [])
  | _ => true

/-! ## The second check: structures in scratchpad -/

/-- The structure that a command's check reads: its address and length (R158, R186, R196). -/
def structOf (c : Cmd) : Option (Nat × Nat) :=
  match c.engine, c.opcode with
  | 1, 0x03 => some (drSrec c, 64)
  | 2, 0x01 => some (vxProg c, 384 + 8 * vxN c)
  | 2, 0x20 => some (svRec c, 128)
  | 2, 0x21 => some (svRec c, 128)
  | _, _ => none

/-- The words of the structure as read: of a VXE_RUN its program block, of a survey or encode its record. -/
def State.progWords (s : State) (p : Nat) (held : List PageMap) (c : Cmd) : List W64 :=
  let x := (structOf c).getD (0, 0)
  (List.range (x.2 / 8)).map (fun i => BitVec.ofNat 64 (s.heldLe p held (x.1 + 8 * i) 8))

/-- The gate of the structure's read (R221). -/
def State.structGate (s : State) (p : Nat) (held : List PageMap) (c : Cmd) : Gate :=
  match structOf c with
  | some (va, n) => s.gate c.target p held false va n
  | none => .go

/-- The check after translation: what the structure holds, and the ranges it adds. -/
def chkStruct (s : State) (p : Nat) (held : List PageMap) (c : Cmd) (first : Plan) : Except Bad Plan :=
  let add := fun (pl : Plan) => (⟨pl.ranges, (first.rd ++ pl.rd).eraseDups, (first.wr ++ pl.wr).eraseDups⟩ : Plan)
  match c.engine, c.opcode with
  | 1, 0x03 =>
    (match chkDrainRecord s p held c with
     | some b => .error b
     | none => .ok ⟨[], first.rd, first.wr⟩)
  | 2, 0x01 => chkVxeProg s p c (s.progWords p held c)
  | 2, 0x20 => (chkSurveyRec s p held c).map add
  | 2, 0x21 => (chkEncodeRec s p held c).map add
  | 3, 0x01 =>
    (match chkOpenState s p held c with
     | some b => .error b
     | none => .ok ⟨[], first.rd, first.wr⟩)
  | _, _ => .ok ⟨[], first.rd, first.wr⟩

/-! ## Waiting on fill bits (R221) -/

/-- The commands of a tile's engines whose next access waits on a fill bit (R221). -/
def State.fillWaiters (s : State) (t : Nat) : List CmdRef :=
  let m := s.mxe t
  (match s.issuing t with
   | some (x, c) =>
     let p := ((s.queOwner x.ref.q).map (·.1)).getD 0
     if s.passGate t p x.ref c (passElems (psTrans c) m.act) x.next = .wait then [x.ref] else []
   | none => [])
  ++ (match m.loads.find? (·.started) with
   | some x => (match s.cmdAt x.ref, s.queOwner x.ref.q with
     | some c, some (p, _) => if s.loadMeets t p x.ref c = .wait then [x.ref] else []
     | _, _ => [])
   | none => [])
  ++ (match s.drainOf t with
   | some (d, c, p) => if d.next < drM c ∧ s.drainGate t p c d.next = .wait then [d.ref] else []
   | none => [])
  ++ (match (s.vxe t).op with
   | some o => (match s.cmdAt o.ref, s.queOwner o.ref.q with
     | some c, some (p, _) =>
       let waits : Bool := match o.work with
         | .run => decide (o.pc < vxN c) && decide (s.chunkGate t p o.ref c o.prog (progInst o.prog o.pc) o.chunk
             (chunkOf t p c o.prog (progInst o.prog o.pc) o.chunk s).1.cells = .wait)
         | _ => decide (s.vxeStop t p c o = .wait)
       if o.started && waits then [o.ref] else []
     | _, _ => [])
   | none => [])

/-- A begun command waits on a fill bit for its next access. -/
def State.fillWaits (s : State) (r : CmdRef) (c : Cmd) : Bool :=
  (s.fillWaiters c.target).any (fun x => decide (x = r))

/-! ## Entering the engine -/

/-- The work that a vector command is (R186, R188, R195). -/
def vxWorkOf (c : Cmd) : VxeWork :=
  match c.opcode with
  | 0x20 => if svBuild c then .build else .sample
  | 0x21 => .encode
  | _ => .run

/-- A command that begins takes its place at its engine; its own row starts it. `prog` is the program block or
survey record that it read (R185, R196). -/
def State.enter (s : State) (p : Nat) (held : List PageMap) (r : CmdRef) (c : Cmd) (prog : List W64) : State :=
  let t := c.target
  match c.engine, c.opcode with
  | 1, 0x01 => let m := s.mxe t; s.setMxe t { m with loads := m.loads ++ [⟨r, false⟩] }
  | 1, 0x02 =>
    let m := s.mxe t
    s.setMxe t { m with passes := m.passes ++ [⟨r, m.orderNo, false, false, 0, 0⟩], orderNo := m.orderNo + 1 }
  | 1, 0x03 =>
    let m := s.mxe t
    let d := drainStart s p held c r m.orderNo
    let s := if drRot c = 0 then s else { s with free := s.free + drM c * 256 }
    s.setMxe t { m with drains := m.drains ++ [d], orderNo := m.orderNo + 1 }
  | 2, 0x22 =>
    let m := s.mxe t
    let o : BookOp :=
      { ref := r, slot := blSlot c, gen := BitVec.ofNat 8 (blGen c), shape := BitVec.ofNat 2 (blShape c)
        escFmt := BitVec.ofNat 2 (blEsc c), addr := blAddr c, started := false }
    s.setMxe t { m with bookOps := m.bookOps ++ [o] }
  | 2, _ =>
    let w := vxWorkOf c
    s.setVxe t { s.vxe t with
      op := some ⟨r, w, false, prog, 0, 0, 0, 0, none⟩ }
  | 3, op =>
    let e := s.ste t
    let x := e.stream (stSid c)
    let e := if op = 0x02 ∨ op = 0x03 then e.setStream (stSid c) { x with pendB := x.pendB + stBytes c } else e
    s.setSte t { e with cmds := e.cmds ++ [(stSid c, r)] }
  | 4, _ =>
    let n := s.nme t
    s.setNme t { n with ops := n.ops ++ [⟨r, atBwd c, false, 0, []⟩] }
  | _, _ => s

end Sys2Proof.Machine
end

