-- ==== Sys2Proof/Machine/Chains.lean ====
section
/-!
DEFINITION. Fused chains (R239–R245), hand-off rings (R246–R250) and partition barriers (R251–R253).
-/
namespace Sys2Proof.Machine

/-! ## The chain's own fields (R239, R240) -/

def chSerial (c : Cmd) : Bool := decide (bitsOf (c.word 6) 63 63 = 1)
def chN (c : Cmd) : Nat := bitsOf (c.word 6) 6 0 + 1

/-- The stage words: W7, then the words of the extension records. -/
def chStages (c : Cmd) : List W64 := (List.range (chN c)).map (fun i => c.words.getD (stageWord i) 0)

/-- Whether a stage has a parameter block. -/
def hasBlock (w : Nat) : Bool := decide (1 ≤ stKind w) && decide (stKind w ≤ 4)

/-- A stage word's own fault (R242): reserved KIND, a bit that its KIND does not use, a POP that no stage of KIND 1 to 4
follows. `next` is the stage after it. -/
def stageFieldsBad (w : Nat) (next : Option Nat) : Bool :=
  match stKind w with
  | 5 => decide (15 < stAux w)
  | 6 => decide (15 < stAux w)
  | 7 => decide (15 < stAux w) || decide (stArg w ≠ 0)
  | 8 => decide (stArg w / 32 ≠ 0) || decide (bitsOf (stArg w) 3 3 = 1) ||
      (match next with
       | some n => !(hasBlock n)
       | none => true)
  | 9 => decide (stArg w % 16 ≠ 0)
  | k => decide (k = 0) || decide (10 ≤ k) || decide (stAux w ≠ 0) || decide (stArg w % 64 ≠ 0)

/-- The first stage with a bad word, by R242. -/
def firstBadStage (ws : List W64) : Option Nat :=
  let i := (List.range ws.length).findIdx (fun i =>
    stageFieldsBad (ws.getD i 0).toNat (if i + 1 < ws.length then some (ws.getD (i + 1) 0).toNat else none))
  if i < ws.length then some i else none

/-- The stage before `i` is a POP. -/
def afterPop (ws : List W64) (i : Nat) : Bool := decide (1 ≤ i) && decide (stKind (ws.getD (i - 1) 0).toNat = 8)

/-- What a chain reads before it begins: parameter blocks and entry images of the stages before the first bad one. -/
def chainReads (c : Cmd) : List (Nat × Nat) :=
  let ws := chStages c
  (ws.take ((firstBadStage ws).getD ws.length)).filterMap (fun w =>
    if hasBlock w.toNat then some (stArg w.toNat, 64)
    else if stKind w.toNat = 9 then some (stArg w.toNat, 16) else none)

/-- The check of the chain's record (R80, R239, R242). Bad stage words come with the stages (`chainStages`). -/
def chkChain (s : State) (p : Nat) (c : Cmd) : Except Bad Plan :=
  checked
    ([(decide (c.ext = 0), badWord 0)] ++ s.tileChecks p c ++
     [(decide (bitsOf (c.word 6) 62 7 ≠ 0) || decide (chN c < 2) || decide (121 < chN c)
        || decide (8 * c.ext + 1 < chN c) || decide (chN c + 6 < 8 * c.ext), badWord 6)] ++
     (List.range (8 * c.ext + 8)).filterMap (fun i =>
       if stageWord (chN c) ≤ i then some (decide (c.word i ≠ 0), badWord i) else none))
    ⟨[], chainReads c, []⟩

/-! ## Checking the stages before the chain begins (R242) -/

/-- What the buffers, slots and streams look like to the commands and stages after this one (R128, R129, R219, R222). -/
def State.afterStage (s : State) (dq : Nat) (c : Cmd) : State :=
  let m := s.mxe c.target
  match c.engine, c.opcode with
  | 1, 0x01 => s.setMxe c.target { m with
      shd := { WBuf.reset with st := .loading, kValid := ldK c, nValid := ldN c, claim := some dq } }
  | 1, 0x02 =>
    let m := if psSwap c then { m with act := { m.shd with st := .ready }, shd := .reset } else m
    let take := fun (sl : Slot) => { sl with claim := some dq }
    let m := if psAcc c then m
      else if psComp c then { m with slot0 := take m.slot0, slot1 := take m.slot1 }
      else m.setSlot (psSlot c) (take (m.slot (psSlot c)))
    s.setMxe c.target m
  | 3, op =>
    let e := s.ste c.target
    let x := e.stream (stSid c)
    let x : Stream := if op = 0x01 then { Stream.reset with st := .running, store := opStore (c.word 6), words := c.words }
      else if op = 0x04 then .reset
      else { x with pendB := x.pendB + stBytes c }
    s.setSte c.target (e.setStream (stSid c) x)
  | _, _ => s

/-- The buffers as the queue's earlier passes leave them: a started pass that waits to swap has swapped. -/
def State.afterSwaps (s : State) (t dq : Nat) : State :=
  let m := s.mxe t
  if m.passes.any (fun x => decide (x.ref.q = dq) && x.started && !x.swapped) then
    s.setMxe t { m with act := { m.shd with st := .ready }, shd := .reset, passes := m.passes.map (fun x => { x with swapped := true }) }
  else s

/-- A begun command's effect on what later ones see. -/
def State.afterRef (s : State) (r : CmdRef) : State :=
  match s.cmdAt r with
  | some c => s.afterStage r.q c
  | none => s

/-- The commands begun at a tile whose effect on its buffers, slots and streams is still to come: matrix commands that have
not started, opens and closes of streams, and the waiting stages of chains. -/
def State.unperformed (s : State) (t : Nat) : List CmdRef :=
  let m := s.mxe t
  ((m.loads.filter (fun x => !x.started)).map (·.ref)) ++ ((m.passes.filter (fun x => !x.started)).map (·.ref))
    ++ (((s.ste t).cmds.map (·.2)).filter (fun r => match s.cmdAt r with
        | some c => decide (c.opcode = 0x01) || decide (c.opcode = 0x04)
        | none => false))
    ++ (s.chain t).flatMap (fun ch => ((List.range ch.stages.length).filter (fun j =>
        decide (ch.st.getD j .complete = .waiting) && decide (stKind (ch.stages.getD j 0).toNat ≤ 6))).map (fun j =>
          (⟨ch.ref.q, ch.ref.head, some j⟩ : CmdRef)))

/-- A tile's buffers, slots and streams as everything begun there leaves them. -/
def State.afterBegun (s : State) (t dq : Nat) : State := (s.unperformed t).foldl State.afterRef (s.afterSwaps t dq)

/-- The read and write sets of an earlier command of the queue; none where they cannot be known yet. -/
abbrev Prior := Option (List (Nat × Nat) × List (Nat × Nat))

/-- An earlier command conflicts with these sets, or may (R82 rule 2). -/
def priorMeets (rd wr : List (Nat × Nat)) (x : Prior) : Bool :=
  match x with
  | none => true
  | some e => conflicts rd wr e.1 e.2

/-- What the check of a chain's stages answers; where they pass, `sim` is the tile as the chain leaves it. -/
inductive ChainRes where
  | wait
  | bad (b : Bad)
  | ok (ch : Chain) (held : List PageMap) (sim : State)
  deriving DecidableEq, Repr

/-- What the check of a stage's command answers: its pages, its read and write sets and the program that it runs, where it
passes. -/
inductive StageRes where
  | wait
  | bad (b : Bad)
  | ok (held : List PageMap) (rd wr : List (Nat × Nat)) (prog : List W64)
  deriving DecidableEq, Repr

/-- Check one stage of KIND 1 to 6: its ranges placed, a VRUN's program read and checked, its sets (R196, R198, R242). `sim`
is the tile as the stages before leave it; a program is read once the earlier commands that may write it are done. -/
def State.checkStage (s sim : State) (ps : List Prior) (p dq lc i : Nat) (w : Nat) (c : Cmd) (held : List PageMap) :
    StageRes × State :=
  match chkEngine sim p dq c with
  | .error b => (.bad (stageBad b w i), s)
  | .ok pl =>
    match s.placeRanges (tlbTile c.target) p lc pl.ranges held with
    | (.error b, s) => (.bad (stageBad b w i), s)
    | (.ok held, s) =>
      if stKind w ≠ 4 then (.ok held pl.rd pl.wr [], s)
      else if ps.any (priorMeets pl.rd []) then (.wait, s)
      else match s.structGate p held c with
        | .wait => (.wait, s)
        | .bad b => (.bad (stageBad b w i), s)
        | .go =>
          match chkStruct s p held c pl with
          | .error b => (.bad (stageBad b w i), s)
          | .ok pl' =>
            match s.placeRanges (tlbTile c.target) p lc pl'.ranges held with
            | (.error b, s) => (.bad (stageBad b w i), s)
            | (.ok held, s) => (.ok held pl'.rd pl'.wr (s.progWords p held c), s)

/-- What one stage's check leaves: an end of the chain's check, or the engines, the chain and the pages for the stages
after it. -/
inductive ChainStep where
  | stop (r : ChainRes)
  | go (sim : State) (ch : Chain) (held : List PageMap)
  deriving DecidableEq, Repr

def StageRes.step (r : StageRes) (sim : State) (ch : Chain) (i : Nat) : ChainStep :=
  match r with
  | .wait => .stop .wait
  | .bad b => .stop (.bad b)
  | .ok held rd wr prog => .go sim { ch with sets := ch.sets ++ [(rd, wr)], progs := ch.progs.set i prog } held

/-- A stage whose command is at hand: checked, and its effect on what later stages see. -/
def State.ownStep (s sim : State) (ps : List Prior) (p dq lc i w : Nat) (sc : Cmd) (ch : Chain) (held : List PageMap) :
    ChainStep × State :=
  let r := s.checkStage sim ps p dq lc i w sc held
  (r.1.step (sim.afterStage dq sc) ch i, r.2)

/-- The first of the words that a VRUN's parameter block leaves reserved and that is not zero (R242). -/
def badParam (w : Nat) (par : List W64) : Option Nat :=
  if stKind w = 4 ∧ (par.drop 2).any (fun x => decide (x ≠ 0)) then
    some (2 + (par.drop 2).findIdx (fun x => decide (x ≠ 0)))
  else none

/-- A stage whose parameter block can be read: the chain keeps a copy of the block and the match of its book (R179,
R242); a stage after a POP is checked when it begins. -/
def State.blockStep (s sim : State) (ps : List Prior) (p dq lc : Nat) (c : Cmd) (i w : Nat) (ch : Chain) (held : List PageMap) :
    ChainStep × State :=
  let par := (List.range 8).map (fun j => BitVec.ofNat 64 (s.heldLe p held (stArg w + 8 * j) 8))
  let ch := { ch with params := ch.params.set i par }
  let sc := stageCmd { c with held := held } ch i
  let ch := { ch with books := ch.books.set i (s.bookMatch sc) }
  let sc := { sc with book := s.bookMatch sc }
  match badParam w par with
  | some j => (.stop (.bad { badIn (stageWord i) j with stage := i }), s)
  | none =>
    if afterPop ch.stages i then (.go (sim.afterStage dq sc) { ch with sets := ch.sets ++ [([], [])] } held, s)
    else s.ownStep sim ps p dq lc i w sc ch held

/-- One stage of a chain's check, in stage order (R179, R242). -/
def State.chainStep (s sim : State) (ps : List Prior) (p dq lc : Nat) (c : Cmd) (i : Nat) (ch : Chain) (held : List PageMap) :
    ChainStep × State :=
  let w := (ch.stages.getD i 0).toNat
  let next := if i + 1 < ch.stages.length then some (ch.stages.getD (i + 1) 0).toNat else none
  let t := c.target
  if stageFieldsBad w next then (.stop (.bad { badWord (stageWord i) with stage := i }), s)
  else if stKind w = 9 then
    match s.placeRange (tlbTile t) p lc ⟨stArg w, 16, false, inWord (stageWord i), some t⟩ held with
    | (.error b, s) => (.stop (.bad { b with stage := i }), s)
    | (.ok held, s) => (.go sim { ch with sets := ch.sets ++ [([(stArg w, 16)], [])] } held, s)
  else if stKind w = 7 ∨ stKind w = 8 then (.go sim { ch with sets := ch.sets ++ [([], [])] } held, s)
  else if hasBlock w then
    match s.placeRange (tlbTile t) p lc ⟨stArg w, 64, false, inWord (stageWord i), some t⟩ held with
    | (.error b, s) => (.stop (.bad { b with stage := i }), s)
    | (.ok held, s) =>
      match s.gate t p held false (stArg w) 64 with
      | .wait => (.stop .wait, s)
      | .bad b => (.stop (.bad (stageBad b w i)), s)
      | .go => s.blockStep sim ps p dq lc c i w ch held
  else s.ownStep sim ps p dq lc i w (stageCmd { c with held := held } ch i) ch held

/-- The check of the stages from stage `i` on, each in its turn. -/
def State.chainStages (s sim : State) (ps : List Prior) (p dq lc : Nat) (c : Cmd) (i : Nat) (ch : Chain)
    (held : List PageMap) : Nat → ChainRes × State
  | 0 => (.ok ch held sim, s)
  | n + 1 =>
    match s.chainStep sim ps p dq lc c i ch held with
    | (.stop r, s) => (r, s)
    | (.go sim ch held, s) => s.chainStages sim ps p dq lc c (i + 1) ch held n

/-- A command's chain before its stages are checked. -/
def chainOfCmd (ref : CmdRef) (c : Cmd) : Chain :=
  let ws := chStages c
  { ref := ref, serial := chSerial c, started := false, stages := ws, params := ws.map (fun _ => List.replicate 8 0)
    st := ws.map (fun _ => .waiting), books := ws.map (fun _ => .none), sets := [], held := []
    progs := ws.map (fun _ => []), stop := false }

/-- The check of every stage, and the chain that begins (R241, R242). `sim` is the tile as the earlier commands leave it,
`ps` their sets. -/
def State.chainCheck (s sim : State) (ps : List Prior) (p q : Nat) (c : Cmd) : ChainRes × State :=
  let dq := s.devQue p q
  s.chainStages sim ps p dq (s.qCtx p q) c 0 (chainOfCmd ⟨dq, c.head, none⟩ c) [] (chN c)

/-- The chain's read and write sets: the unions of its stages', its parameter blocks and entry images (R242). -/
def chainSets (c : Cmd) (ch : Chain) : List (Nat × Nat) × List (Nat × Nat) :=
  (cover8 (chainReads c ++ ch.sets.flatMap (·.1)), cover8 (ch.sets.flatMap (·.2)))

/-- MXE_CHAIN (R239): the begun chain starts on its tile. -/
def execMxeChain (t : Fin 48) (s : State) : Result :=
  .next (
    match (s.chain t.val).find? (fun ch => !ch.started) with
    | none => s
    | some ch => s.putChain t.val { ch with started := true })

/-! ## Stage order (R243) -/

def stageOver (x : StageSt) : Bool := decide (x = .complete) || decide (x = .skipped)

/-- Rule 3 for stage `i` with sets `rd`, `wr`: earlier stages that conflict have completed, or hand over. The sets of a stage
that receives an address from a POP are known once it has begun. -/
def Chain.clear (ch : Chain) (i : Nat) (rd wr : List (Nat × Nat)) : Bool :=
  (List.range i).all (fun j =>
    let x := ch.st.getD j .complete
    let e := ch.sets.getD j ([], [])
    stageOver x || (!(conflicts rd wr e.1 e.2) && !(afterPop ch.stages j && decide (x = .waiting))) ||
      (decide (stKind (ch.stages.getD j 0).toNat = 3) && !ch.serial && decide (x ≠ .waiting)
        && !(conflicts [] wr e.1 e.2)))

/-- A stage that releases or pushes bytes of a stream (R240). -/
def streamStage (w : Nat) : Bool := decide (stKind w = 5) || decide (stKind w = 6)

/-- Rules 1, 2 and 4 for stage `i`, and the order of the stages of one stream (R215). A chain that stops begins no stage
(R245). -/
def Chain.turn (ch : Chain) (i : Nat) : Bool :=
  let word := fun j => (ch.stages.getD j 0).toNat
  let kind := fun j => stKind (word j)
  let past := fun j => stageOver (ch.st.getD j .complete)
  ch.started && !ch.stop && decide (ch.st.getD i .complete = .waiting) && ch.st.all (fun x => decide (x ≠ .faulted)) &&
  (List.range i).all (fun j =>
    (if kind j = 8 ∨ kind j = 7 ∨ kind j = 9 then past j else true)
      && (if kind i = 7 ∨ kind i = 9 then past j else true)
      && (if kind i ≤ 3 ∧ kind j ≤ 3 then decide (ch.st.getD j .complete ≠ .waiting) else true)
      && (if streamStage (word i) ∧ streamStage (word j) ∧ stAux (word i) = stAux (word j) then
          decide (ch.st.getD j .complete ≠ .waiting) else true))

/-! ## Stages begin (R243, R248) -/

/-- The party of a chain stage at its partition's rings. -/
def stageParty (t : Nat) (ch : Chain) (i : Nat) : RingParty := .chain t ⟨ch.ref.q, ch.ref.head, some i⟩

/-- A stage fails its check as it begins, or a read for it faults. -/
def State.failStage (s : State) (t : Nat) (r : CmdRef) (b : Bad) : State := s.failRef r b 0 t 0

/-- A BARRIER, POP or PUSH stage begins: it leaves for the home. -/
def State.beginOwn (s : State) (t p : Nat) (ch : Chain) (i : Nat) (c : Cmd) : State :=
  let w := (ch.stages.getD i 0).toNat
  let r : CmdRef := ⟨ch.ref.q, ch.ref.head, some i⟩
  match stKind w with
  | 7 =>
    let b := s.bar (p * 16 + stAux w)
    (s.setStage r .begun).setBar (p * 16 + stAux w) { b with inbound := b.inbound ++ [(t, r)] }
  | 8 =>
    let x := s.ring (ringKey p (stAux w))
    (s.setStage r .begun).setRing (ringKey p (stAux w)) { x with pops := x.pops ++ [(stageParty t ch i, false)] }
  | _ =>
    match s.gate t p c.held false (stArg w) 16 with
    | .wait => s
    | .bad b => s.failStage t r b
    | .go =>
      let img := (BitVec.ofNat 64 (s.heldLe p c.held (stArg w) 8), BitVec.ofNat 64 (s.heldLe p c.held (stArg w + 8) 8))
      let x := s.ring (ringKey p (stAux w))
      ((s.setStage r .begun).setRing (ringKey p (stAux w))
        { x with pushes := x.pushes ++ [(stageParty t ch i, img, false)] }).bump

/-- Earlier commands of the queue to the same stream context have begun (R215). -/
def State.sidFree (s : State) (p q : Nat) (h : W32) (sc : Cmd) : Bool :=
  let cs := (s.q p q).cmds
  decide (sc.engine ≠ 3) || (cs.take (cmdIdx cs h)).all (fun e =>
    !(decide (e.phase = .fetched) && decide (e.engine = 3) && decide (e.target = sc.target) && decide (stSid e = stSid sc)))

/-- A VRUN stage begins with the program that its chain read (R196); another stage, or one whose block a POP completed,
reads and checks its structure now. -/
def State.stageStruct (s : State) (t p : Nat) (ch : Chain) (i : Nat) (r : CmdRef) (held : List PageMap) (sc : Cmd)
    (pl : Plan) : Gate × Plan × List W64 :=
  if stKind (ch.stages.getD i 0).toNat = 4 ∧ ¬ afterPop ch.stages i then
    (.go, ⟨[], (ch.sets.getD i ([], [])).1, (ch.sets.getD i ([], [])).2⟩, ch.progs.getD i [])
  else
    match (s.structGate p held sc).join (s.handOver t r ((structOf sc).toList)) with
    | .wait => (.wait, pl, [])
    | .bad b => (.bad b, pl, [])
    | .go =>
      match chkStruct s p held sc pl with
      | .error b => (.bad b, pl, [])
      | .ok pl' => (.go, pl', s.progWords p held sc)

/-- A stage of KIND 1 to 6 begins: checked again, its record read, an address that a POP delivered translated (R242, R243,
R248). -/
def State.beginEngine (s : State) (t p q : Nat) (ch : Chain) (i : Nat) (sc : Cmd) : State :=
  let dq := s.devQue p q
  let r : CmdRef := ⟨ch.ref.q, ch.ref.head, some i⟩
  if ¬ s.engineMay dq sc ∨ ¬ s.sidFree p q ch.ref.head sc then s
  else match chkEngine s p dq sc with
    | .error b => s.failStage t r b
    | .ok pl =>
      let popped := afterPop ch.stages i
      match (if popped then s.placeRanges (tlbTile t) p (s.qCtx p q) pl.ranges sc.held else (.ok sc.held, s)) with
      | (.error b, s') => if ch.clear i pl.rd pl.wr then s'.failStage t r b else s
      | (.ok held, s') =>
        let sets := if popped then (pl.rd, pl.wr) else ch.sets.getD i ([], [])
        if ¬ ch.clear i sets.1 sets.2 then s
        else match s'.stageStruct t p ch i r held sc pl with
          | (.wait, _, _) => s
          | (.bad b, _, _) => s'.failStage t r b
          | (.go, pl', prog) =>
            match s'.placeRanges (tlbTile t) p (s.qCtx p q) pl'.ranges held with
            | (.error b, s') => s'.failStage t r b
            | (.ok held, s') =>
              let sets := if popped then (pl'.rd, pl'.wr) else sets
              if ¬ ch.clear i sets.1 sets.2 then s
              else
                let ch' := { ch with sets := ch.sets.set i sets, held := ch.held ++ held.filter (fun m => !(sc.held.contains m)) }
                ((s'.putChain t ch').setStage r .begun).enter p held r { sc with held := held } prog

/-- CHAIN_STAGE_BEGIN (R243): stage `stage` of the chain of device queue `q` on tile `t` begins where its turn has come. -/
def execChainStageBegin (t : Fin 48) (q : Fin 2048) (stage : Fin 121) (s : State) : Result :=
  .next (
    let i := stage.val
    match s.queByNum q.val with
    | none => s
    | some (p, lq) =>
    match (s.chain t.val).find? (fun ch => decide (ch.ref.q = queKey p lq) && ch.turn i) with
    | none => s
    | some ch =>
      match (s.q p lq).cmds.find? (fun c => decide (c.head = ch.ref.head)) with
      | none => s
      | some c =>
        let sc := stageCmd c ch i
        let k := stKind (ch.stages.getD i 0).toNat
        if k ≤ 6 then s.beginEngine t.val p lq ch i sc
        else if ch.clear i (ch.sets.getD i ([], [])).1 [] then s.beginOwn t.val p ch i sc
        else s)

/-! ## Rings (R246–R249) -/

def State.ringOn (s : State) (p r : Nat) : Bool := decide (s.cfg .rng p (0x100 + 4 * r) 31 31 = 1)
def State.ringFaults (s : State) (p r : Nat) : Bool := decide (s.cfg .rng p (0x100 + 4 * r) 30 30 = 1)
def State.ringCtx (s : State) (p r : Nat) : Nat := s.cfg .rng p (0x100 + 4 * r) 7 0

/-- The command reference of a party. -/
def RingParty.ref : RingParty → CmdRef
  | .chain _ r => r
  | .nme _ r => r

/-- The engine code of a party (R78, R405). -/
def RingParty.eng : RingParty → Nat
  | .chain _ _ => 1
  | .nme _ _ => 4

/-- The local context of a party's queue. -/
def State.partyCtx (s : State) (p : Nat) (x : RingParty) : Nat := s.qCtx p (x.ref.q % 2048)

def State.partyWho (s : State) (x : RingParty) : Who :=
  match s.queOwner x.ref.q, s.cmdAt x.ref with
  | some (p, q), some c => s.whoOf p q c
  | _, _ => nobody

/-- A ring operation faults: the pushing or popping stage, or the engine's command, fails. -/
def State.failParty (s : State) (p : Nat) (x : RingParty) (b : Bad) : State :=
  match x with
  | .chain _ r => s.failRef r b 4 p 0
  | .nme k r =>
    match (s.nme k).ops.find? (fun o => decide (o.ref = r)) with
    | some o => (s.endOp k o).failRef r b 4 p 0
    | none => s.failRef r b 4 p 0

/-- A party's push has been performed. -/
def State.pushDone (s : State) (x : RingParty) : State :=
  match x with
  | .chain _ r => s.completeRef r
  | .nme k _ => s.nmeMaybeDone k

/-- The push that comes next: the oldest that waits while the ring has room, else the oldest that has not arrived. -/
def nextPush (x : Ring) : Option (RingParty × (W64 × W64) × Bool) :=
  if x.entries.length < 256 then
    match x.pushes.find? (fun e => e.2.2) with
    | some e => some e
    | none => x.pushes.find? (fun e => !e.2.2)
  else x.pushes.find? (fun e => !e.2.2)

def badRing (cls r : Nat) : Bad := ⟨cls, 0, r, 2, 0, 0x7F⟩
def badOwner : Bad := ⟨0x03, 0, 0, 2, 0, 0x7F⟩

/-- RING_PUSH (R247): the next push is performed at the home; it waits while a lossless ledger holds a record of its engine
(R409). -/
def execRingPush (p : Fin 8) (ring : Fin 64) (s : State) : Result :=
  .next (
    let k := ringKey p.val ring.val
    let x := s.ring k
    match nextPush x with
    | none => s
    | some e =>
      let w := s.partyWho e.1
      let out := s.setRing k { x with pushes := x.pushes.erase e }
      if s.partHolds p.val e.1.eng then s
      else if ¬ s.ringOn p.val ring.val then out.failParty p.val e.1 (badRing 0x10 ring.val)
      else if s.partyCtx p.val e.1 ≠ s.ringCtx p.val ring.val then out.failParty p.val e.1 badOwner
      else if x.entries.length < 256 then
        let s := s.setRing k { x with pushes := x.pushes.erase e, entries := x.entries ++ [e.2.1], tail := x.tail + 1 }
        let s := s.countPart p.val 0x0504 1 w
        let s := s.ledgerPart p.val w 0x0B (e.1.eng * 16) ring.val (bitsOf e.2.1.1.toNat 47 0)
        s.pushDone e.1
      else if s.ringFaults p.val ring.val then
        ((out.flag .rng p.val (0x200 + 4 * ring.val) (bit 31)).countPart p.val 0x0507 1 w).failParty p.val e.1
          (badRing 0x0F ring.val)
      else
        let s := s.setRing k { x with pushes := x.pushes.map (fun y => if y = e then (y.1, y.2.1, true) else y) }
        (s.flag .rng p.val (0x200 + 4 * ring.val) (bit 30)).countPart p.val 0x0506 1 w)

/-- The pop that comes next: the oldest that waits while there are entries, else the oldest that has not arrived. -/
def nextPop (x : Ring) : Option (RingParty × Bool) :=
  if x.entries = [] then x.pops.find? (fun e => !e.2)
  else match x.pops.find? (fun e => e.2) with
    | some e => some e
    | none => x.pops.find? (fun e => !e.2)

/-- The popped address goes into word PWORD of the next stage's parameter block, in the chain's own copy (R248). -/
def State.popInto (s : State) (r : CmdRef) (addr : Nat) : State :=
  match r.stage, s.chainOf r with
  | some i, some (t, ch) =>
    let pw := bitsOf (stArg (ch.stages.getD i 0).toNat) 2 0
    let par := ch.params.getD (i + 1) []
    let old := (par.getD pw 0).toNat
    s.putChain t { ch with params := ch.params.set (i + 1) (par.set pw (BitVec.ofNat 64 (old / 2 ^ 48 * 2 ^ 48 + addr))) }
  | _, _ => s

/-- The stage after a POP that found nothing is skipped (R247). -/
def State.skipNext (s : State) (r : CmdRef) : State :=
  match r.stage with
  | some i => s.setStage ⟨r.q, r.head, some (i + 1)⟩ .skipped
  | none => s

/-- NOWAIT of a POP stage. -/
def State.noWait (s : State) (r : CmdRef) : Bool :=
  match r.stage, s.chainOf r with
  | some i, some (_, ch) => decide (bitsOf (stArg (ch.stages.getD i 0).toNat) 4 4 = 1)
  | _, _ => false

/-- RING_POP (R247): the next pop is performed at the home, as RING_PUSH. -/
def execRingPop (p : Fin 8) (ring : Fin 64) (s : State) : Result :=
  .next (
    let k := ringKey p.val ring.val
    let x := s.ring k
    match nextPop x with
    | none => s
    | some e =>
      let w := s.partyWho e.1
      let out := s.setRing k { x with pops := x.pops.erase e }
      if s.partHolds p.val e.1.eng then s
      else if ¬ s.ringOn p.val ring.val then out.failParty p.val e.1 (badRing 0x10 ring.val)
      else if s.partyCtx p.val e.1 ≠ s.ringCtx p.val ring.val then out.failParty p.val e.1 badOwner
      else match x.entries with
        | h :: es =>
          let s := s.setRing k { x with pops := x.pops.erase e, entries := es, head := x.head + 1 }
          let s := s.countPart p.val 0x0505 1 w
          let s := s.ledgerPart p.val w 0x0B (e.1.eng * 16) (ring.val + 256) (bitsOf h.1.toNat 47 0)
          (s.popInto e.1.ref (bitsOf h.1.toNat 47 0)).completeRef e.1.ref
        | [] =>
          if s.noWait e.1.ref then (out.skipNext e.1.ref).completeRef e.1.ref
          else s.setRing k { x with pops := x.pops.map (fun y => if y = e then (y.1, true) else y) })

/-- A ring loses its entries and the operations that wait there; one still on its way meets the ring as it then stands
(R247, R250). -/
def State.discardRing (s : State) (p r : Nat) : State :=
  let x := s.ring (ringKey p r)
  (s.setRing (ringKey p r) { x with
    entries := [], head := x.tail, pushes := x.pushes.filter (fun e => !e.2.2), pops := x.pops.filter (fun e => !e.2) }).flag
      .rng p (0x200 + 4 * r) (bit 29)

/-- A ring's ENABLE is committed to 0: entries are discarded, and waiting operations take a ring-state fault (R250). -/
def State.disableRing (s : State) (p r : Nat) : State :=
  let x := s.ring (ringKey p r)
  let s := s.discardRing p r
  ((x.pushes.filter (·.2.2)).map (·.1) ++ (x.pops.filter (·.2)).map (·.1)).foldl (fun s e => s.failParty p e (badRing 0x10 r)) s

/-! ## Barriers (R251–R253) -/

def barKey (p b : Nat) : Nat := p * 16 + b

/-- Tiles of a partition that are not excluded and switched on. -/
def State.onTiles (s : State) (p : Nat) : List Nat :=
  match s.cfgOf p with
  | some c => (List.range 48).filter (fun t => tileIn s.mask c t && s.tileOn t)
  | none => []

def State.barCount (s : State) (p b : Nat) : Nat := s.cfg .rng p (0x400 + 8 * b) 5 0

/-- The device context of a command's queue. -/
def State.refCtx (s : State) (r : CmdRef) : Nat :=
  match s.queOwner r.q with
  | some (p, q) => s.qDevCtx p q
  | none => noCtx

/-- BARRIER record of the home's ledger (R406). -/
def State.ledgerBar (s : State) (p b : Nat) (done : Bool) (w : Who) : State :=
  s.ledgerPart p w 0x0C 0x10 (b + (s.bar (barKey p b)).epoch.toNat * 256 + (if done then 2 ^ 16 else 0)) 0

/-- The generation completes once its arrivals reach EXPECT (R251). -/
def State.barMaybe (s : State) (p b : Nat) (w : Who) : State :=
  let x := s.bar (barKey p b)
  if x.isOpen ∧ x.arrived.length = x.expect then
    let s := s.setBar (barKey p b) { x with
      isOpen := false, arrived := [], opened := [], epoch := x.epoch + 1
      notices := x.notices ++ x.arrived }
    (s.countPart p 0x0508 1 nobody).ledgerBar p b true w
  else s

/-- BARRIER_ARRIVAL (R251): the oldest arrival on its way is counted at the home. -/
def execBarrierArrival (p : Fin 8) (b : Fin 16) (s : State) : Result :=
  .next (
    let k := barKey p.val b.val
    let x := s.bar k
    match x.inbound with
    | [] => s
    | a :: rest =>
      let w := match s.queOwner a.2.q, s.cmdAt a.2 with
        | some (p, q), some c => s.whoOf p q c
        | _, _ => nobody
      let c := s.refCtx a.2
      let cnt := s.barCount p.val b.val
      if ¬ x.isOpen then
        let on := s.onTiles p.val
        (s.setBar k { x with
          inbound := rest, isOpen := true, owner := c, expect := if cnt = 0 then on.length else cnt
          opened := if cnt = 0 then on else List.range 48, arrived := [a] }).barMaybe p.val b.val w
      else if x.owner ≠ c ∨ x.arrived.any (fun y => decide (y.1 = a.1)) ∨ ¬ x.opened.contains a.1 then
        (s.setBar k { x with inbound := rest }).failRef a.2 ⟨0x11, 0, b.val, 2, 0, 0x7F⟩ 4 p.val 0
      else (s.setBar k { x with inbound := rest, arrived := x.arrived ++ [a] }).barMaybe p.val b.val w)

/-- BARRIER_NOTICE (R253): a completion notice reaches tile `t`, whose BARRIER stage completes. -/
def execBarrierNotice (p : Fin 8) (b : Fin 16) (t : Fin 48) (s : State) : Result :=
  .next (
    let k := barKey p.val b.val
    let x := s.bar k
    match x.notices.find? (fun e => decide (e.1 = t.val)) with
    | none => s
    | some e => (s.setBar k { x with notices := x.notices.erase e }).completeRef e.2)

/-- A withdrawal arrives (R252): that of tile `t` and the oldest reset it answers, behind the tile's arrivals. Where the
context owns the open generation its arrival is discounted, and once every tile of the context has answered the
generation is cancelled. -/
def State.barrierWithdraw (s : State) (p b t : Nat) : State :=
    let k := barKey p b
    let x := s.bar k
    match x.cancelling.find? (fun e => decide (e.1 = t)) with
    | none => s
    | some e =>
      if x.inbound.any (fun a => decide (a.1 = t) && decide (s.refCtx a.2 = e.2)) then s
      else
        let x := { x with cancelling := x.cancelling.erase e }
        if ¬ x.isOpen ∨ x.owner ≠ e.2 then s.setBar k x
        else
          let x := { x with arrived := x.arrived.filter (fun a => decide (a.1 ≠ t)) }
          if x.cancelling.any (fun y => decide (y.2 = e.2)) then s.setBar k x
          else
            let s := s.setBar k { x with isOpen := false, arrived := [], opened := [], epoch := x.epoch + 1 }
            (s.countPart p 0x0509 1 nobody).ledgerBar p b false nobody

end Sys2Proof.Machine
end

