-- ==== Sys2Proof/Machine/Links.lean ====
section
/-!
DEFINITION. The Dravsan links (R343–R359, R370, R371, R433): which link reaches which peer, numbering and sending frames
in ordered and in spray mode, the retry path, training, retraining and a peer's change of incarnation.
-/
namespace Sys2Proof.Machine

/-! ## Wiring (R351–R353, R359, R363) -/

/-- The sampled board position; 0 before the sample. -/
def State.boardPos (s : State) : Nat := (s.board.pos.map (·.toNat)).getD 0

/-- The straps are sampled once, when the link groups first come up (R351). -/
def State.samplePos (s : State) : State :=
  if s.board.pos.isSome then s else { s with board := { s.board with pos := some s.straps } }

/-- The far end of a link as CLE_SEND codes it: the position a XOR k of a board link, 8 to 10 for links 21 to 23. -/
def State.peerOf (s : State) (l : Nat) : Nat := if l < 21 then s.boardPos ^^^ (l % 7 + 1) else 8 + (l - 21)

/-- A link may be used: its group is powered, neither is excluded, and LINK_EN has its bit. -/
def State.linkOn (s : State) (l : Nat) : Bool :=
  s.domOn (domLg (l / 4)) && !s.mask.link.testBit l && !s.mask.lgroup.testBit (l / 4)
    && decide (s.cfg .lnk (l / 4) 0x10 (l % 4) (l % 4) = 1)

/-- The groups whose links carry the frames of group `g`: those of its partition (R359). -/
def State.teamOf (s : State) (g : Nat) : List Nat :=
  match s.partOfLg g with
  | some p => (List.range 6).filter (fun h => decide (s.partOfLg h = some p))
  | none => [g]

/-- The UP links from the groups of `g`'s partition to a peer. -/
def State.linksTo (s : State) (g peer : Nat) : List Nat :=
  (List.range 24).filter (fun l =>
    decide ((s.link l).st = .up) && s.linkOn l && decide (s.peerOf l = peer) && (s.teamOf g).any (· = l / 4))

/-- The next link in round robin whose replay buffer has room (R356, R359). -/
def State.nextLink (s : State) (g peer : Nat) : Option Nat :=
  let ls := (s.linksTo g peer).filter (fun l => decide ((s.link l).unacked.length < 256))
  match ls.find? (fun l => decide ((s.lg g).rr ≤ l)) with
  | some l => some l
  | none => ls.head?

/-! ## Frames (R355). A reply's `half` and `sgrp` name the group it is for. -/

/-- The 128-bit header of a frame (R355); reserved bits are zero. -/
def frameHeader (f : Frame) : Nat :=
  f.typ.toNat * 2 ^ 124 + f.src.toNat * 2 ^ 120 + f.sgrp.toNat * 2 ^ 117 + f.lamp.toNat * 2 ^ 116 + f.epoch.toNat * 2 ^ 108
    + f.ngM1.toNat * 2 ^ 105 + f.dpart.toNat * 2 ^ 102 + f.seq.toNat * 2 ^ 64 + f.lseq.toNat * 2 ^ 48 + f.addr.toNat

/-- The frame that a header and payload give; `half` and `spray` are not in the header (notes/assumptions/41.md). -/
def frameOf (h : Nat) (half spray : Bool) (data : List Byte) : Frame :=
  { typ := BitVec.ofNat 4 (bitsOf h 127 124), src := BitVec.ofNat 4 (bitsOf h 123 120), half := half
    sgrp := BitVec.ofNat 3 (bitsOf h 119 117), spray := spray, lamp := decide (bitsOf h 116 116 = 1)
    epoch := BitVec.ofNat 8 (bitsOf h 115 108), ngM1 := BitVec.ofNat 3 (bitsOf h 107 105)
    dpart := BitVec.ofNat 3 (bitsOf h 104 102), seq := BitVec.ofNat 32 (bitsOf h 95 64)
    lseq := BitVec.ofNat 9 (bitsOf h 56 48), addr := BitVec.ofNat 48 (bitsOf h 47 0), data := data }

/-- CRC-64 of R354: the polynomial of ECMA-182, most significant bit first, from all ones, inverted. -/
def crc64 (bs : List Byte) : BitVec 64 :=
  ~~~ (bs.foldl (fun (c : BitVec 64) (b : Byte) =>
    (List.range 8).foldl (fun (c : BitVec 64) _ => if c.getLsbD 63 then (c <<< 1) ^^^ 0x42F0E1EBA9EA3693#64 else c <<< 1)
      (c ^^^ ((b.setWidth 64 : BitVec 64) <<< (56 : Nat)))) (BitVec.allOnes 64))

/-- The 472 data bytes of a frame: the header, a payload of 448 bytes and the CRC (R354). -/
def frameBytes (f : Frame) : List Byte :=
  let x := leBytes 16 (frameHeader f) ++ (f.data ++ List.replicate (448 - f.data.length) 0)
  x ++ leBytes 8 (crc64 x).toNat

/-- The CRC of received data bytes holds. -/
def crcHolds (bs : List Byte) : Bool := decide (bs.drop 464 = leBytes 8 (crc64 (bs.take 464)).toNat)

/-- A frame of group `g`. -/
def State.mkFrame (s : State) (g typ dpart addr : Nat) (data : List Byte) : Frame :=
  { typ := BitVec.ofNat 4 typ, src := BitVec.ofNat 4 s.boardPos, half := decide (3 ≤ g), sgrp := BitVec.ofNat 3 (g % 3)
    spray := false, lamp := false, epoch := 0, ngM1 := BitVec.ofNat 3 ((data.length + 63) / 64 - 1)
    dpart := BitVec.ofNat 3 dpart, seq := 0, lseq := 0, addr := BitVec.ofNat 48 addr, data := data }

/-- The group that a frame names: its source, or for a reply the group it is for. -/
def frameGroup (f : Frame) : Nat := (if f.half then 3 else 0) + f.sgrp.toNat % 3

/-- A performed ack, an inbound reject or a lamp-expiry answer to a frame (R345, R346, R360). -/
def State.answer (s : State) (f : Frame) (typ : Nat) : Frame :=
  { f with typ := BitVec.ofNat 4 typ, src := BitVec.ofNat 4 s.boardPos, ngM1 := 0, data := [] }

/-! ## Sending -/

def State.tx (s : State) (g peer : Nat) : TxDest := SMap.get .reset (s.lg g).tx peer
def State.setTx (s : State) (g peer : Nat) (x : TxDest) : State :=
  let v := s.lg g
  s.setLg g { v with tx := SMap.set .reset v.tx peer x }

/-- What a tally says of the command a frame belongs to. -/
def State.frameWho (s : State) (r : Option CmdRef) : Who :=
  match r with
  | none => nobody
  | some r =>
    match s.queOwner r.q, s.cmdAt r with
    | some (p, q), some c => s.whoOf p q c
    | _, _ => nobody

/-- Put a frame of group `g` on a link: it takes the link's next LSEQ and a place in its replay buffer (R356). -/
def State.transmit (s : State) (g l : Nat) (f : Frame) (r : Option CmdRef) : State :=
  let k := s.link l
  let f := { f with lseq := k.txLseq }
  let s := s.setLink l { k with txLseq := k.txLseq + 1, unacked := k.unacked ++ [(f, r)] }
  let s := (s.setLg g { s.lg g with rr := l + 1 }).emit (.frame l f)
  (s.countLg (l / 4) 0x0301 1 nobody).countLg (l / 4) 0x0302 f.data.length (s.frameWho r)

/-- Whether a change of delivery mode waits in the group's snapshot (R347). -/
def State.modeChanging (s : State) (g : Nat) : Bool :=
  let b := s.blk ⟨.lnk, g⟩
  decide (0 ∈ b.pend) && decide ((snapWord .lnk b 0x10).getLsbD 31 ≠ (commWord .lnk b 0x10).getLsbD 31)

/-- The mode of the traffic a group sources: spray where LNK_CTL.MODE is 1 (R361). -/
def State.sprays (s : State) (g : Nat) : Bool := decide (s.cfg .lnk g 0x10 31 31 = 1)

/-- A lamp closes the current epoch: the source opens the next one (R344). -/
def TxDest.close (x : TxDest) (r : Option CmdRef) (bare : Bool) : TxDest :=
  { x with
    openE := x.openE ++ [(x.epoch, r)]
    unperf := x.unperf ++ [⟨true, x.epoch, BitVec.ofNat 32 x.count, true, bare, r⟩]
    epoch := x.epoch + 1
    count := 0
    queues := [] }

/-- A lamp frame of the current epoch: SEQ carries the count (R344). -/
def TxDest.lampOf (x : TxDest) (f : Frame) : Frame :=
  { f with spray := true, lamp := true, epoch := x.epoch, seq := BitVec.ofNat 32 x.count }

/-- A bare lamp carries the count and no data (R347). -/
def State.bareLamp (s : State) (g : Nat) : Frame := s.mkFrame g 1 0 0 []

/-- Give the front waiting frame its number and send it on link `l`. A spray write waits while a third epoch would
open; a full epoch is closed first (R343, R344). Nothing where it must wait. -/
def State.sendWaiting (s : State) (g peer l : Nat) : Option State :=
  let x := s.tx g peer
  match x.waiting with
  | [] => none
  | (f, r) :: rest =>
    if s.sprays g then
      if x.openE.any (fun e => decide (e.1 = x.epoch - 2)) then none
      else if x.count = 2 ^ 32 - 1 ∧ ¬ f.lamp then
        some (((s.setTx g peer (x.close r true)).flag .lnk g 0x400 (bit 29)).transmit g l (x.lampOf (s.bareLamp g)) r)
      else if f.lamp then
        some ((s.setTx g peer ({ x with waiting := rest }.close r false)).transmit g l (x.lampOf f) r)
      else
        let f := { f with spray := true, epoch := x.epoch, seq := BitVec.ofNat 32 x.count }
        some ((s.setTx g peer { x with
                  waiting := rest
                  count := x.count + 1
                  queues := (x.queues ++ (r.map (·.q)).toList).eraseDups
                  unperf := x.unperf ++ [⟨true, x.epoch, f.seq, false, false, r⟩] }).transmit g l f r)
    else
      let f := { f with spray := false, lamp := false, seq := x.seq }
      some ((s.setTx g peer { x with
                waiting := rest
                seq := x.seq + 1
                unperf := x.unperf ++ [⟨false, 0, x.seq, false, false, r⟩] }).transmit g l f r)

/-- Send one frame of group `g` toward a peer, if one may go. -/
def State.pumpOne (s : State) (g peer : Nat) : Option State :=
  match s.nextLink g peer with
  | none => none
  | some l =>
    let x := s.tx g peer
    match x.again with
    | (f, r) :: rest => some ((s.setTx g peer { x with again := rest }).transmit g l f r)
    | [] => if s.modeChanging g then none else s.sendWaiting g peer l

def State.pumpN (s : State) (g peer : Nat) : Nat → State
  | 0 => s
  | n + 1 =>
    match s.pumpOne g peer with
    | some s => s.pumpN g peer n
    | none => s

/-- Whether the front frame waits to open a third epoch: HELD_ISSUE (R344). -/
def State.heldIssue (s : State) (g peer : Nat) : Bool :=
  let x := s.tx g peer
  s.sprays g && decide (x.waiting ≠ []) && x.openE.any (fun e => decide (e.1 = x.epoch - 2))

/-- Send whatever may go toward a peer. -/
def State.pump (s : State) (g peer : Nat) : State :=
  let x := s.tx g peer
  let s := s.pumpN g peer (x.again.length + 2 * x.waiting.length)
  if s.heldIssue g peer then s.flag .lnk g 0x400 (bit 30) else s

/-- Send whatever may go from a group to every peer. -/
def State.pumpAll (s : State) (g : Nat) : State := ((s.lg g).tx.map (·.1)).foldl (fun s j => s.pump g j) s

/-- Link `l` has room or has come up: every group that may use it sends on. -/
def State.kick (s : State) (l : Nat) : State :=
  (s.teamOf (l / 4)).foldl (fun s g => s.pump g (s.peerOf l)) s

/-- Close the current epoch toward a peer with a bare lamp, if it holds writes (R347). -/
def State.closeEpoch (s : State) (g peer : Nat) (r : Option CmdRef) : State :=
  let x := s.tx g peer
  if s.sprays g ∧ x.count ≠ 0 then
    let y := x.close r true
    (s.setTx g peer { y with again := y.again ++ [(x.lampOf (s.bareLamp g), r)] }).pump g peer
  else s

/-- Send a frame that needs no number from group `g` to a peer. -/
def State.sendPlain (s : State) (g peer : Nat) (f : Frame) : State :=
  let x := s.tx g peer
  (s.setTx g peer { x with again := x.again ++ [(f, none)] }).pump g peer

/-- Send writes, releases and lamps of a command. -/
def State.sendWrites (s : State) (g peer : Nat) (r : CmdRef) (fs : List Frame) : State :=
  let x := s.tx g peer
  (s.setTx g peer { x with waiting := x.waiting ++ fs.map (fun f => (f, some r)) }).pump g peer

/-- The write frames that carry `data` to consecutive addresses: up to 7 granules each (R354). -/
def State.writeFrames (s : State) (g dpart addr : Nat) (data : List Byte) : List Frame :=
  (List.range ((data.length + 447) / 448)).map (fun i =>
    s.mkFrame g 1 dpart (addr + 448 * i) ((data.drop (448 * i)).take 448))

/-! ## The collective engine's work, where the links end it -/

/-- Take a send or collective off its group: its waiting frames and its timer go with it. -/
def State.dropCle (s : State) (g : Nat) (r : CmdRef) : State :=
  let e := s.cle g
  let s := s.setCle g { e with
    sends := e.sends.filter (fun o => decide (o.ref ≠ r))
    coll := e.coll.filter (fun o => decide (o.ref ≠ r)) }
  let v := s.lg g
  let s := s.setLg g { v with
    tx := (v.tx.map (fun t => (t.1, { t.2 with waiting := t.2.waiting.filter (fun w => decide (w.2 ≠ some r)) }))).filter
            (fun t => decide (t.2 ≠ .reset)) }
  s.stopTimer (.coll g r.q r.head.toNat)

/-- A command of the collective engine fails (R346, R360, R366, R368). -/
def State.failCle (s : State) (g : Nat) (r : CmdRef) (b : Bad) : State := (s.dropCle g r).failRef r b 2 g 0

/-- A link-delivery fault (R419): its cause, and the peer in DETAIL. -/
def badLink (cause peer : Nat) : Bad := ⟨0x12, cause, peer, 2, 0, 0x7F⟩

/-! ## Losing a link (R357, R370) -/

/-- A link leaves UP: its unacknowledged frames are replayed on the other UP links to the same device. -/
def State.moveFrames (s : State) (l : Nat) (st : LinkSt) : State :=
  let k := s.link l
  let n := k.unacked.length
  let s := s.setLink l { k with
    st := st, unacked := [], txLseq := 0, rxLseq := 0, naked := false, replays := 0
    replay := satAdd32 k.replay n }
  let g := l / 4
  let x := s.tx g (s.peerOf l)
  let s := s.setTx g (s.peerOf l) { x with again := k.unacked ++ x.again }
  ((s.countLg g 0x0303 n nobody).pump g (s.peerOf l))

/-- A link goes to RETRAIN (R357). -/
def State.retrain (s : State) (l : Nat) : State :=
  let s := s.moveFrames l .retrain
  (s.setLink l { s.link l with retrains := (s.link l).retrains + 1 }).countLg (l / 4) 0x0308 1 nobody

/-- RECEIVER_LOSES_LOCK (R357). -/
def execReceiverLosesLock (l : Fin 24) (s : State) : Result :=
  .next (if (s.link l.val).st = .up then s.retrain l.val else s)

/-- LNK_CMD of a group, for the link LINK within it (R370). -/
def State.lnkCmd (s : State) (m : Master) (g : Nat) (f : State) : State := if s.reaches m ⟨.lnk, g⟩ then f else s

/-- LNK_RETRAIN (R357, R370): the link trains again; a FAILED link leaves that state. -/
def execLnkRetrain (m : Master) (g : Fin 6) (link : BitVec 2) (s : State) : Result :=
  let l := 4 * g.val + link.toNat
  .next (s.lnkCmd m g.val (
    if ¬ s.linkOn l then s
    else
      let s := s.setLink l { s.link l with fails := 0 }
      ((s.stopTimer (.trainWindow l 0)).stopTimer (.trainWindow l 1)).retrain l))

/-- LNK_CLEAR (R370): the four counters of the link. -/
def execLnkClear (m : Master) (g : Fin 6) (link : BitVec 2) (s : State) : Result :=
  let l := 4 * g.val + link.toNat
  .next (s.lnkCmd m g.val (s.setLink l { s.link l with ce := 0, ue := 0, crc := 0, replay := 0 }))

/-! ## Training (R350, R353, R357, R433) -/

/-- Forget what one peer has sent: sequence numbers, epochs and held lamps of its sources. -/
def State.forgetPeer (s : State) (peer : Nat) : State :=
  let s := { s with board := { s.board with rx := s.board.rx.filter (fun e => decide (e.1 / 8 ≠ peer)) } }
  (List.range 6).foldl (fun s g =>
    let v := s.lg g
    let gone := v.lamps.filter (fun h => decide (h.src / 8 = peer))
    let s := s.setLg g { v with lamps := v.lamps.filter (fun h => decide (h.src / 8 ≠ peer)) }
    gone.foldl (fun s h => s.stopTimer (.lamp g h.src h.frame.epoch.toNat)) s) s

/-- A peer came back with another incarnation (R433): frames that wait for it are discarded with PEER_RESET faults of
their commands, sequence numbers start again, and every epoch toward it is closed without a lamp; DESIGN CHOICE (log 96): epochs
start again at 0 on both ends. -/
def State.peerReset (s : State) (peer : Nat) : State :=
  let links := (List.range 24).filter (fun l => decide (s.peerOf l = peer))
  let frames := links.flatMap (fun l => (s.link l).unacked)
    ++ (List.range 6).flatMap (fun g => (s.tx g peer).again ++ (s.tx g peer).waiting)
  let refs := (frames.filterMap (fun e => e.2.map (fun r => (frameGroup e.1, r)))).eraseDups
  let s := links.foldl (fun s l => if (s.link l).unacked ≠ [] then s.setLink l { s.link l with unacked := [] } else s) s
  let s := (List.range 6).foldl (fun s g => s.setTx g peer .reset) s
  let s := refs.foldl (fun s x => s.failCle x.1 x.2 (badLink 4 peer)) s
  s.forgetPeer peer

/-- This device's own incarnation differs from the one last told to a peer: both ends start their sequences and epochs
again. -/
def State.ownReset (s : State) (peer : Nat) : State :=
  ((List.range 6).foldl (fun s g => s.setTx g peer { s.tx g peer with seq := 0, epoch := 0, count := 0, openE := [], queues := [] }) s).forgetPeer
    peer

/-- What the two ends tell each other of their incarnations (R433). -/
def State.exchangeInc (s : State) (peer : Nat) (inc : BitVec 16) : State :=
  let changed := s.board.peerInc.any (fun e => decide (e.1 = peer) && decide (e.2 ≠ inc))
  let back := s.board.told.any (fun e => decide (e.1 = peer) && decide (e.2 ≠ s.board.inc))
  let s := { s with board := { s.board with
    peerInc := SMap.insert s.board.peerInc peer inc
    told := SMap.insert s.board.told peer s.board.inc } }
  let s := if changed then s.peerReset peer else s
  if back then s.ownReset peer else s

/-- A failed training attempt less than 1 s ago holds this timer of the link. -/
def State.failedLately (s : State) (l slot : Nat) : Bool := s.timerRuns (.trainWindow l slot) && !(s.expired (.trainWindow l slot))

/-- A failed training attempt of a link in RETRAIN: the third within 1 s fails the link (R357). The latest two attempts hold the
link's two timers in turn. -/
def State.trainFails (s : State) (l : Nat) : State :=
  let k := s.link l
  if s.failedLately l 0 ∧ s.failedLately l 1 then
    ((s.setLink l { k with st := .failed, fails := 0 }).stopTimer (.trainWindow l 0)).stopTimer (.trainWindow l 1)
  else
    (s.setLink l { k with fails := k.fails + 1 }).startTimer (.trainWindow l (k.fails % 2)) (.link (l / 4)) 1000000000

/-- A training attempt of a link ends (R353): not due for a link that is up, failed or not in use. -/
def State.linkTrained (s : State) (l : Nat) (far : FarEnd) : State :=
    let k := s.link l
    if ¬ s.linkOn l ∨ k.st = .up ∨ k.st = .failed then s
    else
      let s := s.samplePos
      match far with
      | .none => if k.st = .retrain then s.trainFails l else s.setLink l { k with st := .down }
      | .device pos link inc rev pol =>
        if l < 21 ∧ (link.val ≠ l ∨ pos.val ≠ s.peerOf l) then
          (s.setLink l { k with
            st := .failed, reversed := rev, polInv := pol, peerPos := BitVec.ofNat 4 pos.val
            peerLink := BitVec.ofNat 5 link.val }).flag .lnk (l / 4) 0x14 (bit 3)
        else
          let s := s.setLink l { k with
            st := .up, reversed := rev, polInv := pol, peerPos := BitVec.ofNat 4 pos.val
            peerLink := BitVec.ofNat 5 link.val, txLseq := 0, rxLseq := 0, naked := false, replays := 0 }
          (s.exchangeInc (s.peerOf l) inc).kick l

/-! ## Epoch counters (R344) -/

/-- The number of a frame's source: its device and its group. On off-board links the link names the sender (R355). -/
def State.srcKey (s : State) (l : Nat) (f : Frame) : Nat :=
  (if l < 21 then f.src.toNat % 8 else s.peerOf l) * 8 + (frameGroup f)

def State.rx (s : State) (k : Nat) : RxSrc := SMap.get .reset s.board.rx k

/-- Epoch counters in use at this device (R344). -/
def State.countersUsed (s : State) : Nat := (s.board.rx.map (fun e => e.2.counts.length)).sum

/-- Writes of epoch `e` performed so far; none where no counter holds it. -/
def RxSrc.countOf (x : RxSrc) (e : Byte) : Option Nat := (x.counts.find? (fun c => decide (c.1 = e))).map (·.2)

/-- Whether an epoch of a source can be counted: it has a counter, or one of the 128 is free (R344). -/
def State.mayCount (s : State) (x : RxSrc) (e : Byte) : Bool := (x.countOf e).isSome || decide (s.countersUsed < 128)

/-- The epochs, with their sources, that hold a counter or will need one for a frame accepted and not yet taken. -/
def State.sprayEpochs (s : State) : List (Nat × Byte) :=
  (s.board.rx.flatMap (fun e => e.2.counts.map (fun c => (e.1, c.1)))
    ++ s.links.flatMap (fun e => (e.2.rxq.filter (fun f => f.spray)).map (fun f => (s.srcKey e.1 f, f.epoch)))).eraseDups

/-- A link accepts a frame unless it is a spray frame for which no epoch counter is left (R344). -/
def State.accepts (s : State) (l : Nat) (f : Frame) : Bool :=
  !f.spray || (s.rx (s.srcKey l f)).closed.any (· = f.epoch) || s.sprayEpochs.contains (s.srcKey l f, f.epoch)
    || decide (s.sprayEpochs.length < 128)

/-! ## The retry path (R356) -/

/-- A frame that cannot be used is discarded; it is answered with a nak of the LSEQ awaited, unless it is a later frame of those
that the receiver already discards. The awaited frame that fails again as it is replayed is answered again. -/
def State.discardFrame (s : State) (l : Nat) (f : Frame) : State :=
  let k := s.link l
  if k.naked ∧ f.lseq ≠ k.rxLseq then s else (s.setLink l { k with naked := true }).emit (.linkCtl l true k.rxLseq)

/-- LINK_FRAME_RECEIVE (R356): FEC and CRC; a good frame with the LSEQ awaited is accepted and acknowledged, and the row
of its type takes it from there. Idle frames, acks and naks carry no place in the sequence. With every epoch counter in use,
a spray frame of a new source is not accepted: it stays at its source (R344). -/
def execLinkFrameReceive (l : Fin 24) (f : Frame) (chk : FrameCheck) (s : State) : Result :=
  .next (
    let k := s.link l.val
    if k.st ≠ .up then s
    else match chk with
      | .fecFailed =>
        ((s.setLink l.val { k with ue := satAdd32 k.ue 1 }).countLg (l.val / 4) 0x0304 1 nobody).discardFrame l.val f
      | .crcFailed n =>
        (s.setLink l.val { k with ce := satAdd32 k.ce n, crc := satAdd32 k.crc 1 }).discardFrame l.val f
      | .good n =>
        let k := { k with ce := satAdd32 k.ce n }
        if f.typ = 0 ∨ f.typ = 3 ∨ f.typ = 4 then s.setLink l.val k
        else if f.lseq ≠ k.rxLseq ∨ ¬ s.accepts l.val f then s.setLink l.val k
        else
          (s.setLink l.val { k with
              rxLseq := k.rxLseq + 1
              naked := false
              rxq := if f.typ.toNat ≤ 9 then k.rxq ++ [f] else k.rxq }).emit (.linkCtl l.val false f.lseq))

/-- The frames of a replay buffer from the one with this LSEQ on. -/
def fromLseq (q : List (Frame × Option CmdRef)) (lseq : BitVec 9) : List (Frame × Option CmdRef) :=
  q.drop (q.findIdx (fun e => decide (e.1.lseq = lseq)))

/-- LINK_ACK (R356): frames up to the acknowledged one leave the replay buffer. -/
def execLinkAck (l : Fin 24) (lseq : BitVec 9) (s : State) : Result :=
  .next (
    let k := s.link l.val
    if fromLseq k.unacked lseq = [] then s
    else (s.setLink l.val { k with unacked := (fromLseq k.unacked lseq).drop 1, replays := 0 }).kick l.val)

/-- LINK_NAK (R356, R357): the sender replays from the named frame; the eighth replay in a row retrains the link. -/
def execLinkNak (l : Fin 24) (lseq : BitVec 9) (s : State) : Result :=
  .next (
    let k := s.link l.val
    let fs := fromLseq k.unacked lseq
    if fs = [] ∨ k.st ≠ .up then s
    else
      let s := s.setLink l.val { k with replay := satAdd32 k.replay fs.length, replays := k.replays + 1 }
      let s := (fs.foldl (fun s e => s.emit (.frame l.val e.1)) s).countLg (l.val / 4) 0x0303 fs.length nobody
      if 8 ≤ k.replays + 1 then s.retrain l.val else s)

/-- Take a frame that the link layer has accepted; none where it has not. -/
def State.takeFrame (s : State) (l : Nat) (f : Frame) : Option State :=
  let k := s.link l
  if k.rxq.any (fun x => decide (x = f)) then some (s.setLink l { k with rxq := k.rxq.erase f }) else none

end Sys2Proof.Machine
end

