-- ==== Sys2Proof/Machine/Collectives.lean ====
section
/-!
DEFINITION. The collective engine (R359, R360, R362–R368) and the writes that arrive over the links (R343–R346, R360):
the checks of its commands, sends, the three collectives, inbound writes in ordered and spray mode, lamps, and the
answers that come back.
-/
namespace Sys2Proof.Machine

/-! ## Command bodies (R363, R364) -/

def clSrc (c : Cmd) : Nat := bitsOf (c.word 6) 47 0
def clDst (c : Cmd) : Nat := bitsOf (c.word 7) 47 0
def clPeer (c : Cmd) : Nat := bitsOf (c.word 6) 63 60
def clSendPart (c : Cmd) : Nat := bitsOf (c.word 6) 59 57
def clRrel (c : Cmd) : Bool := decide (bitsOf (c.word 8) 63 63 = 1)
def clLamp (c : Cmd) : Bool := decide (bitsOf (c.word 8) 62 62 = 1)
def clLen (c : Cmd) : Nat := bitsOf (c.word 8) 31 0
def clRmark (c : Cmd) : Nat := bitsOf (c.word 9) 47 0
def clRvalue (c : Cmd) : Nat := bitsOf (c.word 10) 44 0
def clMembers (c : Cmd) : List Nat := (List.range 8).filter (fun i => (bitsOf (c.word 6) 63 56).testBit i)
def clOp (c : Cmd) : Nat := bitsOf (c.word 6) 55 53
def clFmt (c : Cmd) : Nat := bitsOf (c.word 6) 52 48
def clCollId (c : Cmd) : Nat := bitsOf (c.word 7) 63 48
def clPart (c : Cmd) : Nat := bitsOf (c.word 8) 50 48
def clStage (c : Cmd) : Nat := bitsOf (c.word 8) 47 0
def clN (c : Cmd) : Nat := bitsOf (c.word 9) 31 0 + 1
def clGather (c : Cmd) : Bool := decide (c.opcode = 0x04)
def clIsSend (c : Cmd) : Bool := decide (c.opcode = 0x01)

/-- TMO_US of the command: 0 means 10 s. -/
def clTmo (c : Cmd) : Nat :=
  let v := if clIsSend c then bitsOf (c.word 11) 23 0 else bitsOf (c.word 9) 63 40
  if v = 0 then 10000000 else v

/-- The number of members, and the bytes of an element and of a slice (R364). -/
def clM (c : Cmd) : Nat := (clMembers c).length
def clElem (c : Cmd) : Nat := fmtBits (clFmt c) / 8
def clSlice (c : Cmd) : Nat := clN c / clM c * clElem c

/-- The rank of a position among some members. -/
def rankOf (ms : List Nat) (a : Nat) : Nat := (ms.filter (· < a)).length

/-- Where member `j`'s contribution lies in member `i`'s STAGE: the rank of `j` among the members other than `i`. -/
def stageSlot (ms : List Nat) (i j : Nat) : Nat := rankOf (ms.filter (· ≠ i)) j

/-! ## Checks (R365) -/

/-- The lowest-numbered link group of a partition, whose CLE_IN_CTX names the inbound context (R360). -/
def State.inGroup (s : State) (p : Nat) : Option Nat :=
  (s.cfgOf p).bind (fun c => (List.range 6).find? (lgIn s.mask c))

/-- TARGET is a non-excluded link group of the partition; a switched-off one answers unit-off (R24). -/
def State.cleChecks (s : State) (p : Nat) (c : Cmd) : List (Bool × Bad) :=
  let inP := ((s.cfgOf p).map (fun g => lgIn s.mask g c.target)).getD false && decide (c.target < 6)
  [(decide (c.ext ≠ 1), badWord 0), (!inP, badWord 0),
   (inP && !(s.domOn (domLg c.target)), ⟨0x04, 0, 0, 2, 0, 0x7F⟩)]

def chkSend (s : State) (p : Nat) (c : Cmd) : Except Bad Plan :=
  checked
    (s.cleChecks p c ++
     [(decide (bitsOf (c.word 6) 56 48 ≠ 0) || decide (clSrc c % 64 ≠ 0) || decide (10 < clPeer c)
        || decide (clPeer c = s.boardPos), badWord 6),
      (decide (bitsOf (c.word 7) 63 48 ≠ 0) || decide (clDst c % 64 ≠ 0), badWord 7),
      (decide (bitsOf (c.word 8) 61 32 ≠ 0) || decide (clLen c = 0) || decide (clLen c % 64 ≠ 0), badWord 8),
      (decide (bitsOf (c.word 9) 63 48 ≠ 0) || decide (clRmark c % 8 ≠ 0), badWord 9),
      (decide (bitsOf (c.word 10) 63 45 ≠ 0), badWord 10),
      (decide (bitsOf (c.word 11) 63 24 ≠ 0) || decide (10000000 < bitsOf (c.word 11) 23 0), badWord 11)] ++ extZero c 4 7)
    ⟨[⟨clSrc c, clLen c, false, inWord 6, none⟩], [(clSrc c, clLen c)], []⟩

/-- The buffers of a collective on this member: SRC, DST and STAGE with their lengths (R364). -/
def clBuffers (c : Cmd) : (Nat × Nat) × (Nat × Nat) × (Nat × Nat) :=
  let all := clN c * clElem c
  let sl := clSlice c
  match c.opcode with
  | 0x02 => ((clSrc c, all), (clDst c, all), (clStage c, (clM c - 1) * sl))
  | 0x03 => ((clSrc c, all), (clDst c, sl), (clStage c, (clM c - 1) * sl))
  | _ => ((clSrc c, sl), (clDst c, all), (clStage c, 0))

def chkColl (s : State) (p dq : Nat) (c : Cmd) : Except Bad Plan :=
  let b := clBuffers c
  let inCtx := (s.inGroup p).map (fun h => s.cfg .cle h 0x10 7 0)
  checked
    (s.cleChecks p c ++
     [(decide (inCtx ≠ some (s.qCtx p (dq % 2048))), badWord 0),
      (!((clMembers c).any (· = s.boardPos)) || decide (clM c < 2) || (!(clGather c) && decide (2 < clOp c))
        || decide (2 < clFmt c) || !(s.fmtOn p (clFmt c)) || decide (clSrc c % 64 ≠ 0), badWord 6),
      (decide (clDst c % 64 ≠ 0), badWord 7),
      (decide (bitsOf (c.word 8) 63 51 ≠ 0) || decide (clStage c % 64 ≠ 0), badWord 8),
      (decide (bitsOf (c.word 9) 39 32 ≠ 0) || decide (10000000 < bitsOf (c.word 9) 63 40)
        || decide (clN c % clM c ≠ 0) || decide (clSlice c % 64 ≠ 0), badWord 9)] ++ extZero c 2 7)
    ⟨[⟨b.1.1, b.1.2, false, inWord 6, none⟩, ⟨b.2.2.1, b.2.2.2, false, inWord 8, none⟩,
      ⟨b.2.1.1, b.2.1.2, true, inWord 7, none⟩, ⟨b.2.2.1, b.2.2.2, true, inWord 8, none⟩],
     [b.1, b.2.2], [b.2.1, b.2.2]⟩

/-- The check of a command of the collective engine (R365). -/
def chkCle (s : State) (p dq : Nat) (c : Cmd) : Except Bad Plan :=
  match c.opcode with
  | 0x01 => chkSend s p c
  | 0x02 => chkColl s p dq c
  | 0x03 => chkColl s p dq c
  | 0x04 => chkColl s p dq c
  | _ => .error (badWord 0)

/-- Up to 32 sends run beside one collective (R362). -/
def State.cleMay (s : State) (c : Cmd) : Bool :=
  if clIsSend c then decide ((s.cle c.target).sends.length < 32) else decide ((s.cle c.target).coll = none)

/-- A command of the collective engine begins: its timeout runs (R363, R368). -/
def State.enterCle (s : State) (r : CmdRef) (c : Cmd) : State :=
  let g := c.target
  let e := s.cle g
  let s :=
    if clIsSend c then s.setCle g { e with sends := e.sends ++ [⟨r, false, clPeer c, 0, 0⟩] }
    else s.setCle g { e with coll := some ⟨r, false, [], [], [], [], false, [], 0, 0, []⟩ }
  s.startTimer (.coll g r.q r.head.toNat) (.link g) (clTmo c * 1000)

/-! ## Sends (R363) -/

/-- A remote release: mark := max(mark, value) at `addr` in the peer's inbound context. -/
def State.relFrame (s : State) (g dpart addr value : Nat) (lamp : Bool) : Frame :=
  { s.mkFrame g 2 dpart addr (leBytes 8 value) with lamp := lamp }

/-- The watchdog of a group's engine (R423). -/
def State.cleProgress (s : State) (g : Nat) : State :=
  s.progress .cle g (decide ((s.cle g).sends ≠ []) || (s.cle g).coll.isSome)

/-- A send whose every write and release is acknowledged as performed completes. -/
def State.sendMaybeDone (s : State) (g : Nat) (r : CmdRef) : State :=
  match (s.cle g).sends.find? (fun o => decide (o.ref = r)) with
  | some o => if o.started ∧ o.acked = o.total then ((s.dropCle g r).completeRef r).cleProgress g else s
  | none => s

/-- CLE_SEND (R363): the range is read and sent, then the release, as the lamp of the epoch where LAMP asks for it. -/
def execCleSend (g : Fin 6) (s : State) : Result :=
  .next (
    let e := s.cle g.val
    match e.sends.find? (fun o => !o.started) with
    | none => s
    | some o =>
      match s.cmdAt o.ref, s.queOwner o.ref.q with
      | some c, some (p, _) =>
        if s.cleHeld g.val then s
        else match s.heldStops p c.held (clSrc c) (clLen c) with
        | some b => s.failCle g.val o.ref b
        | none =>
          let data := s.heldRead p c.held (clSrc c) (clLen c)
          let fs := s.writeFrames g.val (clSendPart c) (clDst c) data ++
            (if clRrel c then [s.relFrame g.val (clSendPart c) (clRmark c) (clRvalue c) (clLamp c)] else [])
          let s := s.setCle g.val { e with sends := e.sends.map (fun x =>
            if x.ref = o.ref then { x with started := true, total := fs.length } else x) }
          ((s.bump.cleProgress g.val).sendWrites g.val (clPeer c) o.ref fs)
      | _, _ => s)

/-! ## Collectives (R366, R367) -/

/-- The collective that runs on a group and has started: its operation, command and partition. -/
def State.collOp (s : State) (g : Nat) : Option (CollOp × Cmd × Nat) :=
  match (s.cle g).coll with
  | some o =>
    if ¬ o.started then none
    else match s.cmdAt o.ref, s.queOwner o.ref.q with
      | some c, some (p, _) => some (o, c, p)
      | _, _ => none
  | none => none

def State.setColl (s : State) (g : Nat) (o : CollOp) : State := s.setCle g { s.cle g with coll := some o }

/-- The fields that a READY's digest covers (R366). -/
def collDigest (c : Cmd) : W32 :=
  Config.readyDigest [c.opcode, bitsOf (c.word 6) 63 56, clOp c, clFmt c, clN c, clPart c, clDst c, clStage c]

/-- A READY and an ABORT carry COLL_ID; a READY its digest too. -/
def State.readyFrame (s : State) (g : Nat) (c : Cmd) : Frame :=
  s.mkFrame g 6 (clPart c) 0 (leBytes 2 (clCollId c) ++ leBytes 4 (collDigest c).toNat)
def State.abortFrame (s : State) (g part id : Nat) : Frame := s.mkFrame g 7 part 0 (leBytes 2 id)
def frameColl (f : Frame) : Nat := leNat (f.data.take 2)
def frameDigest (f : Frame) : Nat := leNat ((f.data.drop 2).take 4)

/-- The release frame that ends a contribution (phase 0) or a result (phase 1): it counts at the receiver. In spray
mode it is the lamp of the epoch. -/
def State.countFrame (s : State) (g : Nat) (c : Cmd) (phase : Nat) : Frame :=
  { s.mkFrame g 2 (clPart c) 0 (leBytes 8 0 ++ leBytes 2 (clCollId c) ++ leBytes 6 phase) with lamp := true }

/-- A collective completes when its writes are acknowledged and what it expects has arrived (R366). -/
def State.collMaybeDone (s : State) (g : Nat) : State :=
  match s.collOp g with
  | none => s
  | some (o, c, p) =>
    let others := clM c - 1
    let done := decide (o.acked = o.total) && decide (o.contribTo.length = others) && decide (o.contribOf.length = others)
      && (clGather c || o.reduced)
      && (decide (c.opcode ≠ 0x02) || (decide (o.resultOf.length = others) && decide (o.resultTo.length = others)))
    if done then
      let w := match s.queOwner o.ref.q with
        | some (_, q) => s.whoOf p q c
        | none => nobody
      (((s.dropCle g o.ref).completeRef o.ref).cleProgress g).countLg g 0x0307 1 w
    else s

/-- Send slices of a collective to member `j`: the writes, then the frame that counts them. -/
def State.sendSlice (s : State) (g : Nat) (o : CollOp) (c : Cmd) (j addr phase : Nat) (data : List Byte) : State :=
  let fs := s.writeFrames g (clPart c) addr data ++ [s.countFrame g c phase]
  let o := { o with
    total := o.total + fs.length, contribTo := if phase = 0 then o.contribTo ++ [j] else o.contribTo
    resultTo := if phase = 0 then o.resultTo else o.resultTo ++ [j] }
  (s.setColl g o).sendWrites g j o.ref fs

/-- The contribution to member `j`, once its READY is in (R366, step 3). -/
def State.contribute (s : State) (g j : Nat) : State :=
  match s.collOp g with
  | none => s
  | some (o, c, p) =>
    let me := s.boardPos
    let ms := clMembers c
    if ¬ ms.any (· = j) ∨ j = me ∨ ¬ o.readyGot.any (· = j) ∨ o.contribTo.any (· = j) then s
    else
      let sl := clSlice c
      let src := if clGather c then clSrc c else clSrc c + rankOf ms j * sl
      let dst := if clGather c then clDst c + rankOf ms me * sl else clStage c + stageSlot ms j me * sl
      match s.heldStops p c.held src sl with
      | some b => s.failCle g o.ref b
      | none => (s.sendSlice g o c j dst 0 (s.heldRead p c.held src sl)).bump.collMaybeDone g

/-- The reduced slice to member `j` of a CLE_ALLREDUCE, once it is reduced and `j`'s READY is in (R366, steps 3 and 5). -/
def State.sendResult (s : State) (g j : Nat) : State :=
  match s.collOp g with
  | none => s
  | some (o, c, p) =>
    let me := s.boardPos
    let ms := clMembers c
    if c.opcode ≠ 0x02 ∨ ¬ o.reduced ∨ j = me ∨ ¬ ms.any (· = j) ∨ ¬ o.readyGot.any (· = j) ∨ o.resultTo.any (· = j) then s
    else
      let dst := clDst c + rankOf ms me * clSlice c
      match s.heldStops p c.held dst (clSlice c) with
      | some b => s.failCle g o.ref b
      | none => (s.sendSlice g o c j dst 1 (s.heldRead p c.held dst (clSlice c))).bump.collMaybeDone g

/-- A READY of `peer` meets the collective that runs (R366): the digests must agree. -/
def State.meetReady (s : State) (g peer : Nat) (digest : W32) : State :=
  match s.collOp g with
  | none => s
  | some (o, c, _) =>
    if collDigest c ≠ digest then
      let s := (s.failCle g o.ref ⟨0x13, 0, clCollId c, 2, 0, 0x7F⟩).flag .cle g 0x18 (bit 30 ||| bit 29)
      (s.sendPlain g peer (s.abortFrame g (clPart c) (clCollId c))).cleProgress g
    else
      ((s.setColl g { o with readyGot := if o.readyGot.any (· = peer) then o.readyGot else o.readyGot ++ [peer] }).contribute g peer).sendResult g peer

/-- A collective that has begun starts: READY goes to every other member, its own slice of a gather to its place, and
READYs that came early are met (R366). -/
def State.startColl (s : State) (g opcode : Nat) : State :=
  match (s.cle g).coll with
  | none => s
  | some o =>
    match s.cmdAt o.ref, s.queOwner o.ref.q with
    | some c, some (p, _) =>
      let me := s.boardPos
      let others := (clMembers c).filter (· ≠ me)
      let sl := clSlice c
      let own := clDst c + rankOf (clMembers c) me * sl
      if o.started ∨ c.opcode ≠ opcode ∨ s.cleHeld g then s
      else match (if clGather c then (s.heldStops p c.held (clSrc c) sl).or (s.heldBad p c.held own sl) else none) with
      | some b => s.failCle g o.ref b
      | none =>
        let s := s.setColl g { o with started := true, readySent := others }
        let s := if clGather c then
            s.heldWrite p c.held own (s.heldRead p c.held (clSrc c) sl) else s
        let s := others.foldl (fun s j =>
          (s.startTimer (.readyAgain g j) (.link g) 10000).sendPlain g j (s.readyFrame g c)) s.bump
        let mine := (s.cle g).early.filter (fun x => decide (x.2.1.toNat = clCollId c))
        let s := s.setCle g { s.cle g with early := (s.cle g).early.filter (fun x => decide (x.2.1.toNat ≠ clCollId c)) }
        (mine.foldl (fun s x => s.meetReady g x.1 x.2.2) s).cleProgress g
    | _, _ => s

/-- CLE_ALLREDUCE (R366). -/
def execCleAllreduce (g : Fin 6) (s : State) : Result := .next (s.startColl g.val 0x02)
/-- CLE_REDUCESCATTER (R366). -/
def execCleReducescatter (g : Fin 6) (s : State) : Result := .next (s.startColl g.val 0x03)
/-- CLE_ALLGATHER (R366). -/
def execCleAllgather (g : Fin 6) (s : State) : Result := .next (s.startColl g.val 0x04)

/-- READY_RECEIVE (R366): met by the collective with its COLL_ID, or kept in the table of 64; a full table refuses it. A
collective engine whose record a lossless ledger holds does not take it yet (R409). -/
def execReadyReceive (l : Fin 24) (f : Frame) (s0 : State) : Result :=
  .next (
    match (if f.typ = 6 then s0.takeFrame l.val f else none) with
    | none => s0
    | some s =>
      let g := (frameGroup f)
      let peer := s.peerOf l.val
      let id := frameColl f
      let running := match s.collOp g with
        | some (_, c, _) => decide (clCollId c = id)
        | none => false
      if running then (if s.cleHeld g then s0 else s.meetReady g peer (BitVec.ofNat 32 (frameDigest f)))
      else
        let e := s.cle g
        if 64 ≤ e.early.length ∨ e.early.any (fun x => decide (x.1 = peer) && decide (x.2.1.toNat = id)) then s
        else s.setCle g { e with early := e.early ++ [(peer, BitVec.ofNat 16 id, BitVec.ofNat 32 (frameDigest f))] })

/-- READY_RESEND (R366): a READY that the peer's full table refused is sent again after 10 µs. DEDUCED (log 42): no frame
tells of the refusal; a member that has contributed has met the READY. -/
def execReadyResend (g : Fin 6) (peer : Fin 8) (s : State) : Result :=
  .next (
    match s.collOp g.val with
    | none => s
    | some (o, c, _) =>
      if o.readySent.any (· = peer.val) ∧ ¬ o.contribOf.any (· = peer.val) ∧ s.expired (.readyAgain g.val peer.val) then
        (s.startTimer (.readyAgain g.val peer.val) (.link g.val) 10000).sendPlain g.val peer.val (s.readyFrame g.val c)
      else s)

/-- One step of a reduction (R367): FP32, rounded to nearest, every NaN canonical. -/
def reduceStep (op : Nat) (a b : Num) : Num :=
  let x : Num := match op with
    | 0 => Num.add false false a b
    | 1 => if a.isNaN ∨ b.isNaN then nanCanon else maxNum a b
    | _ => if a.isNaN ∨ b.isNaN then nanCanon else minNum a b
  fp32Num (BitVec.ofNat 32 (fFP32.encode .near true x))

/-- Reduce one element over the members in ascending position, into FMT. -/
def reduceElem (op fmt : Nat) (xs : List Nat) : Nat :=
  let vs := xs.map (fun x => elemNum fmt 0 x)
  match vs with
  | [] => 0
  | v :: rest => ((fmtForm fmt).getD fFP32).encode .near true (rest.foldl (reduceStep op) v)

/-- COLL_REDUCE (R366, R367): once every contribution is in, this member reduces its slice; under CLE_ALLREDUCE it sends
the result to every other member. -/
def execCollReduce (g : Fin 6) (s : State) : Result :=
  .next (
    match s.collOp g.val with
    | none => s
    | some (o, c, p) =>
      let me := s.boardPos
      let ms := clMembers c
      let sl := clSlice c
      let eb := clElem c
      if clGather c ∨ o.reduced ∨ o.contribOf.length ≠ clM c - 1 ∨ s.cleHeld g.val then s
      else
        let at_ := fun j => if j = me then clSrc c + rankOf ms me * sl else clStage c + stageSlot ms me j * sl
        let dst := if c.opcode = 0x03 then clDst c else clDst c + rankOf ms me * sl
        match (ms.findSome? (fun j => s.heldStops p c.held (at_ j) sl)).or (s.heldBad p c.held dst sl) with
        | some b => s.failCle g.val o.ref b
        | none =>
          let out := (List.range (clN c / clM c)).flatMap (fun i =>
            leBytes eb (reduceElem (clOp c) (clFmt c) (ms.map (fun j => s.heldLe p c.held (at_ j + i * eb) eb))))
          let o := { o with reduced := true }
          let s := ((s.setColl g.val o).bump).heldWrite p c.held dst out
          (ms.foldl (fun s j => s.sendResult g.val j) s).collMaybeDone g.val)

/-- A contribution or a result of `peer` is complete (R366, step 4). -/
def State.collArrive (s : State) (g peer id phase : Nat) : State :=
  match s.collOp g with
  | none => s
  | some (o, c, _) =>
    if clCollId c ≠ id then s
    else
      let add := fun (xs : List Nat) => if xs.any (· = peer) then xs else xs ++ [peer]
      let o := if phase = 0 then { o with contribOf := add o.contribOf } else { o with resultOf := add o.resultOf }
      (s.setColl g o).collMaybeDone g

/-! ## Inbound writes (R360) -/

/-- The places of an inbound range, in the inbound context of the partition the frame names; nothing where the write is
rejected. Device memory and scratchpad only. -/
def State.inboundPlace (s : State) (f : Frame) (n : Nat) : Option (Nat × List PageMap) × State :=
  let p := f.dpart.toNat
  match s.inGroup p with
  | none => (none, s)
  | some h =>
    if s.cfg .cle h 0x10 31 31 = 0 then (none, s)
    else
      match s.xlateRanges (tlbLg h) p (s.cfg .cle h 0x10 7 0) [⟨f.addr.toNat, n, true⟩] [] with
      | (.error _, s) => (none, s)
      | (.ok held, s) =>
        let ok := held.all (fun m =>
          match physAt (s.placeAddr p m.pa 0) with
          | .stack k => s.stackUp k
          | .scratch _ => true
          | _ => false)
        (if ok ∧ s.heldBad p held f.addr.toNat n = none then some (p, held) else none, s)

/-- Perform a frame: data, a release at SC_SYS by the sending device, or the end of a contribution. Whether it was
performed. -/
def State.performFrame (s : State) (l : Nat) (f : Frame) : Bool × State :=
  if f.data = [] then (true, s)
  else if f.typ = 2 ∧ f.data.length = 16 then
    (true, s.collArrive (frameGroup f) (s.peerOf l) (leNat ((f.data.drop 8).take 2)) (leNat ((f.data.drop 10).take 6)))
  else
    match s.inboundPlace f f.data.length with
    | (none, s) => (false, s)
    | (some (p, held), s) =>
      if f.typ = 2 then
        match s.heldAddr p held f.addr.toNat with
        | none => (false, s)
        | some a =>
          match s.markValue a with
          | .error _ => (false, s)
          | .ok _ => (true, s.markMax ⟨a, leNat (f.data.take 8) % 2 ^ 45, 5, ⟨.pcx, 0⟩, none⟩)
      else (true, s.heldWrite p held f.addr.toNat f.data)

/-- The group of link `l` sends an answer to a frame's source. -/
def State.answerOn (s : State) (l : Nat) (f : Frame) (typ : Nat) : State :=
  s.sendPlain (l / 4) (s.peerOf l) (s.answer f typ)

/-- An inbound write is not performed: INBOUND_REJECT, its tally, and the answer that says so (R360). -/
def State.rejectFrame (s : State) (l : Nat) (f : Frame) : State :=
  ((s.flag .cle (l / 4) 0x18 (bit 31)).countLg (l / 4) 0x0306 1 nobody).answerOn l f 8

/-- Perform a frame and acknowledge it, or reject it (R343, R360). -/
def State.performAck (s : State) (l : Nat) (f : Frame) : State :=
  match s.performFrame l f with
  | (true, s) => s.answerOn l f 5
  | (false, s) => s.rejectFrame l f

/-! ## Receiving (R343–R346) -/

def State.setRx (s : State) (k : Nat) (x : RxSrc) : State :=
  { s with board := { s.board with rx := SMap.set .reset s.board.rx k x } }

/-- Early arrivals of a source that are next in order are performed. -/
def State.drainEarly (s : State) (k : Nat) : Nat → State
  | 0 => s
  | n + 1 =>
    let x := s.rx k
    match x.early.find? (fun e => decide (e.2.seq = x.seq)) with
    | none => s
    | some (l, f) =>
      let s := s.setRx k { x with seq := x.seq + 1, early := x.early.filter (fun e => decide (e.2.seq ≠ x.seq)) }
      (s.performAck l f).drainEarly k n

/-- LINK_WRITE_ARRIVE (R343): the ordered writes of one source are performed in the order sent. -/
def execLinkWriteArrive (l : Fin 24) (f : Frame) (s : State) : Result :=
  .next (
    match (if (f.typ = 1 ∨ f.typ = 2) ∧ ¬ f.spray then s.takeFrame l.val f else none) with
    | none => s
    | some s =>
      let k := s.srcKey l.val f
      let x := s.rx k
      if (f.seq - x.seq).toNat < 2 ^ 31 ∧ ¬ x.early.any (fun e => decide (e.2.seq = f.seq)) then
        (s.setRx k { x with early := x.early ++ [(l.val, f)] }).drainEarly k (x.early.length + 1)
      else s)

def RxSrc.setCount (x : RxSrc) (e : Byte) (n : Nat) : RxSrc :=
  { x with counts := (x.counts.filter (fun c => decide (c.1 ≠ e))) ++ [(e, n)] }

/-- SPRAY_WRITE_ARRIVE (R344): performed on arrival and counted in its epoch; a write of a closed epoch is performed
and counts nowhere (R346). Not due while every epoch counter is in use. -/
def execSprayWriteArrive (l : Fin 24) (f : Frame) (s : State) : Result :=
  .next (
    match (if (f.typ = 1 ∨ f.typ = 2) ∧ f.spray ∧ ¬ f.lamp then s.takeFrame l.val f else none) with
    | none => s
    | some s' =>
      let k := s.srcKey l.val f
      let x := s.rx k
      if x.closed.any (· = f.epoch) then s'.performAck l.val f
      else if s.mayCount x f.epoch then
        match s'.performFrame l.val f with
        | (true, s) =>
          let x := s.rx k
          (s.setRx k (x.setCount f.epoch ((x.countOf f.epoch).getD 0 + 1))).answerOn l.val f 5
        | (false, s) => s.rejectFrame l.val f
      else s)

/-- A lamp of this source and epoch is held at some group. -/
def State.lampHeld (s : State) (k : Nat) (e : Byte) : Bool :=
  (List.range 6).any (fun g => (s.lg g).lamps.any (fun h => decide (h.src = k) && decide (h.frame.epoch = e)))

/-- LAMP_ARRIVE (R345, R346): the lamp is held at the group it came to, and its hold is timed. DEDUCED (log 43): a second
copy of a lamp, replayed on another link (R357), is discarded. -/
def execLampArrive (l : Fin 24) (f : Frame) (s : State) : Result :=
  .next (
    match (if (f.typ = 1 ∨ f.typ = 2) ∧ f.spray ∧ f.lamp then s.takeFrame l.val f else none) with
    | none => s
    | some s' =>
      let k := s.srcKey l.val f
      let x := s.rx k
      if x.closed.any (· = f.epoch) ∨ s.lampHeld k f.epoch then s'
      else if s.mayCount x f.epoch then
        let s := s'.setRx k (x.setCount f.epoch ((x.countOf f.epoch).getD 0))
        let g := l.val / 4
        let v := s.lg g
        (s.setLg g { v with lamps := v.lamps ++ [⟨k, f, l.val⟩] }).startTimer (.lamp g k f.epoch.toNat) (.link g)
          (s.cfg .lnk g 0x404 23 0 * 1000)
      else s)

/-- Whether the lamp of the epoch before has been performed or has expired (R345). -/
def RxSrc.turnOf (x : RxSrc) (e : Byte) : Bool := x.closed.any (· = e - 1)

/-- An epoch of a source closes. -/
def RxSrc.shut (x : RxSrc) (e : Byte) : RxSrc :=
  { x with counts := x.counts.filter (fun c => decide (c.1 ≠ e)), closed := (e :: x.closed).take 128 }

/-- Take lamp `k` off its group, with its timer. -/
def State.dropLamp (s : State) (g k : Nat) (h : HeldLamp) : State :=
  let v := s.lg g
  (s.setLg g { v with lamps := v.lamps.eraseIdx k }).stopTimer (.lamp g h.src h.frame.epoch.toNat)

/-- LAMP_PERFORM (R345): the lamp's count is met and its predecessor is done. -/
def execLampPerform (g : Fin 6) (k : Nat) (s : State) : Result :=
  .next (
    match (s.lg g.val).lamps[k]? with
    | none => s
    | some h =>
      let x := s.rx h.src
      let e := h.frame.epoch
      if h.frame.seq.toNat ≤ (x.countOf e).getD 0 ∧ x.turnOf e then
        let s := (s.dropLamp g.val k h).setRx h.src (x.shut e)
        let r := s.performFrame h.link h.frame
        if r.1 then
          let v := r.2.lg g.val
          (r.2.setLg g.val { v with lampsDone := v.lampsDone + 1 }).answerOn h.link h.frame 5
        else r.2.rejectFrame h.link h.frame
      else s)

/-- LAMP_EXPIRE (R346): the lamp is discarded, its epoch closed, and both sides are told. -/
def execLampExpire (g : Fin 6) (k : Nat) (s : State) : Result :=
  .next (
    match (s.lg g.val).lamps[k]? with
    | none => s
    | some h =>
      if s.expired (.lamp g.val h.src h.frame.epoch.toNat) then
        let s := (s.dropLamp g.val k h).setRx h.src ((s.rx h.src).shut h.frame.epoch)
        let s := (s.flag .lnk g.val 0x400 (bit 31)).countLg g.val 0x0305 1 nobody
        let s := match s.partOfLg g.val with
          | some p => s.emit (.notice p 4 [h.src / 8, h.src % 8, h.frame.epoch.toNat])
          | none => s
        s.answerOn h.link h.frame 9
      else s)

/-! ## Answers that come back (R345, R346, R360, R363, R368) -/

/-- The write or lamp that an answer names, and the group's state without it. -/
def State.settle (s : State) (l : Nat) (f : Frame) : Option (Sent × State) :=
  let g := (frameGroup f)
  let peer := s.peerOf l
  let x := s.tx g peer
  let same := fun (w : Sent) => decide (w.spray = f.spray) && decide (w.seq = f.seq)
    && (!f.spray || (decide (w.epoch = f.epoch) && decide (w.lamp = f.lamp)))
  match x.unperf.find? same with
  | none => none
  | some w =>
    let x := { x with
      unperf := x.unperf.erase w
      openE := if w.lamp then x.openE.filter (fun e => decide (e.1 ≠ w.epoch)) else x.openE }
    some (w, (s.setTx g peer x).pump g peer)

/-- One more frame of a command is acknowledged. -/
def State.ackOne (s : State) (g : Nat) (r : CmdRef) : State :=
  let e := s.cle g
  if e.sends.any (fun o => decide (o.ref = r)) then
    ((s.setCle g { e with sends := e.sends.map (fun o => if o.ref = r then { o with acked := o.acked + 1 } else o) }).cleProgress g).sendMaybeDone g r
  else match e.coll with
    | some o =>
      if o.ref = r then ((s.setColl g { o with acked := o.acked + 1 }).cleProgress g).collMaybeDone g else s
    | none => s

/-- PERFORMED_ACK (R363, R366): a bare lamp's ack advances no command's count. -/
def execPerformedAck (l : Fin 24) (f : Frame) (s : State) : Result :=
  .next (
    match (if f.typ = 5 then s.takeFrame l.val f else none) with
    | none => s
    | some s =>
      match s.settle l.val f with
      | none => s
      | some (w, s) =>
        match w.ref with
        | some r => if w.bare then s else s.ackOne (frameGroup f) r
        | none => s)

/-- INBOUND_REJECT_RECEIVE (R360). -/
def execInboundRejectReceive (l : Fin 24) (f : Frame) (s : State) : Result :=
  .next (
    match (if f.typ = 8 then s.takeFrame l.val f else none) with
    | none => s
    | some s =>
      match s.settle l.val f with
      | some (w, s) =>
        (match w.ref with
         | some r => (s.failCle (frameGroup f) r (badLink 2 (s.peerOf l.val))).cleProgress (frameGroup f)
         | none => s)
      | none => s)

/-- LAMP_EXPIRY_RECEIVE (R346): the command that sent the lamp takes a link-delivery fault. -/
def execLampExpiryReceive (l : Fin 24) (f : Frame) (s : State) : Result :=
  .next (
    match (if f.typ = 9 then s.takeFrame l.val f else none) with
    | none => s
    | some s =>
      match s.settle l.val f with
      | some (w, s) =>
        (match w.ref with
         | some r => (s.failCle (frameGroup f) r (badLink 1 (s.peerOf l.val))).cleProgress (frameGroup f)
         | none => s)
      | none => s)

/-- Send ABORT to every member that a collective had sent READY to (R368). -/
def State.sendAborts (s : State) (g : Nat) (o : CollOp) (c : Cmd) : State :=
  if o.readySent = [] then s
  else o.readySent.foldl (fun s j => s.sendPlain g j (s.abortFrame g (clPart c) (clCollId c))) (s.flag .cle g 0x18 (bit 29))

/-- ABORT_RECEIVE (R368). -/
def execAbortReceive (l : Fin 24) (f : Frame) (s : State) : Result :=
  .next (
    match (if f.typ = 7 then s.takeFrame l.val f else none) with
    | none => s
    | some s =>
      let s := s.flag .cle (frameGroup f) 0x18 (bit 29)
      match s.collOp (frameGroup f) with
      | some (o, c, _) =>
        if clCollId c = frameColl f then
          (s.failCle (frameGroup f) o.ref ⟨0x15, 0, clCollId c, 2, 0, 0x7F⟩).cleProgress (frameGroup f)
        else s
      | none => s)

/-- COLL_TIMEOUT (R368): a send or collective not complete within TMO_US of its beginning is discarded. -/
def execCollTimeout (g : Fin 6) (q : Fin 2048) (head : W32) (s : State) : Result :=
  .next (
    let dq := ((s.queByNum q.val).map (fun x => queKey x.1 x.2)).getD noQue
    let r : CmdRef := ⟨dq, head, none⟩
    if ¬ s.expired (.coll g.val dq head.toNat) then s
    else
      let e := s.cle g.val
      let s := s.flag .cle g.val 0x18 (bit 28)
      match e.sends.find? (fun o => decide (o.ref = r)), e.coll, s.cmdAt r with
      | some o, _, _ => (s.failCle g.val r (badLink 3 o.peer)).cleProgress g.val
      | none, some o, some c =>
        if o.ref = r then
          ((s.failCle g.val r ⟨0x14, 0, clCollId c, 2, 0, 0x7F⟩).sendAborts g.val o c).cleProgress g.val
        else s
      | _, _, _ => s)

/-- A context's send or collective is removed from its group (R427): a collective aborts its members. -/
def State.removeCle (s : State) (g : Nat) (r : CmdRef) : State :=
  let c := s.cmdAt r
  let o := (s.cle g).coll
  let s := s.dropCle g r
  let s := match o, c with
    | some o, some c => if o.ref = r then s.sendAborts g o c else s
    | _, _ => s
  s.cleProgress g

/-- The open epochs of a group that hold writes of the queues are closed with bare lamps (R427). -/
def State.closeEpochs (s : State) (g : Nat) (sel : Nat → Bool) : State :=
  (((s.lg g).tx.filter (fun t => t.2.queues.any sel)).map (·.1)).foldl (fun s j => s.closeEpoch g j none) s

end Sys2Proof.Machine
end

