-- ==== Sys2Proof/Machine/Commit.lean ====
section
/-!
DEFINITION. Staged configuration (R39–R44, R488): which part of a snapshot a register belongs to, the fields that a
block refuses (R42), what changes when a committed value changes, and the commands GO, DISCARD, SNAPSHOT_APPLY,
LNK_MODE_CHANGE and FREQ_SWITCH_DONE.
-/
namespace Sys2Proof.Machine

/-! ## Parts of a snapshot (R43, R488) -/

/-- The part a register's fields belong to: 1 + k for context, queue or ring k, 0 for the rest of its block. -/
def partOf (k : BlkKind) (off : Nat) : Nat :=
  match k with
  | .ctx => if 0x2000 ≤ off then 1 + (off - 0x2000) / 32 else 0
  | .que => if 0x8000 ≤ off then 1 + (off - 0x8000) / 16 else 0
  | .rng => if 0x100 ≤ off ∧ off < 0x200 then 1 + (off - 0x100) / 4 else 0
  | _ => 0

/-- Parts whose sample point is the GO write itself; the arbiter fields are the only staged ones of NME_. -/
def partAtOnce (k : BlkKind) (part : Nat) : Bool :=
  match k with
  | .ctx | .que | .rng => decide (part = 0)
  | .tile | .mxe | .vxe | .ste | .wch | .kvf | .cle | .lnk | .img => false
  | _ => true

/-- Offsets at which the snapshot differs from the committed set. -/
def changedOffs (k : BlkKind) (r : BlockRegs) : List Nat :=
  ((r.snap.map (·.1)) ++ (r.comm.map (·.1))).eraseDups.filter (fun o => decide (snapWord k r o ≠ commWord k r o))

/-- Offsets at which the staged set differs from the committed set. -/
def dirtyOffs (k : BlkKind) (r : BlockRegs) : List Nat :=
  ((r.staged.map (·.1)) ++ (r.comm.map (·.1))).eraseDups.filter (fun o => decide (stagedWord k r o ≠ commWord k r o))

/-! ## Refused fields (R42) -/

/-- The mask of bits [hi:lo]. -/
def fm (hi lo : Nat) : W32 := BitVec.ofNat 32 ((2 ^ (hi + 1 - lo) - 1) * 2 ^ lo)

def onlyIf (c : Bool) (m : W32) : W32 := if c then m else 0

/-- The event codes that the catalogue lists for a class of unit (R395). -/
def eventListed (k : BlkKind) (ev : Nat) : Bool :=
  decide (ev = 0) ||
  match k with
  | .talTile => decide (0x0100 ≤ ev) && decide (ev ≤ 0x0117)
  | .talStack => decide (0x0200 ≤ ev) && decide (ev ≤ 0x0213)
  | .talLg => decide (0x0300 ≤ ev) && decide (ev ≤ 0x0308)
  | .talKp => decide (0x0400 ≤ ev) && decide (ev ≤ 0x0404)
  | .talPart => decide (0x0500 ≤ ev) && decide (ev ≤ 0x050D)
  | .talIo => decide (0x0600 ≤ ev) && decide (ev ≤ 0x0604)
  | _ => false

/-- The events that the catalogue marks filtered (R395). -/
def eventsFiltered : List Nat :=
  [0x0101, 0x0102, 0x0104, 0x0105, 0x0106, 0x0107, 0x0108, 0x0109, 0x010A, 0x010B, 0x010C, 0x010D, 0x010E, 0x010F,
   0x0110, 0x0111, 0x0112, 0x0117, 0x0208, 0x0209, 0x020D, 0x020E, 0x0302, 0x0307, 0x0500, 0x0501, 0x0502, 0x0504,
   0x0505, 0x0506, 0x0507, 0x050A, 0x050B]

/-- Enabled queues of local context `c` of a partition, without queue `q` (R69). -/
def State.enabledBeside (s : State) (p c q : Nat) : Nat :=
  ((List.range (s.queQuota p)).filter (fun i => decide (i ≠ q) && s.qEnable p i && decide (s.qCtx p i = c))).length

/-- The fields of a register that the block refuses, as masks: what the snapshot holds there is no value the field
takes (R42). -/
def State.refusedBits (s : State) (b : BlkId) (off : Nat) : W32 :=
  let r := s.blk b
  let n := fun o hi lo => bitsOf (snapWord b.kind r o).toNat hi lo
  let c := fun o hi lo => bitsOf (commWord b.kind r o).toNat hi lo
  let chg := fun o hi lo => decide (n o hi lo ≠ c o hi lo)
  match b.kind with
  | .tile => onlyIf (decide (off = 0x40) && decide (0x10 < n off 4 0)) (fm 4 0)
  | .mxe =>
    if off = 0x10 then onlyIf (decide (n off 1 0 = 3)) (fm 1 0)
    else if off = 0x20 then
      let m := s.mxe b.unit
      let folded := m.slot0.rows.any (fun x => x.2.folded) || m.slot1.rows.any (fun x => x.2.folded)
      onlyIf (folded || decide (0x3C0 < n off 21 12)) (fm 21 12) ||| onlyIf folded (fm 31 31)
    else 0
  | .nme => onlyIf (decide (off = 0xF00) && decide (n off 31 16 = 0)) (fm 31 16)
  | .kvf =>
    let held := (s.kvf b.unit).recs.any (fun x => decide (x.2.st ≠ .free))
    if off = 0x10 then onlyIf (decide (n off 3 0 = 0)) (fm 3 0)
    else if off = 0x28 then onlyIf (held || decide (65536 < n off 16 0)) (fm 16 0)
    else if off = 0x20 ∨ off = 0x24 then onlyIf held (fm 31 0)
    else 0
  | .lnk =>
    onlyIf (decide (off = 0x404) && (decide (n off 23 0 = 0) || decide (100000 < n off 23 0))) (fm 23 0)
  | .cle =>
    onlyIf (decide (off = 0x10) && decide (((s.partOfLg b.unit).map s.ctxQuota).getD 0 ≤ n off 7 0)) (fm 7 0)
  | .kpr =>
    if off = 0x10 then onlyIf (decide (4096 < n off 12 0)) (fm 12 0)
    else if off = 0x14 then
      onlyIf (decide (n off 17 14 = 0) || decide (8 < n off 17 14)) (fm 17 14)
        ||| onlyIf (decide (8 < n off 13 9) && decide (n off 13 9 < 24)) (fm 13 9)
    else if off = 0x18 then onlyIf (decide (0x10 < n off 19 15)) (fm 19 15) ||| onlyIf (decide (n off 14 11 = 0)) (fm 14 11)
    else if off = 0x34 then onlyIf (decide (n off 11 0 < 10)) (fm 11 0)
    else if off = 0x40 then onlyIf (decide (0x0B < n off 4 0)) (fm 4 0)
    else 0
  | .talTile | .talStack | .talLg | .talKp | .talPart | .talIo =>
    if 0x100 ≤ off ∧ (off - 0x100) % 8 = 0 then
      let badEv := !eventListed b.kind (n off 15 0)
      let ev := if badEv then c off 15 0 else n off 15 0
      onlyIf badEv (fm 15 0)
        ||| onlyIf (decide (n off 31 30 ≠ 0) && decide (ev ≠ 0) && !eventsFiltered.contains ev) (fm 31 30)
    else
      onlyIf (decide (b.kind = .talIo) && decide (off = 0x30) && (decide (n off 13 0 < 20) || decide (10000 < n off 13 0)))
        (fm 13 0)
  | .ldgTile | .ldgStack =>
    let busy := ldgBusy (s.ldg (blkKey b)).st
    let badMode := decide (n 0x10 26 25 = 3)
    let mode := if badMode then c 0x10 26 25 else n 0x10 26 25
    let len := (n 0x28 19 0 + 1) * 65536
    let spillBad := busy && chg 0x10 24 24
    let spill := if spillBad then c 0x10 24 24 else n 0x10 24 24
    let cap := if spill = 1 then len / 32 else 2048
    let area := n 0x20 31 16 * 65536 + n 0x24 15 0 * 2 ^ 32
    let out := match s.blkPart b with
      | some p => !s.inPartStacks p area len
      | none => true
    if off = 0x10 then
      onlyIf badMode (fm 26 25)
        ||| onlyIf (decide (mode = 2) && decide (n 0x10 11 0 = 0) || decide (cap ≤ 16 * n 0x10 11 0)) (fm 11 0)
        ||| onlyIf spillBad (fm 24 24)
    else onlyIf ((busy || out) && (decide (off = 0x20) || decide (off = 0x24) || decide (off = 0x28))) (fm 31 0)
  | .que =>
    if off < 0x8000 then 0
    else
      let p := b.unit
      let q := (off - 0x8000) / 16
      let base := 0x8000 + 16 * q
      let badCtx := decide (s.ctxQuota p ≤ n base 7 0)
      let ctx := if badCtx then c base 7 0 else n base 7 0
      let moves := decide (c (base + 4) 31 31 = 1) && decide (n (base + 4) 31 31 = 1) && chg base 7 0
      match off - base with
      | 0 => onlyIf (badCtx || moves && decide (16 ≤ s.enabledBeside p ctx q)) (fm 7 0)
      | 4 =>
        onlyIf (decide (1 < n off 29 28)) (fm 29 28) ||| onlyIf (decide (10 < n off 27 24)) (fm 27 24)
          ||| onlyIf (decide (n off 31 31 = 1) && decide (16 ≤ s.enabledBeside p ctx q)) (fm 31 31)
      | 8 => onlyIf (decide (10000 < n off 13 0)) (fm 13 0)
      | _ => 0
  | .rng =>
    let p := b.unit
    if 0x400 ≤ off then
      let count := n off 5 0
      let tiles := match s.cfgOf p with
        | some g => ((List.range 48).filter (tileIn s.mask g)).length
        | none => 0
      onlyIf ((s.bar (barKey p ((off - 0x400) / 8))).isOpen || decide (tiles < count)) (fm 5 0)
    else if 0x100 ≤ off then
      let ents := (s.ring (ringKey p ((off - 0x100) / 4))).entries
      onlyIf (decide (s.ctxQuota p ≤ n off 7 0) || (chg off 7 0 && decide (ents ≠ []))) (fm 7 0)
    else 0
  | .pfx => onlyIf (decide ((s.part b.unit).pfx ≠ [])) (fm 31 0)
  | .flt =>
    let badSize := decide (9 < n 0x10 3 0)
    let size := if badSize then c 0x10 3 0 else n 0x10 3 0
    let out := !s.inPartStacks b.unit (n 0x14 31 6 * 64 + n 0x18 15 0 * 2 ^ 32) (64 * 2 ^ (size + 6))
    let grown := !s.inPartStacks b.unit (c 0x14 31 6 * 64 + c 0x18 15 0 * 2 ^ 32) (64 * 2 ^ (size + 6))
    if off = 0x10 then onlyIf (badSize || out && grown) (fm 3 0)
    else if off = 0x14 ∨ off = 0x18 then onlyIf out (fm 31 0)
    else onlyIf (decide (off = 0x28) && decide (n off 15 0 < 100)) (fm 15 0)
  | .pcx =>
    if 0x100 ≤ off ∧ (off - 0x100) % 16 = 0 then
      let f := (off - 0x100) / 16
      let kind := n off 31 30
      let noPart := decide (s.partOfFn f = none)
      let badKind := decide (kind = 3) || (decide (kind = 1) && decide (f ≠ 0)) || (decide (kind ≠ 1) && noPart)
      let badPair := decide ((if badKind then c off 31 30 else kind) = 2) && !s.b2Stack f (n off 27 24)
      onlyIf badKind (fm 31 30) ||| onlyIf badPair (fm 31 30 ||| fm 27 24)
    else 0
  | .pwr =>
    if off = 0x48 then onlyIf (decide (n off 11 0 < 600) || decide (2400 < n off 11 0)) (fm 11 0)
    else if off = 0x54 then
      onlyIf (decide (n off 15 8 < 60) || decide (95 < n off 15 8)) (fm 15 8)
        ||| onlyIf (decide (n off 7 0 < 60) || decide (100 < n off 7 0)) (fm 7 0)
    else 0
  | _ => 0

/-- A field that is refused keeps its committed value whole: the fields of a register that both change and are
refused. -/
def refusedFields (fs : List Field) (chg bad : W32) : W32 :=
  fs.foldl (fun m f =>
    let x := fm f.hi f.lo
    if f.acc = .stg ∧ chg &&& x ≠ 0 ∧ bad &&& x ≠ 0 then m ||| x else m) 0

/-- The bits of a register that the snapshot would change and the block keeps. -/
def State.keptBits (s : State) (b : BlkId) (off : Nat) : W32 :=
  let r := s.blk b
  refusedFields ((regFields b.kind off).getD []) (snapWord b.kind r off ^^^ commWord b.kind r off) (s.refusedBits b off)

/-! ## What a committed change does -/

/-- A committed frequency step (R30): the unit goes to the newest target. -/
def Freq.towards (f : Freq) (step : Nat) : Freq :=
  { f with target := step, switching := f.switching || decide (step ≠ f.cur) }

/-- The fault of a refused duration field of a link group or of the I/O die (R34), whose faults go to the partition of the
physical function. DESIGN CHOICE (notes/assumptions/98.md): no context is at fault, so CTX of the
record is a free value, as is DETAIL but for the bits [15:8] that R490 gives as zero; no context's state changes. -/
def State.durationFault (s : State) (p uclass unit : Nat) : State :=
  let c := s.draw 8
  let d := c.2.draw 32
  let f : FaultRec :=
    { cls := 0x01, cause := 0, eng := 0xF, ctx := c.1.toNat, queue := 0x7FF, stage := 0x7F, layer := 0xFFFF, op := 0xFFFF
      head := 0, aspace := 2, addr := 0, detail := (d.1 &&& 0xFFFF00FF).toNat, sub := 0, uclass := uclass, unit := unit }
  d.2.recordFault p f nobody

/-- Report a refused field where its definition names a report (R29, R34, R70, R71). DESIGN CHOICE: DETAIL of the fault of
a refused PROG_TMO, where no command word is at fault, is a free value but for the bits [15:8] that R490 gives as zero. -/
def State.reportKept (s : State) (b : BlkId) (off : Nat) (kept : W32) : State :=
  if kept = 0 then s
  else
    let r := s.blk b
    let s := s.setBlk b { r with refused := true }
    match b.kind with
    | .tile => s.flag .tile b.unit 0x44 (bit 30)
    | .kpr => if off = 0x40 then s.flag .kpr b.unit 0x44 (bit 30) else s
    | .que =>
      let q := (off - 0x8000) / 16
      let s := s.flag .que b.unit (0x4000 + 4 * q) (bit 26)
      if (off - 0x8000) % 16 = 8 then
        let d := s.draw 32
        d.2.raiseAny b.unit (d.2.queFault b.unit q ⟨0x01, 0, (d.1 &&& 0xFFFF00FF).toNat, 2, 0, 0x7F⟩)
      else s
    | .lnk =>
      if off = 0x404 ∧ 100000 < bitsOf (snapWord .lnk r off).toNat 23 0 then
        match s.partOfLg b.unit with
        | some p => s.durationFault p 2 b.unit
        | none => s
      else s
    | .talIo =>
      if off = 0x30 ∧ 10000 < bitsOf (snapWord .talIo r off).toNat 13 0 then
        match s.partOfFn 0 with
        | some p => s.durationFault p 5 0
        | none => s
      else s
    | _ => s

/-- A queue's ENABLE changes (R72): from 0 to 1, HEAD and the accepted TAIL are 0; from 1 to 0, its fetched commands
drain. -/
def State.queEnableTo (s : State) (p q : Nat) (on : Bool) : State :=
  let x := s.q p q
  if on then (s.setQ p q .reset).stopTimer (.progress (s.devQue p q))
  else
    (s.setQ p q { x with
      draining := true, recs := []
      cmds := x.cmds.filter (fun c =>
        decide (c.phase ≠ .lost) || (s.chainOf ⟨s.devQue p q, c.head, none⟩).isSome) }).progressRestart p q

/-- What follows a change of one committed register from `old` to its value now. -/
def State.committed (s : State) (b : BlkId) (off : Nat) (old : W32) : State :=
  let now := commWord b.kind (s.blk b) off
  let n := fun hi lo => bitsOf now.toNat hi lo
  let was := fun hi lo => bitsOf old.toNat hi lo
  if now = old then s
  else
    match b.kind with
    | .tile =>
      if off = 0x40 then
        let x := s.tile b.unit
        s.setTile b.unit { x with freq := x.freq.towards (n 4 0) }
      else s
    | .kpr =>
      if off = 0x40 then
        let x := s.pair b.unit
        s.setPair b.unit { x with freq := x.freq.towards (n 4 0) }
      else s
    | .talTile | .talStack | .talLg | .talKp | .talPart | .talIo =>
      if 0x100 ≤ off then
        let i := (off - 0x100) / 8
        let u := s.tal (blkKey b)
        s.setTal (blkKey b) { u with counts := SMap.set 0 u.counts i 0, ovf := SMap.set false u.ovf i false }
      else s
    | .wch =>
      let k := b.unit * 4 + (off - 0x100) / 0x100
      s.setWch k { s.wch k with acc := .reset }
    | .lnk =>
      if off = 0x10 then
        (List.range 4).foldl (fun s i =>
          if was i i = 1 ∧ n i i = 0 then
            s.moveFrames (4 * b.unit + i) (if (s.link (4 * b.unit + i)).st = .failed then .failed else .down)
          else s) s
      else s
    | .que =>
      if (off - 0x8000) % 16 = 4 ∧ was 31 31 ≠ n 31 31 then s.queEnableTo b.unit ((off - 0x8000) / 16) (decide (n 31 31 = 1))
      else s
    | .rng =>
      if off < 0x200 ∧ was 31 31 = 1 ∧ n 31 31 = 0 then s.disableRing b.unit ((off - 0x100) / 4) else s
    | .ldgTile | .ldgStack =>
      if off = 0x10 ∧ n 31 31 = 0 then s.setLdg (blkKey b) { s.ldg (blkKey b) with st := .off, held := [] } else s
    | .mgt =>
      let fresh := s.flags .mgt 0 0x14 &&& now &&& ~~~old
      if off = 0x18 then s.sendNotices fresh else s
    | _ => s

/-- Apply one part of a block's snapshot: every field that is not refused takes its value in one step (R39, R42). -/
def State.applyPart (s : State) (b : BlkId) (part : Nat) : State :=
  let r := s.blk b
  if ¬ part ∈ r.pend then s
  else
    let offs := (changedOffs b.kind r).filter (fun o => decide (partOf b.kind o = part))
    let kept := offs.map (fun o => (o, s.keptBits b o))
    let pend := r.pend.filter (fun x => decide (x ≠ part))
    let comm := kept.foldl (fun m o =>
      SMap.set (resetWord b.kind o.1) m o.1
        ((snapWord b.kind r o.1 &&& ~~~o.2) ||| (commWord b.kind r o.1 &&& o.2))) r.comm
    let s := s.setBlk b { r with comm := comm, pend := pend, serial := if pend = [] then r.serial + 1 else r.serial }
    let s := kept.foldl (fun s o => s.reportKept b o.1 o.2) s
    kept.foldl (fun s o => s.committed b o.1 (commWord b.kind r o.1)) s

/-! ## GO and DISCARD (R39, R41, R44) -/

/-- A GO of PCX_ commits every window anew but those that are refused (R443). -/
def BlockRegs.recommit (r : BlockRegs) : BlockRegs :=
  { r with missed := r.missed.filter (fun f => decide (snapWord .pcx r (0x100 + 16 * f) ≠ commWord .pcx r (0x100 + 16 * f))) }

/-- Who may write a register of a block (R38, R315, R323, R401, R421, R442, R447). -/
def State.mayWrite (s : State) (m : Master) (b : BlkId) (off : Nat) : Bool :=
  s.reaches m b &&
  match b.kind with
  | .kvf => decide (m = .pf) || (match s.blkPart b with | some p => s.pfOrKp m p | none => false)
  | .ses => s.fnOrKp m b.unit
  | .flt => s.ownFnKpMgmt m b.unit
  | .pcx => pfOrMgmt m
  | .kpr => decide (off = 0x30) || (match m with | .vf _ => false | _ => true)
  | .talIo => !(decide (0x30 ≤ off) && decide (off < 0x3C)) || pfOrMgmt m
  | .pwr => !(decide (off = 0x48) || decide (off = 0x54)) || pfOrMgmt m
  | _ => true

/-- An APPLY that runs covers the block's partition (R44). -/
def State.applying (s : State) (b : BlkId) : Bool :=
  decide (s.img.busy = some .apply) &&
    (let new : State := { s with img := { s.img with applied := s.img.pendingImage } }
     [s.blkPart b, new.blkPart b].any (fun o => match o with
      | some p => s.img.mask.getLsbD p
      | none => false))

/-- Take the snapshot: parts with nothing to change are done, parts sampled at once are applied. -/
def State.go (s : State) (b : BlkId) : State :=
  let r := s.blk b
  let r := { r with snap := r.staged }
  let parts := ((changedOffs b.kind r).map (partOf b.kind)).eraseDups
  let s := s.setBlk b { r with pend := parts, serial := if parts = [] then r.serial + 1 else r.serial }
  let s := (parts.filter (partAtOnce b.kind)).foldl (fun s x => s.applyPart b x) s
  if b.kind = .pcx then s.setBlk b (s.blk b).recommit else s

/-- The function that a master is; none for the keeper pairs and the management port. -/
def masterFn : Master → Option Nat
  | .pf => some 0
  | .vf k => some (k.val + 1)
  | _ => none

/-- A function's earlier posted writes are performed before its register write (R335). -/
def State.flushFor (s : State) (m : Master) : State :=
  match masterFn m with
  | some fn => s.flushPosted fn
  | none => s

/-- GO (R39): not performed for a block that the master does not reach or while an APPLY covers it. -/
def execGo (m : Master) (b : BlkId) (s : State) : Result :=
  okIf (decide (b.unit < unitCount b.kind))
    (let s := s.flushFor m
     if s.mayWrite m b 0 ∧ ¬ s.applying b then s.go b else s)

/-- DISCARD (R41): the committed set becomes the staged set. -/
def execDiscard (m : Master) (b : BlkId) (s : State) : Result :=
  okIf (decide (b.unit < unitCount b.kind))
    (let s := s.flushFor m
     if s.mayWrite m b 0 then
      let r := s.blk b
      s.setBlk b { r with staged := r.comm }
     else s)

/-! ## Sample points (R43) -/

def State.mxeIdle (s : State) (t : Nat) : Bool :=
  let m := s.mxe t
  !(m.loads.any (·.started) || m.passes.any (·.started) || m.drains.any (·.started) || m.bookOps.any (·.started))
    && m.inArray.isEmpty

def State.vxeIdle (s : State) (t : Nat) : Bool :=
  match (s.vxe t).op with
  | some o => !o.started && decide (o.work = .run)
  | none => true

/-- A queue stands at its boundary while no command of it has begun without completing. -/
def State.queIdle (s : State) (p q : Nat) : Bool := (s.q p q).cmds.all (fun c => decide (c.phase ≠ .begun))

/-- Whether a part of a pending snapshot is at its sample point. DEDUCED: the commands whose boundary a tile's FREQ_STEP
awaits (R30) are those of all its engines, the stream unit's too (notes/assumptions/100.md). -/
def State.atSample (s : State) (b : BlkId) (part : Nat) : Bool :=
  match b.kind with
  | .tile => s.mxeIdle b.unit && s.vxeIdle b.unit && (s.ste b.unit).cmds.isEmpty
  | .mxe => s.mxeIdle b.unit
  | .vxe => s.vxeIdle b.unit
  | .ste => (s.ste b.unit).cmds.isEmpty
  | .wch => s.mxeIdle b.unit
  | .kvf => !(s.nme b.unit).ops.any (·.started)
  | .cle => !(s.cle b.unit).sends.any (·.started) && !(match (s.cle b.unit).coll with | some o => o.started | none => false)
  | .lnk => !s.modeChanging b.unit
  | .que =>
    let q := part - 1
    let on := bitsOf (snapWord .que (s.blk b) (0x8004 + 16 * q)).toNat 31 31
    s.queIdle b.unit q && !((s.q b.unit q).draining && decide (on = 1))
  | .ctx =>
    (List.range (s.queQuota b.unit)).all (fun q => decide (s.qCtx b.unit q ≠ part - 1) || s.queIdle b.unit q)
  | .img => false
  | _ => true

/-- SNAPSHOT_APPLY (R43): one pending part of a block's snapshot, at its sample point. -/
def execSnapshotApply (b : BlkId) (part : Nat) (s : State) : Result :=
  okIf (decide (b.unit < unitCount b.kind)) (if s.atSample b part then s.applyPart b part else s)

/-- LNK_MODE_CHANGE (R347): a snapshot that changes MODE is applied once the writes or lamps under way have been
acknowledged. Toward spray, no ordered write is left; toward ordered, each open epoch is first closed with a bare lamp,
and every lamp has been acknowledged or has expired. The writes that waited for the change are then sent. -/
def execLnkModeChange (g : Fin 6) (s : State) : Result :=
  .next (
    if ¬ s.modeChanging g.val then s
    else if ¬ s.sprays g.val then
      (if (s.lg g.val).tx.all (fun x => x.2.unperf.all (fun u => u.spray)) then (s.applyPart ⟨.lnk, g.val⟩ 0).pumpAll g.val else s)
    else
      let s := ((s.lg g.val).tx.map (·.1)).foldl (fun s d => s.closeEpoch g.val d none) s
      if (s.lg g.val).tx.all (fun x => decide (x.2.openE = []) && decide (x.2.unperf = [])) then
        (s.applyPart ⟨.lnk, g.val⟩ 0).pumpAll g.val
      else s)

/-! ## Frequency changes (R30) -/

def Freq.done (f : Freq) : Freq := { f with cur := f.target, switching := false }

/-- FREQ_SWITCH_DONE (R30): CUR_STEP and PERIOD_Q change at one edge. Not due without a change in progress. -/
def execFreqSwitchDone (u : FreqUnit) (s : State) : Result :=
  .next (
    match u with
    | .tile t =>
      let x := s.tile t.val
      if x.freq.switching then
        (s.setTile t.val { x with freq := x.freq.done }).ledgerTile t.val nobody 0x0D 0
          (x.freq.cur + x.freq.target * 256) 0
      else s
    | .pair p =>
      let x := s.pair p.val
      if x.freq.switching then
        let s := s.setPair p.val { x with freq := x.freq.done }
        match s.partOfKp p.val with
        | some g => s.ledgerPart g nobody 0x0D 0x60 (x.freq.cur + x.freq.target * 256) 0
        | none => s
      else s)

end Sys2Proof.Machine
end

