-- ==== Sys2Proof/Machine/Image.lean ====
section
/-!
DEFINITION. Structure images (R35, R45–R58): the image buffer and its owner, the layout of an image, the checks of
VERIFY in their order, and the IMG_ commands but for APPLY.
-/
namespace Sys2Proof.Machine

/-! ## Reading an image -/

def imgByte (buf : List (Nat × Byte)) (off : Nat) : Byte := SMap.get 0 buf off
def imgBytes (buf : List (Nat × Byte)) (off n : Nat) : List Byte := (List.range n).map (fun i => imgByte buf (off + i))
def imgLe (buf : List (Nat × Byte)) (off n : Nat) : Nat := leNat (imgBytes buf off n)

/-- An entry of the section table, with its index (R47). -/
structure Sect where
  idx  : Nat
  typ  : Nat
  part : Nat
  off  : Nat
  len  : Nat
  deriving DecidableEq, Repr

def imgSectCount (buf : List (Nat × Byte)) : Nat := imgLe buf 6 2
def imgLen (buf : List (Nat × Byte)) : Nat := imgLe buf 8 4

def imgSect (buf : List (Nat × Byte)) (i : Nat) : Sect :=
  let o := 64 + 16 * i
  ⟨i, imgLe buf o 1, imgLe buf (o + 1) 1, imgLe buf (o + 4) 4, imgLe buf (o + 8) 4⟩

def imgSects (buf : List (Nat × Byte)) : List Sect := (List.range (imgSectCount buf)).map (imgSect buf)

/-- What a kind of image or bundle is: its magic, its greatest length and the section types beside 0x7E and 0x7F
(R46, R47, R456). -/
structure ImgKind where
  magic  : Nat
  maxLen : Nat
  types  : List Nat
  deriving DecidableEq, Repr

def usfekor : ImgKind := ⟨0x4B465355, 0x100000, [0x01, 0x02, 0x03, 0x04, 0x05]⟩

/-! ## FORMAT (R45–R47) -/

/-- The first of a list of checks that fails, with the section it blames. -/
def firstFail : List (Bool × Nat) → Option Nat
  | [] => none
  | (ok, d) :: rest => if ok then firstFail rest else some d

/-- The length that R47 gives a section. -/
def sectLenOk (count : Nat) (e : Sect) : Bool :=
  match e.typ with
  | 0x01 | 0x02 | 0x03 => decide (e.len = 32)
  | 0x04 => decide (e.len = 8)
  | 0x05 => decide (e.len % 8 = 0) && decide (e.len ≤ 8 * 4096)
  | 0x7E => decide (e.len = 32 * (count - 1))
  | 0x7F => decide (e.len = 3736)
  | _ => true

/-- PART of an entry: a partition for the per-partition sections, 0xFF for the rest. -/
def sectPartOk (e : Sect) : Bool :=
  if e.typ = 0x01 ∨ e.typ = 0x03 ∨ e.typ = 0x04 then decide (e.part < 8) else decide (e.part = 0xFF)

/-- Two sections do not overlap. DESIGN CHOICE (notes/assumptions/101.md): R45 to R47 do not say whether sections may; VERIFY
answers FORMAT where two do. -/
def sectApart (a b : Sect) : Bool := decide (a.off + a.len ≤ b.off) || decide (b.off + b.len ≤ a.off)

/-- The number of sections of a type and partition that R47 allows. -/
def sectNumberOk (es : List Sect) (e : Sect) : Bool :=
  let same := (es.filter (fun x => decide (x.typ = e.typ) && decide (x.part = e.part))).length
  let parts := es.filter (fun x => decide (x.typ = 0x01) && decide (x.part = e.part))
  let has := fun t => es.any (fun x => decide (x.typ = t) && decide (x.part = e.part))
  decide (same = 1) &&
    (if e.typ = 0x01 then has 0x03 && has 0x04 else if e.typ = 0x03 ∨ e.typ = 0x04 then !parts.isEmpty else true)

/-- The checks behind RESULT FORMAT: the section that the first failure blames. -/
def imgFormatBad (k : ImgKind) (buf : List (Nat × Byte)) : Option Nat :=
  let n := imgSectCount buf
  let es := imgSects buf
  let len := imgLen buf
  let man := imgSect buf (n - 2)
  let sig := imgSect buf (n - 1)
  firstFail (
    [(decide (imgLe buf 0 4 = k.magic), 0xFF), (decide (imgLe buf 4 1 = 1), 0xFF),
     (decide (6 ≤ n) && decide (n ≤ 32), 0xFF), (decide (len % 8 = 0) && decide (len ≤ k.maxLen), 0xFF),
     (decide (imgLe buf 15 1 = 0), 0xFF), ((imgBytes buf 32 32).all (fun b => decide (b = 0)), 0xFF)]
    ++ es.map (fun e =>
      (decide (imgLe buf (64 + 16 * e.idx + 2) 2 = 0) && decide (imgLe buf (64 + 16 * e.idx + 12) 4 = 0)
        && (if e.idx + 2 = n then decide (e.typ = 0x7E) else if e.idx + 1 = n then decide (e.typ = 0x7F)
            else k.types.contains e.typ)
        && sectPartOk e && sectLenOk n e && decide (e.off % 8 = 0) && decide (64 + 16 * n ≤ e.off)
        && decide (e.off + e.len ≤ len) && es.all (fun x => decide (x.idx = e.idx) || sectApart x e), e.idx))
    ++ (if k = usfekor then
          es.map (fun e => (sectNumberOk es e, e.idx)) ++ [(es.any (fun e => decide (e.typ = 0x02)), 0xFF)]
        else [])
    ++ [(es.all (fun e => decide (n ≤ e.idx + 2) || decide (e.off + e.len ≤ man.off)), n - 2),
        (decide (man.off + man.len ≤ sig.off), n - 1),
        ((imgBytes buf (sig.off + 1) 3).all (fun b => decide (b = 0)), n - 1),
        (buf.all (fun c => decide (c.1 < 64 + 16 * n) || decide (len ≤ c.1)
          || es.any (fun e => decide (e.off ≤ c.1) && decide (c.1 < e.off + e.len))), 0xFF)])

/-! ## Keys, digests, signature and floors (R54, R457) -/

/-- The OTP block in use (R457). -/
def State.otpBlock (s : State) : Option (List Byte) := s.otp.inUse.bind (fun i => (s.otp.areas[i]?).map (·.data))

def otpLe (b : List Byte) (off n : Nat) : Nat := leNat ((b.drop off).take n)

/-- A key slot holds this public key's digest, is not empty and is not revoked; `base` and `revoke` are where the slots
and the revoke byte stand. -/
def State.keyOk (s : State) (base revoke slot : Nat) (pub : List Byte) : Bool :=
  match s.otpBlock with
  | none => false
  | some b =>
    let d := (b.drop (base + 32 * slot)).take 32
    decide (slot < 4) && d.any (fun x => decide (x ≠ 0)) && !(otpLe b revoke 1).testBit slot && decide (Config.sha3 pub = d)

def imgSigOff (buf : List (Nat × Byte)) : Nat := (imgSect buf (imgSectCount buf - 1)).off
def imgPub (buf : List (Nat × Byte)) : List Byte := imgBytes buf (imgSigOff buf + 4) 1312

def imgManifest (buf : List (Nat × Byte)) : List Byte :=
  let m := imgSect buf (imgSectCount buf - 2)
  imgBytes buf m.off m.len

/-- The first section whose manifest entry does not match; entry 0 covers header and table. -/
def imgDigestBad (buf : List (Nat × Byte)) : Option Nat :=
  let n := imgSectCount buf
  let man := imgManifest buf
  let ent := fun i => (man.drop (32 * i)).take 32
  firstFail ((decide (Config.sha3 (imgBytes buf 0 (64 + 16 * n)) = ent 0), 0xFF) ::
    ((imgSects buf).take (n - 2)).map (fun e => (decide (Config.sha3 (imgBytes buf e.off e.len) = ent (e.idx + 1)), e.idx)))

/-! ## Consistency (R35, R48–R53) -/

def imgMask (buf : List (Nat × Byte)) : UnitMask :=
  match (imgSects buf).find? (fun e => decide (e.typ = 0x02)) with
  | none => noMask
  | some e =>
    let rd := fun o n => imgLe buf (e.off + o) n
    { tile := rd 0 8, stack := rd 8 2, nme := rd 10 2, keeper := rd 12 1, lgroup := rd 13 1, link := rd 16 4 }

def imgSectOf (buf : List (Nat × Byte)) (typ part : Nat) : Option Sect :=
  (imgSects buf).find? (fun e => decide (e.typ = typ) && decide (e.part = part))

def imgPart (buf : List (Nat × Byte)) (e : Sect) : PartCfg :=
  let rd := fun o n => imgLe buf (e.off + o) n
  let reg := ((imgSectOf buf 0x03 e.part).map (·.off)).getD 0
  let fmt := ((imgSectOf buf 0x04 e.part).map (·.off)).getD 0
  { num := rd 0 1, function := rd 1 1, quadMask := rd 2 2, keepMask := rd 4 1, lgMask := rd 5 1, ctxQuota := rd 6 2
    queQuota := rd 8 2, sesQuota := rd 12 4, intlQ := imgLe buf (reg + 2) 2
    frameQ := (List.range 12).map (fun k => imgLe buf (reg + 4 + 2 * k) 2)
    modeEn := imgLe buf (fmt + 1) 1, formatEn := imgLe buf (fmt + 2) 2 }

def imgParts (buf : List (Nat × Byte)) : List PartCfg :=
  ((imgSects buf).filter (fun e => decide (e.typ = 0x01))).map (imgPart buf)

def imgTallies (buf : List (Nat × Byte)) : List TallyAlloc :=
  match (imgSects buf).find? (fun e => decide (e.typ = 0x05)) with
  | none => []
  | some e => (List.range (e.len / 8)).map (fun i =>
      let rd := fun o n => imgLe buf (e.off + 8 * i + o) n
      ⟨rd 0 1, rd 1 1, rd 2 1, rd 3 1, rd 4 2, rd 6 1⟩)

def zeros (buf : List (Nat × Byte)) (off n : Nat) : Bool := (imgBytes buf off n).all (fun b => decide (b = 0))

/-- The rules of R48 and R35 on one partition section. -/
def partSectOk (buf : List (Nat × Byte)) (ps : List PartCfg) (m : UnitMask) (e : Sect) : Bool :=
  let c := imgPart buf e
  let tot := fun (f : PartCfg → Nat) => (ps.map f).foldl (· + ·) 0
  let once := fun (f : PartCfg → Nat) => ps.all (fun d => decide (d.num = c.num) || decide (f d &&& f c = 0))
  decide (c.num = e.part) && decide (c.function ≤ 8) && (decide (c.function ≠ 0) || decide (ps.length = 1))
    && decide (c.quadMask ≠ 0) && decide (c.quadMask < 2 ^ 12) && decide (c.lgMask < 2 ^ 6)
    && decide (1 ≤ c.ctxQuota) && decide (tot (·.ctxQuota) ≤ 256)
    && decide (1 ≤ c.queQuota) && decide (c.queQuota ≤ 16 * c.ctxQuota) && decide (tot (·.queQuota) ≤ 2048)
    && decide (tot (·.sesQuota) ≤ 65536) && zeros buf (e.off + 10) 2 && zeros buf (e.off + 16) 16
    && once (·.quadMask) && once (·.keepMask) && once (·.lgMask)
    && ps.all (fun d => decide (d.num = c.num) || decide (d.function ≠ c.function))
    && (List.range 48).any (tileIn m c) && (List.range 12).any (stackIn m c) && (List.range 8).any (kpIn m c)
    && decide (c.lgMask &&& m.lgroup = 0)

/-- The rules of R50 on one region section. -/
def regionSectOk (buf : List (Nat × Byte)) (ps : List PartCfg) (m : UnitMask) (e : Sect) : Bool :=
  match ps.find? (fun c => decide (c.num = e.part)) with
  | none => false
  | some c =>
    decide (imgLe buf e.off 1 = e.part) && zeros buf (e.off + 1) 1 && zeros buf (e.off + 28) 4
      && decide (1 ≤ c.intlQ) && decide (c.intlQ ≤ 256)
      && (List.range 12).all (fun k =>
        let f := c.frameQ.getD k 0
        (stackIn m c k && !m.nme.testBit k || decide (f = 0)) && decide (c.intlQ + f ≤ 256))

/-- The rules of R52 on one format section. -/
def formatSectOk (buf : List (Nat × Byte)) (e : Sect) : Bool :=
  let f := imgLe buf (e.off + 2) 2
  decide (imgLe buf e.off 1 = e.part) && decide (imgLe buf (e.off + 1) 1 < 64) && decide (f % 2 = 1) && decide (f < 2 ^ 13)
    && zeros buf (e.off + 4) 4

/-- The rules of R49 on the unit mask. DESIGN CHOICE: a bit of STACK_EXCL, NME_EXCL, LGROUP_EXCL or LINK_EXCL that names
no unit must be zero, as R49 asks of TILE_EXCL[63:48] only. -/
def maskSectOk (buf : List (Nat × Byte)) (e : Sect) : Bool :=
  let rd := fun o n => imgLe buf (e.off + o) n
  decide (rd 0 8 < 2 ^ 48) && decide (rd 8 2 < 2 ^ 12) && decide (rd 10 2 < 2 ^ 12) && decide (rd 13 1 < 2 ^ 6)
    && decide (rd 16 4 < 2 ^ 24) && zeros buf (e.off + 14) 2 && zeros buf (e.off + 20) 12

/-- Tallies and units of a class (R391, R53). -/
def classTallies (cls : Nat) : Nat × Nat :=
  match cls with
  | 0 => (64, 48) | 1 => (64, 12) | 2 => (32, 6) | 3 => (16, 8) | 4 => (128, 8) | 5 => (64, 1) | _ => (0, 0)

/-- The partition of a unit of a class under an image. -/
def classPart (ps : List PartCfg) (m : UnitMask) (cls u : Nat) : Option Nat :=
  (ps.find? (fun c => match cls with
    | 0 => tileIn m c u | 1 => stackIn m c u | 2 => lgIn m c u | 3 => kpIn m c u | 4 => decide (c.num = u)
    | _ => false)).map (·.num)

def tallyApart (a b : TallyAlloc) : Bool :=
  decide (a.count = 0) || decide (b.count = 0) || decide (a.cls ≠ b.cls) || decide (a.unit ≠ b.unit) || decide (a.first + a.count ≤ b.first) || decide (b.first + b.count ≤ a.first)

/-- No two entries of the list overlap. -/
def talliesApart : List TallyAlloc → Bool
  | [] => true
  | a :: rest => rest.all (tallyApart a) && talliesApart rest

/-- The rules of R53 on the tally allocation. -/
def tallySectOk (buf : List (Nat × Byte)) (ps : List PartCfg) (m : UnitMask) (e : Sect) : Bool :=
  let ts := imgTallies buf
  talliesApart ts && ts.all (fun t =>
    decide (t.first + t.count ≤ (classTallies t.cls).1) && decide (t.unit < (classTallies t.cls).2)
      && (decide (t.owner = 0xFF) || ps.any (fun c => decide (c.num = t.owner)))
      && (match classPart ps m t.cls t.unit with
          | some p => decide (t.owner = p) || decide (t.owner = 0xFF)
          | none => true))
    && (List.range (e.len / 8)).all (fun i => zeros buf (e.off + 8 * i + 7) 1)

/-- The section that the first broken rule of R35 and R48–R53 blames. -/
def imgInconsistent (buf : List (Nat × Byte)) : Option Nat :=
  let ps := imgParts buf
  let m := imgMask buf
  firstFail ((imgSects buf).map (fun e =>
    ((match e.typ with
      | 0x01 => partSectOk buf ps m e
      | 0x02 => maskSectOk buf e
      | 0x03 => regionSectOk buf ps m e
      | 0x04 => formatSectOk buf e
      | 0x05 => tallySectOk buf ps m e
      | _ => true), e.idx)))

/-- The smallest working set (R61). -/
def imgMinimum (buf : List (Nat × Byte)) : Bool :=
  let ps := imgParts buf
  let m := imgMask buf
  ps.any (fun c => (List.range 8).any (kpIn m c))
    && ps.any (fun c => (List.range 48).any (fun t => tileIn m c t && stackIn m c (quadOfTile t)))

/-! ## VERIFY (R57, R58) -/

/-- What VERIFY finds: RESULT and DETAIL of the first check that fails. -/
def State.verify (s : State) (buf : List (Nat × Byte)) : Option (Nat × Nat) :=
  let sig := imgSigOff buf
  let bind := imgBytes buf 24 8
  match imgFormatBad usfekor buf with
  | some d => some (0x01, d)
  | none =>
    if imgLe buf 12 2 ≠ 0x0768 ∨ Config.stepping.toNat < imgLe buf 14 1 then some (0x02, 0xFF)
    else if bind.any (fun b => decide (b ≠ 0)) ∧ bind ≠ (Config.sha3 Config.identityPub).take 8 then some (0x03, 0xFF)
    else if ¬ s.keyOk 64 320 (imgLe buf sig 1) (imgPub buf) then some (0x04, imgSectCount buf - 1)
    else match imgDigestBad buf with
      | some d => some (0x05, d)
      | none =>
        if ¬ Config.mldsaVerify (imgPub buf) (imgManifest buf) (imgBytes buf (sig + 1316) 2420) then
          some (0x06, imgSectCount buf - 1)
        else if imgLe buf 16 4 < ((s.otpBlock).map (fun b => otpLe b 8 4)).getD 0 then some (0x07, 0xFF)
        else match imgInconsistent buf with
          | some d => some (0x08, d)
          | none => if imgMinimum buf then none else some (0x09, 0xFF)

/-- The image that a verified buffer holds. -/
def imgCfg (buf : List (Nat × Byte)) : ImageCfg :=
  { parts := imgParts buf, mask := imgMask buf, tallies := imgTallies buf, serial := BitVec.ofNat 32 (imgLe buf 20 4)
    digest := Config.sha3 (imgManifest buf)
    sections := ((imgSects buf).filter (fun e => decide (e.typ = 0x01) || decide (e.typ = 0x03) || decide (e.typ = 0x04))).map
      (fun e => ((e.typ, e.part), imgBytes buf e.off e.len)) }

/-! ## The IMG_ commands (R55–R57) -/

/-- The OWNER code of a master. -/
def ownerCode : Master → BitVec 2
  | .pf => 1
  | .mgmt => 2
  | _ => 0

def State.imgReach (s : State) (m : Master) : Bool := s.reaches m ⟨.img, 0⟩

def State.imgOwns (s : State) (m : Master) : Bool := decide (ownerCode m ≠ 0) && decide (s.img.owner = ownerCode m)

def State.imgResult (s : State) (r : Nat) : State := { s with img := { s.img with result := BitVec.ofNat 8 r } }

/-- A write that only the owner may make: DENIED for any other master. -/
def State.imgOwned (s : State) (m : Master) (f : State) : State :=
  if ¬ s.imgReach m then s else if s.imgOwns m then f else s.imgResult 0x0C

/-- IMG_CLAIM (R55): a master claims a free buffer by its own code; the owner releases it by 0. -/
def execImgClaimWrite (m : Master) (owner : BitVec 2) (s : State) : Result :=
  .next (
    let me := ownerCode m
    if ¬ s.imgReach m ∨ me = 0 then s
    else if s.img.owner = 0 ∧ owner = me then { s with img := { s.img with owner := me } }
    else if s.img.owner = me ∧ owner = 0 then { s with img := { s.img with owner := 0 } }
    else s)

/-- FORCE of IMG_CLAIM (R55): from the management port only. -/
def execImgClaimForce (m : Master) (s : State) : Result :=
  .next (if s.imgReach m ∧ m = .mgmt then { s with img := { s.img with owner := 0 } } else s)

/-- Bytes into the image buffer; VERIFIED is cleared (R57). -/
def State.imgPut (s : State) (off : Nat) (bs : List Byte) : State :=
  let buf := (List.range bs.length).foldl (fun m i =>
    if off + i < 0x100000 then SMap.set 0 m (off + i) (bs.getD i 0) else m) s.img.buf
  { s with img := { s.img with buf := buf, verified := false } }

/-- IMG_BUF (R55, R57). -/
def execImgBufWrite (m : Master) (off : Nat) (v : W32) (s : State) : Result :=
  okIf (decide (off % 4 = 0) && decide (off < 0x100000)) (s.imgOwned m (s.imgPut off (leBytes 4 v.toNat)))

/-- A write of IMG_CMD by the owner (R43, R57): BUSY while an operation runs; else the staged fields are applied and
`f` runs. -/
def State.imgCmd (s : State) (m : Master) (f : State → State) : State :=
  s.imgOwned m (if s.img.busy.isSome then s.imgResult 0x0B else f (s.applyPart ⟨.img, 0⟩ 0))

/-- FETCH (R56): the buffer is no longer verified; the physical function asks the host for IMG_SRC_LEN bytes (R437). DESIGN
CHOICE (notes/assumptions/62.md): IMG_SRC is the host bus address. -/
def execImgFetch (m : Master) (s : State) : Result :=
  .next (s.imgCmd m (fun s => ({ s with img := { s.img with busy := some .fetch, verified := false } } : State).askBus 0
    (s.cfg .img 0 0x20 31 0 + s.cfg .img 0 0x24 31 0 * 2 ^ 32) (s.cfg .img 0 0x28 31 0)))

/-- The host's answer to a fetch, under the physical function; a failed or aborted read gives FETCH (R57, R437, R438). -/
def State.imgFetched (s : State) (data : Option (List Byte)) : State :=
  if s.img.busy ≠ some .fetch then s
  else
    let s := { s with img := { s.img with busy := none, detail := 0xFF } }
    let len := s.cfg .img 0 0x28 31 0
    match data with
    | some bs =>
      if s.hostOk 0 ∧ bs.length = len then (s.imgPut 0 bs).imgResult 0x00
      else (s.flag .pcx 0 0x14 (bit 30)).imgResult 0x0D
    | none => (s.flag .pcx 0 0x14 (bit 30)).imgResult 0x0D

/-- IMG_FETCH_DONE (R57). -/
def execImgFetchDone (data : Option (List Byte)) (s : State) : Result := .next (s.imgFetched data)

/-- VERIFY (R58) begins. -/
def execImgVerify (m : Master) (s : State) : Result :=
  .next (s.imgCmd m (fun s => { s with img := { s.img with busy := some .verify } }))

/-- CLEAR (R56). -/
def execImgClear (m : Master) (s : State) : Result :=
  .next (s.imgCmd m (fun s => { s with img := { s.img with buf := [], verified := false, detail := 0xFF, result := 0 } }))

/-- VERIFY ends: VERIFIED, RESULT and DETAIL (R57). -/
def State.verifyEnd (s : State) : State :=
  let s := match s.verify s.img.buf with
    | none => { s with img := { s.img with busy := none, verified := true, detail := 0xFF, result := 0 } }
    | some (r, d) =>
      { s with img := { s.img with busy := none, verified := false, detail := BitVec.ofNat 8 d, result := BitVec.ofNat 8 r } }
  s.alert (bit 28)

end Sys2Proof.Machine
end

