-- ==== Sys2Proof/Machine/Sessions.lean ====
section
/-!
DEFINITION. Sessions and the prefix table (R311–R325): the operations of SES_CMD, FORK, ATTACH and PUBLISH, spilling and
fetching a session, ticks, pins, and the two latches that read the tables.
-/
namespace Sys2Proof.Machine

/-! ## What the operations share (R315) -/

def State.sesArg (s : State) (p i : Nat) : Nat := s.rw .ses p (0x10 + 4 * i) 31 0
def State.setSesArg (s : State) (p i v : Nat) : State := s.setPlain .ses p (0x10 + 4 * i) (BitVec.ofNat 32 v)

/-- RESULT of SES_STATUS; the operation is over. -/
def State.sesResult (s : State) (p : Nat) (r : Byte) : State := s.setSes p { s.ses p with op := none, result := r }

/-- RESULT of a write that is ignored; a running operation goes on. -/
def State.sesRefuse (s : State) (p : Nat) (r : Byte) : State := s.setSes p { s.ses p with result := r }

/-- Who may write SES_CMD, and BUSY. -/
def State.sesCmd (s : State) (m : Master) (p : Nat) (f : State) : State :=
  if ¬ s.reaches m ⟨.ses, p⟩ ∨ (s.cfgOf p).isNone then s
  else if ¬ s.fnOrKp m p then s.sesRefuse p 0x09
  else if (s.ses p).op.isSome then s.sesRefuse p 0x01
  else f

/-- An operation on the live session that argument `i` names; STALE where it names none. `f` takes its slot. -/
def State.onSession (s : State) (p i : Nat) (f : Nat → State) : State :=
  let h := BitVec.ofNat 32 (s.sesArg p i)
  if s.liveSes p h then f (handleSlot h) else s.sesResult p 0x02

/-- A session entry with the policy word's fields (R315). -/
def SesEnt.policyWord (e : SesEnt) (w : Nat) : SesEnt :=
  { e with policy := decide (bitsOf w 31 31 = 1), pool := bitsOf w 30 27, protWin := bitsOf w 26 23
           protHead := bitsOf w 22 21, place := bitsOf w 20 17 }

/-- GEN of the next OPEN of a slot (R313). -/
def nextGen (g : BitVec 16) : BitVec 16 := if g = 0xFFFE then 1 else g + 1

/-- The lowest FREE slot, opened with the policy of ARG1 (R314, R315); none where every slot is in use. -/
def State.openSlot (s : State) (p : Nat) : Option (Nat × State) :=
  let used := ((s.ses p).slots.filter (fun e => decide (e.2.st ≠ .free))).map (·.1)
  let slot := firstGap 0 used
  if slot < s.sesQuota p then
    let e := { SesEnt.reset with st := .opened, gen := nextGen (s.sesEnt p slot).gen }
    some (slot, s.setSesEnt p slot (e.policyWord (s.sesArg p 1)))
  else none

/-- OPEN (R315). -/
def execSesCmdOpen (m : Master) (p : Fin 8) (s : State) : Result :=
  .next (s.sesCmd m p.val (
    match s.openSlot p.val with
    | none => s.sesResult p.val 0x04
    | some (slot, s) =>
      (s.setSesArg p.val 0 (handleOf slot (s.sesEnt p.val slot).gen).toNat).sesResult p.val 0x00))

/-! ## CLOSE (R316) -/

/-- An entry of the session still holds frames, or waits for a frame. -/
def State.sesHeld (s : State) (p slot : Nat) : Bool :=
  (s.frameStacks p).any (fun k =>
    match s.nmeOp k with
    | some (o, c, _, _) => !(atExplicit c) && o.entries.any (fun e =>
        !e.written && decide (handleSlot (enSession e.words) = slot) && (decide (e.held ≠ []) || e.waiting))
    | none => false)

/-- A record of the session is being copied out. -/
def State.sesSpilling (s : State) (p slot : Nat) : Bool :=
  (s.frameStacks p).any (fun k => ((s.kvf k).sesMembers slot).any (fun m =>
    match m with
    | .spilled i => decide (((s.kvf k).rcd i).st = .spilling)
    | .frame _ => false))

/-- The members and directory entries of a session leave one stack (R316). -/
def Kvf.closeSlot (v : Kvf) (slot : Nat) : Kvf :=
  let v' := (v.sesMembers slot).foldl (fun v m =>
    match m with
    | .frame f => v.decRef f
    | .spilled i => v.setRcd i .reset) v
  { v' with dir := v'.dir.filter (fun d => decide (d.slot ≠ slot)) }

/-- The slot becomes FREE, its GEN kept. -/
def State.closeSession (s : State) (p slot : Nat) : State :=
  let s := (s.frameStacks p).foldl (fun s k => s.setKvf k ((s.kvf k).closeSlot slot)) s
  s.setSesEnt p slot { SesEnt.reset with gen := (s.sesEnt p slot).gen }

/-- CLOSE (R316): the session is CLOSING at once; what it holds is released once its holds end. -/
def execSesCmdClose (m : Master) (p : Fin 8) (s : State) : Result :=
  .next (s.sesCmd m p.val (s.onSession p.val 0 (fun slot =>
    let s := s.setSesEnt p.val slot { s.sesEnt p.val slot with st := .closing }
    s.setSes p.val { s.ses p.val with op := some (.close slot) })))

/-- CLOSE_HOLDS_END (R316): the holds have ended; references, records and directory entries are released. -/
def execCloseHoldsEnd (p : Fin 8) (s : State) : Result :=
  .next (
    match (s.ses p.val).op with
    | some (.close slot) =>
      if s.sesHeld p.val slot ∨ s.sesSpilling p.val slot then s else (s.closeSession p.val slot).sesResult p.val 0x00
    | _ => s)

/-! ## SET and FORK (R315, R316) -/

/-- Whether a session has a chain in any stack. -/
def State.hasChain (s : State) (p slot : Nat) : Bool :=
  (s.frameStacks p).any (fun k => (s.kvf k).dir.any (fun d => decide (d.slot = slot)))

/-- SET (R315): a change of PLACE while a chain exists gives STATE. -/
def execSesCmdSet (m : Master) (p : Fin 8) (s : State) : Result :=
  .next (s.sesCmd m p.val (s.onSession p.val 0 (fun slot =>
    let e := s.sesEnt p.val slot
    let e' := e.policyWord (s.sesArg p.val 1)
    if e'.place ≠ e.place ∧ s.hasChain p.val slot then s.sesResult p.val 0x03
    else (s.setSesEnt p.val slot e').sesResult p.val 0x00)))

/-- The child's directory copies the parent's in one stack; every frame gains a reference (R316). -/
def Kvf.forkSlot (v : Kvf) (parent child : Nat) : Kvf :=
  let v' := ((v.sesMembers parent).filterMap (·.frame?)).foldl (fun v f => v.incRef f) v
  { v' with dir := v'.dir ++ (v.dir.filter (fun d => decide (d.slot = parent))).map (fun d => { d with slot := child }) }

/-- FORK (R316): SHARED where the parent has spill records. -/
def execFork (m : Master) (p : Fin 8) (s : State) : Result :=
  .next (s.sesCmd m p.val (s.onSession p.val 2 (fun parent =>
    if (s.frameStacks p.val).any (fun k => ((s.kvf k).sesMembers parent).any (fun x => (x.rec?).isSome)) then
      s.sesResult p.val 0x07
    else
      match s.openSlot p.val with
      | none => s.sesResult p.val 0x04
      | some (child, s) =>
        let s := (s.frameStacks p.val).foldl (fun s k => s.setKvf k ((s.kvf k).forkSlot parent child)) s
        (s.setSesArg p.val 0 (handleOf child (s.sesEnt p.val child).gen).toNat).sesResult p.val 0x00)))

/-! ## The prefix table (R317–R320) -/

/-- PFX_CAP (R318). -/
def State.pfxCap (s : State) (p : Nat) : Nat :=
  2 * ((s.cfgOf p).map (fun c => ((partStacks s.mask c).map (frameCount c)).foldl (· + ·) 0)).getD 0 / 3

/-- The layers and groups that ARG5 names. -/
def State.argChains (s : State) (p : Nat) : List (Nat × Nat) :=
  let w := s.sesArg p 5
  (List.range (bitsOf w 31 20 + 1)).flatMap (fun l =>
    (List.range (bitsOf w 11 4 + 1)).map (fun g => (l, bitsOf w 19 12 + g)))

/-- Where a hash list stands: at the address of ARG2 and ARG3, or, for a list that the runtime copies from a session
record, at a translated address of a local context (R378). -/
inductive HashList where
  | args
  | at_ (lc va : Nat)
  deriving DecidableEq, Repr

/-- A hash at a physical address: device memory of the partition, or the host aperture. -/
def State.readHashAt (s : State) (p a : Nat) : Option Nat × State :=
  if a % 8 ≠ 0 then (none, s)
  else match physAt a with
    | .host =>
      (match s.hostRead (s.fnOf p) a 8 with
       | (some bs, s) => (some (leNat bs), s)
       | (none, s) => (none, s))
    | .stack k => (if s.inPartStacks p a 8 ∧ s.stackUp k ∧ ¬ s.poisoned a 8 then some (s.readLe a 8) else none, s)
    | .scratch t => (if s.partOfTile t = some p ∧ s.tileOn t then some (s.readLe a 8) else none, s)
    | _ => (none, s)

/-- Hash `b` of a list that ARG2 and ARG3 place. -/
def State.readHashArg (s : State) (p b : Nat) : Option Nat × State :=
  s.readHashAt p (s.sesArg p 2 + bitsOf (s.sesArg p 3) 15 0 * 2 ^ 32 + 8 * b)

/-- Hash `b` of a list. -/
def State.readHash (s : State) (p : Nat) (l : HashList) (b : Nat) : Option Nat × State :=
  match l with
  | .args => s.readHashArg p b
  | .at_ lc va =>
    if va % 8 ≠ 0 then (none, s)
    else match s.loadVa (tlbPart p) p lc (va + 8 * b) 8 with
      | (.ok bs, s) => (some (leNat bs), s)
      | (.error _, s) => (none, s)

/-- A prefix entry of a key. -/
def State.pfxFind (s : State) (p hash layer group : Nat) : Option PfxEnt :=
  (s.part p).pfx.find? (fun e => decide (e.hash.toNat = hash) && decide (e.layer = layer) && decide (e.group = group))

/-- A hit of ATTACH (R320): stack and frame. -/
def State.attachHit (s : State) (p b hash : Nat) (lg : Nat × Nat) : Option (Nat × Nat) :=
  match s.pfxFind p hash lg.1 lg.2 with
  | none => none
  | some e =>
    let f := (s.kvf e.stack).frame e.frame
    if f.st = .live ∧ f.pub ∧ f.hash.toNat = hash ∧ f.pos0 = 512 * b then some (e.stack, e.frame) else none

/-- Attach the blocks from `b` on; `fuel` blocks remain: the blocks attached, or none where the hash list failed. -/
def State.attachFrom (s : State) (p slot : Nat) (chains : List (Nat × Nat)) (l : HashList) (b : Nat) :
    Nat → (Nat × Bool) × State
  | 0 => ((b, true), s)
  | fuel + 1 =>
    match s.readHash p l b with
    | (none, s) => ((b, false), s)
    | (some h, s) =>
      let hits := chains.map (s.attachHit p b h)
      if hits.any (·.isNone) then ((b, true), s)
      else
        let s := (chains.zip hits).foldl (fun s x =>
          match x.2 with
          | some (k, f) =>
            s.setKvf k (((s.kvf k).incRef f).updDir slot x.1.1 x.1.2 (fun d => { d with last := some (.frame f) }))
          | none => s) s
        s.attachFrom p slot chains l (b + 1) fuel

/-- NEXT_POS of each named chain in its tail stack (R320). -/
def State.setNextPos (s : State) (p slot n : Nat) (chains : List (Nat × Nat)) : State :=
  chains.foldl (fun s x =>
    let k := s.tailStack p slot x.1 x.2
    s.setKvf k ((s.kvf k).updDir slot x.1 x.2 (fun d => { d with nextPos := n }))) s

/-- Attach the prefix that a hash list names (R320). -/
def State.attachList (s : State) (p slot : Nat) (l : HashList) : State :=
  if s.hasChain p slot then s.sesResult p 0x03
  else
    let chains := s.argChains p
    match s.attachFrom p slot chains l 0 (s.sesArg p 4) with
    | ((n, ok), s) =>
      let s := if n = 0 then s else s.setNextPos p slot (512 * n) chains
      (s.setSesArg p 4 n).sesResult p (if ok then 0x00 else 0x06)

/-- ATTACH (R320). -/
def execAttach (m : Master) (p : Fin 8) (s : State) : Result :=
  .next (s.sesCmd m p.val (s.onSession p.val 0 (fun slot => s.attachList p.val slot .args)))

/-- The frame of a session's chain that holds a position, in any stack of the partition. -/
def State.frameAtPos (s : State) (p slot layer group pos : Nat) : Option (Nat × Nat) :=
  (s.frameStacks p).findSome? (fun k =>
    (((s.kvf k).members slot layer group).filterMap (·.frame?)).findSome? (fun f =>
      let e := (s.kvf k).frame f
      if e.pos0 ≤ pos ∧ pos < e.pos0 + e.valid then some (k, f) else none))

/-- Enter the frames of one block, chain by chain (R319): the RESULT that stops the operation, or 0. -/
def State.publishBlock (s : State) (p slot b hash : Nat) : List (Nat × Nat) → Byte × State
  | [] => (0x00, s)
  | lg :: rest =>
    if (s.pfxFind p hash lg.1 lg.2).isSome then s.publishBlock p slot b hash rest
    else match s.frameAtPos p slot lg.1 lg.2 (512 * b) with
      | none => (0x03, s)
      | some (k, f) =>
        let e := (s.kvf k).frame f
        if e.tpf = 512 ∧ e.valid = 512 ∧ e.pos0 = 512 * b ∧ e.st = .live then
          let x := s.part p
          if s.pfxCap p ≤ x.pfx.length then (0x04, s)
          else
            let s := s.setPart p { x with pfx := x.pfx ++ [⟨BitVec.ofNat 64 hash, lg.1, lg.2, k, f⟩] }
            let s := s.setKvf k ((s.kvf k).setFrame f { e with pub := true, hash := BitVec.ofNat 64 hash, refs := e.refs + 1 })
            s.publishBlock p slot b hash rest
        else (0x08, s)

/-- Publish the blocks from `b` on; `fuel` blocks remain: the complete blocks and the RESULT. -/
def State.publishFrom (s : State) (p slot : Nat) (chains : List (Nat × Nat)) (l : HashList) (b : Nat) :
    Nat → (Nat × Byte) × State
  | 0 => ((b, 0x00), s)
  | fuel + 1 =>
    match s.readHash p l b with
    | (none, s) => ((b, 0x06), s)
    | (some h, s) =>
      match s.publishBlock p slot b h chains with
      | (0x00, s) => s.publishFrom p slot chains l (b + 1) fuel
      | (r, s) => ((b, r), s)

/-- Publish the blocks of a hash list (R319). -/
def State.publishList (s : State) (p slot : Nat) (l : HashList) : State :=
  match s.publishFrom p slot (s.argChains p) l 0 (s.sesArg p 4) with
  | ((n, r), s) => (s.setSesArg p 4 n).sesResult p r

/-- PUBLISH (R319). -/
def execPublish (m : Master) (p : Fin 8) (s : State) : Result :=
  .next (s.sesCmd m p.val (s.onSession p.val 0 (fun slot => s.publishList p.val slot .args)))

/-! ## SPILL (R310, R315) -/

/-- The frames of a session in stack `k` at or above `f0` that SPILL takes: LIVE, REFS 1, PUB 0, PIN 0, HOLDS 0. -/
def Kvf.spillable (v : Kvf) (slot f0 : Nat) : List Nat :=
  (((v.sesMembers slot).filterMap (·.frame?)).filter (fun f =>
    let e := v.frame f
    decide (f0 ≤ f) && decide (e.st = .live) && decide (e.refs = 1) && !e.pub && !e.pin && decide (e.holds = 0))).mergeSort
      (fun a b => decide (a ≤ b))

/-- Look on from a stack and frame for the next frame to spill. -/
def State.spillNext (s : State) (p slot done : Nat) (at_ : Nat × Nat) : State :=
  let ks := (s.frameStacks p).filter (fun k => decide (at_.1 ≤ k))
  match ks.findSome? (fun k => (((s.kvf k).spillable slot (if k = at_.1 then at_.2 else 0)).head?).map (fun f => (k, f))) with
  | none => (s.setSesArg p 4 done).sesResult p 0x00
  | some (k, f) =>
    match s.freeRec k with
    | none => (s.setSesArg p 4 done).sesResult p 0x04
    | some i => (s.spillStart k f i .command).setSes p { s.ses p with op := some (.spill slot done (k, f + 1)) }

/-- SPILL (R315): the first frame's copy starts. -/
def execSesCmdSpill (m : Master) (p : Fin 8) (s : State) : Result :=
  .next (s.sesCmd m p.val (s.onSession p.val 0 (fun slot => s.spillNext p.val slot 0 (0, 0))))

/-! ## FETCH (R311) -/

/-- A frame is there for the record: the copy in begins. -/
def State.fetchInto (s : State) (p k i f slot done : Nat) : State :=
  let v := s.kvf k
  let r := v.rcd i
  let v := (v.setRcd i { r with st := .fetching }).setFrame f
    { FrameEnt.reset with st := .inbound, pool := r.ent.pool }
  (s.setKvf k { v with fetchOp := some (i, f) }).setSes p { s.ses p with op := some (.fetch slot done (k, i + 1)) }

/-- The records of a session in stack `k` at or above `i0` that read SPILLED, ascending. -/
def Kvf.fetchable (v : Kvf) (slot i0 : Nat) : List Nat :=
  (((v.sesMembers slot).filterMap (·.rec?)).filter (fun i =>
    decide (i0 ≤ i) && decide ((v.rcd i).st = .spilled))).mergeSort (fun a b => decide (a ≤ b))

/-- Look on from a stack and record for the next record to fetch. -/
def State.fetchNext (s : State) (p slot done : Nat) (at_ : Nat × Nat) : State :=
  let ks := (s.frameStacks p).filter (fun k => decide (at_.1 ≤ k))
  match ks.findSome? (fun k => (((s.kvf k).fetchable slot (if k = at_.1 then at_.2 else 0)).head?).map (fun i => (k, i))) with
  | none => (s.setSesArg p 4 done).sesResult p 0x00
  | some (k, i) =>
    match s.alloc k p ((s.kvf k).rcd i).ent.pool .fetch nobody with
    | (.got f, s) => s.fetchInto p k i f slot done
    | (.wait, s) => s.setSes p { s.ses p with op := some (.fetch slot done (k, i)) }
    | (.exhausted, s) => (s.setSesArg p 4 done).sesResult p 0x05

/-- FETCH (R311): the first record's frame is allocated. -/
def execSesCmdFetch (m : Master) (p : Fin 8) (s : State) : Result :=
  .next (s.sesCmd m p.val (s.onSession p.val 0 (fun slot => s.fetchNext p.val slot 0 (0, 0))))

/-- A fetched frame goes LIVE and takes every link of its record, which becomes FREE (R311). -/
def Kvf.fetchEnd (v : Kvf) (i f : Nat) : Kvf :=
  let v := v.setFrame f { (v.rcd i).ent with st := .live, holds := 0 }
  let v := (v.relink (.spilled i) (some (.frame f))).setRcd i .reset
  { v with fetchOp := none }

/-- FETCH_COPY_DONE (R311): `data` is what the host answered; an error frees the frame and stops FETCH with ADDRESS. -/
def execFetchCopyDone (k : Fin 12) (data : Option (List Byte)) (s : State) : Result :=
  .next (
    let p := s.stackPart k.val
    match (s.kvf k.val).fetchOp, (s.ses p).op with
    | some (i, f), some (.fetch slot done at_) =>
      match (if s.hostOk (s.fnOf p) then data else none) with
      | some bs =>
        let s := s.writeBytes (s.frameBase k.val f) ((bs ++ List.replicate 131072 0).take 131072)
        let s := (s.setKvf k.val ((s.kvf k.val).fetchEnd i f)).ledgerEvict k.val f 2 ((s.kvf k.val).rcd i).ent nobody
        s.fetchNext p slot (done + 1) at_
      | none =>
        let s := s.flag .pcx 0 0x14 (bit 30)
        let v := s.kvf k.val
        let v := (v.setFrame f .reset).setRcd i { v.rcd i with st := .spilled }
        ((s.setKvf k.val { v with fetchOp := none }).setSesArg p 4 done).sesResult p 0x06
    | _, _ => s)

/-! ## The end of a spill copy (R310) -/

/-- SPILL_COPY_DONE (R310): the copy of the oldest spill ends, and whoever asked for the frame goes on: an append, a
FETCH, or the SPILL operation. The copy passes the page mover (R271): a poisoned line stops it before its 4 KiB unit is
written; DEDUCED (log 93): it then ends as by a failed host write. -/
def execSpillCopyDone (k : Fin 12) (ok : Bool) (s : State) : Result :=
  .next (
    let p := s.stackPart k.val
    match (s.kvf k.val).spill with
    | [] => s
    | o :: _ =>
      let fn := s.fnOf p
      let base := s.frameBase k.val o.frame
      let bad := (List.range 32).find? (fun i => s.poisoned (base + 4096 * i) 4096)
      let sent := ok && s.hostOk fn
      let s := if ¬ sent then s.flag .pcx 0 0x14 (bit 30)
        else if bad = some 0 then s
        else s.hostWrite fn (s.spillAddr k.val o.recNo) (s.readBytes base (4096 * bad.getD 32)) true
      let ok := sent && bad.isNone
      let s := s.spillEnd k.val p o ok (match o.forW with
        | .append _ => s.whoNme k.val
        | _ => nobody)
      match o.forW, (s.ses p).op with
      | .append _, _ => s.resumeAppend k.val o.frame
      | .fetch, some (.fetch slot done at_) =>
        if at_.1 = k.val ∧ ((s.kvf k.val).rcd at_.2).st = .spilled then
          (s.countStack k.val 0x020A 1 nobody).fetchInto p k.val at_.2 o.frame slot done
        else s.fetchNext p slot done at_
      | .command, some (.spill slot done at_) =>
        if ok then s.spillNext p slot (done + 1) at_ else (s.setSesArg p 4 done).sesResult p 0x06
      | _, _ => s)

/-! ## UNPARK, TICK, PIN, PFX_FLUSH (R307, R312, R315) -/

/-- UNPARK (R312). -/
def execUnpark (m : Master) (p : Fin 8) (s : State) : Result :=
  .next (s.sesCmd m p.val (s.onSession p.val 0 (fun slot =>
    (s.setSesEnt p.val slot { s.sesEnt p.val slot with parked := false }).sesResult p.val 0x00)))

/-- An entry as a tick leaves it: brought up to date at least once in 16,384 ticks, at moments the spec leaves open, which
bit `i` of a free value picks (R307). -/
def State.tickEnt (s : State) (k i : Nat) (e : FrameEnt) : FrameEnt :=
  if 16383 ≤ ((s.kvf k).epoch - e.epoch).toNat ∨ (Config.freeNat s.free).testBit i then
    s.rescore k e (.fin false 0 0) (Config.freeNat (s.free + 1 + i))
  else e

/-- The epoch of a stack advances; the entries of its frames and of its spill records follow (R307, R310). -/
def State.tickStack (s : State) (k : Nat) : State :=
  let v := s.kvf k
  let s := s.setKvf k { v with epoch := v.epoch + 1 }
  let v := s.kvf k
  let n := s.frameN k
  let frames := v.frames.map (fun e => (e.1, s.tickEnt k e.1 e.2))
  let recs := v.recs.map (fun e => if e.2.st = .free then e else (e.1, { e.2 with ent := s.tickEnt k (n + e.1) e.2.ent }))
  let s := s.setKvf k { v with frames := frames.filter (fun e => decide (e.2 ≠ .reset)), recs := recs }
  { s with free := s.free + 1 + n + (v.recs.map (·.1 + 1)).foldl max 0 }

/-- TICK (R307): E advances in every stack of the partition. -/
def execTick (m : Master) (p : Fin 8) (s : State) : Result :=
  .next (s.sesCmd m p.val (((s.stacksOf p.val).foldl (fun s k => s.tickStack k) s).sesResult p.val 0x00))

/-- PIN of the session's frames of the named chains below a position, in one stack. -/
def Kvf.pinSlot (v : Kvf) (slot below : Nat) (pin : Bool) (chains : List (Nat × Nat)) : Kvf :=
  (chains.flatMap (fun x => (v.members slot x.1 x.2).filterMap (·.frame?))).foldl (fun v f =>
    let e := v.frame f
    if e.pos0 < below then v.setFrame f { e with pin := pin } else v) v

/-- PIN (R315). -/
def execPin (m : Master) (p : Fin 8) (s : State) : Result :=
  .next (s.sesCmd m p.val (s.onSession p.val 0 (fun slot =>
    let pin := decide (s.sesArg p.val 1 % 2 = 0)
    let chains := s.argChains p.val
    let below := s.sesArg p.val 4
    ((s.frameStacks p.val).foldl (fun s k => s.setKvf k ((s.kvf k).pinSlot slot below pin chains)) s).sesResult p.val 0x00)))

/-- Every prefix entry is removed, and each frame loses its PUB reference (R315, R316). -/
def State.flushPfx (s : State) (p : Nat) : State :=
  let es := (s.part p).pfx
  let s := s.setPart p { s.part p with pfx := [] }
  es.foldl (fun s e =>
    let v := s.kvf e.stack
    s.setKvf e.stack ((v.setFrame e.frame { v.frame e.frame with pub := false, hash := 0 }).decRef e.frame)) s

/-- PFX_FLUSH (R315). -/
def execPfxFlush (m : Master) (p : Fin 8) (s : State) : Result :=
  .next (s.sesCmd m p.val ((s.flushPfx p.val).sesResult p.val 0x00))

/-! ## Reading the tables (R301, R314, R323, R324) -/

def frameStCode : FrameSt → Nat
  | .free => 0 | .live => 1 | .outbound => 2 | .inbound => 3
def recStCode : RecSt → Nat
  | .free => 0 | .spilling => 1 | .spilled => 2 | .fetching => 3
def sesStCode : SesSt → Nat
  | .free => 0 | .opened => 1 | .closing => 2

/-- TPF_CODE (R301). -/
def tpfCode (tpf : Nat) : Nat :=
  match tpf with
  | 0 => 0 | 256 => 0 | 512 => 1 | 1024 => 2
  | _ => Config.tpf128.toNat

/-- 64-bit words as 32-bit ones, least significant first. -/
def halves (ws : List Nat) : List W32 := ws.flatMap (fun w => [BitVec.ofNat 32 w, BitVec.ofNat 32 (w / 2 ^ 32)])

/-- The 32 bytes of a frame entry, or of the entry a spill record holds under the record's STATE (R301, R310). -/
def entryWords (st : Nat) (e : FrameEnt) : List W32 :=
  let link := match e.pred with
    | none => 0
    | some (.frame n) => 2 ^ 20 + n
    | some (.spilled n) => 2 ^ 20 + 2 ^ 19 + n
  halves [
    st * 2 ^ 61 + (if e.pin then 2 ^ 60 else 0) + (if e.pub then 2 ^ 59 else 0) + e.holds * 2 ^ 56 + e.refs * 2 ^ 39
      + e.pool * 2 ^ 35 + tpfCode e.tpf * 2 ^ 32 + e.pos0,
    e.score.toNat * 2 ^ 48 + e.epoch.toNat * 2 ^ 32 + e.layer * 2 ^ 20 + e.group * 2 ^ 12 + e.valid,
    e.owner.toNat * 2 ^ 32 + link,
    e.hash.toNat]

/-- KVF_ENTRY_SEL_WRITE (R323): only the physical function and the keeper pairs of the stack's partition. -/
def execKvfEntrySelWrite (m : Master) (k : Fin 12) (w : W32) (s : State) : Result :=
  .next (
    if s.reaches m ⟨.kvf, k.val⟩ ∧ s.pfOrKp m (s.stackPart k.val) then
      let s := s.setPlain .kvf k.val 0x200 (w &&& regMask .kvf 0x200 .rw)
      let v := s.kvf k.val
      let i := bitsOf w.toNat 18 0
      let ws := if w.getLsbD 31 then entryWords (recStCode (v.rcd i).st) (v.rcd i).ent
        else entryWords (frameStCode (v.frame i).st) (v.frame i)
      s.setKvf k.val { v with latch := ws }
    else s)

/-- FRAMES and SPILLED of a session (R314). -/
def State.sesFrames (s : State) (p slot : Nat) : Nat :=
  (s.frameStacks p).foldl (fun a k => a + (((s.kvf k).sesMembers slot).filterMap (·.frame?)).length) 0
def State.sesSpilled (s : State) (p slot : Nat) : Nat :=
  (s.frameStacks p).foldl (fun a k => a + ((((s.kvf k).sesMembers slot).filterMap (·.rec?)).filter (fun i =>
    decide (((s.kvf k).rcd i).st = .spilled) || decide (((s.kvf k).rcd i).st = .fetching))).length) 0

/-- The 32 bytes of a session entry (R314). -/
def State.sesWords (s : State) (p slot : Nat) : List W32 :=
  let e := s.sesEnt p slot
  halves [
    sesStCode e.st * 2 ^ 61 + (if e.policy then 2 ^ 60 else 0) + e.pool * 2 ^ 56 + e.protWin * 2 ^ 52 + e.protHead * 2 ^ 50
      + e.place * 2 ^ 46 + e.gen.toNat * 2 ^ 16,
    e.dropped.toNat * 2 ^ 32 + s.sesFrames p slot,
    (if e.parked then 2 ^ 63 else 0) + e.parkLayer * 2 ^ 48 + e.parkGroup * 2 ^ 40 + e.parkStack * 2 ^ 36
      + e.parkPool * 2 ^ 32 + e.parkPos.toNat,
    s.sesSpilled p slot]

/-- SES_SEL_WRITE (R324): a write latches the slot's entry. -/
def execSesSelWrite (m : Master) (p : Fin 8) (w : W32) (s : State) : Result :=
  .next (
    if ¬ s.reaches m ⟨.ses, p.val⟩ ∨ (s.cfgOf p.val).isNone then s
    else if s.fnOrKp m p.val then
      let s := s.setPlain .ses p.val 0x30 (w &&& regMask .ses 0x30 .rw)
      s.setSes p.val { s.ses p.val with latch := s.sesWords p.val (bitsOf w.toNat 15 0) }
    else s.sesRefuse p.val 0x09)

/-! ## What survives a partition reset (R322) -/

/-- An interrupted spill gives its entry back to its frame, an interrupted fetch ends, and every hold ends. -/
def Kvf.interrupt (v : Kvf) : Kvf :=
  let v := v.spill.foldl (fun v o =>
    let r := v.rcd o.recNo
    let v := v.setFrame o.frame { r.ent with st := .live, holds := 0 }
    (v.relink (.spilled o.recNo) (some (.frame o.frame))).setRcd o.recNo .reset) v
  let v := match v.fetchOp with
    | some (i, f) => (v.setFrame f .reset).setRcd i { v.rcd i with st := .spilled }
    | none => v
  { v with spill := [], fetchOp := none
           frames := (v.frames.map (fun e => (e.1, { e.2 with holds := 0 }))).filter (fun e => decide (e.2 ≠ .reset)) }

end Sys2Proof.Machine
end

