-- ==== Sys2Proof/Machine/Observe.lean ====
section
/-!
DEFINITION. Handshake channels, and what observes the device (R31, R32, R391–R416): flit transfers and their counts,
clearing tallies, the fog signal, freezing and thawing, the ledger's commands and bursts, and the watch's commands.
-/
namespace Sys2Proof.Machine

/-! ## Handshake channels (R17–R20, R31, R32) -/

def endCode : ChanEnd → Nat
  | .router t port => t.val * 8 + port.val
  | .tile t => 384 + t.val
  | .edge k i => 432 + 2 * k.val + i.val
  | .lg g => 456 + g.val
  | .kp p => 462 + p.val
  | .io h => 470 + h.val
  | .l3 h => 472 + h.val

def chanKey (a b : ChanEnd) : Nat := endCode a * 512 + endCode b

/-- The attachment router of an edge port (R17). -/
def edgeRouter (k i : Nat) : Nat := k / 6 * 24 + k % 6 / 3 * 18 + 2 * (k % 3) + i

/-- The half whose edge trunk an end stands on, if it is a unit of a trunk (R20). -/
def trunkHalf : ChanEnd → Option Nat
  | .lg g => some (g.val / 3)
  | .kp p => some (p.val / 4)
  | .io h => some h.val
  | .l3 h => some h.val
  | _ => none

/-- The half whose trunk an outer-column router's port 6 joins: column 0 of half 0, column 5 of half 1. -/
def outerHalf (t : Nat) : Option Nat :=
  if t < 24 ∧ t % 6 = 0 then some 0 else if 24 ≤ t ∧ t % 6 = 5 then some 1 else none

/-- Ends that a channel joins, in one of the two orders. -/
def joins (a b : ChanEnd) : Bool :=
  match a, b with
  | .router t p, .tile u => decide (p.val = 0) && decide (t.val = u.val)
  | .router t p, .edge k i => decide (p.val = 5) && decide (t.val = edgeRouter k.val i.val)
  | .router t p, .router u r =>
    let half := decide (t.val / 24 = u.val / 24)
    (decide (p.val = 1) && decide (r.val = 2) && half && decide (t.val = u.val + 6))
      || (decide (p.val = 3) && decide (r.val = 4) && half && decide (t.val = u.val + 1) && decide (t.val % 6 ≠ 0))
      || (decide (p.val = 6) && decide (r.val = 6) && decide (t.val < 24) && decide (t.val % 6 = 5)
            && decide (u.val = t.val + 19))
  | .router t p, x => decide (p.val = 6) && (outerHalf t.val).isSome && decide (trunkHalf x = outerHalf t.val)
  | x, y => (trunkHalf x).isSome && decide (trunkHalf x = trunkHalf y) && decide (x ≠ y)

def joined (a b : ChanEnd) : Bool := joins a b || joins b a

/-! ## Paths on the mesh spine (R21) -/

/-- A router by half, row and column. -/
def routerAt (h r c : Nat) : Nat := 24 * h + 6 * r + c
def rowOf (t : Nat) : Nat := t % 24 / 6
def colOf (t : Nat) : Nat := t % 6

/-- The bridge column and the outer column of a half (R20). -/
def bridgeCol (h : Nat) : Nat := if h = 0 then 5 else 0
def outerCol (h : Nat) : Nat := if h = 0 then 0 else 5

/-- From `a` to `b` one by one, both included. -/
def steps (a b : Nat) : List Nat :=
  if a ≤ b then (List.range (b - a + 1)).map (a + ·) else (List.range (a - b + 1)).map (a - ·)

/-- Inside one half: along the row, then along the column. -/
def halfRoute (t u : Nat) : List Nat :=
  let h := t / 24
  (steps (colOf t) (colOf u)).map (routerAt h (rowOf t)) ++
    ((steps (rowOf t) (rowOf u)).drop 1).map (fun r => routerAt h r (colOf u))

/-- From router `t` to router `u`; to the other half by the bridge in the row of `t`. -/
def meshRoute (t u : Nat) : List Nat :=
  let h := t / 24
  let g := u / 24
  if h = g then halfRoute t u
  else (steps (colOf t) (bridgeCol h)).map (routerAt h (rowOf t)) ++ halfRoute (routerAt g (rowOf t) (bridgeCol g)) u

/-- The half a port stands in. -/
def portHalf : Port → Nat
  | .tile t => t.val / 24
  | .stack k => k.val / 6
  | .lg g => g.val / 3
  | .kp p => p.val / 4
  | .l3 h => h.val
  | .io h => h.val

/-- The trunk row of a unit on an edge trunk. -/
def portTrunkRow : Port → Option Nat
  | .lg g => some (g.val % 3)
  | .kp p => some (p.val % 4)
  | .l3 _ => some 0
  | .io _ => some 0
  | _ => none

def portIsTrunk (p : Port) : Bool := (portTrunkRow p).isSome

/-- The column by which the other side of a transfer with a stack chooses its attachment router: a tile's own, the outer
column for a unit on a trunk, and an even one between two stacks. -/
def portParityCol : Port → Nat
  | .tile t => colOf t.val
  | .stack _ => 0
  | p => outerCol (portHalf p)

/-- The router at which a transfer with unit `p` meets the mesh, `q` being the other side; for a unit on a trunk, the
outer-column router in row `row`. -/
def portRouter (p q : Port) (row : Nat) : Nat :=
  match p with
  | .tile t => t.val
  | .stack k => edgeRouter k.val ((portParityCol q) % 2)
  | _ => routerAt (portHalf p) row (outerCol (portHalf p))

/-- The routers that a transfer passes, in order. The row and column of a destination on a trunk are those of the
outer-column router in its trunk row (DEDUCED, notes/assumptions/81.md); a transfer from a trunk enters the mesh at the
outer-column router in the destination's row. The I/O die is reached by the bridge of the half concerned only (R23). -/
def routersOf (x : Xfer) : List Nat :=
  let a := x.src
  let b := x.dst
  let foreign := fun (p q : Port) => match p with
    | .io h => decide ((portHalf q) ≠ h.val)
    | _ => false
  if foreign a b || foreign b a then []
  else if (portIsTrunk a) && (portIsTrunk b) then
    (if (portHalf a) = (portHalf b) then []
     else
       let r := (portTrunkRow b).getD 0
       meshRoute (portRouter a b r) (portRouter b a r))
  else if (portIsTrunk a) then
    let v := portRouter b a 0
    meshRoute (portRouter a b (rowOf v)) v
  else if (portIsTrunk b) then
    meshRoute (portRouter a b 0) (portRouter b a ((portTrunkRow b).getD 0))
  else meshRoute (portRouter a b 0) (portRouter b a 0)

/-- The port of router `t` toward router `u` beside it: row − 1, row + 1, column − 1, column + 1, or the bridge (R399). -/
def portToward (t u : Nat) : Fin 7 :=
  if t / 24 ≠ u / 24 then 6 else if u + 6 = t then 1 else if t + 6 = u then 2 else if u + 1 = t then 3 else 4

def routerEnd (t : Nat) (p : Fin 7) : ChanEnd := .router ⟨t % 48, Nat.mod_lt _ (by decide)⟩ p

/-- The channels between routers one after the other. -/
def meshChans : List Nat → List (Hop)
  | t :: u :: us => (routerEnd t (portToward t u), routerEnd u (portToward u t)) :: meshChans (u :: us)
  | _ => []

/-- A unit's own end, met at router `t`, and the router's port there. -/
def portEnds (p : Port) (t : Nat) : Hop :=
  match p with
  | .tile u => (.tile u, routerEnd t 0)
  | .stack k => (.edge k ⟨colOf t % 2, Nat.mod_lt _ (by decide)⟩, routerEnd t 5)
  | .lg g => (.lg g, routerEnd t 6)
  | .kp q => (.kp q, routerEnd t 6)
  | .l3 h => (.l3 h, routerEnd t 6)
  | .io h => (.io h, routerEnd t 6)

/-- The path of a transfer, channel by channel, and no other (R21); two units on one trunk meet no router. -/
def pathOf (x : Xfer) : List (Hop) :=
  match routersOf x with
  | [] => if (portIsTrunk x.src) && (portIsTrunk x.dst) && decide ((portHalf x.src) = (portHalf x.dst)) && decide (x.src ≠ x.dst) then
      [((portEnds x.src 0).1, (portEnds x.dst 0).1)] else []
  | t :: ts =>
    let a := portEnds x.src t
    let b := portEnds x.dst (ts.getLastD t)
    (a.1, a.2) :: meshChans (t :: ts) ++ [(b.2, b.1)]

/-- A router's unit-off response goes back from the last router of the path (R24). -/
def replyOf (x : Xfer) : Xfer := ⟨x.dst, x.src, true⟩

/-- The channels that a flit of a transfer crosses: a response's from the router that gives it. -/
def hopsOf (x : Xfer) : List (Hop) :=
  if x.resp then (pathOf x).drop 1 else pathOf x

/-- The channel that follows channel `c` on a path. -/
def nextHop (c : Hop) : List (Hop) → Option (Hop)
  | a :: b :: l => if a = c then some b else nextHop c (b :: l)
  | _ => none

/-- A unit answers at its port: its domain is on and no image excludes it (R24, R25). The spine's own L3 has no domain. -/
def State.portOn (s : State) : Port → Bool
  | .tile t => s.tileOn t.val && !s.mask.tile.testBit t.val
  | .stack k => s.domOn (domStack k.val) && !s.mask.stack.testBit k.val
  | .lg g => s.domOn (domLg g.val) && !s.mask.lgroup.testBit g.val
  | .kp p => s.domOn (domKp p.val) && !s.mask.keeper.testBit p.val
  | .l3 h => (List.range 4).any (fun i => s.domOn (domKp (4 * h.val + i)))
  | .io _ => s.domOn domHub

/-! ## Flits (R31, R32) -/

def ChanSt.count (x : ChanSt) : Nat := (x.sent - x.rcvd).toNat

/-- Room for a flit on a channel (R32). -/
def State.chanRoom (s : State) (c : Hop) : Bool := decide ((s.chan (chanKey c.1 c.2)).count < 64)

/-- A flit of transfer `x` enters a channel; one that an edge port sends toward the mesh is counted (R395). -/
def State.sendFlit (s : State) (x : Xfer) (c : Hop) : State :=
  let k := chanKey c.1 c.2
  let h := s.chan k
  let s := s.setChan k { h with sent := h.sent + 1, flight := h.flight ++ [x] }
  match c.1 with
  | .edge e _ => s.countStack e.val 0x0207 1 nobody
  | _ => s

/-- The oldest flit of a channel is consumed or presented onward; one accepted at a tile's local port is counted (R395). -/
def State.takeFlit (s : State) (c : Hop) : State :=
  let k := chanKey c.1 c.2
  let h := s.chan k
  let s := s.setChan k { h with rcvd := h.rcvd + 1, flight := h.flight.drop 1 }
  match c.2 with
  | .tile t => s.countTile t.val 0x0114 1 nobody
  | _ => s

/-- Where the oldest flit of a channel, of transfer `x`, goes next: the next channel of its path, and as which transfer. At
the last router before a unit that is off, it turns back as the router's response, and a response that finds its
destination off is consumed there (R24). -/
def State.onward (s : State) (x : Xfer) (c : Hop) : Option (Xfer × (Hop)) :=
  match nextHop c (hopsOf x) with
  | none => none
  | some n =>
    if nextHop n (hopsOf x) ≠ none ∨ s.portOn x.dst = true then some (x, n)
    else if x.resp then none
    else ((hopsOf (replyOf x)).head?).map (fun n => (replyOf x, n))

/-- FLIT_TRANSFER (R21, R31, R32): the source of transfer `x` presents a flit on the first channel of its path, or the
receiver of a channel takes the oldest flit in flight there: its destination consumes it, and a router presents it on the
next channel of its path. Where that channel has 64 unaccepted flits the flit waits, so back-pressure travels hop by hop. -/
def execFlitTransfer (x : Xfer) (c : Hop) (accept : Bool) (s : State) : Result :=
  okIf (joined c.1 c.2)
    (if ¬ s.pwr.spine then s
     else if accept then
       (if (s.chan (chanKey c.1 c.2)).flight.head? ≠ some x then s
        else match s.onward x c with
          | none => s.takeFlit c
          | some (y, n) => if s.chanRoom n then (s.takeFlit c).sendFlit y n else s)
     else if x.resp ∨ (hopsOf x).head? ≠ some c ∨ s.chanRoom c = false ∨ (nextHop c (hopsOf x) = none ∧ s.portOn x.dst = false) then s
     else s.sendFlit x c)

/-- No flit is in flight between the unit of a domain and the mesh spine (R24, R473). -/
def State.chansIdle (s : State) (d : Nat) : Bool :=
  let mine := fun (n : Nat) =>
    if d < 48 then decide (n = endCode (.tile ⟨d % 48, Nat.mod_lt _ (by decide)⟩))
    else if d < 60 then decide (n = 432 + 2 * (d - 48)) || decide (n = 433 + 2 * (d - 48))
    else if d < 66 then decide (n = 456 + (d - 60))
    else if d < 74 then decide (n = 462 + (d - 66))
    else if d = 87 then decide (n = 470) || decide (n = 471)
    else false
  s.chans.all (fun c => !(mine (c.1 / 512) || mine (c.1 % 512)) || decide (c.2.flight = []))

/-- Flits that an end has sent, and flits that arrived at it and were passed on (R399). How the channels of the edge trunk
pair is the model's choice (notes/assumptions/82.md): each two ends on a trunk, and each end and outer-column router, have
a channel of their own, and an end's record is the sum over them. -/
def State.endCounts (s : State) (e : ChanEnd) : BitVec 16 × BitVec 16 :=
  (s.chans.foldl (fun n c => if c.1 / 512 = endCode e then n + c.2.sent else n) 0,
   s.chans.foldl (fun n c => if c.1 % 512 = endCode e then n + c.2.rcvd else n) 0)

/-- The channel ends of a unit by TAL_CHAN number (R399). -/
def chanEnds (b : BlkId) : List (Nat × ChanEnd) :=
  match b.kind with
  | .talTile =>
    if h : b.unit < 48 then
      let t : Fin 48 := ⟨b.unit, h⟩
      [(0, .router t 0), (1, .router t 1), (2, .router t 2), (3, .router t 3), (4, .router t 4), (5, .router t 5),
       (6, .router t 6), (7, .tile t)]
    else []
  | .talStack => if h : b.unit < 12 then [(0, .edge ⟨b.unit, h⟩ 0), (1, .edge ⟨b.unit, h⟩ 1)] else []
  | .talLg => if h : b.unit < 6 then [(0, .lg ⟨b.unit, h⟩)] else []
  | .talKp => if h : b.unit < 8 then [(0, .kp ⟨b.unit, h⟩)] else []
  | .talIo => [(0, .io 0), (1, .io 1)]
  | _ => []

/-! ## Tallies (R394, R396) -/

/-- The unit class of an allocation entry (R53). -/
def tallyClass : BlkKind → Nat
  | .talTile => 0 | .talStack => 1 | .talLg => 2 | .talKp => 3 | .talPart => 4 | .talIo => 5
  | _ => 6

/-- The OWNER of a tally: that of its entry, else the partition of its unit; none stands for 0xFF (R53). -/
def State.tallyOwner (s : State) (b : BlkId) (i : Nat) : Option Nat :=
  let es := ((s.img.applied).map (·.tallies)).getD []
  match es.find? (fun e => decide (e.cls = tallyClass b.kind) && decide (e.unit = b.unit) && decide (e.first ≤ i)
      && decide (i < e.first + e.count)) with
  | some e => if e.owner = 0xFF then none else some e.owner
  | none => s.blkPart b

/-- A tally of OWNER 0xFF is hidden from every master but the physical function and the management port (R394), one of
OWNER p from the masters of other partitions (R53). -/
def State.tallyHidden (s : State) (m : Master) (b : BlkId) (i : Nat) : Bool :=
  !pfOrMgmt m && (match s.tallyOwner b i with
    | none => true
    | some p => decide (s.masterPart m ≠ some p))

def isTal (k : BlkKind) : Bool := decide (tallyCount k ≠ 0)

/-- TAL_CLEAR (R396): counts and OVF of a range become 0, frozen or not; the part beyond the last tally is ignored. -/
def execTalClear (m : Master) (b : BlkId) (first countM1 : BitVec 8) (s : State) : Result :=
  okIf (isTal b.kind && decide (b.unit < unitCount b.kind))
    (if ¬ s.mayWrite m b 0x10 then s
     else
       let is := ((List.range (countM1.toNat + 1)).map (first.toNat + ·)).filter
         (fun i => decide (i < tallyCount b.kind) && !s.tallyHidden m b i)
       let u := s.tal (blkKey b)
       s.setTal (blkKey b) (is.foldl (fun u i =>
         { u with counts := SMap.set 0 u.counts i 0, ovf := SMap.set false u.ovf i false }) u))

/-! ## The fog (R397–R400, R410) -/

/-- FOG_IN_EDGE (R397): a low pulse of at least 20 ns raises a fog where IN_EN is 1, one below 5 ns none; whether one
between the two does is left open. -/
def execFogInEdge (lowNs : Nat) (s : State) : Result :=
  .next (
    if ¬ s.pwr.aux ∨ s.cfg .talIo 0 0x30 31 31 = 0 ∨ lowNs < 5 then s
    else if 20 ≤ lowNs then s.raiseFog 0
    else
      let d := s.draw 1
      if d.1 = 1 then d.2.raiseFog 0 else d.2)

/-- FIRE (R397): SOURCE 1 from the physical function, 2 from the management port. -/
def execFire (m : Master) (s : State) : Result :=
  .next (if s.mayWrite m ⟨.talIo, 0⟩ 0x34 then s.raiseFog (if m = .mgmt then 2 else 1) else s)

/-- The island that stamps a unit with tallies. -/
def State.talIsland (s : State) (b : BlkId) : Island :=
  match b.kind with
  | .talTile => .tile b.unit
  | .talStack => .base b.unit
  | .talLg => .link b.unit
  | .talKp => .keeper b.unit
  | .talPart => s.frontIsland b.unit
  | _ => .mgmt

/-- Whether the unit behind a TAL_ block is powered. -/
def State.talOn (s : State) (b : BlkId) : Bool := s.blkOn b

/-- A trigger by command or fog reaches a ledger that records (R407). -/
def State.ldgTrigger (s : State) (b : BlkId) (why : Nat) : State :=
  let c := s.ldgCfg b
  let l := s.ldg (blkKey b)
  if c.en ∧ ldgBusy l.st then s.ldgTake b (ldgTrig c (s.ldgStamp b) l why) else s

/-- A ledger meets its freeze edge (R410): with FOG_ACT the fog is a trigger; else it writes a FOG record and stops, and the
records that a lossless ledger held are discarded with those produced while it is frozen. -/
def State.ledgerFog (s : State) (b : BlkId) : State :=
  let c := s.ldgCfg b
  let l := s.ldg (blkKey b)
  if ¬ ldgBusy l.st then s
  else if c.fogAct then s.ldgTrigger b 2
  else
    let s := s.ledger b nobody 0x0F 0x80 s.fog.id.toNat 0
    let l := s.ldg (blkKey b)
    let n := l.held.length
    s.setLdg (blkKey b) { l.lose n with st := .frozen, before := l.st, lostNow := l.lostNow + n, held := [] }

/-- The flits counted at end `i` of unit `a` and not at end `j` of unit `b` of a channel from the one to the other, at the
cut of the last freeze: (OUT − IN) mod 2^16 of the two TAL_CHAN records, read as a signed value (R402). -/
def State.cutFlits (s : State) (a : BlkId) (i : Nat) (b : BlkId) (j : Nat) : Int :=
  ((SMap.get (0, 0) (s.tal (blkKey a)).chan i).1 - (SMap.get (0, 0) (s.tal (blkKey b)).chan j).2).toInt

/-- A watch slot's snapshot takes its accumulators (R415). -/
def State.watchSnap (s : State) (t w : Nat) : State :=
  let x := s.wch (wchKey t w)
  s.setWch (wchKey t w) { x with snap := x.acc }

/-- FOG_FREEZE (R399): a unit that the fog has not reached yet freezes in one cycle. A tile that is off has only its
router's channel ends recorded. -/
def execFogFreeze (b : BlkId) (s : State) : Result :=
  .next (
    if ¬ s.fog.reach.contains b then s
    else
      let s := { s with fog := { s.fog with reach := s.fog.reach.erase b } }
      let on := s.talOn b
      let ends := (chanEnds b).filter (fun e => on || decide (e.1 ≠ 7))
      let u := s.tal (blkKey b)
      let u := { u with chan := ends.foldl (fun m e => SMap.set (0, 0) m e.1 (s.endCounts e.2)) u.chan }
      if ¬ on then (if b.kind = .talTile then s.setTal (blkKey b) u else s)
      else
        let s := s.setTal (blkKey b) { u with
          frozen := true, stampV := true, fogId := s.fog.id, stamp := s.cycle (islandCode (s.talIsland b)) }
        match b.kind with
        | .talTile => [0, 1, 2, 3].foldl (fun s w => s.watchSnap b.unit w) (s.ledgerFog ⟨.ldgTile, b.unit⟩)
        | .talStack => s.ledgerFog ⟨.ldgStack, b.unit⟩
        | _ => s)

/-- A ledger resumes at thaw and is offered the THAW record, before which it writes a GAP record for what it lost (R410). -/
def State.ledgerThaw (s : State) (b : BlkId) : State :=
  let l := s.ldg (blkKey b)
  if l.st = .frozen then
    (s.setLdg (blkKey b) { l with st := l.before }).ledger b nobody 0x11 0x80 s.fog.id.toNat 0
  else s

def ledgerBlocks : List BlkId :=
  (List.range 48).map (fun t => ⟨.ldgTile, t⟩) ++ (List.range 12).map (fun k => ⟨.ldgStack, k⟩)

/-- THAW (R400): FOGGED is cleared and every frozen unit counts again; stamps and records stay. -/
def State.thaw (s : State) : State :=
  let s := { s with
    fog := { s.fog with fogged := false, reach := [] }
    tals := (s.tals.map (fun u => (u.1, { u.2 with frozen := false }))).filter (fun u => decide (u.2 ≠ .reset)) }
  ledgerBlocks.foldl (fun s b => s.ledgerThaw b) s

/-- THAW (R400, R401). -/
def execThaw (m : Master) (s : State) : Result :=
  .next (if s.mayWrite m ⟨.talIo, 0⟩ 0x34 then s.thaw else s)

/-- FOG_OUT_END (R398): FOG_OUT is released after OUT_NS. -/
def execFogOutEnd (s : State) : Result :=
  .next (
    if s.fog.outLow ∧ s.expired .fogOut then
      (({ s with fog := { s.fog with outLow := false } } : State).stopTimer .fogOut).emit (.fogOut false)
    else s)

/-! ## Ledger commands (R407, R408, R411) -/

def isLdg (b : BlkId) : Bool :=
  (decide (b.kind = .ldgTile) || decide (b.kind = .ldgStack)) && decide (b.unit < unitCount b.kind)

/-- LDG_ARM (R407): the ledger starts from empty; with EN = 0 it records nothing all the same (R411). One that is frozen
records from the thaw on. -/
def execLdgArm (m : Master) (b : BlkId) (s : State) : Result :=
  okIf (isLdg b)
    (if ¬ s.mayWrite m b 0x2C then s
     else
       let l := s.ldg (blkKey b)
       let new : Ledger := { Ledger.reset with
         latch := l.latch, st := .recording, before := .recording, lastAt := l.lastAt, lastN := l.lastN }
       s.setLdg (blkKey b) (if l.st = .frozen then { new with st := .frozen } else new))

/-- LDG_STOP (R411): STATE STOPPED, whatever it was. -/
def execLdgStop (m : Master) (b : BlkId) (s : State) : Result :=
  okIf (isLdg b)
    (if ¬ s.mayWrite m b 0x2C then s
     else s.setLdg (blkKey b) { s.ldg (blkKey b) with st := .stopped, held := [] })

/-- LDG_TRIGGER (R407). -/
def execLdgTrigger (m : Master) (b : BlkId) (s : State) : Result :=
  okIf (isLdg b) (if s.mayWrite m b 0x2C then s.ldgTrigger b 1 else s)

/-- Offer the records that a lossless ledger holds again, in order (R409). -/
def State.ledgerRelease (s : State) (b : BlkId) : List (List W64) → State
  | [] => s
  | r :: rs =>
    let l := s.ldg (blkKey b)
    let r1 := (r.getD 1 0).toNat
    let w : Who := ⟨bitsOf r1 63 48, bitsOf r1 47 32, bitsOf r1 23 16, true⟩
    let o := ldgOffer (s.ldgCfg b) (s.ldgStamp b) l w (bitsOf r1 31 24) r
    if o.held ∧ o.l.wcount = l.wcount then s.setLdg (blkKey b) { l with held := l.held ++ r :: rs }
    else (s.ldgTake b o).ledgerRelease b rs

/-- The records that a lossless ledger holds are offered once more (R409). -/
def State.ledgerRetry (s : State) (b : BlkId) : State :=
  let l := s.ldg (blkKey b)
  if l.held = [] then s else (s.setLdg (blkKey b) { l with held := [] }).ledgerRelease b l.held

/-- LDG_BURST_ACK (R408): the oldest 2 KiB of staging is acknowledged, and its 64 slots are free; a failed write counts
its records as dropped. -/
def execLdgBurstAck (b : BlkId) (ok : Bool) (s : State) : Result :=
  okIf (isLdg b)
    (let c := s.ldgCfg b
     let l := s.ldg (blkKey b)
     if ¬ c.spill ∨ l.staged < 64 then s
     else
       let n0 := l.wcount.toNat - l.staged
       let recs := (List.range 64).map (fun j => (n0 + j, SMap.get [] l.slots ((n0 + j) % 2048)))
       let up := recs.all (fun r => match physAt (c.area + 32 * (r.1 % c.cap)) with | .stack k => s.stackUp k | _ => false)
       let s := s.setLdg (blkKey b) { l with staged := l.staged - 64 }
       let s :=
         if ok ∧ up then
           recs.foldl (fun s r => s.writeBytes (c.area + 32 * (r.1 % c.cap)) (r.2.flatMap (fun w => leBytes 8 w.toNat))) s
         else
           let l := s.ldg (blkKey b)
           let s := s.setLdg (blkKey b) { l.lose 64 with lostNow := l.lostNow + 64 }
           (s.flag b.kind b.unit 0x30 (bit 26)).ldgDropped b 64
       s.ledgerRetry b)

/-- LDG_RD_SEL (R411): a write latches a local slot. -/
def execLdgRdSelWrite (m : Master) (b : BlkId) (v : W32) (s : State) : Result :=
  okIf (isLdg b)
    (if ¬ s.mayWrite m b 0x40 then s
     else
       let s := s.setPlain b.kind b.unit 0x40 (v &&& 0x7FF)
       let l := s.ldg (blkKey b)
       let ws := (SMap.get [] l.slots (bitsOf v.toNat 10 0)).map (·.toNat)
       s.setLdg (blkKey b) { l with latch := ((halves ws) ++ List.replicate 8 0).take 8 })

/-! ## Watch commands (R415, R416) -/

/-- WCH_SNAP (R416). -/
def execWchSnap (m : Master) (t : Fin 48) (slots : BitVec 4) (s : State) : Result :=
  .next (
    if ¬ s.mayWrite m ⟨.wch, t.val⟩ 0x10 then s
    else [0, 1, 2, 3].foldl (fun s w => if slots.getLsbD w then s.watchSnap t.val w else s) s)

/-- WCH_CLEAR (R416): accumulators and snapshots. -/
def execWchClear (m : Master) (t : Fin 48) (slots : BitVec 4) (s : State) : Result :=
  .next (
    if ¬ s.mayWrite m ⟨.wch, t.val⟩ 0x10 then s
    else [0, 1, 2, 3].foldl (fun s w => if slots.getLsbD w then s.setWch (wchKey t.val w) .reset else s) s)

end Sys2Proof.Machine
end

