-- ==== Sys2Proof/Machine/Runtime.lean ====
section
/-!
DEFINITION. The keeper runtime of a partition (R375–R390) as its lead pair runs it: accepting the requests of session
queues (R377, R378), the step with its batch, its scale rolls and its sampling (R159, R380–R386), its start, and the
power cap (R387). The engines' work of a step is what the runtime's own queues issue; RUNTIME_STEP takes its outcome.
-/
namespace Sys2Proof.Machine

/-! ## The runtime and its records -/

/-- What a command handler leaves; a command of the block's own that is turned away leaves the state. -/
def stateOf (r : Result) (s : State) : State :=
  match r with
  | .next s' => s'
  | _ => s

/-- The lead pair of a partition whose runtime is RUNNING. -/
def State.rtLead (s : State) (p : Nat) : Option Nat :=
  (s.leadOf p).filter (fun k => s.domOn (domKp k) && !(s.pair k).inReset && decide ((s.pair k).st = .running))

/-- The handle of a session record (R377). -/
def srHandle (c : Cmd) : W32 := BitVec.ofNat 32 (bitsOf (c.word 6) 31 0)
def srParam (c : Cmd) : Nat := bitsOf (c.word 6) 63 32
/-- RES_ADDR, which is 8-byte aligned: a record with another has faulted (log 91). -/
def srRes (c : Cmd) : Nat := bitsOf (c.word 7) 47 3 * 8

/-- The record of a queue that the runtime may handle now: the one handed to it, of the opcode, with no earlier-fetched
record of its session unaccepted (R378), and not while a session operation runs or another record waits for what one did. -/
def State.rtRecord (s : State) (p q op : Nat) : Option (Nat × CmdRef × Cmd) :=
  match s.rtLead p with
  | none => none
  | some k =>
    match (s.q p q).cmds.find? (fun c => decide (c.phase = .begun)) with
    | none => none
    | some c =>
      let r : CmdRef := ⟨s.devQue p q, c.head, none⟩
      let before := (s.pair k).taken.takeWhile (fun x => decide (x ≠ r))
      let blocked := op ≠ 1 && before.any (fun x => match s.cmdAt x with
        | some d => decide (d.opcode ≠ 1) && decide (srHandle d = srHandle c)
        | none => false)
      if c.engine = 6 ∧ c.opcode = op ∧ !blocked ∧ (s.ses p).op.isNone ∧ ((s.pair k).working = none ∨ (s.pair k).working = some r) then some (k, r, c) else none

/-- A mark word of a session record names no mark of the queue's context, or a reserved scope (R9, R79, R80). -/
def State.markWordBad (s : State) (p lc w : Nat) : Bool := decide (s.markLast p lc < waitMark w) || decide (6 ≤ waitScope w)

/-- Reserved fields and the record count of a session record (R77, R80, R377, R378). DEDUCED (log 91): bits and words of a
record that R378's table does not list are reserved. -/
def srFieldsBad (c : Cmd) : Bool :=
  let e := c.extWord 0
  let hi := srParam c
  decide (bitsOf (c.word 0) 59 56 ≠ 0) || decide (bitsOf (c.word 0) 12 12 ≠ 0) || decide (bitsOf (c.word 7) 63 48 ≠ 0)
    || decide (c.ext ≠ if c.opcode = 2 ∨ c.opcode = 3 then 1 else 0)
    || (match c.opcode with
        | 1 => decide (bitsOf (c.word 6) 31 0 ≠ 0) || decide (bitsOf hi 16 1 ≠ 0)
        | 2 => decide (bitsOf (e 0) 63 48 ≠ 0) || decide (bitsOf (e 1) 63 48 ≠ 0) || decide (bitsOf (e 2) 63 33 ≠ 0)
          || decide (e 4 ≠ 0) || decide (e 5 ≠ 0) || decide (e 6 ≠ 0) || decide (e 7 ≠ 0)
        | 3 => decide (bitsOf hi 31 16 ≠ 0) || decide (bitsOf (e 0) 63 48 ≠ 0) || decide (bitsOf (e 1) 63 32 ≠ 0)
          || decide (bitsOf (e 4) 63 48 ≠ 0) || decide (e 5 ≠ 0) || decide (e 6 ≠ 0) || decide (e 7 ≠ 0)
        | 4 => decide (bitsOf hi 31 1 ≠ 0)
        | _ => decide (hi ≠ 0))

/-- What the runtime answers with outcome FIELD before it serves a record (R9, R80, R377): reserved fields, and the mark
words DONE, where its VALUE is not 0, and PROG, which is always released. -/
def State.srBad (s : State) (p q : Nat) (c : Cmd) : Bool :=
  let lc := s.qCtx p q
  srFieldsBad c
    || (decide (c.opcode = 2) && decide (waitValue (c.extWord 0 3) ≠ 0) && s.markWordBad p lc (c.extWord 0 3))
    || (decide (c.opcode = 3) && s.markWordBad p lc (c.extWord 0 2))

def State.updPair (s : State) (k : Nat) (f : Pair → Pair) : State := s.setPair k (f (s.pair k))

/-- A core of a pair wrote host memory (R336). -/
def State.noteCore (s : State) (core : Nat) : Option HostWr → State
  | none => s
  | some w => s.updPair (core / 2) (fun x => { x with
      hostWr := x.hostWr.filter (fun e => !(decide (e.1 = core) && decide (e.2.fn = w.fn))) ++ [(core, w)] })

/-- The outcome word of a request (R377); when it cannot be written the record takes the fault of R265 and its queue
stops. Says whether it was written. -/
def State.accept (s : State) (p q k : Nat) (r : CmdRef) (c : Cmd) (code value : Nat) : Bool × State :=
  let s := s.updPair k (fun x => { x with taken := x.taken.erase r, working := none })
  match s.storeVa (tlbPart p) p (s.qCtx p q) (srRes c) (leBytes 8 (value * 2 ^ 32 + code)) with
  | (.ok w, s) => (true, ((s.noteCore (2 * k) w).noteHost r.q w).completeCmd r)
  | (.error b, s) =>
    (false, (s.raise p (s.cmdFault p q c b 3 k 0)).haltAt p q (cmdIdx (s.q p q).cmds c.head))

/-- The outcome CODE of a RESULT of SES_STATUS (R315, R377). -/
def outcomeOf (r : Byte) : Nat :=
  match r.toNat with
  | 0 => 0 | 2 => 1 | 3 => 2 | 4 => 3 | 5 => 4 | 6 => 5 | _ => 2

/-- The policy word of R315. -/
def policyWordOf (spill : Bool) (pool win head place : Nat) : Nat :=
  (if spill then 2 ^ 31 else 0) + pool * 2 ^ 27 + win * 2 ^ 23 + head * 2 ^ 21 + place * 2 ^ 17

/-- SET of a session by the runtime: its PLACE stays (R385). -/
def State.rtSet (s : State) (p : Fin 8) (k : Fin 8) (h : W32) (word : Nat → Nat) : State :=
  let place := (s.sesEnt p.val (handleSlot h)).place
  let s := (s.setSesArg p.val 0 h.toNat).setSesArg p.val 1 (word place)
  stateOf (execSesCmdSet (.kp k) p s) s

/-- The policy of a decoding session (R385). -/
def State.activeWord (s : State) (k place : Nat) : Nat :=
  let c := fun hi lo => s.cfg .kpr k 0x14 hi lo
  policyWordOf false (c 25 22) (c 31 28) (c 27 26) place

/-- The policy of a held session (R385); its protected head stays. -/
def State.heldWord (s : State) (p k : Nat) (h : W32) (place : Nat) : Nat :=
  policyWordOf true (s.cfg .kpr k 0x14 21 18) 0 (s.sesEnt p (handleSlot h)).protHead place

/-- A number below 8 as a keeper pair. -/
def pairFin (k : Nat) : Fin 8 := Fin.ofNat 8 k

/-! ## Token records and marks (R379) -/

/-- The flush of R336 before a core releases a device mark at SC_SYS. -/
def State.coreFlush (s : State) (core a : Nat) : Option HostWr × State :=
  if a < hostBase then
    s.flushReads (((s.pair (core / 2)).hostWr.filter (fun e => decide (e.1 = core))).map (·.2))
  else (none, s)

/-- Release a mark word of a request to `v` at SC_SYS by the lead pair, behind the flush of the runtime's host writes; a mark
that cannot be translated, or a flush that fails (R438), gives its fault to the queue's context. -/
def State.rtRelease (s : State) (p k lc : Nat) (word : W64) (v : Nat) : State :=
  let r : Except Bad Nat × State := match s.markPhys p lc (waitMark word.toNat) true with
    | (.ok a, s) => (match s.coreFlush (2 * k) a with
        | (none, s) => (.ok a, s)
        | (some w, s) => (.error ⟨0x07, 0, 0, 0, w.va, 0x7F⟩, s))
    | x => x
  match r with
  | (.ok a, s) => { s with rels := s.rels ++ [⟨a, v, 5, ⟨.kpr, k⟩, none⟩] }
  | (.error b, s) =>
    s.raise p { cls := b.cls, cause := b.cause, eng := 6, ctx := s.devCtx p lc, queue := noQue, stage := 0x7F
                layer := 0xFFFF, op := 0xFFFF, head := 0, aspace := b.aspace, addr := b.addr, detail := b.detail
                sub := 0, uclass := 3, unit := k }

/-- A token record (R379). -/
structure Token where
  token : W32
  cut   : Bool
  stop  : Bool
  late  : Bool
  last  : Bool
  deriving DecidableEq, Repr

def tokenWord (d : DecodeReq) (t : Token) : Nat :=
  t.token.toNat * 2 ^ 32 + (if d.redo ∧ ¬ t.cut then 2 ^ 28 else 0) + (if t.cut then 2 ^ 27 else 0) + (if t.stop then 2 ^ 26 else 0)
    + (if t.late then 2 ^ 25 else 0) + (if t.last then 2 ^ 24 else 0) + d.pos % 2 ^ 24

/-- Write token record k of a request and release PROG; a record that cannot be written faults and ends the request. -/
def State.putToken (s : State) (p k : Nat) (d : DecodeReq) (t : Token) : State :=
  let s := if t.late then
      (s.updPair k (fun x => { x with late := satAdd32 x.late 1 })).countPart p 0x050C 1 nobody
    else s
  match s.storeVa (tlbPart p) p d.lc (d.outAddr + 8 * d.k) (leBytes 8 (tokenWord d t)) with
  | (.error b, s) =>
    (s.raise p { cls := b.cls, cause := b.cause, eng := 6, ctx := s.devCtx p d.lc, queue := d.ref.q, stage := 0x7F
                 layer := 0xFFFF, op := 0xFFFF, head := d.ref.head, aspace := b.aspace, addr := b.addr
                 detail := b.detail, sub := 0, uclass := 3, unit := k }).updPair k
      (fun x => { x with decodes := x.decodes.filter (fun e => decide (e.ref ≠ d.ref)) })
  | (.ok w, s) =>
    let s := (s.noteCore (2 * k) w).rtRelease p k d.lc d.prog (waitValue d.prog.toNat + d.k + 1)
    s.updPair k (fun x =>
      if t.last then { x with decodes := x.decodes.filter (fun e => decide (e.ref ≠ d.ref)) }
      else { x with decodes := x.decodes.map (fun e => if e.ref = d.ref then
               { e with k := e.k + 1, pos := e.pos + 1, left := e.deadline, redo := false, failedAt := none } else e) })

/-- End a request with CUT (R379). -/
def State.cutDecode (s : State) (p k : Nat) (d : DecodeReq) : State :=
  s.putToken p k d ⟨0xFFFFFFFF, true, false, decide (d.left < 0), true⟩

/-- HOLD and CLOSE end a running DECODE of the session. -/
def State.endDecode (s : State) (p k : Nat) (h : W32) : State :=
  match (s.pair k).decodes.find? (fun d => decide (d.session = h)) with
  | some d => s.cutDecode p k d
  | none => s

/-- Positions in a session's cache, as the runtime counts them. -/
def Pair.len (x : Pair) (h : W32) : Nat := ((x.lens.find? (fun e => decide (e.1 = h))).map (·.2)).getD 0
def Pair.setLen (x : Pair) (h : W32) (n : Nat) : Pair :=
  { x with lens := x.lens.filter (fun e => decide (e.1 ≠ h)) ++ (if n = 0 then [] else [(h, n)]) }

/-! ## The requests of session queues (R378) -/

/-- OPEN_SESSION (R378, R385): SES OPEN with the record's policy word and the runtime's PLACE. -/
def execOpenSession (p : Fin 8) (q : Fin 2048) (s : State) : Result :=
  .next (match s.rtRecord p.val q.val 1 with
    | none => s
    | some (k, r, c) =>
      if s.srBad p.val q.val c then (s.accept p.val q.val k r c 6 0).2 else
      let x := s.pair k
      let n := (s.frameStacks p.val).length
      let w := srParam c
      let place := if n = 0 then 0 else x.opens % n
      let s := s.setPair k { x with opens := x.opens + 1 }
      let s := s.setSesArg p.val 1 (w - bitsOf w 20 17 * 2 ^ 17 + place * 2 ^ 17)
      let s := stateOf (execSesCmdOpen (.kp (pairFin k)) p s) s
      let code := outcomeOf (s.ses p.val).result
      (s.accept p.val q.val k r c code (if code = 0 then s.sesArg p.val 0 else 0)).2)

/-- A request is refused with an outcome where its session does not serve it. -/
def State.sessionOutcome (s : State) (p : Nat) (x : Pair) (h : W32) (serves : Bool) : Nat :=
  if ¬ s.liveSes p h then 1 else if !serves || x.held.contains h || (s.sesEnt p (handleSlot h)).parked then 2 else 0

/-- The tokens of a PREFILL can be read: units that are on, no poisoned line, and a host that answers (R24, R259, R438). -/
def State.tokensRead (s : State) (p : Nat) (held : List PageMap) (va n : Nat) : Bool × State :=
  let host := held.any (fun m => match s.heldAddr p held (m.page * 65536) with
    | some a => decide (hostBase ≤ a)
    | none => false)
  if (s.heldBad p held va n).isSome ∨ s.heldPoison p held va n then (false, s)
  else if host ∧ ¬ s.hostOk (s.fnOf p) then (false, s.flag .pcx 0 0x14 (bit 30))
  else (true, s)

/-- PREFILL (R378): the tokens are read and the prefix of ATTACH blocks attached; the chunks run in later steps. -/
def execPrefill (p : Fin 8) (q : Fin 2048) (s : State) : Result :=
  .next (match s.rtRecord p.val q.val 2 with
    | none => s
    | some (k, r, c) =>
      if s.srBad p.val q.val c then (s.accept p.val q.val k r c 6 0).2 else
      let lc := s.qCtx p.val q.val
      let h := srHandle c
      let n := srParam c
      let blocks := bitsOf (c.extWord 0 2) 31 0
      let code := if n = 0 ∨ 2 ^ 24 ≤ n then 6 else s.sessionOutcome p.val (s.pair k) h true
      if code ≠ 0 then (s.accept p.val q.val k r c code 0).2
      else
        match s.xlateRanges (tlbPart p.val) p.val lc [⟨bitsOf (c.extWord 0 0) 47 0, 4 * n, false⟩] [] with
        | (.error _, s) => (s.accept p.val q.val k r c 5 0).2
        | (.ok held, s) =>
          let (answers, s) := s.tokensRead p.val held (bitsOf (c.extWord 0 0) 47 0) (4 * n)
          if ¬ answers then (s.accept p.val q.val k r c 5 0).2
          else
            let hash := bitsOf (c.extWord 0 1) 47 0
            let s := if blocks = 0 then (s.setSesArg p.val 4 0).sesResult p.val 0x00
              else
                let s := ((s.setSesArg p.val 0 h.toNat).setSesArg p.val 4 blocks).setSesArg p.val 5 Config.modelChains.toNat
                s.attachList p.val (handleSlot h) (.at_ lc hash)
            let code := outcomeOf (s.ses p.val).result
            let got := s.sesArg p.val 4
            if code ≠ 0 then (s.accept p.val q.val k r c code got).2
            else
              match s.accept p.val q.val k r c 0 got with
              | (false, s) => s
              | (true, s) =>
                let req : PrefillReq :=
                  { lc := lc, session := h, tokens := n, done := min n (512 * got), hashAddr := hash
                    publish := decide (bitsOf (c.extWord 0 2) 32 32 = 1), doneMark := BitVec.ofNat 64 (c.extWord 0 3) }
                s.updPair k (fun x => { (x.setLen h (x.len h + req.done)) with prefills := x.prefills ++ [req] }))

/-- TEMP is negative, infinite or NaN (R384). -/
def badTemp (w : W32) : Bool :=
  match fp32Num w with
  | .fin neg m _ => neg && decide (m ≠ 0)
  | _ => true

/-- DECODE (R378): accepted when the session enters the live set, and not while an earlier DECODE of it runs. -/
def execDecode (p : Fin 8) (q : Fin 2048) (s : State) : Result :=
  .next (match s.rtRecord p.val q.val 3 with
    | none => s
    | some (k, r, c) =>
      if s.srBad p.val q.val c then (s.accept p.val q.val k r c 6 0).2 else
      let h := srHandle c
      let x := s.pair k
      if x.decodes.any (fun d => decide (d.session = h)) then s
      else
        let temp := BitVec.ofNat 32 (bitsOf (c.extWord 0 4) 31 0)
        let topK := bitsOf (c.extWord 0 4) 47 32
        let maxTok := bitsOf (c.word 6) 47 32
        let dl := bitsOf (c.extWord 0 1) 31 0
        let out := bitsOf (c.extWord 0 0) 47 0
        let code := if maxTok = 0 ∨ dl < 1000 ∨ badTemp temp ∨ 64 < topK ∨ out % 8 ≠ 0 then 6
          else s.sessionOutcome p.val x h true
        let lc := s.qCtx p.val q.val
        match s.accept p.val q.val k r c code 0 with
        | (false, s) => s
        | (true, s) =>
          if code ≠ 0 then s
          else
            let d : DecodeReq :=
              { ref := r, lc := lc, session := h, resAddr := srRes c, maxTok := maxTok, outAddr := out, deadline := dl
                prog := BitVec.ofNat 64 (c.extWord 0 2), stop0 := BitVec.ofNat 32 (bitsOf (c.extWord 0 3) 63 32)
                stop1 := BitVec.ofNat 32 (bitsOf (c.extWord 0 3) 31 0), temp := temp, topK := topK, k := 0
                pos := x.len h, left := dl, missed := 0, redo := false, failedAt := none }
            let s := s.updPair k (fun x => { x with decodes := x.decodes ++ [d] })
            s.rtSet p (pairFin k) h (s.activeWord k))

/-- HOLD (R378, R385): a running DECODE ends with CUT, the held policy is set, and SES SPILL follows where it is asked
for. -/
def execHold (p : Fin 8) (q : Fin 2048) (s : State) : Result :=
  .next (match s.rtRecord p.val q.val 4 with
    | none => s
    | some (k, r, c) =>
      if s.srBad p.val q.val c then (s.accept p.val q.val k r c 6 0).2 else
      let h := srHandle c
      if ¬ s.liveSes p.val h then (s.accept p.val q.val k r c 1 0).2
      else
        let s := s.endDecode p.val k h
        let s := s.updPair k (fun x => { x with held := x.held.filter (fun y => decide (y ≠ h)) ++ [h] })
        let s := s.rtSet p (pairFin k) h (s.heldWord p.val k h)
        let s := (s.accept p.val q.val k r c 0 0).2
        if srParam c % 2 = 1 ∨ s.cfg .kpr k 0x10 29 29 = 1 then
          let s := s.setSesArg p.val 0 h.toNat
          stateOf (execSesCmdSpill (.kp (pairFin k)) p s) s
        else s)

/-- The record's session operation starts now, or has ended: `start` runs it the first time. -/
def State.twoPhase (s : State) (k : Nat) (r : CmdRef) (start : State) (done : State) : State :=
  if (s.pair k).working = some r then done else start.updPair k (fun x => { x with working := some r })

/-- RESUME (R378, R385): FETCH, then the active policy. -/
def execResume (p : Fin 8) (q : Fin 2048) (s : State) : Result :=
  .next (match s.rtRecord p.val q.val 5 with
    | none => s
    | some (k, r, c) =>
      if s.srBad p.val q.val c then (s.accept p.val q.val k r c 6 0).2 else
      let h := srHandle c
      if ¬ s.liveSes p.val h then (s.accept p.val q.val k r c 1 0).2
      else if ¬ (s.pair k).held.contains h then (s.accept p.val q.val k r c 2 0).2
      else
        let start := s.setSesArg p.val 0 h.toNat
        let start := stateOf (execSesCmdFetch (.kp (pairFin k)) p start) start
        let code := outcomeOf (s.ses p.val).result
        let done :=
          if code ≠ 0 then s
          else (s.updPair k (fun x => { x with held := x.held.filter (fun y => decide (y ≠ h)) })).rtSet p (pairFin k) h
            (s.activeWord k)
        s.twoPhase k r start (done.accept p.val q.val k r c code 0).2)

/-- CLOSE (R378): a running DECODE ends with CUT, and SES CLOSE completes. -/
def execClose (p : Fin 8) (q : Fin 2048) (s : State) : Result :=
  .next (match s.rtRecord p.val q.val 6 with
    | none => s
    | some (k, r, c) =>
      if s.srBad p.val q.val c then (s.accept p.val q.val k r c 6 0).2 else
      let h := srHandle c
      if (s.pair k).working = some r then (s.accept p.val q.val k r c (outcomeOf (s.ses p.val).result) 0).2
      else if ¬ s.liveSes p.val h then (s.accept p.val q.val k r c 1 0).2
      else
        let s := s.endDecode p.val k h
        let s := s.updPair k (fun x =>
          { (x.setLen h 0) with held := x.held.filter (fun y => decide (y ≠ h))
                                prefills := x.prefills.filter (fun y => decide (y.session ≠ h)), working := some r })
        let s := s.setSesArg p.val 0 h.toNat
        stateOf (execSesCmdClose (.kp (pairFin k)) p s) s)

/-! ## Rolling a scale record (R159, R383) -/

/-- Round a non-negative number into FP32. -/
def fp32Of (md : Rnd) (x : Num) : W32 := BitVec.ofNat 32 (fFP32.encode md false x)

/-- One record of a tensor after the roll: `h` is the greatest CUR_AMAX over the tensor's records. DESIGN CHOICE (log 88): a
WIN_POS at or above 8, of which the spec says nothing, is taken modulo 8. -/
def rollRecord (bs : List Byte) (h winLen : Nat) (margin : Int) (fmt : Nat) : List Byte :=
  let rd := fun i => leNat ((bs.drop i).take 4)
  let pos := (bs.getD 21 0).toNat % 8
  let hist := (List.range 8).map (fun i => if 0 < h ∧ i = pos then h else rd (32 + 4 * i))
  let pos' := if 0 < h then (pos + 1) % winLen else pos
  let a := (hist.take winLen).foldl max 0
  let sr : Nat × Nat :=
    match fp32Num (BitVec.ofNat 32 a), fmtMax fmt with
    | .fin _ m e, .fin _ fm fe =>
      if a = 0 ∨ fm = 0 then (rd 0, rd 4)
      else
        let scale := fp32Of .up (quotNum false m (e + margin) fm fe)
        (scale.toNat, match fp32Num scale with
          | .fin _ sm se => if sm = 0 then rd 4 else (fp32Of .near (quotNum false 1 0 sm se)).toNat
          | _ => 0)
    | _, _ => (rd 0, rd 4)
  leBytes 4 sr.1 ++ leBytes 4 sr.2 ++ (bs.drop 8).take 4 ++ leBytes 4 0 ++ leBytes 4 0
    ++ [BitVec.ofNat 8 winLen, BitVec.ofNat 8 pos', BitVec.ofInt 8 margin] ++ (bs.drop 23).take 9
    ++ hist.flatMap (leBytes 4)

/-- Roll the records of one tensor with the WIN_LEN and MARGIN of KPR_RT_POLICY. -/
def State.roll (s : State) (p k : Nat) (it : RollItem) : State :=
  let ok := it.addrs.filter (fun a => match physAt a with
    | .scratch t => decide (s.partOfTile t = some p) && s.tileOn t
    | _ => false)
  let h := (ok.map (fun a => s.readLe (a + 12) 4)).foldl max 0
  let winLen := max 1 (min 8 (s.cfg .kpr k 0x14 17 14))
  let mg := s.cfg .kpr k 0x14 13 9
  let margin : Int := if 16 ≤ mg then (mg : Int) - 32 else mg
  ok.foldl (fun s a => s.writeBytes a (rollRecord (s.readBytes a 64) h winLen margin it.fmt.toNat)) s

/-! ## Sampling (R384) -/

/-- The candidates of a step for one session, merged over the board: NaN left out, greatest value first, ties to the
lowest token identifier, at most `n`. -/
def mergeCands (recs : List CandRec) (n : Nat) : List (W32 × W32) :=
  let all := (recs.flatMap (·.cands)).filter (fun c => !(fp32Num c.2).isNaN)
  (all.mergeSort (fun a b =>
    let x := (fp32Num a.2).cmp (fp32Num b.2)
    decide (0 < x) || (decide (x = 0) && decide (a.1.toNat ≤ b.1.toNat)))).take n

/-- L2E. -/
def l2e : Num := fp32Num 0x3FB8AA3B

def fpAdd (a b : W32) : W32 := fp32Of .near (Num.add true false (fp32Num a) (fp32Num b))
def fpMul (a b : Num) : W32 := fp32Of .near (Num.mul true a b)

/-- The cumulative weights c_i of the merged candidates (step 5). -/
def cumWeights (y1 : W32) (c : W32) : List (W32 × W32) → List (W32 × W32)
  | [] => []
  | (t, y) :: rest =>
    let d := fp32Of .near (Num.add true false (fp32Num y) (fp32Num y1).negate)
    let c' := fpAdd c (Config.rtExp2 (fpMul (fp32Num d) l2e))
    (t, c') :: cumWeights y1 c' rest

/-- The token that a session's candidates and the draw `d` select; none without a candidate. -/
def pickToken (cands : List (W32 × W32)) (one : Bool) (d : W32) : Option W32 :=
  match cands with
  | [] => none
  | (t, y) :: _ =>
    if one then some t
    else
      let cs := cumWeights y 0 cands
      let total := ((cs.getLast?).map (·.2)).getD 0
      let u := fpMul ((fp32Num (fp32Of .near (.fin false d.toNat 0))).scale (-32)) (fp32Num total)
      match cs.find? (fun c => decide (0 < (fp32Num c.2).cmp (fp32Num u))) with
      | some c => some c.1
      | none => (cs.getLast?).map (·.1)

/-- The draw of the member at the lowest board position. -/
def drawOf (recs : List CandRec) : W32 :=
  ((recs.foldl (fun (b : Option CandRec) r => match b with
    | some x => if r.member.val < x.member.val then some r else b
    | none => some r) none).map (·.draw)).getD 0

/-! ## The step (R380–R386) -/

/-- T_EST: the greatest duration of the last 8 steps. -/
def Pair.tEst (x : Pair) : Nat := x.durations.foldl max 0

/-- The sessions of a step in the order of R381. -/
def batchOf (tEst cap : Nat) (live : List DecodeReq) : List DecodeReq :=
  (live.mergeSort (fun a b =>
    let fa := decide (4 ≤ a.missed)
    let fb := decide (4 ≤ b.missed)
    if fa ≠ fb then fa
    else if a.left - (tEst : Int) ≠ b.left - (tEst : Int) then decide (a.left ≤ b.left)
    else decide (b.missed ≤ a.missed))).take cap

/-- One session's token, or its re-run or end after a failure (R384, R386). -/
def State.deliver (s : State) (p k : Nat) (d : DecodeReq) (recs : List CandRec) : State :=
  let fail := recs.any (fun r => decide (r.failLayer ≠ 0xFFF))
  let n := if fp32Num d.temp |>.isZero then 1 else if d.topK = 0 then 64 else d.topK
  if fail then
    (if d.failedAt = some d.pos then s.cutDecode p k d
     else s.updPair k (fun x => { x with decodes := x.decodes.map (fun e =>
       if e.ref = d.ref then { e with redo := true, failedAt := some d.pos } else e) }))
  else
    match pickToken (mergeCands recs n) (decide (n = 1)) (drawOf recs) with
    | none => s.cutDecode p k d
    | some t =>
      let stop := (decide (t = d.stop0) && decide (d.stop0 ≠ 0xFFFFFFFF)) || (decide (t = d.stop1) && decide (d.stop1 ≠ 0xFFFFFFFF))
      let s := s.updPair k (fun x => x.setLen d.session (d.pos + 1))
      s.putToken p k d ⟨t, false, stop, decide (d.left < 0), stop || decide (d.k + 1 = d.maxTok)⟩

/-- FREE frames of a stack. -/
def State.freeFrames (s : State) (k : Nat) : Nat := s.frameN k - ((s.kvf k).usedFrames).length

/-- The request ends with CUT and its outcome word reads EXHAUSTED (R386). -/
def State.cutExhausted (s : State) (p k : Nat) (d : DecodeReq) : State :=
  let r := s.storeVa (tlbPart p) p d.lc d.resAddr (leBytes 8 4)
  let s := match r.1 with
    | .ok w => r.2.noteCore (2 * k) w
    | .error _ => r.2
  s.cutDecode p k d

/-- The next action of the recovery that R386 lays down before a failed session re-runs; none where there is none to
take. -/
def State.recoverStep (s : State) (p : Fin 8) (k : Nat) : Option State :=
  let x := s.pair k
  let lead := pairFin k
  let slot := fun (d : DecodeReq) => handleSlot d.session
  match x.decodes.find? (fun d => d.redo && s.liveSes p.val d.session && (s.sesEnt p.val (slot d)).parked) with
  | some d =>
    let e := s.sesEnt p.val (slot d)
    let rc : Recovery := match x.recover with
      | some r => if r.session = d.session then r else ⟨d.session, [], false⟩
      | none => ⟨d.session, [], false⟩
    let rc := { rc with full := rc.full || (decide (rc.tried ≠ []) && decide ((s.ses p.val).result = 0x04)) }
    let unpark := fun (s : State) =>
      let s := (s.updPair k (fun x => { x with recover := none })).setSesArg p.val 0 d.session.toNat
      stateOf (execUnpark (.kp lead) p s) s
    if s.freeFrames e.parkStack ≠ 0 then some (unpark s)
    else
      let next := x.held.find? (fun h =>
        !rc.tried.contains h && s.liveSes p.val h && decide ((s.sesEnt p.val (handleSlot h)).pool = e.parkPool)
          && !(rc.full && ((s.kvf e.parkStack).sesMembers (handleSlot h)).any (fun m => m.frame?.isSome)))
      match next with
      | some h =>
        let s := s.updPair k (fun x => { x with recover := some { rc with tried := rc.tried ++ [h] } })
        let s := s.setSesArg p.val 0 h.toNat
        some (stateOf (execSesCmdSpill (.kp lead) p s) s)
      | none => some ((unpark s).cutExhausted p.val k d)
  | none =>
    match x.decodes.find? (fun d => d.redo && s.liveSes p.val d.session && decide (s.sesSpilled p.val (slot d) ≠ 0)
        && !(match x.recover with | some r => decide (r.session = d.session) | none => false)) with
    | some d =>
      let s := s.updPair k (fun x => { x with recover := some ⟨d.session, [], false⟩ })
      let s := s.setSesArg p.val 0 d.session.toNat
      some (stateOf (execSesCmdFetch (.kp lead) p s) s)
    | none => none

/-- The end of a prefill: PUBLISH of the prompt's full blocks where it is asked for, then DONE (R378). -/
def State.endPrefill (s : State) (p k : Nat) (f : PrefillReq) : State :=
  let s := if f.publish ∧ s.liveSes p f.session then
      let s := ((s.setSesArg p 0 f.session.toNat).setSesArg p 4 (f.tokens / 512)).setSesArg p 5 Config.modelChains.toNat
      s.publishList p (handleSlot f.session) (.at_ f.lc f.hashAddr)
    else s
  let s := s.updPair k (fun x => { x with prefills := x.prefills.erase f })
  if waitValue f.doneMark.toNat = 0 then s else s.rtRelease p k f.lc f.doneMark (waitValue f.doneMark.toNat)

/-- A chunk of 512 tokens of the oldest prefill (R382); a DECODE of its session goes on behind it (R379). -/
def State.prefillChunk (s : State) (p k : Nat) : State :=
  match (s.pair k).prefills with
  | [] => s
  | f :: rest =>
    let n := min 512 (f.tokens - f.done)
    let f' := { f with done := f.done + n }
    let s := s.updPair k (fun x => { (x.setLen f.session (x.len f.session + n)) with
      prefills := f' :: rest
      decodes := x.decodes.map (fun e => if e.session = f.session then { e with pos := e.pos + n } else e) })
    if f'.done = f'.tokens then s.endPrefill p k f' else s

/-- The local queues that the runtime uses: the highest min(16, QUEUE_QUOTA − 1) (R376). -/
def State.runtimeQueues (s : State) (p : Nat) : List Nat :=
  let n := s.queQuota p
  (List.range n).drop (n - min 16 (n - 1))

/-- The runtime's queues carry PRIO RT_PRIO, of the set committed as a step starts (R376, R389). -/
def State.runtimePrio (s : State) (p k : Nat) : State :=
  let v := s.cfg .kpr k 0x10 27 24
  (s.runtimeQueues p).foldl (fun s q => if s.qPrio p q = v then s else s.setFieldAll .que p (0x8004 + 16 * q) 23 20 v) s

/-- The runtime takes its queues, and rings 0 to 31, for its context (R376). DEDUCED (notes/assumptions/105.md): their CTX
fields name it and its rings are enabled. -/
def State.runtimeTakes (s : State) (p k lc : Nat) : State :=
  let s := (s.runtimeQueues p).foldl (fun s q => s.setFieldAll .que p (0x8000 + 16 * q) 7 0 lc) (s.runtimePrio p k)
  (List.range 32).foldl (fun s r => (s.setFieldAll .rng p (0x100 + 4 * r) 7 0 lc).setFieldAll .rng p (0x100 + 4 * r) 31 31 1) s

/-- RUNTIME_STEP (R380): one step of the lead pair, of the given duration, with the scale records it drained and the
candidate records of its sampling gather. Not due while a session operation runs, with nothing to do, or without
results for its batch; an action of recovery that a failed session needs comes first. A session that the step's own work
parked was live as the step began; one that failed so is recovered before it re-runs (R386). -/
def execRuntimeStep (p : Fin 8) (durationNs : Nat) (rolls : List RollItem) (results : List StepResult) (s : State) :
    Result :=
  .next (
    match s.rtLead p.val with
    | none => s
    | some k =>
      if (s.ses p.val).op.isSome ∨ (s.pair k).working.isSome then s
      else match s.recoverStep p k with
      | some s => s
      | none =>
        let x := s.pair k
        let cap := if s.cfg .kpr k 0x10 12 0 = 0 then 4096 else s.cfg .kpr k 0x10 12 0
        let live := x.decodes.filter (fun d => !(d.redo && (s.sesEnt p.val (handleSlot d.session)).parked))
        let s := s.runtimePrio p.val k
        let batch := batchOf x.tEst cap live
        let share := s.cfg .kpr k 0x14 8 5
        let d := s.draw 1
        let s := d.2
        let chunk := decide (x.prefills ≠ []) && (decide (live = []) || (decide (0 < share * x.tEst) && decide (d.1 = 1)))
        if batch = [] ∧ ¬ chunk then s
        else if batch.any (fun d => !(results.any (fun r => decide (r.session = d.session)))) then s
        else
          let s := if chunk then s.prefillChunk p.val k else s
          let s := rolls.foldl (fun s it => s.roll p.val k it) s
          let s := stateOf (execTick (.kp (pairFin k)) p s) s
          let refs := batch.map (·.ref)
          let s := s.updPair k (fun x => { x with
            batch := batch.length, steps := x.steps + 1, recover := none
            durations := (x.durations ++ [durationNs]).drop (x.durations.length + 1 - 8)
            decodes := x.decodes.map (fun e => { e with
              left := e.left - durationNs, missed := if refs.contains e.ref then 0 else e.missed + 1 }) })
          let s := s.countPart p.val 0x050D 1 nobody
          batch.foldl (fun s d =>
            match (s.pair k).decodes.find? (fun e => decide (e.ref = d.ref)),
                  results.find? (fun r => decide (r.session = d.session)) with
            | some e, some r => s.deliver p.val k e r.recs
            | _, _ => s) s)

/-! ## Start and power cap (R375, R376, R387) -/

/-- The runtime of partition `p` has been started since the chip start (R375, R464's step 12). -/
def State.noteRuntime (s : State) (p : Nat) : State :=
  { s with boot := { s.boot with runtimes := (s.boot.runtimes ++ [p]).eraseDups } }

/-- RUNTIME_START (R375, R376): the lead pair's runtime leaves STARTING: IDLE where RT_EN is 0, BLOCKED where its context
is in use or the partition has fewer than two queues, else RUNNING with its context created. RT_EN and RT_CTX are
sampled at the first start after a partition reset; a restart after an engine reset finds its own context in place
(R428). The lead runtime starts the partition's other pairs, then and later (R473). While boundary scan holds chip start, a
runtime that has not started since waits (R476 step 12, R482). -/
def execRuntimeStart (p : Fin 8) (s : State) : Result :=
  .next (
    match s.leadOf p.val with
    | none => s
    | some k =>
      let others := (List.range 8).filter (fun j =>
        decide (j ≠ k) && decide (s.partOfKp j = some p.val) && s.domOn (domKp j) && (s.pair j).inReset)
      let up := others.foldl (fun s j => s.updPair j (fun x => { x with inReset := false, st := .running })) s
      if ¬ s.domOn (domKp k) ∨ s.sec.keeperFw ≠ some true ∨ (s.startHeld ∧ ¬ s.boot.runtimes.contains p.val) then s
      else if (s.pair k).st = .running then up
      else if (s.pair k).st ≠ .starting then s
      else
        let s := (up.noteRuntime p.val).startTimer (.capPeriod p.val) (.keeper k) (s.cfg .kpr k 0x18 14 11 * 1000000)
        let at_ := (s.pair k).sampled.getD (decide (s.cfg .kpr k 0x10 31 31 = 1), s.cfg .kpr k 0x10 23 16)
        let s := s.updPair k (fun x => { x with inReset := false, steps := 0, sampled := some at_ })
        let lc := at_.2
        let free := decide ((s.ctx (s.devCtx p.val lc)).st = .free)
        if ¬ at_.1 then s.updPair k (fun x => { x with st := .idle })
        else if ¬ (free ∨ (s.pair k).owns) ∨ s.ctxQuota p.val ≤ lc ∨ s.queQuota p.val < 2 then
          s.updPair k (fun x => { x with st := .blocked })
        else
          let s := (s.updPair k (fun x => { x with st := .running, owns := true })).runtimeTakes p.val k lc
          if ¬ free then s
          else stateOf (execCtxCreate (.kp (pairFin k)) p (BitVec.ofNat 8 lc) s) s)

/-- EFF_W (R467); before the input voltage has been sampled it is BOARD_W. -/
def State.effW (s : State) : Nat :=
  let b := s.cfg .pwr 0 0x48 11 0
  if s.pwr.sampled then min b (s.pwr.vinMv.toNat / 20) else b

/-- The step of R387 for package power `pq` in quarter watts against limit `c` in watts. -/
def capStep (pq c cur freqMax : Nat) : Nat :=
  if 105 * 4 * c < 100 * pq then min cur 0x08
  else if 4 * c < pq then cur - 1
  else if 1000 * pq < 975 * 4 * c then min (cur + 1) freqMax
  else cur

/-- POWER_CAP_PERIOD (R387): at each period the lead pair moves every tile of its partition by the table, through
TILE_CLK_TARGET and its commit. -/
def execPowerCapPeriod (p : Fin 8) (s : State) : Result :=
  .next (
    match s.leadOf p.val with
    | none => s
    | some k =>
      let x := s.pair k
      if ¬ (x.st = .running ∨ x.st = .idle) ∨ ¬ s.expired (.capPeriod p.val) then s
      else
        let s := s.startTimer (.capPeriod p.val) (.keeper k) (s.cfg .kpr k 0x18 14 11 * 1000000)
        let cap := s.cfg .kpr k 0x18 31 20
        let lim := if cap ≠ 0 ∧ cap < s.effW then cap else s.effW
        (s.onTiles p.val).foldl (fun s t =>
          let cur := (s.tile t).freq.target
          let new := capStep s.pwr.powerQ.toNat lim cur (s.cfg .kpr k 0x18 19 15)
          if new = cur then s
          else
            let w := setField (stagedWord .tile (s.blk ⟨.tile, t⟩) 0x40) 4 0 new
            (s.setStaged .tile t 0x40 w).go ⟨.tile, t⟩) s)

end Sys2Proof.Machine
end

