-- ==== Sys2Proof/Machine/Units.lean ====
section
/-!
DEFINITION. Units that are reset, go off or come up: the values registers take at a reset of their partition (R44, R53),
what a unit loses with its supply and how it comes up again (R473, R399), and the domains that a reset or an applied
image switches (R471).
-/
namespace Sys2Proof.Machine

/-! ## Registers (R44) -/

/-- The values of a block after a reset: its reset values, and the events that the image gives its tallies (R44, R53). -/
def imageRegs (i : Option ImageCfg) (b : BlkId) : BlockRegs :=
  let es := ((i.map (·.tallies)).getD []).filter (fun e => decide (e.cls = tallyClass b.kind) && decide (e.unit = b.unit))
  let m := es.foldl (fun m e => (List.range e.count).foldl (fun m j =>
    SMap.set 0 m (0x100 + 8 * (e.first + j)) (BitVec.ofNat 32 e.event)) m) []
  { BlockRegs.reset with staged := m, snap := m, comm := m }

/-- The registers that bind the frame, session and prefix tables keep their committed values through a reset, until it is
settled whether the tables survive (R44, R322). -/
def keptOffs : BlkKind → List Nat
  | .kvf => [0x20, 0x24, 0x28]
  | .pfx => [0x10, 0x14]
  | _ => []

def State.resetBlk (s : State) (i : Option ImageCfg) (b : BlkId) : State :=
  let kept := (s.blk b).comm.filter (fun e => (keptOffs b.kind).contains e.1)
  s.setBlk b (if keptOffs b.kind = [] then imageRegs i b else { BlockRegs.reset with staged := kept, snap := kept, comm := kept })

def State.resetBlks (s : State) (i : Option ImageCfg) (ks : List BlkKind) (u : Nat) : State :=
  ks.foldl (fun s k => s.resetBlk i ⟨k, u⟩) s

def tileKinds : List BlkKind := [.tile, .mxe, .vxe, .ste, .talTile, .ldgTile, .wch]
def stackKinds : List BlkKind := [.nme, .kvf, .talStack, .ldgStack]
def lgKinds : List BlkKind := [.lnk, .cle, .talLg]
def kpKinds : List BlkKind := [.kpr, .talKp]
def partKinds : List BlkKind := [.ctx, .que, .rng, .ses, .pfx, .flt, .talPart]

/-- LDG_EN reads 0 after a reset: the ledger is OFF; its records stay. -/
def State.ledgerOff (s : State) (b : BlkId) : State :=
  s.setLdg (blkKey b) { s.ldg (blkKey b) with st := .off, held := [] }

def State.dropTimers (s : State) (f : TimerId → Bool) : State :=
  { s with timers := s.timers.filter (fun t => !(f t.id)) }

/-! ## Resetting one unit -/

/-- A tile is reset: engines, streams, chains, registers; its scratchpad is written to zero (R429). Tally counts, ledger
records and watch snapshots stay. DESIGN CHOICE (notes/assumptions/103.md): a RESEED that runs is dropped uncounted. -/
def State.resetTile (s : State) (i : Option ImageCfg) (t : Nat) : State :=
  let s := (((s.setMxe t .reset).setVxe t .reset).setSte t .reset).setChain t []
  let s := s.setTile t { TileSt.reset with freq := (s.tile t).freq.towards 16, reseeds := (s.tile t).reseeds }
  let s := (s.setTlb (tlbTile t) []).resetBlks i tileKinds t
  let s := s.ledgerOff ⟨.ldgTile, t⟩
  let s := (List.range 4).foldl (fun s w => s.setWch (wchKey t w) { s.wch (wchKey t w) with acc := .reset }) s
  (s.zeroRange (scratchBase t) scratchSize).dropTimers (fun x => match x with
    | .stall u _ => decide (u = t)
    | .engine e u => decide (u = t) && (decide (e = .mxe) || decide (e = .vxe) || decide (e = .ste))
    | _ => false)

/-- A stack's base die is reset: its interface trains again while its domain is on; the tables end what was under way
(R274, R322). -/
def State.resetStack (s : State) (i : Option ImageCfg) (k : Nat) : State :=
  let st := s.stack k
  let s := s.setNme k .reset
  let s := s.setKvf k { (s.kvf k).interrupt with latch := Kvf.reset.latch }
  let s := s.setStack k { Stack.reset with
    st := if s.domOn (domStack k) then .training else .off
    temp := st.temp, hot := st.hot, throttled := st.throttled }
  let s := (s.setTlb (tlbBase k) []).resetBlks i stackKinds k
  (s.ledgerOff ⟨.ldgStack, k⟩).dropTimers (fun x => decide (x = .engine .nme k) || decide (x = .recal k))

/-- A link group is reset: its links train again while its domain is on; RETRAINS counts on (R371). -/
def State.resetLg (s : State) (i : Option ImageCfg) (links : Nat) (g : Nat) : State :=
  let s := (s.setLg g .reset).setCle g .reset
  let s := (List.range 4).foldl (fun s n =>
    let l := 4 * g + n
    s.setLink l { Link.reset with
      st := if s.domOn (domLg g) ∧ ¬ links.testBit l then .training else .down, retrains := (s.link l).retrains }) s
  let s := (s.setTlb (tlbLg g) []).resetBlks i lgKinds g
  s.dropTimers (fun x => match x with
    | .lamp h _ _ => decide (h = g)
    | .coll h _ _ => decide (h = g)
    | .readyAgain h _ => decide (h = g)
    | .trainWindow l _ => decide (l / 4 = g)
    | .engine e h => decide (e = .cle) && decide (h = g)
    | _ => false)

/-- A keeper pair is held in reset. -/
def State.resetKp (s : State) (i : Option ImageCfg) (p : Nat) : State :=
  let s := s.setPair p { Pair.reset with freq := (s.pair p).freq.towards 11 }
  (s.resetBlks i kpKinds p).dropTimers (fun x => decide (x = .heartbeat p) || decide (x = .engine .kpr p))

/-! ## Supplies of a unit (R473) -/

def State.setDom (s : State) (d : Nat) (on : Bool) : State :=
  let m : BitVec 88 := BitVec.ofNat 88 (2 ^ d)
  { s with pwr := { s.pwr with on := if on then s.pwr.on ||| m else s.pwr.on &&& ~~~m } }

/-- CLKREQ# is held low (R479): a tile, stack-interface, keeper-pair or PCI Express domain is on. -/
def State.clkreqLow (s : State) : Bool :=
  (List.range 60).any s.domOn || (List.range 8).any (fun p => s.domOn (domKp p)) || s.domOn domPcie

/-- What a domain numbers (R470). -/
inductive DomUnit where
  | tile (t : Nat)
  | stack (k : Nat)
  | lg (g : Nat)
  | kp (p : Nat)
  | nme (k : Nat)
  | pcie
  | hub
  deriving DecidableEq, Repr

def domUnit (d : Nat) : DomUnit :=
  if d < 48 then .tile d
  else if d < 60 then .stack (d - 48)
  else if d < 66 then .lg (d - 60)
  else if d < 74 then .kp (d - 66)
  else if d < 86 then .nme (d - 74)
  else if d = 86 then .pcie else .hub

/-- The tallies of the partition front ends that lie at a base die are lost with it (R392). -/
def State.loseFront (s : State) (k : Nat) : State :=
  (List.range 8).foldl (fun s p =>
    if (s.part p).home = some k then s.setTal (blkKey ⟨.talPart, p⟩) .reset else s) s

/-- What a tile's tallies keep without its supply: the channel records that its router holds (R399). -/
def TalUnit.routerOnly (u : TalUnit) : TalUnit :=
  { TalUnit.reset with chan := u.chan.filter (fun e => decide (e.1 < 7)) }

/-- What a unit of the halves loses with its supply: everything it held. -/
def State.loseUnit (s : State) (d : Nat) : State :=
  match domUnit d with
  | .tile t =>
    let s := (s.resetTile none t).setTile t .reset
    let s := ((s.setTal (blkKey ⟨.talTile, t⟩) (s.tal (blkKey ⟨.talTile, t⟩)).routerOnly).setLdg (blkKey ⟨.ldgTile, t⟩) .reset).setCycle (islandCode (.tile t)) 0
    (List.range 4).foldl (fun s w => s.setWch (wchKey t w) .reset) s
  | .stack k =>
    let s := (((s.resetStack none k).setStack k .reset).setKvf k .reset).setBlk ⟨.kvf, k⟩ .reset
    let s := (s.setTal (blkKey ⟨.talStack, k⟩) .reset).setLdg (blkKey ⟨.ldgStack, k⟩) .reset
    ((s.zeroRange (stackBase k) 0x10_0000_0000).loseFront k).setCycle (islandCode (.base k)) 0
  | .lg g => ((s.resetLg none 0 g).setTal (blkKey ⟨.talLg, g⟩) .reset).setCycle (islandCode (.link g)) 0
  | .kp p =>
    ((s.resetKp none p).setPair p .reset).setTal (blkKey ⟨.talKp, p⟩) .reset |>.setCycle (islandCode (.keeper p)) 0
  | .nme k => (s.setNme k .reset).unflag .nme k 0x24 0xF800_0000
  | .pcie =>
    (({ s with pcx := { Pcx.reset with perst := s.pcx.perst, reqs := s.pcx.reqs }, funcs := [] }).setBlk ⟨.pcx, 0⟩ .reset).setCycle
      (islandCode .pcie) 0
  | .hub => s

/-- A domain goes off (R473). -/
def State.domainOff (s : State) (d : Nat) : State := (s.setDom d false).loseUnit d

/-- A unit that comes up while FOGGED reads 1 comes up frozen with STAMP_V 0 (R399). -/
def State.comeUpFrozen (s : State) (b : BlkId) : State :=
  if s.fog.fogged then s.setTal (blkKey b) { s.tal (blkKey b) with frozen := true, stampV := false } else s

/-- A domain comes up (R473): reset values; a tile's generator is seeded, which counts (R110); a stack interface and a link
group start training (R274). Without the converters nothing comes up, which start at a chip reset only after a lockout and not
at all after a trip (R464, R478). -/
def State.domainOn (s : State) (d : Nat) (links : Nat) : State :=
  if ¬ s.pwr.conv then s
  else
  let s := (s.setDom d true).loseUnit d
  match domUnit d with
  | .tile t => (s.setTile t { TileSt.reset with reseeds := 1 }).comeUpFrozen ⟨.talTile, t⟩
  | .stack k => (s.resetStack none k).comeUpFrozen ⟨.talStack, k⟩
  | .lg g => (s.resetLg none links g).comeUpFrozen ⟨.talLg, g⟩
  | .kp p => s.comeUpFrozen ⟨.talKp, p⟩
  | _ => s

/-! ## The domains that images ask for (R471) -/

/-- The partition of an image that a domain's unit belongs to, where the unit is not excluded. -/
def domPart (i : Option ImageCfg) (d : Nat) : Option Nat :=
  match i with
  | none => none
  | some i =>
    (i.parts.find? (fun c => match domUnit d with
      | .tile t => tileIn i.mask c t
      | .stack k => stackIn i.mask c k
      | .lg g => lgIn i.mask c g
      | .kp p => kpIn i.mask c p
      | .nme k => stackIn i.mask c k && !i.mask.nme.testBit k
      | _ => false)).map (·.num)

def imageLinks (i : Option ImageCfg) : Nat := ((i.map (·.mask)).getD noMask).link

/-- Switch on every unit that an image gives to the partitions of `parts` and that is off. -/
def State.switchOn (s : State) (i : Option ImageCfg) (parts : Nat → Bool) : State :=
  (List.range 86).foldl (fun s d =>
    match domPart i d with
    | some p => if parts p ∧ ¬ s.domOn d then s.domainOn d (imageLinks i) else s
    | none => s) s

/-- The domains that image `i` gives to no partition, among those that `old` gave to the partitions of `parts` or to none. -/
def goingOff (old i : Option ImageCfg) (parts : Nat → Bool) : List Nat :=
  (List.range 86).filter (fun d =>
    (match domPart old d with
     | some p => parts p
     | none => true) && decide (domPart i d = none))

/-- Units that are to go off accept no new work (R473 step 1). -/
def State.closeDoms (s : State) (ds : List Nat) : State := ds.foldl (fun s d => s.setDom d false) s

/-- Units go off (R473 step 3). -/
def State.dropDoms (s : State) (ds : List Nat) : State := ds.foldl (fun s d => s.domainOff d) s

/-- A switch under way of a unit that a reset or an APPLY switches ends with it (R471): DESIGN CHOICE
(notes/assumptions/104.md), RESULT keeps OK. -/
def State.endSwitch (s : State) (mine : Nat → Bool) : State :=
  match s.pwr.switch with
  | some w => if mine w.dom then { s with pwr := { s.pwr with switch := none } } else s
  | none => s

/-! ## Resetting a partition's own units (R429) -/

def State.relPart (s : State) (r : Release) : Option Nat :=
  match r.cmd with
  | some (dq, _) => (s.queOwner dq).map (·.1)
  | none => s.blkPart r.party

def State.reqPart (s : State) (r : HostReader) : Option Nat :=
  match r with
  | .mark p _ _ => some p
  | .stream t _ _ => s.partOfTile t
  | .mover k => s.partOfStack k
  | .image => none
  | .atomic core _ _ _ _ => s.partOfKp (core.val / 2)
  | .release r => s.relPart r

/-- Whether a timer measures work of a partition's queues, contexts or runtime. -/
def State.timerPart (s : State) (x : TimerId) : Option Nat :=
  match x with
  | .progress q => (s.queOwner q).map (·.1)
  | .destroy c => (s.ctxOwner c).map (·.1)
  | .rung p (.context _) => some p
  | .rung p (.engine _ _) => some p
  | .capPeriod p => some p
  | _ => none

/-- The front end of a partition is reset: every context is FREE with nothing fetched, rings and barriers are empty, and
the partition's units have no work and the registers that image `i` gives them (R429). The tables of R322 are settled
when the reset ends. -/
def State.clearPart (s : State) (i : Option ImageCfg) (p : Nat) : State :=
  match s.cfgOf p with
  | none => s
  | some c =>
    let m := s.mask
    let s := { s with
      rels := s.rels.filter (fun r => decide (s.relPart r ≠ some p))
      pcx := { s.pcx with reqs := s.pcx.reqs.filter (fun r => decide (s.reqPart r ≠ some p)) }
      timers := s.timers.filter (fun t => decide (s.timerPart t.id ≠ some p)) }
    let s := (List.range c.ctxQuota).foldl (fun s n => (s.setCtx (s.devCtx p n) .reset).stopTimer (.destroy (s.devCtx p n))) s
    let s := (List.range c.queQuota).foldl (fun s n => s.setQue (s.devQue p n) .reset) s
    let s := (List.range 64).foldl (fun s r => s.setRing (ringKey p r) .reset) s
    let s := (List.range 16).foldl (fun s b => s.setBar (barKey p b) .reset) s
    let s := ((List.range 48).filter (tileIn m c)).foldl (fun s t => s.resetTile i t) s
    let s := ((List.range 12).filter (stackIn m c)).foldl (fun s k => s.resetStack i k) s
    let s := ((List.range 6).filter (lgIn m c)).foldl (fun s g => s.resetLg i m.link g) s
    let s := ((List.range 8).filter (kpIn m c)).foldl (fun s k => s.resetKp i k) s
    let s := (s.setTlb (tlbPart p) []).resetBlks i partKinds p
    let s := s.setSes p { s.ses p with op := none, result := 0, latch := Ses.reset.latch }
    let x := s.part p
    s.setPart p { Part.reset with
      home := x.home, rstBusy := x.rstBusy, rstRes := x.rstRes, rstRuns := x.rstRuns, binds := x.binds, pfx := x.pfx }

end Sys2Proof.Machine
end

