-- ==== Sys2Proof/Machine/Removal.lean ====
section
/-!
DEFINITION. Removing work (R68, R250, R252, R295, R426, R427): what each engine drops of the queues that a reset
names, a context's queues, and how a context's reset or DESTROY runs to its end.
-/
namespace Sys2Proof.Machine

/-! ## What each engine drops (R427); `sel` picks the device queues -/

/-- A SAVE or RESTORE of the tile works on buffers of the queues and finishes first. -/
def State.saveHolds (s : State) (t : Nat) (sel : Nat → Bool) : Bool :=
  let m := s.mxe t
  match m.save with
  | none => false
  | some o =>
    o.restore && (s.queByNum o.queue.toNat).any (fun x => sel (queKey x.1 x.2))
      || (selSlots o.slots).any (fun i => match (m.slot i).claim with
        | some q => sel q
        | none => false)

/-- The matrix engine, its quantiser and expander, and the pattern store: running drains count as skipped, book loads are
cancelled (R183), issues in the array are dropped. -/
def State.removeMxe (s : State) (t : Nat) (sel : Nat → Bool) : State :=
  let m := s.mxe t
  let s := (m.drains.filter (fun d => d.started && sel d.ref.q)).foldl (fun s d =>
    match s.cmdAt d.ref with
    | some c => s.loseDrain t d c
    | none => s) s
  let s := (m.bookOps.filter (fun o => sel o.ref.q)).foldl (fun s o => s.cancelBook t o) s
  let m := s.mxe t
  let swapLost := m.passes.any (fun x => sel x.ref.q && x.swapped && decide (x.next = 0)
    && ((s.cmdAt x.ref).any psSwap))
  let m := { m with
    loads := m.loads.filter (fun x => !(sel x.ref.q))
    passes := m.passes.filter (fun x => !(sel x.ref.q))
    drains := m.drains.filter (fun x => !(sel x.ref.q))
    inArray := m.inArray.filter (fun x => !(sel x.ref.q))
    swapIssued := m.swapIssued || swapLost }
  (s.setMxe t m).progress .mxe t (m.passes ≠ [] || m.loads ≠ [] || m.drains ≠ [])

/-- The buffers and slots that the queues claim become EMPTY and zero. -/
def State.removeClaims (s : State) (t : Nat) (sel : Nat → Bool) : State :=
  let m := s.mxe t
  let qs := ([m.act.claim, m.shd.claim, m.slot0.claim, m.slot1.claim].filterMap id).filter sel
  s.setMxe t (qs.foldl (fun m q => m.release q) m)

def State.removeVxe (s : State) (t : Nat) (sel : Nat → Bool) : State :=
  match (s.vxe t).op with
  | some o => if sel o.ref.q then (s.setVxe t { s.vxe t with op := none }).progress .vxe t false else s
  | none => s

/-- The frontier that the accepted RELEASE and PUSH commands of a stream leave (R222). -/
def State.pendOf (s : State) (t sid : Nat) : Nat :=
  (s.ste t).cmds.foldl (fun n x =>
    match s.cmdAt x.2 with
    | some c => if x.1 = sid ∧ (c.opcode = 0x02 ∨ c.opcode = 0x03) then n + stBytes c else n
    | none => n) ((s.ste t).stream sid).fB

/-- The stream unit: streams are unbound at once and their undelivered granules aborted (R232). Commands of the queues to
other streams are dropped, and the frontiers that those would have left with them (R222). -/
def State.removeSte (s : State) (t : Nat) (sel : Nat → Bool) : State :=
  let e := s.ste t
  let s := (e.streams.filter (fun x => sel x.2.queue && decide (x.2 ≠ .reset))).foldl (fun s x => s.unbindStream t x.1) s
  let e := s.ste t
  let s := s.setSte t { e with cmds := e.cmds.filter (fun x => !(sel x.2.q)) }
  let s := (s.ste t).streams.foldl (fun s x => s.setStream t x.1 { x.2 with pendB := s.pendOf t x.1 }) s
  s.progress .ste t (s.steBusy t)

def State.removeTile (s : State) (t : Nat) (sel : Nat → Bool) : State :=
  let s := ((s.removeMxe t sel).removeVxe t sel).removeSte t sel
  let s := if s.saveHolds t sel then s else s.removeClaims t sel
  s.setChain t ((s.chain t).filter (fun ch => !(sel ch.ref.q)))

/-- The near-memory engine (R295): its holds are released; an append stays in its session. -/
def State.removeNme (s : State) (k : Nat) (sel : Nat → Bool) : State :=
  let n := s.nme k
  let gone := n.ops.filter (fun o => sel o.ref.q)
  if gone = [] then s
  else
    let held := gone.flatMap AttOp.holds
    let s := s.setKvf k ((s.kvf k).unhold held)
    (s.setNme k { n with ops := n.ops.filter (fun o => !(sel o.ref.q)) }).stopTimer (.engine .nme k)

/-- The collective engine (R368, R347). -/
def State.removeLg (s : State) (g : Nat) (sel : Nat → Bool) : State :=
  let e := s.cle g
  let refs := e.sends.map (·.ref) ++ (e.coll.map (·.ref)).toList
  ((refs.filter (fun r => sel r.q)).foldl (fun s r => s.removeCle g r) s).closeEpochs g sel

/-- Pushes and pops of the queues' chains and entries are withdrawn from every ring of the partition. -/
def State.removeRingOps (s : State) (p : Nat) (sel : Nat → Bool) : State :=
  (List.range 64).foldl (fun s r =>
    let x := s.ring (ringKey p r)
    if x.pushes = [] ∧ x.pops = [] then s
    else s.setRing (ringKey p r) { x with
      pushes := x.pushes.filter (fun e => !(sel e.1.ref.q))
      pops := x.pops.filter (fun e => !(sel e.1.ref.q)) }) s

/-- The rings a context owns, enabled or not, lose their entries and waiting operations (R250). -/
def State.removeRings (s : State) (p lc : Nat) : State :=
  (List.range 64).foldl (fun s r => if s.ringCtx p r = lc then s.discardRing p r else s) s

/-- The barrier stages of a context: each tile that holds one sends a withdrawal, which follows the arrivals that it has sent
(R252). -/
def State.removeBars (s : State) (p dc : Nat) (sel : Nat → Bool) : State :=
  (List.range 16).foldl (fun s b =>
    let x := s.bar (barKey p b)
    let mine : List (Nat × Nat) := ((x.arrived ++ x.inbound).filter (fun e => sel e.2.q)).map (fun e => (e.1, dc))
    s.setBar (barKey p b) { x with
      notices := x.notices.filter (fun e => !(sel e.2.q)), cancelling := (x.cancelling ++ mine).eraseDups }) s

/-- A move ordered for the context stops at a unit boundary (R427); RESULT stays. -/
def State.removeMove (s : State) (k dc : Nat) : State :=
  if ((s.stack k).move.bind (·.forCtx)) = some dc then s.setStack k { s.stack k with move := none } else s

/-- Session records not yet accepted are dropped by the runtime. -/
def State.removeRecords (s : State) (p : Nat) (sel : Nat → Bool) : State :=
  match s.leadOf p with
  | none => s
  | some k => s.updPair k (fun x => { x with
      taken := x.taken.filter (fun r => !(sel r.q)), working := x.working.filter (fun r => !(sel r.q)) })

/-! ## A context's queues -/

/-- The local queues of a local context. -/
def State.queuesOf (s : State) (p lc : Nat) : List Nat :=
  (List.range (s.queQuota p)).filter (fun q => decide (s.qCtx p q = lc))

/-- The device queues of a context. -/
def State.inCtx (s : State) (p lc : Nat) (dq : Nat) : Bool :=
  match s.queOwner dq with
  | some (p', q) => decide (p' = p) && decide (s.qCtx p q = lc)
  | none => false

/-- A request of the queue's mark reads or releases that waits for the host. -/
def reqOfQueue (p q dq : Nat) : HostReader → Bool
  | .mark p' q' _ => decide (p' = p) && decide (q' = q)
  | .release r => (match r.cmd with
      | some (d, _) => decide (d = dq)
      | none => false)
  | _ => false

/-- The releases and the host's answers that a queue waits for are dropped. -/
def State.dropReleases (s : State) (p q : Nat) : State :=
  let dq := s.devQue p q
  { s with
    rels := s.rels.filter (fun r => match r.cmd with
      | some (d, _) => decide (d ≠ dq)
      | none => true)
    pcx := { s.pcx with reqs := s.pcx.reqs.filter (fun r => !(reqOfQueue p q dq r)) } }

/-- Clear a queue's committed ENABLE; QUE_STAT reads DISABLED (R426). Completed commands retire without their releases;
everything else is discarded. -/
def State.removeQueue (s : State) (p q : Nat) : State :=
  let x := s.q p q
  let past := x.cmds.filter (fun c => decide (c.phase = .complete) || decide (c.phase = .releasing) || decide (c.phase = .stuck))
  let s := past.foldl (fun s c => s.countPart p 0x0501 1 (s.whoOf p q c)) s
  let s := s.dropReleases p q
  let off := 0x8004 + 16 * q
  let s := s.setComm .que p off (setField (commWord .que (s.blk ⟨.que, p⟩) off) 31 31 0)
  (s.setQ p q { Que.reset with tail := x.tail, head := x.head }).stopTimer (.progress (s.devQue p q))

/-- Remove all work of local context `lc` (R426, R427): from every engine, its rings and barriers, its translations and
its queues. -/
def State.removeWork (s : State) (p lc : Nat) : State :=
  match s.cfgOf p with
  | none => s
  | some c =>
    let dc := s.devCtx p lc
    let sel := s.inCtx p lc
    let m := s.mask
    let s := ((List.range 48).filter (tileIn m c)).foldl (fun s t => s.removeTile t sel) s
    let s := ((List.range 12).filter (stackIn m c)).foldl (fun s k => (s.removeNme k sel).removeMove k dc) s
    let s := ((List.range 6).filter (lgIn m c)).foldl (fun s g => s.removeLg g sel) s
    let s := ((s.removeRingOps p sel).removeRings p lc).removeBars p dc sel
    let s := (s.removeRecords p sel).dropCtx dc
    (s.queuesOf p lc).foldl (fun s q => s.removeQueue p q) s

/-! ## Running a reset or DESTROY of a context to its end (R68, R426) -/

/-- Engines still hold work of the context: a SAVE or RESTORE, or a withdrawal on its way to a barrier's home. -/
def State.ctxHeld (s : State) (p lc : Nat) : Bool :=
  (s.onTiles p).any (fun t => s.saveHolds t (s.inCtx p lc))
    || (List.range 16).any (fun b => (s.bar (barKey p b)).cancelling.any (fun e => decide (e.2 = s.devCtx p lc)))

/-- CTX_CMD_STATUS of the operation that runs on a context: OK, no longer BUSY. -/
def State.ctxCmdDone (s : State) (p lc : Nat) : State :=
  let x := s.part p
  if x.cmdFor = some lc then s.setPart p { x with cmdFor := none, cmdRes := 0x00 } else s

/-- The bounds of the engine resets that an escalated context reset ordered end with the partition's last context reset,
but for those that still wait (R425). -/
def State.stopEngineRungs (s : State) (p : Nat) : State :=
  let x := s.part p
  let stale := fun (t : Timer) => match t.id with
    | .rung q (.engine e u) => decide (q = p) && !(x.rstRuns.contains (.engine e u))
    | _ => false
  if x.resetting = [] then { s with timers := s.timers.filter (fun t => !(stale t)) } else s

/-- A context whose work is gone becomes ACTIVE again, or FREE where a DESTROY ends. -/
def State.settleCtx (s : State) (p lc : Nat) : State :=
  let x := s.part p
  if ¬ x.resetting.contains lc ∨ s.ctxHeld p lc then s
  else
    let dc := s.devCtx p lc
    let s := (s.onTiles p).foldl (fun s t => s.removeClaims t (s.inCtx p lc)) s
    let y := s.ctx dc
    let s := if y.st = .resetting then s.countPart p 0x050B 1 ⟨0xFFFF, 0xFFFF, dc, false⟩ else s
    let s := s.setCtx dc { y with st := if x.destroyed.contains lc then .free else .active }
    let s := s.setPart p { s.part p with
      resetting := x.resetting.filter (fun c => decide (c ≠ lc)), destroyed := x.destroyed.filter (fun c => decide (c ≠ lc)) }
    (((s.stopTimer (.rung p (.context lc))).stopTimer (.destroy dc)).stopEngineRungs p).ctxCmdDone p lc

/-- Remove a context's work and settle it, at once or when the engines that hold some have answered. -/
def State.endContext (s : State) (p lc : Nat) (free : Bool) : State :=
  let x := s.part p
  let s := s.setPart p { x with
    resetting := (x.resetting ++ [lc]).eraseDups
    destroyed := if free then (x.destroyed ++ [lc]).eraseDups else x.destroyed }
  (s.removeWork p lc).settleCtx p lc

/-- A context reset (R426): STATE RESETTING, bounded by 10 ms (R425). -/
def State.resetContext (s : State) (p lc : Nat) (free : Bool) : State :=
  let dc := s.devCtx p lc
  let s := s.setCtx dc { s.ctx dc with st := .resetting }
  let s := (s.startTimer (.rung p (.context lc)) (s.frontIsland p) 10000000).stopTimer (.destroy dc)
  s.endContext p lc free

/-- Settle every context of a partition whose reset waits. -/
def State.settleAll (s : State) (p : Nat) : State := (s.part p).resetting.foldl (fun s lc => s.settleCtx p lc) s

/-- CTX_RESET (R67, R426): requires ACTIVE or FAULTED. -/
def execCtxReset (m : Master) (p : Fin 8) (c : BitVec 8) (s : State) : Result :=
  .next (s.ctxCmd m p.val c.toNat (fun dc =>
    if (s.ctx dc).st = .active ∨ (s.ctx dc).st = .faulted then
      (s.setPart p.val { s.part p.val with cmdFor := some c.toNat }).resetContext p.val c.toNat false
    else s.ctxResult p.val 0x01))

/-- Commands of a queue when DESTROY discards those that have not begun: later ones that have retire without their
releases (R68). -/
def discardUnbegun : Bool → List Cmd → List Cmd
  | _, [] => []
  | cut, c :: cs =>
    if c.phase = .fetched then discardUnbegun true cs
    else { c with noRel := c.noRel || cut } :: discardUnbegun cut cs

/-- The shortest progress timeout among a context's queues, in ms (R68). -/
def State.shortestTmo (s : State) (p lc : Nat) : Nat :=
  (s.queuesOf p lc).foldl (fun a q => min a (s.qTmo p q)) 10000

/-- A begun command that DESTROY stops never completes and retires without its release. -/
def State.loseBegun (s : State) (r : CmdRef) : State := s.updCmd r (fun c => { c with phase := .lost })

/-- A chain stops at stage boundaries (R245): its BARRIER, POP and PUSH stages are withdrawn, a running VRUN stops at a chunk
boundary with no status word (R210), its other begun stages run to completion, and no further stage begins. -/
def State.stopChain (s : State) (t : Nat) (ch : Chain) : State :=
  let out := fun (k : Nat) => decide (7 ≤ k) || decide (k = 4)
  let ch := { ch with stop := true, st := ch.st.zipIdx.map (fun (x : StageSt × Nat) =>
    if x.1 = StageSt.begun ∧ out (stKind (ch.stages.getD x.2 0).toNat) = true then StageSt.waiting else x.1) }
  let s := match (s.vxe t).op with
    | some o => if o.ref.q = ch.ref.q ∧ o.ref.head = ch.ref.head ∧ o.ref.stage.isSome then
        (s.setVxe t { s.vxe t with op := none }).progress .vxe t false else s
    | none => s
  let s := if ch.dead then s.setChain t ((s.chain t).filter (fun y => decide (y.ref ≠ ch.ref))) else s.putChain t ch
  s.loseBegun ch.ref

/-- The begun work of a context that DESTROY stops (R245, R295, R368): chains at stage boundaries, commands of the
near-memory and collective engines at once. DEDUCED (log 90): the other begun commands run on, by R68. -/
def State.stopWork (s : State) (p dc : Nat) (sel : Nat → Bool) : State :=
  let s := (List.range 48).foldl (fun s t => ((s.chain t).filter (fun ch => sel ch.ref.q)).foldl (fun s ch => s.stopChain t ch) s) s
  let s := (List.range 12).foldl (fun s k =>
    (((s.nme k).ops.map (·.ref)).filter (fun r => sel r.q)).foldl State.loseBegun (s.removeNme k sel)) s
  let s := (List.range 6).foldl (fun s g =>
    let refs := ((s.cle g).sends.map (·.ref) ++ ((s.cle g).coll.map (·.ref)).toList).filter (fun r => sel r.q)
    refs.foldl State.loseBegun (s.removeLg g sel)) s
  (s.removeRingOps p sel).removeBars p dc sel

/-- CTX_DESTROY (R68, R245, R295, R368): requires ACTIVE or FAULTED. Fetching stops, fetched commands that have not begun are
discarded, and the begun ones run on, but for chains and the commands of the near-memory and collective engines. -/
def execCtxDestroy (m : Master) (p : Fin 8) (c : BitVec 8) (s : State) : Result :=
  .next (s.ctxCmd m p.val c.toNat (fun dc =>
    if (s.ctx dc).st = .active ∨ (s.ctx dc).st = .faulted then
      let s := s.setPart p.val { s.part p.val with cmdFor := some c.toNat }
      let s := s.setCtx dc { s.ctx dc with st := .destroying }
      let s := s.startTimer (.destroy dc) (s.frontIsland p.val) (s.shortestTmo p.val c.toNat * 1000000)
      (s.queuesOf p.val c.toNat).foldl (fun s q =>
        let x := s.q p.val q
        let dq := s.devQue p.val q
        let s := { s with pcx := { s.pcx with reqs := s.pcx.reqs.filter (fun r => !(match r with
          | .mark a b _ => decide (a = p.val) && decide (b = q)
          | _ => false)) } }
        (s.setQ p.val q { x with recs := [], cmds := discardUnbegun false x.cmds }).stopTimer (.progress dq))
          (s.stopWork p.val dc (s.inCtx p.val c.toNat))
    else s.ctxResult p.val 0x01))

/-- DESTROY_FINISH (R68): every begun command of the context has retired, but for one whose release faulted. -/
def execDestroyFinish (p : Fin 8) (c : BitVec 8) (s : State) : Result :=
  .next (
    let lc := c.toNat
    if (s.ctx (s.devCtx p.val lc)).st = .destroying ∧ lc < s.ctxQuota p.val ∧ ¬ (s.part p.val).resetting.contains lc
        ∧ (s.queuesOf p.val lc).all (fun q => (s.q p.val q).cmds.all (fun d => decide (d.phase = .stuck))) then
      s.endContext p.val lc true
    else s)

/-- DESTROY_TIMEOUT (R68): the device performs a context reset instead, and the context ends FREE. -/
def execDestroyTimeout (p : Fin 8) (c : BitVec 8) (s : State) : Result :=
  .next (
    let dc := s.devCtx p.val c.toNat
    if (s.ctx dc).st = .destroying ∧ c.toNat < s.ctxQuota p.val ∧ s.expired (.destroy dc) then s.resetContext p.val c.toNat true else s)

end Sys2Proof.Machine
end

