-- ==== Sys2Proof/Machine/Ladder.lean ====
section
/-!
DEFINITION. Watchdogs and the ladder (R59, R60, R421–R432, R471, R475, R476): progress timeouts, hung engines, missed
heartbeats; engine, partition and chip resets with their bounds; applying an image; and the rows whose end lets a
waiting reset go on.
-/
namespace Sys2Proof.Machine

/-! ## Engine resets (R428) -/

/-- UNIT_CLASS of an engine's unit (R53). -/
def engClass : Eng → Nat
  | .nme => 1
  | .cle => 2
  | .kpr => 3
  | _ => 0

/-- A begun command that an engine reset takes: its queue halts; the first of its context takes the fault. -/
def State.loseRef (s : State) (r : CmdRef) (fault : Bool) (e : Eng) (u : Nat) : State :=
  match s.queOwner r.q, s.cmdAt r with
  | some (p, q), some c =>
    let b : Bad := ⟨0x18, 0, 0, 2, 0, 0x7F⟩
    let b := match r.stage, s.chainOf r with
      | some i, some (_, ch) => stageBad b (ch.stages.getD i 0).toNat i
      | _, _ => b
    let s := if fault then s.raise p (s.cmdFault p q c b (engClass e) u 0) else s
    (s.setStage r .faulted).haltAt p q (cmdIdx (s.que r.q).cmds r.head)
  | _, _ => s

/-- Lose begun commands, one fault for each context among them. -/
def State.loseRefs (s : State) (e : Eng) (u : Nat) : List Nat → List CmdRef → State
  | _, [] => s
  | seen, r :: rs =>
    let c := s.refCtx r
    (s.loseRef r (!(seen.contains c)) e u).loseRefs e u (c :: seen) rs

/-- The stages of a chain that a reset of its tile's matrix engine takes: those of its own that have begun, else the
first that waits. -/
def chainLost (ch : Chain) : List CmdRef :=
  let at_ := fun (x : StageSt) (f : Nat → Bool) => (List.range ch.stages.length).filter (fun i =>
    decide (ch.st.getD i .complete = x) && f (stKind (ch.stages.getD i 0).toNat))
  let own := at_ .begun (fun k => decide (k ≤ 3) || decide (7 ≤ k))
  (if own = [] then (at_ .waiting (fun _ => true)).take 1 else own).map (fun i => ⟨ch.ref.q, ch.ref.head, some i⟩)

/-- Of commands with whether their engine has them in hand, those that it has; a chain's stage has begun with its chain. -/
def inHand (xs : List (CmdRef × Bool)) : List CmdRef := (xs.filter (fun x => x.1.stage.isSome || x.2)).map (·.1)

/-- Those that wait. -/
def notInHand (xs : List (CmdRef × Bool)) : List CmdRef := (xs.filter (fun x => x.1.stage.isNone && !x.2)).map (·.1)

/-- The stream unit's commands: the first of each stream context is in hand, the others wait behind it (R215). -/
def Ste.cmdsNow (e : Ste) : List (CmdRef × Bool) :=
  e.cmds.zipIdx.map (fun x => (x.1.2, !((e.cmds.take x.2).any (fun y => decide (y.1 = x.1.1)))))

/-- The commands at an engine but for chains: each with whether the engine has taken it in hand. In the matrix engine the
passes, drains and loads stand in the order in which it works on them. -/
def State.engineCmds (s : State) (e : Eng) (u : Nat) : List (CmdRef × Bool) :=
  let m := s.mxe u
  match e with
  | .mxe => m.passes.map (fun x => (x.ref, x.started)) ++ m.drains.map (fun x => (x.ref, x.started))
      ++ m.loads.map (fun x => (x.ref, x.started))
  | .vxe => ((s.vxe u).op.map (fun x => (x.ref, x.started))).toList ++ m.bookOps.map (fun x => (x.ref, x.started))
  | .ste => (s.ste u).cmdsNow
  | .nme => (s.nme u).ops.map (fun x => (x.ref, x.started))
  | .cle => (s.cle u).sends.map (fun x => (x.ref, x.started)) ++ ((s.cle u).coll.map (fun x => (x.ref, x.started))).toList
  | .kpr => match s.partOfKp u with
    | some p => if s.leadOf p = some u then (s.pair u).taken.map (fun r => (r, true)) else []
    | none => []

/-- The begun commands that an engine reset takes (R428): those in hand, and on the matrix engine the started chains and, as
their generations are cancelled, the book loads. -/
def State.engineRefs (s : State) (e : Eng) (u : Nat) : List CmdRef :=
  match e with
  | .mxe => (inHand (s.engineCmds .mxe u ++ (s.mxe u).bookOps.map (fun x => (x.ref, x.started)))).filter
      (fun r => decide (r.stage = none)) ++ ((s.chain u).filter (·.started)).flatMap chainLost
  | _ => inHand (s.engineCmds e u)

/-- The commands accepted at an engine that wait there behind others: a reset of it leaves them to begin again (R428). -/
def State.engineIdle (s : State) (e : Eng) (u : Nat) : List CmdRef :=
  notInHand (s.engineCmds e u) ++ (if e = .mxe then
    notInHand ((s.mxe u).bookOps.map (fun x => (x.ref, x.started))) ++ ((s.chain u).filter (fun ch => !ch.started)).map (·.ref)
    else [])

/-- A command goes back to its queue, unbegun. -/
def State.unbegin (s : State) (r : CmdRef) : State :=
  s.updCmd r (fun c => { c with phase := .fetched, held := [], rd := [], wr := [] })

/-- The ring operations of a tile's chains, or of a near-memory engine, are withdrawn, and the tile's barrier arrivals as a
context's reset withdraws them (R252, R427, R428). -/
def State.withdraw (s : State) (p : Nat) (e : Eng) (u : Nat) : State :=
  let mine : RingParty → Bool := fun x => match x with
    | .chain t _ => decide (e = .mxe) && decide (t = u)
    | .nme k _ => decide (e = .nme) && decide (k = u)
  let s := (List.range 64).foldl (fun s r =>
    let x := s.ring (ringKey p r)
    if x.pushes = [] ∧ x.pops = [] then s
    else s.setRing (ringKey p r) { x with
      pushes := x.pushes.filter (fun e => !(mine e.1)), pops := x.pops.filter (fun e => !(mine e.1)) }) s
  if e ≠ .mxe then s
  else (List.range 16).foldl (fun s b =>
    let x := s.bar (barKey p b)
    let gone := ((x.arrived ++ x.inbound).filter (fun a => decide (a.1 = u))).map (fun a => (a.1, s.refCtx a.2))
    s.setBar (barKey p b) { x with
      notices := x.notices.filter (fun a => decide (a.1 ≠ u)), cancelling := (x.cancelling ++ gone).eraseDups }) s

/-- The runtime restarts from a reset of its pair: RT_CTX takes a context reset; requests that were accepted stay. -/
def State.resetPair (s : State) (p k : Nat) : State :=
  let x := s.pair k
  let hb := 100000000 + s.cfg .kpr k 0x34 11 0 * 1000000
  let s := if s.cfg .kpr k 0x10 31 31 = 1 then s.startTimer (.heartbeat k) .mgmt hb else s
  if s.leadOf p ≠ some k then s.setPair k { x with inReset := true }
  else
    let s := s.setPair k { x with inReset := true, st := .starting, taken := [], working := none, batch := 0, recover := none }
    let lc := (x.sampled.map (·.2)).getD 0
    let st := (s.ctx (s.devCtx p lc)).st
    if x.owns ∧ (st = .active ∨ st = .faulted) then s.resetContext p lc false else s

/-- What an engine reset takes from its engine (R427, R428). -/
def State.clearEngine (s : State) (p : Nat) (e : Eng) (u : Nat) : State :=
  let all := fun _ => true
  match e with
  | .mxe =>
    let s := s.removeMxe u all
    let s := s.setChain u ((s.chain u).filter (·.started))
    s.setMxe u { s.mxe u with act := .reset, shd := .reset, slot0 := .reset, slot1 := .reset }
  | .vxe => ((s.removeVxe u all).mxe u).bookOps.foldl (fun s o => s.cancelBook u o) (s.removeVxe u all)
  | .ste => s.removeSte u all
  | .nme => s.removeNme u all
  | .cle => s.removeLg u all
  | .kpr => s.resetPair p u

/-- An engine reset is performed (R428): the commands that have not begun there go back to their queues, the begun ones are
removed, and each context that lost some takes a fault. A keeper pair's records take theirs before the context reset. -/
def State.performEngine (s : State) (p : Nat) (e : Eng) (u : Nat) : State :=
  let refs := s.engineRefs e u
  let s := (s.engineIdle e u).foldl State.unbegin s
  if e = .kpr then (s.loseRefs e u [] refs).clearEngine p e u
  else ((s.clearEngine p e u).withdraw p e u).loseRefs e u [] refs

/-- The domain of an engine's unit. -/
def engDomain : Eng → Nat → Nat
  | .nme, u => domNme u
  | .cle, u => domLg u
  | .kpr, u => domKp u
  | _, u => domTile u

/-- An engine reset waits for a SAVE or RESTORE (R427), and for a switch of its domain (R474). -/
def State.engineHeld (s : State) (e : Eng) (u : Nat) : Bool :=
  decide (e = .mxe) && (s.mxe u).save.isSome
    || (match s.pwr.switch with
        | some w => decide (w.dom = engDomain e u)
        | none => false)

/-- The order of FLT_RST_CMD that has run ends with RESULT `r`. -/
def State.rstDone (s : State) (p : Nat) (g : Rung) (r : Byte) : State :=
  let x := s.part p
  if x.rstBusy = some g then s.setPart p { x with rstBusy := none, rstRes := r } else s

/-- An engine reset begins: performed at once, or waiting within 100 ms (R425); a pair's heartbeat is not watched meanwhile
(R424). -/
def State.engineReset (s : State) (p : Nat) (e : Eng) (u : Nat) : State :=
  let g := Rung.engine e u
  if s.engineHeld e u then
    let x := s.part p
    let s := if e = .kpr then s.stopTimer (.heartbeat u) else s
    (s.setPart p { x with rstRuns := (x.rstRuns ++ [g]).eraseDups }).startTimer (.rung p g) (s.frontIsland p) 100000000
  else (s.performEngine p e u).rstDone p g 0x00

/-- Engine resets that no longer wait are performed, and contexts that waited settle (R432). -/
def State.pumpResets (s : State) : State :=
  (s.partsOf).foldl (fun s c =>
    let p := c.num
    let s := (s.part p).rstRuns.foldl (fun s g => match g with
      | .engine e u =>
        if s.engineHeld e u then s
        else
          let s := s.setPart p { s.part p with rstRuns := (s.part p).rstRuns.filter (fun y => decide (y ≠ g)) }
          ((s.performEngine p e u).rstDone p g 0x00).stopTimer (.rung p g)
      | _ => s) s
    s.settleAll p) s

/-! ## Partition resets (R322, R429) -/

/-- What binds a partition's tables. -/
def State.binding (s : State) (p : Nat) : Binding :=
  { stks := s.frameStacks p, frameQ := ((s.cfgOf p).map (·.frameQ)).getD [], home := (s.part p).home
    sesQuota := s.sesQuota p }

/-- Links and stacks of a partition that are still training. -/
def partTrains (s : State) (i : Option ImageCfg) (p : Nat) : Bool :=
  (List.range 12).any (fun k => decide (domPart i (domStack k) = some p) && s.domOn (domStack k)
      && decide ((s.stack k).st = .training))
    || (List.range 24).any (fun l => decide (domPart i (domLg (l / 4)) = some p) && s.domOn (domLg (l / 4))
      && !(imageLinks i).testBit l && decide ((s.link l).st = .training))

/-- A partition reset begins (R429): units on, work gone, registers reset, stacks and links training. -/
def State.resetPart (s : State) (p : Nat) : State :=
  match s.cfgOf p with
  | none => s
  | some c =>
    let i := s.img.applied
    let x := s.part p
    let s := s.setPart p { x with
      binds := if x.rstRuns.contains .partition then x.binds else some (s.binding p), rstRuns := [.partition] }
    let s := s.endSwitch (fun d => decide (domPart i d = some p))
    let s := (s.switchOn i (fun q => decide (q = p))).clearPart i p
    let s := if (List.range 6).any (lgIn s.mask c) then { s with board := { s.board with inc := s.board.inc + 1 } } else s
    s.startTimer (.rung p .partition) .mgmt 1500000000

/-- The runtime of a ready partition starts once keeper firmware is verified: its pairs' watches begin 100 ms later
(R375, R389, R424). -/
def State.startRuntime (s : State) (p : Nat) : State :=
  match s.leadOf p with
  | none => s
  | some k =>
    if s.sec.keeperFw ≠ some true ∨ ¬ (s.part p).ready ∨ (s.pair k).st ≠ .off then s
    else
      let s := s.updPair k (fun x => { x with st := .starting })
      ((List.range 8).filter (fun j => decide (s.partOfKp j = some p) && s.domOn (domKp j)
        && decide (s.cfg .kpr j 0x10 31 31 = 1))).foldl (fun s j =>
          s.startTimer (.heartbeat j) .mgmt (100000000 + s.cfg .kpr j 0x34 11 0 * 1000000)) s

/-- Session slots become FREE and keep their GEN (R322). -/
def Ses.cleared (x : Ses) : Ses :=
  { x with slots := (x.slots.map (fun e => (e.1, { SesEnt.reset with gen := e.2.gen }))).filter (fun e => decide (e.2 ≠ .reset)) }

/-- The tables of a partition are cleared, and the registers that bind them take their reset values (R44, R322). -/
def State.clearTables (s : State) (p : Nat) : State :=
  match s.cfgOf p with
  | none => s
  | some c =>
    let s := ((List.range 12).filter (stackIn s.mask c)).foldl (fun s k => (s.setKvf k .reset).setBlk ⟨.kvf, k⟩ .reset) s
    let s := (s.setSes p (s.ses p).cleared).setBlk ⟨.pfx, p⟩ .reset
    s.setPart p { s.part p with pfx := [] }

/-- A partition that has been reset is ready (R238, R429): its home is the lowest stack that trained; its tables survive
where what binds them is unchanged. Without a home it is not ready. Its front end's tallies start from zero at another home
than before, frozen where that came up while FOGGED (R392, R399). -/
def State.readyPart (s : State) (p : Nat) : State :=
  match s.cfgOf p with
  | none => s
  | some c =>
    let x := s.part p
    let home := (partStacks s.mask c).find? (fun k => s.stackUp k)
    let s := if x.home = home then s
      else s.setTal (blkKey ⟨.talPart, p⟩) { TalUnit.reset with
        frozen := home.any (fun k => s.fog.fogged && (s.tal (blkKey ⟨.talStack, k⟩)).frozen) }
    let s := s.setPart p { x with home := home, ready := home.isSome, binds := none, rstRuns := [] }
    let s := if x.binds = some (s.binding p) then s else s.clearTables p
    let s := (s.rstDone p .partition 0x00).stopTimer (.rung p .partition)
    s.startRuntime p

/-- Partition resets end once their stacks and links have left TRAINING. -/
def State.readyParts (s : State) : State :=
  (s.partsOf).foldl (fun s c =>
    if (s.part c.num).rstRuns.contains .partition ∧ ¬ partTrains s s.img.applied c.num then s.readyPart c.num else s) s

/-! ## Applying an image (R59) -/

/-- Sections and tally entries of a partition are the same in two images, and no bit of the unit mask that concerns its
units changes. -/
def samePart (a b : ImageCfg) (p : Nat) : Bool :=
  let own := fun (i : ImageCfg) (d : Nat) => ((i.parts.find? (fun c => decide (c.num = p))).any (fun c =>
    match domUnit d with
    | .tile t => c.quadMask.testBit (quadOfTile t)
    | .stack k => c.quadMask.testBit k
    | .lg g => c.lgMask.testBit g
    | .kp k => c.keepMask.testBit k
    | .nme k => c.quadMask.testBit k
    | _ => false) : Bool)
  let bitOf : ImageCfg → Nat → Bool := fun i d =>
    match domUnit d with
    | .tile t => i.mask.tile.testBit t
    | .stack k => i.mask.stack.testBit k
    | .lg g => i.mask.lgroup.testBit g
    | .kp k => i.mask.keeper.testBit k
    | .nme k => i.mask.nme.testBit k
    | _ => false
  let tals := fun (i : ImageCfg) => i.tallies.filter (fun e => decide (e.owner = p) || (List.range 86).any (fun d =>
    own i d && (match domUnit d with
      | .tile t => decide (e.cls = 0) && decide (e.unit = t)
      | .stack k => decide (e.cls = 1) && decide (e.unit = k)
      | .lg g => decide (e.cls = 2) && decide (e.unit = g)
      | .kp k => decide (e.cls = 3) && decide (e.unit = k)
      | _ => false)) || (decide (e.cls = 4) && decide (e.unit = p)))
  let sect := fun (i : ImageCfg) (t : Nat) => (i.sections.find? (fun x => decide (x.1 = (t, p)))).map (·.2)
  [0x01, 0x03, 0x04].all (fun t => decide (sect a t = sect b t))
    && (tals a).all (tals b).contains && (tals b).all (tals a).contains
    && (List.range 86).all (fun d => !(own a d) || decide (bitOf a d = bitOf b d))
    && (List.range 24).all (fun l => !(own a (domLg (l / 4))) || decide (a.mask.link.testBit l = b.mask.link.testBit l))

/-- Numbers of the partitions of an image that the mask names. -/
def masked (i : Option ImageCfg) (mask : BitVec 8) : List Nat :=
  ((((i.map (·.parts)).getD []).map (·.num)).filter (fun p => mask.getLsbD p))

/-- The units that an APPLY switches: those of the masked partitions in either image, and those of none (R471). -/
def State.applyDoms (s : State) (d : Nat) : Bool :=
  decide (d < 86) && (match domPart s.img.applied d, domPart s.img.pendingImage d with
    | some p, _ => s.img.mask.getLsbD p
    | none, some p => s.img.mask.getLsbD p
    | none, none => true)

/-- The domains that the APPLY under way takes off. -/
def State.applyOff (s : State) : List Nat := goingOff s.img.applied s.img.pendingImage (fun p => s.img.mask.getLsbD p)

/-- The reset of the masked partitions, and their units switched as the new image asks (R59, R471): those that are to go off
take no new work from now on, and go off before the APPLY ends (R24, R473). A lower rung's order reads ESCALATED (R432), and
each partition with a link group has a new incarnation before its links train (R433). -/
def State.beginApply (s : State) (new : ImageCfg) (mask : BitVec 8) : State :=
  let old := s.img.applied
  let s := { s with img := { s.img with busy := some .apply, pendingImage := some new, mask := mask, result := 0, detail := 0xFF } }
  let inMask := fun p => mask.getLsbD p
  let s := (masked old mask).foldl (fun s p =>
    let x := s.part p
    let s := s.setPart p { x with
      binds := some (s.binding p), rstRuns := [], rstBusy := none, rstRes := if x.rstBusy.isSome then 0x04 else x.rstRes }
    (s.clearPart (some new) p).stopTimer (.rung p .partition)) s
  let n := ((new.parts).filter (fun c => inMask c.num && (List.range 6).any (lgIn new.mask c))).length
  let s := { s with board := { s.board with inc := s.board.inc + BitVec.ofNat 16 n } }
  let s := s.endSwitch s.applyDoms
  (s.closeDoms s.applyOff).switchOn (some new) inMask

/-- IMG_APPLY (R59): RESULT FORMAT without VERIFIED, CONFLICT where a partition outside the mask would change. -/
def execImgApply (m : Master) (s : State) : Result :=
  .next (s.imgCmd m (fun s =>
    if ¬ s.img.verified then s.imgResult 0x01
    else
      let new := imgCfg s.img.buf
      let mask : BitVec 8 := BitVec.ofNat 8 (s.cfg .img 0 0x2C 7 0)
      let old := s.img.applied.getD { new with parts := [], mask := noMask, tallies := [], sections := [] }
      if (List.range 8).all (fun p => mask.getLsbD p || samePart old new p) then s.beginApply new mask
      else s.imgResult 0x0A))

/-- The owner of a byte of device memory: its partition, region kind (100: neither region) and region offset (R51, R59). -/
def byteOwner (i : Option ImageCfg) (a : Nat) : Option (Nat × Nat × Nat) :=
  match physAt a, i with
  | .stack k, some i =>
    (i.parts.find? (fun c => stackIn i.mask c k)).bind (fun c =>
      let o := a - stackBase k
      let stks := partStacks i.mask c
      let il := c.intlQ * 0x1000_0000
      if o < il then
        some (c.num, 0, (o / 4096 * stks.length + (stks.findIdx (fun j => decide (j = k)))) * 4096 + o % 4096)
      else if o < il + frameCount c k * 0x2_0000 then some (c.num, 1 + k, o - il)
      else some (c.num, 100, 0))
  | _, _ => none

/-- Every byte whose place changes, in a partition of the mask, is written to zero. -/
def State.zeroChanged (s : State) (old new : Option ImageCfg) (mask : BitVec 8) : State :=
  let hit := fun a =>
    let x := byteOwner old a
    let y := byteOwner new a
    let inMask := fun (o : Option (Nat × Nat × Nat)) => match o with
      | some (p, _, _) => mask.getLsbD p
      | none => true
    match physAt a with
    | .stack _ => decide (x ≠ y) && inMask x && inMask y
    | _ => false
  { s with mem := s.mem.filter (fun c => !(hit c.1)), poison := s.poison.filter (fun c => !(hit (c.1 * 64))) }

/-- The events that an image gives the tallies of the I/O die, which no partition's units hold; one that the image before named
and this one does not counts nothing (R53). -/
def State.ioEvents (s : State) (old : Option ImageCfg) (i : ImageCfg) : State :=
  let b : BlkId := ⟨.talIo, 0⟩
  let r := s.blk b
  let named : List TallyAlloc → List (Nat × W32) := fun ts => (ts.filter (fun e => decide (e.cls = 5))).flatMap (fun e =>
    (List.range e.count).map (fun j => (0x100 + 8 * (e.first + j), BitVec.ofNat 32 e.event)))
  let es : List (Nat × W32) := (named ((old.map (·.tallies)).getD [])).map (fun e => (e.1, 0)) ++ named i.tallies
  let put := fun (m : SMap W32) => es.foldl (fun m e => SMap.set 0 m e.1 e.2) m
  es.foldl (fun s e => s.committed b e.1 (commWord .talIo r e.1)) (s.setBlk b { r with staged := put r.staged, comm := put r.comm })

/-- IMG_APPLY_DONE (R59, R60, R461): due once the units concerned have trained and no flit is in flight to or from those that
go off (R24). The new image is current, every partition of the mask is ready, and those absent from it are gone. An ESCALATED
that stands since a chip reset stays (R425). -/
def execImgApplyDone (s : State) : Result :=
  .next (
    match s.img.busy, s.img.pendingImage with
    | some .apply, some new =>
      let mask := s.img.mask
      let old := s.img.applied
      let parts := masked (some new) mask
      let offs := s.applyOff
      if parts.any (fun p => partTrains s (some new) p) ∨ (¬ s.boot.applied ∧ s.startHeld) ∨ ¬ offs.all s.chansIdle then s
      else
        let esc := (List.range 8).filter (fun p => !s.boot.applied && (s.flags .flt p 0x24).getLsbD 30)
        let s := s.dropDoms offs
        let gone := (masked old mask).filter (fun p => !(parts.contains p))
        let s := s.zeroChanged old (some new) mask
        let s := { s with img := { s.img with
          busy := none, applied := some new, pendingImage := none, applies := s.img.applies + 1, result := 0, detail := 0xFF } }
        let s := gone.foldl (fun s p => s.setPart p .reset) s
        let s := parts.foldl (fun s p =>
          let c := (s.cfgOf p).getD ⟨p, 0, 0, 0, 0, 0, 0, 0, 0, [], 0, 0⟩
          let m := s.mask
          let i := s.img.applied
          let s := ((List.range 48).filter (tileIn m c)).foldl (fun s t => s.resetBlks i tileKinds t) s
          let s := ((List.range 12).filter (stackIn m c)).foldl (fun s k => s.resetBlks i stackKinds k) s
          let s := ((List.range 6).filter (lgIn m c)).foldl (fun s g => s.resetBlks i lgKinds g) s
          let s := ((List.range 8).filter (kpIn m c)).foldl (fun s k => s.resetBlks i kpKinds k) s
          let s := s.resetBlks i partKinds p
          let s := if esc.contains p then s.flag .flt p 0x24 (bit 30) else s
          s.readyPart p) s
        let s := (s.ioEvents old new).loseWindows
        let s := { s with
          sec := { s.sec with slots := s.sec.slots.set 4 new.digest }
          boot := { s.boot with applied := true, chipReset := false } }
        (s.stopTimer (.rung 0 .chip)).alert (bit 28)
    | _, _ => s)

/-! ## Chip resets (R430, R475, R476) -/

/-- Steps 2 on of chip start begin anew (R430): everything loses its state but the always-on blocks. `fromMgmt` omits
step 5, so PCI Express stays as it is. The OTP area is chosen again, and the converters may start again (R464). -/
def State.restart (s : State) (fromMgmt : Bool) : State :=
  let kinds := [BlkKind.mgt, .sec, .otp, .pwr, .talIo] ++ (if fromMgmt then [BlkKind.pcx] else [])
  let keys := kinds.map (fun k => blkKey ⟨k, 0⟩)
  let tal := s.tal (blkKey ⟨.talIo, 0⟩)
  let pcie := fromMgmt && s.domOn domPcie
  { State.reset with
    flash := s.flash
    blocks := s.blocks.filter (fun e => keys.contains e.1)
    board := { Board.reset with inc := s.board.inc + 1 }
    tals := SMap.set .reset [] (blkKey ⟨.talIo, 0⟩) { tal with frozen := false }
    cycles := SMap.set 0 [] (islandCode .mgmt) (s.cycle (islandCode .mgmt))
    fog := { s.fog with fogged := false, reach := [] }
    pcx := if fromMgmt then { s.pcx with reqs := [] } else { Pcx.reset with perst := s.pcx.perst }
    funcs := if fromMgmt then s.funcs else []
    mgt := { s.mgt with fwSt := .idle, fwComps := [], fwComp := 0, fwSize := 0, fwGot := 0 }
    otp := s.otp
    sec := { s.sec with
      keeperFw := none, keeperCopyB := false, mgmtFw := none
      slots := s.sec.slots.take 2 ++ List.replicate 6 (List.replicate 32 0) }
    pwr := { s.pwr with
      lockout := false, conv := false, domRes := if s.pwr.switch.isSome then 0x06 else s.pwr.domRes, switch := none
      on := if pcie then BitVec.ofNat 88 (2 ^ domPcie) else 0 }
    boot := { Boot.reset with otpRead := true, chipReset := true, fromMgmt := fromMgmt }
    jtag := s.jtag
    straps := s.straps
    timers := s.timers.filter (fun t => decide (t.id = .fogOut) || decide (t.id = .clamp))
    out := s.out
    free := s.free
    pending := s.pending }

/-- Whether a block of 2 KiB is the valid settings generation of area `i` (R457). -/
def otpValid (i : Nat) (b : List Byte) : Bool :=
  decide (otpLe b 0 4 = 0x544F4A57) && decide (otpLe b 4 1 = i + 1) && decide (Config.sha3 (b.take 2016) = (b.drop 2016).take 32)

/-- OTP is read and the settings area chosen: the highest programmed area that is valid; a programmed one that is not
is BAD (R457). OTP_LAST is set where one area is left (R451, R462). -/
def State.readOtp (s : State) : State :=
  let areas := s.otp.areas.zipIdx.map (fun x => { x.1 with bad := x.1.used && !(otpValid x.2 x.1.data) })
  let good := (areas.zipIdx.filter (fun x => x.1.used && !x.1.bad)).map (·.2)
  let s := { s with otp := { areas := areas, inUse := good.getLast?, writing := none } }
  if (areas.filter (fun x => !x.used)).length = 1 then s.alert (bit 26) else s

/-- A chip reset (R430), bounded by 4 s (R425). -/
def State.chipReset (s : State) (fromMgmt : Bool) : State :=
  ((s.restart fromMgmt).readOtp).startTimer (.rung 0 .chip) .mgmt 4000000000

/-- PWR_CYCLE_REQ# is driven low until the auxiliary supply goes (R431). -/
def State.powerCycle (s : State) : State := ({ s with pwr := { s.pwr with cycleReq := true } }).emit .powerCycleReq

/-- POWER_CYCLE (R431). -/
def execPowerCycle (s : State) : Result := .next s.powerCycle

/-! ## Orders of FLT_RST_CMD (R421, R425, R428, R432) -/

/-- The engine that a code of FLT_RST_CMD names. -/
def engOf : Nat → Option Eng
  | 1 => some .mxe
  | 2 => some .vxe
  | 3 => some .ste
  | 4 => some .nme
  | 5 => some .cle
  | 6 => some .kpr
  | _ => none

/-- How high a rung stands. -/
def rungRank : Rung → Nat
  | .context _ => 0
  | .engine _ _ => 1
  | .partition => 2
  | .chip => 3

def State.rstResult (s : State) (p : Nat) (r : Byte) : State := s.setPart p { s.part p with rstRes := r }

/-- Order a rung through FLT_RST_CMD: BUSY while one as high runs; a lower one's status reads ESCALATED. `f` begins it. -/
def State.order (s : State) (p : Nat) (g : Rung) (f : State → State) : State :=
  let x := s.part p
  let again := x.rstRuns.contains g
  match x.rstBusy with
  | some h =>
    if rungRank g ≤ rungRank h then s.rstResult p 0x01
    else f (s.setPart p { x with rstBusy := some g, rstRes := 0x04 })
  | none => if again then s.rstResult p 0x01 else f (s.setPart p { x with rstBusy := some g, rstRes := 0x00 })

/-- ENGINE_RESET (R428): by the partition's function, its keeper pairs and the management port. -/
def execEngineReset (m : Master) (p : Fin 8) (engine : BitVec 4) (unit : BitVec 8) (s : State) : Result :=
  .next (
    if ¬ (s.reaches m ⟨.flt, p.val⟩ ∧ s.ownFnKpMgmt m p.val) then s
    else match engOf engine.toNat with
      | none => s.rstResult p.val 0x02
      | some e =>
        if s.engPart e unit.toNat ≠ some p.val then s.rstResult p.val 0x02
        else s.order p.val (.engine e unit.toNat) (fun s => s.engineReset p.val e unit.toNat))

/-- PARTITION_RESET (R429). -/
def execPartitionReset (m : Master) (p : Fin 8) (s : State) : Result :=
  .next (
    if ¬ (s.reaches m ⟨.flt, p.val⟩ ∧ s.ownFnKpMgmt m p.val) ∨ s.applying ⟨.flt, p.val⟩ then s
    else s.order p.val .partition (fun s => s.resetPart p.val))

/-- CHIP_RESET (R425, R430): by the physical function only; any other writer is DENIED. -/
def execChipReset (m : Master) (p : Fin 8) (s : State) : Result :=
  .next (
    if ¬ s.reaches m ⟨.flt, p.val⟩ then s
    else if m = .pf then s.chipReset false
    else if s.ownFnKpMgmt m p.val then s.rstResult p.val 0x03
    else s)

/-! ## Climbing (R425) -/

/-- The lower rung that FLT_RST_CMD ordered is completed by a higher one. -/
def State.climbed (s : State) (p : Nat) (g : Rung) : State :=
  let x := s.part p
  if x.rstBusy = some g then s.setPart p { x with rstBusy := none, rstRes := 0x04 } else s

/-- The tiles that still hold work of a context. -/
def State.tilesHolding (s : State) (p lc : Nat) : List Nat :=
  (s.onTiles p).filter (fun t => s.saveHolds t (s.inCtx p lc)
    || (List.range 16).any (fun b => (s.bar (barKey p b)).cancelling.contains (t, s.devCtx p lc)))

/-- RUNG_TIMEOUT (R425): the rung above takes over and ESCALATED is set, after the registers that it resets. An engine reset
that a context reset orders has its own bound where it must wait. -/
def execRungTimeout (p : Fin 8) (r : Rung) (s : State) : Result :=
  .next (
    let pn := match r with
      | .chip => 0
      | _ => p.val
    if ¬ s.expired (.rung pn r) then s
    else
      let s := s.stopTimer (.rung pn r)
      match r with
      | .context lc =>
        if ¬ (s.part pn).resetting.contains lc then s
        else
          let ts := s.tilesHolding pn lc
          let s := ts.foldl (fun s t => s.engineReset pn .mxe t) s
          (s.settleAll pn).escalated pn
      | .engine _ _ => ((s.climbed pn r).resetPart pn).escalated pn
      | .partition => ((s.climbed pn r).chipReset false).escalated pn
      | .chip => s.powerCycle.alert (bit 29))

/-! ## Watchdogs (R422–R424) -/

/-- What the oldest unretired command of a queue waits on: CAUSE of a progress timeout (R422). -/
def State.waitsOn (s : State) (p q : Nat) (c : Cmd) : Nat :=
  let dq := s.devQue p q
  let mine := fun (r : CmdRef) => decide (r.q = dq) && decide (r.head = c.head)
  match c.phase with
  | .fetched =>
    if ¬ c.allMet then 1
    else if c.book = .pending then (if 0 < s.bookRefs c.target (bitsOf (c.word 6) 55 53) then 5 else 0)
    else if 1 ≤ c.engine ∧ c.engine ≤ 5 ∧ ¬ s.engineMay dq c then 7 else 0
  | .begun =>
    if (List.range 64).any (fun r => (s.ring (ringKey p r)).pushes.any (fun e => mine e.1.ref)
        || (s.ring (ringKey p r)).pops.any (fun e => mine e.1.ref)) then 3
    else if (List.range 16).any (fun b => (s.bar (barKey p b)).arrived.any (fun e => mine e.2)
        || (s.bar (barKey p b)).inbound.any (fun e => mine e.2)) then 4
    else if c.engine = 2 ∧ (s.mxe c.target).bookOps.any (fun o => mine o.ref
        && (coveredSlots (s.mxe c.target) o.slot o.shape.toNat).any (fun k => decide (0 < s.bookRefs c.target k))) then 5
    else if 1 ≤ c.engine ∧ c.engine ≤ 2 ∧ s.fillWaits ⟨dq, c.head, none⟩ c then 2
    else match s.chainOf ⟨dq, c.head, none⟩ with
      | some (_, ch) =>
        if (List.range ch.stages.length).any (fun i =>
            decide (ch.st.getD i .complete = .begun) && s.fillWaits ⟨dq, c.head, some i⟩ c) then 2 else 0
      | none => 0
  | _ => 0

/-- PROGRESS_TIMEOUT (R422): the queue halts, begun commands run on, and with AUTO_CTX a context reset follows. -/
def execProgressTimeout (p : Fin 8) (q : Fin 2048) (s : State) : Result :=
  .next (
    let x := s.q p.val q.val
    let dq := s.devQue p.val q.val
    if ¬ s.expired (.progress dq) ∨ x.halted then s
    else
      let tmo := s.qTmo p.val q.val
      let i := (x.cmds.findIdx (fun c => decide (c.phase = .fetched)))
      let s : State := match x.cmds.find? (fun c => decide (c.phase ≠ .stuck)) with
        | some c => s.raise p.val (s.cmdFault p.val q.val c ⟨0x16, s.waitsOn p.val q.val c, tmo, 2, 0, 0x7F⟩ 4 p.val 0)
        | none =>
          if x.recs = [] then s.raise p.val (s.queFault p.val q.val ⟨0x16, 0, tmo, 2, 0, 0x7F⟩)
          else
            let c := mkCmd (x.head - BitVec.ofNat 32 x.recs.length) x.recs.flatten
            s.raise p.val (s.cmdFault p.val q.val c ⟨0x16, 6, tmo, 2, 0, 0x7F⟩ 4 p.val 0)
      let s := s.haltFrom p.val q.val i
      let lc := s.qCtx p.val q.val
      let st := (s.ctx (s.devCtx p.val lc)).st
      if s.cfg .flt p.val 0x10 30 30 = 1 ∧ (st = .active ∨ st = .faulted) then s.resetContext p.val lc false else s)

/-- What an engine waits for without its watchdog: fill bits, claims and REFS, rings, a grant or back-pressure, a lossless
ledger, an allocation (R423). -/
def State.engineWaits (s : State) (e : Eng) (u : Nat) : Bool :=
  let fill := fun (r : CmdRef) => match s.cmdAt r with
    | some c => s.fillWaits r c
    | none => false
  match e with
  | .mxe =>
    let m := s.mxe u
    let idle := decide (m.passes = []) && decide (m.drains = []) && decide (m.loads = [])
    s.ldgHolds ⟨.ldgTile, u⟩ 1 || m.save.isSome || idle || (m.passes.any (fun x => x.started && !x.swapped) && decide (m.loads = []))
      || (m.passes.map (·.ref) ++ m.drains.map (·.ref) ++ m.loads.map (·.ref)).any fill
  | .vxe => s.ldgHolds ⟨.ldgTile, u⟩ 2 || ((s.vxe u).op.any (fun o => fill o.ref))
  | .ste => s.ldgHolds ⟨.ldgTile, u⟩ 3 || s.stks.any (fun x => x.2.arb.pending.any (fun q => match q.src with
      | .stream t _ _ => decide (t.val = u)
      | _ => false))
  | .nme => s.ldgHolds ⟨.ldgStack, u⟩ 4 || (s.nme u).ops.any (fun o => o.entries.any (·.waiting))
      || s.rings.any (fun r => r.2.pushes.any (fun x => match x.1 with
          | .nme k _ => decide (k = u)
          | _ => false))
  | .cle => s.cleHeld u || (s.lg u).tx.any (fun t => t.2.waiting ≠ [] || t.2.again ≠ [])
  | .kpr => true

/-- The command that an engine is executing: the first that it has in hand. -/
def State.engineNow (s : State) (e : Eng) (u : Nat) : Option CmdRef := ((s.engineCmds e u).find? (·.2)).map (·.1)

/-- ENGINE_HANG (R423): the engine-hang fault of the command that the engine was executing, an engine reset, ESCALATED. -/
def execEngineHang (e : Eng) (unit : Nat) (s : State) : Result :=
  .next (
    if ¬ s.expired (.engine e unit) ∨ s.engineWaits e unit then s
    else match s.engPart e unit with
      | none => s.stopTimer (.engine e unit)
      | some p =>
        let s := s.stopTimer (.engine e unit)
        if (s.part p).rstRuns.contains (.engine e unit) then s
        else
          let s := match s.engineNow e unit with
            | some r => (match s.queOwner r.q, s.cmdAt r with
                | some (g, q), some c =>
                  s.raise g (s.cmdFault g q c ⟨0x17, 0, s.cfg .flt p 0x28 15 0, 2, 0, (r.stage).getD 0x7F⟩ (engClass e) unit 0)
                | _, _ => s)
            | none => s
          (s.engineReset p e unit).escalated p)

/-- KPR_HB (R424): any write is a heartbeat; before the watch has begun it changes nothing there. -/
def execKprHbWrite (m : Master) (p : Fin 8) (v : W32) (s : State) : Result :=
  .next (
    if ¬ s.reaches m ⟨.kpr, p.val⟩ then s
    else
      let s := s.setPlain .kpr p.val 0x30 v
      let hb := s.cfg .kpr p.val 0x34 11 0 * 1000000
      if s.timers.any (fun t => decide (t.id = .heartbeat p.val) && decide (t.left ≤ (hb * 65536 : Nat))) then
        s.startTimer (.heartbeat p.val) .mgmt hb
      else s)

/-- HEARTBEAT_MISS (R424). -/
def execHeartbeatMiss (p : Fin 8) (s : State) : Result :=
  .next (
    match s.partOfKp p.val with
    | none => s
    | some g =>
      if ¬ s.expired (.heartbeat p.val) then s
      else
        let s := (s.stopTimer (.heartbeat p.val)).flag .flt g 0x24 (bit 29)
        let s := (s.msix (s.fnOf g) (s.cfg .flt g 0x10 26 16)).alert (bit 30)
        s.engineReset g .kpr p.val)

/-! ## Rows whose end lets a waiting reset go on -/

/-- SAVE_RESTORE_DONE (R150–R152). -/
def execSaveRestoreDone (t : Fin 48) (ok : Bool) (s : State) : Result := .next (s.saveRestoreDone t.val ok).pumpResets

/-- BARRIER_WITHDRAW (R252). -/
def execBarrierWithdraw (p : Fin 8) (b : Fin 16) (t : Fin 48) (s : State) : Result :=
  .next (s.barrierWithdraw p.val b.val t.val).pumpResets

/-- Chip start stands at step 4 (R482): no stack or link of steps 9 and 10 trains. -/
def State.trainHeld (s : State) : Bool := !s.boot.applied && s.startHeld

/-- STACK_TRAINING_DONE (R274). -/
def execStackTrainingDone (k : Fin 12) (ok : Bool) (s : State) : Result :=
  .next (if s.trainHeld then s else (s.stackTrained k.val ok).readyParts)

/-- LINK_TRAINING (R350, R353). -/
def execLinkTraining (l : Fin 24) (far : FarEnd) (s : State) : Result :=
  .next (if s.trainHeld then s else (s.linkTrained l.val far).readyParts)

end Sys2Proof.Machine
end

