-- ==== Sys2Proof/Machine/Power.lean ====
section
/-!
DEFINITION. Start-up, supplies, power and temperature (R60, R425, R430, R455–R457, R460, R463–R478, R482): the boot
chain's checks of flash, the steps of chip start, lockout and trip, the current clamp, PWR_DOM_CMD, and the
boundary-scan instructions.
-/
namespace Sys2Proof.Machine

/-! ## Flash and the boot chain (R455, R456, R460) -/

/-- The flash device reads 0xFF where nothing has been programmed. -/
def State.flashByte (s : State) (a : Nat) : Byte := SMap.get 0xFF s.flash a

def State.flashLe (s : State) (a n : Nat) : Nat := leNat ((List.range n).map (fun i => s.flashByte (a + i)))

/-- Bytes programmed into flash. -/
def flashPut (m : List (Nat × Byte)) (a : Nat) : List Byte → List (Nat × Byte)
  | [] => m
  | b :: bs => flashPut (SMap.set 0xFF m a b) (a + 1) bs

/-- Where a firmware component's copy lies (R454, R455). -/
def compBase (comp : Nat) (copyB : Bool) : Nat :=
  match comp with
  | 1 => 0x100_0000 + (if copyB then 0x100_0000 else 0)
  | 2 => 0x10_0000 + (if copyB then 0x40_0000 else 0)
  | _ => 0x300_0000 + (if copyB then 0x10_0000 else 0)

def compSize : Nat → Nat
  | 1 => 0x100_0000
  | 2 => 0x40_0000
  | _ => 0x10_0000

/-- Whether copy B of a component is the active one: its byte of the directory is 1 (notes/assumptions/60.md). -/
def State.activeB (s : State) (comp : Nat) : Bool := decide (s.flashByte (comp - 1) = 1)

/-- An image or bundle that lies in flash, as a buffer: as many bytes as its length field gives, where they fit. -/
def State.flashBuf (s : State) (base max : Nat) : List (Nat × Byte) :=
  let len := s.flashLe (base + 8) 4
  let n := if len ≤ max then Nat.max len 576 else 576
  ((List.range n).map (fun i => (i, s.flashByte (base + i)))).filter (fun c => decide (c.2 ≠ 0))

def wjfw : ImgKind := ⟨0x57464A57, 0x100_0000, [0x10, 0x11]⟩

/-- The checks that the boot chain makes on a firmware bundle (R456, R460): layout, part and stepping, binding to a device, and
R460's list. -/
def State.bundleOk (s : State) (buf : List (Nat × Byte)) : Bool :=
  let sig := imgSigOff buf
  let bind := imgBytes buf 24 8
  decide (imgFormatBad wjfw buf = none)
    && decide (imgLe buf 12 2 = 0x0768) && decide (imgLe buf 14 1 ≤ Config.stepping.toNat)
    && (bind.all (fun b => decide (b = 0)) || decide (bind = (Config.sha3 Config.identityPub).take 8))
    && s.keyOk 192 321 (imgLe buf sig 1) (imgPub buf)
    && Config.mldsaVerify (imgPub buf) (imgManifest buf) (imgBytes buf (sig + 1316) 2420)
    && decide (((s.otpBlock).map (fun b => otpLe b 12 4)).getD 0 ≤ imgLe buf 16 4)
    && decide (imgDigestBad buf = none)

/-- The copy of a component that passes, the active one first, and the digest of its manifest. -/
def State.bootCopy (s : State) (comp : Nat) : Option (Bool × List Byte) :=
  let act := s.activeB comp
  let at_ := fun b => s.flashBuf (compBase comp b) (compSize comp)
  if s.bundleOk (at_ act) then some (act, Config.sha3 (imgManifest (at_ act)))
  else if s.bundleOk (at_ (!act)) then some (!act, Config.sha3 (imgManifest (at_ (!act))))
  else none

/-! ## Steps of chip start (R476) -/

/-- Step 5: the PCI Express domain comes on once PERST# is released and the converters run. -/
def State.pcieStart (s : State) : State :=
  if s.pwr.conv ∧ ¬ s.pcx.perst ∧ ¬ s.startHeld ∧ ¬ s.domOn domPcie ∧ ¬ s.boot.fromMgmt then s.domainOn domPcie 0 else s

/-- Step 4: with the management controller ready and the 48 V input within specification, the converters, the mesh spine
and the hub start, unless a lockout or a trip holds them off. -/
def State.startConv (s : State) : State :=
  if s.pwr.aux ∧ s.sec.mgmtFw = some true ∧ s.pwr.v48 ∧ ¬ s.pwr.lockout ∧ ¬ s.pwr.tripped ∧ ¬ s.pwr.conv then
    (({ s with pwr := { s.pwr with conv := true, spine := true } }).domainOn domHub 0).pcieStart
  else s

/-- AUX_POWER_UP (R476 steps 1 and 2): the management ROM reads OTP and chooses the settings area. -/
def execAuxPowerUp (s : State) : Result :=
  .next (
    if s.pwr.aux then s
    else
      let areas := s.otp.areas.zipIdx.map (fun x =>
        if x.1.used then x.1
        else match Config.factoryOtp x.2 with
          | some b => ⟨true, false, (b ++ List.replicate 2048 0).take 2048⟩
          | none => x.1)
      ({ s with
        otp := ⟨areas, none, none⟩
        pwr := { Pwr.reset with aux := true, v48 := s.pwr.v48 }
        boot := { Boot.reset with otpRead := true } }).readOtp)

/-- OTP without the supply: the area that was being programmed is left neither unused nor valid (R458). -/
def Otp.dark (o : Otp) : Otp :=
  { areas := match o.writing with
      | some i => o.areas.set i ⟨true, true, []⟩
      | none => o.areas
    inUse := none, writing := none }

/-- What the device holds once its auxiliary supply has gone: OTP, flash, and what the board drives onto its pins. -/
def State.unpowered (s : State) : State :=
  { State.reset with
    flash := s.flash
    otp := s.otp.dark
    pwr := { Pwr.reset with v48 := s.pwr.v48 }
    pcx := { Pcx.reset with perst := s.pcx.perst }
    sec := { State.reset.sec with kxGen := s.sec.kxGen }
    straps := s.straps
    out := s.out
    free := s.free
    pending := s.pending }

/-- AUX_POWER_LOSS (R431, R478): ends a trip or a power cycle; nothing inside survives but OTP. -/
def execAuxPowerLoss (s : State) : Result := .next s.unpowered

/-- MGMT_FIRMWARE_VERIFIED (R460 steps 2 and 3, R476 step 3). -/
def execMgmtFirmwareVerified (s : State) : Result :=
  .next (
    if ¬ s.pwr.aux ∨ ¬ s.boot.otpRead ∨ s.boot.mgmtUp then s
    else
      let z := List.replicate 32 (0 : Byte)
      let copy : Option (Bool × List Byte) := s.bootCopy 2
      let digest : List Byte := match copy with
        | some c => c.2
        | none => z
      let idOk := match s.otpBlock with
        | some b => decide (Config.sha3 Config.identityPub = (b.drop 32).take 32)
        | none => false
      ({ s with
        sec := { s.sec with
          mgmtFw := some copy.isSome, idOk := idOk, kxGen := s.sec.kxGen + 1
          slots := [((s.otpBlock).map Config.sha3).getD z, digest, z, z, z, z, z, z] }
        boot := { s.boot with mgmtUp := true } }).startConv)

/-- KEEPER_FIRMWARE_VERIFIED (R460 step 4, R476 steps 7 and 12). -/
def execKeeperFirmwareVerified (s : State) : Result :=
  .next (
    if s.sec.mgmtFw ≠ some true ∨ s.sec.keeperFw.isSome ∨ s.startHeld then s
    else match s.bootCopy 1 with
      | none => { s with sec := { s.sec with keeperFw := some false } }
      | some (b, d) =>
        let s := { s with sec := { s.sec with keeperFw := some true, keeperCopyB := b, slots := s.sec.slots.set 2 d } }
        (s.partsOf).foldl (fun s c => s.startRuntime c.num) s)

/-- INPUT_48V_GOOD (R476 step 4). -/
def execInput48vGood (s : State) : Result := .next ({ s with pwr := { s.pwr with v48 := true } }).startConv

/-- Whether the default image is due to be verified (R476 step 6). -/
def State.bootVerifyDue (s : State) : Bool :=
  s.pwr.conv && !s.boot.imgRead && (!s.pcx.perst || s.boot.fromMgmt) && !s.startHeld

/-- Steps 6 and 8 (R60, R471): the default image verified from flash; its units switched on and trained, or no partition.
DEDUCED (notes/assumptions/59.md): the image stands in the image buffer afterwards, and VERIFIED says whether it passed. -/
def State.bootVerify (s : State) : State :=
  let buf := s.flashBuf (compBase 3 (s.activeB 3)) (compSize 3)
  let s := { s with img := { s.img with buf := buf, verified := decide (s.verify buf = none) } }
  match s.verify buf with
  | some (r, d) =>
    let s := { s with
      img := { s.img with result := BitVec.ofNat 8 r, detail := BitVec.ofNat 8 d, defaultFailed := true }
      boot := { s.boot with imgRead := true, imgOk := false, chipReset := false } }
    (s.stopTimer (.rung 0 .chip)).alert (bit 28)
  | none =>
    let new := imgCfg buf
    let s := { s with
      img := { s.img with defaultFailed := false }
      sec := { s.sec with slots := s.sec.slots.set 3 new.digest }
      boot := { s.boot with imgRead := true, imgOk := true, domsOn := true } }
    (s.alert (bit 28)).beginApply new 0xFF

/-- IMG_VERIFY_DONE (R58, R60): the end of a commanded VERIFY, or the boot sequence's own. -/
def execImgVerifyDone (s : State) : Result :=
  .next (
    if s.img.busy = some .verify then s.verifyEnd
    else if s.img.busy = none ∧ s.bootVerifyDue then s.bootVerify
    else s)

/-- PERST_ASSERT (R425): a chip reset, in which step 5 waits for the release. -/
def execPerstAssert (s : State) : Result :=
  .next (
    let s := { s with pcx := { s.pcx with perst := true } }
    if s.pwr.aux then s.chipReset false else s)

/-- PERST_RELEASE (R476 step 5). -/
def execPerstRelease (s : State) : Result := .next ({ s with pcx := { s.pcx with perst := false } }).pcieStart

/-! ## Lockout and trip (R464, R478) -/

/-- Everything on the converters is lost at once: every switched domain and the mesh spine go off without a sequence. -/
def State.loseAll (s : State) : State :=
  let s := (s.partsOf).foldl (fun s c => ((s.clearPart none c.num).setPart c.num .reset).setTal (blkKey ⟨.talPart, c.num⟩) .reset) s
  let s := (List.range 88).foldl (fun s d => s.domainOff d) s
  { s with
    rels := []
    chans := []
    timers := s.timers.filter (fun t => decide (t.id = .fogOut) || decide (t.id = .clamp) || decide (t.id = .rung 0 .chip))
    pcx := { s.pcx with reqs := [] }
    img := if s.img.busy = some .apply then { s.img with busy := none, pendingImage := none } else s.img
    pwr := { s.pwr with
      conv := false, spine := false, switch := none, on := 0
      domRes := if s.pwr.switch.isSome then 0x06 else s.pwr.domRes } }

/-- INPUT_LOCKOUT (R464). A trip prevails (R478). -/
def execInputLockout (past : Bool) (s : State) : Result :=
  .next (
    if ¬ s.pwr.aux then { s with pwr := { s.pwr with v48 := false } }
    else
      let s := s.loseAll
      ({ s with pwr := { s.pwr with v48 := false, lockout := true } }).flag .pwr 0 0x58 (if past then bit 27 else bit 28))

/-! ## Measurements (R453, R466–R468, R477) -/

/-- PlatformEventMessage for a sensor (R453). The spec gives the thresholds no values: whether a reading passes one is a
free value (notes/assumptions/61.md). -/
def State.sensorEvent (s : State) (sensor value : Nat) : State :=
  let d := s.draw 1
  if d.1 = 1 ∧ d.2.mgt.eid ≠ 0 ∧ d.2.sec.mgmtFw = some true then d.2.emit (.pldm 2 0x0A [BitVec.ofNat 8 sensor, BitVec.ofNat 8 value])
  else d.2

/-- POWER_SAMPLE (R466, R467): PWR_PKG keeps its latched value while the clamp holds. -/
def execPowerSample (vinMv : BitVec 16) (iin : BitVec 16) (powerQ : BitVec 16) (s : State) : Result :=
  .next (
    if ¬ s.pwr.aux then s
    else
      ({ s with pwr := { s.pwr with
        sampled := true, vinMv := vinMv, iin := iin, powerQ := if s.pwr.latched then s.pwr.powerQ else powerQ } }).sensorEvent 1 0)

/-- The clamp engages for 1 ms: THROTTLE_P, and PWR_PKG latched (R468). `iin` is in units of 10 mA. -/
def State.clamp (s : State) (iin : BitVec 16) : State :=
  if s.pwr.conv ∧ 5000 < iin.toNat then
    ({ s with pwr := { s.pwr with clampOn := true, latched := true } }).startTimer .clamp .mgmt 1000000
  else s

/-- CURRENT_CLAMP (R468). -/
def execCurrentClamp (iin : BitVec 16) (s : State) : Result := .next (if s.pwr.clampOn then s else s.clamp iin)

/-- CURRENT_CLAMP_RELEASE (R468): after 1 ms; it engages again at once if the condition still holds. -/
def execCurrentClampRelease (iin : BitVec 16) (s : State) : Result :=
  .next (
    if ¬ s.pwr.clampOn ∨ ¬ s.expired .clamp then s
    else (({ s with pwr := { s.pwr with clampOn := false, latched := false } }).stopTimer .clamp).clamp iin)

/-- A reading reaches a threshold that the one before did not. -/
def passes (old new lim : Nat) : Bool := decide (old < lim) && decide (lim ≤ new)

/-- A throttle engages at `lim` and releases 5 °C below it (R477). -/
def throttle (on : Bool) (t lim : Nat) : Bool := decide (lim ≤ t) || (on && decide (lim - 5 < t))

/-- THERMAL_SAMPLE (R477, R478). -/
def execThermalSample (half0 : Byte) (half1 : Byte) (ioDie : Byte) (stks : List Byte) (s : State) : Result :=
  okIf (decide (stks.length = 12)) (
    if ¬ s.pwr.aux then s
    else
      let old := s.pwr
      let temp := fun k => stks.getD k 0
      let top := stks.foldl (fun a b => if a.toNat < b.toNat then b else a) 0
      let warnC := s.cfg .pwr 0 0x54 7 0
      let warnD := s.cfg .pwr 0 0x54 15 8
      let warn := passes old.half0.toNat half0.toNat warnC || passes old.half1.toNat half1.toNat warnC
        || passes old.ioDie.toNat ioDie.toNat warnC
        || (List.range 12).any (fun k => passes (s.stack k).temp.toNat (temp k).toNat warnD)
      let halves := (List.range 2).filter (fun h =>
        throttle (old.throttleHalf.contains h) (if h = 0 then half0 else half1).toNat 105)
      let s := { s with pwr := { old with
        half0 := half0, half1 := half1, ioDie := ioDie, stackMax := top, throttleHalf := halves } }
      let s := (List.range 12).foldl (fun s k =>
        if s.domOn (domStack k) then
          let x := s.stack k
          s.setStack k { x with
            temp := temp k, hot := decide (85 < (temp k).toNat), throttled := throttle x.throttled (temp k).toNat 95 }
        else s) s
      let s : State := if warn then (s.flag .pwr 0 0x58 (bit 29)).alert (bit 31) else s
      let s : State := (((s.sensorEvent 4 half0.toNat).sensorEvent 5 half1.toNat).sensorEvent 6 ioDie.toNat).sensorEvent 7 top.toNat
      if ¬ s.pwr.tripped ∧ (115 ≤ half0.toNat ∨ 115 ≤ half1.toNat ∨ 115 ≤ ioDie.toNat ∨ 105 ≤ top.toNat) then
        let s := (s.emit .thermTrip).loseAll
        { s with pwr := { s.pwr with tripped := true, thermTrip := true } }
      else s)

/-! ## PWR_DOM_CMD (R472–R474) -/

/-- The partition of an image that a domain's unit stands in, excluded or not. -/
def domOwner (i : Option ImageCfg) (d : Nat) : Option Nat := domPart (i.map (fun i => { i with mask := noMask })) d

/-- The partition that a domain's unit belongs to: of the image applied or, while one is being applied, of that (R472). -/
def State.domOwner (s : State) (d : Nat) : Option Nat :=
  match Machine.domOwner s.img.applied d with
  | some p => some p
  | none => Machine.domOwner s.img.pendingImage d

/-- Who may switch a domain. -/
def State.maySwitch (s : State) (m : Master) (d : Nat) : Bool :=
  match m with
  | .mgmt => true
  | .pf => decide (d ≠ domPcie) && decide (d ≠ domHub)
  | _ =>
    (s.masterPart m).isSome && (decide (d < 48) || (decide (60 ≤ d) && decide (d < 86)))
      && decide (s.domOwner d = s.masterPart m)

/-- Work of a tile that keeps its domain on. -/
def State.tileBusy (s : State) (t : Nat) : Bool :=
  let m := s.mxe t
  m.loads ≠ [] || m.passes ≠ [] || m.drains ≠ [] || m.bookOps ≠ [] || (s.vxe t).op.isSome || (s.ste t).cmds ≠ []
    || s.chain t ≠ [] || (s.ste t).streams.any (fun x => decide (x.2.st ≠ .idle))
    || m.act.claim.isSome || m.shd.claim.isSome || m.slot0.claim.isSome || m.slot1.claim.isSome
    || m.books.any (fun b => b.2.pend.isSome)
    || s.bars.any (fun b => b.2.isOpen && b.2.arrived.any (fun a => decide (a.1 = t)))

/-- RESULT of a PWR_DOM_CMD, in the order of R472's table. -/
def State.judgeDomain (s : State) (m : Master) (d : Nat) (on : Bool) : Byte :=
  let part := match domPart s.img.applied d with
    | some p => some p
    | none => domPart s.img.pendingImage d
  let resets : Bool := match s.domOwner d with
    | some p => (s.part p).rstRuns.contains .partition || (decide (s.img.busy = some .apply) && s.img.mask.getLsbD p)
    | none => false
  if d < 88 ∧ ¬ s.maySwitch m d ∨ (88 ≤ d ∧ ¬ pfOrMgmt m) then 0x03
  else if 88 ≤ d then 0x02
  else if resets ∨ s.pwr.switch.isSome then 0x01
  else if on then
    (if d < 86 ∧ part = none then 0x05
     else match domUnit d with
       | .nme k => if s.domOn (domStack k) then 0x00 else 0x04
       | _ => 0x00)
  else match domUnit d with
    | .tile t => if s.tileBusy t then 0x04 else 0x00
    | .stack k => if (s.partOfStack k).isSome then 0x04 else 0x00
    | .lg g => if (s.cle g).sends ≠ [] ∨ (s.cle g).coll.isSome then 0x04 else 0x00
    | .kp k => if (s.partOfKp k).bind s.leadOf = some k then 0x04 else 0x00
    | .nme k => if (s.nme k).ops ≠ [] then 0x04 else 0x00
    | _ => 0x00

/-- A PWR_DOM_CMD: it changes nothing but RESULT unless that is OK. A unit that is to go off takes no new work from now
on, and the near-memory engine of a stack goes off before its stack (R472, R473). -/
def State.domCmd (s : State) (m : Master) (d : Nat) (on : Bool) : State :=
  let r := s.judgeDomain m d on
  let s := { s with pwr := { s.pwr with domRes := r } }
  if r ≠ 0 then s
  else
    let s := { s with pwr := { s.pwr with switch := some ⟨d, on⟩ } }
    if on then s
    else match domUnit d with
      | .stack k => (s.domainOff (domNme k)).setDom d false
      | _ => s.setDom d false

/-- DOMAIN_ON (R472). -/
def execDomainOn (m : Master) (d : BitVec 7) (s : State) : Result :=
  .next (if s.domReach m then s.domCmd m d.toNat true else s)

/-- DOMAIN_OFF (R472). -/
def execDomainOff (m : Master) (d : BitVec 7) (s : State) : Result :=
  .next (if s.domReach m then s.domCmd m d.toNat false else s)

/-- DOMAIN_SWITCH_DONE (R24, R473, R474): the domain has come up, or gone off once no flit is in flight between its unit and
the mesh spine; without converters the switch is abandoned. Engine resets that waited for it go on. -/
def execDomainSwitchDone (s : State) : Result :=
  .next (
    match s.pwr.switch with
    | none => s
    | some w =>
      if s.pwr.conv ∧ ¬ w.on ∧ ¬ s.chansIdle w.dom then s
      else
      let s := { s with pwr := { s.pwr with switch := none } }
      if ¬ s.pwr.conv then { s with pwr := { s.pwr with domRes := 0x06 } }
      else
        (if w.on then (if s.domOn w.dom then s else s.domainOn w.dom (imageLinks s.img.applied))
         else s.domainOff w.dom).pumpResets)

/-! ## Boundary scan (R482) -/

/-- A boundary-scan instruction becomes current; start goes on where none holds it. -/
def State.selectJtag (s : State) (j : Jtag) : State :=
  if ¬ s.pwr.aux then s
  else
    let s := { s with jtag := j }
    if s.startHeld then s else s.pcieStart

/-- EXTEST (R482). -/
def execExtest (s : State) : Result := .next (s.selectJtag .extest)

/-- SAMPLE/PRELOAD (R482). -/
def execSamplePreload (s : State) : Result := .next (s.selectJtag .sample)

/-- HIGHZ (R482). -/
def execHighz (s : State) : Result := .next (s.selectJtag .highz)

/-- CLAMP (R482). -/
def execClamp (s : State) : Result := .next (s.selectJtag .clamp)

/-- BYPASS (R482): code 0xF, and every code that names no instruction. -/
def execBypass (code : BitVec 4) (s : State) : Result :=
  okIf (decide (4 ≤ code.toNat)) (s.selectJtag .bypass)

/-- TEST_LOGIC_RESET (R482): selects BYPASS. -/
def execTestLogicReset (s : State) : Result := .next (s.selectJtag .bypass)

end Sys2Proof.Machine
end

