-- ==== Sys2Proof/Machine/Pcie.lean ====
section
/-!
DEFINITION. The PCI Express interface (R435–R439, R445, R446): the link, configuration writes, resets of functions and
of the interface, device requests that fail, address translation, and integrity failures.
-/
namespace Sys2Proof.Machine

/-! ## MSI-X (R445) -/

/-- Pending messages of a function whose vectors are no longer masked are sent. -/
def State.sendPending (s : State) (fn : Nat) : State :=
  let f := s.func fn
  if ¬ (f.present ∧ f.msixEn) ∨ f.msixMask then s
  else
    (f.pba.map (·.1)).foldl (fun s v =>
      let f := s.func fn
      if (msixWord f v 3).getLsbD 0 then s
      else (s.setFunc fn { f with pba := SMap.set false f.pba v false }).msix fn v) s

/-! ## Link and configuration -/

/-- A function answers configuration requests once it is ready: its partition's, or at the end of chip start (R59, R476). -/
def State.fnReady (s : State) (fn : Nat) : Bool :=
  match s.partOfFn fn with
  | some p => (s.part p).ready
  | none => s.boot.applied || s.img.defaultFailed

/-- Rates, widths and FLIT mode of a link that trains (R435). -/
def linkOk (gen : BitVec 4) (width : BitVec 5) (flit : Bool) : Bool :=
  decide (1 ≤ gen.toNat) && decide (gen.toNat ≤ 7) && [4, 8, 16].contains width.toNat && (flit || decide (gen.toNat < 6))

/-- PCIE_LINK_UP (R435, R439): due while the PCI Express domain is on and PERST# is released. -/
def execPcieLinkUp (gen : BitVec 4) (width : BitVec 5) (flit : Bool) (s : State) : Result :=
  okIf (linkOk gen width flit) (
    if ¬ s.domOn domPcie ∨ s.pcx.perst then s
    else
      ({ s with pcx := { s.pcx with gen := gen, width := width, flit := flit, up := true, pm := 0 } }).setFunc 0
        { s.func 0 with present := true })

/-- The link is out of service. -/
def State.linkOut (s : State) : State :=
  { s with pcx := { s.pcx with gen := 0, width := 0, flit := false, up := false, pm := 0 } }

/-- PCIE_LINK_DOWN (R439): LINK_DOWN is set; the partitions continue. -/
def execPcieLinkDown (s : State) : Result := .next (if s.pcx.up then s.linkOut.flag .pcx 0 0x14 (bit 28) else s)

/-- Configuration, BAR and MSI-X state of a function are reset; it stays on the bus. -/
def State.resetFn (s : State) (fn : Nat) : State :=
  let s := s.setFunc fn { Func.reset with present := (s.func fn).present }
  if fn = 0 then
    (List.range 8).foldl (fun s k => s.setFunc (k + 1) .reset) { s with pcx := { s.pcx with numVfs := 0 } }
  else s

/-- HOT_RESET (R435): the host resets the interface: every function's configuration and the link, until it trains again. -/
def execHotReset (s : State) : Result :=
  .next (if s.domOn domPcie then ((s.resetFn 0).setFunc 0 .reset).linkOut else s)

/-- A partition reset that no FLT_RST_CMD ordered: a lower rung that one ordered is completed by it (R425, R432). -/
def State.partitionByOther (s : State) (p : Nat) : State :=
  if s.applying ⟨.flt, p⟩ then s
  else
    let x := s.part p
    let s := if x.rstBusy.isSome ∧ x.rstBusy ≠ some .partition then s.setPart p { x with rstBusy := none, rstRes := 0x04 } else s
    s.resetPart p

/-- FUNCTION_LEVEL_RESET (R436): a partition's function resets its partition as well. -/
def execFunctionLevelReset (fn : Fin 9) (s : State) : Result :=
  .next (
    if ¬ (s.pcx.up ∧ (s.func fn.val).present) then s
    else
      let p := s.partOfFn fn.val
      let s := s.resetFn fn.val
      match p with
      | some p => s.partitionByOther p
      | none => s)

/-- NumVFs as the host writes it: TotalVFs is 8. Functions that leave lose their state. -/
def State.setVfs (s : State) (n : Nat) : State :=
  if 8 < n then s
  else
    (List.range 8).foldl (fun s k =>
      s.setFunc (k + 1) (if k < n then { s.func (k + 1) with present := true } else .reset))
      { s with pcx := { s.pcx with numVfs := n } }

/-- CONFIGURATION_WRITE (R436): answered by a retry status until the function is ready (R476). `msix` gives MSI-X Enable
and Function Mask. Disabling ATS empties the ATC. -/
def execConfigurationWrite (fn : Fin 9) (numVfs : Option Nat) (bme : Option Bool) (ats : Option Bool)
    (atomicEn : Option Bool) (msix : Option (Bool × Bool)) (s : State) : Result :=
  okIf (decide (fn.val = 0) || numVfs.isNone) (
    if ¬ (s.pcx.up ∧ (s.func fn.val).present ∧ s.fnReady fn.val) then s
    else
      let f := s.func fn.val
      let on := ats.getD f.atsEn
      let s := s.setFunc fn.val { f with
        bme := bme.getD f.bme
        atsEn := on
        atc := if on then f.atc else []
        atomicEn := atomicEn.getD f.atomicEn
        msixEn := (msix.map (·.1)).getD f.msixEn
        msixMask := (msix.map (·.2)).getD f.msixMask }
      let s : State := match numVfs with
        | some n => s.setVfs n
        | none => s
      s.sendPending fn.val)

/-! ## Device requests that fail (R438) -/

/-- Device requests that wait for the host, each with its function: polled marks, stream requests, page movers, a fetch,
and the attempts of host atomics. -/
def State.hostReqs (s : State) : List (Nat × HostReader) :=
  let marks := (s.partsOf).flatMap (fun g =>
    (s.ques.filter (fun e => decide (e.1 / 2048 = g.num ∧ e.1 % 2048 < g.queQuota))).flatMap (fun e =>
      let q := e.1 % 2048
      match (waitingIdx e.2).bind (fun i => e.2.cmds[i]?) with
      | none => []
      | some c =>
        if ¬ c.regd then []
        else ([0, 1, 2, 3].filter (fun w => !c.waitMet w)).filterMap (fun w =>
          match (s.markPhys g.num (s.qCtx g.num q) (waitMark (c.word (1 + w))) false).1 with
          | .ok a => if hostBase ≤ a then some (g.function, HostReader.mark g.num q w) else none
          | .error _ => none)))
  let streams := s.stes.flatMap (fun e => e.2.streams.flatMap (fun x =>
    (x.2.reqs.filter (fun r => !r.done && decide (hostBase ≤ r.pa) && decide (r.pa < intlPlace))).map (fun r =>
      (s.fnOf ((s.partOfTile e.1).getD 8), HostReader.stream e.1 x.1 r.seq))))
  let movers := (s.stks.filter (fun e => e.2.move.any (fun o => !o.toHost))).map (fun e =>
    (s.fnOf ((s.partOfStack e.1).getD 8), HostReader.mover e.1))
  let image := if s.img.busy = some .fetch then [(0, HostReader.image)] else []
  marks ++ streams ++ movers ++ image
    ++ s.pcx.reqs.map (fun r => (((s.reqPart r).map s.fnOf).getD 0, r))

/-- The consequence of a failed read for its reader (R231, R271, R438); an access fault for a keeper core (R374). -/
def State.hostFails (s : State) (r : HostReader) : State :=
  let s := s.flag .pcx 0 0x14 (bit 30)
  match r with
  | .mark p q w => s.pollMark p q w none
  | .stream t sid seq => s.streamReply t sid seq .memError
  | .mover k => s.moveOne k none []
  | .image => s.imgFetched none
  | .atomic core a _ _ _ => s.emit (.keeperFault core.val a)
  | .release r => s.releaseFails r (s.relHostBad r)

/-- HOST_REQUEST_TIMEOUT (R438): request `k` of those that wait fails. -/
def execHostRequestTimeout (k : Nat) (s : State) : Result :=
  .next (match (s.hostReqs)[k]? with
    | none => s
    | some (_, r) => ({ s with pcx := { s.pcx with reqs := s.pcx.reqs.erase r } }).hostFails r)

/-- ATS_INVALIDATION (R437): the ATC drops the pages and answers. Not due while a request of the function that may use a
dropped translation waits. -/
def execAtsInvalidation (fn : Fin 9) (addr : W64) (pages : Nat) (s : State) : Result :=
  .next (
    let f := s.func fn.val
    let gone := fun (e : Nat × Nat) => decide (addr.toNat / 4096 ≤ e.1) && decide (e.1 < addr.toNat / 4096 + pages)
    if ¬ (s.pcx.up ∧ f.present ∧ f.atsEn) then s
    else if f.atc.any gone ∧ s.hostReqs.any (fun r => decide (r.1 = fn.val)) then s
    else (s.setFunc fn.val { f with atc := f.atc.filter (fun e => !(gone e)) }).emit (.atsReply fn.val))

/-- IDE_INTEGRITY_FAILURE (R446): the TLP is discarded, and the link stream is insecure. -/
def execIdeIntegrityFailure (s : State) : Result :=
  .next (if s.pcx.up then { s with pcx := { s.pcx with ideSecure := false } } else s)

end Sys2Proof.Machine
end

