-- ==== Sys2Proof/Machine/RegAccess.lean ====
section
/-!
DEFINITION. Reads and writes of the control registers (R5, R6, R37–R44): what each read-only field shows, and what a
write does: staged and plain values, bits that clear, and the registers whose writes are commands.
-/
namespace Sys2Proof.Machine

/-! ## Small parts -/

/-- A value at a bit offset. -/
def sh (v lo : Nat) : Nat := v * 2 ^ lo
def shB (b : Bool) (lo : Nat) : Nat := if b then 2 ^ lo else 0

def tileFin (u : Nat) : Fin 48 := ⟨u % 48, Nat.mod_lt _ (by decide)⟩
def stackFin (u : Nat) : Fin 12 := ⟨u % 12, Nat.mod_lt _ (by decide)⟩
def lgFin (u : Nat) : Fin 6 := ⟨u % 6, Nat.mod_lt _ (by decide)⟩
def partFin (u : Nat) : Fin 8 := ⟨u % 8, Nat.mod_lt _ (by decide)⟩
def sidFin (u : Nat) : Fin 16 := ⟨u % 16, Nat.mod_lt _ (by decide)⟩

/-! ## Read-only fields, by block -/

def Freq.word (f : Freq) (period : Nat) : Nat := shB f.switching 31 + sh f.cur 25 + period

def State.roTile (s : State) (t off : Nat) : Nat :=
  let x := s.tile t
  match off with
  | 0x44 => x.freq.word (s.period (.tile t))
  | 0x54 => shB x.reseeding 31 + sh (s.cfg .tile t 0x50 16 16) 16 + x.reseeds.toNat
  | _ => 0

/-- A claim as MXE_CLAIM shows it: valid, and the device queue number (R132). -/
def State.claimWord (s : State) (hi lo : Option Nat) : Nat :=
  let one := fun (c : Option Nat) => match c with
    | some q => 2 ^ 15 + s.queNum q
    | none => 0
  sh (one hi) 16 + one lo

/-- MXE_BOOK_STAT of a slot: what it holds, its generations and REFS (R190). -/
def State.bookWord (s : State) (t i : Nat) : Nat :=
  let b := SMap.get .reset (s.mxe t).books i
  shB b.live.isSome 31 + shB b.pend.isSome 30 + shB b.retiring 29 + shB b.paired 28 + sh b.shape.toNat 26
    + sh b.escFmt.toNat 24 + sh ((b.live.getD 0).toNat) 16 + sh ((b.pend.getD 0).toNat) 8 + min 0xFF (s.bookRefs t i)

def bufCode : BufSt → Nat
  | .empty => 0 | .loading => 1 | .ready => 2

def State.roMxe (s : State) (t off : Nat) : Nat :=
  let m := s.mxe t
  match off with
  | 0x14 =>
    shB (m.inArray ≠ []) 31 + shB m.ramp.on 30 + shB (m.act.st = .ready) 29 + sh (bufCode m.shd.st) 27
      + shB (s.slotBusy t 1) 26 + shB (s.slotBusy t 0) 25 + shB m.act.narrow 24
  | 0x18 => s.claimWord m.shd.claim m.act.claim
  | 0x1C => s.claimWord m.slot1.claim m.slot0.claim
  | 0x24 => m.replays.toNat
  | 0x3C => shB m.save.isSome 31 + m.saveRes.toNat
  | 0xA0 => m.bubbles.toNat
  | o => if 0x80 ≤ o ∧ o < 0xA0 then s.bookWord t ((o - 0x80) / 4) else 0

/-- OP and index of the instruction a tile's vector engine runs; between commands, of the last that ran (R213). -/
def Vxe.running (x : Vxe) : Nat × Nat :=
  match x.op with
  | some o =>
    if o.work = .run ∧ o.started ∧ 48 + o.pc < o.prog.length then (inOp (progInst o.prog o.pc), o.pc % 256)
    else (x.lastOp.toNat, x.lastPc.toNat)
  | none => (x.lastOp.toNat, x.lastPc.toNat)

/-- VXE_STATUS (R213): BUSY while a VXE_RUN, VXE_SURVEY or VXE_ENCODE runs. -/
def State.roVxe (s : State) (t off : Nat) : Nat :=
  let x := s.vxe t
  if off = 0x14 then
    shB (x.op.any (fun o => o.started || decide (o.work ≠ .run))) 31 + sh x.running.1 8 + x.running.2
  else 0

def streamCode : StreamSt → Nat
  | .idle => 0 | .running => 1 | .halted => 2 | .faulted => 3 | .done => 4

def State.roSte (s : State) (t off : Nat) : Nat :=
  if off < 0x100 then 0
  else
    let x := (s.ste t).stream ((off - 0x100) / 32)
    let k := (if x.st = .faulted then x.fA else x.issued) / x.elem
    let i := fun d => opIdx x.w k d
    match (off - 0x100) % 32 with
    | 0 => if x.st = .idle then 0
      else sh (streamCode x.st) 29 + shB x.store 28 + sh (x.ctx % 256) 16 + x.queue % 2048
    | 4 => sh (i 1) 16 + i 0
    | 8 => sh (i 3) 16 + i 2
    | 0xC => i 4
    | 0x10 => x.fA % 2 ^ 32
    | 0x14 => x.fA / 2 ^ 32
    | 0x18 => x.fB % 2 ^ 32
    | 0x1C => x.fB / 2 ^ 32
    | _ => 0

def State.roTal (s : State) (b : BlkId) (off : Nat) : Nat :=
  let u := s.tal (blkKey b)
  if off = 0x14 then shB u.frozen 31 + shB u.stampV 30 + sh u.fogId.toNat 8 + (tallyCount b.kind - 1)
  else if off = 0x20 then u.stamp.toNat % 2 ^ 32
  else if off = 0x24 then u.stamp.toNat / 2 ^ 32
  else if 0x40 ≤ off ∧ off < 0x60 then
    let c := SMap.get (0, 0) u.chan ((off - 0x40) / 4)
    sh c.1.toNat 16 + c.2.toNat
  else if 0x800 ≤ off then
    let i := (off - 0x800) / 8
    let n := (SMap.get 0 u.counts i).toNat
    if off % 8 = 0 then n % 2 ^ 32 else shB (SMap.get false u.ovf i) 31 + n / 2 ^ 32
  else 0

def State.roFog (s : State) (off : Nat) : Nat :=
  if off = 0x38 then shB s.fog.fogged 31 + sh s.fog.source.toNat 28 + sh s.fog.ignored.toNat 16 + s.fog.id.toNat
  else s.roTal ⟨.talIo, 0⟩ off

def ldgCode : LdgSt → Nat
  | .off => 0 | .recording => 1 | .triggered => 2 | .stoppedFull => 3 | .stoppedTrig => 4 | .frozen => 5 | .stopped => 6

def State.roLdg (s : State) (b : BlkId) (off : Nat) : Nat :=
  let l := s.ldg (blkKey b)
  match off with
  | 0x30 => sh (ldgCode l.st) 29
  | 0x34 => l.wcount.toNat
  | 0x38 => l.trigAt.toNat
  | 0x3C => l.lost.toNat
  | o => if 0x50 ≤ o then (l.latch.getD ((o - 0x50) / 4) 0).toNat else 0

def State.roWch (s : State) (t off : Nat) : Nat :=
  if off < 0x100 then 0
  else
    let w := (s.wch (wchKey t ((off - 0x100) / 0x100))).snap
    let o := (off - 0x100) % 0x100
    match o with
    | 0x10 => w.drains.toNat
    | 0x14 => w.skipped.toNat
    | 0x18 => w.elems.toNat % 2 ^ 32
    | 0x1C => w.elems.toNat / 2 ^ 32
    | 0x20 => w.zeros.toNat
    | 0x24 => w.nans.toNat
    | 0x28 => w.infs.toNat
    | 0x2C => w.clamps.toNat
    | 0x30 => w.consts.toNat
    | 0x34 => w.retries.toNat
    | 0x38 => w.amax.toNat
    | 0x3C => w.amin.toNat
    | 0x40 => w.digest.toNat % 2 ^ 32
    | 0x44 => w.digest.toNat / 2 ^ 32
    | _ => if 0x80 ≤ o then (SMap.get 0 w.hist ((o - 0x80) / 4)).toNat else 0

def stackCode : StackSt → Nat
  | .off => 0 | .training => 1 | .ready => 2 | .recal => 3 | .failed => 4

def State.roNme (s : State) (k off : Nat) : Nat :=
  let n := s.nme k
  let x := s.stack k
  let run := n.ops.find? (·.started)
  match off with
  | 0x20 => shB run.isSome 31 + shB (run.any (·.bwd)) 30 + sh n.lastStat.toNat 12 + n.entryIdx.toNat
  | 0x28 => n.frames.toNat
  | 0xC00 => sh (stackCode x.st) 29 + shB x.hot 28 + sh x.temp.toNat 16 + x.recals.toNat
  | 0xD04 => x.eccAddr % 2 ^ 32 / 64 * 64
  | 0xD08 => x.eccAddr / 2 ^ 32
  | 0xE18 => shB x.move.isSome 31 + sh x.moved.toNat 12 + x.moveRes.toNat
  | 0xF04 => sh x.arb.latEst.toNat 16 + min 1023 x.arb.pending.length
  | _ => 0

def State.roKvf (s : State) (k off : Nat) : Nat :=
  let v := s.kvf k
  let total := ((s.partOfStack k).bind s.cfgOf).elim 0 (fun c => frameCount c k)
  match off with
  | 0x14 => total - v.usedFrames.length
  | 0x18 => v.epoch.toNat
  | 0x2C => s.cfg .kvf k 0x28 16 0 - v.usedRecs.length
  | o =>
    if 0x140 ≤ o ∧ o < 0x180 then v.poolUsed ((o - 0x140) / 4)
    else if 0x210 ≤ o then (v.latch.getD ((o - 0x210) / 4) 0).toNat
    else 0

/-- STATE of a link: OFF where it is excluded or not enabled (R371). -/
def State.linkCode (s : State) (l : Nat) : Nat :=
  if s.mask.link.testBit l ∨ s.cfg .lnk (l / 4) 0x10 (l % 4) (l % 4) = 0 then 5
  else match (s.link l).st with
    | .down => 0 | .training => 1 | .up => 2 | .retrain => 3 | .failed => 4

def State.roLnk (s : State) (g off : Nat) : Nat :=
  if off = 0x14 then ((s.board.pos).getD s.straps).toNat
  else if off = 0x30 then s.board.inc.toNat
  else if off = 0x400 then sh (s.lg g).lamps.length 16 + (s.lg g).lampsDone.toNat
  else if 0x100 ≤ off ∧ off < 0x180 then
    let l := 4 * g + (off - 0x100) / 32
    let x := s.link l
    match (off - 0x100) % 32 with
    | 0 => sh (s.linkCode l) 29 + shB x.reversed 28 + sh x.polInv.toNat 24 + sh x.peerPos.toNat 20
        + sh x.peerLink.toNat 15 + x.retrains.toNat
    | 4 => x.ce.toNat
    | 8 => x.ue.toNat
    | 0xC => x.crc.toNat
    | 0x10 => x.replay.toNat
    | _ => 0
  else 0

def State.roCle (s : State) (g off : Nat) : Nat :=
  let c := s.cle g
  if off = 0x14 then
    let run := c.coll.filter (·.started)
    shB run.isSome 31 + sh (c.sends.filter (·.started)).length 16
      + (match run.bind (fun o => s.cmdAt o.ref) with
         | some x => clCollId x
         | none => 0)
  else 0

def rtCode : RtSt → Nat
  | .off => 0 | .starting => 1 | .running => 2 | .blocked => 3 | .idle => 4

def State.roKpr (s : State) (k off : Nat) : Nat :=
  let x := s.pair k
  match off with
  | 0x20 => sh (rtCode x.st) 29 + shB ((s.partOfKp k).bind s.leadOf = some k) 28 + x.batch
  | 0x24 => x.late.toNat
  | 0x28 => x.steps.toNat
  | 0x44 => x.freq.word (s.period (.keeper k))
  | _ => 0

def ctxCode : CtxState → Nat
  | .free => 0 | .active => 1 | .faulted => 2 | .resetting => 3 | .destroying => 4

def State.roCtx (s : State) (p off : Nat) : Nat :=
  let x := s.part p
  if off = 8 then shB x.cmdFor.isSome 31 + x.cmdRes.toNat
  else if off = 0x1C then shB x.inv.isSome 31 + x.invRes.toNat
  else if 0x2000 ≤ off ∧ (off - 0x2000) % 32 = 16 then
    let c := (off - 0x2000) / 32
    if s.ctxQuota p ≤ c then 0
    else
      let v := s.ctx (s.devCtx p c)
      let n := ((List.range (s.queQuota p)).filter (fun q => decide (s.qCtx p q = c) && s.qEnabled p q)).length
      sh (ctxCode v.st) 29 + sh (min n 31) 16 + v.gen.toNat
  else 0

/-- STATE of a queue (R71): a queue whose oldest unbegun command awaits a mark is WAITING also where HEAD equals TAIL, and
so is a session queue that no runtime serves (R89). -/
def State.queCode (s : State) (p q : Nat) : Nat :=
  let x := s.q p q
  if x.draining then 5
  else if ¬ s.qEnabled p q then 0
  else if x.halted then 4
  else if s.qKind p q = 1 ∧ s.rtLead p = none ∧ (x.head ≠ x.tail ∨ x.inflight ≠ 0) then 3
  else if ((oldestUnbegun x).bind (fun i => x.cmds[i]?)).any (fun c => !c.allMet) then 3
  else if x.head = x.tail then 1
  else 2

def State.roQue (s : State) (p off : Nat) : Nat :=
  if 0x4000 ≤ off ∧ off < 0x6000 then
    let q := (off - 0x4000) / 4
    if s.queQuota p ≤ q then 0 else sh (s.queCode p q) 29 + sh (s.q p q).inflight 16
  else if 0x8000 ≤ off ∧ off % 16 = 12 then (s.q p ((off - 0x8000) / 16)).head.toNat
  else 0

def State.roRng (s : State) (p off : Nat) : Nat :=
  if off = 4 then (s.homeOf p).getD 0xF
  else if 0x200 ≤ off ∧ off < 0x300 then (s.ring (ringKey p ((off - 0x200) / 4))).entries.length
  else if 0x300 ≤ off ∧ off < 0x400 then
    let r := s.ring (ringKey p ((off - 0x300) / 4))
    sh r.tail.toNat 16 + r.head.toNat
  else if 0x400 ≤ off ∧ off % 8 = 4 then
    let b := s.bar (barKey p ((off - 0x400) / 8))
    shB b.isOpen 31 + sh (b.owner % 256) 16 + sh b.arrived.length 8 + b.epoch.toNat
  else 0

def State.roSes (s : State) (p off : Nat) : Nat :=
  let x := s.ses p
  if off = 8 then shB x.op.isSome 31 + x.result.toNat
  else if off = 0x38 then (x.slots.filter (fun e => decide (e.2.st ≠ .free))).length
  else if 0x40 ≤ off then (x.latch.getD ((off - 0x40) / 4) 0).toNat
  else 0

def State.roFlt (s : State) (p off : Nat) : Nat :=
  let x := s.part p
  match off with
  | 0x1C => x.prod.toNat
  | 0x24 => x.lost.toNat
  | 0x34 => shB x.rstBusy.isSome 31 + x.rstRes.toNat
  | _ => 0

def State.roPcx (s : State) (off : Nat) : Nat :=
  if off = 0x10 then
    sh s.pcx.gen.toNat 28 + sh s.pcx.width.toNat 23 + shB s.pcx.flit 22 + shB s.pcx.up 21 + sh s.pcx.pm.toNat 18
  else if 0x100 ≤ off ∧ off % 16 = 12 then
    let fn := (off - 0x100) / 16
    let f := s.func fn
    shB f.present 31 + shB f.bme 30 + shB f.atsEn 29 + shB f.atomicEn 28 + (s.partOfFn fn).getD 0xFF
  else 0

/-- MCTP over PCI Express is enabled by the OTP flag VDM_EN (R448, R457). -/
def State.vdmOn (s : State) : Bool := ((s.otpBlock).map (fun b => (otpLe b 6 2).testBit 2)).getD false

def State.roMgt (s : State) (off : Nat) : Nat :=
  if off = 0x10 then shB s.mgt.daValid 31 + sh s.mgt.dynAddr.toNat 24 + sh s.mgt.eid.toNat 16 + shB s.vdmOn 15 else 0

/-- A generation newer than the one in use has been programmed (R459). -/
def State.otpPending (s : State) : Bool :=
  s.otp.areas.zipIdx.any (fun x => x.1.used && !x.1.bad && (match s.otp.inUse with
    | some i => decide (i < x.2)
    | none => true))

def State.roOtp (s : State) (off : Nat) : Nat :=
  if off = 0x10 then
    sh (s.otp.inUse.getD 0) 30 + s.otp.areas.zipIdx.foldl (fun a x => a + shB x.1.used (24 + x.2) + shB x.1.bad (20 + x.2)) 0
      + shB s.otpPending 19
  else if 0x800 ≤ off then ((s.otpBlock).map (fun b => otpLe b (off - 0x800) 4)).getD 0
  else 0

def State.roPwr (s : State) (off : Nat) : Nat :=
  let w := s.pwr
  match off with
  | 0x14 => shB w.switch.isSome 31 + w.domRes.toNat
  | 0x20 => w.on.toNat % 2 ^ 32
  | 0x24 => w.on.toNat / 2 ^ 32 % 2 ^ 32
  | 0x28 => w.on.toNat / 2 ^ 64
  | 0x40 => shB w.latched 31 + w.powerQ.toNat
  | 0x44 => sh w.vinMv.toNat 16 + w.iin.toNat
  | 0x4C => s.effW
  | 0x50 => sh w.half0.toNat 24 + sh w.half1.toNat 16 + sh w.ioDie.toNat 8 + w.stackMax.toNat
  | 0x58 => shB w.clampOn 31 + shB (w.throttleHalf ≠ [] || s.stks.any (fun e => e.2.throttled)) 30
  | _ => 0

def State.roImg (s : State) (off : Nat) : Nat :=
  match off with
  | 0x10 => s.img.owner.toNat
  | 0x18 => shB s.img.busy.isSome 31 + shB s.img.verified 30 + sh s.img.detail.toNat 16 + s.img.result.toNat
  | o => if 0x40 ≤ o then
      ((s.img.applied).map (fun i => leNat ((i.digest.drop (o - 0x40)).take 4))).getD 0
    else 0

/-- The functional value of a register: its read-only fields. -/
def State.roWord (s : State) (b : BlkId) (off : Nat) : Nat :=
  match b.kind with
  | .tile => s.roTile b.unit off
  | .mxe => s.roMxe b.unit off
  | .vxe => s.roVxe b.unit off
  | .ste => s.roSte b.unit off
  | .talTile | .talStack | .talLg | .talKp | .talPart => s.roTal b off
  | .ldgTile | .ldgStack => s.roLdg b off
  | .wch => s.roWch b.unit off
  | .nme => s.roNme b.unit off
  | .kvf => s.roKvf b.unit off
  | .lnk => s.roLnk b.unit off
  | .cle => s.roCle b.unit off
  | .kpr => s.roKpr b.unit off
  | .ctx => s.roCtx b.unit off
  | .que => s.roQue b.unit off
  | .rng => s.roRng b.unit off
  | .ses => s.roSes b.unit off
  | .pfx => if off = 0x18 then s.pfxCap b.unit else if off = 0x1C then (s.part b.unit).pfx.length else 0
  | .flt => s.roFlt b.unit off
  | .pcx => s.roPcx off
  | .mgt => s.roMgt off
  | .sec => 0
  | .otp => s.roOtp off
  | .pwr => s.roPwr off
  | .img => s.roImg off
  | .talIo => s.roFog off

/-- The commit register of a block (R41). -/
def State.commitWord (s : State) (b : BlkId) : Nat :=
  let r := s.blk b
  sh r.serial.toNat 16 + shB r.refused 4 + shB (dirtyOffs b.kind r ≠ []) 3 + shB (r.pend ≠ []) 1

/-- Elements beyond the partition's quota have no register group (R38, R63, R65, R91). -/
def State.regHere (s : State) (b : BlkId) (off : Nat) : Bool :=
  match b.kind with
  | .ctx => decide (off < 0x2000) || decide ((off - 0x2000) / 32 < s.ctxQuota b.unit)
  | .que =>
    if off < 0x4000 then true
    else if off < 0x8000 then decide (off % 0x2000 / 4 < s.queQuota b.unit)
    else decide ((off - 0x8000) / 16 < s.queQuota b.unit)
  | _ => true

/-- The fields of the register at an offset; none where no register is (R38). -/
def State.fieldsAt (s : State) (b : BlkId) (off : Nat) : Option (List Field) :=
  if s.regHere b off then regFields b.kind off else none

/-- What a register reads (R5): staged and plain values, bits that clear, and the read-only fields. A write-only field and
an offset without a register read zero (R38). -/
def State.regWord (s : State) (b : BlkId) (off : Nat) : W32 :=
  if off = 0 then BitVec.ofNat 32 (s.commitWord b)
  else match s.fieldsAt b off with
    | none => 0
    | some fs =>
      let r := s.blk b
      (stagedWord b.kind r off &&& accMask fs .stg) ||| (plainWord b.kind r off &&& accMask fs .rw)
        ||| (w1cWord r off &&& accMask fs .w1c) ||| BitVec.ofNat 32 (s.roWord b off)

/-! ## Who reads what -/

/-- A tally's registers, by the tally's index. -/
def tallyOf (off : Nat) : Option Nat :=
  if 0x800 ≤ off then some ((off - 0x800) / 8) else if 0x100 ≤ off then some ((off - 0x100) / 8) else none

def State.talMasked (s : State) (m : Master) (b : BlkId) (off : Nat) : Bool :=
  isTal b.kind && (match tallyOf off with
    | some i => s.tallyHidden m b i
    | none => false)

/-- The channel records of a tile that is off are answered by its router (R392, R399). -/
def chanRecord (b : BlkId) (off : Nat) : Bool := decide (b.kind = .talTile) && decide (0x40 ≤ off) && decide (off < 0x60)

/-- A master's read of a register: nothing where it does not reach the block. -/
def State.regRead (s : State) (m : Master) (b : BlkId) (off : Nat) : Option W32 :=
  let on : State := if chanRecord b off then s.setDom (domTile b.unit) true else s
  if ¬ on.reaches m b then none
  else if s.talMasked m b off then some 0
  else some (s.regWord b off)

/-! ## Writes -/

/-- A write by access code (R5). -/
def State.codeWrite (s : State) (b : BlkId) (off : Nat) (v : W32) : State :=
  match s.fieldsAt b off with
  | none => s
  | some fs =>
    let stg := accMask fs .stg
    let rw := accMask fs .rw
    let clr := accMask fs .w1c &&& v
    let r := s.blk b
    let s := if stg ≠ 0 then s.setStaged b.kind b.unit off ((stagedWord b.kind r off &&& ~~~stg) ||| (v &&& stg)) else s
    let s := if rw ≠ 0 then s.setPlain b.kind b.unit off ((plainWord b.kind r off &&& ~~~rw) ||| (v &&& rw)) else s
    let s := if clr ≠ 0 then s.unflag b.kind b.unit off clr else s
    if isTal b.kind ∧ 0x800 ≤ off ∧ off % 8 = 4 ∧ v.getLsbD 31 then
      let u := s.tal (blkKey b)
      s.setTal (blkKey b) { u with ovf := SMap.set false u.ovf ((off - 0x800) / 8) false }
    else s

/-- A write to the commit register (R41). -/
def State.commitWrite (s : State) (m : Master) (b : BlkId) (v : W32) : State :=
  let s := if v.getLsbD 4 ∧ s.mayWrite m b 0 then s.setBlk b { s.blk b with refused := false } else s
  if v.getLsbD 0 then stateOf (execGo m b s) s
  else if v.getLsbD 2 then stateOf (execDiscard m b s) s
  else s

/-- The effect of a register whose writes are commands; none for a register without one. -/
def State.cmdWrite (s : State) (m : Master) (b : BlkId) (off : Nat) (v : W32) : Option State :=
  let u := b.unit
  let op := bitsOf v.toNat 31 28
  let run := fun (r : Result) => some (stateOf r s)
  let p := partFin u
  let c : BitVec 8 := v.extractLsb' 0 8
  match b.kind, off with
  | .tile, 0x50 =>
    if v.getLsbD 31 then
      let w : State := if s.mayWrite m b off then s.codeWrite b off v else s
      some (stateOf (execReseed m (tileFin u) w) w)
    else none
  | .mxe, 0x38 =>
    let slots : BitVec 2 := v.extractLsb' 26 2
    if op = 1 then run (execMxeSave m (tileFin u) slots s)
    else if op = 2 then run (execMxeRestore m (tileFin u) slots (v.extractLsb' 0 11) s)
    else some s
  | .ste, 0x14 => if op = 1 then run (execSteResume m (tileFin u) (sidFin (bitsOf v.toNat 3 0)) s) else some s
  | .ldgTile, 0x2C | .ldgStack, 0x2C =>
    if op = 1 then run (execLdgArm m b s) else if op = 2 then run (execLdgStop m b s)
    else if op = 3 then run (execLdgTrigger m b s) else some s
  | .ldgTile, 0x40 | .ldgStack, 0x40 => run (execLdgRdSelWrite m b v s)
  | .wch, 0x10 =>
    if op = 1 then run (execWchSnap m (tileFin u) (v.extractLsb' 0 4) s)
    else if op = 2 then run (execWchClear m (tileFin u) (v.extractLsb' 0 4) s) else some s
  | .nme, 0xE14 =>
    if op = 1 then run (execToHost m (stackFin u) s) else if op = 2 then run (execFromHost m (stackFin u) s) else some s
  | .kvf, 0x200 => run (execKvfEntrySelWrite m (stackFin u) v s)
  | .lnk, 0x20 =>
    if op = 1 then run (execLnkRetrain m (lgFin u) (v.extractLsb' 0 2) s)
    else if op = 2 then run (execLnkClear m (lgFin u) (v.extractLsb' 0 2) s) else some s
  | .kpr, 0x30 => run (execKprHbWrite m p v s)
  | .ctx, 4 =>
    if op = 1 then run (execCtxCreate m p c s) else if op = 2 then run (execCtxDestroy m p c s)
    else if op = 3 then run (execCtxReset m p c s) else some s
  | .ctx, 0x18 =>
    if op = 1 then run (execInvalidateRange m p c s) else if op = 2 then run (execInvalidateContext m p c s)
    else if op = 3 then run (execPagedIn m p c s) else some s
  | .ses, 4 =>
    (match op with
     | 1 => run (execSesCmdOpen m p s)
     | 2 => run (execSesCmdClose m p s)
     | 3 => run (execSesCmdSet m p s)
     | 4 => run (execFork m p s)
     | 5 => run (execAttach m p s)
     | 6 => run (execPublish m p s)
     | 7 => run (execSesCmdSpill m p s)
     | 8 => run (execSesCmdFetch m p s)
     | 9 => run (execUnpark m p s)
     | 10 => run (execTick m p s)
     | 11 => run (execPin m p s)
     | 12 => run (execPfxFlush m p s)
     | _ => some s)
  | .ses, 0x30 => run (execSesSelWrite m p v s)
  | .flt, 0x30 =>
    if op = 1 then run (execEngineReset m p (v.extractLsb' 24 4) c s)
    else if op = 2 then run (execPartitionReset m p s) else if op = 3 then run (execChipReset m p s) else some s
  | .flt, 0x20 =>
    if s.mayWrite m b off ∧ ((s.part u).prod - v).toNat ≤ fltSize s u then some (s.setPlain .flt u 0x20 v) else some s
  | .pwr, 0x10 =>
    if op = 1 then run (execDomainOn m (v.extractLsb' 0 7) s)
    else if op = 2 then run (execDomainOff m (v.extractLsb' 0 7) s) else some s
  | .img, 0x10 =>
    -- DESIGN CHOICE (notes/assumptions/102.md): FORCE and a code in OWNER in one write: FORCE alone acts.
    if v.getLsbD 31 ∧ m = .mgmt then run (execImgClaimForce m s) else run (execImgClaimWrite m (v.extractLsb' 0 2) s)
  | .img, 0x14 =>
    (match bitsOf v.toNat 3 0 with
     | 1 => run (execImgFetch m s)
     | 2 => run (execImgVerify m s)
     | 3 => run (execImgApply m s)
     | 4 => run (execImgClear m s)
     | _ => some (s.imgCmd m (fun s => s)))
  | .talIo, 0x34 => if op = 1 then run (execFire m s) else if op = 2 then run (execThaw m s) else some s
  | k, o =>
    if isTal k ∧ o = 0x10 then
      (if op = 1 then run (execTalClear m b c (v.extractLsb' 8 8) s) else some s)
    else if k = .que ∧ 0x6000 ≤ o ∧ o < 0x8000 then some (s.doorbell (.queDb m p ((o - 0x6000) / 4)) v)
    else none

/-- Registers that only some masters write, whose refusal shows as DENIED (R55, R149, R268, R272, R315, R324): the state
where the master may not write. -/
def State.deniedWrite (s : State) (m : Master) (b : BlkId) (off : Nat) : Option State :=
  let no := fun (p : Option Nat) => !(match p with
    | some p => s.pfOrKp m p
    | none => decide (m = .pf))
  match b.kind with
  | .mxe =>
    if 0x30 ≤ off ∧ off ≤ 0x38 ∧ no (s.partOfTile b.unit) then some (s.setMxe b.unit { s.mxe b.unit with saveRes := 0x04 }) else none
  | .nme =>
    if 0xE00 ≤ off ∧ off ≤ 0xE14 ∧ no (s.partOfStack b.unit) then some (s.moveResult b.unit 0x05) else none
  | .ctx =>
    if (off = 0x10 ∨ off = 0x14 ∨ off = 0x18) ∧ ¬ s.fnOrKp m b.unit then
      some (s.setPart b.unit { s.part b.unit with invRes := 0x03 }) else none
  | .ses =>
    if (off = 0x04 ∨ 0x10 ≤ off ∧ off < 0x28 ∨ off = 0x30) ∧ ¬ s.fnOrKp m b.unit then some (s.sesRefuse b.unit 0x09) else none
  | .img => if 0x20 ≤ off ∧ off < 0x30 ∧ ¬ s.imgOwns m then some (s.imgResult 0x0C) else none
  | _ => none

/-- A master's write of this register reaches it: it reaches the block, or it is a PWR_DOM_CMD of a partition's own (R472). -/
def State.writeReaches (s : State) (m : Master) (b : BlkId) (off : Nat) : Bool :=
  s.reaches m b || (decide (b.kind = .pwr) && decide (off = 0x10) && s.domReach m)

/-- A master's write of a register (R5, R38). -/
def State.regWrite (s : State) (m : Master) (b : BlkId) (off : Nat) (v : W32) : State :=
  if off = 0 then s.commitWrite m b v
  else if ¬ s.writeReaches m b off then s
  else match s.deniedWrite m b off with
    | some s => s
    | none =>
      match s.cmdWrite m b off v with
      | some s => s
      | none => if s.mayWrite m b off ∧ ¬ s.talMasked m b off then s.codeWrite b off v else s

/-- A write anywhere in the control-register range (R37). -/
def State.ctlWrite (s : State) (m : Master) (addr : Nat) (v : W32) : State :=
  match ctlPlace addr with
  | .reg b off => s.regWrite m b off v
  | .imgBuf off => stateOf (execImgBufWrite m off v s) s
  | .none => s

/-- A master's write at this address of the control-register range reaches a register or the image buffer. -/
def State.ctlTakes (s : State) (m : Master) (addr : Nat) : Bool :=
  match ctlPlace addr with
  | .reg b off => s.writeReaches m b off
  | .imgBuf _ => s.imgReach m
  | .none => false

/-- A read anywhere in the control-register range: nothing outside every block and outside the master's reach. -/
def State.ctlRead (s : State) (m : Master) (addr : Nat) : Option W32 :=
  match ctlPlace addr with
  | .reg b off => s.regRead m b off
  | .imgBuf off => if s.imgReach m then some (BitVec.ofNat 32 (imgLe s.img.buf off 4)) else none
  | .none => none

/-! ## Accesses that reach no register (R38, R374, R442) -/

/-- A function is on the bus. -/
def State.fnOn (s : State) (fn : Nat) : Bool := s.pcx.up && (s.func fn).present

def State.barMiss (s : State) : State := s.flag .pcx 0 0x14 (bit 31)

/-- Whether a control address lies in an instance that the function reaches, its unit being on or off (R442). -/
def State.inReach (s : State) (fn addr : Nat) : Bool :=
  match ctlPlace addr with
  | .reg b _ => (fn = 0 || (s.partOfFn fn).isSome && decide (s.blkPart b = s.partOfFn fn)) && (!partKinds.contains b.kind || (s.cfgOf b.unit).isSome)
  | .imgBuf _ => decide (fn = 0)
  | .none => false

def State.coreFault (s : State) (core a : Nat) : State := s.emit (.keeperFault core a)

/-- The state in which a master's register write acts: a function's write is counted at PCI Express and follows the
function's earlier posted writes (R335, R395). -/
def State.writeArrives (s : State) (m : Master) : State :=
  match masterFn m with
  | some fn => if s.fnOn fn then (s.countIo 0x0602 4).flushPosted fn else s
  | none => s

/-- REGISTER_WRITE (R5). A write that reaches no register raises what R38 names as its master sees it: BAR_MISS for a
function, an access fault of the pair's first core for a keeper pair; the management port's answer is its own row's. A
function's earlier posted writes are performed first (R335). -/
def execRegisterWrite (m : Master) (addr : Nat) (v : W32) (s : State) : Result :=
  okIf (decide (addr % 4 = 0)) (
    match m with
    | .mgmt => s.ctlWrite m addr v
    | .kp p =>
      if ¬ s.domOn (domKp p.val) then s
      else if s.ctlTakes m addr then s.ctlWrite m addr v
      else s.coreFault (2 * p.val) addr
    | _ =>
      let fn := (masterFn m).getD 0
      let s := s.writeArrives m
      if s.inReach fn addr then s.ctlWrite m addr v else if s.fnOn fn then s.barMiss else s)

end Sys2Proof.Machine
end

