-- ==== Sys2Proof/Machine/Host.lean ====
section
/-!
DEFINITION. What reaches the device's memory and registers from outside its engines: the host through its BARs
(R335, R440–R445), the keeper cores (R337, R374), and atomics at their homes and through PCI Express (R339, R340).
-/
namespace Sys2Proof.Machine

/-! ## Functions (R440–R443) -/

/-- The master that a function is. -/
def fnMaster (fn : Nat) : Master := if fn = 0 then .pf else .vf (partFin (fn - 1))

def State.complete (s : State) (fn : Nat) (ok : Bool) (data : List Byte) : State := s.emit (.completion fn ok data)

/-- What a BAR0 offset of a function maps to. -/
inductive Bar0 where
  | ctl (addr : Nat)
  | table (off : Nat)
  | pba (off : Nat)
  | miss
  deriving DecidableEq, Repr

/-- BAR0 of the physical function (R440). -/
def bar0Pf (off : Nat) : Bar0 :=
  if off < 0x308_0000 then .ctl (ctlBase + off)
  else if 0x310_0000 ≤ off ∧ off < 0x390_0000 then .ctl (0x2000_0400_0000 + (off - 0x310_0000))
  else if 0x3A0_0000 ≤ off ∧ off < 0x3C0_0000 then .ctl (0x2000_0800_0000 + (off - 0x3A0_0000))
  else if 0x3F0_0000 ≤ off ∧ off < 0x3F0_8000 then .table (off - 0x3F0_0000)
  else if 0x3F8_0000 ≤ off ∧ off < 0x3F8_0100 then .pba (off - 0x3F8_0000)
  else .miss

/-- BAR0 of a virtual function whose partition is `p` (R441). -/
def bar0Vf (p off : Nat) : Bar0 :=
  if off < 0x10_0000 then .ctl (0x2000_0400_0000 + p * 0x10_0000 + off)
  else if 0x40_0000 ≤ off ∧ off < 0x70_0000 then .ctl (ctlBase + (off - 0x40_0000))
  else if 0x80_0000 ≤ off ∧ off < 0x8C_0000 then .ctl (0x2000_0100_0000 + (off - 0x80_0000))
  else if 0xA0_0000 ≤ off ∧ off < 0xA6_0000 then .ctl (0x2000_0200_0000 + (off - 0xA0_0000))
  else if 0xB0_0000 ≤ off ∧ off < 0xB8_0000 then .ctl (0x2000_0300_0000 + (off - 0xB0_0000))
  else if 0xF0_0000 ≤ off ∧ off < 0xF0_8000 then .table (off - 0xF0_0000)
  else if 0xF8_0000 ≤ off ∧ off < 0xF8_0100 then .pba (off - 0xF8_0000)
  else .miss

def State.bar0 (s : State) (fn off : Nat) : Bar0 :=
  if fn = 0 then bar0Pf off
  else match s.partOfFn fn with
    | some p => bar0Vf p off
    | none => if 0xF0_0000 ≤ off then bar0Vf 0 off else .miss

/-- Write of a word of the MSI-X table: addresses are 4-byte aligned, and only the mask bit of the control word is
writable. Vectors that it unmasks send what is pending (R445). -/
def State.tableWrite (s : State) (fn off : Nat) (v : W32) : State :=
  let i := off / 4 % 4
  if s.vectors fn ≤ off / 16 then s
  else
    let f := s.func fn
    let v := if i = 3 then v &&& 1 else if i = 0 then v &&& 0xFFFFFFFC else v
    (s.setFunc fn { f with table := SMap.set (if i = 3 then 1 else 0) f.table (off / 4) v }).sendPending fn

/-- 32 pending bits. -/
def pbaWord (f : Func) (off : Nat) : W32 :=
  BitVec.ofNat 32 ((List.range 32).foldl (fun a i => a + shB (SMap.get false f.pba (8 * off + i)) i) 0)

/-- A BAR0 read. -/
def State.bar0Read (s : State) (fn off : Nat) : State :=
  match s.bar0 fn off with
  | .ctl a =>
    (match s.ctlRead (fnMaster fn) a with
     | some w => s.complete fn true (leBytes 4 w.toNat)
     | none =>
       if s.inReach fn a then s.complete fn false [] else (s.barMiss).complete fn true [0, 0, 0, 0])
  | .table o =>
    s.complete fn true (leBytes 4 (if s.vectors fn ≤ o / 16 then 0 else (msixWord (s.func fn) (o / 16) (o / 4 % 4)).toNat))
  | .pba o => s.complete fn true (leBytes 4 (pbaWord (s.func fn) o).toNat)
  | .miss => (s.barMiss).complete fn true [0, 0, 0, 0]

/-- A BAR0 write. -/
def State.bar0Write (s : State) (fn off : Nat) (v : W32) : State :=
  match s.bar0 fn off with
  | .ctl a => if s.inReach fn a then s.ctlWrite (fnMaster fn) a v else s.barMiss
  | .table o => s.tableWrite fn o v
  | .pba _ => s
  | .miss => s.barMiss

/-- BAR0_ACCESS (R440–R442): a read of an aligned word, or a write, before which the function's earlier posted writes are
performed (R335). -/
def execBar0Access (fn : Fin 9) (off : Nat) (w : Option W32) (s : State) : Result :=
  okIf (decide (off % 4 = 0) && decide (off < if fn.val = 0 then 0x400_0000 else 0x100_0000)) (
    if ¬ s.fnOn fn.val then s
    else match w with
      | none => s.bar0Read fn.val off
      | some v => ((s.countIo 0x0602 4).flushPosted fn.val).bar0Write fn.val off v)

/-! ## BAR2 (R443) -/

/-- The device physical address behind a BAR2 offset; none where the access is a miss. DESIGN CHOICE: under B2_KIND 1 an
address of the control range outside every block (R38), which no context of a function could be charged for, is a miss
(notes/assumptions/114.md). -/
def State.bar2At (s : State) (fn off : Nat) : Option Nat :=
  let r := 0x100 + 16 * fn
  let x := s.cfg .pcx 0 r 9 0 * 2 ^ 30 + off
  let part := (s.partOfFn fn).bind s.cfgOf
  match s.cfg .pcx 0 r 31 30 with
  | 0 => part.bind (fun c =>
      let ks := partStacks s.mask c
      if x < intlSize ks c then some (intlAddr ks x) else none)
  | 1 => if fn = 0 ∧ x < hostBase ∧ physAt x ≠ .none ∧ (physAt x = .ctl → ctlPlace (x / 4 * 4) ≠ .none) then some x else none
  | _ =>
    let k := s.cfg .pcx 0 r 27 24
    if (s.blk ⟨.pcx, 0⟩).missed.contains fn then none
    else part.bind (fun c =>
      if stackIn s.mask c k ∧ (s.stack k).st ≠ .failed ∧ x < frameCount c k * 0x2_0000 then some (frameAddr c k 0 + x) else none)

/-- Bytes that lie in one 4 KiB page of BAR2, as every PCI Express request does. -/
def bar2Ok (off len : Nat) : Bool :=
  decide (0 < len) && decide (off % 4096 + len ≤ 4096) && decide (off + len ≤ 2 ^ 36)

/-- A write carries as many bytes as its length, at most the payload of R435. -/
def bar2DataOk (len : Nat) (w : Option (List Byte)) : Bool :=
  match w with
  | some bs => decide (bs.length = len) && decide (len ≤ 512)
  | none => true

/-- A BAR2 read: zero data on a miss, also at a control address outside every block (DESIGN CHOICE, notes/assumptions/114.md);
Completer Abort from a poisoned line or a unit that is off (R24, R259),
and from the matrix engine's fold area (R142; log 89). -/
def State.bar2Read (s : State) (fn off len : Nat) : State :=
  match s.bar2At fn off with
  | none => (s.barMiss).complete fn true (List.replicate len 0)
  | some a =>
    match physAt a with
    | .stack k =>
      if s.stackUp k ∧ ¬ s.poisoned a len then s.complete fn true (s.readBytes a len) else s.complete fn false []
    | .scratch t =>
      if s.tileOn t ∧ ¬ s.inFold a len then s.complete fn true (s.readBytes a len) else s.complete fn false []
    | _ =>
      if a % 4 = 0 ∧ (len = 4 ∨ len = 8) then
        (match s.ctlRead .pf a, if len = 8 then s.ctlRead .pf (a + 4) else some 0 with
         | some lo, some hi => s.complete fn true ((leBytes 4 lo.toNat ++ leBytes 4 hi.toNat).take len)
         | _, _ => s.complete fn false [])
      else s.complete fn false []

/-- A BAR2 write is posted; one that falls on control registers is performed at once, after the earlier ones. DESIGN CHOICE:
8 bytes at an address 4 mod 8, which R37 does not name, are two register accesses (notes/assumptions/114.md). -/
def State.bar2Write (s : State) (fn off : Nat) (bs : List Byte) (relaxed : Bool) : State :=
  match s.bar2At fn off with
  | none => s.barMiss
  | some a =>
    match physAt a with
    | .ctl =>
      let s := s.flushPosted fn
      if a % 4 = 0 ∧ (bs.length = 4 ∨ bs.length = 8) then
        let s := (s.countIo 0x0602 bs.length).ctlWrite .pf a (BitVec.ofNat 32 (leNat (bs.take 4)))
        if bs.length = 8 then s.ctlWrite .pf (a + 4) (BitVec.ofNat 32 (leNat (bs.drop 4))) else s
      else s
    | _ =>
      let f := s.func fn
      s.setFunc fn { f with posted := f.posted ++ [(a, bs, relaxed)] }

/-- BAR2_ACCESS (R443): a read, or a posted write of at most 512 bytes. The halves are beyond the hub (R23). -/
def execBar2Access (fn : Fin 9) (off : Nat) (len : Nat) (w : Option (List Byte)) (relaxed : Bool) (s : State) : Result :=
  okIf (bar2Ok off len && bar2DataOk len w) (
    if ¬ s.fnOn fn.val then s
    else if ¬ s.domOn domHub then (if w.isNone then s.complete fn.val false [] else s)
    else match w with
      | none => s.bar2Read fn.val off len
      | some bs => s.bar2Write fn.val off bs relaxed)

/-- HOST_POSTED_WRITE (R335): posted write `k` of a function is performed; one with Relaxed Ordering clear only once it is
the oldest. -/
def execHostPostedWrite (fn : Fin 9) (k : Nat) (s : State) : Result :=
  .next (
    let f := s.func fn.val
    match f.posted[k]? with
    | none => s
    | some (a, bs, relaxed) =>
      if ¬ relaxed ∧ k ≠ 0 then s
      else (s.setFunc fn.val { f with posted := f.posted.eraseIdx k }).performPosted a bs relaxed)

/-! ## Atomics (R339, R340) -/

/-- Whether an atomic at a device address can be performed: its home answers and the line is not poisoned. -/
def State.atomHome (s : State) (a bytes : Nat) : Bool :=
  match physAt a with
  | .stack k => s.stackUp k && !s.poisoned a bytes
  | .scratch t => s.tileOn t && !(s.inFold a bytes)
  | _ => false

/-- HOST_ATOMIC (R335, R435): FetchAdd, Swap or CAS through BAR2, after the earlier posted writes of its function. -/
def execHostAtomic (fn : Fin 9) (off : Nat) (op : AtomOp) (bytes : Nat) (v : Nat) (s : State) : Result :=
  okIf (atomOk op bytes off && bar2Ok off bytes) (
    if ¬ s.fnOn fn.val then s
    else
      let s := s.flushPosted fn.val
      if ¬ s.domOn domHub ∨ ¬ hostHas op then s.complete fn.val false []
      else match s.bar2At fn.val off with
        | none => (s.barMiss).complete fn.val true (List.replicate bytes 0)
        | some a =>
          if s.atomHome a bytes then
            let s := s.countIo 0x0602 bytes
            let r := s.atomicDev a op bytes v
            (s.markUpdate a bytes hostParty r.2).complete fn.val true (leBytes bytes r.1)
          else s.complete fn.val false [])

/-- Where a keeper pair's access goes (R374). -/
inductive KeepAt where
  | mem
  | ctl
  | host
  | none
  deriving DecidableEq, Repr

def State.keepAt (s : State) (pair a n : Nat) : KeepAt :=
  match s.partOfKp pair with
  | none => .none
  | some p =>
    match physAt a with
    | .stack k => if s.inPartStacks p a n ∧ s.stackUp k then .mem else .none
    | .scratch t =>
      if s.partOfTile t = some p ∧ s.tileOn t ∧ a % 0x80_0000 + n ≤ scratchSize ∧ ¬ s.inFold a n then .mem else .none
    | .ctl => .ctl
    | .host => .host
    | .none => .none

/-- The core that a pair's result goes to. -/
def State.toCore (s : State) (core : Nat) (data : List Byte) : State := s.emit (.keeperData core data)

/-- An aligned store or AMO of 4 or 8 bytes by a core that has executed a fence may be a release (R337): the device does not
know which words are marks. DEDUCED (log 95): each such one is treated as a release at SC_SYS. -/
def State.coreReleases (s : State) (core a n : Nat) : Bool :=
  ((s.pair (core / 2)).fenced).contains core && (decide (n = 4) || decide (n = 8)) && decide (a % n = 0)

/-- A store or AMO of a core to device memory (R332, R336, R337): as a release it follows the flush of the core's host
writes, without which it is not performed, and its mismatched waits are counted. `f` performs the access. -/
def State.coreUpdate (s : State) (core a n : Nat) (f : State → State) : State :=
  if s.coreReleases core a n then
    match s.coreFlush core a with
    | (some _, s) => s.coreFault core a
    | (none, s) => s.markUpdate a n ⟨.kpr, core / 2⟩ (f s)
  else f s

/-- An atomic of a keeper core at the host: provided there, or attempted by the controller (R340). -/
def State.keeperHostAtomic (s : State) (core a : Nat) (op : AtomOp) (bytes v : Nat) : State :=
  let fn := ((s.partOfKp (core / 2)).map s.fnOf).getD 0
  if ¬ (s.func fn).atomicEn then s.coreFault core a
  else if ¬ s.hostOk fn then (s.flag .pcx 0 0x14 (bit 30)).coreFault core a
  else if hostHas op then
    let c := s.carry fn a
    let s := c.2.emit (.hostAtomic fn c.1 op bytes v)
    let d := s.hostBytes (s.busAddr fn a) bytes
    d.2.toCore core d.1
  else { s with pcx := { s.pcx with reqs := s.pcx.reqs ++ [.atomic (Fin.ofNat 16 core) a op bytes v] } }

/-- An atomic of a keeper core. -/
def State.keeperAtomic (s : State) (core a : Nat) (op : AtomOp) (bytes v : Nat) : State :=
  if ¬ atomOk op bytes a then s.coreFault core a
  else match s.keepAt (core / 2) a bytes with
    | .mem =>
      if s.poisoned a bytes then s.coreFault core a
      else s.coreUpdate core a bytes (fun s =>
        let r := s.atomicDev a op bytes v
        r.2.toCore core (leBytes bytes r.1))
    | .host => s.keeperHostAtomic core a op bytes v
    | _ => s.coreFault core a

/-- A function's own memory: of its partition's stacks the interleaved share and the frame region, and its tiles' scratchpads;
the physical function reaches every place (R51). -/
def State.fnOwns (s : State) (fn a n : Nat) : Bool :=
  fn = 0 || (match s.partOfFn fn with
    | none => false
    | some p =>
      match physAt a with
      | .stack k => decide (s.partOfStack k = some p)
          && decide (a - stackBase k + n ≤ (((s.cfgOf p).map (fun c => c.intlQ * 0x1000_0000 + frameCount c k * 0x2_0000)).getD 0))
      | .scratch t => decide (s.partOfTile t = some p)
      | _ => false)

/-- ATOMIC_AT_HOME (R339): an atomic that a master's request brings to the home of its address. A keeper pair's is that of
its first core; a function's comes after its posted writes (R335) and reaches what it may access; the management port issues
none. -/
def execAtomicAtHome (m : Master) (addr : Nat) (op : AtomOp) (bytes : Nat) (v : Nat) (s : State) : Result :=
  okIf (atomOk op bytes addr) (
    match m with
    | .kp p => if s.domOn (domKp p.val) then s.keeperAtomic (2 * p.val) addr op bytes v else s
    | .mgmt => s
    | _ =>
      let fn := match m with
        | .vf k => k.val + 1
        | _ => 0
      if ¬ s.fnOn fn ∨ ¬ s.domOn domHub then s
      else
        let s := s.flushPosted fn
        if s.fnOwns fn addr bytes ∧ s.atomHome addr bytes then
          let r := s.atomicDev addr op bytes v
          (s.markUpdate addr bytes hostParty r.2).complete fn true (leBytes bytes r.1)
        else s.complete fn false [])

/-- What an emulated atomic is: address, operation, width and operand. -/
def atomicOf : HostReader → Option (Nat × AtomOp × Nat × Nat)
  | .atomic _ a op bytes v => some (a, op, bytes, v)
  | .release r => some (r.addr, .maxU, 8, r.value)
  | _ => none

/-- An emulated atomic has been performed. -/
def State.atomicDone (s : State) (r : HostReader) (old : Nat) : State :=
  match r with
  | .release r => s.releaseDone r
  | .atomic core _ _ bytes _ => s.toCore core.val (leBytes bytes old)
  | _ => s

/-- HOST_ATOMIC_EMULATE (R340): one attempt of request `k`: the value read back, and whether the CAS succeeded. Without a
change to make, no CAS is issued. -/
def execHostAtomicEmulate (k : Nat) (readBack : Option Nat) (casOk : Bool) (s : State) : Result :=
  .next (
    match s.pcx.reqs[k]? with
    | none => s
    | some r =>
      match atomicOf r with
      | none => s
      | some (a, op, bytes, v) =>
        let fn := ((s.reqPart r).map s.fnOf).getD 0
        let gone : State := { s with pcx := { s.pcx with reqs := s.pcx.reqs.eraseIdx k } }
        match readBack with
        | none => gone.hostFails r
        | some old =>
          if ¬ s.hostOk fn then gone.hostFails r
          else
            let old := old % 2 ^ (8 * bytes)
            let new := atomNew op bytes old v
            if new = old then gone.atomicDone r old
            else
              let next := if casOk then gone else s
              let c := next.carry fn a
              let s := (c.2.emit (.hostAtomic fn c.1 (.cas old) bytes new)).countIo 0x0601 1
              if casOk then s.atomicDone r old else s)

/-! ## Keeper cores (R337, R374) -/

/-- A load: memory, one or two registers, or the host. -/
def State.keeperLoad (s : State) (core a n : Nat) : State :=
  let m := Master.kp (partFin (core / 2))
  match s.keepAt (core / 2) a n with
  | .mem => if s.poisoned a n then s.coreFault core a else s.toCore core (s.readBytes a n)
  | .ctl =>
    if a % 4 = 0 ∧ (n = 4 ∨ n = 8) then
      (match s.ctlRead m a, if n = 8 then s.ctlRead m (a + 4) else some 0 with
       | some lo, some hi => s.toCore core ((leBytes 4 lo.toNat ++ leBytes 4 hi.toNat).take n)
       | _, _ => s.coreFault core a)
    else s.coreFault core a
  | .host =>
    let fn := ((s.partOfKp (core / 2)).map s.fnOf).getD 0
    (match s.hostRead fn a n with
     | (some bs, s) => s.toCore core bs
     | (none, s) => s.coreFault core a)
  | .none => s.coreFault core a

/-- A store; one that may be a release goes to the host with Relaxed Ordering clear (R336, R337). -/
def State.keeperStore (s : State) (core a : Nat) (bs : List Byte) : State :=
  let m := Master.kp (partFin (core / 2))
  let n := bs.length
  match s.keepAt (core / 2) a n with
  | .mem => s.coreUpdate core a n (fun s => s.writeBytes a bs)
  | .ctl =>
    let lo := BitVec.ofNat 32 (leNat (bs.take 4))
    let hi := BitVec.ofNat 32 (leNat (bs.drop 4))
    if a % 4 = 0 ∧ (n = 4 ∨ n = 8) ∧ s.ctlTakes m a ∧ (n = 4 ∨ s.ctlTakes m (a + 4)) then
      let s := s.ctlWrite m a lo
      if n = 8 then s.ctlWrite m (a + 4) hi else s
    else s.coreFault core a
  | .host =>
    let fn := ((s.partOfKp (core / 2)).map s.fnOf).getD 0
    (s.hostWrite fn a bs (!(s.coreReleases core a n))).noteCore core (if s.hostOk fn then some ⟨fn, a, a⟩ else none)
  | .none => s.coreFault core a

/-- Operand of a keeper core's access: at most 64 bytes. -/
def keeperOpOk : KeeperOp → Bool
  | .load _ n => decide (0 < n) && decide (n ≤ 64)
  | .store _ bs => decide (0 < bs.length) && decide (bs.length ≤ 64)
  | .fence => true
  | .amo _ _ n _ => decide (n = 4) || decide (n = 8) || decide (n = 16)

/-- KEEPER_ACCESS (R374): by a core of a pair that is on and out of reset. -/
def execKeeperAccess (core : Fin 16) (op : KeeperOp) (s : State) : Result :=
  okIf (keeperOpOk op) (
    let k := core.val / 2
    if ¬ s.domOn (domKp k) ∨ (s.pair k).inReset then s
    else match op with
      | .load a n => s.keeperLoad core.val a n
      | .store a bs => s.keeperStore core.val a bs
      | .fence => s.updPair k (fun x => { x with fenced := (core.val :: x.fenced).eraseDups })
      | .amo o a n v => s.keeperAtomic core.val a o n v)

end Sys2Proof.Machine
end

