-- ==== Sys2Proof/Machine/Mgmt.lean ====
section
/-!
DEFINITION. The management port (R446, R448–R452, R457–R461): I3C addresses, MCTP control messages and the Auteha
commands, with attestation, OTP programming and IDE keys.
-/
namespace Sys2Proof.Machine

/-! ## The port and its messages (R448, R449) -/

/-- The management port answers (R460, R476, R482). -/
def State.portUp (s : State) : Bool := s.pwr.aux && (s.boot.mgmtUp || s.boot.chipReset) && !s.startHeld

/-- Management firmware runs; without it the controller keeps to ROM services (R460). -/
def State.fullService (s : State) : Bool := decide (s.sec.mgmtFw = some true)

/-- BOARD_POS as sampled, or else at the straps (R351). -/
def State.posNow (s : State) : BitVec 3 := (s.board.pos).getD s.straps

/-- An Auteha response: the six bytes of the header, and what the command answers (R449). -/
def autehaResponse (cmd : Nat) (tag : BitVec 16) (status : Nat) (payload : List Byte) : List Byte :=
  [1, BitVec.ofNat 8 cmd] ++ leBytes 2 tag.toNat ++ [BitVec.ofNat 8 status, 1] ++ payload

def State.respond (s : State) (doe : Option (Fin 9)) (cmd : Nat) (tag : BitVec 16) (status : Nat) (payload : List Byte) : State :=
  s.emit (.response (doe.map (·.val)) (autehaResponse cmd tag status payload))

/-- What an Auteha command does: its STATUS, its answer and the state it leaves. -/
structure Answer where
  status  : Nat
  payload : List Byte
  state   : State

/-- The port, or a mailbox of a function that is on the bus, takes requests. -/
def State.requestUp (s : State) (doe : Option (Fin 9)) : Bool :=
  match doe with
  | none => s.portUp
  | some fn => s.pwr.aux && (s.boot.mgmtUp || s.boot.chipReset) && s.fnOn fn.val

/-- A request from a virtual function's mailbox. -/
def fromVf (doe : Option (Fin 9)) : Bool := doe.any (fun fn => decide (fn.val ≠ 0))

/-- An Auteha request from the port or a mailbox. A virtual function's mailbox takes ATTEST and GET_IDENTITY only (R449). -/
def State.auteha (s : State) (doe : Option (Fin 9)) (cmd : Nat) (tag : BitVec 16) (f : State → Answer) : State :=
  if ¬ s.requestUp doe then s
  else if fromVf doe ∧ cmd ≠ 0x08 ∧ cmd ≠ 0x09 then s.respond doe cmd tag 0x05 []
  else
    let a := f s
    a.state.respond doe cmd tag a.status a.payload

/-- Exactly `n` bytes. -/
def fitTo (n : Nat) (b : List Byte) : List Byte := (b ++ List.replicate n 0).take n

/-! ## Addresses and MCTP control (R448) -/

/-- The provisional ID: the OTP field I3C_PID with bits [2:0] replaced by BOARD_POS (R448). -/
def State.provisionalId (s : State) : Nat :=
  ((s.otpBlock).map (fun b => otpLe b 20 6)).getD 0 / 8 * 8 + s.posNow.toNat

/-- I3C assigns a dynamic address to a target that has none, which names itself by `id`. -/
def State.takeAddress (s : State) (addr : BitVec 7) (id : Nat) : State :=
  if s.portUp ∧ ¬ s.mgt.daValid then
    ({ s with mgt := { s.mgt with daValid := true, dynAddr := addr } } : State).emit (.i3cId id)
  else s

/-- SETDASA (R448), at the static address 0x30 + BOARD_POS. -/
def execSetdasa (addr : BitVec 7) (s : State) : Result := .next (s.takeAddress addr (0x30 + s.posNow.toNat))

/-- ENTDAA (R448), answered with the provisional ID. -/
def execEntdaa (addr : BitVec 7) (s : State) : Result := .next (s.takeAddress addr s.provisionalId)

/-- A response to an MCTP control message. -/
def State.mctpReply (s : State) (cmd : Nat) (payload : List Byte) : State :=
  if s.portUp then s.emit (.mctp cmd payload) else s

/-- SET_ENDPOINT_ID (R448): 0x00 and 0xFF are no endpoint IDs. -/
def execSetEndpointId (eid : Byte) (s : State) : Result :=
  .next (
    if ¬ s.portUp then s
    else if eid = 0 ∨ eid = 0xFF then s.mctpReply 1 [0x02]
    else ({ s with mgt := { s.mgt with eid := eid } } : State).mctpReply 1 [0x00, 0x00, eid, 0x00])

/-- GET_ENDPOINT_ID (R448). -/
def execGetEndpointId (s : State) : Result := .next (s.mctpReply 2 [0x00, s.mgt.eid, 0x00, 0x00])

/-- The MCTP types of R448. -/
def mctpTypes : List Byte := [0x00, 0x01, 0x7F]

/-- GET_MCTP_VERSION_SUPPORT (R448). -/
def execGetMctpVersionSupport (typ : Byte) (s : State) : Result :=
  .next (s.mctpReply 4
    (if typ = 0xFF ∨ mctpTypes.contains typ then [0x00, 0x01] ++ leBytes 4 (Config.mctpVersion typ.toNat).toNat else [0x80]))

/-- GET_MESSAGE_TYPE_SUPPORT (R448). -/
def execGetMessageTypeSupport (s : State) : Result := .next (s.mctpReply 5 ([0x00, 0x03] ++ mctpTypes))

/-- The field IANA of the OTP block in use, most significant byte first on the wire (R448, R457). -/
def State.ianaBytes (s : State) : List Byte := (leBytes 4 (((s.otpBlock).map (fun b => otpLe b 16 4)).getD 0)).reverse

/-- GET_VENDOR_DEFINED_MESSAGE_SUPPORT (R448): one set, of IANA kind. -/
def execGetVendorDefinedMessageSupport (sel : Byte) (s : State) : Result :=
  .next (s.mctpReply 6
    (if sel = 0 then [0x00, 0xFF, 0x01] ++ s.ianaBytes ++ leBytes 2 Config.vendorVersion.toNat else [0x02]))

/-! ## Information (R450) -/

/-- A number of the OTP block in use; 0 without one. -/
def State.otpNum (s : State) (off n : Nat) : Nat := ((s.otpBlock).map (fun b => otpLe b off n)).getD 0

def State.otpSpares (s : State) : Nat := (s.otp.areas.filter (fun a => !a.used)).length

/-- GET_INFO (R450): the fields in the order of its row. -/
def execGetInfo (doe : Option (Fin 9)) (tag : BitVec 16) (s : State) : Result :=
  .next (s.auteha doe 0x01 tag (fun s => {
    status := 0
    payload := leBytes 2 0x0768 ++ [Config.stepping, BitVec.ofNat 8 s.posNow.toNat] ++ leBytes 2 s.board.inc.toNat
      ++ [BitVec.ofNat 8 (s.otpNum 4 1), BitVec.ofNat 8 s.otpSpares, BitVec.ofNat 8 (s.otpNum 5 1)]
      ++ leBytes 4 (s.otpNum 8 4) ++ leBytes 4 (s.otpNum 12 4) ++ [s.flashByte 0, s.flashByte 1, s.flashByte 2]
    state := s }))

/-- The hub carries the management port's traffic (R23, R450). -/
def State.hubUp (s : State) : Bool := s.domOn domHub && !s.boot.chipReset

/-- A register as GET_HEALTH shows it: bytes 0xFF where its unit cannot be reached. -/
def State.healthReg (s : State) (b : BlkId) (off : Nat) : List Byte :=
  if s.hubUp ∧ s.blkOn b then leBytes 4 (s.regWord b off).toNat else List.replicate 4 0xFF

/-- GET_HEALTH (R450): the fields in the order of its row. -/
def execGetHealth (doe : Option (Fin 9)) (tag : BitVec 16) (s : State) : Result :=
  .next (s.auteha doe 0x02 tag (fun s =>
    let pwr := fun off => leBytes 4 (s.regWord ⟨.pwr, 0⟩ off).toNat
    let state := fun (b : BlkId) (off : Nat) =>
      if s.hubUp ∧ s.blkOn b then [BitVec.ofNat 8 (bitsOf (s.regWord b off).toNat 31 29)] else [(0xFF : Byte)]
    { status := 0
      payload := pwr 0x40 ++ pwr 0x44 ++ pwr 0x50 ++ pwr 0x20 ++ pwr 0x24 ++ pwr 0x28
        ++ (List.range 8).flatMap (fun p => s.healthReg ⟨.flt, p⟩ 0x24 ++
          (match s.leadOf p with
           | some k => s.healthReg ⟨.kpr, k⟩ 0x20
           | none => List.replicate 4 0xFF))
        ++ (List.range 12).flatMap (fun k => state ⟨.nme, k⟩ 0xC00)
        ++ (List.range 24).flatMap (fun l => state ⟨.lnk, l / 4⟩ (0x100 + 32 * (l % 4)))
      state := s }))

/-! ## Register access, fogs and image chunks (R450) -/

/-- The management port reaches the register or image-buffer word at an address; nothing for an address without one. -/
def State.portReach (s : State) (addr : Nat) : Option Bool :=
  if addr % 4 ≠ 0 then none
  else match ctlPlace addr with
    | .reg b _ => some (s.reaches .mgmt b && (ioKind b.kind || s.hubUp))
    | .imgBuf _ => some (s.imgReach .mgmt)
    | .none => none

/-- STATUS of an access to `n` words from `addr`: BAD_LEN, FAILED where an address names no word of a block, UNREACHABLE
where one of them cannot be reached. -/
def State.portStatus (s : State) (addr n : Nat) : Nat :=
  let r := (List.range n).map (fun i => s.portReach (addr + 4 * i))
  if n = 0 ∨ 256 < n then 0x02
  else if r.contains none then 0x06
  else if r.contains (some false) then 0x04
  else 0x00

/-- REG_READ (R450). -/
def execRegRead (doe : Option (Fin 9)) (tag : BitVec 16) (addr : W64) (count : Nat) (s : State) : Result :=
  .next (s.auteha doe 0x03 tag (fun s =>
    let st := s.portStatus addr.toNat count
    { status := st
      payload := if st = 0 then
          (List.range count).flatMap (fun i => leBytes 4 ((s.ctlRead .mgmt (addr.toNat + 4 * i)).getD 0).toNat)
        else []
      state := s }))

/-- REG_WRITE (R450): the words in ascending order, with the rights of the management port. -/
def execRegWrite (doe : Option (Fin 9)) (tag : BitVec 16) (addr : W64) (words : List W32) (s : State) : Result :=
  .next (s.auteha doe 0x04 tag (fun s =>
    let st := s.portStatus addr.toNat words.length
    { status := st
      payload := []
      state := if st = 0 then (words.zipIdx).foldl (fun s x => s.ctlWrite .mgmt (addr.toNat + 4 * x.2) x.1) s else s }))

/-- FOG (R397, R400, R450). -/
def execFog (doe : Option (Fin 9)) (tag : BitVec 16) (order : FogOrder) (s : State) : Result :=
  .next (s.auteha doe 0x05 tag (fun s =>
    { status := 0
      payload := []
      state := match order with
        | .fire => s.raiseFog 2
        | .thaw => s.thaw }))

/-- IMG_CHUNK (R55, R450): DENIED where the management port does not own the buffer. -/
def execImgChunk (doe : Option (Fin 9)) (tag : BitVec 16) (off : W32) (data : List Byte) (s : State) : Result :=
  .next (s.auteha doe 0x06 tag (fun s =>
    if data = [] ∨ 4096 < data.length ∨ 0x100000 < off.toNat + data.length then ⟨0x02, [], s⟩
    else ⟨if ¬ s.imgReach .mgmt then 0x04 else if s.imgOwns .mgmt then 0x00 else 0x05, [], s.imgOwned .mgmt (s.imgPut off.toNat data)⟩))

/-! ## Resets (R450) -/

/-- STATUS that the RESULT of an FLT_RST_CMD order becomes. -/
def rstStatus (r : Byte) : Nat := if r = 0x01 then 0x03 else if r = 0x02 then 0x06 else if r = 0x03 then 0x05 else 0x00

/-- RESET (R425, R450): levels 1 and 2 need the hub and the unit; the answer to levels 3 and 4 leaves first. -/
def execReset (doe : Option (Fin 9)) (tag : BitVec 16) (level : ResetLevel) (s : State) : Result :=
  .next (
    let ordered := fun (t : State) (p : Nat) => (⟨rstStatus (t.part p).rstRes, [], t⟩ : Answer)
    let last := s.auteha doe 0x07 tag (fun s => ⟨0, [], s⟩)
    match level with
    | .engine p e u =>
      s.auteha doe 0x07 tag (fun s =>
        match engOf e with
        | none => ⟨0x06, [], s⟩
        | some g =>
          if s.engPart g u ≠ some p.val ∨ 256 ≤ u then ⟨0x06, [], s⟩
          else if ¬ s.hubUp ∨ ¬ s.domOn (engDomain g u) then ⟨0x04, [], s⟩
          else ordered (stateOf (execEngineReset .mgmt p (BitVec.ofNat 4 e) (BitVec.ofNat 8 u) s) s) p.val)
    | .partition p =>
      s.auteha doe 0x07 tag (fun s =>
        if (s.cfgOf p.val).isNone then ⟨0x06, [], s⟩
        else if ¬ s.hubUp then ⟨0x04, [], s⟩
        else if s.applying ⟨.flt, p.val⟩ then ⟨0x03, [], s⟩
        else ordered (stateOf (execPartitionReset .mgmt p s) s) p.val)
    | .chip => if s.requestUp doe ∧ ¬ fromVf doe then last.chipReset true else last
    | .powerCycle => if s.requestUp doe ∧ ¬ fromVf doe then last.powerCycle else last)

/-! ## Attestation (R450, R460, R461) -/

/-- Bytes 0–351 of the report. -/
def State.report (s : State) (nonce : List Byte) : List Byte :=
  let img := s.img.applied
  [0x57, 0x4A, 0x41, 0x54, 0x01, Config.stepping] ++ leBytes 2 0x0768
    ++ [BitVec.ofNat 8 s.posNow.toNat, BitVec.ofNat 8 (s.otpNum 4 1), BitVec.ofNat 8 (s.otpNum 5 1),
        BitVec.ofNat 8 (shB (s.img.busy = some .apply) 0 + shB s.sec.keeperCopyB 1 + shB s.img.defaultFailed 2 + shB s.boot.chipReset 3)]
    ++ leBytes 2 s.board.inc.toNat ++ [0, 0] ++ leBytes 4 ((img.map (·.serial.toNat)).getD 0) ++ leBytes 4 s.img.applies.toNat
    ++ leBytes 4 (s.otpNum 8 4) ++ leBytes 4 (s.otpNum 12 4) ++ fitTo 32 nonce
    ++ (List.range 8).flatMap (fun i => fitTo 32 (if s.boot.chipReset ∧ 2 ≤ i ∧ i ≤ 4 then [] else s.sec.slots.getD i []))
    ++ fitTo 32 (((s.otpBlock).map (fun b => (b.drop 32).take 32)).getD [])

/-- ATTEST (R461): FAILED without an identity, and on a decommissioned device. -/
def execAttest (doe : Option (Fin 9)) (tag : BitVec 16) (nonce : List Byte) (s : State) : Result :=
  .next (s.auteha doe 0x08 tag (fun s =>
    if nonce.length ≠ 32 then ⟨0x02, [], s⟩
    else if ¬ s.sec.idOk ∨ s.otpNum 5 1 = 3 then ⟨0x06, [], s⟩
    else
      let r := s.report nonce
      ⟨0x00, r ++ fitTo 2420 (Config.identitySign r), s⟩))

/-- GET_IDENTITY (R450): FAILED without an identity (R460). -/
def execGetIdentity (doe : Option (Fin 9)) (tag : BitVec 16) (s : State) : Result :=
  .next (s.auteha doe 0x09 tag (fun s =>
    if ¬ s.sec.idOk then ⟨0x06, [], s⟩
    else
      let kx := fitTo 1184 (Config.kxPub s.sec.kxGen)
      ⟨0x00, fitTo 1312 Config.identityPub ++ fitTo 2421 Config.endorsement ++ kx ++ fitTo 2420 (Config.identitySign kx), s⟩))

/-! ## OTP programming (R457, R458) -/

/-- The conditions of R458 on a new block for area `i`, `cur` being the block in use. -/
def otpNextOk (i : Nat) (cur new : List Byte) : Bool :=
  let n := otpLe new
  let c := otpLe cur
  let raised := fun (off : Nat) => decide (n off 1 &&& c off 1 = c off 1)
  let slot := fun (b : List Byte) (base k : Nat) => (b.drop (base + 32 * k)).take 32
  let keyKept := fun (base revoke k : Nat) =>
    !(slot cur base k).any (fun x => decide (x ≠ 0)) || ((n revoke 1).testBit k && !(c revoke 1).testBit k)
      || decide (slot new base k = slot cur base k)
  decide (n 4 1 = i + 1) && decide (c 8 4 ≤ n 8 4) && decide (c 12 4 ≤ n 12 4) && raised 320 && raised 321
    && (List.range 4).all (fun k => keyKept 64 320 k && keyKept 192 321 k)
    && decide ((new.drop 32).take 32 = (cur.drop 32).take 32) && decide (n 16 4 = c 16 4) && decide (n 20 6 = c 20 6)
    && decide (c 5 1 ≤ n 5 1) && (List.range 2).all (fun k => !(c 6 2).testBit k || (n 6 2).testBit k)
    && decide (Config.sha3 (new.take 2016) = (new.drop 2016).take 32)

/-- OTP_WRITE_GEN (R458): `readsBack` says that the area reads back as programmed; one that does not is BAD. -/
def execOtpWriteGen (doe : Option (Fin 9)) (tag : BitVec 16) (block : List Byte) (keySlot : Byte) (pubKey : List Byte)
    (sig : List Byte) (readsBack : Bool) (s : State) : Result :=
  .next (s.auteha doe 0x0A tag (fun s =>
    if block.length ≠ 2048 ∨ pubKey.length ≠ 1312 ∨ sig.length ≠ 2420 then ⟨0x02, [], s⟩
    else
      let i := s.otp.areas.findIdx (fun a => !a.used)
      if s.otp.areas.length ≤ i then ⟨0x07, [], s⟩
      else match s.otpBlock with
        | none => ⟨0x06, [], s⟩
        | some cur =>
          if otpNextOk i cur block ∧ s.keyOk 192 321 keySlot.toNat pubKey ∧ Config.mldsaVerify pubKey block sig then
            let area : OtpArea := if readsBack then ⟨true, false, block⟩ else ⟨true, true, List.replicate 2048 0⟩
            let s := { s with otp := { s.otp with areas := s.otp.areas.set i area, writing := some i } }
            let s := if s.otpSpares = 1 then s.alert (bit 26) else s
            ⟨if readsBack then 0x00 else 0x06, [], s⟩
          else ⟨0x06, [], s⟩))

/-! ## IDE keys (R446) -/

/-- The keys of a stream's key set are complete: both directions, three sub-streams each. -/
def ideComplete (keys : List ((Byte × Byte × Byte × Byte) × List Byte)) (stream keySet : Byte) : Bool :=
  [0, 1].all (fun d => [0, 1, 2].all (fun x => keys.any (fun e => decide (e.1 = (stream, d, x, keySet)))))

/-- A key is installed: one link stream and up to 8 selective streams (R435). DESIGN CHOICE (notes/assumptions/109.md): a stream
starts, or switches to a key set, with the last of the set's six keys, and stream 0 is the link stream. -/
def Pcx.install (x : Pcx) (id : Byte × Byte × Byte × Byte) (key : List Byte) : Pcx :=
  let keys := x.ideKeys.filter (fun e => decide (e.1 ≠ id)) ++ [(id, key)]
  let full := ideComplete keys id.1 id.2.2.2
  { x with
    ideKeys := keys
    ideSets := if full then x.ideSets.filter (fun e => decide (e.1 ≠ id.1)) ++ [(id.1, id.2.2.2)] else x.ideSets
    ideSecure := x.ideSecure || (full && decide (id.1 = 0)) }

/-- Streams with a key. -/
def Pcx.ideStreams (x : Pcx) : List Byte := (x.ideKeys.map (fun e => e.1.1)).eraseDups

/-- IDE_KEY_SET (R446): over the physical function's mailbox only; a key that fails to open sets IDE_FAIL. -/
def execIdeKeySet (doe : Option (Fin 9)) (tag : BitVec 16) (stream : Byte) (dir : Byte) (sub : Byte) (keySet : Byte)
    (ct : List Byte) (sealed : List Byte) (s : State) : Result :=
  .next (s.auteha doe 0x0B tag (fun s =>
    if doe.isNone then ⟨0x05, [], s⟩
    else if ct.length ≠ 1088 ∨ sealed.length ≠ 48 then ⟨0x02, [], s⟩
    else if 1 < dir.toNat ∨ 2 < sub.toNat ∨ 1 < keySet.toNat then ⟨0x06, [], s⟩
    else if ¬ s.pcx.ideStreams.contains stream ∧ 9 ≤ s.pcx.ideStreams.length then ⟨0x06, [], s⟩
    else match Config.kxOpen s.sec.kxGen ct sealed with
      | none => ⟨0x06, [], s.flag .pcx 0 0x14 (bit 27)⟩
      | some key =>
        ⟨0x00, [], { s with pcx := s.pcx.install (stream, dir, sub, keySet) (fitTo 32 key) }⟩))

end Sys2Proof.Machine
end

