-- ==== Sys2Proof/Machine/Pldm.lean ====
section
/-!
DEFINITION. The PLDM subset (R453, R454): base commands, sensors and the effecter, and firmware update. Command
numbers and completion codes are the DMTF's (notes/assumptions/63.md).
-/
namespace Sys2Proof.Machine

/-! ## Completion codes and replies -/

def plOk : Byte := 0x00
def plError : Byte := 0x01
def plBadData : Byte := 0x02
def plUnsupported : Byte := 0x05

/-- A reply to a PLDM command of a type; without management firmware every type but 5 is unsupported (R453, R460). -/
def State.pldm (s : State) (typ cmd : Nat) (f : State → Byte × List Byte × State) : State :=
  if ¬ s.portUp then s
  else if ¬ s.fullService ∧ typ ≠ 5 then s.emit (.pldm typ cmd [plUnsupported])
  else
    let a := f s
    a.2.2.emit (.pldm typ cmd (a.1 :: a.2.1))

/-- A reply that changes nothing else. -/
def State.pldmInfo (s : State) (typ cmd : Nat) (code : Byte) (payload : List Byte) : State :=
  s.pldm typ cmd (fun s => (code, payload, s))

/-! ## Base (type 0) -/

/-- The commands that answer a requester, by type, with their numbers (R453). -/
def pldmCommands : Nat → List Nat
  | 0 => [0x02, 0x03, 0x04, 0x05]
  | 2 => [0x11, 0x21, 0x31, 0x32, 0x50, 0x51]
  | 5 => [0x01, 0x02, 0x10, 0x13, 0x14, 0x1A, 0x1B, 0x1C, 0x1D]
  | _ => []

/-- A bit map of numbers, in `n` bytes. -/
def bitMap (n : Nat) (xs : List Nat) : List Byte := leBytes n (xs.foldl (fun a x => a ||| 2 ^ x) 0)

/-- GET_TID (R453). -/
def execGetTid (s : State) : Result := .next (s.pldmInfo 0 0x02 plOk [Config.pldmTid])

/-- GET_PLDM_VERSION (R453): 0x83 for a type without support. -/
def execGetPldmVersion (typ : Byte) (s : State) : Result :=
  .next (if pldmCommands typ.toNat = [] then s.pldmInfo 0 0x03 0x83 []
    else s.pldmInfo 0 0x03 plOk (leBytes 4 (Config.pldmVersion typ.toNat).toNat))

/-- GET_PLDM_TYPES (R453): 0, 2 and 5. -/
def execGetPldmTypes (s : State) : Result := .next (s.pldmInfo 0 0x04 plOk (bitMap 8 [0, 2, 5]))

/-- GET_PLDM_COMMANDS (R453). -/
def execGetPldmCommands (typ : Byte) (s : State) : Result :=
  .next (if pldmCommands typ.toNat = [] then s.pldmInfo 0 0x05 0x83 []
    else s.pldmInfo 0 0x05 plOk (bitMap 32 (pldmCommands typ.toNat)))

/-! ## Monitoring and control (type 2) -/

/-- The reading of a numeric sensor in its unit, rounded down (R453). -/
def State.sensor (s : State) (n : Nat) : Option Nat :=
  match n with
  | 1 => some (s.pwr.powerQ.toNat / 4)
  | 2 => some (s.pwr.vinMv.toNat / 1000)
  | 3 => some (s.pwr.iin.toNat / 100)
  | 4 => some s.pwr.half0.toNat
  | 5 => some s.pwr.half1.toNat
  | 6 => some s.pwr.ioDie.toNat
  | 7 => some s.pwr.stackMax.toNat
  | _ => none

/-- GET_SENSOR_READING (R453): 0x80 for another number. -/
def execGetSensorReading (sensor : BitVec 16) (s : State) : Result :=
  .next (match s.sensor sensor.toNat with
    | some v => s.pldmInfo 2 0x11 plOk (leBytes 4 v)
    | none => s.pldmInfo 2 0x11 0x80 [])

/-- GET_STATE_SENSOR_READINGS (R453): the device defines no state sensor. -/
def execGetStateSensorReadings (_sensor : BitVec 16) (s : State) : Result := .next (s.pldmInfo 2 0x21 0x80 [])

/-- Records of the repository: one for each numeric sensor and one for the effecter. -/
def pdrCount : Nat := 8

/-- GET_PDR_REPOSITORY_INFO (R453). -/
def execGetPdrRepositoryInfo (s : State) : Result := .next (s.pldmInfo 2 0x50 plOk (leBytes 4 pdrCount))

/-- GET_PDR (R453): handle 0 names the first record; 0x82 for a handle without one. -/
def execGetPdr (handle : W32) (s : State) : Result :=
  .next (if pdrCount < handle.toNat then s.pldmInfo 2 0x51 0x82 []
    else s.pldmInfo 2 0x51 plOk (Config.pldmRecord (Nat.max 1 handle.toNat)))

/-- SET_NUMERIC_EFFECTER_VALUE (R453, R466): effecter 1 is PWR_LIMIT.BOARD_W, 600–2,400 W. -/
def execSetNumericEffecterValue (effecter : BitVec 16) (v : W32) (s : State) : Result :=
  .next (s.pldm 2 0x31 (fun s =>
    if effecter ≠ 1 then (0x80, [], s)
    else if v.toNat < 600 ∨ 2400 < v.toNat then (plBadData, [], s)
    else
      let r := s.blk ⟨.pwr, 0⟩
      let put := fun m => SMap.set (resetWord .pwr 0x48) m 0x48 v
      (plOk, [], s.setBlk ⟨.pwr, 0⟩ { r with staged := put r.staged, comm := put r.comm })))

/-- GET_NUMERIC_EFFECTER_VALUE (R453). -/
def execGetNumericEffecterValue (effecter : BitVec 16) (s : State) : Result :=
  .next (if effecter = 1 then s.pldmInfo 2 0x32 plOk (leBytes 4 (s.cfg .pwr 0 0x48 11 0)) else s.pldmInfo 2 0x32 0x80 [])

/-! ## Firmware update (type 5, R454) -/

def fwCode : FwSt → Nat
  | .idle => 0 | .learn => 1 | .ready => 2 | .download => 3

def components : List (BitVec 16) := [1, 2, 3]

/-- QUERY_DEVICE_IDENTIFIERS (R453): the IANA enterprise number. -/
def execQueryDeviceIdentifiers (s : State) : Result := .next (s.pldmInfo 5 0x01 plOk s.ianaBytes)

/-- GET_FIRMWARE_PARAMETERS (R453, R454): each component with its active copy, 0 A or 1 B. -/
def execGetFirmwareParameters (s : State) : Result :=
  .next (s.pldmInfo 5 0x02 plOk (components.flatMap (fun c =>
    leBytes 2 c.toNat ++ [if s.activeB c.toNat then (1 : Byte) else 0])))

def State.setFw (s : State) (st : FwSt) : State := { s with mgt := { s.mgt with fwSt := st } }

/-- REQUEST_UPDATE (R454): 0x81 in update mode. -/
def execRequestUpdate (s : State) : Result :=
  .next (s.pldm 5 0x10 (fun s =>
    if s.mgt.fwSt = .idle then (plOk, [], { s with mgt := { s.mgt with fwSt := .learn, fwComps := [] } }) else (0x81, [], s)))

/-- PASS_COMPONENT_TABLE (R454): 0x84 outside its state. -/
def execPassComponentTable (comps : List (BitVec 16)) (s : State) : Result :=
  .next (s.pldm 5 0x13 (fun s =>
    if s.mgt.fwSt ≠ .learn then (0x84, [], s)
    else if comps = [] ∨ !comps.all components.contains then (plBadData, [], s)
    else (plOk, [], { s with mgt := { s.mgt with fwSt := .ready, fwComps := comps } })))

/-- UPDATE_COMPONENT (R454): the component's inactive copy is to be written; the device asks for its first bytes. -/
def execUpdateComponent (comp : BitVec 16) (size : Nat) (s : State) : Result :=
  .next (
    let t := s.pldm 5 0x14 (fun s =>
      if s.mgt.fwSt ≠ .ready then (0x84, [], s)
      else if ¬ s.mgt.fwComps.contains comp ∨ size = 0 ∨ compSize comp.toNat < size then (plBadData, [], s)
      else (plOk, [], { s with mgt := { s.mgt with fwSt := .download, fwComp := comp, fwSize := size, fwGot := 0 } }))
    if t.mgt.fwSt = .download ∧ s.mgt.fwSt = .ready then t.emit (.pldm 5 0x15 (leBytes 4 0 ++ leBytes 4 size)) else t)

/-- The inactive copy of a component passes what the boot chain checks (R454, R456, R460). -/
def State.copyOk (s : State) (comp : Nat) : Bool :=
  let buf := s.flashBuf (compBase comp (!s.activeB comp)) (compSize comp)
  if comp = 3 then (s.verify buf).isNone else s.bundleOk buf

/-- The component is transferred: TransferComplete; VerifyComplete and ApplyComplete with its copy active from the next
chip reset, or a result that is not zero. FW_DONE is set (R451, R454). -/
def State.fwEnd (s : State) (whole : Bool) : State :=
  let c := s.mgt.fwComp.toNat
  let s := s.setFw .ready
  if ¬ whole then (s.emit (.pldm 5 0x16 [plError])).alert (bit 27)
  else
    let s := s.emit (.pldm 5 0x16 [plOk])
    if ¬ s.copyOk c then (s.emit (.pldm 5 0x17 [plError])).alert (bit 27)
    else
      let b : Byte := if s.activeB c then 0 else 1
      let s := { s with flash := flashPut s.flash (c - 1) [b] }
      ((s.emit (.pldm 5 0x17 [plOk])).emit (.pldm 5 0x18 [plOk])).alert (bit 27)

/-- FIRMWARE_DATA (R454): bytes that the device asked for go to the inactive copy, in ascending order; `last` ends the
transfer. -/
def execFirmwareData (off : Nat) (data : List Byte) (last : Bool) (s : State) : Result :=
  .next (
    let m := s.mgt
    let c := m.fwComp.toNat
    if ¬ s.portUp ∨ m.fwSt ≠ .download ∨ off ≠ m.fwGot ∨ m.fwSize < off + data.length then s
    else
      let got := off + data.length
      let s := { s with
        flash := flashPut s.flash (compBase c (!s.activeB c) + off) data
        mgt := { m with fwGot := got } }
      if last then s.fwEnd (got = m.fwSize)
      else s.emit (.pldm 5 0x15 (leBytes 4 got ++ leBytes 4 (m.fwSize - got))))

/-- ACTIVATE_FIRMWARE (R454): no self-contained activation (0x8C); the new copies take effect at the next chip reset. -/
def execActivateFirmware (selfContained : Bool) (s : State) : Result :=
  .next (s.pldm 5 0x1A (fun s =>
    if s.mgt.fwSt ≠ .ready then (0x84, [], s)
    else if selfContained then (0x8C, [], s)
    else (plOk, [], s.setFw .idle)))

/-- GET_STATUS (R453). -/
def execGetStatus (s : State) : Result := .next (s.pldmInfo 5 0x1B plOk [BitVec.ofNat 8 (fwCode s.mgt.fwSt)])

/-- CANCEL_UPDATE_COMPONENT (R454): the old copy stays active. -/
def execCancelUpdateComponent (s : State) : Result :=
  .next (s.pldm 5 0x1C (fun s =>
    match s.mgt.fwSt with
    | .idle => (0x80, [], s)
    | .download => (plOk, [], s.setFw .ready)
    | _ => (0x84, [], s)))

/-- CANCEL_UPDATE (R454): the old copies stay active; 0x80 outside update mode. -/
def execCancelUpdate (s : State) : Result :=
  .next (s.pldm 5 0x1D (fun s => if s.mgt.fwSt = .idle then (0x80, [], s) else (plOk, [], s.setFw .idle)))

end Sys2Proof.Machine
end

