-- ==== Sys2Proof/Machine/Begin.lean ====
section
/-!
DEFINITION. COMMAND_BEGIN (R80–R84, R86, R89, R128, R215, R242): a fetched command registers its waits, is checked, waits
for what it conflicts with and for its engine's turn, and begins.
-/
namespace Sys2Proof.Machine

/-! ## The check of the record (R80, R81) -/

/-- Opcodes that R78's engines define. -/
def opDefined (engine op : Nat) : Bool :=
  match engine with
  | 0 => [0x00, 0x01, 0x02].contains op
  | 1 => [0x01, 0x02, 0x03, 0x10].contains op
  | 2 => [0x01, 0x20, 0x21, 0x22].contains op
  | 3 => [0x01, 0x02, 0x03, 0x04].contains op
  | 4 => [0x01, 0x02].contains op
  | 5 => [0x01, 0x02, 0x03, 0x04].contains op
  | 6 => [0x01, 0x02, 0x03, 0x04, 0x05, 0x06].contains op
  | _ => false

/-- The check of a queue-local command (R81). A mark word belongs to no address range, so MARK_ADD has no sets (R333). -/
def chkLocal (s : State) (p q : Nat) (c : Cmd) : Except Bad Plan :=
  let w6 := c.word 6
  let ext := (decide (c.ext ≠ 0), badWord 0)
  match c.opcode with
  | 0x00 => checked [ext, (decide (w6 ≠ 0), badWord 6), (decide (c.word 7 ≠ 0), badWord 7)] Plan.none
  | 0x01 =>
    checked [ext, (decide (bitsOf w6 63 48 ≠ 0) || decide (w6 % 8 ≠ 0), badWord 6)]
      (planOf [⟨bitsOf w6 47 0, 8, true, inWord 6, none⟩])
  | 0x02 =>
    checked [ext, (decide (w6 / 65536 ≠ 0) || decide (s.markLast p (s.qCtx p q) < bitsOf w6 15 0), badWord 6)]
      Plan.none
  | _ => .error (badWord 0)

/-- The check of TARGET and the body by the engine's chapter. -/
def chkBody (s : State) (p q : Nat) (c : Cmd) : Except Bad Plan :=
  let dq := s.devQue p q
  match c.engine, c.opcode with
  | 0, _ => chkLocal s p q c
  | 1, 0x10 => chkChain s p c
  | 5, _ => chkCle s p dq c
  | 6, _ => .ok Plan.none
  | _, _ => chkEngine s p dq c

/-- The fault of the header, the performed waits and the release (R80). A session record's reserved fields are the
runtime's to check. DESIGN CHOICE (notes/assumptions/115.md): a RES_ADDR that is not 8-byte aligned (R377) faults here, as no
outcome word can be written there. -/
def State.headerBad (s : State) (p q : Nat) (c : Cmd) : Option Bad :=
  let session := decide (s.qKind p q = 1)
  let last := s.markLast p (s.qCtx p q)
  let mark := fun (i : Nat) =>
    let w := c.word i
    (decide (waitValue w ≠ 0) && (decide (last < waitMark w) || decide (6 ≤ waitScope w)), badWord i)
  let target : Bool := match chkBody s p q c with
    | .error b => decide (b = badWord 0)
    | .ok _ => false
  firstBad
    ([((!session && (decide (bitsOf (c.word 0) 59 56 ≠ 0) || decide (bitsOf (c.word 0) 12 12 = 1)))
        || decide (session = decide (c.engine ≠ 6)) || !(opDefined c.engine c.opcode) || target, badWord 0)]
      ++ [1, 2, 3, 4, 5].map mark
      ++ [(session && decide (bitsOf (c.word 7) 47 0 % 8 ≠ 0), badWord 7)])

/-! ## What a command waits for (R43, R82, R128, R215) -/

def Cmd.past (c : Cmd) : Bool := !(decide (c.phase = .fetched) || decide (c.phase = .begun))

/-- Every earlier command has satisfied its waits (R82 rule 1). -/
def earlierMet (cs : List Cmd) (i : Nat) : Bool := (cs.take i).all (fun c => decide (c.phase ≠ .fetched) || c.allMet)

/-- A pending snapshot changes a field of the enabled queue or of its context: no command begins (R43). -/
def State.cfgHeld (s : State) (p q : Nat) : Bool :=
  s.qEnabled p q && ((s.blk ⟨.que, p⟩).pend.contains (1 + q) || (s.blk ⟨.ctx, p⟩).pend.contains (1 + s.qCtx p q))

/-- The sets of an unbegun command from its plan: where its structure in scratchpad decides them, they are known once the
structure can be read (R82, R198). -/
def State.plainSets (s : State) (ps : List Prior) (p q : Nat) (e : Cmd) (pl : Plan) : Prior :=
  match structOf e with
  | none => some (pl.rd, pl.wr)
  | some x =>
    if e.engine = 1 then some (pl.rd, pl.wr)
    else if ps.any (priorMeets [x] []) then none
    else match s.placeRanges (cmdTlb p e) p (s.qCtx p q) pl.ranges [] with
      | (.error _, _) => some ([], [])
      | (.ok held, s) =>
        match s.structGate p held e with
        | .wait => none
        | .bad _ => some ([], [])
        | .go => match chkStruct s p held e pl with
          | .error _ => some ([], [])
          | .ok pl' => some (pl'.rd, pl'.wr)

/-- The sets of an earlier command of the queue, and the tiles as it leaves them. `sim` is how the commands before it leave
them, `ps` are their sets; a command whose check fails never accesses anything. -/
def State.priorOf (s sim : State) (ps : List Prior) (p q : Nat) (e : Cmd) : Prior × State :=
  match e.phase with
  | .begun => (some (e.rd, e.wr), sim)
  | .fetched =>
    (match chkBody sim p q e with
     | .error _ => (some ([], []), sim)
     | .ok pl =>
       if e.engine = 1 ∧ e.opcode = 0x10 then
         if ps.any (priorMeets pl.rd pl.wr) then (none, sim)
         else match s.chainCheck sim ps p q e with
           | (.wait, _) => (none, sim)
           | (.bad _, _) => (some ([], []), sim)
           | (.ok ch _ sim', _) => (some (chainSets e ch), sim')
       else (s.plainSets ps p q e pl, sim.afterStage (s.devQue p q) e))
  | _ => (some ([], []), sim)

/-- The sets of the commands before command `i` of a queue, and the tiles as those leave them (R82 rule 2). -/
def State.priors (s : State) (p q i : Nat) : List Prior × State :=
  let cs := (s.q p q).cmds
  let tiles := (((cs.take (i + 1)).filter (fun e => decide (1 ≤ e.engine) && decide (e.engine ≤ 3))).map Cmd.target).eraseDups
  (cs.take i).foldl (fun a e =>
    let r := s.priorOf a.2 a.1 p q e
    (a.1 ++ [r.1], r.2)) ([], tiles.foldl (fun x t => x.afterBegun t (s.devQue p q)) s)

/-- An earlier command of the queue that has not completed conflicts with these sets (R82 rule 2). -/
def State.held (s : State) (p q i : Nat) (rd wr : List (Nat × Nat)) : Bool := (s.priors p q i).1.any (priorMeets rd wr)

/-- The order that an engine keeps among commands of one queue: matrix commands of a tile (R128), and the commands of a
stream context, those of chains among them (R215). -/
def State.inOrder (s : State) (p q i : Nat) (c : Cmd) : Bool :=
  let earlier := ((s.q p q).cmds.take i).filter (fun e => decide (e.phase = .fetched) && decide (e.engine = c.engine)
    && decide (e.target = c.target))
  let stages := fun (f : Nat → Bool) => (s.chain c.target).any (fun ch => decide (ch.ref.q = s.devQue p q) &&
    (List.range ch.stages.length).any (fun j =>
      decide (ch.st.getD j .complete = .waiting) && f (ch.stages.getD j 0).toNat))
  match c.engine with
  | 1 => decide (earlier = []) && !(stages (fun w => decide (stKind w ≤ 3)))
  | 3 => earlier.all (fun e => decide (stSid e ≠ stSid c))
      && ((s.q p q).cmds.take i).all (fun e => !(decide (e.phase = .fetched) && decide (e.engine = 1) && decide (e.opcode = 0x10)
          && decide (e.target = c.target)
          && (chStages e).any (fun w => streamStage w.toNat && decide (stAux w.toNat = stSid c))))
      && !(stages (fun w => (decide (stKind w = 5) || decide (stKind w = 6)) && decide (stAux w = stSid c)))
  | _ => true

/-! ## An attempt to begin -/

/-- What comes of an attempt: not yet, a fault with the class and number of the unit that found it, or the state in
which the command has its pages and sets, with the chain that it starts. -/
inductive Attempt where
  | notYet
  | bad (b : Bad) (uclass unit : Nat) (s : State)
  | go (s : State) (held : List PageMap) (rd wr : List (Nat × Nat)) (ch : Option Chain)

/-- A chain: its parameter blocks are read and its stages checked (R242). -/
def State.attemptChain (s : State) (p q i : Nat) (c : Cmd) : Attempt :=
  let x := s.priors p q i
  match s.chainCheck x.2 x.1 p q c with
  | (.wait, _) => .notYet
  | (.bad b, s') => .bad b 0 c.target s'
  | (.ok ch held _, s') =>
    let sets := chainSets c ch
    if s.held p q i sets.1 sets.2 then .notYet else .go s' held sets.1 sets.2 (some ch)

/-- Any other command: its ranges are translated, the structure it names is read and checked (R127, R158, R196, R266). -/
def State.attemptPlain (s : State) (p q i : Nat) (c : Cmd) (pl : Plan) : Attempt :=
  let key := cmdTlb p c
  let lc := s.qCtx p q
  match s.placeRanges key p lc pl.ranges [] with
  | (.error b, s') => .bad b 4 p s'
  | (.ok held, s') =>
    match s'.structGate p held c with
    | .wait => .notYet
    | .bad b => .bad b 4 p s'
    | .go =>
      match chkStruct s' p held c pl with
      | .error b => .bad b 4 p s'
      | .ok pl' =>
        if s.held p q i pl'.rd pl'.wr then .notYet
        else match s'.placeRanges key p lc pl'.ranges held with
          | (.error b, s') => .bad b 4 p s'
          | (.ok held, s') => .go s' held pl'.rd pl'.wr none

/-- An attempt of command `i` of a queue, whose waits are satisfied. Its check sees its engine as the commands before it in
the engine's order leave it, so it comes after them (R128, R129, R215). -/
def State.attempt (s : State) (p q i : Nat) (c : Cmd) : Attempt :=
  let before := (s.q p q).cmds.take i
  if c.fence ∧ ¬ before.all Cmd.past ∨ ¬ s.inOrder p q i c
    ∨ ¬ (if c.engine = 5 then s.cleMay c else s.engineMay (s.devQue p q) c) then .notYet
  else match chkBody s p q c with
    | .error b => .bad b 4 p s
    | .ok pl =>
      if s.held p q i pl.rd pl.wr then .notYet
      else if c.engine = 1 ∧ c.opcode = 0x10 then s.attemptChain p q i c
      else s.attemptPlain p q i c pl

/-! ## Whose turn it is (R84) -/

/-- The engine that a command is for, as a key of the round-robin table. -/
def engineKey (p : Nat) (c : Cmd) : Nat := c.engine * 256 + (if c.engine = 6 then p else c.target)

/-- How far a queue stands from the engine's turn. -/
def State.turnDist (s : State) (key q : Nat) : Nat := (q + 2048 - s.turn key % 2048) % 2048

/-- A session record that a running runtime may fetch: every earlier record of its queue is accepted (R89, R378). -/
def State.sessionReady (s : State) (p q i : Nat) : Bool :=
  (s.rtLead p).isSome && ((s.q p q).cmds.take i).all Cmd.past

/-- Command `i` of a queue could begin now. -/
def State.couldBegin (s : State) (p q i : Nat) (c : Cmd) : Bool :=
  decide (c.phase = .fetched) && c.allMet && earlierMet (s.q p q).cmds i && !(s.cfgHeld p q) && (s.headerBad p q c).isNone &&
    (if c.engine = 6 then s.sessionReady p q i
     else match s.attempt p q i c with
       | .go _ _ _ _ _ => true
       | _ => false)

/-- Another queue's command that is ready for the same engine goes first: higher PRIO, or nearer in the round. -/
def State.outranked (s : State) (p q : Nat) (c : Cmd) : Bool :=
  let key := engineKey p c
  decide (c.engine ≠ 0) && (s.ques.filter (fun e => decide (e.1 / 2048 = p) && decide (e.1 % 2048 ≠ q))).any (fun e =>
    let q' := e.1 % 2048
    (decide (s.qPrio p q < s.qPrio p q')
      || (decide (s.qPrio p q = s.qPrio p q') && decide (s.turnDist key q' < s.turnDist key q)))
    && e.2.cmds.zipIdx.any (fun x => decide (engineKey p x.1 = key) && s.couldBegin p q' x.2 x.1))

/-! ## Beginning -/

/-- The command has begun: its sets and pages are held, BEGIN is recorded, and it takes its place at its engine. -/
def State.begin (s : State) (p q i : Nat) (c : Cmd) (held : List PageMap) (rd wr : List (Nat × Nat)) (ch : Option Chain) :
    State :=
  let r : CmdRef := ⟨s.devQue p q, c.head, none⟩
  let c := { c with phase := .begun, held := held, rd := rd, wr := wr, began := s.cycle (islandCode (s.cmdIsland p c)) }
  let s := (s.setCmd p q i c).ledgerCmd p q c 0x01 (beginPayload (s.queNum r.q) c) 0
  let s := if c.engine = 0 then s else s.setTurn (engineKey p c) (q + 1)
  match ch with
  | some ch => s.setChain c.target (s.chain c.target ++ [ch])
  | none =>
    match c.engine with
    | 0 => s
    | 5 => s.enterCle r c
    | 6 => (match s.leadOf p with
        | some k => s.updPair k (fun x => { x with taken := x.taken ++ [r] })
        | none => s)
    | _ => s.enter p held r c (s.progWords p held c)

/-- The command that a fault record names: of a chain's failing stage, the command it acts as, with the operator
OP_ID + OP_DELTA (R240, R242). -/
def atStage (c : Cmd) (b : Bad) : Cmd :=
  if c.engine = 1 ∧ c.opcode = 0x10 ∧ b.stage < 0x7F then stageCmd c (chainOfCmd ⟨0, c.head, none⟩ c) b.stage else c

/-- A command whose waits are satisfied begins, faults, or waits. -/
def State.tryBegin (s : State) (p q i : Nat) (c : Cmd) : State :=
  if c.engine = 6 then
    (if s.sessionReady p q i ∧ ¬ s.outranked p q c then s.begin p q i c [] [] [] none else s)
  else match s.attempt p q i c with
    | .notYet => s
    | .bad b uclass unit s' => (s'.raise p (s'.cmdFault p q (atStage c b) b uclass unit 0)).haltAt p q i
    | .go s' held rd wr ch => if s.outranked p q c then s else s'.begin p q i c held rd wr ch

/-- COMMAND_BEGIN (R82): command `i` of a queue's commands in flight. -/
def execCommandBegin (p : Fin 8) (q : Fin 2048) (i : Fin 32) (s : State) : Result :=
  .next (
    let x := s.q p.val q.val
    match x.cmds[i.val]? with
    | none => s
    | some c =>
      if c.phase ≠ .fetched ∨ ¬ earlierMet x.cmds i.val ∨ s.cfgHeld p.val q.val then s
      else match s.headerBad p.val q.val c with
        | some b => s.failWait p.val q.val i.val b
        | none =>
          let s := s.registerWaits p.val q.val i.val
          match (s.q p.val q.val).cmds[i.val]? with
          | none => s
          | some c => if c.phase = .fetched ∧ c.allMet then s.tryBegin p.val q.val i.val c else s)

end Sys2Proof.Machine
end

