-- ==== Sys2Proof/Machine/Dispatch.lean ====
section
/-!
DEFINITION. `exec`: the meaning of every command, one arm for each row of spec/opcode_table.json, in the table's order.
-/
namespace Sys2Proof.Machine

/-- The effect of a command on everything but the queue of waiting commands. -/
def exec (i : Instr) (s : State) : Host.Outcome State Fault Refusal :=
  match i with
  | .registerWrite m addr v => Sys2Proof.Machine.execRegisterWrite m addr v s
  | .go m b => Sys2Proof.Machine.execGo m b s
  | .discard m b => Sys2Proof.Machine.execDiscard m b s
  | .snapshotApply b part => Sys2Proof.Machine.execSnapshotApply b part s
  | .freqSwitchDone u => Sys2Proof.Machine.execFreqSwitchDone u s
  | .flitTransfer x c accept => Sys2Proof.Machine.execFlitTransfer x c accept s
  | .imgClaimWrite m owner => Sys2Proof.Machine.execImgClaimWrite m owner s
  | .imgClaimForce m => Sys2Proof.Machine.execImgClaimForce m s
  | .imgBufWrite m off v => Sys2Proof.Machine.execImgBufWrite m off v s
  | .imgFetch m => Sys2Proof.Machine.execImgFetch m s
  | .imgFetchDone data => Sys2Proof.Machine.execImgFetchDone data s
  | .imgVerify m => Sys2Proof.Machine.execImgVerify m s
  | .imgVerifyDone => Sys2Proof.Machine.execImgVerifyDone s
  | .imgApply m => Sys2Proof.Machine.execImgApply m s
  | .imgApplyDone => Sys2Proof.Machine.execImgApplyDone s
  | .imgClear m => Sys2Proof.Machine.execImgClear m s
  | .ctxCreate m p c => Sys2Proof.Machine.execCtxCreate m p c s
  | .ctxDestroy m p c => Sys2Proof.Machine.execCtxDestroy m p c s
  | .destroyFinish p c => Sys2Proof.Machine.execDestroyFinish p c s
  | .destroyTimeout p c => Sys2Proof.Machine.execDestroyTimeout p c s
  | .ctxReset m p c => Sys2Proof.Machine.execCtxReset m p c s
  | .doorbell path v => Sys2Proof.Machine.execDoorbell path v s
  | .queueFetch p q n => Sys2Proof.Machine.execQueueFetch p q n s
  | .commandBegin p q n => Sys2Proof.Machine.execCommandBegin p q n s
  | .commandRetire p q => Sys2Proof.Machine.execCommandRetire p q s
  | .markReleaseAtHome k => Sys2Proof.Machine.execMarkReleaseAtHome k s
  | .markNotify p q w => Sys2Proof.Machine.execMarkNotify p q w s
  | .markPoll p q w v => Sys2Proof.Machine.execMarkPoll p q w v s
  | .nop p q => Sys2Proof.Machine.execNop p q s
  | .writeImm p q => Sys2Proof.Machine.execWriteImm p q s
  | .markAdd p q => Sys2Proof.Machine.execMarkAdd p q s
  | .queueDrainEnd p q => Sys2Proof.Machine.execQueueDrainEnd p q s
  | .reseed m t => Sys2Proof.Machine.execReseed m t s
  | .reseedDone t => Sys2Proof.Machine.execReseedDone t s
  | .mxeLoadw t => Sys2Proof.Machine.execMxeLoadw t s
  | .loadwComplete t => Sys2Proof.Machine.execLoadwComplete t s
  | .mxePass t => Sys2Proof.Machine.execMxePass t s
  | .passSwap t => Sys2Proof.Machine.execPassSwap t s
  | .mxeIssue t => Sys2Proof.Machine.execMxeIssue t s
  | .slotRowAdd t => Sys2Proof.Machine.execSlotRowAdd t s
  | .passComplete t => Sys2Proof.Machine.execPassComplete t s
  | .arrayIdleGate t => Sys2Proof.Machine.execArrayIdleGate t s
  | .mxeDrain t => Sys2Proof.Machine.execMxeDrain t s
  | .drainRowRead t => Sys2Proof.Machine.execDrainRowRead t s
  | .drainRetry t => Sys2Proof.Machine.execDrainRetry t s
  | .drainComplete t => Sys2Proof.Machine.execDrainComplete t s
  | .mxeChain t => Sys2Proof.Machine.execMxeChain t s
  | .chainStageBegin t q stage => Sys2Proof.Machine.execChainStageBegin t q stage s
  | .mxeSave m t slots => Sys2Proof.Machine.execMxeSave m t slots s
  | .mxeRestore m t slots q => Sys2Proof.Machine.execMxeRestore m t slots q s
  | .saveRestoreDone t ok => Sys2Proof.Machine.execSaveRestoreDone t ok s
  | .vxeBookload t => Sys2Proof.Machine.execVxeBookload t s
  | .bookInstall t slot => Sys2Proof.Machine.execBookInstall t slot s
  | .vxeSurveySample t => Sys2Proof.Machine.execVxeSurveySample t s
  | .vxeSurveyBuild t => Sys2Proof.Machine.execVxeSurveyBuild t s
  | .vxeEncode t => Sys2Proof.Machine.execVxeEncode t s
  | .vxeRun t => Sys2Proof.Machine.execVxeRun t s
  | .engineFillResume t e => Sys2Proof.Machine.execEngineFillResume t e s
  | .add t => Sys2Proof.Machine.execAdd t s
  | .sub t => Sys2Proof.Machine.execSub t s
  | .mul t => Sys2Proof.Machine.execMul t s
  | .fma t => Sys2Proof.Machine.execFma t s
  | .div t => Sys2Proof.Machine.execDiv t s
  | .sqrt t => Sys2Proof.Machine.execSqrt t s
  | .min t => Sys2Proof.Machine.execMin t s
  | .max t => Sys2Proof.Machine.execMax t s
  | .abs t => Sys2Proof.Machine.execAbs t s
  | .neg t => Sys2Proof.Machine.execNeg t s
  | .copy t => Sys2Proof.Machine.execCopy t s
  | .fill t => Sys2Proof.Machine.execFill t s
  | .sel t => Sys2Proof.Machine.execSel t s
  | .rcp t => Sys2Proof.Machine.execRcp t s
  | .rsqrt t => Sys2Proof.Machine.execRsqrt t s
  | .exp2 t => Sys2Proof.Machine.execExp2 t s
  | .exp t => Sys2Proof.Machine.execExp t s
  | .log2 t => Sys2Proof.Machine.execLog2 t s
  | .ln t => Sys2Proof.Machine.execLn t s
  | .tanh t => Sys2Proof.Machine.execTanh t s
  | .sigmoid t => Sys2Proof.Machine.execSigmoid t s
  | .silu t => Sys2Proof.Machine.execSilu t s
  | .sin t => Sys2Proof.Machine.execSin t s
  | .cos t => Sys2Proof.Machine.execCos t s
  | .cmplt t => Sys2Proof.Machine.execCmplt t s
  | .cmple t => Sys2Proof.Machine.execCmple t s
  | .cmpeq t => Sys2Proof.Machine.execCmpeq t s
  | .cmpne t => Sys2Proof.Machine.execCmpne t s
  | .rsum t => Sys2Proof.Machine.execRsum t s
  | .rmax t => Sys2Proof.Machine.execRmax t s
  | .ramax t => Sys2Proof.Machine.execRamax t s
  | .steOpen t sid => Sys2Proof.Machine.execSteOpen t sid s
  | .steRelease t sid => Sys2Proof.Machine.execSteRelease t sid s
  | .stePush t sid => Sys2Proof.Machine.execStePush t sid s
  | .steClose t sid => Sys2Proof.Machine.execSteClose t sid s
  | .streamIssue t sid => Sys2Proof.Machine.execStreamIssue t sid s
  | .streamDeliver t sid seq reply => Sys2Proof.Machine.execStreamDeliver t sid seq reply s
  | .streamRetry t sid => Sys2Proof.Machine.execStreamRetry t sid s
  | .steResume m t sid => Sys2Proof.Machine.execSteResume m t sid s
  | .streamStallTimeout t sid => Sys2Proof.Machine.execStreamStallTimeout t sid s
  | .arbiterAccept st src addr len write data => Sys2Proof.Machine.execArbiterAccept st src addr len write data s
  | .arbiterAgeing st k => Sys2Proof.Machine.execArbiterAgeing st k s
  | .arbiterGrant st => Sys2Proof.Machine.execArbiterGrant st s
  | .stackAccess st ecc ns => Sys2Proof.Machine.execStackAccess st ecc ns s
  | .scrub st line ecc => Sys2Proof.Machine.execScrub st line ecc s
  | .refresh st bank => Sys2Proof.Machine.execRefresh st bank s
  | .stackRecal st temp => Sys2Proof.Machine.execStackRecal st temp s
  | .stackTrainingDone st ok => Sys2Proof.Machine.execStackTrainingDone st ok s
  | .invalidateRange m p c => Sys2Proof.Machine.execInvalidateRange m p c s
  | .invalidateContext m p c => Sys2Proof.Machine.execInvalidateContext m p c s
  | .invalidateDone p => Sys2Proof.Machine.execInvalidateDone p s
  | .pagedIn m p c => Sys2Proof.Machine.execPagedIn m p c s
  | .toHost m st => Sys2Proof.Machine.execToHost m st s
  | .fromHost m st => Sys2Proof.Machine.execFromHost m st s
  | .moveUnit st data ecc => Sys2Proof.Machine.execMoveUnit st data ecc s
  | .nmeAttend st => Sys2Proof.Machine.execNmeAttend st s
  | .nmeAttendBwd st => Sys2Proof.Machine.execNmeAttendBwd st s
  | .nmeEntryTakeUp st => Sys2Proof.Machine.execNmeEntryTakeUp st s
  | .spillCopyDone st ok => Sys2Proof.Machine.execSpillCopyDone st ok s
  | .nmeFrameWalk st ecc => Sys2Proof.Machine.execNmeFrameWalk st ecc s
  | .nmeHandlePush st => Sys2Proof.Machine.execNmeHandlePush st s
  | .sesCmdOpen m p => Sys2Proof.Machine.execSesCmdOpen m p s
  | .sesCmdClose m p => Sys2Proof.Machine.execSesCmdClose m p s
  | .closeHoldsEnd p => Sys2Proof.Machine.execCloseHoldsEnd p s
  | .sesCmdSet m p => Sys2Proof.Machine.execSesCmdSet m p s
  | .fork m p => Sys2Proof.Machine.execFork m p s
  | .attach m p => Sys2Proof.Machine.execAttach m p s
  | .publish m p => Sys2Proof.Machine.execPublish m p s
  | .sesCmdSpill m p => Sys2Proof.Machine.execSesCmdSpill m p s
  | .sesCmdFetch m p => Sys2Proof.Machine.execSesCmdFetch m p s
  | .fetchCopyDone st data => Sys2Proof.Machine.execFetchCopyDone st data s
  | .unpark m p => Sys2Proof.Machine.execUnpark m p s
  | .tick m p => Sys2Proof.Machine.execTick m p s
  | .pin m p => Sys2Proof.Machine.execPin m p s
  | .pfxFlush m p => Sys2Proof.Machine.execPfxFlush m p s
  | .kvfEntrySelWrite m st v => Sys2Proof.Machine.execKvfEntrySelWrite m st v s
  | .sesSelWrite m p v => Sys2Proof.Machine.execSesSelWrite m p v s
  | .ringPush p ring => Sys2Proof.Machine.execRingPush p ring s
  | .ringPop p ring => Sys2Proof.Machine.execRingPop p ring s
  | .barrierArrival p b => Sys2Proof.Machine.execBarrierArrival p b s
  | .barrierNotice p b t => Sys2Proof.Machine.execBarrierNotice p b t s
  | .barrierWithdraw p b t => Sys2Proof.Machine.execBarrierWithdraw p b t s
  | .hostPostedWrite fn k => Sys2Proof.Machine.execHostPostedWrite fn k s
  | .hostAtomic fn off op bytes v => Sys2Proof.Machine.execHostAtomic fn off op bytes v s
  | .atomicAtHome m addr op bytes v => Sys2Proof.Machine.execAtomicAtHome m addr op bytes v s
  | .hostAtomicEmulate k readBack casOk => Sys2Proof.Machine.execHostAtomicEmulate k readBack casOk s
  | .keeperAccess core op => Sys2Proof.Machine.execKeeperAccess core op s
  | .bar0Access fn off w => Sys2Proof.Machine.execBar0Access fn off w s
  | .bar2Access fn off len w relaxed => Sys2Proof.Machine.execBar2Access fn off len w relaxed s
  | .linkWriteArrive l f => Sys2Proof.Machine.execLinkWriteArrive l f s
  | .sprayWriteArrive l f => Sys2Proof.Machine.execSprayWriteArrive l f s
  | .lampArrive l f => Sys2Proof.Machine.execLampArrive l f s
  | .lampPerform g k => Sys2Proof.Machine.execLampPerform g k s
  | .lampExpire g k => Sys2Proof.Machine.execLampExpire g k s
  | .lampExpiryReceive l f => Sys2Proof.Machine.execLampExpiryReceive l f s
  | .lnkModeChange g => Sys2Proof.Machine.execLnkModeChange g s
  | .linkTraining l far => Sys2Proof.Machine.execLinkTraining l far s
  | .linkFrameReceive l f chk => Sys2Proof.Machine.execLinkFrameReceive l f chk s
  | .linkAck l lseq => Sys2Proof.Machine.execLinkAck l lseq s
  | .linkNak l lseq => Sys2Proof.Machine.execLinkNak l lseq s
  | .lnkRetrain m g link => Sys2Proof.Machine.execLnkRetrain m g link s
  | .lnkClear m g link => Sys2Proof.Machine.execLnkClear m g link s
  | .cleSend g => Sys2Proof.Machine.execCleSend g s
  | .cleAllreduce g => Sys2Proof.Machine.execCleAllreduce g s
  | .cleReducescatter g => Sys2Proof.Machine.execCleReducescatter g s
  | .cleAllgather g => Sys2Proof.Machine.execCleAllgather g s
  | .readyReceive l f => Sys2Proof.Machine.execReadyReceive l f s
  | .readyResend g peer => Sys2Proof.Machine.execReadyResend g peer s
  | .collReduce g => Sys2Proof.Machine.execCollReduce g s
  | .performedAck l f => Sys2Proof.Machine.execPerformedAck l f s
  | .abortReceive l f => Sys2Proof.Machine.execAbortReceive l f s
  | .inboundRejectReceive l f => Sys2Proof.Machine.execInboundRejectReceive l f s
  | .collTimeout g q head => Sys2Proof.Machine.execCollTimeout g q head s
  | .openSession p q => Sys2Proof.Machine.execOpenSession p q s
  | .prefill p q => Sys2Proof.Machine.execPrefill p q s
  | .decode p q => Sys2Proof.Machine.execDecode p q s
  | .hold p q => Sys2Proof.Machine.execHold p q s
  | .resume p q => Sys2Proof.Machine.execResume p q s
  | .close p q => Sys2Proof.Machine.execClose p q s
  | .runtimeStart p => Sys2Proof.Machine.execRuntimeStart p s
  | .runtimeStep p durationNs rolls results => Sys2Proof.Machine.execRuntimeStep p durationNs rolls results s
  | .powerCapPeriod p => Sys2Proof.Machine.execPowerCapPeriod p s
  | .kprHbWrite m p v => Sys2Proof.Machine.execKprHbWrite m p v s
  | .heartbeatMiss p => Sys2Proof.Machine.execHeartbeatMiss p s
  | .talClear m b first countM1 => Sys2Proof.Machine.execTalClear m b first countM1 s
  | .fogInEdge lowNs => Sys2Proof.Machine.execFogInEdge lowNs s
  | .fire m => Sys2Proof.Machine.execFire m s
  | .thaw m => Sys2Proof.Machine.execThaw m s
  | .fogFreeze b => Sys2Proof.Machine.execFogFreeze b s
  | .fogOutEnd => Sys2Proof.Machine.execFogOutEnd s
  | .ldgArm m b => Sys2Proof.Machine.execLdgArm m b s
  | .ldgStop m b => Sys2Proof.Machine.execLdgStop m b s
  | .ldgTrigger m b => Sys2Proof.Machine.execLdgTrigger m b s
  | .ldgBurstAck b ok => Sys2Proof.Machine.execLdgBurstAck b ok s
  | .ldgRdSelWrite m b v => Sys2Proof.Machine.execLdgRdSelWrite m b v s
  | .wchSnap m t slots => Sys2Proof.Machine.execWchSnap m t slots s
  | .wchClear m t slots => Sys2Proof.Machine.execWchClear m t slots s
  | .progressTimeout p q => Sys2Proof.Machine.execProgressTimeout p q s
  | .engineHang e unit => Sys2Proof.Machine.execEngineHang e unit s
  | .engineReset m p engine unit => Sys2Proof.Machine.execEngineReset m p engine unit s
  | .partitionReset m p => Sys2Proof.Machine.execPartitionReset m p s
  | .chipReset m p => Sys2Proof.Machine.execChipReset m p s
  | .rungTimeout p r => Sys2Proof.Machine.execRungTimeout p r s
  | .powerCycle => Sys2Proof.Machine.execPowerCycle s
  | .perstAssert => Sys2Proof.Machine.execPerstAssert s
  | .perstRelease => Sys2Proof.Machine.execPerstRelease s
  | .functionLevelReset fn => Sys2Proof.Machine.execFunctionLevelReset fn s
  | .hotReset => Sys2Proof.Machine.execHotReset s
  | .pcieLinkDown => Sys2Proof.Machine.execPcieLinkDown s
  | .hostRequestTimeout k => Sys2Proof.Machine.execHostRequestTimeout k s
  | .atsInvalidation fn addr pages => Sys2Proof.Machine.execAtsInvalidation fn addr pages s
  | .setdasa addr => Sys2Proof.Machine.execSetdasa addr s
  | .entdaa addr => Sys2Proof.Machine.execEntdaa addr s
  | .setEndpointId eid => Sys2Proof.Machine.execSetEndpointId eid s
  | .getEndpointId => Sys2Proof.Machine.execGetEndpointId s
  | .getMctpVersionSupport typ => Sys2Proof.Machine.execGetMctpVersionSupport typ s
  | .getMessageTypeSupport => Sys2Proof.Machine.execGetMessageTypeSupport s
  | .getVendorDefinedMessageSupport sel => Sys2Proof.Machine.execGetVendorDefinedMessageSupport sel s
  | .getInfo doe tag => Sys2Proof.Machine.execGetInfo doe tag s
  | .getHealth doe tag => Sys2Proof.Machine.execGetHealth doe tag s
  | .regRead doe tag addr count => Sys2Proof.Machine.execRegRead doe tag addr count s
  | .regWrite doe tag addr words => Sys2Proof.Machine.execRegWrite doe tag addr words s
  | .fog doe tag order => Sys2Proof.Machine.execFog doe tag order s
  | .imgChunk doe tag off data => Sys2Proof.Machine.execImgChunk doe tag off data s
  | .reset doe tag level => Sys2Proof.Machine.execReset doe tag level s
  | .attest doe tag nonce => Sys2Proof.Machine.execAttest doe tag nonce s
  | .getIdentity doe tag => Sys2Proof.Machine.execGetIdentity doe tag s
  | .otpWriteGen doe tag block keySlot pubKey sig readsBack => Sys2Proof.Machine.execOtpWriteGen doe tag block keySlot pubKey sig readsBack s
  | .ideKeySet doe tag stream dir sub keySet ct sealed => Sys2Proof.Machine.execIdeKeySet doe tag stream dir sub keySet ct sealed s
  | .getTid => Sys2Proof.Machine.execGetTid s
  | .getPldmVersion typ => Sys2Proof.Machine.execGetPldmVersion typ s
  | .getPldmTypes => Sys2Proof.Machine.execGetPldmTypes s
  | .getPldmCommands typ => Sys2Proof.Machine.execGetPldmCommands typ s
  | .getSensorReading sensor => Sys2Proof.Machine.execGetSensorReading sensor s
  | .getStateSensorReadings sensor => Sys2Proof.Machine.execGetStateSensorReadings sensor s
  | .getPdrRepositoryInfo => Sys2Proof.Machine.execGetPdrRepositoryInfo s
  | .getPdr handle => Sys2Proof.Machine.execGetPdr handle s
  | .setNumericEffecterValue effecter v => Sys2Proof.Machine.execSetNumericEffecterValue effecter v s
  | .getNumericEffecterValue effecter => Sys2Proof.Machine.execGetNumericEffecterValue effecter s
  | .queryDeviceIdentifiers => Sys2Proof.Machine.execQueryDeviceIdentifiers s
  | .getFirmwareParameters => Sys2Proof.Machine.execGetFirmwareParameters s
  | .requestUpdate => Sys2Proof.Machine.execRequestUpdate s
  | .passComponentTable comps => Sys2Proof.Machine.execPassComponentTable comps s
  | .updateComponent comp size => Sys2Proof.Machine.execUpdateComponent comp size s
  | .firmwareData off data last => Sys2Proof.Machine.execFirmwareData off data last s
  | .activateFirmware selfContained => Sys2Proof.Machine.execActivateFirmware selfContained s
  | .getStatus => Sys2Proof.Machine.execGetStatus s
  | .cancelUpdateComponent => Sys2Proof.Machine.execCancelUpdateComponent s
  | .cancelUpdate => Sys2Proof.Machine.execCancelUpdate s
  | .auxPowerUp => Sys2Proof.Machine.execAuxPowerUp s
  | .input48vGood => Sys2Proof.Machine.execInput48vGood s
  | .auxPowerLoss => Sys2Proof.Machine.execAuxPowerLoss s
  | .inputLockout past => Sys2Proof.Machine.execInputLockout past s
  | .powerSample vinMv iin powerQ => Sys2Proof.Machine.execPowerSample vinMv iin powerQ s
  | .currentClamp iin => Sys2Proof.Machine.execCurrentClamp iin s
  | .currentClampRelease iin => Sys2Proof.Machine.execCurrentClampRelease iin s
  | .thermalSample half0 half1 ioDie stks => Sys2Proof.Machine.execThermalSample half0 half1 ioDie stks s
  | .domainOn m d => Sys2Proof.Machine.execDomainOn m d s
  | .domainOff m d => Sys2Proof.Machine.execDomainOff m d s
  | .domainSwitchDone => Sys2Proof.Machine.execDomainSwitchDone s
  | .extest => Sys2Proof.Machine.execExtest s
  | .samplePreload => Sys2Proof.Machine.execSamplePreload s
  | .highz => Sys2Proof.Machine.execHighz s
  | .clamp => Sys2Proof.Machine.execClamp s
  | .bypass code => Sys2Proof.Machine.execBypass code s
  | .testLogicReset => Sys2Proof.Machine.execTestLogicReset s
  | .receiverLosesLock l => Sys2Proof.Machine.execReceiverLosesLock l s
  | .pcieLinkUp gen width flit => Sys2Proof.Machine.execPcieLinkUp gen width flit s
  | .configurationWrite fn numVfs bme ats atomicEn msix => Sys2Proof.Machine.execConfigurationWrite fn numVfs bme ats atomicEn msix s
  | .ideIntegrityFailure => Sys2Proof.Machine.execIdeIntegrityFailure s
  | .mgmtFirmwareVerified => Sys2Proof.Machine.execMgmtFirmwareVerified s
  | .keeperFirmwareVerified => Sys2Proof.Machine.execKeeperFirmwareVerified s

end Sys2Proof.Machine
end

