-- ==== Sys2Proof/Machine/Tick.lean ====
section
/-!
DEFINITION. The tick (R26, R27, R33, R227, R394): what time does while no command waits. One tick is one cycle of every
powered island; the islands share no phase, so this is one of the interleavings the spec allows
(notes/assumptions/1.md).
-/
namespace Sys2Proof.Machine

/-- The islands of R26. -/
def islands : List Island :=
  (List.range 48).map .tile ++ (List.range 12).map .base ++ (List.range 8).map .keeper ++ (List.range 6).map .link ++
    [.mgmt, .pcie]

def State.islandOn (s : State) : Island → Bool
  | .tile t => s.domOn (domTile t)
  | .base k => s.domOn (domStack k)
  | .keeper p => s.domOn (domKp p)
  | .link g => s.domOn (domLg g)
  | .mgmt => s.pwr.aux
  | .pcie => s.domOn domPcie

/-- Events whose number in a cycle the spec does not state: where a tally of the unit selects them, a free value below `n`
is counted (R395; notes/assumptions/75.md). -/
def State.countOpen (s : State) (b : BlkId) (ev n : Nat) (w : Who) : State :=
  if (s.blk b).comm = [] ∨ tallyHits b.kind (s.blk b) ev (s.shown w) = [] then s
  else
    let d := s.drawNat
    d.2.count b ev (d.1 % n) w

/-- The tally of an island's cycles counts one (R394); those of a keeper pair's instructions and L2 misses a free value while
its cores run. -/
def State.countCycle (s : State) : Island → State
  | .tile t => s.countTile t 0x0100 1 nobody
  | .base k => s.countStack k 0x0200 1 nobody
  | .keeper p =>
    let s := s.count ⟨.talKp, p⟩ 0x0400 1 nobody
    if (s.pair p).inReset then s else (s.countOpen ⟨.talKp, p⟩ 0x0401 (2 ^ 16) nobody).countOpen ⟨.talKp, p⟩ 0x0402 (2 ^ 16) nobody
  | .link g => s.countLg g 0x0300 1 nobody
  | .mgmt => s.countIo 0x0600 1
  | .pcie => s

/-- A watchdog stands while its engine waits for what R423 lists. -/
def State.timerHeld (s : State) (t : TimerId) : Bool :=
  match t with
  | .engine e u => s.engineWaits e u
  | _ => false

/-- A running duration after a cycle of its island (R33). -/
def State.timerTick (s : State) (t : Timer) : Timer :=
  if s.islandOn t.island ∧ 0 < t.left ∧ ¬ s.timerHeld t.id then { t with left := t.left - (s.period t.island : Nat) } else t

/-- A base cycle of an arbiter: the slack of its pending requests falls, their waiting times rise, and one that has waited
longer than BE_WAIT ages (R227). -/
def arbTick (wait : Nat) (a : Arb) : Arb :=
  let n := periodOf 1500
  { a with pending := a.pending.map (fun q =>
      ArbReq.aging wait { q with slack := q.slack.map (fun x => x - (n : Nat)), waited := q.waited + n }) }

/-! ## Tallies of waiting engines (R395; notes/assumptions/75.md) -/

/-- Who the command at a position is, for a tally. -/
def State.whoAt (s : State) (r : CmdRef) : Who :=
  match s.cmdAt r with
  | some c => s.whoRef r c
  | none => nobody

/-- A pass has begun, no row has issued since the last cycle, and the array is not in its ramp. -/
def Mxe.stalls (m : Mxe) : Bool :=
  m.passes.any (·.started) && decide (m.idleFor ≠ 0) && !(m.ramped && m.ramp.on && (decide (m.idleFor < 256) || m.ramp.unissued))

/-- What a tile's engines waited for in one cycle: MXE_STALL, FILL_WAIT, LDG_STALL, and VXE_BANK while a VXE_RUN runs. -/
def State.waitTallies (s : State) (t : Nat) : State :=
  let s : State := match (s.mxe t).passes.find? (·.started) with
    | some x => if (s.mxe t).stalls then s.countTile t 0x0104 1 (s.whoAt x.ref) else s
    | none => s
  let s := (s.fillWaiters t).foldl (fun s r => s.countTile t 0x0112 1 (s.whoAt r)) s
  let s : State := match (s.vxe t).op with
    | some o => if o.started then s.countOpen ⟨.talTile, t⟩ 0x010E 2 (s.whoAt o.ref) else s
    | none => s
  if (s.ldg (blkKey ⟨.ldgTile, t⟩)).held = [] then s else s.countTile t 0x0116 1 nobody

/-- A tile cycle without an issue (R122). -/
def mxeTick (m : Mxe) : Mxe := { m with idleFor := min 256 (m.idleFor + 1) }

/-- What is due in one island in a cycle: its counter, its tally, and its unit's own clocked state. -/
def State.islandTick (s : State) (i : Island) : State :=
  let k := islandCode i
  let s := (s.setCycle k (s.cycle k + 1)).countCycle i
  match i with
  | .tile t =>
    let s := (s.waitTallies t).ledgerRetry ⟨.ldgTile, t⟩
    s.setMxe t (mxeTick (s.mxe t))
  | .base b =>
    let s := if (s.ldg (blkKey ⟨.ldgStack, b⟩)).held = [] then s else s.countStack b 0x0213 1 nobody
    let s := s.ledgerRetry ⟨.ldgStack, b⟩
    let x := s.stack b
    s.setStack b { x with arb := arbTick (s.beWait b) x.arb }
  | _ => s

/-- The link power state that the host and the controller choose while the link is up (R435; notes/assumptions/83.md): L0, L0p
and L1 at any time, the L1 substates, which remove REFCLK100, while CLKREQ# is released only (R479). -/
def State.linkPower (s : State) : State :=
  if s.pcx.up then
    let d := s.draw 8
    { d.2 with pcx := { d.2.pcx with pm := BitVec.ofNat 3 (d.1.toNat % (if s.clkreqLow then 3 else 5)) } }
  else s

/-- One cycle of every powered island. What was being programmed into OTP stands by then (R458; notes/assumptions/66.md). -/
def State.tick (s : State) : State :=
  ((islands.filter s.islandOn).foldl (fun (s : State) i => s.islandTick i)
    { s with timers := s.timers.map s.timerTick, otp := { s.otp with writing := none } }).linkPower

end Sys2Proof.Machine
end

