-- ==== Sys2Proof/WellFormed.lean ====
section
/-!
DEFINITION. Which operands make a term a command of the table: aligned registers (R37), blocks and channels that the
device has (R17–R20, R37), widths and alignments of atomics (R339), requests that a BAR takes (R440–R443), link rates
and widths (R435), and the instruction codes of R482. The other rows take every operand.
-/
namespace Sys2Proof

open Sys2Proof.Machine in
/-- The operands of a command are of its row. -/
def Instr.wf (i : Instr) : Bool :=
  match i with
  | .registerWrite _ addr _ => decide (addr % 4 = 0)
  | .go _ b => decide (b.unit < unitCount b.kind)
  | .discard _ b => decide (b.unit < unitCount b.kind)
  | .snapshotApply b _ => decide (b.unit < unitCount b.kind)
  | .freqSwitchDone _ => true
  | .flitTransfer _ c _ => joined c.1 c.2
  | .imgClaimWrite _ _ => true
  | .imgClaimForce _ => true
  | .imgBufWrite _ off _ => decide (off % 4 = 0) && decide (off < 0x100000)
  | .imgFetch _ => true
  | .imgFetchDone _ => true
  | .imgVerify _ => true
  | .imgVerifyDone => true
  | .imgApply _ => true
  | .imgApplyDone => true
  | .imgClear _ => true
  | .ctxCreate _ _ _ => true
  | .ctxDestroy _ _ _ => true
  | .destroyFinish _ _ => true
  | .destroyTimeout _ _ => true
  | .ctxReset _ _ _ => true
  | .doorbell _ _ => true
  | .queueFetch _ _ _ => true
  | .commandBegin _ _ _ => true
  | .commandRetire _ _ => true
  | .markReleaseAtHome _ => true
  | .markNotify _ _ _ => true
  | .markPoll _ _ _ _ => true
  | .nop _ _ => true
  | .writeImm _ _ => true
  | .markAdd _ _ => true
  | .queueDrainEnd _ _ => true
  | .reseed _ _ => true
  | .reseedDone _ => true
  | .mxeLoadw _ => true
  | .loadwComplete _ => true
  | .mxePass _ => true
  | .passSwap _ => true
  | .mxeIssue _ => true
  | .slotRowAdd _ => true
  | .passComplete _ => true
  | .arrayIdleGate _ => true
  | .mxeDrain _ => true
  | .drainRowRead _ => true
  | .drainRetry _ => true
  | .drainComplete _ => true
  | .mxeChain _ => true
  | .chainStageBegin _ _ _ => true
  | .mxeSave _ _ _ => true
  | .mxeRestore _ _ _ _ => true
  | .saveRestoreDone _ _ => true
  | .vxeBookload _ => true
  | .bookInstall _ _ => true
  | .vxeSurveySample _ => true
  | .vxeSurveyBuild _ => true
  | .vxeEncode _ => true
  | .vxeRun _ => true
  | .engineFillResume _ _ => true
  | .add _ => true
  | .sub _ => true
  | .mul _ => true
  | .fma _ => true
  | .div _ => true
  | .sqrt _ => true
  | .min _ => true
  | .max _ => true
  | .abs _ => true
  | .neg _ => true
  | .copy _ => true
  | .fill _ => true
  | .sel _ => true
  | .rcp _ => true
  | .rsqrt _ => true
  | .exp2 _ => true
  | .exp _ => true
  | .log2 _ => true
  | .ln _ => true
  | .tanh _ => true
  | .sigmoid _ => true
  | .silu _ => true
  | .sin _ => true
  | .cos _ => true
  | .cmplt _ => true
  | .cmple _ => true
  | .cmpeq _ => true
  | .cmpne _ => true
  | .rsum _ => true
  | .rmax _ => true
  | .ramax _ => true
  | .steOpen _ _ => true
  | .steRelease _ _ => true
  | .stePush _ _ => true
  | .steClose _ _ => true
  | .streamIssue _ _ => true
  | .streamDeliver _ _ _ _ => true
  | .streamRetry _ _ => true
  | .steResume _ _ _ => true
  | .streamStallTimeout _ _ => true
  | .arbiterAccept _ _ _ _ _ _ => true
  | .arbiterAgeing _ _ => true
  | .arbiterGrant _ => true
  | .stackAccess _ _ _ => true
  | .scrub _ _ _ => true
  | .refresh _ _ => true
  | .stackRecal _ _ => true
  | .stackTrainingDone _ _ => true
  | .invalidateRange _ _ _ => true
  | .invalidateContext _ _ _ => true
  | .invalidateDone _ => true
  | .pagedIn _ _ _ => true
  | .toHost _ _ => true
  | .fromHost _ _ => true
  | .moveUnit _ _ _ => true
  | .nmeAttend _ => true
  | .nmeAttendBwd _ => true
  | .nmeEntryTakeUp _ => true
  | .spillCopyDone _ _ => true
  | .nmeFrameWalk _ _ => true
  | .nmeHandlePush _ => true
  | .sesCmdOpen _ _ => true
  | .sesCmdClose _ _ => true
  | .closeHoldsEnd _ => true
  | .sesCmdSet _ _ => true
  | .fork _ _ => true
  | .attach _ _ => true
  | .publish _ _ => true
  | .sesCmdSpill _ _ => true
  | .sesCmdFetch _ _ => true
  | .fetchCopyDone _ _ => true
  | .unpark _ _ => true
  | .tick _ _ => true
  | .pin _ _ => true
  | .pfxFlush _ _ => true
  | .kvfEntrySelWrite _ _ _ => true
  | .sesSelWrite _ _ _ => true
  | .ringPush _ _ => true
  | .ringPop _ _ => true
  | .barrierArrival _ _ => true
  | .barrierNotice _ _ _ => true
  | .barrierWithdraw _ _ _ => true
  | .hostPostedWrite _ _ => true
  | .hostAtomic _ off op bytes _ => atomOk op bytes off && bar2Ok off bytes
  | .atomicAtHome _ addr op bytes _ => atomOk op bytes addr
  | .hostAtomicEmulate _ _ _ => true
  | .keeperAccess _ op => keeperOpOk op
  | .bar0Access fn off _ => decide (off % 4 = 0) && decide (off < if fn.val = 0 then 0x400_0000 else 0x100_0000)
  | .bar2Access _ off len w _ => bar2Ok off len && bar2DataOk len w
  | .linkWriteArrive _ _ => true
  | .sprayWriteArrive _ _ => true
  | .lampArrive _ _ => true
  | .lampPerform _ _ => true
  | .lampExpire _ _ => true
  | .lampExpiryReceive _ _ => true
  | .lnkModeChange _ => true
  | .linkTraining _ _ => true
  | .linkFrameReceive _ _ _ => true
  | .linkAck _ _ => true
  | .linkNak _ _ => true
  | .lnkRetrain _ _ _ => true
  | .lnkClear _ _ _ => true
  | .cleSend _ => true
  | .cleAllreduce _ => true
  | .cleReducescatter _ => true
  | .cleAllgather _ => true
  | .readyReceive _ _ => true
  | .readyResend _ _ => true
  | .collReduce _ => true
  | .performedAck _ _ => true
  | .abortReceive _ _ => true
  | .inboundRejectReceive _ _ => true
  | .collTimeout _ _ _ => true
  | .openSession _ _ => true
  | .prefill _ _ => true
  | .decode _ _ => true
  | .hold _ _ => true
  | .resume _ _ => true
  | .close _ _ => true
  | .runtimeStart _ => true
  | .runtimeStep _ _ _ _ => true
  | .powerCapPeriod _ => true
  | .kprHbWrite _ _ _ => true
  | .heartbeatMiss _ => true
  | .talClear _ b _ _ => isTal b.kind && decide (b.unit < unitCount b.kind)
  | .fogInEdge _ => true
  | .fire _ => true
  | .thaw _ => true
  | .fogFreeze _ => true
  | .fogOutEnd => true
  | .ldgArm _ b => isLdg b
  | .ldgStop _ b => isLdg b
  | .ldgTrigger _ b => isLdg b
  | .ldgBurstAck b _ => isLdg b
  | .ldgRdSelWrite _ b _ => isLdg b
  | .wchSnap _ _ _ => true
  | .wchClear _ _ _ => true
  | .progressTimeout _ _ => true
  | .engineHang _ _ => true
  | .engineReset _ _ _ _ => true
  | .partitionReset _ _ => true
  | .chipReset _ _ => true
  | .rungTimeout _ _ => true
  | .powerCycle => true
  | .perstAssert => true
  | .perstRelease => true
  | .functionLevelReset _ => true
  | .hotReset => true
  | .pcieLinkDown => true
  | .hostRequestTimeout _ => true
  | .atsInvalidation _ _ _ => true
  | .setdasa _ => true
  | .entdaa _ => true
  | .setEndpointId _ => true
  | .getEndpointId => true
  | .getMctpVersionSupport _ => true
  | .getMessageTypeSupport => true
  | .getVendorDefinedMessageSupport _ => true
  | .getInfo _ _ => true
  | .getHealth _ _ => true
  | .regRead _ _ _ _ => true
  | .regWrite _ _ _ _ => true
  | .fog _ _ _ => true
  | .imgChunk _ _ _ _ => true
  | .reset _ _ _ => true
  | .attest _ _ _ => true
  | .getIdentity _ _ => true
  | .otpWriteGen _ _ _ _ _ _ _ => true
  | .ideKeySet _ _ _ _ _ _ _ _ => true
  | .getTid => true
  | .getPldmVersion _ => true
  | .getPldmTypes => true
  | .getPldmCommands _ => true
  | .getSensorReading _ => true
  | .getStateSensorReadings _ => true
  | .getPdrRepositoryInfo => true
  | .getPdr _ => true
  | .setNumericEffecterValue _ _ => true
  | .getNumericEffecterValue _ => true
  | .queryDeviceIdentifiers => true
  | .getFirmwareParameters => true
  | .requestUpdate => true
  | .passComponentTable _ => true
  | .updateComponent _ _ => true
  | .firmwareData _ _ _ => true
  | .activateFirmware _ => true
  | .getStatus => true
  | .cancelUpdateComponent => true
  | .cancelUpdate => true
  | .auxPowerUp => true
  | .input48vGood => true
  | .auxPowerLoss => true
  | .inputLockout _ => true
  | .powerSample _ _ _ => true
  | .currentClamp _ => true
  | .currentClampRelease _ => true
  | .thermalSample _ _ _ stks => decide (stks.length = 12)
  | .domainOn _ _ => true
  | .domainOff _ _ => true
  | .domainSwitchDone => true
  | .extest => true
  | .samplePreload => true
  | .highz => true
  | .clamp => true
  | .bypass code => decide (4 ≤ code.toNat)
  | .testLogicReset => true
  | .receiverLosesLock _ => true
  | .pcieLinkUp gen width flit => linkOk gen width flit
  | .configurationWrite fn numVfs _ _ _ _ => decide (fn.val = 0) || numVfs.isNone
  | .ideIntegrityFailure => true
  | .mgmtFirmwareVerified => true
  | .keeperFirmwareVerified => true

end Sys2Proof
end

