-- ==== Sys2Proof/Safety.lean ====
section
/-!
DEFINITION. What claims call a safe run: the queue holds commands of the table only, a step answers a next state, and
the addressed memories stay in canonical form.
-/
namespace Sys2Proof.Machine

/-- A memory in canonical form: addresses rise strictly and no entry is what an unlisted address reads as. -/
def Memory.wf (fill : Byte) (m : List Host.Cell) : Bool := SMap.wf fill m

/-- Device memory, flash and the image buffer are in canonical form. -/
def State.memWf (s : State) : Bool := Memory.wf 0 s.mem && Memory.wf 0xFF s.flash && Memory.wf 0 s.img.buf

/-- Every waiting command is well formed. -/
def State.queueWf (s : State) : Bool := s.pending.all Instr.wf

/-- A step that stops at no fault and no refusal. -/
def State.runs (s : State) : Prop := ∃ t, step s = .next t

/-- The command completes from `s`, in a state of which `P` holds. -/
def Does (i : Instr) (s : State) (P : State → Prop) : Prop := ∃ t, exec i s = .next t ∧ P t

/-- The fields of State, by name. -/
inductive Fld where
  | mem | poison | flash | blocks | img | ctxs | ques | rels | tiles | mxes | vxes | stes | chains
  | stks | tlbs | nmes | kvfs | parts | sess | rings | bars | links | lgs | board | cles | pairs
  | tals | ldgs | wchs | chans | cycles | fog | pcx | funcs | mgt | otp | sec | pwr | boot | jtag
  | straps | timers | rr | out | free | pending
  deriving DecidableEq, Repr

/-- A state with the fields `W` as at reset, whatever they hold: `t.except W = s.except W` says that `s` and `t` differ
at most in `W`. -/
def State.except (W : List Fld) (s : State) : State where
  mem := if .mem ∈ W then State.reset.mem else s.mem
  poison := if .poison ∈ W then State.reset.poison else s.poison
  flash := if .flash ∈ W then State.reset.flash else s.flash
  blocks := if .blocks ∈ W then State.reset.blocks else s.blocks
  img := if .img ∈ W then State.reset.img else s.img
  ctxs := if .ctxs ∈ W then State.reset.ctxs else s.ctxs
  ques := if .ques ∈ W then State.reset.ques else s.ques
  rels := if .rels ∈ W then State.reset.rels else s.rels
  tiles := if .tiles ∈ W then State.reset.tiles else s.tiles
  mxes := if .mxes ∈ W then State.reset.mxes else s.mxes
  vxes := if .vxes ∈ W then State.reset.vxes else s.vxes
  stes := if .stes ∈ W then State.reset.stes else s.stes
  chains := if .chains ∈ W then State.reset.chains else s.chains
  stks := if .stks ∈ W then State.reset.stks else s.stks
  tlbs := if .tlbs ∈ W then State.reset.tlbs else s.tlbs
  nmes := if .nmes ∈ W then State.reset.nmes else s.nmes
  kvfs := if .kvfs ∈ W then State.reset.kvfs else s.kvfs
  parts := if .parts ∈ W then State.reset.parts else s.parts
  sess := if .sess ∈ W then State.reset.sess else s.sess
  rings := if .rings ∈ W then State.reset.rings else s.rings
  bars := if .bars ∈ W then State.reset.bars else s.bars
  links := if .links ∈ W then State.reset.links else s.links
  lgs := if .lgs ∈ W then State.reset.lgs else s.lgs
  board := if .board ∈ W then State.reset.board else s.board
  cles := if .cles ∈ W then State.reset.cles else s.cles
  pairs := if .pairs ∈ W then State.reset.pairs else s.pairs
  tals := if .tals ∈ W then State.reset.tals else s.tals
  ldgs := if .ldgs ∈ W then State.reset.ldgs else s.ldgs
  wchs := if .wchs ∈ W then State.reset.wchs else s.wchs
  chans := if .chans ∈ W then State.reset.chans else s.chans
  cycles := if .cycles ∈ W then State.reset.cycles else s.cycles
  fog := if .fog ∈ W then State.reset.fog else s.fog
  pcx := if .pcx ∈ W then State.reset.pcx else s.pcx
  funcs := if .funcs ∈ W then State.reset.funcs else s.funcs
  mgt := if .mgt ∈ W then State.reset.mgt else s.mgt
  otp := if .otp ∈ W then State.reset.otp else s.otp
  sec := if .sec ∈ W then State.reset.sec else s.sec
  pwr := if .pwr ∈ W then State.reset.pwr else s.pwr
  boot := if .boot ∈ W then State.reset.boot else s.boot
  jtag := if .jtag ∈ W then State.reset.jtag else s.jtag
  straps := if .straps ∈ W then State.reset.straps else s.straps
  timers := if .timers ∈ W then State.reset.timers else s.timers
  rr := if .rr ∈ W then State.reset.rr else s.rr
  out := if .out ∈ W then State.reset.out else s.out
  free := if .free ∈ W then State.reset.free else s.free
  pending := if .pending ∈ W then State.reset.pending else s.pending

/-- The command of a reference has completed between two states: it waits for retirement and holds no page, and its
queue's other commands are as they were (R83). -/
def Completed (s u : State) (r : CmdRef) : Prop :=
  (u.que r.q).cmds = (s.que r.q).cmds.map (fun d =>
    if d.head = r.head then { d with phase := .complete, held := [] } else d)

/-- The vector operations, each with the OP of its instruction (R203). -/
def vectorOps : List ((Fin 48 → Instr) × Nat) :=
  [(.add, 0x01), (.sub, 0x02), (.mul, 0x03), (.fma, 0x04), (.div, 0x05), (.sqrt, 0x06), (.min, 0x07), (.max, 0x08),
   (.abs, 0x09), (.neg, 0x0A), (.copy, 0x0B), (.fill, 0x0C), (.sel, 0x0D)] ++
  [(.rcp, 0x10), (.rsqrt, 0x11), (.exp2, 0x12), (.exp, 0x13), (.log2, 0x14), (.ln, 0x15), (.tanh, 0x16),
   (.sigmoid, 0x17), (.silu, 0x18), (.sin, 0x19), (.cos, 0x1A)] ++
  [(.cmplt, 0x20), (.cmple, 0x21), (.cmpeq, 0x22), (.cmpne, 0x23), (.rsum, 0x30), (.rmax, 0x31), (.ramax, 0x32)]

/-! ## What a command may change -/

/-- Every field of State, but those named. -/
def allBut (X : List Fld) : List Fld :=
  let all : List Fld :=
   [.mem, .poison, .flash, .blocks, .img, .ctxs, .ques, .rels, .tiles, .mxes, .vxes, .stes] ++
   [.chains, .stks, .tlbs, .nmes, .kvfs, .parts, .sess, .rings, .bars, .links, .lgs, .board] ++
   [.cles, .pairs, .tals, .ldgs, .wchs, .chans, .cycles, .fog, .pcx, .funcs, .mgt, .otp] ++
   [.sec, .pwr, .boot, .jtag, .straps, .timers, .rr, .out, .free, .pending]
  all.filter (fun f => decide (f ∉ X))

/-- What a fault brings about (R417, R420): the fault log in memory, whose write clears poison and aborts, registers, the
context, the partition's counts, tallies, ledgers, the fog a record may trigger, functions, timers and messages. -/
def faultFlds : List Fld := [.mem, .poison, .blocks, .ctxs, .tiles, .parts, .tals, .ldgs, .fog, .funcs, .timers, .out]

/-- What the completion of a command brings about (R83). -/
def doneFlds : List Fld := [.blocks, .ques, .chains, .tals, .ldgs, .fog, .timers, .out]

/-- The fields of State that a command may change: no others differ after it. -/
def Instr.writes (i : Instr) : List Fld :=
  match i with
  | .registerWrite _ _ _ | .keeperAccess _ _ | .bar0Access _ _ _ | .bar2Access _ _ _ _ _ | .regWrite _ _ _ _ =>
    allBut [.flash, .jtag, .straps, .pending]
  | .imgFetch _ | .imgVerify _ | .imgClear _ => faultFlds ++ [.img, .ques, .chains, .nmes, .kvfs, .rings, .links,
    .lgs, .pairs, .wchs, .free]
  | .discard _ _ => [.mem, .poison, .blocks, .tiles, .tals, .funcs]
  | .go _ _ | .snapshotApply _ _ | .lnkModeChange _ | .powerCapPeriod _ => faultFlds ++ [.ques, .chains, .nmes, .kvfs,
    .rings, .links, .lgs, .pairs, .wchs, .free]
  | .freqSwitchDone _ => [.blocks, .tiles, .pairs, .tals, .ldgs, .fog, .timers, .out]
  | .flitTransfer _ _ _ => [.blocks, .tals, .chans]
  | .imgClaimWrite _ _ | .imgClaimForce _ | .imgBufWrite _ _ _ => [.img]
  | .imgFetchDone _ => [.blocks, .img]
  | .imgVerifyDone => allBut [.flash, .chans, .fog, .mgt, .otp, .jtag, .straps, .rr, .free, .pending]
  | .imgApply _ => allBut [.flash, .chans, .mgt, .otp, .sec, .boot, .jtag, .straps, .rr, .pending]
  | .imgApplyDone => allBut [.flash, .ctxs, .ques, .rels, .rings, .bars, .board, .chans, .fog, .mgt, .otp, .jtag,
    .straps, .rr, .free, .pending]
  | .ctxCreate _ _ _ => [.blocks, .ctxs, .tlbs, .parts]
  | .ctxDestroy _ _ _ => [.blocks, .ctxs, .ques, .vxes, .chains, .nmes, .kvfs, .parts, .rings, .bars, .links, .lgs, .cles,
    .tals, .pcx, .timers, .out]
  | .destroyFinish _ _ | .destroyTimeout _ _ | .ctxReset _ _ _ => allBut [.mem, .poison, .flash, .img, .sess,
    .board, .ldgs, .chans, .cycles, .funcs, .mgt, .otp, .sec, .pwr, .boot, .jtag, .straps, .rr, .free, .pending]
  | .doorbell _ _ => faultFlds ++ [.ques]
  | .queueFetch _ _ _ | .markNotify _ _ _ | .markPoll _ _ _ _ => faultFlds ++ [.ques, .tlbs, .free]
  | .commandBegin _ _ _ => faultFlds ++ [.ques, .mxes, .vxes, .stes, .chains, .tlbs, .nmes, .cles, .pairs, .rr,
    .free]
  | .commandRetire _ _ => faultFlds ++ [.ques, .rels, .tlbs, .free]
  | .markReleaseAtHome _ => faultFlds ++ [.ques, .rels, .pcx]
  | .nop _ _ => doneFlds
  | .writeImm _ _ => faultFlds ++ [.ques, .chains, .free]
  | .markAdd _ _ => faultFlds ++ [.ques, .chains, .tlbs, .free]
  | .queueDrainEnd _ _ => [.ques, .mxes, .timers]
  | .reseed _ _ | .reseedDone _ => [.tiles]
  | .mxeLoadw _ | .loadwComplete _ | .passSwap _ | .mxeIssue _ | .bookInstall _ _ => faultFlds ++ [.ques, .mxes,
    .chains]
  | .mxePass _ | .mxeDrain _ => [.mxes, .timers]
  | .slotRowAdd _ => [.mem, .poison, .blocks, .tiles, .mxes, .tals, .free]
  | .passComplete _ => doneFlds ++ [.mxes]
  | .arrayIdleGate _ | .mxeSave _ _ _ | .mxeRestore _ _ _ _ | .vxeBookload _ => [.mxes]
  | .drainRowRead _ | .drainComplete _ => faultFlds ++ [.ques, .mxes, .chains, .wchs, .free]
  | .drainRetry _ => [.blocks, .mxes, .tals, .timers]
  | .mxeChain _ => [.chains]
  | .chainStageBegin _ _ _ => faultFlds ++ [.ques, .mxes, .vxes, .stes, .chains, .tlbs, .nmes, .rings, .bars, .free]
  | .saveRestoreDone _ _ => allBut [.flash, .img, .sess, .board, .chans, .cycles, .mgt, .otp, .sec, .pwr, .boot,
    .jtag, .straps, .rr, .pending]
  | .vxeSurveySample _ | .vxeSurveyBuild _ | .vxeEncode _ | .vxeRun _ | .add _ | .sub _ | .mul _ | .fma _ | .div _ |
    .sqrt _ | .min _ | .max _ | .abs _ | .neg _ | .copy _ | .fill _ | .sel _ | .rcp _ | .rsqrt _ | .exp2 _ | .exp _ |
    .log2 _ | .ln _ | .tanh _ | .sigmoid _ | .silu _ | .sin _ | .cos _ | .cmplt _ | .cmple _ | .cmpeq _ | .cmpne _ |
    .rsum _ | .rmax _ | .ramax _ => faultFlds ++ [.ques, .vxes, .chains, .free]
  | .engineFillResume _ _ => [.timers]
  | .steOpen _ _ => faultFlds ++ [.ques, .stes, .chains, .tlbs, .free]
  | .steRelease _ _ | .stePush _ _ | .steClose _ _ => doneFlds ++ [.stes]
  | .streamIssue _ _ | .streamRetry _ _ | .steResume _ _ _ | .pagedIn _ _ _ => faultFlds ++ [.stes, .tlbs, .free]
  | .streamDeliver _ _ _ _ => faultFlds ++ [.stes, .free]
  | .streamStallTimeout _ _ => faultFlds ++ [.stes]
  | .arbiterAccept _ _ _ _ _ _ | .arbiterAgeing _ _ | .refresh _ _ | .toHost _ _ | .fromHost _ _ => [.stks]
  | .arbiterGrant _ => [.blocks, .stks, .tals]
  | .stackRecal _ _ => [.blocks, .stks, .tals, .timers]
  | .stackAccess _ _ _ => [.mem, .poison, .blocks, .tiles, .stes, .stks, .tals]
  | .scrub _ _ _ => [.poison, .blocks, .stks, .tals]
  | .stackTrainingDone _ _ => [.blocks, .stks, .kvfs, .parts, .sess, .pairs, .tals, .timers]
  | .invalidateRange _ _ _ | .invalidateContext _ _ _ => [.tlbs, .parts]
  | .invalidateDone _ => [.parts]
  | .moveUnit _ _ _ => [.mem, .poison, .blocks, .tiles, .stks, .tals, .funcs, .out, .free]
  | .nmeAttend _ | .nmeAttendBwd _ => [.nmes, .timers]
  | .nmeEntryTakeUp _ | .spillCopyDone _ _ => faultFlds ++ [.ques, .chains, .tlbs, .nmes, .kvfs, .sess, .free]
  | .nmeFrameWalk _ _ => faultFlds ++ [.ques, .chains, .stks, .nmes, .kvfs, .free]
  | .nmeHandlePush _ => faultFlds ++ [.ques, .chains, .nmes, .kvfs, .rings, .free]
  | .sesCmdOpen _ _ | .sesSelWrite _ _ _ => [.blocks, .sess]
  | .sesCmdClose _ _ | .sesCmdSet _ _ | .unpark _ _ => [.sess]
  | .closeHoldsEnd _ | .pin _ _ => [.kvfs, .sess]
  | .fork _ _ | .sesCmdSpill _ _ => [.blocks, .kvfs, .sess]
  | .attach _ _ => [.blocks, .tlbs, .kvfs, .sess, .funcs, .out, .free]
  | .publish _ _ => [.blocks, .tlbs, .kvfs, .parts, .sess, .funcs, .out, .free]
  | .sesCmdFetch _ _ => [.blocks, .kvfs, .parts, .sess, .tals, .ldgs, .fog, .timers, .out, .free]
  | .fetchCopyDone _ _ => [.mem, .poison, .blocks, .tiles, .kvfs, .parts, .sess, .tals, .ldgs, .fog, .timers, .out,
    .free]
  | .tick _ _ => [.kvfs, .sess, .free]
  | .pfxFlush _ _ => [.kvfs, .parts, .sess]
  | .kvfEntrySelWrite _ _ _ => [.blocks, .kvfs]
  | .ringPush _ _ | .ringPop _ _ => faultFlds ++ [.ques, .chains, .nmes, .kvfs, .rings]
  | .barrierArrival _ _ => faultFlds ++ [.ques, .chains, .bars]
  | .barrierNotice _ _ _ => doneFlds ++ [.bars]
  | .barrierWithdraw _ _ _ | .heartbeatMiss _ | .progressTimeout _ _ | .engineHang _ _ | .engineReset _ _ _ _ =>
    allBut [.flash, .img, .sess, .board, .chans, .cycles, .mgt, .otp, .sec, .pwr, .boot, .jtag, .straps, .rr, .free,
    .pending]
  | .hostPostedWrite _ _ => [.mem, .poison, .blocks, .tiles, .tals, .funcs]
  | .hostAtomic _ _ _ _ _ => [.mem, .poison, .blocks, .tiles, .tals, .funcs, .out]
  | .atomicAtHome _ _ _ _ _ => [.mem, .poison, .blocks, .tiles, .tals, .pcx, .funcs, .out, .free]
  | .hostAtomicEmulate _ _ _ | .hostRequestTimeout _ => faultFlds ++ [.img, .ques, .stes, .stks, .tlbs, .pcx, .free]
  | .linkWriteArrive _ _ | .sprayWriteArrive _ _ | .lampPerform _ _ => faultFlds ++ [.ques, .chains, .tlbs, .links,
    .lgs, .board, .cles, .free]
  | .lampArrive _ _ => [.links, .lgs, .board, .timers]
  | .lampExpire _ _ => [.blocks, .links, .lgs, .board, .tals, .timers, .out]
  | .lampExpiryReceive _ _ | .abortReceive _ _ | .inboundRejectReceive _ _ | .collTimeout _ _ _ => faultFlds ++
    [.ques, .chains, .links, .lgs, .cles]
  | .linkTraining _ _ => faultFlds ++ [.ques, .chains, .kvfs, .sess, .links, .lgs, .board, .cles, .pairs]
  | .linkFrameReceive _ _ _ => [.blocks, .links, .tals, .out]
  | .linkAck _ _ | .linkNak _ _ | .receiverLosesLock _ => [.blocks, .links, .lgs, .tals, .out]
  | .lnkRetrain _ _ _ | .readyResend _ _ => [.blocks, .links, .lgs, .tals, .timers, .out]
  | .lnkClear _ _ _ => [.links]
  | .cleSend _ | .cleAllreduce _ | .cleReducescatter _ | .cleAllgather _ | .readyReceive _ _ | .collReduce _ =>
    faultFlds ++ [.ques, .chains, .links, .lgs, .cles, .free]
  | .performedAck _ _ => doneFlds ++ [.links, .lgs, .cles]
  | .openSession _ _ | .decode _ _ => faultFlds ++ [.ques, .tlbs, .sess, .pairs, .free]
  | .prefill _ _ | .resume _ _ => faultFlds ++ [.ques, .tlbs, .kvfs, .sess, .pairs, .free]
  | .hold _ _ => faultFlds ++ [.ques, .rels, .tlbs, .kvfs, .sess, .pairs, .free]
  | .close _ _ => faultFlds ++ [.ques, .rels, .tlbs, .sess, .pairs, .free]
  | .runtimeStart _ => [.blocks, .ctxs, .tlbs, .parts, .pairs, .boot, .timers]
  | .runtimeStep _ _ _ _ => faultFlds ++ [.rels, .tlbs, .kvfs, .sess, .pairs, .free]
  | .kprHbWrite _ _ _ => [.blocks, .timers]
  | .talClear _ _ _ _ => [.tals]
  | .fogInEdge _ => [.fog, .timers, .out, .free]
  | .fire _ | .fogOutEnd => [.fog, .timers, .out]
  | .thaw _ | .fog _ _ _ => [.blocks, .tals, .ldgs, .fog, .timers, .out]
  | .fogFreeze _ => [.blocks, .tals, .ldgs, .wchs, .fog, .timers, .out]
  | .ldgArm _ _ | .ldgStop _ _ => [.ldgs]
  | .ldgTrigger _ _ => [.blocks, .tals, .ldgs, .fog, .timers, .out]
  | .ldgBurstAck _ _ => [.mem, .poison, .blocks, .tiles, .tals, .ldgs, .fog, .timers, .out]
  | .ldgRdSelWrite _ _ _ => [.blocks, .ldgs]
  | .wchSnap _ _ _ | .wchClear _ _ _ => [.wchs]
  | .partitionReset _ _ | .functionLevelReset _ => allBut [.flash, .img, .chans, .fog, .mgt, .otp, .sec, .boot, .jtag,
    .straps, .rr, .out, .free, .pending]
  | .chipReset _ _ | .rungTimeout _ _ | .perstAssert | .reset _ _ _ => allBut [.flash, .jtag, .straps, .free,
    .pending]
  | .powerCycle => [.pwr, .out]
  | .regRead _ _ _ _ => [.out]
  | .perstRelease | .input48vGood | .domainOn _ _ | .domainOff _ _ => allBut [.flash, .img, .ctxs, .ques, .rels,
    .parts, .sess, .rings, .bars, .board, .chans, .fog, .mgt, .otp, .sec, .boot, .jtag, .straps, .rr, .out, .free,
    .pending]
  | .hotReset | .pcieLinkUp _ _ _ => [.pcx, .funcs]
  | .pcieLinkDown => [.blocks, .pcx]
  | .atsInvalidation _ _ _ => [.funcs, .out]
  | .setdasa _ | .entdaa _ => [.mgt, .out]
  | .setEndpointId _ | .requestUpdate | .passComponentTable _ | .updateComponent _ _ | .activateFirmware _ |
    .cancelUpdateComponent | .cancelUpdate => [.mgt, .out]
  | .getEndpointId | .getMctpVersionSupport _ | .getMessageTypeSupport | .getVendorDefinedMessageSupport _ |
    .getInfo _ _ | .getHealth _ _ | .attest _ _ _ | .getIdentity _ _ | .getTid | .getPldmVersion _ | .getPldmTypes |
    .getPldmCommands _ | .getSensorReading _ | .getStateSensorReadings _ | .getPdrRepositoryInfo | .getPdr _ |
    .getNumericEffecterValue _ | .queryDeviceIdentifiers | .getFirmwareParameters | .getStatus => [.out]
  | .imgChunk _ _ _ _ => [.img, .out]
  | .otpWriteGen _ _ _ _ _ _ _ => [.blocks, .otp, .out]
  | .ideKeySet _ _ _ _ _ _ _ _ => [.blocks, .pcx, .out]
  | .setNumericEffecterValue _ _ => [.blocks, .out]
  | .firmwareData _ _ _ => [.flash, .blocks, .mgt, .out]
  | .auxPowerUp => [.blocks, .otp, .pwr, .boot, .out]
  | .auxPowerLoss => allBut [.flash, .straps, .out, .free, .pending]
  | .inputLockout _ => allBut [.flash, .board, .fog, .mgt, .otp, .sec, .boot, .jtag, .straps, .rr, .out,
    .free, .pending]
  | .powerSample _ _ _ => [.pwr, .out, .free]
  | .currentClamp _ | .currentClampRelease _ => [.pwr, .timers]
  | .thermalSample _ _ _ _ => allBut [.flash, .board, .fog, .mgt, .otp, .sec, .boot, .jtag, .straps, .rr,
    .pending]
  | .domainSwitchDone => allBut [.flash, .img, .sess, .board, .chans, .mgt, .otp, .sec, .boot, .jtag, .straps, .rr,
    .free, .pending]
  | .extest | .samplePreload | .highz | .clamp | .bypass _ | .testLogicReset => allBut [.flash, .img, .ctxs, .ques,
    .rels, .parts, .sess, .rings, .bars, .board, .chans, .fog, .mgt, .otp, .sec, .boot, .straps, .rr, .out, .free,
    .pending]
  | .configurationWrite _ _ _ _ _ _ => [.blocks, .tals, .pcx, .funcs, .out]
  | .ideIntegrityFailure => [.pcx]
  | .mgmtFirmwareVerified => allBut [.flash, .img, .ctxs, .ques, .rels, .parts, .sess, .rings, .bars, .board,
    .chans, .fog, .mgt, .otp, .jtag, .straps, .rr, .out, .free, .pending]
  | .keeperFirmwareVerified => [.pairs, .sec, .timers]

end Sys2Proof.Machine
end

