-- ==== Sys2Proof/Certificates/Slice0/Obligations.lean ====
section
/-!
DEFINITION. What is claimed of the model: statements for the provers, family by family of the command table, each
citing the rules of spec/ it formalises. `Does i s P` says that command `i` completes from `s` in a state of which `P`
holds; `t.except W = s.except W` says that `s` and `t` differ in no field but `W`.
-/

open Sys2Proof Sys2Proof.Machine

/-! ## Registers, commits, clocks and channels -/

/-- R5, R38: a REGISTER_WRITE of a register that holds values and no command, by a master that is on and may write it, changes the
staged fields of that register alone in the staged set, the RW fields alone in the RW set, clears the W1C bits written
1, and leaves the committed set as it is. A function's write is counted and follows its posted writes (R335, R395): what
is said of it is said of the state `s` after them. -/
def Obligations.RegisterWriteChangesStagedValues : Prop :=
  ∀ (m : Master) (addr : Nat) (v : W32) (s₀ : State) (b : BlkId) (off : Nat) (fs : List Field),
    let s := s₀.writeArrives m
    addr % 4 = 0 → ctlPlace addr = .reg b off → off ≠ 0 → s.reaches m b = true → s.deniedWrite m b off = none →
    s.cmdWrite m b off v = none → s.mayWrite m b off = true → s.talMasked m b off = false →
    regFields b.kind off = some fs → s.regHere b off = true → isTal b.kind = false →
    (∀ p : Fin 8, m = .kp p → s.domOn (domKp p.val) = true) →
    Does (.registerWrite m addr v) s₀ (fun t =>
      (∀ o, stagedWord b.kind (t.blk b) o =
        if o = off then (stagedWord b.kind (s.blk b) off &&& ~~~accMask fs .stg) ||| (v &&& accMask fs .stg)
        else stagedWord b.kind (s.blk b) o) ∧
      (∀ o, plainWord b.kind (t.blk b) o =
        if o = off then (plainWord b.kind (s.blk b) off &&& ~~~accMask fs .rw) ||| (v &&& accMask fs .rw)
        else plainWord b.kind (s.blk b) o) ∧
      (∀ o, w1cWord (t.blk b) o =
        if o = off then w1cWord (s.blk b) off &&& ~~~(accMask fs .w1c &&& v) else w1cWord (s.blk b) o) ∧
      (t.blk b).comm = (s.blk b).comm ∧ (t.blk b).snap = (s.blk b).snap ∧
      (∀ c, blkKey c ≠ blkKey b → t.blk c = s.blk c) ∧ t.except [.blocks] = s.except [.blocks])

/-- R6, R37, R38: a write to no register of the range changes nothing but the report of its master: BAR_MISS for a function
on the bus (R442), an access fault of its first core for a keeper pair that is on (R374). So does a keeper pair's write of a
register that it does not reach; any other write of a register by a master that does not reach it changes nothing. A
function's write follows its posted writes whatever it reaches (R335). -/
def Obligations.RegisterWriteOutsideChangesNothing : Prop :=
  (∀ (addr : Nat) (v : W32) (s : State), addr % 4 = 0 → ctlPlace addr = .none →
    exec (.registerWrite .mgmt addr v) s = .next s ∧
    (∀ p : Fin 8, exec (.registerWrite (.kp p) addr v) s =
      .next (if s.domOn (domKp p.val) then s.coreFault (2 * p.val) addr else s)) ∧
    (∀ (m : Master) (fn : Nat), masterFn m = some fn →
      let u := s.writeArrives m
      exec (.registerWrite m addr v) s =
        .next (if u.pcx.up = true ∧ (u.func fn).present = true then u.flag .pcx 0 0x14 (bit 31) else u))) ∧
  (∀ (p : Fin 8) (addr : Nat) (v : W32) (s : State) (b : BlkId) (off : Nat), addr % 4 = 0 →
    ctlPlace addr = .reg b off → s.writeReaches (.kp p) b off = false → s.domOn (domKp p.val) = true →
    exec (.registerWrite (.kp p) addr v) s = .next (s.coreFault (2 * p.val) addr)) ∧
  (∀ (m : Master) (addr : Nat) (v : W32) (s : State) (b : BlkId) (off : Nat), addr % 4 = 0 →
    let u := s.writeArrives m
    ctlPlace addr = .reg b off → off ≠ 0 → u.writeReaches m b off = false →
    (m = .mgmt ∨ ∃ fn, masterFn m = some fn ∧ u.inReach fn addr = true) → exec (.registerWrite m addr v) s = .next u) ∧
  (∀ (m : Master) (addr : Nat) (v : W32) (s : State), addr % 4 ≠ 0 →
    exec (.registerWrite m addr v) s = .fault .illFormed)

/-- R39, R41, R43, R488: GO takes the staged set as the snapshot and leaves pending the parts that differ from the
committed set; with none, SERIAL counts at once. DISCARD makes the committed set the staged set. A function's GO or
DISCARD follows its posted writes (R335): `s` is the state after them. -/
def Obligations.GoAndDiscardMoveTheSets : Prop :=
  (∀ (m : Master) (b : BlkId) (s₀ : State),
    let s := s₀.flushFor m
    b.unit < unitCount b.kind → s.mayWrite m b 0 = true → s.applying b = false →
    (∀ x ∈ (changedOffs b.kind { s.blk b with snap := (s.blk b).staged }).map (partOf b.kind),
      partAtOnce b.kind x = false) →
    exec (.go m b) s₀ = .next (
      let r := { s.blk b with snap := (s.blk b).staged }
      let parts := ((changedOffs b.kind r).map (partOf b.kind)).eraseDups
      let t := s.setBlk b { r with pend := parts, serial := if parts = [] then r.serial + 1 else r.serial }
      if b.kind = .pcx then t.setBlk b (t.blk b).recommit else t)) ∧
  (∀ (m : Master) (b : BlkId) (s₀ : State),
    let s := s₀.flushFor m
    b.unit < unitCount b.kind → s.mayWrite m b 0 = true → exec (.discard m b) s₀ = .next (s.setBlk b { s.blk b with staged := (s.blk b).comm })) ∧
  (∀ (m : Master) (b : BlkId) (s₀ : State),
    let s := s₀.flushFor m
    b.unit < unitCount b.kind → (s.mayWrite m b 0 = false ∨ s.applying b = true) → exec (.go m b) s₀ = .next s)

/-- R39, R42, R43: at its sample point a pending part of a snapshot takes effect in one step: with no field refused,
every register of the part takes its snapshot value in the committed set, the part is pending no more, and SERIAL counts
when it was the last; then what each change brings about follows. -/
def Obligations.SnapshotAppliesOnePart : Prop :=
  ∀ (b : BlkId) (part : Nat) (s : State), b.unit < unitCount b.kind → s.atSample b part = true →
    part ∈ (s.blk b).pend →
    (∀ o ∈ changedOffs b.kind (s.blk b), partOf b.kind o = part → s.keptBits b o = 0) →
    let r := s.blk b
    let offs := (changedOffs b.kind r).filter (fun o => decide (partOf b.kind o = part))
    let pend := r.pend.filter (fun x => decide (x ≠ part))
    exec (.snapshotApply b part) s = .next (offs.foldl (fun u o => u.committed b o (commWord b.kind r o))
      (s.setBlk b { r with
        comm := offs.foldl (fun m o => SMap.set (resetWord b.kind o) m o (snapWord b.kind r o)) r.comm
        pend := pend, serial := if pend = [] then r.serial + 1 else r.serial }))

/-- R42, R29: a refused field keeps its committed value, REFUSED is set, and the report that the field names is made. The
statement is of a tile's FREQ_STEP, the one field that its snapshot would change, above 0x10: BAD_STEP is set as well. -/
def Obligations.RefusedFieldKeepsItsValue : Prop :=
  ∀ (t : Fin 48) (s : State),
    let b : BlkId := ⟨.tile, t.val⟩
    let r := s.blk b
    r.pend = [0] → changedOffs .tile r = [0x40] → s.atSample b 0 = true →
    0x10 < bitsOf (snapWord .tile r 0x40).toNat 4 0 → snapWord .tile r 0x40 &&& 0xFFFFFFE0 = 0 →
    commWord .tile r 0x40 &&& 0xFFFFFFE0 = 0 →
    Does (.snapshotApply b 0) s (fun u =>
      commWord .tile (u.blk b) 0x40 = commWord .tile r 0x40 ∧ (u.blk b).refused = true ∧
      (u.flags .tile t.val 0x44).getLsbD 30 = true ∧ u.tile t.val = s.tile t.val ∧ (u.blk b).pend = [])

/-- R28, R29, R30: at FREQ_SWITCH_DONE the unit runs at its target, SWITCHING reads 0, and the period in use is that of the
new step. -/
def Obligations.FrequencySwitchReachesTheTarget : Prop :=
  (∀ (t : Fin 48) (s : State), (s.tile t.val).freq.switching = true →
    Does (.freqSwitchDone (.tile t)) s (fun u =>
      (u.tile t.val).freq = ⟨(s.tile t.val).freq.target, (s.tile t.val).freq.target, false⟩ ∧
      u.period (.tile t.val) = periodOf (800 + 50 * (s.tile t.val).freq.target) ∧
      (∀ k, k ≠ t.val → u.tile k = s.tile k) ∧ u.pairs = s.pairs)) ∧
  (∀ (p : Fin 8) (s : State), (s.pair p.val).freq.switching = true →
    Does (.freqSwitchDone (.pair p)) s (fun u =>
      (u.pair p.val).freq = ⟨(s.pair p.val).freq.target, (s.pair p.val).freq.target, false⟩ ∧
      u.period (.keeper p.val) = periodOf (1100 + 100 * (s.pair p.val).freq.target) ∧
      (∀ k, k ≠ p.val → u.pair k = s.pair k) ∧ u.tiles = s.tiles))

/-- R21, R31, R32: a handshake channel holds at most 64 flits in flight per direction: a sender with 64 unaccepted flits
waits; otherwise the sent count grows by one. An accepted flit counts as received; its destination consumes it, or the
router presents it on the next channel of its path, unless 64 flits are in flight there: then it waits where it is. Every
step keeps, on every channel, as many flits in flight as the counts differ by, at most 64. A path between tiles and
stacks runs over joined ends, and between two tiles it passes routers in the source's row or in the destination's column
only. -/
def Obligations.ChannelHoldsAtMost64Flits : Prop :=
  (∀ (x : Xfer) (src dst : ChanEnd) (s : State), joined src dst = true → s.pwr.spine = true →
    64 ≤ (s.chan (chanKey src dst)).count → exec (.flitTransfer x (src, dst) false) s = .next s) ∧
  (∀ (x : Xfer) (src dst : ChanEnd) (s : State), joined src dst = true → s.pwr.spine = true → x.resp = false →
    (pathOf x).head? = some (src, dst) → (s.chan (chanKey src dst)).count < 64 →
    (s.portOn x.dst = true ∨ nextHop (src, dst) (pathOf x) ≠ none) →
    Does (.flitTransfer x (src, dst) false) s (fun t =>
      let h := s.chan (chanKey src dst)
      t.chan (chanKey src dst) = { h with sent := h.sent + 1, flight := h.flight ++ [x] } ∧
      (∀ k, k ≠ chanKey src dst → t.chan k = s.chan k) ∧
      t.except [.blocks, .tals, .chans] = s.except [.blocks, .tals, .chans])) ∧
  (∀ (x : Xfer) (src dst : ChanEnd) (s : State), joined src dst = true → s.pwr.spine = true →
    (s.chan (chanKey src dst)).flight.head? = some x →
    let h := s.chan (chanKey src dst)
    match s.onward x (src, dst) with
    | none => Does (.flitTransfer x (src, dst) true) s (fun t =>
        t.chan (chanKey src dst) = { h with rcvd := h.rcvd + 1, flight := h.flight.drop 1 } ∧
        (∀ k, k ≠ chanKey src dst → t.chan k = s.chan k))
    | some (y, n) =>
      if 64 ≤ (s.chan (chanKey n.1 n.2)).count then exec (.flitTransfer x (src, dst) true) s = .next s
      else chanKey n.1 n.2 ≠ chanKey src dst → Does (.flitTransfer x (src, dst) true) s (fun t =>
        let o := s.chan (chanKey n.1 n.2)
        t.chan (chanKey src dst) = { h with rcvd := h.rcvd + 1, flight := h.flight.drop 1 } ∧
        t.chan (chanKey n.1 n.2) = { o with sent := o.sent + 1, flight := o.flight ++ [y] } ∧
        (∀ k, k ≠ chanKey src dst → k ≠ chanKey n.1 n.2 → t.chan k = s.chan k))) ∧
  (∀ (x : Xfer) (src dst : ChanEnd) (a : Bool) (s t : State),
    (∀ k, (s.chan k).flight.length = (s.chan k).count ∧ (s.chan k).count ≤ 64) →
    exec (.flitTransfer x (src, dst) a) s = .next t →
    ∀ k, (t.chan k).flight.length = (t.chan k).count ∧ (t.chan k).count ≤ 64) ∧
  (∀ x : Xfer, portIsTrunk x.src = false → portIsTrunk x.dst = false → ∀ c ∈ pathOf x, joined c.1 c.2 = true) ∧
  (∀ (t u : Fin 48) (b : Bool), ∀ r ∈ routersOf ⟨.tile t, .tile u, b⟩, rowOf r = rowOf t.val ∨ colOf r = colOf u.val)

/-! ## Structure images -/

/-- R55: a master's write of its own code claims a free image buffer, the owner's write of 0 releases it, every other
write of OWNER is ignored; FORCE sets OWNER to 0 from the management port only. The owner's write to IMG_BUF stores its
four bytes and clears VERIFIED; the same write by any other master that reaches the block sets RESULT to DENIED. -/
def Obligations.ImageBufferHasOneOwner : Prop :=
  (∀ (m : Master) (s : State), s.imgReach m = true → ownerCode m ≠ 0 → s.img.owner = 0 →
    exec (.imgClaimWrite m (ownerCode m)) s = .next { s with img := { s.img with owner := ownerCode m } }) ∧
  (∀ (m : Master) (s : State), s.imgReach m = true → s.imgOwns m = true →
    exec (.imgClaimWrite m 0) s = .next { s with img := { s.img with owner := 0 } }) ∧
  (∀ (m : Master) (o : BitVec 2) (s : State), ¬ (s.img.owner = 0 ∧ o = ownerCode m) →
    ¬ (s.imgOwns m = true ∧ o = 0) → exec (.imgClaimWrite m o) s = .next s) ∧
  (∀ s : State, s.imgReach .mgmt = true →
    exec (.imgClaimForce .mgmt) s = .next { s with img := { s.img with owner := 0 } }) ∧
  (∀ (m : Master) (s : State), m ≠ .mgmt → exec (.imgClaimForce m) s = .next s) ∧
  (∀ (m : Master) (off : Nat) (v : W32) (s : State), off % 4 = 0 → off < 0x100000 → s.imgReach m = true →
    s.imgOwns m = true →
    Does (.imgBufWrite m off v) s (fun t =>
      (∀ j, imgByte t.img.buf j =
        if off ≤ j ∧ j < off + 4 then BitVec.ofNat 8 (v.toNat / 256 ^ (j - off)) else imgByte s.img.buf j) ∧
      t = { s with img := { s.img with buf := t.img.buf, verified := false } })) ∧
  (∀ (m : Master) (off : Nat) (v : W32) (s : State), off % 4 = 0 → off < 0x100000 → s.imgReach m = true →
    s.imgOwns m = false → exec (.imgBufWrite m off v) s = .next { s with img := { s.img with result := 0x0C } })

/-- R43, R55, R56, R57: a write of IMG_CMD by the owner applies the staged fields and starts FETCH, VERIFY or CLEAR;
FETCH and CLEAR clear VERIFIED, FETCH asks the host for the bytes (R438), CLEAR zeroes the buffer. During an operation any IMG_CMD write sets RESULT to BUSY and is
ignored. -/
def Obligations.ImageCommandsRunForTheOwner : Prop :=
  (∀ (m : Master) (s : State), s.imgReach m = true → s.imgOwns m = true → s.img.busy = none →
    let u := s.applyPart ⟨.img, 0⟩ 0
    exec (.imgFetch m) s = .next (({ u with img := { u.img with busy := some .fetch, verified := false } } : State).askBus 0
      (u.cfg .img 0 0x20 31 0 + u.cfg .img 0 0x24 31 0 * 2 ^ 32) (u.cfg .img 0 0x28 31 0)) ∧
    exec (.imgVerify m) s = .next { u with img := { u.img with busy := some .verify } } ∧
    exec (.imgClear m) s =
      .next { u with img := { u.img with buf := [], verified := false, detail := 0xFF, result := 0 } }) ∧
  (∀ (m : Master) (s : State), s.imgReach m = true → s.imgOwns m = true → s.img.busy ≠ none →
    ∀ i ∈ [Instr.imgFetch m, .imgVerify m, .imgApply m, .imgClear m],
      exec i s = .next { s with img := { s.img with result := 0x0B } }) ∧
  (∀ (m : Master) (s : State), s.imgReach m = true → s.imgOwns m = false →
    ∀ i ∈ [Instr.imgFetch m, .imgVerify m, .imgApply m, .imgClear m],
      exec i s = .next { s with img := { s.img with result := 0x0C } })

/-- R56, R57, R58: the bytes that a FETCH brings stand in the buffer from offset 0, at most its 1 MiB, and RESULT is OK;
a read that fails sets RESULT to FETCH and leaves the buffer. A VERIFY ends with the first check that fails, or with
VERIFIED 1 and RESULT OK, and changes nothing outside the IMG_ block but the alert of its completion. It finds an image bad whose
magic or product is another, whose key, signature or floor fails, or that holds no partition. -/
def Obligations.FetchAndVerifyReportTheirResult : Prop :=
  (∀ (bs : List Byte) (s : State), s.img.busy = some .fetch → s.hostOk 0 = true →
    bs.length = s.cfg .img 0 0x28 31 0 →
    Does (.imgFetchDone (some bs)) s (fun t =>
      (∀ j, imgByte t.img.buf j = if j < bs.length ∧ j < 0x100000 then bs.getD j 0 else imgByte s.img.buf j) ∧
      t = { s with img := { s.img with busy := none, detail := 0xFF, verified := false, result := 0, buf := t.img.buf } })) ∧
  (∀ s : State, s.img.busy = some .fetch →
    exec (.imgFetchDone none) s = .next { s.flag .pcx 0 0x14 (bit 30) with
      img := { s.img with busy := none, detail := 0xFF, result := 0x0D } }) ∧
  (∀ s : State, s.img.busy = some .verify → Does .imgVerifyDone s (fun t =>
    t.img = (match s.verify s.img.buf with
      | none => { s.img with busy := none, verified := true, detail := 0xFF, result := 0 }
      | some (r, d) => { s.img with
          busy := none, verified := false, detail := BitVec.ofNat 8 d, result := BitVec.ofNat 8 r }) ∧
    t.flags .mgt 0 0x14 = s.flags .mgt 0 0x14 ||| bit 28 ∧
    t.except [.img, .blocks, .out] = s.except [.img, .blocks, .out])) ∧
  (∀ (s : State) (buf : List (Nat × Byte)),
    (imgLe buf 0 4 ≠ 0x4B465355 ∨ imgLe buf 12 2 ≠ 0x0768 ∨
      s.keyOk 64 320 (imgLe buf (imgSigOff buf) 1) (imgPub buf) = false ∨
      Config.mldsaVerify (imgPub buf) (imgManifest buf) (imgBytes buf (imgSigOff buf + 1316) 2420) = false ∨
      imgLe buf 16 4 < ((s.otpBlock).map (fun b => otpLe b 8 4)).getD 0 ∨ imgParts buf = []) →
    s.verify buf ≠ none)

/-- R59, R44: APPLY without VERIFIED sets RESULT to FORMAT and changes nothing; where a partition outside the mask would
change it sets CONFLICT. Otherwise it begins: the new image is taken, every context of a partition in the mask is FREE
with no queue holding work, and the registers of partitions outside the mask stay as they were. -/
def Obligations.ApplyResetsTheMaskedPartitions : Prop :=
  ∀ (m : Master) (s : State), s.imgReach m = true → s.imgOwns m = true → s.img.busy = none →
    let u := s.applyPart ⟨.img, 0⟩ 0
    let new := imgCfg u.img.buf
    let mask : BitVec 8 := BitVec.ofNat 8 (u.cfg .img 0 0x2C 7 0)
    let old := u.img.applied.getD { new with parts := [], mask := noMask, tallies := [], sections := [] }
    (u.img.verified = false → exec (.imgApply m) s = .next { u with img := { u.img with result := 0x01 } }) ∧
    (u.img.verified = true → (∃ p < 8, mask.getLsbD p = false ∧ samePart old new p = false) →
      exec (.imgApply m) s = .next { u with img := { u.img with result := 0x0A } }) ∧
    (u.img.verified = true → (∀ p < 8, mask.getLsbD p = true ∨ samePart old new p = true) →
      Does (.imgApply m) s (fun t =>
        t.img = { u.img with busy := some .apply, pendingImage := some new, mask := mask, result := 0, detail := 0xFF } ∧
        (∀ p ∈ masked u.img.applied mask, (∀ c < u.ctxQuota p, t.ctx (ctxKey p c) = .reset) ∧
          ∀ q < u.queQuota p, t.que (queKey p q) = .reset) ∧
        (∀ p, p ∉ masked u.img.applied mask → t.part p = u.part p ∧
          ∀ k ∈ [BlkKind.ctx, .que, .rng, .ses, .pfx, .flt, .talPart], p < 64 → t.blk ⟨k, p⟩ = u.blk ⟨k, p⟩)))

/-- R59, R60: IMG_APPLY_DONE makes the new image the applied one, once the units concerned have trained and the channels
of what goes off are empty: RESULT is OK, a byte of device memory whose owner, region kind and region offset are as before
keeps its value, one that changes within
the mask reads zero, and the measurement of the image is taken. -/
def Obligations.ApplyCompletesWithTheNewImage : Prop :=
  ∀ (new : ImageCfg) (s : State), s.img.busy = some .apply → s.img.pendingImage = some new →
    (∀ p ∈ masked (some new) s.img.mask, partTrains s (some new) p = false) →
    (s.boot.applied = true ∨ s.startHeld = false) → s.applyOff.all s.chansIdle = true →
    Does .imgApplyDone s (fun t =>
      t.img = { s.img with
        busy := none, applied := some new, pendingImage := none, applies := s.img.applies + 1, result := 0, detail := 0xFF } ∧
      t.boot = { s.boot with applied := true, chipReset := false } ∧
      t.sec = { s.sec with slots := s.sec.slots.set 4 new.digest } ∧
      (∀ a, byteOwner s.img.applied a = byteOwner (some new) a → (byteOwner (some new) a).isSome = true →
        t.readByte a = s.readByte a) ∧
      (∀ a k, physAt a = .stack k → byteOwner s.img.applied a ≠ byteOwner (some new) a →
        (∀ x ∈ byteOwner s.img.applied a, s.img.mask.getLsbD x.1 = true) →
        (∀ x ∈ byteOwner (some new) a, s.img.mask.getLsbD x.1 = true) → t.readByte a = 0))

/-! ## Contexts, queues, command records and marks -/

/-- R64, R66, R67, R68, R426, R432: an operation of CTX_CMD gives RESULT STATE for a context RESETTING, BUSY while one
runs, RANGE at or above CTX_QUOTA, STATE where the context is not in the state it requires. CREATE of a FREE context applies its staged set, counts GEN on and
makes it ACTIVE; DESTROY makes it DESTROYING and discards commands that have not begun, and of the begun ones loses the
chains (R245) and the commands of the near-memory and collective engines (R295, R368), the model's reading of the three
rules (log 90); RESET removes its queues' work and clears their ENABLE, and the context is ACTIVE again once no engine holds
work of it. -/
def Obligations.ContextCommandsFollowTheirStates : Prop :=
  ∀ (m : Master) (p : Fin 8) (c : BitVec 8) (s : State), s.reaches m ⟨.ctx, p.val⟩ = true →
    let k := ctxKey p.val c.toNat
    let x := s.ctx k
    let cut := (List.range 48).flatMap (fun t => (s.chain t).map (·.ref)) ++
      (List.range 12).flatMap (fun n => (s.nme n).ops.map (·.ref)) ++
      (List.range 6).flatMap (fun g => (s.cle g).sends.map (·.ref) ++ ((s.cle g).coll.map (·.ref)).toList)
    (c.toNat < s.ctxQuota p.val → x.st = .resetting → ∀ i ∈ [Instr.ctxCreate m p c, .ctxDestroy m p c, .ctxReset m p c],
      exec i s = .next (s.ctxResult p.val 0x01)) ∧
    ((s.part p.val).cmdFor ≠ none → ¬ (c.toNat < s.ctxQuota p.val ∧ x.st = .resetting) → ∀ i ∈ [Instr.ctxCreate m p c, .ctxDestroy m p c, .ctxReset m p c],
      exec i s = .next (s.ctxResult p.val 0x03)) ∧
    ((s.part p.val).cmdFor = none → s.ctxQuota p.val ≤ c.toNat →
      ∀ i ∈ [Instr.ctxCreate m p c, .ctxDestroy m p c, .ctxReset m p c], exec i s = .next (s.ctxResult p.val 0x02)) ∧
    ((s.part p.val).cmdFor = none → c.toNat < s.ctxQuota p.val →
      (x.st ≠ .free → exec (.ctxCreate m p c) s = .next (s.ctxResult p.val 0x01)) ∧
      (x.st ≠ .active → x.st ≠ .faulted → exec (.ctxDestroy m p c) s = .next (s.ctxResult p.val 0x01) ∧
        exec (.ctxReset m p c) s = .next (s.ctxResult p.val 0x01)) ∧
      (x.st = .free → Does (.ctxCreate m p c) s (fun t =>
        t.ctx k = ⟨.active, x.gen + 1⟩ ∧ (∀ j, j ≠ k → t.ctx j = s.ctx j) ∧ (t.part p.val).cmdRes = 0 ∧
        (∀ o ∈ [0, 4, 8, 12], commWord .ctx (t.blk ⟨.ctx, p.val⟩) (0x2000 + 32 * c.toNat + o) =
          stagedWord .ctx (s.blk ⟨.ctx, p.val⟩) (0x2000 + 32 * c.toNat + o)) ∧
        (∀ e ∈ t.tlbs, ∀ y ∈ e.2, y.ctx ≠ k))) ∧
      (x.st = .active ∨ x.st = .faulted → Does (.ctxDestroy m p c) s (fun t =>
        t.ctx k = { x with st := .destroying } ∧ (∀ j, j ≠ k → t.ctx j = s.ctx j) ∧
        (t.part p.val).cmdFor = some c.toNat ∧
        (∀ q ∈ s.queuesOf p.val c.toNat,
          t.q p.val q = { s.q p.val q with
            recs := []
            cmds := discardUnbegun false ((s.q p.val q).cmds.map (fun d =>
              if cut.any (fun r => decide (r.q = queKey p.val q ∧ r.head = d.head)) then { d with phase := .lost }
              else d)) }) ∧
        (∀ j, j ∉ (s.queuesOf p.val c.toNat).map (queKey p.val) → t.que j = s.que j) ∧
        ⟨.destroy k, s.frontIsland p.val, (s.shortestTmo p.val c.toNat * 1000000 * 65536 : Nat)⟩ ∈ t.timers)) ∧
      (x.st = .active ∨ x.st = .faulted → c.toNat ∉ (s.part p.val).destroyed → Does (.ctxReset m p c) s (fun t =>
        (t.ctx k).gen = x.gen ∧ (∀ j, j ≠ k → t.ctx j = s.ctx j) ∧
        ((t.ctx k).st = .active ∧ (t.part p.val).cmdFor = none ∧ (t.part p.val).cmdRes = 0 ∨
          (t.ctx k).st = .resetting ∧ c.toNat ∈ (t.part p.val).resetting ∧ (t.part p.val).cmdFor = some c.toNat) ∧
        (∀ q < s.queQuota p.val, t.qCtx p.val q = c.toNat →
          (t.q p.val q).cmds = [] ∧ (t.q p.val q).recs = [] ∧ t.qEnable p.val q = false))))

/-- R68: once every begun command of a DESTROYING context has retired, or its bound has passed, its work is removed and
it ends FREE; while an engine still holds work of it, it waits among the resets that run. A queue that drains reads
DISABLED once its last command has retired, and no buffer or slot is claimed by it any more (R72, R129). -/
def Obligations.DestroyAndDrainingEnd : Prop :=
  (∀ (p : Fin 8) (c : BitVec 8) (s : State),
    let k := ctxKey p.val c.toNat
    (s.ctx k).st = .destroying → c.toNat < s.ctxQuota p.val → c.toNat ∉ (s.part p.val).resetting →
    (∀ q ∈ s.queuesOf p.val c.toNat, ∀ d ∈ (s.q p.val q).cmds, d.phase = .stuck) →
    Does (.destroyFinish p c) s (fun t => (t.ctx k).gen = (s.ctx k).gen ∧
      ((t.ctx k).st = .free ∨ (t.ctx k).st = .destroying ∧ c.toNat ∈ (t.part p.val).resetting) ∧
      (∀ j, j ≠ k → t.ctx j = s.ctx j))) ∧
  (∀ (p : Fin 8) (c : BitVec 8) (s : State),
    let k := ctxKey p.val c.toNat
    (s.ctx k).st = .destroying → c.toNat < s.ctxQuota p.val → s.expired (.destroy k) = true →
    Does (.destroyTimeout p c) s (fun t => (t.ctx k).gen = (s.ctx k).gen ∧
      ((t.ctx k).st = .free ∨ (t.ctx k).st = .resetting ∧ c.toNat ∈ (t.part p.val).resetting) ∧
      (∀ j, j ≠ k → t.ctx j = s.ctx j))) ∧
  (∀ (p : Fin 8) (q : Fin 2048) (s : State), (s.q p.val q.val).draining = true →
    (∀ d ∈ (s.q p.val q.val).cmds, d.phase = .stuck) →
    Does (.queueDrainEnd p q) s (fun t =>
      t.q p.val q.val = { s.q p.val q.val with draining := false, halted := false, recs := [], cmds := [] } ∧
      (∀ j, j ≠ queKey p.val q.val → t.que j = s.que j) ∧
      (∀ k, ∀ x ∈ [(t.mxe k).act.claim, (t.mxe k).shd.claim, (t.mxe k).slot0.claim, (t.mxe k).slot1.claim],
        x ≠ some (queKey p.val q.val))))

/-- R73: what a queue does with a doorbell value, counted at PCI Express where it comes from the host (R395) and after the
posted writes that its function made before (R335): ignored
with DB_IGNORED where the queue is not enabled, ignored with DB_STALE behind the accepted TAIL, a queue-overflow fault
where it names more records than the ring holds, and else it is the new accepted TAIL. What names no queue changes
nothing, and a read of BAR4 answers zero. -/
def Obligations.DoorbellMovesTheAcceptedTail : Prop :=
  ∀ (path : DbPath) (v : W32) (s : State) (p q : Nat),
    let u : State := match dbFn path with
      | some fn => (s.countIo 0x0602 (dbBytes path)).flushPosted fn
      | none => s
    let x := u.q p q
    (u.dbQueue path = none → (∀ fn slot, path ≠ .bar4Read fn slot) → exec (.doorbell path v) s = .next u) ∧
    (∀ fn slot, path = .bar4Read fn slot → u.pcx.up = true → (u.func fn.val).present = true →
      exec (.doorbell path v) s = .next (u.emit (.completion fn.val true [0, 0, 0, 0]))) ∧
    (u.dbQueue path = some (p, q) →
    ((u.qEnabled p q = false ∨ x.draining = true) →
      exec (.doorbell path v) s = .next (u.flag .que p (0x4000 + 4 * q) (bit 27))) ∧
    (u.qEnabled p q = true → x.draining = false →
      (2 ^ 31 ≤ (v - x.tail).toNat → Does (.doorbell path v) s (fun t =>
        t.flags .que p (0x4000 + 4 * q) = u.flags .que p (0x4000 + 4 * q) ||| bit 28 ∧ t.ques = u.ques ∧
        t.except [.blocks, .tals] = u.except [.blocks, .tals])) ∧
      ((v - x.tail).toNat < 2 ^ 31 → u.qSize p q < (v - x.head).toNat →
        exec (.doorbell path v) s = .next (u.raise p (u.queFault p q ⟨0x05, 0, v.toNat, 2, 0, 0x7F⟩))) ∧
      ((v - x.tail).toNat < 2 ^ 31 → (v - x.head).toNat ≤ u.qSize p q → Does (.doorbell path v) s (fun t =>
        t.q p q = { x with tail := v } ∧ (∀ j, j ≠ queKey p q → t.que j = u.que j) ∧
        t.except [.ques, .timers] = u.except [.ques, .timers]))))

/-- R74, R75: a queue reads at most 8 records at once, never at or beyond the accepted TAIL, and HEAD counts each; a record
that makes its command whole puts the command behind those in flight, another waits for the rest. A queue that may not
fetch changes nothing. -/
def Obligations.QueueFetchesBelowTail : Prop :=
  (∀ (p : Fin 8) (q : Fin 2048) (n : Fin 9) (s t : State), exec (.queueFetch p q n) s = .next t →
    (t.q p.val q.val).tail = (s.q p.val q.val).tail ∧
    ((t.q p.val q.val).head - (s.q p.val q.val).head).toNat ≤ 8 ∧
    ((t.q p.val q.val).head - (s.q p.val q.val).head).toNat ≤
      ((s.q p.val q.val).tail - (s.q p.val q.val).head).toNat) ∧
  (∀ (p : Fin 8) (q : Fin 2048) (s u : State) (bs : List Byte),
    let x := s.q p.val q.val
    let recs := x.recs ++ [(List.range 8).map (fun i => BitVec.ofNat 64 (leNat ((bs.drop (8 * i)).take 8)))]
    s.mayFetch p.val q.val = true → x.head ≠ x.tail → (x.recs ≠ [] ∨ x.cmds.length < 32) →
    s.loadVa (tlbPart p.val) p.val (s.qCtx p.val q.val) (s.qBase p.val q.val + 64 * (x.head.toNat % s.qSize p.val q.val)) 64
      = (.ok bs, u) →
    Does (.queueFetch p q 1) s (fun t =>
      (recs.length ≠ 1 + bitsOf ((recs.getD 0 []).getD 0 0).toNat 63 60 →
        t.q p.val q.val = { x with head := x.head + 1, recs := recs }) ∧
      (recs.length = 1 + bitsOf ((recs.getD 0 []).getD 0 0).toNat 63 60 → ∃ bm,
        t.q p.val q.val = { x with head := x.head + 1, recs := []
                                   cmds := x.cmds ++ [{ mkCmd (x.head + 1 - BitVec.ofNat 32 recs.length) recs.flatten
                                                        with book := bm }] }))) ∧
  (∀ (p : Fin 8) (q : Fin 2048) (n : Fin 9) (s : State), s.mayFetch p.val q.val = false →
    exec (.queueFetch p q n) s = .next s)

/-- R80, R82: a command that has begun, or behind an earlier one with a wait unmet, does not begin; one whose header fails
its check halts the queue and charges the context; one that conflicts with an earlier command, or has FENCE before an
uncompleted one, waits; else, once its waits are met and its engine takes it, it has begun with its read and write sets
held. A session record goes to the lead keeper pair of a running runtime (R89). -/
def Obligations.CommandsBeginInOrder : Prop :=
  ∀ (p : Fin 8) (q : Fin 2048) (i : Fin 32) (s : State) (c : Cmd),
    (s.q p.val q.val).cmds[i.val]? = some c →
    ((c.phase ≠ .fetched ∨ earlierMet (s.q p.val q.val).cmds i.val = false ∨ s.cfgHeld p.val q.val = true) →
      exec (.commandBegin p q i) s = .next s) ∧
    (c.phase = .fetched → earlierMet (s.q p.val q.val).cmds i.val = true → s.cfgHeld p.val q.val = false →
      (∀ b, s.headerBad p.val q.val c = some b → exec (.commandBegin p q i) s =
        .next ((s.raise p.val (s.cmdFault p.val q.val c b 4 p.val 0)).haltAt p.val q.val i.val)) ∧
      (∀ d, s.headerBad p.val q.val c = none →
        let u := s.registerWaits p.val q.val i.val
        (u.q p.val q.val).cmds[i.val]? = some d →
        ((d.phase ≠ .fetched ∨ d.allMet = false) → exec (.commandBegin p q i) s = .next u) ∧
        (d.phase = .fetched → d.allMet = true →
          (d.engine ≠ 6 → d.fence = true → (∃ e ∈ (u.q p.val q.val).cmds.take i.val, e.past = false) →
            exec (.commandBegin p q i) s = .next u) ∧
          (∀ pl, d.engine ≠ 6 → chkBody u p.val q.val d = .ok pl → u.held p.val q.val i.val pl.rd pl.wr = true →
            exec (.commandBegin p q i) s = .next u) ∧
          (∀ v hs rd wr ch, d.engine ≠ 6 → u.attempt p.val q.val i.val d = .go v hs rd wr ch →
            u.outranked p.val q.val d = false → Does (.commandBegin p q i) s (fun t =>
              (t.q p.val q.val).cmds = (u.q p.val q.val).cmds.set i.val
                { d with phase := .begun, held := hs, rd := rd, wr := wr
                         began := v.cycle (islandCode (v.cmdIsland p.val d)) } ∧
              (∀ j, j ≠ queKey p.val q.val → t.que j = u.que j))) ∧
          (∀ k, d.engine = 6 → u.sessionReady p.val q.val i.val = true → u.outranked p.val q.val d = false →
            u.leadOf p.val = some k → Does (.commandBegin p q i) s (fun t =>
              (t.pair k).taken = (u.pair k).taken ++ [⟨queKey p.val q.val, d.head, none⟩] ∧
              (t.q p.val q.val).cmds = (u.q p.val q.val).cmds.set i.val
                { d with phase := .begun, held := [], rd := [], wr := []
                         began := u.cycle (islandCode (u.cmdIsland p.val d)) })))))

/-- R83, R336: the oldest command whose release is neither on its way nor faulted retires, without a release where it has
none or an earlier command never completes; else its release goes on its way to the mark's home, after the reads that flush
the host writes it covers. While it has not completed, none behind it releases. A command that never completes leaves, and
the commands behind it retire without their releases. -/
def Obligations.CommandsRetireInOrder : Prop :=
  ∀ (p : Fin 8) (q : Fin 2048) (s : State) (c : Cmd),
    let x := s.q p.val q.val
    let i := retireIdx x.cmds
    x.cmds[i]? = some c →
    (c.phase ≠ .complete → c.phase ≠ .lost → exec (.commandRetire p q) s = .next s) ∧
    (c.phase = .complete → (waitValue (c.word 5) = 0 ∨ c.noRel = true) → Does (.commandRetire p q) s (fun t =>
      t.q p.val q.val = { x with cmds := x.cmds.eraseIdx i } ∧ t.rels = s.rels ∧ t.mem = s.mem ∧
      (∀ j, j ≠ queKey p.val q.val → t.que j = s.que j))) ∧
    (∀ a u v, c.phase = .complete → waitValue (c.word 5) ≠ 0 → c.noRel = false →
      s.markPhys p.val (s.qCtx p.val q.val) (waitMark (c.word 5)) true = (.ok a, u) →
      u.relFlush p.val q.val (waitScope (c.word 5)) a = (none, v) → Does (.commandRetire p q) s (fun t =>
        t.rels = s.rels ++ [⟨a, waitValue (c.word 5), waitScope (c.word 5), u.cmdParty p.val c,
          some (queKey p.val q.val, c.head)⟩] ∧
        (t.q p.val q.val).cmds = x.cmds.set i { c with phase := .releasing } ∧ t.mem = s.mem ∧
        (∀ j, j ≠ queKey p.val q.val → t.que j = s.que j))) ∧
    (c.phase = .lost → s.chainOf ⟨queKey p.val q.val, c.head, none⟩ = none → exec (.commandRetire p q) s =
      .next (s.setQ p.val q.val { x with
        cmds := x.cmds.take i ++ (x.cmds.drop (i + 1)).map (fun d => { d with noRel := true }) }))

/-- R85, R86: a release performs mark := max(mark, VALUE) at its home and changes no other byte, and its command retires;
at the host it goes through PCI Express. A wait is met once its mark is at least VALUE, by a notice from the home or by a
poll of the host, and a wait that is met stays met. -/
def Obligations.ReleasesRaiseMarksAndWaitsCompare : Prop :=
  (∀ (k : Nat) (s : State) (r : Release) (old : Nat), s.rels[k]? = some r → r.addr < hostBase → r.value < 2 ^ 64 →
    s.markValue r.addr = .ok old → Does (.markReleaseAtHome k) s (fun t =>
      t.readLe r.addr 8 = max (s.readLe r.addr 8) r.value ∧
      (∀ a, ¬ (r.addr ≤ a ∧ a < r.addr + 8) → t.readByte a = s.readByte a) ∧ t.rels = s.rels.eraseIdx k ∧
      (∀ p q c, r.cmd = some (queKey p q, c.head) → s.queOwner (queKey p q) = some (p, q) →
        (s.que (queKey p q)).cmds.find? (fun d => decide (d.head = c.head)) = some c → c.phase = .releasing →
        (t.que (queKey p q)).cmds =
          (s.que (queKey p q)).cmds.eraseIdx (cmdIdx (s.que (queKey p q)).cmds c.head)))) ∧
  (∀ (k : Nat) (s : State) (r : Release), s.rels[k]? = some r → hostBase ≤ r.addr →
    let fn := match r.cmd with
      | some (dq, _) => (s.queOwner dq).elim 0 (fun x => s.fnOf x.1)
      | none => (s.blkPart r.party).elim 0 s.fnOf
    (s.func fn).atomicEn = true → s.hostOk fn = true → exec (.markReleaseAtHome k) s =
      .next { s with rels := s.rels.eraseIdx k, pcx := { s.pcx with reqs := s.pcx.reqs ++ [.release r] } }) ∧
  (∀ (p : Fin 8) (q : Fin 2048) (w : Fin 4) (i : Nat) (c : Cmd) (s : State), waitingIdx (s.q p.val q.val) = some i →
    (s.q p.val q.val).cmds[i]? = some c → c.regd = true →
    (c.waitMet w.val = true → exec (.markNotify p q w) s = .next s ∧ ∀ v, exec (.markPoll p q w v) s = .next s) ∧
    (∀ a u, c.waitMet w.val = false →
      s.markPhys p.val (s.qCtx p.val q.val) (waitMark (c.word (1 + w.val))) false = (.ok a, u) →
      (∀ v, a < hostBase → u.markValue a = .ok v →
        (v < waitValue (c.word (1 + w.val)) → exec (.markNotify p q w) s = .next u) ∧
        (waitValue (c.word (1 + w.val)) ≤ v → Does (.markNotify p q w) s (fun t =>
          (t.q p.val q.val).cmds = (s.q p.val q.val).cmds.set i { c with waits := c.waits.set w.val true } ∧
          t.mem = s.mem))) ∧
      (∀ v : W64, hostBase ≤ a → u.hostOk (u.fnOf p.val) = true →
        (v.toNat < waitValue (c.word (1 + w.val)) →
          exec (.markPoll p q w (some v)) s = .next (u.hostAsk (u.fnOf p.val) a 8)) ∧
        (waitValue (c.word (1 + w.val)) ≤ v.toNat → Does (.markPoll p q w (some v)) s (fun t =>
          (t.q p.val q.val).cmds = (s.q p.val q.val).cmds.set i { c with waits := c.waits.set w.val true } ∧
          t.mem = s.mem)))))

/-- R81, R87: NOP does nothing but complete; WRITE_IMM writes W7 to the address in W6, through the pages it holds, and
takes the fault of a place that has gone since it began;
MARK_ADD adds W7 to the mark at its home, modulo 2^64, and to a mark at the host by an atomic that leaves the device. -/
def Obligations.QueueLocalCommandsAct : Prop :=
  ∀ (p : Fin 8) (q : Fin 2048) (s : State) (c : Cmd), q.val < s.queQuota p.val →
    let r : CmdRef := ⟨queKey p.val q.val, c.head, none⟩
    (localCmd (s.q p.val q.val) 0x00 = some c → Does (.nop p q) s (fun t => Completed s t r ∧ t.mem = s.mem ∧
      ∀ j, j ≠ r.q → t.que j = s.que j)) ∧
    (∀ a, localCmd (s.q p.val q.val) 0x01 = some c → a + 8 ≤ hostBase →
      s.heldAddr p.val c.held (bitsOf (c.word 6) 47 0) = some a →
      s.heldAddr p.val c.held (bitsOf (c.word 6) 47 0 + 7) = some (a + 7) →
      s.heldBad p.val c.held (bitsOf (c.word 6) 47 0) 8 = none →
      Does (.writeImm p q) s (fun t => Completed s t r ∧ t.readLe a 8 = c.word 7 ∧
        (∀ b, ¬ (a ≤ b ∧ b < a + 8) → t.readByte b = s.readByte b) ∧ ∀ j, j ≠ r.q → t.que j = s.que j)) ∧
    (∀ b, localCmd (s.q p.val q.val) 0x01 = some c → s.heldBad p.val c.held (bitsOf (c.word 6) 47 0) 8 = some b →
      exec (.writeImm p q) s = .next (s.failRef r b 4 p.val 0)) ∧
    (∀ a u v, localCmd (s.q p.val q.val) 0x02 = some c →
      s.markPhys p.val (s.qCtx p.val q.val) (bitsOf (c.word 6) 15 0) true = (.ok a, u) →
      (a < hostBase → u.markValue a = .ok v → Does (.markAdd p q) s (fun t => Completed s t r ∧
        t.readLe a 8 = (s.readLe a 8 + c.word 7) % 2 ^ 64 ∧
        (∀ b, ¬ (a ≤ b ∧ b < a + 8) → t.readByte b = s.readByte b) ∧ ∀ j, j ≠ r.q → t.que j = s.que j)) ∧
      (hostBase ≤ a → (u.func (u.fnOf p.val)).atomicEn = true → u.hostOk (u.fnOf p.val) = true →
        Does (.markAdd p q) s (fun t => Completed s t r ∧ t.mem = s.mem ∧
          .hostAtomic (u.fnOf p.val) (u.carry (u.fnOf p.val) a).1 .add 8 (c.word 7) ∈ t.out)))

/-! ## Matrix arrays, accumulator slots and the quantiser -/

/-- R114, R116, R117, R128, R129: a LOADW that begins takes the shadow buffer, which enters LOADING with its K_VALID and
N_VALID; at its end the buffer holds its block, decoded, reads READY, and the command completes. A PASS with ACC = 0 takes
its slot, and both under COMP; it waits for a SAVE or RESTORE of a slot that it addresses (R150). At
the swap the READY shadow becomes the active buffer with its claim and the shadow becomes EMPTY; where the block was lost,
the pass takes its fault without issuing and its queue halts. -/
def Obligations.WeightBlocksLoadAndSwap : Prop :=
  (∀ (t : Fin 48) (s : State) (x : LoadOp) (c : Cmd),
    let m := s.mxe t.val
    m.loads.find? (fun y => !y.started) = some x → s.cmdAt x.ref = some c → c.book ≠ .stale →
    Does (.mxeLoadw t) s (fun u =>
      u.mxe t.val = { m with
        shd := { WBuf.reset with st := .loading, kValid := ldK c, nValid := ldN c, claim := some x.ref.q }
        loads := m.loads.map (fun y => if y.ref = x.ref then { y with started := true } else y) } ∧
      (∀ k, k ≠ t.val → u.mxe k = s.mxe k) ∧ u.except [.mxes, .timers] = s.except [.mxes, .timers])) ∧
  (∀ (t : Fin 48) (s : State) (x : LoadOp) (c : Cmd) (p q : Nat),
    let m := s.mxe t.val
    let b := m.book (ldBook c)
    m.loads.find? (·.started) = some x → s.cmdAt x.ref = some c → s.queOwner x.ref.q = some (p, q) →
    (ldCoded c = true → ∀ k < ldK c, (s.codedRow p c b k).1.isSome = true) →
    s.loadMeets t.val p x.ref c = .go →
    s.ldgHolds ⟨.ldgTile, t.val⟩ 1 = false →
    Does (.loadwComplete t) s (fun u =>
      (u.mxe t.val).shd.st = .ready ∧ (u.mxe t.val).shd.kValid = ldK c ∧ (u.mxe t.val).shd.nValid = ldN c ∧
      (u.mxe t.val).shd.narrow = fmtNarrow (ldFmt c) ∧ (u.mxe t.val).shd.claim = some x.ref.q ∧
      (u.mxe t.val).shd.words = blockWords ((List.range (ldK c)).map (fun k =>
        if ldCoded c then (s.codedRow p c b k).1.getD [] else s.plainRow p c k)) ∧
      (u.mxe t.val).act = m.act ∧ (u.mxe t.val).loads = m.loads.filter (fun y => decide (y.ref ≠ x.ref)) ∧
      (∀ k, k ≠ t.val → u.mxe k = s.mxe k) ∧ (x.ref.stage = none → Completed s u x.ref))) ∧
  (∀ (t : Fin 48) (s : State) (x : PassOp) (c : Cmd),
    let m := s.mxe t.val
    m.passes.find? (fun y => !y.started) = some x → s.cmdAt x.ref = some c →
    (m.saveTakes (psSlot c) (psComp c) = true → exec (.mxePass t) s = .next s) ∧
    (m.saveTakes (psSlot c) (psComp c) = false → Does (.mxePass t) s (fun u =>
      (∀ i < 2, ((u.mxe t.val).slot i).claim =
        if psAcc c = false ∧ (i = psSlot c ∨ psComp c = true) then some x.ref.q else (m.slot i).claim) ∧
      (∀ i < 2, ((u.mxe t.val).slot i).rows = (m.slot i).rows) ∧ (u.mxe t.val).act = m.act ∧ (u.mxe t.val).shd = m.shd ∧
      (u.mxe t.val).passes = updPass m.passes x.ref (fun y => { y with started := true, swapped := !(psSwap c) }) ∧
      (∀ k, k ≠ t.val → u.mxe k = s.mxe k) ∧ u.except [.mxes, .timers] = s.except [.mxes, .timers]))) ∧
  (∀ (t : Fin 48) (s : State) (x : PassOp),
    let m := s.mxe t.val
    m.passes.find? (fun y => y.started && !y.swapped) = some x →
    (m.shd.st = .ready → m.shd.claim = some x.ref.q → passesBefore s m.passes x.ref = true →
      exec (.passSwap t) s = .next (s.setMxe t.val { m with
        act := m.shd, shd := .reset, swapIssued := false
        passes := updPass m.passes x.ref (fun y => { y with swapped := true }) })) ∧
    (m.shd.st = .loading → m.shd.claim = some x.ref.q → exec (.passSwap t) s = .next s) ∧
    ((m.shd.st = .empty ∨ m.shd.claim ≠ some x.ref.q) → Does (.passSwap t) s (fun u =>
      (u.mxe t.val).passes = m.passes.filter (fun y => decide (y.ref ≠ x.ref)) ∧ (u.mxe t.val).act = m.act ∧
      (u.mxe t.val).inArray = m.inArray ∧ ((s.queOwner x.ref.q).isSome = true → (s.cmdAt x.ref).isSome = true →
        (u.que x.ref.q).halted = true))))

/-- R118, R119, R120, R122: a ready cycle outside the ramp issues one row, or two in the narrow lane; inside the ramp the
credit decides, and 24 of its 48 ready cycles issue. A pass completes when its last row has landed, and an array idle for
256 tile cycles gates every cell. -/
def Obligations.PassesIssueThroughTheRamp : Prop :=
  (∀ (t : Fin 48) (s : State) (x : PassOp) (c : Cmd),
    let m := s.mxe t.val
    let p := ((s.queOwner x.ref.q).map (·.1)).getD 0
    let n := min (if s.passNarrow p c m.act then 2 else 1) (psM c - x.next)
    s.issuing t.val = some (x, c) → (∀ d ∈ m.drains, ∀ i < 2, ∀ r, drainHolds s drSmode d x.order i r = false) →
    (∀ j < 2, s.passGate t.val p x.ref c (passElems (psTrans c) m.act) (x.next + j) = .go) →
    s.ldgHolds ⟨.ldgTile, t.val⟩ 1 = false →
    (m.rampNow.on = false ∨ (rampStep m.rampNow).1 = true → Does (.mxeIssue t) s (fun u =>
      (u.mxe t.val).inArray = m.inArray ++ [⟨x.ref, passElems (psTrans c) m.act, (List.range n).map (fun j =>
        (psRow0 c + x.next + j, passWords s p c m.act (x.next + j)))⟩] ∧
      (u.mxe t.val).passes = updPass m.passes x.ref (fun y => { y with next := y.next + n }) ∧
      (u.mxe t.val).swapIssued = true ∧ (u.mxe t.val).gated = false ∧ (u.mxe t.val).idleFor = 0 ∧
      (u.mxe t.val).slot0 = m.slot0 ∧ (u.mxe t.val).slot1 = m.slot1 ∧ (∀ k, k ≠ t.val → u.mxe k = s.mxe k))) ∧
    (m.rampNow.on = true → (rampStep m.rampNow).1 = false → Does (.mxeIssue t) s (fun u =>
      (u.mxe t.val).inArray = m.inArray ∧ (u.mxe t.val).passes = m.passes ∧
      (u.mxe t.val).ramp = (rampStep m.rampNow).2))) ∧
  (let run := (List.range 48).foldl (fun (a : Nat × Ramp) _ =>
      (a.1 + (if (rampStep a.2).1 then 1 else 0), (rampStep a.2).2)) (0, ⟨true, 0, 0⟩)
   run.1 = 24 ∧ run.2.on = false) ∧
  (∀ (t : Fin 48) (s : State) (x : PassOp) (c : Cmd),
    let m := s.mxe t.val
    m.passes.find? (fun y => match s.cmdAt y.ref with
      | some d => decide (psM d ≤ y.landed)
      | none => true) = some x →
    s.cmdAt x.ref = some c → (s.queOwner x.ref.q).isSome = true →
    Does (.passComplete t) s (fun u =>
      (u.mxe t.val).passes = m.passes.filter (fun y => decide (y.ref ≠ x.ref)) ∧ (u.mxe t.val).slot0 = m.slot0 ∧
      (u.mxe t.val).slot1 = m.slot1 ∧ (x.ref.stage = none → Completed s u x.ref))) ∧
  (∀ (t : Fin 48) (s : State), (256 ≤ (s.mxe t.val).idleFor →
      exec (.arrayIdleGate t) s = .next (s.setMxe t.val { s.mxe t.val with gated := true })) ∧
    ((s.mxe t.val).idleFor < 256 → exec (.arrayIdleGate t) s = .next s))

/-- R137, R139: a row that leaves the array is added to its slot row element by element, or replaces it with ACC = 0, each
sum rounded to A36 to nearest in strict mode and stochastically in fast mode; COUNT and SEG take the issue's products, and
every other row of the slot stays. The statement is of an issue of one row, without COMP, fold or overflow. -/
def Obligations.RowAdditionRoundsOnce : Prop :=
  ∀ (t : Fin 48) (s : State) (i : Issue) (rest : List Issue) (r : Nat) (xs : List Machine.Num) (c : Cmd) (p q : Nat),
    let m := s.mxe t.val
    let row := (m.slot (psSlot c)).row r
    let sum := fun (n : Nat) => if psAcc c then Machine.Num.add (psStrict c) false (a36Num (row.elem n)) (xs.getD n (.fin false 0 0))
      else xs.getD n (.fin false 0 0)
    m.inArray = i :: rest → i.rows = [(r, xs)] → s.cmdAt i.ref = some c → s.queOwner i.ref.q = some (p, q) →
    psComp c = false → row.comp = false → row.off64 = false → row.seg.toNat + i.k ≤ 2 ^ 20 →
    (∀ n < xs.length, ∀ md, (a36Num (BitVec.ofNat 36 (fA36.encode md (!(psStrict c)) (sum n)))).isInf = false) →
    Does (.slotRowAdd t) s (fun u =>
      let row' := ((u.mxe t.val).slot (psSlot c)).row r
      (∀ n < xs.length, ∃ md, (psStrict c = true → md = .near) ∧ (psStrict c = false → ∃ d < 65536, md = .stoch d) ∧
        row'.elem n = BitVec.ofNat 36 (fA36.encode md (!(psStrict c)) (sum n))) ∧
      (∀ n, xs.length ≤ n → row'.elem n = row.elem n) ∧
      row'.count = (if psAcc c then bumpCount row.count i.k else BitVec.ofNat 32 i.k) ∧
      row'.seg = (if psAcc c then bumpSeg row.seg i.k else BitVec.ofNat 21 i.k) ∧
      row'.comp = false ∧ row'.off64 = false ∧
      (∀ k, k ≠ r → ((u.mxe t.val).slot (psSlot c)).row k = (m.slot (psSlot c)).row k) ∧
      (u.mxe t.val).inArray = rest ∧
      (u.mxe t.val).passes = updPass m.passes i.ref (fun y => { y with landed := y.landed + 1 }))

/-- R149, R150: MXE_SAVE and MXE_RESTORE begin for the physical function or a keeper pair of the partition, give BUSY
while one runs or a selected slot is in use, and DENIED to any other master. A SAVE that succeeds stores its record at the
committed address; one that fails, as at a place that is no memory, gives ADDRESS and writes nothing. A RESTORE of a valid
record without fold records replaces every selected slot and claims it for QUEUE; one that cannot read its record gives
ADDRESS and leaves the selected slots zero. R109, R110: RESEED begins a seeding, whose end counts it. -/
def Obligations.SlotsSaveAndRestore : Prop :=
  (∀ (m : Master) (t : Fin 48) (b : BitVec 2) (q : BitVec 11) (s : State), s.reaches m ⟨.mxe, t.val⟩ = true →
    let x := s.mxe t.val
    let may := s.pfOrKp m ((s.partOfTile t.val).getD 8)
    let busy := x.save.isSome = true ∨ (b.getLsbD 0 = true ∧ s.slotBusy t.val 0 = true) ∨
      (b.getLsbD 1 = true ∧ s.slotBusy t.val 1 = true)
    (may = false → ∀ i ∈ [Instr.mxeSave m t b, .mxeRestore m t b q],
      exec i s = .next (s.setMxe t.val { x with saveRes := 0x04 })) ∧
    (may = true → b ≠ 0 → busy → ∀ i ∈ [Instr.mxeSave m t b, .mxeRestore m t b q],
      exec i s = .next (s.setMxe t.val { x with saveRes := 0x01 })) ∧
    (may = true → b ≠ 0 → ¬ busy →
      exec (.mxeSave m t b) s = .next (s.setMxe t.val { x with save := some ⟨false, b, 0, s.saveAddr t.val⟩ }) ∧
      exec (.mxeRestore m t b q) s = .next (s.setMxe t.val { x with save := some ⟨true, b, q, s.saveAddr t.val⟩ }))) ∧
  (∀ (t : Fin 48) (s : State) (o : SaveOp), (s.mxe t.val).save = some o → o.restore = false →
    (∀ g ∈ s.partsOf, (s.part g.num).rstRuns = [] ∧ (s.part g.num).resetting = []) →
    (o.addr + (s.saveRecord t.val o.slots).length ≤ hostBase →
      s.recordReach o.addr (s.saveRecord t.val o.slots).length = true → Does (.saveRestoreDone t true) s (fun u =>
      u.readBytes o.addr (s.saveRecord t.val o.slots).length = s.saveRecord t.val o.slots ∧
      (∀ a, ¬ (o.addr ≤ a ∧ a < o.addr + (s.saveRecord t.val o.slots).length) → u.readByte a = s.readByte a) ∧
      u.mxe t.val = { s.mxe t.val with save := none, saveRes := 0x00 })) ∧
    (∀ ok, (ok = true → s.recordReach o.addr (s.saveRecord t.val o.slots).length = false) →
      Does (.saveRestoreDone t ok) s (fun u => u.mxe t.val = { s.mxe t.val with save := none, saveRes := 0x02 } ∧
        (∀ k, k ≠ t.val → u.mxe k = s.mxe k) ∧ u.except [.mxes] = s.except [.mxes]))) ∧
  (∀ (t : Fin 48) (s : State) (o : SaveOp), (s.mxe t.val).save = some o → o.restore = true →
    (∀ g ∈ s.partsOf, (s.part g.num).rstRuns = [] ∧ (s.part g.num).resetting = []) →
    let rd := fun off n => s.readLe (o.addr + off) n
    (o.addr + rd 8 4 ≤ hostBase → saveHeaderOk rd o.slots = true → rd 6 1 = 0 → s.recordReads o.addr 64 = true →
      s.recordReads o.addr (rd 8 4) = true →
      (∀ i ∈ selSlots o.slots, ∀ r < 512, rowWordOk (rd (sectionAt o.slots 0 i + 8 * r) 8) false = true) →
      Does (.saveRestoreDone t true) s (fun u => (u.mxe t.val).save = none ∧ (u.mxe t.val).saveRes = 0x00 ∧
        (∀ i ∈ selSlots o.slots,
          (∀ x, s.queByNum o.queue.toNat = some x → ((u.mxe t.val).slot i).claim = some (queKey x.1 x.2)) ∧
          ∀ r < 512, ((u.mxe t.val).slot i).row r = readRow (rd (sectionAt o.slots 0 i + 8 * r) 8)
            (rd (sectionAt o.slots 0 i + 4096 + 1152 * r) 1152)) ∧
        (∀ i < 2, i ∉ selSlots o.slots → (u.mxe t.val).slot i = (s.mxe t.val).slot i) ∧ u.mem = s.mem)) ∧
    (∀ ok, (ok = true → s.recordReads o.addr 64 = false) → Does (.saveRestoreDone t ok) s (fun u =>
      (u.mxe t.val).save = none ∧ (u.mxe t.val).saveRes = 0x02 ∧
      (∀ i < 2, (u.mxe t.val).slot i = if i ∈ selSlots o.slots then .reset else (s.mxe t.val).slot i) ∧ u.mem = s.mem))) ∧
  (∀ (m : Master) (t : Fin 48) (s : State), s.reaches m ⟨.tile, t.val⟩ = true →
    exec (.reseed m t) s = .next (s.setTile t.val { s.tile t.val with reseeding := true })) ∧
  (∀ (t : Fin 48) (s : State), (s.tile t.val).reseeding = true →
    exec (.reseedDone t) s = .next (s.setTile t.val { s.tile t.val with
      reseeding := false, reseeds := (s.tile t.val).reseeds + 1 }))

/-- R121, R126, R150, R156, R158, R161, R168: a drain starts once no SAVE or RESTORE has its slot, reads its rows in order, converts and stores each, and leaves the slot as it
is; where the amax calls for it, it reads every row again with the new reciprocal, once; at its end the record's amax and
event words take the maximum and the OR, and the command completes. -/
def Obligations.DrainsConvertRowByRow : Prop :=
  (∀ (t : Fin 48) (s : State) (d : DrainOp) (ds : List DrainOp), (s.mxe t.val).drains = d :: ds →
    (∀ c, s.cmdAt d.ref = some c → (s.mxe t.val).saveTakes (drSlot c) d.comp = true →
      exec (.mxeDrain t) s = .next s) ∧
    ((∀ c, s.cmdAt d.ref = some c → (s.mxe t.val).saveTakes (drSlot c) d.comp = false) → Does (.mxeDrain t) s (fun u =>
      u.mxe t.val = { s.mxe t.val with
        drains := (s.mxe t.val).drains.map (fun x => if x.ref = d.ref then { d with started := true } else x) } ∧
      u.except [.mxes, .timers] = s.except [.mxes, .timers]))) ∧
  (∀ (t : Fin 48) (s : State) (d : DrainOp) (c : Cmd) (p : Nat),
    let m := s.mxe t.val
    let w := if drSmode c = 1 ∧ d.next = 0 then s.writeChannels t.val p d c else (s, d)
    let cv := w.1.convRow t.val (drOfmt c) (drZp c) (drOrnd c) (!(drStrict c)) (w.1.drainScaled t.val w.2 c d.next).1
    s.drainOf t.val = some (d, c, p) → d.next < drM c → (∀ r, s.rowLanded t.val d c r = true) →
    s.ldgHolds ⟨.ldgTile, t.val⟩ 1 = false → s.drainGate t.val p c d.next = .go →
    (cv.1.any (·.nanFault) = false → Does (.drainRowRead t) s (fun u =>
      (∃ st fin, (u.mxe t.val).drains = m.drains.map (fun x =>
        if x.ref = d.ref then { w.2 with next := d.next + 1, stat := st, final := fin } else x)) ∧
      (u.mxe t.val).slot0 = m.slot0 ∧ (u.mxe t.val).slot1 = m.slot1 ∧
      (drSmode c ≠ 2 → u.mem = (cv.2.heldCodes p c.held (drDaddr c + d.next * drPitch c) (fmtBits (drOfmt c))
        (cv.1.map (·.code))).mem))) ∧
    (cv.1.any (·.nanFault) = true → Does (.drainRowRead t) s (fun u =>
      (u.mxe t.val).drains = m.drains.filter (fun x => decide (x.ref ≠ d.ref)) ∧ (u.que d.ref.q).halted = true ∧
      (u.mxe t.val).slot0 = m.slot0 ∧ (u.mxe t.val).slot1 = m.slot1))) ∧
  (∀ (t : Fin 48) (s : State) (d : DrainOp) (c : Cmd) (p : Nat), s.drainOf t.val = some (d, c, p) → drM c ≤ d.next →
    (d.second = true → exec (.drainRetry t) s = .next s) ∧
    (∀ r small, d.second = false → retryOf c d.recip d.stat.amax = .make r small → Does (.drainRetry t) s (fun u =>
      u.mxe t.val = { s.mxe t.val with drains := (s.mxe t.val).drains.map (fun x => if x.ref = d.ref then
        { d with next := 0, second := true, recip := r, scaleUsed := recipUp r
                 stat := { DrainStat.reset with flags := if small then 1 else 2 } } else x) } ∧ u.mem = s.mem))) ∧
  (∀ (t : Fin 48) (s : State) (d : DrainOp) (c : Cmd) (p a : Nat),
    let again := retryOf c d.recip d.stat.amax
    let flags := d.stat.flags ||| (if ¬ d.second ∧ again = .skip then 4 else 0) |||
      (if d.stat.clamps ≠ 0 then 8 else 0) ||| (if d.stat.nonfin ≠ 0 then 32 else 0)
    s.drainOf t.val = some (d, c, p) → drM c ≤ d.next → (d.second = true ∨ ∀ r k, again ≠ .make r k) → drRptEn c = false →
    s.gates t.val p c.held [(true, drSrec c, 64)] = .go → s.ldgHolds ⟨.ldgTile, t.val⟩ 1 = false →
    (∀ i < 8, s.heldAddr p c.held (drSrec c + 12 + i) = some (a + i)) → a + 8 ≤ hostBase →
    Does (.drainComplete t) s (fun u =>
      u.readLe a 4 = max (s.readLe a 4) d.stat.amax.toNat ∧ u.readLe (a + 4) 4 = s.readLe (a + 4) 4 ||| flags.toNat ∧
      (∀ b, ¬ (a ≤ b ∧ b < a + 8) → u.readByte b = s.readByte b) ∧
      (u.mxe t.val).drains = (s.mxe t.val).drains.filter (fun x => decide (x.ref ≠ d.ref)) ∧
      (u.mxe t.val).slot0 = (s.mxe t.val).slot0 ∧ (u.mxe t.val).slot1 = (s.mxe t.val).slot1 ∧
      (d.ref.stage = none → Completed s u d.ref)))

/-! ## Pattern books -/

/-- R181, R182, R186–R188: a BOOKLOAD that begins makes its generation the slot's pending one, and live slots that it
covers become RETIRING; once no LOADW is queued on those, the book is read, becomes live, and the other covered slots hold
no live book. A survey or encode pass that is due runs over its piece by the record as its check read it, each
vector and each row written as it is done, stores its results and completes; it waits where an access that it makes must
wait (R221) or its ledger holds a record (R409), and an access that faults stops it and halts its queue. -/
def Obligations.BooksInstallWhenTheirSlotsAreFree : Prop :=
  (∀ (t : Fin 48) (s : State) (o : BookOp),
    let m := s.mxe t.val
    m.bookOps.find? (fun x => !x.started) = some o → Does (.vxeBookload t) s (fun u =>
      (∀ k, (u.mxe t.val).book k = { m.book k with
        pend := if k = o.slot then some o.gen else (m.book k).pend
        retiring := if k ∈ coveredSlots m o.slot o.shape.toNat then (m.book k).live.isSome else (m.book k).retiring }) ∧
      (u.mxe t.val).bookOps = m.bookOps.map (fun x => if x.ref = o.ref then { x with started := true } else x) ∧
      (∀ k, k ≠ t.val → u.mxe k = s.mxe k) ∧ u.except [.mxes] = s.except [.mxes])) ∧
  (∀ (t : Fin 48) (slot : Fin 8) (s : State) (o : BookOp) (c : Cmd) (p q : Nat),
    let m := s.mxe t.val
    let cov := coveredSlots m o.slot o.shape.toNat
    m.bookOps.find? (fun x => x.started && decide (x.slot = slot.val)) = some o → s.cmdAt o.ref = some c →
    s.queOwner o.ref.q = some (p, q) →
    ((∃ k ∈ cov, (m.book k).live.isSome = true ∧ s.bookRefs t.val k ≠ 0) → exec (.bookInstall t slot) s = .next s) ∧
    ((∀ k ∈ cov, (m.book k).live.isSome = true → s.bookRefs t.val k = 0) →
      s.gate t.val p c.held false o.addr (bookBytes o.shape.toNat) = .go → Does (.bookInstall t slot) s (fun u =>
        (∃ ret, (u.mxe t.val).book o.slot =
            ⟨some o.gen, none, ret, false, o.shape, o.escFmt, s.bookWords p c o.addr o.shape.toNat⟩ ∧
          ((∀ y ∈ m.bookOps, y.ref ≠ o.ref → y.started = false) → ret = false)) ∧
        (o.shape = 1 → (u.mxe t.val).book (o.slot + 1) =
          { BookSlot.reset with paired := true, pend := (m.book (o.slot + 1)).pend }) ∧
        (∀ k ∈ cov, k ≠ o.slot → (o.shape = 1 → k ≠ o.slot + 1) →
          (u.mxe t.val).book k = { BookSlot.reset with pend := (m.book k).pend }) ∧
        (∀ k, k ∉ cov → (u.mxe t.val).book k = m.book k) ∧
        (o.ref.stage = none → ∀ d ∈ (u.que o.ref.q).cmds, d.head = o.ref.head → d.phase = .complete)))) ∧
  (∀ (t : Fin 48) (s : State) (w : VxeWork) (i : Instr) (o : VxeOp) (c : Cmd) (p : Nat),
    (w, i) ∈ [(VxeWork.sample, Instr.vxeSurveySample t), (.build, .vxeSurveyBuild t), (.encode, .vxeEncode t)] →
    s.vxeWork t.val w = some (o, c, p) →
    ((s.vxeStop t.val p c o = .wait ∨ s.ldgHolds ⟨.ldgTile, t.val⟩ 2 = true) → exec i s = .next s) ∧
    (∀ b, s.vxeStop t.val p c o = .bad b → s.ldgHolds ⟨.ldgTile, t.val⟩ 2 = false →
      Does i s (fun u => (u.vxe t.val).op = none ∧ (u.que o.ref.q).halted = true))) ∧
  (∀ (t : Fin 48) (s : State) (o : VxeOp) (c : Cmd) (p : Nat),
    let r := recNum o.prog
    s.vxeStop t.val p c o = .go → s.ldgHolds ⟨.ldgTile, t.val⟩ 2 = false →
    (s.vxeWork t.val .sample = some (o, c, p) → Does (.vxeSurveySample t) s (fun u =>
      let e := sampleVecs t.val p c o.prog s
      u.mem = ((e.2.heldWrite p c.held (svRec c + 48) (leBytes 8 e.1.seen ++ leBytes 4 e.1.sampled)).heldWrite
          p c.held (svRec c + 61) (leBytes 1 e.1.status)).mem ∧
      (u.vxe t.val).op = none ∧ (∀ k, k ≠ t.val → u.vxe k = s.vxe k) ∧ (o.ref.stage = none → Completed s u o.ref))) ∧
    (s.vxeWork t.val .build = some (o, c, p) → Does (.vxeSurveyBuild t) s (fun u =>
      (r 56 4 = 0 → u.mem = (s.heldWrite p c.held (svRec c + 61) (leBytes 1 (r 61 1 ||| 2))).mem) ∧
      (u.vxe t.val).op = none ∧ (∀ k, k ≠ t.val → u.vxe k = s.vxe k) ∧ (o.ref.stage = none → Completed s u o.ref))) ∧
    (s.vxeWork t.val .encode = some (o, c, p) → Does (.vxeEncode t) s (fun u =>
      let e := encodeRows p c o s
      u.mem = (((e.2.heldWrite p c.held (svRec c + 44) (leBytes 4 e.1.next)).heldWrite p c.held (svRec c + 61)
        (leBytes 1 e.1.stat)).heldWrite p c.held (svRec c + 72) (leBytes 4 e.1.vec ++ leBytes 4 e.1.esc)).mem ∧
      (u.vxe t.val).op = none ∧ (∀ k, k ≠ t.val → u.vxe k = s.vxe k) ∧ (o.ref.stage = none → Completed s u o.ref))))

/-! ## The vector engine -/

/-- R195, R201, R209, R210, R221: a VXE_RUN that begins takes the engine; each operation's row runs one chunk of the
instruction reached, all of its sources read before anything is written: its cells are stored, its flags ORed into
VXE_FLAGS, and the program goes on; a chunk that would write a NaN to a format without one writes nothing, and the command
stops and halts its queue, once its status word's write, if it has one, need not wait for a fill bit. After its last
instruction the command completes. An engine that waited on a fill bit goes on once it is right.
The operations are those of `vectorOps`: add, sub, mul, fma, div, sqrt, min, max, abs, neg, copy, fill, sel, rcp, rsqrt, exp2,
exp, log2, ln, tanh, sigmoid, silu, sin, cos, cmplt, cmple, cmpeq, cmpne, rsum, rmax and ramax. -/
def Obligations.VectorInstructionsRunByChunks : Prop :=
  (∀ x ∈ vectorOps, ∀ (t : Fin 48) (s : State), s.runOf t.val x.2 = none → exec (x.1 t) s = .next s) ∧
  (∀ x ∈ vectorOps, ∀ (t : Fin 48) (s : State) (o : VxeOp) (c : Cmd) (p : Nat),
    let w := progInst o.prog o.pc
    let r := chunkOf t.val p c o.prog w o.chunk s
    s.runOf t.val x.2 = some (o, c, p) →
    (s.chunkGate t.val p o.ref c o.prog w o.chunk r.1.cells = .wait → exec (x.1 t) s = .next s) ∧
    (s.chunkGate t.val p o.ref c o.prog w o.chunk r.1.cells = .go → s.ldgHolds ⟨.ldgTile, t.val⟩ 2 = false →
      (r.1.nan = false → Does (x.1 t) s (fun u =>
        u.mem = (r.2.writeCells p c o.prog w r.1.cells).mem ∧
        u.vxe t.val = ⟨some (({ o with flags := o.flags ||| r.1.flags, clamps := o.clamps + r.1.clamps } : VxeOp).advance w),
          BitVec.ofNat 8 x.2, BitVec.ofNat 8 o.pc⟩ ∧
        u.flags .vxe t.val 0x18 = s.flags .vxe t.val 0x18 ||| r.1.flags.setWidth 32 ∧
        (∀ k, k ≠ t.val → u.vxe k = s.vxe k) ∧ u.ques = s.ques)) ∧
      (r.1.nan = true → (r.2.statGate t.val p c ≠ .wait → Does (x.1 t) s (fun u =>
          (u.vxe t.val).op = none ∧ (u.que o.ref.q).halted = true)) ∧
        (r.2.statGate t.val p c = .wait → Does (x.1 t) s (fun u =>
          (u.vxe t.val).op = some { o with failed := some ⟨0x0B, 0, (winOf o.prog (inD w)).fmt, 2, 0, 0x7F⟩ } ∧
          u.mem = s.mem ∧ u.ques = s.ques))))) ∧
  (∀ (t : Fin 48) (s : State) (o : VxeOp) (c : Cmd) (p q : Nat), (s.vxe t.val).op = some o → o.work = .run →
    s.cmdAt o.ref = some c → s.queOwner o.ref.q = some (p, q) →
    (o.started = false → Does (.vxeRun t) s (fun u =>
      u.vxe t.val = { s.vxe t.val with op := some { o with started := true } } ∧
      u.except [.vxes, .timers] = s.except [.vxes, .timers])) ∧
    (∀ b, o.started = true → o.failed = some b → s.statGate t.val p c ≠ .wait → Does (.vxeRun t) s (fun u =>
      (u.vxe t.val).op = none ∧ (u.que o.ref.q).halted = true)) ∧
    (o.started = true → o.failed = none → vxN c ≤ o.pc → s.statGate t.val p c = .go →
      Does (.vxeRun t) s (fun u => (u.vxe t.val).op = none ∧
        u.mem = (if vxStatEn c then
          (s.heldWrite p c.held (vxStat c) (leBytes 8 (statusWord o.flags o.clamps o.pc))).mem else s.mem) ∧
        (o.ref.stage = none → Completed s u o.ref)))) ∧
  (∀ (t : Fin 48) (s : State) (o : VxeOp) (c : Cmd) (p g : Nat), (s.vxe t.val).op = some o →
    s.runOf t.val (inOp (progInst o.prog o.pc)) = some (o, c, p) → s.partOfTile t.val = some g →
    s.chunkGate t.val p o.ref c o.prog (progInst o.prog o.pc) o.chunk
      (chunkOf t.val p c o.prog (progInst o.prog o.pc) o.chunk s).1.cells = .go →
    exec (.engineFillResume t .vxe) s =
      .next (s.startTimer (.engine .vxe t.val) (.tile t.val) (s.cfg .flt g 0x28 15 0 * 1000)))

/-- R203, R206, R208: with no mask and no stochastic rounding, a chunk of a basic operation writes, for each of its
elements, the destination's code for that operation of the source elements, rounded by the command's rounding; a comparison
writes its bit. The bounded operations give the results listed for special operands, whatever the rounding and the free
value drawn. -/
def Obligations.VectorOperationsComputeTheirResults : Prop :=
  (∀ (op : Basic) (code t p : Nat) (c : Cmd) (pr : List W64) (w n : Nat) (s : State),
    (op, code) ∈ [(Basic.add, 0x01), (.sub, 0x02), (.mul, 0x03), (.fma, 0x04), (.div, 0x05), (.sqrt, 0x06), (.min, 0x07),
      (.max, 0x08), (.abs, 0x09), (.neg, 0x0A), (.copy, 0x0B)] →
    inOp w = code → inMask w = 0 → vxRnd c ≠ 5 →
    let d := winOf pr (inD w)
    let z : Machine.Num := .fin false 0 0
    (chunkOf t p c pr w n s).1.cells = (chunkCells d.rows d.cols n).map (fun x =>
      let a := s.winRead p c.held (vxStrict c) (winOf pr (inA w)) x.1 x.2
      let b := if opForm code = some .unary then z else s.opB p c.held (vxStrict c) pr w x.1 x.2
      let e := if opForm code = some .ternary then s.opC p c.held (vxStrict c) pr w x.1 x.2 else z
      ⟨x.1, x.2, (convert d.fmt d.zp (rndOf (vxRnd c) 0) (!(vxStrict c))
        (fp32Num (laneBasic op (vxStrict c) (rndOf (vxRnd c) 0) a b e).word)).code⟩)) ∧
  (∀ (op : Cmp) (code t p : Nat) (c : Cmd) (pr : List W64) (w n : Nat) (s : State),
    (op, code) ∈ [(Cmp.lt, 0x20), (.le, 0x21), (.eq, 0x22), (.ne, 0x23)] → inOp w = code → inMask w = 0 →
    let x := winOf pr (inA w)
    (chunkOf t p c pr w n s).1.cells = (chunkCells x.rows x.cols n).map (fun y =>
      ⟨y.1, y.2, if (laneCmp op (vxStrict c) (s.winRead p c.held (vxStrict c) x y.1 y.2)
        (s.opB p c.held (vxStrict c) pr w y.1 y.2)).1 then 1 else 0⟩)) ∧
  (∀ (strict : Bool) (md : Rnd) (f : W32) (n : Bool) (e : Int) (m : Nat), 0 < m →
    let z : Machine.Num := .fin n 0 e
    let inf : W32 := 0x7F800000
    laneFunc .exp2 strict md f (.inf n) = ⟨if n then 0 else inf, 0⟩ ∧ laneFunc .exp strict md f (.inf n) = ⟨if n then 0 else inf, 0⟩ ∧
    laneFunc .log2 strict md f z = ⟨0xFF800000, fDivZero⟩ ∧ laneFunc .ln strict md f z = ⟨0xFF800000, fDivZero⟩ ∧
    (∀ op ∈ [Func1.log2, .ln, .rsqrt], (fp32Num (laneFunc op strict md f (.fin true m e)).word).isNaN = true ∧
      (laneFunc op strict md f (.fin true m e)).flags = fInvalid) ∧
    laneFunc .log2 strict md f (.inf false) = ⟨inf, 0⟩ ∧ laneFunc .ln strict md f (.inf false) = ⟨inf, 0⟩ ∧
    laneFunc .rcp strict md f z = ⟨if n then 0xFF800000 else inf, fDivZero⟩ ∧
    laneFunc .rcp strict md f (.inf n) = ⟨if n then 0x80000000 else 0, 0⟩ ∧
    laneFunc .rsqrt strict md f z = ⟨if n then 0xFF800000 else inf, fDivZero⟩ ∧
    laneFunc .rsqrt strict md f (.inf false) = ⟨0, 0⟩ ∧
    laneFunc .tanh strict md f (.inf n) = ⟨if n then 0xBF800000 else 0x3F800000, 0⟩ ∧
    laneFunc .sigmoid strict md f (.inf n) = ⟨if n then 0 else 0x3F800000, 0⟩ ∧
    laneFunc .silu strict md f (.inf n) = ⟨if n then 0x80000000 else inf, 0⟩ ∧
    (∀ op ∈ [Func1.sin, .cos], (fp32Num (laneFunc op strict md f (.inf n)).word).isNaN = true ∧
      (laneFunc op strict md f (.inf n)).flags = fInvalid))

/-! ## Streams, arbiters, stacks and translations -/

/-- R216, R219, R220, R222, R224: STE_OPEN binds its stream context with both frontiers 0 and every fill bit 0, and
completes once its first request is issued or there is none to issue; RELEASE waits for
D and then advances C and clears the fill bits passed, PUSH advances P and sets them, CLOSE waits for LEN and returns the
context to IDLE. Each command completes when it has been performed, and other stream contexts stay as they were. -/
def Obligations.StreamCommandsMoveFrontiers : Prop :=
  ∀ (t : Fin 48) (sid : Fin 16) (s : State) (r : CmdRef) (c : Cmd),
    let x := (s.ste t.val).stream sid.val
    let done := fun (u : State) => (u.ste t.val).cmds = (s.ste t.val).cmds.filter (fun y => decide (y.2 ≠ r)) ∧
      (∀ k, k ≠ sid.val → (u.ste t.val).stream k = (s.ste t.val).stream k) ∧ (∀ k, k ≠ t.val → u.ste k = s.ste k) ∧
      (r.stage = none → Completed s u r)
    (s.queOwner r.q).isSome = true →
    (s.steHead t.val sid.val 0x01 = some (r, c) →
      let v := if x.bound then s else s.bindStream t.val sid.val r c
      let w := if ((v.ste t.val).stream sid.val).nextSeq = 0 then v.issueNext t.val sid.val else v
      (((w.ste t.val).stream sid.val).firstWaits = true → exec (.steOpen t sid) s = .next w) ∧
      (((w.ste t.val).stream sid.val).firstWaits = false → Does (.steOpen t sid) s (fun u =>
        let y := (u.ste t.val).stream sid.val
        (x.bound = false → y.words = c.words ∧ y.store = opStore (c.word 6) ∧ y.queue = r.q ∧ y.fA = 0 ∧ y.fB = 0 ∧
          y.fill = [] ∧ y.st ≠ .idle) ∧ done u))) ∧
    (s.steHead t.val sid.val 0x02 = some (r, c) →
      (x.fA < x.fB + stBytes c → exec (.steRelease t sid) s = .next s) ∧
      (x.fB + stBytes c ≤ x.fA → Does (.steRelease t sid) s (fun u =>
        (u.ste t.val).stream sid.val = { x.setFill x.fB (stBytes c) false with fB := x.fB + stBytes c } ∧ done u))) ∧
    (s.steHead t.val sid.val 0x03 = some (r, c) → s.handOver t.val r (x.interval x.fB (stBytes c)) = .go →
      Does (.stePush t sid) s (fun u =>
        (u.ste t.val).stream sid.val = { x.setFill x.fB (stBytes c) true with fB := x.fB + stBytes c } ∧ done u)) ∧
    (s.steHead t.val sid.val 0x04 = some (r, c) →
      (x.fA < x.len → exec (.steClose t sid) s = .next s) ∧
      (x.len ≤ x.fA → x.st ≠ .halted → x.st ≠ .faulted → Does (.steClose t sid) s (fun u =>
        (u.ste t.val).stream sid.val = .reset ∧ done u)))

/-- R22, R221, R225, R229, R230, R231, R233: a running stream with room issues its next request, of at most 2 KiB and within what may
be issued; a page that is not present halts it. A request waits for those its tile sent before it to the same port, or
whose reply the stack sent before its own, and for the fill bits of its own tile's scratchpad. A reply marks its request and the frontier advances over contiguous completed
requests; a failed one faults the stream. A halted stream whose page is present goes on, by a retry or by
RESUME; a stream stalled for its TMO_US faults. -/
def Obligations.StreamsIssueDeliverAndFault : Prop :=
  (∀ (t : Fin 48) (sid : Fin 16) (s v : State) (p lc : Nat),
    let x := (s.ste t.val).stream sid.val
    let far := opFarOf x.w (x.issued / x.elem)
    x.st = .running → x.issued + x.elem ≤ x.issueLimit → x.outstanding < s.reqLimit t.val → s.tileOutstanding t.val < 128 →
    s.ldgHolds ⟨.ldgTile, t.val⟩ 3 = false → s.ctxOwner x.ctx = some (p, lc) → x.issued % x.elem = 0 →
    (∀ m, s.xlatePage (tlbTile t.val) p lc far x.store = (.ok m, v) → Does (.streamIssue t sid) s (fun u => ∃ r : StreamReq,
      (u.ste t.val).stream sid.val = { x with
        issued := x.issued + r.len, nextSeq := x.nextSeq + 1, reqs := x.reqs ++ [r], noticed := false } ∧
      r.seq = x.nextSeq ∧ r.off = x.issued ∧ r.pa = s.placeAddr p m.pa (far % 65536) ∧ r.done = false ∧
      x.elem ≤ r.len ∧ r.len ≤ 2048 ∧ x.issued + r.len ≤ x.issueLimit)) ∧
    (∀ b, s.xlatePage (tlbTile t.val) p lc far x.store = (.error b, v) → b.cls = 0x06 → b.cause = 4 →
      Does (.streamIssue t sid) s (fun u =>
        (u.ste t.val).stream sid.val = { x with st := .halted, noticed := true }))) ∧
  (∀ (t : Fin 48) (sid : Fin 16) (seq : Nat) (reply : FarReply) (s : State) (r : StreamReq),
    let x := (s.ste t.val).stream sid.val
    let x' : Stream := { x with reqs := x.reqs.map (fun q => if q.seq = seq then { q with done := true } else q) }
    x.reqs.find? (fun q => decide (q.seq = seq) && !q.done) = some r →
    ((s.farWaits t.val r = true ∨ s.ownGate t.val x r = .wait) → exec (.streamDeliver t sid seq reply) s = .next s) ∧
    (s.farWaits t.val r = false → s.ownGate t.val x r = .go → s.farReply t.val x r reply = none → exec (.streamDeliver t sid seq reply) s = .next s) ∧
    (∀ data, s.farWaits t.val r = false → s.ownGate t.val x r = .go → s.farReply t.val x r reply = some (.ok data) → Does (.streamDeliver t sid seq reply) s (fun u =>
      ((u.ste t.val).stream sid.val).fA = frontier x' (x'.reqs.length + 1) x.fA ∧
      ((u.ste t.val).stream sid.val).fB = x.fB ∧
      (∀ k, k ≠ sid.val → (u.ste t.val).stream k = (s.ste t.val).stream k))) ∧
    (∀ e, s.farWaits t.val r = false → s.ownGate t.val x r = .go → s.farReply t.val x r reply = some e →
      (∀ data, e ≠ .ok data) → Does (.streamDeliver t sid seq reply) s (fun u =>
      ((u.ste t.val).stream sid.val).st = .faulted ∧ ((u.ste t.val).stream sid.val).fA = x.fA ∧
      ((u.ste t.val).stream sid.val).reqs = x.reqs.filter (fun q => decide (q.seq ≠ seq))))) ∧
  (∀ (m : Master) (t : Fin 48) (sid : Fin 16) (s v : State) (p lc : Nat) (pm : PageMap),
    let x := (s.ste t.val).stream sid.val
    x.st = .halted → s.ctxOwner x.ctx = some (p, lc) → s.reaches m ⟨.ste, t.val⟩ = true →
    s.xlatePage (tlbTile t.val) p lc (opFarOf x.w (x.issued / x.elem)) x.store = (.ok pm, v) →
    ∀ i ∈ [Instr.streamRetry t sid, .steResume m t sid], Does i s (fun u =>
      (u.ste t.val).stream sid.val = { x with st := if x.fA = x.len then .done else .running, noticed := false })) ∧
  (∀ (t : Fin 48) (sid : Fin 16) (s : State), s.expired (.stall t.val sid.val) = true →
    ((s.ste t.val).stream sid.val).mayMove = true → Does (.streamStallTimeout t sid) s (fun u =>
      ((u.ste t.val).stream sid.val).st = .faulted ∧ u.timerRuns (.stall t.val sid.val) = false ∧
      ((u.ste t.val).stream sid.val).fA = ((s.ste t.val).stream sid.val).fA))

/-- R22, R227, R228: an arbiter accepts a request while fewer than 512 are pending, a stream's in the order its tile sent them
and with the slack of its time to need, any other's without slack; one that has waited longer than BE_WAIT becomes a deadline request with slack 0, before a grant too. The grant is the earliest request of
its stream, with the least slack among those that have any, ties to the earliest arrival, and else the earliest. A granted
access is performed: a write stores its data, a read updates LAT_EST and stores nothing. -/
def Obligations.ArbiterGrantsTheLeastSlack : Prop :=
  (∀ (k : Fin 12) (t : Fin 48) (sid : Fin 16) (seq addr len : Nat) (write : Bool) (data : List Byte) (s : State) (r : StreamReq),
    let a := (s.stack k.val).arb
    let x := (s.ste t.val).stream sid.val
    s.stackUp k.val = true → s.arbStream (.stream t sid seq) = some r → physAt r.pa = .stack k.val →
    a.has (.stream t sid seq) = false →
    (s.arbSentBefore k.val t r = true → exec (.arbiterAccept k (.stream t sid seq) addr len write data) s = .next s) ∧
    (512 ≤ a.pending.length → exec (.arbiterAccept k (.stream t sid seq) addr len write data) s = .next s) ∧
    (a.pending.length < 512 → s.arbSentBefore k.val t r = false → exec (.arbiterAccept k (.stream t sid seq) addr len write data) s = .next (s.setArb k.val { a with
      pending := a.pending ++ [{ src := .stream t sid seq, addr := r.pa, len := r.len, write := x.store
                                 data := if x.store then s.ringBytes t.val x r else []
                                 slack := r.ttn.map (fun n => (n : Int) - (a.latEst.toNat * 65536 : Nat)), aged := false
                                 waited := 0, order := a.arrivals }]
      arrivals := a.arrivals + 1 }))) ∧
  (∀ (k : Fin 12) (src : ArbSource) (addr len : Nat) (write : Bool) (data : List Byte) (s : State),
    let a := (s.stack k.val).arb
    (∀ t sid seq, src ≠ .stream t sid seq) → s.stackUp k.val = true → physAt addr = .stack k.val →
    a.pending.length < 512 → exec (.arbiterAccept k src addr len write data) s = .next (s.setArb k.val { a with
      pending := a.pending ++ [⟨src, addr, len, write, data, none, false, 0, a.arrivals⟩], arrivals := a.arrivals + 1 })) ∧
  (∀ (k : Fin 12) (i : Nat) (s : State) (q : ArbReq), (s.stack k.val).arb.pending[i]? = some q →
    (q.slack = none → s.beWait k.val < q.waited → exec (.arbiterAgeing k i) s = .next (s.setArb k.val {
      (s.stack k.val).arb with pending := (s.stack k.val).arb.pending.set i { q with slack := some 0, aged := true } })) ∧
    ((q.slack ≠ none ∨ q.waited ≤ s.beWait k.val) → Does (.arbiterAgeing k i) s (fun u =>
      (∀ j, u.stack j = s.stack j) ∧ u.except [.stks] = s.except [.stks]))) ∧
  (∀ (ps : List ArbReq) (q : ArbReq), pickGrant ps = some q →
    q ∈ ps ∧ (∀ x ∈ ps, sameStream x.src q.src = true → q.order ≤ x.order) ∧
    (∀ x ∈ eligible ps, ∀ a, rankSlack ps x = some a →
      ∃ b, rankSlack ps q = some b ∧ (b < a ∨ b = a ∧ q.order ≤ x.order)) ∧
    (rankSlack ps q = none → ∀ x ∈ eligible ps, q.order ≤ x.order)) ∧
  (∀ (k : Fin 12) (s : State) (q : ArbReq), s.domOn (domStack k.val) = true →
    ((s.stack k.val).st ≠ .ready → exec (.arbiterGrant k) s = .next s) ∧
    let ps := (s.stack k.val).arb.pending.map (ArbReq.aging (s.beWait k.val))
    ((s.stack k.val).st = .ready → pickGrant ps = some q → Does (.arbiterGrant k) s (fun u =>
      (u.stack k.val).arb = { (s.stack k.val).arb with
        pending := ps.filter (fun x => decide (x.order ≠ q.order))
        granted := (s.stack k.val).arb.granted ++ [q] } ∧ u.mem = s.mem ∧ (∀ j, j ≠ k.val → u.stack j = s.stack j)))) ∧
  (∀ (k : Fin 12) (ecc : List EccFind) (ns : Nat) (s : State) (q : ArbReq) (rest : List ArbReq),
    let v := s.eccChecks k.val (if q.write then partLines q.addr q.len else linesOf q.addr q.len) ecc
    let dropped := (∃ t sid seq, q.src = .stream t sid seq) ∧ s.arbStream q.src = none
    (s.stack k.val).arb.granted = q :: rest →
    (q.write = true → Does (.stackAccess k ecc ns) s (fun u =>
      (u.stack k.val).arb = { (s.stack k.val).arb with granted := rest } ∧
      (¬ dropped → u.mem = memPut s.mem q.addr (q.data.take q.len)) ∧ (dropped → u.mem = s.mem))) ∧
    (q.write = false → Does (.stackAccess k ecc ns) s (fun u =>
      (u.stack k.val).arb = { (s.stack k.val).arb with
        granted := rest, latEst := latNext (s.stack k.val).arb.latEst.toNat (ns + s.cfg .nme k.val 0xF00 15 0) } ∧
      u.mem = s.mem ∧ (∀ t sid seq, q.src = .stream t sid seq → ∀ r ∈ ((u.ste t.val).stream sid.val).reqs, r.seq = seq →
        r.reply = some (if v.poisoned q.addr q.len then .memError else .ok (s.readBytes q.addr q.len))))))

/-- R258, R260, R273, R274: a check that finds a corrected error sets its bit; an uncorrectable one poisons the line and,
the first time, latches its address. The scrub and the refresh go on to the next line and bank. A move of 5 °C pauses the
interface until its recalibration ends, at most once every 32 ms, and HOT follows the temperature; training ends READY, with LAT_EST from MESH_NS, or FAILED. -/
def Obligations.StacksCheckRefreshAndTrain : Prop :=
  (∀ (k : Fin 12) (line : Nat) (s : State), s.stackUp k.val = true → line < 2 ^ 30 →
    let at_ := stackBase k.val / 64 + line
    exec (.scrub k line .clean) s = .next (s.setStack k.val { s.stack k.val with scrubAt := (line + 1) % 2 ^ 30 }) ∧
    (SMap.get false s.poison at_ = false → Does (.scrub k line .corrected) s (fun u =>
      u.flags .nme k.val 0xD00 = s.flags .nme k.val 0xD00 ||| bit 30 ∧ u.poison = s.poison ∧
      (u.stack k.val) = { s.stack k.val with scrubAt := (line + 1) % 2 ^ 30 })) ∧
    (SMap.get false s.poison at_ = false → Does (.scrub k line .uncorrectable) s (fun u =>
      (∀ l, SMap.get false u.poison l = (decide (l = at_) || SMap.get false s.poison l)) ∧
      ((s.flags .nme k.val 0xD00).getLsbD 31 = false → (u.stack k.val).eccAddr = at_ * 64 ∧
        u.flags .nme k.val 0xD00 = s.flags .nme k.val 0xD00 ||| bit 31) ∧
      ((s.flags .nme k.val 0xD00).getLsbD 31 = true → (u.stack k.val).eccAddr = (s.stack k.val).eccAddr ∧
        u.flags .nme k.val 0xD00 = s.flags .nme k.val 0xD00 ||| bit 29) ∧ u.mem = s.mem))) ∧
  (∀ (k : Fin 12) (bank : Fin 2048) (s : State), s.domOn (domStack k.val) = true →
    exec (.refresh k bank) s = .next (s.setStack k.val { s.stack k.val with refreshAt := (bank.val + 1) % 2048 })) ∧
  (∀ (k : Fin 12) (temp : BitVec 8) (s : State), s.domOn (domStack k.val) = true →
    let st := s.stack k.val
    (st.st = .recal → exec (.stackRecal k temp) s = .next (s.setStack k.val { st with st := .ready })) ∧
    (st.st = .ready → (temp.toNat + 5 ≤ st.calTemp.toNat ∨ st.calTemp.toNat + 5 ≤ temp.toNat) →
      (s.timerRuns (.recal k.val) = false ∨ s.expired (.recal k.val) = true) → Does (.stackRecal k temp) s (fun u =>
        u.stack k.val = { st with
          st := .recal, temp := temp, hot := decide (85 < temp.toNat), calTemp := temp, recals := st.recals + 1 } ∧
        u.timerRuns (.recal k.val) = true ∧ u.expired (.recal k.val) = false)) ∧
    (st.st = .ready → (temp.toNat < st.calTemp.toNat + 5 ∧ st.calTemp.toNat < temp.toNat + 5 ∨
        s.timerRuns (.recal k.val) = true ∧ s.expired (.recal k.val) = false) →
      exec (.stackRecal k temp) s = .next s)) ∧
  (∀ (k : Fin 12) (s : State), (s.stack k.val).st = .training → s.trainHeld = false →
    Does (.stackTrainingDone k true) s (fun u => u.stack k.val = { s.stack k.val with
      st := .ready, recals := 0, calTemp := (s.stack k.val).temp
      arb := { (s.stack k.val).arb with latEst := BitVec.ofNat 16 (s.cfg .nme k.val 0xF00 15 0 + 60) } } ∧
      (∀ j, j ≠ k.val → u.stack j = s.stack j)) ∧
    Does (.stackTrainingDone k false) s (fun u => u.stack k.val = { s.stack k.val with st := .failed } ∧
      (∀ j, j ≠ k.val → u.stack j = s.stack j)))

/-- R268, R269: an INVALIDATE or PAGED_IN of CTX_INV_CMD gives DENIED to a master that is neither the partition's function
nor its keeper pair, BUSY while one runs, RANGE at or above CTX_QUOTA; else an INVALIDATE drops every cached page of the
context in its range and runs until nothing holds one of them. PAGED_IN with no halted stream there ends at once. -/
def Obligations.InvalidationsDropCachedPages : Prop :=
  (∀ (m : Master) (p : Fin 8) (c : BitVec 8) (s : State), s.reaches m ⟨.ctx, p.val⟩ = true → (s.cfgOf p.val).isSome = true →
    let y := s.part p.val
    let all := [Instr.invalidateRange m p c, .invalidateContext m p c, .pagedIn m p c]
    let dc := ctxKey p.val c.toNat
    let r := s.invRange p.val
    (s.fnOrKp m p.val = false → ∀ i ∈ all, exec i s = .next (s.setPart p.val { y with invRes := 0x03 })) ∧
    (s.fnOrKp m p.val = true → y.inv ≠ none → ∀ i ∈ all, exec i s = .next (s.setPart p.val { y with invRes := 0x01 })) ∧
    (s.fnOrKp m p.val = true → y.inv = none → s.ctxQuota p.val ≤ c.toNat →
      ∀ i ∈ all, exec i s = .next (s.setPart p.val { y with invRes := 0x02 })) ∧
    (s.fnOrKp m p.val = true → y.inv = none → c.toNat < s.ctxQuota p.val →
      Does (.invalidateRange m p c) s (fun u => u.part p.val = { y with inv := some ⟨dc, false, r.1, r.2, false⟩ } ∧
        (∀ e ∈ u.tlbs, ∀ x ∈ e.2, x.ctx = dc → r.2 ≤ x.va ∨ x.va + x.bytes ≤ r.1) ∧
        (∀ e ∈ s.tlbs, ∀ x ∈ e.2, x.ctx ≠ dc → ∃ f ∈ u.tlbs, f.1 = e.1 ∧ x ∈ f.2) ∧
        u.except [.tlbs, .parts] = s.except [.tlbs, .parts]) ∧
      Does (.invalidateContext m p c) s (fun u => u.part p.val = { y with inv := some ⟨dc, true, 0, 2 ^ 48, false⟩ } ∧
        (∀ e ∈ u.tlbs, ∀ x ∈ e.2, x.ctx ≠ dc) ∧ u.except [.tlbs, .parts] = s.except [.tlbs, .parts]) ∧
      ((∀ x ∈ s.allStreams, x.2.2.ctx = dc → x.2.2.st ≠ .halted) →
        exec (.pagedIn m p c) s = .next (s.setPart p.val { y with invRes := 0x00 })))) ∧
  (∀ (p : Fin 8) (s : State) (o : InvOp), (s.part p.val).inv = some o →
    (s.holdsIn p.val o.ctx o.lo o.hi = true → exec (.invalidateDone p) s = .next s) ∧
    (s.holdsIn p.val o.ctx o.lo o.hi = false →
      exec (.invalidateDone p) s = .next (s.setPart p.val { s.part p.val with inv := none, invRes := 0x00 })))

/-- R271, R272: TO_HOST and FROM_HOST give DENIED to a master that is neither the physical function nor the partition's
keeper pair, BUSY while a move runs, RANGE for an area outside the stack or the host's; else they start a move of 4 KiB
units, in order, each counted once it is complete at its destination. A poisoned unit or a host that does not answer stops
the move with its result, and a copy of the evictor goes first (R310). -/
def Obligations.PageMoverMovesUnitsInOrder : Prop :=
  (∀ (m : Master) (k : Fin 12) (h : Bool) (s : State), s.reaches m ⟨.nme, k.val⟩ = true →
    let i := if h then Instr.toHost m k else .fromHost m k
    let x := s.stack k.val
    let may := s.pfOrKp m ((s.partOfStack k.val).getD 8)
    let dev := s.rw .nme k.val 0xE00 31 12 * 4096 + s.rw .nme k.val 0xE04 15 0 * 2 ^ 32
    let host := s.rw .nme k.val 0xE08 31 12 * 4096 + s.rw .nme k.val 0xE0C 15 0 * 2 ^ 32
    let units := s.rw .nme k.val 0xE10 17 0 + 1
    let bad := dev < stackBase k.val ∨ stackBase (k.val + 1) < dev + units * 4096 ∨ host < hostBase ∨ 2 ^ 48 < host + units * 4096
    (may = false → exec i s = .next (s.setStack k.val { x with moveRes := 0x05 })) ∧
    (may = true → x.move ≠ none → exec i s = .next (s.setStack k.val { x with moveRes := 0x01 })) ∧
    (may = true → x.move = none → bad → Does i s (fun u => u.stack k.val = { x with moved := 0, moveRes := 0x02 } ∧
      u.except [.stks] = s.except [.stks])) ∧
    (may = true → x.move = none → ¬ bad → exec i s =
      .next (s.setStack k.val { x with move := some ⟨h, dev, host, units, s.moveCtx m⟩, moved := 0, moveRes := 0 }))) ∧
  (∀ (k : Fin 12) (data : Option (List Byte)) (ecc : List EccFind) (s : State), (s.kvf k.val).spill ≠ [] →
    exec (.moveUnit k data ecc) s = .next s) ∧
  (∀ (k : Fin 12) (data : Option (List Byte)) (ecc : List EccFind) (s : State) (o : MoveOp),
    let x := s.stack k.val
    let dev := o.dev + x.moved.toNat * 4096
    let v := s.eccChecks k.val (linesOf dev 4096) ecc
    let fn := s.fnOf ((s.partOfStack k.val).getD 8)
    let ok := s.hostOk fn
    x.move = some o → s.stackUp k.val = true → (s.kvf k.val).spill = [] →
    (o.toHost = true → v.poisoned dev 4096 = false → ok = true → Does (.moveUnit k data ecc) s (fun u =>
      (∃ bus, u.out = s.out ++ [.hostWrite fn bus (s.readBytes dev 4096) true]) ∧ u.mem = s.mem ∧
      u.stack k.val = { x with moved := x.moved + 1, move := if x.moved.toNat + 1 < o.units then some o else none })) ∧
    (o.toHost = true → v.poisoned dev 4096 = true → Does (.moveUnit k data ecc) s (fun u =>
      u.stack k.val = { v.stack k.val with move := none, moveRes := 0x04 } ∧ u.out = s.out ∧ u.mem = s.mem)) ∧
    (∀ bs, o.toHost = false → data = some bs → ok = true → Does (.moveUnit k data ecc) s (fun u =>
      (∀ j, u.readByte (dev + j) = if j < 4096 then bs.getD j 0 else s.readByte (dev + j)) ∧
      (∀ a < dev, u.readByte a = s.readByte a) ∧ (∃ bus, u.out = s.out ++ [.hostRead fn bus 4096]) ∧
      u.stack k.val = { x with moved := x.moved + 1, move := if x.moved.toNat + 1 < o.units then some o else none })) ∧
    ((o.toHost = true ∧ v.poisoned dev 4096 = false ∧ ok = false ∨ o.toHost = false ∧ (data = none ∨ ok = false)) →
      Does (.moveUnit k data ecc) s (fun u =>
        u.stack k.val = { x with move := none, moveRes := 0x03 } ∧ u.mem = s.mem)))

/-! ## Chains, rings and barriers -/

/-- R215, R239, R243, R245, R247: a begun chain starts on its tile; a stage begins only when its turn has come, and then
reads begun; a chain that has stopped or faulted begins none; a POP stage leaves for its ring's home, a BARRIER stage for its barrier's. -/
def Obligations.ChainStagesBeginInTheirTurn : Prop :=
  (∀ (t : Fin 48) (s : State) (ch : Chain), (s.chain t.val).find? (fun x => !x.started) = some ch →
    exec (.mxeChain t) s = .next (s.setChain t.val ((s.chain t.val).map (fun x =>
      if x.ref = ch.ref then { ch with started := true } else x)))) ∧
  (∀ (t : Fin 48) (q : Fin 2048) (i : Fin 121) (s : State) (p lq : Nat), s.queByNum q.val = some (p, lq) →
    (∀ ch ∈ s.chain t.val, ch.ref.q = queKey p lq → ch.turn i.val = false) →
    exec (.chainStageBegin t q i) s = .next s) ∧
  (∀ (ch : Chain) (i j : Nat), ch.turn i = true → j < i →
    (stKind (ch.stages.getD j 0).toNat ∈ [7, 8, 9] → stageOver (ch.st.getD j .complete) = true) ∧
    (stKind (ch.stages.getD i 0).toNat ∈ [7, 9] → stageOver (ch.st.getD j .complete) = true) ∧
    (stKind (ch.stages.getD i 0).toNat ≤ 3 → stKind (ch.stages.getD j 0).toNat ≤ 3 →
      ch.st.getD j .complete ≠ .waiting) ∧
    (streamStage (ch.stages.getD i 0).toNat = true → streamStage (ch.stages.getD j 0).toNat = true →
      stAux (ch.stages.getD i 0).toNat = stAux (ch.stages.getD j 0).toNat → ch.st.getD j .complete ≠ .waiting)) ∧
  (∀ (ch : Chain) (i : Nat), (ch.stop = true ∨ StageSt.faulted ∈ ch.st) → ch.turn i = false) ∧
  (∀ (t : Fin 48) (q : Fin 2048) (i : Fin 121) (s : State) (p lq : Nat) (ch : Chain) (c : Cmd),
    let w := (ch.stages.getD i.val 0).toNat
    s.queByNum q.val = some (p, lq) →
    (s.chain t.val).find? (fun x => decide (x.ref.q = queKey p lq) && x.turn i.val) = some ch →
    (s.q p lq).cmds.find? (fun d => decide (d.head = ch.ref.head)) = some c →
    s.chainOf ⟨ch.ref.q, ch.ref.head, some i.val⟩ = some (t.val, ch) →
    ch.clear i.val (ch.sets.getD i.val ([], [])).1 [] = true →
    let chains := (s.chain t.val).map (fun x => if x.ref = ch.ref then { ch with st := ch.st.set i.val .begun } else x)
    (stKind w = 8 → Does (.chainStageBegin t q i) s (fun u => u.chain t.val = chains ∧
      u.ring (ringKey p (stAux w)) = { s.ring (ringKey p (stAux w)) with
        pops := (s.ring (ringKey p (stAux w))).pops ++ [(stageParty t.val ch i.val, false)] } ∧
      u.except [.chains, .rings] = s.except [.chains, .rings])) ∧
    (stKind w = 7 → Does (.chainStageBegin t q i) s (fun u => u.chain t.val = chains ∧
      u.bar (barKey p (stAux w)) = { s.bar (barKey p (stAux w)) with
        inbound := (s.bar (barKey p (stAux w))).inbound ++ [(t.val, ⟨ch.ref.q, ch.ref.head, some i.val⟩)] } ∧
      u.except [.chains, .bars] = s.except [.chains, .bars])))

/-- R246, R247, R248: a ring is a queue of at most 256 entries: a push appends its entry and counts TAIL on, a pop takes
the oldest and counts HEAD on. A push to a full ring waits, or takes its fault where FULL_MODE is 1; a pop of an empty one
waits. A ring that is off, or another context's, faults the party and keeps its entries. A party waits while the ledger of
its partition's home holds a record for it (R409). -/
def Obligations.RingsAreFirstInFirstOut : Prop :=
  (∀ (p : Fin 8) (r : Fin 64) (s : State) (e : RingParty × (W64 × W64) × Bool),
    let k := ringKey p.val r.val
    let x := s.ring k
    let own := s.partyCtx p.val e.1 = s.ringCtx p.val r.val
    nextPush x = some e →
    (s.partHolds p.val e.1.eng = true → exec (.ringPush p r) s = .next s) ∧
    (s.partHolds p.val e.1.eng = false →
    (s.ringOn p.val r.val = true → own → x.entries.length < 256 → Does (.ringPush p r) s (fun u =>
      u.ring k = { x with pushes := x.pushes.erase e, entries := x.entries ++ [e.2.1], tail := x.tail + 1 } ∧
      (∀ j, j ≠ k → u.ring j = s.ring j))) ∧
    (s.ringOn p.val r.val = true → own → x.entries.length = 256 → s.ringFaults p.val r.val = false →
      Does (.ringPush p r) s (fun u =>
        u.ring k = { x with pushes := x.pushes.map (fun y => if y = e then (y.1, y.2.1, true) else y) } ∧
        u.except [.rings, .blocks, .tals] = s.except [.rings, .blocks, .tals])) ∧
    ((s.ringOn p.val r.val = false ∨ ¬ own ∨ (x.entries.length = 256 ∧ s.ringFaults p.val r.val = true)) →
      Does (.ringPush p r) s (fun u => u.ring k = { x with pushes := x.pushes.erase e } ∧
        ((s.queOwner e.1.ref.q).isSome = true → (s.cmdAt e.1.ref).isSome = true → (u.que e.1.ref.q).halted = true))))) ∧
  (∀ (p : Fin 8) (r : Fin 64) (s : State) (e : RingParty × Bool),
    let k := ringKey p.val r.val
    let x := s.ring k
    let own := s.partyCtx p.val e.1 = s.ringCtx p.val r.val
    nextPop x = some e →
    (s.partHolds p.val e.1.eng = true → exec (.ringPop p r) s = .next s) ∧
    (s.partHolds p.val e.1.eng = false →
    (∀ h es, s.ringOn p.val r.val = true → own → x.entries = h :: es → Does (.ringPop p r) s (fun u =>
      u.ring k = { x with pops := x.pops.erase e, entries := es, head := x.head + 1 } ∧
      (∀ j, j ≠ k → u.ring j = s.ring j))) ∧
    (s.ringOn p.val r.val = true → own → x.entries = [] → s.noWait e.1.ref = false → exec (.ringPop p r) s =
      .next (s.setRing k { x with pops := x.pops.map (fun y => if y = e then (y.1, true) else y) })) ∧
    ((s.ringOn p.val r.val = false ∨ ¬ own) → Does (.ringPop p r) s (fun u =>
      u.ring k = { x with pops := x.pops.erase e } ∧
      ((s.queOwner e.1.ref.q).isSome = true → (s.cmdAt e.1.ref).isSome = true → (u.que e.1.ref.q).halted = true))))) ∧
  (∀ (p : Fin 8) (r : Fin 64) (s t : State), (s.ring (ringKey p.val r.val)).entries.length ≤ 256 →
    (exec (.ringPush p r) s = .next t ∨ exec (.ringPop p r) s = .next t) →
    (t.ring (ringKey p.val r.val)).entries.length ≤ 256)

/-- R251, R252, R253: the first arrival opens a generation for its context, which expects COUNT tiles, or every tile of the
partition that is on where COUNT is 0; the arrival that makes the count completes it, counts EPOCH on and leaves a notice
for each tile. A second arrival of a tile, or one of another context, faults. A notice completes its stage. A tile's
withdrawal comes behind its arrivals of that context, and counts for the generation that the context owns: once every tile
has answered, the generation is cancelled. -/
def Obligations.BarriersCountTheirArrivals : Prop :=
  (∀ (p : Fin 8) (b : Fin 16) (s : State) (a : Nat × CmdRef) (rest : List (Nat × CmdRef)),
    let k := barKey p.val b.val
    let x := s.bar k
    let n := s.barCount p.val b.val
    let expect := if n = 0 then (s.onTiles p.val).length else n
    x.inbound = a :: rest →
    (x.isOpen = false → expect ≠ 1 → Does (.barrierArrival p b) s (fun u => u.bar k = { x with
      inbound := rest, isOpen := true, owner := s.refCtx a.2, expect := expect
      opened := if n = 0 then s.onTiles p.val else List.range 48, arrived := [a] } ∧
      u.except [.bars] = s.except [.bars])) ∧
    (x.isOpen = true → x.owner = s.refCtx a.2 → (∀ y ∈ x.arrived, y.1 ≠ a.1) → a.1 ∈ x.opened →
      (x.arrived.length + 1 ≠ x.expect → Does (.barrierArrival p b) s (fun u =>
        u.bar k = { x with inbound := rest, arrived := x.arrived ++ [a] } ∧ u.except [.bars] = s.except [.bars])) ∧
      (x.arrived.length + 1 = x.expect → Does (.barrierArrival p b) s (fun u =>
        u.bar k = { x with
          inbound := rest, isOpen := false, arrived := [], opened := [], epoch := x.epoch + 1
          notices := x.notices ++ (x.arrived ++ [a]) } ∧ u.chains = s.chains))) ∧
    (x.isOpen = true → (x.owner ≠ s.refCtx a.2 ∨ (∃ y ∈ x.arrived, y.1 = a.1) ∨ a.1 ∉ x.opened) →
      Does (.barrierArrival p b) s (fun u => u.bar k = { x with inbound := rest } ∧
        ((s.queOwner a.2.q).isSome = true → (s.cmdAt a.2).isSome = true → (u.que a.2.q).halted = true)))) ∧
  (∀ (p : Fin 8) (b : Fin 16) (t : Fin 48) (s : State) (e : Nat × CmdRef),
    let k := barKey p.val b.val
    (s.bar k).notices.find? (fun y => decide (y.1 = t.val)) = some e → exec (.barrierNotice p b t) s =
      .next ((s.setBar k { s.bar k with notices := (s.bar k).notices.erase e }).completeRef e.2)) ∧
  (∀ (p : Fin 8) (b : Fin 16) (t : Fin 48) (s : State) (e : Nat × Nat),
    let k := barKey p.val b.val
    let x := s.bar k
    let own := x.isOpen = true ∧ x.owner = e.2
    let late := ∃ a ∈ x.inbound, a.1 = t.val ∧ s.refCtx a.2 = e.2
    let left := x.cancelling.erase e
    x.cancelling.find? (fun y => decide (y.1 = t.val)) = some e →
    (∀ g ∈ s.partsOf, (s.part g.num).rstRuns = [] ∧ (s.part g.num).resetting = []) →
    (late → exec (.barrierWithdraw p b t) s = .next s) ∧
    (¬ late → ¬ own → Does (.barrierWithdraw p b t) s (fun u => u.bar k = { x with cancelling := left })) ∧
    (¬ late → own → (∃ y ∈ left, y.2 = e.2) → Does (.barrierWithdraw p b t) s (fun u => u.bar k = { x with
      cancelling := left, arrived := x.arrived.filter (fun a => decide (a.1 ≠ t.val)) })) ∧
    (¬ late → own → (∀ y ∈ left, y.2 ≠ e.2) → Does (.barrierWithdraw p b t) s (fun u => u.bar k = { x with
      cancelling := left, isOpen := false, arrived := [], opened := [], epoch := x.epoch + 1 })))

/-! ## Attention, frames, sessions and prefixes -/

/-- R284, R285, R290, R294, R297, R310: a begun attention command starts on its batch; entries are taken up in table order,
none while an append waits for a frame, and no entry of a session of which one is in progress; a frame walked counts,
its entry going on to the next one; the oldest written entry's handle leaves for its ring, and with the last one the
command completes; a handle follows the read that flushes its entry's writes to the host (R336, R338). A spill copy that
ends leaves its record SPILLED and its frame free, the frame's bytes at the host. -/
def Obligations.AttentionTakesEntriesInOrder : Prop :=
  (∀ (k : Fin 12) (s : State) (o : AttOp) (os : List AttOp),
    let i := if o.bwd then Instr.nmeAttendBwd k else .nmeAttend k
    (s.nme k.val).ops = o :: os → (∀ x ∈ o :: os, x.started = false) → Does i s (fun u =>
      u.nme k.val = { s.nme k.val with ops := { o with started := true } :: os, entryIdx := 0 } ∧
      u.except [.nmes, .timers] = s.except [.nmes, .timers])) ∧
  (∀ (k : Fin 12) (s : State) (o : AttOp) (c : Cmd) (p q : Nat), s.nmeOp k.val = some (o, c, p, q) →
    ((∃ e ∈ o.entries, e.waiting = true) → exec (.nmeEntryTakeUp k) s = .next s) ∧
    (atN c ≤ o.next → exec (.nmeEntryTakeUp k) s = .next s) ∧
    (∀ e v, o.next < atN c → (o.entries.filter (fun x => !x.written)).length < 2 → (∀ x ∈ o.entries, x.waiting = false) →
      (atExplicit c = true ∨ ∀ x ∈ o.entries, x.written = false → enSession x.words ≠
        enSession ((List.range 8).map (fun j => BitVec.ofNat 64 (s.heldLe p c.held (atBatch c + 64 * o.next + 8 * j) 8)))) →
      s.heldStops p c.held (atBatch c + 64 * o.next) 64 = none → s.takeEntry k.val p q o.next c = (.ok e, v) →
      Does (.nmeEntryTakeUp k) s (fun u => (u.nme k.val).ops = (s.nme k.val).ops.map (fun x =>
        if x.ref = o.ref then { o with next := o.next + 1, entries := o.entries ++ [e] } else x)))) ∧
  (∀ (k : Fin 12) (ecc : List EccFind) (s : State) (o : AttOp) (c : Cmd) (p q : Nat) (e : AttEntry) (f : FrameRef),
    let n := slotsOf f (enLimit e.words)
    let base := s.frameBase k.val f.frame
    let lines := (List.range 2048).filter (fun l => ((atForm c).parts 0 n).any (fun x => (linesOf x.1 x.2).contains l))
    let v := s.eccChecks k.val (lines.map (fun l => base / 64 + l)) ecc
    s.nmeOp k.val = some (o, c, p, q) → s.walking k.val p o c = some e → s.ldgHolds ⟨.ldgStack, k.val⟩ 4 = false →
    e.status = .ok → e.frames[e.walked]? = some f → e.walked + 1 ≠ e.frames.length → atBwd c = false →
    (∀ x ∈ (atForm c).parts 0 n, v.poisoned (base + x.1) x.2 = false) →
    Does (.nmeFrameWalk k ecc) s (fun u =>
      (u.nme k.val).frames = (s.nme k.val).frames + 1 ∧ u.mem = s.mem ∧
      (u.nme k.val).ops = (s.nme k.val).ops.map (fun x => if x.ref = o.ref then
        o.put { e with rows := s.walkFwd k.val c e f, walked := e.walked + 1 } else x))) ∧
  (∀ (k : Fin 12) (s : State) (o : AttOp) (c : Cmd) (p q : Nat) (e : AttEntry) (es : List AttEntry),
    s.nmeOp k.val = some (o, c, p, q) → o.entries = e :: es →
    (e.written = false → exec (.nmeHandlePush k) s = .next s) ∧
    (∀ w v, e.written = true → atRingEn c = true → s.flushReads (entryHost s p c e).toList = (some w, v) →
      Does (.nmeHandlePush k) s (fun u => (u.que o.ref.q).halted = true)) ∧
    (∀ v, e.written = true → atRingEn c = true → s.flushReads (entryHost s p c e).toList = (none, v) → Does (.nmeHandlePush k) s (fun u =>
      (u.ring (ringKey p (atRing c))).pushes =
        (s.ring (ringKey p (atRing c))).pushes ++ [(.nme k.val o.ref, handleWords c e, false)] ∧
      (u.ring (ringKey p (atRing c))).entries = (s.ring (ringKey p (atRing c))).entries ∧ u.ques = s.ques ∧
      (u.nme k.val).ops = (s.nme k.val).ops.map (fun x => if x.ref = o.ref then { o with entries := es } else x))) ∧
    (e.written = true → atRingEn c = false → (es ≠ [] ∨ o.next < atN c) → Does (.nmeHandlePush k) s (fun u =>
      u.rings = s.rings ∧ u.ques = s.ques ∧
      (u.nme k.val).ops = (s.nme k.val).ops.map (fun x => if x.ref = o.ref then { o with entries := es } else x)))) ∧
  (∀ (k : Fin 12) (s : State) (o : SpillOp) (os : List SpillOp),
    let p := s.stackPart k.val
    let v := s.kvf k.val
    v.spill = o :: os → o.forW = .command → (s.ses p).op = none → s.hostOk (s.fnOf p) = true →
    (∀ i < 32, s.poisoned (s.frameBase k.val o.frame + 4096 * i) 4096 = false) →
    Does (.spillCopyDone k true) s (fun u =>
      (u.kvf k.val).rcd o.recNo = { v.rcd o.recNo with st := .spilled } ∧ (u.kvf k.val).frame o.frame = .reset ∧
      (u.kvf k.val).spill = v.spill.filter (fun x => decide (x ≠ o)) ∧ u.mem = s.mem ∧
      (∃ bus, .hostWrite (s.fnOf p) bus (s.readBytes (s.frameBase k.val o.frame) 131072) true ∈ u.out)))

/-- R313–R316: every operation of SES_CMD gives DENIED to a master that is neither the partition's function nor its keeper
pair, BUSY while one runs, and, where it names a session, STALE for a handle that is not live. OPEN takes a slot with the
next GEN and returns its handle; CLOSE makes the session CLOSING, and once its holds end its slot is FREE with no chain
left; SET takes the policy word, but no new PLACE while a chain exists; UNPARK clears PARKED. -/
def Obligations.SessionsOpenAndClose : Prop :=
  ∀ (m : Master) (p : Fin 8) (s : State), s.reaches m ⟨.ses, p.val⟩ = true → (s.cfgOf p.val).isSome = true →
    let x := s.ses p.val
    let h := BitVec.ofNat 32 (s.sesArg p.val 0)
    let slot := handleSlot h
    let e := s.sesEnt p.val slot
    let named := [Instr.sesCmdClose m p, .sesCmdSet m p, .attach m p, .publish m p, .sesCmdSpill m p, .sesCmdFetch m p,
      .unpark m p, .pin m p]
    let all := named ++ [.sesCmdOpen m p, .fork m p, .tick m p, .pfxFlush m p]
    (s.fnOrKp m p.val = false → ∀ i ∈ all, exec i s = .next (s.setSes p.val { x with result := 0x09 })) ∧
    (s.fnOrKp m p.val = true → x.op ≠ none → ∀ i ∈ all, exec i s = .next (s.setSes p.val { x with result := 0x01 })) ∧
    (s.fnOrKp m p.val = true → x.op = none →
      (s.liveSes p.val h = false → ∀ i ∈ named, exec i s = .next (s.setSes p.val { x with op := none, result := 0x02 })) ∧
      (s.openSlot p.val = none → exec (.sesCmdOpen m p) s = .next (s.setSes p.val { x with op := none, result := 0x04 })) ∧
      (∀ n v, s.openSlot p.val = some (n, v) → Does (.sesCmdOpen m p) s (fun u =>
        let g := nextGen (s.sesEnt p.val n).gen
        n < s.sesQuota p.val ∧ (u.sesEnt p.val n).st = .opened ∧ (u.sesEnt p.val n).gen = g ∧
        u.sesEnt p.val n = ({ SesEnt.reset with st := .opened, gen := g } : SesEnt).policyWord (s.sesArg p.val 1) ∧
        u.sesArg p.val 0 = (handleOf n g).toNat ∧ (u.ses p.val).result = 0x00 ∧
        (∀ j, j ≠ n → u.sesEnt p.val j = s.sesEnt p.val j))) ∧
      (s.liveSes p.val h = true →
        Does (.sesCmdClose m p) s (fun u => u.sesEnt p.val slot = { e with st := .closing } ∧
          (u.ses p.val).op = some (.close slot) ∧ u.except [.sess] = s.except [.sess]) ∧
        ((e.policyWord (s.sesArg p.val 1)).place ≠ e.place → s.hasChain p.val slot = true →
          exec (.sesCmdSet m p) s = .next (s.setSes p.val { x with op := none, result := 0x03 })) ∧
        (((e.policyWord (s.sesArg p.val 1)).place = e.place ∨ s.hasChain p.val slot = false) →
          Does (.sesCmdSet m p) s (fun u => u.sesEnt p.val slot = e.policyWord (s.sesArg p.val 1) ∧
            (u.ses p.val).result = 0x00 ∧ u.except [.sess] = s.except [.sess])) ∧
        Does (.unpark m p) s (fun u => u.sesEnt p.val slot = { e with parked := false } ∧ (u.ses p.val).result = 0x00 ∧
          u.except [.sess] = s.except [.sess]))) ∧
    (∀ n, x.op = some (.close n) →
      ((s.sesHeld p.val n = true ∨ s.sesSpilling p.val n = true) → exec (.closeHoldsEnd p) s = .next s) ∧
      (s.sesHeld p.val n = false → s.sesSpilling p.val n = false → Does (.closeHoldsEnd p) s (fun u =>
        u.sesEnt p.val n = { SesEnt.reset with gen := (s.sesEnt p.val n).gen } ∧ (u.ses p.val).op = none ∧
        (u.ses p.val).result = 0x00 ∧ (∀ k ∈ s.frameStacks p.val, ∀ d ∈ (u.kvf k).dir, d.slot ≠ n))))

/-- R307, R310, R311, R315, R316, R319, R320: FORK gives a child the parent's chains and every frame one more reference, or
SHARED where the parent has spill records; ATTACH and PUBLISH return the blocks they completed; SPILL makes its first frame
OUTBOUND, or ends; FETCH brings its first record in, or ends; TICK counts every epoch on; PIN sets the frames' PIN;
PFX_FLUSH empties the prefix table. A fetched frame holds the host's bytes. -/
def Obligations.FramesForkAttachAndSpill : Prop :=
  (∀ (m : Master) (p : Fin 8) (s : State), s.reaches m ⟨.ses, p.val⟩ = true → (s.cfgOf p.val).isSome = true →
    s.fnOrKp m p.val = true → (s.ses p.val).op = none →
    let arg := fun (i : Nat) => BitVec.ofNat 32 (s.sesArg p.val i)
    let slot := handleSlot (arg 0)
    let parent := handleSlot (arg 2)
    let ks := s.frameStacks p.val
    let spilled := ks.any (fun k => ((s.kvf k).sesMembers parent).any (fun x => (x.rec?).isSome))
    let ended := fun (u : State) (r : Byte) => (u.ses p.val).op = none ∧ (u.ses p.val).result = r
    (s.liveSes p.val (arg 2) = true → spilled = true → Does (.fork m p) s (fun u => ended u 0x07 ∧ u.kvfs = s.kvfs)) ∧
    (∀ n v, s.liveSes p.val (arg 2) = true → spilled = false → s.openSlot p.val = some (n, v) → Does (.fork m p) s (fun u =>
      ended u 0x00 ∧ (u.sesEnt p.val n).st = .opened ∧
      u.sesArg p.val 0 = (handleOf n (nextGen (s.sesEnt p.val n).gen)).toNat ∧
      (∀ k ∈ ks, u.kvf k = (s.kvf k).forkSlot parent n) ∧ (∀ k, k ∉ ks → u.kvf k = s.kvf k))) ∧
    (s.liveSes p.val (arg 0) = true →
      (s.hasChain p.val slot = true → Does (.attach m p) s (fun u => ended u 0x03 ∧ u.kvfs = s.kvfs)) ∧
      (∀ n ok v, s.hasChain p.val slot = false →
        s.attachFrom p.val slot (s.argChains p.val) .args 0 (s.sesArg p.val 4) = ((n, ok), v) →
        Does (.attach m p) s (fun u => ended u (if ok then 0x00 else 0x06) ∧ u.sesArg p.val 4 = n % 2 ^ 32 ∧
          (n = 0 → u.kvfs = v.kvfs))) ∧
      (∀ n r v, s.publishFrom p.val slot (s.argChains p.val) .args 0 (s.sesArg p.val 4) = ((n, r), v) →
        Does (.publish m p) s (fun u => ended u r ∧ u.sesArg p.val 4 = n % 2 ^ 32 ∧ u.kvfs = v.kvfs ∧
          (u.part p.val).pfx = (v.part p.val).pfx)) ∧
      ((∀ k ∈ ks, (s.kvf k).spillable slot 0 = []) → Does (.sesCmdSpill m p) s (fun u => ended u 0x00 ∧
        u.sesArg p.val 4 = 0 ∧ u.kvfs = s.kvfs)) ∧
      (∀ k f fs i, ks = [k] → (s.kvf k).spillable slot 0 = f :: fs → s.freeRec k = some i →
        Does (.sesCmdSpill m p) s (fun u => (u.ses p.val).op = some (.spill slot 0 (k, f + 1)) ∧
          ((u.kvf k).frame f).st = .outbound ∧ (u.kvf k).spill =
            (s.kvf k).spill ++ [⟨f, i, ((s.kvf k).frame f).owner, .command⟩])) ∧
      ((∀ k ∈ ks, (s.kvf k).fetchable slot 0 = []) → Does (.sesCmdFetch m p) s (fun u => ended u 0x00 ∧
        u.sesArg p.val 4 = 0 ∧ u.kvfs = s.kvfs)) ∧
      (∀ k i is f v, ks = [k] → (s.kvf k).fetchable slot 0 = i :: is →
        s.alloc k p.val ((s.kvf k).rcd i).ent.pool .fetch nobody = (.got f, v) →
        Does (.sesCmdFetch m p) s (fun u => (u.ses p.val).op = some (.fetch slot 0 (k, i + 1)) ∧
          (u.kvf k).fetchOp = some (i, f) ∧ ((u.kvf k).frame f).st = .inbound ∧ ((u.kvf k).rcd i).st = .fetching)) ∧
      Does (.pin m p) s (fun u => ended u 0x00 ∧ ∀ k ∈ ks, u.kvf k = (s.kvf k).pinSlot slot (s.sesArg p.val 4)
        (decide (s.sesArg p.val 1 % 2 = 0)) (s.argChains p.val))) ∧
    Does (.tick m p) s (fun u => ended u 0x00 ∧
      (∀ k ∈ s.stacksOf p.val, (u.kvf k).epoch = (s.kvf k).epoch + 1) ∧
      (∀ k, k ∉ s.stacksOf p.val → u.kvf k = s.kvf k)) ∧
    Does (.pfxFlush m p) s (fun u => ended u 0x00 ∧ (u.part p.val).pfx = [])) ∧
  (∀ (k : Fin 12) (s : State) (bs : List Byte) (i f slot done : Nat) (at_ : Nat × Nat),
    let p := s.stackPart k.val
    (s.kvf k.val).fetchOp = some (i, f) → (s.ses p).op = some (.fetch slot done at_) → s.hostOk (s.fnOf p) = true →
    Does (.fetchCopyDone k (some bs)) s (fun u =>
      ∀ j < 131072, u.readByte (s.frameBase k.val f + j) = bs.getD j 0) ∧
    Does (.fetchCopyDone k none) s (fun u => (u.ses p).op = none ∧ (u.ses p).result = 0x06 ∧
      (u.kvf k.val).fetchOp = none ∧ ((u.kvf k.val).rcd i).st = .spilled ∧ u.mem = s.mem)) ∧
  (∀ (m : Master) (k : Fin 12) (w : W32) (s : State), s.reaches m ⟨.kvf, k.val⟩ = true →
    s.pfOrKp m (s.stackPart k.val) = true → Does (.kvfEntrySelWrite m k w) s (fun u =>
      let v := s.kvf k.val
      let i := bitsOf w.toNat 18 0
      u.kvf k.val = { v with latch := (if w.getLsbD 31 then entryWords (recStCode (v.rcd i).st) (v.rcd i).ent
        else entryWords (frameStCode (v.frame i).st) (v.frame i)) } ∧
      u.except [.blocks, .kvfs] = s.except [.blocks, .kvfs])) ∧
  (∀ (m : Master) (p : Fin 8) (w : W32) (s : State), s.reaches m ⟨.ses, p.val⟩ = true → (s.cfgOf p.val).isSome = true →
    (s.fnOrKp m p.val = false → exec (.sesSelWrite m p w) s =
      .next (s.setSes p.val { s.ses p.val with result := 0x09 })) ∧
    (s.fnOrKp m p.val = true → Does (.sesSelWrite m p w) s (fun u =>
      u.ses p.val = { s.ses p.val with latch := s.sesWords p.val (bitsOf w.toNat 15 0) } ∧
      u.except [.blocks, .sess] = s.except [.blocks, .sess])))

/-! ## The host, the keeper cores and atomics -/

/-- R335, R374, R440, R443: a BAR2 write is posted and is performed later, one with Relaxed Ordering clear only as the oldest, and stores nothing while the hub is off (R23);
a BAR0 write waits for the posted ones; a BAR2 read answers the bytes at its address, a miss zeros. A keeper core's access
reaches its partition's memory when its pair is on and out of reset, and faults outside; a fence is remembered, and an
aligned store of 4 or 8 bytes after it, which may be a release (the model's reading of R337, log 95), is performed only
after the reads that flush the core's host writes. -/
def Obligations.HostAndKeeperAccessesReachTheirPlace : Prop :=
  (∀ (fn : Fin 9) (k a : Nat) (bs : List Byte) (relaxed : Bool) (s : State),
    let f := s.func fn.val
    f.posted[k]? = some (a, bs, relaxed) →
    (relaxed = false → k ≠ 0 → exec (.hostPostedWrite fn k) s = .next s) ∧
    ((relaxed = true ∨ k = 0) → Does (.hostPostedWrite fn k) s (fun u =>
      u.func fn.val = { f with posted := f.posted.eraseIdx k } ∧
      (∀ j, physAt a = .stack j → u.mem = if s.domOn domHub ∧ s.stackUp j then memPut s.mem a bs else s.mem) ∧
      (∀ t, physAt a = .scratch t → u.mem =
        if s.domOn domHub ∧ s.tileOn t ∧ ¬ s.inFold a bs.length then memPut s.mem a bs else s.mem)))) ∧
  (∀ (fn : Fin 9) (off len a : Nat) (bs : List Byte) (relaxed : Bool) (s : State), bar2Ok off len = true →
    s.fnOn fn.val = true → s.domOn domHub = true →
    (s.bar2At fn.val off = some a → bs.length = len → len ≤ 512 → physAt a ≠ .ctl →
      exec (.bar2Access fn off len (some bs) relaxed) s = .next (s.setFunc fn.val { s.func fn.val with
        posted := (s.func fn.val).posted ++ [(a, bs, relaxed)] })) ∧
    (∀ k, s.bar2At fn.val off = some a → physAt a = .stack k → exec (.bar2Access fn off len none relaxed) s = .next
      (if s.stackUp k ∧ ¬ s.poisoned a len then s.emit (.completion fn.val true (s.readBytes a len))
       else s.emit (.completion fn.val false []))) ∧
    (s.bar2At fn.val off = none → exec (.bar2Access fn off len none relaxed) s =
      .next ((s.flag .pcx 0 0x14 (bit 31)).emit (.completion fn.val true (List.replicate len 0))))) ∧
  (∀ (fn : Fin 9) (off a : Nat) (v w : W32) (s : State), off % 4 = 0 → off < (if fn.val = 0 then 0x400_0000 else 0x100_0000) →
    s.fnOn fn.val = true → s.bar0 fn.val off = .ctl a →
    (s.inReach fn.val a = true → exec (.bar0Access fn off (some v)) s =
      .next (((s.countIo 0x0602 4).flushPosted fn.val).ctlWrite (fnMaster fn.val) a v)) ∧
    (s.ctlRead (fnMaster fn.val) a = some w → exec (.bar0Access fn off none) s =
      .next (s.emit (.completion fn.val true (leBytes 4 w.toNat))))) ∧
  (∀ (s : State) (fn : Nat), ((s.flushPosted fn).func fn).posted = []) ∧
  (∀ (core : Fin 16) (a : Nat) (s : State), s.domOn (domKp (core.val / 2)) = true →
    (s.pair (core.val / 2)).inReset = false →
    (∀ n, 0 < n → n ≤ 64 → s.keepAt (core.val / 2) a n = .mem → s.poisoned a n = false →
      exec (.keeperAccess core (.load a n)) s = .next (s.emit (.keeperData core.val (s.readBytes a n)))) ∧
    (∀ bs, 0 < bs.length → bs.length ≤ 64 → s.keepAt (core.val / 2) a bs.length = .mem →
      (s.coreReleases core.val a bs.length = false → Does (.keeperAccess core (.store a bs)) s (fun u =>
        u.mem = memPut s.mem a bs ∧ u.out = s.out ∧ u.pairs = s.pairs)) ∧
      (∀ v, s.coreReleases core.val a bs.length = true → s.coreFlush core.val a = (none, v) →
        Does (.keeperAccess core (.store a bs)) s (fun u =>
          u.mem = memPut s.mem a bs ∧ u.out = v.out ∧ u.pairs = s.pairs)) ∧
      (∀ w v, s.coreReleases core.val a bs.length = true → s.coreFlush core.val a = (some w, v) →
        exec (.keeperAccess core (.store a bs)) s = .next (v.emit (.keeperFault core.val a)))) ∧
    (∀ n, 0 < n → n ≤ 64 → s.keepAt (core.val / 2) a n = .none →
      exec (.keeperAccess core (.load a n)) s = .next (s.emit (.keeperFault core.val a))) ∧
    Does (.keeperAccess core .fence) s (fun u => core.val ∈ (u.pair (core.val / 2)).fenced ∧
      u.except [.pairs] = s.except [.pairs]))

/-- R335, R339, R340: an atomic at its home on the device stores the new value that its operation gives and answers the old
one, changing no other byte; a function's comes after its posted writes and reaches its partition's regions only (R51);
one that PCI Express does not have is refused.
At the host, one that PCI Express does not provide is attempted by a compare-and-swap, and stays until it succeeds; where
nothing would change none is issued. -/
def Obligations.AtomicsAnswerTheOldValue : Prop :=
  (∀ (fn : Fin 9) (off bytes v a : Nat) (op : AtomOp) (s : State),
    let w := s.flushPosted fn.val
    atomOk op bytes off = true → bar2Ok off bytes = true → s.fnOn fn.val = true → s.domOn domHub = true →
    (hostHas op = false → exec (.hostAtomic fn off op bytes v) s = .next (w.emit (.completion fn.val false []))) ∧
    (hostHas op = true → w.bar2At fn.val off = some a → w.atomHome a bytes = true →
      Does (.hostAtomic fn off op bytes v) s (fun u =>
        u.readLe a bytes = atomNew op bytes (w.readLe a bytes) v ∧
        (∀ b, ¬ (a ≤ b ∧ b < a + bytes) → u.readByte b = w.readByte b) ∧
        u.out = s.out ++ [.completion fn.val true (leBytes bytes (w.readLe a bytes))]))) ∧
  (∀ (m : Master) (a bytes v : Nat) (op : AtomOp) (s : State), atomOk op bytes a = true →
    (∀ p w, m = .kp p → s.domOn (domKp p.val) = true → s.keepAt p.val a bytes = .mem → s.poisoned a bytes = false →
      (s.coreReleases (2 * p.val) a bytes = false ∧ w = s ∨
        s.coreReleases (2 * p.val) a bytes = true ∧ s.coreFlush (2 * p.val) a = (none, w)) →
      Does (.atomicAtHome m a op bytes v) s (fun u =>
        u.readLe a bytes = atomNew op bytes (s.readLe a bytes) v ∧
        (∀ b, ¬ (a ≤ b ∧ b < a + bytes) → u.readByte b = s.readByte b) ∧
        u.out = w.out ++ [.keeperData (2 * p.val) (leBytes bytes (s.readLe a bytes))])) ∧
    (∀ fn, (m = .pf ∧ fn = 0 ∨ ∃ n, m = .vf n ∧ fn = n.val + 1) →
      let w := s.flushPosted fn
      s.fnOn fn = true → s.domOn domHub = true →
      (∀ k, physAt a = .stack k → w.fnOwns fn a bytes = true → w.atomHome a bytes = true →
        Does (.atomicAtHome m a op bytes v) s (fun u =>
          u.readLe a bytes = atomNew op bytes (w.readLe a bytes) v ∧
          (∀ b, ¬ (a ≤ b ∧ b < a + bytes) → u.readByte b = w.readByte b) ∧
          u.out = s.out ++ [.completion fn true (leBytes bytes (w.readLe a bytes))])) ∧
      ((w.fnOwns fn a bytes = false ∨ w.atomHome a bytes = false) →
        exec (.atomicAtHome m a op bytes v) s = .next (w.emit (.completion fn false []))))) ∧
  (∀ (k a bytes v old : Nat) (op : AtomOp) (core : Fin 16) (s : State),
    let fn := ((s.partOfKp (core.val / 2)).map s.fnOf).getD 0
    let old' := old % 2 ^ (8 * bytes)
    let new := atomNew op bytes old' v
    s.pcx.reqs[k]? = some (.atomic core a op bytes v) → s.hostOk fn = true →
    (new = old' → ∀ ok, exec (.hostAtomicEmulate k (some old) ok) s =
      .next (({ s with pcx := { s.pcx with reqs := s.pcx.reqs.eraseIdx k } } : State).emit
        (.keeperData core.val (leBytes bytes old')))) ∧
    (new ≠ old' → Does (.hostAtomicEmulate k (some old) true) s (fun u => u.pcx.reqs = s.pcx.reqs.eraseIdx k ∧
      (∃ bus, u.out = s.out ++ [.hostAtomic fn bus (.cas old') bytes new, .keeperData core.val (leBytes bytes old')]))) ∧
    (new ≠ old' → Does (.hostAtomicEmulate k (some old) false) s (fun u => u.pcx = s.pcx ∧
      (∃ bus, u.out = s.out ++ [.hostAtomic fn bus (.cas old') bytes new]))))


/-! ## Links -/

/-- R344, R354, R355, R356, R357, R370: a frame that FEC cannot correct or that fails its CRC is discarded and answered with a
link nak of the LSEQ awaited, once until that frame itself comes and fails again; a good frame with that LSEQ is accepted and acknowledged, and any other is dropped, as is a spray
frame of an epoch for which no counter is left. An ack takes the
frames up to the one named out of the replay buffer, a nak replays from the one named, and the eighth replay in a row, or
a loss of lock, sends the link to RETRAIN with nothing left in its buffer, as LNK_CMD RETRAIN does. CLEAR clears the
four counters. A frame's 472 data bytes hold its header, from which each of its fields comes back, and a CRC that holds. -/
def Obligations.LinksAcknowledgeAndReplay : Prop :=
  (∀ (l : Fin 24) (f : Frame) (n : Nat) (s : State), (s.link l.val).st = .up →
    let k := s.link l.val
    let k' := { k with ce := satAdd32 k.ce n }
    (f.typ ≠ 0 → f.typ ≠ 3 → f.typ ≠ 4 → f.lseq = k.rxLseq → s.accepts l.val f = true → exec (.linkFrameReceive l f (.good n)) s =
      .next ((s.setLink l.val { k' with
        rxLseq := k.rxLseq + 1, naked := false
        rxq := (if f.typ.toNat ≤ 9 then k.rxq ++ [f] else k.rxq) }).emit (.linkCtl l.val false f.lseq))) ∧
    ((f.typ = 0 ∨ f.typ = 3 ∨ f.typ = 4 ∨ f.lseq ≠ k.rxLseq ∨ s.accepts l.val f = false) →
      exec (.linkFrameReceive l f (.good n)) s = .next (s.setLink l.val k')) ∧
    (f.spray = false → s.accepts l.val f = true) ∧
    (f.spray = true → (s.rx (s.srcKey l.val f)).closed.any (· = f.epoch) = false →
      (s.srcKey l.val f, f.epoch) ∉ s.sprayEpochs → (s.accepts l.val f = true ↔ s.sprayEpochs.length < 128)) ∧
    Does (.linkFrameReceive l f (.crcFailed n)) s (fun u =>
      u.link l.val = { k' with crc := satAdd32 k.crc 1, naked := true } ∧
      u.out = (if k.naked = true ∧ f.lseq ≠ k.rxLseq then s.out else s.out ++ [.linkCtl l.val true k.rxLseq]) ∧
      u.except [.links, .out] = s.except [.links, .out]) ∧
    Does (.linkFrameReceive l f .fecFailed) s (fun u =>
      u.link l.val = { k with ue := satAdd32 k.ue 1, naked := true } ∧
      ((k.naked = false ∨ f.lseq = k.rxLseq) → .linkCtl l.val true k.rxLseq ∈ u.out))) ∧
  (∀ f : Frame, f.data.length ≤ 448 → frameOf (frameHeader f) f.half f.spray f.data = f ∧ frameHeader f < 2 ^ 128 ∧
    (frameBytes f).length = 472 ∧ crcHolds (frameBytes f) = true) ∧
  (∀ (l : Fin 24) (q : BitVec 9) (s : State),
    let k := s.link l.val
    let fs := fromLseq k.unacked q
    (fs ≠ [] → exec (.linkAck l q) s =
      .next ((s.setLink l.val { k with unacked := fs.drop 1, replays := 0 }).kick l.val)) ∧
    (fs ≠ [] → (∀ g ∈ s.teamOf (l.val / 4), (s.tx g (s.peerOf l.val)).again = [] ∧
        (s.tx g (s.peerOf l.val)).waiting = []) →
      exec (.linkAck l q) s = .next (s.setLink l.val { k with unacked := fs.drop 1, replays := 0 })) ∧
    (fs ≠ [] → k.st = .up → k.replays < 7 → Does (.linkNak l q) s (fun u =>
      u.link l.val = { k with replay := satAdd32 k.replay fs.length, replays := k.replays + 1 } ∧
      (∀ e ∈ fs, .frame l.val e.1 ∈ u.out) ∧ u.lgs = s.lgs)) ∧
    (fs ≠ [] → k.st = .up → 7 ≤ k.replays → Does (.linkNak l q) s (fun u =>
      (u.link l.val).st = .retrain ∧ (u.link l.val).unacked = [] ∧ (u.link l.val).retrains = k.retrains + 1)) ∧
    (fs = [] → exec (.linkAck l q) s = .next s ∧ exec (.linkNak l q) s = .next s)) ∧
  (∀ (l : Fin 24) (s : State), (s.link l.val).st = .up →
    let k := s.link l.val
    Does (.receiverLosesLock l) s (fun u => u.link l.val = { k with
        st := .retrain, unacked := [], txLseq := 0, rxLseq := 0, naked := false, replays := 0
        replay := satAdd32 k.replay k.unacked.length, retrains := k.retrains + 1 } ∧
      (s.linksTo (l.val / 4) (s.peerOf l.val) = [l.val] →
        (u.tx (l.val / 4) (s.peerOf l.val)).again = k.unacked ++ (s.tx (l.val / 4) (s.peerOf l.val)).again))) ∧
  (∀ (m : Master) (g : Fin 6) (i : BitVec 2) (s : State),
    let l := 4 * g.val + i.toNat
    let k := s.link l
    (s.reaches m ⟨.lnk, g.val⟩ = true → s.linkOn l = true → Does (.lnkRetrain m g i) s (fun u =>
      (u.link l).st = .retrain ∧ (u.link l).unacked = [] ∧ (u.link l).fails = 0 ∧
      (u.link l).retrains = k.retrains + 1)) ∧
    (s.reaches m ⟨.lnk, g.val⟩ = true → exec (.lnkClear m g i) s =
      .next (s.setLink l { k with ce := 0, ue := 0, crc := 0, replay := 0 })) ∧
    (s.reaches m ⟨.lnk, g.val⟩ = false →
      exec (.lnkRetrain m g i) s = .next s ∧ exec (.lnkClear m g i) s = .next s))

/-- R347, R350, R353, R357: training brings a link UP with the position, link number, lane reversal and polarity that the
far end shows; a board link whose far end is another goes to FAILED and sets MISWIRED, one without a far end stays DOWN,
and a retraining that fails where the two failures before it were within 1 s fails the link. No link trains before its
step of the chip start (R482). A change of delivery mode toward spray is applied once no
ordered write is unacknowledged, one toward ordered once no epoch is open, and what waited for it is then sent; until
then it first closes the open epoch with a bare lamp of its count. -/
def Obligations.LinksTrainAndChangeMode : Prop :=
  (∀ (l : Fin 24) (far : FarEnd) (s : State), s.trainHeld = true → exec (.linkTraining l far) s = .next s) ∧
  (∀ (l : Fin 24) (far : FarEnd) (s : State), (∀ c ∈ s.partsOf, (s.part c.num).rstRuns = []) → s.trainHeld = false →
    let k := s.link l.val
    let u := s.samplePos
    ((s.linkOn l.val = false ∨ k.st = .up ∨ k.st = .failed) → exec (.linkTraining l far) s = .next s) ∧
    (s.linkOn l.val = true → k.st ≠ .up → k.st ≠ .failed →
      (far = .none → k.st ≠ .retrain →
        exec (.linkTraining l far) s = .next (u.setLink l.val { k with st := .down })) ∧
      (far = .none → k.st = .retrain → u.failedLately l.val 0 = true → u.failedLately l.val 1 = true →
        Does (.linkTraining l far) s (fun t =>
          t.link l.val = { k with st := .failed, fails := 0 } ∧
          t.except [.links, .board, .timers] = s.except [.links, .board, .timers])) ∧
      (far = .none → k.st = .retrain → (u.failedLately l.val 0 = false ∨ u.failedLately l.val 1 = false) →
        Does (.linkTraining l far) s (fun t => t.link l.val = { k with fails := k.fails + 1 } ∧
          t.timerRuns (.trainWindow l.val (k.fails % 2)) = true ∧
          t.except [.links, .board, .timers] = s.except [.links, .board, .timers])) ∧
      (∀ pos link inc rev pol, far = .device pos link inc rev pol →
        (l.val < 21 → (link ≠ l ∨ pos.val ≠ u.peerOf l.val) → exec (.linkTraining l far) s =
          .next ((u.setLink l.val { k with
            st := .failed, reversed := rev, polInv := pol, peerPos := BitVec.ofNat 4 pos.val
            peerLink := BitVec.ofNat 5 link.val }).flag .lnk (l.val / 4) 0x14 (bit 3))) ∧
        ((21 ≤ l.val ∨ (link = l ∧ pos.val = u.peerOf l.val)) → Does (.linkTraining l far) s (fun t =>
          (t.link l.val).st = .up ∧ (t.link l.val).reversed = rev ∧ (t.link l.val).polInv = pol ∧
          (t.link l.val).peerPos = BitVec.ofNat 4 pos.val ∧ (t.link l.val).peerLink = BitVec.ofNat 5 link.val))))) ∧
  (∀ (g : Fin 6) (s : State), s.modeChanging g.val = true →
    let v := s.lg g.val
    (s.sprays g.val = false → (∀ e ∈ v.tx, ∀ w ∈ e.2.unperf, w.spray = true) →
      exec (.lnkModeChange g) s = .next ((s.applyPart ⟨.lnk, g.val⟩ 0).pumpAll g.val)) ∧
    (s.sprays g.val = false → (∃ e ∈ v.tx, ∃ w ∈ e.2.unperf, w.spray = false) →
      exec (.lnkModeChange g) s = .next s) ∧
    (s.sprays g.val = true → (∀ e ∈ v.tx, e.2.count = 0 ∧ e.2.openE = [] ∧ e.2.unperf = []) →
      exec (.lnkModeChange g) s = .next ((s.applyPart ⟨.lnk, g.val⟩ 0).pumpAll g.val)) ∧
    (∀ d x, s.sprays g.val = true → v.tx = [(d, x)] → x.count ≠ 0 → s.nextLink g.val d = none →
      Does (.lnkModeChange g) s (fun t =>
        t.tx g.val d = { x.close none true with again := x.again ++ [(x.lampOf (s.bareLamp g.val), none)] } ∧
        t.modeChanging g.val = true)))


/-- R343, R344, R345, R346, R360: an ordered write waits until its number is the next of its source, and is then
performed; a spray write is performed as it arrives and counted in its epoch; a lamp is held, timed, and performed once
its count of writes is performed and the epoch before is done, which closes its epoch, and LAMPS_DONE counts one whose
release was performed (R348); a second copy of a lamp is
discarded (the model's reading, log 43). A lamp held too long is discarded:
its epoch closes, the partition is told, and the command that sent it takes a fault when the answer arrives. A frame that
is not performed is answered with a reject. -/
def Obligations.ArrivalsFollowTheirMode : Prop :=
  (∀ (l : Fin 24) (f : Frame) (s : State), f ∈ (s.link l.val).rxq → (f.typ = 1 ∨ f.typ = 2) →
    let k := s.link l.val
    let v := s.setLink l.val { k with rxq := k.rxq.erase f }
    let src := s.srcKey l.val f
    let x := s.rx src
    (f.spray = false → f.seq = x.seq → x.early = [] → Does (.linkWriteArrive l f) s (fun t => ∃ u : State,
      t = u.performAck l.val f ∧ u.rx src = { x with seq := x.seq + 1 } ∧ (∀ j, j ≠ src → u.rx j = s.rx j) ∧
      u.board = { s.board with rx := u.board.rx } ∧ u.except [.board] = v.except [.board])) ∧
    (f.spray = false → f.seq ≠ x.seq → (f.seq - x.seq).toNat < 2 ^ 31 →
      (∀ e ∈ x.early, e.2.seq ≠ f.seq ∧ e.2.seq ≠ x.seq) →
      exec (.linkWriteArrive l f) s = .next (v.setRx src { x with early := x.early ++ [(l.val, f)] })) ∧
    (f.spray = true → f.lamp = false →
      (f.epoch ∈ x.closed → exec (.sprayWriteArrive l f) s = .next (v.performAck l.val f)) ∧
      (f.epoch ∉ x.closed → s.mayCount x f.epoch = false → exec (.sprayWriteArrive l f) s = .next s) ∧
      (∀ u, f.epoch ∉ x.closed → s.mayCount x f.epoch = true → v.performFrame l.val f = (true, u) →
        exec (.sprayWriteArrive l f) s = .next ((u.setRx src ((u.rx src).setCount f.epoch
          (((u.rx src).countOf f.epoch).getD 0 + 1))).answerOn l.val f 5)) ∧
      (∀ u, f.epoch ∉ x.closed → s.mayCount x f.epoch = true → v.performFrame l.val f = (false, u) →
        exec (.sprayWriteArrive l f) s = .next (((u.flag .cle (l.val / 4) 0x18 (bit 31)).countLg (l.val / 4) 0x0306 1
          nobody).answerOn l.val f 8))) ∧
    (f.spray = true → f.lamp = true → (f.epoch ∈ x.closed ∨ s.lampHeld src f.epoch = true) →
      exec (.lampArrive l f) s = .next v) ∧
    (f.spray = true → f.lamp = true → f.epoch ∉ x.closed → s.lampHeld src f.epoch = false →
      s.mayCount x f.epoch = false → exec (.lampArrive l f) s = .next s) ∧
    (f.spray = true → f.lamp = true → f.epoch ∉ x.closed → s.lampHeld src f.epoch = false →
      s.mayCount x f.epoch = true → Does (.lampArrive l f) s (fun t =>
      (t.lg (l.val / 4)).lamps = (s.lg (l.val / 4)).lamps ++ [⟨src, f, l.val⟩] ∧
      t.rx src = x.setCount f.epoch ((x.countOf f.epoch).getD 0) ∧
      t.timerRuns (.lamp (l.val / 4) src f.epoch.toNat) = true ∧
      t.except [.links, .lgs, .board, .timers] = s.except [.links, .lgs, .board, .timers]))) ∧
  (∀ (g : Fin 6) (k : Nat) (h : HeldLamp) (s : State), (s.lg g.val).lamps[k]? = some h →
    let x := s.rx h.src
    let e := h.frame.epoch
    let d := (s.dropLamp g.val k h).setRx h.src (x.shut e)
    (∀ u, h.frame.seq.toNat ≤ (x.countOf e).getD 0 → x.turnOf e = true →
      (d.performFrame h.link h.frame = (true, u) → exec (.lampPerform g k) s = .next
        ((u.setLg g.val { u.lg g.val with lampsDone := (u.lg g.val).lampsDone + 1 }).answerOn h.link h.frame 5)) ∧
      (d.performFrame h.link h.frame = (false, u) → exec (.lampPerform g k) s = .next
        (((u.flag .cle (h.link / 4) 0x18 (bit 31)).countLg (h.link / 4) 0x0306 1 nobody).answerOn h.link h.frame 8))) ∧
    (((x.countOf e).getD 0 < h.frame.seq.toNat ∨ x.turnOf e = false) → exec (.lampPerform g k) s = .next s) ∧
    (s.expired (.lamp g.val h.src e.toNat) = true → Does (.lampExpire g k) s (fun t =>
      (t.lg g.val).lamps = (s.lg g.val).lamps.eraseIdx k ∧ t.rx h.src = x.shut e ∧
      (∀ p, s.partOfLg g.val = some p → .notice p 4 [h.src / 8, h.src % 8, e.toNat] ∈ t.out))) ∧
    (s.expired (.lamp g.val h.src e.toNat) = false → exec (.lampExpire g k) s = .next s)) ∧
  (∀ (s : State) (l : Nat) (f : Frame), f.data ≠ [] → ¬ (f.typ = 2 ∧ f.data.length = 16) →
    (∀ u, s.inboundPlace f f.data.length = (none, u) → s.performAck l f =
      ((u.flag .cle (l / 4) 0x18 (bit 31)).countLg (l / 4) 0x0306 1 nobody).answerOn l f 8) ∧
    (∀ u p held, f.typ = 1 → s.inboundPlace f f.data.length = (some (p, held), u) → s.performAck l f =
      (u.heldWrite p held f.addr.toNat f.data).answerOn l f 5)) ∧
  (∀ (l : Fin 24) (f : Frame) (s u : State) (w : Sent) (r : CmdRef), f ∈ (s.link l.val).rxq → f.typ = 9 →
    let k := s.link l.val
    (s.setLink l.val { k with rxq := k.rxq.erase f }).settle l.val f = some (w, u) → w.ref = some r →
    Does (.lampExpiryReceive l f) s (fun t =>
      t = (u.failCle (frameGroup f) r (badLink 1 (u.peerOf l.val))).cleProgress (frameGroup f) ∧
      ((s.queOwner r.q).isSome = true → (s.cmdAt r).isSome = true → (t.que r.q).halted = true)))

/-- R363, R366, R367: a send reads its range and queues its writes and its release for the peer. A collective sends READY
to every other member; a READY whose digest agrees is met with the contribution, and one that comes early is kept while
the table of 64 has room and holds none of its member and COLL_ID (the model's reading, log 42). Once every contribution
is in, the member reduces its slice in ascending position, stores it and, under CLE_ALLREDUCE, sends it to each member
whose READY it has received. A range that has gone or is poisoned fails the command, and none of it is done while the
ledger of the partition's home holds a record of the engine (R409). -/
def Obligations.CollectivesContributeAndReduce : Prop :=
  (∀ (g : Fin 6) (s : State) (o : SendOp) (c : Cmd) (p q : Nat),
    (s.cle g.val).sends.find? (fun x => !x.started) = some o → s.cmdAt o.ref = some c →
    s.queOwner o.ref.q = some (p, q) →
    let fs := s.writeFrames g.val (clSendPart c) (clDst c) (s.heldRead p c.held (clSrc c) (clLen c)) ++
      (if clRrel c then [s.relFrame g.val (clSendPart c) (clRmark c) (clRvalue c) (clLamp c)] else [])
    (s.cleHeld g.val = true → exec (.cleSend g) s = .next s) ∧
    (s.cleHeld g.val = false → s.heldStops p c.held (clSrc c) (clLen c) = none → Does (.cleSend g) s (fun t =>
      (t.cle g.val).sends = (s.cle g.val).sends.map (fun x =>
        if x.ref = o.ref then { x with started := true, total := fs.length } else x) ∧
      (s.nextLink g.val (clPeer c) = none → (t.tx g.val (clPeer c)).waiting =
        (s.tx g.val (clPeer c)).waiting ++ fs.map (fun f => (f, some o.ref))))) ∧
    (s.cleHeld g.val = false → s.heldStops p c.held (clSrc c) (clLen c) ≠ none →
      Does (.cleSend g) s (fun t => (t.que o.ref.q).halted = true))) ∧
  (∀ (g : Fin 6) (s : State) (o : CollOp) (c : Cmd) (p q : Nat), (s.cle g.val).coll = some o → o.started = false →
    s.cmdAt o.ref = some c → s.queOwner o.ref.q = some (p, q) →
    (∀ x ∈ (s.cle g.val).early, x.2.1.toNat ≠ clCollId c) →
    let others := (clMembers c).filter (· ≠ s.boardPos)
    (s.cleHeld g.val = true → ∀ i ∈ [Instr.cleAllreduce g, .cleReducescatter g, .cleAllgather g], exec i s = .next s) ∧
    ∀ i ∈ [(Instr.cleAllreduce g, 0x02), (Instr.cleReducescatter g, 0x03), (Instr.cleAllgather g, 0x04)],
      (c.opcode = i.2 → s.cleHeld g.val = false → (clGather c = true → s.heldStops p c.held (clSrc c) (clSlice c) = none ∧
        s.heldBad p c.held (clDst c + rankOf (clMembers c) s.boardPos * clSlice c) (clSlice c) = none) → Does i.1 s (fun t =>
        (t.cle g.val).coll = some { o with started := true, readySent := others } ∧
        (∀ j ∈ others, t.timerRuns (.readyAgain g.val j) = true ∧ (s.nextLink g.val j = none →
          (t.tx g.val j).again = (s.tx g.val j).again ++ [(s.readyFrame g.val c, none)])) ∧
        (clGather c = true →
          t.mem = (s.heldWrite p c.held (clDst c + rankOf (clMembers c) s.boardPos * clSlice c)
            (s.heldRead p c.held (clSrc c) (clSlice c))).mem))) ∧
      (c.opcode ≠ i.2 → exec i.1 s = .next s)) ∧
  (∀ (l : Fin 24) (f : Frame) (s : State), f ∈ (s.link l.val).rxq → f.typ = 6 →
    let k := s.link l.val
    let v := s.setLink l.val { k with rxq := k.rxq.erase f }
    let g := frameGroup f
    let e := s.cle g
    (s.collOp g = none → e.early.length < 64 →
      (∀ x ∈ e.early, ¬ (x.1 = s.peerOf l.val ∧ x.2.1.toNat = frameColl f)) → exec (.readyReceive l f) s = .next (v.setCle g { e with
      early := e.early ++ [(s.peerOf l.val, BitVec.ofNat 16 (frameColl f), BitVec.ofNat 32 (frameDigest f))] })) ∧
    (s.collOp g = none → (64 ≤ e.early.length ∨ ∃ x ∈ e.early, x.1 = s.peerOf l.val ∧ x.2.1.toNat = frameColl f) → exec (.readyReceive l f) s = .next v) ∧
    (∀ o c p, s.collOp g = some (o, c, p) → clCollId c = frameColl f →
      let j := s.peerOf l.val
      let fs := s.writeFrames g (clPart c)
        (if clGather c then clDst c + rankOf (clMembers c) s.boardPos * clSlice c
         else clStage c + stageSlot (clMembers c) j s.boardPos * clSlice c)
        (s.heldRead p c.held (if clGather c then clSrc c else clSrc c + rankOf (clMembers c) j * clSlice c) (clSlice c))
      (s.cleHeld g = true → exec (.readyReceive l f) s = .next s) ∧
      (s.cleHeld g = false → collDigest c ≠ BitVec.ofNat 32 (frameDigest f) →
        Does (.readyReceive l f) s (fun t => (t.que o.ref.q).halted = true)) ∧
      (s.cleHeld g = false → (c.opcode ≠ 0x02 ∨ o.reduced = false) → collDigest c = BitVec.ofNat 32 (frameDigest f) → j ∈ clMembers c → j ≠ s.boardPos → j ∉ o.readyGot →
        j ∉ o.contribTo → o.contribOf.length ≠ clM c - 1 →
        s.heldStops p c.held (if clGather c then clSrc c else clSrc c + rankOf (clMembers c) j * clSlice c)
          (clSlice c) = none →
        Does (.readyReceive l f) s (fun t => (t.cle g).coll = some { o with
          readyGot := o.readyGot ++ [j], contribTo := o.contribTo ++ [j], total := o.total + (fs.length + 1) })))) ∧
  (∀ (g : Fin 6) (j : Fin 8) (s : State) (o : CollOp) (c : Cmd) (p : Nat), s.collOp g.val = some (o, c, p) →
    (j.val ∈ o.readySent → j.val ∉ o.contribOf → s.expired (.readyAgain g.val j.val) = true → exec (.readyResend g j) s =
      .next ((s.startTimer (.readyAgain g.val j.val) (.link g.val) 10000).sendPlain g.val j.val (s.readyFrame g.val c))) ∧
    ((j.val ∉ o.readySent ∨ j.val ∈ o.contribOf ∨ s.expired (.readyAgain g.val j.val) = false) →
      exec (.readyResend g j) s = .next s)) ∧
  (∀ (g : Fin 6) (s : State) (o : CollOp) (c : Cmd) (p : Nat), s.collOp g.val = some (o, c, p) →
    let me := s.boardPos
    let ms := clMembers c
    let sl := clSlice c
    let eb := clElem c
    let at_ := fun j => if j = me then clSrc c + rankOf ms me * sl else clStage c + stageSlot ms me j * sl
    let out := (List.range (clN c / clM c)).flatMap (fun i =>
      leBytes eb (reduceElem (clOp c) (clFmt c) (ms.map (fun j => s.heldLe p c.held (at_ j + i * eb) eb))))
    let dst := if c.opcode = 0x03 then clDst c else clDst c + rankOf ms me * sl
    let w := ((s.setColl g.val { o with reduced := true }).bump).heldWrite p c.held dst out
    ((clGather c = true ∨ o.reduced = true ∨ o.contribOf.length ≠ clM c - 1 ∨ s.cleHeld g.val = true) →
      exec (.collReduce g) s = .next s) ∧
    (clGather c = false → o.reduced = false → o.contribOf.length = clM c - 1 → s.cleHeld g.val = false →
      (∀ j ∈ ms, s.heldStops p c.held (at_ j) sl = none) → s.heldBad p c.held dst sl = none →
      (c.opcode = 0x03 → exec (.collReduce g) s = .next (w.collMaybeDone g.val)) ∧
      (c.opcode = 0x02 → o.resultOf.length ≠ clM c - 1 → w.heldStops p c.held dst sl = none →
        Does (.collReduce g) s (fun t => t.mem = w.mem ∧ t.tiles = w.tiles ∧
          ∃ y, (t.cle g.val).coll = some y ∧ y.reduced = true ∧ y.contribTo = o.contribTo ∧
            y.resultTo = o.resultTo ++ ms.filter (fun j => decide (j ≠ me ∧ j ∈ o.readyGot ∧ j ∉ o.resultTo)) ∧
            y.total = o.total + (ms.filter (fun j => decide (j ≠ me ∧ j ∈ o.readyGot ∧ j ∉ o.resultTo))).length *
              ((w.writeFrames g.val (clPart c) dst (w.heldRead p c.held dst sl)).length + 1)))) ∧
    (clGather c = false → o.reduced = false → o.contribOf.length = clM c - 1 → s.cleHeld g.val = false →
      ((∃ j ∈ ms, s.heldStops p c.held (at_ j) sl ≠ none) ∨ s.heldBad p c.held dst sl ≠ none) →
      Does (.collReduce g) s (fun t => (t.que o.ref.q).halted = true)))

/-- R360, R363, R366, R368: an acknowledgement counts for the command that its write belongs to, and the last one of a
send completes it; a bare lamp's counts for none. A reject, an ABORT and a timeout fault the command they concern; an
ABORT of any collective sets ABORTED. -/
def Obligations.AcknowledgementsCompleteOrFailCommands : Prop :=
  (∀ (l : Fin 24) (f : Frame) (s u : State) (w : Sent), f ∈ (s.link l.val).rxq →
    let k := s.link l.val
    let g := frameGroup f
    (s.setLink l.val { k with rxq := k.rxq.erase f }).settle l.val f = some (w, u) →
    (f.typ = 5 → (w.ref = none ∨ w.bare = true) → exec (.performedAck l f) s = .next u) ∧
    (∀ r o, f.typ = 5 → w.ref = some r → w.bare = false → (u.cle g).sends = [o] → o.ref = r →
      let d := (u.setCle g { u.cle g with sends := [{ o with acked := o.acked + 1 }] }).cleProgress g
      (o.acked + 1 ≠ o.total → exec (.performedAck l f) s = .next d) ∧
      (o.acked + 1 = o.total → o.started = true →
        exec (.performedAck l f) s = .next (((d.dropCle g r).completeRef r).cleProgress g))) ∧
    (∀ r o, f.typ = 5 → w.ref = some r → w.bare = false → (u.cle g).sends = [] → (u.cle g).coll = some o → o.ref = r →
      exec (.performedAck l f) s =
        .next (((u.setColl g { o with acked := o.acked + 1 }).cleProgress g).collMaybeDone g)) ∧
    (∀ r, f.typ = 8 → w.ref = some r → (s.queOwner r.q).isSome = true → (s.cmdAt r).isSome = true →
      Does (.inboundRejectReceive l f) s (fun t => (t.que r.q).halted = true))) ∧
  (∀ (l : Fin 24) (f : Frame) (s : State) (o : CollOp) (c : Cmd) (p : Nat), f ∈ (s.link l.val).rxq → f.typ = 7 →
    let k := s.link l.val
    s.collOp (frameGroup f) = some (o, c, p) →
    (clCollId c = frameColl f → Does (.abortReceive l f) s (fun t => (t.que o.ref.q).halted = true)) ∧
    (clCollId c ≠ frameColl f → exec (.abortReceive l f) s =
      .next ((s.setLink l.val { k with rxq := k.rxq.erase f }).flag .cle (frameGroup f) 0x18 (bit 29)))) ∧
  (∀ (g : Fin 6) (q : Fin 2048) (head : W32) (s : State) (p lq : Nat), s.queByNum q.val = some (p, lq) →
    let r : CmdRef := ⟨queKey p lq, head, none⟩
    let e := s.cle g.val
    (s.expired (.coll g.val (queKey p lq) head.toNat) = false → exec (.collTimeout g q head) s = .next s) ∧
    (s.expired (.coll g.val (queKey p lq) head.toNat) = true → (s.cmdAt r).isSome = true →
      (s.queOwner r.q).isSome = true → (e.sends.any (fun o => decide (o.ref = r)) = true ∨
        (∃ o, e.coll = some o ∧ o.ref = r)) →
      Does (.collTimeout g q head) s (fun t => (t.que r.q).halted = true)))


/-! ## The keeper runtime -/

/-- R9, R80, R377, R378, R379, R385: the runtime answers a session record with an outcome word at RES_ADDR and then completes it; a
word that cannot be written stops the queue. OPEN runs SES OPEN with the runtime's PLACE; PREFILL reads its tokens and
waits for its chunks; DECODE enters the live set, and waits while an earlier one of its session runs; HOLD, RESUME and
CLOSE end a running DECODE and run SET, FETCH and CLOSE of the session. A request of a handle that is not live, or with
a field out of range, is answered with its code; one whose reserved fields or mark words do not pass is answered FIELD
before anything else (which bits are reserved is the model's reading, log 91). -/
def Obligations.RuntimeAcceptsSessionRequests : Prop :=
  (∀ (s : State) (p q k : Nat) (r : CmdRef) (c : Cmd) (code value : Nat),
    let v := s.updPair k (fun x => { x with taken := x.taken.erase r, working := none })
    (∀ a u, v.storeVa (tlbPart p) p (v.qCtx p q) (srRes c) (leBytes 8 (value * 2 ^ 32 + code)) = (.ok a, u) →
      s.accept p q k r c code value = (true, ((u.noteCore (2 * k) a).noteHost r.q a).completeCmd r)) ∧
    (∀ b u, v.storeVa (tlbPart p) p (v.qCtx p q) (srRes c) (leBytes 8 (value * 2 ^ 32 + code)) = (.error b, u) →
      (s.accept p q k r c code value).1 = false ∧ ((s.accept p q k r c code value).2.q p q).halted = true)) ∧
  (∀ (p : Fin 8) (q : Fin 2048) (s : State) (op : Nat),
    ∀ i ∈ [(Instr.openSession p q, 1), (.prefill p q, 2), (.decode p q, 3), (.hold p q, 4), (.resume p q, 5),
      (.close p q, 6)], i.2 = op → s.rtRecord p.val q.val op = none → exec i.1 s = .next s) ∧
  (∀ (p : Fin 8) (q : Fin 2048) (s : State) (k : Nat) (r : CmdRef) (c : Cmd),
    let h := srHandle c
    let x := s.pair k
    let lc := s.qCtx p.val q.val
    let lead := Master.kp (pairFin k)
    let arg := fun (u : State) => u.setSesArg p.val 0 h.toNat
    let answer := fun (u : State) (code value : Nat) => (u.accept p.val q.val k r c code value).2
    let run := fun (i : Instr) (u : State) => stateOf (exec i u) u
    (s.srBad p.val q.val c = true → ∀ i ∈ [(Instr.openSession p q, 1), (.prefill p q, 2), (.decode p q, 3),
      (.hold p q, 4), (.resume p q, 5), (.close p q, 6)], s.rtRecord p.val q.val i.2 = some (k, r, c) →
      exec i.1 s = .next (answer s 6 0)) ∧
    (s.srBad p.val q.val c = false →
    (s.rtRecord p.val q.val 1 = some (k, r, c) →
      let n := (s.frameStacks p.val).length
      let place := if n = 0 then 0 else x.opens % n
      let u := run (.sesCmdOpen lead p) ((s.setPair k { x with opens := x.opens + 1 }).setSesArg p.val 1
        (srParam c - bitsOf (srParam c) 20 17 * 2 ^ 17 + place * 2 ^ 17))
      exec (.openSession p q) s = .next (answer u (outcomeOf (u.ses p.val).result)
        (if outcomeOf (u.ses p.val).result = 0 then u.sesArg p.val 0 else 0))) ∧
    (s.rtRecord p.val q.val 2 = some (k, r, c) →
      let n := srParam c
      let va := bitsOf (c.extWord 0 0) 47 0
      ((n = 0 ∨ 2 ^ 24 ≤ n) → exec (.prefill p q) s = .next (answer s 6 0)) ∧
      (0 < n → n < 2 ^ 24 → s.liveSes p.val h = false → exec (.prefill p q) s = .next (answer s 1 0)) ∧
      (∀ u b, 0 < n → n < 2 ^ 24 → s.sessionOutcome p.val x h true = 0 →
        s.xlateRanges (tlbPart p.val) p.val lc [⟨va, 4 * n, false⟩] [] = (.error b, u) →
        exec (.prefill p q) s = .next (answer u 5 0)) ∧
      (∀ u held v, 0 < n → n < 2 ^ 24 → s.sessionOutcome p.val x h true = 0 →
        s.xlateRanges (tlbPart p.val) p.val lc [⟨va, 4 * n, false⟩] [] = (.ok held, u) →
        u.tokensRead p.val held va (4 * n) = (false, v) → exec (.prefill p q) s = .next (answer v 5 0)) ∧
      (∀ u held v w, 0 < n → n < 2 ^ 24 → s.sessionOutcome p.val x h true = 0 → bitsOf (c.extWord 0 2) 31 0 = 0 →
        s.xlateRanges (tlbPart p.val) p.val lc [⟨va, 4 * n, false⟩] [] = (.ok held, u) →
        u.tokensRead p.val held va (4 * n) = (true, v) →
        ((v.setSesArg p.val 4 0).sesResult p.val 0x00).accept p.val q.val k r c 0 0 = (true, w) →
        Does (.prefill p q) s (fun t => (t.pair k).prefills = (w.pair k).prefills ++
          [{ lc := lc, session := h, tokens := n, done := 0, hashAddr := bitsOf (c.extWord 0 1) 47 0
             publish := decide (bitsOf (c.extWord 0 2) 32 32 = 1), doneMark := BitVec.ofNat 64 (c.extWord 0 3) }] ∧
          t.except [.pairs] = w.except [.pairs]))) ∧
    (s.rtRecord p.val q.val 3 = some (k, r, c) →
      let temp := BitVec.ofNat 32 (bitsOf (c.extWord 0 4) 31 0)
      let topK := bitsOf (c.extWord 0 4) 47 32
      let maxTok := bitsOf (c.word 6) 47 32
      let dl := bitsOf (c.extWord 0 1) 31 0
      let out := bitsOf (c.extWord 0 0) 47 0
      let bad := maxTok = 0 ∨ dl < 1000 ∨ badTemp temp = true ∨ 64 < topK ∨ out % 8 ≠ 0
      ((∃ d ∈ x.decodes, d.session = h) → exec (.decode p q) s = .next s) ∧
      ((∀ d ∈ x.decodes, d.session ≠ h) → bad → exec (.decode p q) s = .next (answer s 6 0)) ∧
      ((∀ d ∈ x.decodes, d.session ≠ h) → ¬ bad → s.liveSes p.val h = false →
        exec (.decode p q) s = .next (answer s 1 0)) ∧
      (∀ w, (∀ d ∈ x.decodes, d.session ≠ h) → ¬ bad → s.sessionOutcome p.val x h true = 0 →
        s.accept p.val q.val k r c 0 0 = (true, w) →
        Does (.decode p q) s (fun t => (t.pair k).decodes = (w.pair k).decodes ++
          [{ ref := r, lc := lc, session := h, resAddr := srRes c, maxTok := maxTok, outAddr := out, deadline := dl
             prog := BitVec.ofNat 64 (c.extWord 0 2), stop0 := BitVec.ofNat 32 (bitsOf (c.extWord 0 3) 63 32)
             stop1 := BitVec.ofNat 32 (bitsOf (c.extWord 0 3) 31 0), temp := temp, topK := topK, k := 0
             pos := x.len h, left := dl, missed := 0, redo := false, failedAt := none }]))) ∧
    (s.rtRecord p.val q.val 4 = some (k, r, c) →
      let u := answer (((s.endDecode p.val k h).updPair k (fun y =>
        { y with held := y.held.filter (fun z => decide (z ≠ h)) ++ [h] })).rtSet p (pairFin k) h
          ((s.endDecode p.val k h).heldWord p.val k h)) 0 0
      (s.liveSes p.val h = false → exec (.hold p q) s = .next (answer s 1 0)) ∧
      (s.liveSes p.val h = true → srParam c % 2 = 0 → u.cfg .kpr k 0x10 29 29 = 0 →
        exec (.hold p q) s = .next u) ∧
      (s.liveSes p.val h = true → (srParam c % 2 = 1 ∨ u.cfg .kpr k 0x10 29 29 = 1) →
        exec (.hold p q) s = .next (run (.sesCmdSpill lead p) (arg u))) ∧
      (s.liveSes p.val h = true → Does (.hold p q) s (fun t => h ∈ (t.pair k).held))) ∧
    (s.rtRecord p.val q.val 5 = some (k, r, c) →
      (s.liveSes p.val h = false → exec (.resume p q) s = .next (answer s 1 0)) ∧
      (s.liveSes p.val h = true → h ∉ x.held → exec (.resume p q) s = .next (answer s 2 0)) ∧
      (s.liveSes p.val h = true → h ∈ x.held → x.working ≠ some r → exec (.resume p q) s =
        .next ((run (.sesCmdFetch lead p) (arg s)).updPair k (fun y => { y with working := some r }))) ∧
      (s.liveSes p.val h = true → h ∈ x.held → x.working = some r → outcomeOf (s.ses p.val).result = 0 →
        exec (.resume p q) s = .next (answer ((s.updPair k (fun y =>
          { y with held := y.held.filter (fun z => decide (z ≠ h)) })).rtSet p (pairFin k) h (s.activeWord k)) 0 0)) ∧
      (s.liveSes p.val h = true → h ∈ x.held → x.working = some r → outcomeOf (s.ses p.val).result ≠ 0 →
        exec (.resume p q) s = .next (answer s (outcomeOf (s.ses p.val).result) 0))) ∧
    (s.rtRecord p.val q.val 6 = some (k, r, c) →
      (x.working = some r → exec (.close p q) s = .next (answer s (outcomeOf (s.ses p.val).result) 0)) ∧
      (x.working ≠ some r → s.liveSes p.val h = false → exec (.close p q) s = .next (answer s 1 0)) ∧
      (x.working ≠ some r → s.liveSes p.val h = true →
        exec (.close p q) s = .next (run (.sesCmdClose lead p) (arg ((s.endDecode p.val k h).updPair k (fun y =>
          { (y.setLen h 0) with
            held := y.held.filter (fun z => decide (z ≠ h))
            prefills := y.prefills.filter (fun z => decide (z.session ≠ h)), working := some r }))))))))

/-- R375, R376, R380, R381, R382, R384, R387, R424, R428: a runtime that starts reads IDLE with RT_EN 0, BLOCKED where its
context is in use or the partition has fewer than two queues, and else RUNNING. A step counts, records its duration, and
runs a prefill chunk of at most 512 tokens when nothing is live; with nothing to do it sleeps. The batch holds at most
BATCH_MAX sessions of the live ones, and sampling leaves NaN out. Each power-cap period moves every tile by the table. A
write of KPR_HB is a heartbeat; a missed one sets KEEPER_LOST and resets the pair. -/
def Obligations.RuntimeStartsStepsAndIsWatched : Prop :=
  (∀ (p : Fin 8) (s : State) (k : Nat), s.leadOf p.val = some k → s.domOn (domKp k) = true →
    s.sec.keeperFw = some true → (s.startHeld = false ∨ p.val ∈ s.boot.runtimes) → (s.pair k).st = .starting →
    let x := s.pair k
    let at_ := x.sampled.getD (decide (s.cfg .kpr k 0x10 31 31 = 1), s.cfg .kpr k 0x10 23 16)
    let free := (s.ctx (s.devCtx p.val at_.2)).st = .free
    Does (.runtimeStart p) s (fun t =>
      (t.pair k).inReset = false ∧ (t.pair k).steps = 0 ∧ (t.pair k).sampled = some at_ ∧
      (at_.1 = false → (t.pair k).st = .idle) ∧
      (at_.1 = true → ((¬ free ∧ x.owns = false) ∨ s.ctxQuota p.val ≤ at_.2 ∨ s.queQuota p.val < 2) →
        (t.pair k).st = .blocked) ∧
      (at_.1 = true → (free ∨ x.owns = true) → at_.2 < s.ctxQuota p.val → 2 ≤ s.queQuota p.val →
        (t.pair k).st = .running ∧ (t.pair k).owns = true) ∧
      (∀ j, j < 8 → j ≠ k → s.partOfKp j = some p.val → s.domOn (domKp j) = true → (s.pair j).inReset = true →
        t.pair j = { s.pair j with inReset := false, st := .running }) ∧
      t.timerRuns (.capPeriod p.val) = true)) ∧
  (∀ (p : Fin 8) (s : State), (s.leadOf p.val = none ∨ s.sec.keeperFw ≠ some true ∨
    (s.startHeld = true ∧ p.val ∉ s.boot.runtimes)) →
    exec (.runtimeStart p) s = .next s) ∧
  (∀ (p : Fin 8) (n : Nat) (rolls : List RollItem) (rs : List StepResult) (s : State) (k : Nat),
    s.rtLead p.val = some k → (s.ses p.val).op = none → (s.pair k).working = none →
    let x := s.pair k
    let cap := if s.cfg .kpr k 0x10 12 0 = 0 then 4096 else s.cfg .kpr k 0x10 12 0
    let live := x.decodes.filter (fun d => !(d.redo && (s.sesEnt p.val (handleSlot d.session)).parked))
    let batch := batchOf x.tEst cap live
    (∀ u, s.recoverStep p k = some u → exec (.runtimeStep p n rolls rs) s = .next u) ∧
    (s.recoverStep p k = none → live = [] → x.prefills = [] →
      exec (.runtimeStep p n rolls rs) s = .next ((s.runtimePrio p.val k).draw 1).2) ∧
    (s.recoverStep p k = none → batch ≠ [] → x.prefills = [] →
      (∀ d ∈ batch, ∃ r ∈ rs, r.session = d.session) → Does (.runtimeStep p n rolls rs) s (fun t =>
        (t.pair k).steps = x.steps + 1 ∧ (t.pair k).batch = batch.length ∧
        (t.pair k).durations = (x.durations ++ [n]).drop (x.durations.length + 1 - 8))) ∧
    (∀ f rest, s.recoverStep p k = none → live = [] → x.prefills = f :: rest → f.done + 512 < f.tokens →
      Does (.runtimeStep p n rolls rs) s (fun t => (t.pair k).steps = x.steps + 1 ∧
        (t.pair k).prefills = { f with done := f.done + 512 } :: rest ∧ (t.pair k).batch = 0))) ∧
  (∀ (t cap : Nat) (live : List DecodeReq), (batchOf t cap live).length = min cap live.length ∧
    (∀ d ∈ batchOf t cap live, d ∈ live)) ∧
  (∀ (recs : List CandRec) (n : Nat), (mergeCands recs n).length ≤ n ∧
    (∀ c ∈ mergeCands recs n, (fp32Num c.2).isNaN = false ∧ ∃ r ∈ recs, c ∈ r.cands) ∧
    (∀ d, pickToken (mergeCands recs 1) true d = (mergeCands recs 1).head?.map (·.1))) ∧
  (∀ (p : Fin 8) (s : State) (k : Nat), s.leadOf p.val = some k →
    let cap := s.cfg .kpr k 0x18 31 20
    let lim := if cap ≠ 0 ∧ cap < s.effW then cap else s.effW
    let new := fun j => capStep s.pwr.powerQ.toNat lim (s.tile j).freq.target (s.cfg .kpr k 0x18 19 15)
    (s.expired (.capPeriod p.val) = true → ((s.pair k).st = .running ∨ (s.pair k).st = .idle) →
      Does (.powerCapPeriod p) s (fun t => (∀ j ∈ s.onTiles p.val,
        (new j = (s.tile j).freq.target → t.blk ⟨.tile, j⟩ = s.blk ⟨.tile, j⟩) ∧
        (new j ≠ (s.tile j).freq.target → snapWord .tile (t.blk ⟨.tile, j⟩) 0x40 =
          setField (stagedWord .tile (s.blk ⟨.tile, j⟩) 0x40) 4 0 (new j))) ∧
        t.except [.blocks, .timers] = s.except [.blocks, .timers])) ∧
    ((s.expired (.capPeriod p.val) = false ∨ ((s.pair k).st ≠ .running ∧ (s.pair k).st ≠ .idle)) →
      exec (.powerCapPeriod p) s = .next s)) ∧
  (∀ pq c cur top : Nat, (105 * 4 * c < 100 * pq → capStep pq c cur top = min cur 8) ∧
    (4 * c < pq → 100 * pq ≤ 105 * 4 * c → capStep pq c cur top = cur - 1) ∧
    (1000 * pq < 975 * 4 * c → capStep pq c cur top = min (cur + 1) top) ∧
    (975 * 4 * c ≤ 1000 * pq → pq ≤ 4 * c → capStep pq c cur top = cur)) ∧
  (∀ (m : Master) (p : Fin 8) (v : W32) (s : State),
    let u := s.setPlain .kpr p.val 0x30 v
    let hb := s.cfg .kpr p.val 0x34 11 0 * 1000000
    (s.reaches m ⟨.kpr, p.val⟩ = true →
      ((∃ e ∈ s.timers, e.id = .heartbeat p.val ∧ e.left ≤ (hb * 65536 : Nat)) →
        exec (.kprHbWrite m p v) s = .next (u.startTimer (.heartbeat p.val) .mgmt hb)) ∧
      ((∀ e ∈ s.timers, e.id = .heartbeat p.val → ((hb * 65536 : Nat) : Int) < e.left) →
        exec (.kprHbWrite m p v) s = .next u)) ∧
    (s.reaches m ⟨.kpr, p.val⟩ = false → exec (.kprHbWrite m p v) s = .next s)) ∧
  (∀ (p : Fin 8) (s : State) (g : Nat), s.partOfKp p.val = some g →
    (s.expired (.heartbeat p.val) = false → exec (.heartbeatMiss p) s = .next s) ∧
    (s.expired (.heartbeat p.val) = true → s.pwr.switch = none → Does (.heartbeatMiss p) s (fun t =>
      (t.flags .flt g 0x24).getLsbD 29 = true ∧ (s.leadOf g = some p.val → (t.pair p.val).st = .starting) ∧
      (s.leadOf g ≠ some p.val → (t.pair p.val).inReset = true))))


/-! ## Tallies, the fog, ledgers and watch slots -/

/-- R394, R396, R397, R398, R399, R400, R407, R408, R409, R411, R415, R416: CLEAR zeroes its range of tallies and no other.
A fog counts FOG_ID on, skipping 0, and one raised while FOGGED only counts in IGNORED; a unit it reaches stops its
tallies and records the stamp, the fog and its channel ends, and a tile its watch snapshots; THAW lets them count again.
ARM starts a ledger from empty, STOP stops it whatever its state, the first trigger takes TRIG_AT and writes its record,
which a shortage drops and counts, and an acknowledged burst frees 64 staging slots. SNAP and CLEAR act on the watch slots that their mask names. -/
def Obligations.FogTalliesLedgersAndWatch : Prop :=
  (∀ (m : Master) (b : BlkId) (first n : BitVec 8) (s : State), isTal b.kind = true → b.unit < unitCount b.kind →
    let k := blkKey b
    let hit := fun i => first.toNat ≤ i ∧ i ≤ first.toNat + n.toNat ∧ i < tallyCount b.kind ∧
      s.tallyHidden m b i = false
    (s.mayWrite m b 0x10 = true → Does (.talClear m b first n) s (fun t =>
      (∀ i, SMap.get 0 (t.tal k).counts i = if hit i then 0 else SMap.get 0 (s.tal k).counts i) ∧
      (∀ i, SMap.get false (t.tal k).ovf i = if hit i then false else SMap.get false (s.tal k).ovf i) ∧
      (t.tal k).frozen = (s.tal k).frozen ∧ (∀ j, j ≠ k → t.tal j = s.tal j) ∧ t.except [.tals] = s.except [.tals])) ∧
    (s.mayWrite m b 0x10 = false → exec (.talClear m b first n) s = .next s)) ∧
  (∀ (s : State) (src : BitVec 3),
    (s.fog.fogged = true → s.raiseFog src = { s with fog := { s.fog with
      ignored := (if s.fog.ignored = 0xFFF then 0xFFF else s.fog.ignored + 1) } }) ∧
    (s.fog.fogged = false → (s.raiseFog src).fog.fogged = true ∧ (s.raiseFog src).fog.source = src ∧
      (s.raiseFog src).fog.id = (if s.fog.id = 0xFF then 1 else s.fog.id + 1) ∧
      (s.raiseFog src).fog.reach = s.fogUnits ∧
      (s.cfg .talIo 0 0x30 30 30 = 1 → (s.raiseFog src).timerRuns .fogOut = true ∧
        .fogOut true ∈ (s.raiseFog src).out))) ∧
  (∀ (n : Nat) (m : Master) (s : State),
    (s.pwr.aux = true → s.cfg .talIo 0 0x30 31 31 = 1 → 20 ≤ n → exec (.fogInEdge n) s = .next (s.raiseFog 0)) ∧
    (s.pwr.aux = true → s.cfg .talIo 0 0x30 31 31 = 1 → 5 ≤ n → n < 20 → Does (.fogInEdge n) s (fun t =>
      t = (s.draw 1).2.raiseFog 0 ∨ t = (s.draw 1).2)) ∧
    ((s.pwr.aux = false ∨ s.cfg .talIo 0 0x30 31 31 = 0 ∨ n < 5) → exec (.fogInEdge n) s = .next s) ∧
    (s.mayWrite m ⟨.talIo, 0⟩ 0x34 = true → exec (.fire m) s = .next (s.raiseFog (if m = .mgmt then 2 else 1))) ∧
    (s.mayWrite m ⟨.talIo, 0⟩ 0x34 = false → exec (.fire m) s = .next s ∧ exec (.thaw m) s = .next s) ∧
    (s.mayWrite m ⟨.talIo, 0⟩ 0x34 = true → Does (.thaw m) s (fun t => (∀ k, (t.tal k).frozen = false) ∧
      (s.cfg .talIo 0 0x30 29 29 = 0 → t.fog.fogged = false ∧ t.fog.id = s.fog.id) ∧
      (SMap.wf .reset s.tals = true → ∀ k, (t.tal k).stamp = (s.tal k).stamp ∧ (t.tal k).chan = (s.tal k).chan) ∧
      (∀ b ∈ ledgerBlocks, (s.ldg (blkKey b)).st = .frozen → (s.ldg (blkKey b)).before = .recording →
        (t.ldg (blkKey b)).st ≠ .frozen))) ∧
    (s.fog.outLow = true → s.expired .fogOut = true → exec .fogOutEnd s =
      .next ((({ s with fog := { s.fog with outLow := false } } : State).stopTimer .fogOut).emit (.fogOut false))) ∧
    ((s.fog.outLow = false ∨ s.expired .fogOut = false) → exec .fogOutEnd s = .next s)) ∧
  (∀ (b : BlkId) (s : State),
    let k := blkKey b
    (b ∉ s.fog.reach → exec (.fogFreeze b) s = .next s) ∧
    (b ∈ s.fog.reach → s.fog.fogged = true → s.talOn b = true → Does (.fogFreeze b) s (fun t =>
      t.fog.reach = s.fog.reach.erase b ∧ (t.tal k).frozen = true ∧ (t.tal k).stampV = true ∧
      (t.tal k).fogId = s.fog.id ∧ (t.tal k).stamp = s.cycle (islandCode (s.talIsland b)) ∧
      (t.tal k).counts = (s.tal k).counts ∧
      (∀ e ∈ chanEnds b, SMap.get (0, 0) (t.tal k).chan e.1 = s.endCounts e.2) ∧
      (b.kind = .talTile → ∀ w, w < 4 → (t.wch (wchKey b.unit w)).snap = (s.wch (wchKey b.unit w)).acc) ∧
      (b.kind = .talTile → (s.ldgCfg ⟨.ldgTile, b.unit⟩).fogAct = false →
        (s.ldg (blkKey ⟨.ldgTile, b.unit⟩)).st = .recording →
        (t.ldg (blkKey ⟨.ldgTile, b.unit⟩)).st = .frozen))) ∧
    (b ∈ s.fog.reach → s.talOn b = false → Does (.fogFreeze b) s (fun t => t.fog.reach = s.fog.reach.erase b ∧
      (t.tal k).frozen = (s.tal k).frozen ∧ (t.tal k).stamp = (s.tal k).stamp ∧
      t.except [.fog, .tals] = s.except [.fog, .tals]))) ∧
  (∀ (m : Master) (b : BlkId) (s : State), isLdg b = true →
    let k := blkKey b
    let c := s.ldgCfg b
    let l := s.ldg k
    (s.mayWrite m b 0x2C = true → exec (.ldgArm m b) s = .next (s.setLdg k { Ledger.reset with
      latch := l.latch, st := if l.st = .frozen then .frozen else .recording, before := .recording
      lastAt := l.lastAt, lastN := l.lastN })) ∧
    (s.mayWrite m b 0x2C = true → exec (.ldgStop m b) s = .next (s.setLdg k { l with st := .stopped, held := [] })) ∧
    (s.mayWrite m b 0x2C = false → exec (.ldgArm m b) s = .next s ∧ exec (.ldgStop m b) s = .next s ∧
      exec (.ldgTrigger m b) s = .next s) ∧
    ((c.en = false ∨ ldgBusy l.st = false) → exec (.ldgTrigger m b) s = .next s) ∧
    (s.mayWrite m b 0x2C = true → c.en = true → ldgBusy l.st = true → l.trigged = false → c.lossless = false →
      l.short c (s.ldgStamp b) 1 = true → Does (.ldgTrigger m b) s (fun t =>
        (t.ldg k).trigged = true ∧ (t.ldg k).trigAt = l.wcount ∧ (t.ldg k).wcount = l.wcount ∧
        (t.ldg k).lost = satAdd32 l.lost 1 ∧ (t.flags b.kind b.unit 0x30).getLsbD 28 = true)) ∧
    (s.mayWrite m b 0x2C = true → c.en = true → l.st = .recording → l.trigged = false →
      l.short c (s.ldgStamp b) 1 = false → Does (.ldgTrigger m b) s (fun t =>
      (t.ldg k).trigged = true ∧ (t.ldg k).trigAt = l.wcount ∧ (t.ldg k).wcount = l.wcount + 1 ∧
      SMap.get [] (t.ldg k).slots (l.wcount.toNat % (if c.spill then 2048 else c.cap)) =
        [s.ldgStamp b, BitVec.ofNat 64 (ldgR1 nobody 0x0E 0x80),
         BitVec.ofNat 64 l.wcount.toNat, 1] ∧
      (∀ j, j ≠ k → t.ldg j = s.ldg j))) ∧
    (s.mayWrite m b 0x2C = true → l.trigged = true → Does (.ldgTrigger m b) s (fun t =>
      t.ldg k = l ∧ t.except [.ldgs] = s.except [.ldgs])) ∧
    (∀ v : W32, s.mayWrite m b 0x40 = true → Does (.ldgRdSelWrite m b v) s (fun t =>
      plainWord b.kind (t.blk b) 0x40 = v &&& 0x7FF ∧
      (t.ldg k).latch = ((halves ((SMap.get [] l.slots (bitsOf v.toNat 10 0)).map (fun x : W64 => x.toNat))) ++
        List.replicate 8 0).take 8 ∧ t.except [.blocks, .ldgs] = s.except [.blocks, .ldgs]))) ∧
  (∀ (b : BlkId) (s : State) (ok : Bool), isLdg b = true →
    let k := blkKey b
    let c := s.ldgCfg b
    let l := s.ldg k
    let n0 := l.wcount.toNat - l.staged
    let recs := (List.range 64).map (fun j => (n0 + j, SMap.get [] l.slots ((n0 + j) % 2048)))
    ((c.spill = false ∨ l.staged < 64) → exec (.ldgBurstAck b ok) s = .next s) ∧
    (c.spill = true → 64 ≤ l.staged → l.held = [] →
      (ok = true → (∀ r ∈ recs, ∃ j, physAt (c.area + 32 * (r.1 % c.cap)) = .stack j ∧ s.stackUp j = true) →
        exec (.ldgBurstAck b ok) s = .next (recs.foldl (fun u r => u.writeBytes (c.area + 32 * (r.1 % c.cap))
          (r.2.flatMap (fun w => leBytes 8 w.toNat))) (s.setLdg k { l with staged := l.staged - 64 }))) ∧
      (ok = false → Does (.ldgBurstAck b ok) s (fun t => (t.ldg k).staged = l.staged - 64 ∧
        (t.ldg k).lost = satAdd32 l.lost 64 ∧ t.mem = s.mem ∧ (t.flags b.kind b.unit 0x30).getLsbD 26 = true ∧
        (t.flags b.kind b.unit 0x30).getLsbD 28 = true)))) ∧
  (∀ (m : Master) (t : Fin 48) (slots : BitVec 4) (s : State),
    (s.mayWrite m ⟨.wch, t.val⟩ 0x10 = true →
      Does (.wchSnap m t slots) s (fun u => (∀ w, w < 4 → u.wch (wchKey t.val w) =
        if slots.getLsbD w then { s.wch (wchKey t.val w) with snap := (s.wch (wchKey t.val w)).acc }
        else s.wch (wchKey t.val w)) ∧ u.except [.wchs] = s.except [.wchs]) ∧
      Does (.wchClear m t slots) s (fun u => (∀ w, w < 4 → u.wch (wchKey t.val w) =
        if slots.getLsbD w then .reset else s.wch (wchKey t.val w)) ∧ u.except [.wchs] = s.except [.wchs])) ∧
    (s.mayWrite m ⟨.wch, t.val⟩ 0x10 = false →
      exec (.wchSnap m t slots) s = .next s ∧ exec (.wchClear m t slots) s = .next s))


/-! ## Faults and recovery -/

/-- R422, R423, R425, R428, R429, R430, R431, R432: a progress timeout halts the queue, and with AUTO_CTX resets its
context. A hung engine is reset and sets ESCALATED. An ENGINE order removes the engine's work and completes OK, waits
where a SAVE or a domain switch holds it, and reads FIELD for no engine of the partition and BUSY for one in reset. A
partition reset frees every context, empties queues, rings and barriers, and runs within its bound; a chip reset starts
the device anew but for flash, OTP and pins. A rung past its bound is taken over by the one above. -/
def Obligations.LadderClimbsItsRungs : Prop :=
  (∀ (p : Fin 8) (q : Fin 2048) (s : State),
    let x := s.q p.val q.val
    let tmo := s.qTmo p.val q.val
    let i := x.cmds.findIdx (fun c => decide (c.phase = .fetched))
    let dc := s.devCtx p.val (s.qCtx p.val q.val)
    ((s.expired (.progress (s.devQue p.val q.val)) = false ∨ x.halted = true) →
      exec (.progressTimeout p q) s = .next s) ∧
    (∀ c, s.expired (.progress (s.devQue p.val q.val)) = true → x.halted = false →
      x.cmds.find? (fun c => decide (c.phase ≠ .stuck)) = some c →
      let u := (s.raise p.val (s.cmdFault p.val q.val c ⟨0x16, s.waitsOn p.val q.val c, tmo, 2, 0, 0x7F⟩ 4 p.val
        0)).haltFrom p.val q.val i
      (s.cfg .flt p.val 0x10 30 30 = 0 → exec (.progressTimeout p q) s = .next u ∧ (u.q p.val q.val).halted = true) ∧
      (s.cfg .flt p.val 0x10 30 30 = 1 → (s.ctx dc).st = .active → Does (.progressTimeout p q) s (fun t =>
        t = u.resetContext p.val (s.qCtx p.val q.val) false ∧ (t.ctx dc).st ≠ .faulted))) ∧
    (s.expired (.progress (s.devQue p.val q.val)) = true → x.halted = false → s.cfg .flt p.val 0x10 30 30 = 0 →
      Does (.progressTimeout p q) s (fun t => (t.q p.val q.val).halted = true)) ∧
    (∀ c, c.phase = .fetched → c.allMet = false → s.waitsOn p.val q.val c = 1)) ∧
  (∀ (e : Eng) (n : Nat) (s : State),
    ((s.expired (.engine e n) = false ∨ s.engineWaits e n = true) → exec (.engineHang e n) s = .next s) ∧
    (∀ p, s.expired (.engine e n) = true → s.engineWaits e n = false → s.engPart e n = some p →
      Rung.engine e n ∉ (s.part p).rstRuns → Does (.engineHang e n) s (fun t =>
        (t.flags .flt p 0x24).getLsbD 30 = true ∧
        (∀ r g q c, (s.stopTimer (.engine e n)).engineNow e n = some r → s.queOwner r.q = some (g, q) → s.cmdAt r = some c →
          t = (((s.stopTimer (.engine e n)).raise g ((s.stopTimer (.engine e n)).cmdFault g q c
            ⟨0x17, 0, s.cfg .flt p 0x28 15 0, 2, 0, (r.stage).getD 0x7F⟩ (engClass e) n 0)).engineReset p e
              n).escalated p)))) ∧
  (∀ (m : Master) (p : Fin 8) (k : BitVec 4) (n : BitVec 8) (s : State),
    s.reaches m ⟨.flt, p.val⟩ = true → s.ownFnKpMgmt m p.val = true →
    (engOf k.toNat = none → exec (.engineReset m p k n) s = .next (s.rstResult p.val 0x02)) ∧
    (∀ e, engOf k.toNat = some e →
      let g := Rung.engine e n.toNat
      (s.engPart e n.toNat ≠ some p.val → exec (.engineReset m p k n) s = .next (s.rstResult p.val 0x02)) ∧
      (s.engPart e n.toNat = some p.val → (s.part p.val).rstBusy = none → g ∈ (s.part p.val).rstRuns →
        exec (.engineReset m p k n) s = .next (s.rstResult p.val 0x01)) ∧
      (s.engPart e n.toNat = some p.val → (s.part p.val).rstBusy = none → g ∉ (s.part p.val).rstRuns →
        s.engineHeld e n.toNat = false → Does (.engineReset m p k n) s (fun t =>
          (t.part p.val).rstBusy = none ∧ (t.part p.val).rstRes = 0 ∧
          (e = .mxe → (t.mxe n.toNat).act = .reset ∧ (t.mxe n.toNat).shd = .reset ∧ (t.mxe n.toNat).slot0 = .reset ∧
            (t.mxe n.toNat).slot1 = .reset ∧ (t.mxe n.toNat).passes = [] ∧ (t.mxe n.toNat).drains = []) ∧
          (e = .vxe → (t.vxe n.toNat).op = none) ∧ (e = .ste → (t.ste n.toNat).cmds = []) ∧
          (e = .nme → (t.nme n.toNat).ops = []) ∧
          (∀ r, e ≠ .kpr → s.engineRefs e n.toNat = [r] → (s.queOwner r.q).isSome = true → (s.cmdAt r).isSome = true →
            (t.que r.q).halted = true))) ∧
      (s.engPart e n.toNat = some p.val → (s.part p.val).rstBusy = none → g ∉ (s.part p.val).rstRuns →
        s.engineHeld e n.toNat = true → Does (.engineReset m p k n) s (fun t =>
          g ∈ (t.part p.val).rstRuns ∧ (t.part p.val).rstBusy = some g ∧ t.timerRuns (.rung p.val g) = true ∧
          t.except [.parts, .timers] = s.except [.parts, .timers])))) ∧
  (∀ (m : Master) (p : Fin 8) (s : State) (c : PartCfg), s.cfgOf p.val = some c →
    s.reaches m ⟨.flt, p.val⟩ = true → s.ownFnKpMgmt m p.val = true → s.applying ⟨.flt, p.val⟩ = false →
    (s.part p.val).rstBusy = none →
    (Rung.partition ∉ (s.part p.val).rstRuns → Does (.partitionReset m p) s (fun t =>
      (t.part p.val).rstRuns = [.partition] ∧ (t.part p.val).rstBusy = some .partition ∧
      (t.part p.val).ready = false ∧ t.timerRuns (.rung p.val .partition) = true ∧
      (∀ n, n < c.ctxQuota → (t.ctx (s.devCtx p.val n)).st = .free) ∧
      (∀ n, n < c.queQuota → t.que (s.devQue p.val n) = .reset) ∧
      (∀ n, n < 64 → t.ring (ringKey p.val n) = .reset) ∧ (∀ n, n < 16 → t.bar (barKey p.val n) = .reset))) ∧
    (Rung.partition ∈ (s.part p.val).rstRuns →
      exec (.partitionReset m p) s = .next (s.rstResult p.val 0x01))) ∧
  (∀ (m : Master) (p : Fin 8) (s : State), s.reaches m ⟨.flt, p.val⟩ = true →
    (m = .pf → Does (.chipReset m p) s (fun t => t.flash = s.flash ∧ t.mem = [] ∧ t.ctxs = [] ∧ t.ques = [] ∧
      t.parts = [] ∧ t.board.inc = s.board.inc + 1 ∧ t.boot.chipReset = true ∧ t.timerRuns (.rung 0 .chip) = true ∧
      t.pending = s.pending ∧ t.straps = s.straps)) ∧
    (m ≠ .pf → s.ownFnKpMgmt m p.val = true → exec (.chipReset m p) s = .next (s.rstResult p.val 0x03))) ∧
  (∀ (s : State), exec .powerCycle s =
    .next (({ s with pwr := { s.pwr with cycleReq := true } }).emit .powerCycleReq)) ∧
  (∀ (p : Fin 8) (r : Rung) (s : State),
    let n := if r = .chip then 0 else p.val
    (s.expired (.rung n r) = false → exec (.rungTimeout p r) s = .next s) ∧
    (s.expired (.rung n r) = true →
      (∀ e u c, r = .engine e u → s.cfgOf p.val = some c → Does (.rungTimeout p r) s (fun t =>
        (t.part p.val).rstRuns = [.partition] ∧ (t.flags .flt p.val 0x24).getLsbD 30 = true)) ∧
      (r = .partition → Does (.rungTimeout p r) s (fun t => t.mem = [] ∧ t.ctxs = [] ∧ t.boot.chipReset = true ∧
        t.timerRuns (.rung 0 .chip) = true ∧ (t.flags .flt p.val 0x24).getLsbD 30 = true)) ∧
      (r = .chip → Does (.rungTimeout p r) s (fun t => t.pwr.cycleReq = true ∧ .powerCycleReq ∈ t.out)) ∧
      (∀ lc, r = .context lc → lc ∈ (s.part p.val).resetting → s.tilesHolding p.val lc = [] →
        Does (.rungTimeout p r) s (fun t => (t.flags .flt p.val 0x24).getLsbD 30 = true))))

/-- R425, R430, R435, R436, R437, R438, R439, R446: PERST# resets the chip and holds the interface off until its release.
A link that trains shows its rate, width and mode; one that goes down sets LINK_DOWN and leaves the partitions running.
A function-level reset resets the function and its partition, a hot reset the whole interface. A configuration write
takes effect once the function is ready. A request that fails sets its flag and gives its reader the failure; an ATS
invalidation drops its pages and answers; an integrity failure leaves the stream insecure. -/
def Obligations.HostInterfaceResetsAndConfigures : Prop :=
  (∀ (s : State),
    let v := { s with pcx := { s.pcx with perst := true } }
    let w := { s with pcx := { s.pcx with perst := false } }
    (s.pwr.aux = true → Does .perstAssert s (fun t => t = v.chipReset false ∧ t.pcx.perst = true ∧ t.pcx.up = false ∧
      t.mem = [] ∧ t.timerRuns (.rung 0 .chip) = true)) ∧
    (s.pwr.aux = false → exec .perstAssert s = .next v) ∧
    (s.pwr.conv = true → s.startHeld = false → s.domOn domPcie = false → s.boot.fromMgmt = false →
      Does .perstRelease s (fun t => t.domOn domPcie = true ∧ t.pcx.perst = false ∧ t.funcs = [])) ∧
    ((s.pwr.conv = false ∨ s.startHeld = true ∨ s.domOn domPcie = true ∨ s.boot.fromMgmt = true) →
      exec .perstRelease s = .next w) ∧
    (s.domOn domPcie = true → Does .hotReset s (fun t => (∀ k, k < 9 → t.func k = .reset) ∧ t.pcx.up = false ∧
      t.pcx.gen = 0 ∧ t.pcx.width = 0 ∧ t.pcx.numVfs = 0 ∧ t.except [.pcx, .funcs] = s.except [.pcx, .funcs])) ∧
    (s.domOn domPcie = false → exec .hotReset s = .next s) ∧
    (s.pcx.up = true → exec .pcieLinkDown s = .next (({ s with pcx := { s.pcx with
      gen := 0, width := 0, flit := false, up := false, pm := 0 } }).flag .pcx 0 0x14 (bit 28))) ∧
    (s.pcx.up = false → exec .pcieLinkDown s = .next s ∧ exec .ideIntegrityFailure s = .next s) ∧
    (s.pcx.up = true → exec .ideIntegrityFailure s = .next { s with pcx := { s.pcx with ideSecure := false } })) ∧
  (∀ (gen : BitVec 4) (width : BitVec 5) (flit : Bool) (s : State),
    (linkOk gen width flit = true → s.domOn domPcie = true → s.pcx.perst = false →
      exec (.pcieLinkUp gen width flit) s = .next (({ s with pcx := { s.pcx with
        gen := gen, width := width, flit := flit, up := true, pm := 0 } }).setFunc 0
          { s.func 0 with present := true })) ∧
    (linkOk gen width flit = true → (s.domOn domPcie = false ∨ s.pcx.perst = true) →
      exec (.pcieLinkUp gen width flit) s = .next s)) ∧
  (∀ (fn : Fin 9) (s : State), s.pcx.up = true → (s.func fn.val).present = true →
    (∀ p c, s.partOfFn fn.val = some p → s.cfgOf p = some c → s.applying ⟨.flt, p⟩ = false →
      Does (.functionLevelReset fn) s (fun t => t.func fn.val = { Func.reset with present := true } ∧
        (t.part p).rstRuns = [.partition] ∧ (∀ n, n < c.queQuota → t.que (s.devQue p n) = .reset))) ∧
    (s.partOfFn fn.val = none → Does (.functionLevelReset fn) s (fun t =>
      t.func fn.val = { Func.reset with present := true } ∧ t.except [.funcs, .pcx] = s.except [.funcs, .pcx]))) ∧
  (∀ (fn : Fin 9) (vfs : Option Nat) (bme ats atomicEn : Option Bool) (mx : Option (Bool × Bool)) (s : State),
    (fn.val = 0 ∨ vfs = none) →
    let f := s.func fn.val
    let on := ats.getD f.atsEn
    (s.pcx.up = true → f.present = true → s.fnReady fn.val = true →
      Does (.configurationWrite fn vfs bme ats atomicEn mx) s (fun t =>
        let g := t.func fn.val
        g.present = true ∧ g.bme = bme.getD f.bme ∧ g.atsEn = on ∧ g.atc = (if on then f.atc else []) ∧
        g.atomicEn = atomicEn.getD f.atomicEn ∧ g.msixEn = (mx.map (·.1)).getD f.msixEn ∧
        g.msixMask = (mx.map (·.2)).getD f.msixMask ∧
        (∀ n k, vfs = some n → n ≤ 8 → k < 8 → t.pcx.numVfs = n ∧ ((t.func (k + 1)).present = true ↔ k < n)))) ∧
    ((s.pcx.up = false ∨ f.present = false ∨ s.fnReady fn.val = false) →
      exec (.configurationWrite fn vfs bme ats atomicEn mx) s = .next s)) ∧
  (∀ (k : Nat) (s : State),
    (∀ e, (s.hostReqs)[k]? = some e → Does (.hostRequestTimeout k) s (fun t =>
      t = ({ s with pcx := { s.pcx with reqs := s.pcx.reqs.erase e.2 } }).hostFails e.2 ∧
      (t.flags .pcx 0 0x14).getLsbD 30 = true)) ∧
    ((s.hostReqs)[k]? = none → exec (.hostRequestTimeout k) s = .next s)) ∧
  (∀ (fn : Fin 9) (addr : W64) (n : Nat) (s : State),
    let f := s.func fn.val
    let gone := fun (e : Nat × Nat) => decide (addr.toNat / 4096 ≤ e.1) && decide (e.1 < addr.toNat / 4096 + n)
    (s.pcx.up = true → f.present = true → f.atsEn = true →
      (f.atc.any gone = false ∨ (∀ r ∈ s.hostReqs, r.1 ≠ fn.val)) → exec (.atsInvalidation fn addr n) s =
        .next ((s.setFunc fn.val { f with atc := f.atc.filter (fun e => !(gone e)) }).emit (.atsReply fn.val))) ∧
    ((s.pcx.up = false ∨ f.present = false ∨ f.atsEn = false) → exec (.atsInvalidation fn addr n) s = .next s))


/-! ## The management port -/

/-- R446, R448, R449, R450, R457, R458, R460, R461: the port takes its addresses and answers the MCTP control messages;
each Auteha request is answered with its CMD and TAG, a virtual function's mailbox with DENIED but for ATTEST and
GET_IDENTITY. GET_INFO, GET_HEALTH and the two identity commands answer at their lengths, the register commands act, word by
word in ascending order, with the rights of the port, FOG and RESET order what they name, OTP_WRITE_GEN programs the lowest unused area under its
conditions, and IDE_KEY_SET installs the key that the sealed payload opens to. -/
def Obligations.ManagementPortAnswersRequests : Prop :=
  (∀ (a : BitVec 7) (e typ sel : Byte) (s : State), s.portUp = true →
    (s.mgt.daValid = false → ∀ i ∈ [(Instr.setdasa a, 0x30 + s.posNow.toNat), (.entdaa a, s.provisionalId)],
      exec i.1 s = .next (({ s with mgt := { s.mgt with daValid := true, dynAddr := a } } : State).emit (.i3cId i.2))) ∧
    s.provisionalId % 8 = s.posNow.toNat ∧
    (s.mgt.daValid = true → ∀ i ∈ [Instr.setdasa a, .entdaa a], exec i s = .next s) ∧
    (e ≠ 0 → e ≠ 0xFF → exec (.setEndpointId e) s =
      .next (({ s with mgt := { s.mgt with eid := e } } : State).emit (.mctp 1 [0, 0, e, 0]))) ∧
    ((e = 0 ∨ e = 0xFF) → exec (.setEndpointId e) s = .next (s.emit (.mctp 1 [2]))) ∧
    exec .getEndpointId s = .next (s.emit (.mctp 2 [0, s.mgt.eid, 0, 0])) ∧
    (typ ∈ [0x00, 0x01, 0x7F, 0xFF] → exec (.getMctpVersionSupport typ) s =
      .next (s.emit (.mctp 4 ([0, 1] ++ leBytes 4 (Config.mctpVersion typ.toNat).toNat)))) ∧
    (typ ∉ [0x00, 0x01, 0x7F, 0xFF] → exec (.getMctpVersionSupport typ) s = .next (s.emit (.mctp 4 [0x80]))) ∧
    exec .getMessageTypeSupport s = .next (s.emit (.mctp 5 [0, 3, 0x00, 0x01, 0x7F])) ∧
    (sel = 0 → exec (.getVendorDefinedMessageSupport sel) s = .next (s.emit (.mctp 6
      ([0, 0xFF, 1] ++ s.ianaBytes ++ leBytes 2 Config.vendorVersion.toNat)))) ∧
    (sel ≠ 0 → exec (.getVendorDefinedMessageSupport sel) s = .next (s.emit (.mctp 6 [2])))) ∧
  (∀ (a : BitVec 7) (e typ sel : Byte) (s : State), s.portUp = false →
    ∀ i ∈ [Instr.setdasa a, .entdaa a, .setEndpointId e, .getEndpointId, .getMctpVersionSupport typ,
      .getMessageTypeSupport, .getVendorDefinedMessageSupport sel], exec i s = .next s) ∧
  (∀ (doe : Option (Fin 9)) (tag : BitVec 16) (s : State) (addr : W64) (n : Nat) (ws : List W32) (o : FogOrder)
      (off : W32) (data nonce : List Byte) (lv : ResetLevel) (block pub sig ct sealed : List Byte)
      (slot x y z w : Byte) (rb : Bool),
    let denied := [(Instr.getInfo doe tag, 0x01), (.getHealth doe tag, 0x02), (.regRead doe tag addr n, 0x03),
      (.regWrite doe tag addr ws, 0x04), (.fog doe tag o, 0x05), (.imgChunk doe tag off data, 0x06),
      (.reset doe tag lv, 0x07), (.otpWriteGen doe tag block slot pub sig rb, 0x0A),
      (.ideKeySet doe tag x y z w ct sealed, 0x0B)]
    (s.requestUp doe = false → (∀ i ∈ denied, exec i.1 s = .next s) ∧
      exec (.attest doe tag nonce) s = .next s ∧ exec (.getIdentity doe tag) s = .next s) ∧
    (s.requestUp doe = true → fromVf doe = true → ∀ i ∈ denied, exec i.1 s = .next (s.respond doe i.2 tag 5 []))) ∧
  (∀ (doe : Option (Fin 9)) (tag : BitVec 16) (s : State), s.requestUp doe = true → fromVf doe = false →
    Does (.getInfo doe tag) s (fun t => ∃ pay, t = s.respond doe 0x01 tag 0 pay ∧ pay.length = 20 ∧
      pay.take 2 = [0x68, 0x07] ∧ pay.getD 3 0 = BitVec.ofNat 8 s.posNow.toNat ∧
      (pay.drop 4).take 2 = leBytes 2 s.board.inc.toNat ∧ pay.getD 6 0 = BitVec.ofNat 8 (s.otpNum 4 1)) ∧
    Does (.getHealth doe tag) s (fun t => ∃ pay, t = s.respond doe 0x02 tag 0 pay ∧ pay.length = 124 ∧
      (s.hubUp = false → ∀ i, 24 ≤ i → i < 124 → pay.getD i 0 = 0xFF)) ∧
    (∀ (addr : W64) (n : Nat), exec (.regRead doe tag addr n) s = .next (s.respond doe 0x03 tag
      (s.portStatus addr.toNat n) (if s.portStatus addr.toNat n = 0 then (List.range n).flatMap (fun i =>
        leBytes 4 ((s.ctlRead .mgmt (addr.toNat + 4 * i)).getD 0).toNat) else []))) ∧
    (∀ (addr : W64) (ws : List W32), s.portStatus addr.toNat ws.length = 0 → exec (.regWrite doe tag addr ws) s =
      .next (((ws.zipIdx).foldl (fun u x => stateOf (exec (.registerWrite .mgmt (addr.toNat + 4 * x.2) x.1) u) u)
        s).respond doe 0x04 tag 0 [])) ∧
    (∀ (addr : W64) (n : Nat), s.portStatus addr.toNat n = 0 → 1 ≤ n ∧ n ≤ 256 ∧ addr.toNat % 4 = 0 ∧
      (∀ i, i < n → ctlPlace (addr.toNat + 4 * i) ≠ .none)) ∧
    (∀ (addr : W64) (ws : List W32), s.portStatus addr.toNat ws.length ≠ 0 → exec (.regWrite doe tag addr ws) s =
      .next (s.respond doe 0x04 tag (s.portStatus addr.toNat ws.length) [])) ∧
    exec (.fog doe tag .fire) s = .next ((s.raiseFog 2).respond doe 0x05 tag 0 []) ∧
    exec (.fog doe tag .thaw) s = .next (s.thaw.respond doe 0x05 tag 0 []) ∧
    (∀ (off : W32) (data : List Byte), s.imgReach .mgmt = true →
      ((data = [] ∨ 4096 < data.length ∨ 0x100000 < off.toNat + data.length) →
        exec (.imgChunk doe tag off data) s = .next (s.respond doe 0x06 tag 2 [])) ∧
      (data ≠ [] → data.length ≤ 4096 → off.toNat + data.length ≤ 0x100000 →
        (s.imgOwns .mgmt = true →
          exec (.imgChunk doe tag off data) s = .next ((s.imgPut off.toNat data).respond doe 0x06 tag 0 [])) ∧
        (s.imgOwns .mgmt = false →
          exec (.imgChunk doe tag off data) s = .next ((s.imgResult 0x0C).respond doe 0x06 tag 5 [])))) ∧
    exec (.reset doe tag .chip) s = .next ((s.respond doe 0x07 tag 0 []).chipReset true) ∧
    exec (.reset doe tag .powerCycle) s = .next (s.respond doe 0x07 tag 0 []).powerCycle ∧
    (∀ (p : Fin 8), s.hubUp = true → (s.cfgOf p.val).isSome = true → s.applying ⟨.flt, p.val⟩ = false →
      let u := stateOf (exec (.partitionReset .mgmt p) s) s
      exec (.reset doe tag (.partition p)) s =
        .next (u.respond doe 0x07 tag (rstStatus (u.part p.val).rstRes) [])) ∧
    (∀ (p : Fin 8) (e n : Nat) (g : Eng), engOf e = some g → s.engPart g n = some p.val → n < 256 →
      s.hubUp = true → s.domOn (engDomain g n) = true →
      let u := stateOf (exec (.engineReset .mgmt p (BitVec.ofNat 4 e) (BitVec.ofNat 8 n)) s) s
      exec (.reset doe tag (.engine p e n)) s =
        .next (u.respond doe 0x07 tag (rstStatus (u.part p.val).rstRes) [])) ∧
    (∀ (p : Fin 8), s.hubUp = false → (s.cfgOf p.val).isSome = true →
      exec (.reset doe tag (.partition p)) s = .next (s.respond doe 0x07 tag 4 []))) ∧
  (∀ (doe : Option (Fin 9)) (tag : BitVec 16) (nonce : List Byte) (s : State), s.requestUp doe = true →
    (nonce.length ≠ 32 → exec (.attest doe tag nonce) s = .next (s.respond doe 0x08 tag 2 [])) ∧
    (nonce.length = 32 → (s.sec.idOk = false ∨ s.otpNum 5 1 = 3) →
      exec (.attest doe tag nonce) s = .next (s.respond doe 0x08 tag 6 [])) ∧
    (nonce.length = 32 → s.sec.idOk = true → s.otpNum 5 1 ≠ 3 → Does (.attest doe tag nonce) s (fun t =>
      ∃ pay, t = s.respond doe 0x08 tag 0 pay ∧ pay.length = 2772 ∧ pay.take 4 = [0x57, 0x4A, 0x41, 0x54] ∧
        (pay.drop 32).take 32 = nonce ∧
        (∀ i, i < 8 → (pay.drop (64 + 32 * i)).take 32 =
          fitTo 32 (if s.boot.chipReset = true ∧ 2 ≤ i ∧ i ≤ 4 then [] else s.sec.slots.getD i [])) ∧
        pay.drop 352 = fitTo 2420 (Config.identitySign (pay.take 352)))) ∧
    (s.sec.idOk = false → exec (.getIdentity doe tag) s = .next (s.respond doe 0x09 tag 6 [])) ∧
    (s.sec.idOk = true → Does (.getIdentity doe tag) s (fun t => ∃ pay, t = s.respond doe 0x09 tag 0 pay ∧
      pay.length = 1312 + 1 + 2420 + 1184 + 2420 ∧ pay.take 1312 = fitTo 1312 Config.identityPub))) ∧
  (∀ (doe : Option (Fin 9)) (tag : BitVec 16) (block pub sig : List Byte) (slot : Byte) (rb : Bool) (s : State),
    s.requestUp doe = true → fromVf doe = false →
    let i := s.otp.areas.findIdx (fun a => !a.used)
    let cmd := Instr.otpWriteGen doe tag block slot pub sig rb
    let lens := block.length = 2048 ∧ pub.length = 1312 ∧ sig.length = 2420
    (¬ lens → exec cmd s = .next (s.respond doe 0x0A tag 2 [])) ∧
    (lens → s.otp.areas.length ≤ i → exec cmd s = .next (s.respond doe 0x0A tag 7 [])) ∧
    (lens → i < s.otp.areas.length → (∀ cur, s.otpBlock = some cur → (otpNextOk i cur block = false ∨
        s.keyOk 192 321 slot.toNat pub = false ∨ Config.mldsaVerify pub block sig = false)) →
      exec cmd s = .next (s.respond doe 0x0A tag 6 [])) ∧
    (∀ cur, lens → i < s.otp.areas.length → s.otpBlock = some cur → otpNextOk i cur block = true →
      s.keyOk 192 321 slot.toNat pub = true → Config.mldsaVerify pub block sig = true → Does cmd s (fun t =>
        t.otp.areas = s.otp.areas.set i
          (if rb then ⟨true, false, block⟩ else ⟨true, true, List.replicate 2048 0⟩) ∧
        t.otp.inUse = s.otp.inUse ∧ t.otp.writing = some i ∧
        .response (doe.map (·.val)) (autehaResponse 0x0A tag (if rb then 0 else 6) []) ∈ t.out))) ∧
  (∀ (fn : Fin 9) (tag : BitVec 16) (stream dir sub set : Byte) (ct sealed : List Byte) (s : State),
    fn.val = 0 → s.requestUp (some fn) = true →
    let cmd := Instr.ideKeySet (some fn) tag stream dir sub set ct sealed
    let lens := ct.length = 1088 ∧ sealed.length = 48
    let ids := dir.toNat ≤ 1 ∧ sub.toNat ≤ 2 ∧ set.toNat ≤ 1
    (¬ lens → exec cmd s = .next (s.respond (some fn) 0x0B tag 2 [])) ∧
    (lens → ¬ ids → exec cmd s = .next (s.respond (some fn) 0x0B tag 6 [])) ∧
    let free := stream ∈ s.pcx.ideStreams ∨ s.pcx.ideStreams.length < 9
    (lens → ids → ¬ free → exec cmd s = .next (s.respond (some fn) 0x0B tag 6 [])) ∧
    (lens → ids → free → Config.kxOpen s.sec.kxGen ct sealed = none →
      exec cmd s = .next ((s.flag .pcx 0 0x14 (bit 27)).respond (some fn) 0x0B tag 6 [])) ∧
    (∀ key, lens → ids → free → Config.kxOpen s.sec.kxGen ct sealed = some key → Does cmd s (fun t =>
      t.pcx.ideKeys = (s.pcx.ideKeys.filter (fun e => decide (e.1 ≠ (stream, dir, sub, set)))) ++
        [((stream, dir, sub, set), fitTo 32 key)] ∧
      (ideComplete t.pcx.ideKeys stream set = true → (stream, set) ∈ t.pcx.ideSets) ∧
      t.except [.pcx, .out] = s.except [.pcx, .out] ∧
      t.out = s.out ++ [.response (some fn.val) (autehaResponse 0x0B tag 0 [])]))) ∧
  (∀ (tag : BitVec 16) (stream dir sub set : Byte) (ct sealed : List Byte) (s : State), s.requestUp none = true →
    exec (.ideKeySet none tag stream dir sub set ct sealed) s = .next (s.respond none 0x0B tag 5 []))

/-- R448, R453, R454, R460, R466: the PLDM commands answer with their completion code; without management firmware every
type but 5 is unsupported. The effecter sets the board power limit, 600 to 2,400 W. An update goes from learning its
components to READY and to DOWNLOAD; each chunk goes to the inactive copy at the offset asked for; the end of the
transfer leaves READY and sets FW_DONE, and a cancel leaves the old copy active. The numbers of the codes and commands
are the model's (log entry 63). -/
def Obligations.PldmAnswersAndUpdatesFirmware : Prop :=
  (∀ (s : State) (typ : Byte) (n e : BitVec 16) (h v : W32), s.portUp = true → s.fullService = true →
    exec .getTid s = .next (s.emit (.pldm 0 0x02 [0, Config.pldmTid])) ∧
    (typ.toNat ∈ [0, 2, 5] → exec (.getPldmVersion typ) s =
        .next (s.emit (.pldm 0 0x03 (0 :: leBytes 4 (Config.pldmVersion typ.toNat).toNat))) ∧
      exec (.getPldmCommands typ) s = .next (s.emit (.pldm 0 0x05 (0 :: bitMap 32 (pldmCommands typ.toNat))))) ∧
    (typ.toNat ∉ [0, 2, 5] → exec (.getPldmVersion typ) s = .next (s.emit (.pldm 0 0x03 [0x83])) ∧
      exec (.getPldmCommands typ) s = .next (s.emit (.pldm 0 0x05 [0x83]))) ∧
    exec .getPldmTypes s = .next (s.emit (.pldm 0 0x04 [0, 0x25, 0, 0, 0, 0, 0, 0, 0])) ∧
    (∀ r, s.sensor n.toNat = some r → exec (.getSensorReading n) s = .next (s.emit (.pldm 2 0x11 (0 :: leBytes 4 r)))) ∧
    (s.sensor n.toNat = none → exec (.getSensorReading n) s = .next (s.emit (.pldm 2 0x11 [0x80]))) ∧
    exec (.getStateSensorReadings n) s = .next (s.emit (.pldm 2 0x21 [0x80])) ∧
    exec .getPdrRepositoryInfo s = .next (s.emit (.pldm 2 0x50 [0, 8, 0, 0, 0])) ∧
    (h.toNat ≤ 8 → exec (.getPdr h) s =
      .next (s.emit (.pldm 2 0x51 (0 :: Config.pldmRecord (Nat.max 1 h.toNat))))) ∧
    (8 < h.toNat → exec (.getPdr h) s = .next (s.emit (.pldm 2 0x51 [0x82]))) ∧
    (e = 1 → 600 ≤ v.toNat → v.toNat ≤ 2400 → Does (.setNumericEffecterValue e v) s (fun t =>
      commWord .pwr (t.blk ⟨.pwr, 0⟩) 0x48 = v ∧ stagedWord .pwr (t.blk ⟨.pwr, 0⟩) 0x48 = v ∧
      t.out = s.out ++ [.pldm 2 0x31 [0]] ∧ t.except [.blocks, .out] = s.except [.blocks, .out])) ∧
    (e = 1 → (v.toNat < 600 ∨ 2400 < v.toNat) →
      exec (.setNumericEffecterValue e v) s = .next (s.emit (.pldm 2 0x31 [2]))) ∧
    (e ≠ 1 → exec (.setNumericEffecterValue e v) s = .next (s.emit (.pldm 2 0x31 [0x80])) ∧
      exec (.getNumericEffecterValue e) s = .next (s.emit (.pldm 2 0x32 [0x80]))) ∧
    (e = 1 → exec (.getNumericEffecterValue e) s =
      .next (s.emit (.pldm 2 0x32 (0 :: leBytes 4 (s.cfg .pwr 0 0x48 11 0)))))) ∧
  (∀ (s : State) (typ : Byte) (n e : BitVec 16) (h v : W32), s.portUp = true → s.fullService = false →
    ∀ i ∈ [(Instr.getTid, 0, 0x02), (.getPldmVersion typ, 0, 0x03), (.getPldmTypes, 0, 0x04),
        (.getPldmCommands typ, 0, 0x05), (.getSensorReading n, 2, 0x11), (.getStateSensorReadings n, 2, 0x21),
        (.setNumericEffecterValue e v, 2, 0x31), (.getNumericEffecterValue e, 2, 0x32), (.getPdrRepositoryInfo, 2, 0x50),
        (.getPdr h, 2, 0x51)],
      exec i.1 s = .next (s.emit (.pldm i.2.1 i.2.2 [5]))) ∧
  (∀ (s : State) (comps : List (BitVec 16)) (comp : BitVec 16) (size : Nat) (sc : Bool), s.portUp = true →
    let m := s.mgt
    exec .queryDeviceIdentifiers s = .next (s.emit (.pldm 5 0x01 (0 :: s.ianaBytes))) ∧
    exec .getFirmwareParameters s = .next (s.emit (.pldm 5 0x02
      ([0, 1, 0, (if s.activeB 1 then 1 else 0)] ++ [2, 0, (if s.activeB 2 then 1 else 0)] ++
        [3, 0, (if s.activeB 3 then 1 else 0)]))) ∧
    exec .getStatus s = .next (s.emit (.pldm 5 0x1B [0, BitVec.ofNat 8 (fwCode m.fwSt)])) ∧
    (m.fwSt = .idle → exec .requestUpdate s =
        .next (({ s with mgt := { m with fwSt := .learn, fwComps := [] } } : State).emit (.pldm 5 0x10 [0])) ∧
      exec .cancelUpdate s = .next (s.emit (.pldm 5 0x1D [0x80])) ∧
      exec .cancelUpdateComponent s = .next (s.emit (.pldm 5 0x1C [0x80]))) ∧
    (m.fwSt ≠ .idle → exec .requestUpdate s = .next (s.emit (.pldm 5 0x10 [0x81])) ∧
      exec .cancelUpdate s =
        .next (({ s with mgt := { m with fwSt := .idle } } : State).emit (.pldm 5 0x1D [0]))) ∧
    (m.fwSt = .learn → comps ≠ [] → (∀ c ∈ comps, c ∈ components) → exec (.passComponentTable comps) s =
      .next (({ s with mgt := { m with fwSt := .ready, fwComps := comps } } : State).emit (.pldm 5 0x13 [0]))) ∧
    (m.fwSt ≠ .learn → exec (.passComponentTable comps) s = .next (s.emit (.pldm 5 0x13 [0x84]))) ∧
    (m.fwSt = .ready → comp ∈ m.fwComps → 0 < size → size ≤ compSize comp.toNat →
      exec (.updateComponent comp size) s = .next ((({ s with mgt := { m with
        fwSt := .download, fwComp := comp, fwSize := size, fwGot := 0 } } : State).emit (.pldm 5 0x14 [0])).emit
          (.pldm 5 0x15 (leBytes 4 0 ++ leBytes 4 size)))) ∧
    (m.fwSt ≠ .ready → exec (.updateComponent comp size) s = .next (s.emit (.pldm 5 0x14 [0x84])) ∧
      exec (.activateFirmware sc) s = .next (s.emit (.pldm 5 0x1A [0x84]))) ∧
    (m.fwSt = .ready → exec (.activateFirmware true) s = .next (s.emit (.pldm 5 0x1A [0x8C])) ∧
      exec (.activateFirmware false) s =
        .next (({ s with mgt := { m with fwSt := .idle } } : State).emit (.pldm 5 0x1A [0])) ∧
      exec .cancelUpdateComponent s = .next (s.emit (.pldm 5 0x1C [0x84]))) ∧
    (m.fwSt = .download → exec .cancelUpdateComponent s =
      .next (({ s with mgt := { m with fwSt := .ready } } : State).emit (.pldm 5 0x1C [0])))) ∧
  (∀ (s : State) (off : Nat) (data : List Byte),
    let m := s.mgt
    let c := m.fwComp.toNat
    let fl := flashPut s.flash (compBase c (!s.activeB c) + off) data
    let got := off + data.length
    (s.portUp = true → m.fwSt = .download → off = m.fwGot → got ≤ m.fwSize →
      exec (.firmwareData off data false) s = .next (({ s with flash := fl, mgt := { m with fwGot := got } } : State).emit
        (.pldm 5 0x15 (leBytes 4 got ++ leBytes 4 (m.fwSize - got)))) ∧
      (got ≠ m.fwSize → Does (.firmwareData off data true) s (fun t => t.flash = fl ∧ t.mgt.fwSt = .ready ∧
        .pldm 5 0x16 [1] ∈ t.out ∧ (t.flags .mgt 0 0x14).getLsbD 27 = true)) ∧
      (got = m.fwSize →
        let u : State := { s with flash := fl, mgt := { m with fwGot := got, fwSt := .ready } }
        (u.copyOk c = false → Does (.firmwareData off data true) s (fun t => t.flash = fl ∧ t.mgt.fwSt = .ready ∧
          .pldm 5 0x17 [1] ∈ t.out ∧ (t.flags .mgt 0 0x14).getLsbD 27 = true)) ∧
        (u.copyOk c = true → Does (.firmwareData off data true) s (fun t =>
          t.flash = flashPut fl (c - 1) [if u.activeB c then 0 else 1] ∧ t.mgt.fwSt = .ready ∧
          .pldm 5 0x18 [0] ∈ t.out ∧ (t.flags .mgt 0 0x14).getLsbD 27 = true)))) ∧
    ((s.portUp = false ∨ m.fwSt ≠ .download ∨ off ≠ m.fwGot ∨ m.fwSize < got) → ∀ b,
      exec (.firmwareData off data b) s = .next s))


/-! ## Start-up, supplies and boundary scan -/

/-- R431, R457, R460, R464, R473, R476, R478: the auxiliary supply brings up the ROM with the highest valid OTP area, and
its loss leaves OTP, flash and pins only. Management firmware that verifies, with the 48 V input good, starts the
converters and the hub; keeper firmware that verifies starts the runtimes. A lockout takes everything on the converters
at once, as a trip does. -/
def Obligations.StartUpFollowsItsSteps : Prop :=
  (∀ (s : State), (s.pwr.aux = true → exec .auxPowerUp s = .next s) ∧
    (s.pwr.aux = false → Does .auxPowerUp s (fun t => t.pwr.aux = true ∧ t.boot.otpRead = true ∧ t.boot.mgmtUp = false ∧
      (∀ i, t.otp.inUse = some i → ∃ a, t.otp.areas[i]? = some a ∧ a.used = true ∧ a.bad = false ∧
        otpValid i a.data = true ∧ (∀ j b, i < j → t.otp.areas[j]? = some b → b.used = true → b.bad = true)))) ∧
    Does .auxPowerLoss s (fun t => t.flash = s.flash ∧ t.straps = s.straps ∧
      (s.otp.writing = none → t.otp.areas = s.otp.areas) ∧
      (∀ i, s.otp.writing = some i → t.otp.areas = s.otp.areas.set i ⟨true, true, []⟩) ∧
      t.pcx.perst = s.pcx.perst ∧ t.pending = s.pending ∧ t.mem = [] ∧ t.blocks = [] ∧ t.ctxs = [] ∧ t.ques = [] ∧
      t.pwr = { Pwr.reset with v48 := s.pwr.v48 })) ∧
  (∀ (s : State),
    let z : List Byte := List.replicate 32 0
    ((s.pwr.aux = false ∨ s.boot.otpRead = false ∨ s.boot.mgmtUp = true) →
      exec .mgmtFirmwareVerified s = .next s) ∧
    (s.pwr.aux = true → s.boot.otpRead = true → s.boot.mgmtUp = false → Does .mgmtFirmwareVerified s (fun t =>
      t.boot.mgmtUp = true ∧ t.sec.mgmtFw = some (s.bootCopy 2).isSome ∧
      t.sec.slots.getD 0 [] = ((s.otpBlock).map Config.sha3).getD z ∧
      t.sec.slots.getD 1 [] = ((s.bootCopy 2).map (·.2)).getD z ∧ (∀ i, 2 ≤ i → i < 8 → t.sec.slots.getD i [] = z) ∧
      ((s.bootCopy 2).isSome = true → s.pwr.v48 = true → s.pwr.lockout = false → s.pwr.tripped = false →
        s.pwr.conv = false → t.pwr.conv = true ∧ t.pwr.spine = true ∧ t.domOn domHub = true)))) ∧
  (∀ (s : State),
    ((s.sec.mgmtFw ≠ some true ∨ s.sec.keeperFw ≠ none ∨ s.startHeld = true) →
      exec .keeperFirmwareVerified s = .next s) ∧
    (s.sec.mgmtFw = some true → s.sec.keeperFw = none → s.startHeld = false →
      (s.bootCopy 1 = none →
        exec .keeperFirmwareVerified s = .next { s with sec := { s.sec with keeperFw := some false } }) ∧
      (∀ b d, s.bootCopy 1 = some (b, d) → Does .keeperFirmwareVerified s (fun t =>
        t.sec.keeperFw = some true ∧ t.sec.keeperCopyB = b ∧ t.sec.slots = s.sec.slots.set 2 d ∧
        (∀ c ∈ s.partsOf, ∀ k, s.leadOf c.num = some k → (s.part c.num).ready = true → (s.pair k).st = .off →
          (t.pair k).st = .starting))))) ∧
  (∀ (s : State),
    let v : State := { s with pwr := { s.pwr with v48 := true } }
    let due := s.pwr.aux = true ∧ s.sec.mgmtFw = some true ∧ s.pwr.lockout = false ∧ s.pwr.tripped = false ∧
      s.pwr.conv = false
    (due → Does .input48vGood s (fun t => t.pwr.v48 = true ∧ t.pwr.conv = true ∧ t.pwr.spine = true ∧
      t.domOn domHub = true)) ∧
    (¬ due → exec .input48vGood s = .next v)) ∧
  (∀ (past : Bool) (s : State),
    (s.pwr.aux = false → exec (.inputLockout past) s = .next { s with pwr := { s.pwr with v48 := false } }) ∧
    (s.pwr.aux = true → Does (.inputLockout past) s (fun t => t.pwr.lockout = true ∧ t.pwr.v48 = false ∧
      t.pwr.conv = false ∧ t.pwr.spine = false ∧ t.pwr.on = 0 ∧ t.rels = [] ∧ t.flash = s.flash ∧ t.otp = s.otp ∧
      (t.flags .pwr 0 0x58).getLsbD (if past then 27 else 28) = true)))

/-- R24, R466, R467, R468, R472, R473, R474, R476, R477, R478, R482: a power sample is held while the clamp has latched it; the
clamp engages above 50 A for 1 ms and again while the condition holds. A thermal sample shows its temperatures, throttles
from 105 °C (a stack from 95 °C) until 5 °C below, and trips at 115 °C (a stack at 105 °C). A domain command gives its
RESULT and, if OK, starts the switch, which ends with the domain on or off, off only once no flit is in flight between
the unit and the mesh spine, whose paths run over joined ends (how the ends on an edge trunk are joined is the model's
choice, log 82). A boundary-scan instruction becomes current. -/
def Obligations.PowerThermalDomainsAndScan : Prop :=
  (∀ (vin iin pq : BitVec 16) (s : State),
    (s.pwr.aux = true → Does (.powerSample vin iin pq) s (fun t =>
      t.pwr = { s.pwr with sampled := true, vinMv := vin, iin := iin, powerQ := (if s.pwr.latched then s.pwr.powerQ else pq) } ∧
      t.except [.pwr, .out, .free] = s.except [.pwr, .out, .free])) ∧
    (s.pwr.aux = false → exec (.powerSample vin iin pq) s = .next s) ∧
    (s.pwr.clampOn = false → s.pwr.conv = true → 5000 < iin.toNat → exec (.currentClamp iin) s =
      .next (({ s with pwr := { s.pwr with clampOn := true, latched := true } } : State).startTimer .clamp .mgmt
        1000000)) ∧
    ((s.pwr.clampOn = true ∨ s.pwr.conv = false ∨ iin.toNat ≤ 5000) → exec (.currentClamp iin) s = .next s) ∧
    (s.pwr.clampOn = true → s.expired .clamp = true → Does (.currentClampRelease iin) s (fun t =>
      (t.pwr.clampOn = true ↔ s.pwr.conv = true ∧ 5000 < iin.toNat) ∧ t.pwr.latched = t.pwr.clampOn ∧
      t.timerRuns .clamp = t.pwr.clampOn ∧ t.except [.pwr, .timers] = s.except [.pwr, .timers])) ∧
    ((s.pwr.clampOn = false ∨ s.expired .clamp = false) → exec (.currentClampRelease iin) s = .next s)) ∧
  (∀ (h0 h1 io : Byte) (ks : List Byte) (s : State), ks.length = 12 →
    let top := ks.foldl (fun a b => if a.toNat < b.toNat then b else a) 0
    let hot := 115 ≤ h0.toNat ∨ 115 ≤ h1.toNat ∨ 115 ≤ io.toNat ∨ 105 ≤ top.toNat
    (s.pwr.aux = false → exec (.thermalSample h0 h1 io ks) s = .next s) ∧
    (s.pwr.aux = true → (¬ hot ∨ s.pwr.tripped = true) → Does (.thermalSample h0 h1 io ks) s (fun t =>
      t.pwr.half0 = h0 ∧ t.pwr.half1 = h1 ∧ t.pwr.ioDie = io ∧ t.pwr.stackMax = top ∧
      t.pwr.tripped = s.pwr.tripped ∧ t.pwr.on = s.pwr.on ∧
      (0 ∈ t.pwr.throttleHalf ↔ 105 ≤ h0.toNat ∨ (0 ∈ s.pwr.throttleHalf ∧ 100 < h0.toNat)) ∧
      (1 ∈ t.pwr.throttleHalf ↔ 105 ≤ h1.toNat ∨ (1 ∈ s.pwr.throttleHalf ∧ 100 < h1.toNat)) ∧
      (∀ k, k < 12 → s.domOn (domStack k) = true → (t.stack k).temp = ks.getD k 0 ∧
        ((t.stack k).hot = true ↔ 85 < (ks.getD k 0).toNat) ∧
        ((t.stack k).throttled = true ↔
          95 ≤ (ks.getD k 0).toNat ∨ ((s.stack k).throttled = true ∧ 90 < (ks.getD k 0).toNat))))) ∧
    (s.pwr.aux = true → hot → s.pwr.tripped = false → Does (.thermalSample h0 h1 io ks) s (fun t =>
      t.pwr.tripped = true ∧ t.pwr.thermTrip = true ∧ t.pwr.conv = false ∧ t.pwr.on = 0 ∧ .thermTrip ∈ t.out))) ∧
  (∀ (m : Master) (d : BitVec 7) (s : State), s.domReach m = false →
    exec (.domainOn m d) s = .next s ∧ exec (.domainOff m d) s = .next s) ∧
  (∀ (m : Master) (d : BitVec 7) (s : State), s.domReach m = true →
    (s.judgeDomain m d.toNat true = 0 → exec (.domainOn m d) s =
      .next { s with pwr := { s.pwr with domRes := 0, switch := some ⟨d.toNat, true⟩ } }) ∧
    (s.judgeDomain m d.toNat true ≠ 0 → exec (.domainOn m d) s =
      .next { s with pwr := { s.pwr with domRes := s.judgeDomain m d.toNat true } }) ∧
    (s.judgeDomain m d.toNat false = 0 → Does (.domainOff m d) s (fun t => t.pwr.domRes = 0 ∧
      t.pwr.switch = some ⟨d.toNat, false⟩ ∧ t.domOn d.toNat = false)) ∧
    (s.judgeDomain m d.toNat false ≠ 0 → exec (.domainOff m d) s =
      .next { s with pwr := { s.pwr with domRes := s.judgeDomain m d.toNat false } })) ∧
  (∀ (s : State), (s.pwr.switch = none → exec .domainSwitchDone s = .next s) ∧
    (∀ w, s.pwr.switch = some w →
      (s.pwr.conv = false → exec .domainSwitchDone s =
        .next { s with pwr := { s.pwr with switch := none, domRes := 0x06 } }) ∧
      (s.pwr.conv = true → w.on = false → s.chansIdle w.dom = false → exec .domainSwitchDone s = .next s) ∧
      (s.pwr.conv = true → w.dom < 88 → (w.on = true ∨ s.chansIdle w.dom = true) → Does .domainSwitchDone s (fun t =>
        t.pwr.switch = none ∧ t.domOn w.dom = w.on)))) ∧
  (∀ x : Xfer, ∀ c ∈ pathOf x, joined c.1 c.2 = true) ∧
  (∀ (s : State) (code : BitVec 4), 4 ≤ code.toNat →
    (s.pwr.aux = true → ∀ i ∈ [(Instr.extest, Jtag.extest), (.highz, .highz), (.clamp, .clamp)],
      exec i.1 s = .next { s with jtag := i.2 }) ∧
    (s.pwr.aux = true → ∀ i ∈ [(Instr.samplePreload, Jtag.sample), (.bypass code, .bypass), (.testLogicReset, .bypass)],
      Does i.1 s (fun t => t.jtag = i.2 ∧
        ((s.pwr.conv = false ∨ s.pcx.perst = true ∨ s.domOn domPcie = true ∨ s.boot.fromMgmt = true) →
          t = { s with jtag := i.2 }) ∧
        (s.pwr.conv = true → s.pcx.perst = false → s.boot.fromMgmt = false → t.domOn domPcie = true))) ∧
    (s.pwr.aux = false → ∀ i ∈ [Instr.extest, .samplePreload, .highz, .clamp, .bypass code, .testLogicReset],
      exec i s = .next s))


/-! ## The machine as a whole -/

/-- A step takes the command at the front of the queue and runs it on the state with the queue's rest; on an empty queue
one cycle of every powered island passes (the model's choice, log entry 1): its local cycle counter counts on (R27) and its
running durations fall by its period (R33), but for the watchdog of an engine that waits for what R423 names, while nothing
arrives in the queue; only FOG_OUT may start, where a record that a ledger held raises a fog. -/
def Obligations.StepRunsTheFrontCommand : Prop :=
  (∀ (c : Instr) (rest : List Instr) (s : State), s.pending = c :: rest → step s = exec c { s with pending := rest }) ∧
  (∀ (c : Instr) (s : State), step { s with pending := c :: s.pending } = exec c s) ∧
  (∀ (s : State), s.pending = [] → step s = .next s.tick ∧ s.tick.pending = [] ∧
    (∀ i ∈ islands, s.tick.cycle (islandCode i) =
      if s.islandOn i then s.cycle (islandCode i) + 1 else s.cycle (islandCode i)) ∧
    (let down := s.timers.map (fun e => if s.islandOn e.island ∧ 0 < e.left ∧ s.timerHeld e.id = false then
        { e with left := e.left - (s.period e.island : Nat) } else e);
      (∀ e, e.id ≠ .fogOut → (e ∈ s.tick.timers ↔ e ∈ down)) ∧
      ((∀ b ∈ ledgerBlocks, (s.ldg (blkKey b)).held = []) → s.tick.timers = down)) ∧
    s.tick.ques = s.ques ∧ s.tick.mem = s.mem)

/-- R5, R39: after reset every register's committed, staged and RW word is the one its table gives, no W1C bit is set,
no command waits, every context is FREE and every domain is off; the registers named have the values of their tables
(R347 and R361 for MODE, R389, R401, R421, R424, R447, R451). -/
def Obligations.ResetHoldsTheTablesValues : Prop :=
  (∀ (b : BlkId) (off : Nat), commWord b.kind (State.reset.blk b) off = resetWord b.kind off ∧
    stagedWord b.kind (State.reset.blk b) off = resetWord b.kind off ∧
    plainWord b.kind (State.reset.blk b) off = resetWord b.kind off ∧ w1cWord (State.reset.blk b) off = 0) ∧
  State.reset.pending = [] ∧ (∀ k, (State.reset.ctx k).st = .free) ∧ (∀ d, State.reset.domOn d = false) ∧
  State.reset.fog.fogged = false ∧ State.reset.memWf = true ∧
  (∀ g, g < 6 → State.reset.sprays g = true) ∧
  resetWord .kpr 0x10 = 0xEC000100 ∧ resetWord .talIo 0x30 = 0xC00000C8 ∧ resetWord .flt 0x28 = 0x2710 ∧
  resetWord .kpr 0x34 = 0x64 ∧ resetWord .pcx 0x100 = 0x40000000 ∧ resetWord .mgt 0x18 = 0xFC000000

/-- Every command of the table that is well formed answers a next state, and changes no field of the state but those that
`Instr.writes` names for it (the queue is none of them); a term that is not well formed stops with its fault. -/
def Obligations.CommandsAnswerAndKeepTheirFrame : Prop :=
  (∀ (c : Instr) (s : State), c.wf = true → Does c s (fun t => t.except (Instr.writes c) = s.except (Instr.writes c))) ∧
  (∀ (c : Instr) (s : State), c.wf = false → exec c s = .fault .illFormed) ∧
  (∀ (c : Instr), Fld.pending ∉ Instr.writes c ∧ Fld.straps ∉ Instr.writes c)

/-- R13, R55: from every state whose memories are in canonical form and whose queue holds well-formed commands, a step
answers a next state, and there the memories are in canonical form and the queue is well formed. -/
def Obligations.StepsKeepTheMemoriesCanonical : Prop :=
  ∀ (s : State), s.memWf = true → s.queueWf = true →
    s.runs ∧ ∀ t, step s = .next t → t.memWf = true ∧ t.queueWf = true
end

