-- ==== Sys2Proof/Laws/SMap.lean ====
section
/-!
SUPPORT. Laws of sparse tables: what a write leaves at its key and at every other, and that each operation keeps the
canonical form.
-/
namespace Sys2Proof.Machine

variable {α : Type}

theorem SMap.get_erase (d : α) (m : List (Nat × α)) (k j : Nat) :
    SMap.get d (SMap.erase m k) j = if j = k then d else SMap.get d m j := by
  induction m with
  | nil => simp [SMap.erase, SMap.get]
  | cons e m ih =>
    obtain ⟨a, v⟩ := e
    by_cases h : k = a
    · subst h
      simp only [SMap.erase, if_true, ih, SMap.get]
      split <;> rfl
    · simp only [SMap.erase, h, if_false, SMap.get, ih]
      by_cases hj : j = a
      · subst hj; simp [Ne.symm h]
      · simp [hj]

/-- What is left where entries are kept by their keys. -/
theorem SMap.get_filter (d : α) (m : List (Nat × α)) (p : Nat → Bool) (j : Nat) :
    SMap.get d (m.filter (fun c => p c.1)) j = if p j then SMap.get d m j else d := by
  induction m with
  | nil => simp [SMap.get]
  | cons e m ih =>
    obtain ⟨k, v⟩ := e
    by_cases hp : p k = true
    · simp only [List.filter_cons, hp, if_true, SMap.get, ih]
      by_cases hj : j = k
      · subst hj; simp [hp]
      · simp [hj]
    · simp only [List.filter_cons, hp, SMap.get]
      by_cases hj : j = k
      · subst hj; simp [ih, hp]
      · simp [hj, ih]

theorem SMap.get_insert (d : α) (m : List (Nat × α)) (k j : Nat) (v : α) :
    SMap.get d (SMap.insert m k v) j = if j = k then v else SMap.get d m j := by
  induction m with
  | nil => simp [SMap.insert, SMap.get]
  | cons e m ih =>
    obtain ⟨a, w⟩ := e
    by_cases h1 : k < a
    · simp only [SMap.insert, h1, if_true, SMap.get]
    · by_cases h2 : k = a
      · subst h2
        simp only [SMap.insert, h1, if_false, if_true, SMap.get]
        split <;> rfl
      · simp only [SMap.insert, h1, h2, if_false, SMap.get, ih]
        by_cases hj : j = a
        · subst hj; simp [Ne.symm h2]
        · simp [hj]

variable [DecidableEq α]

/-- A write is read back at its key and nowhere else. -/
@[simp] theorem SMap.get_set (d : α) (m : List (Nat × α)) (k j : Nat) (v : α) :
    SMap.get d (SMap.set d m k v) j = if j = k then v else SMap.get d m j := by
  unfold SMap.set
  by_cases h : v = d
  · subst h; simp [SMap.get_erase]
  · simp [h, SMap.get_insert]

theorem SMap.get_set_self (d : α) (m : List (Nat × α)) (k : Nat) (v : α) : SMap.get d (SMap.set d m k v) k = v := by simp

theorem SMap.get_set_ne (d : α) (m : List (Nat × α)) (k j : Nat) (v : α) (h : j ≠ k) :
    SMap.get d (SMap.set d m k v) j = SMap.get d m j := by simp [h]

/-- The bound below which no key of a canonical table lies may fall. -/
theorem SMap.wfAbove_weaken (d : α) (m : List (Nat × α)) (a b : Nat) (h : a ≤ b) (hm : SMap.wfAbove d (some b) m = true) :
    SMap.wfAbove d (some a) m = true := by
  cases m with
  | nil => rfl
  | cons e m =>
    obtain ⟨k, v⟩ := e
    simp only [SMap.wfAbove, Bool.and_eq_true, decide_eq_true_eq] at hm ⊢
    exact ⟨⟨by omega, hm.1.2⟩, hm.2⟩

theorem SMap.wf_of_above (d : α) (m : List (Nat × α)) (o : Option Nat) (h : SMap.wfAbove d o m = true) : SMap.wf d m = true := by
  cases o with
  | none => exact h
  | some b =>
    cases m with
    | nil => rfl
    | cons e m =>
      obtain ⟨k, v⟩ := e
      simp only [SMap.wfAbove, SMap.wf, Bool.and_eq_true, decide_eq_true_eq] at h ⊢
      exact ⟨h.1.2, h.2⟩

theorem SMap.above_filter (d : α) (f : Nat × α → Bool) (m : List (Nat × α)) (b : Nat)
    (h : SMap.wfAbove d (some b) m = true) : SMap.wfAbove d (some b) (m.filter f) = true := by
  induction m generalizing b with
  | nil => rfl
  | cons e m ih =>
    obtain ⟨k, v⟩ := e
    simp only [SMap.wfAbove, Bool.and_eq_true, decide_eq_true_eq] at h
    by_cases hf : f (k, v) = true
    · simp only [List.filter_cons, hf, if_true, SMap.wfAbove, Bool.and_eq_true, decide_eq_true_eq]
      exact ⟨h.1, ih k h.2⟩
    · simp only [List.filter_cons, hf]
      exact ih b (SMap.wfAbove_weaken d m b k (by omega) h.2)

/-- Taking entries out keeps the canonical form. -/
theorem SMap.wf_filter (d : α) (f : Nat × α → Bool) (m : List (Nat × α)) (h : SMap.wf d m = true) :
    SMap.wf d (m.filter f) = true := by
  cases m with
  | nil => rfl
  | cons e m =>
    obtain ⟨k, v⟩ := e
    simp only [SMap.wf, SMap.wfAbove, Bool.and_eq_true, decide_eq_true_eq] at h
    by_cases hf : f (k, v) = true
    · simp only [List.filter_cons, hf, if_true, SMap.wf, SMap.wfAbove, Bool.and_eq_true, decide_eq_true_eq]
      exact ⟨h.1, SMap.above_filter d f m k h.2⟩
    · simp only [List.filter_cons, hf]
      exact SMap.wf_of_above d _ (some k) (SMap.above_filter d f m k h.2)

theorem SMap.above_insert (d : α) (m : List (Nat × α)) (k : Nat) (v : α) (hv : v ≠ d) (b : Nat) (hb : b < k)
    (h : SMap.wfAbove d (some b) m = true) : SMap.wfAbove d (some b) (SMap.insert m k v) = true := by
  induction m generalizing b with
  | nil => simp [SMap.insert, SMap.wfAbove, hb, hv]
  | cons e m ih =>
    obtain ⟨a, w⟩ := e
    simp only [SMap.wfAbove, Bool.and_eq_true, decide_eq_true_eq] at h
    by_cases h1 : k < a
    · simp [SMap.insert, h1, SMap.wfAbove, hb, hv, h.1.2, h.2]
    · by_cases h2 : k = a
      · subst h2; simp [SMap.insert, SMap.wfAbove, hb, hv, h.2]
      · simp only [SMap.insert, h1, h2, if_false, SMap.wfAbove, Bool.and_eq_true, decide_eq_true_eq]
        exact ⟨h.1, ih a (by omega) h.2⟩

theorem SMap.wf_insert (d : α) (m : List (Nat × α)) (k : Nat) (v : α) (hv : v ≠ d) (h : SMap.wf d m = true) :
    SMap.wf d (SMap.insert m k v) = true := by
  cases m with
  | nil => simp [SMap.insert, SMap.wf, SMap.wfAbove, hv]
  | cons e m =>
    obtain ⟨a, w⟩ := e
    simp only [SMap.wf, SMap.wfAbove, Bool.and_eq_true, decide_eq_true_eq] at h
    by_cases h1 : k < a
    · simp [SMap.insert, h1, SMap.wf, SMap.wfAbove, hv, h.1, h.2]
    · by_cases h2 : k = a
      · subst h2; simp [SMap.insert, SMap.wf, SMap.wfAbove, hv, h.2]
      · simp only [SMap.insert, h1, h2, if_false, SMap.wf, SMap.wfAbove, Bool.and_eq_true, decide_eq_true_eq]
        exact ⟨h.1, SMap.above_insert d m k v hv a (by omega) h.2⟩

omit [DecidableEq α] in
theorem SMap.erase_eq_filter (m : List (Nat × α)) (k : Nat) : SMap.erase m k = m.filter (fun e => decide (k ≠ e.1)) := by
  induction m with
  | nil => rfl
  | cons e m ih =>
    obtain ⟨a, w⟩ := e
    by_cases h : k = a
    · subst h; simp [SMap.erase, ih]
    · simp [SMap.erase, h, ih]

/-- A write keeps the canonical form. -/
theorem SMap.wf_set (d : α) (m : List (Nat × α)) (k : Nat) (v : α) (h : SMap.wf d m = true) :
    SMap.wf d (SMap.set d m k v) = true := by
  unfold SMap.set
  by_cases hv : v = d
  · simp only [hv, if_true, SMap.erase_eq_filter]; exact SMap.wf_filter d _ m h
  · simp only [hv, if_false]; exact SMap.wf_insert d m k v hv h

/-- Erasing keeps the canonical form. -/
theorem SMap.wf_erase (d : α) (m : List (Nat × α)) (k : Nat) (h : SMap.wf d m = true) : SMap.wf d (SMap.erase m k) = true := by
  rw [SMap.erase_eq_filter]; exact SMap.wf_filter d _ m h

end Sys2Proof.Machine
end

