-- ==== Sys2Proof/Laws/State.lean ====
section
/-!
SUPPORT. Laws of State: for every update of one table or field, what it leaves in every other field, and what the
table holds after it. Each is true by unfolding; none needs to be unfolded again.
-/
namespace Sys2Proof.Machine

@[simp] theorem State.setCtx_frame (s : State) (k : Nat) (v : Ctx) :
    (s.setCtx k v).mem = s.mem ∧ (s.setCtx k v).poison = s.poison ∧ (s.setCtx k v).flash = s.flash ∧
    (s.setCtx k v).blocks = s.blocks ∧ (s.setCtx k v).img = s.img ∧ (s.setCtx k v).ques = s.ques ∧
    (s.setCtx k v).rels = s.rels ∧ (s.setCtx k v).tiles = s.tiles ∧ (s.setCtx k v).mxes = s.mxes ∧
    (s.setCtx k v).vxes = s.vxes ∧ (s.setCtx k v).stes = s.stes ∧ (s.setCtx k v).chains = s.chains ∧
    (s.setCtx k v).stks = s.stks ∧ (s.setCtx k v).tlbs = s.tlbs ∧ (s.setCtx k v).nmes = s.nmes ∧
    (s.setCtx k v).kvfs = s.kvfs ∧ (s.setCtx k v).parts = s.parts ∧ (s.setCtx k v).sess = s.sess ∧
    (s.setCtx k v).rings = s.rings ∧ (s.setCtx k v).bars = s.bars ∧ (s.setCtx k v).links = s.links ∧
    (s.setCtx k v).lgs = s.lgs ∧ (s.setCtx k v).board = s.board ∧ (s.setCtx k v).cles = s.cles ∧
    (s.setCtx k v).pairs = s.pairs ∧ (s.setCtx k v).tals = s.tals ∧ (s.setCtx k v).ldgs = s.ldgs ∧
    (s.setCtx k v).wchs = s.wchs ∧ (s.setCtx k v).chans = s.chans ∧ (s.setCtx k v).cycles = s.cycles ∧
    (s.setCtx k v).fog = s.fog ∧ (s.setCtx k v).pcx = s.pcx ∧ (s.setCtx k v).funcs = s.funcs ∧
    (s.setCtx k v).mgt = s.mgt ∧ (s.setCtx k v).otp = s.otp ∧ (s.setCtx k v).sec = s.sec ∧
    (s.setCtx k v).pwr = s.pwr ∧ (s.setCtx k v).boot = s.boot ∧ (s.setCtx k v).jtag = s.jtag ∧
    (s.setCtx k v).straps = s.straps ∧ (s.setCtx k v).timers = s.timers ∧ (s.setCtx k v).rr = s.rr ∧
    (s.setCtx k v).out = s.out ∧ (s.setCtx k v).free = s.free ∧ (s.setCtx k v).pending = s.pending :=
  by and_intros <;> rfl

@[simp] theorem State.ctx_setCtx (s : State) (k j : Nat) (v : Ctx) :
    (s.setCtx k v).ctx j = if j = k then v else s.ctx j := by simp [State.ctx, State.setCtx]

@[simp] theorem State.setQue_frame (s : State) (k : Nat) (v : Que) :
    (s.setQue k v).mem = s.mem ∧ (s.setQue k v).poison = s.poison ∧ (s.setQue k v).flash = s.flash ∧
    (s.setQue k v).blocks = s.blocks ∧ (s.setQue k v).img = s.img ∧ (s.setQue k v).ctxs = s.ctxs ∧
    (s.setQue k v).rels = s.rels ∧ (s.setQue k v).tiles = s.tiles ∧ (s.setQue k v).mxes = s.mxes ∧
    (s.setQue k v).vxes = s.vxes ∧ (s.setQue k v).stes = s.stes ∧ (s.setQue k v).chains = s.chains ∧
    (s.setQue k v).stks = s.stks ∧ (s.setQue k v).tlbs = s.tlbs ∧ (s.setQue k v).nmes = s.nmes ∧
    (s.setQue k v).kvfs = s.kvfs ∧ (s.setQue k v).parts = s.parts ∧ (s.setQue k v).sess = s.sess ∧
    (s.setQue k v).rings = s.rings ∧ (s.setQue k v).bars = s.bars ∧ (s.setQue k v).links = s.links ∧
    (s.setQue k v).lgs = s.lgs ∧ (s.setQue k v).board = s.board ∧ (s.setQue k v).cles = s.cles ∧
    (s.setQue k v).pairs = s.pairs ∧ (s.setQue k v).tals = s.tals ∧ (s.setQue k v).ldgs = s.ldgs ∧
    (s.setQue k v).wchs = s.wchs ∧ (s.setQue k v).chans = s.chans ∧ (s.setQue k v).cycles = s.cycles ∧
    (s.setQue k v).fog = s.fog ∧ (s.setQue k v).pcx = s.pcx ∧ (s.setQue k v).funcs = s.funcs ∧
    (s.setQue k v).mgt = s.mgt ∧ (s.setQue k v).otp = s.otp ∧ (s.setQue k v).sec = s.sec ∧
    (s.setQue k v).pwr = s.pwr ∧ (s.setQue k v).boot = s.boot ∧ (s.setQue k v).jtag = s.jtag ∧
    (s.setQue k v).straps = s.straps ∧ (s.setQue k v).timers = s.timers ∧ (s.setQue k v).rr = s.rr ∧
    (s.setQue k v).out = s.out ∧ (s.setQue k v).free = s.free ∧ (s.setQue k v).pending = s.pending :=
  by and_intros <;> rfl

@[simp] theorem State.que_setQue (s : State) (k j : Nat) (v : Que) :
    (s.setQue k v).que j = if j = k then v else s.que j := by simp [State.que, State.setQue]

@[simp] theorem State.setTile_frame (s : State) (k : Nat) (v : TileSt) :
    (s.setTile k v).mem = s.mem ∧ (s.setTile k v).poison = s.poison ∧ (s.setTile k v).flash = s.flash ∧
    (s.setTile k v).blocks = s.blocks ∧ (s.setTile k v).img = s.img ∧ (s.setTile k v).ctxs = s.ctxs ∧
    (s.setTile k v).ques = s.ques ∧ (s.setTile k v).rels = s.rels ∧ (s.setTile k v).mxes = s.mxes ∧
    (s.setTile k v).vxes = s.vxes ∧ (s.setTile k v).stes = s.stes ∧ (s.setTile k v).chains = s.chains ∧
    (s.setTile k v).stks = s.stks ∧ (s.setTile k v).tlbs = s.tlbs ∧ (s.setTile k v).nmes = s.nmes ∧
    (s.setTile k v).kvfs = s.kvfs ∧ (s.setTile k v).parts = s.parts ∧ (s.setTile k v).sess = s.sess ∧
    (s.setTile k v).rings = s.rings ∧ (s.setTile k v).bars = s.bars ∧ (s.setTile k v).links = s.links ∧
    (s.setTile k v).lgs = s.lgs ∧ (s.setTile k v).board = s.board ∧ (s.setTile k v).cles = s.cles ∧
    (s.setTile k v).pairs = s.pairs ∧ (s.setTile k v).tals = s.tals ∧ (s.setTile k v).ldgs = s.ldgs ∧
    (s.setTile k v).wchs = s.wchs ∧ (s.setTile k v).chans = s.chans ∧ (s.setTile k v).cycles = s.cycles ∧
    (s.setTile k v).fog = s.fog ∧ (s.setTile k v).pcx = s.pcx ∧ (s.setTile k v).funcs = s.funcs ∧
    (s.setTile k v).mgt = s.mgt ∧ (s.setTile k v).otp = s.otp ∧ (s.setTile k v).sec = s.sec ∧
    (s.setTile k v).pwr = s.pwr ∧ (s.setTile k v).boot = s.boot ∧ (s.setTile k v).jtag = s.jtag ∧
    (s.setTile k v).straps = s.straps ∧ (s.setTile k v).timers = s.timers ∧ (s.setTile k v).rr = s.rr ∧
    (s.setTile k v).out = s.out ∧ (s.setTile k v).free = s.free ∧ (s.setTile k v).pending = s.pending :=
  by and_intros <;> rfl

@[simp] theorem State.tile_setTile (s : State) (k j : Nat) (v : TileSt) :
    (s.setTile k v).tile j = if j = k then v else s.tile j := by simp [State.tile, State.setTile]

@[simp] theorem State.setMxe_frame (s : State) (k : Nat) (v : Mxe) :
    (s.setMxe k v).mem = s.mem ∧ (s.setMxe k v).poison = s.poison ∧ (s.setMxe k v).flash = s.flash ∧
    (s.setMxe k v).blocks = s.blocks ∧ (s.setMxe k v).img = s.img ∧ (s.setMxe k v).ctxs = s.ctxs ∧
    (s.setMxe k v).ques = s.ques ∧ (s.setMxe k v).rels = s.rels ∧ (s.setMxe k v).tiles = s.tiles ∧
    (s.setMxe k v).vxes = s.vxes ∧ (s.setMxe k v).stes = s.stes ∧ (s.setMxe k v).chains = s.chains ∧
    (s.setMxe k v).stks = s.stks ∧ (s.setMxe k v).tlbs = s.tlbs ∧ (s.setMxe k v).nmes = s.nmes ∧
    (s.setMxe k v).kvfs = s.kvfs ∧ (s.setMxe k v).parts = s.parts ∧ (s.setMxe k v).sess = s.sess ∧
    (s.setMxe k v).rings = s.rings ∧ (s.setMxe k v).bars = s.bars ∧ (s.setMxe k v).links = s.links ∧
    (s.setMxe k v).lgs = s.lgs ∧ (s.setMxe k v).board = s.board ∧ (s.setMxe k v).cles = s.cles ∧
    (s.setMxe k v).pairs = s.pairs ∧ (s.setMxe k v).tals = s.tals ∧ (s.setMxe k v).ldgs = s.ldgs ∧
    (s.setMxe k v).wchs = s.wchs ∧ (s.setMxe k v).chans = s.chans ∧ (s.setMxe k v).cycles = s.cycles ∧
    (s.setMxe k v).fog = s.fog ∧ (s.setMxe k v).pcx = s.pcx ∧ (s.setMxe k v).funcs = s.funcs ∧
    (s.setMxe k v).mgt = s.mgt ∧ (s.setMxe k v).otp = s.otp ∧ (s.setMxe k v).sec = s.sec ∧
    (s.setMxe k v).pwr = s.pwr ∧ (s.setMxe k v).boot = s.boot ∧ (s.setMxe k v).jtag = s.jtag ∧
    (s.setMxe k v).straps = s.straps ∧ (s.setMxe k v).timers = s.timers ∧ (s.setMxe k v).rr = s.rr ∧
    (s.setMxe k v).out = s.out ∧ (s.setMxe k v).free = s.free ∧ (s.setMxe k v).pending = s.pending :=
  by and_intros <;> rfl

@[simp] theorem State.mxe_setMxe (s : State) (k j : Nat) (v : Mxe) :
    (s.setMxe k v).mxe j = if j = k then v else s.mxe j := by simp [State.mxe, State.setMxe]

@[simp] theorem State.setVxe_frame (s : State) (k : Nat) (v : Vxe) :
    (s.setVxe k v).mem = s.mem ∧ (s.setVxe k v).poison = s.poison ∧ (s.setVxe k v).flash = s.flash ∧
    (s.setVxe k v).blocks = s.blocks ∧ (s.setVxe k v).img = s.img ∧ (s.setVxe k v).ctxs = s.ctxs ∧
    (s.setVxe k v).ques = s.ques ∧ (s.setVxe k v).rels = s.rels ∧ (s.setVxe k v).tiles = s.tiles ∧
    (s.setVxe k v).mxes = s.mxes ∧ (s.setVxe k v).stes = s.stes ∧ (s.setVxe k v).chains = s.chains ∧
    (s.setVxe k v).stks = s.stks ∧ (s.setVxe k v).tlbs = s.tlbs ∧ (s.setVxe k v).nmes = s.nmes ∧
    (s.setVxe k v).kvfs = s.kvfs ∧ (s.setVxe k v).parts = s.parts ∧ (s.setVxe k v).sess = s.sess ∧
    (s.setVxe k v).rings = s.rings ∧ (s.setVxe k v).bars = s.bars ∧ (s.setVxe k v).links = s.links ∧
    (s.setVxe k v).lgs = s.lgs ∧ (s.setVxe k v).board = s.board ∧ (s.setVxe k v).cles = s.cles ∧
    (s.setVxe k v).pairs = s.pairs ∧ (s.setVxe k v).tals = s.tals ∧ (s.setVxe k v).ldgs = s.ldgs ∧
    (s.setVxe k v).wchs = s.wchs ∧ (s.setVxe k v).chans = s.chans ∧ (s.setVxe k v).cycles = s.cycles ∧
    (s.setVxe k v).fog = s.fog ∧ (s.setVxe k v).pcx = s.pcx ∧ (s.setVxe k v).funcs = s.funcs ∧
    (s.setVxe k v).mgt = s.mgt ∧ (s.setVxe k v).otp = s.otp ∧ (s.setVxe k v).sec = s.sec ∧
    (s.setVxe k v).pwr = s.pwr ∧ (s.setVxe k v).boot = s.boot ∧ (s.setVxe k v).jtag = s.jtag ∧
    (s.setVxe k v).straps = s.straps ∧ (s.setVxe k v).timers = s.timers ∧ (s.setVxe k v).rr = s.rr ∧
    (s.setVxe k v).out = s.out ∧ (s.setVxe k v).free = s.free ∧ (s.setVxe k v).pending = s.pending :=
  by and_intros <;> rfl

@[simp] theorem State.vxe_setVxe (s : State) (k j : Nat) (v : Vxe) :
    (s.setVxe k v).vxe j = if j = k then v else s.vxe j := by simp [State.vxe, State.setVxe]

@[simp] theorem State.setSte_frame (s : State) (k : Nat) (v : Ste) :
    (s.setSte k v).mem = s.mem ∧ (s.setSte k v).poison = s.poison ∧ (s.setSte k v).flash = s.flash ∧
    (s.setSte k v).blocks = s.blocks ∧ (s.setSte k v).img = s.img ∧ (s.setSte k v).ctxs = s.ctxs ∧
    (s.setSte k v).ques = s.ques ∧ (s.setSte k v).rels = s.rels ∧ (s.setSte k v).tiles = s.tiles ∧
    (s.setSte k v).mxes = s.mxes ∧ (s.setSte k v).vxes = s.vxes ∧ (s.setSte k v).chains = s.chains ∧
    (s.setSte k v).stks = s.stks ∧ (s.setSte k v).tlbs = s.tlbs ∧ (s.setSte k v).nmes = s.nmes ∧
    (s.setSte k v).kvfs = s.kvfs ∧ (s.setSte k v).parts = s.parts ∧ (s.setSte k v).sess = s.sess ∧
    (s.setSte k v).rings = s.rings ∧ (s.setSte k v).bars = s.bars ∧ (s.setSte k v).links = s.links ∧
    (s.setSte k v).lgs = s.lgs ∧ (s.setSte k v).board = s.board ∧ (s.setSte k v).cles = s.cles ∧
    (s.setSte k v).pairs = s.pairs ∧ (s.setSte k v).tals = s.tals ∧ (s.setSte k v).ldgs = s.ldgs ∧
    (s.setSte k v).wchs = s.wchs ∧ (s.setSte k v).chans = s.chans ∧ (s.setSte k v).cycles = s.cycles ∧
    (s.setSte k v).fog = s.fog ∧ (s.setSte k v).pcx = s.pcx ∧ (s.setSte k v).funcs = s.funcs ∧
    (s.setSte k v).mgt = s.mgt ∧ (s.setSte k v).otp = s.otp ∧ (s.setSte k v).sec = s.sec ∧
    (s.setSte k v).pwr = s.pwr ∧ (s.setSte k v).boot = s.boot ∧ (s.setSte k v).jtag = s.jtag ∧
    (s.setSte k v).straps = s.straps ∧ (s.setSte k v).timers = s.timers ∧ (s.setSte k v).rr = s.rr ∧
    (s.setSte k v).out = s.out ∧ (s.setSte k v).free = s.free ∧ (s.setSte k v).pending = s.pending :=
  by and_intros <;> rfl

@[simp] theorem State.ste_setSte (s : State) (k j : Nat) (v : Ste) :
    (s.setSte k v).ste j = if j = k then v else s.ste j := by simp [State.ste, State.setSte]

@[simp] theorem State.setStack_frame (s : State) (k : Nat) (v : Stack) :
    (s.setStack k v).mem = s.mem ∧ (s.setStack k v).poison = s.poison ∧ (s.setStack k v).flash = s.flash ∧
    (s.setStack k v).blocks = s.blocks ∧ (s.setStack k v).img = s.img ∧ (s.setStack k v).ctxs = s.ctxs ∧
    (s.setStack k v).ques = s.ques ∧ (s.setStack k v).rels = s.rels ∧ (s.setStack k v).tiles = s.tiles ∧
    (s.setStack k v).mxes = s.mxes ∧ (s.setStack k v).vxes = s.vxes ∧ (s.setStack k v).stes = s.stes ∧
    (s.setStack k v).chains = s.chains ∧ (s.setStack k v).tlbs = s.tlbs ∧ (s.setStack k v).nmes = s.nmes ∧
    (s.setStack k v).kvfs = s.kvfs ∧ (s.setStack k v).parts = s.parts ∧ (s.setStack k v).sess = s.sess ∧
    (s.setStack k v).rings = s.rings ∧ (s.setStack k v).bars = s.bars ∧ (s.setStack k v).links = s.links ∧
    (s.setStack k v).lgs = s.lgs ∧ (s.setStack k v).board = s.board ∧ (s.setStack k v).cles = s.cles ∧
    (s.setStack k v).pairs = s.pairs ∧ (s.setStack k v).tals = s.tals ∧ (s.setStack k v).ldgs = s.ldgs ∧
    (s.setStack k v).wchs = s.wchs ∧ (s.setStack k v).chans = s.chans ∧ (s.setStack k v).cycles = s.cycles ∧
    (s.setStack k v).fog = s.fog ∧ (s.setStack k v).pcx = s.pcx ∧ (s.setStack k v).funcs = s.funcs ∧
    (s.setStack k v).mgt = s.mgt ∧ (s.setStack k v).otp = s.otp ∧ (s.setStack k v).sec = s.sec ∧
    (s.setStack k v).pwr = s.pwr ∧ (s.setStack k v).boot = s.boot ∧ (s.setStack k v).jtag = s.jtag ∧
    (s.setStack k v).straps = s.straps ∧ (s.setStack k v).timers = s.timers ∧ (s.setStack k v).rr = s.rr ∧
    (s.setStack k v).out = s.out ∧ (s.setStack k v).free = s.free ∧ (s.setStack k v).pending = s.pending :=
  by and_intros <;> rfl

@[simp] theorem State.stack_setStack (s : State) (k j : Nat) (v : Stack) :
    (s.setStack k v).stack j = if j = k then v else s.stack j := by simp [State.stack, State.setStack]

@[simp] theorem State.setNme_frame (s : State) (k : Nat) (v : Nme) :
    (s.setNme k v).mem = s.mem ∧ (s.setNme k v).poison = s.poison ∧ (s.setNme k v).flash = s.flash ∧
    (s.setNme k v).blocks = s.blocks ∧ (s.setNme k v).img = s.img ∧ (s.setNme k v).ctxs = s.ctxs ∧
    (s.setNme k v).ques = s.ques ∧ (s.setNme k v).rels = s.rels ∧ (s.setNme k v).tiles = s.tiles ∧
    (s.setNme k v).mxes = s.mxes ∧ (s.setNme k v).vxes = s.vxes ∧ (s.setNme k v).stes = s.stes ∧
    (s.setNme k v).chains = s.chains ∧ (s.setNme k v).stks = s.stks ∧ (s.setNme k v).tlbs = s.tlbs ∧
    (s.setNme k v).kvfs = s.kvfs ∧ (s.setNme k v).parts = s.parts ∧ (s.setNme k v).sess = s.sess ∧
    (s.setNme k v).rings = s.rings ∧ (s.setNme k v).bars = s.bars ∧ (s.setNme k v).links = s.links ∧
    (s.setNme k v).lgs = s.lgs ∧ (s.setNme k v).board = s.board ∧ (s.setNme k v).cles = s.cles ∧
    (s.setNme k v).pairs = s.pairs ∧ (s.setNme k v).tals = s.tals ∧ (s.setNme k v).ldgs = s.ldgs ∧
    (s.setNme k v).wchs = s.wchs ∧ (s.setNme k v).chans = s.chans ∧ (s.setNme k v).cycles = s.cycles ∧
    (s.setNme k v).fog = s.fog ∧ (s.setNme k v).pcx = s.pcx ∧ (s.setNme k v).funcs = s.funcs ∧
    (s.setNme k v).mgt = s.mgt ∧ (s.setNme k v).otp = s.otp ∧ (s.setNme k v).sec = s.sec ∧
    (s.setNme k v).pwr = s.pwr ∧ (s.setNme k v).boot = s.boot ∧ (s.setNme k v).jtag = s.jtag ∧
    (s.setNme k v).straps = s.straps ∧ (s.setNme k v).timers = s.timers ∧ (s.setNme k v).rr = s.rr ∧
    (s.setNme k v).out = s.out ∧ (s.setNme k v).free = s.free ∧ (s.setNme k v).pending = s.pending :=
  by and_intros <;> rfl

@[simp] theorem State.nme_setNme (s : State) (k j : Nat) (v : Nme) :
    (s.setNme k v).nme j = if j = k then v else s.nme j := by simp [State.nme, State.setNme]

@[simp] theorem State.setKvf_frame (s : State) (k : Nat) (v : Kvf) :
    (s.setKvf k v).mem = s.mem ∧ (s.setKvf k v).poison = s.poison ∧ (s.setKvf k v).flash = s.flash ∧
    (s.setKvf k v).blocks = s.blocks ∧ (s.setKvf k v).img = s.img ∧ (s.setKvf k v).ctxs = s.ctxs ∧
    (s.setKvf k v).ques = s.ques ∧ (s.setKvf k v).rels = s.rels ∧ (s.setKvf k v).tiles = s.tiles ∧
    (s.setKvf k v).mxes = s.mxes ∧ (s.setKvf k v).vxes = s.vxes ∧ (s.setKvf k v).stes = s.stes ∧
    (s.setKvf k v).chains = s.chains ∧ (s.setKvf k v).stks = s.stks ∧ (s.setKvf k v).tlbs = s.tlbs ∧
    (s.setKvf k v).nmes = s.nmes ∧ (s.setKvf k v).parts = s.parts ∧ (s.setKvf k v).sess = s.sess ∧
    (s.setKvf k v).rings = s.rings ∧ (s.setKvf k v).bars = s.bars ∧ (s.setKvf k v).links = s.links ∧
    (s.setKvf k v).lgs = s.lgs ∧ (s.setKvf k v).board = s.board ∧ (s.setKvf k v).cles = s.cles ∧
    (s.setKvf k v).pairs = s.pairs ∧ (s.setKvf k v).tals = s.tals ∧ (s.setKvf k v).ldgs = s.ldgs ∧
    (s.setKvf k v).wchs = s.wchs ∧ (s.setKvf k v).chans = s.chans ∧ (s.setKvf k v).cycles = s.cycles ∧
    (s.setKvf k v).fog = s.fog ∧ (s.setKvf k v).pcx = s.pcx ∧ (s.setKvf k v).funcs = s.funcs ∧
    (s.setKvf k v).mgt = s.mgt ∧ (s.setKvf k v).otp = s.otp ∧ (s.setKvf k v).sec = s.sec ∧
    (s.setKvf k v).pwr = s.pwr ∧ (s.setKvf k v).boot = s.boot ∧ (s.setKvf k v).jtag = s.jtag ∧
    (s.setKvf k v).straps = s.straps ∧ (s.setKvf k v).timers = s.timers ∧ (s.setKvf k v).rr = s.rr ∧
    (s.setKvf k v).out = s.out ∧ (s.setKvf k v).free = s.free ∧ (s.setKvf k v).pending = s.pending :=
  by and_intros <;> rfl

@[simp] theorem State.kvf_setKvf (s : State) (k j : Nat) (v : Kvf) :
    (s.setKvf k v).kvf j = if j = k then v else s.kvf j := by simp [State.kvf, State.setKvf]

@[simp] theorem State.setPart_frame (s : State) (k : Nat) (v : Part) :
    (s.setPart k v).mem = s.mem ∧ (s.setPart k v).poison = s.poison ∧ (s.setPart k v).flash = s.flash ∧
    (s.setPart k v).blocks = s.blocks ∧ (s.setPart k v).img = s.img ∧ (s.setPart k v).ctxs = s.ctxs ∧
    (s.setPart k v).ques = s.ques ∧ (s.setPart k v).rels = s.rels ∧ (s.setPart k v).tiles = s.tiles ∧
    (s.setPart k v).mxes = s.mxes ∧ (s.setPart k v).vxes = s.vxes ∧ (s.setPart k v).stes = s.stes ∧
    (s.setPart k v).chains = s.chains ∧ (s.setPart k v).stks = s.stks ∧ (s.setPart k v).tlbs = s.tlbs ∧
    (s.setPart k v).nmes = s.nmes ∧ (s.setPart k v).kvfs = s.kvfs ∧ (s.setPart k v).sess = s.sess ∧
    (s.setPart k v).rings = s.rings ∧ (s.setPart k v).bars = s.bars ∧ (s.setPart k v).links = s.links ∧
    (s.setPart k v).lgs = s.lgs ∧ (s.setPart k v).board = s.board ∧ (s.setPart k v).cles = s.cles ∧
    (s.setPart k v).pairs = s.pairs ∧ (s.setPart k v).tals = s.tals ∧ (s.setPart k v).ldgs = s.ldgs ∧
    (s.setPart k v).wchs = s.wchs ∧ (s.setPart k v).chans = s.chans ∧ (s.setPart k v).cycles = s.cycles ∧
    (s.setPart k v).fog = s.fog ∧ (s.setPart k v).pcx = s.pcx ∧ (s.setPart k v).funcs = s.funcs ∧
    (s.setPart k v).mgt = s.mgt ∧ (s.setPart k v).otp = s.otp ∧ (s.setPart k v).sec = s.sec ∧
    (s.setPart k v).pwr = s.pwr ∧ (s.setPart k v).boot = s.boot ∧ (s.setPart k v).jtag = s.jtag ∧
    (s.setPart k v).straps = s.straps ∧ (s.setPart k v).timers = s.timers ∧ (s.setPart k v).rr = s.rr ∧
    (s.setPart k v).out = s.out ∧ (s.setPart k v).free = s.free ∧ (s.setPart k v).pending = s.pending :=
  by and_intros <;> rfl

@[simp] theorem State.part_setPart (s : State) (k j : Nat) (v : Part) :
    (s.setPart k v).part j = if j = k then v else s.part j := by simp [State.part, State.setPart]

@[simp] theorem State.setSes_frame (s : State) (k : Nat) (v : Ses) :
    (s.setSes k v).mem = s.mem ∧ (s.setSes k v).poison = s.poison ∧ (s.setSes k v).flash = s.flash ∧
    (s.setSes k v).blocks = s.blocks ∧ (s.setSes k v).img = s.img ∧ (s.setSes k v).ctxs = s.ctxs ∧
    (s.setSes k v).ques = s.ques ∧ (s.setSes k v).rels = s.rels ∧ (s.setSes k v).tiles = s.tiles ∧
    (s.setSes k v).mxes = s.mxes ∧ (s.setSes k v).vxes = s.vxes ∧ (s.setSes k v).stes = s.stes ∧
    (s.setSes k v).chains = s.chains ∧ (s.setSes k v).stks = s.stks ∧ (s.setSes k v).tlbs = s.tlbs ∧
    (s.setSes k v).nmes = s.nmes ∧ (s.setSes k v).kvfs = s.kvfs ∧ (s.setSes k v).parts = s.parts ∧
    (s.setSes k v).rings = s.rings ∧ (s.setSes k v).bars = s.bars ∧ (s.setSes k v).links = s.links ∧
    (s.setSes k v).lgs = s.lgs ∧ (s.setSes k v).board = s.board ∧ (s.setSes k v).cles = s.cles ∧
    (s.setSes k v).pairs = s.pairs ∧ (s.setSes k v).tals = s.tals ∧ (s.setSes k v).ldgs = s.ldgs ∧
    (s.setSes k v).wchs = s.wchs ∧ (s.setSes k v).chans = s.chans ∧ (s.setSes k v).cycles = s.cycles ∧
    (s.setSes k v).fog = s.fog ∧ (s.setSes k v).pcx = s.pcx ∧ (s.setSes k v).funcs = s.funcs ∧
    (s.setSes k v).mgt = s.mgt ∧ (s.setSes k v).otp = s.otp ∧ (s.setSes k v).sec = s.sec ∧
    (s.setSes k v).pwr = s.pwr ∧ (s.setSes k v).boot = s.boot ∧ (s.setSes k v).jtag = s.jtag ∧
    (s.setSes k v).straps = s.straps ∧ (s.setSes k v).timers = s.timers ∧ (s.setSes k v).rr = s.rr ∧
    (s.setSes k v).out = s.out ∧ (s.setSes k v).free = s.free ∧ (s.setSes k v).pending = s.pending :=
  by and_intros <;> rfl

@[simp] theorem State.ses_setSes (s : State) (k j : Nat) (v : Ses) :
    (s.setSes k v).ses j = if j = k then v else s.ses j := by simp [State.ses, State.setSes]

@[simp] theorem State.setRing_frame (s : State) (k : Nat) (v : Ring) :
    (s.setRing k v).mem = s.mem ∧ (s.setRing k v).poison = s.poison ∧ (s.setRing k v).flash = s.flash ∧
    (s.setRing k v).blocks = s.blocks ∧ (s.setRing k v).img = s.img ∧ (s.setRing k v).ctxs = s.ctxs ∧
    (s.setRing k v).ques = s.ques ∧ (s.setRing k v).rels = s.rels ∧ (s.setRing k v).tiles = s.tiles ∧
    (s.setRing k v).mxes = s.mxes ∧ (s.setRing k v).vxes = s.vxes ∧ (s.setRing k v).stes = s.stes ∧
    (s.setRing k v).chains = s.chains ∧ (s.setRing k v).stks = s.stks ∧ (s.setRing k v).tlbs = s.tlbs ∧
    (s.setRing k v).nmes = s.nmes ∧ (s.setRing k v).kvfs = s.kvfs ∧ (s.setRing k v).parts = s.parts ∧
    (s.setRing k v).sess = s.sess ∧ (s.setRing k v).bars = s.bars ∧ (s.setRing k v).links = s.links ∧
    (s.setRing k v).lgs = s.lgs ∧ (s.setRing k v).board = s.board ∧ (s.setRing k v).cles = s.cles ∧
    (s.setRing k v).pairs = s.pairs ∧ (s.setRing k v).tals = s.tals ∧ (s.setRing k v).ldgs = s.ldgs ∧
    (s.setRing k v).wchs = s.wchs ∧ (s.setRing k v).chans = s.chans ∧ (s.setRing k v).cycles = s.cycles ∧
    (s.setRing k v).fog = s.fog ∧ (s.setRing k v).pcx = s.pcx ∧ (s.setRing k v).funcs = s.funcs ∧
    (s.setRing k v).mgt = s.mgt ∧ (s.setRing k v).otp = s.otp ∧ (s.setRing k v).sec = s.sec ∧
    (s.setRing k v).pwr = s.pwr ∧ (s.setRing k v).boot = s.boot ∧ (s.setRing k v).jtag = s.jtag ∧
    (s.setRing k v).straps = s.straps ∧ (s.setRing k v).timers = s.timers ∧ (s.setRing k v).rr = s.rr ∧
    (s.setRing k v).out = s.out ∧ (s.setRing k v).free = s.free ∧ (s.setRing k v).pending = s.pending :=
  by and_intros <;> rfl

@[simp] theorem State.ring_setRing (s : State) (k j : Nat) (v : Ring) :
    (s.setRing k v).ring j = if j = k then v else s.ring j := by simp [State.ring, State.setRing]

@[simp] theorem State.setBar_frame (s : State) (k : Nat) (v : Bar) :
    (s.setBar k v).mem = s.mem ∧ (s.setBar k v).poison = s.poison ∧ (s.setBar k v).flash = s.flash ∧
    (s.setBar k v).blocks = s.blocks ∧ (s.setBar k v).img = s.img ∧ (s.setBar k v).ctxs = s.ctxs ∧
    (s.setBar k v).ques = s.ques ∧ (s.setBar k v).rels = s.rels ∧ (s.setBar k v).tiles = s.tiles ∧
    (s.setBar k v).mxes = s.mxes ∧ (s.setBar k v).vxes = s.vxes ∧ (s.setBar k v).stes = s.stes ∧
    (s.setBar k v).chains = s.chains ∧ (s.setBar k v).stks = s.stks ∧ (s.setBar k v).tlbs = s.tlbs ∧
    (s.setBar k v).nmes = s.nmes ∧ (s.setBar k v).kvfs = s.kvfs ∧ (s.setBar k v).parts = s.parts ∧
    (s.setBar k v).sess = s.sess ∧ (s.setBar k v).rings = s.rings ∧ (s.setBar k v).links = s.links ∧
    (s.setBar k v).lgs = s.lgs ∧ (s.setBar k v).board = s.board ∧ (s.setBar k v).cles = s.cles ∧
    (s.setBar k v).pairs = s.pairs ∧ (s.setBar k v).tals = s.tals ∧ (s.setBar k v).ldgs = s.ldgs ∧
    (s.setBar k v).wchs = s.wchs ∧ (s.setBar k v).chans = s.chans ∧ (s.setBar k v).cycles = s.cycles ∧
    (s.setBar k v).fog = s.fog ∧ (s.setBar k v).pcx = s.pcx ∧ (s.setBar k v).funcs = s.funcs ∧
    (s.setBar k v).mgt = s.mgt ∧ (s.setBar k v).otp = s.otp ∧ (s.setBar k v).sec = s.sec ∧
    (s.setBar k v).pwr = s.pwr ∧ (s.setBar k v).boot = s.boot ∧ (s.setBar k v).jtag = s.jtag ∧
    (s.setBar k v).straps = s.straps ∧ (s.setBar k v).timers = s.timers ∧ (s.setBar k v).rr = s.rr ∧
    (s.setBar k v).out = s.out ∧ (s.setBar k v).free = s.free ∧ (s.setBar k v).pending = s.pending :=
  by and_intros <;> rfl

@[simp] theorem State.bar_setBar (s : State) (k j : Nat) (v : Bar) :
    (s.setBar k v).bar j = if j = k then v else s.bar j := by simp [State.bar, State.setBar]

@[simp] theorem State.setLink_frame (s : State) (k : Nat) (v : Link) :
    (s.setLink k v).mem = s.mem ∧ (s.setLink k v).poison = s.poison ∧ (s.setLink k v).flash = s.flash ∧
    (s.setLink k v).blocks = s.blocks ∧ (s.setLink k v).img = s.img ∧ (s.setLink k v).ctxs = s.ctxs ∧
    (s.setLink k v).ques = s.ques ∧ (s.setLink k v).rels = s.rels ∧ (s.setLink k v).tiles = s.tiles ∧
    (s.setLink k v).mxes = s.mxes ∧ (s.setLink k v).vxes = s.vxes ∧ (s.setLink k v).stes = s.stes ∧
    (s.setLink k v).chains = s.chains ∧ (s.setLink k v).stks = s.stks ∧ (s.setLink k v).tlbs = s.tlbs ∧
    (s.setLink k v).nmes = s.nmes ∧ (s.setLink k v).kvfs = s.kvfs ∧ (s.setLink k v).parts = s.parts ∧
    (s.setLink k v).sess = s.sess ∧ (s.setLink k v).rings = s.rings ∧ (s.setLink k v).bars = s.bars ∧
    (s.setLink k v).lgs = s.lgs ∧ (s.setLink k v).board = s.board ∧ (s.setLink k v).cles = s.cles ∧
    (s.setLink k v).pairs = s.pairs ∧ (s.setLink k v).tals = s.tals ∧ (s.setLink k v).ldgs = s.ldgs ∧
    (s.setLink k v).wchs = s.wchs ∧ (s.setLink k v).chans = s.chans ∧ (s.setLink k v).cycles = s.cycles ∧
    (s.setLink k v).fog = s.fog ∧ (s.setLink k v).pcx = s.pcx ∧ (s.setLink k v).funcs = s.funcs ∧
    (s.setLink k v).mgt = s.mgt ∧ (s.setLink k v).otp = s.otp ∧ (s.setLink k v).sec = s.sec ∧
    (s.setLink k v).pwr = s.pwr ∧ (s.setLink k v).boot = s.boot ∧ (s.setLink k v).jtag = s.jtag ∧
    (s.setLink k v).straps = s.straps ∧ (s.setLink k v).timers = s.timers ∧ (s.setLink k v).rr = s.rr ∧
    (s.setLink k v).out = s.out ∧ (s.setLink k v).free = s.free ∧ (s.setLink k v).pending = s.pending :=
  by and_intros <;> rfl

@[simp] theorem State.link_setLink (s : State) (k j : Nat) (v : Link) :
    (s.setLink k v).link j = if j = k then v else s.link j := by simp [State.link, State.setLink]

@[simp] theorem State.setLg_frame (s : State) (k : Nat) (v : LinkGroup) :
    (s.setLg k v).mem = s.mem ∧ (s.setLg k v).poison = s.poison ∧ (s.setLg k v).flash = s.flash ∧
    (s.setLg k v).blocks = s.blocks ∧ (s.setLg k v).img = s.img ∧ (s.setLg k v).ctxs = s.ctxs ∧
    (s.setLg k v).ques = s.ques ∧ (s.setLg k v).rels = s.rels ∧ (s.setLg k v).tiles = s.tiles ∧
    (s.setLg k v).mxes = s.mxes ∧ (s.setLg k v).vxes = s.vxes ∧ (s.setLg k v).stes = s.stes ∧
    (s.setLg k v).chains = s.chains ∧ (s.setLg k v).stks = s.stks ∧ (s.setLg k v).tlbs = s.tlbs ∧
    (s.setLg k v).nmes = s.nmes ∧ (s.setLg k v).kvfs = s.kvfs ∧ (s.setLg k v).parts = s.parts ∧
    (s.setLg k v).sess = s.sess ∧ (s.setLg k v).rings = s.rings ∧ (s.setLg k v).bars = s.bars ∧
    (s.setLg k v).links = s.links ∧ (s.setLg k v).board = s.board ∧ (s.setLg k v).cles = s.cles ∧
    (s.setLg k v).pairs = s.pairs ∧ (s.setLg k v).tals = s.tals ∧ (s.setLg k v).ldgs = s.ldgs ∧
    (s.setLg k v).wchs = s.wchs ∧ (s.setLg k v).chans = s.chans ∧ (s.setLg k v).cycles = s.cycles ∧
    (s.setLg k v).fog = s.fog ∧ (s.setLg k v).pcx = s.pcx ∧ (s.setLg k v).funcs = s.funcs ∧
    (s.setLg k v).mgt = s.mgt ∧ (s.setLg k v).otp = s.otp ∧ (s.setLg k v).sec = s.sec ∧ (s.setLg k v).pwr = s.pwr ∧
    (s.setLg k v).boot = s.boot ∧ (s.setLg k v).jtag = s.jtag ∧ (s.setLg k v).straps = s.straps ∧
    (s.setLg k v).timers = s.timers ∧ (s.setLg k v).rr = s.rr ∧ (s.setLg k v).out = s.out ∧
    (s.setLg k v).free = s.free ∧ (s.setLg k v).pending = s.pending :=
  by and_intros <;> rfl

@[simp] theorem State.lg_setLg (s : State) (k j : Nat) (v : LinkGroup) :
    (s.setLg k v).lg j = if j = k then v else s.lg j := by simp [State.lg, State.setLg]

@[simp] theorem State.setCle_frame (s : State) (k : Nat) (v : Cle) :
    (s.setCle k v).mem = s.mem ∧ (s.setCle k v).poison = s.poison ∧ (s.setCle k v).flash = s.flash ∧
    (s.setCle k v).blocks = s.blocks ∧ (s.setCle k v).img = s.img ∧ (s.setCle k v).ctxs = s.ctxs ∧
    (s.setCle k v).ques = s.ques ∧ (s.setCle k v).rels = s.rels ∧ (s.setCle k v).tiles = s.tiles ∧
    (s.setCle k v).mxes = s.mxes ∧ (s.setCle k v).vxes = s.vxes ∧ (s.setCle k v).stes = s.stes ∧
    (s.setCle k v).chains = s.chains ∧ (s.setCle k v).stks = s.stks ∧ (s.setCle k v).tlbs = s.tlbs ∧
    (s.setCle k v).nmes = s.nmes ∧ (s.setCle k v).kvfs = s.kvfs ∧ (s.setCle k v).parts = s.parts ∧
    (s.setCle k v).sess = s.sess ∧ (s.setCle k v).rings = s.rings ∧ (s.setCle k v).bars = s.bars ∧
    (s.setCle k v).links = s.links ∧ (s.setCle k v).lgs = s.lgs ∧ (s.setCle k v).board = s.board ∧
    (s.setCle k v).pairs = s.pairs ∧ (s.setCle k v).tals = s.tals ∧ (s.setCle k v).ldgs = s.ldgs ∧
    (s.setCle k v).wchs = s.wchs ∧ (s.setCle k v).chans = s.chans ∧ (s.setCle k v).cycles = s.cycles ∧
    (s.setCle k v).fog = s.fog ∧ (s.setCle k v).pcx = s.pcx ∧ (s.setCle k v).funcs = s.funcs ∧
    (s.setCle k v).mgt = s.mgt ∧ (s.setCle k v).otp = s.otp ∧ (s.setCle k v).sec = s.sec ∧
    (s.setCle k v).pwr = s.pwr ∧ (s.setCle k v).boot = s.boot ∧ (s.setCle k v).jtag = s.jtag ∧
    (s.setCle k v).straps = s.straps ∧ (s.setCle k v).timers = s.timers ∧ (s.setCle k v).rr = s.rr ∧
    (s.setCle k v).out = s.out ∧ (s.setCle k v).free = s.free ∧ (s.setCle k v).pending = s.pending :=
  by and_intros <;> rfl

@[simp] theorem State.cle_setCle (s : State) (k j : Nat) (v : Cle) :
    (s.setCle k v).cle j = if j = k then v else s.cle j := by simp [State.cle, State.setCle]

@[simp] theorem State.setPair_frame (s : State) (k : Nat) (v : Pair) :
    (s.setPair k v).mem = s.mem ∧ (s.setPair k v).poison = s.poison ∧ (s.setPair k v).flash = s.flash ∧
    (s.setPair k v).blocks = s.blocks ∧ (s.setPair k v).img = s.img ∧ (s.setPair k v).ctxs = s.ctxs ∧
    (s.setPair k v).ques = s.ques ∧ (s.setPair k v).rels = s.rels ∧ (s.setPair k v).tiles = s.tiles ∧
    (s.setPair k v).mxes = s.mxes ∧ (s.setPair k v).vxes = s.vxes ∧ (s.setPair k v).stes = s.stes ∧
    (s.setPair k v).chains = s.chains ∧ (s.setPair k v).stks = s.stks ∧ (s.setPair k v).tlbs = s.tlbs ∧
    (s.setPair k v).nmes = s.nmes ∧ (s.setPair k v).kvfs = s.kvfs ∧ (s.setPair k v).parts = s.parts ∧
    (s.setPair k v).sess = s.sess ∧ (s.setPair k v).rings = s.rings ∧ (s.setPair k v).bars = s.bars ∧
    (s.setPair k v).links = s.links ∧ (s.setPair k v).lgs = s.lgs ∧ (s.setPair k v).board = s.board ∧
    (s.setPair k v).cles = s.cles ∧ (s.setPair k v).tals = s.tals ∧ (s.setPair k v).ldgs = s.ldgs ∧
    (s.setPair k v).wchs = s.wchs ∧ (s.setPair k v).chans = s.chans ∧ (s.setPair k v).cycles = s.cycles ∧
    (s.setPair k v).fog = s.fog ∧ (s.setPair k v).pcx = s.pcx ∧ (s.setPair k v).funcs = s.funcs ∧
    (s.setPair k v).mgt = s.mgt ∧ (s.setPair k v).otp = s.otp ∧ (s.setPair k v).sec = s.sec ∧
    (s.setPair k v).pwr = s.pwr ∧ (s.setPair k v).boot = s.boot ∧ (s.setPair k v).jtag = s.jtag ∧
    (s.setPair k v).straps = s.straps ∧ (s.setPair k v).timers = s.timers ∧ (s.setPair k v).rr = s.rr ∧
    (s.setPair k v).out = s.out ∧ (s.setPair k v).free = s.free ∧ (s.setPair k v).pending = s.pending :=
  by and_intros <;> rfl

@[simp] theorem State.pair_setPair (s : State) (k j : Nat) (v : Pair) :
    (s.setPair k v).pair j = if j = k then v else s.pair j := by simp [State.pair, State.setPair]

@[simp] theorem State.setTal_frame (s : State) (k : Nat) (v : TalUnit) :
    (s.setTal k v).mem = s.mem ∧ (s.setTal k v).poison = s.poison ∧ (s.setTal k v).flash = s.flash ∧
    (s.setTal k v).blocks = s.blocks ∧ (s.setTal k v).img = s.img ∧ (s.setTal k v).ctxs = s.ctxs ∧
    (s.setTal k v).ques = s.ques ∧ (s.setTal k v).rels = s.rels ∧ (s.setTal k v).tiles = s.tiles ∧
    (s.setTal k v).mxes = s.mxes ∧ (s.setTal k v).vxes = s.vxes ∧ (s.setTal k v).stes = s.stes ∧
    (s.setTal k v).chains = s.chains ∧ (s.setTal k v).stks = s.stks ∧ (s.setTal k v).tlbs = s.tlbs ∧
    (s.setTal k v).nmes = s.nmes ∧ (s.setTal k v).kvfs = s.kvfs ∧ (s.setTal k v).parts = s.parts ∧
    (s.setTal k v).sess = s.sess ∧ (s.setTal k v).rings = s.rings ∧ (s.setTal k v).bars = s.bars ∧
    (s.setTal k v).links = s.links ∧ (s.setTal k v).lgs = s.lgs ∧ (s.setTal k v).board = s.board ∧
    (s.setTal k v).cles = s.cles ∧ (s.setTal k v).pairs = s.pairs ∧ (s.setTal k v).ldgs = s.ldgs ∧
    (s.setTal k v).wchs = s.wchs ∧ (s.setTal k v).chans = s.chans ∧ (s.setTal k v).cycles = s.cycles ∧
    (s.setTal k v).fog = s.fog ∧ (s.setTal k v).pcx = s.pcx ∧ (s.setTal k v).funcs = s.funcs ∧
    (s.setTal k v).mgt = s.mgt ∧ (s.setTal k v).otp = s.otp ∧ (s.setTal k v).sec = s.sec ∧
    (s.setTal k v).pwr = s.pwr ∧ (s.setTal k v).boot = s.boot ∧ (s.setTal k v).jtag = s.jtag ∧
    (s.setTal k v).straps = s.straps ∧ (s.setTal k v).timers = s.timers ∧ (s.setTal k v).rr = s.rr ∧
    (s.setTal k v).out = s.out ∧ (s.setTal k v).free = s.free ∧ (s.setTal k v).pending = s.pending :=
  by and_intros <;> rfl

@[simp] theorem State.tal_setTal (s : State) (k j : Nat) (v : TalUnit) :
    (s.setTal k v).tal j = if j = k then v else s.tal j := by simp [State.tal, State.setTal]

@[simp] theorem State.setLdg_frame (s : State) (k : Nat) (v : Ledger) :
    (s.setLdg k v).mem = s.mem ∧ (s.setLdg k v).poison = s.poison ∧ (s.setLdg k v).flash = s.flash ∧
    (s.setLdg k v).blocks = s.blocks ∧ (s.setLdg k v).img = s.img ∧ (s.setLdg k v).ctxs = s.ctxs ∧
    (s.setLdg k v).ques = s.ques ∧ (s.setLdg k v).rels = s.rels ∧ (s.setLdg k v).tiles = s.tiles ∧
    (s.setLdg k v).mxes = s.mxes ∧ (s.setLdg k v).vxes = s.vxes ∧ (s.setLdg k v).stes = s.stes ∧
    (s.setLdg k v).chains = s.chains ∧ (s.setLdg k v).stks = s.stks ∧ (s.setLdg k v).tlbs = s.tlbs ∧
    (s.setLdg k v).nmes = s.nmes ∧ (s.setLdg k v).kvfs = s.kvfs ∧ (s.setLdg k v).parts = s.parts ∧
    (s.setLdg k v).sess = s.sess ∧ (s.setLdg k v).rings = s.rings ∧ (s.setLdg k v).bars = s.bars ∧
    (s.setLdg k v).links = s.links ∧ (s.setLdg k v).lgs = s.lgs ∧ (s.setLdg k v).board = s.board ∧
    (s.setLdg k v).cles = s.cles ∧ (s.setLdg k v).pairs = s.pairs ∧ (s.setLdg k v).tals = s.tals ∧
    (s.setLdg k v).wchs = s.wchs ∧ (s.setLdg k v).chans = s.chans ∧ (s.setLdg k v).cycles = s.cycles ∧
    (s.setLdg k v).fog = s.fog ∧ (s.setLdg k v).pcx = s.pcx ∧ (s.setLdg k v).funcs = s.funcs ∧
    (s.setLdg k v).mgt = s.mgt ∧ (s.setLdg k v).otp = s.otp ∧ (s.setLdg k v).sec = s.sec ∧
    (s.setLdg k v).pwr = s.pwr ∧ (s.setLdg k v).boot = s.boot ∧ (s.setLdg k v).jtag = s.jtag ∧
    (s.setLdg k v).straps = s.straps ∧ (s.setLdg k v).timers = s.timers ∧ (s.setLdg k v).rr = s.rr ∧
    (s.setLdg k v).out = s.out ∧ (s.setLdg k v).free = s.free ∧ (s.setLdg k v).pending = s.pending :=
  by and_intros <;> rfl

@[simp] theorem State.ldg_setLdg (s : State) (k j : Nat) (v : Ledger) :
    (s.setLdg k v).ldg j = if j = k then v else s.ldg j := by simp [State.ldg, State.setLdg]

@[simp] theorem State.setWch_frame (s : State) (k : Nat) (v : WatchSlot) :
    (s.setWch k v).mem = s.mem ∧ (s.setWch k v).poison = s.poison ∧ (s.setWch k v).flash = s.flash ∧
    (s.setWch k v).blocks = s.blocks ∧ (s.setWch k v).img = s.img ∧ (s.setWch k v).ctxs = s.ctxs ∧
    (s.setWch k v).ques = s.ques ∧ (s.setWch k v).rels = s.rels ∧ (s.setWch k v).tiles = s.tiles ∧
    (s.setWch k v).mxes = s.mxes ∧ (s.setWch k v).vxes = s.vxes ∧ (s.setWch k v).stes = s.stes ∧
    (s.setWch k v).chains = s.chains ∧ (s.setWch k v).stks = s.stks ∧ (s.setWch k v).tlbs = s.tlbs ∧
    (s.setWch k v).nmes = s.nmes ∧ (s.setWch k v).kvfs = s.kvfs ∧ (s.setWch k v).parts = s.parts ∧
    (s.setWch k v).sess = s.sess ∧ (s.setWch k v).rings = s.rings ∧ (s.setWch k v).bars = s.bars ∧
    (s.setWch k v).links = s.links ∧ (s.setWch k v).lgs = s.lgs ∧ (s.setWch k v).board = s.board ∧
    (s.setWch k v).cles = s.cles ∧ (s.setWch k v).pairs = s.pairs ∧ (s.setWch k v).tals = s.tals ∧
    (s.setWch k v).ldgs = s.ldgs ∧ (s.setWch k v).chans = s.chans ∧ (s.setWch k v).cycles = s.cycles ∧
    (s.setWch k v).fog = s.fog ∧ (s.setWch k v).pcx = s.pcx ∧ (s.setWch k v).funcs = s.funcs ∧
    (s.setWch k v).mgt = s.mgt ∧ (s.setWch k v).otp = s.otp ∧ (s.setWch k v).sec = s.sec ∧
    (s.setWch k v).pwr = s.pwr ∧ (s.setWch k v).boot = s.boot ∧ (s.setWch k v).jtag = s.jtag ∧
    (s.setWch k v).straps = s.straps ∧ (s.setWch k v).timers = s.timers ∧ (s.setWch k v).rr = s.rr ∧
    (s.setWch k v).out = s.out ∧ (s.setWch k v).free = s.free ∧ (s.setWch k v).pending = s.pending :=
  by and_intros <;> rfl

@[simp] theorem State.wch_setWch (s : State) (k j : Nat) (v : WatchSlot) :
    (s.setWch k v).wch j = if j = k then v else s.wch j := by simp [State.wch, State.setWch]

@[simp] theorem State.setChan_frame (s : State) (k : Nat) (v : ChanSt) :
    (s.setChan k v).mem = s.mem ∧ (s.setChan k v).poison = s.poison ∧ (s.setChan k v).flash = s.flash ∧
    (s.setChan k v).blocks = s.blocks ∧ (s.setChan k v).img = s.img ∧ (s.setChan k v).ctxs = s.ctxs ∧
    (s.setChan k v).ques = s.ques ∧ (s.setChan k v).rels = s.rels ∧ (s.setChan k v).tiles = s.tiles ∧
    (s.setChan k v).mxes = s.mxes ∧ (s.setChan k v).vxes = s.vxes ∧ (s.setChan k v).stes = s.stes ∧
    (s.setChan k v).chains = s.chains ∧ (s.setChan k v).stks = s.stks ∧ (s.setChan k v).tlbs = s.tlbs ∧
    (s.setChan k v).nmes = s.nmes ∧ (s.setChan k v).kvfs = s.kvfs ∧ (s.setChan k v).parts = s.parts ∧
    (s.setChan k v).sess = s.sess ∧ (s.setChan k v).rings = s.rings ∧ (s.setChan k v).bars = s.bars ∧
    (s.setChan k v).links = s.links ∧ (s.setChan k v).lgs = s.lgs ∧ (s.setChan k v).board = s.board ∧
    (s.setChan k v).cles = s.cles ∧ (s.setChan k v).pairs = s.pairs ∧ (s.setChan k v).tals = s.tals ∧
    (s.setChan k v).ldgs = s.ldgs ∧ (s.setChan k v).wchs = s.wchs ∧ (s.setChan k v).cycles = s.cycles ∧
    (s.setChan k v).fog = s.fog ∧ (s.setChan k v).pcx = s.pcx ∧ (s.setChan k v).funcs = s.funcs ∧
    (s.setChan k v).mgt = s.mgt ∧ (s.setChan k v).otp = s.otp ∧ (s.setChan k v).sec = s.sec ∧
    (s.setChan k v).pwr = s.pwr ∧ (s.setChan k v).boot = s.boot ∧ (s.setChan k v).jtag = s.jtag ∧
    (s.setChan k v).straps = s.straps ∧ (s.setChan k v).timers = s.timers ∧ (s.setChan k v).rr = s.rr ∧
    (s.setChan k v).out = s.out ∧ (s.setChan k v).free = s.free ∧ (s.setChan k v).pending = s.pending :=
  by and_intros <;> rfl

@[simp] theorem State.chan_setChan (s : State) (k j : Nat) (v : ChanSt) :
    (s.setChan k v).chan j = if j = k then v else s.chan j := by simp [State.chan, State.setChan]

@[simp] theorem State.setFunc_frame (s : State) (k : Nat) (v : Func) :
    (s.setFunc k v).mem = s.mem ∧ (s.setFunc k v).poison = s.poison ∧ (s.setFunc k v).flash = s.flash ∧
    (s.setFunc k v).blocks = s.blocks ∧ (s.setFunc k v).img = s.img ∧ (s.setFunc k v).ctxs = s.ctxs ∧
    (s.setFunc k v).ques = s.ques ∧ (s.setFunc k v).rels = s.rels ∧ (s.setFunc k v).tiles = s.tiles ∧
    (s.setFunc k v).mxes = s.mxes ∧ (s.setFunc k v).vxes = s.vxes ∧ (s.setFunc k v).stes = s.stes ∧
    (s.setFunc k v).chains = s.chains ∧ (s.setFunc k v).stks = s.stks ∧ (s.setFunc k v).tlbs = s.tlbs ∧
    (s.setFunc k v).nmes = s.nmes ∧ (s.setFunc k v).kvfs = s.kvfs ∧ (s.setFunc k v).parts = s.parts ∧
    (s.setFunc k v).sess = s.sess ∧ (s.setFunc k v).rings = s.rings ∧ (s.setFunc k v).bars = s.bars ∧
    (s.setFunc k v).links = s.links ∧ (s.setFunc k v).lgs = s.lgs ∧ (s.setFunc k v).board = s.board ∧
    (s.setFunc k v).cles = s.cles ∧ (s.setFunc k v).pairs = s.pairs ∧ (s.setFunc k v).tals = s.tals ∧
    (s.setFunc k v).ldgs = s.ldgs ∧ (s.setFunc k v).wchs = s.wchs ∧ (s.setFunc k v).chans = s.chans ∧
    (s.setFunc k v).cycles = s.cycles ∧ (s.setFunc k v).fog = s.fog ∧ (s.setFunc k v).pcx = s.pcx ∧
    (s.setFunc k v).mgt = s.mgt ∧ (s.setFunc k v).otp = s.otp ∧ (s.setFunc k v).sec = s.sec ∧
    (s.setFunc k v).pwr = s.pwr ∧ (s.setFunc k v).boot = s.boot ∧ (s.setFunc k v).jtag = s.jtag ∧
    (s.setFunc k v).straps = s.straps ∧ (s.setFunc k v).timers = s.timers ∧ (s.setFunc k v).rr = s.rr ∧
    (s.setFunc k v).out = s.out ∧ (s.setFunc k v).free = s.free ∧ (s.setFunc k v).pending = s.pending :=
  by and_intros <;> rfl

@[simp] theorem State.func_setFunc (s : State) (k j : Nat) (v : Func) :
    (s.setFunc k v).func j = if j = k then v else s.func j := by simp [State.func, State.setFunc]

@[simp] theorem State.setChain_frame (s : State) (k : Nat) (v : List Chain) :
    (s.setChain k v).mem = s.mem ∧ (s.setChain k v).poison = s.poison ∧ (s.setChain k v).flash = s.flash ∧
    (s.setChain k v).blocks = s.blocks ∧ (s.setChain k v).img = s.img ∧ (s.setChain k v).ctxs = s.ctxs ∧
    (s.setChain k v).ques = s.ques ∧ (s.setChain k v).rels = s.rels ∧ (s.setChain k v).tiles = s.tiles ∧
    (s.setChain k v).mxes = s.mxes ∧ (s.setChain k v).vxes = s.vxes ∧ (s.setChain k v).stes = s.stes ∧
    (s.setChain k v).stks = s.stks ∧ (s.setChain k v).tlbs = s.tlbs ∧ (s.setChain k v).nmes = s.nmes ∧
    (s.setChain k v).kvfs = s.kvfs ∧ (s.setChain k v).parts = s.parts ∧ (s.setChain k v).sess = s.sess ∧
    (s.setChain k v).rings = s.rings ∧ (s.setChain k v).bars = s.bars ∧ (s.setChain k v).links = s.links ∧
    (s.setChain k v).lgs = s.lgs ∧ (s.setChain k v).board = s.board ∧ (s.setChain k v).cles = s.cles ∧
    (s.setChain k v).pairs = s.pairs ∧ (s.setChain k v).tals = s.tals ∧ (s.setChain k v).ldgs = s.ldgs ∧
    (s.setChain k v).wchs = s.wchs ∧ (s.setChain k v).chans = s.chans ∧ (s.setChain k v).cycles = s.cycles ∧
    (s.setChain k v).fog = s.fog ∧ (s.setChain k v).pcx = s.pcx ∧ (s.setChain k v).funcs = s.funcs ∧
    (s.setChain k v).mgt = s.mgt ∧ (s.setChain k v).otp = s.otp ∧ (s.setChain k v).sec = s.sec ∧
    (s.setChain k v).pwr = s.pwr ∧ (s.setChain k v).boot = s.boot ∧ (s.setChain k v).jtag = s.jtag ∧
    (s.setChain k v).straps = s.straps ∧ (s.setChain k v).timers = s.timers ∧ (s.setChain k v).rr = s.rr ∧
    (s.setChain k v).out = s.out ∧ (s.setChain k v).free = s.free ∧ (s.setChain k v).pending = s.pending :=
  by and_intros <;> rfl

@[simp] theorem State.chain_setChain (s : State) (k j : Nat) (v : List Chain) :
    (s.setChain k v).chain j = if j = k then v else s.chain j := by simp [State.chain, State.setChain]

@[simp] theorem State.setTlb_frame (s : State) (k : Nat) (v : List TlbEnt) :
    (s.setTlb k v).mem = s.mem ∧ (s.setTlb k v).poison = s.poison ∧ (s.setTlb k v).flash = s.flash ∧
    (s.setTlb k v).blocks = s.blocks ∧ (s.setTlb k v).img = s.img ∧ (s.setTlb k v).ctxs = s.ctxs ∧
    (s.setTlb k v).ques = s.ques ∧ (s.setTlb k v).rels = s.rels ∧ (s.setTlb k v).tiles = s.tiles ∧
    (s.setTlb k v).mxes = s.mxes ∧ (s.setTlb k v).vxes = s.vxes ∧ (s.setTlb k v).stes = s.stes ∧
    (s.setTlb k v).chains = s.chains ∧ (s.setTlb k v).stks = s.stks ∧ (s.setTlb k v).nmes = s.nmes ∧
    (s.setTlb k v).kvfs = s.kvfs ∧ (s.setTlb k v).parts = s.parts ∧ (s.setTlb k v).sess = s.sess ∧
    (s.setTlb k v).rings = s.rings ∧ (s.setTlb k v).bars = s.bars ∧ (s.setTlb k v).links = s.links ∧
    (s.setTlb k v).lgs = s.lgs ∧ (s.setTlb k v).board = s.board ∧ (s.setTlb k v).cles = s.cles ∧
    (s.setTlb k v).pairs = s.pairs ∧ (s.setTlb k v).tals = s.tals ∧ (s.setTlb k v).ldgs = s.ldgs ∧
    (s.setTlb k v).wchs = s.wchs ∧ (s.setTlb k v).chans = s.chans ∧ (s.setTlb k v).cycles = s.cycles ∧
    (s.setTlb k v).fog = s.fog ∧ (s.setTlb k v).pcx = s.pcx ∧ (s.setTlb k v).funcs = s.funcs ∧
    (s.setTlb k v).mgt = s.mgt ∧ (s.setTlb k v).otp = s.otp ∧ (s.setTlb k v).sec = s.sec ∧
    (s.setTlb k v).pwr = s.pwr ∧ (s.setTlb k v).boot = s.boot ∧ (s.setTlb k v).jtag = s.jtag ∧
    (s.setTlb k v).straps = s.straps ∧ (s.setTlb k v).timers = s.timers ∧ (s.setTlb k v).rr = s.rr ∧
    (s.setTlb k v).out = s.out ∧ (s.setTlb k v).free = s.free ∧ (s.setTlb k v).pending = s.pending :=
  by and_intros <;> rfl

@[simp] theorem State.tlb_setTlb (s : State) (k j : Nat) (v : List TlbEnt) :
    (s.setTlb k v).tlb j = if j = k then v else s.tlb j := by simp [State.tlb, State.setTlb]

@[simp] theorem State.setCycle_frame (s : State) (k : Nat) (v : W64) :
    (s.setCycle k v).mem = s.mem ∧ (s.setCycle k v).poison = s.poison ∧ (s.setCycle k v).flash = s.flash ∧
    (s.setCycle k v).blocks = s.blocks ∧ (s.setCycle k v).img = s.img ∧ (s.setCycle k v).ctxs = s.ctxs ∧
    (s.setCycle k v).ques = s.ques ∧ (s.setCycle k v).rels = s.rels ∧ (s.setCycle k v).tiles = s.tiles ∧
    (s.setCycle k v).mxes = s.mxes ∧ (s.setCycle k v).vxes = s.vxes ∧ (s.setCycle k v).stes = s.stes ∧
    (s.setCycle k v).chains = s.chains ∧ (s.setCycle k v).stks = s.stks ∧ (s.setCycle k v).tlbs = s.tlbs ∧
    (s.setCycle k v).nmes = s.nmes ∧ (s.setCycle k v).kvfs = s.kvfs ∧ (s.setCycle k v).parts = s.parts ∧
    (s.setCycle k v).sess = s.sess ∧ (s.setCycle k v).rings = s.rings ∧ (s.setCycle k v).bars = s.bars ∧
    (s.setCycle k v).links = s.links ∧ (s.setCycle k v).lgs = s.lgs ∧ (s.setCycle k v).board = s.board ∧
    (s.setCycle k v).cles = s.cles ∧ (s.setCycle k v).pairs = s.pairs ∧ (s.setCycle k v).tals = s.tals ∧
    (s.setCycle k v).ldgs = s.ldgs ∧ (s.setCycle k v).wchs = s.wchs ∧ (s.setCycle k v).chans = s.chans ∧
    (s.setCycle k v).fog = s.fog ∧ (s.setCycle k v).pcx = s.pcx ∧ (s.setCycle k v).funcs = s.funcs ∧
    (s.setCycle k v).mgt = s.mgt ∧ (s.setCycle k v).otp = s.otp ∧ (s.setCycle k v).sec = s.sec ∧
    (s.setCycle k v).pwr = s.pwr ∧ (s.setCycle k v).boot = s.boot ∧ (s.setCycle k v).jtag = s.jtag ∧
    (s.setCycle k v).straps = s.straps ∧ (s.setCycle k v).timers = s.timers ∧ (s.setCycle k v).rr = s.rr ∧
    (s.setCycle k v).out = s.out ∧ (s.setCycle k v).free = s.free ∧ (s.setCycle k v).pending = s.pending :=
  by and_intros <;> rfl

@[simp] theorem State.cycle_setCycle (s : State) (k j : Nat) (v : W64) :
    (s.setCycle k v).cycle j = if j = k then v else s.cycle j := by simp [State.cycle, State.setCycle]

@[simp] theorem State.setTurn_frame (s : State) (k : Nat) (v : Nat) :
    (s.setTurn k v).mem = s.mem ∧ (s.setTurn k v).poison = s.poison ∧ (s.setTurn k v).flash = s.flash ∧
    (s.setTurn k v).blocks = s.blocks ∧ (s.setTurn k v).img = s.img ∧ (s.setTurn k v).ctxs = s.ctxs ∧
    (s.setTurn k v).ques = s.ques ∧ (s.setTurn k v).rels = s.rels ∧ (s.setTurn k v).tiles = s.tiles ∧
    (s.setTurn k v).mxes = s.mxes ∧ (s.setTurn k v).vxes = s.vxes ∧ (s.setTurn k v).stes = s.stes ∧
    (s.setTurn k v).chains = s.chains ∧ (s.setTurn k v).stks = s.stks ∧ (s.setTurn k v).tlbs = s.tlbs ∧
    (s.setTurn k v).nmes = s.nmes ∧ (s.setTurn k v).kvfs = s.kvfs ∧ (s.setTurn k v).parts = s.parts ∧
    (s.setTurn k v).sess = s.sess ∧ (s.setTurn k v).rings = s.rings ∧ (s.setTurn k v).bars = s.bars ∧
    (s.setTurn k v).links = s.links ∧ (s.setTurn k v).lgs = s.lgs ∧ (s.setTurn k v).board = s.board ∧
    (s.setTurn k v).cles = s.cles ∧ (s.setTurn k v).pairs = s.pairs ∧ (s.setTurn k v).tals = s.tals ∧
    (s.setTurn k v).ldgs = s.ldgs ∧ (s.setTurn k v).wchs = s.wchs ∧ (s.setTurn k v).chans = s.chans ∧
    (s.setTurn k v).cycles = s.cycles ∧ (s.setTurn k v).fog = s.fog ∧ (s.setTurn k v).pcx = s.pcx ∧
    (s.setTurn k v).funcs = s.funcs ∧ (s.setTurn k v).mgt = s.mgt ∧ (s.setTurn k v).otp = s.otp ∧
    (s.setTurn k v).sec = s.sec ∧ (s.setTurn k v).pwr = s.pwr ∧ (s.setTurn k v).boot = s.boot ∧
    (s.setTurn k v).jtag = s.jtag ∧ (s.setTurn k v).straps = s.straps ∧ (s.setTurn k v).timers = s.timers ∧
    (s.setTurn k v).out = s.out ∧ (s.setTurn k v).free = s.free ∧ (s.setTurn k v).pending = s.pending :=
  by and_intros <;> rfl

@[simp] theorem State.turn_setTurn (s : State) (k j : Nat) (v : Nat) :
    (s.setTurn k v).turn j = if j = k then v else s.turn j := by simp [State.turn, State.setTurn]

@[simp] theorem State.setBlk_frame (s : State) (b : BlkId) (r : BlockRegs) :
    (s.setBlk b r).mem = s.mem ∧ (s.setBlk b r).poison = s.poison ∧ (s.setBlk b r).flash = s.flash ∧
    (s.setBlk b r).img = s.img ∧ (s.setBlk b r).ctxs = s.ctxs ∧ (s.setBlk b r).ques = s.ques ∧
    (s.setBlk b r).rels = s.rels ∧ (s.setBlk b r).tiles = s.tiles ∧ (s.setBlk b r).mxes = s.mxes ∧
    (s.setBlk b r).vxes = s.vxes ∧ (s.setBlk b r).stes = s.stes ∧ (s.setBlk b r).chains = s.chains ∧
    (s.setBlk b r).stks = s.stks ∧ (s.setBlk b r).tlbs = s.tlbs ∧ (s.setBlk b r).nmes = s.nmes ∧
    (s.setBlk b r).kvfs = s.kvfs ∧ (s.setBlk b r).parts = s.parts ∧ (s.setBlk b r).sess = s.sess ∧
    (s.setBlk b r).rings = s.rings ∧ (s.setBlk b r).bars = s.bars ∧ (s.setBlk b r).links = s.links ∧
    (s.setBlk b r).lgs = s.lgs ∧ (s.setBlk b r).board = s.board ∧ (s.setBlk b r).cles = s.cles ∧
    (s.setBlk b r).pairs = s.pairs ∧ (s.setBlk b r).tals = s.tals ∧ (s.setBlk b r).ldgs = s.ldgs ∧
    (s.setBlk b r).wchs = s.wchs ∧ (s.setBlk b r).chans = s.chans ∧ (s.setBlk b r).cycles = s.cycles ∧
    (s.setBlk b r).fog = s.fog ∧ (s.setBlk b r).pcx = s.pcx ∧ (s.setBlk b r).funcs = s.funcs ∧
    (s.setBlk b r).mgt = s.mgt ∧ (s.setBlk b r).otp = s.otp ∧ (s.setBlk b r).sec = s.sec ∧
    (s.setBlk b r).pwr = s.pwr ∧ (s.setBlk b r).boot = s.boot ∧ (s.setBlk b r).jtag = s.jtag ∧
    (s.setBlk b r).straps = s.straps ∧ (s.setBlk b r).timers = s.timers ∧ (s.setBlk b r).rr = s.rr ∧
    (s.setBlk b r).out = s.out ∧ (s.setBlk b r).free = s.free ∧ (s.setBlk b r).pending = s.pending :=
  by and_intros <;> rfl

@[simp] theorem State.blk_setBlk (s : State) (b c : BlkId) (r : BlockRegs) :
    (s.setBlk b r).blk c = if blkKey c = blkKey b then r else s.blk c := by simp [State.blk, State.setBlk]

@[simp] theorem State.setComm_frame (s : State) (k : BlkKind) (u off : Nat) (v : W32) :
    (s.setComm k u off v).mem = s.mem ∧ (s.setComm k u off v).poison = s.poison ∧
    (s.setComm k u off v).flash = s.flash ∧ (s.setComm k u off v).img = s.img ∧ (s.setComm k u off v).ctxs = s.ctxs ∧
    (s.setComm k u off v).ques = s.ques ∧ (s.setComm k u off v).rels = s.rels ∧
    (s.setComm k u off v).tiles = s.tiles ∧ (s.setComm k u off v).mxes = s.mxes ∧
    (s.setComm k u off v).vxes = s.vxes ∧ (s.setComm k u off v).stes = s.stes ∧
    (s.setComm k u off v).chains = s.chains ∧ (s.setComm k u off v).stks = s.stks ∧
    (s.setComm k u off v).tlbs = s.tlbs ∧ (s.setComm k u off v).nmes = s.nmes ∧ (s.setComm k u off v).kvfs = s.kvfs ∧
    (s.setComm k u off v).parts = s.parts ∧ (s.setComm k u off v).sess = s.sess ∧
    (s.setComm k u off v).rings = s.rings ∧ (s.setComm k u off v).bars = s.bars ∧
    (s.setComm k u off v).links = s.links ∧ (s.setComm k u off v).lgs = s.lgs ∧
    (s.setComm k u off v).board = s.board ∧ (s.setComm k u off v).cles = s.cles ∧
    (s.setComm k u off v).pairs = s.pairs ∧ (s.setComm k u off v).tals = s.tals ∧
    (s.setComm k u off v).ldgs = s.ldgs ∧ (s.setComm k u off v).wchs = s.wchs ∧
    (s.setComm k u off v).chans = s.chans ∧ (s.setComm k u off v).cycles = s.cycles ∧
    (s.setComm k u off v).fog = s.fog ∧ (s.setComm k u off v).pcx = s.pcx ∧ (s.setComm k u off v).funcs = s.funcs ∧
    (s.setComm k u off v).mgt = s.mgt ∧ (s.setComm k u off v).otp = s.otp ∧ (s.setComm k u off v).sec = s.sec ∧
    (s.setComm k u off v).pwr = s.pwr ∧ (s.setComm k u off v).boot = s.boot ∧ (s.setComm k u off v).jtag = s.jtag ∧
    (s.setComm k u off v).straps = s.straps ∧ (s.setComm k u off v).timers = s.timers ∧
    (s.setComm k u off v).rr = s.rr ∧ (s.setComm k u off v).out = s.out ∧ (s.setComm k u off v).free = s.free ∧
    (s.setComm k u off v).pending = s.pending :=
  by and_intros <;> rfl

@[simp] theorem State.setStaged_frame (s : State) (k : BlkKind) (u off : Nat) (v : W32) :
    (s.setStaged k u off v).mem = s.mem ∧ (s.setStaged k u off v).poison = s.poison ∧
    (s.setStaged k u off v).flash = s.flash ∧ (s.setStaged k u off v).img = s.img ∧
    (s.setStaged k u off v).ctxs = s.ctxs ∧ (s.setStaged k u off v).ques = s.ques ∧
    (s.setStaged k u off v).rels = s.rels ∧ (s.setStaged k u off v).tiles = s.tiles ∧
    (s.setStaged k u off v).mxes = s.mxes ∧ (s.setStaged k u off v).vxes = s.vxes ∧
    (s.setStaged k u off v).stes = s.stes ∧ (s.setStaged k u off v).chains = s.chains ∧
    (s.setStaged k u off v).stks = s.stks ∧ (s.setStaged k u off v).tlbs = s.tlbs ∧
    (s.setStaged k u off v).nmes = s.nmes ∧ (s.setStaged k u off v).kvfs = s.kvfs ∧
    (s.setStaged k u off v).parts = s.parts ∧ (s.setStaged k u off v).sess = s.sess ∧
    (s.setStaged k u off v).rings = s.rings ∧ (s.setStaged k u off v).bars = s.bars ∧
    (s.setStaged k u off v).links = s.links ∧ (s.setStaged k u off v).lgs = s.lgs ∧
    (s.setStaged k u off v).board = s.board ∧ (s.setStaged k u off v).cles = s.cles ∧
    (s.setStaged k u off v).pairs = s.pairs ∧ (s.setStaged k u off v).tals = s.tals ∧
    (s.setStaged k u off v).ldgs = s.ldgs ∧ (s.setStaged k u off v).wchs = s.wchs ∧
    (s.setStaged k u off v).chans = s.chans ∧ (s.setStaged k u off v).cycles = s.cycles ∧
    (s.setStaged k u off v).fog = s.fog ∧ (s.setStaged k u off v).pcx = s.pcx ∧
    (s.setStaged k u off v).funcs = s.funcs ∧ (s.setStaged k u off v).mgt = s.mgt ∧
    (s.setStaged k u off v).otp = s.otp ∧ (s.setStaged k u off v).sec = s.sec ∧ (s.setStaged k u off v).pwr = s.pwr ∧
    (s.setStaged k u off v).boot = s.boot ∧ (s.setStaged k u off v).jtag = s.jtag ∧
    (s.setStaged k u off v).straps = s.straps ∧ (s.setStaged k u off v).timers = s.timers ∧
    (s.setStaged k u off v).rr = s.rr ∧ (s.setStaged k u off v).out = s.out ∧ (s.setStaged k u off v).free = s.free ∧
    (s.setStaged k u off v).pending = s.pending :=
  by and_intros <;> rfl

@[simp] theorem State.setPlain_frame (s : State) (k : BlkKind) (u off : Nat) (v : W32) :
    (s.setPlain k u off v).mem = s.mem ∧ (s.setPlain k u off v).poison = s.poison ∧
    (s.setPlain k u off v).flash = s.flash ∧ (s.setPlain k u off v).img = s.img ∧
    (s.setPlain k u off v).ctxs = s.ctxs ∧ (s.setPlain k u off v).ques = s.ques ∧
    (s.setPlain k u off v).rels = s.rels ∧ (s.setPlain k u off v).tiles = s.tiles ∧
    (s.setPlain k u off v).mxes = s.mxes ∧ (s.setPlain k u off v).vxes = s.vxes ∧
    (s.setPlain k u off v).stes = s.stes ∧ (s.setPlain k u off v).chains = s.chains ∧
    (s.setPlain k u off v).stks = s.stks ∧ (s.setPlain k u off v).tlbs = s.tlbs ∧
    (s.setPlain k u off v).nmes = s.nmes ∧ (s.setPlain k u off v).kvfs = s.kvfs ∧
    (s.setPlain k u off v).parts = s.parts ∧ (s.setPlain k u off v).sess = s.sess ∧
    (s.setPlain k u off v).rings = s.rings ∧ (s.setPlain k u off v).bars = s.bars ∧
    (s.setPlain k u off v).links = s.links ∧ (s.setPlain k u off v).lgs = s.lgs ∧
    (s.setPlain k u off v).board = s.board ∧ (s.setPlain k u off v).cles = s.cles ∧
    (s.setPlain k u off v).pairs = s.pairs ∧ (s.setPlain k u off v).tals = s.tals ∧
    (s.setPlain k u off v).ldgs = s.ldgs ∧ (s.setPlain k u off v).wchs = s.wchs ∧
    (s.setPlain k u off v).chans = s.chans ∧ (s.setPlain k u off v).cycles = s.cycles ∧
    (s.setPlain k u off v).fog = s.fog ∧ (s.setPlain k u off v).pcx = s.pcx ∧
    (s.setPlain k u off v).funcs = s.funcs ∧ (s.setPlain k u off v).mgt = s.mgt ∧
    (s.setPlain k u off v).otp = s.otp ∧ (s.setPlain k u off v).sec = s.sec ∧ (s.setPlain k u off v).pwr = s.pwr ∧
    (s.setPlain k u off v).boot = s.boot ∧ (s.setPlain k u off v).jtag = s.jtag ∧
    (s.setPlain k u off v).straps = s.straps ∧ (s.setPlain k u off v).timers = s.timers ∧
    (s.setPlain k u off v).rr = s.rr ∧ (s.setPlain k u off v).out = s.out ∧ (s.setPlain k u off v).free = s.free ∧
    (s.setPlain k u off v).pending = s.pending :=
  by and_intros <;> rfl

@[simp] theorem State.flag_frame (s : State) (k : BlkKind) (u off : Nat) (v : W32) :
    (s.flag k u off v).mem = s.mem ∧ (s.flag k u off v).poison = s.poison ∧ (s.flag k u off v).flash = s.flash ∧
    (s.flag k u off v).img = s.img ∧ (s.flag k u off v).ctxs = s.ctxs ∧ (s.flag k u off v).ques = s.ques ∧
    (s.flag k u off v).rels = s.rels ∧ (s.flag k u off v).tiles = s.tiles ∧ (s.flag k u off v).mxes = s.mxes ∧
    (s.flag k u off v).vxes = s.vxes ∧ (s.flag k u off v).stes = s.stes ∧ (s.flag k u off v).chains = s.chains ∧
    (s.flag k u off v).stks = s.stks ∧ (s.flag k u off v).tlbs = s.tlbs ∧ (s.flag k u off v).nmes = s.nmes ∧
    (s.flag k u off v).kvfs = s.kvfs ∧ (s.flag k u off v).parts = s.parts ∧ (s.flag k u off v).sess = s.sess ∧
    (s.flag k u off v).rings = s.rings ∧ (s.flag k u off v).bars = s.bars ∧ (s.flag k u off v).links = s.links ∧
    (s.flag k u off v).lgs = s.lgs ∧ (s.flag k u off v).board = s.board ∧ (s.flag k u off v).cles = s.cles ∧
    (s.flag k u off v).pairs = s.pairs ∧ (s.flag k u off v).tals = s.tals ∧ (s.flag k u off v).ldgs = s.ldgs ∧
    (s.flag k u off v).wchs = s.wchs ∧ (s.flag k u off v).chans = s.chans ∧ (s.flag k u off v).cycles = s.cycles ∧
    (s.flag k u off v).fog = s.fog ∧ (s.flag k u off v).pcx = s.pcx ∧ (s.flag k u off v).funcs = s.funcs ∧
    (s.flag k u off v).mgt = s.mgt ∧ (s.flag k u off v).otp = s.otp ∧ (s.flag k u off v).sec = s.sec ∧
    (s.flag k u off v).pwr = s.pwr ∧ (s.flag k u off v).boot = s.boot ∧ (s.flag k u off v).jtag = s.jtag ∧
    (s.flag k u off v).straps = s.straps ∧ (s.flag k u off v).timers = s.timers ∧ (s.flag k u off v).rr = s.rr ∧
    (s.flag k u off v).out = s.out ∧ (s.flag k u off v).free = s.free ∧ (s.flag k u off v).pending = s.pending :=
  by and_intros <;> rfl

@[simp] theorem State.unflag_frame (s : State) (k : BlkKind) (u off : Nat) (v : W32) :
    (s.unflag k u off v).mem = s.mem ∧ (s.unflag k u off v).poison = s.poison ∧
    (s.unflag k u off v).flash = s.flash ∧ (s.unflag k u off v).img = s.img ∧ (s.unflag k u off v).ctxs = s.ctxs ∧
    (s.unflag k u off v).ques = s.ques ∧ (s.unflag k u off v).rels = s.rels ∧ (s.unflag k u off v).tiles = s.tiles ∧
    (s.unflag k u off v).mxes = s.mxes ∧ (s.unflag k u off v).vxes = s.vxes ∧ (s.unflag k u off v).stes = s.stes ∧
    (s.unflag k u off v).chains = s.chains ∧ (s.unflag k u off v).stks = s.stks ∧
    (s.unflag k u off v).tlbs = s.tlbs ∧ (s.unflag k u off v).nmes = s.nmes ∧ (s.unflag k u off v).kvfs = s.kvfs ∧
    (s.unflag k u off v).parts = s.parts ∧ (s.unflag k u off v).sess = s.sess ∧
    (s.unflag k u off v).rings = s.rings ∧ (s.unflag k u off v).bars = s.bars ∧
    (s.unflag k u off v).links = s.links ∧ (s.unflag k u off v).lgs = s.lgs ∧ (s.unflag k u off v).board = s.board ∧
    (s.unflag k u off v).cles = s.cles ∧ (s.unflag k u off v).pairs = s.pairs ∧ (s.unflag k u off v).tals = s.tals ∧
    (s.unflag k u off v).ldgs = s.ldgs ∧ (s.unflag k u off v).wchs = s.wchs ∧ (s.unflag k u off v).chans = s.chans ∧
    (s.unflag k u off v).cycles = s.cycles ∧ (s.unflag k u off v).fog = s.fog ∧ (s.unflag k u off v).pcx = s.pcx ∧
    (s.unflag k u off v).funcs = s.funcs ∧ (s.unflag k u off v).mgt = s.mgt ∧ (s.unflag k u off v).otp = s.otp ∧
    (s.unflag k u off v).sec = s.sec ∧ (s.unflag k u off v).pwr = s.pwr ∧ (s.unflag k u off v).boot = s.boot ∧
    (s.unflag k u off v).jtag = s.jtag ∧ (s.unflag k u off v).straps = s.straps ∧
    (s.unflag k u off v).timers = s.timers ∧ (s.unflag k u off v).rr = s.rr ∧ (s.unflag k u off v).out = s.out ∧
    (s.unflag k u off v).free = s.free ∧ (s.unflag k u off v).pending = s.pending :=
  by and_intros <;> rfl

@[simp] theorem State.emit_frame (s : State) (o : Out) :
    (s.emit o).mem = s.mem ∧ (s.emit o).poison = s.poison ∧ (s.emit o).flash = s.flash ∧
    (s.emit o).blocks = s.blocks ∧ (s.emit o).img = s.img ∧ (s.emit o).ctxs = s.ctxs ∧ (s.emit o).ques = s.ques ∧
    (s.emit o).rels = s.rels ∧ (s.emit o).tiles = s.tiles ∧ (s.emit o).mxes = s.mxes ∧ (s.emit o).vxes = s.vxes ∧
    (s.emit o).stes = s.stes ∧ (s.emit o).chains = s.chains ∧ (s.emit o).stks = s.stks ∧
    (s.emit o).tlbs = s.tlbs ∧ (s.emit o).nmes = s.nmes ∧ (s.emit o).kvfs = s.kvfs ∧ (s.emit o).parts = s.parts ∧
    (s.emit o).sess = s.sess ∧ (s.emit o).rings = s.rings ∧ (s.emit o).bars = s.bars ∧ (s.emit o).links = s.links ∧
    (s.emit o).lgs = s.lgs ∧ (s.emit o).board = s.board ∧ (s.emit o).cles = s.cles ∧ (s.emit o).pairs = s.pairs ∧
    (s.emit o).tals = s.tals ∧ (s.emit o).ldgs = s.ldgs ∧ (s.emit o).wchs = s.wchs ∧ (s.emit o).chans = s.chans ∧
    (s.emit o).cycles = s.cycles ∧ (s.emit o).fog = s.fog ∧ (s.emit o).pcx = s.pcx ∧ (s.emit o).funcs = s.funcs ∧
    (s.emit o).mgt = s.mgt ∧ (s.emit o).otp = s.otp ∧ (s.emit o).sec = s.sec ∧ (s.emit o).pwr = s.pwr ∧
    (s.emit o).boot = s.boot ∧ (s.emit o).jtag = s.jtag ∧ (s.emit o).straps = s.straps ∧
    (s.emit o).timers = s.timers ∧ (s.emit o).rr = s.rr ∧ (s.emit o).free = s.free ∧ (s.emit o).pending = s.pending :=
  by and_intros <;> rfl

@[simp] theorem State.emit_out (s : State) (o : Out) : (s.emit o).out = s.out ++ [o] := rfl

@[simp] theorem State.stopTimer_frame (s : State) (i : TimerId) :
    (s.stopTimer i).mem = s.mem ∧ (s.stopTimer i).poison = s.poison ∧ (s.stopTimer i).flash = s.flash ∧
    (s.stopTimer i).blocks = s.blocks ∧ (s.stopTimer i).img = s.img ∧ (s.stopTimer i).ctxs = s.ctxs ∧
    (s.stopTimer i).ques = s.ques ∧ (s.stopTimer i).rels = s.rels ∧ (s.stopTimer i).tiles = s.tiles ∧
    (s.stopTimer i).mxes = s.mxes ∧ (s.stopTimer i).vxes = s.vxes ∧ (s.stopTimer i).stes = s.stes ∧
    (s.stopTimer i).chains = s.chains ∧ (s.stopTimer i).stks = s.stks ∧ (s.stopTimer i).tlbs = s.tlbs ∧
    (s.stopTimer i).nmes = s.nmes ∧ (s.stopTimer i).kvfs = s.kvfs ∧ (s.stopTimer i).parts = s.parts ∧
    (s.stopTimer i).sess = s.sess ∧ (s.stopTimer i).rings = s.rings ∧ (s.stopTimer i).bars = s.bars ∧
    (s.stopTimer i).links = s.links ∧ (s.stopTimer i).lgs = s.lgs ∧ (s.stopTimer i).board = s.board ∧
    (s.stopTimer i).cles = s.cles ∧ (s.stopTimer i).pairs = s.pairs ∧ (s.stopTimer i).tals = s.tals ∧
    (s.stopTimer i).ldgs = s.ldgs ∧ (s.stopTimer i).wchs = s.wchs ∧ (s.stopTimer i).chans = s.chans ∧
    (s.stopTimer i).cycles = s.cycles ∧ (s.stopTimer i).fog = s.fog ∧ (s.stopTimer i).pcx = s.pcx ∧
    (s.stopTimer i).funcs = s.funcs ∧ (s.stopTimer i).mgt = s.mgt ∧ (s.stopTimer i).otp = s.otp ∧
    (s.stopTimer i).sec = s.sec ∧ (s.stopTimer i).pwr = s.pwr ∧ (s.stopTimer i).boot = s.boot ∧
    (s.stopTimer i).jtag = s.jtag ∧ (s.stopTimer i).straps = s.straps ∧ (s.stopTimer i).rr = s.rr ∧
    (s.stopTimer i).out = s.out ∧ (s.stopTimer i).free = s.free ∧ (s.stopTimer i).pending = s.pending :=
  by and_intros <;> rfl

@[simp] theorem State.startTimer_frame (s : State) (i : TimerId) (l : Island) (n : Nat) :
    (s.startTimer i l n).mem = s.mem ∧ (s.startTimer i l n).poison = s.poison ∧
    (s.startTimer i l n).flash = s.flash ∧ (s.startTimer i l n).blocks = s.blocks ∧
    (s.startTimer i l n).img = s.img ∧ (s.startTimer i l n).ctxs = s.ctxs ∧ (s.startTimer i l n).ques = s.ques ∧
    (s.startTimer i l n).rels = s.rels ∧ (s.startTimer i l n).tiles = s.tiles ∧ (s.startTimer i l n).mxes = s.mxes ∧
    (s.startTimer i l n).vxes = s.vxes ∧ (s.startTimer i l n).stes = s.stes ∧
    (s.startTimer i l n).chains = s.chains ∧ (s.startTimer i l n).stks = s.stks ∧
    (s.startTimer i l n).tlbs = s.tlbs ∧ (s.startTimer i l n).nmes = s.nmes ∧ (s.startTimer i l n).kvfs = s.kvfs ∧
    (s.startTimer i l n).parts = s.parts ∧ (s.startTimer i l n).sess = s.sess ∧
    (s.startTimer i l n).rings = s.rings ∧ (s.startTimer i l n).bars = s.bars ∧
    (s.startTimer i l n).links = s.links ∧ (s.startTimer i l n).lgs = s.lgs ∧ (s.startTimer i l n).board = s.board ∧
    (s.startTimer i l n).cles = s.cles ∧ (s.startTimer i l n).pairs = s.pairs ∧ (s.startTimer i l n).tals = s.tals ∧
    (s.startTimer i l n).ldgs = s.ldgs ∧ (s.startTimer i l n).wchs = s.wchs ∧ (s.startTimer i l n).chans = s.chans ∧
    (s.startTimer i l n).cycles = s.cycles ∧ (s.startTimer i l n).fog = s.fog ∧ (s.startTimer i l n).pcx = s.pcx ∧
    (s.startTimer i l n).funcs = s.funcs ∧ (s.startTimer i l n).mgt = s.mgt ∧ (s.startTimer i l n).otp = s.otp ∧
    (s.startTimer i l n).sec = s.sec ∧ (s.startTimer i l n).pwr = s.pwr ∧ (s.startTimer i l n).boot = s.boot ∧
    (s.startTimer i l n).jtag = s.jtag ∧ (s.startTimer i l n).straps = s.straps ∧ (s.startTimer i l n).rr = s.rr ∧
    (s.startTimer i l n).out = s.out ∧ (s.startTimer i l n).free = s.free ∧
    (s.startTimer i l n).pending = s.pending :=
  by and_intros <;> rfl

@[simp] theorem State.draw_frame (s : State) (w : Nat) :
    (s.draw w).2.mem = s.mem ∧ (s.draw w).2.poison = s.poison ∧ (s.draw w).2.flash = s.flash ∧
    (s.draw w).2.blocks = s.blocks ∧ (s.draw w).2.img = s.img ∧ (s.draw w).2.ctxs = s.ctxs ∧
    (s.draw w).2.ques = s.ques ∧ (s.draw w).2.rels = s.rels ∧ (s.draw w).2.tiles = s.tiles ∧
    (s.draw w).2.mxes = s.mxes ∧ (s.draw w).2.vxes = s.vxes ∧ (s.draw w).2.stes = s.stes ∧
    (s.draw w).2.chains = s.chains ∧ (s.draw w).2.stks = s.stks ∧ (s.draw w).2.tlbs = s.tlbs ∧
    (s.draw w).2.nmes = s.nmes ∧ (s.draw w).2.kvfs = s.kvfs ∧ (s.draw w).2.parts = s.parts ∧
    (s.draw w).2.sess = s.sess ∧ (s.draw w).2.rings = s.rings ∧ (s.draw w).2.bars = s.bars ∧
    (s.draw w).2.links = s.links ∧ (s.draw w).2.lgs = s.lgs ∧ (s.draw w).2.board = s.board ∧
    (s.draw w).2.cles = s.cles ∧ (s.draw w).2.pairs = s.pairs ∧ (s.draw w).2.tals = s.tals ∧
    (s.draw w).2.ldgs = s.ldgs ∧ (s.draw w).2.wchs = s.wchs ∧ (s.draw w).2.chans = s.chans ∧
    (s.draw w).2.cycles = s.cycles ∧ (s.draw w).2.fog = s.fog ∧ (s.draw w).2.pcx = s.pcx ∧
    (s.draw w).2.funcs = s.funcs ∧ (s.draw w).2.mgt = s.mgt ∧ (s.draw w).2.otp = s.otp ∧ (s.draw w).2.sec = s.sec ∧
    (s.draw w).2.pwr = s.pwr ∧ (s.draw w).2.boot = s.boot ∧ (s.draw w).2.jtag = s.jtag ∧
    (s.draw w).2.straps = s.straps ∧ (s.draw w).2.timers = s.timers ∧ (s.draw w).2.rr = s.rr ∧
    (s.draw w).2.out = s.out ∧ (s.draw w).2.pending = s.pending :=
  by and_intros <;> rfl

@[simp] theorem State.drawNat_frame (s : State)  :
    s.drawNat.2.mem = s.mem ∧ s.drawNat.2.poison = s.poison ∧ s.drawNat.2.flash = s.flash ∧
    s.drawNat.2.blocks = s.blocks ∧ s.drawNat.2.img = s.img ∧ s.drawNat.2.ctxs = s.ctxs ∧ s.drawNat.2.ques = s.ques ∧
    s.drawNat.2.rels = s.rels ∧ s.drawNat.2.tiles = s.tiles ∧ s.drawNat.2.mxes = s.mxes ∧ s.drawNat.2.vxes = s.vxes ∧
    s.drawNat.2.stes = s.stes ∧ s.drawNat.2.chains = s.chains ∧ s.drawNat.2.stks = s.stks ∧
    s.drawNat.2.tlbs = s.tlbs ∧ s.drawNat.2.nmes = s.nmes ∧ s.drawNat.2.kvfs = s.kvfs ∧ s.drawNat.2.parts = s.parts ∧
    s.drawNat.2.sess = s.sess ∧ s.drawNat.2.rings = s.rings ∧ s.drawNat.2.bars = s.bars ∧
    s.drawNat.2.links = s.links ∧ s.drawNat.2.lgs = s.lgs ∧ s.drawNat.2.board = s.board ∧ s.drawNat.2.cles = s.cles ∧
    s.drawNat.2.pairs = s.pairs ∧ s.drawNat.2.tals = s.tals ∧ s.drawNat.2.ldgs = s.ldgs ∧ s.drawNat.2.wchs = s.wchs ∧
    s.drawNat.2.chans = s.chans ∧ s.drawNat.2.cycles = s.cycles ∧ s.drawNat.2.fog = s.fog ∧ s.drawNat.2.pcx = s.pcx ∧
    s.drawNat.2.funcs = s.funcs ∧ s.drawNat.2.mgt = s.mgt ∧ s.drawNat.2.otp = s.otp ∧ s.drawNat.2.sec = s.sec ∧
    s.drawNat.2.pwr = s.pwr ∧ s.drawNat.2.boot = s.boot ∧ s.drawNat.2.jtag = s.jtag ∧ s.drawNat.2.straps = s.straps ∧
    s.drawNat.2.timers = s.timers ∧ s.drawNat.2.rr = s.rr ∧ s.drawNat.2.out = s.out ∧
    s.drawNat.2.pending = s.pending :=
  by and_intros <;> rfl

@[simp] theorem State.bump_frame (s : State)  :
    s.bump.mem = s.mem ∧ s.bump.poison = s.poison ∧ s.bump.flash = s.flash ∧ s.bump.blocks = s.blocks ∧
    s.bump.img = s.img ∧ s.bump.ctxs = s.ctxs ∧ s.bump.ques = s.ques ∧ s.bump.rels = s.rels ∧
    s.bump.tiles = s.tiles ∧ s.bump.mxes = s.mxes ∧ s.bump.vxes = s.vxes ∧ s.bump.stes = s.stes ∧
    s.bump.chains = s.chains ∧ s.bump.stks = s.stks ∧ s.bump.tlbs = s.tlbs ∧ s.bump.nmes = s.nmes ∧
    s.bump.kvfs = s.kvfs ∧ s.bump.parts = s.parts ∧ s.bump.sess = s.sess ∧ s.bump.rings = s.rings ∧
    s.bump.bars = s.bars ∧ s.bump.links = s.links ∧ s.bump.lgs = s.lgs ∧ s.bump.board = s.board ∧
    s.bump.cles = s.cles ∧ s.bump.pairs = s.pairs ∧ s.bump.tals = s.tals ∧ s.bump.ldgs = s.ldgs ∧
    s.bump.wchs = s.wchs ∧ s.bump.chans = s.chans ∧ s.bump.cycles = s.cycles ∧ s.bump.fog = s.fog ∧
    s.bump.pcx = s.pcx ∧ s.bump.funcs = s.funcs ∧ s.bump.mgt = s.mgt ∧ s.bump.otp = s.otp ∧ s.bump.sec = s.sec ∧
    s.bump.pwr = s.pwr ∧ s.bump.boot = s.boot ∧ s.bump.jtag = s.jtag ∧ s.bump.straps = s.straps ∧
    s.bump.timers = s.timers ∧ s.bump.rr = s.rr ∧ s.bump.out = s.out ∧ s.bump.pending = s.pending :=
  by and_intros <;> rfl

end Sys2Proof.Machine
end

