-- ==== Sys2Proof/Laws/Frame.lean ====
section
/-!
SUPPORT. What every operation of the model may change: for each operation that answers a state, one lemma says that a
view `π` of the state that ignores the fields the operation writes is unchanged by it. `π` is any function of the
state: a field (`State.otp`), several fields, or all fields but some (`State.except`).
-/
namespace Sys2Proof.Machine

set_option maxRecDepth 4000
set_option Elab.async false

/-- A view of the state, kept folded so that simp rewrites under it. -/
def see {α : Type} (π : State → α) (s : State) : α := π s

theorem see_eq {α : Type} (π : State → α) (s : State) : see π s = π s := rfl

/-- The view ignores a field. -/
def Ign {α : Type} (π : State → α) : Fld → Prop
  | .mem => ∀ s x, π { s with mem := x } = π s
  | .poison => ∀ s x, π { s with poison := x } = π s
  | .flash => ∀ s x, π { s with flash := x } = π s
  | .blocks => ∀ s x, π { s with blocks := x } = π s
  | .img => ∀ s x, π { s with img := x } = π s
  | .ctxs => ∀ s x, π { s with ctxs := x } = π s
  | .ques => ∀ s x, π { s with ques := x } = π s
  | .rels => ∀ s x, π { s with rels := x } = π s
  | .tiles => ∀ s x, π { s with tiles := x } = π s
  | .mxes => ∀ s x, π { s with mxes := x } = π s
  | .vxes => ∀ s x, π { s with vxes := x } = π s
  | .stes => ∀ s x, π { s with stes := x } = π s
  | .chains => ∀ s x, π { s with chains := x } = π s
  | .stks => ∀ s x, π { s with stks := x } = π s
  | .tlbs => ∀ s x, π { s with tlbs := x } = π s
  | .nmes => ∀ s x, π { s with nmes := x } = π s
  | .kvfs => ∀ s x, π { s with kvfs := x } = π s
  | .parts => ∀ s x, π { s with parts := x } = π s
  | .sess => ∀ s x, π { s with sess := x } = π s
  | .rings => ∀ s x, π { s with rings := x } = π s
  | .bars => ∀ s x, π { s with bars := x } = π s
  | .links => ∀ s x, π { s with links := x } = π s
  | .lgs => ∀ s x, π { s with lgs := x } = π s
  | .board => ∀ s x, π { s with board := x } = π s
  | .cles => ∀ s x, π { s with cles := x } = π s
  | .pairs => ∀ s x, π { s with pairs := x } = π s
  | .tals => ∀ s x, π { s with tals := x } = π s
  | .ldgs => ∀ s x, π { s with ldgs := x } = π s
  | .wchs => ∀ s x, π { s with wchs := x } = π s
  | .chans => ∀ s x, π { s with chans := x } = π s
  | .cycles => ∀ s x, π { s with cycles := x } = π s
  | .fog => ∀ s x, π { s with fog := x } = π s
  | .pcx => ∀ s x, π { s with pcx := x } = π s
  | .funcs => ∀ s x, π { s with funcs := x } = π s
  | .mgt => ∀ s x, π { s with mgt := x } = π s
  | .otp => ∀ s x, π { s with otp := x } = π s
  | .sec => ∀ s x, π { s with sec := x } = π s
  | .pwr => ∀ s x, π { s with pwr := x } = π s
  | .boot => ∀ s x, π { s with boot := x } = π s
  | .jtag => ∀ s x, π { s with jtag := x } = π s
  | .straps => ∀ s x, π { s with straps := x } = π s
  | .timers => ∀ s x, π { s with timers := x } = π s
  | .rr => ∀ s x, π { s with rr := x } = π s
  | .out => ∀ s x, π { s with out := x } = π s
  | .free => ∀ s x, π { s with free := x } = π s
  | .pending => ∀ s x, π { s with pending := x } = π s

/-- The view of all fields but those listed ignores each of them. -/
@[simp] theorem ign_except (W : List Fld) (f : Fld) (h : f ∈ W := by simp) : Ign (State.except W) f := by
  cases f <;> intro s x <;> simp only [State.except, h, if_true]

variable {α : Type} {π : State → α}

@[simp ↓] theorem see_poison (h_poison : Ign π .poison) (s : State) (x_poison) :
    see π { s with poison := x_poison } = see π s :=
  h_poison s x_poison

@[simp ↓] theorem see_flash (h_flash : Ign π .flash) (s : State) (x_flash) :
    see π { s with flash := x_flash } = see π s :=
  h_flash s x_flash

@[simp ↓] theorem see_blocks (h_blocks : Ign π .blocks) (s : State) (x_blocks) :
    see π { s with blocks := x_blocks } = see π s :=
  h_blocks s x_blocks

@[simp ↓] theorem see_img (h_img : Ign π .img) (s : State) (x_img) :
    see π { s with img := x_img } = see π s :=
  h_img s x_img

@[simp ↓] theorem see_ctxs (h_ctxs : Ign π .ctxs) (s : State) (x_ctxs) :
    see π { s with ctxs := x_ctxs } = see π s :=
  h_ctxs s x_ctxs

@[simp ↓] theorem see_ques (h_ques : Ign π .ques) (s : State) (x_ques) :
    see π { s with ques := x_ques } = see π s :=
  h_ques s x_ques

@[simp ↓] theorem see_rels (h_rels : Ign π .rels) (s : State) (x_rels) :
    see π { s with rels := x_rels } = see π s :=
  h_rels s x_rels

@[simp ↓] theorem see_tiles (h_tiles : Ign π .tiles) (s : State) (x_tiles) :
    see π { s with tiles := x_tiles } = see π s :=
  h_tiles s x_tiles

@[simp ↓] theorem see_mxes (h_mxes : Ign π .mxes) (s : State) (x_mxes) :
    see π { s with mxes := x_mxes } = see π s :=
  h_mxes s x_mxes

@[simp ↓] theorem see_vxes (h_vxes : Ign π .vxes) (s : State) (x_vxes) :
    see π { s with vxes := x_vxes } = see π s :=
  h_vxes s x_vxes

@[simp ↓] theorem see_stes (h_stes : Ign π .stes) (s : State) (x_stes) :
    see π { s with stes := x_stes } = see π s :=
  h_stes s x_stes

@[simp ↓] theorem see_chains (h_chains : Ign π .chains) (s : State) (x_chains) :
    see π { s with chains := x_chains } = see π s :=
  h_chains s x_chains

@[simp ↓] theorem see_stks (h_stks : Ign π .stks) (s : State) (x_stks) :
    see π { s with stks := x_stks } = see π s :=
  h_stks s x_stks

@[simp ↓] theorem see_tlbs (h_tlbs : Ign π .tlbs) (s : State) (x_tlbs) :
    see π { s with tlbs := x_tlbs } = see π s :=
  h_tlbs s x_tlbs

@[simp ↓] theorem see_nmes (h_nmes : Ign π .nmes) (s : State) (x_nmes) :
    see π { s with nmes := x_nmes } = see π s :=
  h_nmes s x_nmes

@[simp ↓] theorem see_kvfs (h_kvfs : Ign π .kvfs) (s : State) (x_kvfs) :
    see π { s with kvfs := x_kvfs } = see π s :=
  h_kvfs s x_kvfs

@[simp ↓] theorem see_parts (h_parts : Ign π .parts) (s : State) (x_parts) :
    see π { s with parts := x_parts } = see π s :=
  h_parts s x_parts

@[simp ↓] theorem see_sess (h_sess : Ign π .sess) (s : State) (x_sess) :
    see π { s with sess := x_sess } = see π s :=
  h_sess s x_sess

@[simp ↓] theorem see_rings (h_rings : Ign π .rings) (s : State) (x_rings) :
    see π { s with rings := x_rings } = see π s :=
  h_rings s x_rings

@[simp ↓] theorem see_bars (h_bars : Ign π .bars) (s : State) (x_bars) :
    see π { s with bars := x_bars } = see π s :=
  h_bars s x_bars

@[simp ↓] theorem see_links (h_links : Ign π .links) (s : State) (x_links) :
    see π { s with links := x_links } = see π s :=
  h_links s x_links

@[simp ↓] theorem see_lgs (h_lgs : Ign π .lgs) (s : State) (x_lgs) :
    see π { s with lgs := x_lgs } = see π s :=
  h_lgs s x_lgs

@[simp ↓] theorem see_board (h_board : Ign π .board) (s : State) (x_board) :
    see π { s with board := x_board } = see π s :=
  h_board s x_board

@[simp ↓] theorem see_cles (h_cles : Ign π .cles) (s : State) (x_cles) :
    see π { s with cles := x_cles } = see π s :=
  h_cles s x_cles

@[simp ↓] theorem see_pairs (h_pairs : Ign π .pairs) (s : State) (x_pairs) :
    see π { s with pairs := x_pairs } = see π s :=
  h_pairs s x_pairs

@[simp ↓] theorem see_tals (h_tals : Ign π .tals) (s : State) (x_tals) :
    see π { s with tals := x_tals } = see π s :=
  h_tals s x_tals

@[simp ↓] theorem see_ldgs (h_ldgs : Ign π .ldgs) (s : State) (x_ldgs) :
    see π { s with ldgs := x_ldgs } = see π s :=
  h_ldgs s x_ldgs

@[simp ↓] theorem see_wchs (h_wchs : Ign π .wchs) (s : State) (x_wchs) :
    see π { s with wchs := x_wchs } = see π s :=
  h_wchs s x_wchs

@[simp ↓] theorem see_chans (h_chans : Ign π .chans) (s : State) (x_chans) :
    see π { s with chans := x_chans } = see π s :=
  h_chans s x_chans

@[simp ↓] theorem see_cycles (h_cycles : Ign π .cycles) (s : State) (x_cycles) :
    see π { s with cycles := x_cycles } = see π s :=
  h_cycles s x_cycles

@[simp ↓] theorem see_fog (h_fog : Ign π .fog) (s : State) (x_fog) :
    see π { s with fog := x_fog } = see π s :=
  h_fog s x_fog

@[simp ↓] theorem see_pcx (h_pcx : Ign π .pcx) (s : State) (x_pcx) :
    see π { s with pcx := x_pcx } = see π s :=
  h_pcx s x_pcx

@[simp ↓] theorem see_funcs (h_funcs : Ign π .funcs) (s : State) (x_funcs) :
    see π { s with funcs := x_funcs } = see π s :=
  h_funcs s x_funcs

@[simp ↓] theorem see_mgt (h_mgt : Ign π .mgt) (s : State) (x_mgt) :
    see π { s with mgt := x_mgt } = see π s :=
  h_mgt s x_mgt

@[simp ↓] theorem see_otp (h_otp : Ign π .otp) (s : State) (x_otp) :
    see π { s with otp := x_otp } = see π s :=
  h_otp s x_otp

@[simp ↓] theorem see_sec (h_sec : Ign π .sec) (s : State) (x_sec) :
    see π { s with sec := x_sec } = see π s :=
  h_sec s x_sec

@[simp ↓] theorem see_pwr (h_pwr : Ign π .pwr) (s : State) (x_pwr) :
    see π { s with pwr := x_pwr } = see π s :=
  h_pwr s x_pwr

@[simp ↓] theorem see_jtag (h_jtag : Ign π .jtag) (s : State) (x_jtag) :
    see π { s with jtag := x_jtag } = see π s :=
  h_jtag s x_jtag

@[simp ↓] theorem see_timers (h_timers : Ign π .timers) (s : State) (x_timers) :
    see π { s with timers := x_timers } = see π s :=
  h_timers s x_timers

@[simp ↓] theorem see_rr (h_rr : Ign π .rr) (s : State) (x_rr) :
    see π { s with rr := x_rr } = see π s :=
  h_rr s x_rr

@[simp ↓] theorem see_out (h_out : Ign π .out) (s : State) (x_out) :
    see π { s with out := x_out } = see π s :=
  h_out s x_out

@[simp ↓] theorem see_free (h_free : Ign π .free) (s : State) (x_free) :
    see π { s with free := x_free } = see π s :=
  h_free s x_free

@[simp ↓] theorem see_mem_poison (h_mem : Ign π .mem) (h_poison : Ign π .poison) (s : State) (x_mem x_poison) :
    see π { s with mem := x_mem, poison := x_poison } = see π s :=
  (h_poison { s with mem := x_mem } x_poison).trans (h_mem s x_mem)

@[simp ↓] theorem see_flash_mgt (h_flash : Ign π .flash) (h_mgt : Ign π .mgt) (s : State) (x_flash x_mgt) :
    see π { s with flash := x_flash, mgt := x_mgt } = see π s :=
  (h_mgt { s with flash := x_flash } x_mgt).trans (h_flash s x_flash)

@[simp ↓] theorem see_img_boot (h_img : Ign π .img) (h_boot : Ign π .boot) (s : State) (x_img x_boot) :
    see π { s with img := x_img, boot := x_boot } = see π s :=
  (h_boot { s with img := x_img } x_boot).trans (h_img s x_img)

@[simp ↓] theorem see_rels_pcx (h_rels : Ign π .rels) (h_pcx : Ign π .pcx) (s : State) (x_rels x_pcx) :
    see π { s with rels := x_rels, pcx := x_pcx } = see π s :=
  (h_pcx { s with rels := x_rels } x_pcx).trans (h_rels s x_rels)

@[simp ↓] theorem see_tals_fog (h_tals : Ign π .tals) (h_fog : Ign π .fog) (s : State) (x_tals x_fog) :
    see π { s with tals := x_tals, fog := x_fog } = see π s :=
  (h_fog { s with tals := x_tals } x_fog).trans (h_tals s x_tals)

@[simp ↓] theorem see_pcx_funcs (h_pcx : Ign π .pcx) (h_funcs : Ign π .funcs) (s : State) (x_pcx x_funcs) :
    see π { s with pcx := x_pcx, funcs := x_funcs } = see π s :=
  (h_funcs { s with pcx := x_pcx } x_funcs).trans (h_pcx s x_pcx)

@[simp ↓] theorem see_sec_boot (h_sec : Ign π .sec) (h_boot : Ign π .boot) (s : State) (x_sec x_boot) :
    see π { s with sec := x_sec, boot := x_boot } = see π s :=
  (h_boot { s with sec := x_sec } x_boot).trans (h_sec s x_sec)

@[simp ↓] theorem see_img_sec_boot (h_img : Ign π .img) (h_sec : Ign π .sec) (h_boot : Ign π .boot) (s : State) (x_img x_sec x_boot) :
    see π { s with img := x_img, sec := x_sec, boot := x_boot } = see π s :=
  ((h_boot { s with img := x_img, sec := x_sec } x_boot).trans (h_sec { s with img := x_img } x_sec)).trans (h_img s x_img)

@[simp ↓] theorem see_rels_pcx_timers (h_rels : Ign π .rels) (h_pcx : Ign π .pcx) (h_timers : Ign π .timers) (s : State) (x_rels x_pcx x_timers) :
    see π { s with rels := x_rels, pcx := x_pcx, timers := x_timers } = see π s :=
  ((h_timers { s with rels := x_rels, pcx := x_pcx } x_timers).trans (h_pcx { s with rels := x_rels } x_pcx)).trans (h_rels s x_rels)

@[simp ↓] theorem see_otp_pwr_boot (h_otp : Ign π .otp) (h_pwr : Ign π .pwr) (h_boot : Ign π .boot) (s : State) (x_otp x_pwr x_boot) :
    see π { s with otp := x_otp, pwr := x_pwr, boot := x_boot } = see π s :=
  ((h_boot { s with otp := x_otp, pwr := x_pwr } x_boot).trans (h_pwr { s with otp := x_otp } x_pwr)).trans (h_otp s x_otp)

@[simp ↓] theorem see_img_rels_chans_pcx_pwr_timers (h_img : Ign π .img) (h_rels : Ign π .rels) (h_chans : Ign π .chans) (h_pcx : Ign π .pcx) (h_pwr : Ign π .pwr) (h_timers : Ign π .timers) (s : State) (x_img x_rels x_chans x_pcx x_pwr x_timers) :
    see π { s with img := x_img, rels := x_rels, chans := x_chans, pcx := x_pcx, pwr := x_pwr, timers := x_timers } = see π s :=
  (((((h_timers { s with img := x_img, rels := x_rels, chans := x_chans, pcx := x_pcx, pwr := x_pwr } x_timers).trans (h_pwr { s with img := x_img, rels := x_rels, chans := x_chans, pcx := x_pcx } x_pwr)).trans (h_pcx { s with img := x_img, rels := x_rels, chans := x_chans } x_pcx)).trans (h_chans { s with img := x_img, rels := x_rels } x_chans)).trans (h_rels { s with img := x_img } x_rels)).trans (h_img s x_img)

@[simp ↓] theorem see_most_39 (hW : Ign π .mem ∧ Ign π .poison ∧ Ign π .blocks ∧ Ign π .img ∧ Ign π .ctxs ∧ Ign π .ques ∧ Ign π .rels ∧ Ign π .tiles ∧ Ign π .mxes ∧ Ign π .vxes ∧ Ign π .stes ∧ Ign π .chains ∧ Ign π .stks ∧ Ign π .tlbs ∧ Ign π .nmes ∧ Ign π .kvfs ∧ Ign π .parts ∧ Ign π .sess ∧ Ign π .rings ∧ Ign π .bars ∧ Ign π .links ∧ Ign π .lgs ∧ Ign π .board ∧ Ign π .cles ∧ Ign π .pairs ∧ Ign π .tals ∧ Ign π .ldgs ∧ Ign π .wchs ∧ Ign π .chans ∧ Ign π .cycles ∧ Ign π .fog ∧ Ign π .pcx ∧ Ign π .funcs ∧ Ign π .mgt ∧ Ign π .sec ∧ Ign π .pwr ∧ Ign π .boot ∧ Ign π .timers ∧ Ign π .rr) (s : State)
    (x_mem x_poison x_blocks x_img x_ctxs x_ques x_rels x_tiles x_mxes x_vxes x_stes x_chains x_stks x_tlbs x_nmes x_kvfs x_parts x_sess x_rings x_bars x_links x_lgs x_board x_cles x_pairs x_tals x_ldgs x_wchs x_chans x_cycles x_fog x_pcx x_funcs x_mgt x_sec x_pwr x_boot x_timers x_rr) :
    see π { s with mem := x_mem, poison := x_poison, blocks := x_blocks, img := x_img, ctxs := x_ctxs, ques := x_ques, rels := x_rels, tiles := x_tiles, mxes := x_mxes, vxes := x_vxes, stes := x_stes, chains := x_chains, stks := x_stks, tlbs := x_tlbs, nmes := x_nmes, kvfs := x_kvfs, parts := x_parts, sess := x_sess, rings := x_rings, bars := x_bars, links := x_links, lgs := x_lgs, board := x_board, cles := x_cles, pairs := x_pairs, tals := x_tals, ldgs := x_ldgs, wchs := x_wchs, chans := x_chans, cycles := x_cycles, fog := x_fog, pcx := x_pcx, funcs := x_funcs, mgt := x_mgt, sec := x_sec, pwr := x_pwr, boot := x_boot, timers := x_timers, rr := x_rr } = see π s := by
  obtain ⟨h_mem, h_poison, h_blocks, h_img, h_ctxs, h_ques, h_rels, h_tiles, h_mxes, h_vxes, h_stes, h_chains, h_stks, h_tlbs, h_nmes, h_kvfs, h_parts, h_sess, h_rings, h_bars, h_links, h_lgs, h_board, h_cles, h_pairs, h_tals, h_ldgs, h_wchs, h_chans, h_cycles, h_fog, h_pcx, h_funcs, h_mgt, h_sec, h_pwr, h_boot, h_timers, h_rr⟩ := hW
  refine (h_rr { s with mem := x_mem, poison := x_poison, blocks := x_blocks, img := x_img, ctxs := x_ctxs, ques := x_ques, rels := x_rels, tiles := x_tiles, mxes := x_mxes, vxes := x_vxes, stes := x_stes, chains := x_chains, stks := x_stks, tlbs := x_tlbs, nmes := x_nmes, kvfs := x_kvfs, parts := x_parts, sess := x_sess, rings := x_rings, bars := x_bars, links := x_links, lgs := x_lgs, board := x_board, cles := x_cles, pairs := x_pairs, tals := x_tals, ldgs := x_ldgs, wchs := x_wchs, chans := x_chans, cycles := x_cycles, fog := x_fog, pcx := x_pcx, funcs := x_funcs, mgt := x_mgt, sec := x_sec, pwr := x_pwr, boot := x_boot, timers := x_timers } x_rr).trans ?_
  refine (h_timers { s with mem := x_mem, poison := x_poison, blocks := x_blocks, img := x_img, ctxs := x_ctxs, ques := x_ques, rels := x_rels, tiles := x_tiles, mxes := x_mxes, vxes := x_vxes, stes := x_stes, chains := x_chains, stks := x_stks, tlbs := x_tlbs, nmes := x_nmes, kvfs := x_kvfs, parts := x_parts, sess := x_sess, rings := x_rings, bars := x_bars, links := x_links, lgs := x_lgs, board := x_board, cles := x_cles, pairs := x_pairs, tals := x_tals, ldgs := x_ldgs, wchs := x_wchs, chans := x_chans, cycles := x_cycles, fog := x_fog, pcx := x_pcx, funcs := x_funcs, mgt := x_mgt, sec := x_sec, pwr := x_pwr, boot := x_boot } x_timers).trans ?_
  refine (h_boot { s with mem := x_mem, poison := x_poison, blocks := x_blocks, img := x_img, ctxs := x_ctxs, ques := x_ques, rels := x_rels, tiles := x_tiles, mxes := x_mxes, vxes := x_vxes, stes := x_stes, chains := x_chains, stks := x_stks, tlbs := x_tlbs, nmes := x_nmes, kvfs := x_kvfs, parts := x_parts, sess := x_sess, rings := x_rings, bars := x_bars, links := x_links, lgs := x_lgs, board := x_board, cles := x_cles, pairs := x_pairs, tals := x_tals, ldgs := x_ldgs, wchs := x_wchs, chans := x_chans, cycles := x_cycles, fog := x_fog, pcx := x_pcx, funcs := x_funcs, mgt := x_mgt, sec := x_sec, pwr := x_pwr } x_boot).trans ?_
  refine (h_pwr { s with mem := x_mem, poison := x_poison, blocks := x_blocks, img := x_img, ctxs := x_ctxs, ques := x_ques, rels := x_rels, tiles := x_tiles, mxes := x_mxes, vxes := x_vxes, stes := x_stes, chains := x_chains, stks := x_stks, tlbs := x_tlbs, nmes := x_nmes, kvfs := x_kvfs, parts := x_parts, sess := x_sess, rings := x_rings, bars := x_bars, links := x_links, lgs := x_lgs, board := x_board, cles := x_cles, pairs := x_pairs, tals := x_tals, ldgs := x_ldgs, wchs := x_wchs, chans := x_chans, cycles := x_cycles, fog := x_fog, pcx := x_pcx, funcs := x_funcs, mgt := x_mgt, sec := x_sec } x_pwr).trans ?_
  refine (h_sec { s with mem := x_mem, poison := x_poison, blocks := x_blocks, img := x_img, ctxs := x_ctxs, ques := x_ques, rels := x_rels, tiles := x_tiles, mxes := x_mxes, vxes := x_vxes, stes := x_stes, chains := x_chains, stks := x_stks, tlbs := x_tlbs, nmes := x_nmes, kvfs := x_kvfs, parts := x_parts, sess := x_sess, rings := x_rings, bars := x_bars, links := x_links, lgs := x_lgs, board := x_board, cles := x_cles, pairs := x_pairs, tals := x_tals, ldgs := x_ldgs, wchs := x_wchs, chans := x_chans, cycles := x_cycles, fog := x_fog, pcx := x_pcx, funcs := x_funcs, mgt := x_mgt } x_sec).trans ?_
  refine (h_mgt { s with mem := x_mem, poison := x_poison, blocks := x_blocks, img := x_img, ctxs := x_ctxs, ques := x_ques, rels := x_rels, tiles := x_tiles, mxes := x_mxes, vxes := x_vxes, stes := x_stes, chains := x_chains, stks := x_stks, tlbs := x_tlbs, nmes := x_nmes, kvfs := x_kvfs, parts := x_parts, sess := x_sess, rings := x_rings, bars := x_bars, links := x_links, lgs := x_lgs, board := x_board, cles := x_cles, pairs := x_pairs, tals := x_tals, ldgs := x_ldgs, wchs := x_wchs, chans := x_chans, cycles := x_cycles, fog := x_fog, pcx := x_pcx, funcs := x_funcs } x_mgt).trans ?_
  refine (h_funcs { s with mem := x_mem, poison := x_poison, blocks := x_blocks, img := x_img, ctxs := x_ctxs, ques := x_ques, rels := x_rels, tiles := x_tiles, mxes := x_mxes, vxes := x_vxes, stes := x_stes, chains := x_chains, stks := x_stks, tlbs := x_tlbs, nmes := x_nmes, kvfs := x_kvfs, parts := x_parts, sess := x_sess, rings := x_rings, bars := x_bars, links := x_links, lgs := x_lgs, board := x_board, cles := x_cles, pairs := x_pairs, tals := x_tals, ldgs := x_ldgs, wchs := x_wchs, chans := x_chans, cycles := x_cycles, fog := x_fog, pcx := x_pcx } x_funcs).trans ?_
  refine (h_pcx { s with mem := x_mem, poison := x_poison, blocks := x_blocks, img := x_img, ctxs := x_ctxs, ques := x_ques, rels := x_rels, tiles := x_tiles, mxes := x_mxes, vxes := x_vxes, stes := x_stes, chains := x_chains, stks := x_stks, tlbs := x_tlbs, nmes := x_nmes, kvfs := x_kvfs, parts := x_parts, sess := x_sess, rings := x_rings, bars := x_bars, links := x_links, lgs := x_lgs, board := x_board, cles := x_cles, pairs := x_pairs, tals := x_tals, ldgs := x_ldgs, wchs := x_wchs, chans := x_chans, cycles := x_cycles, fog := x_fog } x_pcx).trans ?_
  refine (h_fog { s with mem := x_mem, poison := x_poison, blocks := x_blocks, img := x_img, ctxs := x_ctxs, ques := x_ques, rels := x_rels, tiles := x_tiles, mxes := x_mxes, vxes := x_vxes, stes := x_stes, chains := x_chains, stks := x_stks, tlbs := x_tlbs, nmes := x_nmes, kvfs := x_kvfs, parts := x_parts, sess := x_sess, rings := x_rings, bars := x_bars, links := x_links, lgs := x_lgs, board := x_board, cles := x_cles, pairs := x_pairs, tals := x_tals, ldgs := x_ldgs, wchs := x_wchs, chans := x_chans, cycles := x_cycles } x_fog).trans ?_
  refine (h_cycles { s with mem := x_mem, poison := x_poison, blocks := x_blocks, img := x_img, ctxs := x_ctxs, ques := x_ques, rels := x_rels, tiles := x_tiles, mxes := x_mxes, vxes := x_vxes, stes := x_stes, chains := x_chains, stks := x_stks, tlbs := x_tlbs, nmes := x_nmes, kvfs := x_kvfs, parts := x_parts, sess := x_sess, rings := x_rings, bars := x_bars, links := x_links, lgs := x_lgs, board := x_board, cles := x_cles, pairs := x_pairs, tals := x_tals, ldgs := x_ldgs, wchs := x_wchs, chans := x_chans } x_cycles).trans ?_
  refine (h_chans { s with mem := x_mem, poison := x_poison, blocks := x_blocks, img := x_img, ctxs := x_ctxs, ques := x_ques, rels := x_rels, tiles := x_tiles, mxes := x_mxes, vxes := x_vxes, stes := x_stes, chains := x_chains, stks := x_stks, tlbs := x_tlbs, nmes := x_nmes, kvfs := x_kvfs, parts := x_parts, sess := x_sess, rings := x_rings, bars := x_bars, links := x_links, lgs := x_lgs, board := x_board, cles := x_cles, pairs := x_pairs, tals := x_tals, ldgs := x_ldgs, wchs := x_wchs } x_chans).trans ?_
  refine (h_wchs { s with mem := x_mem, poison := x_poison, blocks := x_blocks, img := x_img, ctxs := x_ctxs, ques := x_ques, rels := x_rels, tiles := x_tiles, mxes := x_mxes, vxes := x_vxes, stes := x_stes, chains := x_chains, stks := x_stks, tlbs := x_tlbs, nmes := x_nmes, kvfs := x_kvfs, parts := x_parts, sess := x_sess, rings := x_rings, bars := x_bars, links := x_links, lgs := x_lgs, board := x_board, cles := x_cles, pairs := x_pairs, tals := x_tals, ldgs := x_ldgs } x_wchs).trans ?_
  refine (h_ldgs { s with mem := x_mem, poison := x_poison, blocks := x_blocks, img := x_img, ctxs := x_ctxs, ques := x_ques, rels := x_rels, tiles := x_tiles, mxes := x_mxes, vxes := x_vxes, stes := x_stes, chains := x_chains, stks := x_stks, tlbs := x_tlbs, nmes := x_nmes, kvfs := x_kvfs, parts := x_parts, sess := x_sess, rings := x_rings, bars := x_bars, links := x_links, lgs := x_lgs, board := x_board, cles := x_cles, pairs := x_pairs, tals := x_tals } x_ldgs).trans ?_
  refine (h_tals { s with mem := x_mem, poison := x_poison, blocks := x_blocks, img := x_img, ctxs := x_ctxs, ques := x_ques, rels := x_rels, tiles := x_tiles, mxes := x_mxes, vxes := x_vxes, stes := x_stes, chains := x_chains, stks := x_stks, tlbs := x_tlbs, nmes := x_nmes, kvfs := x_kvfs, parts := x_parts, sess := x_sess, rings := x_rings, bars := x_bars, links := x_links, lgs := x_lgs, board := x_board, cles := x_cles, pairs := x_pairs } x_tals).trans ?_
  refine (h_pairs { s with mem := x_mem, poison := x_poison, blocks := x_blocks, img := x_img, ctxs := x_ctxs, ques := x_ques, rels := x_rels, tiles := x_tiles, mxes := x_mxes, vxes := x_vxes, stes := x_stes, chains := x_chains, stks := x_stks, tlbs := x_tlbs, nmes := x_nmes, kvfs := x_kvfs, parts := x_parts, sess := x_sess, rings := x_rings, bars := x_bars, links := x_links, lgs := x_lgs, board := x_board, cles := x_cles } x_pairs).trans ?_
  refine (h_cles { s with mem := x_mem, poison := x_poison, blocks := x_blocks, img := x_img, ctxs := x_ctxs, ques := x_ques, rels := x_rels, tiles := x_tiles, mxes := x_mxes, vxes := x_vxes, stes := x_stes, chains := x_chains, stks := x_stks, tlbs := x_tlbs, nmes := x_nmes, kvfs := x_kvfs, parts := x_parts, sess := x_sess, rings := x_rings, bars := x_bars, links := x_links, lgs := x_lgs, board := x_board } x_cles).trans ?_
  refine (h_board { s with mem := x_mem, poison := x_poison, blocks := x_blocks, img := x_img, ctxs := x_ctxs, ques := x_ques, rels := x_rels, tiles := x_tiles, mxes := x_mxes, vxes := x_vxes, stes := x_stes, chains := x_chains, stks := x_stks, tlbs := x_tlbs, nmes := x_nmes, kvfs := x_kvfs, parts := x_parts, sess := x_sess, rings := x_rings, bars := x_bars, links := x_links, lgs := x_lgs } x_board).trans ?_
  refine (h_lgs { s with mem := x_mem, poison := x_poison, blocks := x_blocks, img := x_img, ctxs := x_ctxs, ques := x_ques, rels := x_rels, tiles := x_tiles, mxes := x_mxes, vxes := x_vxes, stes := x_stes, chains := x_chains, stks := x_stks, tlbs := x_tlbs, nmes := x_nmes, kvfs := x_kvfs, parts := x_parts, sess := x_sess, rings := x_rings, bars := x_bars, links := x_links } x_lgs).trans ?_
  refine (h_links { s with mem := x_mem, poison := x_poison, blocks := x_blocks, img := x_img, ctxs := x_ctxs, ques := x_ques, rels := x_rels, tiles := x_tiles, mxes := x_mxes, vxes := x_vxes, stes := x_stes, chains := x_chains, stks := x_stks, tlbs := x_tlbs, nmes := x_nmes, kvfs := x_kvfs, parts := x_parts, sess := x_sess, rings := x_rings, bars := x_bars } x_links).trans ?_
  refine (h_bars { s with mem := x_mem, poison := x_poison, blocks := x_blocks, img := x_img, ctxs := x_ctxs, ques := x_ques, rels := x_rels, tiles := x_tiles, mxes := x_mxes, vxes := x_vxes, stes := x_stes, chains := x_chains, stks := x_stks, tlbs := x_tlbs, nmes := x_nmes, kvfs := x_kvfs, parts := x_parts, sess := x_sess, rings := x_rings } x_bars).trans ?_
  refine (h_rings { s with mem := x_mem, poison := x_poison, blocks := x_blocks, img := x_img, ctxs := x_ctxs, ques := x_ques, rels := x_rels, tiles := x_tiles, mxes := x_mxes, vxes := x_vxes, stes := x_stes, chains := x_chains, stks := x_stks, tlbs := x_tlbs, nmes := x_nmes, kvfs := x_kvfs, parts := x_parts, sess := x_sess } x_rings).trans ?_
  refine (h_sess { s with mem := x_mem, poison := x_poison, blocks := x_blocks, img := x_img, ctxs := x_ctxs, ques := x_ques, rels := x_rels, tiles := x_tiles, mxes := x_mxes, vxes := x_vxes, stes := x_stes, chains := x_chains, stks := x_stks, tlbs := x_tlbs, nmes := x_nmes, kvfs := x_kvfs, parts := x_parts } x_sess).trans ?_
  refine (h_parts { s with mem := x_mem, poison := x_poison, blocks := x_blocks, img := x_img, ctxs := x_ctxs, ques := x_ques, rels := x_rels, tiles := x_tiles, mxes := x_mxes, vxes := x_vxes, stes := x_stes, chains := x_chains, stks := x_stks, tlbs := x_tlbs, nmes := x_nmes, kvfs := x_kvfs } x_parts).trans ?_
  refine (h_kvfs { s with mem := x_mem, poison := x_poison, blocks := x_blocks, img := x_img, ctxs := x_ctxs, ques := x_ques, rels := x_rels, tiles := x_tiles, mxes := x_mxes, vxes := x_vxes, stes := x_stes, chains := x_chains, stks := x_stks, tlbs := x_tlbs, nmes := x_nmes } x_kvfs).trans ?_
  refine (h_nmes { s with mem := x_mem, poison := x_poison, blocks := x_blocks, img := x_img, ctxs := x_ctxs, ques := x_ques, rels := x_rels, tiles := x_tiles, mxes := x_mxes, vxes := x_vxes, stes := x_stes, chains := x_chains, stks := x_stks, tlbs := x_tlbs } x_nmes).trans ?_
  refine (h_tlbs { s with mem := x_mem, poison := x_poison, blocks := x_blocks, img := x_img, ctxs := x_ctxs, ques := x_ques, rels := x_rels, tiles := x_tiles, mxes := x_mxes, vxes := x_vxes, stes := x_stes, chains := x_chains, stks := x_stks } x_tlbs).trans ?_
  refine (h_stks { s with mem := x_mem, poison := x_poison, blocks := x_blocks, img := x_img, ctxs := x_ctxs, ques := x_ques, rels := x_rels, tiles := x_tiles, mxes := x_mxes, vxes := x_vxes, stes := x_stes, chains := x_chains } x_stks).trans ?_
  refine (h_chains { s with mem := x_mem, poison := x_poison, blocks := x_blocks, img := x_img, ctxs := x_ctxs, ques := x_ques, rels := x_rels, tiles := x_tiles, mxes := x_mxes, vxes := x_vxes, stes := x_stes } x_chains).trans ?_
  refine (h_stes { s with mem := x_mem, poison := x_poison, blocks := x_blocks, img := x_img, ctxs := x_ctxs, ques := x_ques, rels := x_rels, tiles := x_tiles, mxes := x_mxes, vxes := x_vxes } x_stes).trans ?_
  refine (h_vxes { s with mem := x_mem, poison := x_poison, blocks := x_blocks, img := x_img, ctxs := x_ctxs, ques := x_ques, rels := x_rels, tiles := x_tiles, mxes := x_mxes } x_vxes).trans ?_
  refine (h_mxes { s with mem := x_mem, poison := x_poison, blocks := x_blocks, img := x_img, ctxs := x_ctxs, ques := x_ques, rels := x_rels, tiles := x_tiles } x_mxes).trans ?_
  refine (h_tiles { s with mem := x_mem, poison := x_poison, blocks := x_blocks, img := x_img, ctxs := x_ctxs, ques := x_ques, rels := x_rels } x_tiles).trans ?_
  refine (h_rels { s with mem := x_mem, poison := x_poison, blocks := x_blocks, img := x_img, ctxs := x_ctxs, ques := x_ques } x_rels).trans ?_
  refine (h_ques { s with mem := x_mem, poison := x_poison, blocks := x_blocks, img := x_img, ctxs := x_ctxs } x_ques).trans ?_
  refine (h_ctxs { s with mem := x_mem, poison := x_poison, blocks := x_blocks, img := x_img } x_ctxs).trans ?_
  refine (h_img { s with mem := x_mem, poison := x_poison, blocks := x_blocks } x_img).trans ?_
  refine (h_blocks { s with mem := x_mem, poison := x_poison } x_blocks).trans ?_
  refine (h_poison { s with mem := x_mem } x_poison).trans ?_
  refine (h_mem s x_mem).trans ?_
  rfl

@[simp ↓] theorem see_most_41 (hW : Ign π .mem ∧ Ign π .poison ∧ Ign π .blocks ∧ Ign π .img ∧ Ign π .ctxs ∧ Ign π .ques ∧ Ign π .rels ∧ Ign π .tiles ∧ Ign π .mxes ∧ Ign π .vxes ∧ Ign π .stes ∧ Ign π .chains ∧ Ign π .stks ∧ Ign π .tlbs ∧ Ign π .nmes ∧ Ign π .kvfs ∧ Ign π .parts ∧ Ign π .sess ∧ Ign π .rings ∧ Ign π .bars ∧ Ign π .links ∧ Ign π .lgs ∧ Ign π .board ∧ Ign π .cles ∧ Ign π .pairs ∧ Ign π .tals ∧ Ign π .ldgs ∧ Ign π .wchs ∧ Ign π .chans ∧ Ign π .cycles ∧ Ign π .fog ∧ Ign π .pcx ∧ Ign π .funcs ∧ Ign π .mgt ∧ Ign π .otp ∧ Ign π .sec ∧ Ign π .pwr ∧ Ign π .boot ∧ Ign π .jtag ∧ Ign π .timers ∧ Ign π .rr) (s : State)
    (x_mem x_poison x_blocks x_img x_ctxs x_ques x_rels x_tiles x_mxes x_vxes x_stes x_chains x_stks x_tlbs x_nmes x_kvfs x_parts x_sess x_rings x_bars x_links x_lgs x_board x_cles x_pairs x_tals x_ldgs x_wchs x_chans x_cycles x_fog x_pcx x_funcs x_mgt x_otp x_sec x_pwr x_boot x_jtag x_timers x_rr) :
    see π { s with mem := x_mem, poison := x_poison, blocks := x_blocks, img := x_img, ctxs := x_ctxs, ques := x_ques, rels := x_rels, tiles := x_tiles, mxes := x_mxes, vxes := x_vxes, stes := x_stes, chains := x_chains, stks := x_stks, tlbs := x_tlbs, nmes := x_nmes, kvfs := x_kvfs, parts := x_parts, sess := x_sess, rings := x_rings, bars := x_bars, links := x_links, lgs := x_lgs, board := x_board, cles := x_cles, pairs := x_pairs, tals := x_tals, ldgs := x_ldgs, wchs := x_wchs, chans := x_chans, cycles := x_cycles, fog := x_fog, pcx := x_pcx, funcs := x_funcs, mgt := x_mgt, otp := x_otp, sec := x_sec, pwr := x_pwr, boot := x_boot, jtag := x_jtag, timers := x_timers, rr := x_rr } = see π s := by
  obtain ⟨h_mem, h_poison, h_blocks, h_img, h_ctxs, h_ques, h_rels, h_tiles, h_mxes, h_vxes, h_stes, h_chains, h_stks, h_tlbs, h_nmes, h_kvfs, h_parts, h_sess, h_rings, h_bars, h_links, h_lgs, h_board, h_cles, h_pairs, h_tals, h_ldgs, h_wchs, h_chans, h_cycles, h_fog, h_pcx, h_funcs, h_mgt, h_otp, h_sec, h_pwr, h_boot, h_jtag, h_timers, h_rr⟩ := hW
  refine (h_rr { s with mem := x_mem, poison := x_poison, blocks := x_blocks, img := x_img, ctxs := x_ctxs, ques := x_ques, rels := x_rels, tiles := x_tiles, mxes := x_mxes, vxes := x_vxes, stes := x_stes, chains := x_chains, stks := x_stks, tlbs := x_tlbs, nmes := x_nmes, kvfs := x_kvfs, parts := x_parts, sess := x_sess, rings := x_rings, bars := x_bars, links := x_links, lgs := x_lgs, board := x_board, cles := x_cles, pairs := x_pairs, tals := x_tals, ldgs := x_ldgs, wchs := x_wchs, chans := x_chans, cycles := x_cycles, fog := x_fog, pcx := x_pcx, funcs := x_funcs, mgt := x_mgt, otp := x_otp, sec := x_sec, pwr := x_pwr, boot := x_boot, jtag := x_jtag, timers := x_timers } x_rr).trans ?_
  refine (h_timers { s with mem := x_mem, poison := x_poison, blocks := x_blocks, img := x_img, ctxs := x_ctxs, ques := x_ques, rels := x_rels, tiles := x_tiles, mxes := x_mxes, vxes := x_vxes, stes := x_stes, chains := x_chains, stks := x_stks, tlbs := x_tlbs, nmes := x_nmes, kvfs := x_kvfs, parts := x_parts, sess := x_sess, rings := x_rings, bars := x_bars, links := x_links, lgs := x_lgs, board := x_board, cles := x_cles, pairs := x_pairs, tals := x_tals, ldgs := x_ldgs, wchs := x_wchs, chans := x_chans, cycles := x_cycles, fog := x_fog, pcx := x_pcx, funcs := x_funcs, mgt := x_mgt, otp := x_otp, sec := x_sec, pwr := x_pwr, boot := x_boot, jtag := x_jtag } x_timers).trans ?_
  refine (h_jtag { s with mem := x_mem, poison := x_poison, blocks := x_blocks, img := x_img, ctxs := x_ctxs, ques := x_ques, rels := x_rels, tiles := x_tiles, mxes := x_mxes, vxes := x_vxes, stes := x_stes, chains := x_chains, stks := x_stks, tlbs := x_tlbs, nmes := x_nmes, kvfs := x_kvfs, parts := x_parts, sess := x_sess, rings := x_rings, bars := x_bars, links := x_links, lgs := x_lgs, board := x_board, cles := x_cles, pairs := x_pairs, tals := x_tals, ldgs := x_ldgs, wchs := x_wchs, chans := x_chans, cycles := x_cycles, fog := x_fog, pcx := x_pcx, funcs := x_funcs, mgt := x_mgt, otp := x_otp, sec := x_sec, pwr := x_pwr, boot := x_boot } x_jtag).trans ?_
  refine (h_boot { s with mem := x_mem, poison := x_poison, blocks := x_blocks, img := x_img, ctxs := x_ctxs, ques := x_ques, rels := x_rels, tiles := x_tiles, mxes := x_mxes, vxes := x_vxes, stes := x_stes, chains := x_chains, stks := x_stks, tlbs := x_tlbs, nmes := x_nmes, kvfs := x_kvfs, parts := x_parts, sess := x_sess, rings := x_rings, bars := x_bars, links := x_links, lgs := x_lgs, board := x_board, cles := x_cles, pairs := x_pairs, tals := x_tals, ldgs := x_ldgs, wchs := x_wchs, chans := x_chans, cycles := x_cycles, fog := x_fog, pcx := x_pcx, funcs := x_funcs, mgt := x_mgt, otp := x_otp, sec := x_sec, pwr := x_pwr } x_boot).trans ?_
  refine (h_pwr { s with mem := x_mem, poison := x_poison, blocks := x_blocks, img := x_img, ctxs := x_ctxs, ques := x_ques, rels := x_rels, tiles := x_tiles, mxes := x_mxes, vxes := x_vxes, stes := x_stes, chains := x_chains, stks := x_stks, tlbs := x_tlbs, nmes := x_nmes, kvfs := x_kvfs, parts := x_parts, sess := x_sess, rings := x_rings, bars := x_bars, links := x_links, lgs := x_lgs, board := x_board, cles := x_cles, pairs := x_pairs, tals := x_tals, ldgs := x_ldgs, wchs := x_wchs, chans := x_chans, cycles := x_cycles, fog := x_fog, pcx := x_pcx, funcs := x_funcs, mgt := x_mgt, otp := x_otp, sec := x_sec } x_pwr).trans ?_
  refine (h_sec { s with mem := x_mem, poison := x_poison, blocks := x_blocks, img := x_img, ctxs := x_ctxs, ques := x_ques, rels := x_rels, tiles := x_tiles, mxes := x_mxes, vxes := x_vxes, stes := x_stes, chains := x_chains, stks := x_stks, tlbs := x_tlbs, nmes := x_nmes, kvfs := x_kvfs, parts := x_parts, sess := x_sess, rings := x_rings, bars := x_bars, links := x_links, lgs := x_lgs, board := x_board, cles := x_cles, pairs := x_pairs, tals := x_tals, ldgs := x_ldgs, wchs := x_wchs, chans := x_chans, cycles := x_cycles, fog := x_fog, pcx := x_pcx, funcs := x_funcs, mgt := x_mgt, otp := x_otp } x_sec).trans ?_
  refine (h_otp { s with mem := x_mem, poison := x_poison, blocks := x_blocks, img := x_img, ctxs := x_ctxs, ques := x_ques, rels := x_rels, tiles := x_tiles, mxes := x_mxes, vxes := x_vxes, stes := x_stes, chains := x_chains, stks := x_stks, tlbs := x_tlbs, nmes := x_nmes, kvfs := x_kvfs, parts := x_parts, sess := x_sess, rings := x_rings, bars := x_bars, links := x_links, lgs := x_lgs, board := x_board, cles := x_cles, pairs := x_pairs, tals := x_tals, ldgs := x_ldgs, wchs := x_wchs, chans := x_chans, cycles := x_cycles, fog := x_fog, pcx := x_pcx, funcs := x_funcs, mgt := x_mgt } x_otp).trans ?_
  refine (h_mgt { s with mem := x_mem, poison := x_poison, blocks := x_blocks, img := x_img, ctxs := x_ctxs, ques := x_ques, rels := x_rels, tiles := x_tiles, mxes := x_mxes, vxes := x_vxes, stes := x_stes, chains := x_chains, stks := x_stks, tlbs := x_tlbs, nmes := x_nmes, kvfs := x_kvfs, parts := x_parts, sess := x_sess, rings := x_rings, bars := x_bars, links := x_links, lgs := x_lgs, board := x_board, cles := x_cles, pairs := x_pairs, tals := x_tals, ldgs := x_ldgs, wchs := x_wchs, chans := x_chans, cycles := x_cycles, fog := x_fog, pcx := x_pcx, funcs := x_funcs } x_mgt).trans ?_
  refine (h_funcs { s with mem := x_mem, poison := x_poison, blocks := x_blocks, img := x_img, ctxs := x_ctxs, ques := x_ques, rels := x_rels, tiles := x_tiles, mxes := x_mxes, vxes := x_vxes, stes := x_stes, chains := x_chains, stks := x_stks, tlbs := x_tlbs, nmes := x_nmes, kvfs := x_kvfs, parts := x_parts, sess := x_sess, rings := x_rings, bars := x_bars, links := x_links, lgs := x_lgs, board := x_board, cles := x_cles, pairs := x_pairs, tals := x_tals, ldgs := x_ldgs, wchs := x_wchs, chans := x_chans, cycles := x_cycles, fog := x_fog, pcx := x_pcx } x_funcs).trans ?_
  refine (h_pcx { s with mem := x_mem, poison := x_poison, blocks := x_blocks, img := x_img, ctxs := x_ctxs, ques := x_ques, rels := x_rels, tiles := x_tiles, mxes := x_mxes, vxes := x_vxes, stes := x_stes, chains := x_chains, stks := x_stks, tlbs := x_tlbs, nmes := x_nmes, kvfs := x_kvfs, parts := x_parts, sess := x_sess, rings := x_rings, bars := x_bars, links := x_links, lgs := x_lgs, board := x_board, cles := x_cles, pairs := x_pairs, tals := x_tals, ldgs := x_ldgs, wchs := x_wchs, chans := x_chans, cycles := x_cycles, fog := x_fog } x_pcx).trans ?_
  refine (h_fog { s with mem := x_mem, poison := x_poison, blocks := x_blocks, img := x_img, ctxs := x_ctxs, ques := x_ques, rels := x_rels, tiles := x_tiles, mxes := x_mxes, vxes := x_vxes, stes := x_stes, chains := x_chains, stks := x_stks, tlbs := x_tlbs, nmes := x_nmes, kvfs := x_kvfs, parts := x_parts, sess := x_sess, rings := x_rings, bars := x_bars, links := x_links, lgs := x_lgs, board := x_board, cles := x_cles, pairs := x_pairs, tals := x_tals, ldgs := x_ldgs, wchs := x_wchs, chans := x_chans, cycles := x_cycles } x_fog).trans ?_
  refine (h_cycles { s with mem := x_mem, poison := x_poison, blocks := x_blocks, img := x_img, ctxs := x_ctxs, ques := x_ques, rels := x_rels, tiles := x_tiles, mxes := x_mxes, vxes := x_vxes, stes := x_stes, chains := x_chains, stks := x_stks, tlbs := x_tlbs, nmes := x_nmes, kvfs := x_kvfs, parts := x_parts, sess := x_sess, rings := x_rings, bars := x_bars, links := x_links, lgs := x_lgs, board := x_board, cles := x_cles, pairs := x_pairs, tals := x_tals, ldgs := x_ldgs, wchs := x_wchs, chans := x_chans } x_cycles).trans ?_
  refine (h_chans { s with mem := x_mem, poison := x_poison, blocks := x_blocks, img := x_img, ctxs := x_ctxs, ques := x_ques, rels := x_rels, tiles := x_tiles, mxes := x_mxes, vxes := x_vxes, stes := x_stes, chains := x_chains, stks := x_stks, tlbs := x_tlbs, nmes := x_nmes, kvfs := x_kvfs, parts := x_parts, sess := x_sess, rings := x_rings, bars := x_bars, links := x_links, lgs := x_lgs, board := x_board, cles := x_cles, pairs := x_pairs, tals := x_tals, ldgs := x_ldgs, wchs := x_wchs } x_chans).trans ?_
  refine (h_wchs { s with mem := x_mem, poison := x_poison, blocks := x_blocks, img := x_img, ctxs := x_ctxs, ques := x_ques, rels := x_rels, tiles := x_tiles, mxes := x_mxes, vxes := x_vxes, stes := x_stes, chains := x_chains, stks := x_stks, tlbs := x_tlbs, nmes := x_nmes, kvfs := x_kvfs, parts := x_parts, sess := x_sess, rings := x_rings, bars := x_bars, links := x_links, lgs := x_lgs, board := x_board, cles := x_cles, pairs := x_pairs, tals := x_tals, ldgs := x_ldgs } x_wchs).trans ?_
  refine (h_ldgs { s with mem := x_mem, poison := x_poison, blocks := x_blocks, img := x_img, ctxs := x_ctxs, ques := x_ques, rels := x_rels, tiles := x_tiles, mxes := x_mxes, vxes := x_vxes, stes := x_stes, chains := x_chains, stks := x_stks, tlbs := x_tlbs, nmes := x_nmes, kvfs := x_kvfs, parts := x_parts, sess := x_sess, rings := x_rings, bars := x_bars, links := x_links, lgs := x_lgs, board := x_board, cles := x_cles, pairs := x_pairs, tals := x_tals } x_ldgs).trans ?_
  refine (h_tals { s with mem := x_mem, poison := x_poison, blocks := x_blocks, img := x_img, ctxs := x_ctxs, ques := x_ques, rels := x_rels, tiles := x_tiles, mxes := x_mxes, vxes := x_vxes, stes := x_stes, chains := x_chains, stks := x_stks, tlbs := x_tlbs, nmes := x_nmes, kvfs := x_kvfs, parts := x_parts, sess := x_sess, rings := x_rings, bars := x_bars, links := x_links, lgs := x_lgs, board := x_board, cles := x_cles, pairs := x_pairs } x_tals).trans ?_
  refine (h_pairs { s with mem := x_mem, poison := x_poison, blocks := x_blocks, img := x_img, ctxs := x_ctxs, ques := x_ques, rels := x_rels, tiles := x_tiles, mxes := x_mxes, vxes := x_vxes, stes := x_stes, chains := x_chains, stks := x_stks, tlbs := x_tlbs, nmes := x_nmes, kvfs := x_kvfs, parts := x_parts, sess := x_sess, rings := x_rings, bars := x_bars, links := x_links, lgs := x_lgs, board := x_board, cles := x_cles } x_pairs).trans ?_
  refine (h_cles { s with mem := x_mem, poison := x_poison, blocks := x_blocks, img := x_img, ctxs := x_ctxs, ques := x_ques, rels := x_rels, tiles := x_tiles, mxes := x_mxes, vxes := x_vxes, stes := x_stes, chains := x_chains, stks := x_stks, tlbs := x_tlbs, nmes := x_nmes, kvfs := x_kvfs, parts := x_parts, sess := x_sess, rings := x_rings, bars := x_bars, links := x_links, lgs := x_lgs, board := x_board } x_cles).trans ?_
  refine (h_board { s with mem := x_mem, poison := x_poison, blocks := x_blocks, img := x_img, ctxs := x_ctxs, ques := x_ques, rels := x_rels, tiles := x_tiles, mxes := x_mxes, vxes := x_vxes, stes := x_stes, chains := x_chains, stks := x_stks, tlbs := x_tlbs, nmes := x_nmes, kvfs := x_kvfs, parts := x_parts, sess := x_sess, rings := x_rings, bars := x_bars, links := x_links, lgs := x_lgs } x_board).trans ?_
  refine (h_lgs { s with mem := x_mem, poison := x_poison, blocks := x_blocks, img := x_img, ctxs := x_ctxs, ques := x_ques, rels := x_rels, tiles := x_tiles, mxes := x_mxes, vxes := x_vxes, stes := x_stes, chains := x_chains, stks := x_stks, tlbs := x_tlbs, nmes := x_nmes, kvfs := x_kvfs, parts := x_parts, sess := x_sess, rings := x_rings, bars := x_bars, links := x_links } x_lgs).trans ?_
  refine (h_links { s with mem := x_mem, poison := x_poison, blocks := x_blocks, img := x_img, ctxs := x_ctxs, ques := x_ques, rels := x_rels, tiles := x_tiles, mxes := x_mxes, vxes := x_vxes, stes := x_stes, chains := x_chains, stks := x_stks, tlbs := x_tlbs, nmes := x_nmes, kvfs := x_kvfs, parts := x_parts, sess := x_sess, rings := x_rings, bars := x_bars } x_links).trans ?_
  refine (h_bars { s with mem := x_mem, poison := x_poison, blocks := x_blocks, img := x_img, ctxs := x_ctxs, ques := x_ques, rels := x_rels, tiles := x_tiles, mxes := x_mxes, vxes := x_vxes, stes := x_stes, chains := x_chains, stks := x_stks, tlbs := x_tlbs, nmes := x_nmes, kvfs := x_kvfs, parts := x_parts, sess := x_sess, rings := x_rings } x_bars).trans ?_
  refine (h_rings { s with mem := x_mem, poison := x_poison, blocks := x_blocks, img := x_img, ctxs := x_ctxs, ques := x_ques, rels := x_rels, tiles := x_tiles, mxes := x_mxes, vxes := x_vxes, stes := x_stes, chains := x_chains, stks := x_stks, tlbs := x_tlbs, nmes := x_nmes, kvfs := x_kvfs, parts := x_parts, sess := x_sess } x_rings).trans ?_
  refine (h_sess { s with mem := x_mem, poison := x_poison, blocks := x_blocks, img := x_img, ctxs := x_ctxs, ques := x_ques, rels := x_rels, tiles := x_tiles, mxes := x_mxes, vxes := x_vxes, stes := x_stes, chains := x_chains, stks := x_stks, tlbs := x_tlbs, nmes := x_nmes, kvfs := x_kvfs, parts := x_parts } x_sess).trans ?_
  refine (h_parts { s with mem := x_mem, poison := x_poison, blocks := x_blocks, img := x_img, ctxs := x_ctxs, ques := x_ques, rels := x_rels, tiles := x_tiles, mxes := x_mxes, vxes := x_vxes, stes := x_stes, chains := x_chains, stks := x_stks, tlbs := x_tlbs, nmes := x_nmes, kvfs := x_kvfs } x_parts).trans ?_
  refine (h_kvfs { s with mem := x_mem, poison := x_poison, blocks := x_blocks, img := x_img, ctxs := x_ctxs, ques := x_ques, rels := x_rels, tiles := x_tiles, mxes := x_mxes, vxes := x_vxes, stes := x_stes, chains := x_chains, stks := x_stks, tlbs := x_tlbs, nmes := x_nmes } x_kvfs).trans ?_
  refine (h_nmes { s with mem := x_mem, poison := x_poison, blocks := x_blocks, img := x_img, ctxs := x_ctxs, ques := x_ques, rels := x_rels, tiles := x_tiles, mxes := x_mxes, vxes := x_vxes, stes := x_stes, chains := x_chains, stks := x_stks, tlbs := x_tlbs } x_nmes).trans ?_
  refine (h_tlbs { s with mem := x_mem, poison := x_poison, blocks := x_blocks, img := x_img, ctxs := x_ctxs, ques := x_ques, rels := x_rels, tiles := x_tiles, mxes := x_mxes, vxes := x_vxes, stes := x_stes, chains := x_chains, stks := x_stks } x_tlbs).trans ?_
  refine (h_stks { s with mem := x_mem, poison := x_poison, blocks := x_blocks, img := x_img, ctxs := x_ctxs, ques := x_ques, rels := x_rels, tiles := x_tiles, mxes := x_mxes, vxes := x_vxes, stes := x_stes, chains := x_chains } x_stks).trans ?_
  refine (h_chains { s with mem := x_mem, poison := x_poison, blocks := x_blocks, img := x_img, ctxs := x_ctxs, ques := x_ques, rels := x_rels, tiles := x_tiles, mxes := x_mxes, vxes := x_vxes, stes := x_stes } x_chains).trans ?_
  refine (h_stes { s with mem := x_mem, poison := x_poison, blocks := x_blocks, img := x_img, ctxs := x_ctxs, ques := x_ques, rels := x_rels, tiles := x_tiles, mxes := x_mxes, vxes := x_vxes } x_stes).trans ?_
  refine (h_vxes { s with mem := x_mem, poison := x_poison, blocks := x_blocks, img := x_img, ctxs := x_ctxs, ques := x_ques, rels := x_rels, tiles := x_tiles, mxes := x_mxes } x_vxes).trans ?_
  refine (h_mxes { s with mem := x_mem, poison := x_poison, blocks := x_blocks, img := x_img, ctxs := x_ctxs, ques := x_ques, rels := x_rels, tiles := x_tiles } x_mxes).trans ?_
  refine (h_tiles { s with mem := x_mem, poison := x_poison, blocks := x_blocks, img := x_img, ctxs := x_ctxs, ques := x_ques, rels := x_rels } x_tiles).trans ?_
  refine (h_rels { s with mem := x_mem, poison := x_poison, blocks := x_blocks, img := x_img, ctxs := x_ctxs, ques := x_ques } x_rels).trans ?_
  refine (h_ques { s with mem := x_mem, poison := x_poison, blocks := x_blocks, img := x_img, ctxs := x_ctxs } x_ques).trans ?_
  refine (h_ctxs { s with mem := x_mem, poison := x_poison, blocks := x_blocks, img := x_img } x_ctxs).trans ?_
  refine (h_img { s with mem := x_mem, poison := x_poison, blocks := x_blocks } x_img).trans ?_
  refine (h_blocks { s with mem := x_mem, poison := x_poison } x_blocks).trans ?_
  refine (h_poison { s with mem := x_mem } x_poison).trans ?_
  refine (h_mem s x_mem).trans ?_
  rfl

@[simp] theorem ite_see (c : Prop) [Decidable c] (s t : State) :
    see π (if c then s else t) = if c then see π s else see π t := apply_ite _ _ _ _

@[simp] theorem ite_fst_see {β : Type} (c : Prop) [Decidable c] (s t : State × β) :
    see π (if c then s else t).1 = if c then see π s.1 else see π t.1 := by split <;> rfl

@[simp] theorem ite_snd_see {β : Type} (c : Prop) [Decidable c] (s t : β × State) :
    see π (if c then s else t).2 = if c then see π s.2 else see π t.2 := by split <;> rfl

@[simp] theorem foldl_see {β : Type} (f : State → β → State) (h : ∀ s x, see π (f s x) = see π s) (l : List β) (s : State) :
    see π (l.foldl f s) = see π s := by
  induction l generalizing s with
  | nil => rfl
  | cons x l ih => rw [List.foldl_cons, ih, h]

@[simp] theorem foldl_fst_see {β γ : Type} (f : State × γ → β → State × γ) (h : ∀ s x, see π (f s x).1 = see π s.1)
    (l : List β) (s : State × γ) : see π (l.foldl f s).1 = see π s.1 := by
  induction l generalizing s with
  | nil => rfl
  | cons x l ih => rw [List.foldl_cons, ih, h]

@[simp] theorem foldl_snd_see {β γ : Type} (f : γ × State → β → γ × State) (h : ∀ s x, see π (f s x).2 = see π s.2)
    (l : List β) (s : γ × State) : see π (l.foldl f s).2 = see π s.2 := by
  induction l generalizing s with
  | nil => rfl
  | cons x l ih => rw [List.foldl_cons, ih, h]

@[simp] theorem stateOf_next (t s : State) : stateOf (.next t) s = t := rfl

@[simp] theorem stateOf_okIf (b : Bool) (t s : State) : stateOf (okIf b t) s = if b then t else s := by
  cases b <;> rfl


/-! ## RegMap -/

@[simp ↓] theorem State.setBlk_see (s : State) (b : BlkId) (r : BlockRegs) (hW : Ign π .blocks := by simp [hW])
    : see π (State.setBlk s b r) = see π s := by
  rw [State.setBlk.eq_def]; simp [hW]

@[simp ↓] theorem State.setComm_see (s : State) (k : BlkKind) (u : ℕ) (off : ℕ) (v : W32) (hW : Ign π .blocks := by simp [hW])
    : see π (State.setComm s k u off v) = see π s := by
  rw [State.setComm.eq_def]; simp [hW]

@[simp ↓] theorem State.setStaged_see (s : State) (k : BlkKind) (u : ℕ) (off : ℕ) (v : W32) (hW : Ign π .blocks := by simp [hW])
    : see π (State.setStaged s k u off v) = see π s := by
  rw [State.setStaged.eq_def]; simp [hW]

@[simp ↓] theorem State.setPlain_see (s : State) (k : BlkKind) (u : ℕ) (off : ℕ) (v : W32) (hW : Ign π .blocks := by simp [hW])
    : see π (State.setPlain s k u off v) = see π s := by
  rw [State.setPlain.eq_def]; simp [hW]

@[simp ↓] theorem State.flag_see (s : State) (k : BlkKind) (u : ℕ) (off : ℕ) (bits : W32) (hW : Ign π .blocks := by simp [hW])
    : see π (State.flag s k u off bits) = see π s := by
  rw [State.flag.eq_def]; simp [hW]

@[simp ↓] theorem State.unflag_see (s : State) (k : BlkKind) (u : ℕ) (off : ℕ) (bits : W32) (hW : Ign π .blocks := by simp [hW])
    : see π (State.unflag s k u off bits) = see π s := by
  rw [State.unflag.eq_def]; simp [hW]

/-! ## Ops -/

@[simp ↓] theorem State.setCtx_see (s : State) (k : ℕ) (v : Ctx) (hW : Ign π .ctxs := by simp [hW])
    : see π (State.setCtx s k v) = see π s := by
  rw [State.setCtx.eq_def]; simp [hW]

@[simp ↓] theorem State.setQue_see (s : State) (k : ℕ) (v : Que) (hW : Ign π .ques := by simp [hW])
    : see π (State.setQue s k v) = see π s := by
  rw [State.setQue.eq_def]; simp [hW]

@[simp ↓] theorem State.setTile_see (s : State) (k : ℕ) (v : TileSt) (hW : Ign π .tiles := by simp [hW])
    : see π (State.setTile s k v) = see π s := by
  rw [State.setTile.eq_def]; simp [hW]

@[simp ↓] theorem State.setMxe_see (s : State) (k : ℕ) (v : Mxe) (hW : Ign π .mxes := by simp [hW])
    : see π (State.setMxe s k v) = see π s := by
  rw [State.setMxe.eq_def]; simp [hW]

@[simp ↓] theorem State.setVxe_see (s : State) (k : ℕ) (v : Vxe) (hW : Ign π .vxes := by simp [hW])
    : see π (State.setVxe s k v) = see π s := by
  rw [State.setVxe.eq_def]; simp [hW]

@[simp ↓] theorem State.setSte_see (s : State) (k : ℕ) (v : Ste) (hW : Ign π .stes := by simp [hW])
    : see π (State.setSte s k v) = see π s := by
  rw [State.setSte.eq_def]; simp [hW]

@[simp ↓] theorem State.setStack_see (s : State) (k : ℕ) (v : Stack) (hW : Ign π .stks := by simp [hW])
    : see π (State.setStack s k v) = see π s := by
  rw [State.setStack.eq_def]; simp [hW]

@[simp ↓] theorem State.setNme_see (s : State) (k : ℕ) (v : Nme) (hW : Ign π .nmes := by simp [hW])
    : see π (State.setNme s k v) = see π s := by
  rw [State.setNme.eq_def]; simp [hW]

@[simp ↓] theorem State.setKvf_see (s : State) (k : ℕ) (v : Kvf) (hW : Ign π .kvfs := by simp [hW])
    : see π (State.setKvf s k v) = see π s := by
  rw [State.setKvf.eq_def]; simp [hW]

@[simp ↓] theorem State.setPart_see (s : State) (k : ℕ) (v : Part) (hW : Ign π .parts := by simp [hW])
    : see π (State.setPart s k v) = see π s := by
  rw [State.setPart.eq_def]; simp [hW]

@[simp ↓] theorem State.setSes_see (s : State) (k : ℕ) (v : Ses) (hW : Ign π .sess := by simp [hW])
    : see π (State.setSes s k v) = see π s := by
  rw [State.setSes.eq_def]; simp [hW]

@[simp ↓] theorem State.setRing_see (s : State) (k : ℕ) (v : Ring) (hW : Ign π .rings := by simp [hW])
    : see π (State.setRing s k v) = see π s := by
  rw [State.setRing.eq_def]; simp [hW]

@[simp ↓] theorem State.setBar_see (s : State) (k : ℕ) (v : Bar) (hW : Ign π .bars := by simp [hW])
    : see π (State.setBar s k v) = see π s := by
  rw [State.setBar.eq_def]; simp [hW]

@[simp ↓] theorem State.setLink_see (s : State) (k : ℕ) (v : Link) (hW : Ign π .links := by simp [hW])
    : see π (State.setLink s k v) = see π s := by
  rw [State.setLink.eq_def]; simp [hW]

@[simp ↓] theorem State.setLg_see (s : State) (k : ℕ) (v : LinkGroup) (hW : Ign π .lgs := by simp [hW])
    : see π (State.setLg s k v) = see π s := by
  rw [State.setLg.eq_def]; simp [hW]

@[simp ↓] theorem State.setCle_see (s : State) (k : ℕ) (v : Cle) (hW : Ign π .cles := by simp [hW])
    : see π (State.setCle s k v) = see π s := by
  rw [State.setCle.eq_def]; simp [hW]

@[simp ↓] theorem State.setPair_see (s : State) (k : ℕ) (v : Pair) (hW : Ign π .pairs := by simp [hW])
    : see π (State.setPair s k v) = see π s := by
  rw [State.setPair.eq_def]; simp [hW]

@[simp ↓] theorem State.setTal_see (s : State) (k : ℕ) (v : TalUnit) (hW : Ign π .tals := by simp [hW])
    : see π (State.setTal s k v) = see π s := by
  rw [State.setTal.eq_def]; simp [hW]

@[simp ↓] theorem State.setLdg_see (s : State) (k : ℕ) (v : Ledger) (hW : Ign π .ldgs := by simp [hW])
    : see π (State.setLdg s k v) = see π s := by
  rw [State.setLdg.eq_def]; simp [hW]

@[simp ↓] theorem State.setWch_see (s : State) (k : ℕ) (v : WatchSlot) (hW : Ign π .wchs := by simp [hW])
    : see π (State.setWch s k v) = see π s := by
  rw [State.setWch.eq_def]; simp [hW]

@[simp ↓] theorem State.setChan_see (s : State) (k : ℕ) (v : ChanSt) (hW : Ign π .chans := by simp [hW])
    : see π (State.setChan s k v) = see π s := by
  rw [State.setChan.eq_def]; simp [hW]

@[simp ↓] theorem State.setFunc_see (s : State) (k : ℕ) (v : Func) (hW : Ign π .funcs := by simp [hW])
    : see π (State.setFunc s k v) = see π s := by
  rw [State.setFunc.eq_def]; simp [hW]

@[simp ↓] theorem State.setChain_see (s : State) (k : ℕ) (v : List Chain) (hW : Ign π .chains := by simp [hW])
    : see π (State.setChain s k v) = see π s := by
  rw [State.setChain.eq_def]; simp [hW]

@[simp ↓] theorem State.setTlb_see (s : State) (k : ℕ) (v : List TlbEnt) (hW : Ign π .tlbs := by simp [hW])
    : see π (State.setTlb s k v) = see π s := by
  rw [State.setTlb.eq_def]; simp [hW]

@[simp ↓] theorem State.setCycle_see (s : State) (k : ℕ) (v : W64) (hW : Ign π .cycles := by simp [hW])
    : see π (State.setCycle s k v) = see π s := by
  rw [State.setCycle.eq_def]; simp [hW]

@[simp ↓] theorem State.setTurn_see (s : State) (k : ℕ) (v : ℕ) (hW : Ign π .rr := by simp [hW])
    : see π (State.setTurn s k v) = see π s := by
  rw [State.setTurn.eq_def]; simp [hW]

@[simp ↓] theorem State.draw_see (s : State) (w : ℕ) (hW : Ign π .free := by simp [hW])
    : see π (State.draw s w).2 = see π s := by
  rw [State.draw.eq_def]; simp [hW]

theorem State.draw_see_of {s : State} {w : ℕ} {w1 t1} (hh : (State.draw s w) = (w1, t1)) (hW : Ign π .free := by simp [hW])
    : see π t1 = see π s := by
  rw [← State.draw_see s w, hh]

@[simp ↓] theorem State.drawNat_see (s : State) (hW : Ign π .free := by simp [hW])
    : see π (State.drawNat s).2 = see π s := by
  rw [State.drawNat.eq_def]; simp [hW]

theorem State.drawNat_see_of {s : State} {w1 t1} (hh : (State.drawNat s) = (w1, t1)) (hW : Ign π .free := by simp [hW])
    : see π t1 = see π s := by
  rw [← State.drawNat_see s, hh]

@[simp ↓] theorem State.hostBytes_see (s : State) (bus : ℕ) (n : ℕ) (hW : Ign π .free := by simp [hW])
    : see π (State.hostBytes s bus n).2 = see π s := by
  rw [State.hostBytes.eq_def]; simp [hW]

theorem State.hostBytes_see_of {s : State} {bus : ℕ} {n : ℕ} {w1 t1} (hh : (State.hostBytes s bus n) = (w1, t1)) (hW : Ign π .free := by simp [hW])
    : see π t1 = see π s := by
  rw [← State.hostBytes_see s bus n, hh]

@[simp ↓] theorem State.emit_see (s : State) (o : Out) (hW : Ign π .out := by simp [hW])
    : see π (State.emit s o) = see π s := by
  rw [State.emit.eq_def]; simp [hW]

@[simp ↓] theorem State.sendNotice_see (s : State) (hW : Ign π .out := by simp [hW])
    : see π (State.sendNotice s) = see π s := by
  rw [State.sendNotice.eq_def]; dsimp only; (repeat' split) <;> simp [hW]

@[simp ↓] theorem State.sendNotices_see (s : State) (fresh : W32) (hW : Ign π .out := by simp [hW])
    : see π (State.sendNotices s fresh) = see π s := by
  rw [State.sendNotices.eq_def]; (repeat' split) <;> simp [hW]

@[simp ↓] theorem State.loseWindows_see (s : State) (hW : Ign π .blocks := by simp [hW])
    : see π (State.loseWindows s) = see π s := by
  rw [State.loseWindows.eq_def]; simp [hW]

@[simp ↓] theorem State.endSwitch_see (s : State) (mine : ℕ → Bool) (hW : Ign π .pwr := by simp [hW])
    : see π (State.endSwitch s mine) = see π s := by
  rw [State.endSwitch.eq_def]; dsimp only; (repeat' split) <;> simp [hW]

@[simp ↓] theorem State.loseFront_see (s : State) (k : ℕ) (hW : Ign π .tals := by simp [hW])
    : see π (State.loseFront s k) = see π s := by
  rw [State.loseFront.eq_def]; (repeat' split) <;> simp [hW]

@[simp ↓] theorem State.withdraw_see (s : State) (p : ℕ) (e : Eng) (u : ℕ) (hW : Ign π .rings ∧ Ign π .bars := by simp [hW])
    : see π (State.withdraw s p e u) = see π s := by
  rw [State.withdraw.eq_def]; dsimp only; (repeat' split) <;> simp [hW]

@[simp ↓] theorem State.setFieldAll_see (s : State) (k : BlkKind) (u : ℕ) (off : ℕ) (hi : ℕ) (lo : ℕ) (v : ℕ) (hW : Ign π .blocks := by simp [hW])
    : see π (State.setFieldAll s k u off hi lo v) = see π s := by
  rw [State.setFieldAll.eq_def]; dsimp only; (repeat' split) <;> simp [hW]

@[simp ↓] theorem State.runtimePrio_see (s : State) (p : ℕ) (k : ℕ) (hW : Ign π .blocks := by simp [hW])
    : see π (State.runtimePrio s p k) = see π s := by
  rw [State.runtimePrio.eq_def]; dsimp only; (repeat' split) <;> simp [hW]

@[simp ↓] theorem State.runtimeTakes_see (s : State) (p : ℕ) (k : ℕ) (lc : ℕ) (hW : Ign π .blocks := by simp [hW])
    : see π (State.runtimeTakes s p k lc) = see π s := by
  rw [State.runtimeTakes.eq_def]; dsimp only; (repeat' split) <;> simp [hW]

@[simp ↓] theorem State.carryBus_see (s : State) (fn : ℕ) (bus : ℕ) (hW : Ign π .funcs ∧ Ign π .free := by simp [hW])
    : see π (State.carryBus s fn bus).2 = see π s := by
  rw [State.carryBus.eq_def]; dsimp only; (repeat' split) <;> simp [hW]

theorem State.carryBus_see_of {s : State} {fn : ℕ} {bus : ℕ} {w1 t1} (hh : (State.carryBus s fn bus) = (w1, t1)) (hW : Ign π .funcs ∧ Ign π .free := by simp [hW])
    : see π t1 = see π s := by
  rw [← State.carryBus_see s fn bus, hh]

@[simp ↓] theorem State.tokensRead_see (s : State) (p : ℕ) (held : List PageMap) (va : ℕ) (n : ℕ) (hW : Ign π .blocks := by simp [hW])
    : see π (State.tokensRead s p held va n).2 = see π s := by
  rw [State.tokensRead.eq_def]; dsimp only; (repeat' split) <;> simp [hW]

theorem State.tokensRead_see_of {s : State} {p : ℕ} {held : List PageMap} {va : ℕ} {n : ℕ} {w1 t1} (hh : (State.tokensRead s p held va n) = (w1, t1)) (hW : Ign π .blocks := by simp [hW])
    : see π t1 = see π s := by
  rw [← State.tokensRead_see s p held va n, hh]

@[simp ↓] theorem State.stopEngineRungs_see (s : State) (p : ℕ) (hW : Ign π .timers := by simp [hW])
    : see π (State.stopEngineRungs s p) = see π s := by
  rw [State.stopEngineRungs.eq_def]; dsimp only; split <;> simp [hW]

@[simp ↓] theorem State.unabort_see (s : State) (a : ℕ) (n : ℕ) (hW : Ign π .tiles := by simp [hW])
    : see π (State.unabort s a n) = see π s := by
  rw [State.unabort.eq_def]; split <;> simp [hW]

@[simp ↓] theorem State.writeBytes_see (s : State) (a : ℕ) (bs : List Byte) (hW : Ign π .mem ∧ Ign π .poison ∧ Ign π .tiles := by simp [hW])
    : see π (State.writeBytes s a bs) = see π s := by
  simp [hW, State.writeBytes]

@[simp ↓] theorem State.writeLe_see (s : State) (a : ℕ) (n : ℕ) (v : ℕ) (hW : Ign π .mem ∧ Ign π .poison ∧ Ign π .tiles := by simp [hW])
    : see π (State.writeLe s a n v) = see π s := by
  simp [hW, State.writeLe]

@[simp ↓] theorem State.zeroRange_see (s : State) (lo : ℕ) (n : ℕ) (hW : Ign π .mem ∧ Ign π .poison := by simp [hW])
    : see π (State.zeroRange s lo n) = see π s := by
  rw [State.zeroRange.eq_def]; simp [hW]

@[simp ↓] theorem State.stopTimer_see (s : State) (i : TimerId) (hW : Ign π .timers := by simp [hW])
    : see π (State.stopTimer s i) = see π s := by
  rw [State.stopTimer.eq_def]; simp [hW]

@[simp ↓] theorem State.startTimer_see (s : State) (i : TimerId) (isl : Island) (ns : ℕ) (hW : Ign π .timers := by simp [hW])
    : see π (State.startTimer s i isl ns) = see π s := by
  rw [State.startTimer.eq_def]; simp [hW]

@[simp ↓] theorem State.count_see (s : State) (b : BlkId) (ev : ℕ) (q : ℕ) (w : Who) (hW : Ign π .blocks ∧ Ign π .tals := by simp [hW])
    : see π (State.count s b ev q w) = see π s := by
  simp [hW, State.count]

@[simp ↓] theorem State.countOpen_see (s : State) (b : BlkId) (ev : ℕ) (n : ℕ) (w : Who) (hW : Ign π .blocks ∧ Ign π .tals ∧ Ign π .free := by simp [hW])
    : see π (State.countOpen s b ev n w) = see π s := by
  rw [State.countOpen.eq_def]; dsimp only; (repeat' split) <;> simp [hW]

@[simp ↓] theorem State.countTile_see (s : State) (t : ℕ) (ev : ℕ) (q : ℕ) (w : Who) (hW : Ign π .blocks ∧ Ign π .tals := by simp [hW])
    : see π (State.countTile s t ev q w) = see π s := by
  simp [hW, State.countTile]

@[simp ↓] theorem State.countStack_see (s : State) (k : ℕ) (ev : ℕ) (q : ℕ) (w : Who) (hW : Ign π .blocks ∧ Ign π .tals := by simp [hW])
    : see π (State.countStack s k ev q w) = see π s := by
  simp [hW, State.countStack]

@[simp ↓] theorem State.ldgDropped_see (s : State) (b : BlkId) (n : ℕ) (hW : Ign π .blocks ∧ Ign π .tals := by simp [hW])
    : see π (State.ldgDropped s b n) = see π s := by
  rw [State.ldgDropped.eq_def]; dsimp only; (repeat' split) <;> simp [hW]

@[simp ↓] theorem State.countLg_see (s : State) (g : ℕ) (ev : ℕ) (q : ℕ) (w : Who) (hW : Ign π .blocks ∧ Ign π .tals := by simp [hW])
    : see π (State.countLg s g ev q w) = see π s := by
  simp [hW, State.countLg]

@[simp ↓] theorem State.countPart_see (s : State) (p : ℕ) (ev : ℕ) (q : ℕ) (w : Who) (hW : Ign π .blocks ∧ Ign π .tals := by simp [hW])
    : see π (State.countPart s p ev q w) = see π s := by
  simp [hW, State.countPart]

@[simp ↓] theorem State.countIo_see (s : State) (ev : ℕ) (q : ℕ) (hW : Ign π .blocks ∧ Ign π .tals := by simp [hW])
    : see π (State.countIo s ev q) = see π s := by
  simp [hW, State.countIo]

@[simp ↓] theorem State.raiseFog_see (s : State) (source : BitVec 3) (hW : Ign π .fog ∧ Ign π .timers ∧ Ign π .out := by simp [hW])
    : see π (State.raiseFog s source) = see π s := by
  simp [hW, State.raiseFog]

@[simp ↓] theorem State.ldgTake_see (s : State) (b : BlkId) (o : LdgOut) (hW : Ign π .blocks ∧ Ign π .tals ∧ Ign π .ldgs ∧ Ign π .fog ∧ Ign π .timers ∧ Ign π .out := by simp [hW])
    : see π (State.ldgTake s b o) = see π s := by
  rw [State.ldgTake.eq_def]; dsimp only; (repeat' split) <;> simp [hW]

@[simp ↓] theorem State.ldgTrigger_see (s : State) (b : BlkId) (why : ℕ) (hW : Ign π .blocks ∧ Ign π .tals ∧ Ign π .ldgs ∧ Ign π .fog ∧ Ign π .timers ∧ Ign π .out := by simp [hW])
    : see π (State.ldgTrigger s b why) = see π s := by
  rw [State.ldgTrigger.eq_def]; dsimp only; (repeat' split) <;> simp [hW]

@[simp ↓] theorem State.nonfinFog_see (s : State) (t : ℕ) (c : Cmd) (nonfin : ℕ) (hW : Ign π .fog ∧ Ign π .timers ∧ Ign π .out := by simp [hW])
    : see π (State.nonfinFog s t c nonfin) = see π s := by
  rw [State.nonfinFog.eq_def]; dsimp only; (repeat' split) <;> simp [hW]

@[simp ↓] theorem State.ledger_see (s : State) (b : BlkId) (w : Who) (typ : ℕ) (src : ℕ) (a : ℕ) (pb : ℕ) (hW : Ign π .blocks ∧ Ign π .tals ∧ Ign π .ldgs ∧ Ign π .fog ∧ Ign π .timers ∧ Ign π .out := by simp [hW])
    : see π (State.ledger s b w typ src a pb) = see π s := by
  rw [State.ledger.eq_def]; dsimp only; (repeat' split) <;> simp [hW]

@[simp ↓] theorem State.ledgerTile_see (s : State) (t : ℕ) (w : Who) (typ : ℕ) (src : ℕ) (a : ℕ) (b : ℕ) (hW : Ign π .blocks ∧ Ign π .tals ∧ Ign π .ldgs ∧ Ign π .fog ∧ Ign π .timers ∧ Ign π .out := by simp [hW])
    : see π (State.ledgerTile s t w typ src a b) = see π s := by
  simp [hW, State.ledgerTile]

@[simp ↓] theorem State.ledgerStack_see (s : State) (k : ℕ) (w : Who) (typ : ℕ) (src : ℕ) (a : ℕ) (b : ℕ) (hW : Ign π .blocks ∧ Ign π .tals ∧ Ign π .ldgs ∧ Ign π .fog ∧ Ign π .timers ∧ Ign π .out := by simp [hW])
    : see π (State.ledgerStack s k w typ src a b) = see π s := by
  simp [hW, State.ledgerStack]

@[simp ↓] theorem State.ledgerPart_see (s : State) (p : ℕ) (w : Who) (typ : ℕ) (src : ℕ) (a : ℕ) (b : ℕ) (hW : Ign π .blocks ∧ Ign π .tals ∧ Ign π .ldgs ∧ Ign π .fog ∧ Ign π .timers ∧ Ign π .out := by simp [hW])
    : see π (State.ledgerPart s p w typ src a b) = see π s := by
  rw [State.ledgerPart.eq_def]; split <;> simp [hW]

@[simp ↓] theorem State.carry_see (s : State) (fn : ℕ) (a : ℕ) (hW : Ign π .funcs ∧ Ign π .free := by simp [hW])
    : see π (State.carry s fn a).2 = see π s := by
  rw [State.carry.eq_def]; (repeat' split) <;> simp [hW]

theorem State.carry_see_of {s : State} {fn : ℕ} {a : ℕ} {w1 t1} (hh : (State.carry s fn a) = (w1, t1)) (hW : Ign π .funcs ∧ Ign π .free := by simp [hW])
    : see π t1 = see π s := by
  rw [← State.carry_see s fn a, hh]

@[simp ↓] theorem State.hostWrite_see (s : State) (fn : ℕ) (a : ℕ) (bs : List Byte) (relaxed : Bool) (hW : Ign π .blocks ∧ Ign π .tals ∧ Ign π .funcs ∧ Ign π .out ∧ Ign π .free := by simp [hW])
    : see π (State.hostWrite s fn a bs relaxed) = see π s := by
  simp [hW, State.hostWrite]

@[simp ↓] theorem State.hostRead_see (s : State) (fn : ℕ) (a : ℕ) (n : ℕ) (hW : Ign π .blocks ∧ Ign π .funcs ∧ Ign π .out ∧ Ign π .free := by simp [hW])
    : see π (State.hostRead s fn a n).2 = see π s := by
  simp [hW, State.hostRead]

theorem State.hostRead_see_of {s : State} {fn : ℕ} {a : ℕ} {n : ℕ} {w1 t1} (hh : (State.hostRead s fn a n) = (w1, t1)) (hW : Ign π .blocks ∧ Ign π .funcs ∧ Ign π .out ∧ Ign π .free := by simp [hW])
    : see π t1 = see π s := by
  rw [← State.hostRead_see s fn a n, hh]

@[simp ↓] theorem State.askBus_see (s : State) (fn : ℕ) (bus : ℕ) (n : ℕ) (hW : Ign π .funcs ∧ Ign π .out ∧ Ign π .free := by simp [hW])
    : see π (State.askBus s fn bus n) = see π s := by
  rw [State.askBus.eq_def]; dsimp only; (repeat' split) <;> simp [hW]

@[simp ↓] theorem State.hostAsk_see (s : State) (fn : ℕ) (a : ℕ) (n : ℕ) (hW : Ign π .funcs ∧ Ign π .out ∧ Ign π .free := by simp [hW])
    : see π (State.hostAsk s fn a n) = see π s := by
  rw [State.hostAsk.eq_def]; (repeat' split) <;> simp [hW]

@[simp ↓] theorem State.bump_see (s : State) (hW : Ign π .free := by simp [hW])
    : see π (State.bump s) = see π s := by
  rw [State.bump.eq_def]; simp [hW]

@[simp ↓] theorem State.putBytes_see (s : State) (p : ℕ) (a : ℕ) (bs : List Byte) (hW : Ign π .mem ∧ Ign π .poison ∧ Ign π .blocks ∧ Ign π .tiles ∧ Ign π .tals ∧ Ign π .funcs ∧ Ign π .out ∧ Ign π .free := by simp [hW])
    : see π (State.putBytes s p a bs) = see π s := by
  simp [hW, State.putBytes]

@[simp ↓] theorem State.msix_see (s : State) (fn : ℕ) (v : ℕ) (hW : Ign π .blocks ∧ Ign π .tals ∧ Ign π .funcs ∧ Ign π .out := by simp [hW])
    : see π (State.msix s fn v) = see π s := by
  simp [hW, State.msix]

@[simp ↓] theorem State.alert_see (s : State) (bits : W32) (hW : Ign π .blocks ∧ Ign π .out := by simp [hW])
    : see π (State.alert s bits) = see π s := by
  simp [hW, State.alert]

@[simp ↓] theorem State.logFault_see (s : State) (p : ℕ) (ws : List ℕ) (hW : Ign π .mem ∧ Ign π .poison ∧ Ign π .blocks ∧ Ign π .tiles ∧ Ign π .parts := by simp [hW])
    : see π (State.logFault s p ws) = see π s := by
  simp [hW, State.logFault]

@[simp ↓] theorem State.ledgerUnit_see (s : State) (p : ℕ) (uclass : ℕ) (unit : ℕ) (w : Who) (typ : ℕ) (src : ℕ) (a : ℕ) (b : ℕ) (hW : Ign π .blocks ∧ Ign π .tals ∧ Ign π .ldgs ∧ Ign π .fog ∧ Ign π .timers ∧ Ign π .out := by simp [hW])
    : see π (State.ledgerUnit s p uclass unit w typ src a b) = see π s := by
  rw [State.ledgerUnit.eq_def]; split <;> simp [hW]

@[simp ↓] theorem State.recordFault_see (s : State) (p : ℕ) (f : FaultRec) (w : Who) (hW : Ign π .mem ∧ Ign π .poison ∧ Ign π .blocks ∧ Ign π .tiles ∧ Ign π .parts ∧ Ign π .tals ∧ Ign π .ldgs ∧ Ign π .fog ∧ Ign π .funcs ∧ Ign π .timers ∧ Ign π .out := by simp [hW])
    : see π (State.recordFault s p f w) = see π s := by
  simp [hW, State.recordFault]

@[simp ↓] theorem State.raiseAny_see (s : State) (p : ℕ) (f : FaultRec) (hW : Ign π .mem ∧ Ign π .poison ∧ Ign π .blocks ∧ Ign π .ctxs ∧ Ign π .tiles ∧ Ign π .parts ∧ Ign π .tals ∧ Ign π .ldgs ∧ Ign π .fog ∧ Ign π .funcs ∧ Ign π .timers ∧ Ign π .out := by simp [hW])
    : see π (State.raiseAny s p f) = see π s := by
  rw [State.raiseAny.eq_def]; dsimp only; split <;> simp [hW]

@[simp ↓] theorem State.raise_see (s : State) (p : ℕ) (f : FaultRec) (hW : Ign π .mem ∧ Ign π .poison ∧ Ign π .blocks ∧ Ign π .ctxs ∧ Ign π .tiles ∧ Ign π .parts ∧ Ign π .tals ∧ Ign π .ldgs ∧ Ign π .fog ∧ Ign π .funcs ∧ Ign π .timers ∧ Ign π .out := by simp [hW])
    : see π (State.raise s p f) = see π s := by
  rw [State.raise.eq_def]; dsimp only; split <;> simp [hW]

@[simp ↓] theorem State.escalated_see (s : State) (p : ℕ) (hW : Ign π .blocks ∧ Ign π .out := by simp [hW])
    : see π (State.escalated s p) = see π s := by
  simp [hW, State.escalated]

/-! ## Translate -/

@[simp ↓] theorem State.readEntry_see (s : State) (p : ℕ) (a : ℕ) (hW : Ign π .blocks ∧ Ign π .funcs ∧ Ign π .out ∧ Ign π .free := by simp [hW])
    : see π (State.readEntry s p a).2 = see π s := by
  rw [State.readEntry.eq_def]
  (repeat' split) <;> (try dsimp only) <;> first | exact State.hostRead_see_of (by with_reducible assumption) | simp [hW]

theorem State.readEntry_see_of {s : State} {p : ℕ} {a : ℕ} {w1 t1} (hh : (State.readEntry s p a) = (w1, t1)) (hW : Ign π .blocks ∧ Ign π .funcs ∧ Ign π .out ∧ Ign π .free := by simp [hW])
    : see π t1 = see π s := by
  rw [← State.readEntry_see s p a, hh]

@[simp ↓] theorem State.entryAt_see (s : State) (p : ℕ) (va : ℕ) (level : ℕ) (t : ℕ) (hW : Ign π .blocks ∧ Ign π .funcs ∧ Ign π .out ∧ Ign π .free := by simp [hW])
    : see π (State.entryAt s p va level t).2 = see π s := by
  rw [State.entryAt.eq_def]
  (repeat' split) <;> (try dsimp only) <;> (repeat' split) <;> exact State.readEntry_see_of (by with_reducible assumption)

theorem State.entryAt_see_of {s : State} {p : ℕ} {va : ℕ} {level : ℕ} {t : ℕ} {w1 t1} (hh : (State.entryAt s p va level t) = (w1, t1)) (hW : Ign π .blocks ∧ Ign π .funcs ∧ Ign π .out ∧ Ign π .free := by simp [hW])
    : see π t1 = see π s := by
  rw [← State.entryAt_see s p va level t, hh]

@[simp ↓] theorem State.walkDrop_see (s : State) (key : ℕ) (e : TlbEnt) (hW : Ign π .tlbs := by simp [hW])
    : see π (State.walkDrop s key e) = see π s := by
  simp [hW, State.walkDrop]

@[simp ↓] theorem State.walkKeep_see (s : State) (key : ℕ) (dc : ℕ) (level : ℕ) (va : ℕ) (r : Entry) (hW : Ign π .tlbs := by simp [hW])
    : see π (State.walkKeep s key dc level va r) = see π s := by
  rw [State.walkKeep.eq_def]; split <;> simp [hW]

@[simp ↓] theorem State.walkLevel_see (s : State) (key : ℕ) (dc : ℕ) (p : ℕ) (va : ℕ) (level : ℕ) (t : ℕ) (hW : Ign π .blocks ∧ Ign π .tlbs ∧ Ign π .funcs ∧ Ign π .out ∧ Ign π .free := by simp [hW])
    : see π (State.walkLevel s key dc p va level t).2 = see π s := by
  rw [State.walkLevel.eq_def]; dsimp only; (repeat' split) <;> simp [hW]

theorem State.walkLevel_see_of {s : State} {key : ℕ} {dc : ℕ} {p : ℕ} {va : ℕ} {level : ℕ} {t : ℕ} {w1 t1} (hh : (State.walkLevel s key dc p va level t) = (w1, t1)) (hW : Ign π .blocks ∧ Ign π .tlbs ∧ Ign π .funcs ∧ Ign π .out ∧ Ign π .free := by simp [hW])
    : see π t1 = see π s := by
  rw [← State.walkLevel_see s key dc p va level t, hh]

@[simp ↓] theorem State.walkFrom_see (s : State) (key : ℕ) (dc : ℕ) (p : ℕ) (va : ℕ) (v6 : ℕ) (v7 : ℕ) (v8 : ℕ) (hW : Ign π .blocks ∧ Ign π .tlbs ∧ Ign π .funcs ∧ Ign π .out ∧ Ign π .free := by simp [hW])
    : see π (State.walkFrom s key dc p va v6 v7 v8).2 = see π s := by
  induction v6 generalizing s v7 v8 with
  | zero => rfl
  | succ n ih =>
    rw [State.walkFrom]
    (repeat' split) <;> first
      | exact State.walkLevel_see_of (by with_reducible assumption)
      | exact (ih _ _ _).trans (State.walkLevel_see_of (by with_reducible assumption))

theorem State.walkFrom_see_of {s : State} {key : ℕ} {dc : ℕ} {p : ℕ} {va : ℕ} {v6 : ℕ} {v7 : ℕ} {v8 : ℕ} {w1 t1} (hh : (State.walkFrom s key dc p va v6 v7 v8) = (w1, t1)) (hW : Ign π .blocks ∧ Ign π .tlbs ∧ Ign π .funcs ∧ Ign π .out ∧ Ign π .free := by simp [hW])
    : see π t1 = see π s := by
  rw [← State.walkFrom_see s key dc p va v6 v7 v8, hh]

@[simp ↓] theorem State.walk_see (s : State) (key : ℕ) (p : ℕ) (lc : ℕ) (va : ℕ) (hW : Ign π .blocks ∧ Ign π .tlbs ∧ Ign π .funcs ∧ Ign π .out ∧ Ign π .free := by simp [hW])
    : see π (State.walk s key p lc va).2 = see π s := by
  simp [hW, State.walk]

theorem State.walk_see_of {s : State} {key : ℕ} {p : ℕ} {lc : ℕ} {va : ℕ} {w1 t1} (hh : (State.walk s key p lc va) = (w1, t1)) (hW : Ign π .blocks ∧ Ign π .tlbs ∧ Ign π .funcs ∧ Ign π .out ∧ Ign π .free := by simp [hW])
    : see π t1 = see π s := by
  rw [← State.walk_see s key p lc va, hh]

@[simp ↓] theorem State.tlbAdd_see (s : State) (key : ℕ) (e : TlbEnt) (hW : Ign π .tlbs ∧ Ign π .free := by simp [hW])
    : see π (State.tlbAdd s key e) = see π s := by
  simp [hW, State.tlbAdd]

@[simp ↓] theorem State.xlate_see (s : State) (key : ℕ) (p : ℕ) (lc : ℕ) (va : ℕ) (hW : Ign π .blocks ∧ Ign π .tlbs ∧ Ign π .funcs ∧ Ign π .out ∧ Ign π .free := by simp [hW])
    : see π (State.xlate s key p lc va).2 = see π s := by
  rw [State.xlate.eq_def]
  (repeat' split) <;> (repeat first | with_reducible rfl | refine (State.walk_see_of (by with_reducible assumption)).trans ?_ | refine (State.draw_see_of (by with_reducible assumption)).trans ?_ | split | simp [hW])

theorem State.xlate_see_of {s : State} {key : ℕ} {p : ℕ} {lc : ℕ} {va : ℕ} {w1 t1} (hh : (State.xlate s key p lc va) = (w1, t1)) (hW : Ign π .blocks ∧ Ign π .tlbs ∧ Ign π .funcs ∧ Ign π .out ∧ Ign π .free := by simp [hW])
    : see π t1 = see π s := by
  rw [← State.xlate_see s key p lc va, hh]

@[simp ↓] theorem State.dropCtx_see (s : State) (dc : ℕ) (hW : Ign π .tlbs := by simp [hW])
    : see π (State.dropCtx s dc) = see π s := by
  rw [State.dropCtx.eq_def]; simp [hW]

@[simp ↓] theorem State.xlatePage_see (s : State) (key : ℕ) (p : ℕ) (lc : ℕ) (va : ℕ) (wr : Bool) (hW : Ign π .blocks ∧ Ign π .tlbs ∧ Ign π .funcs ∧ Ign π .out ∧ Ign π .free := by simp [hW])
    : see π (State.xlatePage s key p lc va wr).2 = see π s := by
  rw [State.xlatePage.eq_def]
  (repeat' split) <;> (try dsimp only) <;> first | exact State.xlate_see_of (by with_reducible assumption) | simp [hW]

theorem State.xlatePage_see_of {s : State} {key : ℕ} {p : ℕ} {lc : ℕ} {va : ℕ} {wr : Bool} {w1 t1} (hh : (State.xlatePage s key p lc va wr) = (w1, t1)) (hW : Ign π .blocks ∧ Ign π .tlbs ∧ Ign π .funcs ∧ Ign π .out ∧ Ign π .free := by simp [hW])
    : see π t1 = see π s := by
  rw [← State.xlatePage_see s key p lc va wr, hh]

@[simp ↓] theorem State.xlatePages_see (s : State) (key : ℕ) (p : ℕ) (lc : ℕ) (va : ℕ) (hi : ℕ) (wr : Bool) (v7 : ℕ) (v8 : List PageMap) (hW : Ign π .blocks ∧ Ign π .tlbs ∧ Ign π .funcs ∧ Ign π .out ∧ Ign π .free := by simp [hW])
    : see π (State.xlatePages s key p lc va hi wr v7 v8).2 = see π s := by
  induction v7 generalizing s va v8 with
  | zero => rfl
  | succ n ih => rw [State.xlatePages]; (repeat' split) <;> (repeat (first | rfl | refine (State.xlatePage_see_of (by with_reducible assumption)).trans ?_ | refine (ih _ _ _).trans ?_))

theorem State.xlatePages_see_of {s : State} {key : ℕ} {p : ℕ} {lc : ℕ} {va : ℕ} {hi : ℕ} {wr : Bool} {v7 : ℕ} {v8 : List PageMap} {w1 t1} (hh : (State.xlatePages s key p lc va hi wr v7 v8) = (w1, t1)) (hW : Ign π .blocks ∧ Ign π .tlbs ∧ Ign π .funcs ∧ Ign π .out ∧ Ign π .free := by simp [hW])
    : see π t1 = see π s := by
  rw [← State.xlatePages_see s key p lc va hi wr v7 v8, hh]

@[simp ↓] theorem State.xlateRanges_see (s : State) (key : ℕ) (p : ℕ) (lc : ℕ) (v4 : List VRange) (v5 : List PageMap) (hW : Ign π .blocks ∧ Ign π .tlbs ∧ Ign π .funcs ∧ Ign π .out ∧ Ign π .free := by simp [hW])
    : see π (State.xlateRanges s key p lc v4 v5).2 = see π s := by
  induction v4 generalizing s v5 with
  | nil => rfl
  | cons r rs ih => rw [State.xlateRanges]; (repeat' split) <;> (repeat (first | rfl | refine (State.xlatePages_see_of (by with_reducible assumption)).trans ?_ | refine (ih _ _).trans ?_))

theorem State.xlateRanges_see_of {s : State} {key : ℕ} {p : ℕ} {lc : ℕ} {v4 : List VRange} {v5 : List PageMap} {w1 t1} (hh : (State.xlateRanges s key p lc v4 v5) = (w1, t1)) (hW : Ign π .blocks ∧ Ign π .tlbs ∧ Ign π .funcs ∧ Ign π .out ∧ Ign π .free := by simp [hW])
    : see π t1 = see π s := by
  rw [← State.xlateRanges_see s key p lc v4 v5, hh]

@[simp ↓] theorem State.heldPut_see (s : State) (p : ℕ) (held : List PageMap) (va : ℕ) (b : Byte) (hW : Ign π .mem ∧ Ign π .poison ∧ Ign π .blocks ∧ Ign π .tiles ∧ Ign π .tals ∧ Ign π .funcs ∧ Ign π .out ∧ Ign π .free := by simp [hW])
    : see π (State.heldPut s p held va b) = see π s := by
  rw [State.heldPut.eq_def]; split <;> simp [hW]

@[simp ↓] theorem State.heldWrite_see (s : State) (p : ℕ) (held : List PageMap) (va : ℕ) (bs : List Byte) (hW : Ign π .mem ∧ Ign π .poison ∧ Ign π .blocks ∧ Ign π .tiles ∧ Ign π .tals ∧ Ign π .funcs ∧ Ign π .out ∧ Ign π .free := by simp [hW])
    : see π (State.heldWrite s p held va bs) = see π s := by
  rw [State.heldWrite.eq_def]; split <;> simp [hW]

@[simp ↓] theorem State.heldWrites_see (s : State) (p : ℕ) (c : Cmd) (ws : List (ℕ × List Byte)) (hW : Ign π .mem ∧ Ign π .poison ∧ Ign π .blocks ∧ Ign π .tiles ∧ Ign π .tals ∧ Ign π .funcs ∧ Ign π .out ∧ Ign π .free := by simp [hW])
    : see π (State.heldWrites s p c ws) = see π s := by
  rw [State.heldWrites.eq_def]; (repeat' split) <;> simp [hW]

/-! ## Contexts -/

@[simp ↓] theorem State.setQ_see (s : State) (p : ℕ) (q : ℕ) (x : Que) (hW : Ign π .ques := by simp [hW])
    : see π (State.setQ s p q x) = see π s := by
  rw [State.setQ.eq_def]; simp [hW]

@[simp ↓] theorem State.progressRestart_see (s : State) (p : ℕ) (q : ℕ) (hW : Ign π .timers := by simp [hW])
    : see π (State.progressRestart s p q) = see π s := by
  simp [hW, State.progressRestart]

@[simp ↓] theorem State.haltFrom_see (s : State) (p : ℕ) (q : ℕ) (i : ℕ) (hW : Ign π .ques ∧ Ign π .timers := by simp [hW])
    : see π (State.haltFrom s p q i) = see π s := by
  rw [State.haltFrom.eq_def]; simp [hW]

@[simp ↓] theorem State.haltAt_see (s : State) (p : ℕ) (q : ℕ) (i : ℕ) (hW : Ign π .ques ∧ Ign π .timers := by simp [hW])
    : see π (State.haltAt s p q i) = see π s := by
  rw [State.haltAt.eq_def]; simp [hW]

@[simp ↓] theorem State.putChain_see (s : State) (t : ℕ) (ch : Chain) (hW : Ign π .chains := by simp [hW])
    : see π (State.putChain s t ch) = see π s := by
  rw [State.putChain.eq_def]; simp [hW]

@[simp ↓] theorem State.updCmd_see (s : State) (r : CmdRef) (f : Cmd → Cmd) (hW : Ign π .ques := by simp [hW])
    : see π (State.updCmd s r f) = see π s := by
  rw [State.updCmd.eq_def]; simp [hW]

@[simp ↓] theorem State.unbegin_see (s : State) (r : CmdRef) (hW : Ign π .ques := by simp [hW])
    : see π (State.unbegin s r) = see π s := by
  rw [State.unbegin.eq_def]; (repeat' split) <;> simp [hW]

@[simp ↓] theorem State.setStage_see (s : State) (r : CmdRef) (x : StageSt) (hW : Ign π .chains := by simp [hW])
    : see π (State.setStage s r x) = see π s := by
  rw [State.setStage.eq_def]; split <;> simp [hW]

@[simp ↓] theorem State.failRef_see (s : State) (r : CmdRef) (b : Bad) (uclass : ℕ) (unit : ℕ) (sub : ℕ) (hW : Ign π .mem ∧ Ign π .poison ∧ Ign π .blocks ∧ Ign π .ctxs ∧ Ign π .ques ∧ Ign π .tiles ∧ Ign π .chains ∧ Ign π .parts ∧ Ign π .tals ∧ Ign π .ldgs ∧ Ign π .fog ∧ Ign π .funcs ∧ Ign π .timers ∧ Ign π .out := by simp [hW])
    : see π (State.failRef s r b uclass unit sub) = see π s := by
  rw [State.failRef.eq_def]; split <;> simp [hW]

@[simp ↓] theorem State.ledgerCmd_see (s : State) (p : ℕ) (q : ℕ) (c : Cmd) (typ : ℕ) (a : ℕ) (b : ℕ) (hW : Ign π .blocks ∧ Ign π .tals ∧ Ign π .ldgs ∧ Ign π .fog ∧ Ign π .timers ∧ Ign π .out := by simp [hW])
    : see π (State.ledgerCmd s p q c typ a b) = see π s := by
  rw [State.ledgerCmd.eq_def]; split <;> simp [hW]

@[simp ↓] theorem State.noteHost_see (s : State) (dq : ℕ) (v3 : Option HostWr) (hW : Ign π .ques := by simp [hW])
    : see π (State.noteHost s dq v3) = see π s := by
  cases v3 <;> simp [hW, State.noteHost]

@[simp ↓] theorem State.completeCmd_see (s : State) (r : CmdRef) (hW : Ign π .blocks ∧ Ign π .ques ∧ Ign π .tals ∧ Ign π .ldgs ∧ Ign π .fog ∧ Ign π .timers ∧ Ign π .out := by simp [hW])
    : see π (State.completeCmd s r) = see π s := by
  rw [State.completeCmd.eq_def]; split <;> simp [hW]

@[simp ↓] theorem State.completeRef_see (s : State) (r : CmdRef) (hW : Ign π .blocks ∧ Ign π .ques ∧ Ign π .chains ∧ Ign π .tals ∧ Ign π .ldgs ∧ Ign π .fog ∧ Ign π .timers ∧ Ign π .out := by simp [hW])
    : see π (State.completeRef s r) = see π s := by
  rw [State.completeRef.eq_def]; dsimp only; (repeat' split) <;> simp [hW]

@[simp ↓] theorem State.loadVa_see (s : State) (key : ℕ) (p : ℕ) (lc : ℕ) (va : ℕ) (n : ℕ) (hW : Ign π .blocks ∧ Ign π .tlbs ∧ Ign π .funcs ∧ Ign π .out ∧ Ign π .free := by simp [hW])
    : see π (State.loadVa s key p lc va n).2 = see π s := by
  rw [State.loadVa.eq_def]
  (repeat' split) <;> (repeat first | with_reducible rfl | refine (State.xlatePage_see_of (by with_reducible assumption)).trans ?_ | refine (State.hostRead_see_of (by with_reducible assumption)).trans ?_ | split | simp [hW])

theorem State.loadVa_see_of {s : State} {key : ℕ} {p : ℕ} {lc : ℕ} {va : ℕ} {n : ℕ} {w1 t1} (hh : (State.loadVa s key p lc va n) = (w1, t1)) (hW : Ign π .blocks ∧ Ign π .tlbs ∧ Ign π .funcs ∧ Ign π .out ∧ Ign π .free := by simp [hW])
    : see π t1 = see π s := by
  rw [← State.loadVa_see s key p lc va n, hh]

@[simp ↓] theorem State.storeVa_see (s : State) (key : ℕ) (p : ℕ) (lc : ℕ) (va : ℕ) (bs : List Byte) (hW : Ign π .mem ∧ Ign π .poison ∧ Ign π .blocks ∧ Ign π .tiles ∧ Ign π .tlbs ∧ Ign π .tals ∧ Ign π .funcs ∧ Ign π .out ∧ Ign π .free := by simp [hW])
    : see π (State.storeVa s key p lc va bs).2 = see π s := by
  rw [State.storeVa.eq_def]
  (repeat' split) <;> (repeat first | with_reducible rfl | refine (State.xlatePage_see_of (by with_reducible assumption)).trans ?_ | split | simp [hW])

theorem State.storeVa_see_of {s : State} {key : ℕ} {p : ℕ} {lc : ℕ} {va : ℕ} {bs : List Byte} {w1 t1} (hh : (State.storeVa s key p lc va bs) = (w1, t1)) (hW : Ign π .mem ∧ Ign π .poison ∧ Ign π .blocks ∧ Ign π .tiles ∧ Ign π .tlbs ∧ Ign π .tals ∧ Ign π .funcs ∧ Ign π .out ∧ Ign π .free := by simp [hW])
    : see π t1 = see π s := by
  rw [← State.storeVa_see s key p lc va bs, hh]

@[simp ↓] theorem State.ring__see (s : State) (p : ℕ) (q : ℕ) (v : W32) (hW : Ign π .mem ∧ Ign π .poison ∧ Ign π .blocks ∧ Ign π .ctxs ∧ Ign π .ques ∧ Ign π .tiles ∧ Ign π .parts ∧ Ign π .tals ∧ Ign π .ldgs ∧ Ign π .fog ∧ Ign π .funcs ∧ Ign π .timers ∧ Ign π .out := by simp [hW])
    : see π (State.ring_ s p q v) = see π s := by
  simp [hW, State.ring_]

@[simp ↓] theorem State.countMismatch_see (s : State) (a : ℕ) (n : ℕ) (hW : Ign π .blocks ∧ Ign π .tals := by simp [hW])
    : see π (State.countMismatch s a n) = see π s := by
  rw [State.countMismatch.eq_def]; split <;> simp [hW]

@[simp ↓] theorem State.markUpdate_see (s : State) (a : ℕ) (n : ℕ) (party : BlkId) (s' : State) (hW : Ign π .blocks ∧ Ign π .tals := by simp [hW])
    : see π (State.markUpdate s a n party s') = see π s' := by
  rw [State.markUpdate.eq_def]
  refine foldl_see _ (fun _ _ => ?_) _ _
  simp [hW]

@[simp ↓] theorem State.dbRead_see (s : State) (v2 : DbPath) (hW : Ign π .out := by simp [hW])
    : see π (State.dbRead s v2) = see π s := by
  rw [State.dbRead.eq_def]; (repeat' split) <;> simp [hW]

@[simp ↓] theorem State.doorbell_see (s : State) (path : DbPath) (v : W32) (hW : Ign π .mem ∧ Ign π .poison ∧ Ign π .blocks ∧ Ign π .ctxs ∧ Ign π .ques ∧ Ign π .tiles ∧ Ign π .parts ∧ Ign π .tals ∧ Ign π .ldgs ∧ Ign π .fog ∧ Ign π .funcs ∧ Ign π .timers ∧ Ign π .out := by simp [hW])
    : see π (State.doorbell s path v) = see π s := by
  rw [State.doorbell.eq_def]; (repeat' split) <;> simp [hW]

@[simp ↓] theorem State.performPosted_see (s : State) (a : ℕ) (bs : List Byte) (relaxed : Bool) (hW : Ign π .mem ∧ Ign π .poison ∧ Ign π .blocks ∧ Ign π .tiles ∧ Ign π .tals := by simp [hW])
    : see π (State.performPosted s a bs relaxed) = see π s := by
  rw [State.performPosted.eq_def]; dsimp only; (repeat' split) <;> simp [hW]

@[simp ↓] theorem State.flushPosted_see (s : State) (fn : ℕ) (hW : Ign π .mem ∧ Ign π .poison ∧ Ign π .blocks ∧ Ign π .tiles ∧ Ign π .tals ∧ Ign π .funcs := by simp [hW])
    : see π (State.flushPosted s fn) = see π s := by
  simp [hW, State.flushPosted]

@[simp ↓] theorem State.flushFor_see (s : State) (m : Master) (hW : Ign π .mem ∧ Ign π .poison ∧ Ign π .blocks ∧ Ign π .tiles ∧ Ign π .tals ∧ Ign π .funcs := by simp [hW])
    : see π (State.flushFor s m) = see π s := by
  rw [State.flushFor.eq_def]; (repeat' split) <;> simp [hW]

@[simp ↓] theorem execDoorbell_see (path : DbPath) (v : W32) (s : State) (hW : Ign π .mem ∧ Ign π .poison ∧ Ign π .blocks ∧ Ign π .ctxs ∧ Ign π .ques ∧ Ign π .tiles ∧ Ign π .parts ∧ Ign π .tals ∧ Ign π .ldgs ∧ Ign π .fog ∧ Ign π .funcs ∧ Ign π .timers ∧ Ign π .out := by simp [hW])
    : see π (stateOf (execDoorbell path v s) s) = see π s := by
  rw [execDoorbell.eq_def, stateOf_next]; dsimp only; (repeat' split) <;> simp [hW]

@[simp ↓] theorem State.takeRecord_see (s : State) (p : ℕ) (q : ℕ) (bs : List Byte) (hW : Ign π .blocks ∧ Ign π .ques ∧ Ign π .tals := by simp [hW])
    : see π (State.takeRecord s p q bs) = see π s := by
  simp [hW, State.takeRecord]

@[simp ↓] theorem State.fetchRecs_see (s : State) (p : ℕ) (q : ℕ) (v3 : ℕ) (hW : Ign π .mem ∧ Ign π .poison ∧ Ign π .blocks ∧ Ign π .ctxs ∧ Ign π .ques ∧ Ign π .tiles ∧ Ign π .tlbs ∧ Ign π .parts ∧ Ign π .tals ∧ Ign π .ldgs ∧ Ign π .fog ∧ Ign π .funcs ∧ Ign π .timers ∧ Ign π .out ∧ Ign π .free := by simp [hW])
    : see π (State.fetchRecs s p q v3) = see π s := by
  induction v3 generalizing s with
  | zero => rfl
  | succ n ih =>
    rw [State.fetchRecs]; try dsimp only
    split
    · rfl
    · split
      · rw [ih]; simp [hW]; exact State.loadVa_see_of (by with_reducible assumption)
      · simp [hW]; exact State.loadVa_see_of (by with_reducible assumption)

@[simp ↓] theorem State.ctxResult_see (s : State) (p : ℕ) (r : Byte) (hW : Ign π .parts := by simp [hW])
    : see π (State.ctxResult s p r) = see π s := by
  rw [State.ctxResult.eq_def]; simp [hW]

@[simp ↓] theorem State.ctxCmd_see (s : State) (m : Master) (p c : Nat) (f : Nat → State) (hf : ∀ x, see π (f x) = see π s) (hW : Ign π .parts := by simp [hW])
    :
    see π (State.ctxCmd s m p c f) = see π s := by
  rw [State.ctxCmd.eq_def]; (try dsimp only); (repeat' split) <;> simp [hW, hf]

@[simp ↓] theorem State.applyCtxStaged_see (s : State) (p : ℕ) (c : ℕ) (hW : Ign π .blocks := by simp [hW])
    : see π (State.applyCtxStaged s p c) = see π s := by
  rw [State.applyCtxStaged.eq_def]; simp [hW]

@[simp ↓] theorem execCtxCreate_see (m : Master) (p : Fin 8) (c : BitVec 8) (s : State) (hW : Ign π .blocks ∧ Ign π .ctxs ∧ Ign π .tlbs ∧ Ign π .parts := by simp [hW])
    : see π (stateOf (execCtxCreate m p c s) s) = see π s := by
  simp [hW, execCtxCreate]

/-! ## Marks -/

@[simp ↓] theorem State.markPhys_see (s : State) (p : ℕ) (lc : ℕ) (i : ℕ) (wr : Bool) (hW : Ign π .blocks ∧ Ign π .tlbs ∧ Ign π .funcs ∧ Ign π .out ∧ Ign π .free := by simp [hW])
    : see π (State.markPhys s p lc i wr).2 = see π s := by
  rw [State.markPhys.eq_def]
  (repeat' split) <;> (repeat first | with_reducible rfl | refine (State.xlatePage_see_of (by with_reducible assumption)).trans ?_ | split | simp [hW])

theorem State.markPhys_see_of {s : State} {p : ℕ} {lc : ℕ} {i : ℕ} {wr : Bool} {w1 t1} (hh : (State.markPhys s p lc i wr) = (w1, t1)) (hW : Ign π .blocks ∧ Ign π .tlbs ∧ Ign π .funcs ∧ Ign π .out ∧ Ign π .free := by simp [hW])
    : see π t1 = see π s := by
  rw [← State.markPhys_see s p lc i wr, hh]

@[simp ↓] theorem State.setCmd_see (s : State) (p : ℕ) (q : ℕ) (i : ℕ) (c : Cmd) (hW : Ign π .ques := by simp [hW])
    : see π (State.setCmd s p q i c) = see π s := by
  rw [State.setCmd.eq_def]; simp [hW]

@[simp ↓] theorem State.meetWait_see (s : State) (p : ℕ) (q : ℕ) (i : ℕ) (w : ℕ) (hW : Ign π .blocks ∧ Ign π .ques ∧ Ign π .tals ∧ Ign π .ldgs ∧ Ign π .fog ∧ Ign π .timers ∧ Ign π .out := by simp [hW])
    : see π (State.meetWait s p q i w) = see π s := by
  rw [State.meetWait.eq_def]; split <;> simp [hW]

@[simp ↓] theorem State.failWait_see (s : State) (p : ℕ) (q : ℕ) (i : ℕ) (b : Bad) (hW : Ign π .mem ∧ Ign π .poison ∧ Ign π .blocks ∧ Ign π .ctxs ∧ Ign π .ques ∧ Ign π .tiles ∧ Ign π .parts ∧ Ign π .tals ∧ Ign π .ldgs ∧ Ign π .fog ∧ Ign π .funcs ∧ Ign π .timers ∧ Ign π .out := by simp [hW])
    : see π (State.failWait s p q i b) = see π s := by
  rw [State.failWait.eq_def]; split <;> simp [hW]

@[simp ↓] theorem State.tryWait_see (s : State) (p : ℕ) (q : ℕ) (i : ℕ) (w : ℕ) (hW : Ign π .mem ∧ Ign π .poison ∧ Ign π .blocks ∧ Ign π .ctxs ∧ Ign π .ques ∧ Ign π .tiles ∧ Ign π .tlbs ∧ Ign π .parts ∧ Ign π .tals ∧ Ign π .ldgs ∧ Ign π .fog ∧ Ign π .funcs ∧ Ign π .timers ∧ Ign π .out ∧ Ign π .free := by simp [hW])
    : see π (State.tryWait s p q i w) = see π s := by
  rw [State.tryWait.eq_def]
  (repeat' split) <;> (repeat first | with_reducible rfl | refine (State.markPhys_see_of (by with_reducible assumption)).trans ?_ | split | simp [hW])

@[simp ↓] theorem State.registerWaits_see (s : State) (p : ℕ) (q : ℕ) (i : ℕ) (hW : Ign π .mem ∧ Ign π .poison ∧ Ign π .blocks ∧ Ign π .ctxs ∧ Ign π .ques ∧ Ign π .tiles ∧ Ign π .tlbs ∧ Ign π .parts ∧ Ign π .tals ∧ Ign π .ldgs ∧ Ign π .fog ∧ Ign π .funcs ∧ Ign π .timers ∧ Ign π .out ∧ Ign π .free := by simp [hW])
    : see π (State.registerWaits s p q i) = see π s := by
  rw [State.registerWaits.eq_def]; split <;> simp [hW]

@[simp ↓] theorem State.pollMark_see (s : State) (p : ℕ) (q : ℕ) (w : ℕ) (v : Option W64) (hW : Ign π .mem ∧ Ign π .poison ∧ Ign π .blocks ∧ Ign π .ctxs ∧ Ign π .ques ∧ Ign π .tiles ∧ Ign π .tlbs ∧ Ign π .parts ∧ Ign π .tals ∧ Ign π .ldgs ∧ Ign π .fog ∧ Ign π .funcs ∧ Ign π .timers ∧ Ign π .out ∧ Ign π .free := by simp [hW])
    : see π (State.pollMark s p q w v) = see π s := by
  rw [State.pollMark.eq_def]
  (repeat' split) <;> (repeat first | with_reducible rfl | refine (State.markPhys_see_of (by with_reducible assumption)).trans ?_ | split | simp [hW])

@[simp ↓] theorem State.retireAt_see (s : State) (p : ℕ) (q : ℕ) (i : ℕ) (irq : Bool) (hW : Ign π .blocks ∧ Ign π .ques ∧ Ign π .tals ∧ Ign π .funcs ∧ Ign π .timers ∧ Ign π .out := by simp [hW])
    : see π (State.retireAt s p q i irq) = see π s := by
  rw [State.retireAt.eq_def]; dsimp only; split <;> simp [hW]

@[simp ↓] theorem State.releaseDone_see (s : State) (r : Release) (hW : Ign π .blocks ∧ Ign π .ques ∧ Ign π .tals ∧ Ign π .ldgs ∧ Ign π .fog ∧ Ign π .funcs ∧ Ign π .timers ∧ Ign π .out := by simp [hW])
    : see π (State.releaseDone s r) = see π s := by
  rw [State.releaseDone.eq_def]; (repeat' split) <;> simp [hW]

@[simp ↓] theorem State.progress_see (s : State) (e : Eng) (u : ℕ) (busy : Bool) (hW : Ign π .timers := by simp [hW])
    : see π (State.progress s e u busy) = see π s := by
  rw [State.progress.eq_def]; (repeat' split) <;> simp [hW]

@[simp ↓] theorem State.haltQuiet_see (s : State) (p : ℕ) (q : ℕ) (hW : Ign π .ques ∧ Ign π .timers := by simp [hW])
    : see π (State.haltQuiet s p q) = see π s := by
  rw [State.haltQuiet.eq_def]; dsimp only; (repeat' split) <;> simp [hW]

@[simp ↓] theorem State.releaseFails_see (s : State) (r : Release) (b : Bad) (hW : Ign π .mem ∧ Ign π .poison ∧ Ign π .blocks ∧ Ign π .ctxs ∧ Ign π .ques ∧ Ign π .tiles ∧ Ign π .parts ∧ Ign π .tals ∧ Ign π .ldgs ∧ Ign π .fog ∧ Ign π .funcs ∧ Ign π .timers ∧ Ign π .out := by simp [hW])
    : see π (State.releaseFails s r b) = see π s := by
  rw [State.releaseFails.eq_def]; dsimp only; (repeat' split) <;> simp [hW]

@[simp ↓] theorem State.markMax_see (s : State) (r : Release) (hW : Ign π .mem ∧ Ign π .poison ∧ Ign π .blocks ∧ Ign π .ctxs ∧ Ign π .ques ∧ Ign π .tiles ∧ Ign π .parts ∧ Ign π .tals ∧ Ign π .ldgs ∧ Ign π .fog ∧ Ign π .funcs ∧ Ign π .timers ∧ Ign π .out := by simp [hW])
    : see π (State.markMax s r) = see π s := by
  rw [State.markMax.eq_def]; split <;> simp [hW]

@[simp ↓] theorem State.flushReads_see (s : State) (v2 : List HostWr) (hW : Ign π .blocks ∧ Ign π .funcs ∧ Ign π .out ∧ Ign π .free := by simp [hW])
    : see π (State.flushReads s v2).2 = see π s := by
  induction v2 generalizing s with
  | nil => rfl
  | cons w ws ih =>
    rw [State.flushReads]
    split
    · exact (ih _).trans (State.hostRead_see_of (by with_reducible assumption))
    · exact State.hostRead_see_of (by with_reducible assumption)

theorem State.flushReads_see_of {s : State} {v2 : List HostWr} {w1 t1} (hh : (State.flushReads s v2) = (w1, t1)) (hW : Ign π .blocks ∧ Ign π .funcs ∧ Ign π .out ∧ Ign π .free := by simp [hW])
    : see π t1 = see π s := by
  rw [← State.flushReads_see s v2, hh]

@[simp ↓] theorem State.relFlush_see (s : State) (p : ℕ) (q : ℕ) (scope : ℕ) (a : ℕ) (hW : Ign π .blocks ∧ Ign π .funcs ∧ Ign π .out ∧ Ign π .free := by simp [hW])
    : see π (State.relFlush s p q scope a).2 = see π s := by
  rw [State.relFlush.eq_def]; split <;> simp [hW]

theorem State.relFlush_see_of {s : State} {p : ℕ} {q : ℕ} {scope : ℕ} {a : ℕ} {w1 t1} (hh : (State.relFlush s p q scope a) = (w1, t1)) (hW : Ign π .blocks ∧ Ign π .funcs ∧ Ign π .out ∧ Ign π .free := by simp [hW])
    : see π t1 = see π s := by
  rw [← State.relFlush_see s p q scope a, hh]

@[simp ↓] theorem State.retireComplete_see (s : State) (p : ℕ) (q : ℕ) (i : ℕ) (c : Cmd) (hW : Ign π .mem ∧ Ign π .poison ∧ Ign π .blocks ∧ Ign π .ctxs ∧ Ign π .ques ∧ Ign π .rels ∧ Ign π .tiles ∧ Ign π .tlbs ∧ Ign π .parts ∧ Ign π .tals ∧ Ign π .ldgs ∧ Ign π .fog ∧ Ign π .funcs ∧ Ign π .timers ∧ Ign π .out ∧ Ign π .free := by simp [hW])
    : see π (State.retireComplete s p q i c) = see π s := by
  rw [State.retireComplete.eq_def]
  (repeat' split) <;> (repeat first | with_reducible rfl | refine (State.relFlush_see_of (by with_reducible assumption)).trans ?_ | refine (State.markPhys_see_of (by with_reducible assumption)).trans ?_ | split | simp [hW])

@[simp ↓] theorem State.withLocal_see (s : State) (p q op : Nat) (f : Cmd → CmdRef → State) (hf : ∀ c r, see π (f c r) = see π s) :
    see π (State.withLocal s p q op f) = see π s := by
  rw [State.withLocal.eq_def]; (try dsimp only); (repeat' split) <;> simp [hf]

@[simp ↓] theorem State.atomicDev_see (s : State) (addr : ℕ) (op : AtomOp) (bytes : ℕ) (v : ℕ) (hW : Ign π .mem ∧ Ign π .poison ∧ Ign π .tiles := by simp [hW])
    : see π (State.atomicDev s addr op bytes v).2 = see π s := by
  simp [hW, State.atomicDev]

theorem State.atomicDev_see_of {s : State} {addr : ℕ} {op : AtomOp} {bytes : ℕ} {v : ℕ} {w1 t1} (hh : (State.atomicDev s addr op bytes v) = (w1, t1)) (hW : Ign π .mem ∧ Ign π .poison ∧ Ign π .tiles := by simp [hW])
    : see π t1 = see π s := by
  rw [← State.atomicDev_see s addr op bytes v, hh]

@[simp ↓] theorem State.releaseClaims_see (s : State) (dq : ℕ) (hW : Ign π .mxes := by simp [hW])
    : see π (State.releaseClaims s dq) = see π s := by
  simp [hW, State.releaseClaims]

/-! ## Checks -/

@[simp ↓] theorem State.placeRange_see (s : State) (key : ℕ) (p : ℕ) (lc : ℕ) (r : PRange) (held : List PageMap) (hW : Ign π .blocks ∧ Ign π .tlbs ∧ Ign π .funcs ∧ Ign π .out ∧ Ign π .free := by simp [hW])
    : see π (State.placeRange s key p lc r held).2 = see π s := by
  rw [State.placeRange.eq_def]
  (repeat' split) <;> (repeat first | with_reducible rfl | refine (State.xlateRanges_see_of (by with_reducible assumption)).trans ?_ | split | simp [hW])

theorem State.placeRange_see_of {s : State} {key : ℕ} {p : ℕ} {lc : ℕ} {r : PRange} {held : List PageMap} {w1 t1} (hh : (State.placeRange s key p lc r held) = (w1, t1)) (hW : Ign π .blocks ∧ Ign π .tlbs ∧ Ign π .funcs ∧ Ign π .out ∧ Ign π .free := by simp [hW])
    : see π t1 = see π s := by
  rw [← State.placeRange_see s key p lc r held, hh]

@[simp ↓] theorem State.placeRanges_see (s : State) (key : ℕ) (p : ℕ) (lc : ℕ) (v4 : List PRange) (v5 : List PageMap) (hW : Ign π .blocks ∧ Ign π .tlbs ∧ Ign π .funcs ∧ Ign π .out ∧ Ign π .free := by simp [hW])
    : see π (State.placeRanges s key p lc v4 v5).2 = see π s := by
  induction v4 generalizing s v5 with
  | nil => rfl
  | cons r rs ih => rw [State.placeRanges]; (repeat' split) <;> (repeat (first | rfl | refine (State.placeRange_see_of (by with_reducible assumption)).trans ?_ | refine (ih _ _).trans ?_))

theorem State.placeRanges_see_of {s : State} {key : ℕ} {p : ℕ} {lc : ℕ} {v4 : List PRange} {v5 : List PageMap} {w1 t1} (hh : (State.placeRanges s key p lc v4 v5) = (w1, t1)) (hW : Ign π .blocks ∧ Ign π .tlbs ∧ Ign π .funcs ∧ Ign π .out ∧ Ign π .free := by simp [hW])
    : see π t1 = see π s := by
  rw [← State.placeRanges_see s key p lc v4 v5, hh]

/-! ## Operands -/

@[simp ↓] theorem State.putElem_see (s : State) (a : ℕ) (b : ℕ) (i : ℕ) (v : ℕ) (hW : Ign π .mem ∧ Ign π .poison ∧ Ign π .tiles := by simp [hW])
    : see π (State.putElem s a b i v) = see π s := by
  simp [hW, State.putElem]

/-! ## Fill -/

@[simp ↓] theorem State.failTile_see (s : State) (r : CmdRef) (b : Bad) (t : ℕ) (hW : Ign π .mem ∧ Ign π .poison ∧ Ign π .blocks ∧ Ign π .ctxs ∧ Ign π .ques ∧ Ign π .tiles ∧ Ign π .chains ∧ Ign π .parts ∧ Ign π .tals ∧ Ign π .ldgs ∧ Ign π .fog ∧ Ign π .funcs ∧ Ign π .timers ∧ Ign π .out := by simp [hW])
    : see π (State.failTile s r b t) = see π s := by
  simp [hW, State.failTile]

/-! ## Matrix -/

@[simp ↓] theorem State.draw16_see (s : State) (t : ℕ) (hW : Ign π .free := by simp [hW])
    : see π (State.draw16 s t).2 = see π s := by
  simp [hW, State.draw16]

theorem State.draw16_see_of {s : State} {t : ℕ} {w1 t1} (hh : (State.draw16 s t) = (w1, t1)) (hW : Ign π .free := by simp [hW])
    : see π t1 = see π s := by
  rw [← State.draw16_see s t, hh]

@[simp ↓] theorem execReseed_see (m : Master) (t : Fin 48) (s : State) (hW : Ign π .tiles := by simp [hW])
    : see π (stateOf (execReseed m t s) s) = see π s := by
  simp [hW, execReseed]

@[simp ↓] theorem State.issueRows_see (s : State) (t : ℕ) (p : ℕ) (x : PassOp) (c : Cmd) (hW : Ign π .blocks ∧ Ign π .mxes ∧ Ign π .tals ∧ Ign π .timers := by simp [hW])
    : see π (State.issueRows s t p x c) = see π s := by
  simp [hW, State.issueRows]

@[simp ↓] theorem State.foldRow_see (s : State) (t : ℕ) (sl : ℕ) (r : ℕ) (strict : Bool) (row : SlotRow) (hW : Ign π .mem ∧ Ign π .poison ∧ Ign π .tiles := by simp [hW])
    : see π (State.foldRow s t sl r strict row).1 = see π s := by
  rw [State.foldRow.eq_def]
  refine (foldl_see _ (fun _ _ => by simp only [hW, and_self, State.putElem_see]) _ _).trans ?_
  split
  · rfl
  · exact State.writeBytes_see _ _ _

theorem State.foldRow_see_of {s : State} {t : ℕ} {sl : ℕ} {r : ℕ} {strict : Bool} {row : SlotRow} {w1 t1} (hh : (State.foldRow s t sl r strict row) = (w1, t1)) (hW : Ign π .mem ∧ Ign π .poison ∧ Ign π .tiles := by simp [hW])
    : see π w1 = see π s := by
  rw [← State.foldRow_see s t sl r strict row, hh]

@[simp ↓] theorem State.down64_see (s : State) (t : ℕ) (near : Bool) (strict : Bool) (v : BitVec 36) (hW : Ign π .free := by simp [hW])
    : see π (State.down64 s t near strict v).2 = see π s := by
  simp [hW, State.down64]

theorem State.down64_see_of {s : State} {t : ℕ} {near : Bool} {strict : Bool} {v : BitVec 36} {w1 t1} (hh : (State.down64 s t near strict v) = (w1, t1)) (hW : Ign π .free := by simp [hW])
    : see π t1 = see π s := by
  rw [← State.down64_see s t near strict v, hh]

@[simp ↓] theorem State.downRow_see (s : State) (t : ℕ) (near : Bool) (strict : Bool) (row : SlotRow) (hW : Ign π .free := by simp [hW])
    : see π (State.downRow s t near strict row).2 = see π s := by
  simp [hW, State.downRow]

theorem State.downRow_see_of {s : State} {t : ℕ} {near : Bool} {strict : Bool} {row : SlotRow} {w1 t1} (hh : (State.downRow s t near strict row) = (w1, t1)) (hW : Ign π .free := by simp [hW])
    : see π t1 = see π s := by
  rw [← State.downRow_see s t near strict row, hh]

@[simp ↓] theorem State.downFold_see (s : State) (t : ℕ) (a : ℕ) (near : Bool) (strict : Bool) (hW : Ign π .mem ∧ Ign π .poison ∧ Ign π .tiles ∧ Ign π .free := by simp [hW])
    : see π (State.downFold s t a near strict) = see π s := by
  simp [hW, State.downFold]

@[simp ↓] theorem State.addElem_see (s : State) (t : ℕ) (acc : Bool) (strict : Bool) (comp : Bool) (a : BitVec 36) (e : BitVec 36) (x : Num) (hW : Ign π .free := by simp [hW])
    : see π (State.addElem s t acc strict comp a e x).2 = see π s := by
  simp [hW, State.addElem]

theorem State.addElem_see_of {s : State} {t : ℕ} {acc : Bool} {strict : Bool} {comp : Bool} {a : BitVec 36} {e : BitVec 36} {x : Num} {w1 t1} (hh : (State.addElem s t acc strict comp a e x) = (w1, t1)) (hW : Ign π .free := by simp [hW])
    : see π t1 = see π s := by
  rw [← State.addElem_see s t acc strict comp a e x, hh]

@[simp ↓] theorem State.addCols_see (s : State) (t : ℕ) (acc : Bool) (strict : Bool) (comp : Bool) (h : ℤ) (xs : List Num) (row : SlotRow) (err : SlotRow) (hW : Ign π .free := by simp [hW])
    : see π (State.addCols s t acc strict comp h xs row err).2 = see π s := by
  simp [hW, State.addCols]

theorem State.addCols_see_of {s : State} {t : ℕ} {acc : Bool} {strict : Bool} {comp : Bool} {h : ℤ} {xs : List Num} {row : SlotRow} {err : SlotRow} {w1 t1} (hh : (State.addCols s t acc strict comp h xs row err) = (w1, t1)) (hW : Ign π .free := by simp [hW])
    : see π t1 = see π s := by
  rw [← State.addCols_see s t acc strict comp h xs row err, hh]

@[simp ↓] theorem State.rowAdd_see (s : State) (t : ℕ) (sl : ℕ) (r : ℕ) (k : ℕ) (acc : Bool) (strict : Bool) (comp : Bool) (xs : List Num) (w : Who) (hW : Ign π .mem ∧ Ign π .poison ∧ Ign π .blocks ∧ Ign π .tiles ∧ Ign π .mxes ∧ Ign π .tals ∧ Ign π .free := by simp [hW])
    : see π (State.rowAdd s t sl r k acc strict comp xs w) = see π s := by
  rw [State.rowAdd.eq_def] <;> (try dsimp only) <;> first | (simp [hW, apply_ite (see π), apply_ite Prod.fst, apply_ite Prod.snd, foldl_see, foldl_fst_see, foldl_snd_see]; done) | ((repeat' split) <;> (first | with_reducible rfl | (simp [hW, apply_ite (see π), apply_ite Prod.fst, apply_ite Prod.snd, foldl_see, foldl_fst_see, foldl_snd_see]; done) | (repeat (first | with_reducible rfl | refine (State.foldRow_see_of (by with_reducible assumption)).trans ?_ | refine (State.addCols_see_of (by with_reducible assumption)).trans ?_ | refine (State.downRow_see_of (by with_reducible assumption)).trans ?_ | split | simp [hW, apply_ite (see π), apply_ite Prod.fst, apply_ite Prod.snd, foldl_see, foldl_fst_see, foldl_snd_see]))); done)

@[simp ↓] theorem State.saveResult_see (s : State) (t : ℕ) (r : Byte) (hW : Ign π .mxes := by simp [hW])
    : see π (State.saveResult s t r) = see π s := by
  rw [State.saveResult.eq_def]; simp [hW]

@[simp ↓] theorem State.saveCmd_see (s : State) (m : Master) (t : ℕ) (restore : Bool) (slots : BitVec 2) (q : BitVec 11) (hW : Ign π .mxes := by simp [hW])
    : see π (State.saveCmd s m t restore slots q) = see π s := by
  simp [hW, State.saveCmd]

@[simp ↓] theorem execMxeSave_see (m : Master) (t : Fin 48) (slots : BitVec 2) (s : State) (hW : Ign π .mxes := by simp [hW])
    : see π (stateOf (execMxeSave m t slots s) s) = see π s := by
  simp [hW, execMxeSave]

@[simp ↓] theorem execMxeRestore_see (m : Master) (t : Fin 48) (slots : BitVec 2) (q : BitVec 11) (s : State) (hW : Ign π .mxes := by simp [hW])
    : see π (stateOf (execMxeRestore m t slots q s) s) = see π s := by
  simp [hW, execMxeRestore]

@[simp ↓] theorem State.restoreSlot_see (s : State) (t : ℕ) (a : ℕ) (slots : BitVec 2) (incl : ℕ) (q : ℕ) (i : ℕ) (hW : Ign π .mem ∧ Ign π .poison ∧ Ign π .tiles ∧ Ign π .mxes := by simp [hW])
    : see π (State.restoreSlot s t a slots incl q i) = see π s := by
  simp [hW, State.restoreSlot]

@[simp ↓] theorem State.restoreFails_see (s : State) (t : ℕ) (slots : BitVec 2) (hW : Ign π .mxes := by simp [hW])
    : see π (State.restoreFails s t slots) = see π s := by
  simp [hW, State.restoreFails]

@[simp ↓] theorem State.restoreFrom_see (s : State) (t : ℕ) (o : SaveOp) (hW : Ign π .mem ∧ Ign π .poison ∧ Ign π .tiles ∧ Ign π .mxes ∧ Ign π .free := by simp [hW])
    : see π (State.restoreFrom s t o) = see π s := by
  rw [State.restoreFrom.eq_def]; dsimp only; (repeat' split) <;> simp [hW]

@[simp ↓] theorem State.saveRestoreDone_see (s : State) (t : ℕ) (ok : Bool) (hW : Ign π .mem ∧ Ign π .poison ∧ Ign π .blocks ∧ Ign π .tiles ∧ Ign π .mxes ∧ Ign π .tals ∧ Ign π .funcs ∧ Ign π .out ∧ Ign π .free := by simp [hW])
    : see π (State.saveRestoreDone s t ok) = see π s := by
  rw [State.saveRestoreDone.eq_def]; dsimp only; (repeat' split) <;> simp [hW]

/-! ## Quantiser -/

@[simp ↓] theorem State.heldCodes_see (s : State) (p : ℕ) (held : List PageMap) (va : ℕ) (b : ℕ) (codes : List ℕ) (hW : Ign π .mem ∧ Ign π .poison ∧ Ign π .blocks ∧ Ign π .tiles ∧ Ign π .tals ∧ Ign π .funcs ∧ Ign π .out ∧ Ign π .free := by simp [hW])
    : see π (State.heldCodes s p held va b codes) = see π s := by
  simp [hW, State.heldCodes]

@[simp ↓] theorem State.rndFor_see (s : State) (t : ℕ) (code : ℕ) (hW : Ign π .free := by simp [hW])
    : see π (State.rndFor s t code).2 = see π s := by
  simp [hW, State.rndFor]

theorem State.rndFor_see_of {s : State} {t : ℕ} {code : ℕ} {w1 t1} (hh : (State.rndFor s t code) = (w1, t1)) (hW : Ign π .free := by simp [hW])
    : see π t1 = see π s := by
  rw [← State.rndFor_see s t code, hh]

@[simp ↓] theorem State.convRow_see (s : State) (t : ℕ) (fmt : ℕ) (zp : ℕ) (code : ℕ) (fast : Bool) (v6 : List Num) (hW : Ign π .free := by simp [hW])
    : see π (State.convRow s t fmt zp code fast v6).2 = see π s := by
  induction v6 generalizing s with
  | nil => rfl
  | cons x xs ih => rw [State.convRow]; simp [hW, ih]

theorem State.convRow_see_of {s : State} {t : ℕ} {fmt : ℕ} {zp : ℕ} {code : ℕ} {fast : Bool} {v6 : List Num} {w1 t1} (hh : (State.convRow s t fmt zp code fast v6) = (w1, t1)) (hW : Ign π .free := by simp [hW])
    : see π t1 = see π s := by
  rw [← State.convRow_see s t fmt zp code fast v6, hh]

@[simp ↓] theorem State.watchSkip_see (s : State) (t : ℕ) (c : Cmd) (hW : Ign π .wchs := by simp [hW])
    : see π (State.watchSkip s t c) = see π s := by
  simp [hW, State.watchSkip]

@[simp ↓] theorem State.loseDrain_see (s : State) (t : ℕ) (d : DrainOp) (c : Cmd) (hW : Ign π .blocks ∧ Ign π .tals ∧ Ign π .wchs ∧ Ign π .fog ∧ Ign π .timers ∧ Ign π .out := by simp [hW])
    : see π (State.loseDrain s t d c) = see π s := by
  rw [State.loseDrain.eq_def]; (repeat' split) <;> simp [hW]

@[simp ↓] theorem State.watchDrain_see (s : State) (t : ℕ) (c : Cmd) (st : DrainStat) (hW : Ign π .wchs ∧ Ign π .fog ∧ Ign π .timers ∧ Ign π .out := by simp [hW])
    : see π (State.watchDrain s t c st) = see π s := by
  simp [hW, State.watchDrain]

@[simp ↓] theorem State.failDrain_see (s : State) (t : ℕ) (d : DrainOp) (c : Cmd) (b : Bad) (hW : Ign π .mem ∧ Ign π .poison ∧ Ign π .blocks ∧ Ign π .ctxs ∧ Ign π .ques ∧ Ign π .tiles ∧ Ign π .mxes ∧ Ign π .chains ∧ Ign π .parts ∧ Ign π .tals ∧ Ign π .ldgs ∧ Ign π .wchs ∧ Ign π .fog ∧ Ign π .funcs ∧ Ign π .timers ∧ Ign π .out := by simp [hW])
    : see π (State.failDrain s t d c b) = see π s := by
  simp [hW, State.failDrain]

@[simp ↓] theorem State.setDrain_see (s : State) (t : ℕ) (d : DrainOp) (hW : Ign π .mxes := by simp [hW])
    : see π (State.setDrain s t d) = see π s := by
  rw [State.setDrain.eq_def]; simp [hW]

@[simp ↓] theorem State.writeChannels_see (s : State) (t : ℕ) (p : ℕ) (d : DrainOp) (c : Cmd) (hW : Ign π .mem ∧ Ign π .poison ∧ Ign π .blocks ∧ Ign π .tiles ∧ Ign π .tals ∧ Ign π .funcs ∧ Ign π .out ∧ Ign π .free := by simp [hW])
    : see π (State.writeChannels s t p d c).1 = see π s := by
  simp [hW, State.writeChannels]

theorem State.writeChannels_see_of {s : State} {t : ℕ} {p : ℕ} {d : DrainOp} {c : Cmd} {w1 t1} (hh : (State.writeChannels s t p d c) = (t1, w1)) (hW : Ign π .mem ∧ Ign π .poison ∧ Ign π .blocks ∧ Ign π .tiles ∧ Ign π .tals ∧ Ign π .funcs ∧ Ign π .out ∧ Ign π .free := by simp [hW])
    : see π t1 = see π s := by
  rw [← State.writeChannels_see s t p d c, hh]

@[simp ↓] theorem State.drainReadRow_see (s : State) (t : ℕ) (p : ℕ) (d : DrainOp) (c : Cmd) (i : ℕ) (hW : Ign π .mem ∧ Ign π .poison ∧ Ign π .blocks ∧ Ign π .ctxs ∧ Ign π .ques ∧ Ign π .tiles ∧ Ign π .mxes ∧ Ign π .chains ∧ Ign π .parts ∧ Ign π .tals ∧ Ign π .ldgs ∧ Ign π .wchs ∧ Ign π .fog ∧ Ign π .funcs ∧ Ign π .timers ∧ Ign π .out ∧ Ign π .free := by simp [hW])
    : see π (State.drainReadRow s t p d c i) = see π s := by
  simp [hW, State.drainReadRow]

/-! ## Vector -/

@[simp ↓] theorem State.heldPutElem_see (s : State) (p : ℕ) (held : List PageMap) (va : ℕ) (b : ℕ) (i : ℕ) (v : ℕ) (hW : Ign π .mem ∧ Ign π .poison ∧ Ign π .blocks ∧ Ign π .tiles ∧ Ign π .tals ∧ Ign π .funcs ∧ Ign π .out ∧ Ign π .free := by simp [hW])
    : see π (State.heldPutElem s p held va b i v) = see π s := by
  simp [hW, State.heldPutElem]

@[simp ↓] theorem State.laneRnd_see (s : State) (t : ℕ) (code : ℕ) (hW : Ign π .free := by simp [hW])
    : see π (State.laneRnd s t code).2 = see π s := by
  simp [hW, State.laneRnd]

theorem State.laneRnd_see_of {s : State} {t : ℕ} {code : ℕ} {w1 t1} (hh : (State.laneRnd s t code) = (w1, t1)) (hW : Ign π .free := by simp [hW])
    : see π t1 = see π s := by
  rw [← State.laneRnd_see s t code, hh]

theorem elemStep_see (t p : Nat) (c : Cmd) (pr : List W64) (w : Nat) (sel : Bool) (f : LaneFn)
    (hf : ∀ s r k, see π (f s r k).2 = see π s) (acc : ChunkOut × State) (rk : Nat × Nat) (hW : Ign π .free := by simp [hW])
    :
    see π (elemStep t p c pr w sel f acc rk).2 = see π acc.2 := by
  rw [elemStep.eq_def]; (try dsimp only); (repeat' split) <;> simp [hW, hf]

theorem elemChunk_see (t p : Nat) (c : Cmd) (pr : List W64) (w n : Nat) (sel : Bool) (f : LaneFn)
    (hf : ∀ s r k, see π (f s r k).2 = see π s) (s : State) (hW : Ign π .free := by simp [hW])
    : see π (elemChunk t p c pr w n sel f s).2 = see π s := by
  rw [elemChunk.eq_def]; exact foldl_snd_see _ (fun a x => elemStep_see t p c pr w sel f hf a x) _ _

@[simp ↓] theorem cmpChunk_see (p : ℕ) (c : Cmd) (pr : List W64) (w : ℕ) (n : ℕ) (op : Cmp) (s : State) : see π (cmpChunk p c pr w n op s).2 = see π s := by
  rw [cmpChunk.eq_def]

theorem cmpChunk_see_of {p : ℕ} {c : Cmd} {pr : List W64} {w : ℕ} {n : ℕ} {op : Cmp} {s : State} {w1 t1} (hh : (cmpChunk p c pr w n op s) = (w1, t1)) : see π t1 = see π s := by
  rw [← cmpChunk_see p c pr w n op s, hh]

theorem redChunk_see (t p : Nat) (c : Cmd) (pr : List W64) (w n : Nat) (f : State → List Num → Lane × State)
    (hf : ∀ s xs, see π (f s xs).2 = see π s) (s : State) (hW : Ign π .free := by simp [hW])
    : see π (redChunk t p c pr w n f s).2 = see π s := by
  rw [redChunk.eq_def]; exact foldl_snd_see _ (fun a x => by simp [hW, hf]) _ _

@[simp ↓] theorem fnBasic_see (op : Basic) (t p : Nat) (c : Cmd) (pr : List W64) (w : Nat) (s : State) (r k : Nat) (hW : Ign π .free := by simp [hW])
    :
    see π (fnBasic op t p c pr w s r k).2 = see π s := by
  rw [fnBasic.eq_def]; simp [hW]

@[simp ↓] theorem fnFill_see (t : Nat) (c : Cmd) (w : Nat) (s : State) (r k : Nat) (hW : Ign π .free := by simp [hW])
    :
    see π (fnFill t c w s r k).2 = see π s := by
  rw [fnFill.eq_def]; simp [hW]

@[simp ↓] theorem fnSel_see (t p : Nat) (c : Cmd) (pr : List W64) (w : Nat) (s : State) (r k : Nat) (hW : Ign π .free := by simp [hW])
    :
    see π (fnSel t p c pr w s r k).2 = see π s := by
  rw [fnSel.eq_def]; (try dsimp only); (repeat' split) <;> simp [hW]

@[simp ↓] theorem fnFunc_see (op : Func1) (p : Nat) (c : Cmd) (pr : List W64) (w : Nat) (s : State) (r k : Nat) (hW : Ign π .free := by simp [hW])
    :
    see π (fnFunc op p c pr w s r k).2 = see π s := by
  rw [fnFunc.eq_def]; (try dsimp only); (repeat' split) <;> simp [hW]

@[simp ↓] theorem redSum_see (c : Cmd) (v1 : State) (v2 : List Num) (hW : Ign π .free := by simp [hW])
    : see π (redSum c v1 v2).2 = see π v1 := by
  rw [redSum.eq_def]; simp [hW]

theorem redSum_see_of {c : Cmd} {v1 : State} {v2 : List Num} {w1 t1} (hh : (redSum c v1 v2) = (w1, t1)) (hW : Ign π .free := by simp [hW])
    : see π t1 = see π v1 := by
  rw [← redSum_see c v1 v2, hh]

@[simp ↓] theorem redMax_see (c : Cmd) (mag : Bool) (v2 : State) (v3 : List Num) : see π (redMax c mag v2 v3).2 = see π v2 := by
  rw [redMax.eq_def]

theorem redMax_see_of {c : Cmd} {mag : Bool} {v2 : State} {v3 : List Num} {w1 t1} (hh : (redMax c mag v2 v3) = (w1, t1)) : see π t1 = see π v2 := by
  rw [← redMax_see c mag v2 v3, hh]

@[simp ↓] theorem chunkOf_see (t : ℕ) (p : ℕ) (c : Cmd) (pr : List W64) (w : ℕ) (n : ℕ) (s : State) (hW : Ign π .free := by simp [hW])
    : see π (chunkOf t p c pr w n s).2 = see π s := by
  rw [chunkOf.eq_def]; try dsimp only
  split <;> first | exact elemChunk_see _ _ _ _ _ _ _ _ (by simp [hW]) _ | exact redChunk_see _ _ _ _ _ _ _ (by simp [hW]) _ | simp [hW]

theorem chunkOf_see_of {t : ℕ} {p : ℕ} {c : Cmd} {pr : List W64} {w : ℕ} {n : ℕ} {s : State} {w1 t1} (hh : (chunkOf t p c pr w n s) = (w1, t1)) (hW : Ign π .free := by simp [hW])
    : see π t1 = see π s := by
  rw [← chunkOf_see t p c pr w n s, hh]

@[simp ↓] theorem State.writeCells_see (s : State) (p : ℕ) (c : Cmd) (pr : List W64) (w : ℕ) (cells : List Cell) (hW : Ign π .mem ∧ Ign π .poison ∧ Ign π .blocks ∧ Ign π .tiles ∧ Ign π .tals ∧ Ign π .funcs ∧ Ign π .out ∧ Ign π .free := by simp [hW])
    : see π (State.writeCells s p c pr w cells) = see π s := by
  simp [hW, State.writeCells]

@[simp ↓] theorem State.writeStat_see (s : State) (t : ℕ) (p : ℕ) (c : Cmd) (o : VxeOp) (hW : Ign π .mem ∧ Ign π .poison ∧ Ign π .blocks ∧ Ign π .tiles ∧ Ign π .tals ∧ Ign π .funcs ∧ Ign π .out ∧ Ign π .free := by simp [hW])
    : see π (State.writeStat s t p c o) = see π s := by
  simp [hW, State.writeStat]

@[simp ↓] theorem State.failRun_see (s : State) (t : ℕ) (p : ℕ) (c : Cmd) (o : VxeOp) (b : Bad) (hW : Ign π .mem ∧ Ign π .poison ∧ Ign π .blocks ∧ Ign π .ctxs ∧ Ign π .ques ∧ Ign π .tiles ∧ Ign π .vxes ∧ Ign π .chains ∧ Ign π .parts ∧ Ign π .tals ∧ Ign π .ldgs ∧ Ign π .fog ∧ Ign π .funcs ∧ Ign π .timers ∧ Ign π .out ∧ Ign π .free := by simp [hW])
    : see π (State.failRun s t p c o b) = see π s := by
  simp [hW, State.failRun]

@[simp ↓] theorem State.runChunk_see (s : State) (t : ℕ) (op : ℕ) (hW : Ign π .mem ∧ Ign π .poison ∧ Ign π .blocks ∧ Ign π .ctxs ∧ Ign π .ques ∧ Ign π .tiles ∧ Ign π .vxes ∧ Ign π .chains ∧ Ign π .parts ∧ Ign π .tals ∧ Ign π .ldgs ∧ Ign π .fog ∧ Ign π .funcs ∧ Ign π .timers ∧ Ign π .out ∧ Ign π .free := by simp [hW])
    : see π (State.runChunk s t op) = see π s := by
  rw [State.runChunk.eq_def]
  split
  · rfl
  · try dsimp only; (repeat' split) <;> simp [hW]

/-! ## Books -/

@[simp ↓] theorem State.failLoad_see (s : State) (t : ℕ) (r : CmdRef) (b : Bad) (hW : Ign π .mem ∧ Ign π .poison ∧ Ign π .blocks ∧ Ign π .ctxs ∧ Ign π .ques ∧ Ign π .tiles ∧ Ign π .mxes ∧ Ign π .chains ∧ Ign π .parts ∧ Ign π .tals ∧ Ign π .ldgs ∧ Ign π .fog ∧ Ign π .funcs ∧ Ign π .timers ∧ Ign π .out := by simp [hW])
    : see π (State.failLoad s t r b) = see π s := by
  simp [hW, State.failLoad]

@[simp ↓] theorem State.rematch_see (s : State) (t : ℕ) (slot : ℕ) (now : BookMatch) (hW : Ign π .ques ∧ Ign π .chains := by simp [hW])
    : see π (State.rematch s t slot now) = see π s := by
  rw [State.rematch.eq_def]; dsimp only
  simp [hW]

@[simp ↓] theorem State.cancelBook_see (s : State) (t : ℕ) (o : BookOp) (hW : Ign π .ques ∧ Ign π .mxes ∧ Ign π .chains := by simp [hW])
    : see π (State.cancelBook s t o) = see π s := by
  rw [State.cancelBook.eq_def]
  try dsimp only; split <;> simp [hW]

@[simp ↓] theorem State.sumFree_see (s : State) (v1 : ℕ) (v2 : List Num) (hW : Ign π .free := by simp [hW])
    : see π (State.sumFree s v1 v2).2 = see π s := by
  fun_induction State.sumFree s v1 v2 with
  | case4 => simp_all +zetaDelta
  | _ => rfl

theorem State.sumFree_see_of {s : State} {v1 : ℕ} {v2 : List Num} {w1 t1} (hh : (State.sumFree s v1 v2) = (w1, t1)) (hW : Ign π .free := by simp [hW])
    : see π t1 = see π s := by
  rw [← State.sumFree_see s v1 v2, hh]

@[simp ↓] theorem State.dist2_see (s : State) (v : List Num) (w : List Num) (hW : Ign π .free := by simp [hW])
    : see π (State.dist2 s v w).2 = see π s := by
  simp [hW, State.dist2]

theorem State.dist2_see_of {s : State} {v : List Num} {w : List Num} {w1 t1} (hh : (State.dist2 s v w) = (w1, t1)) (hW : Ign π .free := by simp [hW])
    : see π t1 = see π s := by
  rw [← State.dist2_see s v w, hh]

@[simp ↓] theorem State.nearest_see (s : State) (v : List Num) (entries : List (List Num)) (hW : Ign π .free := by simp [hW])
    : see π (State.nearest s v entries).2 = see π s := by
  rw [State.nearest.eq_def]
  refine foldl_snd_see _ ?_ _ _
  intro a e
  try dsimp only
  split <;> simp [hW]

theorem State.nearest_see_of {s : State} {v : List Num} {entries : List (List Num)} {w1 t1} (hh : (State.nearest s v entries) = (w1, t1)) (hW : Ign π .free := by simp [hW])
    : see π t1 = see π s := by
  rw [← State.nearest_see s v entries, hh]

@[simp ↓] theorem State.vxeDone_see (s : State) (t : ℕ) (o : VxeOp) (hW : Ign π .blocks ∧ Ign π .ques ∧ Ign π .vxes ∧ Ign π .chains ∧ Ign π .tals ∧ Ign π .ldgs ∧ Ign π .fog ∧ Ign π .timers ∧ Ign π .out := by simp [hW])
    : see π (State.vxeDone s t o) = see π s := by
  simp [hW, State.vxeDone]

@[simp ↓] theorem State.vxeFail_see (s : State) (t : ℕ) (o : VxeOp) (b : Bad) (hW : Ign π .mem ∧ Ign π .poison ∧ Ign π .blocks ∧ Ign π .ctxs ∧ Ign π .ques ∧ Ign π .tiles ∧ Ign π .vxes ∧ Ign π .chains ∧ Ign π .parts ∧ Ign π .tals ∧ Ign π .ldgs ∧ Ign π .fog ∧ Ign π .funcs ∧ Ign π .timers ∧ Ign π .out := by simp [hW])
    : see π (State.vxeFail s t o b) = see π s := by
  simp [hW, State.vxeFail]

@[simp ↓] theorem buildStep_see (g : ℕ) (tol : ℕ) (it : ℕ) (samples : List (List Num)) (b : Build) (s : State) (hW : Ign π .free := by simp [hW])
    : see π (buildStep g tol it samples b s).2 = see π s := by
  rw [buildStep.eq_def]
  try dsimp only
  have h1 : ∀ (es : List (List Num)) (l : List (List Num)) (a : List (Nat × Num) × State),
      see π (l.foldl (fun (a : List (Nat × Num) × State) v =>
        (a.1 ++ [(a.2.nearest v es).1], (a.2.nearest v es).2)) a).2 = see π a.2 :=
    fun _ => foldl_snd_see _ (fun _ _ => by simp [hW])
  have h2 : ∀ (F : State → List Num → Nat → Nat → Num × State) (hF : ∀ s m k j, see π (F s m k j).2 = see π s)
      (f : List (List Nat) × Nat × State → List Nat × Nat → List (List Nat) × Nat × State)
      (hf : ∀ a e, see π (f a e).2.2 = see π a.2.2) (l : List (List Nat × Nat)) (a : List (List Nat) × Nat × State),
      see π (l.foldl f a).2.2 = see π a.2.2 := by
    intro F hF f hf l
    induction l with
    | nil => intro a; rfl
    | cons x l ih => intro a; rw [List.foldl_cons, ih, hf]
  refine (h2 (fun s m k j => s.sumFree k m) (fun _ _ _ _ => by simp [hW]) _ ?_ _ _).trans (by simp [hW, h1])
  intro a e
  split
  · rfl
  · exact (foldl_snd_see _ (fun _ _ => by simp [hW]) _ _)

theorem buildStep_see_of {g : ℕ} {tol : ℕ} {it : ℕ} {samples : List (List Num)} {b : Build} {s : State} {w1 t1} (hh : (buildStep g tol it samples b s) = (w1, t1)) (hW : Ign π .free := by simp [hW])
    : see π t1 = see π s := by
  rw [← buildStep_see g tol it samples b s, hh]

@[simp ↓] theorem buildLoop_see (g : ℕ) (tol : ℕ) (samples : List (List Num)) (v3 : ℕ) (v4 : ℕ) (v5 : Build) (v6 : State) (hW : Ign π .free := by simp [hW])
    : see π (buildLoop g tol samples v3 v4 v5 v6).2 = see π v6 := by
  induction v3 generalizing v4 v5 v6 with
  | zero => rfl
  | succ n ih => rw [buildLoop]; (try dsimp only); split <;> simp [hW, ih]

theorem buildLoop_see_of {g : ℕ} {tol : ℕ} {samples : List (List Num)} {v3 : ℕ} {v4 : ℕ} {v5 : Build} {v6 : State} {w1 t1} (hh : (buildLoop g tol samples v3 v4 v5 v6) = (w1, t1)) (hW : Ign π .free := by simp [hW])
    : see π t1 = see π v6 := by
  rw [← buildLoop_see g tol samples v3 v4 v5 v6, hh]

/-! ## Streams -/

@[simp ↓] theorem State.stallClock_see (s : State) (t : ℕ) (sid : ℕ) (fresh : Bool) (hW : Ign π .timers := by simp [hW])
    : see π (State.stallClock s t sid fresh) = see π s := by
  simp [hW, State.stallClock]

@[simp ↓] theorem State.setStream_see (s : State) (t : ℕ) (sid : ℕ) (x : Stream) (hW : Ign π .stes := by simp [hW])
    : see π (State.setStream s t sid x) = see π s := by
  rw [State.setStream.eq_def]; simp [hW]

@[simp ↓] theorem State.abortRing_see (s : State) (t : ℕ) (sid : ℕ) (hW : Ign π .tiles := by simp [hW])
    : see π (State.abortRing s t sid) = see π s := by
  simp [hW, State.abortRing]

@[simp ↓] theorem State.faultStream_see (s : State) (t : ℕ) (sid : ℕ) (off : ℕ) (b : Bad) (hW : Ign π .mem ∧ Ign π .poison ∧ Ign π .blocks ∧ Ign π .ctxs ∧ Ign π .tiles ∧ Ign π .stes ∧ Ign π .parts ∧ Ign π .tals ∧ Ign π .ldgs ∧ Ign π .fog ∧ Ign π .funcs ∧ Ign π .timers ∧ Ign π .out := by simp [hW])
    : see π (State.faultStream s t sid off b) = see π s := by
  rw [State.faultStream.eq_def]; dsimp only; split <;> simp [hW]

@[simp ↓] theorem State.notPresentNotice_see (s : State) (p : ℕ) (t : ℕ) (sid : ℕ) (x : Stream) (va : ℕ) (hW : Ign π .blocks ∧ Ign π .tals ∧ Ign π .out := by simp [hW])
    : see π (State.notPresentNotice s p t sid x va) = see π s := by
  simp [hW, State.notPresentNotice]

@[simp ↓] theorem State.haltStream_see (s : State) (t : ℕ) (sid : ℕ) (p : ℕ) (va : ℕ) (hW : Ign π .blocks ∧ Ign π .stes ∧ Ign π .tals ∧ Ign π .ldgs ∧ Ign π .fog ∧ Ign π .timers ∧ Ign π .out := by simp [hW])
    : see π (State.haltStream s t sid p va) = see π s := by
  simp [hW, State.haltStream]

@[simp ↓] theorem State.issueNext_see (s : State) (t : ℕ) (sid : ℕ) (hW : Ign π .mem ∧ Ign π .poison ∧ Ign π .blocks ∧ Ign π .ctxs ∧ Ign π .tiles ∧ Ign π .stes ∧ Ign π .tlbs ∧ Ign π .parts ∧ Ign π .tals ∧ Ign π .ldgs ∧ Ign π .fog ∧ Ign π .funcs ∧ Ign π .timers ∧ Ign π .out ∧ Ign π .free := by simp [hW])
    : see π (State.issueNext s t sid) = see π s := by
  rw [State.issueNext.eq_def]
  try dsimp only
  (repeat' split) <;> (repeat (first | rfl | refine (State.xlatePage_see_of (by with_reducible assumption)).trans ?_ | simp [hW]))

@[simp ↓] theorem State.steDone_see (s : State) (t : ℕ) (r : CmdRef) (hW : Ign π .blocks ∧ Ign π .ques ∧ Ign π .stes ∧ Ign π .chains ∧ Ign π .tals ∧ Ign π .ldgs ∧ Ign π .fog ∧ Ign π .timers ∧ Ign π .out := by simp [hW])
    : see π (State.steDone s t r) = see π s := by
  simp [hW, State.steDone]

@[simp ↓] theorem State.advance_see (s : State) (t : ℕ) (sid : ℕ) (hW : Ign π .mem ∧ Ign π .poison ∧ Ign π .tiles ∧ Ign π .stes ∧ Ign π .timers := by simp [hW])
    : see π (State.advance s t sid) = see π s := by
  simp [hW, State.advance]

@[simp ↓] theorem State.ringPut_see (s : State) (t : ℕ) (x : Stream) (off : ℕ) (bs : List Byte) (hW : Ign π .mem ∧ Ign π .poison ∧ Ign π .tiles := by simp [hW])
    : see π (State.ringPut s t x off bs) = see π s := by
  rw [State.ringPut.eq_def]
  refine foldl_fst_see _ (fun a iv => ?_) _ _
  exact foldl_see _ (fun s i => by split <;> simp [hW]) _ _

@[simp ↓] theorem State.streamReply_see (s : State) (t : ℕ) (sid : ℕ) (seq : ℕ) (reply : FarReply) (hW : Ign π .mem ∧ Ign π .poison ∧ Ign π .blocks ∧ Ign π .ctxs ∧ Ign π .tiles ∧ Ign π .stes ∧ Ign π .parts ∧ Ign π .tals ∧ Ign π .ldgs ∧ Ign π .fog ∧ Ign π .funcs ∧ Ign π .timers ∧ Ign π .out ∧ Ign π .free := by simp [hW])
    : see π (State.streamReply s t sid seq reply) = see π s := by
  rw [State.streamReply.eq_def]; dsimp only; (repeat' split) <;> simp [hW]

@[simp ↓] theorem State.retryStream_see (s : State) (t : ℕ) (sid : ℕ) (hW : Ign π .mem ∧ Ign π .poison ∧ Ign π .blocks ∧ Ign π .ctxs ∧ Ign π .tiles ∧ Ign π .stes ∧ Ign π .tlbs ∧ Ign π .parts ∧ Ign π .tals ∧ Ign π .ldgs ∧ Ign π .fog ∧ Ign π .funcs ∧ Ign π .timers ∧ Ign π .out ∧ Ign π .free := by simp [hW])
    : see π (State.retryStream s t sid) = see π s := by
  rw [State.retryStream.eq_def]
  try dsimp only
  (repeat' split) <;> (repeat (first | rfl | refine (State.xlatePage_see_of (by with_reducible assumption)).trans ?_ | simp [hW]))

@[simp ↓] theorem execSteResume_see (m : Master) (t : Fin 48) (sid : Fin 16) (s : State) (hW : Ign π .mem ∧ Ign π .poison ∧ Ign π .blocks ∧ Ign π .ctxs ∧ Ign π .tiles ∧ Ign π .stes ∧ Ign π .tlbs ∧ Ign π .parts ∧ Ign π .tals ∧ Ign π .ldgs ∧ Ign π .fog ∧ Ign π .funcs ∧ Ign π .timers ∧ Ign π .out ∧ Ign π .free := by simp [hW])
    : see π (stateOf (execSteResume m t sid s) s) = see π s := by
  simp [hW, execSteResume]

@[simp ↓] theorem State.unbindStream_see (s : State) (t : ℕ) (sid : ℕ) (hW : Ign π .tiles ∧ Ign π .stes ∧ Ign π .stks ∧ Ign π .timers := by simp [hW])
    : see π (State.unbindStream s t sid) = see π s := by
  simp [hW, State.unbindStream]

/-! ## Stacks -/

@[simp ↓] theorem State.setArb_see (s : State) (k : ℕ) (a : Arb) (hW : Ign π .stks := by simp [hW])
    : see π (State.setArb s k a) = see π s := by
  rw [State.setArb.eq_def]; simp [hW]

@[simp ↓] theorem State.eccCheck_see (s : State) (k : ℕ) (line : ℕ) (find : EccFind) (hW : Ign π .poison ∧ Ign π .blocks ∧ Ign π .stks ∧ Ign π .tals := by simp [hW])
    : see π (State.eccCheck s k line find) = see π s := by
  rw [State.eccCheck.eq_def]; dsimp only; (repeat' split) <;> simp [hW]

@[simp ↓] theorem State.answerStream_see (s : State) (src : ArbSource) (r : FarReply) (hW : Ign π .stes := by simp [hW])
    : see π (State.answerStream s src r) = see π s := by
  rw [State.answerStream.eq_def]; split <;> simp [hW]

@[simp ↓] theorem State.stackTrained_see (s : State) (k : ℕ) (ok : Bool) (hW : Ign π .blocks ∧ Ign π .stks := by simp [hW])
    : see π (State.stackTrained s k ok) = see π s := by
  simp [hW, State.stackTrained]

@[simp ↓] theorem State.invResult_see (s : State) (p : ℕ) (r : Byte) (hW : Ign π .parts := by simp [hW])
    : see π (State.invResult s p r) = see π s := by
  rw [State.invResult.eq_def]; simp [hW]

@[simp ↓] theorem State.invCmd_see (s : State) (m : Master) (p c : Nat) (f : State) (hf : see π f = see π s) (hW : Ign π .parts := by simp [hW])
    :
    see π (State.invCmd s m p c f) = see π s := by
  rw [State.invCmd.eq_def]; (try dsimp only); (repeat' split) <;> simp [hW, hf]

@[simp ↓] theorem State.dropRange_see (s : State) (dc : ℕ) (lo : ℕ) (hi : ℕ) (hW : Ign π .tlbs := by simp [hW])
    : see π (State.dropRange s dc lo hi) = see π s := by
  rw [State.dropRange.eq_def]; simp [hW]

@[simp ↓] theorem execInvalidateRange_see (m : Master) (p : Fin 8) (c : BitVec 8) (s : State) (hW : Ign π .tlbs ∧ Ign π .parts := by simp [hW])
    : see π (stateOf (execInvalidateRange m p c s) s) = see π s := by
  simp [hW, execInvalidateRange]

@[simp ↓] theorem execInvalidateContext_see (m : Master) (p : Fin 8) (c : BitVec 8) (s : State) (hW : Ign π .tlbs ∧ Ign π .parts := by simp [hW])
    : see π (stateOf (execInvalidateContext m p c s) s) = see π s := by
  simp [hW, execInvalidateContext]

@[simp ↓] theorem execPagedIn_see (m : Master) (p : Fin 8) (c : BitVec 8) (s : State) (hW : Ign π .mem ∧ Ign π .poison ∧ Ign π .blocks ∧ Ign π .ctxs ∧ Ign π .tiles ∧ Ign π .stes ∧ Ign π .tlbs ∧ Ign π .parts ∧ Ign π .tals ∧ Ign π .ldgs ∧ Ign π .fog ∧ Ign π .funcs ∧ Ign π .timers ∧ Ign π .out ∧ Ign π .free := by simp [hW])
    : see π (stateOf (execPagedIn m p c s) s) = see π s := by
  rw [execPagedIn.eq_def, stateOf_next]
  refine State.invCmd_see _ _ _ _ _ ?_
  simp [hW]

@[simp ↓] theorem State.moveResult_see (s : State) (k : ℕ) (r : Byte) (hW : Ign π .stks := by simp [hW])
    : see π (State.moveResult s k r) = see π s := by
  rw [State.moveResult.eq_def]; simp [hW]

@[simp ↓] theorem State.moveCmd_see (s : State) (m : Master) (k : ℕ) (toHost : Bool) (hW : Ign π .stks := by simp [hW])
    : see π (State.moveCmd s m k toHost) = see π s := by
  simp [hW, State.moveCmd]

@[simp ↓] theorem execToHost_see (m : Master) (k : Fin 12) (s : State) (hW : Ign π .stks := by simp [hW])
    : see π (stateOf (execToHost m k s) s) = see π s := by
  simp [hW, execToHost]

@[simp ↓] theorem execFromHost_see (m : Master) (k : Fin 12) (s : State) (hW : Ign π .stks := by simp [hW])
    : see π (stateOf (execFromHost m k s) s) = see π s := by
  simp [hW, execFromHost]

@[simp ↓] theorem State.moveStop_see (s : State) (k : ℕ) (r : Byte) (hW : Ign π .stks := by simp [hW])
    : see π (State.moveStop s k r) = see π s := by
  rw [State.moveStop.eq_def]; simp [hW]

@[simp ↓] theorem State.moveStep_see (s : State) (k : ℕ) (o : MoveOp) (hW : Ign π .blocks ∧ Ign π .stks ∧ Ign π .tals := by simp [hW])
    : see π (State.moveStep s k o) = see π s := by
  simp [hW, State.moveStep]

@[simp ↓] theorem State.eccChecks_see (s : State) (k : ℕ) (lines : List ℕ) (ecc : List EccFind) (hW : Ign π .poison ∧ Ign π .blocks ∧ Ign π .stks ∧ Ign π .tals := by simp [hW])
    : see π (State.eccChecks s k lines ecc) = see π s := by
  rw [State.eccChecks.eq_def]
  refine foldl_see _ (fun _ _ => ?_) _ _
  split <;> simp [hW]

@[simp ↓] theorem State.moveOne_see (s : State) (k : ℕ) (data : Option (List Byte)) (ecc : List EccFind) (hW : Ign π .mem ∧ Ign π .poison ∧ Ign π .blocks ∧ Ign π .tiles ∧ Ign π .stks ∧ Ign π .tals ∧ Ign π .funcs ∧ Ign π .out ∧ Ign π .free := by simp [hW])
    : see π (State.moveOne s k data ecc) = see π s := by
  rw [State.moveOne.eq_def]
  try dsimp only
  (repeat' split) <;> first | rfl | simp only [hW, and_self, State.moveStop_see, State.moveStep_see, State.flag_see, State.hostWrite_see, State.writeBytes_see, State.eccChecks_see, State.hostAsk_see]

/-! ## Frames -/

@[simp ↓] theorem State.setSesEnt_see (s : State) (p : ℕ) (slot : ℕ) (e : SesEnt) (hW : Ign π .sess := by simp [hW])
    : see π (State.setSesEnt s p slot e) = see π s := by
  rw [State.setSesEnt.eq_def]; simp [hW]

@[simp ↓] theorem State.scoreFrame_see (s : State) (k : ℕ) (f : ℕ) (mass : Num) (hW : Ign π .kvfs ∧ Ign π .free := by simp [hW])
    : see π (State.scoreFrame s k f mass) = see π s := by
  rw [State.scoreFrame.eq_def]; simp [hW]

@[simp ↓] theorem State.victim_see (s : State) (k : ℕ) (p : ℕ) (pool : ℕ) (hW : Ign π .free := by simp [hW])
    : see π (State.victim s k p pool).2 = see π s := by
  rw [State.victim.eq_def]; simp [hW]

theorem State.victim_see_of {s : State} {k : ℕ} {p : ℕ} {pool : ℕ} {w1 t1} (hh : (State.victim s k p pool) = (w1, t1)) (hW : Ign π .free := by simp [hW])
    : see π t1 = see π s := by
  rw [← State.victim_see s k p pool, hh]

@[simp ↓] theorem State.ledgerEvict_see (s : State) (k : ℕ) (f : ℕ) (what : ℕ) (e : FrameEnt) (w : Who) (hW : Ign π .blocks ∧ Ign π .tals ∧ Ign π .ldgs ∧ Ign π .fog ∧ Ign π .timers ∧ Ign π .out := by simp [hW])
    : see π (State.ledgerEvict s k f what e w) = see π s := by
  simp [hW, State.ledgerEvict]

@[simp ↓] theorem State.addDropped_see (s : State) (p : ℕ) (e : FrameEnt) (hW : Ign π .sess := by simp [hW])
    : see π (State.addDropped s p e) = see π s := by
  simp [hW, State.addDropped]

@[simp ↓] theorem State.unpublish_see (s : State) (p : ℕ) (k : ℕ) (f : ℕ) (hW : Ign π .parts := by simp [hW])
    : see π (State.unpublish s p k f) = see π s := by
  rw [State.unpublish.eq_def]; simp [hW]

@[simp ↓] theorem State.dropFrame_see (s : State) (k : ℕ) (p : ℕ) (f : ℕ) (w : Who) (hW : Ign π .blocks ∧ Ign π .kvfs ∧ Ign π .parts ∧ Ign π .sess ∧ Ign π .tals ∧ Ign π .ldgs ∧ Ign π .fog ∧ Ign π .timers ∧ Ign π .out := by simp [hW])
    : see π (State.dropFrame s k p f w) = see π s := by
  simp [hW, State.dropFrame]

@[simp ↓] theorem State.spillStart_see (s : State) (k : ℕ) (f : ℕ) (i : ℕ) (forW : AllocFor) (hW : Ign π .kvfs := by simp [hW])
    : see π (State.spillStart s k f i forW) = see π s := by
  rw [State.spillStart.eq_def]; simp [hW]

@[simp ↓] theorem State.alloc_see (s : State) (k : ℕ) (p : ℕ) (pool : ℕ) (forW : AllocFor) (w : Who) (hW : Ign π .blocks ∧ Ign π .kvfs ∧ Ign π .parts ∧ Ign π .sess ∧ Ign π .tals ∧ Ign π .ldgs ∧ Ign π .fog ∧ Ign π .timers ∧ Ign π .out ∧ Ign π .free := by simp [hW])
    : see π (State.alloc s k p pool forW w).2 = see π s := by
  rw [State.alloc.eq_def]
  dsimp only
  (repeat' split) <;> (repeat first | with_reducible rfl | refine (State.victim_see_of (by with_reducible assumption)).trans ?_ | split | simp [hW])

theorem State.alloc_see_of {s : State} {k : ℕ} {p : ℕ} {pool : ℕ} {forW : AllocFor} {w : Who} {w1 t1} (hh : (State.alloc s k p pool forW w) = (w1, t1)) (hW : Ign π .blocks ∧ Ign π .kvfs ∧ Ign π .parts ∧ Ign π .sess ∧ Ign π .tals ∧ Ign π .ldgs ∧ Ign π .fog ∧ Ign π .timers ∧ Ign π .out ∧ Ign π .free := by simp [hW])
    : see π t1 = see π s := by
  rw [← State.alloc_see s k p pool forW w, hh]

@[simp ↓] theorem State.writeSlot_see (s : State) (k : ℕ) (f : ℕ) (a : AppArg) (j : ℕ) (hW : Ign π .mem ∧ Ign π .poison ∧ Ign π .tiles := by simp [hW])
    : see π (State.writeSlot s k f a j) = see π s := by
  simp [hW, State.writeSlot]

@[simp ↓] theorem State.appendInto_see (s : State) (k : ℕ) (f : ℕ) (a : AppArg) (hW : Ign π .mem ∧ Ign π .poison ∧ Ign π .tiles ∧ Ign π .kvfs := by simp [hW])
    : see π (State.appendInto s k f a) = see π s := by
  simp [hW, State.appendInto]

@[simp ↓] theorem State.appendWith_see (s : State) (k : ℕ) (p : ℕ) (n : ℕ) (a : AppArg) (w : Who) (hW : Ign π .mem ∧ Ign π .poison ∧ Ign π .blocks ∧ Ign π .tiles ∧ Ign π .kvfs ∧ Ign π .tals := by simp [hW])
    : see π (State.appendWith s k p n a w) = see π s := by
  rw [State.appendWith.eq_def]; dsimp only; split <;> simp [hW]

@[simp ↓] theorem State.append_see (s : State) (k : ℕ) (p : ℕ) (idx : ℕ) (a : AppArg) (w : Who) (hW : Ign π .mem ∧ Ign π .poison ∧ Ign π .blocks ∧ Ign π .tiles ∧ Ign π .kvfs ∧ Ign π .parts ∧ Ign π .sess ∧ Ign π .tals ∧ Ign π .ldgs ∧ Ign π .fog ∧ Ign π .timers ∧ Ign π .out ∧ Ign π .free := by simp [hW])
    : see π (State.append s k p idx a w).2 = see π s := by
  rw [State.append.eq_def]
  (repeat' split) <;> (try dsimp only) <;> (repeat first | refine (State.alloc_see_of (by with_reducible assumption)).trans ?_ | simp [hW])

theorem State.append_see_of {s : State} {k : ℕ} {p : ℕ} {idx : ℕ} {a : AppArg} {w : Who} {w1 t1} (hh : (State.append s k p idx a w) = (w1, t1)) (hW : Ign π .mem ∧ Ign π .poison ∧ Ign π .blocks ∧ Ign π .tiles ∧ Ign π .kvfs ∧ Ign π .parts ∧ Ign π .sess ∧ Ign π .tals ∧ Ign π .ldgs ∧ Ign π .fog ∧ Ign π .timers ∧ Ign π .out ∧ Ign π .free := by simp [hW])
    : see π t1 = see π s := by
  rw [← State.append_see s k p idx a w, hh]

@[simp ↓] theorem State.park_see (s : State) (k : ℕ) (p : ℕ) (a : AppArg) (w : Who) (hW : Ign π .blocks ∧ Ign π .sess ∧ Ign π .tals ∧ Ign π .out := by simp [hW])
    : see π (State.park s k p a w) = see π s := by
  simp [hW, State.park]

@[simp ↓] theorem State.spillEnd_see (s : State) (k : ℕ) (p : ℕ) (o : SpillOp) (ok : Bool) (w : Who) (hW : Ign π .blocks ∧ Ign π .kvfs ∧ Ign π .sess ∧ Ign π .tals ∧ Ign π .ldgs ∧ Ign π .fog ∧ Ign π .timers ∧ Ign π .out := by simp [hW])
    : see π (State.spillEnd s k p o ok w) = see π s := by
  simp [hW, State.spillEnd]

/-! ## Attention -/

@[simp ↓] theorem State.setOp_see (s : State) (k : ℕ) (o : AttOp) (hW : Ign π .nmes := by simp [hW])
    : see π (State.setOp s k o) = see π s := by
  rw [State.setOp.eq_def]; simp [hW]

@[simp ↓] theorem State.endOp_see (s : State) (k : ℕ) (o : AttOp) (hW : Ign π .nmes ∧ Ign π .kvfs ∧ Ign π .timers := by simp [hW])
    : see π (State.endOp s k o) = see π s := by
  rw [State.endOp.eq_def]; simp [hW]

@[simp ↓] theorem State.failEntry_see (s : State) (s0 : State) (k : ℕ) (p : ℕ) (o : AttOp) (c : Cmd) (before : List AttEntry) (b : Bad) (hW : Ign π .mem ∧ Ign π .poison ∧ Ign π .blocks ∧ Ign π .ctxs ∧ Ign π .ques ∧ Ign π .tiles ∧ Ign π .chains ∧ Ign π .nmes ∧ Ign π .kvfs ∧ Ign π .parts ∧ Ign π .tals ∧ Ign π .ldgs ∧ Ign π .fog ∧ Ign π .funcs ∧ Ign π .timers ∧ Ign π .out := by simp [hW])
    (h : see π s = see π s0 := by simp [hW]) : see π (State.failEntry s s0 k p o c before b) = see π s0 := by
  rw [State.failEntry.eq_def]; (repeat' split) <;> simp [hW, h]

@[simp ↓] theorem State.startOp_see (s : State) (k : ℕ) (bwd : Bool) (hW : Ign π .nmes ∧ Ign π .timers := by simp [hW])
    : see π (State.startOp s k bwd) = see π s := by
  rw [State.startOp.eq_def]; dsimp only; (repeat' split) <;> simp [hW]

@[simp ↓] theorem State.readRows_see (s : State) (p : ℕ) (c : Cmd) (e : AttEntry) (hW : Ign π .free := by simp [hW])
    : see π (State.readRows s p c e).2 = see π s := by
  simp [hW, State.readRows]

theorem State.readRows_see_of {s : State} {p : ℕ} {c : Cmd} {e : AttEntry} {w1 t1} (hh : (State.readRows s p c e) = (w1, t1)) (hW : Ign π .free := by simp [hW])
    : see π t1 = see π s := by
  rw [← State.readRows_see s p c e, hh]

@[simp ↓] theorem State.takeSnapshot_see (s : State) (k : ℕ) (p : ℕ) (q : ℕ) (c : Cmd) (e : AttEntry) (hW : Ign π .blocks ∧ Ign π .tlbs ∧ Ign π .kvfs ∧ Ign π .funcs ∧ Ign π .out ∧ Ign π .free := by simp [hW])
    : see π (State.takeSnapshot s k p q c e).2 = see π s := by
  rw [State.takeSnapshot.eq_def]; dsimp only
  (repeat' split) <;> (repeat first | with_reducible rfl | refine (State.placeRange_see_of (by with_reducible assumption)).trans ?_ | split | simp [hW])

theorem State.takeSnapshot_see_of {s : State} {k : ℕ} {p : ℕ} {q : ℕ} {c : Cmd} {e : AttEntry} {w1 t1} (hh : (State.takeSnapshot s k p q c e) = (w1, t1)) (hW : Ign π .blocks ∧ Ign π .tlbs ∧ Ign π .kvfs ∧ Ign π .funcs ∧ Ign π .out ∧ Ign π .free := by simp [hW])
    : see π t1 = see π s := by
  rw [← State.takeSnapshot_see s k p q c e, hh]

@[simp ↓] theorem State.takeEntry_see (s : State) (k : ℕ) (p : ℕ) (q : ℕ) (i : ℕ) (c : Cmd) (hW : Ign π .mem ∧ Ign π .poison ∧ Ign π .blocks ∧ Ign π .tiles ∧ Ign π .tlbs ∧ Ign π .kvfs ∧ Ign π .parts ∧ Ign π .sess ∧ Ign π .tals ∧ Ign π .ldgs ∧ Ign π .fog ∧ Ign π .funcs ∧ Ign π .timers ∧ Ign π .out ∧ Ign π .free := by simp [hW])
    : see π (State.takeEntry s k p q i c).2 = see π s := by
  rw [State.takeEntry.eq_def]
  (repeat' split) <;> (repeat first | with_reducible rfl | refine (State.placeRanges_see_of (by with_reducible assumption)).trans ?_ | refine (State.append_see_of (by with_reducible assumption)).trans ?_ | refine (State.takeSnapshot_see_of (by with_reducible assumption)).trans ?_ | split | simp [hW])

theorem State.takeEntry_see_of {s : State} {k : ℕ} {p : ℕ} {q : ℕ} {i : ℕ} {c : Cmd} {w1 t1} (hh : (State.takeEntry s k p q i c) = (w1, t1)) (hW : Ign π .mem ∧ Ign π .poison ∧ Ign π .blocks ∧ Ign π .tiles ∧ Ign π .tlbs ∧ Ign π .kvfs ∧ Ign π .parts ∧ Ign π .sess ∧ Ign π .tals ∧ Ign π .ldgs ∧ Ign π .fog ∧ Ign π .funcs ∧ Ign π .timers ∧ Ign π .out ∧ Ign π .free := by simp [hW])
    : see π t1 = see π s := by
  rw [← State.takeEntry_see s k p q i c, hh]

@[simp ↓] theorem State.walkBwd_see (s : State) (k : ℕ) (p : ℕ) (c : Cmd) (e : AttEntry) (f : FrameRef) (hW : Ign π .mem ∧ Ign π .poison ∧ Ign π .blocks ∧ Ign π .tiles ∧ Ign π .tals ∧ Ign π .funcs ∧ Ign π .out ∧ Ign π .free := by simp [hW])
    : see π (State.walkBwd s k p c e f).2 = see π s := by
  simp [hW, State.walkBwd]

theorem State.walkBwd_see_of {s : State} {k : ℕ} {p : ℕ} {c : Cmd} {e : AttEntry} {f : FrameRef} {w1 t1} (hh : (State.walkBwd s k p c e f) = (w1, t1)) (hW : Ign π .mem ∧ Ign π .poison ∧ Ign π .blocks ∧ Ign π .tiles ∧ Ign π .tals ∧ Ign π .funcs ∧ Ign π .out ∧ Ign π .free := by simp [hW])
    : see π t1 = see π s := by
  rw [← State.walkBwd_see s k p c e f, hh]

@[simp ↓] theorem State.finishEntry_see (s : State) (k : ℕ) (p : ℕ) (q : ℕ) (c : Cmd) (e : AttEntry) (hW : Ign π .mem ∧ Ign π .poison ∧ Ign π .blocks ∧ Ign π .ques ∧ Ign π .tiles ∧ Ign π .nmes ∧ Ign π .kvfs ∧ Ign π .tals ∧ Ign π .ldgs ∧ Ign π .fog ∧ Ign π .funcs ∧ Ign π .timers ∧ Ign π .out ∧ Ign π .free := by simp [hW])
    : see π (State.finishEntry s k p q c e) = see π s := by
  rw [State.finishEntry.eq_def]; dsimp only; (repeat' split) <;> simp [hW]

@[simp ↓] theorem State.closeEntry_see (s : State) (k : ℕ) (p : ℕ) (q : ℕ) (o : AttOp) (c : Cmd) (e : AttEntry) (hW : Ign π .mem ∧ Ign π .poison ∧ Ign π .blocks ∧ Ign π .ques ∧ Ign π .tiles ∧ Ign π .nmes ∧ Ign π .kvfs ∧ Ign π .tals ∧ Ign π .ldgs ∧ Ign π .fog ∧ Ign π .funcs ∧ Ign π .timers ∧ Ign π .out ∧ Ign π .free := by simp [hW])
    : see π (State.closeEntry s k p q o c e) = see π s := by
  simp [hW, State.closeEntry]

@[simp ↓] theorem State.endEntry_see (s : State) (s0 : State) (k : ℕ) (p : ℕ) (q : ℕ) (o : AttOp) (c : Cmd) (e : AttEntry) (hW : Ign π .mem ∧ Ign π .poison ∧ Ign π .blocks ∧ Ign π .ctxs ∧ Ign π .ques ∧ Ign π .tiles ∧ Ign π .chains ∧ Ign π .nmes ∧ Ign π .kvfs ∧ Ign π .parts ∧ Ign π .tals ∧ Ign π .ldgs ∧ Ign π .fog ∧ Ign π .funcs ∧ Ign π .timers ∧ Ign π .out ∧ Ign π .free := by simp [hW])
    (h : see π s = see π s0 := by simp [hW]) : see π (State.endEntry s s0 k p q o c e) = see π s0 := by
  rw [State.endEntry.eq_def]; (repeat' split) <;> simp [hW, h]

@[simp ↓] theorem State.nmeMaybeDone_see (s : State) (k : ℕ) (hW : Ign π .blocks ∧ Ign π .ques ∧ Ign π .chains ∧ Ign π .nmes ∧ Ign π .kvfs ∧ Ign π .tals ∧ Ign π .ldgs ∧ Ign π .fog ∧ Ign π .timers ∧ Ign π .out := by simp [hW])
    : see π (State.nmeMaybeDone s k) = see π s := by
  rw [State.nmeMaybeDone.eq_def]; split <;> simp [hW]

@[simp ↓] theorem State.resumeAppend_see (s : State) (k : ℕ) (f : ℕ) (hW : Ign π .mem ∧ Ign π .poison ∧ Ign π .blocks ∧ Ign π .ctxs ∧ Ign π .ques ∧ Ign π .tiles ∧ Ign π .chains ∧ Ign π .tlbs ∧ Ign π .nmes ∧ Ign π .kvfs ∧ Ign π .parts ∧ Ign π .tals ∧ Ign π .ldgs ∧ Ign π .fog ∧ Ign π .funcs ∧ Ign π .timers ∧ Ign π .out ∧ Ign π .free := by simp [hW])
    : see π (State.resumeAppend s k f) = see π s := by
  rw [State.resumeAppend.eq_def]
  (repeat' split) <;> (repeat first | with_reducible rfl | refine (State.takeSnapshot_see_of (by with_reducible assumption)).trans ?_ | split | simp [hW])

/-! ## Sessions -/

@[simp ↓] theorem State.setSesArg_see (s : State) (p : ℕ) (i : ℕ) (v : ℕ) (hW : Ign π .blocks := by simp [hW])
    : see π (State.setSesArg s p i v) = see π s := by
  rw [State.setSesArg.eq_def]; simp [hW]

@[simp ↓] theorem State.sesResult_see (s : State) (p : ℕ) (r : Byte) (hW : Ign π .sess := by simp [hW])
    : see π (State.sesResult s p r) = see π s := by
  rw [State.sesResult.eq_def]; simp [hW]

@[simp ↓] theorem State.sesRefuse_see (s : State) (p : ℕ) (r : Byte) (hW : Ign π .sess := by simp [hW])
    : see π (State.sesRefuse s p r) = see π s := by
  rw [State.sesRefuse.eq_def]; simp [hW]

@[simp ↓] theorem State.sesCmd_see (s : State) (m : Master) (p : Nat) (f : State) (hf : see π f = see π s) (hW : Ign π .sess := by simp [hW])
    :
    see π (State.sesCmd s m p f) = see π s := by
  rw [State.sesCmd.eq_def]; (try dsimp only); (repeat' split) <;> simp [hW, hf]

@[simp ↓] theorem State.onSession_see (s : State) (p i : Nat) (f : Nat → State) (hf : ∀ x, see π (f x) = see π s) (hW : Ign π .sess := by simp [hW])
    :
    see π (State.onSession s p i f) = see π s := by
  rw [State.onSession.eq_def]; (try dsimp only); (repeat' split) <;> simp [hW, hf]

theorem State.openSlot_see_of {s : State} {p k : Nat} {t : State} (h : s.openSlot p = some (k, t)) (hW : Ign π .sess := by simp [hW])
    :
    see π t = see π s := by
  rw [State.openSlot.eq_def] at h
  try dsimp only at h
  split at h <;> simp_all
  rw [← h.2]; simp [hW]

@[simp ↓] theorem execSesCmdOpen_see (m : Master) (p : Fin 8) (s : State) (hW : Ign π .blocks ∧ Ign π .sess := by simp [hW])
    : see π (stateOf (execSesCmdOpen m p s) s) = see π s := by
  rw [execSesCmdOpen.eq_def]
  rw [stateOf_next]
  refine State.sesCmd_see _ _ _ _ ?_
  split
  · simp [hW]
  · rw [State.sesResult_see, State.setSesArg_see]
    exact State.openSlot_see_of (by with_reducible assumption)

@[simp ↓] theorem State.closeSession_see (s : State) (p : ℕ) (slot : ℕ) (hW : Ign π .kvfs ∧ Ign π .sess := by simp [hW])
    : see π (State.closeSession s p slot) = see π s := by
  simp [hW, State.closeSession]

@[simp ↓] theorem execSesCmdClose_see (m : Master) (p : Fin 8) (s : State) (hW : Ign π .sess := by simp [hW])
    : see π (stateOf (execSesCmdClose m p s) s) = see π s := by
  rw [execSesCmdClose.eq_def, stateOf_next]
  refine State.sesCmd_see _ _ _ _ (State.onSession_see _ _ _ _ (fun x => ?_))
  dsimp only; (repeat' split) <;> simp [hW]

@[simp ↓] theorem execSesCmdSet_see (m : Master) (p : Fin 8) (s : State) (hW : Ign π .sess := by simp [hW])
    : see π (stateOf (execSesCmdSet m p s) s) = see π s := by
  rw [execSesCmdSet.eq_def, stateOf_next]
  refine State.sesCmd_see _ _ _ _ (State.onSession_see _ _ _ _ (fun x => ?_))
  dsimp only; (repeat' split) <;> simp [hW]

@[simp ↓] theorem execFork_see (m : Master) (p : Fin 8) (s : State) (hW : Ign π .blocks ∧ Ign π .kvfs ∧ Ign π .sess := by simp [hW])
    : see π (stateOf (execFork m p s) s) = see π s := by
  rw [execFork.eq_def]
  rw [stateOf_next]
  refine State.sesCmd_see _ _ _ _ (State.onSession_see _ _ _ _ (fun x => ?_))
  split
  · simp [hW]
  · split
    · simp [hW]
    · rw [State.sesResult_see, State.setSesArg_see]
      rw [foldl_see _ (fun _ _ => by simp [hW])]
      exact State.openSlot_see_of (by with_reducible assumption)

@[simp ↓] theorem State.readHashAt_see (s : State) (p : ℕ) (a : ℕ) (hW : Ign π .blocks ∧ Ign π .funcs ∧ Ign π .out ∧ Ign π .free := by simp [hW])
    : see π (State.readHashAt s p a).2 = see π s := by
  rw [State.readHashAt.eq_def]
  (repeat' split) <;> (try dsimp only) <;> first | exact State.hostRead_see_of (by with_reducible assumption) | simp [hW]

theorem State.readHashAt_see_of {s : State} {p : ℕ} {a : ℕ} {w1 t1} (hh : (State.readHashAt s p a) = (w1, t1)) (hW : Ign π .blocks ∧ Ign π .funcs ∧ Ign π .out ∧ Ign π .free := by simp [hW])
    : see π t1 = see π s := by
  rw [← State.readHashAt_see s p a, hh]

@[simp ↓] theorem State.readHashArg_see (s : State) (p : ℕ) (b : ℕ) (hW : Ign π .blocks ∧ Ign π .funcs ∧ Ign π .out ∧ Ign π .free := by simp [hW])
    : see π (State.readHashArg s p b).2 = see π s := by
  simp [hW, State.readHashArg]

theorem State.readHashArg_see_of {s : State} {p : ℕ} {b : ℕ} {w1 t1} (hh : (State.readHashArg s p b) = (w1, t1)) (hW : Ign π .blocks ∧ Ign π .funcs ∧ Ign π .out ∧ Ign π .free := by simp [hW])
    : see π t1 = see π s := by
  rw [← State.readHashArg_see s p b, hh]

@[simp ↓] theorem State.readHash_see (s : State) (p : ℕ) (l : HashList) (b : ℕ) (hW : Ign π .blocks ∧ Ign π .tlbs ∧ Ign π .funcs ∧ Ign π .out ∧ Ign π .free := by simp [hW])
    : see π (State.readHash s p l b).2 = see π s := by
  rw [State.readHash.eq_def]
  (repeat' split) <;> (try dsimp only) <;> first | exact State.readHashArg_see_of (by with_reducible assumption) | exact State.loadVa_see_of (by with_reducible assumption) | simp [hW]

theorem State.readHash_see_of {s : State} {p : ℕ} {l : HashList} {b : ℕ} {w1 t1} (hh : (State.readHash s p l b) = (w1, t1)) (hW : Ign π .blocks ∧ Ign π .tlbs ∧ Ign π .funcs ∧ Ign π .out ∧ Ign π .free := by simp [hW])
    : see π t1 = see π s := by
  rw [← State.readHash_see s p l b, hh]

@[simp ↓] theorem State.attachFrom_see (s : State) (p : ℕ) (slot : ℕ) (chains : List (ℕ × ℕ)) (l : HashList) (b : ℕ) (v6 : ℕ) (hW : Ign π .blocks ∧ Ign π .tlbs ∧ Ign π .kvfs ∧ Ign π .funcs ∧ Ign π .out ∧ Ign π .free := by simp [hW])
    : see π (State.attachFrom s p slot chains l b v6).2 = see π s := by
  induction v6 generalizing s b with
  | zero => rfl
  | succ n ih =>
    rw [State.attachFrom]
    try dsimp only
    split
    · exact State.readHash_see_of (by with_reducible assumption)
    · split
      · exact State.readHash_see_of (by with_reducible assumption)
      · rw [ih]
        refine (foldl_see _ (fun _ _ => by split <;> simp [hW]) _ _).trans ?_
        exact State.readHash_see_of (by with_reducible assumption)

theorem State.attachFrom_see_of {s : State} {p : ℕ} {slot : ℕ} {chains : List (ℕ × ℕ)} {l : HashList} {b : ℕ} {v6 : ℕ} {w1 t1} (hh : (State.attachFrom s p slot chains l b v6) = (w1, t1)) (hW : Ign π .blocks ∧ Ign π .tlbs ∧ Ign π .kvfs ∧ Ign π .funcs ∧ Ign π .out ∧ Ign π .free := by simp [hW])
    : see π t1 = see π s := by
  rw [← State.attachFrom_see s p slot chains l b v6, hh]

@[simp ↓] theorem State.setNextPos_see (s : State) (p : ℕ) (slot : ℕ) (n : ℕ) (chains : List (ℕ × ℕ)) (hW : Ign π .kvfs := by simp [hW])
    : see π (State.setNextPos s p slot n chains) = see π s := by
  simp [hW, State.setNextPos]

@[simp ↓] theorem State.attachList_see (s : State) (p : ℕ) (slot : ℕ) (l : HashList) (hW : Ign π .blocks ∧ Ign π .tlbs ∧ Ign π .kvfs ∧ Ign π .sess ∧ Ign π .funcs ∧ Ign π .out ∧ Ign π .free := by simp [hW])
    : see π (State.attachList s p slot l) = see π s := by
  simp [hW, State.attachList]

@[simp ↓] theorem execAttach_see (m : Master) (p : Fin 8) (s : State) (hW : Ign π .blocks ∧ Ign π .tlbs ∧ Ign π .kvfs ∧ Ign π .sess ∧ Ign π .funcs ∧ Ign π .out ∧ Ign π .free := by simp [hW])
    : see π (stateOf (execAttach m p s) s) = see π s := by
  rw [execAttach.eq_def, stateOf_next]
  refine State.sesCmd_see _ _ _ _ (State.onSession_see _ _ _ _ (fun x => ?_))
  simp [hW]

@[simp ↓] theorem State.publishBlock_see (s : State) (p : ℕ) (slot : ℕ) (b : ℕ) (hash : ℕ) (v5 : List (ℕ × ℕ)) (hW : Ign π .kvfs ∧ Ign π .parts := by simp [hW])
    : see π (State.publishBlock s p slot b hash v5).2 = see π s := by
  induction v5 generalizing s with
  | nil => rfl
  | cons x xs ih =>
    rw [State.publishBlock]
    try dsimp only
    (repeat' split) <;> simp [hW, ih]

theorem State.publishBlock_see_of {s : State} {p : ℕ} {slot : ℕ} {b : ℕ} {hash : ℕ} {v5 : List (ℕ × ℕ)} {w1 t1} (hh : (State.publishBlock s p slot b hash v5) = (w1, t1)) (hW : Ign π .kvfs ∧ Ign π .parts := by simp [hW])
    : see π t1 = see π s := by
  rw [← State.publishBlock_see s p slot b hash v5, hh]

@[simp ↓] theorem State.publishFrom_see (s : State) (p : ℕ) (slot : ℕ) (chains : List (ℕ × ℕ)) (l : HashList) (b : ℕ) (v6 : ℕ) (hW : Ign π .blocks ∧ Ign π .tlbs ∧ Ign π .kvfs ∧ Ign π .parts ∧ Ign π .funcs ∧ Ign π .out ∧ Ign π .free := by simp [hW])
    : see π (State.publishFrom s p slot chains l b v6).2 = see π s := by
  induction v6 generalizing s b with
  | zero => rfl
  | succ n ih =>
    rw [State.publishFrom]
    try dsimp only
    (repeat' split) <;> (repeat (first | with_reducible rfl | refine (ih _ _).trans ?_ | refine (State.readHash_see_of (by with_reducible assumption)).trans ?_ | refine (State.publishBlock_see_of (by with_reducible assumption)).trans ?_))

theorem State.publishFrom_see_of {s : State} {p : ℕ} {slot : ℕ} {chains : List (ℕ × ℕ)} {l : HashList} {b : ℕ} {v6 : ℕ} {w1 t1} (hh : (State.publishFrom s p slot chains l b v6) = (w1, t1)) (hW : Ign π .blocks ∧ Ign π .tlbs ∧ Ign π .kvfs ∧ Ign π .parts ∧ Ign π .funcs ∧ Ign π .out ∧ Ign π .free := by simp [hW])
    : see π t1 = see π s := by
  rw [← State.publishFrom_see s p slot chains l b v6, hh]

@[simp ↓] theorem State.publishList_see (s : State) (p : ℕ) (slot : ℕ) (l : HashList) (hW : Ign π .blocks ∧ Ign π .tlbs ∧ Ign π .kvfs ∧ Ign π .parts ∧ Ign π .sess ∧ Ign π .funcs ∧ Ign π .out ∧ Ign π .free := by simp [hW])
    : see π (State.publishList s p slot l) = see π s := by
  simp [hW, State.publishList]

@[simp ↓] theorem execPublish_see (m : Master) (p : Fin 8) (s : State) (hW : Ign π .blocks ∧ Ign π .tlbs ∧ Ign π .kvfs ∧ Ign π .parts ∧ Ign π .sess ∧ Ign π .funcs ∧ Ign π .out ∧ Ign π .free := by simp [hW])
    : see π (stateOf (execPublish m p s) s) = see π s := by
  rw [execPublish.eq_def, stateOf_next]
  refine State.sesCmd_see _ _ _ _ (State.onSession_see _ _ _ _ (fun x => ?_))
  simp [hW]

@[simp ↓] theorem State.spillNext_see (s : State) (p : ℕ) (slot : ℕ) (done : ℕ) (at_ : ℕ × ℕ) (hW : Ign π .blocks ∧ Ign π .kvfs ∧ Ign π .sess := by simp [hW])
    : see π (State.spillNext s p slot done at_) = see π s := by
  rw [State.spillNext.eq_def]; dsimp only; (repeat' split) <;> simp [hW]

@[simp ↓] theorem execSesCmdSpill_see (m : Master) (p : Fin 8) (s : State) (hW : Ign π .blocks ∧ Ign π .kvfs ∧ Ign π .sess := by simp [hW])
    : see π (stateOf (execSesCmdSpill m p s) s) = see π s := by
  rw [execSesCmdSpill.eq_def, stateOf_next]
  refine State.sesCmd_see _ _ _ _ (State.onSession_see _ _ _ _ (fun x => ?_))
  simp [hW]

@[simp ↓] theorem State.fetchInto_see (s : State) (p : ℕ) (k : ℕ) (i : ℕ) (f : ℕ) (slot : ℕ) (done : ℕ) (hW : Ign π .kvfs ∧ Ign π .sess := by simp [hW])
    : see π (State.fetchInto s p k i f slot done) = see π s := by
  rw [State.fetchInto.eq_def]; simp [hW]

@[simp ↓] theorem State.fetchNext_see (s : State) (p : ℕ) (slot : ℕ) (done : ℕ) (at_ : ℕ × ℕ) (hW : Ign π .blocks ∧ Ign π .kvfs ∧ Ign π .parts ∧ Ign π .sess ∧ Ign π .tals ∧ Ign π .ldgs ∧ Ign π .fog ∧ Ign π .timers ∧ Ign π .out ∧ Ign π .free := by simp [hW])
    : see π (State.fetchNext s p slot done at_) = see π s := by
  rw [State.fetchNext.eq_def]
  (repeat' split) <;> (repeat first | with_reducible rfl | refine (State.alloc_see_of (by with_reducible assumption)).trans ?_ | split | simp [hW])

@[simp ↓] theorem execSesCmdFetch_see (m : Master) (p : Fin 8) (s : State) (hW : Ign π .blocks ∧ Ign π .kvfs ∧ Ign π .parts ∧ Ign π .sess ∧ Ign π .tals ∧ Ign π .ldgs ∧ Ign π .fog ∧ Ign π .timers ∧ Ign π .out ∧ Ign π .free := by simp [hW])
    : see π (stateOf (execSesCmdFetch m p s) s) = see π s := by
  rw [execSesCmdFetch.eq_def, stateOf_next]
  refine State.sesCmd_see _ _ _ _ (State.onSession_see _ _ _ _ (fun x => ?_))
  simp [hW]

@[simp ↓] theorem execUnpark_see (m : Master) (p : Fin 8) (s : State) (hW : Ign π .sess := by simp [hW])
    : see π (stateOf (execUnpark m p s) s) = see π s := by
  rw [execUnpark.eq_def, stateOf_next]
  refine State.sesCmd_see _ _ _ _ (State.onSession_see _ _ _ _ (fun x => ?_))
  dsimp only; (repeat' split) <;> simp [hW]

@[simp ↓] theorem State.tickStack_see (s : State) (k : ℕ) (hW : Ign π .kvfs ∧ Ign π .free := by simp [hW])
    : see π (State.tickStack s k) = see π s := by
  rw [State.tickStack.eq_def]; dsimp only
  simp [hW]

@[simp ↓] theorem execTick_see (m : Master) (p : Fin 8) (s : State) (hW : Ign π .kvfs ∧ Ign π .sess ∧ Ign π .free := by simp [hW])
    : see π (stateOf (execTick m p s) s) = see π s := by
  rw [execTick.eq_def, stateOf_next]
  refine State.sesCmd_see _ _ _ _ ?_
  simp [hW]

@[simp ↓] theorem execPin_see (m : Master) (p : Fin 8) (s : State) (hW : Ign π .kvfs ∧ Ign π .sess := by simp [hW])
    : see π (stateOf (execPin m p s) s) = see π s := by
  rw [execPin.eq_def, stateOf_next]
  refine State.sesCmd_see _ _ _ _ (State.onSession_see _ _ _ _ (fun x => ?_))
  dsimp only
  rw [State.sesResult_see]
  exact foldl_see _ (fun _ _ => by simp [hW]) _ _

@[simp ↓] theorem State.flushPfx_see (s : State) (p : ℕ) (hW : Ign π .kvfs ∧ Ign π .parts := by simp [hW])
    : see π (State.flushPfx s p) = see π s := by
  simp [hW, State.flushPfx]

@[simp ↓] theorem execPfxFlush_see (m : Master) (p : Fin 8) (s : State) (hW : Ign π .kvfs ∧ Ign π .parts ∧ Ign π .sess := by simp [hW])
    : see π (stateOf (execPfxFlush m p s) s) = see π s := by
  simp [hW, execPfxFlush]

@[simp ↓] theorem execKvfEntrySelWrite_see (m : Master) (k : Fin 12) (w : W32) (s : State) (hW : Ign π .blocks ∧ Ign π .kvfs := by simp [hW])
    : see π (stateOf (execKvfEntrySelWrite m k w s) s) = see π s := by
  simp [hW, execKvfEntrySelWrite]

@[simp ↓] theorem execSesSelWrite_see (m : Master) (p : Fin 8) (w : W32) (s : State) (hW : Ign π .blocks ∧ Ign π .sess := by simp [hW])
    : see π (stateOf (execSesSelWrite m p w s) s) = see π s := by
  simp [hW, execSesSelWrite]

/-! ## Engines -/

@[simp ↓] theorem State.enter_see (s : State) (p : ℕ) (held : List PageMap) (r : CmdRef) (c : Cmd) (prog : List W64) (hW : Ign π .mxes ∧ Ign π .vxes ∧ Ign π .stes ∧ Ign π .nmes ∧ Ign π .free := by simp [hW])
    : see π (State.enter s p held r c prog) = see π s := by
  rw [State.enter.eq_def]; split <;> simp [hW]

/-! ## Chains -/

@[simp ↓] theorem State.afterStage_see (s : State) (dq : ℕ) (c : Cmd) (hW : Ign π .mxes ∧ Ign π .stes := by simp [hW])
    : see π (State.afterStage s dq c) = see π s := by
  rw [State.afterStage.eq_def]; split <;> simp [hW]

@[simp ↓] theorem State.afterSwaps_see (s : State) (t : ℕ) (dq : ℕ) (hW : Ign π .mxes := by simp [hW])
    : see π (State.afterSwaps s t dq) = see π s := by
  simp [hW, State.afterSwaps]

@[simp ↓] theorem State.checkStage_see (s : State) (sim : State) (ps : List Prior) (p : ℕ) (dq : ℕ) (lc : ℕ) (i : ℕ) (w : ℕ) (c : Cmd) (held : List PageMap) (hW : Ign π .blocks ∧ Ign π .tlbs ∧ Ign π .funcs ∧ Ign π .out ∧ Ign π .free := by simp [hW])
    : see π (State.checkStage s sim ps p dq lc i w c held).2 = see π s := by
  rw [State.checkStage.eq_def]
  (repeat' split) <;> (try dsimp only) <;> (repeat first | refine (State.placeRanges_see_of (by with_reducible assumption)).trans ?_ | simp [hW])

theorem State.checkStage_see_of {s : State} {sim : State} {ps : List Prior} {p : ℕ} {dq : ℕ} {lc : ℕ} {i : ℕ} {w : ℕ} {c : Cmd} {held : List PageMap} {w1 t1} (hh : (State.checkStage s sim ps p dq lc i w c held) = (w1, t1)) (hW : Ign π .blocks ∧ Ign π .tlbs ∧ Ign π .funcs ∧ Ign π .out ∧ Ign π .free := by simp [hW])
    : see π t1 = see π s := by
  rw [← State.checkStage_see s sim ps p dq lc i w c held, hh]

@[simp ↓] theorem State.ownStep_see (s : State) (sim : State) (ps : List Prior) (p : ℕ) (dq : ℕ) (lc : ℕ) (i : ℕ) (w : ℕ) (sc : Cmd) (ch : Chain) (held : List PageMap) (hW : Ign π .blocks ∧ Ign π .mxes ∧ Ign π .stes ∧ Ign π .tlbs ∧ Ign π .funcs ∧ Ign π .out ∧ Ign π .free := by simp [hW])
    : see π (State.ownStep s sim ps p dq lc i w sc ch held).2 = see π s := by
  rw [State.ownStep.eq_def]
  exact State.checkStage_see ..

theorem State.ownStep_see_of {s : State} {sim : State} {ps : List Prior} {p : ℕ} {dq : ℕ} {lc : ℕ} {i : ℕ} {w : ℕ} {sc : Cmd} {ch : Chain} {held : List PageMap} {w1 t1} (hh : (State.ownStep s sim ps p dq lc i w sc ch held) = (w1, t1)) (hW : Ign π .blocks ∧ Ign π .mxes ∧ Ign π .stes ∧ Ign π .tlbs ∧ Ign π .funcs ∧ Ign π .out ∧ Ign π .free := by simp [hW])
    : see π t1 = see π s := by
  rw [← State.ownStep_see s sim ps p dq lc i w sc ch held, hh]

@[simp ↓] theorem State.blockStep_see (s : State) (sim : State) (ps : List Prior) (p : ℕ) (dq : ℕ) (lc : ℕ) (c : Cmd) (i : ℕ) (w : ℕ) (ch : Chain) (held : List PageMap) (hW : Ign π .blocks ∧ Ign π .mxes ∧ Ign π .stes ∧ Ign π .tlbs ∧ Ign π .funcs ∧ Ign π .out ∧ Ign π .free := by simp [hW])
    : see π (State.blockStep s sim ps p dq lc c i w ch held).2 = see π s := by
  rw [State.blockStep.eq_def]; dsimp only; split <;> simp [hW]

theorem State.blockStep_see_of {s : State} {sim : State} {ps : List Prior} {p : ℕ} {dq : ℕ} {lc : ℕ} {c : Cmd} {i : ℕ} {w : ℕ} {ch : Chain} {held : List PageMap} {w1 t1} (hh : (State.blockStep s sim ps p dq lc c i w ch held) = (w1, t1)) (hW : Ign π .blocks ∧ Ign π .mxes ∧ Ign π .stes ∧ Ign π .tlbs ∧ Ign π .funcs ∧ Ign π .out ∧ Ign π .free := by simp [hW])
    : see π t1 = see π s := by
  rw [← State.blockStep_see s sim ps p dq lc c i w ch held, hh]

@[simp ↓] theorem State.chainStep_see (s : State) (sim : State) (ps : List Prior) (p : ℕ) (dq : ℕ) (lc : ℕ) (c : Cmd) (i : ℕ) (ch : Chain) (held : List PageMap) (hW : Ign π .blocks ∧ Ign π .mxes ∧ Ign π .stes ∧ Ign π .tlbs ∧ Ign π .funcs ∧ Ign π .out ∧ Ign π .free := by simp [hW])
    : see π (State.chainStep s sim ps p dq lc c i ch held).2 = see π s := by
  rw [State.chainStep.eq_def]
  dsimp only
  (repeat' split) <;> (repeat first | with_reducible rfl | refine (State.placeRange_see_of (by with_reducible assumption)).trans ?_ | refine (State.blockStep_see_of (by with_reducible assumption)).trans ?_ | refine (State.ownStep_see_of (by with_reducible assumption)).trans ?_ | split | simp [hW])

theorem State.chainStep_see_of {s : State} {sim : State} {ps : List Prior} {p : ℕ} {dq : ℕ} {lc : ℕ} {c : Cmd} {i : ℕ} {ch : Chain} {held : List PageMap} {w1 t1} (hh : (State.chainStep s sim ps p dq lc c i ch held) = (w1, t1)) (hW : Ign π .blocks ∧ Ign π .mxes ∧ Ign π .stes ∧ Ign π .tlbs ∧ Ign π .funcs ∧ Ign π .out ∧ Ign π .free := by simp [hW])
    : see π t1 = see π s := by
  rw [← State.chainStep_see s sim ps p dq lc c i ch held, hh]

@[simp ↓] theorem State.chainStages_see (s : State) (sim : State) (ps : List Prior) (p : ℕ) (dq : ℕ) (lc : ℕ) (c : Cmd) (i : ℕ) (ch : Chain) (held : List PageMap) (v11 : ℕ) (hW : Ign π .blocks ∧ Ign π .mxes ∧ Ign π .stes ∧ Ign π .tlbs ∧ Ign π .funcs ∧ Ign π .out ∧ Ign π .free := by simp [hW])
    : see π (State.chainStages s sim ps p dq lc c i ch held v11).2 = see π s := by
  induction v11 generalizing s sim i ch held with
  | zero => rfl
  | succ n ih =>
    rw [State.chainStages]
    split
    · exact State.chainStep_see_of (by with_reducible assumption)
    · rw [ih]; exact State.chainStep_see_of (by with_reducible assumption)

theorem State.chainStages_see_of {s : State} {sim : State} {ps : List Prior} {p : ℕ} {dq : ℕ} {lc : ℕ} {c : Cmd} {i : ℕ} {ch : Chain} {held : List PageMap} {v11 : ℕ} {w1 t1} (hh : (State.chainStages s sim ps p dq lc c i ch held v11) = (w1, t1)) (hW : Ign π .blocks ∧ Ign π .mxes ∧ Ign π .stes ∧ Ign π .tlbs ∧ Ign π .funcs ∧ Ign π .out ∧ Ign π .free := by simp [hW])
    : see π t1 = see π s := by
  rw [← State.chainStages_see s sim ps p dq lc c i ch held v11, hh]

@[simp ↓] theorem State.chainCheck_see (s : State) (sim : State) (ps : List Prior) (p : ℕ) (q : ℕ) (c : Cmd) (hW : Ign π .blocks ∧ Ign π .mxes ∧ Ign π .stes ∧ Ign π .tlbs ∧ Ign π .funcs ∧ Ign π .out ∧ Ign π .free := by simp [hW])
    : see π (State.chainCheck s sim ps p q c).2 = see π s := by
  rw [State.chainCheck.eq_def]
  exact State.chainStages_see ..

theorem State.chainCheck_see_of {s : State} {sim : State} {ps : List Prior} {p : ℕ} {q : ℕ} {c : Cmd} {w1 t1} (hh : (State.chainCheck s sim ps p q c) = (w1, t1)) (hW : Ign π .blocks ∧ Ign π .mxes ∧ Ign π .stes ∧ Ign π .tlbs ∧ Ign π .funcs ∧ Ign π .out ∧ Ign π .free := by simp [hW])
    : see π t1 = see π s := by
  rw [← State.chainCheck_see s sim ps p q c, hh]

@[simp ↓] theorem State.failStage_see (s : State) (t : ℕ) (r : CmdRef) (b : Bad) (hW : Ign π .mem ∧ Ign π .poison ∧ Ign π .blocks ∧ Ign π .ctxs ∧ Ign π .ques ∧ Ign π .tiles ∧ Ign π .chains ∧ Ign π .parts ∧ Ign π .tals ∧ Ign π .ldgs ∧ Ign π .fog ∧ Ign π .funcs ∧ Ign π .timers ∧ Ign π .out := by simp [hW])
    : see π (State.failStage s t r b) = see π s := by
  simp [hW, State.failStage]

@[simp ↓] theorem State.beginOwn_see (s : State) (t : ℕ) (p : ℕ) (ch : Chain) (i : ℕ) (c : Cmd) (hW : Ign π .mem ∧ Ign π .poison ∧ Ign π .blocks ∧ Ign π .ctxs ∧ Ign π .ques ∧ Ign π .tiles ∧ Ign π .chains ∧ Ign π .parts ∧ Ign π .rings ∧ Ign π .bars ∧ Ign π .tals ∧ Ign π .ldgs ∧ Ign π .fog ∧ Ign π .funcs ∧ Ign π .timers ∧ Ign π .out ∧ Ign π .free := by simp [hW])
    : see π (State.beginOwn s t p ch i c) = see π s := by
  rw [State.beginOwn.eq_def]; dsimp only; (repeat' split) <;> simp [hW]

@[simp ↓] theorem State.beginEngine_see (s : State) (t : ℕ) (p : ℕ) (q : ℕ) (ch : Chain) (i : ℕ) (sc : Cmd) (hW : Ign π .mem ∧ Ign π .poison ∧ Ign π .blocks ∧ Ign π .ctxs ∧ Ign π .ques ∧ Ign π .tiles ∧ Ign π .mxes ∧ Ign π .vxes ∧ Ign π .stes ∧ Ign π .chains ∧ Ign π .tlbs ∧ Ign π .nmes ∧ Ign π .parts ∧ Ign π .tals ∧ Ign π .ldgs ∧ Ign π .fog ∧ Ign π .funcs ∧ Ign π .timers ∧ Ign π .out ∧ Ign π .free := by simp [hW])
    : see π (State.beginEngine s t p q ch i sc) = see π s := by
  rw [State.beginEngine.eq_def]
  try dsimp only
  have hpl : ∀ (k p lc : Nat) (rs : List PRange) (h : List PageMap) (b : Bool) {w1 t1},
      (if b = true then s.placeRanges k p lc rs h else (Except.ok h, s)) = (w1, t1) → see π t1 = see π s := by
    intro k p lc rs h b w1 t1 hh
    split at hh
    · exact State.placeRanges_see_of hh
    · simp_all
  (repeat' split) <;> (repeat (first | with_reducible rfl | (simp [hW]; done) | refine (hpl _ _ _ _ _ _ (by with_reducible assumption)).trans ?_ | refine (State.placeRanges_see_of (by with_reducible assumption)).trans ?_ | simp [hW]))

@[simp ↓] theorem State.failParty_see (s : State) (p : ℕ) (x : RingParty) (b : Bad) (hW : Ign π .mem ∧ Ign π .poison ∧ Ign π .blocks ∧ Ign π .ctxs ∧ Ign π .ques ∧ Ign π .tiles ∧ Ign π .chains ∧ Ign π .nmes ∧ Ign π .kvfs ∧ Ign π .parts ∧ Ign π .tals ∧ Ign π .ldgs ∧ Ign π .fog ∧ Ign π .funcs ∧ Ign π .timers ∧ Ign π .out := by simp [hW])
    : see π (State.failParty s p x b) = see π s := by
  rw [State.failParty.eq_def]; (repeat' split) <;> simp [hW]

@[simp ↓] theorem State.pushDone_see (s : State) (x : RingParty) (hW : Ign π .blocks ∧ Ign π .ques ∧ Ign π .chains ∧ Ign π .nmes ∧ Ign π .kvfs ∧ Ign π .tals ∧ Ign π .ldgs ∧ Ign π .fog ∧ Ign π .timers ∧ Ign π .out := by simp [hW])
    : see π (State.pushDone s x) = see π s := by
  rw [State.pushDone.eq_def]; split <;> simp [hW]

@[simp ↓] theorem State.popInto_see (s : State) (r : CmdRef) (addr : ℕ) (hW : Ign π .chains := by simp [hW])
    : see π (State.popInto s r addr) = see π s := by
  rw [State.popInto.eq_def]; split <;> simp [hW]

@[simp ↓] theorem State.skipNext_see (s : State) (r : CmdRef) (hW : Ign π .chains := by simp [hW])
    : see π (State.skipNext s r) = see π s := by
  rw [State.skipNext.eq_def]; split <;> simp [hW]

@[simp ↓] theorem State.discardRing_see (s : State) (p : ℕ) (r : ℕ) (hW : Ign π .blocks ∧ Ign π .rings := by simp [hW])
    : see π (State.discardRing s p r) = see π s := by
  rw [State.discardRing.eq_def]; simp [hW]

@[simp ↓] theorem State.disableRing_see (s : State) (p : ℕ) (r : ℕ) (hW : Ign π .mem ∧ Ign π .poison ∧ Ign π .blocks ∧ Ign π .ctxs ∧ Ign π .ques ∧ Ign π .tiles ∧ Ign π .chains ∧ Ign π .nmes ∧ Ign π .kvfs ∧ Ign π .parts ∧ Ign π .rings ∧ Ign π .tals ∧ Ign π .ldgs ∧ Ign π .fog ∧ Ign π .funcs ∧ Ign π .timers ∧ Ign π .out := by simp [hW])
    : see π (State.disableRing s p r) = see π s := by
  simp [hW, State.disableRing]

@[simp ↓] theorem State.ledgerBar_see (s : State) (p : ℕ) (b : ℕ) (done : Bool) (w : Who) (hW : Ign π .blocks ∧ Ign π .tals ∧ Ign π .ldgs ∧ Ign π .fog ∧ Ign π .timers ∧ Ign π .out := by simp [hW])
    : see π (State.ledgerBar s p b done w) = see π s := by
  rw [State.ledgerBar.eq_def]
  exact State.ledgerPart_see ..

@[simp ↓] theorem State.barMaybe_see (s : State) (p : ℕ) (b : ℕ) (w : Who) (hW : Ign π .blocks ∧ Ign π .bars ∧ Ign π .tals ∧ Ign π .ldgs ∧ Ign π .fog ∧ Ign π .timers ∧ Ign π .out := by simp [hW])
    : see π (State.barMaybe s p b w) = see π s := by
  simp [hW, State.barMaybe]

@[simp ↓] theorem State.barrierWithdraw_see (s : State) (p : ℕ) (b : ℕ) (t : ℕ) (hW : Ign π .blocks ∧ Ign π .bars ∧ Ign π .tals ∧ Ign π .ldgs ∧ Ign π .fog ∧ Ign π .timers ∧ Ign π .out := by simp [hW])
    : see π (State.barrierWithdraw s p b t) = see π s := by
  rw [State.barrierWithdraw.eq_def]; dsimp only; (repeat' split) <;> simp [hW]

/-! ## Links -/

@[simp ↓] theorem State.samplePos_see (s : State) (hW : Ign π .board := by simp [hW])
    : see π (State.samplePos s) = see π s := by
  simp [hW, State.samplePos]

@[simp ↓] theorem State.setTx_see (s : State) (g : ℕ) (peer : ℕ) (x : TxDest) (hW : Ign π .lgs := by simp [hW])
    : see π (State.setTx s g peer x) = see π s := by
  rw [State.setTx.eq_def]; simp [hW]

@[simp ↓] theorem State.transmit_see (s : State) (g : ℕ) (l : ℕ) (f : Frame) (r : Option CmdRef) (hW : Ign π .blocks ∧ Ign π .links ∧ Ign π .lgs ∧ Ign π .tals ∧ Ign π .out := by simp [hW])
    : see π (State.transmit s g l f r) = see π s := by
  simp [hW, State.transmit]

theorem State.sendWaiting_see (s : State) (g : ℕ) (peer : ℕ) (l : ℕ) (hW : Ign π .blocks ∧ Ign π .links ∧ Ign π .lgs ∧ Ign π .tals ∧ Ign π .out := by simp [hW])
    : ∀ t ∈ (State.sendWaiting s g peer l), see π t = see π s := by
  rw [State.sendWaiting.eq_def]; dsimp only; (repeat' split) <;> simp [hW]

theorem State.sendWaiting_see_of {s : State} {g : ℕ} {peer : ℕ} {l : ℕ} {t1 : State} (hh : (State.sendWaiting s g peer l) = some t1) (hW : Ign π .blocks ∧ Ign π .links ∧ Ign π .lgs ∧ Ign π .tals ∧ Ign π .out := by simp [hW])
    : see π t1 = see π s :=
  State.sendWaiting_see s g peer l (by simp [hW]) t1 hh

theorem State.pumpOne_see (s : State) (g : ℕ) (peer : ℕ) (hW : Ign π .blocks ∧ Ign π .links ∧ Ign π .lgs ∧ Ign π .tals ∧ Ign π .out := by simp [hW])
    : ∀ t ∈ (State.pumpOne s g peer), see π t = see π s := by
  rw [State.pumpOne.eq_def]
  split
  · simp [hW]
  · try dsimp only
    split
    · simp [hW]
    · split
      · simp [hW]
      · exact fun t h => State.sendWaiting_see_of h

theorem State.pumpOne_see_of {s : State} {g : ℕ} {peer : ℕ} {t1 : State} (hh : (State.pumpOne s g peer) = some t1) (hW : Ign π .blocks ∧ Ign π .links ∧ Ign π .lgs ∧ Ign π .tals ∧ Ign π .out := by simp [hW])
    : see π t1 = see π s :=
  State.pumpOne_see s g peer (by simp [hW]) t1 hh

@[simp ↓] theorem State.pumpN_see (s : State) (g : ℕ) (peer : ℕ) (v3 : ℕ) (hW : Ign π .blocks ∧ Ign π .links ∧ Ign π .lgs ∧ Ign π .tals ∧ Ign π .out := by simp [hW])
    : see π (State.pumpN s g peer v3) = see π s := by
  induction v3 generalizing s with
  | zero => rfl
  | succ n ih =>
    rw [State.pumpN]
    split
    · rw [ih]; exact State.pumpOne_see_of (by with_reducible assumption)
    · rfl

@[simp ↓] theorem State.pump_see (s : State) (g : ℕ) (peer : ℕ) (hW : Ign π .blocks ∧ Ign π .links ∧ Ign π .lgs ∧ Ign π .tals ∧ Ign π .out := by simp [hW])
    : see π (State.pump s g peer) = see π s := by
  simp [hW, State.pump]

@[simp ↓] theorem State.pumpAll_see (s : State) (g : ℕ) (hW : Ign π .blocks ∧ Ign π .links ∧ Ign π .lgs ∧ Ign π .tals ∧ Ign π .out := by simp [hW])
    : see π (State.pumpAll s g) = see π s := by
  rw [State.pumpAll.eq_def]; (repeat' split) <;> simp [hW]

@[simp ↓] theorem State.kick_see (s : State) (l : ℕ) (hW : Ign π .blocks ∧ Ign π .links ∧ Ign π .lgs ∧ Ign π .tals ∧ Ign π .out := by simp [hW])
    : see π (State.kick s l) = see π s := by
  simp [hW, State.kick]

@[simp ↓] theorem State.closeEpoch_see (s : State) (g : ℕ) (peer : ℕ) (r : Option CmdRef) (hW : Ign π .blocks ∧ Ign π .links ∧ Ign π .lgs ∧ Ign π .tals ∧ Ign π .out := by simp [hW])
    : see π (State.closeEpoch s g peer r) = see π s := by
  simp [hW, State.closeEpoch]

@[simp ↓] theorem State.sendPlain_see (s : State) (g : ℕ) (peer : ℕ) (f : Frame) (hW : Ign π .blocks ∧ Ign π .links ∧ Ign π .lgs ∧ Ign π .tals ∧ Ign π .out := by simp [hW])
    : see π (State.sendPlain s g peer f) = see π s := by
  simp [hW, State.sendPlain]

@[simp ↓] theorem State.sendWrites_see (s : State) (g : ℕ) (peer : ℕ) (r : CmdRef) (fs : List Frame) (hW : Ign π .blocks ∧ Ign π .links ∧ Ign π .lgs ∧ Ign π .tals ∧ Ign π .out := by simp [hW])
    : see π (State.sendWrites s g peer r fs) = see π s := by
  simp [hW, State.sendWrites]

@[simp ↓] theorem State.dropCle_see (s : State) (g : ℕ) (r : CmdRef) (hW : Ign π .lgs ∧ Ign π .cles ∧ Ign π .timers := by simp [hW])
    : see π (State.dropCle s g r) = see π s := by
  rw [State.dropCle.eq_def]; simp [hW]

@[simp ↓] theorem State.failCle_see (s : State) (g : ℕ) (r : CmdRef) (b : Bad) (hW : Ign π .mem ∧ Ign π .poison ∧ Ign π .blocks ∧ Ign π .ctxs ∧ Ign π .ques ∧ Ign π .tiles ∧ Ign π .chains ∧ Ign π .parts ∧ Ign π .lgs ∧ Ign π .cles ∧ Ign π .tals ∧ Ign π .ldgs ∧ Ign π .fog ∧ Ign π .funcs ∧ Ign π .timers ∧ Ign π .out := by simp [hW])
    : see π (State.failCle s g r b) = see π s := by
  simp [hW, State.failCle]

@[simp ↓] theorem State.moveFrames_see (s : State) (l : ℕ) (st : LinkSt) (hW : Ign π .blocks ∧ Ign π .links ∧ Ign π .lgs ∧ Ign π .tals ∧ Ign π .out := by simp [hW])
    : see π (State.moveFrames s l st) = see π s := by
  simp [hW, State.moveFrames]

@[simp ↓] theorem State.retrain_see (s : State) (l : ℕ) (hW : Ign π .blocks ∧ Ign π .links ∧ Ign π .lgs ∧ Ign π .tals ∧ Ign π .out := by simp [hW])
    : see π (State.retrain s l) = see π s := by
  simp [hW, State.retrain]

@[simp ↓] theorem State.lnkCmd_see (s : State) (m : Master) (g : Nat) (f : State) (hf : see π f = see π s) :
    see π (State.lnkCmd s m g f) = see π s := by
  rw [State.lnkCmd.eq_def]; (try dsimp only); (repeat' split) <;> simp [hf]

@[simp ↓] theorem execLnkRetrain_see (m : Master) (g : Fin 6) (link : BitVec 2) (s : State) (hW : Ign π .blocks ∧ Ign π .links ∧ Ign π .lgs ∧ Ign π .tals ∧ Ign π .timers ∧ Ign π .out := by simp [hW])
    : see π (stateOf (execLnkRetrain m g link s) s) = see π s := by
  simp [hW, execLnkRetrain]

@[simp ↓] theorem execLnkClear_see (m : Master) (g : Fin 6) (link : BitVec 2) (s : State) (hW : Ign π .links := by simp [hW])
    : see π (stateOf (execLnkClear m g link s) s) = see π s := by
  simp [hW, execLnkClear]

@[simp ↓] theorem State.forgetPeer_see (s : State) (peer : ℕ) (hW : Ign π .lgs ∧ Ign π .board ∧ Ign π .timers := by simp [hW])
    : see π (State.forgetPeer s peer) = see π s := by
  rw [State.forgetPeer.eq_def]
  refine (foldl_see _ (fun s x => ?_) _ _).trans ?_ <;> simp [hW]

@[simp ↓] theorem State.peerReset_see (s : State) (peer : ℕ) (hW : Ign π .mem ∧ Ign π .poison ∧ Ign π .blocks ∧ Ign π .ctxs ∧ Ign π .ques ∧ Ign π .tiles ∧ Ign π .chains ∧ Ign π .parts ∧ Ign π .links ∧ Ign π .lgs ∧ Ign π .board ∧ Ign π .cles ∧ Ign π .tals ∧ Ign π .ldgs ∧ Ign π .fog ∧ Ign π .funcs ∧ Ign π .timers ∧ Ign π .out := by simp [hW])
    : see π (State.peerReset s peer) = see π s := by
  rw [State.peerReset.eq_def, State.forgetPeer_see]
  refine (foldl_see _ (fun s x => ?_) _ _).trans ((foldl_see _ (fun s x => ?_) _ _).trans
    ((foldl_see _ (fun s x => ?_) _ _).trans rfl))
  · simp [hW]
  · simp [hW]
  · rw [ite_see]; split <;> simp [hW]

@[simp ↓] theorem State.ownReset_see (s : State) (peer : ℕ) (hW : Ign π .lgs ∧ Ign π .board ∧ Ign π .timers := by simp [hW])
    : see π (State.ownReset s peer) = see π s := by
  simp [hW, State.ownReset]

@[simp ↓] theorem State.exchangeInc_see (s : State) (peer : ℕ) (inc : BitVec 16) (hW : Ign π .mem ∧ Ign π .poison ∧ Ign π .blocks ∧ Ign π .ctxs ∧ Ign π .ques ∧ Ign π .tiles ∧ Ign π .chains ∧ Ign π .parts ∧ Ign π .links ∧ Ign π .lgs ∧ Ign π .board ∧ Ign π .cles ∧ Ign π .tals ∧ Ign π .ldgs ∧ Ign π .fog ∧ Ign π .funcs ∧ Ign π .timers ∧ Ign π .out := by simp [hW])
    : see π (State.exchangeInc s peer inc) = see π s := by
  rw [State.exchangeInc.eq_def]; dsimp only; (repeat' split) <;> simp [hW]

@[simp ↓] theorem State.trainFails_see (s : State) (l : ℕ) (hW : Ign π .links ∧ Ign π .timers := by simp [hW])
    : see π (State.trainFails s l) = see π s := by
  simp [hW, State.trainFails]

@[simp ↓] theorem State.linkTrained_see (s : State) (l : ℕ) (far : FarEnd) (hW : Ign π .mem ∧ Ign π .poison ∧ Ign π .blocks ∧ Ign π .ctxs ∧ Ign π .ques ∧ Ign π .tiles ∧ Ign π .chains ∧ Ign π .parts ∧ Ign π .links ∧ Ign π .lgs ∧ Ign π .board ∧ Ign π .cles ∧ Ign π .tals ∧ Ign π .ldgs ∧ Ign π .fog ∧ Ign π .funcs ∧ Ign π .timers ∧ Ign π .out := by simp [hW])
    : see π (State.linkTrained s l far) = see π s := by
  rw [State.linkTrained.eq_def]; split <;> simp [hW]

@[simp ↓] theorem State.discardFrame_see (s : State) (l : ℕ) (f : Frame) (hW : Ign π .links ∧ Ign π .out := by simp [hW])
    : see π (State.discardFrame s l f) = see π s := by
  simp [hW, State.discardFrame]

theorem State.takeFrame_see (s : State) (l : ℕ) (f : Frame) (hW : Ign π .links := by simp [hW])
    : ∀ t ∈ (State.takeFrame s l f), see π t = see π s := by
  simp [hW, State.takeFrame]

theorem State.takeFrame_see_of {s : State} {l : ℕ} {f : Frame} {t1 : State} (hh : (State.takeFrame s l f) = some t1) (hW : Ign π .links := by simp [hW])
    : see π t1 = see π s :=
  State.takeFrame_see s l f (by simp [hW]) t1 hh

/-! ## Collectives -/

@[simp ↓] theorem State.enterCle_see (s : State) (r : CmdRef) (c : Cmd) (hW : Ign π .cles ∧ Ign π .timers := by simp [hW])
    : see π (State.enterCle s r c) = see π s := by
  simp [hW, State.enterCle]

@[simp ↓] theorem State.cleProgress_see (s : State) (g : ℕ) (hW : Ign π .timers := by simp [hW])
    : see π (State.cleProgress s g) = see π s := by
  simp [hW, State.cleProgress]

@[simp ↓] theorem State.sendMaybeDone_see (s : State) (g : ℕ) (r : CmdRef) (hW : Ign π .blocks ∧ Ign π .ques ∧ Ign π .chains ∧ Ign π .lgs ∧ Ign π .cles ∧ Ign π .tals ∧ Ign π .ldgs ∧ Ign π .fog ∧ Ign π .timers ∧ Ign π .out := by simp [hW])
    : see π (State.sendMaybeDone s g r) = see π s := by
  rw [State.sendMaybeDone.eq_def]; split <;> simp [hW]

@[simp ↓] theorem State.setColl_see (s : State) (g : ℕ) (o : CollOp) (hW : Ign π .cles := by simp [hW])
    : see π (State.setColl s g o) = see π s := by
  rw [State.setColl.eq_def]; simp [hW]

@[simp ↓] theorem State.collMaybeDone_see (s : State) (g : ℕ) (hW : Ign π .blocks ∧ Ign π .ques ∧ Ign π .chains ∧ Ign π .lgs ∧ Ign π .cles ∧ Ign π .tals ∧ Ign π .ldgs ∧ Ign π .fog ∧ Ign π .timers ∧ Ign π .out := by simp [hW])
    : see π (State.collMaybeDone s g) = see π s := by
  rw [State.collMaybeDone.eq_def]; split <;> simp [hW]

@[simp ↓] theorem State.sendSlice_see (s : State) (g : ℕ) (o : CollOp) (c : Cmd) (j : ℕ) (addr : ℕ) (phase : ℕ) (data : List Byte) (hW : Ign π .blocks ∧ Ign π .links ∧ Ign π .lgs ∧ Ign π .cles ∧ Ign π .tals ∧ Ign π .out := by simp [hW])
    : see π (State.sendSlice s g o c j addr phase data) = see π s := by
  simp [hW, State.sendSlice]

@[simp ↓] theorem State.sendResult_see (s : State) (g : ℕ) (j : ℕ) (hW : Ign π .mem ∧ Ign π .poison ∧ Ign π .blocks ∧ Ign π .ctxs ∧ Ign π .ques ∧ Ign π .tiles ∧ Ign π .chains ∧ Ign π .parts ∧ Ign π .links ∧ Ign π .lgs ∧ Ign π .cles ∧ Ign π .tals ∧ Ign π .ldgs ∧ Ign π .fog ∧ Ign π .funcs ∧ Ign π .timers ∧ Ign π .out ∧ Ign π .free := by simp [hW])
    : see π (State.sendResult s g j) = see π s := by
  rw [State.sendResult.eq_def]; dsimp only; (repeat' split) <;> simp [hW]

@[simp ↓] theorem State.contribute_see (s : State) (g : ℕ) (j : ℕ) (hW : Ign π .mem ∧ Ign π .poison ∧ Ign π .blocks ∧ Ign π .ctxs ∧ Ign π .ques ∧ Ign π .tiles ∧ Ign π .chains ∧ Ign π .parts ∧ Ign π .links ∧ Ign π .lgs ∧ Ign π .cles ∧ Ign π .tals ∧ Ign π .ldgs ∧ Ign π .fog ∧ Ign π .funcs ∧ Ign π .timers ∧ Ign π .out ∧ Ign π .free := by simp [hW])
    : see π (State.contribute s g j) = see π s := by
  rw [State.contribute.eq_def]; (repeat' split) <;> simp [hW] <;> (intros; split <;> simp [hW])

@[simp ↓] theorem State.meetReady_see (s : State) (g : ℕ) (peer : ℕ) (digest : W32) (hW : Ign π .mem ∧ Ign π .poison ∧ Ign π .blocks ∧ Ign π .ctxs ∧ Ign π .ques ∧ Ign π .tiles ∧ Ign π .chains ∧ Ign π .parts ∧ Ign π .links ∧ Ign π .lgs ∧ Ign π .cles ∧ Ign π .tals ∧ Ign π .ldgs ∧ Ign π .fog ∧ Ign π .funcs ∧ Ign π .timers ∧ Ign π .out ∧ Ign π .free := by simp [hW])
    : see π (State.meetReady s g peer digest) = see π s := by
  rw [State.meetReady.eq_def]; split <;> simp [hW]

@[simp ↓] theorem State.startColl_see (s : State) (g : ℕ) (opcode : ℕ) (hW : Ign π .mem ∧ Ign π .poison ∧ Ign π .blocks ∧ Ign π .ctxs ∧ Ign π .ques ∧ Ign π .tiles ∧ Ign π .chains ∧ Ign π .parts ∧ Ign π .links ∧ Ign π .lgs ∧ Ign π .cles ∧ Ign π .tals ∧ Ign π .ldgs ∧ Ign π .fog ∧ Ign π .funcs ∧ Ign π .timers ∧ Ign π .out ∧ Ign π .free := by simp [hW])
    : see π (State.startColl s g opcode) = see π s := by
  rw [State.startColl.eq_def]; dsimp only; (repeat' split) <;> simp [hW]

@[simp ↓] theorem State.collArrive_see (s : State) (g : ℕ) (peer : ℕ) (id : ℕ) (phase : ℕ) (hW : Ign π .blocks ∧ Ign π .ques ∧ Ign π .chains ∧ Ign π .lgs ∧ Ign π .cles ∧ Ign π .tals ∧ Ign π .ldgs ∧ Ign π .fog ∧ Ign π .timers ∧ Ign π .out := by simp [hW])
    : see π (State.collArrive s g peer id phase) = see π s := by
  rw [State.collArrive.eq_def]; split <;> simp [hW]

@[simp ↓] theorem State.inboundPlace_see (s : State) (f : Frame) (n : ℕ) (hW : Ign π .blocks ∧ Ign π .tlbs ∧ Ign π .funcs ∧ Ign π .out ∧ Ign π .free := by simp [hW])
    : see π (State.inboundPlace s f n).2 = see π s := by
  rw [State.inboundPlace.eq_def]
  (repeat' split) <;> (repeat first | with_reducible rfl | refine (State.xlateRanges_see_of (by with_reducible assumption)).trans ?_ | split | simp [hW])

theorem State.inboundPlace_see_of {s : State} {f : Frame} {n : ℕ} {w1 t1} (hh : (State.inboundPlace s f n) = (w1, t1)) (hW : Ign π .blocks ∧ Ign π .tlbs ∧ Ign π .funcs ∧ Ign π .out ∧ Ign π .free := by simp [hW])
    : see π t1 = see π s := by
  rw [← State.inboundPlace_see s f n, hh]

@[simp ↓] theorem State.performFrame_see (s : State) (l : ℕ) (f : Frame) (hW : Ign π .mem ∧ Ign π .poison ∧ Ign π .blocks ∧ Ign π .ctxs ∧ Ign π .ques ∧ Ign π .tiles ∧ Ign π .chains ∧ Ign π .tlbs ∧ Ign π .parts ∧ Ign π .lgs ∧ Ign π .cles ∧ Ign π .tals ∧ Ign π .ldgs ∧ Ign π .fog ∧ Ign π .funcs ∧ Ign π .timers ∧ Ign π .out ∧ Ign π .free := by simp [hW])
    : see π (State.performFrame s l f).2 = see π s := by
  rw [State.performFrame.eq_def]
  (repeat' split) <;> (try dsimp only) <;> (repeat first | refine (State.inboundPlace_see_of (by with_reducible assumption)).trans ?_ | simp [hW])

theorem State.performFrame_see_of {s : State} {l : ℕ} {f : Frame} {w1 t1} (hh : (State.performFrame s l f) = (w1, t1)) (hW : Ign π .mem ∧ Ign π .poison ∧ Ign π .blocks ∧ Ign π .ctxs ∧ Ign π .ques ∧ Ign π .tiles ∧ Ign π .chains ∧ Ign π .tlbs ∧ Ign π .parts ∧ Ign π .lgs ∧ Ign π .cles ∧ Ign π .tals ∧ Ign π .ldgs ∧ Ign π .fog ∧ Ign π .funcs ∧ Ign π .timers ∧ Ign π .out ∧ Ign π .free := by simp [hW])
    : see π t1 = see π s := by
  rw [← State.performFrame_see s l f, hh]

@[simp ↓] theorem State.answerOn_see (s : State) (l : ℕ) (f : Frame) (typ : ℕ) (hW : Ign π .blocks ∧ Ign π .links ∧ Ign π .lgs ∧ Ign π .tals ∧ Ign π .out := by simp [hW])
    : see π (State.answerOn s l f typ) = see π s := by
  simp [hW, State.answerOn]

@[simp ↓] theorem State.rejectFrame_see (s : State) (l : ℕ) (f : Frame) (hW : Ign π .blocks ∧ Ign π .links ∧ Ign π .lgs ∧ Ign π .tals ∧ Ign π .out := by simp [hW])
    : see π (State.rejectFrame s l f) = see π s := by
  rw [State.rejectFrame.eq_def]; (repeat' split) <;> simp [hW]

@[simp ↓] theorem State.performAck_see (s : State) (l : ℕ) (f : Frame) (hW : Ign π .mem ∧ Ign π .poison ∧ Ign π .blocks ∧ Ign π .ctxs ∧ Ign π .ques ∧ Ign π .tiles ∧ Ign π .chains ∧ Ign π .tlbs ∧ Ign π .parts ∧ Ign π .links ∧ Ign π .lgs ∧ Ign π .cles ∧ Ign π .tals ∧ Ign π .ldgs ∧ Ign π .fog ∧ Ign π .funcs ∧ Ign π .timers ∧ Ign π .out ∧ Ign π .free := by simp [hW])
    : see π (State.performAck s l f) = see π s := by
  rw [State.performAck.eq_def]
  (repeat' split) <;> (try dsimp only) <;> (repeat first | refine (State.performFrame_see_of (by with_reducible assumption)).trans ?_ | simp [hW])

@[simp ↓] theorem State.setRx_see (s : State) (k : ℕ) (x : RxSrc) (hW : Ign π .board := by simp [hW])
    : see π (State.setRx s k x) = see π s := by
  rw [State.setRx.eq_def]; simp [hW]

@[simp ↓] theorem State.drainEarly_see (s : State) (k : ℕ) (v2 : ℕ) (hW : Ign π .mem ∧ Ign π .poison ∧ Ign π .blocks ∧ Ign π .ctxs ∧ Ign π .ques ∧ Ign π .tiles ∧ Ign π .chains ∧ Ign π .tlbs ∧ Ign π .parts ∧ Ign π .links ∧ Ign π .lgs ∧ Ign π .board ∧ Ign π .cles ∧ Ign π .tals ∧ Ign π .ldgs ∧ Ign π .fog ∧ Ign π .funcs ∧ Ign π .timers ∧ Ign π .out ∧ Ign π .free := by simp [hW])
    : see π (State.drainEarly s k v2) = see π s := by
  induction v2 generalizing s with
  | zero => rfl
  | succ n ih =>
    rw [State.drainEarly]
    try dsimp only
    split
    · rfl
    · rw [ih]; simp [hW]

@[simp ↓] theorem State.dropLamp_see (s : State) (g : ℕ) (k : ℕ) (h : HeldLamp) (hW : Ign π .lgs ∧ Ign π .timers := by simp [hW])
    : see π (State.dropLamp s g k h) = see π s := by
  rw [State.dropLamp.eq_def]; simp [hW]

@[simp ↓] theorem State.ackOne_see (s : State) (g : ℕ) (r : CmdRef) (hW : Ign π .blocks ∧ Ign π .ques ∧ Ign π .chains ∧ Ign π .lgs ∧ Ign π .cles ∧ Ign π .tals ∧ Ign π .ldgs ∧ Ign π .fog ∧ Ign π .timers ∧ Ign π .out := by simp [hW])
    : see π (State.ackOne s g r) = see π s := by
  rw [State.ackOne.eq_def]; dsimp only; (repeat' split) <;> simp [hW]

@[simp ↓] theorem State.sendAborts_see (s : State) (g : ℕ) (o : CollOp) (c : Cmd) (hW : Ign π .blocks ∧ Ign π .links ∧ Ign π .lgs ∧ Ign π .tals ∧ Ign π .out := by simp [hW])
    : see π (State.sendAborts s g o c) = see π s := by
  simp [hW, State.sendAborts]

@[simp ↓] theorem State.removeCle_see (s : State) (g : ℕ) (r : CmdRef) (hW : Ign π .blocks ∧ Ign π .links ∧ Ign π .lgs ∧ Ign π .cles ∧ Ign π .tals ∧ Ign π .timers ∧ Ign π .out := by simp [hW])
    : see π (State.removeCle s g r) = see π s := by
  rw [State.removeCle.eq_def]; dsimp only; split <;> simp [hW]

/-! ## Commit -/

@[simp ↓] theorem State.durationFault_see (s : State) (p : ℕ) (uclass : ℕ) (unit : ℕ) (hW : Ign π .mem ∧ Ign π .poison ∧ Ign π .blocks ∧ Ign π .tiles ∧ Ign π .parts ∧ Ign π .tals ∧ Ign π .ldgs ∧ Ign π .fog ∧ Ign π .funcs ∧ Ign π .timers ∧ Ign π .out ∧ Ign π .free := by simp [hW])
    : see π (State.durationFault s p uclass unit) = see π s := by
  simp [hW, State.durationFault]

@[simp ↓] theorem State.reportKept_see (s : State) (b : BlkId) (off : ℕ) (kept : W32) (hW : Ign π .mem ∧ Ign π .poison ∧ Ign π .blocks ∧ Ign π .ctxs ∧ Ign π .tiles ∧ Ign π .parts ∧ Ign π .tals ∧ Ign π .ldgs ∧ Ign π .fog ∧ Ign π .funcs ∧ Ign π .timers ∧ Ign π .out ∧ Ign π .free := by simp [hW])
    : see π (State.reportKept s b off kept) = see π s := by
  rw [State.reportKept.eq_def]; dsimp only; (repeat' split) <;> simp [hW]

@[simp ↓] theorem State.queEnableTo_see (s : State) (p : ℕ) (q : ℕ) (on : Bool) (hW : Ign π .ques ∧ Ign π .timers := by simp [hW])
    : see π (State.queEnableTo s p q on) = see π s := by
  simp [hW, State.queEnableTo]

@[simp ↓] theorem State.committed_see (s : State) (b : BlkId) (off : ℕ) (old : W32) (hW : Ign π .mem ∧ Ign π .poison ∧ Ign π .blocks ∧ Ign π .ctxs ∧ Ign π .ques ∧ Ign π .tiles ∧ Ign π .chains ∧ Ign π .nmes ∧ Ign π .kvfs ∧ Ign π .parts ∧ Ign π .rings ∧ Ign π .links ∧ Ign π .lgs ∧ Ign π .pairs ∧ Ign π .tals ∧ Ign π .ldgs ∧ Ign π .wchs ∧ Ign π .fog ∧ Ign π .funcs ∧ Ign π .timers ∧ Ign π .out := by simp [hW])
    : see π (State.committed s b off old) = see π s := by
  rw [State.committed.eq_def]; split <;> simp [hW]

@[simp ↓] theorem State.applyPart_see (s : State) (b : BlkId) (part : ℕ) (hW : Ign π .mem ∧ Ign π .poison ∧ Ign π .blocks ∧ Ign π .ctxs ∧ Ign π .ques ∧ Ign π .tiles ∧ Ign π .chains ∧ Ign π .nmes ∧ Ign π .kvfs ∧ Ign π .parts ∧ Ign π .rings ∧ Ign π .links ∧ Ign π .lgs ∧ Ign π .pairs ∧ Ign π .tals ∧ Ign π .ldgs ∧ Ign π .wchs ∧ Ign π .fog ∧ Ign π .funcs ∧ Ign π .timers ∧ Ign π .out ∧ Ign π .free := by simp [hW])
    : see π (State.applyPart s b part) = see π s := by
  simp [hW, State.applyPart]

@[simp ↓] theorem State.go_see (s : State) (b : BlkId) (hW : Ign π .mem ∧ Ign π .poison ∧ Ign π .blocks ∧ Ign π .ctxs ∧ Ign π .ques ∧ Ign π .tiles ∧ Ign π .chains ∧ Ign π .nmes ∧ Ign π .kvfs ∧ Ign π .parts ∧ Ign π .rings ∧ Ign π .links ∧ Ign π .lgs ∧ Ign π .pairs ∧ Ign π .tals ∧ Ign π .ldgs ∧ Ign π .wchs ∧ Ign π .fog ∧ Ign π .funcs ∧ Ign π .timers ∧ Ign π .out ∧ Ign π .free := by simp [hW])
    : see π (State.go s b) = see π s := by
  simp [hW, State.go]

@[simp ↓] theorem State.vxeEnd_see (s : State) (s0 : State) (t : ℕ) (p : ℕ) (o : VxeOp) (c : Cmd) (g : Gate) (ws : List (ℕ × List Byte)) (hW : Ign π .mem ∧ Ign π .poison ∧ Ign π .blocks ∧ Ign π .ctxs ∧ Ign π .ques ∧ Ign π .tiles ∧ Ign π .vxes ∧ Ign π .chains ∧ Ign π .parts ∧ Ign π .tals ∧ Ign π .ldgs ∧ Ign π .fog ∧ Ign π .funcs ∧ Ign π .timers ∧ Ign π .out ∧ Ign π .free := by simp [hW])
    (h : see π s = see π s0 := by simp [hW]) : see π (State.vxeEnd s s0 t p o c g ws) = see π s0 := by
  rw [State.vxeEnd.eq_def]; (repeat' split) <;> simp [hW, h]

theorem sampleVec_see (t p : ℕ) (c : Cmd) (rec_ : List W64) (a : Smp × State) (ij : ℕ × ℕ) (hW : Ign π .mem ∧ Ign π .poison ∧ Ign π .blocks ∧ Ign π .tiles ∧ Ign π .tals ∧ Ign π .funcs ∧ Ign π .out ∧ Ign π .free := by simp [hW])
    : see π (sampleVec t p c rec_ a ij).2 = see π a.2 := by
  rw [sampleVec.eq_def]; dsimp only; (repeat' split) <;> simp [hW]

@[simp ↓] theorem sampleVecs_see (t : ℕ) (p : ℕ) (c : Cmd) (rec_ : List W64) (s : State) (hW : Ign π .mem ∧ Ign π .poison ∧ Ign π .blocks ∧ Ign π .tiles ∧ Ign π .tals ∧ Ign π .funcs ∧ Ign π .out ∧ Ign π .free := by simp [hW])
    : see π (sampleVecs t p c rec_ s).2 = see π s := by
  rw [sampleVecs.eq_def]; exact foldl_snd_see _ (fun a ij => sampleVec_see t p c rec_ a ij (by simp [hW])) _ _

theorem sampleVecs_see_of {t : ℕ} {p : ℕ} {c : Cmd} {rec_ : List W64} {s : State} {w1 t1} (hh : (sampleVecs t p c rec_ s) = (w1, t1)) (hW : Ign π .mem ∧ Ign π .poison ∧ Ign π .blocks ∧ Ign π .tiles ∧ Ign π .tals ∧ Ign π .funcs ∧ Ign π .out ∧ Ign π .free := by simp [hW])
    : see π t1 = see π s := by
  rw [← sampleVecs_see t p c rec_ s, hh]

@[simp ↓] theorem execGo_see (m : Master) (b : BlkId) (s : State) (hW : Ign π .mem ∧ Ign π .poison ∧ Ign π .blocks ∧ Ign π .ctxs ∧ Ign π .ques ∧ Ign π .tiles ∧ Ign π .chains ∧ Ign π .nmes ∧ Ign π .kvfs ∧ Ign π .parts ∧ Ign π .rings ∧ Ign π .links ∧ Ign π .lgs ∧ Ign π .pairs ∧ Ign π .tals ∧ Ign π .ldgs ∧ Ign π .wchs ∧ Ign π .fog ∧ Ign π .funcs ∧ Ign π .timers ∧ Ign π .out ∧ Ign π .free := by simp [hW])
    : see π (stateOf (execGo m b s) s) = see π s := by
  simp [hW, execGo]

@[simp ↓] theorem execDiscard_see (m : Master) (b : BlkId) (s : State) (hW : Ign π .mem ∧ Ign π .poison ∧ Ign π .blocks ∧ Ign π .tiles ∧ Ign π .tals ∧ Ign π .funcs := by simp [hW])
    : see π (stateOf (execDiscard m b s) s) = see π s := by
  simp [hW, execDiscard]

/-! ## Observe -/

@[simp ↓] theorem execTalClear_see (m : Master) (b : BlkId) (first : BitVec 8) (countM1 : BitVec 8) (s : State) (hW : Ign π .tals := by simp [hW])
    : see π (stateOf (execTalClear m b first countM1 s) s) = see π s := by
  simp [hW, execTalClear]

@[simp ↓] theorem execFire_see (m : Master) (s : State) (hW : Ign π .fog ∧ Ign π .timers ∧ Ign π .out := by simp [hW])
    : see π (stateOf (execFire m s) s) = see π s := by
  simp [hW, execFire]

@[simp ↓] theorem State.ledgerFog_see (s : State) (b : BlkId) (hW : Ign π .blocks ∧ Ign π .tals ∧ Ign π .ldgs ∧ Ign π .fog ∧ Ign π .timers ∧ Ign π .out := by simp [hW])
    : see π (State.ledgerFog s b) = see π s := by
  simp [hW, State.ledgerFog]

@[simp ↓] theorem State.watchSnap_see (s : State) (t : ℕ) (w : ℕ) (hW : Ign π .wchs := by simp [hW])
    : see π (State.watchSnap s t w) = see π s := by
  rw [State.watchSnap.eq_def]; simp [hW]

@[simp ↓] theorem State.ledgerThaw_see (s : State) (b : BlkId) (hW : Ign π .blocks ∧ Ign π .tals ∧ Ign π .ldgs ∧ Ign π .fog ∧ Ign π .timers ∧ Ign π .out := by simp [hW])
    : see π (State.ledgerThaw s b) = see π s := by
  simp [hW, State.ledgerThaw]

@[simp ↓] theorem State.thaw_see (s : State) (hW : Ign π .blocks ∧ Ign π .tals ∧ Ign π .ldgs ∧ Ign π .fog ∧ Ign π .timers ∧ Ign π .out := by simp [hW])
    : see π (State.thaw s) = see π s := by
  simp [hW, State.thaw]

@[simp ↓] theorem execThaw_see (m : Master) (s : State) (hW : Ign π .blocks ∧ Ign π .tals ∧ Ign π .ldgs ∧ Ign π .fog ∧ Ign π .timers ∧ Ign π .out := by simp [hW])
    : see π (stateOf (execThaw m s) s) = see π s := by
  simp [hW, execThaw]

@[simp ↓] theorem execLdgArm_see (m : Master) (b : BlkId) (s : State) (hW : Ign π .ldgs := by simp [hW])
    : see π (stateOf (execLdgArm m b s) s) = see π s := by
  simp [hW, execLdgArm]

@[simp ↓] theorem execLdgStop_see (m : Master) (b : BlkId) (s : State) (hW : Ign π .ldgs := by simp [hW])
    : see π (stateOf (execLdgStop m b s) s) = see π s := by
  simp [hW, execLdgStop]

@[simp ↓] theorem execLdgTrigger_see (m : Master) (b : BlkId) (s : State) (hW : Ign π .blocks ∧ Ign π .tals ∧ Ign π .ldgs ∧ Ign π .fog ∧ Ign π .timers ∧ Ign π .out := by simp [hW])
    : see π (stateOf (execLdgTrigger m b s) s) = see π s := by
  simp [hW, execLdgTrigger]

@[simp ↓] theorem State.ledgerRelease_see (s : State) (b : BlkId) (v3 : List (List W64)) (hW : Ign π .blocks ∧ Ign π .tals ∧ Ign π .ldgs ∧ Ign π .fog ∧ Ign π .timers ∧ Ign π .out := by simp [hW])
    : see π (State.ledgerRelease s b v3) = see π s := by
  induction v3 generalizing s with
  | nil => rfl
  | cons r rs ih =>
    rw [State.ledgerRelease]
    split
    · simp [hW]
    · rw [ih]; simp [hW]

@[simp ↓] theorem State.ledgerRetry_see (s : State) (b : BlkId) (hW : Ign π .blocks ∧ Ign π .tals ∧ Ign π .ldgs ∧ Ign π .fog ∧ Ign π .timers ∧ Ign π .out := by simp [hW])
    : see π (State.ledgerRetry s b) = see π s := by
  rw [State.ledgerRetry.eq_def]; dsimp only; (repeat' split) <;> simp [hW]

@[simp ↓] theorem execLdgRdSelWrite_see (m : Master) (b : BlkId) (v : W32) (s : State) (hW : Ign π .blocks ∧ Ign π .ldgs := by simp [hW])
    : see π (stateOf (execLdgRdSelWrite m b v s) s) = see π s := by
  simp [hW, execLdgRdSelWrite]

@[simp ↓] theorem execWchSnap_see (m : Master) (t : Fin 48) (slots : BitVec 4) (s : State) (hW : Ign π .wchs := by simp [hW])
    : see π (stateOf (execWchSnap m t slots s) s) = see π s := by
  simp [hW, execWchSnap]

@[simp ↓] theorem execWchClear_see (m : Master) (t : Fin 48) (slots : BitVec 4) (s : State) (hW : Ign π .wchs := by simp [hW])
    : see π (stateOf (execWchClear m t slots s) s) = see π s := by
  simp [hW, execWchClear]

/-! ## Runtime -/

theorem stateOf_see (r : Result) (s : State) (h : ∀ t, r = .next t → see π t = see π s) :
    see π (stateOf r s) = see π s := by
  rw [stateOf.eq_def]; split
  · exact h _ rfl
  · rfl

@[simp ↓] theorem State.updPair_see (s : State) (k : ℕ) (f : Pair → Pair) (hW : Ign π .pairs := by simp [hW])
    : see π (State.updPair s k f) = see π s := by
  rw [State.updPair.eq_def]; simp [hW]

@[simp ↓] theorem State.noteCore_see (s : State) (core : ℕ) (v3 : Option HostWr) (hW : Ign π .pairs := by simp [hW])
    : see π (State.noteCore s core v3) = see π s := by
  cases v3 <;> simp [hW, State.noteCore, State.updPair]

@[simp ↓] theorem State.accept_see (s : State) (p : ℕ) (q : ℕ) (k : ℕ) (r : CmdRef) (c : Cmd) (code : ℕ) (value : ℕ) (hW : Ign π .mem ∧ Ign π .poison ∧ Ign π .blocks ∧ Ign π .ctxs ∧ Ign π .ques ∧ Ign π .tiles ∧ Ign π .tlbs ∧ Ign π .parts ∧ Ign π .pairs ∧ Ign π .tals ∧ Ign π .ldgs ∧ Ign π .fog ∧ Ign π .funcs ∧ Ign π .timers ∧ Ign π .out ∧ Ign π .free := by simp [hW])
    : see π (State.accept s p q k r c code value).2 = see π s := by
  rw [State.accept.eq_def]
  (repeat' split) <;> (repeat first | with_reducible rfl | refine (State.storeVa_see_of (by with_reducible assumption)).trans ?_ | split | simp [hW])

theorem State.accept_see_of {s : State} {p : ℕ} {q : ℕ} {k : ℕ} {r : CmdRef} {c : Cmd} {code : ℕ} {value : ℕ} {w1 t1} (hh : (State.accept s p q k r c code value) = (w1, t1)) (hW : Ign π .mem ∧ Ign π .poison ∧ Ign π .blocks ∧ Ign π .ctxs ∧ Ign π .ques ∧ Ign π .tiles ∧ Ign π .tlbs ∧ Ign π .parts ∧ Ign π .pairs ∧ Ign π .tals ∧ Ign π .ldgs ∧ Ign π .fog ∧ Ign π .funcs ∧ Ign π .timers ∧ Ign π .out ∧ Ign π .free := by simp [hW])
    : see π t1 = see π s := by
  rw [← State.accept_see s p q k r c code value, hh]

@[simp ↓] theorem State.rtSet_see (s : State) (p : Fin 8) (k : Fin 8) (h : W32) (word : ℕ → ℕ) (hW : Ign π .blocks ∧ Ign π .sess := by simp [hW])
    : see π (State.rtSet s p k h word) = see π s := by
  simp [hW, State.rtSet]

@[simp ↓] theorem State.coreFlush_see (s : State) (core : ℕ) (a : ℕ) (hW : Ign π .blocks ∧ Ign π .funcs ∧ Ign π .out ∧ Ign π .free := by simp [hW])
    : see π (State.coreFlush s core a).2 = see π s := by
  rw [State.coreFlush.eq_def]; split <;> simp [hW]

theorem State.coreFlush_see_of {s : State} {core : ℕ} {a : ℕ} {w1 t1} (hh : (State.coreFlush s core a) = (w1, t1)) (hW : Ign π .blocks ∧ Ign π .funcs ∧ Ign π .out ∧ Ign π .free := by simp [hW])
    : see π t1 = see π s := by
  rw [← State.coreFlush_see s core a, hh]

@[simp ↓] theorem State.rtRelease_see (s : State) (p : ℕ) (k : ℕ) (lc : ℕ) (word : W64) (v : ℕ) (hW : Ign π .mem ∧ Ign π .poison ∧ Ign π .blocks ∧ Ign π .ctxs ∧ Ign π .rels ∧ Ign π .tiles ∧ Ign π .tlbs ∧ Ign π .parts ∧ Ign π .tals ∧ Ign π .ldgs ∧ Ign π .fog ∧ Ign π .funcs ∧ Ign π .timers ∧ Ign π .out ∧ Ign π .free := by simp [hW])
    : see π (State.rtRelease s p k lc word v) = see π s := by
  rw [State.rtRelease.eq_def]
  (repeat' split) <;> (try dsimp only) <;> (repeat first | with_reducible rfl | refine (State.coreFlush_see_of (by with_reducible assumption)).trans ?_ | refine (State.markPhys_see_of (by with_reducible assumption)).trans ?_ | split | simp [hW])

@[simp ↓] theorem State.putToken_see (s : State) (p : ℕ) (k : ℕ) (d : DecodeReq) (t : Token) (hW : Ign π .mem ∧ Ign π .poison ∧ Ign π .blocks ∧ Ign π .ctxs ∧ Ign π .rels ∧ Ign π .tiles ∧ Ign π .tlbs ∧ Ign π .parts ∧ Ign π .pairs ∧ Ign π .tals ∧ Ign π .ldgs ∧ Ign π .fog ∧ Ign π .funcs ∧ Ign π .timers ∧ Ign π .out ∧ Ign π .free := by simp [hW])
    : see π (State.putToken s p k d t) = see π s := by
  rw [State.putToken.eq_def]
  (repeat' split) <;> (repeat first | with_reducible rfl | refine (State.storeVa_see_of (by with_reducible assumption)).trans ?_ | split | simp [hW])

@[simp ↓] theorem State.cutDecode_see (s : State) (p : ℕ) (k : ℕ) (d : DecodeReq) (hW : Ign π .mem ∧ Ign π .poison ∧ Ign π .blocks ∧ Ign π .ctxs ∧ Ign π .rels ∧ Ign π .tiles ∧ Ign π .tlbs ∧ Ign π .parts ∧ Ign π .pairs ∧ Ign π .tals ∧ Ign π .ldgs ∧ Ign π .fog ∧ Ign π .funcs ∧ Ign π .timers ∧ Ign π .out ∧ Ign π .free := by simp [hW])
    : see π (State.cutDecode s p k d) = see π s := by
  simp [hW, State.cutDecode]

@[simp ↓] theorem State.endDecode_see (s : State) (p : ℕ) (k : ℕ) (h : W32) (hW : Ign π .mem ∧ Ign π .poison ∧ Ign π .blocks ∧ Ign π .ctxs ∧ Ign π .rels ∧ Ign π .tiles ∧ Ign π .tlbs ∧ Ign π .parts ∧ Ign π .pairs ∧ Ign π .tals ∧ Ign π .ldgs ∧ Ign π .fog ∧ Ign π .funcs ∧ Ign π .timers ∧ Ign π .out ∧ Ign π .free := by simp [hW])
    : see π (State.endDecode s p k h) = see π s := by
  rw [State.endDecode.eq_def]; split <;> simp [hW]

@[simp ↓] theorem State.twoPhase_see (s : State) (k : Nat) (r : CmdRef) (start done : State) (hf : see π start = see π s) (hd : see π done = see π s) (hW : Ign π .pairs := by simp [hW])
    :
    see π (State.twoPhase s k r start done) = see π s := by
  rw [State.twoPhase.eq_def]; (try dsimp only); (repeat' split) <;> simp [hW, hf, hd]

@[simp ↓] theorem State.roll_see (s : State) (p : ℕ) (k : ℕ) (it : RollItem) (hW : Ign π .mem ∧ Ign π .poison ∧ Ign π .tiles := by simp [hW])
    : see π (State.roll s p k it) = see π s := by
  simp [hW, State.roll]

@[simp ↓] theorem State.deliver_see (s : State) (p : ℕ) (k : ℕ) (d : DecodeReq) (recs : List CandRec) (hW : Ign π .mem ∧ Ign π .poison ∧ Ign π .blocks ∧ Ign π .ctxs ∧ Ign π .rels ∧ Ign π .tiles ∧ Ign π .tlbs ∧ Ign π .parts ∧ Ign π .pairs ∧ Ign π .tals ∧ Ign π .ldgs ∧ Ign π .fog ∧ Ign π .funcs ∧ Ign π .timers ∧ Ign π .out ∧ Ign π .free := by simp [hW])
    : see π (State.deliver s p k d recs) = see π s := by
  rw [State.deliver.eq_def]; dsimp only; (repeat' split) <;> simp [hW]

@[simp ↓] theorem State.cutExhausted_see (s : State) (p : ℕ) (k : ℕ) (d : DecodeReq) (hW : Ign π .mem ∧ Ign π .poison ∧ Ign π .blocks ∧ Ign π .ctxs ∧ Ign π .rels ∧ Ign π .tiles ∧ Ign π .tlbs ∧ Ign π .parts ∧ Ign π .pairs ∧ Ign π .tals ∧ Ign π .ldgs ∧ Ign π .fog ∧ Ign π .funcs ∧ Ign π .timers ∧ Ign π .out ∧ Ign π .free := by simp [hW])
    : see π (State.cutExhausted s p k d) = see π s := by
  rw [State.cutExhausted.eq_def]; dsimp only; split <;> simp [hW]

theorem State.recoverStep_see (s : State) (p : Fin 8) (k : ℕ) (hW : Ign π .mem ∧ Ign π .poison ∧ Ign π .blocks ∧ Ign π .ctxs ∧ Ign π .rels ∧ Ign π .tiles ∧ Ign π .tlbs ∧ Ign π .kvfs ∧ Ign π .parts ∧ Ign π .sess ∧ Ign π .pairs ∧ Ign π .tals ∧ Ign π .ldgs ∧ Ign π .fog ∧ Ign π .funcs ∧ Ign π .timers ∧ Ign π .out ∧ Ign π .free := by simp [hW])
    : ∀ t ∈ (State.recoverStep s p k), see π t = see π s := by
  rw [State.recoverStep.eq_def]; dsimp only; (repeat' split) <;> simp [hW]

theorem State.recoverStep_see_of {s : State} {p : Fin 8} {k : ℕ} {t1 : State} (hh : (State.recoverStep s p k) = some t1) (hW : Ign π .mem ∧ Ign π .poison ∧ Ign π .blocks ∧ Ign π .ctxs ∧ Ign π .rels ∧ Ign π .tiles ∧ Ign π .tlbs ∧ Ign π .kvfs ∧ Ign π .parts ∧ Ign π .sess ∧ Ign π .pairs ∧ Ign π .tals ∧ Ign π .ldgs ∧ Ign π .fog ∧ Ign π .funcs ∧ Ign π .timers ∧ Ign π .out ∧ Ign π .free := by simp [hW])
    : see π t1 = see π s :=
  State.recoverStep_see s p k (by simp [hW]) t1 hh

@[simp ↓] theorem State.endPrefill_see (s : State) (p : ℕ) (k : ℕ) (f : PrefillReq) (hW : Ign π .mem ∧ Ign π .poison ∧ Ign π .blocks ∧ Ign π .ctxs ∧ Ign π .rels ∧ Ign π .tiles ∧ Ign π .tlbs ∧ Ign π .kvfs ∧ Ign π .parts ∧ Ign π .sess ∧ Ign π .pairs ∧ Ign π .tals ∧ Ign π .ldgs ∧ Ign π .fog ∧ Ign π .funcs ∧ Ign π .timers ∧ Ign π .out ∧ Ign π .free := by simp [hW])
    : see π (State.endPrefill s p k f) = see π s := by
  simp [hW, State.endPrefill]

@[simp ↓] theorem State.prefillChunk_see (s : State) (p : ℕ) (k : ℕ) (hW : Ign π .mem ∧ Ign π .poison ∧ Ign π .blocks ∧ Ign π .ctxs ∧ Ign π .rels ∧ Ign π .tiles ∧ Ign π .tlbs ∧ Ign π .kvfs ∧ Ign π .parts ∧ Ign π .sess ∧ Ign π .pairs ∧ Ign π .tals ∧ Ign π .ldgs ∧ Ign π .fog ∧ Ign π .funcs ∧ Ign π .timers ∧ Ign π .out ∧ Ign π .free := by simp [hW])
    : see π (State.prefillChunk s p k) = see π s := by
  rw [State.prefillChunk.eq_def]; split <;> simp [hW]

/-! ## Image -/

@[simp ↓] theorem State.imgResult_see (s : State) (r : ℕ) (hW : Ign π .img := by simp [hW])
    : see π (State.imgResult s r) = see π s := by
  rw [State.imgResult.eq_def]; simp [hW]

@[simp ↓] theorem State.imgOwned_see (s : State) (m : Master) (f : State) (hf : see π f = see π s) (hW : Ign π .img := by simp [hW])
    :
    see π (s.imgOwned m f) = see π s := by
  rw [State.imgOwned.eq_def]; (repeat' split) <;> simp [hW, hf]

@[simp ↓] theorem execImgClaimWrite_see (m : Master) (owner : BitVec 2) (s : State) (hW : Ign π .img := by simp [hW])
    : see π (stateOf (execImgClaimWrite m owner s) s) = see π s := by
  simp [hW, execImgClaimWrite]

@[simp ↓] theorem execImgClaimForce_see (m : Master) (s : State) (hW : Ign π .img := by simp [hW])
    : see π (stateOf (execImgClaimForce m s) s) = see π s := by
  simp [hW, execImgClaimForce]

@[simp ↓] theorem State.imgPut_see (s : State) (off : ℕ) (bs : List Byte) (hW : Ign π .img := by simp [hW])
    : see π (State.imgPut s off bs) = see π s := by
  rw [State.imgPut.eq_def]; simp [hW]

@[simp ↓] theorem execImgBufWrite_see (m : Master) (off : ℕ) (v : W32) (s : State) (hW : Ign π .img := by simp [hW])
    : see π (stateOf (execImgBufWrite m off v s) s) = see π s := by
  simp [hW, execImgBufWrite]

@[simp ↓] theorem State.imgCmd_see (s : State) (m : Master) (f : State → State) (hf : ∀ s, see π (f s) = see π s) (hW : Ign π .mem ∧ Ign π .poison ∧ Ign π .blocks ∧ Ign π .img ∧ Ign π .ctxs ∧ Ign π .ques ∧ Ign π .tiles ∧ Ign π .chains ∧ Ign π .nmes ∧ Ign π .kvfs ∧ Ign π .parts ∧ Ign π .rings ∧ Ign π .links ∧ Ign π .lgs ∧ Ign π .pairs ∧ Ign π .tals ∧ Ign π .ldgs ∧ Ign π .wchs ∧ Ign π .fog ∧ Ign π .funcs ∧ Ign π .timers ∧ Ign π .out ∧ Ign π .free := by simp [hW])
    :
    see π (s.imgCmd m f) = see π s := by
  rw [State.imgCmd.eq_def]
  refine State.imgOwned_see s m _ ?_
  split <;> simp [hW, hf]

@[simp ↓] theorem execImgFetch_see (m : Master) (s : State) (hW : Ign π .mem ∧ Ign π .poison ∧ Ign π .blocks ∧ Ign π .img ∧ Ign π .ctxs ∧ Ign π .ques ∧ Ign π .tiles ∧ Ign π .chains ∧ Ign π .nmes ∧ Ign π .kvfs ∧ Ign π .parts ∧ Ign π .rings ∧ Ign π .links ∧ Ign π .lgs ∧ Ign π .pairs ∧ Ign π .tals ∧ Ign π .ldgs ∧ Ign π .wchs ∧ Ign π .fog ∧ Ign π .funcs ∧ Ign π .timers ∧ Ign π .out ∧ Ign π .free := by simp [hW])
    : see π (stateOf (execImgFetch m s) s) = see π s := by
  simp [hW, execImgFetch]

@[simp ↓] theorem State.imgFetched_see (s : State) (data : Option (List Byte)) (hW : Ign π .blocks ∧ Ign π .img := by simp [hW])
    : see π (State.imgFetched s data) = see π s := by
  rw [State.imgFetched.eq_def]; dsimp only; (repeat' split) <;> simp [hW]

@[simp ↓] theorem execImgVerify_see (m : Master) (s : State) (hW : Ign π .mem ∧ Ign π .poison ∧ Ign π .blocks ∧ Ign π .img ∧ Ign π .ctxs ∧ Ign π .ques ∧ Ign π .tiles ∧ Ign π .chains ∧ Ign π .nmes ∧ Ign π .kvfs ∧ Ign π .parts ∧ Ign π .rings ∧ Ign π .links ∧ Ign π .lgs ∧ Ign π .pairs ∧ Ign π .tals ∧ Ign π .ldgs ∧ Ign π .wchs ∧ Ign π .fog ∧ Ign π .funcs ∧ Ign π .timers ∧ Ign π .out ∧ Ign π .free := by simp [hW])
    : see π (stateOf (execImgVerify m s) s) = see π s := by
  simp [hW, execImgVerify]

@[simp ↓] theorem execImgClear_see (m : Master) (s : State) (hW : Ign π .mem ∧ Ign π .poison ∧ Ign π .blocks ∧ Ign π .img ∧ Ign π .ctxs ∧ Ign π .ques ∧ Ign π .tiles ∧ Ign π .chains ∧ Ign π .nmes ∧ Ign π .kvfs ∧ Ign π .parts ∧ Ign π .rings ∧ Ign π .links ∧ Ign π .lgs ∧ Ign π .pairs ∧ Ign π .tals ∧ Ign π .ldgs ∧ Ign π .wchs ∧ Ign π .fog ∧ Ign π .funcs ∧ Ign π .timers ∧ Ign π .out ∧ Ign π .free := by simp [hW])
    : see π (stateOf (execImgClear m s) s) = see π s := by
  simp [hW, execImgClear]

@[simp ↓] theorem State.verifyEnd_see (s : State) (hW : Ign π .blocks ∧ Ign π .img ∧ Ign π .out := by simp [hW])
    : see π (State.verifyEnd s) = see π s := by
  rw [State.verifyEnd.eq_def]; split <;> simp [hW]

/-! ## Units -/

@[simp ↓] theorem State.resetBlk_see (s : State) (i : Option ImageCfg) (b : BlkId) (hW : Ign π .blocks := by simp [hW])
    : see π (State.resetBlk s i b) = see π s := by
  rw [State.resetBlk.eq_def]; simp [hW]

@[simp ↓] theorem State.resetBlks_see (s : State) (i : Option ImageCfg) (ks : List BlkKind) (u : ℕ) (hW : Ign π .blocks := by simp [hW])
    : see π (State.resetBlks s i ks u) = see π s := by
  simp [hW, State.resetBlks]

@[simp ↓] theorem State.ledgerOff_see (s : State) (b : BlkId) (hW : Ign π .ldgs := by simp [hW])
    : see π (State.ledgerOff s b) = see π s := by
  rw [State.ledgerOff.eq_def]; simp [hW]

@[simp ↓] theorem State.dropTimers_see (s : State) (f : TimerId → Bool) (hW : Ign π .timers := by simp [hW])
    : see π (State.dropTimers s f) = see π s := by
  rw [State.dropTimers.eq_def]; simp [hW]

@[simp ↓] theorem State.resetTile_see (s : State) (i : Option ImageCfg) (t : ℕ) (hW : Ign π .mem ∧ Ign π .poison ∧ Ign π .blocks ∧ Ign π .tiles ∧ Ign π .mxes ∧ Ign π .vxes ∧ Ign π .stes ∧ Ign π .chains ∧ Ign π .tlbs ∧ Ign π .ldgs ∧ Ign π .wchs ∧ Ign π .timers := by simp [hW])
    : see π (State.resetTile s i t) = see π s := by
  simp [hW, State.resetTile]

@[simp ↓] theorem State.resetStack_see (s : State) (i : Option ImageCfg) (k : ℕ) (hW : Ign π .blocks ∧ Ign π .stks ∧ Ign π .tlbs ∧ Ign π .nmes ∧ Ign π .kvfs ∧ Ign π .ldgs ∧ Ign π .timers := by simp [hW])
    : see π (State.resetStack s i k) = see π s := by
  simp [hW, State.resetStack]

@[simp ↓] theorem State.resetLg_see (s : State) (i : Option ImageCfg) (links : ℕ) (g : ℕ) (hW : Ign π .blocks ∧ Ign π .tlbs ∧ Ign π .links ∧ Ign π .lgs ∧ Ign π .cles ∧ Ign π .timers := by simp [hW])
    : see π (State.resetLg s i links g) = see π s := by
  simp [hW, State.resetLg]

@[simp ↓] theorem State.resetKp_see (s : State) (i : Option ImageCfg) (p : ℕ) (hW : Ign π .blocks ∧ Ign π .pairs ∧ Ign π .timers := by simp [hW])
    : see π (State.resetKp s i p) = see π s := by
  rw [State.resetKp.eq_def]; simp [hW]

@[simp ↓] theorem State.setDom_see (s : State) (d : ℕ) (on : Bool) (hW : Ign π .pwr := by simp [hW])
    : see π (State.setDom s d on) = see π s := by
  rw [State.setDom.eq_def]; simp [hW]

@[simp ↓] theorem State.closeDoms_see (s : State) (ds : List ℕ) (hW : Ign π .pwr := by simp [hW])
    : see π (State.closeDoms s ds) = see π s := by
  rw [State.closeDoms.eq_def]; (repeat' split) <;> simp [hW]

@[simp ↓] theorem State.loseUnit_see (s : State) (d : ℕ) (hW : Ign π .mem ∧ Ign π .poison ∧ Ign π .blocks ∧ Ign π .tiles ∧ Ign π .mxes ∧ Ign π .vxes ∧ Ign π .stes ∧ Ign π .chains ∧ Ign π .stks ∧ Ign π .tlbs ∧ Ign π .nmes ∧ Ign π .kvfs ∧ Ign π .links ∧ Ign π .lgs ∧ Ign π .cles ∧ Ign π .pairs ∧ Ign π .tals ∧ Ign π .ldgs ∧ Ign π .wchs ∧ Ign π .cycles ∧ Ign π .pcx ∧ Ign π .funcs ∧ Ign π .timers := by simp [hW])
    : see π (State.loseUnit s d) = see π s := by
  rw [State.loseUnit.eq_def]; split <;> simp [hW]

@[simp ↓] theorem State.domainOff_see (s : State) (d : ℕ) (hW : Ign π .mem ∧ Ign π .poison ∧ Ign π .blocks ∧ Ign π .tiles ∧ Ign π .mxes ∧ Ign π .vxes ∧ Ign π .stes ∧ Ign π .chains ∧ Ign π .stks ∧ Ign π .tlbs ∧ Ign π .nmes ∧ Ign π .kvfs ∧ Ign π .links ∧ Ign π .lgs ∧ Ign π .cles ∧ Ign π .pairs ∧ Ign π .tals ∧ Ign π .ldgs ∧ Ign π .wchs ∧ Ign π .cycles ∧ Ign π .pcx ∧ Ign π .funcs ∧ Ign π .pwr ∧ Ign π .timers := by simp [hW])
    : see π (State.domainOff s d) = see π s := by
  simp [hW, State.domainOff]

@[simp ↓] theorem State.dropDoms_see (s : State) (ds : List ℕ) (hW : Ign π .mem ∧ Ign π .poison ∧ Ign π .blocks ∧ Ign π .tiles ∧ Ign π .mxes ∧ Ign π .vxes ∧ Ign π .stes ∧ Ign π .chains ∧ Ign π .stks ∧ Ign π .tlbs ∧ Ign π .nmes ∧ Ign π .kvfs ∧ Ign π .links ∧ Ign π .lgs ∧ Ign π .cles ∧ Ign π .pairs ∧ Ign π .tals ∧ Ign π .ldgs ∧ Ign π .wchs ∧ Ign π .cycles ∧ Ign π .pcx ∧ Ign π .funcs ∧ Ign π .pwr ∧ Ign π .timers := by simp [hW])
    : see π (State.dropDoms s ds) = see π s := by
  rw [State.dropDoms.eq_def]; (repeat' split) <;> simp [hW]

@[simp ↓] theorem State.comeUpFrozen_see (s : State) (b : BlkId) (hW : Ign π .tals := by simp [hW])
    : see π (State.comeUpFrozen s b) = see π s := by
  simp [hW, State.comeUpFrozen]

@[simp ↓] theorem State.domainOn_see (s : State) (d : ℕ) (links : ℕ) (hW : Ign π .mem ∧ Ign π .poison ∧ Ign π .blocks ∧ Ign π .tiles ∧ Ign π .mxes ∧ Ign π .vxes ∧ Ign π .stes ∧ Ign π .chains ∧ Ign π .stks ∧ Ign π .tlbs ∧ Ign π .nmes ∧ Ign π .kvfs ∧ Ign π .links ∧ Ign π .lgs ∧ Ign π .cles ∧ Ign π .pairs ∧ Ign π .tals ∧ Ign π .ldgs ∧ Ign π .wchs ∧ Ign π .cycles ∧ Ign π .pcx ∧ Ign π .funcs ∧ Ign π .pwr ∧ Ign π .timers := by simp [hW])
    : see π (State.domainOn s d links) = see π s := by
  rw [State.domainOn.eq_def]; (repeat' split) <;> simp [hW]

@[simp ↓] theorem State.switchOn_see (s : State) (i : Option ImageCfg) (parts : ℕ → Bool) (hW : Ign π .mem ∧ Ign π .poison ∧ Ign π .blocks ∧ Ign π .tiles ∧ Ign π .mxes ∧ Ign π .vxes ∧ Ign π .stes ∧ Ign π .chains ∧ Ign π .stks ∧ Ign π .tlbs ∧ Ign π .nmes ∧ Ign π .kvfs ∧ Ign π .links ∧ Ign π .lgs ∧ Ign π .cles ∧ Ign π .pairs ∧ Ign π .tals ∧ Ign π .ldgs ∧ Ign π .wchs ∧ Ign π .cycles ∧ Ign π .pcx ∧ Ign π .funcs ∧ Ign π .pwr ∧ Ign π .timers := by simp [hW])
    : see π (State.switchOn s i parts) = see π s := by
  rw [State.switchOn.eq_def]
  exact foldl_see _ (fun s d => by split <;> (try split) <;> simp [hW]) _ _

@[simp ↓] theorem State.clearPart_see (s : State) (i : Option ImageCfg) (p : ℕ) (hW : Ign π .mem ∧ Ign π .poison ∧ Ign π .blocks ∧ Ign π .ctxs ∧ Ign π .ques ∧ Ign π .rels ∧ Ign π .tiles ∧ Ign π .mxes ∧ Ign π .vxes ∧ Ign π .stes ∧ Ign π .chains ∧ Ign π .stks ∧ Ign π .tlbs ∧ Ign π .nmes ∧ Ign π .kvfs ∧ Ign π .parts ∧ Ign π .sess ∧ Ign π .rings ∧ Ign π .bars ∧ Ign π .links ∧ Ign π .lgs ∧ Ign π .cles ∧ Ign π .pairs ∧ Ign π .ldgs ∧ Ign π .wchs ∧ Ign π .pcx ∧ Ign π .timers := by simp [hW])
    : see π (State.clearPart s i p) = see π s := by
  rw [State.clearPart.eq_def]; split <;> simp [hW]

/-! ## Removal -/

@[simp ↓] theorem State.removeMxe_see (s : State) (t : ℕ) (sel : ℕ → Bool) (hW : Ign π .blocks ∧ Ign π .ques ∧ Ign π .mxes ∧ Ign π .chains ∧ Ign π .tals ∧ Ign π .wchs ∧ Ign π .fog ∧ Ign π .timers ∧ Ign π .out := by simp [hW])
    : see π (State.removeMxe s t sel) = see π s := by
  rw [State.removeMxe.eq_def]
  try dsimp only
  rw [State.progress_see, State.setMxe_see, foldl_see _ (fun _ _ => by simp [hW]),
    foldl_see _ (fun _ _ => by split <;> simp [hW])]

@[simp ↓] theorem State.removeClaims_see (s : State) (t : ℕ) (sel : ℕ → Bool) (hW : Ign π .mxes := by simp [hW])
    : see π (State.removeClaims s t sel) = see π s := by
  rw [State.removeClaims.eq_def]; simp [hW]

@[simp ↓] theorem State.removeVxe_see (s : State) (t : ℕ) (sel : ℕ → Bool) (hW : Ign π .vxes ∧ Ign π .timers := by simp [hW])
    : see π (State.removeVxe s t sel) = see π s := by
  rw [State.removeVxe.eq_def]; split <;> simp [hW]

@[simp ↓] theorem State.removeSte_see (s : State) (t : ℕ) (sel : ℕ → Bool) (hW : Ign π .tiles ∧ Ign π .stes ∧ Ign π .stks ∧ Ign π .timers := by simp [hW])
    : see π (State.removeSte s t sel) = see π s := by
  simp [hW, State.removeSte]

@[simp ↓] theorem State.removeTile_see (s : State) (t : ℕ) (sel : ℕ → Bool) (hW : Ign π .blocks ∧ Ign π .ques ∧ Ign π .tiles ∧ Ign π .mxes ∧ Ign π .vxes ∧ Ign π .stes ∧ Ign π .chains ∧ Ign π .stks ∧ Ign π .tals ∧ Ign π .wchs ∧ Ign π .fog ∧ Ign π .timers ∧ Ign π .out := by simp [hW])
    : see π (State.removeTile s t sel) = see π s := by
  simp [hW, State.removeTile]

@[simp ↓] theorem State.removeNme_see (s : State) (k : ℕ) (sel : ℕ → Bool) (hW : Ign π .nmes ∧ Ign π .kvfs ∧ Ign π .timers := by simp [hW])
    : see π (State.removeNme s k sel) = see π s := by
  simp [hW, State.removeNme]

@[simp ↓] theorem State.closeEpochs_see (s : State) (g : ℕ) (sel : ℕ → Bool) (hW : Ign π .blocks ∧ Ign π .links ∧ Ign π .lgs ∧ Ign π .tals ∧ Ign π .out := by simp [hW])
    : see π (State.closeEpochs s g sel) = see π s := by
  simp [hW, State.closeEpochs]

@[simp ↓] theorem State.removeLg_see (s : State) (g : ℕ) (sel : ℕ → Bool) (hW : Ign π .blocks ∧ Ign π .links ∧ Ign π .lgs ∧ Ign π .cles ∧ Ign π .tals ∧ Ign π .timers ∧ Ign π .out := by simp [hW])
    : see π (State.removeLg s g sel) = see π s := by
  simp [hW, State.removeLg]

@[simp ↓] theorem State.removeRingOps_see (s : State) (p : ℕ) (sel : ℕ → Bool) (hW : Ign π .rings := by simp [hW])
    : see π (State.removeRingOps s p sel) = see π s := by
  simp [hW, State.removeRingOps]

@[simp ↓] theorem State.removeRings_see (s : State) (p : ℕ) (lc : ℕ) (hW : Ign π .blocks ∧ Ign π .rings := by simp [hW])
    : see π (State.removeRings s p lc) = see π s := by
  simp [hW, State.removeRings]

@[simp ↓] theorem State.removeBars_see (s : State) (p : ℕ) (dc : ℕ) (sel : ℕ → Bool) (hW : Ign π .bars := by simp [hW])
    : see π (State.removeBars s p dc sel) = see π s := by
  simp [hW, State.removeBars]

@[simp ↓] theorem State.removeRecords_see (s : State) (p : ℕ) (sel : ℕ → Bool) (hW : Ign π .pairs := by simp [hW])
    : see π (State.removeRecords s p sel) = see π s := by
  rw [State.removeRecords.eq_def]; split <;> simp [hW]

@[simp ↓] theorem State.dropReleases_see (s : State) (p : ℕ) (q : ℕ) (hW : Ign π .rels ∧ Ign π .pcx := by simp [hW])
    : see π (State.dropReleases s p q) = see π s := by
  rw [State.dropReleases.eq_def]; simp [hW]

@[simp ↓] theorem State.removeQueue_see (s : State) (p : ℕ) (q : ℕ) (hW : Ign π .blocks ∧ Ign π .ques ∧ Ign π .rels ∧ Ign π .tals ∧ Ign π .pcx ∧ Ign π .timers := by simp [hW])
    : see π (State.removeQueue s p q) = see π s := by
  simp [hW, State.removeQueue]

@[simp ↓] theorem State.removeMove_see (s : State) (k : ℕ) (dc : ℕ) (hW : Ign π .stks := by simp [hW])
    : see π (State.removeMove s k dc) = see π s := by
  rw [State.removeMove.eq_def]; split <;> simp [hW]

@[simp ↓] theorem State.removeWork_see (s : State) (p : ℕ) (lc : ℕ) (hW : Ign π .blocks ∧ Ign π .ques ∧ Ign π .rels ∧ Ign π .tiles ∧ Ign π .mxes ∧ Ign π .vxes ∧ Ign π .stes ∧ Ign π .chains ∧ Ign π .stks ∧ Ign π .tlbs ∧ Ign π .nmes ∧ Ign π .kvfs ∧ Ign π .rings ∧ Ign π .bars ∧ Ign π .links ∧ Ign π .lgs ∧ Ign π .cles ∧ Ign π .pairs ∧ Ign π .tals ∧ Ign π .wchs ∧ Ign π .fog ∧ Ign π .pcx ∧ Ign π .timers ∧ Ign π .out := by simp [hW])
    : see π (State.removeWork s p lc) = see π s := by
  rw [State.removeWork.eq_def]; split <;> simp [hW]

@[simp ↓] theorem State.ctxCmdDone_see (s : State) (p : ℕ) (lc : ℕ) (hW : Ign π .parts := by simp [hW])
    : see π (State.ctxCmdDone s p lc) = see π s := by
  simp [hW, State.ctxCmdDone]

@[simp ↓] theorem State.settleCtx_see (s : State) (p : ℕ) (lc : ℕ) (hW : Ign π .blocks ∧ Ign π .ctxs ∧ Ign π .mxes ∧ Ign π .parts ∧ Ign π .tals ∧ Ign π .timers := by simp [hW])
    : see π (State.settleCtx s p lc) = see π s := by
  simp [hW, State.settleCtx]

@[simp ↓] theorem State.endContext_see (s : State) (p : ℕ) (lc : ℕ) (free : Bool) (hW : Ign π .blocks ∧ Ign π .ctxs ∧ Ign π .ques ∧ Ign π .rels ∧ Ign π .tiles ∧ Ign π .mxes ∧ Ign π .vxes ∧ Ign π .stes ∧ Ign π .chains ∧ Ign π .stks ∧ Ign π .tlbs ∧ Ign π .nmes ∧ Ign π .kvfs ∧ Ign π .parts ∧ Ign π .rings ∧ Ign π .bars ∧ Ign π .links ∧ Ign π .lgs ∧ Ign π .cles ∧ Ign π .pairs ∧ Ign π .tals ∧ Ign π .wchs ∧ Ign π .fog ∧ Ign π .pcx ∧ Ign π .timers ∧ Ign π .out := by simp [hW])
    : see π (State.endContext s p lc free) = see π s := by
  simp [hW, State.endContext]

@[simp ↓] theorem State.resetContext_see (s : State) (p : ℕ) (lc : ℕ) (free : Bool) (hW : Ign π .blocks ∧ Ign π .ctxs ∧ Ign π .ques ∧ Ign π .rels ∧ Ign π .tiles ∧ Ign π .mxes ∧ Ign π .vxes ∧ Ign π .stes ∧ Ign π .chains ∧ Ign π .stks ∧ Ign π .tlbs ∧ Ign π .nmes ∧ Ign π .kvfs ∧ Ign π .parts ∧ Ign π .rings ∧ Ign π .bars ∧ Ign π .links ∧ Ign π .lgs ∧ Ign π .cles ∧ Ign π .pairs ∧ Ign π .tals ∧ Ign π .wchs ∧ Ign π .fog ∧ Ign π .pcx ∧ Ign π .timers ∧ Ign π .out := by simp [hW])
    : see π (State.resetContext s p lc free) = see π s := by
  simp [hW, State.resetContext]

@[simp ↓] theorem State.settleAll_see (s : State) (p : ℕ) (hW : Ign π .blocks ∧ Ign π .ctxs ∧ Ign π .mxes ∧ Ign π .parts ∧ Ign π .tals ∧ Ign π .timers := by simp [hW])
    : see π (State.settleAll s p) = see π s := by
  simp [hW, State.settleAll]

@[simp ↓] theorem execCtxReset_see (m : Master) (p : Fin 8) (c : BitVec 8) (s : State) (hW : Ign π .blocks ∧ Ign π .ctxs ∧ Ign π .ques ∧ Ign π .rels ∧ Ign π .tiles ∧ Ign π .mxes ∧ Ign π .vxes ∧ Ign π .stes ∧ Ign π .chains ∧ Ign π .stks ∧ Ign π .tlbs ∧ Ign π .nmes ∧ Ign π .kvfs ∧ Ign π .parts ∧ Ign π .rings ∧ Ign π .bars ∧ Ign π .links ∧ Ign π .lgs ∧ Ign π .cles ∧ Ign π .pairs ∧ Ign π .tals ∧ Ign π .wchs ∧ Ign π .fog ∧ Ign π .pcx ∧ Ign π .timers ∧ Ign π .out := by simp [hW])
    : see π (stateOf (execCtxReset m p c s) s) = see π s := by
  simp [hW, execCtxReset]

@[simp ↓] theorem State.loseBegun_see (s : State) (r : CmdRef) (hW : Ign π .ques := by simp [hW])
    : see π (State.loseBegun s r) = see π s := by
  simp [hW, State.loseBegun]

@[simp ↓] theorem State.stopChain_see (s : State) (t : ℕ) (ch : Chain) (hW : Ign π .ques ∧ Ign π .vxes ∧ Ign π .chains ∧ Ign π .timers := by simp [hW])
    : see π (State.stopChain s t ch) = see π s := by
  rw [State.stopChain.eq_def]; dsimp only; (repeat' split) <;> simp [hW]

@[simp ↓] theorem State.stopWork_see (s : State) (p : ℕ) (dc : ℕ) (sel : ℕ → Bool) (hW : Ign π .blocks ∧ Ign π .ques ∧ Ign π .vxes ∧ Ign π .chains ∧ Ign π .nmes ∧ Ign π .kvfs ∧ Ign π .rings ∧ Ign π .bars ∧ Ign π .links ∧ Ign π .lgs ∧ Ign π .cles ∧ Ign π .tals ∧ Ign π .timers ∧ Ign π .out := by simp [hW])
    : see π (State.stopWork s p dc sel) = see π s := by
  have h : ∀ (l : List CmdRef) (s : State), see π (l.foldl State.loseBegun s) = see π s :=
    foldl_see _ (fun _ _ => by simp [hW])
  have h' : ∀ (t : ℕ) (l : List Chain) (s : State), see π (l.foldl (fun s ch => s.stopChain t ch) s) = see π s :=
    fun _ => foldl_see _ (fun _ _ => by simp [hW])
  simp [hW, State.stopWork, h, h']

@[simp ↓] theorem execCtxDestroy_see (m : Master) (p : Fin 8) (c : BitVec 8) (s : State) (hW : Ign π .blocks ∧ Ign π .ctxs ∧ Ign π .ques ∧ Ign π .vxes ∧ Ign π .chains ∧ Ign π .nmes ∧ Ign π .kvfs ∧ Ign π .parts ∧ Ign π .rings ∧ Ign π .bars ∧ Ign π .links ∧ Ign π .lgs ∧ Ign π .cles ∧ Ign π .tals ∧ Ign π .pcx ∧ Ign π .timers ∧ Ign π .out := by simp [hW])
    : see π (stateOf (execCtxDestroy m p c s) s) = see π s := by
  rw [execCtxDestroy.eq_def, stateOf_next]
  refine State.ctxCmd_see _ _ _ _ _ (fun x => ?_)
  dsimp only; (repeat' split) <;> simp [hW]

/-! ## Ladder -/

@[simp ↓] theorem State.loseRef_see (s : State) (r : CmdRef) (fault : Bool) (e : Eng) (u : ℕ) (hW : Ign π .mem ∧ Ign π .poison ∧ Ign π .blocks ∧ Ign π .ctxs ∧ Ign π .ques ∧ Ign π .tiles ∧ Ign π .chains ∧ Ign π .parts ∧ Ign π .tals ∧ Ign π .ldgs ∧ Ign π .fog ∧ Ign π .funcs ∧ Ign π .timers ∧ Ign π .out := by simp [hW])
    : see π (State.loseRef s r fault e u) = see π s := by
  rw [State.loseRef.eq_def]; split <;> simp [hW]

@[simp ↓] theorem State.loseRefs_see (s : State) (e : Eng) (u : ℕ) (v3 : List ℕ) (v4 : List CmdRef) (hW : Ign π .mem ∧ Ign π .poison ∧ Ign π .blocks ∧ Ign π .ctxs ∧ Ign π .ques ∧ Ign π .tiles ∧ Ign π .chains ∧ Ign π .parts ∧ Ign π .tals ∧ Ign π .ldgs ∧ Ign π .fog ∧ Ign π .funcs ∧ Ign π .timers ∧ Ign π .out := by simp [hW])
    : see π (State.loseRefs s e u v3 v4) = see π s := by
  induction v4 generalizing s v3 with
  | nil => rfl
  | cons r rs ih => rw [State.loseRefs]; (try dsimp only); rw [ih]; simp [hW]

@[simp ↓] theorem State.resetPair_see (s : State) (p : ℕ) (k : ℕ) (hW : Ign π .blocks ∧ Ign π .ctxs ∧ Ign π .ques ∧ Ign π .rels ∧ Ign π .tiles ∧ Ign π .mxes ∧ Ign π .vxes ∧ Ign π .stes ∧ Ign π .chains ∧ Ign π .stks ∧ Ign π .tlbs ∧ Ign π .nmes ∧ Ign π .kvfs ∧ Ign π .parts ∧ Ign π .rings ∧ Ign π .bars ∧ Ign π .links ∧ Ign π .lgs ∧ Ign π .cles ∧ Ign π .pairs ∧ Ign π .tals ∧ Ign π .wchs ∧ Ign π .fog ∧ Ign π .pcx ∧ Ign π .timers ∧ Ign π .out := by simp [hW])
    : see π (State.resetPair s p k) = see π s := by
  simp [hW, State.resetPair]

@[simp ↓] theorem State.clearEngine_see (s : State) (p : ℕ) (e : Eng) (u : ℕ) (hW : Ign π .blocks ∧ Ign π .ctxs ∧ Ign π .ques ∧ Ign π .rels ∧ Ign π .tiles ∧ Ign π .mxes ∧ Ign π .vxes ∧ Ign π .stes ∧ Ign π .chains ∧ Ign π .stks ∧ Ign π .tlbs ∧ Ign π .nmes ∧ Ign π .kvfs ∧ Ign π .parts ∧ Ign π .rings ∧ Ign π .bars ∧ Ign π .links ∧ Ign π .lgs ∧ Ign π .cles ∧ Ign π .pairs ∧ Ign π .tals ∧ Ign π .wchs ∧ Ign π .fog ∧ Ign π .pcx ∧ Ign π .timers ∧ Ign π .out := by simp [hW])
    : see π (State.clearEngine s p e u) = see π s := by
  rw [State.clearEngine.eq_def]; dsimp only; (repeat' split) <;> simp [hW]

@[simp ↓] theorem State.performEngine_see (s : State) (p : ℕ) (e : Eng) (u : ℕ) (hW : Ign π .mem ∧ Ign π .poison ∧ Ign π .blocks ∧ Ign π .ctxs ∧ Ign π .ques ∧ Ign π .rels ∧ Ign π .tiles ∧ Ign π .mxes ∧ Ign π .vxes ∧ Ign π .stes ∧ Ign π .chains ∧ Ign π .stks ∧ Ign π .tlbs ∧ Ign π .nmes ∧ Ign π .kvfs ∧ Ign π .parts ∧ Ign π .rings ∧ Ign π .bars ∧ Ign π .links ∧ Ign π .lgs ∧ Ign π .cles ∧ Ign π .pairs ∧ Ign π .tals ∧ Ign π .ldgs ∧ Ign π .wchs ∧ Ign π .fog ∧ Ign π .pcx ∧ Ign π .funcs ∧ Ign π .timers ∧ Ign π .out := by simp [hW])
    : see π (State.performEngine s p e u) = see π s := by
  rw [State.performEngine.eq_def]; split <;> simp [hW]

@[simp ↓] theorem State.rstDone_see (s : State) (p : ℕ) (g : Rung) (r : Byte) (hW : Ign π .parts := by simp [hW])
    : see π (State.rstDone s p g r) = see π s := by
  simp [hW, State.rstDone]

@[simp ↓] theorem State.engineReset_see (s : State) (p : ℕ) (e : Eng) (u : ℕ) (hW : Ign π .mem ∧ Ign π .poison ∧ Ign π .blocks ∧ Ign π .ctxs ∧ Ign π .ques ∧ Ign π .rels ∧ Ign π .tiles ∧ Ign π .mxes ∧ Ign π .vxes ∧ Ign π .stes ∧ Ign π .chains ∧ Ign π .stks ∧ Ign π .tlbs ∧ Ign π .nmes ∧ Ign π .kvfs ∧ Ign π .parts ∧ Ign π .rings ∧ Ign π .bars ∧ Ign π .links ∧ Ign π .lgs ∧ Ign π .cles ∧ Ign π .pairs ∧ Ign π .tals ∧ Ign π .ldgs ∧ Ign π .wchs ∧ Ign π .fog ∧ Ign π .pcx ∧ Ign π .funcs ∧ Ign π .timers ∧ Ign π .out := by simp [hW])
    : see π (State.engineReset s p e u) = see π s := by
  simp [hW, State.engineReset]

@[simp ↓] theorem State.pumpResets_see (s : State) (hW : Ign π .mem ∧ Ign π .poison ∧ Ign π .blocks ∧ Ign π .ctxs ∧ Ign π .ques ∧ Ign π .rels ∧ Ign π .tiles ∧ Ign π .mxes ∧ Ign π .vxes ∧ Ign π .stes ∧ Ign π .chains ∧ Ign π .stks ∧ Ign π .tlbs ∧ Ign π .nmes ∧ Ign π .kvfs ∧ Ign π .parts ∧ Ign π .rings ∧ Ign π .bars ∧ Ign π .links ∧ Ign π .lgs ∧ Ign π .cles ∧ Ign π .pairs ∧ Ign π .tals ∧ Ign π .ldgs ∧ Ign π .wchs ∧ Ign π .fog ∧ Ign π .pcx ∧ Ign π .funcs ∧ Ign π .timers ∧ Ign π .out := by simp [hW])
    : see π (State.pumpResets s) = see π s := by
  rw [State.pumpResets.eq_def]
  refine foldl_see _ (fun s c => ?_) _ _
  try dsimp only
  rw [State.settleAll_see]
  refine foldl_see _ (fun s g => ?_) _ _
  split
  · split
    · rfl
    · simp [hW]
  · rfl

@[simp ↓] theorem State.resetPart_see (s : State) (p : ℕ) (hW : Ign π .mem ∧ Ign π .poison ∧ Ign π .blocks ∧ Ign π .ctxs ∧ Ign π .ques ∧ Ign π .rels ∧ Ign π .tiles ∧ Ign π .mxes ∧ Ign π .vxes ∧ Ign π .stes ∧ Ign π .chains ∧ Ign π .stks ∧ Ign π .tlbs ∧ Ign π .nmes ∧ Ign π .kvfs ∧ Ign π .parts ∧ Ign π .sess ∧ Ign π .rings ∧ Ign π .bars ∧ Ign π .links ∧ Ign π .lgs ∧ Ign π .board ∧ Ign π .cles ∧ Ign π .pairs ∧ Ign π .tals ∧ Ign π .ldgs ∧ Ign π .wchs ∧ Ign π .cycles ∧ Ign π .pcx ∧ Ign π .funcs ∧ Ign π .pwr ∧ Ign π .timers := by simp [hW])
    : see π (State.resetPart s p) = see π s := by
  rw [State.resetPart.eq_def]; split <;> simp [hW]

@[simp ↓] theorem State.startRuntime_see (s : State) (p : ℕ) (hW : Ign π .pairs ∧ Ign π .timers := by simp [hW])
    : see π (State.startRuntime s p) = see π s := by
  rw [State.startRuntime.eq_def]; split <;> simp [hW]

@[simp ↓] theorem State.clearTables_see (s : State) (p : ℕ) (hW : Ign π .blocks ∧ Ign π .kvfs ∧ Ign π .parts ∧ Ign π .sess := by simp [hW])
    : see π (State.clearTables s p) = see π s := by
  rw [State.clearTables.eq_def]; split <;> simp [hW]

@[simp ↓] theorem State.readyPart_see (s : State) (p : ℕ) (hW : Ign π .blocks ∧ Ign π .kvfs ∧ Ign π .parts ∧ Ign π .sess ∧ Ign π .pairs ∧ Ign π .tals ∧ Ign π .timers := by simp [hW])
    : see π (State.readyPart s p) = see π s := by
  rw [State.readyPart.eq_def]; split <;> simp [hW]

@[simp ↓] theorem State.readyParts_see (s : State) (hW : Ign π .blocks ∧ Ign π .kvfs ∧ Ign π .parts ∧ Ign π .sess ∧ Ign π .pairs ∧ Ign π .tals ∧ Ign π .timers := by simp [hW])
    : see π (State.readyParts s) = see π s := by
  simp [hW, State.readyParts]

@[simp ↓] theorem State.beginApply_see (s : State) (new : ImageCfg) (mask : BitVec 8) (hW : Ign π .mem ∧ Ign π .poison ∧ Ign π .blocks ∧ Ign π .img ∧ Ign π .ctxs ∧ Ign π .ques ∧ Ign π .rels ∧ Ign π .tiles ∧ Ign π .mxes ∧ Ign π .vxes ∧ Ign π .stes ∧ Ign π .chains ∧ Ign π .stks ∧ Ign π .tlbs ∧ Ign π .nmes ∧ Ign π .kvfs ∧ Ign π .parts ∧ Ign π .sess ∧ Ign π .rings ∧ Ign π .bars ∧ Ign π .links ∧ Ign π .lgs ∧ Ign π .board ∧ Ign π .cles ∧ Ign π .pairs ∧ Ign π .tals ∧ Ign π .ldgs ∧ Ign π .wchs ∧ Ign π .cycles ∧ Ign π .pcx ∧ Ign π .funcs ∧ Ign π .pwr ∧ Ign π .timers := by simp [hW])
    : see π (State.beginApply s new mask) = see π s := by
  simp [hW, State.beginApply]

@[simp ↓] theorem execImgApply_see (m : Master) (s : State) (hW : Ign π .mem ∧ Ign π .poison ∧ Ign π .blocks ∧ Ign π .img ∧ Ign π .ctxs ∧ Ign π .ques ∧ Ign π .rels ∧ Ign π .tiles ∧ Ign π .mxes ∧ Ign π .vxes ∧ Ign π .stes ∧ Ign π .chains ∧ Ign π .stks ∧ Ign π .tlbs ∧ Ign π .nmes ∧ Ign π .kvfs ∧ Ign π .parts ∧ Ign π .sess ∧ Ign π .rings ∧ Ign π .bars ∧ Ign π .links ∧ Ign π .lgs ∧ Ign π .board ∧ Ign π .cles ∧ Ign π .pairs ∧ Ign π .tals ∧ Ign π .ldgs ∧ Ign π .wchs ∧ Ign π .cycles ∧ Ign π .fog ∧ Ign π .pcx ∧ Ign π .funcs ∧ Ign π .pwr ∧ Ign π .timers ∧ Ign π .out ∧ Ign π .free := by simp [hW])
    : see π (stateOf (execImgApply m s) s) = see π s := by
  simp [hW, execImgApply]

@[simp ↓] theorem State.zeroChanged_see (s : State) (old : Option ImageCfg) (new : Option ImageCfg) (mask : BitVec 8) (hW : Ign π .mem ∧ Ign π .poison := by simp [hW])
    : see π (State.zeroChanged s old new mask) = see π s := by
  rw [State.zeroChanged.eq_def]; simp [hW]

@[simp ↓] theorem State.restart_see (s : State) (fromMgmt : Bool) (hW : Ign π .mem ∧ Ign π .poison ∧ Ign π .blocks ∧ Ign π .img ∧ Ign π .ctxs ∧ Ign π .ques ∧ Ign π .rels ∧ Ign π .tiles ∧ Ign π .mxes ∧ Ign π .vxes ∧ Ign π .stes ∧ Ign π .chains ∧ Ign π .stks ∧ Ign π .tlbs ∧ Ign π .nmes ∧ Ign π .kvfs ∧ Ign π .parts ∧ Ign π .sess ∧ Ign π .rings ∧ Ign π .bars ∧ Ign π .links ∧ Ign π .lgs ∧ Ign π .board ∧ Ign π .cles ∧ Ign π .pairs ∧ Ign π .tals ∧ Ign π .ldgs ∧ Ign π .wchs ∧ Ign π .chans ∧ Ign π .cycles ∧ Ign π .fog ∧ Ign π .pcx ∧ Ign π .funcs ∧ Ign π .mgt ∧ Ign π .sec ∧ Ign π .pwr ∧ Ign π .boot ∧ Ign π .timers ∧ Ign π .rr := by simp [hW])
    : see π (State.restart s fromMgmt) = see π s := by
  rw [State.restart.eq_def]; simp [hW]

@[simp ↓] theorem State.readOtp_see (s : State) (hW : Ign π .blocks ∧ Ign π .otp ∧ Ign π .out := by simp [hW])
    : see π (State.readOtp s) = see π s := by
  simp [hW, State.readOtp]

@[simp ↓] theorem State.chipReset_see (s : State) (fromMgmt : Bool) (hW : Ign π .mem ∧ Ign π .poison ∧ Ign π .blocks ∧ Ign π .img ∧ Ign π .ctxs ∧ Ign π .ques ∧ Ign π .rels ∧ Ign π .tiles ∧ Ign π .mxes ∧ Ign π .vxes ∧ Ign π .stes ∧ Ign π .chains ∧ Ign π .stks ∧ Ign π .tlbs ∧ Ign π .nmes ∧ Ign π .kvfs ∧ Ign π .parts ∧ Ign π .sess ∧ Ign π .rings ∧ Ign π .bars ∧ Ign π .links ∧ Ign π .lgs ∧ Ign π .board ∧ Ign π .cles ∧ Ign π .pairs ∧ Ign π .tals ∧ Ign π .ldgs ∧ Ign π .wchs ∧ Ign π .chans ∧ Ign π .cycles ∧ Ign π .fog ∧ Ign π .pcx ∧ Ign π .funcs ∧ Ign π .mgt ∧ Ign π .otp ∧ Ign π .sec ∧ Ign π .pwr ∧ Ign π .boot ∧ Ign π .timers ∧ Ign π .rr ∧ Ign π .out := by simp [hW])
    : see π (State.chipReset s fromMgmt) = see π s := by
  simp [hW, State.chipReset]

@[simp ↓] theorem State.powerCycle_see (s : State) (hW : Ign π .pwr ∧ Ign π .out := by simp [hW])
    : see π (State.powerCycle s) = see π s := by
  rw [State.powerCycle.eq_def]; simp [hW]

@[simp ↓] theorem State.rstResult_see (s : State) (p : ℕ) (r : Byte) (hW : Ign π .parts := by simp [hW])
    : see π (State.rstResult s p r) = see π s := by
  rw [State.rstResult.eq_def]; simp [hW]

@[simp ↓] theorem State.order_see (s : State) (p : Nat) (g : Rung) (f : State → State) (hf : ∀ s, see π (f s) = see π s) (hW : Ign π .parts := by simp [hW])
    :
    see π (s.order p g f) = see π s := by
  rw [State.order.eq_def]; (try dsimp only); (repeat' split) <;> simp [hW, hf]

@[simp ↓] theorem execEngineReset_see (m : Master) (p : Fin 8) (engine : BitVec 4) (unit : BitVec 8) (s : State) (hW : Ign π .mem ∧ Ign π .poison ∧ Ign π .blocks ∧ Ign π .ctxs ∧ Ign π .ques ∧ Ign π .rels ∧ Ign π .tiles ∧ Ign π .mxes ∧ Ign π .vxes ∧ Ign π .stes ∧ Ign π .chains ∧ Ign π .stks ∧ Ign π .tlbs ∧ Ign π .nmes ∧ Ign π .kvfs ∧ Ign π .parts ∧ Ign π .rings ∧ Ign π .bars ∧ Ign π .links ∧ Ign π .lgs ∧ Ign π .cles ∧ Ign π .pairs ∧ Ign π .tals ∧ Ign π .ldgs ∧ Ign π .wchs ∧ Ign π .fog ∧ Ign π .pcx ∧ Ign π .funcs ∧ Ign π .timers ∧ Ign π .out := by simp [hW])
    : see π (stateOf (execEngineReset m p engine unit s) s) = see π s := by
  rw [execEngineReset.eq_def, stateOf_next]; (repeat' split) <;> simp [hW]

@[simp ↓] theorem execPartitionReset_see (m : Master) (p : Fin 8) (s : State) (hW : Ign π .mem ∧ Ign π .poison ∧ Ign π .blocks ∧ Ign π .ctxs ∧ Ign π .ques ∧ Ign π .rels ∧ Ign π .tiles ∧ Ign π .mxes ∧ Ign π .vxes ∧ Ign π .stes ∧ Ign π .chains ∧ Ign π .stks ∧ Ign π .tlbs ∧ Ign π .nmes ∧ Ign π .kvfs ∧ Ign π .parts ∧ Ign π .sess ∧ Ign π .rings ∧ Ign π .bars ∧ Ign π .links ∧ Ign π .lgs ∧ Ign π .board ∧ Ign π .cles ∧ Ign π .pairs ∧ Ign π .tals ∧ Ign π .ldgs ∧ Ign π .wchs ∧ Ign π .cycles ∧ Ign π .pcx ∧ Ign π .funcs ∧ Ign π .pwr ∧ Ign π .timers := by simp [hW])
    : see π (stateOf (execPartitionReset m p s) s) = see π s := by
  simp [hW, execPartitionReset]

@[simp ↓] theorem execChipReset_see (m : Master) (p : Fin 8) (s : State) (hW : Ign π .mem ∧ Ign π .poison ∧ Ign π .blocks ∧ Ign π .img ∧ Ign π .ctxs ∧ Ign π .ques ∧ Ign π .rels ∧ Ign π .tiles ∧ Ign π .mxes ∧ Ign π .vxes ∧ Ign π .stes ∧ Ign π .chains ∧ Ign π .stks ∧ Ign π .tlbs ∧ Ign π .nmes ∧ Ign π .kvfs ∧ Ign π .parts ∧ Ign π .sess ∧ Ign π .rings ∧ Ign π .bars ∧ Ign π .links ∧ Ign π .lgs ∧ Ign π .board ∧ Ign π .cles ∧ Ign π .pairs ∧ Ign π .tals ∧ Ign π .ldgs ∧ Ign π .wchs ∧ Ign π .chans ∧ Ign π .cycles ∧ Ign π .fog ∧ Ign π .pcx ∧ Ign π .funcs ∧ Ign π .mgt ∧ Ign π .otp ∧ Ign π .sec ∧ Ign π .pwr ∧ Ign π .boot ∧ Ign π .timers ∧ Ign π .rr ∧ Ign π .out := by simp [hW])
    : see π (stateOf (execChipReset m p s) s) = see π s := by
  simp [hW, execChipReset]

@[simp ↓] theorem State.climbed_see (s : State) (p : ℕ) (g : Rung) (hW : Ign π .parts := by simp [hW])
    : see π (State.climbed s p g) = see π s := by
  simp [hW, State.climbed]

@[simp ↓] theorem execKprHbWrite_see (m : Master) (p : Fin 8) (v : W32) (s : State) (hW : Ign π .blocks ∧ Ign π .timers := by simp [hW])
    : see π (stateOf (execKprHbWrite m p v s) s) = see π s := by
  simp [hW, execKprHbWrite]

/-! ## Power -/

@[simp ↓] theorem State.pcieStart_see (s : State) (hW : Ign π .mem ∧ Ign π .poison ∧ Ign π .blocks ∧ Ign π .tiles ∧ Ign π .mxes ∧ Ign π .vxes ∧ Ign π .stes ∧ Ign π .chains ∧ Ign π .stks ∧ Ign π .tlbs ∧ Ign π .nmes ∧ Ign π .kvfs ∧ Ign π .links ∧ Ign π .lgs ∧ Ign π .cles ∧ Ign π .pairs ∧ Ign π .tals ∧ Ign π .ldgs ∧ Ign π .wchs ∧ Ign π .cycles ∧ Ign π .pcx ∧ Ign π .funcs ∧ Ign π .pwr ∧ Ign π .timers := by simp [hW])
    : see π (State.pcieStart s) = see π s := by
  simp [hW, State.pcieStart]

@[simp ↓] theorem State.startConv_see (s : State) (hW : Ign π .mem ∧ Ign π .poison ∧ Ign π .blocks ∧ Ign π .tiles ∧ Ign π .mxes ∧ Ign π .vxes ∧ Ign π .stes ∧ Ign π .chains ∧ Ign π .stks ∧ Ign π .tlbs ∧ Ign π .nmes ∧ Ign π .kvfs ∧ Ign π .links ∧ Ign π .lgs ∧ Ign π .cles ∧ Ign π .pairs ∧ Ign π .tals ∧ Ign π .ldgs ∧ Ign π .wchs ∧ Ign π .cycles ∧ Ign π .pcx ∧ Ign π .funcs ∧ Ign π .pwr ∧ Ign π .timers := by simp [hW])
    : see π (State.startConv s) = see π s := by
  simp [hW, State.startConv]

@[simp ↓] theorem State.unpowered_see (s : State) (hW : Ign π .mem ∧ Ign π .poison ∧ Ign π .blocks ∧ Ign π .img ∧ Ign π .ctxs ∧ Ign π .ques ∧ Ign π .rels ∧ Ign π .tiles ∧ Ign π .mxes ∧ Ign π .vxes ∧ Ign π .stes ∧ Ign π .chains ∧ Ign π .stks ∧ Ign π .tlbs ∧ Ign π .nmes ∧ Ign π .kvfs ∧ Ign π .parts ∧ Ign π .sess ∧ Ign π .rings ∧ Ign π .bars ∧ Ign π .links ∧ Ign π .lgs ∧ Ign π .board ∧ Ign π .cles ∧ Ign π .pairs ∧ Ign π .tals ∧ Ign π .ldgs ∧ Ign π .wchs ∧ Ign π .chans ∧ Ign π .cycles ∧ Ign π .fog ∧ Ign π .pcx ∧ Ign π .funcs ∧ Ign π .mgt ∧ Ign π .otp ∧ Ign π .sec ∧ Ign π .pwr ∧ Ign π .boot ∧ Ign π .jtag ∧ Ign π .timers ∧ Ign π .rr := by simp [hW])
    : see π (State.unpowered s) = see π s := by
  rw [State.unpowered.eq_def]; simp [hW]

@[simp ↓] theorem State.bootVerify_see (s : State) (hW : Ign π .mem ∧ Ign π .poison ∧ Ign π .blocks ∧ Ign π .img ∧ Ign π .ctxs ∧ Ign π .ques ∧ Ign π .rels ∧ Ign π .tiles ∧ Ign π .mxes ∧ Ign π .vxes ∧ Ign π .stes ∧ Ign π .chains ∧ Ign π .stks ∧ Ign π .tlbs ∧ Ign π .nmes ∧ Ign π .kvfs ∧ Ign π .parts ∧ Ign π .sess ∧ Ign π .rings ∧ Ign π .bars ∧ Ign π .links ∧ Ign π .lgs ∧ Ign π .board ∧ Ign π .cles ∧ Ign π .pairs ∧ Ign π .tals ∧ Ign π .ldgs ∧ Ign π .wchs ∧ Ign π .cycles ∧ Ign π .pcx ∧ Ign π .funcs ∧ Ign π .sec ∧ Ign π .pwr ∧ Ign π .boot ∧ Ign π .timers ∧ Ign π .out := by simp [hW])
    : see π (State.bootVerify s) = see π s := by
  rw [State.bootVerify.eq_def]; dsimp only; split <;> simp [hW]

@[simp ↓] theorem State.loseAll_see (s : State) (hW : Ign π .mem ∧ Ign π .poison ∧ Ign π .blocks ∧ Ign π .img ∧ Ign π .ctxs ∧ Ign π .ques ∧ Ign π .rels ∧ Ign π .tiles ∧ Ign π .mxes ∧ Ign π .vxes ∧ Ign π .stes ∧ Ign π .chains ∧ Ign π .stks ∧ Ign π .tlbs ∧ Ign π .nmes ∧ Ign π .kvfs ∧ Ign π .parts ∧ Ign π .sess ∧ Ign π .rings ∧ Ign π .bars ∧ Ign π .links ∧ Ign π .lgs ∧ Ign π .cles ∧ Ign π .pairs ∧ Ign π .tals ∧ Ign π .ldgs ∧ Ign π .wchs ∧ Ign π .chans ∧ Ign π .cycles ∧ Ign π .pcx ∧ Ign π .funcs ∧ Ign π .pwr ∧ Ign π .timers := by simp [hW])
    : see π (State.loseAll s) = see π s := by
  simp [hW, State.loseAll]

@[simp ↓] theorem State.sensorEvent_see (s : State) (sensor : ℕ) (value : ℕ) (hW : Ign π .out ∧ Ign π .free := by simp [hW])
    : see π (State.sensorEvent s sensor value) = see π s := by
  simp [hW, State.sensorEvent]

@[simp ↓] theorem State.clamp_see (s : State) (iin : BitVec 16) (hW : Ign π .pwr ∧ Ign π .timers := by simp [hW])
    : see π (State.clamp s iin) = see π s := by
  simp [hW, State.clamp]

@[simp ↓] theorem State.domCmd_see (s : State) (m : Master) (d : ℕ) (on : Bool) (hW : Ign π .mem ∧ Ign π .poison ∧ Ign π .blocks ∧ Ign π .tiles ∧ Ign π .mxes ∧ Ign π .vxes ∧ Ign π .stes ∧ Ign π .chains ∧ Ign π .stks ∧ Ign π .tlbs ∧ Ign π .nmes ∧ Ign π .kvfs ∧ Ign π .links ∧ Ign π .lgs ∧ Ign π .cles ∧ Ign π .pairs ∧ Ign π .tals ∧ Ign π .ldgs ∧ Ign π .wchs ∧ Ign π .cycles ∧ Ign π .pcx ∧ Ign π .funcs ∧ Ign π .pwr ∧ Ign π .timers := by simp [hW])
    : see π (State.domCmd s m d on) = see π s := by
  rw [State.domCmd.eq_def]; dsimp only; (repeat' split) <;> simp [hW]

@[simp ↓] theorem execDomainOn_see (m : Master) (d : BitVec 7) (s : State) (hW : Ign π .mem ∧ Ign π .poison ∧ Ign π .blocks ∧ Ign π .tiles ∧ Ign π .mxes ∧ Ign π .vxes ∧ Ign π .stes ∧ Ign π .chains ∧ Ign π .stks ∧ Ign π .tlbs ∧ Ign π .nmes ∧ Ign π .kvfs ∧ Ign π .links ∧ Ign π .lgs ∧ Ign π .cles ∧ Ign π .pairs ∧ Ign π .tals ∧ Ign π .ldgs ∧ Ign π .wchs ∧ Ign π .cycles ∧ Ign π .pcx ∧ Ign π .funcs ∧ Ign π .pwr ∧ Ign π .timers := by simp [hW])
    : see π (stateOf (execDomainOn m d s) s) = see π s := by
  simp [hW, execDomainOn]

@[simp ↓] theorem execDomainOff_see (m : Master) (d : BitVec 7) (s : State) (hW : Ign π .mem ∧ Ign π .poison ∧ Ign π .blocks ∧ Ign π .tiles ∧ Ign π .mxes ∧ Ign π .vxes ∧ Ign π .stes ∧ Ign π .chains ∧ Ign π .stks ∧ Ign π .tlbs ∧ Ign π .nmes ∧ Ign π .kvfs ∧ Ign π .links ∧ Ign π .lgs ∧ Ign π .cles ∧ Ign π .pairs ∧ Ign π .tals ∧ Ign π .ldgs ∧ Ign π .wchs ∧ Ign π .cycles ∧ Ign π .pcx ∧ Ign π .funcs ∧ Ign π .pwr ∧ Ign π .timers := by simp [hW])
    : see π (stateOf (execDomainOff m d s) s) = see π s := by
  simp [hW, execDomainOff]

@[simp ↓] theorem State.selectJtag_see (s : State) (j : Jtag) (hW : Ign π .mem ∧ Ign π .poison ∧ Ign π .blocks ∧ Ign π .tiles ∧ Ign π .mxes ∧ Ign π .vxes ∧ Ign π .stes ∧ Ign π .chains ∧ Ign π .stks ∧ Ign π .tlbs ∧ Ign π .nmes ∧ Ign π .kvfs ∧ Ign π .links ∧ Ign π .lgs ∧ Ign π .cles ∧ Ign π .pairs ∧ Ign π .tals ∧ Ign π .ldgs ∧ Ign π .wchs ∧ Ign π .cycles ∧ Ign π .pcx ∧ Ign π .funcs ∧ Ign π .pwr ∧ Ign π .jtag ∧ Ign π .timers := by simp [hW])
    : see π (State.selectJtag s j) = see π s := by
  simp [hW, State.selectJtag]

/-! ## Pcie -/

@[simp ↓] theorem State.sendPending_see (s : State) (fn : ℕ) (hW : Ign π .blocks ∧ Ign π .tals ∧ Ign π .funcs ∧ Ign π .out := by simp [hW])
    : see π (State.sendPending s fn) = see π s := by
  simp [hW, State.sendPending]

@[simp ↓] theorem State.linkOut_see (s : State) (hW : Ign π .pcx := by simp [hW])
    : see π (State.linkOut s) = see π s := by
  rw [State.linkOut.eq_def]; simp [hW]

@[simp ↓] theorem State.resetFn_see (s : State) (fn : ℕ) (hW : Ign π .pcx ∧ Ign π .funcs := by simp [hW])
    : see π (State.resetFn s fn) = see π s := by
  simp [hW, State.resetFn]

@[simp ↓] theorem State.partitionByOther_see (s : State) (p : ℕ) (hW : Ign π .mem ∧ Ign π .poison ∧ Ign π .blocks ∧ Ign π .ctxs ∧ Ign π .ques ∧ Ign π .rels ∧ Ign π .tiles ∧ Ign π .mxes ∧ Ign π .vxes ∧ Ign π .stes ∧ Ign π .chains ∧ Ign π .stks ∧ Ign π .tlbs ∧ Ign π .nmes ∧ Ign π .kvfs ∧ Ign π .parts ∧ Ign π .sess ∧ Ign π .rings ∧ Ign π .bars ∧ Ign π .links ∧ Ign π .lgs ∧ Ign π .board ∧ Ign π .cles ∧ Ign π .pairs ∧ Ign π .tals ∧ Ign π .ldgs ∧ Ign π .wchs ∧ Ign π .cycles ∧ Ign π .pcx ∧ Ign π .funcs ∧ Ign π .pwr ∧ Ign π .timers := by simp [hW])
    : see π (State.partitionByOther s p) = see π s := by
  simp [hW, State.partitionByOther]

@[simp ↓] theorem State.setVfs_see (s : State) (n : ℕ) (hW : Ign π .pcx ∧ Ign π .funcs := by simp [hW])
    : see π (State.setVfs s n) = see π s := by
  simp [hW, State.setVfs]

@[simp ↓] theorem State.hostFails_see (s : State) (r : HostReader) (hW : Ign π .mem ∧ Ign π .poison ∧ Ign π .blocks ∧ Ign π .img ∧ Ign π .ctxs ∧ Ign π .ques ∧ Ign π .tiles ∧ Ign π .stes ∧ Ign π .stks ∧ Ign π .tlbs ∧ Ign π .parts ∧ Ign π .tals ∧ Ign π .ldgs ∧ Ign π .fog ∧ Ign π .funcs ∧ Ign π .timers ∧ Ign π .out ∧ Ign π .free := by simp [hW])
    : see π (State.hostFails s r) = see π s := by
  rw [State.hostFails.eq_def]; dsimp only; (repeat' split) <;> simp [hW]

/-! ## RegAccess -/

@[simp ↓] theorem State.codeWrite_see (s : State) (b : BlkId) (off : ℕ) (v : W32) (hW : Ign π .blocks ∧ Ign π .tals := by simp [hW])
    : see π (State.codeWrite s b off v) = see π s := by
  rw [State.codeWrite.eq_def]; split <;> simp [hW]

@[simp ↓] theorem State.commitWrite_see (s : State) (m : Master) (b : BlkId) (v : W32) (hW : Ign π .mem ∧ Ign π .poison ∧ Ign π .blocks ∧ Ign π .ctxs ∧ Ign π .ques ∧ Ign π .tiles ∧ Ign π .chains ∧ Ign π .nmes ∧ Ign π .kvfs ∧ Ign π .parts ∧ Ign π .rings ∧ Ign π .links ∧ Ign π .lgs ∧ Ign π .pairs ∧ Ign π .tals ∧ Ign π .ldgs ∧ Ign π .wchs ∧ Ign π .fog ∧ Ign π .funcs ∧ Ign π .timers ∧ Ign π .out ∧ Ign π .free := by simp [hW])
    : see π (State.commitWrite s m b v) = see π s := by
  simp [hW, State.commitWrite]

theorem State.cmdWrite_see (s : State) (m : Master) (b : BlkId) (off : ℕ) (v : W32) (hW : Ign π .mem ∧ Ign π .poison ∧ Ign π .blocks ∧ Ign π .img ∧ Ign π .ctxs ∧ Ign π .ques ∧ Ign π .rels ∧ Ign π .tiles ∧ Ign π .mxes ∧ Ign π .vxes ∧ Ign π .stes ∧ Ign π .chains ∧ Ign π .stks ∧ Ign π .tlbs ∧ Ign π .nmes ∧ Ign π .kvfs ∧ Ign π .parts ∧ Ign π .sess ∧ Ign π .rings ∧ Ign π .bars ∧ Ign π .links ∧ Ign π .lgs ∧ Ign π .board ∧ Ign π .cles ∧ Ign π .pairs ∧ Ign π .tals ∧ Ign π .ldgs ∧ Ign π .wchs ∧ Ign π .chans ∧ Ign π .cycles ∧ Ign π .fog ∧ Ign π .pcx ∧ Ign π .funcs ∧ Ign π .mgt ∧ Ign π .otp ∧ Ign π .sec ∧ Ign π .pwr ∧ Ign π .boot ∧ Ign π .timers ∧ Ign π .rr ∧ Ign π .out ∧ Ign π .free := by simp [hW])
    : ∀ t ∈ (State.cmdWrite s m b off v), see π t = see π s := by
  rw [State.cmdWrite.eq_def]; dsimp only; (repeat' split) <;> simp [hW]

theorem State.cmdWrite_see_of {s : State} {m : Master} {b : BlkId} {off : ℕ} {v : W32} {t1 : State} (hh : (State.cmdWrite s m b off v) = some t1) (hW : Ign π .mem ∧ Ign π .poison ∧ Ign π .blocks ∧ Ign π .img ∧ Ign π .ctxs ∧ Ign π .ques ∧ Ign π .rels ∧ Ign π .tiles ∧ Ign π .mxes ∧ Ign π .vxes ∧ Ign π .stes ∧ Ign π .chains ∧ Ign π .stks ∧ Ign π .tlbs ∧ Ign π .nmes ∧ Ign π .kvfs ∧ Ign π .parts ∧ Ign π .sess ∧ Ign π .rings ∧ Ign π .bars ∧ Ign π .links ∧ Ign π .lgs ∧ Ign π .board ∧ Ign π .cles ∧ Ign π .pairs ∧ Ign π .tals ∧ Ign π .ldgs ∧ Ign π .wchs ∧ Ign π .chans ∧ Ign π .cycles ∧ Ign π .fog ∧ Ign π .pcx ∧ Ign π .funcs ∧ Ign π .mgt ∧ Ign π .otp ∧ Ign π .sec ∧ Ign π .pwr ∧ Ign π .boot ∧ Ign π .timers ∧ Ign π .rr ∧ Ign π .out ∧ Ign π .free := by simp [hW])
    : see π t1 = see π s :=
  State.cmdWrite_see s m b off v (by simp [hW]) t1 hh

theorem State.deniedWrite_see (s : State) (m : Master) (b : BlkId) (off : ℕ) (hW : Ign π .img ∧ Ign π .mxes ∧ Ign π .stks ∧ Ign π .parts ∧ Ign π .sess := by simp [hW])
    : ∀ t ∈ (State.deniedWrite s m b off), see π t = see π s := by
  rw [State.deniedWrite.eq_def]; dsimp only; (repeat' split) <;> simp [hW]

theorem State.deniedWrite_see_of {s : State} {m : Master} {b : BlkId} {off : ℕ} {t1 : State} (hh : (State.deniedWrite s m b off) = some t1) (hW : Ign π .img ∧ Ign π .mxes ∧ Ign π .stks ∧ Ign π .parts ∧ Ign π .sess := by simp [hW])
    : see π t1 = see π s :=
  State.deniedWrite_see s m b off (by simp [hW]) t1 hh

@[simp ↓] theorem State.regWrite_see (s : State) (m : Master) (b : BlkId) (off : ℕ) (v : W32) (hW : Ign π .mem ∧ Ign π .poison ∧ Ign π .blocks ∧ Ign π .img ∧ Ign π .ctxs ∧ Ign π .ques ∧ Ign π .rels ∧ Ign π .tiles ∧ Ign π .mxes ∧ Ign π .vxes ∧ Ign π .stes ∧ Ign π .chains ∧ Ign π .stks ∧ Ign π .tlbs ∧ Ign π .nmes ∧ Ign π .kvfs ∧ Ign π .parts ∧ Ign π .sess ∧ Ign π .rings ∧ Ign π .bars ∧ Ign π .links ∧ Ign π .lgs ∧ Ign π .board ∧ Ign π .cles ∧ Ign π .pairs ∧ Ign π .tals ∧ Ign π .ldgs ∧ Ign π .wchs ∧ Ign π .chans ∧ Ign π .cycles ∧ Ign π .fog ∧ Ign π .pcx ∧ Ign π .funcs ∧ Ign π .mgt ∧ Ign π .otp ∧ Ign π .sec ∧ Ign π .pwr ∧ Ign π .boot ∧ Ign π .timers ∧ Ign π .rr ∧ Ign π .out ∧ Ign π .free := by simp [hW])
    : see π (State.regWrite s m b off v) = see π s := by
  rw [State.regWrite.eq_def]
  (repeat' split) <;> (try dsimp only) <;> first | exact State.deniedWrite_see_of (by with_reducible assumption) | exact State.cmdWrite_see_of (by with_reducible assumption) | simp [hW]

@[simp ↓] theorem State.ctlWrite_see (s : State) (m : Master) (addr : ℕ) (v : W32) (hW : Ign π .mem ∧ Ign π .poison ∧ Ign π .blocks ∧ Ign π .img ∧ Ign π .ctxs ∧ Ign π .ques ∧ Ign π .rels ∧ Ign π .tiles ∧ Ign π .mxes ∧ Ign π .vxes ∧ Ign π .stes ∧ Ign π .chains ∧ Ign π .stks ∧ Ign π .tlbs ∧ Ign π .nmes ∧ Ign π .kvfs ∧ Ign π .parts ∧ Ign π .sess ∧ Ign π .rings ∧ Ign π .bars ∧ Ign π .links ∧ Ign π .lgs ∧ Ign π .board ∧ Ign π .cles ∧ Ign π .pairs ∧ Ign π .tals ∧ Ign π .ldgs ∧ Ign π .wchs ∧ Ign π .chans ∧ Ign π .cycles ∧ Ign π .fog ∧ Ign π .pcx ∧ Ign π .funcs ∧ Ign π .mgt ∧ Ign π .otp ∧ Ign π .sec ∧ Ign π .pwr ∧ Ign π .boot ∧ Ign π .timers ∧ Ign π .rr ∧ Ign π .out ∧ Ign π .free := by simp [hW])
    : see π (State.ctlWrite s m addr v) = see π s := by
  rw [State.ctlWrite.eq_def]; split <;> simp [hW]

/-! ## Host -/

@[simp ↓] theorem State.complete_see (s : State) (fn : ℕ) (ok : Bool) (data : List Byte) (hW : Ign π .out := by simp [hW])
    : see π (State.complete s fn ok data) = see π s := by
  rw [State.complete.eq_def]; simp [hW]

@[simp ↓] theorem State.barMiss_see (s : State) (hW : Ign π .blocks := by simp [hW])
    : see π (State.barMiss s) = see π s := by
  rw [State.barMiss.eq_def]; simp [hW]

@[simp ↓] theorem State.tableWrite_see (s : State) (fn : ℕ) (off : ℕ) (v : W32) (hW : Ign π .blocks ∧ Ign π .tals ∧ Ign π .funcs ∧ Ign π .out := by simp [hW])
    : see π (State.tableWrite s fn off v) = see π s := by
  simp [hW, State.tableWrite]

@[simp ↓] theorem State.bar0Read_see (s : State) (fn : ℕ) (off : ℕ) (hW : Ign π .blocks ∧ Ign π .out := by simp [hW])
    : see π (State.bar0Read s fn off) = see π s := by
  rw [State.bar0Read.eq_def]; (repeat' split) <;> simp [hW]

@[simp ↓] theorem State.bar0Write_see (s : State) (fn : ℕ) (off : ℕ) (v : W32) (hW : Ign π .mem ∧ Ign π .poison ∧ Ign π .blocks ∧ Ign π .img ∧ Ign π .ctxs ∧ Ign π .ques ∧ Ign π .rels ∧ Ign π .tiles ∧ Ign π .mxes ∧ Ign π .vxes ∧ Ign π .stes ∧ Ign π .chains ∧ Ign π .stks ∧ Ign π .tlbs ∧ Ign π .nmes ∧ Ign π .kvfs ∧ Ign π .parts ∧ Ign π .sess ∧ Ign π .rings ∧ Ign π .bars ∧ Ign π .links ∧ Ign π .lgs ∧ Ign π .board ∧ Ign π .cles ∧ Ign π .pairs ∧ Ign π .tals ∧ Ign π .ldgs ∧ Ign π .wchs ∧ Ign π .chans ∧ Ign π .cycles ∧ Ign π .fog ∧ Ign π .pcx ∧ Ign π .funcs ∧ Ign π .mgt ∧ Ign π .otp ∧ Ign π .sec ∧ Ign π .pwr ∧ Ign π .boot ∧ Ign π .timers ∧ Ign π .rr ∧ Ign π .out ∧ Ign π .free := by simp [hW])
    : see π (State.bar0Write s fn off v) = see π s := by
  rw [State.bar0Write.eq_def]; split <;> simp [hW]

@[simp ↓] theorem State.bar2Read_see (s : State) (fn : ℕ) (off : ℕ) (len : ℕ) (hW : Ign π .blocks ∧ Ign π .out := by simp [hW])
    : see π (State.bar2Read s fn off len) = see π s := by
  rw [State.bar2Read.eq_def]; (repeat' split) <;> simp [hW]

@[simp ↓] theorem State.bar2Write_see (s : State) (fn : ℕ) (off : ℕ) (bs : List Byte) (relaxed : Bool) (hW : Ign π .mem ∧ Ign π .poison ∧ Ign π .blocks ∧ Ign π .img ∧ Ign π .ctxs ∧ Ign π .ques ∧ Ign π .rels ∧ Ign π .tiles ∧ Ign π .mxes ∧ Ign π .vxes ∧ Ign π .stes ∧ Ign π .chains ∧ Ign π .stks ∧ Ign π .tlbs ∧ Ign π .nmes ∧ Ign π .kvfs ∧ Ign π .parts ∧ Ign π .sess ∧ Ign π .rings ∧ Ign π .bars ∧ Ign π .links ∧ Ign π .lgs ∧ Ign π .board ∧ Ign π .cles ∧ Ign π .pairs ∧ Ign π .tals ∧ Ign π .ldgs ∧ Ign π .wchs ∧ Ign π .chans ∧ Ign π .cycles ∧ Ign π .fog ∧ Ign π .pcx ∧ Ign π .funcs ∧ Ign π .mgt ∧ Ign π .otp ∧ Ign π .sec ∧ Ign π .pwr ∧ Ign π .boot ∧ Ign π .timers ∧ Ign π .rr ∧ Ign π .out ∧ Ign π .free := by simp [hW])
    : see π (State.bar2Write s fn off bs relaxed) = see π s := by
  rw [State.bar2Write.eq_def]; dsimp only; (repeat' split) <;> simp [hW]

@[simp ↓] theorem State.toCore_see (s : State) (core : ℕ) (data : List Byte) (hW : Ign π .out := by simp [hW])
    : see π (State.toCore s core data) = see π s := by
  rw [State.toCore.eq_def]; simp [hW]

@[simp ↓] theorem State.coreFault_see (s : State) (core : ℕ) (a : ℕ) (hW : Ign π .out := by simp [hW])
    : see π (State.coreFault s core a) = see π s := by
  rw [State.coreFault.eq_def]; simp [hW]

@[simp ↓] theorem State.coreUpdate_see (s : State) (core a n : ℕ) (f : State → State) (hf : ∀ s, see π (f s) = see π s) (hW : Ign π .blocks ∧ Ign π .tals ∧ Ign π .funcs ∧ Ign π .out ∧ Ign π .free := by simp [hW])
    : see π (State.coreUpdate s core a n f) = see π s := by
  rw [State.coreUpdate.eq_def]
  (repeat' split) <;> (repeat first | with_reducible rfl | refine (State.coreFlush_see_of (by with_reducible assumption)).trans ?_ | simp [hW, hf])

@[simp ↓] theorem State.keeperHostAtomic_see (s : State) (core : ℕ) (a : ℕ) (op : AtomOp) (bytes : ℕ) (v : ℕ) (hW : Ign π .blocks ∧ Ign π .pcx ∧ Ign π .funcs ∧ Ign π .out ∧ Ign π .free := by simp [hW])
    : see π (State.keeperHostAtomic s core a op bytes v) = see π s := by
  simp [hW, State.keeperHostAtomic]

@[simp ↓] theorem State.keeperAtomic_see (s : State) (core : ℕ) (a : ℕ) (op : AtomOp) (bytes : ℕ) (v : ℕ) (hW : Ign π .mem ∧ Ign π .poison ∧ Ign π .blocks ∧ Ign π .tiles ∧ Ign π .tals ∧ Ign π .pcx ∧ Ign π .funcs ∧ Ign π .out ∧ Ign π .free := by simp [hW])
    : see π (State.keeperAtomic s core a op bytes v) = see π s := by
  rw [State.keeperAtomic.eq_def]; dsimp only; (repeat' split) <;> simp [hW]

@[simp ↓] theorem State.atomicDone_see (s : State) (r : HostReader) (old : ℕ) (hW : Ign π .blocks ∧ Ign π .ques ∧ Ign π .tals ∧ Ign π .ldgs ∧ Ign π .fog ∧ Ign π .funcs ∧ Ign π .timers ∧ Ign π .out := by simp [hW])
    : see π (State.atomicDone s r old) = see π s := by
  rw [State.atomicDone.eq_def]; split <;> simp [hW]

@[simp ↓] theorem State.keeperLoad_see (s : State) (core : ℕ) (a : ℕ) (n : ℕ) (hW : Ign π .blocks ∧ Ign π .funcs ∧ Ign π .out ∧ Ign π .free := by simp [hW])
    : see π (State.keeperLoad s core a n) = see π s := by
  rw [State.keeperLoad.eq_def]
  (repeat' split) <;> (repeat first | with_reducible rfl | refine (State.hostRead_see_of (by with_reducible assumption)).trans ?_ | split | simp [hW])

@[simp ↓] theorem State.keeperStore_see (s : State) (core : ℕ) (a : ℕ) (bs : List Byte) (hW : Ign π .mem ∧ Ign π .poison ∧ Ign π .blocks ∧ Ign π .img ∧ Ign π .ctxs ∧ Ign π .ques ∧ Ign π .rels ∧ Ign π .tiles ∧ Ign π .mxes ∧ Ign π .vxes ∧ Ign π .stes ∧ Ign π .chains ∧ Ign π .stks ∧ Ign π .tlbs ∧ Ign π .nmes ∧ Ign π .kvfs ∧ Ign π .parts ∧ Ign π .sess ∧ Ign π .rings ∧ Ign π .bars ∧ Ign π .links ∧ Ign π .lgs ∧ Ign π .board ∧ Ign π .cles ∧ Ign π .pairs ∧ Ign π .tals ∧ Ign π .ldgs ∧ Ign π .wchs ∧ Ign π .chans ∧ Ign π .cycles ∧ Ign π .fog ∧ Ign π .pcx ∧ Ign π .funcs ∧ Ign π .mgt ∧ Ign π .otp ∧ Ign π .sec ∧ Ign π .pwr ∧ Ign π .boot ∧ Ign π .timers ∧ Ign π .rr ∧ Ign π .out ∧ Ign π .free := by simp [hW])
    : see π (State.keeperStore s core a bs) = see π s := by
  rw [State.keeperStore.eq_def]; dsimp only; split <;> simp [hW]

/-! ## Mgmt -/

@[simp ↓] theorem State.respond_see (s : State) (doe : Option (Fin 9)) (cmd : ℕ) (tag : BitVec 16) (status : ℕ) (payload : List Byte) (hW : Ign π .out := by simp [hW])
    : see π (State.respond s doe cmd tag status payload) = see π s := by
  rw [State.respond.eq_def]; simp [hW]

@[simp ↓] theorem State.auteha_see (s : State) (doe : Option (Fin 9)) (cmd : Nat) (tag : BitVec 16) (f : State → Answer)
    (hf : ∀ s, see π (f s).state = see π s) (hW : Ign π .out := by simp [hW])
    : see π (s.auteha doe cmd tag f) = see π s := by
  rw [State.auteha.eq_def]; (try dsimp only); (repeat' split) <;> simp [hW, hf]

@[simp ↓] theorem State.takeAddress_see (s : State) (addr : BitVec 7) (id : ℕ) (hW : Ign π .mgt ∧ Ign π .out := by simp [hW])
    : see π (State.takeAddress s addr id) = see π s := by
  simp [hW, State.takeAddress]

@[simp ↓] theorem State.mctpReply_see (s : State) (cmd : ℕ) (payload : List Byte) (hW : Ign π .out := by simp [hW])
    : see π (State.mctpReply s cmd payload) = see π s := by
  simp [hW, State.mctpReply]

/-! ## Pldm -/

@[simp ↓] theorem State.pldm_see (s : State) (typ cmd : Nat) (f : State → Byte × List Byte × State)
    (hf : ∀ s, see π (f s).2.2 = see π s) (hW : Ign π .out := by simp [hW])
    : see π (s.pldm typ cmd f) = see π s := by
  rw [State.pldm.eq_def]; (try dsimp only); (repeat' split) <;> simp [hW, hf]

@[simp ↓] theorem State.pldmInfo_see (s : State) (typ : ℕ) (cmd : ℕ) (code : Byte) (payload : List Byte) (hW : Ign π .out := by simp [hW])
    : see π (State.pldmInfo s typ cmd code payload) = see π s := by
  simp [hW, State.pldmInfo]

@[simp ↓] theorem State.setFw_see (s : State) (st : FwSt) (hW : Ign π .mgt := by simp [hW])
    : see π (State.setFw s st) = see π s := by
  rw [State.setFw.eq_def]; simp [hW]

@[simp ↓] theorem State.fwEnd_see (s : State) (whole : Bool) (hW : Ign π .flash ∧ Ign π .blocks ∧ Ign π .mgt ∧ Ign π .out := by simp [hW])
    : see π (State.fwEnd s whole) = see π s := by
  rw [State.fwEnd.eq_def]; dsimp only; (repeat' split) <;> simp [hW]

/-! ## Begin -/

@[simp ↓] theorem State.begin_see (s : State) (p : ℕ) (q : ℕ) (i : ℕ) (c : Cmd) (held : List PageMap) (rd : List (ℕ × ℕ)) (wr : List (ℕ × ℕ)) (ch : Option Chain) (hW : Ign π .blocks ∧ Ign π .ques ∧ Ign π .mxes ∧ Ign π .vxes ∧ Ign π .stes ∧ Ign π .chains ∧ Ign π .nmes ∧ Ign π .cles ∧ Ign π .pairs ∧ Ign π .tals ∧ Ign π .ldgs ∧ Ign π .fog ∧ Ign π .timers ∧ Ign π .rr ∧ Ign π .out ∧ Ign π .free := by simp [hW])
    : see π (State.begin s p q i c held rd wr ch) = see π s := by
  rw [State.begin.eq_def]; dsimp only; (repeat' split) <;> simp [hW]

/-- The state an attempt to begin leaves has the queue that it found. -/
def Attempt.keeps (a : Attempt) (π : State → α) (l : α) : Prop :=
  match a with
  | .notYet => True
  | .bad _ _ _ t => see π t = l
  | .go t _ _ _ _ => see π t = l

theorem State.attemptChain_keeps (s : State) (p q i : Nat) (c : Cmd) (hW : Ign π .blocks ∧ Ign π .mxes ∧ Ign π .stes ∧ Ign π .tlbs ∧ Ign π .funcs ∧ Ign π .out ∧ Ign π .free := by simp [hW])
    : (s.attemptChain p q i c).keeps π (see π s) := by
  rw [State.attemptChain.eq_def]; dsimp only
  split
  · trivial
  · exact State.chainCheck_see_of (by assumption)
  · split
    · trivial
    · exact State.chainCheck_see_of (by assumption)

theorem State.attemptPlain_keeps (s : State) (p q i : Nat) (c : Cmd) (pl : Plan) (hW : Ign π .blocks ∧ Ign π .tlbs ∧ Ign π .funcs ∧ Ign π .out ∧ Ign π .free := by simp [hW])
    :
    (s.attemptPlain p q i c pl).keeps π (see π s) := by
  rw [State.attemptPlain.eq_def]
  try dsimp only
  (repeat' split) <;> first
    | trivial
    | exact State.placeRanges_see_of (by with_reducible assumption)
    | exact (State.placeRanges_see_of (by with_reducible assumption)).trans (State.placeRanges_see_of (by with_reducible assumption))

theorem State.attempt_keeps (s : State) (p q i : Nat) (c : Cmd) (hW : Ign π .blocks ∧ Ign π .mxes ∧ Ign π .stes ∧ Ign π .tlbs ∧ Ign π .funcs ∧ Ign π .out ∧ Ign π .free := by simp [hW])
    : (s.attempt p q i c).keeps π (see π s) := by
  rw [State.attempt.eq_def]
  try dsimp only
  (repeat' split) <;> first | trivial | exact State.attemptChain_keeps .. | exact State.attemptPlain_keeps ..

@[simp ↓] theorem State.tryBegin_see (s : State) (p : ℕ) (q : ℕ) (i : ℕ) (c : Cmd) (hW : Ign π .mem ∧ Ign π .poison ∧ Ign π .blocks ∧ Ign π .ctxs ∧ Ign π .ques ∧ Ign π .tiles ∧ Ign π .mxes ∧ Ign π .vxes ∧ Ign π .stes ∧ Ign π .chains ∧ Ign π .tlbs ∧ Ign π .nmes ∧ Ign π .parts ∧ Ign π .cles ∧ Ign π .pairs ∧ Ign π .tals ∧ Ign π .ldgs ∧ Ign π .fog ∧ Ign π .funcs ∧ Ign π .timers ∧ Ign π .rr ∧ Ign π .out ∧ Ign π .free := by simp [hW])
    : see π (State.tryBegin s p q i c) = see π s := by
  rw [State.tryBegin.eq_def]
  split
  · split <;> simp [hW]
  · have h := State.attempt_keeps (π := π) s p q i c
    split <;> simp_all [Attempt.keeps]

/-! ## Tick -/

@[simp ↓] theorem State.countCycle_see (s : State) (v1 : Island) (hW : Ign π .blocks ∧ Ign π .tals ∧ Ign π .free := by simp [hW])
    : see π (State.countCycle s v1) = see π s := by
  rw [State.countCycle.eq_def]; split <;> simp [hW]

@[simp ↓] theorem State.waitTallies_see (s : State) (t : ℕ) (hW : Ign π .blocks ∧ Ign π .tals ∧ Ign π .free := by simp [hW])
    : see π (State.waitTallies s t) = see π s := by
  rw [State.waitTallies.eq_def]; dsimp only; (repeat' split) <;> simp [hW]

@[simp ↓] theorem State.islandTick_see (s : State) (i : Island) (hW : Ign π .blocks ∧ Ign π .mxes ∧ Ign π .stks ∧ Ign π .tals ∧ Ign π .ldgs ∧ Ign π .cycles ∧ Ign π .fog ∧ Ign π .timers ∧ Ign π .out ∧ Ign π .free := by simp [hW])
    : see π (State.islandTick s i) = see π s := by
  rw [State.islandTick.eq_def]; dsimp only; (repeat' split) <;> simp [hW]

@[simp ↓] theorem State.linkPower_see (s : State) (hW : Ign π .pcx ∧ Ign π .free := by simp [hW])
    : see π (State.linkPower s) = see π s := by
  rw [State.linkPower.eq_def]; dsimp only; (repeat' split) <;> simp [hW]

@[simp ↓] theorem State.tick_see (s : State) (hW : Ign π .blocks ∧ Ign π .mxes ∧ Ign π .stks ∧ Ign π .tals ∧ Ign π .ldgs ∧ Ign π .cycles ∧ Ign π .fog ∧ Ign π .pcx ∧ Ign π .otp ∧ Ign π .timers ∧ Ign π .out ∧ Ign π .free := by simp [hW])
    : see π (State.tick s) = see π s := by
  rw [State.tick.eq_def, State.linkPower_see, foldl_see _ (fun _ _ => by simp [hW])]
  exact (see_otp (by simp [hW]) { s with timers := s.timers.map s.timerTick } _).trans (see_timers (by simp [hW]) s _)

end Sys2Proof.Machine
end

