-- ==== Sys2Proof/Laws/Exec.lean ====
section
/-!
SUPPORT. What every command may change: for each meaning, a view of the state that ignores the fields it writes is the
same after it. The other meanings, which operations call, are in Laws/Frame.lean.
-/
namespace Sys2Proof.Machine

set_option maxRecDepth 4000
set_option Elab.async false

variable {α : Type} {π : State → α}

theorem State.takeIf_see_of {s t : State} {c : Prop} [Decidable c] {l : Nat} {f : Frame}
    (hh : (if c then s.takeFrame l f else none) = some t) (hW : Ign π .links := by simp [hW]) : see π t = see π s := by
  split at hh
  · exact State.takeFrame_see_of hh
  · cases hh

theorem State.settle_see_of {s t : State} {l : Nat} {f : Frame} {w : Sent} (hh : s.settle l f = some (w, t))
    (hW : Ign π .blocks ∧ Ign π .links ∧ Ign π .lgs ∧ Ign π .tals ∧ Ign π .out := by simp [hW]) : see π t = see π s := by
  rw [State.settle.eq_def] at hh
  dsimp only at hh
  split at hh
  · cases hh
  · simp only [Option.some.injEq, Prod.mk.injEq] at hh
    rw [← hh.2]; simp [hW]

theorem encodeGroup_see (p : Nat) (c : Cmd) (ref_ : CmdRef) (rec_ : List W64) (entries : List (List Num)) (row : List Num)
    (a : (Nat × List Nat) × Enc × State) (j : Nat)
    (hW : Ign π .mem ∧ Ign π .poison ∧ Ign π .blocks ∧ Ign π .tiles ∧ Ign π .tals ∧ Ign π .funcs ∧ Ign π .out ∧ Ign π .free := by simp [hW]) :
    see π (encodeGroup p c ref_ rec_ entries row a j).2.2 = see π a.2.2 := by
  have hn : ∀ (vs : List (List Num)) (q : List Nat × State), see π (vs.foldl (fun (q : List Nat × State) v =>
      (q.1 ++ [(q.2.nearest v entries).1.1], (q.2.nearest v entries).2)) q).2 = see π q.2 :=
    fun vs q => foldl_snd_see _ (fun _ _ => by simp [hW]) _ _
  rw [encodeGroup.eq_def]
  dsimp only
  (repeat' split) <;> simp [hW, hn]

theorem encodeRow_see (p : Nat) (c : Cmd) (ref_ : CmdRef) (rec_ : List W64) (entries : List (List Num)) (a : Enc × State) (i : Nat)
    (hW : Ign π .mem ∧ Ign π .poison ∧ Ign π .blocks ∧ Ign π .tiles ∧ Ign π .tals ∧ Ign π .funcs ∧ Ign π .out ∧ Ign π .free := by simp [hW]) :
    see π (encodeRow p c ref_ rec_ entries a i).2 = see π a.2 := by
  have hg : ∀ (row : List Num) (l : List Nat) (g : (Nat × List Nat) × Enc × State),
      see π (l.foldl (encodeGroup p c ref_ rec_ entries row) g).2.2 = see π g.2.2 := by
    intro row l
    induction l with
    | nil => intro g; rfl
    | cons x l ih => intro g; rw [List.foldl_cons, ih, encodeGroup_see]
  rw [encodeRow.eq_def]
  dsimp only
  (repeat' split) <;> simp [hW, hg]

@[simp ↓] theorem encodeRows_see (p : ℕ) (c : Cmd) (o : VxeOp) (s : State) (hW : Ign π .mem ∧ Ign π .poison ∧ Ign π .blocks ∧ Ign π .tiles ∧ Ign π .tals ∧ Ign π .funcs ∧ Ign π .out ∧ Ign π .free := by simp [hW])
    : see π (encodeRows p c o s).2 = see π s := by
  rw [encodeRows.eq_def]; exact foldl_snd_see _ (fun a i => encodeRow_see p c _ _ _ a i (by simp [hW])) _ _

theorem encodeRows_see_of {p : ℕ} {c : Cmd} {o : VxeOp} {s : State} {w1 t1} (hh : (encodeRows p c o s) = (w1, t1)) (hW : Ign π .mem ∧ Ign π .poison ∧ Ign π .blocks ∧ Ign π .tiles ∧ Ign π .tals ∧ Ign π .funcs ∧ Ign π .out ∧ Ign π .free := by simp [hW])
    : see π t1 = see π s := by
  rw [← encodeRows_see p c o s, hh]

@[simp ↓] theorem execQueueFetch_see (p : Fin 8) (q : Fin 2048) (n : Fin 9) (s : State) (hW : Ign π .mem ∧ Ign π .poison ∧ Ign π .blocks ∧ Ign π .ctxs ∧ Ign π .ques ∧ Ign π .tiles ∧ Ign π .tlbs ∧ Ign π .parts ∧ Ign π .tals ∧ Ign π .ldgs ∧ Ign π .fog ∧ Ign π .funcs ∧ Ign π .timers ∧ Ign π .out ∧ Ign π .free := by simp [hW])
    : see π (stateOf (execQueueFetch p q n s) s) = see π s := by
  rw [execQueueFetch.eq_def, stateOf_next]; simp [hW]

@[simp ↓] theorem execMarkNotify_see (p : Fin 8) (q : Fin 2048) (w : Fin 4) (s : State) (hW : Ign π .mem ∧ Ign π .poison ∧ Ign π .blocks ∧ Ign π .ctxs ∧ Ign π .ques ∧ Ign π .tiles ∧ Ign π .tlbs ∧ Ign π .parts ∧ Ign π .tals ∧ Ign π .ldgs ∧ Ign π .fog ∧ Ign π .funcs ∧ Ign π .timers ∧ Ign π .out ∧ Ign π .free := by simp [hW])
    : see π (stateOf (execMarkNotify p q w s) s) = see π s := by
  rw [execMarkNotify.eq_def, stateOf_next]; (repeat' split) <;> simp [hW]

@[simp ↓] theorem execMarkPoll_see (p : Fin 8) (q : Fin 2048) (w : Fin 4) (v : Option W64) (s : State) (hW : Ign π .mem ∧ Ign π .poison ∧ Ign π .blocks ∧ Ign π .ctxs ∧ Ign π .ques ∧ Ign π .tiles ∧ Ign π .tlbs ∧ Ign π .parts ∧ Ign π .tals ∧ Ign π .ldgs ∧ Ign π .fog ∧ Ign π .funcs ∧ Ign π .timers ∧ Ign π .out ∧ Ign π .free := by simp [hW])
    : see π (stateOf (execMarkPoll p q w v s) s) = see π s := by
  rw [execMarkPoll.eq_def, stateOf_next]; simp [hW]

@[simp ↓] theorem execMarkReleaseAtHome_see (k : ℕ) (s : State) (hW : Ign π .mem ∧ Ign π .poison ∧ Ign π .blocks ∧ Ign π .ctxs ∧ Ign π .ques ∧ Ign π .rels ∧ Ign π .tiles ∧ Ign π .parts ∧ Ign π .tals ∧ Ign π .ldgs ∧ Ign π .fog ∧ Ign π .pcx ∧ Ign π .funcs ∧ Ign π .timers ∧ Ign π .out := by simp [hW])
    : see π (stateOf (execMarkReleaseAtHome k s) s) = see π s := by
  rw [execMarkReleaseAtHome.eq_def, stateOf_next]; dsimp only; (repeat' split) <;> simp [hW]

@[simp ↓] theorem execCommandRetire_see (p : Fin 8) (q : Fin 2048) (s : State) (hW : Ign π .mem ∧ Ign π .poison ∧ Ign π .blocks ∧ Ign π .ctxs ∧ Ign π .ques ∧ Ign π .rels ∧ Ign π .tiles ∧ Ign π .tlbs ∧ Ign π .parts ∧ Ign π .tals ∧ Ign π .ldgs ∧ Ign π .fog ∧ Ign π .funcs ∧ Ign π .timers ∧ Ign π .out ∧ Ign π .free := by simp [hW])
    : see π (stateOf (execCommandRetire p q s) s) = see π s := by
  rw [execCommandRetire.eq_def, stateOf_next]; dsimp only; (repeat' split) <;> simp [hW]

@[simp ↓] theorem execNop_see (p : Fin 8) (q : Fin 2048) (s : State) (hW : Ign π .blocks ∧ Ign π .ques ∧ Ign π .chains ∧ Ign π .tals ∧ Ign π .ldgs ∧ Ign π .fog ∧ Ign π .timers ∧ Ign π .out := by simp [hW])
    : see π (stateOf (execNop p q s) s) = see π s := by
  rw [execNop.eq_def, stateOf_next]; simp [hW]

@[simp ↓] theorem execWriteImm_see (p : Fin 8) (q : Fin 2048) (s : State) (hW : Ign π .mem ∧ Ign π .poison ∧ Ign π .blocks ∧ Ign π .ctxs ∧ Ign π .ques ∧ Ign π .tiles ∧ Ign π .chains ∧ Ign π .parts ∧ Ign π .tals ∧ Ign π .ldgs ∧ Ign π .fog ∧ Ign π .funcs ∧ Ign π .timers ∧ Ign π .out ∧ Ign π .free := by simp [hW])
    : see π (stateOf (execWriteImm p q s) s) = see π s := by
  rw [execWriteImm.eq_def, stateOf_next, State.withLocal_see]
  intro c r; split <;> simp [hW]

@[simp ↓] theorem execMarkAdd_see (p : Fin 8) (q : Fin 2048) (s : State) (hW : Ign π .mem ∧ Ign π .poison ∧ Ign π .blocks ∧ Ign π .ctxs ∧ Ign π .ques ∧ Ign π .tiles ∧ Ign π .chains ∧ Ign π .tlbs ∧ Ign π .parts ∧ Ign π .tals ∧ Ign π .ldgs ∧ Ign π .fog ∧ Ign π .funcs ∧ Ign π .timers ∧ Ign π .out ∧ Ign π .free := by simp [hW])
    : see π (stateOf (execMarkAdd p q s) s) = see π s := by
  rw [execMarkAdd.eq_def, stateOf_next]
  refine State.withLocal_see _ _ _ _ _ (fun c r => ?_)
  dsimp only
  (repeat' split) <;> (repeat (first | with_reducible rfl | refine (State.markPhys_see_of (by with_reducible assumption)).trans ?_ | simp [hW]))

@[simp ↓] theorem execQueueDrainEnd_see (p : Fin 8) (q : Fin 2048) (s : State) (hW : Ign π .ques ∧ Ign π .mxes ∧ Ign π .timers := by simp [hW])
    : see π (stateOf (execQueueDrainEnd p q s) s) = see π s := by
  rw [execQueueDrainEnd.eq_def, stateOf_next]; simp [hW]

@[simp ↓] theorem execReseedDone_see (t : Fin 48) (s : State) (hW : Ign π .tiles := by simp [hW])
    : see π (stateOf (execReseedDone t s) s) = see π s := by
  rw [execReseedDone.eq_def, stateOf_next]; simp [hW]

@[simp ↓] theorem execMxePass_see (t : Fin 48) (s : State) (hW : Ign π .mxes ∧ Ign π .timers := by simp [hW])
    : see π (stateOf (execMxePass t s) s) = see π s := by
  rw [execMxePass.eq_def, stateOf_next]; dsimp only; (repeat' split) <;> simp [hW]

@[simp ↓] theorem execPassSwap_see (t : Fin 48) (s : State) (hW : Ign π .mem ∧ Ign π .poison ∧ Ign π .blocks ∧ Ign π .ctxs ∧ Ign π .ques ∧ Ign π .tiles ∧ Ign π .mxes ∧ Ign π .chains ∧ Ign π .parts ∧ Ign π .tals ∧ Ign π .ldgs ∧ Ign π .fog ∧ Ign π .funcs ∧ Ign π .timers ∧ Ign π .out := by simp [hW])
    : see π (stateOf (execPassSwap t s) s) = see π s := by
  rw [execPassSwap.eq_def, stateOf_next]; dsimp only; (repeat' split) <;> simp [hW]

@[simp ↓] theorem execMxeIssue_see (t : Fin 48) (s : State) (hW : Ign π .mem ∧ Ign π .poison ∧ Ign π .blocks ∧ Ign π .ctxs ∧ Ign π .ques ∧ Ign π .tiles ∧ Ign π .mxes ∧ Ign π .chains ∧ Ign π .parts ∧ Ign π .tals ∧ Ign π .ldgs ∧ Ign π .fog ∧ Ign π .funcs ∧ Ign π .timers ∧ Ign π .out := by simp [hW])
    : see π (stateOf (execMxeIssue t s) s) = see π s := by
  rw [execMxeIssue.eq_def, stateOf_next]; dsimp only; (repeat' split) <;> simp [hW]

@[simp ↓] theorem execSlotRowAdd_see (t : Fin 48) (s : State) (hW : Ign π .mem ∧ Ign π .poison ∧ Ign π .blocks ∧ Ign π .tiles ∧ Ign π .mxes ∧ Ign π .tals ∧ Ign π .free := by simp [hW])
    : see π (stateOf (execSlotRowAdd t s) s) = see π s := by
  rw [execSlotRowAdd.eq_def, stateOf_next]; dsimp only; (repeat' split) <;> simp [hW]

@[simp ↓] theorem execPassComplete_see (t : Fin 48) (s : State) (hW : Ign π .blocks ∧ Ign π .ques ∧ Ign π .mxes ∧ Ign π .chains ∧ Ign π .tals ∧ Ign π .ldgs ∧ Ign π .fog ∧ Ign π .timers ∧ Ign π .out := by simp [hW])
    : see π (stateOf (execPassComplete t s) s) = see π s := by
  rw [execPassComplete.eq_def, stateOf_next]; dsimp only; (repeat' split) <;> simp [hW]

@[simp ↓] theorem execArrayIdleGate_see (t : Fin 48) (s : State) (hW : Ign π .mxes := by simp [hW])
    : see π (stateOf (execArrayIdleGate t s) s) = see π s := by
  rw [execArrayIdleGate.eq_def, stateOf_next]; simp [hW]

@[simp ↓] theorem execMxeDrain_see (t : Fin 48) (s : State) (hW : Ign π .mxes ∧ Ign π .timers := by simp [hW])
    : see π (stateOf (execMxeDrain t s) s) = see π s := by
  rw [execMxeDrain.eq_def, stateOf_next]; dsimp only; (repeat' split) <;> simp [hW]

@[simp ↓] theorem execDrainRowRead_see (t : Fin 48) (s : State) (hW : Ign π .mem ∧ Ign π .poison ∧ Ign π .blocks ∧ Ign π .ctxs ∧ Ign π .ques ∧ Ign π .tiles ∧ Ign π .mxes ∧ Ign π .chains ∧ Ign π .parts ∧ Ign π .tals ∧ Ign π .ldgs ∧ Ign π .wchs ∧ Ign π .fog ∧ Ign π .funcs ∧ Ign π .timers ∧ Ign π .out ∧ Ign π .free := by simp [hW])
    : see π (stateOf (execDrainRowRead t s) s) = see π s := by
  rw [execDrainRowRead.eq_def, stateOf_next]; dsimp only; (repeat' split) <;> simp [hW]

@[simp ↓] theorem execDrainRetry_see (t : Fin 48) (s : State) (hW : Ign π .blocks ∧ Ign π .mxes ∧ Ign π .tals ∧ Ign π .timers := by simp [hW])
    : see π (stateOf (execDrainRetry t s) s) = see π s := by
  rw [execDrainRetry.eq_def, stateOf_next]; dsimp only; (repeat' split) <;> simp [hW]

@[simp ↓] theorem execDrainComplete_see (t : Fin 48) (s : State) (hW : Ign π .mem ∧ Ign π .poison ∧ Ign π .blocks ∧ Ign π .ctxs ∧ Ign π .ques ∧ Ign π .tiles ∧ Ign π .mxes ∧ Ign π .chains ∧ Ign π .parts ∧ Ign π .tals ∧ Ign π .ldgs ∧ Ign π .wchs ∧ Ign π .fog ∧ Ign π .funcs ∧ Ign π .timers ∧ Ign π .out ∧ Ign π .free := by simp [hW])
    : see π (stateOf (execDrainComplete t s) s) = see π s := by
  rw [execDrainComplete.eq_def, stateOf_next]; (repeat' split) <;> simp [hW]

@[simp ↓] theorem execVxeRun_see (t : Fin 48) (s : State) (hW : Ign π .mem ∧ Ign π .poison ∧ Ign π .blocks ∧ Ign π .ctxs ∧ Ign π .ques ∧ Ign π .tiles ∧ Ign π .vxes ∧ Ign π .chains ∧ Ign π .parts ∧ Ign π .tals ∧ Ign π .ldgs ∧ Ign π .fog ∧ Ign π .funcs ∧ Ign π .timers ∧ Ign π .out ∧ Ign π .free := by simp [hW])
    : see π (stateOf (execVxeRun t s) s) = see π s := by
  rw [execVxeRun.eq_def, stateOf_next]; dsimp only; (repeat' split) <;> simp [hW]

@[simp ↓] theorem execEngineFillResume_see (t : Fin 48) (e : Eng) (s : State) (hW : Ign π .timers := by simp [hW])
    : see π (stateOf (execEngineFillResume t e s) s) = see π s := by
  rw [execEngineFillResume.eq_def, stateOf_next]; dsimp only; (repeat' split) <;> simp [hW]

@[simp ↓] theorem execAdd_see (t : Fin 48) (s : State) (hW : Ign π .mem ∧ Ign π .poison ∧ Ign π .blocks ∧ Ign π .ctxs ∧ Ign π .ques ∧ Ign π .tiles ∧ Ign π .vxes ∧ Ign π .chains ∧ Ign π .parts ∧ Ign π .tals ∧ Ign π .ldgs ∧ Ign π .fog ∧ Ign π .funcs ∧ Ign π .timers ∧ Ign π .out ∧ Ign π .free := by simp [hW])
    : see π (stateOf (execAdd t s) s) = see π s := by
  rw [execAdd.eq_def, stateOf_next]; simp [hW]

@[simp ↓] theorem execSub_see (t : Fin 48) (s : State) (hW : Ign π .mem ∧ Ign π .poison ∧ Ign π .blocks ∧ Ign π .ctxs ∧ Ign π .ques ∧ Ign π .tiles ∧ Ign π .vxes ∧ Ign π .chains ∧ Ign π .parts ∧ Ign π .tals ∧ Ign π .ldgs ∧ Ign π .fog ∧ Ign π .funcs ∧ Ign π .timers ∧ Ign π .out ∧ Ign π .free := by simp [hW])
    : see π (stateOf (execSub t s) s) = see π s := by
  rw [execSub.eq_def, stateOf_next]; simp [hW]

@[simp ↓] theorem execMul_see (t : Fin 48) (s : State) (hW : Ign π .mem ∧ Ign π .poison ∧ Ign π .blocks ∧ Ign π .ctxs ∧ Ign π .ques ∧ Ign π .tiles ∧ Ign π .vxes ∧ Ign π .chains ∧ Ign π .parts ∧ Ign π .tals ∧ Ign π .ldgs ∧ Ign π .fog ∧ Ign π .funcs ∧ Ign π .timers ∧ Ign π .out ∧ Ign π .free := by simp [hW])
    : see π (stateOf (execMul t s) s) = see π s := by
  rw [execMul.eq_def, stateOf_next]; simp [hW]

@[simp ↓] theorem execFma_see (t : Fin 48) (s : State) (hW : Ign π .mem ∧ Ign π .poison ∧ Ign π .blocks ∧ Ign π .ctxs ∧ Ign π .ques ∧ Ign π .tiles ∧ Ign π .vxes ∧ Ign π .chains ∧ Ign π .parts ∧ Ign π .tals ∧ Ign π .ldgs ∧ Ign π .fog ∧ Ign π .funcs ∧ Ign π .timers ∧ Ign π .out ∧ Ign π .free := by simp [hW])
    : see π (stateOf (execFma t s) s) = see π s := by
  rw [execFma.eq_def, stateOf_next]; simp [hW]

@[simp ↓] theorem execDiv_see (t : Fin 48) (s : State) (hW : Ign π .mem ∧ Ign π .poison ∧ Ign π .blocks ∧ Ign π .ctxs ∧ Ign π .ques ∧ Ign π .tiles ∧ Ign π .vxes ∧ Ign π .chains ∧ Ign π .parts ∧ Ign π .tals ∧ Ign π .ldgs ∧ Ign π .fog ∧ Ign π .funcs ∧ Ign π .timers ∧ Ign π .out ∧ Ign π .free := by simp [hW])
    : see π (stateOf (execDiv t s) s) = see π s := by
  rw [execDiv.eq_def, stateOf_next]; simp [hW]

@[simp ↓] theorem execSqrt_see (t : Fin 48) (s : State) (hW : Ign π .mem ∧ Ign π .poison ∧ Ign π .blocks ∧ Ign π .ctxs ∧ Ign π .ques ∧ Ign π .tiles ∧ Ign π .vxes ∧ Ign π .chains ∧ Ign π .parts ∧ Ign π .tals ∧ Ign π .ldgs ∧ Ign π .fog ∧ Ign π .funcs ∧ Ign π .timers ∧ Ign π .out ∧ Ign π .free := by simp [hW])
    : see π (stateOf (execSqrt t s) s) = see π s := by
  rw [execSqrt.eq_def, stateOf_next]; simp [hW]

@[simp ↓] theorem execMin_see (t : Fin 48) (s : State) (hW : Ign π .mem ∧ Ign π .poison ∧ Ign π .blocks ∧ Ign π .ctxs ∧ Ign π .ques ∧ Ign π .tiles ∧ Ign π .vxes ∧ Ign π .chains ∧ Ign π .parts ∧ Ign π .tals ∧ Ign π .ldgs ∧ Ign π .fog ∧ Ign π .funcs ∧ Ign π .timers ∧ Ign π .out ∧ Ign π .free := by simp [hW])
    : see π (stateOf (execMin t s) s) = see π s := by
  rw [execMin.eq_def, stateOf_next]; simp [hW]

@[simp ↓] theorem execMax_see (t : Fin 48) (s : State) (hW : Ign π .mem ∧ Ign π .poison ∧ Ign π .blocks ∧ Ign π .ctxs ∧ Ign π .ques ∧ Ign π .tiles ∧ Ign π .vxes ∧ Ign π .chains ∧ Ign π .parts ∧ Ign π .tals ∧ Ign π .ldgs ∧ Ign π .fog ∧ Ign π .funcs ∧ Ign π .timers ∧ Ign π .out ∧ Ign π .free := by simp [hW])
    : see π (stateOf (execMax t s) s) = see π s := by
  rw [execMax.eq_def, stateOf_next]; simp [hW]

@[simp ↓] theorem execAbs_see (t : Fin 48) (s : State) (hW : Ign π .mem ∧ Ign π .poison ∧ Ign π .blocks ∧ Ign π .ctxs ∧ Ign π .ques ∧ Ign π .tiles ∧ Ign π .vxes ∧ Ign π .chains ∧ Ign π .parts ∧ Ign π .tals ∧ Ign π .ldgs ∧ Ign π .fog ∧ Ign π .funcs ∧ Ign π .timers ∧ Ign π .out ∧ Ign π .free := by simp [hW])
    : see π (stateOf (execAbs t s) s) = see π s := by
  rw [execAbs.eq_def, stateOf_next]; simp [hW]

@[simp ↓] theorem execNeg_see (t : Fin 48) (s : State) (hW : Ign π .mem ∧ Ign π .poison ∧ Ign π .blocks ∧ Ign π .ctxs ∧ Ign π .ques ∧ Ign π .tiles ∧ Ign π .vxes ∧ Ign π .chains ∧ Ign π .parts ∧ Ign π .tals ∧ Ign π .ldgs ∧ Ign π .fog ∧ Ign π .funcs ∧ Ign π .timers ∧ Ign π .out ∧ Ign π .free := by simp [hW])
    : see π (stateOf (execNeg t s) s) = see π s := by
  rw [execNeg.eq_def, stateOf_next]; simp [hW]

@[simp ↓] theorem execCopy_see (t : Fin 48) (s : State) (hW : Ign π .mem ∧ Ign π .poison ∧ Ign π .blocks ∧ Ign π .ctxs ∧ Ign π .ques ∧ Ign π .tiles ∧ Ign π .vxes ∧ Ign π .chains ∧ Ign π .parts ∧ Ign π .tals ∧ Ign π .ldgs ∧ Ign π .fog ∧ Ign π .funcs ∧ Ign π .timers ∧ Ign π .out ∧ Ign π .free := by simp [hW])
    : see π (stateOf (execCopy t s) s) = see π s := by
  rw [execCopy.eq_def, stateOf_next]; simp [hW]

@[simp ↓] theorem execFill_see (t : Fin 48) (s : State) (hW : Ign π .mem ∧ Ign π .poison ∧ Ign π .blocks ∧ Ign π .ctxs ∧ Ign π .ques ∧ Ign π .tiles ∧ Ign π .vxes ∧ Ign π .chains ∧ Ign π .parts ∧ Ign π .tals ∧ Ign π .ldgs ∧ Ign π .fog ∧ Ign π .funcs ∧ Ign π .timers ∧ Ign π .out ∧ Ign π .free := by simp [hW])
    : see π (stateOf (execFill t s) s) = see π s := by
  rw [execFill.eq_def, stateOf_next]; simp [hW]

@[simp ↓] theorem execSel_see (t : Fin 48) (s : State) (hW : Ign π .mem ∧ Ign π .poison ∧ Ign π .blocks ∧ Ign π .ctxs ∧ Ign π .ques ∧ Ign π .tiles ∧ Ign π .vxes ∧ Ign π .chains ∧ Ign π .parts ∧ Ign π .tals ∧ Ign π .ldgs ∧ Ign π .fog ∧ Ign π .funcs ∧ Ign π .timers ∧ Ign π .out ∧ Ign π .free := by simp [hW])
    : see π (stateOf (execSel t s) s) = see π s := by
  rw [execSel.eq_def, stateOf_next]; simp [hW]

@[simp ↓] theorem execRcp_see (t : Fin 48) (s : State) (hW : Ign π .mem ∧ Ign π .poison ∧ Ign π .blocks ∧ Ign π .ctxs ∧ Ign π .ques ∧ Ign π .tiles ∧ Ign π .vxes ∧ Ign π .chains ∧ Ign π .parts ∧ Ign π .tals ∧ Ign π .ldgs ∧ Ign π .fog ∧ Ign π .funcs ∧ Ign π .timers ∧ Ign π .out ∧ Ign π .free := by simp [hW])
    : see π (stateOf (execRcp t s) s) = see π s := by
  rw [execRcp.eq_def, stateOf_next]; simp [hW]

@[simp ↓] theorem execRsqrt_see (t : Fin 48) (s : State) (hW : Ign π .mem ∧ Ign π .poison ∧ Ign π .blocks ∧ Ign π .ctxs ∧ Ign π .ques ∧ Ign π .tiles ∧ Ign π .vxes ∧ Ign π .chains ∧ Ign π .parts ∧ Ign π .tals ∧ Ign π .ldgs ∧ Ign π .fog ∧ Ign π .funcs ∧ Ign π .timers ∧ Ign π .out ∧ Ign π .free := by simp [hW])
    : see π (stateOf (execRsqrt t s) s) = see π s := by
  rw [execRsqrt.eq_def, stateOf_next]; simp [hW]

@[simp ↓] theorem execExp2_see (t : Fin 48) (s : State) (hW : Ign π .mem ∧ Ign π .poison ∧ Ign π .blocks ∧ Ign π .ctxs ∧ Ign π .ques ∧ Ign π .tiles ∧ Ign π .vxes ∧ Ign π .chains ∧ Ign π .parts ∧ Ign π .tals ∧ Ign π .ldgs ∧ Ign π .fog ∧ Ign π .funcs ∧ Ign π .timers ∧ Ign π .out ∧ Ign π .free := by simp [hW])
    : see π (stateOf (execExp2 t s) s) = see π s := by
  rw [execExp2.eq_def, stateOf_next]; simp [hW]

@[simp ↓] theorem execExp_see (t : Fin 48) (s : State) (hW : Ign π .mem ∧ Ign π .poison ∧ Ign π .blocks ∧ Ign π .ctxs ∧ Ign π .ques ∧ Ign π .tiles ∧ Ign π .vxes ∧ Ign π .chains ∧ Ign π .parts ∧ Ign π .tals ∧ Ign π .ldgs ∧ Ign π .fog ∧ Ign π .funcs ∧ Ign π .timers ∧ Ign π .out ∧ Ign π .free := by simp [hW])
    : see π (stateOf (execExp t s) s) = see π s := by
  rw [execExp.eq_def, stateOf_next]; simp [hW]

@[simp ↓] theorem execLog2_see (t : Fin 48) (s : State) (hW : Ign π .mem ∧ Ign π .poison ∧ Ign π .blocks ∧ Ign π .ctxs ∧ Ign π .ques ∧ Ign π .tiles ∧ Ign π .vxes ∧ Ign π .chains ∧ Ign π .parts ∧ Ign π .tals ∧ Ign π .ldgs ∧ Ign π .fog ∧ Ign π .funcs ∧ Ign π .timers ∧ Ign π .out ∧ Ign π .free := by simp [hW])
    : see π (stateOf (execLog2 t s) s) = see π s := by
  rw [execLog2.eq_def, stateOf_next]; simp [hW]

@[simp ↓] theorem execLn_see (t : Fin 48) (s : State) (hW : Ign π .mem ∧ Ign π .poison ∧ Ign π .blocks ∧ Ign π .ctxs ∧ Ign π .ques ∧ Ign π .tiles ∧ Ign π .vxes ∧ Ign π .chains ∧ Ign π .parts ∧ Ign π .tals ∧ Ign π .ldgs ∧ Ign π .fog ∧ Ign π .funcs ∧ Ign π .timers ∧ Ign π .out ∧ Ign π .free := by simp [hW])
    : see π (stateOf (execLn t s) s) = see π s := by
  rw [execLn.eq_def, stateOf_next]; simp [hW]

@[simp ↓] theorem execTanh_see (t : Fin 48) (s : State) (hW : Ign π .mem ∧ Ign π .poison ∧ Ign π .blocks ∧ Ign π .ctxs ∧ Ign π .ques ∧ Ign π .tiles ∧ Ign π .vxes ∧ Ign π .chains ∧ Ign π .parts ∧ Ign π .tals ∧ Ign π .ldgs ∧ Ign π .fog ∧ Ign π .funcs ∧ Ign π .timers ∧ Ign π .out ∧ Ign π .free := by simp [hW])
    : see π (stateOf (execTanh t s) s) = see π s := by
  rw [execTanh.eq_def, stateOf_next]; simp [hW]

@[simp ↓] theorem execSigmoid_see (t : Fin 48) (s : State) (hW : Ign π .mem ∧ Ign π .poison ∧ Ign π .blocks ∧ Ign π .ctxs ∧ Ign π .ques ∧ Ign π .tiles ∧ Ign π .vxes ∧ Ign π .chains ∧ Ign π .parts ∧ Ign π .tals ∧ Ign π .ldgs ∧ Ign π .fog ∧ Ign π .funcs ∧ Ign π .timers ∧ Ign π .out ∧ Ign π .free := by simp [hW])
    : see π (stateOf (execSigmoid t s) s) = see π s := by
  rw [execSigmoid.eq_def, stateOf_next]; simp [hW]

@[simp ↓] theorem execSilu_see (t : Fin 48) (s : State) (hW : Ign π .mem ∧ Ign π .poison ∧ Ign π .blocks ∧ Ign π .ctxs ∧ Ign π .ques ∧ Ign π .tiles ∧ Ign π .vxes ∧ Ign π .chains ∧ Ign π .parts ∧ Ign π .tals ∧ Ign π .ldgs ∧ Ign π .fog ∧ Ign π .funcs ∧ Ign π .timers ∧ Ign π .out ∧ Ign π .free := by simp [hW])
    : see π (stateOf (execSilu t s) s) = see π s := by
  rw [execSilu.eq_def, stateOf_next]; simp [hW]

@[simp ↓] theorem execSin_see (t : Fin 48) (s : State) (hW : Ign π .mem ∧ Ign π .poison ∧ Ign π .blocks ∧ Ign π .ctxs ∧ Ign π .ques ∧ Ign π .tiles ∧ Ign π .vxes ∧ Ign π .chains ∧ Ign π .parts ∧ Ign π .tals ∧ Ign π .ldgs ∧ Ign π .fog ∧ Ign π .funcs ∧ Ign π .timers ∧ Ign π .out ∧ Ign π .free := by simp [hW])
    : see π (stateOf (execSin t s) s) = see π s := by
  rw [execSin.eq_def, stateOf_next]; simp [hW]

@[simp ↓] theorem execCos_see (t : Fin 48) (s : State) (hW : Ign π .mem ∧ Ign π .poison ∧ Ign π .blocks ∧ Ign π .ctxs ∧ Ign π .ques ∧ Ign π .tiles ∧ Ign π .vxes ∧ Ign π .chains ∧ Ign π .parts ∧ Ign π .tals ∧ Ign π .ldgs ∧ Ign π .fog ∧ Ign π .funcs ∧ Ign π .timers ∧ Ign π .out ∧ Ign π .free := by simp [hW])
    : see π (stateOf (execCos t s) s) = see π s := by
  rw [execCos.eq_def, stateOf_next]; simp [hW]

@[simp ↓] theorem execCmplt_see (t : Fin 48) (s : State) (hW : Ign π .mem ∧ Ign π .poison ∧ Ign π .blocks ∧ Ign π .ctxs ∧ Ign π .ques ∧ Ign π .tiles ∧ Ign π .vxes ∧ Ign π .chains ∧ Ign π .parts ∧ Ign π .tals ∧ Ign π .ldgs ∧ Ign π .fog ∧ Ign π .funcs ∧ Ign π .timers ∧ Ign π .out ∧ Ign π .free := by simp [hW])
    : see π (stateOf (execCmplt t s) s) = see π s := by
  rw [execCmplt.eq_def, stateOf_next]; simp [hW]

@[simp ↓] theorem execCmple_see (t : Fin 48) (s : State) (hW : Ign π .mem ∧ Ign π .poison ∧ Ign π .blocks ∧ Ign π .ctxs ∧ Ign π .ques ∧ Ign π .tiles ∧ Ign π .vxes ∧ Ign π .chains ∧ Ign π .parts ∧ Ign π .tals ∧ Ign π .ldgs ∧ Ign π .fog ∧ Ign π .funcs ∧ Ign π .timers ∧ Ign π .out ∧ Ign π .free := by simp [hW])
    : see π (stateOf (execCmple t s) s) = see π s := by
  rw [execCmple.eq_def, stateOf_next]; simp [hW]

@[simp ↓] theorem execCmpeq_see (t : Fin 48) (s : State) (hW : Ign π .mem ∧ Ign π .poison ∧ Ign π .blocks ∧ Ign π .ctxs ∧ Ign π .ques ∧ Ign π .tiles ∧ Ign π .vxes ∧ Ign π .chains ∧ Ign π .parts ∧ Ign π .tals ∧ Ign π .ldgs ∧ Ign π .fog ∧ Ign π .funcs ∧ Ign π .timers ∧ Ign π .out ∧ Ign π .free := by simp [hW])
    : see π (stateOf (execCmpeq t s) s) = see π s := by
  rw [execCmpeq.eq_def, stateOf_next]; simp [hW]

@[simp ↓] theorem execCmpne_see (t : Fin 48) (s : State) (hW : Ign π .mem ∧ Ign π .poison ∧ Ign π .blocks ∧ Ign π .ctxs ∧ Ign π .ques ∧ Ign π .tiles ∧ Ign π .vxes ∧ Ign π .chains ∧ Ign π .parts ∧ Ign π .tals ∧ Ign π .ldgs ∧ Ign π .fog ∧ Ign π .funcs ∧ Ign π .timers ∧ Ign π .out ∧ Ign π .free := by simp [hW])
    : see π (stateOf (execCmpne t s) s) = see π s := by
  rw [execCmpne.eq_def, stateOf_next]; simp [hW]

@[simp ↓] theorem execRsum_see (t : Fin 48) (s : State) (hW : Ign π .mem ∧ Ign π .poison ∧ Ign π .blocks ∧ Ign π .ctxs ∧ Ign π .ques ∧ Ign π .tiles ∧ Ign π .vxes ∧ Ign π .chains ∧ Ign π .parts ∧ Ign π .tals ∧ Ign π .ldgs ∧ Ign π .fog ∧ Ign π .funcs ∧ Ign π .timers ∧ Ign π .out ∧ Ign π .free := by simp [hW])
    : see π (stateOf (execRsum t s) s) = see π s := by
  rw [execRsum.eq_def, stateOf_next]; simp [hW]

@[simp ↓] theorem execRmax_see (t : Fin 48) (s : State) (hW : Ign π .mem ∧ Ign π .poison ∧ Ign π .blocks ∧ Ign π .ctxs ∧ Ign π .ques ∧ Ign π .tiles ∧ Ign π .vxes ∧ Ign π .chains ∧ Ign π .parts ∧ Ign π .tals ∧ Ign π .ldgs ∧ Ign π .fog ∧ Ign π .funcs ∧ Ign π .timers ∧ Ign π .out ∧ Ign π .free := by simp [hW])
    : see π (stateOf (execRmax t s) s) = see π s := by
  rw [execRmax.eq_def, stateOf_next]; simp [hW]

@[simp ↓] theorem execRamax_see (t : Fin 48) (s : State) (hW : Ign π .mem ∧ Ign π .poison ∧ Ign π .blocks ∧ Ign π .ctxs ∧ Ign π .ques ∧ Ign π .tiles ∧ Ign π .vxes ∧ Ign π .chains ∧ Ign π .parts ∧ Ign π .tals ∧ Ign π .ldgs ∧ Ign π .fog ∧ Ign π .funcs ∧ Ign π .timers ∧ Ign π .out ∧ Ign π .free := by simp [hW])
    : see π (stateOf (execRamax t s) s) = see π s := by
  rw [execRamax.eq_def, stateOf_next]; simp [hW]

@[simp ↓] theorem execMxeLoadw_see (t : Fin 48) (s : State) (hW : Ign π .mem ∧ Ign π .poison ∧ Ign π .blocks ∧ Ign π .ctxs ∧ Ign π .ques ∧ Ign π .tiles ∧ Ign π .mxes ∧ Ign π .chains ∧ Ign π .parts ∧ Ign π .tals ∧ Ign π .ldgs ∧ Ign π .fog ∧ Ign π .funcs ∧ Ign π .timers ∧ Ign π .out := by simp [hW])
    : see π (stateOf (execMxeLoadw t s) s) = see π s := by
  rw [execMxeLoadw.eq_def, stateOf_next]; dsimp only; (repeat' split) <;> simp [hW]

@[simp ↓] theorem State.expanded_see (s : State) (t : ℕ) (r : CmdRef) (c : Cmd) (rows : List (Option (List (BitVec 20)) × ℕ)) (hW : Ign π .blocks ∧ Ign π .mxes ∧ Ign π .tals := by simp [hW])
    : see π (State.expanded s t r c rows) = see π s := by
  rw [State.expanded.eq_def]; dsimp only; split <;> simp [hW]

@[simp ↓] theorem execLoadwComplete_see (t : Fin 48) (s : State) (hW : Ign π .mem ∧ Ign π .poison ∧ Ign π .blocks ∧ Ign π .ctxs ∧ Ign π .ques ∧ Ign π .tiles ∧ Ign π .mxes ∧ Ign π .chains ∧ Ign π .parts ∧ Ign π .tals ∧ Ign π .ldgs ∧ Ign π .fog ∧ Ign π .funcs ∧ Ign π .timers ∧ Ign π .out := by simp [hW])
    : see π (stateOf (execLoadwComplete t s) s) = see π s := by
  rw [execLoadwComplete.eq_def, stateOf_next]; dsimp only; (repeat' split) <;> simp [hW]

@[simp ↓] theorem execVxeBookload_see (t : Fin 48) (s : State) (hW : Ign π .mxes := by simp [hW])
    : see π (stateOf (execVxeBookload t s) s) = see π s := by
  rw [execVxeBookload.eq_def, stateOf_next]; dsimp only; (repeat' split) <;> simp [hW]

@[simp ↓] theorem execBookInstall_see (t : Fin 48) (slot : Fin 8) (s : State) (hW : Ign π .mem ∧ Ign π .poison ∧ Ign π .blocks ∧ Ign π .ctxs ∧ Ign π .ques ∧ Ign π .tiles ∧ Ign π .mxes ∧ Ign π .chains ∧ Ign π .parts ∧ Ign π .tals ∧ Ign π .ldgs ∧ Ign π .fog ∧ Ign π .funcs ∧ Ign π .timers ∧ Ign π .out := by simp [hW])
    : see π (stateOf (execBookInstall t slot s) s) = see π s := by
  rw [execBookInstall.eq_def, stateOf_next]; dsimp only; (repeat' split) <;> simp [hW]

@[simp ↓] theorem execVxeSurveySample_see (t : Fin 48) (s : State) (hW : Ign π .mem ∧ Ign π .poison ∧ Ign π .blocks ∧ Ign π .ctxs ∧ Ign π .ques ∧ Ign π .tiles ∧ Ign π .vxes ∧ Ign π .chains ∧ Ign π .parts ∧ Ign π .tals ∧ Ign π .ldgs ∧ Ign π .fog ∧ Ign π .funcs ∧ Ign π .timers ∧ Ign π .out ∧ Ign π .free := by simp [hW])
    : see π (stateOf (execVxeSurveySample t s) s) = see π s := by
  rw [execVxeSurveySample.eq_def, stateOf_next]; dsimp only; (repeat' split) <;> simp [hW]

@[simp ↓] theorem execVxeSurveyBuild_see (t : Fin 48) (s : State) (hW : Ign π .mem ∧ Ign π .poison ∧ Ign π .blocks ∧ Ign π .ctxs ∧ Ign π .ques ∧ Ign π .tiles ∧ Ign π .vxes ∧ Ign π .chains ∧ Ign π .parts ∧ Ign π .tals ∧ Ign π .ldgs ∧ Ign π .fog ∧ Ign π .funcs ∧ Ign π .timers ∧ Ign π .out ∧ Ign π .free := by simp [hW])
    : see π (stateOf (execVxeSurveyBuild t s) s) = see π s := by
  rw [execVxeSurveyBuild.eq_def, stateOf_next]; dsimp only; (repeat' split) <;> simp [hW]

@[simp ↓] theorem execVxeEncode_see (t : Fin 48) (s : State) (hW : Ign π .mem ∧ Ign π .poison ∧ Ign π .blocks ∧ Ign π .ctxs ∧ Ign π .ques ∧ Ign π .tiles ∧ Ign π .vxes ∧ Ign π .chains ∧ Ign π .parts ∧ Ign π .tals ∧ Ign π .ldgs ∧ Ign π .fog ∧ Ign π .funcs ∧ Ign π .timers ∧ Ign π .out ∧ Ign π .free := by simp [hW])
    : see π (stateOf (execVxeEncode t s) s) = see π s := by
  rw [execVxeEncode.eq_def, stateOf_next]; dsimp only; (repeat' split) <;> simp [hW]

@[simp ↓] theorem execStreamIssue_see (t : Fin 48) (sid : Fin 16) (s : State) (hW : Ign π .mem ∧ Ign π .poison ∧ Ign π .blocks ∧ Ign π .ctxs ∧ Ign π .tiles ∧ Ign π .stes ∧ Ign π .tlbs ∧ Ign π .parts ∧ Ign π .tals ∧ Ign π .ldgs ∧ Ign π .fog ∧ Ign π .funcs ∧ Ign π .timers ∧ Ign π .out ∧ Ign π .free := by simp [hW])
    : see π (stateOf (execStreamIssue t sid s) s) = see π s := by
  rw [execStreamIssue.eq_def, stateOf_next]; simp [hW]

@[simp ↓] theorem State.bindStream_see (s : State) (t : ℕ) (sid : ℕ) (r : CmdRef) (c : Cmd) (hW : Ign π .tiles ∧ Ign π .stes ∧ Ign π .timers := by simp [hW])
    : see π (State.bindStream s t sid r c) = see π s := by
  simp [hW, State.bindStream]

@[simp ↓] theorem execSteOpen_see (t : Fin 48) (sid : Fin 16) (s : State) (hW : Ign π .mem ∧ Ign π .poison ∧ Ign π .blocks ∧ Ign π .ctxs ∧ Ign π .ques ∧ Ign π .tiles ∧ Ign π .stes ∧ Ign π .chains ∧ Ign π .tlbs ∧ Ign π .parts ∧ Ign π .tals ∧ Ign π .ldgs ∧ Ign π .fog ∧ Ign π .funcs ∧ Ign π .timers ∧ Ign π .out ∧ Ign π .free := by simp [hW])
    : see π (stateOf (execSteOpen t sid s) s) = see π s := by
  rw [execSteOpen.eq_def, stateOf_next]; dsimp only; (repeat' split) <;> simp [hW]

@[simp ↓] theorem execSteRelease_see (t : Fin 48) (sid : Fin 16) (s : State) (hW : Ign π .blocks ∧ Ign π .ques ∧ Ign π .stes ∧ Ign π .chains ∧ Ign π .tals ∧ Ign π .ldgs ∧ Ign π .fog ∧ Ign π .timers ∧ Ign π .out := by simp [hW])
    : see π (stateOf (execSteRelease t sid s) s) = see π s := by
  rw [execSteRelease.eq_def, stateOf_next]; dsimp only; (repeat' split) <;> simp [hW]

@[simp ↓] theorem execStePush_see (t : Fin 48) (sid : Fin 16) (s : State) (hW : Ign π .blocks ∧ Ign π .ques ∧ Ign π .stes ∧ Ign π .chains ∧ Ign π .tals ∧ Ign π .ldgs ∧ Ign π .fog ∧ Ign π .timers ∧ Ign π .out := by simp [hW])
    : see π (stateOf (execStePush t sid s) s) = see π s := by
  rw [execStePush.eq_def, stateOf_next]; dsimp only; (repeat' split) <;> simp [hW]

@[simp ↓] theorem execSteClose_see (t : Fin 48) (sid : Fin 16) (s : State) (hW : Ign π .blocks ∧ Ign π .ques ∧ Ign π .stes ∧ Ign π .chains ∧ Ign π .tals ∧ Ign π .ldgs ∧ Ign π .fog ∧ Ign π .timers ∧ Ign π .out := by simp [hW])
    : see π (stateOf (execSteClose t sid s) s) = see π s := by
  rw [execSteClose.eq_def, stateOf_next]; dsimp only; (repeat' split) <;> simp [hW]

@[simp ↓] theorem execStreamDeliver_see (t : Fin 48) (sid : Fin 16) (seq : ℕ) (reply : FarReply) (s : State) (hW : Ign π .mem ∧ Ign π .poison ∧ Ign π .blocks ∧ Ign π .ctxs ∧ Ign π .tiles ∧ Ign π .stes ∧ Ign π .parts ∧ Ign π .tals ∧ Ign π .ldgs ∧ Ign π .fog ∧ Ign π .funcs ∧ Ign π .timers ∧ Ign π .out ∧ Ign π .free := by simp [hW])
    : see π (stateOf (execStreamDeliver t sid seq reply s) s) = see π s := by
  rw [execStreamDeliver.eq_def, stateOf_next]; simp [hW]

@[simp ↓] theorem execStreamRetry_see (t : Fin 48) (sid : Fin 16) (s : State) (hW : Ign π .mem ∧ Ign π .poison ∧ Ign π .blocks ∧ Ign π .ctxs ∧ Ign π .tiles ∧ Ign π .stes ∧ Ign π .tlbs ∧ Ign π .parts ∧ Ign π .tals ∧ Ign π .ldgs ∧ Ign π .fog ∧ Ign π .funcs ∧ Ign π .timers ∧ Ign π .out ∧ Ign π .free := by simp [hW])
    : see π (stateOf (execStreamRetry t sid s) s) = see π s := by
  rw [execStreamRetry.eq_def, stateOf_next]; simp [hW]

@[simp ↓] theorem execStreamStallTimeout_see (t : Fin 48) (sid : Fin 16) (s : State) (hW : Ign π .mem ∧ Ign π .poison ∧ Ign π .blocks ∧ Ign π .ctxs ∧ Ign π .tiles ∧ Ign π .stes ∧ Ign π .parts ∧ Ign π .tals ∧ Ign π .ldgs ∧ Ign π .fog ∧ Ign π .funcs ∧ Ign π .timers ∧ Ign π .out := by simp [hW])
    : see π (stateOf (execStreamStallTimeout t sid s) s) = see π s := by
  rw [execStreamStallTimeout.eq_def, stateOf_next]; simp [hW]

@[simp ↓] theorem execArbiterAccept_see (k : Fin 12) (src : ArbSource) (addr : ℕ) (len : ℕ) (write : Bool) (data : List Byte) (s : State) (hW : Ign π .stks := by simp [hW])
    : see π (stateOf (execArbiterAccept k src addr len write data s) s) = see π s := by
  rw [execArbiterAccept.eq_def, stateOf_next]; dsimp only; (repeat' split) <;> simp [hW]

@[simp ↓] theorem execArbiterAgeing_see (k : Fin 12) (i : ℕ) (s : State) (hW : Ign π .stks := by simp [hW])
    : see π (stateOf (execArbiterAgeing k i s) s) = see π s := by
  rw [execArbiterAgeing.eq_def, stateOf_next]; dsimp only; (repeat' split) <;> simp [hW]

@[simp ↓] theorem execArbiterGrant_see (k : Fin 12) (s : State) (hW : Ign π .blocks ∧ Ign π .stks ∧ Ign π .tals := by simp [hW])
    : see π (stateOf (execArbiterGrant k s) s) = see π s := by
  rw [execArbiterGrant.eq_def, stateOf_next]; dsimp only; (repeat' split) <;> simp [hW]

@[simp ↓] theorem execStackAccess_see (k : Fin 12) (ecc : List EccFind) (ns : ℕ) (s : State) (hW : Ign π .mem ∧ Ign π .poison ∧ Ign π .blocks ∧ Ign π .tiles ∧ Ign π .stes ∧ Ign π .stks ∧ Ign π .tals := by simp [hW])
    : see π (stateOf (execStackAccess k ecc ns s) s) = see π s := by
  rw [execStackAccess.eq_def, stateOf_next]; dsimp only; (repeat' split) <;> simp [hW]

@[simp ↓] theorem execScrub_see (k : Fin 12) (line : ℕ) (ecc : EccFind) (s : State) (hW : Ign π .poison ∧ Ign π .blocks ∧ Ign π .stks ∧ Ign π .tals := by simp [hW])
    : see π (stateOf (execScrub k line ecc s) s) = see π s := by
  rw [execScrub.eq_def, stateOf_next]; simp [hW]

@[simp ↓] theorem execRefresh_see (k : Fin 12) (bank : Fin 2048) (s : State) (hW : Ign π .stks := by simp [hW])
    : see π (stateOf (execRefresh k bank s) s) = see π s := by
  rw [execRefresh.eq_def, stateOf_next]; simp [hW]

@[simp ↓] theorem execStackRecal_see (k : Fin 12) (temp : BitVec 8) (s : State) (hW : Ign π .blocks ∧ Ign π .stks ∧ Ign π .tals ∧ Ign π .timers := by simp [hW])
    : see π (stateOf (execStackRecal k temp s) s) = see π s := by
  rw [execStackRecal.eq_def, stateOf_next]; dsimp only; (repeat' split) <;> simp [hW]

@[simp ↓] theorem execInvalidateDone_see (p : Fin 8) (s : State) (hW : Ign π .parts := by simp [hW])
    : see π (stateOf (execInvalidateDone p s) s) = see π s := by
  rw [execInvalidateDone.eq_def, stateOf_next]; dsimp only; (repeat' split) <;> simp [hW]

@[simp ↓] theorem execMoveUnit_see (k : Fin 12) (data : Option (List Byte)) (ecc : List EccFind) (s : State) (hW : Ign π .mem ∧ Ign π .poison ∧ Ign π .blocks ∧ Ign π .tiles ∧ Ign π .stks ∧ Ign π .tals ∧ Ign π .funcs ∧ Ign π .out ∧ Ign π .free := by simp [hW])
    : see π (stateOf (execMoveUnit k data ecc s) s) = see π s := by
  rw [execMoveUnit.eq_def, stateOf_next]; simp [hW]

@[simp ↓] theorem execNmeAttend_see (k : Fin 12) (s : State) (hW : Ign π .nmes ∧ Ign π .timers := by simp [hW])
    : see π (stateOf (execNmeAttend k s) s) = see π s := by
  rw [execNmeAttend.eq_def, stateOf_next]; simp [hW]

@[simp ↓] theorem execNmeAttendBwd_see (k : Fin 12) (s : State) (hW : Ign π .nmes ∧ Ign π .timers := by simp [hW])
    : see π (stateOf (execNmeAttendBwd k s) s) = see π s := by
  rw [execNmeAttendBwd.eq_def, stateOf_next]; simp [hW]

@[simp ↓] theorem execNmeEntryTakeUp_see (k : Fin 12) (s : State) (hW : Ign π .mem ∧ Ign π .poison ∧ Ign π .blocks ∧ Ign π .ctxs ∧ Ign π .ques ∧ Ign π .tiles ∧ Ign π .chains ∧ Ign π .tlbs ∧ Ign π .nmes ∧ Ign π .kvfs ∧ Ign π .parts ∧ Ign π .sess ∧ Ign π .tals ∧ Ign π .ldgs ∧ Ign π .fog ∧ Ign π .funcs ∧ Ign π .timers ∧ Ign π .out ∧ Ign π .free := by simp [hW])
    : see π (stateOf (execNmeEntryTakeUp k s) s) = see π s := by
  rw [execNmeEntryTakeUp.eq_def, stateOf_next]; dsimp only; (repeat' split) <;> (repeat (first | with_reducible rfl | exact State.failEntry_see _ _ _ _ _ _ _ _ (by simp [hW]) (State.takeEntry_see_of (by with_reducible assumption)) | refine (State.takeEntry_see_of (by with_reducible assumption)).trans ?_ | split | simp [hW]))

@[simp ↓] theorem execNmeFrameWalk_see (k : Fin 12) (ecc : List EccFind) (s : State) (hW : Ign π .mem ∧ Ign π .poison ∧ Ign π .blocks ∧ Ign π .ctxs ∧ Ign π .ques ∧ Ign π .tiles ∧ Ign π .chains ∧ Ign π .stks ∧ Ign π .nmes ∧ Ign π .kvfs ∧ Ign π .parts ∧ Ign π .tals ∧ Ign π .ldgs ∧ Ign π .fog ∧ Ign π .funcs ∧ Ign π .timers ∧ Ign π .out ∧ Ign π .free := by simp [hW])
    : see π (stateOf (execNmeFrameWalk k ecc s) s) = see π s := by
  rw [execNmeFrameWalk.eq_def, stateOf_next]; dsimp only; (repeat' split) <;> simp [hW]

@[simp ↓] theorem execNmeHandlePush_see (k : Fin 12) (s : State) (hW : Ign π .mem ∧ Ign π .poison ∧ Ign π .blocks ∧ Ign π .ctxs ∧ Ign π .ques ∧ Ign π .tiles ∧ Ign π .chains ∧ Ign π .nmes ∧ Ign π .kvfs ∧ Ign π .parts ∧ Ign π .rings ∧ Ign π .tals ∧ Ign π .ldgs ∧ Ign π .fog ∧ Ign π .funcs ∧ Ign π .timers ∧ Ign π .out ∧ Ign π .free := by simp [hW])
    : see π (stateOf (execNmeHandlePush k s) s) = see π s := by
  rw [execNmeHandlePush.eq_def, stateOf_next]
  have hf : ∀ (b : Bool) (l : List HostWr) {w1 t1}, (if b = true then s.flushReads l else (none, s)) = (w1, t1) → see π t1 = see π s := by
    intro b l w1 t1 hh
    split at hh
    · exact State.flushReads_see_of hh
    · cases hh; rfl
  dsimp only
  (repeat' split) <;> (repeat first | with_reducible rfl | refine (hf _ _ (by with_reducible assumption)).trans ?_ | simp [hW])

@[simp ↓] theorem execCloseHoldsEnd_see (p : Fin 8) (s : State) (hW : Ign π .kvfs ∧ Ign π .sess := by simp [hW])
    : see π (stateOf (execCloseHoldsEnd p s) s) = see π s := by
  rw [execCloseHoldsEnd.eq_def, stateOf_next]; (repeat' split) <;> simp [hW]

@[simp ↓] theorem execFetchCopyDone_see (k : Fin 12) (data : Option (List Byte)) (s : State) (hW : Ign π .mem ∧ Ign π .poison ∧ Ign π .blocks ∧ Ign π .tiles ∧ Ign π .kvfs ∧ Ign π .parts ∧ Ign π .sess ∧ Ign π .tals ∧ Ign π .ldgs ∧ Ign π .fog ∧ Ign π .timers ∧ Ign π .out ∧ Ign π .free := by simp [hW])
    : see π (stateOf (execFetchCopyDone k data s) s) = see π s := by
  rw [execFetchCopyDone.eq_def, stateOf_next]; dsimp only; (repeat' split) <;> simp [hW]

@[simp ↓] theorem execSpillCopyDone_see (k : Fin 12) (ok : Bool) (s : State) (hW : Ign π .mem ∧ Ign π .poison ∧ Ign π .blocks ∧ Ign π .ctxs ∧ Ign π .ques ∧ Ign π .tiles ∧ Ign π .chains ∧ Ign π .tlbs ∧ Ign π .nmes ∧ Ign π .kvfs ∧ Ign π .parts ∧ Ign π .sess ∧ Ign π .tals ∧ Ign π .ldgs ∧ Ign π .fog ∧ Ign π .funcs ∧ Ign π .timers ∧ Ign π .out ∧ Ign π .free := by simp [hW])
    : see π (stateOf (execSpillCopyDone k ok s) s) = see π s := by
  rw [execSpillCopyDone.eq_def, stateOf_next]; dsimp only; (repeat' split) <;> simp [hW]

@[simp ↓] theorem execMxeChain_see (t : Fin 48) (s : State) (hW : Ign π .chains := by simp [hW])
    : see π (stateOf (execMxeChain t s) s) = see π s := by
  rw [execMxeChain.eq_def, stateOf_next]; (repeat' split) <;> simp [hW]

@[simp ↓] theorem execChainStageBegin_see (t : Fin 48) (q : Fin 2048) (stage : Fin 121) (s : State) (hW : Ign π .mem ∧ Ign π .poison ∧ Ign π .blocks ∧ Ign π .ctxs ∧ Ign π .ques ∧ Ign π .tiles ∧ Ign π .mxes ∧ Ign π .vxes ∧ Ign π .stes ∧ Ign π .chains ∧ Ign π .tlbs ∧ Ign π .nmes ∧ Ign π .parts ∧ Ign π .rings ∧ Ign π .bars ∧ Ign π .tals ∧ Ign π .ldgs ∧ Ign π .fog ∧ Ign π .funcs ∧ Ign π .timers ∧ Ign π .out ∧ Ign π .free := by simp [hW])
    : see π (stateOf (execChainStageBegin t q stage s) s) = see π s := by
  rw [execChainStageBegin.eq_def, stateOf_next]; dsimp only; (repeat' split) <;> simp [hW]

@[simp ↓] theorem execRingPush_see (p : Fin 8) (ring : Fin 64) (s : State) (hW : Ign π .mem ∧ Ign π .poison ∧ Ign π .blocks ∧ Ign π .ctxs ∧ Ign π .ques ∧ Ign π .tiles ∧ Ign π .chains ∧ Ign π .nmes ∧ Ign π .kvfs ∧ Ign π .parts ∧ Ign π .rings ∧ Ign π .tals ∧ Ign π .ldgs ∧ Ign π .fog ∧ Ign π .funcs ∧ Ign π .timers ∧ Ign π .out := by simp [hW])
    : see π (stateOf (execRingPush p ring s) s) = see π s := by
  rw [execRingPush.eq_def, stateOf_next]; dsimp only; (repeat' split) <;> simp [hW]

@[simp ↓] theorem execRingPop_see (p : Fin 8) (ring : Fin 64) (s : State) (hW : Ign π .mem ∧ Ign π .poison ∧ Ign π .blocks ∧ Ign π .ctxs ∧ Ign π .ques ∧ Ign π .tiles ∧ Ign π .chains ∧ Ign π .nmes ∧ Ign π .kvfs ∧ Ign π .parts ∧ Ign π .rings ∧ Ign π .tals ∧ Ign π .ldgs ∧ Ign π .fog ∧ Ign π .funcs ∧ Ign π .timers ∧ Ign π .out := by simp [hW])
    : see π (stateOf (execRingPop p ring s) s) = see π s := by
  rw [execRingPop.eq_def, stateOf_next]; dsimp only; (repeat' split) <;> simp [hW]

@[simp ↓] theorem execBarrierArrival_see (p : Fin 8) (b : Fin 16) (s : State) (hW : Ign π .mem ∧ Ign π .poison ∧ Ign π .blocks ∧ Ign π .ctxs ∧ Ign π .ques ∧ Ign π .tiles ∧ Ign π .chains ∧ Ign π .parts ∧ Ign π .bars ∧ Ign π .tals ∧ Ign π .ldgs ∧ Ign π .fog ∧ Ign π .funcs ∧ Ign π .timers ∧ Ign π .out := by simp [hW])
    : see π (stateOf (execBarrierArrival p b s) s) = see π s := by
  rw [execBarrierArrival.eq_def, stateOf_next]; dsimp only; (repeat' split) <;> simp [hW]

@[simp ↓] theorem execBarrierNotice_see (p : Fin 8) (b : Fin 16) (t : Fin 48) (s : State) (hW : Ign π .blocks ∧ Ign π .ques ∧ Ign π .chains ∧ Ign π .bars ∧ Ign π .tals ∧ Ign π .ldgs ∧ Ign π .fog ∧ Ign π .timers ∧ Ign π .out := by simp [hW])
    : see π (stateOf (execBarrierNotice p b t s) s) = see π s := by
  rw [execBarrierNotice.eq_def, stateOf_next]; dsimp only; (repeat' split) <;> simp [hW]

@[simp ↓] theorem execReceiverLosesLock_see (l : Fin 24) (s : State) (hW : Ign π .blocks ∧ Ign π .links ∧ Ign π .lgs ∧ Ign π .tals ∧ Ign π .out := by simp [hW])
    : see π (stateOf (execReceiverLosesLock l s) s) = see π s := by
  rw [execReceiverLosesLock.eq_def, stateOf_next]; simp [hW]

@[simp ↓] theorem execLinkFrameReceive_see (l : Fin 24) (f : Frame) (chk : FrameCheck) (s : State) (hW : Ign π .blocks ∧ Ign π .links ∧ Ign π .tals ∧ Ign π .out := by simp [hW])
    : see π (stateOf (execLinkFrameReceive l f chk s) s) = see π s := by
  rw [execLinkFrameReceive.eq_def, stateOf_next]; dsimp only; (repeat' split) <;> simp [hW]

@[simp ↓] theorem execLinkAck_see (l : Fin 24) (lseq : BitVec 9) (s : State) (hW : Ign π .blocks ∧ Ign π .links ∧ Ign π .lgs ∧ Ign π .tals ∧ Ign π .out := by simp [hW])
    : see π (stateOf (execLinkAck l lseq s) s) = see π s := by
  rw [execLinkAck.eq_def, stateOf_next]; simp [hW]

@[simp ↓] theorem execLinkNak_see (l : Fin 24) (lseq : BitVec 9) (s : State) (hW : Ign π .blocks ∧ Ign π .links ∧ Ign π .lgs ∧ Ign π .tals ∧ Ign π .out := by simp [hW])
    : see π (stateOf (execLinkNak l lseq s) s) = see π s := by
  rw [execLinkNak.eq_def, stateOf_next]; simp [hW]

@[simp ↓] theorem execCleSend_see (g : Fin 6) (s : State) (hW : Ign π .mem ∧ Ign π .poison ∧ Ign π .blocks ∧ Ign π .ctxs ∧ Ign π .ques ∧ Ign π .tiles ∧ Ign π .chains ∧ Ign π .parts ∧ Ign π .links ∧ Ign π .lgs ∧ Ign π .cles ∧ Ign π .tals ∧ Ign π .ldgs ∧ Ign π .fog ∧ Ign π .funcs ∧ Ign π .timers ∧ Ign π .out ∧ Ign π .free := by simp [hW])
    : see π (stateOf (execCleSend g s) s) = see π s := by
  rw [execCleSend.eq_def, stateOf_next]; dsimp only; (repeat' split) <;> simp [hW]

@[simp ↓] theorem execCleAllreduce_see (g : Fin 6) (s : State) (hW : Ign π .mem ∧ Ign π .poison ∧ Ign π .blocks ∧ Ign π .ctxs ∧ Ign π .ques ∧ Ign π .tiles ∧ Ign π .chains ∧ Ign π .parts ∧ Ign π .links ∧ Ign π .lgs ∧ Ign π .cles ∧ Ign π .tals ∧ Ign π .ldgs ∧ Ign π .fog ∧ Ign π .funcs ∧ Ign π .timers ∧ Ign π .out ∧ Ign π .free := by simp [hW])
    : see π (stateOf (execCleAllreduce g s) s) = see π s := by
  rw [execCleAllreduce.eq_def, stateOf_next]; simp [hW]

@[simp ↓] theorem execCleReducescatter_see (g : Fin 6) (s : State) (hW : Ign π .mem ∧ Ign π .poison ∧ Ign π .blocks ∧ Ign π .ctxs ∧ Ign π .ques ∧ Ign π .tiles ∧ Ign π .chains ∧ Ign π .parts ∧ Ign π .links ∧ Ign π .lgs ∧ Ign π .cles ∧ Ign π .tals ∧ Ign π .ldgs ∧ Ign π .fog ∧ Ign π .funcs ∧ Ign π .timers ∧ Ign π .out ∧ Ign π .free := by simp [hW])
    : see π (stateOf (execCleReducescatter g s) s) = see π s := by
  rw [execCleReducescatter.eq_def, stateOf_next]; simp [hW]

@[simp ↓] theorem execCleAllgather_see (g : Fin 6) (s : State) (hW : Ign π .mem ∧ Ign π .poison ∧ Ign π .blocks ∧ Ign π .ctxs ∧ Ign π .ques ∧ Ign π .tiles ∧ Ign π .chains ∧ Ign π .parts ∧ Ign π .links ∧ Ign π .lgs ∧ Ign π .cles ∧ Ign π .tals ∧ Ign π .ldgs ∧ Ign π .fog ∧ Ign π .funcs ∧ Ign π .timers ∧ Ign π .out ∧ Ign π .free := by simp [hW])
    : see π (stateOf (execCleAllgather g s) s) = see π s := by
  rw [execCleAllgather.eq_def, stateOf_next]; simp [hW]

@[simp ↓] theorem execReadyReceive_see (l : Fin 24) (f : Frame) (s0 : State) (hW : Ign π .mem ∧ Ign π .poison ∧ Ign π .blocks ∧ Ign π .ctxs ∧ Ign π .ques ∧ Ign π .tiles ∧ Ign π .chains ∧ Ign π .parts ∧ Ign π .links ∧ Ign π .lgs ∧ Ign π .cles ∧ Ign π .tals ∧ Ign π .ldgs ∧ Ign π .fog ∧ Ign π .funcs ∧ Ign π .timers ∧ Ign π .out ∧ Ign π .free := by simp [hW])
    : see π (stateOf (execReadyReceive l f s0) s0) = see π s0 := by
  rw [execReadyReceive.eq_def, stateOf_next]; try dsimp only
  (repeat' split) <;> (repeat (first | with_reducible rfl | refine (State.takeIf_see_of (by with_reducible assumption)).trans ?_ | simp [hW]))

@[simp ↓] theorem execReadyResend_see (g : Fin 6) (peer : Fin 8) (s : State) (hW : Ign π .blocks ∧ Ign π .links ∧ Ign π .lgs ∧ Ign π .tals ∧ Ign π .timers ∧ Ign π .out := by simp [hW])
    : see π (stateOf (execReadyResend g peer s) s) = see π s := by
  rw [execReadyResend.eq_def, stateOf_next]; (repeat' split) <;> simp [hW]

@[simp ↓] theorem execCollReduce_see (g : Fin 6) (s : State) (hW : Ign π .mem ∧ Ign π .poison ∧ Ign π .blocks ∧ Ign π .ctxs ∧ Ign π .ques ∧ Ign π .tiles ∧ Ign π .chains ∧ Ign π .parts ∧ Ign π .links ∧ Ign π .lgs ∧ Ign π .cles ∧ Ign π .tals ∧ Ign π .ldgs ∧ Ign π .fog ∧ Ign π .funcs ∧ Ign π .timers ∧ Ign π .out ∧ Ign π .free := by simp [hW])
    : see π (stateOf (execCollReduce g s) s) = see π s := by
  rw [execCollReduce.eq_def, stateOf_next]; dsimp only
  split
  · rfl
  · split
    · rfl
    · split
      · simp [hW]
      · try dsimp only
        split
        · simp [hW]
        · rw [State.collMaybeDone_see]
          refine (foldl_see _ (fun s x => ?_) _ _).trans ?_
          · (repeat' split) <;> simp [hW]
          · simp [hW]

@[simp ↓] theorem execLinkWriteArrive_see (l : Fin 24) (f : Frame) (s : State) (hW : Ign π .mem ∧ Ign π .poison ∧ Ign π .blocks ∧ Ign π .ctxs ∧ Ign π .ques ∧ Ign π .tiles ∧ Ign π .chains ∧ Ign π .tlbs ∧ Ign π .parts ∧ Ign π .links ∧ Ign π .lgs ∧ Ign π .board ∧ Ign π .cles ∧ Ign π .tals ∧ Ign π .ldgs ∧ Ign π .fog ∧ Ign π .funcs ∧ Ign π .timers ∧ Ign π .out ∧ Ign π .free := by simp [hW])
    : see π (stateOf (execLinkWriteArrive l f s) s) = see π s := by
  rw [execLinkWriteArrive.eq_def, stateOf_next]; try dsimp only
  (repeat' split) <;> (repeat (first | with_reducible rfl | refine (State.takeIf_see_of (by with_reducible assumption)).trans ?_ | simp [hW]))

@[simp ↓] theorem execSprayWriteArrive_see (l : Fin 24) (f : Frame) (s : State) (hW : Ign π .mem ∧ Ign π .poison ∧ Ign π .blocks ∧ Ign π .ctxs ∧ Ign π .ques ∧ Ign π .tiles ∧ Ign π .chains ∧ Ign π .tlbs ∧ Ign π .parts ∧ Ign π .links ∧ Ign π .lgs ∧ Ign π .board ∧ Ign π .cles ∧ Ign π .tals ∧ Ign π .ldgs ∧ Ign π .fog ∧ Ign π .funcs ∧ Ign π .timers ∧ Ign π .out ∧ Ign π .free := by simp [hW])
    : see π (stateOf (execSprayWriteArrive l f s) s) = see π s := by
  rw [execSprayWriteArrive.eq_def, stateOf_next]; try dsimp only
  (repeat' split) <;> (repeat (first | with_reducible rfl | refine (State.performFrame_see_of (by with_reducible assumption)).trans ?_ | refine (State.takeIf_see_of (by with_reducible assumption)).trans ?_ | simp [hW]))

@[simp ↓] theorem execLampArrive_see (l : Fin 24) (f : Frame) (s : State) (hW : Ign π .links ∧ Ign π .lgs ∧ Ign π .board ∧ Ign π .timers := by simp [hW])
    : see π (stateOf (execLampArrive l f s) s) = see π s := by
  rw [execLampArrive.eq_def, stateOf_next]; try dsimp only
  (repeat' split) <;> (repeat (first | with_reducible rfl | refine (State.takeIf_see_of (by with_reducible assumption)).trans ?_ | simp [hW]))

@[simp ↓] theorem execLampPerform_see (g : Fin 6) (k : ℕ) (s : State) (hW : Ign π .mem ∧ Ign π .poison ∧ Ign π .blocks ∧ Ign π .ctxs ∧ Ign π .ques ∧ Ign π .tiles ∧ Ign π .chains ∧ Ign π .tlbs ∧ Ign π .parts ∧ Ign π .links ∧ Ign π .lgs ∧ Ign π .board ∧ Ign π .cles ∧ Ign π .tals ∧ Ign π .ldgs ∧ Ign π .fog ∧ Ign π .funcs ∧ Ign π .timers ∧ Ign π .out ∧ Ign π .free := by simp [hW])
    : see π (stateOf (execLampPerform g k s) s) = see π s := by
  rw [execLampPerform.eq_def, stateOf_next]; (repeat' split) <;> simp [hW]

@[simp ↓] theorem execLampExpire_see (g : Fin 6) (k : ℕ) (s : State) (hW : Ign π .blocks ∧ Ign π .links ∧ Ign π .lgs ∧ Ign π .board ∧ Ign π .tals ∧ Ign π .timers ∧ Ign π .out := by simp [hW])
    : see π (stateOf (execLampExpire g k s) s) = see π s := by
  rw [execLampExpire.eq_def, stateOf_next]; dsimp only; (repeat' split) <;> simp [hW]

@[simp ↓] theorem execPerformedAck_see (l : Fin 24) (f : Frame) (s : State) (hW : Ign π .blocks ∧ Ign π .ques ∧ Ign π .chains ∧ Ign π .links ∧ Ign π .lgs ∧ Ign π .cles ∧ Ign π .tals ∧ Ign π .ldgs ∧ Ign π .fog ∧ Ign π .timers ∧ Ign π .out := by simp [hW])
    : see π (stateOf (execPerformedAck l f s) s) = see π s := by
  rw [execPerformedAck.eq_def, stateOf_next]
  split
  · rfl
  · refine Eq.trans ?_ (State.takeIf_see_of (by with_reducible assumption))
    split
    · rfl
    · refine Eq.trans ?_ (State.settle_see_of (by with_reducible assumption))
      split
      · split
        · rfl
        · exact State.ackOne_see ..
      · rfl

@[simp ↓] theorem execInboundRejectReceive_see (l : Fin 24) (f : Frame) (s : State) (hW : Ign π .mem ∧ Ign π .poison ∧ Ign π .blocks ∧ Ign π .ctxs ∧ Ign π .ques ∧ Ign π .tiles ∧ Ign π .chains ∧ Ign π .parts ∧ Ign π .links ∧ Ign π .lgs ∧ Ign π .cles ∧ Ign π .tals ∧ Ign π .ldgs ∧ Ign π .fog ∧ Ign π .funcs ∧ Ign π .timers ∧ Ign π .out := by simp [hW])
    : see π (stateOf (execInboundRejectReceive l f s) s) = see π s := by
  rw [execInboundRejectReceive.eq_def, stateOf_next]
  split
  · rfl
  · refine Eq.trans ?_ (State.takeIf_see_of (by with_reducible assumption))
    split
    · refine Eq.trans ?_ (State.settle_see_of (by with_reducible assumption))
      split
      · rw [State.cleProgress_see, State.failCle_see]
      · rfl
    · rfl

@[simp ↓] theorem execLampExpiryReceive_see (l : Fin 24) (f : Frame) (s : State) (hW : Ign π .mem ∧ Ign π .poison ∧ Ign π .blocks ∧ Ign π .ctxs ∧ Ign π .ques ∧ Ign π .tiles ∧ Ign π .chains ∧ Ign π .parts ∧ Ign π .links ∧ Ign π .lgs ∧ Ign π .cles ∧ Ign π .tals ∧ Ign π .ldgs ∧ Ign π .fog ∧ Ign π .funcs ∧ Ign π .timers ∧ Ign π .out := by simp [hW])
    : see π (stateOf (execLampExpiryReceive l f s) s) = see π s := by
  rw [execLampExpiryReceive.eq_def, stateOf_next]
  split
  · rfl
  · refine Eq.trans ?_ (State.takeIf_see_of (by with_reducible assumption))
    split
    · refine Eq.trans ?_ (State.settle_see_of (by with_reducible assumption))
      split
      · rw [State.cleProgress_see, State.failCle_see]
      · rfl
    · rfl

@[simp ↓] theorem execAbortReceive_see (l : Fin 24) (f : Frame) (s : State) (hW : Ign π .mem ∧ Ign π .poison ∧ Ign π .blocks ∧ Ign π .ctxs ∧ Ign π .ques ∧ Ign π .tiles ∧ Ign π .chains ∧ Ign π .parts ∧ Ign π .links ∧ Ign π .lgs ∧ Ign π .cles ∧ Ign π .tals ∧ Ign π .ldgs ∧ Ign π .fog ∧ Ign π .funcs ∧ Ign π .timers ∧ Ign π .out := by simp [hW])
    : see π (stateOf (execAbortReceive l f s) s) = see π s := by
  rw [execAbortReceive.eq_def, stateOf_next]
  split
  · rfl
  · refine Eq.trans ?_ (State.takeIf_see_of (by with_reducible assumption))
    dsimp only
    (repeat' split) <;> simp [hW]

@[simp ↓] theorem execCollTimeout_see (g : Fin 6) (q : Fin 2048) (head : W32) (s : State) (hW : Ign π .mem ∧ Ign π .poison ∧ Ign π .blocks ∧ Ign π .ctxs ∧ Ign π .ques ∧ Ign π .tiles ∧ Ign π .chains ∧ Ign π .parts ∧ Ign π .links ∧ Ign π .lgs ∧ Ign π .cles ∧ Ign π .tals ∧ Ign π .ldgs ∧ Ign π .fog ∧ Ign π .funcs ∧ Ign π .timers ∧ Ign π .out := by simp [hW])
    : see π (stateOf (execCollTimeout g q head s) s) = see π s := by
  rw [execCollTimeout.eq_def, stateOf_next]; dsimp only; (repeat' split) <;> simp [hW]

@[simp ↓] theorem execSnapshotApply_see (b : BlkId) (part : ℕ) (s : State) (hW : Ign π .mem ∧ Ign π .poison ∧ Ign π .blocks ∧ Ign π .ctxs ∧ Ign π .ques ∧ Ign π .tiles ∧ Ign π .chains ∧ Ign π .nmes ∧ Ign π .kvfs ∧ Ign π .parts ∧ Ign π .rings ∧ Ign π .links ∧ Ign π .lgs ∧ Ign π .pairs ∧ Ign π .tals ∧ Ign π .ldgs ∧ Ign π .wchs ∧ Ign π .fog ∧ Ign π .funcs ∧ Ign π .timers ∧ Ign π .out ∧ Ign π .free := by simp [hW])
    : see π (stateOf (execSnapshotApply b part s) s) = see π s := by
  rw [execSnapshotApply.eq_def, stateOf_okIf]
  split
  · split
    · exact State.applyPart_see ..
    · rfl
  · rfl

@[simp ↓] theorem execLnkModeChange_see (g : Fin 6) (s : State) (hW : Ign π .mem ∧ Ign π .poison ∧ Ign π .blocks ∧ Ign π .ctxs ∧ Ign π .ques ∧ Ign π .tiles ∧ Ign π .chains ∧ Ign π .nmes ∧ Ign π .kvfs ∧ Ign π .parts ∧ Ign π .rings ∧ Ign π .links ∧ Ign π .lgs ∧ Ign π .pairs ∧ Ign π .tals ∧ Ign π .ldgs ∧ Ign π .wchs ∧ Ign π .fog ∧ Ign π .funcs ∧ Ign π .timers ∧ Ign π .out ∧ Ign π .free := by simp [hW])
    : see π (stateOf (execLnkModeChange g s) s) = see π s := by
  rw [execLnkModeChange.eq_def, stateOf_next]; dsimp only; (repeat' split) <;> simp [hW]

@[simp ↓] theorem execFreqSwitchDone_see (u : FreqUnit) (s : State) (hW : Ign π .blocks ∧ Ign π .tiles ∧ Ign π .pairs ∧ Ign π .tals ∧ Ign π .ldgs ∧ Ign π .fog ∧ Ign π .timers ∧ Ign π .out := by simp [hW])
    : see π (stateOf (execFreqSwitchDone u s) s) = see π s := by
  rw [execFreqSwitchDone.eq_def, stateOf_next]; dsimp only; (repeat' split) <;> simp [hW]

@[simp ↓] theorem State.takeFlit_see (s : State) (c : Hop) (hW : Ign π .blocks ∧ Ign π .tals ∧ Ign π .chans := by simp [hW])
    : see π (State.takeFlit s c) = see π s := by
  rw [State.takeFlit.eq_def]; dsimp only; split <;> simp [hW]

@[simp ↓] theorem State.sendFlit_see (s : State) (x : Xfer) (c : Hop) (hW : Ign π .blocks ∧ Ign π .tals ∧ Ign π .chans := by simp [hW])
    : see π (State.sendFlit s x c) = see π s := by
  rw [State.sendFlit.eq_def]; dsimp only; split <;> simp [hW]

@[simp ↓] theorem execFlitTransfer_see (x : Xfer) (c : Hop) (accept : Bool) (s : State) (hW : Ign π .blocks ∧ Ign π .tals ∧ Ign π .chans := by simp [hW])
    : see π (stateOf (execFlitTransfer x c accept s) s) = see π s := by
  rw [execFlitTransfer.eq_def, stateOf_okIf]; (repeat' split) <;> simp [hW]

@[simp ↓] theorem execFogInEdge_see (lowNs : ℕ) (s : State) (hW : Ign π .fog ∧ Ign π .timers ∧ Ign π .out ∧ Ign π .free := by simp [hW])
    : see π (stateOf (execFogInEdge lowNs s) s) = see π s := by
  rw [execFogInEdge.eq_def, stateOf_next]; dsimp only; (repeat' split) <;> simp [hW]

@[simp ↓] theorem execFogFreeze_see (b : BlkId) (s : State) (hW : Ign π .blocks ∧ Ign π .tals ∧ Ign π .ldgs ∧ Ign π .wchs ∧ Ign π .fog ∧ Ign π .timers ∧ Ign π .out := by simp [hW])
    : see π (stateOf (execFogFreeze b s) s) = see π s := by
  rw [execFogFreeze.eq_def, stateOf_next]; (repeat' split) <;> simp [hW]

@[simp ↓] theorem execFogOutEnd_see (s : State) (hW : Ign π .fog ∧ Ign π .timers ∧ Ign π .out := by simp [hW])
    : see π (stateOf (execFogOutEnd s) s) = see π s := by
  rw [execFogOutEnd.eq_def, stateOf_next]; dsimp only; (repeat' split) <;> simp [hW]

@[simp ↓] theorem execLdgBurstAck_see (b : BlkId) (ok : Bool) (s : State) (hW : Ign π .mem ∧ Ign π .poison ∧ Ign π .blocks ∧ Ign π .tiles ∧ Ign π .tals ∧ Ign π .ldgs ∧ Ign π .fog ∧ Ign π .timers ∧ Ign π .out := by simp [hW])
    : see π (stateOf (execLdgBurstAck b ok s) s) = see π s := by
  rw [execLdgBurstAck.eq_def, stateOf_okIf]; dsimp only; (repeat' split) <;> simp [hW]

@[simp ↓] theorem execOpenSession_see (p : Fin 8) (q : Fin 2048) (s : State) (hW : Ign π .mem ∧ Ign π .poison ∧ Ign π .blocks ∧ Ign π .ctxs ∧ Ign π .ques ∧ Ign π .tiles ∧ Ign π .tlbs ∧ Ign π .parts ∧ Ign π .sess ∧ Ign π .pairs ∧ Ign π .tals ∧ Ign π .ldgs ∧ Ign π .fog ∧ Ign π .funcs ∧ Ign π .timers ∧ Ign π .out ∧ Ign π .free := by simp [hW])
    : see π (stateOf (execOpenSession p q s) s) = see π s := by
  rw [execOpenSession.eq_def, stateOf_next]; dsimp only; (repeat' split) <;> simp [hW]

@[simp ↓] theorem execPrefill_see (p : Fin 8) (q : Fin 2048) (s : State) (hW : Ign π .mem ∧ Ign π .poison ∧ Ign π .blocks ∧ Ign π .ctxs ∧ Ign π .ques ∧ Ign π .tiles ∧ Ign π .tlbs ∧ Ign π .kvfs ∧ Ign π .parts ∧ Ign π .sess ∧ Ign π .pairs ∧ Ign π .tals ∧ Ign π .ldgs ∧ Ign π .fog ∧ Ign π .funcs ∧ Ign π .timers ∧ Ign π .out ∧ Ign π .free := by simp [hW])
    : see π (stateOf (execPrefill p q s) s) = see π s := by
  rw [execPrefill.eq_def, stateOf_next]; dsimp only; (repeat' split) <;> (repeat (first | with_reducible rfl | refine (State.accept_see_of (by with_reducible assumption)).trans ?_ | refine (State.xlateRanges_see_of (by with_reducible assumption)).trans ?_ | split | simp [hW]))

@[simp ↓] theorem execDecode_see (p : Fin 8) (q : Fin 2048) (s : State) (hW : Ign π .mem ∧ Ign π .poison ∧ Ign π .blocks ∧ Ign π .ctxs ∧ Ign π .ques ∧ Ign π .tiles ∧ Ign π .tlbs ∧ Ign π .parts ∧ Ign π .sess ∧ Ign π .pairs ∧ Ign π .tals ∧ Ign π .ldgs ∧ Ign π .fog ∧ Ign π .funcs ∧ Ign π .timers ∧ Ign π .out ∧ Ign π .free := by simp [hW])
    : see π (stateOf (execDecode p q s) s) = see π s := by
  rw [execDecode.eq_def, stateOf_next]; dsimp only; (repeat' split) <;> (repeat (first | with_reducible rfl | refine (State.accept_see_of (by with_reducible assumption)).trans ?_ | split | simp [hW]))

@[simp ↓] theorem execHold_see (p : Fin 8) (q : Fin 2048) (s : State) (hW : Ign π .mem ∧ Ign π .poison ∧ Ign π .blocks ∧ Ign π .ctxs ∧ Ign π .ques ∧ Ign π .rels ∧ Ign π .tiles ∧ Ign π .tlbs ∧ Ign π .kvfs ∧ Ign π .parts ∧ Ign π .sess ∧ Ign π .pairs ∧ Ign π .tals ∧ Ign π .ldgs ∧ Ign π .fog ∧ Ign π .funcs ∧ Ign π .timers ∧ Ign π .out ∧ Ign π .free := by simp [hW])
    : see π (stateOf (execHold p q s) s) = see π s := by
  rw [execHold.eq_def, stateOf_next]; dsimp only; (repeat' split) <;> simp [hW]

@[simp ↓] theorem execResume_see (p : Fin 8) (q : Fin 2048) (s : State) (hW : Ign π .mem ∧ Ign π .poison ∧ Ign π .blocks ∧ Ign π .ctxs ∧ Ign π .ques ∧ Ign π .tiles ∧ Ign π .tlbs ∧ Ign π .kvfs ∧ Ign π .parts ∧ Ign π .sess ∧ Ign π .pairs ∧ Ign π .tals ∧ Ign π .ldgs ∧ Ign π .fog ∧ Ign π .funcs ∧ Ign π .timers ∧ Ign π .out ∧ Ign π .free := by simp [hW])
    : see π (stateOf (execResume p q s) s) = see π s := by
  rw [execResume.eq_def, stateOf_next]; dsimp only; (repeat' split) <;> simp [hW]

@[simp ↓] theorem execClose_see (p : Fin 8) (q : Fin 2048) (s : State) (hW : Ign π .mem ∧ Ign π .poison ∧ Ign π .blocks ∧ Ign π .ctxs ∧ Ign π .ques ∧ Ign π .rels ∧ Ign π .tiles ∧ Ign π .tlbs ∧ Ign π .parts ∧ Ign π .sess ∧ Ign π .pairs ∧ Ign π .tals ∧ Ign π .ldgs ∧ Ign π .fog ∧ Ign π .funcs ∧ Ign π .timers ∧ Ign π .out ∧ Ign π .free := by simp [hW])
    : see π (stateOf (execClose p q s) s) = see π s := by
  rw [execClose.eq_def, stateOf_next]; dsimp only; (repeat' split) <;> simp [hW]

@[simp ↓] theorem execRuntimeStep_see (p : Fin 8) (durationNs : ℕ) (rolls : List RollItem) (results : List StepResult) (s : State) (hW : Ign π .mem ∧ Ign π .poison ∧ Ign π .blocks ∧ Ign π .ctxs ∧ Ign π .rels ∧ Ign π .tiles ∧ Ign π .tlbs ∧ Ign π .kvfs ∧ Ign π .parts ∧ Ign π .sess ∧ Ign π .pairs ∧ Ign π .tals ∧ Ign π .ldgs ∧ Ign π .fog ∧ Ign π .funcs ∧ Ign π .timers ∧ Ign π .out ∧ Ign π .free := by simp [hW])
    : see π (stateOf (execRuntimeStep p durationNs rolls results s) s) = see π s := by
  rw [execRuntimeStep.eq_def, stateOf_next]
  have hd : ∀ (p k : Nat) (r : List StepResult) (l : List DecodeReq) (s : State), see π (l.foldl (fun s d =>
      match (s.pair k).decodes.find? (fun e => decide (e.ref = d.ref)), r.find? (fun r => decide (r.session = d.session)) with
      | some e, some r => s.deliver p k e r.recs
      | _, _ => s) s) = see π s :=
    fun p k r l s => foldl_see _ (fun s x => by split <;> simp [hW]) l s
  have hr : ∀ (p k : Nat) (l : List RollItem) (s : State), see π (l.foldl (fun s it => s.roll p k it) s) = see π s :=
    fun p k l s => foldl_see _ (fun s x => by simp [hW]) l s
  split
  · rfl
  · split
    · rfl
    · split
      · exact State.recoverStep_see_of (by with_reducible assumption)
      · dsimp only
        (repeat' split) <;> (repeat (first | with_reducible rfl | refine (hd _ _ _ _ _).trans ?_ | (rw [State.countPart_see, State.updPair_see, execTick_see]; refine (hr _ _ _ _).trans ?_) | split | simp [hW]))

@[simp ↓] theorem State.noteRuntime_see (s : State) (p : ℕ) (hW : Ign π .boot := by simp [hW])
    : see π (State.noteRuntime s p) = see π s := by
  exact hW s _

@[simp ↓] theorem execRuntimeStart_see (p : Fin 8) (s : State) (hW : Ign π .blocks ∧ Ign π .ctxs ∧ Ign π .tlbs ∧ Ign π .parts ∧ Ign π .pairs ∧ Ign π .boot ∧ Ign π .timers := by simp [hW])
    : see π (stateOf (execRuntimeStart p s) s) = see π s := by
  rw [execRuntimeStart.eq_def, stateOf_next]; dsimp only; (repeat' split) <;> simp [hW]

@[simp ↓] theorem execPowerCapPeriod_see (p : Fin 8) (s : State) (hW : Ign π .mem ∧ Ign π .poison ∧ Ign π .blocks ∧ Ign π .ctxs ∧ Ign π .ques ∧ Ign π .tiles ∧ Ign π .chains ∧ Ign π .nmes ∧ Ign π .kvfs ∧ Ign π .parts ∧ Ign π .rings ∧ Ign π .links ∧ Ign π .lgs ∧ Ign π .pairs ∧ Ign π .tals ∧ Ign π .ldgs ∧ Ign π .wchs ∧ Ign π .fog ∧ Ign π .funcs ∧ Ign π .timers ∧ Ign π .out ∧ Ign π .free := by simp [hW])
    : see π (stateOf (execPowerCapPeriod p s) s) = see π s := by
  rw [execPowerCapPeriod.eq_def, stateOf_next]; dsimp only; (repeat' split) <;> simp [hW]

@[simp ↓] theorem execImgFetchDone_see (data : Option (List Byte)) (s : State) (hW : Ign π .blocks ∧ Ign π .img := by simp [hW])
    : see π (stateOf (execImgFetchDone data s) s) = see π s := by
  rw [execImgFetchDone.eq_def, stateOf_next]; simp [hW]

@[simp ↓] theorem execDestroyFinish_see (p : Fin 8) (c : BitVec 8) (s : State) (hW : Ign π .blocks ∧ Ign π .ctxs ∧ Ign π .ques ∧ Ign π .rels ∧ Ign π .tiles ∧ Ign π .mxes ∧ Ign π .vxes ∧ Ign π .stes ∧ Ign π .chains ∧ Ign π .stks ∧ Ign π .tlbs ∧ Ign π .nmes ∧ Ign π .kvfs ∧ Ign π .parts ∧ Ign π .rings ∧ Ign π .bars ∧ Ign π .links ∧ Ign π .lgs ∧ Ign π .cles ∧ Ign π .pairs ∧ Ign π .tals ∧ Ign π .wchs ∧ Ign π .fog ∧ Ign π .pcx ∧ Ign π .timers ∧ Ign π .out := by simp [hW])
    : see π (stateOf (execDestroyFinish p c s) s) = see π s := by
  rw [execDestroyFinish.eq_def, stateOf_next]; simp [hW]

@[simp ↓] theorem execDestroyTimeout_see (p : Fin 8) (c : BitVec 8) (s : State) (hW : Ign π .blocks ∧ Ign π .ctxs ∧ Ign π .ques ∧ Ign π .rels ∧ Ign π .tiles ∧ Ign π .mxes ∧ Ign π .vxes ∧ Ign π .stes ∧ Ign π .chains ∧ Ign π .stks ∧ Ign π .tlbs ∧ Ign π .nmes ∧ Ign π .kvfs ∧ Ign π .parts ∧ Ign π .rings ∧ Ign π .bars ∧ Ign π .links ∧ Ign π .lgs ∧ Ign π .cles ∧ Ign π .pairs ∧ Ign π .tals ∧ Ign π .wchs ∧ Ign π .fog ∧ Ign π .pcx ∧ Ign π .timers ∧ Ign π .out := by simp [hW])
    : see π (stateOf (execDestroyTimeout p c s) s) = see π s := by
  rw [execDestroyTimeout.eq_def, stateOf_next]; simp [hW]

@[simp ↓] theorem State.ioEvents_see (s : State) (old : Option ImageCfg) (i : ImageCfg) (hW : Ign π .blocks ∧ Ign π .tals := by simp [hW])
    : see π (State.ioEvents s old i) = see π s := by
  have hc : ∀ (o : ℕ) (w : W32) (s : State), see π (s.committed ⟨.talIo, 0⟩ o w) = see π s := by
    intro o w s
    rw [State.committed.eq_def]; dsimp only; (repeat' split) <;> simp [hW]
  rw [State.ioEvents.eq_def]; dsimp only
  exact (foldl_see _ (fun _ _ => hc _ _ _) _ _).trans (by simp [hW])

@[simp ↓] theorem execImgApplyDone_see (s : State) (hW : Ign π .mem ∧ Ign π .poison ∧ Ign π .blocks ∧ Ign π .img ∧ Ign π .tiles ∧ Ign π .mxes ∧ Ign π .vxes ∧ Ign π .stes ∧ Ign π .chains ∧ Ign π .stks ∧ Ign π .tlbs ∧ Ign π .nmes ∧ Ign π .kvfs ∧ Ign π .parts ∧ Ign π .sess ∧ Ign π .links ∧ Ign π .lgs ∧ Ign π .cles ∧ Ign π .pairs ∧ Ign π .tals ∧ Ign π .ldgs ∧ Ign π .wchs ∧ Ign π .cycles ∧ Ign π .pcx ∧ Ign π .funcs ∧ Ign π .sec ∧ Ign π .pwr ∧ Ign π .boot ∧ Ign π .timers ∧ Ign π .out := by simp [hW])
    : see π (stateOf (execImgApplyDone s) s) = see π s := by
  rw [execImgApplyDone.eq_def, stateOf_next]
  have hp : ∀ (l : List Nat) (f : State → Nat → State) (hf : ∀ s x, see π (f s x) = see π s) (s : State), see π (l.foldl f s) = see π s :=
    fun l f hf s => foldl_see f hf l s
  have hr : ∀ (i : Option ImageCfg) (ks : List BlkKind) (l : List Nat) (s : State),
      see π (l.foldl (fun s t => s.resetBlks i ks t) s) = see π s := fun i ks l s => foldl_see _ (fun s x => by simp [hW]) l s
  have hg : ∀ (l : List Nat) (s : State), see π (l.foldl (fun s p => s.setPart p .reset) s) = see π s :=
    fun l s => foldl_see _ (fun s x => by simp [hW]) l s
  split
  · dsimp only
    split
    · rfl
    · rw [State.alert_see, State.stopTimer_see]
      refine (see_sec_boot (by simp [hW]) (by simp [hW]) _ _ _).trans ?_
      rw [State.loseWindows_see, State.ioEvents_see]
      refine (hp _ _ (fun s p => ?_) _).trans ?_
      · rw [State.readyPart_see]
        have hb : ∀ (c : Prop) [Decidable c] (s t : State), see π s = see π t → see π (if c then s.flag .flt p 0x24 (bit 30) else s) = see π t := by
          intro c _ s t h
          split
          · rw [State.flag_see, h]
          · exact h
        exact hb _ _ _ (by rw [State.resetBlks_see, hr, hr, hr, hr])
      · rw [hg]
        refine (see_img (by simp [hW]) _ _).trans ?_
        rw [State.zeroChanged_see, State.dropDoms_see]
  · rfl

@[simp ↓] theorem execPowerCycle_see (s : State) (hW : Ign π .pwr ∧ Ign π .out := by simp [hW])
    : see π (stateOf (execPowerCycle s) s) = see π s := by
  rw [execPowerCycle.eq_def, stateOf_next]; simp [hW]

@[simp ↓] theorem execRungTimeout_see (p : Fin 8) (r : Rung) (s : State) (hW : Ign π .mem ∧ Ign π .poison ∧ Ign π .blocks ∧ Ign π .img ∧ Ign π .ctxs ∧ Ign π .ques ∧ Ign π .rels ∧ Ign π .tiles ∧ Ign π .mxes ∧ Ign π .vxes ∧ Ign π .stes ∧ Ign π .chains ∧ Ign π .stks ∧ Ign π .tlbs ∧ Ign π .nmes ∧ Ign π .kvfs ∧ Ign π .parts ∧ Ign π .sess ∧ Ign π .rings ∧ Ign π .bars ∧ Ign π .links ∧ Ign π .lgs ∧ Ign π .board ∧ Ign π .cles ∧ Ign π .pairs ∧ Ign π .tals ∧ Ign π .ldgs ∧ Ign π .wchs ∧ Ign π .chans ∧ Ign π .cycles ∧ Ign π .fog ∧ Ign π .pcx ∧ Ign π .funcs ∧ Ign π .mgt ∧ Ign π .otp ∧ Ign π .sec ∧ Ign π .pwr ∧ Ign π .boot ∧ Ign π .timers ∧ Ign π .rr ∧ Ign π .out := by simp [hW])
    : see π (stateOf (execRungTimeout p r s) s) = see π s := by
  rw [execRungTimeout.eq_def, stateOf_next]; dsimp only; (repeat' split) <;> simp [hW]

@[simp ↓] theorem execProgressTimeout_see (p : Fin 8) (q : Fin 2048) (s : State) (hW : Ign π .mem ∧ Ign π .poison ∧ Ign π .blocks ∧ Ign π .ctxs ∧ Ign π .ques ∧ Ign π .rels ∧ Ign π .tiles ∧ Ign π .mxes ∧ Ign π .vxes ∧ Ign π .stes ∧ Ign π .chains ∧ Ign π .stks ∧ Ign π .tlbs ∧ Ign π .nmes ∧ Ign π .kvfs ∧ Ign π .parts ∧ Ign π .rings ∧ Ign π .bars ∧ Ign π .links ∧ Ign π .lgs ∧ Ign π .cles ∧ Ign π .pairs ∧ Ign π .tals ∧ Ign π .ldgs ∧ Ign π .wchs ∧ Ign π .fog ∧ Ign π .pcx ∧ Ign π .funcs ∧ Ign π .timers ∧ Ign π .out := by simp [hW])
    : see π (stateOf (execProgressTimeout p q s) s) = see π s := by
  rw [execProgressTimeout.eq_def, stateOf_next]; dsimp only; (repeat' split) <;> simp [hW]

@[simp ↓] theorem execEngineHang_see (e : Eng) (unit : ℕ) (s : State) (hW : Ign π .mem ∧ Ign π .poison ∧ Ign π .blocks ∧ Ign π .ctxs ∧ Ign π .ques ∧ Ign π .rels ∧ Ign π .tiles ∧ Ign π .mxes ∧ Ign π .vxes ∧ Ign π .stes ∧ Ign π .chains ∧ Ign π .stks ∧ Ign π .tlbs ∧ Ign π .nmes ∧ Ign π .kvfs ∧ Ign π .parts ∧ Ign π .rings ∧ Ign π .bars ∧ Ign π .links ∧ Ign π .lgs ∧ Ign π .cles ∧ Ign π .pairs ∧ Ign π .tals ∧ Ign π .ldgs ∧ Ign π .wchs ∧ Ign π .fog ∧ Ign π .pcx ∧ Ign π .funcs ∧ Ign π .timers ∧ Ign π .out := by simp [hW])
    : see π (stateOf (execEngineHang e unit s) s) = see π s := by
  rw [execEngineHang.eq_def, stateOf_next]; dsimp only; (repeat' split) <;> simp [hW]

@[simp ↓] theorem execHeartbeatMiss_see (p : Fin 8) (s : State) (hW : Ign π .mem ∧ Ign π .poison ∧ Ign π .blocks ∧ Ign π .ctxs ∧ Ign π .ques ∧ Ign π .rels ∧ Ign π .tiles ∧ Ign π .mxes ∧ Ign π .vxes ∧ Ign π .stes ∧ Ign π .chains ∧ Ign π .stks ∧ Ign π .tlbs ∧ Ign π .nmes ∧ Ign π .kvfs ∧ Ign π .parts ∧ Ign π .rings ∧ Ign π .bars ∧ Ign π .links ∧ Ign π .lgs ∧ Ign π .cles ∧ Ign π .pairs ∧ Ign π .tals ∧ Ign π .ldgs ∧ Ign π .wchs ∧ Ign π .fog ∧ Ign π .pcx ∧ Ign π .funcs ∧ Ign π .timers ∧ Ign π .out := by simp [hW])
    : see π (stateOf (execHeartbeatMiss p s) s) = see π s := by
  rw [execHeartbeatMiss.eq_def, stateOf_next]; dsimp only; (repeat' split) <;> simp [hW]

@[simp ↓] theorem execSaveRestoreDone_see (t : Fin 48) (ok : Bool) (s : State) (hW : Ign π .mem ∧ Ign π .poison ∧ Ign π .blocks ∧ Ign π .ctxs ∧ Ign π .ques ∧ Ign π .rels ∧ Ign π .tiles ∧ Ign π .mxes ∧ Ign π .vxes ∧ Ign π .stes ∧ Ign π .chains ∧ Ign π .stks ∧ Ign π .tlbs ∧ Ign π .nmes ∧ Ign π .kvfs ∧ Ign π .parts ∧ Ign π .rings ∧ Ign π .bars ∧ Ign π .links ∧ Ign π .lgs ∧ Ign π .cles ∧ Ign π .pairs ∧ Ign π .tals ∧ Ign π .ldgs ∧ Ign π .wchs ∧ Ign π .fog ∧ Ign π .pcx ∧ Ign π .funcs ∧ Ign π .timers ∧ Ign π .out ∧ Ign π .free := by simp [hW])
    : see π (stateOf (execSaveRestoreDone t ok s) s) = see π s := by
  rw [execSaveRestoreDone.eq_def, stateOf_next]; simp [hW]

@[simp ↓] theorem execBarrierWithdraw_see (p : Fin 8) (b : Fin 16) (t : Fin 48) (s : State) (hW : Ign π .mem ∧ Ign π .poison ∧ Ign π .blocks ∧ Ign π .ctxs ∧ Ign π .ques ∧ Ign π .rels ∧ Ign π .tiles ∧ Ign π .mxes ∧ Ign π .vxes ∧ Ign π .stes ∧ Ign π .chains ∧ Ign π .stks ∧ Ign π .tlbs ∧ Ign π .nmes ∧ Ign π .kvfs ∧ Ign π .parts ∧ Ign π .rings ∧ Ign π .bars ∧ Ign π .links ∧ Ign π .lgs ∧ Ign π .cles ∧ Ign π .pairs ∧ Ign π .tals ∧ Ign π .ldgs ∧ Ign π .wchs ∧ Ign π .fog ∧ Ign π .pcx ∧ Ign π .funcs ∧ Ign π .timers ∧ Ign π .out := by simp [hW])
    : see π (stateOf (execBarrierWithdraw p b t s) s) = see π s := by
  rw [execBarrierWithdraw.eq_def, stateOf_next]; simp [hW]

@[simp ↓] theorem execStackTrainingDone_see (k : Fin 12) (ok : Bool) (s : State) (hW : Ign π .blocks ∧ Ign π .stks ∧ Ign π .kvfs ∧ Ign π .parts ∧ Ign π .sess ∧ Ign π .pairs ∧ Ign π .tals ∧ Ign π .timers := by simp [hW])
    : see π (stateOf (execStackTrainingDone k ok s) s) = see π s := by
  rw [execStackTrainingDone.eq_def, stateOf_next]; simp [hW]

@[simp ↓] theorem execLinkTraining_see (l : Fin 24) (far : FarEnd) (s : State) (hW : Ign π .mem ∧ Ign π .poison ∧ Ign π .blocks ∧ Ign π .ctxs ∧ Ign π .ques ∧ Ign π .tiles ∧ Ign π .chains ∧ Ign π .kvfs ∧ Ign π .parts ∧ Ign π .sess ∧ Ign π .links ∧ Ign π .lgs ∧ Ign π .board ∧ Ign π .cles ∧ Ign π .pairs ∧ Ign π .tals ∧ Ign π .ldgs ∧ Ign π .fog ∧ Ign π .funcs ∧ Ign π .timers ∧ Ign π .out := by simp [hW])
    : see π (stateOf (execLinkTraining l far s) s) = see π s := by
  rw [execLinkTraining.eq_def, stateOf_next]; simp [hW]

@[simp ↓] theorem execAuxPowerUp_see (s : State) (hW : Ign π .blocks ∧ Ign π .otp ∧ Ign π .pwr ∧ Ign π .boot ∧ Ign π .out := by simp [hW])
    : see π (stateOf (execAuxPowerUp s) s) = see π s := by
  rw [execAuxPowerUp.eq_def, stateOf_next]; dsimp only; (repeat' split) <;> simp [hW]

@[simp ↓] theorem execAuxPowerLoss_see (s : State) (hW : Ign π .mem ∧ Ign π .poison ∧ Ign π .blocks ∧ Ign π .img ∧ Ign π .ctxs ∧ Ign π .ques ∧ Ign π .rels ∧ Ign π .tiles ∧ Ign π .mxes ∧ Ign π .vxes ∧ Ign π .stes ∧ Ign π .chains ∧ Ign π .stks ∧ Ign π .tlbs ∧ Ign π .nmes ∧ Ign π .kvfs ∧ Ign π .parts ∧ Ign π .sess ∧ Ign π .rings ∧ Ign π .bars ∧ Ign π .links ∧ Ign π .lgs ∧ Ign π .board ∧ Ign π .cles ∧ Ign π .pairs ∧ Ign π .tals ∧ Ign π .ldgs ∧ Ign π .wchs ∧ Ign π .chans ∧ Ign π .cycles ∧ Ign π .fog ∧ Ign π .pcx ∧ Ign π .funcs ∧ Ign π .mgt ∧ Ign π .otp ∧ Ign π .sec ∧ Ign π .pwr ∧ Ign π .boot ∧ Ign π .jtag ∧ Ign π .timers ∧ Ign π .rr := by simp [hW])
    : see π (stateOf (execAuxPowerLoss s) s) = see π s := by
  rw [execAuxPowerLoss.eq_def, stateOf_next]; simp [hW]

@[simp ↓] theorem execMgmtFirmwareVerified_see (s : State) (hW : Ign π .mem ∧ Ign π .poison ∧ Ign π .blocks ∧ Ign π .tiles ∧ Ign π .mxes ∧ Ign π .vxes ∧ Ign π .stes ∧ Ign π .chains ∧ Ign π .stks ∧ Ign π .tlbs ∧ Ign π .nmes ∧ Ign π .kvfs ∧ Ign π .links ∧ Ign π .lgs ∧ Ign π .cles ∧ Ign π .pairs ∧ Ign π .tals ∧ Ign π .ldgs ∧ Ign π .wchs ∧ Ign π .cycles ∧ Ign π .pcx ∧ Ign π .funcs ∧ Ign π .sec ∧ Ign π .pwr ∧ Ign π .boot ∧ Ign π .timers := by simp [hW])
    : see π (stateOf (execMgmtFirmwareVerified s) s) = see π s := by
  rw [execMgmtFirmwareVerified.eq_def, stateOf_next]; simp [hW]

@[simp ↓] theorem execKeeperFirmwareVerified_see (s : State) (hW : Ign π .pairs ∧ Ign π .sec ∧ Ign π .timers := by simp [hW])
    : see π (stateOf (execKeeperFirmwareVerified s) s) = see π s := by
  rw [execKeeperFirmwareVerified.eq_def, stateOf_next]; dsimp only; (repeat' split) <;> simp [hW]

@[simp ↓] theorem execInput48vGood_see (s : State) (hW : Ign π .mem ∧ Ign π .poison ∧ Ign π .blocks ∧ Ign π .tiles ∧ Ign π .mxes ∧ Ign π .vxes ∧ Ign π .stes ∧ Ign π .chains ∧ Ign π .stks ∧ Ign π .tlbs ∧ Ign π .nmes ∧ Ign π .kvfs ∧ Ign π .links ∧ Ign π .lgs ∧ Ign π .cles ∧ Ign π .pairs ∧ Ign π .tals ∧ Ign π .ldgs ∧ Ign π .wchs ∧ Ign π .cycles ∧ Ign π .pcx ∧ Ign π .funcs ∧ Ign π .pwr ∧ Ign π .timers := by simp [hW])
    : see π (stateOf (execInput48vGood s) s) = see π s := by
  rw [execInput48vGood.eq_def, stateOf_next]; simp [hW]

@[simp ↓] theorem execImgVerifyDone_see (s : State) (hW : Ign π .mem ∧ Ign π .poison ∧ Ign π .blocks ∧ Ign π .img ∧ Ign π .ctxs ∧ Ign π .ques ∧ Ign π .rels ∧ Ign π .tiles ∧ Ign π .mxes ∧ Ign π .vxes ∧ Ign π .stes ∧ Ign π .chains ∧ Ign π .stks ∧ Ign π .tlbs ∧ Ign π .nmes ∧ Ign π .kvfs ∧ Ign π .parts ∧ Ign π .sess ∧ Ign π .rings ∧ Ign π .bars ∧ Ign π .links ∧ Ign π .lgs ∧ Ign π .board ∧ Ign π .cles ∧ Ign π .pairs ∧ Ign π .tals ∧ Ign π .ldgs ∧ Ign π .wchs ∧ Ign π .cycles ∧ Ign π .pcx ∧ Ign π .funcs ∧ Ign π .sec ∧ Ign π .pwr ∧ Ign π .boot ∧ Ign π .timers ∧ Ign π .out := by simp [hW])
    : see π (stateOf (execImgVerifyDone s) s) = see π s := by
  rw [execImgVerifyDone.eq_def, stateOf_next]; simp [hW]

@[simp ↓] theorem execPerstAssert_see (s : State) (hW : Ign π .mem ∧ Ign π .poison ∧ Ign π .blocks ∧ Ign π .img ∧ Ign π .ctxs ∧ Ign π .ques ∧ Ign π .rels ∧ Ign π .tiles ∧ Ign π .mxes ∧ Ign π .vxes ∧ Ign π .stes ∧ Ign π .chains ∧ Ign π .stks ∧ Ign π .tlbs ∧ Ign π .nmes ∧ Ign π .kvfs ∧ Ign π .parts ∧ Ign π .sess ∧ Ign π .rings ∧ Ign π .bars ∧ Ign π .links ∧ Ign π .lgs ∧ Ign π .board ∧ Ign π .cles ∧ Ign π .pairs ∧ Ign π .tals ∧ Ign π .ldgs ∧ Ign π .wchs ∧ Ign π .chans ∧ Ign π .cycles ∧ Ign π .fog ∧ Ign π .pcx ∧ Ign π .funcs ∧ Ign π .mgt ∧ Ign π .otp ∧ Ign π .sec ∧ Ign π .pwr ∧ Ign π .boot ∧ Ign π .timers ∧ Ign π .rr ∧ Ign π .out := by simp [hW])
    : see π (stateOf (execPerstAssert s) s) = see π s := by
  rw [execPerstAssert.eq_def, stateOf_next]; simp [hW]

@[simp ↓] theorem execPerstRelease_see (s : State) (hW : Ign π .mem ∧ Ign π .poison ∧ Ign π .blocks ∧ Ign π .tiles ∧ Ign π .mxes ∧ Ign π .vxes ∧ Ign π .stes ∧ Ign π .chains ∧ Ign π .stks ∧ Ign π .tlbs ∧ Ign π .nmes ∧ Ign π .kvfs ∧ Ign π .links ∧ Ign π .lgs ∧ Ign π .cles ∧ Ign π .pairs ∧ Ign π .tals ∧ Ign π .ldgs ∧ Ign π .wchs ∧ Ign π .cycles ∧ Ign π .pcx ∧ Ign π .funcs ∧ Ign π .pwr ∧ Ign π .timers := by simp [hW])
    : see π (stateOf (execPerstRelease s) s) = see π s := by
  rw [execPerstRelease.eq_def, stateOf_next]; simp [hW]

@[simp ↓] theorem execInputLockout_see (past : Bool) (s : State) (hW : Ign π .mem ∧ Ign π .poison ∧ Ign π .blocks ∧ Ign π .img ∧ Ign π .ctxs ∧ Ign π .ques ∧ Ign π .rels ∧ Ign π .tiles ∧ Ign π .mxes ∧ Ign π .vxes ∧ Ign π .stes ∧ Ign π .chains ∧ Ign π .stks ∧ Ign π .tlbs ∧ Ign π .nmes ∧ Ign π .kvfs ∧ Ign π .parts ∧ Ign π .sess ∧ Ign π .rings ∧ Ign π .bars ∧ Ign π .links ∧ Ign π .lgs ∧ Ign π .cles ∧ Ign π .pairs ∧ Ign π .tals ∧ Ign π .ldgs ∧ Ign π .wchs ∧ Ign π .chans ∧ Ign π .cycles ∧ Ign π .pcx ∧ Ign π .funcs ∧ Ign π .pwr ∧ Ign π .timers := by simp [hW])
    : see π (stateOf (execInputLockout past s) s) = see π s := by
  rw [execInputLockout.eq_def, stateOf_next]; simp [hW]

@[simp ↓] theorem execPowerSample_see (vinMv : BitVec 16) (iin : BitVec 16) (powerQ : BitVec 16) (s : State) (hW : Ign π .pwr ∧ Ign π .out ∧ Ign π .free := by simp [hW])
    : see π (stateOf (execPowerSample vinMv iin powerQ s) s) = see π s := by
  rw [execPowerSample.eq_def, stateOf_next]; simp [hW]

@[simp ↓] theorem execCurrentClamp_see (iin : BitVec 16) (s : State) (hW : Ign π .pwr ∧ Ign π .timers := by simp [hW])
    : see π (stateOf (execCurrentClamp iin s) s) = see π s := by
  rw [execCurrentClamp.eq_def, stateOf_next]; simp [hW]

@[simp ↓] theorem execCurrentClampRelease_see (iin : BitVec 16) (s : State) (hW : Ign π .pwr ∧ Ign π .timers := by simp [hW])
    : see π (stateOf (execCurrentClampRelease iin s) s) = see π s := by
  rw [execCurrentClampRelease.eq_def, stateOf_next]; simp [hW]

@[simp ↓] theorem execThermalSample_see (half0 : Byte) (half1 : Byte) (ioDie : Byte) (stks : List Byte) (s : State) (hW : Ign π .mem ∧ Ign π .poison ∧ Ign π .blocks ∧ Ign π .img ∧ Ign π .ctxs ∧ Ign π .ques ∧ Ign π .rels ∧ Ign π .tiles ∧ Ign π .mxes ∧ Ign π .vxes ∧ Ign π .stes ∧ Ign π .chains ∧ Ign π .stks ∧ Ign π .tlbs ∧ Ign π .nmes ∧ Ign π .kvfs ∧ Ign π .parts ∧ Ign π .sess ∧ Ign π .rings ∧ Ign π .bars ∧ Ign π .links ∧ Ign π .lgs ∧ Ign π .cles ∧ Ign π .pairs ∧ Ign π .tals ∧ Ign π .ldgs ∧ Ign π .wchs ∧ Ign π .chans ∧ Ign π .cycles ∧ Ign π .pcx ∧ Ign π .funcs ∧ Ign π .pwr ∧ Ign π .timers ∧ Ign π .out ∧ Ign π .free := by simp [hW])
    : see π (stateOf (execThermalSample half0 half1 ioDie stks s) s) = see π s := by
  rw [execThermalSample.eq_def, stateOf_okIf]; split <;> simp [hW]

@[simp ↓] theorem execDomainSwitchDone_see (s : State) (hW : Ign π .mem ∧ Ign π .poison ∧ Ign π .blocks ∧ Ign π .ctxs ∧ Ign π .ques ∧ Ign π .rels ∧ Ign π .tiles ∧ Ign π .mxes ∧ Ign π .vxes ∧ Ign π .stes ∧ Ign π .chains ∧ Ign π .stks ∧ Ign π .tlbs ∧ Ign π .nmes ∧ Ign π .kvfs ∧ Ign π .parts ∧ Ign π .rings ∧ Ign π .bars ∧ Ign π .links ∧ Ign π .lgs ∧ Ign π .cles ∧ Ign π .pairs ∧ Ign π .tals ∧ Ign π .ldgs ∧ Ign π .wchs ∧ Ign π .cycles ∧ Ign π .fog ∧ Ign π .pcx ∧ Ign π .funcs ∧ Ign π .pwr ∧ Ign π .timers ∧ Ign π .out := by simp [hW])
    : see π (stateOf (execDomainSwitchDone s) s) = see π s := by
  rw [execDomainSwitchDone.eq_def, stateOf_next]; dsimp only; (repeat' split) <;> simp [hW]

@[simp ↓] theorem execExtest_see (s : State) (hW : Ign π .mem ∧ Ign π .poison ∧ Ign π .blocks ∧ Ign π .tiles ∧ Ign π .mxes ∧ Ign π .vxes ∧ Ign π .stes ∧ Ign π .chains ∧ Ign π .stks ∧ Ign π .tlbs ∧ Ign π .nmes ∧ Ign π .kvfs ∧ Ign π .links ∧ Ign π .lgs ∧ Ign π .cles ∧ Ign π .pairs ∧ Ign π .tals ∧ Ign π .ldgs ∧ Ign π .wchs ∧ Ign π .cycles ∧ Ign π .pcx ∧ Ign π .funcs ∧ Ign π .pwr ∧ Ign π .jtag ∧ Ign π .timers := by simp [hW])
    : see π (stateOf (execExtest s) s) = see π s := by
  rw [execExtest.eq_def, stateOf_next]; simp [hW]

@[simp ↓] theorem execSamplePreload_see (s : State) (hW : Ign π .mem ∧ Ign π .poison ∧ Ign π .blocks ∧ Ign π .tiles ∧ Ign π .mxes ∧ Ign π .vxes ∧ Ign π .stes ∧ Ign π .chains ∧ Ign π .stks ∧ Ign π .tlbs ∧ Ign π .nmes ∧ Ign π .kvfs ∧ Ign π .links ∧ Ign π .lgs ∧ Ign π .cles ∧ Ign π .pairs ∧ Ign π .tals ∧ Ign π .ldgs ∧ Ign π .wchs ∧ Ign π .cycles ∧ Ign π .pcx ∧ Ign π .funcs ∧ Ign π .pwr ∧ Ign π .jtag ∧ Ign π .timers := by simp [hW])
    : see π (stateOf (execSamplePreload s) s) = see π s := by
  rw [execSamplePreload.eq_def, stateOf_next]; simp [hW]

@[simp ↓] theorem execHighz_see (s : State) (hW : Ign π .mem ∧ Ign π .poison ∧ Ign π .blocks ∧ Ign π .tiles ∧ Ign π .mxes ∧ Ign π .vxes ∧ Ign π .stes ∧ Ign π .chains ∧ Ign π .stks ∧ Ign π .tlbs ∧ Ign π .nmes ∧ Ign π .kvfs ∧ Ign π .links ∧ Ign π .lgs ∧ Ign π .cles ∧ Ign π .pairs ∧ Ign π .tals ∧ Ign π .ldgs ∧ Ign π .wchs ∧ Ign π .cycles ∧ Ign π .pcx ∧ Ign π .funcs ∧ Ign π .pwr ∧ Ign π .jtag ∧ Ign π .timers := by simp [hW])
    : see π (stateOf (execHighz s) s) = see π s := by
  rw [execHighz.eq_def, stateOf_next]; simp [hW]

@[simp ↓] theorem execClamp_see (s : State) (hW : Ign π .mem ∧ Ign π .poison ∧ Ign π .blocks ∧ Ign π .tiles ∧ Ign π .mxes ∧ Ign π .vxes ∧ Ign π .stes ∧ Ign π .chains ∧ Ign π .stks ∧ Ign π .tlbs ∧ Ign π .nmes ∧ Ign π .kvfs ∧ Ign π .links ∧ Ign π .lgs ∧ Ign π .cles ∧ Ign π .pairs ∧ Ign π .tals ∧ Ign π .ldgs ∧ Ign π .wchs ∧ Ign π .cycles ∧ Ign π .pcx ∧ Ign π .funcs ∧ Ign π .pwr ∧ Ign π .jtag ∧ Ign π .timers := by simp [hW])
    : see π (stateOf (execClamp s) s) = see π s := by
  rw [execClamp.eq_def, stateOf_next]; simp [hW]

@[simp ↓] theorem execBypass_see (code : BitVec 4) (s : State) (hW : Ign π .mem ∧ Ign π .poison ∧ Ign π .blocks ∧ Ign π .tiles ∧ Ign π .mxes ∧ Ign π .vxes ∧ Ign π .stes ∧ Ign π .chains ∧ Ign π .stks ∧ Ign π .tlbs ∧ Ign π .nmes ∧ Ign π .kvfs ∧ Ign π .links ∧ Ign π .lgs ∧ Ign π .cles ∧ Ign π .pairs ∧ Ign π .tals ∧ Ign π .ldgs ∧ Ign π .wchs ∧ Ign π .cycles ∧ Ign π .pcx ∧ Ign π .funcs ∧ Ign π .pwr ∧ Ign π .jtag ∧ Ign π .timers := by simp [hW])
    : see π (stateOf (execBypass code s) s) = see π s := by
  rw [execBypass.eq_def, stateOf_okIf]; split <;> simp [hW]

@[simp ↓] theorem execTestLogicReset_see (s : State) (hW : Ign π .mem ∧ Ign π .poison ∧ Ign π .blocks ∧ Ign π .tiles ∧ Ign π .mxes ∧ Ign π .vxes ∧ Ign π .stes ∧ Ign π .chains ∧ Ign π .stks ∧ Ign π .tlbs ∧ Ign π .nmes ∧ Ign π .kvfs ∧ Ign π .links ∧ Ign π .lgs ∧ Ign π .cles ∧ Ign π .pairs ∧ Ign π .tals ∧ Ign π .ldgs ∧ Ign π .wchs ∧ Ign π .cycles ∧ Ign π .pcx ∧ Ign π .funcs ∧ Ign π .pwr ∧ Ign π .jtag ∧ Ign π .timers := by simp [hW])
    : see π (stateOf (execTestLogicReset s) s) = see π s := by
  rw [execTestLogicReset.eq_def, stateOf_next]; simp [hW]

@[simp ↓] theorem execPcieLinkUp_see (gen : BitVec 4) (width : BitVec 5) (flit : Bool) (s : State) (hW : Ign π .pcx ∧ Ign π .funcs := by simp [hW])
    : see π (stateOf (execPcieLinkUp gen width flit s) s) = see π s := by
  rw [execPcieLinkUp.eq_def, stateOf_okIf]; split <;> simp [hW]

@[simp ↓] theorem execPcieLinkDown_see (s : State) (hW : Ign π .blocks ∧ Ign π .pcx := by simp [hW])
    : see π (stateOf (execPcieLinkDown s) s) = see π s := by
  rw [execPcieLinkDown.eq_def, stateOf_next]; simp [hW]

@[simp ↓] theorem execHotReset_see (s : State) (hW : Ign π .pcx ∧ Ign π .funcs := by simp [hW])
    : see π (stateOf (execHotReset s) s) = see π s := by
  rw [execHotReset.eq_def, stateOf_next]; simp [hW]

@[simp ↓] theorem execFunctionLevelReset_see (fn : Fin 9) (s : State) (hW : Ign π .mem ∧ Ign π .poison ∧ Ign π .blocks ∧ Ign π .ctxs ∧ Ign π .ques ∧ Ign π .rels ∧ Ign π .tiles ∧ Ign π .mxes ∧ Ign π .vxes ∧ Ign π .stes ∧ Ign π .chains ∧ Ign π .stks ∧ Ign π .tlbs ∧ Ign π .nmes ∧ Ign π .kvfs ∧ Ign π .parts ∧ Ign π .sess ∧ Ign π .rings ∧ Ign π .bars ∧ Ign π .links ∧ Ign π .lgs ∧ Ign π .board ∧ Ign π .cles ∧ Ign π .pairs ∧ Ign π .tals ∧ Ign π .ldgs ∧ Ign π .wchs ∧ Ign π .cycles ∧ Ign π .pcx ∧ Ign π .funcs ∧ Ign π .pwr ∧ Ign π .timers := by simp [hW])
    : see π (stateOf (execFunctionLevelReset fn s) s) = see π s := by
  rw [execFunctionLevelReset.eq_def, stateOf_next]; dsimp only; (repeat' split) <;> simp [hW]

@[simp ↓] theorem execConfigurationWrite_see (fn : Fin 9) (numVfs : Option ℕ) (bme : Option Bool) (ats : Option Bool) (atomicEn : Option Bool) (msix : Option (Bool × Bool)) (s : State) (hW : Ign π .blocks ∧ Ign π .tals ∧ Ign π .pcx ∧ Ign π .funcs ∧ Ign π .out := by simp [hW])
    : see π (stateOf (execConfigurationWrite fn numVfs bme ats atomicEn msix s) s) = see π s := by
  rw [execConfigurationWrite.eq_def, stateOf_okIf]; dsimp only; (repeat' split) <;> simp [hW]

@[simp ↓] theorem execHostRequestTimeout_see (k : ℕ) (s : State) (hW : Ign π .mem ∧ Ign π .poison ∧ Ign π .blocks ∧ Ign π .img ∧ Ign π .ctxs ∧ Ign π .ques ∧ Ign π .tiles ∧ Ign π .stes ∧ Ign π .stks ∧ Ign π .tlbs ∧ Ign π .parts ∧ Ign π .tals ∧ Ign π .ldgs ∧ Ign π .fog ∧ Ign π .pcx ∧ Ign π .funcs ∧ Ign π .timers ∧ Ign π .out ∧ Ign π .free := by simp [hW])
    : see π (stateOf (execHostRequestTimeout k s) s) = see π s := by
  rw [execHostRequestTimeout.eq_def, stateOf_next]; dsimp only; (repeat' split) <;> simp [hW]

@[simp ↓] theorem execAtsInvalidation_see (fn : Fin 9) (addr : W64) (pages : ℕ) (s : State) (hW : Ign π .funcs ∧ Ign π .out := by simp [hW])
    : see π (stateOf (execAtsInvalidation fn addr pages s) s) = see π s := by
  rw [execAtsInvalidation.eq_def, stateOf_next]; simp [hW]

@[simp ↓] theorem execIdeIntegrityFailure_see (s : State) (hW : Ign π .pcx := by simp [hW])
    : see π (stateOf (execIdeIntegrityFailure s) s) = see π s := by
  rw [execIdeIntegrityFailure.eq_def, stateOf_next]; simp [hW]

@[simp ↓] theorem State.writeArrives_see (s : State) (m : Master) (hW : Ign π .mem ∧ Ign π .poison ∧ Ign π .blocks ∧ Ign π .tiles ∧ Ign π .tals ∧ Ign π .funcs := by simp [hW])
    : see π (State.writeArrives s m) = see π s := by
  rw [State.writeArrives.eq_def]; (repeat' split) <;> simp [hW]

@[simp ↓] theorem execRegisterWrite_see (m : Master) (addr : ℕ) (v : W32) (s : State) (hW : Ign π .mem ∧ Ign π .poison ∧ Ign π .blocks ∧ Ign π .img ∧ Ign π .ctxs ∧ Ign π .ques ∧ Ign π .rels ∧ Ign π .tiles ∧ Ign π .mxes ∧ Ign π .vxes ∧ Ign π .stes ∧ Ign π .chains ∧ Ign π .stks ∧ Ign π .tlbs ∧ Ign π .nmes ∧ Ign π .kvfs ∧ Ign π .parts ∧ Ign π .sess ∧ Ign π .rings ∧ Ign π .bars ∧ Ign π .links ∧ Ign π .lgs ∧ Ign π .board ∧ Ign π .cles ∧ Ign π .pairs ∧ Ign π .tals ∧ Ign π .ldgs ∧ Ign π .wchs ∧ Ign π .chans ∧ Ign π .cycles ∧ Ign π .fog ∧ Ign π .pcx ∧ Ign π .funcs ∧ Ign π .mgt ∧ Ign π .otp ∧ Ign π .sec ∧ Ign π .pwr ∧ Ign π .boot ∧ Ign π .timers ∧ Ign π .rr ∧ Ign π .out ∧ Ign π .free := by simp [hW])
    : see π (stateOf (execRegisterWrite m addr v s) s) = see π s := by
  rw [execRegisterWrite.eq_def, stateOf_okIf]; (repeat' split) <;> simp [hW]

@[simp ↓] theorem execBar0Access_see (fn : Fin 9) (off : ℕ) (w : Option W32) (s : State) (hW : Ign π .mem ∧ Ign π .poison ∧ Ign π .blocks ∧ Ign π .img ∧ Ign π .ctxs ∧ Ign π .ques ∧ Ign π .rels ∧ Ign π .tiles ∧ Ign π .mxes ∧ Ign π .vxes ∧ Ign π .stes ∧ Ign π .chains ∧ Ign π .stks ∧ Ign π .tlbs ∧ Ign π .nmes ∧ Ign π .kvfs ∧ Ign π .parts ∧ Ign π .sess ∧ Ign π .rings ∧ Ign π .bars ∧ Ign π .links ∧ Ign π .lgs ∧ Ign π .board ∧ Ign π .cles ∧ Ign π .pairs ∧ Ign π .tals ∧ Ign π .ldgs ∧ Ign π .wchs ∧ Ign π .chans ∧ Ign π .cycles ∧ Ign π .fog ∧ Ign π .pcx ∧ Ign π .funcs ∧ Ign π .mgt ∧ Ign π .otp ∧ Ign π .sec ∧ Ign π .pwr ∧ Ign π .boot ∧ Ign π .timers ∧ Ign π .rr ∧ Ign π .out ∧ Ign π .free := by simp [hW])
    : see π (stateOf (execBar0Access fn off w s) s) = see π s := by
  rw [execBar0Access.eq_def, stateOf_okIf]
  have hb : ∀ (b : Bool) (t : State), see π t = see π s → see π (if b then t else s) = see π s := by
    intro b t h; cases b
    · rfl
    · exact h
  refine hb _ _ ?_
  split
  · rfl
  · split
    · exact State.bar0Read_see ..
    · rw [State.bar0Write_see, State.flushPosted_see, State.countIo_see]

@[simp ↓] theorem execBar2Access_see (fn : Fin 9) (off : ℕ) (len : ℕ) (w : Option (List Byte)) (relaxed : Bool) (s : State) (hW : Ign π .mem ∧ Ign π .poison ∧ Ign π .blocks ∧ Ign π .img ∧ Ign π .ctxs ∧ Ign π .ques ∧ Ign π .rels ∧ Ign π .tiles ∧ Ign π .mxes ∧ Ign π .vxes ∧ Ign π .stes ∧ Ign π .chains ∧ Ign π .stks ∧ Ign π .tlbs ∧ Ign π .nmes ∧ Ign π .kvfs ∧ Ign π .parts ∧ Ign π .sess ∧ Ign π .rings ∧ Ign π .bars ∧ Ign π .links ∧ Ign π .lgs ∧ Ign π .board ∧ Ign π .cles ∧ Ign π .pairs ∧ Ign π .tals ∧ Ign π .ldgs ∧ Ign π .wchs ∧ Ign π .chans ∧ Ign π .cycles ∧ Ign π .fog ∧ Ign π .pcx ∧ Ign π .funcs ∧ Ign π .mgt ∧ Ign π .otp ∧ Ign π .sec ∧ Ign π .pwr ∧ Ign π .boot ∧ Ign π .timers ∧ Ign π .rr ∧ Ign π .out ∧ Ign π .free := by simp [hW])
    : see π (stateOf (execBar2Access fn off len w relaxed s) s) = see π s := by
  rw [execBar2Access.eq_def, stateOf_okIf]
  split
  · split
    · rfl
    · split
      · split
        · exact State.complete_see ..
        · rfl
      · split
        · exact State.bar2Read_see ..
        · exact State.bar2Write_see ..
  · rfl

@[simp ↓] theorem execHostPostedWrite_see (fn : Fin 9) (k : ℕ) (s : State) (hW : Ign π .mem ∧ Ign π .poison ∧ Ign π .blocks ∧ Ign π .tiles ∧ Ign π .tals ∧ Ign π .funcs := by simp [hW])
    : see π (stateOf (execHostPostedWrite fn k s) s) = see π s := by
  rw [execHostPostedWrite.eq_def, stateOf_next]; dsimp only; (repeat' split) <;> simp [hW]

@[simp ↓] theorem execHostAtomic_see (fn : Fin 9) (off : ℕ) (op : AtomOp) (bytes : ℕ) (v : ℕ) (s : State) (hW : Ign π .mem ∧ Ign π .poison ∧ Ign π .blocks ∧ Ign π .tiles ∧ Ign π .tals ∧ Ign π .funcs ∧ Ign π .out := by simp [hW])
    : see π (stateOf (execHostAtomic fn off op bytes v s) s) = see π s := by
  rw [execHostAtomic.eq_def, stateOf_okIf]; dsimp only; (repeat' split) <;> simp [hW]

@[simp ↓] theorem execAtomicAtHome_see (m : Master) (addr : ℕ) (op : AtomOp) (bytes : ℕ) (v : ℕ) (s : State) (hW : Ign π .mem ∧ Ign π .poison ∧ Ign π .blocks ∧ Ign π .tiles ∧ Ign π .tals ∧ Ign π .pcx ∧ Ign π .funcs ∧ Ign π .out ∧ Ign π .free := by simp [hW])
    : see π (stateOf (execAtomicAtHome m addr op bytes v s) s) = see π s := by
  rw [execAtomicAtHome.eq_def, stateOf_okIf]; dsimp only; (repeat' split) <;> simp [hW]

@[simp ↓] theorem execHostAtomicEmulate_see (k : ℕ) (readBack : Option ℕ) (casOk : Bool) (s : State) (hW : Ign π .mem ∧ Ign π .poison ∧ Ign π .blocks ∧ Ign π .img ∧ Ign π .ctxs ∧ Ign π .ques ∧ Ign π .tiles ∧ Ign π .stes ∧ Ign π .stks ∧ Ign π .tlbs ∧ Ign π .parts ∧ Ign π .tals ∧ Ign π .ldgs ∧ Ign π .fog ∧ Ign π .pcx ∧ Ign π .funcs ∧ Ign π .timers ∧ Ign π .out ∧ Ign π .free := by simp [hW])
    : see π (stateOf (execHostAtomicEmulate k readBack casOk s) s) = see π s := by
  rw [execHostAtomicEmulate.eq_def, stateOf_next]; dsimp only; (repeat' split) <;> simp [hW]

@[simp ↓] theorem execKeeperAccess_see (core : Fin 16) (op : KeeperOp) (s : State) (hW : Ign π .mem ∧ Ign π .poison ∧ Ign π .blocks ∧ Ign π .img ∧ Ign π .ctxs ∧ Ign π .ques ∧ Ign π .rels ∧ Ign π .tiles ∧ Ign π .mxes ∧ Ign π .vxes ∧ Ign π .stes ∧ Ign π .chains ∧ Ign π .stks ∧ Ign π .tlbs ∧ Ign π .nmes ∧ Ign π .kvfs ∧ Ign π .parts ∧ Ign π .sess ∧ Ign π .rings ∧ Ign π .bars ∧ Ign π .links ∧ Ign π .lgs ∧ Ign π .board ∧ Ign π .cles ∧ Ign π .pairs ∧ Ign π .tals ∧ Ign π .ldgs ∧ Ign π .wchs ∧ Ign π .chans ∧ Ign π .cycles ∧ Ign π .fog ∧ Ign π .pcx ∧ Ign π .funcs ∧ Ign π .mgt ∧ Ign π .otp ∧ Ign π .sec ∧ Ign π .pwr ∧ Ign π .boot ∧ Ign π .timers ∧ Ign π .rr ∧ Ign π .out ∧ Ign π .free := by simp [hW])
    : see π (stateOf (execKeeperAccess core op s) s) = see π s := by
  rw [execKeeperAccess.eq_def, stateOf_okIf]; dsimp only; (repeat' split) <;> simp [hW]

@[simp ↓] theorem execSetdasa_see (addr : BitVec 7) (s : State) (hW : Ign π .mgt ∧ Ign π .out := by simp [hW])
    : see π (stateOf (execSetdasa addr s) s) = see π s := by
  rw [execSetdasa.eq_def, stateOf_next]; simp [hW]

@[simp ↓] theorem execEntdaa_see (addr : BitVec 7) (s : State) (hW : Ign π .mgt ∧ Ign π .out := by simp [hW])
    : see π (stateOf (execEntdaa addr s) s) = see π s := by
  rw [execEntdaa.eq_def, stateOf_next]; simp [hW]

@[simp ↓] theorem execSetEndpointId_see (eid : Byte) (s : State) (hW : Ign π .mgt ∧ Ign π .out := by simp [hW])
    : see π (stateOf (execSetEndpointId eid s) s) = see π s := by
  rw [execSetEndpointId.eq_def, stateOf_next]; simp [hW]

@[simp ↓] theorem execGetEndpointId_see (s : State) (hW : Ign π .out := by simp [hW])
    : see π (stateOf (execGetEndpointId s) s) = see π s := by
  rw [execGetEndpointId.eq_def, stateOf_next]; simp [hW]

@[simp ↓] theorem execGetMctpVersionSupport_see (typ : Byte) (s : State) (hW : Ign π .out := by simp [hW])
    : see π (stateOf (execGetMctpVersionSupport typ s) s) = see π s := by
  rw [execGetMctpVersionSupport.eq_def, stateOf_next]; simp [hW]

@[simp ↓] theorem execGetMessageTypeSupport_see (s : State) (hW : Ign π .out := by simp [hW])
    : see π (stateOf (execGetMessageTypeSupport s) s) = see π s := by
  rw [execGetMessageTypeSupport.eq_def, stateOf_next]; simp [hW]

@[simp ↓] theorem execGetVendorDefinedMessageSupport_see (sel : Byte) (s : State) (hW : Ign π .out := by simp [hW])
    : see π (stateOf (execGetVendorDefinedMessageSupport sel s) s) = see π s := by
  rw [execGetVendorDefinedMessageSupport.eq_def, stateOf_next]; simp [hW]

@[simp ↓] theorem execGetInfo_see (doe : Option (Fin 9)) (tag : BitVec 16) (s : State) (hW : Ign π .out := by simp [hW])
    : see π (stateOf (execGetInfo doe tag s) s) = see π s := by
  rw [execGetInfo.eq_def, stateOf_next]; simp [hW]

@[simp ↓] theorem execGetHealth_see (doe : Option (Fin 9)) (tag : BitVec 16) (s : State) (hW : Ign π .out := by simp [hW])
    : see π (stateOf (execGetHealth doe tag s) s) = see π s := by
  rw [execGetHealth.eq_def, stateOf_next]; simp [hW]

@[simp ↓] theorem execRegRead_see (doe : Option (Fin 9)) (tag : BitVec 16) (addr : W64) (count : ℕ) (s : State) (hW : Ign π .out := by simp [hW])
    : see π (stateOf (execRegRead doe tag addr count s) s) = see π s := by
  rw [execRegRead.eq_def, stateOf_next]; simp [hW]

@[simp ↓] theorem execRegWrite_see (doe : Option (Fin 9)) (tag : BitVec 16) (addr : W64) (words : List W32) (s : State) (hW : Ign π .mem ∧ Ign π .poison ∧ Ign π .blocks ∧ Ign π .img ∧ Ign π .ctxs ∧ Ign π .ques ∧ Ign π .rels ∧ Ign π .tiles ∧ Ign π .mxes ∧ Ign π .vxes ∧ Ign π .stes ∧ Ign π .chains ∧ Ign π .stks ∧ Ign π .tlbs ∧ Ign π .nmes ∧ Ign π .kvfs ∧ Ign π .parts ∧ Ign π .sess ∧ Ign π .rings ∧ Ign π .bars ∧ Ign π .links ∧ Ign π .lgs ∧ Ign π .board ∧ Ign π .cles ∧ Ign π .pairs ∧ Ign π .tals ∧ Ign π .ldgs ∧ Ign π .wchs ∧ Ign π .chans ∧ Ign π .cycles ∧ Ign π .fog ∧ Ign π .pcx ∧ Ign π .funcs ∧ Ign π .mgt ∧ Ign π .otp ∧ Ign π .sec ∧ Ign π .pwr ∧ Ign π .boot ∧ Ign π .timers ∧ Ign π .rr ∧ Ign π .out ∧ Ign π .free := by simp [hW])
    : see π (stateOf (execRegWrite doe tag addr words s) s) = see π s := by
  rw [execRegWrite.eq_def, stateOf_next]
  refine State.auteha_see _ _ _ _ _ (fun s => ?_)
  dsimp only
  split
  · exact foldl_see _ (fun s x => State.ctlWrite_see ..) _ _
  · rfl

@[simp ↓] theorem execFog_see (doe : Option (Fin 9)) (tag : BitVec 16) (order : FogOrder) (s : State) (hW : Ign π .blocks ∧ Ign π .tals ∧ Ign π .ldgs ∧ Ign π .fog ∧ Ign π .timers ∧ Ign π .out := by simp [hW])
    : see π (stateOf (execFog doe tag order s) s) = see π s := by
  rw [execFog.eq_def, stateOf_next]; (repeat' split) <;> simp [hW]

@[simp ↓] theorem execImgChunk_see (doe : Option (Fin 9)) (tag : BitVec 16) (off : W32) (data : List Byte) (s : State) (hW : Ign π .img ∧ Ign π .out := by simp [hW])
    : see π (stateOf (execImgChunk doe tag off data s) s) = see π s := by
  rw [execImgChunk.eq_def, stateOf_next]
  refine State.auteha_see _ _ _ _ _ (fun s => ?_)
  try dsimp only
  (repeat' split) <;> first | rfl | simp [hW]

@[simp ↓] theorem execReset_see (doe : Option (Fin 9)) (tag : BitVec 16) (level : ResetLevel) (s : State) (hW : Ign π .mem ∧ Ign π .poison ∧ Ign π .blocks ∧ Ign π .img ∧ Ign π .ctxs ∧ Ign π .ques ∧ Ign π .rels ∧ Ign π .tiles ∧ Ign π .mxes ∧ Ign π .vxes ∧ Ign π .stes ∧ Ign π .chains ∧ Ign π .stks ∧ Ign π .tlbs ∧ Ign π .nmes ∧ Ign π .kvfs ∧ Ign π .parts ∧ Ign π .sess ∧ Ign π .rings ∧ Ign π .bars ∧ Ign π .links ∧ Ign π .lgs ∧ Ign π .board ∧ Ign π .cles ∧ Ign π .pairs ∧ Ign π .tals ∧ Ign π .ldgs ∧ Ign π .wchs ∧ Ign π .chans ∧ Ign π .cycles ∧ Ign π .fog ∧ Ign π .pcx ∧ Ign π .funcs ∧ Ign π .mgt ∧ Ign π .otp ∧ Ign π .sec ∧ Ign π .pwr ∧ Ign π .boot ∧ Ign π .timers ∧ Ign π .rr ∧ Ign π .out := by simp [hW])
    : see π (stateOf (execReset doe tag level s) s) = see π s := by
  rw [execReset.eq_def, stateOf_next]
  have hl : see π (s.auteha doe 0x07 tag (fun s => ⟨0, [], s⟩)) = see π s := State.auteha_see _ _ _ _ _ (fun s => rfl)
  dsimp only
  split
  · refine State.auteha_see _ _ _ _ _ (fun s => ?_)
    (repeat' split) <;> first | rfl | exact execEngineReset_see ..
  · refine State.auteha_see _ _ _ _ _ (fun s => ?_)
    (repeat' split) <;> first | rfl | exact execPartitionReset_see ..
  · split
    · rw [State.chipReset_see, hl]
    · exact hl
  · split
    · rw [State.powerCycle_see, hl]
    · exact hl

@[simp ↓] theorem execAttest_see (doe : Option (Fin 9)) (tag : BitVec 16) (nonce : List Byte) (s : State) (hW : Ign π .out := by simp [hW])
    : see π (stateOf (execAttest doe tag nonce s) s) = see π s := by
  rw [execAttest.eq_def, stateOf_next]
  refine State.auteha_see _ _ _ _ _ (fun s => ?_)
  try dsimp only
  (repeat' split) <;> first | rfl | simp [hW]

@[simp ↓] theorem execGetIdentity_see (doe : Option (Fin 9)) (tag : BitVec 16) (s : State) (hW : Ign π .out := by simp [hW])
    : see π (stateOf (execGetIdentity doe tag s) s) = see π s := by
  rw [execGetIdentity.eq_def, stateOf_next]
  refine State.auteha_see _ _ _ _ _ (fun s => ?_)
  try dsimp only
  (repeat' split) <;> first | rfl | simp [hW]

@[simp ↓] theorem execOtpWriteGen_see (doe : Option (Fin 9)) (tag : BitVec 16) (block : List Byte) (keySlot : Byte) (pubKey : List Byte) (sig : List Byte) (readsBack : Bool) (s : State) (hW : Ign π .blocks ∧ Ign π .otp ∧ Ign π .out := by simp [hW])
    : see π (stateOf (execOtpWriteGen doe tag block keySlot pubKey sig readsBack s) s) = see π s := by
  rw [execOtpWriteGen.eq_def, stateOf_next]
  refine State.auteha_see _ _ _ _ _ (fun s => ?_)
  dsimp only
  (repeat' split) <;> first | rfl | exact see_otp (by simp [hW]) _ _ | (rw [State.alert_see]; exact see_otp (by simp [hW]) _ _)

@[simp ↓] theorem execIdeKeySet_see (doe : Option (Fin 9)) (tag : BitVec 16) (stream : Byte) (dir : Byte) (sub : Byte) (keySet : Byte) (ct : List Byte) (sealed : List Byte) (s : State) (hW : Ign π .blocks ∧ Ign π .pcx ∧ Ign π .out := by simp [hW])
    : see π (stateOf (execIdeKeySet doe tag stream dir sub keySet ct sealed s) s) = see π s := by
  rw [execIdeKeySet.eq_def, stateOf_next]
  refine State.auteha_see _ _ _ _ _ (fun s => ?_)
  try dsimp only
  (repeat' split) <;> first | rfl | simp [hW]

@[simp ↓] theorem execGetTid_see (s : State) (hW : Ign π .out := by simp [hW])
    : see π (stateOf (execGetTid s) s) = see π s := by
  rw [execGetTid.eq_def, stateOf_next]; simp [hW]

@[simp ↓] theorem execGetPldmVersion_see (typ : Byte) (s : State) (hW : Ign π .out := by simp [hW])
    : see π (stateOf (execGetPldmVersion typ s) s) = see π s := by
  rw [execGetPldmVersion.eq_def, stateOf_next]; simp [hW]

@[simp ↓] theorem execGetPldmTypes_see (s : State) (hW : Ign π .out := by simp [hW])
    : see π (stateOf (execGetPldmTypes s) s) = see π s := by
  rw [execGetPldmTypes.eq_def, stateOf_next]; simp [hW]

@[simp ↓] theorem execGetPldmCommands_see (typ : Byte) (s : State) (hW : Ign π .out := by simp [hW])
    : see π (stateOf (execGetPldmCommands typ s) s) = see π s := by
  rw [execGetPldmCommands.eq_def, stateOf_next]; simp [hW]

@[simp ↓] theorem execGetSensorReading_see (sensor : BitVec 16) (s : State) (hW : Ign π .out := by simp [hW])
    : see π (stateOf (execGetSensorReading sensor s) s) = see π s := by
  rw [execGetSensorReading.eq_def, stateOf_next]; (repeat' split) <;> simp [hW]

@[simp ↓] theorem execGetStateSensorReadings_see (_sensor : BitVec 16) (s : State) (hW : Ign π .out := by simp [hW])
    : see π (stateOf (execGetStateSensorReadings _sensor s) s) = see π s := by
  rw [execGetStateSensorReadings.eq_def, stateOf_next]; simp [hW]

@[simp ↓] theorem execGetPdrRepositoryInfo_see (s : State) (hW : Ign π .out := by simp [hW])
    : see π (stateOf (execGetPdrRepositoryInfo s) s) = see π s := by
  rw [execGetPdrRepositoryInfo.eq_def, stateOf_next]; simp [hW]

@[simp ↓] theorem execGetPdr_see (handle : W32) (s : State) (hW : Ign π .out := by simp [hW])
    : see π (stateOf (execGetPdr handle s) s) = see π s := by
  rw [execGetPdr.eq_def, stateOf_next]; simp [hW]

@[simp ↓] theorem execSetNumericEffecterValue_see (effecter : BitVec 16) (v : W32) (s : State) (hW : Ign π .blocks ∧ Ign π .out := by simp [hW])
    : see π (stateOf (execSetNumericEffecterValue effecter v s) s) = see π s := by
  rw [execSetNumericEffecterValue.eq_def, stateOf_next]; dsimp only; (repeat' split) <;> simp [hW]

@[simp ↓] theorem execGetNumericEffecterValue_see (effecter : BitVec 16) (s : State) (hW : Ign π .out := by simp [hW])
    : see π (stateOf (execGetNumericEffecterValue effecter s) s) = see π s := by
  rw [execGetNumericEffecterValue.eq_def, stateOf_next]; simp [hW]

@[simp ↓] theorem execQueryDeviceIdentifiers_see (s : State) (hW : Ign π .out := by simp [hW])
    : see π (stateOf (execQueryDeviceIdentifiers s) s) = see π s := by
  rw [execQueryDeviceIdentifiers.eq_def, stateOf_next]; simp [hW]

@[simp ↓] theorem execGetFirmwareParameters_see (s : State) (hW : Ign π .out := by simp [hW])
    : see π (stateOf (execGetFirmwareParameters s) s) = see π s := by
  rw [execGetFirmwareParameters.eq_def, stateOf_next]; simp [hW]

@[simp ↓] theorem execRequestUpdate_see (s : State) (hW : Ign π .mgt ∧ Ign π .out := by simp [hW])
    : see π (stateOf (execRequestUpdate s) s) = see π s := by
  rw [execRequestUpdate.eq_def, stateOf_next]
  refine State.pldm_see _ _ _ _ (fun s => ?_)
  try dsimp only
  (repeat' split) <;> first | rfl | simp [hW]

@[simp ↓] theorem execPassComponentTable_see (comps : List (BitVec 16)) (s : State) (hW : Ign π .mgt ∧ Ign π .out := by simp [hW])
    : see π (stateOf (execPassComponentTable comps s) s) = see π s := by
  rw [execPassComponentTable.eq_def, stateOf_next]
  refine State.pldm_see _ _ _ _ (fun s => ?_)
  try dsimp only
  (repeat' split) <;> first | rfl | simp [hW]

@[simp ↓] theorem execUpdateComponent_see (comp : BitVec 16) (size : ℕ) (s : State) (hW : Ign π .mgt ∧ Ign π .out := by simp [hW])
    : see π (stateOf (execUpdateComponent comp size s) s) = see π s := by
  have h : ∀ (f : State → Byte × List Byte × State) (hf : ∀ s, see π (f s).2.2 = see π s), see π (s.pldm 5 0x14 f) = see π s := fun f hf => State.pldm_see s _ _ f hf
  rw [execUpdateComponent.eq_def, stateOf_next]
  dsimp only
  split
  · rw [State.emit_see]; refine h _ (fun s => ?_); (repeat' split) <;> simp [hW]
  · refine h _ (fun s => ?_); (repeat' split) <;> simp [hW]

@[simp ↓] theorem execFirmwareData_see (off : ℕ) (data : List Byte) (last : Bool) (s : State) (hW : Ign π .flash ∧ Ign π .blocks ∧ Ign π .mgt ∧ Ign π .out := by simp [hW])
    : see π (stateOf (execFirmwareData off data last s) s) = see π s := by
  rw [execFirmwareData.eq_def, stateOf_next]; simp [hW]

@[simp ↓] theorem execActivateFirmware_see (selfContained : Bool) (s : State) (hW : Ign π .mgt ∧ Ign π .out := by simp [hW])
    : see π (stateOf (execActivateFirmware selfContained s) s) = see π s := by
  rw [execActivateFirmware.eq_def, stateOf_next]
  refine State.pldm_see _ _ _ _ (fun s => ?_)
  try dsimp only
  (repeat' split) <;> first | rfl | simp [hW]

@[simp ↓] theorem execGetStatus_see (s : State) (hW : Ign π .out := by simp [hW])
    : see π (stateOf (execGetStatus s) s) = see π s := by
  rw [execGetStatus.eq_def, stateOf_next]; simp [hW]

@[simp ↓] theorem execCancelUpdateComponent_see (s : State) (hW : Ign π .mgt ∧ Ign π .out := by simp [hW])
    : see π (stateOf (execCancelUpdateComponent s) s) = see π s := by
  rw [execCancelUpdateComponent.eq_def, stateOf_next]
  refine State.pldm_see _ _ _ _ (fun s => ?_)
  try dsimp only
  (repeat' split) <;> first | rfl | simp [hW]

@[simp ↓] theorem execCancelUpdate_see (s : State) (hW : Ign π .mgt ∧ Ign π .out := by simp [hW])
    : see π (stateOf (execCancelUpdate s) s) = see π s := by
  rw [execCancelUpdate.eq_def, stateOf_next]
  refine State.pldm_see _ _ _ _ (fun s => ?_)
  try dsimp only
  (repeat' split) <;> first | rfl | simp [hW]

@[simp ↓] theorem execCommandBegin_see (p : Fin 8) (q : Fin 2048) (i : Fin 32) (s : State) (hW : Ign π .mem ∧ Ign π .poison ∧ Ign π .blocks ∧ Ign π .ctxs ∧ Ign π .ques ∧ Ign π .tiles ∧ Ign π .mxes ∧ Ign π .vxes ∧ Ign π .stes ∧ Ign π .chains ∧ Ign π .tlbs ∧ Ign π .nmes ∧ Ign π .parts ∧ Ign π .cles ∧ Ign π .pairs ∧ Ign π .tals ∧ Ign π .ldgs ∧ Ign π .fog ∧ Ign π .funcs ∧ Ign π .timers ∧ Ign π .rr ∧ Ign π .out ∧ Ign π .free := by simp [hW])
    : see π (stateOf (execCommandBegin p q i s) s) = see π s := by
  rw [execCommandBegin.eq_def, stateOf_next]; dsimp only; (repeat' split) <;> simp [hW]

end Sys2Proof.Machine
end

