-- ==== Sys2Proof/Laws/Memory.lean ====
section
/-!
SUPPORT. Laws of the addressed memories: what a store leaves at its own addresses and elsewhere, and that every
operation keeps the canonical form.
-/
namespace Sys2Proof.Machine

/-! ## Device memory -/

theorem get_memPut (m : List Host.Cell) (a j : Nat) (bs : List Byte) :
    SMap.get 0 (memPut m a bs) j = if a ≤ j ∧ j < a + bs.length then bs.getD (j - a) 0 else SMap.get 0 m j := by
  induction bs generalizing m a with
  | nil => simp [memPut]
  | cons b bs ih =>
    rw [memPut, ih]
    by_cases h : j = a
    · subst h; simp
    · by_cases h2 : a + 1 ≤ j ∧ j < a + 1 + bs.length
      · have e : j - a = (j - (a + 1)) + 1 := by omega
        rw [if_pos h2, if_pos (by simp; omega), e]; rfl
      · rw [if_neg h2, if_neg (by simp; omega)]; simp [h]

theorem memPut_wf (m : List Host.Cell) (a : Nat) (bs : List Byte) (h : Memory.wf 0 m = true) :
    Memory.wf 0 (memPut m a bs) = true := by
  induction bs generalizing m a with
  | nil => exact h
  | cons b bs ih => exact ih _ _ (SMap.wf_set 0 m a b h)

theorem State.unabort_mem (s : State) (a n : Nat) : (s.unabort a n).mem = s.mem := by
  unfold State.unabort; split
  · dsimp only; split <;> rfl
  · rfl

/-- A store is read back at the bytes it stores and leaves every other byte. -/
theorem State.readByte_writeBytes (s : State) (a j : Nat) (bs : List Byte) :
    (s.writeBytes a bs).readByte j = if a ≤ j ∧ j < a + bs.length then bs.getD (j - a) 0 else s.readByte j := by
  simp only [State.readByte, State.writeBytes]
  exact get_memPut s.mem a j bs

theorem State.writeBytes_mem_wf (s : State) (a : Nat) (bs : List Byte) (h : Memory.wf 0 s.mem = true) :
    Memory.wf 0 (s.writeBytes a bs).mem = true := memPut_wf s.mem a bs h

theorem State.writeLe_mem_wf (s : State) (a n v : Nat) (h : Memory.wf 0 s.mem = true) :
    Memory.wf 0 (s.writeLe a n v).mem = true := memPut_wf s.mem a _ h

theorem State.zeroRange_mem_wf (s : State) (lo n : Nat) (h : Memory.wf 0 s.mem = true) :
    Memory.wf 0 (s.zeroRange lo n).mem = true := SMap.wf_filter 0 _ s.mem h

theorem State.zeroChanged_mem_wf (s : State) (old new : Option ImageCfg) (mask : BitVec 8) (h : Memory.wf 0 s.mem = true) :
    Memory.wf 0 (s.zeroChanged old new mask).mem = true := SMap.wf_filter 0 _ s.mem h

/-! ## Flash and the image buffer -/

theorem flashPut_wf (m : List (Nat × Byte)) (a : Nat) (bs : List Byte) (h : Memory.wf 0xFF m = true) :
    Memory.wf 0xFF (flashPut m a bs) = true := by
  induction bs generalizing m a with
  | nil => exact h
  | cons b bs ih => exact ih _ _ (SMap.wf_set 0xFF m a b h)

theorem foldl_set_wf (m : List (Nat × Byte)) (is : List Nat) (c : Nat → Bool) (k : Nat → Nat) (v : Nat → Byte)
    (h : Memory.wf 0 m = true) :
    Memory.wf 0 (is.foldl (fun m i => if c i then SMap.set 0 m (k i) (v i) else m) m) = true := by
  induction is generalizing m with
  | nil => exact h
  | cons i is ih =>
    apply ih
    by_cases hc : c i = true
    · simp only [hc, if_true]; exact SMap.wf_set 0 m _ _ h
    · simp only [hc]; exact h

theorem State.imgPut_buf_wf (s : State) (off : Nat) (bs : List Byte) (h : Memory.wf 0 s.img.buf = true) :
    Memory.wf 0 (s.imgPut off bs).img.buf = true := by
  have := foldl_set_wf s.img.buf (List.range bs.length) (fun i => decide (off + i < 0x100000)) (fun i => off + i)
    (fun i => bs.getD i 0) h
  simpa [State.imgPut] using this

theorem reset_memWf : State.reset.memWf = true := by decide

end Sys2Proof.Machine
end

