-- ==== Sys2Proof/Laws/Views.lean ====
section
/-!
SUPPORT. A field of the state as a view: it ignores every other field, so each lemma of Laws/Frame.lean and
Laws/Exec.lean says of it that the operation leaves it as it was.
-/
namespace Sys2Proof.Machine

@[simp] theorem ign_mem (f : Fld) (h : f ≠ .mem) : Ign State.mem f := by
  cases f <;> first | exact absurd rfl h | exact fun _ _ => rfl

@[simp] theorem ign_poison (f : Fld) (h : f ≠ .poison) : Ign State.poison f := by
  cases f <;> first | exact absurd rfl h | exact fun _ _ => rfl

@[simp] theorem ign_flash (f : Fld) (h : f ≠ .flash) : Ign State.flash f := by
  cases f <;> first | exact absurd rfl h | exact fun _ _ => rfl

@[simp] theorem ign_blocks (f : Fld) (h : f ≠ .blocks) : Ign State.blocks f := by
  cases f <;> first | exact absurd rfl h | exact fun _ _ => rfl

@[simp] theorem ign_img (f : Fld) (h : f ≠ .img) : Ign State.img f := by
  cases f <;> first | exact absurd rfl h | exact fun _ _ => rfl

@[simp] theorem ign_ctxs (f : Fld) (h : f ≠ .ctxs) : Ign State.ctxs f := by
  cases f <;> first | exact absurd rfl h | exact fun _ _ => rfl

@[simp] theorem ign_ques (f : Fld) (h : f ≠ .ques) : Ign State.ques f := by
  cases f <;> first | exact absurd rfl h | exact fun _ _ => rfl

@[simp] theorem ign_rels (f : Fld) (h : f ≠ .rels) : Ign State.rels f := by
  cases f <;> first | exact absurd rfl h | exact fun _ _ => rfl

@[simp] theorem ign_tiles (f : Fld) (h : f ≠ .tiles) : Ign State.tiles f := by
  cases f <;> first | exact absurd rfl h | exact fun _ _ => rfl

@[simp] theorem ign_mxes (f : Fld) (h : f ≠ .mxes) : Ign State.mxes f := by
  cases f <;> first | exact absurd rfl h | exact fun _ _ => rfl

@[simp] theorem ign_vxes (f : Fld) (h : f ≠ .vxes) : Ign State.vxes f := by
  cases f <;> first | exact absurd rfl h | exact fun _ _ => rfl

@[simp] theorem ign_stes (f : Fld) (h : f ≠ .stes) : Ign State.stes f := by
  cases f <;> first | exact absurd rfl h | exact fun _ _ => rfl

@[simp] theorem ign_chains (f : Fld) (h : f ≠ .chains) : Ign State.chains f := by
  cases f <;> first | exact absurd rfl h | exact fun _ _ => rfl

@[simp] theorem ign_stks (f : Fld) (h : f ≠ .stks) : Ign State.stks f := by
  cases f <;> first | exact absurd rfl h | exact fun _ _ => rfl

@[simp] theorem ign_tlbs (f : Fld) (h : f ≠ .tlbs) : Ign State.tlbs f := by
  cases f <;> first | exact absurd rfl h | exact fun _ _ => rfl

@[simp] theorem ign_nmes (f : Fld) (h : f ≠ .nmes) : Ign State.nmes f := by
  cases f <;> first | exact absurd rfl h | exact fun _ _ => rfl

@[simp] theorem ign_kvfs (f : Fld) (h : f ≠ .kvfs) : Ign State.kvfs f := by
  cases f <;> first | exact absurd rfl h | exact fun _ _ => rfl

@[simp] theorem ign_parts (f : Fld) (h : f ≠ .parts) : Ign State.parts f := by
  cases f <;> first | exact absurd rfl h | exact fun _ _ => rfl

@[simp] theorem ign_sess (f : Fld) (h : f ≠ .sess) : Ign State.sess f := by
  cases f <;> first | exact absurd rfl h | exact fun _ _ => rfl

@[simp] theorem ign_rings (f : Fld) (h : f ≠ .rings) : Ign State.rings f := by
  cases f <;> first | exact absurd rfl h | exact fun _ _ => rfl

@[simp] theorem ign_bars (f : Fld) (h : f ≠ .bars) : Ign State.bars f := by
  cases f <;> first | exact absurd rfl h | exact fun _ _ => rfl

@[simp] theorem ign_links (f : Fld) (h : f ≠ .links) : Ign State.links f := by
  cases f <;> first | exact absurd rfl h | exact fun _ _ => rfl

@[simp] theorem ign_lgs (f : Fld) (h : f ≠ .lgs) : Ign State.lgs f := by
  cases f <;> first | exact absurd rfl h | exact fun _ _ => rfl

@[simp] theorem ign_board (f : Fld) (h : f ≠ .board) : Ign State.board f := by
  cases f <;> first | exact absurd rfl h | exact fun _ _ => rfl

@[simp] theorem ign_cles (f : Fld) (h : f ≠ .cles) : Ign State.cles f := by
  cases f <;> first | exact absurd rfl h | exact fun _ _ => rfl

@[simp] theorem ign_pairs (f : Fld) (h : f ≠ .pairs) : Ign State.pairs f := by
  cases f <;> first | exact absurd rfl h | exact fun _ _ => rfl

@[simp] theorem ign_tals (f : Fld) (h : f ≠ .tals) : Ign State.tals f := by
  cases f <;> first | exact absurd rfl h | exact fun _ _ => rfl

@[simp] theorem ign_ldgs (f : Fld) (h : f ≠ .ldgs) : Ign State.ldgs f := by
  cases f <;> first | exact absurd rfl h | exact fun _ _ => rfl

@[simp] theorem ign_wchs (f : Fld) (h : f ≠ .wchs) : Ign State.wchs f := by
  cases f <;> first | exact absurd rfl h | exact fun _ _ => rfl

@[simp] theorem ign_chans (f : Fld) (h : f ≠ .chans) : Ign State.chans f := by
  cases f <;> first | exact absurd rfl h | exact fun _ _ => rfl

@[simp] theorem ign_cycles (f : Fld) (h : f ≠ .cycles) : Ign State.cycles f := by
  cases f <;> first | exact absurd rfl h | exact fun _ _ => rfl

@[simp] theorem ign_fog (f : Fld) (h : f ≠ .fog) : Ign State.fog f := by
  cases f <;> first | exact absurd rfl h | exact fun _ _ => rfl

@[simp] theorem ign_pcx (f : Fld) (h : f ≠ .pcx) : Ign State.pcx f := by
  cases f <;> first | exact absurd rfl h | exact fun _ _ => rfl

@[simp] theorem ign_funcs (f : Fld) (h : f ≠ .funcs) : Ign State.funcs f := by
  cases f <;> first | exact absurd rfl h | exact fun _ _ => rfl

@[simp] theorem ign_mgt (f : Fld) (h : f ≠ .mgt) : Ign State.mgt f := by
  cases f <;> first | exact absurd rfl h | exact fun _ _ => rfl

@[simp] theorem ign_otp (f : Fld) (h : f ≠ .otp) : Ign State.otp f := by
  cases f <;> first | exact absurd rfl h | exact fun _ _ => rfl

@[simp] theorem ign_sec (f : Fld) (h : f ≠ .sec) : Ign State.sec f := by
  cases f <;> first | exact absurd rfl h | exact fun _ _ => rfl

@[simp] theorem ign_pwr (f : Fld) (h : f ≠ .pwr) : Ign State.pwr f := by
  cases f <;> first | exact absurd rfl h | exact fun _ _ => rfl

@[simp] theorem ign_boot (f : Fld) (h : f ≠ .boot) : Ign State.boot f := by
  cases f <;> first | exact absurd rfl h | exact fun _ _ => rfl

@[simp] theorem ign_jtag (f : Fld) (h : f ≠ .jtag) : Ign State.jtag f := by
  cases f <;> first | exact absurd rfl h | exact fun _ _ => rfl

@[simp] theorem ign_straps (f : Fld) (h : f ≠ .straps) : Ign State.straps f := by
  cases f <;> first | exact absurd rfl h | exact fun _ _ => rfl

@[simp] theorem ign_timers (f : Fld) (h : f ≠ .timers) : Ign State.timers f := by
  cases f <;> first | exact absurd rfl h | exact fun _ _ => rfl

@[simp] theorem ign_rr (f : Fld) (h : f ≠ .rr) : Ign State.rr f := by
  cases f <;> first | exact absurd rfl h | exact fun _ _ => rfl

@[simp] theorem ign_out (f : Fld) (h : f ≠ .out) : Ign State.out f := by
  cases f <;> first | exact absurd rfl h | exact fun _ _ => rfl

@[simp] theorem ign_free (f : Fld) (h : f ≠ .free) : Ign State.free f := by
  cases f <;> first | exact absurd rfl h | exact fun _ _ => rfl

@[simp] theorem ign_pending (f : Fld) (h : f ≠ .pending) : Ign State.pending f := by
  cases f <;> first | exact absurd rfl h | exact fun _ _ => rfl

end Sys2Proof.Machine
end

