-- ==== Sys2Proof/Tests/Slice0.lean ====
section
/-!
SUPPORT. The model's own tests. The first part shows that an ill-formed term of each row with a check is refused, and a
boundary value of it taken. The second shows, for every statement of Certificates/Slice0/Obligations.lean, operands and a
state that meet the premises of each of its clauses; a state is `W`, a device that runs one partition, with what the clause
needs put into it.
-/
namespace Sys2Proof.Tests
open Sys2Proof Sys2Proof.Machine

set_option maxRecDepth 8000
set_option Elab.async false

/-! ## States -/

/-- One partition on all units, with 4 contexts, 4 queues and 4 sessions, and 1 GiB of interleaved memory in each stack. -/
def img0 : ImageCfg :=
  ⟨[⟨0, 0, 0xFFF, 0xFF, 0x3F, 4, 4, 4, 4, List.replicate 12 4, 0xFFFF, 0xFFFF⟩], noMask, [], 0, [], [((1, 0), [])]⟩

def comm (l : List (Nat × W32)) : BlockRegs := { BlockRegs.reset with comm := l }

/-- A running device: every domain on, its stacks trained, its image applied, the runtime of its lead pair RUNNING. Context 0
is ACTIVE with marks 0 to 15 at address 0; its queues 0 and 2 hold 64 records each, queue 2 a session queue. Its first
1 GiB lies in the interleaved region, the 2 MiB pages above that in the host aperture, nowhere, and in tile 0's scratchpad. -/
def W : State :=
  { State.reset with
    mem := [(0x1000, 0x01), (0x1001, 0x20), (0x2000, 0x17), (0x2008, 0x01), (0x2009, 0x30),
            (0x3000, 0x07), (0x3005, 0x80), (0x3008, 0x08), (0x3010, 0x07), (0x3015, 0x10)]
    blocks := [(1024, comm [(0x2000, 0x1001), (0x200C, 0x000F_0000)]),
               (1088, comm [(0x8000, 0x1_0000), (0x8004, 0x8000_0000), (0x8020, 0x2_0000), (0x8024, 0x9000_0000)])]
    pwr := { Pwr.reset with aux := true, v48 := true, spine := true, conv := true, on := 0 - 1 }
    img := { Img.reset with applied := some img0 }
    boot := ⟨true, true, true, true, true, true, false, false, []⟩
    pcx := { Pcx.reset with up := true, perst := false }
    funcs := [(0, { Func.reset with present := true, bme := true, atomicEn := true, msixEn := true })]
    parts := [(0, { Part.reset with ready := true, home := some 0 })]
    pairs := [(0, { Pair.reset with inReset := false, st := .running })]
    ctxs := [(0, ⟨.active, 1⟩)]
    stks := (List.range 12).map (fun k => (k, { Stack.reset with st := .ready })) }

/-- `W` with committed words in a block. -/
def wBlk (b : BlkId) (r : BlockRegs) : State := W.setBlk b r

/-! ## Well-formed terms -/

def f0 : Frame := ⟨0, 0, false, 0, false, false, 0, 0, 0, 0, 0, 0, []⟩

/-- An ill-formed term of each row that has a check, just past what the row takes. -/
theorem test_illFormedTermsAreRefused :
    ∀ i ∈ ([.registerWrite .pf 0x2000_0000_0002 0, .go .pf ⟨.tile, 48⟩, .discard .pf ⟨.nme, 12⟩, .snapshotApply ⟨.pcx, 1⟩ 0,
      .flitTransfer ⟨.tile 0, .tile 1, false⟩ (.tile 0, .tile 1) false, .imgBufWrite .pf 2 0, .imgBufWrite .pf 0x100000 0,
      .hostAtomic 0 4 .add 8 0, .hostAtomic 0 0 .add 16 0, .atomicAtHome .pf 4 .maxU 8 0] ++
     [.atomicAtHome .pf 0 .swap 2 0, .keeperAccess 0 (.load 0 65), .keeperAccess 0 (.store 0 []),
      .keeperAccess 0 (.amo .add 0 2 0), .bar0Access 0 2 none, .bar0Access 0 0x400_0000 none, .bar0Access 1 0x100_0000 none,
      .bar2Access 0 0 0 none false, .bar2Access 0 4095 2 none false, .bar2Access 0 0 2 (some [1]) false] ++
     [.talClear .pf ⟨.tile, 0⟩ 0 0, .talClear .pf ⟨.talTile, 48⟩ 0 0, .ldgArm .pf ⟨.tile, 0⟩, .ldgStop .pf ⟨.ldgStack, 12⟩,
      .ldgTrigger .pf ⟨.ldgTile, 48⟩, .ldgBurstAck ⟨.wch, 0⟩ true, .ldgRdSelWrite .pf ⟨.que, 0⟩ 0,
      .thermalSample 0 0 0 (List.replicate 11 0), .bypass 3, .pcieLinkUp 8 16 true] ++
     [.pcieLinkUp 0 16 true, .pcieLinkUp 5 12 true, .pcieLinkUp 6 16 false,
      .configurationWrite 1 (some 8) none none none none] : List Instr), i.wf = false := by decide +kernel

theorem test_illFormedTermsStop : exec (.registerWrite .pf 0x2000_0000_0002 0) State.reset = .fault .illFormed ∧
    exec (.bypass 3) State.reset = .fault .illFormed ∧ exec (.pcieLinkUp 8 16 true) State.reset = .fault .illFormed ∧
    exec (.imgBufWrite .pf 0x100000 0) State.reset = .fault .illFormed := ⟨rfl, rfl, rfl, rfl⟩

/-- The same rows at the last operands they take. -/
theorem test_boundaryTermsAreTaken :
    [Instr.registerWrite .pf 0x2000_0000_0004 0, .go .pf ⟨.tile, 47⟩, .discard .pf ⟨.nme, 11⟩, .snapshotApply ⟨.pcx, 0⟩ 0,
      .flitTransfer ⟨.tile 0, .tile 1, false⟩ (.tile 0, .router 0 0) false, .imgBufWrite .pf 0xFFFFC 0, .hostAtomic 0 8 .add 8 0,
      .atomicAtHome .pf 16 (.cas 0) 16 0, .keeperAccess 0 (.load 0 64), .bar0Access 0 0x3FF_FFFC none,
      .bar0Access 1 0xFF_FFFC none, .bar2Access 0 4095 1 (some [1]) false, .talClear .pf ⟨.talTile, 47⟩ 255 255,
      .ldgArm .pf ⟨.ldgStack, 11⟩, .thermalSample 0 0 0 (List.replicate 12 0), .bypass 4, .pcieLinkUp 7 16 true,
      .configurationWrite 0 (some 8) none none none none].all Instr.wf = true := by decide +kernel

/-! ## Registers, commits, clocks and channels -/

theorem test_registerWriteChangesStagedValues :
    0x2000_0000_0040 % 4 = 0 ∧ ctlPlace 0x2000_0000_0040 = .reg ⟨.tile, 0⟩ 0x40 ∧ W.reaches .pf ⟨.tile, 0⟩ = true ∧
    W.deniedWrite .pf ⟨.tile, 0⟩ 0x40 = none ∧ (W.cmdWrite .pf ⟨.tile, 0⟩ 0x40 5).isNone = true ∧
    W.mayWrite .pf ⟨.tile, 0⟩ 0x40 = true ∧ W.talMasked .pf ⟨.tile, 0⟩ 0x40 = false ∧
    (regFields .tile 0x40).isSome = true ∧ W.regHere ⟨.tile, 0⟩ 0x40 = true ∧ isTal .tile = false ∧
    W.domOn (domKp 0) = true := by decide +kernel

theorem test_registerWriteOutsideChangesNothing :
    ctlPlace 0x2000_0030_0000 = .none ∧ ctlPlace 0x2000_0820_0000 = .none ∧
    State.reset.reaches .pf ⟨.tile, 47⟩ = false ∧ ctlPlace 0x2000_002F_0004 = .reg ⟨.tile, 47⟩ 4 ∧ 0x2000_0000_0002 % 4 ≠ 0 ∧
    masterFn .pf = some 0 ∧ State.reset.inReach 0 0x2000_002F_0004 = true ∧
    (let s : State := { W with img := Img.reset }
     s.reaches (.kp 0) ⟨.tile, 47⟩ = false ∧ s.domOn (domKp 0) = true ∧ chanRecord ⟨.tile, 47⟩ 4 = false) := by
  decide +kernel

/-- Tile 0 with `v` staged, and taken, as its FREQ_STEP. -/
def wStep (v : W32) : State :=
  wBlk ⟨.tile, 0⟩ { BlockRegs.reset with staged := [(0x40, v)], snap := [(0x40, v)], pend := [0] }

theorem test_goAndDiscardMoveTheSets :
    (0 < unitCount .tile ∧ (wStep 5).mayWrite .pf ⟨.tile, 0⟩ 0 = true ∧ (wStep 5).applying ⟨.tile, 0⟩ = false ∧
      (∀ x ∈ (changedOffs .tile ((wStep 5).blk ⟨.tile, 0⟩)).map (partOf .tile), partAtOnce .tile x = false)) ∧
    State.reset.mayWrite .pf ⟨.tile, 0⟩ 0 = false ∧
    { W with img := { W.img with busy := some .apply, pendingImage := some img0, mask := 1 } }.applying ⟨.tile, 0⟩ = true := by
  decide +kernel

theorem test_snapshotAppliesOnePart :
    (wStep 16).atSample ⟨.tile, 0⟩ 0 = true ∧ 0 ∈ ((wStep 5).blk ⟨.tile, 0⟩).pend ∧ changedOffs .tile ((wStep 5).blk ⟨.tile, 0⟩) = [0x40] ∧
    (wStep 5).keptBits ⟨.tile, 0⟩ 0x40 = 0 := by decide +kernel

theorem test_refusedFieldKeepsItsValue :
    let r := (wStep 0x11).blk ⟨.tile, 0⟩
    r.pend = [0] ∧ changedOffs .tile r = [0x40] ∧ (wStep 0x11).atSample ⟨.tile, 0⟩ 0 = true ∧
    0x10 < bitsOf (snapWord .tile r 0x40).toNat 4 0 ∧ snapWord .tile r 0x40 &&& 0xFFFFFFE0 = 0 ∧
    commWord .tile r 0x40 &&& 0xFFFFFFE0 = 0 := by decide +kernel

theorem test_frequencySwitchReachesTheTarget :
    ((W.setTile 47 { TileSt.reset with freq := ⟨16, 0, true⟩ }).tile 47).freq.switching = true ∧
    ((W.setPair 7 { Pair.reset with freq := ⟨11, 0, true⟩ }).pair 7).freq.switching = true := by decide +kernel

/-- A transfer from tile 0 to tile 1, by routers 0 and 1. -/
def x01 : Xfer := ⟨.tile 0, .tile 1, false⟩

/-- `W` with the channel from tile 0 to its router as given. -/
def wChan (a b : BitVec 16) (n : Nat) : State := W.setChan (chanKey (.tile 0) (.router 0 0)) ⟨a, b, List.replicate n x01⟩

theorem test_channelHoldsAtMost64Flits :
    joined (.tile 0) (.router 0 0) = true ∧ W.pwr.spine = true ∧ (pathOf x01).head? = some (.tile 0, .router 0 0) ∧
    W.portOn x01.dst = true ∧ nextHop (.tile 0, .router 0 0) (pathOf x01) = some (.router 0 4, .router 1 3) ∧
    (let f := fun s : State => (s.chan (chanKey (.tile 0) (.router 0 0))).count
     f (wChan 0x20 0xFFE0 64) = 64 ∧ f (wChan 0x1F 0xFFE0 63) = 63 ∧ f (wChan 1 0 1) = 1) ∧
    (∃ t, exec (.flitTransfer x01 (.tile 0, .router 0 0) false) (wChan 0x1F 0xFFE0 63) = .next t) ∧
    (let s := wChan 1 0 1
     (s.chan (chanKey (.tile 0) (.router 0 0))).flight.head? = some x01 ∧
       s.onward x01 (.tile 0, .router 0 0) = some (x01, (.router 0 4, .router 1 3)) ∧
       chanKey (.router 0 4) (.router 1 3) ≠ chanKey (.tile 0) (.router 0 0) ∧
       (W.setChan (chanKey (.router 1 0) (.tile 1)) ⟨1, 0, [x01]⟩).onward x01 (.router 1 0, .tile 1) = none) ∧
    (64 ≤ (((wChan 1 0 1).setChan (chanKey (.router 0 4) (.router 1 3)) ⟨64, 0, List.replicate 64 x01⟩).chan
      (chanKey (.router 0 4) (.router 1 3))).count) :=
  ⟨by decide +kernel, rfl, by decide +kernel, by decide +kernel, by decide +kernel, by decide +kernel, ⟨_, rfl⟩,
   by decide +kernel, by decide +kernel⟩

/-- R21: from tile 0 to tile 8 along the row of tile 0, then down column 2; to the other half by the bridge of the row. -/
theorem test_paths : routersOf ⟨.tile 0, .tile 8, false⟩ = [0, 1, 2, 8] ∧
    routersOf ⟨.tile 4, .tile 31, false⟩ = [4, 5, 24, 25, 31] := by decide +kernel

/-! ## Structure images -/

/-- `W` with the image block as given. -/
def wImg (f : Img → Img) : State := { W with img := f W.img }

theorem test_imageBufferHasOneOwner :
    W.imgReach .pf = true ∧ ownerCode .pf ≠ 0 ∧ W.img.owner = 0 ∧ W.imgReach .mgmt = true ∧
    (wImg (fun x => { x with owner := 1 })).imgOwns .pf = true ∧ (wImg (fun x => { x with owner := 1 })).imgOwns .mgmt = false ∧
    (wImg (fun x => { x with owner := 1 })).imgReach .mgmt = true ∧ 0xFFFFC % 4 = 0 ∧ 0xFFFFC < 0x100000 ∧
    ¬ (W.img.owner = 0 ∧ (2 : BitVec 2) = ownerCode .pf) ∧ ¬ (W.imgOwns .pf = true ∧ (2 : BitVec 2) = 0) ∧ Master.pf ≠ .mgmt := by
  decide +kernel

theorem test_imageCommandsRunForTheOwner :
    (let s := wImg (fun x => { x with owner := 2 }); s.imgReach .mgmt = true ∧ s.imgOwns .mgmt = true ∧ s.img.busy = none) ∧
    (let s := wImg (fun x => { x with owner := 2, busy := some .fetch })
     s.imgReach .mgmt = true ∧ s.imgOwns .mgmt = true ∧ s.img.busy ≠ none ∧ s.imgReach .pf = true ∧ s.imgOwns .pf = false) := by
  decide +kernel

theorem test_fetchAndVerifyReportTheirResult :
    (let s := wImg (fun x => { x with busy := some .fetch })
     s.img.busy = some .fetch ∧ s.hostOk 0 = true ∧
      ([] : List Byte).length = s.cfg .img 0 0x28 31 0) ∧
    (wImg (fun x => { x with busy := some .verify })).img.busy = some .verify ∧ imgLe [] 0 4 ≠ 0x4B465355 := by decide +kernel

/-- An owner's APPLY of an empty buffer with the mask `v`. -/
def wApply (v : W32) (ok : Bool) : State :=
  (wImg (fun x => { x with owner := 1, verified := ok })).setBlk ⟨.img, 0⟩ { comm [(0x2C, v)] with snap := [(0x2C, v)] }

theorem test_applyResetsTheMaskedPartitions :
    (∀ s ∈ [wApply 0xFF false, wApply 0 true, wApply 0xFF true], s.imgReach .pf = true ∧ s.imgOwns .pf = true ∧ s.img.busy = none) ∧
    ((wApply 0xFF false).applyPart ⟨.img, 0⟩ 0).img.verified = false ∧
    (let u := (wApply 0 true).applyPart ⟨.img, 0⟩ 0
     u.img.verified = true ∧ (BitVec.ofNat 8 (u.cfg .img 0 0x2C 7 0)).getLsbD 0 = false ∧ samePart img0 (imgCfg []) 0 = false) ∧
    (let u := (wApply 0xFF true).applyPart ⟨.img, 0⟩ 0
     u.img.verified = true ∧ ∀ p < 8, (BitVec.ofNat 8 (u.cfg .img 0 0x2C 7 0)).getLsbD p = true) := by decide +kernel

theorem test_applyCompletesWithTheNewImage :
    let s := wImg (fun x => { x with busy := some .apply, pendingImage := some img0, mask := 0xFF })
    s.img.busy = some .apply ∧ s.img.pendingImage = some img0 ∧
    (∀ p ∈ masked (some img0) s.img.mask, partTrains s (some img0) p = false) ∧ (s.boot.applied = true ∨ s.startHeld = false) ∧
    byteOwner s.img.applied 0 = byteOwner (some img0) 0 ∧ physAt 0 = .stack 0 ∧ byteOwner none 0 ≠ byteOwner (some img0) 0 := by
  decide +kernel

/-! ## Contexts, queues, command records and marks -/

/-- `W` with a queue of context 0, a context, or partition 0 as given. -/
def wQ (q : Nat) (f : Que → Que) : State := W.setQue q (f (W.que q))
def wCtx (c : Nat) (x : CtxState) : State := W.setCtx c ⟨x, 1⟩
def wPart (f : Part → Part) : State := W.setPart 0 (f (W.part 0))

/-- A command of words 0 to 7, and the commands of queue 0. -/
def cmd (h : W32) (ws : List W64) : Cmd := mkCmd h ws
def wCmds (cs : List Cmd) : State := wQ 0 (fun x => { x with cmds := cs })

theorem test_pagesOfContext0 :
    (W.xlatePage (tlbPart 0) 0 0 0x10000 true).1.toOption = some ⟨1, 2 ^ 48 + 0x10000⟩ ∧
    (W.xlatePage (tlbPart 0) 0 0 0x4000_0000 true).1.toOption = some ⟨0x4000, hostBase⟩ ∧
    (W.xlatePage (tlbPart 0) 0 0 0x4020_0000 true).1.toOption = none ∧
    (W.xlatePage (tlbPart 0) 0 0 0x4040_0000 true).1.toOption = some ⟨0x4040, scratchBase 0⟩ := by decide +kernel

theorem test_contextCommandsFollowTheirStates :
    W.reaches .pf ⟨.ctx, 0⟩ = true ∧ (W.part 0).cmdFor = none ∧ (wPart (fun x => { x with cmdFor := some 0 })).reaches .pf ⟨.ctx, 0⟩ = true ∧
    ((wPart (fun x => { x with cmdFor := some 0 })).part 0).cmdFor ≠ none ∧ W.ctxQuota 0 ≤ 4 ∧ 3 < W.ctxQuota 0 ∧
    (W.ctx 0).st ≠ .free ∧ (W.ctx 3).st = .free ∧ (W.ctx 3).st ≠ .active ∧ (W.ctx 3).st ≠ .faulted ∧ (W.ctx 0).st = .active ∧
    ((wCtx 0 .faulted).ctx 0).st = .faulted ∧ 0 ∉ (W.part 0).destroyed := by decide +kernel

theorem test_destroyAndDrainingEnd :
    (let s := wCtx 0 .destroying
     (s.ctx 0).st = .destroying ∧ 0 < s.ctxQuota 0 ∧ 0 ∉ (s.part 0).resetting ∧
       ∀ q ∈ s.queuesOf 0 0, ∀ d ∈ (s.q 0 q).cmds, d.phase = .stuck) ∧
    (let s : State := { wCtx 0 .destroying with timers := [⟨.destroy 0, .base 0, 0⟩] }
     (s.ctx 0).st = .destroying ∧ 0 < s.ctxQuota 0 ∧ s.expired (.destroy 0) = true) ∧
    (let s := wQ 0 (fun x => { x with draining := true, cmds := [{ cmd 0 [] with phase := .stuck }] })
     (s.q 0 0).draining = true ∧ ∀ d ∈ (s.q 0 0).cmds, d.phase = .stuck) := by decide +kernel

theorem test_doorbellMovesTheAcceptedTail :
    (W.flushPosted 0).dbQueue (.bar4Read 0 5) = none ∧ (W.flushPosted 0).dbQueue (.bar4 0 2047) = none ∧
    (W.flushPosted 0).pcx.up = true ∧ ((W.flushPosted 0).func 0).present = true ∧
    dbFn (.queDb .pf 0 0) = some 0 ∧ (W.flushPosted 0).dbQueue (.queDb .pf 0 0) = some (0, 0) ∧
    (W.flushPosted 0).dbQueue (.queDb .pf 0 1) = some (0, 1) ∧ (W.flushPosted 0).qEnabled 0 1 = false ∧
    (W.flushPosted 0).qEnabled 0 0 = true ∧ ((W.flushPosted 0).q 0 0).draining = false ∧
    (let u := W.flushPosted 0; let x := u.q 0 0
     2 ^ 31 ≤ ((0x8000_0000 : W32) - x.tail).toNat ∧ ((0x7FFF_FFFF : W32) - x.tail).toNat < 2 ^ 31 ∧
     u.qSize 0 0 < ((65 : W32) - x.head).toNat ∧ ((65 : W32) - x.tail).toNat < 2 ^ 31 ∧ ((64 : W32) - x.head).toNat ≤ u.qSize 0 0) := by
  decide +kernel

/-- Queue 0 with `n` records to fetch, the first with `e` for the byte of its EXT. -/
def wFetch (n : W32) (e : Byte) : State :=
  { wQ 0 (fun x => { x with tail := n }) with mem := memPut W.mem (stackBase 4 + 0x1007) [e] }

theorem test_queueFetchesBelowTail :
    (∃ t, exec (.queueFetch 0 0 8) State.reset = .next t) ∧
    (∀ e ∈ ([0x00, 0x10] : List Byte), let s := wFetch 2 e; let x := s.q 0 0
     s.mayFetch 0 0 = true ∧ x.head ≠ x.tail ∧ (x.recs ≠ [] ∨ x.cmds.length < 32) ∧
     (s.loadVa (tlbPart 0) 0 (s.qCtx 0 0) (s.qBase 0 0 + 64 * (x.head.toNat % s.qSize 0 0)) 64).1.toOption =
       some (List.replicate 7 0 ++ [e] ++ List.replicate 56 0) ∧
     (1 = 1 + bitsOf (leNat (List.replicate 7 0 ++ [e])) 63 60) = (e = 0)) ∧
    State.reset.mayFetch 0 0 = false := ⟨⟨_, rfl⟩, by decide +kernel, by decide +kernel⟩

/-- Queue-local commands by opcode, with words 6 and 7. -/
def lcl (h : W32) (op w6 w7 : W64) : Cmd := cmd h [op, 0, 0, 0, 0, 0, w6, w7]

def goes : Attempt → Bool
  | .go _ _ _ _ _ => true
  | _ => false

theorem test_commandsBeginInOrder :
    (let s := wCmds [{ lcl 0 0 0 0 with phase := .begun }]
     (s.q 0 0).cmds[0]?.any (fun c => decide (c.phase ≠ .fetched)) = true) ∧
    earlierMet (wCmds [cmd 0 [0, 1], lcl 1 0 0 0] |>.q 0 0).cmds 1 = false ∧
    (let s := wCmds [lcl 0 0x700 0 0]
     earlierMet (s.q 0 0).cmds 0 = true ∧ s.cfgHeld 0 0 = false ∧ (s.headerBad 0 0 (lcl 0 0x700 0 0)).isSome = true) ∧
    (let s := wCmds [cmd 0 [0, 1]]; let u := s.registerWaits 0 0 0
     s.headerBad 0 0 (cmd 0 [0, 1]) = none ∧ (u.q 0 0).cmds[0]?.any (fun d => !d.allMet) = true) ∧
    (let d := { lcl 1 0x4000 0 0 with regd := true }; let s := wCmds [lcl 0 0 0 0, d]
     s.headerBad 0 0 d = none ∧ s.registerWaits 0 0 1 = s ∧ d.phase = .fetched ∧ d.allMet = true ∧ d.engine ≠ 6 ∧ d.fence = true ∧
       (s.q 0 0).cmds.take 1 = [lcl 0 0 0 0] ∧ (lcl 0 0 0 0).past = false) ∧
    (let d := { lcl 1 1 0x80 7 with regd := true }; let s := wCmds [lcl 0 1 0xB8 5, d]
     s.headerBad 0 0 d = none ∧ d.allMet = true ∧
       (chkBody s 0 0 d).toOption.any (fun pl => s.held 0 0 1 pl.rd pl.wr) = true) ∧
    (let d := { lcl 0 1 0x80 7 with regd := true }; let s := wCmds [d]
     s.headerBad 0 0 d = none ∧ goes (s.attempt 0 0 0 d) = true ∧ s.outranked 0 0 d = false) ∧
    (let d := { lcl 0 0x603 0 0 with regd := true }; let s := wQ 2 (fun x => { x with cmds := [d] })
     s.headerBad 0 2 d = none ∧ d.engine = 6 ∧ s.sessionReady 0 2 0 = true ∧ s.outranked 0 2 d = false ∧ s.leadOf 0 = some 0) := by
  decide +kernel

theorem test_commandsRetireInOrder :
    (let c := lcl 0 0 0 0; let s := wCmds [{ c with phase := .stuck }, c]
     retireIdx (s.q 0 0).cmds = 1 ∧ (s.q 0 0).cmds[1]? = some c ∧ c.phase ≠ .complete ∧ c.phase ≠ .lost) ∧
    (let c := { lcl 0 0 0 0 with phase := .complete }; let s := wCmds [c]
     (s.q 0 0).cmds[retireIdx (s.q 0 0).cmds]? = some c ∧ waitValue (c.word 5) = 0) ∧
    (let c := { cmd 0 [0, 0, 0, 0, 0, 1] with phase := .complete }; let s := wCmds [c]
     waitValue (c.word 5) ≠ 0 ∧ c.noRel = false ∧
       (s.markPhys 0 (s.qCtx 0 0) (waitMark (c.word 5)) true).1.toOption = some 0 ∧
       ((s.markPhys 0 (s.qCtx 0 0) (waitMark (c.word 5)) true).2.relFlush 0 0 (waitScope (c.word 5)) 0).1 = none) ∧
    (let c := { lcl 0 0 0 0 with phase := .lost }; let s := wCmds [c]
     (s.q 0 0).cmds[retireIdx (s.q 0 0).cmds]? = some c ∧ (s.chainOf ⟨0, 0, none⟩).isNone = true) := by decide +kernel

theorem test_releasesRaiseMarksAndWaitsCompare :
    (let c := { cmd 0 [0, 0, 0, 0, 0, 5] with phase := .releasing }
     let r : Release := ⟨8, 2 ^ 64 - 1, 5, ⟨.ctx, 0⟩, some (0, 0)⟩
     let s : State := { wCmds [c] with rels := [r] }
     s.rels[0]? = some r ∧ r.addr < hostBase ∧ r.value < 2 ^ 64 ∧ (s.markValue r.addr).toOption = some 0 ∧
       r.cmd = some (queKey 0 0, c.head) ∧ s.queOwner (queKey 0 0) = some (0, 0) ∧
       (s.que (queKey 0 0)).cmds.find? (fun d => decide (d.head = c.head)) = some c) ∧
    (let r : Release := ⟨hostBase, 1, 5, ⟨.ctx, 0⟩, some (0, 0)⟩
     let s : State := { W with rels := [r] }
     hostBase ≤ r.addr ∧ (s.func ((s.queOwner 0).elim 0 (fun x => s.fnOf x.1))).atomicEn = true ∧
       s.hostOk ((s.queOwner 0).elim 0 (fun x => s.fnOf x.1)) = true) ∧
    (∀ c ∈ [{ cmd 0 [0, 0, 1] with regd := true, waits := [false, false, false, false] }],
      let s := wCmds [c]
      waitingIdx (s.q 0 0) = some 0 ∧ c.regd = true ∧ c.waitMet 0 = true ∧ c.waitMet 1 = false ∧
        (s.markPhys 0 (s.qCtx 0 0) (waitMark (c.word 2)) false).1.toOption = some 0 ∧
        ((s.markPhys 0 (s.qCtx 0 0) (waitMark (c.word 2)) false).2.markValue 0).toOption = some 0 ∧
        0 < waitValue (c.word 2) ∧ waitValue (c.word 2) ≤ (1 : W64).toNat ∧ waitValue (c.word 1) ≤ 0) ∧
    (let s : State := { wCmds [{ cmd 0 [0, 1] with regd := true }] with mem := memPut W.mem 0 [1] }
     (s.markValue 0).toOption = some 1 ∧ waitValue 1 ≤ 1) ∧
    (let s := (wCmds [{ cmd 0 [0, 1] with regd := true }]).setComm .ctx 0 0x2008 0x4000_0000
     (s.markPhys 0 (s.qCtx 0 0) 0 false).1.toOption = some hostBase) := by decide +kernel

theorem test_queueLocalCommandsAct :
    0 < W.queQuota 0 ∧ 3 < W.queQuota 0 ∧
    localCmd (wCmds [{ lcl 0 0 0 0 with phase := .begun }] |>.q 0 0) 0x00 = some { lcl 0 0 0 0 with phase := .begun } ∧
    (let c := { lcl 0 1 0x4040_0008 7 with phase := .begun, held := [⟨0x4040, scratchBase 0⟩] }; let s := wCmds [c]
     localCmd (s.q 0 0) 0x01 = some c ∧ scratchBase 0 + 8 + 8 ≤ hostBase ∧
       s.heldAddr 0 c.held (bitsOf (c.word 6) 47 0) = some (scratchBase 0 + 8) ∧
       s.heldAddr 0 c.held (bitsOf (c.word 6) 47 0 + 7) = some (scratchBase 0 + 8 + 7)) ∧
    (let c := { lcl 0 2 15 7 with phase := .begun }; let s := wCmds [c]
     localCmd (s.q 0 0) 0x02 = some c ∧
       (s.markPhys 0 (s.qCtx 0 0) (bitsOf (c.word 6) 15 0) true).1.toOption = some 120 ∧ 120 < hostBase ∧
       ((s.markPhys 0 (s.qCtx 0 0) (bitsOf (c.word 6) 15 0) true).2.markValue 120).toOption = some 0) ∧
    (let c := { lcl 0 2 0 7 with phase := .begun }; let s := (wCmds [c]).setComm .ctx 0 0x2008 0x4000_0000
     let r := s.markPhys 0 (s.qCtx 0 0) (bitsOf (c.word 6) 15 0) true
     r.1.toOption = some hostBase ∧ (r.2.func (r.2.fnOf 0)).atomicEn = true ∧ r.2.hostOk (r.2.fnOf 0) = true) := by
  decide +kernel

/-! ## Matrix arrays, accumulator slots and the quantiser -/

/-- The command of queue 0 with HEAD 0, and tile 0's matrix engine, in `W`; `r0` refers to the command. -/
def r0 : CmdRef := ⟨queKey 0 0, 0, none⟩
def wMxe (c : Cmd) (m : Mxe) : State := (wCmds [c]).setMxe 0 m

/-- MXE_LOADW of a 2 × 2 block in format `f` from tile 0's scratchpad. -/
def cLoad (f : W64) : Cmd :=
  { cmd 0 [0x101, 0, 0, 0, 0, 0, f <<< 48 ||| 0x4040_0000, 0x0000_0200_0000_0101] with
    phase := .begun, held := [⟨0x4040, scratchBase 0⟩] }

/-- MXE_PASS of one row with ACC 0 to slot 0 of what `w6` adds to word 6. -/
def cPass (w6 : W64) : Cmd :=
  { cmd 0 [0x102, 0, 0, 0, 0, 0, w6 ||| 0x0001_0000_4040_0000, 0] with phase := .begun, held := [⟨0x4040, scratchBase 0⟩] }

def ready (q : Nat) : WBuf := ⟨.ready, 1, 1, false, [(0, 1)], some q⟩

/-- Tile 0 with a LOADW of a format that has begun. -/
def wLoad (f : W64) : State := wMxe (cLoad f) { Mxe.reset with loads := [⟨r0, true⟩] }

theorem test_loadwCompletes :
    ((wLoad 5).mxe 0).loads.find? (·.started) = some ⟨r0, true⟩ ∧ (wLoad 5).cmdAt r0 = some (cLoad 5) ∧
    (wLoad 5).queOwner r0.q = some (0, 0) ∧ ldCoded (cLoad 5) = false ∧ (wLoad 5).ldgHolds ⟨.ldgTile, 0⟩ 1 = false ∧
    (wLoad 5).loadMeets 0 0 r0 (cLoad 5) = .go := by
  decide +kernel

theorem test_codedLoadwCompletes :
    ((wLoad 12).mxe 0).loads.find? (·.started) = some ⟨r0, true⟩ ∧ (wLoad 12).cmdAt r0 = some (cLoad 12) ∧
    ldCoded (cLoad 12) = true ∧ ((wLoad 12).mxe 0).book (ldBook (cLoad 12)) = .reset ∧
    (∀ k < ldK (cLoad 12), ((wLoad 12).codedRow 0 (cLoad 12) .reset k).1.isSome = true) ∧
    (wLoad 12).loadMeets 0 0 r0 (cLoad 12) = .go := by
  decide +kernel

theorem test_weightBlocksLoadAndSwap :
    (let s := wMxe (cLoad 5) { Mxe.reset with loads := [⟨r0, false⟩] }
     (s.mxe 0).loads.find? (fun y => !y.started) = some ⟨r0, false⟩ ∧ s.cmdAt r0 = some (cLoad 5) ∧ (cLoad 5).book ≠ .stale) ∧
    (let x : PassOp := ⟨r0, 1, false, false, 0, 0⟩
     let s := wMxe (cPass (1 <<< 63)) { Mxe.reset with passes := [x] }
     (s.mxe 0).passes.find? (fun y => !y.started) = some x ∧ s.cmdAt r0 = some (cPass (1 <<< 63)) ∧
       (s.mxe 0).saveTakes (psSlot (cPass (1 <<< 63))) (psComp (cPass (1 <<< 63))) = false ∧
       ({ s.mxe 0 with save := some ⟨false, 1, 0, 0⟩ }).saveTakes (psSlot (cPass (1 <<< 63))) false = true) ∧
    (let x : PassOp := ⟨r0, 1, true, false, 0, 0⟩
     let s := fun b : WBuf => wMxe (cPass (1 <<< 63)) { Mxe.reset with passes := [x], shd := b }
     ((s .reset).mxe 0).passes.find? (fun y => y.started && !y.swapped) = some x ∧
       passesBefore (s (ready 0)) [x] r0 = true ∧ (ready 0).st = .ready ∧ (ready 0).claim = some r0.q ∧
       WBuf.reset.st = .empty ∧ ((s { ready 0 with st := .loading }).mxe 0).shd.st = .loading ∧ (ready 1).claim ≠ some r0.q ∧ ((s .reset).queOwner r0.q).isSome = true ∧
       ((s .reset).cmdAt r0).isSome = true) := by decide +kernel

/-- Tile 0 about to issue the pass' row, with the ramp as given. -/
def wIssue (r : Ramp) (idle : Nat) : State :=
  wMxe (cPass 0) { Mxe.reset with
    passes := [⟨r0, 1, true, true, 0, 0⟩], act := ready 0, ramp := r, ramped := true, idleFor := idle }

theorem test_passesIssueThroughTheRamp :
    (∀ s ∈ [wIssue ⟨false, 48, 0⟩ 0, wIssue ⟨true, 9, 45⟩ 0, wIssue ⟨false, 48, 0⟩ 256],
      (s.issuing 0).map (·.1) = some ⟨r0, 1, true, true, 0, 0⟩ ∧ (s.mxe 0).drains = [] ∧
      (∀ j < 2, s.passGate 0 0 r0 (cPass 0) (passElems (psTrans (cPass 0)) (s.mxe 0).act) j = .go) ∧
      s.ldgHolds ⟨.ldgTile, 0⟩ 1 = false ∧ (s.mxe 0).save = none) ∧
    ((wIssue ⟨false, 48, 0⟩ 255).mxe 0).rampNow.on = false ∧ (rampStep ((wIssue ⟨true, 9, 45⟩ 0).mxe 0).rampNow).1 = true ∧
    ((wIssue ⟨false, 48, 0⟩ 256).mxe 0).rampNow.on = true ∧ (rampStep ((wIssue ⟨false, 48, 0⟩ 256).mxe 0).rampNow).1 = false ∧
    (let x : PassOp := ⟨r0, 1, true, true, 1, 1⟩; let s := wMxe (cPass 0) { Mxe.reset with passes := [x] }
     (s.mxe 0).passes.find? (fun y => match s.cmdAt y.ref with
       | some d => decide (psM d ≤ y.landed)
       | none => true) = some x ∧ s.cmdAt r0 = some (cPass 0) ∧ (s.queOwner r0.q).isSome = true) ∧
    256 ≤ ((wIssue ⟨false, 48, 0⟩ 256).mxe 0).idleFor ∧ ((wIssue ⟨false, 48, 0⟩ 255).mxe 0).idleFor < 256 := by decide +kernel

theorem test_rowAdditionRoundsOnce :
    let i : Issue := ⟨r0, 1, [(3, [.fin false 1 0])]⟩
    let s := wMxe (cPass 0) { Mxe.reset with inArray := [i], passes := [⟨r0, 1, true, true, 1, 0⟩] }
    (s.mxe 0).inArray = i :: [] ∧ i.rows = [(3, [.fin false 1 0])] ∧ s.cmdAt i.ref = some (cPass 0) ∧
    s.queOwner i.ref.q = some (0, 0) ∧ psComp (cPass 0) = false ∧ psAcc (cPass 0) = false ∧
    (((s.mxe 0).slot 0).row 3).comp = false ∧ (((s.mxe 0).slot 0).row 3).off64 = false ∧
    (((s.mxe 0).slot 0).row 3).seg.toNat + i.k ≤ 2 ^ 20 ∧
    (∀ md, (a36Num (BitVec.ofNat 36 (fA36.encode md true (.fin false 1 0)))).isInf = false) := by
  refine ⟨by decide +kernel, rfl, by decide +kernel, by decide +kernel, rfl, rfl, by decide +kernel, by decide +kernel,
    by decide +kernel, fun md => ?_⟩
  have hc : fA36.roundMag md false 1 0 = fA36.roundMag .near false 1 0 := by
    simp [FForm.roundMag, show fA36.quantum 1 0 = -27 by decide, roundUnits]
  have h : fA36.encode md true (.fin false 1 0) = fA36.encode .near true (.fin false 1 0) := by
    simp only [FForm.encode, hc]
    rw [if_neg (by decide), if_neg (by decide)]
  rw [h]; decide +kernel

theorem test_slotsSaveAndRestore :
    W.reaches .pf ⟨.mxe, 0⟩ = true ∧ W.pfOrKp .pf ((W.partOfTile 0).getD 8) = true ∧ W.reaches .mgmt ⟨.mxe, 0⟩ = true ∧
    W.pfOrKp .mgmt ((W.partOfTile 0).getD 8) = false ∧ (W.mxe 0).save = none ∧ W.slotBusy 0 0 = false ∧ W.slotBusy 0 1 = false ∧
    (W.setMxe 0 { Mxe.reset with save := some ⟨false, 1, 0, 0⟩ } |>.mxe 0).save.isSome = true ∧
    (wIssue ⟨false, 48, 0⟩ 0).slotBusy 0 0 = true ∧ (1 : BitVec 2).getLsbD 0 = true ∧
    (∀ g ∈ W.partsOf, (W.part g.num).rstRuns = [] ∧ (W.part g.num).resetting = []) ∧
    slotFolded ((W.mxe 0).slot 0) = false ∧ W.reaches .pf ⟨.tile, 47⟩ = true ∧
    (W.setTile 47 { TileSt.reset with reseeding := true } |>.tile 47).reseeding = true := by decide +kernel

theorem leBytes_length (n v : Nat) : (leBytes n v).length = n := by
  induction n generalizing v with
  | zero => rfl
  | succ n ih => simp [leBytes, ih]

theorem test_savedRecordFits (s : State) (h : slotFolded ((s.mxe 0).slot 0) = false) :
    0x100000 + (s.saveRecord 0 1).length ≤ hostBase := by
  have e : selSlots 1#2 = [0] := by decide
  simp [State.saveRecord, e, State.slotSection, h, rowBytes, List.length_flatMap, leBytes_length, hostBase]

/-- A record of slot 0 of tile 0 in which every row is zero, its header and no other byte not zero. -/
def wRestore : State :=
  { W.setMxe 0 { Mxe.reset with save := some ⟨true, 1, 0, 0x100000⟩ } with
    mem := memPut W.mem 0x100000 ([0x57, 0x4A, 0x41, 0x43, 1, 1] ++ [0, 0] ++ leBytes 4 593984) }

theorem test_recordsReadAndWrite :
    W.recordReach 0x100000 593984 = true ∧ W.recordReach (hostBase - 64) 64 = false ∧
    (let s := wRestore
     let rd := fun off n => s.readLe (0x100000 + off) n
     (s.mxe 0).save = some ⟨true, 1, 0, 0x100000⟩ ∧ 0x100000 + rd 8 4 ≤ hostBase ∧ saveHeaderOk rd 1 = true ∧ rd 6 1 = 0 ∧
       s.recordReads 0x100000 64 = true ∧ s.recordReads 0x100000 (rd 8 4) = true ∧ selSlots 1 = [0] ∧
       (∀ r < 512, rowWordOk (rd (sectionAt 1 0 0 + 8 * r) 8) false = true) ∧ s.queByNum 0 = some (0, 0) ∧
       ({ s with poison := [(0x4000, true)] } : State).recordReads 0x100000 64 = false) := by decide +kernel

/-! ## Drains and pattern books -/

/-- A DRAIN of one row and `n` columns from slot 0, with what is added to words 6 and 8. -/
def cDr (n : Nat) (w6 w8 : W64) : Cmd :=
  { cmd 0 [0x1000_0000_0000_0103, 0, 0, 0, 0, 0, w6 ||| 0x4040_0000, BitVec.ofNat 64 (n - 1) <<< 32, w8 ||| 0x4040_0040] with
    phase := .begun, held := [⟨0x4040, scratchBase 0⟩] }

def dr0 : DrainOp := ⟨r0, 1, true, 0, false, one32, one32, one32, false, 0, .reset, [], false⟩

/-- Tile 0 with that drain, and `x` as element 0 of slot row 0. -/
def wDr (c : Cmd) (d : DrainOp) (x : BitVec 36) : State :=
  wMxe c { Mxe.reset with drains := [d], slot0 := Slot.reset.setRow 0 (SlotRow.reset.setElem 0 x) }

theorem test_drainsConvertRowByRow :
    (let s := wDr (cDr 1 0 0) { dr0 with started := false } 0
     (s.mxe 0).drains = { dr0 with started := false } :: [] ∧ s.cmdAt r0 = some (cDr 1 0 0) ∧
       (s.mxe 0).saveTakes (drSlot (cDr 1 0 0)) dr0.comp = false ∧
       ({ s.mxe 0 with save := some ⟨false, 1, 0, 0⟩ }).saveTakes (drSlot (cDr 1 0 0)) dr0.comp = true) ∧
    (∀ x ∈ [(cDr 1 0 0, (0 : BitVec 36), false), (cDr 2 0 (1 <<< 59), 0, false), (cDr 1 (7 <<< 48) 0, 0x7FC000000, true)],
      let c := x.1
      let s := wDr c dr0 x.2.1
      let w := if drSmode c = 1 ∧ dr0.next = 0 then s.writeChannels 0 0 dr0 c else (s, dr0)
      s.drainOf 0 = some (dr0, c, 0) ∧ dr0.next < drM c ∧ (s.mxe 0).passes = [] ∧ s.ldgHolds ⟨.ldgTile, 0⟩ 1 = false ∧
        s.drainGate 0 0 c dr0.next = .go ∧
        (w.1.convRow 0 (drOfmt c) (drZp c) (drOrnd c) (!(drStrict c)) (w.1.drainScaled 0 w.2 c 0).1).1.any (·.nanFault) = x.2.2) ∧
    (let d := { dr0 with next := 1, second := true }
     (wDr (cDr 1 0 0) d 0).drainOf 0 = some (d, cDr 1 0 0, 0) ∧ drM (cDr 1 0 0) ≤ d.next) ∧
    (let d := { dr0 with next := 1, stat := { DrainStat.reset with amax := 0x447A_0000 } }; let c := cDr 1 (3 <<< 48) 0
     (wDr c d 0).drainOf 0 = some (d, c, 0) ∧
       (match retryOf c d.recip d.stat.amax with
        | .make _ small => small
        | _ => false) = true) ∧
    (let d := { dr0 with next := 1 }; let c := cDr 1 0 0; let s := wDr c d 0
     s.drainOf 0 = some (d, c, 0) ∧ retryOf c d.recip d.stat.amax = .no ∧ drRptEn c = false ∧
       s.gates 0 0 c.held [(true, drSrec c, 64)] = .go ∧ scratchBase 0 + 0x4C + 8 ≤ hostBase ∧
       ∀ i < 8, s.heldAddr 0 c.held (drSrec c + 12 + i) = some (scratchBase 0 + 0x4C + i)) := by decide +kernel

theorem test_drainRowLanded (r : Nat) : (wDr (cDr 1 0 0) dr0 0).rowLanded 0 dr0 (cDr 1 0 0) r = true := rfl

/-- A stream of tile 0 whose 8 KiB ring starts at address 0x4040_0000, in the state given. -/
def ring0 (st : StreamSt) : Stream :=
  { Stream.reset with st := st, words := [0x601, 0, 0, 0, 0, 0, 0x10000, 0x0010_0000_4040_0000], held := [⟨0x4040, scratchBase 0⟩] }
def withRing (s : State) : State := s.setSte 0 (Ste.reset.setStream 0 (ring0 .running))

def bOp (started : Bool) : BookOp := ⟨r0, 2, 5, 0, 0, 0x4040_0000, started⟩

/-- A command of the vector engine with words 6 to 10 and its page, and tile 0 that runs it in `W`. -/
def cVx (op : W64) (ws : List W64) : Cmd :=
  { cmd 0 ([op, 0, 0, 0, 0, 0] ++ ws) with phase := .begun, held := [⟨0x4040, scratchBase 0⟩] }
def wVx (k : VxeWork) (c : Cmd) : State := (wCmds [c]).setVxe 0 { Vxe.reset with op := some ⟨r0, k, true, [], 0, 0, 0, 0, none⟩ }
def opOf (k : VxeWork) : VxeOp := ⟨r0, k, true, [], 0, 0, 0, 0, none⟩

/-- A VXE_ENCODE of one row of `n` + 1 columns at address 0x4040_1000. -/
def cEnc (n : W64) : Cmd := cVx 0x204 [0x4040_0000, 0x4040_1000, 0x4040_2000, 0, n]

theorem test_booksInstallWhenTheirSlotsAreFree :
    ((wMxe (cVx 0x202 []) { Mxe.reset with bookOps := [bOp false] }).mxe 0).bookOps.find? (fun x => !x.started) =
      some (bOp false) ∧
    (let c := cVx 0x202 []
     let m := { (Mxe.reset.setBook 2 { BookSlot.reset with live := some 4 }) with bookOps := [bOp true] }
     let q : Cmd := { cLoad 12 with book := .live, words := [0x1_0101, 0, 0, 0, 0, 0, 0x000C_0000_4040_0000 ||| 2 <<< 53] }
     ∀ x ∈ [((wCmds [c]).setMxe 0 m, 0), ((wCmds [c, q]).setMxe 0 m, 1)], let s := x.1
       s.bookRefs 0 2 = x.2 ∧ (s.mxe 0).bookOps.find? (fun x => x.started && decide (x.slot = 2)) = some (bOp true) ∧ s.cmdAt r0 = some c ∧
         s.queOwner r0.q = some (0, 0) ∧ s.gate 0 0 c.held false 0x4040_0000 (bookBytes 0) = .go ∧
         coveredSlots (s.mxe 0) 2 0 = [2] ∧ ((s.mxe 0).book 2).live.isSome = true) ∧
    (∀ x ∈ [(VxeWork.sample, cVx 0x203 [0x4040_0000]), (.build, cVx 0x203 [0x4040_0000]), (.encode, cEnc 0)],
       let s := wVx x.1 x.2
       s.vxeWork 0 x.1 = some (opOf x.1, x.2, 0) ∧ (withRing s).vxeWork 0 x.1 = some (opOf x.1, x.2, 0) ∧
         s.ldgHolds ⟨.ldgTile, 0⟩ 2 = false ∧ s.vxeStop 0 0 x.2 (opOf x.1) = .go ∧
         (withRing s).vxeStop 0 0 x.2 (opOf x.1) =
           (if x.1 = .encode then .wait else .bad ⟨0x03, 0, 0, 1, scratchBase 0, 0x7F⟩)) := by decide +kernel

theorem test_encodeStopsAtANaN :
    let s := { wVx .encode (cEnc 7) with mem := memPut W.mem (scratchBase 0 + 0x1000) [0, 0, 0xC0, 0x7F] }
    s.vxeWork 0 .encode = some (opOf .encode, cEnc 7, 0) ∧ s.ldgHolds ⟨.ldgTile, 0⟩ 2 = false ∧
      s.vxeStop 0 0 (cEnc 7) (opOf .encode) = .bad ⟨0x0B, 0, 1, 2, 0, 0x7F⟩ := by decide +kernel

/-! ## The vector engine -/

/-- A program block whose window 0 is the FP32 element at 0x4040_1000 and window 1 the element of format `f` at
0x4040_2000, with one instruction. -/
def prog (f : Nat) (w : W64) : List W64 :=
  [0x4040_1000, 0x0000_0480_0000_0000, 0x4040_2000, 0x0000_0480_0000_0000 ||| BitVec.ofNat 64 (f * 2 ^ 34)]
    ++ List.replicate 44 0 ++ [w]

/-- An instruction with D window 1, and A, B and C window 0. -/
def ins (op : Nat) : W64 := BitVec.ofNat 64 (op * 2 ^ 56) ||| 1 <<< 52

def cRun : Cmd := cVx 0x201 [0x4040_0000, 1 <<< 63 ||| 0x4040_0100]
def oRun (f op : Nat) : VxeOp := ⟨r0, .run, true, prog f (ins op), 0, 0, 0, 0, none⟩
def o7 : List W64 := prog 7 (ins 0x0B)
def wRun (o : VxeOp) : State := (wCmds [cRun]).setVxe 0 { Vxe.reset with op := some o }

theorem test_vectorInstructionsRunByChunks :
    (∀ x ∈ vectorOps, W.runOf 0 x.2 = none ∧ (wRun (oRun 0 x.2)).runOf 0 x.2 = some (oRun 0 x.2, cRun, 0)) ∧
    (∀ x ∈ [(wRun (oRun 0 0x0B), 0, false, false),
        ({ wRun (oRun 7 0x0B) with mem := memPut W.mem (scratchBase 0 + 0x1000) [0, 0, 0xC0, 0x7F] }, 7, true, false),
        (withRing (wRun (oRun 0 0x22)), 0, false, true)],
      let o := ((x.1.vxe 0).op.getD (oRun 0 0)); let s := x.1
      let r := chunkOf 0 0 cRun o.prog (progInst o.prog 0) 0 s
      s.chunkGate 0 0 r0 cRun o.prog (progInst o.prog 0) 0 r.1.cells = (if x.2.2.2 then .wait else .go) ∧
        s.ldgHolds ⟨.ldgTile, 0⟩ 2 = false ∧ r.1.nan = x.2.2.1 ∧ (r.1.nan = true → r.2.statGate 0 0 cRun ≠ .wait)) ∧
    (let o := { oRun 7 0x0B with prog := 0x4040_3000 :: 0x0000_0480_0000_0000 :: 0x4040_4000 :: o7.drop 3 }
     let s : State := { (wRun o).setSte 0 (Ste.reset.setStream 0 { ring0 .running with store := true, fill := [(4, true)] }) with mem := memPut W.mem (scratchBase 0 + 0x3000) [0, 0, 0xC0, 0x7F] }
     let r := chunkOf 0 0 cRun o.prog (progInst o.prog 0) 0 s
     s.runOf 0 0x0B = some (o, cRun, 0) ∧ s.chunkGate 0 0 r0 cRun o.prog (progInst o.prog 0) 0 r.1.cells = .go ∧ r.1.nan = true ∧
       r.2.statGate 0 0 cRun = .wait) ∧
    (let o := { oRun 0 1 with failed := some ⟨0x0B, 0, 7, 2, 0, 0x7F⟩ }
     ((wRun o).vxe 0).op = some o ∧ o.started = true ∧ o.failed.isSome = true ∧ (wRun o).statGate 0 0 cRun ≠ .wait) ∧
    (∀ o ∈ [{ oRun 0 1 with started := false }, { oRun 0 1 with pc := 1 }],
      ((wRun o).vxe 0).op = some o ∧ o.work = .run ∧ (wRun o).cmdAt r0 = some cRun ∧ (wRun o).queOwner r0.q = some (0, 0) ∧
        (o.started = true → vxN cRun ≤ o.pc ∧ o.failed = none ∧ (wRun o).statGate 0 0 cRun = .go)) ∧
    W.partOfTile 0 = some 0 := by
  decide +kernel

theorem test_vectorOperationsComputeTheirResults :
    (∀ code ∈ [0x01, 0x02, 0x03, 0x04, 0x05, 0x06, 0x07, 0x08, 0x09, 0x0A, 0x0B, 0x20, 0x21, 0x22, 0x23],
      inOp (ins code).toNat = code ∧ inMask (ins code).toNat = 0) ∧ vxRnd cRun ≠ 5 := by decide +kernel

/-! ## Streams, arbiters, stacks and translations -/

/-- A stream command of queue 0 with words 6 and 7, outstanding at stream context 0 of tile 0, whose state is `x`. -/
def cSte (op : W64) (w6 w7 : W64) : Cmd := cVx op [w6, w7]
def wSte (c : Cmd) (x : Stream) : State := (wCmds [c]).setSte 0 ⟨[(0, x)], [(0, r0)], 0, 0⟩

/-- A stream of `n` elements of 64 bytes in an 8 KiB ring of tile 0. -/
def strm (st : StreamSt) (far : W64) (n : Nat) : Stream :=
  { ring0 st with words := [0x1000_0000_0000_0301, 0, 0, 0, 0, 0, 6 <<< 56 ||| far, 0x0010_0000_4040_0000,
    BitVec.ofNat 64 (n - 1), 64] }

/-- A request of a stream, its tile's fourth. -/
def req (pa : Nat) : StreamReq := ⟨3, 3, 0, 64, pa, some 0, false, none, 0⟩

theorem test_streamCommandsMoveFrontiers :
    ((wSte (cSte 0x301 0 0) .reset).queOwner r0.q).isSome = true ∧
    (wSte (cSte 0x301 0 0) .reset).steHead 0 0 0x01 = some (r0, cSte 0x301 0 0) ∧
    (∀ e ∈ [(128, true), (0, false)],
      let y : Stream := { strm .running 0x10000 100 with reqs := List.replicate e.1 (req 0) }
      let s := (wSte (cSte 0x301 0 0) .reset).setSte 0 ⟨[(0, strm .running 0x10000 100), (1, y)], [(0, r0)], 0, 0⟩
      s.steHead 0 0 0x01 = some (r0, cSte 0x301 0 0) ∧ ((s.ste 0).stream 0).bound = true ∧
        (((s.issueNext 0 0).ste 0).stream 0).firstWaits = e.2) ∧
    (let s := (wSte (cSte 0x301 0 0) .reset).bindStream 0 0 r0 (cSte 0x301 0 0)
     ((s.ste 0).stream 0).nextSeq = 0 ∧ (((s.issueNext 0 0).ste 0).stream 0).firstWaits = false) ∧
    (∀ d ∈ [0, 64], let c := cSte 0x302 64 0; let s := wSte c { strm .running 0x10000 4 with fA := d }
      s.steHead 0 0 0x02 = some (r0, c) ∧ (((s.ste 0).stream 0).fA < ((s.ste 0).stream 0).fB + stBytes c ↔ d = 0)) ∧
    (let c := cSte 0x303 64 0; let s := wSte c (strm .running 0x10000 4)
     s.steHead 0 0 0x03 = some (r0, c) ∧
       s.handOver 0 r0 (((s.ste 0).stream 0).interval ((s.ste 0).stream 0).fB (stBytes c)) = .go) ∧
    (∀ d ∈ [255, 256], let c := cSte 0x304 0 0; let s := wSte c { strm .running 0x10000 4 with fA := d }; let x := (s.ste 0).stream 0
      s.steHead 0 0 0x04 = some (r0, c) ∧ (x.fA < x.len ↔ d = 255) ∧ x.st ≠ .halted ∧ x.st ≠ .faulted) := by decide +kernel

/-- Tile 0 with one stream, and a request of it. -/
def wStr (x : Stream) : State := W.setSte 0 ⟨[(0, x)], [], 4, 0⟩

theorem test_streamsIssueDeliverAndFault :
    (∀ far ∈ [0x10000, 0x4020_0000],
      let s := wStr (strm .running (BitVec.ofNat 64 far) 100); let x := (s.ste 0).stream 0
      x.st = .running ∧ x.issued + x.elem ≤ x.issueLimit ∧ x.outstanding < s.reqLimit 0 ∧ s.tileOutstanding 0 < 128 ∧
        s.ldgHolds ⟨.ldgTile, 0⟩ 3 = false ∧ s.ctxOwner x.ctx = some (0, 0) ∧ x.issued % x.elem = 0 ∧
        opFarOf x.w 0 = far) ∧
    (W.xlatePage (tlbTile 0) 0 0 0x10000 false).1.toOption = some ⟨1, 2 ^ 48 + 0x10000⟩ ∧
    (match (W.xlatePage (tlbTile 0) 0 0 0x4020_0000 false).1 with
      | .error b => decide (b.cls = 0x06) && decide (b.cause = 4)
      | .ok _ => false) = true ∧
    (∀ x ∈ [(req 0, none), (req (scratchBase 1), some (.ok (List.replicate 64 0))), (req 0x3000_0000_0000, some .addressDecode)],
      let s := wStr { strm .running 0x10000 100 with reqs := [x.1] }; let y := (s.ste 0).stream 0
      y.reqs.find? (fun q => decide (q.seq = 3) && !q.done) = some x.1 ∧ s.farWaits 0 x.1 = false ∧ s.ownGate 0 y x.1 = .go ∧
        s.farReply 0 y x.1 .unitOff = x.2) ∧
    (let s := wStr { strm .running 0x10000 100 with reqs := [{ req (scratchBase 1) with seq := 2, sent := 2 }, req (scratchBase 1)] }
     s.farWaits 0 (req (scratchBase 1)) = true) ∧
    (let s := W.setSte 0 ⟨[(0, { strm .running 0x10000 100 with reqs := [req (scratchBase 0)] }), (1, { strm .running 0x10000 100 with fill := [1] })], [], 4, 0⟩
     s.ownGate 0 ((s.ste 0).stream 0) (req (scratchBase 0)) = .wait) ∧
    (let s := wStr (strm .halted 0x10000 100); let x := (s.ste 0).stream 0
     x.st = .halted ∧ s.ctxOwner x.ctx = some (0, 0) ∧ s.reaches .pf ⟨.ste, 0⟩ = true ∧ opFarOf x.w (x.issued / x.elem) = 0x10000) ∧
    (let s : State := { wStr (strm .running 0x10000 100) with timers := [⟨.stall 0 0, .tile 0, 0⟩] }
     s.expired (.stall 0 0) = true ∧ ((s.ste 0).stream 0).mayMove = true) := by decide +kernel

/-- Stack 0 with what is given, and tile 0's stream with one request of it. -/
def wStk (x : Stack) : State := (wStr { strm .running 0x10000 100 with reqs := [req 0] }).setStack 0 x
def stk0 : Stack := { Stack.reset with st := .ready }
def aReq (n : Nat) (w : Bool) (sl : Option Int) : ArbReq := ⟨.stream 0 0 3, 0, 64, w, [], sl, false, 7, n⟩

theorem test_arbiterGrantsTheLeastSlack :
    (∀ n ∈ [0, 512], let s := wStk { stk0 with arb := ⟨List.replicate n { aReq 0 false none with src := .host }, [], 0x64, 0⟩ }
      let a := (s.stack 0).arb
      s.stackUp 0 = true ∧ s.arbStream (.stream 0 0 3) = some (req 0) ∧ physAt (req 0).pa = .stack 0 ∧
        a.has (.stream 0 0 3) = false ∧ s.arbSentBefore 0 0 (req 0) = false ∧ (512 ≤ a.pending.length ↔ n = 512)) ∧
    (let s := (wStk stk0).setSte 0 ⟨[(0, { strm .running 0x10000 100 with reqs := [{ req 0 with seq := 2, sent := 2 }, req 0] })], [], 4, 0⟩
     s.arbStream (.stream 0 0 3) = some (req 0) ∧ s.arbSentBefore 0 0 (req 0) = true) ∧
    physAt 0 = .stack 0 ∧
    (∀ sl ∈ [none, some 5], let q := aReq 0 false sl; let s := wStk { stk0 with arb := ⟨[q], [], 0x64, 0⟩ }
      let s := s.setBlk ⟨.nme, 0⟩ (comm [(0xF00, 0)])
      (s.stack 0).arb.pending[0]? = some q ∧ s.beWait 0 < q.waited) ∧ (aReq 0 false none).waited ≤ W.beWait 0 ∧
    pickGrant [aReq 0 false none] = some (aReq 0 false none) ∧ rankSlack [aReq 0 false none] (aReq 0 false none) = none ∧
    pickGrant [aReq 0 false none, { aReq 1 true (some 5) with src := .host }] = some { aReq 1 true (some 5) with src := .host } ∧
    (wStk stk0).domOn (domStack 0) = true ∧ ((wStk { stk0 with st := .recal }).stack 0).st ≠ .ready ∧
    (let s := wStk { stk0 with arb := ⟨[aReq 0 false none], [], 0x64, 0⟩ }
     (s.stack 0).st = .ready ∧ pickGrant ((s.stack 0).arb.pending.map (ArbReq.aging (s.beWait 0))) = some (aReq 0 false none)) ∧
    (∀ w ∈ [true, false], let s := wStk { stk0 with arb := ⟨[], [aReq 0 w none], 0x64, 0⟩ }
      (s.stack 0).arb.granted = aReq 0 w none :: [] ∧ (aReq 0 w none).write = w ∧
        (s.arbStream (aReq 0 w none).src).isSome = true) ∧
    W.arbStream (aReq 0 true none).src = none := by decide +kernel

theorem test_stacksCheckRefreshAndTrain :
    W.stackUp 11 = true ∧ 2 ^ 30 - 1 < 2 ^ 30 ∧ SMap.get false W.poison (stackBase 11 / 64 + (2 ^ 30 - 1)) = false ∧
    (W.flags .nme 11 0xD00).getLsbD 31 = false ∧ ((W.flag .nme 11 0xD00 (bit 31)).flags .nme 11 0xD00).getLsbD 31 = true ∧
    W.domOn (domStack 11) = true ∧ ((W.setStack 11 { stk0 with st := .recal }).stack 11).st = .recal ∧
    (W.stack 11).st = .ready ∧ (W.stack 11).calTemp.toNat + 5 ≤ (5 : BitVec 8).toNat ∧
    (4 : BitVec 8).toNat < (W.stack 11).calTemp.toNat + 5 ∧ (W.stack 11).calTemp.toNat < (4 : BitVec 8).toNat + 5 ∧
    W.timerRuns (.recal 11) = false ∧
    (∀ l ∈ ([0, 1] : List Int), let s : State := { W with timers := [⟨.recal 11, .base 11, l⟩] }
      s.timerRuns (.recal 11) = true ∧ s.expired (.recal 11) = decide (l = 0)) ∧
    ((W.setStack 11 { stk0 with st := .training }).stack 11).st = .training := by decide +kernel

theorem test_invalidationsDropCachedPages :
    W.reaches .pf ⟨.ctx, 0⟩ = true ∧ (W.cfgOf 0).isSome = true ∧ W.fnOrKp .pf 0 = true ∧
    W.reaches .mgmt ⟨.ctx, 0⟩ = true ∧ W.fnOrKp .mgmt 0 = false ∧ (W.part 0).inv = none ∧
    ((wPart (fun y => { y with inv := some ⟨0, true, 0, 64, false⟩ })).part 0).inv ≠ none ∧
    W.ctxQuota 0 ≤ (4 : BitVec 8).toNat ∧ (3 : BitVec 8).toNat < W.ctxQuota 0 ∧
    (∀ x ∈ W.allStreams, x.2.2.ctx = ctxKey 0 3 → x.2.2.st ≠ .halted) ∧
    (let o : InvOp := ⟨ctxKey 0 0, true, 0, 2 ^ 48, false⟩
     let y := fun (p : Part) => { p with inv := some o }
     ((wPart y).part 0).inv = some o ∧ (wPart y).holdsIn 0 o.ctx o.lo o.hi = false ∧
       ({ wCmds [cLoad 5] with parts := (wPart y).parts } : State).holdsIn 0 o.ctx o.lo o.hi = true) := by decide +kernel

/-- Stack 1 with its page mover's registers and move. -/
def wMov (host units : W32) (o : Option MoveOp) : State :=
  (W.setBlk ⟨.nme, 1⟩ { BlockRegs.reset with plain := [(0xE00, 0), (0xE04, 0x10), (0xE08, 0), (0xE0C, host), (0xE10, units)] }).setStack 1
    { stk0 with move := o }

theorem test_pageMoverMovesUnitsInOrder :
    (∀ m ∈ [Master.pf, .mgmt], W.reaches m ⟨.nme, 1⟩ = true ∧ W.pfOrKp m ((W.partOfStack 1).getD 8) = decide (m = .pf)) ∧
    ((wMov 0x8000 0 (some ⟨true, 0, 0, 1, none⟩)).stack 1).move ≠ none ∧
    (∀ h ∈ [0, 0x8000], let s := wMov (BitVec.ofNat 32 h) 0x3FFFF none
      let dev := s.rw .nme 1 0xE00 31 12 * 4096 + s.rw .nme 1 0xE04 15 0 * 2 ^ 32
      let host := s.rw .nme 1 0xE08 31 12 * 4096 + s.rw .nme 1 0xE0C 15 0 * 2 ^ 32
      let units := s.rw .nme 1 0xE10 17 0 + 1
      (s.stack 1).move = none ∧ dev = stackBase 1 ∧ host = h * 2 ^ 32 ∧ units = 2 ^ 18) ∧
    ((W.setKvf 1 { Kvf.reset with spill := [⟨0, 0, 0, .command⟩] }).kvf 1).spill ≠ [] ∧
    (∀ h ∈ [true, false], let o : MoveOp := ⟨h, stackBase 1, hostBase, 2, none⟩; let s := wMov 0x8000 1 (some o)
      (s.stack 1).move = some o ∧ s.stackUp 1 = true ∧ (s.kvf 1).spill = [] ∧ s.hostOk (s.fnOf ((s.partOfStack 1).getD 8)) = true ∧
        (s.eccChecks 1 (linesOf o.dev 4096) [.clean, .corrected]).poisoned o.dev 4096 = false ∧
        (s.eccChecks 1 (linesOf o.dev 4096) (List.replicate 63 .clean ++ [.uncorrectable])).poisoned o.dev 4096 = true) := by decide +kernel

/-! ## Chains, rings and barriers -/

/-- A chain of queue 0 with these KINDs, stage 0 in state `st`, and tile 0 with it. -/
def chn (kinds : List Nat) (st : List StageSt) (go : Bool) : Chain :=
  ⟨r0, false, go, kinds.map (fun k => BitVec.ofNat 64 (k * 2 ^ 60)), kinds.map (fun _ => []), st, kinds.map (fun _ => .none),
    kinds.map (fun _ => ([], [])), [], kinds.map (fun _ => []), false⟩
def wChn (ch : Chain) : State := (wCmds [{ cmd 0 [0x110] with phase := .begun }]).setChain 0 [ch]

theorem test_chainStagesBeginInTheirTurn :
    ((wChn (chn [1, 8] [.waiting, .waiting] false)).chain 0).find? (fun x => !x.started) =
      some (chn [1, 8] [.waiting, .waiting] false) ∧
    W.queByNum 0 = some (0, 0) ∧
    (∀ ch ∈ (wChn (chn [1, 9] [.waiting, .waiting] true)).chain 0, ch.turn 1 = false) ∧
    (∀ k ∈ [8, 9, 1], (chn [8, 1, k] [.complete, .complete, .waiting] true).turn 2 = true) ∧
    (chn [5, 5] [.begun, .waiting] true).turn 1 = true ∧ streamStage ((chn [5, 5] [] true).stages.getD 1 0).toNat = true ∧
    (chn [5, 5] [.waiting, .waiting] true).turn 1 = false ∧ ({ chn [1] [.waiting] true with stop := true }).stop = true ∧
    (∀ k ∈ [7, 8], let ch := chn [k, 1] [.waiting, .waiting] true; let s := wChn ch; let c := { cmd 0 [0x110] with phase := .begun }
      (s.chain 0).find? (fun x => decide (x.ref.q = queKey 0 0) && x.turn 0) = some ch ∧
        (s.q 0 0).cmds.find? (fun d => decide (d.head = ch.ref.head)) = some c ∧
        s.chainOf ⟨ch.ref.q, ch.ref.head, some 0⟩ = some (0, ch) ∧ ch.clear 0 (ch.sets.getD 0 ([], [])).1 [] = true ∧
        stKind (ch.stages.getD 0 0).toNat = k) := by decide +kernel

/-- Ring 63 of partition 0 with its register and contents. -/
def wRing (cfg : W32) (x : Ring) : State := ((wCmds [cmd 0 []]).setComm .rng 0 (0x100 + 4 * 63) cfg).setRing (ringKey 0 63) x
def aPush : RingParty × (W64 × W64) × Bool := (.chain 0 { r0 with stage := none }, (1, 2), false)
def aPop : RingParty × Bool := (.chain 0 { r0 with stage := none }, false)
def fullOf (n : Nat) : List (W64 × W64) := List.replicate n (0, 0)

theorem test_ringsAreFirstInFirstOut :
    (∀ x ∈ [(0x8000_0000, 0, true, true, false), (0x8000_0000, 256, true, true, false), (0xC000_0000, 256, true, true, true),
        (0, 0, false, true, false), (0x8000_0001, 0, true, false, false)],
      let s := wRing (BitVec.ofNat 32 x.1) { Ring.reset with entries := fullOf x.2.1, pushes := [aPush] }
      nextPush (s.ring (ringKey 0 63)) = some aPush ∧ s.ringOn 0 63 = x.2.2.1 ∧
        (s.partyCtx 0 aPush.1 = s.ringCtx 0 63 ↔ x.2.2.2.1) ∧ (s.ring (ringKey 0 63)).entries.length = x.2.1 ∧
        s.ringFaults 0 63 = x.2.2.2.2 ∧ (s.queOwner aPush.1.ref.q).isSome = true ∧ (s.cmdAt aPush.1.ref).isSome = true) ∧
    (∀ x ∈ [(0x8000_0000, 1, true, true), (0x8000_0000, 0, true, true), (0, 0, false, true), (0x8000_0001, 0, true, false)],
      let s := wRing (BitVec.ofNat 32 x.1) { Ring.reset with entries := fullOf x.2.1, pops := [aPop] }
      nextPop (s.ring (ringKey 0 63)) = some aPop ∧ s.ringOn 0 63 = x.2.2.1 ∧
        (s.partyCtx 0 aPop.1 = s.ringCtx 0 63 ↔ x.2.2.2) ∧ (s.ring (ringKey 0 63)).entries = fullOf x.2.1 ∧
        s.noWait aPop.1.ref = false) ∧
    ((wRing 0x8000_0000 { Ring.reset with entries := fullOf 256, pushes := [aPush] }).ring (ringKey 0 63)).entries.length ≤ 256 := by
  decide +kernel

theorem test_fullRingStays : ∃ t,
    exec (.ringPush 0 63) (wRing 0x8000_0000 { Ring.reset with entries := fullOf 256, pushes := [aPush] }) = .next t := ⟨_, rfl⟩

/-- Barrier 15 of partition 0 with COUNT and contents, and a command of queue 0. -/
def wBar (count : W32) (b : Bar) : State := ((wCmds [cmd 0 []]).setComm .rng 0 (0x400 + 8 * 15) count).setBar (barKey 0 15) b
def opened (ts : List Nat) (n : Nat) : Bar :=
  { Bar.reset with isOpen := true, owner := ctxKey 0 0, expect := n, opened := List.range 48
                   arrived := ts.map (fun t => (t, r0)), inbound := [(0, r0)] }

theorem test_barriersCountTheirArrivals :
    (∀ n ∈ [0, 2], let s := wBar (BitVec.ofNat 32 n) { Bar.reset with inbound := [(0, r0)] }; let x := s.bar (barKey 0 15)
      x.inbound = (0, r0) :: [] ∧ x.isOpen = false ∧ s.barCount 0 15 = n ∧ (s.onTiles 0).length ≠ 1) ∧
    (∀ n ∈ [2, 3], let s := wBar 0 (opened [1] n); let x := s.bar (barKey 0 15)
      x.inbound = (0, r0) :: [] ∧ x.isOpen = true ∧ x.owner = s.refCtx r0 ∧ (∀ y ∈ x.arrived, y.1 ≠ 0) ∧ 0 ∈ x.opened ∧
        (x.arrived.length + 1 = x.expect ↔ n = 2)) ∧
    (let s := wBar 0 (opened [0] 2); let x := s.bar (barKey 0 15)
     x.isOpen = true ∧ (∃ y ∈ x.arrived, y.1 = 0) ∧ (s.queOwner r0.q).isSome = true ∧ (s.cmdAt r0).isSome = true) ∧
    ((wBar 0 { Bar.reset with notices := [(47, r0)] }).bar (barKey 0 15)).notices.find? (fun y => decide (y.1 = 47)) = some (47, r0) ∧
    (let k := ctxKey 0 0
     (∀ x ∈ [(true, [(47, k)], 47), (true, [(47, k), (3, k)], 0), (false, [(47, k)], 0), (true, [(47, k)], 0)],
       let y := { opened [47] 2 with isOpen := x.1, cancelling := x.2.1, inbound := [(x.2.2, r0)] }
       let s := wBar 0 y
       (s.bar (barKey 0 15)).cancelling.find? (fun z => decide (z.1 = 47)) = some (47, k) ∧
         (s.bar (barKey 0 15)).isOpen = x.1 ∧ (s.bar (barKey 0 15)).owner = k ∧ s.refCtx r0 = k ∧
         ((s.bar (barKey 0 15)).cancelling.erase (47, k) = [] ∨ x.2.1 = [(47, k), (3, k)])) ∧
       ∀ g ∈ W.partsOf, (W.part g.num).rstRuns = [] ∧ (W.part g.num).resetting = []) := by decide +kernel

/-! ## Attention, frames, sessions and prefixes -/

/-- An attention command of one entry whose batch table is at 0x4040_0000, in `W` with an operation of stack 0 on it. -/
def cAtt (op w6 : W64) : Cmd :=
  { cmd 0 [0x1000_0000_0000_0000 ||| op, 0, 0, 0, 0, 0, w6 ||| 0x4040_0000, 0, 0x0880_0000_0000_0000] with
    phase := .begun, held := [⟨0x4040, scratchBase 0⟩] }
def aOp (next : Nat) (es : List AttEntry) : AttOp := ⟨r0, false, true, next, es⟩
def wAtt (c : Cmd) (o : AttOp) : State := (wCmds [c]).setNme 0 { Nme.reset with ops := [o] }
def ent (fs : List FrameRef) (waiting written : Bool) : AttEntry := ⟨0, [], [], fs, 0, [], .ok, [], waiting, written, [], [], []⟩

theorem test_attentionTakesEntriesInOrder :
    (∀ b ∈ [false, true], let o : AttOp := { aOp 0 [] with bwd := b, started := false }
      ((wAtt (cAtt 0x401 0) o).nme 0).ops = o :: [] ∧ o.bwd = b ∧ (∀ x ∈ [o], x.started = false)) ∧
    (let c := cAtt 0x401 0
     (∀ o ∈ [aOp 0 [ent [] true false], aOp 1 [], aOp 0 []], (wAtt c o).nmeOp 0 = some (o, c, 0, 0)) ∧
       (∃ e ∈ (aOp 0 [ent [] true false]).entries, e.waiting = true) ∧ atN c ≤ (aOp 1 []).next ∧ (aOp 0 []).next < atN c ∧
       (wAtt c (aOp 0 [])).heldPoison 0 c.held (atBatch c + 64 * 0) 64 = false ∧
       ((wAtt c (aOp 0 [])).takeEntry 0 0 0 0 c).1.toOption.isSome = true) := by decide +kernel

theorem test_attentionWalksAndHandsOver :
    (let c := cAtt 0x401 0; let e := ent [⟨0, 0, 1⟩, ⟨1, 1, 1⟩] false false; let o := aOp 1 [e]; let s := wAtt c o
     s.nmeOp 0 = some (o, c, 0, 0) ∧ s.walking 0 0 o c = some e ∧ s.ldgHolds ⟨.ldgStack, 0⟩ 4 = false ∧ e.status = .ok ∧
       e.frames[e.walked]? = some ⟨0, 0, 1⟩ ∧ e.walked + 1 ≠ e.frames.length ∧ atBwd c = false ∧
       ∀ x ∈ (atForm c).parts 0 (slotsOf ⟨0, 0, 1⟩ (enLimit e.words)), (s.eccChecks 0 [] [.clean]).poisoned (s.frameBase 0 0 + x.1) x.2 = false) ∧
    (∀ b ∈ [false, true], ∀ g ∈ [false, true], let c := cAtt 0x401 (if g then 1 <<< 63 else 0); let e := ent [] false b
      let o := aOp 1 [e, e]; let s := wAtt c o
      s.nmeOp 0 = some (o, c, 0, 0) ∧ o.entries = e :: [e] ∧ e.written = b ∧ atRingEn c = g ∧
        (s.flushReads (entryHost s 0 c e).toList).1 = none) ∧
    (let c := cAtt 0x401 (1 <<< 63); let e := { ent [] false true with words := List.replicate 8 0x4000_0000, pages := [⟨0x4000, hostBase⟩] }
     let s : State := { wAtt c (aOp 1 [e]) with pcx := Pcx.reset }
     s.nmeOp 0 = some (aOp 1 [e], c, 0, 0) ∧ e.written = true ∧ atRingEn c = true ∧
       (s.flushReads (entryHost s 0 c e).toList).1.isSome = true) ∧
    (let o : SpillOp := ⟨3, 2, 0, .command⟩; let s := W.setKvf 0 { Kvf.reset with spill := [o] }
     (s.kvf 0).spill = o :: [] ∧ o.forW = .command ∧ (s.ses (s.stackPart 0)).op = none ∧ s.hostOk (s.fnOf (s.stackPart 0)) = true ∧
       ∀ i < 32, s.poisoned (s.frameBase 0 3 + 4096 * i) 4096 = false) := by
  refine ⟨?_, ?_, ?_, ?_⟩ <;> decide +kernel

/-- `W` with frames in stack 0 only, with the handle of slot 1 in ARG0 and ARG2 of partition 0's sessions, whose slot 1 is
open with GEN 1, and `v` as stack 0's frames. -/
def wSes (x : Ses) (v : Kvf) : State :=
  let g : PartCfg := ⟨0, 0, 0xFFF, 0xFF, 0x3F, 4, 4, 4, 4, [4], 0xFFFF, 0xFFFF⟩
  let s : State := { W with img := { Img.reset with applied := some ⟨[g], noMask, [], 0, [], [((1, 0), [])]⟩ } }
  ((s.setBlk ⟨.ses, 0⟩ { BlockRegs.reset with plain := [(0x10, 0x1_0001), (0x18, 0x1_0001)] }).setSes 0
    { x with slots := [(1, { SesEnt.reset with st := .opened, gen := 1 })] }).setKvf 0 v

/-- A frame table whose chain of slot 1 has the member given. -/
def kv (m : MemberRef) : Kvf :=
  { Kvf.reset with
    frames := (match m with
      | .frame n => [(n, { FrameEnt.reset with st := .live, refs := 1, valid := 1, owner := 0x1_0001 })]
      | .spilled _ => [])
    recs := (match m with
      | .frame _ => []
      | .spilled n => [(n, ⟨.spilled, { FrameEnt.reset with st := .live, valid := 1 }⟩)])
    dir := [⟨1, 0, 0, some m, 1⟩] }

theorem test_sessionsOpenAndClose :
    (∀ m ∈ [Master.pf, .mgmt], let s := wSes .reset .reset
      s.reaches m ⟨.ses, 0⟩ = true ∧ (s.cfgOf 0).isSome = true ∧ s.fnOrKp m 0 = decide (m = .pf)) ∧
    ((wSes { Ses.reset with op := some (.close 1) } .reset).ses 0).op ≠ none ∧ ((wSes .reset .reset).ses 0).op = none ∧
    (let h := fun (s : State) => BitVec.ofNat 32 (s.sesArg 0 0)
     (wSes .reset .reset).liveSes 0 (h (wSes .reset .reset)) = true ∧ W.liveSes 0 (h W) = false ∧
       ((wSes .reset .reset).openSlot 0).map (·.1) = some 0 ∧
       (W.setSes 0 { Ses.reset with slots := (List.range 4).map (fun i => (i, { SesEnt.reset with st := .opened })) }).openSlot 0 =
         none) ∧
    (let s := (wSes .reset (kv (.frame 0))).setPlain .ses 0 0x14 0x20000
     ((s.sesEnt 0 1).policyWord (s.sesArg 0 1)).place ≠ (s.sesEnt 0 1).place ∧ s.hasChain 0 1 = true) ∧
    (wSes .reset .reset).hasChain 0 1 = false ∧
    (let s := wSes { Ses.reset with op := some (.close 1) } (kv (.frame 0))
     (s.ses 0).op = some (.close 1) ∧ s.sesHeld 0 1 = false ∧ s.sesSpilling 0 1 = false) ∧
    (let s := wSes { Ses.reset with op := some (.close 1) } { kv (.spilled 0) with recs := [(0, ⟨.spilling, .reset⟩)] }
     (s.ses 0).op = some (.close 1) ∧ s.sesSpilling 0 1 = true) := by decide +kernel

theorem test_framesForkAttachAndSpill :
    (∀ v ∈ [Kvf.reset, kv (.frame 5), kv (.spilled 7)], let s := wSes .reset v
      s.reaches .pf ⟨.ses, 0⟩ = true ∧ (s.cfgOf 0).isSome = true ∧ s.fnOrKp .pf 0 = true ∧ (s.ses 0).op = none ∧
        s.liveSes 0 (BitVec.ofNat 32 (s.sesArg 0 0)) = true ∧ s.liveSes 0 (BitVec.ofNat 32 (s.sesArg 0 2)) = true ∧
        s.frameStacks 0 = [0] ∧ s.hasChain 0 1 = decide (v ≠ .reset) ∧
        (s.kvf 0).spillable 1 0 = (if v = kv (.frame 5) then [5] else []) ∧
        (s.kvf 0).fetchable 1 0 = (if v = kv (.spilled 7) then [7] else [])) ∧
    ((wSes .reset (kv (.spilled 7))).kvf 0).sesMembers 1 = [.spilled 7] ∧
    ((wSes .reset (kv (.frame 5))).openSlot 0).map (·.1) = some 0 ∧
    ((wSes .reset .reset).attachFrom 0 1 ((wSes .reset .reset).argChains 0) .args 0 0).1 = (0, true) ∧
    ((wSes .reset .reset).publishFrom 0 1 ((wSes .reset .reset).argChains 0) .args 0 0).1 = (0, 0) ∧
    ((wSes .reset (kv (.frame 5))).setComm .kvf 0 0x28 8).freeRec 0 = some 0 ∧
    ((wSes .reset (kv (.spilled 7))).alloc 0 0 0 .fetch nobody).1 = .got 0 ∧
    (let s := wSes { Ses.reset with op := some (.fetch 1 0 (0, 8)) } { kv (.spilled 7) with fetchOp := some (7, 0) }
     (s.kvf 0).fetchOp = some (7, 0) ∧ s.stackPart 0 = 0 ∧ (s.ses 0).op = some (.fetch 1 0 (0, 8)) ∧ s.hostOk (s.fnOf 0) = true ∧
       s.reaches .pf ⟨.kvf, 0⟩ = true ∧ s.pfOrKp .pf (s.stackPart 0) = true) := by decide +kernel

/-! ## The host, the keeper cores and atomics -/

/-- `W` with posted writes of the physical function. -/
def wPost (l : List (Nat × List Byte × Bool)) : State := W.setFunc 0 { W.func 0 with posted := l }

/-- `W` with core 1 behind a fence, its last write to the host as given, the link as given. -/
def wFence (l : List (Nat × HostWr)) (up : Bool) : State :=
  { W.setPair 0 { W.pair 0 with fenced := [1], hostWr := l } with pcx := { W.pcx with up := up } }

theorem test_keeperStoresReleaseBehindTheirFlush :
    W.coreReleases 1 (scratchBase 0) 8 = false ∧ (wFence [] true).coreReleases 0 (scratchBase 0) 8 = false ∧
    (∀ x ∈ [([], true, true), ([(1, ⟨0, hostBase, 0⟩)], true, true), ([(1, ⟨0, hostBase, 0⟩)], false, false)],
      let s := wFence x.1 x.2.1
      s.coreReleases 1 (scratchBase 0) 8 = true ∧ s.keepAt 0 (scratchBase 0) 8 = .mem ∧
        (s.coreFlush 1 (scratchBase 0)).1.isNone = x.2.2) ∧
    ({ W with pairs := [(0, { W.pair 0 with fenced := [0] })] } : State).coreReleases 0 (scratchBase 0) 8 = true := by decide +kernel

theorem test_hostAndKeeperAccessesReachTheirPlace :
    (let s := wPost [(scratchBase 47, [1], false), (stackBase 11, [2], false), (stackBase 11, [2], true)]
     (s.func 0).posted[0]? = some (scratchBase 47, [1], false) ∧ (s.func 0).posted[1]? = some (stackBase 11, [2], false) ∧
       (s.func 0).posted[2]? = some (stackBase 11, [2], true) ∧ physAt (stackBase 11) = .stack 11 ∧
       physAt (scratchBase 47) = .scratch 47) ∧
    bar2Ok (2 ^ 36 - 512) 512 = true ∧ bar2Ok 0 64 = true ∧ W.fnOn 0 = true ∧ W.domOn domHub = true ∧
    (W.bar2At 0 0).any (fun a => decide (physAt a = .stack 0)) = true ∧ 
    (let s := W.setFunc 8 { Func.reset with present := true }; s.fnOn 8 = true ∧ s.bar2At 8 0 = none) ∧
    (0x3F_FFFC < 0x400_0000 ∧ W.bar0 0 0x44 = .ctl 0x2000_0000_0044 ∧ W.inReach 0 0x2000_0000_0044 = true ∧
      (W.ctlRead (fnMaster 0) 0x2000_0000_0044).isSome = true) ∧
    W.domOn (domKp 0) = true ∧ (W.pair 0).inReset = false ∧ W.keepAt 0 (scratchBase 0) 64 = .mem ∧
    W.poisoned (scratchBase 0) 64 = false ∧ W.keepAt 0 (scratchBase 0 + 0x60_0000) 1 = .none := by decide +kernel

theorem test_atomicsAnswerTheOldValue :
    (∀ op ∈ [AtomOp.add, .maxU], atomOk op 8 0x40 = true ∧ bar2Ok 0x40 8 = true ∧ hostHas op = decide (op = .add)) ∧
    atomOk (.cas 0) 16 0x40 = true ∧ W.fnOn 0 = true ∧ W.domOn domHub = true ∧
    ((W.flushPosted 0).bar2At 0 0x40).any (fun a => (W.flushPosted 0).atomHome a 8) = true ∧
    W.domOn (domKp 0) = true ∧ W.keepAt 0 (scratchBase 0) 8 = .mem ∧ W.poisoned (scratchBase 0) 8 = false ∧
    atomOk .add 8 (scratchBase 0) = true ∧ W.atomHome (scratchBase 0) 8 = true ∧
    (let s : State := { W with img := { Img.reset with applied := some { img0 with parts := img0.parts.map (fun c => { c with function := 1 }) } } }
     let s := s.setFunc 1 { Func.reset with present := true }
     s.partOfStack 11 = s.partOfFn 1 ∧ (s.partOfFn 1).isSome = true ∧ s.fnOn 1 = true ∧ s.domOn domHub = true ∧
       physAt (stackBase 11) = .stack 11 ∧ (s.flushPosted 1).atomHome (stackBase 11) 8 = true) ∧
    physAt 0x40 = .stack 0 ∧ (W.flushPosted 0).atomHome 0x40 8 = true ∧
    (let s : State := { W with pcx := { W.pcx with reqs := [.atomic 1 hostBase .maxU 8 5] } }
     s.pcx.reqs[0]? = some (.atomic 1 hostBase .maxU 8 5) ∧
       s.hostOk (((s.partOfKp 0).map s.fnOf).getD 0) = true ∧ atomNew .maxU 8 7 5 = 7 ∧ atomNew .maxU 8 3 5 ≠ 3) := by
  decide +kernel

/-! ## Links -/

/-- `W` with link 0 of a board as given. -/
def wLnk (k : Link) : State := ({ W with board := { Board.reset with pos := some 0 } } : State).setLink 0 k
def up : Link := { Link.reset with st := .up, rxLseq := 511 }
def frm (typ lseq : Nat) : Frame := { W.mkFrame 0 typ 0 0 [] with lseq := BitVec.ofNat 9 lseq }

theorem test_countersBoundWhatLinksAccept :
  ∀ n ∈ [127, 128], let f := { frm 1 511 with spray := true, epoch := 200 }
    let u := wLnk up
    let s : State := { u with board := { u.board with rx := [(0, ⟨0, [], (List.range n).map (fun i => (BitVec.ofNat 8 i, 0)), []⟩)] } }
    f.spray = true ∧ (s.rx (s.srcKey 0 f)).closed.any (· = f.epoch) = false ∧ (s.srcKey 0 f, f.epoch) ∉ s.sprayEpochs ∧
      s.accepts 0 f = decide (n = 127) := by decide +kernel

theorem test_linksAcknowledgeAndReplay :
    (∀ x ∈ [(1, 511), (9, 511), (0, 511), (1, 0)], let f := frm x.1 x.2; let s := wLnk up
      (s.link 0).st = .up ∧ (f.typ ≠ 0 ∧ f.typ ≠ 3 ∧ f.typ ≠ 4 ∧ f.lseq = (s.link 0).rxLseq ↔ x.1 ≠ 0 ∧ x.2 = 511) ∧ s.accepts 0 f = true) ∧
    (∀ n ∈ [6, 7], let s := wLnk { up with unacked := [(frm 1 510, none), (frm 1 511, none)], replays := n }
      fromLseq (s.link 0).unacked 511 = [(frm 1 511, none)] ∧ fromLseq (s.link 0).unacked 0 = [] ∧ (s.link 0).st = .up ∧
        ((s.link 0).replays < 7 ↔ n = 6) ∧ s.linksTo (0 / 4) (s.peerOf 0) = [0] ∧
        ∀ g ∈ s.teamOf (0 / 4), (s.tx g (s.peerOf 0)).again = [] ∧ (s.tx g (s.peerOf 0)).waiting = []) ∧
    W.reaches .pf ⟨.lnk, 5⟩ = true ∧ W.linkOn 23 = true ∧ State.reset.reaches .pf ⟨.lnk, 5⟩ = false := by decide +kernel

theorem test_linksTrainAndChangeMode :
    (∀ c ∈ W.partsOf, (W.part c.num).rstRuns = []) ∧ State.reset.linkOn 0 = false ∧ (wLnk .reset).linkOn 0 = true ∧
    (∀ st ∈ [LinkSt.down, .training, .retrain], ((wLnk { up with st := st }).link 0).st = st ∧ st ≠ .up ∧ st ≠ .failed) ∧
    (∀ n ∈ [0, 1, 2], let s := wLnk { up with st := .retrain, fails := n }
      (s.link 0).fails = n ∧ s.samplePos.expired (.trainWindow 0 0) = false) ∧
    (∀ x ∈ [((1 : Fin 24), (1 : Nat)), (0, 2), (0, 1)],
      ((x.1 ≠ 0 ∨ x.2 ≠ (wLnk .reset).samplePos.peerOf 0) ↔ x ≠ (0, 1))) := by decide +kernel

/-- Group 0 of `W` with LNK_CTL at `cur` and a write of `new` that waits, and what it sends to peer 1. -/
def wMode (cur new : W32) (x : TxDest) : State :=
  (W.setBlk ⟨.lnk, 0⟩ { BlockRegs.reset with
    comm := [(0x10, cur)], staged := [(0x10, new)], snap := [(0x10, new)], pend := [0] }).setLg 0
    { LinkGroup.reset with tx := if x = .reset then [] else [(1, x)] }

theorem test_linkModesChange :
    (∀ sp ∈ [true, false], let s := wMode 0x0F 0x8000_000F { TxDest.reset with unperf := [⟨sp, 0, 0, false, false, none⟩] }
      s.modeChanging 0 = true ∧ s.sprays 0 = false ∧ (∀ e ∈ (s.lg 0).tx, ∀ w ∈ e.2.unperf, w.spray = sp)) ∧
    (let s := wMode 0x8000_000F 0x0F .reset
     s.modeChanging 0 = true ∧ s.sprays 0 = true ∧ ∀ e ∈ (s.lg 0).tx, e.2.count = 0 ∧ e.2.openE = [] ∧ e.2.unperf = []) ∧
    (let x := { TxDest.reset with count := 3 }; let s := wMode 0x8000_000F 0x0F x
     s.modeChanging 0 = true ∧ s.sprays 0 = true ∧ (s.lg 0).tx = [(1, x)] ∧ x.count ≠ 0 ∧ s.nextLink 0 1 = none) := by
  decide +kernel

/-- Link 0 with `f` accepted, its source as `x`, and what the board has received. -/
def wArr (f : Frame) (x : RxSrc) : State :=
  let s := wLnk { up with rxq := [f] }
  ({ s with board := { s.board with rx := [(0, x)] } } : State).setComm .cle 0 0x10 0x8000_0000
def write1 (sp lamp : Bool) (q : Nat) : Frame :=
  { W.mkFrame 0 1 0 0x10000 [7] with spray := sp, lamp := lamp, seq := BitVec.ofNat 32 q, epoch := 4 }
def rxAt (q : Nat) (counts : List (Byte × Nat)) (closed : List Byte) : RxSrc := ⟨BitVec.ofNat 32 q, [], counts, closed⟩

theorem test_arrivalsFollowTheirMode :
    (∀ q ∈ [5, 7], let f := write1 false false q; let s := wArr f (rxAt 5 [] [])
      f ∈ (s.link 0).rxq ∧ f.typ = 1 ∧ s.srcKey 0 f = 0 ∧ (f.seq = (s.rx 0).seq ↔ q = 5) ∧ (s.rx 0).early = [] ∧
        (f.seq - (s.rx 0).seq).toNat < 2 ^ 31) ∧
    (∀ x ∈ [rxAt 0 [] [4], rxAt 0 [] [], rxAt 0 [(4, 1)] []], let f := write1 true false 0; let s := wArr f x
      let v := s.setLink 0 { s.link 0 with rxq := [] }
      f ∈ (s.link 0).rxq ∧ f.spray = true ∧ f.lamp = false ∧ ((4 : Byte) ∈ (s.rx 0).closed ↔ x = rxAt 0 [] [4]) ∧
        s.mayCount (s.rx 0) f.epoch = true ∧ (v.performFrame 0 f).1 = true ∧
        ((v.setComm .cle 0 0x10 0).performFrame 0 f).1 = false) ∧
    (let f := write1 true false 0; let s := wArr f (rxAt 0 (List.replicate 128 (5, 0)) [])
     (4 : Byte) ∉ (s.rx 0).closed ∧ s.mayCount (s.rx 0) f.epoch = false) ∧
    (let f := write1 true true 2; let s := wArr f (rxAt 0 [] [])
     f ∈ (s.link 0).rxq ∧ f.spray = true ∧ f.lamp = true ∧ (4 : Byte) ∉ (s.rx 0).closed ∧ s.lampHeld 0 4 = false ∧
       s.mayCount (s.rx 0) f.epoch = true ∧ (s.setLg 0 { LinkGroup.reset with lamps := [⟨0, f, 0⟩] }).lampHeld 0 4 = true ∧
       (4 : Byte) ∈ ((wArr f (rxAt 0 [] [4])).rx 0).closed ∧
       (let u := wArr f (rxAt 0 (List.replicate 128 (5, 0)) [])
        (4 : Byte) ∉ (u.rx 0).closed ∧ u.lampHeld 0 4 = false ∧ u.mayCount (u.rx 0) f.epoch = false)) := by decide +kernel

theorem test_lampsAndRejects :
    (∀ n ∈ [1, 2], let h : HeldLamp := ⟨0, write1 true true 2, 0⟩
      let s := (wArr h.frame (rxAt 0 [(4, n)] [3])).setLg 0 { LinkGroup.reset with lamps := [h] }
      (s.lg 0).lamps[0]? = some h ∧ (h.frame.seq.toNat ≤ ((s.rx 0).countOf 4).getD 0 ↔ n = 2) ∧ (s.rx 0).turnOf 4 = true ∧
        s.expired (.lamp 0 0 4) = false ∧
        ({ s with timers := [⟨.lamp 0 0 4, .link 0, 0⟩] } : State).expired (.lamp 0 0 4) = true) ∧
    (let f := write1 false false 0; let s := wArr f .reset
     f.data ≠ [] ∧ ¬ (f.typ = 2 ∧ f.data.length = 16) ∧ f.typ = 1 ∧ (s.inboundPlace f f.data.length).1.isSome = true ∧
       ((s.setComm .cle 0 0x10 0).inboundPlace f f.data.length).1 = none) := by decide +kernel

/-- A command of link group 0's engine between positions 0 and 1, and the group with it. -/
def cCle (op : Nat) : Cmd :=
  { cmd 0 [BitVec.ofNat 64 (0x1000_0000_0000_0500 + op), 0, 0, 0, 0, 0,
      (if op = 1 then 1 <<< 60 else 3 <<< 56) ||| 0x4040_0000, 0x4040_1000, if op = 1 then 64 else 0x4040_2000, 31] with
    phase := .begun, held := [⟨0x4040, stackBase 5⟩] }
def wCle (op : Nat) (e : Cle) : State :=
  let s := wLnk .reset
  (s.setQue 0 { s.que 0 with cmds := [cCle op] }).setCle 0 e
def coll (started : Bool) (ready got : List Nat) (red : Bool) : CollOp := ⟨r0, started, ready, [], [], got, red, [], 0, 0, []⟩

theorem test_sendsAndCollectivesStart :
    (∀ b ∈ [false, true], let s : State := { wCle 1 { Cle.reset with sends := [⟨r0, false, 1, 0, 0⟩] } with
        poison := if b then [(stackBase 5 / 64, true)] else [] }
      (s.cle 0).sends.find? (fun x => !x.started) = some ⟨r0, false, 1, 0, 0⟩ ∧ s.cmdAt r0 = some (cCle 1) ∧
        s.queOwner r0.q = some (0, 0) ∧ s.nextLink 0 (clPeer (cCle 1)) = none ∧
        s.heldPoison 0 (cCle 1).held (clSrc (cCle 1)) (clLen (cCle 1)) = b) ∧
    (∀ op ∈ [2, 3, 4], let s := wCle op { Cle.reset with coll := some (coll false [] [] false) }
      (s.cle 0).coll = some (coll false [] [] false) ∧ s.cmdAt r0 = some (cCle op) ∧ s.queOwner r0.q = some (0, 0) ∧
        (s.cle 0).early = [] ∧ (cCle op).opcode = op ∧ clMembers (cCle op) = [0, 1] ∧ s.boardPos = 0 ∧ s.nextLink 0 1 = none) := by
  decide +kernel

/-- Link 0 with a frame of the command's group, whose engine runs the collective given. -/
def wColl (op : Nat) (o : CollOp) (f : Frame) : State := (wCle op { Cle.reset with coll := some o }).setLink 0 { up with rxq := [f] }

theorem test_collectivesContributeAndReduce :
    (∀ n ∈ [63, 64], let f := W.mkFrame 0 6 0 0 [0, 0, 0, 0, 0, 0]
      let s := (wLnk { up with rxq := [f] }).setCle 0 { Cle.reset with early := (List.range n).map (fun i => (1, BitVec.ofNat 16 (i + 1), 0)) }
      f ∈ (s.link 0).rxq ∧ f.typ = 6 ∧ frameGroup f = 0 ∧ s.collOp 0 = none ∧ ((s.cle 0).early.length < 64 ↔ n = 63) ∧
        ∀ x ∈ (s.cle 0).early, ¬ (x.1 = s.peerOf 0 ∧ x.2.1.toNat = frameColl f)) ∧
    (1 = (wLnk up).peerOf 0 ∧ (0 : BitVec 16).toNat = frameColl (W.mkFrame 0 6 0 0 [0, 0, 0, 0, 0, 0])) ∧
    (let s := wCle 2 { Cle.reset with coll := some (coll true [1] [] false) }
     s.collOp 0 = some (coll true [1] [] false, cCle 2, 0) ∧ 1 ∈ (coll true [1] [] false).readySent ∧ 0 ∉ (coll true [1] [] false).readySent ∧
       ({ s with timers := [⟨.readyAgain 0 1, .link 0, 0⟩] } : State).expired (.readyAgain 0 1) = true) ∧
    (∀ op ∈ [2, 3], ∀ b ∈ [false, true], let o := coll true [1] [1] false
      let s : State := { wCle op { Cle.reset with coll := some o } with poison := if b then [(stackBase 5 / 64, true)] else [] }
      let c := cCle op
      s.collOp 0 = some (o, c, 0) ∧ clGather c = false ∧ o.reduced = false ∧ o.contribOf.length = clM c - 1 ∧ c.opcode = op ∧
        o.resultOf.length ≠ clM c - 1 ∧ s.heldPoison 0 c.held (clSrc c) (clSlice c) = b ∧
        s.heldPoison 0 c.held (clStage c) (clSlice c) = false) := by
  refine ⟨?_, ?_, ?_⟩ <;> decide +kernel

/-- A READY that agrees, and one that does not. -/
def readyOf (d : W32) : Frame := W.mkFrame 0 6 0 0 (leBytes 2 0 ++ leBytes 4 d.toNat)

theorem readyOf_digest (d : W32) : BitVec.ofNat 32 (frameDigest (readyOf d)) = d := by
  have h : d.toNat < 2 ^ 32 := d.isLt
  apply BitVec.eq_of_toNat_eq
  simp [readyOf, frameDigest, State.mkFrame, leBytes, leNat]
  omega

theorem test_readyMeetsTheCollective (d : W32) :
    let o := coll true [1] [] false; let s := wColl 2 o (readyOf d); let c := cCle 2
    readyOf d ∈ (s.link 0).rxq ∧ (readyOf d).typ = 6 ∧ s.collOp (frameGroup (readyOf d)) = some (o, c, 0) ∧
      clCollId c = frameColl (readyOf d) ∧ (collDigest c = BitVec.ofNat 32 (frameDigest (readyOf d)) ↔ d = collDigest c) ∧
      s.peerOf 0 ∈ clMembers c ∧ s.peerOf 0 ≠ s.boardPos ∧ s.peerOf 0 ∉ o.readyGot ∧ s.peerOf 0 ∉ o.contribTo ∧
      o.contribOf.length ≠ clM c - 1 ∧ s.heldPoison 0 c.held (clSrc c + rankOf (clMembers c) 1 * clSlice c) (clSlice c) = false := by
  refine ⟨List.mem_singleton.2 rfl, rfl, rfl, rfl, ?_, ?_⟩
  · rw [readyOf_digest]; exact eq_comm
  · have h : let o := coll true [1] [] false; let s := wCle 2 .reset; let c := cCle 2
        s.peerOf 0 ∈ clMembers c ∧ s.peerOf 0 ≠ s.boardPos ∧ s.peerOf 0 ∉ o.readyGot ∧ s.peerOf 0 ∉ o.contribTo ∧
          o.contribOf.length ≠ clM c - 1 ∧
          s.heldPoison 0 c.held (clSrc c + rankOf (clMembers c) 1 * clSlice c) (clSlice c) = false := by decide +kernel
    exact h

/-- Group 0 with a write to peer 1 that is not acknowledged, and the answer to it. -/
def wAns (typ op : Nat) (e : Cle) (w : Sent) : State :=
  ((wCle op e).setLg 0 { LinkGroup.reset with tx := [(1, { TxDest.reset with unperf := [w] })] }).setLink 0
    { up with rxq := [W.mkFrame 0 typ 0 0 []] }
def sent (r : Option CmdRef) (bare : Bool) : Sent := ⟨false, 0, 0, false, bare, r⟩

theorem test_acknowledgementsCompleteOrFailCommands :
    (∀ typ ∈ [5, 8, 9], ∀ x ∈ [(1, ({ Cle.reset with sends := [⟨r0, true, 1, 1, 0⟩] } : Cle)), (1, { Cle.reset with sends := [⟨r0, true, 1, 2, 0⟩] }),
        (2, { Cle.reset with coll := some (coll true [] [] false) })],
      ∀ w ∈ [sent (some r0) false, sent none false, sent (some r0) true],
      let f := W.mkFrame 0 typ 0 0 []; let s := wAns typ x.1 x.2 w
      f ∈ (s.link 0).rxq ∧ f.typ = BitVec.ofNat 4 typ ∧ frameGroup f = 0 ∧
        ((s.setLink 0 { s.link 0 with rxq := (s.link 0).rxq.erase f }).settle 0 f).map (fun y => (y.1, y.2.cle 0)) = some (w, x.2) ∧
        (s.queOwner r0.q).isSome = true ∧ (s.cmdAt r0).isSome = true) ∧
    (∀ d ∈ [[0, 0], [1, 0]], let f := W.mkFrame 0 7 0 0 (d.map (BitVec.ofNat 8)); let o := coll true [1] [] false; let s := wColl 2 o f
      f ∈ (s.link 0).rxq ∧ f.typ = 7 ∧ s.collOp (frameGroup f) = some (o, cCle 2, 0) ∧
        (clCollId (cCle 2) = frameColl f ↔ d = [0, 0])) ∧
    (let s := wCle 1 { Cle.reset with sends := [⟨r0, true, 1, 1, 0⟩] }
     s.queByNum 0 = some (0, 0) ∧ s.expired (.coll 0 (queKey 0 0) 0) = false ∧ (s.cle 0).sends.any (fun o => decide (o.ref = r0)) = true ∧
       ({ s with timers := [⟨.coll 0 0 0, .link 0, 0⟩] } : State).expired (.coll 0 (queKey 0 0) 0) = true) := by decide +kernel

/-! ## The keeper runtime -/

/-- A session record of queue 2 for the session of slot 1, with PARAM and its extension words. -/
def cRt (op par : Nat) (ext : List W64) : Cmd :=
  { cmd 0 ([BitVec.ofNat 64 ((if op = 2 ∨ op = 3 then 1 <<< 60 else 0) + 0x600 + op), 0, 0, 0, 0, 0,
      BitVec.ofNat 64 (par * 2 ^ 32 + if op = 1 then 0 else 0x1_0001), 0x4040_0000] ++ ext) with phase := .begun }
def r2 : CmdRef := ⟨queKey 0 2, 0, none⟩
def wRt (c : Cmd) (x : Pair) : State :=
  let s := wSes .reset .reset
  ({ s with sec := { s.sec with keeperFw := some true } } : State).setQue 2 { s.que 2 with cmds := [c] } |>.setPair 0 x
def pair0 : Pair := W.pair 0
def live1 : W32 := 0x1_0001
def dec (k : Nat) (redo : Bool) : DecodeReq :=
  ⟨r2, 0, live1, 0x4040_0000, 4, 0x4040_0100, 1000, 0, 0, 0, 0, 0, k, 0, 1000, 0, redo, none⟩

theorem test_runtimeWritesItsOutcomes :
    let v := (wRt (cRt 1 0 []) pair0).updPair 0 (fun x => { x with taken := x.taken.erase r2, working := none })
    (v.storeVa (tlbPart 0) 0 (v.qCtx 0 2) (srRes (cRt 1 0 [])) (leBytes 8 6)).1.toOption.isSome = true ∧
    (v.storeVa (tlbPart 0) 0 (v.qCtx 0 2) 0x4020_0000 (leBytes 8 6)).1.toOption = none ∧ W.rtRecord 0 2 1 = none := by
  decide +kernel

theorem test_recordsPassOrFailTheirReservedBits :
    (∀ c ∈ [cRt 1 0 [], cRt 2 1 [0x4040_0000], cRt 3 1 [0, 1000], cRt 4 0 [], cRt 4 1 [], cRt 5 0 [], cRt 6 0 []],
      (wRt c pair0).srBad 0 2 c = false) ∧
    (∀ c ∈ [cRt 1 (2 ^ 16) [], cRt 2 1 [0x4040_0000, 0, 0, 0x7000_0000_0000_0001], cRt 3 1 [0, 1000, 0x6000_0000_0000_0001]],
      (wRt c pair0).srBad 0 2 c = true) ∧
    (∀ op ∈ [1, 2, 3, 4, 5, 6], let c := cRt op 0 (List.replicate 5 (2 ^ 63)); (wRt c pair0).rtRecord 0 2 op = some (0, r2, c)) := by
  decide +kernel

theorem test_runtimeAcceptsSessionRequests :
    (∀ op ∈ [1, 2, 3, 4, 5, 6], let c := cRt op 1 []; (wRt c pair0).rtRecord 0 2 op = some (0, r2, c)) ∧
    srHandle (cRt 4 1 []) = live1 ∧ (wRt (cRt 4 1 []) pair0).liveSes 0 live1 = true ∧ W.liveSes 0 live1 = false ∧
    (∀ va ∈ [0x4040_0000, 0x4020_0000], let c := cRt 2 1 [BitVec.ofNat 64 va]; let s := wRt c pair0
      0 < srParam c ∧ srParam c < 2 ^ 24 ∧ s.sessionOutcome 0 (s.pair 0) (srHandle c) true = 0 ∧ bitsOf (c.extWord 0 2) 31 0 = 0 ∧
        ((s.xlateRanges (tlbPart 0) 0 (s.qCtx 0 2) [⟨bitsOf (c.extWord 0 0) 47 0, 4, false⟩] []).1.toOption.isSome ↔ va = 0x4040_0000)) ∧
    (let c := cRt 2 1 [0x4040_0000]; let s := wRt c pair0
     (s.tokensRead 0 [⟨0x4040, scratchBase 0⟩] 0x4040_0000 4).1 = true ∧
       (({ s with poison := [(scratchBase 0 / 64, true)] } : State).tokensRead 0 [⟨0x4040, scratchBase 0⟩] 0x4040_0000 4).1 = false ∧
       (((s.setSesArg 0 4 0).sesResult 0 0x00).accept 0 2 0 r2 c 0 0).1 = true) := by decide +kernel

theorem test_runtimeDecodesHoldsAndResumes :
    (∀ n ∈ [0, 1], let c := cRt 3 n [0, 1000]; let s := wRt c pair0
      (bitsOf (c.word 6) 47 32 = 0 ↔ n = 0) ∧ bitsOf (c.extWord 0 1) 31 0 = 1000 ∧ badTemp (BitVec.ofNat 32 (bitsOf (c.extWord 0 4) 31 0)) = false ∧
        bitsOf (c.extWord 0 4) 47 32 ≤ 64 ∧ bitsOf (c.extWord 0 0) 47 0 % 8 = 0 ∧ (∀ d ∈ (s.pair 0).decodes, d.session ≠ srHandle c) ∧
        s.sessionOutcome 0 (s.pair 0) (srHandle c) true = 0 ∧ (s.accept 0 2 0 r2 c 0 0).1 = true) ∧
    (∃ d ∈ ((wRt (cRt 3 1 []) { pair0 with decodes := [dec 0 false] }).pair 0).decodes, d.session = live1) ∧
    (∀ n ∈ [0, 1], srParam (cRt 4 n []) % 2 = n) ∧
    (let s := (wRt (cRt 4 0 []) pair0).setComm .kpr 0 0x10 0
     (((((s.endDecode 0 0 live1).updPair 0 (fun y => { y with held := y.held.filter (fun z => decide (z ≠ live1)) ++ [live1] })).rtSet 0
       (pairFin 0) live1 ((s.endDecode 0 0 live1).heldWord 0 0 live1)).accept 0 2 0 r2 (cRt 4 0 []) 0 0).2).cfg .kpr 0 0x10 29 29 = 0) ∧
    (∀ w ∈ [none, some r2], let s := wRt (cRt 5 0 []) { pair0 with held := [live1], working := w }
      s.rtRecord 0 2 5 = some (0, r2, cRt 5 0 []) ∧ live1 ∈ (s.pair 0).held ∧ (s.pair 0).working = w ∧
        outcomeOf (s.ses 0).result = 0 ∧ outcomeOf (s.sesResult 0 0x03 |>.ses 0).result ≠ 0) := by decide +kernel

theorem test_runtimeSessionOperationsAnswer (s : State) (m : Master) : ∃ u w x y, exec (.sesCmdOpen m 0) s = .next u ∧
    exec (.sesCmdSpill m 0) s = .next w ∧ exec (.sesCmdFetch m 0) s = .next x ∧ exec (.sesCmdClose m 0) s = .next y :=
  ⟨_, _, _, _, rfl, rfl, rfl, rfl⟩

theorem test_runtimeStarts :
    (∀ a ∈ [(false, 0), (true, 0), (true, 1)], let s := wRt (cRt 1 0 []) { pair0 with st := .starting, sampled := some a }
      s.leadOf 0 = some 0 ∧ s.domOn (domKp 0) = true ∧ s.sec.keeperFw = some true ∧ s.startHeld = false ∧ (s.pair 0).st = .starting ∧
        (s.pair 0).sampled = some a ∧ ((s.ctx (s.devCtx 0 a.2)).st = .free ↔ a.2 = 1) ∧ (s.pair 0).owns = false ∧ a.2 < s.ctxQuota 0 ∧
        2 ≤ s.queQuota 0 ∧ s.partOfKp 7 = some 0 ∧ s.domOn (domKp 7) = true ∧ (s.pair 7).inReset = true) ∧
    State.reset.leadOf 0 = none ∧ W.sec.keeperFw ≠ some true ∧ ({ W with jtag := .extest } : State).startHeld = true ∧
    0 ∉ W.boot.runtimes := by decide +kernel

theorem test_runtimeSteps :
    (∀ x ∈ [pair0, { pair0 with decodes := [dec 0 false] }, { pair0 with prefills := [⟨0, live1, 513, 0, 0, false, 0⟩] }],
      let s := wRt (cRt 1 0 []) x
      s.rtLead 0 = some 0 ∧ (s.ses 0).op = none ∧ (s.pair 0).working = none ∧ (s.recoverStep 0 0).isNone = true) ∧
    (let s := wRt (cRt 1 0 []) { pair0 with decodes := [dec 0 false] }
     (batchOf (s.pair 0).tEst 4096 ((s.pair 0).decodes.filter (fun d => !(d.redo && (s.sesEnt 0 (handleSlot d.session)).parked)))).length = 1) ∧
    (let s := (wRt (cRt 1 0 []) { pair0 with decodes := [dec 0 true] }).setSesEnt 0 1
        { SesEnt.reset with st := .opened, gen := 1, parked := true }
     (s.recoverStep 0 0).isSome = true) := by decide +kernel

theorem test_runtimeIsWatched :
    (let s : State := { wRt (cRt 1 0 []) pair0 with timers := [⟨.capPeriod 0, .base 0, 0⟩, ⟨.heartbeat 0, .mgmt, 0⟩, ⟨.heartbeat 7, .mgmt, 0⟩] }
     s.leadOf 0 = some 0 ∧ s.expired (.capPeriod 0) = true ∧ (s.pair 0).st = .running ∧ s.partOfKp 0 = some 0 ∧ s.partOfKp 7 = some 0 ∧
       s.expired (.heartbeat 0) = true ∧ s.expired (.heartbeat 7) = true ∧ s.pwr.switch = none ∧ s.reaches .pf ⟨.kpr, 0⟩ = true ∧
       (∃ e ∈ s.timers, e.id = .heartbeat 0 ∧ e.left ≤ ((s.cfg .kpr 0 0x34 11 0 * 1000000) * 65536 : Nat))) ∧
    W.expired (.capPeriod 0) = false ∧ (W.pair 7).st ≠ .running ∧ (W.pair 7).st ≠ .idle ∧ W.expired (.heartbeat 0) = false ∧
    (∀ e ∈ W.timers, e.id = .heartbeat 0 → (0 : Int) < e.left) ∧ State.reset.reaches .pf ⟨.kpr, 0⟩ = false ∧
    105 * 4 * 100 < 100 * 421 ∧ 4 * 100 < 401 ∧ 100 * 420 ≤ 105 * 4 * 100 ∧ 1000 * 389 < 975 * 4 * 100 ∧ 975 * 4 * 100 ≤ 1000 * 390 := by
  decide +kernel


/-! ## Tallies, the fog, ledgers and watch slots -/

def talT : BlkId := ⟨.talTile, 47⟩
def ldgT : BlkId := ⟨.ldgTile, 47⟩
/-- `W` with the ledger of tile 47 at `l` and its LDG_CTL at `ctl`. -/
def wLdg (ctl : W32) (l : Ledger) : State := (W.setComm .ldgTile 47 0x10 ctl).setLdg (blkKey ldgT) l
/-- `W` with a fog whose reach is `r`, and FOG_CFG at `cfg`. -/
def wFog (cfg : W32) (r : List BlkId) : State :=
  { W.setComm .talIo 0 0x30 cfg with fog := { Fog.reset with fogged := true, reach := r } }

theorem test_talliesClear :
    (isTal .talTile = true ∧ 47 < unitCount .talTile ∧ W.mayWrite .pf talT 0x10 = true ∧
      State.reset.mayWrite .pf talT 0x10 = false) ∧
    (∀ i ∈ [62, 63], (62 : BitVec 8).toNat ≤ i ∧ i ≤ (62 : BitVec 8).toNat + (255 : BitVec 8).toNat ∧ i < tallyCount .talTile ∧
      W.tallyHidden .pf talT i = false) ∧
    ¬ (64 < tallyCount .talTile) ∧ tallyCount .talPart = 128 := by decide +kernel

theorem test_fogIsRaised :
    (wFog 0 []).fog.fogged = true ∧ W.fog.fogged = false ∧ (W.setComm .talIo 0 0x30 0xC000_00C8).cfg .talIo 0 0x30 30 30 = 1 ∧
    (∀ n ∈ [4, 5, 19, 20], (n < 5 ↔ n = 4) ∧ (20 ≤ n ↔ n = 20)) ∧ W.pwr.aux = true ∧ W.cfg .talIo 0 0x30 31 31 = 1 ∧
    State.reset.pwr.aux = false ∧ (W.setComm .talIo 0 0x30 0).cfg .talIo 0 0x30 31 31 = 0 ∧
    W.mayWrite .mgmt ⟨.talIo, 0⟩ 0x34 = true ∧ W.mayWrite .pf ⟨.talIo, 0⟩ 0x34 = true ∧
    W.mayWrite (.kp 0) ⟨.talIo, 0⟩ 0x34 = false := by decide +kernel

theorem test_fogThawsAndItsOutputEnds :
    (let s := (wFog 0 []).setLdg (blkKey ldgT) { Ledger.reset with st := .frozen, before := .recording }
     s.mayWrite .pf ⟨.talIo, 0⟩ 0x34 = true ∧ s.cfg .talIo 0 0x30 29 29 = 0 ∧ SMap.wf .reset s.tals = true ∧ ldgT ∈ ledgerBlocks ∧
       (s.ldg (blkKey ldgT)).st = .frozen ∧ (s.ldg (blkKey ldgT)).before = .recording) ∧
    (let s : State := { W with fog := { Fog.reset with outLow := true }, timers := [⟨.fogOut, .mgmt, 0⟩] }
     s.fog.outLow = true ∧ s.expired .fogOut = true) ∧ W.fog.outLow = false ∧ W.expired .fogOut = false := by decide +kernel

theorem test_fogFreezesUnits :
    (let s := (wFog 0 [talT]).setLdg (blkKey ldgT) { Ledger.reset with st := .recording }
     talT ∈ s.fog.reach ∧ s.fog.fogged = true ∧ s.talOn talT = true ∧ (s.ldgCfg ldgT).fogAct = false ∧
       (s.ldg (blkKey ldgT)).st = .recording ∧ (chanEnds talT).length = 8) ∧
    talT ∉ W.fog.reach ∧ (let s : State := { State.reset with fog := { Fog.reset with fogged := true, reach := [talT] } }
      talT ∈ s.fog.reach ∧ s.talOn talT = false) := by decide +kernel

theorem test_ledgersArmStopAndTrigger :
    (let s := wLdg 0x8000_0000 { Ledger.reset with st := .recording }
     isLdg ldgT = true ∧ s.mayWrite .pf ldgT 0x2C = true ∧ (s.ldgCfg ldgT).en = true ∧ (s.ldg (blkKey ldgT)).st ≠ .frozen ∧
       (s.ldg (blkKey ldgT)).st ≠ .off ∧ (s.ldg (blkKey ldgT)).st = .recording ∧ (s.ldg (blkKey ldgT)).trigged = false ∧
       (s.ldgCfg ldgT).lossless = false ∧ ldgBusy (s.ldg (blkKey ldgT)).st = true ∧
       (s.ldg (blkKey ldgT)).short (s.ldgCfg ldgT) (s.ldgStamp ldgT) 1 = false ∧ s.mayWrite .pf ldgT 0x40 = true) ∧
    (let s := wLdg 0x8000_0000 { Ledger.reset with st := .recording, lastAt := W.ldgStamp ldgT, lastN := 2 }
     (s.ldg (blkKey ldgT)).short (s.ldgCfg ldgT) (s.ldgStamp ldgT) 1 = true) ∧
    (W.ldgCfg ldgT).en = false ∧ (W.ldg (blkKey ldgT)).st = .off ∧ State.reset.mayWrite .pf ldgT 0x2C = false ∧
    ((wLdg 0x8000_0000 { Ledger.reset with st := .triggered, trigged := true }).ldg (blkKey ldgT)).trigged = true := by
  decide +kernel

theorem test_ledgerBurstsAreAcknowledged :
    (let s := wLdg 0x8100_0000 { Ledger.reset with st := .recording, wcount := 64, staged := 64 }
     let c := s.ldgCfg ldgT
     c.spill = true ∧ 64 ≤ (s.ldg (blkKey ldgT)).staged ∧ (s.ldg (blkKey ldgT)).held = [] ∧
       ∀ n ∈ List.range 64, physAt (c.area + 32 * (n % c.cap)) = .stack 0 ∧ s.stackUp 0 = true) ∧
    ((wLdg 0 .reset).ldgCfg ldgT).spill = false ∧ (W.ldg (blkKey ldgT)).staged < 64 := by decide +kernel

theorem test_watchSlotsSnapAndClear :
    W.mayWrite .pf ⟨.wch, 47⟩ 0x10 = true ∧ State.reset.mayWrite .pf ⟨.wch, 47⟩ 0x10 = false ∧
    (0x8 : BitVec 4).getLsbD 3 = true ∧ (0x8 : BitVec 4).getLsbD 0 = false := by decide +kernel

/-- The worked case of R402: the edge channel holds 18 flits, the local channel 7; a negative difference reads signed. -/
theorem test_cutFlitsOfTheWorkedCase :
    (let s := ((W.setTal (blkKey ⟨.talStack, 7⟩) { TalUnit.reset with chan := [(0, (0x5A40, 0))] }).setTal (blkKey ⟨.talTile, 26⟩)
        { TalUnit.reset with chan := [(0, (0x3F12, 0)), (5, (0, 0x5A2E)), (7, (0, 0x3F0B))] })
     s.cutFlits ⟨.talStack, 7⟩ 0 ⟨.talTile, 26⟩ 5 = 18 ∧ s.cutFlits ⟨.talTile, 26⟩ 0 ⟨.talTile, 26⟩ 7 = 7 ∧
       s.cutFlits ⟨.talStack, 7⟩ 1 ⟨.talTile, 26⟩ 7 = -0x3F0B) := by decide +kernel


/-! ## Faults and recovery -/

/-- `W` with one timer that has run out. -/
def wTmo (i : TimerId) (s : State) : State := { s with timers := [⟨i, .mgmt, 0⟩] }
def vxBusy : Vxe := { Vxe.reset with op := some (opOf .run) }

theorem test_progressTimeoutHalts :
    (∀ auto ∈ [0, 1], let s := wTmo (.progress (W.devQue 0 0)) ((wCmds [cmd 0x1_0000 [0]]).setComm .flt 0 0x10 (auto <<< 30))
      s.expired (.progress (s.devQue 0 0)) = true ∧ (s.q 0 0).halted = false ∧
        ((s.q 0 0).cmds.find? (fun c => decide (c.phase ≠ .stuck))).isSome = true ∧
        s.cfg .flt 0 0x10 30 30 = (auto : W32).toNat ∧ (s.ctx (s.devCtx 0 (s.qCtx 0 0))).st = .active) ∧
    W.expired (.progress (W.devQue 0 0)) = false ∧ ((wQ 0 (fun x => { x with halted := true })).q 0 0).halted = true ∧
    (let c := cmd 0 [0, 1]
     c.phase = .fetched ∧ c.allMet = false) := by decide +kernel

theorem test_engineHangs :
    (let s := wTmo (.engine .vxe 0) ((wCmds [cRun]).setVxe 0 vxBusy)
     s.expired (.engine .vxe 0) = true ∧ s.engineWaits .vxe 0 = false ∧ s.engPart .vxe 0 = some 0 ∧ Rung.engine .vxe 0 ∉ (s.part 0).rstRuns ∧
       (s.engineRefs .vxe 0).head? = some r0 ∧ s.queOwner r0.q = some (0, 0) ∧ (s.cmdAt r0).isSome = true) ∧
    W.expired (.engine .vxe 0) = false := by decide +kernel

theorem test_engineResets :
    W.reaches .pf ⟨.flt, 0⟩ = true ∧ W.ownFnKpMgmt .pf 0 = true ∧ engOf 0 = none ∧ engOf 6 = some .kpr ∧ engOf 7 = none ∧
    (∀ x ∈ [(1, Eng.mxe), (2, .vxe), (3, .ste), (4, .nme), (5, .cle)], let e := x.2
      engOf x.1 = some e ∧ W.engPart e 5 = some 0 ∧ W.engPart e 48 = none ∧ Rung.engine e 5 ∉ (W.part 0).rstRuns ∧ (W.part 0).rstBusy = none ∧ W.engineHeld e 5 = false) ∧
    (let s := wPart (fun p => { p with rstRuns := [.engine .mxe 0] })
     (s.part 0).rstBusy = none ∧ Rung.engine .mxe 0 ∈ (s.part 0).rstRuns) ∧
    (let s := (wCmds [cRun]).setVxe 0 vxBusy
     s.engineRefs .vxe 0 = [r0] ∧ (s.queOwner r0.q).isSome = true ∧ (s.cmdAt r0).isSome = true) ∧
    ({ W with pwr := { W.pwr with switch := some ⟨engDomain .mxe 0, false⟩ } } : State).engineHeld .mxe 0 = true := by
  decide +kernel

theorem test_partitionsAndTheChipReset :
    (W.cfgOf 0).isSome = true ∧ W.applying ⟨.flt, 0⟩ = false ∧ Rung.partition ∉ (W.part 0).rstRuns ∧
    (let s := wPart (fun p => { p with rstRuns := [.partition] })
     Rung.partition ∈ (s.part 0).rstRuns ∧ (s.part 0).rstBusy = none ∧ s.reaches .mgmt ⟨.flt, 0⟩ = true ∧
       s.ownFnKpMgmt .mgmt 0 = true) ∧ Master.mgmt ≠ .pf := by decide +kernel

theorem test_rungsRunOut :
    (∀ r ∈ [Rung.engine .mxe 0, .partition, .context 0], (wTmo (.rung 0 r) W).expired (.rung 0 r) = true) ∧
    (wTmo (.rung 0 .chip) W).expired (.rung 0 .chip) = true ∧ W.expired (.rung 0 .chip) = false ∧ (W.cfgOf 0).isSome = true ∧
    (let s := wTmo (.rung 0 (.context 0)) (wPart (fun p => { p with resetting := [0] }))
     0 ∈ (s.part 0).resetting ∧ s.tilesHolding 0 0 = []) := by decide +kernel

/-! ## The host interface -/

theorem test_hostInterfaceResets :
    W.pwr.aux = true ∧ State.reset.pwr.aux = false ∧ W.domOn domPcie = true ∧ State.reset.domOn domPcie = false ∧ W.pcx.up = true ∧
    State.reset.pcx.up = false ∧ W.pwr.conv = true ∧ W.startHeld = false ∧
    (let s : State := { W with pwr := { W.pwr with on := 0 }, boot := { W.boot with fromMgmt := false } }
     s.domOn domPcie = false ∧ s.boot.fromMgmt = false) := by decide +kernel

theorem test_linksTrain :
    (∀ f ∈ [true, false], linkOk 5 16 f = true) ∧ linkOk 7 4 true = true ∧ linkOk 6 4 false = false ∧ linkOk 0 8 true = false ∧
    W.pcx.perst = false ∧ ({ W with pcx := { W.pcx with perst := true } } : State).pcx.perst = true := by decide +kernel

theorem test_functionsResetAndAreConfigured :
    (W.func 0).present = true ∧ W.partOfFn 0 = some 0 ∧ (W.cfgOf 0).isSome = true ∧ W.applying ⟨.flt, 0⟩ = false ∧ W.fnReady 0 = true ∧
    (let s := W.setFunc 8 { Func.reset with present := true }
     (s.func 8).present = true ∧ s.partOfFn 8 = none) ∧ (W.func 8).present = false ∧
    (wPart (fun p => { p with ready := false })).fnReady 0 = false := by decide +kernel

theorem test_hostRequestsFailAndAtsEntriesGo :
    (let s := wStr { strm .running 0x8000_0000_0000 100 with reqs := [req 0x8000_0000_0000] }
     (s.hostReqs)[0]?.isSome = true) ∧ (W.hostReqs)[0]?.isNone = true ∧
    (let s := W.setFunc 0 { W.func 0 with atsEn := true, atc := [(1, 5)] }
     let gone := fun (n : Nat) (e : Nat × Nat) => decide (0x1000 / 4096 ≤ e.1) && decide (e.1 < 0x1000 / 4096 + n)
     (s.func 0).atsEn = true ∧ (s.func 0).atc.any (gone 0) = false ∧ (s.func 0).atc.any (gone 1) = true ∧
       ∀ r ∈ s.hostReqs, r.1 ≠ 0) ∧ (W.func 0).atsEn = false := by decide +kernel


/-! ## The management port -/

/-- `W` with the OTP areas and the outcome of the management firmware. -/
def wOtp (areas : List OtpArea) (fw : Option Bool) : State :=
  { W with otp := ⟨areas, some 0, none⟩, sec := { W.sec with idOk := true, mgmtFw := fw } }
def blk0 (n : Byte) : List Byte := [0x57, 0x4A, 0x4F, 0x54, n] ++ List.replicate 2043 0
def area0 : OtpArea := ⟨true, false, blk0 1⟩
def free0 : OtpArea := ⟨false, false, []⟩
def zeros (n : Nat) : List Byte := List.replicate n 0

theorem test_theClosedPortIsSilent : State.reset.portUp = false ∧ State.reset.requestUp none = false ∧
    State.reset.requestUp (some 8) = false := by decide +kernel

theorem test_thePortAnswersMctp :
    W.portUp = true ∧ W.mgt.daValid = false ∧ ({ W with mgt := { W.mgt with daValid := true } } : State).mgt.daValid = true ∧
    (∀ e ∈ ([0, 0xFF, 1, 0xFE] : List Byte), (e ≠ 0 ∧ e ≠ 0xFF) ↔ (e = 1 ∨ e = 0xFE)) ∧
    (0x7F : Byte) ∈ ([0x00, 0x01, 0x7F, 0xFF] : List Byte) ∧ (0x02 : Byte) ∉ ([0x00, 0x01, 0x7F, 0xFF] : List Byte) := by
  decide +kernel

theorem test_requestsReachTheirCommands :
    W.requestUp none = true ∧ W.requestUp (some 0) = true ∧ fromVf none = false ∧ fromVf (some 0) = false ∧
    (W.setFunc 8 { Func.reset with present := true }).requestUp (some 8) = true ∧ fromVf (some 8) = true ∧
    ({ W with pwr := { W.pwr with on := 0 } } : State).hubUp = false ∧ W.hubUp = true ∧ W.portStatus 0x2000_0000_0040 1 = 0 ∧
    W.portStatus 0x2000_0000_0040 257 ≠ 0 ∧ W.portStatus 0x2000_0000_0040 256 = 0 ∧
    W.portStatus 0x2000_0000_0040 ([1, 2] : List W32).length = 0 := by decide +kernel

theorem test_requestsActWithThePortsRights :
    (∃ u, exec (.registerWrite .mgmt 0x2000_0000_0040 5) W = .next u) ∧ (∃ u, exec (.partitionReset .mgmt 0) W = .next u) ∧
    (∃ u, exec (.engineReset .mgmt 0 1 47) W = .next u) ∧ (W.cfgOf 0).isSome = true ∧ W.applying ⟨.flt, 0⟩ = false ∧
    engOf 1 = some .mxe ∧ W.engPart .mxe 47 = some 0 ∧ W.domOn (engDomain .mxe 47) = true :=
  ⟨⟨_, rfl⟩, ⟨_, rfl⟩, ⟨_, rfl⟩, by decide +kernel⟩

theorem test_imageChunksAreChecked :
    W.imgReach .mgmt = true ∧ (wImg (fun x => { x with owner := ownerCode .mgmt })).imgOwns .mgmt = true ∧ W.imgOwns .mgmt = false ∧
    (∀ x ∈ [(0xFF000, 4096), (0xFF001, 4096), (0, 4097), (0, 0)],
      (zeros x.2 ≠ [] ∧ (zeros x.2).length ≤ 4096 ∧ (BitVec.ofNat 32 x.1).toNat + (zeros x.2).length ≤ 0x100000) ↔ x = (0xFF000, 4096)) := by
  decide +kernel

theorem test_identityIsAttested :
    (∀ n ∈ [31, 32], (zeros n).length = 32 ↔ n = 32) ∧ W.sec.idOk = false ∧ W.requestUp none = true ∧
    (wOtp [area0] none).sec.idOk = true ∧ (wOtp [area0] none).otpNum 5 1 ≠ 3 ∧
    (wOtp [⟨true, false, [0, 0, 0, 0, 1, 3]⟩] none).otpNum 5 1 = 3 := by decide +kernel

/-- A block for area 1 meets every condition of R458 but the digest at its end, which an opaque value decides. -/
theorem test_otpGenerationsAreWritten :
    (let s := wOtp [area0, free0] none
     s.otp.areas.findIdx (fun a => !a.used) = 1 ∧ 1 < s.otp.areas.length ∧ s.otpBlock = some (blk0 1) ∧
       otpNextOk 1 (blk0 1) (blk0 1) = false) ∧
    (let s := wOtp [area0] none
     s.otp.areas.length ≤ s.otp.areas.findIdx (fun a => !a.used)) ∧
    (∃ c : Bool, c = true ∧
      otpNextOk 1 (blk0 1) (blk0 2) = (c && decide (Config.sha3 ((blk0 2).take 2016) = ((blk0 2).drop 2016).take 32))) := by
  refine ⟨by decide +kernel, by decide +kernel, _, ?_, by unfold otpNextOk; rfl⟩
  decide +kernel

theorem test_operandLengthsAreMet : (zeros 1312).length = 1312 ∧ (zeros 2420).length = 2420 ∧ (blk0 2).length = 2048 ∧
    (zeros 1088).length = 1088 ∧ (zeros 48).length = 48 ∧ (zeros 49).length ≠ 48 ∧ (zeros 1312).length ≠ 2048 := by
  simp [zeros, blk0]

theorem test_linkKeysAreSet : W.requestUp (some 0) = true ∧ W.pcx.ideStreams.length < 9 ∧
    (let x : Pcx := { Pcx.reset with ideKeys := (List.range 9).map (fun i => ((BitVec.ofNat 8 i, 0, 0, 0), [])) }
     9 ∉ x.ideStreams ∧ ¬ (x.ideStreams.length < 9)) ∧
    ideComplete ([0, 1].flatMap (fun d => [0, 1, 2].map (fun b => ((0, d, b, 0), [])))) 0 0 = true ∧ ∀ x ∈ [(1, 2, 1), (2, 2, 1), (1, 3, 1), (1, 2, 2)],
    ((BitVec.ofNat 8 x.1).toNat ≤ 1 ∧ (BitVec.ofNat 8 x.2.1).toNat ≤ 2 ∧ (BitVec.ofNat 8 x.2.2).toNat ≤ 1) ↔ x = (1, 2, 1) := by
  decide +kernel

/-- What a sealed payload opens to is an opaque value: one of the two clauses applies. -/
theorem test_sealedKeysOpenOrNot (g : Nat) (ct sealed : List Byte) :
    Config.kxOpen g ct sealed = none ∨ ∃ key, Config.kxOpen g ct sealed = some key := by
  cases Config.kxOpen g ct sealed <;> simp

theorem test_pldmServesItsTypes :
    (wOtp [] (some true)).portUp = true ∧ (wOtp [] (some true)).fullService = true ∧ W.fullService = false ∧
    (∀ t ∈ ([0, 1, 2, 5, 6] : List Byte), t.toNat ∈ [0, 2, 5] ↔ t ≠ 1 ∧ t ≠ 6) ∧ (W.sensor 7).isSome = true ∧ W.sensor 8 = none ∧
    (∀ v ∈ [599, 600, 2400, 2401], (600 ≤ (BitVec.ofNat 32 v).toNat ∧ (BitVec.ofNat 32 v).toNat ≤ 2400) ↔ v = 600 ∨ v = 2400) ∧
    (8 : W32).toNat ≤ 8 ∧ 8 < (9 : W32).toNat := by decide +kernel

/-- `W` in a state of its firmware update, with 16 of 32 bytes of the image component taken. -/
def wFw (st : FwSt) : State :=
  { W with mgt := { Mgt.reset with fwSt := st, fwComps := [3], fwComp := 3, fwSize := 32, fwGot := 16 } }

theorem test_pldmUpdatesFirmware :
    (∀ st ∈ [FwSt.idle, .learn, .ready, .download], (wFw st).portUp = true ∧ (wFw st).mgt.fwSt = st) ∧
    (∀ c ∈ [1, 3], BitVec.ofNat 16 c ∈ components) ∧ 3 ∈ (wFw .ready).mgt.fwComps ∧ 32 ≤ compSize 3 ∧
    (let m := (wFw .download).mgt
     16 = m.fwGot ∧ 16 + (zeros 16).length = m.fwSize ∧ 16 + (zeros 15).length ≤ m.fwSize ∧ 16 + (zeros 15).length ≠ m.fwSize ∧
       m.fwSize < 16 + (zeros 17).length ∧ 15 ≠ m.fwGot) ∧ State.reset.portUp = false := by decide +kernel

/-- A copy of zeros is no image. -/
def wEnd : State :=
  { wFw .ready with flash := flashPut W.flash (compBase 3 (!W.activeB 3) + 16) (zeros 16), mgt := { (wFw .ready).mgt with fwGot := 32 } }

theorem test_transfersEndWithAnIncompleteImage : wEnd.copyOk 3 = false := by decide +kernel


/-! ## Start-up, supplies, power and boundary scan -/

def wPwr (f : Pwr → Pwr) : State := { W with pwr := f W.pwr }
/-- A device on its auxiliary supply whose ROM has read OTP. -/
def wRom (fw : Option Bool) : State :=
  { State.reset with pwr := { Pwr.reset with aux := true, v48 := true }, boot := { Boot.reset with otpRead := true },
                     sec := { Sec.reset with mgmtFw := fw } }

theorem test_startUpSteps :
    W.pwr.aux = true ∧ State.reset.pwr.aux = false ∧ State.reset.boot.otpRead = false ∧ W.boot.mgmtUp = true ∧
    (let s := wRom none
     s.pwr.aux = true ∧ s.boot.otpRead = true ∧ s.boot.mgmtUp = false ∧ s.pwr.v48 = true ∧ s.pwr.lockout = false ∧ s.pwr.tripped = false ∧
       s.pwr.conv = false) ∧
    W.sec.mgmtFw ≠ some true ∧
    (let s := wRom (some true)
     s.sec.mgmtFw = some true ∧ s.sec.keeperFw = none ∧ s.startHeld = false ∧ s.bootCopy 1 = none ∧ s.pwr.lockout = false ∧ s.pwr.conv = false) ∧
    (wOtp [] (some true)).leadOf 0 = some 0 ∧ ((wOtp [] (some true)).part 0).ready = true := by decide +kernel

/-- Whether a firmware copy verifies is for opaque values to say: one of the two clauses applies. -/
theorem test_bootCopiesVerifyOrNot (s : State) (c : Nat) : s.bootCopy c = none ∨ ∃ b d, s.bootCopy c = some (b, d) := by
  match s.bootCopy c with
  | none => exact .inl rfl
  | some (b, d) => exact .inr ⟨b, d, rfl⟩

theorem test_powerIsSampledAndClamped :
    W.pwr.aux = true ∧ State.reset.pwr.aux = false ∧ W.pwr.clampOn = false ∧ W.pwr.conv = true ∧
    (∀ i ∈ [5000, 5001], 5000 < (BitVec.ofNat 16 i).toNat ↔ i = 5001) ∧ State.reset.pwr.conv = false ∧
    (let s := wTmo .clamp (wPwr (fun p => { p with clampOn := true, latched := true }))
     s.pwr.clampOn = true ∧ s.expired .clamp = true) ∧ W.expired .clamp = false := by decide +kernel

theorem test_temperaturesActAtTheirLimits :
    (List.replicate 12 (0x5F : Byte)).length = 12 ∧ W.domOn (domStack 11) = true ∧ W.pwr.tripped = false ∧
    (wPwr (fun p => { p with tripped := true })).pwr.tripped = true ∧
    (∀ t ∈ [94, 95, 104, 105, 114, 115], (115 ≤ (BitVec.ofNat 8 t).toNat ↔ t = 115) ∧ (105 ≤ (BitVec.ofNat 8 t).toNat ↔ 105 ≤ t) ∧
      (95 ≤ (BitVec.ofNat 8 t).toNat ↔ t ≠ 94)) := by decide +kernel

theorem test_domainsSwitch :
    W.domReach .pf = true ∧ State.reset.domReach .pf = false ∧ W.judgeDomain .pf 47 true = 0 ∧ W.judgeDomain .pf 47 false = 0 ∧ W.judgeDomain .pf 88 true ≠ 0 ∧
    W.judgeDomain .pf 127 false ≠ 0 ∧ W.pwr.switch = none ∧
    (∀ on ∈ [true, false], (wPwr (fun p => { p with switch := some ⟨85, on⟩ })).pwr.switch = some ⟨85, on⟩) ∧ 85 < 88 ∧
    W.pwr.conv = true ∧ (wPwr (fun p => { p with conv := false })).pwr.conv = false ∧ W.chansIdle 47 = true ∧
    (let x : Xfer := ⟨.tile 0, .tile 47, false⟩
     let s : State := { wPwr (fun p => { p with switch := some ⟨0, false⟩ }) with
       chans := [(chanKey (.tile 0) (.router 0 0), ⟨1, 0, [x]⟩)] }
     s.pwr.switch = some ⟨0, false⟩ ∧ s.pwr.conv = true ∧ s.chansIdle 0 = false ∧ s.chansIdle 47 = true ∧ pathOf x ≠ []) := by decide +kernel

theorem test_boundaryScanSelects :
    4 ≤ (4 : BitVec 4).toNat ∧ W.pwr.aux = true ∧ W.pcx.perst = false ∧ W.pwr.conv = true ∧ W.domOn domPcie = true ∧
    ({ W with boot := { W.boot with fromMgmt := false } } : State).boot.fromMgmt = false ∧ State.reset.pwr.aux = false ∧
    State.reset.pwr.conv = false := by decide +kernel

/-! ## What holds an engine, a training or an access back, and what does not -/

/-- `W` with a record of engine `e` held by the ledger of partition 0's home. -/
def wHold (e : Nat) : State :=
  W.setLdg (blkKey ⟨.ldgStack, 0⟩) { Ledger.reset with held := [[0, BitVec.ofNat 64 (e * 4096)]] }

theorem test_ledgersHoldTheirEngines : W.cleHeld 0 = false ∧ (wHold 5).cleHeld 0 = true ∧
    (∀ e ∈ [1, 4], W.partHolds 0 e = false ∧ (wHold e).partHolds 0 e = true ∧ (wHold e).cleHeld 0 = false) := by decide +kernel

theorem test_trainingIsHeld : W.trainHeld = false ∧
    ({ State.reset with jtag := .highz } : State).trainHeld = true ∧
    (let s : State := { W with timers := [⟨.trainWindow 0 0, .link 0, 1⟩, ⟨.trainWindow 0 1, .link 0, 0⟩] }
     s.failedLately 0 0 = true ∧ s.failedLately 0 1 = false) := by decide +kernel

theorem test_accessesStopOrGo :
    W.heldStops 0 [⟨0x4040, scratchBase 0⟩] 0x4040_0000 64 = none ∧
    ({ W with poison := [(scratchBase 0 / 64, true)] } : State).heldStops 0 [⟨0x4040, scratchBase 0⟩] 0x4040_0000 64 ≠ none ∧
    W.heldBad 0 [⟨0x4040, scratchBase 0⟩] 0x4040_0000 64 = none ∧
    (W.setDom (domTile 0) false).heldBad 0 [⟨0x4040, scratchBase 0⟩] 0x4040_0000 64 ≠ none ∧
    W.fnOwns 0 0 8 = true ∧ W.fnOwns 8 0 8 = false ∧ W.hostOk 0 = true ∧ State.reset.hostOk 0 = false ∧
    W.applyOff.all W.chansIdle = true := by decide +kernel

/-- A header of R355 with every field at its largest value. -/
theorem test_frameHeadersAreRead :
    let f : Frame := { W.mkFrame 0 6 0 0 [1, 2, 3] with lseq := 0 - 1, seq := 0 - 1 }
    frameOf (frameHeader f) f.half f.spray f.data = f ∧ (frameBytes f).length = 472 ∧ crcHolds (frameBytes f) = true := by
  decide +kernel


/-! ## The machine as a whole -/

theorem test_stepTakesTheFrontCommand :
    let s : State := { W with pending := [.powerCycle, .auxPowerLoss] }
    s.pending = .powerCycle :: [.auxPowerLoss] ∧ W.pending = [] ∧ (∃ t, step s = .next t ∧ t.pending = [.auxPowerLoss]) :=
  ⟨rfl, rfl, _, rfl, rfl⟩

theorem test_anIdleStepCountsCycles :
    let s : State := { W with timers := [⟨.clamp, .mgmt, 1⟩] }
    (∀ i ∈ [Island.mgmt, .tile 47], s.islandOn i = true ∧ s.tick.cycle (islandCode i) = s.cycle (islandCode i) + 1) ∧
    State.reset.islandOn .mgmt = false ∧ (∀ e ∈ s.tick.timers, e.left < 1) ∧
    (∀ b ∈ ledgerBlocks, (s.ldg (blkKey b)).held = []) := by decide +kernel

theorem test_wellFormedCommandsRun : (∃ c : Instr, c.wf = true) ∧ (∃ c : Instr, c.wf = false) :=
  ⟨⟨.bypass 4, rfl⟩, ⟨.bypass 3, rfl⟩⟩

/-- The premises of the invariant hold at reset, and in a state with memory and waiting commands. -/
theorem test_memoriesAreCanonical :
    State.reset.memWf = true ∧ State.reset.queueWf = true ∧ W.memWf = true ∧
    ({ W with pending := [.powerCycle, .bypass 15] } : State).queueWf = true := by decide +kernel

/-- No row of the command table gives bits, so no word spells a command. -/
theorem test_noWordSpellsACommand : decodeTableWord 0 0 = none ∧ State.reset.withFetchWord 0 0 = State.reset := ⟨rfl, rfl⟩

end Sys2Proof.Tests
end

section
/-!
The memories stay canonical (R13, R55): one lemma for each operation that writes memory, flash or the image buffer, or calls
one that does, in the order of the model; then the step, which settles O60.
-/
namespace Sys2Proof.Machine
set_option maxRecDepth 4000
set_option Elab.async false

/-! ## The rule that simp uses

The laws of Laws/Frame say of most operations that a view of the state is as before. Of an operation that writes a
memory only an implication holds: canonical before, canonical after. `Keeps` says it as an equation from the state after
to the state before, so simp carries it through a composition of operations as it does the others. -/

/-- A Boolean given as a class argument, into which simp does not look: the state it speaks of stays out of simp's way. -/
class Mended where
  ok : Bool

def mended [Mended] : Bool := Mended.ok

/-- Canonical memories in `s` are canonical in `t`. What `t` has made canonical that was not so in `s` is left to
`mended`. -/
abbrev Keeps (s t : State) : Prop := see State.memWf t = (see State.memWf s || @mended ⟨see State.memWf t⟩)

/-- `Keeps` is the implication. -/
theorem keeps {s t : State} (h : see State.memWf s = true → see State.memWf t = true) : Keeps s t := by
  unfold Keeps
  cases hs : see State.memWf s with
  | false => rfl
  | true => rw [h hs, Bool.true_or]

theorem Keeps.of {s t : State} (h : Keeps s t) (hs : see State.memWf s = true) : see State.memWf t = true := by
  rw [h, hs, Bool.true_or]

theorem memWf_of_see {s t : State} (h : see State.memWf t = see State.memWf s) (hs : see State.memWf s = true) :
    see State.memWf t = true := h.trans hs

theorem memWf_ite {c : Prop} [Decidable c] {s t : State} (hs : see State.memWf s = true)
    (ht : see State.memWf t = true) : see State.memWf (if c then s else t) = true := by
  split
  · exact hs
  · exact ht

theorem memWf_of_parts {s t : State} (hm : t.mem = s.mem) (hf : t.flash = s.flash) (hb : t.img.buf = s.img.buf)
    (hs : see State.memWf s = true) : see State.memWf t = true := by
  rwa [see, State.memWf, hm, hf, hb]

@[simp ↓] theorem memWf_img (s : State) (x : Img) (h : x.buf = s.img.buf) :
    see State.memWf { s with img := x } = see State.memWf s := by
  simp only [see, State.memWf, h]

/-! What simp leaves of a goal under a fold or a branch. -/

@[simp] theorem imp_or_self_left (p q : Prop) : (p → p ∨ q) ↔ True := ⟨fun _ => trivial, fun _ => Or.inl⟩

/-! A fold keeps what each of its steps keeps. -/

@[simp ↓] theorem foldl_keeps {β : Type} (f : State → β → State)
    (h : ∀ s x, see State.memWf s = true → see State.memWf (f s x) = true) (l : List β) (s : State) :
    Keeps s (l.foldl f s) := by
  refine keeps fun hs => ?_
  induction l generalizing s with
  | nil => exact hs
  | cons x l ih => exact ih _ (h s x hs)

@[simp ↓] theorem foldl_fst_keeps {β γ : Type} (f : State × γ → β → State × γ)
    (h : ∀ a x, see State.memWf a.1 = true → see State.memWf (f a x).1 = true) (l : List β) (a : State × γ) :
    Keeps a.1 (l.foldl f a).1 := by
  refine keeps fun hs => ?_
  induction l generalizing a with
  | nil => exact hs
  | cons x l ih => exact ih _ (h a x hs)

@[simp ↓] theorem foldl_snd_keeps {β γ : Type} (f : γ × State → β → γ × State)
    (h : ∀ a x, see State.memWf a.2 = true → see State.memWf (f a x).2 = true) (l : List β) (a : γ × State) :
    Keeps a.2 (l.foldl f a).2 := by
  refine keeps fun hs => ?_
  induction l generalizing a with
  | nil => exact hs
  | cons x l ih => exact ih _ (h a x hs)

/-- The memories lie in three fields, so the view ignores every other. -/
@[simp] theorem ign_memWf :
    Ign State.memWf .poison ∧ Ign State.memWf .blocks ∧ Ign State.memWf .ctxs ∧ Ign State.memWf .ques ∧ Ign State.memWf .rels ∧
    Ign State.memWf .tiles ∧ Ign State.memWf .mxes ∧ Ign State.memWf .vxes ∧ Ign State.memWf .stes ∧ Ign State.memWf .chains ∧
    Ign State.memWf .stks ∧ Ign State.memWf .tlbs ∧ Ign State.memWf .nmes ∧ Ign State.memWf .kvfs ∧ Ign State.memWf .parts ∧
    Ign State.memWf .sess ∧ Ign State.memWf .rings ∧ Ign State.memWf .bars ∧ Ign State.memWf .links ∧ Ign State.memWf .lgs ∧
    Ign State.memWf .board ∧ Ign State.memWf .cles ∧ Ign State.memWf .pairs ∧ Ign State.memWf .tals ∧ Ign State.memWf .ldgs ∧
    Ign State.memWf .wchs ∧ Ign State.memWf .chans ∧ Ign State.memWf .cycles ∧ Ign State.memWf .fog ∧ Ign State.memWf .pcx ∧
    Ign State.memWf .funcs ∧ Ign State.memWf .mgt ∧ Ign State.memWf .otp ∧ Ign State.memWf .sec ∧ Ign State.memWf .pwr ∧
    Ign State.memWf .boot ∧ Ign State.memWf .jtag ∧ Ign State.memWf .straps ∧ Ign State.memWf .timers ∧ Ign State.memWf .rr ∧
    Ign State.memWf .out ∧ Ign State.memWf .free ∧ Ign State.memWf .pending := by
  and_intros <;> exact fun _ _ => rfl

theorem see_memWf (s : State) :
    see State.memWf s = (Memory.wf 0 s.mem && Memory.wf 0xFF s.flash && Memory.wf 0 s.img.buf) := rfl

theorem unabort_frame (s : State) (a n : Nat) : (s.unabort a n).flash = s.flash ∧ (s.unabort a n).img = s.img := by
  unfold State.unabort
  split
  · dsimp only; split <;> exact ⟨rfl, rfl⟩
  · exact ⟨rfl, rfl⟩

/-! ## The writers of a memory -/

@[simp ↓] theorem State.writeBytes_keeps (s : State) (a : ℕ) (bs : List Byte) : Keeps s (State.writeBytes s a bs) := by
  refine keeps fun hs => ?_
  obtain ⟨hf, hi⟩ := unabort_frame s a bs.length
  simp only [see_memWf, Bool.and_eq_true, State.writeBytes, hf, hi] at hs ⊢
  exact ⟨⟨memPut_wf s.mem a bs hs.1.1, hs.1.2⟩, hs.2⟩

@[simp ↓] theorem State.writeLe_keeps (s : State) (a n v : ℕ) : Keeps s (State.writeLe s a n v) := by
  refine keeps fun hs => ?_
  simp [hs, State.writeLe]

@[simp ↓] theorem State.zeroRange_keeps (s : State) (lo n : ℕ) : Keeps s (State.zeroRange s lo n) := by
  refine keeps fun hs => ?_
  simp only [see_memWf, Bool.and_eq_true, State.zeroRange] at hs ⊢
  exact ⟨⟨SMap.wf_filter 0 _ s.mem hs.1.1, hs.1.2⟩, hs.2⟩

@[simp ↓] theorem State.putBytes_keeps (s : State) (p a : ℕ) (bs : List Byte) :
    Keeps s (State.putBytes s p a bs) := by
  refine keeps fun hs => ?_
  simp [hs, State.putBytes]

@[simp ↓] theorem State.logFault_keeps (s : State) (p : ℕ) (ws : List ℕ) : Keeps s (State.logFault s p ws) := by
  refine keeps fun hs => ?_
  simp [hs, State.logFault]

@[simp ↓] theorem State.recordFault_keeps (s : State) (p : ℕ) (f : FaultRec) (w : Who) :
    Keeps s (State.recordFault s p f w) := by
  refine keeps fun hs => ?_
  simp [hs, State.recordFault]

@[simp ↓] theorem State.raiseAny_keeps (s : State) (p : ℕ) (f : FaultRec) : Keeps s (State.raiseAny s p f) := by
  refine keeps fun hs => ?_
  rw [State.raiseAny.eq_def]; dsimp only; split <;> simp [hs]

@[simp ↓] theorem State.raise_keeps (s : State) (p : ℕ) (f : FaultRec) : Keeps s (State.raise s p f) := by
  refine keeps fun hs => ?_
  rw [State.raise.eq_def]; dsimp only; split <;> simp [hs]

@[simp ↓] theorem State.heldPut_keeps (s : State) (p : ℕ) (held : List PageMap) (va : ℕ) (b : Byte) :
    Keeps s (State.heldPut s p held va b) := by
  refine keeps fun hs => ?_
  rw [State.heldPut.eq_def]; split <;> simp [hs]

@[simp ↓] theorem State.heldWrite_keeps (s : State) (p : ℕ) (held : List PageMap) (va : ℕ) (bs : List Byte) :
    Keeps s (State.heldWrite s p held va bs) := by
  refine keeps fun hs => ?_
  rw [State.heldWrite.eq_def]; split <;> simp [hs]

@[simp ↓] theorem State.heldWrites_keeps (s : State) (p : ℕ) (c : Cmd) (ws : List (ℕ × List Byte)) :
    Keeps s (State.heldWrites s p c ws) := by
  refine keeps fun hs => ?_
  rw [State.heldWrites.eq_def]; simp [hs]

@[simp ↓] theorem State.failRef_keeps (s : State) (r : CmdRef) (b : Bad) (uclass unit sub : ℕ) :
    Keeps s (State.failRef s r b uclass unit sub) := by
  refine keeps fun hs => ?_
  rw [State.failRef.eq_def]; split <;> simp [hs]

@[simp ↓] theorem State.storeVa_keeps (s : State) (key p : ℕ) (lc va : ℕ) (bs : List Byte) :
    Keeps s (State.storeVa s key p lc va bs).2 := by
  refine keeps fun hs => ?_
  rw [State.storeVa.eq_def]
  split
  · exact memWf_of_see (State.xlatePage_see_of ‹_› (by simp)) hs
  · have hs := memWf_of_see (State.xlatePage_see_of ‹_› (by simp)) hs
    dsimp only; (repeat' split) <;> simp [hs]

theorem State.storeVa_keeps_of {s : State} {key p : ℕ} {lc va : ℕ} {bs : List Byte} {w1 t1}
    (hh : (State.storeVa s key p lc va bs) = (w1, t1)) :
    Keeps s t1 := by
  have h := State.storeVa_keeps s key p lc va bs; rwa [hh] at h

/-! ## Doorbells, queues and marks -/

@[simp ↓] theorem State.ringDoorbell_keeps (s : State) (p q : ℕ) (v : W32) : Keeps s (State.ring_ s p q v) := by
  refine keeps fun hs => ?_
  simp [hs, State.ring_]

@[simp ↓] theorem State.doorbell_keeps (s : State) (path : DbPath) (v : W32) : Keeps s (State.doorbell s path v) := by
  refine keeps fun hs => ?_
  rw [State.doorbell.eq_def]; (repeat' split) <;> simp [hs]

@[simp ↓] theorem State.performPosted_keeps (s : State) (a : ℕ) (bs : List Byte) (relaxed : Bool) :
    Keeps s (State.performPosted s a bs relaxed) := by
  refine keeps fun hs => ?_
  rw [State.performPosted.eq_def]; dsimp only; (repeat' split) <;> simp [hs]

@[simp ↓] theorem State.flushPosted_keeps (s : State) (fn : ℕ) : Keeps s (State.flushPosted s fn) := by
  refine keeps fun hs => ?_
  simp [hs, State.flushPosted]

@[simp ↓] theorem State.flushFor_keeps (s : State) (m : Master) : Keeps s (State.flushFor s m) := by
  refine keeps fun hs => ?_
  rw [State.flushFor.eq_def]; (repeat' split) <;> simp [hs]

@[simp ↓] theorem execDoorbell_keeps (path : DbPath) (v : W32) (s : State) :
    Keeps s (stateOf (execDoorbell path v s) s) := by
  refine keeps fun hs => ?_
  rw [execDoorbell.eq_def, stateOf_next]; dsimp only; (repeat' split) <;> simp [hs]

@[simp ↓] theorem State.fetchRecs_keeps (s : State) (p q v3 : ℕ) : Keeps s (State.fetchRecs s p q v3) := by
  refine keeps fun hs => ?_
  induction v3 generalizing s with
  | zero => exact hs
  | succ n ih =>
    rw [State.fetchRecs]
    dsimp only
    split
    · exact hs
    · split
      · have hs := memWf_of_see (State.loadVa_see_of ‹_› (by simp)) hs
        exact ih _ (by simp [hs])
      · have hs := memWf_of_see (State.loadVa_see_of ‹_› (by simp)) hs
        simp [hs]

@[simp ↓] theorem State.failWait_keeps (s : State) (p q i : ℕ) (b : Bad) : Keeps s (State.failWait s p q i b) := by
  refine keeps fun hs => ?_
  rw [State.failWait.eq_def]; split <;> simp [hs]

@[simp ↓] theorem State.tryWait_keeps (s : State) (p q : ℕ) (i w : ℕ) : Keeps s (State.tryWait s p q i w) := by
  refine keeps fun hs => ?_
  rw [State.tryWait.eq_def]
  split
  · exact hs
  · dsimp only
    split
    · exact hs
    · split
      · have hs := memWf_of_see (State.markPhys_see_of ‹_› (by simp)) hs
        simp [hs]
      · have hs := memWf_of_see (State.markPhys_see_of ‹_› (by simp)) hs
        (repeat' split) <;> simp [hs]

@[simp ↓] theorem State.registerWaits_keeps (s : State) (p q i : ℕ) : Keeps s (State.registerWaits s p q i) := by
  refine keeps fun hs => ?_
  rw [State.registerWaits.eq_def]; split <;> simp [hs]

@[simp ↓] theorem State.pollMark_keeps (s : State) (p q w : ℕ) (v : Option W64) :
    Keeps s (State.pollMark s p q w v) := by
  refine keeps fun hs => ?_
  rw [State.pollMark.eq_def]
  split
  · exact hs
  · split
    · exact hs
    · dsimp only
      split
      · exact hs
      · split
        · have hs := memWf_of_see (State.markPhys_see_of ‹_› (by simp)) hs
          simp [hs]
        · have hs := memWf_of_see (State.markPhys_see_of ‹_› (by simp)) hs
          (repeat' split) <;> simp [hs]

@[simp ↓] theorem State.releaseFails_keeps (s : State) (r : Release) (b : Bad) :
    Keeps s (State.releaseFails s r b) := by
  refine keeps fun hs => ?_
  rw [State.releaseFails.eq_def]; dsimp only; (repeat' split) <;> simp [hs]

@[simp ↓] theorem State.markMax_keeps (s : State) (r : Release) : Keeps s (State.markMax s r) := by
  refine keeps fun hs => ?_
  rw [State.markMax.eq_def]; split <;> simp [hs]

@[simp ↓] theorem State.retireComplete_keeps (s : State) (p q i : ℕ) (c : Cmd) :
    Keeps s (State.retireComplete s p q i c) := by
  refine keeps fun hs => ?_
  rw [State.retireComplete.eq_def]
  split
  · simp [hs]
  · dsimp only
    split
    · have hs := memWf_of_see (State.markPhys_see_of ‹_› (by simp)) hs
      simp [hs]
    · have hs := memWf_of_see (State.markPhys_see_of ‹_› (by simp)) hs
      split
      · have hs := memWf_of_see (State.relFlush_see_of ‹_› (by simp)) hs
        simp [hs]
      · have hs := memWf_of_see (State.relFlush_see_of ‹_› (by simp)) hs
        simp [hs]

/-! ## Atomics, slots and the vector engine -/

@[simp ↓] theorem State.atomicDev_keeps (s : State) (addr : ℕ) (op : AtomOp) (bytes v : ℕ) :
    Keeps s (State.atomicDev s addr op bytes v).2 := by
  refine keeps fun hs => ?_
  simp [hs, State.atomicDev]

theorem State.atomicDev_keeps_of {s : State} {addr : ℕ} {op : AtomOp} {bytes v : ℕ} {w1 t1}
    (hh : (State.atomicDev s addr op bytes v) = (w1, t1)) :
    Keeps s t1 := by
  have h := State.atomicDev_keeps s addr op bytes v; rwa [hh] at h

@[simp ↓] theorem State.putElem_keeps (s : State) (a b : ℕ) (i v : ℕ) : Keeps s (State.putElem s a b i v) := by
  refine keeps fun hs => ?_
  simp [hs, State.putElem]

@[simp ↓] theorem State.failTile_keeps (s : State) (r : CmdRef) (b : Bad) (t : ℕ) :
    Keeps s (State.failTile s r b t) := by
  refine keeps fun hs => ?_
  simp [hs, State.failTile]

@[simp ↓] theorem State.foldRow_keeps (s : State) (t sl r : ℕ) (strict : Bool) (row : SlotRow) :
    Keeps s (State.foldRow s t sl r strict row).1 := by
  refine keeps fun hs => ?_
  rw [State.foldRow.eq_def]
  refine (foldl_keeps _ (fun t n ht => by simp [ht]) _ _).of ?_
  split
  · exact hs
  · exact (State.writeBytes_keeps ..).of hs

theorem State.foldRow_keeps_of {s : State} {t sl r : ℕ} {strict : Bool} {row : SlotRow} {w1 t1}
    (hh : (State.foldRow s t sl r strict row) = (w1, t1)) :
    Keeps s w1 := by
  have h := State.foldRow_keeps s t sl r strict row; rwa [hh] at h

@[simp ↓] theorem State.downFold_keeps (s : State) (t a : ℕ) (near strict : Bool) :
    Keeps s (State.downFold s t a near strict) := by
  refine keeps fun hs => ?_
  simp [hs, State.downFold]

@[simp ↓] theorem State.rowAdd_keeps (s : State) (t sl : ℕ) (r k : ℕ) (acc strict comp : Bool) (xs : List Num)
    (w : Who) :
    Keeps s (State.rowAdd s t sl r k acc strict comp xs w) := by
  refine keeps fun hs => ?_
  rw [State.rowAdd.eq_def]
  dsimp only
  simp [hs, apply_ite (see State.memWf), apply_ite Prod.fst, apply_ite Prod.snd]

@[simp ↓] theorem State.restoreSlot_keeps (s : State) (t a : ℕ) (slots : BitVec 2) (incl q i : ℕ) :
    Keeps s (State.restoreSlot s t a slots incl q i) := by
  refine keeps fun hs => ?_
  simp [hs, State.restoreSlot]

@[simp ↓] theorem State.restoreFrom_keeps (s : State) (t : ℕ) (o : SaveOp) : Keeps s (State.restoreFrom s t o) := by
  refine keeps fun hs => ?_
  rw [State.restoreFrom.eq_def]; dsimp only; (repeat' split) <;> simp [hs]

@[simp ↓] theorem State.saveRestoreDone_keeps (s : State) (t : ℕ) (ok : Bool) :
    Keeps s (State.saveRestoreDone s t ok) := by
  refine keeps fun hs => ?_
  rw [State.saveRestoreDone.eq_def]; dsimp only; (repeat' split) <;> simp [hs]

@[simp ↓] theorem State.heldCodes_keeps (s : State) (p : ℕ) (held : List PageMap) (va b : ℕ) (codes : List ℕ) :
    Keeps s (State.heldCodes s p held va b codes) := by
  refine keeps fun hs => ?_
  simp [hs, State.heldCodes]

@[simp ↓] theorem State.failDrain_keeps (s : State) (t : ℕ) (d : DrainOp) (c : Cmd) (b : Bad) :
    Keeps s (State.failDrain s t d c b) := by
  refine keeps fun hs => ?_
  simp [hs, State.failDrain]

@[simp ↓] theorem State.writeChannels_keeps (s : State) (t p : ℕ) (d : DrainOp) (c : Cmd) :
    Keeps s (State.writeChannels s t p d c).1 := by
  refine keeps fun hs => ?_
  simp [hs, State.writeChannels]

theorem State.writeChannels_keeps_of {s : State} {t p : ℕ} {d : DrainOp} {c : Cmd} {w1 t1}
    (hh : (State.writeChannels s t p d c) = (t1, w1)) :
    Keeps s t1 := by
  have h := State.writeChannels_keeps s t p d c; rwa [hh] at h

@[simp ↓] theorem State.drainReadRow_keeps (s : State) (t p : ℕ) (d : DrainOp) (c : Cmd) (i : ℕ) :
    Keeps s (State.drainReadRow s t p d c i) := by
  refine keeps fun hs => ?_
  simp [hs, State.drainReadRow]

@[simp ↓] theorem State.heldPutElem_keeps (s : State) (p : ℕ) (held : List PageMap) (va b : ℕ) (i v : ℕ) :
    Keeps s (State.heldPutElem s p held va b i v) := by
  refine keeps fun hs => ?_
  simp [hs, State.heldPutElem]

@[simp ↓] theorem State.writeCells_keeps (s : State) (p : ℕ) (c : Cmd) (pr : List W64) (w : ℕ) (cells : List Cell) :
    Keeps s (State.writeCells s p c pr w cells) := by
  refine keeps fun hs => ?_
  simp [hs, State.writeCells]

@[simp ↓] theorem State.writeStat_keeps (s : State) (t p : ℕ) (c : Cmd) (o : VxeOp) :
    Keeps s (State.writeStat s t p c o) := by
  refine keeps fun hs => ?_
  simp [hs, State.writeStat]

@[simp ↓] theorem State.failRun_keeps (s : State) (t p : ℕ) (c : Cmd) (o : VxeOp) (b : Bad) :
    Keeps s (State.failRun s t p c o b) := by
  refine keeps fun hs => ?_
  simp [hs, State.failRun]

@[simp ↓] theorem State.runChunk_keeps (s : State) (t op : ℕ) : Keeps s (State.runChunk s t op) := by
  refine keeps fun hs => ?_
  rw [State.runChunk.eq_def]
  split
  · exact hs
  · dsimp only; (repeat' split) <;> simp [hs]

@[simp ↓] theorem State.failLoad_keeps (s : State) (t : ℕ) (r : CmdRef) (b : Bad) :
    Keeps s (State.failLoad s t r b) := by
  refine keeps fun hs => ?_
  simp [hs, State.failLoad]

@[simp ↓] theorem State.vxeFail_keeps (s : State) (t : ℕ) (o : VxeOp) (b : Bad) :
    Keeps s (State.vxeFail s t o b) := by
  refine keeps fun hs => ?_
  simp [hs, State.vxeFail]

/-! ## Streams, paging and near memory -/

@[simp ↓] theorem State.faultStream_keeps (s : State) (t sid off : ℕ) (b : Bad) :
    Keeps s (State.faultStream s t sid off b) := by
  refine keeps fun hs => ?_
  rw [State.faultStream.eq_def]; dsimp only; split <;> simp [hs]

@[simp ↓] theorem State.issueNext_keeps (s : State) (t sid : ℕ) : Keeps s (State.issueNext s t sid) := by
  refine keeps fun hs => ?_
  rw [State.issueNext.eq_def]
  dsimp only
  split
  · exact hs
  · split
    · exact hs
    · split
      · have hs := memWf_of_see (State.xlatePage_see_of ‹_› (by simp)) hs
        split <;> simp [hs]
      · have hs := memWf_of_see (State.xlatePage_see_of ‹_› (by simp)) hs
        split <;> simp [hs]

@[simp ↓] theorem State.advance_keeps (s : State) (t sid : ℕ) : Keeps s (State.advance s t sid) := by
  refine keeps fun hs => ?_
  simp [hs, State.advance]

@[simp ↓] theorem State.ringPut_keeps (s : State) (t : ℕ) (x : Stream) (off : ℕ) (bs : List Byte) :
    Keeps s (State.ringPut s t x off bs) := by
  refine keeps fun hs => ?_
  rw [State.ringPut.eq_def]
  refine (foldl_fst_keeps _ (fun a iv ha => ?_) _ _).of hs
  refine (foldl_keeps _ (fun t i ht => ?_) _ _).of ha
  split <;> simp [ht]

@[simp ↓] theorem State.streamReply_keeps (s : State) (t sid seq : ℕ) (reply : FarReply) :
    Keeps s (State.streamReply s t sid seq reply) := by
  refine keeps fun hs => ?_
  rw [State.streamReply.eq_def]; dsimp only; (repeat' split) <;> simp [hs]

@[simp ↓] theorem State.retryStream_keeps (s : State) (t sid : ℕ) : Keeps s (State.retryStream s t sid) := by
  refine keeps fun hs => ?_
  rw [State.retryStream.eq_def]
  dsimp only
  split
  · exact hs
  · split
    · exact hs
    · split
      · have hs := memWf_of_see (State.xlatePage_see_of ‹_› (by simp)) hs
        split <;> simp [hs]
      · have hs := memWf_of_see (State.xlatePage_see_of ‹_› (by simp)) hs
        simp [hs]

@[simp ↓] theorem execSteResume_keeps (m : Master) (t : Fin 48) (sid : Fin 16) (s : State) :
    Keeps s (stateOf (execSteResume m t sid s) s) := by
  refine keeps fun hs => ?_
  simp [hs, execSteResume]

@[simp ↓] theorem execPagedIn_keeps (m : Master) (p : Fin 8) (c : BitVec 8) (s : State) :
    Keeps s (stateOf (execPagedIn m p c s) s) := by
  refine keeps fun hs => ?_
  rw [execPagedIn.eq_def, stateOf_next, State.invCmd.eq_def]
  (repeat' split) <;> simp [hs]

@[simp ↓] theorem State.moveOne_keeps (s : State) (k : ℕ) (data : Option (List Byte)) (ecc : List EccFind) :
    Keeps s (State.moveOne s k data ecc) := by
  refine keeps fun hs => ?_
  rw [State.moveOne.eq_def]
  split
  · exact hs
  · dsimp only
    split
    · exact hs
    · split
      · (repeat' split) <;> simp [hs]
      · split
        · split
          · refine memWf_of_see (State.moveStep_see _ _ _ (by simp)) ((State.writeBytes_keeps ..).of ?_)
            simp [hs]
          · simp [hs]
        · simp [hs]

@[simp ↓] theorem State.writeSlot_keeps (s : State) (k f : ℕ) (a : AppArg) (j : ℕ) :
    Keeps s (State.writeSlot s k f a j) := by
  refine keeps fun hs => ?_
  simp [hs, State.writeSlot]

@[simp ↓] theorem State.appendInto_keeps (s : State) (k f : ℕ) (a : AppArg) : Keeps s (State.appendInto s k f a) := by
  refine keeps fun hs => ?_
  simp [hs, State.appendInto]

@[simp ↓] theorem State.appendWith_keeps (s : State) (k p n : ℕ) (a : AppArg) (w : Who) :
    Keeps s (State.appendWith s k p n a w) := by
  refine keeps fun hs => ?_
  rw [State.appendWith.eq_def]; dsimp only; split <;> simp [hs]

@[simp ↓] theorem State.append_keeps (s : State) (k p idx : ℕ) (a : AppArg) (w : Who) :
    Keeps s (State.append s k p idx a w).2 := by
  refine keeps fun hs => ?_
  rw [State.append.eq_def]
  split
  · exact hs
  · simp [hs]
  · split <;> have hs := memWf_of_see (State.alloc_see_of ‹_› (by simp)) hs <;> simp [hs]

theorem State.append_keeps_of {s : State} {k p idx : ℕ} {a : AppArg} {w : Who} {w1 t1}
    (hh : (State.append s k p idx a w) = (w1, t1)) :
    Keeps s t1 := by
  have h := State.append_keeps s k p idx a w; rwa [hh] at h

/-- The state kept where the entry fails is `s0` or `s`. -/
theorem State.failEntry_memWf (s s0 : State) (k p : ℕ) (o : AttOp) (c : Cmd) (before : List AttEntry) (b : Bad)
    (hs : see State.memWf s = true) (h0 : see State.memWf s0 = true) :
    see State.memWf (State.failEntry s s0 k p o c before b) = true := by
  rw [State.failEntry.eq_def]
  split
  · exact h0
  · simp [hs]

@[simp ↓] theorem State.takeEntry_keeps (s : State) (k p : ℕ) (q i : ℕ) (c : Cmd) :
    Keeps s (State.takeEntry s k p q i c).2 := by
  refine keeps fun hs => ?_
  rw [State.takeEntry.eq_def]
  dsimp only
  split
  · exact hs
  · split
    · exact memWf_of_see (State.placeRanges_see_of ‹_› (by simp)) hs
    · have hs := memWf_of_see (State.placeRanges_see_of ‹_› (by simp)) hs
      split
      · exact hs
      · split
        · split
          · exact hs
          · split <;> have hs := (State.append_keeps_of ‹_›).of hs <;> simp [hs]
        · simp [hs]

theorem State.takeEntry_keeps_of {s : State} {k p : ℕ} {q i : ℕ} {c : Cmd} {w1 t1}
    (hh : (State.takeEntry s k p q i c) = (w1, t1)) :
    Keeps s t1 := by
  have h := State.takeEntry_keeps s k p q i c; rwa [hh] at h

@[simp ↓] theorem State.walkBwd_keeps (s : State) (k p : ℕ) (c : Cmd) (e : AttEntry) (f : FrameRef) :
    Keeps s (State.walkBwd s k p c e f).2 := by
  refine keeps fun hs => ?_
  simp [hs, State.walkBwd]

theorem State.walkBwd_keeps_of {s : State} {k p : ℕ} {c : Cmd} {e : AttEntry} {f : FrameRef} {w1 t1}
    (hh : (State.walkBwd s k p c e f) = (w1, t1)) :
    Keeps s t1 := by
  have h := State.walkBwd_keeps s k p c e f; rwa [hh] at h

@[simp ↓] theorem State.finishEntry_keeps (s : State) (k p q : ℕ) (c : Cmd) (e : AttEntry) :
    Keeps s (State.finishEntry s k p q c e) := by
  refine keeps fun hs => ?_
  rw [State.finishEntry.eq_def]; dsimp only; (repeat' split) <;> simp [hs]

@[simp ↓] theorem State.closeEntry_keeps (s : State) (k p q : ℕ) (o : AttOp) (c : Cmd) (e : AttEntry) :
    Keeps s (State.closeEntry s k p q o c e) := by
  refine keeps fun hs => ?_
  simp [hs, State.closeEntry]

theorem State.endEntry_memWf (s s0 : State) (k p q : ℕ) (o : AttOp) (c : Cmd) (e : AttEntry)
    (hs : see State.memWf s = true) (h0 : see State.memWf s0 = true) :
    see State.memWf (State.endEntry s s0 k p q o c e) = true := by
  rw [State.endEntry.eq_def]
  split
  · exact State.failEntry_memWf _ _ _ _ _ _ _ _ hs h0
  · simp [hs]

@[simp ↓] theorem State.resumeAppend_keeps (s : State) (k f : ℕ) : Keeps s (State.resumeAppend s k f) := by
  refine keeps fun hs => ?_
  rw [State.resumeAppend.eq_def]
  split
  · exact hs
  · split
    · exact hs
    · dsimp only
      split
      · simp [hs]
      · split
        · have hs := memWf_of_see (State.takeSnapshot_see_of ‹_› (by simp)) (by simp [hs])
          simp [hs]
        · have hs := memWf_of_see (State.takeSnapshot_see_of ‹_› (by simp)) (by simp [hs])
          simp [hs]

/-! ## Chains, rings, links and collectives -/

@[simp ↓] theorem State.failStage_keeps (s : State) (t : ℕ) (r : CmdRef) (b : Bad) :
    Keeps s (State.failStage s t r b) := by
  refine keeps fun hs => ?_
  simp [hs, State.failStage]

@[simp ↓] theorem State.beginOwn_keeps (s : State) (t p : ℕ) (ch : Chain) (i : ℕ) (c : Cmd) :
    Keeps s (State.beginOwn s t p ch i c) := by
  refine keeps fun hs => ?_
  rw [State.beginOwn.eq_def]; dsimp only; (repeat' split) <;> simp [hs]

@[simp ↓] theorem State.beginEngine_keeps (s : State) (t p q : ℕ) (ch : Chain) (i : ℕ) (sc : Cmd) :
    Keeps s (State.beginEngine s t p q ch i sc) := by
  refine keeps fun hs => ?_
  have place : ∀ (k p lc : Nat) (rs : List PRange) (h : List PageMap) (b : Bool) {w1 t1},
      (if b = true then s.placeRanges k p lc rs h else (Except.ok h, s)) = (w1, t1) → see State.memWf t1 = true := by
    intro k p lc rs h b w1 t1 hh
    split at hh
    · exact memWf_of_see (State.placeRanges_see_of hh (by simp)) hs
    · cases hh; exact hs
  rw [State.beginEngine.eq_def]
  refine memWf_ite hs ?_
  dsimp only
  split
  · simp [hs]
  · split <;> have ht := place _ _ _ _ _ _ ‹_›
    · exact memWf_ite (by simp [ht]) hs
    · refine memWf_ite hs ?_
      split
      · exact hs
      · simp [ht]
      · split <;> have ht := memWf_of_see (State.placeRanges_see_of ‹_› (by simp)) ht
        · simp [ht]
        · exact memWf_ite hs (by simp [ht])

@[simp ↓] theorem State.failParty_keeps (s : State) (p : ℕ) (x : RingParty) (b : Bad) :
    Keeps s (State.failParty s p x b) := by
  refine keeps fun hs => ?_
  rw [State.failParty.eq_def]; (repeat' split) <;> simp [hs]

@[simp ↓] theorem State.disableRing_keeps (s : State) (p r : ℕ) : Keeps s (State.disableRing s p r) := by
  refine keeps fun hs => ?_
  simp [hs, State.disableRing]

@[simp ↓] theorem State.failCle_keeps (s : State) (g : ℕ) (r : CmdRef) (b : Bad) :
    Keeps s (State.failCle s g r b) := by
  refine keeps fun hs => ?_
  simp [hs, State.failCle]

@[simp ↓] theorem State.peerReset_keeps (s : State) (peer : ℕ) : Keeps s (State.peerReset s peer) := by
  refine keeps fun hs => ?_
  rw [State.peerReset.eq_def]
  refine memWf_of_see (State.forgetPeer_see _ _ (by simp)) ?_
  refine (foldl_keeps _ (fun t x ht => by simp [ht]) _ _).of ?_
  refine memWf_of_see (foldl_see _ (fun t g => by simp) _ _) ?_
  exact memWf_of_see (foldl_see _ (fun t l => by rw [ite_see]; split <;> simp) _ _) hs

@[simp ↓] theorem State.exchangeInc_keeps (s : State) (peer : ℕ) (inc : BitVec 16) :
    Keeps s (State.exchangeInc s peer inc) := by
  refine keeps fun hs => ?_
  rw [State.exchangeInc.eq_def]; dsimp only; (repeat' split) <;> simp [hs]

@[simp ↓] theorem State.linkTrained_keeps (s : State) (l : ℕ) (far : FarEnd) :
    Keeps s (State.linkTrained s l far) := by
  refine keeps fun hs => ?_
  rw [State.linkTrained.eq_def]; split <;> simp [hs]

@[simp ↓] theorem State.sendResult_keeps (s : State) (g j : ℕ) : Keeps s (State.sendResult s g j) := by
  refine keeps fun hs => ?_
  rw [State.sendResult.eq_def]; dsimp only; (repeat' split) <;> simp [hs]

@[simp ↓] theorem State.contribute_keeps (s : State) (g j : ℕ) : Keeps s (State.contribute s g j) := by
  refine keeps fun hs => ?_
  rw [State.contribute.eq_def]; (repeat' split) <;> simp [hs] <;> (split <;> simp [hs])

@[simp ↓] theorem State.meetReady_keeps (s : State) (g peer : ℕ) (digest : W32) :
    Keeps s (State.meetReady s g peer digest) := by
  refine keeps fun hs => ?_
  rw [State.meetReady.eq_def]; split <;> simp [hs]

@[simp ↓] theorem State.startColl_keeps (s : State) (g opcode : ℕ) : Keeps s (State.startColl s g opcode) := by
  refine keeps fun hs => ?_
  rw [State.startColl.eq_def]; dsimp only; (repeat' split) <;> simp [hs]

@[simp ↓] theorem State.performFrame_keeps (s : State) (l : ℕ) (f : Frame) :
    Keeps s (State.performFrame s l f).2 := by
  refine keeps fun hs => ?_
  rw [State.performFrame.eq_def]
  split
  · exact hs
  · split
    · simp [hs]
    · split
      · exact memWf_of_see (State.inboundPlace_see_of ‹_› (by simp)) hs
      · have hs := memWf_of_see (State.inboundPlace_see_of ‹_› (by simp)) hs
        (repeat' split) <;> simp [hs]

theorem State.performFrame_keeps_of {s : State} {l : ℕ} {f : Frame} {w1 t1}
    (hh : (State.performFrame s l f) = (w1, t1)) :
    Keeps s t1 := by
  have h := State.performFrame_keeps s l f; rwa [hh] at h

@[simp ↓] theorem State.performAck_keeps (s : State) (l : ℕ) (f : Frame) : Keeps s (State.performAck s l f) := by
  refine keeps fun hs => ?_
  rw [State.performAck.eq_def]
  split <;> have hs := (State.performFrame_keeps_of ‹_›).of hs <;> simp [hs]

@[simp ↓] theorem State.drainEarly_keeps (s : State) (k v2 : ℕ) : Keeps s (State.drainEarly s k v2) := by
  refine keeps fun hs => ?_
  induction v2 generalizing s with
  | zero => exact hs
  | succ n ih =>
    rw [State.drainEarly]
    dsimp only
    split
    · exact hs
    · exact ih _ (by simp [hs])

/-! ## Staged values and samples -/

@[simp ↓] theorem State.durationFault_keeps (s : State) (p uclass unit : ℕ) :
    Keeps s (State.durationFault s p uclass unit) := by
  refine keeps fun hs => ?_
  simp [hs, State.durationFault]

@[simp ↓] theorem State.reportKept_keeps (s : State) (b : BlkId) (off : ℕ) (kept : W32) :
    Keeps s (State.reportKept s b off kept) := by
  refine keeps fun hs => ?_
  rw [State.reportKept.eq_def]; dsimp only; (repeat' split) <;> simp [hs]

@[simp ↓] theorem State.committed_keeps (s : State) (b : BlkId) (off : ℕ) (old : W32) :
    Keeps s (State.committed s b off old) := by
  refine keeps fun hs => ?_
  rw [State.committed.eq_def]; split <;> simp [hs]

@[simp ↓] theorem State.applyPart_keeps (s : State) (b : BlkId) (part : ℕ) : Keeps s (State.applyPart s b part) := by
  refine keeps fun hs => ?_
  simp [hs, State.applyPart]

@[simp ↓] theorem State.go_keeps (s : State) (b : BlkId) : Keeps s (State.go s b) := by
  refine keeps fun hs => ?_
  simp [hs, State.go]

theorem State.vxeEnd_memWf (s s0 : State) (t p : ℕ) (o : VxeOp) (c : Cmd) (g : Gate) (ws : List (ℕ × List Byte))
    (hs : see State.memWf s = true) (h0 : see State.memWf s0 = true) :
    see State.memWf (State.vxeEnd s s0 t p o c g ws) = true := by
  rw [State.vxeEnd.eq_def]
  split
  · exact h0
  · simp [hs]
  · simp [hs]

theorem sampleVec_keeps (t p : ℕ) (c : Cmd) (rec_ : List W64) (a : Smp × State) (ij : ℕ × ℕ) :
    Keeps a.2 (sampleVec t p c rec_ a ij).2 := by
  refine keeps fun hs => ?_
  rw [sampleVec.eq_def]; dsimp only; (repeat' split) <;> simp [hs]

@[simp ↓] theorem sampleVecs_keeps (t p : ℕ) (c : Cmd) (rec_ : List W64) (s : State) :
    Keeps s (sampleVecs t p c rec_ s).2 := by
  refine keeps fun hs => ?_
  rw [sampleVecs.eq_def]
  exact (foldl_snd_keeps _ (fun a ij ha => (sampleVec_keeps t p c rec_ a ij).of ha) _ _).of hs

theorem sampleVecs_keeps_of {t p : ℕ} {c : Cmd} {rec_ : List W64} {s : State} {w1 t1}
    (hh : (sampleVecs t p c rec_ s) = (w1, t1)) :
    Keeps s t1 := by
  have h := sampleVecs_keeps t p c rec_ s; rwa [hh] at h

@[simp ↓] theorem execGo_keeps (m : Master) (b : BlkId) (s : State) : Keeps s (stateOf (execGo m b s) s) := by
  refine keeps fun hs => ?_
  simp [hs, execGo]

@[simp ↓] theorem execDiscard_keeps (m : Master) (b : BlkId) (s : State) :
    Keeps s (stateOf (execDiscard m b s) s) := by
  refine keeps fun hs => ?_
  simp [hs, execDiscard]

/-! ## The keeper runtime -/

@[simp ↓] theorem State.accept_keeps (s : State) (p q k : ℕ) (r : CmdRef) (c : Cmd) (code value : ℕ) :
    Keeps s (State.accept s p q k r c code value).2 := by
  refine keeps fun hs => ?_
  rw [State.accept.eq_def]
  dsimp only
  split <;> have hs := (State.storeVa_keeps_of ‹_›).of (by simpa using hs) <;> simp [hs]

theorem State.accept_keeps_of {s : State} {p q k : ℕ} {r : CmdRef} {c : Cmd} {code value : ℕ} {w1 t1}
    (hh : (State.accept s p q k r c code value) = (w1, t1)) :
    Keeps s t1 := by
  have h := State.accept_keeps s p q k r c code value; rwa [hh] at h

@[simp ↓] theorem State.rtRelease_keeps (s : State) (p k lc : ℕ) (word : W64) (v : ℕ) :
    Keeps s (State.rtRelease s p k lc word v) := by
  refine keeps fun hs => ?_
  have phys : ∀ {r : Except Bad Nat} {t : State}, (match s.markPhys p lc (waitMark word.toNat) true with
      | (.ok a, s) => (match s.coreFlush (2 * k) a with
        | (none, s) => (Except.ok a, s)
        | (some w, s) => (.error ⟨0x07, 0, 0, 0, w.va, 0x7F⟩, s))
      | x => x) = (r, t) → see State.memWf t = true := by
    intro r t h
    split at h
    · have hs := memWf_of_see (State.markPhys_see_of ‹_› (by simp)) hs
      split at h <;> (cases h; exact memWf_of_see (State.coreFlush_see_of ‹_› (by simp)) hs)
    · exact memWf_of_see (State.markPhys_see_of h (by simp)) hs
  rw [State.rtRelease.eq_def]
  dsimp only
  split
  · have hs := phys ‹_›
    simp [hs]
  · have hs := phys ‹_›
    simp [hs]

@[simp ↓] theorem State.putToken_keeps (s : State) (p k : ℕ) (d : DecodeReq) (t : Token) :
    Keeps s (State.putToken s p k d t) := by
  refine keeps fun hs => ?_
  rw [State.putToken.eq_def]
  dsimp only
  split <;> have hs := (State.storeVa_keeps_of ‹_›).of (by rw [ite_see]; split <;> simpa using hs) <;> simp [hs]

@[simp ↓] theorem State.cutDecode_keeps (s : State) (p k : ℕ) (d : DecodeReq) :
    Keeps s (State.cutDecode s p k d) := by
  refine keeps fun hs => ?_
  simp [hs, State.cutDecode]

@[simp ↓] theorem State.endDecode_keeps (s : State) (p k : ℕ) (h : W32) : Keeps s (State.endDecode s p k h) := by
  refine keeps fun hs => ?_
  rw [State.endDecode.eq_def]; split <;> simp [hs]

@[simp ↓] theorem State.roll_keeps (s : State) (p k : ℕ) (it : RollItem) : Keeps s (State.roll s p k it) := by
  refine keeps fun hs => ?_
  simp [hs, State.roll]

@[simp ↓] theorem State.deliver_keeps (s : State) (p k : ℕ) (d : DecodeReq) (recs : List CandRec) :
    Keeps s (State.deliver s p k d recs) := by
  refine keeps fun hs => ?_
  rw [State.deliver.eq_def]; dsimp only; (repeat' split) <;> simp [hs]

@[simp ↓] theorem State.cutExhausted_keeps (s : State) (p k : ℕ) (d : DecodeReq) :
    Keeps s (State.cutExhausted s p k d) := by
  refine keeps fun hs => ?_
  rw [State.cutExhausted.eq_def]; dsimp only; split <;> simp [hs]

theorem State.recoverStep_memWf {s : State} {p : Fin 8} {k : ℕ} {t : State} (h : State.recoverStep s p k = some t)
    (hs : see State.memWf s = true) : see State.memWf t = true := by
  revert t
  rw [State.recoverStep.eq_def]
  dsimp only
  (repeat' split) <;> (intro t h; cases h <;> simp [hs])

@[simp ↓] theorem State.endPrefill_keeps (s : State) (p k : ℕ) (f : PrefillReq) :
    Keeps s (State.endPrefill s p k f) := by
  refine keeps fun hs => ?_
  simp [hs, State.endPrefill]

@[simp ↓] theorem State.prefillChunk_keeps (s : State) (p k : ℕ) : Keeps s (State.prefillChunk s p k) := by
  refine keeps fun hs => ?_
  rw [State.prefillChunk.eq_def]; split <;> simp [hs]

/-! ## The image, power and resets -/

@[simp ↓] theorem State.imgResult_keeps (s : State) (r : ℕ) : Keeps s (State.imgResult s r) := by
  refine keeps fun hs => ?_
  exact hs

theorem State.imgOwned_memWf (s : State) (m : Master) (f : State) (hs : see State.memWf s = true)
    (hf : see State.memWf f = true) : see State.memWf (s.imgOwned m f) = true := by
  rw [State.imgOwned.eq_def]
  (repeat' split) <;> simp [hs, hf]

@[simp ↓] theorem execImgClaimWrite_keeps (m : Master) (owner : BitVec 2) (s : State) :
    Keeps s (stateOf (execImgClaimWrite m owner s) s) := by
  refine keeps fun hs => ?_
  rw [execImgClaimWrite.eq_def, stateOf_next]
  dsimp only
  (repeat' split) <;> exact hs

@[simp ↓] theorem execImgClaimForce_keeps (m : Master) (s : State) : Keeps s (stateOf (execImgClaimForce m s) s) := by
  refine keeps fun hs => ?_
  rw [execImgClaimForce.eq_def, stateOf_next]
  split <;> exact hs

@[simp ↓] theorem State.imgPut_keeps (s : State) (off : ℕ) (bs : List Byte) : Keeps s (State.imgPut s off bs) := by
  refine keeps fun hs => ?_
  have hb := State.imgPut_buf_wf s off bs
  simp only [see_memWf, Bool.and_eq_true] at hs ⊢
  exact ⟨hs.1, hb hs.2⟩

@[simp ↓] theorem execImgBufWrite_keeps (m : Master) (off : ℕ) (v : W32) (s : State) :
    Keeps s (stateOf (execImgBufWrite m off v s) s) := by
  refine keeps fun hs => ?_
  rw [execImgBufWrite.eq_def, stateOf_okIf]
  split
  · exact State.imgOwned_memWf _ _ _ hs (by simp [hs])
  · exact hs

@[simp ↓] theorem State.imgCmd_keeps (s : State) (m : Master) (f : State → State)
    (hf : ∀ t, see State.memWf t = true → see State.memWf (f t) = true) : Keeps s (s.imgCmd m f) := by
  refine keeps fun hs => ?_
  rw [State.imgCmd.eq_def]
  refine State.imgOwned_memWf _ _ _ hs ?_
  split
  · simp [hs]
  · exact hf _ (by simp [hs])

@[simp ↓] theorem execImgFetch_keeps (m : Master) (s : State) : Keeps s (stateOf (execImgFetch m s) s) := by
  refine keeps fun hs => ?_
  rw [execImgFetch.eq_def, stateOf_next]
  refine (State.imgCmd_keeps _ _ _ fun t ht => ?_).of hs
  simp [ht]

@[simp ↓] theorem State.imgFetched_keeps (s : State) (data : Option (List Byte)) :
    Keeps s (State.imgFetched s data) := by
  refine keeps fun hs => ?_
  rw [State.imgFetched.eq_def]
  dsimp only
  (repeat' split) <;> simp [hs]

@[simp ↓] theorem execImgVerify_keeps (m : Master) (s : State) : Keeps s (stateOf (execImgVerify m s) s) := by
  refine keeps fun hs => ?_
  rw [execImgVerify.eq_def, stateOf_next]
  refine (State.imgCmd_keeps _ _ _ fun t ht => ?_).of hs
  exact memWf_of_parts rfl rfl rfl ht

@[simp ↓] theorem execImgClear_keeps (m : Master) (s : State) : Keeps s (stateOf (execImgClear m s) s) := by
  refine keeps fun hs => ?_
  rw [execImgClear.eq_def, stateOf_next]
  refine (State.imgCmd_keeps _ _ _ fun t ht => ?_).of hs
  simp only [see_memWf, Bool.and_eq_true] at ht ⊢
  exact ⟨ht.1, rfl⟩

@[simp ↓] theorem State.verifyEnd_keeps (s : State) : Keeps s (State.verifyEnd s) := by
  refine keeps fun hs => ?_
  rw [State.verifyEnd.eq_def]
  dsimp only
  split <;> simp [hs]

@[simp ↓] theorem State.resetTile_keeps (s : State) (i : Option ImageCfg) (t : ℕ) :
    Keeps s (State.resetTile s i t) := by
  refine keeps fun hs => ?_
  simp [hs, State.resetTile]

@[simp ↓] theorem State.loseUnit_keeps (s : State) (d : ℕ) : Keeps s (State.loseUnit s d) := by
  refine keeps fun hs => ?_
  rw [State.loseUnit.eq_def]; split <;> simp [hs]

@[simp ↓] theorem State.domainOff_keeps (s : State) (d : ℕ) : Keeps s (State.domainOff s d) := by
  refine keeps fun hs => ?_
  simp [hs, State.domainOff]

@[simp ↓] theorem State.dropDoms_keeps (s : State) (ds : List ℕ) : Keeps s (State.dropDoms s ds) := by
  refine keeps fun hs => ?_
  rw [State.dropDoms.eq_def]; simp [hs]

@[simp ↓] theorem State.domainOn_keeps (s : State) (d links : ℕ) : Keeps s (State.domainOn s d links) := by
  refine keeps fun hs => ?_
  rw [State.domainOn.eq_def]; (repeat' split) <;> simp [hs]

@[simp ↓] theorem State.switchOn_keeps (s : State) (i : Option ImageCfg) (parts : ℕ → Bool) :
    Keeps s (State.switchOn s i parts) := by
  refine keeps fun hs => ?_
  rw [State.switchOn.eq_def]
  refine (foldl_keeps _ (fun t d ht => ?_) _ _).of hs
  split
  · split <;> simp [ht]
  · exact ht

@[simp ↓] theorem State.clearPart_keeps (s : State) (i : Option ImageCfg) (p : ℕ) :
    Keeps s (State.clearPart s i p) := by
  refine keeps fun hs => ?_
  rw [State.clearPart.eq_def]; split <;> simp [hs]

@[simp ↓] theorem State.loseRef_keeps (s : State) (r : CmdRef) (fault : Bool) (e : Eng) (u : ℕ) :
    Keeps s (State.loseRef s r fault e u) := by
  refine keeps fun hs => ?_
  rw [State.loseRef.eq_def]; split <;> simp [hs]

@[simp ↓] theorem State.loseRefs_keeps (s : State) (e : Eng) (u : ℕ) (v3 : List ℕ) (v4 : List CmdRef) :
    Keeps s (State.loseRefs s e u v3 v4) := by
  refine keeps fun hs => ?_
  induction v4 generalizing s v3 with
  | nil => exact hs
  | cons r rs ih =>
    rw [State.loseRefs]
    exact ih _ _ (by simp [hs])

@[simp ↓] theorem State.performEngine_keeps (s : State) (p : ℕ) (e : Eng) (u : ℕ) :
    Keeps s (State.performEngine s p e u) := by
  refine keeps fun hs => ?_
  rw [State.performEngine.eq_def]; split <;> simp [hs]

@[simp ↓] theorem State.engineReset_keeps (s : State) (p : ℕ) (e : Eng) (u : ℕ) :
    Keeps s (State.engineReset s p e u) := by
  refine keeps fun hs => ?_
  simp [hs, State.engineReset]

@[simp ↓] theorem State.pumpResets_keeps (s : State) : Keeps s (State.pumpResets s) := by
  refine keeps fun hs => ?_
  rw [State.pumpResets.eq_def]
  refine (foldl_keeps _ (fun t c ht => ?_) _ _).of hs
  dsimp only
  refine memWf_of_see (State.settleAll_see _ _ (by simp)) ?_
  refine (foldl_keeps _ (fun u g hu => ?_) _ _).of ht
  split
  · split
    · exact hu
    · simp [hu]
  · exact hu

@[simp ↓] theorem State.resetPart_keeps (s : State) (p : ℕ) : Keeps s (State.resetPart s p) := by
  refine keeps fun hs => ?_
  rw [State.resetPart.eq_def]; split <;> simp [hs]

@[simp ↓] theorem State.beginApply_keeps (s : State) (new : ImageCfg) (mask : BitVec 8) :
    Keeps s (State.beginApply s new mask) := by
  refine keeps fun hs => ?_
  rw [State.beginApply.eq_def]
  simp [hs]

@[simp ↓] theorem execImgApply_keeps (m : Master) (s : State) : Keeps s (stateOf (execImgApply m s) s) := by
  refine keeps fun hs => ?_
  rw [execImgApply.eq_def, stateOf_next]
  refine (State.imgCmd_keeps _ _ _ fun t ht => ?_).of hs
  dsimp only
  (repeat' split) <;> simp [ht]

@[simp ↓] theorem State.zeroChanged_keeps (s : State) (old new : Option ImageCfg) (mask : BitVec 8) :
    Keeps s (State.zeroChanged s old new mask) := by
  refine keeps fun hs => ?_
  simp only [see_memWf, Bool.and_eq_true, State.zeroChanged] at hs ⊢
  exact ⟨⟨SMap.wf_filter 0 _ s.mem hs.1.1, hs.1.2⟩, hs.2⟩

@[simp ↓] theorem State.restart_keeps (s : State) (fromMgmt : Bool) : Keeps s (State.restart s fromMgmt) := by
  refine keeps fun hs => ?_
  simp only [see_memWf, Bool.and_eq_true] at hs ⊢
  exact ⟨⟨rfl, hs.1.2⟩, rfl⟩

@[simp ↓] theorem State.chipReset_keeps (s : State) (fromMgmt : Bool) : Keeps s (State.chipReset s fromMgmt) := by
  refine keeps fun hs => ?_
  simp [hs, State.chipReset]

theorem State.order_memWf (s : State) (p : Nat) (g : Rung) (f : State → State) (hs : see State.memWf s = true)
    (hf : ∀ t, see State.memWf t = true → see State.memWf (f t) = true) : see State.memWf (s.order p g f) = true := by
  rw [State.order.eq_def]
  dsimp only
  (repeat' split) <;> simp [hs, hf]

@[simp ↓] theorem execEngineReset_keeps (m : Master) (p : Fin 8) (engine : BitVec 4) (unit : BitVec 8) (s : State) :
    Keeps s (stateOf (execEngineReset m p engine unit s) s) := by
  refine keeps fun hs => ?_
  rw [execEngineReset.eq_def, stateOf_next]
  split
  · exact hs
  · split
    · simp [hs]
    · split
      · simp [hs]
      · exact State.order_memWf _ _ _ _ hs fun t ht => by simp [ht]

@[simp ↓] theorem execPartitionReset_keeps (m : Master) (p : Fin 8) (s : State) :
    Keeps s (stateOf (execPartitionReset m p s) s) := by
  refine keeps fun hs => ?_
  rw [execPartitionReset.eq_def, stateOf_next]
  split
  · exact hs
  · exact State.order_memWf _ _ _ _ hs fun t ht => by simp [ht]

@[simp ↓] theorem execChipReset_keeps (m : Master) (p : Fin 8) (s : State) :
    Keeps s (stateOf (execChipReset m p s) s) := by
  refine keeps fun hs => ?_
  simp [hs, execChipReset]

@[simp ↓] theorem State.pcieStart_keeps (s : State) : Keeps s (State.pcieStart s) := by
  refine keeps fun hs => ?_
  simp [hs, State.pcieStart]

@[simp ↓] theorem State.startConv_keeps (s : State) : Keeps s (State.startConv s) := by
  refine keeps fun hs => ?_
  simp [hs, State.startConv]

@[simp ↓] theorem State.unpowered_keeps (s : State) : Keeps s (State.unpowered s) := by
  refine keeps fun hs => ?_
  simp only [see_memWf, Bool.and_eq_true] at hs ⊢
  exact ⟨⟨rfl, hs.1.2⟩, rfl⟩

theorem wf_rising (f : Nat → Byte) (n a : Nat) :
    ∀ b, b < a → SMap.wfAbove 0 (some b)
      (((List.range' a n).map (fun i => (i, f i))).filter (fun c => decide (c.2 ≠ 0))) = true := by
  induction n generalizing a with
  | zero => intro b _; rfl
  | succ n ih =>
    intro b hb
    rw [List.range'_succ, List.map_cons, List.filter_cons]
    split
    · rename_i hv
      simp only [SMap.wfAbove, Bool.and_eq_true]
      exact ⟨⟨decide_eq_true hb, hv⟩, ih (a + 1) a (Nat.lt_succ_self a)⟩
    · exact ih (a + 1) b (Nat.lt_succ_of_lt hb)

theorem State.flashBuf_wf (s : State) (base max : Nat) : Memory.wf 0 (s.flashBuf base max) = true := by
  unfold State.flashBuf Memory.wf
  dsimp only
  generalize (if s.flashLe (base + 8) 4 ≤ max then Nat.max (s.flashLe (base + 8) 4) 576 else 576) = n
  cases n with
  | zero => rfl
  | succ n =>
    rw [List.range_eq_range', List.range'_succ, List.map_cons, List.filter_cons]
    split
    · rename_i hv
      simp only [SMap.wf, SMap.wfAbove, Bool.and_eq_true]
      exact ⟨hv, wf_rising _ n 1 0 Nat.one_pos⟩
    · exact SMap.wf_of_above _ _ (some 0) (wf_rising (fun i => s.flashByte (base + i)) n 1 0 Nat.one_pos)

@[simp ↓] theorem State.bootVerify_keeps (s : State) : Keeps s (State.bootVerify s) := by
  refine keeps fun hs => ?_
  have hb := State.flashBuf_wf s (compBase 3 (s.activeB 3)) (compSize 3)
  simp only [see_memWf, Bool.and_eq_true] at hs
  rw [State.bootVerify.eq_def]
  dsimp only
  split
  · refine memWf_of_see (State.alert_see _ _ (by simp)) (memWf_of_see (State.stopTimer_see _ _ (by simp)) ?_)
    simp only [see_memWf, Bool.and_eq_true]
    exact ⟨hs.1, hb⟩
  · refine (State.beginApply_keeps ..).of (memWf_of_see (State.alert_see _ _ (by simp)) ?_)
    simp only [see_memWf, Bool.and_eq_true]
    exact ⟨hs.1, hb⟩

@[simp ↓] theorem State.loseAll_keeps (s : State) : Keeps s (State.loseAll s) := by
  refine keeps fun hs => ?_
  rw [State.loseAll.eq_def]
  dsimp only
  generalize hX : List.foldl (fun (s : State) d => s.domainOff d) _ (List.range 88) = t
  have ht : see State.memWf t = true := by rw [← hX]; simp [hs]
  exact memWf_of_parts (s := t) rfl rfl (by split <;> rfl) ht

@[simp ↓] theorem State.domCmd_keeps (s : State) (m : Master) (d : ℕ) (on : Bool) :
    Keeps s (State.domCmd s m d on) := by
  refine keeps fun hs => ?_
  rw [State.domCmd.eq_def]; dsimp only; (repeat' split) <;> simp [hs]

@[simp ↓] theorem execDomainOn_keeps (m : Master) (d : BitVec 7) (s : State) :
    Keeps s (stateOf (execDomainOn m d s) s) := by
  refine keeps fun hs => ?_
  simp [hs, execDomainOn]

@[simp ↓] theorem execDomainOff_keeps (m : Master) (d : BitVec 7) (s : State) :
    Keeps s (stateOf (execDomainOff m d s) s) := by
  refine keeps fun hs => ?_
  simp [hs, execDomainOff]

@[simp ↓] theorem State.selectJtag_keeps (s : State) (j : Jtag) : Keeps s (State.selectJtag s j) := by
  refine keeps fun hs => ?_
  simp [hs, State.selectJtag]

@[simp ↓] theorem State.partitionByOther_keeps (s : State) (p : ℕ) : Keeps s (State.partitionByOther s p) := by
  refine keeps fun hs => ?_
  simp [hs, State.partitionByOther]

@[simp ↓] theorem State.hostFails_keeps (s : State) (r : HostReader) : Keeps s (State.hostFails s r) := by
  refine keeps fun hs => ?_
  rw [State.hostFails.eq_def]; dsimp only; (repeat' split) <;> simp [hs]

/-! ## Register and keeper accesses, firmware -/

@[simp ↓] theorem State.commitWrite_keeps (s : State) (m : Master) (b : BlkId) (v : W32) :
    Keeps s (State.commitWrite s m b v) := by
  refine keeps fun hs => ?_
  simp [hs, State.commitWrite]

theorem State.cmdWrite_memWf {s : State} {m : Master} {b : BlkId} {off : ℕ} {v : W32} {t : State}
    (h : State.cmdWrite s m b off v = some t) (hs : see State.memWf s = true) : see State.memWf t = true := by
  revert t
  rw [State.cmdWrite.eq_def]
  dsimp only
  (repeat' split) <;> (intro t h; cases h <;> simp [hs])

theorem State.deniedWrite_memWf {s : State} {m : Master} {b : BlkId} {off : ℕ} {t : State}
    (h : State.deniedWrite s m b off = some t) (hs : see State.memWf s = true) : see State.memWf t = true := by
  revert t
  rw [State.deniedWrite.eq_def]
  dsimp only
  (repeat' split) <;> (intro t h; cases h <;> simp [hs])

@[simp ↓] theorem State.regWrite_keeps (s : State) (m : Master) (b : BlkId) (off : ℕ) (v : W32) :
    Keeps s (State.regWrite s m b off v) := by
  refine keeps fun hs => ?_
  rw [State.regWrite.eq_def]
  split
  · simp [hs]
  · split
    · exact hs
    · split
      · exact State.deniedWrite_memWf ‹_› hs
      · split
        · exact State.cmdWrite_memWf ‹_› hs
        · split <;> simp [hs]

@[simp ↓] theorem State.ctlWrite_keeps (s : State) (m : Master) (addr : ℕ) (v : W32) :
    Keeps s (State.ctlWrite s m addr v) := by
  refine keeps fun hs => ?_
  rw [State.ctlWrite.eq_def]; split <;> simp [hs]

@[simp ↓] theorem State.bar0Write_keeps (s : State) (fn off : ℕ) (v : W32) :
    Keeps s (State.bar0Write s fn off v) := by
  refine keeps fun hs => ?_
  rw [State.bar0Write.eq_def]; split <;> simp [hs]

@[simp ↓] theorem State.bar2Write_keeps (s : State) (fn off : ℕ) (bs : List Byte) (relaxed : Bool) :
    Keeps s (State.bar2Write s fn off bs relaxed) := by
  refine keeps fun hs => ?_
  rw [State.bar2Write.eq_def]; dsimp only; (repeat' split) <;> simp [hs]

theorem State.coreUpdate_memWf (s : State) (core a n : ℕ) (f : State → State) (hs : see State.memWf s = true)
    (hf : ∀ t, see State.memWf t = true → see State.memWf (f t) = true) :
    see State.memWf (s.coreUpdate core a n f) = true := by
  rw [State.coreUpdate.eq_def]
  split
  · split <;> have hs := memWf_of_see (State.coreFlush_see_of ‹_› (by simp)) hs <;> simp [hs, hf]
  · exact hf s hs

@[simp ↓] theorem State.keeperAtomic_keeps (s : State) (core a : ℕ) (op : AtomOp) (bytes v : ℕ) :
    Keeps s (State.keeperAtomic s core a op bytes v) := by
  refine keeps fun hs => ?_
  rw [State.keeperAtomic.eq_def]
  split
  · simp [hs]
  · split
    · split
      · simp [hs]
      · exact State.coreUpdate_memWf _ _ _ _ _ hs fun t ht => by simp [ht]
    · simp [hs]
    · simp [hs]

@[simp ↓] theorem State.keeperStore_keeps (s : State) (core a : ℕ) (bs : List Byte) :
    Keeps s (State.keeperStore s core a bs) := by
  refine keeps fun hs => ?_
  rw [State.keeperStore.eq_def]
  dsimp only
  split
  · exact State.coreUpdate_memWf _ _ _ _ _ hs fun t ht => by simp [ht]
  · (repeat' split) <;> simp [hs]
  · simp [hs]
  · simp [hs]

/-- A store into flash and whatever it does to the other fields but memory and image. -/
theorem memWf_flash {s t : State} (a : Nat) (bs : List Byte) (hf : t.flash = flashPut s.flash a bs) (hm : t.mem = s.mem)
    (hi : t.img = s.img) (hs : see State.memWf s = true) : see State.memWf t = true := by
  simp only [see_memWf, Bool.and_eq_true, hf, hm, hi] at hs ⊢
  exact ⟨⟨hs.1.1, flashPut_wf s.flash a bs hs.1.2⟩, hs.2⟩

@[simp ↓] theorem State.fwEnd_keeps (s : State) (whole : Bool) : Keeps s (State.fwEnd s whole) := by
  refine keeps fun hs => ?_
  rw [State.fwEnd.eq_def]
  dsimp only
  split
  · simp [hs]
  · split
    · simp [hs]
    · refine memWf_of_see (State.alert_see _ _ (by simp)) ?_
      refine memWf_of_see (State.emit_see _ _ (by simp)) (memWf_of_see (State.emit_see _ _ (by simp)) ?_)
      exact memWf_flash _ _ rfl rfl rfl
        (memWf_of_see (State.emit_see _ _ (by simp)) (memWf_of_see (State.setFw_see _ _ (by simp)) hs))

/-! ## The beginning of a command, encoding -/

@[simp ↓] theorem State.tryBegin_keeps (s : State) (p q i : ℕ) (c : Cmd) : Keeps s (State.tryBegin s p q i c) := by
  refine keeps fun hs => ?_
  rw [State.tryBegin.eq_def]
  split
  · split <;> simp [hs]
  · have h := State.attempt_keeps (π := State.memWf) s p q i c (by simp)
    split <;> simp_all [Attempt.keeps]

theorem encodeGroup_keeps (p : Nat) (c : Cmd) (ref_ : CmdRef) (rec_ : List W64) (entries : List (List Num)) (row : List Num)
    (a : (Nat × List Nat) × Enc × State) (j : Nat) :
    Keeps a.2.2 (encodeGroup p c ref_ rec_ entries row a j).2.2 := by
  refine keeps fun hs => ?_
  rw [encodeGroup.eq_def]
  dsimp only
  (repeat' split) <;> simp [hs]

theorem encodeRow_keeps (p : Nat) (c : Cmd) (ref_ : CmdRef) (rec_ : List W64) (entries : List (List Num))
    (a : Enc × State) (i : Nat) :
    Keeps a.2 (encodeRow p c ref_ rec_ entries a i).2 := by
  refine keeps fun hs => ?_
  have hg : ∀ (row : List Num) (l : List Nat) (g : (Nat × List Nat) × Enc × State), see State.memWf g.2.2 = true →
      see State.memWf (l.foldl (encodeGroup p c ref_ rec_ entries row) g).2.2 = true := by
    intro row l
    induction l with
    | nil => exact fun g h => h
    | cons x l ih => exact fun g h => ih _ ((encodeGroup_keeps ..).of h)
  rw [encodeRow.eq_def]
  dsimp only
  (repeat' split) <;> simp [hs, hg]

@[simp ↓] theorem encodeRows_keeps (p : ℕ) (c : Cmd) (o : VxeOp) (s : State) : Keeps s (encodeRows p c o s).2 := by
  refine keeps fun hs => ?_
  rw [encodeRows.eq_def]
  exact (foldl_snd_keeps _ (fun a i ha => (encodeRow_keeps p c _ _ _ a i).of ha) _ _).of hs

theorem encodeRows_keeps_of {p : ℕ} {c : Cmd} {o : VxeOp} {s : State} {w1 t1} (hh : (encodeRows p c o s) = (w1, t1)) :
    Keeps s t1 := by
  have h := encodeRows_keeps p c o s; rwa [hh] at h

/-! ## The commands -/

@[simp ↓] theorem execMarkNotify_keeps (p : Fin 8) (q : Fin 2048) (w : Fin 4) (s : State) :
    Keeps s (stateOf (execMarkNotify p q w s) s) := by
  refine keeps fun hs => ?_
  rw [execMarkNotify.eq_def, stateOf_next]; (repeat' split) <;> simp [hs]

@[simp ↓] theorem execMarkReleaseAtHome_keeps (k : ℕ) (s : State) :
    Keeps s (stateOf (execMarkReleaseAtHome k s) s) := by
  refine keeps fun hs => ?_
  rw [execMarkReleaseAtHome.eq_def, stateOf_next]; dsimp only; (repeat' split) <;> simp [hs]

@[simp ↓] theorem execCommandRetire_keeps (p : Fin 8) (q : Fin 2048) (s : State) :
    Keeps s (stateOf (execCommandRetire p q s) s) := by
  refine keeps fun hs => ?_
  rw [execCommandRetire.eq_def, stateOf_next]; dsimp only; (repeat' split) <;> simp [hs]

theorem State.withLocal_memWf (s : State) (p q op : Nat) (f : Cmd → CmdRef → State) (hs : see State.memWf s = true)
    (hf : ∀ c r, see State.memWf (f c r) = true) : see State.memWf (s.withLocal p q op f) = true := by
  rw [State.withLocal.eq_def]
  split
  · exact hs
  · exact hf _ _

@[simp ↓] theorem execWriteImm_keeps (p : Fin 8) (q : Fin 2048) (s : State) :
    Keeps s (stateOf (execWriteImm p q s) s) := by
  refine keeps fun hs => ?_
  rw [execWriteImm.eq_def, stateOf_next]
  refine State.withLocal_memWf _ _ _ _ _ hs fun c r => ?_
  split <;> simp [hs]

@[simp ↓] theorem execMarkAdd_keeps (p : Fin 8) (q : Fin 2048) (s : State) :
    Keeps s (stateOf (execMarkAdd p q s) s) := by
  refine keeps fun hs => ?_
  rw [execMarkAdd.eq_def, stateOf_next]
  refine State.withLocal_memWf _ _ _ _ _ hs fun c r => ?_
  dsimp only
  split <;> have hs := memWf_of_see (State.markPhys_see_of ‹_› (by simp)) hs
  · simp [hs]
  · (repeat' split) <;> simp [hs]

@[simp ↓] theorem execPassSwap_keeps (t : Fin 48) (s : State) : Keeps s (stateOf (execPassSwap t s) s) := by
  refine keeps fun hs => ?_
  rw [execPassSwap.eq_def, stateOf_next]; dsimp only; (repeat' split) <;> simp [hs]

@[simp ↓] theorem execMxeIssue_keeps (t : Fin 48) (s : State) : Keeps s (stateOf (execMxeIssue t s) s) := by
  refine keeps fun hs => ?_
  rw [execMxeIssue.eq_def, stateOf_next]; dsimp only; (repeat' split) <;> simp [hs]

@[simp ↓] theorem execSlotRowAdd_keeps (t : Fin 48) (s : State) : Keeps s (stateOf (execSlotRowAdd t s) s) := by
  refine keeps fun hs => ?_
  rw [execSlotRowAdd.eq_def, stateOf_next]; dsimp only; (repeat' split) <;> simp [hs]

@[simp ↓] theorem execDrainRowRead_keeps (t : Fin 48) (s : State) : Keeps s (stateOf (execDrainRowRead t s) s) := by
  refine keeps fun hs => ?_
  rw [execDrainRowRead.eq_def, stateOf_next]; dsimp only; (repeat' split) <;> simp [hs]

@[simp ↓] theorem execDrainComplete_keeps (t : Fin 48) (s : State) : Keeps s (stateOf (execDrainComplete t s) s) := by
  refine keeps fun hs => ?_
  rw [execDrainComplete.eq_def, stateOf_next]; (repeat' split) <;> simp [hs]

@[simp ↓] theorem execVxeRun_keeps (t : Fin 48) (s : State) : Keeps s (stateOf (execVxeRun t s) s) := by
  refine keeps fun hs => ?_
  rw [execVxeRun.eq_def, stateOf_next]; dsimp only; (repeat' split) <;> simp [hs]

@[simp ↓] theorem execMxeLoadw_keeps (t : Fin 48) (s : State) : Keeps s (stateOf (execMxeLoadw t s) s) := by
  refine keeps fun hs => ?_
  rw [execMxeLoadw.eq_def, stateOf_next]; dsimp only; (repeat' split) <;> simp [hs]

@[simp ↓] theorem execLoadwComplete_keeps (t : Fin 48) (s : State) : Keeps s (stateOf (execLoadwComplete t s) s) := by
  refine keeps fun hs => ?_
  rw [execLoadwComplete.eq_def, stateOf_next]; dsimp only; (repeat' split) <;> simp [hs]

@[simp ↓] theorem execBookInstall_keeps (t : Fin 48) (slot : Fin 8) (s : State) :
    Keeps s (stateOf (execBookInstall t slot s) s) := by
  refine keeps fun hs => ?_
  rw [execBookInstall.eq_def, stateOf_next]; dsimp only; (repeat' split) <;> simp [hs]

@[simp ↓] theorem execVxeSurveySample_keeps (t : Fin 48) (s : State) :
    Keeps s (stateOf (execVxeSurveySample t s) s) := by
  refine keeps fun hs => ?_
  rw [execVxeSurveySample.eq_def, stateOf_next]
  split
  · exact hs
  · split
    · exact hs
    · exact State.vxeEnd_memWf _ _ _ _ _ _ _ _ (by simp [hs]) hs

@[simp ↓] theorem execVxeSurveyBuild_keeps (t : Fin 48) (s : State) :
    Keeps s (stateOf (execVxeSurveyBuild t s) s) := by
  refine keeps fun hs => ?_
  rw [execVxeSurveyBuild.eq_def, stateOf_next]
  split
  · exact hs
  · dsimp only
    split
    · exact hs
    · split
      · exact State.vxeEnd_memWf _ _ _ _ _ _ _ _ hs hs
      · split
        · exact hs
        · simp [hs]
        · split
          · exact hs
          · simp [hs]
          · exact State.vxeEnd_memWf _ _ _ _ _ _ _ _ (by simp [hs]) hs

@[simp ↓] theorem execVxeEncode_keeps (t : Fin 48) (s : State) : Keeps s (stateOf (execVxeEncode t s) s) := by
  refine keeps fun hs => ?_
  rw [execVxeEncode.eq_def, stateOf_next]
  split
  · exact hs
  · dsimp only
    split
    · exact hs
    · split
      · exact hs
      · simp [hs]
      · exact State.vxeEnd_memWf _ _ _ _ _ _ _ _ (by simp [hs]) hs

@[simp ↓] theorem execSteOpen_keeps (t : Fin 48) (sid : Fin 16) (s : State) :
    Keeps s (stateOf (execSteOpen t sid s) s) := by
  refine keeps fun hs => ?_
  rw [execSteOpen.eq_def, stateOf_next]; dsimp only; (repeat' split) <;> simp [hs]

@[simp ↓] theorem execStackAccess_keeps (k : Fin 12) (ecc : List EccFind) (ns : ℕ) (s : State) :
    Keeps s (stateOf (execStackAccess k ecc ns s) s) := by
  refine keeps fun hs => ?_
  rw [execStackAccess.eq_def, stateOf_next]; dsimp only; (repeat' split) <;> simp [hs]

@[simp ↓] theorem execNmeEntryTakeUp_keeps (k : Fin 12) (s : State) :
    Keeps s (stateOf (execNmeEntryTakeUp k s) s) := by
  refine keeps fun hs => ?_
  rw [execNmeEntryTakeUp.eq_def, stateOf_next]
  split
  · exact hs
  · dsimp only
    split
    · exact hs
    · split
      · exact hs
      · split
        · exact State.failEntry_memWf _ _ _ _ _ _ _ _ hs hs
        · split
          · exact State.failEntry_memWf _ _ _ _ _ _ _ _ ((State.takeEntry_keeps_of ‹_›).of hs) hs
          · have hs := (State.takeEntry_keeps_of ‹_›).of hs
            simp [hs]

@[simp ↓] theorem execNmeFrameWalk_keeps (k : Fin 12) (ecc : List EccFind) (s : State) :
    Keeps s (stateOf (execNmeFrameWalk k ecc s) s) := by
  refine keeps fun hs => ?_
  rw [execNmeFrameWalk.eq_def, stateOf_next]
  split
  · exact hs
  · split
    · exact hs
    · split
      · exact hs
      · split
        · exact State.endEntry_memWf _ _ _ _ _ _ _ _ hs hs
        · dsimp only
          split
          · exact State.endEntry_memWf _ _ _ _ _ _ _ _ (by simp [hs]) hs
          · split
            · exact State.failEntry_memWf _ _ _ _ _ _ _ _ (by simp [hs]) hs
            · split
              · refine State.endEntry_memWf _ _ _ _ _ _ _ _ ?_ hs
                split <;> simp [hs]
              · split <;> simp [hs]

@[simp ↓] theorem execNmeHandlePush_keeps (k : Fin 12) (s : State) : Keeps s (stateOf (execNmeHandlePush k s) s) := by
  refine keeps fun hs => ?_
  have flush : ∀ (b : Bool) (l : List HostWr) {w1 t1},
      (if b = true then s.flushReads l else (none, s)) = (w1, t1) → see State.memWf t1 = true := by
    intro b l w1 t1 hh
    split at hh
    · exact memWf_of_see (State.flushReads_see_of hh (by simp)) hs
    · cases hh; exact hs
  rw [execNmeHandlePush.eq_def, stateOf_next]
  split
  · exact hs
  · split
    · exact hs
    · split
      · exact hs
      · split <;> have hs := flush _ _ ‹_›
        · simp [hs]
        · dsimp only
          split <;> simp [hs]

@[simp ↓] theorem execFetchCopyDone_keeps (k : Fin 12) (data : Option (List Byte)) (s : State) :
    Keeps s (stateOf (execFetchCopyDone k data s) s) := by
  refine keeps fun hs => ?_
  rw [execFetchCopyDone.eq_def, stateOf_next]
  dsimp only
  split
  · split
    · refine memWf_of_see (State.fetchNext_see _ _ _ _ _ (by simp)) ?_
      refine memWf_of_see (State.ledgerEvict_see _ _ _ _ _ _ (by simp)) (memWf_of_see (State.setKvf_see _ _ _ (by simp)) ?_)
      exact (State.writeBytes_keeps ..).of hs
    · simp [hs]
  · exact hs

@[simp ↓] theorem execSpillCopyDone_keeps (k : Fin 12) (ok : Bool) (s : State) :
    Keeps s (stateOf (execSpillCopyDone k ok s) s) := by
  refine keeps fun hs => ?_
  rw [execSpillCopyDone.eq_def, stateOf_next]; dsimp only; (repeat' split) <;> simp [hs]

@[simp ↓] theorem execChainStageBegin_keeps (t : Fin 48) (q : Fin 2048) (stage : Fin 121) (s : State) :
    Keeps s (stateOf (execChainStageBegin t q stage s) s) := by
  refine keeps fun hs => ?_
  rw [execChainStageBegin.eq_def, stateOf_next]; dsimp only; (repeat' split) <;> simp [hs]

@[simp ↓] theorem execRingPush_keeps (p : Fin 8) (ring : Fin 64) (s : State) :
    Keeps s (stateOf (execRingPush p ring s) s) := by
  refine keeps fun hs => ?_
  rw [execRingPush.eq_def, stateOf_next]; dsimp only; (repeat' split) <;> simp [hs]

@[simp ↓] theorem execRingPop_keeps (p : Fin 8) (ring : Fin 64) (s : State) :
    Keeps s (stateOf (execRingPop p ring s) s) := by
  refine keeps fun hs => ?_
  rw [execRingPop.eq_def, stateOf_next]; dsimp only; (repeat' split) <;> simp [hs]

@[simp ↓] theorem execBarrierArrival_keeps (p : Fin 8) (b : Fin 16) (s : State) :
    Keeps s (stateOf (execBarrierArrival p b s) s) := by
  refine keeps fun hs => ?_
  rw [execBarrierArrival.eq_def, stateOf_next]; dsimp only; (repeat' split) <;> simp [hs]

@[simp ↓] theorem execCleSend_keeps (g : Fin 6) (s : State) : Keeps s (stateOf (execCleSend g s) s) := by
  refine keeps fun hs => ?_
  rw [execCleSend.eq_def, stateOf_next]; dsimp only; (repeat' split) <;> simp [hs]

@[simp ↓] theorem execReadyReceive_keeps (l : Fin 24) (f : Frame) (s0 : State) :
    Keeps s0 (stateOf (execReadyReceive l f s0) s0) := by
  refine keeps fun hs => ?_
  rw [execReadyReceive.eq_def, stateOf_next]
  split
  · exact hs
  · have ht := memWf_of_see (State.takeIf_see_of ‹_› (by simp)) hs
    dsimp only
    (repeat' split) <;> simp [hs, ht]

@[simp ↓] theorem execCollReduce_keeps (g : Fin 6) (s : State) : Keeps s (stateOf (execCollReduce g s) s) := by
  refine keeps fun hs => ?_
  rw [execCollReduce.eq_def, stateOf_next]
  dsimp only
  split
  · exact hs
  · split
    · exact hs
    · split
      · simp [hs]
      · refine memWf_of_see (State.collMaybeDone_see _ _ (by simp)) ?_
        refine (foldl_keeps _ (fun t j ht => by simp [ht]) _ _).of ?_
        simp [hs]

@[simp ↓] theorem execLinkWriteArrive_keeps (l : Fin 24) (f : Frame) (s : State) :
    Keeps s (stateOf (execLinkWriteArrive l f s) s) := by
  refine keeps fun hs => ?_
  rw [execLinkWriteArrive.eq_def, stateOf_next]
  split
  · exact hs
  · have hs := memWf_of_see (State.takeIf_see_of ‹_› (by simp)) hs
    dsimp only
    split <;> simp [hs]

@[simp ↓] theorem execSprayWriteArrive_keeps (l : Fin 24) (f : Frame) (s : State) :
    Keeps s (stateOf (execSprayWriteArrive l f s) s) := by
  refine keeps fun hs => ?_
  rw [execSprayWriteArrive.eq_def, stateOf_next]
  split
  · exact hs
  · have ht := memWf_of_see (State.takeIf_see_of ‹_› (by simp)) hs
    dsimp only
    split
    · simp [ht]
    · split
      · split <;> have ht := (State.performFrame_keeps_of ‹_›).of ht <;> simp [ht]
      · exact hs

@[simp ↓] theorem execLampPerform_keeps (g : Fin 6) (k : ℕ) (s : State) :
    Keeps s (stateOf (execLampPerform g k s) s) := by
  refine keeps fun hs => ?_
  rw [execLampPerform.eq_def, stateOf_next]; (repeat' split) <;> simp [hs]

@[simp ↓] theorem execInboundRejectReceive_keeps (l : Fin 24) (f : Frame) (s : State) :
    Keeps s (stateOf (execInboundRejectReceive l f s) s) := by
  refine keeps fun hs => ?_
  rw [execInboundRejectReceive.eq_def, stateOf_next]
  split
  · exact hs
  · have hs := memWf_of_see (State.takeIf_see_of ‹_› (by simp)) hs
    split
    · have hs := memWf_of_see (State.settle_see_of ‹_› (by simp)) hs
      split <;> simp [hs]
    · exact hs

@[simp ↓] theorem execLampExpiryReceive_keeps (l : Fin 24) (f : Frame) (s : State) :
    Keeps s (stateOf (execLampExpiryReceive l f s) s) := by
  refine keeps fun hs => ?_
  rw [execLampExpiryReceive.eq_def, stateOf_next]
  split
  · exact hs
  · have hs := memWf_of_see (State.takeIf_see_of ‹_› (by simp)) hs
    split
    · have hs := memWf_of_see (State.settle_see_of ‹_› (by simp)) hs
      split <;> simp [hs]
    · exact hs

@[simp ↓] theorem execAbortReceive_keeps (l : Fin 24) (f : Frame) (s : State) :
    Keeps s (stateOf (execAbortReceive l f s) s) := by
  refine keeps fun hs => ?_
  rw [execAbortReceive.eq_def, stateOf_next]
  split
  · exact hs
  · have hs := memWf_of_see (State.takeIf_see_of ‹_› (by simp)) hs
    dsimp only
    (repeat' split) <;> simp [hs]

@[simp ↓] theorem execCollTimeout_keeps (g : Fin 6) (q : Fin 2048) (head : W32) (s : State) :
    Keeps s (stateOf (execCollTimeout g q head s) s) := by
  refine keeps fun hs => ?_
  rw [execCollTimeout.eq_def, stateOf_next]; dsimp only; (repeat' split) <;> simp [hs]

@[simp ↓] theorem execSnapshotApply_keeps (b : BlkId) (part : ℕ) (s : State) :
    Keeps s (stateOf (execSnapshotApply b part s) s) := by
  refine keeps fun hs => ?_
  rw [execSnapshotApply.eq_def, stateOf_okIf]
  split
  · split
    · exact (State.applyPart_keeps ..).of hs
    · exact hs
  · exact hs

@[simp ↓] theorem execLnkModeChange_keeps (g : Fin 6) (s : State) : Keeps s (stateOf (execLnkModeChange g s) s) := by
  refine keeps fun hs => ?_
  rw [execLnkModeChange.eq_def, stateOf_next]; dsimp only; (repeat' split) <;> simp [hs]

@[simp ↓] theorem execLdgBurstAck_keeps (b : BlkId) (ok : Bool) (s : State) :
    Keeps s (stateOf (execLdgBurstAck b ok s) s) := by
  refine keeps fun hs => ?_
  rw [execLdgBurstAck.eq_def, stateOf_okIf]; dsimp only; (repeat' split) <;> simp [hs]

@[simp ↓] theorem execOpenSession_keeps (p : Fin 8) (q : Fin 2048) (s : State) :
    Keeps s (stateOf (execOpenSession p q s) s) := by
  refine keeps fun hs => ?_
  rw [execOpenSession.eq_def, stateOf_next]; dsimp only; (repeat' split) <;> simp [hs]

@[simp ↓] theorem execPrefill_keeps (p : Fin 8) (q : Fin 2048) (s : State) :
    Keeps s (stateOf (execPrefill p q s) s) := by
  refine keeps fun hs => ?_
  rw [execPrefill.eq_def, stateOf_next]
  split
  · exact hs
  · refine memWf_ite (by simp [hs]) ?_
    dsimp only
    refine memWf_ite (by simp [hs]) ?_
    split <;> have hs := memWf_of_see (State.xlateRanges_see_of ‹_› (by simp)) hs
    · simp [hs]
    · refine memWf_ite (by simp [hs]) ?_
      refine memWf_ite ((State.accept_keeps ..).of (memWf_ite (by simp [hs]) (by simp [hs]))) ?_
      split <;> have hs := (State.accept_keeps_of ‹_›).of (memWf_ite (by simp [hs]) (by simp [hs]))
      · exact hs
      · simp [hs]

@[simp ↓] theorem execDecode_keeps (p : Fin 8) (q : Fin 2048) (s : State) :
    Keeps s (stateOf (execDecode p q s) s) := by
  refine keeps fun hs => ?_
  rw [execDecode.eq_def, stateOf_next]
  split
  · exact hs
  · refine memWf_ite (by simp [hs]) ?_
    dsimp only
    refine memWf_ite hs ?_
    split <;> have hs := (State.accept_keeps_of ‹_›).of hs
    · exact hs
    · exact memWf_ite hs (by simp [hs])

@[simp ↓] theorem execHold_keeps (p : Fin 8) (q : Fin 2048) (s : State) : Keeps s (stateOf (execHold p q s) s) := by
  refine keeps fun hs => ?_
  rw [execHold.eq_def, stateOf_next]; dsimp only; (repeat' split) <;> simp [hs]

@[simp ↓] theorem execResume_keeps (p : Fin 8) (q : Fin 2048) (s : State) :
    Keeps s (stateOf (execResume p q s) s) := by
  refine keeps fun hs => ?_
  rw [execResume.eq_def, stateOf_next]; dsimp only; (repeat' split) <;> simp [hs]

@[simp ↓] theorem execClose_keeps (p : Fin 8) (q : Fin 2048) (s : State) : Keeps s (stateOf (execClose p q s) s) := by
  refine keeps fun hs => ?_
  rw [execClose.eq_def, stateOf_next]; dsimp only; (repeat' split) <;> simp [hs]

@[simp ↓] theorem execRuntimeStep_keeps (p : Fin 8) (durationNs : ℕ) (rolls : List RollItem)
    (results : List StepResult) (s : State) :
    Keeps s (stateOf (execRuntimeStep p durationNs rolls results s) s) := by
  refine keeps fun hs => ?_
  rw [execRuntimeStep.eq_def, stateOf_next]
  split
  · exact hs
  · refine memWf_ite hs ?_
    split
    · exact State.recoverStep_memWf ‹_› hs
    · dsimp only
      refine memWf_ite (by simp [hs]) (memWf_ite (by simp [hs]) ?_)
      refine (foldl_keeps _ (fun t d ht => by split <;> simp [ht]) _ _).of ?_
      refine memWf_of_see (State.countPart_see _ _ _ _ _ (by simp)) (memWf_of_see (State.updPair_see _ _ _ (by simp)) ?_)
      refine memWf_of_see (execTick_see _ _ _ (by simp)) ((foldl_keeps _ (fun t it ht => by simp [ht]) _ _).of ?_)
      exact memWf_ite (by simp [hs]) (by simp [hs])

@[simp ↓] theorem execPowerCapPeriod_keeps (p : Fin 8) (s : State) :
    Keeps s (stateOf (execPowerCapPeriod p s) s) := by
  refine keeps fun hs => ?_
  rw [execPowerCapPeriod.eq_def, stateOf_next]
  split
  · exact hs
  · dsimp only
    split
    · exact hs
    · refine (foldl_keeps _ (fun t i ht => ?_) _ _).of (by simp [hs])
      split <;> simp [ht]

@[simp ↓] theorem execImgApplyDone_keeps (s : State) : Keeps s (stateOf (execImgApplyDone s) s) := by
  refine keeps fun hs => ?_
  rw [execImgApplyDone.eq_def, stateOf_next]
  split
  · dsimp only
    refine memWf_ite hs ?_
    refine memWf_of_see (State.alert_see _ _ (by simp)) (memWf_of_see (State.stopTimer_see _ _ (by simp)) ?_)
    refine memWf_of_see (see_sec_boot (by simp) (by simp) _ _ _) ?_
    refine memWf_of_see (State.loseWindows_see _ (by simp)) (memWf_of_see (State.ioEvents_see _ _ _ (by simp)) ?_)
    refine (foldl_keeps _ (fun t p ht => ?_) _ _).of ?_
    · refine memWf_of_see (State.readyPart_see _ _ (by simp)) ?_
      exact memWf_ite (by simp [ht]) (by simp [ht])
    · refine (foldl_keeps _ (fun t p ht => by simp [ht]) _ _).of ?_
      refine memWf_of_parts (s := State.zeroChanged _ _ _ _) rfl rfl rfl ?_
      simp [hs]
  · exact hs

@[simp ↓] theorem execRungTimeout_keeps (p : Fin 8) (r : Rung) (s : State) :
    Keeps s (stateOf (execRungTimeout p r s) s) := by
  refine keeps fun hs => ?_
  rw [execRungTimeout.eq_def, stateOf_next]; dsimp only; (repeat' split) <;> simp [hs]

@[simp ↓] theorem execProgressTimeout_keeps (p : Fin 8) (q : Fin 2048) (s : State) :
    Keeps s (stateOf (execProgressTimeout p q s) s) := by
  refine keeps fun hs => ?_
  rw [execProgressTimeout.eq_def, stateOf_next]; dsimp only; (repeat' split) <;> simp [hs]

@[simp ↓] theorem execEngineHang_keeps (e : Eng) (unit : ℕ) (s : State) :
    Keeps s (stateOf (execEngineHang e unit s) s) := by
  refine keeps fun hs => ?_
  rw [execEngineHang.eq_def, stateOf_next]; dsimp only; (repeat' split) <;> simp [hs]

@[simp ↓] theorem execHeartbeatMiss_keeps (p : Fin 8) (s : State) : Keeps s (stateOf (execHeartbeatMiss p s) s) := by
  refine keeps fun hs => ?_
  rw [execHeartbeatMiss.eq_def, stateOf_next]; dsimp only; (repeat' split) <;> simp [hs]

@[simp ↓] theorem execThermalSample_keeps (half0 half1 ioDie : Byte) (stks : List Byte) (s : State) :
    Keeps s (stateOf (execThermalSample half0 half1 ioDie stks s) s) := by
  refine keeps fun hs => ?_
  rw [execThermalSample.eq_def, stateOf_okIf]; split <;> simp [hs]

@[simp ↓] theorem execDomainSwitchDone_keeps (s : State) : Keeps s (stateOf (execDomainSwitchDone s) s) := by
  refine keeps fun hs => ?_
  rw [execDomainSwitchDone.eq_def, stateOf_next]; dsimp only; (repeat' split) <;> simp [hs]

@[simp ↓] theorem execBypass_keeps (code : BitVec 4) (s : State) : Keeps s (stateOf (execBypass code s) s) := by
  refine keeps fun hs => ?_
  rw [execBypass.eq_def, stateOf_okIf]; split <;> simp [hs]

@[simp ↓] theorem execFunctionLevelReset_keeps (fn : Fin 9) (s : State) :
    Keeps s (stateOf (execFunctionLevelReset fn s) s) := by
  refine keeps fun hs => ?_
  rw [execFunctionLevelReset.eq_def, stateOf_next]; dsimp only; (repeat' split) <;> simp [hs]

@[simp ↓] theorem execHostRequestTimeout_keeps (k : ℕ) (s : State) :
    Keeps s (stateOf (execHostRequestTimeout k s) s) := by
  refine keeps fun hs => ?_
  rw [execHostRequestTimeout.eq_def, stateOf_next]; dsimp only; (repeat' split) <;> simp [hs]

@[simp ↓] theorem State.writeArrives_keeps (s : State) (m : Master) : Keeps s (State.writeArrives s m) := by
  refine keeps fun hs => ?_
  rw [State.writeArrives.eq_def]; (repeat' split) <;> simp [hs]

@[simp ↓] theorem execRegisterWrite_keeps (m : Master) (addr : ℕ) (v : W32) (s : State) :
    Keeps s (stateOf (execRegisterWrite m addr v s) s) := by
  refine keeps fun hs => ?_
  rw [execRegisterWrite.eq_def, stateOf_okIf]; (repeat' split) <;> simp [hs]

@[simp ↓] theorem execBar0Access_keeps (fn : Fin 9) (off : ℕ) (w : Option W32) (s : State) :
    Keeps s (stateOf (execBar0Access fn off w s) s) := by
  refine keeps fun hs => ?_
  rw [execBar0Access.eq_def, stateOf_okIf]
  (repeat' split) <;> simp [hs]

@[simp ↓] theorem execBar2Access_keeps (fn : Fin 9) (off len : ℕ) (w : Option (List Byte)) (relaxed : Bool)
    (s : State) :
    Keeps s (stateOf (execBar2Access fn off len w relaxed s) s) := by
  refine keeps fun hs => ?_
  rw [execBar2Access.eq_def, stateOf_okIf]
  (repeat' split) <;> simp [hs]

@[simp ↓] theorem execHostPostedWrite_keeps (fn : Fin 9) (k : ℕ) (s : State) :
    Keeps s (stateOf (execHostPostedWrite fn k s) s) := by
  refine keeps fun hs => ?_
  rw [execHostPostedWrite.eq_def, stateOf_next]; dsimp only; (repeat' split) <;> simp [hs]

@[simp ↓] theorem execHostAtomic_keeps (fn : Fin 9) (off : ℕ) (op : AtomOp) (bytes v : ℕ) (s : State) :
    Keeps s (stateOf (execHostAtomic fn off op bytes v s) s) := by
  refine keeps fun hs => ?_
  rw [execHostAtomic.eq_def, stateOf_okIf]; dsimp only; (repeat' split) <;> simp [hs]

@[simp ↓] theorem execAtomicAtHome_keeps (m : Master) (addr : ℕ) (op : AtomOp) (bytes v : ℕ) (s : State) :
    Keeps s (stateOf (execAtomicAtHome m addr op bytes v s) s) := by
  refine keeps fun hs => ?_
  rw [execAtomicAtHome.eq_def, stateOf_okIf]; dsimp only; (repeat' split) <;> simp [hs]

@[simp ↓] theorem execHostAtomicEmulate_keeps (k : ℕ) (readBack : Option ℕ) (casOk : Bool) (s : State) :
    Keeps s (stateOf (execHostAtomicEmulate k readBack casOk s) s) := by
  refine keeps fun hs => ?_
  rw [execHostAtomicEmulate.eq_def, stateOf_next]; dsimp only; (repeat' split) <;> simp [hs]

@[simp ↓] theorem execKeeperAccess_keeps (core : Fin 16) (op : KeeperOp) (s : State) :
    Keeps s (stateOf (execKeeperAccess core op s) s) := by
  refine keeps fun hs => ?_
  rw [execKeeperAccess.eq_def, stateOf_okIf]; dsimp only; (repeat' split) <;> simp [hs]

theorem State.auteha_memWf (s : State) (doe : Option (Fin 9)) (cmd : Nat) (tag : BitVec 16) (f : State → Answer)
    (hs : see State.memWf s = true) (hf : see State.memWf (f s).state = true) :
    see State.memWf (s.auteha doe cmd tag f) = true := by
  rw [State.auteha.eq_def]
  (repeat' split) <;> simp [hs, hf]

@[simp ↓] theorem execRegWrite_keeps (doe : Option (Fin 9)) (tag : BitVec 16) (addr : W64) (words : List W32)
    (s : State) :
    Keeps s (stateOf (execRegWrite doe tag addr words s) s) := by
  refine keeps fun hs => ?_
  rw [execRegWrite.eq_def, stateOf_next]
  refine State.auteha_memWf _ _ _ _ _ hs ?_
  dsimp only
  split
  · exact (foldl_keeps _ (fun t x ht => by simp [ht]) _ _).of hs
  · exact hs

@[simp ↓] theorem execImgChunk_keeps (doe : Option (Fin 9)) (tag : BitVec 16) (off : W32) (data : List Byte)
    (s : State) :
    Keeps s (stateOf (execImgChunk doe tag off data s) s) := by
  refine keeps fun hs => ?_
  rw [execImgChunk.eq_def, stateOf_next]
  refine State.auteha_memWf _ _ _ _ _ hs ?_
  split
  · exact hs
  · exact State.imgOwned_memWf _ _ _ hs (by simp [hs])

@[simp ↓] theorem execReset_keeps (doe : Option (Fin 9)) (tag : BitVec 16) (level : ResetLevel) (s : State) :
    Keeps s (stateOf (execReset doe tag level s) s) := by
  refine keeps fun hs => ?_
  rw [execReset.eq_def, stateOf_next]
  dsimp only
  split
  · refine State.auteha_memWf _ _ _ _ _ hs ?_
    (repeat' split) <;> simp [hs]
  · refine State.auteha_memWf _ _ _ _ _ hs ?_
    (repeat' split) <;> simp [hs]
  · split <;> simp [hs]
  · split <;> simp [hs]

@[simp ↓] theorem execFirmwareData_keeps (off : ℕ) (data : List Byte) (last : Bool) (s : State) :
    Keeps s (stateOf (execFirmwareData off data last s) s) := by
  refine keeps fun hs => ?_
  rw [execFirmwareData.eq_def, stateOf_next]
  dsimp only
  split
  · exact hs
  · have hf := fun got => memWf_flash (s := s) (t := { s with
      flash := flashPut s.flash (compBase s.mgt.fwComp.toNat (!s.activeB s.mgt.fwComp.toNat) + off) data
      mgt := { s.mgt with fwGot := got } }) _ _ rfl rfl rfl hs
    split
    · exact (State.fwEnd_keeps ..).of (hf _)
    · exact memWf_of_see (State.emit_see _ _ (by simp)) (hf _)

@[simp ↓] theorem execCommandBegin_keeps (p : Fin 8) (q : Fin 2048) (i : Fin 32) (s : State) :
    Keeps s (stateOf (execCommandBegin p q i s) s) := by
  refine keeps fun hs => ?_
  rw [execCommandBegin.eq_def, stateOf_next]; dsimp only; (repeat' split) <;> simp [hs]

/-! ## The step -/

theorem exec_eq_okIf (c : Instr) (s : State) : ∃ t, exec c s = okIf c.wf t := by
  cases c <;> exact ⟨_, rfl⟩

theorem exec_next_of_wf {c : Instr} (s : State) (hc : c.wf = true) : ∃ t, exec c s = .next t := by
  obtain ⟨t, ht⟩ := exec_eq_okIf c s
  exact ⟨t, by rw [ht, hc]; rfl⟩

theorem exec_keeps (c : Instr) (s : State) : Keeps s (stateOf (exec c s) s) := by
  refine keeps fun hs => ?_
  cases c <;> simp [exec, hs,
    execQueueFetch, execMarkPoll, execAdd, execSub, execMul, execFma, execDiv, execSqrt, execMin, execMax, execAbs,
    execNeg, execCopy, execFill, execSel, execRcp, execRsqrt, execExp2, execExp, execLog2, execLn, execTanh,
    execSigmoid, execSilu, execSin, execCos, execCmplt, execCmple, execCmpeq, execCmpne, execRsum, execRmax, execRamax,
    execStreamIssue, execStreamDeliver, execStreamRetry, execStreamStallTimeout, execMoveUnit, execCleAllreduce,
    execCleReducescatter, execCleAllgather, execImgFetchDone, execSaveRestoreDone, execBarrierWithdraw,
    execLinkTraining, execAuxPowerLoss, execMgmtFirmwareVerified, execInput48vGood, execImgVerifyDone, execPerstAssert,
    execPerstRelease, execInputLockout, execExtest, execSamplePreload, execHighz, execClamp, execTestLogicReset]

theorem exec_pending (c : Instr) (s : State) : (stateOf (exec c s) s).pending = s.pending := by
  change see State.pending (stateOf (exec c s) s) = see State.pending s
  cases c <;> simp [exec]

theorem exec_next_memWf {c : Instr} {s t : State} (h : exec c s = .next t) (hs : s.memWf = true) : t.memWf = true := by
  have ht := (exec_keeps c s).of hs
  rwa [h] at ht

theorem exec_next_pending {c : Instr} {s t : State} (h : exec c s = .next t) : t.pending = s.pending := by
  have ht := exec_pending c s
  rwa [h] at ht

theorem State.tick_memWf (s : State) : s.tick.memWf = s.memWf := State.tick_see (π := State.memWf) s (by simp)

theorem State.tick_pending (s : State) : s.tick.pending = s.pending := State.tick_see (π := State.pending) s (by simp)

theorem step_nil {s : State} (h : s.pending = []) : step s = .next s.tick := by
  unfold step; rw [h]

theorem step_cons {s : State} {c : Instr} {rest : List Instr} (h : s.pending = c :: rest) :
    step s = exec c { s with pending := rest } := by
  unfold step; rw [h]

end Sys2Proof.Machine

open Sys2Proof Sys2Proof.Machine

/-- Settles O60: a step advances time when no command waits, and else executes the front one, which is well formed; either
keeps the memories canonical and leaves the rest of the queue. -/
theorem stepsKeepTheMemoriesCanonical : Obligations.StepsKeepTheMemoriesCanonical := by
  intro s hm hq
  cases hp : s.pending with
  | nil =>
    refine ⟨⟨_, step_nil hp⟩, fun t ht => ?_⟩
    rw [step_nil hp] at ht
    cases ht
    exact ⟨s.tick_memWf.trans hm, by rw [State.queueWf, s.tick_pending]; exact hq⟩
  | cons c rest =>
    rw [State.queueWf, hp, List.all_cons, Bool.and_eq_true] at hq
    rw [State.runs, step_cons hp]
    refine ⟨exec_next_of_wf _ hq.1, fun t ht => ⟨exec_next_memWf ht hm, ?_⟩⟩
    rw [State.queueWf, exec_next_pending ht]
    exact hq.2
end

section
/-!
Writes of registers (R5, R6, R37, R38): what a write does for each kind of master and each place of its address, and the write
of one register by the access codes of its fields. They settle O2, O58 and O1.
-/
namespace Sys2Proof.Machine
set_option Elab.async false

theorem okIf_true {w : Bool} (h : w = true) (t : State) : okIf w t = .next t := if_pos h

/-! A write of an aligned address, for each kind of master (R6, R37). -/

theorem exec_registerWrite_mgmt {addr : Nat} (v : W32) (s : State) (ha : addr % 4 = 0) :
    exec (.registerWrite .mgmt addr v) s = .next (s.ctlWrite .mgmt addr v) := by
  exact okIf_true (decide_eq_true ha) _

theorem exec_registerWrite_kp {addr : Nat} (p : Fin 8) (v : W32) (s : State) (ha : addr % 4 = 0) :
    exec (.registerWrite (.kp p) addr v) s = .next (
      if s.domOn (domKp p.val) then
        if s.ctlTakes (.kp p) addr then s.ctlWrite (.kp p) addr v else s.coreFault (2 * p.val) addr
      else s) := by
  by_cases hd : s.domOn (domKp p.val) <;> simp [exec, execRegisterWrite, okIf, ha, hd]

theorem exec_registerWrite_fn {m : Master} {fn addr : Nat} (v : W32) (s : State) (hm : masterFn m = some fn)
    (ha : addr % 4 = 0) :
    exec (.registerWrite m addr v) s = .next (
      if (s.writeArrives m).inReach fn addr then (s.writeArrives m).ctlWrite m addr v
      else if (s.writeArrives m).fnOn fn then (s.writeArrives m).barMiss else s.writeArrives m) := by
  cases m with
  | mgmt => cases hm
  | kp p => cases hm
  | pf => cases hm; exact okIf_true (decide_eq_true ha) _
  | vf k => cases hm; exact okIf_true (decide_eq_true ha) _

theorem State.writeArrives_of_masterFn_none {m : Master} (s : State) (hm : masterFn m = none) : s.writeArrives m = s := by
  rw [State.writeArrives, hm]

/-! What the register range answers at each place of an address (R6). -/

theorem State.ctlWrite_none {addr : Nat} (s : State) (m : Master) (v : W32) (h : ctlPlace addr = .none) :
    s.ctlWrite m addr v = s := by
  rw [State.ctlWrite, h]

theorem State.ctlWrite_reg {addr off : Nat} {b : BlkId} (s : State) (m : Master) (v : W32)
    (h : ctlPlace addr = .reg b off) : s.ctlWrite m addr v = s.regWrite m b off v := by
  rw [State.ctlWrite, h]

theorem State.ctlTakes_none {addr : Nat} (s : State) (m : Master) (h : ctlPlace addr = .none) :
    s.ctlTakes m addr = false := by
  rw [State.ctlTakes, h]

theorem State.ctlTakes_reg {addr off : Nat} {b : BlkId} (s : State) (m : Master) (h : ctlPlace addr = .reg b off) :
    s.ctlTakes m addr = s.writeReaches m b off := by
  rw [State.ctlTakes, h]

theorem State.inReach_none {addr : Nat} (s : State) (fn : Nat) (h : ctlPlace addr = .none) : s.inReach fn addr = false := by
  rw [State.inReach, h]

theorem State.inReach_reg {addr off : Nat} {b : BlkId} (s : State) (fn : Nat) (h : ctlPlace addr = .reg b off) :
    s.inReach fn addr = ((fn = 0 || (s.partOfFn fn).isSome && decide (s.blkPart b = s.partOfFn fn)) &&
      (!partKinds.contains b.kind || (s.cfgOf b.unit).isSome)) := by
  rw [State.inReach, h]

theorem State.regWrite_unreached {m : Master} {b : BlkId} {off : Nat} (s : State) (v : W32) (h0 : off ≠ 0)
    (h : s.writeReaches m b off = false) : s.regWrite m b off v = s := by
  simp [State.regWrite, h0, h]

/-- A write outside the registers: nothing for the management unit, a fault of its first core for a keeper pair that is on,
BAR_MISS for a function on the bus. -/
theorem registerWrite_no_register (addr : Nat) (v : W32) (s : State) (ha : addr % 4 = 0) (hp : ctlPlace addr = .none) :
    exec (.registerWrite .mgmt addr v) s = .next s ∧
    (∀ p : Fin 8, exec (.registerWrite (.kp p) addr v) s =
      .next (if s.domOn (domKp p.val) then s.coreFault (2 * p.val) addr else s)) ∧
    (∀ (m : Master) (fn : Nat), masterFn m = some fn →
      let u := s.writeArrives m
      exec (.registerWrite m addr v) s =
        .next (if u.pcx.up = true ∧ (u.func fn).present = true then u.flag .pcx 0 0x14 (bit 31) else u)) := by
  refine ⟨?_, fun p => ?_, fun m fn hm => ?_⟩
  · rw [exec_registerWrite_mgmt v s ha, s.ctlWrite_none _ v hp]
  · simp [exec_registerWrite_kp p v s ha, s.ctlTakes_none _ hp]
  · simp [exec_registerWrite_fn v s hm ha, State.inReach_none _ fn hp, State.fnOn, State.barMiss]

theorem registerWrite_kp_unreached (p : Fin 8) (addr : Nat) (v : W32) (s : State) (b : BlkId) (off : Nat)
    (ha : addr % 4 = 0) (hp : ctlPlace addr = .reg b off) (hr : s.writeReaches (.kp p) b off = false)
    (hd : s.domOn (domKp p.val) = true) :
    exec (.registerWrite (.kp p) addr v) s = .next (s.coreFault (2 * p.val) addr) := by
  simp [exec_registerWrite_kp p v s ha, hd, s.ctlTakes_reg _ hp, hr]

theorem registerWrite_unreached (m : Master) (addr : Nat) (v : W32) (s : State) (b : BlkId) (off : Nat) (ha : addr % 4 = 0)
    (hp : ctlPlace addr = .reg b off) (h0 : off ≠ 0) (hr : (s.writeArrives m).writeReaches m b off = false)
    (hm : m = .mgmt ∨ ∃ fn, masterFn m = some fn ∧ (s.writeArrives m).inReach fn addr = true) :
    exec (.registerWrite m addr v) s = .next (s.writeArrives m) := by
  have hw : (s.writeArrives m).ctlWrite m addr v = s.writeArrives m := by
    rw [State.ctlWrite_reg _ m v hp, State.regWrite_unreached _ v h0 hr]
  obtain rfl | ⟨fn, hfn, hin⟩ := hm
  · rw [s.writeArrives_of_masterFn_none rfl] at hw ⊢
    rw [exec_registerWrite_mgmt v s ha, hw]
  · rw [exec_registerWrite_fn v s hfn ha, hin, if_pos rfl, hw]

end Sys2Proof.Machine

open Sys2Proof Sys2Proof.Machine

/-- Settles O2: each master's write is the equation of `execRegisterWrite` for it, read at the place of the address. -/
theorem registerWriteOutsideChangesNothing : Obligations.RegisterWriteOutsideChangesNothing := by
  refine ⟨registerWrite_no_register, registerWrite_kp_unreached, registerWrite_unreached, fun m addr v s ha => ?_⟩
  simp [exec, execRegisterWrite, okIf, ha]

/-- Settles O58: every table of the reset state is empty, so a read gives the default, which is the table's value. -/
theorem resetHoldsTheTablesValues : Obligations.ResetHoldsTheTablesValues := by
  refine ⟨fun b off => ⟨rfl, rfl, rfl, rfl⟩, rfl, fun k => rfl, fun d => ?domOn, rfl, by decide, by decide,
    by decide, by decide, by decide, by decide, by decide, by decide⟩
  case domOn => simp [State.domOn, State.reset, Pwr.reset]
end

section
namespace Sys2Proof.Machine
set_option Elab.async false

/-! ## A write of one register

A write of one register by its access codes (R38, R39): the words a table holds after a masked write, and the state
after the write of each of the three tables. -/

/-- A word stored beside the one read is not seen, whatever value each of the two takes for its default. -/
theorem SMap.get_set_other {α : Type} [DecidableEq α] (d e : α) (m : List (Nat × α)) {k j : Nat} (v : α)
    (h : j ≠ k) :
    SMap.get d (SMap.set e m k v) j = SMap.get d m j := by
  unfold SMap.set
  split
  · rw [SMap.get_erase, if_neg h]
  · rw [SMap.get_insert, if_neg h]

/-- Table `b.kind`'s words after a write of `v` at `off`: a table's default depends on the offset. -/
theorem SMap.get_set_resetWord (k : BlkKind) (m : List (Nat × W32)) (off o : Nat) (v : W32) :
    SMap.get (resetWord k o) (SMap.set (resetWord k off) m off v) o =
      if o = off then v else SMap.get (resetWord k o) m o := by
  by_cases h : o = off
  · subst h; simp
  · rw [if_neg h, SMap.get_set_other _ _ _ _ h]

/-- A write of no bits leaves the word. -/
theorem and_not_zero (w : W32) : w &&& ~~~(0 : W32) = w := by
  rw [show ~~~(0 : W32) = BitVec.allOnes 32 from rfl, BitVec.and_allOnes]

theorem masked_none (w v : W32) : (w &&& ~~~(0 : W32)) ||| (v &&& 0) = w := by
  rw [and_not_zero, show v &&& 0 = 0#32 from BitVec.and_zero]
  exact BitVec.or_zero

/-- `t` differs from `s` at most in the registers of block `b`. -/
def OnlyBlk (b : BlkId) (s t : State) : Prop :=
  (∀ c, blkKey c ≠ blkKey b → t.blk c = s.blk c) ∧ t.except [.blocks] = s.except [.blocks]

theorem OnlyBlk.refl (b : BlkId) (s : State) : OnlyBlk b s s := ⟨fun _ _ => rfl, rfl⟩

theorem OnlyBlk.trans {b : BlkId} {s t u : State} (h : OnlyBlk b s t) (g : OnlyBlk b t u) : OnlyBlk b s u :=
  ⟨fun c hc => (g.1 c hc).trans (h.1 c hc), g.2.trans h.2⟩

theorem onlyBlk_setBlk (b : BlkId) (s : State) (r : BlockRegs) : OnlyBlk b s (s.setBlk b r) :=
  ⟨fun c hc => by simp [hc], rfl⟩

/-- The bits `mask` of the staged word of `off` take those of `v`; nothing is written where the register has none (R38). -/
def State.maskStaged (s : State) (b : BlkId) (off : Nat) (mask v : W32) : State :=
  if mask ≠ 0 then s.setStaged b.kind b.unit off ((stagedWord b.kind (s.blk b) off &&& ~~~mask) ||| (v &&& mask)) else s

def State.maskPlain (s : State) (b : BlkId) (off : Nat) (mask v : W32) : State :=
  if mask ≠ 0 then s.setPlain b.kind b.unit off ((plainWord b.kind (s.blk b) off &&& ~~~mask) ||| (v &&& mask)) else s

def State.maskClear (s : State) (b : BlkId) (off : Nat) (bits : W32) : State :=
  if bits ≠ 0 then s.unflag b.kind b.unit off bits else s

theorem State.maskStaged_onlyBlk (s : State) (b : BlkId) (off : Nat) (mask v : W32) :
    OnlyBlk b s (s.maskStaged b off mask v) := by
  unfold State.maskStaged
  split
  · exact onlyBlk_setBlk b s _
  · exact .refl b s

theorem State.maskPlain_onlyBlk (s : State) (b : BlkId) (off : Nat) (mask v : W32) :
    OnlyBlk b s (s.maskPlain b off mask v) := by
  unfold State.maskPlain
  split
  · exact onlyBlk_setBlk b s _
  · exact .refl b s

theorem State.maskClear_onlyBlk (s : State) (b : BlkId) (off : Nat) (bits : W32) :
    OnlyBlk b s (s.maskClear b off bits) := by
  unfold State.maskClear
  split
  · exact onlyBlk_setBlk b s _
  · exact .refl b s

/-- Only the staged set of the block changes. -/
theorem State.maskStaged_blk (s : State) (b : BlkId) (off : Nat) (mask v : W32) :
    (s.maskStaged b off mask v).blk b =
      { s.blk b with staged := ((s.maskStaged b off mask v).blk b).staged } := by
  unfold State.maskStaged
  split
  · simp [State.setStaged]
  · rfl

theorem State.maskPlain_blk (s : State) (b : BlkId) (off : Nat) (mask v : W32) :
    (s.maskPlain b off mask v).blk b = { s.blk b with plain := ((s.maskPlain b off mask v).blk b).plain } := by
  unfold State.maskPlain
  split
  · simp [State.setPlain]
  · rfl

theorem State.maskClear_blk (s : State) (b : BlkId) (off : Nat) (bits : W32) :
    (s.maskClear b off bits).blk b = { s.blk b with w1c := ((s.maskClear b off bits).blk b).w1c } := by
  unfold State.maskClear
  split
  · simp [State.unflag]
  · rfl

theorem State.stagedWord_maskStaged (s : State) (b : BlkId) (off o : Nat) (mask v : W32) :
    stagedWord b.kind ((s.maskStaged b off mask v).blk b) o =
      if o = off then (stagedWord b.kind (s.blk b) off &&& ~~~mask) ||| (v &&& mask) else stagedWord b.kind (s.blk b) o := by
  unfold State.maskStaged
  split
  · simp [State.setStaged, stagedWord, SMap.get_set_resetWord]
  case isFalse h =>
    obtain rfl : mask = 0 := not_not.mp h
    rw [masked_none]
    split <;> simp_all

theorem State.plainWord_maskPlain (s : State) (b : BlkId) (off o : Nat) (mask v : W32) :
    plainWord b.kind ((s.maskPlain b off mask v).blk b) o =
      if o = off then (plainWord b.kind (s.blk b) off &&& ~~~mask) ||| (v &&& mask) else plainWord b.kind (s.blk b) o := by
  unfold State.maskPlain
  split
  · simp [State.setPlain, plainWord, SMap.get_set_resetWord]
  case isFalse h =>
    obtain rfl : mask = 0 := not_not.mp h
    rw [masked_none]
    split <;> simp_all

theorem State.w1cWord_maskClear (s : State) (b : BlkId) (off o : Nat) (bits : W32) :
    w1cWord ((s.maskClear b off bits).blk b) o =
      if o = off then w1cWord (s.blk b) off &&& ~~~bits else w1cWord (s.blk b) o := by
  unfold State.maskClear
  split
  · simp [State.unflag, w1cWord]
  case isFalse h =>
    obtain rfl : bits = 0 := not_not.mp h
    rw [and_not_zero]
    split <;> simp_all

/-- The staged write of a block leaves its RW words, so the three writes of a register follow one another. -/
theorem State.plainWord_maskStaged (s : State) (b : BlkId) (off o : Nat) (mask v : W32) :
    plainWord b.kind ((s.maskStaged b off mask v).blk b) o = plainWord b.kind (s.blk b) o := by
  rw [s.maskStaged_blk]; rfl

theorem State.codeWrite_eq_masked {s : State} {b : BlkId} {off : Nat} {fs : List Field} (v : W32)
    (hfs : s.fieldsAt b off = some fs) (ht : isTal b.kind = false) :
    s.codeWrite b off v =
      ((s.maskStaged b off (accMask fs .stg) v).maskPlain b off (accMask fs .rw) v).maskClear b off
        (accMask fs .w1c &&& v) := by
  simp only [State.codeWrite, hfs, ht, State.maskClear, State.maskPlain, s.plainWord_maskStaged]
  rfl

/-- A register that is there and is written by its codes takes `v` in its staged, RW and W1C fields (R38, R39). -/
theorem State.codeWrite_words {s : State} {b : BlkId} {off : Nat} {fs : List Field} (v : W32)
    (hfs : s.fieldsAt b off = some fs) (ht : isTal b.kind = false) :
    let t := s.codeWrite b off v
    (∀ o, stagedWord b.kind (t.blk b) o =
      if o = off then (stagedWord b.kind (s.blk b) off &&& ~~~accMask fs .stg) ||| (v &&& accMask fs .stg)
      else stagedWord b.kind (s.blk b) o) ∧
    (∀ o, plainWord b.kind (t.blk b) o =
      if o = off then (plainWord b.kind (s.blk b) off &&& ~~~accMask fs .rw) ||| (v &&& accMask fs .rw)
      else plainWord b.kind (s.blk b) o) ∧
    (∀ o, w1cWord (t.blk b) o =
      if o = off then w1cWord (s.blk b) off &&& ~~~(accMask fs .w1c &&& v) else w1cWord (s.blk b) o) ∧
    (t.blk b).comm = (s.blk b).comm ∧ (t.blk b).snap = (s.blk b).snap ∧ OnlyBlk b s t := by
  intro t
  have ht : t = _ := State.codeWrite_eq_masked v hfs ht
  rw [ht]
  generalize hs₁ : s.maskStaged b off (accMask fs .stg) v = s₁
  generalize hs₂ : s₁.maskPlain b off (accMask fs .rw) v = s₂
  have h₁ : s₁.blk b = { s.blk b with staged := (s₁.blk b).staged } := hs₁ ▸ s.maskStaged_blk b off _ v
  have h₂ : s₂.blk b = { s₁.blk b with plain := (s₂.blk b).plain } := hs₂ ▸ s₁.maskPlain_blk b off _ v
  have h₃ := s₂.maskClear_blk b off (accMask fs .w1c &&& v)
  refine ⟨fun o => ?staged, fun o => ?plain, fun o => ?w1c, ?comm, ?snap, ?only⟩
  case staged =>
    rw [h₃, ← s.stagedWord_maskStaged, hs₁]
    show stagedWord b.kind (s₂.blk b) o = _
    rw [h₂]; rfl
  case plain =>
    rw [h₃]
    show plainWord b.kind (s₂.blk b) o = _
    rw [← hs₂, s₁.plainWord_maskPlain, ← hs₁, s.plainWord_maskStaged, s.plainWord_maskStaged]
  case w1c =>
    rw [s₂.w1cWord_maskClear, h₂, h₁]; rfl
  case comm => rw [h₃, h₂, h₁]
  case snap => rw [h₃, h₂, h₁]
  case only =>
    subst hs₁ hs₂
    exact ((s.maskStaged_onlyBlk b off _ v).trans (State.maskPlain_onlyBlk _ b off _ v)).trans
      (State.maskClear_onlyBlk _ b off _)

theorem State.regWrite_code {s : State} {m : Master} {b : BlkId} {off : Nat} (v : W32) (h0 : off ≠ 0)
    (hr : s.reaches m b = true) (hd : s.deniedWrite m b off = none) (hc : s.cmdWrite m b off v = none)
    (hw : s.mayWrite m b off = true) (ht : s.talMasked m b off = false) : s.regWrite m b off v = s.codeWrite b off v := by
  simp [State.regWrite, State.writeReaches, h0, hr, hd, hc, hw, ht]

/-- A block of a partition that is on has its partition in the image. -/
theorem State.cfgOf_isSome_of_blkOn {s : State} {b : BlkId} (hb : s.blkOn b = true) (hk : partKinds.contains b.kind = true) :
    (s.cfgOf b.unit).isSome = true := by
  obtain ⟨k, u⟩ := b
  cases k <;> simp_all [State.blkOn, partKinds]

/-- What a function reaches lies in its BAR (R37, R442). -/
theorem State.inReach_of_reaches {s : State} {m : Master} {fn addr : Nat} {b : BlkId} {off : Nat} (hm : masterFn m = some fn)
    (hp : ctlPlace addr = .reg b off) (hr : s.reaches m b = true) : s.inReach fn addr = true := by
  have hon : s.blkOn b = true := by
    unfold State.reaches at hr
    exact (Bool.and_eq_true _ _ ▸ hr).1
  have hcfg : (!partKinds.contains b.kind || (s.cfgOf b.unit).isSome) = true := by
    cases hk : partKinds.contains b.kind with
    | true => rw [State.cfgOf_isSome_of_blkOn hon hk, Bool.or_true]
    | false => rfl
  rw [s.inReach_reg fn hp, hcfg, Bool.and_true]
  cases m with
  | mgmt => cases hm
  | kp p => cases hm
  | pf => cases hm; rfl
  | vf k =>
    cases hm
    simp only [State.reaches, State.masterPart, Bool.and_eq_true] at hr
    obtain ⟨-, ⟨-, hsome⟩, heq⟩ := hr
    have hpart : s.blkPart b = s.partOfFn (k.val + 1) := of_decide_eq_true heq
    simp [hsome, hpart]

theorem exec_registerWrite_reaches {m : Master} {addr : Nat} {v : W32} {s₀ : State} {b : BlkId} {off : Nat}
    (ha : addr % 4 = 0) (hp : ctlPlace addr = .reg b off) (hr : (s₀.writeArrives m).reaches m b = true)
    (hon : ∀ p : Fin 8, m = .kp p → (s₀.writeArrives m).domOn (domKp p.val) = true) :
    exec (.registerWrite m addr v) s₀ = .next ((s₀.writeArrives m).regWrite m b off v) := by
  cases hm : masterFn m with
  | some fn =>
    rw [exec_registerWrite_fn v s₀ hm ha, State.inReach_of_reaches hm hp hr, if_pos rfl, State.ctlWrite_reg _ m v hp]
  | none =>
    rw [s₀.writeArrives_of_masterFn_none hm] at hr hon ⊢
    cases m with
    | pf => cases hm
    | vf k => cases hm
    | mgmt => rw [exec_registerWrite_mgmt v s₀ ha, s₀.ctlWrite_reg _ v hp]
    | kp p =>
      have htk : s₀.ctlTakes (.kp p) addr = true := by rw [s₀.ctlTakes_reg _ hp, State.writeReaches, hr, Bool.true_or]
      rw [exec_registerWrite_kp p v s₀ ha, if_pos (hon p rfl), if_pos htk, s₀.ctlWrite_reg _ v hp]

end Sys2Proof.Machine

open Sys2Proof Sys2Proof.Machine

/-- Settles O1: the write arrives at its register, which is written by its access codes, one table after the other. -/
theorem registerWriteChangesStagedValues : Obligations.RegisterWriteChangesStagedValues := by
  intro m addr v s₀ b off fs s ha hp h0 hr hd hc hw htm hfs hh ht hon
  refine ⟨s.regWrite m b off v, exec_registerWrite_reaches ha hp hr hon, ?_⟩
  have hfa : s.fieldsAt b off = some fs := by rw [State.fieldsAt, hh, if_pos rfl, hfs]
  obtain ⟨hstg, hrw, hw1c, hcomm, hsnap, honly, hexc⟩ := State.codeWrite_words v hfa ht
  rw [State.regWrite_code v h0 hr hd hc hw htm]
  exact ⟨hstg, hrw, hw1c, hcomm, hsnap, honly, hexc⟩
end

section
/-!
The requests of session queues (R377, R378, R385): the outcome word, what the operations of a record leave of the keeper
pairs, and one equation for each request in each of its cases. It settles O48.
-/
namespace Sys2Proof.Machine
set_option Elab.async false

/-! ## The outcome of a session record (R377) -/

@[simp] theorem State.pair_updPair (s : State) (k j : Nat) (f : Pair → Pair) :
    (s.updPair k f).pair j = if j = k then f (s.pair k) else s.pair j := s.pair_setPair k j _

theorem State.halted_haltAt (s : State) (p q i : Nat) : ((s.haltAt p q i).q p q).halted = true := by
  simp [State.haltAt, State.q, State.setQ, State.que, State.setQue, State.stopTimer, State.devQue]

/-- The record is handed back: it is what the runtime does first when it answers (R377). -/
def State.untake (s : State) (k : Nat) (r : CmdRef) : State :=
  s.updPair k (fun x => { x with taken := x.taken.erase r, working := none })

theorem State.accept_of_stored {s u : State} {p q k : Nat} {r : CmdRef} {c : Cmd} {code value : Nat} {a : Option HostWr}
    (h : (s.untake k r).storeVa (tlbPart p) p ((s.untake k r).qCtx p q) (srRes c) (leBytes 8 (value * 2 ^ 32 + code)) =
      (.ok a, u)) :
    s.accept p q k r c code value = (true, ((u.noteCore (2 * k) a).noteHost r.q a).completeCmd r) := by
  rw [State.untake] at h
  simp only [State.accept, h]

theorem State.accept_of_unstored {s u : State} {p q k : Nat} {r : CmdRef} {c : Cmd} {code value : Nat} {b : Bad}
    (h : (s.untake k r).storeVa (tlbPart p) p ((s.untake k r).qCtx p q) (srRes c) (leBytes 8 (value * 2 ^ 32 + code)) =
      (.error b, u)) :
    (s.accept p q k r c code value).1 = false ∧ ((s.accept p q k r c code value).2.q p q).halted = true := by
  rw [State.untake] at h
  simp only [State.accept, h, true_and]
  exact State.halted_haltAt _ p q _

/-! ## What the operations of a record leave of the pairs -/

theorem State.pair_of_pairs {s t : State} (h : t.pairs = s.pairs) (k : Nat) : t.pair k = s.pair k := by
  rw [State.pair, State.pair, h]

theorem State.storeVa_pairs (s : State) (key p lc va : Nat) (bs : List Byte) :
    (s.storeVa key p lc va bs).2.pairs = s.pairs :=
  s.storeVa_see (π := State.pairs) key p lc va bs (by simp)

theorem State.rtSet_pairs (s : State) (p k : Fin 8) (h : W32) (word : Nat → Nat) : (s.rtSet p k h word).pairs = s.pairs :=
  s.rtSet_see (π := State.pairs) p k h word (by simp)

theorem exec_sesCmdSpill_pairs (m : Master) (p : Fin 8) (s : State) :
    (stateOf (exec (.sesCmdSpill m p) s) s).pairs = s.pairs :=
  execSesCmdSpill_see (π := State.pairs) m p s (by simp)

theorem State.refused_pairs (s : State) (p q i : Nat) (f : FaultRec) : ((s.raise p f).haltAt p q i).pairs = s.pairs := by
  change see State.pairs _ = see State.pairs _
  simp

theorem State.completed_pairs (s : State) (d : Nat) (w : Option HostWr) (r : CmdRef) :
    ((s.noteHost d w).completeCmd r).pairs = s.pairs := by
  change see State.pairs _ = see State.pairs _
  simp

/-- Two states hold the same sessions. -/
def SameHeld (s t : State) : Prop := ∀ j, (t.pair j).held = (s.pair j).held

theorem SameHeld.trans {s t u : State} (h : SameHeld s t) (g : SameHeld t u) : SameHeld s u :=
  fun j => (g j).trans (h j)

theorem sameHeld_of_pairs {s t : State} (h : t.pairs = s.pairs) : SameHeld s t :=
  fun j => by rw [State.pair_of_pairs h]

theorem sameHeld_updPair (s : State) (k : Nat) (f : Pair → Pair) (h : (f (s.pair k)).held = (s.pair k).held) :
    SameHeld s (s.updPair k f) := by
  intro j
  rw [State.pair_updPair]
  split
  · next hj => rw [h, hj]
  · rfl

theorem sameHeld_noteCore (s : State) (core : Nat) (w : Option HostWr) : SameHeld s (s.noteCore core w) := by
  cases w with
  | none => exact fun _ => rfl
  | some w => exact sameHeld_updPair s _ _ rfl

/-- An outcome holds and releases no session. -/
theorem sameHeld_accept (s : State) (p q k : Nat) (r : CmdRef) (c : Cmd) (code value : Nat) :
    SameHeld s (s.accept p q k r c code value).2 := by
  have htaken : SameHeld s (s.untake k r) := sameHeld_updPair s k _ rfl
  refine htaken.trans ?_
  rw [State.accept, ← State.untake]
  generalize s.untake k r = v
  have hstore := v.storeVa_pairs (tlbPart p) p (v.qCtx p q) (srRes c) (leBytes 8 (value * 2 ^ 32 + code))
  revert hstore
  rcases v.storeVa (tlbPart p) p (v.qCtx p q) (srRes c) (leBytes 8 (value * 2 ^ 32 + code)) with ⟨b | w, u⟩ <;>
    intro hstore
  · exact sameHeld_of_pairs ((u.refused_pairs p q _ _).trans hstore)
  · exact (sameHeld_of_pairs hstore).trans
      ((sameHeld_noteCore u _ w).trans (sameHeld_of_pairs (State.completed_pairs _ _ _ _)))

/-! ## What the requests read of a record -/

/-- The PREFILL of a record that asks for no block to be attached. -/
def prefillReq (s : State) (p q : Nat) (c : Cmd) : PrefillReq :=
  { lc := s.qCtx p q, session := srHandle c, tokens := srParam c, done := 0, hashAddr := bitsOf (c.extWord 0 1) 47 0
    publish := decide (bitsOf (c.extWord 0 2) 32 32 = 1), doneMark := BitVec.ofNat 64 (c.extWord 0 3) }

theorem State.result_sesResult (s : State) (p : Nat) (b : Byte) : ((s.sesResult p b).ses p).result = b := by
  simp [State.sesResult]

theorem State.sesArg_setSesArg_zero (s : State) (p i : Nat) (b : Byte) :
    ((s.setSesArg p i 0).sesResult p b).sesArg p i = 0 := by
  simp [State.sesArg, State.setSesArg, State.rw, State.setPlain, plainWord, State.sesResult, State.blk, State.setSes,
    State.setBlk, bitsOf]

theorem any_session_eq {ds : List DecodeReq} {h : W32} (hd : ∀ d ∈ ds, d.session ≠ h) :
    ds.any (fun d => decide (d.session = h)) = false := by simpa using hd

/-- A field of a DECODE out of its range (R378). -/
def decodeBad (c : Cmd) : Prop :=
  bitsOf (c.word 6) 47 32 = 0 ∨ bitsOf (c.extWord 0 1) 31 0 < 1000 ∨
    badTemp (BitVec.ofNat 32 (bitsOf (c.extWord 0 4) 31 0)) = true ∨ 64 < bitsOf (c.extWord 0 4) 47 32 ∨
    bitsOf (c.extWord 0 0) 47 0 % 8 ≠ 0

/-- The DECODE of a record, as it enters the live set. -/
def decodeReq (s : State) (p q : Nat) (x : Pair) (r : CmdRef) (c : Cmd) : DecodeReq :=
  { ref := r, lc := s.qCtx p q, session := srHandle c, resAddr := srRes c, maxTok := bitsOf (c.word 6) 47 32
    outAddr := bitsOf (c.extWord 0 0) 47 0, deadline := bitsOf (c.extWord 0 1) 31 0
    prog := BitVec.ofNat 64 (c.extWord 0 2), stop0 := BitVec.ofNat 32 (bitsOf (c.extWord 0 3) 63 32)
    stop1 := BitVec.ofNat 32 (bitsOf (c.extWord 0 3) 31 0), temp := BitVec.ofNat 32 (bitsOf (c.extWord 0 4) 31 0)
    topK := bitsOf (c.extWord 0 4) 47 32, k := 0, pos := x.len (srHandle c), left := bitsOf (c.extWord 0 1) 31 0, missed := 0
    redo := false, failedAt := none }

/-- The state once a HOLD has its outcome: the DECODE cut, the session held, its policy set (R378, R385). -/
def State.holdDone (s : State) (p : Fin 8) (q k : Nat) (r : CmdRef) (c : Cmd) : State :=
  ((((s.endDecode p.val k (srHandle c)).updPair k (fun y =>
    { y with held := y.held.filter (fun z => decide (z ≠ srHandle c)) ++ [srHandle c] })).rtSet p (pairFin k) (srHandle c)
    ((s.endDecode p.val k (srHandle c)).heldWord p.val k (srHandle c))).accept p.val q k r c 0 0).2

theorem State.mem_held_holdDone (s : State) (p : Fin 8) (q k : Nat) (r : CmdRef) (c : Cmd) :
    srHandle c ∈ ((s.holdDone p q k r c).pair k).held := by
  rw [State.holdDone, ((sameHeld_of_pairs (State.rtSet_pairs _ _ _ _ _)).trans (sameHeld_accept _ _ _ _ _ _ _ _)) k,
    State.pair_updPair, if_pos rfl]
  exact List.mem_append_right _ (List.mem_singleton_self _)

/-! ## The requests, each over a record that the runtime handles -/

section
variable {p : Fin 8} {q : Fin 2048} {s : State} {k : Nat} {r : CmdRef} {c : Cmd}

theorem sessionOutcome_not_live {x : Pair} {serves : Bool} (hl : s.liveSes p.val (srHandle c) = false) :
    s.sessionOutcome p.val x (srHandle c) serves = 1 := by
  simp [State.sessionOutcome, hl]

/-- The six session requests with their opcodes (R378). -/
def sessionRequests (p : Fin 8) (q : Fin 2048) : List (Instr × Nat) :=
  [(.openSession p q, 1), (.prefill p q, 2), (.decode p q, 3), (.hold p q, 4), (.resume p q, 5), (.close p q, 6)]

theorem request_no_record (op : Nat) : ∀ i ∈ sessionRequests p q, i.2 = op → s.rtRecord p.val q.val op = none →
    exec i.1 s = .next s := by
  simp only [sessionRequests, List.forall_mem_cons, List.not_mem_nil, false_imp_iff, implies_true, and_true]
  refine ⟨?_, ?_, ?_, ?_, ?_, ?_⟩ <;> rintro rfl hr
  · simp only [exec, execOpenSession, hr]
  · simp only [exec, execPrefill, hr]
  · simp only [exec, execDecode, hr]
  · simp only [exec, execHold, hr]
  · simp only [exec, execResume, hr]
  · simp only [exec, execClose, hr]

theorem request_bad (hb : s.srBad p.val q.val c = true) : ∀ i ∈ sessionRequests p q,
    s.rtRecord p.val q.val i.2 = some (k, r, c) → exec i.1 s = .next (s.accept p.val q.val k r c 6 0).2 := by
  simp only [sessionRequests, List.forall_mem_cons, List.not_mem_nil, false_imp_iff, implies_true, and_true]
  refine ⟨?_, ?_, ?_, ?_, ?_, ?_⟩ <;> intro hr
  · simp only [exec, execOpenSession, hr, hb, if_true]
  · simp only [exec, execPrefill, hr, hb, if_true]
  · simp only [exec, execDecode, hr, hb, if_true]
  · simp only [exec, execHold, hr, hb, if_true]
  · simp only [exec, execResume, hr, hb, if_true]
  · simp only [exec, execClose, hr, hb, if_true]

variable (hb : s.srBad p.val q.val c = false)
include hb

/-! PREFILL -/

theorem exec_prefill_count (hr : s.rtRecord p.val q.val 2 = some (k, r, c)) (hn : srParam c = 0 ∨ 2 ^ 24 ≤ srParam c) :
    exec (.prefill p q) s = .next (s.accept p.val q.val k r c 6 0).2 := by
  simp only [exec, execPrefill, hr, hb, if_pos hn]
  rfl

theorem exec_prefill_not_live (hr : s.rtRecord p.val q.val 2 = some (k, r, c)) (h0 : 0 < srParam c)
    (h1 : srParam c < 2 ^ 24) (hl : s.liveSes p.val (srHandle c) = false) :
    exec (.prefill p q) s = .next (s.accept p.val q.val k r c 1 0).2 := by
  have hn : ¬ (srParam c = 0 ∨ 2 ^ 24 ≤ srParam c) := by omega
  simp only [exec, execPrefill, hr, hb, if_neg hn, sessionOutcome_not_live hl]
  rfl

theorem exec_prefill_untranslated {u : State} {b : Bad} (hr : s.rtRecord p.val q.val 2 = some (k, r, c))
    (h0 : 0 < srParam c) (h1 : srParam c < 2 ^ 24) (ho : s.sessionOutcome p.val (s.pair k) (srHandle c) true = 0)
    (hx : s.xlateRanges (tlbPart p.val) p.val (s.qCtx p.val q.val)
      [⟨bitsOf (c.extWord 0 0) 47 0, 4 * srParam c, false⟩] [] = (.error b, u)) :
    exec (.prefill p q) s = .next (u.accept p.val q.val k r c 5 0).2 := by
  have hn : ¬ (srParam c = 0 ∨ 2 ^ 24 ≤ srParam c) := by omega
  simp only [exec, execPrefill, hr, hb, if_neg hn, ho, hx]
  rfl

theorem exec_prefill_unread {u v : State} {held : List PageMap} (hr : s.rtRecord p.val q.val 2 = some (k, r, c))
    (h0 : 0 < srParam c) (h1 : srParam c < 2 ^ 24) (ho : s.sessionOutcome p.val (s.pair k) (srHandle c) true = 0)
    (hx : s.xlateRanges (tlbPart p.val) p.val (s.qCtx p.val q.val)
      [⟨bitsOf (c.extWord 0 0) 47 0, 4 * srParam c, false⟩] [] = (.ok held, u))
    (ht : u.tokensRead p.val held (bitsOf (c.extWord 0 0) 47 0) (4 * srParam c) = (false, v)) :
    exec (.prefill p q) s = .next (v.accept p.val q.val k r c 5 0).2 := by
  have hn : ¬ (srParam c = 0 ∨ 2 ^ 24 ≤ srParam c) := by omega
  simp only [exec, execPrefill, hr, hb, if_neg hn, ho, hx, ht]
  rfl

theorem exec_prefill_accepted {u v w : State} {held : List PageMap} (hr : s.rtRecord p.val q.val 2 = some (k, r, c))
    (h0 : 0 < srParam c) (h1 : srParam c < 2 ^ 24) (ho : s.sessionOutcome p.val (s.pair k) (srHandle c) true = 0)
    (hbl : bitsOf (c.extWord 0 2) 31 0 = 0)
    (hx : s.xlateRanges (tlbPart p.val) p.val (s.qCtx p.val q.val)
      [⟨bitsOf (c.extWord 0 0) 47 0, 4 * srParam c, false⟩] [] = (.ok held, u))
    (ht : u.tokensRead p.val held (bitsOf (c.extWord 0 0) 47 0) (4 * srParam c) = (true, v))
    (ha : ((v.setSesArg p.val 4 0).sesResult p.val 0x00).accept p.val q.val k r c 0 0 = (true, w)) :
    exec (.prefill p q) s = .next (w.updPair k (fun x => { (x.setLen (srHandle c) (x.len (srHandle c) + 0)) with
      prefills := x.prefills ++ [prefillReq s p.val q.val c] })) := by
  have hn : ¬ (srParam c = 0 ∨ 2 ^ 24 ≤ srParam c) := by omega
  have hout : outcomeOf 0 = 0 := rfl
  simp only [exec, execPrefill, hr, hb, if_neg hn, ho, hx, ht, hbl, if_true, State.result_sesResult,
    State.sesArg_setSesArg_zero, hout, ha]
  simp [prefillReq]

/-! DECODE -/

theorem exec_decode_running (hr : s.rtRecord p.val q.val 3 = some (k, r, c))
    (hd : ∃ d ∈ (s.pair k).decodes, d.session = srHandle c) : exec (.decode p q) s = .next s := by
  have hany : (s.pair k).decodes.any (fun d => decide (d.session = srHandle c)) = true := by simpa using hd
  simp only [exec, execDecode, hr, hb, hany, if_true]
  rfl

theorem exec_decode_bad (hr : s.rtRecord p.val q.val 3 = some (k, r, c))
    (hd : ∀ d ∈ (s.pair k).decodes, d.session ≠ srHandle c) (hf : decodeBad c) :
    exec (.decode p q) s = .next (s.accept p.val q.val k r c 6 0).2 := by
  unfold decodeBad at hf
  simp only [exec, execDecode, hr, hb, any_session_eq hd, if_pos hf]
  rcases s.accept p.val q.val k r c 6 0 with ⟨_ | _, t⟩ <;> rfl

theorem exec_decode_not_live (hr : s.rtRecord p.val q.val 3 = some (k, r, c))
    (hd : ∀ d ∈ (s.pair k).decodes, d.session ≠ srHandle c) (hf : ¬ decodeBad c)
    (hl : s.liveSes p.val (srHandle c) = false) :
    exec (.decode p q) s = .next (s.accept p.val q.val k r c 1 0).2 := by
  unfold decodeBad at hf
  simp only [exec, execDecode, hr, hb, any_session_eq hd, if_neg hf, sessionOutcome_not_live hl]
  rcases s.accept p.val q.val k r c 1 0 with ⟨_ | _, t⟩ <;> rfl

theorem exec_decode_accepted {w : State} (hr : s.rtRecord p.val q.val 3 = some (k, r, c))
    (hd : ∀ d ∈ (s.pair k).decodes, d.session ≠ srHandle c) (hf : ¬ decodeBad c)
    (ho : s.sessionOutcome p.val (s.pair k) (srHandle c) true = 0) (ha : s.accept p.val q.val k r c 0 0 = (true, w)) :
    ∃ word, exec (.decode p q) s = .next ((w.updPair k (fun x =>
      { x with decodes := x.decodes ++ [decodeReq s p.val q.val (s.pair k) r c] })).rtSet p (pairFin k) (srHandle c)
      word) := by
  unfold decodeBad at hf
  simp only [exec, execDecode, hr, hb, any_session_eq hd, if_neg hf, ho, ha]
  exact ⟨_, rfl⟩

/-! OPEN, HOLD, RESUME, CLOSE -/

theorem exec_openSession_served (hr : s.rtRecord p.val q.val 1 = some (k, r, c)) :
    let x := s.pair k
    let n := (s.frameStacks p.val).length
    let place := if n = 0 then 0 else x.opens % n
    let t := (s.setPair k { x with opens := x.opens + 1 }).setSesArg p.val 1
      (srParam c - bitsOf (srParam c) 20 17 * 2 ^ 17 + place * 2 ^ 17)
    let u := stateOf (exec (.sesCmdOpen (.kp (pairFin k)) p) t) t
    exec (.openSession p q) s = .next (u.accept p.val q.val k r c (outcomeOf (u.ses p.val).result)
      (if outcomeOf (u.ses p.val).result = 0 then u.sesArg p.val 0 else 0)).2 := by
  simp only [exec, execOpenSession, hr, hb]
  rfl

theorem exec_hold_not_live (hr : s.rtRecord p.val q.val 4 = some (k, r, c))
    (hl : s.liveSes p.val (srHandle c) = false) :
    exec (.hold p q) s = .next (s.accept p.val q.val k r c 1 0).2 := by
  simp only [exec, execHold, hr, hb, hl]
  rfl

/-- A HOLD asks for a SPILL by its record or by the runtime's register (R378, R385). -/
theorem exec_hold_live (hr : s.rtRecord p.val q.val 4 = some (k, r, c)) (hl : s.liveSes p.val (srHandle c) = true) :
    let u := s.holdDone p q.val k r c
    let v := u.setSesArg p.val 0 (srHandle c).toNat
    exec (.hold p q) s = .next (
      if srParam c % 2 = 1 ∨ u.cfg .kpr k 0x10 29 29 = 1 then stateOf (exec (.sesCmdSpill (.kp (pairFin k)) p) v) v
      else u) := by
  simp only [exec, execHold, hr, hb, hl]
  rfl

theorem exec_hold_holds (hr : s.rtRecord p.val q.val 4 = some (k, r, c)) (hl : s.liveSes p.val (srHandle c) = true) :
    Does (.hold p q) s (fun t => srHandle c ∈ (t.pair k).held) := by
  have hheld := s.mem_held_holdDone p q.val k r c
  refine ⟨_, exec_hold_live hb hr hl, ?_⟩
  split
  · rw [sameHeld_of_pairs (exec_sesCmdSpill_pairs (.kp (pairFin k)) p _) k]
    exact hheld
  · exact hheld

theorem exec_resume_not_live (hr : s.rtRecord p.val q.val 5 = some (k, r, c))
    (hl : s.liveSes p.val (srHandle c) = false) :
    exec (.resume p q) s = .next (s.accept p.val q.val k r c 1 0).2 := by
  simp only [exec, execResume, hr, hb, hl]
  rfl

theorem exec_resume_not_held (hr : s.rtRecord p.val q.val 5 = some (k, r, c))
    (hl : s.liveSes p.val (srHandle c) = true) (hh : srHandle c ∉ (s.pair k).held) :
    exec (.resume p q) s = .next (s.accept p.val q.val k r c 2 0).2 := by
  have hc : (s.pair k).held.contains (srHandle c) = false := by simpa using hh
  simp only [exec, execResume, hr, hb, hl, hc]
  rfl

theorem exec_resume_starts (hr : s.rtRecord p.val q.val 5 = some (k, r, c))
    (hl : s.liveSes p.val (srHandle c) = true) (hh : srHandle c ∈ (s.pair k).held) (hw : (s.pair k).working ≠ some r) :
    let v := s.setSesArg p.val 0 (srHandle c).toNat
    exec (.resume p q) s = .next ((stateOf (exec (.sesCmdFetch (.kp (pairFin k)) p) v) v).updPair k
      (fun y => { y with working := some r })) := by
  have hc : (s.pair k).held.contains (srHandle c) = true := by simpa using hh
  simp only [exec, execResume, hr, hb, hl, hc, State.twoPhase, if_neg hw]
  rfl

theorem exec_resume_done (hr : s.rtRecord p.val q.val 5 = some (k, r, c))
    (hl : s.liveSes p.val (srHandle c) = true) (hh : srHandle c ∈ (s.pair k).held) (hw : (s.pair k).working = some r)
    (ho : outcomeOf (s.ses p.val).result = 0) :
    exec (.resume p q) s = .next (((s.updPair k (fun y =>
      { y with held := y.held.filter (fun z => decide (z ≠ srHandle c)) })).rtSet p (pairFin k) (srHandle c)
      (s.activeWord k)).accept p.val q.val k r c 0 0).2 := by
  have hc : (s.pair k).held.contains (srHandle c) = true := by simpa using hh
  simp only [exec, execResume, hr, hb, hl, hc, State.twoPhase, hw, if_true, ho]
  rfl

theorem exec_resume_failed (hr : s.rtRecord p.val q.val 5 = some (k, r, c))
    (hl : s.liveSes p.val (srHandle c) = true) (hh : srHandle c ∈ (s.pair k).held) (hw : (s.pair k).working = some r)
    (ho : outcomeOf (s.ses p.val).result ≠ 0) :
    exec (.resume p q) s = .next (s.accept p.val q.val k r c (outcomeOf (s.ses p.val).result) 0).2 := by
  have hc : (s.pair k).held.contains (srHandle c) = true := by simpa using hh
  simp only [exec, execResume, hr, hb, hl, hc, State.twoPhase, hw, if_true, if_pos ho]
  rfl

theorem exec_close_done (hr : s.rtRecord p.val q.val 6 = some (k, r, c)) (hw : (s.pair k).working = some r) :
    exec (.close p q) s = .next (s.accept p.val q.val k r c (outcomeOf (s.ses p.val).result) 0).2 := by
  simp only [exec, execClose, hr, hb, if_pos hw]
  rfl

theorem exec_close_not_live (hr : s.rtRecord p.val q.val 6 = some (k, r, c)) (hw : (s.pair k).working ≠ some r)
    (hl : s.liveSes p.val (srHandle c) = false) :
    exec (.close p q) s = .next (s.accept p.val q.val k r c 1 0).2 := by
  simp only [exec, execClose, hr, hb, if_neg hw, hl]
  rfl

theorem exec_close_starts (hr : s.rtRecord p.val q.val 6 = some (k, r, c)) (hw : (s.pair k).working ≠ some r)
    (hl : s.liveSes p.val (srHandle c) = true) :
    let v := ((s.endDecode p.val k (srHandle c)).updPair k (fun y =>
      { (y.setLen (srHandle c) 0) with
        held := y.held.filter (fun z => decide (z ≠ srHandle c))
        prefills := y.prefills.filter (fun z => decide (z.session ≠ srHandle c)), working := some r })).setSesArg p.val 0
      (srHandle c).toNat
    exec (.close p q) s = .next (stateOf (exec (.sesCmdClose (.kp (pairFin k)) p) v) v) := by
  simp only [exec, execClose, hr, hb, if_neg hw, hl]
  rfl

end

end Sys2Proof.Machine

open Sys2Proof Sys2Proof.Machine

/-- Settles O48: each clause is the equation of its request for a record in that case. -/
theorem runtimeAcceptsSessionRequests : Obligations.RuntimeAcceptsSessionRequests := by
  refine ⟨fun s p q k r c code value => ⟨fun a u h => State.accept_of_stored h, fun b u h => State.accept_of_unstored h⟩,
    fun p q s op => request_no_record op,
    fun p q s k r c => ⟨request_bad, fun hb => ⟨fun hr => exec_openSession_served hb hr,
      fun hr => ?prefill, fun hr => ?decode, fun hr => ?hold, fun hr => ?resume, fun hr => ?close⟩⟩⟩
  case prefill =>
    refine ⟨exec_prefill_count hb hr, exec_prefill_not_live hb hr,
      fun u b h0 h1 ho hx => exec_prefill_untranslated hb hr h0 h1 ho hx,
      fun u held v h0 h1 ho hx ht => exec_prefill_unread hb hr h0 h1 ho hx ht,
      fun u held v w h0 h1 ho hbl hx ht ha => ?_⟩
    refine ⟨_, exec_prefill_accepted hb hr h0 h1 ho hbl hx ht ha, ?_, rfl⟩
    rw [State.pair_updPair, if_pos rfl]
    rfl
  case decode =>
    refine ⟨exec_decode_running hb hr, exec_decode_bad hb hr, exec_decode_not_live hb hr, fun w hd hf ho ha => ?_⟩
    obtain ⟨word, hx⟩ := exec_decode_accepted hb hr hd hf ho ha
    refine ⟨_, hx, ?_⟩
    exact (congrArg Pair.decodes ((State.pair_of_pairs (State.rtSet_pairs _ _ _ _ _) k).trans
      ((State.pair_updPair _ _ _ _).trans (if_pos rfl))))
  case hold =>
    refine ⟨exec_hold_not_live hb hr, fun hl h0 h29 => ?_, fun hl h => ?_, exec_hold_holds hb hr⟩
    · have hcfg : (s.holdDone p q.val k r c).cfg .kpr k 0x10 29 29 = 0 := h29
      exact (exec_hold_live hb hr hl).trans (congrArg _ (if_neg (by omega)))
    · exact (exec_hold_live hb hr hl).trans (congrArg _ (if_pos h))
  case resume =>
    exact ⟨exec_resume_not_live hb hr, exec_resume_not_held hb hr, exec_resume_starts hb hr, exec_resume_done hb hr,
      exec_resume_failed hb hr⟩
  case close => exact ⟨exec_close_done hb hr, exec_close_not_live hb hr, exec_close_starts hb hr⟩
end

section
namespace Sys2Proof.Machine

/-! ## The frequency switch (R30) -/

theorem State.tile_of_tiles {s t : State} (h : t.tiles = s.tiles) (k : Nat) : t.tile k = s.tile k := by
  rw [State.tile, State.tile, h]

theorem State.ledgerTile_tiles (s : State) (t : Nat) (w : Who) (typ src a b : Nat) :
    (s.ledgerTile t w typ src a b).tiles = s.tiles :=
  State.ledgerTile_see (π := State.tiles) s t w typ src a b (by simp)

theorem State.ledgerTile_pairs (s : State) (t : Nat) (w : Who) (typ src a b : Nat) :
    (s.ledgerTile t w typ src a b).pairs = s.pairs :=
  State.ledgerTile_see (π := State.pairs) s t w typ src a b (by simp)

theorem State.ledgerPart_tiles (s : State) (p : Nat) (w : Who) (typ src a b : Nat) :
    (s.ledgerPart p w typ src a b).tiles = s.tiles :=
  State.ledgerPart_see (π := State.tiles) s p w typ src a b (by simp)

theorem State.ledgerPart_pairs (s : State) (p : Nat) (w : Who) (typ src a b : Nat) :
    (s.ledgerPart p w typ src a b).pairs = s.pairs :=
  State.ledgerPart_see (π := State.pairs) s p w typ src a b (by simp)

/-- The end of a tile's switch: the frequency is done in the tile's own record and no other record of a tile or pair
changes. -/
theorem freqSwitchDone_tile {t : Fin 48} {s : State} (h : (s.tile t.val).freq.switching = true) :
    Does (.freqSwitchDone (.tile t)) s (fun u =>
      u.tiles = (s.setTile t.val { s.tile t.val with freq := (s.tile t.val).freq.done }).tiles ∧ u.pairs = s.pairs) := by
  refine ⟨_, congrArg Host.Outcome.next (if_pos h), State.ledgerTile_tiles .., ?_⟩
  exact (State.ledgerTile_pairs ..).trans (by simp)

theorem freqSwitchDone_pair {p : Fin 8} {s : State} (h : (s.pair p.val).freq.switching = true) :
    Does (.freqSwitchDone (.pair p)) s (fun u =>
      u.pairs = (s.setPair p.val { s.pair p.val with freq := (s.pair p.val).freq.done }).pairs ∧ u.tiles = s.tiles) := by
  refine ⟨_, congrArg Host.Outcome.next (if_pos h), ?_⟩
  dsimp only
  split
  · exact ⟨State.ledgerPart_pairs .., (State.ledgerPart_tiles ..).trans (by simp)⟩
  · exact ⟨rfl, by simp⟩

end Sys2Proof.Machine

open Sys2Proof Sys2Proof.Machine

/-- Settles O6: the record written at the end of the switch does not touch what the switch set. -/
theorem frequencySwitchReachesTheTarget : Obligations.FrequencySwitchReachesTheTarget := by
  refine ⟨fun t s h => ?_, fun p s h => ?_⟩
  · obtain ⟨u, hu, ht, hp⟩ := freqSwitchDone_tile h
    have htile := fun k => (State.tile_of_tiles ht k).trans (State.tile_setTile ..)
    refine ⟨u, hu, ?_, ?_, fun k hk => (htile k).trans (if_neg hk), hp⟩
    · rw [htile, if_pos rfl, Freq.done]
    · rw [State.period, htile, if_pos rfl, Freq.done]
  · obtain ⟨u, hu, hp, ht⟩ := freqSwitchDone_pair h
    have hpair := fun k => (State.pair_of_pairs hp k).trans (State.pair_setPair ..)
    refine ⟨u, hu, ?_, ?_, fun k hk => (hpair k).trans (if_neg hk), ht⟩
    · rw [hpair, if_pos rfl, Freq.done]
    · rw [State.period, hpair, if_pos rfl, Freq.done]
end

section
namespace Sys2Proof.Machine

/-! ## What a tick leaves of the timers: only FOG_OUT may start (R398) -/

/-- The running durations but FOG_OUT's. -/
def State.otherTimers (s : State) : List Timer := s.timers.filter (fun e => decide (e.id ≠ .fogOut))

@[simp] theorem ign_otherTimers (f : Fld) (h : f ≠ .timers) : Ign State.otherTimers f := by
  cases f <;> first | exact absurd rfl h | exact fun _ _ => rfl

theorem State.mem_otherTimers {s : State} {e : Timer} (h : e.id ≠ .fogOut) : e ∈ s.otherTimers ↔ e ∈ s.timers := by
  simp [State.otherTimers, h]

theorem State.startTimer_otherTimers (s : State) (l : Island) (n : Nat) :
    (s.startTimer .fogOut l n).otherTimers = s.otherTimers := by
  simp [State.otherTimers, State.startTimer, List.filter_filter]

theorem State.raiseFog_otherTimers (s : State) (source : BitVec 3) : (s.raiseFog source).otherTimers = s.otherTimers := by
  unfold State.raiseFog
  dsimp only
  split
  · rfl
  · split
    · exact State.startTimer_otherTimers ..
    · rfl

theorem State.ldgTake_otherTimers (s : State) (b : BlkId) (o : LdgOut) : (s.ldgTake b o).otherTimers = s.otherTimers := by
  have h : ∀ t : State, (if o.held then t.flag b.kind b.unit 0x30 (bit 27) else t).otherTimers = t.otherTimers := by
    intro t
    split <;> rfl
  have hd : ((s.setLdg (blkKey b) o.l).ldgDropped b o.lost).otherTimers = s.otherTimers :=
    (State.ldgDropped_see (π := State.otherTimers) _ _ _ (by simp)).trans rfl
  have hf : ∀ (c : Prop) [Decidable c] (t : State), (if c then t.raiseFog 3 else t).otherTimers = t.otherTimers := by
    intro c _ t
    split
    · exact State.raiseFog_otherTimers ..
    · rfl
  exact (hf _ _).trans ((h _).trans hd)

theorem State.ledgerRelease_otherTimers (b : BlkId) (rs : List (List W64)) (s : State) :
    (s.ledgerRelease b rs).otherTimers = s.otherTimers := by
  induction rs generalizing s with
  | nil => rfl
  | cons r rs ih =>
    rw [State.ledgerRelease]
    split
    · rfl
    · exact (ih _).trans (State.ldgTake_otherTimers ..)

theorem State.ledgerRetry_otherTimers (s : State) (b : BlkId) : (s.ledgerRetry b).otherTimers = s.otherTimers := by
  unfold State.ledgerRetry
  dsimp only
  split
  · rfl
  · exact State.ledgerRelease_otherTimers ..

/-- A ledger that holds no record offers none. -/
theorem State.ledgerRetry_of_empty {s : State} {b : BlkId} (h : (s.ldg (blkKey b)).held = []) : s.ledgerRetry b = s := if_pos h

/-! ## One island's part of a tick -/

theorem State.islandTick_cycles (s : State) (i : Island) :
    (s.islandTick i).cycles = (s.setCycle (islandCode i) (s.cycle (islandCode i) + 1)).cycles := by
  change see State.cycles (s.islandTick i) = see State.cycles _
  unfold State.islandTick
  cases i <;> simp

theorem State.islandTick_cycle (s : State) (i : Island) (k : Nat) :
    (s.islandTick i).cycle k = if k = islandCode i then s.cycle (islandCode i) + 1 else s.cycle k := by
  rw [State.cycle, State.islandTick_cycles]
  exact State.cycle_setCycle ..

theorem State.islandTick_otherTimers (s : State) (i : Island) : (s.islandTick i).otherTimers = s.otherTimers := by
  have h : ∀ (t : State) (b : BlkId), see State.otherTimers (t.ledgerRetry b) = see State.otherTimers t :=
    State.ledgerRetry_otherTimers
  change see State.otherTimers (s.islandTick i) = see State.otherTimers s
  unfold State.islandTick
  cases i <;> simp [h]

/-- What a tick may raise a fog by, and what it may start. -/
def State.heldAndTimers (s : State) : List (Nat × Ledger) × List Timer := (s.ldgs, s.timers)

@[simp] theorem ign_heldAndTimers (f : Fld) (hl : f ≠ .ldgs) (ht : f ≠ .timers) : Ign State.heldAndTimers f := by
  cases f <;> first | exact absurd rfl hl | exact absurd rfl ht | exact fun _ _ => rfl

/-- No ledger of the device holds a record. -/
def State.NoneHeld (s : State) : Prop := ∀ b ∈ ledgerBlocks, (s.ldg (blkKey b)).held = []

theorem State.NoneHeld.of_see {s t : State} (h : s.NoneHeld) (ht : see State.heldAndTimers t = see State.heldAndTimers s) :
    t.NoneHeld := by
  intro b hb
  have hl : t.ldgs = s.ldgs := congrArg Prod.fst ht
  rw [State.ldg, hl]
  exact h b hb

theorem ldgTile_mem_ledgerBlocks {t : Nat} (h : Island.tile t ∈ islands) : (⟨.ldgTile, t⟩ : BlkId) ∈ ledgerBlocks := by
  simpa [islands, ledgerBlocks] using h

theorem ldgStack_mem_ledgerBlocks {k : Nat} (h : Island.base k ∈ islands) : (⟨.ldgStack, k⟩ : BlkId) ∈ ledgerBlocks := by
  simpa [islands, ledgerBlocks] using h

theorem State.islandTick_of_noneHeld {s : State} {i : Island} (hs : s.NoneHeld) (hi : i ∈ islands) :
    see State.heldAndTimers (s.islandTick i) = see State.heldAndTimers s := by
  have hr : ∀ (t : State) (b : BlkId), b ∈ ledgerBlocks → see State.heldAndTimers t = see State.heldAndTimers s →
      see State.heldAndTimers (t.ledgerRetry b) = see State.heldAndTimers s := by
    intro t b hb ht
    rw [State.ledgerRetry_of_empty (hs.of_see ht b hb), ht]
  unfold State.islandTick
  cases i with
  | tile t =>
    dsimp only
    rw [State.setMxe_see _ _ _ (by simp)]
    exact hr _ _ (ldgTile_mem_ledgerBlocks hi) (by simp)
  | base k =>
    dsimp only
    rw [State.setStack_see _ _ _ (by simp)]
    exact hr _ _ (ldgStack_mem_ledgerBlocks hi) (by simp)
  | keeper p => simp
  | link g => simp
  | mgmt => simp
  | pcie => simp

/-! ## All islands -/

theorem foldl_islandTick_cycle (l : List Island) (hl : (l.map islandCode).Nodup) (s : State) (k : Nat) :
    (l.foldl (fun (s : State) i => s.islandTick i) s).cycle k =
      if k ∈ l.map islandCode then s.cycle k + 1 else s.cycle k := by
  induction l generalizing s with
  | nil => simp
  | cons i l ih =>
    rw [List.map_cons, List.nodup_cons] at hl
    rw [List.foldl_cons, ih hl.2, State.islandTick_cycle]
    by_cases hk : k = islandCode i
    · subst hk
      simp [hl.1]
    · simp [hk]

theorem foldl_islandTick_of_noneHeld (l : List Island) (hl : ∀ i ∈ l, i ∈ islands) (s : State) (hs : s.NoneHeld) :
    see State.heldAndTimers (l.foldl (fun (s : State) i => s.islandTick i) s) = see State.heldAndTimers s := by
  induction l generalizing s with
  | nil => rfl
  | cons i l ih =>
    have h1 := State.islandTick_of_noneHeld hs (hl i List.mem_cons_self)
    rw [List.foldl_cons, ih (fun j hj => hl j (List.mem_cons_of_mem _ hj)) _ (hs.of_see h1), h1]

theorem islandCode_nodup : (islands.map islandCode).Nodup := by decide +kernel

theorem mem_map_islandCode_filter (s : State) {i : Island} (hi : i ∈ islands) :
    islandCode i ∈ (islands.filter s.islandOn).map islandCode ↔ s.islandOn i = true := by
  constructor
  · intro h
    obtain ⟨j, hj, hij⟩ := List.mem_map.1 h
    obtain ⟨hj, hon⟩ := List.mem_filter.1 hj
    rwa [← List.inj_on_of_nodup_map islandCode_nodup hj hi hij]
  · exact fun h => List.mem_map_of_mem (List.mem_filter.2 ⟨hi, h⟩)

/-- The cycle counter of every powered island counts on and no other (R27). -/
theorem State.tick_cycle (s : State) {i : Island} (hi : i ∈ islands) :
    s.tick.cycle (islandCode i) = if s.islandOn i then s.cycle (islandCode i) + 1 else s.cycle (islandCode i) := by
  have hn : ((islands.filter s.islandOn).map islandCode).Nodup :=
    islandCode_nodup.sublist ((List.filter_sublist).map _)
  have hc : ∀ t : State, t.linkPower.cycle (islandCode i) = t.cycle (islandCode i) := fun t =>
    congrArg (fun m => SMap.get 0 m _) (State.linkPower_see (π := State.cycles) t (by simp))
  rw [State.tick, hc, foldl_islandTick_cycle _ hn]
  simp only [mem_map_islandCode_filter s hi]
  rfl

theorem State.timerTick_eq (s : State) : s.timerTick = fun e =>
    if s.islandOn e.island ∧ 0 < e.left ∧ s.timerHeld e.id = false then
      { e with left := e.left - (s.period e.island : Nat) } else e := by
  funext e
  simp only [State.timerTick, Bool.not_eq_true]

theorem State.tick_otherTimers (s : State) : s.tick.otherTimers =
    ({ s with timers := s.timers.map s.timerTick } : State).otherTimers := by
  change see State.otherTimers s.tick = see State.otherTimers _
  have h : ∀ (t : State) (i : Island), see State.otherTimers (t.islandTick i) = see State.otherTimers t :=
    State.islandTick_otherTimers
  rw [State.tick, State.linkPower_see _ (by simp), foldl_see _ h]
  rfl

theorem State.tick_timers_of_noneHeld {s : State} (hs : s.NoneHeld) : s.tick.timers = s.timers.map s.timerTick := by
  refine congrArg Prod.snd (?_ : see State.heldAndTimers s.tick = (s.ldgs, s.timers.map s.timerTick))
  rw [State.tick, State.linkPower_see _ (by simp)]
  exact (foldl_islandTick_of_noneHeld _ (fun i hi => (List.mem_filter.1 hi).1) _ hs)

end Sys2Proof.Machine

open Sys2Proof Sys2Proof.Machine

/-- Settles O57: the queue's head is the command, and an empty queue is a tick. -/
theorem stepRunsTheFrontCommand : Obligations.StepRunsTheFrontCommand := by
  refine ⟨fun c rest s h => step_cons h, fun c s => step_cons rfl, fun s h => ⟨step_nil h, ?_, fun i hi => s.tick_cycle hi,
    ?_, State.tick_see (π := State.ques) s (by simp), State.tick_see (π := State.mem) s (by simp)⟩⟩
  · exact (State.tick_pending s).trans h
  · simp only [← State.timerTick_eq]
    refine ⟨fun e he => ?_, State.tick_timers_of_noneHeld⟩
    rw [← State.mem_otherTimers he, State.tick_otherTimers, State.mem_otherTimers he]
end

section
namespace Sys2Proof.Machine

/-! ## A refused field (R42)

A field keeps its committed value in a register whose other bits are zero on both sides. -/

theorem and_self_of_and_not {w m : W32} (h : w &&& ~~~m = 0) : w &&& m = w := by
  ext i hi
  have hb := congrArg (fun x : W32 => x[i]) h
  simp only [BitVec.getElem_and, BitVec.getElem_not, BitVec.getElem_zero, BitVec.ofNat_eq_ofNat] at hb ⊢
  cases hw : w[i] <;> simp_all

/-- Words of one field differ in that field or are equal. -/
theorem eq_of_xor_and {a b m : W32} (ha : a &&& ~~~m = 0) (hb : b &&& ~~~m = 0) (h : (a ^^^ b) &&& m = 0) : a = b := by
  rw [← and_self_of_and_not ha, ← and_self_of_and_not hb]
  ext i hi
  have hx := congrArg (fun x : W32 => x[i]) h
  simp only [BitVec.getElem_and, BitVec.getElem_xor, BitVec.getElem_zero, BitVec.ofNat_eq_ofNat] at hx ⊢
  cases ha : a[i] <;> cases hb : b[i] <;> simp_all

theorem keep_of_and_not {a b m : W32} (ha : a &&& ~~~m = 0) (hb : b &&& ~~~m = 0) : (a &&& ~~~m) ||| (b &&& m) = b := by
  rw [ha, and_self_of_and_not hb]
  exact BitVec.zero_or

theorem mem_changedOffs_ne {k : BlkKind} {r : BlockRegs} {o : Nat} (h : o ∈ changedOffs k r) :
    snapWord k r o ≠ commWord k r o := by
  simpa using (List.mem_filter.1 h).2

/-- FREQ_STEP, the one field of TILE_CLK_TARGET, is kept where the snapshot holds a step above 0x10 (R29). -/
theorem State.keptBits_freqStep {s : State} {b : BlkId} (hk : b.kind = .tile)
    (hbig : 0x10 < bitsOf (snapWord .tile (s.blk b) 0x40).toNat 4 0)
    (hc : (snapWord .tile (s.blk b) 0x40 ^^^ commWord .tile (s.blk b) 0x40) &&& fm 4 0 ≠ 0) :
    s.keptBits b 0x40 = fm 4 0 := by
  have hf : regFields .tile 0x40 = some [⟨4, 0, .stg, 0x10⟩] := rfl
  have hbad : s.refusedBits b 0x40 = fm 4 0 := by
    unfold State.refusedBits
    simp [hk, hbig, onlyIf]
  simp only [State.keptBits, hbad, hk, hf, Option.getD_some, refusedFields, List.foldl_cons, List.foldl_nil]
  exact if_pos ⟨trivial, hc, by decide⟩

/-- A kept FREQ_STEP is reported in BAD_STEP beside REFUSED (R29, R42). -/
theorem State.reportKept_tile {s : State} {t off : Nat} {kept : W32} (h : kept ≠ 0) :
    let r := s.blk ⟨.tile, t⟩
    (s.reportKept ⟨.tile, t⟩ off kept).blk ⟨.tile, t⟩ =
        { r with refused := true, w1c := SMap.set 0 r.w1c 0x44 (w1cWord r 0x44 ||| bit 30) } ∧
      (s.reportKept ⟨.tile, t⟩ off kept).tiles = s.tiles := by
  have hx : s.reportKept ⟨.tile, t⟩ off kept =
      (s.setBlk ⟨.tile, t⟩ { s.blk ⟨.tile, t⟩ with refused := true }).flag .tile t 0x44 (bit 30) := if_neg h
  rw [hx]
  exact ⟨by simp [State.flag, w1cWord], by simp⟩

theorem State.committed_same {s : State} {b : BlkId} {off : Nat} {old : W32} (h : commWord b.kind (s.blk b) off = old) :
    s.committed b off old = s := if_pos h

/-- The registers of a tile's block after its part is applied with FREQ_STEP refused (R39, R42). -/
def freqStepRefused (r : BlockRegs) : BlockRegs :=
  { r with
    comm := SMap.set (resetWord .tile 0x40) r.comm 0x40 (commWord .tile r 0x40), pend := [], serial := r.serial + 1
    refused := true, w1c := SMap.set 0 r.w1c 0x44 (w1cWord r 0x44 ||| bit 30) }

theorem commWord_freqStepRefused (r : BlockRegs) : commWord .tile (freqStepRefused r) 0x40 = commWord .tile r 0x40 :=
  SMap.get_set_self ..

theorem badStep_freqStepRefused (r : BlockRegs) : (w1cWord (freqStepRefused r) 0x44).getLsbD 30 = true := by
  have h : w1cWord (freqStepRefused r) 0x44 = w1cWord r 0x44 ||| bit 30 := SMap.get_set_self ..
  rw [h, BitVec.getLsbD_or]
  exact Bool.or_eq_true_iff.2 (.inr rfl)

theorem State.applyPart_freqStepRefused {s : State} {t : Nat} (hpend : (s.blk ⟨.tile, t⟩).pend = [0])
    (hchg : changedOffs .tile (s.blk ⟨.tile, t⟩) = [0x40]) (hkept : s.keptBits ⟨.tile, t⟩ 0x40 = fm 4 0)
    (hsnap : snapWord .tile (s.blk ⟨.tile, t⟩) 0x40 &&& ~~~(fm 4 0) = 0)
    (hcomm : commWord .tile (s.blk ⟨.tile, t⟩) 0x40 &&& ~~~(fm 4 0) = 0) :
    ((s.applyPart ⟨.tile, t⟩ 0).blk ⟨.tile, t⟩ = freqStepRefused (s.blk ⟨.tile, t⟩)) ∧
      (s.applyPart ⟨.tile, t⟩ 0).tiles = s.tiles := by
  have hpart : [0x40].filter (fun o => decide (partOf .tile o = 0)) = [0x40] := rfl
  have hrest : [0].filter (fun x => decide (x ≠ 0)) = ([] : List Nat) := rfl
  have hfm : fm 4 0 ≠ 0 := by decide
  rw [State.applyPart]
  simp only [hpend, hchg, hpart, hrest, List.mem_singleton, not_true_eq_false, if_false, if_true, List.map_cons, List.map_nil,
    List.foldl_cons, List.foldl_nil, hkept, keep_of_and_not hsnap hcomm]
  generalize hv : s.setBlk _ _ = v
  have hvb := congrArg (fun u => State.blk u ⟨.tile, t⟩) hv
  simp only [State.blk_setBlk, if_true] at hvb
  obtain ⟨hblk, htiles⟩ := State.reportKept_tile (s := v) (t := t) (off := 0x40) hfm
  have hb : (v.reportKept ⟨.tile, t⟩ 0x40 (fm 4 0)).blk ⟨.tile, t⟩ = freqStepRefused (s.blk ⟨.tile, t⟩) := by
    rw [hblk, ← hvb]
    rfl
  rw [State.committed_same ((congrArg (fun r => commWord .tile r 0x40) hb).trans (commWord_freqStepRefused _))]
  exact ⟨hb, htiles.trans (hv ▸ by simp)⟩

end Sys2Proof.Machine

open Sys2Proof Sys2Proof.Machine

/-- Settles O5: the one changed field is kept, so the register is written with the value it holds. -/
theorem refusedFieldKeepsItsValue : Obligations.RefusedFieldKeepsItsValue := by
  intro t s b r hpend hchg hsample hbig hsnap hcomm
  have hm : ~~~(fm 4 0) = (0xFFFFFFE0 : W32) := by decide
  rw [← hm] at hsnap hcomm
  have hne : snapWord .tile r 0x40 ≠ commWord .tile r 0x40 := mem_changedOffs_ne (hchg ▸ List.mem_singleton_self _)
  have hkept := State.keptBits_freqStep (b := b) rfl hbig (fun h => hne (eq_of_xor_and hsnap hcomm h))
  obtain ⟨hblk, htiles⟩ := State.applyPart_freqStepRefused hpend hchg hkept hsnap hcomm
  refine ⟨s.applyPart b 0, ?_, ?_, ?_, ?_, State.tile_of_tiles htiles _, ?_⟩
  · exact (okIf_true (decide_eq_true t.isLt) _).trans (congrArg _ (if_pos hsample))
  · rw [hblk, commWord_freqStepRefused]
  · rw [hblk, freqStepRefused]
  · rw [State.flags, hblk, badStep_freqStepRefused]
  · rw [hblk, freqStepRefused]
end

section
/-!
Paths on the mesh spine (R20, R21): a path is a chain of routers side by side, which its two units meet.
-/
namespace Sys2Proof.Machine

/-- Two routers have a channel between their ports toward each other. -/
abbrev Beside (t u : Nat) : Prop := joined (routerEnd t (portToward t u)) (routerEnd u (portToward u t)) = true

/-- The routers of `l` lie side by side, from `t` to `u`. -/
structure Route (l : List Nat) (t u : Nat) : Prop where
  chain : l.IsChain Beside
  head : l.head? = some t
  last : l.getLast? = some u

theorem joined_comm (a b : ChanEnd) : joined a b = joined b a := Bool.or_comm ..

theorem meshChans_joined {l : List Nat} (h : l.IsChain Beside) : ∀ c ∈ meshChans l, joined c.1 c.2 = true := by
  induction l with
  | nil => simp [meshChans]
  | cons t l ih =>
    cases l with
    | nil => simp [meshChans]
    | cons u us =>
      rw [List.isChain_cons_cons] at h
      simp only [meshChans, List.mem_cons]
      rintro c (rfl | hc)
      · exact h.1
      · exact ih h.2 c hc

/-! ## One by one along a row or a column -/

theorem steps_cons (a b : Nat) : ∃ l, steps a b = a :: l := by
  unfold steps
  split <;> exact ⟨_, by rw [List.range_succ_eq_map, List.map_cons]; rfl⟩

theorem steps_getLast? (a b : Nat) : (steps a b).getLast? = some b := by
  unfold steps
  split <;> simp [List.getLast?_range] <;> omega

theorem lt_of_mem_steps {a b n i : Nat} (ha : a < n) (hb : b < n) (h : i ∈ steps a b) : i < n := by
  unfold steps at h
  split at h <;> simp only [List.mem_map, List.mem_range] at h <;> omega

/-- Steps that go up and down between neighbours below `n` chain. -/
theorem steps_isChain {R : Nat → Nat → Prop} {a b n : Nat} (ha : a < n) (hb : b < n)
    (up : ∀ i, i + 1 < n → R i (i + 1)) (down : ∀ i, i + 1 < n → R (i + 1) i) : (steps a b).IsChain R := by
  unfold steps
  split
  · rw [List.isChain_map, List.isChain_range_succ]
    exact fun i hi => up _ (by omega)
  · rw [List.isChain_map, List.isChain_range_succ]
    intro i hi
    have h := down (a - (i + 1)) (by omega)
    rwa [show a - (i + 1) + 1 = a - i by omega] at h

/-! ## Routes -/

theorem Route.append {l m : List Nat} {t v u : Nat} (h : Route l t v) (g : Route (v :: m) v u) : Route (l ++ m) t u where
  chain := by
    refine h.chain.append g.chain.tail fun x hx y hy => ?_
    cases h.last.symm.trans hx
    exact g.chain.rel_head? hy
  head := by rw [List.head?_append, h.head]; rfl
  last := by
    rw [List.getLast?_append, h.last]
    have := g.last
    rw [List.getLast?_cons] at this
    cases hm : m.getLast? with
    | none => simpa [hm] using this
    | some y => simpa [hm] using this

/-- Over a bridge. -/
theorem Route.join {l m : List Nat} {t v w u : Nat} (h : Route l t v) (hb : Beside v w) (g : Route m w u) :
    Route (l ++ m) t u where
  chain := by
    refine h.chain.append g.chain fun x hx y hy => ?_
    cases h.last.symm.trans hx
    cases g.head.symm.trans hy
    exact hb
  head := by rw [List.head?_append, h.head]; rfl
  last := by rw [List.getLast?_append, g.last]; rfl

theorem route_map_steps {f : Nat → Nat} {a b n : Nat} (ha : a < n) (hb : b < n)
    (up : ∀ i, i + 1 < n → Beside (f i) (f (i + 1))) (down : ∀ i, i + 1 < n → Beside (f (i + 1)) (f i)) :
    Route ((steps a b).map f) (f a) (f b) where
  chain := (List.isChain_map f).2 (steps_isChain ha hb up down)
  head := by
    obtain ⟨l, hl⟩ := steps_cons a b
    rw [hl]; rfl
  last := by rw [List.getLast?_map, steps_getLast?]; rfl

theorem beside_in_row : ∀ h < 2, ∀ r < 4, ∀ c, c + 1 < 6 →
    Beside (routerAt h r c) (routerAt h r (c + 1)) ∧ Beside (routerAt h r (c + 1)) (routerAt h r c) := by
  intro h hh r hr c hc
  have key : ∀ h < 2, ∀ r < 4, ∀ c < 5,
      Beside (routerAt h r c) (routerAt h r (c + 1)) ∧ Beside (routerAt h r (c + 1)) (routerAt h r c) := by decide
  exact key h hh r hr c (by omega)

theorem beside_in_col : ∀ h < 2, ∀ c < 6, ∀ r, r + 1 < 4 →
    Beside (routerAt h r c) (routerAt h (r + 1) c) ∧ Beside (routerAt h (r + 1) c) (routerAt h r c) := by
  intro h hh c hc r hr
  have key : ∀ h < 2, ∀ c < 6, ∀ r < 3,
      Beside (routerAt h r c) (routerAt h (r + 1) c) ∧ Beside (routerAt h (r + 1) c) (routerAt h r c) := by decide
  exact key h hh c hc r (by omega)

theorem beside_over_bridge : ∀ h < 2, ∀ g < 2, h ≠ g → ∀ r < 4,
    Beside (routerAt h r (bridgeCol h)) (routerAt g r (bridgeCol g)) := by decide

theorem route_row {h r a b : Nat} (hh : h < 2) (hr : r < 4) (ha : a < 6) (hb : b < 6) :
    Route ((steps a b).map (routerAt h r)) (routerAt h r a) (routerAt h r b) :=
  route_map_steps ha hb (fun i hi => (beside_in_row h hh r hr i hi).1) (fun i hi => (beside_in_row h hh r hr i hi).2)

theorem route_col {h c a b : Nat} (hh : h < 2) (hc : c < 6) (ha : a < 4) (hb : b < 4) :
    Route ((steps a b).map (fun r => routerAt h r c)) (routerAt h a c) (routerAt h b c) :=
  route_map_steps (f := fun r => routerAt h r c) ha hb (fun i hi => (beside_in_col h hh c hc i hi).1)
    (fun i hi => (beside_in_col h hh c hc i hi).2)

theorem colOf_lt (t : Nat) : colOf t < 6 := Nat.mod_lt _ (by decide)

theorem rowOf_lt (t : Nat) : rowOf t < 4 := by unfold rowOf; omega

theorem bridgeCol_lt (h : Nat) : bridgeCol h < 6 := by unfold bridgeCol; split <;> decide

theorem routerAt_place (t : Nat) : routerAt (t / 24) (rowOf t) (colOf t) = t := by
  unfold routerAt rowOf colOf; omega

theorem rowOf_routerAt {h r c : Nat} (hr : r < 4) (hc : c < 6) : rowOf (routerAt h r c) = r := by
  unfold routerAt rowOf; omega

theorem colOf_routerAt {h r c : Nat} (hc : c < 6) : colOf (routerAt h r c) = c := by
  unfold routerAt colOf; omega

theorem half_routerAt {h r c : Nat} (hr : r < 4) (hc : c < 6) : routerAt h r c / 24 = h := by
  unfold routerAt; omega

theorem halfRoute_route {t u : Nat} (ht : t < 48) (hh : t / 24 = u / 24) : Route (halfRoute t u) t u := by
  have h2 : t / 24 < 2 := by omega
  have hrow := route_row h2 (rowOf_lt t) (colOf_lt t) (colOf_lt u)
  have hcol := route_col h2 (colOf_lt u) (rowOf_lt t) (rowOf_lt u)
  obtain ⟨l, hl⟩ := steps_cons (rowOf t) (rowOf u)
  rw [hl, List.map_cons] at hcol
  have hu : routerAt (t / 24) (rowOf u) (colOf u) = u := by rw [hh, routerAt_place]
  rw [hu] at hcol
  rw [routerAt_place] at hrow
  unfold halfRoute
  rw [hl]
  exact hrow.append hcol

theorem meshRoute_route {t u : Nat} (ht : t < 48) (hu : u < 48) : Route (meshRoute t u) t u := by
  unfold meshRoute
  dsimp only
  split
  · exact halfRoute_route ht ‹_›
  · rename_i hne
    have hrow := route_row (by omega : t / 24 < 2) (rowOf_lt t) (colOf_lt t) (bridgeCol_lt (t / 24))
    rw [routerAt_place] at hrow
    have hmeet := half_routerAt (h := u / 24) (rowOf_lt t) (bridgeCol_lt (u / 24))
    refine hrow.join (beside_over_bridge _ (by omega) _ (by omega) hne _ (rowOf_lt t)) (halfRoute_route ?_ hmeet)
    have := rowOf_lt t
    have := bridgeCol_lt (u / 24)
    unfold routerAt
    omega

/-! ## Which routers a transfer between tiles passes -/

theorem mem_halfRoute {t u r : Nat} (h : r ∈ halfRoute t u) : rowOf r = rowOf t ∨ colOf r = colOf u := by
  simp only [halfRoute, List.mem_append, List.mem_map] at h
  rcases h with ⟨c, hc, rfl⟩ | ⟨i, -, rfl⟩
  · exact .inl (rowOf_routerAt (rowOf_lt t) (lt_of_mem_steps (colOf_lt t) (colOf_lt u) hc))
  · exact .inr (colOf_routerAt (colOf_lt u))

theorem mem_meshRoute {t u r : Nat} (h : r ∈ meshRoute t u) : rowOf r = rowOf t ∨ colOf r = colOf u := by
  unfold meshRoute at h
  dsimp only at h
  split at h
  · exact mem_halfRoute h
  · rcases List.mem_append.1 h with h | h
    · obtain ⟨c, hc, rfl⟩ := List.mem_map.1 h
      exact .inl (rowOf_routerAt (rowOf_lt t) (lt_of_mem_steps (colOf_lt t) (bridgeCol_lt _) hc))
    · have := mem_halfRoute h
      rwa [rowOf_routerAt (rowOf_lt t) (bridgeCol_lt _)] at this

theorem routersOf_tiles (t u : Fin 48) (b : Bool) : routersOf ⟨.tile t, .tile u, b⟩ = meshRoute t.val u.val := rfl

/-! ## Where a unit meets the mesh -/

/-- A unit's own end and the port of router `t` are the ends of a channel. -/
abbrev Meets (p : Port) (t : Nat) : Prop := joined (portEnds p t).1 (portEnds p t).2 = true

theorem stack_meets : ∀ (k : Fin 12) (i : Fin 2), Meets (.stack k) (edgeRouter k.val i.val) ∧ edgeRouter k.val i.val < 48 := by
  decide

theorem trunk_meets : ∀ r < 4, (∀ g : Fin 6, Meets (.lg g) (routerAt (g.val / 3) r (outerCol (g.val / 3)))) ∧
    (∀ q : Fin 8, Meets (.kp q) (routerAt (q.val / 4) r (outerCol (q.val / 4)))) ∧
    (∀ h : Fin 2, Meets (.l3 h) (routerAt h.val r (outerCol h.val)) ∧ Meets (.io h) (routerAt h.val r (outerCol h.val))) := by
  decide

theorem tile_meets (t : Fin 48) : Meets (.tile t) t.val := by
  have h : t.val % 48 = t.val := Nat.mod_eq_of_lt t.isLt
  have hj : joins (routerEnd t.val 0) (.tile t) = (true && decide (t.val % 48 = t.val)) := rfl
  rw [Meets, joined_comm]
  exact Bool.or_eq_true_iff.2 (.inl (hj.trans (decide_eq_true h)))

theorem portHalf_lt (p : Port) : portHalf p < 2 := by
  cases p with
  | tile t => exact Nat.div_lt_of_lt_mul t.isLt
  | stack k => exact Nat.div_lt_of_lt_mul k.isLt
  | lg g => exact Nat.div_lt_of_lt_mul g.isLt
  | kp q => exact Nat.div_lt_of_lt_mul q.isLt
  | l3 h => exact h.isLt
  | io h => exact h.isLt

theorem portRouter_meets (p q : Port) {row : Nat} (hr : row < 4) : Meets p (portRouter p q row) ∧ portRouter p q row < 48 := by
  have hlt : ∀ h < 2, routerAt h row (outerCol h) < 48 := by
    intro h hh
    unfold routerAt outerCol
    split <;> omega
  obtain ⟨hlg, hkp, hio⟩ := trunk_meets row hr
  cases p with
  | tile t => exact ⟨tile_meets t, t.isLt⟩
  | stack k => exact stack_meets k ⟨portParityCol q % 2, Nat.mod_lt _ (by decide)⟩
  | lg g => exact ⟨hlg g, hlt _ (portHalf_lt (.lg g))⟩
  | kp k => exact ⟨hkp k, hlt _ (portHalf_lt (.kp k))⟩
  | l3 h => exact ⟨(hio h).1, hlt _ (portHalf_lt (.l3 h))⟩
  | io h => exact ⟨(hio h).2, hlt _ (portHalf_lt (.io h))⟩

theorem trunkRow_lt (p : Port) : (portTrunkRow p).getD 0 < 4 := by
  cases p <;> simp only [portTrunkRow, Option.getD_some, Option.getD_none] <;> omega

/-- No routers, or the mesh route from a router where the source of `x` may meet the mesh to one where its destination may. -/
def OnMesh (x : Xfer) (l : List Nat) : Prop :=
  l = [] ∨ ∃ r < 4, ∃ s < 4, l = meshRoute (portRouter x.src x.dst r) (portRouter x.dst x.src s)

theorem routersOf_onMesh (x : Xfer) : OnMesh x (routersOf x) := by
  have nil : OnMesh x [] := .inl rfl
  have mesh : ∀ r s, r < 4 → s < 4 → OnMesh x (meshRoute (portRouter x.src x.dst r) (portRouter x.dst x.src s)) :=
    fun r s hr hs => .inr ⟨r, hr, s, hs, rfl⟩
  refine iteInduction (motive := OnMesh x) (fun _ => nil) fun _ => iteInduction (motive := OnMesh x) (fun _ => ?_) fun _ => ?_
  · exact iteInduction (motive := OnMesh x) (fun _ => nil) fun _ => mesh _ _ (trunkRow_lt x.dst) (trunkRow_lt x.dst)
  · exact iteInduction (motive := OnMesh x) (fun _ => mesh _ 0 (rowOf_lt _) (by decide)) fun _ =>
      iteInduction (motive := OnMesh x) (fun _ => mesh 0 _ (by decide) (trunkRow_lt x.dst)) fun _ =>
        mesh 0 0 (by decide) (by decide)

theorem routersOf_route (x : Xfer) : routersOf x = [] ∨ ∃ t u, Route (routersOf x) t u ∧ Meets x.src t ∧ Meets x.dst u := by
  rcases routersOf_onMesh x with h | ⟨r, hr, s, hs, h⟩
  · exact .inl h
  · obtain ⟨ha, hal⟩ := portRouter_meets x.src x.dst hr
    obtain ⟨hb, hbl⟩ := portRouter_meets x.dst x.src hs
    exact .inr ⟨_, _, h ▸ meshRoute_route hal hbl, ha, hb⟩

/-! ## Units on one trunk (R20) -/

theorem joined_on_trunk {x y : ChanEnd} (hx : (trunkHalf x).isSome = true) (hh : trunkHalf x = trunkHalf y) (hne : x ≠ y) :
    joined x y = true := by
  have hj : joins x y = ((trunkHalf x).isSome && decide (trunkHalf x = trunkHalf y) && decide (x ≠ y)) := by
    cases x with
    | router t p => cases hx
    | _ => rfl
  rw [joined, hj, hx, decide_eq_true hh, decide_eq_true hne]
  rfl

theorem trunkHalf_portEnds {p : Port} (hp : portIsTrunk p = true) (t : Nat) : trunkHalf (portEnds p t).1 = some (portHalf p) := by
  cases p with
  | tile t => cases hp
  | stack k => cases hp
  | _ => rfl

theorem portEnds_fst_inj {p q : Port} (hp : portIsTrunk p = true) (t : Nat) (h : (portEnds p t).1 = (portEnds q t).1) :
    p = q := by
  cases p with
  | tile t => cases hp
  | stack k => cases hp
  | _ =>
    cases q <;> cases h
    rfl

/-- Every channel of a path has joined ends (R21). -/
theorem pathOf_joined (x : Xfer) : ∀ c ∈ pathOf x, joined c.1 c.2 = true := by
  unfold pathOf
  rcases hr : routersOf x with _ | ⟨t, ts⟩
  · dsimp only
    split
    · rename_i h
      simp only [Bool.and_eq_true, decide_eq_true_eq] at h
      obtain ⟨⟨⟨hs, hd⟩, hh⟩, hne⟩ := h
      rintro c (_ | ⟨_, ⟨⟩⟩)
      refine joined_on_trunk ?_ ?_ fun he => hne (portEnds_fst_inj hs 0 he)
      · rw [trunkHalf_portEnds hs]; rfl
      · rw [trunkHalf_portEnds hs, trunkHalf_portEnds hd, hh]
    · simp
  · rcases routersOf_route x with h | ⟨a, b, hroute, ha, hb⟩
    · rw [hr] at h; cases h
    · rw [hr] at hroute
      have hta : t = a := Option.some.inj hroute.head
      have htb : ts.getLastD t = b := by
        have := hroute.last
        rw [List.getLast?_cons] at this
        rw [List.getLastD_eq_getLast?]
        exact Option.some.inj this
      simp only [List.mem_append, List.mem_cons, List.not_mem_nil, or_false]
      rintro c ((rfl | hc) | rfl)
      · exact hta ▸ ha
      · exact meshChans_joined hroute.chain c hc
      · exact (joined_comm _ _).trans (htb ▸ hb)

end Sys2Proof.Machine
end

section
/-!
Flits on handshake channels (R31, R32): what a flit that is sent or taken leaves on every channel, and that no channel
ever has more than 64 in flight.
-/
namespace Sys2Proof.Machine

/-- A channel with one flit more in flight, and with its oldest one received. -/
def ChanSt.push (h : ChanSt) (x : Xfer) : ChanSt := { h with sent := h.sent + 1, flight := h.flight ++ [x] }
def ChanSt.pop (h : ChanSt) : ChanSt := { h with rcvd := h.rcvd + 1, flight := h.flight.drop 1 }

theorem State.chan_of_chans {s t : State} (h : t.chans = s.chans) (k : Nat) : t.chan k = s.chan k := by
  rw [State.chan, State.chan, h]

theorem State.sendFlit_chan (s : State) (x : Xfer) (c : Hop) (k : Nat) : (s.sendFlit x c).chan k =
    if k = chanKey c.1 c.2 then (s.chan (chanKey c.1 c.2)).push x else s.chan k := by
  have h : (s.sendFlit x c).chans = (s.setChan (chanKey c.1 c.2) ((s.chan (chanKey c.1 c.2)).push x)).chans := by
    unfold State.sendFlit
    dsimp only
    split
    · exact State.countStack_see (π := State.chans) _ _ _ _ _ (by simp)
    · rfl
  rw [State.chan_of_chans h, State.chan_setChan]

theorem State.takeFlit_chan (s : State) (c : Hop) (k : Nat) : (s.takeFlit c).chan k =
    if k = chanKey c.1 c.2 then (s.chan (chanKey c.1 c.2)).pop else s.chan k := by
  have h : (s.takeFlit c).chans = (s.setChan (chanKey c.1 c.2) (s.chan (chanKey c.1 c.2)).pop).chans := by
    unfold State.takeFlit
    dsimp only
    split
    · exact State.countTile_see (π := State.chans) _ _ _ _ _ (by simp)
    · rfl
  rw [State.chan_of_chans h, State.chan_setChan]

theorem State.sendFlit_except (s : State) (x : Xfer) (c : Hop) :
    (s.sendFlit x c).except [.blocks, .tals, .chans] = s.except [.blocks, .tals, .chans] :=
  State.sendFlit_see (π := State.except [.blocks, .tals, .chans]) s x c (by simp)

/-! ## The row FLIT_TRANSFER, case by case -/

section
variable {x : Xfer} {c : Hop} {s : State} (hj : joined c.1 c.2 = true) (hs : s.pwr.spine = true)
include hj hs

theorem exec_flit_no_room (hr : s.chanRoom c = false) : exec (.flitTransfer x c false) s = .next s := by
  refine (okIf_true hj _).trans ?_
  simp [hs, hr]

theorem exec_flit_sent (hx : x.resp = false) (hh : (pathOf x).head? = some c) (hr : s.chanRoom c = true)
    (hd : s.portOn x.dst = true ∨ nextHop c (pathOf x) ≠ none) :
    exec (.flitTransfer x c false) s = .next (s.sendFlit x c) := by
  have hp : hopsOf x = pathOf x := by simp [hopsOf, hx]
  have hn : ¬ (nextHop c (pathOf x) = none ∧ s.portOn x.dst = false) := by
    rintro ⟨h1, h2⟩
    rcases hd with hd | hd
    · rw [h2] at hd; cases hd
    · exact hd h1
  refine (okIf_true hj _).trans ?_
  simp [hs, hr, hx, hh, hp, hn]

theorem exec_flit_consumed (hf : (s.chan (chanKey c.1 c.2)).flight.head? = some x) (ho : s.onward x c = none) :
    exec (.flitTransfer x c true) s = .next (s.takeFlit c) := by
  refine (okIf_true hj _).trans ?_
  simp [hs, hf, ho]

theorem exec_flit_onward (hf : (s.chan (chanKey c.1 c.2)).flight.head? = some x) {y : Xfer} {n : Hop}
    (ho : s.onward x c = some (y, n)) :
    exec (.flitTransfer x c true) s = .next (if s.chanRoom n then (s.takeFlit c).sendFlit y n else s) := by
  refine (okIf_true hj _).trans ?_
  simp [hs, hf, ho]

end

/-- All that FLIT_TRANSFER can do: nothing, a flit sent where there is room, the oldest one consumed, or presented onward
where there is room. -/
theorem exec_flitTransfer_cases {x : Xfer} {c : Hop} {a : Bool} {s t : State} (h : exec (.flitTransfer x c a) s = .next t) :
    t = s ∨ (s.chanRoom c = true ∧ t = s.sendFlit x c) ∨
    ((s.chan (chanKey c.1 c.2)).flight.head? = some x ∧
      (t = s.takeFlit c ∨ ∃ y n, s.chanRoom n = true ∧ t = (s.takeFlit c).sendFlit y n)) := by
  change okIf (joined c.1 c.2) _ = _ at h
  unfold okIf at h
  split at h
  · injection h with h
    subst h
    by_cases hs : s.pwr.spine = true
    · rw [if_neg (not_not.2 hs)]
      cases a with
      | false =>
        by_cases hr : s.chanRoom c = true
        · simp only [Bool.false_eq_true, if_false]
          split
          · exact .inl rfl
          · exact .inr (.inl ⟨hr, rfl⟩)
        · simp [hr]
      | true =>
        rw [if_pos rfl]
        by_cases hf : (s.chan (chanKey c.1 c.2)).flight.head? = some x
        · rw [if_neg (not_not.2 hf)]
          split
          · exact .inr (.inr ⟨hf, .inl rfl⟩)
          · rename_i y n _
            split
            · exact .inr (.inr ⟨hf, .inr ⟨y, n, ‹_›, rfl⟩⟩)
            · exact .inl rfl
        · exact .inl (if_pos hf)
    · exact .inl (if_pos hs)
  · cases h

/-! ## At most 64 flits in flight -/

/-- As many flits are in flight as the counts differ by, at most 64. -/
def ChanSt.Bounded (h : ChanSt) : Prop := h.flight.length = h.count ∧ h.count ≤ 64

theorem ChanSt.count_push {h : ChanSt} (x : Xfer) (hc : h.count < 64) : (h.push x).count = h.count + 1 := by
  unfold ChanSt.count ChanSt.push at *
  bv_omega

theorem ChanSt.count_pop {h : ChanSt} (hc : 0 < h.count) : h.pop.count = h.count - 1 := by
  unfold ChanSt.count ChanSt.pop at *
  bv_omega

theorem ChanSt.Bounded.push {h : ChanSt} (hb : h.Bounded) (x : Xfer) (hc : h.count < 64) : (h.push x).Bounded := by
  refine ⟨?_, ?_⟩
  · rw [ChanSt.count_push x hc, ← hb.1, ChanSt.push, List.length_append, List.length_singleton]
  · rw [ChanSt.count_push x hc]; omega

theorem ChanSt.Bounded.pop {h : ChanSt} (hb : h.Bounded) (hf : h.flight ≠ []) : h.pop.Bounded := by
  have hpos : 0 < h.count := hb.1 ▸ List.length_pos_iff.2 hf
  have hle := hb.2
  refine ⟨?_, ?_⟩
  · rw [ChanSt.count_pop hpos, ← hb.1, ChanSt.pop, List.length_drop]
  · rw [ChanSt.count_pop hpos]; omega

/-- Every channel is bounded. -/
def State.ChansBounded (s : State) : Prop := ∀ k, (s.chan k).Bounded

theorem State.chanRoom_iff (s : State) (c : Hop) : s.chanRoom c = true ↔ (s.chan (chanKey c.1 c.2)).count < 64 :=
  decide_eq_true_iff

theorem State.ChansBounded.sendFlit {s : State} (hb : s.ChansBounded) (x : Xfer) {c : Hop}
    (hc : (s.chan (chanKey c.1 c.2)).count < 64) : (s.sendFlit x c).ChansBounded := by
  intro k
  rw [State.sendFlit_chan]
  split
  · exact (hb _).push x hc
  · exact hb k

theorem State.ChansBounded.takeFlit {s : State} (hb : s.ChansBounded) {c : Hop}
    (hf : (s.chan (chanKey c.1 c.2)).flight ≠ []) : (s.takeFlit c).ChansBounded := by
  intro k
  rw [State.takeFlit_chan]
  split
  · exact (hb _).pop hf
  · exact hb k

/-- Taking a flit makes no channel fuller. -/
theorem State.count_takeFlit_le {s : State} (hb : s.ChansBounded) {c : Hop} (hf : (s.chan (chanKey c.1 c.2)).flight ≠ [])
    (k : Nat) : ((s.takeFlit c).chan k).count ≤ (s.chan k).count := by
  rw [State.takeFlit_chan]
  split
  · rename_i h
    have hpos : 0 < (s.chan (chanKey c.1 c.2)).count := (hb _).1 ▸ List.length_pos_iff.2 hf
    rw [ChanSt.count_pop hpos, h]
    omega
  · exact le_refl _

theorem exec_flitTransfer_bounded {x : Xfer} {c : Hop} {a : Bool} {s t : State} (hb : s.ChansBounded)
    (h : exec (.flitTransfer x c a) s = .next t) : t.ChansBounded := by
  rcases exec_flitTransfer_cases h with rfl | ⟨hr, rfl⟩ | ⟨hf, ht⟩
  · exact hb
  · exact hb.sendFlit x ((s.chanRoom_iff c).1 hr)
  · have hne : (s.chan (chanKey c.1 c.2)).flight ≠ [] := by
      intro he; rw [he] at hf; cases hf
    rcases ht with rfl | ⟨y, n, hr, rfl⟩
    · exact hb.takeFlit hne
    · refine (hb.takeFlit hne).sendFlit y (lt_of_le_of_lt (State.count_takeFlit_le hb hne _) ((s.chanRoom_iff n).1 hr))

end Sys2Proof.Machine

open Sys2Proof Sys2Proof.Machine

/-- Settles O7: a flit that enters or leaves a channel changes that channel alone, and enters only where there is room. -/
theorem channelHoldsAtMost64Flits : Obligations.ChannelHoldsAtMost64Flits := by
  refine ⟨fun x src dst s hj hs hfull => ?full, fun x src dst s hj hs hx hh hroom hd => ?sent,
    fun x src dst s hj hs hf => ?taken, fun x src dst a s t hb h => exec_flitTransfer_bounded hb h,
    fun x _ _ => pathOf_joined x, fun t u b r hr => mem_meshRoute hr⟩
  case full => exact exec_flit_no_room hj hs (decide_eq_false (not_lt.2 hfull))
  case sent =>
    refine ⟨_, exec_flit_sent hj hs hx hh (decide_eq_true hroom) hd, ?_, fun k hk => ?_, s.sendFlit_except x _⟩
    · exact (s.sendFlit_chan x _ _).trans (if_pos rfl)
    · exact (s.sendFlit_chan x _ k).trans (if_neg hk)
  case taken =>
    intro h
    cases ho : s.onward x (src, dst) with
    | none =>
      refine ⟨_, exec_flit_consumed hj hs hf ho, ?_, fun k hk => ?_⟩
      · exact (s.takeFlit_chan _ _).trans (if_pos rfl)
      · exact (s.takeFlit_chan _ k).trans (if_neg hk)
    | some yn =>
      obtain ⟨y, n⟩ := yn
      have he := exec_flit_onward (c := (src, dst)) hj hs hf ho
      dsimp only
      split
      · rename_i hfull
        exact he.trans (congrArg _ (if_neg fun hr => absurd ((s.chanRoom_iff n).1 hr) (not_lt.2 hfull)))
      · rename_i hroom
        intro hne
        have hr : s.chanRoom n = true := decide_eq_true (not_le.1 hroom)
        refine ⟨_, he.trans (congrArg _ (if_pos hr)), ?_, ?_, fun k hk hkn => ?_⟩
        · rw [State.sendFlit_chan, if_neg (Ne.symm hne), State.takeFlit_chan, if_pos rfl]
          rfl
        · rw [State.sendFlit_chan, if_pos rfl, State.takeFlit_chan, if_neg hne]
          rfl
        · rw [State.sendFlit_chan, if_neg hkn, State.takeFlit_chan, if_neg hk]
end

section
/-!
The arbiter of a stack interface (R22, R227, R228): acceptance, ageing, the grant and the granted access.
-/
namespace Sys2Proof.Machine

theorem State.stack_setArb (s : State) (k j : Nat) (a : Arb) :
    (s.setArb k a).stack j = if j = k then { s.stack k with arb := a } else s.stack j := State.stack_setStack ..

theorem State.stack_of_stks {s t : State} (h : t.stks = s.stks) (k : Nat) : t.stack k = s.stack k := by
  rw [State.stack, State.stack, h]

/-! ## Acceptance -/

section
variable {k : Fin 12} {t : Fin 48} {sid : Fin 16} {seq addr len : Nat} {write : Bool} {data : List Byte} {s : State}

theorem exec_arbiterAccept_full {src : ArbSource} (h : 512 ≤ (s.stack k.val).arb.pending.length) :
    exec (.arbiterAccept k src addr len write data) s = .next s :=
  congrArg Host.Outcome.next (if_pos (.inr h))

theorem exec_arbiterAccept_stream {r : StreamReq} (hup : s.stackUp k.val = true)
    (hr : s.arbStream (.stream t sid seq) = some r) (hroom : (s.stack k.val).arb.pending.length < 512) :
    let a := (s.stack k.val).arb
    let x := (s.ste t.val).stream sid.val
    exec (.arbiterAccept k (.stream t sid seq) addr len write data) s = .next (
      if physAt r.pa ≠ .stack k.val ∨ a.has (.stream t sid seq) ∨ s.arbSentBefore k.val t r then s
      else s.setArb k.val { a with
        pending := a.pending ++ [{ src := .stream t sid seq, addr := r.pa, len := r.len, write := x.store
                                   data := if x.store then s.ringBytes t.val x r else []
                                   slack := r.ttn.map (fun n => (n : Int) - (a.latEst.toNat * 65536 : Nat)), aged := false
                                   waited := 0, order := a.arrivals }]
        arrivals := a.arrivals + 1 }) := by
  have hc : ¬ (¬ s.stackUp k.val = true ∨ 512 ≤ (s.stack k.val).arb.pending.length) := by
    rw [not_or, not_not]
    exact ⟨hup, not_le.2 hroom⟩
  refine congrArg Host.Outcome.next ((if_neg hc).trans ?_)
  dsimp only
  rw [hr]

theorem exec_arbiterAccept_other {src : ArbSource} (hsrc : ∀ t sid seq, src ≠ .stream t sid seq)
    (hup : s.stackUp k.val = true) (haddr : physAt addr = .stack k.val)
    (hroom : (s.stack k.val).arb.pending.length < 512) :
    let a := (s.stack k.val).arb
    exec (.arbiterAccept k src addr len write data) s = .next (s.setArb k.val { a with
      pending := a.pending ++ [⟨src, addr, len, write, data, none, false, 0, a.arrivals⟩], arrivals := a.arrivals + 1 }) := by
  have hc : ¬ (¬ s.stackUp k.val = true ∨ 512 ≤ (s.stack k.val).arb.pending.length) := by
    rw [not_or, not_not]
    exact ⟨hup, not_le.2 hroom⟩
  refine congrArg Host.Outcome.next ((if_neg hc).trans ?_)
  cases src with
  | stream t sid seq => exact absurd rfl (hsrc t sid seq)
  | _ => exact if_neg (not_not.2 haddr)

end

/-! ## Ageing -/

theorem ArbReq.aging_of_waited {wait : Nat} {q : ArbReq} (hs : q.slack = none) (hw : wait < q.waited) :
    q.aging wait = { q with slack := some 0, aged := true } := if_pos ⟨by simp [hs], hw⟩

theorem ArbReq.aging_of_not {wait : Nat} {q : ArbReq} (h : q.slack ≠ none ∨ q.waited ≤ wait) : q.aging wait = q := by
  refine if_neg ?_
  rintro ⟨hs, hw⟩
  rcases h with h | h
  · exact h (by simpa using hs)
  · omega

theorem exec_arbiterAgeing_at {k : Fin 12} {i : Nat} {s : State} {q : ArbReq}
    (hq : (s.stack k.val).arb.pending[i]? = some q) :
    exec (.arbiterAgeing k i) s = .next (s.setArb k.val {
      (s.stack k.val).arb with pending := (s.stack k.val).arb.pending.set i (q.aging (s.beWait k.val)) }) := by
  refine congrArg Host.Outcome.next ?_
  dsimp only
  rw [hq]

/-! ## Which request is granted (R228) -/

/-- A fold that keeps the better of two keeps a least one. -/
theorem foldl_least {α β : Type} [LinearOrder β] (f : α → β) {better : α → α → Prop} [DecidableRel better]
    (hb : ∀ a b, better a b ↔ f a < f b) (l : List α) (q : α) :
    l.foldl (fun m x => if better x m then x else m) q ∈ q :: l ∧
      ∀ x ∈ q :: l, f (l.foldl (fun m x => if better x m then x else m) q) ≤ f x := by
  induction l generalizing q with
  | nil => simp
  | cons y l ih =>
    rw [List.foldl_cons]
    obtain ⟨hmem, hle⟩ := ih (if better y q then y else q)
    have hfirst := hle _ List.mem_cons_self
    have hpick : f (if better y q then y else q) ≤ f q ∧ f (if better y q then y else q) ≤ f y := by
      split
      · exact ⟨le_of_lt ((hb _ _).1 ‹_›), le_refl _⟩
      · exact ⟨le_refl _, not_lt.1 fun h => ‹¬ _› ((hb _ _).2 h)⟩
    refine ⟨?_, ?_⟩
    · rcases List.mem_cons.1 hmem with h | h
      · rw [h]
        split <;> simp
      · exact List.mem_cons_of_mem _ (List.mem_cons_of_mem _ h)
    · intro x hx
      rcases List.mem_cons.1 hx with rfl | hx
      · exact hfirst.trans hpick.1
      · rcases List.mem_cons.1 hx with rfl | hx
        · exact hfirst.trans hpick.2
        · exact hle x (List.mem_cons_of_mem _ hx)

/-- The deadline requests among those that may be granted. -/
def deadlines (ps : List ArbReq) : List ArbReq := (eligible ps).filter (fun q => (rankSlack ps q).isSome)

/-- The rank of a deadline request: its slack, then its arrival. -/
def rankKey (ps : List ArbReq) (q : ArbReq) : ℤ ×ₗ ℕ := toLex ((rankSlack ps q).getD 0, q.order)

theorem rankKey_lt_iff (ps : List ArbReq) (a b : ArbReq) : rankKey ps a < rankKey ps b ↔
    (decide ((rankSlack ps a).getD 0 < (rankSlack ps b).getD 0) ||
      (decide ((rankSlack ps a).getD 0 = (rankSlack ps b).getD 0) && decide (a.order < b.order))) = true := by
  simp [rankKey, Prod.Lex.toLex_lt_toLex]

/-- What is granted: a deadline request of least rank, or, where there is none, the earliest of the others. -/
theorem pickGrant_spec {ps : List ArbReq} {q : ArbReq} (h : pickGrant ps = some q) :
    (q ∈ deadlines ps ∧ ∀ x ∈ deadlines ps, rankKey ps q ≤ rankKey ps x) ∨
    (deadlines ps = [] ∧ q ∈ eligible ps ∧ ∀ x ∈ eligible ps, q.order ≤ x.order) := by
  unfold pickGrant at h
  dsimp only at h
  split at h
  · rename_i p l hd
    cases h
    refine .inl ?_
    rw [show deadlines ps = p :: l from hd]
    exact foldl_least (rankKey ps) (fun a b => (rankKey_lt_iff ps a b).symm) l p
  · rename_i hd
    split at h
    · rename_i p l he
      cases h
      refine .inr ⟨hd, ?_⟩
      rw [he]
      exact foldl_least ArbReq.order (fun a b => Iff.rfl) l p
    · cases h

theorem mem_eligible {ps : List ArbReq} {q : ArbReq} : q ∈ eligible ps ↔
    q ∈ ps ∧ ∀ x ∈ ps, sameStream x.src q.src = true → q.order ≤ x.order := by
  simp [eligible]

theorem mem_deadlines {ps : List ArbReq} {q : ArbReq} : q ∈ deadlines ps ↔
    q ∈ eligible ps ∧ ∃ a, rankSlack ps q = some a := by
  simp [deadlines, Option.isSome_iff_exists]

theorem pickGrant_mem_eligible {ps : List ArbReq} {q : ArbReq} (h : pickGrant ps = some q) : q ∈ eligible ps := by
  rcases pickGrant_spec h with ⟨hq, -⟩ | ⟨-, hq, -⟩
  · exact (mem_deadlines.1 hq).1
  · exact hq

theorem pickGrant_least_slack {ps : List ArbReq} {q x : ArbReq} {a : Int} (h : pickGrant ps = some q)
    (hx : x ∈ eligible ps) (ha : rankSlack ps x = some a) :
    ∃ b, rankSlack ps q = some b ∧ (b < a ∨ b = a ∧ q.order ≤ x.order) := by
  have hxd : x ∈ deadlines ps := mem_deadlines.2 ⟨hx, a, ha⟩
  rcases pickGrant_spec h with ⟨hq, hle⟩ | ⟨hd, -⟩
  · obtain ⟨-, b, hb⟩ := mem_deadlines.1 hq
    refine ⟨b, hb, ?_⟩
    have hkey := hle x hxd
    simpa [rankKey, Prod.Lex.toLex_le_toLex, ha, hb] using hkey
  · rw [hd] at hxd; cases hxd

theorem pickGrant_earliest {ps : List ArbReq} {q x : ArbReq} (h : pickGrant ps = some q) (hn : rankSlack ps q = none)
    (hx : x ∈ eligible ps) : q.order ≤ x.order := by
  rcases pickGrant_spec h with ⟨hq, -⟩ | ⟨-, -, hle⟩
  · obtain ⟨-, b, hb⟩ := mem_deadlines.1 hq
    rw [hn] at hb; cases hb
  · exact hle x hx

end Sys2Proof.Machine
end

section
/-!
The grant and the granted access (R227, R228, R255–R259): what each leaves of the arbiters, of memory and of the streams.
-/
namespace Sys2Proof.Machine

/-! ## The grant -/

theorem exec_arbiterGrant_not_ready {k : Fin 12} {s : State} (h : (s.stack k.val).st ≠ .ready) :
    exec (.arbiterGrant k) s = .next s := congrArg Host.Outcome.next (if_pos (.inr h))

/-- A grant moves its request from the pending ones, aged, to the granted ones, and is counted where it was late. -/
theorem exec_arbiterGrant_ready {k : Fin 12} {s : State} {q : ArbReq} (hon : s.domOn (domStack k.val) = true)
    (hready : (s.stack k.val).st = .ready)
    (hq : pickGrant ((s.stack k.val).arb.pending.map (ArbReq.aging (s.beWait k.val))) = some q) :
    let t := s.setArb k.val { (s.stack k.val).arb with
      pending := ((s.stack k.val).arb.pending.map (ArbReq.aging (s.beWait k.val))).filter (fun x => decide (x.order ≠ q.order))
      granted := (s.stack k.val).arb.granted ++ [q] }
    Does (.arbiterGrant k) s (fun u => u.stks = t.stks ∧ u.mem = t.mem) := by
  intro t
  have hc : ¬ (¬ s.domOn (domStack k.val) = true ∨ (s.stack k.val).st ≠ .ready) := by
    rw [not_or, not_not, not_not]
    exact ⟨hon, hready⟩
  have hx : exec (.arbiterGrant k) s = .next (if q.aged then t.countStack k.val 0x0204 1 nobody
      else match q.slack with
        | some v => if v < 0 then t.countStack k.val 0x0203 1 nobody else t
        | none => t) := by
    refine congrArg Host.Outcome.next ((if_neg hc).trans ?_)
    dsimp only
    rw [hq] <;> rfl
  have hcount : ∀ ev, (t.countStack k.val ev 1 nobody).stks = t.stks ∧ (t.countStack k.val ev 1 nobody).mem = t.mem :=
    fun ev => ⟨State.countStack_see (π := State.stks) _ _ _ _ _ (by simp),
      State.countStack_see (π := State.mem) _ _ _ _ _ (by simp)⟩
  refine ⟨_, hx, ?_⟩
  split
  · exact hcount _
  · split
    · split
      · exact hcount _
      · exact ⟨rfl, rfl⟩
    · exact ⟨rfl, rfl⟩

/-! ## What the checks of lines leave (R258) -/

/-- The arbiter of stack `j`, as a view. -/
def State.arbOf (j : Nat) (s : State) : Arb := (s.stack j).arb

@[simp] theorem ign_arbOf (j : Nat) (f : Fld) (h : f ≠ .stks) : Ign (State.arbOf j) f := by
  cases f <;> first | exact absurd rfl h | exact fun _ _ => rfl

theorem State.arbOf_setArb (s : State) (k j : Nat) (a : Arb) : (s.setArb k a).arbOf j = if j = k then a else s.arbOf j := by
  rw [State.arbOf, State.stack_setArb]
  split <;> rfl

theorem State.arbOf_eccCheck (s : State) (k line j : Nat) (f : EccFind) :
    see (State.arbOf j) (s.eccCheck k line f) = see (State.arbOf j) s := by
  have hset : ∀ (t : State) (a : Nat), see (State.arbOf j) (t.setStack k { t.stack k with eccAddr := a }) = see (State.arbOf j) t := by
    intro t a
    simp only [see, State.arbOf, State.stack_setStack]
    split
    · rename_i h; rw [h]
    · rfl
  unfold State.eccCheck
  split
  · rfl
  · split
    · rfl
    · simp
    · dsimp only
      split
      · simp
      · rw [State.flag_see _ _ _ _ _ (by simp), hset]
        simp

/-- The committed registers of block `b`, as a view. -/
def State.commOf (b : BlkId) (s : State) : SMap W32 := (s.blk b).comm

@[simp] theorem ign_commOf (b : BlkId) (f : Fld) (h : f ≠ .blocks) : Ign (State.commOf b) f := by
  cases f <;> first | exact absurd rfl h | exact fun _ _ => rfl

theorem State.cfg_of_commOf {s t : State} {k : BlkKind} {u : Nat} (h : t.commOf ⟨k, u⟩ = s.commOf ⟨k, u⟩) (off hi lo : Nat) :
    t.cfg k u off hi lo = s.cfg k u off hi lo :=
  congrArg (fun m => bitsOf (SMap.get (resetWord k off) m off).toNat hi lo) h

/-- A flag is set beside the committed registers. -/
theorem State.commOf_flag (b : BlkId) (s : State) (k : BlkKind) (u off : Nat) (bits : W32) :
    see (State.commOf b) (s.flag k u off bits) = see (State.commOf b) s := by
  simp only [see, State.commOf, State.flag, State.blk_setBlk]
  split
  · rename_i h
    simp only [State.blk, h]
  · rfl

theorem State.commOf_count (b c : BlkId) (s : State) (ev q : Nat) (w : Who) :
    see (State.commOf b) (s.count c ev q w) = see (State.commOf b) s := by
  unfold State.count
  dsimp only
  split
  · rfl
  · split
    · rw [State.commOf_flag]; simp
    · simp

theorem State.commOf_eccCheck (b : BlkId) (s : State) (k line : Nat) (f : EccFind) :
    see (State.commOf b) (s.eccCheck k line f) = see (State.commOf b) s := by
  unfold State.eccCheck
  split
  · rfl
  · split
    · rfl
    · simp only [State.countStack, State.commOf_count, State.commOf_flag]
    · dsimp only
      have h : ∀ x, see (State.commOf b) (({ s with poison := x } : State).countStack k 0x0202 1 nobody) =
          see (State.commOf b) s := fun x => (State.commOf_count ..).trans rfl
      split
      · rw [State.commOf_flag, h]
      · rw [State.commOf_flag, State.setStack_see _ _ _ (by simp), h]

/-- The poisoned lines after a check (R258): a function of those before it. -/
theorem State.eccCheck_poison {s t : State} (h : s.poison = t.poison) (k line : Nat) (f : EccFind) :
    (s.eccCheck k line f).poison = (t.eccCheck k line f).poison := by
  have key : ∀ u : State, (u.eccCheck k line f).poison =
      if SMap.get false u.poison line = true then u.poison
      else if f = .uncorrectable then SMap.set false u.poison line true else u.poison := by
    intro u
    unfold State.eccCheck
    split
    · rfl
    · cases f with
      | clean => rfl
      | corrected => exact State.countStack_see (π := State.poison) _ _ _ _ _ (by simp)
      | uncorrectable =>
        dsimp only
        split
        · exact State.countStack_see (π := State.poison) _ _ _ _ _ (by simp)
        · exact State.countStack_see (π := State.poison) _ _ _ _ _ (by simp)
  rw [key, key, h]

theorem State.eccChecks_foldl {P : State → State → Prop}
    (step : ∀ s t k line f, P s t → P (s.eccCheck k line f) (t.eccCheck k line f)) {s t : State} (h : P s t) (k : Nat)
    (lines : List Nat) (ecc : List EccFind) : P (s.eccChecks k lines ecc) (t.eccChecks k lines ecc) := by
  unfold State.eccChecks
  generalize ecc.zipIdx = l
  induction l generalizing s t with
  | nil => exact h
  | cons e l ih =>
    rw [List.foldl_cons, List.foldl_cons]
    refine ih ?_
    cases lines[e.2]? with
    | none => exact h
    | some line => exact step _ _ _ _ _ h

theorem State.eccChecks_poison {s t : State} (h : s.poison = t.poison) (k : Nat) (lines : List Nat) (ecc : List EccFind) :
    (s.eccChecks k lines ecc).poison = (t.eccChecks k lines ecc).poison :=
  State.eccChecks_foldl (P := fun s t => s.poison = t.poison) (fun _ _ k line f h => State.eccCheck_poison h k line f) h ..

/-- A view that no check of a line changes. -/
theorem State.eccChecks_view {α : Type} (π : State → α) (hc : ∀ s k line f, see π (s.eccCheck k line f) = see π s) (s : State)
    (k : Nat) (lines : List Nat) (ecc : List EccFind) : see π (s.eccChecks k lines ecc) = see π s := by
  unfold State.eccChecks
  refine foldl_see _ (fun t e => ?_) _ _
  split
  · exact hc ..
  · rfl

theorem State.arbOf_eccChecks (s : State) (k j : Nat) (lines : List Nat) (ecc : List EccFind) :
    (s.eccChecks k lines ecc).arbOf j = s.arbOf j :=
  State.eccChecks_view (State.arbOf j) (fun s k line f => s.arbOf_eccCheck k line j f) ..

theorem State.commOf_eccChecks (b : BlkId) (s : State) (k : Nat) (lines : List Nat) (ecc : List EccFind) :
    (s.eccChecks k lines ecc).commOf b = s.commOf b :=
  State.eccChecks_view (State.commOf b) (State.commOf_eccCheck b) ..

/-! ## The granted access -/

/-- The lines that an access has checked (R258, R259). -/
def ArbReq.checkedLines (q : ArbReq) : List Nat := if q.write then partLines q.addr q.len else linesOf q.addr q.len

/-- A stream's request is still wanted while its stream waits for it. -/
def State.wants (s : State) (q : ArbReq) : Bool :=
  match q.src with
  | .stream _ _ _ => (s.arbStream q.src).isSome
  | _ => true

theorem State.wants_eq_false_iff (s : State) (q : ArbReq) :
    s.wants q = false ↔ (∃ t sid seq, q.src = .stream t sid seq) ∧ s.arbStream q.src = none := by
  unfold State.wants
  cases h : q.src with
  | stream t sid seq => simp
  | _ => simp

theorem State.wants_of_stes {s t : State} (h : t.stes = s.stes) (q : ArbReq) : t.wants q = s.wants q := by
  have ha : t.arbStream q.src = s.arbStream q.src := by
    unfold State.arbStream State.ste
    rw [h]
  unfold State.wants
  rw [ha]

theorem State.poisoned_of_poison {s t : State} (h : t.poison = s.poison) (a n : Nat) : t.poisoned a n = s.poisoned a n := by
  rw [State.poisoned, State.poisoned, h]

theorem State.readBytes_of_mem {s t : State} (h : t.mem = s.mem) (a n : Nat) : t.readBytes a n = s.readBytes a n := by
  simp only [State.readBytes, State.readByte, h]

theorem answerStream_reply {s : State} {t : Fin 48} {sid : Fin 16} {seq : Nat} {f : FarReply} {r : StreamReq}
    (hr : r ∈ (((s.answerStream (.stream t sid seq) f).ste t.val).stream sid.val).reqs) (hseq : r.seq = seq) :
    r.reply = some f := by
  simp only [State.answerStream, State.ste_setSte, if_true, Ste.stream, Ste.setStream, SMap.get_set, List.mem_map] at hr
  obtain ⟨p, -, rfl⟩ := hr
  split at hseq
  · rw [if_pos ‹_›]
  · exact absurd hseq ‹_›

section
variable {k : Fin 12} {ecc : List EccFind} {ns : Nat} {s : State} {q : ArbReq} {rest : List ArbReq}

/-- The state in which a granted request is performed: it is taken, and its lines are checked. -/
def State.takeGrant (s : State) (k : Nat) (q : ArbReq) (rest : List ArbReq) (ecc : List EccFind) : State :=
  (s.setArb k { (s.stack k).arb with granted := rest }).eccChecks k q.checkedLines ecc

theorem State.takeGrant_arb (s : State) (k : Nat) (q : ArbReq) (rest : List ArbReq) (ecc : List EccFind) :
    ((s.takeGrant k q rest ecc).stack k).arb = { (s.stack k).arb with granted := rest } :=
  (State.arbOf_eccChecks ..).trans ((State.arbOf_setArb ..).trans (if_pos rfl))

theorem State.takeGrant_mem (s : State) (k : Nat) (q : ArbReq) (rest : List ArbReq) (ecc : List EccFind) :
    (s.takeGrant k q rest ecc).mem = s.mem :=
  State.eccChecks_see (π := State.mem) _ _ _ _ (by simp)

theorem State.takeGrant_stes (s : State) (k : Nat) (q : ArbReq) (rest : List ArbReq) (ecc : List EccFind) :
    (s.takeGrant k q rest ecc).stes = s.stes :=
  State.eccChecks_see (π := State.stes) _ _ _ _ (by simp)

theorem State.takeGrant_meshNs (s : State) (k : Nat) (q : ArbReq) (rest : List ArbReq) (ecc : List EccFind) :
    (s.takeGrant k q rest ecc).cfg .nme k 0xF00 15 0 = s.cfg .nme k 0xF00 15 0 :=
  State.cfg_of_commOf (State.commOf_eccChecks ..) ..

theorem State.takeGrant_poison (s : State) (k : Nat) (q : ArbReq) (rest : List ArbReq) (ecc : List EccFind) :
    (s.takeGrant k q rest ecc).poison = (s.eccChecks k q.checkedLines ecc).poison :=
  State.eccChecks_poison (State.setArb_see (π := State.poison) _ _ _ (by simp)) ..

variable (hg : (s.stack k.val).arb.granted = q :: rest)
include hg

theorem exec_stackAccess_write (hw : q.write = true) :
    let v := s.takeGrant k.val q rest ecc
    exec (.stackAccess k ecc ns) s = .next
      (((if v.wants q then v.writeBytes q.addr (q.data.take q.len) else v).countStack k.val 0x0206 q.len nobody).answerStream
        q.src (.ok [])) := by
  refine congrArg Host.Outcome.next ?_
  dsimp only
  rw [hg]
  exact if_pos hw

theorem exec_stackAccess_read (hw : q.write = false) :
    let v := s.takeGrant k.val q rest ecc
    let w := (v.setArb k.val { (v.stack k.val).arb with
      latEst := latNext (s.stack k.val).arb.latEst.toNat (ns + v.cfg .nme k.val 0xF00 15 0) }).countStack k.val 0x0205 q.len
        nobody
    exec (.stackAccess k ecc ns) s = .next
      (w.answerStream q.src (if w.poisoned q.addr q.len then .memError else .ok (w.readBytes q.addr q.len))) := by
  refine congrArg Host.Outcome.next ?_
  dsimp only
  rw [hg]
  exact if_neg (by rw [hw]; decide)

/-- A write stores its data, but for one that its stream no longer waits for. -/
theorem stackAccess_write (hw : q.write = true) : Does (.stackAccess k ecc ns) s (fun u =>
    (u.stack k.val).arb = { (s.stack k.val).arb with granted := rest } ∧
    u.mem = if s.wants q then memPut s.mem q.addr (q.data.take q.len) else s.mem) := by
  refine ⟨_, exec_stackAccess_write hg hw, ?_, ?_⟩
  · rw [← s.takeGrant_arb k.val q rest ecc]
    refine congrArg Stack.arb (State.stack_of_stks ?_ _)
    refine (State.answerStream_see (π := State.stks) _ _ _ (by simp)).trans ?_
    refine (State.countStack_see (π := State.stks) _ _ _ _ _ (by simp)).trans ?_
    split
    · exact State.writeBytes_see (π := State.stks) _ _ _ (by simp)
    · rfl
  · rw [← State.wants_of_stes (s.takeGrant_stes k.val q rest ecc) q]
    refine (State.answerStream_see (π := State.mem) _ _ _ (by simp)).trans ?_
    refine (State.countStack_see (π := State.mem) _ _ _ _ _ (by simp)).trans ?_
    rw [see_eq]
    split
    · exact congrArg (memPut · _ _) (s.takeGrant_mem ..)
    · exact s.takeGrant_mem ..

/-- A read stores nothing, updates LAT_EST and answers its stream. -/
theorem stackAccess_read (hw : q.write = false) : Does (.stackAccess k ecc ns) s (fun u =>
    (u.stack k.val).arb = { (s.stack k.val).arb with
      granted := rest, latEst := latNext (s.stack k.val).arb.latEst.toNat (ns + s.cfg .nme k.val 0xF00 15 0) } ∧
    u.mem = s.mem ∧ (∀ t sid seq, q.src = .stream t sid seq → ∀ r ∈ ((u.ste t.val).stream sid.val).reqs, r.seq = seq →
      r.reply = some (if (s.eccChecks k.val q.checkedLines ecc).poisoned q.addr q.len then .memError
        else .ok (s.readBytes q.addr q.len)))) := by
  refine ⟨_, exec_stackAccess_read hg hw, ?_, ?_, ?_⟩
  · rw [← s.takeGrant_meshNs k.val q rest ecc]
    refine (State.answerStream_see (π := State.arbOf k.val) _ _ _ (by simp)).trans ?_
    refine (State.countStack_see (π := State.arbOf k.val) _ _ _ _ _ (by simp)).trans ?_
    refine (State.arbOf_setArb ..).trans ((if_pos rfl).trans ?_)
    rw [State.takeGrant_arb]
  · refine (State.answerStream_see (π := State.mem) _ _ _ (by simp)).trans ?_
    refine (State.countStack_see (π := State.mem) _ _ _ _ _ (by simp)).trans ?_
    exact (State.setArb_see (π := State.mem) _ _ _ (by simp)).trans (s.takeGrant_mem ..)
  · intro t sid seq hsrc r hr hseq
    rw [hsrc] at hr
    rw [answerStream_reply hr hseq]
    generalize hW : State.countStack _ k.val 0x0205 q.len nobody = w
    have hmem : w.mem = s.mem := by
      rw [← hW]
      refine (State.countStack_see (π := State.mem) _ _ _ _ _ (by simp)).trans ?_
      exact (State.setArb_see (π := State.mem) _ _ _ (by simp)).trans (s.takeGrant_mem ..)
    have hpoison : w.poison = (s.eccChecks k.val q.checkedLines ecc).poison := by
      rw [← hW]
      refine (State.countStack_see (π := State.poison) _ _ _ _ _ (by simp)).trans ?_
      exact (State.setArb_see (π := State.poison) _ _ _ (by simp)).trans (s.takeGrant_poison ..)
    rw [State.poisoned_of_poison hpoison, State.readBytes_of_mem hmem]

end

end Sys2Proof.Machine

open Sys2Proof Sys2Proof.Machine

/-- Settles O31: each row's equation, and the order in which a fold over the pending requests ranks them. -/
theorem arbiterGrantsTheLeastSlack : Obligations.ArbiterGrantsTheLeastSlack := by
  refine ⟨fun k t sid seq addr len write data s r => ?stream, fun k src addr len write data s => ?other,
    fun k i s q hq => ⟨fun hn hw => ?aged, fun h => ?kept⟩, fun ps q h => ?pick, fun k s q hon => ?grant,
    fun k ecc ns s q rest => ?access⟩
  case stream =>
    intro a x hup hr haddr hnew
    refine ⟨fun hb => ?_, exec_arbiterAccept_full, fun hroom hb => ?_⟩
    · by_cases hroom : a.pending.length < 512
      · exact (exec_arbiterAccept_stream hup hr hroom).trans (congrArg _ (if_pos (.inr (.inr hb))))
      · exact exec_arbiterAccept_full (not_lt.1 hroom)
    · refine (exec_arbiterAccept_stream hup hr hroom).trans (congrArg _ (if_neg ?_))
      simp [haddr, hnew, hb, a]
  case other =>
    intro a hsrc hup haddr hroom
    exact exec_arbiterAccept_other hsrc hup haddr hroom
  case aged => rw [exec_arbiterAgeing_at hq, ArbReq.aging_of_waited hn hw]
  case kept =>
    refine ⟨_, exec_arbiterAgeing_at hq, fun j => ?_, rfl⟩
    obtain ⟨hi, rfl⟩ := List.getElem?_eq_some_iff.1 hq
    rw [ArbReq.aging_of_not h, List.set_getElem_self hi, State.stack_setArb]
    split
    · rename_i hj; rw [hj]
    · rfl
  case pick =>
    have he := mem_eligible.1 (pickGrant_mem_eligible h)
    exact ⟨he.1, he.2, fun x hx a ha => pickGrant_least_slack h hx ha, fun hn x hx => pickGrant_earliest h hn hx⟩
  case grant =>
    refine ⟨exec_arbiterGrant_not_ready, fun hready hq => ?_⟩
    obtain ⟨u, hu, hs, hm⟩ := exec_arbiterGrant_ready hon hready hq
    have hstack := fun j => (State.stack_of_stks hs j).trans (State.stack_setArb ..)
    refine ⟨u, hu, ?_, hm, fun j hj => (hstack j).trans (if_neg hj)⟩
    rw [hstack, if_pos rfl]
  case access =>
    intro v dropped hg
    refine ⟨fun hw => ?_, stackAccess_read hg⟩
    obtain ⟨u, hu, harb, hmem⟩ := stackAccess_write hg hw
    refine ⟨u, hu, harb, fun hd => ?_, fun hd => ?_⟩
    · rw [hmem, if_pos (Bool.not_eq_false _ ▸ fun h => hd ((s.wants_eq_false_iff q).1 h))]
    · rw [hmem, (s.wants_eq_false_iff q).2 hd]
      rfl
end

section
/-!
Power, temperatures, domain switches and boundary scan (R24, R466–R482): what each row leaves of the supplies.
-/
namespace Sys2Proof.Machine

/-! ## Supplies -/

theorem getLsbD_one_bit {d i : Nat} (hi : i < 88) : (BitVec.ofNat 88 (2 ^ d)).getLsbD i = decide (d = i) := by
  rw [BitVec.getLsbD_ofNat, Nat.testBit_two_pow, decide_eq_true hi, Bool.true_and]

/-- A domain that is ordered on or off is so at once, and no other changes (R472). -/
theorem State.domOn_setDom (s : State) {d : Nat} (on : Bool) (hd : d < 88) : (s.setDom d on).domOn d = on := by
  have hbit := getLsbD_one_bit (d := d) hd
  cases on with
  | true =>
    change (s.pwr.on ||| BitVec.ofNat 88 (2 ^ d)).getLsbD d = true
    rw [BitVec.getLsbD_or, hbit, decide_eq_true rfl, Bool.or_true]
  | false =>
    change (s.pwr.on &&& ~~~(BitVec.ofNat 88 (2 ^ d))).getLsbD d = false
    rw [BitVec.getLsbD_and, BitVec.getLsbD_not, hbit, decide_eq_true rfl, Bool.not_true, Bool.and_false, Bool.and_false]

theorem State.domOn_setDom_off (s : State) (d : Nat) : (s.setDom d false).domOn d = false := by
  by_cases hd : d < 88
  · exact s.domOn_setDom false hd
  · exact BitVec.getLsbD_of_ge _ _ (not_lt.1 hd)

theorem State.domOn_of_pwr {s t : State} (h : t.pwr = s.pwr) (d : Nat) : t.domOn d = s.domOn d := by
  rw [State.domOn, State.domOn, h]

/-- What a unit loses with its domain is no supply. -/
theorem State.domainOff_pwr (s : State) (d : Nat) : (s.domainOff d).pwr = (s.setDom d false).pwr :=
  State.loseUnit_see (π := State.pwr) _ _ (by simp)

theorem State.domainOn_pwr {s : State} (h : s.pwr.conv = true) (d links : Nat) :
    (s.domainOn d links).pwr = (s.setDom d true).pwr := by
  have hl : see State.pwr ((s.setDom d true).loseUnit d) = see State.pwr (s.setDom d true) :=
    State.loseUnit_see _ _ (by simp)
  refine Eq.trans (?_ : see State.pwr (s.domainOn d links) = _) hl
  unfold State.domainOn
  rw [if_neg (not_not.2 h)]
  dsimp only
  split <;> simp

/-! ## Samples of power and the clamp (R466–R468) -/

/-- The sample as PWR_PKG and PWR_VIN show it: the power is held while the clamp has latched it. -/
def Pwr.sample (p : Pwr) (vin iin pq : BitVec 16) : Pwr :=
  { p with sampled := true, vinMv := vin, iin := iin, powerQ := if p.latched then p.powerQ else pq }

theorem exec_powerSample_on {s : State} (h : s.pwr.aux = true) (vin iin pq : BitVec 16) :
    exec (.powerSample vin iin pq) s = .next (({ s with pwr := s.pwr.sample vin iin pq } : State).sensorEvent 1 0) :=
  congrArg Host.Outcome.next (if_neg (not_not.2 h))

theorem powerSample_on {s : State} (h : s.pwr.aux = true) (vin iin pq : BitVec 16) :
    Does (.powerSample vin iin pq) s (fun t => t.pwr = s.pwr.sample vin iin pq ∧
      t.except [.pwr, .out, .free] = s.except [.pwr, .out, .free]) :=
  ⟨_, exec_powerSample_on h vin iin pq, State.sensorEvent_see (π := State.pwr) _ _ _ (by simp),
    State.sensorEvent_see (π := State.except [.pwr, .out, .free]) _ _ _ (by simp)⟩

theorem exec_powerSample_off {s : State} (h : s.pwr.aux = false) (vin iin pq : BitVec 16) :
    exec (.powerSample vin iin pq) s = .next s :=
  congrArg Host.Outcome.next (if_pos (by rw [h]; decide))

theorem State.clamp_engages {s : State} {iin : BitVec 16} (hc : s.pwr.conv = true) (hi : 5000 < iin.toNat) :
    s.clamp iin = ({ s with pwr := { s.pwr with clampOn := true, latched := true } } : State).startTimer .clamp .mgmt 1000000 :=
  if_pos ⟨hc, hi⟩

theorem State.clamp_idle {s : State} {iin : BitVec 16} (h : s.pwr.conv = false ∨ iin.toNat ≤ 5000) : s.clamp iin = s := by
  refine if_neg ?_
  rintro ⟨hc, hi⟩
  rcases h with h | h
  · rw [h] at hc; cases hc
  · omega

theorem exec_currentClamp_off {s : State} (h : s.pwr.clampOn = false) (iin : BitVec 16) :
    exec (.currentClamp iin) s = .next (s.clamp iin) := congrArg Host.Outcome.next (if_neg (by rw [h]; decide))

theorem exec_currentClamp_on {s : State} (h : s.pwr.clampOn = true) (iin : BitVec 16) :
    exec (.currentClamp iin) s = .next s := congrArg Host.Outcome.next (if_pos h)

theorem exec_currentClamp_idle {s : State} {iin : BitVec 16}
    (h : s.pwr.clampOn = true ∨ s.pwr.conv = false ∨ iin.toNat ≤ 5000) : exec (.currentClamp iin) s = .next s := by
  cases hon : s.pwr.clampOn with
  | true => exact exec_currentClamp_on hon iin
  | false =>
    rw [exec_currentClamp_off hon, State.clamp_idle]
    exact h.resolve_left (by rw [hon]; decide)

theorem State.timerRuns_startTimer (s : State) (i : TimerId) (l : Island) (n : Nat) :
    (s.startTimer i l n).timerRuns i = true := by
  simp [State.timerRuns, State.startTimer]

theorem State.timerRuns_stopTimer (s : State) (i : TimerId) : (s.stopTimer i).timerRuns i = false := by
  simp [State.timerRuns, State.stopTimer]

/-- The clamp let go after its millisecond. -/
def State.unclamp (s : State) : State :=
  ({ s with pwr := { s.pwr with clampOn := false, latched := false } } : State).stopTimer .clamp

theorem exec_currentClampRelease_due {s : State} (hon : s.pwr.clampOn = true) (he : s.expired .clamp = true)
    (iin : BitVec 16) : exec (.currentClampRelease iin) s = .next (s.unclamp.clamp iin) := by
  refine congrArg Host.Outcome.next (if_neg ?_)
  rw [not_or, not_not, not_not]
  exact ⟨hon, he⟩

theorem currentClampRelease_due {s : State} (hon : s.pwr.clampOn = true) (he : s.expired .clamp = true) (iin : BitVec 16) :
    Does (.currentClampRelease iin) s (fun t =>
      (t.pwr.clampOn = true ↔ s.pwr.conv = true ∧ 5000 < iin.toNat) ∧ t.pwr.latched = t.pwr.clampOn ∧
      t.timerRuns .clamp = t.pwr.clampOn ∧ t.except [.pwr, .timers] = s.except [.pwr, .timers]) := by
  refine ⟨_, exec_currentClampRelease_due hon he iin, ?_⟩
  by_cases hi : s.pwr.conv = true ∧ 5000 < iin.toNat
  · rw [State.clamp_engages (s := s.unclamp) hi.1 hi.2]
    exact ⟨⟨fun _ => hi, fun _ => rfl⟩, rfl, State.timerRuns_startTimer .., rfl⟩
  · have hidle : s.pwr.conv = false ∨ iin.toNat ≤ 5000 := by
      rcases not_and_or.1 hi with h | h
      · exact .inl (Bool.eq_false_iff.2 h)
      · exact .inr (not_lt.1 h)
    rw [State.clamp_idle (s := s.unclamp) hidle]
    exact ⟨⟨fun h => absurd h Bool.false_ne_true, fun h => absurd h hi⟩, rfl, State.timerRuns_stopTimer .., rfl⟩

theorem exec_currentClampRelease_early {s : State} (h : s.pwr.clampOn = false ∨ s.expired .clamp = false) (iin : BitVec 16) :
    exec (.currentClampRelease iin) s = .next s := by
  refine congrArg Host.Outcome.next (if_pos ?_)
  rcases h with h | h
  · exact .inl (by rw [h]; decide)
  · exact .inr (by rw [h]; decide)

/-! ## PWR_DOM_CMD and its end (R472–R474) -/

theorem exec_domainOn_reached {m : Master} {d : BitVec 7} {s : State} (h : s.domReach m = true) :
    exec (.domainOn m d) s = .next (s.domCmd m d.toNat true) := congrArg Host.Outcome.next (if_pos h)

theorem exec_domainOff_reached {m : Master} {d : BitVec 7} {s : State} (h : s.domReach m = true) :
    exec (.domainOff m d) s = .next (s.domCmd m d.toNat false) := congrArg Host.Outcome.next (if_pos h)

theorem exec_domain_unreached {m : Master} {d : BitVec 7} {s : State} (h : s.domReach m = false) :
    exec (.domainOn m d) s = .next s ∧ exec (.domainOff m d) s = .next s :=
  ⟨congrArg Host.Outcome.next (if_neg (by rw [h]; decide)), congrArg Host.Outcome.next (if_neg (by rw [h]; decide))⟩

theorem State.domCmd_refused {s : State} {m : Master} {d : Nat} {on : Bool} (h : s.judgeDomain m d on ≠ 0) :
    s.domCmd m d on = { s with pwr := { s.pwr with domRes := s.judgeDomain m d on } } := if_pos h

theorem State.domCmd_on {s : State} {m : Master} {d : Nat} (h : s.judgeDomain m d true = 0) :
    s.domCmd m d true = { s with pwr := { s.pwr with domRes := 0, switch := some ⟨d, true⟩ } } := by
  unfold State.domCmd
  simp [h]

theorem State.domCmd_off {s : State} {m : Master} {d : Nat} (h : s.judgeDomain m d false = 0) :
    (s.domCmd m d false).pwr.domRes = 0 ∧ (s.domCmd m d false).pwr.switch = some ⟨d, false⟩ ∧
      (s.domCmd m d false).domOn d = false := by
  have hx : s.domCmd m d false =
      (let t : State := { s with pwr := { s.pwr with domRes := 0, switch := some ⟨d, false⟩ } }
       match domUnit d with
       | .stack k => (t.domainOff (domNme k)).setDom d false
       | _ => t.setDom d false) := by
    unfold State.domCmd
    simp only [h, ne_eq, not_true_eq_false, if_false, Bool.false_eq_true] <;> rfl
  rw [hx]
  dsimp only
  split
  · rename_i k _
    generalize ht : ({ s with pwr := _ } : State) = t
    have hp := t.domainOff_pwr (domNme k)
    refine ⟨?_, ?_, State.domOn_setDom_off ..⟩
    · refine (congrArg Pwr.domRes hp).trans ?_
      subst ht; rfl
    · refine (congrArg Pwr.switch hp).trans ?_
      subst ht; rfl
  · exact ⟨rfl, rfl, State.domOn_setDom_off ..⟩

theorem exec_domainSwitchDone_none {s : State} (h : s.pwr.switch = none) : exec .domainSwitchDone s = .next s := by
  refine congrArg Host.Outcome.next ?_
  rw [h]

section
variable {s : State} {w : DomSwitch} (h : s.pwr.switch = some w)
include h

theorem exec_domainSwitchDone_unpowered (hc : s.pwr.conv = false) :
    exec .domainSwitchDone s = .next { s with pwr := { s.pwr with switch := none, domRes := 0x06 } } := by
  refine congrArg Host.Outcome.next ?_
  rw [h]
  dsimp only
  rw [if_neg (by simp [hc]), if_pos (by simp [hc])]

theorem exec_domainSwitchDone_waits (hc : s.pwr.conv = true) (hoff : w.on = false) (hb : s.chansIdle w.dom = false) :
    exec .domainSwitchDone s = .next s := by
  refine congrArg Host.Outcome.next ?_
  rw [h]
  dsimp only
  rw [if_pos ⟨hc, by simp [hoff], by simp [hb]⟩]

/-- The end of a switch: the domain is on or off as ordered, whatever resets go on from there. -/
theorem domainSwitchDone_ends (hc : s.pwr.conv = true) (hd : w.dom < 88) (hi : w.on = true ∨ s.chansIdle w.dom = true) :
    Does .domainSwitchDone s (fun t => t.pwr.switch = none ∧ t.domOn w.dom = w.on) := by
  let u : State := { s with pwr := { s.pwr with switch := none } }
  have hx : exec .domainSwitchDone s = .next (if w.on then (if u.domOn w.dom then u
      else u.domainOn w.dom (imageLinks u.img.applied)) else u.domainOff w.dom).pumpResets := by
    have hgo : ¬ (s.pwr.conv = true ∧ ¬ w.on = true ∧ ¬ s.chansIdle w.dom = true) := by
      rintro ⟨-, h1, h2⟩
      exact hi.elim h1 h2
    refine congrArg Host.Outcome.next ?_
    rw [h]
    dsimp only
    rw [if_neg hgo, if_neg (not_not.2 hc)]
  have key : ∀ v : State, v.pwr.switch = none → v.domOn w.dom = w.on →
      v.pumpResets.pwr.switch = none ∧ v.pumpResets.domOn w.dom = w.on := by
    intro v h1 h2
    have hp : v.pumpResets.pwr = v.pwr := State.pumpResets_see (π := State.pwr) v (by simp)
    exact ⟨hp ▸ h1, (State.domOn_of_pwr hp _).trans h2⟩
  refine ⟨_, hx, ?_⟩
  cases hw : w.on with
  | true =>
    rw [hw] at key
    rw [if_pos rfl]
    split
    · exact key u rfl ‹_›
    · have hp := State.domainOn_pwr (s := u) hc w.dom (imageLinks u.img.applied)
      exact key _ (congrArg Pwr.switch hp) ((State.domOn_of_pwr hp _).trans (u.domOn_setDom true hd))
  | false =>
    rw [hw] at key
    rw [if_neg Bool.false_ne_true]
    have hp := u.domainOff_pwr w.dom
    exact key _ (congrArg Pwr.switch hp) ((State.domOn_of_pwr hp _).trans (u.domOn_setDom false hd))

end

/-! ## Boundary scan (R482) -/

theorem State.selectJtag_unpowered {s : State} (h : s.pwr.aux = false) (j : Jtag) : s.selectJtag j = s :=
  if_pos (by rw [h]; decide)

/-- The three instructions that hold chip start change nothing else. -/
theorem State.selectJtag_holding {s : State} (h : s.pwr.aux = true) {j : Jtag}
    (hj : ({ s with jtag := j } : State).startHeld = true) : s.selectJtag j = { s with jtag := j } := by
  unfold State.selectJtag
  rw [if_neg (not_not.2 h)]
  exact if_pos hj

theorem State.selectJtag_releasing {s : State} (h : s.pwr.aux = true) {j : Jtag}
    (hj : ({ s with jtag := j } : State).startHeld = false) : s.selectJtag j = ({ s with jtag := j } : State).pcieStart := by
  unfold State.selectJtag
  rw [if_neg (not_not.2 h)]
  exact if_neg (by rw [hj]; decide)

/-- Where no instruction holds chip start, PCI Express comes on with it if nothing else holds it off (R476). -/
theorem State.pcieStart_cases {s : State} (hh : s.startHeld = false) :
    s.pcieStart.jtag = s.jtag ∧
    ((s.pwr.conv = false ∨ s.pcx.perst = true ∨ s.domOn domPcie = true ∨ s.boot.fromMgmt = true) → s.pcieStart = s) ∧
    (s.pwr.conv = true → s.pcx.perst = false → s.boot.fromMgmt = false → s.pcieStart.domOn domPcie = true) := by
  refine ⟨State.pcieStart_see (π := State.jtag) s (by simp), fun hc => if_neg ?_, fun hc hp hf => ?_⟩
  · rintro ⟨h1, h2, -, h3, h4⟩
    rcases hc with hc | hc | hc | hc
    · rw [hc] at h1; cases h1
    · exact h2 hc
    · exact h3 hc
    · exact h4 hc
  · cases hon : s.domOn domPcie with
    | true =>
      have hx : s.pcieStart = s := if_neg (by simp [hon])
      rw [hx, hon]
    | false =>
      have hx : s.pcieStart = s.domainOn domPcie 0 := if_pos (by simp [hc, hp, hh, hon, hf])
      rw [hx, State.domOn_of_pwr (State.domainOn_pwr hc ..), State.domOn_setDom _ _ (by decide)]

end Sys2Proof.Machine
end

section
/-!
A thermal sample (R477, R478): temperatures, throttles and the trip.
-/
namespace Sys2Proof.Machine

theorem throttle_iff (on : Bool) (t lim : Nat) : throttle on t lim = true ↔ lim ≤ t ∨ (on = true ∧ lim - 5 < t) := by
  simp [throttle]

/-- What a thermal sample writes of the halves, the I/O die and the hottest stack. -/
def Pwr.heat (p : Pwr) (h0 h1 io top : Byte) : Pwr :=
  { p with
    half0 := h0, half1 := h1, ioDie := io, stackMax := top
    throttleHalf := (List.range 2).filter (fun h =>
      throttle (p.throttleHalf.contains h) (if h = 0 then h0 else h1).toNat 105) }

theorem Pwr.mem_heat_throttleHalf (p : Pwr) (h0 h1 io top : Byte) {h : Nat} (hh : h < 2) :
    h ∈ (p.heat h0 h1 io top).throttleHalf ↔
      105 ≤ (if h = 0 then h0 else h1).toNat ∨ (h ∈ p.throttleHalf ∧ 100 < (if h = 0 then h0 else h1).toNat) := by
  simp only [Pwr.heat, List.mem_filter, List.mem_range, hh, true_and, throttle_iff, List.contains_iff_mem]

/-- A stack's temperature, HOT and its throttle after a sample. -/
def Stack.heat (x : Stack) (t : Byte) : Stack :=
  { x with temp := t, hot := decide (85 < t.toNat), throttled := throttle x.throttled t.toNat 95 }

/-- The first `n` stacks take their temperatures, those that are on. -/
def State.heatStacks (s : State) (ks : List Byte) (n : Nat) : State :=
  (List.range n).foldl (fun s k =>
    if s.domOn (domStack k) then s.setStack k ((s.stack k).heat (ks.getD k 0)) else s) s

theorem State.heatStacks_succ (s : State) (ks : List Byte) (n : Nat) : s.heatStacks ks (n + 1) =
    (let t := s.heatStacks ks n
     if t.domOn (domStack n) then t.setStack n ((t.stack n).heat (ks.getD n 0)) else t) := by
  rw [State.heatStacks, List.range_succ, List.foldl_append]
  rfl

theorem State.heatStacks_pwr (s : State) (ks : List Byte) (n : Nat) : (s.heatStacks ks n).pwr = s.pwr :=
  foldl_see (π := State.pwr) _ (fun t k => by split <;> simp) _ s

theorem State.stack_heatStacks (s : State) (ks : List Byte) (n k : Nat) : (s.heatStacks ks n).stack k =
    if k < n ∧ s.domOn (domStack k) = true then (s.stack k).heat (ks.getD k 0) else s.stack k := by
  induction n generalizing k with
  | zero => simp [State.heatStacks]
  | succ n ih =>
    have hn : (s.heatStacks ks n).stack n = s.stack n := (ih n).trans (if_neg fun h => absurd h.1 (lt_irrefl n))
    have hlt : k ≠ n → (k < n + 1 ↔ k < n) := fun hk => by omega
    rw [State.heatStacks_succ]
    dsimp only
    rw [State.domOn_of_pwr (s.heatStacks_pwr ks n), hn]
    by_cases hk : k = n
    · subst hk
      split
      · rename_i hon
        rw [State.stack_setStack, if_pos rfl, if_pos ⟨Nat.lt_succ_self k, hon⟩]
      · rename_i hoff
        rw [hn, if_neg fun h => hoff h.2]
    · split
      · rw [State.stack_setStack, if_neg hk, ih]
        simp only [hlt hk]
      · simp only [ih, hlt hk]

/-- THERM_TRIP latched (R478). -/
def State.latchTrip (s : State) : State := { s with pwr := { s.pwr with tripped := true, thermTrip := true } }

/-- The state after a trip (R478): everything on the converters is lost. -/
def State.trip (s : State) : State := (s.emit .thermTrip).loseAll.latchTrip

theorem State.latchTrip_out (s : State) : s.latchTrip.out = s.out := rfl

theorem State.mem_out_trip (s : State) : Out.thermTrip ∈ s.trip.out := by
  have h : s.trip.out = s.out ++ [Out.thermTrip] :=
    (State.latchTrip_out _).trans (State.loseAll_see (π := State.out) (s.emit .thermTrip) (by simp))
  rw [h]
  exact List.mem_append_right _ (List.mem_singleton_self _)

theorem State.trip_pwr (s : State) : s.trip.pwr.tripped = true ∧ s.trip.pwr.thermTrip = true ∧ s.trip.pwr.conv = false ∧
    s.trip.pwr.on = 0 := ⟨rfl, rfl, rfl, rfl⟩

theorem exec_thermalSample_unpowered {h0 h1 io : Byte} {ks : List Byte} {s : State} (hl : ks.length = 12)
    (ha : s.pwr.aux = false) : exec (.thermalSample h0 h1 io ks) s = .next s :=
  (okIf_true (decide_eq_true hl) _).trans (congrArg _ (if_pos (by rw [ha]; decide)))

/-- A sample writes the temperatures, may warn and send events, and then trips or not. -/
theorem exec_thermalSample_powered {h0 h1 io : Byte} {ks : List Byte} {s : State} (hl : ks.length = 12)
    (ha : s.pwr.aux = true) :
    let top := ks.foldl (fun a b => if a.toNat < b.toNat then b else a) 0
    let u := ({ s with pwr := s.pwr.heat h0 h1 io top } : State).heatStacks ks 12
    ∃ t : State, t.pwr = u.pwr ∧ t.stks = u.stks ∧ exec (.thermalSample h0 h1 io ks) s = .next
      (if ¬ t.pwr.tripped ∧ (115 ≤ h0.toNat ∨ 115 ≤ h1.toNat ∨ 115 ≤ io.toNat ∨ 105 ≤ top.toNat) then t.trip else t) := by
  intro top u
  have hview {α : Type} (π : State → α) (hW : Ign π .blocks ∧ Ign π .out ∧ Ign π .free) (warn : Bool) :
      see π (((((if warn then (u.flag .pwr 0 0x58 (bit 29)).alert (bit 31) else u).sensorEvent 4 h0.toNat).sensorEvent 5
        h1.toNat).sensorEvent 6 io.toNat).sensorEvent 7 top.toNat) = see π u := by
    cases warn <;> simp [hW]
  have hx : exec (.thermalSample h0 h1 io ks) s = execThermalSample h0 h1 io ks s := rfl
  conv at hx => rhs; unfold execThermalSample
  rw [okIf_true (decide_eq_true hl), if_neg (not_not.2 ha)] at hx
  extract_lets old temp warnC warnD warn halves s₁ s₂ s₃ s₄ s₅ at hx
  exact ⟨s₄, hview State.pwr (by simp) warn, hview State.stks (by simp) warn, hx⟩

theorem thermalSample_cool {h0 h1 io : Byte} {ks : List Byte} {s : State} (hl : ks.length = 12) (ha : s.pwr.aux = true)
    (hcool : ¬ (115 ≤ h0.toNat ∨ 115 ≤ h1.toNat ∨ 115 ≤ io.toNat ∨
      105 ≤ (ks.foldl (fun a b => if a.toNat < b.toNat then b else a) 0).toNat) ∨ s.pwr.tripped = true) :
    Does (.thermalSample h0 h1 io ks) s (fun t =>
      t.pwr = s.pwr.heat h0 h1 io (ks.foldl (fun a b => if a.toNat < b.toNat then b else a) 0) ∧
      ∀ k, k < 12 → s.domOn (domStack k) = true → t.stack k = (s.stack k).heat (ks.getD k 0)) := by
  obtain ⟨t, hp, hs, hx⟩ := exec_thermalSample_powered (h0 := h0) (h1 := h1) (io := io) hl ha
  rw [State.heatStacks_pwr] at hp
  refine ⟨t, hx.trans (congrArg _ (if_neg ?_)), hp, fun k hk hon => ?_⟩
  · rintro ⟨h1, h2⟩
    rcases hcool with hc | hc
    · exact hc h2
    · exact h1 (hp ▸ hc)
  · rw [State.stack_of_stks hs, State.stack_heatStacks]
    exact if_pos ⟨hk, hon⟩

theorem thermalSample_hot {h0 h1 io : Byte} {ks : List Byte} {s : State} (hl : ks.length = 12) (ha : s.pwr.aux = true)
    (hhot : 115 ≤ h0.toNat ∨ 115 ≤ h1.toNat ∨ 115 ≤ io.toNat ∨
      105 ≤ (ks.foldl (fun a b => if a.toNat < b.toNat then b else a) 0).toNat) (ht : s.pwr.tripped = false) :
    Does (.thermalSample h0 h1 io ks) s (fun t => ∃ u : State, t = u.trip) := by
  obtain ⟨t, hp, -, hx⟩ := exec_thermalSample_powered (h0 := h0) (h1 := h1) (io := io) hl ha
  rw [State.heatStacks_pwr] at hp
  refine ⟨t.trip, hx.trans (congrArg _ (if_pos ⟨?_, hhot⟩)), t, rfl⟩
  rw [hp]
  exact Bool.eq_false_iff.1 ht

end Sys2Proof.Machine

open Sys2Proof Sys2Proof.Machine

/-- Settles O56: each row by its equation; what a unit loses with its domain changes no supply. -/
theorem powerThermalDomainsAndScan : Obligations.PowerThermalDomainsAndScan := by
  refine ⟨fun vin iin pq s => ?power, fun h0 h1 io ks s hl => ?thermal, fun m d s h => exec_domain_unreached h,
    fun m d s h => ?command, fun s => ⟨exec_domainSwitchDone_none, fun w hw => ?done⟩, pathOf_joined,
    fun s code hcode => ?scan⟩
  case power =>
    refine ⟨fun h => powerSample_on h vin iin pq, fun h => exec_powerSample_off h vin iin pq, fun hoff hc hi => ?_,
      exec_currentClamp_idle, fun hon he => currentClampRelease_due hon he iin, fun h => exec_currentClampRelease_early h iin⟩
    rw [exec_currentClamp_off hoff, State.clamp_engages hc hi]
  case thermal =>
    refine ⟨exec_thermalSample_unpowered hl, fun ha hcool => ?_, fun ha hhot ht => ?_⟩
    · obtain ⟨t, hx, hp, hs⟩ := thermalSample_cool hl ha hcool
      refine ⟨t, hx, ?_⟩
      dsimp only
      rw [hp]
      refine ⟨rfl, rfl, rfl, rfl, rfl, rfl, Pwr.mem_heat_throttleHalf _ _ _ _ _ (by decide),
        Pwr.mem_heat_throttleHalf _ _ _ _ _ (by decide), fun k hk hon => ?_⟩
      rw [hs k hk hon]
      exact ⟨rfl, decide_eq_true_iff, throttle_iff ..⟩
    · obtain ⟨t, hx, u, rfl⟩ := thermalSample_hot hl ha hhot ht
      obtain ⟨h1, h2, h3, h4⟩ := u.trip_pwr
      exact ⟨u.trip, hx, h1, h2, h3, h4, u.mem_out_trip⟩
  case command =>
    refine ⟨fun hj => ?_, fun hj => ?_, fun hj => ⟨_, exec_domainOff_reached h, State.domCmd_off hj⟩, fun hj => ?_⟩
    · rw [exec_domainOn_reached h, State.domCmd_on hj]
    · rw [exec_domainOn_reached h, State.domCmd_refused hj]
    · rw [exec_domainOff_reached h, State.domCmd_refused hj]
  case done =>
    exact ⟨exec_domainSwitchDone_unpowered hw, exec_domainSwitchDone_waits hw, domainSwitchDone_ends hw⟩
  case scan =>
    have hbypass : exec (.bypass code) s = .next (s.selectJtag .bypass) := okIf_true (decide_eq_true hcode) _
    refine ⟨fun ha => ?_, fun ha => ?_, fun ha => ?_⟩
    · simp only [List.forall_mem_cons, List.not_mem_nil, false_implies, implies_true, and_true]
      exact ⟨congrArg _ (State.selectJtag_holding ha rfl), congrArg _ (State.selectJtag_holding ha rfl),
        congrArg _ (State.selectJtag_holding ha rfl)⟩
    · have hgo (j : Jtag) (hj : ({ s with jtag := j } : State).startHeld = false) :=
        State.pcieStart_cases (s := { s with jtag := j }) hj
      simp only [List.forall_mem_cons, List.not_mem_nil, false_implies, implies_true, and_true]
      exact ⟨⟨_, congrArg Host.Outcome.next (State.selectJtag_releasing ha rfl), hgo .sample rfl⟩,
        ⟨_, hbypass.trans (congrArg _ (State.selectJtag_releasing ha rfl)), hgo .bypass rfl⟩,
        ⟨_, congrArg Host.Outcome.next (State.selectJtag_releasing ha rfl), hgo .bypass rfl⟩⟩
    · have hoff (j : Jtag) : (.next (s.selectJtag j) : Result) = .next s :=
        congrArg Host.Outcome.next (State.selectJtag_unpowered ha j)
      simp only [List.forall_mem_cons, List.not_mem_nil, false_implies, implies_true, and_true]
      exact ⟨hoff .extest, hoff .sample, hoff .highz, hoff .clamp, hbypass.trans (hoff .bypass), hoff .bypass⟩
end

section
/-!
Streams (R217–R233): what issue, delivery, retries and stalls leave of the stream contexts.
-/
namespace Sys2Proof.Machine

/-! ## The streams of a tile -/

theorem State.ste_of_stes {s t : State} (h : t.stes = s.stes) (k : Nat) : t.ste k = s.ste k := by
  rw [State.ste, State.ste, h]

theorem State.stream_setStream (s : State) (t sid : Nat) (x : Stream) (k : Nat) :
    ((s.setStream t sid x).ste t).stream k = if k = sid then x else (s.ste t).stream k := by
  simp [State.setStream, Ste.stream, Ste.setStream]

theorem State.stream_setStream_self (s : State) (t sid : Nat) (x : Stream) :
    ((s.setStream t sid x).ste t).stream sid = x := (s.stream_setStream t sid x sid).trans (if_pos rfl)

theorem State.setStream_stes {s u : State} (h : u.stes = s.stes) (t sid : Nat) (x : Stream) :
    (u.setStream t sid x).stes = (s.setStream t sid x).stes := by
  unfold State.setStream State.setSte
  rw [State.ste_of_stes h, h]

/-- A state whose streams are those of a `setStream` holds the stream set. -/
theorem State.stream_of_stes {s u : State} {t sid : Nat} {x : Stream} (h : u.stes = (s.setStream t sid x).stes) :
    (u.ste t).stream sid = x := by
  rw [State.ste_of_stes h, State.stream_setStream_self]

/-! ## Translation leaves the streams and the places -/

section
variable {s v : State} {key p lc va : Nat} {wr : Bool} {w : Except Bad PageMap}
  (h : s.xlatePage key p lc va wr = (w, v))
include h

theorem State.xlatePage_stes : v.stes = s.stes := State.xlatePage_see_of (π := State.stes) h (by simp)

theorem State.xlatePage_placeAddr (q place x : Nat) : v.placeAddr q place x = s.placeAddr q place x := by
  have himg : v.img = s.img := State.xlatePage_see_of (π := State.img) h (by simp)
  unfold State.placeAddr State.cfgOf State.mask
  rw [himg]

end

/-! ## The extent of a request (R225) -/

/-- What `runLen` keeps: the elements counted so far may be issued, and are at most 2 KiB. -/
def RunFits (w : Nat → Nat) (k lim n : Nat) : Prop :=
  (k + n) * opElem (w 6) ≤ lim ∧ n * opElem (w 6) ≤ 2048

theorem runLen_fits {w : Nat → Nat} {k far lim fuel n : Nat} (hn : n = 0 ∨ RunFits w k lim n) :
    runLen w k far lim fuel n = 0 ∨ RunFits w k lim (runLen w k far lim fuel n) := by
  induction fuel generalizing n with
  | zero => exact hn
  | succ fuel ih =>
    rw [runLen]
    split
    · rename_i h
      obtain ⟨hlim, -, -, hlen⟩ := h
      exact ih (.inr ⟨hlim, hlen⟩)
    · exact hn

theorem opElem_pos (v : Nat) : 0 < opElem v := Nat.two_pow_pos _

theorem opElem_le (v : Nat) : opElem v ≤ 2048 := by
  have h : bitsOf v 58 56 < 8 := Nat.mod_lt _ (by decide)
  calc opElem v ≤ 2 ^ 7 := Nat.pow_le_pow_right (by decide) (by omega)
    _ ≤ 2048 := by decide

/-- The elements that a stream's next request covers. -/
def Stream.runCount (x : Stream) : Nat :=
  max 1 (runLen x.w (x.issued / x.elem) (opFarOf x.w (x.issued / x.elem)) x.issueLimit 2048 0)

theorem Stream.runCount_fits {x : Stream} (hroom : x.issued + x.elem ≤ x.issueLimit) (hmod : x.issued % x.elem = 0) :
    x.elem ≤ x.runCount * x.elem ∧ x.runCount * x.elem ≤ 2048 ∧ x.issued + x.runCount * x.elem ≤ x.issueLimit := by
  have hk : x.issued / x.elem * x.elem = x.issued := Nat.div_mul_cancel (Nat.dvd_of_mod_eq_zero hmod)
  have hone : RunFits x.w (x.issued / x.elem) x.issueLimit 1 := by
    refine ⟨?_, (Nat.one_mul _).trans_le (opElem_le _)⟩
    change (x.issued / x.elem + 1) * x.elem ≤ _
    rwa [Nat.add_mul, hk, Nat.one_mul]
  have hfit : RunFits x.w (x.issued / x.elem) x.issueLimit x.runCount := by
    unfold Stream.runCount
    rcases runLen_fits (w := x.w) (k := x.issued / x.elem) (far := opFarOf x.w (x.issued / x.elem)) (lim := x.issueLimit)
      (fuel := 2048) (n := 0) (.inl rfl) with h | h
    · rw [h]
      exact hone
    · rcases max_choice 1 (runLen x.w (x.issued / x.elem) (opFarOf x.w (x.issued / x.elem)) x.issueLimit 2048 0) with e | e
      · rw [e]
        exact hone
      · rw [e]
        exact h
  obtain ⟨hlim, hlen⟩ := hfit
  refine ⟨Nat.le_mul_of_pos_left _ (le_max_left 1 _), hlen, ?_⟩
  calc x.issued + x.runCount * x.elem = (x.issued / x.elem + x.runCount) * x.elem := by rw [Nat.add_mul, hk]
    _ ≤ _ := hlim

/-! ## Issue (R225, R229) -/

/-- The next request of a stream, sent as the tile's `sent`-th to physical address `pa`. -/
def Stream.request (x : Stream) (sent pa : Nat) : StreamReq :=
  ⟨x.nextSeq, sent, x.issued, x.runCount * x.elem, pa, x.timeToNeed x.issued, false, none, 0⟩

/-- A stream that has issued a request. -/
def Stream.issue (x : Stream) (r : StreamReq) : Stream :=
  { x with issued := x.issued + r.len, nextSeq := x.nextSeq + 1, reqs := x.reqs ++ [r], noticed := false }

/-- A stream that has halted (R229). -/
def Stream.halt (x : Stream) : Stream := { x with st := .halted, noticed := true }

theorem State.haltStream_stes (s : State) (t sid p va : Nat) :
    (s.haltStream t sid p va).stes = (s.setStream t sid ((s.ste t).stream sid).halt).stes := by
  unfold State.haltStream
  dsimp only
  split
  · rename_i hn
    rw [Stream.halt, ← hn]
  · exact (State.ledgerTile_see (π := State.stes) _ _ _ _ _ _ _ (by simp)).trans
      ((State.countTile_see (π := State.stes) _ _ _ _ _ (by simp)).trans
        (State.notPresentNotice_see (π := State.stes) _ _ _ _ _ _ (by simp)))

theorem State.hostAsk_ite_stes (s : State) (c : Prop) [Decidable c] (f a n : Nat) :
    (if c then s.hostAsk f a n else s).stes = s.stes := by
  split
  · exact State.hostAsk_see (π := State.stes) _ _ _ _ (by simp)
  · rfl

section
variable {t sid p lc : Nat} {s v : State}
  (hst : ((s.ste t).stream sid).st = .running)
  (hroom : ((s.ste t).stream sid).issued + ((s.ste t).stream sid).elem ≤ ((s.ste t).stream sid).issueLimit)
  (hlim : ((s.ste t).stream sid).outstanding < s.reqLimit t) (htile : s.tileOutstanding t < 128)
  (hldg : s.ldgHolds ⟨.ldgTile, t⟩ 3 = false) (hown : s.ctxOwner ((s.ste t).stream sid).ctx = some (p, lc))
include hst hroom hlim htile hldg

theorem State.mayIssue : ¬ (((s.ste t).stream sid).st ≠ .running ∨
    ((s.ste t).stream sid).issueLimit < ((s.ste t).stream sid).issued + ((s.ste t).stream sid).elem ∨
    s.reqLimit t ≤ ((s.ste t).stream sid).outstanding ∨ 128 ≤ s.tileOutstanding t ∨
    s.ldgHolds ⟨.ldgTile, t⟩ 3 = true) := by
  simp only [not_or, not_not, not_lt, not_le, hldg, Bool.false_eq_true, not_false_eq_true, and_true]
  exact ⟨hst, hroom, hlim, htile⟩

include hown

/-- With room and its page present a stream issues one request. -/
theorem State.issueNext_present {m : PageMap} (hx : s.xlatePage (tlbTile t) p lc
      (opFarOf ((s.ste t).stream sid).w (((s.ste t).stream sid).issued / ((s.ste t).stream sid).elem))
      ((s.ste t).stream sid).store = (.ok m, v)) :
    ((s.issueNext t sid).ste t).stream sid = ((s.ste t).stream sid).issue (((s.ste t).stream sid).request (s.ste t).sent
      (s.placeAddr p m.pa (opFarOf ((s.ste t).stream sid).w
        (((s.ste t).stream sid).issued / ((s.ste t).stream sid).elem) % 65536))) := by
  unfold State.issueNext
  dsimp only
  rw [if_neg (State.mayIssue hst hroom hlim htile hldg), hown]
  dsimp only
  rw [hx]
  dsimp only
  rw [State.xlatePage_placeAddr hx, State.ste_of_stes (State.xlatePage_stes hx)]
  refine State.stream_of_stes (s := v.setSte t { s.ste t with sent := (s.ste t).sent + 1 }) ?_
  exact (State.hostAsk_ite_stes ..).trans ((State.progress_see (π := State.stes) _ _ _ _ (by simp)).trans
    (State.stallClock_see (π := State.stes) _ _ _ _ (by simp)))

/-- A page that is not present halts the stream. -/
theorem State.issueNext_absent {b : Bad} (hx : s.xlatePage (tlbTile t) p lc
      (opFarOf ((s.ste t).stream sid).w (((s.ste t).stream sid).issued / ((s.ste t).stream sid).elem))
      ((s.ste t).stream sid).store = (.error b, v)) (hcls : b.cls = 0x06) (hcause : b.cause = 4) :
    ((s.issueNext t sid).ste t).stream sid = ((s.ste t).stream sid).halt := by
  have hgo : s.issueNext t sid = v.haltStream t sid p
      (opFarOf ((s.ste t).stream sid).w (((s.ste t).stream sid).issued / ((s.ste t).stream sid).elem)) := by
    unfold State.issueNext
    dsimp only
    rw [if_neg (State.mayIssue hst hroom hlim htile hldg), hown]
    dsimp only
    rw [hx]
    exact if_pos ⟨hcls, hcause⟩
  rw [hgo, State.stream_of_stes (State.haltStream_stes ..), State.ste_of_stes (State.xlatePage_stes hx)]

end

/-! ## Faults (R231, R232) -/

/-- A stream that has faulted at offset `off`. -/
def Stream.fault (x : Stream) (off : Nat) : Stream :=
  { x with
    st := .faulted, failAt := some (match x.failAt with | some o => min o off | none => off)
    faultB := if x.st = .faulted then x.faultB else x.fB }

/-- A faulted stream before its owner is told. -/
def State.stopStream (s : State) (t sid off : Nat) : State :=
  ((s.setStream t sid (((s.ste t).stream sid).fault off)).stopTimer (.stall t sid)).abortRing t sid

theorem State.faultStream_eq (s : State) (t sid off : Nat) (b : Bad) : s.faultStream t sid off b =
    match (s.stopStream t sid off).ctxOwner ((s.ste t).stream sid).ctx with
    | some (p, _) => (s.stopStream t sid off).raise p (streamFault t sid ((s.ste t).stream sid) b)
    | none => s.stopStream t sid off := rfl

/-- Telling the owner of a fault changes no view that a fault's record leaves alone. -/
theorem State.faultStream_view {α : Type} {π : State → α} (hπ : ∀ (u : State) p f, π (u.raise p f) = π u) (s : State)
    (t sid off : Nat) (b : Bad) : π (s.faultStream t sid off b) = π (s.stopStream t sid off) := by
  rw [State.faultStream_eq]
  split
  · exact hπ ..
  · rfl

theorem State.faultStream_stes (s : State) (t sid off : Nat) (b : Bad) :
    (s.faultStream t sid off b).stes = (s.setStream t sid (((s.ste t).stream sid).fault off)).stes :=
  (State.faultStream_view (π := State.stes) (fun u p f => State.raise_see (π := State.stes) u p f (by simp)) s t sid off b).trans
    ((State.abortRing_see (π := State.stes) _ _ _ (by simp)).trans (State.stopTimer_see (π := State.stes) _ _ (by simp)))

theorem State.stream_faultStream (s : State) (t sid off : Nat) (b : Bad) :
    ((s.faultStream t sid off b).ste t).stream sid = ((s.ste t).stream sid).fault off :=
  State.stream_of_stes (State.faultStream_stes ..)

/-! ## Delivery (R220, R223) -/

/-- Two streams whose frontiers move alike. -/
def Stream.SameFrontier (y x : Stream) : Prop := y.reqs = x.reqs ∧ y.failAt = x.failAt ∧ y.fA = x.fA ∧ y.fB = x.fB

theorem Stream.SameFrontier.ite {x y z : Stream} (c : Prop) [Decidable c] (hy : y.SameFrontier x) (hz : z.SameFrontier x) :
    (if c then y else z).SameFrontier x := by
  split
  · exact hy
  · exact hz

theorem Stream.clearWritten_eq (x : Stream) (r : StreamReq) : ∃ f, x.clearWritten r = { x with fill := f } := by
  have h : ∀ (gs : List Nat) (y : Stream), ∃ f, gs.foldl (fun x g => x.setFill (64 * g) 64 false) y = { y with fill := f } := by
    intro gs
    induction gs with
    | nil => exact fun y => ⟨y.fill, rfl⟩
    | cons g gs ih => exact fun y => ih (y.setFill (64 * g) 64 false)
  exact h _ x

theorem Stream.SameFrontier.clearWritten {x y : Stream} (h : y.SameFrontier x) (r : StreamReq) :
    (y.clearWritten r).SameFrontier x := by
  obtain ⟨f, hf⟩ := y.clearWritten_eq r
  rw [hf]
  exact h

theorem Stream.SameFrontier.frontier {x y : Stream} (h : y.SameFrontier x) (n f : Nat) :
    frontier y n f = Machine.frontier x n f := by
  obtain ⟨hr, hf, -, -⟩ := h
  induction n generalizing f with
  | zero => rfl
  | succ n ih =>
    simp only [Machine.frontier, hr, hf, ih]

/-- A stream whose frontier has advanced to `f`: fill bits, finished requests, DONE at LEN. -/
def Stream.passTo (x : Stream) (f : Nat) : Stream :=
  let full := if f = x.len then (f + 63) / 64 * 64 else f / 64 * 64
  let start := x.fA / 64 * 64
  let y := { (x.setFill start (full - start) (!x.store)) with
    fA := f, reqs := x.reqs.filter (fun r => decide (f < r.off + r.len))
    st := if f = x.len ∧ x.st = .running then .done else x.st }
  if full = start then { y with fill := x.fill } else y

theorem Stream.passTo_frontiers (x : Stream) (f : Nat) : (x.passTo f).fA = f ∧ (x.passTo f).fB = x.fB := by
  have h (c : Prop) [Decidable c] (y : Stream) (g : List (Nat × Bool)) :
      (if c then { y with fill := g } else y).fA = y.fA ∧ (if c then { y with fill := g } else y).fB = y.fB := by
    split <;> exact ⟨rfl, rfl⟩
  exact h ..

/-- The zeros after LEN in a load's last granule. -/
def State.zeroTail (s : State) (t : Nat) (x : Stream) (f : Nat) : State :=
  if ¬ x.store ∧ f = x.len ∧ f % 64 ≠ 0 then
    s.writeBytes (s.ringAddr t x f) (List.replicate (64 - f % 64) 0) else s

theorem State.zeroTail_stes (s : State) (t : Nat) (x : Stream) (f : Nat) : (s.zeroTail t x f).stes = s.stes := by
  unfold State.zeroTail
  split
  · exact State.writeBytes_see (π := State.stes) _ _ _ (by simp)
  · rfl

theorem State.advance_of_ne {s : State} {t sid f : Nat}
    (hf : frontier ((s.ste t).stream sid) (((s.ste t).stream sid).reqs.length + 1) ((s.ste t).stream sid).fA = f)
    (hne : f ≠ ((s.ste t).stream sid).fA) :
    s.advance t sid = ((((s.zeroTail t ((s.ste t).stream sid) f).setStream t sid (((s.ste t).stream sid).passTo f)).stallClock
      t sid true).progress .ste t ((s.zeroTail t ((s.ste t).stream sid) f).steBusy t)) := by
  subst hf
  exact if_neg hne

/-- The frontier's advance changes the stream's own context, and no offset of it but `fA`. -/
theorem State.advance_stream (s : State) (t sid : Nat) :
    let x := (s.ste t).stream sid
    let u := s.advance t sid
    ((u.ste t).stream sid).fA = frontier x (x.reqs.length + 1) x.fA ∧ ((u.ste t).stream sid).fB = x.fB ∧
    ∀ k, k ≠ sid → (u.ste t).stream k = (s.ste t).stream k := by
  intro x u
  let f := frontier x (x.reqs.length + 1) x.fA
  by_cases hf : f = x.fA
  · have hu : u = s := if_pos hf
    rw [hu]
    exact ⟨hf.symm, rfl, fun _ _ => rfl⟩
  · have hu : u.stes = (s.setStream t sid (x.passTo f)).stes := by
      change (s.advance t sid).stes = _
      rw [State.advance_of_ne rfl hf]
      exact (State.progress_see (π := State.stes) _ _ _ _ (by simp)).trans
        ((State.stallClock_see (π := State.stes) _ _ _ _ (by simp)).trans
          (State.setStream_stes (State.zeroTail_stes ..) _ _ _))
    obtain ⟨hA, hB⟩ := x.passTo_frontiers f
    rw [State.stream_of_stes hu]
    refine ⟨hA, hB, fun k hk => ?_⟩
    rw [State.ste_of_stes hu, State.stream_setStream, if_neg hk]

/-- A request marked done in its stream, and the frontier advanced over it. -/
def Stream.markDone (x : Stream) (seq : Nat) : Stream :=
  { x with reqs := x.reqs.map (fun q => if q.seq = seq then { q with done := true } else q) }

/-- What `streamReply` does once a request's bytes have moved. -/
def State.markDone (s : State) (t sid seq : Nat) (r : StreamReq) : State :=
  let x := ((s.ste t).stream sid).markDone seq
  let x := if hostBase ≤ r.pa then
    { x with hostAt := some ⟨s.fnOf (s.steOwner t), r.pa, opFarOf x.w (r.off / x.elem)⟩ } else x
  (s.setStream t sid (if x.store then x.clearWritten r else x)).advance t sid

theorem State.markDone_stream (s : State) (t sid seq : Nat) (r : StreamReq) :
    let x := ((s.ste t).stream sid).markDone seq
    let u := s.markDone t sid seq r
    ((u.ste t).stream sid).fA = frontier x (x.reqs.length + 1) x.fA ∧ ((u.ste t).stream sid).fB = x.fB ∧
    ∀ k, k ≠ sid → (u.ste t).stream k = (s.ste t).stream k := by
  intro x u
  obtain ⟨y, hy, hu⟩ : ∃ y : Stream, y.SameFrontier x ∧ u = (s.setStream t sid y).advance t sid := by
    refine ⟨_, ?_, rfl⟩
    have hx : Stream.SameFrontier (if hostBase ≤ r.pa then
        { x with hostAt := some ⟨s.fnOf (s.steOwner t), r.pa, opFarOf x.w (r.off / x.elem)⟩ } else x) x :=
      .ite _ ⟨rfl, rfl, rfl, rfl⟩ ⟨rfl, rfl, rfl, rfl⟩
    exact .ite _ (hx.clearWritten r) hx
  obtain ⟨h1, h2, h3⟩ := (s.setStream t sid y).advance_stream t sid
  rw [← hu] at h1 h2 h3
  rw [State.stream_setStream_self] at h1 h2
  rw [h1, h2, hy.frontier]
  obtain ⟨hreqs, -, hA, hB⟩ := hy
  rw [hreqs, hA, hB]
  refine ⟨rfl, rfl, fun k hk => (h3 k hk).trans ?_⟩
  rw [State.stream_setStream, if_neg hk]

/-! ## A reply (R220, R231) -/

section
variable {t sid seq : Nat} {s : State} {r : StreamReq} {reply : FarReply}
  (hfind : ((s.ste t).stream sid).reqs.find? (fun q => decide (q.seq = seq) && !q.done) = some r)
include hfind

theorem State.streamReply_waits (h : s.farWaits t r = true ∨ s.ownGate t ((s.ste t).stream sid) r = .wait) :
    s.streamReply t sid seq reply = s := by
  unfold State.streamReply
  dsimp only
  rw [hfind]
  dsimp only
  by_cases hw : s.farWaits t r = true
  · exact if_pos hw
  · rw [if_neg hw, h.resolve_left hw]

variable (hw : s.farWaits t r = false) (hgate : s.ownGate t ((s.ste t).stream sid) r = .go)
include hw hgate

theorem State.streamReply_none (hr : s.farReply t ((s.ste t).stream sid) r reply = none) :
    s.streamReply t sid seq reply = s := by
  unfold State.streamReply
  dsimp only
  rw [hfind]
  dsimp only
  rw [if_neg (by rw [hw]; decide), hgate]
  dsimp only
  rw [hr]

/-- A good reply moves the bytes, which changes no stream, and marks the request. -/
theorem State.streamReply_ok {data : List Byte} (hr : s.farReply t ((s.ste t).stream sid) r reply = some (.ok data)) :
    ∃ v : State, v.stes = s.stes ∧ s.streamReply t sid seq reply = v.markDone t sid seq r := by
  have hx := State.streamReply.eq_def s t sid seq reply
  extract_lets x at hx
  rw [hfind] at hx
  dsimp -zeta only at hx
  rw [if_neg (by rw [hw]; decide), hgate] at hx
  dsimp -zeta only at hx
  rw [hr] at hx
  dsimp -zeta only at hx
  extract_lets mark bs u put at hx
  have hmark (v : State) : mark v = v.markDone t sid seq r := rfl
  rw [hmark, hmark] at hx
  rw [hx]
  split
  · refine ⟨_, ?_, rfl⟩
    refine (State.countTile_see (π := State.stes) _ _ _ _ _ (by simp)).trans ?_
    dsimp only [u]
    split
    · rfl
    · exact State.putBytes_see (π := State.stes) _ _ _ _ (by simp)
  · exact ⟨_, (State.countTile_see (π := State.stes) _ _ _ _ _ (by simp)).trans
      (State.ringPut_see (π := State.stes) _ _ _ _ _ (by simp)), rfl⟩

/-- A failed reply drops the request and faults the stream at its offset. -/
theorem State.streamReply_fails {e : FarReply} (hr : s.farReply t ((s.ste t).stream sid) r reply = some e)
    (he : ∀ data, e ≠ .ok data) :
    ((s.streamReply t sid seq reply).ste t).stream sid =
      ({ (s.ste t).stream sid with
        reqs := ((s.ste t).stream sid).reqs.filter (fun q => decide (q.seq ≠ seq)) } : Stream).fault r.off := by
  have hflag : ∀ (c : Prop) [Decidable c] (u : State), (if c then u.flag .pcx 0 0x14 (bit 30) else u).stes = u.stes := by
    intro c _ u
    split
    · exact State.flag_see (π := State.stes) _ _ _ _ _ (by simp)
    · rfl
  unfold State.streamReply
  dsimp only
  rw [hfind]
  dsimp only
  rw [if_neg (by rw [hw]; decide), hgate]
  dsimp only
  rw [hr]
  cases e with
  | ok data => exact absurd rfl (he data)
  | _ => rw [State.stream_faultStream, State.stream_of_stes (hflag ..)]

end

/-! ## Retries (R230, R235) -/

theorem State.retryStream_present {t sid p lc : Nat} {s v : State} {pm : PageMap}
    (hst : ((s.ste t).stream sid).st = .halted) (hown : s.ctxOwner ((s.ste t).stream sid).ctx = some (p, lc))
    (hx : s.xlatePage (tlbTile t) p lc
      (opFarOf ((s.ste t).stream sid).w (((s.ste t).stream sid).issued / ((s.ste t).stream sid).elem))
      ((s.ste t).stream sid).store = (.ok pm, v)) :
    ((s.retryStream t sid).ste t).stream sid = { (s.ste t).stream sid with
      st := if ((s.ste t).stream sid).fA = ((s.ste t).stream sid).len then .done else .running, noticed := false } := by
  unfold State.retryStream
  dsimp only
  rw [if_neg (not_not.2 hst), hown]
  dsimp only
  rw [hx]
  exact State.stream_of_stes (State.ledgerTile_see (π := State.stes) _ _ _ _ _ _ _ (by simp))

/-! ## A fault's record starts no duration but FOG_OUT (R398, R417) -/

theorem State.timerRuns_of_otherTimers {s u : State} (h : u.otherTimers = s.otherTimers) {i : TimerId} (hi : i ≠ .fogOut) :
    u.timerRuns i = s.timerRuns i := by
  have hmem : ∀ w : State, w.timerRuns i = w.otherTimers.any (fun e => decide (e.id = i)) := by
    intro w
    rw [State.timerRuns, State.otherTimers, List.any_filter]
    refine congrArg _ (funext fun e => ?_)
    by_cases he : e.id = i
    · simp [he, hi]
    · simp [he]
  rw [hmem, hmem, h]

theorem State.ledger_otherTimers (s : State) (b : BlkId) (w : Who) (typ src a pb : Nat) :
    (s.ledger b w typ src a pb).otherTimers = s.otherTimers := by
  unfold State.ledger
  dsimp only
  split
  · rfl
  · exact State.ldgTake_otherTimers ..

theorem State.ledgerUnit_otherTimers (s : State) (p uclass unit : Nat) (w : Who) (typ src a b : Nat) :
    (s.ledgerUnit p uclass unit w typ src a b).otherTimers = s.otherTimers := by
  unfold State.ledgerUnit
  split
  · exact State.ledger_otherTimers ..
  · exact State.ledger_otherTimers ..
  · unfold State.ledgerPart
    split
    · exact State.ledger_otherTimers ..
    · rfl

theorem State.recordFault_otherTimers (s : State) (p : Nat) (f : FaultRec) (w : Who) :
    (s.recordFault p f w).otherTimers = s.otherTimers := by
  have h : ∀ (u : State) p uclass unit w typ src a b,
      see State.otherTimers (u.ledgerUnit p uclass unit w typ src a b) = see State.otherTimers u :=
    State.ledgerUnit_otherTimers
  change see State.otherTimers (s.recordFault p f w) = see State.otherTimers s
  simp [State.recordFault, h]

theorem State.raise_otherTimers (s : State) (p : Nat) (f : FaultRec) : (s.raise p f).otherTimers = s.otherTimers := by
  unfold State.raise State.raiseAny
  dsimp only
  split
  · rfl
  · split
    · exact (State.setCtx_see (π := State.otherTimers) _ _ _ (by simp)).trans (State.recordFault_otherTimers ..)
    · exact State.recordFault_otherTimers ..

/-- A faulted stream's stall clock is off. -/
theorem State.timerRuns_faultStream (s : State) (t sid off : Nat) (b : Bad) :
    (s.faultStream t sid off b).timerRuns (.stall t sid) = false := by
  have h : (s.faultStream t sid off b).otherTimers = (s.stopStream t sid off).otherTimers :=
    State.faultStream_view State.raise_otherTimers s t sid off b
  have hstop : (s.stopStream t sid off).timers = _ := State.abortRing_see (π := State.timers) _ _ _ (by simp)
  rw [State.timerRuns_of_otherTimers h (by simp), State.timerRuns, hstop]
  exact State.timerRuns_stopTimer ..

end Sys2Proof.Machine

open Sys2Proof Sys2Proof.Machine

/-- Settles O30: each row's equation on its stream context, which translation, ledgers and a fault's record leave. -/
theorem streamsIssueDeliverAndFault : Obligations.StreamsIssueDeliverAndFault := by
  refine ⟨fun t sid s v p lc => ?issue, fun t sid seq reply s r => ?deliver, fun m t sid s v p lc pm => ?retry,
    fun t sid s he hm => ?stall⟩
  case issue =>
    intro x far hst hroom hlim htile hldg hown hmod
    refine ⟨fun m hx => ⟨_, rfl, _, State.issueNext_present hst hroom hlim htile hldg hown hx, rfl, rfl, rfl, rfl, ?_⟩,
      fun b hx hcls hcause => ⟨_, rfl, State.issueNext_absent hst hroom hlim htile hldg hown hx hcls hcause⟩⟩
    exact Stream.runCount_fits hroom hmod
  case deliver =>
    intro x x' hfind
    refine ⟨fun h => congrArg Host.Outcome.next (State.streamReply_waits hfind h),
      fun hw hg hr => congrArg Host.Outcome.next (State.streamReply_none hfind hw hg hr), fun data hw hg hr => ?_,
      fun e hw hg hr he => ⟨_, rfl, ?_⟩⟩
    · obtain ⟨v, hv, hgo⟩ := State.streamReply_ok hfind hw hg hr
      have hdone := v.markDone_stream t.val sid.val seq r
      rw [State.ste_of_stes hv] at hdone
      exact ⟨_, congrArg Host.Outcome.next hgo, hdone⟩
    · dsimp only
      rw [State.streamReply_fails hfind hw hg hr he]
      exact ⟨rfl, rfl, rfl⟩
  case retry =>
    intro x hst hown hreach hx
    simp only [List.forall_mem_cons, List.not_mem_nil, false_implies, implies_true, and_true]
    exact ⟨⟨_, rfl, State.retryStream_present hst hown hx⟩,
      ⟨_, congrArg Host.Outcome.next (if_pos hreach), State.retryStream_present hst hown hx⟩⟩
  case stall =>
    refine ⟨_, congrArg Host.Outcome.next (if_pos ⟨he, hm⟩), ?_⟩
    dsimp only
    rw [State.stream_faultStream]
    exact ⟨rfl, State.timerRuns_faultStream .., rfl⟩
end

section
/-!
The frame of every command (Instr.writes): what a command may change, for any view of the state, from the law of each
meaning in Laws/Exec. It settles O59.
-/
namespace Sys2Proof.Machine
set_option maxRecDepth 4000
set_option Elab.async false

theorem mem_allBut {f : Fld} {X : List Fld} : f ∈ allBut X ↔ f ∉ X := by
  cases f <;> simp [allBut]

/-- A view that ignores the fields named for a command is the same after it: the law of its meaning asks for no others. -/
theorem exec_see {α : Type} {π : State → α} (c : Instr) (s : State) (h : ∀ f ∈ Instr.writes c, Ign π f) :
    see π (stateOf (exec c s) s) = see π s := by
  cases c <;> simp only [Instr.writes, faultFlds, doneFlds, List.cons_append, List.nil_append, List.forall_mem_cons,
    mem_allBut] at h <;> simp +decide [exec, h]

theorem exec_next_except {c : Instr} {s t : State} (h : exec c s = .next t) :
    t.except (Instr.writes c) = s.except (Instr.writes c) := by
  have ht := exec_see (π := State.except (Instr.writes c)) c s (fun f hf => ign_except _ f hf)
  rwa [h] at ht

theorem exec_fault_of_not_wf {c : Instr} (s : State) (hc : c.wf = false) : exec c s = .fault .illFormed := by
  obtain ⟨t, ht⟩ := exec_eq_okIf c s
  rw [ht, hc]; rfl

/-- No command changes the queue of waiting commands or the position straps. -/
theorem pending_straps_notMem_writes (c : Instr) : Fld.pending ∉ Instr.writes c ∧ Fld.straps ∉ Instr.writes c := by
  cases c <;> simp only [Instr.writes, faultFlds, doneFlds, mem_allBut] <;> decide

end Sys2Proof.Machine

open Sys2Proof Sys2Proof.Machine

/-- Settles O59: a well-formed command answers a next state, which every view that ignores `Instr.writes` sees as before. -/
theorem commandsAnswerAndKeepTheirFrame : Obligations.CommandsAnswerAndKeepTheirFrame := by
  refine ⟨fun c s hc => ?_, fun c s hc => exec_fault_of_not_wf s hc, pending_straps_notMem_writes⟩
  obtain ⟨t, ht⟩ := exec_next_of_wf s hc
  exact ⟨t, ht, exec_next_except ht⟩
end

section
/-!
Staged configuration (R39, R41, R43): what GO, DISCARD and the sample point of an unrefused part leave. It settles O4 and O3.
-/
namespace Sys2Proof.Machine
set_option Elab.async false

/-- A register of which nothing is kept makes no report (R42). -/
theorem State.reportKept_zero (s : State) (b : BlkId) (off : Nat) : s.reportKept b off 0 = s := if_pos rfl

/-- The registers of block `b` that the pending `part` of its snapshot changes. -/
def State.partOffs (s : State) (b : BlkId) (part : Nat) : List Nat :=
  (changedOffs b.kind (s.blk b)).filter (fun o => decide (partOf b.kind o = part))

theorem State.map_keptBits_zero {s : State} {b : BlkId} {part : Nat}
    (hk : ∀ o ∈ changedOffs b.kind (s.blk b), partOf b.kind o = part → s.keptBits b o = 0) :
    (s.partOffs b part).map (fun o => (o, s.keptBits b o)) = (s.partOffs b part).map (fun o => (o, 0)) := by
  refine List.map_congr_left fun o ho => ?_
  obtain ⟨hc, hp⟩ := List.mem_filter.1 ho
  rw [hk o hc (of_decide_eq_true hp)]

/-- With no field kept, a pending part takes its snapshot values and nothing is reported (R39, R42). -/
theorem State.applyPart_unrefused {s : State} {b : BlkId} {part : Nat} (hp : part ∈ (s.blk b).pend)
    (hk : ∀ o ∈ changedOffs b.kind (s.blk b), partOf b.kind o = part → s.keptBits b o = 0) :
    let r := s.blk b
    let pend := r.pend.filter (fun x => decide (x ≠ part))
    s.applyPart b part = (s.partOffs b part).foldl (fun u o => u.committed b o (commWord b.kind r o))
      (s.setBlk b { r with
        comm := (s.partOffs b part).foldl (fun m o => SMap.set (resetWord b.kind o) m o (snapWord b.kind r o)) r.comm
        pend := pend, serial := if pend = [] then r.serial + 1 else r.serial }) := by
  have hmap := s.map_keptBits_zero hk
  simp only [State.partOffs] at hmap ⊢
  simp only [State.applyPart, hp, not_true_eq_false, if_false, hmap, List.foldl_map, masked_none, State.reportKept_zero,
    List.foldl_fixed]

/-- A GO none of whose parts is applied at once leaves all of them pending (R43). -/
theorem State.go_of_none_atOnce {s : State} {b : BlkId}
    (h : ∀ x ∈ (changedOffs b.kind { s.blk b with snap := (s.blk b).staged }).map (partOf b.kind),
      partAtOnce b.kind x = false) :
    s.go b =
      let r := { s.blk b with snap := (s.blk b).staged }
      let parts := ((changedOffs b.kind r).map (partOf b.kind)).eraseDups
      let t := s.setBlk b { r with pend := parts, serial := if parts = [] then r.serial + 1 else r.serial }
      if b.kind = .pcx then t.setBlk b (t.blk b).recommit else t := by
  have hnone : (((changedOffs b.kind { s.blk b with snap := (s.blk b).staged }).map (partOf b.kind)).eraseDups).filter
      (partAtOnce b.kind) = [] :=
    List.filter_eq_nil_iff.2 fun x hx => by rw [h x (List.mem_eraseDups.1 hx)]; exact Bool.false_ne_true
  simp only [State.go, hnone, List.foldl_nil]

theorem exec_go {m : Master} {b : BlkId} (s : State) (hb : b.unit < unitCount b.kind) :
    exec (.go m b) s = .next (let u := s.flushFor m; if u.mayWrite m b 0 ∧ ¬ u.applying b then u.go b else u) :=
  okIf_true (decide_eq_true hb) _

theorem exec_discard {m : Master} {b : BlkId} (s : State) (hb : b.unit < unitCount b.kind) :
    exec (.discard m b) s = .next (let u := s.flushFor m
      if u.mayWrite m b 0 then u.setBlk b { u.blk b with staged := (u.blk b).comm } else u) :=
  okIf_true (decide_eq_true hb) _

theorem exec_snapshotApply_due {b : BlkId} {part : Nat} {s : State} (hb : b.unit < unitCount b.kind)
    (hs : s.atSample b part = true) : exec (.snapshotApply b part) s = .next (s.applyPart b part) :=
  (okIf_true (decide_eq_true hb) _).trans (congrArg _ (if_pos hs))

end Sys2Proof.Machine

open Sys2Proof Sys2Proof.Machine

/-- Settles O4: no register is kept, so the part's registers take their snapshot words, and no report is made. -/
theorem snapshotAppliesOnePart : Obligations.SnapshotAppliesOnePart := by
  intro b part s hb hs hp hk
  rw [exec_snapshotApply_due hb hs, State.applyPart_unrefused hp hk]
  rfl

/-- Settles O3: each command is its equation where the master may write the block and no APPLY covers it. -/
theorem goAndDiscardMoveTheSets : Obligations.GoAndDiscardMoveTheSets := by
  refine ⟨fun m b s₀ => ?go, fun m b s₀ => ?discard, fun m b s₀ => ?denied⟩ <;> intro s hb
  case go =>
    intro hw ha h
    rw [exec_go s₀ hb, ← State.go_of_none_atOnce h]
    exact congrArg _ (if_pos ⟨hw, by rw [ha]; exact Bool.false_ne_true⟩)
  case discard =>
    intro hw
    rw [exec_discard s₀ hb]
    exact congrArg _ (if_pos hw)
  case denied =>
    intro h
    rw [exec_go s₀ hb]
    refine congrArg _ (if_neg fun ⟨hw, ha⟩ => ?_)
    rcases h with h | h
    · rw [h] at hw; exact Bool.false_ne_true hw
    · exact ha h
end

section
/-!
The image buffer and its operations (R55 to R58): OWNER, writes of the buffer, and the ends of FETCH and VERIFY. It settles O8
and O10.
-/
namespace Sys2Proof.Machine
set_option Elab.async false

/-! ## The image buffer (R55, R57) -/

theorem State.imgOwns_iff (s : State) (m : Master) : s.imgOwns m = true ↔ ownerCode m ≠ 0 ∧ s.img.owner = ownerCode m := by
  simp [State.imgOwns]

/-- A master with an OWNER code that reaches the block is heard. -/
theorem State.imgClaim_heard {s : State} {m : Master} (hr : s.imgReach m = true) (h0 : ownerCode m ≠ 0) :
    ¬ (¬ s.imgReach m = true ∨ ownerCode m = 0) :=
  not_or.2 ⟨not_not.2 hr, h0⟩

theorem exec_imgClaimWrite_free {m : Master} {s : State} (hr : s.imgReach m = true) (h0 : ownerCode m ≠ 0)
    (hf : s.img.owner = 0) :
    exec (.imgClaimWrite m (ownerCode m)) s = .next { s with img := { s.img with owner := ownerCode m } } :=
  congrArg Host.Outcome.next ((if_neg (State.imgClaim_heard hr h0)).trans (if_pos ⟨hf, rfl⟩))

theorem exec_imgClaimWrite_release {m : Master} {s : State} (hr : s.imgReach m = true) (ho : s.imgOwns m = true) :
    exec (.imgClaimWrite m 0) s = .next { s with img := { s.img with owner := 0 } } := by
  obtain ⟨h0, howner⟩ := (s.imgOwns_iff m).1 ho
  refine congrArg Host.Outcome.next ((if_neg (State.imgClaim_heard hr h0)).trans ?_)
  exact (if_neg fun h => h0 h.2.symm).trans (if_pos ⟨howner, rfl⟩)

theorem exec_imgClaimWrite_ignored {m : Master} {o : BitVec 2} {s : State}
    (hc : ¬ (s.img.owner = 0 ∧ o = ownerCode m)) (hr : ¬ (s.imgOwns m = true ∧ o = 0)) :
    exec (.imgClaimWrite m o) s = .next s := by
  rw [State.imgOwns_iff] at hr
  refine congrArg Host.Outcome.next ?_
  by_cases h : ¬ s.imgReach m = true ∨ ownerCode m = 0
  · exact if_pos h
  · exact (if_neg h).trans ((if_neg hc).trans (if_neg fun ⟨ho, h0⟩ => hr ⟨⟨fun hm => h (.inr hm), ho⟩, h0⟩))

theorem exec_imgClaimForce_mgmt {s : State} (hr : s.imgReach .mgmt = true) :
    exec (.imgClaimForce .mgmt) s = .next { s with img := { s.img with owner := 0 } } :=
  congrArg _ (if_pos ⟨hr, rfl⟩)

theorem exec_imgClaimForce_other {m : Master} (s : State) (hm : m ≠ .mgmt) : exec (.imgClaimForce m) s = .next s :=
  congrArg _ (if_neg fun h => hm h.2)

theorem State.imgOwned_owner {s : State} {m : Master} (f : State) (hr : s.imgReach m = true) (ho : s.imgOwns m = true) :
    s.imgOwned m f = f := by
  simp [State.imgOwned, hr, ho]

theorem State.imgOwned_other {s : State} {m : Master} (f : State) (hr : s.imgReach m = true) (ho : s.imgOwns m = false) :
    s.imgOwned m f = s.imgResult 0x0C := by
  simp [State.imgOwned, hr, ho]

theorem exec_imgBufWrite {m : Master} {off : Nat} (v : W32) (s : State) (ha : off % 4 = 0) (hl : off < 0x100000) :
    exec (.imgBufWrite m off v) s = .next (s.imgOwned m (s.imgPut off (leBytes 4 v.toNat))) :=
  okIf_true (by simp [ha, hl]) _

/-- What the buffer holds after values are stored at consecutive offsets within it. -/
theorem get_foldl_set_range (buf : List (Nat × Byte)) (off n : Nat) (v : Nat → Byte) (j : Nat) :
    SMap.get 0 ((List.range n).foldl (fun m i => if off + i < 0x100000 then SMap.set 0 m (off + i) (v i) else m) buf) j =
      if off ≤ j ∧ j < off + n ∧ j < 0x100000 then v (j - off) else SMap.get 0 buf j := by
  induction n with
  | zero => rw [if_neg (by omega)]; rfl
  | succ n ih =>
    rw [List.range_succ, List.foldl_append, List.foldl_cons, List.foldl_nil]
    by_cases hj : j = off + n
    · subst hj
      by_cases hn : off + n < 0x100000
      · rw [if_pos hn, SMap.get_set_self, if_pos (by omega), Nat.add_sub_cancel_left]
      · rw [if_neg hn, ih, if_neg (by omega), if_neg (by omega)]
    · have hiff : (off ≤ j ∧ j < off + (n + 1) ∧ j < 0x100000) ↔ (off ≤ j ∧ j < off + n ∧ j < 0x100000) := by omega
      rw [if_congr hiff rfl rfl, ← ih]
      split
      · exact SMap.get_set_ne _ _ _ _ _ hj
      · rfl

theorem State.imgByte_imgPut (s : State) (off : Nat) (bs : List Byte) (j : Nat) :
    imgByte (s.imgPut off bs).img.buf j =
      if off ≤ j ∧ j < off + bs.length ∧ j < 0x100000 then bs.getD (j - off) 0 else imgByte s.img.buf j :=
  get_foldl_set_range s.img.buf off bs.length (fun i => bs.getD i 0) j

theorem State.imgPut_eq (s : State) (off : Nat) (bs : List Byte) :
    s.imgPut off bs = { s with img := { s.img with buf := (s.imgPut off bs).img.buf, verified := false } } := rfl

theorem leBytes_length (n v : Nat) : (leBytes n v).length = n := by
  induction n generalizing v with
  | zero => rfl
  | succ n ih => rw [leBytes, List.length_cons, ih]

theorem leBytes_getD {n i : Nat} (v : Nat) (h : i < n) : (leBytes n v).getD i 0 = BitVec.ofNat 8 (v / 256 ^ i) := by
  induction n generalizing v i with
  | zero => omega
  | succ n ih =>
    cases i with
    | zero => simp [leBytes]
    | succ i =>
      rw [leBytes, List.getD_cons_succ, ih _ (by omega), Nat.div_div_eq_div_mul, Nat.pow_succ']

/-- The four bytes of an aligned write lie in the buffer. -/
theorem State.imgByte_imgPut_word (s : State) {off : Nat} (v : W32) (ha : off % 4 = 0) (hl : off < 0x100000) (j : Nat) :
    imgByte (s.imgPut off (leBytes 4 v.toNat)).img.buf j =
      if off ≤ j ∧ j < off + 4 then BitVec.ofNat 8 (v.toNat / 256 ^ (j - off)) else imgByte s.img.buf j := by
  rw [s.imgByte_imgPut, leBytes_length]
  by_cases hj : off ≤ j ∧ j < off + 4
  · rw [if_pos hj, if_pos (by omega), leBytes_getD _ (by omega)]
  · rw [if_neg hj, if_neg (by omega)]

/-! ## FETCH (R56, R57) -/

theorem State.imgFetched_ok {s : State} {bs : List Byte} (hb : s.img.busy = some .fetch) (hh : s.hostOk 0 = true)
    (hl : bs.length = s.cfg .img 0 0x28 31 0) :
    s.imgFetched (some bs) =
      ((({ s with img := { s.img with busy := none, detail := 0xFF } } : State).imgPut 0 bs).imgResult 0x00) := by
  rw [State.imgFetched, if_neg (not_not.2 hb)]
  exact if_pos ⟨hh, hl⟩

theorem State.imgFetched_none {s : State} (hb : s.img.busy = some .fetch) :
    s.imgFetched none = { s.flag .pcx 0 0x14 (bit 30) with
      img := { s.img with busy := none, detail := 0xFF, result := 0x0D } } := by
  rw [State.imgFetched, if_neg (not_not.2 hb)]
  rfl

/-! ## VERIFY (R57, R58) -/

theorem firstFail_none {l : List (Bool × Nat)} (h : firstFail l = none) : ∀ x ∈ l, x.1 = true := by
  induction l with
  | nil => intro x hx; cases hx
  | cons y l ih =>
    obtain ⟨ok, d⟩ := y
    cases ok with
    | false => cases h
    | true => exact List.forall_mem_cons.2 ⟨rfl, ih h⟩

/-- Of an image whose format is in order, the magic is the one of its kind (R45). -/
theorem imgMagic_of_format {k : ImgKind} {buf : List (Nat × Byte)} (h : imgFormatBad k buf = none) :
    imgLe buf 0 4 = k.magic := by
  have hall := firstFail_none h
  exact of_decide_eq_true (hall (decide (imgLe buf 0 4 = k.magic), 0xFF) (by simp))

/-- An image in which VERIFY finds no fault passes each of its checks (R58). -/
theorem State.checks_of_verify {s : State} {buf : List (Nat × Byte)} (h : s.verify buf = none) :
    imgFormatBad usfekor buf = none ∧ imgLe buf 12 2 = 0x0768 ∧
    s.keyOk 64 320 (imgLe buf (imgSigOff buf) 1) (imgPub buf) = true ∧
    Config.mldsaVerify (imgPub buf) (imgManifest buf) (imgBytes buf (imgSigOff buf + 1316) 2420) = true ∧
    ((s.otpBlock).map (fun b => otpLe b 8 4)).getD 0 ≤ imgLe buf 16 4 ∧ imgMinimum buf = true := by
  unfold State.verify at h
  dsimp only at h
  split at h
  · cases h
  case _ hformat =>
  split at h
  · cases h
  case _ hproduct =>
  split at h
  · cases h
  split at h
  · cases h
  case _ hkey =>
  split at h
  · cases h
  split at h
  · cases h
  case _ hsig =>
  split at h
  · cases h
  case _ hfloor =>
  split at h
  · cases h
  split at h
  case isTrue hmin =>
    rw [not_or, not_not] at hproduct
    exact ⟨hformat, hproduct.1, not_not.1 hkey, not_not.1 hsig, not_lt.1 hfloor, hmin⟩
  · cases h

/-- An image without partitions has no smallest working set (R61). -/
theorem imgMinimum_of_no_parts {buf : List (Nat × Byte)} (h : imgParts buf = []) : imgMinimum buf = false := by
  simp [imgMinimum, h]

/-- What a VERIFY that ends leaves in the IMG_ block (R57). -/
def State.verified (s : State) : Img :=
  match s.verify s.img.buf with
  | none => { s.img with busy := none, verified := true, detail := 0xFF, result := 0 }
  | some (r, d) => { s.img with busy := none, verified := false, detail := BitVec.ofNat 8 d, result := BitVec.ofNat 8 r }

theorem State.verifyEnd_eq (s : State) : s.verifyEnd = ({ s with img := s.verified } : State).alert (bit 28) := by
  cases hv : s.verify s.img.buf <;> simp only [State.verifyEnd, State.verified, hv]

theorem State.alert_img (s : State) (bits : W32) : (s.alert bits).img = s.img :=
  State.alert_see (π := State.img) s bits (by simp)

theorem State.alert_except (s : State) (bits : W32) {W : List Fld} (hb : .blocks ∈ W) (ho : .out ∈ W) :
    (s.alert bits).except W = s.except W :=
  State.alert_see (π := State.except W) s bits ⟨ign_except W _ hb, ign_except W _ ho⟩

theorem State.flags_alert (s : State) (bits : W32) : (s.alert bits).flags .mgt 0 0x14 = s.flags .mgt 0 0x14 ||| bits := by
  have hsend : (s.alert bits).blocks = (s.flag .mgt 0 0x14 bits).blocks :=
    State.sendNotices_see (π := State.blocks) _ _ (by simp)
  rw [State.flags, State.blk, hsend]
  change w1cWord ((s.flag .mgt 0 0x14 bits).blk ⟨.mgt, 0⟩) 0x14 = _
  simp [State.flag, State.flags, w1cWord]

end Sys2Proof.Machine

open Sys2Proof Sys2Proof.Machine

/-- Settles O8: each write of OWNER, FORCE or the buffer is its equation for the master that makes it. -/
theorem imageBufferHasOneOwner : Obligations.ImageBufferHasOneOwner := by
  refine ⟨fun _ _ hr h0 hf => exec_imgClaimWrite_free hr h0 hf, fun _ _ hr ho => exec_imgClaimWrite_release hr ho,
    fun _ _ _ hc hr => exec_imgClaimWrite_ignored hc hr, fun _ hr => exec_imgClaimForce_mgmt hr,
    fun _ s hm => exec_imgClaimForce_other s hm, fun m off v s ha hl hr ho => ?owner, fun m off v s ha hl hr ho => ?other⟩
  case owner =>
    refine ⟨s.imgPut off (leBytes 4 v.toNat), ?_, s.imgByte_imgPut_word v ha hl, s.imgPut_eq off _⟩
    rw [exec_imgBufWrite v s ha hl, State.imgOwned_owner _ hr ho]
  case other =>
    rw [exec_imgBufWrite v s ha hl, State.imgOwned_other _ hr ho]
    rfl

/-- Settles O10: the fetched bytes are put at offset 0, and a VERIFY leaves what `State.verify` finds, which is nothing only
if every check passes. -/
theorem fetchAndVerifyReportTheirResult : Obligations.FetchAndVerifyReportTheirResult := by
  refine ⟨fun bs s hb hh hl => ?fetched, fun s hb => congrArg _ (State.imgFetched_none hb), fun s hb => ?verified,
    fun s buf hbad hv => ?bad⟩
  case fetched =>
    refine ⟨_, congrArg Host.Outcome.next (State.imgFetched_ok hb hh hl), fun j => ?_, rfl⟩
    exact (State.imgByte_imgPut _ 0 bs j).trans (by simp)
  case verified =>
    refine ⟨s.verifyEnd, congrArg _ (if_pos hb), ?_⟩
    rw [s.verifyEnd_eq]
    exact ⟨State.alert_img .., State.flags_alert .., State.alert_except _ _ (by simp) (by simp)⟩
  case bad =>
    obtain ⟨hformat, hproduct, hkey, hsig, hfloor, hmin⟩ := State.checks_of_verify hv
    rcases hbad with h | h | h | h | h | h
    · exact h (imgMagic_of_format hformat)
    · exact h hproduct
    · rw [hkey] at h; cases h
    · rw [hsig] at h; cases h
    · exact absurd h (not_lt.2 hfloor)
    · rw [imgMinimum_of_no_parts h] at hmin; cases hmin
end

section
/-!
APPLY (R44, R59): the resets of the partitions that its mask names, and what they leave of the others: views of one entry of
one field, the registers of a partition's front end, then the resets one after the other. It settles O11.
-/
namespace Sys2Proof.Machine
set_option Elab.async false

/-! ## Views of one field

A view of an entry of one field ignores every other field, and only those: said as an equivalence, so that simp decides it
without a side goal, also under a fold. -/

theorem foldl_see_mem {α β : Type} {π : State → α} {f : State → β → State} {l : List β}
    (h : ∀ s, ∀ x ∈ l, see π (f s x) = see π s) (s : State) : see π (l.foldl f s) = see π s := by
  induction l generalizing s with
  | nil => rfl
  | cons x l ih =>
    obtain ⟨hx, hl⟩ := forall_and.1 fun t => List.forall_mem_cons.1 (h t)
    rw [List.foldl_cons, ih hl, hx]

/-- Entries `key 0`, …, `key (n - 1)` of a table are set, one after the other. -/
theorem foldl_range_set {β : Type} {π : State → β} {f : State → Nat → State} {key : Nat → Nat} {k : Nat} {d : β}
    (h : ∀ s m, see π (f s m) = if k = key m then d else see π s) (n : Nat) (s : State) :
    see π ((List.range n).foldl f s) = if ∃ m < n, k = key m then d else see π s := by
  induction n with
  | zero => simp
  | succ n ih =>
    rw [List.range_succ, List.foldl_append, List.foldl_cons, List.foldl_nil, h, ih]
    simp only [Nat.exists_lt_succ_right]
    split <;> simp_all

def State.ctxOf (k : Nat) (s : State) : Ctx := s.ctx k
def State.queOf (k : Nat) (s : State) : Que := s.que k
def State.partAt (k : Nat) (s : State) : Part := s.part k
def State.blkAt (b : BlkId) (s : State) : BlockRegs := s.blk b

@[simp] theorem ign_ctxOf (k : Nat) (f : Fld) : Ign (State.ctxOf k) f ↔ f ≠ .ctxs := by
  refine ⟨?_, fun h => by cases f <;> first | exact absurd rfl h | exact fun _ _ => rfl⟩
  rintro h rfl
  have hk := h State.reset [(k, { Ctx.reset with st := .active })]
  simp [State.ctxOf, State.ctx, State.reset, SMap.get, Ctx.reset] at hk

@[simp] theorem ign_queOf (k : Nat) (f : Fld) : Ign (State.queOf k) f ↔ f ≠ .ques := by
  refine ⟨?_, fun h => by cases f <;> first | exact absurd rfl h | exact fun _ _ => rfl⟩
  rintro h rfl
  have hk := h State.reset [(k, { Que.reset with halted := true })]
  simp [State.queOf, State.que, State.reset, SMap.get, Que.reset] at hk

@[simp] theorem ign_partAt (k : Nat) (f : Fld) : Ign (State.partAt k) f ↔ f ≠ .parts := by
  refine ⟨?_, fun h => by cases f <;> first | exact absurd rfl h | exact fun _ _ => rfl⟩
  rintro h rfl
  have hk := h State.reset [(k, { Part.reset with ready := true })]
  simp [State.partAt, State.part, State.reset, SMap.get, Part.reset] at hk

@[simp] theorem ign_blkAt (b : BlkId) (f : Fld) : Ign (State.blkAt b) f ↔ f ≠ .blocks := by
  refine ⟨?_, fun h => by cases f <;> first | exact absurd rfl h | exact fun _ _ => rfl⟩
  rintro h rfl
  have hb := h State.reset [(blkKey b, { BlockRegs.reset with refused := true })]
  simp [State.blkAt, State.blk, State.reset, SMap.get, BlockRegs.reset] at hb

/-! ## Registers of a partition's front end (R44, R429)

Resets of other units and domains that come up leave the registers of a partition's blocks. -/

theorem kindCode_inj {j k : BlkKind} (h : kindCode j = kindCode k) : j = k := by
  cases j <;> cases k <;> first | rfl | cases h

theorem blkKey_inj {b c : BlkId} (hb : b.unit < 64) (hc : c.unit < 64) (h : blkKey b = blkKey c) : b = c := by
  obtain ⟨j, u⟩ := b
  obtain ⟨k, w⟩ := c
  simp only [blkKey] at hb hc h
  obtain rfl : j = k := kindCode_inj (by omega)
  obtain rfl : u = w := by omega
  rfl

/-- A domain numbers a unit that there is (R470). -/
theorem domUnit_lt (d : Nat) : (∀ t, domUnit d = .tile t → t < 48) ∧ (∀ k, domUnit d = .stack k → k < 12) ∧
    (∀ g, domUnit d = .lg g → g < 6) ∧ (∀ p, domUnit d = .kp p → p < 8) ∧ (∀ k, domUnit d = .nme k → k < 12) := by
  unfold domUnit
  (repeat' split) <;> simp <;> omega

/-- A block of a partition's front end, as it is addressed. -/
def BlkId.front (b : BlkId) : Prop := b.kind ∈ partKinds ∧ b.unit < 64

section
variable {b : BlkId} (hb : BlkId.front b)
include hb

theorem State.blkAt_setBlk {c : BlkId} (hc : c.unit < 64) (hne : b ≠ c) (s : State) (r : BlockRegs) :
    see (State.blkAt b) (s.setBlk c r) = see (State.blkAt b) s := by
  rw [see, State.blkAt, State.blk_setBlk, if_neg fun h => hne (blkKey_inj hb.2 hc h)]
  rfl

theorem State.blkAt_setBlk_kind {c : BlkId} (hc : c.unit < 64) (hk : c.kind ∉ partKinds) (s : State) (r : BlockRegs) :
    see (State.blkAt b) (s.setBlk c r) = see (State.blkAt b) s :=
  State.blkAt_setBlk hb hc (fun h => hk (h ▸ hb.1)) s r

theorem State.blkAt_resetBlks {ks : List BlkKind} {u : Nat} (hu : u < 64) (hne : ∀ k ∈ ks, b ≠ ⟨k, u⟩) (s : State)
    (i : Option ImageCfg) : see (State.blkAt b) (s.resetBlks i ks u) = see (State.blkAt b) s :=
  foldl_see_mem (fun _ k hk => State.blkAt_setBlk hb hu (hne k hk) _ _) s

theorem State.blkAt_resetBlks_kind {ks : List BlkKind} {u : Nat} (hu : u < 64) (hk : ∀ k ∈ ks, k ∉ partKinds) (s : State)
    (i : Option ImageCfg) : see (State.blkAt b) (s.resetBlks i ks u) = see (State.blkAt b) s :=
  State.blkAt_resetBlks hb hu (fun k hks h =>
    have hkind : b.kind = k := congrArg BlkId.kind h
    hk k hks (hkind ▸ hb.1)) s i

theorem State.blkAt_resetTile (s : State) (i : Option ImageCfg) {t : Nat} (ht : t < 48) :
    see (State.blkAt b) (s.resetTile i t) = see (State.blkAt b) s := by
  have hr := fun u : State => State.blkAt_resetBlks_kind hb (ks := tileKinds) (u := t) (by omega) (by decide) u i
  simp [State.resetTile, hr]

theorem State.blkAt_resetStack (s : State) (i : Option ImageCfg) {k : Nat} (hk : k < 12) :
    see (State.blkAt b) (s.resetStack i k) = see (State.blkAt b) s := by
  have hr := fun u : State => State.blkAt_resetBlks_kind hb (ks := stackKinds) (u := k) (by omega) (by decide) u i
  simp [State.resetStack, hr]

theorem State.blkAt_resetLg (s : State) (i : Option ImageCfg) (links : Nat) {g : Nat} (hg : g < 6) :
    see (State.blkAt b) (s.resetLg i links g) = see (State.blkAt b) s := by
  have hr := fun u : State => State.blkAt_resetBlks_kind hb (ks := lgKinds) (u := g) (by omega) (by decide) u i
  simp [State.resetLg, hr]

theorem State.blkAt_resetKp (s : State) (i : Option ImageCfg) {p : Nat} (hp : p < 8) :
    see (State.blkAt b) (s.resetKp i p) = see (State.blkAt b) s := by
  have hr := fun u : State => State.blkAt_resetBlks_kind hb (ks := kpKinds) (u := p) (by omega) (by decide) u i
  simp [State.resetKp, hr]

theorem State.blkAt_loseUnit (s : State) (d : Nat) : see (State.blkAt b) (s.loseUnit d) = see (State.blkAt b) s := by
  obtain ⟨htile, hstack, hlg, hkp, hnme⟩ := domUnit_lt d
  unfold State.loseUnit
  split
  case h_1 t ht => simp [State.blkAt_resetTile hb _ _ (htile t ht)]
  case h_2 k hk =>
    have hkvf := State.blkAt_setBlk_kind hb (c := ⟨.kvf, k⟩) (by have := hstack k hk; simp only; omega) (by simp [partKinds])
    simp [State.blkAt_resetStack hb _ _ (hstack k hk), hkvf]
  case h_3 g hg => simp [State.blkAt_resetLg hb _ _ _ (hlg g hg)]
  case h_4 p hp => simp [State.blkAt_resetKp hb _ _ (hkp p hp)]
  case h_5 k hk =>
    have hset := State.blkAt_setBlk_kind hb (c := ⟨.nme, k⟩) (by have := hnme k hk; simp only; omega) (by simp [partKinds])
    simp [State.unflag, hset]
  case h_6 =>
    have hpcx := State.blkAt_setBlk_kind hb (c := ⟨.pcx, 0⟩) (by simp) (by simp [partKinds])
    simp [hpcx]
  case h_7 => rfl

theorem State.blkAt_domainOn (s : State) (d links : Nat) :
    see (State.blkAt b) (s.domainOn d links) = see (State.blkAt b) s := by
  obtain ⟨htile, hstack, hlg, -⟩ := domUnit_lt d
  unfold State.domainOn
  split
  · rfl
  dsimp only
  split
  case h_2 k hk => simp [State.blkAt_resetStack hb _ _ (hstack k hk), State.blkAt_loseUnit hb]
  case h_3 g hg => simp [State.blkAt_resetLg hb _ _ _ (hlg g hg), State.blkAt_loseUnit hb]
  all_goals simp [State.blkAt_loseUnit hb]

theorem State.blkAt_switchOn (s : State) (i : Option ImageCfg) (parts : Nat → Bool) :
    see (State.blkAt b) (s.switchOn i parts) = see (State.blkAt b) s := by
  refine foldl_see _ (fun t d => ?_) _ _
  split
  · rw [ite_see, State.blkAt_domainOn hb, ite_self]
  · rfl

/-- A partition's reset leaves the registers of the other partitions' front ends. -/
theorem State.blkAt_clearPart (s : State) (i : Option ImageCfg) {p : Nat} (hp : p < 64) (hne : b.unit ≠ p) :
    see (State.blkAt b) (s.clearPart i p) = see (State.blkAt b) s := by
  have hparts := fun u : State =>
    State.blkAt_resetBlks hb (ks := partKinds) hp (fun k _ h => hne (congrArg BlkId.unit h)) u i
  have htiles : ∀ (c : Nat → Bool) (u : State), see (State.blkAt b)
      (((List.range 48).filter c).foldl (fun s t => s.resetTile i t) u) = see (State.blkAt b) u := fun c u =>
    foldl_see_mem (fun t x hx => t.blkAt_resetTile hb i (List.mem_range.1 (List.mem_filter.1 hx).1)) u
  have hstacks : ∀ (c : Nat → Bool) (u : State), see (State.blkAt b)
      (((List.range 12).filter c).foldl (fun s t => s.resetStack i t) u) = see (State.blkAt b) u := fun c u =>
    foldl_see_mem (fun t x hx => t.blkAt_resetStack hb i (List.mem_range.1 (List.mem_filter.1 hx).1)) u
  have hlgs : ∀ (c : Nat → Bool) (links : Nat) (u : State), see (State.blkAt b)
      (((List.range 6).filter c).foldl (fun s t => s.resetLg i links t) u) = see (State.blkAt b) u := fun c links u =>
    foldl_see_mem (fun t x hx => t.blkAt_resetLg hb i links (List.mem_range.1 (List.mem_filter.1 hx).1)) u
  have hkps : ∀ (c : Nat → Bool) (u : State), see (State.blkAt b)
      (((List.range 8).filter c).foldl (fun s t => s.resetKp i t) u) = see (State.blkAt b) u := fun c u =>
    foldl_see_mem (fun t x hx => t.blkAt_resetKp hb i (List.mem_range.1 (List.mem_filter.1 hx).1)) u
  unfold State.clearPart
  split
  · rfl
  · simp [hparts, htiles, hstacks, hlgs, hkps]

end

/-! ## Contexts, queues and state of a partition (R429) -/

/-- Every context of the partition is FREE, and no other has changed. -/
theorem State.ctx_clearPart (s : State) (i : Option ImageCfg) (p k : Nat) :
    (s.clearPart i p).ctx k = if ∃ n < s.ctxQuota p, k = ctxKey p n then .reset else s.ctx k := by
  change see (State.ctxOf k) (s.clearPart i p) = _
  have hset := foldl_range_set (π := State.ctxOf k) (f := fun s n => (s.setCtx (s.devCtx p n) .reset).stopTimer
    (.destroy (s.devCtx p n))) (key := ctxKey p) (k := k) (d := .reset)
    (fun t n => (State.stopTimer_see _ _ (by simp)).trans (State.ctx_setCtx ..))
  unfold State.clearPart
  split
  case h_1 hc => simp [State.ctxQuota, hc]; rfl
  case h_2 c hc =>
    simp [hset, State.ctxQuota, hc]
    rfl

/-- No queue of the partition holds work, and no other has changed. -/
theorem State.que_clearPart (s : State) (i : Option ImageCfg) (p k : Nat) :
    (s.clearPart i p).que k = if ∃ n < s.queQuota p, k = queKey p n then .reset else s.que k := by
  change see (State.queOf k) (s.clearPart i p) = _
  have hset := foldl_range_set (π := State.queOf k) (f := fun s n => s.setQue (s.devQue p n) .reset) (key := queKey p)
    (k := k) (d := .reset) (fun t n => State.que_setQue ..)
  unfold State.clearPart
  split
  case h_1 hc => simp [State.queQuota, hc]; rfl
  case h_2 c hc =>
    simp [hset, State.queQuota, hc]
    rfl

theorem State.partAt_setPart {p q : Nat} (h : q ≠ p) (s : State) (x : Part) :
    see (State.partAt q) (s.setPart p x) = see (State.partAt q) s := by
  rw [see, State.partAt, State.part_setPart, if_neg h]
  rfl

theorem State.partAt_clearPart {p q : Nat} (h : q ≠ p) (s : State) (i : Option ImageCfg) :
    see (State.partAt q) (s.clearPart i p) = see (State.partAt q) s := by
  unfold State.clearPart
  split
  · rfl
  · simp [State.partAt_setPart h]

/-! ## APPLY (R59) -/

theorem State.imgCmd_owner {s : State} {m : Master} (f : State → State) (hr : s.imgReach m = true) (ho : s.imgOwns m = true)
    (hb : s.img.busy = none) : s.imgCmd m f = f (s.applyPart ⟨.img, 0⟩ 0) := by
  simp [State.imgCmd, State.imgOwned_owner _ hr ho, hb]

/-- The image that is applied, or one without partitions where none is. -/
def State.oldImage (s : State) (new : ImageCfg) : ImageCfg :=
  s.img.applied.getD { new with parts := [], mask := noMask, tallies := [], sections := [] }

/-- An APPLY of the verified image in the buffer, with its staged fields applied. -/
def State.imgApply (s : State) (new : ImageCfg) (mask : BitVec 8) : State :=
  if ¬ s.img.verified then s.imgResult 0x01
  else if (List.range 8).all (fun p => mask.getLsbD p || samePart (s.oldImage new) new p) then s.beginApply new mask
  else s.imgResult 0x0A

theorem exec_imgApply {m : Master} {s : State} (hr : s.imgReach m = true) (ho : s.imgOwns m = true)
    (hb : s.img.busy = none) : exec (.imgApply m) s = .next (
      let u := s.applyPart ⟨.img, 0⟩ 0
      u.imgApply (imgCfg u.img.buf) (BitVec.ofNat 8 (u.cfg .img 0 0x2C 7 0))) :=
  congrArg Host.Outcome.next (State.imgCmd_owner _ hr ho hb)

/-- Partition `p` of the mask is reset for an APPLY: a lower rung's order reads ESCALATED (R432). -/
def State.takePart (s : State) (new : ImageCfg) (p : Nat) : State :=
  let x := s.part p
  let u := s.setPart p { x with
    binds := some (s.binding p), rstRuns := [], rstBusy := none, rstRes := if x.rstBusy.isSome then 0x04 else x.rstRes }
  (u.clearPart (some new) p).stopTimer (.rung p .partition)

/-- The IMG_ block of an APPLY that runs. -/
def Img.applying (x : Img) (new : ImageCfg) (mask : BitVec 8) : Img :=
  { x with busy := some .apply, pendingImage := some new, mask := mask, result := 0, detail := 0xFF }

/-- Every partition of the mask is reset. -/
def State.takeParts (s : State) (new : ImageCfg) (mask : BitVec 8) : State :=
  (masked s.img.applied mask).foldl (fun u p => u.takePart new p) { s with img := s.img.applying new mask }

/-- After the resets only the board and the supplies of units change. -/
theorem State.beginApply_see_takeParts {α : Type} {π : State → α} (s : State) (new : ImageCfg) (mask : BitVec 8)
    (hon : ∀ u parts, see π (State.switchOn u (some new) parts) = see π u) (hW : Ign π .board ∧ Ign π .pwr) :
    see π (s.beginApply new mask) = see π (s.takeParts new mask) := by
  simp [State.beginApply, hon, hW]
  rfl

theorem State.takePart_img (s : State) (new : ImageCfg) (p : Nat) : (s.takePart new p).img = s.img := by
  change see State.img (s.takePart new p) = see State.img s
  simp [State.takePart]

theorem State.beginApply_img (s : State) (new : ImageCfg) (mask : BitVec 8) :
    (s.beginApply new mask).img = s.img.applying new mask :=
  (s.beginApply_see_takeParts (π := State.img) new mask (fun _ _ => by simp) (by simp)).trans
    (foldl_see (π := State.img) _ (fun u p => u.takePart_img new p) _ _)

theorem State.ctx_takePart (s : State) (new : ImageCfg) (p k : Nat) :
    (s.takePart new p).ctx k = if ∃ n < s.ctxQuota p, k = ctxKey p n then .reset else s.ctx k :=
  State.ctx_clearPart ..

theorem State.que_takePart (s : State) (new : ImageCfg) (p k : Nat) :
    (s.takePart new p).que k = if ∃ n < s.queQuota p, k = queKey p n then .reset else s.que k :=
  State.que_clearPart ..

/-- What the reset of one partition establishes and the others keep holds after the resets of all. -/
theorem State.takeParts_of_mem {Q : State → Prop} {s : State} {new : ImageCfg} {mask : BitVec 8} {p : Nat}
    (hp : p ∈ masked s.img.applied mask) (hmake : ∀ u, u.img.applied = s.img.applied → Q (State.takePart u new p))
    (hkeep : ∀ u q, Q u → Q (State.takePart u new q)) : Q (s.takeParts new mask) := by
  have hfold : ∀ (l : List Nat) (u : State), u.img.applied = s.img.applied → p ∈ l ∨ Q u →
      Q (l.foldl (fun t q => t.takePart new q) u) := by
    intro l
    induction l with
    | nil => exact fun u _ h => h.resolve_left List.not_mem_nil
    | cons q l ih =>
      refine fun u hu h => ih _ ((congrArg Img.applied (u.takePart_img new q)).trans hu) ?_
      rcases h with h | h
      · rcases List.mem_cons.1 h with rfl | h
        · exact .inr (hmake u hu)
        · exact .inl h
      · exact .inr (hkeep u q h)
  exact hfold _ _ rfl (.inl hp)

theorem State.ctx_beginApply (s : State) (new : ImageCfg) (mask : BitVec 8) (k : Nat) :
    (s.beginApply new mask).ctx k = (s.takeParts new mask).ctx k := by
  exact s.beginApply_see_takeParts (π := State.ctxOf k) new mask (fun _ _ => by simp) (by simp)

theorem State.que_beginApply (s : State) (new : ImageCfg) (mask : BitVec 8) (k : Nat) :
    (s.beginApply new mask).que k = (s.takeParts new mask).que k := by
  exact s.beginApply_see_takeParts (π := State.queOf k) new mask (fun _ _ => by simp) (by simp)

section
variable {s : State} {new : ImageCfg} {mask : BitVec 8} {p : Nat}

theorem State.ctx_takeParts_masked (hp : p ∈ masked s.img.applied mask) {c : Nat} (hc : c < s.ctxQuota p) :
    (s.takeParts new mask).ctx (ctxKey p c) = .reset := by
  refine State.takeParts_of_mem (Q := fun u => u.ctx (ctxKey p c) = .reset) hp (fun u hu => ?_) (fun u q hq => ?_)
  · have hquota : u.ctxQuota p = s.ctxQuota p := by rw [State.ctxQuota, State.cfgOf, hu]; rfl
    rw [State.ctx_takePart, hquota, if_pos ⟨c, hc, rfl⟩]
  · rw [State.ctx_takePart, hq, ite_self]

theorem State.que_takeParts_masked (hp : p ∈ masked s.img.applied mask) {q : Nat} (hq : q < s.queQuota p) :
    (s.takeParts new mask).que (queKey p q) = .reset := by
  refine State.takeParts_of_mem (Q := fun u => u.que (queKey p q) = .reset) hp (fun u hu => ?_) (fun u j hj => ?_)
  · have hquota : u.queQuota p = s.queQuota p := by rw [State.queQuota, State.cfgOf, hu]; rfl
    rw [State.que_takePart, hquota, if_pos ⟨q, hq, rfl⟩]
  · rw [State.que_takePart, hj, ite_self]

theorem lt_of_mem_masked {i : Option ImageCfg} (h : p ∈ masked i mask) : p < 8 :=
  BitVec.lt_of_getLsbD (List.mem_filter.1 h).2

/-- The state of a partition outside the mask. -/
theorem State.part_beginApply_unmasked (hp : p ∉ masked s.img.applied mask) :
    (s.beginApply new mask).part p = s.part p := by
  refine (s.beginApply_see_takeParts (π := State.partAt p) new mask (fun _ _ => by simp) (by simp)).trans ?_
  refine foldl_see_mem (π := State.partAt p) (fun u q hq => ?_) _
  have hne : p ≠ q := fun h => hp (h ▸ hq)
  simp [State.takePart, State.partAt_clearPart hne, State.partAt_setPart hne]

/-- The front end's registers of a partition outside the mask. -/
theorem State.blk_beginApply_unmasked {b : BlkId} (hb : BlkId.front b) (hp : b.unit ∉ masked s.img.applied mask) :
    (s.beginApply new mask).blk b = s.blk b := by
  refine (s.beginApply_see_takeParts (π := State.blkAt b) new mask (fun u i => u.blkAt_switchOn hb _ i) (by simp)).trans ?_
  refine foldl_see_mem (π := State.blkAt b) (fun u q hq => ?_) _
  have hq8 := lt_of_mem_masked hq
  have hclear := fun t : State => t.blkAt_clearPart hb (some new) (p := q) (by omega) fun h => hp (h ▸ hq)
  simp [State.takePart, hclear]

end

end Sys2Proof.Machine

open Sys2Proof Sys2Proof.Machine

/-- Settles O11: an APPLY that begins resets the masked partitions one after the other, and each reset leaves the state and
the front end's registers of the other partitions. -/
theorem applyResetsTheMaskedPartitions : Obligations.ApplyResetsTheMaskedPartitions := by
  intro m s hr ho hb u new mask old
  have hexec : exec (.imgApply m) s = .next (u.imgApply new mask) := exec_imgApply hr ho hb
  refine ⟨fun hv => ?unverified, fun hv hx => ?conflict, fun hv hx => ⟨u.beginApply new mask, ?begins, u.beginApply_img new mask,
    fun p hp => ⟨fun c hc => ?ctx, fun q hq => ?que⟩, fun p hp => ⟨State.part_beginApply_unmasked hp, fun k hk hlt => ?blk⟩⟩⟩
  case unverified => rw [hexec, State.imgApply, if_pos (by simp [hv])]; rfl
  case conflict =>
    obtain ⟨p, hp, hm, hs⟩ := hx
    rw [hexec, State.imgApply, if_neg (by simp [hv]), if_neg fun hall => ?_]
    · rfl
    · have hpart := List.all_eq_true.1 hall p (List.mem_range.2 hp)
      rw [hm, show samePart (u.oldImage new) new p = false from hs] at hpart
      cases hpart
  case begins =>
    rw [hexec, State.imgApply, if_neg (by simp [hv]), if_pos]
    exact List.all_eq_true.2 fun p hp => Bool.or_eq_true_iff.2 (hx p (List.mem_range.1 hp))
  case ctx => rw [State.ctx_beginApply, State.ctx_takeParts_masked hp hc]
  case que => rw [State.que_beginApply, State.que_takeParts_masked hp hq]
  case blk => exact State.blk_beginApply_unmasked (b := ⟨k, p⟩) ⟨hk, hlt⟩ hp
end

section
/-!
The end of an APPLY (R59, R60): memory that keeps its owner is kept, memory that changes within the mask reads zero, and the
new image is the applied one. It settles O12.
-/
namespace Sys2Proof.Machine
set_option Elab.async false

/-! ## Device memory where a domain goes off (R473)

A view of one byte: what zeroes a range or a stack leaves the bytes outside. -/

def State.byteAt (a : Nat) (s : State) : Byte := s.readByte a

@[simp] theorem ign_byteAt (a : Nat) (f : Fld) : Ign (State.byteAt a) f ↔ f ≠ .mem := by
  refine ⟨?_, fun h => by cases f <;> first | exact absurd rfl h | exact fun _ _ => rfl⟩
  rintro h rfl
  have ha := h State.reset [(a, 1)]
  simp [State.byteAt, State.readByte, State.reset, SMap.get] at ha

theorem State.byteAt_zeroRange (s : State) {a lo n : Nat} (h : ¬ (lo ≤ a ∧ a < lo + n)) :
    see (State.byteAt a) (s.zeroRange lo n) = see (State.byteAt a) s :=
  (SMap.get_filter 0 s.mem (fun c => decide (¬ (lo ≤ c ∧ c < lo + n))) a).trans (if_pos (decide_eq_true h))

/-- A byte of a stack lies below the scratchpads (R13). -/
theorem stack_eq_of_physAt {a k : Nat} (h : physAt a = .stack k) : a < 0x00C0_0000_0000 ∧ k = a / 0x0010_0000_0000 := by
  unfold physAt at h
  split at h
  case isTrue hlt => exact ⟨hlt, (PhysAt.stack.inj h).symm⟩
  case isFalse => (repeat' split at h) <;> cases h

/-- The domain of a stack is the one that `domUnit` reads as that stack. -/
theorem eq_domStack_of_domUnit {d k : Nat} (h : domUnit d = .stack k) : d = domStack k := by
  unfold domUnit at h
  (repeat' split at h) <;> cases h
  unfold domStack
  omega

/-- A unit that loses its supply zeroes a tile's scratchpad or its own stack, and no other memory. -/
theorem State.byteAt_loseUnit (s : State) {a k d : Nat} (ha : physAt a = .stack k) (hd : d ≠ domStack k) :
    see (State.byteAt a) (s.loseUnit d) = see (State.byteAt a) s := by
  obtain ⟨hlt, hk⟩ := stack_eq_of_physAt ha
  unfold State.loseUnit
  split
  case h_1 t _ =>
    have hout := fun u : State => u.byteAt_zeroRange (a := a) (lo := scratchBase t) (n := scratchSize)
      (by unfold scratchBase; omega)
    simp [State.resetTile, hout]
  case h_2 j hj =>
    have hjk : j ≠ k := fun e => hd (e ▸ eq_domStack_of_domUnit hj)
    have hout := fun u : State => u.byteAt_zeroRange (a := a) (lo := stackBase j) (n := 0x10_0000_0000)
      (by unfold stackBase; omega)
    simp [hout]
  all_goals simp

theorem State.byteAt_dropDoms (s : State) {a k : Nat} (ha : physAt a = .stack k) (ds : List Nat)
    (hd : ∀ d ∈ ds, d ≠ domStack k) : see (State.byteAt a) (s.dropDoms ds) = see (State.byteAt a) s := by
  induction ds generalizing s with
  | nil => rfl
  | cons d ds ih =>
    obtain ⟨hd, hds⟩ := List.forall_mem_cons.1 hd
    exact (ih _ hds).trans ((State.byteAt_loseUnit _ ha hd).trans (State.setDom_see _ _ _ (by simp)))

/-! ## Owners of bytes (R51, R59) -/

theorem domUnit_domStack {k : Nat} (hk : k < 12) : domUnit (domStack k) = .stack k := by
  unfold domUnit domStack
  rw [if_neg (by omega), if_pos (by omega), Nat.add_sub_cancel_left]

/-- The stack of a byte that an image gives an owner belongs to a partition of the image. -/
theorem domPart_ne_none_of_byteOwner {i : Option ImageCfg} {a k : Nat} (ha : physAt a = .stack k)
    (ho : (byteOwner i a).isSome = true) : domPart i (domStack k) ≠ none := by
  obtain ⟨hlt, hk⟩ := stack_eq_of_physAt ha
  cases i with
  | none => simp [byteOwner, ha] at ho
  | some i =>
    simp only [byteOwner, ha] at ho
    rw [domPart, domUnit_domStack (by omega)]
    cases hf : i.parts.find? (fun c => stackIn i.mask c k) with
    | none => simp [hf] at ho
    | some c => simp

theorem physAt_stack_of_byteOwner {i : Option ImageCfg} {a : Nat} (ho : (byteOwner i a).isSome = true) :
    ∃ k, physAt a = .stack k := by
  cases hp : physAt a with
  | stack k => exact ⟨k, rfl⟩
  | _ => simp [byteOwner, hp] at ho

theorem domPart_eq_none_of_mem_goingOff {old i : Option ImageCfg} {parts : Nat → Bool} {d : Nat} (h : d ∈ goingOff old i parts) :
    domPart i d = none := by
  have hd := (List.mem_filter.1 h).2
  exact of_decide_eq_true (Bool.and_eq_true_iff.1 hd).2

/-- The byte's place changes from one image to the other, in partitions of the mask (R59). -/
def placeChanged (old new : Option ImageCfg) (mask : BitVec 8) (a : Nat) : Bool :=
  match physAt a with
  | .stack _ => decide (byteOwner old a ≠ byteOwner new a) && (byteOwner old a).all (fun x => mask.getLsbD x.1) &&
    (byteOwner new a).all (fun x => mask.getLsbD x.1)
  | _ => false

theorem State.byteAt_zeroChanged (s : State) (old new : Option ImageCfg) (mask : BitVec 8) (a : Nat) :
    see (State.byteAt a) (s.zeroChanged old new mask) = if placeChanged old new mask a then 0 else s.readByte a := by
  have hmem : (s.zeroChanged old new mask).mem = s.mem.filter (fun c => !(placeChanged old new mask c.1)) := by
    refine List.filter_congr fun c _ => congrArg (!·) ?_
    dsimp only [placeChanged]
    cases physAt c.1 <;> cases byteOwner old c.1 <;> cases byteOwner new c.1 <;> rfl
  rw [see, State.byteAt, State.readByte, hmem, SMap.get_filter 0 s.mem (fun a => !(placeChanged old new mask a))]
  cases placeChanged old new mask a <;> rfl

theorem placeChanged_same {old new : Option ImageCfg} (mask : BitVec 8) {a : Nat} (h : byteOwner old a = byteOwner new a) :
    placeChanged old new mask a = false := by
  unfold placeChanged
  split
  · simp [h]
  · rfl

theorem placeChanged_masked {old new : Option ImageCfg} {mask : BitVec 8} {a k : Nat} (hp : physAt a = .stack k)
    (hne : byteOwner old a ≠ byteOwner new a) (hold : ∀ x ∈ byteOwner old a, mask.getLsbD x.1 = true)
    (hnew : ∀ x ∈ byteOwner new a, mask.getLsbD x.1 = true) : placeChanged old new mask a = true := by
  simp only [placeChanged, hp, Bool.and_eq_true, decide_eq_true_eq, Option.all_eq_true]
  exact ⟨⟨hne, hold⟩, hnew⟩

/-! ## The end of an APPLY (R59, R60) -/

/-- The state in which the new image is the applied one: what goes off has gone off and what changes reads zero. -/
def State.enterImage (s : State) (new : ImageCfg) : State :=
  let u := (s.dropDoms s.applyOff).zeroChanged s.img.applied (some new) s.img.mask
  { u with img := { u.img with
    busy := none, applied := some new, pendingImage := none, applies := u.img.applies + 1, result := 0, detail := 0xFF } }

theorem State.enterImage_img (s : State) (new : ImageCfg) : (s.enterImage new).img = { s.img with
    busy := none, applied := some new, pendingImage := none, applies := s.img.applies + 1, result := 0, detail := 0xFF } := by
  have h : ((s.dropDoms s.applyOff).zeroChanged s.img.applied (some new) s.img.mask).img = s.img :=
    (State.zeroChanged_see (π := State.img) _ _ _ _ (by simp)).trans (State.dropDoms_see (π := State.img) _ _ (by simp))
  rw [State.enterImage, h]

theorem State.enterImage_see {α : Type} {π : State → α} (s : State) (new : ImageCfg)
    (hW : Ign π .mem ∧ Ign π .poison ∧ Ign π .blocks ∧ Ign π .img ∧ Ign π .tiles ∧ Ign π .mxes ∧ Ign π .vxes ∧
      Ign π .stes ∧ Ign π .chains ∧ Ign π .stks ∧ Ign π .tlbs ∧ Ign π .nmes ∧ Ign π .kvfs ∧ Ign π .links ∧ Ign π .lgs ∧
      Ign π .cles ∧ Ign π .pairs ∧ Ign π .tals ∧ Ign π .ldgs ∧ Ign π .wchs ∧ Ign π .cycles ∧ Ign π .pcx ∧ Ign π .funcs ∧
      Ign π .pwr ∧ Ign π .timers) : see π (s.enterImage new) = see π s := by
  simp [State.enterImage, hW]

theorem State.readByte_enterImage (s : State) (new : ImageCfg) (a : Nat) : (s.enterImage new).readByte a =
    if placeChanged s.img.applied (some new) s.img.mask a then 0 else (s.dropDoms s.applyOff).readByte a :=
  State.byteAt_zeroChanged _ _ _ _ a

/-- A byte that keeps its owner keeps its value: its stack does not go off. -/
theorem State.readByte_enterImage_same (s : State) {new : ImageCfg} {a : Nat} (hn : s.img.pendingImage = some new)
    (h : byteOwner s.img.applied a = byteOwner (some new) a) (ho : (byteOwner (some new) a).isSome = true) :
    (s.enterImage new).readByte a = s.readByte a := by
  obtain ⟨k, hk⟩ := physAt_stack_of_byteOwner ho
  rw [s.readByte_enterImage, placeChanged_same _ h]
  refine s.byteAt_dropDoms hk _ fun d hd e => ?_
  rw [State.applyOff, hn] at hd
  exact domPart_ne_none_of_byteOwner hk ho (e ▸ domPart_eq_none_of_mem_goingOff hd)

/-- The image measured into its slot, and the end of chip start (R60, R461). -/
def State.endApply (s : State) (new : ImageCfg) : State :=
  (({ s with
    sec := { s.sec with slots := s.sec.slots.set 4 new.digest }
    boot := { s.boot with applied := true, chipReset := false } } : State).stopTimer (.rung 0 .chip)).alert (bit 28)

theorem State.endApply_see {α : Type} {π : State → α} (s : State) (new : ImageCfg)
    (hW : Ign π .blocks ∧ Ign π .sec ∧ Ign π .boot ∧ Ign π .timers ∧ Ign π .out) : see π (s.endApply new) = see π s := by
  simp [State.endApply, hW]

theorem State.endApply_sec_boot (s : State) (new : ImageCfg) :
    (s.endApply new).sec = { s.sec with slots := s.sec.slots.set 4 new.digest } ∧
      (s.endApply new).boot = { s.boot with applied := true, chipReset := false } :=
  ⟨(State.alert_see (π := State.sec) _ _ (by simp)).trans (State.stopTimer_see (π := State.sec) _ _ (by simp)),
    (State.alert_see (π := State.boot) _ _ (by simp)).trans (State.stopTimer_see (π := State.boot) _ _ (by simp))⟩

section
variable {s : State} {new : ImageCfg} (hbusy : s.img.busy = some .apply) (hnew : s.img.pendingImage = some new)
  (htrain : ∀ p ∈ masked (some new) s.img.mask, partTrains s (some new) p = false)
  (hstart : s.boot.applied = true ∨ s.startHeld = false) (hidle : s.applyOff.all s.chansIdle = true)
include hbusy hnew htrain hstart hidle

/-- Between the image's entry and the end of the APPLY only registers, tables and partitions are settled. -/
theorem exec_imgApplyDone_due : ∃ u : State, exec .imgApplyDone s = .next (u.endApply new) ∧
    ∀ {α : Type} {π : State → α}, Ign π .blocks ∧ Ign π .kvfs ∧ Ign π .parts ∧ Ign π .sess ∧ Ign π .pairs ∧ Ign π .tals ∧
      Ign π .timers → see π u = see π (s.enterImage new) := by
  have hdue : ¬ ((masked (some new) s.img.mask).any (fun p => partTrains s (some new) p) = true ∨
      (¬ s.boot.applied = true ∧ s.startHeld = true) ∨ ¬ s.applyOff.all s.chansIdle = true) := by
    rw [List.any_eq_true]
    rintro (⟨p, hp, ht⟩ | ⟨ha, hh⟩ | hi)
    · rw [htrain p hp] at ht; cases ht
    · rcases hstart with h | h
      · exact ha h
      · rw [h] at hh; cases hh
    · exact hi hidle
  simp only [exec, execImgApplyDone, hbusy, hnew]
  rw [if_neg hdue]
  refine ⟨_, rfl, fun {α π} hW => ?_⟩
  have hreset : ∀ i ks (l : List Nat) (t : State), see π (l.foldl (fun s x => s.resetBlks i ks x) t) = see π t :=
    fun i ks l t => foldl_see _ (fun _ _ => by simp [hW]) l t
  rw [State.loseWindows_see _ (by simp [hW]), State.ioEvents_see _ _ _ (by simp [hW])]
  refine (foldl_see _ (fun t p => ?part) _ _).trans (foldl_see _ (fun t p => by simp [hW]) _ _)
  case part =>
    rw [State.readyPart_see _ _ (by simp [hW]), ite_see, State.flag_see _ _ _ _ _ (by simp [hW]), ite_self,
      State.resetBlks_see _ _ _ _ (by simp [hW]), hreset, hreset, hreset, hreset]

end

end Sys2Proof.Machine

open Sys2Proof Sys2Proof.Machine

/-- Settles O12: what follows the new image's entry changes no byte of memory and no field of the IMG_ block. -/
theorem applyCompletesWithTheNewImage : Obligations.ApplyCompletesWithTheNewImage := by
  intro new s hbusy hnew htrain hstart hidle
  obtain ⟨u, hexec, hsee⟩ := exec_imgApplyDone_due hbusy hnew htrain hstart hidle
  obtain ⟨hsec, hboot⟩ := u.endApply_sec_boot new
  have hmem : ∀ a, (u.endApply new).readByte a = (s.enterImage new).readByte a := fun a =>
    (State.endApply_see (π := State.byteAt a) u new (by simp)).trans (hsee (by simp))
  refine ⟨_, hexec, ?img, ?boot, ?sec, fun a h ho => ?same, fun a k hk hne hold hnew' => ?zero⟩
  case img =>
    rw [← State.enterImage_img]
    exact (State.endApply_see (π := State.img) u new (by simp)).trans (hsee (by simp))
  case boot =>
    have hu : u.boot = s.boot := (hsee (π := State.boot) (by simp)).trans (s.enterImage_see new (by simp))
    rw [hboot, hu]
  case sec =>
    have hu : u.sec = s.sec := (hsee (π := State.sec) (by simp)).trans (s.enterImage_see new (by simp))
    rw [hsec, hu]
  case same => rw [hmem, s.readByte_enterImage_same hnew h ho]
  case zero => rw [hmem, s.readByte_enterImage, placeChanged_masked hk hne hold hnew', if_pos rfl]
end

section
/-!
Doorbells and fetching (R73 to R75): what a doorbell value does at a queue, and what a fetch leaves of HEAD and TAIL. It
settles O15 and O16.
-/
namespace Sys2Proof.Machine
set_option Elab.async false

theorem State.que_of_ques {s t : State} (h : t.ques = s.ques) (k : Nat) : t.que k = s.que k := by
  rw [State.que, State.que, h]

theorem State.q_of_ques {s t : State} (h : t.ques = s.ques) (p q : Nat) : t.q p q = s.q p q := State.que_of_ques h _

@[simp] theorem State.q_setQ (s : State) (p q : Nat) (x : Que) : (s.setQ p q x).q p q = x :=
  (State.que_setQue ..).trans (if_pos rfl)

theorem State.que_setQ_ne (s : State) {p q k : Nat} (h : k ≠ queKey p q) (x : Que) : (s.setQ p q x).que k = s.que k :=
  (State.que_setQue ..).trans (if_neg h)

/-! ## Doorbells (R73) -/

/-- The state in which a doorbell is taken: an access of the host is counted at PCI Express and comes after the posted writes
of its function (R335, R395). -/
def State.atDoorbell (s : State) (path : DbPath) : State :=
  match dbFn path with
  | some fn => (s.countIo 0x0602 (dbBytes path)).flushPosted fn
  | none => s

theorem exec_doorbell_queue {path : DbPath} {s u : State} {p q : Nat} (v : W32) (hu : s.atDoorbell path = u)
    (h : u.dbQueue path = some (p, q)) : exec (.doorbell path v) s = .next (u.ring_ p q v) := by
  change Host.Outcome.next ((s.atDoorbell path).doorbell path v) = _
  rw [hu, State.doorbell, h]

theorem exec_doorbell_none {path : DbPath} {s u : State} (v : W32) (hu : s.atDoorbell path = u)
    (h : u.dbQueue path = none) : exec (.doorbell path v) s = .next (u.dbRead path) := by
  change Host.Outcome.next ((s.atDoorbell path).doorbell path v) = _
  rw [hu, State.doorbell, h]

theorem State.dbRead_write {path : DbPath} (s : State) (h : ∀ fn slot, path ≠ .bar4Read fn slot) : s.dbRead path = s := by
  cases path with
  | bar4Read fn slot => exact absurd rfl (h fn slot)
  | _ => rfl

/-- Counting an event leaves the registers of every other block. -/
theorem State.blk_count_ne {b c : BlkId} (h : blkKey c ≠ blkKey b) (s : State) (ev n : Nat) (w : Who) :
    (s.count b ev n w).blk c = s.blk c := by
  unfold State.count
  dsimp only
  split
  · rfl
  · split
    · exact (State.blk_setBlk ..).trans (if_neg h)
    · rfl

theorem State.flags_flag (s : State) (k : BlkKind) (u off : Nat) (bits : W32) :
    (s.flag k u off bits).flags k u off = s.flags k u off ||| bits := by
  simp [State.flags, State.flag, w1cWord]

section
variable {u : State} {p q : Nat} {v : W32}

theorem State.ring_disabled (h : u.qEnabled p q = false ∨ (u.q p q).draining = true) :
    u.ring_ p q v = u.flag .que p (0x4000 + 4 * q) (bit 27) := if_pos (by simpa using h)

variable (hen : u.qEnabled p q = true) (hdr : (u.q p q).draining = false)
include hen hdr

theorem State.ring_stale (hs : 2 ^ 31 ≤ (v - (u.q p q).tail).toNat) :
    u.ring_ p q v = (u.flag .que p (0x4000 + 4 * q) (bit 28)).countPart p 0x0503 1 nobody :=
  (if_neg (by simp [hen, hdr])).trans (if_pos hs)

theorem State.ring_overflow (hs : (v - (u.q p q).tail).toNat < 2 ^ 31) (hz : u.qSize p q < (v - (u.q p q).head).toNat) :
    u.ring_ p q v = u.raise p (u.queFault p q ⟨0x05, 0, v.toNat, 2, 0, 0x7F⟩) :=
  (if_neg (by simp [hen, hdr])).trans ((if_neg (not_le.2 hs)).trans (if_pos hz))

/-- A value that is taken is the new TAIL; beside it only the queue's progress clock may start. -/
theorem State.ring_taken (hs : (v - (u.q p q).tail).toNat < 2 ^ 31) (hz : (v - (u.q p q).head).toNat ≤ u.qSize p q)
    {α : Type} {π : State → α} (hW : Ign π .timers) :
    see π (u.ring_ p q v) = see π (u.setQ p q { u.q p q with tail := v }) := by
  rw [State.ring_, if_neg (by simp [hen, hdr]), if_neg (not_le.2 hs), if_neg (not_lt.2 hz)]
  simp [hW]

end

/-! ## Fetching (R74, R75) -/

/-- The words of a fetched record. -/
def recordWords (bs : List Byte) : List W64 :=
  (List.range 8).map (fun i => BitVec.ofNat 64 (leNat ((bs.drop (8 * i)).take 8)))

/-- The queue after it has taken a record (R75). -/
def Que.taking (x : Que) (bs : List Byte) (m : Cmd → BookMatch) : Que :=
  let recs := x.recs ++ [recordWords bs]
  if recs.length = 1 + bitsOf ((recs.getD 0 []).getD 0 0).toNat 63 60 then
    let c := mkCmd (x.head + 1 - BitVec.ofNat 32 recs.length) recs.flatten
    { x with head := x.head + 1, recs := [], cmds := x.cmds ++ [{ c with book := m c }] }
  else { x with head := x.head + 1, recs := recs }

theorem State.q_takeRecord (s : State) (p q : Nat) (bs : List Byte) :
    (s.takeRecord p q bs).q p q = (s.q p q).taking bs s.bookMatch := by
  refine (State.countPart_see (π := State.queOf (queKey p q)) _ _ _ _ _ (by simp)).trans ?_
  exact (ite_see ..).trans (if_congr Iff.rfl (State.q_setQ ..) (State.q_setQ ..))

theorem Que.taking_head (x : Que) (bs : List Byte) (m : Cmd → BookMatch) :
    (x.taking bs m).head = x.head + 1 ∧ (x.taking bs m).tail = x.tail := by
  unfold Que.taking
  dsimp only
  split <;> exact ⟨rfl, rfl⟩

theorem State.q_haltAt (s : State) (p q i : Nat) : (s.haltAt p q i).q p q =
    { s.q p q with halted := true, recs := [], cmds := loseFrom i (s.q p q).cmds } :=
  (State.stopTimer_see (π := State.queOf (queKey p q)) _ _ (by simp)).trans (State.q_setQ ..)

/-- A queue from which at most `n` records were read, all below TAIL. -/
def Que.ReadUpTo (n : Nat) (x y : Que) : Prop :=
  y.tail = x.tail ∧ (y.head - x.head).toNat ≤ n ∧ (y.head - x.head).toNat ≤ (x.tail - x.head).toNat

theorem Que.ReadUpTo.none {x y : Que} (n : Nat) (hh : y.head = x.head) (ht : y.tail = x.tail) : x.ReadUpTo n y := by
  rw [Que.ReadUpTo, hh, BitVec.sub_self]
  exact ⟨ht, Nat.zero_le _, Nat.zero_le _⟩

/-- One record more, where HEAD had not reached TAIL. -/
theorem Que.ReadUpTo.succ {n : Nat} {x y z : Que} (hne : x.head ≠ x.tail) (hh : y.head = x.head + 1) (ht : y.tail = x.tail)
    (h : y.ReadUpTo n z) : x.ReadUpTo (n + 1) z := by
  obtain ⟨htail, hn, hle⟩ := h
  rw [hh] at hn hle
  rw [ht] at htail hle
  refine ⟨htail, ?_, ?_⟩ <;> bv_omega

theorem State.fetchRecs_readUpTo (p q n : Nat) (s : State) : (s.q p q).ReadUpTo n ((s.fetchRecs p q n).q p q) := by
  induction n generalizing s with
  | zero => exact .none 0 rfl rfl
  | succ n ih =>
    rw [State.fetchRecs]
    dsimp only
    split
    · exact .none _ rfl rfl
    case isFalse hstop =>
    split
    case h_1 bs u hload =>
      have hq : u.q p q = s.q p q := State.loadVa_see_of (π := State.queOf (queKey p q)) hload (by simp)
      obtain ⟨hh, ht⟩ := (u.q p q).taking_head bs u.bookMatch
      rw [← u.q_takeRecord, hq] at hh ht
      exact (ih _).succ (fun h => hstop (.inl h)) hh ht
    case h_2 b u hload =>
      have hq : (u.raise p (u.queFault p q b)).q p q = s.q p q :=
        (State.raise_see (π := State.queOf (queKey p q)) _ _ _ (by simp)).trans
          (State.loadVa_see_of (π := State.queOf (queKey p q)) hload (by simp))
      rw [State.q_haltAt, hq]
      exact .none _ rfl rfl

theorem State.fetchRecs_one {s u : State} {p q : Nat} {bs : List Byte} (hne : (s.q p q).head ≠ (s.q p q).tail)
    (hroom : (s.q p q).recs ≠ [] ∨ (s.q p q).cmds.length < 32)
    (hload : s.loadVa (tlbPart p) p (s.qCtx p q) (s.qBase p q + 64 * ((s.q p q).head.toNat % s.qSize p q)) 64 = (.ok bs, u)) :
    s.fetchRecs p q 1 = u.takeRecord p q bs := by
  have hgo : ¬ ((s.q p q).head = (s.q p q).tail ∨ ((s.q p q).recs = [] ∧ 32 ≤ (s.q p q).cmds.length)) := by
    rintro (h | ⟨h, hl⟩)
    · exact hne h
    · exact hroom.elim (absurd h) fun hlt => absurd hl (not_le.2 hlt)
  rw [State.fetchRecs]
  simp only [hgo, if_false, hload]
  rfl

theorem exec_queueFetch (p : Fin 8) (q : Fin 2048) (n : Fin 9) (s : State) : exec (.queueFetch p q n) s =
    .next (if s.mayFetch p.val q.val then s.fetchRecs p.val q.val n.val else s) := rfl

end Sys2Proof.Machine

open Sys2Proof Sys2Proof.Machine

/-- Settles O15: by the branches of `State.ring_` where the doorbell names a queue, and of `State.dbRead` where it does not. -/
theorem doorbellMovesTheAcceptedTail : Obligations.DoorbellMovesTheAcceptedTail := by
  intro path v s p q u x
  have hu : s.atDoorbell path = u := rfl
  refine ⟨fun hn hw => ?noQueue, fun fn slot hp hup hpr => ?read, fun hq => ?queue⟩
  case noQueue => rw [exec_doorbell_none v hu hn, State.dbRead_write _ hw]
  case read =>
    subst hp
    exact (exec_doorbell_none v hu rfl).trans (congrArg _ (if_pos ⟨hup, hpr⟩))
  case queue =>
    have hexec := exec_doorbell_queue v hu hq
    refine ⟨fun h => hexec.trans (congrArg _ (State.ring_disabled h)), fun hen hdr => ⟨fun hs => ⟨_, hexec, ?stale⟩,
      fun hs hz => hexec.trans (congrArg _ (State.ring_overflow hen hdr hs hz)), fun hs hz => ⟨_, hexec, ?taken⟩⟩⟩
    case stale =>
      have hkey : blkKey ⟨.que, p⟩ ≠ blkKey ⟨.talPart, p⟩ := by simp only [blkKey, kindCode]; omega
      rw [State.ring_stale hen hdr hs]
      refine ⟨?_, (State.countPart_see (π := State.ques) _ _ _ _ _ (by simp)), ?_⟩
      · rw [State.flags, State.countPart, State.blk_count_ne hkey]
        exact State.flags_flag ..
      · exact (State.countPart_see (π := State.except [.blocks, .tals]) _ _ _ _ _ (by simp)).trans
          (State.flag_see (π := State.except [.blocks, .tals]) _ _ _ _ _ (by simp))
    case taken =>
      have hsee := fun {α : Type} {π : State → α} => State.ring_taken hen hdr hs hz (π := π)
      refine ⟨(hsee (π := State.queOf (queKey p q)) (by simp)).trans (State.q_setQ ..), fun j hj => ?_, ?_⟩
      · exact (hsee (π := State.queOf j) (by simp)).trans (State.que_setQ_ne _ hj _)
      · exact (hsee (π := State.except [.ques, .timers]) (by simp)).trans
          (State.setQ_see (π := State.except [.ques, .timers]) _ _ _ _ (by simp))

/-- Settles O16: by induction on the records read, each of which moves HEAD by one towards TAIL. -/
theorem queueFetchesBelowTail : Obligations.QueueFetchesBelowTail := by
  refine ⟨fun p q n s t ht => ?bound, ?one, fun p q n s hmay => ?idle⟩
  case bound =>
    rw [exec_queueFetch] at ht
    cases ht
    have hread : (s.q p.val q.val).ReadUpTo n.val ((if s.mayFetch p.val q.val then s.fetchRecs p.val q.val n.val else s).q
        p.val q.val) := by
      split
      · exact s.fetchRecs_readUpTo ..
      · exact .none _ rfl rfl
    obtain ⟨htail, hn, hle⟩ := hread
    exact ⟨htail, hn.trans (Nat.le_of_lt_succ n.isLt), hle⟩
  case one =>
    intro p q s u bs x recs hmay hne hroom hload
    have hq : u.q p.val q.val = x := State.loadVa_see_of (π := State.queOf (queKey p.val q.val)) hload (by simp)
    refine ⟨u.takeRecord p.val q.val bs, ?_, fun hpart => ?_,
      fun hwhole => ⟨u.bookMatch (mkCmd (x.head + 1 - BitVec.ofNat 32 recs.length) recs.flatten), ?_⟩⟩
    · rw [exec_queueFetch, if_pos hmay]
      exact congrArg _ (State.fetchRecs_one hne hroom hload)
    · rw [State.q_takeRecord, hq]
      exact if_neg hpart
    · rw [State.q_takeRecord, hq]
      exact if_pos hwhole
  case idle => rw [exec_queueFetch, if_neg (by simp [hmay])]
end

section
/-!
Retirement, releases and waits (R83, R85, R86): the oldest command retires or starts its release, a release raises its mark at
its home, and a wait compares its mark. It settles O18 and O19.
-/
namespace Sys2Proof.Machine
set_option Elab.async false

/-! ## Retirement (R83) -/

/-- A command that retires leaves its queue; tallies, the progress clock and its interrupt aside, nothing else changes. -/
theorem State.retireAt_leaves {s : State} {p q i : Nat} {c : Cmd} (hc : (s.q p q).cmds[i]? = some c) (irq : Bool) {α : Type}
    {π : State → α} (hW : Ign π .blocks ∧ Ign π .tals ∧ Ign π .funcs ∧ Ign π .timers ∧ Ign π .out) :
    see π (s.retireAt p q i irq) = see π (s.setQ p q { s.q p q with cmds := (s.q p q).cmds.eraseIdx i }) := by
  rw [State.retireAt]
  simp only [hc]
  simp [hW]

section
variable {p : Fin 8} {q : Fin 2048} {s : State} {c : Cmd}
  (hc : (s.q p.val q.val).cmds[retireIdx (s.q p.val q.val).cmds]? = some c)
include hc

theorem exec_commandRetire_waits (h1 : c.phase ≠ .complete) (h2 : c.phase ≠ .lost) :
    exec (.commandRetire p q) s = .next s := by
  simp only [exec, execCommandRetire, hc]

theorem exec_commandRetire_complete (h : c.phase = .complete) : exec (.commandRetire p q) s =
    .next (s.retireComplete p.val q.val (retireIdx (s.q p.val q.val).cmds) c) := by
  simp only [exec, execCommandRetire, hc, h]

theorem exec_commandRetire_lost (h : c.phase = .lost)
    (hch : s.chainOf ⟨queKey p.val q.val, c.head, none⟩ = none) : exec (.commandRetire p q) s =
    .next (s.setQ p.val q.val { s.q p.val q.val with
      cmds := (s.q p.val q.val).cmds.take (retireIdx (s.q p.val q.val).cmds) ++
        ((s.q p.val q.val).cmds.drop (retireIdx (s.q p.val q.val).cmds + 1)).map (fun d => { d with noRel := true }) }) := by
  simp only [exec, execCommandRetire, hc, h]
  exact congrArg _ (if_neg (by rw [State.devQue, hch]; exact Bool.false_ne_true))

end

theorem State.retireComplete_noRelease (s : State) (p q i : Nat) {c : Cmd}
    (h : waitValue (c.word 5) = 0 ∨ c.noRel = true) : s.retireComplete p q i c = s.retireAt p q i (!c.noRel) := if_pos h

/-- The release of command `c`, on its way to the mark's home at `a`. -/
def State.releaseOf (s : State) (p q : Nat) (c : Cmd) (a : Nat) : Release :=
  ⟨a, waitValue (c.word 5), waitScope (c.word 5), s.cmdParty p c, some (queKey p q, c.head)⟩

theorem State.retireComplete_release {s u v : State} {p q a : Nat} (i : Nat) {c : Cmd} (h0 : waitValue (c.word 5) ≠ 0)
    (hr : c.noRel = false) (hm : s.markPhys p (s.qCtx p q) (waitMark (c.word 5)) true = (.ok a, u))
    (hf : u.relFlush p q (waitScope (c.word 5)) a = (none, v)) :
    s.retireComplete p q i c =
      { v.setCmd p q i { c with phase := .releasing } with rels := v.rels ++ [u.releaseOf p q c a] } := by
  rw [State.retireComplete, if_neg (by simp [h0, hr])]
  simp only [hm, hf]
  rfl

/-! ## Little-endian words -/

theorem leNat_leBytes (n v : Nat) : leNat (leBytes n v) = v % 256 ^ n := by
  induction n generalizing v with
  | zero => simp [leBytes, leNat, Nat.mod_one]
  | succ n ih =>
    rw [leBytes, leNat, ih, BitVec.toNat_ofNat, pow_succ' 256 n]
    exact Nat.mod_mul.symm

theorem leNat_lt (bs : List Byte) : leNat bs < 256 ^ bs.length := by
  induction bs with
  | nil => exact Nat.one_pos
  | cons b bs ih =>
    have hb := b.isLt
    rw [leNat, List.length_cons, Nat.pow_succ']
    omega

theorem State.readLe_lt (s : State) (a n : Nat) : s.readLe a n < 256 ^ n := by
  have h := leNat_lt (s.readBytes a n)
  rwa [State.readBytes, List.length_map, List.length_range] at h

theorem State.readLe_of_mem {s t : State} (h : t.mem = s.mem) (a n : Nat) : t.readLe a n = s.readLe a n :=
  congrArg leNat (State.readBytes_of_mem h a n)

theorem State.readByte_of_mem {s t : State} (h : t.mem = s.mem) (a : Nat) : t.readByte a = s.readByte a := by
  rw [State.readByte, State.readByte, h]

theorem State.readBytes_writeBytes (s : State) (a : Nat) (bs : List Byte) :
    (s.writeBytes a bs).readBytes a bs.length = bs := by
  refine List.ext_getElem (by simp [State.readBytes]) fun i hi hj => ?_
  simp [State.readBytes, State.readByte_writeBytes, hj]

/-- A word that is stored is read back. -/
theorem State.readLe_writeLe (s : State) (a n v : Nat) : (s.writeLe a n v).readLe a n = v % 256 ^ n := by
  have h := s.readBytes_writeBytes a (leBytes n v)
  rw [leBytes_length] at h
  rw [State.readLe, State.writeLe, h, leNat_leBytes]

theorem State.readByte_writeLe_ne (s : State) {a n b : Nat} (v : Nat) (h : ¬ (a ≤ b ∧ b < a + n)) :
    (s.writeLe a n v).readByte b = s.readByte b := by
  rw [State.writeLe, State.readByte_writeBytes, leBytes_length, if_neg h]

/-! ## Releases at their homes (R85) -/

/-- A mark that can be read has the value that lies at its address. -/
theorem State.eq_readLe_of_markValue {s : State} {a v : Nat} (h : s.markValue a = .ok v) : v = s.readLe a 8 := by
  unfold State.markValue at h
  (repeat' split at h) <;> simp only [reduceCtorEq, Except.ok.injEq] at h
  all_goals exact h.symm

/-- A reference to no stage names its queue's command with that HEAD. -/
theorem State.cmdAt_whole (s : State) (dq : Nat) (h : W32) :
    s.cmdAt ⟨dq, h, none⟩ = (s.que dq).cmds.find? (fun c => decide (c.head = h)) := by
  unfold State.cmdAt
  split
  · contradiction
  · rfl

theorem getElem?_cmdIdx {cs : List Cmd} {h : W32} {c : Cmd} (hf : cs.find? (fun d => decide (d.head = h)) = some c) :
    ∃ d, cs[cmdIdx cs h]? = some d := by
  have hlt : cmdIdx cs h < cs.length :=
    List.findIdx_lt_length_of_exists ⟨c, List.mem_of_find?_eq_some hf, by simpa using List.find?_some hf⟩
  exact ⟨_, List.getElem?_eq_getElem hlt⟩

theorem State.queOwner_of_img {s t : State} (h : t.img = s.img) (k : Nat) : t.queOwner k = s.queOwner k := by
  rw [State.queOwner, State.queOwner, State.queQuota, State.queQuota, State.cfgOf, State.cfgOf, h]

/-- What a performed release leaves of the views that its report does not touch: its command leaves its queue (R83). -/
theorem State.que_releaseDone {s : State} {r : Release} {p q : Nat} {c : Cmd} (hr : r.cmd = some (queKey p q, c.head))
    (ho : s.queOwner (queKey p q) = some (p, q))
    (hf : (s.que (queKey p q)).cmds.find? (fun d => decide (d.head = c.head)) = some c) (hp : c.phase = .releasing) :
    ((s.releaseDone r).que (queKey p q)).cmds =
      (s.que (queKey p q)).cmds.eraseIdx (cmdIdx (s.que (queKey p q)).cmds c.head) := by
  obtain ⟨d, hd⟩ := getElem?_cmdIdx hf
  have hcmd : s.cmdAt ⟨queKey p q, c.head, none⟩ = some c := (s.cmdAt_whole _ _).trans hf
  let u := s.ledgerCmd p q c 0x04 (c.word 5) (s.queNum (queKey p q))
  have hu : u.que (queKey p q) = s.que (queKey p q) :=
    State.ledgerCmd_see (π := State.queOf (queKey p q)) _ _ _ _ _ _ _ (by simp)
  have hdone : s.releaseDone r = u.retireAt p q (cmdIdx (s.que (queKey p q)).cmds c.head) true := by
    simp only [State.releaseDone, hr, ho, hcmd, hp, if_true]
    rfl
  have hdu : (u.q p q).cmds[cmdIdx (s.que (queKey p q)).cmds c.head]? = some d := by rw [State.q, State.devQue, hu, hd]
  have hleaves := State.retireAt_leaves hdu true (π := State.queOf (queKey p q)) (by simp)
  rw [hdone]
  refine (congrArg Que.cmds (hleaves.trans (State.q_setQ ..))).trans ?_
  exact congrArg (fun x : Que => x.cmds.eraseIdx _) hu

/-- Release `k` is taken off those on their way. -/
def State.takeRelease (s : State) (k : Nat) : State := { s with rels := s.rels.eraseIdx k }

/-- The state in which the mark at a home has its new value. -/
def State.raiseMark (s : State) (r : Release) (old : Nat) : State :=
  (s.writeLe r.addr 8 (max old r.value)).countMismatch r.addr (s.mismatches r.addr r.scope r.party old (max old r.value))

theorem exec_markRelease_device {k : Nat} {s : State} {r : Release} {old : Nat} (hk : s.rels[k]? = some r)
    (ha : r.addr < hostBase) (hv : s.markValue r.addr = .ok old) :
    exec (.markReleaseAtHome k) s = .next (((s.takeRelease k).raiseMark r old).releaseDone r) := by
  have hv' : (s.takeRelease k).markValue r.addr = .ok old := hv
  simp only [exec, execMarkReleaseAtHome, hk, not_le.2 ha, if_false]
  change Host.Outcome.next ((s.takeRelease k).markMax r) = _
  simp only [State.markMax, hv']
  rfl

theorem exec_markRelease_host {k : Nat} {s : State} {r : Release} {fn : Nat} (hk : s.rels[k]? = some r)
    (ha : hostBase ≤ r.addr)
    (hfn : (match r.cmd with
      | some (dq, _) => (s.queOwner dq).elim 0 (fun x => s.fnOf x.1)
      | none => (s.blkPart r.party).elim 0 s.fnOf) = fn)
    (hat : (s.func fn).atomicEn = true) (hok : s.hostOk fn = true) : exec (.markReleaseAtHome k) s =
      .next { s with rels := s.rels.eraseIdx k, pcx := { s.pcx with reqs := s.pcx.reqs ++ [.release r] } } := by
  subst hfn
  simp only [exec, execMarkReleaseAtHome, hk, ha, if_true]
  exact congrArg _ ((if_neg (not_not.2 hat)).trans (if_neg (not_not.2 hok)))

/-- Counting mismatches and reporting the release change no memory, and leave the other releases. -/
theorem State.releaseDone_raiseMark_see {α : Type} {π : State → α} (s : State) (r : Release) (old : Nat)
    (hW : Ign π .blocks ∧ Ign π .ques ∧ Ign π .tals ∧ Ign π .ldgs ∧ Ign π .fog ∧ Ign π .funcs ∧ Ign π .timers ∧ Ign π .out) :
    see π ((s.raiseMark r old).releaseDone r) = see π (s.writeLe r.addr 8 (max old r.value)) := by
  simp [State.raiseMark, hW]

theorem State.raiseMark_see {α : Type} {π : State → α} (s : State) (r : Release) (old : Nat)
    (hW : Ign π .mem ∧ Ign π .poison ∧ Ign π .blocks ∧ Ign π .tiles ∧ Ign π .tals) :
    see π (s.raiseMark r old) = see π s := by
  simp [State.raiseMark, hW]

/-! ## Waits (R86) -/

/-- The command whose waits may be outstanding has not begun. -/
theorem fetched_of_waitingIdx {x : Que} {i : Nat} {c : Cmd} (hi : waitingIdx x = some i) (hc : x.cmds[i]? = some c) :
    c.phase = .fetched := by
  unfold waitingIdx at hi
  dsimp only at hi
  split at hi
  case isTrue hlt =>
    cases hi
    have hp := List.findIdx_getElem (w := hlt)
    rw [List.getElem?_eq_getElem hlt] at hc
    cases hc
    simp only [Bool.and_eq_true, decide_eq_true_eq] at hp
    exact hp.1
  · cases hi

/-- A wait that is met is noted with its command; its record and tally aside, nothing else changes. -/
theorem State.meetWait_notes {s : State} {p q i : Nat} {c : Cmd} (hc : (s.q p q).cmds[i]? = some c) (w : Nat) {α : Type}
    {π : State → α}
    (hW : Ign π .blocks ∧ Ign π .tals ∧ Ign π .ldgs ∧ Ign π .fog ∧ Ign π .timers ∧ Ign π .out) :
    see π (s.meetWait p q i w) = see π (s.setCmd p q i { c with waits := c.waits.set w true }) := by
  rw [State.meetWait]
  simp only [hc]
  simp [hW]

section
variable {s : State} {p q i w : Nat} {c : Cmd}

theorem exec_markNotify {p : Fin 8} {q : Fin 2048} (w : Fin 4) (hi : waitingIdx (s.q p.val q.val) = some i)
    (hc : (s.q p.val q.val).cmds[i]? = some c) (hr : c.regd = true) :
    exec (.markNotify p q w) s = .next (s.tryWait p.val q.val i w.val) := by
  simp only [exec, execMarkNotify, hi, hc, hr, if_true]

theorem State.tryWait_met (hc : (s.q p q).cmds[i]? = some c) (hw : c.waitMet w = true) : s.tryWait p q i w = s := by
  simp only [State.tryWait, hc, hw, or_true, if_true]

theorem State.tryWait_compares {a v : Nat} {u : State} (hc : (s.q p q).cmds[i]? = some c) (hp : c.phase = .fetched)
    (hw : c.waitMet w = false) (hm : s.markPhys p (s.qCtx p q) (waitMark (c.word (1 + w))) false = (.ok a, u))
    (ha : a < hostBase) (hv : u.markValue a = .ok v) :
    s.tryWait p q i w = if waitValue (c.word (1 + w)) ≤ v then u.meetWait p q i w else u := by
  rw [State.tryWait]
  simp [hc, hp, hw, hm, not_le.2 ha, hv]

variable (hi : waitingIdx (s.q p q) = some i) (hc : (s.q p q).cmds[i]? = some c)
include hi hc

theorem State.pollMark_met (hw : c.waitMet w = true) (v : Option W64) : s.pollMark p q w v = s := by
  simp only [State.pollMark, hi, hc, hw, or_true, if_true]

theorem State.pollMark_compares {a : Nat} {u : State} (v : W64) (hr : c.regd = true) (hw : c.waitMet w = false)
    (hm : s.markPhys p (s.qCtx p q) (waitMark (c.word (1 + w))) false = (.ok a, u)) (ha : hostBase ≤ a)
    (hok : u.hostOk (u.fnOf p) = true) : s.pollMark p q w (some v) =
      if waitValue (c.word (1 + w)) ≤ v.toNat then (u.hostAsk (u.fnOf p) a 8).meetWait p q i w
      else u.hostAsk (u.fnOf p) a 8 := by
  rw [State.pollMark]
  simp [hi, hc, hr, hw, hm, not_lt.2 ha, hok]

end

/-- Of a state with the queues and the memory of `s`, in which a wait of command `i` is met. -/
theorem State.meetWait_cmds_mem {s u : State} {p q i : Nat} {c : Cmd} (hq : u.ques = s.ques) (hm : u.mem = s.mem)
    (hc : (s.q p q).cmds[i]? = some c) (w : Nat) :
    ((u.meetWait p q i w).q p q).cmds = (s.q p q).cmds.set i { c with waits := c.waits.set w true } ∧
      (u.meetWait p q i w).mem = s.mem := by
  have hqu := State.q_of_ques hq p q
  have hcu : (u.q p q).cmds[i]? = some c := hqu ▸ hc
  refine ⟨?_, (State.meetWait_notes hcu w (π := State.mem) (by simp)).trans
    ((State.setCmd_see (π := State.mem) _ _ _ _ _ (by simp)).trans hm)⟩
  have hnotes := State.meetWait_notes hcu w (π := State.queOf (queKey p q)) (by simp)
  rw [← hqu]
  exact congrArg Que.cmds (hnotes.trans (State.q_setQ ..))

end Sys2Proof.Machine

open Sys2Proof Sys2Proof.Machine

/-- Settles O18: by the phase of the command that may retire, and whether it has a release to perform. -/
theorem commandsRetireInOrder : Obligations.CommandsRetireInOrder := by
  intro p q s c x i hc
  refine ⟨exec_commandRetire_waits hc, fun hp hn => ⟨_, exec_commandRetire_complete hc hp, ?retires⟩,
    fun a u v hp h0 hr hm hf => ⟨_, exec_commandRetire_complete hc hp, ?releases⟩, exec_commandRetire_lost hc⟩
  case retires =>
    rw [State.retireComplete_noRelease _ _ _ _ hn]
    have hleaves := fun {α : Type} {π : State → α} => State.retireAt_leaves hc (!c.noRel) (π := π)
    refine ⟨(hleaves (π := State.queOf (queKey p.val q.val)) (by simp)).trans (State.q_setQ ..),
      (hleaves (π := State.rels) (by simp)).trans (State.setQ_see (π := State.rels) _ _ _ _ (by simp)),
      (hleaves (π := State.mem) (by simp)).trans (State.setQ_see (π := State.mem) _ _ _ _ (by simp)), fun j hj => ?_⟩
    exact (hleaves (π := State.queOf j) (by simp)).trans (State.que_setQ_ne _ hj _)
  case releases =>
    have hsee : ∀ {α : Type} {π : State → α}, Ign π .blocks ∧ Ign π .tlbs ∧ Ign π .funcs ∧ Ign π .out ∧ Ign π .free →
        see π v = see π s := fun hW =>
      (State.relFlush_see_of hf (by simp [hW])).trans (State.markPhys_see_of hm (by simp [hW]))
    have hq : v.ques = s.ques := hsee (π := State.ques) (by simp)
    have hrels : v.rels = s.rels := hsee (π := State.rels) (by simp)
    rw [State.retireComplete_release i h0 hr hm hf]
    refine ⟨congrArg (· ++ _) hrels, ?_, ?_, fun j hj => ?_⟩
    · exact (congrArg Que.cmds (State.q_setQ ..)).trans (by rw [State.q_of_ques hq])
    · change see State.mem _ = see State.mem s
      rw [see_rels (by simp), State.setCmd_see _ _ _ _ _ (by simp), hsee (by simp)]
    · exact (State.que_setQ_ne _ hj _).trans (State.que_of_ques hq j)

/-- Settles O19: a release stores the larger value and reports to its queue; a wait is its comparison with the mark. -/
theorem releasesRaiseMarksAndWaitsCompare : Obligations.ReleasesRaiseMarksAndWaitsCompare := by
  refine ⟨fun k s r old hk ha hval hv => ⟨_, exec_markRelease_device hk ha hv, ?raises⟩,
    fun k s r hk ha => exec_markRelease_host hk ha rfl, fun p q w i c s hi hc hr => ⟨fun hw => ?met, fun a u hw hm => ?unmet⟩⟩
  case raises =>
    have hold := State.eq_readLe_of_markValue hv
    have hsee := fun {α : Type} {π : State → α} => (s.takeRelease k).releaseDone_raiseMark_see r old (π := π)
    have hmem := hsee (π := State.mem) (by simp)
    refine ⟨?_, fun a hout => ?_, ?_, fun p q c hcmd ho hf hp => ?_⟩
    · have hlt : max old r.value < 256 ^ 8 := max_lt (hold ▸ s.readLe_lt r.addr 8) hval
      rw [State.readLe_of_mem hmem, State.readLe_writeLe, Nat.mod_eq_of_lt hlt, hold]
    · exact (State.readByte_of_mem hmem a).trans (State.readByte_writeLe_ne _ _ hout)
    · exact (hsee (π := State.rels) (by simp)).trans (State.writeLe_see (π := State.rels) _ _ _ _ (by simp))
    · have hq : ((s.takeRelease k).raiseMark r old).que (queKey p q) = s.que (queKey p q) :=
        State.raiseMark_see (π := State.queOf (queKey p q)) _ _ _ (by simp)
      have himg : ((s.takeRelease k).raiseMark r old).img = s.img := State.raiseMark_see (π := State.img) _ _ _ (by simp)
      rw [← hq] at hf ⊢
      exact State.que_releaseDone hcmd ((State.queOwner_of_img himg _).trans ho) hf hp
  case met =>
    refine ⟨?_, fun v => congrArg Host.Outcome.next (State.pollMark_met hi hc hw v)⟩
    rw [exec_markNotify w hi hc hr, State.tryWait_met hc hw]
  case unmet =>
    have hq : u.ques = s.ques := State.markPhys_see_of (π := State.ques) hm (by simp)
    have hmem : u.mem = s.mem := State.markPhys_see_of (π := State.mem) hm (by simp)
    refine ⟨fun v ha hv => ?notify, fun v ha hok => ?poll⟩
    case notify =>
      have hexec : exec (.markNotify p q w) s = _ := (exec_markNotify w hi hc hr).trans (congrArg _
        (State.tryWait_compares hc (fetched_of_waitingIdx hi hc) hw hm ha hv))
      refine ⟨fun hlt => by rw [hexec, if_neg (not_le.2 hlt)], fun hle => ⟨_, hexec, ?_⟩⟩
      rw [if_pos hle]
      exact State.meetWait_cmds_mem hq hmem hc w.val
    case poll =>
      have hexec : exec (.markPoll p q w (some v)) s = _ :=
        congrArg Host.Outcome.next (State.pollMark_compares hi hc v hr hw hm ha hok)
      refine ⟨fun hlt => by rw [hexec, if_neg (not_le.2 hlt)], fun hle => ⟨_, hexec, ?_⟩⟩
      rw [if_pos hle]
      exact State.meetWait_cmds_mem ((State.hostAsk_see (π := State.ques) _ _ _ _ (by simp)).trans hq)
        ((State.hostAsk_see (π := State.mem) _ _ _ _ (by simp)).trans hmem) hc w.val
end

section
/-!
The queue-local commands (R81, R83, R87): what completes with a command, and what NOP, WRITE_IMM and MARK_ADD do before. It
settles O20.
-/
namespace Sys2Proof.Machine
set_option Elab.async false

/-! ## Messages already sent

A ledger record may trigger a fog, which is told outside after what was told before. -/

theorem State.mem_out_raiseFog {s : State} {o : Out} (h : o ∈ s.out) (src : BitVec 3) : o ∈ (s.raiseFog src).out := by
  unfold State.raiseFog
  dsimp only
  split
  · exact h
  · split
    · exact List.mem_append_left _ h
    · exact h

theorem State.mem_out_ldgTake {s : State} {o : Out} (h : o ∈ s.out) (b : BlkId) (x : LdgOut) : o ∈ (s.ldgTake b x).out := by
  have hd : ((s.setLdg (blkKey b) x.l).ldgDropped b x.lost).out = s.out :=
    (State.ldgDropped_see (π := State.out) _ _ _ (by simp)).trans (State.setLdg_see (π := State.out) _ _ _ (by simp))
  have hfog : ∀ (t : State) (c : Prop) [Decidable c], t.out = s.out → o ∈ (if c then t.raiseFog 3 else t).out := by
    intro t c _ ht
    split
    · exact State.mem_out_raiseFog (ht ▸ h) 3
    · exact ht ▸ h
  unfold State.ldgTake
  dsimp only
  split
  · exact hfog _ _ hd
  · exact hfog _ _ hd

theorem State.mem_out_ledger {s : State} {o : Out} (h : o ∈ s.out) (b : BlkId) (w : Who) (typ src x y : Nat) :
    o ∈ (s.ledger b w typ src x y).out := by
  unfold State.ledger
  dsimp only
  split
  · exact h
  · exact State.mem_out_ldgTake h _ _

theorem State.mem_out_ledgerCmd {s : State} {o : Out} (h : o ∈ s.out) (p q : Nat) (c : Cmd) (typ x y : Nat) :
    o ∈ (s.ledgerCmd p q c typ x y).out := by
  unfold State.ledgerCmd State.ledgerTile State.ledgerStack State.ledgerPart
  dsimp only
  split
  case h_5 =>
    split
    · exact State.mem_out_ledger h ..
    · exact h
  all_goals exact State.mem_out_ledger h ..

/-! ## Completion (R83) -/

/-- A completed command's state (R83): it waits for retirement and holds no page; a write to the host that it made is noted
for its queue (R336). -/
def State.noteDone (s : State) (r : CmdRef) (host : Option HostWr) : State :=
  (s.updCmd r (fun c => { c with phase := .complete, held := [] })).noteHost r.q host

theorem State.completeCmd_found {s : State} {r : CmdRef} {p q : Nat} {c : Cmd} (ho : s.queOwner r.q = some (p, q))
    (hc : s.cmdAt r = some c) : ∃ host typ a b,
      let u := (s.noteDone r host).ledgerCmd p q c typ a b
      s.completeCmd r = if 1 ≤ c.engine ∧ c.engine ≤ 3 then u.countTile c.target 0x0117 1 (u.whoOf p q c) else u := by
  simp only [State.completeCmd, ho, hc]
  exact ⟨_, _, _, _, rfl⟩

/-- Its report aside, a completion changes its queue's commands and the queue's note of host writes. -/
theorem State.completeCmd_notes {s : State} {r : CmdRef} {p q : Nat} {c : Cmd} (ho : s.queOwner r.q = some (p, q))
    (hc : s.cmdAt r = some c) : ∃ host, ∀ {α : Type} {π : State → α},
      Ign π .blocks ∧ Ign π .tals ∧ Ign π .ldgs ∧ Ign π .fog ∧ Ign π .timers ∧ Ign π .out →
      see π (s.completeCmd r) = see π (s.noteDone r host) := by
  obtain ⟨host, typ, a, b, h⟩ := State.completeCmd_found ho hc
  refine ⟨host, fun {α π} hW => ?_⟩
  rw [h]
  simp [hW]

theorem State.mem_out_completeCmd {s : State} {r : CmdRef} {p q : Nat} {c : Cmd} {o : Out} (h : o ∈ s.out)
    (ho : s.queOwner r.q = some (p, q)) (hc : s.cmdAt r = some c) : o ∈ (s.completeCmd r).out := by
  obtain ⟨host, typ, a, b, hs⟩ := State.completeCmd_found ho hc
  have hout : (s.noteDone r host).out = s.out :=
    (State.noteHost_see (π := State.out) _ _ _ (by simp)).trans (State.updCmd_see (π := State.out) _ _ _ (by simp))
  have hl := State.mem_out_ledgerCmd (hout ▸ h) p q c typ a b
  rw [hs]
  split
  · have ht := State.countTile_see (π := State.out) ((s.noteDone r host).ledgerCmd p q c typ a b) c.target 0x0117 1
      (((s.noteDone r host).ledgerCmd p q c typ a b).whoOf p q c) (by simp)
    exact (congrArg (o ∈ ·) ht).mpr hl
  · exact hl

theorem State.que_noteHost (s : State) (dq k : Nat) (w : Option HostWr) :
    ((s.noteHost dq w).que k).cmds = (s.que k).cmds ∧ (k ≠ dq → (s.noteHost dq w).que k = s.que k) := by
  cases w with
  | none => exact ⟨rfl, fun _ => rfl⟩
  | some w =>
    simp only [State.noteHost, State.que_setQue]
    split
    case isTrue h => exact ⟨by rw [h], fun hne => absurd h hne⟩
    case isFalse => exact ⟨rfl, fun _ => rfl⟩

theorem State.noteDone_completed (s : State) (r : CmdRef) (host : Option HostWr) :
    Completed s (s.noteDone r host) r ∧ ∀ j, j ≠ r.q → (s.noteDone r host).que j = s.que j := by
  refine ⟨?_, fun j hj => ?_⟩
  · refine ((State.que_noteHost _ r.q r.q host).1).trans ?_
    exact congrArg Que.cmds ((State.que_setQue ..).trans (if_pos rfl))
  · exact ((State.que_noteHost _ r.q j host).2 hj).trans ((State.que_setQue ..).trans (if_neg hj))

/-- The completion of a command of a state with the queues of `s`. -/
theorem State.completeCmd_completed {s u : State} {r : CmdRef} {p q : Nat} {c : Cmd} (hq : u.ques = s.ques)
    (ho : u.queOwner r.q = some (p, q)) (hc : u.cmdAt r = some c) :
    Completed s (u.completeCmd r) r ∧ (∀ j, j ≠ r.q → (u.completeCmd r).que j = s.que j) ∧ (u.completeCmd r).mem = u.mem := by
  obtain ⟨host, hsee⟩ := State.completeCmd_notes ho hc
  obtain ⟨hdone, hother⟩ := u.noteDone_completed r host
  have hque : ∀ k, (u.completeCmd r).que k = (u.noteDone r host).que k := fun k => hsee (π := State.queOf k) (by simp)
  refine ⟨?_, fun j hj => ?_, State.completeCmd_see (π := State.mem) _ _ (by simp)⟩
  · rw [Completed, hque, hdone, State.que_of_ques hq]
  · rw [hque, hother j hj, State.que_of_ques hq]

/-! ## The queue-local commands (R81) -/

theorem State.queOwner_queKey {s : State} {p q : Nat} (hq : q < 2048) (h : q < s.queQuota p) :
    s.queOwner (queKey p q) = some (p, q) := by
  have hp : queKey p q / 2048 = p := by unfold queKey; omega
  have hm : queKey p q % 2048 = q := by unfold queKey; omega
  rw [State.queOwner, hp, hm, if_pos h]

theorem State.withLocal_of {s : State} {p q op : Nat} {c : Cmd} (h : localCmd (s.q p q) op = some c)
    (f : Cmd → CmdRef → State) : s.withLocal p q op f = f c ⟨queKey p q, c.head, none⟩ := by
  simp only [State.withLocal, h]
  rfl

/-- The queue of a local command that runs has an owner and a command with its HEAD, also where another state holds the
same queues and image. -/
theorem State.found_of_localCmd {s u : State} {p : Nat} {q : Fin 2048} {op : Nat} {c : Cmd} (hlt : q.val < s.queQuota p)
    (hl : localCmd (s.q p q.val) op = some c) (hq : u.ques = s.ques) (hi : u.img = s.img) :
    u.queOwner (queKey p q.val) = some (p, q.val) ∧ ∃ d, u.cmdAt ⟨queKey p q.val, c.head, none⟩ = some d := by
  refine ⟨(State.queOwner_of_img hi _).trans (State.queOwner_queKey q.isLt hlt), ?_⟩
  rw [State.cmdAt_whole, State.que_of_ques hq]
  exact Option.isSome_iff_exists.1 (List.find?_isSome.2 ⟨c, List.mem_of_find?_eq_some hl, decide_eq_true rfl⟩)

section
variable {p : Fin 8} {q : Fin 2048} {s : State} {c : Cmd}

theorem exec_nop_local (hl : localCmd (s.q p.val q.val) 0x00 = some c) :
    exec (.nop p q) s = .next (s.completeCmd ⟨queKey p.val q.val, c.head, none⟩) :=
  congrArg Host.Outcome.next (State.withLocal_of hl _)

theorem exec_writeImm_stored (hl : localCmd (s.q p.val q.val) 0x01 = some c)
    (hb : s.heldBad p.val c.held (bitsOf (c.word 6) 47 0) 8 = none) : exec (.writeImm p q) s =
      .next ((s.heldWrite p.val c.held (bitsOf (c.word 6) 47 0) (leBytes 8 (c.word 7))).completeCmd
        ⟨queKey p.val q.val, c.head, none⟩) := by
  refine congrArg Host.Outcome.next ((State.withLocal_of hl _).trans ?_)
  simp only [hb]
  rfl

theorem exec_writeImm_gone {b : Bad} (hl : localCmd (s.q p.val q.val) 0x01 = some c)
    (hb : s.heldBad p.val c.held (bitsOf (c.word 6) 47 0) 8 = some b) :
    exec (.writeImm p q) s = .next (s.failRef ⟨queKey p.val q.val, c.head, none⟩ b 4 p.val 0) := by
  refine congrArg Host.Outcome.next ((State.withLocal_of hl _).trans ?_)
  simp only [hb]

/-- Where the first and the last of 8 bytes lie together on the device, they are stored as one word. -/
theorem State.heldWrite_word {p : Nat} {held : List PageMap} {va a : Nat} (v : Nat) (h0 : s.heldAddr p held va = some a)
    (h7 : s.heldAddr p held (va + 7) = some (a + 7)) (ha : a + 8 ≤ hostBase) :
    s.heldWrite p held va (leBytes 8 v) = s.writeLe a 8 v := by
  have hdev : ¬ hostBase ≤ a := by omega
  rw [State.heldWrite, leBytes_length, h0, show va + 8 - 1 = va + 7 from rfl, h7]
  simp only [show a + 7 = a + 8 - 1 from rfl, if_true, State.putBytes, hdev, if_false]
  rfl

variable {a : Nat} {u : State} (hl : localCmd (s.q p.val q.val) 0x02 = some c)
  (hm : s.markPhys p.val (s.qCtx p.val q.val) (bitsOf (c.word 6) 15 0) true = (.ok a, u))
include hl hm

theorem exec_markAdd_device {v : Nat} (ha : a < hostBase) (hv : u.markValue a = .ok v) : exec (.markAdd p q) s =
    .next ((u.writeLe a 8 ((u.readLe a 8 + c.word 7) % 2 ^ 64)).completeCmd ⟨queKey p.val q.val, c.head, none⟩) := by
  refine congrArg Host.Outcome.next ((State.withLocal_of hl _).trans ?_)
  simp only [hm, hv, not_le.2 ha, if_false]
  rfl

theorem exec_markAdd_host (ha : hostBase ≤ a) (hat : (u.func (u.fnOf p.val)).atomicEn = true)
    (hok : u.hostOk (u.fnOf p.val) = true) : exec (.markAdd p q) s =
      .next (((u.carry (u.fnOf p.val) a).2.emit
        (.hostAtomic (u.fnOf p.val) (u.carry (u.fnOf p.val) a).1 .add 8 (c.word 7))).completeCmd
          ⟨queKey p.val q.val, c.head, none⟩) := by
  refine congrArg Host.Outcome.next ((State.withLocal_of hl _).trans ?_)
  simp only [hm, ha, hat, hok, if_true, not_true_eq_false, if_false]
  rfl

end

/-- A word stored, and the completion of the command that stored it, in a state with the queues and the memory of `s`. -/
theorem State.completeCmd_writeLe {s u : State} {r : CmdRef} {p q a v : Nat} {c : Cmd} (hq : u.ques = s.ques)
    (hmem : u.mem = s.mem) (ho : (u.writeLe a 8 v).queOwner r.q = some (p, q)) (hc : (u.writeLe a 8 v).cmdAt r = some c)
    (hv : v < 2 ^ 64) :
    let t := (u.writeLe a 8 v).completeCmd r
    Completed s t r ∧ t.readLe a 8 = v ∧ (∀ b, ¬ (a ≤ b ∧ b < a + 8) → t.readByte b = s.readByte b) ∧
      ∀ j, j ≠ r.q → t.que j = s.que j := by
  have hques : (u.writeLe a 8 v).ques = s.ques := (State.writeLe_see (π := State.ques) _ _ _ _ (by simp)).trans hq
  obtain ⟨hdone, hother, hstored⟩ := State.completeCmd_completed hques ho hc
  refine ⟨hdone, ?_, fun b hb => ?_, hother⟩
  · rw [State.readLe_of_mem hstored, State.readLe_writeLe]
    exact Nat.mod_eq_of_lt hv
  · rw [State.readByte_of_mem hstored, State.readByte_writeLe_ne _ _ hb, State.readByte_of_mem hmem]

theorem State.writeLe_ques_img (s : State) (a n v : Nat) : (s.writeLe a n v).ques = s.ques ∧ (s.writeLe a n v).img = s.img :=
  ⟨State.writeLe_see (π := State.ques) _ _ _ _ (by simp), State.writeLe_see (π := State.img) _ _ _ _ (by simp)⟩

end Sys2Proof.Machine

open Sys2Proof Sys2Proof.Machine

/-- Settles O20: each local command is its action and then its completion, which finds it by its HEAD. -/
theorem queueLocalCommandsAct : Obligations.QueueLocalCommandsAct := by
  intro p q s c hlt r
  refine ⟨fun hl => ⟨_, exec_nop_local hl, ?nop⟩, fun a hl ha h0 h7 hb => ⟨_, exec_writeImm_stored hl hb, ?writeImm⟩,
    fun b hl hb => exec_writeImm_gone hl hb, fun a u v hl hm => ⟨fun ha hv => ⟨_, exec_markAdd_device hl hm ha hv, ?device⟩,
      fun ha hat hok => ⟨_, exec_markAdd_host hl hm ha hat hok, ?host⟩⟩⟩
  case nop =>
    obtain ⟨ho, d, hd⟩ := State.found_of_localCmd hlt hl rfl rfl
    obtain ⟨hdone, hother, hmem⟩ := State.completeCmd_completed rfl ho hd
    exact ⟨hdone, hmem, hother⟩
  case writeImm =>
    obtain ⟨hq, hi⟩ := s.writeLe_ques_img a 8 (c.word 7)
    obtain ⟨ho, d, hd⟩ := State.found_of_localCmd hlt hl hq hi
    rw [State.heldWrite_word _ h0 h7 ha]
    exact State.completeCmd_writeLe rfl rfl ho hd (BitVec.isLt _)
  case device =>
    have hques : u.ques = s.ques := State.markPhys_see_of (π := State.ques) hm (by simp)
    have himg : u.img = s.img := State.markPhys_see_of (π := State.img) hm (by simp)
    have hmem : u.mem = s.mem := State.markPhys_see_of (π := State.mem) hm (by simp)
    obtain ⟨hq, hi⟩ := u.writeLe_ques_img a 8 ((u.readLe a 8 + c.word 7) % 2 ^ 64)
    obtain ⟨ho, d, hd⟩ := State.found_of_localCmd hlt hl (hq.trans hques) (hi.trans himg)
    rw [State.readLe_of_mem hmem] at ho hd ⊢
    exact State.completeCmd_writeLe hques hmem ho hd (Nat.mod_lt _ (by decide))
  case host =>
    let x : Out := .hostAtomic (u.fnOf p.val) (u.carry (u.fnOf p.val) a).1 .add 8 (c.word 7)
    have hsee : ∀ {α : Type} {π : State → α}, Ign π .blocks ∧ Ign π .tlbs ∧ Ign π .funcs ∧ Ign π .out ∧ Ign π .free →
        see π ((u.carry (u.fnOf p.val) a).2.emit x) = see π s := fun hW =>
      (State.emit_see _ _ (by simp [hW])).trans ((State.carry_see _ _ _ (by simp [hW])).trans
        (State.markPhys_see_of hm (by simp [hW])))
    have hques := hsee (π := State.ques) (by simp)
    obtain ⟨ho, d, hd⟩ := State.found_of_localCmd hlt hl hques (hsee (π := State.img) (by simp))
    obtain ⟨hdone, -, hmem⟩ := State.completeCmd_completed hques ho hd
    refine ⟨hdone, hmem.trans (hsee (π := State.mem) (by simp)), State.mem_out_completeCmd ?_ ho hd⟩
    exact List.mem_append_right _ (List.mem_singleton_self x)
end

section
/-!
COMMAND_BEGIN (R80, R82, R86, R89, R128): the ways its conditions can go, what an attempt that goes through leaves of the
queue, and where a session record goes. It settles O17.
-/
namespace Sys2Proof.Machine
set_option Elab.async false

/-! ## The conditions of COMMAND_BEGIN, in their order (R82) -/

section
variable {p : Fin 8} {q : Fin 2048} {i : Fin 32} {s : State} {c : Cmd} (hc : (s.q p.val q.val).cmds[i.val]? = some c)
include hc

theorem exec_commandBegin_behind
    (h : c.phase ≠ .fetched ∨ earlierMet (s.q p.val q.val).cmds i.val = false ∨ s.cfgHeld p.val q.val = true) :
    exec (.commandBegin p q i) s = .next s := by
  simp only [exec, execCommandBegin, hc]
  rw [if_pos (by simpa using h)]

variable (hp : c.phase = .fetched) (hm : earlierMet (s.q p.val q.val).cmds i.val = true)
  (hf : s.cfgHeld p.val q.val = false)
include hp hm hf

theorem exec_commandBegin_bad {b : Bad} (hb : s.headerBad p.val q.val c = some b) : exec (.commandBegin p q i) s =
    .next ((s.raise p.val (s.cmdFault p.val q.val c b 4 p.val 0)).haltAt p.val q.val i.val) := by
  simp only [exec, execCommandBegin, hc, hb, State.failWait]
  rw [if_neg (by simp [hp, hm, hf])]

variable {u : State} {d : Cmd} (hb : s.headerBad p.val q.val c = none) (hu : s.registerWaits p.val q.val i.val = u)
  (hd : (u.q p.val q.val).cmds[i.val]? = some d)
include hb hu hd

theorem exec_commandBegin_waits (h : d.phase ≠ .fetched ∨ d.allMet = false) : exec (.commandBegin p q i) s = .next u := by
  simp only [exec, execCommandBegin, hc, hb, hu, hd]
  rw [if_neg (by simp [hp, hm, hf]), if_neg (fun ⟨hph, hmet⟩ => h.elim (· hph) (by simp [hmet]))]

theorem exec_commandBegin_tries (hph : d.phase = .fetched) (hmet : d.allMet = true) :
    exec (.commandBegin p q i) s = .next (u.tryBegin p.val q.val i.val d) := by
  simp only [exec, execCommandBegin, hc, hb, hu, hd]
  rw [if_neg (by simp [hp, hm, hf]), if_pos ⟨hph, hmet⟩]

end

/-! ## An attempt (R82) -/

section
variable {s : State} {p q i : Nat} {c : Cmd}

theorem State.attempt_of_fence (hf : c.fence = true) {e : Cmd} (he : e ∈ (s.q p q).cmds.take i) (hpast : e.past = false) :
    s.attempt p q i c = .notYet :=
  if_pos (.inl ⟨hf, fun hall => by simp [List.all_eq_true.1 hall e he] at hpast⟩)

/-- A conflict makes the command wait, whatever else its attempt waits for. -/
theorem State.attempt_of_held {pl : Plan} (hpl : chkBody s p q c = .ok pl) (hheld : s.held p q i pl.rd pl.wr = true) :
    s.attempt p q i c = .notYet := by
  simp only [State.attempt, hpl]
  rw [if_pos hheld, ite_self]

theorem State.tryBegin_of_notYet (h6 : c.engine ≠ 6) (h : s.attempt p q i c = .notYet) : s.tryBegin p q i c = s := by
  rw [State.tryBegin, if_neg h6, h]

theorem State.tryBegin_of_go {v : State} {hs : List PageMap} {rd wr : List (Nat × Nat)} {ch : Option Chain}
    (h6 : c.engine ≠ 6) (h : s.attempt p q i c = .go v hs rd wr ch) (ho : s.outranked p q c = false) :
    s.tryBegin p q i c = v.begin p q i c hs rd wr ch := by
  simp only [State.tryBegin, if_neg h6, h]
  rw [if_neg (by simp [ho])]

theorem State.tryBegin_of_session (h6 : c.engine = 6) (hr : s.sessionReady p q i = true) (ho : s.outranked p q c = false) :
    s.tryBegin p q i c = s.begin p q i c [] [] [] none := by
  rw [State.tryBegin, if_pos h6, if_pos ⟨hr, by simp [ho]⟩]

/-- An attempt that goes through leaves the queues as it found them. -/
theorem State.ques_of_attempt {v : State} {hs : List PageMap} {rd wr : List (Nat × Nat)} {ch : Option Chain}
    (h : s.attempt p q i c = .go v hs rd wr ch) : v.ques = s.ques := by
  have hkeep := State.attempt_keeps (π := State.ques) s p q i c (by simp)
  rw [h] at hkeep
  exact hkeep

end

/-! ## Beginning -/

/-- The command that has begun, with what it holds. -/
def State.begunCmd (s : State) (p : Nat) (c : Cmd) (held : List PageMap) (rd wr : List (Nat × Nat)) : Cmd :=
  { c with phase := .begun, held := held, rd := rd, wr := wr, began := s.cycle (islandCode (s.cmdIsland p c)) }

/-- Its engine, the turn and the records aside, beginning changes the command in its queue. -/
theorem State.begin_notes (s : State) (p q i : Nat) (c : Cmd) (held : List PageMap) (rd wr : List (Nat × Nat))
    (ch : Option Chain) {α : Type} {π : State → α}
    (hW : Ign π .blocks ∧ Ign π .mxes ∧ Ign π .vxes ∧ Ign π .stes ∧ Ign π .chains ∧ Ign π .nmes ∧ Ign π .cles ∧ Ign π .pairs ∧
      Ign π .tals ∧ Ign π .ldgs ∧ Ign π .fog ∧ Ign π .timers ∧ Ign π .rr ∧ Ign π .out ∧ Ign π .free) :
    see π (s.begin p q i c held rd wr ch) = see π (s.setCmd p q i (s.begunCmd p c held rd wr)) := by
  rw [State.begin.eq_def]
  dsimp only
  (repeat' split) <;> simp [hW, State.begunCmd]

theorem State.begin_cmds {s u : State} (hq : u.ques = s.ques) (p q i : Nat) (c : Cmd) (held : List PageMap)
    (rd wr : List (Nat × Nat)) (ch : Option Chain) :
    ((u.begin p q i c held rd wr ch).q p q).cmds = (s.q p q).cmds.set i (u.begunCmd p c held rd wr) ∧
      ∀ j, j ≠ queKey p q → (u.begin p q i c held rd wr ch).que j = s.que j := by
  have hsee : ∀ k, (u.begin p q i c held rd wr ch).que k = (u.setCmd p q i (u.begunCmd p c held rd wr)).que k := fun k =>
    u.begin_notes p q i c held rd wr ch (π := State.queOf k) (by simp)
  refine ⟨?_, fun j hj => ?_⟩
  · exact (congrArg Que.cmds ((hsee _).trans (State.q_setQ ..))).trans (by rw [State.q_of_ques hq])
  · exact (hsee j).trans ((State.que_setQ_ne _ hj _).trans (State.que_of_ques hq j))

theorem State.leadOf_of_img {s t : State} (h : t.img = s.img) (p : Nat) : t.leadOf p = s.leadOf p := by
  rw [State.leadOf, State.leadOf, State.cfgOf, State.cfgOf, State.mask, State.mask, h]

/-- A session record that begins is handed to the lead pair (R89). -/
theorem State.taken_begin_session {s : State} {p k : Nat} {c : Cmd} (h6 : c.engine = 6) (hk : s.leadOf p = some k)
    (q i : Nat) :
    ((s.begin p q i c [] [] [] none).pair k).taken = (s.pair k).taken ++ [⟨queKey p q, c.head, none⟩] := by
  have hbegun : (s.begunCmd p c [] [] []).engine = 6 := h6
  simp only [State.begunCmd] at hbegun
  simp only [State.begin, hbegun]
  rw [if_neg (by decide : ¬ 6 = 0)]
  generalize hv : State.setTurn _ _ _ = v
  have hsee : ∀ {α : Type} {π : State → α}, Ign π .blocks ∧ Ign π .ques ∧ Ign π .tals ∧ Ign π .ldgs ∧ Ign π .fog ∧
      Ign π .timers ∧ Ign π .rr ∧ Ign π .out → see π v = see π s := fun hW => by
    rw [← hv]
    simp [hW]
  rw [State.leadOf_of_img (hsee (π := State.img) (by simp)), hk]
  dsimp only
  rw [State.pair_updPair, if_pos rfl, State.pair_of_pairs (hsee (π := State.pairs) (by simp))]
  rfl

end Sys2Proof.Machine

open Sys2Proof Sys2Proof.Machine

/-- Settles O17: by the first condition of COMMAND_BEGIN that is not met, and by the engine where all are. -/
theorem commandsBeginInOrder : Obligations.CommandsBeginInOrder := by
  refine fun p q i s c hc => ⟨exec_commandBegin_behind hc, fun hp hm hf => ⟨fun b => exec_commandBegin_bad hc hp hm hf, ?_⟩⟩
  intro d hb u hd
  have hu : s.registerWaits p.val q.val i.val = u := rfl
  refine ⟨exec_commandBegin_waits hc hp hm hf hb hu hd, fun hph hmet => ?_⟩
  have htry := exec_commandBegin_tries hc hp hm hf hb hu hd hph hmet
  have hwait : d.engine ≠ 6 → u.attempt p.val q.val i.val d = .notYet → exec (.commandBegin p q i) s = .next u :=
    fun h6 ha => htry.trans (congrArg _ (State.tryBegin_of_notYet h6 ha))
  refine ⟨fun h6 hfence ⟨e, he, hpast⟩ => hwait h6 (State.attempt_of_fence hfence he hpast),
    fun pl h6 hpl hheld => hwait h6 (State.attempt_of_held hpl hheld),
    fun v hs rd wr ch h6 ha ho => ?begins, fun k h6 hr ho hk => ?session⟩
  case begins =>
    exact ⟨_, htry.trans (congrArg _ (State.tryBegin_of_go h6 ha ho)), State.begin_cmds (State.ques_of_attempt ha) ..⟩
  case session =>
    exact ⟨_, htry.trans (congrArg _ (State.tryBegin_of_session h6 hr ho)), State.taken_begin_session h6 hk _ _,
      (State.begin_cmds rfl ..).1⟩
end

section
/-!
The end of a DESTROY and of a queue's draining (R68, R72, R129): what settling leaves of the contexts, and that a release of
claims leaves none. It settles O14.
-/
namespace Sys2Proof.Machine
set_option Elab.async false

/-! ## The end of a DESTROY (R68) -/

/-- In `t` local context `lc` of partition `p` has ended FREE, or waits among the resets that run as it was in `s`. -/
def EndsFree (s t : State) (p lc : Nat) : Prop :=
  (t.ctx (ctxKey p lc) = ⟨.free, (s.ctx (ctxKey p lc)).gen⟩ ∨
    t.ctx (ctxKey p lc) = s.ctx (ctxKey p lc) ∧ lc ∈ (t.part p).resetting) ∧
  ∀ j, j ≠ ctxKey p lc → t.ctx j = s.ctx j

theorem EndsFree.of_same {s u t : State} {p lc : Nat} (h : EndsFree u t p lc) (hu : ∀ k, u.ctx k = s.ctx k) :
    EndsFree s t p lc := by
  simpa only [EndsFree, hu] using h

/-- What settling does to the contexts, once it goes ahead. -/
theorem State.ctx_settleCtx {s : State} {p lc : Nat} (hr : (s.part p).resetting.contains lc = true)
    (hd : (s.part p).destroyed.contains lc = true) (hheld : s.ctxHeld p lc = false) (k : Nat) :
    (s.settleCtx p lc).ctx k = if k = ctxKey p lc then ⟨.free, (s.ctx k).gen⟩ else s.ctx k := by
  rw [State.settleCtx.eq_def]
  dsimp only
  rw [if_neg (fun h => h.elim (· hr) (by simp [hheld])), if_pos hd]
  generalize hv : List.foldl _ s _ = v
  have hctx : ∀ j, v.ctx j = s.ctx j := fun j => by
    rw [← hv]
    exact foldl_see (π := State.ctxOf j) _ (fun s t => s.removeClaims_see t _ (by simp)) _ _
  generalize hw : ite (_ = CtxState.resetting) _ v = w
  have hwctx : w.ctx k = v.ctx k := by
    rw [← hw]
    split
    · exact State.countPart_see (π := State.ctxOf k) _ _ _ _ _ (by simp)
    · rfl
  change see (State.ctxOf k) _ = _
  rw [State.ctxCmdDone_see _ _ _ (by simp), State.stopEngineRungs_see _ _ (by simp), State.stopTimer_see _ _ (by simp),
    State.stopTimer_see _ _ (by simp), State.setPart_see _ _ _ (by simp)]
  change (w.setCtx (ctxKey p lc) ⟨.free, (v.ctx (ctxKey p lc)).gen⟩).ctx k = _
  rw [State.ctx_setCtx, hwctx, hctx, hctx]
  split
  case isTrue h => rw [h]
  case isFalse => rfl

theorem State.settleCtx_endsFree {s : State} {p lc : Nat} (hr : (s.part p).resetting.contains lc = true)
    (hd : (s.part p).destroyed.contains lc = true) : EndsFree s (s.settleCtx p lc) p lc := by
  cases hheld : s.ctxHeld p lc with
  | true =>
    rw [State.settleCtx, if_pos (.inr hheld)]
    exact ⟨.inr ⟨rfl, by simpa using hr⟩, fun _ _ => rfl⟩
  | false =>
    exact ⟨.inl ((State.ctx_settleCtx hr hd hheld _).trans (if_pos rfl)), fun j hj =>
      (State.ctx_settleCtx hr hd hheld j).trans (if_neg hj)⟩

/-- The partition notes a context that ends FREE among the resets that run. -/
def State.noteEnding (s : State) (p lc : Nat) : State :=
  s.setPart p { s.part p with
    resetting := ((s.part p).resetting ++ [lc]).eraseDups
    destroyed := ((s.part p).destroyed ++ [lc]).eraseDups }

theorem State.endContext_eq (s : State) (p lc : Nat) :
    s.endContext p lc true = ((s.noteEnding p lc).removeWork p lc).settleCtx p lc := rfl

theorem State.part_noteEnding (s : State) (p lc : Nat) :
    ((s.noteEnding p lc).part p).resetting = ((s.part p).resetting ++ [lc]).eraseDups ∧
      ((s.noteEnding p lc).part p).destroyed = ((s.part p).destroyed ++ [lc]).eraseDups := by
  simp [State.noteEnding]

/-- Removing work leaves the contexts and the partition's notes, so the context settles as one that ends FREE. -/
theorem State.endContext_endsFree (s : State) (p lc : Nat) : EndsFree s (s.endContext p lc true) p lc := by
  have hpart : ((s.noteEnding p lc).removeWork p lc).part p = (s.noteEnding p lc).part p :=
    State.removeWork_see (π := State.partAt p) _ _ _ (by simp)
  obtain ⟨hr, hd⟩ := s.part_noteEnding p lc
  rw [State.endContext_eq]
  refine (State.settleCtx_endsFree ?_ ?_).of_same fun k => ?_
  · simp [hpart, hr]
  · simp [hpart, hd]
  · exact (State.removeWork_see (π := State.ctxOf k) _ _ _ (by simp)).trans
      (State.setPart_see (π := State.ctxOf k) _ _ _ (by simp))

/-- The state in which a bound that has passed makes a context RESETTING (R68, R425). -/
def State.startReset (s : State) (p lc : Nat) : State :=
  ((s.setCtx (ctxKey p lc) ⟨.resetting, (s.ctx (ctxKey p lc)).gen⟩).startTimer (.rung p (.context lc))
    (s.frontIsland p) 10000000).stopTimer (.destroy (ctxKey p lc))

theorem State.ctx_startReset (s : State) (p lc k : Nat) : (s.startReset p lc).ctx k =
    if k = ctxKey p lc then ⟨.resetting, (s.ctx (ctxKey p lc)).gen⟩ else s.ctx k :=
  (State.stopTimer_see (π := State.ctxOf k) _ _ (by simp)).trans
    ((State.startTimer_see (π := State.ctxOf k) _ _ _ _ (by simp)).trans (State.ctx_setCtx s (ctxKey p lc) k _))

theorem State.resetContext_eq (s : State) (p lc : Nat) (free : Bool) :
    s.resetContext p lc free = (s.startReset p lc).endContext p lc free := rfl

theorem exec_destroyFinish_ends {p : Fin 8} {c : BitVec 8} {s : State}
    (hst : (s.ctx (ctxKey p.val c.toNat)).st = .destroying) (hq : c.toNat < s.ctxQuota p.val)
    (hr : c.toNat ∉ (s.part p.val).resetting)
    (hcmds : ∀ q ∈ s.queuesOf p.val c.toNat, ∀ d ∈ (s.q p.val q).cmds, d.phase = .stuck) :
    exec (.destroyFinish p c) s = .next (s.endContext p.val c.toNat true) := by
  change Host.Outcome.next (ite _ _ _) = _
  rw [if_pos ⟨hst, hq, by simpa using hr, by simpa using hcmds⟩]

theorem exec_destroyTimeout_ends {p : Fin 8} {c : BitVec 8} {s : State}
    (hst : (s.ctx (ctxKey p.val c.toNat)).st = .destroying) (hq : c.toNat < s.ctxQuota p.val)
    (he : s.expired (.destroy (ctxKey p.val c.toNat)) = true) :
    exec (.destroyTimeout p c) s = .next (s.resetContext p.val c.toNat true) := by
  change Host.Outcome.next (ite _ _ _) = _
  rw [if_pos ⟨hst, hq, he⟩]

/-! ## The end of draining (R72, R129) -/

/-- No buffer or slot of the matrix engine is claimed by the queue. -/
def Mxe.Unclaimed (m : Mxe) (dq : Nat) : Prop :=
  ∀ x ∈ [m.act.claim, m.shd.claim, m.slot0.claim, m.slot1.claim], x ≠ some dq

theorem WBuf.claim_release (b : WBuf) (dq : Nat) : (b.release dq).claim ≠ some dq := by
  rw [WBuf.release]
  split
  · simp [WBuf.reset]
  · assumption

theorem Slot.claim_release (b : Slot) (dq : Nat) : (b.release dq).claim ≠ some dq := by
  rw [Slot.release]
  split
  · simp [Slot.reset]
  · assumption

theorem Mxe.unclaimed_release (m : Mxe) (dq : Nat) : (m.release dq).Unclaimed dq := by
  simp [Mxe.Unclaimed, Mxe.release, WBuf.claim_release, Slot.claim_release]

theorem Mxe.unclaimed_reset (dq : Nat) : Mxe.reset.Unclaimed dq := by
  simp [Mxe.Unclaimed, Mxe.reset, WBuf.reset, Slot.reset]

theorem SMap.get_of_notMem_keys {α : Type} {d : α} {m : SMap α} {k : Nat} (h : k ∉ m.map (·.1)) : SMap.get d m k = d := by
  induction m with
  | nil => rfl
  | cons e m ih =>
    simp only [List.map_cons, List.mem_cons, not_or] at h
    rw [SMap.get, if_neg h.1, ih h.2]

/-- Where the engines of the list are released one by one, an engine has no claim left if it is in the list or had none. -/
theorem State.unclaimed_foldl_release {dq : Nat} (l : List (Nat × Mxe)) (s : State)
    (h : ∀ k, k ∉ l.map (·.1) → (s.mxe k).Unclaimed dq) (k : Nat) :
    ((l.foldl (fun s e => s.setMxe e.1 (e.2.release dq)) s).mxe k).Unclaimed dq := by
  induction l generalizing s with
  | nil => exact h k (by simp)
  | cons e l ih =>
    refine ih _ fun j hj => ?_
    rw [State.mxe_setMxe]
    split
    case isTrue => exact e.2.unclaimed_release dq
    case isFalse hne => exact h j (by simp [hne, hj])

theorem State.unclaimed_releaseClaims (s : State) (dq k : Nat) : ((s.releaseClaims dq).mxe k).Unclaimed dq :=
  s.unclaimed_foldl_release s.mxes (fun _ hj => (congrArg (Mxe.Unclaimed · dq) (SMap.get_of_notMem_keys hj)).mpr
    (Mxe.unclaimed_reset dq)) k

/-- The queue as its drain leaves it: DISABLED, and empty. -/
def Que.drained (x : Que) : Que := { x with draining := false, halted := false, recs := [], cmds := [] }

theorem exec_queueDrainEnd_drained {p : Fin 8} {q : Fin 2048} {s : State} (hdr : (s.q p.val q.val).draining = true)
    (hcmds : ∀ d ∈ (s.q p.val q.val).cmds, d.phase = .stuck) : exec (.queueDrainEnd p q) s =
      .next (((s.releaseClaims (queKey p.val q.val)).setQ p.val q.val (s.q p.val q.val).drained).stopTimer
        (.progress (queKey p.val q.val))) := by
  change Host.Outcome.next (ite _ _ _) = _
  rw [if_pos ⟨hdr, by simpa using hcmds⟩]
  rfl

end Sys2Proof.Machine

open Sys2Proof Sys2Proof.Machine

/-- Settles O14: a removal's end by whether an engine still holds work of the context, a drain's by the fold of the releases. -/
theorem destroyAndDrainingEnd : Obligations.DestroyAndDrainingEnd := by
  refine ⟨?finish, ?timeout, fun p q s hdr hcmds => ⟨_, exec_queueDrainEnd_drained hdr hcmds, State.q_setQ .., fun j hj => ?_,
    State.unclaimed_releaseClaims s _⟩⟩
  case finish =>
    intro p c s k hst hq hr hcmds
    refine ⟨_, exec_destroyFinish_ends hst hq hr hcmds, ?_⟩
    obtain ⟨hfree | ⟨hsame, hmem⟩, hother⟩ := s.endContext_endsFree p.val c.toNat
    · exact ⟨(congrArg Ctx.gen hfree :), .inl (congrArg Ctx.st hfree), hother⟩
    · exact ⟨(congrArg Ctx.gen hsame :), .inr ⟨(congrArg Ctx.st hsame).trans hst, hmem⟩, hother⟩
  case timeout =>
    intro p c s k hst hq he
    refine ⟨_, (exec_destroyTimeout_ends hst hq he).trans (congrArg _ (s.resetContext_eq ..)), ?_⟩
    have hstart : (s.startReset p.val c.toNat).ctx k = ⟨.resetting, (s.ctx k).gen⟩ :=
      (s.ctx_startReset p.val c.toNat k).trans (if_pos rfl)
    obtain ⟨hend, hother⟩ := (s.startReset p.val c.toNat).endContext_endsFree p.val c.toNat
    rw [hstart] at hend
    refine ⟨?_, ?_, fun j hj => (hother j hj).trans ((s.ctx_startReset ..).trans (if_neg hj))⟩
    · exact hend.elim (fun hfree => (congrArg Ctx.gen hfree :)) fun ⟨hsame, _⟩ => (congrArg Ctx.gen hsame :)
    · exact hend.imp (congrArg Ctx.st) fun ⟨hsame, hmem⟩ => ⟨congrArg Ctx.st hsame, hmem⟩
  · exact (State.que_setQ_ne _ hj _).trans (State.releaseClaims_see (π := State.queOf j) _ _ (by simp))
end

section
/-!
The addition of one row to its slot row, without COMP, fold or overflow (R107, R137, R139): each column rounded once, and what
the row and its slot keep. It settles O23.
-/
namespace Sys2Proof.Machine
set_option Elab.async false

/-! ## The slots of a matrix engine -/

@[simp] theorem Mxe.slot_setSlot (m : Mxe) (i : Nat) (x : Slot) : (m.setSlot i x).slot i = x := by
  unfold Mxe.slot Mxe.setSlot
  split <;> rfl

theorem Mxe.slot_setSlot_ne (m : Mxe) {i j : Nat} (hi : i < 2) (hj : j < 2) (h : j ≠ i) (x : Slot) :
    (m.setSlot i x).slot j = m.slot j := by
  obtain ⟨rfl, rfl⟩ | ⟨rfl, rfl⟩ : i = 0 ∧ j = 1 ∨ i = 1 ∧ j = 0 := by omega
  · rfl
  · rfl

/-- What a write of one slot leaves. -/
@[simp] theorem Mxe.setSlot_frame (m : Mxe) (i : Nat) (x : Slot) :
    (m.setSlot i x).save = m.save ∧ (m.setSlot i x).inArray = m.inArray ∧ (m.setSlot i x).passes = m.passes := by
  unfold Mxe.setSlot
  split <;> exact ⟨rfl, rfl, rfl⟩

theorem State.mxe_of_mxes {s t : State} (h : t.mxes = s.mxes) (k : Nat) : t.mxe k = s.mxe k := by
  rw [State.mxe, State.mxe, h]

@[simp] theorem Slot.row_setRow (sl : Slot) (r k : Nat) (x : SlotRow) :
    (sl.setRow r x).row k = if k = r then x else sl.row k :=
  SMap.get_set ..

@[simp] theorem SlotRow.elem_setElem (row : SlotRow) (n j : Nat) (v : BitVec 36) :
    (row.setElem n v).elem j = if j = n then v else row.elem j :=
  SMap.get_set ..

/-! ## One column (R107, R139) -/

/-- The roundings of a mode: to nearest where it is strict, stochastic with a 16-bit draw where it is fast. -/
def RoundsIn (strict : Bool) (md : Rnd) : Prop :=
  (strict = true → md = .near) ∧ (strict = false → ∃ d < 65536, md = .stoch d)

/-- What a column becomes, before rounding. -/
def columnSum (acc strict : Bool) (a : BitVec 36) (x : Num) : Num :=
  if acc then Num.add strict false (a36Num a) x else x

/-- A number rounded to A36 in a mode. -/
def a36By (md : Rnd) (strict : Bool) (x : Num) : BitVec 36 := BitVec.ofNat 36 (fA36.encode md (!strict) x)

theorem State.draw16_lt (s : State) (t : Nat) : (s.draw16 t).1 < 65536 := by
  unfold State.draw16
  split
  · exact Nat.mod_lt _ (by decide)
  · exact BitVec.isLt _

theorem State.addElem_plain (s : State) (t : Nat) (acc strict : Bool) (a e : BitVec 36) (x : Num) :
    ∃ md, RoundsIn strict md ∧ (s.addElem t acc strict false a e x).1.1 = a36By md strict (columnSum acc strict a x) ∧
      ((a36Num (a36By md strict (columnSum acc strict a x))).isInf = false →
        (s.addElem t acc strict false a e x).1.2.2 = false) := by
  cases strict with
  | true => exact ⟨.near, ⟨fun _ => rfl, nofun⟩, rfl, fun h => (congrArg (· && _) h).trans (Bool.false_and _)⟩
  | false =>
    exact ⟨.stoch (s.draw16 t).1, ⟨nofun, fun _ => ⟨_, s.draw16_lt t, rfl⟩⟩, rfl,
      fun h => (congrArg (· && _) h).trans (Bool.false_and _)⟩

@[simp] theorem Num.scale_zero (x : Num) : x.scale 0 = x := by
  cases x <;> simp [Num.scale]

/-! ## The columns of a row -/

/-- No column of the row overflows, whatever its rounding. -/
def NoOverflow (acc strict : Bool) (k : Nat) (xs : List Num) (row : SlotRow) : Prop :=
  ∀ n < xs.length, ∀ md,
    (a36Num (a36By md strict (columnSum acc strict (row.elem (k + n)) (xs.getD n (.fin false 0 0))))).isInf = false

/-- `row'` is `row` with the words `xs` added to its columns from column `k` on. -/
structure ColumnsAdded (acc strict : Bool) (k : Nat) (xs : List Num) (row row' : SlotRow) : Prop where
  rounded : ∀ n < xs.length, ∃ md, RoundsIn strict md ∧
    row'.elem (k + n) = a36By md strict (columnSum acc strict (row.elem (k + n)) (xs.getD n (.fin false 0 0)))
  kept : ∀ j, j < k ∨ k + xs.length ≤ j → row'.elem j = row.elem j
  fields : row' = { row with elems := row'.elems }

theorem NoOverflow.tail {acc strict : Bool} {k : Nat} {x : Num} {xs : List Num} {row : SlotRow}
    (h : NoOverflow acc strict k (x :: xs) row) (v : BitVec 36) : NoOverflow acc strict (k + 1) xs (row.setElem k v) := by
  intro n hn md
  have hne : k + 1 + n ≠ k := by omega
  have hn' := h (n + 1) (Nat.succ_lt_succ hn) md
  rw [SlotRow.elem_setElem, if_neg hne, Nat.add_right_comm]
  exact hn'

theorem ColumnsAdded.cons {acc strict : Bool} {k : Nat} {x : Num} {xs : List Num} {row row' : SlotRow} {md : Rnd}
    (hmd : RoundsIn strict md)
    (h : ColumnsAdded acc strict (k + 1) xs (row.setElem k (a36By md strict (columnSum acc strict (row.elem k) x))) row') :
    ColumnsAdded acc strict k (x :: xs) row row' where
  rounded
    | 0, _ => ⟨md, hmd, (h.kept k (.inl k.lt_succ_self)).trans (by simp)⟩
    | n + 1, hn => by
      obtain ⟨md', hmd', hval⟩ := h.rounded n (Nat.lt_of_succ_lt_succ hn)
      rw [SlotRow.elem_setElem, if_neg (by omega), Nat.add_right_comm] at hval
      exact ⟨md', hmd', hval⟩
  kept j hj := by
    rw [List.length_cons] at hj
    exact (h.kept j (by omega)).trans ((SlotRow.elem_setElem ..).trans (if_neg (by omega)))
  fields := h.fields

/-- One column's turn in `State.addCols` without COMP, at the columns' own scale. -/
def addColumn (t : Nat) (acc strict : Bool) (st : (SlotRow × SlotRow × Bool) × State) (x : Num × Nat) :
    (SlotRow × SlotRow × Bool) × State :=
  let r := st.2.addElem t acc strict false (st.1.1.elem x.2) (st.1.2.1.elem x.2) (x.1.scale 0)
  ((st.1.1.setElem x.2 r.1.1, st.1.2.1, st.1.2.2 || r.1.2.2), r.2)

theorem addColumn_plain (t : Nat) {acc strict : Bool} {k : Nat} {x : Num} {xs : List Num} {row : SlotRow} (err : SlotRow)
    (s : State) (hno : NoOverflow acc strict k (x :: xs) row) :
    ∃ md u, RoundsIn strict md ∧ addColumn t acc strict ((row, err, false), s) (x, k) =
      ((row.setElem k (a36By md strict (columnSum acc strict (row.elem k) x)), err, false), u) := by
  obtain ⟨md, hmd, hval, hover⟩ := s.addElem_plain t acc strict (row.elem k) (err.elem k) x
  have hfin := hover (hno 0 (Nat.succ_pos _) md)
  refine ⟨md, (s.addElem t acc strict false (row.elem k) (err.elem k) x).2, hmd, ?_⟩
  simp only [addColumn, Num.scale_zero, hval, hfin, Bool.or_false]

theorem foldl_addColumn_plain (t : Nat) {acc strict : Bool} {k : Nat} {xs : List Num} {row : SlotRow} (err : SlotRow)
    (s : State) (hno : NoOverflow acc strict k xs row) :
    ∃ row' u, ColumnsAdded acc strict k xs row row' ∧
      (xs.zipIdx k).foldl (addColumn t acc strict) ((row, err, false), s) = ((row', err, false), u) := by
  induction xs generalizing k row s with
  | nil => exact ⟨row, s, ⟨nofun, fun _ _ => rfl, rfl⟩, rfl⟩
  | cons x xs ih =>
    obtain ⟨md, u, hmd, hcol⟩ := addColumn_plain t err s hno
    obtain ⟨row', v, hadded, hfold⟩ := ih u (hno.tail _)
    exact ⟨row', v, hadded.cons hmd, by rw [List.zipIdx_cons, List.foldl_cons, hcol, hfold]⟩

/-- The additions of a row without COMP, at the columns' own scale: the error row stays, and none overflows. -/
theorem State.addCols_plain (t : Nat) {acc strict : Bool} {xs : List Num} {row : SlotRow} (err : SlotRow) (s : State)
    (hno : NoOverflow acc strict 0 xs row) :
    ∃ row' u, ColumnsAdded acc strict 0 xs row row' ∧ s.addCols t acc strict false 0 xs row err = ((row', err, false), u) :=
  foldl_addColumn_plain t err s hno

/-! ## The row -/

/-- The row with the products of an issue counted (R137, R139). -/
def countedRow (acc : Bool) (k : Nat) (row : SlotRow) : SlotRow :=
  if acc then { row with count := bumpCount row.count k, seg := bumpSeg row.seg k, comp := false }
  else { row with count := BitVec.ofNat 32 k, seg := BitVec.ofNat 21 k, off64 := false, folded := false, comp := false }

/-- What an addition that takes a row's COUNT above 2^28 notes (R145), as `State.rowAdd` writes it where no fold is due. -/
def State.noteLong (s : State) (t : Nat) (long : Bool) (w : Who) : State :=
  if long then (if long then s.flag .mxe t 0x24 (bit 31) else s).countTile t 0x010B 1 w
  else if long then s.flag .mxe t 0x24 (bit 31) else s

theorem State.mxes_noteLong (s : State) (t : Nat) (long : Bool) (w : Who) : (s.noteLong t long w).mxes = s.mxes := by
  cases long with
  | false => rfl
  | true =>
    have hflag : (s.flag .mxe t 0x24 (bit 31)).mxes = s.mxes := State.flag_see (π := State.mxes) _ _ _ _ _ (by simp)
    exact (State.countTile_see (π := State.mxes) (s.flag .mxe t 0x24 (bit 31)) t 0x010B 1 w (by simp)).trans hflag

/-- The matrix engine with row `r` of slot `sl` replaced. Its other slot's row is put back with the elements of `err`, which
COMP uses as its error words. -/
def Mxe.putRow (m : Mxe) (sl r : Nat) (row err : SlotRow) : Mxe :=
  let m := m.setSlot sl ((m.slot sl).setRow r row)
  let old := (m.slot (1 - sl)).row r
  m.setSlot (1 - sl) ((m.slot (1 - sl)).setRow r { err with
    count := old.count, seg := old.seg, off64 := old.off64, folded := old.folded, comp := old.comp })

theorem Mxe.slot_putRow (m : Mxe) {sl : Nat} (hsl : sl < 2) (r : Nat) (row err : SlotRow) :
    (m.putRow sl r row err).slot sl = (m.slot sl).setRow r row := by
  unfold Mxe.putRow
  rw [Mxe.slot_setSlot_ne _ (by omega) hsl (by omega), Mxe.slot_setSlot]

theorem Mxe.putRow_frame (m : Mxe) (sl r : Nat) (row err : SlotRow) :
    (m.putRow sl r row err).inArray = m.inArray ∧ (m.putRow sl r row err).passes = m.passes := by
  simp [Mxe.putRow]

theorem State.rowAdd_plain {s : State} {t sl r k : Nat} {acc strict : Bool} {xs : List Num} (w : Who)
    (hcomp : (((s.mxe t).slot sl).row r).comp = false) (hoff : (((s.mxe t).slot sl).row r).off64 = false)
    (hseg : (((s.mxe t).slot sl).row r).seg.toNat + k ≤ 2 ^ 20)
    (hno : NoOverflow acc strict 0 xs (((s.mxe t).slot sl).row r)) :
    ∃ row' err, ColumnsAdded acc strict 0 xs (((s.mxe t).slot sl).row r) row' ∧
      (s.rowAdd t sl r k acc strict false xs w).mxe t = (s.mxe t).putRow sl r (countedRow acc k row') err := by
  have hfit : ¬ 2 ^ 20 < (((s.mxe t).slot sl).row r).seg.toNat + k := not_lt.2 hseg
  generalize hv : s.noteLong t (acc && decide (2 ^ 28 < (((s.mxe t).slot sl).row r).count.toNat + k)) w = v
  obtain ⟨row', u, hadded, hcols⟩ := State.addCols_plain t (((s.mxe t).slot (1 - sl)).row r) v hno
  have hmxes : u.mxes = s.mxes := by
    have hsee := State.addCols_see_of (π := State.mxes) hcols (by simp)
    exact Eq.trans hsee (hv ▸ s.mxes_noteLong ..)
  refine ⟨row', ((s.mxe t).slot (1 - sl)).row r, hadded, ?_⟩
  have hmxe : s.mxe t = u.mxe t := State.mxe_of_mxes hmxes.symm t
  subst hv
  simp only [State.noteLong] at hcols
  rw [State.rowAdd.eq_def]
  simp only [hcomp, hoff, hfit, Bool.false_eq_true, false_and, if_false, decide_false, Bool.and_false, Bool.false_and,
    or_false, Bool.or_false, Bool.not_false, Bool.and_true, hcols, State.mxe_setMxe, if_true]
  simp only [hmxe, Mxe.putRow, countedRow]

/-! ## SLOT_ROW_ADD (R139) -/

/-- The oldest issue has left the array. -/
def State.popIssue (s : State) (t : Nat) (rest : List Issue) : State := s.setMxe t { s.mxe t with inArray := rest }

/-- `n` rows of a pass have reached the slot. -/
def State.landRows (s : State) (t : Nat) (r : CmdRef) (n : Nat) : State :=
  s.setMxe t { s.mxe t with passes := updPass (s.mxe t).passes r (fun y => { y with landed := y.landed + n }) }

@[simp] theorem State.mxe_popIssue (s : State) (t : Nat) (rest : List Issue) :
    (s.popIssue t rest).mxe t = { s.mxe t with inArray := rest } := by
  simp [State.popIssue]

theorem State.slot_popIssue (s : State) (t : Nat) (rest : List Issue) (j : Nat) :
    ((s.popIssue t rest).mxe t).slot j = (s.mxe t).slot j := by
  simp [Mxe.slot]

@[simp] theorem State.mxe_landRows (s : State) (t : Nat) (r : CmdRef) (n : Nat) : (s.landRows t r n).mxe t =
    { s.mxe t with passes := updPass (s.mxe t).passes r (fun y => { y with landed := y.landed + n }) } := by
  simp [State.landRows]

theorem psSlot_lt_two (c : Cmd) : psSlot c < 2 := Nat.mod_lt _ (by decide)

section
variable {t : Fin 48} {s : State} {i : Issue} {rest : List Issue} {r : Nat} {xs : List Num} {c : Cmd} {p q : Nat}
  (hin : (s.mxe t.val).inArray = i :: rest) (hrows : i.rows = [(r, xs)]) (hc : s.cmdAt i.ref = some c)
  (ho : s.queOwner i.ref.q = some (p, q))
include hin hrows hc ho

theorem exec_slotRowAdd_single : ∃ w, exec (.slotRowAdd t) s =
      .next (((s.popIssue t.val rest).rowAdd t.val (psSlot c) r i.k (psAcc c) (psStrict c) (psComp c) xs w).landRows
        t.val i.ref 1) := by
  refine ⟨(s.popIssue t.val rest).whoOf p q c, ?_⟩
  have hc' : (s.setMxe t.val { s.mxe t.val with inArray := rest }).cmdAt i.ref = some c := hc
  have ho' : (s.setMxe t.val { s.mxe t.val with inArray := rest }).queOwner i.ref.q = some (p, q) := ho
  simp only [exec, execSlotRowAdd, hin, hc', ho', hrows, List.foldl_cons, List.foldl_nil, List.length_singleton]
  rfl

/-- SLOT_ROW_ADD of one row: the row is replaced in its slot, and the issue has left the array and counts as landed. -/
theorem exec_slotRowAdd_plain {row : SlotRow} (hold : ((s.mxe t.val).slot (psSlot c)).row r = row)
    (hcomp : psComp c = false) (hrow : row.comp = false) (hoff : row.off64 = false) (hseg : row.seg.toNat + i.k ≤ 2 ^ 20)
    (hno : NoOverflow (psAcc c) (psStrict c) 0 xs row) :
    ∃ u row', exec (.slotRowAdd t) s = .next u ∧ ColumnsAdded (psAcc c) (psStrict c) 0 xs row row' ∧
      (u.mxe t.val).slot (psSlot c) = ((s.mxe t.val).slot (psSlot c)).setRow r (countedRow (psAcc c) i.k row') ∧
      (u.mxe t.val).inArray = rest ∧
      (u.mxe t.val).passes = updPass (s.mxe t.val).passes i.ref (fun y => { y with landed := y.landed + 1 }) := by
  obtain ⟨w, hexec⟩ := exec_slotRowAdd_single hin hrows hc ho
  have hpop : (((s.popIssue t.val rest).mxe t.val).slot (psSlot c)).row r = row := by rw [State.slot_popIssue, hold]
  obtain ⟨row', err, hadded, hput⟩ := State.rowAdd_plain (k := i.k) (strict := psStrict c) w (hpop ▸ hrow) (hpop ▸ hoff)
    (hpop ▸ hseg) (hpop ▸ hno)
  rw [hcomp] at hexec
  obtain ⟨harr, hpasses⟩ := ((s.popIssue t.val rest).mxe t.val).putRow_frame (psSlot c) r (countedRow (psAcc c) i.k row') err
  have hslot := ((s.popIssue t.val rest).mxe t.val).slot_putRow (psSlot_lt_two c) r (countedRow (psAcc c) i.k row') err
  refine ⟨_, row', hexec, hpop ▸ hadded, ?_, ?_, ?_⟩ <;> rw [State.mxe_landRows, hput]
  · exact hslot.trans (by rw [State.slot_popIssue])
  · exact harr.trans (by simp)
  · exact congrArg (updPass · i.ref (fun y => { y with landed := y.landed + 1 })) (hpasses.trans (by simp))

end

theorem countedRow_of_added {acc strict : Bool} {k : Nat} {xs : List Num} {row row' : SlotRow}
    (h : ColumnsAdded acc strict 0 xs row row') (hoff : row.off64 = false) :
    (countedRow acc k row').count = (if acc then bumpCount row.count k else BitVec.ofNat 32 k) ∧
      (countedRow acc k row').seg = (if acc then bumpSeg row.seg k else BitVec.ofNat 21 k) ∧
      (countedRow acc k row').comp = false ∧ (countedRow acc k row').off64 = false := by
  rw [h.fields]
  cases acc with
  | true => exact ⟨rfl, rfl, rfl, hoff⟩
  | false => exact ⟨rfl, rfl, rfl, rfl⟩

@[simp] theorem elem_countedRow (acc : Bool) (k : Nat) (row : SlotRow) (n : Nat) :
    (countedRow acc k row).elem n = row.elem n := by
  cases acc <;> rfl

end Sys2Proof.Machine

open Sys2Proof Sys2Proof.Machine

/-- Settles O23: the one row's columns are added one after the other, each rounded once, and the row is put into its slot. -/
theorem rowAdditionRoundsOnce : Obligations.RowAdditionRoundsOnce := by
  intro t s i rest r xs c p q m row sum hin hrows hc ho hcomp hrow hoff hseg hno
  obtain ⟨u, added, hexec, hadded, hslot, harr, hpasses⟩ := exec_slotRowAdd_plain hin hrows hc ho rfl hcomp hrow hoff hseg
    (fun n hn md => (Nat.zero_add n).symm ▸ hno n hn md)
  obtain ⟨hcount, hsegs, hcomp', hoff'⟩ := countedRow_of_added (k := i.k) hadded hoff
  have hself : ((u.mxe t.val).slot (psSlot c)).row r = countedRow (psAcc c) i.k added := by simp [hslot]
  refine ⟨u, hexec, ?_⟩
  dsimp only
  rw [hself]
  refine ⟨fun n hn => ?_, fun n hn => ?_, hcount, hsegs, hcomp', hoff', fun k hk => ?_, harr, hpasses⟩
  · obtain ⟨md, ⟨hstrict, hfast⟩, hval⟩ := hadded.rounded n hn
    rw [Nat.zero_add] at hval
    exact ⟨md, hstrict, hfast, (elem_countedRow ..).trans hval⟩
  · exact (elem_countedRow ..).trans (hadded.kept n (.inr (by omega)))
  · rw [hslot, Slot.row_setRow, if_neg hk]
end

section
/-!
SAVE and RESTORE of the accumulator slots, and RESEED (R109, R110, R149 to R151): what the commands begin, and what is left
where they end. It settles O24.
-/
namespace Sys2Proof.Machine
set_option Elab.async false

/-! ## The selected slots (R149) -/

theorem lt_two_of_mem_selSlots {b : BitVec 2} : ∀ i ∈ selSlots b, i < 2 := by
  revert b
  decide +kernel

/-! ## Resets that run no longer (R432) -/

/-- No partition has a reset that runs. -/
def State.NoResets (s : State) : Prop :=
  ∀ g ∈ s.partsOf, (s.part g.num).rstRuns = [] ∧ (s.part g.num).resetting = []

theorem State.NoResets.of_same {s t : State} (h : s.NoResets) (hi : t.img = s.img) (hp : t.parts = s.parts) : t.NoResets := by
  simpa only [State.NoResets, State.partsOf, State.part, hi, hp] using h

theorem State.pumpResets_of_noResets {s : State} (h : s.NoResets) : s.pumpResets = s := by
  unfold State.pumpResets
  unfold State.NoResets at h
  generalize s.partsOf = l at h
  induction l with
  | nil => rfl
  | cons c l ih =>
    obtain ⟨hruns, hreset⟩ := h c List.mem_cons_self
    rw [List.foldl_cons]
    simp only [hruns, List.foldl_nil, State.settleAll, hreset]
    exact ih fun g hg => h g (List.mem_cons_of_mem _ hg)

theorem exec_saveRestoreDone_noResets {s : State} (h : s.NoResets) (t : Fin 48) (ok : Bool) :
    exec (.saveRestoreDone t ok) s = .next (s.saveRestoreDone t.val ok) :=
  congrArg Host.Outcome.next (State.pumpResets_of_noResets (h.of_same
    (State.saveRestoreDone_see (π := State.img) _ _ _ (by simp)) (State.saveRestoreDone_see (π := State.parts) _ _ _ (by simp))))

/-! ## Beginning (R149) -/

/-- A SAVE or RESTORE of the tile runs, or a selected slot is in use. -/
def State.SaveBusy (s : State) (t : Nat) (b : BitVec 2) : Prop :=
  (s.mxe t).save.isSome = true ∨ (b.getLsbD 0 = true ∧ s.slotBusy t 0 = true) ∨ (b.getLsbD 1 = true ∧ s.slotBusy t 1 = true)

section
variable {s : State} {m : Master} {t : Nat} {restore : Bool} {b : BitVec 2} {q : BitVec 11}
  (hr : s.reaches m ⟨.mxe, t⟩ = true)
include hr

theorem State.saveCmd_denied (hmay : s.pfOrKp m ((s.partOfTile t).getD 8) = false) :
    s.saveCmd m t restore b q = s.setMxe t { s.mxe t with saveRes := 0x04 } := by
  simp [State.saveCmd, hr, hmay, State.saveResult]

variable (hmay : s.pfOrKp m ((s.partOfTile t).getD 8) = true) (hb : b ≠ 0)
include hmay hb

theorem State.saveCmd_busy (hbusy : s.SaveBusy t b) :
    s.saveCmd m t restore b q = s.setMxe t { s.mxe t with saveRes := 0x01 } := by
  rw [State.saveCmd, if_neg (by simp [hr]), if_neg (by simp [hmay]), if_neg hb]
  exact if_pos hbusy

theorem State.saveCmd_begins (hfree : ¬ s.SaveBusy t b) :
    s.saveCmd m t restore b q = s.setMxe t { s.mxe t with save := some ⟨restore, b, q, s.saveAddr t⟩ } := by
  rw [State.saveCmd, if_neg (by simp [hr]), if_neg (by simp [hmay]), if_neg hb]
  exact if_neg hfree

end

/-! ## The end of a SAVE (R150) -/

/-- A SAVE or RESTORE of the tile no longer runs. -/
def State.endSave (s : State) (t : Nat) : State := s.setMxe t { s.mxe t with save := none }

@[simp] theorem State.mxe_endSave (s : State) (t : Nat) : (s.endSave t).mxe t = { s.mxe t with save := none } := by
  simp [State.endSave]

@[simp] theorem State.mxe_saveResult (s : State) (t : Nat) (r : Byte) :
    (s.saveResult t r).mxe t = { s.mxe t with saveRes := r } := by
  simp [State.saveResult]

theorem State.slot_endSave (s : State) (t i : Nat) : ((s.endSave t).mxe t).slot i = (s.mxe t).slot i := by
  simp [Mxe.slot]

/-- The record tells of the slots and of memory, not of the command that saves them. -/
theorem State.saveRecord_endSave (s : State) (t : Nat) (b : BitVec 2) :
    (s.endSave t).saveRecord t b = s.saveRecord t b := by
  simp only [State.saveRecord, State.slotSection, s.slot_endSave]
  rfl

theorem State.length_saveRecord (s : State) (t : Nat) (b : BitVec 2) : 64 ≤ (s.saveRecord t b).length := by
  simp only [State.saveRecord, List.length_append, List.length_cons, List.length_nil, List.length_replicate, leBytes_length]
  omega

theorem physAt_ne_host {a : Nat} (h : a < hostBase) : physAt a ≠ .host := by
  intro hp
  unfold hostBase at h
  unfold physAt at hp
  split_ifs at hp
  omega

section
variable {s : State} {t : Nat} {o : SaveOp} (ho : (s.mxe t).save = some o)
include ho

theorem State.saveRestoreDone_saved (hsave : o.restore = false)
    (hdev : o.addr + (s.saveRecord t o.slots).length ≤ hostBase)
    (hreach : s.recordReach o.addr (s.saveRecord t o.slots).length = true) :
    s.saveRestoreDone t true = ((s.endSave t).writeBytes o.addr (s.saveRecord t o.slots)).saveResult t 0x00 := by
  have hlen := s.length_saveRecord t o.slots
  have ha : o.addr < hostBase := by omega
  simp only [State.saveRestoreDone, ho, hsave]
  rw [← s.saveRecord_endSave] at hreach ⊢
  rw [if_pos (by simp), if_pos ⟨by simp [physAt_ne_host ha], hreach⟩, State.putBytes, if_neg (not_le.2 ha)]
  rfl

theorem State.saveRestoreDone_unsaved {ok : Bool} (hsave : o.restore = false)
    (hbad : ok = true → s.recordReach o.addr (s.saveRecord t o.slots).length = false) :
    s.saveRestoreDone t ok = (s.endSave t).saveResult t 0x02 := by
  simp only [State.saveRestoreDone, ho, hsave]
  rw [← s.saveRecord_endSave] at hbad
  rw [if_pos (by simp), if_neg]
  · rfl
  · rintro ⟨hans, hreach⟩
    exact Bool.false_ne_true ((hbad (Bool.and_eq_true_iff.1 hans).1).symm.trans hreach)

end

/-! ## The end of a RESTORE (R150, R151) -/

/-- The slots of a list written one after the other, each with its own content. -/
def State.putSlots (s : State) (t : Nat) (g : Nat → Slot) (l : List Nat) : State :=
  l.foldl (fun s i => s.setMxe t ((s.mxe t).setSlot i (g i))) s

theorem State.putSlots_see {α : Type} {π : State → α} (hW : Ign π .mxes) (s : State) (t : Nat) (g : Nat → Slot)
    (l : List Nat) : see π (s.putSlots t g l) = see π s :=
  foldl_see _ (fun _ _ => State.setMxe_see _ _ _ hW) l s

theorem State.save_putSlots (s : State) (t : Nat) (g : Nat → Slot) (l : List Nat) :
    ((s.putSlots t g l).mxe t).save = (s.mxe t).save := by
  induction l generalizing s with
  | nil => rfl
  | cons i l ih => exact (ih _).trans (by simp)

theorem State.slot_putSlots (s : State) (t : Nat) (g : Nat → Slot) {l : List Nat} (hl : ∀ i ∈ l, i < 2) {j : Nat}
    (hj : j < 2) : ((s.putSlots t g l).mxe t).slot j = if j ∈ l then g j else (s.mxe t).slot j := by
  induction l generalizing s with
  | nil => rfl
  | cons i l ih =>
    refine (ih _ fun k hk => hl k (List.mem_cons_of_mem _ hk)).trans ?_
    by_cases hjl : j ∈ l
    · simp [hjl]
    · by_cases hji : j = i
      · simp [hji]
      · simp [hjl, hji, Mxe.slot_setSlot_ne _ (hl i List.mem_cons_self) hj hji]

theorem State.slot_saveResult (s : State) (t : Nat) (r : Byte) (j : Nat) :
    ((s.saveResult t r).mxe t).slot j = (s.mxe t).slot j := by
  simp [Mxe.slot]

/-- The tile's engine and the memory where slots are put and then a RESULT is given. -/
theorem State.putSlots_saveResult (s : State) (t : Nat) (g : Nat → Slot) {l : List Nat} (hl : ∀ i ∈ l, i < 2) (r : Byte) :
    let u := (s.putSlots t g l).saveResult t r
    (u.mxe t).save = (s.mxe t).save ∧ (u.mxe t).saveRes = r ∧
      (∀ j < 2, (u.mxe t).slot j = if j ∈ l then g j else (s.mxe t).slot j) ∧ u.mem = s.mem := by
  refine ⟨?_, by simp, fun j hj => (State.slot_saveResult ..).trans (s.slot_putSlots t g hl hj),
    (State.saveResult_see (π := State.mem) _ _ _ (by simp)).trans (State.putSlots_see (π := State.mem) (by simp) ..)⟩
  exact Eq.trans (by simp) (s.save_putSlots t g l)

theorem State.restoreFails_eq (s : State) (t : Nat) (b : BitVec 2) :
    s.restoreFails t b = (s.putSlots t (fun _ => .reset) (selSlots b)).saveResult t 0x02 := rfl

theorem State.readAny_device (s : State) {a : Nat} (h : a < hostBase) (n : Nat) : leNat (s.readAny a n) = s.readLe a n := by
  simp only [State.readAny, if_neg (not_le.2 h)]
  rfl

/-- A header is judged by its 64 bytes. -/
theorem saveHeaderOk_congr {rd rd' : Nat → Nat → Nat} (h : ∀ off n, off < 64 → rd off n = rd' off n) (b : BitVec 2) :
    saveHeaderOk rd b = saveHeaderOk rd' b := by
  have hzero : (List.range 13).all (fun i => decide (rd (12 + 4 * i) 4 = 0)) =
      (List.range 13).all (fun i => decide (rd' (12 + 4 * i) 4 = 0)) := by
    refine Bool.eq_iff_iff.2 ?_
    simp only [List.all_eq_true, List.mem_range]
    exact forall₂_congr fun i hi => by rw [h _ _ (by omega)]
  simp only [saveHeaderOk, hzero, h 0 4 (by decide), h 4 1 (by decide), h 5 1 (by decide), h 6 1 (by decide),
    h 8 4 (by decide)]

/-- The length of a record without fold records. -/
def plainLen (b : BitVec 2) : Nat := 64 + 593920 * (selSlots b).length

theorem foldl_sectionLen_plain (b : BitVec 2) :
    64 + (selSlots b).foldl (fun a i => a + sectionLen (Nat.testBit 0 i)) 0 = plainLen b := by
  revert b
  decide +kernel

theorem len_of_saveHeaderOk {rd : Nat → Nat → Nat} {b : BitVec 2} (h : saveHeaderOk rd b = true) (h0 : rd 6 1 = 0) :
    rd 8 4 = plainLen b := by
  have hlen := foldl_sectionLen_plain b
  simp only [saveHeaderOk, h0, Bool.and_eq_true, decide_eq_true_eq] at h
  omega

/-- The section of a selected slot lies in the record. -/
theorem sectionAt_le_plainLen {b : BitVec 2} {i : Nat} (hi : i ∈ selSlots b) : sectionAt b 0 i + 593920 ≤ plainLen b := by
  revert b i
  decide +kernel

/-- Row `r` of slot `i` in a record without fold records. -/
def State.recordRow (s : State) (a : Nat) (b : BitVec 2) (i r : Nat) : SlotRow :=
  readRow (s.readLe (a + (sectionAt b 0 i + 8 * r)) 8) (s.readLe (a + (sectionAt b 0 i + 4096 + 1152 * r)) 1152)

theorem State.recordRow_of_mem {s u : State} (h : u.mem = s.mem) (a : Nat) (b : BitVec 2) (i r : Nat) :
    u.recordRow a b i r = s.recordRow a b i r := by
  simp only [State.recordRow, State.readLe_of_mem h]

/-- The slot that a record without fold records holds, claimed for a queue. -/
def State.recordSlot (s : State) (a : Nat) (b : BitVec 2) (q i : Nat) : Slot :=
  ⟨((List.range 512).map (fun r => (r, s.recordRow a b i r))).filter (fun e => decide (e.2 ≠ SlotRow.reset)), some q⟩

/-- A table that lists the keys of a list, without the default. -/
theorem SMap.get_listed {α : Type} [DecidableEq α] (d : α) (f : Nat → α) (l : List Nat) (k : Nat) :
    SMap.get d ((l.map (fun r => (r, f r))).filter (fun e => decide (e.2 ≠ d))) k = if k ∈ l then f k else d := by
  induction l with
  | nil => rfl
  | cons r l ih =>
    rw [List.map_cons, List.filter_cons]
    by_cases hr : f r = d
    · rw [if_neg (by simpa using hr), ih]
      by_cases hk : k = r <;> simp [hk, hr]
    · rw [if_pos (by simpa using hr), SMap.get, ih]
      by_cases hk : k = r <;> simp [hk]

theorem State.row_recordSlot (s : State) (a : Nat) (b : BitVec 2) (q i : Nat) {r : Nat} (hr : r < 512) :
    (s.recordSlot a b q i).row r = s.recordRow a b i r := by
  rw [State.recordSlot, Slot.row, SMap.get_listed, if_pos (List.mem_range.2 hr)]

/-- A selected slot is read from its section, which lies on the device. -/
theorem State.restoreSlot_plain {s u : State} {a : Nat} {b : BitVec 2} {i : Nat} (hmem : u.mem = s.mem)
    (hdev : a + plainLen b ≤ hostBase) (hi : i ∈ selSlots b) (t q : Nat) :
    u.restoreSlot t a b 0 q i = u.setMxe t ((u.mxe t).setSlot i (s.recordSlot a b q i)) := by
  have hlen := sectionAt_le_plainLen hi
  have hrow : ∀ r ∈ List.range 512, (r, readRow (leNat (u.readAny (a + sectionAt b 0 i + 8 * r) 8))
      (leNat (u.readAny (a + sectionAt b 0 i + 4096 + 1152 * r) 1152))) = (r, s.recordRow a b i r) := fun r hr => by
    rw [List.mem_range] at hr
    rw [u.readAny_device (by omega), u.readAny_device (by omega), State.readLe_of_mem hmem, State.readLe_of_mem hmem,
      State.recordRow]
    simp only [Nat.add_assoc]
  simp only [State.restoreSlot, Nat.zero_testBit, Bool.false_eq_true, if_false, List.map_congr_left hrow]
  rfl

theorem State.foldl_restoreSlot_plain {s u : State} {a : Nat} {b : BitVec 2} {l : List Nat} (hmem : u.mem = s.mem)
    (hdev : a + plainLen b ≤ hostBase) (hl : ∀ i ∈ l, i ∈ selSlots b) (t q : Nat) :
    l.foldl (fun u i => u.restoreSlot t a b 0 q i) u = u.putSlots t (s.recordSlot a b q) l := by
  induction l generalizing u with
  | nil => rfl
  | cons i l ih =>
    rw [List.foldl_cons, State.restoreSlot_plain hmem hdev (hl i List.mem_cons_self)]
    exact ih (u := u.setMxe t _) hmem fun k hk => hl k (List.mem_cons_of_mem _ hk)

/-- The key of the queue that a RESTORE names. -/
def State.restoreKey (s : State) (o : SaveOp) : Nat :=
  ((s.queByNum o.queue.toNat).map (fun x => queKey x.1 x.2)).getD noQue

theorem State.restoreKey_of_queByNum {s : State} {o : SaveOp} {x : Nat × Nat} (h : s.queByNum o.queue.toNat = some x) :
    s.restoreKey o = queKey x.1 x.2 := by
  rw [State.restoreKey, h]
  rfl

/-- The header of a valid record without fold records, which lies on the device. -/
structure State.PlainRecord (s : State) (o : SaveOp) : Prop where
  onDevice : o.addr + s.readLe (o.addr + 8) 4 ≤ hostBase
  header : saveHeaderOk (fun off n => s.readLe (o.addr + off) n) o.slots = true
  noFold : s.readLe (o.addr + 6) 1 = 0

namespace State.PlainRecord

variable {s : State} {o : SaveOp} (h : s.PlainRecord o)
include h

theorem len_eq : s.readLe (o.addr + 8) 4 = plainLen o.slots := len_of_saveHeaderOk h.header h.noFold

theorem fits : o.addr + plainLen o.slots ≤ hostBase := h.len_eq ▸ h.onDevice

theorem readAny_eq {off : Nat} (hoff : off < plainLen o.slots) (n : Nat) :
    leNat (s.readAny (o.addr + off) n) = s.readLe (o.addr + off) n :=
  s.readAny_device (by have := h.fits; omega) n

theorem header_read : saveHeaderOk (fun off n => leNat (s.readAny (o.addr + off) n)) o.slots = true :=
  (saveHeaderOk_congr (fun _ n hoff => h.readAny_eq (hoff.trans_le (Nat.le_add_right ..)) n) o.slots).trans h.header

theorem restoreFrom_eq (t : Nat) (hrows : ∀ i ∈ selSlots o.slots, ∀ r < 512,
    rowWordOk (s.readLe (o.addr + (sectionAt o.slots 0 i + 8 * r)) 8) false = true) :
    s.restoreFrom t o =
      ((s.putSlots t (s.recordSlot o.addr o.slots (s.restoreKey o)) (selSlots o.slots)).bump).saveResult t 0x00 := by
  have hwords : (selSlots o.slots).all (fun i => (List.range 512).all (fun r =>
      rowWordOk (leNat (s.readAny (o.addr + (sectionAt o.slots 0 i + 8 * r)) 8)) (Nat.testBit 0 i))) = true := by
    simp only [List.all_eq_true, List.mem_range, Nat.zero_testBit]
    intro i hi r hr
    have hin := sectionAt_le_plainLen hi
    rw [h.readAny_eq (by omega)]
    exact hrows i hi r hr
  simp only [State.restoreFrom, h.readAny_eq (off := 6) (by unfold plainLen; omega), h.noFold]
  rw [if_neg (not_not.2 hwords), if_neg (by simp), State.foldl_restoreSlot_plain (s := s) rfl h.fits (fun _ hi => hi)]
  rfl

end State.PlainRecord

section
variable {s : State} {t : Nat} {o : SaveOp} (ho : (s.mxe t).save = some o)
include ho

theorem State.saveRestoreDone_unread {ok : Bool} (hrest : o.restore = true)
    (hbad : ok = true → s.recordReads o.addr 64 = false) :
    s.saveRestoreDone t ok = (s.endSave t).restoreFails t o.slots := by
  simp only [State.saveRestoreDone, ho, hrest]
  rw [if_neg (by simp), if_pos]
  · rfl
  · rintro ⟨hans, hreads⟩
    exact Bool.false_ne_true ((hbad (Bool.and_eq_true_iff.1 hans).1).symm.trans hreads)

theorem State.saveRestoreDone_read (hrest : o.restore = true) (hp : s.PlainRecord o)
    (h64 : s.recordReads o.addr 64 = true) (hall : s.recordReads o.addr (s.readLe (o.addr + 8) 4) = true) :
    s.saveRestoreDone t true = (s.endSave t).restoreFrom t o := by
  have hp' : (s.endSave t).PlainRecord o := ⟨hp.onDevice, hp.header, hp.noFold⟩
  have hfits := hp.fits
  have hhost : physAt o.addr ≠ .host := physAt_ne_host (by unfold plainLen at hfits; omega)
  simp only [State.saveRestoreDone, ho, hrest]
  rw [if_neg (by simp), if_neg (not_not.2 ⟨by simp [hhost], h64⟩)]
  refine (if_neg (not_not.2 hp'.header_read)).trans (if_neg (not_not.2 ?_))
  exact (congrArg (s.recordReads o.addr) (hp'.readAny_eq (by unfold plainLen; omega) 4)).trans hall

end

end Sys2Proof.Machine

open Sys2Proof Sys2Proof.Machine

/-- Settles O24: a command begins by what `State.saveCmd` finds, and the end of a SAVE or RESTORE is the record that it
stores, or the slots that it puts. -/
theorem slotsSaveAndRestore : Obligations.SlotsSaveAndRestore := by
  refine ⟨?begin, ?save, ?restore, fun m t s hr => ?reseed, fun t s hr => ?seeded⟩
  case begin =>
    intro m t b q s hr x may busy
    refine ⟨fun hmay i hi => ?_, fun hmay hb hbusy i hi => ?_, fun hmay hb hfree => ⟨?_, ?_⟩⟩
    · rcases List.mem_pair.1 hi with rfl | rfl <;> exact congrArg Host.Outcome.next (State.saveCmd_denied hr hmay)
    · rcases List.mem_pair.1 hi with rfl | rfl <;> exact congrArg Host.Outcome.next (State.saveCmd_busy hr hmay hb hbusy)
    · exact congrArg Host.Outcome.next (State.saveCmd_begins hr hmay hb hfree)
    · exact congrArg Host.Outcome.next (State.saveCmd_begins hr hmay hb hfree)
  case save =>
    intro t s o ho hsave hidle
    refine ⟨fun hdev hreach => ?saved, fun ok hbad => ?unsaved⟩
    case saved =>
      refine ⟨_, (exec_saveRestoreDone_noResets hidle t true).trans
        (congrArg _ (State.saveRestoreDone_saved ho hsave hdev hreach)), ?_⟩
      generalize s.saveRecord t.val o.slots = bs
      refine ⟨((s.endSave t.val).readBytes_writeBytes o.addr bs :), fun a ha =>
        ((s.endSave t.val).readByte_writeBytes o.addr a bs).trans (if_neg ha), ?_⟩
      have hmxe : ((s.endSave t.val).writeBytes o.addr bs).mxe t.val = (s.endSave t.val).mxe t.val :=
        State.mxe_of_mxes (State.writeBytes_see (π := State.mxes) _ _ _ (by simp)) _
      rw [State.mxe_saveResult, hmxe, State.mxe_endSave]
    case unsaved =>
      refine ⟨_, (exec_saveRestoreDone_noResets hidle t ok).trans
        (congrArg _ (State.saveRestoreDone_unsaved ho hsave hbad)), by simp, fun k hk => ?_, ?_⟩
      · simp [State.saveResult, State.endSave, hk]
      · exact (State.saveResult_see (π := State.except [.mxes]) _ _ _ (by simp)).trans
          (State.setMxe_see (π := State.except [.mxes]) _ _ _ (by simp))
  case restore =>
    intro t s o ho hrest hidle rd
    have hnone : ((s.endSave t.val).mxe t.val).save = none := by simp
    have hslot := s.slot_endSave t.val
    refine ⟨fun hdev hhead h0 h64 hall hrows => ?restored, fun ok hbad => ?unread⟩
    case restored =>
      have hp : s.PlainRecord o := ⟨hdev, hhead, h0⟩
      have hp' : (s.endSave t.val).PlainRecord o := ⟨hdev, hhead, h0⟩
      refine ⟨_, (exec_saveRestoreDone_noResets hidle t true).trans (congrArg _
        ((State.saveRestoreDone_read ho hrest hp h64 hall).trans (hp'.restoreFrom_eq t.val hrows))), ?_⟩
      obtain ⟨hsv, hres, hslots, hmem⟩ := (s.endSave t.val).putSlots_saveResult t.val
        ((s.endSave t.val).recordSlot o.addr o.slots ((s.endSave t.val).restoreKey o)) (l := selSlots o.slots)
        lt_two_of_mem_selSlots 0x00
      refine ⟨hsv.trans hnone, hres, fun i hi => ?_, fun i hi hout => ((hslots i hi).trans (if_neg hout)).trans (hslot i), hmem⟩
      have hput := (hslots i (lt_two_of_mem_selSlots i hi)).trans (if_pos hi)
      refine ⟨fun x hx => ?_, fun r hr => ?_⟩
      · rw [← State.restoreKey_of_queByNum (s := s.endSave t.val) hx]
        exact congrArg Slot.claim hput
      · have hrow := (congrArg (Slot.row · r) hput).trans (State.row_recordSlot _ _ _ _ _ hr)
        exact hrow.trans (State.recordRow_of_mem rfl ..)
    case unread =>
      obtain ⟨hsv, hres, hslots, hmem⟩ := (s.endSave t.val).putSlots_saveResult t.val (fun _ => Slot.reset)
        (l := selSlots o.slots) lt_two_of_mem_selSlots 0x02
      refine ⟨_, (exec_saveRestoreDone_noResets hidle t ok).trans
        (congrArg _ ((State.saveRestoreDone_unread ho hrest hbad).trans (State.restoreFails_eq ..))),
        hsv.trans hnone, hres, fun i hi => ?_, hmem⟩
      rw [hslots i hi, hslot]
  case reseed => exact congrArg Host.Outcome.next (if_pos hr)
  case seeded => exact congrArg Host.Outcome.next (if_pos hr)
end

section
/-!
Weight blocks (R114 to R117, R128, R129): what a LOADW and a PASS take as they begin, what the end of a LOADW puts into
the shadow buffer, and the swap of the buffers. It settles O21.
-/
namespace Sys2Proof.Machine
set_option Elab.async false

/-! ## What a reference names -/

/-- What says which command a reference names, and whose it is. -/
def State.commands (s : State) : List (Nat × Que) × List (Nat × List Chain) × Img := (s.ques, s.chains, s.img)

@[simp] theorem ign_commands (f : Fld) (hq : f ≠ .ques) (hc : f ≠ .chains) (hi : f ≠ .img) : Ign State.commands f := by
  cases f
  case ques => exact absurd rfl hq
  case chains => exact absurd rfl hc
  case img => exact absurd rfl hi
  all_goals exact fun _ _ => rfl

theorem State.commands_iff {s u : State} :
    u.commands = s.commands ↔ u.ques = s.ques ∧ u.chains = s.chains ∧ u.img = s.img := by
  simp [State.commands]

theorem State.cmdAt_of_commands {s u : State} (h : u.commands = s.commands) (r : CmdRef) : u.cmdAt r = s.cmdAt r := by
  obtain ⟨hq, hc, -⟩ := State.commands_iff.1 h
  simp only [State.cmdAt, State.chainOf, State.que, hq, hc]

theorem State.queOwner_of_commands {s u : State} (h : u.commands = s.commands) (k : Nat) : u.queOwner k = s.queOwner k :=
  State.queOwner_of_img (State.commands_iff.1 h).2.2 k

theorem State.queKey_of_queOwner {s : State} {k p q : Nat} (h : s.queOwner k = some (p, q)) : queKey p q = k := by
  unfold State.queOwner at h
  split at h
  · obtain ⟨rfl, rfl⟩ := Prod.mk.inj (Option.some.inj h)
    unfold queKey
    omega
  · contradiction

/-! ## How a command of an engine ends (R80, R83) -/

/-- What a reference names in one state it names in another with the same commands. -/
theorem State.found_of_commands {s u : State} {r : CmdRef} (hsame : u.commands = s.commands)
    (ho : (s.queOwner r.q).isSome = true) (hc : (s.cmdAt r).isSome = true) :
    ∃ p q c, u.queOwner r.q = some (p, q) ∧ u.cmdAt r = some c := by
  rw [← State.queOwner_of_commands hsame] at ho
  rw [← State.cmdAt_of_commands hsame] at hc
  obtain ⟨⟨p, q⟩, ho⟩ := Option.isSome_iff_exists.1 ho
  obtain ⟨c, hc⟩ := Option.isSome_iff_exists.1 hc
  exact ⟨p, q, c, ho, hc⟩

theorem State.failRef_halts {s u : State} {r : CmdRef} (hsame : u.commands = s.commands)
    (ho : (s.queOwner r.q).isSome = true) (hc : (s.cmdAt r).isSome = true) (b : Bad) (uclass unit sub : Nat) :
    ((u.failRef r b uclass unit sub).que r.q).halted = true := by
  obtain ⟨p, q, c, ho, hc⟩ := State.found_of_commands hsame ho hc
  simp only [State.failRef, ho, hc]
  rw [← State.queKey_of_queOwner ho]
  exact State.halted_haltAt ..

/-- A command of a matrix engine completes, and the engine's watchdog starts anew where work is left (R423). -/
def State.finish (s : State) (t : Nat) (r : CmdRef) (busy : Bool) : State := (s.completeRef r).progress .mxe t busy

theorem State.finish_see {α : Type} {π : State → α} (hW : Ign π .blocks ∧ Ign π .ques ∧ Ign π .chains ∧ Ign π .tals ∧
    Ign π .ldgs ∧ Ign π .fog ∧ Ign π .timers ∧ Ign π .out) (s : State) (t : Nat) (r : CmdRef) (busy : Bool) :
    see π (s.finish t r busy) = see π s :=
  (State.progress_see _ _ _ _ (by simp [hW])).trans (State.completeRef_see _ _ hW)

/-- What a completion leaves of a state with one matrix engine changed. -/
theorem State.setMxe_finish_leaves (s : State) (t : Nat) (m : Mxe) (r : CmdRef) (busy : Bool) :
    let u := (s.setMxe t m).finish t r busy
    u.mxe t = m ∧ (∀ k, k ≠ t → u.mxe k = s.mxe k) ∧ u.mem = s.mem := by
  intro u
  have hmxe : ∀ k, u.mxe k = (s.setMxe t m).mxe k :=
    State.mxe_of_mxes (State.finish_see (π := State.mxes) (by simp) _ _ _ _)
  exact ⟨(hmxe t).trans (by simp), fun k hk => (hmxe k).trans (by simp [hk]),
    State.finish_see (π := State.mem) (by simp) _ _ _ _⟩

theorem State.finish_completed {s u : State} {r : CmdRef} (hsame : u.commands = s.commands) (hstage : r.stage = none)
    (ho : (s.queOwner r.q).isSome = true) (hc : (s.cmdAt r).isSome = true) (t : Nat) (busy : Bool) :
    Completed s (u.finish t r busy) r := by
  obtain ⟨p, q, c, ho, hc⟩ := State.found_of_commands hsame ho hc
  obtain ⟨hdone, -, -⟩ := State.completeCmd_completed (State.commands_iff.1 hsame).1 ho hc
  have hque : ((u.completeCmd r).progress .mxe t busy).que r.q = (u.completeCmd r).que r.q :=
    State.progress_see (π := State.queOf r.q) _ _ _ _ (by simp)
  rw [State.finish, State.completeRef, hstage, Completed, hque]
  exact hdone

/-! ## The beginning of a LOADW and of a PASS (R114, R117, R128, R129) -/

/-- The shadow buffer that a LOADW takes. -/
def loadingBuf (r : CmdRef) (c : Cmd) : WBuf :=
  { WBuf.reset with st := .loading, kValid := ldK c, nValid := ldN c, claim := some r.q }

/-- The matrix engine as the LOADW of a reference begins. -/
def Mxe.beginLoad (m : Mxe) (r : CmdRef) (c : Cmd) : Mxe :=
  { m with shd := loadingBuf r c, loads := m.loads.map (fun y => if y.ref = r then { y with started := true } else y) }

/-- The slot is a queue's. -/
def Slot.take (sl : Slot) (q : Nat) : Slot := { sl with claim := some q }

/-- The slots that a PASS takes as it begins: none with ACC = 1, both under COMP (R129). -/
def Mxe.takeSlots (m : Mxe) (q : Nat) (c : Cmd) : Mxe :=
  if psAcc c then m
  else if psComp c then { m with slot0 := m.slot0.take q, slot1 := m.slot1.take q }
  else m.setSlot (psSlot c) ((m.slot (psSlot c)).take q)

/-- The matrix engine as the PASS of a reference begins. -/
def Mxe.beginPass (m : Mxe) (r : CmdRef) (c : Cmd) : Mxe :=
  let m := m.takeSlots r.q c
  { m with passes := updPass m.passes r (fun y => { y with started := true, swapped := !(psSwap c) }) }

theorem Mxe.takeSlots_frame (m : Mxe) (q : Nat) (c : Cmd) : (m.takeSlots q c).act = m.act ∧
    (m.takeSlots q c).shd = m.shd ∧ (m.takeSlots q c).passes = m.passes := by
  unfold Mxe.takeSlots Mxe.setSlot
  split_ifs <;> exact ⟨rfl, rfl, rfl⟩

theorem Mxe.slot_takeSlots (m : Mxe) (q : Nat) (c : Cmd) {i : Nat} (hi : i < 2) : (m.takeSlots q c).slot i =
    if psAcc c = false ∧ (i = psSlot c ∨ psComp c = true) then (m.slot i).take q else m.slot i := by
  unfold Mxe.takeSlots
  by_cases hacc : psAcc c = true
  · simp [hacc]
  by_cases hcomp : psComp c = true
  · obtain rfl | rfl : i = 0 ∨ i = 1 := by omega
    all_goals simp [hacc, hcomp, Mxe.slot]
  by_cases h : i = psSlot c
  · simp [hacc, hcomp, h]
  · simp [hacc, hcomp, h, Mxe.slot_setSlot_ne m (psSlot_lt_two c) hi h]

theorem Mxe.beginPass_frame (m : Mxe) (r : CmdRef) (c : Cmd) : (m.beginPass r c).act = m.act ∧
    (m.beginPass r c).shd = m.shd ∧ (m.beginPass r c).passes =
      updPass m.passes r (fun y => { y with started := true, swapped := !(psSwap c) }) := by
  obtain ⟨hact, hshd, hpasses⟩ := m.takeSlots_frame r.q c
  exact ⟨hact, hshd, by rw [← hpasses]; rfl⟩

theorem exec_mxeLoadw_begins {t : Fin 48} {s : State} {x : LoadOp} {c : Cmd}
    (hx : (s.mxe t.val).loads.find? (fun y => !y.started) = some x) (hc : s.cmdAt x.ref = some c) (hb : c.book ≠ .stale) :
    exec (.mxeLoadw t) s = .next ((s.setMxe t.val ((s.mxe t.val).beginLoad x.ref c)).progress .mxe t.val true) := by
  simp only [exec, execMxeLoadw, hx, hc, hb, if_false]
  rfl

section
variable {t : Fin 48} {s : State} {x : PassOp} {c : Cmd}
  (hx : (s.mxe t.val).passes.find? (fun y => !y.started) = some x) (hc : s.cmdAt x.ref = some c)
include hx hc

theorem exec_mxePass_waits (hs : (s.mxe t.val).saveTakes (psSlot c) (psComp c) = true) : exec (.mxePass t) s = .next s := by
  simp only [exec, execMxePass, hx, hc, hs, if_true]

theorem exec_mxePass_begins (hs : (s.mxe t.val).saveTakes (psSlot c) (psComp c) = false) : exec (.mxePass t) s =
    .next ((s.setMxe t.val ((s.mxe t.val).beginPass x.ref c)).progress .mxe t.val true) := by
  simp only [exec, execMxePass, hx, hc, hs, Bool.false_eq_true, if_false]
  rfl

end

/-- What a watchdog that starts anew leaves of a state with one matrix engine changed. -/
theorem State.setMxe_progress_leaves (s : State) (t : Nat) (m : Mxe) (busy : Bool) :
    let u := (s.setMxe t m).progress .mxe t busy
    u.mxe t = m ∧ (∀ k, k ≠ t → u.mxe k = s.mxe k) ∧ u.mem = s.mem ∧
      u.except [.mxes, .timers] = s.except [.mxes, .timers] := by
  intro u
  have hmxe : ∀ k, u.mxe k = (s.setMxe t m).mxe k :=
    State.mxe_of_mxes (State.progress_see (π := State.mxes) _ _ _ _ (by simp))
  refine ⟨(hmxe t).trans (by simp), fun k hk => (hmxe k).trans (by simp [hk]),
    State.progress_see (π := State.mem) _ _ _ _ (by simp), ?_⟩
  exact (State.progress_see (π := State.except [.mxes, .timers]) _ _ _ _ (by simp)).trans
    (State.setMxe_see (π := State.except [.mxes, .timers]) _ _ _ (by simp))

/-! ## The end of a LOADW (R114, R133, R174 to R176) -/

/-- The rows of a block as its LOADW writes them. -/
def State.blockRows (s : State) (t p : Nat) (c : Cmd) : List (List (BitVec 20)) :=
  (List.range (ldK c)).map (fun k =>
    if ldCoded c then (s.codedRow p c ((s.mxe t).book (ldBook c)) k).1.getD [] else s.plainRow p c k)

/-- The expander has expanded every row of a LOADW. -/
def State.expandedAll (s : State) (t p : Nat) (r : CmdRef) (c : Cmd) : State :=
  s.expanded t r c (s.codedRows p c ((s.mxe t).book (ldBook c)))

/-- The shadow buffer that holds a block. -/
def loadedBuf (r : CmdRef) (c : Cmd) (rows : List (List (BitVec 20))) : WBuf :=
  { st := .ready, kValid := ldK c, nValid := ldN c, narrow := fmtNarrow (ldFmt c)
    words := blockWords rows, claim := some r.q }

/-- The matrix engine as the LOADW of a reference ends. -/
def Mxe.endLoad (m : Mxe) (r : CmdRef) (c : Cmd) (rows : List (List (BitVec 20))) : Mxe :=
  { m with shd := loadedBuf r c rows, loads := m.loads.filter (fun y => decide (y.ref ≠ r)) }

/-- A block without an escape fault has no first row with one. -/
theorem State.loadRowsMeet_fst {s : State} {t p : Nat} {c : Cmd}
    (h : ldCoded c = true → ∀ k < ldK c, (s.codedRow p c ((s.mxe t).book (ldBook c)) k).1.isSome = true) (r : CmdRef) :
    (s.loadRowsMeet t p r c).1 = ldK c := by
  simp only [State.loadRowsMeet]
  split
  case isTrue hcoded =>
    refine (List.findIdx_eq_length.2 fun y hy => ?_).trans (by simp [State.codedRows])
    obtain ⟨k, hk, rfl⟩ := List.mem_map.1 hy
    simpa using h hcoded k (List.mem_range.1 hk)
  case isFalse => rfl

/-- Only a coded LOADW counts bubbles (R176). -/
theorem State.expanded_plain {s : State} {c : Cmd} (h : ldCoded c = false) (t : Nat) (r : CmdRef)
    (rows : List (Option (List (BitVec 20)) × Nat)) : s.expanded t r c rows = s := by
  rw [State.expanded, if_neg (by simp [h])]

theorem State.expanded_leaves (s : State) (t : Nat) (r : CmdRef) (c : Cmd) (rows : List (Option (List (BitVec 20)) × Nat)) :
    (∃ n, (s.expanded t r c rows).mxe t = { s.mxe t with bubbles := n }) ∧
      ∀ k, k ≠ t → (s.expanded t r c rows).mxe k = s.mxe k := by
  unfold State.expanded
  split
  · generalize rows.foldl (fun a x => a + x.2) 0 = n
    generalize hv : s.setMxe t { s.mxe t with bubbles := BitVec.ofNat 16 (min n 0xFFFF) } = v
    have hmxe := State.mxe_of_mxes (State.countTile_see (π := State.mxes) v t 0x0105 n (s.whoRef r c) (by simp))
    subst hv
    exact ⟨⟨_, (hmxe t).trans ((s.mxe_setMxe ..).trans (if_pos rfl))⟩, fun k hk => (hmxe k).trans (by simp [hk])⟩
  · exact ⟨⟨_, rfl⟩, fun _ _ => rfl⟩

theorem exec_loadwComplete_ready {t : Fin 48} {s : State} {x : LoadOp} {c : Cmd} {p q : Nat}
    (hx : (s.mxe t.val).loads.find? (·.started) = some x) (hc : s.cmdAt x.ref = some c)
    (ho : s.queOwner x.ref.q = some (p, q))
    (hesc : ldCoded c = true → ∀ k < ldK c, (s.codedRow p c ((s.mxe t.val).book (ldBook c)) k).1.isSome = true)
    (hgo : s.loadMeets t.val p x.ref c = .go) (hldg : s.ldgHolds ⟨.ldgTile, t.val⟩ 1 = false) :
    ∃ busy, exec (.loadwComplete t) s = .next (
      ((s.expandedAll t.val p x.ref c).setMxe t.val
        (((s.expandedAll t.val p x.ref c).mxe t.val).endLoad x.ref c (s.blockRows t.val p c))).finish t.val x.ref busy) := by
  have hall : ¬ (s.loadRowsMeet t.val p x.ref c).1 < ldK c := (State.loadRowsMeet_fst hesc x.ref).not_lt
  simp only [exec, execLoadwComplete, hx, hc, ho, hldg, hgo, hall, Bool.false_eq_true, if_false]
  cases hcoded : ldCoded c with
  | true =>
    simp only [State.blockRows, State.codedRows, hcoded, if_true, List.map_map]
    exact ⟨_, rfl⟩
  | false =>
    simp only [State.expandedAll, State.expanded_plain hcoded, State.blockRows, hcoded, Bool.false_eq_true, if_false]
    exact ⟨_, rfl⟩

/-! ## The swap (R117, R129) -/

/-- The matrix engine as the PASS of a reference swaps its buffers. -/
def Mxe.swap (m : Mxe) (r : CmdRef) : Mxe :=
  { m with act := m.shd, shd := .reset, swapIssued := false
           passes := updPass m.passes r (fun y => { y with swapped := true }) }

/-- The matrix engine without the PASS of a reference. -/
def Mxe.dropPass (m : Mxe) (r : CmdRef) : Mxe := { m with passes := m.passes.filter (fun y => decide (y.ref ≠ r)) }

section
variable {t : Fin 48} {s : State} {x : PassOp}
  (hx : (s.mxe t.val).passes.find? (fun y => y.started && !y.swapped) = some x)
include hx

theorem exec_passSwap_lost (h : (s.mxe t.val).shd.st = .empty ∨ (s.mxe t.val).shd.claim ≠ some x.ref.q) :
    exec (.passSwap t) s =
      .next ((s.setMxe t.val ((s.mxe t.val).dropPass x.ref)).failRef x.ref badArray 0 t.val 0) := by
  simp only [exec, execPassSwap, hx, h, if_true]
  rfl

theorem exec_passSwap_ready (hst : (s.mxe t.val).shd.st = .ready) (hcl : (s.mxe t.val).shd.claim = some x.ref.q)
    (hb : passesBefore s (s.mxe t.val).passes x.ref = true) :
    exec (.passSwap t) s = .next (s.setMxe t.val ((s.mxe t.val).swap x.ref)) := by
  simp only [exec, execPassSwap, hx, hst, hcl, hb, reduceCtorEq, ne_eq, not_true_eq_false, or_false, and_self, if_true,
    if_false]
  rfl

theorem exec_passSwap_loading (hst : (s.mxe t.val).shd.st = .loading) (hcl : (s.mxe t.val).shd.claim = some x.ref.q) :
    exec (.passSwap t) s = .next s := by
  simp only [exec, execPassSwap, hx, hst, hcl, reduceCtorEq, ne_eq, not_true_eq_false, or_false, false_and, if_false]

end

end Sys2Proof.Machine

open Sys2Proof Sys2Proof.Machine

/-- Settles O21: each of the four commands puts one new matrix engine into the state; what comes after that is a completion,
a fault, or a watchdog that starts anew. -/
theorem weightBlocksLoadAndSwap : Obligations.WeightBlocksLoadAndSwap := by
  refine ⟨?load, ?loaded, ?pass, ?swap⟩
  case load =>
    intro t s x c m hx hc hb
    obtain ⟨hmxe, hother, -, hframe⟩ := s.setMxe_progress_leaves t.val (m.beginLoad x.ref c) true
    exact ⟨_, exec_mxeLoadw_begins hx hc hb, hmxe, hother, hframe⟩
  case loaded =>
    intro t s x c p q m b hx hc ho hesc hgo hldg
    obtain ⟨busy, hexec⟩ := exec_loadwComplete_ready hx hc ho hesc hgo hldg
    obtain ⟨⟨n, hn⟩, hexp⟩ := s.expanded_leaves t.val x.ref c (s.codedRows p c b)
    have hsame : (s.expandedAll t.val p x.ref c).commands = s.commands :=
      State.expanded_see (π := State.commands) _ _ _ _ _ (by simp)
    obtain ⟨hmxe, hother, -⟩ := (s.expandedAll t.val p x.ref c).setMxe_finish_leaves t.val
      (((s.expandedAll t.val p x.ref c).mxe t.val).endLoad x.ref c (s.blockRows t.val p c)) x.ref busy
    refine ⟨_, hexec, ?_⟩
    dsimp only
    rw [hmxe]
    refine ⟨rfl, rfl, rfl, rfl, rfl, rfl, (congrArg Mxe.act hn :),
      (congrArg (fun m : Mxe => m.loads.filter (fun y => decide (y.ref ≠ x.ref))) hn :),
      fun k hk => (hother k hk).trans (hexp k hk), fun hstage => ?_⟩
    refine State.finish_completed ?_ hstage (by simp [ho]) (by simp [hc]) _ _
    exact hsame
  case pass =>
    intro t s x c m hx hc
    refine ⟨exec_mxePass_waits hx hc, fun hs => ?_⟩
    obtain ⟨hmxe, hother, -, hframe⟩ := s.setMxe_progress_leaves t.val ((s.mxe t.val).beginPass x.ref c) true
    obtain ⟨hact, hshd, hpasses⟩ := m.beginPass_frame x.ref c
    refine ⟨_, exec_mxePass_begins hx hc hs, ?_⟩
    dsimp only
    rw [hmxe]
    refine ⟨fun i hi => ?_, fun i hi => ?_, hact, hshd, hpasses, hother, hframe⟩
    · refine (congrArg Slot.claim (m.slot_takeSlots x.ref.q c hi)).trans ?_
      exact apply_ite Slot.claim ..
    · refine (congrArg Slot.rows (m.slot_takeSlots x.ref.q c hi)).trans ?_
      exact (apply_ite Slot.rows ..).trans (ite_self _)
  case swap =>
    intro t s x m hx
    refine ⟨exec_passSwap_ready hx, exec_passSwap_loading hx, fun hlost => ?_⟩
    have hmxe := State.mxe_of_mxes (State.failRef_see (π := State.mxes)
      (s.setMxe t.val ((s.mxe t.val).dropPass x.ref)) x.ref badArray 0 t.val 0 (by simp)) t.val
    rw [State.mxe_setMxe, if_pos rfl] at hmxe
    refine ⟨_, exec_passSwap_lost hx hlost, ?_⟩
    dsimp only
    rw [hmxe]
    refine ⟨rfl, rfl, rfl, fun ho hc => State.failRef_halts ?_ ho hc ..⟩
    rfl
end

section
/-!
The issue of passes (R118 to R120, R122): a ready cycle and the activity ramp, the end of a pass, and the gating of an idle
array. It settles O22.
-/
namespace Sys2Proof.Machine
set_option Elab.async false

/-! ## A ready cycle (R118, R121, R122) -/

/-- No drain of the tile still needs a row that a pass begun as number `o` writes (R121). -/
def State.NoDrainHolds (s : State) (t o : Nat) : Prop :=
  ∀ d ∈ (s.mxe t).drains, ∀ i < 2, ∀ r, drainHolds s drSmode d o i r = false

/-- How many rows of a pass issue together (R118). -/
def State.issueCount (s : State) (p : Nat) (x : PassOp) (c : Cmd) (b : WBuf) : Nat :=
  min (if s.passNarrow p c b then 2 else 1) (psM c - x.next)

/-- The issue of a pass's next rows (R118, R138). -/
def State.issueOf (s : State) (p : Nat) (x : PassOp) (c : Cmd) (b : WBuf) : Issue :=
  ⟨x.ref, passElems (psTrans c) b, (List.range (s.issueCount p x c b)).map (fun j =>
    (psRow0 c + x.next + j, passWords s p c b (x.next + j)))⟩

/-- The matrix engine as `n` rows of the PASS of a reference issue. -/
def Mxe.issue (m : Mxe) (r : CmdRef) (n : Nat) (i : Issue) : Mxe :=
  { m with
    inArray := m.inArray ++ [i], passes := updPass m.passes r (fun y => { y with next := y.next + n })
    swapIssued := true, gated := false, idleFor := 0 }

theorem State.issueRows_leaves (s : State) (t p : Nat) (x : PassOp) (c : Cmd) :
    (s.issueRows t p x c).mxe t =
        (s.mxe t).issue x.ref (s.issueCount p x c (s.mxe t).act) (s.issueOf p x c (s.mxe t).act) ∧
      ∀ k, k ≠ t → (s.issueRows t p x c).mxe k = s.mxe k := by
  generalize hv : s.setMxe t ((s.mxe t).issue x.ref (s.issueCount p x c (s.mxe t).act) (s.issueOf p x c (s.mxe t).act)) = v
  have hmxe : ∀ k, (s.issueRows t p x c).mxe k = v.mxe k := by
    subst hv
    refine State.mxe_of_mxes (?_ : see State.mxes _ = see State.mxes _)
    unfold State.issueRows
    refine (State.progress_see _ _ _ _ (by simp)).trans ((ite_see _ _ _).trans ?_)
    rw [State.countTile_see _ _ _ _ _ (by simp), ite_self, State.countTile_see _ _ _ _ _ (by simp)]
    rfl
  subst hv
  exact ⟨(hmxe t).trans (by simp), fun k hk => (hmxe k).trans (by simp [hk])⟩

/-- The ramp of the tile's array has made one step (R122). -/
def State.stepRamp (s : State) (t : Nat) : State :=
  s.setMxe t { s.mxe t with ramp := (rampStep (s.mxe t).rampNow).2, ramped := true }

theorem foldl_join_go {f : Nat → Gate} {n : Nat} (hn : n ≤ 2) (h : ∀ j < 2, f j = .go) :
    (List.range n).foldl (fun g j => g.join (f j)) Gate.go = .go := by
  have h0 := h 0 (by decide)
  have h1 := h 1 (by decide)
  obtain rfl | rfl | rfl : n = 0 ∨ n = 1 ∨ n = 2 := by omega
  · rfl
  · simp [List.range_succ, h0, Gate.join]
  · simp [List.range_succ, h0, h1, Gate.join]

section
variable {t : Fin 48} {s : State} {x : PassOp} {c : Cmd} {p : Nat} (hi : s.issuing t.val = some (x, c))
  (hp : ((s.queOwner x.ref.q).map (·.1)).getD 0 = p) (hd : s.NoDrainHolds t.val x.order)
  (hg : ∀ j < 2, s.passGate t.val p x.ref c (passElems (psTrans c) (s.mxe t.val).act) (x.next + j) = .go)
  (hl : s.ldgHolds ⟨.ldgTile, t.val⟩ 1 = false)
include hi hp hd hg hl

theorem exec_mxeIssue_ready : exec (.mxeIssue t) s = .next (
    if (s.mxe t.val).rampNow.on then
      if (rampStep (s.mxe t.val).rampNow).1 then (s.stepRamp t.val).issueRows t.val p x c
      else (s.stepRamp t.val).countTile t.val 0x0103 1 nobody
    else s.issueRows t.val p x c) := by
  have hslot := psSlot_lt_two c
  have hother : 1 - psSlot c < 2 := by omega
  have hgo := fun n (hn : n ≤ 2) => foldl_join_go (n := n) hn hg
  have hfree : ∀ d ∈ (s.mxe t.val).drains, ∀ r, drainHolds s drSmode d x.order (psSlot c) r = false ∧
      drainHolds s drSmode d x.order (1 - psSlot c) r = false := fun d hd' r => ⟨hd d hd' _ hslot r, hd d hd' _ hother r⟩
  simp only [exec, execMxeIssue, hi, hp]
  rw [hgo _ (by split <;> omega), if_neg]
  · rfl
  · simp only [hl, List.any_eq_true, Bool.or_eq_true, Bool.and_eq_true, reduceCtorEq, Bool.false_eq_true, or_false,
      not_exists, not_and]
    intro d hd'
    simp [hfree d hd']

/-- Where the ramp lets a ready cycle issue, it issues in a state that differs at most in the ramp. -/
theorem exec_mxeIssue_issues (hr : (s.mxe t.val).rampNow.on = false ∨ (rampStep (s.mxe t.val).rampNow).1 = true) :
    ∃ (v : State) (ramp : Ramp) (ramped : Bool), exec (.mxeIssue t) s = .next (v.issueRows t.val p x c) ∧
      v.mxe t.val = { s.mxe t.val with ramp := ramp, ramped := ramped } ∧ (∀ k, k ≠ t.val → v.mxe k = s.mxe k) ∧
      ∀ b, v.issueCount p x c b = s.issueCount p x c b ∧ v.issueOf p x c b = s.issueOf p x c b := by
  rw [exec_mxeIssue_ready hi hp hd hg hl]
  by_cases hon : (s.mxe t.val).rampNow.on = true
  · rw [if_pos hon, if_pos (hr.resolve_left (by simp [hon]))]
    exact ⟨_, _, _, rfl, (s.mxe_setMxe ..).trans (if_pos rfl), fun k hk => (s.mxe_setMxe ..).trans (if_neg hk),
      fun _ => ⟨rfl, rfl⟩⟩
  · rw [if_neg hon]
    exact ⟨s, _, _, rfl, rfl, fun _ _ => rfl, fun _ => ⟨rfl, rfl⟩⟩

theorem exec_mxeIssue_held (hon : (s.mxe t.val).rampNow.on = true) (hgo : (rampStep (s.mxe t.val).rampNow).1 = false) :
    exec (.mxeIssue t) s = .next ((s.stepRamp t.val).countTile t.val 0x0103 1 nobody) := by
  rw [exec_mxeIssue_ready hi hp hd hg hl, if_pos hon, if_neg (by simp [hgo])]

end

/-! ## The end of a pass (R119) -/

/-- The last row of a pass has reached its slot; so it counts where its command is gone. -/
def State.landedAll (s : State) (x : PassOp) : Bool :=
  match s.cmdAt x.ref with
  | some c => decide (psM c ≤ x.landed)
  | none => true

theorem exec_passComplete_landed {t : Fin 48} {s : State} {x : PassOp}
    (hx : (s.mxe t.val).passes.find? s.landedAll = some x) : ∃ busy, exec (.passComplete t) s =
      .next ((s.setMxe t.val ((s.mxe t.val).dropPass x.ref)).finish t.val x.ref busy) := by
  simp only [exec, execPassComplete]
  split
  case h_1 hnone => exact absurd (hx.symm.trans hnone) (Option.some_ne_none _)
  case h_2 y hy =>
    obtain rfl : x = y := Option.some.inj (hx.symm.trans hy)
    exact ⟨_, rfl⟩

end Sys2Proof.Machine

open Sys2Proof Sys2Proof.Machine

/-- Settles O22: a ready cycle puts one issue into the array or only steps the ramp, 24 steps of whose 48 issue; the end of a
pass takes it off its engine's list. -/
theorem passesIssueThroughTheRamp : Obligations.PassesIssueThroughTheRamp := by
  refine ⟨?issue, by decide +kernel, ?complete, fun t s => ⟨fun h => ?_, fun h => ?_⟩⟩
  case issue =>
    intro t s x c m p n hi hd hg hl
    refine ⟨fun hr => ?_, fun hon hgo => ⟨_, exec_mxeIssue_held hi rfl hd hg hl hon hgo, ?_⟩⟩
    · obtain ⟨v, ramp, ramped, hexec, hv, hvo, hsame⟩ := exec_mxeIssue_issues hi rfl hd hg hl hr
      obtain ⟨hmxe, hother⟩ := v.issueRows_leaves t.val p x c
      obtain ⟨hcount, hissue⟩ := hsame (v.mxe t.val).act
      rw [hcount, hissue, hv] at hmxe
      refine ⟨_, hexec, ?_⟩
      dsimp only
      rw [hmxe]
      exact ⟨rfl, rfl, rfl, rfl, rfl, rfl, rfl, fun k hk => (hother k hk).trans (hvo k hk)⟩
    · have hmxe := State.mxe_of_mxes (State.countTile_see (π := State.mxes) (s.stepRamp t.val) t.val 0x0103 1 nobody
        (by simp)) t.val
      dsimp only
      rw [hmxe, State.stepRamp, State.mxe_setMxe, if_pos rfl]
      exact ⟨rfl, rfl, rfl⟩
  case complete =>
    intro t s x c m hx hc ho
    obtain ⟨busy, hexec⟩ := exec_passComplete_landed hx
    obtain ⟨hmxe, -, -⟩ := s.setMxe_finish_leaves t.val ((s.mxe t.val).dropPass x.ref) x.ref busy
    refine ⟨_, hexec, ?_⟩
    dsimp only
    rw [hmxe]
    refine ⟨rfl, rfl, rfl, fun hstage => State.finish_completed ?_ hstage ho (by simp [hc]) _ _⟩
    rfl
  · exact congrArg Host.Outcome.next (if_pos h)
  · exact congrArg Host.Outcome.next (if_neg (not_le.2 h))
end

section
/-!
Drains (R121, R126, R150, R156, R158, R161, R168): the beginning of a drain, the reading of a row, the retry, and the atomics
of the scale record at its end. It settles O25.
-/
namespace Sys2Proof.Machine
set_option Elab.async false

/-! ## The drain that runs -/

theorem State.found_of_drainOf {s : State} {t p : Nat} {d : DrainOp} {c : Cmd} (h : s.drainOf t = some (d, c, p)) :
    s.cmdAt d.ref = some c ∧ (s.queOwner d.ref.q).isSome = true := by
  unfold State.drainOf at h
  split at h
  case h_1 => contradiction
  case h_2 e _ =>
    obtain ⟨c', hc, h⟩ := Option.bind_eq_some_iff.1 h
    obtain ⟨o, ho, h⟩ := Option.map_eq_some_iff.1 h
    obtain ⟨hd, hcp⟩ := Prod.mk.inj h
    obtain ⟨hc', -⟩ := Prod.mk.inj hcp
    subst hd hc'
    exact ⟨hc, by simp [ho]⟩

/-- The matrix engine with a drain's progress noted. -/
def Mxe.setDrain (m : Mxe) (d : DrainOp) : Mxe :=
  { m with drains := m.drains.map (fun x => if x.ref = d.ref then d else x) }

/-- The matrix engine without the DRAIN of a reference. -/
def Mxe.dropDrain (m : Mxe) (r : CmdRef) : Mxe := { m with drains := m.drains.filter (fun x => decide (x.ref ≠ r)) }

theorem State.setDrain_eq (s : State) (t : Nat) (d : DrainOp) : s.setDrain t d = s.setMxe t ((s.mxe t).setDrain d) := rfl

/-! ## The beginning of a drain (R126, R150) -/

section
variable {t : Fin 48} {s : State} {d : DrainOp} {ds : List DrainOp} (hd : (s.mxe t.val).drains = d :: ds)
include hd

theorem exec_mxeDrain_waits {c : Cmd} (hc : s.cmdAt d.ref = some c)
    (hs : (s.mxe t.val).saveTakes (drSlot c) d.comp = true) : exec (.mxeDrain t) s = .next s := by
  simp only [exec, execMxeDrain, hd, hc, hs, if_true]

theorem exec_mxeDrain_starts
    (hs : ∀ c, s.cmdAt d.ref = some c → (s.mxe t.val).saveTakes (drSlot c) d.comp = false) : exec (.mxeDrain t) s =
      .next ((s.setMxe t.val ((s.mxe t.val).setDrain { d with started := true })).progress .mxe t.val true) := by
  simp only [exec, execMxeDrain, hd]
  cases hc : s.cmdAt d.ref with
  | none => rfl
  | some c =>
    simp only [hs c hc]
    rfl

end

/-! ## A drain that faults (R163, R418) -/

theorem State.mxe_failDrain (s : State) (t : Nat) (d : DrainOp) (c : Cmd) (b : Bad) :
    (s.failDrain t d c b).mxe t = (s.mxe t).dropDrain d.ref := by
  generalize hv : s.setMxe t ((s.mxe t).dropDrain d.ref) = v
  have hmxe : ((v.loseDrain t d c).failTile d.ref b t).mxe t = v.mxe t := State.mxe_of_mxes
    ((State.failTile_see (π := State.mxes) _ _ _ _ (by simp)).trans
      (State.loseDrain_see (π := State.mxes) _ _ _ _ (by simp))) t
  subst hv
  exact hmxe.trans (by simp)

theorem State.failDrain_halts {s u : State} {d : DrainOp} {c e : Cmd} (hsame : u.commands = s.commands)
    (ho : (s.queOwner d.ref.q).isSome = true) (hc : s.cmdAt d.ref = some e) (t : Nat) (b : Bad) :
    ((u.failDrain t d c b).que d.ref.q).halted = true := by
  refine State.failRef_halts (s := s) ?_ ho (by simp [hc]) b 0 t 0
  exact (State.loseDrain_see (π := State.commands) _ _ _ _ (by simp)).trans hsame

/-! ## The reading of a row (R121, R156, R164) -/

/-- The state and the drain in which row `i` is read: in SMODE 1 the first row comes after the channel scales (R164). -/
def State.rowStart (s : State) (t p : Nat) (d : DrainOp) (c : Cmd) (i : Nat) : State × DrainOp :=
  if drSmode c = 1 ∧ i = 0 then s.writeChannels t p d c else (s, d)

/-- Row `i` of a drain as converted, and the state with its draws consumed. -/
def State.drainConv (s : State) (t : Nat) (d : DrainOp) (c : Cmd) (i : Nat) : List Conv × State :=
  s.convRow t (drOfmt c) (drZp c) (drOrnd c) (!(drStrict c)) (s.drainScaled t d c i).1

/-- The codes of row `i` of a drain stored. -/
def State.storeRow (s : State) (p : Nat) (c : Cmd) (i : Nat) (cv : List Conv) : State :=
  s.heldCodes p c.held (drDaddr c + i * drPitch c) (fmtBits (drOfmt c)) (cv.map (·.code))

/-- The block scales of row `i` stored, where SMODE has them (R165). -/
def State.storeScales (s : State) (p : Nat) (c : Cmd) (i : Nat) (es : List Nat) : State :=
  if drSmode c = 2 then s.heldWrite p c.held (drAux c + i * drAuxPitch c) (es.map (BitVec.ofNat 8)) else s

theorem State.storeScales_see {α : Type} {π : State → α} (hW : Ign π .mem ∧ Ign π .poison ∧ Ign π .blocks ∧ Ign π .tiles ∧
    Ign π .tals ∧ Ign π .funcs ∧ Ign π .out ∧ Ign π .free) (s : State) (p : Nat) (c : Cmd) (i : Nat) (es : List Nat) :
    see π (s.storeScales p c i es) = see π s := by
  unfold State.storeScales
  split
  · exact State.heldWrite_see _ _ _ _ _ hW
  · rfl

theorem State.ref_rowStart (s : State) (t p : Nat) (d : DrainOp) (c : Cmd) (i : Nat) :
    (s.rowStart t p d c i).2.ref = d.ref := by
  unfold State.rowStart
  split <;> rfl

theorem State.rowStart_see {α : Type} {π : State → α} (hW : Ign π .mem ∧ Ign π .poison ∧ Ign π .blocks ∧ Ign π .tiles ∧
    Ign π .tals ∧ Ign π .funcs ∧ Ign π .out ∧ Ign π .free) (s : State) (t p : Nat) (d : DrainOp) (c : Cmd) (i : Nat) :
    see π (s.rowStart t p d c i).1 = see π s := by
  unfold State.rowStart
  split
  · exact State.writeChannels_see _ _ _ _ _ hW
  · rfl

section
variable {s : State} {t p : Nat} {d : DrainOp} {c : Cmd} {i : Nat} {w : State × DrainOp} {cv : List Conv × State}
  (hw : s.rowStart t p d c i = w) (hcv : w.1.drainConv t w.2 c i = cv)
include hw hcv

theorem State.drainReadRow_stores (hok : cv.1.any (·.nanFault) = false) : ∃ st fin es, s.drainReadRow t p d c i =
    (((cv.2.storeRow p c i cv.1).storeScales p c i es).setDrain t
      { w.2 with next := i + 1, stat := st, final := fin }).progress .mxe t true := by
  obtain ⟨v, e⟩ := w
  unfold State.rowStart at hw
  unfold State.drainConv at hcv
  simp only [State.drainReadRow, hw, hcv, hok, Bool.false_eq_true, if_false]
  exact ⟨_, _, _, rfl⟩

theorem State.drainReadRow_faults (hbad : cv.1.any (·.nanFault) = true) : ∃ e : DrainOp, e.ref = d.ref ∧
    s.drainReadRow t p d c i = cv.2.failDrain t e c ⟨0x0B, 0, drOfmt c, 2, 0, 0x7F⟩ := by
  have href : w.2.ref = d.ref := hw ▸ s.ref_rowStart t p d c i
  obtain ⟨v, e⟩ := w
  unfold State.rowStart at hw
  unfold State.drainConv at hcv
  simp only [State.drainReadRow, hw, hcv, hbad, if_true]
  refine ⟨_, ?_, rfl⟩
  exact href

/-- Until a row is stored only channel scales are written, and draws are made. -/
theorem State.drainConv_see_of {α : Type} {π : State → α} (hW : Ign π .mem ∧ Ign π .poison ∧ Ign π .blocks ∧ Ign π .tiles ∧
    Ign π .tals ∧ Ign π .funcs ∧ Ign π .out ∧ Ign π .free) : see π cv.2 = see π s := by
  subst hw hcv
  exact (State.convRow_see _ _ _ _ _ _ _ (by simp [hW])).trans (State.rowStart_see hW ..)

/-- A row that converts: its drain goes on to the next row, and its codes and block scales are all that is stored. -/
theorem State.drainReadRow_goes_on (hok : cv.1.any (·.nanFault) = false) :
    ∃ st fin, (s.drainReadRow t p d c i).mxe t =
        (s.mxe t).setDrain { w.2 with next := i + 1, stat := st, final := fin } ∧
      (drSmode c ≠ 2 → (s.drainReadRow t p d c i).mem = (cv.2.storeRow p c i cv.1).mem) := by
  obtain ⟨st, fin, es, hread⟩ := State.drainReadRow_stores hw hcv hok
  have hmxes : ((cv.2.storeRow p c i cv.1).storeScales p c i es).mxes = s.mxes :=
    (State.storeScales_see (π := State.mxes) (by simp) ..).trans ((State.heldCodes_see (π := State.mxes) _ _ _ _ _ _
      (by simp)).trans (State.drainConv_see_of hw hcv (π := State.mxes) (by simp)))
  obtain ⟨hmxe, -, hmem, -⟩ := ((cv.2.storeRow p c i cv.1).storeScales p c i es).setMxe_progress_leaves t
    ((((cv.2.storeRow p c i cv.1).storeScales p c i es).mxe t).setDrain
      { w.2 with next := i + 1, stat := st, final := fin }) true
  rw [hread]
  refine ⟨st, fin, hmxe.trans (by rw [State.mxe_of_mxes hmxes]), fun hmode => hmem.trans ?_⟩
  rw [State.storeScales, if_neg hmode]

/-- A row that meets a NaN its format cannot hold: its drain leaves the engine and its queue halts. -/
theorem State.drainReadRow_stops (hbad : cv.1.any (·.nanFault) = true) (ho : (s.queOwner d.ref.q).isSome = true) {k : Cmd}
    (hc : s.cmdAt d.ref = some k) : (s.drainReadRow t p d c i).mxe t = (s.mxe t).dropDrain d.ref ∧
      ((s.drainReadRow t p d c i).que d.ref.q).halted = true := by
  obtain ⟨e, href, hread⟩ := State.drainReadRow_faults hw hcv hbad
  have hmxes : cv.2.mxes = s.mxes := State.drainConv_see_of hw hcv (π := State.mxes) (by simp)
  have hsame : cv.2.commands = s.commands := State.drainConv_see_of hw hcv (π := State.commands) (by simp)
  rw [← href] at ho hc ⊢
  rw [hread]
  exact ⟨(State.mxe_failDrain ..).trans (by rw [State.mxe_of_mxes hmxes]), State.failDrain_halts hsame ho hc ..⟩

end

theorem exec_drainRowRead_reads {t : Fin 48} {s : State} {d : DrainOp} {c : Cmd} {p : Nat}
    (hd : s.drainOf t.val = some (d, c, p)) (hlt : d.next < drM c) (hland : ∀ r, s.rowLanded t.val d c r = true)
    (hl : s.ldgHolds ⟨.ldgTile, t.val⟩ 1 = false) (hg : s.drainGate t.val p c d.next = .go) :
    exec (.drainRowRead t) s = .next (s.drainReadRow t.val p d c d.next) := by
  simp [exec, execDrainRowRead, hd, hland, hl, hg, hlt]

/-! ## The retry (R161, R162) -/

section
variable {t : Fin 48} {s : State} {d : DrainOp} {c : Cmd} {p : Nat} (hd : s.drainOf t.val = some (d, c, p))
include hd

theorem exec_drainRetry_once (h2 : d.second = true) : exec (.drainRetry t) s = .next s := by
  simp only [exec, execDrainRetry, hd, h2, or_true, if_true]

/-- The second reading of a drain as it begins. -/
def DrainOp.again (d : DrainOp) (r : W32) (small : Bool) : DrainOp :=
  { d with
    next := 0, second := true, recip := r, scaleUsed := recipUp r
    stat := { DrainStat.reset with flags := if small then 1 else 2 } }

theorem exec_drainRetry_makes {r : W32} {small : Bool} (hn : drM c ≤ d.next) (h2 : d.second = false)
    (hr : retryOf c d.recip d.stat.amax = .make r small) : ∃ w, exec (.drainRetry t) s =
      .next (((s.setDrain t.val (d.again r small)).countTile t.val 0x0108 1 w).progress .mxe t.val true) := by
  simp only [exec, execDrainRetry, hd, h2, not_lt.2 hn, hr, Bool.false_eq_true, or_self, if_false]
  exact ⟨_, rfl⟩

end

/-! ## The atomics of the scale record (R158) -/

theorem State.heldAddr_of_img {s u : State} (h : u.img = s.img) (p : Nat) (held : List PageMap) (va : Nat) :
    u.heldAddr p held va = s.heldAddr p held va := by
  simp only [State.heldAddr, State.placeAddr, State.cfgOf, State.mask, h]

/-- Bytes that lie together on the device, read through held pages. -/
theorem State.heldLe_device {s : State} {p : Nat} {held : List PageMap} {va a n : Nat}
    (h : ∀ i < n, s.heldAddr p held (va + i) = some (a + i)) (ha : a + n ≤ hostBase) :
    s.heldLe p held va n = s.readLe a n := by
  refine congrArg leNat (List.map_congr_left fun i hi => ?_)
  have hin := List.mem_range.1 hi
  have hdev : ¬ hostBase ≤ a + i := by omega
  simp only [State.heldByte, h i hin, hdev, if_false]

/-- A word whose bytes lie together on the device is stored there. -/
theorem State.heldWrite_leBytes {s : State} {p : Nat} {held : List PageMap} {va a n : Nat} (v : Nat) (hn : 0 < n)
    (h : ∀ i < n, s.heldAddr p held (va + i) = some (a + i)) (ha : a + n ≤ hostBase) :
    s.heldWrite p held va (leBytes n v) = s.writeLe a n v := by
  have hdev : ¬ hostBase ≤ a := by omega
  have hfirst : s.heldAddr p held va = some a := h 0 hn
  have hlast : s.heldAddr p held (va + n - 1) = some (a + n - 1) := by
    rw [Nat.add_sub_assoc hn, Nat.add_sub_assoc hn]
    exact h (n - 1) (by omega)
  simp only [State.heldWrite, leBytes_length, hfirst, hlast, if_true, State.putBytes, hdev, if_false]
  rfl

theorem State.readLe_writeLe_ne (s : State) {a n b k : Nat} (v : Nat) (h : b + k ≤ a ∨ a + n ≤ b) :
    (s.writeLe a n v).readLe b k = s.readLe b k := by
  refine congrArg leNat (List.map_congr_left fun i hi => s.readByte_writeLe_ne v ?_)
  have hin := List.mem_range.1 hi
  omega

/-- The record's two atomics: the maximum into its amax word, the OR into its event word. -/
def State.drainAtomics (s : State) (p : Nat) (c : Cmd) (st : DrainStat) : State :=
  (s.heldWrite p c.held (drSrec c + 12) (leBytes 4 (max (s.heldLe p c.held (drSrec c + 12) 4) st.amax.toNat))).heldWrite
    p c.held (drSrec c + 16) (leBytes 4 (s.heldLe p c.held (drSrec c + 16) 4 ||| st.flags.toNat))

theorem State.drainAtomics_see {α : Type} {π : State → α} (hW : Ign π .mem ∧ Ign π .poison ∧ Ign π .blocks ∧ Ign π .tiles ∧
    Ign π .tals ∧ Ign π .funcs ∧ Ign π .out ∧ Ign π .free) (s : State) (p : Nat) (c : Cmd) (st : DrainStat) :
    see π (s.drainAtomics p c st) = see π s :=
  (State.heldWrite_see _ _ _ _ _ hW).trans (State.heldWrite_see _ _ _ _ _ hW)

section
variable {s : State} {p a : Nat} {c : Cmd} (h : ∀ i < 8, s.heldAddr p c.held (drSrec c + 12 + i) = some (a + i))
  (ha : a + 8 ≤ hostBase)
include h ha

theorem State.drainAtomics_device (st : DrainStat) : s.drainAtomics p c st =
    (s.writeLe a 4 (max (s.readLe a 4) st.amax.toNat)).writeLe (a + 4) 4 (s.readLe (a + 4) 4 ||| st.flags.toNat) := by
  have hlo : ∀ i < 4, s.heldAddr p c.held (drSrec c + 12 + i) = some (a + i) := fun i hi => h i (by omega)
  have hhi : ∀ i < 4, s.heldAddr p c.held (drSrec c + 16 + i) = some (a + 4 + i) := fun i hi => by
    have h' := h (4 + i) (by omega)
    rwa [← Nat.add_assoc, ← Nat.add_assoc] at h'
  rw [State.drainAtomics, State.heldLe_device hlo (by omega), State.heldLe_device hhi (by omega),
    State.heldWrite_leBytes _ (by decide) hlo (by omega)]
  generalize hu : s.writeLe a 4 (max (s.readLe a 4) st.amax.toNat) = u
  have himg : u.img = s.img := hu ▸ (s.writeLe_ques_img ..).2
  exact State.heldWrite_leBytes _ (by decide) (fun i hi => (State.heldAddr_of_img himg ..).trans (hhi i hi)) (by omega)

theorem State.drainAtomics_stores (st : DrainStat) :
    let u := s.drainAtomics p c st
    u.readLe a 4 = max (s.readLe a 4) st.amax.toNat ∧ u.readLe (a + 4) 4 = s.readLe (a + 4) 4 ||| st.flags.toNat ∧
      ∀ b, ¬ (a ≤ b ∧ b < a + 8) → u.readByte b = s.readByte b := by
  have hold := s.readLe_lt a 4
  have hev := s.readLe_lt (a + 4) 4
  have hamax : st.amax.toNat < 256 ^ 4 := st.amax.isLt
  have hflags : st.flags.toNat < 256 ^ 4 := st.flags.isLt.trans (by decide)
  have hor : s.readLe (a + 4) 4 ||| st.flags.toNat < 256 ^ 4 := Nat.or_lt_two_pow (n := 32) hev hflags
  dsimp only
  rw [State.drainAtomics_device h ha st]
  refine ⟨?_, ?_, fun b hb => ?_⟩
  · rw [State.readLe_writeLe_ne _ _ (.inl le_rfl), State.readLe_writeLe, Nat.mod_eq_of_lt (max_lt hold hamax)]
  · rw [State.readLe_writeLe, Nat.mod_eq_of_lt hor]
  · rw [State.readByte_writeLe_ne _ _ (by omega), State.readByte_writeLe_ne _ _ (by omega)]

end

/-! ## The end of a drain (R158, R168, R412) -/

/-- The statistics of a drain with the events that its end adds (R168). -/
def DrainOp.endStat (d : DrainOp) (c : Cmd) : DrainStat :=
  { d.stat with flags := d.stat.flags
      ||| (if ¬ d.second ∧ retryOf c d.recip d.stat.amax = .skip then 4 else 0) ||| (if d.stat.clamps ≠ 0 then 8 else 0)
      ||| (if d.stat.nonfin ≠ 0 then 32 else 0) }

/-- What a drain's end tells the watch, the tallies and the ledger. -/
def State.tellDrain (s : State) (t : Nat) (d : DrainOp) (c : Cmd) (w : Who) : State :=
  (((s.watchDrain t c (d.endStat c)).countTile t 0x0107 1 w).countTile t 0x0109 (d.endStat c).clamps w).ledgerTile t w 0x08
    0x10 ((d.endStat c).amax.toNat + (d.endStat c).flags.toNat * 2 ^ 32) (if drSmode c = 0 then d.scaleUsed.toNat else 0)

theorem State.tellDrain_see {α : Type} {π : State → α} (hW : Ign π .blocks ∧ Ign π .tals ∧ Ign π .ldgs ∧ Ign π .wchs ∧
    Ign π .fog ∧ Ign π .timers ∧ Ign π .out) (s : State) (t : Nat) (d : DrainOp) (c : Cmd) (w : Who) :
    see π (s.tellDrain t d c w) = see π s := by
  simp [State.tellDrain, hW]

theorem exec_drainComplete_ends {t : Fin 48} {s : State} {d : DrainOp} {c : Cmd} {p : Nat}
    (hd : s.drainOf t.val = some (d, c, p)) (hn : drM c ≤ d.next)
    (hlast : d.second = true ∨ ∀ r k, retryOf c d.recip d.stat.amax ≠ .make r k) (hrpt : drRptEn c = false)
    (hg : s.gates t.val p c.held [(true, drSrec c, 64)] = .go) (hl : s.ldgHolds ⟨.ldgTile, t.val⟩ 1 = false) :
    ∃ w busy, exec (.drainComplete t) s = .next (
      let v := (s.drainAtomics p c (d.endStat c)).tellDrain t.val d c w
      (v.setMxe t.val ((v.mxe t.val).dropDrain d.ref)).finish t.val d.ref busy) := by
  simp only [exec, execDrainComplete, hd, not_lt.2 hn, hl, hrpt, Bool.false_eq_true, if_false, List.append_nil, hg]
  rw [if_neg]
  · exact ⟨_, _, rfl⟩
  · rintro (h | h | h)
    · exact h
    · obtain hsecond | hnever := hlast
      · simp [hsecond] at h
      · cases hr : retryOf c d.recip d.stat.amax with
        | make r k => exact hnever r k hr
        | no => simp [hr] at h
        | skip => simp [hr] at h
    · exact h

end Sys2Proof.Machine

open Sys2Proof Sys2Proof.Machine

/-- Settles O25: each of the four commands notes the drain's progress in its engine, or drops it there; what it stores is a
row, or the two words of the scale record. -/
theorem drainsConvertRowByRow : Obligations.DrainsConvertRowByRow := by
  refine ⟨?start, ?read, ?retry, ?complete⟩
  case start =>
    intro t s d ds hd
    refine ⟨fun c hc hs => exec_mxeDrain_waits hd hc hs, fun hs => ⟨_, exec_mxeDrain_starts hd hs, ?_⟩⟩
    obtain ⟨hmxe, -, -, hframe⟩ := s.setMxe_progress_leaves t.val ((s.mxe t.val).setDrain { d with started := true }) true
    exact ⟨hmxe, hframe⟩
  case read =>
    intro t s d c p m w cv hd hlt hland hl hg
    have hw : s.rowStart t.val p d c d.next = w := rfl
    have hcv : w.1.drainConv t.val w.2 c d.next = cv := rfl
    clear_value w cv
    obtain ⟨hc, ho⟩ := State.found_of_drainOf hd
    refine ⟨fun hok => ⟨_, exec_drainRowRead_reads hd hlt hland hl hg, ?_⟩,
      fun hbad => ⟨_, exec_drainRowRead_reads hd hlt hland hl hg, ?_⟩⟩
    · obtain ⟨st, fin, hmxe, hmem⟩ := State.drainReadRow_goes_on hw hcv hok
      dsimp only
      rw [hmxe]
      have href : w.2.ref = d.ref := hw ▸ s.ref_rowStart t.val p d c d.next
      exact ⟨⟨st, fin, by rw [← href]; rfl⟩, rfl, rfl, hmem⟩
    · obtain ⟨hmxe, hhalt⟩ := State.drainReadRow_stops hw hcv hbad ho hc
      rw [hmxe]
      exact ⟨rfl, hhalt, rfl, rfl⟩
  case retry =>
    intro t s d c p hd hn
    refine ⟨exec_drainRetry_once hd, fun r small h2 hr => ?_⟩
    obtain ⟨w, hexec⟩ := exec_drainRetry_makes hd hn h2 hr
    have hsee : ∀ {α : Type} {π : State → α}, Ign π .blocks ∧ Ign π .tals ∧ Ign π .timers →
        see π (((s.setDrain t.val (d.again r small)).countTile t.val 0x0108 1 w).progress .mxe t.val true) =
          see π (s.setDrain t.val (d.again r small)) := fun hW =>
      (State.progress_see _ _ _ _ (by simp [hW])).trans (State.countTile_see _ _ _ _ _ (by simp [hW]))
    have hmxe := State.mxe_of_mxes (hsee (π := State.mxes) (by simp)) t.val
    rw [State.setDrain_eq, State.mxe_setMxe, if_pos rfl] at hmxe
    exact ⟨_, hexec, hmxe, (hsee (π := State.mem) (by simp))⟩
  case complete =>
    intro t s d c p a again flags hd hn hlast hrpt hg hl hat ha
    obtain ⟨hc, ho⟩ := State.found_of_drainOf hd
    obtain ⟨w, busy, hexec⟩ := exec_drainComplete_ends hd hn hlast hrpt hg hl
    obtain ⟨hamax, hev, hother⟩ := State.drainAtomics_stores hat ha (d.endStat c)
    have hsee : ∀ {α : Type} {π : State → α}, Ign π .mem ∧ Ign π .poison ∧ Ign π .blocks ∧ Ign π .tiles ∧ Ign π .tals ∧
        Ign π .ldgs ∧ Ign π .wchs ∧ Ign π .fog ∧ Ign π .funcs ∧ Ign π .timers ∧ Ign π .out ∧ Ign π .free →
        see π ((s.drainAtomics p c (d.endStat c)).tellDrain t.val d c w) = see π s := fun hW =>
      (State.tellDrain_see (by simp [hW]) ..).trans (State.drainAtomics_see (by simp [hW]) ..)
    have htold : ((s.drainAtomics p c (d.endStat c)).tellDrain t.val d c w).mem = (s.drainAtomics p c (d.endStat c)).mem :=
      State.tellDrain_see (π := State.mem) (by simp) ..
    have hsame := hsee (π := State.commands) (by simp)
    have hv := State.mxe_of_mxes (hsee (π := State.mxes) (by simp)) t.val
    generalize (s.drainAtomics p c (d.endStat c)).tellDrain t.val d c w = v at hexec hsame hv htold
    obtain ⟨hmxe, -, hmem⟩ := v.setMxe_finish_leaves t.val ((v.mxe t.val).dropDrain d.ref) d.ref busy
    replace hmem := hmem.trans htold
    replace hmxe := hmxe.trans (congrArg (Mxe.dropDrain · d.ref) hv)
    refine ⟨_, hexec, (State.readLe_of_mem hmem ..).trans hamax, (State.readLe_of_mem hmem ..).trans hev,
      fun b hb => (State.readByte_of_mem hmem b).trans (hother b hb), (congrArg Mxe.drains hmxe :),
      (congrArg Mxe.slot0 hmxe :), (congrArg Mxe.slot1 hmxe :), fun hstage => ?_⟩
    refine State.finish_completed ?_ hstage ho (by simp [hc]) _ _
    exact hsame
end

section
/-!
What holds a write of an engine back (R221): the streams' rings, the image and the matrix engine's fold area, none of which
a store into memory changes.
-/
namespace Sys2Proof.Machine
set_option Elab.async false

/-! ## A store leaves the committed registers -/

theorem State.commOf_putBytes (b : BlkId) (s : State) (p a : Nat) (bs : List Byte) :
    see (State.commOf b) (s.putBytes p a bs) = see (State.commOf b) s := by
  unfold State.putBytes State.hostWrite State.countIo
  split_ifs
  · exact (State.commOf_count ..).trans ((State.emit_see _ _ (by simp)).trans (State.carry_see _ _ _ (by simp)))
  · exact State.commOf_flag ..
  · exact State.writeBytes_see _ _ _ (by simp)

theorem State.commOf_heldPut (b : BlkId) (s : State) (p : Nat) (held : List PageMap) (va : Nat) (x : Byte) :
    see (State.commOf b) (s.heldPut p held va x) = see (State.commOf b) s := by
  unfold State.heldPut
  split
  · exact State.commOf_putBytes ..
  · rfl

theorem State.commOf_heldWrite (b : BlkId) (s : State) (p : Nat) (held : List PageMap) (va : Nat) (bs : List Byte) :
    see (State.commOf b) (s.heldWrite p held va bs) = see (State.commOf b) s := by
  unfold State.heldWrite
  split
  · split
    · exact State.commOf_putBytes ..
    · exact foldl_see _ (fun _ _ => State.commOf_heldPut ..) _ _
  · rfl

theorem State.commOf_heldWrites (b : BlkId) (s : State) (p : Nat) (c : Cmd) (ws : List (Nat × List Byte)) :
    see (State.commOf b) (s.heldWrites p c ws) = see (State.commOf b) s :=
  foldl_see _ (fun _ _ => State.commOf_heldWrite ..) _ _

/-! ## What the gate of a write rests on -/

/-- What says whether an engine's write waits or faults: the image, the streams, and the matrix engines' registers. -/
def State.interlocks (s : State) : Img × List (Nat × Ste) × (Nat → SMap W32) :=
  (s.img, s.stes, fun k => s.commOf ⟨.mxe, k⟩)

@[simp] theorem ign_interlocks (f : Fld) (hi : f ≠ .img) (hs : f ≠ .stes) (hb : f ≠ .blocks) :
    Ign State.interlocks f := by
  cases f
  case img => exact absurd rfl hi
  case stes => exact absurd rfl hs
  case blocks => exact absurd rfl hb
  all_goals exact fun _ _ => rfl

theorem State.interlocks_iff {s u : State} : u.interlocks = s.interlocks ↔
    u.img = s.img ∧ u.stes = s.stes ∧ ∀ k, u.commOf ⟨.mxe, k⟩ = s.commOf ⟨.mxe, k⟩ := by
  simp [State.interlocks, funext_iff]

theorem State.interlocks_heldWrites (s : State) (p : Nat) (c : Cmd) (ws : List (Nat × List Byte)) :
    (s.heldWrites p c ws).interlocks = s.interlocks :=
  State.interlocks_iff.2 ⟨State.heldWrites_see (π := State.img) _ _ _ _ (by simp),
    State.heldWrites_see (π := State.stes) _ _ _ _ (by simp), fun _ => State.commOf_heldWrites ..⟩

section
variable {s u : State} (h : u.interlocks = s.interlocks)
include h

theorem State.foldArea_of_interlocks (t : Nat) : u.foldArea t = s.foldArea t := by
  obtain ⟨-, -, hcomm⟩ := State.interlocks_iff.1 h
  simp only [State.foldArea, State.cfg_of_commOf (hcomm t)]

theorem State.ringGranules_of_interlocks (t : Nat) (x : Stream) (g : Nat) :
    u.ringGranules t x g = s.ringGranules t x g := by
  obtain ⟨himg, -, -⟩ := State.interlocks_iff.1 h
  have hplace : ∀ p place y, u.placeAddr p place y = s.placeAddr p place y := fun p place y => by
    simp only [State.placeAddr, State.cfgOf, State.mask, himg]
  have howner : u.steOwner t = s.steOwner t := by
    simp only [State.steOwner, State.partOfTile, State.partsOf, State.mask, himg]
  simp only [State.ringGranules, hplace, howner]

theorem State.gateG_of_interlocks (t g : Nat) : u.gateG t true g = s.gateG t true g := by
  obtain ⟨-, hstes, -⟩ := State.interlocks_iff.1 h
  simp only [State.gateG, State.inFold, State.gateWriteG, State.foldArea_of_interlocks h, State.ringGranules_of_interlocks h,
    State.ste_of_stes hstes, if_true]

end

/-- The addresses of a tile's scratchpad (R13). -/
theorem physAt_eq_scratch {a t : Nat} : physAt a = .scratch t ↔
    (0x1000_0000_0000 ≤ a ∧ a < 0x1000_1800_0000) ∧ (a - 0x1000_0000_0000) % 0x80_0000 < 0x60_0000 ∧
      (a - 0x1000_0000_0000) / 0x80_0000 = t := by
  unfold physAt
  constructor
  · intro h
    (repeat' split at h) <;> cases h
    exact ⟨‹_›, ‹_›, rfl⟩
  · rintro ⟨hin, hpad, rfl⟩
    rw [if_neg (by omega), if_pos hin, if_pos hpad]

/-- A place in a tile's scratchpad lies in a 64-byte granule of it. -/
theorem physAt_granule {a t : Nat} (h : physAt a = .scratch t) : physAt (a / 64 * 64) = .scratch t := by
  rw [physAt_eq_scratch] at h ⊢
  omega

/-- An idle tile lets every write of its engines go on. -/
theorem State.gateG_idle {s : State} {t a : Nat} (hidle : s.gateIdle t = true) (ha : physAt a = .scratch t) :
    s.gateG t true (a / 64) = .go := by
  simp only [State.gateIdle, Bool.and_eq_true, decide_eq_true_eq] at hidle
  obtain ⟨⟨-, hstreams⟩, hfold⟩ := hidle
  simp [State.gateG, State.gateWriteG, State.inFold, physAt_granule ha, hfold, hstreams]

/-- Granule `i` of a write, after what the granules before it met. -/
def State.granuleGate (s : State) (t p : Nat) (held : List PageMap) (va : Nat) (g : Gate) (i : Nat) : Gate :=
  match s.heldAddr p held ((va / 64 + i) * 64) with
  | some a => g.join (if physAt a = .scratch t then s.gateG t true (a / 64) else .go)
  | none => g

theorem State.granuleGate_idle {s : State} {t : Nat} (hidle : s.gateIdle t = true) (p : Nat) (held : List PageMap)
    (va i : Nat) : s.granuleGate t p held va .go i = .go := by
  unfold State.granuleGate
  split
  · split_ifs with ha
    · rw [State.gateG_idle hidle ha]; rfl
    · rfl
  · rfl

theorem State.gate_write (s : State) (t p : Nat) (held : List PageMap) (va n : Nat) : s.gate t p held true va n =
    if n = 0 then .go
    else (List.range ((va + n - 1) / 64 + 1 - va / 64)).foldl (s.granuleGate t p held va) .go := by
  have hfold : s.gate t p held true va n = if n = 0 ∨ s.gateIdle t then .go
    else (List.range ((va + n - 1) / 64 + 1 - va / 64)).foldl (s.granuleGate t p held va) .go := rfl
  rw [hfold]
  by_cases hn : n = 0
  · simp [hn]
  · by_cases hidle : s.gateIdle t = true
    · simp only [hn, hidle, or_true, if_true, if_false]
      exact (List.foldlRecOn (motive := fun g => g = Gate.go) _ _ rfl
        (fun g hg i _ => hg ▸ State.granuleGate_idle hidle p held va i)).symm
    · simp [hn, hidle]

/-- A store changes no gate of a write. -/
theorem State.gate_of_interlocks {s u : State} (h : u.interlocks = s.interlocks) (t p : Nat) (held : List PageMap)
    (va n : Nat) : u.gate t p held true va n = s.gate t p held true va n := by
  have himg := (State.interlocks_iff.1 h).1
  have hg : u.granuleGate t p held va = s.granuleGate t p held va := by
    funext g i
    simp only [State.granuleGate, State.heldAddr_of_img himg, State.gateG_of_interlocks h]
  rw [State.gate_write, State.gate_write, hg]

theorem State.writeGate_of_interlocks {s u : State} (h : u.interlocks = s.interlocks) (t p : Nat) (c : Cmd)
    (ws : List (Nat × List Byte)) : u.writeGate t p c ws = s.writeGate t p c ws := by
  simp only [State.writeGate, State.gates, List.foldl_map, State.gate_of_interlocks h]

theorem Gate.go_join (g : Gate) : Gate.go.join g = g := by cases g <;> rfl

theorem State.writeGate_one (s : State) (t p : Nat) (c : Cmd) (va : Nat) (bs : List Byte) :
    s.writeGate t p c [(va, bs)] = s.gate t p c.held true va bs.length := Gate.go_join _

end Sys2Proof.Machine
end

section
/-!
Book slots (R178, R181, R182): what the retiring of slots and the installation of a book leave of each slot.
-/
namespace Sys2Proof.Machine
set_option Elab.async false

/-! ## The slots that a VXE_BOOKLOAD covers (R181) -/

@[simp] theorem Mxe.book_setBook (m : Mxe) (k j : Nat) (b : BookSlot) :
    (m.setBook k b).book j = if j = k then b else m.book j := SMap.get_set ..

@[simp] theorem Mxe.bookOps_setBook (m : Mxe) (k : Nat) (b : BookSlot) : (m.setBook k b).bookOps = m.bookOps := rfl

theorem mem_coveredSlots_self (m : Mxe) (slot shape : Nat) : slot ∈ coveredSlots m slot shape := by
  unfold coveredSlots
  split <;> simp [List.mem_eraseDups]

theorem mem_coveredSlots_succ (m : Mxe) (slot : Nat) : slot + 1 ∈ coveredSlots m slot 1 := by
  simp [coveredSlots, List.mem_eraseDups]

/-- Slots of the one engine hold books where those of the other do, paired alike. -/
def Mxe.SamePairs (n m : Mxe) : Prop :=
  ∀ k, (n.book k).live = (m.book k).live ∧ (n.book k).shape = (m.book k).shape ∧ (n.book k).paired = (m.book k).paired

theorem Mxe.SamePairs.coveredSlots {m n : Mxe} (h : n.SamePairs m) (slot shape : Nat) :
    coveredSlots n slot shape = Machine.coveredSlots m slot shape := by
  have hp : livePair n = livePair m := by
    funext k
    obtain ⟨hl, hs, hp⟩ := h k
    simp only [livePair, hl, hs, hp]
  simp only [Machine.coveredSlots, hp]

/-- A begun VXE_BOOKLOAD covers the slot. -/
def Mxe.covered (m : Mxe) (k : Nat) : Bool :=
  m.bookOps.any (fun o => o.started && (coveredSlots m o.slot o.shape.toNat).contains k)

theorem Mxe.SamePairs.covered {m n : Mxe} (h : n.SamePairs m) (hops : n.bookOps = m.bookOps) (k : Nat) :
    n.covered k = m.covered k := by
  simp only [Mxe.covered, hops, h.coveredSlots]

/-! ## RETIRING (R178) -/

/-- The slot with RETIRING as its live book and the VXE_BOOKLOADs that cover it have it. -/
def BookSlot.retire (b : BookSlot) (covered : Bool) : BookSlot := { b with retiring := b.live.isSome && covered }

theorem Mxe.book_retire (m : Mxe) (k j : Nat) :
    (m.retire k).book j = if j = k then (m.book k).retire (m.covered k) else m.book j := m.book_setBook ..

theorem Mxe.retire_samePairs (m : Mxe) (k : Nat) : (m.retire k).SamePairs m := by
  intro j
  rw [m.book_retire]
  split
  case isTrue h => subst h; exact ⟨rfl, rfl, rfl⟩
  case isFalse => exact ⟨rfl, rfl, rfl⟩

theorem Mxe.foldl_retire (ks : List Nat) (m : Mxe) (j : Nat) : (ks.foldl Mxe.retire m).bookOps = m.bookOps ∧
    (ks.foldl Mxe.retire m).book j = if j ∈ ks then (m.book j).retire (m.covered j) else m.book j := by
  induction ks generalizing m with
  | nil => simp
  | cons k ks ih =>
    obtain ⟨hops, hbook⟩ := ih (m.retire k)
    refine ⟨hops, hbook.trans ?_⟩
    rw [(m.retire_samePairs k).covered rfl, m.book_retire]
    by_cases hk : j = k
    · subst hk
      simp [BookSlot.retire]
    · simp [hk]

/-! ## VXE_BOOKLOAD (R181) -/

/-- The matrix engine as a VXE_BOOKLOAD has begun, before its slots retire. -/
def Mxe.takeBook (m : Mxe) (o : BookOp) : Mxe :=
  { m.setBook o.slot { m.book o.slot with pend := some o.gen } with
    bookOps := m.bookOps.map (fun x => if x.ref = o.ref then { x with started := true } else x) }

/-- The matrix engine as a VXE_BOOKLOAD begins. -/
def Mxe.beginBook (m : Mxe) (o : BookOp) : Mxe :=
  (coveredSlots (m.takeBook o) o.slot o.shape.toNat).foldl Mxe.retire (m.takeBook o)

theorem Mxe.book_takeBook (m : Mxe) (o : BookOp) (k : Nat) :
    (m.takeBook o).book k = { m.book k with pend := if k = o.slot then some o.gen else (m.book k).pend } := by
  refine (m.book_setBook o.slot k _).trans ?_
  split
  case isTrue h => rw [h]
  case isFalse => rfl

theorem Mxe.takeBook_samePairs (m : Mxe) (o : BookOp) : (m.takeBook o).SamePairs m := by
  intro k
  rw [m.book_takeBook]
  exact ⟨rfl, rfl, rfl⟩

theorem Mxe.beginBook_leaves {m : Mxe} {o : BookOp} (ho : o ∈ m.bookOps) :
    (m.beginBook o).bookOps = m.bookOps.map (fun x => if x.ref = o.ref then { x with started := true } else x) ∧
    ∀ k, (m.beginBook o).book k = { m.book k with
      pend := if k = o.slot then some o.gen else (m.book k).pend
      retiring := if k ∈ coveredSlots m o.slot o.shape.toNat then (m.book k).live.isSome else (m.book k).retiring } := by
  have hcov := (m.takeBook_samePairs o).coveredSlots
  refine ⟨(Mxe.foldl_retire _ _ 0).1, fun k => (Mxe.foldl_retire _ _ k).2.trans ?_⟩
  rw [hcov, m.book_takeBook]
  by_cases hk : k ∈ coveredSlots m o.slot o.shape.toNat
  · have hc : (m.takeBook o).covered k = true :=
      List.any_eq_true.2 ⟨{ o with started := true }, List.mem_map.2 ⟨o, ho, if_pos rfl⟩, by simp [hcov, hk]⟩
    simp only [BookSlot.retire, hc, hk, Bool.and_true, if_true]
  · simp only [hk, if_false]

theorem exec_vxeBookload_begins {t : Fin 48} {s : State} {o : BookOp}
    (ho : (s.mxe t.val).bookOps.find? (fun x => !x.started) = some o) :
    exec (.vxeBookload t) s = .next (s.setMxe t.val ((s.mxe t.val).beginBook o)) := by
  simp only [exec, execVxeBookload, ho]
  rfl

/-! ## BOOK_INSTALL (R181, R182) -/

/-- The slot holds no live book; its pending generation stays. -/
def BookSlot.clear (b : BookSlot) : BookSlot := { BookSlot.reset with pend := b.pend }

def Mxe.clearBook (m : Mxe) (k : Nat) : Mxe := m.setBook k (m.book k).clear

theorem Mxe.foldl_clearBook (ks : List Nat) (m : Mxe) (j : Nat) : (ks.foldl Mxe.clearBook m).bookOps = m.bookOps ∧
    (ks.foldl Mxe.clearBook m).book j = if j ∈ ks then (m.book j).clear else m.book j := by
  induction ks generalizing m with
  | nil => simp
  | cons k ks ih =>
    obtain ⟨hops, hbook⟩ := ih (m.clearBook k)
    refine ⟨hops, hbook.trans ?_⟩
    by_cases hk : j = k
    · subst hk
      simp [Mxe.clearBook, BookSlot.clear]
    · simp [Mxe.clearBook, hk]

/-- The slot that holds the book of a VXE_BOOKLOAD, read as the words `ws`. -/
def BookOp.book (o : BookOp) (ws : List (Nat × BitVec 20)) : BookSlot :=
  ⟨some o.gen, none, false, false, o.shape, o.escFmt, ws⟩

/-- The matrix engine without a VXE_BOOKLOAD, and no live book in the slots that it covers. -/
def Mxe.clearCovered (m : Mxe) (o : BookOp) : Mxe :=
  (coveredSlots m o.slot o.shape.toNat).foldl Mxe.clearBook
    { m with bookOps := m.bookOps.filter (fun x => decide (x.ref ≠ o.ref)) }

/-- The matrix engine with the book of a VXE_BOOKLOAD in its slot; a book of shape 1 takes the next one too. -/
def Mxe.putBook (m : Mxe) (o : BookOp) (ws : List (Nat × BitVec 20)) : Mxe :=
  let m := m.setBook o.slot (o.book ws)
  if o.shape = 1 then m.setBook (o.slot + 1) { m.book (o.slot + 1) with paired := true } else m

/-- The matrix engine as the book of a VXE_BOOKLOAD becomes live. -/
def Mxe.installBook (m : Mxe) (o : BookOp) (ws : List (Nat × BitVec 20)) : Mxe :=
  ((m.clearCovered o).putBook o ws).retire o.slot

theorem Mxe.book_putBook (m : Mxe) (o : BookOp) (ws : List (Nat × BitVec 20)) (k : Nat) :
    (m.putBook o ws).book k = if k = o.slot then o.book ws
      else if o.shape = 1 ∧ k = o.slot + 1 then { m.book k with paired := true } else m.book k := by
  unfold Mxe.putBook
  by_cases hs : o.shape = 1
  · by_cases hk : k = o.slot + 1
    · subst hk
      simp [hs]
    · simp [hs, hk]
  · simp only [hs, if_false, false_and, Mxe.book_setBook]

theorem Mxe.bookOps_putBook (m : Mxe) (o : BookOp) (ws : List (Nat × BitVec 20)) :
    (m.putBook o ws).bookOps = m.bookOps := by
  unfold Mxe.putBook
  split <;> rfl

section
variable (m : Mxe) (o : BookOp) (ws : List (Nat × BitVec 20))

theorem Mxe.book_installBook_self : ∃ ret, (m.installBook o ws).book o.slot = { o.book ws with retiring := ret } ∧
    ((∀ y ∈ m.bookOps, y.ref ≠ o.ref → y.started = false) → ret = false) := by
  refine ⟨((m.clearCovered o).putBook o ws).covered o.slot, ?_, fun hidle => ?_⟩
  · rw [Mxe.installBook, Mxe.book_retire, if_pos rfl, Mxe.book_putBook, if_pos rfl]
    rfl
  · have hops : ((m.clearCovered o).putBook o ws).bookOps = m.bookOps.filter (fun x => decide (x.ref ≠ o.ref)) :=
      (Mxe.bookOps_putBook ..).trans (Mxe.foldl_clearBook _ _ 0).1
    refine List.any_eq_false.2 fun y hy => ?_
    rw [hops, List.mem_filter, decide_eq_true_eq] at hy
    simp [hidle y hy.1 hy.2]

theorem Mxe.book_installBook_ne {k : Nat} (hk : k ≠ o.slot) : (m.installBook o ws).book k =
    if o.shape = 1 ∧ k = o.slot + 1 then { (m.book k).clear with paired := true }
    else if k ∈ coveredSlots m o.slot o.shape.toNat then (m.book k).clear else m.book k := by
  have hclear : (m.clearCovered o).book k =
      if k ∈ coveredSlots m o.slot o.shape.toNat then (m.book k).clear else m.book k := (Mxe.foldl_clearBook _ _ k).2
  rw [Mxe.installBook, Mxe.book_retire, if_neg hk, Mxe.book_putBook, if_neg hk, hclear]
  split
  case isTrue hpair =>
    have hin : k ∈ coveredSlots m o.slot o.shape.toNat := by
      obtain ⟨hs, rfl⟩ := hpair
      rw [hs]
      exact mem_coveredSlots_succ m o.slot
    rw [if_pos hin]
  case isFalse => rfl

end

/-! ## The LOADWs queued on the slot (R179) -/

/-- Where every entry of a table is changed alike, so is what each key holds. -/
theorem SMap.get_mapValues {α : Type} {d : α} {f : α → α} (hd : f d = d) (m : List (Nat × α)) (k : Nat) :
    SMap.get d (m.map (fun e => (e.1, f e.2))) k = f (SMap.get d m k) := by
  induction m with
  | nil => exact hd.symm
  | cons e m ih =>
    simp only [List.map_cons, SMap.get, ih]
    split <;> rfl

/-- A command of a queue as a matching anew leaves it. -/
def Cmd.rematch (t slot : Nat) (now : BookMatch) (c : Cmd) : Cmd :=
  if c.engine = 1 ∧ c.opcode = 1 ∧ c.target = t ∧ ldCoded c ∧ ldBook c = slot ∧ c.book = .pending then
    { c with book := now } else c

def Que.rematch (t slot : Nat) (now : BookMatch) (x : Que) : Que := { x with cmds := x.cmds.map (Cmd.rematch t slot now) }

theorem Cmd.head_rematch (t slot : Nat) (now : BookMatch) (c : Cmd) : (c.rematch t slot now).head = c.head := by
  unfold Cmd.rematch
  split <;> rfl

theorem State.que_rematch (s : State) (t slot : Nat) (now : BookMatch) (k : Nat) :
    (s.rematch t slot now).que k = (s.que k).rematch t slot now :=
  SMap.get_mapValues (f := Que.rematch t slot now) rfl s.ques k

/-- A matching anew changes no HEAD, and so loses no command of a queue. -/
theorem State.cmdAt_rematch {s : State} {r : CmdRef} (hstage : r.stage = none) (hc : (s.cmdAt r).isSome = true)
    (t slot : Nat) (now : BookMatch) : ((s.rematch t slot now).cmdAt r).isSome = true := by
  obtain ⟨q, h, st⟩ := r
  obtain rfl : st = none := hstage
  rw [State.cmdAt_whole] at hc ⊢
  rw [State.que_rematch]
  simp only [Que.rematch, List.find?_isSome, List.mem_map, decide_eq_true_eq] at hc ⊢
  obtain ⟨c, hmem, hhead⟩ := hc
  exact ⟨_, ⟨c, hmem, rfl⟩, (c.head_rematch t slot now).trans hhead⟩

/-! ## The state after BOOK_INSTALL (R181, R182) -/

/-- The state in which the book of a VXE_BOOKLOAD, read as the words `ws`, has become live. -/
def State.installBook (s : State) (t : Nat) (o : BookOp) (ws : List (Nat × BitVec 20)) : State :=
  ((s.setMxe t ((s.mxe t).installBook o ws)).rematch t o.slot .live).completeRef o.ref

theorem State.mxe_installBook (s : State) (t : Nat) (o : BookOp) (ws : List (Nat × BitVec 20)) :
    (s.installBook t o ws).mxe t = (s.mxe t).installBook o ws := by
  generalize hv : s.setMxe t ((s.mxe t).installBook o ws) = v
  have hmxes : (s.installBook t o ws).mxes = v.mxes := by
    rw [State.installBook, hv]
    exact (State.completeRef_see (π := State.mxes) _ _ (by simp)).trans
      (State.rematch_see (π := State.mxes) _ _ _ _ (by simp))
  rw [State.mxe_of_mxes hmxes, ← hv, State.mxe_setMxe, if_pos rfl]

theorem State.installBook_completes {s : State} {o : BookOp} (hstage : o.ref.stage = none)
    (hq : (s.queOwner o.ref.q).isSome = true) (hc : (s.cmdAt o.ref).isSome = true) (t : Nat) (ws : List (Nat × BitVec 20)) :
    ∀ d ∈ ((s.installBook t o ws).que o.ref.q).cmds, d.head = o.ref.head → d.phase = .complete := by
  intro d hd hhead
  obtain ⟨⟨p, q⟩, hq⟩ := Option.isSome_iff_exists.1 hq
  obtain ⟨c, hc⟩ := Option.isSome_iff_exists.1
    (State.cmdAt_rematch (s := s.setMxe t ((s.mxe t).installBook o ws)) hstage hc t o.slot .live)
  rw [State.installBook, State.completeRef, hstage] at hd
  generalize hv : (s.setMxe t ((s.mxe t).installBook o ws)).rematch t o.slot .live = v at hc hd
  have himg : v.img = s.img := hv ▸ State.rematch_see (π := State.img) _ _ _ _ (by simp)
  obtain ⟨hdone, -, -⟩ := State.completeCmd_completed (s := v) rfl ((State.queOwner_of_img himg _).trans hq) hc
  rw [hdone] at hd
  obtain ⟨x, -, rfl⟩ := List.mem_map.1 hd
  by_cases hx : x.head = o.ref.head
  · rw [if_pos hx]
  · rw [if_neg hx] at hhead
    exact absurd hhead hx

section
variable {t : Fin 48} {slot : Fin 8} {s : State} {o : BookOp} {c : Cmd} {p q : Nat}
  (ho : (s.mxe t.val).bookOps.find? (fun x => x.started && decide (x.slot = slot.val)) = some o)
  (hc : s.cmdAt o.ref = some c) (hq : s.queOwner o.ref.q = some (p, q))
include ho hc hq

theorem exec_bookInstall_waits (h : ∃ k ∈ coveredSlots (s.mxe t.val) o.slot o.shape.toNat,
    ((s.mxe t.val).book k).live.isSome = true ∧ s.bookRefs t.val k ≠ 0) : exec (.bookInstall t slot) s = .next s := by
  have hany : ((coveredSlots (s.mxe t.val) o.slot o.shape.toNat).any (fun k =>
      ((s.mxe t.val).book k).live.isSome && decide (s.bookRefs t.val k ≠ 0))) = true := by simpa using h
  simp only [exec, execBookInstall, ho, hc, hq, hany, if_true]

theorem exec_bookInstall_installs (h : ∀ k ∈ coveredSlots (s.mxe t.val) o.slot o.shape.toNat,
      ((s.mxe t.val).book k).live.isSome = true → s.bookRefs t.val k = 0)
    (hg : s.gate t.val p c.held false o.addr (bookBytes o.shape.toNat) = .go) : exec (.bookInstall t slot) s =
      .next (s.installBook t.val o (s.bookWords p c o.addr o.shape.toNat)) := by
  have hany : ((coveredSlots (s.mxe t.val) o.slot o.shape.toNat).any (fun k =>
      ((s.mxe t.val).book k).live.isSome && decide (s.bookRefs t.val k ≠ 0))) = false := by simpa using h
  simp only [exec, execBookInstall, ho, hc, hq, hany, hg, Bool.false_eq_true, if_false]
  rfl

end

end Sys2Proof.Machine
end

section
/-!
Surveys and encodes (R184 to R188, R221, R232): how a pass over a piece waits, faults or completes. It settles O26.
-/
namespace Sys2Proof.Machine
set_option Elab.async false

/-! ## How a survey or encode ends -/

theorem State.vxe_of_vxes {s u : State} (h : u.vxes = s.vxes) (k : Nat) : u.vxe k = s.vxe k := by
  rw [State.vxe, State.vxe, h]

theorem State.found_of_vxeWork {s : State} {t p : Nat} {w : VxeWork} {o : VxeOp} {c : Cmd}
    (h : s.vxeWork t w = some (o, c, p)) :
    o.work = w ∧ (s.queOwner o.ref.q).isSome = true ∧ (s.cmdAt o.ref).isSome = true := by
  unfold State.vxeWork at h
  split at h
  · contradiction
  · split at h
    · obtain ⟨d, hc, h⟩ := Option.bind_eq_some_iff.1 h
      obtain ⟨x, hx, h⟩ := Option.map_eq_some_iff.1 h
      obtain ⟨rfl, -⟩ := Prod.mk.inj h
      exact ⟨‹_›, by simp [hx], by simp [hc]⟩
    · contradiction

theorem State.vxeFail_leaves {s v : State} {o : VxeOp} (hsame : v.commands = s.commands)
    (ho : (s.queOwner o.ref.q).isSome = true) (hc : (s.cmdAt o.ref).isSome = true) (t : Nat) (b : Bad) :
    ((v.vxeFail t o b).vxe t).op = none ∧ ((v.vxeFail t o b).que o.ref.q).halted = true := by
  generalize hw : v.setVxe t { v.vxe t with op := none } = w
  have hcmd : w.commands = s.commands := hw ▸ hsame
  have hvxe : (v.vxeFail t o b).vxe t = w.vxe t := State.vxe_of_vxes (by
    rw [State.vxeFail, hw]
    exact (State.progress_see (π := State.vxes) _ _ _ _ (by simp)).trans
      (State.failTile_see (π := State.vxes) _ _ _ _ (by simp))) t
  have hque : (v.vxeFail t o b).que o.ref.q = (w.failTile o.ref b t).que o.ref.q := by
    rw [State.vxeFail, hw]
    exact State.progress_see (π := State.queOf o.ref.q) _ _ _ _ (by simp)
  rw [hvxe, hque]
  refine ⟨?_, State.failRef_halts hcmd ho hc ..⟩
  subst hw
  simp

theorem State.vxeDone_leaves {s v : State} {o : VxeOp} (hsame : v.commands = s.commands) (hvxes : v.vxes = s.vxes)
    (ho : (s.queOwner o.ref.q).isSome = true) (hc : (s.cmdAt o.ref).isSome = true) (t : Nat) :
    let u := v.vxeDone t o
    u.mem = v.mem ∧ (u.vxe t).op = none ∧ (∀ k, k ≠ t → u.vxe k = s.vxe k) ∧
      (o.ref.stage = none → Completed s u o.ref) := by
  intro u
  generalize hw : v.setVxe t { v.vxe t with op := none } = w
  have hu : u = (w.completeRef o.ref).progress .vxe t false := by rw [← hw]; rfl
  have hcmd : w.commands = s.commands := hw ▸ hsame
  have hvxe : ∀ k, u.vxe k = w.vxe k := State.vxe_of_vxes (by
    rw [hu]
    exact (State.progress_see (π := State.vxes) _ _ _ _ (by simp)).trans
      (State.completeRef_see (π := State.vxes) _ _ (by simp)))
  refine ⟨State.vxeDone_see (π := State.mem) _ _ _ (by simp), ?_, fun k hk => ?_, fun hstage => ?_⟩
  · rw [hvxe, ← hw]
    simp
  · rw [hvxe, ← hw, ← State.vxe_of_vxes hvxes]
    simp [hk]
  · obtain ⟨p, q, d, ho, hc⟩ := State.found_of_commands hcmd ho hc
    obtain ⟨hdone, -, -⟩ := State.completeCmd_completed (State.commands_iff.1 hcmd).1 ho hc
    have hque : u.que o.ref.q = (w.completeCmd o.ref).que o.ref.q := by
      rw [hu, State.completeRef, hstage]
      exact State.progress_see (π := State.queOf o.ref.q) _ _ _ _ (by simp)
    rw [Completed, hque]
    exact hdone

/-! ## What a pass comes to -/

/-- The state `u` is what a pass over a piece comes to, which began in `s` and met `stop`: it waits as it was, its command
faults, or it completes with all its writes made, as `done` holds them. -/
structure State.PassEnds (s : State) (t : Nat) (o : VxeOp) (stop : Gate) (done u : State) : Prop where
  kept : done.commands = s.commands ∧ done.vxes = s.vxes
  waits : stop = .wait → u = s
  faults : ∀ b, stop = .bad b → ∃ v : State, v.commands = s.commands ∧ u = v.vxeFail t o b
  completes : stop = .go → u = done.vxeDone t o

/-- Writes into memory change no command and no vector engine. -/
theorem State.heldWrites_kept {s v : State} (h : v.commands = s.commands ∧ v.vxes = s.vxes) (p : Nat) (c : Cmd)
    (ws : List (Nat × List Byte)) : (v.heldWrites p c ws).commands = s.commands ∧ (v.heldWrites p c ws).vxes = s.vxes :=
  ⟨(State.heldWrites_see (π := State.commands) _ _ _ _ (by simp)).trans h.1,
    (State.heldWrites_see (π := State.vxes) _ _ _ _ (by simp)).trans h.2⟩

theorem State.vxeEnd_passEnds {s v : State} {t : Nat} {o : VxeOp} (hkept : v.commands = s.commands ∧ v.vxes = s.vxes)
    (p : Nat) (c : Cmd) (g : Gate) (ws : List (Nat × List Byte)) :
    s.PassEnds t o (g.andThen (v.writeGate t p c ws)) (v.heldWrites p c ws) (v.vxeEnd s t p o c g ws) := by
  unfold State.vxeEnd
  cases g.andThen (v.writeGate t p c ws) with
  | go => exact ⟨State.heldWrites_kept hkept .., nofun, nofun, fun _ => rfl⟩
  | wait => exact ⟨State.heldWrites_kept hkept .., fun _ => rfl, nofun, nofun⟩
  | bad e => exact ⟨State.heldWrites_kept hkept .., nofun, fun b hb => ⟨v, hkept.1, by cases hb; rfl⟩, nofun⟩

section
variable {s v : State} {t : Nat} {o : VxeOp}

theorem State.PassEnds.waiting : s.PassEnds t o .wait s s := ⟨⟨rfl, rfl⟩, fun _ => rfl, nofun, nofun⟩

theorem State.PassEnds.faulting (h : v.commands = s.commands) (b : Bad) : s.PassEnds t o (.bad b) s (v.vxeFail t o b) :=
  ⟨⟨rfl, rfl⟩, nofun, fun _ hb => ⟨v, h, by cases hb; rfl⟩, nofun⟩

variable {done u : State} {i : Instr} (ho : (s.queOwner o.ref.q).isSome = true) (hc : (s.cmdAt o.ref).isSome = true)
  (hexec : exec i s = .next u)
include ho hc hexec

theorem State.PassEnds.does_fault {b : Bad} (h : s.PassEnds t o (.bad b) done u) :
    Does i s (fun u => (u.vxe t).op = none ∧ (u.que o.ref.q).halted = true) := by
  obtain ⟨v, hv, rfl⟩ := h.faults b rfl
  exact ⟨_, hexec, State.vxeFail_leaves hv ho hc t b⟩

theorem State.PassEnds.does_complete (h : s.PassEnds t o .go done u) : Does i s (fun u => u.mem = done.mem ∧
    (u.vxe t).op = none ∧ (∀ k, k ≠ t → u.vxe k = s.vxe k) ∧ (o.ref.stage = none → Completed s u o.ref)) := by
  obtain rfl := h.completes rfl
  exact ⟨_, hexec, State.vxeDone_leaves h.kept.1 h.kept.2 ho hc t⟩

end

/-! ## A ledger that holds the engine (R409), the sample phase and the encode (R186, R188) -/

section
variable {t : Fin 48} {s : State} {o : VxeOp} {c : Cmd} {p : Nat}

theorem exec_pass_held {w : VxeWork} {i : Instr}
    (hi : (w, i) ∈ [(VxeWork.sample, Instr.vxeSurveySample t), (.build, .vxeSurveyBuild t), (.encode, .vxeEncode t)])
    (hw : s.vxeWork t.val w = some (o, c, p)) (hl : s.ldgHolds ⟨.ldgTile, t.val⟩ 2 = true) : exec i s = .next s := by
  simp only [List.mem_cons, Prod.mk.injEq, List.not_mem_nil, or_false] at hi
  obtain ⟨rfl, rfl⟩ | ⟨rfl, rfl⟩ | ⟨rfl, rfl⟩ := hi
  · simp only [exec, execVxeSurveySample, hw, hl, if_true]
  · simp only [exec, execVxeSurveyBuild, hw, hl, if_true]
  · simp only [exec, execVxeEncode, hw, hl, if_true]

variable (hl : s.ldgHolds ⟨.ldgTile, t.val⟩ 2 = false)
include hl

theorem exec_vxeSurveySample_ends (hw : s.vxeWork t.val .sample = some (o, c, p)) :
    let e := sampleVecs t.val p c o.prog s
    ∃ u, exec (.vxeSurveySample t) s = .next u ∧
      s.PassEnds t.val o (s.vxeStop t.val p c o) (e.2.heldWrites p c (e.1.record c)) u := by
  intro e
  obtain ⟨hwork, -, -⟩ := State.found_of_vxeWork hw
  have hstop : s.vxeStop t.val p c o = e.1.stop.andThen (e.2.writeGate t.val p c (e.1.record c)) := by
    simp only [State.vxeStop, hwork]
    rfl
  refine ⟨e.2.vxeEnd s t.val p o c e.1.stop (e.1.record c), ?_, hstop ▸ State.vxeEnd_passEnds ⟨?_, ?_⟩ p c _ _⟩
  · simp only [exec, execVxeSurveySample, hw, hl, Bool.false_eq_true, if_false]
    rfl
  · exact sampleVecs_see (π := State.commands) _ _ _ _ _ (by simp)
  · exact sampleVecs_see (π := State.vxes) _ _ _ _ _ (by simp)

theorem exec_vxeEncode_ends (hw : s.vxeWork t.val .encode = some (o, c, p)) :
    let e := encodeRows p c o s
    ∃ done u, exec (.vxeEncode t) s = .next u ∧ s.PassEnds t.val o (s.vxeStop t.val p c o) done u ∧
      (s.vxeStop t.val p c o = .go → done = e.2.heldWrites p c (e.1.record c)) := by
  intro e
  obtain ⟨hwork, -, -⟩ := State.found_of_vxeWork hw
  simp only [State.vxeStop, hwork, exec, execVxeEncode, hw, hl, Bool.false_eq_true, if_false]
  cases s.gate t.val p c.held false (recNum o.prog 24 8) (bookBytes (recNum o.prog 0 1)) with
  | wait => exact ⟨s, s, rfl, .waiting, nofun⟩
  | bad b => exact ⟨s, _, rfl, .faulting rfl b, nofun⟩
  | go =>
    refine ⟨_, _, rfl, State.vxeEnd_passEnds ⟨?_, ?_⟩ p c _ _, fun _ => rfl⟩
    · exact encodeRows_see (π := State.commands) _ _ _ _ (by simp)
    · exact encodeRows_see (π := State.vxes) _ _ _ _ (by simp)

end

/-! ## The build phase (R187) -/

/-- The end of a build that began in `s`: its book is stored, and then its result fields. -/
def State.bookEnd (v s : State) (t p : Nat) (o : VxeOp) (c : Cmd) (book ws : List (Nat × List Byte)) : State :=
  match v.writeGate t p c book with
  | .wait => s
  | .bad e => v.vxeFail t o e
  | .go => (v.heldWrites p c book).vxeEnd s t p o c .go ws

theorem State.bookEnd_passEnds {s v : State} (hkept : v.commands = s.commands ∧ v.vxes = s.vxes) (t p : Nat) (o : VxeOp)
    (c : Cmd) (book ws : List (Nat × List Byte)) : ∃ done,
      s.PassEnds t o ((v.writeGate t p c book).andThen (v.writeGate t p c ws)) done (v.bookEnd s t p o c book ws) := by
  rw [State.bookEnd, ← State.writeGate_of_interlocks (State.interlocks_heldWrites v p c book) t p c ws]
  cases v.writeGate t p c book with
  | wait => exact ⟨s, .waiting⟩
  | bad b => exact ⟨s, .faulting hkept.1 b⟩
  | go => exact ⟨_, State.vxeEnd_passEnds (State.heldWrites_kept hkept ..) p c .go ws⟩

section
variable {t : Fin 48} {s : State} {o : VxeOp} {c : Cmd} {p : Nat} (hw : s.vxeWork t.val .build = some (o, c, p))
  (hl : s.ldgHolds ⟨.ldgTile, t.val⟩ 2 = false)
include hw hl

/-- A build whose reads go on computes its book, for which it draws, and ends by storing it. -/
theorem exec_vxeSurveyBuild_builds (hn : recNum o.prog 56 4 ≠ 0)
    (hg : s.gates t.val p c.held (buildReads o.prog) = .go) : ∃ (v : State) (es : List (List Nat)) (bs : List Byte),
      (v.commands = s.commands ∧ v.vxes = s.vxes ∧ v.interlocks = s.interlocks) ∧ bs.length = 12 ∧
      exec (.vxeSurveyBuild t) s = .next (v.bookEnd s t.val p o c
        [(recNum o.prog 24 8, entryBytes es (shapeWords (recNum o.prog 0 1)))] [(svRec c + 60, bs)]) := by
  simp only [exec, execVxeSurveyBuild, hw, hl, hn, hg, Bool.false_eq_true, if_false]
  refine ⟨_, _, _, ⟨?_, ?_, ?_⟩, ?_, rfl⟩
  · exact buildLoop_see (π := State.commands) _ _ _ _ _ _ _ (by simp)
  · exact buildLoop_see (π := State.vxes) _ _ _ _ _ _ _ (by simp)
  · exact buildLoop_see (π := State.interlocks) _ _ _ _ _ _ _ (by simp)
  · simp only [List.length_append, leBytes_length]

theorem exec_vxeSurveyBuild_ends :
    let r := recNum o.prog
    ∃ done u, exec (.vxeSurveyBuild t) s = .next u ∧ s.PassEnds t.val o (s.vxeStop t.val p c o) done u ∧
      (r 56 4 = 0 → done = s.heldWrites p c [(svRec c + 61, leBytes 1 (r 61 1 ||| 2))]) := by
  intro r
  obtain ⟨hwork, -, -⟩ := State.found_of_vxeWork hw
  by_cases hn : r 56 4 = 0
  · have hstop : s.vxeStop t.val p c o =
        Gate.go.andThen (s.writeGate t.val p c [(svRec c + 61, leBytes 1 (r 61 1 ||| 2))]) := by
      rw [State.writeGate_one, leBytes_length]
      simp only [State.vxeStop, hwork]
      exact if_pos hn
    rw [hstop]
    refine ⟨_, _, ?_, State.vxeEnd_passEnds ⟨rfl, rfl⟩ p c _ _, fun _ => rfl⟩
    simp only [exec, execVxeSurveyBuild, hw, hl, Bool.false_eq_true, if_false]
    exact congrArg Host.Outcome.next (if_pos hn)
  · have hstop : s.vxeStop t.val p c o = (s.gates t.val p c.held (buildReads o.prog)).andThen
        ((s.gate t.val p c.held true (r 24 8) (bookBytes (r 0 1))).andThen
          (s.gate t.val p c.held true (svRec c + 60) 12)) := by
      simp only [State.vxeStop, hwork]
      exact if_neg hn
    rw [hstop]
    cases hg : s.gates t.val p c.held (buildReads o.prog) with
    | wait =>
      refine ⟨s, s, ?_, .waiting, fun h => absurd h hn⟩
      simp only [exec, execVxeSurveyBuild, hw, hl, hg, Bool.false_eq_true, if_false]
      exact congrArg Host.Outcome.next (if_neg hn)
    | bad b =>
      refine ⟨s, s.vxeFail t.val o b, ?_, .faulting rfl b, fun h => absurd h hn⟩
      simp only [exec, execVxeSurveyBuild, hw, hl, hg, Bool.false_eq_true, if_false]
      exact congrArg Host.Outcome.next (if_neg hn)
    | go =>
      obtain ⟨v, es, bs, ⟨hcmd, hvxes, hlock⟩, hbs, hexec⟩ := exec_vxeSurveyBuild_builds hw hl hn hg
      obtain ⟨done, hends⟩ := State.bookEnd_passEnds ⟨hcmd, hvxes⟩ t.val p o c
        [(r 24 8, entryBytes es (shapeWords (r 0 1)))] [(svRec c + 60, bs)]
      rw [State.writeGate_one, State.writeGate_one, State.gate_of_interlocks hlock, State.gate_of_interlocks hlock, hbs,
        entryBytes, leBytes_length] at hends
      exact ⟨done, _, hexec, hends, fun h => absurd h hn⟩

end

/-- A survey or encode pass that the ledger lets run is executed to one of its ends. -/
theorem exec_pass_ends {t : Fin 48} {s : State} {w : VxeWork} {i : Instr} {o : VxeOp} {c : Cmd} {p : Nat}
    (hi : (w, i) ∈ [(VxeWork.sample, Instr.vxeSurveySample t), (.build, .vxeSurveyBuild t), (.encode, .vxeEncode t)])
    (hw : s.vxeWork t.val w = some (o, c, p)) (hl : s.ldgHolds ⟨.ldgTile, t.val⟩ 2 = false) :
    ∃ done u, exec i s = .next u ∧ s.PassEnds t.val o (s.vxeStop t.val p c o) done u := by
  simp only [List.mem_cons, Prod.mk.injEq, List.not_mem_nil, or_false] at hi
  obtain ⟨rfl, rfl⟩ | ⟨rfl, rfl⟩ | ⟨rfl, rfl⟩ := hi
  · exact ⟨_, exec_vxeSurveySample_ends hl hw⟩
  · obtain ⟨done, u, hexec, hends, -⟩ := exec_vxeSurveyBuild_ends hw hl
    exact ⟨done, u, hexec, hends⟩
  · obtain ⟨done, u, hexec, hends, -⟩ := exec_vxeEncode_ends hl hw
    exact ⟨done, u, hexec, hends⟩

end Sys2Proof.Machine

open Sys2Proof Sys2Proof.Machine

/-- Settles O26: a VXE_BOOKLOAD begins and installs by one new matrix engine each, read slot by slot, and a survey or encode
pass comes to the end that `State.vxeStop` foretells. -/
theorem booksInstallWhenTheirSlotsAreFree : Obligations.BooksInstallWhenTheirSlotsAreFree := by
  refine ⟨?begin, ?install, ?stop, ?complete⟩
  case begin =>
    intro t s o m ho
    obtain ⟨hops, hbook⟩ := Mxe.beginBook_leaves (List.mem_of_find?_eq_some ho)
    refine ⟨_, exec_vxeBookload_begins ho, ?_⟩
    dsimp only
    rw [State.mxe_setMxe, if_pos rfl]
    exact ⟨hbook, hops, fun k hk => (State.mxe_setMxe ..).trans (if_neg hk),
      State.setMxe_see (π := State.except [.mxes]) _ _ _ (by simp)⟩
  case install =>
    intro t slot s o c p q m cov ho hc hq
    refine ⟨exec_bookInstall_waits ho hc hq, fun hfree hg => ⟨_, exec_bookInstall_installs ho hc hq hfree hg, ?_⟩⟩
    have hne := fun {k : Nat} (hk : k ≠ o.slot) =>
      m.book_installBook_ne o (s.bookWords p c o.addr o.shape.toNat) hk
    obtain ⟨ret, hself, hret⟩ := m.book_installBook_self o (s.bookWords p c o.addr o.shape.toNat)
    dsimp only
    rw [State.mxe_installBook]
    refine ⟨⟨ret, hself, hret⟩, fun hs => ?_, fun k hk hks hpair => ?_, fun k hk => ?_, fun hstage => ?_⟩
    · rw [hne (Nat.succ_ne_self _), if_pos ⟨hs, rfl⟩]
      rfl
    · rw [hne hks, if_neg (fun h => hpair h.1 h.2), if_pos hk]
      rfl
    · have hks : k ≠ o.slot := fun h => hk (h ▸ mem_coveredSlots_self ..)
      rw [hne hks, if_neg, if_neg hk]
      rintro ⟨hs, rfl⟩
      exact hk (by simpa [cov, hs] using mem_coveredSlots_succ m o.slot)
    · exact State.installBook_completes hstage (by simp [hq]) (by simp [hc]) _ _
  case stop =>
    intro t s w i o c p hi hw
    obtain ⟨-, ho, hc⟩ := State.found_of_vxeWork hw
    refine ⟨fun h => ?_, fun b hb hl => ?_⟩
    · by_cases hl : s.ldgHolds ⟨.ldgTile, t.val⟩ 2 = true
      · exact exec_pass_held hi hw hl
      · obtain ⟨done, u, hexec, hends⟩ := exec_pass_ends hi hw (Bool.eq_false_iff.2 hl)
        rw [hexec, hends.waits (h.resolve_right hl)]
    · obtain ⟨done, u, hexec, hends⟩ := exec_pass_ends hi hw hl
      exact State.PassEnds.does_fault ho hc hexec (hb ▸ hends)
  case complete =>
    intro t s o c p r hgo hl
    refine ⟨fun hw => ?_, fun hw => ?_, fun hw => ?_⟩
    · obtain ⟨-, ho, hc⟩ := State.found_of_vxeWork hw
      obtain ⟨u, hexec, hends⟩ := exec_vxeSurveySample_ends hl hw
      exact State.PassEnds.does_complete ho hc hexec (hgo ▸ hends)
    · obtain ⟨-, ho, hc⟩ := State.found_of_vxeWork hw
      obtain ⟨done, u, hexec, hends, hnone⟩ := exec_vxeSurveyBuild_ends hw hl
      obtain ⟨w, hexec, hmem, hrest⟩ := State.PassEnds.does_complete ho hc hexec (hgo ▸ hends)
      exact ⟨w, hexec, fun hn => hmem.trans (congrArg State.mem (hnone hn)), hrest⟩
    · obtain ⟨-, ho, hc⟩ := State.found_of_vxeWork hw
      obtain ⟨done, u, hexec, hends, hdone⟩ := exec_vxeEncode_ends hl hw
      obtain rfl := hdone hgo
      exact State.PassEnds.does_complete ho hc hexec (hgo ▸ hends)
end

section
/-!
The run of a vector program (R195, R201, R209, R210, R221): a chunk waits, is stored or stops its command, and the command
ends. It settles O27.
-/
namespace Sys2Proof.Machine
set_option Elab.async false

/-! ## The instruction reached (R195) -/

theorem exec_vectorOps (t : Fin 48) (s : State) : ∀ x ∈ vectorOps, exec (x.1 t) s = .next (s.runChunk t.val x.2) := by
  simp only [vectorOps, List.cons_append, List.nil_append, List.forall_mem_cons, List.not_mem_nil, false_implies,
    implies_true, and_true]
  and_intros <;> rfl

theorem State.found_of_runOf {s : State} {t op p : Nat} {o : VxeOp} {c : Cmd} (h : s.runOf t op = some (o, c, p)) :
    (s.vxe t).op = some o ∧ (s.queOwner o.ref.q).isSome = true ∧ (s.cmdAt o.ref).isSome = true := by
  unfold State.runOf at h
  split at h
  case h_1 => contradiction
  case h_2 e he =>
    split at h
    · obtain ⟨d, hc, h⟩ := Option.bind_eq_some_iff.1 h
      split at h
      · obtain ⟨x, hx, h⟩ := Option.map_eq_some_iff.1 h
        obtain ⟨rfl, -⟩ := Prod.mk.inj h
        exact ⟨he, by simp [hx], by simp [hc]⟩
      · contradiction
    · contradiction

/-! ## Stores leave the vector engines' registers (R39) -/

/-- A block whose registers no store into memory and no write to the host changes. -/
def OffStores (b : BlkId) : Prop := blkKey b ≠ blkKey ⟨.pcx, 0⟩ ∧ blkKey b ≠ blkKey ⟨.talIo, 0⟩

theorem offStores_vxe {t : Nat} (ht : t < 48) : OffStores ⟨.vxe, t⟩ := by
  simp only [OffStores, blkKey, kindCode]
  omega

section
variable {b : BlkId} (hb : OffStores b)
include hb

theorem State.blkAt_putBytes (s : State) (p a : Nat) (bs : List Byte) :
    see (State.blkAt b) (s.putBytes p a bs) = see (State.blkAt b) s := by
  unfold State.putBytes State.hostWrite State.countIo
  split_ifs
  · refine (State.blk_count_ne hb.2 ..).trans ?_
    exact (State.emit_see (π := State.blkAt b) _ _ (by simp)).trans (State.carry_see _ _ _ (by simp))
  · exact (State.blk_setBlk ..).trans (if_neg hb.1)
  · exact State.writeBytes_see _ _ _ (by simp)

theorem State.blkAt_heldWrite (s : State) (p : Nat) (held : List PageMap) (va : Nat) (bs : List Byte) :
    see (State.blkAt b) (s.heldWrite p held va bs) = see (State.blkAt b) s := by
  unfold State.heldWrite State.heldPut
  split
  · split
    · exact State.blkAt_putBytes hb ..
    · refine foldl_see _ (fun _ _ => ?_) _ _
      split
      · exact State.blkAt_putBytes hb ..
      · rfl
  · rfl

theorem State.blkAt_writeCells (s : State) (p : Nat) (c : Cmd) (pr : List W64) (w : Nat) (cells : List Cell) :
    see (State.blkAt b) (s.writeCells p c pr w cells) = see (State.blkAt b) s := by
  unfold State.writeCells
  split <;> exact foldl_see _ (fun _ _ => State.blkAt_heldWrite hb ..) _ _

end

theorem State.flags_of_blkAt {s u : State} {k : BlkKind} {t : Nat} (h : u.blkAt ⟨k, t⟩ = s.blkAt ⟨k, t⟩) (off : Nat) :
    u.flags k t off = s.flags k t off := congrArg (w1cWord · off) h

/-! ## A chunk (R201, R210, R221) -/

/-- After a chunk has been stored its engine is in state `x`, its flags are raised, and it and its clamps are counted. -/
def State.noteChunk (s : State) (t : Nat) (x : Vxe) (r : ChunkOut) (ref : CmdRef) (c : Cmd) : State :=
  let u := (s.setVxe t x).flag .vxe t 0x18 (r.flags.setWidth 32)
  ((u.countTile t 0x010D 1 (u.whoRef ref c)).countTile t 0x0109 r.clamps (u.whoRef ref c)).progress .vxe t true

theorem State.noteChunk_leaves (s : State) (t : Nat) (x : Vxe) (r : ChunkOut) (ref : CmdRef) (c : Cmd) :
    let u := s.noteChunk t x r ref c
    u.mem = s.mem ∧ u.vxe t = x ∧ u.flags .vxe t 0x18 = s.flags .vxe t 0x18 ||| r.flags.setWidth 32 ∧
      (∀ k, k ≠ t → u.vxe k = s.vxe k) ∧ u.ques = s.ques := by
  intro u
  have hsee : ∀ {α : Type} {π : State → α}, Ign π .blocks ∧ Ign π .tals ∧ Ign π .timers →
      see π u = see π (s.setVxe t x) := fun hW => by simp [u, State.noteChunk, hW]
  have hvxe := State.vxe_of_vxes (hsee (π := State.vxes) (by simp))
  have htal : blkKey ⟨.vxe, t⟩ ≠ blkKey ⟨.talTile, t⟩ := by simp [blkKey, kindCode]
  have hblk : u.blkAt ⟨.vxe, t⟩ = ((s.setVxe t x).flag .vxe t 0x18 (r.flags.setWidth 32)).blkAt ⟨.vxe, t⟩ :=
    (State.progress_see (π := State.blkAt ⟨.vxe, t⟩) _ _ _ _ (by simp)).trans
      ((State.blk_count_ne htal ..).trans (State.blk_count_ne htal ..))
  refine ⟨hsee (π := State.mem) (by simp), ?_, ?_, fun k hk => ?_, hsee (π := State.ques) (by simp)⟩
  · rw [hvxe, State.vxe_setVxe, if_pos rfl]
  · rw [State.flags_of_blkAt hblk, State.flags_flag]
    rfl
  · rw [hvxe, State.vxe_setVxe, if_neg hk]

/-- A vector engine gives up the command that has it. -/
def State.freeVxe (s : State) (t : Nat) : State := s.setVxe t { s.vxe t with op := none }

theorem State.failRun_eq {s : State} {t p : Nat} {c : Cmd} (hg : s.statGate t p c ≠ .wait) (o : VxeOp) (b : Bad) :
    s.failRun t p c o b = ((s.writeStat t p c o).freeVxe t).failTile o.ref b t := if_neg hg

theorem State.failRun_leaves {s v : State} {o : VxeOp} (hsame : v.commands = s.commands)
    (ho : (s.queOwner o.ref.q).isSome = true) (hc : (s.cmdAt o.ref).isSome = true) {t p : Nat} {c : Cmd}
    (hg : v.statGate t p c ≠ .wait) (b : Bad) :
    ((v.failRun t p c o b).vxe t).op = none ∧ ((v.failRun t p c o b).que o.ref.q).halted = true := by
  rw [State.failRun_eq hg]
  generalize hw : v.writeStat t p c o = w
  have hcmd : (w.freeVxe t).commands = s.commands :=
    hw ▸ (State.writeStat_see (π := State.commands) _ _ _ _ _ (by simp)).trans hsame
  refine ⟨?_, State.failRef_halts hcmd ho hc ..⟩
  rw [State.vxe_of_vxes (State.failTile_see (π := State.vxes) _ _ _ _ (by simp))]
  simp [State.freeVxe]

theorem State.failRun_waits {s v : State} (hmem : v.mem = s.mem) (hques : v.ques = s.ques) {t p : Nat} {c : Cmd}
    (hg : v.statGate t p c = .wait) (o : VxeOp) (b : Bad) :
    let u := v.failRun t p c o b
    (u.vxe t).op = some { o with failed := some b } ∧ u.mem = s.mem ∧ u.ques = s.ques := by
  intro u
  have hu : u = v.setVxe t { v.vxe t with op := some { o with failed := some b } } := if_pos hg
  rw [hu]
  simp [hmem, hques]

/-- The engine after a chunk of the instruction reached. -/
def VxeOp.after (o : VxeOp) (op : Nat) (r : ChunkOut) : Vxe :=
  ⟨some (({ o with flags := o.flags ||| r.flags, clamps := o.clamps + r.clamps } : VxeOp).advance (progInst o.prog o.pc)),
    BitVec.ofNat 8 op, BitVec.ofNat 8 o.pc⟩

section
variable {s : State} {t op p : Nat} {o : VxeOp} {c : Cmd} (h : s.runOf t op = some (o, c, p))
include h

variable {w : Nat} {r : ChunkOut × State} (hw : progInst o.prog o.pc = w) (hr : chunkOf t p c o.prog w o.chunk s = r)
include hw hr

theorem State.runChunk_waits (hg : s.chunkGate t p o.ref c o.prog w o.chunk r.1.cells = .wait) : s.runChunk t op = s := by
  subst hw
  simp only [State.runChunk, h, hr, hg]

variable (hg : s.chunkGate t p o.ref c o.prog w o.chunk r.1.cells = .go) (hl : s.ldgHolds ⟨.ldgTile, t⟩ 2 = false)
include hg hl

theorem State.runChunk_stores (hn : r.1.nan = false) :
    s.runChunk t op = (r.2.writeCells p c o.prog w r.1.cells).noteChunk t (o.after op r.1) r.1 o.ref c := by
  subst hw
  simp only [State.runChunk, h, hr, hg, hl, hn, Bool.false_eq_true, if_false]
  rfl

theorem State.runChunk_stops (hn : r.1.nan = true) :
    s.runChunk t op = r.2.failRun t p c o ⟨0x0B, 0, (winOf o.prog (inD w)).fmt, 2, 0, 0x7F⟩ := by
  subst hw
  simp only [State.runChunk, h, hr, hg, hl, hn, Bool.false_eq_true, if_false, if_true]

end

/-- A chunk computed from `s` draws free values only, so what its cells' store and the note of it change is said of `s`. -/
theorem State.storeChunk_leaves {s v : State} {t : Nat} (ht : t < 48)
    (hsee : ∀ {α : Type} {π : State → α}, Ign π .free → see π v = see π s) (p : Nat) (c : Cmd) (pr : List W64) (w : Nat)
    (x : Vxe) (r : ChunkOut) (ref : CmdRef) :
    let u := (v.writeCells p c pr w r.cells).noteChunk t x r ref c
    u.mem = (v.writeCells p c pr w r.cells).mem ∧ u.vxe t = x ∧
      u.flags .vxe t 0x18 = s.flags .vxe t 0x18 ||| r.flags.setWidth 32 ∧ (∀ k, k ≠ t → u.vxe k = s.vxe k) ∧
      u.ques = s.ques := by
  obtain ⟨hmem, hself, hflags, hothers, hques⟩ := (v.writeCells p c pr w r.cells).noteChunk_leaves t x r ref c
  have hblk := (State.blkAt_writeCells (offStores_vxe ht) v p c pr w r.cells).trans
    (hsee (π := State.blkAt ⟨.vxe, t⟩) (by simp))
  have hvxes := (State.writeCells_see (π := State.vxes) v p c pr w r.cells (by simp)).trans
    (hsee (π := State.vxes) (by simp))
  have hque := (State.writeCells_see (π := State.ques) v p c pr w r.cells (by simp)).trans
    (hsee (π := State.ques) (by simp))
  refine ⟨hmem, hself, ?_, fun k hk => (hothers k hk).trans (State.vxe_of_vxes hvxes k), hques.trans hque⟩
  rw [hflags, State.flags_of_blkAt hblk]

/-! ## The beginning and the end of a VXE_RUN (R195, R209, R210) -/

/-- What a watchdog that starts anew leaves of a state with one vector engine changed. -/
theorem State.setVxe_progress_leaves (s : State) (t : Nat) (x : Vxe) (busy : Bool) :
    let u := (s.setVxe t x).progress .vxe t busy
    u.vxe t = x ∧ u.except [.vxes, .timers] = s.except [.vxes, .timers] := by
  intro u
  have hvxe : u.vxe t = (s.setVxe t x).vxe t :=
    State.vxe_of_vxes (State.progress_see (π := State.vxes) _ _ _ _ (by simp)) t
  refine ⟨hvxe.trans (by simp), ?_⟩
  exact (State.progress_see (π := State.except [.vxes, .timers]) _ _ _ _ (by simp)).trans
    (State.setVxe_see (π := State.except [.vxes, .timers]) _ _ _ (by simp))

section
variable {t : Fin 48} {s : State} {o : VxeOp} {c : Cmd} {p q : Nat} (hop : (s.vxe t.val).op = some o) (hwork : o.work = .run)
  (hc : s.cmdAt o.ref = some c) (hq : s.queOwner o.ref.q = some (p, q))
include hop hwork hc hq

theorem exec_vxeRun_begins (hst : o.started = false) : exec (.vxeRun t) s =
    .next ((s.setVxe t.val { s.vxe t.val with op := some { o with started := true } }).progress .vxe t.val true) := by
  simp only [exec, execVxeRun, hop, hwork, hc, hq, hst, ne_eq, not_true_eq_false, Bool.false_eq_true, not_false_eq_true,
    if_true, if_false]

theorem exec_vxeRun_faults {b : Bad} (hst : o.started = true) (hf : o.failed = some b) :
    exec (.vxeRun t) s = .next (s.failRun t.val p c o b) := by
  simp only [exec, execVxeRun, hop, hwork, hc, hq, hst, hf, ne_eq, not_true_eq_false, if_false]

theorem exec_vxeRun_completes (hst : o.started = true) (hf : o.failed = none) (hn : vxN c ≤ o.pc)
    (hg : s.statGate t.val p c = .go) : exec (.vxeRun t) s = .next ((s.writeStat t.val p c o).vxeDone t.val o) := by
  simp only [exec, execVxeRun, hop, hwork, hc, hq, hst, hf, not_lt.2 hn, hg, ne_eq, not_true_eq_false, if_false]
  rfl

end

theorem State.writeStat_of_go {s : State} {t p : Nat} {c : Cmd} (hg : s.statGate t p c = .go) (o : VxeOp) :
    s.writeStat t p c o = if vxStatEn c then
      s.heldWrite p c.held (vxStat c) (leBytes 8 (statusWord o.flags o.clamps o.pc)) else s := by
  simp only [State.writeStat, hg, and_true]

theorem exec_engineFillResume_vxe {t : Fin 48} {s : State} {o : VxeOp} {c : Cmd} {p g : Nat}
    (hop : (s.vxe t.val).op = some o) (hrun : s.runOf t.val (inOp (progInst o.prog o.pc)) = some (o, c, p))
    (hg : s.partOfTile t.val = some g) (hgate : s.chunkGate t.val p o.ref c o.prog (progInst o.prog o.pc) o.chunk
      (chunkOf t.val p c o.prog (progInst o.prog o.pc) o.chunk s).1.cells = .go) :
    exec (.engineFillResume t .vxe) s =
      .next (s.startTimer (.engine .vxe t.val) (.tile t.val) (s.cfg .flt g 0x28 15 0 * 1000)) := by
  simp only [exec, execEngineFillResume, hop, hrun, hgate, if_true, State.progress, State.engPart, hg]
  rfl

end Sys2Proof.Machine

open Sys2Proof Sys2Proof.Machine

/-- Settles O27: a chunk's row is `State.runChunk`, whose three ends are an equation each; the begun command's row and the
resumption of the engine are read case by case. -/
theorem vectorInstructionsRunByChunks : Obligations.VectorInstructionsRunByChunks := by
  refine ⟨?idle, ?chunk, ?run, ?resume⟩
  case idle =>
    intro x hx t s h
    rw [exec_vectorOps t s x hx, State.runChunk, h]
  case chunk =>
    intro x hx t s o c p w r h
    have hw : progInst o.prog o.pc = w := rfl
    have hr : chunkOf t.val p c o.prog w o.chunk s = r := rfl
    clear_value r w
    obtain ⟨-, ho, hc⟩ := State.found_of_runOf h
    have hsee : ∀ {α : Type} {π : State → α}, Ign π .free → see π r.2 = see π s :=
      fun hW => hr ▸ chunkOf_see _ _ _ _ _ _ _ hW
    have hexec := exec_vectorOps t s x hx
    refine ⟨fun hg => ?wait, fun hg hl => ⟨fun hn => ⟨_, hexec, ?store⟩,
      fun hn => ⟨fun hst => ⟨_, hexec, ?stop⟩, fun hst => ⟨_, hexec, ?hold⟩⟩⟩⟩
    case wait => rw [hexec, State.runChunk_waits h hw hr hg]
    case store =>
      rw [State.runChunk_stores h hw hr hg hl hn]
      subst hw
      exact State.storeChunk_leaves t.isLt hsee p c o.prog _ (o.after x.2 r.1) r.1 o.ref
    case stop =>
      rw [State.runChunk_stops h hw hr hg hl hn]
      exact State.failRun_leaves (hsee (π := State.commands) (by simp)) ho hc hst _
    case hold =>
      rw [State.runChunk_stops h hw hr hg hl hn]
      exact State.failRun_waits (hsee (π := State.mem) (by simp)) (hsee (π := State.ques) (by simp)) hst o _
  case run =>
    intro t s o c p q hop hwork hc hq
    refine ⟨fun hst => ⟨_, exec_vxeRun_begins hop hwork hc hq hst, ?_⟩,
      fun b hst hf hg => ⟨_, exec_vxeRun_faults hop hwork hc hq hst hf, ?_⟩,
      fun hst hf hn hg => ⟨_, exec_vxeRun_completes hop hwork hc hq hst hf hn hg, ?_⟩⟩
    · exact State.setVxe_progress_leaves ..
    · exact State.failRun_leaves rfl (by simp [hq]) (by simp [hc]) hg b
    · obtain ⟨hmem, hfree, -, hdone⟩ := State.vxeDone_leaves (s := s) (v := s.writeStat t.val p c o) (o := o)
        (State.writeStat_see (π := State.commands) _ _ _ _ _ (by simp))
        (State.writeStat_see (π := State.vxes) _ _ _ _ _ (by simp)) (by simp [hq]) (by simp [hc]) t.val
      refine ⟨hfree, ?_, hdone⟩
      rw [hmem, State.writeStat_of_go hg, apply_ite State.mem]
  case resume =>
    exact fun t s o c p g hop hrun hg hgate => exec_engineFillResume_vxe hop hrun hg hgate
end

section
/-!
The results of vector operations (R202, R203, R206): the cells of a chunk that has no mask and draws nothing, and what the
bounded operations give for special operands. It settles O28.
-/
namespace Sys2Proof.Machine
set_option Elab.async false

/-! ## A chunk without mask and without draws (R201, R202) -/

/-- A fold that appends one value for each element, while `I` holds. -/
theorem foldl_appends {α β γ : Type} {f : α → β → α} {π : α → List γ} {g : β → γ} {I : α → Prop}
    (hstep : ∀ a x, I a → I (f a x) ∧ π (f a x) = π a ++ [g x]) (l : List β) {a : α} (ha : I a) :
    π (l.foldl f a) = π a ++ l.map g := by
  induction l generalizing a with
  | nil => simp
  | cons x l ih =>
    obtain ⟨hx, hval⟩ := hstep a x ha
    rw [List.foldl_cons, ih hx, hval, List.map_cons, List.append_assoc, List.singleton_append]

theorem State.laneRnd_of_ne (s : State) (t : Nat) {code : Nat} (h : code ≠ 5) : s.laneRnd t code = (rndOf code 0, s) :=
  if_neg h

theorem State.maskBit_zero (s : State) (p : Nat) (held : List PageMap) (pr : List W64) (r k : Nat) :
    s.maskBit p held pr 0 r k = true := rfl

/-- The code that a lane's result has in the destination. -/
def laneCode (c : Cmd) (pr : List W64) (w : Nat) (l : Lane) : Nat :=
  let d := winOf pr (inD w)
  (convert d.fmt d.zp (rndOf (vxRnd c) 0) (!(vxStrict c)) (fp32Num l.word)).code

section
variable {c : Cmd} {w : Nat} (hmask : inMask w = 0)
include hmask

section
variable (hrnd : vxRnd c ≠ 5) {s : State} {f : LaneFn} {lane : Nat → Nat → Lane} (hf : ∀ r k, f s r k = (lane r k, s))
include hrnd hf

theorem elemStep_unmasked (t p : Nat) (pr : List W64) (sel : Bool) (acc : ChunkOut × State) (rk : Nat × Nat)
    (hacc : acc.2 = s) :
    (elemStep t p c pr w sel f acc rk).2 = s ∧ (elemStep t p c pr w sel f acc rk).1.cells =
      acc.1.cells ++ [⟨rk.1, rk.2, laneCode c pr w (lane rk.1 rk.2)⟩] := by
  simp only [elemStep, hacc, hmask, State.maskBit_zero, Bool.or_true, not_true_eq_false, if_false, hf,
    State.laneRnd_of_ne _ t hrnd]
  exact ⟨trivial, rfl⟩

theorem cells_elemChunk (t p : Nat) (pr : List W64) (n : Nat) (sel : Bool) :
    (elemChunk t p c pr w n sel f s).1.cells = (chunkCells (winOf pr (inD w)).rows (winOf pr (inD w)).cols n).map
      (fun rk => ⟨rk.1, rk.2, laneCode c pr w (lane rk.1 rk.2)⟩) :=
  foldl_appends (π := fun acc : ChunkOut × State => acc.1.cells) (I := fun acc => acc.2 = s)
    (elemStep_unmasked hmask hrnd hf t p pr sel) _ rfl

end

theorem cells_cmpChunk (p : Nat) (pr : List W64) (n : Nat) (op : Cmp) (s : State) :
    let x := winOf pr (inA w)
    (cmpChunk p c pr w n op s).1.cells = (chunkCells x.rows x.cols n).map (fun rk =>
      ⟨rk.1, rk.2, if (laneCmp op (vxStrict c) (s.winRead p c.held (vxStrict c) x rk.1 rk.2)
        (s.opB p c.held (vxStrict c) pr w rk.1 rk.2)).1 then 1 else 0⟩) := by
  simp only [cmpChunk, hmask, State.maskBit_zero, if_true]
  exact foldl_appends (π := ChunkOut.cells) (I := fun _ => True) (fun _ _ _ => ⟨trivial, rfl⟩) _ trivial

end

/-! ## The operation of each code (R203) -/

/-- The basic operations, each with the OP of its instruction. -/
def basicCodes : List (Basic × Nat) :=
  [(.add, 0x01), (.sub, 0x02), (.mul, 0x03), (.fma, 0x04), (.div, 0x05), (.sqrt, 0x06), (.min, 0x07), (.max, 0x08),
   (.abs, 0x09), (.neg, 0x0A), (.copy, 0x0B)]

/-- The comparisons, each with the OP of its instruction. -/
def cmpCodes : List (Cmp × Nat) := [(.lt, 0x20), (.le, 0x21), (.eq, 0x22), (.ne, 0x23)]

/-- The lane of a basic operation under a rounding that draws nothing. -/
def basicLane (op : Basic) (p : Nat) (c : Cmd) (pr : List W64) (w : Nat) (s : State) (r k : Nat) : Lane :=
  let st := vxStrict c
  let z : Num := .fin false 0 0
  laneBasic op st (rndOf (vxRnd c) 0) (s.winRead p c.held st (winOf pr (inA w)) r k)
    (if opForm (inOp w) = some .unary then z else s.opB p c.held st pr w r k)
    (if opForm (inOp w) = some .ternary then s.opC p c.held st pr w r k else z)

theorem fnBasic_of_ne {c : Cmd} (hrnd : vxRnd c ≠ 5) (op : Basic) (t p : Nat) (pr : List W64) (w : Nat) (s : State)
    (r k : Nat) : fnBasic op t p c pr w s r k = (basicLane op p c pr w s r k, s) := by
  simp only [fnBasic, State.laneRnd_of_ne _ t hrnd, basicLane]

theorem chunkOf_basic (t p : Nat) (c : Cmd) (pr : List W64) (w n : Nat) (s : State) :
    ∀ x ∈ basicCodes, inOp w = x.2 → chunkOf t p c pr w n s = elemChunk t p c pr w n false (fnBasic x.1 t p c pr w) s := by
  simp only [basicCodes, List.forall_mem_cons, List.not_mem_nil, false_implies, implies_true, and_true]
  and_intros <;> exact fun hw => by simp only [chunkOf, hw]

theorem chunkOf_cmp (t p : Nat) (c : Cmd) (pr : List W64) (w n : Nat) (s : State) :
    ∀ x ∈ cmpCodes, inOp w = x.2 → chunkOf t p c pr w n s = cmpChunk p c pr w n x.1 s := by
  simp only [cmpCodes, List.forall_mem_cons, List.not_mem_nil, false_implies, implies_true, and_true]
  and_intros <;> exact fun hw => by simp only [chunkOf, hw]

/-! ## Special operands (R206) -/

theorem laneFunc_special {op : Func1} {a x : Num} {fl : BitVec 5} (hn : a.isNaN = false) (h : allow1 op a = .special x fl)
    (strict : Bool) (md : Rnd) (free : W32) : laneFunc op strict md free a = laneRound strict .near x fl := by
  simp only [laneFunc, hn, h, Bool.false_eq_true, if_false]

theorem laneFunc_gives {op : Func1} {strict : Bool} {md : Rnd} {free : W32} {a x : Num} {fl : BitVec 5} {l : Lane}
    (h : allow1 op a = .special x fl) (hn : a.isNaN = false) (hl : laneRound strict .near x fl = l) :
    laneFunc op strict md free a = l := (laneFunc_special hn h strict md free).trans hl

theorem laneRound_zero (strict n : Bool) :
    laneRound strict .near (.fin n 0 0) noFlags = ⟨if n then 0x80000000 else 0, 0⟩ := by
  revert strict n
  decide

theorem laneRound_one (strict n : Bool) :
    laneRound strict .near (.fin n 1 0) noFlags = ⟨if n then 0xBF800000 else 0x3F800000, 0⟩ := by
  revert strict n
  decide

theorem laneRound_inf (strict n : Bool) {fl : BitVec 5} (h : fl = noFlags ∨ fl = fDivZero) :
    laneRound strict .near (.inf n) fl = ⟨if n then 0xFF800000 else 0x7F800000, fl⟩ := by
  obtain rfl | rfl := h <;> (revert strict n; decide)

theorem laneRound_nanCanon (strict : Bool) : laneRound strict .near nanCanon fInvalid = ⟨0x7FC00000, fInvalid⟩ := by
  revert strict
  decide

theorem laneRound_ite {strict n : Bool} {x y : Num} {fl g : BitVec 5} {u v : W32}
    (hx : laneRound strict .near x fl = ⟨u, g⟩) (hy : laneRound strict .near y fl = ⟨v, g⟩) :
    laneRound strict .near (if n then x else y) fl = ⟨if n then u else v, g⟩ := by
  cases n
  · exact hy
  · exact hx

/-- An operation that is invalid for its operand gives a NaN and raises INVALID alone. -/
theorem laneFunc_invalid {op : Func1} {a : Num} (hn : a.isNaN = false) (h : allow1 op a = .special nanCanon fInvalid)
    (strict : Bool) (md : Rnd) (free : W32) : (fp32Num (laneFunc op strict md free a).word).isNaN = true ∧
      (laneFunc op strict md free a).flags = fInvalid := by
  rw [laneFunc_special hn h, laneRound_nanCanon]
  exact ⟨rfl, rfl⟩

end Sys2Proof.Machine

open Sys2Proof Sys2Proof.Machine

/-- Settles O28: without mask and draws a chunk's cells are a map over its elements; a special operand's result is the
number that `allow1` lists, rounded. -/
theorem vectorOperationsComputeTheirResults : Obligations.VectorOperationsComputeTheirResults := by
  refine ⟨?basic, ?compare, ?special⟩
  case basic =>
    intro op code t p c pr w n s hop hw hmask hrnd d z
    rw [chunkOf_basic t p c pr w n s _ hop hw, ← hw]
    exact cells_elemChunk hmask hrnd (fnBasic_of_ne hrnd op t p pr w s) t p pr n false
  case compare =>
    intro op code t p c pr w n s hop hw hmask x
    rw [chunkOf_cmp t p c pr w n s _ hop hw]
    exact cells_cmpChunk hmask p pr n op s
  case special =>
    intro strict md f n e m hm z inf
    have hzero := laneRound_zero strict
    have hone := laneRound_one strict
    have hinf := fun n => laneRound_inf strict n (.inl rfl)
    have hdiv := fun n => laneRound_inf strict n (.inr rfl)
    refine ⟨?exp2_inf, ?exp_inf, ?log2_zero, ?ln_zero, ?negative, ?log2_inf, ?ln_inf, ?rcp_zero, ?rcp_inf, ?rsqrt_zero,
      ?rsqrt_inf, ?tanh_inf, ?sigmoid_inf, ?silu_inf, ?trig_inf⟩
    case exp2_inf | exp_inf => exact laneFunc_gives rfl rfl (laneRound_ite (hzero false) (hinf false))
    case log2_zero | ln_zero => exact laneFunc_gives rfl rfl (hdiv true)
    case negative =>
      intro op hop
      refine laneFunc_invalid rfl ?_ strict md f
      revert op
      simp [allow1, Nat.ne_of_gt hm]
    case log2_inf | ln_inf => exact laneFunc_gives rfl rfl (hinf false)
    case rcp_zero | rsqrt_zero => exact laneFunc_gives rfl rfl (hdiv n)
    case rcp_inf => exact laneFunc_gives rfl rfl (hzero n)
    case rsqrt_inf => exact laneFunc_gives rfl rfl (hzero false)
    case tanh_inf => exact laneFunc_gives rfl rfl (hone n)
    case sigmoid_inf => exact laneFunc_gives rfl rfl (laneRound_ite (hzero false) (hone false))
    case silu_inf => exact laneFunc_gives rfl rfl (laneRound_ite (hzero true) (hinf false))
    case trig_inf =>
      intro op hop
      refine laneFunc_invalid rfl ?_ strict md f
      revert op
      simp [allow1]
end

section
/-!
The stream commands (R216, R219, R222, R224): a command of a stream context changes that context alone in the stream units,
and ends once it is performed. It settles O29.
-/
namespace Sys2Proof.Machine
set_option Elab.async false

/-! ## One stream context changes (R215) -/

/-- The stream units of two states differ in the context of one stream and in a tile's counts of requests at most. -/
structure State.StreamOnly (t sid : Nat) (s u : State) : Prop where
  cmds : (u.ste t).cmds = (s.ste t).cmds
  streams : ∀ k, k ≠ sid → (u.ste t).stream k = (s.ste t).stream k
  units : ∀ k, k ≠ t → u.ste k = s.ste k

section
variable {t sid : Nat} {s v u : State}

theorem State.StreamOnly.of_stes (h : u.stes = s.stes) : State.StreamOnly t sid s u := by
  constructor <;> intros <;> rw [State.ste_of_stes h]

theorem State.StreamOnly.trans (hsv : State.StreamOnly t sid s v) (hvu : State.StreamOnly t sid v u) :
    State.StreamOnly t sid s u where
  cmds := hvu.cmds.trans hsv.cmds
  streams k hk := (hvu.streams k hk).trans (hsv.streams k hk)
  units k hk := (hvu.units k hk).trans (hsv.units k hk)

theorem State.StreamOnly.of_setStream {x : Stream} (h : u.stes = (s.setStream t sid x).stes) :
    State.StreamOnly t sid s u where
  cmds := by simp [State.ste_of_stes h, State.setStream, Ste.setStream]
  streams k hk := by rw [State.ste_of_stes h, State.stream_setStream, if_neg hk]
  units k hk := by simp [State.ste_of_stes h, State.setStream, hk]

theorem State.StreamOnly.setSent (s : State) (t sid n : Nat) :
    State.StreamOnly t sid s (s.setSte t { s.ste t with sent := n }) where
  cmds := by simp
  streams k _ := by simp [Ste.stream]
  units k hk := by simp [hk]

end

/-! ## Issue keeps what an STE_OPEN binds (R216, R225) -/

/-- A stream context still bound as another is, with its frontiers and fill bits. -/
def Stream.BoundAs (y x : Stream) : Prop :=
  y.words = x.words ∧ y.store = x.store ∧ y.queue = x.queue ∧ y.fA = x.fA ∧ y.fB = x.fB ∧ y.fill = x.fill ∧
    (x.st ≠ .idle → y.st ≠ .idle)

theorem Stream.BoundAs.refl (x : Stream) : x.BoundAs x := ⟨rfl, rfl, rfl, rfl, rfl, rfl, id⟩

theorem Stream.boundAs_halt (x : Stream) : x.halt.BoundAs x := ⟨rfl, rfl, rfl, rfl, rfl, rfl, fun _ => by simp [Stream.halt]⟩

theorem Stream.boundAs_fault (x : Stream) (off : Nat) : (x.fault off).BoundAs x :=
  ⟨rfl, rfl, rfl, rfl, rfl, rfl, fun _ => by simp [Stream.fault]⟩

/-- A state in which one stream context has moved on and is still bound as it was. -/
def State.StreamStep (t sid : Nat) (s u : State) : Prop :=
  State.StreamOnly t sid s u ∧ ((u.ste t).stream sid).BoundAs ((s.ste t).stream sid)

theorem State.StreamStep.of_setStream {t sid : Nat} {s v u : State} {x : Stream} (hv : State.StreamOnly t sid s v)
    (h : u.stes = (v.setStream t sid x).stes) (hx : x.BoundAs ((s.ste t).stream sid)) : State.StreamStep t sid s u :=
  ⟨hv.trans (.of_setStream h), by rwa [State.stream_of_stes h]⟩

/-- The next request, a halt or a fault: whichever an issue brings about, the other contexts stay and this one stays
bound. -/
theorem State.issueNext_step (s : State) (t sid : Nat) : State.StreamStep t sid s (s.issueNext t sid) := by
  have hsame : State.StreamStep t sid s s := ⟨.of_stes rfl, .refl _⟩
  rw [State.issueNext.eq_def]
  dsimp only
  split
  case isTrue => exact hsame
  case isFalse =>
    split
    case h_1 => exact hsame
    case h_2 p lc _ =>
      split
      case h_1 b v hx =>
        have hv := State.xlatePage_stes hx
        split
        · refine .of_setStream (.of_stes hv) (State.haltStream_stes ..) ?_
          rw [State.ste_of_stes hv]
          exact Stream.boundAs_halt _
        · refine .of_setStream (.of_stes hv) (State.faultStream_stes ..) ?_
          rw [State.ste_of_stes hv]
          exact Stream.boundAs_fault _ _
      case h_2 m v hx =>
        have hv := State.xlatePage_stes hx
        refine .of_setStream ((State.StreamOnly.of_stes hv).trans (.setSent ..))
          ((State.hostAsk_ite_stes ..).trans ((State.progress_see (π := State.stes) _ _ _ _ (by simp)).trans
            (State.stallClock_see (π := State.stes) _ _ _ _ (by simp)))) ?_
        exact ⟨rfl, rfl, rfl, rfl, rfl, rfl, id⟩

/-! ## The state in which an STE_OPEN is judged (R216, R219) -/

/-- The stream context bound, and its first request issued where it may be. -/
def State.openStream (s : State) (t sid : Nat) (r : CmdRef) (c : Cmd) : State :=
  let v := if ((s.ste t).stream sid).bound then s else s.bindStream t sid r c
  if ((v.ste t).stream sid).nextSeq = 0 then v.issueNext t sid else v

theorem State.commands_openStream (s : State) (t sid : Nat) (r : CmdRef) (c : Cmd) :
    (s.openStream t sid r c).commands = s.commands := by
  change see State.commands _ = see State.commands s
  unfold State.openStream
  dsimp only
  split <;> split <;> simp

/-- A stream context as the STE_OPEN of a reference binds it (R216). -/
def Stream.OpenedBy (y : Stream) (r : CmdRef) (c : Cmd) : Prop :=
  y.words = c.words ∧ y.store = opStore (c.word 6) ∧ y.queue = r.q ∧ y.fA = 0 ∧ y.fB = 0 ∧ y.fill = [] ∧ y.st ≠ .idle

theorem Stream.OpenedBy.of_boundAs {x y : Stream} {r : CmdRef} {c : Cmd} (hx : x.OpenedBy r c) (hy : y.BoundAs x) :
    y.OpenedBy r c := by
  obtain ⟨hwords, hstore, hqueue, hA, hB, hfill, hst⟩ := hy
  rw [Stream.OpenedBy, hwords, hstore, hqueue, hA, hB, hfill]
  obtain ⟨ow, os, oq, oA, oB, ofill, hne⟩ := hx
  exact ⟨ow, os, oq, oA, oB, ofill, hst hne⟩

theorem State.bindStream_opens (s : State) (t sid : Nat) (r : CmdRef) (c : Cmd) :
    State.StreamOnly t sid s (s.bindStream t sid r c) ∧ (((s.bindStream t sid r c).ste t).stream sid).OpenedBy r c := by
  have hstes : ∃ x : Stream, x.OpenedBy r c ∧ (s.bindStream t sid r c).stes = (s.setStream t sid x).stes :=
    ⟨_, ⟨rfl, rfl, rfl, rfl, rfl, rfl, by simp⟩, (State.stallClock_see (π := State.stes) _ _ _ _ (by simp)).trans
      (State.setStream_stes (by simp) _ _ _)⟩
  obtain ⟨x, hx, h⟩ := hstes
  exact ⟨.of_setStream h, by rwa [State.stream_of_stes h]⟩

theorem State.openStream_opens (s : State) (t sid : Nat) (r : CmdRef) (c : Cmd) :
    State.StreamOnly t sid s (s.openStream t sid r c) ∧ (((s.ste t).stream sid).bound = false →
      (((s.openStream t sid r c).ste t).stream sid).OpenedBy r c) := by
  have hissue : ∀ v : State, State.StreamStep t sid v
      (if ((v.ste t).stream sid).nextSeq = 0 then v.issueNext t sid else v) := by
    intro v
    split
    · exact v.issueNext_step t sid
    · exact ⟨.of_stes rfl, .refl _⟩
  unfold State.openStream
  cases hb : ((s.ste t).stream sid).bound with
  | true =>
    obtain ⟨honly, -⟩ := hissue s
    exact ⟨honly, by simp⟩
  | false =>
    obtain ⟨honly, hbound⟩ := hissue (s.bindStream t sid r c)
    obtain ⟨hbind, hopen⟩ := s.bindStream_opens t sid r c
    exact ⟨hbind.trans honly, fun _ => hopen.of_boundAs hbound⟩

/-! ## A performed command (R83, R215) -/

/-- A command of a stream context has been performed: it is outstanding no more and has completed, and the other contexts
are as they were. -/
def State.StreamDone (t sid : Nat) (r : CmdRef) (s u : State) : Prop :=
  (u.ste t).cmds = (s.ste t).cmds.filter (fun y => decide (y.2 ≠ r)) ∧
    (∀ k, k ≠ sid → (u.ste t).stream k = (s.ste t).stream k) ∧ (∀ k, k ≠ t → u.ste k = s.ste k) ∧
    (r.stage = none → Completed s u r)

/-- The first outstanding command is the one that its reference names. -/
theorem State.cmdAt_of_steHead {s : State} {t sid op : Nat} {r : CmdRef} {c : Cmd}
    (h : s.steHead t sid op = some (r, c)) : s.cmdAt r = some c := by
  unfold State.steHead at h
  split at h
  · contradiction
  · obtain ⟨d, hd, h⟩ := Option.bind_eq_some_iff.1 h
    split at h
    · obtain ⟨rfl, rfl⟩ := Prod.mk.inj (Option.some.inj h)
      exact hd
    · contradiction

theorem State.steDone_stes (s : State) (t : Nat) (r : CmdRef) : (s.steDone t r).stes =
    (s.setSte t { s.ste t with cmds := (s.ste t).cmds.filter (fun x => decide (x.2 ≠ r)) }).stes :=
  (State.progress_see (π := State.stes) _ _ _ _ (by simp)).trans (State.completeRef_see (π := State.stes) _ _ (by simp))

theorem State.steDone_completed {s : State} {t : Nat} {r : CmdRef} {c : Cmd} (ho : (s.queOwner r.q).isSome = true)
    (hc : s.cmdAt r = some c) (hstage : r.stage = none) : Completed s (s.steDone t r) r := by
  obtain ⟨⟨p, q⟩, ho⟩ := Option.isSome_iff_exists.1 ho
  generalize hv : s.setSte t { s.ste t with cmds := (s.ste t).cmds.filter (fun x => decide (x.2 ≠ r)) } = v
  have hsame : v.commands = s.commands := hv ▸ rfl
  obtain ⟨hdone, -, -⟩ := State.completeCmd_completed (State.commands_iff.1 hsame).1
    ((State.queOwner_of_commands hsame _).trans ho) ((State.cmdAt_of_commands hsame r).trans hc)
  have hque : (s.steDone t r).que r.q = (v.completeCmd r).que r.q := by
    rw [State.steDone, hv, State.completeRef, hstage]
    exact State.progress_see (π := State.queOf r.q) _ _ _ _ (by simp)
  rw [Completed, hque]
  exact hdone

section
variable {t sid op : Nat} {s w : State} {r : CmdRef} {c : Cmd} (ho : (s.queOwner r.q).isSome = true)
  (hhead : s.steHead t sid op = some (r, c)) (hcmds : (w.que r.q).cmds = (s.que r.q).cmds) (himg : w.img = s.img)
include ho hhead hcmds himg

/-- The end of a command in a state that has the queue's commands of `s` and differs from it in the stream's own context. -/
theorem State.steDone_done (honly : State.StreamOnly t sid s w) : State.StreamDone t sid r s (w.steDone t r) ∧
    ((w.steDone t r).ste t).stream sid = (w.ste t).stream sid := by
  have hste : ∀ k, (w.steDone t r).ste k = _ := State.ste_of_stes (w.steDone_stes t r)
  refine ⟨⟨?_, fun k hk => ?_, fun k hk => ?_, fun hstage => ?_⟩, ?_⟩
  · simp [hste, honly.cmds]
  · rw [hste, ← honly.streams k hk]
    simp [Ste.stream]
  · rw [hste, ← honly.units k hk]
    simp [hk]
  · have hc := State.cmdAt_of_steHead hhead
    obtain ⟨q, h, i⟩ := r
    obtain rfl : i = none := hstage
    rw [State.cmdAt_whole, ← hcmds, ← State.cmdAt_whole] at hc
    rw [← State.queOwner_of_img himg] at ho
    rw [Completed, ← hcmds]
    exact State.steDone_completed ho hc rfl
  · rw [hste]
    simp [Ste.stream]

theorem does_steDone {i : Instr} {x : Stream} (hexec : exec i s = .next (w.steDone t r))
    (hstes : w.stes = (s.setStream t sid x).stes) :
    Does i s (fun u => (u.ste t).stream sid = x ∧ State.StreamDone t sid r s u) := by
  obtain ⟨hdone, hstream⟩ := State.steDone_done ho hhead hcmds himg (.of_setStream hstes)
  exact ⟨_, hexec, hstream.trans (State.stream_of_stes hstes), hdone⟩

end

/-! ## The commands' rows (R219, R222, R224) -/

section
variable {t : Fin 48} {sid : Fin 16} {s : State} {r : CmdRef} {c : Cmd}

theorem exec_steOpen_of_head (h : s.steHead t.val sid.val 0x01 = some (r, c)) : exec (.steOpen t sid) s =
    .next (if (((s.openStream t.val sid.val r c).ste t.val).stream sid.val).firstWaits then
      s.openStream t.val sid.val r c else (s.openStream t.val sid.val r c).steDone t.val r) := by
  simp only [exec, execSteOpen, h]
  rfl

/-- An STE_OPEN that has nothing to wait for. -/
theorem does_openStream (ho : (s.queOwner r.q).isSome = true) (hhead : s.steHead t.val sid.val 0x01 = some (r, c))
    (hw : (((s.openStream t.val sid.val r c).ste t.val).stream sid.val).firstWaits = false) : Does (.steOpen t sid) s
      (fun u => (((s.ste t.val).stream sid.val).bound = false → ((u.ste t.val).stream sid.val).OpenedBy r c) ∧
        State.StreamDone t.val sid.val r s u) := by
  obtain ⟨honly, hopen⟩ := s.openStream_opens t.val sid.val r c
  obtain ⟨hques, -, himg⟩ := State.commands_iff.1 (s.commands_openStream t.val sid.val r c)
  obtain ⟨hdone, hstream⟩ := State.steDone_done ho hhead (congrArg Que.cmds (State.que_of_ques hques r.q)) himg honly
  refine ⟨_, (exec_steOpen_of_head hhead).trans (congrArg _ (if_neg (ne_true_of_eq_false hw))), fun hb => ?_, hdone⟩
  rw [hstream]
  exact hopen hb

/-- A stream context whose frontier C or P has moved over `n` bytes, their fill bits set to `v` (R222). -/
def Stream.pass (x : Stream) (n : Nat) (v : Bool) : Stream := { x.setFill x.fB n v with fB := x.fB + n }

/-- The state after a stream's frontier C or P has moved. -/
def State.passBytes (s : State) (t sid n : Nat) (v : Bool) : State :=
  (s.setStream t sid (((s.ste t).stream sid).pass n v)).stallClock t sid false

theorem exec_steRelease_of_head (h : s.steHead t.val sid.val 0x02 = some (r, c)) : exec (.steRelease t sid) s =
    .next (if ((s.ste t.val).stream sid.val).fA < ((s.ste t.val).stream sid.val).fB + stBytes c then s
      else (s.passBytes t.val sid.val (stBytes c) false).steDone t.val r) := by
  simp only [exec, execSteRelease, h]
  rfl

theorem exec_stePush_of_head (h : s.steHead t.val sid.val 0x03 = some (r, c)) : exec (.stePush t sid) s =
    .next (if s.handOver t.val r (((s.ste t.val).stream sid.val).interval ((s.ste t.val).stream sid.val).fB (stBytes c))
        = .wait then s
      else (s.passBytes t.val sid.val (stBytes c) true).steDone t.val r) := by
  simp only [exec, execStePush, h]
  rfl

/-- The last write of a store to host memory. -/
def Stream.lastWr (x : Stream) : Option HostWr := if x.store then x.hostAt else none

/-- The state in which a stream context has returned to IDLE and its host writes are noted (R224, R336). -/
def State.closeStream (s : State) (t sid : Nat) (r : CmdRef) : State :=
  ((s.noteHost r.q ((s.ste t).stream sid).lastWr).setStream t sid .reset).stopTimer (.stall t sid)

theorem exec_steClose_of_head (h : s.steHead t.val sid.val 0x04 = some (r, c)) : exec (.steClose t sid) s =
    .next (if ((s.ste t.val).stream sid.val).st = .halted ∨ ((s.ste t.val).stream sid.val).st = .faulted ∨
        ((s.ste t.val).stream sid.val).fA < ((s.ste t.val).stream sid.val).len then s
      else (s.closeStream t.val sid.val r).steDone t.val r) := by
  simp only [exec, execSteClose, h]
  rfl

variable {op : Nat} (ho : (s.queOwner r.q).isSome = true) (hhead : s.steHead t.val sid.val op = some (r, c))
include ho hhead

/-- A RELEASE or a PUSH that is performed. -/
theorem does_passBytes {i : Instr} {n : Nat} {v : Bool}
    (hexec : exec i s = .next ((s.passBytes t.val sid.val n v).steDone t.val r)) : Does i s (fun u =>
      (u.ste t.val).stream sid.val = ((s.ste t.val).stream sid.val).pass n v ∧ State.StreamDone t.val sid.val r s u) := by
  have hsee : ∀ {α : Type} {π : State → α}, Ign π .stes ∧ Ign π .timers →
      see π (s.passBytes t.val sid.val n v) = see π s := fun hW => by simp [State.passBytes, hW]
  refine does_steDone ho hhead ?_ (hsee (π := State.img) (by simp)) hexec
    (State.stallClock_see (π := State.stes) _ _ _ _ (by simp))
  exact congrArg Que.cmds (hsee (π := State.queOf r.q) (by simp))

/-- A CLOSE that is performed. -/
theorem does_closeStream {i : Instr} (hexec : exec i s = .next ((s.closeStream t.val sid.val r).steDone t.val r)) :
    Does i s (fun u => (u.ste t.val).stream sid.val = .reset ∧ State.StreamDone t.val sid.val r s u) := by
  obtain ⟨hnote, -⟩ := State.que_noteHost s r.q r.q ((s.ste t.val).stream sid.val).lastWr
  have hque : (s.closeStream t.val sid.val r).que r.q = _ :=
    (State.stopTimer_see (π := State.queOf r.q) _ _ (by simp)).trans (State.setStream_see _ _ _ _ (by simp))
  refine does_steDone ho hhead ((congrArg Que.cmds hque).trans hnote) ?_ hexec ?_
  · exact (State.stopTimer_see (π := State.img) _ _ (by simp)).trans
      ((State.setStream_see _ _ _ _ (by simp)).trans (State.noteHost_see _ _ _ (by simp)))
  · exact (State.stopTimer_see (π := State.stes) _ _ (by simp)).trans
      (State.setStream_stes (State.noteHost_see (π := State.stes) _ _ _ (by simp)) _ _ _)

end

end Sys2Proof.Machine

open Sys2Proof Sys2Proof.Machine

/-- Settles O29: RELEASE, PUSH and CLOSE put one new context into the state and end; the issue of an STE_OPEN leaves the
context bound whatever comes of it. -/
theorem streamCommandsMoveFrontiers : Obligations.StreamCommandsMoveFrontiers := by
  intro t sid s r c x done ho
  refine ⟨?opens, ?release, ?push, ?close⟩
  case opens =>
    intro hhead v w
    exact ⟨fun hw => (exec_steOpen_of_head hhead).trans (congrArg _ (if_pos hw)), fun hw => does_openStream ho hhead hw⟩
  case release =>
    intro hhead
    have hexec := exec_steRelease_of_head hhead
    exact ⟨fun hlt => hexec.trans (congrArg _ (if_pos hlt)),
      fun hle => does_passBytes ho hhead (hexec.trans (congrArg _ (if_neg (not_lt.2 hle))))⟩
  case push =>
    intro hhead hgo
    refine does_passBytes ho hhead ((exec_stePush_of_head hhead).trans (congrArg _ (if_neg ?_)))
    rw [hgo]
    decide
  case close =>
    intro hhead
    have hexec := exec_steClose_of_head hhead
    refine ⟨fun hlt => hexec.trans (congrArg _ (if_pos (.inr (.inr hlt)))), fun hle hhalt hfault => ?_⟩
    exact does_closeStream ho hhead (hexec.trans (congrArg _
      (if_neg (not_or.2 ⟨hhalt, not_or.2 ⟨hfault, not_lt.2 hle⟩⟩))))
end

section
/-!
The stages of a chain (R239, R243, R245): what it takes for a stage's turn to have come, and where a BARRIER or a POP stage
that begins goes. It settles O35.
-/
namespace Sys2Proof.Machine
set_option Elab.async false

/-! ## The turn of a stage (R215, R243, R245) -/

/-- The word of a chain's stage. -/
def Chain.word (ch : Chain) (i : Nat) : Nat := (ch.stages.getD i 0).toNat

/-- What stage `i` asks of an earlier stage `j`: rules 1, 2 and 4 of R243, and the order of one stream's stages (R215). -/
def Chain.LetsPass (ch : Chain) (i j : Nat) : Prop :=
  (stKind (ch.word j) ∈ [7, 8, 9] → stageOver (ch.st.getD j .complete) = true) ∧
    (stKind (ch.word i) ∈ [7, 9] → stageOver (ch.st.getD j .complete) = true) ∧
    (stKind (ch.word i) ≤ 3 → stKind (ch.word j) ≤ 3 → ch.st.getD j .complete ≠ .waiting) ∧
    (streamStage (ch.word i) = true → streamStage (ch.word j) = true → stAux (ch.word i) = stAux (ch.word j) →
      ch.st.getD j .complete ≠ .waiting)

/-- A stage's turn, read as a proposition. -/
structure Chain.HasTurn (ch : Chain) (i : Nat) : Prop where
  started : ch.started = true
  runs : ch.stop = false
  waits : ch.st.getD i .complete = .waiting
  sound : .faulted ∉ ch.st
  passed : ∀ j < i, ch.LetsPass i j

theorem Chain.hasTurn_of_turn {ch : Chain} {i : Nat} (h : ch.turn i = true) : ch.HasTurn i := by
  simp only [Chain.turn, Bool.and_eq_true, Bool.not_eq_true', decide_eq_true_eq, List.all_eq_true, List.mem_range] at h
  obtain ⟨⟨⟨⟨hstarted, hstop⟩, hwait⟩, hsound⟩, hpass⟩ := h
  refine ⟨hstarted, hstop, hwait, fun hf => hsound _ hf rfl, fun j hj => ?_⟩
  obtain ⟨⟨⟨hown, hall⟩, hmxe⟩, hste⟩ := hpass j hj
  refine ⟨fun hk => ?_, fun hk => ?_, fun hi hk => ?_, fun hi hk ha => ?_⟩
  · rwa [if_pos] at hown
    simpa [or_left_comm, Chain.word] using hk
  · rwa [if_pos] at hall
    simpa [Chain.word] using hk
  · rw [if_pos] at hmxe
    · simpa using hmxe
    · exact ⟨hi, hk⟩
  · rw [if_pos] at hste
    · simpa using hste
    · exact ⟨hi, hk, ha⟩

theorem Chain.turn_of_stopped {ch : Chain} (h : ch.stop = true ∨ .faulted ∈ ch.st) (i : Nat) : ch.turn i = false := by
  rw [← Bool.not_eq_true]
  intro hturn
  obtain ⟨-, hruns, -, hsound, -⟩ := Chain.hasTurn_of_turn hturn
  exact h.elim (by simp [hruns]) hsound

/-! ## A stage begins (R243) -/

/-- The chain with a stage begun. -/
def Chain.begin (ch : Chain) (i : Nat) : Chain := { ch with st := ch.st.set i .begun }

theorem Chain.HasTurn.not_dead_begin {ch : Chain} {i : Nat} (h : ch.HasTurn i) : (ch.begin i).dead = false := by
  have hsound : StageSt.faulted ∉ ch.st.set i .begun := fun hf =>
    (List.mem_or_eq_of_mem_set hf).elim h.sound (by simp)
  simp [Chain.dead, Chain.begin, h.runs, hsound]

theorem State.setStage_begun {s : State} {q : Nat} {hd : W32} {i t : Nat} {ch : Chain}
    (hch : s.chainOf ⟨q, hd, some i⟩ = some (t, ch)) (h : ch.HasTurn i) :
    s.setStage ⟨q, hd, some i⟩ .begun = s.putChain t (ch.begin i) := by
  unfold State.setStage
  rw [hch]
  exact if_neg (by simpa [Chain.begin] using h.not_dead_begin)

section
variable {t : Fin 48} {q : Fin 2048} {i : Fin 121} {s : State} {p lq : Nat} (hq : s.queByNum q.val = some (p, lq))
include hq

theorem exec_chainStageBegin_none
    (h : ∀ ch ∈ s.chain t.val, ch.ref.q = queKey p lq → ch.turn i.val = false) :
    exec (.chainStageBegin t q i) s = .next s := by
  have hfind : (s.chain t.val).find? (fun ch => decide (ch.ref.q = queKey p lq) && ch.turn i.val) = none := by
    simpa [List.find?_eq_none] using h
  simp only [exec, execChainStageBegin, hq, hfind]

variable {ch : Chain} {c : Cmd}
  (hfind : (s.chain t.val).find? (fun x => decide (x.ref.q = queKey p lq) && x.turn i.val) = some ch)
  (hc : (s.q p lq).cmds.find? (fun d => decide (d.head = ch.ref.head)) = some c)
  (hclear : ch.clear i.val (ch.sets.getD i.val ([], [])).1 [] = true)
include hfind hc hclear

/-- A stage of the chain's own, whose turn has come and whose reads are free, begins. -/
theorem exec_chainStageBegin_own (hk : 6 < stKind (ch.word i.val)) :
    exec (.chainStageBegin t q i) s = .next (s.beginOwn t.val p ch i.val (stageCmd c ch i.val)) := by
  have hk : ¬ stKind (ch.stages.getD i.val 0).toNat ≤ 6 := not_le.2 hk
  simp only [exec, execChainStageBegin, hq, hfind, hc, hk, hclear, if_true, if_false]

end

theorem State.chain_putChain (s : State) (t : Nat) (ch : Chain) :
    (s.putChain t ch).chain t = (s.chain t).map (fun x => if x.ref = ch.ref then ch else x) := by
  simp [State.putChain]

section
variable {s : State} {t p i : Nat} {ch : Chain} {c : Cmd} (hch : s.chainOf ⟨ch.ref.q, ch.ref.head, some i⟩ = some (t, ch))
  (h : ch.HasTurn i)
include hch h

theorem State.beginOwn_pop (hk : stKind (ch.word i) = 8) : s.beginOwn t p ch i c =
    let k := ringKey p (stAux (ch.word i))
    (s.putChain t (ch.begin i)).setRing k { s.ring k with pops := (s.ring k).pops ++ [(stageParty t ch i, false)] } := by
  unfold Chain.word at hk
  simp only [State.beginOwn, hk, State.setStage_begun hch h]
  rfl

theorem State.beginOwn_barrier (hk : stKind (ch.word i) = 7) : s.beginOwn t p ch i c =
    let k := barKey p (stAux (ch.word i))
    (s.putChain t (ch.begin i)).setBar k
      { s.bar k with inbound := (s.bar k).inbound ++ [(t, ⟨ch.ref.q, ch.ref.head, some i⟩)] } := by
  unfold Chain.word at hk
  simp only [State.beginOwn, hk, State.setStage_begun hch h]
  rfl

end

end Sys2Proof.Machine

open Sys2Proof Sys2Proof.Machine

/-- Settles O35: a stage's turn is read condition by condition; a stage that begins leaves its chain on the tile, as a
chain that has not stopped is not dead, and one command waits at the home. -/
theorem chainStagesBeginInTheirTurn : Obligations.ChainStagesBeginInTheirTurn := by
  refine ⟨?starts, ?waits, ?order, ?stopped, ?begins⟩
  case starts =>
    intro t s ch h
    simp only [exec, execMxeChain, h]
    rfl
  case waits => exact fun t q i s p lq hq h => exec_chainStageBegin_none hq h
  case order => exact fun ch i j hturn hj => (Chain.hasTurn_of_turn hturn).passed j hj
  case stopped => exact fun ch i h => Chain.turn_of_stopped h i
  case begins =>
    intro t q i s p lq ch c w hq hfind hc hch hclear chains
    have hsome := List.find?_some hfind
    have hturn : ch.HasTurn i.val := Chain.hasTurn_of_turn (Bool.and_eq_true_iff.1 hsome).2
    refine ⟨fun hk => ?pop, fun hk => ?barrier⟩
    case pop =>
      refine ⟨_, (exec_chainStageBegin_own hq hfind hc hclear ?_).trans
        (congrArg _ (State.beginOwn_pop hch hturn hk)), ?_, ?_, ?_⟩
      · exact (by decide : 6 < 8).trans_eq hk.symm
      · exact State.chain_putChain ..
      · exact (State.ring_setRing ..).trans (if_pos rfl)
      · exact (State.setRing_see (π := State.except [.chains, .rings]) _ _ _ (by simp)).trans
          (State.putChain_see _ _ _ (by simp))
    case barrier =>
      refine ⟨_, (exec_chainStageBegin_own hq hfind hc hclear ?_).trans
        (congrArg _ (State.beginOwn_barrier hch hturn hk)), ?_, ?_, ?_⟩
      · exact (by decide : 6 < 7).trans_eq hk.symm
      · exact State.chain_putChain ..
      · exact (State.bar_setBar ..).trans (if_pos rfl)
      · exact (State.setBar_see (π := State.except [.chains, .bars]) _ _ _ (by simp)).trans
          (State.putChain_see _ _ _ (by simp))
end

section
/-!
Rings (R246 to R248): what each push and pop leaves of its ring, and that none makes it longer than 256 entries. It
settles O36.
-/
namespace Sys2Proof.Machine
set_option Elab.async false

/-- What a command brings about holds of the one state that it leads to. -/
theorem Does.of_exec {i : Instr} {s t : State} {P : State → Prop} (h : Does i s P) (ht : exec i s = .next t) : P t := by
  obtain ⟨u, hu, hP⟩ := h
  cases hu.symm.trans ht
  exact hP

theorem State.ring_of_rings {s t : State} (h : t.rings = s.rings) (k : Nat) : t.ring k = s.ring k := by
  simp only [State.ring, h]

/-- A state whose rings are those of another with one ring changed. -/
theorem State.ring_of_setRing {s u : State} {k : Nat} {y : Ring} (h : u.rings = (s.setRing k y).rings) :
    u.ring k = y ∧ ∀ j, j ≠ k → u.ring j = s.ring j :=
  ⟨(State.ring_of_rings h k).trans (by simp), fun j hj => (State.ring_of_rings h j).trans (by simp [hj])⟩

/-! ## A party that faults -/

theorem State.failParty_halts {s u : State} {e : RingParty} (hsame : u.commands = s.commands)
    (ho : (s.queOwner e.ref.q).isSome = true) (hc : (s.cmdAt e.ref).isSome = true) (p : Nat) (b : Bad) :
    ((u.failParty p e b).que e.ref.q).halted = true := by
  cases e with
  | chain t c => exact State.failRef_halts hsame ho hc ..
  | nme k c =>
    unfold State.failParty
    split
    · exact State.failRef_halts ((State.endOp_see (π := State.commands) _ _ _ (by simp)).trans hsame) ho hc ..
    · exact State.failRef_halts hsame ho hc ..

/-- A party's fault leaves the ring as it stood, and halts the party's queue. -/
theorem State.failParty_leaves {s v : State} {k : Nat} {y : Ring} {e : RingParty} (hsame : v.commands = s.commands)
    (hrings : v.rings = (s.setRing k y).rings) (p : Nat) (b : Bad) : (v.failParty p e b).ring k = y ∧
      ((s.queOwner e.ref.q).isSome = true → (s.cmdAt e.ref).isSome = true →
        ((v.failParty p e b).que e.ref.q).halted = true) :=
  ⟨(State.ring_of_setRing ((State.failParty_see (π := State.rings) _ _ _ _ (by simp)).trans hrings)).1,
    fun ho hc => State.failParty_halts hsame ho hc _ _⟩

variable {p : Fin 8} {r : Fin 64} {s : State} {x : Ring} (hx : s.ring (ringKey p.val r.val) = x)
include hx

/-- A command that waits leaves the ring's length. -/
theorem entries_bounded_of_waits {i : Instr} {t : State} (hle : x.entries.length ≤ 256) (ht : exec i s = .next t)
    (hs : exec i s = .next s) : (t.ring (ringKey p.val r.val)).entries.length ≤ 256 := by
  cases hs.symm.trans ht
  rwa [hx]

/-! ## RING_PUSH (R247) -/

theorem exec_ringPush_none (he : nextPush x = none) : exec (.ringPush p r) s = .next s := by
  simp only [exec, execRingPush, hx, he]

section
variable {e : RingParty × (W64 × W64) × Bool} (he : nextPush x = some e)
include he

theorem exec_ringPush_held (hheld : s.partHolds p.val e.1.eng = true) : exec (.ringPush p r) s = .next s := by
  simp only [exec, execRingPush, hx, he, hheld, if_true]

variable (hfree : s.partHolds p.val e.1.eng = false)
include hfree

/-- A push into a ring with room. -/
theorem does_ringPush_room (hon : s.ringOn p.val r.val = true) (hown : s.partyCtx p.val e.1 = s.ringCtx p.val r.val)
    (hroom : x.entries.length < 256) : Does (.ringPush p r) s (fun u =>
      u.ring (ringKey p.val r.val) =
        { x with pushes := x.pushes.erase e, entries := x.entries ++ [e.2.1], tail := x.tail + 1 } ∧
      (∀ j, j ≠ ringKey p.val r.val → u.ring j = s.ring j)) := by
  simp only [Does, exec, execRingPush, hx, he, hfree, hon, hown, hroom, not_true_eq_false, ne_eq, if_true, if_false,
    Bool.false_eq_true]
  exact ⟨_, rfl, State.ring_of_setRing ((State.pushDone_see (π := State.rings) _ _ (by simp)).trans
    ((State.ledgerPart_see (π := State.rings) _ _ _ _ _ _ _ (by simp)).trans
      (State.countPart_see (π := State.rings) _ _ _ _ _ (by simp))))⟩

/-- A push into a full ring of FULL_MODE 0. -/
theorem does_ringPush_waits (hon : s.ringOn p.val r.val = true) (hown : s.partyCtx p.val e.1 = s.ringCtx p.val r.val)
    (hfull : x.entries.length = 256) (hmode : s.ringFaults p.val r.val = false) : Does (.ringPush p r) s (fun u =>
      u.ring (ringKey p.val r.val) = { x with pushes := x.pushes.map (fun y => if y = e then (y.1, y.2.1, true) else y) } ∧
      u.except [.rings, .blocks, .tals] = s.except [.rings, .blocks, .tals]) := by
  simp only [Does, exec, execRingPush, hx, he, hfree, hon, hown, hfull, hmode, lt_self_iff_false, not_true_eq_false, ne_eq,
    if_false, Bool.false_eq_true]
  refine ⟨_, rfl, (State.ring_of_setRing (s := s) ?_).1, ?_⟩
  · exact (State.countPart_see (π := State.rings) _ _ _ _ _ (by simp)).trans
      (State.flag_see (π := State.rings) _ _ _ _ _ (by simp))
  · exact (State.countPart_see (π := State.except [.rings, .blocks, .tals]) _ _ _ _ _ (by simp)).trans
      ((State.flag_see (π := State.except [.rings, .blocks, .tals]) _ _ _ _ _ (by simp)).trans
        (State.setRing_see (π := State.except [.rings, .blocks, .tals]) _ _ _ (by simp)))

/-- A push into a ring that is off, another context's, or full with FULL_MODE 1. -/
theorem does_ringPush_faults (h : s.ringOn p.val r.val = false ∨ s.partyCtx p.val e.1 ≠ s.ringCtx p.val r.val ∨
      (x.entries.length = 256 ∧ s.ringFaults p.val r.val = true)) : Does (.ringPush p r) s (fun u =>
      u.ring (ringKey p.val r.val) = { x with pushes := x.pushes.erase e } ∧ ((s.queOwner e.1.ref.q).isSome = true →
        (s.cmdAt e.1.ref).isSome = true → (u.que e.1.ref.q).halted = true)) := by
  by_cases hon : s.ringOn p.val r.val = true
  case neg =>
    simp only [Does, exec, execRingPush, hx, he, hfree, hon, not_false_eq_true, if_true, if_false, Bool.false_eq_true]
    exact ⟨_, rfl, State.failParty_leaves (by rfl) (by rfl) _ _⟩
  by_cases hown : s.partyCtx p.val e.1 = s.ringCtx p.val r.val
  case neg =>
    simp only [Does, exec, execRingPush, hx, he, hfree, hon, hown, ne_eq, not_true_eq_false, not_false_eq_true, if_true,
      if_false, Bool.false_eq_true]
    exact ⟨_, rfl, State.failParty_leaves (by rfl) (by rfl) _ _⟩
  obtain ⟨hfull, hmode⟩ := (h.resolve_left (by simp [hon])).resolve_left (by simp [hown])
  simp only [Does, exec, execRingPush, hx, he, hfree, hon, hown, hfull, hmode, lt_self_iff_false, ne_eq,
    not_true_eq_false, if_true, if_false, Bool.false_eq_true]
  refine ⟨_, rfl, State.failParty_leaves ?_ ?_ _ _⟩
  · exact (State.countPart_see (π := State.commands) _ _ _ _ _ (by simp)).trans
      (State.flag_see (π := State.commands) _ _ _ _ _ (by simp))
  · exact (State.countPart_see (π := State.rings) _ _ _ _ _ (by simp)).trans
      (State.flag_see (π := State.rings) _ _ _ _ _ (by simp))

end

/-- A push appends to a ring with room; every other push leaves the entries. -/
theorem ringPush_bounded {t : State} (hle : x.entries.length ≤ 256) (ht : exec (.ringPush p r) s = .next t) :
    (t.ring (ringKey p.val r.val)).entries.length ≤ 256 := by
  cases he : nextPush x with
  | none => exact entries_bounded_of_waits hx hle ht (exec_ringPush_none hx he)
  | some e =>
    cases hfree : s.partHolds p.val e.1.eng with
    | true => exact entries_bounded_of_waits hx hle ht (exec_ringPush_held hx he hfree)
    | false =>
      by_cases hfault : s.ringOn p.val r.val = false ∨ s.partyCtx p.val e.1 ≠ s.ringCtx p.val r.val ∨
        (x.entries.length = 256 ∧ s.ringFaults p.val r.val = true)
      · rwa [((does_ringPush_faults hx he hfree hfault).of_exec ht).1]
      · simp only [not_or, Bool.not_eq_false, not_not, not_and, Bool.not_eq_true] at hfault
        obtain ⟨hon, hown, hmode⟩ := hfault
        rcases hle.lt_or_eq with hroom | hfull
        · rw [((does_ringPush_room hx he hfree hon hown hroom).of_exec ht).1]
          simpa using hroom
        · rwa [((does_ringPush_waits hx he hfree hon hown hfull (hmode hfull)).of_exec ht).1]

/-! ## RING_POP (R247, R248) -/

theorem exec_ringPop_none (he : nextPop x = none) : exec (.ringPop p r) s = .next s := by
  simp only [exec, execRingPop, hx, he]

section
variable {e : RingParty × Bool} (he : nextPop x = some e)
include he

theorem exec_ringPop_held (hheld : s.partHolds p.val e.1.eng = true) : exec (.ringPop p r) s = .next s := by
  simp only [exec, execRingPop, hx, he, hheld, if_true]

variable (hfree : s.partHolds p.val e.1.eng = false)
include hfree

/-- A pop of a ring that is off or another context's. -/
theorem does_ringPop_faults (h : s.ringOn p.val r.val = false ∨ s.partyCtx p.val e.1 ≠ s.ringCtx p.val r.val) :
    Does (.ringPop p r) s (fun u => u.ring (ringKey p.val r.val) = { x with pops := x.pops.erase e } ∧
      ((s.queOwner e.1.ref.q).isSome = true → (s.cmdAt e.1.ref).isSome = true → (u.que e.1.ref.q).halted = true)) := by
  by_cases hon : s.ringOn p.val r.val = true
  case neg =>
    simp only [Does, exec, execRingPop, hx, he, hfree, hon, not_false_eq_true, if_true, if_false, Bool.false_eq_true]
    exact ⟨_, rfl, State.failParty_leaves (by rfl) (by rfl) _ _⟩
  have hown := h.resolve_left (by simp [hon])
  simp only [Does, exec, execRingPop, hx, he, hfree, hon, hown, ne_eq, not_true_eq_false, not_false_eq_true, if_true,
    if_false, Bool.false_eq_true]
  exact ⟨_, rfl, State.failParty_leaves (by rfl) (by rfl) _ _⟩

variable (hon : s.ringOn p.val r.val = true) (hown : s.partyCtx p.val e.1 = s.ringCtx p.val r.val)
include hon hown

/-- A pop of a ring that holds entries. -/
theorem does_ringPop_entry {h : W64 × W64} {es : List (W64 × W64)} (hes : x.entries = h :: es) :
    Does (.ringPop p r) s (fun u =>
      u.ring (ringKey p.val r.val) = { x with pops := x.pops.erase e, entries := es, head := x.head + 1 } ∧
      (∀ j, j ≠ ringKey p.val r.val → u.ring j = s.ring j)) := by
  simp only [Does, exec, execRingPop, hx, he, hfree, hon, hown, hes, not_true_eq_false, ne_eq, if_false, Bool.false_eq_true]
  exact ⟨_, rfl, State.ring_of_setRing ((State.completeRef_see (π := State.rings) _ _ (by simp)).trans
    ((State.popInto_see (π := State.rings) _ _ _ (by simp)).trans
      ((State.ledgerPart_see (π := State.rings) _ _ _ _ _ _ _ (by simp)).trans
        (State.countPart_see (π := State.rings) _ _ _ _ _ (by simp)))))⟩

/-- A pop of an empty ring without NOWAIT. -/
theorem exec_ringPop_waits (hempty : x.entries = []) (hwait : s.noWait e.1.ref = false) : exec (.ringPop p r) s =
    .next (s.setRing (ringKey p.val r.val) { x with pops := x.pops.map (fun y => if y = e then (y.1, true) else y) }) := by
  simp only [exec, execRingPop, hx, he, hfree, hon, hown, hempty, hwait, not_true_eq_false, ne_eq, if_false,
    Bool.false_eq_true]

/-- A pop of an empty ring with NOWAIT. -/
theorem does_ringPop_noWait (hempty : x.entries = []) (hwait : s.noWait e.1.ref = true) : Does (.ringPop p r) s
    (fun u => u.ring (ringKey p.val r.val) = { x with pops := x.pops.erase e }) := by
  simp only [Does, exec, execRingPop, hx, he, hfree, hon, hown, hempty, hwait, not_true_eq_false, ne_eq, if_true, if_false,
    Bool.false_eq_true]
  exact ⟨_, rfl, (State.ring_of_setRing ((State.completeRef_see (π := State.rings) _ _ (by simp)).trans
    (State.skipNext_see (π := State.rings) _ _ (by simp)))).1⟩

end

/-- A pop takes an entry or leaves the entries. -/
theorem ringPop_bounded {t : State} (hle : x.entries.length ≤ 256) (ht : exec (.ringPop p r) s = .next t) :
    (t.ring (ringKey p.val r.val)).entries.length ≤ 256 := by
  cases he : nextPop x with
  | none => exact entries_bounded_of_waits hx hle ht (exec_ringPop_none hx he)
  | some e =>
    cases hfree : s.partHolds p.val e.1.eng with
    | true => exact entries_bounded_of_waits hx hle ht (exec_ringPop_held hx he hfree)
    | false =>
      by_cases hfault : s.ringOn p.val r.val = false ∨ s.partyCtx p.val e.1 ≠ s.ringCtx p.val r.val
      · rwa [((does_ringPop_faults hx he hfree hfault).of_exec ht).1]
      · simp only [not_or, Bool.not_eq_false, not_not] at hfault
        obtain ⟨hon, hown⟩ := hfault
        cases hes : x.entries with
        | cons h es =>
          rw [((does_ringPop_entry hx he hfree hon hown hes).of_exec ht).1]
          exact (Nat.le_of_succ_le (by simpa [hes] using hle) : es.length ≤ 256)
        | nil =>
          cases hwait : s.noWait e.1.ref with
          | true => rwa [(does_ringPop_noWait hx he hfree hon hown hes hwait).of_exec ht]
          | false =>
            cases (exec_ringPop_waits hx he hfree hon hown hes hwait).symm.trans ht
            simpa using hle

end Sys2Proof.Machine

open Sys2Proof Sys2Proof.Machine

/-- Settles O36: each row of R247's table by its own lemma, and from them that no push or pop exceeds 256 entries. -/
theorem ringsAreFirstInFirstOut : Obligations.RingsAreFirstInFirstOut := by
  refine ⟨?push, ?pop, fun p r s t hle ht => ht.elim (ringPush_bounded rfl hle) (ringPop_bounded rfl hle)⟩
  case push =>
    intro p r s e k x own he
    exact ⟨exec_ringPush_held rfl he, fun hfree =>
      ⟨does_ringPush_room rfl he hfree, does_ringPush_waits rfl he hfree, does_ringPush_faults rfl he hfree⟩⟩
  case pop =>
    intro p r s e k x own he
    exact ⟨exec_ringPop_held rfl he, fun hfree => ⟨fun h es hon hown => does_ringPop_entry rfl he hfree hon hown,
      exec_ringPop_waits rfl he hfree, does_ringPop_faults rfl he hfree⟩⟩
end

section
/-!
Barriers (R251 to R253): the opening of a generation, its completion, the arrivals that it refuses, and the withdrawals
that cancel it. It settles O37.
-/
namespace Sys2Proof.Machine
set_option Elab.async false

theorem State.bar_of_setBar {s u : State} {k : Nat} {y : Bar} (h : u.bars = (s.setBar k y).bars) : u.bar k = y := by
  have hbar : u.bar k = (s.setBar k y).bar k := by simp only [State.bar, h]
  exact hbar.trans (by simp)

/-! ## BARRIER_ARRIVAL (R251) -/

section
variable {s : State} {p b : Nat} {w : Who} {y : Bar}

theorem State.barMaybe_open (h : y.arrived.length ≠ y.expect) :
    (s.setBar (barKey p b) y).barMaybe p b w = s.setBar (barKey p b) y := by
  simp [State.barMaybe, h]

/-- What the arrival that makes the count leaves. -/
theorem State.barMaybe_completes (hopen : y.isOpen = true) (h : y.arrived.length = y.expect) :
    ((s.setBar (barKey p b) y).barMaybe p b w).bar (barKey p b) = { y with
      isOpen := false, arrived := [], opened := [], epoch := y.epoch + 1, notices := y.notices ++ y.arrived } := by
  simp only [State.barMaybe, State.bar_setBar, if_true, hopen, h, and_self]
  exact State.bar_of_setBar ((State.ledgerBar_see (π := State.bars) _ _ _ _ _ (by simp)).trans
    (State.countPart_see (π := State.bars) _ _ _ _ _ (by simp)))

end

section
variable {p : Fin 8} {b : Fin 16} {s : State} {x : Bar} (hx : s.bar (barKey p.val b.val) = x)
  {a : Nat × CmdRef} {rest : List (Nat × CmdRef)} (ha : x.inbound = a :: rest)
include hx ha

/-- The first arrival opens a generation. -/
theorem does_barrierArrival_opens (hopen : x.isOpen = false) {n : Nat} (hn : s.barCount p.val b.val = n)
    (hexp : (if n = 0 then (s.onTiles p.val).length else n) ≠ 1) :
    Does (.barrierArrival p b) s (fun u => u.bar (barKey p.val b.val) = { x with
      inbound := rest, isOpen := true, owner := s.refCtx a.2
      expect := if n = 0 then (s.onTiles p.val).length else n
      opened := if n = 0 then s.onTiles p.val else List.range 48, arrived := [a] } ∧
      u.except [.bars] = s.except [.bars]) := by
  simp only [Does, exec, execBarrierArrival, hx, ha, hn, hopen, Bool.false_eq_true, not_false_eq_true, if_true]
  refine ⟨_, rfl, ?_⟩
  rw [State.barMaybe_open (Ne.symm hexp)]
  exact ⟨State.bar_of_setBar rfl, State.setBar_see (π := State.except [.bars]) _ _ _ (by simp)⟩

variable (hopen : x.isOpen = true)
include hopen

/-- An arrival of another context, a second arrival of a tile, and one of a tile that was off. -/
theorem does_barrierArrival_conflicts (h : x.owner ≠ s.refCtx a.2 ∨ (∃ y ∈ x.arrived, y.1 = a.1) ∨ a.1 ∉ x.opened) :
    Does (.barrierArrival p b) s (fun u => u.bar (barKey p.val b.val) = { x with inbound := rest } ∧
      ((s.queOwner a.2.q).isSome = true → (s.cmdAt a.2).isSome = true → (u.que a.2.q).halted = true)) := by
  have hbad : x.owner ≠ s.refCtx a.2 ∨ x.arrived.any (fun y => decide (y.1 = a.1)) = true ∨
      ¬ x.opened.contains a.1 = true := by simpa using h
  simp only [Does, exec, execBarrierArrival, hx, ha, hopen, not_true_eq_false, if_false]
  rw [if_pos hbad]
  exact ⟨_, rfl, State.bar_of_setBar (State.failRef_see (π := State.bars) _ _ _ _ _ _ (by simp)),
    fun ho hc => State.failRef_halts (by rfl) ho hc ..⟩

/-- An arrival that counts. -/
theorem exec_barrierArrival_counts (hown : x.owner = s.refCtx a.2) (hnew : ∀ y ∈ x.arrived, y.1 ≠ a.1)
    (hon : a.1 ∈ x.opened) : ∃ w, exec (.barrierArrival p b) s = .next
      ((s.setBar (barKey p.val b.val) { x with inbound := rest, arrived := x.arrived ++ [a] }).barMaybe p.val b.val w) := by
  have hany : ¬ x.arrived.any (fun y => decide (y.1 = a.1)) = true := by
    simpa only [List.any_eq_true, decide_eq_true_eq, not_exists, not_and] using hnew
  have hgood : ¬ (x.owner ≠ s.refCtx a.2 ∨ x.arrived.any (fun y => decide (y.1 = a.1)) = true ∨
      ¬ x.opened.contains a.1 = true) := by simp [hown, hon, hany]
  simp only [exec, execBarrierArrival, hx, ha, hopen, not_true_eq_false, if_false]
  rw [if_neg hgood]
  exact ⟨_, rfl⟩

end

/-! ## BARRIER_WITHDRAW (R252) -/

/-- An arrival of the tile and the context is still on its way. -/
theorem State.any_inbound_iff {s : State} {l : List (Nat × CmdRef)} {t c : Nat} :
    l.any (fun a => decide (a.1 = t) && decide (s.refCtx a.2 = c)) = true ↔ ∃ a ∈ l, a.1 = t ∧ s.refCtx a.2 = c := by
  simp only [List.any_eq_true, Bool.and_eq_true, decide_eq_true_eq]

section
variable {s : State} {p b t : Nat} {x : Bar} (hx : s.bar (barKey p b) = x) {e : Nat × Nat}
  (he : x.cancelling.find? (fun y => decide (y.1 = t)) = some e)
include hx he

theorem State.barrierWithdraw_late (h : ∃ a ∈ x.inbound, a.1 = t ∧ s.refCtx a.2 = e.2) : s.barrierWithdraw p b t = s := by
  simp only [State.barrierWithdraw, hx, he]
  rw [if_pos (State.any_inbound_iff.2 h)]

variable (h : ¬ ∃ a ∈ x.inbound, a.1 = t ∧ s.refCtx a.2 = e.2)
include h

/-- A withdrawal of a context that does not own the open generation. -/
theorem State.barrierWithdraw_other (hown : ¬ (x.isOpen = true ∧ x.owner = e.2)) :
    s.barrierWithdraw p b t = s.setBar (barKey p b) { x with cancelling := x.cancelling.erase e } := by
  simp only [State.barrierWithdraw, hx, he]
  rw [if_neg (mt State.any_inbound_iff.1 h), if_pos (not_and_or.1 hown)]

variable (hown : x.isOpen = true ∧ x.owner = e.2)
include hown

/-- A withdrawal that others of its context are still to follow. -/
theorem State.barrierWithdraw_discounts (hleft : ∃ y ∈ x.cancelling.erase e, y.2 = e.2) :
    s.barrierWithdraw p b t = s.setBar (barKey p b) { x with
      cancelling := x.cancelling.erase e, arrived := x.arrived.filter (fun a => decide (a.1 ≠ t)) } := by
  have hmore : (x.cancelling.erase e).any (fun y => decide (y.2 = e.2)) = true := by simpa using hleft
  simp only [State.barrierWithdraw, hx, he]
  rw [if_neg (mt State.any_inbound_iff.1 h), if_neg (not_or.2 ⟨not_not.2 hown.1, not_not.2 hown.2⟩), if_pos hmore]

/-- The last withdrawal of its context. -/
theorem State.barrierWithdraw_cancels (hleft : ∀ y ∈ x.cancelling.erase e, y.2 ≠ e.2) :
    (s.barrierWithdraw p b t).bar (barKey p b) = { x with
      cancelling := x.cancelling.erase e, isOpen := false, arrived := [], opened := [], epoch := x.epoch + 1 } := by
  have hnone : ¬ (x.cancelling.erase e).any (fun y => decide (y.2 = e.2)) = true := by
    simpa only [List.any_eq_true, decide_eq_true_eq, not_exists, not_and] using hleft
  simp only [State.barrierWithdraw, hx, he]
  rw [if_neg (mt State.any_inbound_iff.1 h), if_neg (not_or.2 ⟨not_not.2 hown.1, not_not.2 hown.2⟩), if_neg hnone]
  exact State.bar_of_setBar ((State.ledgerBar_see (π := State.bars) _ _ _ _ _ (by simp)).trans
    (State.countPart_see (π := State.bars) _ _ _ _ _ (by simp)))

end

theorem exec_barrierWithdraw_noResets {s : State} (h : s.NoResets) (p : Fin 8) (b : Fin 16) (t : Fin 48) :
    exec (.barrierWithdraw p b t) s = .next (s.barrierWithdraw p.val b.val t.val) :=
  congrArg Host.Outcome.next (State.pumpResets_of_noResets (h.of_same
    (State.barrierWithdraw_see (π := State.img) _ _ _ _ (by simp))
    (State.barrierWithdraw_see (π := State.parts) _ _ _ _ (by simp))))

end Sys2Proof.Machine

open Sys2Proof Sys2Proof.Machine

/-- Settles O37: an arrival opens, is refused or counts, and the count completes the generation; a withdrawal waits,
passes, is discounted or cancels. -/
theorem barriersCountTheirArrivals : Obligations.BarriersCountTheirArrivals := by
  refine ⟨?arrival, ?notice, ?withdraw⟩
  case arrival =>
    intro p b s a rest k x n expect ha
    refine ⟨fun hopen => does_barrierArrival_opens rfl ha hopen rfl, fun hopen hown hnew hon => ?_,
      does_barrierArrival_conflicts rfl ha⟩
    obtain ⟨w, hexec⟩ := exec_barrierArrival_counts rfl ha hopen hown hnew hon
    refine ⟨fun hmore => ?more, fun hall => ?completes⟩
    case more =>
      refine ⟨_, hexec.trans (congrArg _ (State.barMaybe_open (by simpa using hmore))), State.bar_of_setBar rfl, ?_⟩
      exact State.setBar_see (π := State.except [.bars]) _ _ _ (by simp)
    case completes =>
      refine ⟨_, hexec, State.barMaybe_completes hopen (by simpa using hall), ?_⟩
      exact (State.barMaybe_see (π := State.chains) _ _ _ _ (by simp)).trans
        (State.setBar_see (π := State.chains) _ _ _ (by simp))
  case notice =>
    intro p b t s e k he
    simp only [exec, execBarrierNotice]
    rw [he]
  case withdraw =>
    intro p b t s e k x own late left he hidle
    have hexec := exec_barrierWithdraw_noResets hidle p b t
    refine ⟨fun hlate => ?late, fun hlate hown => ?other, fun hlate hown hleft => ?discounts,
      fun hlate hown hleft => ?cancels⟩
    case late => exact hexec.trans (congrArg _ (State.barrierWithdraw_late rfl he hlate))
    case other => exact ⟨_, hexec.trans (congrArg _ (State.barrierWithdraw_other rfl he hlate hown)), State.bar_of_setBar rfl⟩
    case discounts =>
      exact ⟨_, hexec.trans (congrArg _ (State.barrierWithdraw_discounts rfl he hlate hown hleft)), State.bar_of_setBar rfl⟩
    case cancels => exact ⟨_, hexec, State.barrierWithdraw_cancels rfl he hlate hown hleft⟩
end

section
/-!
Scrub, refresh, recalibration and training of a stack (R258, R260, R273, R274). It settles O32.
-/
namespace Sys2Proof.Machine
set_option Elab.async false

/-! ## The check of a line (R258) -/

section
variable (s : State) (k line : Nat)

theorem State.eccCheck_clean : s.eccCheck k line .clean = s := ite_self _

variable {s line}

theorem State.eccCheck_of_poisoned (h : SMap.get false s.poison line = true) (f : EccFind) : s.eccCheck k line f = s :=
  if_pos h

variable (h : SMap.get false s.poison line = false)
include h

theorem State.eccCheck_corrected :
    s.eccCheck k line .corrected = (s.flag .nme k 0xD00 (bit 30)).countStack k 0x0201 1 nobody :=
  if_neg (by simp [h])

theorem State.eccCheck_uncorrectable : s.eccCheck k line .uncorrectable =
    let t := ({ s with poison := SMap.set false s.poison line true } : State).countStack k 0x0202 1 nobody
    if (t.flags .nme k 0xD00).getLsbD 31 then t.flag .nme k 0xD00 (bit 29)
    else (t.setStack k { t.stack k with eccAddr := line * 64 }).flag .nme k 0xD00 (bit 31) :=
  if_neg (by simp [h])

end

theorem State.stack_flag (s : State) (b : BlkKind) (u off : Nat) (bits : W32) (k : Nat) :
    (s.flag b u off bits).stack k = s.stack k := rfl

theorem State.stack_countStack (s : State) (k ev n j : Nat) (w : Who) : (s.countStack k ev n w).stack j = s.stack j :=
  State.stack_of_stks (State.countStack_see (π := State.stks) _ _ _ _ _ (by simp)) j

/-- The tallies of a stack are no flags of its near-memory engine. -/
theorem State.flags_countStack (s : State) (k ev n off : Nat) (w : Who) :
    (s.countStack k ev n w).flags .nme k off = s.flags .nme k off :=
  congrArg (w1cWord · off) (State.blk_count_ne (by simp [blkKey, kindCode]) ..)

/-- A check leaves the poisoned lines and the stacks, or poisons its line. -/
theorem State.eccCheck_cases (s : State) (k line : Nat) (f : EccFind) :
    ((s.eccCheck k line f).poison = s.poison ∧ (s.eccCheck k line f).stks = s.stks) ∨
    (s.eccCheck k line f).poison = SMap.set false s.poison line true := by
  cases hp : SMap.get false s.poison line with
  | true => exact .inl (by simp [State.eccCheck_of_poisoned k hp])
  | false =>
    cases f with
    | clean => exact .inl (by simp [State.eccCheck_clean])
    | corrected =>
      rw [State.eccCheck_corrected k hp]
      exact .inl ⟨State.countStack_see (π := State.poison) _ _ _ _ _ (by simp),
        State.countStack_see (π := State.stks) _ _ _ _ _ (by simp)⟩
    | uncorrectable =>
      rw [State.eccCheck_uncorrectable k hp]
      refine .inr ?_
      dsimp only
      split <;> exact State.countStack_see (π := State.poison) _ _ _ _ _ (by simp)

/-! ## SCRUB (R260) -/

theorem SMap.get_set_true (m : SMap Bool) (k j : Nat) :
    SMap.get false (SMap.set false m k true) j = (decide (j = k) || SMap.get false m j) := by
  rw [SMap.get_set]
  split <;> simp [*]

theorem exec_scrub {k : Fin 12} {line : Nat} {s : State} (hup : s.stackUp k.val = true) (hline : line < 2 ^ 30)
    (f : EccFind) : exec (.scrub k line f) s =
      let t := s.eccCheck k.val (stackBase k.val / 64 + line) f
      .next (t.setStack k.val { t.stack k.val with scrubAt := (line + 1) % 2 ^ 30 }) :=
  congrArg Host.Outcome.next (if_neg (not_or.2 ⟨not_not.2 hup, not_le.2 hline⟩))

section
variable {k : Fin 12} {line : Nat} {s : State} (hup : s.stackUp k.val = true) (hline : line < 2 ^ 30)
  (hp : SMap.get false s.poison (stackBase k.val / 64 + line) = false)
include hup hline hp

theorem does_scrub_corrected : Does (.scrub k line .corrected) s (fun u =>
    u.flags .nme k.val 0xD00 = s.flags .nme k.val 0xD00 ||| bit 30 ∧ u.poison = s.poison ∧
    u.stack k.val = { s.stack k.val with scrubAt := (line + 1) % 2 ^ 30 }) := by
  refine ⟨_, exec_scrub hup hline _, ?_⟩
  rw [State.eccCheck_corrected _ hp]
  refine ⟨?flags, State.countStack_see (π := State.poison) _ _ _ _ _ (by simp), ?stack⟩
  case flags => exact (State.flags_countStack ..).trans (State.flags_flag ..)
  case stack => rw [State.stack_setStack, if_pos rfl, State.stack_countStack, State.stack_flag]

theorem does_scrub_uncorrectable : Does (.scrub k line .uncorrectable) s (fun u =>
    (∀ l, SMap.get false u.poison l = (decide (l = stackBase k.val / 64 + line) || SMap.get false s.poison l)) ∧
    ((s.flags .nme k.val 0xD00).getLsbD 31 = false →
      (u.stack k.val).eccAddr = (stackBase k.val / 64 + line) * 64 ∧
      u.flags .nme k.val 0xD00 = s.flags .nme k.val 0xD00 ||| bit 31) ∧
    ((s.flags .nme k.val 0xD00).getLsbD 31 = true → (u.stack k.val).eccAddr = (s.stack k.val).eccAddr ∧
      u.flags .nme k.val 0xD00 = s.flags .nme k.val 0xD00 ||| bit 29) ∧ u.mem = s.mem) := by
  refine ⟨_, exec_scrub hup hline _, ?_⟩
  rw [State.eccCheck_uncorrectable _ hp]
  generalize hv : State.countStack _ k.val 0x0202 1 nobody = v
  have hset : v.poison = SMap.set false s.poison (stackBase k.val / 64 + line) true := by
    rw [← hv]; exact State.countStack_see (π := State.poison) _ _ _ _ _ (by simp)
  have hpoison := fun l => (congrArg (SMap.get false · l) hset).trans (SMap.get_set_true ..)
  have hmem : v.mem = s.mem := by rw [← hv]; exact State.countStack_see (π := State.mem) _ _ _ _ _ (by simp)
  have hstks : v.stks = s.stks := by rw [← hv]; exact State.countStack_see (π := State.stks) _ _ _ _ _ (by simp)
  have hflags : v.flags .nme k.val 0xD00 = s.flags .nme k.val 0xD00 := by rw [← hv]; exact State.flags_countStack ..
  dsimp only
  rw [hflags]
  cases hfirst : (s.flags .nme k.val 0xD00).getLsbD 31 with
  | false =>
    refine ⟨hpoison, fun _ => ⟨by simp [State.stack_flag], ?_⟩, nofun, hmem⟩
    exact (State.flags_flag ..).trans (congrArg (· ||| bit 31) hflags)
  | true =>
    refine ⟨hpoison, nofun, fun _ => ⟨?_, ?_⟩, hmem⟩
    · simp [State.stack_flag, State.stack_of_stks hstks]
    · exact (State.flags_flag ..).trans (congrArg (· ||| bit 29) hflags)

end

/-! ## Recalibration (R273, R274) -/

theorem State.stack_startTimer (s : State) (i : TimerId) (l : Island) (n k : Nat) :
    (s.startTimer i l n).stack k = s.stack k := rfl

theorem State.expired_startTimer (s : State) (i : TimerId) (l : Island) {n : Nat} (hn : 0 < n) :
    (s.startTimer i l n).expired i = false := by
  simp only [State.expired, State.startTimer, List.any_eq_false]
  intro t ht
  rcases List.mem_append.1 ht with hold | hnew
  · simp [of_decide_eq_true (List.mem_filter.1 hold).2]
  · simp [List.mem_singleton.1 hnew, hn]

section
variable {k : Fin 12} {temp : BitVec 8} {s : State} (hon : s.domOn (domStack k.val) = true)
include hon

theorem exec_stackRecal_ends (hst : (s.stack k.val).st = .recal) :
    exec (.stackRecal k temp) s = .next (s.setStack k.val { s.stack k.val with st := .ready }) := by
  simp only [exec, execStackRecal, hon, hst, not_true_eq_false, if_false]

variable (hst : (s.stack k.val).st = .ready)
include hst

/-- A ready interface is judged by the move since its last calibration and by the 32 ms that may still run. -/
theorem exec_stackRecal_ready : exec (.stackRecal k temp) s = .next (
    if (temp.toNat + 5 ≤ (s.stack k.val).calTemp.toNat ∨ (s.stack k.val).calTemp.toNat + 5 ≤ temp.toNat) ∧
        (s.timerRuns (.recal k.val) = false ∨ s.expired (.recal k.val) = true) then
      ((s.setStack k.val { s.stack k.val with
        st := .recal, temp := temp, hot := decide (85 < temp.toNat), calTemp := temp
        recals := (s.stack k.val).recals + 1 }).startTimer
          (.recal k.val) (.base k.val) 32000000).countStack k.val 0x0210 1 nobody
    else s) := by
  have hmove : ∀ a b : Nat, 5 ≤ max a b - min a b ↔ a + 5 ≤ b ∨ b + 5 ≤ a := by omega
  simp only [exec, execStackRecal, hon, hst, not_true_eq_false, if_false, hmove, Bool.not_eq_true]

theorem does_stackRecal_pauses
    (hmove : temp.toNat + 5 ≤ (s.stack k.val).calTemp.toNat ∨ (s.stack k.val).calTemp.toNat + 5 ≤ temp.toNat)
    (hfree : s.timerRuns (.recal k.val) = false ∨ s.expired (.recal k.val) = true) : Does (.stackRecal k temp) s (fun u =>
      u.stack k.val = { s.stack k.val with
        st := .recal, temp := temp, hot := decide (85 < temp.toNat), calTemp := temp
        recals := (s.stack k.val).recals + 1 } ∧
      u.timerRuns (.recal k.val) = true ∧ u.expired (.recal k.val) = false) := by
  refine ⟨_, (exec_stackRecal_ready hon hst).trans (congrArg _ (if_pos ⟨hmove, hfree⟩)), ?stack, ?runs, ?fresh⟩
  case stack =>
    rw [State.stack_countStack, State.stack_startTimer, State.stack_setStack, if_pos rfl]
  case runs =>
    exact (State.countStack_see (π := fun t => t.timerRuns (.recal k.val)) _ _ _ _ _ ⟨fun _ _ => rfl, fun _ _ => rfl⟩).trans
      (State.timerRuns_startTimer ..)
  case fresh =>
    exact (State.countStack_see (π := fun t => t.expired (.recal k.val)) _ _ _ _ _ ⟨fun _ _ => rfl, fun _ _ => rfl⟩).trans
      (State.expired_startTimer _ _ _ (by decide))

theorem exec_stackRecal_stays
    (h : temp.toNat < (s.stack k.val).calTemp.toNat + 5 ∧ (s.stack k.val).calTemp.toNat < temp.toNat + 5 ∨
      s.timerRuns (.recal k.val) = true ∧ s.expired (.recal k.val) = false) :
    exec (.stackRecal k temp) s = .next s := by
  refine (exec_stackRecal_ready hon hst).trans (congrArg _ (if_neg fun ⟨hmove, hfree⟩ => ?_))
  rcases h with hnear | ⟨hruns, hleft⟩
  · omega
  · simp [hruns, hleft] at hfree

end

/-! ## Training (R274) -/

/-- A state with the stacks of `s` but for one. -/
theorem State.stack_of_stks_setStack {s u : State} {k : Nat} {x : Stack} (h : u.stks = (s.setStack k x).stks) :
    u.stack k = x ∧ ∀ j, j ≠ k → u.stack j = s.stack j :=
  have hstack := fun j => (State.stack_of_stks h j).trans (State.stack_setStack ..)
  ⟨(hstack k).trans (if_pos rfl), fun j hj => (hstack j).trans (if_neg hj)⟩

theorem exec_stackTrainingDone {s : State} (h : s.trainHeld = false) (k : Fin 12) (ok : Bool) :
    ∃ u, exec (.stackTrainingDone k ok) s = .next u ∧ u.stks = (s.stackTrained k.val ok).stks :=
  ⟨_, congrArg Host.Outcome.next (if_neg (by simp [h])), State.readyParts_see (π := State.stks) _ (by simp)⟩

section
variable {s : State} {k : Nat} (h : (s.stack k).st = .training)
include h

theorem State.stks_stackTrained_ready : (s.stackTrained k true).stks = (s.setStack k { s.stack k with
    st := .ready, recals := 0, calTemp := (s.stack k).temp
    arb := { (s.stack k).arb with latEst := BitVec.ofNat 16 (s.cfg .nme k 0xF00 15 0 + 60) } }).stks := by
  simp [State.stackTrained, h]

theorem State.stks_stackTrained_failed :
    (s.stackTrained k false).stks = (s.setStack k { s.stack k with st := .failed }).stks := by
  simp only [State.stackTrained, h]
  exact State.loseWindows_see (π := State.stks) _ (by simp)

end

end Sys2Proof.Machine

open Sys2Proof Sys2Proof.Machine

/-- Settles O32: each row's equation, and what the check of a line leaves of its stack. -/
theorem stacksCheckRefreshAndTrain : Obligations.StacksCheckRefreshAndTrain := by
  refine ⟨?scrub, ?refresh, ?recal, ?training⟩
  case scrub =>
    intro k line s hup hline at_
    refine ⟨?_, does_scrub_corrected hup hline, does_scrub_uncorrectable hup hline⟩
    rw [exec_scrub hup hline, State.eccCheck_clean]
  case refresh => exact fun k bank s hon => congrArg Host.Outcome.next (if_pos hon)
  case recal =>
    intro k temp s hon st
    exact ⟨exec_stackRecal_ends hon, does_stackRecal_pauses hon, exec_stackRecal_stays hon⟩
  case training =>
    intro k s hst hheld
    obtain ⟨u, hu, hready⟩ := exec_stackTrainingDone hheld k true
    obtain ⟨v, hv, hfailed⟩ := exec_stackTrainingDone hheld k false
    exact ⟨⟨u, hu, State.stack_of_stks_setStack (hready.trans (State.stks_stackTrained_ready hst))⟩,
      v, hv, State.stack_of_stks_setStack (hfailed.trans (State.stks_stackTrained_failed hst))⟩
end

section
/-!
Invalidation (R268, R269): the conditions that CTX_INV_CMD judges, the pages that it drops, and its end. It settles O33.
-/
namespace Sys2Proof.Machine
set_option Elab.async false

/-! ## The conditions of CTX_INV_CMD, in their order (R268) -/

section
variable {s : State} {m : Master} {p c : Nat} (hreach : s.reaches m ⟨.ctx, p⟩ = true) (hcfg : (s.cfgOf p).isSome = true)
include hreach hcfg

theorem State.invCmd_denied (hm : s.fnOrKp m p = false) (f : State) : s.invCmd m p c f = s.invResult p 0x03 := by
  simp [State.invCmd, hreach, Option.isSome_iff_ne_none.1 hcfg, hm]

variable (hm : s.fnOrKp m p = true)
include hm

theorem State.invCmd_busy (hrun : (s.part p).inv ≠ none) (f : State) : s.invCmd m p c f = s.invResult p 0x01 := by
  simp [State.invCmd, hreach, Option.isSome_iff_ne_none.1 hcfg, hm, Option.isSome_iff_ne_none.2 hrun]

variable (hidle : (s.part p).inv = none)
include hidle

theorem State.invCmd_range (hc : s.ctxQuota p ≤ c) (f : State) : s.invCmd m p c f = s.invResult p 0x02 := by
  simp [State.invCmd, hreach, Option.isSome_iff_ne_none.1 hcfg, hm, hidle, hc]

theorem State.invCmd_performs (hc : c < s.ctxQuota p) (f : State) : s.invCmd m p c f = f := by
  simp [State.invCmd, hreach, Option.isSome_iff_ne_none.1 hcfg, hm, hidle, hc]

end

/-- The three operations are judged alike. -/
theorem exec_invCmd {s t : State} {m : Master} {p : Fin 8} {c : BitVec 8} (h : ∀ f, s.invCmd m p.val c.toNat f = t) :
    ∀ i ∈ [Instr.invalidateRange m p c, .invalidateContext m p c, .pagedIn m p c], exec i s = .next t := by
  simp only [List.forall_mem_cons, List.not_mem_nil, false_imp_iff, implies_true, and_true]
  exact ⟨congrArg _ (h _), congrArg _ (h _), congrArg _ (h _)⟩

/-! ## The pages that are dropped (R269) -/

/-- A page of the context that is kept covers no part of [lo, hi). -/
theorem State.dropRange_drops {s : State} {dc lo hi : Nat} : ∀ e ∈ (s.dropRange dc lo hi).tlbs, ∀ x ∈ e.2, x.ctx = dc →
    hi ≤ x.va ∨ x.va + x.bytes ≤ lo := by
  intro e he x hx hctx
  simp only [State.dropRange, List.mem_filter, List.mem_map] at he
  obtain ⟨⟨d, -, rfl⟩, -⟩ := he
  have hkept := (List.mem_filter.1 hx).2
  simp only [hctx, decide_true, Bool.true_and, Bool.not_eq_true', Bool.and_eq_false_iff, decide_eq_false_iff_not, not_lt] at hkept
  exact hkept

theorem State.dropRange_keeps_others {s : State} {dc lo hi : Nat} {e : Nat × List TlbEnt} (he : e ∈ s.tlbs)
    {x : TlbEnt} (hx : x ∈ e.2) (hctx : x.ctx ≠ dc) : ∃ f ∈ (s.dropRange dc lo hi).tlbs, f.1 = e.1 ∧ x ∈ f.2 := by
  have hkept : x ∈ e.2.filter (fun x => !(decide (x.ctx = dc) && decide (x.va < hi) && decide (lo < x.va + x.bytes))) := by
    simp [hx, hctx]
  exact ⟨_, List.mem_filter.2 ⟨List.mem_map.2 ⟨e, he, rfl⟩, decide_eq_true (List.ne_nil_of_mem hkept)⟩, rfl, hkept⟩

theorem State.dropCtx_drops {s : State} {dc : Nat} : ∀ e ∈ (s.dropCtx dc).tlbs, ∀ x ∈ e.2, x.ctx ≠ dc := by
  intro e he x hx
  simp only [State.dropCtx, List.mem_filter, List.mem_map] at he
  obtain ⟨⟨d, -, rfl⟩, -⟩ := he
  exact of_decide_eq_true (List.mem_filter.1 hx).2

theorem State.part_setPart_self (s : State) (p : Nat) (y : Part) : (s.setPart p y).part p = y :=
  (State.part_setPart ..).trans (if_pos rfl)

/-! ## PAGED_IN (R269) -/

/-- With no halted stream of the context nothing retries. -/
theorem exec_pagedIn_idle {s : State} {m : Master} {p : Fin 8} {c : BitVec 8}
    (h : ∀ f, s.invCmd m p.val c.toNat f = f)
    (hnone : ∀ x ∈ s.allStreams, x.2.2.ctx = ctxKey p.val c.toNat → x.2.2.st ≠ .halted) :
    exec (.pagedIn m p c) s = .next (s.invResult p.val 0x00) := by
  refine congrArg Host.Outcome.next ((h _).trans ?_)
  dsimp only
  rw [List.filter_eq_nil_iff.2]
  · rfl
  · intro x hx hhalted
    simp only [Bool.and_eq_true, decide_eq_true_eq] at hhalted
    obtain ⟨⟨⟨hctx, hst⟩, -⟩, -⟩ := hhalted
    exact hnone x hx hctx hst

end Sys2Proof.Machine

open Sys2Proof Sys2Proof.Machine

/-- Settles O33: the conditions in their order, then what each operation drops, and the end of an INVALIDATE. -/
theorem invalidationsDropCachedPages : Obligations.InvalidationsDropCachedPages := by
  refine ⟨?command, ?done⟩
  case command =>
    intro m p c s hreach hcfg y all dc r
    refine ⟨fun hm => exec_invCmd (State.invCmd_denied hreach hcfg hm),
      fun hm hrun => exec_invCmd (State.invCmd_busy hreach hcfg hm hrun),
      fun hm hidle hc => exec_invCmd (State.invCmd_range hreach hcfg hm hidle hc), fun hm hidle hc => ?_⟩
    have hperf := State.invCmd_performs hreach hcfg hm hidle hc
    refine ⟨⟨_, congrArg Host.Outcome.next (hperf _), ?range⟩, ⟨_, congrArg Host.Outcome.next (hperf _), ?context⟩,
      exec_pagedIn_idle hperf⟩
    case range =>
      exact ⟨State.part_setPart_self .., State.dropRange_drops, fun e he x hx => State.dropRange_keeps_others he hx,
        (State.setPart_see (π := State.except [.tlbs, .parts]) _ _ _ (by simp)).trans
          (State.dropRange_see (π := State.except [.tlbs, .parts]) _ _ _ _ (by simp))⟩
    case context =>
      exact ⟨State.part_setPart_self .., State.dropCtx_drops,
        (State.setPart_see (π := State.except [.tlbs, .parts]) _ _ _ (by simp)).trans
          (State.dropCtx_see (π := State.except [.tlbs, .parts]) _ _ (by simp))⟩
  case done =>
    intro p s o ho
    refine ⟨fun hheld => ?_, fun hfree => ?_⟩
    · simp only [exec, execInvalidateDone, ho, hheld, if_true]
    · simp only [exec, execInvalidateDone, ho, hfree, Bool.false_eq_true, if_false]
end

section
/-!
The page mover (R271, R272): the conditions of its commands, and how a unit moves or stops the move. It settles O34.
-/
namespace Sys2Proof.Machine
set_option Elab.async false

/-! ## The commands (R272) -/

theorem exec_move (m : Master) (k : Fin 12) (h : Bool) (s : State) :
    exec (if h then .toHost m k else .fromHost m k) s = .next (s.moveCmd m k.val h) := by
  cases h <;> rfl

section
variable {s : State} {m : Master} {k : Nat} (hreach : s.reaches m ⟨.nme, k⟩ = true)
include hreach

theorem State.moveCmd_denied (hm : s.pfOrKp m ((s.partOfStack k).getD 8) = false) (h : Bool) :
    s.moveCmd m k h = s.moveResult k 0x05 := by
  simp [State.moveCmd, hreach, hm]

variable (hm : s.pfOrKp m ((s.partOfStack k).getD 8) = true)
include hm

theorem State.moveCmd_busy (hrun : (s.stack k).move ≠ none) (h : Bool) : s.moveCmd m k h = s.moveResult k 0x01 := by
  simp [State.moveCmd, hreach, hm, Option.isSome_iff_ne_none.2 hrun]

/-- A move is judged by its registers. -/
theorem State.moveCmd_idle (hidle : (s.stack k).move = none) (h : Bool) : s.moveCmd m k h =
    let dev := s.rw .nme k 0xE00 31 12 * 4096 + s.rw .nme k 0xE04 15 0 * 2 ^ 32
    let host := s.rw .nme k 0xE08 31 12 * 4096 + s.rw .nme k 0xE0C 15 0 * 2 ^ 32
    let units := s.rw .nme k 0xE10 17 0 + 1
    if dev < stackBase k ∨ stackBase (k + 1) < dev + units * 4096 ∨ host < hostBase ∨ 2 ^ 48 < host + units * 4096 then
      (s.setStack k { s.stack k with moved := 0 }).moveResult k 0x02
    else s.setStack k { s.stack k with move := some ⟨h, dev, host, units, s.moveCtx m⟩, moved := 0, moveRes := 0 } := by
  rw [State.moveCmd, if_neg (by simp [hreach]), if_neg (by simp [hm]), if_neg (by simp [hidle])]

end

/-! ## The checks of a unit's lines (R258) -/

theorem SMap.mem_insert_self {α : Type} (m : List (Nat × α)) (k : Nat) (v : α) : (k, v) ∈ SMap.insert m k v := by
  induction m with
  | nil => simp [SMap.insert]
  | cons e m ih =>
    obtain ⟨a, w⟩ := e
    simp only [SMap.insert]
    split_ifs <;> simp [ih]

theorem mem_linesOf {a n l : Nat} (h : l ∈ linesOf a n) : a / 64 ≤ l ∧ l * 64 < a + n := by
  unfold linesOf at h
  split at h
  · cases h
  · obtain ⟨i, hi, rfl⟩ := List.mem_map.1 h
    have := List.mem_range.1 hi
    omega

theorem State.poisoned_of_mem {s : State} {a n l : Nat} (hl : l ∈ linesOf a n) (hp : (l, true) ∈ s.poison) :
    s.poisoned a n = true := by
  obtain ⟨hlo, hhi⟩ := mem_linesOf hl
  exact List.any_eq_true.2 ⟨_, hp, by simp [hlo, hhi]⟩

/-- Checks that latch an address leave one of their lines poisoned. -/
theorem State.eccChecks_stks (s : State) (k : Nat) (lines : List Nat) (ecc : List EccFind) :
    (s.eccChecks k lines ecc).stks = s.stks ∨ ∃ l ∈ lines, (l, true) ∈ (s.eccChecks k lines ecc).poison := by
  unfold State.eccChecks
  refine List.foldlRecOn (motive := fun t : State => t.stks = s.stks ∨ ∃ l ∈ lines, (l, true) ∈ t.poison) _ _ (.inl rfl) ?_
  intro t ih e _
  cases hl : lines[e.2]? with
  | none => exact ih
  | some line =>
    rcases t.eccCheck_cases k line e.1 with ⟨hp, hs⟩ | hp
    · rw [hp, hs]; exact ih
    · rw [hp]
      exact .inr ⟨line, List.mem_of_getElem? hl, SMap.mem_insert_self ..⟩

/-- A unit without poison latches no address. -/
theorem State.eccChecks_stks_of_clean {s : State} {k a n : Nat} {ecc : List EccFind}
    (h : (s.eccChecks k (linesOf a n) ecc).poisoned a n = false) : (s.eccChecks k (linesOf a n) ecc).stks = s.stks :=
  (s.eccChecks_stks k (linesOf a n) ecc).resolve_right fun ⟨_, hl, hp⟩ => by
    rw [State.poisoned_of_mem hl hp] at h
    cases h

theorem State.eccChecks_hostOk (s : State) (k : Nat) (lines : List Nat) (ecc : List EccFind) (fn : Nat) :
    (s.eccChecks k lines ecc).hostOk fn = s.hostOk fn :=
  State.eccChecks_see (π := fun t => t.hostOk fn) s k lines ecc ⟨fun _ _ => rfl, fun _ _ => rfl, fun _ _ => rfl, fun _ _ => rfl⟩

/-! ## What leaves for the host (R437, R438) -/

section
variable {s : State} {fn : Nat} (hok : s.hostOk fn = true)
include hok

theorem State.hostWrite_out (a : Nat) (bs : List Byte) (relaxed : Bool) :
    ∃ bus, (s.hostWrite fn a bs relaxed).out = s.out ++ [.hostWrite fn bus bs relaxed] := by
  refine ⟨(s.carry fn a).1, ?_⟩
  rw [State.hostWrite, if_pos hok]
  refine (State.countIo_see (π := State.out) _ _ _ (by simp)).trans ?_
  exact congrArg (· ++ _) (State.carry_see (π := State.out) _ _ _ (by simp))

theorem State.hostAsk_out (a n : Nat) : ∃ bus, (s.hostAsk fn a n).out = s.out ++ [.hostRead fn bus n] := by
  refine ⟨(s.carry fn a).1, ?_⟩
  rw [State.hostAsk, State.askBus, if_pos hok]
  exact congrArg (· ++ _) (State.carry_see (π := State.out) s fn a (by simp))

end

/-! ## How a unit ends (R271, R272) -/

theorem State.stack_moveStop (s : State) (k : Nat) (r : Byte) :
    (s.moveStop k r).stack k = { s.stack k with move := none, moveRes := r } := by
  simp [State.moveStop]

theorem State.stack_moveStep_of_stks {s t : State} (h : t.stks = s.stks) (k : Nat) (o : MoveOp) :
    (t.moveStep k o).stack k = { s.stack k with
      moved := (s.stack k).moved + 1, move := if (s.stack k).moved.toNat + 1 < o.units then some o else none } := by
  rw [← State.stack_of_stks h]
  exact (State.stack_countStack ..).trans ((State.stack_setStack ..).trans (if_pos rfl))

/-- A unit of 4 KiB is stored, with zeros for what the host did not give. -/
theorem State.readByte_writeUnit {s v : State} (h : v.mem = s.mem) (dev : Nat) (bs : List Byte) (a : Nat) :
    (v.writeBytes dev ((bs ++ List.replicate 4096 0).take 4096)).readByte a =
      if dev ≤ a ∧ a < dev + 4096 then bs.getD (a - dev) 0 else s.readByte a := by
  have hlen : ((bs ++ List.replicate 4096 0).take 4096).length = 4096 := by
    rw [List.length_take, List.length_append, List.length_replicate]
    omega
  rw [State.readByte_writeBytes, State.readByte_of_mem h, hlen]
  refine if_ctx_congr Iff.rfl (fun ⟨hlo, hhi⟩ => ?_) fun _ => rfl
  have hlt : a - dev < 4096 := by omega
  rw [List.getD_eq_getElem?_getD, List.getElem?_take_of_lt hlt, List.getElem?_append]
  split_ifs with hbs
  · rw [List.getD_eq_getElem?_getD]
  · rw [List.getElem?_replicate, if_pos (by omega), List.getD_eq_default _ _ (not_lt.1 hbs)]
    rfl

/-- The host does not answer: HOST_ERR is set and the move stops. -/
def State.moveLost (s : State) (k : Nat) : State := (s.flag .pcx 0 0x14 (bit 30)).moveStop k 0x03

theorem State.stack_moveLost {s t : State} (h : s.stks = t.stks) (k : Nat) :
    (s.moveLost k).stack k = { t.stack k with move := none, moveRes := 0x03 } := by
  rw [State.moveLost, State.stack_moveStop, State.stack_of_stks (s := t)]
  exact h

/-- A copy of the evictor goes first (R310). -/
theorem State.moveOne_spill {s : State} {k : Nat} (h : (s.kvf k).spill ≠ []) (data : Option (List Byte))
    (ecc : List EccFind) : s.moveOne k data ecc = s := by
  unfold State.moveOne
  split
  · rfl
  · exact if_pos (.inr h)

section
variable {s : State} {k : Fin 12} {o : MoveOp} (hmove : (s.stack k.val).move = some o) (hup : s.stackUp k.val = true)
  (hspill : (s.kvf k.val).spill = []) {dev fn : Nat} (hdev : o.dev + (s.stack k.val).moved.toNat * 4096 = dev)
  (hfn : s.fnOf ((s.partOfStack k.val).getD 8) = fn) {data : Option (List Byte)} {ecc : List EccFind}
include hmove hup hspill hdev hfn

section
variable (hto : o.toHost = true)
include hto

theorem State.moveOne_toHost : s.moveOne k.val data ecc =
    let v := s.eccChecks k.val (linesOf dev 4096) ecc
    if v.poisoned dev 4096 then v.moveStop k.val 0x04
    else if s.hostOk fn then
      (v.hostWrite fn (o.host + (s.stack k.val).moved.toNat * 4096) (v.readBytes dev 4096) true).moveStep k.val o
    else v.moveLost k.val := by
  have hgo : ¬ (¬ s.stackUp k.val = true ∨ (s.kvf k.val).spill ≠ []) := by simp [hup, hspill]
  simp only [State.moveOne, hmove, hdev, hfn, if_neg hgo, hto, if_true, State.eccChecks_hostOk, ite_not, State.moveLost]

theorem does_moveUnit_poisoned (hbad : (s.eccChecks k.val (linesOf dev 4096) ecc).poisoned dev 4096 = true) :
    Does (.moveUnit k data ecc) s (fun u =>
      u.stack k.val = { (s.eccChecks k.val (linesOf dev 4096) ecc).stack k.val with move := none, moveRes := 0x04 } ∧
      u.out = s.out ∧ u.mem = s.mem) := by
  refine ⟨_, congrArg Host.Outcome.next (State.moveOne_toHost hmove hup hspill hdev hfn hto), ?_⟩
  dsimp only
  rw [if_pos hbad]
  exact ⟨State.stack_moveStop .., State.eccChecks_see (π := State.out) _ _ _ _ (by simp),
    State.eccChecks_see (π := State.mem) _ _ _ _ (by simp)⟩

variable (hclean : (s.eccChecks k.val (linesOf dev 4096) ecc).poisoned dev 4096 = false)
include hclean

theorem does_moveUnit_toHost (hok : s.hostOk fn = true) : Does (.moveUnit k data ecc) s (fun u =>
    (∃ bus, u.out = s.out ++ [.hostWrite fn bus (s.readBytes dev 4096) true]) ∧ u.mem = s.mem ∧
    u.stack k.val = { s.stack k.val with
      moved := (s.stack k.val).moved + 1
      move := if (s.stack k.val).moved.toNat + 1 < o.units then some o else none }) := by
  refine ⟨_, congrArg Host.Outcome.next (State.moveOne_toHost hmove hup hspill hdev hfn hto), ?_⟩
  have hstks := State.eccChecks_stks_of_clean hclean
  generalize hv : s.eccChecks k.val (linesOf dev 4096) ecc = v at hclean hstks ⊢
  have hmem : v.mem = s.mem := by rw [← hv]; exact State.eccChecks_see (π := State.mem) _ _ _ _ (by simp)
  have hout : v.out = s.out := by rw [← hv]; exact State.eccChecks_see (π := State.out) _ _ _ _ (by simp)
  have hokv : v.hostOk fn = true := by rw [← hv, State.eccChecks_hostOk, hok]
  dsimp only
  rw [if_neg (by simp [hclean]), if_pos hok, State.readBytes_of_mem hmem]
  refine ⟨?out, ?mem, ?stack⟩
  case out =>
    obtain ⟨bus, hbus⟩ := State.hostWrite_out hokv (o.host + (s.stack k.val).moved.toNat * 4096) (s.readBytes dev 4096) true
    exact ⟨bus, (State.moveStep_see (π := State.out) _ _ _ (by simp)).trans (hbus.trans (by rw [hout]))⟩
  case mem =>
    exact (State.moveStep_see (π := State.mem) _ _ _ (by simp)).trans
      ((State.hostWrite_see (π := State.mem) _ _ _ _ _ (by simp)).trans hmem)
  case stack =>
    exact State.stack_moveStep_of_stks ((State.hostWrite_see (π := State.stks) _ _ _ _ _ (by simp)).trans hstks) ..

theorem does_moveUnit_toHost_lost (hok : s.hostOk fn = false) : Does (.moveUnit k data ecc) s (fun u =>
    u.stack k.val = { s.stack k.val with move := none, moveRes := 0x03 } ∧ u.mem = s.mem) := by
  refine ⟨_, congrArg Host.Outcome.next (State.moveOne_toHost hmove hup hspill hdev hfn hto), ?_⟩
  dsimp only
  rw [if_neg (by simp [hclean]), if_neg (by simp [hok])]
  exact ⟨State.stack_moveLost (State.eccChecks_stks_of_clean hclean) _,
    State.eccChecks_see (π := State.mem) _ _ _ _ (by simp)⟩

end

section
variable (hfrom : o.toHost = false)
include hfrom

theorem State.moveOne_fromHost : s.moveOne k.val data ecc =
    match data with
    | some bs =>
      if s.hostOk fn then ((s.hostAsk fn (o.host + (s.stack k.val).moved.toNat * 4096) 4096).writeBytes dev
        ((bs ++ List.replicate 4096 0).take 4096)).moveStep k.val o
      else s.moveLost k.val
    | none => s.moveLost k.val := by
  have hgo : ¬ (¬ s.stackUp k.val = true ∨ (s.kvf k.val).spill ≠ []) := by simp [hup, hspill]
  cases data <;>
    simp only [State.moveOne, hmove, hdev, hfn, if_neg hgo, hfrom, Bool.false_eq_true, if_false, State.moveLost]

theorem does_moveUnit_fromHost {bs : List Byte} (hdata : data = some bs) (hok : s.hostOk fn = true) :
    Does (.moveUnit k data ecc) s (fun u =>
      (∀ j, u.readByte (dev + j) = if j < 4096 then bs.getD j 0 else s.readByte (dev + j)) ∧
      (∀ a < dev, u.readByte a = s.readByte a) ∧ (∃ bus, u.out = s.out ++ [.hostRead fn bus 4096]) ∧
      u.stack k.val = { s.stack k.val with
        moved := (s.stack k.val).moved + 1
        move := if (s.stack k.val).moved.toNat + 1 < o.units then some o else none }) := by
  refine ⟨_, congrArg Host.Outcome.next (State.moveOne_fromHost hmove hup hspill hdev hfn hfrom), ?_⟩
  subst hdata
  dsimp only
  rw [if_pos hok]
  obtain ⟨bus, hbus⟩ := State.hostAsk_out hok (o.host + (s.stack k.val).moved.toNat * 4096) 4096
  generalize hv : s.hostAsk fn (o.host + (s.stack k.val).moved.toNat * 4096) 4096 = v at hbus ⊢
  have hmem : v.mem = s.mem := by rw [← hv]; exact State.hostAsk_see (π := State.mem) _ _ _ _ (by simp)
  have hstks : v.stks = s.stks := by rw [← hv]; exact State.hostAsk_see (π := State.stks) _ _ _ _ (by simp)
  have hread := fun a => (State.readByte_of_mem (State.moveStep_see (π := State.mem) (v.writeBytes dev
    ((bs ++ List.replicate 4096 0).take 4096)) k.val o (by simp)) a).trans (State.readByte_writeUnit hmem dev bs a)
  refine ⟨fun j => ?unit, fun a ha => ?below, ⟨bus, ?out⟩, ?stack⟩
  case unit => rw [hread, Nat.add_sub_cancel_left]; simp
  case below => rw [hread, if_neg (by omega)]
  case out =>
    exact (State.moveStep_see (π := State.out) _ _ _ (by simp)).trans
      ((State.writeBytes_see (π := State.out) _ _ _ (by simp)).trans hbus)
  case stack =>
    exact State.stack_moveStep_of_stks ((State.writeBytes_see (π := State.stks) _ _ _ (by simp)).trans hstks) ..

theorem does_moveUnit_fromHost_lost (h : data = none ∨ s.hostOk fn = false) : Does (.moveUnit k data ecc) s (fun u =>
    u.stack k.val = { s.stack k.val with move := none, moveRes := 0x03 } ∧ u.mem = s.mem) := by
  have hlost : s.moveOne k.val data ecc = s.moveLost k.val := by
    rw [State.moveOne_fromHost hmove hup hspill hdev hfn hfrom]
    cases data with
    | none => rfl
    | some bs => exact if_neg (by simpa using h)
  exact ⟨_, congrArg Host.Outcome.next hlost, State.stack_moveLost rfl _, rfl⟩

end

end

end Sys2Proof.Machine

open Sys2Proof Sys2Proof.Machine

/-- Settles O34: the conditions of a move in their order, and for each unit whether it is complete or stops the move. -/
theorem pageMoverMovesUnitsInOrder : Obligations.PageMoverMovesUnitsInOrder := by
  refine ⟨?command, ?spill, ?unit⟩
  case command =>
    intro m k h s hreach i x may dev host units bad
    have hexec := exec_move m k h s
    refine ⟨fun hm => ?_, fun hm hrun => ?_, fun hm hidle hbad => ?_, fun hm hidle hgood => ?_⟩
    · exact hexec.trans (congrArg _ (State.moveCmd_denied hreach hm h))
    · exact hexec.trans (congrArg _ (State.moveCmd_busy hreach hm hrun h))
    · refine ⟨_, hexec.trans (congrArg _ ((State.moveCmd_idle hreach hm hidle h).trans (if_pos hbad))), ?_, ?_⟩
      · simp [State.moveResult, x]
      · exact (State.moveResult_see (π := State.except [.stks]) _ _ _ (by simp)).trans
          (State.setStack_see (π := State.except [.stks]) _ _ _ (by simp))
    · exact hexec.trans (congrArg _ ((State.moveCmd_idle hreach hm hidle h).trans (if_neg hgood)))
  case spill => exact fun k data ecc s h => congrArg Host.Outcome.next (State.moveOne_spill h data ecc)
  case unit =>
    intro k data ecc s o x dev v fn ok hmove hup hspill
    refine ⟨fun hto hclean hok => does_moveUnit_toHost hmove hup hspill rfl rfl hto hclean hok,
      fun hto hbad => does_moveUnit_poisoned hmove hup hspill rfl rfl hto hbad,
      fun bs hfrom hdata hok => does_moveUnit_fromHost hmove hup hspill rfl rfl hfrom hdata hok, ?lost⟩
    rintro (⟨hto, hclean, hok⟩ | ⟨hfrom, h⟩)
    · exact does_moveUnit_toHost_lost hmove hup hspill rfl rfl hto hclean hok
    · exact does_moveUnit_fromHost_lost hmove hup hspill rfl rfl hfrom h
end

section
/-!
Attention in the stacks (R284, R285, R290, R294, R310): what each event of the near-memory engine leaves of its command. It
settles O38.
-/
namespace Sys2Proof.Machine
set_option Elab.async false

theorem State.nme_of_nmes {s t : State} (h : t.nmes = s.nmes) (k : Nat) : t.nme k = s.nme k := by
  rw [State.nme, State.nme, h]

theorem State.kvf_of_kvfs {s t : State} (h : t.kvfs = s.kvfs) (k : Nat) : t.kvf k = s.kvf k := by
  rw [State.kvf, State.kvf, h]

theorem State.ses_of_sess {s t : State} (h : t.sess = s.sess) (k : Nat) : t.ses k = s.ses k := by
  rw [State.ses, State.ses, h]

/-! ## The engine's command -/

theorem State.nmeOp_found {s : State} {k p q : Nat} {o : AttOp} {c : Cmd} (h : s.nmeOp k = some (o, c, p, q)) :
    (s.nme k).ops.find? (·.started) = some o ∧ s.cmdAt o.ref = some c ∧ s.queOwner o.ref.q = some (p, q) := by
  unfold State.nmeOp at h
  split at h
  · cases h
  case h_2 x hx =>
    split at h
    case h_1 hc ho =>
      simp only [Option.some.injEq, Prod.mk.injEq] at h
      obtain ⟨rfl, rfl, rfl, rfl⟩ := h
      exact ⟨hx, hc, ho⟩
    · cases h

theorem State.nmeOp_eq {s : State} {k p q : Nat} {o : AttOp} {c : Cmd} (hx : (s.nme k).ops.find? (·.started) = some o)
    (hc : s.cmdAt o.ref = some c) (ho : s.queOwner o.ref.q = some (p, q)) : s.nmeOp k = some (o, c, p, q) := by
  simp only [State.nmeOp, hx, hc, ho]

/-- A started command put in the place of those of its reference is the one that the engine runs. -/
theorem find?_started_put {os : List AttOp} {o o' : AttOp} (h : os.find? (·.started) = some o) (hr : o'.ref = o.ref)
    (hs : o'.started = o.started) : (os.map (fun x => if x.ref = o'.ref then o' else x)).find? (·.started) = some o' := by
  have ho : o'.started = true := hs.trans (List.find?_some h)
  induction os with
  | nil => cases h
  | cons x xs ih =>
    simp only [List.map_cons, List.find?_cons] at h ⊢
    by_cases hx : x.ref = o'.ref
    · simp [hx, ho]
    · cases hst : x.started with
      | true =>
        simp only [hst, Option.some.injEq] at h
        exact absurd (h ▸ hr.symm) hx
      | false =>
        simp only [hst] at h
        simp only [if_neg hx, hst, ih h]

/-- An operation put back, with what else its engine's event changes outside of the engine. -/
theorem State.ops_setOp {s t : State} {k : Nat} (h : (t.nme k).ops = (s.nme k).ops) (o : AttOp) :
    ((t.setOp k o).nme k).ops = (s.nme k).ops.map (fun x => if x.ref = o.ref then o else x) := by
  rw [← h]
  simp [State.setOp]

/-! ## The beginning (R284, R297) -/

theorem exec_attend (k : Fin 12) (b : Bool) (s : State) :
    exec (if b then .nmeAttendBwd k else .nmeAttend k) s = .next (s.startOp k.val b) := by
  cases b <;> rfl

theorem State.startOp_first {s : State} {k : Nat} {o : AttOp} {os : List AttOp} (h : (s.nme k).ops = o :: os)
    (hn : ∀ x ∈ o :: os, x.started = false) : s.startOp k o.bwd =
      (s.setNme k { s.nme k with ops := { o with started := true } :: os, entryIdx := 0 }).progress .nme k true := by
  have hany : ¬ (o :: os).any (·.started) = true := by
    rw [List.any_eq_true]
    rintro ⟨x, hx, hst⟩
    exact absurd hst (by simp [hn x hx])
  simp only [State.startOp, h, if_neg hany, if_true]

theorem does_attend {k : Fin 12} {s : State} {o : AttOp} {os : List AttOp} (h : (s.nme k.val).ops = o :: os)
    (hn : ∀ x ∈ o :: os, x.started = false) : Does (if o.bwd then .nmeAttendBwd k else .nmeAttend k) s (fun u =>
      u.nme k.val = { s.nme k.val with ops := { o with started := true } :: os, entryIdx := 0 } ∧
      u.except [.nmes, .timers] = s.except [.nmes, .timers]) := by
  refine ⟨_, (exec_attend k o.bwd s).trans (congrArg _ (State.startOp_first h hn)), ?_, ?_⟩
  · exact (State.nme_of_nmes (State.progress_see (π := State.nmes) _ _ _ _ (by simp)) _).trans (by simp)
  · exact (State.progress_see (π := State.except [.nmes, .timers]) _ _ _ _ (by simp)).trans
      (State.setNme_see (π := State.except [.nmes, .timers]) _ _ _ (by simp))

section
variable {k : Fin 12} {s : State} {o : AttOp} {c : Cmd} {p q : Nat} (hop : s.nmeOp k.val = some (o, c, p, q))
include hop

/-! ## Taking up an entry (R284) -/

theorem exec_takeUp_waiting (h : ∃ e ∈ o.entries, e.waiting = true) : exec (.nmeEntryTakeUp k) s = .next s := by
  have hany : o.entries.any (·.waiting) = true := List.any_eq_true.2 h
  simp only [exec, execNmeEntryTakeUp, hop, hany, or_true, if_true]

theorem exec_takeUp_last (h : atN c ≤ o.next) : exec (.nmeEntryTakeUp k) s = .next s := by
  simp only [exec, execNmeEntryTakeUp, hop, h, true_or, if_true]

theorem does_takeUp {e : AttEntry} {v : State} (hnext : o.next < atN c)
    (hopen : (o.entries.filter (fun x => !x.written)).length < 2) (hwait : ∀ x ∈ o.entries, x.waiting = false)
    (hses : atExplicit c = true ∨ ∀ x ∈ o.entries, x.written = false → enSession x.words ≠
      enSession ((List.range 8).map (fun j => BitVec.ofNat 64 (s.heldLe p c.held (atBatch c + 64 * o.next + 8 * j) 8))))
    (hheld : s.heldStops p c.held (atBatch c + 64 * o.next) 64 = none) (htake : s.takeEntry k.val p q o.next c = (.ok e, v)) :
    Does (.nmeEntryTakeUp k) s (fun u => (u.nme k.val).ops = (s.nme k.val).ops.map (fun x =>
      if x.ref = o.ref then { o with next := o.next + 1, entries := o.entries ++ [e] } else x)) := by
  have hgo : ¬ (atN c ≤ o.next ∨ 2 ≤ (o.entries.filter (fun e => !e.written)).length ∨ o.entries.any (·.waiting) = true) := by
    simp only [not_or, not_le, List.any_eq_true, not_exists, not_and]
    exact ⟨hnext, hopen, fun x hx => by simp [hwait x hx]⟩
  have hone : ¬ (¬ atExplicit c = true ∧ (o.entries.filter (fun e => !e.written)).any (fun x => decide (enSession x.words =
      enSession ((List.range 8).map (fun j => BitVec.ofNat 64 (s.heldLe p c.held (atBatch c + 64 * o.next + 8 * j) 8))))) = true) := by
    rintro ⟨hex, hany⟩
    obtain ⟨x, hx, hsame⟩ := List.any_eq_true.1 hany
    obtain ⟨hmem, hopen⟩ := List.mem_filter.1 hx
    exact hses.resolve_left hex x hmem (by simpa using hopen) (of_decide_eq_true hsame)
  refine ⟨((v.setOp k.val { o with next := o.next + 1, entries := o.entries ++ [e] }).progress .nme k.val true).bump, ?_, ?_⟩
  · simp only [exec, execNmeEntryTakeUp, hop, if_neg hgo, if_neg hone, hheld, htake]
  · have hv : v.nmes = s.nmes := State.takeEntry_see_of (π := State.nmes) htake (by simp)
    exact (congrArg Nme.ops (State.nme_of_nmes ((State.bump_see (π := State.nmes) _ (by simp)).trans
      (State.progress_see (π := State.nmes) _ _ _ _ (by simp))) _)).trans
      (State.ops_setOp (congrArg Nme.ops (State.nme_of_nmes hv _)) { o with next := o.next + 1, entries := o.entries ++ [e] })

/-! ## The walk of a frame (R290) -/

omit hop in
/-- What a walk reads is not touched by the checks of the lines and by the watchdog. -/
theorem State.walkFwd_checked (s : State) (k : Nat) (lines : List Nat) (ecc : List EccFind) (c : Cmd) (e : AttEntry)
    (f : FrameRef) : ((s.eccChecks k lines ecc).progress .nme k true).walkFwd k c e f = s.walkFwd k c e f := by
  refine (State.progress_see (π := fun t => t.walkFwd k c e f) _ _ _ _ fun _ _ => rfl).trans ?_
  exact State.eccChecks_see (π := fun t => t.walkFwd k c e f) _ _ _ _
    ⟨fun _ _ => rfl, fun _ _ => rfl, fun _ _ => rfl, fun _ _ => rfl⟩

/-- A walked frame is counted. -/
def State.countWalked (s : State) (k free idx : Nat) (w : Who) : State :=
  let s := { s with free := free }
  (s.setNme k { s.nme k with frames := (s.nme k).frames + 1, entryIdx := BitVec.ofNat 12 idx }).countStack k 0x0208 1 w

omit hop in
theorem State.countWalked_nme {s t : State} (h : t.nmes = s.nmes) (k free idx : Nat) (w : Who) :
    (t.countWalked k free idx w).nme k =
      { s.nme k with frames := (s.nme k).frames + 1, entryIdx := BitVec.ofNat 12 idx } := by
  rw [← State.nme_of_nmes h k]
  exact (State.nme_of_nmes (State.countStack_see (π := State.nmes) _ _ _ _ _ (by simp)) _).trans
    ((State.nme_setNme ..).trans (if_pos rfl))

theorem does_walkFrame {ecc : List EccFind} {e : AttEntry} {f : FrameRef} {n base : Nat} {lines : List Nat} {v : State}
    (hn : slotsOf f (enLimit e.words) = n) (hbase : s.frameBase k.val f.frame = base)
    (hlines : (List.range 2048).filter (fun l => ((atForm c).parts 0 n).any (fun x => (linesOf x.1 x.2).contains l)) = lines)
    (hv : s.eccChecks k.val (lines.map (fun l => base / 64 + l)) ecc = v)
    (hwalk : s.walking k.val p o c = some e) (hldg : s.ldgHolds ⟨.ldgStack, k.val⟩ 4 = false) (hok : e.status = .ok)
    (hf : e.frames[e.walked]? = some f) (hmore : e.walked + 1 ≠ e.frames.length) (hfwd : atBwd c = false)
    (hclean : ∀ x ∈ (atForm c).parts 0 n, v.poisoned (base + x.1) x.2 = false) :
    Does (.nmeFrameWalk k ecc) s (fun u =>
      (u.nme k.val).frames = (s.nme k.val).frames + 1 ∧ u.mem = s.mem ∧
      (u.nme k.val).ops = (s.nme k.val).ops.map (fun x => if x.ref = o.ref then
        o.put { e with rows := s.walkFwd k.val c e f, walked := e.walked + 1 } else x)) := by
  have hgood : ¬ ((atForm c).parts 0 n).any (fun x => (v.progress .nme k.val true).poisoned (base + x.1) x.2) = true := by
    rw [List.any_eq_true]
    rintro ⟨x, hx, hp⟩
    rw [State.poisoned_of_poison (State.progress_see (π := State.poison) v _ _ _ (by simp)), hclean x hx] at hp
    cases hp
  have hrows : (v.progress .nme k.val true).walkFwd k.val c e f = s.walkFwd k.val c e f := by
    rw [← hv, State.walkFwd_checked]
  have hnmes : (v.progress .nme k.val true).nmes = s.nmes := by
    rw [← hv]
    exact (State.progress_see (π := State.nmes) _ _ _ _ (by simp)).trans (State.eccChecks_see (π := State.nmes) _ _ _ _ (by simp))
  have hmem : (v.progress .nme k.val true).mem = s.mem := by
    rw [← hv]
    exact (State.progress_see (π := State.mem) _ _ _ _ (by simp)).trans (State.eccChecks_see (π := State.mem) _ _ _ _ (by simp))
  generalize hw : v.progress .nme k.val true = w at hgood hrows hnmes hmem
  refine ⟨(w.countWalked k.val (w.free + atRows c * (n + 1)) e.idx (w.whoOf p q c)).setOp k.val
    (o.put { e with rows := s.walkFwd k.val c e f, walked := e.walked + 1 }), ?_, ?_, ?_, ?_⟩
  · simp only [exec, execNmeFrameWalk, hop, hwalk, hldg, hok, hf, hn, hbase, hlines, hv, hw, State.dkvBad, hfwd, hrows, if_neg hgood,
      if_neg hmore, if_true, Bool.false_eq_true, if_false]
    rfl
  · have h := State.countWalked_nme hnmes k.val (w.free + atRows c * (n + 1)) e.idx (w.whoOf p q c)
    simp [State.setOp, h]
  · exact (State.setOp_see (π := State.mem) _ _ _ (by simp)).trans
      ((State.countStack_see (π := State.mem) _ _ _ _ _ (by simp)).trans hmem)
  · exact State.ops_setOp ((congrArg Nme.ops (State.countWalked_nme hnmes ..)).trans rfl) _

/-! ## Handles (R285, R294, R336) -/

section
variable {e : AttEntry} {es : List AttEntry} (hents : o.entries = e :: es)
include hents

theorem exec_push_unwritten (h : e.written = false) : exec (.nmeHandlePush k) s = .next s := by
  simp [exec, execNmeHandlePush, hop, hents, h]

variable (hw : e.written = true)
include hw

theorem does_push_unflushed {w : HostWr} {v : State} (hring : atRingEn c = true)
    (hflush : s.flushReads (entryHost s p c e).toList = (some w, v)) :
    Does (.nmeHandlePush k) s (fun u => (u.que o.ref.q).halted = true) := by
  obtain ⟨-, hc, ho⟩ := State.nmeOp_found hop
  have hsame : (v.endOp k.val o).commands = s.commands :=
    (State.endOp_see (π := State.commands) _ _ _ (by simp)).trans (State.flushReads_see_of (π := State.commands) hflush (by simp))
  refine ⟨(v.endOp k.val o).failRef o.ref ⟨0x07, 0, 0, 0, w.va, 0x7F⟩ 1 k.val 0, ?_, ?_⟩
  · simp only [exec, execNmeHandlePush, hop, hents, hw, not_true, if_false, hring, if_true, hflush]
  · exact State.failRef_halts hsame (by simp [ho]) (by simp [hc]) ..

/-- The event of a push, with the state `v` after the flush and the state `t` with its handle in its ring. -/
theorem exec_push {v t : State}
    (hflush : (if atRingEn c then s.flushReads (entryHost s p c e).toList else (none, s)) = (none, v))
    (ht : (if atRingEn c then (v.setOp k.val { o with entries := es }).setRing (ringKey p (atRing c))
      { v.ring (ringKey p (atRing c)) with
        pushes := (v.ring (ringKey p (atRing c))).pushes ++ [(.nme k.val o.ref, handleWords c e, false)] }
      else v.setOp k.val { o with entries := es }) = t) :
    exec (.nmeHandlePush k) s = .next ((t.progress .nme k.val true).nmeMaybeDone k.val) := by
  simp only [exec, execNmeHandlePush, hop, hents, hw, not_true, if_false, hflush, ← ht]
  rfl

omit hents hw in
/-- The command goes on where its state has entries left, entries to come, or a handle that waits. -/
theorem State.nmeMaybeDone_goes_on {t : State} {o' : AttOp} (hr : o'.ref = o.ref) (hs : o'.started = o.started)
    (hnmes : (t.nme k.val).ops = (s.nme k.val).ops.map (fun x => if x.ref = o'.ref then o' else x))
    (hsame : t.commands = s.commands) (hmore : ¬ (atN c ≤ o'.next ∧ o'.entries = [] ∧ nmePushes t p k.val c o'.ref = [])) :
    t.nmeMaybeDone k.val = t := by
  obtain ⟨hx, hc, ho⟩ := State.nmeOp_found hop
  have h : t.nmeOp k.val = some (o', c, p, q) := State.nmeOp_eq (by rw [hnmes, find?_started_put hx hr hs])
    (by rw [hr, State.cmdAt_of_commands hsame, hc]) (by rw [hr, State.queOwner_of_commands hsame, ho])
  simp only [State.nmeMaybeDone, h, if_neg hmore]

theorem does_push_ring {v : State} (hring : atRingEn c = true)
    (hflush : s.flushReads (entryHost s p c e).toList = (none, v)) : Does (.nmeHandlePush k) s (fun u =>
      (u.ring (ringKey p (atRing c))).pushes =
        (s.ring (ringKey p (atRing c))).pushes ++ [(.nme k.val o.ref, handleWords c e, false)] ∧
      (u.ring (ringKey p (atRing c))).entries = (s.ring (ringKey p (atRing c))).entries ∧ u.ques = s.ques ∧
      (u.nme k.val).ops = (s.nme k.val).ops.map (fun x => if x.ref = o.ref then { o with entries := es } else x)) := by
  have hexec := exec_push hop hents hw (v := v) (by rw [if_pos hring, hflush]) rfl
  rw [if_pos hring] at hexec
  generalize ht : ((v.setOp k.val { o with entries := es }).setRing (ringKey p (atRing c)) { v.ring (ringKey p (atRing c)) with
    pushes := (v.ring (ringKey p (atRing c))).pushes ++ [(.nme k.val o.ref, handleWords c e, false)] }) = t at hexec
  have hrv : v.ring (ringKey p (atRing c)) = s.ring (ringKey p (atRing c)) :=
    State.ring_of_rings (State.flushReads_see_of (π := State.rings) hflush (by simp)) _
  have hring : (t.progress .nme k.val true).ring (ringKey p (atRing c)) = { s.ring (ringKey p (atRing c)) with
      pushes := (s.ring (ringKey p (atRing c))).pushes ++ [(.nme k.val o.ref, handleWords c e, false)] } := by
    refine (State.ring_of_rings (State.progress_see (π := State.rings) _ _ _ _ (by simp)) _).trans ?_
    rw [← ht, State.ring_setRing, if_pos rfl, hrv]
  have hops : ((t.progress .nme k.val true).nme k.val).ops =
      (s.nme k.val).ops.map (fun x => if x.ref = o.ref then { o with entries := es } else x) := by
    refine Eq.trans (congrArg Nme.ops (State.nme_of_nmes ?_ _)) (State.ops_setOp (t := v) ?_ { o with entries := es })
    · rw [← ht]
      exact (State.progress_see (π := State.nmes) _ _ _ _ (by simp)).trans (State.setRing_see (π := State.nmes) _ _ _ (by simp))
    · exact congrArg Nme.ops (State.nme_of_nmes (State.flushReads_see_of (π := State.nmes) hflush (by simp)) _)
  have hsame : (t.progress .nme k.val true).commands = s.commands := by
    rw [← ht]
    exact (State.progress_see (π := State.commands) _ _ _ _ (by simp)).trans
      ((State.setRing_see (π := State.commands) _ _ _ (by simp)).trans ((State.setOp_see (π := State.commands) _ _ _ (by simp)).trans
        (State.flushReads_see_of (π := State.commands) hflush (by simp))))
  have hwaits : nmePushes (t.progress .nme k.val true) p k.val c o.ref ≠ [] :=
    List.ne_nil_of_mem (List.mem_filter.2 ⟨by rw [hring]; exact List.mem_append_right _ (List.mem_singleton_self _), by simp⟩)
  rw [State.nmeMaybeDone_goes_on hop (o' := { o with entries := es }) rfl rfl hops hsame fun h => hwaits h.2.2] at hexec
  exact ⟨_, hexec, by rw [hring], by rw [hring], (State.commands_iff.1 hsame).1, hops⟩

theorem does_push_unringed (hring : atRingEn c = false) (hmore : es ≠ [] ∨ o.next < atN c) :
    Does (.nmeHandlePush k) s (fun u => u.rings = s.rings ∧ u.ques = s.ques ∧
      (u.nme k.val).ops = (s.nme k.val).ops.map (fun x => if x.ref = o.ref then { o with entries := es } else x)) := by
  have hexec := exec_push hop hents hw (v := s) (by simp [hring]) rfl
  rw [if_neg (by simp [hring])] at hexec
  have hops : (((s.setOp k.val { o with entries := es }).progress .nme k.val true).nme k.val).ops =
      (s.nme k.val).ops.map (fun x => if x.ref = o.ref then { o with entries := es } else x) :=
    (congrArg Nme.ops (State.nme_of_nmes (State.progress_see (π := State.nmes) _ _ _ _ (by simp)) _)).trans
      (State.ops_setOp rfl { o with entries := es })
  have hsame : ((s.setOp k.val { o with entries := es }).progress .nme k.val true).commands = s.commands :=
    (State.progress_see (π := State.commands) _ _ _ _ (by simp)).trans (State.setOp_see (π := State.commands) _ _ _ (by simp))
  rw [State.nmeMaybeDone_goes_on hop (o' := { o with entries := es }) rfl rfl hops hsame
    fun ⟨hn, hes, _⟩ => hmore.elim (· hes) (by simpa using hn)] at hexec
  refine ⟨_, hexec, ?_, (State.commands_iff.1 hsame).1, hops⟩
  exact (State.progress_see (π := State.rings) _ _ _ _ (by simp)).trans (State.setOp_see (π := State.rings) _ _ _ (by simp))

end

end

/-! ## The end of a spill copy (R310) -/

/-- The frame table as a copy that was carried out leaves it. -/
def Kvf.spilled (v : Kvf) (o : SpillOp) : Kvf :=
  ({ v with spill := v.spill.filter (fun x => decide (x ≠ o)) }.setFrame o.frame .reset).setRcd o.recNo
    { v.rcd o.recNo with st := .spilled }

theorem Kvf.spilled_leaves (v : Kvf) (o : SpillOp) : (v.spilled o).rcd o.recNo = { v.rcd o.recNo with st := .spilled } ∧
    (v.spilled o).frame o.frame = .reset ∧ (v.spilled o).spill = v.spill.filter (fun x => decide (x ≠ o)) := by
  simp [Kvf.spilled, Kvf.rcd, Kvf.frame, Kvf.setRcd, Kvf.setFrame]

theorem State.spillEnd_ok (s : State) (k p : Nat) (o : SpillOp) (w : Who) : s.spillEnd k p o true w =
    ((s.setKvf k ((s.kvf k).spilled o)).countStack k 0x020C 1 nobody).ledgerEvict k o.frame 1 ((s.kvf k).rcd o.recNo).ent w :=
  rfl

theorem State.spillEnd_kvf {s t : State} (h : t.kvfs = s.kvfs) (k p : Nat) (o : SpillOp) (w : Who) :
    (t.spillEnd k p o true w).kvf k = (s.kvf k).spilled o := by
  rw [State.spillEnd_ok, ← State.kvf_of_kvfs h]
  exact (State.kvf_of_kvfs ((State.ledgerEvict_see (π := State.kvfs) _ _ _ _ _ _ (by simp)).trans
    (State.countStack_see (π := State.kvfs) _ _ _ _ _ (by simp))) _).trans (by simp)

theorem State.mem_out_spillEnd {s : State} {x : Out} (h : x ∈ s.out) (k p : Nat) (o : SpillOp) (w : Who) :
    x ∈ (s.spillEnd k p o true w).out := by
  rw [State.spillEnd_ok]
  refine State.mem_out_ledger ?_ ..
  exact (congrArg (x ∈ ·) (State.countStack_see (π := State.out) _ _ _ _ _ (by simp))).mpr h

theorem exec_spillCopyDone_command {k : Fin 12} {s : State} {o : SpillOp} {os : List SpillOp} {p : Nat}
    (hp : s.stackPart k.val = p) (hsp : (s.kvf k.val).spill = o :: os) (hfor : o.forW = .command) (hses : (s.ses p).op = none)
    (hhost : s.hostOk (s.fnOf p) = true)
    (hclean : ∀ i < 32, s.poisoned (s.frameBase k.val o.frame + 4096 * i) 4096 = false) :
    exec (.spillCopyDone k true) s = .next ((s.hostWrite (s.fnOf p) (s.spillAddr k.val o.recNo)
      (s.readBytes (s.frameBase k.val o.frame) 131072) true).spillEnd k.val p o true nobody) := by
  have hbad : (List.range 32).find? (fun i => s.poisoned (s.frameBase k.val o.frame + 4096 * i) 4096) = none :=
    List.find?_eq_none.2 fun i hi => by simp [hclean i (List.mem_range.1 hi)]
  have hend : ∀ t : State, t.sess = s.sess → ((t.spillEnd k.val p o true nobody).ses p).op = none := fun t ht => by
    refine (congrArg Ses.op (State.ses_of_sess ?_ p)).trans hses
    exact (State.ledgerEvict_see (π := State.sess) _ _ _ _ _ _ (by simp)).trans
      ((State.countStack_see (π := State.sess) _ _ _ _ _ (by simp)).trans ht)
  have hsent : (s.hostWrite (s.fnOf p) (s.spillAddr k.val o.recNo) (s.readBytes (s.frameBase k.val o.frame) 131072) true).sess =
      s.sess := State.hostWrite_see (π := State.sess) _ _ _ _ _ (by simp)
  simp [exec, execSpillCopyDone, hp, hsp, hhost, hbad, hfor, hend _ hsent]

theorem does_spillCopyDone {k : Fin 12} {s : State} {o : SpillOp} {os : List SpillOp} {p : Nat} {v : Kvf}
    (hp : s.stackPart k.val = p) (hv : s.kvf k.val = v) (hsp : v.spill = o :: os) (hfor : o.forW = .command)
    (hses : (s.ses p).op = none) (hhost : s.hostOk (s.fnOf p) = true)
    (hclean : ∀ i < 32, s.poisoned (s.frameBase k.val o.frame + 4096 * i) 4096 = false) :
    Does (.spillCopyDone k true) s (fun u =>
      (u.kvf k.val).rcd o.recNo = { v.rcd o.recNo with st := .spilled } ∧ (u.kvf k.val).frame o.frame = .reset ∧
      (u.kvf k.val).spill = v.spill.filter (fun x => decide (x ≠ o)) ∧ u.mem = s.mem ∧
      (∃ bus, .hostWrite (s.fnOf p) bus (s.readBytes (s.frameBase k.val o.frame) 131072) true ∈ u.out)) := by
  subst hv
  refine ⟨_, exec_spillCopyDone_command hp hsp hfor hses hhost hclean, ?_⟩
  have hkvf := State.spillEnd_kvf (State.hostWrite_see (π := State.kvfs) s (s.fnOf p) (s.spillAddr k.val o.recNo)
    (s.readBytes (s.frameBase k.val o.frame) 131072) true (by simp)) k.val p o nobody
  dsimp only
  rw [hkvf]
  obtain ⟨hrec, hframe, hspill⟩ := (s.kvf k.val).spilled_leaves o
  refine ⟨hrec, hframe, hspill, ?_, ?_⟩
  · exact (State.spillEnd_see (π := State.mem) _ _ _ _ _ _ (by simp)).trans (State.hostWrite_see (π := State.mem) _ _ _ _ _ (by simp))
  · obtain ⟨bus, hout⟩ := State.hostWrite_out hhost (s.spillAddr k.val o.recNo)
      (s.readBytes (s.frameBase k.val o.frame) 131072) true
    exact ⟨bus, State.mem_out_spillEnd (by rw [hout]; exact List.mem_append_right _ (List.mem_singleton_self _)) ..⟩

end Sys2Proof.Machine

open Sys2Proof Sys2Proof.Machine

/-- Settles O38, one event of the near-memory engine at a time. -/
theorem attentionTakesEntriesInOrder : Obligations.AttentionTakesEntriesInOrder := by
  refine ⟨?attend, ?takeUp, ?walk, ?push, ?spill⟩
  case attend => exact fun k s o os h hn => does_attend h hn
  case takeUp =>
    exact fun k s o c p q hop => ⟨exec_takeUp_waiting hop, exec_takeUp_last hop,
      fun e v hnext hopen hwait hses hheld htake => does_takeUp hop hnext hopen hwait hses hheld htake⟩
  case walk =>
    exact fun k ecc s o c p q e f hop hwalk hldg hok hf hmore hfwd hclean =>
      does_walkFrame hop rfl rfl rfl rfl hwalk hldg hok hf hmore hfwd hclean
  case push =>
    exact fun k s o c p q e es hop hents => ⟨exec_push_unwritten hop hents,
      fun w v hw hring hflush => does_push_unflushed hop hents hw hring hflush,
      fun v hw hring hflush => does_push_ring hop hents hw hring hflush,
      fun hw hring hmore => does_push_unringed hop hents hw hring hmore⟩
  case spill =>
    exact fun k s o os hsp hfor hses hhost hclean => does_spillCopyDone rfl rfl hsp hfor hses hhost hclean
end

section
/-!
Sessions (R313–R316): what every operation of SES_CMD answers before it acts, and how a session opens, closes, is set and
unparked. It settles O39.
-/
namespace Sys2Proof.Machine
set_option Elab.async false

/-! ## Who may write SES_CMD, BUSY and STALE (R315) -/

section
variable {s : State} {m : Master} {p : Nat} (hreach : s.reaches m ⟨.ses, p⟩ = true) (hcfg : (s.cfgOf p).isSome = true)
include hreach hcfg

theorem State.sesCmd_denied (hm : s.fnOrKp m p = false) (f : State) :
    s.sesCmd m p f = s.setSes p { s.ses p with result := 0x09 } := by
  simp [State.sesCmd, hreach, Option.isSome_iff_ne_none.1 hcfg, hm, State.sesRefuse]

variable (hm : s.fnOrKp m p = true)
include hm

theorem State.sesCmd_busy (hop : (s.ses p).op ≠ none) (f : State) :
    s.sesCmd m p f = s.setSes p { s.ses p with result := 0x01 } := by
  simp [State.sesCmd, hreach, Option.isSome_iff_ne_none.1 hcfg, hm, Option.isSome_iff_ne_none.2 hop, State.sesRefuse]

theorem State.sesCmd_runs (hop : (s.ses p).op = none) (f : State) : s.sesCmd m p f = f := by
  simp [State.sesCmd, hreach, Option.isSome_iff_ne_none.1 hcfg, hm, hop]

end

theorem State.onSession_live {s : State} {p i : Nat} (h : s.liveSes p (BitVec.ofNat 32 (s.sesArg p i)) = true)
    (f : Nat → State) : s.onSession p i f = f (handleSlot (BitVec.ofNat 32 (s.sesArg p i))) := if_pos h

theorem State.onSession_stale {s : State} {p i : Nat} (h : s.liveSes p (BitVec.ofNat 32 (s.sesArg p i)) = false)
    (f : Nat → State) : s.onSession p i f = s.sesResult p 0x02 := if_neg (by simp [h])

/-- The operations that act on the live session of ARG0. -/
def namedSesCmds (m : Master) (p : Fin 8) : List Instr :=
  [.sesCmdClose m p, .sesCmdSet m p, .attach m p, .publish m p, .sesCmdSpill m p, .sesCmdFetch m p, .unpark m p, .pin m p]

theorem exec_namedSesCmd {m : Master} {p : Fin 8} {i : Instr} (h : i ∈ namedSesCmds m p) (s : State) :
    ∃ f, exec i s = .next (s.sesCmd m p.val (s.onSession p.val 0 f)) := by
  simp only [namedSesCmds, List.mem_cons, List.not_mem_nil, or_false] at h
  rcases h with rfl | rfl | rfl | rfl | rfl | rfl | rfl | rfl <;> exact ⟨_, rfl⟩

theorem exec_sesCmd {m : Master} {p : Fin 8} {i : Instr}
    (h : i ∈ namedSesCmds m p ++ [.sesCmdOpen m p, .fork m p, .tick m p, .pfxFlush m p]) (s : State) :
    ∃ f, exec i s = .next (s.sesCmd m p.val f) := by
  rcases List.mem_append.1 h with h | h
  · obtain ⟨f, hf⟩ := exec_namedSesCmd h s
    exact ⟨_, hf⟩
  · simp only [List.mem_cons, List.not_mem_nil, or_false] at h
    rcases h with rfl | rfl | rfl | rfl <;> exact ⟨_, rfl⟩

/-! ## Session entries and arguments -/

theorem State.sesEnt_of_sess {s t : State} (h : t.sess = s.sess) (p j : Nat) : t.sesEnt p j = s.sesEnt p j := by
  rw [State.sesEnt, State.sesEnt, State.ses_of_sess h]

theorem State.sesEnt_setSesEnt (s : State) (p n j : Nat) (e : SesEnt) :
    (s.setSesEnt p n e).sesEnt p j = if j = n then e else s.sesEnt p j := by
  simp [State.sesEnt, State.setSesEnt]

theorem State.sesEnt_sesResult (s : State) (p j : Nat) (r : Byte) : (s.sesResult p r).sesEnt p j = s.sesEnt p j := by
  simp [State.sesEnt, State.sesResult]

theorem State.op_sesResult (s : State) (p : Nat) (r : Byte) : ((s.sesResult p r).ses p).op = none := by
  simp [State.sesResult]

theorem State.sesArg_setSesArg (s : State) (p i v : Nat) (r : Byte) :
    ((s.setSesArg p i v).sesResult p r).sesArg p i = v % 2 ^ 32 := by
  simp [State.sesArg, State.setSesArg, State.rw, State.setPlain, plainWord, State.sesResult, State.blk, State.setSes,
    State.setBlk, bitsOf]

theorem State.sesArg_setSesArg_toNat (s : State) (p i : Nat) (v : W32) (r : Byte) :
    ((s.setSesArg p i v.toNat).sesResult p r).sesArg p i = v.toNat := by
  rw [State.sesArg_setSesArg, Nat.mod_eq_of_lt v.isLt]

/-- A session entry changed and the operation ended. -/
theorem State.setSesEnt_sesResult_leaves (s : State) (p n : Nat) (e : SesEnt) (r : Byte) :
    let u := (s.setSesEnt p n e).sesResult p r
    u.sesEnt p n = e ∧ (u.ses p).result = r ∧ u.except [.sess] = s.except [.sess] := by
  refine ⟨?_, State.result_sesResult .., ?_⟩
  · rw [State.sesEnt_sesResult, State.sesEnt_setSesEnt, if_pos rfl]
  · exact (State.sesResult_see (π := State.except [.sess]) _ _ _ (by simp)).trans
      (State.setSesEnt_see (π := State.except [.sess]) _ _ _ _ (by simp))

/-! ## OPEN (R313, R315) -/

/-- The slot that OPEN takes lies below the quota and holds an opened entry of the next GEN. -/
theorem State.openSlot_found {s v : State} {p n : Nat} (h : s.openSlot p = some (n, v)) : n < s.sesQuota p ∧
    v = s.setSesEnt p n (({ SesEnt.reset with st := .opened, gen := nextGen (s.sesEnt p n).gen } : SesEnt).policyWord
      (s.sesArg p 1)) := by
  unfold State.openSlot at h
  dsimp only at h
  split at h
  case isTrue hlt =>
    obtain ⟨rfl, rfl⟩ := Prod.mk.inj (Option.some.inj h)
    exact ⟨hlt, rfl⟩
  case isFalse => cases h

/-! ## CLOSE (R316) -/

/-- Stacks that are worked on once each: a view of one stack follows the work on it. -/
theorem foldl_once {α : Type} {π : State → α} {f : State → Nat → State} {φ : α → α} {k : Nat}
    (hf : ∀ s j, π (f s j) = if k = j then φ (π s) else π s) {l : List Nat} (hl : l.Nodup) (s : State) :
    π (l.foldl f s) = if k ∈ l then φ (π s) else π s := by
  induction l generalizing s with
  | nil => rfl
  | cons j l ih =>
    obtain ⟨hj, hl⟩ := List.nodup_cons.1 hl
    rw [List.foldl_cons, ih hl, hf]
    by_cases h : k = j
    · subst h
      simp [hj]
    · simp [h]

theorem State.frameStacks_nodup (s : State) (p : Nat) : (s.frameStacks p).Nodup := by
  unfold State.frameStacks
  split
  · exact (List.nodup_range.filter _).filter _
  · exact List.nodup_nil

/-- What each stack of a list holds after one change to its frame table. -/
theorem State.kvf_foldl_setKvf (f : Kvf → Kvf) {l : List Nat} (hl : l.Nodup) (s : State) (k : Nat) :
    (l.foldl (fun s j => s.setKvf j (f (s.kvf j))) s).kvf k = if k ∈ l then f (s.kvf k) else s.kvf k := by
  refine foldl_once (π := fun t => t.kvf k) (φ := f) (fun s j => ?_) hl s
  rw [State.kvf_setKvf]
  split
  case isTrue h => rw [h]
  case isFalse => rfl

theorem State.closeSession_kvf (s : State) (p n k : Nat) : (s.closeSession p n).kvf k =
    if k ∈ s.frameStacks p then (s.kvf k).closeSlot n else s.kvf k :=
  (State.kvf_of_kvfs (State.setSesEnt_see (π := State.kvfs) _ _ _ _ (by simp)) k).trans
    (State.kvf_foldl_setKvf (·.closeSlot n) (s.frameStacks_nodup p) s k)

theorem State.closeSession_sesEnt (s : State) (p n : Nat) :
    (s.closeSession p n).sesEnt p n = { SesEnt.reset with gen := (s.sesEnt p n).gen } := by
  unfold State.closeSession
  dsimp only
  rw [State.sesEnt_setSesEnt, if_pos rfl, State.sesEnt_of_sess]
  exact foldl_see_mem (π := State.sess) (fun t k _ => State.setKvf_see (π := State.sess) t k _ (by simp)) s

theorem Kvf.slot_ne_of_mem_closeSlot {v : Kvf} {n : Nat} {d : DirEnt} (h : d ∈ (v.closeSlot n).dir) : d.slot ≠ n := by
  simpa using (List.mem_filter.1 h).2

theorem exec_closeHoldsEnd {p : Fin 8} {s : State} {n : Nat} (h : (s.ses p.val).op = some (.close n)) :
    exec (.closeHoldsEnd p) s = .next (if s.sesHeld p.val n ∨ s.sesSpilling p.val n then s
      else (s.closeSession p.val n).sesResult p.val 0x00) := by
  simp only [exec, execCloseHoldsEnd, h]

theorem does_closeHoldsEnd {p : Fin 8} {s : State} {n : Nat} (h : (s.ses p.val).op = some (.close n))
    (hheld : s.sesHeld p.val n = false) (hspill : s.sesSpilling p.val n = false) : Does (.closeHoldsEnd p) s (fun u =>
      u.sesEnt p.val n = { SesEnt.reset with gen := (s.sesEnt p.val n).gen } ∧ (u.ses p.val).op = none ∧
      (u.ses p.val).result = 0x00 ∧ (∀ k ∈ s.frameStacks p.val, ∀ d ∈ (u.kvf k).dir, d.slot ≠ n)) := by
  refine ⟨_, (exec_closeHoldsEnd h).trans (congrArg _ (if_neg (by simp [hheld, hspill]))), ?_, State.op_sesResult ..,
    State.result_sesResult .., fun k hk d hd => ?_⟩
  · rw [State.sesEnt_sesResult, State.closeSession_sesEnt]
  · rw [State.kvf_of_kvfs (State.sesResult_see (π := State.kvfs) _ _ _ (by simp)), State.closeSession_kvf, if_pos hk] at hd
    exact Kvf.slot_ne_of_mem_closeSlot hd

/-! ## The operations of a session that is named -/

section
variable {s : State} {m : Master} {p : Fin 8} (hruns : ∀ f, s.sesCmd m p.val f = f)
include hruns

theorem exec_open_full (h : s.openSlot p.val = none) :
    exec (.sesCmdOpen m p) s = .next (s.setSes p.val { s.ses p.val with op := none, result := 0x04 }) := by
  simp only [exec, execSesCmdOpen, hruns, h]
  rfl

theorem does_open {n : Nat} {v : State} (h : s.openSlot p.val = some (n, v)) : Does (.sesCmdOpen m p) s (fun u =>
    let g := nextGen (s.sesEnt p.val n).gen
    n < s.sesQuota p.val ∧ (u.sesEnt p.val n).st = .opened ∧ (u.sesEnt p.val n).gen = g ∧
    u.sesEnt p.val n = ({ SesEnt.reset with st := .opened, gen := g } : SesEnt).policyWord (s.sesArg p.val 1) ∧
    u.sesArg p.val 0 = (handleOf n g).toNat ∧ (u.ses p.val).result = 0x00 ∧
    (∀ j, j ≠ n → u.sesEnt p.val j = s.sesEnt p.val j)) := by
  obtain ⟨hlt, hv⟩ := State.openSlot_found h
  have hent : ∀ j, ((v.setSesArg p.val 0 (handleOf n (v.sesEnt p.val n).gen).toNat).sesResult p.val 0x00).sesEnt p.val j =
      v.sesEnt p.val j := fun j => (State.sesEnt_sesResult ..).trans
    (State.sesEnt_of_sess (State.setSesArg_see (π := State.sess) _ _ _ _ (by simp)) p.val j)
  have hn := (congrArg (State.sesEnt · p.val n) hv).trans ((State.sesEnt_setSesEnt ..).trans (if_pos rfl))
  have hg : (v.sesEnt p.val n).gen = nextGen (s.sesEnt p.val n).gen := congrArg SesEnt.gen hn
  refine ⟨(v.setSesArg p.val 0 (handleOf n (v.sesEnt p.val n).gen).toNat).sesResult p.val 0x00,
    by simp only [exec, execSesCmdOpen, hruns, h], hlt, ?_, ?_, (hent n).trans hn, ?_, State.result_sesResult .., fun j hj => ?_⟩
  · exact congrArg SesEnt.st ((hent n).trans hn)
  · exact congrArg SesEnt.gen ((hent n).trans hn)
  · rw [State.sesArg_setSesArg_toNat, hg]
  · rw [hent j, hv, State.sesEnt_setSesEnt, if_neg hj]

variable {slot : Nat} (hses : ∀ f, s.onSession p.val 0 f = f slot)
include hses

theorem does_close : Does (.sesCmdClose m p) s (fun u => u.sesEnt p.val slot = { s.sesEnt p.val slot with st := .closing } ∧
    (u.ses p.val).op = some (.close slot) ∧ u.except [.sess] = s.except [.sess]) := by
  refine ⟨_, congrArg Host.Outcome.next ((hruns _).trans (hses _)), ?_, ?_, ?_⟩
  · simp [State.sesEnt, State.setSesEnt]
  · simp
  · exact (State.setSes_see (π := State.except [.sess]) _ _ _ (by simp)).trans
      (State.setSesEnt_see (π := State.except [.sess]) _ _ _ _ (by simp))

theorem exec_set : exec (.sesCmdSet m p) s = .next (
    if ((s.sesEnt p.val slot).policyWord (s.sesArg p.val 1)).place ≠ (s.sesEnt p.val slot).place ∧ s.hasChain p.val slot = true
    then s.sesResult p.val 0x03
    else (s.setSesEnt p.val slot ((s.sesEnt p.val slot).policyWord (s.sesArg p.val 1))).sesResult p.val 0x00) :=
  congrArg _ ((hruns _).trans (hses _))

theorem does_set (h : ((s.sesEnt p.val slot).policyWord (s.sesArg p.val 1)).place = (s.sesEnt p.val slot).place ∨
    s.hasChain p.val slot = false) : Does (.sesCmdSet m p) s (fun u =>
      u.sesEnt p.val slot = (s.sesEnt p.val slot).policyWord (s.sesArg p.val 1) ∧
      (u.ses p.val).result = 0x00 ∧ u.except [.sess] = s.except [.sess]) := by
  refine ⟨_, (exec_set hruns hses).trans (congrArg _ (if_neg ?_)), State.setSesEnt_sesResult_leaves ..⟩
  rintro ⟨hplace, hchain⟩
  exact h.elim hplace fun h => by simp [h] at hchain

theorem does_unpark : Does (.unpark m p) s (fun u => u.sesEnt p.val slot = { s.sesEnt p.val slot with parked := false } ∧
    (u.ses p.val).result = 0x00 ∧ u.except [.sess] = s.except [.sess]) :=
  ⟨_, congrArg Host.Outcome.next ((hruns _).trans (hses _)), State.setSesEnt_sesResult_leaves ..⟩

end

end Sys2Proof.Machine

open Sys2Proof Sys2Proof.Machine

/-- Settles O39: what every operation answers first, then OPEN, CLOSE, SET and UNPARK, and the end of a CLOSE. -/
theorem sessionsOpenAndClose : Obligations.SessionsOpenAndClose := by
  intro m p s hreach hcfg x h slot e named all
  refine ⟨fun hm i hi => ?denied, fun hm hop i hi => ?busy, fun hm hop => ?idle, fun n hop => ?ends⟩
  case denied =>
    obtain ⟨f, hf⟩ := exec_sesCmd hi s
    rw [hf, State.sesCmd_denied hreach hcfg hm]
  case busy =>
    obtain ⟨f, hf⟩ := exec_sesCmd hi s
    rw [hf, State.sesCmd_busy hreach hcfg hm hop]
  case idle =>
    have hruns := State.sesCmd_runs hreach hcfg hm hop
    refine ⟨fun hstale i hi => ?_, exec_open_full hruns, fun n v hopen => does_open hruns hopen, fun hlive => ?_⟩
    · obtain ⟨f, hf⟩ := exec_namedSesCmd hi s
      rw [hf, hruns, State.onSession_stale hstale]
      rfl
    · have hses := fun f => State.onSession_live hlive f
      exact ⟨does_close hruns hses, fun hplace hchain => (exec_set hruns hses).trans (congrArg _ (if_pos ⟨hplace, hchain⟩)),
        does_set hruns hses, does_unpark hruns hses⟩
  case ends =>
    exact ⟨fun hheld => (exec_closeHoldsEnd hop).trans (congrArg _ (if_pos hheld)), does_closeHoldsEnd hop⟩
end

section
/-!
Chains and frames (R307, R310, R311, R316, R319, R320, R323, R324): FORK, ATTACH, PUBLISH, SPILL, FETCH, TICK, PIN and
PFX_FLUSH, the end of a copy in, and the two latches. It settles O40.
-/
namespace Sys2Proof.Machine
set_option Elab.async false

/-! ## The state of an operation that ends -/

/-- The operation is over with a RESULT. -/
def State.SesEnded (u : State) (p : Nat) (r : Byte) : Prop := (u.ses p).op = none ∧ (u.ses p).result = r

theorem State.sesEnded_sesResult (s : State) (p : Nat) (r : Byte) : (s.sesResult p r).SesEnded p r :=
  ⟨State.op_sesResult .., State.result_sesResult ..⟩

/-- What an operation that ends with a count in ARG4 leaves. -/
theorem State.endArg_leaves (s : State) (p i n : Nat) (r : Byte) : let u := (s.setSesArg p i n).sesResult p r
    u.SesEnded p r ∧ u.sesArg p i = n % 2 ^ 32 ∧ u.kvfs = s.kvfs ∧ u.parts = s.parts :=
  ⟨State.sesEnded_sesResult .., State.sesArg_setSesArg ..,
    (State.sesResult_see (π := State.kvfs) _ _ _ (by simp)).trans (State.setSesArg_see (π := State.kvfs) _ _ _ _ (by simp)),
    (State.sesResult_see (π := State.parts) _ _ _ (by simp)).trans (State.setSesArg_see (π := State.parts) _ _ _ _ (by simp))⟩

theorem State.kvf_sesResult (s : State) (p k : Nat) (r : Byte) : (s.sesResult p r).kvf k = s.kvf k :=
  State.kvf_of_kvfs (State.sesResult_see (π := State.kvfs) _ _ _ (by simp)) k

theorem State.stacksOf_nodup (s : State) (p : Nat) : (s.stacksOf p).Nodup := by
  unfold State.stacksOf
  cases s.cfgOf p with
  | none => exact List.nodup_nil
  | some c => exact List.nodup_range.filter _

/-! ## TICK (R307) -/

theorem State.kvf_tickStack_ne {s : State} {j k : Nat} (h : k ≠ j) : (s.tickStack j).kvf k = s.kvf k := by
  simp only [State.tickStack]
  exact (State.kvf_setKvf ..).trans ((if_neg h).trans ((State.kvf_setKvf ..).trans (if_neg h)))

theorem State.epoch_tickStack (s : State) (j k : Nat) : ((s.tickStack j).kvf k).epoch =
    if k = j then (s.kvf k).epoch + 1 else (s.kvf k).epoch := by
  by_cases h : k = j
  · subst h
    rw [if_pos rfl]
    simp only [State.tickStack]
    exact congrArg Kvf.epoch ((State.kvf_setKvf ..).trans (if_pos rfl)) |>.trans (by simp)
  · rw [State.kvf_tickStack_ne h, if_neg h]

/-! ## SPILL and FETCH look for their first frame and record -/

section
variable {s : State} {p slot : Nat}

theorem State.spillNext_none (h : ∀ k ∈ s.frameStacks p, (s.kvf k).spillable slot 0 = []) :
    s.spillNext p slot 0 (0, 0) = (s.setSesArg p 4 0).sesResult p 0x00 := by
  have hnone : ((s.frameStacks p).filter (fun k => decide (0 ≤ k))).findSome? (fun k =>
      (((s.kvf k).spillable slot (if k = 0 then 0 else 0)).head?).map (fun f => (k, f))) = none :=
    List.findSome?_eq_none_iff.2 fun k hk => by simp [h k (List.mem_filter.1 hk).1]
  simp only [State.spillNext, hnone]

theorem State.fetchNext_none (h : ∀ k ∈ s.frameStacks p, (s.kvf k).fetchable slot 0 = []) :
    s.fetchNext p slot 0 (0, 0) = (s.setSesArg p 4 0).sesResult p 0x00 := by
  have hnone : ((s.frameStacks p).filter (fun k => decide (0 ≤ k))).findSome? (fun k =>
      (((s.kvf k).fetchable slot (if k = 0 then 0 else 0)).head?).map (fun f => (k, f))) = none :=
    List.findSome?_eq_none_iff.2 fun k hk => by simp [h k (List.mem_filter.1 hk).1]
  simp only [State.fetchNext, hnone]

variable {k : Nat} (hk : s.frameStacks p = [k])
include hk

theorem State.spillNext_first {f i : Nat} {fs : List Nat} (hf : (s.kvf k).spillable slot 0 = f :: fs)
    (hi : s.freeRec k = some i) : s.spillNext p slot 0 (0, 0) =
      (s.spillStart k f i .command).setSes p { (s.spillStart k f i .command).ses p with op := some (.spill slot 0 (k, f + 1)) } := by
  simp [State.spillNext, hk, hf, hi]
  rfl

theorem State.fetchNext_first {f i : Nat} {is : List Nat} {v : State} (hf : (s.kvf k).fetchable slot 0 = i :: is)
    (ha : s.alloc k p ((s.kvf k).rcd i).ent.pool .fetch nobody = (.got f, v)) :
    s.fetchNext p slot 0 (0, 0) = v.fetchInto p k i f slot 0 := by
  simp [State.fetchNext, hk, hf, ha]

end

theorem State.spillStart_kvf (s : State) (k f i : Nat) (w : AllocFor) : let v := (s.spillStart k f i w).kvf k
    (v.frame f).st = .outbound ∧ v.spill = (s.kvf k).spill ++ [⟨f, i, ((s.kvf k).frame f).owner, w⟩] := by
  simp only [State.spillStart, State.kvf_setKvf, if_true]
  exact ⟨by simp [Kvf.frame, Kvf.setFrame], rfl⟩

theorem State.fetchInto_leaves (s : State) (p k i f slot done : Nat) : let u := s.fetchInto p k i f slot done
    (u.ses p).op = some (.fetch slot done (k, i + 1)) ∧ (u.kvf k).fetchOp = some (i, f) ∧
    ((u.kvf k).frame f).st = .inbound ∧ ((u.kvf k).rcd i).st = .fetching := by
  have hkvf : ∀ (t : State) (x : Ses), (t.setSes p x).kvf k = t.kvf k := fun t x =>
    State.kvf_of_kvfs (State.setSes_see (π := State.kvfs) _ _ _ (by simp)) k
  simp only [State.fetchInto, hkvf, State.kvf_setKvf, if_true]
  exact ⟨by simp, trivial, by simp [Kvf.frame, Kvf.setFrame], by simp [Kvf.rcd, Kvf.setFrame, Kvf.setRcd]⟩

/-! ## The operations -/

section
variable {s : State} {m : Master} {p : Fin 8} (hruns : ∀ f, s.sesCmd m p.val f = f)
include hruns

theorem does_fork_shared {parent : Nat} (hses : ∀ f, s.onSession p.val 2 f = f parent)
    (h : (s.frameStacks p.val).any (fun k => ((s.kvf k).sesMembers parent).any (fun x => (x.rec?).isSome)) = true) :
    Does (.fork m p) s (fun u => u.SesEnded p.val 0x07 ∧ u.kvfs = s.kvfs) :=
  ⟨_, congrArg Host.Outcome.next ((hruns _).trans ((hses _).trans (if_pos h))), State.sesEnded_sesResult ..,
    State.sesResult_see (π := State.kvfs) _ _ _ (by simp)⟩

theorem does_fork {parent n : Nat} {v : State} (hses : ∀ f, s.onSession p.val 2 f = f parent)
    (h : (s.frameStacks p.val).any (fun k => ((s.kvf k).sesMembers parent).any (fun x => (x.rec?).isSome)) = false)
    (hopen : s.openSlot p.val = some (n, v)) : Does (.fork m p) s (fun u =>
      u.SesEnded p.val 0x00 ∧ (u.sesEnt p.val n).st = .opened ∧
      u.sesArg p.val 0 = (handleOf n (nextGen (s.sesEnt p.val n).gen)).toNat ∧
      (∀ k ∈ s.frameStacks p.val, u.kvf k = (s.kvf k).forkSlot parent n) ∧ (∀ k, k ∉ s.frameStacks p.val → u.kvf k = s.kvf k)) := by
  obtain ⟨-, hv⟩ := State.openSlot_found hopen
  have hstks : v.frameStacks p.val = s.frameStacks p.val := by rw [hv]; rfl
  have hvk : ∀ k, v.kvf k = s.kvf k := by
    rw [hv]
    exact State.kvf_of_kvfs (State.setSesEnt_see (π := State.kvfs) _ _ _ _ (by simp))
  have hent := (congrArg (State.sesEnt · p.val n) hv).trans ((State.sesEnt_setSesEnt ..).trans (if_pos rfl))
  have hchild : ((v.frameStacks p.val).foldl (fun s k => s.setKvf k ((s.kvf k).forkSlot parent n)) v).sesEnt p.val n =
      v.sesEnt p.val n := State.sesEnt_of_sess
    (foldl_see_mem (π := State.sess) (fun t k _ => State.setKvf_see (π := State.sess) t k _ (by simp)) v) ..
  have hkvf := State.kvf_foldl_setKvf (·.forkSlot parent n) (v.frameStacks_nodup p.val) v
  generalize hw : (v.frameStacks p.val).foldl (fun s k => s.setKvf k ((s.kvf k).forkSlot parent n)) v = w at hchild hkvf
  have hu : ∀ k, ((w.setSesArg p.val 0 (handleOf n (w.sesEnt p.val n).gen).toNat).sesResult p.val 0x00).kvf k = w.kvf k :=
    fun k => (State.kvf_sesResult ..).trans
      (State.kvf_of_kvfs (State.setSesArg_see (π := State.kvfs) _ _ _ _ (by simp)) k)
  refine ⟨(w.setSesArg p.val 0 (handleOf n (w.sesEnt p.val n).gen).toNat).sesResult p.val 0x00, ?exec,
    State.sesEnded_sesResult .., ?opened, ?handle, fun k hk => ?parent, fun k hk => ?other⟩
  case exec => simp only [exec, execFork, hruns, hses, h, Bool.false_eq_true, if_false, hopen, hw]
  case opened =>
    rw [State.sesEnt_sesResult, State.sesEnt_of_sess (State.setSesArg_see (π := State.sess) _ _ _ _ (by simp)), hchild, hent]
    rfl
  case handle =>
    rw [State.sesArg_setSesArg_toNat, hchild, hent]
    rfl
  case parent => rw [hu, hkvf, hstks, if_pos hk, hvk]
  case other => rw [hu, hkvf, hstks, if_neg hk, hvk]

section
variable {slot : Nat} (hses : ∀ f, s.onSession p.val 0 f = f slot)
include hses

theorem does_attach_chained (h : s.hasChain p.val slot = true) :
    Does (.attach m p) s (fun u => u.SesEnded p.val 0x03 ∧ u.kvfs = s.kvfs) :=
  ⟨_, congrArg Host.Outcome.next ((hruns _).trans ((hses _).trans (if_pos h))), State.sesEnded_sesResult ..,
    State.sesResult_see (π := State.kvfs) _ _ _ (by simp)⟩

theorem does_attach {n : Nat} {ok : Bool} {v : State} (h : s.hasChain p.val slot = false)
    (hfrom : s.attachFrom p.val slot (s.argChains p.val) .args 0 (s.sesArg p.val 4) = ((n, ok), v)) :
    Does (.attach m p) s (fun u => u.SesEnded p.val (if ok then 0x00 else 0x06) ∧ u.sesArg p.val 4 = n % 2 ^ 32 ∧
      (n = 0 → u.kvfs = v.kvfs)) := by
  obtain ⟨hend, harg, hkvfs, -⟩ := State.endArg_leaves
    (if n = 0 then v else v.setNextPos p.val slot (512 * n) (s.argChains p.val)) p.val 4 n (if ok then 0x00 else 0x06)
  refine ⟨_, ?_, hend, harg, fun hn => hkvfs.trans (by rw [if_pos hn])⟩
  simp only [exec, execAttach, hruns, hses, State.attachList, h, Bool.false_eq_true, if_false, hfrom]

theorem does_publish {n : Nat} {r : Byte} {v : State}
    (hfrom : s.publishFrom p.val slot (s.argChains p.val) .args 0 (s.sesArg p.val 4) = ((n, r), v)) :
    Does (.publish m p) s (fun u => u.SesEnded p.val r ∧ u.sesArg p.val 4 = n % 2 ^ 32 ∧ u.kvfs = v.kvfs ∧
      (u.part p.val).pfx = (v.part p.val).pfx) := by
  obtain ⟨hend, harg, hkvfs, hparts⟩ := State.endArg_leaves v p.val 4 n r
  refine ⟨_, ?_, hend, harg, hkvfs, by rw [State.part, State.part, hparts]⟩
  simp only [exec, execPublish, hruns, hses, State.publishList, hfrom]

theorem does_spill_none (h : ∀ k ∈ s.frameStacks p.val, (s.kvf k).spillable slot 0 = []) :
    Does (.sesCmdSpill m p) s (fun u => u.SesEnded p.val 0x00 ∧ u.sesArg p.val 4 = 0 ∧ u.kvfs = s.kvfs) := by
  obtain ⟨hend, harg, hkvfs, -⟩ := State.endArg_leaves s p.val 4 0 0x00
  exact ⟨_, congrArg Host.Outcome.next ((hruns _).trans ((hses _).trans (State.spillNext_none h))), hend, harg, hkvfs⟩

theorem does_spill_first {k f i : Nat} {fs : List Nat} (hk : s.frameStacks p.val = [k])
    (hf : (s.kvf k).spillable slot 0 = f :: fs) (hi : s.freeRec k = some i) : Does (.sesCmdSpill m p) s (fun u =>
      (u.ses p.val).op = some (.spill slot 0 (k, f + 1)) ∧ ((u.kvf k).frame f).st = .outbound ∧
      (u.kvf k).spill = (s.kvf k).spill ++ [⟨f, i, ((s.kvf k).frame f).owner, .command⟩]) := by
  refine ⟨_, congrArg Host.Outcome.next ((hruns _).trans ((hses _).trans (State.spillNext_first hk hf hi))), by simp, ?_⟩
  rw [State.kvf_of_kvfs (State.setSes_see (π := State.kvfs) _ _ _ (by simp)) k]
  exact State.spillStart_kvf ..

theorem does_fetch_none (h : ∀ k ∈ s.frameStacks p.val, (s.kvf k).fetchable slot 0 = []) :
    Does (.sesCmdFetch m p) s (fun u => u.SesEnded p.val 0x00 ∧ u.sesArg p.val 4 = 0 ∧ u.kvfs = s.kvfs) := by
  obtain ⟨hend, harg, hkvfs, -⟩ := State.endArg_leaves s p.val 4 0 0x00
  exact ⟨_, congrArg Host.Outcome.next ((hruns _).trans ((hses _).trans (State.fetchNext_none h))), hend, harg, hkvfs⟩

theorem does_fetch_first {k i f : Nat} {is : List Nat} {v : State} (hk : s.frameStacks p.val = [k])
    (hi : (s.kvf k).fetchable slot 0 = i :: is)
    (ha : s.alloc k p.val ((s.kvf k).rcd i).ent.pool .fetch nobody = (.got f, v)) : Does (.sesCmdFetch m p) s (fun u =>
      (u.ses p.val).op = some (.fetch slot 0 (k, i + 1)) ∧ (u.kvf k).fetchOp = some (i, f) ∧
      ((u.kvf k).frame f).st = .inbound ∧ ((u.kvf k).rcd i).st = .fetching) :=
  ⟨_, congrArg Host.Outcome.next ((hruns _).trans ((hses _).trans (State.fetchNext_first hk hi ha))), State.fetchInto_leaves ..⟩

theorem does_pin : Does (.pin m p) s (fun u => u.SesEnded p.val 0x00 ∧ ∀ k ∈ s.frameStacks p.val, u.kvf k =
    (s.kvf k).pinSlot slot (s.sesArg p.val 4) (decide (s.sesArg p.val 1 % 2 = 0)) (s.argChains p.val)) := by
  refine ⟨_, congrArg Host.Outcome.next ((hruns _).trans (hses _)), State.sesEnded_sesResult .., fun k hk => ?_⟩
  rw [State.kvf_sesResult]
  exact (State.kvf_foldl_setKvf (·.pinSlot slot (s.sesArg p.val 4) (decide (s.sesArg p.val 1 % 2 = 0)) (s.argChains p.val))
    (s.frameStacks_nodup p.val) s k).trans (if_pos hk)

end

theorem does_tick : Does (.tick m p) s (fun u => u.SesEnded p.val 0x00 ∧
    (∀ k ∈ s.stacksOf p.val, (u.kvf k).epoch = (s.kvf k).epoch + 1) ∧ (∀ k, k ∉ s.stacksOf p.val → u.kvf k = s.kvf k)) := by
  refine ⟨_, congrArg Host.Outcome.next (hruns _), State.sesEnded_sesResult .., fun k hk => ?_, fun k hk => ?_⟩
  · rw [State.kvf_sesResult]
    exact (foldl_once (π := fun t => (t.kvf k).epoch) (φ := (· + 1)) (fun t j => State.epoch_tickStack t j k)
      (s.stacksOf_nodup p.val) s).trans (if_pos hk)
  · rw [State.kvf_sesResult]
    exact foldl_see_mem (π := fun t => t.kvf k)
      (fun t j hj => State.kvf_tickStack_ne fun h => hk (h ▸ hj)) s

theorem does_pfxFlush : Does (.pfxFlush m p) s (fun u => u.SesEnded p.val 0x00 ∧ (u.part p.val).pfx = []) := by
  refine ⟨_, congrArg Host.Outcome.next (hruns _), State.sesEnded_sesResult .., ?_⟩
  have hparts : ((s.flushPfx p.val).sesResult p.val 0x00).parts = (s.setPart p.val { s.part p.val with pfx := [] }).parts :=
    (State.sesResult_see (π := State.parts) _ _ _ (by simp)).trans
      (foldl_see_mem (π := State.parts) (fun t e _ => State.setKvf_see (π := State.parts) t _ _ (by simp)) _)
  rw [State.part, hparts]
  exact congrArg Part.pfx ((State.part_setPart ..).trans (if_pos rfl))

end

/-! ## The end of a copy in (R311) -/

/-- A copy in that the host answered is stored, and its frame goes LIVE. -/
def State.fetchStored (s : State) (k i f : Nat) (bs : List Byte) : State :=
  let s := s.writeBytes (s.frameBase k f) ((bs ++ List.replicate 131072 0).take 131072)
  (s.setKvf k ((s.kvf k).fetchEnd i f)).ledgerEvict k f 2 ((s.kvf k).rcd i).ent nobody

/-- A copy in that fails: HOST_ERR is set, the frame is free again and the record SPILLED. -/
def State.fetchLost (s : State) (k i f : Nat) : State :=
  let s := s.flag .pcx 0 0x14 (bit 30)
  let v := ((s.kvf k).setFrame f .reset).setRcd i { (s.kvf k).rcd i with st := .spilled }
  s.setKvf k { v with fetchOp := none }

theorem State.fetchStored_mem (s : State) (k i f : Nat) (bs : List Byte) : (s.fetchStored k i f bs).mem =
    (s.writeBytes (s.frameBase k f) ((bs ++ List.replicate 131072 0).take 131072)).mem :=
  (State.ledgerEvict_see (π := State.mem) _ _ _ _ _ _ (by simp)).trans (State.setKvf_see (π := State.mem) _ _ _ (by simp))

theorem State.fetchLost_leaves (s : State) (k i f : Nat) : ((s.fetchLost k i f).kvf k).fetchOp = none ∧
    (((s.fetchLost k i f).kvf k).rcd i).st = .spilled ∧ (s.fetchLost k i f).mem = s.mem := by
  refine ⟨?_, ?_, (State.setKvf_see (π := State.mem) _ _ _ (by simp)).trans (State.flag_see (π := State.mem) _ _ _ _ _ (by simp))⟩
  · simp [State.fetchLost]
  · simp [State.fetchLost, Kvf.rcd, Kvf.setRcd]

section
variable {k : Fin 12} {s : State} {i f slot done p : Nat} {at_ : Nat × Nat} (hp : s.stackPart k.val = p)
  (hop : (s.kvf k.val).fetchOp = some (i, f)) (hses : (s.ses p).op = some (.fetch slot done at_))
include hp hop hses

theorem does_fetchCopyDone {bs : List Byte} (hok : s.hostOk (s.fnOf p) = true) : Does (.fetchCopyDone k (some bs)) s (fun u =>
    ∀ j < 131072, u.readByte (s.frameBase k.val f + j) = bs.getD j 0) := by
  refine ⟨(s.fetchStored k.val i f bs).fetchNext p slot (done + 1) at_, ?_, fun j hj => ?_⟩
  · simp only [exec, execFetchCopyDone, hp, hop, hses, hok, if_true]
    rfl
  have hlen : ((bs ++ List.replicate 131072 0).take 131072).length = 131072 := by
    rw [List.length_take, List.length_append, List.length_replicate]
    omega
  rw [State.readByte_of_mem (s := s.writeBytes (s.frameBase k.val f) ((bs ++ List.replicate 131072 0).take 131072)),
    State.readByte_writeBytes, hlen, if_pos (by omega), Nat.add_sub_cancel_left]
  · rw [List.getD_eq_getElem?_getD, List.getElem?_take_of_lt hj, List.getElem?_append]
    split_ifs with hbs
    · rw [List.getD_eq_getElem?_getD]
    · rw [List.getElem?_replicate, if_pos (by omega), List.getD_eq_default _ _ (not_lt.1 hbs)]
      rfl
  · exact (State.fetchNext_see (π := State.mem) _ _ _ _ _ (by simp)).trans (State.fetchStored_mem ..)

theorem does_fetchCopyDone_lost : Does (.fetchCopyDone k none) s (fun u => (u.ses p).op = none ∧ (u.ses p).result = 0x06 ∧
    (u.kvf k.val).fetchOp = none ∧ ((u.kvf k.val).rcd i).st = .spilled ∧ u.mem = s.mem) := by
  obtain ⟨hop', hrec, hmem⟩ := s.fetchLost_leaves k.val i f
  obtain ⟨⟨hend, hres⟩, -, hkvfs, -⟩ := State.endArg_leaves (s.fetchLost k.val i f) p 4 done 0x06
  refine ⟨((s.fetchLost k.val i f).setSesArg p 4 done).sesResult p 0x06, ?_, hend, hres, ?_, ?_, ?_⟩
  · simp only [exec, execFetchCopyDone, hp, hop, hses, ite_self]
    rfl
  · rw [State.kvf_of_kvfs hkvfs, hop']
  · rw [State.kvf_of_kvfs hkvfs, hrec]
  · exact (State.sesResult_see (π := State.mem) _ _ _ (by simp)).trans
      ((State.setSesArg_see (π := State.mem) _ _ _ _ (by simp)).trans hmem)

end

/-! ## The two latches (R301, R323, R324) -/

theorem does_kvfEntrySelWrite {m : Master} {k : Fin 12} {s : State} (w : W32) (hreach : s.reaches m ⟨.kvf, k.val⟩ = true)
    (hm : s.pfOrKp m (s.stackPart k.val) = true) : Does (.kvfEntrySelWrite m k w) s (fun u =>
      let v := s.kvf k.val
      let i := bitsOf w.toNat 18 0
      u.kvf k.val = { v with latch := (if w.getLsbD 31 then entryWords (recStCode (v.rcd i).st) (v.rcd i).ent
        else entryWords (frameStCode (v.frame i).st) (v.frame i)) } ∧
      u.except [.blocks, .kvfs] = s.except [.blocks, .kvfs]) := by
  refine ⟨_, congrArg Host.Outcome.next (if_pos ⟨hreach, hm⟩), (State.kvf_setKvf ..).trans (if_pos rfl), ?_⟩
  exact (State.setKvf_see (π := State.except [.blocks, .kvfs]) _ _ _ (by simp)).trans
    (State.setPlain_see (π := State.except [.blocks, .kvfs]) _ _ _ _ _ (by simp))

section
variable {m : Master} {p : Fin 8} {s : State} (hreach : s.reaches m ⟨.ses, p.val⟩ = true)
  (hcfg : (s.cfgOf p.val).isSome = true) (w : W32)
include hreach hcfg

theorem exec_sesSelWrite_denied (hm : s.fnOrKp m p.val = false) : exec (.sesSelWrite m p w) s =
    .next (s.setSes p.val { s.ses p.val with result := 0x09 }) := by
  simp [exec, execSesSelWrite, hreach, Option.isSome_iff_ne_none.1 hcfg, hm, State.sesRefuse]

theorem does_sesSelWrite (hm : s.fnOrKp m p.val = true) : Does (.sesSelWrite m p w) s (fun u =>
    u.ses p.val = { s.ses p.val with latch := s.sesWords p.val (bitsOf w.toNat 15 0) } ∧
    u.except [.blocks, .sess] = s.except [.blocks, .sess]) := by
  have hgo : ¬ (¬ s.reaches m ⟨.ses, p.val⟩ = true ∨ (s.cfgOf p.val).isNone = true) := by
    simp [hreach, Option.isSome_iff_ne_none.1 hcfg]
  refine ⟨_, congrArg Host.Outcome.next ((if_neg hgo).trans (if_pos hm)), (State.ses_setSes ..).trans (if_pos rfl), ?_⟩
  exact (State.setSes_see (π := State.except [.blocks, .sess]) _ _ _ (by simp)).trans
    (State.setPlain_see (π := State.except [.blocks, .sess]) _ _ _ _ _ (by simp))

end

end Sys2Proof.Machine

open Sys2Proof Sys2Proof.Machine

/-- Settles O40, operation by operation, then the end of a copy in and the latches. -/
theorem framesForkAttachAndSpill : Obligations.FramesForkAttachAndSpill := by
  refine ⟨?operations, ?copyIn, fun m k w s hreach hm => does_kvfEntrySelWrite w hreach hm, fun m p w s hreach hcfg =>
    ⟨exec_sesSelWrite_denied hreach hcfg w, does_sesSelWrite hreach hcfg w⟩⟩
  case operations =>
    intro m p s hreach hcfg hm hop arg slot parent ks spilled ended
    have hruns := State.sesCmd_runs hreach hcfg hm hop
    refine ⟨fun hlive hsp => does_fork_shared hruns (State.onSession_live hlive) hsp,
      fun n v hlive hsp hopen => does_fork hruns (State.onSession_live hlive) hsp hopen, fun hlive => ?_,
      does_tick hruns, does_pfxFlush hruns⟩
    have hses := fun f => State.onSession_live hlive f
    exact ⟨does_attach_chained hruns hses, fun n ok v hno hfrom => does_attach hruns hses hno hfrom,
      fun n r v hfrom => does_publish hruns hses hfrom, does_spill_none hruns hses,
      fun k f fs i hk hf hi => does_spill_first hruns hses hk hf hi, does_fetch_none hruns hses,
      fun k i is f v hk hi ha => does_fetch_first hruns hses hk hi ha, does_pin hruns hses⟩
  case copyIn =>
    exact fun k s bs i f slot done at_ hop hses hok =>
      ⟨does_fetchCopyDone rfl hop hses hok, does_fetchCopyDone_lost rfl hop hses⟩
end

section
/-!
Accesses of the host and of the keeper cores (R335, R337, R374, R440, R443): posted writes and their order, BAR0 and BAR2, and
the loads, stores and fences of a core. It settles O41.
-/
namespace Sys2Proof.Machine
set_option Elab.async false

/-! ## What an access to the host hub leaves -/

theorem State.func_of_funcs {s t : State} (h : t.funcs = s.funcs) (k : Nat) : t.func k = s.func k := by
  rw [State.func, State.func, h]

/-- What says where the fold area of a tile lies. -/
theorem State.inFold_of_commOf {s t : State} (h : ∀ b, t.commOf b = s.commOf b) (a n : Nat) : t.inFold a n = s.inFold a n := by
  simp only [State.inFold, State.foldArea, State.cfg_of_commOf (h _)]

/-! ## Posted writes (R335) -/

/-- Where a posted write is stored: nowhere while the hub or its unit is off, or in the fold area. -/
theorem State.performPosted_mem {s t : State} (hmem : t.mem = s.mem) (hpwr : t.pwr = s.pwr) (hstks : t.stks = s.stks)
    (hcomm : ∀ b, t.commOf b = s.commOf b) (a : Nat) (bs : List Byte) (relaxed : Bool) :
    let u := t.performPosted a bs relaxed
    (∀ k, physAt a = .stack k → u.mem = if s.domOn domHub = true ∧ s.stackUp k = true then memPut s.mem a bs else s.mem) ∧
    (∀ x, physAt a = .scratch x → u.mem =
      if s.domOn domHub = true ∧ s.tileOn x = true ∧ ¬ s.inFold a bs.length = true then memPut s.mem a bs else s.mem) := by
  generalize hv : t.countIo 0x0602 bs.length = v
  have hvmem : v.mem = s.mem := by rw [← hv]; exact (State.countIo_see (π := State.mem) _ _ _ (by simp)).trans hmem
  have hdom : ∀ d, v.domOn d = s.domOn d := fun d => by
    rw [← hv]
    exact State.domOn_of_pwr ((State.countIo_see (π := State.pwr) _ _ _ (by simp)).trans hpwr) d
  have hup : ∀ k, v.stackUp k = s.stackUp k := fun k => by
    rw [State.stackUp, State.stackUp, hdom, ← hv,
      State.stack_of_stks ((State.countIo_see (π := State.stks) t 0x0602 bs.length (by simp)).trans hstks)]
  have hfold : v.inFold a bs.length = s.inFold a bs.length := State.inFold_of_commOf (fun b => by
    rw [← hv]
    exact (State.commOf_count b _ t 0x0602 bs.length nobody).trans (hcomm b)) a bs.length
  have hstored : ∀ (c : Prop) [Decidable c], (if ¬ s.domOn domHub = true then v
      else if relaxed = true then (if c then v.writeBytes a bs else v)
      else v.markUpdate a bs.length hostParty (if c then v.writeBytes a bs else v)).mem =
        if s.domOn domHub = true ∧ c then memPut s.mem a bs else s.mem := by
    intro c _
    have hput : (if c then v.writeBytes a bs else v).mem = if c then memPut s.mem a bs else s.mem := by
      rw [← hvmem]
      exact apply_ite State.mem ..
    by_cases hhub : s.domOn domHub = true
    · rw [if_neg (not_not.2 hhub)]
      simp only [hhub, true_and, ← hput]
      split
      · rfl
      · exact State.markUpdate_see (π := State.mem) _ _ _ _ _ (by simp)
    · rw [if_pos hhub, if_neg (fun h => hhub h.1), hvmem]
  refine ⟨fun k hk => ?stack, fun x hx => ?scratch⟩
  case stack =>
    simp only [State.performPosted, hv, hk, hdom, hup]
    exact hstored _
  case scratch =>
    simp only [State.performPosted, hv, hx, hdom, State.tileOn, hfold]
    exact hstored _

theorem State.performPosted_func (s : State) (fn : Nat) (f : Func) (a : Nat) (bs : List Byte) (relaxed : Bool) :
    ((s.setFunc fn f).performPosted a bs relaxed).func fn = f :=
  (State.func_of_funcs (State.performPosted_see (π := State.funcs) _ _ _ _ (by simp)) fn).trans
    ((State.func_setFunc ..).trans (if_pos rfl))

theorem State.flushPosted_empties (s : State) (fn : Nat) : ((s.flushPosted fn).func fn).posted = [] := by
  unfold State.flushPosted
  dsimp only
  split
  case isTrue h => exact h
  case isFalse => simp

section
variable {fn : Fin 9} {k a : Nat} {bs : List Byte} {relaxed : Bool} {s : State}
  (hw : (s.func fn.val).posted[k]? = some (a, bs, relaxed))
include hw

theorem exec_hostPostedWrite_behind (hr : relaxed = false) (hk : k ≠ 0) : exec (.hostPostedWrite fn k) s = .next s := by
  simp [exec, execHostPostedWrite, hw, hr, hk]

theorem does_hostPostedWrite (h : relaxed = true ∨ k = 0) : Does (.hostPostedWrite fn k) s (fun u =>
    u.func fn.val = { s.func fn.val with posted := (s.func fn.val).posted.eraseIdx k } ∧
    (∀ j, physAt a = .stack j → u.mem = if s.domOn domHub = true ∧ s.stackUp j = true then memPut s.mem a bs else s.mem) ∧
    (∀ t, physAt a = .scratch t → u.mem =
      if s.domOn domHub = true ∧ s.tileOn t = true ∧ ¬ s.inFold a bs.length = true then memPut s.mem a bs else s.mem)) := by
  have hgo : ¬ (¬ relaxed = true ∧ k ≠ 0) := fun ⟨hr, hk⟩ => h.elim hr hk
  refine ⟨(s.setFunc fn.val { s.func fn.val with posted := (s.func fn.val).posted.eraseIdx k }).performPosted a bs relaxed, ?_,
    State.performPosted_func .., State.performPosted_mem rfl rfl rfl (fun _ => rfl) ..⟩
  simp only [exec, execHostPostedWrite, hw, if_neg hgo]

end

/-! ## BAR2 (R443) -/

section
variable {fn : Fin 9} {off len : Nat} (hok : bar2Ok off len = true) {s : State} (hon : s.fnOn fn.val = true)
  (hhub : s.domOn domHub = true) (relaxed : Bool)
include hok hon hhub

theorem exec_bar2Access_read : exec (.bar2Access fn off len none relaxed) s = .next (s.bar2Read fn.val off len) := by
  simp [exec, execBar2Access, bar2DataOk, hok, hon, hhub, okIf]

theorem exec_bar2Access_write {bs : List Byte} (hlen : bs.length = len) (h512 : len ≤ 512) :
    exec (.bar2Access fn off len (some bs) relaxed) s = .next (s.bar2Write fn.val off bs relaxed) := by
  simp [exec, execBar2Access, bar2DataOk, hok, hon, hhub, hlen, h512, okIf]

end

theorem State.bar2Write_memory {s : State} {fn off a : Nat} (h : s.bar2At fn off = some a) (hctl : physAt a ≠ .ctl)
    (bs : List Byte) (relaxed : Bool) : s.bar2Write fn off bs relaxed =
      s.setFunc fn { s.func fn with posted := (s.func fn).posted ++ [(a, bs, relaxed)] } := by
  rw [State.bar2Write, h]
  dsimp only
  split
  case h_1 hp => exact absurd hp hctl
  case h_2 => rfl

/-! ## BAR0 (R335, R440) -/

theorem State.inReach_of_img {s t : State} (h : t.img = s.img) (fn a : Nat) : t.inReach fn a = s.inReach fn a := by
  have himg : ∀ u : State, u.inReach fn a = ({ State.reset with img := u.img } : State).inReach fn a := fun _ => rfl
  rw [himg t, himg s, h]

section
variable {fn : Fin 9} {off a : Nat} {s : State} (hok : off % 4 = 0)
  (hlt : off < (if fn.val = 0 then 0x400_0000 else 0x100_0000)) (hon : s.fnOn fn.val = true)
  (hbar : s.bar0 fn.val off = .ctl a)
include hok hlt hon hbar

theorem exec_bar0Access_write (hreach : s.inReach fn.val a = true) (v : W32) : exec (.bar0Access fn off (some v)) s =
    .next (((s.countIo 0x0602 4).flushPosted fn.val).ctlWrite (fnMaster fn.val) a v) := by
  generalize hv : (s.countIo 0x0602 4).flushPosted fn.val = v
  have himg : v.img = s.img := by
    rw [← hv]
    exact (State.flushPosted_see (π := State.img) _ _ (by simp)).trans (State.countIo_see (π := State.img) _ _ _ (by simp))
  have hbar' : v.bar0 fn.val off = .ctl a := by
    rw [← hbar]
    simp only [State.bar0, State.partOfFn, State.partsOf, himg]
  have hreach' : v.inReach fn.val a = true := by
    rw [← hreach]
    exact State.inReach_of_img himg ..
  simp only [exec, execBar0Access, hok, decide_true, decide_eq_true hlt, Bool.and_self, okIf, if_true, hon, not_true, if_false, hv,
    State.bar0Write, hbar', hreach']

theorem exec_bar0Access_read {w : W32} (hread : s.ctlRead (fnMaster fn.val) a = some w) : exec (.bar0Access fn off none) s =
    .next (s.emit (.completion fn.val true (leBytes 4 w.toNat))) := by
  simp only [exec, execBar0Access, hok, decide_true, decide_eq_true hlt, Bool.and_self, okIf, if_true, hon, not_true, if_false,
    State.bar0Read, hbar, hread]
  rfl

end

/-! ## Keeper cores (R337, R374) -/

section
variable {core : Fin 16} {a : Nat} {s : State} (hon : s.domOn (domKp (core.val / 2)) = true)
  (hreset : (s.pair (core.val / 2)).inReset = false)
include hon hreset

theorem exec_keeperAccess_load {n : Nat} (h0 : 0 < n) (h64 : n ≤ 64) :
    exec (.keeperAccess core (.load a n)) s = .next (s.keeperLoad core.val a n) := by
  simp [exec, execKeeperAccess, keeperOpOk, h0, h64, hon, hreset, okIf]

theorem exec_keeperAccess_store {bs : List Byte} (h0 : 0 < bs.length) (h64 : bs.length ≤ 64) :
    exec (.keeperAccess core (.store a bs)) s = .next (s.keeperStore core.val a bs) := by
  simp [exec, execKeeperAccess, keeperOpOk, List.length_pos_iff.1 h0, h64, hon, hreset, okIf]

theorem does_fence : Does (.keeperAccess core .fence) s (fun u => core.val ∈ (u.pair (core.val / 2)).fenced ∧
    u.except [.pairs] = s.except [.pairs]) := by
  refine ⟨s.updPair (core.val / 2) (fun x => { x with fenced := (core.val :: x.fenced).eraseDups }), ?_, ?_,
    State.updPair_see (π := State.except [.pairs]) _ _ _ (by simp)⟩
  · simp [exec, execKeeperAccess, keeperOpOk, hon, hreset, okIf]
  · rw [State.pair_updPair, if_pos rfl]
    exact List.mem_eraseDups.2 (List.mem_cons_self ..)

section
variable {bs : List Byte} (h0 : 0 < bs.length) (h64 : bs.length ≤ 64) (hat : s.keepAt (core.val / 2) a bs.length = .mem)
include h0 h64 hat

theorem exec_keeperStore_memory : exec (.keeperAccess core (.store a bs)) s =
    .next (s.coreUpdate core.val a bs.length (fun s => s.writeBytes a bs)) := by
  rw [exec_keeperAccess_store hon hreset h0 h64, State.keeperStore, hat]

theorem does_keeperStore_plain (hr : s.coreReleases core.val a bs.length = false) :
    Does (.keeperAccess core (.store a bs)) s (fun u => u.mem = memPut s.mem a bs ∧ u.out = s.out ∧ u.pairs = s.pairs) := by
  refine ⟨s.writeBytes a bs, ?_, rfl, State.writeBytes_see (π := State.out) _ _ _ (by simp),
    State.writeBytes_see (π := State.pairs) _ _ _ (by simp)⟩
  rw [exec_keeperStore_memory hon hreset h0 h64 hat, State.coreUpdate, if_neg (by simp [hr])]

theorem does_keeperStore_release {v : State} (hr : s.coreReleases core.val a bs.length = true)
    (hf : s.coreFlush core.val a = (none, v)) : Does (.keeperAccess core (.store a bs)) s (fun u =>
      u.mem = memPut s.mem a bs ∧ u.out = v.out ∧ u.pairs = s.pairs) := by
  refine ⟨v.markUpdate a bs.length ⟨.kpr, core.val / 2⟩ (v.writeBytes a bs), ?_, ?_, ?_, ?_⟩
  · rw [exec_keeperStore_memory hon hreset h0 h64 hat, State.coreUpdate, if_pos hr, hf]
  · have hmem : v.mem = s.mem := State.coreFlush_see_of (π := State.mem) hf (by simp)
    exact (State.markUpdate_see (π := State.mem) _ _ _ _ _ (by simp)).trans (congrArg (memPut · a bs) hmem)
  · exact (State.markUpdate_see (π := State.out) _ _ _ _ _ (by simp)).trans (State.writeBytes_see (π := State.out) _ _ _ (by simp))
  · exact (State.markUpdate_see (π := State.pairs) _ _ _ _ _ (by simp)).trans
      ((State.writeBytes_see (π := State.pairs) _ _ _ (by simp)).trans (State.coreFlush_see_of (π := State.pairs) hf (by simp)))

theorem exec_keeperStore_unflushed {v : State} {w : HostWr} (hr : s.coreReleases core.val a bs.length = true)
    (hf : s.coreFlush core.val a = (some w, v)) :
    exec (.keeperAccess core (.store a bs)) s = .next (v.emit (.keeperFault core.val a)) := by
  rw [exec_keeperStore_memory hon hreset h0 h64 hat, State.coreUpdate, if_pos hr, hf]
  rfl

end

end

end Sys2Proof.Machine

open Sys2Proof Sys2Proof.Machine

/-- Settles O41, place by place. -/
theorem hostAndKeeperAccessesReachTheirPlace : Obligations.HostAndKeeperAccessesReachTheirPlace := by
  refine ⟨?posted, ?bar2, ?bar0, State.flushPosted_empties, ?core⟩
  case posted =>
    exact fun fn k a bs relaxed s hw => ⟨exec_hostPostedWrite_behind hw, does_hostPostedWrite hw⟩
  case bar2 =>
    intro fn off len a bs relaxed s hok hon hhub
    refine ⟨fun hat hlen h512 hctl => ?_, fun k hat hk => ?_, fun hmiss => ?_⟩
    · rw [exec_bar2Access_write hok hon hhub relaxed hlen h512, State.bar2Write_memory hat hctl]
    · rw [exec_bar2Access_read hok hon hhub, State.bar2Read, hat]
      dsimp only
      rw [hk]
      rfl
    · rw [exec_bar2Access_read hok hon hhub, State.bar2Read, hmiss]
      rfl
  case bar0 =>
    exact fun fn off a v w s hok hlt hon hbar => ⟨fun hreach => exec_bar0Access_write hok hlt hon hbar hreach v,
      fun hread => exec_bar0Access_read hok hlt hon hbar hread⟩
  case core =>
    intro core a s hon hreset
    refine ⟨fun n h0 h64 hat hclean => ?_, fun bs h0 h64 hat => ?_, fun n h0 h64 hat => ?_, does_fence hon hreset⟩
    · rw [exec_keeperAccess_load hon hreset h0 h64, State.keeperLoad, hat]
      exact congrArg Host.Outcome.next (if_neg (by simp [hclean]))
    · exact ⟨does_keeperStore_plain hon hreset h0 h64 hat, fun v hr hf => does_keeperStore_release hon hreset h0 h64 hat hr hf,
        fun w v hr hf => exec_keeperStore_unflushed hon hreset h0 h64 hat hr hf⟩
    · rw [exec_keeperAccess_load hon hreset h0 h64, State.keeperLoad, hat]
      rfl
end

section
/-!
Atomics (R335, R339, R340): what an atomic stores and answers at its home on the device, and how one that PCI Express does
not provide is attempted at the host. It settles O42.
-/
namespace Sys2Proof.Machine
set_option Elab.async false

/-! ## The value that an operation gives (R339) -/

/-- A new value fits the width of its atomic. -/
theorem atomNew_lt {op : AtomOp} {bytes old : Nat} (h : old < 2 ^ (8 * bytes)) (v : Nat) :
    atomNew op bytes old v < 2 ^ (8 * bytes) := by
  have hv : v % 2 ^ (8 * bytes) < 2 ^ (8 * bytes) := Nat.mod_lt _ (Nat.two_pow_pos _)
  cases op with
  | add => exact Nat.mod_lt _ (Nat.two_pow_pos _)
  | maxU => exact max_lt h hv
  | minU => exact min_lt_of_left_lt h
  | and => exact Nat.and_lt_two_pow _ hv
  | or => exact Nat.or_lt_two_pow h hv
  | xor => exact Nat.xor_lt_two_pow h hv
  | swap => exact hv
  | cas e =>
    simp only [atomNew]
    split
    · exact hv
    · exact h

/-- An atomic at device memory: its word holds the new value, and every other byte is as it was. -/
theorem State.readLe_atomicDev {s t : State} {a bytes v : Nat} {op : AtomOp} (h : t.mem = (s.atomicDev a op bytes v).2.mem) :
    t.readLe a bytes = atomNew op bytes (s.readLe a bytes) v ∧
    ∀ b, ¬ (a ≤ b ∧ b < a + bytes) → t.readByte b = s.readByte b := by
  have h256 : 256 ^ bytes = 2 ^ (8 * bytes) := by rw [pow_mul]; rfl
  refine ⟨?_, fun b hb => (State.readByte_of_mem h b).trans (State.readByte_writeLe_ne s _ hb)⟩
  rw [State.readLe_of_mem h]
  refine (State.readLe_writeLe ..).trans (Nat.mod_eq_of_lt ?_)
  rw [h256]
  exact atomNew_lt (h256 ▸ s.readLe_lt a bytes) v

theorem State.atomicDev_of_mem {s t : State} (h : t.mem = s.mem) (a bytes v : Nat) (op : AtomOp) :
    (t.atomicDev a op bytes v).1 = s.readLe a bytes ∧ (t.atomicDev a op bytes v).2.mem = (s.atomicDev a op bytes v).2.mem := by
  have hold : t.readLe a bytes = s.readLe a bytes := State.readLe_of_mem h a bytes
  refine ⟨hold, ?_⟩
  change memPut t.mem a _ = memPut s.mem a _
  rw [h, hold]

/-! ## Atomics of a function (R335, R339) -/

/-- An atomic of a function at its home: the marks that it changes are compared, and the old value is answered. -/
def State.fnAtomic (s : State) (fn a : Nat) (op : AtomOp) (bytes v : Nat) : State :=
  let r := s.atomicDev a op bytes v
  (s.markUpdate a bytes hostParty r.2).complete fn true (leBytes bytes r.1)

theorem State.fnAtomic_leaves {s w : State} (hmem : s.mem = w.mem) (fn a : Nat) (op : AtomOp) (bytes v : Nat) :
    let u := s.fnAtomic fn a op bytes v
    u.readLe a bytes = atomNew op bytes (w.readLe a bytes) v ∧
    (∀ b, ¬ (a ≤ b ∧ b < a + bytes) → u.readByte b = w.readByte b) ∧
    u.out = s.out ++ [.completion fn true (leBytes bytes (w.readLe a bytes))] := by
  intro u
  obtain ⟨hold, hdev⟩ := State.atomicDev_of_mem hmem a bytes v op
  obtain ⟨hnew, hrest⟩ := State.readLe_atomicDev (s := w) (t := u)
    ((State.markUpdate_see (π := State.mem) _ _ _ _ _ (by simp)).trans hdev)
  refine ⟨hnew, hrest, ?_⟩
  have hout : (s.markUpdate a bytes hostParty (s.atomicDev a op bytes v).2).out = s.out :=
    (State.markUpdate_see (π := State.out) _ _ _ _ _ (by simp)).trans (State.atomicDev_see (π := State.out) _ _ _ _ _ (by simp))
  rw [← hold, ← hout]
  rfl

theorem State.flushPosted_out (s : State) (fn : Nat) : (s.flushPosted fn).out = s.out :=
  State.flushPosted_see (π := State.out) _ _ (by simp)

section
variable {fn : Fin 9} {off bytes v : Nat} {op : AtomOp} {s : State} (hok : atomOk op bytes off = true)
  (hpage : bar2Ok off bytes = true) (hon : s.fnOn fn.val = true) (hhub : s.domOn domHub = true)
include hok hpage hon

theorem exec_hostAtomic_refused (hop : hostHas op = false) : exec (.hostAtomic fn off op bytes v) s =
    .next ((s.flushPosted fn.val).emit (.completion fn.val false [])) := by
  simp only [exec, execHostAtomic, hok, hpage, Bool.and_self, okIf, if_true, hon, not_true, if_false, hop, Bool.false_eq_true,
    not_false_iff, or_true]
  rfl

include hhub

theorem exec_hostAtomic {a : Nat} (hop : hostHas op = true) (hat : (s.flushPosted fn.val).bar2At fn.val off = some a)
    (hhome : (s.flushPosted fn.val).atomHome a bytes = true) : exec (.hostAtomic fn off op bytes v) s =
      .next (((s.flushPosted fn.val).countIo 0x0602 bytes).fnAtomic fn.val a op bytes v) := by
  have hdom : (s.flushPosted fn.val).domOn domHub = true :=
    (State.domOn_of_pwr (State.flushPosted_see (π := State.pwr) _ _ (by simp)) _).trans hhub
  simp only [exec, execHostAtomic, hok, hpage, Bool.and_self, okIf, if_true, hon, not_true, if_false, hop, hdom, or_self, hat, hhome]
  rfl

theorem does_hostAtomic {a : Nat} (hop : hostHas op = true) (hat : (s.flushPosted fn.val).bar2At fn.val off = some a)
    (hhome : (s.flushPosted fn.val).atomHome a bytes = true) : Does (.hostAtomic fn off op bytes v) s (fun u =>
      u.readLe a bytes = atomNew op bytes ((s.flushPosted fn.val).readLe a bytes) v ∧
      (∀ b, ¬ (a ≤ b ∧ b < a + bytes) → u.readByte b = (s.flushPosted fn.val).readByte b) ∧
      u.out = s.out ++ [.completion fn.val true (leBytes bytes ((s.flushPosted fn.val).readLe a bytes))]) := by
  obtain ⟨hnew, hrest, hout⟩ := State.fnAtomic_leaves
    (State.countIo_see (π := State.mem) (s.flushPosted fn.val) 0x0602 bytes (by simp)) fn.val a op bytes v
  refine ⟨_, exec_hostAtomic hok hpage hon hhub hop hat hhome, hnew, hrest, hout.trans (congrArg (· ++ _) ?_)⟩
  exact (State.countIo_see (π := State.out) _ _ _ (by simp)).trans (State.flushPosted_out ..)

end

section
variable {m : Master} {a bytes v : Nat} {op : AtomOp} {s : State} (hok : atomOk op bytes a = true)
include hok

/-- A function's atomic at its home, after its posted writes. -/
theorem exec_atomicAtHome_fn {fn : Nat} (hm : m = .pf ∧ fn = 0 ∨ ∃ n, m = .vf n ∧ fn = n.val + 1) (hon : s.fnOn fn = true)
    (hhub : s.domOn domHub = true) : exec (.atomicAtHome m a op bytes v) s =
      .next (if (s.flushPosted fn).fnOwns fn a bytes = true ∧ (s.flushPosted fn).atomHome a bytes = true then
        (s.flushPosted fn).fnAtomic fn a op bytes v else (s.flushPosted fn).emit (.completion fn false [])) := by
  rcases hm with ⟨rfl, rfl⟩ | ⟨n, rfl, rfl⟩ <;>
    simp only [exec, execAtomicAtHome, hok, okIf, if_true, hon, hhub, not_true, or_self, if_false] <;> rfl

theorem does_atomicAtHome_fn {fn : Nat} (hm : m = .pf ∧ fn = 0 ∨ ∃ n, m = .vf n ∧ fn = n.val + 1) (hon : s.fnOn fn = true)
    (hhub : s.domOn domHub = true) (howns : (s.flushPosted fn).fnOwns fn a bytes = true)
    (hhome : (s.flushPosted fn).atomHome a bytes = true) : Does (.atomicAtHome m a op bytes v) s (fun u =>
      u.readLe a bytes = atomNew op bytes ((s.flushPosted fn).readLe a bytes) v ∧
      (∀ b, ¬ (a ≤ b ∧ b < a + bytes) → u.readByte b = (s.flushPosted fn).readByte b) ∧
      u.out = s.out ++ [.completion fn true (leBytes bytes ((s.flushPosted fn).readLe a bytes))]) := by
  obtain ⟨hnew, hrest, hout⟩ := State.fnAtomic_leaves (rfl : (s.flushPosted fn).mem = _) fn a op bytes v
  exact ⟨_, (exec_atomicAtHome_fn hok hm hon hhub).trans (congrArg _ (if_pos ⟨howns, hhome⟩)), hnew, hrest,
    hout.trans (congrArg (· ++ _) (State.flushPosted_out ..))⟩

/-! ## Atomics of a keeper core (R337, R339) -/

/-- An atomic of a core at device memory answers the old value. -/
def State.coreAtomic (s : State) (core a : Nat) (op : AtomOp) (bytes v : Nat) : State :=
  let r := s.atomicDev a op bytes v
  r.2.toCore core (leBytes bytes r.1)

/-- Where the access may be a release, the state `w` is the one after the flush. -/
theorem exec_atomicAtHome_kp {p : Fin 8} (hon : s.domOn (domKp p.val) = true) (hat : s.keepAt p.val a bytes = .mem)
    (hclean : s.poisoned a bytes = false) : exec (.atomicAtHome (.kp p) a op bytes v) s =
      .next (s.coreUpdate (2 * p.val) a bytes (fun s => s.coreAtomic (2 * p.val) a op bytes v)) := by
  have hp : 2 * p.val / 2 = p.val := by omega
  simp only [exec, execAtomicAtHome, hok, okIf, if_true, hon, State.keeperAtomic, not_true, if_false, hp, hat, hclean,
    Bool.false_eq_true]
  rfl

theorem does_atomicAtHome_kp {p : Fin 8} {w : State} (hon : s.domOn (domKp p.val) = true)
    (hat : s.keepAt p.val a bytes = .mem) (hclean : s.poisoned a bytes = false)
    (hw : s.coreReleases (2 * p.val) a bytes = false ∧ w = s ∨
      s.coreReleases (2 * p.val) a bytes = true ∧ s.coreFlush (2 * p.val) a = (none, w)) :
    Does (.atomicAtHome (.kp p) a op bytes v) s (fun u =>
      u.readLe a bytes = atomNew op bytes (s.readLe a bytes) v ∧
      (∀ b, ¬ (a ≤ b ∧ b < a + bytes) → u.readByte b = s.readByte b) ∧
      u.out = w.out ++ [.keeperData (2 * p.val) (leBytes bytes (s.readLe a bytes))]) := by
  have hmem : w.mem = s.mem := by
    rcases hw with ⟨-, rfl⟩ | ⟨-, hf⟩
    · rfl
    · exact State.coreFlush_see_of (π := State.mem) hf (by simp)
  obtain ⟨hold, hdev⟩ := State.atomicDev_of_mem hmem a bytes v op
  have hout : (w.coreAtomic (2 * p.val) a op bytes v).out = w.out ++ [.keeperData (2 * p.val) (leBytes bytes (s.readLe a bytes))] := by
    rw [← hold]
    exact congrArg (· ++ _) (State.atomicDev_see (π := State.out) w a op bytes v (by simp))
  have hleaves : ∀ u : State, u.mem = (w.coreAtomic (2 * p.val) a op bytes v).mem →
      u.out = (w.coreAtomic (2 * p.val) a op bytes v).out →
      u.readLe a bytes = atomNew op bytes (s.readLe a bytes) v ∧
      (∀ b, ¬ (a ≤ b ∧ b < a + bytes) → u.readByte b = s.readByte b) ∧
      u.out = w.out ++ [.keeperData (2 * p.val) (leBytes bytes (s.readLe a bytes))] := fun u hum huo => by
    obtain ⟨hnew, hrest⟩ := State.readLe_atomicDev (s := s) (hum.trans hdev)
    exact ⟨hnew, hrest, huo.trans hout⟩
  refine ⟨_, exec_atomicAtHome_kp hok hon hat hclean, ?_⟩
  unfold State.coreUpdate
  rcases hw with ⟨hr, rfl⟩ | ⟨hr, hf⟩
  · rw [if_neg (by simp [hr])]
    exact hleaves _ rfl rfl
  · rw [if_pos hr, hf]
    exact hleaves _ (State.markUpdate_see (π := State.mem) _ _ _ _ _ (by simp)) (State.markUpdate_see (π := State.out) _ _ _ _ _ (by simp))

end

/-! ## Atomics that the controller attempts at the host (R340) -/

/-- A request of PCI Express is gone. -/
def State.dropReq (s : State) (k : Nat) : State := { s with pcx := { s.pcx with reqs := s.pcx.reqs.eraseIdx k } }

/-- A compare-and-swap leaves for the host. -/
def State.sendCas (s : State) (fn a old bytes new : Nat) : State :=
  let c := s.carry fn a
  (c.2.emit (.hostAtomic fn c.1 (.cas old) bytes new)).countIo 0x0601 1

theorem State.sendCas_leaves (s : State) (fn a old bytes new : Nat) : (s.sendCas fn a old bytes new).pcx = s.pcx ∧
    ∃ bus, (s.sendCas fn a old bytes new).out = s.out ++ [.hostAtomic fn bus (.cas old) bytes new] := by
  refine ⟨?_, (s.carry fn a).1, ?_⟩
  · exact (State.countIo_see (π := State.pcx) _ _ _ (by simp)).trans
      ((State.emit_see (π := State.pcx) _ _ (by simp)).trans (State.carry_see (π := State.pcx) _ _ _ (by simp)))
  · refine (State.countIo_see (π := State.out) _ _ _ (by simp)).trans ?_
    exact congrArg (· ++ _) (State.carry_see (π := State.out) _ _ _ (by simp))

section
variable {k a bytes v old fn : Nat} {op : AtomOp} {core : Fin 16} {s : State}
  (hfn : ((s.partOfKp (core.val / 2)).map s.fnOf).getD 0 = fn) (hreq : s.pcx.reqs[k]? = some (.atomic core a op bytes v))
  (hhost : s.hostOk fn = true)
include hfn hreq hhost

theorem exec_emulate (ok : Bool) : exec (.hostAtomicEmulate k (some old) ok) s = .next (
    let old' := old % 2 ^ (8 * bytes)
    let new := atomNew op bytes old' v
    if new = old' then (s.dropReq k).toCore core.val (leBytes bytes old')
    else
      let w := (if ok then s.dropReq k else s).sendCas fn a old' bytes new
      if ok then w.toCore core.val (leBytes bytes old') else w) := by
  simp only [exec, execHostAtomicEmulate, hreq, atomicOf, State.reqPart, hfn, hhost, not_true, if_false, State.atomicDone]
  rfl

theorem exec_emulate_unchanged (h : atomNew op bytes (old % 2 ^ (8 * bytes)) v = old % 2 ^ (8 * bytes)) (ok : Bool) :
    exec (.hostAtomicEmulate k (some old) ok) s =
      .next ((s.dropReq k).emit (.keeperData core.val (leBytes bytes (old % 2 ^ (8 * bytes))))) :=
  (exec_emulate hfn hreq hhost ok).trans (congrArg _ (if_pos h))

variable (h : atomNew op bytes (old % 2 ^ (8 * bytes)) v ≠ old % 2 ^ (8 * bytes))
include h

theorem does_emulate_swapped : Does (.hostAtomicEmulate k (some old) true) s (fun u =>
    u.pcx.reqs = s.pcx.reqs.eraseIdx k ∧ (∃ bus, u.out = s.out ++ [.hostAtomic fn bus (.cas (old % 2 ^ (8 * bytes))) bytes
      (atomNew op bytes (old % 2 ^ (8 * bytes)) v), .keeperData core.val (leBytes bytes (old % 2 ^ (8 * bytes)))])) := by
  obtain ⟨hpcx, bus, hout⟩ := (s.dropReq k).sendCas_leaves fn a (old % 2 ^ (8 * bytes)) bytes
    (atomNew op bytes (old % 2 ^ (8 * bytes)) v)
  refine ⟨_, (exec_emulate hfn hreq hhost true).trans (congrArg _ (if_neg h)), congrArg Pcx.reqs hpcx, bus, ?_⟩
  refine (congrArg (· ++ [_]) hout).trans ?_
  simp [State.dropReq]

theorem does_emulate_failed : Does (.hostAtomicEmulate k (some old) false) s (fun u => u.pcx = s.pcx ∧
    (∃ bus, u.out = s.out ++ [.hostAtomic fn bus (.cas (old % 2 ^ (8 * bytes))) bytes
      (atomNew op bytes (old % 2 ^ (8 * bytes)) v)])) := by
  exact ⟨_, (exec_emulate hfn hreq hhost false).trans (congrArg _ (if_neg h)), s.sendCas_leaves ..⟩

end

end Sys2Proof.Machine

open Sys2Proof Sys2Proof.Machine

/-- Settles O42: the host's atomics, those brought to their home, and those attempted at the host. -/
theorem atomicsAnswerTheOldValue : Obligations.AtomicsAnswerTheOldValue := by
  refine ⟨?host, ?home, ?emulated⟩
  case host =>
    exact fun fn off bytes v a op s hok hpage hon hhub => ⟨exec_hostAtomic_refused hok hpage hon,
      fun hop hat hhome => does_hostAtomic hok hpage hon hhub hop hat hhome⟩
  case home =>
    intro m a bytes v op s hok
    refine ⟨fun p w hm hon hat hclean hw => ?_, fun fn hm hon hhub => ⟨fun k hk howns hhome => ?_, fun hno => ?_⟩⟩
    · subst hm
      exact does_atomicAtHome_kp hok hon hat hclean hw
    · exact does_atomicAtHome_fn hok hm hon hhub howns hhome
    · refine (exec_atomicAtHome_fn hok hm hon hhub).trans (congrArg _ (if_neg ?_))
      rintro ⟨howns, hhome⟩
      rcases hno with h | h
      · simp [h] at howns
      · simp [h] at hhome
  case emulated =>
    exact fun k a bytes v old op core s hreq hhost => ⟨exec_emulate_unchanged rfl hreq hhost,
      does_emulate_swapped rfl hreq hhost, does_emulate_failed rfl hreq hhost⟩
end

section
/-!
The Dravsan links (R344, R354 to R357, R370): how frames are received, what acknowledgements and naks leave of the replay
buffer, and how a link that leaves UP hands its frames on. It settles O43.
-/
namespace Sys2Proof.Machine
set_option Elab.async false

theorem State.link_of_links {s t : State} (h : t.links = s.links) (k : Nat) : t.link k = s.link k := by
  rw [State.link, State.link, h]

theorem State.lg_of_lgs {s t : State} (h : t.lgs = s.lgs) (k : Nat) : t.lg k = s.lg k := by
  rw [State.lg, State.lg, h]

theorem State.tx_of_lgs {s t : State} (h : t.lgs = s.lgs) (g peer : Nat) : t.tx g peer = s.tx g peer := by
  rw [State.tx, State.tx, State.lg_of_lgs h]

theorem State.tx_setTx (s : State) (g peer j : Nat) (x : TxDest) :
    (s.setTx g peer x).tx g j = if j = peer then x else s.tx g j := by
  simp [State.tx, State.setTx]

/-! ## Receiving (R344, R356) -/

section
variable {l : Fin 24} {f : Frame} {n : Nat} {s : State} (hup : (s.link l.val).st = .up)
include hup

theorem exec_receive_accepted (h0 : f.typ ≠ 0) (h3 : f.typ ≠ 3) (h4 : f.typ ≠ 4) (hseq : f.lseq = (s.link l.val).rxLseq)
    (hacc : s.accepts l.val f = true) : exec (.linkFrameReceive l f (.good n)) s =
      .next ((s.setLink l.val { s.link l.val with
        ce := satAdd32 (s.link l.val).ce n, rxLseq := (s.link l.val).rxLseq + 1, naked := false
        rxq := (if f.typ.toNat ≤ 9 then (s.link l.val).rxq ++ [f] else (s.link l.val).rxq) }).emit (.linkCtl l.val false f.lseq)) := by
  have hctl : ¬ (f.typ = 0 ∨ f.typ = 3 ∨ f.typ = 4) := fun h => h.elim h0 fun h => h.elim h3 h4
  have hgood : ¬ (f.lseq ≠ (s.link l.val).rxLseq ∨ ¬ s.accepts l.val f = true) := fun h => h.elim (· hseq) (· hacc)
  simp only [exec, execLinkFrameReceive, hup, ne_eq, not_true, if_false, if_neg hctl]
  exact congrArg _ (if_neg hgood)

theorem exec_receive_dropped (h : f.typ = 0 ∨ f.typ = 3 ∨ f.typ = 4 ∨ f.lseq ≠ (s.link l.val).rxLseq ∨ s.accepts l.val f = false) :
    exec (.linkFrameReceive l f (.good n)) s =
      .next (s.setLink l.val { s.link l.val with ce := satAdd32 (s.link l.val).ce n }) := by
  simp only [exec, execLinkFrameReceive, hup, ne_eq, not_true, if_false]
  by_cases hctl : f.typ = 0 ∨ f.typ = 3 ∨ f.typ = 4
  · rw [if_pos hctl]
  · have hbad : ¬ f.lseq = (s.link l.val).rxLseq ∨ ¬ s.accepts l.val f = true := by
      rw [Bool.not_eq_true]
      rcases h with h | h | h | h
      · exact absurd (.inl h) hctl
      · exact absurd (.inr (.inl h)) hctl
      · exact absurd (.inr (.inr h)) hctl
      · exact h
    rw [if_neg hctl, if_pos hbad]

end

/-- A spray frame of an epoch without a counter is accepted while one is left (R344). -/
theorem State.accepts_spray_new {s : State} {l : Nat} {f : Frame} (hs : f.spray = true)
    (hc : (s.rx (s.srcKey l f)).closed.any (· = f.epoch) = false) (hn : (s.srcKey l f, f.epoch) ∉ s.sprayEpochs) :
    s.accepts l f = true ↔ s.sprayEpochs.length < 128 := by
  simp [State.accepts, hs, hc, List.contains_eq_mem, hn]

theorem State.accepts_ordered {s : State} {l : Nat} {f : Frame} (h : f.spray = false) : s.accepts l f = true := by
  simp [State.accepts, h]

/-- A frame that is discarded marks its link, and is answered unless it is one of those already discarded. -/
theorem State.discardFrame_leaves (s : State) (l : Nat) (f : Frame) : let k := s.link l
    (s.discardFrame l f).link l = { k with naked := true } ∧
    (s.discardFrame l f).out = (if k.naked = true ∧ f.lseq ≠ k.rxLseq then s.out else s.out ++ [.linkCtl l true k.rxLseq]) ∧
    (s.discardFrame l f).except [.links, .out] = s.except [.links, .out] := by
  intro k
  unfold State.discardFrame
  by_cases h : k.naked = true ∧ f.lseq ≠ k.rxLseq
  · rw [if_pos h, if_pos h]
    refine ⟨?_, rfl, rfl⟩
    rw [← h.1]
  · rw [if_neg h, if_neg h]
    refine ⟨(State.link_setLink ..).trans (if_pos rfl), rfl, ?_⟩
    exact (State.emit_see (π := State.except [.links, .out]) _ _ (by simp)).trans
      (State.setLink_see (π := State.except [.links, .out]) _ _ _ (by simp))

section
variable {l : Fin 24} {s : State} (hup : (s.link l.val).st = .up) (f : Frame)
include hup

theorem does_receive_crcFailed (n : Nat) : Does (.linkFrameReceive l f (.crcFailed n)) s (fun u =>
    u.link l.val = { s.link l.val with
      ce := satAdd32 (s.link l.val).ce n, crc := satAdd32 (s.link l.val).crc 1, naked := true } ∧
    u.out = (if (s.link l.val).naked = true ∧ f.lseq ≠ (s.link l.val).rxLseq then s.out
      else s.out ++ [.linkCtl l.val true (s.link l.val).rxLseq]) ∧
    u.except [.links, .out] = s.except [.links, .out]) := by
  obtain ⟨hlink, hout, hsee⟩ := (s.setLink l.val { s.link l.val with
    ce := satAdd32 (s.link l.val).ce n, crc := satAdd32 (s.link l.val).crc 1 }).discardFrame_leaves l.val f
  simp only [State.link_setLink, if_true] at hlink hout
  refine ⟨_, ?_, hlink, hout, hsee.trans (State.setLink_see (π := State.except [.links, .out]) _ _ _ (by simp))⟩
  simp only [exec, execLinkFrameReceive, hup, ne_eq, not_true, if_false]

theorem does_receive_fecFailed : Does (.linkFrameReceive l f .fecFailed) s (fun u =>
    u.link l.val = { s.link l.val with ue := satAdd32 (s.link l.val).ue 1, naked := true } ∧
    (((s.link l.val).naked = false ∨ f.lseq = (s.link l.val).rxLseq) → .linkCtl l.val true (s.link l.val).rxLseq ∈ u.out)) := by
  obtain ⟨hlink, hout, -⟩ := ((s.setLink l.val { s.link l.val with ue := satAdd32 (s.link l.val).ue 1 }).countLg
    (l.val / 4) 0x0304 1 nobody).discardFrame_leaves l.val f
  rw [State.link_of_links (State.countLg_see (π := State.links) _ _ _ _ _ (by simp))] at hlink hout
  simp only [State.link_setLink, if_true] at hlink hout
  refine ⟨_, ?_, hlink, fun h => ?_⟩
  · simp only [exec, execLinkFrameReceive, hup, ne_eq, not_true, if_false]
  · rw [hout, if_neg (fun ⟨hn, hs⟩ => h.elim (fun h => by simp [h] at hn) hs)]
    exact List.mem_append_right _ (List.mem_singleton_self _)

end

/-! ## The bytes of a frame (R354, R355) -/

theorem frameHeader_lt (f : Frame) : frameHeader f < 2 ^ 128 := by
  have h1 := f.typ.isLt; have h2 := f.src.isLt; have h3 := f.sgrp.isLt; have h4 := f.lamp.toNat_le
  have h5 := f.epoch.isLt; have h6 := f.ngM1.isLt; have h7 := f.dpart.isLt; have h8 := f.seq.isLt
  have h9 := f.lseq.isLt; have h10 := f.addr.isLt
  unfold frameHeader
  omega

/-- Each field of a header lies at its place. -/
theorem frameHeader_fields (f : Frame) : let h := frameHeader f
    bitsOf h 127 124 = f.typ.toNat ∧ bitsOf h 123 120 = f.src.toNat ∧ bitsOf h 119 117 = f.sgrp.toNat ∧
    bitsOf h 116 116 = f.lamp.toNat ∧ bitsOf h 115 108 = f.epoch.toNat ∧ bitsOf h 107 105 = f.ngM1.toNat ∧
    bitsOf h 104 102 = f.dpart.toNat ∧ bitsOf h 95 64 = f.seq.toNat ∧ bitsOf h 56 48 = f.lseq.toNat ∧
    bitsOf h 47 0 = f.addr.toNat := by
  have h1 := f.typ.isLt; have h2 := f.src.isLt; have h3 := f.sgrp.isLt; have h4 := f.lamp.toNat_le
  have h5 := f.epoch.isLt; have h6 := f.ngM1.isLt; have h7 := f.dpart.isLt; have h8 := f.seq.isLt
  have h9 := f.lseq.isLt; have h10 := f.addr.isLt
  simp only [frameHeader, bitsOf]
  refine ⟨?_, ?_, ?_, ?_, ?_, ?_, ?_, ?_, ?_, ?_⟩ <;> omega

theorem frameOf_frameHeader (f : Frame) : frameOf (frameHeader f) f.half f.spray f.data = f := by
  obtain ⟨h1, h2, h3, h4, h5, h6, h7, h8, h9, h10⟩ := frameHeader_fields f
  simp only [frameOf, h1, h2, h3, h4, h5, h6, h7, h8, h9, h10, BitVec.ofNat_toNat, BitVec.setWidth_eq]
  cases f with
  | mk typ src half sgrp spray lamp epoch ngM1 dpart seq lseq addr data => cases lamp <;> rfl

section
variable {f : Frame} (h : f.data.length ≤ 448)
include h

theorem frameBytes_length : (frameBytes f).length = 472 := by
  simp only [frameBytes, List.length_append, leBytes_length, List.length_replicate]
  omega

theorem crcHolds_frameBytes : crcHolds (frameBytes f) = true := by
  have hlen : (leBytes 16 (frameHeader f) ++ (f.data ++ List.replicate (448 - f.data.length) 0)).length = 464 := by
    simp only [List.length_append, leBytes_length, List.length_replicate]
    omega
  refine decide_eq_true ?_
  rw [frameBytes, List.drop_append_of_le_length hlen.ge, List.take_append_of_le_length hlen.ge, List.drop_eq_nil_of_le hlen.le,
    List.take_of_length_le hlen.le, List.nil_append]

end

/-! ## Sending goes over links that are UP (R356, R359) -/

theorem State.nextLink_up {s : State} {g peer l : Nat} (h : s.nextLink g peer = some l) : (s.link l).st = .up := by
  have hmem : l ∈ s.linksTo g peer := by
    unfold State.nextLink at h
    dsimp only at h
    split at h
    case h_1 l' hf =>
      obtain rfl := Option.some.inj h
      exact (List.mem_filter.1 (List.mem_of_find?_eq_some hf)).1
    case h_2 => exact (List.mem_filter.1 (List.mem_of_head? h)).1
  simpa using (List.mem_filter.1 hmem).2 |> fun h => by
    simp only [Bool.and_eq_true, decide_eq_true_eq] at h
    exact h.1.1.1

theorem State.link_transmit {s : State} {g l j : Nat} (h : j ≠ l) (f : Frame) (r : Option CmdRef) :
    (s.transmit g l f r).link j = s.link j := by
  unfold State.transmit
  dsimp only
  refine (State.link_of_links ((State.countLg_see (π := State.links) _ _ _ _ _ (by simp)).trans
    (State.countLg_see (π := State.links) _ _ _ _ _ (by simp))) j).trans ?_
  exact (State.link_setLink ..).trans (if_neg h)

/-- A frame that is sent is put on its link of a state with the same links. -/
theorem State.sendWaiting_transmits {s t : State} {g peer l : Nat} (h : s.sendWaiting g peer l = some t) :
    ∃ (u : State) (f : Frame) (r : Option CmdRef), u.links = s.links ∧ t = u.transmit g l f r := by
  have hset : ∀ x, (s.setTx g peer x).links = s.links := fun x => State.setTx_see (π := State.links) _ _ _ _ (by simp)
  unfold State.sendWaiting at h
  dsimp only at h
  split at h
  · cases h
  · split_ifs at h with hs ho hc hl <;> obtain rfl := Option.some.inj h
    · exact ⟨_, _, _, (State.flag_see (π := State.links) _ _ _ _ _ (by simp)).trans (hset _), rfl⟩
    · exact ⟨_, _, _, hset _, rfl⟩
    · exact ⟨_, _, _, hset _, rfl⟩
    · exact ⟨_, _, _, hset _, rfl⟩

theorem State.pumpOne_transmits {s t : State} {g peer : Nat} (h : s.pumpOne g peer = some t) :
    ∃ (u : State) (l : Nat) (f : Frame) (r : Option CmdRef), (s.link l).st = .up ∧ u.links = s.links ∧ t = u.transmit g l f r := by
  unfold State.pumpOne at h
  split at h
  · cases h
  case h_2 l hl =>
    dsimp only at h
    split at h
    · obtain rfl := Option.some.inj h
      exact ⟨_, l, _, _, State.nextLink_up hl, State.setTx_see (π := State.links) _ _ _ _ (by simp), rfl⟩
    · split at h
      · cases h
      · obtain ⟨u, f, r, hu, ht⟩ := State.sendWaiting_transmits h
        exact ⟨u, l, f, r, State.nextLink_up hl, hu, ht⟩

/-- A link that is not UP is not sent on. -/
theorem State.link_pumpN {l : Nat} (g peer n : Nat) {s : State} (hst : (s.link l).st ≠ .up) :
    (s.pumpN g peer n).link l = s.link l := by
  induction n generalizing s with
  | zero => rfl
  | succ n ih =>
    rw [State.pumpN]
    split
    case h_1 t ht =>
      obtain ⟨u, j, f, r, hup, hu, rfl⟩ := State.pumpOne_transmits ht
      have hne : l ≠ j := fun h => hst (h ▸ hup)
      have hl : (u.transmit g j f r).link l = s.link l := (State.link_transmit hne ..).trans (State.link_of_links hu l)
      rw [ih (by rw [hl]; exact hst), hl]
    case h_2 => rfl

theorem State.link_pump {l : Nat} (g peer : Nat) {s : State} (hst : (s.link l).st ≠ .up) : (s.pump g peer).link l = s.link l := by
  unfold State.pump
  dsimp only
  refine Eq.trans ?_ (State.link_pumpN g peer ((s.tx g peer).again.length + 2 * (s.tx g peer).waiting.length) hst)
  exact State.link_of_links ((ite_see (π := State.links) _ _ _).trans (ite_eq_right_iff.2 fun _ =>
    State.flag_see (π := State.links) _ _ _ _ _ (by simp))) l

/-- Nothing goes where nothing waits. -/
theorem State.pump_of_empty {s : State} {g peer : Nat} (ha : (s.tx g peer).again = []) (hw : (s.tx g peer).waiting = []) :
    s.pump g peer = s := by
  simp [State.pump, State.pumpN, State.heldIssue, ha, hw]

theorem State.pumpN_of_no_link {s : State} {g peer : Nat} (h : s.nextLink g peer = none) (n : Nat) : s.pumpN g peer n = s := by
  cases n with
  | zero => rfl
  | succ n => simp only [State.pumpN, State.pumpOne, h]

theorem State.pump_lgs_of_no_link {s : State} {g peer : Nat} (h : s.nextLink g peer = none) : (s.pump g peer).lgs = s.lgs := by
  unfold State.pump
  dsimp only
  rw [State.pumpN_of_no_link h]
  exact (ite_see (π := State.lgs) _ _ _).trans (ite_eq_right_iff.2 fun _ => State.flag_see (π := State.lgs) _ _ _ _ _ (by simp))

/-! ## Acknowledgements and naks (R356, R357) -/

theorem State.kick_of_empty {s : State} {l : Nat} (h : ∀ g ∈ s.teamOf (l / 4), (s.tx g (s.peerOf l)).again = [] ∧
    (s.tx g (s.peerOf l)).waiting = []) : s.kick l = s := by
  have hfold : ∀ gs : List Nat, (∀ g ∈ gs, (s.tx g (s.peerOf l)).again = [] ∧ (s.tx g (s.peerOf l)).waiting = []) →
      gs.foldl (fun t g => t.pump g (t.peerOf l)) s = s := by
    intro gs hgs
    induction gs with
    | nil => rfl
    | cons g gs ih =>
      obtain ⟨ha, hw⟩ := hgs g (List.mem_cons_self ..)
      rw [List.foldl_cons, State.pump_of_empty ha hw]
      exact ih fun g hg => hgs g (List.mem_cons_of_mem _ hg)
  exact hfold _ h

theorem exec_linkAck (l : Fin 24) (q : BitVec 9) (s : State) : exec (.linkAck l q) s = .next (
    if fromLseq (s.link l.val).unacked q = [] then s
    else (s.setLink l.val { s.link l.val with
      unacked := (fromLseq (s.link l.val).unacked q).drop 1, replays := 0 }).kick l.val) := rfl

/-- The frames of a replay leave in their order. -/
theorem foldl_emit (l : Nat) (fs : List (Frame × Option CmdRef)) (s : State) :
    fs.foldl (fun s e => s.emit (.frame l e.1)) s = { s with out := s.out ++ fs.map (fun e => .frame l e.1) } := by
  induction fs generalizing s with
  | nil => simp
  | cons e fs ih =>
    rw [List.foldl_cons, ih]
    simp [State.emit]

/-- A replay: its frames leave again, and it is counted. -/
def State.replayed (s : State) (l : Nat) (fs : List (Frame × Option CmdRef)) : State :=
  let k := s.link l
  let s := s.setLink l { k with replay := satAdd32 k.replay fs.length, replays := k.replays + 1 }
  (fs.foldl (fun s e => s.emit (.frame l e.1)) s).countLg (l / 4) 0x0303 fs.length nobody

theorem State.replayed_see {α : Type} {π : State → α} (hW : Ign π .blocks ∧ Ign π .links ∧ Ign π .tals ∧ Ign π .out) (s : State)
    (l : Nat) (fs : List (Frame × Option CmdRef)) : see π (s.replayed l fs) = see π s := by
  unfold State.replayed
  dsimp only
  rw [foldl_emit]
  simp [hW]

theorem State.replayed_leaves (s : State) (l : Nat) (fs : List (Frame × Option CmdRef)) :
    (s.replayed l fs).link l = { s.link l with replay := satAdd32 (s.link l).replay fs.length, replays := (s.link l).replays + 1 } ∧
    (s.replayed l fs).out = s.out ++ fs.map (fun e => .frame l e.1) := by
  unfold State.replayed
  dsimp only
  rw [foldl_emit]
  exact ⟨(State.link_of_links (State.countLg_see (π := State.links) _ _ _ _ _ (by simp)) l).trans
    ((State.link_setLink ..).trans (if_pos rfl)), State.countLg_see (π := State.out) _ _ _ _ _ (by simp)⟩

section
variable {l : Fin 24} {q : BitVec 9} {s : State}

theorem exec_linkNak (hne : fromLseq (s.link l.val).unacked q ≠ []) (hup : (s.link l.val).st = .up) :
    exec (.linkNak l q) s = .next (
      let u := s.replayed l.val (fromLseq (s.link l.val).unacked q)
      if 8 ≤ (s.link l.val).replays + 1 then u.retrain l.val else u) := by
  have hgo : ¬ (fromLseq (s.link l.val).unacked q = [] ∨ (s.link l.val).st ≠ .up) := fun h => h.elim hne (· hup)
  exact congrArg Host.Outcome.next (if_neg hgo)

theorem exec_linkNak_unknown (h : fromLseq (s.link l.val).unacked q = []) : exec (.linkNak l q) s = .next s :=
  congrArg Host.Outcome.next (if_pos (.inl h))

end

/-! ## A link leaves UP (R357) -/

/-- The link as it leaves UP. -/
def Link.emptied (k : Link) (st : LinkSt) : Link :=
  { k with st := st, unacked := [], txLseq := 0, rxLseq := 0, naked := false, replays := 0
           replay := satAdd32 k.replay k.unacked.length }

/-- The frames of a link put before those that its group sends again. -/
def State.handOn (s : State) (l : Nat) (st : LinkSt) : State :=
  let k := s.link l
  let s := s.setLink l (k.emptied st)
  let x := s.tx (l / 4) (s.peerOf l)
  (s.setTx (l / 4) (s.peerOf l) { x with again := k.unacked ++ x.again }).countLg (l / 4) 0x0303 k.unacked.length nobody

theorem State.moveFrames_eq (s : State) (l : Nat) (st : LinkSt) :
    s.moveFrames l st = (s.handOn l st).pump (l / 4) (s.peerOf l) := rfl

theorem State.link_handOn (s : State) (l j : Nat) (st : LinkSt) :
    (s.handOn l st).link j = if j = l then (s.link l).emptied st else s.link j :=
  (State.link_of_links ((State.countLg_see (π := State.links) _ _ _ _ _ (by simp)).trans
    (State.setTx_see (π := State.links) _ _ _ _ (by simp))) j).trans (State.link_setLink ..)

theorem State.link_moveFrames (s : State) (l : Nat) {st : LinkSt} (h : st ≠ .up) :
    (s.moveFrames l st).link l = (s.link l).emptied st := by
  have hl : (s.handOn l st).link l = (s.link l).emptied st := (s.link_handOn l l st).trans (if_pos rfl)
  rw [State.moveFrames_eq, State.link_pump _ _ (by rw [hl]; exact h), hl]

theorem State.link_retrain (s : State) (l : Nat) :
    (s.retrain l).link l = { (s.link l).emptied .retrain with retrains := (s.link l).retrains + 1 } := by
  refine (State.link_of_links (State.countLg_see (π := State.links) _ _ _ _ _ (by simp)) l).trans ?_
  rw [State.link_setLink, if_pos rfl, s.link_moveFrames l (by decide)]
  rfl

theorem State.teamOf_of_img {s t : State} (h : t.img = s.img) (g : Nat) : t.teamOf g = s.teamOf g := by
  have himg : ∀ u : State, u.teamOf g = ({ State.reset with img := u.img } : State).teamOf g := fun _ => rfl
  rw [himg t, himg s, h]

/-- A link that has left UP is no path to its peer; the others are as they were. -/
theorem State.linksTo_handOn (s : State) (l : Nat) {st : LinkSt} (h : st ≠ .up) (g peer : Nat) :
    (s.handOn l st).linksTo g peer = (s.linksTo g peer).filter (fun j => decide (j ≠ l)) := by
  have himg : (s.handOn l st).img = s.img := (State.countLg_see (π := State.img) _ _ _ _ _ (by simp)).trans
    ((State.setTx_see (π := State.img) _ _ _ _ (by simp)).trans (State.setLink_see (π := State.img) _ _ _ (by simp)))
  have hpwr : (s.handOn l st).pwr = s.pwr := (State.countLg_see (π := State.pwr) _ _ _ _ _ (by simp)).trans
    ((State.setTx_see (π := State.pwr) _ _ _ _ (by simp)).trans (State.setLink_see (π := State.pwr) _ _ _ (by simp)))
  have hboard : (s.handOn l st).board = s.board := (State.countLg_see (π := State.board) _ _ _ _ _ (by simp)).trans
    ((State.setTx_see (π := State.board) _ _ _ _ (by simp)).trans (State.setLink_see (π := State.board) _ _ _ (by simp)))
  have hcomm : ∀ b, (s.handOn l st).commOf b = s.commOf b := fun b => (State.commOf_count b _ _ _ _ _).trans
    ((State.setTx_see (π := State.commOf b) _ _ _ _ (by simp)).trans (State.setLink_see (π := State.commOf b) _ _ _ (by simp)))
  have hteam := State.teamOf_of_img himg g
  have hpeer : ∀ j, (s.handOn l st).peerOf j = s.peerOf j := fun j => by
    simp only [State.peerOf, State.boardPos, hboard]
  have hon : ∀ j, (s.handOn l st).linkOn j = s.linkOn j := fun j => by
    simp only [State.linkOn, State.domOn_of_pwr hpwr, State.mask, himg, State.cfg_of_commOf (hcomm _)]
  simp only [State.linksTo, hteam, hpeer, hon, List.filter_filter, State.link_handOn]
  refine List.filter_congr fun j _ => ?_
  by_cases hj : j = l
  · subst hj
    simp [Link.emptied, h]
  · simp [hj]

/-- Where the link was the only one to its peer, its frames wait to be sent again. -/
theorem State.tx_retrain {s : State} {l : Nat} (h : s.linksTo (l / 4) (s.peerOf l) = [l]) :
    ((s.retrain l).tx (l / 4) (s.peerOf l)).again = (s.link l).unacked ++ (s.tx (l / 4) (s.peerOf l)).again := by
  have hnone : (s.handOn l .retrain).nextLink (l / 4) (s.peerOf l) = none := by
    rw [State.nextLink, s.linksTo_handOn l (by decide), h]
    simp
  have hlgs : (s.retrain l).lgs = (s.handOn l .retrain).lgs :=
    (State.countLg_see (π := State.lgs) _ _ _ _ _ (by simp)).trans ((State.setLink_see (π := State.lgs) _ _ _ (by simp)).trans
      (State.pump_lgs_of_no_link hnone))
  rw [State.tx_of_lgs hlgs]
  exact congrArg TxDest.again ((State.tx_of_lgs (State.countLg_see (π := State.lgs) _ _ _ _ _ (by simp)) ..).trans
    ((State.tx_setTx ..).trans (if_pos rfl)))

/-! ## LNK_CMD (R357, R370) -/

section
variable {m : Master} {g : Fin 6} {i : BitVec 2} {s : State}

theorem exec_lnkCmds_unreached (h : s.reaches m ⟨.lnk, g.val⟩ = false) :
    exec (.lnkRetrain m g i) s = .next s ∧ exec (.lnkClear m g i) s = .next s := by
  simp [exec, execLnkRetrain, execLnkClear, State.lnkCmd, h]

variable (hreach : s.reaches m ⟨.lnk, g.val⟩ = true)
include hreach

theorem exec_lnkClear : exec (.lnkClear m g i) s = .next (s.setLink (4 * g.val + i.toNat)
    { s.link (4 * g.val + i.toNat) with ce := 0, ue := 0, crc := 0, replay := 0 }) :=
  congrArg Host.Outcome.next (if_pos hreach)

theorem does_lnkRetrain (hon : s.linkOn (4 * g.val + i.toNat) = true) : Does (.lnkRetrain m g i) s (fun u =>
    (u.link (4 * g.val + i.toNat)).st = .retrain ∧ (u.link (4 * g.val + i.toNat)).unacked = [] ∧
    (u.link (4 * g.val + i.toNat)).fails = 0 ∧
    (u.link (4 * g.val + i.toNat)).retrains = (s.link (4 * g.val + i.toNat)).retrains + 1) := by
  refine ⟨_, congrArg Host.Outcome.next ((if_pos hreach).trans (if_neg (not_not.2 hon))), ?_⟩
  have hl : (((s.setLink (4 * g.val + i.toNat) { s.link (4 * g.val + i.toNat) with fails := 0 }).stopTimer
      (.trainWindow (4 * g.val + i.toNat) 0)).stopTimer (.trainWindow (4 * g.val + i.toNat) 1)).link (4 * g.val + i.toNat) =
        { s.link (4 * g.val + i.toNat) with fails := 0 } := (State.link_setLink ..).trans (if_pos rfl)
  dsimp only
  rw [State.link_retrain, hl]
  exact ⟨rfl, rfl, rfl, rfl⟩

end

end Sys2Proof.Machine

open Sys2Proof Sys2Proof.Machine

/-- Settles O43: receiving, the bytes of a frame, acknowledgements and naks, a loss of lock, and LNK_CMD. -/
theorem linksAcknowledgeAndReplay : Obligations.LinksAcknowledgeAndReplay := by
  refine ⟨?receive, ?bytes, ?acks, ?lost, ?commands⟩
  case receive =>
    exact fun l f n s hup => ⟨exec_receive_accepted hup, exec_receive_dropped hup, State.accepts_ordered,
      State.accepts_spray_new, does_receive_crcFailed hup f n, does_receive_fecFailed hup f⟩
  case bytes =>
    exact fun f h => ⟨frameOf_frameHeader f, frameHeader_lt f, frameBytes_length h, crcHolds_frameBytes h⟩
  case acks =>
    intro l q s k fs
    refine ⟨fun hne => ?_, fun hne hempty => ?_, fun hne hup hfew => ?_, fun hne hup hmany => ?_, fun hnil => ?_⟩
    · rw [exec_linkAck, if_neg hne]
    · rw [exec_linkAck, if_neg hne]
      exact congrArg _ (State.kick_of_empty hempty)
    · obtain ⟨hlink, hout⟩ := s.replayed_leaves l.val fs
      refine ⟨_, (exec_linkNak hne hup).trans (congrArg _ (if_neg (Nat.not_le.2 (Nat.succ_lt_succ hfew)))), hlink, fun e he => ?_,
        State.replayed_see (π := State.lgs) (by simp) ..⟩
      rw [hout]
      exact List.mem_append_right _ (List.mem_map_of_mem he)
    · refine ⟨_, (exec_linkNak hne hup).trans (congrArg _ (if_pos (Nat.succ_le_succ hmany))), ?_⟩
      dsimp only
      rw [State.link_retrain, (s.replayed_leaves l.val fs).1]
      exact ⟨rfl, rfl, rfl⟩
    · exact ⟨by rw [exec_linkAck, if_pos hnil], exec_linkNak_unknown hnil⟩
  case lost =>
    exact fun l s hup => ⟨_, congrArg Host.Outcome.next (if_pos hup), s.link_retrain l.val, State.tx_retrain⟩
  case commands =>
    exact fun m g i s => ⟨fun hreach hon => does_lnkRetrain hreach hon, fun hreach => exec_lnkClear hreach,
      exec_lnkCmds_unreached⟩
end

section
/-!
Training and changes of delivery mode (R347, R350, R353, R357). It settles O44.
-/
namespace Sys2Proof.Machine
set_option Elab.async false

/-! ## Training attempts that leave the link not UP (R353, R357) -/

theorem State.readyParts_of_no_runs {s : State} (h : ∀ c ∈ s.partsOf, (s.part c.num).rstRuns = []) : s.readyParts = s := by
  unfold State.readyParts
  generalize s.partsOf = l at h
  induction l with
  | nil => rfl
  | cons c l ih =>
    have hc : ¬ ((s.part c.num).rstRuns.contains .partition = true ∧ ¬ partTrains s s.img.applied c.num = true) := by
      rw [h c List.mem_cons_self]
      simp
    rw [List.foldl_cons, if_neg hc]
    exact ih fun d hd => h d (List.mem_cons_of_mem _ hd)

theorem State.readyParts_same {s t : State} (h : ∀ c ∈ s.partsOf, (s.part c.num).rstRuns = []) (hp : t.parts = s.parts)
    (hi : t.img = s.img) : t.readyParts = t := by
  refine State.readyParts_of_no_runs fun c hc => ?_
  rw [State.partsOf, hi] at hc
  rw [State.part, hp]
  exact h c hc

theorem State.samplePos_link (s : State) (k : Nat) : s.samplePos.link k = s.link k :=
  State.link_of_links (State.samplePos_see (π := State.links) _ (by simp)) k

theorem State.link_setLink_same (s : State) (l : Nat) (k : Link) : (s.setLink l k).link l = k :=
  (State.link_setLink ..).trans (if_pos rfl)

section
variable {l : Fin 24} {far : FarEnd} {s : State} (hheld : s.trainHeld = false)
include hheld

theorem exec_linkTraining : exec (.linkTraining l far) s = .next (s.linkTrained l.val far).readyParts :=
  congrArg Host.Outcome.next (if_neg (by simp [hheld]))

variable (hruns : ∀ c ∈ s.partsOf, (s.part c.num).rstRuns = [])

include hruns in
/-- An attempt that leaves the partitions and the image as they are ends with it. -/
theorem exec_linkTraining_eq {t : State} (h : s.linkTrained l.val far = t) (hp : t.parts = s.parts) (hi : t.img = s.img) :
    exec (.linkTraining l far) s = .next t := by
  rw [exec_linkTraining hheld, h, State.readyParts_same hruns hp hi]

include hruns in
theorem exec_linkTraining_not_due (h : s.linkOn l.val = false ∨ (s.link l.val).st = .up ∨ (s.link l.val).st = .failed) :
    exec (.linkTraining l far) s = .next s :=
  exec_linkTraining_eq hheld hruns (if_pos (by simpa using h)) rfl rfl

variable (hon : s.linkOn l.val = true) (hup : (s.link l.val).st ≠ .up) (hfailed : (s.link l.val).st ≠ .failed)
include hon hup hfailed

omit hheld in
/-- A training attempt that is due, from the state with the position sampled. -/
theorem State.linkTrained_due (far : FarEnd) : s.linkTrained l.val far = (match far with
    | .none => if (s.link l.val).st = .retrain then s.samplePos.trainFails l.val
        else s.samplePos.setLink l.val { s.link l.val with st := .down }
    | .device pos link inc rev pol =>
      if l.val < 21 ∧ (link.val ≠ l.val ∨ pos.val ≠ s.samplePos.peerOf l.val) then
        (s.samplePos.setLink l.val { s.link l.val with
          st := .failed, reversed := rev, polInv := pol, peerPos := BitVec.ofNat 4 pos.val
          peerLink := BitVec.ofNat 5 link.val }).flag .lnk (l.val / 4) 0x14 (bit 3)
      else
        let s' := s.samplePos.setLink l.val { s.link l.val with
          st := .up, reversed := rev, polInv := pol, peerPos := BitVec.ofNat 4 pos.val
          peerLink := BitVec.ofNat 5 link.val, txLseq := 0, rxLseq := 0, naked := false, replays := 0 }
        (s'.exchangeInc (s'.peerOf l.val) inc).kick l.val) := by
  have hdue : ¬ (¬ s.linkOn l.val = true ∨ (s.link l.val).st = .up ∨ (s.link l.val).st = .failed) := by
    simp [hon, hup, hfailed]
  unfold State.linkTrained
  dsimp only
  refine (if_neg hdue).trans ?_
  cases far <;> rfl

include hruns

theorem exec_linkTraining_down (hst : (s.link l.val).st ≠ .retrain) : exec (.linkTraining l .none) s =
    .next (s.samplePos.setLink l.val { s.link l.val with st := .down }) :=
  exec_linkTraining_eq hheld hruns ((State.linkTrained_due hon hup hfailed .none).trans (if_neg hst))
    ((State.setLink_see (π := State.parts) _ _ _ (by simp)).trans (State.samplePos_see (π := State.parts) _ (by simp)))
    ((State.setLink_see (π := State.img) _ _ _ (by simp)).trans (State.samplePos_see (π := State.img) _ (by simp)))

theorem exec_linkTraining_fails (hst : (s.link l.val).st = .retrain) :
    exec (.linkTraining l .none) s = .next (s.samplePos.trainFails l.val) :=
  exec_linkTraining_eq hheld hruns ((State.linkTrained_due hon hup hfailed .none).trans (if_pos hst))
    ((State.trainFails_see (π := State.parts) _ _ (by simp)).trans (State.samplePos_see (π := State.parts) _ (by simp)))
    ((State.trainFails_see (π := State.img) _ _ (by simp)).trans (State.samplePos_see (π := State.img) _ (by simp)))

theorem does_linkTraining_third (hst : (s.link l.val).st = .retrain) (h0 : s.samplePos.failedLately l.val 0 = true)
    (h1 : s.samplePos.failedLately l.val 1 = true) : Does (.linkTraining l .none) s (fun t =>
      t.link l.val = { s.link l.val with st := .failed, fails := 0 } ∧
      t.except [.links, .board, .timers] = s.except [.links, .board, .timers]) := by
  refine ⟨_, exec_linkTraining_fails hheld hruns hon hup hfailed hst, ?_,
    (State.trainFails_see (π := State.except [.links, .board, .timers]) _ _ (by simp)).trans
      (State.samplePos_see (π := State.except [.links, .board, .timers]) _ (by simp))⟩
  rw [State.trainFails, if_pos ⟨h0, h1⟩, State.samplePos_link]
  exact (State.link_of_links rfl l.val).trans (State.link_setLink_same s.samplePos l.val { s.link l.val with st := .failed, fails := 0 })

theorem does_linkTraining_retry (hst : (s.link l.val).st = .retrain)
    (h : s.samplePos.failedLately l.val 0 = false ∨ s.samplePos.failedLately l.val 1 = false) :
    Does (.linkTraining l .none) s (fun t => t.link l.val = { s.link l.val with fails := (s.link l.val).fails + 1 } ∧
      t.timerRuns (.trainWindow l.val ((s.link l.val).fails % 2)) = true ∧
      t.except [.links, .board, .timers] = s.except [.links, .board, .timers]) := by
  have hno : ¬ (s.samplePos.failedLately l.val 0 = true ∧ s.samplePos.failedLately l.val 1 = true) := by
    rcases h with h | h <;> simp [h]
  refine ⟨_, exec_linkTraining_fails hheld hruns hon hup hfailed hst, ?_, ?_,
    (State.trainFails_see (π := State.except [.links, .board, .timers]) _ _ (by simp)).trans
      (State.samplePos_see (π := State.except [.links, .board, .timers]) _ (by simp))⟩
  · rw [State.trainFails, if_neg hno, State.samplePos_link]
    exact (State.link_setLink ..).trans (if_pos rfl)
  · rw [State.trainFails, if_neg hno, State.samplePos_link]
    simp [State.timerRuns, State.startTimer]

theorem exec_linkTraining_miswired {pos : Fin 8} {link : Fin 24} {inc : BitVec 16} {rev : Bool} {pol : BitVec 4}
    (hl : l.val < 21) (hmis : link ≠ l ∨ pos.val ≠ s.samplePos.peerOf l.val) :
    exec (.linkTraining l (.device pos link inc rev pol)) s = .next ((s.samplePos.setLink l.val { s.link l.val with
      st := .failed, reversed := rev, polInv := pol, peerPos := BitVec.ofNat 4 pos.val
      peerLink := BitVec.ofNat 5 link.val }).flag .lnk (l.val / 4) 0x14 (bit 3)) := by
  have hcond : l.val < 21 ∧ (link.val ≠ l.val ∨ pos.val ≠ s.samplePos.peerOf l.val) := ⟨hl, hmis.imp_left (mt Fin.ext)⟩
  refine exec_linkTraining_eq hheld hruns ((State.linkTrained_due hon hup hfailed _).trans (if_pos hcond)) ?_ ?_
  · exact (State.flag_see (π := State.parts) _ _ _ _ _ (by simp)).trans
      ((State.setLink_see (π := State.parts) _ _ _ (by simp)).trans (State.samplePos_see (π := State.parts) _ (by simp)))
  · exact (State.flag_see (π := State.img) _ _ _ _ _ (by simp)).trans
      ((State.setLink_see (π := State.img) _ _ _ (by simp)).trans (State.samplePos_see (π := State.img) _ (by simp)))

end

/-! ## A link that comes up (R350, R353, R433) -/

/-- What training shows of a link. -/
def Link.face (k : Link) : LinkSt × Bool × BitVec 4 × BitVec 4 × BitVec 5 := (k.st, k.reversed, k.polInv, k.peerPos, k.peerLink)

/-- What training shows of link `l`, as a view. -/
def State.faceOf (l : Nat) (s : State) : LinkSt × Bool × BitVec 4 × BitVec 4 × BitVec 5 := (s.link l).face

@[simp] theorem ign_faceOf (l : Nat) (f : Fld) (h : f ≠ .links) : Ign (State.faceOf l) f := by
  cases f
  case links => exact absurd rfl h
  all_goals exact fun _ _ => rfl

section
variable (l : Nat)

theorem State.faceOf_setLink (s : State) (j : Nat) {k : Link} (h : k.face = (s.link j).face) :
    see (State.faceOf l) (s.setLink j k) = see (State.faceOf l) s := by
  simp only [see, State.faceOf, State.link_setLink]
  split
  case isTrue hj => rw [hj, h]
  case isFalse => rfl

theorem State.faceOf_transmit (s : State) (g j : Nat) (f : Frame) (r : Option CmdRef) :
    see (State.faceOf l) (s.transmit g j f r) = see (State.faceOf l) s := by
  unfold State.transmit
  dsimp only
  rw [State.countLg_see _ _ _ _ _ (by simp), State.countLg_see _ _ _ _ _ (by simp), State.emit_see _ _ (by simp),
    State.setLg_see _ _ _ (by simp)]
  exact State.faceOf_setLink l s j rfl

theorem State.faceOf_pumpN (g peer n : Nat) (s : State) : see (State.faceOf l) (s.pumpN g peer n) = see (State.faceOf l) s := by
  induction n generalizing s with
  | zero => rfl
  | succ n ih =>
    rw [State.pumpN]
    split
    case h_1 t ht =>
      obtain ⟨u, j, f, r, -, hu, rfl⟩ := State.pumpOne_transmits ht
      rw [ih, State.faceOf_transmit]
      exact congrArg Link.face (State.link_of_links hu l)
    case h_2 => rfl

theorem State.faceOf_pump (g peer : Nat) (s : State) : see (State.faceOf l) (s.pump g peer) = see (State.faceOf l) s := by
  unfold State.pump
  dsimp only
  rw [← State.faceOf_pumpN l g peer ((s.tx g peer).again.length + 2 * (s.tx g peer).waiting.length) s, ite_see]
  exact ite_eq_right_iff.2 fun _ => State.flag_see _ _ _ _ _ (by simp)

theorem State.faceOf_kick (j : Nat) (s : State) : see (State.faceOf l) (s.kick j) = see (State.faceOf l) s :=
  foldl_see _ (fun t g => State.faceOf_pump l g (t.peerOf j) t) _ _

theorem State.faceOf_peerReset (peer : Nat) (s : State) : see (State.faceOf l) (s.peerReset peer) = see (State.faceOf l) s := by
  unfold State.peerReset
  rw [State.forgetPeer_see _ _ (by simp)]
  refine (foldl_see _ (fun t x => ?_) _ _).trans ((foldl_see _ (fun t g => ?_) _ _).trans (foldl_see _ (fun t j => ?_) _ _))
  · exact State.failCle_see t _ _ _ (by simp)
  · exact State.setTx_see t _ _ _ (by simp)
  · rw [ite_see]
    exact ite_eq_right_iff.2 fun _ => State.faceOf_setLink l t j rfl

theorem State.faceOf_exchangeInc (peer : Nat) (inc : BitVec 16) (s : State) :
    see (State.faceOf l) (s.exchangeInc peer inc) = see (State.faceOf l) s := by
  unfold State.exchangeInc
  dsimp only
  rw [ite_see, State.ownReset_see _ _ (by simp), ite_self, ite_see, State.faceOf_peerReset, ite_self]
  rfl

end

theorem does_linkTraining_up {l : Fin 24} {s : State} (hheld : s.trainHeld = false) (hon : s.linkOn l.val = true)
    (hup : (s.link l.val).st ≠ .up) (hfailed : (s.link l.val).st ≠ .failed) {pos : Fin 8} {link : Fin 24} (inc : BitVec 16)
    (rev : Bool) (pol : BitVec 4) (h : 21 ≤ l.val ∨ (link = l ∧ pos.val = s.samplePos.peerOf l.val)) :
    Does (.linkTraining l (.device pos link inc rev pol)) s (fun t =>
      (t.link l.val).st = .up ∧ (t.link l.val).reversed = rev ∧ (t.link l.val).polInv = pol ∧
      (t.link l.val).peerPos = BitVec.ofNat 4 pos.val ∧ (t.link l.val).peerLink = BitVec.ofNat 5 link.val) := by
  have hwired : ¬ (l.val < 21 ∧ (link.val ≠ l.val ∨ pos.val ≠ s.samplePos.peerOf l.val)) := by
    rintro ⟨hl, hmis⟩
    obtain ⟨rfl, hpos⟩ := h.resolve_left (by omega)
    exact hmis.elim (· rfl) (· hpos)
  have htrained := (State.linkTrained_due hon hup hfailed (.device pos link inc rev pol)).trans (if_neg hwired)
  have hface : (s.linkTrained l.val (.device pos link inc rev pol)).readyParts.faceOf l.val =
      (.up, rev, pol, BitVec.ofNat 4 pos.val, BitVec.ofNat 5 link.val) := by
    refine (State.readyParts_see (π := State.faceOf l.val) _ (by simp)).trans ?_
    rw [htrained]
    refine (State.faceOf_kick l.val l.val _).trans ((State.faceOf_exchangeInc l.val _ inc _).trans ?_)
    exact congrArg Link.face ((State.link_setLink ..).trans (if_pos rfl))
  simp only [State.faceOf, Link.face, Prod.mk.injEq] at hface
  exact ⟨_, exec_linkTraining hheld, hface⟩

/-! ## Changes of delivery mode (R347) -/

theorem SMap.mem_of_get_ne {α : Type} {d : α} {m : SMap α} {k : Nat} (h : SMap.get d m k ≠ d) : (k, SMap.get d m k) ∈ m := by
  induction m with
  | nil => exact absurd rfl h
  | cons e m ih =>
    obtain ⟨j, v⟩ := e
    simp only [SMap.get] at h ⊢
    split at h
    case isTrue hj => simp [hj]
    case isFalse hj => rw [if_neg hj]; exact List.mem_cons_of_mem _ (ih h)

theorem State.closeEpoch_of_empty {s : State} {g peer : Nat} (h : (s.tx g peer).count = 0) (r : Option CmdRef) :
    s.closeEpoch g peer r = s := if_neg (fun hc => hc.2 h)

section
variable {g : Fin 6} {s : State} (hch : s.modeChanging g.val = true)
include hch

section
variable (hmode : s.sprays g.val = false)
include hmode

theorem exec_modeChange_ordered : exec (.lnkModeChange g) s = .next (
    if (s.lg g.val).tx.all (fun x => x.2.unperf.all (fun u => u.spray)) then (s.applyPart ⟨.lnk, g.val⟩ 0).pumpAll g.val else s) := by
  simp only [exec, execLnkModeChange, hch, not_true, if_false, hmode, Bool.false_eq_true, not_false_iff, if_true]

end

variable (hmode : s.sprays g.val = true)
include hmode

theorem exec_modeChange_spray {t : State}
    (h : ((s.lg g.val).tx.map (·.1)).foldl (fun s d => s.closeEpoch g.val d none) s = t) : exec (.lnkModeChange g) s = .next (
      if (t.lg g.val).tx.all (fun x => decide (x.2.openE = []) && decide (x.2.unperf = [])) then
        (t.applyPart ⟨.lnk, g.val⟩ 0).pumpAll g.val else t) := by
  simp only [exec, execLnkModeChange, hch, not_true, if_false, hmode, h]

theorem exec_modeChange_closed (h : ∀ e ∈ (s.lg g.val).tx, e.2.count = 0 ∧ e.2.openE = [] ∧ e.2.unperf = []) :
    exec (.lnkModeChange g) s = .next ((s.applyPart ⟨.lnk, g.val⟩ 0).pumpAll g.val) := by
  have hcount : ∀ d, (s.tx g.val d).count = 0 := fun d => by
    by_cases hd : s.tx g.val d = .reset
    · rw [hd]; rfl
    · exact (h _ (SMap.mem_of_get_ne hd)).1
  have hfold : ((s.lg g.val).tx.map (·.1)).foldl (fun s d => s.closeEpoch g.val d none) s = s :=
    List.foldl_fixed' (fun d => State.closeEpoch_of_empty (hcount d) none) _
  rw [exec_modeChange_spray hch hmode hfold]
  refine congrArg _ (if_pos (List.all_eq_true.2 fun e he => ?_))
  obtain ⟨-, hopen, hperf⟩ := h e he
  simp [hopen, hperf]

end

/-! ### An open epoch is closed first by a bare lamp (R347) -/

theorem State.nextLink_setTx (s : State) (g d : Nat) (x : TxDest) : (s.setTx g d x).nextLink g d = s.nextLink g d := by
  have hrr : ((s.setTx g d x).lg g).rr = (s.lg g).rr := congrArg (·.rr) ((State.lg_setLg ..).trans (if_pos rfl))
  unfold State.nextLink
  rw [hrr]
  rfl

theorem State.modeChanging_flag (s : State) (g : Nat) (k : BlkKind) (u off : Nat) (bits : W32) :
    (s.flag k u off bits).modeChanging g = s.modeChanging g := by
  unfold State.modeChanging State.flag
  dsimp only
  rw [State.blk_setBlk]
  split
  case isTrue hb => rw [show s.blk ⟨.lnk, g⟩ = s.blk ⟨k, u⟩ from congrArg (SMap.get _ _) hb]; rfl
  case isFalse => rfl

/-- Closing an open epoch that no link can carry away keeps its lamp to be sent. -/
theorem State.closeEpoch_of_no_link {s : State} {g d : Nat} (hmode : s.sprays g = true) (hcount : (s.tx g d).count ≠ 0)
    (hnone : s.nextLink g d = none) (r : Option CmdRef) :
    (s.closeEpoch g d r).tx g d = { (s.tx g d).close r true with
      again := (s.tx g d).again ++ [((s.tx g d).lampOf (s.bareLamp g), r)] } ∧
    (s.closeEpoch g d r).modeChanging g = s.modeChanging g := by
  have hclose : s.closeEpoch g d r = (s.setTx g d { (s.tx g d).close r true with
      again := (s.tx g d).again ++ [((s.tx g d).lampOf (s.bareLamp g), r)] }).pump g d := if_pos ⟨hmode, hcount⟩
  rw [hclose]
  refine ⟨(State.tx_of_lgs (State.pump_lgs_of_no_link ((State.nextLink_setTx ..).trans hnone)) g d).trans ?_, ?_⟩
  · rw [State.tx_setTx, if_pos rfl]
  · unfold State.pump
    dsimp only
    rw [State.pumpN_of_no_link ((State.nextLink_setTx ..).trans hnone)]
    split
    · exact State.modeChanging_flag ..
    · rfl

theorem does_modeChange_closes {g : Fin 6} {s : State} (hch : s.modeChanging g.val = true) (hmode : s.sprays g.val = true)
    {d : Nat} {x : TxDest} (htx : (s.lg g.val).tx = [(d, x)]) (hcount : x.count ≠ 0) (hnone : s.nextLink g.val d = none) :
    Does (.lnkModeChange g) s (fun t =>
      t.tx g.val d = { x.close none true with again := x.again ++ [(x.lampOf (s.bareLamp g.val), none)] } ∧
      t.modeChanging g.val = true) := by
  obtain rfl : s.tx g.val d = x := by simp [State.tx, htx, SMap.get]
  obtain ⟨hclosed, hkept⟩ := State.closeEpoch_of_no_link hmode hcount hnone none
  have hopen : ((s.closeEpoch g.val d none).tx g.val d).openE ≠ [] := by
    rw [hclosed]
    exact List.append_ne_nil_of_right_ne_nil _ (List.cons_ne_nil _ _)
  have hnot : ¬ ((s.closeEpoch g.val d none).lg g.val).tx.all (fun e => decide (e.2.openE = []) && decide (e.2.unperf = [])) := by
    intro hall
    have hmem := SMap.mem_of_get_ne (d := TxDest.reset) (fun h => hopen (congrArg TxDest.openE h))
    have := List.all_eq_true.1 hall _ hmem
    simp only [Bool.and_eq_true, decide_eq_true_eq] at this
    exact hopen this.1
  refine ⟨s.closeEpoch g.val d none, ?_, hclosed, hkept.trans hch⟩
  have hfold : ((s.lg g.val).tx.map (·.1)).foldl (fun s d => s.closeEpoch g.val d none) s = s.closeEpoch g.val d none := by
    rw [htx]
    rfl
  rw [exec_modeChange_spray hch hmode hfold, if_neg hnot]

end Sys2Proof.Machine
open Sys2Proof Sys2Proof.Machine

/-- Settles O44: a training attempt by its outcomes, and a mode change by the writes and epochs still open. -/
theorem linksTrainAndChangeMode : Obligations.LinksTrainAndChangeMode := by
  unfold Obligations.LinksTrainAndChangeMode
  refine ⟨fun l far s hheld => congrArg Host.Outcome.next (if_pos hheld), fun l far s hruns hheld =>
    ⟨exec_linkTraining_not_due hheld hruns, fun hon hup hfailed => ⟨?_, ?_, ?_, ?_⟩⟩, fun g s hch => ⟨?_, ?_, ?_, ?_⟩⟩
  · rintro rfl hst
    exact exec_linkTraining_down hheld hruns hon hup hfailed hst
  · rintro rfl hst h0 h1
    exact does_linkTraining_third hheld hruns hon hup hfailed hst h0 h1
  · rintro rfl hst h
    exact does_linkTraining_retry hheld hruns hon hup hfailed hst h
  · rintro pos link inc rev pol rfl
    exact ⟨fun hl hmis => exec_linkTraining_miswired hheld hruns hon hup hfailed hl hmis,
      fun h => does_linkTraining_up hheld hon hup hfailed inc rev pol h⟩
  · intro hmode h
    rw [exec_modeChange_ordered hch hmode]
    exact congrArg _ (if_pos (List.all_eq_true.2 fun e he => List.all_eq_true.2 fun w hw => h e he w hw))
  · rintro hmode ⟨e, he, w, hw, hspray⟩
    rw [exec_modeChange_ordered hch hmode]
    refine congrArg _ (if_neg fun hall => ?_)
    have := List.all_eq_true.1 (List.all_eq_true.1 hall e he) w hw
    exact absurd (hspray.symm.trans this) Bool.false_ne_true
  · exact exec_modeChange_closed hch
  · exact fun d x hmode htx hcount hnone => does_modeChange_closes hch hmode htx hcount hnone

end

section
/-!
Writes and lamps that arrive over the links (R343–R346, R360). It settles O45.
-/
namespace Sys2Proof.Machine
set_option Elab.async false

/-! ## What sending keeps -/

section
variable {Q : State → Prop} {g peer : Nat} (hsetTx : ∀ (t : State) (x : TxDest), Q t → Q (t.setTx g peer x))
  (htransmit : ∀ (t : State) (l : Nat) (f : Frame) (r : Option CmdRef), Q t → Q (t.transmit g l f r))
  (hflag : ∀ (t : State) (bits : W32), Q t → Q (t.flag .lnk g 0x400 bits))
include hsetTx htransmit hflag

theorem State.sendWaiting_keeps {s t : State} {l : Nat} (h : s.sendWaiting g peer l = some t) (hs : Q s) : Q t := by
  unfold State.sendWaiting at h
  dsimp only at h
  split at h
  · cases h
  · split_ifs at h with hspray hopen hfull hlamp <;> obtain rfl := Option.some.inj h
    · exact htransmit _ _ _ _ (hflag _ _ (hsetTx _ _ hs))
    · exact htransmit _ _ _ _ (hsetTx _ _ hs)
    · exact htransmit _ _ _ _ (hsetTx _ _ hs)
    · exact htransmit _ _ _ _ (hsetTx _ _ hs)

theorem State.pumpOne_keeps {s t : State} (h : s.pumpOne g peer = some t) (hs : Q s) : Q t := by
  unfold State.pumpOne at h
  split at h
  · cases h
  · dsimp only at h
    split at h
    · obtain rfl := Option.some.inj h
      exact htransmit _ _ _ _ (hsetTx _ _ hs)
    · split at h
      · cases h
      · exact State.sendWaiting_keeps hsetTx htransmit hflag h hs

theorem State.pumpN_keeps (n : Nat) {s : State} (hs : Q s) : Q (s.pumpN g peer n) := by
  induction n generalizing s with
  | zero => exact hs
  | succ n ih =>
    rw [State.pumpN]
    split
    case h_1 t ht => exact ih (State.pumpOne_keeps hsetTx htransmit hflag ht hs)
    case h_2 => exact hs

/-- What the sending of one frame keeps, the sending of all that may go keeps. -/
theorem State.pump_keeps {s : State} (hs : Q s) : Q (s.pump g peer) := by
  have hN := State.pumpN_keeps hsetTx htransmit hflag ((s.tx g peer).again.length + 2 * (s.tx g peer).waiting.length) hs
  unfold State.pump
  dsimp only
  split
  · exact hflag _ _ hN
  · exact hN

end

theorem State.mem_out_of_see {s t : State} {o : Out} (hsame : see State.out t = see State.out s) (h : o ∈ s.out) : o ∈ t.out :=
  (show t.out = s.out from hsame) ▸ h

theorem State.mem_out_pump {s : State} {o : Out} (g peer : Nat) (h : o ∈ s.out) : o ∈ (s.pump g peer).out := by
  refine State.pump_keeps (Q := fun t => o ∈ t.out) (fun t x ht => ?_) (fun t l f r ht => ?_) (fun t bits ht => ?_) h
  · exact State.mem_out_of_see (State.setTx_see t _ _ x (by simp)) ht
  · have hout : (t.transmit g l f r).out = t.out ++ [.frame l { f with lseq := (t.link l).txLseq }] := by
      refine (State.countLg_see (π := State.out) _ _ _ _ _ (by simp)).trans
        ((State.countLg_see (π := State.out) _ _ _ _ _ (by simp)).trans ?_)
      rfl
    rw [hout]
    exact List.mem_append_left _ ht
  · exact State.mem_out_of_see (State.flag_see t _ _ _ bits (by simp)) ht

/-- The lamps that a group holds, as a view. -/
def State.lampsOf (g : Nat) (s : State) : List HeldLamp := (s.lg g).lamps

@[simp] theorem ign_lampsOf (g : Nat) (f : Fld) (h : f ≠ .lgs) : Ign (State.lampsOf g) f := by
  cases f
  case lgs => exact absurd rfl h
  all_goals exact fun _ _ => rfl

theorem State.lampsOf_setLg (s : State) (g j : Nat) {v : LinkGroup} (h : v.lamps = (s.lg j).lamps) :
    (s.setLg j v).lampsOf g = s.lampsOf g := by
  simp only [State.lampsOf, State.lg_setLg]
  split
  case isTrue hj => rw [hj, h]
  case isFalse => rfl

theorem State.lampsOf_transmit (s : State) (g j l : Nat) (f : Frame) (r : Option CmdRef) :
    (s.transmit j l f r).lampsOf g = s.lampsOf g := by
  refine (State.countLg_see (π := State.lampsOf g) _ _ _ _ _ (by simp)).trans
    ((State.countLg_see (π := State.lampsOf g) _ _ _ _ _ (by simp)).trans
      ((State.emit_see (π := State.lampsOf g) _ _ (by simp)).trans ?_))
  exact State.lampsOf_setLg _ g j rfl

theorem State.lampsOf_pump (s : State) (g j peer : Nat) : (s.pump j peer).lampsOf g = s.lampsOf g := by
  refine State.pump_keeps (Q := fun t => t.lampsOf g = s.lampsOf g) (fun t x ht => ?_) (fun t l f r ht => ?_)
    (fun t bits ht => ?_) rfl
  · exact (State.lampsOf_setLg (v := { t.lg j with tx := SMap.set .reset (t.lg j).tx peer x }) t g j rfl).trans ht
  · exact (State.lampsOf_transmit t g j l f r).trans ht
  · exact (State.flag_see (π := State.lampsOf g) t _ _ _ bits (by simp)).trans ht

theorem State.lampsOf_answerOn (s : State) (g l : Nat) (f : Frame) (typ : Nat) : (s.answerOn l f typ).lampsOf g = s.lampsOf g :=
  (State.lampsOf_pump ..).trans (State.lampsOf_setLg _ g _ rfl)

theorem State.mem_out_answerOn {s : State} {o : Out} (l : Nat) (f : Frame) (typ : Nat) (h : o ∈ s.out) :
    o ∈ (s.answerOn l f typ).out :=
  State.mem_out_pump _ _ (State.mem_out_of_see (State.setTx_see s _ _ _ (by simp)) h)

/-! ## A frame is performed (R344, R360) -/

theorem State.rx_setRx (s : State) (k j : Nat) (x : RxSrc) : (s.setRx k x).rx j = if j = k then x else s.rx j :=
  SMap.get_set ..

theorem State.takeFrame_mem {s : State} {l : Nat} {f : Frame} (h : f ∈ (s.link l).rxq) :
    s.takeFrame l f = some (s.setLink l { s.link l with rxq := (s.link l).rxq.erase f }) :=
  if_pos (List.any_eq_true.2 ⟨f, h, decide_eq_true rfl⟩)

section
variable {f : Frame} (hdata : f.data ≠ []) (hcoll : ¬ (f.typ = 2 ∧ f.data.length = 16))
include hdata

include hcoll in
theorem State.performAck_rejected {s u : State} (l : Nat) (h : s.inboundPlace f f.data.length = (none, u)) :
    s.performAck l f = u.rejectFrame l f := by
  simp only [State.performAck, State.performFrame, if_neg hdata, if_neg hcoll, h]

theorem State.performAck_write {s u : State} (l : Nat) {p : Nat} {held : List PageMap} (htyp : f.typ = 1)
    (h : s.inboundPlace f f.data.length = (some (p, held), u)) :
    s.performAck l f = (u.heldWrite p held f.addr.toNat f.data).answerOn l f 5 := by
  simp only [State.performAck, State.performFrame, if_neg hdata, h, htyp]
  rfl

end

/-! ## Ordered writes, spray writes and lamps arrive (R343, R344) -/

section
variable {l : Fin 24} {f : Frame} {s : State} (hmem : f ∈ (s.link l.val).rxq) (htyp : f.typ = 1 ∨ f.typ = 2)
include hmem htyp

section
variable (hspray : f.spray = false)
include hspray

theorem exec_linkWriteArrive (hwin : (f.seq - (s.rx (s.srcKey l.val f)).seq).toNat < 2 ^ 31)
    (hnew : ∀ e ∈ (s.rx (s.srcKey l.val f)).early, e.2.seq ≠ f.seq) : exec (.linkWriteArrive l f) s = .next
      (((s.setLink l.val { s.link l.val with rxq := (s.link l.val).rxq.erase f }).setRx (s.srcKey l.val f)
        { s.rx (s.srcKey l.val f) with early := (s.rx (s.srcKey l.val f)).early ++ [(l.val, f)] }).drainEarly
          (s.srcKey l.val f) ((s.rx (s.srcKey l.val f)).early.length + 1)) := by
  have hcond : (f.seq - (s.rx (s.srcKey l.val f)).seq).toNat < 2 ^ 31 ∧
      ¬ (s.rx (s.srcKey l.val f)).early.any (fun e => decide (e.2.seq = f.seq)) := by
    refine ⟨hwin, fun hany => ?_⟩
    obtain ⟨e, he, hseq⟩ := List.any_eq_true.1 hany
    exact hnew e he (of_decide_eq_true hseq)
  have htake : (if (f.typ = 1 ∨ f.typ = 2) ∧ ¬ f.spray then s.takeFrame l.val f else none) = _ :=
    (if_pos ⟨htyp, by simp [hspray]⟩).trans (State.takeFrame_mem hmem)
  simp only [exec, execLinkWriteArrive, htake]
  exact congrArg _ (if_pos hcond)

theorem exec_linkWriteArrive_early (hseq : f.seq ≠ (s.rx (s.srcKey l.val f)).seq)
    (hwin : (f.seq - (s.rx (s.srcKey l.val f)).seq).toNat < 2 ^ 31)
    (hnew : ∀ e ∈ (s.rx (s.srcKey l.val f)).early, e.2.seq ≠ f.seq ∧ e.2.seq ≠ (s.rx (s.srcKey l.val f)).seq) :
    exec (.linkWriteArrive l f) s = .next
      ((s.setLink l.val { s.link l.val with rxq := (s.link l.val).rxq.erase f }).setRx (s.srcKey l.val f)
        { s.rx (s.srcKey l.val f) with early := (s.rx (s.srcKey l.val f)).early ++ [(l.val, f)] }) := by
  rw [exec_linkWriteArrive hmem htyp hspray hwin fun e he => (hnew e he).1, State.drainEarly, State.rx_setRx, if_pos rfl]
  have hnone : ((s.rx (s.srcKey l.val f)).early ++ [(l.val, f)]).find?
      (fun e => decide (e.2.seq = (s.rx (s.srcKey l.val f)).seq)) = none := by
    refine List.find?_eq_none.2 fun e he => ?_
    rcases List.mem_append.1 he with he | he
    · simpa using (hnew e he).2
    · obtain rfl := List.mem_singleton.1 he
      simpa using hseq
  simp only [hnone]

theorem does_linkWriteArrive_next (hseq : f.seq = (s.rx (s.srcKey l.val f)).seq) (hearly : (s.rx (s.srcKey l.val f)).early = []) :
    Does (.linkWriteArrive l f) s (fun t => ∃ u : State,
      t = u.performAck l.val f ∧ u.rx (s.srcKey l.val f) =
        { s.rx (s.srcKey l.val f) with seq := (s.rx (s.srcKey l.val f)).seq + 1 } ∧
      (∀ j, j ≠ s.srcKey l.val f → u.rx j = s.rx j) ∧ u.board = { s.board with rx := u.board.rx } ∧
      u.except [.board] = (s.setLink l.val { s.link l.val with rxq := (s.link l.val).rxq.erase f }).except [.board]) := by
  refine ⟨_, exec_linkWriteArrive hmem htyp hspray (by rw [hseq]; simp) (by rw [hearly]; simp), ?_⟩
  generalize s.srcKey l.val f = src at *
  refine ⟨((s.setLink l.val { s.link l.val with rxq := (s.link l.val).rxq.erase f }).setRx src
    { s.rx src with early := [(l.val, f)] }).setRx src { s.rx src with seq := (s.rx src).seq + 1 }, ?_, ?_, ?_, rfl, rfl⟩
  · rw [hearly, List.nil_append, List.length_nil, State.drainEarly, State.rx_setRx, if_pos rfl]
    simp [hseq, State.drainEarly, hearly]
  · rw [State.rx_setRx, if_pos rfl]
  · intro j hj
    rw [State.rx_setRx, if_neg hj, State.rx_setRx, if_neg hj]
    rfl

end

section
variable (hspray : f.spray = true) (hlamp : f.lamp = false)
include hspray hlamp

theorem exec_sprayWriteArrive_closed (hclosed : f.epoch ∈ (s.rx (s.srcKey l.val f)).closed) :
    exec (.sprayWriteArrive l f) s = .next
      ((s.setLink l.val { s.link l.val with rxq := (s.link l.val).rxq.erase f }).performAck l.val f) := by
  have htake : (if (f.typ = 1 ∨ f.typ = 2) ∧ f.spray ∧ ¬ f.lamp then s.takeFrame l.val f else none) = _ :=
    (if_pos ⟨htyp, hspray, by simp [hlamp]⟩).trans (State.takeFrame_mem hmem)
  simp only [exec, execSprayWriteArrive, htake]
  exact congrArg _ (if_pos (List.any_eq_true.2 ⟨_, hclosed, decide_eq_true rfl⟩))

variable (hclosed : f.epoch ∉ (s.rx (s.srcKey l.val f)).closed)
include hclosed

theorem exec_sprayWriteArrive_open : exec (.sprayWriteArrive l f) s = .next (
    if s.mayCount (s.rx (s.srcKey l.val f)) f.epoch then
      match (s.setLink l.val { s.link l.val with rxq := (s.link l.val).rxq.erase f }).performFrame l.val f with
      | (true, u) => (u.setRx (s.srcKey l.val f) ((u.rx (s.srcKey l.val f)).setCount f.epoch
          (((u.rx (s.srcKey l.val f)).countOf f.epoch).getD 0 + 1))).answerOn l.val f 5
      | (false, u) => u.rejectFrame l.val f
    else s) := by
  have htake : (if (f.typ = 1 ∨ f.typ = 2) ∧ f.spray ∧ ¬ f.lamp then s.takeFrame l.val f else none) = _ :=
    (if_pos ⟨htyp, hspray, by simp [hlamp]⟩).trans (State.takeFrame_mem hmem)
  have hopen : ¬ (s.rx (s.srcKey l.val f)).closed.any (· = f.epoch) := by
    simpa using hclosed
  simp only [exec, execSprayWriteArrive, htake]
  exact congrArg _ (if_neg hopen)

end

section
variable (hspray : f.spray = true) (hlamp : f.lamp = true)
include hspray hlamp

theorem exec_lampArrive : exec (.lampArrive l f) s = .next (
    if (s.rx (s.srcKey l.val f)).closed.any (· = f.epoch) ∨ s.lampHeld (s.srcKey l.val f) f.epoch then
      s.setLink l.val { s.link l.val with rxq := (s.link l.val).rxq.erase f }
    else if s.mayCount (s.rx (s.srcKey l.val f)) f.epoch then
      let u := (s.setLink l.val { s.link l.val with rxq := (s.link l.val).rxq.erase f }).setRx (s.srcKey l.val f)
        ((s.rx (s.srcKey l.val f)).setCount f.epoch (((s.rx (s.srcKey l.val f)).countOf f.epoch).getD 0))
      (u.setLg (l.val / 4) { u.lg (l.val / 4) with
        lamps := (u.lg (l.val / 4)).lamps ++ [⟨s.srcKey l.val f, f, l.val⟩] }).startTimer
          (.lamp (l.val / 4) (s.srcKey l.val f) f.epoch.toNat) (.link (l.val / 4)) (u.cfg .lnk (l.val / 4) 0x404 23 0 * 1000)
    else s) := by
  have htake : (if (f.typ = 1 ∨ f.typ = 2) ∧ f.spray ∧ f.lamp then s.takeFrame l.val f else none) = _ :=
    (if_pos ⟨htyp, hspray, hlamp⟩).trans (State.takeFrame_mem hmem)
  simp only [exec, execLampArrive, htake]

theorem exec_lampArrive_again (h : f.epoch ∈ (s.rx (s.srcKey l.val f)).closed ∨ s.lampHeld (s.srcKey l.val f) f.epoch = true) :
    exec (.lampArrive l f) s = .next (s.setLink l.val { s.link l.val with rxq := (s.link l.val).rxq.erase f }) := by
  rw [exec_lampArrive hmem htyp hspray hlamp]
  exact congrArg _ (if_pos (by simpa using h))

variable (hclosed : f.epoch ∉ (s.rx (s.srcKey l.val f)).closed) (hheld : s.lampHeld (s.srcKey l.val f) f.epoch = false)
include hclosed hheld

theorem exec_lampArrive_uncounted (hcount : s.mayCount (s.rx (s.srcKey l.val f)) f.epoch = false) :
    exec (.lampArrive l f) s = .next s := by
  rw [exec_lampArrive hmem htyp hspray hlamp]
  exact congrArg _ ((if_neg (by simpa [hheld] using hclosed)).trans (if_neg (by simp [hcount])))

theorem does_lampArrive_held (hcount : s.mayCount (s.rx (s.srcKey l.val f)) f.epoch = true) :
    Does (.lampArrive l f) s (fun t =>
      (t.lg (l.val / 4)).lamps = (s.lg (l.val / 4)).lamps ++ [⟨s.srcKey l.val f, f, l.val⟩] ∧
      t.rx (s.srcKey l.val f) = (s.rx (s.srcKey l.val f)).setCount f.epoch
        (((s.rx (s.srcKey l.val f)).countOf f.epoch).getD 0) ∧
      t.timerRuns (.lamp (l.val / 4) (s.srcKey l.val f) f.epoch.toNat) = true ∧
      t.except [.links, .lgs, .board, .timers] = s.except [.links, .lgs, .board, .timers]) := by
  have hnew : ¬ ((s.rx (s.srcKey l.val f)).closed.any (· = f.epoch) ∨ s.lampHeld (s.srcKey l.val f) f.epoch) := by
    simpa [hheld] using hclosed
  refine ⟨_, (exec_lampArrive hmem htyp hspray hlamp).trans
    (congrArg Host.Outcome.next ((if_neg hnew).trans (if_pos hcount))), ?_, ?_, ?_,
    (State.startTimer_see (π := State.except [.links, .lgs, .board, .timers]) _ _ _ _ (by simp)).trans rfl⟩
  · exact congrArg LinkGroup.lamps ((State.lg_setLg ..).trans (if_pos rfl))
  · exact (State.rx_setRx ..).trans (if_pos rfl)
  · exact State.timerRuns_startTimer ..

end
end

/-! ## Held lamps (R344, R345) -/

section
variable {g : Fin 6} {k : Nat} {h : HeldLamp} {s : State} (hk : (s.lg g.val).lamps[k]? = some h)
include hk

theorem exec_lampPerform_waits
    (hw : ((s.rx h.src).countOf h.frame.epoch).getD 0 < h.frame.seq.toNat ∨ (s.rx h.src).turnOf h.frame.epoch = false) :
    exec (.lampPerform g k) s = .next s := by
  have hno : ¬ (h.frame.seq.toNat ≤ ((s.rx h.src).countOf h.frame.epoch).getD 0 ∧ (s.rx h.src).turnOf h.frame.epoch) := by
    rintro ⟨hle, hturn⟩
    exact hw.elim (by omega) (by simp [hturn])
  simp only [exec, execLampPerform, hk]
  exact congrArg _ (if_neg hno)

theorem exec_lampPerform {b : Bool} {u : State} (hcount : h.frame.seq.toNat ≤ ((s.rx h.src).countOf h.frame.epoch).getD 0)
    (hturn : (s.rx h.src).turnOf h.frame.epoch = true)
    (hu : ((s.dropLamp g.val k h).setRx h.src ((s.rx h.src).shut h.frame.epoch)).performFrame h.link h.frame = (b, u)) :
    exec (.lampPerform g k) s = .next (if b then
      (u.setLg g.val { u.lg g.val with lampsDone := (u.lg g.val).lampsDone + 1 }).answerOn h.link h.frame 5
    else u.rejectFrame h.link h.frame) := by
  simp only [exec, execLampPerform, hk]
  refine congrArg _ ((if_pos ⟨hcount, hturn⟩).trans ?_)
  rw [hu]

theorem exec_lampExpire_early (hexp : s.expired (.lamp g.val h.src h.frame.epoch.toNat) = false) :
    exec (.lampExpire g k) s = .next s := by
  simp only [exec, execLampExpire, hk]
  exact congrArg _ (if_neg (by simp [hexp]))

/-- The notice that a lamp's expiry gives the partition of its group. -/
def State.lampNotice (s : State) (g : Nat) (h : HeldLamp) : State :=
  match s.partOfLg g with
  | some p => s.emit (.notice p 4 [h.src / 8, h.src % 8, h.frame.epoch.toNat])
  | none => s

omit hk in
theorem State.lampNotice_see {α : Type} {π : State → α} (hW : Ign π .out) (s : State) (g : Nat) (h : HeldLamp) :
    see π (s.lampNotice g h) = see π s := by
  unfold State.lampNotice
  split
  · exact State.emit_see _ _ (by simp [hW])
  · rfl

theorem does_lampExpire (hexp : s.expired (.lamp g.val h.src h.frame.epoch.toNat) = true) : Does (.lampExpire g k) s (fun t =>
    (t.lg g.val).lamps = (s.lg g.val).lamps.eraseIdx k ∧ t.rx h.src = (s.rx h.src).shut h.frame.epoch ∧
    (∀ p, s.partOfLg g.val = some p → .notice p 4 [h.src / 8, h.src % 8, h.frame.epoch.toNat] ∈ t.out)) := by
  obtain ⟨u, hu⟩ : ∃ u, (s.dropLamp g.val k h).setRx h.src ((s.rx h.src).shut h.frame.epoch) = u := ⟨_, rfl⟩
  obtain ⟨v, hv⟩ : ∃ v, (u.flag .lnk g.val 0x400 (bit 31)).countLg g.val 0x0305 1 nobody = v := ⟨_, rfl⟩
  have hexec : exec (.lampExpire g k) s = .next ((v.lampNotice g.val h).answerOn h.link h.frame 9) := by
    simp only [exec, execLampExpire, hk]
    rw [hu, hv]
    exact congrArg _ (if_pos hexp)
  have hview : ∀ {α : Type} {π : State → α}, Ign π .blocks ∧ Ign π .tals → see π v = see π u := fun hW => hv ▸
    (State.countLg_see _ _ _ _ _ (by simp [hW])).trans (State.flag_see _ _ _ _ _ (by simp [hW]))
  refine ⟨_, hexec, ?_, ?_, fun p hp => ?_⟩
  · refine (State.lampsOf_answerOn ..).trans ((State.lampNotice_see (π := State.lampsOf g.val) (by simp) v _ h).trans
      ((hview (π := State.lampsOf g.val) (by simp)).trans ?_))
    subst hu
    exact congrArg LinkGroup.lamps ((State.lg_setLg ..).trans (if_pos rfl))
  · have hboard : ((v.lampNotice g.val h).answerOn h.link h.frame 9).board = u.board :=
      (State.sendPlain_see (π := State.board) _ _ _ _ (by simp)).trans
        ((State.lampNotice_see (π := State.board) (by simp) v _ h).trans (hview (π := State.board) (by simp)))
    rw [State.rx, hboard, ← State.rx]
    subst hu
    exact (State.rx_setRx ..).trans (if_pos rfl)
  · have hpart : v.partOfLg g.val = some p := by
      have himg : v.img = s.img := (hview (π := State.img) (by simp)).trans (hu ▸ rfl)
      rw [← hp, State.partOfLg, State.partOfLg, State.partsOf, State.partsOf, State.mask, State.mask, himg]
    refine State.mem_out_answerOn _ _ _ ?_
    rw [State.lampNotice, hpart]
    exact List.mem_append_right _ (List.mem_singleton.2 rfl)

end

/-! ## The answer to a lamp that was held too long (R345) -/

theorem does_lampExpiryReceive {l : Fin 24} {f : Frame} {s u : State} {w : Sent} {r : CmdRef} (hmem : f ∈ (s.link l.val).rxq)
    (htyp : f.typ = 9)
    (hu : (s.setLink l.val { s.link l.val with rxq := (s.link l.val).rxq.erase f }).settle l.val f = some (w, u))
    (hr : w.ref = some r) : Does (.lampExpiryReceive l f) s (fun t =>
      t = (u.failCle (frameGroup f) r (badLink 1 (u.peerOf l.val))).cleProgress (frameGroup f) ∧
      ((s.queOwner r.q).isSome = true → (s.cmdAt r).isSome = true → (t.que r.q).halted = true)) := by
  have htake : (if f.typ = 9 then s.takeFrame l.val f else none) = _ := (if_pos htyp).trans (State.takeFrame_mem hmem)
  have hsettle : u.commands = s.commands := 
    (State.settle_see_of (π := State.commands) hu (by simp)).trans (State.setLink_see (π := State.commands) s _ _ (by simp))
  have hcmds : (u.dropCle (frameGroup f) r).commands = s.commands :=
    (State.dropCle_see (π := State.commands) u _ _ (by simp)).trans hsettle
  refine ⟨_, ?_, rfl, fun ho hc => ?_⟩
  · simp only [exec, execLampExpiryReceive, htake, hu, hr]
  · have hques := State.cleProgress_see (π := State.ques) (u.failCle (frameGroup f) r (badLink 1 (u.peerOf l.val)))
      (frameGroup f) (by simp)
    exact (congrArg Que.halted (State.que_of_ques hques r.q)).trans (State.failRef_halts hcmds ho hc ..)

end Sys2Proof.Machine
open Sys2Proof Sys2Proof.Machine

/-- Settles O45: the arrivals by kind and by the state of their epoch, the lamps that are held, and the frames performed. -/
theorem arrivalsFollowTheirMode : Obligations.ArrivalsFollowTheirMode := by
  unfold Obligations.ArrivalsFollowTheirMode
  refine ⟨fun l f s hmem htyp => ⟨?_, ?_, fun hspray hlamp => ⟨?_, ?_, ?_, ?_⟩, ?_, ?_, ?_⟩,
    fun g k h s hk => ⟨fun u hcount hturn => ⟨?_, ?_⟩, ?_, ?_, ?_⟩, fun s l f hdata hcoll => ⟨?_, ?_⟩, ?_⟩
  · exact does_linkWriteArrive_next hmem htyp
  · exact exec_linkWriteArrive_early hmem htyp
  · exact exec_sprayWriteArrive_closed hmem htyp hspray hlamp
  · intro hclosed hcount
    rw [exec_sprayWriteArrive_open hmem htyp hspray hlamp hclosed]
    exact congrArg _ (if_neg (by simp [hcount]))
  · intro u hclosed hcount hu
    rw [exec_sprayWriteArrive_open hmem htyp hspray hlamp hclosed, if_pos hcount, hu]
  · intro u hclosed hcount hu
    rw [exec_sprayWriteArrive_open hmem htyp hspray hlamp hclosed, if_pos hcount, hu]
    rfl
  · exact exec_lampArrive_again hmem htyp
  · exact exec_lampArrive_uncounted hmem htyp
  · exact does_lampArrive_held hmem htyp
  · exact exec_lampPerform hk hcount hturn
  · exact exec_lampPerform hk hcount hturn
  · exact exec_lampPerform_waits hk
  · exact does_lampExpire hk
  · exact exec_lampExpire_early hk
  · exact fun u hu => State.performAck_rejected hdata hcoll l hu
  · exact fun u p held htyp hu => State.performAck_write hdata l htyp hu
  · exact fun l f s u w r hmem htyp hu hr => does_lampExpiryReceive hmem htyp hu hr

end

section
/-!
Sends and collectives (R363, R366, R367). It settles O46.
-/
namespace Sys2Proof.Machine
set_option Elab.async false

/-! ## The collective that runs (R366) -/

theorem State.cle_of_cles {s t : State} (h : t.cles = s.cles) (k : Nat) : t.cle k = s.cle k := by
  rw [State.cle, State.cle, h]

theorem State.collOp_eq_some {s : State} {g : Nat} {o : CollOp} {c : Cmd} {p : Nat} : s.collOp g = some (o, c, p) ↔
    (s.cle g).coll = some o ∧ o.started = true ∧ s.cmdAt o.ref = some c ∧ ∃ q, s.queOwner o.ref.q = some (p, q) := by
  constructor
  · intro h
    unfold State.collOp at h
    split at h
    case h_1 x hx =>
      split at h
      · cases h
      case isFalse hst =>
        split at h
        case h_1 hc ho =>
          cases h
          exact ⟨hx, by simpa using hst, hc, _, ho⟩
        case h_2 => cases h
    case h_2 => cases h
  · rintro ⟨hx, hst, hc, q, ho⟩
    simp only [State.collOp, hx, hst, hc, ho, not_true, if_false]

/-- A collective runs on with its operation's record changed. -/
theorem State.collOp_of_commands {s t : State} {g : Nat} {o y : CollOp} {c : Cmd} {p : Nat} (h : s.collOp g = some (o, c, p))
    (hcmds : t.commands = s.commands) (hy : (t.cle g).coll = some y) (href : y.ref = o.ref) (hst : y.started = o.started) :
    t.collOp g = some (y, c, p) := by
  obtain ⟨-, hstarted, hc, q, ho⟩ := State.collOp_eq_some.1 h
  refine State.collOp_eq_some.2 ⟨hy, hst.trans hstarted, ?_, q, ?_⟩
  · rw [href, State.cmdAt_of_commands hcmds, hc]
  · rw [href, State.queOwner_of_commands hcmds, ho]

theorem State.coll_setColl (s : State) (g : Nat) (o : CollOp) : ((s.setColl g o).cle g).coll = some o :=
  congrArg Cle.coll ((State.cle_setCle ..).trans (if_pos rfl))

theorem State.collMaybeDone_waits {s : State} {g : Nat} {o : CollOp} {c : Cmd} {p : Nat} (h : s.collOp g = some (o, c, p))
    (hw : o.contribOf.length ≠ clM c - 1 ∨ c.opcode = 0x02 ∧ o.resultOf.length ≠ clM c - 1) : s.collMaybeDone g = s := by
  unfold State.collMaybeDone
  simp only [h]
  refine if_neg fun hdone => ?_
  simp only [Bool.and_eq_true, Bool.or_eq_true, decide_eq_true_eq] at hdone
  obtain ⟨⟨⟨-, hof⟩, -⟩, hres⟩ := hdone
  exact hw.elim (· hof) fun ⟨hop, hlen⟩ => hres.elim (· hop) (fun hr => hlen hr.1)

theorem State.failCle_halts {s u : State} {r : CmdRef} (hsame : u.commands = s.commands)
    (ho : (s.queOwner r.q).isSome = true) (hc : (s.cmdAt r).isSome = true) (g : Nat) (b : Bad) :
    ((u.failCle g r b).que r.q).halted = true :=
  State.failRef_halts ((State.dropCle_see (π := State.commands) u _ _ (by simp)).trans hsame) ho hc ..

/-! ## Sends (R363) -/

theorem State.waiting_sendWrites {s : State} {g peer : Nat} (h : s.nextLink g peer = none) (r : CmdRef) (fs : List Frame) :
    ((s.sendWrites g peer r fs).tx g peer).waiting = (s.tx g peer).waiting ++ fs.map (fun f => (f, some r)) := by
  refine (congrArg TxDest.waiting (State.tx_of_lgs (State.pump_lgs_of_no_link ((State.nextLink_setTx ..).trans h)) g peer)).trans ?_
  rw [State.tx_setTx, if_pos rfl]

section
variable {g : Fin 6} {s : State} {o : SendOp} {c : Cmd} {p q : Nat}
  (hfind : (s.cle g.val).sends.find? (fun x => !x.started) = some o) (hc : s.cmdAt o.ref = some c)
  (ho : s.queOwner o.ref.q = some (p, q))
include hfind hc ho

theorem exec_cleSend_held (h : s.cleHeld g.val = true) : exec (.cleSend g) s = .next s := by
  simp only [exec, execCleSend, hfind, hc, ho]
  exact congrArg _ (if_pos h)

theorem does_cleSend_fails (h : s.cleHeld g.val = false) (hstop : s.heldStops p c.held (clSrc c) (clLen c) ≠ none) :
    Does (.cleSend g) s (fun t => (t.que o.ref.q).halted = true) := by
  obtain ⟨b, hb⟩ := Option.ne_none_iff_exists'.1 hstop
  refine ⟨s.failCle g.val o.ref b, ?_, State.failCle_halts rfl (by simp [ho]) (by simp [hc]) ..⟩
  simp only [exec, execCleSend, hfind, hc, ho, h, hb, Bool.false_eq_true, if_false]

/-- The frames of a send: the range's writes, then its release. -/
def State.sendFrames (s : State) (g p : Nat) (c : Cmd) : List Frame :=
  s.writeFrames g (clSendPart c) (clDst c) (s.heldRead p c.held (clSrc c) (clLen c)) ++
    (if clRrel c then [s.relFrame g (clSendPart c) (clRmark c) (clRvalue c) (clLamp c)] else [])

theorem does_cleSend (h : s.cleHeld g.val = false) (hstop : s.heldStops p c.held (clSrc c) (clLen c) = none) :
    Does (.cleSend g) s (fun t =>
      (t.cle g.val).sends = (s.cle g.val).sends.map (fun x =>
        if x.ref = o.ref then { x with started := true, total := (s.sendFrames g.val p c).length } else x) ∧
      (s.nextLink g.val (clPeer c) = none → (t.tx g.val (clPeer c)).waiting =
        (s.tx g.val (clPeer c)).waiting ++ (s.sendFrames g.val p c).map (fun f => (f, some o.ref)))) := by
  obtain ⟨u, hu⟩ : ∃ u, s.setCle g.val { s.cle g.val with sends := (s.cle g.val).sends.map (fun x =>
    if x.ref = o.ref then { x with started := true, total := (s.sendFrames g.val p c).length } else x) } = u := ⟨_, rfl⟩
  refine ⟨(u.bump.cleProgress g.val).sendWrites g.val (clPeer c) o.ref (s.sendFrames g.val p c), ?_, ?_, fun hnone => ?_⟩
  · simp only [exec, execCleSend, hfind, hc, ho, h, hstop, Bool.false_eq_true, if_false, ← hu]
    rfl
  · have hcles : ((u.bump.cleProgress g.val).sendWrites g.val (clPeer c) o.ref (s.sendFrames g.val p c)).cles = u.cles :=
      (State.sendWrites_see (π := State.cles) _ _ _ _ _ (by simp)).trans
        ((State.cleProgress_see (π := State.cles) _ _ (by simp)).trans rfl)
    rw [State.cle_of_cles hcles, ← hu, State.cle_setCle, if_pos rfl]
  · have hnext : (u.bump.cleProgress g.val).nextLink g.val (clPeer c) = none := by
      refine (State.cleProgress_see (π := fun t => t.nextLink g.val (clPeer c)) _ _ (fun _ _ => rfl)).trans ?_
      subst hu
      exact hnone
    rw [State.waiting_sendWrites hnext, State.tx_of_lgs ((State.cleProgress_see (π := State.lgs) _ _ (by simp)).trans rfl) g.val]
    subst hu
    rfl

end

/-! ## READY sent again (R366) -/

section
variable {g : Fin 6} {j : Fin 8} {s : State} {o : CollOp} {c : Cmd} {p : Nat} (hop : s.collOp g.val = some (o, c, p))
include hop

theorem exec_readyResend (hsent : j.val ∈ o.readySent) (hof : j.val ∉ o.contribOf) (hexp : s.expired (.readyAgain g.val j.val) = true) :
    exec (.readyResend g j) s =
      .next ((s.startTimer (.readyAgain g.val j.val) (.link g.val) 10000).sendPlain g.val j.val (s.readyFrame g.val c)) := by
  simp only [exec, execReadyResend, hop]
  exact congrArg _ (if_pos ⟨by simpa using hsent, by simpa using hof, hexp⟩)

theorem exec_readyResend_not (h : j.val ∉ o.readySent ∨ j.val ∈ o.contribOf ∨ s.expired (.readyAgain g.val j.val) = false) :
    exec (.readyResend g j) s = .next s := by
  have hno : ¬ (o.readySent.any (· = j.val) ∧ ¬ o.contribOf.any (· = j.val) ∧ s.expired (.readyAgain g.val j.val)) := by
    simp only [List.any_eq_true, decide_eq_true_eq, exists_eq_right]
    rintro ⟨hsent, hof, hexp⟩
    exact h.elim (· hsent) fun h => h.elim hof (by simp [hexp])
  simp only [exec, execReadyResend, hop]
  exact congrArg _ (if_neg hno)

end

/-! ## A READY comes (R366) -/

theorem State.coll_sendSlice (s : State) (g : Nat) (o : CollOp) (c : Cmd) (j addr phase : Nat) (data : List Byte) :
    ((s.sendSlice g o c j addr phase data).cle g).coll = some { o with
      total := o.total + ((s.writeFrames g (clPart c) addr data).length + 1)
      contribTo := if phase = 0 then o.contribTo ++ [j] else o.contribTo
      resultTo := if phase = 0 then o.resultTo else o.resultTo ++ [j] } := by
  refine (congrArg Cle.coll (State.cle_of_cles (State.sendWrites_see (π := State.cles) _ _ _ _ _ (by simp)) g)).trans ?_
  rw [State.coll_setColl, List.length_append, List.length_singleton]

/-- A contribution that a READY calls for is sent, and the collective waits for those of the others. -/
theorem State.contribute_sends {s : State} {g j : Nat} {o : CollOp} {c : Cmd} {p : Nat} (hop : s.collOp g = some (o, c, p))
    (hj : j ∈ clMembers c) (hme : j ≠ s.boardPos) (hgot : j ∈ o.readyGot) (hto : j ∉ o.contribTo)
    (hof : o.contribOf.length ≠ clM c - 1) {src dst : Nat}
    (hsrc : (if clGather c then clSrc c else clSrc c + rankOf (clMembers c) j * clSlice c) = src)
    (hdst : (if clGather c then clDst c + rankOf (clMembers c) s.boardPos * clSlice c
      else clStage c + stageSlot (clMembers c) j s.boardPos * clSlice c) = dst)
    (hstop : s.heldStops p c.held src (clSlice c) = none) :
    s.contribute g j = (s.sendSlice g o c j dst 0 (s.heldRead p c.held src (clSlice c))).bump := by
  have hgo : ¬ (¬ (clMembers c).any (· = j) ∨ j = s.boardPos ∨ ¬ o.readyGot.any (· = j) ∨ o.contribTo.any (· = j)) := by
    simp only [List.any_eq_true, decide_eq_true_eq, exists_eq_right]
    exact fun h => h.elim (· hj) fun h => h.elim hme fun h => h.elim (· hgot) hto
  have hnext := State.collOp_of_commands
    (t := (s.sendSlice g o c j dst 0 (s.heldRead p c.held src (clSlice c))).bump) hop
    (State.sendSlice_see (π := State.commands) _ _ _ _ _ _ _ _ (by simp)) (State.coll_sendSlice ..) rfl rfl
  simp only [State.contribute, hop, if_neg hgo, hsrc, hdst, hstop]
  exact State.collMaybeDone_waits hnext (.inl hof)

theorem State.sendResult_waits {s : State} {g j : Nat} {o : CollOp} {c : Cmd} {p : Nat} (hop : s.collOp g = some (o, c, p))
    (h : c.opcode ≠ 0x02 ∨ o.reduced = false ∨ j = s.boardPos ∨ j ∉ clMembers c ∨ j ∉ o.readyGot ∨ j ∈ o.resultTo) :
    s.sendResult g j = s := by
  unfold State.sendResult
  simp only [hop]
  refine if_pos ?_
  simpa using h

/-- What the reads and checks of a held range, and a collective's record, rest on beside the committed registers. -/
def State.collBase (s : State) : (List (Nat × Que) × List (Nat × List Chain) × Img) × Board × List Host.Cell × Pwr ×
    List (Nat × Bool) × List (Nat × TileSt) :=
  (s.commands, s.board, s.mem, s.pwr, s.poison, s.tiles)

@[simp] theorem ign_collBase (f : Fld) (hq : f ≠ .ques) (hc : f ≠ .chains) (hi : f ≠ .img) (hb : f ≠ .board) (hm : f ≠ .mem)
    (hp : f ≠ .pwr) (hx : f ≠ .poison) (ht : f ≠ .tiles) : Ign State.collBase f := by
  cases f
  case ques => exact absurd rfl hq
  case chains => exact absurd rfl hc
  case img => exact absurd rfl hi
  case board => exact absurd rfl hb
  case mem => exact absurd rfl hm
  case pwr => exact absurd rfl hp
  case poison => exact absurd rfl hx
  case tiles => exact absurd rfl ht
  all_goals exact fun _ _ => rfl

theorem State.accessBad_of {s t : State} (hpwr : t.pwr = s.pwr) (hcomm : ∀ b, t.commOf b = s.commOf b) (a n : Nat) :
    t.accessBad a n = s.accessBad a n := by
  unfold State.accessBad State.tileOn
  split
  · rw [State.domOn_of_pwr hpwr]
  · rw [State.domOn_of_pwr hpwr, State.inFold_of_commOf hcomm]
  · rfl

theorem State.heldBad_of {s t : State} (himg : t.img = s.img) (hpwr : t.pwr = s.pwr) (hcomm : ∀ b, t.commOf b = s.commOf b)
    (p : Nat) (held : List PageMap) (va n : Nat) : t.heldBad p held va n = s.heldBad p held va n := by
  have haddr : ∀ a, t.heldAddr p held a = s.heldAddr p held a := State.heldAddr_of_img himg p held
  simp only [State.heldBad, haddr, State.accessBad_of hpwr hcomm]

theorem State.heldPoison_of {s t : State} (himg : t.img = s.img) (hpoison : t.poison = s.poison) (p : Nat)
    (held : List PageMap) (va n : Nat) : t.heldPoison p held va n = s.heldPoison p held va n := by
  unfold State.heldPoison
  rw [hpoison]
  refine congrArg _ (congrArg _ (funext fun i => ?_))
  rw [State.heldAddr_of_img himg]
  split
  · exact State.poisoned_of_poison hpoison _ _
  · rfl

theorem State.heldStops_of {s t : State} (h : t.collBase = s.collBase) (hcomm : ∀ b, t.commOf b = s.commOf b) (p : Nat)
    (held : List PageMap) (va n : Nat) : t.heldStops p held va n = s.heldStops p held va n := by
  simp only [State.collBase, State.commands, Prod.mk.injEq] at h
  obtain ⟨⟨-, -, himg⟩, -, -, hpwr, hpoison, -⟩ := h
  rw [State.heldStops, State.heldStops, State.heldBad_of himg hpwr hcomm, State.heldPoison_of himg hpoison]

/-- A READY that agrees is met with this member's contribution. -/
theorem State.coll_meetReady {s : State} {g j : Nat} {o : CollOp} {c : Cmd} {p : Nat} (hop : s.collOp g = some (o, c, p))
    (hres : c.opcode ≠ 0x02 ∨ o.reduced = false) {digest : W32} (hdig : collDigest c = digest)
    (hj : j ∈ clMembers c) (hme : j ≠ s.boardPos) (hgot : j ∉ o.readyGot) (hto : j ∉ o.contribTo)
    (hof : o.contribOf.length ≠ clM c - 1) {src dst : Nat}
    (hsrc : (if clGather c then clSrc c else clSrc c + rankOf (clMembers c) j * clSlice c) = src)
    (hdst : (if clGather c then clDst c + rankOf (clMembers c) s.boardPos * clSlice c
      else clStage c + stageSlot (clMembers c) j s.boardPos * clSlice c) = dst)
    (hstop : s.heldStops p c.held src (clSlice c) = none) : ((s.meetReady g j digest).cle g).coll = some { o with
      readyGot := o.readyGot ++ [j], contribTo := o.contribTo ++ [j]
      total := o.total + ((s.writeFrames g (clPart c) dst (s.heldRead p c.held src (clSlice c))).length + 1) } := by
  obtain ⟨y, hy⟩ : ∃ y, { o with readyGot := o.readyGot ++ [j] } = y := ⟨_, rfl⟩
  obtain ⟨u, hu⟩ : ∃ u, s.setColl g y = u := ⟨_, rfl⟩
  have hopu : u.collOp g = some (y, c, p) := by
    subst hu
    exact State.collOp_of_commands hop rfl (State.coll_setColl ..) (by subst hy; rfl) (by subst hy; rfl)
  have hsent : u.contribute g j = (u.sendSlice g y c j dst 0 (u.heldRead p c.held src (clSlice c))).bump :=
    State.contribute_sends hopu hj (by subst hu; exact hme) (by subst hy; simp) (by subst hy; exact hto) (by subst hy; exact hof)
      hsrc (by subst hu; exact hdst)
      ((State.heldStops_of (by subst hu; rfl) (fun _ => by subst hu; rfl) ..).trans hstop)
  have hcoll := State.coll_sendSlice u g y c j dst 0 (u.heldRead p c.held src (clSlice c))
  have hopt := State.collOp_of_commands hopu
    (t := (u.sendSlice g y c j dst 0 (u.heldRead p c.held src (clSlice c))).bump)
    (State.sendSlice_see (π := State.commands) _ _ _ _ _ _ _ _ (by simp)) hcoll rfl rfl
  have hnot : ¬ o.readyGot.any (· = j) = true := by simpa using hgot
  have hred : c.opcode ≠ 0x02 ∨ y.reduced = false := by subst hy; exact hres
  simp only [State.meetReady, hop, hdig, ne_eq, not_true, if_false, if_neg hnot, hy, hu, hsent,
    State.sendResult_waits hopt (hred.imp_right .inl)]
  refine Eq.trans hcoll ?_
  subst hu
  subst hy
  rfl

section
variable {l : Fin 24} {f : Frame} {s : State} (hmem : f ∈ (s.link l.val).rxq) (htyp : f.typ = 6)
include hmem htyp

theorem exec_readyReceive {v : State} (hv : s.setLink l.val { s.link l.val with rxq := (s.link l.val).rxq.erase f } = v) :
    exec (.readyReceive l f) s = .next (
      if (match v.collOp (frameGroup f) with
        | some (_, c, _) => decide (clCollId c = frameColl f)
        | none => false) = true then
        (if v.cleHeld (frameGroup f) then s else v.meetReady (frameGroup f) (v.peerOf l.val) (BitVec.ofNat 32 (frameDigest f)))
      else if 64 ≤ (v.cle (frameGroup f)).early.length ∨
          (v.cle (frameGroup f)).early.any (fun x => decide (x.1 = v.peerOf l.val) && decide (x.2.1.toNat = frameColl f)) then v
      else v.setCle (frameGroup f) { v.cle (frameGroup f) with early := (v.cle (frameGroup f)).early ++
        [(v.peerOf l.val, BitVec.ofNat 16 (frameColl f), BitVec.ofNat 32 (frameDigest f))] }) := by
  have htake : (if f.typ = 6 then s.takeFrame l.val f else none) = some v :=
    (if_pos htyp).trans ((State.takeFrame_mem hmem).trans (congrArg some hv))
  simp only [exec, execReadyReceive, htake] <;> rfl

section
variable (hop : s.collOp (frameGroup f) = none)
include hop

theorem exec_readyReceive_early (hroom : (s.cle (frameGroup f)).early.length < 64)
    (hnew : ∀ x ∈ (s.cle (frameGroup f)).early, ¬ (x.1 = s.peerOf l.val ∧ x.2.1.toNat = frameColl f)) :
    exec (.readyReceive l f) s = .next ((s.setLink l.val { s.link l.val with rxq := (s.link l.val).rxq.erase f }).setCle
      (frameGroup f) { s.cle (frameGroup f) with early := (s.cle (frameGroup f)).early ++
        [(s.peerOf l.val, BitVec.ofNat 16 (frameColl f), BitVec.ofNat 32 (frameDigest f))] }) := by
  obtain ⟨v, hv⟩ : ∃ v, s.setLink l.val { s.link l.val with rxq := (s.link l.val).rxq.erase f } = v := ⟨_, rfl⟩
  have hopv : v.collOp (frameGroup f) = none := by subst hv; exact hop
  have hcle : v.cle (frameGroup f) = s.cle (frameGroup f) := by subst hv; rfl
  have hpeer : v.peerOf l.val = s.peerOf l.val := by subst hv; rfl
  have hkeep : ¬ (64 ≤ (s.cle (frameGroup f)).early.length ∨ (s.cle (frameGroup f)).early.any
      (fun x => decide (x.1 = s.peerOf l.val) && decide (x.2.1.toNat = frameColl f))) := by
    simp only [List.any_eq_true, Bool.and_eq_true, decide_eq_true_eq]
    rintro (h | ⟨x, hx, hsame⟩)
    · omega
    · exact hnew x hx hsame
  rw [exec_readyReceive hmem htyp hv, hopv, hcle, hpeer, hv]
  exact congrArg _ ((if_neg Bool.false_ne_true).trans (if_neg hkeep))

theorem exec_readyReceive_refused (hfull : 64 ≤ (s.cle (frameGroup f)).early.length ∨
      ∃ x ∈ (s.cle (frameGroup f)).early, x.1 = s.peerOf l.val ∧ x.2.1.toNat = frameColl f) :
    exec (.readyReceive l f) s = .next (s.setLink l.val { s.link l.val with rxq := (s.link l.val).rxq.erase f }) := by
  obtain ⟨v, hv⟩ : ∃ v, s.setLink l.val { s.link l.val with rxq := (s.link l.val).rxq.erase f } = v := ⟨_, rfl⟩
  have hopv : v.collOp (frameGroup f) = none := by subst hv; exact hop
  have hcle : v.cle (frameGroup f) = s.cle (frameGroup f) := by subst hv; rfl
  have hpeer : v.peerOf l.val = s.peerOf l.val := by subst hv; rfl
  have hrefuse : 64 ≤ (s.cle (frameGroup f)).early.length ∨ (s.cle (frameGroup f)).early.any
      (fun x => decide (x.1 = s.peerOf l.val) && decide (x.2.1.toNat = frameColl f)) := by
    simpa only [List.any_eq_true, Bool.and_eq_true, decide_eq_true_eq] using hfull
  rw [exec_readyReceive hmem htyp hv, hopv, hcle, hpeer, hv]
  exact congrArg _ ((if_neg Bool.false_ne_true).trans (if_pos hrefuse))

end

section
variable {o : CollOp} {c : Cmd} {p : Nat} (hop : s.collOp (frameGroup f) = some (o, c, p)) (hid : clCollId c = frameColl f)
include hop hid

theorem exec_readyReceive_running {v : State}
    (hv : s.setLink l.val { s.link l.val with rxq := (s.link l.val).rxq.erase f } = v) :
    exec (.readyReceive l f) s = .next (if s.cleHeld (frameGroup f) then s else
      v.meetReady (frameGroup f) (s.peerOf l.val) (BitVec.ofNat 32 (frameDigest f))) := by
  have hopv : v.collOp (frameGroup f) = some (o, c, p) := by subst hv; exact hop
  have hheld : v.cleHeld (frameGroup f) = s.cleHeld (frameGroup f) := by subst hv; rfl
  have hpeer : v.peerOf l.val = s.peerOf l.val := by subst hv; rfl
  rw [exec_readyReceive hmem htyp hv, hopv, hheld, hpeer]
  exact congrArg _ (if_pos (decide_eq_true hid))

theorem exec_readyReceive_held (hheld : s.cleHeld (frameGroup f) = true) : exec (.readyReceive l f) s = .next s :=
  (exec_readyReceive_running hmem htyp hop hid rfl).trans (congrArg _ (if_pos hheld))

theorem does_readyReceive_differs (hheld : s.cleHeld (frameGroup f) = false)
    (hdig : collDigest c ≠ BitVec.ofNat 32 (frameDigest f)) :
    Does (.readyReceive l f) s (fun t => (t.que o.ref.q).halted = true) := by
  obtain ⟨v, hv⟩ : ∃ v, s.setLink l.val { s.link l.val with rxq := (s.link l.val).rxq.erase f } = v := ⟨_, rfl⟩
  have hopv : v.collOp (frameGroup f) = some (o, c, p) := by subst hv; exact hop
  obtain ⟨-, -, hc, q, ho⟩ := State.collOp_eq_some.1 hop
  refine ⟨_, (exec_readyReceive_running hmem htyp hop hid hv).trans (congrArg _ (if_neg (by simp [hheld]))), ?_⟩
  simp only [State.meetReady, hopv, ne_eq, hdig, not_false_iff, if_true]
  have hque : ∀ (w : State) (F : Frame) (off : Nat) (bits : W32),
      (((w.flag .cle (frameGroup f) off bits).sendPlain (frameGroup f) (s.peerOf l.val) F).cleProgress (frameGroup f)).que o.ref.q =
        w.que o.ref.q := fun w F off bits => State.que_of_ques
    ((State.cleProgress_see (π := State.ques) _ _ (by simp)).trans
      ((State.sendPlain_see (π := State.ques) _ _ _ _ (by simp)).trans (State.flag_see (π := State.ques) _ _ _ _ _ (by simp)))) _
  rw [hque]
  exact State.failCle_halts (s := s) (by subst hv; rfl) (by simp [ho]) (by simp [hc]) ..

theorem does_readyReceive_meets (hheld : s.cleHeld (frameGroup f) = false) (hres : c.opcode ≠ 0x02 ∨ o.reduced = false)
    (hdig : collDigest c = BitVec.ofNat 32 (frameDigest f)) (hj : s.peerOf l.val ∈ clMembers c) (hme : s.peerOf l.val ≠ s.boardPos)
    (hgot : s.peerOf l.val ∉ o.readyGot) (hto : s.peerOf l.val ∉ o.contribTo) (hof : o.contribOf.length ≠ clM c - 1)
    {src dst : Nat}
    (hsrc : (if clGather c then clSrc c else clSrc c + rankOf (clMembers c) (s.peerOf l.val) * clSlice c) = src)
    (hdst : (if clGather c then clDst c + rankOf (clMembers c) s.boardPos * clSlice c
      else clStage c + stageSlot (clMembers c) (s.peerOf l.val) s.boardPos * clSlice c) = dst)
    (hstop : s.heldStops p c.held src (clSlice c) = none) :
    Does (.readyReceive l f) s (fun t => (t.cle (frameGroup f)).coll = some { o with
      readyGot := o.readyGot ++ [s.peerOf l.val], contribTo := o.contribTo ++ [s.peerOf l.val]
      total := o.total + ((s.writeFrames (frameGroup f) (clPart c) dst (s.heldRead p c.held src (clSlice c))).length + 1) }) :=
  ⟨_, (exec_readyReceive_running hmem htyp hop hid rfl).trans (congrArg _ (if_neg (by simp [hheld]))),
    State.coll_meetReady (s := s.setLink l.val { s.link l.val with rxq := (s.link l.val).rxq.erase f }) hop hres hdig hj hme
      hgot hto hof hsrc hdst ((State.heldStops_of rfl (fun _ => rfl) ..).trans hstop)⟩

end
end

/-! ## The slice is reduced and its result sent (R366, R367) -/

theorem State.commOf_transmit (b : BlkId) (s : State) (g l : Nat) (f : Frame) (r : Option CmdRef) :
    see (State.commOf b) (s.transmit g l f r) = see (State.commOf b) s := by
  unfold State.transmit State.countLg
  dsimp only
  rw [State.commOf_count, State.commOf_count, State.emit_see _ _ (by simp), State.setLg_see _ _ _ (by simp),
    State.setLink_see _ _ _ (by simp)]

theorem State.commOf_pump (b : BlkId) (s : State) (g peer : Nat) : (s.pump g peer).commOf b = s.commOf b :=
  State.pump_keeps (Q := fun t => t.commOf b = s.commOf b)
    (fun t x ht => (State.setTx_see (π := State.commOf b) t _ _ x (by simp)).trans ht)
    (fun t l f r ht => (State.commOf_transmit b t g l f r).trans ht)
    (fun t bits ht => (State.commOf_flag b t _ _ _ bits).trans ht) rfl

theorem State.commOf_sendSlice (b : BlkId) (s : State) (g : Nat) (o : CollOp) (c : Cmd) (j addr phase : Nat) (data : List Byte) :
    (s.sendSlice g o c j addr phase data).commOf b = s.commOf b :=
  State.commOf_pump ..

/-- What is sent of a reduction: `o` with its result sent to the members `js`, in `n` frames each. -/
def CollOp.resultSent (o : CollOp) (n : Nat) (js : List Nat) : CollOp :=
  { o with resultTo := o.resultTo ++ js, total := o.total + js.length * n }

section
variable {g p dst : Nat} {c : Cmd} (hcode : c.opcode = 0x02) {o : CollOp} (hlen : o.resultOf.length ≠ clM c - 1)
  (hred : o.reduced = true)
include hcode hlen hred

theorem State.sendResult_sends {s : State} (hop : s.collOp g = some (o, c, p)) {j : Nat} (hj : j ∈ clMembers c)
    (hme : j ≠ s.boardPos) (hgot : j ∈ o.readyGot) (hto : j ∉ o.resultTo)
    (hdst : clDst c + rankOf (clMembers c) s.boardPos * clSlice c = dst)
    (hstop : s.heldStops p c.held dst (clSlice c) = none) :
    s.sendResult g j = (s.sendSlice g o c j dst 1 (s.heldRead p c.held dst (clSlice c))).bump := by
  have hgo : ¬ (c.opcode ≠ 0x02 ∨ ¬ o.reduced ∨ j = s.boardPos ∨ ¬ (clMembers c).any (· = j) ∨ ¬ o.readyGot.any (· = j) ∨
      o.resultTo.any (· = j)) := by
    simp [hcode, hred, hme, hj, hgot, hto]
  have hnext := State.collOp_of_commands
    (t := (s.sendSlice g o c j dst 1 (s.heldRead p c.held dst (clSlice c))).bump) hop
    (State.sendSlice_see (π := State.commands) _ _ _ _ _ _ _ _ (by simp)) (State.coll_sendSlice ..) rfl rfl
  simp only [State.sendResult, hop, if_neg hgo, hdst, hstop]
  exact State.collMaybeDone_waits hnext (.inr ⟨hcode, hlen⟩)

/-- The result goes to every member of a list whose READY is in and that does not have it yet. -/
theorem State.foldl_sendResult {s : State} (hdst : clDst c + rankOf (clMembers c) s.boardPos * clSlice c = dst)
    (hstop : s.heldStops p c.held dst (clSlice c) = none) {n : Nat}
    (hn : (s.writeFrames g (clPart c) dst (s.heldRead p c.held dst (clSlice c))).length + 1 = n)
    {js : List Nat} (hjs : ∀ j ∈ js, j ∈ clMembers c) (hnodup : js.Nodup) {t : State} (done : List Nat)
    (hdone : ∀ j ∈ js, j ∉ done) (hbase : t.collBase = s.collBase) (hcomm : ∀ b, t.commOf b = s.commOf b)
    (hop : t.collOp g = some (o.resultSent n done, c, p)) :
    let sent := done ++ js.filter (fun j => decide (j ≠ s.boardPos ∧ j ∈ o.readyGot ∧ j ∉ o.resultTo))
    let u := js.foldl (fun t j => t.sendResult g j) t
    u.collBase = s.collBase ∧ u.collOp g = some (o.resultSent n sent, c, p) := by
  induction js generalizing t done with
  | nil => exact ⟨hbase, by rw [List.filter_nil, List.append_nil]; exact hop⟩
  | cons j js ih =>
    have hboard : t.boardPos = s.boardPos := congrArg (fun x => (x.2.1.pos.map (·.toNat)).getD 0) hbase
    have htail : ∀ i ∈ js, i ∈ clMembers c := fun i hi => hjs i (List.mem_cons_of_mem _ hi)
    obtain ⟨hnot, hnodup⟩ := List.nodup_cons.1 hnodup
    rw [List.foldl_cons, List.filter_cons]
    by_cases hsend : j ≠ s.boardPos ∧ j ∈ o.readyGot ∧ j ∉ o.resultTo
    · have hto : j ∉ (o.resultSent n done).resultTo := by
        simp only [CollOp.resultSent, List.mem_append, not_or]
        exact ⟨hsend.2.2, hdone j List.mem_cons_self⟩
      have hstep : t.sendResult g j = _ := State.sendResult_sends (o := o.resultSent n done) hcode hlen hred hop
        (hjs j List.mem_cons_self) (hboard ▸ hsend.1) hsend.2.1 hto (by rw [hboard, hdst])
        ((State.heldStops_of hbase hcomm ..).trans hstop)
      rw [hstep, if_pos (decide_eq_true hsend), List.append_cons]
      have hbase' := (State.sendSlice_see (π := State.collBase) t g (o.resultSent n done) c j dst 1
        (t.heldRead p c.held dst (clSlice c)) (by simp)).trans hbase
      refine ih htail hnodup (done ++ [j]) (fun i hi => ?_) hbase'
        (fun b => (State.commOf_sendSlice ..).trans (hcomm b)) (State.collOp_of_commands hop (congrArg Prod.fst (hbase'.trans hbase.symm))
          ((State.coll_sendSlice ..).trans (congrArg some ?_)) rfl rfl)
      · rw [List.mem_append, List.mem_singleton, not_or]
        exact ⟨hdone i (List.mem_cons_of_mem _ hi), fun h => hnot (h ▸ hi)⟩
      · have hlength : (t.writeFrames g (clPart c) dst (t.heldRead p c.held dst (clSlice c))).length + 1 = n := by
          rw [← hn]
          simp [State.writeFrames, State.heldRead]
        rw [hlength]
        simp [CollOp.resultSent, Nat.add_mul, Nat.add_assoc]
    · have hstep : t.sendResult g j = t := by
        refine State.sendResult_waits hop ?_
        simp only [ne_eq, not_and_or, not_not] at hsend
        rcases hsend with h | h | h
        · exact .inr (.inr (.inl (hboard ▸ h)))
        · exact .inr (.inr (.inr (.inr (.inl h))))
        · exact .inr (.inr (.inr (.inr (.inr (List.mem_append_left _ h)))))
      rw [hstep, if_neg (by simpa using hsend)]
      exact ih htail hnodup done (fun i hi => hdone i (List.mem_cons_of_mem _ hi)) hbase hcomm hop

end

section
variable {g : Fin 6} {s : State} {o : CollOp} {c : Cmd} {p : Nat} (hop : s.collOp g.val = some (o, c, p))

/-- Where the member `j`'s part of this member's slice lies (R364). -/
def State.collPart (s : State) (c : Cmd) (j : Nat) : Nat :=
  if j = s.boardPos then clSrc c + rankOf (clMembers c) s.boardPos * clSlice c
  else clStage c + stageSlot (clMembers c) s.boardPos j * clSlice c

/-- Where the reduced slice goes (R364). -/
def State.collDst (s : State) (c : Cmd) : Nat :=
  if c.opcode = 0x03 then clDst c else clDst c + rankOf (clMembers c) s.boardPos * clSlice c

/-- The state with the reduced slice stored. -/
def State.collReduced (s : State) (g p : Nat) (o : CollOp) (c : Cmd) : State :=
  ((s.setColl g { o with reduced := true }).bump).heldWrite p c.held (s.collDst c)
    ((List.range (clN c / clM c)).flatMap (fun i => leBytes (clElem c) (reduceElem (clOp c) (clFmt c)
      ((clMembers c).map (fun j => s.heldLe p c.held (s.collPart c j + i * clElem c) (clElem c))))))

include hop

theorem exec_collReduce : exec (.collReduce g) s = .next (
    if clGather c ∨ o.reduced ∨ o.contribOf.length ≠ clM c - 1 ∨ s.cleHeld g.val then s
    else match ((clMembers c).findSome? (fun j => s.heldStops p c.held (s.collPart c j) (clSlice c))).or
        (s.heldBad p c.held (s.collDst c) (clSlice c)) with
      | some b => s.failCle g.val o.ref b
      | none => ((clMembers c).foldl (fun t j => t.sendResult g.val j) (s.collReduced g.val p o c)).collMaybeDone g.val) := by
  simp only [exec, execCollReduce, hop]
  rfl

theorem exec_collReduce_not
    (h : clGather c = true ∨ o.reduced = true ∨ o.contribOf.length ≠ clM c - 1 ∨ s.cleHeld g.val = true) :
    exec (.collReduce g) s = .next s :=
  (exec_collReduce hop).trans (congrArg _ (if_pos h))

variable (hgather : clGather c = false) (hred : o.reduced = false) (hof : o.contribOf.length = clM c - 1)
  (hheld : s.cleHeld g.val = false)
include hgather hred hof hheld

theorem exec_collReduce_due : exec (.collReduce g) s = .next (
    match ((clMembers c).findSome? (fun j => s.heldStops p c.held (s.collPart c j) (clSlice c))).or
        (s.heldBad p c.held (s.collDst c) (clSlice c)) with
      | some b => s.failCle g.val o.ref b
      | none => ((clMembers c).foldl (fun t j => t.sendResult g.val j) (s.collReduced g.val p o c)).collMaybeDone g.val) :=
  (exec_collReduce hop).trans (congrArg _ (if_neg (by simp [hgather, hred, hof, hheld])))

theorem does_collReduce_fails (hbad : (∃ j ∈ clMembers c, s.heldStops p c.held (s.collPart c j) (clSlice c) ≠ none) ∨
    s.heldBad p c.held (s.collDst c) (clSlice c) ≠ none) :
    Does (.collReduce g) s (fun t => (t.que o.ref.q).halted = true) := by
  obtain ⟨-, -, hc, q, ho⟩ := State.collOp_eq_some.1 hop
  have hsome : ((clMembers c).findSome? (fun j => s.heldStops p c.held (s.collPart c j) (clSlice c))).or
      (s.heldBad p c.held (s.collDst c) (clSlice c)) ≠ none := by
    rw [Ne, Option.or_eq_none_iff, List.findSome?_eq_none_iff]
    rintro ⟨hall, hdst⟩
    exact hbad.elim (fun ⟨j, hj, hstop⟩ => hstop (hall j hj)) (· hdst)
  obtain ⟨b, hb⟩ := Option.ne_none_iff_exists'.1 hsome
  refine ⟨_, exec_collReduce_due hop hgather hred hof hheld, ?_⟩
  rw [hb]
  exact State.failCle_halts rfl (by simp [ho]) (by simp [hc]) ..

variable (hstops : ∀ j ∈ clMembers c, s.heldStops p c.held (s.collPart c j) (clSlice c) = none)
  (hdst : s.heldBad p c.held (s.collDst c) (clSlice c) = none)
include hstops hdst

theorem exec_collReduce_reduces : exec (.collReduce g) s = .next
    (((clMembers c).foldl (fun t j => t.sendResult g.val j) (s.collReduced g.val p o c)).collMaybeDone g.val) := by
  rw [exec_collReduce_due hop hgather hred hof hheld, List.findSome?_eq_none_iff.2 hstops, hdst]
  rfl

omit hgather hred hof hheld hstops hdst in
theorem State.collOp_collReduced : (s.collReduced g.val p o c).collOp g.val = some ({ o with reduced := true }, c, p) := by
  refine State.collOp_of_commands hop (State.heldWrite_see (π := State.commands) _ _ _ _ _ (by simp)) ?_ rfl rfl
  refine (congrArg Cle.coll (State.cle_of_cles (State.heldWrite_see (π := State.cles) _ _ _ _ _ (by simp)) g.val)).trans ?_
  exact State.coll_setColl ..

theorem exec_collReduce_scatter (hcode : c.opcode = 0x03) :
    exec (.collReduce g) s = .next ((s.collReduced g.val p o c).collMaybeDone g.val) := by
  have hstep : ∀ j, (s.collReduced g.val p o c).sendResult g.val j = s.collReduced g.val p o c := fun j =>
    State.sendResult_waits (State.collOp_collReduced hop) (.inl (by simp [hcode]))
  rw [exec_collReduce_reduces hop hgather hred hof hheld hstops hdst, List.foldl_fixed' hstep]

theorem does_collReduce_allreduce (hcode : c.opcode = 0x02) (hlen : o.resultOf.length ≠ clM c - 1)
    (hres : (s.collReduced g.val p o c).heldStops p c.held (s.collDst c) (clSlice c) = none) :
    Does (.collReduce g) s (fun t => t.mem = (s.collReduced g.val p o c).mem ∧ t.tiles = (s.collReduced g.val p o c).tiles ∧
      ∃ y, (t.cle g.val).coll = some y ∧ y.reduced = true ∧ y.contribTo = o.contribTo ∧
        y.resultTo = o.resultTo ++ (clMembers c).filter (fun j => decide (j ≠ s.boardPos ∧ j ∈ o.readyGot ∧ j ∉ o.resultTo)) ∧
        y.total = o.total +
          ((clMembers c).filter (fun j => decide (j ≠ s.boardPos ∧ j ∈ o.readyGot ∧ j ∉ o.resultTo))).length *
          (((s.collReduced g.val p o c).writeFrames g.val (clPart c) (s.collDst c)
            ((s.collReduced g.val p o c).heldRead p c.held (s.collDst c) (clSlice c))).length + 1)) := by
  have hexec := exec_collReduce_reduces hop hgather hred hof hheld hstops hdst
  have hopw := State.collOp_collReduced hop
  have hboard : (s.collReduced g.val p o c).boardPos = s.boardPos :=
    congrArg (fun b => (b.pos.map (·.toNat)).getD 0) ((State.heldWrite_see (π := State.board) _ _ _ _ _ (by simp)).trans rfl)
  have hplace : clDst c + rankOf (clMembers c) (s.collReduced g.val p o c).boardPos * clSlice c = s.collDst c := by
    rw [hboard, State.collDst, if_neg (by simp [hcode])]
  generalize s.collReduced g.val p o c = w at *
  have hnodup : (clMembers c).Nodup := List.nodup_range.filter _
  have hstart : w.collOp g.val = some ((CollOp.resultSent { o with reduced := true }
      ((w.writeFrames g.val (clPart c) (s.collDst c) (w.heldRead p c.held (s.collDst c) (clSlice c))).length + 1) []), c, p) := by
    rw [hopw]
    simp [CollOp.resultSent]
  obtain ⟨hbase, hopt⟩ := State.foldl_sendResult hcode (o := { o with reduced := true }) hlen rfl hplace hres rfl
    (fun _ hj => hj) hnodup [] (fun _ _ => List.not_mem_nil) rfl (fun _ => rfl) hstart
  simp only [State.collBase, Prod.mk.injEq] at hbase
  obtain ⟨-, -, hmem, -, -, htiles⟩ := hbase
  rw [hboard] at hopt
  exact ⟨_, hexec.trans (congrArg _ (State.collMaybeDone_waits hopt (.inr ⟨hcode, hlen⟩))), hmem, htiles, _,
    (State.collOp_eq_some.1 hopt).1, rfl, rfl, rfl, rfl⟩

end

/-! ## READY goes to every other member (R366) -/

/-- A peer to which no link of the group's team has room. -/
def State.starved (s : State) (g peer : Nat) : Prop := ∀ l ∈ s.linksTo g peer, 256 ≤ (s.link l).unacked.length

theorem State.nextLink_eq_none {s : State} {g peer : Nat} : s.nextLink g peer = none ↔ s.starved g peer := by
  have hlist : s.starved g peer ↔ (s.linksTo g peer).filter (fun l => decide ((s.link l).unacked.length < 256)) = [] := by
    simp [State.starved, List.filter_eq_nil_iff]
  rw [hlist]
  unfold State.nextLink
  dsimp only
  constructor
  · intro h
    split at h
    · cases h
    · exact List.head?_eq_none_iff.1 h
  · intro h
    rw [h]
    rfl

theorem State.linksTo_of {s t : State} (hst : ∀ l, (t.link l).st = (s.link l).st) (hpwr : t.pwr = s.pwr) (himg : t.img = s.img)
    (hboard : t.board = s.board) (hcomm : ∀ b, t.commOf b = s.commOf b) (g peer : Nat) : t.linksTo g peer = s.linksTo g peer := by
  have hon : ∀ l, t.linkOn l = s.linkOn l := fun l => by
    rw [State.linkOn, State.linkOn, State.domOn_of_pwr hpwr, State.mask, State.mask, himg, State.cfg_of_commOf (hcomm _)]
  have hpeer : ∀ l, t.peerOf l = s.peerOf l := fun l => by
    rw [State.peerOf, State.peerOf, State.boardPos, State.boardPos, hboard]
  unfold State.linksTo
  simp only [hst, hon, hpeer, State.teamOf_of_img himg]

theorem State.link_transmit_grows (s : State) (g l j : Nat) (f : Frame) (r : Option CmdRef) :
    ((s.transmit g l f r).link j).st = (s.link j).st ∧
    (s.link j).unacked.length ≤ ((s.transmit g l f r).link j).unacked.length := by
  have hlink : (s.transmit g l f r).link j = if j = l then
      { s.link l with txLseq := (s.link l).txLseq + 1, unacked := (s.link l).unacked ++ [({ f with lseq := (s.link l).txLseq }, r)] }
      else s.link j := by
    refine (State.link_of_links ((State.countLg_see (π := State.links) _ _ _ _ _ (by simp)).trans
      (State.countLg_see (π := State.links) _ _ _ _ _ (by simp))) j).trans ?_
    exact State.link_setLink ..
  rw [hlink]
  split
  case isTrue h => subst h; simp
  case isFalse => simp

/-- Sending leaves no more room than before. -/
theorem State.starved_pump {s : State} {g i : Nat} (h : s.starved g i) (j : Nat) : (s.pump g j).starved g i := by
  have hgrow := State.pump_keeps (g := g) (peer := j) (s := s)
    (Q := fun t => ∀ l, (t.link l).st = (s.link l).st ∧ (s.link l).unacked.length ≤ (t.link l).unacked.length)
    (fun t x ht l => by rw [State.link_of_links (State.setTx_see (π := State.links) t _ _ x (by simp))]; exact ht l)
    (fun t k f r ht l => ⟨(State.link_transmit_grows t g k l f r).1.trans (ht l).1,
      (ht l).2.trans (State.link_transmit_grows t g k l f r).2⟩)
    (fun t bits ht l => by rw [State.link_of_links (State.flag_see (π := State.links) t _ _ _ bits (by simp))]; exact ht l)
    (fun _ => ⟨rfl, le_rfl⟩)
  intro l hl
  rw [State.linksTo_of (fun l => (hgrow l).1) (State.pump_see (π := State.pwr) _ _ _ (by simp))
    (State.pump_see (π := State.img) _ _ _ (by simp)) (State.pump_see (π := State.board) _ _ _ (by simp))
    (State.commOf_pump · s g j)] at hl
  exact (h l hl).trans (hgrow l).2

theorem State.tx_setLg_rr (s : State) (g i n : Nat) : (s.setLg g { s.lg g with rr := n }).tx g i = s.tx g i := by
  rw [State.tx, State.lg_setLg, if_pos rfl]
  rfl

theorem State.tx_pump_other {g i j : Nat} (h : i ≠ j) (s : State) : (s.pump g j).tx g i = s.tx g i := by
  refine State.pump_keeps (Q := fun t => t.tx g i = s.tx g i) (fun t x ht => ?_) (fun t l f r ht => ?_) (fun t bits ht => ?_) rfl
  · rw [State.tx_setTx, if_neg h, ht]
  · exact (State.tx_of_lgs ((State.countLg_see (π := State.lgs) _ _ _ _ _ (by simp)).trans
      (State.countLg_see (π := State.lgs) _ _ _ _ _ (by simp))) g i).trans ((State.tx_setLg_rr t g i (l + 1)).trans ht)
  · exact (State.tx_of_lgs (State.flag_see (π := State.lgs) t _ _ _ bits (by simp)) g i).trans ht

theorem State.again_sendPlain {s : State} {g peer : Nat} (h : s.nextLink g peer = none) (f : Frame) :
    ((s.sendPlain g peer f).tx g peer).again = (s.tx g peer).again ++ [(f, none)] := by
  refine (congrArg TxDest.again (State.tx_of_lgs (State.pump_lgs_of_no_link ((State.nextLink_setTx ..).trans h)) g peer)).trans ?_
  rw [State.tx_setTx, if_pos rfl]

theorem State.any_timers_without {i j : TimerId} (h : i ≠ j) (ts : List Timer) :
    (ts.filter (fun t => decide (t.id ≠ j))).any (fun t => decide (t.id = i)) = ts.any (fun t => decide (t.id = i)) := by
  rw [List.any_filter]
  refine congrArg _ (funext fun t => ?_)
  by_cases ht : t.id = i
  · simp [ht, h]
  · simp [ht]

theorem State.timerRuns_startTimer_other {i j : TimerId} (h : i ≠ j) (s : State) (l : Island) (n : Nat) :
    (s.startTimer j l n).timerRuns i = s.timerRuns i := by
  rw [State.timerRuns, State.startTimer, List.any_append, State.any_timers_without h]
  simp [State.timerRuns, Ne.symm h]

theorem State.timerRuns_stopTimer_other {i j : TimerId} (h : i ≠ j) (s : State) : (s.stopTimer j).timerRuns i = s.timerRuns i :=
  State.any_timers_without h s.timers

/-- The watchdog's timer is an engine's alone. -/
theorem State.timerRuns_progress {i : TimerId} {e : Eng} {u : Nat} (h : i ≠ .engine e u) (s : State) (busy : Bool) :
    (s.progress e u busy).timerRuns i = s.timerRuns i := by
  unfold State.progress
  split
  · split
    · exact State.timerRuns_startTimer_other h ..
    · rfl
  · exact State.timerRuns_stopTimer_other h s

theorem State.timerRuns_cleProgress {i : TimerId} (s : State) (g : Nat) (h : i ≠ .engine .cle g) :
    (s.cleProgress g).timerRuns i = s.timerRuns i :=
  State.timerRuns_progress h ..

/-- The READY of a collective goes to member `j`, to be sent again after 10 µs. -/
def State.sendReady (g : Nat) (c : Cmd) (s : State) (j : Nat) : State :=
  (s.startTimer (.readyAgain g j) (.link g) 10000).sendPlain g j (s.readyFrame g c)

section
variable {g : Nat} {c : Cmd}

theorem State.sendReady_see {α : Type} {π : State → α} (s : State) (j : Nat)
    (hW : Ign π .blocks ∧ Ign π .links ∧ Ign π .lgs ∧ Ign π .tals ∧ Ign π .out ∧ Ign π .timers) :
    see π (State.sendReady g c s j) = see π s :=
  (State.sendPlain_see _ _ _ _ (by simp [hW])).trans (State.startTimer_see _ _ _ _ (by simp [hW]))

theorem State.readyFrame_sendReady (s : State) (j : Nat) : (State.sendReady g c s j).readyFrame g c = s.readyFrame g c := by
  have hboard : (State.sendReady g c s j).board = s.board := State.sendReady_see (π := State.board) s j (by simp)
  rw [State.readyFrame, State.readyFrame, State.mkFrame, State.mkFrame, State.boardPos, State.boardPos, hboard]

theorem State.timerRuns_sendReady (s : State) (j : Nat) (i : TimerId) :
    (State.sendReady g c s j).timerRuns i = (decide (i = .readyAgain g j) || s.timerRuns i) := by
  have htimers : (State.sendReady g c s j).timers = (s.startTimer (.readyAgain g j) (.link g) 10000).timers :=
    State.sendPlain_see (π := State.timers) _ _ _ _ (by simp)
  rw [State.timerRuns, htimers]
  by_cases hi : i = .readyAgain g j
  · subst hi
    simp [State.startTimer]
  · rw [decide_eq_false hi, Bool.false_or]
    exact State.timerRuns_startTimer_other hi s _ _

theorem State.starved_sendReady {s : State} {i : Nat} (h : s.starved g i) (j : Nat) : (State.sendReady g c s j).starved g i :=
  State.starved_pump (s := (s.startTimer (.readyAgain g j) (.link g) 10000).setTx g j
    { (s.startTimer (.readyAgain g j) (.link g) 10000).tx g j with
      again := ((s.startTimer (.readyAgain g j) (.link g) 10000).tx g j).again ++ [(s.readyFrame g c, none)] }) h j

theorem State.tx_sendReady_other {i j : Nat} (h : i ≠ j) (s : State) : (State.sendReady g c s j).tx g i = s.tx g i :=
  (State.tx_pump_other h _).trans ((State.tx_setTx ..).trans (if_neg h))

theorem State.again_sendReady {s : State} {j : Nat} (h : s.nextLink g j = none) :
    ((State.sendReady g c s j).tx g j).again = (s.tx g j).again ++ [(s.readyFrame g c, none)] :=
  State.again_sendPlain (s := s.startTimer (.readyAgain g j) (.link g) 10000) h _

theorem State.timerRuns_readys (js : List Nat) {s : State} {j : Nat}
    (h : j ∈ js ∨ s.timerRuns (.readyAgain g j) = true) :
    (js.foldl (State.sendReady g c) s).timerRuns (.readyAgain g j) = true := by
  induction js generalizing s with
  | nil => exact h.resolve_left List.not_mem_nil
  | cons i js ih =>
    refine ih ?_
    rw [State.timerRuns_sendReady]
    rcases h with h | h
    · rcases List.mem_cons.1 h with rfl | h
      · exact .inr (by simp)
      · exact .inl h
    · exact .inr (by simp [h])

theorem State.tx_readys_other {js : List Nat} {j : Nat} (hj : j ∉ js) (s : State) :
    (js.foldl (State.sendReady g c) s).tx g j = s.tx g j := by
  induction js generalizing s with
  | nil => rfl
  | cons i js ih =>
    rw [List.mem_cons, not_or] at hj
    exact (ih hj.2 _).trans (State.tx_sendReady_other hj.1 s)

/-- Each member's READY waits for a link where none has room. -/
theorem State.again_readys {js : List Nat} (hnodup : js.Nodup) {s : State} {j : Nat} (hj : j ∈ js) (h : s.starved g j) :
    ((js.foldl (State.sendReady g c) s).tx g j).again = (s.tx g j).again ++ [(s.readyFrame g c, none)] := by
  induction js generalizing s with
  | nil => cases hj
  | cons i js ih =>
    obtain ⟨hnot, hnodup⟩ := List.nodup_cons.1 hnodup
    rw [List.foldl_cons]
    rcases List.mem_cons.1 hj with rfl | hj
    · rw [State.tx_readys_other hnot, State.again_sendReady (State.nextLink_eq_none.2 h)]
    · have hne : j ≠ i := fun hji => hnot (hji ▸ hj)
      rw [ih hnodup hj (State.starved_sendReady h i), State.tx_sendReady_other hne, State.readyFrame_sendReady]

end

/-! ## A collective starts (R366) -/

theorem State.mem_putBytes {s t : State} (h : t.mem = s.mem) (p a : Nat) (bs : List Byte) :
    (t.putBytes p a bs).mem = (s.putBytes p a bs).mem := by
  unfold State.putBytes
  split
  · exact (State.hostWrite_see (π := State.mem) _ _ _ _ _ (by simp)).trans
      (h.trans (State.hostWrite_see (π := State.mem) _ _ _ _ _ (by simp)).symm)
  · exact congrArg (memPut · a bs) h

theorem State.mem_heldPut {s t : State} (h : t.mem = s.mem) (himg : t.img = s.img) (p : Nat) (held : List PageMap) (va : Nat)
    (b : Byte) : (t.heldPut p held va b).mem = (s.heldPut p held va b).mem := by
  unfold State.heldPut
  rw [State.heldAddr_of_img himg]
  split
  · exact State.mem_putBytes h ..
  · exact h

/-- What a held range's write leaves in memory rests on the memory and the image alone. -/
theorem State.mem_heldWrite {s t : State} (h : t.mem = s.mem) (himg : t.img = s.img) (p : Nat) (held : List PageMap) (va : Nat)
    (bs : List Byte) : (t.heldWrite p held va bs).mem = (s.heldWrite p held va bs).mem := by
  have hput : ∀ (is : List Nat) (u v : State), u.mem = v.mem → u.img = v.img →
      (is.foldl (fun w i => w.heldPut p held (va + i) (bs.getD i 0)) u).mem =
        (is.foldl (fun w i => w.heldPut p held (va + i) (bs.getD i 0)) v).mem := by
    intro is
    induction is with
    | nil => exact fun u v hm _ => hm
    | cons i is ih =>
      intro u v hm hi
      refine ih _ _ ?_ ((State.heldPut_see (π := State.img) _ _ _ _ _ (by simp)).trans
        (hi.trans (State.heldPut_see (π := State.img) _ _ _ _ _ (by simp)).symm))
      exact State.mem_heldPut hm hi ..
  unfold State.heldWrite
  rw [State.heldAddr_of_img himg, State.heldAddr_of_img himg]
  split
  · split
    · exact State.mem_putBytes h ..
    · exact hput _ _ _ h himg
  · exact h

section
variable {g : Nat} {s : State} {o : CollOp} {c : Cmd} {p q : Nat} (hcoll : (s.cle g).coll = some o) (hst : o.started = false)
  (hc : s.cmdAt o.ref = some c) (ho : s.queOwner o.ref.q = some (p, q))
include hcoll hc ho

theorem State.startColl_waits {opcode : Nat} (h : c.opcode ≠ opcode ∨ s.cleHeld g = true) : s.startColl g opcode = s := by
  unfold State.startColl
  simp only [hcoll, hc, ho]
  exact if_pos (.inr h)

/-- The state in which the READYs of a collective that starts are sent: a gather's own slice is in its place. -/
def State.collOwn (s : State) (g p : Nat) (o : CollOp) (c : Cmd) : State :=
  let u := s.setColl g { o with started := true, readySent := (clMembers c).filter (· ≠ s.boardPos) }
  (if clGather c then u.heldWrite p c.held (clDst c + rankOf (clMembers c) s.boardPos * clSlice c)
    (u.heldRead p c.held (clSrc c) (clSlice c)) else u).bump

/-- The state with the READYs sent. -/
def State.collReadys (s : State) (g p : Nat) (o : CollOp) (c : Cmd) : State :=
  ((clMembers c).filter (· ≠ s.boardPos)).foldl (State.sendReady g c) (s.collOwn g p o c)

omit hcoll hc ho in
theorem State.collOwn_see {α : Type} {π : State → α} (hW : Ign π .mem ∧ Ign π .poison ∧ Ign π .blocks ∧ Ign π .tiles ∧
    Ign π .tals ∧ Ign π .funcs ∧ Ign π .out ∧ Ign π .free) (s : State) (g p : Nat) (o : CollOp) (c : Cmd) :
    see π (s.collOwn g p o c) =
      see π (s.setColl g { o with started := true, readySent := (clMembers c).filter (· ≠ s.boardPos) }) := by
  unfold State.collOwn
  dsimp only
  rw [State.bump_see _ (by simp [hW])]
  split
  · exact State.heldWrite_see _ _ _ _ _ (by simp [hW])
  · rfl

omit hcoll hc ho in
theorem State.commOf_collOwn (b : BlkId) (s : State) (g p : Nat) (o : CollOp) (c : Cmd) :
    (s.collOwn g p o c).commOf b = s.commOf b := by
  unfold State.collOwn
  dsimp only
  refine (State.bump_see (π := State.commOf b) _ (by simp)).trans ?_
  split
  · exact State.commOf_heldWrite ..
  · rfl

omit hcoll hc ho in
theorem State.starved_collOwn {i : Nat} (h : s.starved g i) : (s.collOwn g p o c).starved g i := by
  have hlinks : (s.collOwn g p o c).links = s.links := State.collOwn_see (π := State.links) (by simp) s g p o c
  intro l hl
  rw [State.linksTo_of (fun l => congrArg Link.st (State.link_of_links hlinks l))
    (State.collOwn_see (π := State.pwr) (by simp) s g p o c) (State.collOwn_see (π := State.img) (by simp) s g p o c)
    (State.collOwn_see (π := State.board) (by simp) s g p o c) (State.commOf_collOwn · s g p o c)] at hl
  rw [State.link_of_links hlinks]
  exact h l hl

omit hcoll hc ho in
theorem State.collReadys_see {α : Type} {π : State → α} (hW : Ign π .blocks ∧ Ign π .links ∧ Ign π .lgs ∧ Ign π .tals ∧
    Ign π .out ∧ Ign π .timers) (s : State) (g p : Nat) (o : CollOp) (c : Cmd) :
    see π (s.collReadys g p o c) = see π (s.collOwn g p o c) :=
  foldl_see _ (fun t j => State.sendReady_see t j hW) _ _

omit hcoll hc ho in
theorem State.cle_collReadys (s : State) (g p : Nat) (o : CollOp) (c : Cmd) : (s.collReadys g p o c).cle g =
    { s.cle g with coll := some { o with started := true, readySent := (clMembers c).filter (· ≠ s.boardPos) } } := by
  refine (State.cle_of_cles ((State.collReadys_see (π := State.cles) (by simp) s g p o c).trans
    (State.collOwn_see (π := State.cles) (by simp) s g p o c)) g).trans ?_
  exact (State.cle_setCle ..).trans (if_pos rfl)

include hst

theorem State.startColl_starts {opcode : Nat} (hcode : c.opcode = opcode) (hheld : s.cleHeld g = false)
    (hearly : ∀ x ∈ (s.cle g).early, x.2.1.toNat ≠ clCollId c)
    (hstop : clGather c = true → s.heldStops p c.held (clSrc c) (clSlice c) = none ∧
      s.heldBad p c.held (clDst c + rankOf (clMembers c) s.boardPos * clSlice c) (clSlice c) = none) :
    s.startColl g opcode = ((s.collReadys g p o c).setCle g { (s.collReadys g p o c).cle g with
      early := ((s.collReadys g p o c).cle g).early.filter (fun x => decide (x.2.1.toNat ≠ clCollId c)) }).cleProgress g := by
  have hgo : ¬ (o.started = true ∨ c.opcode ≠ opcode ∨ s.cleHeld g = true) := by
    simp [hst, hcode, hheld]
  have hnone : (if clGather c then (s.heldStops p c.held (clSrc c) (clSlice c)).or
      (s.heldBad p c.held (clDst c + rankOf (clMembers c) s.boardPos * clSlice c) (clSlice c)) else none) = none := by
    split
    case isTrue hg => rw [(hstop hg).1, (hstop hg).2]; rfl
    case isFalse => rfl
  have hmine : ((s.collReadys g p o c).cle g).early.filter (fun x => decide (x.2.1.toNat = clCollId c)) = [] := by
    rw [State.cle_collReadys]
    exact List.filter_eq_nil_iff.2 fun x hx => by simpa using hearly x hx
  unfold State.startColl
  simp only [hcoll, hc, ho]
  rw [if_neg hgo, hnone]
  change (List.foldl (fun s x => s.meetReady g x.1 x.2.2) ((s.collReadys g p o c).setCle g _)
    (((s.collReadys g p o c).cle g).early.filter (fun x => decide (x.2.1.toNat = clCollId c)))).cleProgress g = _
  rw [hmine]
  rfl

/-- What the start of a collective leaves. -/
theorem State.startColl_leaves {opcode : Nat} (hcode : c.opcode = opcode) (hheld : s.cleHeld g = false)
    (hearly : ∀ x ∈ (s.cle g).early, x.2.1.toNat ≠ clCollId c)
    (hstop : clGather c = true → s.heldStops p c.held (clSrc c) (clSlice c) = none ∧
      s.heldBad p c.held (clDst c + rankOf (clMembers c) s.boardPos * clSlice c) (clSlice c) = none) :
    let others := (clMembers c).filter (· ≠ s.boardPos)
    let t := s.startColl g opcode
    (t.cle g).coll = some { o with started := true, readySent := others } ∧
    (∀ j ∈ others, t.timerRuns (.readyAgain g j) = true ∧ (s.nextLink g j = none →
      (t.tx g j).again = (s.tx g j).again ++ [(s.readyFrame g c, none)])) ∧
    (clGather c = true → t.mem = (s.heldWrite p c.held (clDst c + rankOf (clMembers c) s.boardPos * clSlice c)
      (s.heldRead p c.held (clSrc c) (clSlice c))).mem) := by
  dsimp only
  rw [State.startColl_starts hcoll hst hc ho hcode hheld hearly hstop]
  obtain ⟨w, hw⟩ : ∃ w, s.collReadys g p o c = w := ⟨_, rfl⟩
  rw [hw]
  refine ⟨?_, fun j hj => ⟨?_, fun hnone => ?_⟩, fun hg => ?_⟩
  · refine (congrArg Cle.coll (State.cle_of_cles (State.cleProgress_see (π := State.cles) _ _ (by simp)) g)).trans ?_
    rw [State.cle_setCle, if_pos rfl, ← hw, State.cle_collReadys]
  · refine (State.timerRuns_cleProgress _ _ (by simp)).trans ?_
    subst hw
    exact State.timerRuns_readys _ (.inl hj)
  · have hlgs : ((w.setCle g { w.cle g with
        early := (w.cle g).early.filter (fun x => decide (x.2.1.toNat ≠ clCollId c)) }).cleProgress g).lgs = w.lgs :=
      (State.cleProgress_see (π := State.lgs) _ _ (by simp)).trans rfl
    have hnodup : ((clMembers c).filter (· ≠ s.boardPos)).Nodup := (List.nodup_range.filter _).filter _
    have hframe : (s.collOwn g p o c).readyFrame g c = s.readyFrame g c := by
      have hboard : (s.collOwn g p o c).board = s.board := State.collOwn_see (π := State.board) (by simp) s g p o c
      rw [State.readyFrame, State.readyFrame, State.mkFrame, State.mkFrame, State.boardPos, State.boardPos, hboard]
    rw [State.tx_of_lgs hlgs, ← hw, State.collReadys,
      State.again_readys hnodup hj (State.starved_collOwn (State.nextLink_eq_none.1 hnone)), hframe,
      State.tx_of_lgs (State.collOwn_see (π := State.lgs) (by simp) s g p o c)]
    rfl
  · refine (State.cleProgress_see (π := State.mem) _ _ (by simp)).trans (Eq.trans (b := w.mem) rfl ?_)
    rw [← hw]
    refine (State.collReadys_see (π := State.mem) (by simp) s g p o c).trans ?_
    refine Eq.trans (b := ((s.setColl g { o with
      started := true, readySent := (clMembers c).filter (· ≠ s.boardPos) }).heldWrite p c.held
        (clDst c + rankOf (clMembers c) s.boardPos * clSlice c) (s.heldRead p c.held (clSrc c) (clSlice c))).mem) ?_
      (State.mem_heldWrite (s := s) (t := s.setColl g _) rfl rfl ..)
    show (s.collOwn g p o c).mem = _
    rw [State.collOwn, if_pos hg]
    rfl

end

end Sys2Proof.Machine
open Sys2Proof Sys2Proof.Machine

/-- Settles O46: a send and a collective by the checks that stop them, a READY by the collective that it meets, and a
reduction by an induction over the members to whom its result goes. -/
theorem collectivesContributeAndReduce : Obligations.CollectivesContributeAndReduce := by
  unfold Obligations.CollectivesContributeAndReduce
  refine ⟨fun g s o c p q hfind hc ho => ⟨?_, ?_, ?_⟩, fun g s o c p q hcoll hst hc ho hearly => ⟨?_, ?_⟩,
    fun l f s hmem htyp => ⟨?_, ?_, fun o c p hop hid => ⟨?_, ?_, ?_⟩⟩, fun g j s o c p hop => ⟨?_, ?_⟩,
    fun g s o c p hop => ⟨?_, fun hgather hred hof hheld hstops hdst => ⟨?_, ?_⟩, ?_⟩⟩
  · exact exec_cleSend_held hfind hc ho
  · exact does_cleSend hfind hc ho
  · exact does_cleSend_fails hfind hc ho
  · intro hheld i hi
    have hwaits : ∀ opcode, s.startColl g.val opcode = s := fun _ => State.startColl_waits hcoll hc ho (.inr hheld)
    simp only [List.mem_cons, List.not_mem_nil, or_false] at hi
    obtain rfl | rfl | rfl := hi <;> exact congrArg Host.Outcome.next (hwaits _)
  · intro i hi
    have hexec : exec i.1 s = .next (s.startColl g.val i.2) := by
      simp only [List.mem_cons, List.not_mem_nil, or_false] at hi
      obtain rfl | rfl | rfl := hi <;> rfl
    refine ⟨fun hcode hheld hstop => ⟨_, hexec, ?_⟩, fun hcode => ?_⟩
    · exact State.startColl_leaves hcoll hst hc ho hcode hheld hearly hstop
    · exact hexec.trans (congrArg _ (State.startColl_waits hcoll hc ho (.inl hcode)))
  · exact exec_readyReceive_early hmem htyp
  · exact exec_readyReceive_refused hmem htyp
  · exact exec_readyReceive_held hmem htyp hop hid
  · exact does_readyReceive_differs hmem htyp hop hid
  · intro hheld hres hdig hj hme hgot hto hof hstop
    exact does_readyReceive_meets hmem htyp hop hid hheld hres hdig hj hme hgot hto hof rfl rfl hstop
  · exact exec_readyResend hop
  · exact exec_readyResend_not hop
  · exact exec_collReduce_not hop
  · exact exec_collReduce_scatter hop hgather hred hof hheld hstops hdst
  · exact does_collReduce_allreduce hop hgather hred hof hheld hstops hdst
  · intro hgather hred hof hheld
    exact does_collReduce_fails hop hgather hred hof hheld

end

section
/-!
Acknowledgements, rejects, ABORTs and timeouts of the collective engine (R360, R363, R366, R368). It settles O47.
-/
namespace Sys2Proof.Machine
set_option Elab.async false

/-- A command that a group's engine fails stays halted whatever then leaves the queues. -/
theorem State.halted_failCle {s u v : State} {r : CmdRef} {g : Nat} {b : Bad} (hsame : u.commands = s.commands)
    (hques : v.ques = (u.failCle g r b).ques) (ho : (s.queOwner r.q).isSome = true) (hc : (s.cmdAt r).isSome = true) :
    (v.que r.q).halted = true :=
  (congrArg Que.halted (State.que_of_ques hques r.q)).trans (State.failCle_halts hsame ho hc g b)

theorem State.ques_cleProgress (s : State) (g : Nat) : (s.cleProgress g).ques = s.ques :=
  State.cleProgress_see (π := State.ques) s g (by simp)

/-! ## Acknowledgements (R363, R366) -/

section
variable {l : Fin 24} {f : Frame} {s u : State} {w : Sent} (hmem : f ∈ (s.link l.val).rxq)
  (hu : (s.setLink l.val { s.link l.val with rxq := (s.link l.val).rxq.erase f }).settle l.val f = some (w, u))
include hmem hu

section
variable (htyp : f.typ = 5)
include htyp

theorem exec_performedAck : exec (.performedAck l f) s = .next (
    match w.ref with
    | some r => if w.bare then u else u.ackOne (frameGroup f) r
    | none => u) := by
  have htake : (if f.typ = 5 then s.takeFrame l.val f else none) = _ := (if_pos htyp).trans (State.takeFrame_mem hmem)
  simp only [exec, execPerformedAck, htake, hu] <;> rfl

theorem exec_performedAck_uncounted (h : w.ref = none ∨ w.bare = true) : exec (.performedAck l f) s = .next u := by
  rw [exec_performedAck hmem hu htyp]
  rcases h with h | h
  · rw [h]
  · split
    · exact congrArg _ (if_pos h)
    · rfl

variable {r : CmdRef} (hr : w.ref = some r) (hbare : w.bare = false)
include hr hbare

theorem exec_performedAck_counted : exec (.performedAck l f) s = .next (u.ackOne (frameGroup f) r) := by
  rw [exec_performedAck hmem hu htyp, hr]
  exact congrArg _ (if_neg (by simp [hbare]))

omit hmem hu htyp hr hbare in
theorem State.ackOne_send {g : Nat} {o : SendOp} (hsends : (u.cle g).sends = [o]) (href : o.ref = r) :
    u.ackOne g r =
      ((u.setCle g { u.cle g with sends := [{ o with acked := o.acked + 1 }] }).cleProgress g).sendMaybeDone g r := by
  simp [State.ackOne, hsends, href]

omit hmem hu htyp hr hbare in
theorem State.ackOne_coll {g : Nat} {o : CollOp} (hsends : (u.cle g).sends = []) (hcoll : (u.cle g).coll = some o)
    (href : o.ref = r) :
    u.ackOne g r = ((u.setColl g { o with acked := o.acked + 1 }).cleProgress g).collMaybeDone g := by
  simp [State.ackOne, hsends, hcoll, href]

omit hmem hu htyp hr hbare in
/-- The one send of an engine completes with its last acknowledgement. -/
theorem State.sendMaybeDone_one {g : Nat} {o : SendOp} (hsends : (u.cle g).sends = [o]) (href : o.ref = r) :
    u.sendMaybeDone g r =
      if o.started ∧ o.acked = o.total then ((u.dropCle g r).completeRef r).cleProgress g else u := by
  simp [State.sendMaybeDone, hsends, href]

theorem exec_performedAck_send {o : SendOp} (hsends : (u.cle (frameGroup f)).sends = [o]) (href : o.ref = r) :
    let d := (u.setCle (frameGroup f) { u.cle (frameGroup f) with
      sends := [{ o with acked := o.acked + 1 }] }).cleProgress (frameGroup f)
    exec (.performedAck l f) s = .next (if o.started ∧ o.acked + 1 = o.total then
      ((d.dropCle (frameGroup f) r).completeRef r).cleProgress (frameGroup f) else d) := by
  have hd : ((u.setCle (frameGroup f) { u.cle (frameGroup f) with sends := [{ o with acked := o.acked + 1 }] }).cleProgress
      (frameGroup f)).cle (frameGroup f) = { u.cle (frameGroup f) with sends := [{ o with acked := o.acked + 1 }] } :=
    (State.cle_of_cles (State.cleProgress_see (π := State.cles) _ _ (by simp)) _).trans
      ((State.cle_setCle ..).trans (if_pos rfl))
  rw [exec_performedAck_counted hmem hu htyp hr hbare, State.ackOne_send hsends href,
    State.sendMaybeDone_one (congrArg Cle.sends hd) href]

end

theorem does_inboundRejectReceive (htyp : f.typ = 8) {r : CmdRef} (hr : w.ref = some r) (ho : (s.queOwner r.q).isSome = true)
    (hc : (s.cmdAt r).isSome = true) : Does (.inboundRejectReceive l f) s (fun t => (t.que r.q).halted = true) := by
  have htake : (if f.typ = 8 then s.takeFrame l.val f else none) = _ := (if_pos htyp).trans (State.takeFrame_mem hmem)
  have hcmds : u.commands = s.commands := (State.settle_see_of (π := State.commands) hu (by simp)).trans
    (State.setLink_see (π := State.commands) s _ _ (by simp))
  refine ⟨(u.failCle (frameGroup f) r (badLink 2 (u.peerOf l.val))).cleProgress (frameGroup f), ?_,
    State.halted_failCle hcmds (State.ques_cleProgress ..) ho hc⟩
  simp only [exec, execInboundRejectReceive, htake, hu, hr]

end

/-! ## ABORTs and timeouts (R368) -/

section
variable {l : Fin 24} {f : Frame} {s : State} {o : CollOp} {c : Cmd} {p : Nat} (hmem : f ∈ (s.link l.val).rxq) (htyp : f.typ = 7)
  (hop : s.collOp (frameGroup f) = some (o, c, p))
include hmem htyp hop

theorem exec_abortReceive {v : State} (hv : (s.setLink l.val { s.link l.val with
      rxq := (s.link l.val).rxq.erase f }).flag .cle (frameGroup f) 0x18 (bit 29) = v) :
    exec (.abortReceive l f) s = .next (if clCollId c = frameColl f then
      (v.failCle (frameGroup f) o.ref ⟨0x15, 0, clCollId c, 2, 0, 0x7F⟩).cleProgress (frameGroup f) else v) := by
  have htake : (if f.typ = 7 then s.takeFrame l.val f else none) = _ := (if_pos htyp).trans (State.takeFrame_mem hmem)
  have hopv : v.collOp (frameGroup f) = some (o, c, p) := by
    subst hv
    exact State.collOp_of_commands hop rfl (State.collOp_eq_some.1 hop).1 rfl rfl
  simp only [exec, execAbortReceive, htake, hv, hopv]

theorem does_abortReceive (hid : clCollId c = frameColl f) :
    Does (.abortReceive l f) s (fun t => (t.que o.ref.q).halted = true) := by
  obtain ⟨-, -, hc, q, ho⟩ := State.collOp_eq_some.1 hop
  obtain ⟨v, hv⟩ : ∃ v, (s.setLink l.val { s.link l.val with rxq := (s.link l.val).rxq.erase f }).flag .cle (frameGroup f)
    0x18 (bit 29) = v := ⟨_, rfl⟩
  have hcmds : v.commands = s.commands := by subst hv; rfl
  exact ⟨_, (exec_abortReceive hmem htyp hop hv).trans (congrArg _ (if_pos hid)),
    State.halted_failCle hcmds (State.ques_cleProgress ..) (by simp [ho]) (by simp [hc])⟩

end

section
variable {g : Fin 6} {q : Fin 2048} {head : W32} {s : State} {p lq : Nat} (hq : s.queByNum q.val = some (p, lq))
include hq

theorem exec_collTimeout_early (hexp : s.expired (.coll g.val (queKey p lq) head.toNat) = false) :
    exec (.collTimeout g q head) s = .next s := by
  simp [exec, execCollTimeout, hq, hexp]

variable (hexp : s.expired (.coll g.val (queKey p lq) head.toNat) = true)
  (hc : (s.cmdAt ⟨queKey p lq, head, none⟩).isSome = true) (ho : (s.queOwner (queKey p lq)).isSome = true)
include hexp hc ho

theorem does_collTimeout_send (hany : (s.cle g.val).sends.any (fun o => decide (o.ref = ⟨queKey p lq, head, none⟩)) = true) :
    Does (.collTimeout g q head) s (fun t => (t.que (queKey p lq)).halted = true) := by
  obtain ⟨x, hx⟩ := Option.isSome_iff_exists.1 (List.find?_isSome.2 (List.any_eq_true.1 hany))
  refine ⟨((s.flag .cle g.val 0x18 (bit 28)).failCle g.val ⟨queKey p lq, head, none⟩ (badLink 3 x.peer)).cleProgress g.val, ?_,
    State.halted_failCle (r := ⟨queKey p lq, head, none⟩) rfl (State.ques_cleProgress ..) ho hc⟩
  simp only [exec, execCollTimeout, hq, Option.map_some, Option.getD_some, hexp, not_true, if_false, hx]

theorem does_collTimeout_coll (hany : (s.cle g.val).sends.any (fun o => decide (o.ref = ⟨queKey p lq, head, none⟩)) = false)
    {o : CollOp} (hcoll : (s.cle g.val).coll = some o) (href : o.ref = ⟨queKey p lq, head, none⟩) :
    Does (.collTimeout g q head) s (fun t => (t.que (queKey p lq)).halted = true) := by
  obtain ⟨c, hcmd⟩ := Option.isSome_iff_exists.1 hc
  obtain ⟨v, hv⟩ : ∃ v, s.flag .cle g.val 0x18 (bit 28) = v := ⟨_, rfl⟩
  have hcmds : v.commands = s.commands := by subst hv; rfl
  have hnone : (s.cle g.val).sends.find? (fun o => decide (o.ref = ⟨queKey p lq, head, none⟩)) = none := by
    rw [List.find?_eq_none]
    exact List.any_eq_false.1 hany
  refine ⟨((v.failCle g.val ⟨queKey p lq, head, none⟩ ⟨0x14, 0, clCollId c, 2, 0, 0x7F⟩).sendAborts g.val o c).cleProgress g.val,
    ?_, State.halted_failCle (r := ⟨queKey p lq, head, none⟩) hcmds ((State.ques_cleProgress ..).trans
      (State.sendAborts_see (π := State.ques) _ _ _ _ (by simp))) ho hc⟩
  simp only [exec, execCollTimeout, hq, Option.map_some, Option.getD_some, hexp, not_true, if_false, hv, hnone, hcoll,
    State.cmdAt_of_commands hcmds, hcmd, href, if_true]

end

end Sys2Proof.Machine
open Sys2Proof Sys2Proof.Machine

/-- Settles O47: an acknowledgement by what its write belongs to; a reject, an ABORT and a timeout fail their command, which
halts its queue. -/
theorem acknowledgementsCompleteOrFailCommands : Obligations.AcknowledgementsCompleteOrFailCommands := by
  unfold Obligations.AcknowledgementsCompleteOrFailCommands
  refine ⟨fun l f s u w hmem => ?_, fun l f s o c p hmem htyp => ?_, fun g q head s p lq hq => ⟨?_, ?_⟩⟩
  · intro k g hu
    refine ⟨exec_performedAck_uncounted hmem hu, fun r o htyp hr hbare hsends href => ⟨fun hmore => ?_, fun hlast hst => ?_⟩,
      fun r o htyp hr hbare hsends hcoll href => ?_, fun r htyp hr ho hc => does_inboundRejectReceive hmem hu htyp hr ho hc⟩
    · exact (exec_performedAck_send hmem hu htyp hr hbare hsends href).trans (congrArg _ (if_neg fun h => hmore h.2))
    · exact (exec_performedAck_send hmem hu htyp hr hbare hsends href).trans (congrArg _ (if_pos ⟨hst, hlast⟩))
    · rw [exec_performedAck_counted hmem hu htyp hr hbare, State.ackOne_coll hsends hcoll href]
  · intro k hop
    exact ⟨does_abortReceive hmem htyp hop, fun hid => (exec_abortReceive hmem htyp hop rfl).trans (congrArg _ (if_neg hid))⟩
  · exact exec_collTimeout_early hq
  · intro hexp hc ho h
    cases hany : (s.cle g.val).sends.any (fun o => decide (o.ref = ⟨queKey p lq, head, none⟩))
    case true => exact does_collTimeout_send hq hexp hc ho hany
    case false =>
      obtain ⟨o, hcoll, href⟩ := h.resolve_left (by simp [hany])
      exact does_collTimeout_coll hq hexp hc ho hany hcoll href

end

section
/-!
The keeper runtime's start, its step, its power cap and its watch (R375, R376, R380–R382, R384, R387, R424, R428). It
settles O49.
-/
namespace Sys2Proof.Machine
set_option Elab.async false

/-! ## The start (R375, R376) -/

/-- A pair that the lead runtime starts. -/
def Pair.started (x : Pair) : Pair := { x with inReset := false, st := .running }

/-- The other pairs that the lead runtime of partition `p` starts. -/
def State.otherPairs (s : State) (p k : Nat) : List Nat :=
  (List.range 8).filter (fun j =>
    decide (j ≠ k) && decide (s.partOfKp j = some p) && s.domOn (domKp j) && (s.pair j).inReset)

/-- The state with them started. -/
def State.pairsUp (s : State) (p k : Nat) : State :=
  (s.otherPairs p k).foldl (fun s j => s.updPair j Pair.started) s

theorem State.pairsUp_see {α : Type} {π : State → α} (hW : Ign π .pairs) (s : State) (p k : Nat) :
    see π (s.pairsUp p k) = see π s :=
  foldl_see _ (fun _ _ => State.updPair_see _ _ _ (by simp [hW])) _ _

theorem State.pair_pairsUp (s : State) (p k j : Nat) :
    (s.pairsUp p k).pair j = if j ∈ s.otherPairs p k then (s.pair j).started else s.pair j :=
  foldl_once (π := fun t => t.pair j) (fun t i => by
    rw [State.pair_updPair]
    split
    case isTrue h => rw [h]
    case isFalse => rfl) (List.nodup_range.filter _) s

/-- What RUNTIME_START does in the state `w` in which the other pairs have started. -/
def State.leadStarts (w : State) (p : Fin 8) (k : Nat) : State :=
  let at_ := (w.pair k).sampled.getD (decide (w.cfg .kpr k 0x10 31 31 = 1), w.cfg .kpr k 0x10 23 16)
  let w := w.updPair k (fun x => { x with inReset := false, steps := 0, sampled := some at_ })
  let free := decide ((w.ctx (w.devCtx p.val at_.2)).st = .free)
  if ¬ at_.1 then w.updPair k (fun x => { x with st := .idle })
  else if ¬ (free ∨ (w.pair k).owns) ∨ w.ctxQuota p.val ≤ at_.2 ∨ w.queQuota p.val < 2 then
    w.updPair k (fun x => { x with st := .blocked })
  else
    let w := (w.updPair k (fun x => { x with st := .running, owns := true })).runtimeTakes p.val k at_.2
    if ¬ free then w else stateOf (execCtxCreate (.kp (pairFin k)) p (BitVec.ofNat 8 at_.2) w) w

/-- The lead pair after a start: `x` before it, with the sampled `at_`. -/
def Pair.leadStarted (x : Pair) (at_ : Bool × Nat) (st : RtSt) (owns : Bool) : Pair :=
  { x with inReset := false, steps := 0, sampled := some at_, st := st, owns := owns }

/-- The state that a runtime which starts reads (R376). -/
def State.startSt (w : State) (p : Nat) (x : Pair) (at_ : Bool × Nat) : RtSt × Bool :=
  if at_.1 = false then (.idle, x.owns)
  else if ((w.ctx (w.devCtx p at_.2)).st ≠ .free ∧ x.owns = false) ∨ w.ctxQuota p ≤ at_.2 ∨ w.queQuota p < 2 then
    (.blocked, x.owns)
  else (.running, true)

/-- A start's two writes of the lead pair. -/
theorem State.pair_leadStarted {w : State} {k : Nat} {at_ : Bool × Nat} {f : Pair → Pair} {st : RtSt} {owns : Bool}
    (hf : f { w.pair k with inReset := false, steps := 0, sampled := some at_ } = (w.pair k).leadStarted at_ st owns) (j : Nat) :
    ((w.updPair k (fun x => { x with inReset := false, steps := 0, sampled := some at_ })).updPair k f).pair j =
      if j = k then (w.pair k).leadStarted at_ st owns else w.pair j := by
  rw [State.pair_updPair, State.pair_updPair, State.pair_updPair, if_pos rfl]
  split
  · exact hf
  · rfl

theorem State.leadStarts_leaves (w : State) (p : Fin 8) (k : Nat) :
    let at_ := (w.pair k).sampled.getD (decide (w.cfg .kpr k 0x10 31 31 = 1), w.cfg .kpr k 0x10 23 16)
    let r := w.startSt p.val (w.pair k) at_
    (∀ j, (w.leadStarts p k).pair j = if j = k then (w.pair k).leadStarted at_ r.1 r.2 else w.pair j) ∧
    (w.leadStarts p k).timers = w.timers := by
  intro at_ r
  have hr : r = w.startSt p.val (w.pair k) at_ := rfl
  obtain ⟨v, hv⟩ : ∃ v, w.updPair k (fun x => { x with inReset := false, steps := 0, sampled := some at_ }) = v := ⟨_, rfl⟩
  have howns : (v.pair k).owns = (w.pair k).owns := by
    rw [← hv, State.pair_updPair, if_pos rfl]
  have hfree : (v.ctx (v.devCtx p.val at_.2)).st = (w.ctx (w.devCtx p.val at_.2)).st := by rw [← hv]; rfl
  have hquota : v.ctxQuota p.val = w.ctxQuota p.val ∧ v.queQuota p.val = w.queQuota p.val := by rw [← hv]; exact ⟨rfl, rfl⟩
  have htimers : v.timers = w.timers := by rw [← hv]; rfl
  have hlead : w.leadStarts p k = if ¬ at_.1 then v.updPair k (fun x => { x with st := .idle })
      else if ¬ (decide ((v.ctx (v.devCtx p.val at_.2)).st = .free) ∨ (v.pair k).owns) ∨ v.ctxQuota p.val ≤ at_.2 ∨
        v.queQuota p.val < 2 then v.updPair k (fun x => { x with st := .blocked })
      else
        let u := (v.updPair k (fun x => { x with st := .running, owns := true })).runtimeTakes p.val k at_.2
        if ¬ decide ((v.ctx (v.devCtx p.val at_.2)).st = .free) then u
        else stateOf (execCtxCreate (.kp (pairFin k)) p (BitVec.ofNat 8 at_.2) u) u := by
    subst hv
    rfl
  have hblock : (¬ (decide ((v.ctx (v.devCtx p.val at_.2)).st = .free) ∨ (v.pair k).owns) ∨ v.ctxQuota p.val ≤ at_.2 ∨
      v.queQuota p.val < 2) ↔ (((w.ctx (w.devCtx p.val at_.2)).st ≠ .free ∧ (w.pair k).owns = false) ∨
        w.ctxQuota p.val ≤ at_.2 ∨ w.queQuota p.val < 2) := by
    rw [hfree, howns, hquota.1, hquota.2]
    simp
  rw [hlead]
  unfold State.startSt at hr
  by_cases hen : at_.1 = false
  · rw [if_pos hen] at hr
    rw [if_pos (by simp [hen]), hr]
    exact ⟨hv ▸ State.pair_leadStarted rfl, htimers⟩
  · rw [if_neg hen] at hr
    rw [if_neg (by simpa using hen)]
    by_cases hb : ((w.ctx (w.devCtx p.val at_.2)).st ≠ .free ∧ (w.pair k).owns = false) ∨ w.ctxQuota p.val ≤ at_.2 ∨
        w.queQuota p.val < 2
    · rw [if_pos hb] at hr
      rw [if_pos (hblock.2 hb), hr]
      exact ⟨hv ▸ State.pair_leadStarted rfl, htimers⟩
    · rw [if_neg hb] at hr
      rw [if_neg (mt hblock.1 hb), hr]
      have hpairs := State.pair_leadStarted (w := w) (k := k) (at_ := at_)
        (f := fun x => { x with st := .running, owns := true }) (st := .running) (owns := true) rfl
      rw [hv] at hpairs
      obtain ⟨u, hu⟩ : ∃ u, (v.updPair k (fun x => { x with st := .running, owns := true })).runtimeTakes p.val k at_.2 = u :=
        ⟨_, rfl⟩
      have hsee : ∀ {α : Type} {π : State → α}, Ign π .blocks →
          see π u = see π (v.updPair k (fun x => { x with st := .running, owns := true })) := fun hW =>
        hu ▸ State.runtimeTakes_see _ _ _ _ (by simp [hW])
      dsimp only
      rw [hu]
      split
      · exact ⟨fun j => (State.pair_of_pairs (hsee (π := State.pairs) (by simp)) j).trans (hpairs j),
          (hsee (π := State.timers) (by simp)).trans htimers⟩
      · exact ⟨fun j => (State.pair_of_pairs ((execCtxCreate_see (π := State.pairs) _ _ _ _ (by simp)).trans
          (hsee (π := State.pairs) (by simp))) j).trans (hpairs j),
          (execCtxCreate_see (π := State.timers) _ _ _ _ (by simp)).trans ((hsee (π := State.timers) (by simp)).trans htimers)⟩

section
variable {p : Fin 8} {s : State} {k : Nat}

theorem exec_runtimeStart_not (h : s.leadOf p.val = none ∨ s.sec.keeperFw ≠ some true ∨
    (s.startHeld = true ∧ p.val ∉ s.boot.runtimes)) : exec (.runtimeStart p) s = .next s := by
  simp only [exec, execRuntimeStart]
  split
  · rfl
  case h_2 k hk =>
    refine congrArg _ (if_pos ?_)
    rcases h with h | h | ⟨hheld, hnot⟩
    · rw [h] at hk; cases hk
    · exact .inr (.inl h)
    · exact .inr (.inr ⟨hheld, by simpa using hnot⟩)

variable (hlead : s.leadOf p.val = some k) (hon : s.domOn (domKp k) = true) (hfw : s.sec.keeperFw = some true)
  (hgo : s.startHeld = false ∨ p.val ∈ s.boot.runtimes) (hst : (s.pair k).st = .starting)
include hlead hon hfw hgo hst

/-- The state with the other pairs and the cap's period started. -/
def State.runtimeUp (s : State) (p k : Nat) : State :=
  ((s.pairsUp p k).noteRuntime p).startTimer (.capPeriod p) (.keeper k) (s.cfg .kpr k 0x18 14 11 * 1000000)

theorem exec_runtimeStart : exec (.runtimeStart p) s = .next ((s.runtimeUp p.val k).leadStarts p k) := by
  have hheld : ¬ (¬ s.domOn (domKp k) = true ∨ s.sec.keeperFw ≠ some true ∨
      (s.startHeld = true ∧ ¬ s.boot.runtimes.contains p.val = true)) := by
    rcases hgo with hgo | hgo
    · simp [hon, hfw, hgo]
    · simp [hon, hfw, hgo]
  simp only [exec, execRuntimeStart, hlead]
  exact congrArg Host.Outcome.next ((if_neg hheld).trans ((if_neg (by simp [hst])).trans (if_neg (not_not.2 hst))))

/-- A runtime that starts, by what it samples and whether its context is free. -/
theorem does_runtimeStart :
    let x := s.pair k
    let at_ := x.sampled.getD (decide (s.cfg .kpr k 0x10 31 31 = 1), s.cfg .kpr k 0x10 23 16)
    let r := s.startSt p.val x at_
    Does (.runtimeStart p) s (fun t => t.pair k = x.leadStarted at_ r.1 r.2 ∧
      (∀ j, j < 8 → j ≠ k → s.partOfKp j = some p.val → s.domOn (domKp j) = true → (s.pair j).inReset = true →
        t.pair j = (s.pair j).started) ∧
      t.timerRuns (.capPeriod p.val) = true) := by
  intro x at_ r
  obtain ⟨hpair, htimers⟩ := State.leadStarts_leaves (s.runtimeUp p.val k) p k
  have hk : (s.runtimeUp p.val k).pair k = x :=
    (State.pair_pairsUp s p.val k k).trans (if_neg (by simp [State.otherPairs]))
  have hblocks : (s.runtimeUp p.val k).blocks = s.blocks := State.pairsUp_see (π := State.blocks) (by simp) s p.val k
  have himg : (s.runtimeUp p.val k).img = s.img := State.pairsUp_see (π := State.img) (by simp) s p.val k
  have hctxs : (s.runtimeUp p.val k).ctxs = s.ctxs := State.pairsUp_see (π := State.ctxs) (by simp) s p.val k
  have hcfg : ∀ off hi lo, (s.runtimeUp p.val k).cfg .kpr k off hi lo = s.cfg .kpr k off hi lo := fun off hi lo =>
    State.cfg_of_commOf (congrArg (fun m => (SMap.get BlockRegs.reset m (blkKey ⟨.kpr, k⟩)).comm) hblocks) off hi lo
  have hstart : (s.runtimeUp p.val k).startSt p.val x at_ = r := by
    have hfields : ∀ u : State, u.startSt p.val x at_ =
      ({ State.reset with img := u.img, ctxs := u.ctxs } : State).startSt p.val x at_ := fun _ => rfl
    rw [hfields, himg, hctxs, ← hfields]
  rw [hk, hcfg, hcfg, hstart] at hpair
  refine ⟨_, exec_runtimeStart hlead hon hfw hgo hst, (hpair k).trans (if_pos rfl), fun j hj hjk hpart hdom hreset => ?_, ?_⟩
  · rw [hpair j, if_neg hjk]
    refine (State.pair_pairsUp s p.val k j).trans (if_pos (List.mem_filter.2 ⟨List.mem_range.2 hj, ?_⟩))
    simp [hjk, hpart, hdom, hreset]
  · rw [State.timerRuns, htimers]
    exact State.timerRuns_startTimer ..

end

/-! ## The batch and the candidates (R381, R384) -/

theorem batchOf_length (t cap : Nat) (live : List DecodeReq) : (batchOf t cap live).length = min cap live.length := by
  rw [batchOf, List.length_take, List.length_mergeSort]

theorem mem_of_mem_batchOf {t cap : Nat} {live : List DecodeReq} {d : DecodeReq} (h : d ∈ batchOf t cap live) : d ∈ live :=
  List.mem_mergeSort.1 (List.mem_of_mem_take h)

theorem mergeCands_length_le (recs : List CandRec) (n : Nat) : (mergeCands recs n).length ≤ n :=
  List.length_take_le ..

theorem mem_mergeCands {recs : List CandRec} {n : Nat} {c : W32 × W32} (h : c ∈ mergeCands recs n) :
    (fp32Num c.2).isNaN = false ∧ ∃ r ∈ recs, c ∈ r.cands := by
  obtain ⟨hc, hnan⟩ := List.mem_filter.1 (List.mem_mergeSort.1 (List.mem_of_mem_take h))
  obtain ⟨r, hr, hc⟩ := List.mem_flatMap.1 hc
  exact ⟨by simpa using hnan, r, hr, hc⟩

theorem pickToken_one (cands : List (W32 × W32)) (d : W32) : pickToken cands true d = cands.head?.map (·.1) := by
  cases cands <;> rfl

/-! ## The power cap (R387) -/

/-- The table of R387, row by row. -/
theorem capStep_rows (pq c cur top : Nat) : (105 * 4 * c < 100 * pq → capStep pq c cur top = min cur 8) ∧
    (4 * c < pq → 100 * pq ≤ 105 * 4 * c → capStep pq c cur top = cur - 1) ∧
    (1000 * pq < 975 * 4 * c → capStep pq c cur top = min (cur + 1) top) ∧
    (975 * 4 * c ≤ 1000 * pq → pq ≤ 4 * c → capStep pq c cur top = cur) := by
  unfold capStep
  refine ⟨fun h => if_pos h, fun h h' => ?_, fun h => ?_, fun h h' => ?_⟩
  · rw [if_neg (by omega), if_pos h]
  · rw [if_neg (by omega), if_neg (by omega), if_pos h]
  · rw [if_neg (by omega), if_neg (by omega), if_neg (by omega)]

/-- A block's registers with their snapshot taken. -/
def BlockRegs.taken (k : BlkKind) (r : BlockRegs) : BlockRegs :=
  let r := { r with snap := r.staged }
  let parts := ((changedOffs k r).map (partOf k)).eraseDups
  { r with pend := parts, serial := if parts = [] then r.serial + 1 else r.serial }

/-- A GO of a tile's registers takes its snapshot and applies nothing yet (R42). -/
theorem State.go_tile (s : State) (t : Nat) : s.go ⟨.tile, t⟩ = s.setBlk ⟨.tile, t⟩ ((s.blk ⟨.tile, t⟩).taken .tile) := by
  unfold State.go
  dsimp only
  have hnone : ∀ parts : List Nat, parts.filter (partAtOnce .tile) = [] := fun parts =>
    List.filter_eq_nil_iff.2 fun _ _ => by simp [partAtOnce]
  rw [if_neg (by simp), hnone]
  rfl

/-- One tile's move by the table: `new` is its next step. -/
def State.capMove (s : State) (t new : Nat) : State :=
  if new = (s.tile t).freq.target then s
  else (s.setStaged .tile t 0x40 (setField (stagedWord .tile (s.blk ⟨.tile, t⟩) 0x40) 4 0 new)).go ⟨.tile, t⟩

theorem State.capMove_see {α : Type} {π : State → α} (hW : Ign π .blocks) (s : State) (t new : Nat) :
    see π (s.capMove t new) = see π s := by
  unfold State.capMove
  split
  · rfl
  · rw [State.go_tile]
    exact (State.setBlk_see _ _ _ (by simp [hW])).trans (State.setStaged_see _ _ _ _ _ (by simp [hW]))

theorem State.blk_capMove_other (s : State) (t new : Nat) {b : BlkId} (h : blkKey b ≠ blkKey ⟨.tile, t⟩) :
    (s.capMove t new).blk b = s.blk b := by
  unfold State.capMove
  split
  · rfl
  · rw [State.go_tile, State.blk_setBlk, if_neg h, State.setStaged, State.blk_setBlk, if_neg h]

theorem State.snap_capMove {s : State} {t new : Nat} (h : new ≠ (s.tile t).freq.target) :
    snapWord .tile ((s.capMove t new).blk ⟨.tile, t⟩) 0x40 =
      setField (stagedWord .tile (s.blk ⟨.tile, t⟩) 0x40) 4 0 new := by
  rw [State.capMove, if_neg h, State.go_tile, State.blk_setBlk, if_pos rfl, State.setStaged, State.blk_setBlk, if_pos rfl]
  exact SMap.get_set_self ..

/-- The next step of tile `t` under the limit `lim`, by the table of lead pair `k`. -/
def State.capNext (s : State) (k lim t : Nat) : Nat :=
  capStep s.pwr.powerQ.toNat lim (s.tile t).freq.target (s.cfg .kpr k 0x18 19 15)

/-- The tiles of a list move one by one, each by what the state held before. -/
theorem State.capMoves (s : State) (k lim : Nat) {ts : List Nat} (hts : ∀ t ∈ ts, t < 48) (hnodup : ts.Nodup) {u : State}
    (htiles : u.tiles = s.tiles) (hpwr : u.pwr = s.pwr) (hkpr : u.blk ⟨.kpr, k⟩ = s.blk ⟨.kpr, k⟩)
    (hblk : ∀ t ∈ ts, u.blk ⟨.tile, t⟩ = s.blk ⟨.tile, t⟩) :
    let v := ts.foldl (fun u t => u.capMove t (u.capNext k lim t)) u
    (∀ t < 48, t ∉ ts → v.blk ⟨.tile, t⟩ = u.blk ⟨.tile, t⟩) ∧
    ∀ t ∈ ts, (s.capNext k lim t = (s.tile t).freq.target → v.blk ⟨.tile, t⟩ = s.blk ⟨.tile, t⟩) ∧
      (s.capNext k lim t ≠ (s.tile t).freq.target → snapWord .tile (v.blk ⟨.tile, t⟩) 0x40 =
        setField (stagedWord .tile (s.blk ⟨.tile, t⟩) 0x40) 4 0 (s.capNext k lim t)) := by
  induction ts generalizing u with
  | nil => exact ⟨fun _ _ _ => rfl, fun t ht => by cases ht⟩
  | cons t ts ih =>
    obtain ⟨hnot, hnodup⟩ := List.nodup_cons.1 hnodup
    have ht : t < 48 := hts t List.mem_cons_self
    have htile : u.tile t = s.tile t := State.tile_of_tiles htiles t
    have hnext : u.capNext k lim t = s.capNext k lim t := by
      rw [State.capNext, State.capNext, htile, hpwr, State.cfg, State.cfg, hkpr]
    have hne : ∀ j < 48, j ≠ t → blkKey ⟨.tile, j⟩ ≠ blkKey ⟨.tile, t⟩ := fun j hj hjt h =>
      hjt (congrArg BlkId.unit (blkKey_inj (by simp only; omega) (by simp only; omega) h))
    obtain ⟨hother, hmoved⟩ := ih (fun j hj => hts j (List.mem_cons_of_mem _ hj)) hnodup
      (u := u.capMove t (u.capNext k lim t))
      ((State.capMove_see (π := State.tiles) (by simp) _ _ _).trans htiles)
      ((State.capMove_see (π := State.pwr) (by simp) _ _ _).trans hpwr)
      ((State.blk_capMove_other _ _ _ (by simp only [blkKey, kindCode]; omega)).trans hkpr)
      (fun j hj => (State.blk_capMove_other _ _ _ (hne j (hts j (List.mem_cons_of_mem _ hj)) fun h => hnot (h ▸ hj))).trans
        (hblk j (List.mem_cons_of_mem _ hj)))
    rw [List.foldl_cons]
    refine ⟨fun j hj hjs => ?_, fun j hj => ?_⟩
    · rw [List.mem_cons, not_or] at hjs
      rw [hother j hj hjs.2, State.blk_capMove_other _ _ _ (hne j hj hjs.1)]
    · rcases List.mem_cons.1 hj with rfl | hj
      · rw [hother j ht hnot, hnext]
        refine ⟨fun hsame => ?_, fun hmove => ?_⟩
        · rw [State.capMove, if_pos (htile ▸ hsame), hblk j List.mem_cons_self]
        · rw [State.snap_capMove (htile ▸ hmove), hblk j List.mem_cons_self]
      · exact hmoved j hj

section
variable {p : Fin 8} {s : State} {k : Nat} (hlead : s.leadOf p.val = some k)
include hlead

theorem exec_powerCapPeriod_not
    (h : s.expired (.capPeriod p.val) = false ∨ ((s.pair k).st ≠ .running ∧ (s.pair k).st ≠ .idle)) :
    exec (.powerCapPeriod p) s = .next s := by
  simp only [exec, execPowerCapPeriod, hlead]
  refine congrArg _ (if_pos ?_)
  rcases h with h | ⟨h, h'⟩
  · exact .inr (by simp [h])
  · exact .inl (by simp [h, h'])

/-- The limit that the power cap keeps (R387). -/
def State.capLimit (s : State) (k : Nat) : Nat :=
  if s.cfg .kpr k 0x18 31 20 ≠ 0 ∧ s.cfg .kpr k 0x18 31 20 < s.effW then s.cfg .kpr k 0x18 31 20 else s.effW

theorem exec_powerCapPeriod (hexp : s.expired (.capPeriod p.val) = true)
    (hst : (s.pair k).st = .running ∨ (s.pair k).st = .idle) :
    exec (.powerCapPeriod p) s = .next ((s.onTiles p.val).foldl (fun u t => u.capMove t (u.capNext k (s.capLimit k) t))
      (s.startTimer (.capPeriod p.val) (.keeper k) (s.cfg .kpr k 0x18 14 11 * 1000000))) := by
  simp only [exec, execPowerCapPeriod, hlead]
  exact congrArg Host.Outcome.next (if_neg (by simp [hexp, hst]))

theorem does_powerCapPeriod (hexp : s.expired (.capPeriod p.val) = true)
    (hst : (s.pair k).st = .running ∨ (s.pair k).st = .idle) : Does (.powerCapPeriod p) s (fun t =>
      (∀ j ∈ s.onTiles p.val,
        (s.capNext k (s.capLimit k) j = (s.tile j).freq.target → t.blk ⟨.tile, j⟩ = s.blk ⟨.tile, j⟩) ∧
        (s.capNext k (s.capLimit k) j ≠ (s.tile j).freq.target → snapWord .tile (t.blk ⟨.tile, j⟩) 0x40 =
          setField (stagedWord .tile (s.blk ⟨.tile, j⟩) 0x40) 4 0 (s.capNext k (s.capLimit k) j))) ∧
      t.except [.blocks, .timers] = s.except [.blocks, .timers]) := by
  have hlist : (∀ t ∈ s.onTiles p.val, t < 48) ∧ (s.onTiles p.val).Nodup := by
    unfold State.onTiles
    split
    · exact ⟨fun t ht => List.mem_range.1 (List.mem_filter.1 ht).1, List.nodup_range.filter _⟩
    · exact ⟨by simp, List.nodup_nil⟩
  refine ⟨_, exec_powerCapPeriod hlead hexp hst, (State.capMoves s k (s.capLimit k) hlist.1 hlist.2
    (u := s.startTimer (.capPeriod p.val) (.keeper k) (s.cfg .kpr k 0x18 14 11 * 1000000)) rfl rfl rfl (fun _ _ => rfl)).2, ?_⟩
  exact (foldl_see (π := State.except [.blocks, .timers]) _ (fun u t => State.capMove_see (by simp) u t _) _ _).trans
    (State.startTimer_see (π := State.except [.blocks, .timers]) _ _ _ _ (by simp))

end

/-! ## Heartbeats (R424) -/

theorem State.cfg_setPlain (s : State) (k : BlkKind) (u off : Nat) (v : W32) (j : BlkKind) (n o hi lo : Nat) :
    (s.setPlain k u off v).cfg j n o hi lo = s.cfg j n o hi lo := by
  refine State.cfg_of_commOf ?_ o hi lo
  rw [State.commOf, State.commOf, State.setPlain, State.blk_setBlk]
  split
  case isTrue h => rw [show s.blk ⟨j, n⟩ = s.blk ⟨k, u⟩ from congrArg (SMap.get _ _) h]
  case isFalse => rfl

section
variable {m : Master} {p : Fin 8} {s : State} (v : W32)

theorem exec_kprHbWrite_unreached (h : s.reaches m ⟨.kpr, p.val⟩ = false) : exec (.kprHbWrite m p v) s = .next s :=
  congrArg Host.Outcome.next (if_pos (by simp [h]))

variable (h : s.reaches m ⟨.kpr, p.val⟩ = true)
include h

theorem exec_kprHbWrite : exec (.kprHbWrite m p v) s = .next (
    if s.timers.any (fun t => decide (t.id = .heartbeat p.val) &&
        decide (t.left ≤ (s.cfg .kpr p.val 0x34 11 0 * 1000000 * 65536 : Nat))) then
      (s.setPlain .kpr p.val 0x30 v).startTimer (.heartbeat p.val) .mgmt (s.cfg .kpr p.val 0x34 11 0 * 1000000)
    else s.setPlain .kpr p.val 0x30 v) := by
  have hexec : exec (.kprHbWrite m p v) s = .next (
      if (s.setPlain .kpr p.val 0x30 v).timers.any (fun t => decide (t.id = .heartbeat p.val) &&
          decide (t.left ≤ ((s.setPlain .kpr p.val 0x30 v).cfg .kpr p.val 0x34 11 0 * 1000000 * 65536 : Nat))) then
        (s.setPlain .kpr p.val 0x30 v).startTimer (.heartbeat p.val) .mgmt
          ((s.setPlain .kpr p.val 0x30 v).cfg .kpr p.val 0x34 11 0 * 1000000)
      else s.setPlain .kpr p.val 0x30 v) := congrArg Host.Outcome.next (if_neg (not_not.2 h))
  rw [hexec, State.cfg_setPlain]
  rfl

theorem exec_kprHbWrite_watched
    (hw : ∃ e ∈ s.timers, e.id = .heartbeat p.val ∧ e.left ≤ (s.cfg .kpr p.val 0x34 11 0 * 1000000 * 65536 : Nat)) :
    exec (.kprHbWrite m p v) s = .next
      ((s.setPlain .kpr p.val 0x30 v).startTimer (.heartbeat p.val) .mgmt (s.cfg .kpr p.val 0x34 11 0 * 1000000)) := by
  rw [exec_kprHbWrite v h]
  refine congrArg _ (if_pos (List.any_eq_true.2 ?_))
  obtain ⟨e, he, hid, hleft⟩ := hw
  exact ⟨e, he, by rw [decide_eq_true hid, decide_eq_true hleft]; rfl⟩

theorem exec_kprHbWrite_unwatched (hw : ∀ e ∈ s.timers, e.id = .heartbeat p.val →
    ((s.cfg .kpr p.val 0x34 11 0 * 1000000 * 65536 : Nat) : Int) < e.left) :
    exec (.kprHbWrite m p v) s = .next (s.setPlain .kpr p.val 0x30 v) := by
  rw [exec_kprHbWrite v h]
  refine congrArg _ (if_neg fun hany => ?_)
  obtain ⟨e, he, hboth⟩ := List.any_eq_true.1 hany
  simp only [Bool.and_eq_true, decide_eq_true_eq] at hboth
  exact absurd hboth.2 (not_le.2 (hw e he hboth.1))

end

/-! ## A step (R380–R382) -/

/-- What a step records of itself in its lead pair. -/
def State.paceOf (k : Nat) (s : State) : W32 × Nat × List Nat := ((s.pair k).steps, (s.pair k).batch, (s.pair k).durations)

@[simp] theorem ign_paceOf (k : Nat) (f : Fld) (h : f ≠ .pairs) : Ign (State.paceOf k) f := by
  cases f
  case pairs => exact absurd rfl h
  all_goals exact fun _ _ => rfl

theorem State.paceOf_updPair (j : Nat) (s : State) (k : Nat) {f : Pair → Pair}
    (hf : ∀ x, (f x).steps = x.steps ∧ (f x).batch = x.batch ∧ (f x).durations = x.durations) :
    see (State.paceOf j) (s.updPair k f) = see (State.paceOf j) s := by
  obtain ⟨hs, hb, hd⟩ := hf (s.pair k)
  simp only [see, State.paceOf, State.pair_updPair]
  split
  case isTrue h => rw [hs, hb, hd, h]
  case isFalse => rfl

theorem State.paceOf_noteCore (j : Nat) (s : State) (core : Nat) (w : Option HostWr) :
    see (State.paceOf j) (s.noteCore core w) = see (State.paceOf j) s := by
  cases w with
  | none => rfl
  | some w => exact State.paceOf_updPair j s _ fun _ => ⟨rfl, rfl, rfl⟩

theorem State.paceOf_putToken (j : Nat) (s : State) (p k : Nat) (d : DecodeReq) (t : Token) :
    see (State.paceOf j) (s.putToken p k d t) = see (State.paceOf j) s := by
  obtain ⟨u, hu⟩ : ∃ u, (if t.late then
    (s.updPair k (fun x => { x with late := satAdd32 x.late 1 })).countPart p 0x050C 1 nobody else s) = u := ⟨_, rfl⟩
  have hlate : see (State.paceOf j) u = see (State.paceOf j) s := by
    rw [← hu]
    split
    · exact (State.countPart_see _ _ _ _ _ (by simp)).trans (State.paceOf_updPair j s k fun _ => ⟨rfl, rfl, rfl⟩)
    · rfl
  unfold State.putToken
  dsimp only
  rw [hu]
  split
  case h_1 v hv =>
    refine (State.paceOf_updPair j _ k ?_).trans ?_
    · exact fun _ => ⟨rfl, rfl, rfl⟩
    · rw [State.raise_see _ _ _ (by simp), State.storeVa_see_of hv (by simp), hlate]
  case h_2 v hv =>
    refine (State.paceOf_updPair j _ k ?_).trans ?_
    · intro x
      split <;> exact ⟨rfl, rfl, rfl⟩
    · rw [State.rtRelease_see _ _ _ _ _ _ (by simp), State.paceOf_noteCore, State.storeVa_see_of hv (by simp), hlate]

theorem State.paceOf_deliver (j : Nat) (s : State) (p k : Nat) (d : DecodeReq) (recs : List CandRec) :
    see (State.paceOf j) (s.deliver p k d recs) = see (State.paceOf j) s := by
  unfold State.deliver State.cutDecode
  dsimp only
  split
  · split
    · exact State.paceOf_putToken ..
    · exact State.paceOf_updPair j s k fun _ => ⟨rfl, rfl, rfl⟩
  · split
    · exact State.paceOf_putToken ..
    · exact (State.paceOf_putToken ..).trans (State.paceOf_updPair j s k fun _ => ⟨rfl, rfl, rfl⟩)

/-- The sessions that a step of lead pair `k` may take up. -/
def State.stepLive (s : State) (p k : Nat) : List DecodeReq :=
  (s.pair k).decodes.filter (fun d => !(d.redo && (s.sesEnt p (handleSlot d.session)).parked))

/-- The batch of a step. -/
def State.stepBatch (s : State) (p k : Nat) : List DecodeReq :=
  batchOf (s.pair k).tEst (if s.cfg .kpr k 0x10 12 0 = 0 then 4096 else s.cfg .kpr k 0x10 12 0) (s.stepLive p k)

/-- Whether a step runs a prefill chunk. -/
def State.stepChunk (s : State) (p k : Nat) : Bool :=
  decide ((s.pair k).prefills ≠ []) && (decide (s.stepLive p k = []) ||
    (decide (0 < (s.runtimePrio p k).cfg .kpr k 0x14 8 5 * (s.pair k).tEst) && decide (((s.runtimePrio p k).draw 1).1 = 1)))

/-- The record of a step of `n` ns in its lead pair. -/
def Pair.stepped (x : Pair) (n : Nat) (batch : List DecodeReq) : Pair :=
  { x with
    batch := batch.length, steps := x.steps + 1, recover := none
    durations := (x.durations ++ [n]).drop (x.durations.length + 1 - 8)
    decodes := x.decodes.map (fun e => { e with
      left := e.left - n, missed := if (batch.map (·.ref)).contains e.ref then 0 else e.missed + 1 }) }

/-- What a step does after its chunk: the rolls, the TICK and its record. -/
def State.stepWork (s : State) (p : Fin 8) (k n : Nat) (rolls : List RollItem) (batch : List DecodeReq) : State :=
  let u := rolls.foldl (fun s it => s.roll p.val k it) s
  ((stateOf (execTick (.kp (pairFin k)) p u) u).updPair k (fun x => x.stepped n batch)).countPart p.val 0x050D 1 nobody

/-- One session's results of a step. -/
def State.stepDeliver (p k : Nat) (rs : List StepResult) (s : State) (d : DecodeReq) : State :=
  match (s.pair k).decodes.find? (fun e => decide (e.ref = d.ref)), rs.find? (fun r => decide (r.session = d.session)) with
  | some e, some r => s.deliver p k e r.recs
  | _, _ => s

theorem State.pair_stepWork (s : State) (p : Fin 8) (k n : Nat) (rolls : List RollItem) (batch : List DecodeReq) :
    (s.stepWork p k n rolls batch).pair k = (s.pair k).stepped n batch := by
  unfold State.stepWork
  dsimp only
  refine (State.pair_of_pairs (State.countPart_see (π := State.pairs) _ _ _ _ _ (by simp)) k).trans ?_
  rw [State.pair_updPair, if_pos rfl]
  refine congrArg (·.stepped n batch) (State.pair_of_pairs ((execTick_see (π := State.pairs) _ _ _ (by simp)).trans ?_) k)
  exact foldl_see (π := State.pairs) _ (fun u it => State.roll_see u _ _ it (by simp)) _ _

theorem State.paceOf_stepDelivers (j p k : Nat) (rs : List StepResult) (batch : List DecodeReq) (s : State) :
    see (State.paceOf j) (batch.foldl (State.stepDeliver p k rs) s) = see (State.paceOf j) s := by
  refine foldl_see _ (fun u d => ?_) _ _
  unfold State.stepDeliver
  split
  · exact State.paceOf_deliver ..
  · rfl

section
variable {p : Fin 8} (n : Nat) (rolls : List RollItem) (rs : List StepResult) {s : State} {k : Nat}
  (hlead : s.rtLead p.val = some k) (hop : (s.ses p.val).op = none) (hwork : (s.pair k).working = none)
include hlead hop hwork

theorem exec_runtimeStep_recovers {u : State} (h : s.recoverStep p k = some u) :
    exec (.runtimeStep p n rolls rs) s = .next u := by
  simp only [exec, execRuntimeStep, hlead, hop, hwork, Option.isSome_none, Bool.false_eq_true, or_self, if_false, h]

variable (hrec : s.recoverStep p k = none)
include hrec

theorem exec_runtimeStep : exec (.runtimeStep p n rolls rs) s = .next (
    if s.stepBatch p.val k = [] ∧ ¬ s.stepChunk p.val k then ((s.runtimePrio p.val k).draw 1).2
    else if (s.stepBatch p.val k).any (fun d => !(rs.any (fun r => decide (r.session = d.session)))) then
      ((s.runtimePrio p.val k).draw 1).2
    else
      let u := if s.stepChunk p.val k then ((s.runtimePrio p.val k).draw 1).2.prefillChunk p.val k
        else ((s.runtimePrio p.val k).draw 1).2
      (s.stepBatch p.val k).foldl (State.stepDeliver p.val k rs) (u.stepWork p k n rolls (s.stepBatch p.val k))) := by
  simp only [exec, execRuntimeStep, hlead, hop, hwork, Option.isSome_none, Bool.false_eq_true, or_self, if_false, hrec]
  rfl

omit hlead hop hwork hrec in
theorem State.pair_stepStart (s : State) (p j k : Nat) : ((s.runtimePrio p j).draw 1).2.pair k = s.pair k :=
  State.pair_of_pairs ((State.draw_see (π := State.pairs) _ _ (by simp)).trans
    (State.runtimePrio_see (π := State.pairs) _ _ _ (by simp))) k

theorem exec_runtimeStep_sleeps (hlive : s.stepLive p.val k = []) (hpre : (s.pair k).prefills = []) :
    exec (.runtimeStep p n rolls rs) s = .next ((s.runtimePrio p.val k).draw 1).2 := by
  rw [exec_runtimeStep n rolls rs hlead hop hwork hrec]
  refine congrArg _ (if_pos ⟨?_, ?_⟩)
  · rw [State.stepBatch, hlive]
    simp [batchOf]
  · simp [State.stepChunk, hpre]

theorem does_runtimeStep_batch (hbatch : s.stepBatch p.val k ≠ []) (hpre : (s.pair k).prefills = [])
    (hrs : ∀ d ∈ s.stepBatch p.val k, ∃ r ∈ rs, r.session = d.session) : Does (.runtimeStep p n rolls rs) s (fun t =>
      (t.pair k).steps = (s.pair k).steps + 1 ∧ (t.pair k).batch = (s.stepBatch p.val k).length ∧
      (t.pair k).durations = ((s.pair k).durations ++ [n]).drop ((s.pair k).durations.length + 1 - 8)) := by
  have hchunk : ¬ s.stepChunk p.val k = true := by simp [State.stepChunk, hpre]
  have hall : ¬ (s.stepBatch p.val k).any (fun d => !(rs.any (fun r => decide (r.session = d.session)))) = true := by
    simpa using hrs
  have hpace := State.paceOf_stepDelivers k p.val k rs (s.stepBatch p.val k)
    (((s.runtimePrio p.val k).draw 1).2.stepWork p k n rolls (s.stepBatch p.val k))
  simp only [see, State.paceOf, State.pair_stepWork, State.pair_stepStart, Prod.mk.injEq] at hpace
  refine ⟨_, (exec_runtimeStep n rolls rs hlead hop hwork hrec).trans (congrArg Host.Outcome.next
    ((if_neg fun h => hbatch h.1).trans (if_neg hall))), ?_⟩
  dsimp only
  rw [if_neg hchunk]
  exact hpace

theorem does_runtimeStep_chunk (hlive : s.stepLive p.val k = []) {f : PrefillReq} {rest : List PrefillReq}
    (hpre : (s.pair k).prefills = f :: rest) (hmore : f.done + 512 < f.tokens) : Does (.runtimeStep p n rolls rs) s (fun t =>
      (t.pair k).steps = (s.pair k).steps + 1 ∧ (t.pair k).prefills = { f with done := f.done + 512 } :: rest ∧
      (t.pair k).batch = 0) := by
  have hbatch : s.stepBatch p.val k = [] := by
    rw [State.stepBatch, hlive]
    simp [batchOf]
  have hchunk : s.stepChunk p.val k = true := by simp [State.stepChunk, hpre, hlive]
  refine ⟨_, (exec_runtimeStep n rolls rs hlead hop hwork hrec).trans (congrArg Host.Outcome.next
    ((if_neg fun h => h.2 hchunk).trans (if_neg (by simp [hbatch])))), ?_⟩
  dsimp only
  rw [if_pos hchunk, hbatch, List.foldl_nil, State.pair_stepWork]
  have hstart := State.pair_stepStart s p.val k k
  have hmin : min 512 (f.tokens - f.done) = 512 := by omega
  have hlast : ¬ f.done + 512 = f.tokens := by omega
  have hpair : (((s.runtimePrio p.val k).draw 1).2.prefillChunk p.val k).pair k =
      { ((s.pair k).setLen f.session ((s.pair k).len f.session + 512)) with
        prefills := { f with done := f.done + 512 } :: rest
        decodes := (s.pair k).decodes.map (fun e => if e.session = f.session then { e with pos := e.pos + 512 } else e) } := by
    unfold State.prefillChunk
    rw [hstart, hpre]
    dsimp only
    rw [hmin, if_neg hlast, State.pair_updPair, if_pos rfl, hstart]
  rw [hpair]
  exact ⟨rfl, rfl, rfl⟩

end

/-! ## What removing work leaves of a partition's fault flags (R417, R424)

The flags of FLT_STAT but for FULL, the one that a record which its log has no room for sets. -/

/-- Flag `i` of FLT_STAT of partition `g`. -/
def State.fltBit (g i : Nat) (s : State) : Bool := (s.flags .flt g 0x24).getLsbD i

@[simp] theorem ign_fltBit (g i : Nat) (f : Fld) (h : f ≠ .blocks) : Ign (State.fltBit g i) f := by
  cases f
  case blocks => exact absurd rfl h
  all_goals exact fun _ _ => rfl

section
variable {g i : Nat}

theorem State.fltBit_flag (s : State) (k : BlkKind) (u : Nat) {off : Nat} {bits : W32} (h : off ≠ 0x24 ∨ bits.getLsbD i = false) :
    see (State.fltBit g i) (s.flag k u off bits) = see (State.fltBit g i) s := by
  simp only [see, State.fltBit, State.flags, State.flag, State.blk_setBlk]
  split
  case isTrue hb =>
    rw [show s.blk ⟨.flt, g⟩ = s.blk ⟨k, u⟩ from congrArg (SMap.get _ _) hb]
    simp only [w1cWord, SMap.get_set]
    split
    case isTrue hoff =>
      subst hoff
      simp [h.resolve_left (not_not.2 rfl)]
    case isFalse => rfl
  case isFalse => rfl

theorem State.fltBit_setComm (s : State) (k : BlkKind) (u off : Nat) (v : W32) :
    see (State.fltBit g i) (s.setComm k u off v) = see (State.fltBit g i) s := by
  simp only [see, State.fltBit, State.flags, State.setComm, State.blk_setBlk]
  split
  case isTrue hb => rw [show s.blk ⟨.flt, g⟩ = s.blk ⟨k, u⟩ from congrArg (SMap.get _ _) hb]; rfl
  case isFalse => rfl

theorem State.fltBit_count (s : State) (b : BlkId) (ev q : Nat) (w : Who) :
    see (State.fltBit g i) (s.count b ev q w) = see (State.fltBit g i) s := by
  unfold State.count
  dsimp only
  split
  · rfl
  · split
    · exact (State.fltBit_flag _ _ _ (.inl (by decide))).trans (State.setTal_see _ _ _ (by simp))
    · exact State.setTal_see _ _ _ (by simp)

/-! ### Faults -/

theorem State.fltBit_ldgTake (s : State) (b : BlkId) (o : LdgOut) :
    see (State.fltBit g i) (s.ldgTake b o) = see (State.fltBit g i) s := by
  have hdrop : see (State.fltBit g i) ((s.setLdg (blkKey b) o.l).ldgDropped b o.lost) = see (State.fltBit g i) s := by
    unfold State.ldgDropped State.countTile State.countStack
    dsimp only
    split
    · exact State.setLdg_see _ _ _ (by simp)
    · have hflag : see (State.fltBit g i) ((s.setLdg (blkKey b) o.l).flag b.kind b.unit 0x30 (bit 28)) =
          see (State.fltBit g i) s :=
        (State.fltBit_flag _ _ _ (.inl (by decide))).trans (State.setLdg_see _ _ _ (by simp))
      split
      · exact (State.fltBit_count ..).trans hflag
      · exact (State.fltBit_count ..).trans hflag
  obtain ⟨u, hu⟩ : ∃ u, (s.setLdg (blkKey b) o.l).ldgDropped b o.lost = u := ⟨_, rfl⟩
  obtain ⟨v, hv⟩ : ∃ v, (if o.held then u.flag b.kind b.unit 0x30 (bit 27) else u) = v := ⟨_, rfl⟩
  have hheld : see (State.fltBit g i) v = see (State.fltBit g i) s := by
    rw [← hv, ← hdrop, hu]
    split
    · exact State.fltBit_flag _ _ _ (.inl (by decide))
    · rfl
  unfold State.ldgTake
  dsimp only
  rw [hu, hv]
  split
  · exact (State.raiseFog_see _ _ (by simp)).trans hheld
  · exact hheld

theorem State.fltBit_ledger (s : State) (b : BlkId) (w : Who) (typ src a pb : Nat) :
    see (State.fltBit g i) (s.ledger b w typ src a pb) = see (State.fltBit g i) s := by
  unfold State.ledger
  dsimp only
  split
  · rfl
  · exact State.fltBit_ldgTake ..

theorem State.fltBit_ledgerUnit (s : State) (p uclass unit : Nat) (w : Who) (typ src a b : Nat) :
    see (State.fltBit g i) (s.ledgerUnit p uclass unit w typ src a b) = see (State.fltBit g i) s := by
  unfold State.ledgerUnit State.ledgerPart State.ledgerTile State.ledgerStack
  split
  · exact State.fltBit_ledger ..
  · exact State.fltBit_ledger ..
  · split
    · exact State.fltBit_ledger ..
    · rfl

theorem State.fltBit_msix (s : State) (fn v : Nat) : see (State.fltBit g i) (s.msix fn v) = see (State.fltBit g i) s := by
  have hflag : ∀ bits, see (State.fltBit g i) (s.flag .pcx 0 0x14 bits) = see (State.fltBit g i) s := fun bits =>
    State.fltBit_flag _ _ _ (.inl (by decide))
  unfold State.msix State.countIo
  dsimp only
  split
  · exact hflag _
  split
  · rfl
  split
  · exact State.setFunc_see _ _ _ (by simp)
  split
  · exact (State.fltBit_count ..).trans (State.emit_see _ _ (by simp))
  · exact hflag _

theorem State.fltBit_alert (s : State) (bits : W32) : see (State.fltBit g i) (s.alert bits) = see (State.fltBit g i) s :=
  (State.sendNotices_see _ _ (by simp)).trans (State.fltBit_flag _ _ _ (.inl (by decide)))

variable (hi : i ≠ 31)
include hi

theorem State.fltBit_logFault (s : State) (p : Nat) (ws : List Nat) :
    see (State.fltBit g i) (s.logFault p ws) = see (State.fltBit g i) s := by
  have hbit : (bit 31).getLsbD i = false := by
    rw [bit, BitVec.getLsbD_ofNat, Nat.testBit_two_pow, decide_eq_false (Ne.symm hi), Bool.and_false]
  unfold State.logFault
  dsimp only
  split
  · exact (State.setPart_see _ _ _ (by simp)).trans (State.writeBytes_see _ _ _ (by simp))
  · exact (State.fltBit_flag _ _ _ (.inr hbit)).trans (State.setPart_see _ _ _ (by simp))

theorem State.fltBit_raise (s : State) (p : Nat) (f : FaultRec) :
    see (State.fltBit g i) (s.raise p f) = see (State.fltBit g i) s := by
  have hrec : ∀ (u : State) (f : FaultRec) (w : Who), see (State.fltBit g i) (u.recordFault p f w) = see (State.fltBit g i) u :=
    fun u f w => (State.fltBit_count ..).trans ((State.fltBit_ledgerUnit ..).trans ((State.fltBit_msix ..).trans
      ((State.emit_see _ _ (by simp)).trans ((State.fltBit_logFault hi ..).trans (State.setPart_see _ _ _ (by simp))))))
  unfold State.raise State.raiseAny
  dsimp only
  split
  · rfl
  · split
    · exact (State.setCtx_see _ _ _ (by simp)).trans (hrec ..)
    · exact hrec ..

theorem State.fltBit_loseRefs (e : Eng) (u : Nat) (seen : List Nat) (rs : List CmdRef) (s : State) :
    see (State.fltBit g i) (s.loseRefs e u seen rs) = see (State.fltBit g i) s := by
  have hlose : ∀ (t : State) (r : CmdRef) (fault : Bool),
      see (State.fltBit g i) (t.loseRef r fault e u) = see (State.fltBit g i) t := by
    intro t r fault
    unfold State.loseRef
    split
    · dsimp only
      refine (State.haltAt_see _ _ _ _ (by simp)).trans ((State.setStage_see _ _ _ (by simp)).trans ?_)
      split
      · exact State.fltBit_raise hi ..
      · rfl
    · rfl
  induction rs generalizing seen s with
  | nil => rfl
  | cons r rs ih => exact (ih _ _).trans (hlose ..)

omit hi

/-! ### Link groups -/

theorem State.fltBit_pump (s : State) (h peer : Nat) : see (State.fltBit g i) (s.pump h peer) = see (State.fltBit g i) s := by
  refine State.pump_keeps (Q := fun t => see (State.fltBit g i) t = see (State.fltBit g i) s) (fun t x ht => ?_)
    (fun t l f r ht => ?_) (fun t bits ht => ?_) rfl
  · exact (State.setTx_see t _ _ x (by simp)).trans ht
  · exact (State.fltBit_count ..).trans ((State.fltBit_count ..).trans ((State.emit_see _ _ (by simp)).trans
      ((State.setLg_see _ _ _ (by simp)).trans ((State.setLink_see _ _ _ (by simp)).trans ht))))
  · exact (State.fltBit_flag _ _ _ (.inl (by decide))).trans ht

theorem State.fltBit_sendPlain (s : State) (h peer : Nat) (f : Frame) :
    see (State.fltBit g i) (s.sendPlain h peer f) = see (State.fltBit g i) s :=
  (State.fltBit_pump ..).trans (State.setTx_see _ _ _ _ (by simp))

theorem State.fltBit_sendAborts (s : State) (h : Nat) (o : CollOp) (c : Cmd) :
    see (State.fltBit g i) (s.sendAborts h o c) = see (State.fltBit g i) s := by
  unfold State.sendAborts
  split
  · rfl
  · exact (foldl_see _ (fun t j => State.fltBit_sendPlain ..) _ _).trans (State.fltBit_flag _ _ _ (.inl (by decide)))

theorem State.fltBit_removeCle (s : State) (h : Nat) (r : CmdRef) :
    see (State.fltBit g i) (s.removeCle h r) = see (State.fltBit g i) s := by
  have hdrop : see (State.fltBit g i) (s.dropCle h r) = see (State.fltBit g i) s := State.dropCle_see _ _ _ (by simp)
  unfold State.removeCle
  refine (State.cleProgress_see _ _ (by simp)).trans ?_
  split
  · split
    · exact (State.fltBit_sendAborts ..).trans hdrop
    · exact hdrop
  · exact hdrop

theorem State.fltBit_removeLg (s : State) (h : Nat) (sel : Nat → Bool) :
    see (State.fltBit g i) (s.removeLg h sel) = see (State.fltBit g i) s := by
  have hclose : ∀ (t : State) (j : Nat), see (State.fltBit g i) (t.closeEpoch h j none) = see (State.fltBit g i) t := by
    intro t j
    unfold State.closeEpoch
    dsimp only
    split
    · exact (State.fltBit_pump ..).trans (State.setTx_see _ _ _ _ (by simp))
    · rfl
  exact (foldl_see _ (fun t j => hclose t j) _ _).trans (foldl_see _ (fun t r => State.fltBit_removeCle ..) _ _)

/-! ### Tiles, rings and queues -/

theorem State.fltBit_removeMxe (s : State) (t : Nat) (sel : Nat → Bool) :
    see (State.fltBit g i) (s.removeMxe t sel) = see (State.fltBit g i) s := by
  unfold State.removeMxe
  refine (State.progress_see _ _ _ _ (by simp)).trans ((State.setMxe_see _ _ _ (by simp)).trans
    ((foldl_see _ (fun u o => State.cancelBook_see _ _ _ (by simp)) _ _).trans (foldl_see _ (fun u d => ?_) _ _)))
  split
  · exact (State.nonfinFog_see _ _ _ _ (by simp)).trans ((State.watchSkip_see _ _ _ (by simp)).trans (State.fltBit_count ..))
  · rfl

theorem State.fltBit_removeTile (s : State) (t : Nat) (sel : Nat → Bool) :
    see (State.fltBit g i) (s.removeTile t sel) = see (State.fltBit g i) s := by
  have hengines : see (State.fltBit g i) (((s.removeMxe t sel).removeVxe t sel).removeSte t sel) = see (State.fltBit g i) s :=
    (State.removeSte_see _ _ _ (by simp)).trans ((State.removeVxe_see _ _ _ (by simp)).trans (State.fltBit_removeMxe ..))
  unfold State.removeTile
  refine (State.setChain_see _ _ _ (by simp)).trans ?_
  split
  · exact hengines
  · exact (State.removeClaims_see _ _ _ (by simp)).trans hengines

theorem State.fltBit_removeRings (s : State) (p lc : Nat) :
    see (State.fltBit g i) (s.removeRings p lc) = see (State.fltBit g i) s := by
  refine foldl_see _ (fun u r => ?_) _ _
  split
  · unfold State.discardRing
    exact (State.fltBit_flag _ _ _ (.inl (by omega))).trans (State.setRing_see _ _ _ (by simp))
  · rfl

theorem State.fltBit_removeQueue (s : State) (p q : Nat) :
    see (State.fltBit g i) (s.removeQueue p q) = see (State.fltBit g i) s := by
  unfold State.removeQueue
  exact (State.stopTimer_see _ _ (by simp)).trans ((State.setQ_see _ _ _ _ (by simp)).trans ((State.fltBit_setComm ..).trans
    ((State.dropReleases_see _ _ _ (by simp)).trans (foldl_see _ (fun u c => State.fltBit_count ..) _ _))))

/-! ### Contexts and engines -/

theorem State.fltBit_removeWork (s : State) (p lc : Nat) :
    see (State.fltBit g i) (s.removeWork p lc) = see (State.fltBit g i) s := by
  unfold State.removeWork
  split
  · rfl
  · exact (foldl_see _ (fun u q => State.fltBit_removeQueue ..) _ _).trans ((State.dropCtx_see _ _ (by simp)).trans
      ((State.removeRecords_see _ _ _ (by simp)).trans ((State.removeBars_see _ _ _ _ (by simp)).trans
      ((State.fltBit_removeRings ..).trans ((State.removeRingOps_see _ _ _ (by simp)).trans
      ((foldl_see _ (fun u h => State.fltBit_removeLg ..) _ _).trans ((foldl_see _ (fun u k =>
        (State.removeMove_see _ _ _ (by simp)).trans (State.removeNme_see _ _ _ (by simp))) _ _).trans
      (foldl_see _ (fun u t => State.fltBit_removeTile ..) _ _))))))))

theorem State.fltBit_settleCtx (s : State) (p lc : Nat) :
    see (State.fltBit g i) (s.settleCtx p lc) = see (State.fltBit g i) s := by
  unfold State.settleCtx
  dsimp only
  split
  · rfl
  · refine (State.ctxCmdDone_see _ _ _ (by simp)).trans ((State.stopEngineRungs_see _ _ (by simp)).trans
      ((State.stopTimer_see _ _ (by simp)).trans ((State.stopTimer_see _ _ (by simp)).trans
      ((State.setPart_see _ _ _ (by simp)).trans ((State.setCtx_see _ _ _ (by simp)).trans ?_)))))
    have hclaims : see (State.fltBit g i) ((s.onTiles p).foldl (fun s t => s.removeClaims t (s.inCtx p lc)) s) =
        see (State.fltBit g i) s := foldl_see _ (fun u t => State.removeClaims_see _ _ _ (by simp)) _ _
    split
    · exact (State.fltBit_count ..).trans hclaims
    · exact hclaims

theorem State.fltBit_resetContext (s : State) (p lc : Nat) (free : Bool) :
    see (State.fltBit g i) (s.resetContext p lc free) = see (State.fltBit g i) s := by
  unfold State.resetContext State.endContext
  exact (State.fltBit_settleCtx ..).trans ((State.fltBit_removeWork ..).trans ((State.setPart_see _ _ _ (by simp)).trans
    ((State.stopTimer_see _ _ (by simp)).trans ((State.startTimer_see _ _ _ _ (by simp)).trans (State.setCtx_see _ _ _ (by simp))))))

theorem State.fltBit_resetPair (s : State) (p k : Nat) :
    see (State.fltBit g i) (s.resetPair p k) = see (State.fltBit g i) s := by
  have htimer : see (State.fltBit g i) (if s.cfg .kpr k 0x10 31 31 = 1 then
      s.startTimer (.heartbeat k) .mgmt (100000000 + s.cfg .kpr k 0x34 11 0 * 1000000) else s) = see (State.fltBit g i) s := by
    split
    · exact State.startTimer_see _ _ _ _ (by simp)
    · rfl
  unfold State.resetPair
  dsimp only
  generalize (if s.cfg .kpr k 0x10 31 31 = 1 then
    s.startTimer (.heartbeat k) .mgmt (100000000 + s.cfg .kpr k 0x34 11 0 * 1000000) else s) = v at *
  split
  · exact (State.setPair_see _ _ _ (by simp)).trans htimer
  · split
    · exact (State.fltBit_resetContext ..).trans ((State.setPair_see _ _ _ (by simp)).trans htimer)
    · exact (State.setPair_see _ _ _ (by simp)).trans htimer

end

/-! ## A keeper pair is reset (R424, R428) -/

/-- Whether a pair is in reset, and its runtime's state. -/
def State.pairSt (k : Nat) (s : State) : Bool × RtSt := ((s.pair k).inReset, (s.pair k).st)

@[simp] theorem ign_pairSt (k : Nat) (f : Fld) (h : f ≠ .pairs) : Ign (State.pairSt k) f := by
  cases f
  case pairs => exact absurd rfl h
  all_goals exact fun _ _ => rfl

theorem State.pairSt_removeRecords (k : Nat) (s : State) (p : Nat) (sel : Nat → Bool) :
    see (State.pairSt k) (s.removeRecords p sel) = see (State.pairSt k) s := by
  unfold State.removeRecords
  split
  · rfl
  · simp only [see, State.pairSt, State.pair_updPair]
    split
    case isTrue h => rw [h]
    case isFalse => rfl

theorem State.pairSt_resetContext (k : Nat) (s : State) (p lc : Nat) (free : Bool) :
    see (State.pairSt k) (s.resetContext p lc free) = see (State.pairSt k) s := by
  have hwork : ∀ u : State, see (State.pairSt k) (u.removeWork p lc) = see (State.pairSt k) u := by
    intro u
    unfold State.removeWork
    split
    · rfl
    · exact (foldl_see _ (fun u q => State.removeQueue_see _ _ _ (by simp)) _ _).trans ((State.dropCtx_see _ _ (by simp)).trans
        ((State.pairSt_removeRecords ..).trans ((State.removeBars_see _ _ _ _ (by simp)).trans
        ((State.removeRings_see _ _ _ (by simp)).trans ((State.removeRingOps_see _ _ _ (by simp)).trans
        ((foldl_see _ (fun u h => State.removeLg_see _ _ _ (by simp)) _ _).trans ((foldl_see _ (fun u k =>
          (State.removeMove_see _ _ _ (by simp)).trans (State.removeNme_see _ _ _ (by simp))) _ _).trans
        (foldl_see _ (fun u t => State.removeTile_see _ _ _ (by simp)) _ _))))))))
  unfold State.resetContext State.endContext
  exact (State.settleCtx_see _ _ _ (by simp)).trans ((hwork _).trans ((State.setPart_see _ _ _ (by simp)).trans
    ((State.stopTimer_see _ _ (by simp)).trans ((State.startTimer_see _ _ _ _ (by simp)).trans (State.setCtx_see _ _ _ (by simp))))))

/-- A pair's reset leaves it in reset, and the lead runtime to start again. -/
theorem State.pairSt_resetPair (s : State) (p k : Nat) : ((s.resetPair p k).pair k).inReset = true ∧
    (s.leadOf p = some k → ((s.resetPair p k).pair k).st = .starting) := by
  obtain ⟨v, hv⟩ : ∃ v, (if s.cfg .kpr k 0x10 31 31 = 1 then
    s.startTimer (.heartbeat k) .mgmt (100000000 + s.cfg .kpr k 0x34 11 0 * 1000000) else s) = v := ⟨_, rfl⟩
  have hlead : v.leadOf p = s.leadOf p := by
    rw [← hv]
    split <;> rfl
  have hset : ∀ x : Pair, see (State.pairSt k) (v.setPair k x) = (x.inReset, x.st) := fun x => by
    simp only [see, State.pairSt, State.pair_setPair, if_true]
  unfold State.resetPair
  dsimp only
  rw [hv, hlead]
  by_cases h : s.leadOf p = some k
  · rw [if_neg (not_not.2 h)]
    have hst : ∀ u : State, see (State.pairSt k) u = (true, .starting) →
        (u.pair k).inReset = true ∧ (s.leadOf p = some k → (u.pair k).st = .starting) := fun u hu => by
      simp only [see, State.pairSt, Prod.mk.injEq] at hu
      exact ⟨hu.1, fun _ => hu.2⟩
    refine hst _ ?_
    split
    · exact (State.pairSt_resetContext ..).trans (hset _)
    · exact hset _
  · rw [if_pos h]
    refine ⟨?_, fun h' => absurd h' h⟩
    rw [State.pair_setPair, if_pos rfl]

theorem State.engineReset_kpr {s : State} (h : s.pwr.switch = none) (p u : Nat) :
    s.engineReset p .kpr u = (((((s.engineIdle .kpr u).foldl State.unbegin s).loseRefs .kpr u [] (s.engineRefs .kpr u)).resetPair
      p u).rstDone p (.engine .kpr u) 0x00) := by
  have hfree : ¬ s.engineHeld .kpr u = true := by simp [State.engineHeld, h]
  unfold State.engineReset
  rw [if_neg hfree]
  rfl

section
variable {p : Fin 8} {s : State} {g : Nat} (hpart : s.partOfKp p.val = some g)
include hpart

theorem exec_heartbeatMiss_early (hexp : s.expired (.heartbeat p.val) = false) : exec (.heartbeatMiss p) s = .next s := by
  simp [exec, execHeartbeatMiss, hpart, hexp]

theorem does_heartbeatMiss (hexp : s.expired (.heartbeat p.val) = true) (hsw : s.pwr.switch = none) :
    Does (.heartbeatMiss p) s (fun t =>
      (t.flags .flt g 0x24).getLsbD 29 = true ∧ (s.leadOf g = some p.val → (t.pair p.val).st = .starting) ∧
      (s.leadOf g ≠ some p.val → (t.pair p.val).inReset = true)) := by
  obtain ⟨u, hu⟩ : ∃ u, (s.stopTimer (.heartbeat p.val)).flag .flt g 0x24 (bit 29) = u := ⟨_, rfl⟩
  obtain ⟨v, hv⟩ : ∃ v, (u.msix (u.fnOf g) (u.cfg .flt g 0x10 26 16)).alert (bit 30) = v := ⟨_, rfl⟩
  have hvu : ∀ {α : Type} {π : State → α}, Ign π .blocks ∧ Ign π .tals ∧ Ign π .funcs ∧ Ign π .out → see π v = see π u := fun hW =>
    hv ▸ (State.alert_see _ _ (by simp [hW])).trans (State.msix_see _ _ _ (by simp [hW]))
  have hbit : v.fltBit g 29 = true := by
    rw [← hv]
    refine (State.fltBit_alert ..).trans ((State.fltBit_msix ..).trans ?_)
    rw [← hu, see, State.fltBit, State.flags_flag, BitVec.getLsbD_or]
    simp [bit]
  have hswv : v.pwr.switch = none := by
    have hpwr : v.pwr = s.pwr := (hvu (π := State.pwr) (by simp)).trans (by rw [← hu]; rfl)
    rw [hpwr, hsw]
  obtain ⟨w, hw⟩ : ∃ w, ((v.engineIdle .kpr p.val).foldl State.unbegin v).loseRefs .kpr p.val [] (v.engineRefs .kpr p.val) = w :=
    ⟨_, rfl⟩
  have hbitw : w.fltBit g 29 = true := by
    rw [← hw]
    exact (State.fltBit_loseRefs (by decide) ..).trans
      ((foldl_see (π := State.fltBit g 29) _ (fun t r => State.unbegin_see _ _ (by simp)) _ _).trans hbit)
  have hleadw : w.leadOf g = s.leadOf g := by
    have himg : w.img = s.img := by
      rw [← hw]
      exact (State.loseRefs_see (π := State.img) _ _ _ _ _ (by simp)).trans
        ((foldl_see (π := State.img) _ (fun t r => State.unbegin_see _ _ (by simp)) _ _).trans
          ((hvu (π := State.img) (by simp)).trans (by rw [← hu]; rfl)))
    exact State.leadOf_of_img himg g
  have hexec : exec (.heartbeatMiss p) s = .next ((w.resetPair g p.val).rstDone g (.engine .kpr p.val) 0x00) := by
    rw [← hw, ← State.engineReset_kpr hswv, ← hv, ← hu]
    simp only [exec, execHeartbeatMiss, hpart, hexp, not_true, if_false]
  obtain ⟨hreset, hst⟩ := State.pairSt_resetPair w g p.val
  have hpair := State.pair_of_pairs (State.rstDone_see (π := State.pairs) (w.resetPair g p.val) g (.engine .kpr p.val) 0x00
    (by simp)) p.val
  refine ⟨_, hexec, ?_, fun hlead => ?_, fun _ => ?_⟩
  · exact (State.rstDone_see (π := State.fltBit g 29) _ _ _ _ (by simp)).trans ((State.fltBit_resetPair ..).trans hbitw)
  · rw [hpair]
    exact hst (hleadw.trans hlead)
  · rw [hpair]
    exact hreset

end

end Sys2Proof.Machine
open Sys2Proof Sys2Proof.Machine

/-- Settles O49: the start by what it samples, the step by what it finds to do, the batch and the candidates as they are
sorted and cut, the cap's table tile by tile, and the heartbeat with the reset of its pair. -/
theorem runtimeStartsStepsAndIsWatched : Obligations.RuntimeStartsStepsAndIsWatched := by
  unfold Obligations.RuntimeStartsStepsAndIsWatched
  refine ⟨fun p s k hlead hon hfw hgo hst => ?_, fun p s h => exec_runtimeStart_not h,
    fun p n rolls rs s k hlead hop hwork => ⟨?_, ?_, ?_, ?_⟩, fun t cap live => ⟨batchOf_length .., fun d => mem_of_mem_batchOf⟩,
    fun recs n => ⟨mergeCands_length_le .., fun c => mem_mergeCands, fun d => pickToken_one ..⟩,
    fun p s k hlead => ⟨?_, ?_⟩, capStep_rows, fun m p v s => ⟨fun h => ⟨?_, ?_⟩, ?_⟩, fun p s g hpart => ⟨?_, ?_⟩⟩
  · intro x at_ free
    obtain ⟨t, hexec, hpair, hothers, htimer⟩ := does_runtimeStart hlead hon hfw hgo hst
    refine ⟨t, hexec, ?_, ?_, ?_, ?_, ?_, ?_, hothers, htimer⟩
    · rw [hpair]; rfl
    · rw [hpair]; rfl
    · rw [hpair]; rfl
    · intro hen
      rw [hpair]
      exact congrArg Prod.fst (if_pos hen)
    · intro hen hblock
      rw [hpair]
      exact congrArg Prod.fst ((if_neg fun h => absurd (hen.symm.trans h) (by decide)).trans (if_pos hblock))
    · intro hen hfree hctx hque
      have hr : s.startSt p.val x at_ = (.running, true) := by
        refine (if_neg fun h => absurd (hen.symm.trans h) (by decide)).trans (if_neg ?_)
        rintro (⟨hnot, howns⟩ | hquota | hquota)
        · exact hfree.elim hnot (by simp [howns])
        · omega
        · omega
      rw [hpair]
      exact ⟨congrArg Prod.fst hr, congrArg Prod.snd hr⟩
  · exact fun u => exec_runtimeStep_recovers n rolls rs hlead hop hwork
  · exact exec_runtimeStep_sleeps n rolls rs hlead hop hwork
  · exact does_runtimeStep_batch n rolls rs hlead hop hwork
  · exact fun f rest hrec hlive hpre hmore => does_runtimeStep_chunk n rolls rs hlead hop hwork hrec hlive hpre hmore
  · exact does_powerCapPeriod hlead
  · exact exec_powerCapPeriod_not hlead
  · exact exec_kprHbWrite_watched v h
  · exact exec_kprHbWrite_unwatched v h
  · exact exec_kprHbWrite_unreached v
  · exact exec_heartbeatMiss_early hpart
  · exact does_heartbeatMiss hpart

end

section
/-!
What observes the device: the tallies, the fog with its freeze and thaw, the ledgers' commands and bursts, and the
watch. It settles O50.
-/
namespace Sys2Proof.Machine
set_option Elab.async false

/-! ## What a ledger's take changes (R397, R408) -/

/-- The state in which a ledger that has taken an offer looks whether to raise a fog. -/
def State.ldgTaken (s : State) (b : BlkId) (o : LdgOut) : State :=
  let u := (s.setLdg (blkKey b) o.l).ldgDropped b o.lost
  if o.held then u.flag b.kind b.unit 0x30 (bit 27) else u

theorem State.ldgTake_eq (s : State) (b : BlkId) (o : LdgOut) : s.ldgTake b o =
    if o.trig ∧ ((s.ldgTaken b o).ldgCfg b).trigFog ∧ (s.ldgTaken b o).cfg .talIo 0 0x30 29 29 = 1 then
      (s.ldgTaken b o).raiseFog 3 else s.ldgTaken b o := rfl

section
variable {α : Type} {π : State → α}

theorem State.ldgTaken_setLdg (s : State) (b : BlkId) (o : LdgOut) (hW : Ign π .blocks ∧ Ign π .tals) :
    see π (s.ldgTaken b o) = see π (s.setLdg (blkKey b) o.l) := by
  have hdrop : see π ((s.setLdg (blkKey b) o.l).ldgDropped b o.lost) = see π (s.setLdg (blkKey b) o.l) :=
    State.ldgDropped_see _ _ _ (by simp [hW])
  unfold State.ldgTaken
  dsimp only
  split
  · exact (State.flag_see _ _ _ _ _ (by simp [hW])).trans hdrop
  · exact hdrop

/-- Where no fog is looked at, a ledger's take is what comes before its fog. -/
theorem State.ldgTake_taken (s : State) (b : BlkId) (o : LdgOut) (hW : Ign π .fog ∧ Ign π .timers ∧ Ign π .out) :
    see π (s.ldgTake b o) = see π (s.ldgTaken b o) := by
  rw [State.ldgTake_eq]
  split
  · exact State.raiseFog_see _ _ (by simp [hW])
  · rfl

end

def State.ldgAt (j : Nat) (s : State) : Ledger := s.ldg j

@[simp] theorem ign_ldgAt {j : Nat} (f : Fld) (h : f ≠ .ldgs) : Ign (State.ldgAt j) f := by
  cases f
  case ldgs => exact absurd rfl h
  all_goals exact fun _ _ => rfl

theorem State.ldg_ldgTake (s : State) (b : BlkId) (o : LdgOut) (j : Nat) :
    (s.ldgTake b o).ldg j = if j = blkKey b then o.l else s.ldg j :=
  (State.ldgTake_taken (π := State.ldgAt j) s b o (by simp)).trans
    ((State.ldgTaken_setLdg (π := State.ldgAt j) s b o (by simp)).trans (State.ldg_setLdg ..))

/-! ## What a count leaves of the tallies (R394, R399) -/

/-- What of a unit's tallies no count changes: all of a frozen unit, and else all but the counts. -/
def TalUnit.kept (u : TalUnit) : TalUnit := if u.frozen then u else { u with counts := [], ovf := [] }

theorem TalUnit.kept_frozen (u : TalUnit) : u.kept.frozen = u.frozen := by
  unfold TalUnit.kept
  split <;> rfl

theorem TalUnit.kept_records (u : TalUnit) : u.kept.stampV = u.stampV ∧ u.kept.fogId = u.fogId ∧ u.kept.stamp = u.stamp ∧
    u.kept.chan = u.chan := by
  unfold TalUnit.kept
  split <;> exact ⟨rfl, rfl, rfl, rfl⟩

theorem TalUnit.eq_of_kept {u v : TalUnit} (h : u.kept = v.kept) (hv : v.frozen = true) : u = v := by
  have hu : u.frozen = true := by rw [← TalUnit.kept_frozen, h, TalUnit.kept_frozen, hv]
  rw [TalUnit.kept, TalUnit.kept, if_pos hu, if_pos hv] at h
  exact h

def State.keptTal (k : Nat) (s : State) : TalUnit := (s.tal k).kept

@[simp] theorem ign_keptTal {k : Nat} (f : Fld) (h : f ≠ .tals) : Ign (State.keptTal k) f := by
  cases f
  case tals => exact absurd rfl h
  all_goals exact fun _ _ => rfl

section
variable {k : Nat}

theorem kept_tallyAdds {u : TalUnit} (hu : u.frozen = false) (l : List Nat) (q : Nat) :
    (l.foldl (fun u i => tallyAdd u i q) u).kept = u.kept := by
  have hstep : ∀ (l : List Nat) (v : TalUnit), v.frozen = false →
      (l.foldl (fun u i => tallyAdd u i q) v).kept = { v with counts := [], ovf := [] } := fun l => by
    induction l with
    | nil => exact fun v hv => if_neg (by simp [hv])
    | cons i l ih => exact fun v hv => ih (tallyAdd v i q) hv
  rw [hstep l u hu, TalUnit.kept, if_neg (by simp [hu])]

theorem State.keptTal_count (s : State) (b : BlkId) (ev q : Nat) (w : Who) :
    see (State.keptTal k) (s.count b ev q w) = see (State.keptTal k) s := by
  unfold State.count
  dsimp only
  split
  case isTrue => rfl
  case isFalse h =>
    have hset : see (State.keptTal k) (s.setTal (blkKey b) ((tallyHits b.kind (s.blk b) ev (s.shown w)).foldl
        (fun u i => tallyAdd u i q) (s.tal (blkKey b)))) = see (State.keptTal k) s := by
      simp only [see, State.keptTal, State.tal_setTal]
      split
      case isTrue hk =>
        subst hk
        exact kept_tallyAdds (Bool.eq_false_iff.2 fun hf => h (.inl hf)) _ _
      case isFalse => rfl
    split
    · exact (State.flag_see _ _ _ _ _ (by simp)).trans hset
    · exact hset

theorem State.keptTal_ldgTake (s : State) (b : BlkId) (o : LdgOut) :
    see (State.keptTal k) (s.ldgTake b o) = see (State.keptTal k) s := by
  have hdrop : see (State.keptTal k) ((s.setLdg (blkKey b) o.l).ldgDropped b o.lost) = see (State.keptTal k) s := by
    unfold State.ldgDropped State.countTile State.countStack
    dsimp only
    split
    · exact State.setLdg_see _ _ _ (by simp)
    · split
      · exact (State.keptTal_count ..).trans ((State.flag_see _ _ _ _ _ (by simp)).trans (State.setLdg_see _ _ _ (by simp)))
      · exact (State.keptTal_count ..).trans ((State.flag_see _ _ _ _ _ (by simp)).trans (State.setLdg_see _ _ _ (by simp)))
  refine (State.ldgTake_taken _ _ _ (by simp)).trans ?_
  unfold State.ldgTaken
  dsimp only
  split
  · exact (State.flag_see _ _ _ _ _ (by simp)).trans hdrop
  · exact hdrop

end

/-! ## What a fog that stands keeps (R397) -/

/-- The fog stands: it has this number, and these units are still to be reached. -/
def State.FogStands (id : Byte) (reach : List BlkId) (s : State) : Prop :=
  s.fog.fogged = true ∧ s.fog.id = id ∧ s.fog.reach = reach

theorem State.FogStands.of_fog {id : Byte} {reach : List BlkId} {s t : State} (h : t.fog = s.fog) (hs : s.FogStands id reach) :
    t.FogStands id reach := by
  unfold State.FogStands
  rw [h]
  exact hs

theorem State.FogStands.raiseFog {id : Byte} {reach : List BlkId} {s : State} (hs : s.FogStands id reach) (src : BitVec 3) :
    (s.raiseFog src).FogStands id reach := by
  obtain ⟨hfog, hid, hreach⟩ := hs
  rw [State.raiseFog, if_pos hfog]
  exact ⟨hfog, hid, hreach⟩

theorem State.ldgTaken_fog (s : State) (b : BlkId) (o : LdgOut) : (s.ldgTaken b o).fog = s.fog :=
  State.ldgTaken_setLdg (π := State.fog) s b o (by simp)

theorem State.commOf_ldgTaken (c : BlkId) (s : State) (b : BlkId) (o : LdgOut) :
    see (State.commOf c) (s.ldgTaken b o) = see (State.commOf c) s := by
  have hdrop : see (State.commOf c) ((s.setLdg (blkKey b) o.l).ldgDropped b o.lost) = see (State.commOf c) s := by
    unfold State.ldgDropped State.countTile State.countStack
    dsimp only
    split
    · rfl
    · split
      · exact (State.commOf_count ..).trans (State.commOf_flag ..)
      · exact (State.commOf_count ..).trans (State.commOf_flag ..)
  unfold State.ldgTaken
  dsimp only
  split
  · exact (State.commOf_flag ..).trans hdrop
  · exact hdrop

theorem State.FogStands.ldgTake {id : Byte} {reach : List BlkId} {s : State} (hs : s.FogStands id reach) (b : BlkId)
    (o : LdgOut) : (s.ldgTake b o).FogStands id reach := by
  rw [State.ldgTake_eq]
  split
  · exact (hs.of_fog (s.ldgTaken_fog b o)).raiseFog 3
  · exact hs.of_fog (s.ldgTaken_fog b o)

/-- No fog is raised by a ledger whose LDG_EN is 0 (R397). -/
theorem State.ldgTake_fog {s : State} (b : BlkId) (o : LdgOut) (h : s.cfg .talIo 0 0x30 29 29 = 0) :
    (s.ldgTake b o).fog = s.fog := by
  have hcfg : (s.ldgTaken b o).cfg .talIo 0 0x30 29 29 = 0 := (State.cfg_of_commOf (State.commOf_ldgTaken _ s b o) ..).trans h
  rw [State.ldgTake_eq, if_neg fun hc => by omega]
  exact s.ldgTaken_fog b o

theorem State.commOf_ldgTake (c : BlkId) (s : State) (b : BlkId) (o : LdgOut) :
    see (State.commOf c) (s.ldgTake b o) = see (State.commOf c) s :=
  (State.ldgTake_taken _ _ _ (by simp)).trans (State.commOf_ldgTaken ..)

/-! ## What records and a ledger's freeze and thaw keep -/

section
variable {P : State → Prop} {b : BlkId} (htake : ∀ s o, P s → P (s.ldgTake b o))
include htake

/-- What a ledger's take keeps, a record keeps. -/
theorem State.ledger_keeps {s : State} (h : P s) (w : Who) (typ src x y : Nat) : P (s.ledger b w typ src x y) := by
  unfold State.ledger
  dsimp only
  split
  · exact h
  · exact htake _ _ h

variable (hset : ∀ s l, P s → P (s.setLdg (blkKey b) l))
include hset

theorem State.ledgerFog_keeps {s : State} (h : P s) : P (s.ledgerFog b) := by
  unfold State.ledgerFog State.ldgTrigger
  dsimp only
  split
  · exact h
  split
  · split
    · exact htake _ _ h
    · exact h
  · exact hset _ _ (State.ledger_keeps htake h ..)

theorem State.ledgerThaw_keeps {s : State} (h : P s) : P (s.ledgerThaw b) := by
  unfold State.ledgerThaw
  dsimp only
  split
  · exact State.ledger_keeps htake (hset _ _ h) ..
  · exact h

end

theorem State.keptTal_ledgerFog (s : State) (b : BlkId) (k : Nat) : (s.ledgerFog b).keptTal k = s.keptTal k :=
  State.ledgerFog_keeps (P := fun t => t.keptTal k = s.keptTal k) (fun t o h => (State.keptTal_ldgTake t b o).trans h)
    (fun _ _ h => (State.setLdg_see (π := State.keptTal k) _ _ _ (by simp)).trans h) rfl

theorem State.FogStands.ledgerFog {id : Byte} {reach : List BlkId} {s : State} (hs : s.FogStands id reach) (b : BlkId) :
    (s.ledgerFog b).FogStands id reach :=
  State.ledgerFog_keeps (fun _ _ h => h.ldgTake ..) (fun _ _ h => h.of_fog rfl) hs

/-- A ledger that records and does not take the fog for a trigger is frozen by it (R410). -/
theorem State.ldg_ledgerFog {s : State} {b : BlkId} (hact : (s.ldgCfg b).fogAct = false)
    (hst : (s.ldg (blkKey b)).st = .recording) : ((s.ledgerFog b).ldg (blkKey b)).st = .frozen := by
  unfold State.ledgerFog
  dsimp only
  rw [if_neg (by simp [hst, ldgBusy]), if_neg (by simp [hact]), State.ldg_setLdg, if_pos rfl]

/-! ## Offers leave a ledger that is not frozen unfrozen (R407, R410) -/

theorem ldgPut_not_frozen {c : LdgCfg} {stamp : W64} {l : Ledger} {r : List W64} (h : l.st ≠ .frozen) :
    (ldgPut c stamp l r).st ≠ .frozen := by
  unfold ldgPut
  dsimp only
  split
  · exact fun h => nomatch h
  split
  · exact fun h => nomatch h
  · exact h

theorem ldgOne_not_frozen {c : LdgCfg} {stamp : W64} {l : Ledger} {r : List W64} (h : l.st ≠ .frozen) :
    (ldgOne c stamp l r).l.st ≠ .frozen := by
  unfold ldgOne
  split
  case h_5 hst => exact absurd hst h
  case h_6 =>
    split
    · split
      · exact h
      · exact h
    · exact ldgPut_not_frozen h
  all_goals exact h

theorem ldgTrig_not_frozen {c : LdgCfg} {stamp : W64} {l : Ledger} {why : Nat} (h : l.st ≠ .frozen) :
    (ldgTrig c stamp l why).l.st ≠ .frozen := by
  unfold ldgTrig
  split
  · exact h
  · refine ldgOne_not_frozen ?_
    dsimp only
    split
    · exact fun h => nomatch h
    · exact h

theorem ldgOffer1_not_frozen {c : LdgCfg} {stamp : W64} {l : Ledger} {w : Who} {typ : Nat} {r : List W64} (h : l.st ≠ .frozen) :
    (ldgOffer1 c stamp l w typ r).l.st ≠ .frozen := by
  unfold ldgOffer1
  dsimp only
  split
  · exact ldgTrig_not_frozen (ldgOne_not_frozen h)
  · exact ldgOne_not_frozen h

theorem ldgOffer_not_frozen {c : LdgCfg} {stamp : W64} {l : Ledger} {w : Who} {typ : Nat} {r : List W64} (h : l.st ≠ .frozen) :
    (ldgOffer c stamp l w typ r).l.st ≠ .frozen := by
  unfold ldgOffer
  split
  · split
    · split
      · exact h
      · exact h
    · exact ldgOffer1_not_frozen (ldgOffer1_not_frozen h)
  · exact ldgOffer1_not_frozen h

theorem State.ledger_not_frozen {s : State} {b : BlkId} {k : Nat} (h : (s.ldg k).st ≠ .frozen) (w : Who) (typ src x y : Nat) :
    ((s.ledger b w typ src x y).ldg k).st ≠ .frozen := by
  unfold State.ledger
  dsimp only
  split
  · exact h
  · rw [State.ldg_ldgTake]
    split
    case isTrue hk => exact ldgOffer_not_frozen (hk ▸ h)
    case isFalse => exact h

/-! ## The thaw (R400, R410) -/

/-- A frozen ledger that recorded before is no longer frozen after its thaw, and no other one is frozen by it. -/
theorem State.ledgerThaw_not_frozen {s : State} {k : Nat} (h : (s.ldg k).st = .frozen → (s.ldg k).before = .recording)
    (b : BlkId) (hb : blkKey b = k ∨ (s.ldg k).st ≠ .frozen) : ((s.ledgerThaw b).ldg k).st ≠ .frozen := by
  unfold State.ledgerThaw
  dsimp only
  split
  case isTrue hst =>
    refine State.ledger_not_frozen (k := k) ?_ _ _ _ _ _
    rw [State.ldg_setLdg]
    split
    case isTrue hk =>
      subst hk
      rw [h hst]
      exact fun h => nomatch h
    case isFalse hk => exact hb.resolve_left fun hb => hk hb.symm
  case isFalse hst => exact hb.elim (fun hb => hb ▸ hst) id

theorem State.ldg_ledgerThaw_other (s : State) {b : BlkId} {k : Nat} (hk : k ≠ blkKey b) : (s.ledgerThaw b).ldg k = s.ldg k :=
  State.ledgerThaw_keeps (P := fun t => t.ldg k = s.ldg k)
    (fun t o h => (State.ldg_ldgTake t b o k).trans ((if_neg hk).trans h))
    (fun _ _ h => (State.ldg_setLdg ..).trans ((if_neg hk).trans h)) rfl

theorem ledgerThaws_not_frozen {k : Nat} (bs : List BlkId) : ∀ s : State,
    ((s.ldg k).st = .frozen → (s.ldg k).before = .recording) → (k ∈ bs.map blkKey ∨ (s.ldg k).st ≠ .frozen) →
    ((bs.foldl (fun s b => s.ledgerThaw b) s).ldg k).st ≠ .frozen := by
  induction bs with
  | nil => exact fun s _ hk => hk.resolve_left (by simp)
  | cons b bs ih =>
    intro s h hk
    by_cases hb : blkKey b = k
    · have hst := State.ledgerThaw_not_frozen h b (.inl hb)
      exact ih _ (fun hf => absurd hf hst) (.inr hst)
    · have hl := s.ldg_ledgerThaw_other (Ne.symm hb)
      refine ih _ (by rwa [hl]) ?_
      rw [hl]
      exact hk.imp_left fun hk => (List.mem_cons.1 hk).resolve_left (Ne.symm hb)

/-- What a thaw starts from: FOGGED is clear and every unit counts again. -/
def State.thawed (s : State) : State := { s with
  fog := { s.fog with fogged := false, reach := [] }
  tals := (s.tals.map (fun u => (u.1, { u.2 with frozen := false }))).filter (fun u => decide (u.2 ≠ .reset)) }

theorem State.keptTal_ledgerThaw (s : State) (b : BlkId) (k : Nat) : (s.ledgerThaw b).keptTal k = s.keptTal k :=
  State.ledgerThaw_keeps (P := fun t => t.keptTal k = s.keptTal k) (fun t o h => (State.keptTal_ldgTake t b o).trans h)
    (fun _ _ h => (State.setLdg_see (π := State.keptTal k) _ _ _ (by simp)).trans h) rfl

theorem State.keptTal_thaw (s : State) (k : Nat) : s.thaw.keptTal k = s.thawed.keptTal k := by
  have hfold : ∀ bs : List BlkId, (bs.foldl (fun s b => s.ledgerThaw b) s.thawed).keptTal k = s.thawed.keptTal k := fun bs =>
    foldl_see (π := State.keptTal k) _ (fun u b => u.keptTal_ledgerThaw b k) bs s.thawed
  exact hfold ledgerBlocks

theorem SMap.get_frozen_map {m : SMap TalUnit} (k : Nat) :
    (SMap.get TalUnit.reset ((m.map (fun u => (u.1, { u.2 with frozen := false }))).filter
      (fun u => decide (u.2 ≠ TalUnit.reset))) k).frozen = false := by
  induction m with
  | nil => rfl
  | cons e m ih =>
    rw [List.map_cons, List.filter_cons]
    split
    · rw [SMap.get]
      split
      · rfl
      · exact ih
    · exact ih

theorem SMap.get_of_above {α : Type} [DecidableEq α] {d : α} {m : SMap α} {b k : Nat}
    (h : SMap.wfAbove d (some b) m = true) (hk : k ≤ b) : SMap.get d m k = d := by
  induction m generalizing b with
  | nil => rfl
  | cons e m ih =>
    simp only [SMap.wfAbove, Bool.and_eq_true, decide_eq_true_eq] at h
    obtain ⟨⟨hlt, -⟩, hm⟩ := h
    rw [SMap.get, if_neg (by omega)]
    exact ih hm (by omega)

/-- In a canonical table, entries that have become the default may be taken out. -/
theorem SMap.get_mapValues_filter {α : Type} [DecidableEq α] {d : α} {f : α → α} (hd : f d = d) {m : SMap α}
    (h : SMap.wf d m = true) (k : Nat) :
    SMap.get d ((m.map (fun e => (e.1, f e.2))).filter (fun e => decide (e.2 ≠ d))) k = f (SMap.get d m k) := by
  induction m with
  | nil => exact hd.symm
  | cons e m ih =>
    obtain ⟨i, v⟩ := e
    simp only [SMap.wf, SMap.wfAbove, Bool.and_eq_true, decide_eq_true_eq] at h
    obtain ⟨-, hm⟩ := h
    have hrest := ih (SMap.wf_of_above _ _ _ hm)
    rw [List.map_cons, List.filter_cons]
    by_cases hk : k = i
    · subst hk
      have hv : SMap.get d ((k, v) :: m) k = v := if_pos rfl
      rw [SMap.get_of_above hm le_rfl, hd] at hrest
      by_cases hf : f v = d
      · rw [if_neg (by simp [hf]), hrest, hv, hf]
      · rw [if_pos (by simp [hf]), SMap.get, if_pos rfl, hv]
    · have hv : SMap.get d ((i, v) :: m) k = SMap.get d m k := if_neg hk
      rw [hv]
      split
      · rw [SMap.get, if_neg hk, hrest]
      · exact hrest

theorem State.thaw_fog {s : State} (h : s.cfg .talIo 0 0x30 29 29 = 0) : s.thaw.fog = s.thawed.fog := by
  have hstep : ∀ (bs : List BlkId) (u : State), u.cfg .talIo 0 0x30 29 29 = 0 →
      (bs.foldl (fun s b => s.ledgerThaw b) u).fog = u.fog := fun bs => by
    induction bs with
    | nil => exact fun _ _ => rfl
    | cons b bs ih =>
      intro u hu
      obtain ⟨hcfg, hfog⟩ : (u.ledgerThaw b).cfg .talIo 0 0x30 29 29 = 0 ∧ (u.ledgerThaw b).fog = u.fog :=
        State.ledgerThaw_keeps (P := fun t => t.cfg .talIo 0 0x30 29 29 = 0 ∧ t.fog = u.fog)
          (fun t o ht => ⟨(State.cfg_of_commOf (State.commOf_ldgTake _ t b o) ..).trans ht.1,
            (State.ldgTake_fog b o ht.1).trans ht.2⟩)
          (fun t l ht => ht) ⟨hu, rfl⟩
      exact (ih _ hcfg).trans hfog
  unfold State.thaw
  dsimp only
  exact hstep ledgerBlocks s.thawed h

theorem does_thaw {m : Master} {s : State} (hmay : s.mayWrite m ⟨.talIo, 0⟩ 0x34 = true) :
    Does (.thaw m) s (fun t => (∀ k, (t.tal k).frozen = false) ∧
      (s.cfg .talIo 0 0x30 29 29 = 0 → t.fog.fogged = false ∧ t.fog.id = s.fog.id) ∧
      (SMap.wf .reset s.tals = true → ∀ k, (t.tal k).stamp = (s.tal k).stamp ∧ (t.tal k).chan = (s.tal k).chan) ∧
      (∀ b ∈ ledgerBlocks, (s.ldg (blkKey b)).st = .frozen → (s.ldg (blkKey b)).before = .recording →
        (t.ldg (blkKey b)).st ≠ .frozen)) := by
  have hkept : ∀ k, (s.thaw.tal k).kept = (s.thawed.tal k).kept := fun k => s.keptTal_thaw k
  refine ⟨s.thaw, congrArg Host.Outcome.next (if_pos hmay), fun k => ?_, fun hcfg => ?_, fun hwf k => ?_,
    fun b hb hst hbefore => ?_⟩
  · rw [← TalUnit.kept_frozen, hkept, TalUnit.kept_frozen]
    exact SMap.get_frozen_map k
  · rw [State.thaw_fog hcfg]
    exact ⟨rfl, rfl⟩
  · obtain ⟨-, -, hstamp, hchan⟩ := (s.thaw.tal k).kept_records
    obtain ⟨-, -, hstamp', hchan'⟩ := (s.thawed.tal k).kept_records
    have htal : s.thawed.tal k = { s.tal k with frozen := false } :=
      SMap.get_mapValues_filter (f := fun u : TalUnit => { u with frozen := false }) rfl hwf k
    rw [← hstamp, ← hchan, hkept, hstamp', hchan', htal]
    exact ⟨rfl, rfl⟩
  · unfold State.thaw
    dsimp only
    exact ledgerThaws_not_frozen ledgerBlocks s.thawed (fun _ => hbefore) (.inl (List.mem_map_of_mem hb))

/-! ## Tallies are cleared (R396) -/

/-- A unit's tallies with those of a list cleared. -/
def TalUnit.clear (u : TalUnit) (is : List Nat) : TalUnit :=
  is.foldl (fun u i => { u with counts := SMap.set 0 u.counts i 0, ovf := SMap.set false u.ovf i false }) u

theorem TalUnit.clear_spec (is : List Nat) : ∀ u : TalUnit,
    (∀ i, SMap.get 0 (u.clear is).counts i = if i ∈ is then 0 else SMap.get 0 u.counts i) ∧
    (∀ i, SMap.get false (u.clear is).ovf i = if i ∈ is then false else SMap.get false u.ovf i) ∧
    (u.clear is).frozen = u.frozen := by
  induction is with
  | nil => exact fun u => ⟨fun i => by simp [TalUnit.clear], fun i => by simp [TalUnit.clear], rfl⟩
  | cons j is ih =>
    intro u
    obtain ⟨hcounts, hovf, hfrozen⟩ :=
      ih { u with counts := SMap.set 0 u.counts j 0, ovf := SMap.set false u.ovf j false }
    refine ⟨fun i => (hcounts i).trans ?_, fun i => (hovf i).trans ?_, hfrozen⟩
    · rw [SMap.get_set]
      by_cases h : i ∈ is <;> by_cases hj : i = j <;> simp [h, hj]
    · rw [SMap.get_set]
      by_cases h : i ∈ is <;> by_cases hj : i = j <;> simp [h, hj]

theorem does_talClear {m : Master} {b : BlkId} (first n : BitVec 8) {s : State} (hkind : isTal b.kind = true)
    (hunit : b.unit < unitCount b.kind) (hmay : s.mayWrite m b 0x10 = true) :
    Does (.talClear m b first n) s (fun t =>
      (∀ i, SMap.get 0 (t.tal (blkKey b)).counts i = if first.toNat ≤ i ∧ i ≤ first.toNat + n.toNat ∧ i < tallyCount b.kind ∧
        s.tallyHidden m b i = false then 0 else SMap.get 0 (s.tal (blkKey b)).counts i) ∧
      (∀ i, SMap.get false (t.tal (blkKey b)).ovf i = if first.toNat ≤ i ∧ i ≤ first.toNat + n.toNat ∧
        i < tallyCount b.kind ∧ s.tallyHidden m b i = false then false else SMap.get false (s.tal (blkKey b)).ovf i) ∧
      (t.tal (blkKey b)).frozen = (s.tal (blkKey b)).frozen ∧ (∀ j, j ≠ blkKey b → t.tal j = s.tal j) ∧
      t.except [.tals] = s.except [.tals]) := by
  obtain ⟨is, his⟩ : ∃ is, ((List.range (n.toNat + 1)).map (first.toNat + ·)).filter
      (fun i => decide (i < tallyCount b.kind) && !s.tallyHidden m b i) = is := ⟨_, rfl⟩
  have hmem : ∀ i, i ∈ is ↔ first.toNat ≤ i ∧ i ≤ first.toNat + n.toNat ∧ i < tallyCount b.kind ∧
      s.tallyHidden m b i = false := fun i => by
    rw [← his, List.mem_filter, List.mem_map]
    simp only [List.mem_range, Bool.and_eq_true, decide_eq_true_eq, Bool.not_eq_true']
    constructor
    · rintro ⟨⟨j, hj, rfl⟩, hlt, hhid⟩
      exact ⟨by omega, by omega, hlt, hhid⟩
    · rintro ⟨hlo, hhi, hlt, hhid⟩
      exact ⟨⟨i - first.toNat, by omega, by omega⟩, hlt, hhid⟩
  obtain ⟨hcounts, hovf, hfrozen⟩ := TalUnit.clear_spec is (s.tal (blkKey b))
  have hset : ∀ j, (s.setTal (blkKey b) ((s.tal (blkKey b)).clear is)).tal j =
      if j = blkKey b then (s.tal (blkKey b)).clear is else s.tal j := fun j => State.tal_setTal ..
  refine ⟨s.setTal (blkKey b) ((s.tal (blkKey b)).clear is), ?_, fun i => ?_, fun i => ?_, ?_,
    fun j hj => (hset j).trans (if_neg hj), rfl⟩
  · rw [← his]
    exact (if_pos (by simp [hkind, hunit])).trans (congrArg Host.Outcome.next (if_neg (by simp [hmay])))
  · rw [hset, if_pos rfl, hcounts]
    simp only [hmem]
  · rw [hset, if_pos rfl, hovf]
    simp only [hmem]
  · rw [hset, if_pos rfl, hfrozen]

/-! ## The fog is raised (R397, R398) -/

theorem State.raiseFog_raised {s : State} {src : BitVec 3} (h : s.fog.fogged = false) :
    (s.raiseFog src).fog.fogged = true ∧ (s.raiseFog src).fog.source = src ∧
    (s.raiseFog src).fog.id = (if s.fog.id = 0xFF then 1 else s.fog.id + 1) ∧ (s.raiseFog src).fog.reach = s.fogUnits ∧
    (s.cfg .talIo 0 0x30 30 30 = 1 → (s.raiseFog src).timerRuns .fogOut = true ∧ .fogOut true ∈ (s.raiseFog src).out) := by
  unfold State.raiseFog
  rw [if_neg (by simp [h])]
  dsimp only
  by_cases hout : s.cfg .talIo 0 0x30 30 30 = 1
  · rw [if_pos (by simp [hout])]
    exact ⟨rfl, rfl, rfl, rfl, fun _ => ⟨State.timerRuns_startTimer .., List.mem_append_right _ (List.mem_singleton_self _)⟩⟩
  · rw [if_neg (by simp [hout])]
    exact ⟨rfl, rfl, rfl, rfl, fun h => absurd h hout⟩

theorem does_fogInEdge {n : Nat} {s : State} (haux : s.pwr.aux = true) (hen : s.cfg .talIo 0 0x30 31 31 = 1) (hlo : 5 ≤ n)
    (hhi : n < 20) : Does (.fogInEdge n) s (fun t => t = (s.draw 1).2.raiseFog 0 ∨ t = (s.draw 1).2) := by
  have hin : ¬ (¬ s.pwr.aux ∨ s.cfg .talIo 0 0x30 31 31 = 0 ∨ n < 5) := by
    rw [hen]
    simp [haux, hlo]
  refine ⟨_, congrArg Host.Outcome.next ((if_neg hin).trans (if_neg (by omega))), ?_⟩
  dsimp only
  split
  · exact .inl rfl
  · exact .inr rfl

theorem exec_fogInEdge_raises {n : Nat} {s : State} (haux : s.pwr.aux = true) (hen : s.cfg .talIo 0 0x30 31 31 = 1)
    (hlo : 20 ≤ n) : exec (.fogInEdge n) s = .next (s.raiseFog 0) := by
  have hin : ¬ (¬ s.pwr.aux ∨ s.cfg .talIo 0 0x30 31 31 = 0 ∨ n < 5) := by
    rw [hen]
    simp [haux]
    omega
  exact congrArg Host.Outcome.next ((if_neg hin).trans (if_pos hlo))

theorem exec_fogInEdge_not {n : Nat} {s : State} (h : s.pwr.aux = false ∨ s.cfg .talIo 0 0x30 31 31 = 0 ∨ n < 5) :
    exec (.fogInEdge n) s = .next s :=
  congrArg Host.Outcome.next (if_pos (h.imp_left (by simp [·])))

/-! ## A unit freezes (R399, R415) -/

theorem SMap.get_set_fold {α β : Type} [DecidableEq α] (d : α) (f : β → α) {l : List (Nat × β)}
    (hl : (l.map (·.1)).Nodup) : ∀ (m : SMap α), ∀ e ∈ l,
    SMap.get d (l.foldl (fun m e => SMap.set d m e.1 (f e.2)) m) e.1 = f e.2 := by
  have hother : ∀ (l : List (Nat × β)) (m : SMap α) (j : Nat), j ∉ l.map (·.1) →
      SMap.get d (l.foldl (fun m e => SMap.set d m e.1 (f e.2)) m) j = SMap.get d m j := fun l => by
    induction l with
    | nil => exact fun _ _ _ => rfl
    | cons e l ih =>
      intro m j hj
      simp only [List.map_cons, List.mem_cons, not_or] at hj
      exact (ih _ j hj.2).trans ((SMap.get_set ..).trans (if_neg hj.1))
  induction l with
  | nil => exact fun _ _ he => absurd he List.not_mem_nil
  | cons x l ih =>
    obtain ⟨hx, hl⟩ := List.nodup_cons.1 hl
    intro m e he
    rcases List.mem_cons.1 he with rfl | he
    · exact (hother l _ _ hx).trans (SMap.get_set_self ..)
    · exact ih hl _ e he

theorem chanEnds_nodup (b : BlkId) : ((chanEnds b).map (·.1)).Nodup := by
  unfold chanEnds
  split
  · split <;> simp
  · split <;> simp
  · split <;> simp
  · split <;> simp
  · simp
  · simp

theorem wchKey_inj {t v w : Nat} (h : wchKey t v = wchKey t w) : v = w := by
  unfold wchKey at h
  omega

def State.wchAt (j : Nat) (s : State) : WatchSlot := s.wch j

@[simp] theorem ign_wchAt {j : Nat} (f : Fld) (h : f ≠ .wchs) : Ign (State.wchAt j) f := by
  cases f
  case wchs => exact absurd rfl h
  all_goals exact fun _ _ => rfl

/-- Work on the four watch slots of a tile that changes each by itself. -/
theorem wch_fold {f : State → Nat → State} {φ : Nat → WatchSlot → WatchSlot} {t : Nat}
    (hf : ∀ s w v, (f s w).wch (wchKey t v) = if v = w then φ w (s.wch (wchKey t v)) else s.wch (wchKey t v)) (s : State)
    {w : Nat} (hw : w < 4) : (([0, 1, 2, 3] : List Nat).foldl f s).wch (wchKey t w) = φ w (s.wch (wchKey t w)) := by
  have hone : ∀ s j, (f s j).wchAt (wchKey t w) = if w = j then φ w (s.wchAt (wchKey t w)) else s.wchAt (wchKey t w) :=
    fun s j => (hf s j w).trans (by
      split
      · subst w
        rfl
      · rfl)
  exact (foldl_once (π := State.wchAt (wchKey t w)) hone (by decide : ([0, 1, 2, 3] : List Nat).Nodup) s).trans
    (if_pos (by simp; omega))

theorem State.wch_watchSnap (s : State) (t w v : Nat) : (s.watchSnap t w).wch (wchKey t v) =
    if v = w then { s.wch (wchKey t v) with snap := (s.wch (wchKey t v)).acc } else s.wch (wchKey t v) := by
  unfold State.watchSnap
  dsimp only
  rw [State.wch_setWch]
  by_cases h : v = w
  · subst h
    rw [if_pos rfl, if_pos rfl]
  · rw [if_neg fun hk => h (wchKey_inj hk), if_neg h]

/-- A unit whose freeze edge is recorded, before its ledger meets it. -/
def State.frozenAt (s : State) (b : BlkId) : State :=
  let u := { s with fog := { s.fog with reach := s.fog.reach.erase b } }
  let x := s.tal (blkKey b)
  u.setTal (blkKey b) { x with
    chan := (chanEnds b).foldl (fun m e => SMap.set (0, 0) m e.1 (s.endCounts e.2)) x.chan
    frozen := true, stampV := true, fogId := s.fog.id, stamp := s.cycle (islandCode (s.talIsland b)) }

/-- What follows in a unit's ledger and its watch. -/
def State.fogNotes (s : State) (b : BlkId) : State :=
  match b.kind with
  | .talTile => [0, 1, 2, 3].foldl (fun s w => s.watchSnap b.unit w) (s.ledgerFog ⟨.ldgTile, b.unit⟩)
  | .talStack => s.ledgerFog ⟨.ldgStack, b.unit⟩
  | _ => s

theorem exec_fogFreeze_on {b : BlkId} {s : State} (hb : b ∈ s.fog.reach) (hon : s.talOn b = true) :
    exec (.fogFreeze b) s = .next ((s.frozenAt b).fogNotes b) := by
  obtain ⟨u, hu⟩ : ∃ u, ({ s with fog := { s.fog with reach := s.fog.reach.erase b } } : State) = u := ⟨_, rfl⟩
  have hon' : u.talOn b = true := by
    rw [← hu]
    exact hon
  have hends : (chanEnds b).filter (fun e => true || decide (e.1 ≠ 7)) = chanEnds b := by simp
  refine congrArg Host.Outcome.next ((if_neg (by simp [hb])).trans ?_)
  dsimp only
  rw [hu, hon', hends, if_neg (by simp)]
  subst hu
  rfl

theorem State.fogNotes_kept (s : State) (b : BlkId) (k : Nat) : (s.fogNotes b).keptTal k = s.keptTal k := by
  unfold State.fogNotes
  split
  · exact (foldl_see (π := State.keptTal k) _ (fun u w => State.watchSnap_see _ _ _ (by simp)) _ _).trans
      (State.keptTal_ledgerFog ..)
  · exact State.keptTal_ledgerFog ..
  · rfl

theorem State.FogStands.fogNotes {id : Byte} {reach : List BlkId} {s : State} (hs : s.FogStands id reach) (b : BlkId) :
    (s.fogNotes b).FogStands id reach := by
  unfold State.fogNotes
  split
  · exact (hs.ledgerFog _).of_fog (foldl_see (π := State.fog) _ (fun u w => State.watchSnap_see _ _ _ (by simp)) _ _)
  · exact hs.ledgerFog _
  · exact hs

theorem does_fogFreeze_on {b : BlkId} {s : State} (hb : b ∈ s.fog.reach) (hfog : s.fog.fogged = true)
    (hon : s.talOn b = true) : Does (.fogFreeze b) s (fun t =>
      t.fog.reach = s.fog.reach.erase b ∧ (t.tal (blkKey b)).frozen = true ∧ (t.tal (blkKey b)).stampV = true ∧
      (t.tal (blkKey b)).fogId = s.fog.id ∧ (t.tal (blkKey b)).stamp = s.cycle (islandCode (s.talIsland b)) ∧
      (t.tal (blkKey b)).counts = (s.tal (blkKey b)).counts ∧
      (∀ e ∈ chanEnds b, SMap.get (0, 0) (t.tal (blkKey b)).chan e.1 = s.endCounts e.2) ∧
      (b.kind = .talTile → ∀ w, w < 4 → (t.wch (wchKey b.unit w)).snap = (s.wch (wchKey b.unit w)).acc) ∧
      (b.kind = .talTile → (s.ldgCfg ⟨.ldgTile, b.unit⟩).fogAct = false →
        (s.ldg (blkKey ⟨.ldgTile, b.unit⟩)).st = .recording →
        (t.ldg (blkKey ⟨.ldgTile, b.unit⟩)).st = .frozen)) := by
  obtain ⟨x, hx⟩ : ∃ x, (s.frozenAt b).tal (blkKey b) = x := ⟨_, rfl⟩
  have hself : (s.frozenAt b).tal (blkKey b) = { s.tal (blkKey b) with
      chan := (chanEnds b).foldl (fun m e => SMap.set (0, 0) m e.1 (s.endCounts e.2)) (s.tal (blkKey b)).chan
      frozen := true, stampV := true, fogId := s.fog.id, stamp := s.cycle (islandCode (s.talIsland b)) } :=
    SMap.get_set_self ..
  have htal : ((s.frozenAt b).fogNotes b).tal (blkKey b) = x := by
    rw [← hx]
    exact TalUnit.eq_of_kept (State.fogNotes_kept ..) (by rw [hself])
  have hstands : (s.frozenAt b).FogStands s.fog.id (s.fog.reach.erase b) := ⟨hfog, rfl, rfl⟩
  refine ⟨_, exec_fogFreeze_on hb hon, (hstands.fogNotes b).2.2, ?_⟩
  rw [htal, ← hx, hself]
  refine ⟨rfl, rfl, rfl, rfl, rfl, fun e he => SMap.get_set_fold _ _ (chanEnds_nodup b) _ e he, fun hkind w hw => ?_,
    fun hkind hact hst => ?_⟩
  · unfold State.fogNotes
    rw [hkind]
    have hfog : ((s.frozenAt b).ledgerFog ⟨.ldgTile, b.unit⟩).wch (wchKey b.unit w) = s.wch (wchKey b.unit w) :=
      State.ledgerFog_see (π := State.wchAt (wchKey b.unit w)) _ _ (by simp)
    dsimp only
    rw [wch_fold (φ := fun _ x => { x with snap := x.acc }) (fun s w v => s.wch_watchSnap b.unit w v) _ hw, hfog]
  · unfold State.fogNotes
    rw [hkind]
    exact (congrArg Ledger.st (foldl_see (π := State.ldgAt (blkKey ⟨.ldgTile, b.unit⟩)) _
      (fun u w => State.watchSnap_see _ _ _ (by simp)) _ _)).trans (State.ldg_ledgerFog hact hst)

theorem does_fogFreeze_off {b : BlkId} {s : State} (hb : b ∈ s.fog.reach) (hoff : s.talOn b = false) :
    Does (.fogFreeze b) s (fun t => t.fog.reach = s.fog.reach.erase b ∧
      (t.tal (blkKey b)).frozen = (s.tal (blkKey b)).frozen ∧ (t.tal (blkKey b)).stamp = (s.tal (blkKey b)).stamp ∧
      t.except [.fog, .tals] = s.except [.fog, .tals]) := by
  refine ⟨_, congrArg Host.Outcome.next ((if_neg (by simp [hb])).trans (if_pos (Bool.eq_false_iff.1 hoff))), ?_⟩
  split
  · rw [State.tal_setTal, if_pos rfl]
    exact ⟨rfl, rfl, rfl, rfl⟩
  · exact ⟨rfl, rfl, rfl, rfl⟩

/-! ## Ledger commands (R407, R408, R411) -/

theorem exec_ldgTrigger {m : Master} {b : BlkId} (s : State) (hb : isLdg b = true) :
    exec (.ldgTrigger m b) s = .next (if s.mayWrite m b 0x2C then s.ldgTrigger b 1 else s) := if_pos hb

theorem State.ldgTrigger_busy {s : State} {b : BlkId} {why : Nat} (hen : (s.ldgCfg b).en = true)
    (hbusy : ldgBusy (s.ldg (blkKey b)).st = true) :
    s.ldgTrigger b why = s.ldgTake b (ldgTrig (s.ldgCfg b) (s.ldgStamp b) (s.ldg (blkKey b)) why) := if_pos ⟨hen, hbusy⟩

theorem State.ldgTrigger_idle {s : State} {b : BlkId} {why : Nat}
    (h : (s.ldgCfg b).en = false ∨ ldgBusy (s.ldg (blkKey b)).st = false) : s.ldgTrigger b why = s :=
  if_neg fun hc => by simp [hc] at h

/-- The ledger that a trigger has reached, its TRIGGER record aside (R407). -/
def Ledger.triggered (l : Ledger) (c : LdgCfg) : Ledger :=
  { l with trigged := true, trigAt := l.wcount, st := if c.mode = 2 ∧ l.st = .recording then .triggered else l.st }

def triggerRecord (stamp : W64) (l : Ledger) (why : Nat) : List W64 :=
  [stamp, BitVec.ofNat 64 (ldgR1 nobody 0x0E 0x80), BitVec.ofNat 64 l.wcount.toNat, BitVec.ofNat 64 why]

theorem ldgTrig_eq {c : LdgCfg} {stamp : W64} {l : Ledger} {why : Nat} (h : l.trigged = false) : ldgTrig c stamp l why =
    { ldgOne c stamp (l.triggered c) (triggerRecord stamp l why) with trig := true } := if_neg (by simp [h])

theorem Ledger.triggered_busy {l : Ledger} {c : LdgCfg} (h : ldgBusy l.st = true) : ldgBusy (l.triggered c).st = true := by
  unfold Ledger.triggered
  dsimp only
  split
  · rfl
  · exact h

/-- A busy ledger's answer to a record. -/
theorem ldgOne_busy {c : LdgCfg} {stamp : W64} {l : Ledger} {r : List W64} (h : ldgBusy l.st = true) : ldgOne c stamp l r =
    if l.short c stamp 1 then
      (if c.lossless then ⟨{ l with held := l.held ++ [r] }, 0, true, false⟩
       else ⟨{ l.lose 1 with lostNow := l.lostNow + 1 }, 1, false, false⟩)
    else ⟨ldgPut c stamp l r, 0, false, false⟩ := by
  cases hst : l.st <;> simp [hst, ldgBusy] at h
  · rw [ldgOne.eq_def]
    simp only [hst]
  · rw [ldgOne.eq_def]
    simp only [hst]

theorem ldgPut_fields (c : LdgCfg) (stamp : W64) (l : Ledger) (r : List W64) :
    (ldgPut c stamp l r).trigged = l.trigged ∧ (ldgPut c stamp l r).trigAt = l.trigAt ∧
    (ldgPut c stamp l r).wcount = l.wcount + 1 ∧
    (ldgPut c stamp l r).slots = SMap.set [] l.slots (l.wcount.toNat % (if c.spill then 2048 else c.cap)) r := by
  unfold ldgPut
  dsimp only
  split
  · exact ⟨rfl, rfl, rfl, rfl⟩
  split
  · exact ⟨rfl, rfl, rfl, rfl⟩
  · exact ⟨rfl, rfl, rfl, rfl⟩

theorem bit_28 : (bit 28).getLsbD 28 = true := by decide

theorem blkKey_tal_ne_ldg {b : BlkId} (hb : isLdg b = true) :
    blkKey b ≠ blkKey ⟨if b.kind = .ldgTile then .talTile else .talStack, b.unit⟩ := by
  obtain ⟨kind, unit⟩ := b
  simp only [isLdg, Bool.and_eq_true, Bool.or_eq_true, decide_eq_true_eq] at hb
  obtain ⟨rfl | rfl, -⟩ := hb
  · simp [blkKey, kindCode]
  · simp [blkKey, kindCode]

/-- Records dropped set DROPPED beside the flags that stand (R408). -/
theorem State.flags_ldgDropped {b : BlkId} (s : State) {n : Nat} (hb : isLdg b = true) (hn : n ≠ 0) :
    (s.ldgDropped b n).flags b.kind b.unit 0x30 = s.flags b.kind b.unit 0x30 ||| bit 28 := by
  have hne := blkKey_tal_ne_ldg hb
  unfold State.ldgDropped State.countTile State.countStack
  rw [if_neg hn]
  dsimp only
  refine Eq.trans ?_ (State.flags_flag s b.kind b.unit 0x30 (bit 28))
  split
  case isTrue hk =>
    rw [if_pos hk] at hne
    exact congrArg (w1cWord · 0x30) (State.blk_count_ne hne ..)
  case isFalse hk =>
    rw [if_neg hk] at hne
    exact congrArg (w1cWord · 0x30) (State.blk_count_ne hne ..)

/-- An offer that dropped records and holds none sets DROPPED. -/
theorem State.flags_ldgTake {b : BlkId} (s : State) {o : LdgOut} (hb : isLdg b = true) (hlost : o.lost ≠ 0)
    (hheld : o.held = false) : ((s.ldgTake b o).flags b.kind b.unit 0x30).getLsbD 28 = true := by
  have htaken : s.ldgTaken b o = (s.setLdg (blkKey b) o.l).ldgDropped b o.lost := if_neg (by simp [hheld])
  have hflags : (s.ldgTake b o).flags b.kind b.unit 0x30 = (s.ldgTaken b o).flags b.kind b.unit 0x30 := by
    rw [State.ldgTake_eq]
    split
    · exact congrArg (w1cWord · 0x30) (State.raiseFog_see (π := State.blkAt ⟨b.kind, b.unit⟩) _ _ (by simp))
    · rfl
  rw [hflags, htaken, State.flags_ldgDropped _ hb hlost, BitVec.getLsbD_or, bit_28, Bool.or_true]

theorem does_ldgTrigger_dropped {m : Master} {b : BlkId} {s : State} (hb : isLdg b = true)
    (hmay : s.mayWrite m b 0x2C = true) (hen : (s.ldgCfg b).en = true) (hbusy : ldgBusy (s.ldg (blkKey b)).st = true)
    (htrig : (s.ldg (blkKey b)).trigged = false) (hloss : (s.ldgCfg b).lossless = false)
    (hshort : (s.ldg (blkKey b)).short (s.ldgCfg b) (s.ldgStamp b) 1 = true) :
    Does (.ldgTrigger m b) s (fun t =>
      (t.ldg (blkKey b)).trigged = true ∧ (t.ldg (blkKey b)).trigAt = (s.ldg (blkKey b)).wcount ∧
      (t.ldg (blkKey b)).wcount = (s.ldg (blkKey b)).wcount ∧
      (t.ldg (blkKey b)).lost = satAdd32 (s.ldg (blkKey b)).lost 1 ∧
      (t.flags b.kind b.unit 0x30).getLsbD 28 = true) := by
  obtain ⟨l, hl⟩ : ∃ l, s.ldg (blkKey b) = l := ⟨_, rfl⟩
  obtain ⟨c, hc⟩ : ∃ c, s.ldgCfg b = c := ⟨_, rfl⟩
  rw [hl] at hbusy htrig hshort ⊢
  rw [hc] at hshort hloss
  have hshort' : (l.triggered c).short c (s.ldgStamp b) 1 = true := hshort
  have hoff : ldgTrig c (s.ldgStamp b) l 1 =
      ⟨{ (l.triggered c).lose 1 with lostNow := l.lostNow + 1 }, 1, false, true⟩ := by
    rw [ldgTrig_eq htrig, ldgOne_busy (Ledger.triggered_busy hbusy), if_pos hshort', if_neg (by simp [hloss])]
    rfl
  have hexec : exec (.ldgTrigger m b) s = .next (s.ldgTake b (ldgTrig c (s.ldgStamp b) l 1)) := by
    rw [exec_ldgTrigger s hb, if_pos hmay, State.ldgTrigger_busy hen (hl ▸ hbusy), hl, hc]
  refine ⟨_, hexec, ?_⟩
  beta_reduce
  rw [State.ldg_ldgTake, if_pos rfl, hoff]
  exact ⟨rfl, rfl, rfl, rfl, State.flags_ldgTake s hb Nat.one_ne_zero rfl⟩

theorem does_ldgTrigger_recorded {m : Master} {b : BlkId} {s : State} (hb : isLdg b = true)
    (hmay : s.mayWrite m b 0x2C = true) (hen : (s.ldgCfg b).en = true) (hst : (s.ldg (blkKey b)).st = .recording)
    (htrig : (s.ldg (blkKey b)).trigged = false)
    (hshort : (s.ldg (blkKey b)).short (s.ldgCfg b) (s.ldgStamp b) 1 = false) :
    Does (.ldgTrigger m b) s (fun t =>
      (t.ldg (blkKey b)).trigged = true ∧ (t.ldg (blkKey b)).trigAt = (s.ldg (blkKey b)).wcount ∧
      (t.ldg (blkKey b)).wcount = (s.ldg (blkKey b)).wcount + 1 ∧
      SMap.get [] (t.ldg (blkKey b)).slots
        ((s.ldg (blkKey b)).wcount.toNat % (if (s.ldgCfg b).spill then 2048 else (s.ldgCfg b).cap)) =
        triggerRecord (s.ldgStamp b) (s.ldg (blkKey b)) 1 ∧
      (∀ j, j ≠ blkKey b → t.ldg j = s.ldg j)) := by
  obtain ⟨l, hl⟩ : ∃ l, s.ldg (blkKey b) = l := ⟨_, rfl⟩
  obtain ⟨c, hc⟩ : ∃ c, s.ldgCfg b = c := ⟨_, rfl⟩
  rw [hl] at hst htrig hshort ⊢
  rw [hc] at hshort ⊢
  have hbusy : ldgBusy l.st = true := by rw [hst]; rfl
  have hshort' : (l.triggered c).short c (s.ldgStamp b) 1 = false := hshort
  have hoff : ldgTrig c (s.ldgStamp b) l 1 =
      ⟨ldgPut c (s.ldgStamp b) (l.triggered c) (triggerRecord (s.ldgStamp b) l 1), 0, false, true⟩ := by
    rw [ldgTrig_eq htrig, ldgOne_busy (Ledger.triggered_busy hbusy), if_neg (ne_true_of_eq_false hshort')]
  have hexec : exec (.ldgTrigger m b) s = .next (s.ldgTake b (ldgTrig c (s.ldgStamp b) l 1)) := by
    rw [exec_ldgTrigger s hb, if_pos hmay, State.ldgTrigger_busy hen (by rw [hl, hst]; rfl), hl, hc]
  obtain ⟨htg, hat, hw, hslots⟩ := ldgPut_fields c (s.ldgStamp b) (l.triggered c) (triggerRecord (s.ldgStamp b) l 1)
  refine ⟨_, hexec, ?_⟩
  beta_reduce
  rw [State.ldg_ldgTake, if_pos rfl, hoff]
  refine ⟨htg, hat, hw, ?_, fun j hj => (State.ldg_ldgTake ..).trans (if_neg hj)⟩
  rw [hslots]
  exact SMap.get_set_self ..

theorem does_ldgTrigger_again {m : Master} {b : BlkId} {s : State} (hb : isLdg b = true)
    (hmay : s.mayWrite m b 0x2C = true) (htrig : (s.ldg (blkKey b)).trigged = true) :
    Does (.ldgTrigger m b) s (fun t => t.ldg (blkKey b) = s.ldg (blkKey b) ∧ t.except [.ldgs] = s.except [.ldgs]) := by
  have hexec := exec_ldgTrigger (m := m) s hb
  rw [if_pos hmay] at hexec
  refine ⟨_, hexec, ?_⟩
  unfold State.ldgTrigger
  dsimp only
  split
  · rw [ldgTrig, if_pos htrig]
    exact ⟨(State.ldg_ldgTake ..).trans (if_pos rfl), rfl⟩
  · exact ⟨rfl, rfl⟩

theorem does_ldgRdSelWrite {m : Master} {b : BlkId} {s : State} (v : W32) (hb : isLdg b = true)
    (hmay : s.mayWrite m b 0x40 = true) : Does (.ldgRdSelWrite m b v) s (fun t =>
      plainWord b.kind (t.blk b) 0x40 = v &&& 0x7FF ∧
      (t.ldg (blkKey b)).latch = ((halves ((SMap.get [] (s.ldg (blkKey b)).slots (bitsOf v.toNat 10 0)).map
        (fun x : W64 => x.toNat))) ++ List.replicate 8 0).take 8 ∧ t.except [.blocks, .ldgs] = s.except [.blocks, .ldgs]) := by
  refine ⟨_, (if_pos hb).trans (congrArg Host.Outcome.next (if_neg (by simp [hmay]))), ?_, ?_, rfl⟩
  · have hblk : (s.setPlain b.kind b.unit 0x40 (v &&& 0x7FF)).blk b =
        { s.blk b with plain := SMap.set (resetWord b.kind 0x40) (s.blk b).plain 0x40 (v &&& 0x7FF) } :=
      (State.blk_setBlk ..).trans (if_pos rfl)
    exact (congrArg (plainWord b.kind · 0x40) hblk).trans (SMap.get_set_self ..)
  · exact congrArg Ledger.latch (SMap.get_set_self ..)

theorem exec_ldgArm {m : Master} {b : BlkId} {s : State} (hb : isLdg b = true) (hmay : s.mayWrite m b 0x2C = true) :
    exec (.ldgArm m b) s = .next (s.setLdg (blkKey b) { Ledger.reset with
      latch := (s.ldg (blkKey b)).latch, st := if (s.ldg (blkKey b)).st = .frozen then .frozen else .recording
      before := .recording, lastAt := (s.ldg (blkKey b)).lastAt, lastN := (s.ldg (blkKey b)).lastN }) := by
  refine (if_pos hb).trans (congrArg Host.Outcome.next ((if_neg (by simp [hmay])).trans ?_))
  dsimp only
  split <;> rfl

/-! ## Bursts of a ledger are acknowledged (R408) -/

theorem exec_ldgBurstAck_idle {b : BlkId} {s : State} (ok : Bool) (hb : isLdg b = true)
    (h : (s.ldgCfg b).spill = false ∨ (s.ldg (blkKey b)).staged < 64) : exec (.ldgBurstAck b ok) s = .next s :=
  (if_pos hb).trans (congrArg Host.Outcome.next (if_pos (h.imp_left (by simp [·]))))

/-- The 64 oldest records of a ledger's staging, each with its number. -/
def Ledger.burst (l : Ledger) : List (Nat × List W64) :=
  (List.range 64).map (fun j => (l.wcount.toNat - l.staged + j,
    SMap.get [] l.slots ((l.wcount.toNat - l.staged + j) % 2048)))

/-- The slots of a burst are free, and its records are at their places in the spill area. -/
def State.burstTo (s : State) (b : BlkId) (recs : List (Nat × List W64)) : State :=
  recs.foldl (fun u r => u.writeBytes ((s.ldgCfg b).area + 32 * (r.1 % (s.ldgCfg b).cap))
    (r.2.flatMap (fun w => leBytes 8 w.toNat)))
    (s.setLdg (blkKey b) { s.ldg (blkKey b) with staged := (s.ldg (blkKey b)).staged - 64 })

theorem State.ldg_burstTo (s : State) (b : BlkId) (recs : List (Nat × List W64)) : (s.burstTo b recs).ldg (blkKey b) =
    { s.ldg (blkKey b) with staged := (s.ldg (blkKey b)).staged - 64 } :=
  (foldl_see (π := State.ldgAt (blkKey b)) _ (fun u r => State.writeBytes_see _ _ _ (by simp)) recs _).trans
    ((State.ldg_setLdg ..).trans (if_pos rfl))

/-- The slots of a burst whose write failed are free, and its records count as dropped. -/
def State.burstLost (s : State) (b : BlkId) : State :=
  let u := s.setLdg (blkKey b) { s.ldg (blkKey b) with staged := (s.ldg (blkKey b)).staged - 64 }
  let l := u.ldg (blkKey b)
  ((u.setLdg (blkKey b) { l.lose 64 with lostNow := l.lostNow + 64 }).flag b.kind b.unit 0x30 (bit 26)).ldgDropped b 64

theorem exec_ldgBurstAck_written {b : BlkId} {s : State} (hb : isLdg b = true) (hspill : (s.ldgCfg b).spill = true)
    (hst : 64 ≤ (s.ldg (blkKey b)).staged) (hheld : (s.ldg (blkKey b)).held = [])
    (hup : ∀ r ∈ (s.ldg (blkKey b)).burst, ∃ j, physAt ((s.ldgCfg b).area + 32 * (r.1 % (s.ldgCfg b).cap)) = .stack j ∧
      s.stackUp j = true) : exec (.ldgBurstAck b true) s = .next (s.burstTo b (s.ldg (blkKey b)).burst) := by
  have hgo : ¬ (¬ (s.ldgCfg b).spill ∨ (s.ldg (blkKey b)).staged < 64) := by
    simp only [hspill, not_true_eq_false, false_or]
    omega
  have hretry : ∀ recs, (s.burstTo b recs).ledgerRetry b = s.burstTo b recs := fun recs =>
    State.ledgerRetry_of_empty ((congrArg Ledger.held (s.ldg_burstTo b recs)).trans hheld)
  refine (if_pos hb).trans (congrArg Host.Outcome.next ?_)
  dsimp only
  rw [if_neg hgo]
  obtain ⟨recs, hrecs⟩ : ∃ recs, (s.ldg (blkKey b)).burst = recs := ⟨_, rfl⟩
  rw [hrecs] at hup ⊢
  rw [Ledger.burst] at hrecs
  rw [hrecs]
  refine (congrArg (State.ledgerRetry · b) (if_pos ⟨rfl, List.all_eq_true.2 fun r hr => ?_⟩)).trans (hretry recs)
  obtain ⟨j, hj, hon⟩ := hup r hr
  simp only [hj, hon]

theorem does_ldgBurstAck_failed {b : BlkId} {s : State} (hb : isLdg b = true) (hspill : (s.ldgCfg b).spill = true)
    (hst : 64 ≤ (s.ldg (blkKey b)).staged) (hheld : (s.ldg (blkKey b)).held = []) :
    Does (.ldgBurstAck b false) s (fun t => (t.ldg (blkKey b)).staged = (s.ldg (blkKey b)).staged - 64 ∧
      (t.ldg (blkKey b)).lost = satAdd32 (s.ldg (blkKey b)).lost 64 ∧ t.mem = s.mem ∧
      (t.flags b.kind b.unit 0x30).getLsbD 26 = true ∧ (t.flags b.kind b.unit 0x30).getLsbD 28 = true) := by
  have hgo : ¬ (¬ (s.ldgCfg b).spill ∨ (s.ldg (blkKey b)).staged < 64) := by
    simp only [hspill, not_true_eq_false, false_or]
    omega
  obtain ⟨l, hl⟩ : ∃ l, s.ldg (blkKey b) = l := ⟨_, rfl⟩
  have hldg : (s.burstLost b).ldg (blkKey b) =
      { ({ l with staged := l.staged - 64 } : Ledger).lose 64 with lostNow := l.lostNow + 64 } := by
    rw [← hl]
    refine (State.ldgDropped_see (π := State.ldgAt (blkKey b)) _ _ _ (by simp)).trans ?_
    refine (State.flag_see (π := State.ldgAt (blkKey b)) _ _ _ _ _ (by simp)).trans ?_
    refine (SMap.get_set_self ..).trans ?_
    rw [State.ldg_setLdg, if_pos rfl]
  have hretry : (s.burstLost b).ledgerRetry b = s.burstLost b := State.ledgerRetry_of_empty (by
    rw [hldg]
    exact hl ▸ hheld)
  have hexec : exec (.ldgBurstAck b false) s = .next (s.burstLost b) :=
    (if_pos hb).trans (congrArg Host.Outcome.next ((if_neg hgo).trans
      (Eq.trans (congrArg (State.ledgerRetry · b) (if_neg (fun h => nomatch h.1))) hretry)))
  have hflags : ∀ u : State, ((u.flag b.kind b.unit 0x30 (bit 26)).ldgDropped b 64).flags b.kind b.unit 0x30 =
      u.flags b.kind b.unit 0x30 ||| bit 26 ||| bit 28 := fun u => by
    rw [State.flags_ldgDropped _ hb (by decide), State.flags_flag]
  refine ⟨_, hexec, ?_⟩
  beta_reduce
  rw [hldg, hl]
  refine ⟨rfl, rfl, (State.ldgDropped_see (π := State.mem) _ _ _ (by simp)).trans rfl, ?_, ?_⟩
  · rw [State.burstLost, hflags, BitVec.getLsbD_or, BitVec.getLsbD_or, show (bit 26).getLsbD 26 = true by decide,
      Bool.or_true, Bool.true_or]
  · rw [State.burstLost, hflags, BitVec.getLsbD_or, bit_28, Bool.or_true]

/-! ## The watch (R415, R416) -/

theorem does_wchSnap {m : Master} {t : Fin 48} (slots : BitVec 4) {s : State} (hmay : s.mayWrite m ⟨.wch, t.val⟩ 0x10 = true) :
    Does (.wchSnap m t slots) s (fun u => (∀ w, w < 4 → u.wch (wchKey t.val w) =
      if slots.getLsbD w then { s.wch (wchKey t.val w) with snap := (s.wch (wchKey t.val w)).acc }
      else s.wch (wchKey t.val w)) ∧ u.except [.wchs] = s.except [.wchs]) := by
  refine ⟨_, congrArg Host.Outcome.next (if_neg (by simp [hmay])), fun w hw => ?_, ?_⟩
  · refine wch_fold (φ := fun w x => if slots.getLsbD w then { x with snap := x.acc } else x) (fun u w v => ?_) s hw
    by_cases h : slots.getLsbD w
    · rw [if_pos h, if_pos h]
      exact u.wch_watchSnap t.val w v
    · rw [if_neg h, if_neg h, ite_self]
  · refine foldl_see (π := State.except [.wchs]) _ (fun u w => ?_) _ _
    split
    · exact State.watchSnap_see _ _ _ (by simp)
    · rfl

theorem does_wchClear {m : Master} {t : Fin 48} (slots : BitVec 4) {s : State} (hmay : s.mayWrite m ⟨.wch, t.val⟩ 0x10 = true) :
    Does (.wchClear m t slots) s (fun u => (∀ w, w < 4 → u.wch (wchKey t.val w) =
      if slots.getLsbD w then .reset else s.wch (wchKey t.val w)) ∧ u.except [.wchs] = s.except [.wchs]) := by
  refine ⟨_, congrArg Host.Outcome.next (if_neg (by simp [hmay])), fun w hw => ?_, ?_⟩
  · refine wch_fold (φ := fun w x => if slots.getLsbD w then .reset else x) (fun u w v => ?_) s hw
    by_cases h : slots.getLsbD w
    · rw [if_pos h, if_pos h, State.wch_setWch]
      by_cases hv : v = w
      · rw [if_pos (congrArg _ hv), if_pos hv]
      · rw [if_neg fun hk => hv (wchKey_inj hk), if_neg hv]
    · rw [if_neg h, if_neg h, ite_self]
  · refine foldl_see (π := State.except [.wchs]) _ (fun u w => ?_) _ _
    split
    · exact State.setWch_see _ _ _ (by simp)
    · rfl

end Sys2Proof.Machine
open Sys2Proof Sys2Proof.Machine

/-- Settles O50: tallies by what a count leaves of them, the fog by what a fog that stands keeps, a ledger by the one write
that its take of an offer is, and the watch slot by slot. -/
theorem fogTalliesLedgersAndWatch : Obligations.FogTalliesLedgersAndWatch := by
  unfold Obligations.FogTalliesLedgersAndWatch
  refine ⟨fun m b first n s hkind hunit => ⟨does_talClear first n hkind hunit, fun h => ?_⟩,
    fun s src => ⟨fun h => if_pos h, State.raiseFog_raised⟩,
    fun n m s => ⟨exec_fogInEdge_raises, does_fogInEdge, exec_fogInEdge_not, fun h => congrArg Host.Outcome.next (if_pos h),
      fun h => ⟨?_, ?_⟩, does_thaw, fun hlow hexp => congrArg Host.Outcome.next (if_pos ⟨hlow, hexp⟩), fun h => ?_⟩,
    fun b s => ⟨fun h => congrArg Host.Outcome.next (if_pos (by simp [h])), does_fogFreeze_on, does_fogFreeze_off⟩,
    fun m b s hb => ⟨exec_ldgArm hb, fun h => ?_, fun h => ⟨?_, ?_, ?_⟩, fun h => ?_, does_ldgTrigger_dropped hb,
      does_ldgTrigger_recorded hb, does_ldgTrigger_again hb, fun v => does_ldgRdSelWrite v hb⟩,
    fun b s ok hb => ⟨exec_ldgBurstAck_idle ok hb, fun hspill hst hheld => ⟨fun hok hup => ?_, fun hok => ?_⟩⟩,
    fun m t slots s => ⟨fun h => ⟨does_wchSnap slots h, does_wchClear slots h⟩, fun h => ⟨?_, ?_⟩⟩⟩
  · exact (if_pos (by simp [hkind, hunit])).trans (congrArg Host.Outcome.next (if_pos (by simp [h])))
  · exact congrArg Host.Outcome.next (if_neg (by simp [h]))
  · exact congrArg Host.Outcome.next (if_neg (by simp [h]))
  · exact congrArg Host.Outcome.next (if_neg fun hc => by simp [hc] at h)
  · exact (if_pos hb).trans (congrArg Host.Outcome.next (if_neg (by simp [h])))
  · exact (if_pos hb).trans (congrArg Host.Outcome.next (if_pos (by simp [h])))
  · exact (if_pos hb).trans (congrArg Host.Outcome.next (if_pos (by simp [h])))
  · exact (exec_ldgTrigger s hb).trans (congrArg Host.Outcome.next (if_neg (by simp [h])))
  · refine (exec_ldgTrigger s hb).trans (congrArg Host.Outcome.next ?_)
    rw [State.ldgTrigger_idle h, ite_self]
  · subst hok
    exact exec_ldgBurstAck_written hb hspill hst hheld hup
  · subst hok
    exact does_ldgBurstAck_failed hb hspill hst hheld
  · exact congrArg Host.Outcome.next (if_pos (by simp [h]))
  · exact congrArg Host.Outcome.next (if_pos (by simp [h]))

end

section
/-!
An ENGINE order in a state whose tables are not canonical. It settles O51.
-/
namespace Sys2Proof.Machine
set_option Elab.async false

/-- One partition, number 0, on all units, with one context and one queue. -/
def onePartImage : ImageCfg :=
  ⟨[⟨0, 0, 0xFFF, 0xFF, 0x3F, 1, 1, 1, 1, List.replicate 12 1, 0xFFFF, 0xFFFF⟩], noMask, [], 0, [], []⟩

/-- The stage of the chain command at HEAD 0 of queue 0. -/
def chainStage : CmdRef := ⟨0, 0, some 0⟩

/-- That chain, begun. -/
def begunChain : Chain := ⟨⟨0, 0, none⟩, false, true, [], [], [.begun], [], [], [], [], false⟩

/-- Tile 0's vector engine has the book load of a chain's stage in hand. The table of chains lists tile 0 twice: the chain
stands in the second entry, and the first is empty. -/
def twiceListed : State := { State.reset with
  pwr := { Pwr.reset with aux := true, spine := true, conv := true, on := 0 - 1 }
  img := { Img.reset with applied := some onePartImage }
  pcx := { Pcx.reset with up := true, perst := false }
  funcs := [(0, { Func.reset with present := true })]
  ques := [(0, { Que.reset with cmds := [mkCmd 0 []] })]
  chains := [(0, []), (0, [begunChain])]
  mxes := [(0, { Mxe.reset with bookOps := [⟨chainStage, 0, 0, 0, 0, 0, true⟩] })] }

/-- A reset of the vector engine may be ordered, and takes the one command, which is listed. -/
theorem twiceListed_orders : twiceListed.reaches .pf ⟨.flt, 0⟩ = true ∧ twiceListed.ownFnKpMgmt .pf 0 = true ∧
    twiceListed.engPart .vxe 0 = some 0 ∧ (twiceListed.part 0).rstBusy = none ∧
    Rung.engine .vxe 0 ∉ (twiceListed.part 0).rstRuns ∧ twiceListed.engineHeld .vxe 0 = false ∧
    twiceListed.engineRefs .vxe 0 = [chainStage] ∧ (twiceListed.queOwner 0).isSome = true ∧
    (twiceListed.cmdAt chainStage).isSome = true := by decide +kernel

/-- The order of that reset. -/
def twiceListedOrdered : State :=
  twiceListed.order 0 (.engine .vxe 0) (fun s => s.engineReset 0 .vxe 0)

theorem exec_engineReset_twiceListed : exec (.engineReset .pf 0 2 0) twiceListed = .next twiceListedOrdered := by
  obtain ⟨hreach, hown, hpart, -⟩ := twiceListed_orders
  have hmay : ¬ ¬ (twiceListed.reaches .pf ⟨.flt, ((0 : Fin 8)).val⟩ ∧ twiceListed.ownFnKpMgmt .pf ((0 : Fin 8)).val) :=
    not_not.2 ⟨hreach, hown⟩
  exact congrArg Host.Outcome.next ((if_neg hmay).trans (if_neg (not_not.2 hpart)))

/-- The cancelled load writes the chains of tile 0 back, which erases both entries: the command's chain is gone before its
queue can be halted. -/
theorem twiceListed_not_halted : (twiceListedOrdered.que 0).halted = false := by decide +kernel

end Sys2Proof.Machine
open Sys2Proof Sys2Proof.Machine

/-- Refutes O51: the statement asks of every state what only canonical tables give. Where the table of chains lists a tile
twice, an ENGINE order of its vector engine loses the chain of the command that it removes, and the queue runs on. -/
theorem not_ladderClimbsItsRungs : ¬ Obligations.LadderClimbsItsRungs := by
  unfold Obligations.LadderClimbsItsRungs
  rintro ⟨-, -, hengine, -⟩
  obtain ⟨hreach, hown, hpart, hfree, hruns, hheld, hrefs, hqueue, hcmd⟩ := twiceListed_orders
  obtain ⟨-, -, hdone, -⟩ := (hengine .pf 0 2 0 twiceListed hreach hown).2 .vxe rfl
  obtain ⟨t, hexec, -, -, -, -, -, -, hhalts⟩ := hdone hpart hfree hruns hheld
  have ht : twiceListedOrdered = t := Host.Outcome.next.inj (exec_engineReset_twiceListed.symm.trans hexec)
  have hhalted : (t.que 0).halted = true := hhalts chainStage (by decide) hrefs hqueue hcmd
  rw [← ht, twiceListed_not_halted] at hhalted
  exact absurd hhalted (by decide)

end

section
/-!
The host interface: its resets, its link, configuration writes, and the requests that fail. It settles O52.
-/
namespace Sys2Proof.Machine
set_option Elab.async false

/-! ## Flags stay set by what only sets flags (R438) -/

/-- Kept by every write of flags, and by all that leaves the blocks' registers alone. -/
structure FlagStable (P : State → Prop) : Prop where
  flag : ∀ {s : State}, P s → ∀ (k : BlkKind) (u off : Nat) (bits : W32), P (s.flag k u off bits)
  same : ∀ {s t : State}, P s → see State.blocks t = see State.blocks s → P t

/-- A flag that is set stays so. -/
theorem flagStable_flags (k : BlkKind) (u off i : Nat) : FlagStable (fun s => (s.flags k u off).getLsbD i = true) where
  flag {s} h j v o bits := by
    simp only [State.flags, State.flag, State.blk_setBlk] at h ⊢
    split
    case isTrue hb =>
      rw [show s.blk ⟨k, u⟩ = s.blk ⟨j, v⟩ from congrArg (SMap.get _ _) hb] at h
      simp only [w1cWord, SMap.get_set] at h ⊢
      split
      case isTrue ho =>
        rw [BitVec.getLsbD_or, ← ho, h, Bool.true_or]
      case isFalse => exact h
    case isFalse => exact h
  same {s t} h hb := by
    have hblk : t.blk ⟨k, u⟩ = s.blk ⟨k, u⟩ := congrArg (SMap.get _ · (blkKey ⟨k, u⟩)) hb
    rw [State.flags, hblk]
    exact h

namespace FlagStable
variable {P : State → Prop} (hP : FlagStable P) {s : State}
include hP

theorem count (h : P s) (b : BlkId) (ev q : Nat) (w : Who) : P (s.count b ev q w) := by
  unfold State.count
  dsimp only
  split
  · exact h
  · split
    · exact hP.flag (hP.same h (State.setTal_see _ _ _ (by simp))) ..
    · exact hP.same h (State.setTal_see _ _ _ (by simp))

theorem ldgTake (h : P s) (b : BlkId) (o : LdgOut) : P (s.ldgTake b o) := by
  have hset : P (s.setLdg (blkKey b) o.l) := hP.same h (State.setLdg_see _ _ _ (by simp))
  have hdrop : P ((s.setLdg (blkKey b) o.l).ldgDropped b o.lost) := by
    unfold State.ldgDropped State.countTile State.countStack
    dsimp only
    split
    · exact hset
    · split
      · exact hP.count (hP.flag hset ..) ..
      · exact hP.count (hP.flag hset ..) ..
  have htaken : P (s.ldgTaken b o) := by
    unfold State.ldgTaken
    dsimp only
    split
    · exact hP.flag hdrop ..
    · exact hdrop
  rw [State.ldgTake_eq]
  split
  · exact hP.same htaken (State.raiseFog_see _ _ (by simp))
  · exact htaken

theorem ledger (h : P s) (b : BlkId) (w : Who) (typ src x y : Nat) : P (s.ledger b w typ src x y) :=
  State.ledger_keeps (P := P) (b := b) (fun _ o hu => hP.ldgTake hu b o) h w typ src x y

theorem ledgerPart (h : P s) (p : Nat) (w : Who) (typ src x y : Nat) : P (s.ledgerPart p w typ src x y) := by
  unfold State.ledgerPart
  split
  · exact hP.ledger h ..
  · exact h

theorem ledgerUnit (h : P s) (p uclass unit : Nat) (w : Who) (typ src x y : Nat) : P (s.ledgerUnit p uclass unit w typ src x y) := by
  unfold State.ledgerUnit
  split
  · exact hP.ledger h ..
  · exact hP.ledger h ..
  · exact hP.ledgerPart h ..

theorem ledgerCmd (h : P s) (p q : Nat) (c : Cmd) (typ x y : Nat) : P (s.ledgerCmd p q c typ x y) := by
  unfold State.ledgerCmd
  dsimp only
  split
  · exact hP.ledger h ..
  · exact hP.ledger h ..
  · exact hP.ledger h ..
  · exact hP.ledger h ..
  · exact hP.ledgerPart h ..

theorem msix (h : P s) (fn v : Nat) : P (s.msix fn v) := by
  unfold State.msix State.countIo
  dsimp only
  split
  · exact hP.flag h ..
  split
  · exact h
  split
  · exact hP.same h (State.setFunc_see _ _ _ (by simp))
  split
  · exact hP.count (hP.same h (State.emit_see _ _ (by simp))) ..
  · exact hP.flag h ..

theorem logFault (h : P s) (p : Nat) (ws : List Nat) : P (s.logFault p ws) := by
  unfold State.logFault
  dsimp only
  split
  · exact hP.same h ((State.setPart_see _ _ _ (by simp)).trans (State.writeBytes_see _ _ _ (by simp)))
  · exact hP.flag (hP.same h (State.setPart_see _ _ _ (by simp))) ..

theorem recordFault (h : P s) (p : Nat) (f : FaultRec) (w : Who) : P (s.recordFault p f w) := by
  have hseq : ∀ x, P (s.setPart p x) := fun x => hP.same h (State.setPart_see _ _ _ (by simp))
  have hnotice : ∀ x ws o, P (((s.setPart p x).logFault p ws).emit o) := fun x ws o =>
    hP.same (hP.logFault (hseq x) p ws) (State.emit_see _ _ (by simp))
  exact hP.count (hP.ledgerUnit (hP.msix (hnotice _ _ _) _ _) _ _ _ _ _ _ _ _) _ _ _ _

theorem raise (h : P s) (p : Nat) (f : FaultRec) : P (s.raise p f) := by
  unfold State.raise State.raiseAny
  dsimp only
  split
  · exact h
  split
  · exact hP.same (hP.recordFault h _ _ _) (State.setCtx_see _ _ _ (by simp))
  · exact hP.recordFault h _ _ _

/-! ### Requests to the host and walks -/

theorem draw (h : P s) : P (s.draw 1).2 := hP.same h (State.draw_see _ 1 (by simp))

theorem hostAsk (h : P s) (fn a n : Nat) : P (s.hostAsk fn a n) := hP.same h (State.hostAsk_see _ _ _ _ (by simp))

theorem hostRead (h : P s) (fn a n : Nat) : P (s.hostRead fn a n).2 := by
  unfold State.hostRead
  split
  · exact hP.same h ((State.emit_see _ _ (by simp)).trans ((State.carry_see _ _ _ (by simp)).trans
      (State.hostBytes_see _ _ _ (by simp))))
  · exact hP.flag h ..

theorem hostWrite (h : P s) (fn a : Nat) (bs : List Byte) (relaxed : Bool) : P (s.hostWrite fn a bs relaxed) := by
  unfold State.hostWrite State.countIo
  split
  · exact hP.count (hP.same h ((State.emit_see _ _ (by simp)).trans (State.carry_see _ _ _ (by simp)))) ..
  · exact hP.flag h ..

theorem readEntry (h : P s) (p a : Nat) : P (s.readEntry p a).2 := by
  have hread := hP.hostRead h (s.fnOf p) a 8
  unfold State.readEntry
  split
  · split
    case h_1 heq => rwa [heq] at hread
    case h_2 heq => rwa [heq] at hread
  split
  · exact h
  · exact h

theorem entryAt (h : P s) (p va level t : Nat) : P (s.entryAt p va level t).2 := by
  have hread := hP.readEntry h p (t + 8 * xlatIndex level va)
  unfold State.entryAt
  split
  case h_1 heq => rwa [heq] at hread
  case h_2 heq =>
    rw [heq] at hread
    dsimp only
    split_ifs <;> exact hread

theorem walkLevel (h : P s) (key dc p va level t : Nat) : P (s.walkLevel key dc p va level t).2 := by
  have hentry := hP.entryAt h p va level t
  unfold State.walkLevel
  split
  · exact hP.same hentry (State.walkKeep_see _ _ _ _ _ _ (by simp))
  · dsimp only
    split_ifs
    · exact hentry
    · exact hP.draw hentry
    · exact hP.same (hP.draw hentry) ((State.walkKeep_see _ _ _ _ _ _ (by simp)).trans (State.walkDrop_see _ _ _ (by simp)))

theorem walkFrom (key dc p va fuel : Nat) : ∀ (s : State) (level t : Nat), P s → P (s.walkFrom key dc p va fuel level t).2 := by
  induction fuel with
  | zero => exact fun _ _ _ h => h
  | succ fuel ih =>
    intro s level t h
    have hlevel := hP.walkLevel h key dc p va level t
    rw [State.walkFrom]
    split
    case h_1 heq => rwa [heq] at hlevel
    case h_2 heq => rwa [heq] at hlevel
    case h_3 heq =>
      rw [heq] at hlevel
      exact ih _ _ _ hlevel

theorem walk (h : P s) (key p lc va : Nat) : P (s.walk key p lc va).2 := by
  unfold State.walk
  dsimp only
  split
  · exact h
  · exact hP.walkFrom _ _ _ _ _ _ _ _ h

theorem xlate (h : P s) (key p lc va : Nat) : P (s.xlate key p lc va).2 := by
  have hwalk := hP.walk h key p lc va
  rcases hw : s.walk key p lc va with ⟨r, u⟩
  rw [hw] at hwalk
  have hadd : ∀ v, P v → ∀ e, P (v.tlbAdd key e) := fun v hv e => hP.same hv (State.tlbAdd_see _ _ _ (by simp))
  have hset : ∀ es, P ((u.draw 1).2.setTlb key es) := fun es =>
    hP.same (hP.draw hwalk) (State.setTlb_see _ _ _ (by simp))
  unfold State.xlate
  rw [hw]
  dsimp only
  generalize tlbFind (s.tlb key) (ctxKey p lc) va = found
  cases found with
  | none =>
    cases r with
    | ok pl sz w => exact hadd _ hwalk _
    | bad c l => exact hwalk
  | some e =>
    cases r with
    | ok pl sz w =>
      dsimp only
      split
      · exact hwalk
      split
      · exact hP.draw hwalk
      · exact hadd _ (hset _) _
    | bad c l =>
      dsimp only
      split
      · exact hwalk
      split
      · exact hP.draw hwalk
      · exact hset _

theorem markPhys (h : P s) (p lc i : Nat) (wr : Bool) : P (s.markPhys p lc i wr).2 := by
  have hx := hP.xlate h (tlbPart p) p lc (s.markVa p lc i)
  have hpage : P (s.xlatePage (tlbPart p) p lc (s.markVa p lc i) wr).2 := by
    unfold State.xlatePage
    split
    case h_1 heq => rwa [heq] at hx
    case h_2 heq =>
      rw [heq] at hx
      split
      · exact hx
      · exact hx
  unfold State.markPhys
  dsimp only
  split
  case h_1 heq => rwa [heq] at hpage
  case h_2 heq => rwa [heq] at hpage

/-! ### What comes of a request that failed -/

theorem failWait (h : P s) (p q i : Nat) (b : Bad) : P (s.failWait p q i b) := by
  unfold State.failWait
  split
  · exact h
  · exact hP.same (hP.raise h _ _) (State.haltAt_see _ _ _ _ (by simp))

theorem meetWait (h : P s) (p q i w : Nat) : P (s.meetWait p q i w) := by
  unfold State.meetWait State.countPart
  split
  · exact h
  · exact hP.count (hP.ledgerCmd (hP.same h (State.setCmd_see _ _ _ _ _ (by simp))) _ _ _ _ _ _) _ _ _ _

theorem pollMark (h : P s) (p q w : Nat) (v : Option W64) : P (s.pollMark p q w v) := by
  unfold State.pollMark
  split
  · exact h
  split
  · exact h
  rename_i i _ c _
  have hmark := hP.markPhys h p (s.qCtx p q) (waitMark (c.word (1 + w))) false
  split
  · exact h
  dsimp only
  split
  case h_1 heq =>
    rw [heq] at hmark
    exact hP.failWait hmark ..
  case h_2 heq =>
    rw [heq] at hmark
    split
    · exact hmark
    split
    · split
      · exact hP.meetWait (hP.hostAsk hmark _ _ _) ..
      · exact hP.hostAsk hmark _ _ _
    · exact hP.failWait (hP.flag hmark ..) ..

theorem faultStream (h : P s) (t sid off : Nat) (b : Bad) : P (s.faultStream t sid off b) := by
  have hstop : ∀ x, P (((s.setStream t sid x).stopTimer (.stall t sid)).abortRing t sid) := fun x =>
    hP.same h ((State.abortRing_see _ _ _ (by simp)).trans ((State.stopTimer_see _ _ (by simp)).trans
      (State.setStream_see _ _ _ _ (by simp))))
  unfold State.faultStream
  dsimp only
  split
  · exact hP.raise (hstop _) ..
  · exact hstop _

theorem streamReply (h : P s) (t sid seq : Nat) (reply : FarReply) : P (s.streamReply t sid seq reply) := by
  have hset : ∀ u, P u → ∀ x, P (u.setStream t sid x) := fun u hu x => hP.same hu (State.setStream_see _ _ _ _ (by simp))
  have hdone : ∀ u, P u → ∀ x, P ((u.setStream t sid x).advance t sid) := fun u hu x =>
    hP.same (hset u hu x) (State.advance_see _ _ _ (by simp))
  unfold State.streamReply State.countTile
  dsimp only
  split
  · exact h
  split
  · exact h
  split
  · exact h
  · exact hP.faultStream (hset _ h _) ..
  · split
    · exact h
    · split
      · refine hdone _ (hP.count ?_ _ _ _ _) _
        split
        · exact h
        · unfold State.putBytes
          split
          · exact hP.hostWrite h ..
          · exact hP.same h (State.writeBytes_see _ _ _ (by simp))
      · exact hdone _ (hP.count (hP.same h (State.ringPut_see _ _ _ _ _ (by simp))) _ _ _ _) _
    · refine hP.faultStream ?_ ..
      split
      · exact hP.flag (hset _ h _) ..
      · exact hset _ h _

theorem eccChecks (h : P s) (k : Nat) (lines : List Nat) (ecc : List EccFind) : P (s.eccChecks k lines ecc) := by
  have hone : ∀ u, P u → ∀ line find, P (u.eccCheck k line find) := fun u hu line find => by
    unfold State.eccCheck State.countStack
    split
    · exact hu
    split
    · exact hu
    · exact hP.count (hP.flag hu ..) ..
    · have hcount := hP.count (hP.same (t := { u with poison := SMap.set false u.poison line true }) hu rfl)
        ⟨.talStack, k⟩ 0x0202 1 nobody
      dsimp only
      split
      · exact hP.flag hcount ..
      · exact hP.flag (hP.same hcount (State.setStack_see _ _ _ (by simp))) ..
  have hall : ∀ (es : List (EccFind × Nat)) (u : State), P u → P (es.foldl (fun s e =>
      match lines[e.2]? with
      | some l => s.eccCheck k l e.1
      | none => s) u) := fun es => by
    induction es with
    | nil => exact fun _ hu => hu
    | cons e es ih =>
      intro u hu
      refine ih _ ?_
      dsimp only
      split
      · exact hone _ hu _ _
      · exact hu
  exact hall _ _ h

theorem moveOne (h : P s) (k : Nat) (data : Option (List Byte)) (ecc : List EccFind) : P (s.moveOne k data ecc) := by
  have hstop : ∀ u, P u → ∀ r, P (u.moveStop k r) := fun u hu r => hP.same hu (State.moveStop_see _ _ _ (by simp))
  have hstep : ∀ u, P u → ∀ o, P (u.moveStep k o) := fun u hu o =>
    hP.count (hP.same hu (State.setStack_see _ _ _ (by simp))) _ _ _ _
  unfold State.moveOne
  split
  · exact h
  dsimp only
  split
  · exact h
  split
  · have hecc := hP.eccChecks h k
    split
    · exact hstop _ (hecc _ _) _
    split
    · exact hstop _ (hP.flag (hecc _ _) ..) _
    · exact hstep _ (hP.hostWrite (hecc _ _) ..) _
  · split
    · split
      · exact hstep _ (hP.same h ((State.writeBytes_see _ _ _ (by simp)).trans (State.hostAsk_see _ _ _ _ (by simp)))) _
      · exact hstop _ (hP.flag h ..) _
    · exact hstop _ (hP.flag h ..) _

theorem imgFetched (h : P s) (data : Option (List Byte)) : P (s.imgFetched data) := by
  unfold State.imgFetched
  split
  · exact h
  have himg : P ({ s with img := { s.img with busy := none, detail := 0xFF } } : State) := hP.same h rfl
  dsimp only
  split
  · split
    · exact hP.same himg rfl
    · exact hP.same (hP.flag himg ..) rfl
  · exact hP.same (hP.flag himg ..) rfl

theorem releaseFails (h : P s) (r : Release) (b : Bad) : P (s.releaseFails r b) := by
  unfold State.releaseFails
  split
  · exact h
  split
  · exact hP.same (hP.raise h _ _) ((State.updCmd_see _ _ _ (by simp)).trans (State.haltQuiet_see _ _ _ (by simp)))
  · exact h

theorem hostFails (h : P (s.flag .pcx 0 0x14 (bit 30))) (r : HostReader) : P (s.hostFails r) := by
  unfold State.hostFails
  dsimp only
  split
  · exact hP.pollMark h ..
  · exact hP.streamReply h ..
  · exact hP.moveOne h ..
  · exact hP.imgFetched h ..
  · exact hP.same h (State.emit_see _ _ (by simp))
  · exact hP.releaseFails h ..

end FlagStable

theorem does_hostRequestTimeout {k : Nat} {s : State} {e : Nat × HostReader} (he : (s.hostReqs)[k]? = some e) :
    Does (.hostRequestTimeout k) s (fun t =>
      t = ({ s with pcx := { s.pcx with reqs := s.pcx.reqs.erase e.2 } }).hostFails e.2 ∧
      (t.flags .pcx 0 0x14).getLsbD 30 = true) := by
  refine ⟨({ s with pcx := { s.pcx with reqs := s.pcx.reqs.erase e.2 } } : State).hostFails e.2,
    congrArg Host.Outcome.next ?_, rfl, ?_⟩
  · simp only [he]
  · refine (flagStable_flags .pcx 0 0x14 30).hostFails ?_ e.2
    rw [State.flags_flag, BitVec.getLsbD_or, show (bit 30).getLsbD 30 = true by decide, Bool.or_true]

/-! ## Functions (R436) -/

def State.funcAt (k : Nat) (s : State) : Func := s.func k

@[simp] theorem ign_funcAt {k : Nat} (f : Fld) (h : f ≠ .funcs) : Ign (State.funcAt k) f := by
  cases f
  case funcs => exact absurd rfl h
  all_goals exact fun _ _ => rfl

theorem State.func_setFunc_ne (s : State) {k j : Nat} (x : Func) (h : j ≠ k) : (s.setFunc k x).func j = s.func j :=
  (State.func_setFunc ..).trans (if_neg h)

theorem State.func_resetFn_self (s : State) (fn : Nat) :
    (s.resetFn fn).func fn = { Func.reset with present := (s.func fn).present } := by
  have hself := State.func_setFunc s fn fn { Func.reset with present := (s.func fn).present }
  rw [if_pos rfl] at hself
  unfold State.resetFn
  dsimp only
  split
  case isTrue h =>
    subst h
    exact (foldl_see (π := State.funcAt 0) _ (fun u k => State.func_setFunc_ne u _ (Nat.succ_ne_zero k).symm) _ _).trans hself
  case isFalse => exact hself

theorem State.except_resetFn (s : State) (fn : Nat) : (s.resetFn fn).except [.pcx, .funcs] = s.except [.pcx, .funcs] := by
  unfold State.resetFn
  dsimp only
  split
  · exact foldl_see (π := State.except [.pcx, .funcs]) _ (fun u k => State.setFunc_see _ _ _ (by simp)) _ _
  · rfl

theorem State.func_resetFn_virtual (s : State) {k : Nat} (h : k < 8) : (s.resetFn 0).func (k + 1) = .reset := by
  unfold State.resetFn
  dsimp only
  rw [if_pos rfl]
  exact (foldl_range_set (π := State.funcAt (k + 1)) (f := fun s k => s.setFunc (k + 1) .reset) (key := fun m => m + 1)
    (k := k + 1) (d := .reset) (fun u m => State.func_setFunc ..) 8 _).trans (if_pos ⟨k, h, rfl⟩)

theorem State.numVfs_resetFn (s : State) : (s.resetFn 0).pcx.numVfs = 0 := by
  unfold State.resetFn
  dsimp only
  rw [if_pos rfl]
  exact congrArg Pcx.numVfs (foldl_see (π := State.pcx) (fun s k => s.setFunc (k + 1) .reset)
    (fun u k => State.setFunc_see _ _ _ (by simp)) (List.range 8) _)

theorem does_hotReset {s : State} (hon : s.domOn domPcie = true) : Does .hotReset s (fun t =>
    (∀ k, k < 9 → t.func k = .reset) ∧ t.pcx.up = false ∧ t.pcx.gen = 0 ∧ t.pcx.width = 0 ∧ t.pcx.numVfs = 0 ∧
    t.except [.pcx, .funcs] = s.except [.pcx, .funcs]) := by
  obtain ⟨v, hv⟩ : ∃ v, s.resetFn 0 = v := ⟨_, rfl⟩
  have hexec : exec .hotReset s = .next ((v.setFunc 0 .reset).linkOut) := by
    rw [← hv]
    exact congrArg Host.Outcome.next (if_pos hon)
  have hnum : v.pcx.numVfs = 0 := by rw [← hv, s.numVfs_resetFn]
  have hexcept : v.except [.pcx, .funcs] = s.except [.pcx, .funcs] := by rw [← hv, s.except_resetFn 0]
  refine ⟨_, hexec, fun k hk => ?_, rfl, rfl, rfl, hnum, hexcept⟩
  have hlink : ((v.setFunc 0 .reset).linkOut).func k = if k = 0 then .reset else v.func k :=
    State.func_setFunc v 0 k .reset
  rw [hlink]
  cases k with
  | zero => rfl
  | succ k =>
    rw [if_neg (Nat.succ_ne_zero k), ← hv]
    exact s.func_resetFn_virtual (by omega)

/-! ## A partition reset leaves the functions alone (R429) -/

theorem domUnit_ne_pcie {d : Nat} (h : d < 86) : domUnit d ≠ .pcie := by
  unfold domUnit
  split_ifs <;> exact fun h => nomatch h

theorem State.loseUnit_funcs (s : State) {d : Nat} (h : domUnit d ≠ .pcie) : see State.funcs (s.loseUnit d) = see State.funcs s := by
  unfold State.loseUnit
  split
  case h_1 => exact (foldl_see _ (fun u w => State.setWch_see _ _ _ (by simp)) _ _).trans (by simp)
  case h_6 hd => exact absurd hd h
  all_goals simp

theorem State.domainOn_funcs (s : State) {d : Nat} (h : d < 86) (links : Nat) :
    see State.funcs (s.domainOn d links) = see State.funcs s := by
  have hlose : see State.funcs ((s.setDom d true).loseUnit d) = see State.funcs s :=
    State.loseUnit_funcs _ (domUnit_ne_pcie h)
  unfold State.domainOn
  split
  · rfl
  dsimp only
  split
  · exact (State.comeUpFrozen_see _ _ (by simp)).trans ((State.setTile_see _ _ _ (by simp)).trans hlose)
  · exact (State.comeUpFrozen_see _ _ (by simp)).trans ((State.resetStack_see _ _ _ (by simp)).trans hlose)
  · exact (State.comeUpFrozen_see _ _ (by simp)).trans ((State.resetLg_see _ _ _ _ (by simp)).trans hlose)
  · exact (State.comeUpFrozen_see _ _ (by simp)).trans hlose
  · exact hlose

theorem State.switchOn_funcs (s : State) (i : Option ImageCfg) (parts : Nat → Bool) :
    see State.funcs (s.switchOn i parts) = see State.funcs s := by
  unfold State.switchOn
  refine foldl_see_mem (fun u d hd => ?_) s
  split
  · split
    · exact State.domainOn_funcs u (List.mem_range.1 hd) _
    · rfl
  · rfl

theorem State.rstRuns_clearPart (s : State) (i : Option ImageCfg) {p : Nat} {c : PartCfg} (hc : s.cfgOf p = some c) :
    ((s.clearPart i p).part p).rstRuns = (s.part p).rstRuns := by
  unfold State.clearPart
  simp only [hc]
  rw [State.part_setPart, if_pos rfl]
  dsimp only
  refine congrArg Part.rstRuns (?_ : see (State.partAt p) _ = see (State.partAt p) s)
  simp

/-- The units of a partition that is to be reset are on. -/
def State.unitsOn (s : State) (p : Nat) : State :=
  ((s.setPart p { s.part p with
    binds := if (s.part p).rstRuns.contains .partition then (s.part p).binds else some (s.binding p)
    rstRuns := [.partition] }).endSwitch (fun d => decide (domPart s.img.applied d = some p))).switchOn s.img.applied
      (fun q => decide (q = p))

/-- The reset of a partition is the clearing of its work where its units are on. -/
theorem State.resetPart_view {α : Type} {π : State → α} {s : State} {p : Nat} {c : PartCfg} (hc : s.cfgOf p = some c)
    (hW : Ign π .board ∧ Ign π .timers) : see π (s.resetPart p) = see π ((s.unitsOn p).clearPart s.img.applied p) := by
  have hinc : ∀ (b : Prop) [Decidable b] (u : State), see π (if b then
      { u with board := { u.board with inc := u.board.inc + 1 } } else u) = see π u := fun b _ u => by
    split
    · exact hW.1 _ _
    · rfl
  unfold State.resetPart
  simp only [hc]
  exact (State.startTimer_see _ _ _ _ (by simp [hW])).trans (hinc _ _)

theorem State.unitsOn_img (s : State) (p : Nat) : (s.unitsOn p).img = s.img :=
  (State.switchOn_see (π := State.img) _ _ _ (by simp)).trans ((State.endSwitch_see _ _ (by simp)).trans
    (State.setPart_see _ _ _ (by simp)))

theorem State.cfgOf_unitsOn {s : State} {p : Nat} {c : PartCfg} (hc : s.cfgOf p = some c) : (s.unitsOn p).cfgOf p = some c := by
  rw [State.cfgOf, s.unitsOn_img p]
  exact hc

theorem State.rstRuns_resetPart {s : State} {p : Nat} {c : PartCfg} (hc : s.cfgOf p = some c) :
    ((s.resetPart p).part p).rstRuns = [.partition] := by
  have hon : (s.unitsOn p).parts = (s.setPart p _).parts :=
    (State.switchOn_see (π := State.parts) _ _ _ (by simp)).trans (State.endSwitch_see _ _ (by simp))
  have hpart : (s.resetPart p).part p = ((s.unitsOn p).clearPart s.img.applied p).part p :=
    State.resetPart_view (π := State.partAt p) hc (by simp)
  rw [hpart, State.rstRuns_clearPart _ _ (State.cfgOf_unitsOn hc), State.part, hon]
  exact congrArg Part.rstRuns (SMap.get_set_self ..)

theorem State.que_resetPart {s : State} {p : Nat} {c : PartCfg} (hc : s.cfgOf p = some c) {n : Nat} (hn : n < c.queQuota) :
    (s.resetPart p).que (s.devQue p n) = .reset := by
  have hque : (s.resetPart p).que (s.devQue p n) = ((s.unitsOn p).clearPart s.img.applied p).que (s.devQue p n) :=
    State.resetPart_view (π := State.queOf (s.devQue p n)) hc (by simp)
  have hquota : (s.unitsOn p).queQuota p = c.queQuota := by
    rw [State.queQuota, State.cfgOf_unitsOn hc]
    rfl
  rw [hque, State.que_clearPart, hquota]
  exact if_pos ⟨n, hn, rfl⟩

theorem State.func_resetPart (s : State) (p k : Nat) : (s.resetPart p).func k = s.func k := by
  refine State.func_of_funcs (?_ : see State.funcs (s.resetPart p) = see State.funcs s) k
  cases hc : s.cfgOf p with
  | none =>
    unfold State.resetPart
    simp only [hc]
  | some c =>
    refine (State.resetPart_view hc (by simp)).trans ((State.clearPart_see _ _ _ (by simp)).trans ?_)
    exact (State.switchOn_funcs ..).trans ((State.endSwitch_see _ _ (by simp)).trans (State.setPart_see _ _ _ (by simp)))

/-! ## A function-level reset (R436) -/

theorem State.img_resetFn (s : State) (fn : Nat) : (s.resetFn fn).img = s.img := by
  unfold State.resetFn
  dsimp only
  split
  · exact foldl_see (π := State.img) _ (fun u k => State.setFunc_see _ _ _ (by simp)) _ _
  · rfl

theorem does_functionLevelReset {fn : Fin 9} {s : State} (hup : s.pcx.up = true) (hthere : (s.func fn.val).present = true)
    {p : Nat} {c : PartCfg} (hp : s.partOfFn fn.val = some p) (hc : s.cfgOf p = some c)
    (happ : s.applying ⟨.flt, p⟩ = false) :
    Does (.functionLevelReset fn) s (fun t => t.func fn.val = { Func.reset with present := true } ∧
      (t.part p).rstRuns = [.partition] ∧ (∀ n, n < c.queQuota → t.que (s.devQue p n) = .reset)) := by
  obtain ⟨v, hv⟩ : ∃ v, s.resetFn fn.val = v := ⟨_, rfl⟩
  have himg : v.img = s.img := by rw [← hv, State.img_resetFn]
  have hself : v.func fn.val = { Func.reset with present := true } := by
    rw [← hv, State.func_resetFn_self, hthere]
  obtain ⟨u, hu, hfuncs, hcfg⟩ : ∃ u : State, v.partitionByOther p = u.resetPart p ∧ u.func fn.val = v.func fn.val ∧
      u.cfgOf p = some c := by
    have happv : v.applying ⟨.flt, p⟩ = false := by
      have hof : ∀ u : State, u.applying ⟨.flt, p⟩ = ({ State.reset with img := u.img } : State).applying ⟨.flt, p⟩ :=
        fun _ => rfl
      rw [← happ, hof v, hof s, himg]
    have hcv : v.cfgOf p = some c := by rwa [State.cfgOf, himg]
    refine ⟨_, if_neg (by simp [happv]), ?_, ?_⟩
    · split
      · rfl
      · rfl
    · split
      · exact hcv
      · exact hcv
  have hexec : exec (.functionLevelReset fn) s = .next (u.resetPart p) := by
    refine congrArg Host.Outcome.next ((if_neg (not_not.2 ⟨hup, hthere⟩)).trans ?_)
    simp only [hp]
    rw [hv, hu]
  exact ⟨_, hexec, (u.func_resetPart p _).trans (hfuncs.trans hself), State.rstRuns_resetPart hcfg,
    fun n hn => State.que_resetPart hcfg hn⟩

theorem does_functionLevelReset_alone {fn : Fin 9} {s : State} (hup : s.pcx.up = true)
    (hthere : (s.func fn.val).present = true) (hp : s.partOfFn fn.val = none) :
    Does (.functionLevelReset fn) s (fun t =>
      t.func fn.val = { Func.reset with present := true } ∧ t.except [.funcs, .pcx] = s.except [.funcs, .pcx]) := by
  have hexec : exec (.functionLevelReset fn) s = .next (s.resetFn fn.val) := by
    refine congrArg Host.Outcome.next ((if_neg (not_not.2 ⟨hup, hthere⟩)).trans ?_)
    simp only [hp]
  have hexcept : (s.resetFn fn.val).except [.funcs, .pcx] = s.except [.funcs, .pcx] := by
    unfold State.resetFn
    dsimp only
    split
    · exact foldl_see (π := State.except [.funcs, .pcx]) _ (fun u k => State.setFunc_see _ _ _ (by simp)) _ _
    · rfl
  exact ⟨_, hexec, by rw [State.func_resetFn_self, hthere], hexcept⟩

/-! ## Configuration writes (R436) -/

/-- A function but for its pending messages. -/
def State.confOf (k : Nat) (s : State) : Func := { s.func k with pba := [] }

@[simp] theorem ign_confOf {k : Nat} (f : Fld) (h : f ≠ .funcs) : Ign (State.confOf k) f := by
  cases f
  case funcs => exact absurd rfl h
  all_goals exact fun _ _ => rfl

theorem State.confOf_setPba (s : State) (k fn : Nat) (m : SMap Bool) :
    see (State.confOf k) (s.setFunc fn { s.func fn with pba := m }) = see (State.confOf k) s := by
  simp only [see, State.confOf, State.func_setFunc]
  split
  case isTrue h => rw [h]
  case isFalse => rfl

theorem State.confOf_msix (s : State) (k fn v : Nat) : see (State.confOf k) (s.msix fn v) = see (State.confOf k) s := by
  unfold State.msix
  dsimp only
  split
  · exact State.flag_see _ _ _ _ _ (by simp)
  split
  · rfl
  split
  · exact State.confOf_setPba ..
  split
  · exact (State.countIo_see _ _ _ (by simp)).trans (State.emit_see _ _ (by simp))
  · exact State.flag_see _ _ _ _ _ (by simp)

theorem State.confOf_sendPending (s : State) (k fn : Nat) : see (State.confOf k) (s.sendPending fn) = see (State.confOf k) s := by
  unfold State.sendPending
  dsimp only
  split
  · rfl
  · refine foldl_see _ (fun u v => ?_) _ _
    split
    · rfl
    · exact (State.confOf_msix ..).trans (State.confOf_setPba ..)

theorem State.func_setVfs_physical (s : State) (n : Nat) : (s.setVfs n).func 0 = s.func 0 := by
  unfold State.setVfs
  split
  · rfl
  · exact foldl_see (π := State.funcAt 0) _ (fun u k => State.func_setFunc_ne u _ (Nat.succ_ne_zero k).symm) (List.range 8) _

theorem State.func_setVfs_virtual (s : State) {n k : Nat} (hn : n ≤ 8) (hk : k < 8) : (s.setVfs n).func (k + 1) =
    if k < n then { s.func (k + 1) with present := true } else .reset := by
  unfold State.setVfs
  rw [if_neg (by omega)]
  refine (foldl_once (π := State.funcAt (k + 1)) (k := k)
    (φ := fun x => if k < n then { x with present := true } else .reset)
    (f := fun s k => s.setFunc (k + 1) (if k < n then { s.func (k + 1) with present := true } else .reset))
    (fun u j => ?_) List.nodup_range _).trans (if_pos (List.mem_range.2 hk))
  refine (State.func_setFunc ..).trans ?_
  by_cases h : k = j
  · subst h
    rw [if_pos rfl, if_pos rfl]
    rfl
  · rw [if_neg h, if_neg (by omega)]
    rfl

theorem State.numVfs_setVfs (s : State) {n : Nat} (hn : n ≤ 8) : (s.setVfs n).pcx.numVfs = n := by
  unfold State.setVfs
  rw [if_neg (by omega)]
  exact congrArg Pcx.numVfs (foldl_see (π := State.pcx) _ (fun u k => State.setFunc_see _ _ _ (by simp)) (List.range 8) _)

/-- A function as a configuration write leaves it. -/
def Func.configured (f : Func) (bme ats atomicEn : Option Bool) (mx : Option (Bool × Bool)) : Func := { f with
  bme := bme.getD f.bme
  atsEn := ats.getD f.atsEn
  atc := if ats.getD f.atsEn then f.atc else []
  atomicEn := atomicEn.getD f.atomicEn
  msixEn := (mx.map (·.1)).getD f.msixEn
  msixMask := (mx.map (·.2)).getD f.msixMask }

def State.takeVfs (s : State) (vfs : Option Nat) : State :=
  match vfs with
  | some n => s.setVfs n
  | none => s

theorem does_configurationWrite {fn : Fin 9} {vfs : Option Nat} (bme ats atomicEn : Option Bool) (mx : Option (Bool × Bool))
    {s : State} (hvf : fn.val = 0 ∨ vfs = none) (hup : s.pcx.up = true) (hthere : (s.func fn.val).present = true)
    (hready : s.fnReady fn.val = true) : Does (.configurationWrite fn vfs bme ats atomicEn mx) s (fun t =>
      (t.func fn.val).present = true ∧ (t.func fn.val).bme = bme.getD (s.func fn.val).bme ∧
      (t.func fn.val).atsEn = ats.getD (s.func fn.val).atsEn ∧
      (t.func fn.val).atc = (if ats.getD (s.func fn.val).atsEn then (s.func fn.val).atc else []) ∧
      (t.func fn.val).atomicEn = atomicEn.getD (s.func fn.val).atomicEn ∧
      (t.func fn.val).msixEn = (mx.map (·.1)).getD (s.func fn.val).msixEn ∧
      (t.func fn.val).msixMask = (mx.map (·.2)).getD (s.func fn.val).msixMask ∧
      (∀ n k, vfs = some n → n ≤ 8 → k < 8 → t.pcx.numVfs = n ∧ ((t.func (k + 1)).present = true ↔ k < n))) := by
  obtain ⟨g, hg⟩ : ∃ g, (s.func fn.val).configured bme ats atomicEn mx = g := ⟨_, rfl⟩
  obtain ⟨v, hv⟩ : ∃ v, s.setFunc fn.val g = v := ⟨_, rfl⟩
  have hexec : exec (.configurationWrite fn vfs bme ats atomicEn mx) s = .next ((v.takeVfs vfs).sendPending fn.val) := by
    rw [← hv, ← hg]
    refine (if_pos ?_).trans (congrArg Host.Outcome.next (if_neg (not_not.2 ⟨hup, hthere, hready⟩)))
    rcases hvf with h | h <;> simp [h]
  have hself : v.func fn.val = g := by
    rw [← hv, State.func_setFunc, if_pos rfl]
  have htaken : (v.takeVfs vfs).func fn.val = g := by
    cases vfs with
    | none => exact hself
    | some n =>
      have hfn : fn.val = 0 := hvf.resolve_right (by simp)
      rw [hfn] at hself ⊢
      exact (v.func_setVfs_physical n).trans hself
  have hconf : ∀ k, State.confOf k ((v.takeVfs vfs).sendPending fn.val) = State.confOf k (v.takeVfs vfs) := fun k =>
    State.confOf_sendPending ..
  have hfn : { ((v.takeVfs vfs).sendPending fn.val).func fn.val with pba := [] } = { g with pba := [] } := by
    rw [← htaken]
    exact hconf fn.val
  refine ⟨_, hexec, ?_, ?_, ?_, ?_, ?_, ?_, ?_, fun n k hn hle hk => ⟨?_, ?_⟩⟩
  · exact (congrArg Func.present hfn).trans (by rw [← hg]; exact hthere)
  · exact (congrArg Func.bme hfn).trans (by rw [← hg]; rfl)
  · exact (congrArg Func.atsEn hfn).trans (by rw [← hg]; rfl)
  · exact (congrArg Func.atc hfn).trans (by rw [← hg]; rfl)
  · exact (congrArg Func.atomicEn hfn).trans (by rw [← hg]; rfl)
  · exact (congrArg Func.msixEn hfn).trans (by rw [← hg]; rfl)
  · exact (congrArg Func.msixMask hfn).trans (by rw [← hg]; rfl)
  · subst hn
    exact (congrArg Pcx.numVfs (State.sendPending_see (π := State.pcx) _ _ (by simp))).trans (v.numVfs_setVfs hle)
  · subst hn
    have hpresent : (((v.takeVfs (some n)).sendPending fn.val).func (k + 1)).present = ((v.setVfs n).func (k + 1)).present :=
      have hk := congrArg Func.present (hconf (k + 1))
      hk
    rw [hpresent, v.func_setVfs_virtual hle hk]
    split
    case isTrue h => exact iff_of_true rfl h
    case isFalse h => exact iff_of_false (fun h => nomatch h) h

/-! ## PERST# and the link (R430, R435, R439) -/

theorem does_perstAssert {s : State} (haux : s.pwr.aux = true) : Does .perstAssert s (fun t =>
    t = ({ s with pcx := { s.pcx with perst := true } } : State).chipReset false ∧ t.pcx.perst = true ∧ t.pcx.up = false ∧
    t.mem = [] ∧ t.timerRuns (.rung 0 .chip) = true) := by
  have hread : ∀ {α : Type} (π : State → α) (u : State), Ign π .otp ∧ Ign π .blocks ∧ Ign π .out →
      see π u.readOtp = see π u := fun π u h => by
    unfold State.readOtp
    dsimp only
    split
    · exact (State.alert_see _ _ (by simp [h])).trans (h.1 _ _)
    · exact h.1 _ _
  refine ⟨_, congrArg Host.Outcome.next (if_pos haux), rfl, ?_, ?_, ?_, State.timerRuns_startTimer ..⟩
  · exact congrArg Pcx.perst (hread State.pcx _ (by simp))
  · exact congrArg Pcx.up (hread State.pcx _ (by simp))
  · exact hread State.mem _ (by simp)

theorem does_perstRelease {s : State} (hconv : s.pwr.conv = true) (hheld : s.startHeld = false)
    (hoff : s.domOn domPcie = false) (hmgmt : s.boot.fromMgmt = false) :
    Does .perstRelease s (fun t => t.domOn domPcie = true ∧ t.pcx.perst = false ∧ t.funcs = []) := by
  obtain ⟨w, hw⟩ : ∃ w, ({ s with pcx := { s.pcx with perst := false } } : State) = w := ⟨_, rfl⟩
  have hstart : w.pcieStart = w.domainOn domPcie 0 := by
    rw [← hw]
    exact if_pos ⟨hconv, by simp, Bool.eq_false_iff.1 hheld, Bool.eq_false_iff.1 hoff, Bool.eq_false_iff.1 hmgmt⟩
  have hon : w.domainOn domPcie 0 = (w.setDom domPcie true).loseUnit domPcie := by
    rw [← hw]
    exact if_neg (not_not.2 hconv)
  have hlose : (w.setDom domPcie true).loseUnit domPcie =
      (({ w.setDom domPcie true with pcx := { Pcx.reset with perst := w.pcx.perst, reqs := w.pcx.reqs }, funcs := [] }).setBlk
        ⟨.pcx, 0⟩ .reset).setCycle (islandCode .pcie) 0 := rfl
  have hexec : exec .perstRelease s = .next ((w.setDom domPcie true).loseUnit domPcie) := by
    rw [← hon, ← hstart, ← hw]
    rfl
  refine ⟨_, hexec, ?_⟩
  rw [hlose]
  refine ⟨?_, ?_, rfl⟩
  · have hset : (w.setDom domPcie true).domOn domPcie = true := by
      simp [State.domOn, State.setDom, domPcie]
    exact hset
  · rw [← hw]
    rfl

theorem exec_atsInvalidation {fn : Fin 9} {addr : W64} {n : Nat} {s : State} (hup : s.pcx.up = true)
    (hthere : (s.func fn.val).present = true) (hen : (s.func fn.val).atsEn = true)
    (hdue : (s.func fn.val).atc.any (fun e => decide (addr.toNat / 4096 ≤ e.1) && decide (e.1 < addr.toNat / 4096 + n)) = false ∨
      (∀ r ∈ s.hostReqs, r.1 ≠ fn.val)) : exec (.atsInvalidation fn addr n) s =
      .next ((s.setFunc fn.val { s.func fn.val with atc := ((s.func fn.val).atc.filter
        fun e => !(decide (addr.toNat / 4096 ≤ e.1) && decide (e.1 < addr.toNat / 4096 + n))) }).emit (.atsReply fn.val)) := by
  refine congrArg Host.Outcome.next ((if_neg (not_not.2 ⟨hup, hthere, hen⟩)).trans (if_neg ?_))
  rintro ⟨hany, hreq⟩
  rcases hdue with h | h
  · exact absurd (h.symm.trans hany) (by decide)
  · obtain ⟨r, hr, heq⟩ := List.any_eq_true.1 hreq
    exact h r hr (of_decide_eq_true heq)

end Sys2Proof.Machine
open Sys2Proof Sys2Proof.Machine

/-- Settles O52: the resets of the interface and of its functions by what each leaves, a configuration write by the function
that it sets, and a request that fails by the flag that nothing after it clears. -/
theorem hostInterfaceResetsAndConfigures : Obligations.HostInterfaceResetsAndConfigures := by
  unfold Obligations.HostInterfaceResetsAndConfigures
  refine ⟨fun s => ⟨does_perstAssert, fun h => ?_, does_perstRelease, fun h => ?_, does_hotReset, fun h => ?_,
      fun h => congrArg Host.Outcome.next (if_pos h), fun h => ⟨?_, ?_⟩, fun h => congrArg Host.Outcome.next (if_pos h)⟩,
    fun gen width flit s => ⟨fun hok hon hrel => ?_, fun hok h => ?_⟩,
    fun fn s hup hthere => ⟨fun p c => does_functionLevelReset hup hthere, does_functionLevelReset_alone hup hthere⟩,
    fun fn vfs bme ats atomicEn mx s hvf => ⟨does_configurationWrite bme ats atomicEn mx hvf, fun h => ?_⟩,
    fun k s => ⟨fun e => does_hostRequestTimeout, fun h => ?_⟩,
    fun fn addr n s => ⟨exec_atsInvalidation, fun h => ?_⟩⟩
  · exact congrArg Host.Outcome.next (if_neg (Bool.eq_false_iff.1 h))
  · refine congrArg Host.Outcome.next (if_neg ?_)
    rintro ⟨hconv, -, hheld, hon, hmgmt⟩
    rcases h with h | h | h | h
    · exact absurd (h.symm.trans hconv) (by decide)
    · exact hheld h
    · exact hon h
    · exact hmgmt h
  · exact congrArg Host.Outcome.next (if_neg (Bool.eq_false_iff.1 h))
  · exact congrArg Host.Outcome.next (if_neg (Bool.eq_false_iff.1 h))
  · exact congrArg Host.Outcome.next (if_neg (Bool.eq_false_iff.1 h))
  · exact (if_pos hok).trans (congrArg Host.Outcome.next (if_neg (by simp [hon, hrel])))
  · exact (if_pos hok).trans (congrArg Host.Outcome.next (if_pos (h.imp_left (by simp [·]))))
  · refine (if_pos (by rcases hvf with h | h <;> simp [h])).trans (congrArg Host.Outcome.next (if_pos ?_))
    rintro ⟨hup, hthere, hready⟩
    simp [hup, hthere, hready] at h
  · refine congrArg Host.Outcome.next ?_
    simp only [h]
  · refine congrArg Host.Outcome.next (if_pos ?_)
    rintro ⟨hup, hthere, hen⟩
    simp [hup, hthere, hen] at h

end

section
/-!
The management port: its addresses and control messages, and the Auteha commands. It settles O53.
-/
namespace Sys2Proof.Machine
set_option Elab.async false

/-! ## Requests and their answers (R449) -/

section
variable {s : State} {doe : Option (Fin 9)} {cmd : Nat} {tag : BitVec 16} {f : State → Answer}

theorem State.auteha_down (h : s.requestUp doe = false) : s.auteha doe cmd tag f = s := if_pos (Bool.eq_false_iff.1 h)

theorem State.auteha_denied (h : s.requestUp doe = true) (hvf : fromVf doe = true) (h8 : cmd ≠ 0x08) (h9 : cmd ≠ 0x09) :
    s.auteha doe cmd tag f = s.respond doe cmd tag 0x05 [] := (if_neg (not_not.2 h)).trans (if_pos ⟨hvf, h8, h9⟩)

/-- A request that is taken is answered with the command's STATUS and payload, where the command leaves the state. -/
theorem State.auteha_answers (h : s.requestUp doe = true) (hvf : fromVf doe = false ∨ cmd = 0x08 ∨ cmd = 0x09) :
    s.auteha doe cmd tag f = (f s).state.respond doe cmd tag (f s).status (f s).payload := by
  refine (if_neg (not_not.2 h)).trans (if_neg ?_)
  rintro ⟨hfrom, h8, h9⟩
  rcases hvf with hvf | hvf | hvf
  · exact absurd (hvf.symm.trans hfrom) (by decide)
  · exact h8 hvf
  · exact h9 hvf

/-- What a request does whose answer is `a`. -/
theorem State.auteha_eq {a : Answer} (h : s.requestUp doe = true) (hvf : fromVf doe = false ∨ cmd = 0x08 ∨ cmd = 0x09)
    (ha : f s = a) : s.auteha doe cmd tag f = a.state.respond doe cmd tag a.status a.payload := by
  rw [State.auteha_answers h hvf, ha]

end

/-! ## MCTP control messages (R448) -/

theorem State.mctpReply_up {s : State} (h : s.portUp = true) (cmd : Nat) (pay : List Byte) :
    s.mctpReply cmd pay = s.emit (.mctp cmd pay) := if_pos h

theorem State.mctpReply_down {s : State} (h : s.portUp = false) (cmd : Nat) (pay : List Byte) : s.mctpReply cmd pay = s :=
  if_neg (Bool.eq_false_iff.1 h)

theorem State.takeAddress_new {s : State} (h : s.portUp = true) (hfree : s.mgt.daValid = false) (a : BitVec 7) (id : Nat) :
    s.takeAddress a id = (({ s with mgt := { s.mgt with daValid := true, dynAddr := a } } : State).emit (.i3cId id)) :=
  if_pos ⟨h, Bool.eq_false_iff.1 hfree⟩

theorem State.takeAddress_not {s : State} (h : s.portUp = false ∨ s.mgt.daValid = true) (a : BitVec 7) (id : Nat) :
    s.takeAddress a id = s := if_neg fun hc => by simp [hc.1, Bool.eq_false_iff.2 hc.2] at h

theorem State.provisionalId_mod (s : State) : s.provisionalId % 8 = s.posNow.toNat := by
  have hpos := s.posNow.isLt
  unfold State.provisionalId
  omega

theorem mctpTypes_known (typ : Byte) :
    (typ = 0xFF ∨ mctpTypes.contains typ) ↔ typ ∈ ([0x00, 0x01, 0x7F, 0xFF] : List Byte) := by
  simp only [mctpTypes, List.contains_iff_mem, List.mem_cons, List.not_mem_nil, or_false]
  tauto

theorem exec_getMctpVersionSupport_known {typ : Byte} {s : State} (h : s.portUp = true)
    (htyp : typ ∈ ([0x00, 0x01, 0x7F, 0xFF] : List Byte)) : exec (.getMctpVersionSupport typ) s =
      .next (s.emit (.mctp 4 ([0, 1] ++ leBytes 4 (Config.mctpVersion typ.toNat).toNat))) :=
  congrArg Host.Outcome.next ((State.mctpReply_up h ..).trans
    (congrArg (fun p => s.emit (.mctp 4 p)) (if_pos ((mctpTypes_known typ).2 htyp))))

theorem exec_getMctpVersionSupport_unknown {typ : Byte} {s : State} (h : s.portUp = true)
    (htyp : typ ∉ ([0x00, 0x01, 0x7F, 0xFF] : List Byte)) :
    exec (.getMctpVersionSupport typ) s = .next (s.emit (.mctp 4 [0x80])) :=
  congrArg Host.Outcome.next ((State.mctpReply_up h ..).trans
    (congrArg (fun p => s.emit (.mctp 4 p)) (if_neg fun hc => htyp ((mctpTypes_known typ).1 hc))))

/-- Without the port no control message is answered. -/
theorem exec_control_down {a : BitVec 7} {e typ sel : Byte} {s : State} (h : s.portUp = false) :
    ∀ i ∈ [Instr.setdasa a, .entdaa a, .setEndpointId e, .getEndpointId, .getMctpVersionSupport typ,
      .getMessageTypeSupport, .getVendorDefinedMessageSupport sel], exec i s = .next s := by
  simp only [List.forall_mem_cons, List.not_mem_nil, false_imp_iff, implies_true, and_true]
  exact ⟨congrArg Host.Outcome.next (State.takeAddress_not (.inl h) ..),
    congrArg Host.Outcome.next (State.takeAddress_not (.inl h) ..), congrArg Host.Outcome.next (if_pos (Bool.eq_false_iff.1 h)),
    congrArg Host.Outcome.next (State.mctpReply_down h ..), congrArg Host.Outcome.next (State.mctpReply_down h ..),
    congrArg Host.Outcome.next (State.mctpReply_down h ..), congrArg Host.Outcome.next (State.mctpReply_down h ..)⟩

/-! ## Requests that are not taken (R449) -/

theorem exec_reset_down {doe : Option (Fin 9)} {tag : BitVec 16} {s : State} (lv : ResetLevel) (h : s.requestUp doe = false) :
    exec (.reset doe tag lv) s = .next s := by
  have hno : ¬ (s.requestUp doe = true ∧ ¬ fromVf doe = true) := fun hc => absurd (h.symm.trans hc.1) (by decide)
  refine congrArg Host.Outcome.next ?_
  cases lv with
  | engine p e u => exact State.auteha_down h
  | partition p => exact State.auteha_down h
  | chip => exact (if_neg hno).trans (State.auteha_down h)
  | powerCycle => exact (if_neg hno).trans (State.auteha_down h)

theorem exec_reset_denied {doe : Option (Fin 9)} {tag : BitVec 16} {s : State} (lv : ResetLevel)
    (h : s.requestUp doe = true) (hvf : fromVf doe = true) :
    exec (.reset doe tag lv) s = .next (s.respond doe 0x07 tag 5 []) := by
  have hno : ¬ (s.requestUp doe = true ∧ ¬ fromVf doe = true) := fun hc => hc.2 hvf
  refine congrArg Host.Outcome.next ?_
  cases lv with
  | engine p e u => exact State.auteha_denied h hvf (by decide) (by decide)
  | partition p => exact State.auteha_denied h hvf (by decide) (by decide)
  | chip => exact (if_neg hno).trans (State.auteha_denied h hvf (by decide) (by decide))
  | powerCycle => exact (if_neg hno).trans (State.auteha_denied h hvf (by decide) (by decide))

/-! ## GET_INFO and GET_HEALTH (R450) -/

theorem does_getInfo {doe : Option (Fin 9)} {s : State} (tag : BitVec 16) (hup : s.requestUp doe = true)
    (hvf : fromVf doe = false) : Does (.getInfo doe tag) s (fun t => ∃ pay, t = s.respond doe 0x01 tag 0 pay ∧
      pay.length = 20 ∧ pay.take 2 = [0x68, 0x07] ∧ pay.getD 3 0 = BitVec.ofNat 8 s.posNow.toNat ∧
      (pay.drop 4).take 2 = leBytes 2 s.board.inc.toNat ∧ pay.getD 6 0 = BitVec.ofNat 8 (s.otpNum 4 1)) :=
  ⟨_, congrArg Host.Outcome.next (State.auteha_answers hup (.inl hvf)), _, rfl, rfl, rfl, rfl, rfl, rfl⟩

/-- Blocks of one length follow one another. -/
theorem length_flatMap_of_const {α β : Type} {f : α → List β} {n : Nat} {l : List α} (h : ∀ a ∈ l, (f a).length = n) :
    (l.flatMap f).length = n * l.length := by
  induction l with
  | nil => simp
  | cons a l ih =>
    obtain ⟨ha, hl⟩ := List.forall_mem_cons.1 h
    rw [List.flatMap_cons, List.length_append, ih hl, ha, List.length_cons]
    ring

theorem take_drop_flatMap_of_const {α β : Type} {f : α → List β} {n : Nat} {l : List α} (h : ∀ a ∈ l, (f a).length = n)
    {i : Nat} (hi : i < l.length) : ((l.flatMap f).drop (n * i)).take n = f l[i] := by
  induction l generalizing i with
  | nil => exact absurd hi (Nat.not_lt_zero i)
  | cons a l ih =>
    obtain ⟨ha, hl⟩ := List.forall_mem_cons.1 h
    rw [List.flatMap_cons]
    cases i with
    | zero => rw [Nat.mul_zero, List.drop_zero, List.take_append_of_le_length ha.ge, ← ha, List.take_length]; rfl
    | succ i =>
      have hdrop : n * (i + 1) = (f a).length + n * i := by rw [ha]; ring
      rw [hdrop, List.drop_length_add_append]
      exact ih hl (Nat.lt_of_succ_lt_succ hi)

/-- A partition's part of GET_HEALTH. -/
def State.healthPart (s : State) (p : Nat) : List Byte :=
  s.healthReg ⟨.flt, p⟩ 0x24 ++ (match s.leadOf p with
    | some k => s.healthReg ⟨.kpr, k⟩ 0x20
    | none => List.replicate 4 0xFF)

/-- The training state of a unit in GET_HEALTH. -/
def State.healthState (s : State) (b : BlkId) (off : Nat) : List Byte :=
  if s.hubUp ∧ s.blkOn b then [BitVec.ofNat 8 (bitsOf (s.regWord b off).toNat 31 29)] else [(0xFF : Byte)]

def State.healthPower (s : State) : List Byte :=
  let pwr := fun off => leBytes 4 (s.regWord ⟨.pwr, 0⟩ off).toNat
  pwr 0x40 ++ pwr 0x44 ++ pwr 0x50 ++ pwr 0x20 ++ pwr 0x24 ++ pwr 0x28

/-- What GET_HEALTH shows of the units behind the hub. -/
def State.healthUnits (s : State) : List Byte :=
  (List.range 8).flatMap (fun p => s.healthPart p) ++ ((List.range 12).flatMap (fun k => s.healthState ⟨.nme, k⟩ 0xC00) ++
    (List.range 24).flatMap (fun l => s.healthState ⟨.lnk, l / 4⟩ (0x100 + 32 * (l % 4))))

theorem State.healthReg_length (s : State) (b : BlkId) (off : Nat) : (s.healthReg b off).length = 4 := by
  unfold State.healthReg
  split
  · exact leBytes_length ..
  · rfl

theorem State.healthPart_length (s : State) (p : Nat) : (s.healthPart p).length = 8 := by
  unfold State.healthPart
  rw [List.length_append, State.healthReg_length]
  split
  · rw [State.healthReg_length]
  · rfl

theorem State.healthState_length (s : State) (b : BlkId) (off : Nat) : (s.healthState b off).length = 1 := by
  unfold State.healthState
  split <;> rfl

theorem State.healthPower_length (s : State) : s.healthPower.length = 24 := by
  simp only [State.healthPower, List.length_append, leBytes_length]

theorem State.healthUnits_length (s : State) : s.healthUnits.length = 100 := by
  unfold State.healthUnits
  rw [List.length_append, List.length_append, length_flatMap_of_const fun p _ => s.healthPart_length p,
    length_flatMap_of_const fun k _ => s.healthState_length ⟨.nme, k⟩ 0xC00,
    length_flatMap_of_const fun l _ => s.healthState_length ⟨.lnk, l / 4⟩ (0x100 + 32 * (l % 4))]
  rfl

/-- Without the hub every byte of a unit behind it reads 0xFF. -/
theorem State.healthUnits_down {s : State} (h : s.hubUp = false) : ∀ x ∈ s.healthUnits, x = 0xFF := by
  have hreg : ∀ b off, s.healthReg b off = List.replicate 4 0xFF := fun b off =>
    if_neg fun hc => absurd (h.symm.trans hc.1) (by decide)
  have hstate : ∀ b off, s.healthState b off = [0xFF] := fun b off =>
    if_neg fun hc => absurd (h.symm.trans hc.1) (by decide)
  have hpart : ∀ p, ∀ x ∈ s.healthPart p, x = 0xFF := fun p x hx => by
    unfold State.healthPart at hx
    rcases List.mem_append.1 hx with hx | hx
    · exact List.eq_of_mem_replicate ((hreg ..) ▸ hx)
    · split at hx
      · exact List.eq_of_mem_replicate ((hreg ..) ▸ hx)
      · exact List.eq_of_mem_replicate hx
  intro x hx
  unfold State.healthUnits at hx
  simp only [List.mem_append, List.mem_flatMap, hstate, List.mem_singleton] at hx
  rcases hx with ⟨p, -, hx⟩ | ⟨-, -, hx⟩ | ⟨-, -, hx⟩
  · exact hpart p x hx
  · exact hx
  · exact hx

theorem exec_getHealth {doe : Option (Fin 9)} {s : State} (tag : BitVec 16) (hup : s.requestUp doe = true)
    (hvf : fromVf doe = false) :
    exec (.getHealth doe tag) s = .next (s.respond doe 0x02 tag 0 (s.healthPower ++ s.healthUnits)) := by
  refine congrArg Host.Outcome.next (State.auteha_eq (a := ⟨0, s.healthPower ++ s.healthUnits, s⟩) hup (.inl hvf) ?_)
  refine congrArg (Answer.mk 0 · s) ?_
  rw [State.healthUnits, ← List.append_assoc, ← List.append_assoc]
  refine congrArg₂ (· ++ ·) (congrArg₂ (· ++ ·) (congrArg₂ (· ++ ·) rfl ?_) rfl) rfl
  refine congrArg (List.flatMap · _) (funext fun p => ?_)
  unfold State.healthPart
  cases s.leadOf p <;> rfl

theorem does_getHealth {doe : Option (Fin 9)} {s : State} (tag : BitVec 16) (hup : s.requestUp doe = true)
    (hvf : fromVf doe = false) : Does (.getHealth doe tag) s (fun t => ∃ pay, t = s.respond doe 0x02 tag 0 pay ∧
      pay.length = 124 ∧ (s.hubUp = false → ∀ i, 24 ≤ i → i < 124 → pay.getD i 0 = 0xFF)) := by
  obtain ⟨pay, hpay⟩ : ∃ pay, s.healthPower ++ s.healthUnits = pay := ⟨_, rfl⟩
  have hexec := exec_getHealth tag hup hvf
  rw [hpay] at hexec
  refine ⟨_, hexec, pay, rfl, ?_, fun hdown i hlo hhi => ?_⟩
  · rw [← hpay, List.length_append, s.healthPower_length, s.healthUnits_length]
  · rw [← hpay, List.getD_append_right _ _ _ _ (by rw [s.healthPower_length]; exact hlo), s.healthPower_length]
    have hi : i - 24 < s.healthUnits.length := by
      rw [s.healthUnits_length]
      omega
    rw [List.getD_eq_getElem _ _ hi]
    exact State.healthUnits_down hdown _ (List.getElem_mem hi)

/-! ## Register access (R450) -/

theorem State.portReach_aligned {s : State} {addr : Nat} (h : s.portReach addr ≠ none) :
    addr % 4 = 0 ∧ ctlPlace addr ≠ .none := by
  unfold State.portReach at h
  split at h
  · exact absurd rfl h
  case isFalse ha =>
    refine ⟨not_not.1 ha, fun hplace => h ?_⟩
    rw [hplace]

theorem State.portStatus_ok {s : State} {addr n : Nat} (h : s.portStatus addr n = 0) : 1 ≤ n ∧ n ≤ 256 ∧ addr % 4 = 0 ∧
    (∀ i, i < n → ctlPlace (addr + 4 * i) ≠ .none) := by
  unfold State.portStatus at h
  dsimp only at h
  split at h
  · exact nomatch h
  split at h
  · exact nomatch h
  case isFalse hlen hnone =>
    have hreach : ∀ i, i < n → s.portReach (addr + 4 * i) ≠ none := fun i hi hi' =>
      hnone (List.contains_iff_mem.2 (List.mem_map.2 ⟨i, List.mem_range.2 hi, hi'⟩))
    have h0 := (State.portReach_aligned (hreach 0 (by omega))).1
    exact ⟨by omega, by omega, by omega, fun i hi => (State.portReach_aligned (hreach i hi)).2⟩

theorem exec_regRead {doe : Option (Fin 9)} {s : State} (tag : BitVec 16) (hup : s.requestUp doe = true)
    (hvf : fromVf doe = false) (addr : W64) (n : Nat) : exec (.regRead doe tag addr n) s =
      .next (s.respond doe 0x03 tag (s.portStatus addr.toNat n) (if s.portStatus addr.toNat n = 0 then
        (List.range n).flatMap (fun i => leBytes 4 ((s.ctlRead .mgmt (addr.toNat + 4 * i)).getD 0).toNat) else [])) :=
  congrArg Host.Outcome.next (State.auteha_answers hup (.inl hvf))

theorem exec_regWrite {doe : Option (Fin 9)} {s : State} (tag : BitVec 16) (hup : s.requestUp doe = true)
    (hvf : fromVf doe = false) (addr : W64) {ws : List W32} (hst : s.portStatus addr.toNat ws.length = 0) :
    exec (.regWrite doe tag addr ws) s = .next (((ws.zipIdx).foldl (fun u x =>
      stateOf (exec (.registerWrite .mgmt (addr.toNat + 4 * x.2) x.1) u) u) s).respond doe 0x04 tag 0 []) := by
  obtain ⟨-, -, halign, -⟩ := State.portStatus_ok hst
  have hword : (fun (u : State) (x : W32 × Nat) => stateOf (exec (.registerWrite .mgmt (addr.toNat + 4 * x.2) x.1) u) u) =
      fun u x => u.ctlWrite .mgmt (addr.toNat + 4 * x.2) x.1 := by
    funext u x
    have hok : exec (.registerWrite .mgmt (addr.toNat + 4 * x.2) x.1) u =
        .next (u.ctlWrite .mgmt (addr.toNat + 4 * x.2) x.1) := if_pos (decide_eq_true (by omega))
    rw [hok]
    rfl
  rw [hword]
  refine congrArg Host.Outcome.next ((State.auteha_answers hup (.inl hvf)).trans ?_)
  simp only [hst, if_true]

theorem exec_regWrite_refused {doe : Option (Fin 9)} {s : State} (tag : BitVec 16) (hup : s.requestUp doe = true)
    (hvf : fromVf doe = false) (addr : W64) {ws : List W32} (hst : s.portStatus addr.toNat ws.length ≠ 0) :
    exec (.regWrite doe tag addr ws) s = .next (s.respond doe 0x04 tag (s.portStatus addr.toNat ws.length) []) := by
  refine congrArg Host.Outcome.next ((State.auteha_answers hup (.inl hvf)).trans ?_)
  simp only [if_neg hst]

/-! ## Fogs, image chunks and resets (R450) -/

section
variable {doe : Option (Fin 9)} {s : State} (tag : BitVec 16) (hup : s.requestUp doe = true) (hvf : fromVf doe = false)
include hup hvf

theorem exec_fog_fire : exec (.fog doe tag .fire) s = .next ((s.raiseFog 2).respond doe 0x05 tag 0 []) :=
  congrArg Host.Outcome.next (State.auteha_eq (a := ⟨0, [], s.raiseFog 2⟩) hup (.inl hvf) rfl)

theorem exec_fog_thaw : exec (.fog doe tag .thaw) s = .next (s.thaw.respond doe 0x05 tag 0 []) := by
  obtain ⟨u, hu⟩ : ∃ u, s.thaw = u := ⟨_, rfl⟩
  rw [hu]
  refine congrArg Host.Outcome.next (State.auteha_eq (a := ⟨0, [], u⟩) hup (.inl hvf) ?_)
  dsimp only
  rw [hu]

theorem exec_imgChunk_badLength {off : W32} {data : List Byte}
    (h : data = [] ∨ 4096 < data.length ∨ 0x100000 < off.toNat + data.length) :
    exec (.imgChunk doe tag off data) s = .next (s.respond doe 0x06 tag 2 []) :=
  congrArg Host.Outcome.next (State.auteha_eq (a := ⟨2, [], s⟩) hup (.inl hvf) (if_pos h))

theorem exec_imgChunk_owned {off : W32} {data : List Byte} (hreach : s.imgReach .mgmt = true) (hsome : data ≠ [])
    (hlen : data.length ≤ 4096) (hfits : off.toNat + data.length ≤ 0x100000) (hown : s.imgOwns .mgmt = true) :
    exec (.imgChunk doe tag off data) s = .next ((s.imgPut off.toNat data).respond doe 0x06 tag 0 []) := by
  have hbad : ¬ (data = [] ∨ 4096 < data.length ∨ 0x100000 < off.toNat + data.length) := by
    simp only [hsome, false_or]
    omega
  refine congrArg Host.Outcome.next (State.auteha_eq (a := ⟨0, [], s.imgPut off.toNat data⟩) hup (.inl hvf)
    ((if_neg hbad).trans ?_))
  simp only [hreach, hown, not_true_eq_false, if_false, if_true, State.imgOwned]

theorem exec_imgChunk_denied {off : W32} {data : List Byte} (hreach : s.imgReach .mgmt = true) (hsome : data ≠ [])
    (hlen : data.length ≤ 4096) (hfits : off.toNat + data.length ≤ 0x100000) (hown : s.imgOwns .mgmt = false) :
    exec (.imgChunk doe tag off data) s = .next ((s.imgResult 0x0C).respond doe 0x06 tag 5 []) := by
  have hbad : ¬ (data = [] ∨ 4096 < data.length ∨ 0x100000 < off.toNat + data.length) := by
    simp only [hsome, false_or]
    omega
  refine congrArg Host.Outcome.next (State.auteha_eq (a := ⟨5, [], s.imgResult 0x0C⟩) hup (.inl hvf)
    ((if_neg hbad).trans ?_))
  simp only [hreach, hown, not_true_eq_false, if_false, State.imgOwned, Bool.false_eq_true]

theorem exec_reset_chip :
    exec (.reset doe tag .chip) s = .next ((s.respond doe 0x07 tag 0 []).chipReset true) :=
  congrArg Host.Outcome.next ((if_pos ⟨hup, Bool.eq_false_iff.1 hvf⟩).trans
    (congrArg (State.chipReset · true) (State.auteha_answers hup (.inl hvf))))

theorem exec_reset_powerCycle :
    exec (.reset doe tag .powerCycle) s = .next (s.respond doe 0x07 tag 0 []).powerCycle :=
  congrArg Host.Outcome.next ((if_pos ⟨hup, Bool.eq_false_iff.1 hvf⟩).trans
    (congrArg State.powerCycle (State.auteha_answers hup (.inl hvf))))

theorem exec_reset_partition {p : Fin 8} (hhub : s.hubUp = true) (hcfg : (s.cfgOf p.val).isSome = true)
    (happ : s.applying ⟨.flt, p.val⟩ = false) : exec (.reset doe tag (.partition p)) s =
      .next ((stateOf (exec (.partitionReset .mgmt p) s) s).respond doe 0x07 tag
        (rstStatus ((stateOf (exec (.partitionReset .mgmt p) s) s).part p.val).rstRes) []) := by
  have hnone : (s.cfgOf p.val).isNone = false := by
    rw [← Option.not_isSome, hcfg]
    rfl
  obtain ⟨u, hu⟩ : ∃ u, stateOf (execPartitionReset .mgmt p s) s = u := ⟨_, rfl⟩
  have hexec : stateOf (exec (.partitionReset .mgmt p) s) s = u := hu
  rw [hexec]
  refine congrArg Host.Outcome.next (State.auteha_eq (a := ⟨rstStatus (u.part p.val).rstRes, [], u⟩) hup (.inl hvf) ?_)
  simp only [hnone, hhub, happ, hu, not_true_eq_false, if_false, Bool.false_eq_true]

theorem exec_reset_partition_unreachable {p : Fin 8} (hhub : s.hubUp = false) (hcfg : (s.cfgOf p.val).isSome = true) :
    exec (.reset doe tag (.partition p)) s = .next (s.respond doe 0x07 tag 4 []) := by
  have hnone : (s.cfgOf p.val).isNone = false := by
    rw [← Option.not_isSome, hcfg]
    rfl
  refine congrArg Host.Outcome.next (State.auteha_eq (a := ⟨4, [], s⟩) hup (.inl hvf) ?_)
  simp only [hnone, hhub, not_false_eq_true, if_true, if_false, Bool.false_eq_true]

theorem exec_reset_engine {p : Fin 8} {e n : Nat} {g : Eng} (he : engOf e = some g) (hpart : s.engPart g n = some p.val)
    (hn : n < 256) (hhub : s.hubUp = true) (hon : s.domOn (engDomain g n) = true) :
    exec (.reset doe tag (.engine p e n)) s =
      .next ((stateOf (exec (.engineReset .mgmt p (BitVec.ofNat 4 e) (BitVec.ofNat 8 n)) s) s).respond doe 0x07 tag
        (rstStatus ((stateOf (exec (.engineReset .mgmt p (BitVec.ofNat 4 e) (BitVec.ofNat 8 n)) s) s).part p.val).rstRes) []) := by
  have hnamed : ¬ (s.engPart g n ≠ some p.val ∨ 256 ≤ n) := by
    simp only [hpart, ne_eq, not_true_eq_false, false_or]
    omega
  have hreach : ¬ (¬ s.hubUp = true ∨ ¬ s.domOn (engDomain g n) = true) := by
    simp only [hhub, hon, not_true_eq_false, or_self, not_false_eq_true]
  obtain ⟨u, hu⟩ : ∃ u, stateOf (execEngineReset .mgmt p (BitVec.ofNat 4 e) (BitVec.ofNat 8 n) s) s = u := ⟨_, rfl⟩
  have hexec : stateOf (exec (.engineReset .mgmt p (BitVec.ofNat 4 e) (BitVec.ofNat 8 n)) s) s = u := hu
  rw [hexec]
  refine congrArg Host.Outcome.next (State.auteha_eq (a := ⟨rstStatus (u.part p.val).rstRes, [], u⟩) hup (.inl hvf) ?_)
  simp only [he]
  rw [if_neg hnamed, if_neg hreach, hu]

end

/-! ## Attestation (R460, R461) -/

theorem fitTo_length (n : Nat) (b : List Byte) : (fitTo n b).length = n := by
  simp [fitTo]

theorem fitTo_of_length {n : Nat} {b : List Byte} (h : b.length = n) : fitTo n b = b := by
  rw [fitTo, List.take_append_of_le_length h.ge, ← h, List.take_length]

/-- The report as far as the nonce. -/
def State.reportHead (s : State) : List Byte :=
  [0x57, 0x4A, 0x41, 0x54, 0x01, Config.stepping] ++ leBytes 2 0x0768
    ++ [BitVec.ofNat 8 s.posNow.toNat, BitVec.ofNat 8 (s.otpNum 4 1), BitVec.ofNat 8 (s.otpNum 5 1),
        BitVec.ofNat 8 (shB (s.img.busy = some .apply) 0 + shB s.sec.keeperCopyB 1 + shB s.img.defaultFailed 2 + shB s.boot.chipReset 3)]
    ++ leBytes 2 s.board.inc.toNat ++ [0, 0] ++ leBytes 4 ((s.img.applied.map (·.serial.toNat)).getD 0)
    ++ leBytes 4 s.img.applies.toNat ++ leBytes 4 (s.otpNum 8 4) ++ leBytes 4 (s.otpNum 12 4)

/-- A slot of the report. -/
def State.reportSlot (s : State) (i : Nat) : List Byte :=
  fitTo 32 (if s.boot.chipReset ∧ 2 ≤ i ∧ i ≤ 4 then [] else s.sec.slots.getD i [])

def State.reportTail (s : State) : List Byte := fitTo 32 (((s.otpBlock).map (fun b => (b.drop 32).take 32)).getD [])

theorem State.report_eq (s : State) (nonce : List Byte) :
    s.report nonce = s.reportHead ++ (fitTo 32 nonce ++ ((List.range 8).flatMap s.reportSlot ++ s.reportTail)) := by
  unfold State.report
  dsimp only
  rw [List.append_assoc _ _ (fitTo 32 _), List.append_assoc _ (fitTo 32 nonce)]
  rfl

theorem State.reportHead_length (s : State) : s.reportHead.length = 32 := by
  simp [State.reportHead, leBytes_length]

theorem State.reportSlots_length (s : State) : ((List.range 8).flatMap s.reportSlot).length = 256 :=
  length_flatMap_of_const (n := 32) fun _ _ => fitTo_length ..

theorem State.report_length (s : State) (nonce : List Byte) : (s.report nonce).length = 352 := by
  rw [State.report_eq, List.length_append, List.length_append, List.length_append, s.reportHead_length, fitTo_length,
    s.reportSlots_length, State.reportTail, fitTo_length]

theorem does_attest {doe : Option (Fin 9)} {s : State} (tag : BitVec 16) (hup : s.requestUp doe = true) {nonce : List Byte}
    (hlen : nonce.length = 32) (hid : s.sec.idOk = true) (hlive : s.otpNum 5 1 ≠ 3) : Does (.attest doe tag nonce) s (fun t =>
      ∃ pay, t = s.respond doe 0x08 tag 0 pay ∧ pay.length = 2772 ∧ pay.take 4 = [0x57, 0x4A, 0x41, 0x54] ∧
        (pay.drop 32).take 32 = nonce ∧
        (∀ i, i < 8 → (pay.drop (64 + 32 * i)).take 32 =
          fitTo 32 (if s.boot.chipReset = true ∧ 2 ≤ i ∧ i ≤ 4 then [] else s.sec.slots.getD i [])) ∧
        pay.drop 352 = fitTo 2420 (Config.identitySign (pay.take 352))) := by
  obtain ⟨r, hr⟩ : ∃ r, s.report nonce = r := ⟨_, rfl⟩
  obtain ⟨sig, hsig⟩ : ∃ sig, fitTo 2420 (Config.identitySign r) = sig := ⟨_, rfl⟩
  have hexec : exec (.attest doe tag nonce) s = .next (s.respond doe 0x08 tag 0 (r ++ sig)) := by
    have hok : ¬ (¬ s.sec.idOk = true ∨ s.otpNum 5 1 = 3) := by simp [hid, hlive]
    refine congrArg Host.Outcome.next (State.auteha_eq (a := ⟨0, r ++ sig, s⟩) hup (.inr (.inl rfl)) ?_)
    rw [if_neg (not_not.2 hlen), if_neg hok, hr]
    dsimp only
    rw [hsig]
  have hlenr : r.length = 352 := by rw [← hr, s.report_length]
  have hparts : r ++ sig = s.reportHead ++ (nonce ++ ((List.range 8).flatMap s.reportSlot ++ (s.reportTail ++ sig))) := by
    rw [← hr, State.report_eq, fitTo_of_length hlen]
    simp only [List.append_assoc]
  refine ⟨_, hexec, _, rfl, ?_, ?_, ?_, fun i hi => ?_, ?_⟩
  · rw [List.length_append, hlenr, ← hsig, fitTo_length]
  · rw [hparts]
    rfl
  · rw [hparts, ← s.reportHead_length, List.drop_left, s.reportHead_length, ← hlen, List.take_left]
  · have hdrop : 64 + 32 * i = s.reportHead.length + (nonce.length + 32 * i) := by
      rw [s.reportHead_length, hlen]
      omega
    have hslots : ((List.range 8).flatMap s.reportSlot).length = 256 := s.reportSlots_length
    have hin : 32 * i + 32 ≤ ((List.range 8).flatMap s.reportSlot).length := by omega
    rw [hparts, hdrop, List.drop_length_add_append, List.drop_length_add_append, List.drop_append_of_le_length (by omega),
      List.take_append_of_le_length (by rw [List.length_drop]; omega)]
    have hslot := take_drop_flatMap_of_const (f := s.reportSlot) (n := 32) (l := List.range 8) (i := i)
      (fun _ _ => fitTo_length ..) (by rwa [List.length_range])
    rw [List.getElem_range] at hslot
    exact hslot
  · rw [← hlenr, List.drop_left, List.take_left, hsig]

theorem exec_attest_refused {doe : Option (Fin 9)} {s : State} (tag : BitVec 16) (hup : s.requestUp doe = true)
    {nonce : List Byte} (hlen : nonce.length = 32) (hbad : s.sec.idOk = false ∨ s.otpNum 5 1 = 3) :
    exec (.attest doe tag nonce) s = .next (s.respond doe 0x08 tag 6 []) :=
  congrArg Host.Outcome.next (State.auteha_eq (a := ⟨6, [], s⟩) hup (.inr (.inl rfl))
    ((if_neg (not_not.2 hlen)).trans (if_pos (hbad.imp_left (Bool.eq_false_iff.1 ·)))))

theorem does_getIdentity {doe : Option (Fin 9)} {s : State} (tag : BitVec 16) (hup : s.requestUp doe = true)
    (hid : s.sec.idOk = true) : Does (.getIdentity doe tag) s (fun t => ∃ pay, t = s.respond doe 0x09 tag 0 pay ∧
      pay.length = 1312 + 1 + 2420 + 1184 + 2420 ∧ pay.take 1312 = fitTo 1312 Config.identityPub) := by
  obtain ⟨kx, hkx⟩ : ∃ kx, fitTo 1184 (Config.kxPub s.sec.kxGen) = kx := ⟨_, rfl⟩
  obtain ⟨pay, hpay⟩ : ∃ pay, fitTo 1312 Config.identityPub ++ fitTo 2421 Config.endorsement ++ kx ++
    fitTo 2420 (Config.identitySign kx) = pay := ⟨_, rfl⟩
  have hexec : exec (.getIdentity doe tag) s = .next (s.respond doe 0x09 tag 0 pay) := by
    refine congrArg Host.Outcome.next (State.auteha_eq (a := ⟨0, pay, s⟩) hup (.inr (.inr rfl)) ?_)
    rw [if_neg (not_not.2 hid), hkx]
    dsimp only
    rw [hpay]
  refine ⟨_, hexec, _, rfl, ?_, ?_⟩
  · rw [← hpay, ← hkx]
    simp only [List.length_append, fitTo_length]
  · rw [← hpay, List.append_assoc, List.append_assoc,
      List.take_append_of_le_length (by rw [fitTo_length])]
    exact (congrArg (List.take · _) rfl).trans (List.take_of_length_le (by rw [fitTo_length]))

/-! ## OTP programming (R457, R458) -/

section
variable {doe : Option (Fin 9)} {tag : BitVec 16} {block pub sig : List Byte} {slot : Byte} {rb : Bool} {s : State}
  (hup : s.requestUp doe = true) (hvf : fromVf doe = false)
include hup hvf

theorem exec_otpWriteGen_badLength (h : ¬ (block.length = 2048 ∧ pub.length = 1312 ∧ sig.length = 2420)) :
    exec (.otpWriteGen doe tag block slot pub sig rb) s = .next (s.respond doe 0x0A tag 2 []) := by
  refine congrArg Host.Outcome.next (State.auteha_eq (a := ⟨2, [], s⟩) hup (.inl hvf) (if_pos ?_))
  tauto

variable (hlens : block.length = 2048 ∧ pub.length = 1312 ∧ sig.length = 2420)
include hlens

theorem exec_otpWriteGen_full (h : s.otp.areas.length ≤ s.otp.areas.findIdx (fun a => !a.used)) :
    exec (.otpWriteGen doe tag block slot pub sig rb) s = .next (s.respond doe 0x0A tag 7 []) := by
  refine congrArg Host.Outcome.next (State.auteha_eq (a := ⟨7, [], s⟩) hup (.inl hvf) ((if_neg ?_).trans (if_pos h)))
  tauto

theorem exec_otpWriteGen_refused (hroom : s.otp.areas.findIdx (fun a => !a.used) < s.otp.areas.length)
    (hbad : ∀ cur, s.otpBlock = some cur → (otpNextOk (s.otp.areas.findIdx (fun a => !a.used)) cur block = false ∨
        s.keyOk 192 321 slot.toNat pub = false ∨ Config.mldsaVerify pub block sig = false)) :
    exec (.otpWriteGen doe tag block slot pub sig rb) s = .next (s.respond doe 0x0A tag 6 []) := by
  refine congrArg Host.Outcome.next (State.auteha_eq (a := ⟨6, [], s⟩) hup (.inl hvf)
    ((if_neg (by tauto)).trans ((if_neg (by omega)).trans ?_)))
  cases hcur : s.otpBlock with
  | none => rfl
  | some cur =>
    refine if_neg ?_
    rintro ⟨hnext, hkey, hsig⟩
    rcases hbad cur hcur with h | h | h
    · exact absurd (h.symm.trans hnext) (by decide)
    · exact absurd (h.symm.trans hkey) (by decide)
    · exact absurd (h.symm.trans hsig) (by decide)

theorem does_otpWriteGen {cur : List Byte} (hroom : s.otp.areas.findIdx (fun a => !a.used) < s.otp.areas.length)
    (hcur : s.otpBlock = some cur) (hnext : otpNextOk (s.otp.areas.findIdx (fun a => !a.used)) cur block = true)
    (hkey : s.keyOk 192 321 slot.toNat pub = true) (hsig : Config.mldsaVerify pub block sig = true) :
    Does (.otpWriteGen doe tag block slot pub sig rb) s (fun t =>
      t.otp.areas = s.otp.areas.set (s.otp.areas.findIdx (fun a => !a.used))
        (if rb then ⟨true, false, block⟩ else ⟨true, true, List.replicate 2048 0⟩) ∧
      t.otp.inUse = s.otp.inUse ∧ t.otp.writing = some (s.otp.areas.findIdx (fun a => !a.used)) ∧
      .response (doe.map (·.val)) (autehaResponse 0x0A tag (if rb then 0 else 6) []) ∈ t.out) := by
  obtain ⟨i, hi⟩ : ∃ i, s.otp.areas.findIdx (fun a => !a.used) = i := ⟨_, rfl⟩
  rw [hi] at hroom hnext ⊢
  obtain ⟨o, ho⟩ : ∃ o : Otp, { s.otp with
    areas := s.otp.areas.set i (if rb then ⟨true, false, block⟩ else ⟨true, true, List.replicate 2048 0⟩)
    writing := some i } = o := ⟨_, rfl⟩
  obtain ⟨u, hu⟩ : ∃ u, ({ s with otp := o } : State) = u := ⟨_, rfl⟩
  obtain ⟨v, hv⟩ : ∃ v, (if u.otpSpares = 1 then u.alert (bit 26) else u) = v := ⟨_, rfl⟩
  have hexec : exec (.otpWriteGen doe tag block slot pub sig rb) s =
      .next (v.respond doe 0x0A tag (if rb then 0 else 6) []) := by
    refine congrArg Host.Outcome.next (State.auteha_eq (a := ⟨if rb then 0 else 6, [], v⟩) hup (.inl hvf)
      ((if_neg (by tauto)).trans ?_))
    dsimp only
    rw [hi, if_neg (by omega)]
    simp only [hcur]
    rw [if_pos ⟨hnext, hkey, hsig⟩, ho, hu, hv]
  have hotp : v.otp = o := by
    rw [← hv, ← hu]
    split
    · exact State.alert_see (π := State.otp) _ _ (by simp)
    · rfl
  refine ⟨_, hexec, ?_, ?_, ?_, List.mem_append_right _ (List.mem_singleton_self _)⟩
  · exact (congrArg Otp.areas hotp).trans (by rw [← ho])
  · exact (congrArg Otp.inUse hotp).trans (by rw [← ho])
  · exact (congrArg Otp.writing hotp).trans (by rw [← ho])

end

/-! ## IDE keys (R446) -/

section
variable {fn : Fin 9} {tag : BitVec 16} {stream dir sub set : Byte} {ct sealed : List Byte} {s : State}
  (hfn : fn.val = 0) (hup : s.requestUp (some fn) = true)
include hfn hup

theorem exec_ideKeySet {a : Answer} (ha : (if ct.length ≠ 1088 ∨ sealed.length ≠ 48 then (⟨0x02, [], s⟩ : Answer)
    else if 1 < dir.toNat ∨ 2 < sub.toNat ∨ 1 < set.toNat then ⟨0x06, [], s⟩
    else if ¬ s.pcx.ideStreams.contains stream ∧ 9 ≤ s.pcx.ideStreams.length then ⟨0x06, [], s⟩
    else match Config.kxOpen s.sec.kxGen ct sealed with
      | none => ⟨0x06, [], s.flag .pcx 0 0x14 (bit 27)⟩
      | some key => ⟨0x00, [], { s with pcx := s.pcx.install (stream, dir, sub, set) (fitTo 32 key) }⟩) = a) :
    exec (.ideKeySet (some fn) tag stream dir sub set ct sealed) s =
      .next (a.state.respond (some fn) 0x0B tag a.status a.payload) := by
  have hvf : fromVf (some fn) = false := decide_eq_false (not_not.2 hfn)
  exact congrArg Host.Outcome.next (State.auteha_eq hup (.inl hvf) ((if_neg (by simp)).trans ha))

end

theorem Pcx.install_keys (x : Pcx) (id : Byte × Byte × Byte × Byte) (key : List Byte) :
    (x.install id key).ideKeys = x.ideKeys.filter (fun e => decide (e.1 ≠ id)) ++ [(id, key)] := rfl

theorem Pcx.install_sets {x : Pcx} {stream dir sub set : Byte} {key : List Byte}
    (h : ideComplete (x.install (stream, dir, sub, set) key).ideKeys stream set = true) :
    (stream, set) ∈ (x.install (stream, dir, sub, set) key).ideSets := by
  have hsets : (x.install (stream, dir, sub, set) key).ideSets =
      x.ideSets.filter (fun e => decide (e.1 ≠ stream)) ++ [(stream, set)] := if_pos h
  rw [hsets]
  exact List.mem_append_right _ (List.mem_singleton_self _)

end Sys2Proof.Machine
open Sys2Proof Sys2Proof.Machine

/-- Settles O53: the control messages by the port's reply, the Auteha commands by the answer that each gives where the
request is taken, and the payloads by the parts that they are put together from. -/
theorem managementPortAnswersRequests : Obligations.ManagementPortAnswersRequests := by
  unfold Obligations.ManagementPortAnswersRequests
  refine ⟨fun a e typ sel s hup => ⟨fun hfree => ?_, s.provisionalId_mod, fun hda => ?_, fun h0 hff => ?_, fun h => ?_,
      congrArg Host.Outcome.next (State.mctpReply_up hup ..), exec_getMctpVersionSupport_known hup,
      exec_getMctpVersionSupport_unknown hup, congrArg Host.Outcome.next (State.mctpReply_up hup ..), fun h => ?_, fun h => ?_⟩,
    fun a e typ sel s hdown => exec_control_down hdown,
    fun doe tag s addr n ws o off data nonce lv block pub sig ct sealed slot x y z w rb =>
      ⟨fun hdown => ⟨?_, congrArg Host.Outcome.next (State.auteha_down hdown),
        congrArg Host.Outcome.next (State.auteha_down hdown)⟩, fun hup hvf => ?_⟩,
    fun doe tag s hup hvf => ⟨does_getInfo tag hup hvf, does_getHealth tag hup hvf, exec_regRead tag hup hvf,
      fun addr ws => exec_regWrite tag hup hvf addr, fun addr n => State.portStatus_ok,
      fun addr ws => exec_regWrite_refused tag hup hvf addr,
      exec_fog_fire tag hup hvf, exec_fog_thaw tag hup hvf,
      fun off data hreach => ⟨exec_imgChunk_badLength tag hup hvf, fun hsome hlen hfits =>
        ⟨exec_imgChunk_owned tag hup hvf hreach hsome hlen hfits, exec_imgChunk_denied tag hup hvf hreach hsome hlen hfits⟩⟩,
      exec_reset_chip tag hup hvf, exec_reset_powerCycle tag hup hvf, fun p => exec_reset_partition tag hup hvf,
      fun p e n g => exec_reset_engine tag hup hvf, fun p => exec_reset_partition_unreachable tag hup hvf⟩,
    fun doe tag nonce s hup => ⟨fun h => ?_, exec_attest_refused tag hup, does_attest tag hup, fun h => ?_,
      does_getIdentity tag hup⟩,
    fun doe tag block pub sig slot rb s hup hvf => ⟨exec_otpWriteGen_badLength hup hvf, exec_otpWriteGen_full hup hvf,
      exec_otpWriteGen_refused hup hvf, fun cur hlens => does_otpWriteGen hup hvf hlens⟩,
    fun fn tag stream dir sub set ct sealed s hfn hup => ⟨fun h => ?_, fun hlens h => ?_, fun hlens hids h => ?_,
      fun hlens hids hfree hopen => ?_, fun key hlens hids hfree hopen => ?_⟩,
    fun tag stream dir sub set ct sealed s hup => congrArg Host.Outcome.next (State.auteha_answers hup (.inl rfl))⟩
  · simp only [List.forall_mem_cons, List.not_mem_nil, false_imp_iff, implies_true, and_true]
    exact ⟨congrArg Host.Outcome.next (State.takeAddress_new hup hfree ..),
      congrArg Host.Outcome.next (State.takeAddress_new hup hfree ..)⟩
  · simp only [List.forall_mem_cons, List.not_mem_nil, false_imp_iff, implies_true, and_true]
    exact ⟨congrArg Host.Outcome.next (State.takeAddress_not (.inr hda) ..),
      congrArg Host.Outcome.next (State.takeAddress_not (.inr hda) ..)⟩
  · exact congrArg Host.Outcome.next ((if_neg (not_not.2 hup)).trans ((if_neg (not_or.2 ⟨h0, hff⟩)).trans
      (State.mctpReply_up (s := { s with mgt := { s.mgt with eid := e } }) hup ..)))
  · exact congrArg Host.Outcome.next ((if_neg (not_not.2 hup)).trans ((if_pos h).trans (State.mctpReply_up hup ..)))
  · exact congrArg Host.Outcome.next ((State.mctpReply_up hup ..).trans (congrArg (fun p => s.emit (.mctp 6 p)) (if_pos h)))
  · exact congrArg Host.Outcome.next ((State.mctpReply_up hup ..).trans (congrArg (fun p => s.emit (.mctp 6 p)) (if_neg h)))
  · simp only [List.forall_mem_cons, List.not_mem_nil, false_imp_iff, implies_true, and_true]
    have hreq : ∀ cmd f, Host.Outcome.next (s.auteha doe cmd tag f) = (.next s : Result) := fun cmd f =>
      congrArg Host.Outcome.next (State.auteha_down hdown)
    exact ⟨hreq .., hreq .., hreq .., hreq .., hreq .., hreq .., exec_reset_down lv hdown, hreq .., hreq ..⟩
  · simp only [List.forall_mem_cons, List.not_mem_nil, false_imp_iff, implies_true, and_true]
    have hreq : ∀ cmd f, cmd ≠ 0x08 → cmd ≠ 0x09 →
        Host.Outcome.next (s.auteha doe cmd tag f) = (.next (s.respond doe cmd tag 5 []) : Result) := fun cmd f h8 h9 =>
      congrArg Host.Outcome.next (State.auteha_denied hup hvf h8 h9)
    exact ⟨hreq _ _ (by decide) (by decide), hreq _ _ (by decide) (by decide), hreq _ _ (by decide) (by decide),
      hreq _ _ (by decide) (by decide), hreq _ _ (by decide) (by decide), hreq _ _ (by decide) (by decide),
      exec_reset_denied lv hup hvf, hreq _ _ (by decide) (by decide), hreq _ _ (by decide) (by decide)⟩
  · exact congrArg Host.Outcome.next (State.auteha_eq (a := ⟨2, [], s⟩) hup (.inr (.inl rfl)) (if_pos h))
  · exact congrArg Host.Outcome.next (State.auteha_eq (a := ⟨6, [], s⟩) hup (.inr (.inr rfl)) (if_pos (Bool.eq_false_iff.1 h)))
  · exact exec_ideKeySet hfn hup (a := ⟨2, [], s⟩) (if_pos (by tauto))
  · exact exec_ideKeySet hfn hup (a := ⟨6, [], s⟩) ((if_neg (by tauto)).trans (if_pos (by omega)))
  · refine exec_ideKeySet hfn hup (a := ⟨6, [], s⟩) ((if_neg (by tauto)).trans ((if_neg (by omega)).trans (if_pos ?_)))
    rw [not_or, not_lt] at h
    exact ⟨fun hc => h.1 (List.contains_iff_mem.1 hc), h.2⟩
  · have hroom : ¬ (¬ s.pcx.ideStreams.contains stream ∧ 9 ≤ s.pcx.ideStreams.length) := fun hc =>
      hfree.elim (fun h => hc.1 (List.contains_iff_mem.2 h)) (fun h => by omega)
    refine exec_ideKeySet hfn hup (a := ⟨6, [], s.flag .pcx 0 0x14 (bit 27)⟩)
      ((if_neg (by tauto)).trans ((if_neg (by omega)).trans ((if_neg hroom).trans ?_)))
    simp only [hopen]
  · have hroom : ¬ (¬ s.pcx.ideStreams.contains stream ∧ 9 ≤ s.pcx.ideStreams.length) := fun hc =>
      hfree.elim (fun h => hc.1 (List.contains_iff_mem.2 h)) (fun h => by omega)
    refine ⟨_, exec_ideKeySet hfn hup
      (a := ⟨0, [], { s with pcx := s.pcx.install (stream, dir, sub, set) (fitTo 32 key) }⟩)
      ((if_neg (by tauto)).trans ((if_neg (by omega)).trans ((if_neg hroom).trans ?_))),
      Pcx.install_keys .., Pcx.install_sets, rfl, rfl⟩
    simp only [hopen]

end

section
/-!
PLDM: its base and monitoring commands, the effecter, and the firmware update. It settles O54.
-/
namespace Sys2Proof.Machine
set_option Elab.async false

/-! ## Replies (R453, R460) -/

section
variable {s : State} {typ cmd : Nat} {f : State → Byte × List Byte × State}

/-- A command that is taken is answered with its completion code and payload, where the command leaves the state. -/
theorem State.pldm_answers (h : s.portUp = true) (hfull : s.fullService = true ∨ typ = 5) :
    s.pldm typ cmd f = (f s).2.2.emit (.pldm typ cmd ((f s).1 :: (f s).2.1)) := by
  refine (if_neg (not_not.2 h)).trans (if_neg ?_)
  rintro ⟨hno, htyp⟩
  exact hfull.elim hno htyp

theorem State.pldm_unsupported (h : s.portUp = true) (hfull : s.fullService = false) (htyp : typ ≠ 5) :
    s.pldm typ cmd f = s.emit (.pldm typ cmd [5]) :=
  (if_neg (not_not.2 h)).trans (if_pos ⟨Bool.eq_false_iff.1 hfull, htyp⟩)

/-- What a command does that answers `a`. -/
theorem State.pldm_eq {a : Byte × List Byte × State} (h : s.portUp = true) (hfull : s.fullService = true ∨ typ = 5)
    (ha : f s = a) : s.pldm typ cmd f = a.2.2.emit (.pldm typ cmd (a.1 :: a.2.1)) := by
  rw [State.pldm_answers h hfull, ha]

theorem State.pldmInfo_answers (h : s.portUp = true) (hfull : s.fullService = true ∨ typ = 5) (code : Byte) (pay : List Byte) :
    s.pldmInfo typ cmd code pay = s.emit (.pldm typ cmd (code :: pay)) := State.pldm_answers h hfull

theorem State.pldmInfo_unsupported (h : s.portUp = true) (hfull : s.fullService = false) (htyp : typ ≠ 5) (code : Byte)
    (pay : List Byte) : s.pldmInfo typ cmd code pay = s.emit (.pldm typ cmd [5]) := State.pldm_unsupported h hfull htyp

end

/-! ## Base and monitoring commands (R453) -/

theorem pldmCommands_eq_nil {n : Nat} : pldmCommands n = [] ↔ n ∉ [0, 2, 5] := by
  unfold pldmCommands
  split
  · simp
  · simp
  · simp
  case h_4 h0 h2 h5 => exact iff_of_true rfl (by simpa using ⟨h0, h2, h5⟩)

section
variable {s : State} (hup : s.portUp = true) (hfull : s.fullService = true)
include hup hfull

theorem exec_pldmType_known {typ : Byte} (h : typ.toNat ∈ [0, 2, 5]) : exec (.getPldmVersion typ) s =
      .next (s.emit (.pldm 0 0x03 (0 :: leBytes 4 (Config.pldmVersion typ.toNat).toNat))) ∧
    exec (.getPldmCommands typ) s = .next (s.emit (.pldm 0 0x05 (0 :: bitMap 32 (pldmCommands typ.toNat)))) := by
  have hsome : ¬ pldmCommands typ.toNat = [] := fun hc => pldmCommands_eq_nil.1 hc h
  exact ⟨congrArg Host.Outcome.next ((if_neg hsome).trans (State.pldmInfo_answers hup (.inl hfull) ..)),
    congrArg Host.Outcome.next ((if_neg hsome).trans (State.pldmInfo_answers hup (.inl hfull) ..))⟩

theorem exec_pldmType_unknown {typ : Byte} (h : typ.toNat ∉ [0, 2, 5]) :
    exec (.getPldmVersion typ) s = .next (s.emit (.pldm 0 0x03 [0x83])) ∧
    exec (.getPldmCommands typ) s = .next (s.emit (.pldm 0 0x05 [0x83])) := by
  have hnone := pldmCommands_eq_nil.2 h
  exact ⟨congrArg Host.Outcome.next ((if_pos hnone).trans (State.pldmInfo_answers hup (.inl hfull) ..)),
    congrArg Host.Outcome.next ((if_pos hnone).trans (State.pldmInfo_answers hup (.inl hfull) ..))⟩

theorem exec_getSensorReading_some {n : BitVec 16} {r : Nat} (h : s.sensor n.toNat = some r) :
    exec (.getSensorReading n) s = .next (s.emit (.pldm 2 0x11 (0 :: leBytes 4 r))) := by
  refine congrArg Host.Outcome.next ?_
  rw [h]
  exact State.pldmInfo_answers hup (.inl hfull) ..

theorem exec_getSensorReading_none {n : BitVec 16} (h : s.sensor n.toNat = none) :
    exec (.getSensorReading n) s = .next (s.emit (.pldm 2 0x11 [0x80])) := by
  refine congrArg Host.Outcome.next ?_
  rw [h]
  exact State.pldmInfo_answers hup (.inl hfull) ..

theorem exec_getPdr {h : W32} (hle : h.toNat ≤ 8) : exec (.getPdr h) s =
    .next (s.emit (.pldm 2 0x51 (0 :: Config.pldmRecord (Nat.max 1 h.toNat)))) :=
  congrArg Host.Outcome.next ((if_neg (Nat.not_lt.2 hle)).trans (State.pldmInfo_answers hup (.inl hfull) ..))

theorem exec_getPdr_none {h : W32} (hlt : 8 < h.toNat) : exec (.getPdr h) s = .next (s.emit (.pldm 2 0x51 [0x82])) :=
  congrArg Host.Outcome.next ((if_pos hlt).trans (State.pldmInfo_answers hup (.inl hfull) ..))

/-! ### The effecter (R466) -/

theorem does_setNumericEffecterValue {e : BitVec 16} {v : W32} (he : e = 1) (hlo : 600 ≤ v.toNat) (hhi : v.toNat ≤ 2400) :
    Does (.setNumericEffecterValue e v) s (fun t =>
      commWord .pwr (t.blk ⟨.pwr, 0⟩) 0x48 = v ∧ stagedWord .pwr (t.blk ⟨.pwr, 0⟩) 0x48 = v ∧
      t.out = s.out ++ [.pldm 2 0x31 [0]] ∧ t.except [.blocks, .out] = s.except [.blocks, .out]) := by
  obtain ⟨r, hr⟩ : ∃ r : BlockRegs, { s.blk ⟨.pwr, 0⟩ with
    staged := SMap.set (resetWord .pwr 0x48) (s.blk ⟨.pwr, 0⟩).staged 0x48 v
    comm := SMap.set (resetWord .pwr 0x48) (s.blk ⟨.pwr, 0⟩).comm 0x48 v } = r := ⟨_, rfl⟩
  have hexec : exec (.setNumericEffecterValue e v) s =
      .next ((s.setBlk ⟨.pwr, 0⟩ r).emit (.pldm 2 0x31 [0])) := by
    refine congrArg Host.Outcome.next (State.pldm_eq (a := (0, [], s.setBlk ⟨.pwr, 0⟩ r)) hup (.inl hfull)
      ((if_neg (not_not.2 he)).trans ((if_neg (by omega)).trans ?_)))
    rw [← hr]
    rfl
  have hblk : ((s.setBlk ⟨.pwr, 0⟩ r).emit (.pldm 2 0x31 [0])).blk ⟨.pwr, 0⟩ = r :=
    (State.blk_setBlk ..).trans (if_pos rfl)
  refine ⟨_, hexec, ?_, ?_, rfl, rfl⟩
  · rw [hblk, ← hr]
    exact SMap.get_set_self ..
  · rw [hblk, ← hr]
    exact SMap.get_set_self ..

theorem exec_setNumericEffecterValue_bad {e : BitVec 16} {v : W32} (he : e = 1) (h : v.toNat < 600 ∨ 2400 < v.toNat) :
    exec (.setNumericEffecterValue e v) s = .next (s.emit (.pldm 2 0x31 [2])) :=
  congrArg Host.Outcome.next (State.pldm_eq (a := (2, [], s)) hup (.inl hfull) ((if_neg (not_not.2 he)).trans (if_pos h)))

theorem exec_effecter_unknown {e : BitVec 16} {v : W32} (he : e ≠ 1) :
    exec (.setNumericEffecterValue e v) s = .next (s.emit (.pldm 2 0x31 [0x80])) ∧
    exec (.getNumericEffecterValue e) s = .next (s.emit (.pldm 2 0x32 [0x80])) :=
  ⟨congrArg Host.Outcome.next (State.pldm_eq (a := (0x80, [], s)) hup (.inl hfull) (if_pos he)),
    congrArg Host.Outcome.next ((if_neg he).trans (State.pldmInfo_answers hup (.inl hfull) ..))⟩

end

/-- Without management firmware no command but those of the update is supported. -/
theorem exec_pldm_unsupported {s : State} {typ : Byte} {n e : BitVec 16} {h v : W32} (hup : s.portUp = true)
    (hno : s.fullService = false) : ∀ i ∈ [(Instr.getTid, 0, 0x02), (.getPldmVersion typ, 0, 0x03), (.getPldmTypes, 0, 0x04),
        (.getPldmCommands typ, 0, 0x05), (.getSensorReading n, 2, 0x11), (.getStateSensorReadings n, 2, 0x21),
        (.setNumericEffecterValue e v, 2, 0x31), (.getNumericEffecterValue e, 2, 0x32), (.getPdrRepositoryInfo, 2, 0x50),
        (.getPdr h, 2, 0x51)],
      exec i.1 s = .next (s.emit (.pldm i.2.1 i.2.2 [5])) := by
  have hinfo : ∀ (typ cmd : Nat) (code : Byte) (pay : List Byte), typ ≠ 5 →
      s.pldmInfo typ cmd code pay = s.emit (.pldm typ cmd [5]) := fun _ _ _ _ => fun h5 =>
    State.pldmInfo_unsupported hup hno h5 ..
  have heither : ∀ (c : Prop) [Decidable c] (typ cmd : Nat) (x y : Byte) (p r : List Byte), typ ≠ 5 →
      (if c then s.pldmInfo typ cmd x p else s.pldmInfo typ cmd y r) = s.emit (.pldm typ cmd [5]) :=
    fun c _ typ cmd x y p r h5 => by
      rw [hinfo typ cmd x p h5, hinfo typ cmd y r h5, ite_self]
  simp only [List.forall_mem_cons, List.not_mem_nil, false_imp_iff, implies_true, and_true]
  refine ⟨congrArg Host.Outcome.next (hinfo _ _ _ _ (by decide)), congrArg Host.Outcome.next (heither _ _ _ _ _ _ _ (by decide)),
    congrArg Host.Outcome.next (hinfo _ _ _ _ (by decide)), congrArg Host.Outcome.next (heither _ _ _ _ _ _ _ (by decide)),
    congrArg Host.Outcome.next ?_, congrArg Host.Outcome.next (hinfo _ _ _ _ (by decide)),
    congrArg Host.Outcome.next (State.pldm_unsupported hup hno (by decide)),
    congrArg Host.Outcome.next (heither _ _ _ _ _ _ _ (by decide)), congrArg Host.Outcome.next (hinfo _ _ _ _ (by decide)),
    congrArg Host.Outcome.next (heither _ _ _ _ _ _ _ (by decide))⟩
  split
  · exact hinfo _ _ _ _ (by decide)
  · exact hinfo _ _ _ _ (by decide)

/-! ## The firmware update (R454) -/

section
variable {s : State} (hup : s.portUp = true)
include hup

theorem exec_getFirmwareParameters : exec .getFirmwareParameters s = .next (s.emit (.pldm 5 0x02
    ([0, 1, 0, (if s.activeB 1 then 1 else 0)] ++ [2, 0, (if s.activeB 2 then 1 else 0)] ++
      [3, 0, (if s.activeB 3 then 1 else 0)]))) :=
  congrArg Host.Outcome.next (State.pldmInfo_answers hup (.inr rfl) ..)

theorem exec_update_idle (h : s.mgt.fwSt = .idle) : exec .requestUpdate s =
      .next (({ s with mgt := { s.mgt with fwSt := .learn, fwComps := [] } } : State).emit (.pldm 5 0x10 [0])) ∧
    exec .cancelUpdate s = .next (s.emit (.pldm 5 0x1D [0x80])) ∧
    exec .cancelUpdateComponent s = .next (s.emit (.pldm 5 0x1C [0x80])) := by
  refine ⟨congrArg Host.Outcome.next (State.pldm_eq
      (a := (0, [], { s with mgt := { s.mgt with fwSt := .learn, fwComps := [] } })) hup (.inr rfl) (if_pos h)),
    congrArg Host.Outcome.next (State.pldm_eq (a := (0x80, [], s)) hup (.inr rfl) (if_pos h)),
    congrArg Host.Outcome.next (State.pldm_eq (a := (0x80, [], s)) hup (.inr rfl) ?_)⟩
  simp only [h]

theorem exec_update_under (h : s.mgt.fwSt ≠ .idle) : exec .requestUpdate s = .next (s.emit (.pldm 5 0x10 [0x81])) ∧
    exec .cancelUpdate s = .next (({ s with mgt := { s.mgt with fwSt := .idle } } : State).emit (.pldm 5 0x1D [0])) :=
  ⟨congrArg Host.Outcome.next (State.pldm_eq (a := (0x81, [], s)) hup (.inr rfl) (if_neg h)),
    congrArg Host.Outcome.next (State.pldm_eq (a := (0, [], s.setFw .idle)) hup (.inr rfl) (if_neg h))⟩

theorem exec_passComponentTable {comps : List (BitVec 16)} (h : s.mgt.fwSt = .learn) (hsome : comps ≠ [])
    (hall : ∀ c ∈ comps, c ∈ components) : exec (.passComponentTable comps) s =
      .next (({ s with mgt := { s.mgt with fwSt := .ready, fwComps := comps } } : State).emit (.pldm 5 0x13 [0])) := by
  have hknown : comps.all components.contains = true :=
    List.all_eq_true.2 fun c hc => List.contains_iff_mem.2 (hall c hc)
  exact congrArg Host.Outcome.next (State.pldm_eq
    (a := (0, [], { s with mgt := { s.mgt with fwSt := .ready, fwComps := comps } })) hup (.inr rfl)
    ((if_neg (not_not.2 h)).trans (if_neg (by simp [hsome, hknown]))))

theorem exec_passComponentTable_not {comps : List (BitVec 16)} (h : s.mgt.fwSt ≠ .learn) :
    exec (.passComponentTable comps) s = .next (s.emit (.pldm 5 0x13 [0x84])) :=
  congrArg Host.Outcome.next (State.pldm_eq (a := (0x84, [], s)) hup (.inr rfl) (if_pos h))

theorem exec_updateComponent {comp : BitVec 16} {size : Nat} (h : s.mgt.fwSt = .ready) (hin : comp ∈ s.mgt.fwComps)
    (hpos : 0 < size) (hfits : size ≤ compSize comp.toNat) : exec (.updateComponent comp size) s =
      .next ((({ s with mgt := { s.mgt with fwSt := .download, fwComp := comp, fwSize := size, fwGot := 0 } } : State).emit
        (.pldm 5 0x14 [0])).emit (.pldm 5 0x15 (leBytes 4 0 ++ leBytes 4 size))) := by
  have hgood : ¬ (¬ s.mgt.fwComps.contains comp = true ∨ size = 0 ∨ compSize comp.toNat < size) := by
    rw [List.contains_iff_mem]
    simp only [hin, not_true_eq_false, false_or]
    omega
  obtain ⟨u, hu⟩ : ∃ u, ({ s with mgt := { s.mgt with
    fwSt := .download, fwComp := comp, fwSize := size, fwGot := 0 } } : State) = u := ⟨_, rfl⟩
  have hst : u.mgt.fwSt = .download := by rw [← hu]
  have hreply : ∀ f : State → Byte × List Byte × State, f s = (0, [], u) →
      s.pldm 5 0x14 f = u.emit (.pldm 5 0x14 [0]) := fun f hf => State.pldm_eq hup (.inr rfl) hf
  refine congrArg Host.Outcome.next ?_
  dsimp only
  rw [hreply _ ((if_neg (not_not.2 h)).trans ((if_neg hgood).trans (by rw [hu]; rfl))), hu]
  exact if_pos ⟨hst, h⟩

theorem exec_update_notReady {comp : BitVec 16} {size : Nat} {sc : Bool} (h : s.mgt.fwSt ≠ .ready) :
    exec (.updateComponent comp size) s = .next (s.emit (.pldm 5 0x14 [0x84])) ∧
    exec (.activateFirmware sc) s = .next (s.emit (.pldm 5 0x1A [0x84])) := by
  have hreply : ∀ f : State → Byte × List Byte × State, f s = (0x84, [], s) →
      s.pldm 5 0x14 f = s.emit (.pldm 5 0x14 [0x84]) := fun f hf => State.pldm_eq hup (.inr rfl) hf
  refine ⟨congrArg Host.Outcome.next ?_,
    congrArg Host.Outcome.next (State.pldm_eq (a := (0x84, [], s)) hup (.inr rfl) (if_pos h))⟩
  dsimp only
  rw [hreply _ (if_pos h)]
  exact if_neg fun hc => h hc.2

theorem exec_update_ready (h : s.mgt.fwSt = .ready) : exec (.activateFirmware true) s = .next (s.emit (.pldm 5 0x1A [0x8C])) ∧
    exec (.activateFirmware false) s =
      .next (({ s with mgt := { s.mgt with fwSt := .idle } } : State).emit (.pldm 5 0x1A [0])) ∧
    exec .cancelUpdateComponent s = .next (s.emit (.pldm 5 0x1C [0x84])) := by
  refine ⟨congrArg Host.Outcome.next (State.pldm_eq (a := (0x8C, [], s)) hup (.inr rfl)
      ((if_neg (not_not.2 h)).trans (if_pos rfl))),
    congrArg Host.Outcome.next (State.pldm_eq (a := (0, [], s.setFw .idle)) hup (.inr rfl)
      ((if_neg (not_not.2 h)).trans (if_neg (by decide)))),
    congrArg Host.Outcome.next (State.pldm_eq (a := (0x84, [], s)) hup (.inr rfl) ?_)⟩
  simp only [h]

theorem exec_cancelUpdateComponent_download (h : s.mgt.fwSt = .download) : exec .cancelUpdateComponent s =
    .next (({ s with mgt := { s.mgt with fwSt := .ready } } : State).emit (.pldm 5 0x1C [0])) := by
  refine congrArg Host.Outcome.next (State.pldm_eq (a := (0, [], s.setFw .ready)) hup (.inr rfl) ?_)
  simp only [h]
  rfl

end

/-! ### The transfer and its end -/

/-- What was sent stays sent when an alert is raised. -/
theorem State.mem_out_alert {s : State} {o : Out} (h : o ∈ s.out) (bits : W32) : o ∈ (s.alert bits).out := by
  have hone : ∀ u : State, o ∈ u.out → o ∈ u.sendNotice.out := fun u hu => by
    unfold State.sendNotice
    split
    · exact hu
    · dsimp only
      split
      · exact List.mem_append_left _ (List.mem_append_left _ hu)
      · exact List.mem_append_left _ hu
  have hall : ∀ (l : List Nat) (u : State), o ∈ u.out → o ∈ (l.foldl (fun s _ => s.sendNotice) u).out := fun l => by
    induction l with
    | nil => exact fun _ hu => hu
    | cons i l ih => exact fun u hu => ih _ (hone u hu)
  exact hall _ _ h

/-- An alert that is raised is set. -/
theorem State.alert_bit (s : State) {i : Nat} (h : (bit i).getLsbD i = true) :
    ((s.alert (bit i)).flags .mgt 0 0x14).getLsbD i = true := by
  rw [State.flags_alert, BitVec.getLsbD_or, h, Bool.or_true]

/-- Whether a copy passes depends on flash and OTP alone. -/
theorem State.copyOk_of {s t : State} (hflash : t.flash = s.flash) (hotp : t.otp = s.otp) (c : Nat) : t.copyOk c = s.copyOk c := by
  unfold State.copyOk State.bundleOk State.verify State.keyOk State.otpBlock State.activeB State.flashBuf State.flashLe
    State.flashByte
  rw [hflash, hotp]

/-- The bytes of a chunk are in the inactive copy. -/
def State.chunkPut (s : State) (off : Nat) (data : List Byte) : State := { s with
  flash := flashPut s.flash (compBase s.mgt.fwComp.toNat (!s.activeB s.mgt.fwComp.toNat) + off) data
  mgt := { s.mgt with fwGot := off + data.length } }

theorem exec_firmwareData_taken {s : State} {off : Nat} {data : List Byte} (hup : s.portUp = true)
    (hst : s.mgt.fwSt = .download) (hoff : off = s.mgt.fwGot) (hfits : off + data.length ≤ s.mgt.fwSize) (last : Bool) :
    exec (.firmwareData off data last) s = .next (if last then
      (s.chunkPut off data).fwEnd (decide (off + data.length = s.mgt.fwSize)) else (s.chunkPut off data).emit
        (.pldm 5 0x15 (leBytes 4 (off + data.length) ++ leBytes 4 (s.mgt.fwSize - (off + data.length))))) :=
  congrArg Host.Outcome.next (if_neg (by
    rintro (h | h | h | h)
    · exact h hup
    · exact h hst
    · exact h hoff
    · omega))

theorem exec_firmwareData_not {s : State} {off : Nat} {data : List Byte} (h : s.portUp = false ∨ s.mgt.fwSt ≠ .download ∨
    off ≠ s.mgt.fwGot ∨ s.mgt.fwSize < off + data.length) (b : Bool) : exec (.firmwareData off data b) s = .next s :=
  congrArg Host.Outcome.next (if_pos (h.imp_left (Bool.eq_false_iff.1 ·)))

/-- The state at the end of a transfer, its component READY again. -/
theorem State.copyOk_chunkPut (s : State) (off : Nat) (data : List Byte) :
    ((s.chunkPut off data).setFw .ready).copyOk (s.chunkPut off data).mgt.fwComp.toNat = ({ s with
      flash := flashPut s.flash (compBase s.mgt.fwComp.toNat (!s.activeB s.mgt.fwComp.toNat) + off) data
      mgt := { s.mgt with fwGot := off + data.length, fwSt := .ready } } : State).copyOk s.mgt.fwComp.toNat :=
  State.copyOk_of (s := { s with
      flash := flashPut s.flash (compBase s.mgt.fwComp.toNat (!s.activeB s.mgt.fwComp.toNat) + off) data
      mgt := { s.mgt with fwGot := off + data.length, fwSt := .ready } })
    (t := (s.chunkPut off data).setFw .ready) rfl rfl s.mgt.fwComp.toNat

/-- An update's end but for its alert keeps FW_DONE's, what it wrote to flash and what it sent. -/
theorem State.fwEnd_alerted {v : State} {o : Out} {fl : List (Nat × Byte)} (hflash : v.flash = fl)
    (hst : v.mgt.fwSt = .ready) (ho : o ∈ v.out) : (v.alert (bit 27)).flash = fl ∧ (v.alert (bit 27)).mgt.fwSt = .ready ∧
    o ∈ (v.alert (bit 27)).out ∧ ((v.alert (bit 27)).flags .mgt 0 0x14).getLsbD 27 = true :=
  ⟨(State.alert_see (π := State.flash) _ _ (by simp)).trans hflash,
    (congrArg Mgt.fwSt (State.alert_see (π := State.mgt) _ _ (by simp))).trans hst, State.mem_out_alert ho _,
    State.alert_bit _ (by decide)⟩

theorem State.fwEnd_part (s : State) : s.fwEnd false = ((s.setFw .ready).emit (.pldm 5 0x16 [1])).alert (bit 27) := rfl

theorem State.fwEnd_bad {s : State} (h : (s.setFw .ready).copyOk s.mgt.fwComp.toNat = false) : s.fwEnd true =
    (((s.setFw .ready).emit (.pldm 5 0x16 [0])).emit (.pldm 5 0x17 [1])).alert (bit 27) := by
  have hcopy : ((s.setFw .ready).emit (.pldm 5 0x16 [0])).copyOk s.mgt.fwComp.toNat = false :=
    (State.copyOk_of (s := s.setFw .ready) (t := (s.setFw .ready).emit (.pldm 5 0x16 [0])) rfl rfl _).trans h
  unfold State.fwEnd
  exact (if_neg (by decide)).trans (if_pos (Bool.eq_false_iff.1 hcopy))

/-- A transfer whose copy passes makes that copy the active one. -/
def State.fwActivated (s : State) : State :=
  let t := (s.setFw .ready).emit (.pldm 5 0x16 [plOk])
  { t with flash := flashPut t.flash (s.mgt.fwComp.toNat - 1) [if t.activeB s.mgt.fwComp.toNat then 0 else 1] }

theorem State.fwEnd_good {s : State} (h : (s.setFw .ready).copyOk s.mgt.fwComp.toNat = true) : s.fwEnd true =
    ((s.fwActivated.emit (.pldm 5 0x17 [plOk])).emit (.pldm 5 0x18 [plOk])).alert (bit 27) := by
  have hcopy : ((s.setFw .ready).emit (.pldm 5 0x16 [plOk])).copyOk s.mgt.fwComp.toNat = true :=
    (State.copyOk_of (s := s.setFw .ready) (t := (s.setFw .ready).emit (.pldm 5 0x16 [plOk])) rfl rfl _).trans h
  unfold State.fwEnd
  exact (if_neg (by decide)).trans (if_neg (not_not.2 hcopy))

end Sys2Proof.Machine
open Sys2Proof Sys2Proof.Machine

/-- Settles O54: each command by the reply that its type gives, and the transfer by its chunks and the three ends that it
can have. -/
theorem pldmAnswersAndUpdatesFirmware : Obligations.PldmAnswersAndUpdatesFirmware := by
  unfold Obligations.PldmAnswersAndUpdatesFirmware
  refine ⟨fun s typ n e h v hup hfull => ⟨congrArg Host.Outcome.next (State.pldmInfo_answers hup (.inl hfull) ..),
      exec_pldmType_known hup hfull, exec_pldmType_unknown hup hfull,
      congrArg Host.Outcome.next (State.pldmInfo_answers hup (.inl hfull) ..), fun r => exec_getSensorReading_some hup hfull,
      exec_getSensorReading_none hup hfull, congrArg Host.Outcome.next (State.pldmInfo_answers hup (.inl hfull) ..),
      congrArg Host.Outcome.next (State.pldmInfo_answers hup (.inl hfull) ..), exec_getPdr hup hfull,
      exec_getPdr_none hup hfull, does_setNumericEffecterValue hup hfull, exec_setNumericEffecterValue_bad hup hfull,
      exec_effecter_unknown hup hfull, fun he => ?_⟩,
    fun s typ n e h v => exec_pldm_unsupported,
    fun s comps comp size sc hup => ⟨congrArg Host.Outcome.next (State.pldmInfo_answers hup (.inr rfl) ..),
      exec_getFirmwareParameters hup, congrArg Host.Outcome.next (State.pldmInfo_answers hup (.inr rfl) ..),
      exec_update_idle hup, exec_update_under hup, exec_passComponentTable hup, exec_passComponentTable_not hup,
      exec_updateComponent hup, exec_update_notReady hup, exec_update_ready hup, exec_cancelUpdateComponent_download hup⟩,
    fun s off data => ⟨fun hup hst hoff hfits => ⟨?_, fun hpart => ?_, fun hwhole => ⟨fun hbad => ?_, fun hgood => ?_⟩⟩,
      exec_firmwareData_not⟩⟩
  · exact congrArg Host.Outcome.next ((if_pos he).trans (State.pldmInfo_answers hup (.inl hfull) ..))
  · exact exec_firmwareData_taken hup hst hoff hfits false
  · have hexec := exec_firmwareData_taken hup hst hoff hfits true
    rw [if_pos rfl, decide_eq_false hpart, State.fwEnd_part] at hexec
    exact ⟨_, hexec, State.fwEnd_alerted rfl rfl (List.mem_append_right _ (List.mem_singleton_self _))⟩
  · have hexec := exec_firmwareData_taken hup hst hoff hfits true
    rw [if_pos rfl, decide_eq_true hwhole, State.fwEnd_bad ((s.copyOk_chunkPut off data).trans hbad)] at hexec
    exact ⟨_, hexec, State.fwEnd_alerted rfl rfl (List.mem_append_right _ (List.mem_singleton_self _))⟩
  · have hexec := exec_firmwareData_taken hup hst hoff hfits true
    rw [if_pos rfl, decide_eq_true hwhole, State.fwEnd_good ((s.copyOk_chunkPut off data).trans hgood)] at hexec
    exact ⟨_, hexec, State.fwEnd_alerted rfl rfl (List.mem_append_right _ (List.mem_singleton_self _))⟩

end


section

/-! # Start-up and the loss of supplies

The steps of the chip's start, from the settings area that the ROM chooses to the runtimes that the verified keeper firmware
starts, and what a supply that goes takes with it. It settles O55. -/

namespace Sys2Proof.Machine

set_option Elab.async false

/-! ### The settings area chosen -/

/-- The last place of a list whose element passes is where one passes and none beyond does. -/
theorem last_place_passing {α : Type} {l : List α} {p : α → Bool} {i : Nat}
    (h : ((l.zipIdx.filter (fun x => p x.1)).map (·.2)).getLast? = some i) :
    ∃ a, l[i]? = some a ∧ p a = true ∧ ∀ j b, i < j → l[j]? = some b → p b = false := by
  have hmem : ∀ j, j ∈ (l.zipIdx.filter (fun x => p x.1)).map (·.2) ↔ ∃ a, l[j]? = some a ∧ p a = true := fun j => by
    simp only [List.mem_map, List.mem_filter, Prod.exists, List.mem_zipIdx_iff_getElem?]
    exact ⟨fun ⟨a, j', h, hj⟩ => ⟨a, hj ▸ h⟩, fun ⟨a, h⟩ => ⟨a, j, h, rfl⟩⟩
  have hsorted : ((l.zipIdx.filter (fun x => p x.1)).map (·.2)).Pairwise (· < ·) := by
    refine List.Pairwise.sublist (l₂ := l.zipIdx.map (·.2)) (List.filter_sublist.map _) ?_
    rw [List.zipIdx_map_snd]
    exact List.pairwise_lt_range'
  obtain ⟨ys, hys⟩ := List.getLast?_eq_some_iff.1 h
  rw [hys] at hmem hsorted
  obtain ⟨a, ha, hp⟩ := (hmem i).1 (List.mem_append_right _ (List.mem_singleton_self i))
  refine ⟨a, ha, hp, fun j b hj hb => Bool.eq_false_iff.2 fun hpb => ?_⟩
  rcases List.mem_append.1 ((hmem j).2 ⟨b, hb, hpb⟩) with hjy | hji
  · exact absurd ((List.pairwise_append.1 hsorted).2.2 j hjy i (List.mem_singleton_self i)) (by omega)
  · exact absurd (List.mem_singleton.1 hji) (by omega)

/-- The ROM reads OTP: the area in use is programmed and valid, and every programmed one above it is BAD. -/
theorem State.inUse_readOtp {s : State} {i : Nat} (h : s.readOtp.otp.inUse = some i) :
    ∃ a, s.readOtp.otp.areas[i]? = some a ∧ a.used = true ∧ a.bad = false ∧ otpValid i a.data = true ∧
      ∀ j b, i < j → s.readOtp.otp.areas[j]? = some b → b.used = true → b.bad = true := by
  obtain ⟨areas, hareas⟩ : ∃ l : List OtpArea, s.otp.areas.zipIdx.map (fun x =>
    { x.1 with bad := x.1.used && !(otpValid x.2 x.1.data) }) = l := ⟨_, rfl⟩
  have hotp : s.readOtp.otp =
      ⟨areas, ((areas.zipIdx.filter (fun x => x.1.used && !x.1.bad)).map (·.2)).getLast?, none⟩ := by
    unfold State.readOtp
    dsimp only
    rw [hareas]
    split
    · exact State.alert_see (π := State.otp) _ _ (by simp)
    · rfl
  rw [hotp] at h ⊢
  obtain ⟨a, ha, hpass, hlast⟩ := last_place_passing (p := fun x : OtpArea => x.used && !x.bad) h
  obtain ⟨hused, hbad⟩ : a.used = true ∧ a.bad = false := by simpa using hpass
  have hvalid : otpValid i a.data = true := by
    rw [← hareas, List.getElem?_map, List.getElem?_zipIdx] at ha
    obtain ⟨x, -, rfl⟩ : ∃ x, s.otp.areas[i]? = some x ∧ ({ x with bad := x.used && !(otpValid i x.data) } : OtpArea) = a := by
      simpa using ha
    simpa [show x.used = true from hused] using hbad
  exact ⟨a, ha, hused, hbad, hvalid, fun j b hj hb hu => by simpa [hu] using hlast j b hj hb⟩

theorem does_auxPowerUp {s : State} (haux : s.pwr.aux = false) : Does .auxPowerUp s (fun t => t.pwr.aux = true ∧
    t.boot.otpRead = true ∧ t.boot.mgmtUp = false ∧
    (∀ i, t.otp.inUse = some i → ∃ a, t.otp.areas[i]? = some a ∧ a.used = true ∧ a.bad = false ∧
      otpValid i a.data = true ∧ (∀ j b, i < j → t.otp.areas[j]? = some b → b.used = true → b.bad = true))) := by
  refine ⟨_, congrArg Host.Outcome.next (if_neg (Bool.eq_false_iff.1 haux)), ?_, ?_, ?_, fun i => State.inUse_readOtp⟩
  · exact congrArg Pwr.aux (State.readOtp_see (π := State.pwr) _ (by simp))
  · exact congrArg Boot.otpRead (State.readOtp_see (π := State.boot) _ (by simp))
  · exact congrArg Boot.mgmtUp (State.readOtp_see (π := State.boot) _ (by simp))

theorem does_auxPowerLoss (s : State) : Does .auxPowerLoss s (fun t => t.flash = s.flash ∧ t.straps = s.straps ∧
    (s.otp.writing = none → t.otp.areas = s.otp.areas) ∧
    (∀ i, s.otp.writing = some i → t.otp.areas = s.otp.areas.set i ⟨true, true, []⟩) ∧
    t.pcx.perst = s.pcx.perst ∧ t.pending = s.pending ∧ t.mem = [] ∧ t.blocks = [] ∧ t.ctxs = [] ∧ t.ques = [] ∧
    t.pwr = { Pwr.reset with v48 := s.pwr.v48 }) := by
  have hareas : s.unpowered.otp.areas = match s.otp.writing with
    | some i => s.otp.areas.set i ⟨true, true, []⟩
    | none => s.otp.areas := rfl
  refine ⟨_, rfl, rfl, rfl, fun h => ?_, fun i h => ?_, rfl, rfl, rfl, rfl, rfl, rfl, rfl⟩
  · rw [hareas, h]
  · rw [hareas, h]

/-! ### The converters -/

/-- A domain that comes on with the converters running keeps the supplies as they are. -/
theorem State.pwr_domainOn {s : State} (hconv : s.pwr.conv = true) {d : Nat} (hd : domUnit d = .pcie ∨ domUnit d = .hub)
    (links : Nat) : (s.domainOn d links).pwr = (s.setDom d true).pwr := by
  have hon : s.domainOn d links = (s.setDom d true).loseUnit d := by
    refine (if_neg (not_not.2 hconv)).trans ?_
    rcases hd with hd | hd <;> simp only [hd]
  exact (congrArg State.pwr hon).trans (State.loseUnit_see (π := State.pwr) _ _ (by simp))

/-- The supplies and a domain that is on stay so in step 5. -/
theorem State.pcieStart_supplies {s : State} {d : Nat} (hd : s.domOn d = true) : s.pcieStart.pwr.v48 = s.pwr.v48 ∧
    s.pcieStart.pwr.conv = s.pwr.conv ∧ s.pcieStart.pwr.spine = s.pwr.spine ∧ s.pcieStart.domOn d = true := by
  unfold State.pcieStart
  split
  next h =>
    obtain ⟨hconv, -⟩ := h
    have hpwr := State.pwr_domainOn hconv (d := domPcie) (.inl rfl) 0
    refine ⟨(congrArg Pwr.v48 hpwr).trans rfl, (congrArg Pwr.conv hpwr).trans rfl, (congrArg Pwr.spine hpwr).trans rfl,
      (congrArg (fun p : Pwr => p.on.getLsbD d) hpwr).trans ?_⟩
    exact (BitVec.getLsbD_or ..).trans (by rw [show s.pwr.on.getLsbD d = true from hd, Bool.true_or])
  next => exact ⟨rfl, rfl, rfl, hd⟩

/-- Step 4, where it is due, starts the converters, the mesh spine and the hub. -/
theorem State.startConv_due {s : State} (haux : s.pwr.aux = true) (hfw : s.sec.mgmtFw = some true) (h48 : s.pwr.v48 = true)
    (hlock : s.pwr.lockout = false) (htrip : s.pwr.tripped = false) (hconv : s.pwr.conv = false) :
    s.startConv.pwr.v48 = true ∧ s.startConv.pwr.conv = true ∧ s.startConv.pwr.spine = true ∧
      s.startConv.domOn domHub = true := by
  have hdue : s.startConv = (({ s with pwr := { s.pwr with conv := true, spine := true } } : State).domainOn domHub 0).pcieStart :=
    if_pos ⟨haux, hfw, h48, by simp [hlock], by simp [htrip], by simp [hconv]⟩
  have hpwr := State.pwr_domainOn (s := { s with pwr := { s.pwr with conv := true, spine := true } }) rfl (d := domHub) (.inr rfl) 0
  obtain ⟨u, hu⟩ : ∃ u, ({ s with pwr := { s.pwr with conv := true, spine := true } } : State).domainOn domHub 0 = u := ⟨_, rfl⟩
  rw [hu] at hdue hpwr
  have hhub : u.domOn domHub = true := (congrArg (fun p : Pwr => p.on.getLsbD domHub) hpwr).trans
    (State.domOn_setDom { s with pwr := { s.pwr with conv := true, spine := true } } true (by decide))
  obtain ⟨h1, h2, h3, h4⟩ := State.pcieStart_supplies hhub
  rw [hdue]
  exact ⟨h1.trans ((congrArg Pwr.v48 hpwr).trans h48), h2.trans (congrArg Pwr.conv hpwr), h3.trans (congrArg Pwr.spine hpwr), h4⟩

theorem State.startConv_held {s : State} (h : ¬ (s.pwr.aux = true ∧ s.sec.mgmtFw = some true ∧ s.pwr.v48 = true ∧
    s.pwr.lockout = false ∧ s.pwr.tripped = false ∧ s.pwr.conv = false)) : s.startConv = s :=
  if_neg (by simpa only [Bool.not_eq_true] using h)

/-! ### Verified firmware -/

/-- The state that the management firmware's verification leaves before step 4, but for its measurements (R460 steps 2, 3). -/
def State.mgmtVerified (s : State) (fw idOk : Bool) (slots : List (List Byte)) : State := { s with
  sec := { s.sec with mgmtFw := some fw, idOk := idOk, kxGen := s.sec.kxGen + 1, slots := slots }
  boot := { s.boot with mgmtUp := true } }

/-- The measurements after it: OTP's, the firmware's, and none further. -/
def mgmtSlots (z otp firm : List Byte) : List (List Byte) := [otp, firm, z, z, z, z, z, z]

theorem getD_mgmtSlots {z otp firm : List Byte} {i : Nat} (hlo : 2 ≤ i) (hhi : i < 8) : (mgmtSlots z otp firm).getD i [] = z := by
  obtain rfl | rfl | rfl | rfl | rfl | rfl : i = 2 ∨ i = 3 ∨ i = 4 ∨ i = 5 ∨ i = 6 ∨ i = 7 := by omega
  all_goals rfl

theorem exec_mgmtFirmwareVerified {s : State} (haux : s.pwr.aux = true) (hread : s.boot.otpRead = true)
    (hup : s.boot.mgmtUp = false) : ∃ idOk, exec .mgmtFirmwareVerified s = .next (s.mgmtVerified (s.bootCopy 2).isSome idOk
      (mgmtSlots (List.replicate 32 0) (((s.otpBlock).map Config.sha3).getD (List.replicate 32 0))
        (((s.bootCopy 2).map (·.2)).getD (List.replicate 32 0)))).startConv := by
  have hrun : exec .mgmtFirmwareVerified s = execMgmtFirmwareVerified s := rfl
  rw [hrun]
  unfold execMgmtFirmwareVerified
  rw [if_neg (by simp [haux, hread, hup])]
  generalize s.bootCopy 2 = copy, List.replicate 32 (0 : Byte) = z
  cases copy with
  | none => exact ⟨_, rfl⟩
  | some c => exact ⟨_, rfl⟩

theorem does_mgmtFirmwareVerified {s : State} (haux : s.pwr.aux = true) (hread : s.boot.otpRead = true)
    (hup : s.boot.mgmtUp = false) : Does .mgmtFirmwareVerified s (fun t =>
      t.boot.mgmtUp = true ∧ t.sec.mgmtFw = some (s.bootCopy 2).isSome ∧
      t.sec.slots.getD 0 [] = ((s.otpBlock).map Config.sha3).getD (List.replicate 32 0) ∧
      t.sec.slots.getD 1 [] = ((s.bootCopy 2).map (·.2)).getD (List.replicate 32 0) ∧
      (∀ i, 2 ≤ i → i < 8 → t.sec.slots.getD i [] = List.replicate 32 0) ∧
      ((s.bootCopy 2).isSome = true → s.pwr.v48 = true → s.pwr.lockout = false → s.pwr.tripped = false →
        s.pwr.conv = false → t.pwr.conv = true ∧ t.pwr.spine = true ∧ t.domOn domHub = true)) := by
  obtain ⟨idOk, hexec⟩ := exec_mgmtFirmwareVerified haux hread hup
  generalize List.replicate 32 (0 : Byte) = z at hexec ⊢
  generalize ((s.otpBlock).map Config.sha3).getD z = otp, ((s.bootCopy 2).map (·.2)).getD z = firm,
    (s.bootCopy 2).isSome = fw at hexec ⊢
  obtain ⟨u, hu⟩ : ∃ u, s.mgmtVerified fw idOk (mgmtSlots z otp firm) = u := ⟨_, rfl⟩
  have hslots : u.startConv.sec.slots = mgmtSlots z otp firm :=
    (congrArg Sec.slots (State.startConv_see (π := State.sec) u (by simp))).trans (hu ▸ rfl)
  rw [hu] at hexec
  refine ⟨_, hexec, ?_, ?_, ?_, ?_, fun i hlo hhi => ?_, fun hfw h48 hlock htrip hconv => ?_⟩
  · exact (congrArg Boot.mgmtUp (State.startConv_see (π := State.boot) u (by simp))).trans (hu ▸ rfl)
  · exact (congrArg Sec.mgmtFw (State.startConv_see (π := State.sec) u (by simp))).trans (hu ▸ rfl)
  · rw [hslots]
    rfl
  · rw [hslots]
    rfl
  · rw [hslots]
    exact getD_mgmtSlots hlo hhi
  · subst hu
    exact (State.startConv_due (s := s.mgmtVerified fw idOk (mgmtSlots z otp firm)) haux (congrArg some hfw) h48 hlock htrip
      hconv).2

/-! ### The runtimes -/

/-- A runtime's start takes its lead pair from OFF to STARTING where its partition is ready, and no other pair. -/
theorem State.st_startRuntime (s : State) (p k : Nat) : ((s.startRuntime p).pair k).st =
    if s.leadOf p = some k ∧ s.sec.keeperFw = some true ∧ (s.part p).ready = true ∧ (s.pair k).st = .off then .starting
    else (s.pair k).st := by
  unfold State.startRuntime
  split
  next hlead => simp [hlead]
  next j hlead =>
    split
    next h => rw [if_neg (by rintro ⟨hk, hfw, hready, hoff⟩; cases hlead.symm.trans hk; simp [hfw, hready, hoff] at h)]
    next h =>
      obtain ⟨hfw, hready, hoff⟩ : s.sec.keeperFw = some true ∧ (s.part p).ready = true ∧ (s.pair j).st = .off := by
        simpa only [not_or, not_not] using h
      refine (congrArg (fun l => (SMap.get Pair.reset l k).st) (foldl_see (π := State.pairs) _
        (fun u i => State.startTimer_see _ _ _ _ (by simp)) _ _)).trans ((congrArg Pair.st (State.pair_updPair ..)).trans ?_)
      by_cases hjk : k = j
      · subst hjk
        simp [hlead, hfw, hready, hoff]
      · simp [hjk, hlead, Ne.symm hjk]

/-- A lead pair that is OFF or STARTING is STARTING once the runtime of its ready partition was started. -/
theorem State.st_startRuntimes {k : Nat} {c : PartCfg} (l : List PartCfg) (s : State) (hc : c ∈ l)
    (hlead : s.leadOf c.num = some k) (hfw : s.sec.keeperFw = some true) (hready : (s.part c.num).ready = true)
    (hst : (s.pair k).st = .off ∨ (s.pair k).st = .starting) :
    ((l.foldl (fun s c => s.startRuntime c.num) s).pair k).st = .starting := by
  have hkept : ∀ (l : List PartCfg) (s : State), (s.pair k).st = .starting →
      ((l.foldl (fun s c => s.startRuntime c.num) s).pair k).st = .starting := fun l => by
    induction l with
    | nil => exact fun s h => h
    | cons x l ih =>
      refine fun s h => ih _ ((s.st_startRuntime x.num k).trans ?_)
      simp [h]
  induction l generalizing s with
  | nil => cases hc
  | cons x l ih =>
    have hstep := s.st_startRuntime x.num k
    rcases List.mem_cons.1 hc with rfl | hc
    · refine hkept l _ (hstep.trans ?_)
      rcases hst with hst | hst <;> simp [hlead, hfw, hready, hst]
    · have himg : (s.startRuntime x.num).img = s.img := State.startRuntime_see (π := State.img) _ _ (by simp)
      have hsec : (s.startRuntime x.num).sec = s.sec := State.startRuntime_see (π := State.sec) _ _ (by simp)
      have hparts : (s.startRuntime x.num).parts = s.parts := State.startRuntime_see (π := State.parts) _ _ (by simp)
      refine ih (s.startRuntime x.num) hc ((State.leadOf_of_img himg _).trans hlead) (hsec ▸ hfw) ?_ ?_
      · exact (congrArg (fun m => (SMap.get Part.reset m c.num).ready) hparts).trans hready
      · rw [hstep]
        split
        · exact .inr rfl
        · exact hst

/-- The state that holds the verified keeper firmware, before the runtimes start. -/
def State.keeperVerified (s : State) (b : Bool) (d : List Byte) : State :=
  { s with sec := { s.sec with keeperFw := some true, keeperCopyB := b, slots := s.sec.slots.set 2 d } }

theorem exec_keeperFirmwareVerified_none {s : State} (hfw : s.sec.mgmtFw = some true) (hkeep : s.sec.keeperFw = none)
    (hheld : s.startHeld = false) (hcopy : s.bootCopy 1 = none) :
    exec .keeperFirmwareVerified s = .next { s with sec := { s.sec with keeperFw := some false } } := by
  refine congrArg Host.Outcome.next ((if_neg (by simp [hfw, hkeep, hheld])).trans ?_)
  simp only [hcopy]

theorem does_keeperFirmwareVerified {s : State} {b : Bool} {d : List Byte} (hfw : s.sec.mgmtFw = some true)
    (hkeep : s.sec.keeperFw = none) (hheld : s.startHeld = false) (hcopy : s.bootCopy 1 = some (b, d)) :
    Does .keeperFirmwareVerified s (fun t => t.sec.keeperFw = some true ∧ t.sec.keeperCopyB = b ∧
      t.sec.slots = s.sec.slots.set 2 d ∧
      (∀ c ∈ s.partsOf, ∀ k, s.leadOf c.num = some k → (s.part c.num).ready = true → (s.pair k).st = .off →
        (t.pair k).st = .starting)) := by
  have hexec : exec .keeperFirmwareVerified s =
      .next (s.partsOf.foldl (fun s c => s.startRuntime c.num) (s.keeperVerified b d)) := by
    refine congrArg Host.Outcome.next ((if_neg (by simp [hfw, hkeep, hheld])).trans ?_)
    simp only [hcopy]
    rfl
  have hsec : (s.partsOf.foldl (fun s c => s.startRuntime c.num) (s.keeperVerified b d)).sec = (s.keeperVerified b d).sec :=
    foldl_see (π := State.sec) _ (fun u c => State.startRuntime_see _ _ (by simp)) _ _
  exact ⟨_, hexec, congrArg Sec.keeperFw hsec, congrArg Sec.keeperCopyB hsec, congrArg Sec.slots hsec,
    fun c hc k hlead hready hoff => State.st_startRuntimes s.partsOf (s.keeperVerified b d) hc hlead rfl hready (.inl hoff)⟩

/-! ### Lockout -/

theorem does_inputLockout {s : State} (haux : s.pwr.aux = true) (past : Bool) : Does (.inputLockout past) s (fun t =>
    t.pwr.lockout = true ∧ t.pwr.v48 = false ∧ t.pwr.conv = false ∧ t.pwr.spine = false ∧ t.pwr.on = 0 ∧ t.rels = [] ∧
    t.flash = s.flash ∧ t.otp = s.otp ∧ (t.flags .pwr 0 0x58).getLsbD (if past then 27 else 28) = true) := by
  obtain ⟨u, hu⟩ : ∃ u, s.loseAll = u := ⟨_, rfl⟩
  have hexec : exec (.inputLockout past) s = .next (({ u with pwr := { u.pwr with v48 := false, lockout := true } } : State).flag
      .pwr 0 0x58 (if past then bit 27 else bit 28)) := by
    rw [← hu]
    exact congrArg Host.Outcome.next (if_neg (not_not.2 haux))
  have hflash : u.flash = s.flash := hu ▸ State.loseAll_see (π := State.flash) s (by simp)
  have hotp : u.otp = s.otp := hu ▸ State.loseAll_see (π := State.otp) s (by simp)
  have hoff : u.pwr.conv = false ∧ u.pwr.spine = false ∧ u.pwr.on = 0 ∧ u.rels = [] := hu ▸ ⟨rfl, rfl, rfl, rfl⟩
  obtain ⟨hconv, hspine, hon, hrels⟩ := hoff
  refine ⟨_, hexec, rfl, rfl, hconv, hspine, hon, hrels, hflash, hotp, ?_⟩
  rw [State.flags_flag, BitVec.getLsbD_or, Bool.or_eq_true]
  right
  cases past <;> decide

end Sys2Proof.Machine
open Sys2Proof Sys2Proof.Machine

/-- Settles O55: each step of the start from the state its guard asks for, and each loss from the state it builds. -/
theorem startUpFollowsItsSteps : Obligations.StartUpFollowsItsSteps := by
  unfold Obligations.StartUpFollowsItsSteps
  refine ⟨fun s => ⟨fun h => congrArg Host.Outcome.next (if_pos h), does_auxPowerUp, does_auxPowerLoss s⟩,
    fun s => ⟨fun h => congrArg Host.Outcome.next (if_pos ?_), does_mgmtFirmwareVerified⟩,
    fun s => ⟨fun h => congrArg Host.Outcome.next (if_pos ?_), fun hfw hkeep hheld =>
      ⟨exec_keeperFirmwareVerified_none hfw hkeep hheld, fun b d => does_keeperFirmwareVerified hfw hkeep hheld⟩⟩,
    fun s => ⟨fun ⟨haux, hfw, hlock, htrip, hconv⟩ => ⟨_, rfl, State.startConv_due haux hfw rfl hlock htrip hconv⟩, fun h => ?_⟩,
    fun past s => ⟨fun h => congrArg Host.Outcome.next (if_pos (Bool.eq_false_iff.1 h)), fun h => does_inputLockout h past⟩⟩
  · simpa using h
  · simpa [Option.isSome_iff_ne_none] using h
  · exact congrArg Host.Outcome.next (State.startConv_held fun ⟨haux, hfw, _, hlock, htrip, hconv⟩ =>
      h ⟨haux, hfw, hlock, htrip, hconv⟩)

end
